-- ==== Sys2Proof/Word.lean ====
section
/-! DEFINITION. The word types of the register space. -/

namespace Sys2Proof

/-- One word of the register space (R345). -/
abbrev Word := BitVec 32

/-- One byte. -/
abbrev Byte := BitVec 8

end Sys2Proof
end

