-- ==== Sys2Proof/Syntax.lean ====
section
/-! DEFINITION. The commands of the block: their operand types and the one inductive Instr, a constructor for each row of
the table of operations and events. -/

namespace Sys2Proof

/-- What a cluster or auxiliary time converter latches at an edge (R49, table TDC-1): two copies of the low 20 bits of
the coarse count, the eight sampled phases and the vernier code. -/
structure RawCapture where
  c0 : BitVec 20
  c4 : BitVec 20
  therm : BitVec 8
  vraw : BitVec 5
  deriving DecidableEq, Repr

/-- Which calibration batch closes: a column group's own, or instance k of an auxiliary channel or of a port's time-transfer
converter, whose ring-oscillator histogram comes with it (R61, R66). -/
inductive CalBatch where
  | group (r g : Fin 16)
  | aux (ch : Fin 4) (k : Fin 2) (h : Vector Nat 128)
  | timeTransfer (p : Fin 6) (k : Fin 2) (h : Vector Nat 128)
  deriving DecidableEq, Repr

/-- What a clapper carries (R76, table Timebase-2); TB times in fu. -/
structure Clap where
  seq : BitVec 16
  txPrev : Nat
  rxSeq : BitVec 16
  rxTime : Nat
  tq : BitVec 4
  stepGen : BitVec 8
  flags : BitVec 4
  /-- its CLAP_B is there, with a good CHK -/
  whole : Bool := true
  deriving DecidableEq, Repr

/-- The head every PTP message brings: whether over UDP, version, domain, sending port, sequence number, correctionField
in 1/65,536 ns and logMessageInterval (R79, R80). -/
structure PtpHead where
  udp : Bool
  version : Nat
  domain : Nat
  source : Nat
  seq : BitVec 16
  corr : Int
  logInterval : Int
  deriving DecidableEq, Repr

/-- The data set of an Announce message, for the best master clock algorithm (R79). -/
structure PtpAnnounce where
  priority1 : BitVec 8
  clockClass : BitVec 8
  accuracy : BitVec 8
  variance : BitVec 16
  priority2 : BitVec 8
  gmId : BitVec 64
  stepsRemoved : BitVec 16
  utcOffset : Int
  deriving DecidableEq, Repr


/-- A word written by one of the ten writers of R355: the eight sessions, relay, JTAG. -/
structure WriterWord where
  who : Fin 10
  word : BitVec 32
  deriving DecidableEq, Repr

/-- The internal SRAM macros of table Store-6, by region where each region has one. -/
inductive SramMac where
  | bank (r : Fin 16)
  | fabric
  | reorder (r : Fin 16)
  | assembler
  | merge
  | remapTable
  | caches
  | tdc (r : Fin 16)
  | mask (r : Fin 16)
  deriving DecidableEq, Repr

/-- A word of an internal SRAM found wrong: corrected, or uncorrectable and, where it is reloaded, whether the load fails
(R207). -/
structure SramHit where
  mac : SramMac
  row : BitVec 16
  word : BitVec 8
  uncorr : Bool
  loadFails : Bool
  deriving DecidableEq, Repr

/-- What reading a fabric word finds (R181, R182). -/
inductive WordRead where
  | good
  /-- a single bit of the word's lane -/
  | corrected (lane : Fin 8)
  /-- a single bit of the word's tag -/
  | correctedTag
  | uncorrectable
  /-- the error lies in the word's tag -/
  | badTag
  deriving DecidableEq, Repr

/-- What a relay request does at its target: a read of n words or a write of words at an address of the register space, a commit
at a named tick, tick parameters that take effect at a named tick, the decision latency, or the root's leave to claim a child with a
strap-derived ID (R12, R137, R239, R259). -/
inductive RelayOp where
  | read (fixed : Bool) (addr n : Nat)
  | write (fixed : Bool) (addr : Nat) (ws : List Nat)
  | commit (tick : Nat)
  | ticks (tick num den : Nat) (epoch : Int) (base : Nat)
  | fixLat (ns : Nat)
  | admitted (child : Nat)
  deriving DecidableEq, Repr

/-- A relay request (R259): the originating module, its relay sequence, the target, the session's level, the operation. -/
structure RelayReq where
  src : Nat
  seq : BitVec 16
  target : Nat
  level : Nat
  op : RelayOp
  deriving DecidableEq, Repr

/-- A relay reply (R259): the answering module, the request's source and sequence, the status and the words read. -/
structure RelayRep where
  from_ : Nat
  src : Nat
  seq : BitVec 16
  status : Nat
  words : List Nat
  deriving DecidableEq, Repr

/-- What a HELLO carries (table Lanes-2). -/
structure Hello where
  revMax : BitVec 4
  linkRev : BitVec 4
  port : BitVec 3
  lane : BitVec 1
  down : Bool
  split : Bool
  ack : Bool
  leaving : Bool
  feat : BitVec 32
  moduleId : BitVec 32
  fwVer : BitVec 16
  mrole : BitVec 2
  deriving DecidableEq, Repr

/-- What a TRAIN carries (table Lanes-2). -/
structure Train where
  preCmd : BitVec 2
  postCmd : BitVec 2
  preset : Bool
  rxReady : Bool
  reqSeq : BitVec 4
  statSeq : BitVec 4
  preSt : BitVec 2
  postSt : BitVec 2
  deriving DecidableEq, Repr

/-- A HEART (table Lanes-2): its acknowledgements and the credit limits of VC 0 to 4 (R242). -/
structure Heart where
  seq : BitVec 8
  ackV : Bool
  tackV : Bool
  standby : Bool
  ackSeq : BitVec 16
  tack : BitVec 8
  cred : Vector (BitVec 12) 5
  deriving DecidableEq, Repr

/-- A frame as it ends: the bytes of its data blocks and its FEND (R227); n1 and last1 are NBLK - 1 and LAST - 1. -/
structure RxFrame where
  data : List (BitVec 8)
  seq : BitVec 16
  n1 : BitVec 5
  vc : BitVec 3
  last1 : BitVec 4
  ackV : Bool
  ackSeq : BitVec 16
  fcrc : BitVec 32
  deriving DecidableEq, Repr

/-- A held packet as a HORIZON lists it: source module, STREAM and PKT_SEQ (R249). -/
structure HeldName where
  mod_ : BitVec 32
  stream : BitVec 8
  seq : BitVec 32
  deriving DecidableEq, Repr

/-- A sample of a housekeeping input: its raw code, signed for a thermometer; what the code 65,535 stands for with nominal factors, in nV for a
thermometer and else in the unit of table Housekeeping-1 (the ranges of R303 give it for a bias monitor); and whether the clamp conducted
(R302, R307). -/
structure HkaSample where
  code : BitVec 16
  full : Int
  clamp : Bool
  deriving DecidableEq, Repr

/-- What self-calibration measures of a converter (R306, table Housekeeping-11). -/
structure CalFactors where
  ofs : Int
  gain : Nat
  range0 : Nat
  range1 : Nat
  range2 : Nat
  iexc : Nat
  deriving DecidableEq, Repr

/-- Where a received frame is addressed (table Host-1): MAC_ADDR, all, the two groups of PTP (R79; that of 224.0.1.129 and
01-1B-19-00-00-00), or elsewhere. -/
inductive EthDst where
  | mac | broadcast | ptpIp | ptp | other
  deriving DecidableEq, Repr

/-- What a received frame carries behind its tags (R266 to R273). -/
inductive EthBody where
  /-- ARP: a request or a reply, its sender's and its target's address -/
  | arp (req : Bool) (sip tip : BitVec 32)
  /-- IPv4: fragment or options, addresses, protocol and UDP destination port; for port 68 the transaction ID, for RoCE the
  destination QP and opcode; icmp8 for an echo request; the source port -/
  | ip (bad : Bool) (src dst : BitVec 32) (proto : BitVec 8) (icmp8 : Bool) (sport dport : BitVec 16) (xid : BitVec 32)
      (qpn : BitVec 24) (op : BitVec 8)
  /-- PTP over Ethernet -/
  | ptp
  /-- PAUSE, IPv6 and every other EtherType -/
  | other
  deriving DecidableEq, Repr

/-- A received Ethernet frame as the filter sees it (R270): its length, its FCS, its tags outermost first, its body. -/
structure EthFrame where
  len : Nat
  fcs : Bool
  dst : EthDst
  tags : List (BitVec 16)
  body : EthBody
  deriving DecidableEq, Repr

/-- A DHCP message of the server (R269): its type (2 OFFER, 5 ACK, 6 NAK), transaction ID, addresses, and the options 1, 3
and 51: mask, router and lease in seconds. -/
structure DhcpMsg where
  ty : Nat
  xid : BitVec 32
  server : BitVec 32
  yip : BitVec 32
  mask : BitVec 32
  router : BitVec 32
  lease : Nat
  deriving DecidableEq, Repr

/-- The NAKs of R276; an RNR NAK names a wait, here in ns. -/
inductive NakKind where
  | sequence
  | rnr (ns : Nat)
  | access
  | invalid
  deriving DecidableEq, Repr

/-- What start-up finds (R239, R338 to R340, R369): the strap contacts, bytes 0 to 3 of the carrier identity EEPROM when an
attempt to read them succeeded, whether the store trained, for each row of the store repair log whether its bank takes the soft
repair, the rows March C- finds failing, and what HKA's calibration measures. -/
structure StartUp where
  strapRole : BitVec 2
  strapPos : BitVec 4
  carrier : Option (BitVec 32)
  trained : Bool
  soft : List Bool
  march : List (SramMac × BitVec 16)
  cal : Vector CalFactors 4
  deriving DecidableEq, Repr

/-- Who accesses a register (R354, table Pages-2): session 0 to 7, 8 relay, 9 JTAG; and the level: 0 OBSERVE, 1 OPERATE, 2 OWN. -/
structure Accessor where
  who : Fin 10
  lvl : Fin 3
  deriving DecidableEq, Repr

/-- What every Thabor message brings beside TARGET_ID and its body (R285, table Host-6): the sender, THB_VER, MTYPE, KEY_SLOT, SESSION, SALT,
MSG_SEQ, BODY_LEN and TAG, its first byte highest, and whether it came to the link-local address. The body is given by what it says. -/
structure ThbHead where
  ip : BitVec 32
  port : BitVec 16
  ver : BitVec 8
  mtype : BitVec 8
  slot : BitVec 8
  sess : BitVec 8
  salt : BitVec 32
  seq : BitVec 64
  bodyLen : BitVec 16
  tag : BitVec 128
  local_ : Bool
  deriving DecidableEq, Repr

/-- An operation of a REQUEST (R289). -/
inductive ThbOp where
  | read (fixed : Bool) (count : Nat) (addr : BitVec 32)
  | write (fixed : Bool) (addr : BitVec 32) (ws : List (BitVec 32))
  | fwData (off : BitVec 32) (ws : List (BitVec 32))
  | nop (count : Nat)
  deriving DecidableEq, Repr


/-- The commands the block takes: one constructor for each row of the table of operations and events. The first
operand of each is its instant t, in fine units on the module's own coarse scale. -/
inductive Instr where
  /-- R18: VIN rises above 5.6 V with PWR_EN and RESET_N high, moving the module from OFF to START and beginning the start-up sequence. -/
  | powerOn (t : Nat)
  /-- R364: VIN stays below the falling undervoltage threshold for longer than 5 µs and the module goes to OFF, losing the store contents. -/
  | vinUndervoltage (t : Nat)
  /-- R367: A filtered low level on PWR_EN puts the module in OFF. -/
  | pwrEnLow (t : Nat)
  /-- R367: A filtered low level on RESET_N holds every block in COLD reset and puts the module in OFF. -/
  | resetNLow (t : Nat)
  /-- R339: The start-up sequence completes and PWR_STATE becomes READY, or SAFE when a level 4 fault is uncleared. -/
  | startComplete (t : Nat) (x : StartUp)
  /-- R340: A rail not in regulation within 20 ms holds PMR in START, and the rail sequence is retried every 1 s. -/
  | railRetry (t : Nat)
  /-- R18: PWR_CMD code 0x0 withdraws ACQUIRE-enable in READY, requests READY from STANDBY, or leaves SAFE once all level 4 faults are cleared. -/
  | pwrCmdReady (t : Nat)
  /-- R19: PWR_CMD code 0x1 accepted in READY clears every BIAS_EN and starts the ramp-down toward STANDBY; it is refused in other states. -/
  | pwrCmdStandby (t : Nat)
  /-- R18: PWR_CMD code 0x2 in READY sets ACQ_ENABLED, which permits ACQUIRE. -/
  | pwrCmdAcquireEnable (t : Nat)
  /-- R18: PWR_CMD code 0x3 from an OWN session enters SAFE at once; from a lower level it is ignored and PWR_CMD_ERR is set. -/
  | pwrCmdSafe (t : Nat) (own : Bool)
  /-- R19: At the first tick boundary or pacing instant at which every region's bias is below 1 V, the module enters STANDBY and the store enters self-refresh. -/
  | standbyEntry (t : Nat)
  /-- R18: At the first tick boundary at least 50 ms after PWR_CMD = READY, STANDBY returns to READY and the retained blocks resume. -/
  | standbyExit (t : Nat)
  /-- R18: At the tick boundary after the last FINAL, once all mode words are zero, ACQUIRE returns to READY. -/
  | acquireToReady (t : Nat)
  /-- R323: At the next tick boundary after an accepted PWR_CMD = READY, SAFE is left for READY and event record 0x1305 is sent. -/
  | safeExit (t : Nat)
  /-- R10: The placed instant of tick k is reached and the per-tick work of the boundary runs. -/
  | tickBoundary (t : Nat)
  /-- R14: While TICK_RUN is clear, the 1 ms pacing timer expires and stands in for a tick boundary. -/
  | pacingInstant (t : Nat)
  /-- R117: TB time reaches TICK_EPOCH of the first committed schedule, tick TICK_BASE falls, and TICK_RUN is set. -/
  | tickScheduleStart (t : Nat)
  /-- R114: A write of COMMIT captures every RWC shadow as one staged configuration and sets COMMIT_PEND, or is ignored with COMMIT_BUSY. -/
  | commit (t : Nat)
  /-- R115: At its target boundary, the staged configuration is checked and is either put in force whole or rejected whole. -/
  | commitBoundary (t : Nat)
  /-- R118: Every mode drained in a region has delivered its FINAL product, and REGION_FINAL is set. -/
  | regionDrainDone (t : Nat) (r : Fin 16)
  /-- R119: A write of REGION_ABORT bit n aborts every mode of region n at once, discarding work in flight and closing packets with TRUNC. -/
  | regionAbort (t : Nat) (m : BitVec 16)
  /-- R28: Writing a BIAS_EN bit to 1 starts the region's bias ramp when the state, temperature source and OC_TRIP allow it, and otherwise sets BIAS_EN_ERR. -/
  | biasEnSet (t : Nat) (r : Fin 16)
  /-- R29: Writing a BIAS_EN bit to 0 ramps the region's bias down at RAMP_RATE to below 1 V. -/
  | biasEnClear (t : Nat) (r : Fin 16)
  /-- R28: A region's setpoint first reaches its target, and RAMPING clears. -/
  | biasRampDone (t : Nat) (r : Fin 16)
  /-- R30: Bias current stays above OC_LIMIT for OC_FILT µs; the crowbar fires, BIAS_EN clears, OC_TRIP is set and a level 2 fault is raised. -/
  | regionOvercurrent (t : Nat) (r : Fin 16)
  /-- R31: Total bias rail current stays above OC_TOTAL for 2 µs, raising a level 4 supply fault and entering SAFE. -/
  | railOvercurrent (t : Nat)
  /-- R35: A comparator edge increments the pixel counter and reaches the cluster's combined line, opening a capture window if none is open. -/
  | pixelEdge (t : Nat) (r : Fin 16) (c : Fin 16384) (p : Fin 16) (raw : RawCapture)
  /-- R34: A pixel's hold-off and recharge complete, and it can fire again. -/
  | pixelHoldoffEnd (t : Nat) (r : Fin 16) (c : Fin 16384) (p : Fin 16)
  /-- R57: A cluster's 10 ns capture window closes, and the resolved capture with its hit mask enters the cluster queue. -/
  | captureWindowClose (t : Nat) (r : Fin 16) (c : Fin 16384)
  /-- R47: A write of FE_ABORT quenches the pixels at once, discards open windows, truncates the counter frame and clears FE_EN. -/
  | feAbort (t : Nat) (r : Fin 16)
  /-- R41: A write of MASK_DATA writes the shadow mask word at MASK_ADDR and auto-increments the address. -/
  | maskDataWrite (t : Nat) (r : Fin 16) (v : BitVec 32)
  /-- R41: A read of MASK_DATA returns the shadow or in-force mask word and auto-increments MASK_ADDR. -/
  | maskDataRead (t : Nat) (r : Fin 16)
  /-- R42: A write of MASK_SAVE starts storing the masks in force to flash, or is ignored and counted while a save is busy. -/
  | maskSave (t : Nat)
  /-- R42: The mask image save completes and MASK_SAVE_BUSY clears. -/
  | maskSaveDone (t : Nat)
  /-- R43: A write of HOT_CLR empties the hot list, clears HOT_FULL, makes every pixel eligible again and restarts the runs. -/
  | hotClr (t : Nat) (r : Fin 16)
  /-- R37: A counter frame transfer completes; the saturated and masked pixel counts pass to EVB. -/
  | frameTransferDone (t : Nat) (r : Fin 16)
  /-- R45: The pulse generator issues a scheduled pulse to the selected pixels, opening TEST windows. -/
  | injectedPulse (t : Nat) (r : Fin 16)
  /-- R59: The region readout takes one queue entry from the next non-empty cluster, extends its coarse count and passes it to EVB. -/
  | clusterReadoutVisit (t : Nat) (r : Fin 16)
  /-- R70: The last queued entry of a draining region has passed EVB, and TDC_FINAL is set. -/
  | tdcDrainDone (t : Nat) (r : Fin 16)
  /-- R70: A write of TDC_ABORT discards windows, queues and the region's words in flight, and truncates the EVENT packet. -/
  | tdcAbort (t : Nat) (r : Fin 16)
  /-- R61: A column group's histogram reaches 2^20 accepted captures, and the batch is measured and bounds-checked. -/
  | calBatchClose (t : Nat) (b : CalBatch)
  /-- R63: A batch not closed CAL_TMAX seconds after its first capture is discarded, and CAL_TIMEOUT increments. -/
  | calBatchTimeout (t : Nat) (r : Fin 16) (g : Fin 16)
  /-- R64: A write of CAL_RESET reloads the factory tables of all 16 groups at the next boundary, clears CALOK and discards the histograms. -/
  | calReset (t : Nat) (r : Fin 16)
  /-- R65: A write of CAL_LOAD checks the shadow table of LOAD_GRP and puts it in force at the next boundary with CALOK from LOAD_OK. -/
  | calLoad (t : Nat) (r : Fin 16)
  /-- R114: An access to TDC_OFF reads or writes the shadow or in-force offset at OFS_ADDR and auto-increments the address. -/
  | tdcOffAccess (t : Nat) (r : Fin 16) (w : Option (BitVec 32))
  /-- R66: An edge on SYNC_IN, TRIG_IN0, TRIG_IN1 or PPS_IN is stamped by its auxiliary channel, or skipped within the 3.2 ns dead time. -/
  | auxEdge (t : Nat) (ch : Fin 4) (falling : Bool) (raw : RawCapture) (refs : Nat)
  /-- R66: After 2^20 edges the auxiliary channel alternates to its other, calibrated TDC instance. -/
  | auxInstanceSwap (t : Nat) (ch : Fin 4)
  /-- R68: The per-microsecond phase spacing measurement sets or clears CLK_BAD and can raise CLK_FAULT. -/
  | phaseMonitor (t : Nat) (spacingBad : Bool) (pllLost : Bool)
  /-- R73: No REF_IN edge for 2 µs sets REF_LOST and clears REF_QUAL. -/
  | refLoss (t : Nat)
  /-- R73: A 1 ms window measures REF_IN against the oscillator and updates REF_BAD and REF_QUAL. -/
  | refWindow (t : Nat) (ppb : Int)
  /-- R74: No PPS_IN edge within 1.000 s + 10 µs sets PPS_LOST and clears PPS_QUAL. -/
  | ppsTimeout (t : Nat)
  /-- R75: Every 100 µs a REF_IN edge is stamped and the EXT phase error is formed. -/
  | extPhaseUpdate (t : Nat) (raw : RawCapture)
  /-- R81: A higher source qualified for 10 s with SRC_REVERT set replaces the active source. -/
  | srcRevertTimer (t : Nat)
  /-- R86: Holdover lasting longer than HO_WARN seconds sends one further event record. -/
  | holdoverWarn (t : Nat)
  /-- R234: Every 1 ms a link sends a CLAP_A and CLAP_B pair on its clapper lane, and the marker is stamped. -/
  | clapperTx (t : Nat) (l : Fin 10)
  /-- R77: A received clapper is stamped and paired to compute theta and delay for the port. -/
  | clapperRx (t : Nat) (l : Fin 10) (lane : Fin 2) (c : Clap)
  /-- R78: 3 ms without a usable clapper pair removes CLAP qualification. -/
  | clapTimeout (t : Nat) (l : Fin 10)
  /-- R79: A received Announce feeds the best master clock algorithm. -/
  | ptpAnnounceRx (t : Nat) (h : PtpHead) (a : PtpAnnounce)
  /-- R79: A two-step Sync is stamped on arrival, or is discarded when twoStepFlag is clear. -/
  | ptpSyncRx (t : Nat) (h : PtpHead) (twoStep : Bool)
  /-- R79: A Follow_Up supplies the Sync origin time t1. -/
  | ptpFollowUpRx (t : Nat) (h : PtpHead) (t1 : Nat)
  /-- R79: A Delay_Req is sent at the master's interval and stamped on departure. -/
  | ptpDelayReqTx (t : Nat)
  /-- R79: A Delay_Resp completes an exchange and gives the servo one update. -/
  | ptpDelayRespRx (t : Nat) (h : PtpHead) (t4 : Nat)
  /-- R79: The announce receipt timeout of 3 intervals expires, and PTP loses qualification. -/
  | ptpAnnounceTimeout (t : Nat)
  /-- R79: 4 Sync intervals pass without a complete Follow_Up, and PTP loses qualification. -/
  | ptpSyncTimeout (t : Nat)
  /-- R84: An OWN write of STEP_CMD steps TB time to TIME_SET at the next coarse edge, or is refused in ACQUIRE. -/
  | stepCmd (t : Nat) (own : Bool)
  /-- R84: A write of TIME_SET's highest word checks the value; before the first source qualifies, a passing value is put in force as a step. -/
  | timeSetWrite (t : Nat) (w : BitVec 128)
  /-- R90: A write of SNAP_REQ latches TB time and the coarse count at the next coarse edge and sets SNAP_DONE. -/
  | snapReq (t : Nat)
  /-- R90: A read of TIME_NOW captures TB time at execution into the reader's snapshot. -/
  | timeNowRead (t : Nat)
  /-- R91: A write of FREQ_WORD takes effect in MANUAL mode and is otherwise ignored with CFG_ERR. -/
  | freqWordWrite (t : Nat) (v : BitVec 32)
  /-- R89: At each TB second plus PPS_OUT_OFS, PPS_OUT pulses for PPS_WIDTH ms according to PPS_OUT_MODE. -/
  | ppsOutPulse (t : Nat)
  /-- R100: The placed gate start is reached and counting is enabled for the region. -/
  | gateOpen (t : Nat) (r : Fin 16)
  /-- R100: The placed gate stop is reached and counting is disabled. -/
  | gateClose (t : Nat) (r : Fin 16)
  /-- R121: A word whose h is older than TB time minus REORDER_WIN is released in time order. -/
  | eventWordRelease (t : Nat) (r : Fin 16)
  /-- R123: The release front passes the next tick instant, and tick k of the region closes. -/
  | tickClose (t : Nat) (r : Fin 16)
  /-- R107: The dump completes and the coalescing buffer is merged into the bank. -/
  | histoDumpDone (t : Nat) (r : Fin 16)
  /-- R127: Once every product figure of tick k is known, EVB emits the tick's frame head, or suppresses an idle head. -/
  | frameHeadEmit (t : Nat) (r : Fin 16)
  /-- R133: A write of SOFT_REQ raises trigger input i4 at the TB time of the write. -/
  | softReq (t : Nat)
  /-- R130: A write of MARK emits a marker slate at the TB time of the write. -/
  | mark (t : Nat)
  /-- R134: Every 100 ns, rate conditions A and B count readout entries over RATE_WIN and may rise. -/
  | rateEval (t : Nat)
  /-- R135: A merge interval of REQ_MERGE ns ends, and one merged request goes to the primary parent or to the decision. -/
  | requestMergeEnd (t : Nat)
  /-- R230: A received trigger request block joins the merge, with duplicate TSEQs dropped. -/
  | treqRx (t : Nat) (l : Fin 10) (tseq : BitVec 8) (cls : BitVec 4) (n : BitVec 8) (src : BitVec 32) (time : BitVec 56)
  /-- R136: At the root the DEC_COINC window ends and a decision is made, rejected or held off. -/
  | decisionWindowEnd (t : Nat)
  /-- R137: A received decision block is relayed down and scheduled for action at TT + TRIG_FIX_LAT. -/
  | tdecRx (t : Nat) (l : Fin 10) (tseq : BitVec 8) (cls : BitVec 4) (id : BitVec 32) (time : BitVec 56)
  /-- R137: The action instant of a decision is reached, opening windows and takes and sourcing TRIG_OUT. -/
  | triggerAction (t : Nat)
  /-- R139: A TRIG_OUT pulse starts TO_OFS after its source instant and drives the bus high. -/
  | trigOutPulseStart (t : Nat) (o : Fin 2)
  /-- R139: A TRIG_OUT pulse of TO_WIDTH ends and the driver leaves the bus. -/
  | trigOutPulseEnd (t : Nat) (o : Fin 2)
  /-- R140: The release front passes TT + WIN_POST, and the region emits its window slate and closes the take. -/
  | windowClose (t : Nat) (r : Fin 16)
  /-- R159: A chunk is complete in the chunk buffer, and its form is chosen and it is emitted. -/
  | chunkComplete (t : Nat) (r : Fin 16) (packBad : Bool)
  /-- R153: The dynamic code table built from the block histogram becomes ready for the stream's next block. -/
  | dynTableReady (t : Nat) (r : Fin 16) (k : Fin 5)
  /-- R163: A packet stalled for STALL_LIMIT µs is forced closed with TRUNC, and the rest of its block is discarded. -/
  | stallLimit (t : Nat) (r : Fin 16)
  /-- R168: A write of CMP_ABORT aborts the region as REGION_ABORT does. -/
  | cmpAbort (t : Nat) (r : Fin 16)
  /-- R167: A read of CTX_DATA returns a context word, latching the live context at word 0, and advances CTX_IDX.
  The operand r names the region and the reader, whose snapshot the read uses. -/
  | ctxDataRead (t : Nat) (r : Fin 16 × Fin 10)
  /-- R167: A write of CTX_DATA writes the load buffer word and advances CTX_IDX, or is ignored with CFG_ERR in the live view. -/
  | ctxDataWrite (t : Nat) (r : Fin 16) (v : WriterWord)
  /-- R167: A write of CTX_LOAD checks the load buffer and puts the context in force at the next boundary. -/
  | ctxLoad (t : Nat) (r : Fin 16)
  /-- R175: Fabric space or a patch entry becomes free, and a waiting producer opens its packet or resumes its stall. -/
  | grantAvailable (t : Nat) (src : Fin 21)
  /-- R176: CAB's merge buffer accepts a slot patch, and the QUE patch entry is freed. -/
  | patchAccept (t : Nat)
  /-- R180: A packet waits HOLD_LIMIT µs, and its forwarding consumer is released with the packet marked HELD. -/
  | holdLimit (t : Nat) (item : Nat)
  /-- R181: A fabric word is read, and a single-bit error is corrected. -/
  | fabricWordRead (t : Nat) (item : Nat) (word : Nat) (res : WordRead)
  /-- R195: A complete group is written with its check line in one pass into its reel extent. -/
  | groupWrite (t : Nat) (prod : Fin 24) (reel : Fin 64)
  /-- R196: A merge-buffer read-modify-write of a stored line completes. -/
  | mergeOpDone (t : Nat) (errs : List (Nat × Nat))
  /-- R188: Command 0x01 defines a shelf of consecutive units with one code class. -/
  | shelfDef (t : Nat)
  /-- R188: Command 0x02 deletes a shelf, refused while the shelf holds a reel. -/
  | shelfDel (t : Nat)
  /-- R189: Command 0x03 defines a linear or ring reel, first fit in a shelf, with its full policy. -/
  | reelDef (t : Nat)
  /-- R189: Command 0x04 deletes a reel and its takes. -/
  | reelDel (t : Nat)
  /-- R189: Command 0x05 deletes a reel's takes and restarts it at its first extent. -/
  | reelClear (t : Nat)
  /-- R192: Command 0x06 opens a take on a reel at a named tick and returns its number. -/
  | takeStart (t : Nat)
  /-- R192: Command 0x07 ends a take at a named tick. -/
  | takeStop (t : Nat)
  /-- R192: Command 0x08 releases a ring take from protection. -/
  | takeRelease (t : Nat)
  /-- R192: Command 0x09 deletes a take and frees or releases its extents. -/
  | takeDelete (t : Nat)
  /-- R192: Command 0x0A copies a take directory entry into DIR_DATA. -/
  | dirRead (t : Nat)
  /-- R209: A reserved CMD_OP code is not executed, and CFG_ERR is set. -/
  | cmdOpReserved (t : Nat)
  /-- R198: A write of OFL_START begins delivering take OFL_TAKE from OFL_FROM as QC4 items. -/
  | oflStart (t : Nat)
  /-- R209: A write of OFL_ABORT stops the offload after the packets already read. -/
  | oflAbort (t : Nat)
  /-- R198: The offload reaches the take's end, and OFL_STATE reads complete. -/
  | offloadDone (t : Nat)
  /-- R201: The scrubber reads one written group and writes back or poisons its lines. -/
  | scrubGroupRead (t : Nat) (errs : List (Nat × Nat)) (both : Bool)
  /-- R205: A write of REPAIR_RUN in READY starts post-package repair of the remapped spans. -/
  | repairRun (t : Nat)
  /-- R205: Post-package repair of the remapped spans completes and REPAIR_BUSY clears. -/
  | repairDone (t : Nat) (fixed : List Bool)
  /-- R221: The rate-hunt alternation timer expires, and the lane switches rate. -/
  | rateHuntSwitch (t : Nat) (l : Fin 10) (j : Fin 2)
  /-- R217: 64 consecutive valid headers declare block lock, and the lane moves to HELLO. -/
  | blockLock (t : Nat) (l : Fin 10) (j : Fin 2)
  /-- R217: 16 invalid headers in the last 64 lose block lock, and the lane fails. -/
  | lockLoss (t : Nat) (l : Fin 10) (j : Fin 2)
  /-- R218: Input below 40 mV for 1 µs declares loss of signal and takes the lane out of its state. -/
  | lossOfSignal (t : Nat) (l : Fin 10) (j : Fin 2)
  /-- R218: Input above 40 mV for 10 µs clears loss of signal. -/
  | signalReturn (t : Nat) (l : Fin 10) (j : Fin 2)
  /-- R216: A block arrives and is dropped and counted when its header, CHK or TYPE is bad. -/
  | lineBlockRx (t : Nat) (l : Fin 10) (j : Fin 2) (line : List Bool)
  /-- R213: A FILL loads or checks the scrambler state and is available to the elastic buffer. -/
  | fillRx (t : Nat) (l : Fin 10) (j : Fin 2) (scr : BitVec 31) (n : Fin 33)
  /-- R222: Every 10 µs after lock the lane sends a HELLO. -/
  | helloTx (t : Nat) (l : Fin 10) (j : Fin 2)
  /-- R222: A received HELLO sets ACK, agrees LINK_REV and moves the lane to TRAIN or COMPAT. -/
  | helloRx (t : Nat) (l : Fin 10) (j : Fin 2) (h : Hello)
  /-- R222: 1 ms after the HELLO exchange with ACK, both partners switch to LINK_REV's rate. -/
  | revSwitch (t : Nat) (l : Fin 10) (j : Fin 2)
  /-- R222: 20 ms without a HELLO starts compatibility equalisation, and 200 ms fails the lane. -/
  | helloTimeout (t : Nat) (l : Fin 10) (j : Fin 2)
  /-- R223: A TRAIN block's tap command is applied and echoed, or its status is taken. -/
  | trainRx (t : Nat) (l : Fin 10) (j : Fin 2) (m : Train)
  /-- R223: A receiver with 10^6 clean blocks and enough eye margin sets RX_READY. -/
  | rxReady (t : Nat) (l : Fin 10) (j : Fin 2)
  /-- R223: Missing partner TRAIN blocks send the lane to COMPAT, and training past 500 ms fails. -/
  | trainTimeout (t : Nat) (l : Fin 10) (j : Fin 2)
  /-- R224: A 100 µs CTLE sweep step ends, and after the last step the best setting is kept or the lane fails. -/
  | compatSweepStep (t : Nat) (l : Fin 10) (j : Fin 2) (bad margin : Nat)
  /-- R231: After 8,192 stream blocks an ALIGN pair is sent on both lanes. -/
  | alignTx (t : Nat) (l : Fin 10)
  /-- R231: An ALIGN pair deskews the lanes, or sets ALIGN_ERR and discards blocks. -/
  | alignRx (t : Nat) (l : Fin 10) (a b : BitVec 16) (skew : Nat)
  /-- R225: BACKOFF_NOW ms elapse, and the lane returns to rate hunt. -/
  | backoffDone (t : Nat) (l : Fin 10) (j : Fin 2)
  /-- R242: A frame is sent on a VC once credits and replay buffer room allow. -/
  | frameTx (t : Nat) (l : Fin 10)
  /-- R227: A FEND completes a frame, which is accepted, discarded as a duplicate or NAKed. -/
  | frameRx (t : Nat) (l : Fin 10) (f : RxFrame)
  /-- R228: A cumulative ACK_SEQ frees acknowledged frames from the replay buffer. -/
  | ackRx (t : Nat) (l : Fin 10) (n : BitVec 16)
  /-- R228: A NAK replays frames in order from NAK_SEQ. -/
  | nakRx (t : Nat) (l : Fin 10) (n : BitVec 16)
  /-- R228: 0.5 µs after a good frame with no acknowledgement sent, a standalone ACK is sent. -/
  | ackTx (t : Nat) (l : Fin 10)
  /-- R228: REPLAY_TMO µs without ACK progress replays from the oldest frame, and RETRY_MAX takes the link down. -/
  | replayTimeout (t : Nat) (l : Fin 10)
  /-- R229: Every 1.0 µs a link in UP sends a HEART with acknowledgements and credits. -/
  | heartTx (t : Nat) (l : Fin 10)
  /-- R229: A good HEART updates acknowledgements, TACK and credit limits. -/
  | heartRx (t : Nat) (l : Fin 10) (h : Heart)
  /-- R229: No good HEART for HB_MISS µs sets SILENT and takes the link down. -/
  | silent (t : Nat) (l : Fin 10)
  /-- R230: Every 3 µs unacknowledged trigger blocks are resent. -/
  | trigResend (t : Nat) (l : Fin 10)
  /-- R232: A RESTRIPE moves the partner's stream onto the named lanes and is answered with ACK. -/
  | restripeRx (t : Nat) (l : Fin 10) (lanes : BitVec 2) (ack : Bool)
  /-- R233: A recovered lane reaches ALIGN on both sides, and two-lane dealing resumes after the RESTRIPE exchange. -/
  | laneRejoin (t : Nat) (l : Fin 10)
  /-- R236: A write of PORT_ABORT discards the replay buffer and disables the port at once. -/
  | portAbort (t : Nat) (m : BitVec 6)
  /-- R236: A write of RETRAIN fails a lane without doubling BACKOFF_NOW, restriping first. -/
  | retrain (t : Nat) (l : Fin 10) (m : BitVec 2)
  /-- R240: A child receiving ENUM answers ENUM_REPLY requesting primary or standby and forwards ENUM down. -/
  | enumRx (t : Nat) (l : Fin 10) (src root : BitVec 32) (hop : BitVec 16) (assign feat : BitVec 32)
  /-- R240: An ENUM_REPLY is recorded and forwarded, and at the root it assigns IDs and recomputes TREE_FEAT. -/
  | enumReplyRx (t : Nat) (l : Fin 10) (id parent : BitVec 32) (role : BitVec 1) (feat : BitVec 32) (fw : BitVec 16) (rev : BitVec 8)
  /-- R240: No CLAIM within 1 ms repeats ENUM_REPLY, up to 8 times, then raises a fault. -/
  | enumReplyTimeout (t : Nat)
  /-- R238: A child with no ENUM within 2 s of READY raises a topology fault. -/
  | enumWaitTimeout (t : Nat)
  /-- R240: A write of ENUM_START at the root enumerates the tree again. -/
  | enumStart (t : Nat)
  /-- R253: A CLAIM above HELD_CLAIM is accepted, demotes the other parent and starts standby replay; lower claims are refused. -/
  | claimRx (t : Nat) (l : Fin 10) (no : BitVec 32)
  /-- R253: A claimant receives CLAIM_ACK and adds the child as a primary input, or marks it standby. -/
  | claimAckRx (t : Nat) (l : Fin 10) (no : BitVec 32) (result : BitVec 1) (held : BitVec 32)
  /-- R253: A standby parent receiving LOST claims the child with the next generation. -/
  | lostRx (t : Nat) (l : Fin 10) (held : BitVec 32)
  /-- R253: No CLAIM within 4 µs of LOST repeats it, up to 3 times, then raises a fault. -/
  | lostTimeout (t : Nat)
  /-- R253: A former primary receiving DEMOTE marks the child standby. -/
  | demoteRx (t : Nat) (l : Fin 10) (no : BitVec 32)
  /-- R253: A granted or revoked STBY_OK moves an uplink between OFFERED and STANDBY. -/
  | stbyOkRx (t : Nat) (l : Fin 10) (child : BitVec 32) (grant : Bool)
  /-- R245: A HORIZON updates the child link's completeness and records the held packets it lists. -/
  | horizonRx (t : Nat) (l : Fin 10) (tick : BitVec 48) (claim : BitVec 32) (cnt : Vector (BitVec 64) 4) (held : List HeldName)
  /-- R246: Own input and every primary child link are complete through k, so tick k passes up and HORIZON is sent. -/
  | mergeHorizonAdvance (t : Nat)
  /-- R247: A child still incomplete MERGE_WAIT ticks later is given up for those ticks with GAP records. -/
  | mergeGiveUp (t : Nat) (l : Fin 10)
  /-- R249: After 10 µs of VC2 and VC3 idle, held packets are sent up as VC4 held deliveries. -/
  | heldDelivery (t : Nat) (l : Fin 10)
  /-- R255: A parent sends CONFIRM after 4 KiB of advance or 5 µs after any advance. -/
  | confirmTx (t : Nat) (l : Fin 10)
  /-- R255: A CONFIRM frees forward-log entries and advances the reel delivery position. -/
  | confirmRx (t : Nat) (l : Fin 10) (conf : Vector (BitVec 64) 4)
  /-- R254: A TOPO updates subtree tables, and at the root recomputes D and re-checks standby grants. -/
  | topoRx (t : Nat) (l : Fin 10) (child parent no : BitVec 32)
  /-- R262: A FEATSET is relayed and scheduled at EFFECT_TICK, or applied late with TICK_SLIP. -/
  | featsetRx (t : Nat) (l : Fin 10) (feat : BitVec 32) (tick : BitVec 48)
  /-- R258: An OWN write of CLAIM_REQ makes this parent claim its granted standby child on link l. -/
  | claimReq (t : Nat) (m : BitVec 10) (own : Bool)
  /-- R238: A write of ROLE_SW stores the role in the boot record for the next reset. -/
  | roleSwWrite (t : Nat) (v : BitVec 2)
  /-- R259: A relay request is routed down, or applied in relay-sequence order and answered with a status. -/
  | relayRequestRx (t : Nat) (l : Fin 10) (q : RelayReq)
  /-- R259: A relay reply is forwarded toward the root and gathered into the Thabor reply. -/
  | relayReplyRx (t : Nat) (l : Fin 10) (p : RelayRep)
  /-- R290: A relay with no answer within 10 ms receives status 0x03. -/
  | relayTimeout (t : Nat) (seq : BitVec 16)
  /-- R265: PCS and FEC lock with no fault ordered sets set LINK_UP, and QPs resume by go-back-N. -/
  | ethLinkUp (t : Nat)
  /-- R272: LINK_UP clears, the frame in transmission is lost and QPs hold their state. -/
  | ethLinkDown (t : Nat)
  /-- R270: A received Ethernet frame is filtered by FCS, tagging and Table Host-1, or discarded and counted. -/
  | ethFrameRx (t : Nat) (f : EthFrame)
  /-- R269: An ARP request is answered, or a reply resolves a next hop for a QP. -/
  | arpRx (t : Nat) (req : Bool) (sip : BitVec 32) (smac : BitVec 48) (tip : BitVec 32)
  /-- R269: 3 unanswered requests 1 s apart declare a destination unresolved. -/
  | arpTimeout (t : Nat) (ip : BitVec 32)
  /-- R269: A cache entry is refreshed every 60 s. -/
  | arpRefresh (t : Nat) (ip : BitVec 32)
  /-- R274: A QP in RESOLVING retries next-hop resolution every 1 s. -/
  | qpResolveRetry (t : Nat) (q : Fin 8)
  /-- R269: A DHCP message of the current exchange advances the client and may take an address. -/
  | dhcpRx (t : Nat) (m : DhcpMsg)
  /-- R269: At half the lease the client renews. -/
  | dhcpRenew (t : Nat)
  /-- R269: At seven eighths of the lease the client rebinds. -/
  | dhcpRebind (t : Nat)
  /-- R269: The lease expires, the address is given up and ADDR_VALID clears. -/
  | dhcpLeaseExpire (t : Nat)
  /-- R269: An echo request is answered within ICMP_RATE, or discarded and counted. -/
  | icmpEchoRx (t : Nat) (src : BitVec 32) (id : BitVec 32)
  /-- R268: A PFC frame for PFC_PRIO pauses RoCE frames of that priority. -/
  | pfcFrameRx (t : Nat) (en : BitVec 8) (quanta : Vector (BitVec 16) 8)
  /-- R268: The pause time expires, and paused transmission resumes. -/
  | pfcPauseEnd (t : Nat)
  /-- R275: A QP writes ring entries as an RDMA WRITE with immediate message once data and ring space are available. -/
  | roceMessageTx (t : Nat) (q : Fin 8)
  /-- R276: A cumulative ACK retires packets and unprotects their reel positions. -/
  | roceAckRx (t : Nat) (q : Fin 8) (psn : BitVec 24)
  /-- R276: A NAK starts go-back-N, schedules an RNR wait, or puts the QP in ERROR. -/
  | roceNakRx (t : Nat) (q : Fin 8) (psn : BitVec 24) (k : NakKind)
  /-- R276: ACK_TMO µs without an ACK restarts go-back-N, and RETRY_CNT such timeouts put the QP in ERROR. -/
  | ackTmo (t : Nat) (q : Fin 8)
  /-- R276: The RNR time expires, and the QP resends from the named PSN. -/
  | rnrWaitEnd (t : Nat) (q : Fin 8)
  /-- R277: A CNP increments CNP_RX and cuts the QP's RATE when ECN is enabled. -/
  | cnpRx (t : Nat) (q : Fin 8)
  /-- R277: Each RECOV_US µs without a CNP raises RATE by RAI MB/s. -/
  | rateRecovery (t : Nat) (q : Fin 8)
  /-- R279: A write of QP_CI reports the host consumer index, ignored with CFG_ERR beyond PI. -/
  | qpCiWrite (t : Nat) (q : Fin 8) (v : BitVec 32)
  /-- R294: A write of QP_ABORT stops the QP and releases its packets as held. -/
  | qpAbort (t : Nat) (m : BitVec 8)
  /-- R287: A Thabor OPEN is authenticated and answered with an OPEN_REPLY that opens or refuses a session. -/
  | openReq (t : Nat) (h : ThbHead) (level : BitVec 8) (nonce : BitVec 64)
  /-- R288: A Thabor REQUEST is authenticated, replay-checked and its operations executed in order with one REPLY. -/
  | request (t : Nat) (h : ThbHead) (target : BitVec 32) (rest : List (BitVec 8)) (ops : List ThbOp)
  /-- R287: A Thabor CLOSE closes the session and is answered with CLOSE_REPLY. -/
  | closeReq (t : Nat) (h : ThbHead)
  /-- R287: A session with no valid message for SESS_IDLE seconds closes. -/
  | sessionIdle (t : Nat) (n : Fin 8)
  /-- R291: A write of a key slot's word 3 puts the staged key in force and closes the slot's sessions. -/
  | keyWrite (t : Nat) (a : Accessor) (slot : Fin 7) (v : BitVec 32)
  /-- R291: A write of KEY_LEVEL changes the slot's level from the next message, unless it would leave no OWN key. -/
  | keyLevelWrite (t : Nat) (a : Accessor) (slot : Fin 7) (v : BitVec 2)
  /-- R291: A write of KEY_REVOKE empties the slot and closes its sessions. -/
  | keyRevoke (t : Nat) (a : Accessor) (slot : Fin 7)
  /-- R292: A write of KEY_CLEAR from a slot 7 session empties slots 0 to 6. -/
  | keyClear (t : Nat) (a : Accessor)
  /-- R292: A new PROVISION_EN level taken after 10 samples enables or drops slot 7 and the link-local address. -/
  | provisionEnChange (t : Nat) (level : Bool)
  /-- R293: A write of FW_BEGIN starts erasing the inactive slot for a transfer of FW_SIZE bytes. -/
  | fwBegin (t : Nat) (own : Bool)
  /-- R293: The erase completes, and FW_STATE moves to RECEIVING. -/
  | fwEraseDone (t : Nat) (flashErr : Bool)
  /-- R293: A write of FW_VERIFY starts checking the blocks, digest and signature of the image. -/
  | fwVerify (t : Nat) (own : Bool)
  /-- R293: Verification ends with FW_STATE VALID or the failure found. -/
  | fwVerifyDone (t : Nat) (flashErr : Bool)
  /-- R293: A write of FW_ABORT ends the transfer and marks the slot invalid. -/
  | fwAbort (t : Nat) (own : Bool)
  /-- R297: A scan converts all 32 inputs over 8 µs, with range changes, clamps and limit checks. -/
  | hkaScan (t : Nat) (v : Vector HkaSample 32)
  /-- R298: The shared excitation count reverses the RTD polarity at each half-period. -/
  | rtdReversal (t : Nat)
  /-- R299: An excitation period ends, and a two-period RTD result is published or withheld. -/
  | rtdPeriodEnd (t : Nat)
  /-- R300: The per-microsecond excitation monitor compares current and compliance on each enabled channel. -/
  | rtdMonitor (t : Nat) (dev : BitVec 4)
  /-- R306: A write of CAL_REQ starts a self-calibration, deferred after an injection, or ignored during one. -/
  | calReq (t : Nat)
  /-- R306: The CAL_PERIOD timer starts a self-calibration. -/
  | hkaCalPeriodic (t : Nat)
  /-- R306: Self-calibration ends and its factors are applied, or it fails with CAL_FAIL. -/
  | hkaCalDone (t : Nat) (f : Vector CalFactors 4)
  /-- R307: A write of INJ_REQ requests an injected conversion, which can abort a calibration if urgent. -/
  | injReq (t : Nat)
  /-- R307: The injected conversion completes into INJ_RESULT and INJ_VALUE, and INJ_DONE is set. -/
  | hkaInjDone (t : Nat) (x : HkaSample)
  /-- R310: A TEC_PWM period starts, taking new TEC_PER and TEC_DUTY values. -/
  | tecPeriodStart (t : Nat)
  /-- R315: FLT takes a detector's fault, applies escalation and shadowing, reacts, logs and reports it. -/
  | faultTake (t : Nat)
  /-- R320: A reaction shadow of SHADOW_US µs closes. -/
  | shadowExpiry (t : Nat)
  /-- R318: A write of ACK_REAL for a class moves its RAISED real entries to ACKNOWLEDGED. -/
  | ackReal (t : Nat) (m : BitVec 15)
  /-- R318: A write of ACK_INJ for a class moves its RAISED injected entries to ACKNOWLEDGED. -/
  | ackInj (t : Nat) (m : BitVec 15)
  /-- R318: A write of CLR_REAL clears the class's real side when all entries are acknowledged and COND is clear. -/
  | clrReal (t : Nat) (m : BitVec 15) (own : Bool)
  /-- R318: A write of CLR_INJ clears the class's injected side under the same conditions. -/
  | clrInj (t : Nat) (m : BitVec 15) (own : Bool)
  /-- R324: A write of INJ_GO raises an injected fault, simulated or performed according to INJ_ACT. -/
  | injGo (t : Nat)
  /-- R328: A core member's output disagrees, so it is excluded, resynchronised or retired. -/
  | voterMismatch (t : Nat) (o : Vector (BitVec 32) 3)
  /-- R328: A resynchronising member finishes copying and rejoins the lockstep. -/
  | resyncDone (t : Nat) (m : Fin 3)
  /-- R329: The restarted core runs again, CORE_RESTARTED is set and 0x1308 is sent. -/
  | coreRestartDone (t : Nat)
  /-- R341: A write of RST_MODULE from OWN or JTAG performs a WARM reset that keeps the store, refused in ACQUIRE. -/
  | rstModule (t : Nat) (own jtag : Bool)
  /-- R337: A write of BLK_RST bit b in READY with all modes 0 holds block b and its crossings in reset. -/
  | blkRst (t : Nat) (m : BitVec 20) (own : Bool)
  /-- R337: After 10 µs the reset block is released in order with its start-up state. -/
  | blockResetRelease (t : Nat) (b : Fin 20) (strapRole : BitVec 2) (strapPos : BitVec 4)
  /-- R343: A write of FW_ACTIVATE with FW_STATE VALID sets TRIAL to the inactive slot in the boot record. -/
  | fwActivate (t : Nat) (own : Bool)
  /-- R343: A write of FW_CONFIRM makes the trial slot ACTIVE and clears TRIAL. -/
  | fwConfirm (t : Nat) (own : Bool)
  /-- R343: CONFIRM_TMO seconds after READY without FW_CONFIRM, the trial ends. -/
  | confirmTmo (t : Nat)
  /-- R349: A write to a register with no row of its own sets each writable field by its type, subject to privilege and R7. -/
  | registerWrite (t : Nat) (a : Accessor) (addr v : BitVec 32)
  /-- R353: A read of word 0 of a multi-word value captures the whole value into the reader's snapshot. -/
  | multiwordCapture (t : Nat) (a : Accessor) (addr : BitVec 32)
  /-- R355: A write of a multi-word value's highest word puts the writer's staged words into effect together. -/
  | multiwordCommit (t : Nat) (a : Accessor) (addr v : BitVec 32)
  /-- R356: A write of REVERT copies the page's in-force RWC values into the shadow and clears SHADOW_DIRTY. -/
  | revert (t : Nat) (a : Accessor) (blk : Fin 20) (page : Fin 17)
  /-- R359: An OWN write of RD_MASK or WR_MASK changes the page's privilege from the next message. -/
  | privMaskWrite (t : Nat) (a : Accessor) (blk : Fin 20) (page : Fin 17) (v : BitVec 32)
  /-- R73: REF_IN edges resume after a loss, which clears REF_LOST and starts the 100 ms qualification of REF_IN again. -/
  | refInResume (t : Nat)
  /-- R133: A trigger input's LOC_COINC activity time runs out, which changes the lookup index and can make a LOCAL_LUT class bit rise and raise a request. -/
  | locCoincExpiry (t : Nat) (inp : Fin 5)
  /-- R222: A lane that has switched to LINK_REV's rate and has not locked again within 100 ms fails and goes to BACKOFF. -/
  | relockTimeout (t : Nat) (l : Fin 10) (j : Fin 2)
  /-- R207: Every 10 ms the internal SRAM scrubber reads the remap table, the extent and directory caches, the TDC tables and offsets and the pixel masks; it corrects them, counts toward a hard word, or on an uncorrectable word reloads from shadow, system area or flash with a level 2 fault. -/
  | sramScrub (t : Nat) (hits : List SramHit)
  /-- R367: A filtered return to high of RESET_N or PWR_EN, with VIN already above 5.6 V, takes the module from OFF to START. -/
  | resetReleaseHigh (t : Nat) (rstN : Bool)
  deriving DecidableEq, Repr

end Sys2Proof
end

