-- ==== Sys2Proof/Decode.lean ====
section
/-! DEFINITION. The command a word of the table spells. The table of operations and events gives no row any bits: commands
reach the block as operations and events, never as words, so no word spells one. -/

namespace Sys2Proof

/-- The command whose nbits bits are w: none, since no row of the table has bits (DESIGN CHOICE, log entry 10:
safe). -/
def decodeTableWord (_nbits _w : Nat) : Option Instr := none

end Sys2Proof
end

