-- ==== Sys2Proof/Machine/Bits.lean ====
section
/-! DEFINITION. Bit fields, signed readings, rounding, and the check sums the spec names. -/

namespace Sys2Proof.Machine

/-- Bits [lo + w - 1 : lo] of v. -/
def bits (v lo w : Nat) : Nat := (v >>> lo) % 2 ^ w

/-- Bit n of v. -/
def bit (v n : Nat) : Bool := (v >>> n) % 2 == 1

/-- v with bits [lo + w - 1 : lo] replaced by x. -/
def setBits (v lo w x : Nat) : Nat :=
  v - (bits v lo w <<< lo) + ((x % 2 ^ w) <<< lo)

/-- v with bit n set or clear. -/
def setBit (v n : Nat) (b : Bool) : Nat := setBits v n 1 (if b then 1 else 0)

/-- 1 for true, 0 for false. -/
def b2n (b : Bool) : Nat := if b then 1 else 0

/-- The two's complement reading of a w-bit value. -/
def sgn (w v : Nat) : Int := if v % 2 ^ w < 2 ^ (w - 1) then (v % 2 ^ w : Nat) else (v % 2 ^ w : Nat) - (2 ^ w : Nat)

/-- The w-bit two's complement code of x. -/
def toU (w : Nat) (x : Int) : Nat := (x % (2 ^ w : Nat)).toNat

/-- x kept between the least and the greatest w-bit signed value. -/
def satS (w : Nat) (x : Int) : Int :=
  let m : Int := (2 ^ (w - 1) : Nat)
  if x < -m then -m else if m - 1 < x then m - 1 else x

/-- x kept between lo and hi. -/
def clampI (lo hi x : Int) : Int := if x < lo then lo else if hi < x then hi else x

/-- x kept at or below m (a saturating count). -/
def satN (m x : Nat) : Nat := if m < x then m else x

/-- a / b rounded to the nearest whole number, a half toward plus infinity. -/
def roundHalfUp (a : Int) (b : Nat) : Int := (2 * a + b) / (2 * b : Nat)

/-- a / b rounded toward zero. -/
def truncDiv (a : Int) (b : Nat) : Int := Int.tdiv a b

/-- The smallest whole number not below a / b. -/
def ceilDiv (a b : Nat) : Nat := (a + b - 1) / b

/-- How many of the low w bits of v are set. -/
def popCount (v w : Nat) : Nat := (List.range w).countP (fun i => bit v i)

/-- The numbers of the bits set among the low w bits of v, ascending. -/
def bitsSet (v w : Nat) : List Nat := (List.range w).filter (fun i => bit v i)

/-- The n bytes of v, lowest first. -/
def bytesLE (n v : Nat) : List Nat := (List.range n).map (fun i => bits v (8 * i) 8)

/-- The number whose bytes, lowest first, are bs. -/
def ofBytesLE (bs : List Nat) : Nat := bs.foldr (fun b acc => b % 256 + 256 * acc) 0

/-- The number whose bytes, highest first, are bs. -/
def ofBytesBE (bs : List Nat) : Nat := bs.foldl (fun acc b => acc * 256 + b % 256) 0

/-- One step of a reflected CRC with reversed polynomial poly. -/
def crcReflStep (poly c : Nat) : Nat := if c % 2 == 1 then (c / 2) ^^^ poly else c / 2

/-- One byte through a reflected CRC. -/
def crcReflByte (poly c b : Nat) : Nat :=
  (List.range 8).foldl (fun a _ => crcReflStep poly a) (c ^^^ (b % 256))

/-- CRC-32C (Castagnoli) over bytes, initial value and final inversion of all ones. -/
def crc32c (bs : List Nat) : Nat := (bs.foldl (crcReflByte 0x82F63B78) 0xFFFFFFFF) ^^^ 0xFFFFFFFF

/-- CRC-32 (IEEE 802.3) over bytes. -/
def crc32 (bs : List Nat) : Nat := (bs.foldl (crcReflByte 0xEDB88320) 0xFFFFFFFF) ^^^ 0xFFFFFFFF

/-- CRC-8 over bytes, most significant bit first, polynomial 0x07, from initial value init. -/
def crc8 (init : Nat) (bs : List Nat) : Nat :=
  bs.foldl (fun c b => (List.range 8).foldl
    (fun a _ => if bit a 7 then ((a * 2) ^^^ 0x07) % 256 else (a * 2) % 256) (c ^^^ (b % 256))) init

/-- x put before the first element of a list that p holds of. -/
def insertBy {α : Type} (p : α → Bool) (x : α) : List α → List α
  | [] => [x]
  | a :: l => if p a then x :: a :: l else a :: insertBy p x l

/-- The first i below n for which p holds, counting from k. -/
def firstFrom (p : Nat → Bool) (k n : Nat) : Option Nat :=
  ((List.range n).map (fun j => (k + j) % n)).find? p

end Sys2Proof.Machine
end

