-- ==== Sys2Proof/Machine/Sparse.lean ====
section
/-! DEFINITION. Sparse memories: a list of (key, value) pairs in one canonical form, keys strictly rising and no entry
equal to what an unlisted key reads as. -/

namespace Sys2Proof.Machine

/-- A sparse memory: keys and values, keys strictly rising. -/
abbrev Sp := List (Nat × Nat)

/-- The value at key k; d where k is not listed. -/
def spGet (m : Sp) (k d : Nat) : Nat :=
  match m with
  | [] => d
  | (a, v) :: r => if a == k then v else spGet r k d

/-- m with the entry of key k left out. -/
def spDel (m : Sp) (k : Nat) : Sp := m.filter (fun e => e.1 != k)

/-- m with the entry (k, v) put before the first greater key. -/
def spIns (m : Sp) (k v : Nat) : Sp :=
  match m with
  | [] => [(k, v)]
  | (a, w) :: r => if k < a then (k, v) :: (a, w) :: r else (a, w) :: spIns r k v

/-- m with key k holding v, where an unlisted k reads d: the entry goes when v is d. -/
def spSet (m : Sp) (k v d : Nat) : Sp :=
  if v == d then spDel m k else spIns (spDel m k) k v

/-- The entries whose key lies in [lo, hi). -/
def spRange (m : Sp) (lo hi : Nat) : Sp := m.filter (fun e => lo ≤ e.1 && e.1 < hi)

/-- m without the entries whose key lies in [lo, hi). -/
def spClear (m : Sp) (lo hi : Nat) : Sp := m.filter (fun e => !(lo ≤ e.1 && e.1 < hi))

/-- The entries of fo where q holds of the key, those of sh elsewhere. -/
def spMix (sh fo : Sp) (q : Nat → Bool) : Sp :=
  (fo.filter (fun e => q e.1)).foldl (fun m e => spIns m e.1 e.2) (sh.filter (fun e => !q e.1))

/-- The keys strictly rise. -/
def spSorted : Sp → Bool
  | [] => true
  | [_] => true
  | (a, _) :: (b, w) :: r => a < b && spSorted ((b, w) :: r)

/-- The canonical form for an unlisted value d: keys strictly rise and no entry equals d at its key. -/
def spWf (d : Nat → Nat) (m : Sp) : Bool := spSorted m && m.all (fun e => e.2 != d e.1)

end Sys2Proof.Machine
end

