-- ==== Sys2Proof/Machine/Types.lean ====
section
/-! DEFINITION. The records State is made of: for each block, what the spec gives it beside its registers. -/

namespace Sys2Proof.Machine

open Sys2Proof

/-- The power states of table Architecture-7. -/
inductive Pwr where
  | off | start | standby | ready | acquire | safe
  deriving DecidableEq, Repr

/-- An event record (R282, table Host-4). -/
structure EvRec where
  ty : Nat
  sev : Nat := 0xFF
  cls : Nat := 0
  modId : Nat
  time : Nat
  data : Nat := 0
  seq : Nat
  flags : Nat := 0
  deriving DecidableEq, Repr

/-- A fault as a detector hands it to FLT (R313 to R316): its class, level and unit, the instant, whether it is injected,
and the event record its rule names (type and data). -/
structure Det where
  cls : Nat
  lvl : Nat
  unit : Nat
  at_ : Nat
  inj : Bool := false
  ev : Option (Nat × Nat) := none
  /-- a record sent directly behind its own -/
  more : Option (Nat × Nat) := none
  /-- the link served the time parent when it was found (table Faults-3) -/
  par : Bool := false
  deriving DecidableEq, Repr

/-- The name of a packet: its stream, tick and PKT_SEQ (R179, R180). -/
structure PktId where
  mod_ : Nat
  region : Nat
  kind : Nat
  tick : Nat
  seq : Nat
  deriving DecidableEq, Repr

/-! ### PMR -/

/-- PMR beside its registers (R18, R337 to R344). -/
structure Pmr where
  /-- the contacts: VIN above its threshold, PWR_EN and RESET_N high -/
  vin : Bool := false
  pwrEn : Bool := true
  resetN : Bool := true
  /-- RESET_CAUSE of the start in progress or the last one, and when it began -/
  cause : Nat := 0
  startAt : Nat := 0
  /-- when the rail sequence in progress began, and from when PMR and FLT are out of reset in this start (tables Clocks-4, Clocks-5) -/
  railAt : Nat := 0
  upFrom : Nat := 0
  fltFrom : Nat := 0
  /-- the start in progress stands in the start-up count -/
  counted : Bool := false
  /-- what the program memory of each core member holds: 0 nothing yet, 1 and 2 the image of slot A and B, 3 the recovery firmware (R327) -/
  prog : Vector Nat 3 := .replicate 3 0
  /-- neither slot holds a valid image (R344) -/
  recovery : Bool := false
  /-- the reason of a trial's fallback, reported after READY; the slot run becomes ACTIVE at READY -/
  fallback : Option Nat := none
  setActive : Bool := false
  readyAt : Option Nat := none
  /-- CARRIER_ID (R369) -/
  carrier : Option Nat := none
  /-- when a STANDBY command was accepted in READY, while it waits for the bias to fall (R19) -/
  standbyPend : Option Nat := none
  /-- when a READY command was accepted in STANDBY, or in SAFE, while it waits for its boundary -/
  upAt : Option Nat := none
  /-- a WARM reset accepted, of this cause, while the reply to its write is still to be sent (R341) -/
  warm : Option Nat := none
  /-- blocks in a BLOCK reset and since when (R337) -/
  blk : List (Nat × Nat) := []
  deriving DecidableEq, Repr

/-- An image slot (table Clocks-7): the image it left the factory with, or the 256-byte blocks written since its last erase by
number, its size, and whether it is marked invalid. -/
structure FwSlot where
  factory : Bool := false
  bad : Bool := false
  size : Nat := 0
  blocks : Sp := []
  deriving DecidableEq, Repr

/-- What a contact of the module does (table Connector-6): high-impedance or released, electrical idle, driven low or high, or carrying
blocks. -/
inductive Pin where
  | highZ
  | idle
  | low
  | high
  | active
  deriving DecidableEq, Repr

/-- What the boot record has a start run (R343, R344): a slot, as a trial or not; the WARM reset a trial slot that fails its check ends in;
or the recovery firmware. -/
inductive Boot where
  | run (slot trial : Bool)
  | again
  | recovery
  deriving DecidableEq, Repr

/-- A copy of the boot record (table Clocks-7, R238, R343, R344): ROLE_SW, ACTIVE (slot B), TRIAL set, starts since manufacture, the ETH speed
held (true 25GBASE-R), and its sequence number. -/
structure BootRec where
  roleSw : Nat := 0
  active : Bool := false
  trial : Bool := false
  starts : Nat := 0
  ethSpeed : Option Bool := none
  seq : Nat := 0
  deriving DecidableEq, Repr

/-- What the flash device holds beside the factory data (table Clocks-7, R42, R343): the boot record and the images. -/
structure Flash where
  /-- the copy of the boot record in force: ROLE_SW, ACTIVE (slot B), TRIAL set, starts since manufacture, the ETH speed held, its sequence
  number -/
  roleSw : Nat := 0
  active : Bool := false
  trial : Bool := false
  starts : Nat := 0
  ethSpeed : Option Bool := none
  seq : Nat := 0
  /-- the copy not in force, which the next write goes to -/
  other : BootRec := {}
  slots : Vector FwSlot 2 := #v[{ factory := true }, {}]
  mask : Option Sp := none
  /-- rows of the store repair log: the first line of a row's span, and whether its repair was hard (R205) -/
  repairs : List (Nat × Bool) := []
  /-- spare rows used by SRAM macro (the soft-repair map) -/
  sram : Sp := []
  /-- spare rows by SRAM macro that the fuse map uses: not flash, but as lasting (R207) -/
  fuse : Sp := []
  deriving DecidableEq, Repr

/-! ### SNS -/

/-- A bias ramp under R28 or R29: since when, from how many mV, and whether it rises. -/
structure Ramp where
  t0 : Nat
  v0 : Nat
  up : Bool
  deriving DecidableEq, Repr

structure Sns where
  ramp : Vector (Option Ramp) 16 := .replicate 16 none
  deriving DecidableEq, Repr

/-! ### PFE -/

/-- A counter frame or BINARY frame: the region, the tick it holds the counts of, its non-zero pixels by pixel number
16 x cluster + index, and whether pulses were injected into that tick. -/
structure Frame where
  tick : Nat
  pix : Sp
  injected : Bool := false
  final : Bool := false
  /-- the mode word of its tick, the counter modes that end with it, and for ACCUM its sub-frame index, the shutter bit, whether
  the cycle ends with it, and whether that end is early or the last -/
  mode : Nat := 0
  ends : Nat := 0
  sub : Nat := 0
  shut : Bool := false
  cycEnd : Bool := false
  partial_ : Bool := false
  accFinal : Bool := false
  subs : Nat := 0
  since : Nat := 0
  /-- not transferred: its counts were discarded (R16, R85); jumped says that its tick lay wholly inside a step (R85) -/
  lost : Bool := false
  jumped : Bool := false
  /-- its products are handed over, but its transfer waits for the staging area (R109) -/
  passed : Bool := false
  deriving DecidableEq, Repr

/-- One region of the pixel front end: pixel numbers are 16 x cluster + index. -/
structure PfeR where
  counts : Sp := []
  /-- counts of the tick not yet begun by its boundary: edges at or after its swap edge (R36) -/
  next : Sp := []
  /-- the frame in the readout buffers, being transferred -/
  xfer : Option Frame := none
  /-- discarded frames behind it, for what still hangs on them (R16) -/
  behind : List Frame := []
  /-- the transfer of the present frame is done, for R16 -/
  xferDone : Bool := true
  /-- pixels in hold-off, with the instant of their edge plus one -/
  hold : Sp := []
  /-- ends of the open TEST windows of R46, by cluster -/
  testEnd : Sp := []
  hotRun : Sp := []
  hot : Sp := []
  /-- the hot list: pixel number and action applied -/
  hotList : List (Nat × Nat) := []
  /-- hot pixels whose action waits for the next boundary -/
  hotPend : List (Nat × Nat) := []
  /-- pulses now scheduled: their unrounded instants on the coarse scale, earliest first -/
  injDue : List Int := []
  /-- pulses of the tick not yet scheduled (INJ_REF 0), and SYNC_IN pulses scheduled in it (INJ_REF 1) -/
  injLeft : Nat := 0
  injSync : Nat := 0
  injIssued : Nat := 0
  /-- one more counter frame is owed, marked FINAL -/
  finalOwed : Bool := false
  deriving DecidableEq, Repr

structure Pfe where
  r : Vector PfeR 16 := .replicate 16 {}
  maskF : Sp := []
  maskS : Sp := []
  /-- the masks captured at MASK_SAVE, while it runs -/
  saving : Option Sp := none
  deriving DecidableEq, Repr

/-! ### TDC -/

/-- An open capture window of a cluster (R39, R56). -/
structure Win where
  cluster : Nat
  t0 : Nat
  raw : RawCapture
  pix : Nat
  mask : Nat
  edges : Nat
  test : Bool
  bad : Bool
  /-- CAL_DARK as the capture was made (R60) -/
  dark : Bool := false
  deriving DecidableEq, Repr

/-- A resolved capture in a cluster queue (R52, R58). -/
structure Entry where
  cluster : Nat
  t0 : Nat
  coarse20 : Nat
  fine : Nat
  pix : Nat
  mask : Nat
  multi : Bool
  test : Bool
  codeErr : Bool
  bad : Bool
  dark : Bool := false
  deriving DecidableEq, Repr

/-- A column group: its histogram, tables and calibration status (R60 to R65, table TDC-20). A table of none is the one in
the factory data. -/
structure TdcGroup where
  hist : Sp := []
  fill : Nat := 0
  first : Option Nat := none
  table : Option (List Nat) := none
  /-- the table in the inactive copy, waiting for its boundary, and whether it sets CALOK there -/
  next : Option (List Nat) := none
  nextOk : Bool := false
  load : Option (List Nat) := none
  /-- the tables lately replaced: the boundary, on the coarse scale, up to which each was in force, and its CALOK -/
  past : List (Int × Option (List Nat) × Bool) := []
  meas : List Nat := []
  calok : Bool := false
  conv : Bool := false
  rejRun : Nat := 0
  gen : Nat := 0
  resid : Nat := 0
  rej : Nat := 0
  timeout : Nat := 0
  drop : Nat := 0
  deriving DecidableEq, Repr

structure TdcR where
  g : Vector TdcGroup 16 := .replicate 16 {}
  wins : List Win := []
  queue : List Entry := []
  rr : Nat := 0
  /-- the dither generator's 16 bits; 0 stands for its seed, not yet used (R54) -/
  lfsr : Nat := 0
  codeErrTick : Nat := 0
  resetPend : Bool := false
  /-- tables loaded by CAL_LOAD that wait for their boundary: group, LOAD_OK, edges -/
  loadPend : List (Nat × Bool × List Nat) := []
  /-- TDC_EN was put in force as 0 and its drain is not over -/
  draining : Bool := false
  /-- the tick that ended as TDC_EN was put in force as 0 (R70) -/
  endTick : Option Nat := none
  /-- pulses counted in the readout notification crossing and not taken (R334), and those not carried this tick -/
  xing : Nat := 0
  xingLost : Nat := 0
  deriving DecidableEq, Repr

/-- An auxiliary channel (R66): the instant of the last stamped edge, the stamps of the last two milliseconds and
the one before them on the coarse scale (newest first, AUX_OFS not applied), the edge count, the instance in use, and both instances' tables. -/
structure AuxCh where
  last : Option Nat := none
  stamps : List Int := []
  ecount : Nat := 0
  inst : Nat := 0
  instEdges : Nat := 0
  i0 : TdcGroup := {}
  i1 : TdcGroup := {}
  div : Nat := 0
  queue : List Nat := []
  deriving DecidableEq, Repr

structure Tdc where
  r : Vector TdcR 16 := .replicate 16 {}
  aux : Vector AuxCh 4 := .replicate 4 {}
  offF : Sp := []
  offS : Sp := []
  good : Nat := 0
  caps : Nat := 0
  repairs : Nat := 0
  pllLost : Bool := false
  /-- CLK_BAD held at some time of the present tick (table Events-5) -/
  badTick : Bool := false
  deriving DecidableEq, Repr

/-! ### TBS -/

/-- The clapper exchange of one link (R76 to R78): own sequence and send times, the partner's last clapper and arrival
times, the delays of the latest pairs, and the partner's STEP_GEN last seen. -/
structure ClapSt where
  seq : Nat := 0
  /-- own clappers, newest first: sequence and TB time at the contacts -/
  tx : List (Nat × Nat) := []
  /-- the partner's clappers, newest first: sequence and own TB time at the contacts -/
  rx : List (Nat × Nat) := []
  delays : List Int := []
  pairs : Nat := 0
  lastPair : Option Nat := none
  theta : Int := 0
  delay : Int := 0
  tq : Nat := 15
  stepGen : Option Nat := none
  /-- the partner's STEP_GEN changed: the RX_SEQ of the clapper that showed it, until a pair behind it (R84) -/
  stepPend : Option Nat := none
  lane : Nat := 0
  /-- when the last own clapper left -/
  txAt : Option Nat := none
  deriving DecidableEq, Repr

/-- A master heard by Announce (R79). -/
structure Master where
  port : Nat
  ann : PtpAnnounce
  at_ : Nat
  logInterval : Int
  deriving DecidableEq, Repr

structure Tbs where
  /-- the local instant at which the coarse count was 0 -/
  zero : Nat := 0
  /-- TB_BASE of R71, in fu -/
  base : Int := 0
  /-- the integrator of R82, in 1/65,536 ppt, and its values at the active source's updates, newest first -/
  integ : Int := 0
  hist : List Int := []
  lockRun : Nat := 0
  unlockRun : Nat := 0
  /-- the step case 1 of R84 allows before the first lock has been used -/
  stepUsed : Bool := false
  /-- a source has qualified since start-up -/
  everQual : Bool := false
  /-- since when EXT, CLAP and PTP (codes 1 to 3) are qualified -/
  qualSince : Vector (Option Nat) 4 := .replicate 4 none
  refFrom : Option Nat := none
  ppsLast : Option Nat := none
  ppsRun : Nat := 0
  /-- the last PPS_IN edge: its coarse-scale instant, its second, and whether EXT_SEC gave it -/
  ppsStamp : Option Int := none
  /-- its second came from EXT_SEC (R75) -/
  ppsLab : Bool := false
  ppsSec : Nat := 0
  grid : Int := 0
  holdSince : Option Nat := none
  holdWarned : Bool := false
  clap : Vector ClapSt 10 := .replicate 10 {}
  /-- the two instances of each port's time-transfer converter -/
  tt0 : Vector TdcGroup 6 := .replicate 6 {}
  tt1 : Vector TdcGroup 6 := .replicate 6 {}
  masters : List Master := []
  master : Option Nat := none
  /-- the Sync waiting for its Follow_Up, and the Sync exchange complete: (sequence, t2, correction), (t1, t2, c_s) -/
  sync : Option (Nat × Nat × Int) := none
  follow : Option (Int × Int × Int) := none
  /-- the Delay_Req sent: sequence and t3; when it left, and the interval the master set -/
  delayReq : Option (Nat × Nat) := none
  delayAt : Option Nat := none
  delayLog : Option Int := none
  delaySeq : Nat := 0
  lastFollow : Option Nat := none
  syncLog : Int := 0
  ptpRun : Nat := 0
  ppsOutLast : Option Int := none
  ppsOutUntil : Nat := 0
  /-- a step was made by the command now running: how far TB time moved -/
  stepped : Option Int := none
  /-- steps made, newest first: the coarse-scale instant and the base before it (R85) -/
  steps : List (Int × Int) := []
  deriving DecidableEq, Repr

/-! ### CMP -/

/-- An item of a packet's payload: a code word or an occupancy byte. w and v are its canonical width and value, coded its
code word, m the mapped residue under the predictor in force, mm and ml those of both, sym its bucket, cover the elements
it stands for. -/
structure CItem where
  w : Nat
  v : Nat
  coded : List Bool
  m : Nat
  mm : Nat
  ml : Nat
  sym : Option Nat
  cover : Nat
  deriving DecidableEq, Repr

/-! ### SEQ -/

/-- A tick schedule: the first tick it governs, the TB time in fu of its tick base, and its period num / den seconds (R10). -/
structure Seg where
  first : Nat
  base : Nat
  epoch : Int
  num : Nat
  den : Nat
  deriving DecidableEq, Repr

/-- Tick parameters relayed to a module that is not the root: they take effect at a tick (R12). -/
structure TickChange where
  tick : Nat
  num : Nat
  den : Nat
  epoch : Int
  base : Nat
  deriving DecidableEq, Repr

structure Seq where
  /-- the present tick, not reduced to 48 bits, and the schedules, newest first -/
  k : Nat := 0
  segs : List Seg := []
  /-- the instant of the last tick boundary or pacing instant -/
  boundaryAt : Option Nat := none
  /-- where the present tick began on the coarse scale, and the regions whose mode word an abort or a fault's drain cleared there -/
  start : Int := 0
  cleared : Nat := 0
  /-- regions whose mode word becomes 0 at the next boundary after an abort, and by a drain a fault ordered -/
  zero : Nat := 0
  fdrain : Nat := 0
  /-- of these, the regions SAFE entry aborted: their shadow mode word is kept (R356) -/
  safeKeep : Nat := 0
  /-- when SAFE was last entered (R20) -/
  safeAt : Option Nat := none
  /-- modes of each region draining, whose FINAL product is not delivered yet (R118) -/
  draining : Vector Nat 16 := .replicate 16 0
  /-- regions with a drain ordered and REGION_FINAL not yet set -/
  drainOrd : Nat := 0
  /-- regions aborted in the present tick, and their GAP records owed at the next boundary -/
  aborted : Nat := 0
  /-- a backward step makes the next tick the first after the step -/
  stepMark : Bool := false
  /-- ticks up to this index carry TICK_SLIP -/
  slipUntil : Option Nat := none
  relay : Option TickChange := none
  deriving DecidableEq, Repr

/-! ### EVB -/

/-- A corrected capture in the reorder store: its TB time, cluster, pixel and marks. -/
structure EvW where
  h : Int
  loc : Nat
  pix : Nat
  test : Bool
  multi : Bool
  calok : Bool
  deriving DecidableEq, Repr

/-- The frame head of one tick of a region while its figures gather (table Events-4). -/
structure Rec where
  k : Nat
  time : Int := 0
  epoch : Nat := 0
  mode : Nat := 0
  flags : Nat := 0
  tstate : Nat := 0
  tq : Nat := 0
  subIdx : Nat := 0
  subDone : Nat := 0
  gateIdx : Nat := 0
  calok : Nat := 0
  events : Nat := 0
  late : Nat := 0
  qfull : Nat := 0
  age : Nat := 0
  abort : Nat := 0
  code : Nat := 0
  sat : Nat := 0
  masked : Nat := 0
  inj : Nat := 0
  accSat : Nat := 0
  sync : Nat := 0
  nzSeg : Nat := 0
  lost : Nat := 0
  hotNew : Nat := 0
  slates : Nat := 0
  binw : Nat := 0
  closed : Bool := false
  /-- the figures of its counter frame and of its ACCUM output are known (R127) -/
  known : Bool := false
  accKnown : Bool := true
  /-- wholly inside a forward step: no product (R85) -/
  jumped : Bool := false
  /-- its head was emitted or suppressed -/
  emitted : Bool := false
  /-- the region was aborted in it (R119) -/
  cut : Bool := false
  deriving DecidableEq, Repr

/-- A released word kept in the ring reel: its time, the word and its reference tick, the reel, and the packet that holds it once the engine
has put it into one. fwd says that its packet is forwarded as it closes, due that a window waits for the packet to be read back, had
that one has had it (R140). -/
structure RingW where
  h : Int
  w : Nat
  ref : Nat
  reel : Nat
  pid : Option PktId := none
  fwd : Bool := false
  due : Bool := false
  had : Bool := false
  deriving DecidableEq, Repr

/-- A window of WINDOW: one decision's interval on its region, and what its slate reports (R140 to R142). -/
structure WinTake where
  trigId : Nat
  cls : Nat
  tt : Int
  start : Int
  stop : Int
  take : Nat
  reel : Nat
  epoch : Nat
  words : Nat := 0
  preAct : Nat := 0
  postAct : Nat := 0
  overlap : Bool := false
  preShort : Bool := false
  late : Bool := false
  final : Bool := false
  deriving DecidableEq, Repr

structure EvbR where
  store : List EvW := []
  front : Option Int := none
  /-- the next tick to close -/
  k : Nat := 0
  recs : List Rec := []
  slates : Nat := 0
  /-- DROP_QFULL, DROP_AGE, DROP_ABORT, CODE_ERR and SYNC_MISSED at the last close -/
  base : List Nat := [0, 0, 0, 0, 0]
  /-- words of the present block went to the engine -/
  pushed : Bool := false
  /-- trigger times of decisions not yet counted in a head -/
  trigPend : List Int := []
  ring : List RingW := []
  wins : List WinTake := []
  winFrom : Int := 0
  winDrain : Bool := false
  /-- the first tick without WINDOW, while its drain goes on -/
  winEnd : Nat := 0
  deriving DecidableEq, Repr

structure Evb where
  r : Vector EvbR 16 := .replicate 16 {}
  deriving DecidableEq, Repr

/-! ### HST and ACC -/

/-- A gate: its opening and closing on the coarse scale, and since when it is known. -/
structure Gate where
  o : Int
  c : Int
  known : Int
  deriving DecidableEq, Repr

/-- HST_UNDER, HST_OVER and HST_DROP of the hits of one tick (R107). -/
structure HstCnt where
  k : Nat
  under : Nat := 0
  above : Nat := 0
  drop : Nat := 0
  deriving DecidableEq, Repr

/-- An entry of the coalescing buffer: its tick, key and 16-bit count. -/
structure Coal where
  k : Nat
  key : Nat
  n : Nat
  deriving DecidableEq, Repr

structure HstR where
  gateOpen : Bool := false
  /-- the gates accepted and not closed, earliest first -/
  gates : List Gate := []
  step : Nat := 0
  bins : Sp := []
  coal : List Coal := []
  /-- the dump running: its tick and the instant it started -/
  dump : Option (Nat × Nat) := none
  /-- dumps that fell due while one ran -/
  due : List Nat := []
  cnts : List HstCnt := []
  late : Nat := 0
  /-- stamps before this TB time do not serve (R106) -/
  stampFrom : Int := 0
  /-- of an earlier time of HISTO whose ticks, those before fromK, are not all dumped (R106) -/
  oldFrom : Int := 0
  fromK : Nat := 0
  /-- ticks before this one are dumped or discarded -/
  next : Nat := 0
  /-- ticks whose dump R16 discards -/
  lost : List Nat := []
  deriving DecidableEq, Repr

structure Hst where
  r : Vector HstR 16 := .replicate 16 {}
  deriving DecidableEq, Repr

/-- One region's accumulators: the cycle in progress and the pixels that read 4,095 in a contributing sub-frame. -/
structure AccR where
  on : Bool := false
  k0 : Nat := 0
  n : Nat := 1
  sh : Nat := 0
  acc : Sp := []
  sat : Sp := []
  /-- the staging area: completed values the engine has not taken, by element (R109) -/
  stage : Sp := []
  deriving DecidableEq, Repr

structure Accum where
  r : Vector AccR 16 := .replicate 16 {}
  deriving DecidableEq, Repr

/-! ### CMP -/

/-- The history of one stream (R153 to R156, R166). -/
structure Ctx where
  first : Bool := true
  /-- the ticks from which the stream's mode was put in force, each until a block of that tick or a later one starts (R156) -/
  freshAt : List Nat := []
  /-- put in force by CTX_LOAD, and no block has started since (R167) -/
  loaded : Bool := false
  histValid : Bool := false
  blocks : Nat := 0
  hist : List Nat := .replicate 40 0
  sumMed : Nat := 0
  sumLeft : Nat := 0
  dyn : Option (List Nat) := none
  /-- the table being built for the next block -/
  building : Option (List Nat) := none
  predLeft : Bool := false
  seq : Nat := 0
  deriving DecidableEq, Repr

/-- A per-tick product waiting for the engine: its kind, tick, elements and marks. px holds the elements that are not 0 by
element index; n how many there are. -/
structure Job where
  kind : Nat
  tick : Nat
  n : Nat
  px : Sp
  zs : Bool := false
  final : Bool := false
  partial_ : Bool := false
  /-- no elements: the empty packet that ends a stream (R145) -/
  empty : Bool := false
  /-- cut short by FE_ABORT: its last packet closes with TRUNC -/
  trunc : Bool := false
  deriving DecidableEq, Repr

/-- What waits in the engine's input queue: a word with its reference tick, or the close of a tick's block; last is the tick an empty FINAL
packet names (R145). -/
inductive EvIn where
  | word (w ref : Nat)
  | close (k : Nat) (final : Bool) (last : Nat)
  deriving DecidableEq, Repr

/-- A packet an engine is writing: the fabric item it fills, its block's facts, the items not yet admitted, those of the
chunk in progress, and what is written. -/
structure OpenPkt where
  item : Nat
  kind : Nat
  tick : Nat
  zs : Bool
  tab : List Nat
  todo : List CItem
  cur : List CItem := []
  body : List Nat
  orig : List Nat := []
  elems : Nat := 0
  prev : Nat := 0
  /-- payload items allowed in the packet (4,096 words of kind 0) -/
  left : Nat := 0
  flags : Nat
  final : Bool := false
  deriving DecidableEq, Repr

/-- The EVENT block in progress: its tick, the words coded before the open packet, its packets, its table. -/
structure EvBlk where
  tick : Nat
  words : Nat := 0
  npk : Nat := 0
  dyn : Option (List Nat) := none
  deriving DecidableEq, Repr

structure CmpR where
  ctx : Vector Ctx 5 := .replicate 5 {}
  jobs : List Job := []
  /-- packets of the first job already written, and its table and predictor -/
  pi : Nat := 0
  jobTab : Option (Option (List Nat) × Bool) := none
  open_ : Option OpenPkt := none
  inq : List EvIn := []
  blk : Option EvBlk := none
  /-- the tick whose EVENT block a stall limit cut: its further words are discarded -/
  dead : Option Nat := none
  stallAt : Option Nat := none
  stallFu : Nat := 0
  buf : List Nat := .replicate 32 0
  load : Option (Nat × Ctx) := none
  /-- contexts put in force at a boundary while a block of their stream was in progress: they wait for its end (R167) -/
  ready : List (Nat × Ctx) := []
  draining : Bool := false
  deriving DecidableEq, Repr

/-- A record packet closed and on its way into the fabric: its tick, whether it is the first and the last of its block, the index of
its first record and the epoch. -/
structure RpShut where
  tick : Nat
  first : Bool
  last : Bool
  index : Nat
  epoch : Nat
  deriving DecidableEq, Repr

/-- One packet of the record packer: its records, how many of them are in the fabric, its header and item once it is open there (R175), and
how it closed. -/
structure RpG where
  recs : List (List Nat) := []
  moved : Nat := 0
  head : List Nat := []
  item : Option Nat := none
  shut : Option RpShut := none
  deriving DecidableEq, Repr

/-- A stream of the record packer (kind 5 of a region, 6 or 7): its packets, oldest first, of which the last may be open; its packets
and records in the block so far; and since when it waits for the fabric. -/
structure RpS where
  groups : List RpG := []
  seq : Nat := 0
  npk : Nat := 0
  count : Nat := 0
  waitAt : Option Nat := none
  deriving DecidableEq, Repr

structure Cmp where
  r : Vector CmpR 16 := .replicate 16 {}
  rp : Vector RpS 18 := .replicate 18 {}
  deriving DecidableEq, Repr

/-! ### QUE -/

/-- A packet's part of a word of the fabric (R169, R172): the word's number among its source's, the lanes open to the packet there,
the place in the packet and the bytes of what it holds, how many of them the cabinet writer has, and whether a read of it failed
(R182), and the tag bits of the word's parts that other packets had and that are freed. -/
structure FWord where
  no : Nat
  cap : Nat
  off : Nat
  data : List Nat := []
  done : Nat := 0
  bad : Bool := false
  gone : Nat := 0
  deriving DecidableEq, Repr

/-- An item of the fabric: its number, source, class and name, its words not yet freed, the bytes written of it and the number of its
next word, its grants from its own area and the shared pool and what its words use of them in bytes, where it goes, and what each
consumer has had of it. -/
structure QItem where
  id : Nat
  src : Nat
  cls : Nat
  pid : PktId
  words : List FWord
  first : Nat
  next : Nat
  len : Nat := 0
  open_ : Bool
  own : Nat := 0
  shared : Nat := 0
  used : Nat := 0
  patch : Bool := false
  narrow : Bool := false
  since : Nat := 0
  /-- the reel it goes to, and how many bytes the cabinet writer has -/
  prod : Nat := 0
  reel : Nat := 0
  cabDone : Nat := 0
  cab : Bool := true
  /-- not recorded under DISCARD: what is written of it counts in REEL_DISC (R194) -/
  disc : Bool := false
  up : Bool := false
  eth : Bool := false
  /-- the bytes the uplink has taken of it (R178) -/
  upDone : Nat := 0
  heldUp : Bool := false
  heldEth : Bool := false
  /-- it reached this merge behind the horizon (R248) -/
  late : Bool := false
  trunc : Bool := false
  /-- USE of its tag where it is of QC4 (R241), and the queue pair an offload names -/
  use_ : Nat := 0
  qp : Option Nat := none
  /-- it holds a GAP or POISON record in the place of packets (R199, R278) -/
  isRec : Bool := false
  /-- the link whose receive space its own bytes still take (R243) -/
  link : Option Nat := none
  deriving DecidableEq, Repr

/-- A slot patch sent to CAB: the packet and its LEN_SLOT. -/
structure Patch where
  pid : PktId
  prod : Nat
  val : Nat
  deriving DecidableEq, Repr

structure Que where
  items : List QItem := []
  next : Nat := 0
  own : Vector Nat 21 := .replicate 21 0
  shared : Vector Nat 21 := .replicate 21 0
  cls : Vector Nat 5 := .replicate 5 0
  /-- the lane behind the last packet of each that packs words, words and lanes counted on: the sources of table Queues-1 but for the record
  packer, 21 the read-back path, and from 22 on the packer's 18 streams (DESIGN CHOICE, log entry 159) -/
  pos : Vector Nat 40 := .replicate 40 0
  patches : List Patch := []
  /-- the rotation check failed: narrow packing until reset -/
  stuckNarrow : Bool := false
  /-- packets released from the uplink, to be read from the reel -/
  heldUp : List PktId := []
  /-- items of higher classes taken while a lower class waited, for the uplink and for ETH -/
  starveUp : Nat := 0
  starveEth : Nat := 0
  /-- the producer whose word the cabinet writer took last in its rounds (R179) -/
  turn : Nat := 23
  /-- lanes mapped out, by bank -/
  laneOut : Vector Nat 4 := .replicate 4 0
  deriving DecidableEq, Repr

/-! ### CAB and EDC -/

/-- A shelf (R188). -/
structure Shelf where
  n : Nat
  classL : Bool
  base : Nat
  units : Nat
  deriving DecidableEq, Repr

/-- An extent handed out: its ordinal in allocation order (EXT_SEQ), its producer and header facts, the recordable bytes
written, whether it is open, and how many of its groups are written. -/
structure Ext where
  seq : Nat
  prod : Nat
  /-- the take by command its packets belong to, and TAKE of its header: the take open on the reel when it was handed out -/
  take : Nat
  head : Nat := 0
  prev : Option Nat
  firstTick : Option Nat := none
  cont : Nat := 0
  epoch : Nat
  len : Nat := 0
  open_ : Bool := true
  groups : Nat := 0
  deriving DecidableEq, Repr

/-- A reel (R189): its extents handed out and kept, oldest first, and the ordinal of the next. -/
structure Reel where
  n : Nat
  shelf : Nat
  base : Nat
  exts : Nat
  ring : Bool
  policy : Nat
  alloc : Nat := 0
  live : List Ext := []
  full : Bool := false
  disc : Nat := 0
  /-- it became full under DISCARD since the last boundary (R194) -/
  ended : Bool := false
  /-- the run of ticks being discarded for each producer: producer, first and last tick (R194) -/
  gaps : List (Nat × Nat × Nat) := []
  deriving DecidableEq, Repr

/-- A take directory entry (table Store-3); extents by ordinal. -/
structure Take where
  num : Nat
  reel : Nat
  /-- 1 OPEN, 2 CLOSED, 3 RELEASED -/
  st : Nat
  flags : Nat
  startExt : Option Nat
  endExt : Nat
  startTick : Nat
  stopTick : Nat
  epoch : Nat
  poison : Nat := 0
  trigId : Nat := 0
  deriving DecidableEq, Repr

/-- Where a packet lies: its reel, the extent it starts in and its first recordable byte there; its length when closed. -/
structure PktRef where
  pid : PktId
  prod : Nat
  reel : Nat
  ext : Nat
  off : Nat
  len : Nat
  deriving DecidableEq, Repr

/-- A slot of the group assembler: the pair it serves, the extent and group, the bytes so far and the poisoned lines. -/
structure Slot where
  prod : Nat
  reel : Nat
  ext : Nat
  grp : Nat
  data : List Nat
  bad : List Nat := []
  deriving DecidableEq, Repr

/-- An operation of the merge buffer on a line (R196): bytes merged, an extent header written anew, a write-back, a poison write, the repair
copy to a spare span, or the copy of a repaired span back from its spare. -/
inductive MergeOp where
  | patch (pid : PktId) (line off : Nat) (bytes : List Nat)
  | head (line : Nat) (bytes : List Nat)
  | back (line : Nat)
  | poison (line : Nat)
  | copy (line spare : Nat)
  | home (line : Nat)
  deriving DecidableEq, Repr

/-- What reading a line finds. -/
inductive LineRes where
  | good (data : List Nat)
  | fixed (data : List Nat) (n : Nat)
  | poisoned
  | bad
  deriving DecidableEq, Repr

/-- What reading lines of an extent one after another finds: their bytes, or the line of the extent that cannot be delivered and its
physical line. -/
inductive LinesRead where
  | got (data : List Nat)
  | bad (y p : Nat)
  deriving DecidableEq, Repr

/-- What reading a packet finds (R199): its bytes; a line in it that cannot be delivered; or such a line that holds its LEN_SLOT or an
extent header. -/
inductive PktRead where
  | whole (data : List Nat)
  | part (p : Nat)
  | lost (p : Nat)
  deriving DecidableEq, Repr

/-- A consumer's delivery position (R194): 0 the uplink's held data, 1 standby replay, 2 + q queue pair q, 16 + l standby of
link l. -/
structure DelPos where
  who : Nat
  reel : Nat
  ext : Nat
  deriving DecidableEq, Repr

/-- An offload running: the take, the take offset it has reached, and the packets lost behind which others cannot be found (R199). -/
structure Ofl where
  take : Nat
  off : Nat
  lost : List PktRef := []
  deriving DecidableEq, Repr

structure Cab where
  mem : Sp := []
  shelves : List Shelf := [⟨0, false, 0, 126⟩]
  reels : List Reel := [{ n := 0, shelf := 0, base := 0, exts := 114687, ring := true, policy := 0 }]
  takes : List Take := []
  lastTake : Nat := 0
  pkts : List PktRef := []
  slots : List Slot := []
  merge : List MergeOp := []
  /-- poison writes, repair copies and the scrubber's write-backs that wait for a free entry of the merge buffer, oldest first (R196) -/
  wait : List MergeOp := []
  poison : List (Nat × Nat) := []
  /-- lines poisoned, and the TB time at which each was found (R199) -/
  badAt : List (Nat × Nat) := []
  pos : List DelPos := []
  /-- runs of ticks discarded whose GAP records wait for the next boundary: producer, first and last tick (R194) -/
  gapDue : List (Nat × Nat × Nat) := []
  /-- the take command running: its code, take, tick and reel -/
  cmd : Option (Nat × Nat × Nat × Nat) := none
  ofl : Option Ofl := none
  /-- the scrub pass: when it began, the groups of the system area read in it, and where it stands in the reels: reel, extent of the reel
  and group -/
  passAt : Nat := 0
  passDone : Nat := 0
  passPos : Nat × Nat × Nat := (0, 0, 0)
  /-- its quantum per tick as a fraction, the remainder carried, and the groups of the present tick's quantum not yet read (R201) -/
  quantN : Nat := 0
  quantD : Nat := 1
  rem : Nat := 0
  due : Nat := 0
  deriving DecidableEq, Repr

/-- A corrected address tracked (R203, R207): the line or word, when it was corrected within the period, newest first, and the corrections
since it was last declared hard. -/
structure Track where
  addr : Nat
  times : List Nat
  since : Nat
  deriving DecidableEq, Repr

/-- A row span being copied to a spare span (R204): its channel and number, the spare, the hard line, and the lines not yet copied. -/
structure Move where
  ch : Nat
  span : Nat
  spare : Nat
  hard : Nat
  left : List Nat
  deriving DecidableEq, Repr

/-- An entry of the error log (table Store-14). -/
structure EdcLog where
  line : Nat := 0
  sram : Bool := false
  syms : Nat := 0
  src : Nat := 0
  hard : Bool := false
  poison : Bool := false
  count : Nat := 0
  time : Nat := 0
  deriving DecidableEq, Repr

structure Edc where
  track : List Track := []
  sram : List Track := []
  log : Vector EdcLog 256 := .replicate 256 {}
  /-- spans remapped: (channel, span) of the failed row, and the spare's number in the channel's pool -/
  remap : List (Nat × Nat × Nat) := []
  retired : List (Nat × Nat) := []
  /-- spans being copied to a spare (R204) -/
  moves : List Move := []
  /-- spare rows used, by macro, and replacements waiting for the next boundary -/
  rows : Sp := []
  rowPend : List Nat := []
  deriving DecidableEq, Repr

/-! ### TRG -/

/-- A trigger request (R135): its class mask, earliest time, merged count and earliest requester. -/
structure Treq where
  cls : Nat
  tt : Int
  n : Nat
  src : Nat
  deriving DecidableEq, Repr

/-- A trigger decision (R136). -/
structure Tdec where
  id : Nat
  tt : Int
  cls : Nat
  deriving DecidableEq, Repr

/-- A trigger block: a request up or a decision down (R215). -/
inductive TBlk where
  | req (q : Treq)
  | dec (d : Tdec)
  deriving DecidableEq, Repr

/-- The trigger blocks of one link (R230): the next TSEQ, the blocks sent and not covered by TACK (TSEQ, block, when last
sent), those that wait for an acknowledgement, the last 128 TSEQs received and TACK. -/
structure TrigLink where
  next : Nat := 0
  out : List (Nat × TBlk × Nat) := []
  wait : List TBlk := []
  seen : List Nat := []
  tack : Option Nat := none
  deriving DecidableEq, Repr

/-- The activity of a trigger input: its first and last grid slots, and the TB instant at which it ends (R133). -/
structure Act where
  first : Int
  last : Int
  until_ : Int
  /-- the slot behind it is evaluated -/
  done : Bool := false
  deriving DecidableEq, Repr

structure Trg where
  /-- the activity of inputs i0 to i4 -/
  act : Vector (Option Act) 5 := .replicate 5 none
  /-- the grid slot whose index is still open, and the instant of the event that last changed it -/
  pend : Option (Int × Int) := none
  /-- the merge or decision window open, and its end on the module's clock -/
  merge : Option (Treq × Nat) := none
  window : Option (Treq × Nat) := none
  /-- requests of the merge interval, and of the decision window, counted in REQ_EXCESS -/
  excess : Nat := 0
  decExcess : Nat := 0
  lastDec : Option Nat := none
  serial : Nat := 0
  highest : Nat := 0
  /-- decisions waiting for their action instant -/
  waiting : List (Tdec × Int) := []
  /-- readout entries of the last RATE_WIN, by slot of 100 ns, newest first, for conditions A and B, and whether each is true -/
  rate : Vector (List Nat) 2 := .replicate 2 []
  rateNow : Vector Nat 2 := .replicate 2 0
  rateTrue : Vector Bool 2 := .replicate 2 false
  /-- pulses of TRIG_OUT0 and TRIG_OUT1: (start, end) on the coarse scale, and whether one is high -/
  pulses : Vector (List (Int × Int)) 2 := .replicate 2 []
  high : Vector Bool 2 := .replicate 2 false
  /-- WIN_PRE and WIN_POST as put in force at a tick, newest first -/
  wins : List (Nat × Nat × Nat) := []
  draining : Bool := false
  links : Vector TrigLink 10 := .replicate 10 {}
  deriving DecidableEq, Repr

/-! ### LNK -/

/-- One lane of a link (R213 to R225). -/
structure Lane where
  since : Nat := 0
  /-- the revision at whose rate it runs, and whether it hunts at that rate alone -/
  rate : Nat := 2
  only : Bool := false
  los : Bool := false
  lockAt : Nat := 0
  /-- HELLO: one was received; our ACK; ACK sent; ACK received; the partner's MODULE_ID and PORT; the checks of R226 fail -/
  heard : Bool := false
  ack : Bool := false
  ackSent : Bool := false
  ackGot : Bool := false
  partner : Option (Nat × Nat) := none
  mis : Bool := false
  switchAt : Option Nat := none
  /-- the end of its BACKOFF -/
  until_ : Nat := 0
  /-- TRAIN: the last block received, the last command's REQ_SEQ with the statuses echoed, RX_READY of both sides -/
  trainAt : Option Nat := none
  echo : Option (Nat × Nat × Nat) := none
  ready : Bool := false
  partnerReady : Bool := false
  /-- the own command to the partner's taps: REQ_SEQ, PRE_CMD, POST_CMD, PRESET; and its statuses once echoed -/
  req : Nat × Nat × Nat × Bool := (0, 0, 0, false)
  stat : Option (Nat × Nat) := none
  /-- compatibility equalisation: when the sweep began, invalid headers and eye margin of the steps done, oldest first -/
  sweepAt : Option Nat := none
  sweep : List (Nat × Nat) := []
  /-- the scrambler's states, sending and (once loaded) receiving; the receiver's run of identical bits -/
  tx : Nat := 1
  rx : Option Nat := none
  runBit : Bool := false
  runLen : Nat := 0
  /-- validity of the last 64 headers, newest first, and the bits the hunt has slipped -/
  hdrs : List Bool := []
  slip : Nat := 0
  elastic : Nat := 16
  /-- the transmitter: its run of identical bits, its last block, the blocks since its last FILL, whether it is held at electrical idle
  though the lane is not off; and the blocks sent as line bits, newest first -/
  txBit : Bool := false
  txLen : Nat := 0
  txAt : Nat := 0
  fillN : Nat := 0
  quiet : Bool := false
  line : List (List Bool) := []
  deriving DecidableEq, Repr

/-- An item of VC0 (R241): an event record, a Thabor reply's bytes, relay traffic, or a tree message of table Trees-3. -/
inductive V0 where
  | ev (r : EvRec)
  | thabor (b : List Nat)
  | relayReq (q : RelayReq)
  | relayRep (p : RelayRep)
  | enum_ (root hop assign feat : Nat)
  | enumReply (id parent role feat fw rev : Nat)
  | claim (no : Nat)
  | claimAck (no result held : Nat)
  | lost (held : Nat)
  | demote (no : Nat)
  | stbyOk (child : Nat) (grant : Bool)
  | horizon (tick claim : Nat) (cnt : List Nat) (held : List (Nat × Nat × Nat))
  | confirm (conf : List Nat)
  | topo (child parent claim : Nat)
  | featset (feat tick : Nat)
  deriving DecidableEq, Repr

/-- A frame in the replay buffer: SEQ, VC, its payload, and the packet it completes. -/
structure TxFrame where
  seq : Nat
  vc : Nat
  data : List Nat
  pid : Option PktId := none
  item : Option V0 := none
  deriving DecidableEq, Repr

/-- A packet being put into frames: its name, the bytes left, its item of the fabric, and whether it is the module's own replay. -/
structure TxPkt where
  pid : PktId
  left : List Nat
  item : Option Nat := none
  back : Bool := false
  deriving DecidableEq, Repr

/-- One link (R227 to R233, R242). -/
structure LinkSt where
  txSeq : Nat := 0
  rxSeq : Nat := 0
  replay : List TxFrame := []
  /-- consecutive replays, the last advance of ACK_SEQ, the frame not yet acknowledged, the last NAK -/
  replays : Nat := 0
  ackAt : Nat := 0
  ackDue : Option Nat := none
  nakAt : Option Nat := none
  hbSeq : Nat := 0
  hbLast : Nat := 0
  /-- credits: limits received, units charged, units received, limits last advertised -/
  cred : Vector Nat 5 := .replicate 5 0
  sent : Vector Nat 5 := .replicate 5 0
  got : Vector Nat 5 := .replicate 5 0
  adv : Vector Nat 5 := .replicate 5 0
  credWait : Option Nat := none
  /-- the link has come up and not gone down since; a frame was accepted since -/
  live : Bool := false
  accepted : Bool := false
  /-- stream blocks are dealt to both lanes, and the next goes to lane 1 -/
  two : Bool := false
  turn : Bool := false
  /-- the lane that carries the whole stream while another, back in UP, waits for the next ALIGN pair (R233) -/
  solo : Fin 2 := 0
  /-- stream blocks since the last ALIGN pair, its ALIGN_SEQ, blocks discarded until a good pair -/
  blk : Nat := 0
  alignSeq : Nat := 0
  discard : Bool := false
  /-- the partner's stream is read (R232), RESTRIPE numbering, and the exchange of R233 -/
  reading : Bool := true
  rsSeq : Nat := 0
  rejoin : Bool := false
  asked : Bool := false
  draining : Bool := false
  vc0 : List V0 := []
  cur : Vector (Option TxPkt) 5 := .replicate 5 none
  /-- the last frame of VC2 or VC3 -/
  dataAt : Nat := 0
  deriving DecidableEq, Repr

structure Lnk where
  lanes : Vector Lane 20 := .replicate 20 {}
  links : Vector LinkSt 10 := .replicate 10 {}
  deriving DecidableEq, Repr

/-! ### TRE -/

/-- What TRE keeps of one link. -/
structure TreLink where
  /-- hop count of the last ENUM on an uplink -/
  hop : Option Nat := none
  /-- the highest claim number known of the child, one refused or demoted since the last LOST, the claim sent -/
  known : Nat := 0
  noClaim : Bool := false
  claimed : Option Nat := none
  /-- a primary child's link is an input of the merge; the latest HORIZON and its counts; ticks given up -/
  input : Bool := false
  hz : Option (Nat × List Nat) := none
  through : Option Nat := none
  /-- payload bytes accepted from and framed to the partner, by VC, and bytes of packets partly received -/
  acc : Vector Nat 5 := .replicate 5 0
  cnt : Vector Nat 5 := .replicate 5 0
  buf : Vector (List Nat) 5 := .replicate 5 []
  /-- of the bytes gathered, those of whole packets that came before the link last went down -/
  old : Vector Nat 5 := .replicate 5 0
  /-- packets received and not confirmed (VC, last byte's count, name, taken), counts confirmable and sent -/
  conf : List (Nat × Nat × PktId × Bool) := []
  confd : Vector Nat 5 := .replicate 5 0
  confSent : Vector Nat 5 := .replicate 5 0
  /-- when a count first ran ahead of the last CONFIRM -/
  confAt : Option Nat := none
  deriving DecidableEq, Repr

/-- An entry of the subtree table (R240), with what the root's enumeration table adds. -/
structure SubEnt where
  id : Nat
  link : Nat
  parent : Nat
  standby : Nat := 0
  asked : Nat := 0
  hop : Nat := 0
  fw : Nat := 0
  feat : Nat := 0
  claimed : Bool := false
  /-- its standby grant was refused for its parents' low bytes, and reported (R240) -/
  told : Bool := false
  /-- given up behind a link that is down (R247): it no longer counts for TREE_FEAT -/
  lost : Bool := false
  deriving DecidableEq, Repr

/-- A forwarded packet in the forward log, and whether the present parent has been sent it (R255, R256). -/
structure FwdEnt where
  pid : PktId
  vc : Nat
  stop : Nat
  sent : Bool := true
  deriving DecidableEq, Repr

/-- A relay request this module originated and waits for (R259, R290). -/
structure RelayWait where
  seq : Nat
  at_ : Nat
  target : Nat
  /-- modules still to answer and the worst status so far -/
  left : List Nat
  status : Nat := 0
  words : List Nat := []
  deriving DecidableEq, Repr

structure Tre where
  links : Vector TreLink 10 := .replicate 10 {}
  sub : List SubEnt := []
  lastId : Nat := 0
  /-- links on which a module without ID waits for one -/
  waitId : List Nat := []
  /-- at the root: IDs given and not yet answered with, with the link and the parent they went to -/
  given : List (Nat × Nat × Nat) := []
  /-- ENUM_REPLY sent: when, how often, on which link; an ENUM was received; READY reached -/
  reply : Option (Nat × Nat × Nat) := none
  /-- at the root: an ENUM_REPLY came since the enumeration began -/
  replied : Bool := false
  enumSeen : Bool := false
  readyAt : Option Nat := none
  waitRep : Bool := false
  lost : Option (Nat × Nat) := none
  held : Nat := 0
  /-- the merge horizon and the last HORIZON sent -/
  hzn : Option Nat := none
  hznSent : Option Nat := none
  log : List FwdEnt := []
  /-- items of QC0 held at their source until the class has room, with their links (R170) -/
  wait0 : List (Nat × V0) := []
  /-- packets held below, to be listed in the next own HORIZON -/
  passOn : List (Nat × Nat × Nat) := []
  /-- packets held and already listed in a HORIZON -/
  listed : List PktId := []
  /-- source module, STREAM, PKT_SEQ -/
  holes : List (Nat × Nat × Nat) := []
  high : List (Nat × Nat × Nat) := []
  feat : Option (Nat × Nat) := none
  relaySeq : Nat := 0
  relays : List RelayWait := []
  /-- requests applied here, with their answers -/
  done : List (RelayReq × RelayRep) := []
  draining : Bool := false
  deriving DecidableEq, Repr

/-! ### HKA -/

/-- An input of the converters (R303 to R305): the range in force, whether its next sample is SETTLING, the run of samples
below the next range's 8 %, the interval's usable sum and number and its flags, the last publication and the boundaries
since, the side the last result lay outside its level 1 limit, and the run of samples outside the level 4 limit. -/
structure HkaIn where
  range : Nat := 2
  settle : Bool := false
  low : Nat := 0
  sum : Int := 0
  n : Nat := 0
  ovr : Bool := false
  clamp : Bool := false
  last : Nat := 2
  pubAt : Option Nat := none
  /-- the usable result the last publication replaced (R309) -/
  was : Option Int := none
  ticks : Nat := 0
  out1 : Option Bool := none
  out4 : Nat := 0
  deriving DecidableEq, Repr

/-- A half-period of a thermometer: sum and number of its usable samples, all its samples, and those the clamp excluded. -/
structure RtdHalf where
  sum : Int := 0
  n : Nat := 0
  all : Nat := 0
  clamped : Nat := 0
  deriving DecidableEq, Repr

/-- A thermometer channel (R298 to R300): excited, stopping at the period's end, the period in progress incomplete, its two
halves, the last complete period's resistance as a fraction, the monitor's run of deviations and whether it found one in
this period, and a recovery not yet reported. -/
structure RtdCh where
  on : Bool := false
  stop : Bool := false
  cut : Bool := false
  a : RtdHalf := {}
  b : RtdHalf := {}
  hist : Option (Int × Nat) := none
  run : Nat := 0
  dev : Bool := false
  /-- excited in only a part of the period in progress (R300) -/
  part : Bool := false
  recover : Bool := false
  clamp : Bool := false
  deriving DecidableEq, Repr

structure Hka where
  ins : Vector HkaIn 32 := .replicate 32 {}
  rtd : Vector RtdCh 4 := .replicate 4 {}
  /-- half-periods of the shared count, the start of the present one, the instant of the last polarity reversal, and of the start -/
  half : Nat := 0
  halfAt : Nat := 0
  revAt : Option Nat := none
  startAt : Nat := 0
  /-- scan starts due before this instant are past; since when CAL_PERIOD runs -/
  scanFrom : Nat := 0
  perAt : Nat := 0
  /-- the running calibration is the start-up one; a calibration waits for an injected conversion -/
  startup : Bool := true
  calPend : Bool := false
  /-- the input of the injected conversion that is pending or running -/
  inj : Nat := 0
  /-- the TEC_PWM period in progress: its start, TEC_PER and TEC_DUTY -/
  tec : Option (Nat × Nat × Nat) := none
  /-- the last rising edges of TEC_PWM, newest first (R297) -/
  edges : List Nat := []
  /-- the interval was closed by the scan of the tick instant itself, ahead of its boundary (R304) -/
  closed : Bool := false
  deriving DecidableEq, Repr

/-! ### ETH -/

/-- A RoCE packet formed: its PSN, opcode, address, bytes, immediate, AckReq and the number of the entry it lies in. -/
structure RPkt where
  psn : Nat
  op : Nat
  va : Nat
  data : List Nat
  imm : Option Nat
  ack : Bool
  deriving DecidableEq, Repr

/-- A ring entry written and not yet acknowledged: the packet of the fabric or reel it holds, its flags with PHASE and its number, how
many event records, whether it is a daily, its address and length, and the PSN of its last packet. -/
structure REnt where
  pid : Option PktId := none
  flags : Nat := 0
  no : Nat := 0
  evs : Nat := 0
  daily : Bool := false
  va : Nat
  len : Nat
  psn : Nat
  deriving DecidableEq, Repr

/-- What a message in the making holds: its bytes, and its entries with the offset of their end. -/
structure Draft where
  va : Nat
  bytes : List Nat := []
  ents : List (REnt × Nat) := []
  deriving DecidableEq, Repr

/-- A queue pair (R273 to R281): its packets unacknowledged or not yet sent with the number sent and of how many of them sending is a
retransmission, its entries, the packets to be delivered from the reel, the timers and counts of R276 and R277, PHASE, entries written,
and whether it drains. -/
structure Qp where
  pkts : List RPkt := []
  sent : Nat := 0
  again : Nat := 0
  ents : List REnt := []
  behind : List PktId := []
  acked : Nat := 0
  retry : Nat := 0
  ackAt : Nat := 0
  rnr : Option Nat := none
  cutAt : Option Nat := none
  recAt : Nat := 0
  phase : Bool := true
  entryNo : Nat := 0
  /-- event records of the queue already written -/
  evs : Nat := 0
  /-- of the packets to be delivered from the reel, those that were late at the merge (R278) -/
  late : List PktId := []
  /-- its next hop was found unresolved, reported once, and when (R274) -/
  told : Bool := false
  failAt : Option Nat := none
  draining : Bool := false
  deriving DecidableEq, Repr

/-- A next hop being resolved: how many requests went, and when the last. -/
structure ArpWait where
  ip : Nat
  tries : Nat
  at_ : Nat
  deriving DecidableEq, Repr

structure Eth where
  qp : Vector Qp 8 := .replicate 8 {}
  /-- the cache of R269: address, MAC and when; and the addresses being resolved -/
  arp : List (Nat × Nat × Nat) := []
  waits : List ArpWait := []
  mask : Nat := 0
  gw : Nat := 0
  /-- the gratuitous ARP of an address taken while the link was down (R269) -/
  garp : Bool := false
  /-- the client of R269: 0 off, 1 soliciting, 2 requesting, 3 bound, 4 renewing, 5 rebinding; when its last message went out, and the
  seconds until the next -/
  dhcp : Nat := 0
  xid : Nat := 0
  dhcpAt : Nat := 0
  backoff : Nat := 4
  server : Nat := 0
  leaseAt : Nat := 0
  lease : Nat := 0
  icmpAt : Nat := 0
  icmpN : Nat := 0
  pause : Option Nat := none
  /-- the queue pair whose RoCE packet went out last (R272) -/
  rr : Fin 8 := 7
  /-- frames seen of each region's dailies source -/
  dly : Vector Nat 16 := .replicate 16 0
  /-- messages waiting for the authentication engine: source address and port, and whether of an open session -/
  thb : List (Nat × Nat × Bool) := []
  deriving DecidableEq, Repr

/-! ### FLT -/

/-- A fault not yet cleared (R317): its side, whether it is RAISED (else ACKNOWLEDGED), and whether an injected one was
performed. -/
structure FEnt where
  cls : Nat
  lvl : Nat
  unit : Nat
  inj : Bool
  raised : Bool
  perf : Bool
  deriving DecidableEq, Repr

/-- The units a reaction shadow covers (table Faults-3). -/
inductive Scope where
  | unit (u : Nat)
  | regions
  | all
  deriving DecidableEq, Repr

/-- An open reaction shadow (R320, R325): its end, the classes, the units, and whether an injected reaction opened it and
was performed. -/
structure Shadow where
  till : Nat
  classes : List Nat
  scope : Scope
  inj : Bool
  perf : Bool
  deriving DecidableEq, Repr

/-- An entry of the fault log (table Faults-13). -/
structure FLog where
  cls : Nat
  lvl : Nat
  det : Nat
  inj : Bool
  real_ : Bool
  conseq : Bool
  esc : Bool
  sim : Bool
  unit : Nat
  ev : Nat
  ns : Nat
  sec : Nat
  deriving DecidableEq, Repr

structure Flt where
  ents : List FEnt := []
  shadows : List Shadow := []
  /-- newest first, at most 256 -/
  log : List FLog := []
  injAt : Option Nat := none
  /-- the instants at which each core member was last resynchronised, newest first -/
  resync : Vector (List Nat) 3 := .replicate 3 []
  /-- the core members are being restarted after a loss of majority (R329) -/
  coreDown : Bool := false
  deriving DecidableEq, Repr

/-! ### CTL -/

/-- The answer to one operation (R289). -/
structure OpRep where
  status : Nat
  op : Nat
  count : Nat
  words : List Nat := []
  deriving DecidableEq, Repr

/-- An open session (R287, R288): its slot, the level asked for, its salt, the highest MSG_SEQ accepted and those accepted within
the window, the last four replies, when the last valid message came, and the next own sequence. -/
structure Sess where
  slot : Nat
  asked : Nat
  salt : Nat
  high : Nat
  seen : List Nat := []
  reps : List (Nat × List OpRep) := []
  at_ : Nat
  tx : Nat := 1
  deriving DecidableEq, Repr

/-- A reader's snapshot (R353, R354): page, offset of word 0, view and words. -/
structure Snap where
  page : Nat
  off : Nat
  view : Bool
  words : List Nat
  deriving DecidableEq, Repr

/-- An operation of a relayed REQUEST: answered, or waiting for relay sequence seq. -/
inductive PendOp where
  | done (r : OpRep)
  | wait (seq op count : Nat)
  deriving DecidableEq, Repr

/-- A REQUEST whose relays are not all answered (R290). -/
structure PendMsg where
  sess : Nat
  salt : Nat
  seq : Nat
  ip : Nat
  port : Nat
  local_ : Bool := false
  /-- the key it came under (R291) -/
  key : Nat := 0
  ops : List PendOp
  deriving DecidableEq, Repr

structure Ctl where
  sess : Vector (Option Sess) 8 := .replicate 8 none
  /-- MSG_SEQ of the last 64 OPENs of each slot, and the OPENs answered since start-up -/
  opens : Vector (List Nat) 8 := .replicate 8 []
  count : Nat := 0
  /-- slots whose sessions close behind the message being executed -/
  closing : Nat := 0
  snaps : Vector (Option Snap) 10 := .replicate 10 none
  /-- staged words of each writer: page, byte offset, word -/
  stage : Vector (List (Nat × Nat × Nat)) 10 := .replicate 10 []
  pend : List PendMsg := []
  deriving DecidableEq, Repr

/-- A configuration captured by COMMIT and not yet in force (R114). -/
structure Staged where
  regs : Sp
  mask : Sp
  off : Sp
  target : Option Nat := none
  earliest : Nat := 0
  /-- the tick index when COMMIT was written -/
  atK : Nat := 0
  /-- the relay request that asked for it -/
  req : Option RelayReq := none
  deriving DecidableEq, Repr

/-! ### What the module sends -/

/-- A Thabor message the module sends (R267, R285, R286): to whom, its VLAN tag, whether it leaves from the link-local address, its own UDP
port, KEY_SLOT, SESSION, SALT, MSG_SEQ and TARGET_ID, its body as sealed, and its tag. -/
structure ThbOut where
  ip : Nat
  port : Nat
  vlan : Option Nat
  local_ : Bool
  sport : Nat
  slot : Nat
  sess : Nat
  salt : Nat
  seq : Nat
  target : Nat := 0
  body : List Nat := []
  tag : BitVec 128 := 0
  deriving DecidableEq, Repr

/-- What the headers of a RoCE frame hold beside its packet's own (R267, R273, R277): the VLAN tag, DSCP, whether the frame is ECT(0),
the addresses, the UDP source port, P_Key, the host's QPN, and its RKEY. -/
structure RoceHead where
  vlan : Option Nat
  dscp : Nat
  ect : Bool
  src : Nat
  dst : Nat
  sport : Nat
  pkey : Nat
  qpn : Nat
  rkey : Nat
  deriving DecidableEq, Repr

/-- What the module puts on its contacts, kept by the model to say it was sent. -/
inductive Out where
  | clap (l lane : Nat) (c : Clap)
  /-- a Delay_Req: over UDP (else layer 2), its destination address, its UDP port or EtherType, its VLAN tag -/
  | delayReq (seq t3 : Nat) (udp : Bool) (dst service : Nat) (vlan : Option Nat)
  /-- a trigger block on every lane of link l in UP -/
  | tblk (l tseq : Nat) (b : TBlk)
  /-- a frame, with its SEQ, VC and payload bytes -/
  | frame (l seq vc : Nat) (bytes : List Nat)
  /-- an item of VC0, as framed -/
  | v0 (l : Nat) (m : V0)
  | hello (l lane : Nat) (h : Hello)
  /-- a TRAIN: what it carries, PRE_NOW and POST_NOW -/
  | train (l lane : Nat) (m : Train) (pre post : Nat)
  | restripe (l lane lanes seq : Nat) (ack : Bool)
  | ack (l seq : Nat)
  | nak (l seq : Nat)
  /-- frames from this SEQ on are sent again -/
  | replay (l seq : Nat)
  | heart (l : Nat) (h : Heart)
  | align (l seq : Nat)
  /-- a RoCE packet of queue pair q: its headers and itself -/
  | roce (q : Nat) (h : RoceHead) (p : RPkt)
  /-- ARP: a request or a reply for an address, to whom (0 for all), its VLAN tag -/
  | arp (req : Bool) (ip dst : Nat) (vlan : Option Nat)
  | icmp (dst id : Nat) (vlan : Option Nat)
  /-- a DHCP message: 1 DISCOVER, 3 REQUEST -/
  | dhcp (ty xid : Nat) (vlan : Option Nat)
  /-- an OPEN_REPLY: its head, STATUS, LEVEL, HOST_NONCE -/
  | openReply (m : ThbOut) (status level nonce : Nat)
  /-- a REPLY of a session: its head, the request's MSG_SEQ, the answers -/
  | reply (m : ThbOut) (seq : Nat) (ops : List OpRep)
  | closeReply (m : ThbOut)
  deriving DecidableEq, Repr

end Sys2Proof.Machine
end

