-- ==== Sys2Proof/Machine/Codec.lean ====
section
/-! DEFINITION. The pure part of CMP: prediction, residues, code tables, chunks and packets (R146 to R161), and the words
and records of EVB (R120, R125 to R132). -/

namespace Sys2Proof.Machine

open Sys2Proof

/-! ### Bit strings -/

/-- The low w bits of v, most significant first (R150). -/
def msbBits (w v : Nat) : List Bool := (List.range w).map (fun i => bit v (w - 1 - i))

/-- The low w bits of v, least significant first (R146). -/
def lsbBits (w v : Nat) : List Bool := (List.range w).map (fun i => bit v i)

/-- A bit string cut into bytes of at most 8 bits each; fuel bounds the count. -/
def cutBytes : Nat → List Bool → List (List Bool)
  | 0, _ => []
  | _, [] => []
  | n + 1, l => l.take 8 :: cutBytes n (l.drop 8)

/-- A bit string as bytes, first bit in bit 7, padded with zero bits (R150, R159). -/
def packMsb (l : List Bool) : List Nat :=
  (cutBytes l.length l).map (fun b => (List.range 8).foldl (fun a i => 2 * a + b2n (b.getD i false)) 0)

/-- A bit string as bytes, first bit in bit 0, padded with zero bits. -/
def packLsb (l : List Bool) : List Nat :=
  (cutBytes l.length l).map (fun b => b.foldr (fun x a => b2n x + 2 * a) 0)

/-! ### Residues (R147 to R149) -/

/-- The median edge detector (R147). -/
def medPred (a b c : Nat) : Int :=
  if max a b ≤ c then (min a b : Nat) else if c ≤ min a b then (max a b : Nat) else (a : Int) + b - c

/-- Element i of a packet of rows of w elements, with its neighbours: the MED and the LEFT prediction (R147). -/
def preds (w i a b c : Nat) : Int × Int :=
  if i = 0 then (0, 0) else if i < w then (a, a) else if i % w = 0 then (b, b) else (medPred a b c, a)

/-- A residue reduced into b bits, signed (R148, R149). -/
def residue (b : Nat) (x : Nat) (p : Int) : Int := sgn b (toU b ((x : Int) - p))

/-- A signed residue mapped to 0, 1, 2, ... (R149). -/
def mapRes (e : Int) : Nat := if 0 ≤ e then (2 * e).toNat else (-2 * e - 1).toNat

/-- The bit length of m. -/
def bitLen (m : Nat) : Nat := if m = 0 then 0 else Nat.log2 m + 1

/-! ### Code tables (R151 to R154) -/

/-- A code table: the length of each of the 40 symbols. -/
abbrev CodeTab := List Nat

/-- The static tables of table Compression-2. -/
def tableF : CodeTab := [2, 2, 3, 3, 4, 4, 5, 5, 6, 6, 7, 7, 8, 8] ++ List.replicate 26 12
def tableT : CodeTab := List.replicate 8 6 ++ List.replicate 24 5 ++ List.replicate 8 6

/-- The length of a symbol in a table. -/
def lenOf (t : CodeTab) (k : Nat) : Nat := t.getD k 0

/-- The code of symbol k (R151): codes of smaller lengths first, then smaller symbols of the same length. -/
def codeOf (t : CodeTab) (k : Nat) : Nat :=
  let l := lenOf t k
  (List.range 40).foldl (fun a s =>
    let m := lenOf t s
    if m < l then a + 2 ^ (l - m) else if m = l ∧ s < k then a + 1 else a) 0

/-- A table is valid: every length 1 to 15 and the sum of 2^(-length) at most 1 (R151). -/
def CodeTab.valid (t : CodeTab) : Bool :=
  t.length == 40 && t.all (fun l => 1 ≤ l && l ≤ 15) && t.foldl (fun a l => a + 2 ^ (15 - l)) 0 ≤ 2 ^ 15

/-- An item of package-merge: a weight and how often it holds each symbol. -/
abbrev PmItem := Nat × List Nat

/-- An item put into a list behind every item of no greater weight. -/
def pmInsert (x : PmItem) : List PmItem → List PmItem
  | [] => [x]
  | y :: l => if y.1 ≤ x.1 then y :: pmInsert x l else x :: y :: l

/-- The packages of a list: neighbours in pairs, an odd last item dropped. -/
def pmPairs : List PmItem → List PmItem
  | a :: b :: l => (a.1 + b.1, List.zipWith (· + ·) a.2 b.2) :: pmPairs l
  | _ => []

/-- The leaves: weight ascending, then symbol descending (R153). -/
def pmLeaves (w : List Nat) : List PmItem :=
  (List.range 40).foldr (fun s l => pmInsert (w.getD s 0, (List.range 40).map (fun i => if i = s then 1 else 0)) l) []

/-- The optimal lengths of at most 15 for a histogram, by package-merge exactly as R153 gives it. -/
def dynTable (h : List Nat) : CodeTab :=
  let leaves := pmLeaves ((List.range 40).map (fun s => h.getD s 0 + 1))
  let last := (List.range 14).foldl (fun l _ => (pmPairs l).foldl (fun a p => pmInsert p a) leaves) leaves
  (last.take 78).foldl (fun a x => List.zipWith (· + ·) a x.2) (List.replicate 40 0)

/-- One count of a symbol: when it would reach 65,535 every count is first halved, odd ones rounded up (R153). -/
def histInc (h : List Nat) (k : Nat) : List Nat :=
  let h := if 65535 ≤ h.getD k 0 + 1 then h.map (fun n => (n + 1) / 2) else h
  h.set k (h.getD k 0 + 1)

/-- The bits a histogram would cost with a table. -/
def histCost (h : List Nat) (t : CodeTab) : Nat := (List.zipWith (· * ·) h t).foldl (· + ·) 0

/-- TABLE_MODE's choice for a block (R154): the dynamic table, or none for the static one. -/
def chooseTable (mode kind : Nat) (h : List Nat) (dyn : Option CodeTab) : Option CodeTab :=
  match dyn with
  | none => none
  | some d =>
    match mode with
    | 0 => none
    | 1 => some d
    | _ => if histCost h d + 192 < histCost h (if kind = 0 then tableT else tableF) then some d else none

/-! ### Code words (R150) -/

/-- The prefix code and extra bits of a mapped residue. -/
def codeRes (t : CodeTab) (m : Nat) : List Bool :=
  let k := bitLen m
  msbBits (lenOf t k) (codeOf t k) ++ (if k ≤ 1 then [] else msbBits (k - 1) (m - 2 ^ (k - 1)))

/-- The frame elements vals (a packet's, in rows of w, b bits each) as code words under table t and the predictor chosen. -/
def frameItems (b w : Nat) (t : CodeTab) (left : Bool) (vals : List Nat) : List CItem :=
  let lefts := 0 :: vals
  let ups := List.replicate w 0 ++ vals
  let upLefts := 0 :: ups
  (List.range vals.length).zip (vals.zip (lefts.zip (ups.zip upLefts))) |>.map (fun q =>
    let (i, x, a, u, c) := q
    let (pm, pl) := preds w i a u c
    let mm := mapRes (residue b x pm)
    let ml := mapRes (residue b x pl)
    let m := if left then ml else mm
    { w := b, v := x, coded := codeRes t m, m := m, mm := mm, ml := ml, sym := some (bitLen m), cover := 1 })

/-- OFFSET of an event word (table Events-1). -/
def wordOffset (v : Nat) : Nat := bits v 1 38

/-- The code word of an event word whose predecessor's OFFSET is prev (R148, R150). -/
def eventItem (t : CodeTab) (prev v : Nat) : CItem :=
  let m := mapRes (residue 38 (wordOffset v) prev)
  let flags := 8 * bits v 63 1 + 4 * bits v 62 1 + 2 * bits v 61 1 + bits v 0 1
  let loc := 128 * (bits v 48 9 % 128) + bits v 39 9 % 128
  { w := 64, v := v, coded := codeRes t m ++ msbBits 4 flags ++ msbBits 14 loc ++ msbBits 4 (bits v 57 4), m := m,
    mm := m, ml := m, sym := some (bitLen m), cover := 1 }

/-- A word of BINARY pixels, at most 64 of them: an item that is never split (R150). -/
def binaryItem (px : List Nat) : CItem :=
  { w := px.length, v := px.foldr (fun x a => x % 2 + 2 * a) 0, coded := [], m := 1, mm := 0, ml := 0, sym := none, cover := px.length }

/-- The items of a BINARY frame given by its pixels: words of 64, a last partial word taking what remains (R150). -/
def binaryItems (px : List Nat) : List CItem :=
  (List.range ((px.length + 63) / 64)).map (fun i => binaryItem ((px.drop (64 * i)).take 64))

/-- The occupancy byte of a row of 512 counts (R129). -/
def occupancy (row : List Nat) : Nat :=
  (List.range 8).foldl (fun a j => if ((row.drop (64 * j)).take 64).any (· != 0) then a + 2 ^ j else a) 0

/-- The occupancy byte of a row as an item: it covers the pixels of the suppressed segments (R129). -/
def occItem (row : List Nat) : CItem :=
  let o := occupancy row
  { w := 8, v := o, coded := msbBits 8 o, m := 1, mm := 0, ml := 0, sym := none,
    cover := (List.range 8).foldl (fun a j => if bit o j then a else a + ((row.drop (64 * j)).take 64).length) 0 }

/-- One row of a zero-suppressed frame: its occupancy byte, then the items of its occupied segments (R129, R147). -/
def zsRow (row : List Nat) (items : List CItem) : List CItem :=
  occItem row :: (List.range 8).flatMap (fun j => if bit (occupancy row) j then (items.drop (64 * j)).take 64 else [])

/-- A list cut into rows of w; fuel bounds the count. -/
def rowsOf {α : Type} (w : Nat) : Nat → List α → List (List α)
  | 0, _ => []
  | n + 1, l => if l.isEmpty then [] else l.take w :: rowsOf w n (l.drop w)

/-- The items of a zero-suppressed packet of rows of 512 (R129). -/
def zsItems (vals : List Nat) (items : List CItem) : List CItem :=
  ((rowsOf 512 512 vals).zip (rowsOf 512 512 items)).flatMap (fun p => zsRow p.1 p.2)

/-- The items of a zero-suppressed BINARY frame: each row's occupancy byte, then a word for each occupied segment (R129, R150). -/
def zsBinaryItems (vals : List Nat) : List CItem :=
  (rowsOf 512 512 vals).flatMap (fun row => occItem row ::
    (List.range 8).filterMap (fun j => if bit (occupancy row) j then some (binaryItem ((row.drop (64 * j)).take 64)) else none))

/-- The occupied segments of a frame (NZ_SEG). -/
def nzSegments (vals : List Nat) : Nat :=
  (rowsOf 512 512 vals).foldl (fun a r => a + popCount (occupancy r) 8) 0

/-! ### Chunks (R146, R159, R162) -/

/-- The canonical original of items (R146). -/
def canonBytes (l : List CItem) : List Nat := packLsb (l.flatMap (fun x => lsbBits x.w x.v))

/-- The sizes in bytes of a chunk's two bodies. -/
def codedLen (l : List CItem) : Nat := (l.foldl (fun a x => a + x.coded.length) 0 + 7) / 8
def canonLen (l : List CItem) : Nat := (l.foldl (fun a x => a + x.w) 0 + 7) / 8

/-- The space a chunk needs in its larger form, tag included (R162). -/
def chunkSpace (l : List CItem) : Nat := 1 + max (codedLen l) (canonLen l)

/-- The form of a chunk (table Compression-5): 2 ZERO, 0 CODED or 1 STORED. zero says that ZERO may be used. -/
def chunkForm (kind : Nat) (zs : Bool) (l : List CItem) : Nat :=
  if kind = 2 then 1
  else if kind != 0 && !zs && l.all (fun x => x.m == 0) then 2
  else if codedLen l < canonLen l then 0 else 1

/-- A chunk's bytes: its tag and its body (R159). -/
def chunkBytes (kind : Nat) (zs : Bool) (l : List CItem) : List Nat :=
  match chunkForm kind zs l with
  | 2 => [2]
  | 0 => 0 :: packMsb (l.flatMap (·.coded))
  | _ => 1 :: canonBytes l

/-! ### Packets (R157, R158) -/

/-- LEN_SLOT of a closed packet (table Compression-4). -/
def lenSlot (n : Nat) (trunc final : Bool) : Nat :=
  let x := n % 2 ^ 20 + b2n trunc <<< 20 + b2n final <<< 21 + 1 <<< 22
  x + (0xFF ^^^ (bits x 0 8 ^^^ bits x 8 8 ^^^ bits x 16 8)) <<< 24

/-- The 24 table bytes of a dynamic table (TABLE of table Compression-3). -/
def tableBytes (t : CodeTab) : List Nat :=
  (List.range 20).map (fun i => t.getD (2 * i) 0 % 16 + 16 * (t.getD (2 * i + 1) 0 % 16)) ++ List.replicate 4 0

/-- The header of a packet (table Compression-3), LEN_SLOT 0. -/
def pktHeader (kind region flags modId seq tick first epoch : Nat) (dyn : Option CodeTab) : List Nat :=
  bytesLE 4 0 ++ [16 * kind + region % 16, flags, if dyn.isSome then 7 else 4, 1] ++ bytesLE 4 modId ++ bytesLE 4 seq
    ++ bytesLE 8 (tick % 2 ^ 48) ++ bytesLE 4 first ++ bytesLE 4 epoch ++ (dyn.map tableBytes).getD []

/-- A packet closed behind its payload: padding, trailer and PKT_CRC added, LEN_SLOT filled. -/
def pktClose (body : List Nat) (elems : Nat) (orig : List Nat) (trunc final : Bool) : List Nat :=
  let b := body ++ List.replicate ((8 - body.length % 8) % 8) 0 ++ bytesLE 4 elems ++ bytesLE 4 orig.length
    ++ bytesLE 4 (crc32c orig)
  let b := b ++ bytesLE 4 (crc32c (b.drop 4))
  bytesLE 4 (lenSlot b.length trunc final) ++ b.drop 4

/-- PKT_BYTES a LEN_SLOT carries, when it is valid and its SLOT_CHK matches (R158). -/
def slotLen (x : Nat) : Option Nat :=
  if bit x 22 && bits x 24 8 == 0xFF ^^^ (bits x 0 8 ^^^ bits x 8 8 ^^^ bits x 16 8) then some (bits x 0 20) else none

/-! ### Event words and records (R120, R125 to R132) -/

/-- An event word (table Events-1); off is OFFSET modulo 2^38. -/
def eventWord (test multi late calok : Bool) (pix crow ccol off : Nat) : Nat :=
  b2n calok + (off % 2 ^ 38) <<< 1 + (ccol % 512) <<< 39 + (crow % 512) <<< 48 + (pix % 16) <<< 57 + b2n late <<< 61
    + b2n multi <<< 62 + b2n test <<< 63

/-- The 12 bytes of a TB time inside a record (R126), from a time in fu. -/
def recTime (x : Int) : List Nat :=
  let t := x.toNat
  bytesLE 12 (t % 160 + ((t / 160) % 1000000000) <<< 16 + ((t / 160000000000) % 2 ^ 48) <<< 48)

/-- A record: the common header, its body, and the CRC-32C over all before it (R125). -/
def recordOf (ty modId : Nat) (body : List Nat) : List Nat :=
  let b := bytesLE 2 ty ++ [(8 + body.length + 4) / 8, 1] ++ bytesLE 4 modId ++ body
  b ++ bytesLE 4 (crc32c b)

/-- A count kept in 32 bits, saturating. -/
def u32 (n : Nat) : List Nat := bytesLE 4 (satN 0xFFFFFFFF n)
def u16 (n : Nat) : List Nat := bytesLE 2 (satN 0xFFFF n)

/-- A slate (table Events-7). -/
def slateRec (modId trigId region cls flags : Nat) (tt : Int) (epoch pre post reel take words : Nat) : List Nat :=
  recordOf 2 modId (bytesLE 4 trigId ++ [region, cls] ++ bytesLE 2 flags ++ recTime tt ++ bytesLE 4 epoch ++ bytesLE 4 pre
    ++ bytesLE 4 post ++ [reel, 0, 0, 0] ++ bytesLE 4 take ++ u32 words ++ List.replicate 8 0)

/-- A GAP record (table Events-8). -/
def gapRec (modId first last src regions reason : Nat) (now : Int) : List Nat :=
  recordOf 3 modId (bytesLE 8 (first % 2 ^ 48) ++ bytesLE 8 (last % 2 ^ 48) ++ bytesLE 4 src ++ bytesLE 2 regions
    ++ [reason, 0] ++ recTime now)

/-- A POISON record (table Events-9). -/
def poisonRec (modId reel take off len : Nat) (at_ : Int) : List Nat :=
  recordOf 4 modId ([reel, 0, 0, 0] ++ bytesLE 4 take ++ bytesLE 8 off ++ bytesLE 4 len ++ bytesLE 4 0 ++ recTime at_)

/-- A dump record (table Events-6). -/
def dumpRec (modId tick region flags binw sat drop late under above inj : Nat) : List Nat :=
  recordOf 5 modId (bytesLE 8 (tick % 2 ^ 48) ++ [region, flags, binw, 0] ++ u32 sat ++ u32 drop ++ u32 late ++ u32 under
    ++ u32 above ++ u32 inj)

end Sys2Proof.Machine
end

