-- ==== Sys2Proof/Machine/Fields.lean ====
section
/-! DEFINITION. Every field of every register table of the spec: one constructor of Fld a field, its place, access
type, reset entry, reserved encodings (R7) and commit limits (R351), and which fields each page holds (R345, R348). -/

namespace Sys2Proof.Machine

/-- The twenty blocks of table Scope-2, in the order of their window index. -/
inductive Blk where
  | pmr | sns | pfe | tdc | seq | evb | trg | hst | acc | cmp | que | cab | edc | tbs | lnk | tre | eth | ctl | hka | flt
  deriving DecidableEq, Repr

/-- The access types of R6 (table Scope-3). -/
inductive Acc where
  | ro | rw | wo | w1c | w1s | rwc
  deriving DecidableEq, Repr

/-- The entries of a register table's Reset column (table Pages-6). -/
inductive RVal where
  | num (n : Nat)
  | factory | fuses | boot | contacts | cause | image | ident | undef | table
  deriving DecidableEq, Repr

/-- Where a field lies and how it behaves. Instance i lies at byte off + stride*(i/inner) + istr*(i%inner) of its page,
from bit lo + bstr*(i%inner), counted through the words upwards; a field of a region page has one instance a region. -/
structure FDesc where
  blk : Blk
  region : Bool
  off : Nat
  lo : Nat
  width : Nat
  acc : Acc
  reset : RVal
  count : Nat := 1
  stride : Nat := 0
  inner : Nat := 1
  istr : Nat := 0
  bstr : Nat := 0
  first : Nat := 0
  resv : List (Nat × Nat) := []
  rej : List (Nat × Nat) := []
  own : Bool := false
  time : Bool := false
  deriving DecidableEq, Repr

/-- One constructor for each field of the register tables; the prefix names the page (a final r: its region pages; hdr: the page header). -/
inductive Fld where
  | pmr_PWR_CMD | pmr_RST_MODULE | pmr_FW_ACTIVATE | pmr_FW_CONFIRM | pmr_CFG_ERR | pmr_PWR_CMD_ERR
  | pmr_PWR_STATE | pmr_ACQ_ENABLED | pmr_BOOT_SLOT | pmr_TRIAL | pmr_BOOT_FALLBACK | pmr_RESET_CAUSE
  | pmr_CAB_OFFLINE | pmr_BLK_RST | pmr_CONFIRM_TMO | pmr_PART_NO | pmr_ORDER_CODE | pmr_SI_STEP
  | pmr_SEC_VER_MIN | pmr_SERIAL | pmr_FW_VER_A | pmr_FW_VER_B | pmr_START_COUNT | pmr_START_MS
  | pmr_XING_OVR | pmr_XING_EXCESS | sns_BIAS_EN | sns_TSRC | sns_SERVO_EN | sns_BR_TC | sns_BIAS_SLEW
  | sns_RAMP_RATE | sns_OC_TOTAL | sns_CFG_ERR | sns_BIAS_FROZEN | sns_BIAS_EN_ERR | sns_OC_TOTAL_TRIP
  | sns_T_USED | sns_VEX | sns_BR_TRIM | sns_OC_LIMIT | sns_OC_FILT | sns_V_SET | sns_BIAS_OK | sns_RAMPING
  | sns_OC_TRIP | sns_VCLAMP | pfe_MASK_SAVE | pfe_MASK_SAVE_BUSY | pfe_MASK_IMG_VALID | pfe_MASK_SAVE_IGN
  | pfe_REGION_CFG_ERR | pfer_FE_EN | pfer_FE_ABORT | pfer_HOLDOFF | pfer_SENSE_THR | pfer_SENSE_HYS
  | pfer_MASK_ADDR | pfer_MASK_VIEW | pfer_MASK_AUTO_INC | pfer_MASK_DATA | pfer_HOT_THR | pfer_HOT_RUN
  | pfer_HOT_ACT | pfer_HOT_CLR | pfer_INJ_EN | pfer_INJ_PAT | pfer_INJ_PIX | pfer_INJ_AMP | pfer_INJ_REF
  | pfer_INJ_DELAY | pfer_INJ_COUNT | pfer_INJ_PERIOD | pfer_CFG_ERR | pfer_THR_ERR | pfer_FE_FINAL
  | pfer_INJ_OVR | pfer_HOT_FULL | pfer_HOT_LEN | pfer_INJ_ISSUED | pfer_SAT_LAST | pfer_MASKED_CNT
  | pfer_MASKED_TDC | pfer_HOT_IDX | pfer_HOT_ADDR | pfer_HOT_ACTED | tdc_AUX_EN | tdc_AUX_EDGE | tdc_AUX_DIV
  | tdc_AUX_OFS | tdc_CFG_ERR | tdc_CLK_FAULT | tdc_CLK_BAD | tdc_AUX_OVR | tdc_AUX_CALOK | tdc_AUX_SKIP
  | tdc_AUX_DROP | tdc_CALOK_MAP | tdc_CODE_ERR_ALL | tdcr_TDC_EN | tdcr_TDC_ABORT | tdcr_CAL_RESET
  | tdcr_CAL_SRC | tdcr_CAL_AVG | tdcr_DITHER_EN | tdcr_CAL_DARK | tdcr_REGION_OFS | tdcr_CAL_EXCL
  | tdcr_CAL_JUMP | tdcr_CAL_CONV_THR | tdcr_CAL_TMAX | tdcr_CFG_ERR | tdcr_TDC_FINAL | tdcr_CAL_LOAD_BUSY
  | tdcr_CALOK | tdcr_DROP_QFULL | tdcr_DROP_AGE | tdcr_DROP_ABORT | tdcr_CODE_ERR | tdcr_PH_AMBIG
  | tdcr_OFS_ADDR | tdcr_OFS_VIEW | tdcr_OFS_AUTO_INC | tdcr_TDC_OFF | tdcr_BIN_IDX | tdcr_BIN_GRP
  | tdcr_BIN_VIEW | tdcr_BIN_DATA | tdcr_LOAD_GRP | tdcr_LOAD_OK | tdcr_CAL_LOAD | tdcr_GRP_SEL
  | tdcr_CAL_GEN | tdcr_GRP_CALOK | tdcr_CAL_CONV | tdcr_CAL_REJ_RUN | tdcr_CAL_FILL | tdcr_CAL_RESID
  | tdcr_CAL_REJ | tdcr_CAL_TIMEOUT | tdcr_GRP_DROP | seq_COMMIT | seq_COMMIT_AT_EN | seq_CFG_ERR
  | seq_TICK_CFG_ERR | seq_TICK_BUDGET_ERR | seq_MODE_ERR | seq_COMMIT_PEND | seq_COMMIT_LATE
  | seq_COMMIT_BUSY | seq_TICK_RUN | seq_TICK_SLIP | seq_TICK_BUDGET_REGION | seq_TICK_BUDGET_MIN
  | seq_CFG_EPOCH | seq_TICK_NUM | seq_TICK_DEN | seq_TICK_EPOCH | seq_TICK_BASE | seq_TICK_INDEX
  | seq_COMMIT_TICK | seq_EPOCH_TICK | seq_REGION_MODE | seq_REGION_ABORT | seq_REGION_FINAL
  | seq_TICK_OVR_CNT | evb_REORDER_WIN | evb_HEAD_IDLE | evb_ZS_EN | evb_CFG_ERR | evb_RS_EARLY
  | evb_LATE_CNT | evb_EARLY_REL | trg_TRG_EN | trg_SOFT_REQ | trg_MARK | trg_LOC_COINC | trg_REQ_MERGE
  | trg_DEC_COINC | trg_CFG_ERR | trg_REQ_OVR | trg_TRIG_LAT_ERR | trg_TRG_FINAL | trg_LOCAL_LUT
  | trg_DEC_LUT | trg_TRIG_HOLDOFF | trg_TRIG_FIX_LAT | trg_TRIG_LAT_MIN | trg_WIN_PRE | trg_WIN_POST
  | trg_WIN_REEL | trg_RATE_REGIONS | trg_RATE_WIN | trg_RATE_THR | trg_TO_SRC | trg_TO_REGION | trg_TO_WIDTH
  | trg_TO_OFS | trg_REQ_SENT | trg_REQ_MERGED | trg_REQ_EXCESS | trg_DEC_COUNT | trg_DEC_REJ | trg_DEC_HELD
  | trg_TRIG_LATE | trg_PRE_SHORT_CNT | trg_LAST_TRIG_ID | trg_LAST_TT | trg_LAST_CLASS | hst_REGION_CFG_ERR
  | hstr_GATE_REF | hstr_GATE_CYCLE | hstr_HST_BINW | hstr_GATE_START | hstr_GATE_STOP | hstr_GATE_STEP
  | hstr_GATE_NSTEP | hstr_CFG_ERR | hstr_GATE_CFG_ERR | hstr_GATE_HELD | hstr_HST_SAT | hstr_GATE_IDX
  | hstr_SYNC_MISSED | hstr_HST_UNDER | hstr_HST_OVER | hstr_HST_DROP | hstr_HST_LATE | acc_REGION_CFG_ERR
  | accr_ACC_N | accr_SHUTTER | accr_CFG_ERR | accr_SUB_IDX | accr_PARTIAL | accr_ACC_FRAMES
  | accr_ACC_PARTIAL_CNT | cmp_REGION_CFG_ERR | cmp_RP_PKTS | cmp_RP_STALL | cmpr_CMP_EN | cmpr_CMP_ABORT
  | cmpr_TABLE_MODE | cmpr_PRED_MODE | cmpr_STALL_LIMIT | cmpr_CFG_ERR | cmpr_CMP_FINAL | cmpr_STALLED
  | cmpr_TRUNC_SEEN | cmpr_FORCED | cmpr_CTX_LOAD_BUSY | cmpr_ACT_KIND | cmpr_PKT_CNT | cmpr_TRUNC_CNT
  | cmpr_STORED_CHUNKS | cmpr_PREEMPT_CNT | cmpr_TRUNC_ELEMS | cmpr_STALL_TIME | cmpr_IN_BYTES
  | cmpr_OUT_BYTES | cmpr_CTX_KIND | cmpr_CTX_IDX | cmpr_CTX_VIEW | cmpr_CTX_LOAD | cmpr_CTX_DATA
  | que_PACK_MODE | que_STARVE_LIMIT | que_SHARE_CAP | que_HOLD_MARK | que_CFG_ERR | que_NARROW
  | que_PACK_FAULT | que_UNCORR_SEEN | que_PATCH_FULL | que_LANE_OUT | que_ROUTE_UP | que_ROUTE_ETH
  | que_HOLD_LIMIT | que_SHARED_USED | que_SHARED_PEAK | que_PATCH_USED | que_CORR | que_UNCORR
  | que_HELD_CNT | que_PATCH_CNT | que_GRANT_WAIT | cab_SCRUB_EN | cab_REPAIR_AUTO | cab_PPR_HARD_EN
  | cab_REPAIR_RUN | cab_OFL_START | cab_OFL_ABORT | cab_CMD_GO | cab_SCRUB_PERIOD | cab_CFG_ERR
  | cab_CMD_BUSY | cab_REPAIR_BUSY | cab_OFL_BUSY | cab_SCRUB_LATE | cab_PATCH_FULL | cab_DIR_DAMAGED
  | cab_CMD_RES | cab_CMD_OP | cab_CMD_ARG0 | cab_CMD_ARG1 | cab_CMD_TICK | cab_CMD_OUT | cab_STREAM_REEL
  | cab_DOWN_REEL | cab_READ_SHARE | cab_OFL_TAKE | cab_OFL_FROM | cab_OFL_QP | cab_OFL_UP | cab_OFL_DONE
  | cab_OFL_STATE | cab_DIR_DATA | cab_SCRUB_PASSES | cab_SCRUB_QUANT | cab_REC_DISC | cab_REEL_FREE
  | cab_REEL_FULL | cab_REEL_RING | cab_REEL_DEF | cab_TAKE_OPEN | cab_REEL_POLICY | cab_REEL_DISC
  | edc_SRAM_WIN | edc_CFG_ERR | edc_POOL_LOW | edc_POOL_EXH | edc_TRACK_OVF | edc_SRAM_SPARE_EXH
  | edc_SELFTEST_FAIL | edc_STORE_CORR | edc_STORE_UNCORR | edc_POISONED | edc_HARD_LINES | edc_SPANS_MAPPED
  | edc_PPR_SOFT | edc_PPR_HARD | edc_PATCH_LOST | edc_WB_SKIP | edc_SRAM_CORR | edc_SRAM_UNCORR
  | edc_SRAM_ROWS_SPARED | edc_LOG_IDX | edc_LOG_HEAD | edc_LOG_LINE | edc_LOG_SRAM | edc_LOG_SYMS
  | edc_LOG_SRC | edc_LOG_HARD | edc_LOG_POISON | edc_LOG_COUNT | edc_LOG_NS | edc_LOG_SEC | edc_SPARE_FREE
  | tbs_SRC_PRIO | tbs_SRC_REVERT | tbs_SERVO_MODE | tbs_REF_FREQ | tbs_PPS_EDGE | tbs_CLAP_PORT_SEL
  | tbs_STEP_CMD | tbs_SNAP_REQ | tbs_CFG_ERR | tbs_SRC_ACT | tbs_LOCKED | tbs_HOLDOVER | tbs_FREERUN
  | tbs_REF_QUAL | tbs_REF_LOST | tbs_REF_BAD | tbs_PPS_QUAL | tbs_PPS_LOST | tbs_CLAP_QUAL | tbs_PTP_QUAL
  | tbs_STEPPED | tbs_STEP_REFUSED | tbs_FREQ_CLAMP | tbs_SNAP_DONE | tbs_TQ | tbs_STEP_GEN | tbs_KP_M
  | tbs_KP_E | tbs_KI_M | tbs_KI_E | tbs_LOCK_THR | tbs_LOCK_CNT | tbs_UNLOCK_THR | tbs_SLEW_LIM
  | tbs_STEP_THR | tbs_HO_AVG | tbs_HO_WARN | tbs_FREQ_FACT | tbs_FREQ_WORD | tbs_PHASE_ERR | tbs_REF_PPM
  | tbs_TIME_NOW | tbs_TIME_SET | tbs_SNAP_TIME | tbs_SNAP_COARSE | tbs_EXT_SEC | tbs_EXT_SEC_VALID
  | tbs_SRC_SWITCHES | tbs_STEP_COUNT | tbs_CYCLE_SLIP | tbs_ASYM_EXT0 | tbs_ASYM_EXT1 | tbs_TX_LAT
  | tbs_RX_LAT | tbs_CLAP_OFS | tbs_CLAP_DELAY | tbs_CLAP_VALID | tbs_CLAP_LANE | tbs_CLAP_TQ | tbs_PTP_EN
  | tbs_PTP_TRANSPORT | tbs_PTP_DOMAIN | tbs_PTP_ASYM | tbs_GM_ID | tbs_UTC_OFS | tbs_PTP_DISC
  | tbs_PPS_OUT_MODE | tbs_PPS_WIDTH | tbs_PPS_OUT_OFS | lnk_PORT_EN | lnk_PORT_SPLIT | lnk_REV_CAP
  | lnk_PORT_ABORT | lnk_CFG_ERR | lnk_PORT_UP | lnk_DEGRADED | lnk_MISWIRE | lnk_PORT_FINAL | lnk_LANE_EN
  | lnk_EQ_MODE | lnk_COMPAT_PRE | lnk_COMPAT_POST | lnk_HB_MISS | lnk_RETRY_MAX | lnk_REPLAY_TMO
  | lnk_CLAP_VIEW | lnk_RETRAIN | lnk_L0_STATE | lnk_L1_STATE | lnk_LANES_UP | lnk_LINK_REV
  | lnk_PARTNER_REV_MAX | lnk_SILENT | lnk_LANE_LOSS | lnk_ALIGN_ERR | lnk_PARTNER_ID | lnk_PARTNER_FEAT
  | lnk_PARTNER_PORT | lnk_PARTNER_ROLE | lnk_PARTNER_SPLIT | lnk_PARTNER_MROLE | lnk_PARTNER_FW | lnk_TX_PRE
  | lnk_TX_POST | lnk_CTLE | lnk_EQ_COMPAT | lnk_BACKOFF_NOW | lnk_BLK_ERR | lnk_CTL_BAD | lnk_CTL_UNK
  | lnk_STUFF_ERR | lnk_SCR_ERR | lnk_CRC_ERR | lnk_REPLAYS | lnk_LOSS_CNT | lnk_TRAIN_FAIL | lnk_RESTRIPES
  | lnk_VC_ERR | lnk_TRIG_RESEND | lnk_TRIG_DUP | tre_TRE_EN | tre_STBY_EN | tre_ID_MODE | tre_ROLE_SW
  | tre_MERGE_WAIT | tre_ENUM_START | tre_CLAIM_REQ | tre_CFG_ERR | tre_ROLE | tre_ENUM_DONE | tre_TOPO_FAULT
  | tre_CRED_VIOL | tre_FEAT_PEND | tre_HOLE_OVF | tre_TRE_FINAL | tre_STRAP_POS | tre_STRAP_ROLE
  | tre_MODULE_ID | tre_ROOT_ID | tre_HOP | tre_DEPTH | tre_TREE_FEAT | tre_FEAT_TICK | tre_FW_VER
  | tre_FW_MIN | tre_MERGE_HZN | tre_GAP_EMIT | tre_LATE_PKT | tre_DUP_PKT | tre_FAILOVERS
  | tre_CLAIM_REFUSED | tre_RELAY_FWD | tre_RELAY_NOROUTE | tre_CRED_VIOL_CNT | tre_HOLES | tre_FWD_LOG
  | tre_ENUM_IDX | tre_ENUM_COUNT | tre_ENUM_MODULE | tre_ENUM_PRIMARY | tre_ENUM_STANDBY | tre_ENUM_HOP
  | tre_ENUM_FW | tre_ENUM_FEAT | tre_LINK_ROLE | tre_STBY_OK | tre_LINK_CLAIM | tre_LINK_HZN | tre_CRED_WAIT
  | tre_LINK_GAPS | tre_PEER_ID | eth_ETH_EN | eth_ETH_SPEED | eth_FEC_EN | eth_DHCP_EN | eth_VLAN_EN
  | eth_VID | eth_CTL_PCP | eth_PFC_EN | eth_PFC_PRIO | eth_ICMP_RATE | eth_CFG_ERR | eth_LINK_UP
  | eth_ADDR_VALID | eth_PAUSED | eth_ETH_FINAL | eth_QP_FINAL | eth_QP_ABORT | eth_MAC_ADDR | eth_IP_ADDR
  | eth_NETMASK | eth_GATEWAY | eth_IP_IN_USE | eth_LEASE_LEFT | eth_ACK_TMO | eth_RETRY_CNT | eth_MSG_LOG2
  | eth_CNP_CUT | eth_RECOV_US | eth_RAI | eth_DLY_BIN | eth_DLY_SRC | eth_DLY_DIV | eth_DLY_REGIONS
  | eth_RX_DISC_LEN | eth_RX_DISC_VLAN | eth_RX_DISC_TYPE | eth_RX_DISC_IP | eth_RX_DISC_PORT
  | eth_RX_DISC_FCS | eth_ICMP_LIMITED | eth_INBOUND_REQ | eth_NO_QP | eth_EVQ_LOST | eth_DLY_DROP
  | eth_DLY_LOST | eth_QP_EN | eth_QP_USE | eth_PMTU | eth_RING_OVF | eth_ECN_EN | eth_DSCP | eth_QP_PCP
  | eth_KIND_MASK | eth_DEST_IP | eth_DEST_QPN | eth_RKEY | eth_RING_VA | eth_RING_LOG2 | eth_REGION_MASK
  | eth_START_PSN | eth_QP_CI | eth_QP_PI | eth_QP_STATE | eth_NEXT_PSN | eth_RATE | eth_RETRANS | eth_CNP_RX
  | eth_TIMEOUTS | eth_RNR_CNT | eth_QP_HELD | ctl_THB_PORT | ctl_SESS_IDLE | ctl_KEY_CLEAR | ctl_CFG_ERR
  | ctl_PROV | ctl_SESS_OPEN | ctl_KEY_VALID | ctl_KEY | ctl_KEY_LEVEL | ctl_KEY_REVOKE | ctl_SESS_SLOT
  | ctl_SESS_LEVEL | ctl_SESS_IP | ctl_SESS_PORT | ctl_SESS_SALT | ctl_FW_BEGIN | ctl_FW_VERIFY
  | ctl_FW_ABORT | ctl_FW_SIZE | ctl_FW_STATE | ctl_FW_MISSING | ctl_AUTH_FAIL | ctl_REPLAY_DROP
  | ctl_THB_OVF | ctl_MSG_EXEC | hka_SCAN_TRIG | hka_MAINS | hka_TEC_DLY | hka_SCAN_PER | hka_RTD_EN
  | hka_CAL_REQ | hka_CFG_ERR | hka_SCAN_CFG_ERR | hka_CAL_BUSY | hka_CAL_FAIL | hka_CAL_ABORTED
  | hka_INJ_BUSY | hka_RTD_OPEN | hka_CLAMP_SEEN | hka_CAL_PERIOD | hka_CAL_IGN | hka_INJ_INPUT
  | hka_INJ_URGENT | hka_INJ_REQ | hka_INJ_IGN | hka_INJ_CODE | hka_INJ_IN | hka_INJ_RANGE | hka_INJ_DONE
  | hka_INJ_CLAMP | hka_INJ_VALUE | hka_TEC_EN | hka_TEC_PER | hka_TEC_DUTY | hka_DIE_T_WARN | hka_DIE_T_TRIP
  | hka_CAL_OFS | hka_CAL_GAIN | hka_RANGE_GAIN0 | hka_RANGE_GAIN1 | hka_RANGE_GAIN2 | hka_IEXC | hka_RES_VAL
  | hka_VALID | hka_STALE | hka_OPEN | hka_OVR | hka_SETTLING | hka_CLAMP | hka_OOR | hka_RANGE | hka_AGE
  | flt_SHADOW_US | flt_INJ_ACT | flt_INJ_GO | flt_RESYNC_WIN | flt_CFG_ERR | flt_MAX_LEVEL | flt_SAFE_ACT
  | flt_FAULT_N_OUT | flt_FAULT_LINE_LOW | flt_CLR_REFUSED | flt_ACK_REAL | flt_ACK_INJ | flt_CLR_REAL
  | flt_CLR_INJ | flt_INJ_CLASS | flt_INJ_LEVEL | flt_INJ_UNIT | flt_LEVEL | flt_STATE | flt_COND
  | flt_INJ_LVL_NOW | flt_INJ_STATE | flt_LAST_UNIT | flt_RAISED | flt_INJ_RAISED | flt_ESCALATED
  | flt_CONSEQ | flt_MEM_A | flt_MEM_B | flt_MEM_C | flt_CORE_RESTARTED | flt_RESYNC_A | flt_RESYNC_B
  | flt_RESYNC_C | flt_MAJ_LOSS | flt_LOG_IDX | flt_LOG_HEAD | flt_LOG_CLASS | flt_LOG_LEVEL | flt_LOG_DET
  | flt_LOG_INJ | flt_LOG_REAL | flt_LOG_CONSEQ | flt_LOG_ESC | flt_LOG_SIM | flt_LOG_UNIT | flt_LOG_EV
  | flt_LOG_NS | flt_LOG_SEC | hdr_WIN | hdr_PAGE | hdr_LAYOUT | hdr_PAGE_NAME | hdr_RD_MASK | hdr_WR_MASK
  | hdr_SHADOW_DIRTY | hdr_REVERT | hdr_PAGE_EPOCH | hdr_WR_COUNT | hdr_DENY_CNT | hdr_SNAP_MISS
  | hdr_LAST_SRC | hdr_LAST_LVL
  deriving DecidableEq, Repr

/-- The row of the register tables for each field. -/
def Fld.desc : Fld → FDesc
  -- PMR page, tables Clocks-9 to Clocks-12 (15_clocks_resets_startup.md)
  | .pmr_PWR_CMD => { blk := .pmr, region := false, off := 0x20, lo := 0, width := 3, acc := .wo, reset := (.num 0), resv := [(4, 7)] }
  | .pmr_RST_MODULE => { blk := .pmr, region := false, off := 0x20, lo := 3, width := 1, acc := .w1s, reset := (.num 0), own := true }
  | .pmr_FW_ACTIVATE => { blk := .pmr, region := false, off := 0x20, lo := 4, width := 1, acc := .w1s, reset := (.num 0), own := true }
  | .pmr_FW_CONFIRM => { blk := .pmr, region := false, off := 0x20, lo := 5, width := 1, acc := .w1s, reset := (.num 0), own := true }
  | .pmr_CFG_ERR => { blk := .pmr, region := false, off := 0x24, lo := 0, width := 1, acc := .w1c, reset := (.num 0) }
  | .pmr_PWR_CMD_ERR => { blk := .pmr, region := false, off := 0x24, lo := 1, width := 1, acc := .w1c, reset := (.num 0) }
  | .pmr_PWR_STATE => { blk := .pmr, region := false, off := 0x24, lo := 2, width := 3, acc := .ro, reset := (.num 0) }
  | .pmr_ACQ_ENABLED => { blk := .pmr, region := false, off := 0x24, lo := 5, width := 1, acc := .ro, reset := (.num 0) }
  | .pmr_BOOT_SLOT => { blk := .pmr, region := false, off := 0x24, lo := 6, width := 1, acc := .ro, reset := .boot }
  | .pmr_TRIAL => { blk := .pmr, region := false, off := 0x24, lo := 7, width := 1, acc := .ro, reset := .boot }
  | .pmr_BOOT_FALLBACK => { blk := .pmr, region := false, off := 0x24, lo := 8, width := 1, acc := .w1c, reset := .boot }
  | .pmr_RESET_CAUSE => { blk := .pmr, region := false, off := 0x24, lo := 9, width := 3, acc := .ro, reset := .cause }
  | .pmr_CAB_OFFLINE => { blk := .pmr, region := false, off := 0x24, lo := 12, width := 1, acc := .ro, reset := (.num 0) }
  | .pmr_BLK_RST => { blk := .pmr, region := false, off := 0x28, lo := 0, width := 20, acc := .w1s, reset := (.num 0), own := true }
  | .pmr_CONFIRM_TMO => { blk := .pmr, region := false, off := 0x2c, lo := 0, width := 16, acc := .rw, reset := (.num 0x258) }
  | .pmr_PART_NO => { blk := .pmr, region := false, off := 0x30, lo := 0, width := 16, acc := .ro, reset := (.num 0x2048) }
  | .pmr_ORDER_CODE => { blk := .pmr, region := false, off := 0x30, lo := 16, width := 2, acc := .ro, reset := .fuses }
  | .pmr_SI_STEP => { blk := .pmr, region := false, off := 0x30, lo := 18, width := 6, acc := .ro, reset := .fuses }
  | .pmr_SEC_VER_MIN => { blk := .pmr, region := false, off := 0x30, lo := 24, width := 8, acc := .ro, reset := .fuses }
  | .pmr_SERIAL => { blk := .pmr, region := false, off := 0x34, lo := 0, width := 64, acc := .ro, reset := .factory }
  | .pmr_FW_VER_A => { blk := .pmr, region := false, off := 0x3c, lo := 0, width := 16, acc := .ro, reset := .boot }
  | .pmr_FW_VER_B => { blk := .pmr, region := false, off := 0x3c, lo := 16, width := 16, acc := .ro, reset := .boot }
  | .pmr_START_COUNT => { blk := .pmr, region := false, off := 0x40, lo := 0, width := 32, acc := .ro, reset := .boot }
  | .pmr_START_MS => { blk := .pmr, region := false, off := 0x44, lo := 0, width := 16, acc := .ro, reset := .boot }
  | .pmr_XING_OVR => { blk := .pmr, region := false, off := 0x48, lo := 0, width := 16, acc := .w1c, reset := (.num 0) }
  | .pmr_XING_EXCESS => { blk := .pmr, region := false, off := 0x4c, lo := 0, width := 32, acc := .ro, reset := (.num 0) }
  -- SNS page, tables Pixel-7 to Pixel-14 (02_pixel_front_end.md)
  | .sns_BIAS_EN => { blk := .sns, region := false, off := 0x20, lo := 0, width := 16, acc := .rw, reset := (.num 0) }
  | .sns_TSRC => { blk := .sns, region := false, off := 0x20, lo := 16, width := 3, acc := .rwc, reset := (.num 0), resv := [(5, 7)] }
  | .sns_SERVO_EN => { blk := .sns, region := false, off := 0x20, lo := 19, width := 1, acc := .rwc, reset := (.num 1) }
  | .sns_BR_TC => { blk := .sns, region := false, off := 0x24, lo := 0, width := 16, acc := .rwc, reset := (.num 0x6d60) }
  | .sns_BIAS_SLEW => { blk := .sns, region := false, off := 0x24, lo := 16, width := 8, acc := .rwc, reset := (.num 0x14), rej := [(0, 0)] }
  | .sns_RAMP_RATE => { blk := .sns, region := false, off := 0x24, lo := 24, width := 7, acc := .rwc, reset := (.num 1), rej := [(0, 0), (101, 127)] }
  | .sns_OC_TOTAL => { blk := .sns, region := false, off := 0x28, lo := 0, width := 7, acc := .rwc, reset := (.num 0x3c), rej := [(0, 0), (101, 127)] }
  | .sns_CFG_ERR => { blk := .sns, region := false, off := 0x2c, lo := 0, width := 1, acc := .w1c, reset := (.num 0) }
  | .sns_BIAS_FROZEN => { blk := .sns, region := false, off := 0x2c, lo := 1, width := 1, acc := .ro, reset := (.num 0) }
  | .sns_BIAS_EN_ERR => { blk := .sns, region := false, off := 0x2c, lo := 2, width := 1, acc := .w1c, reset := (.num 0) }
  | .sns_OC_TOTAL_TRIP => { blk := .sns, region := false, off := 0x2c, lo := 3, width := 1, acc := .w1c, reset := (.num 0) }
  | .sns_T_USED => { blk := .sns, region := false, off := 0x30, lo := 0, width := 32, acc := .ro, reset := (.num 0x4e20) }
  | .sns_VEX => { blk := .sns, region := false, off := 0x40, lo := 0, width := 10, acc := .rwc, reset := (.num 0x190), count := 16, stride := 0x10, rej := [(0, 99), (601, 1023)] }
  | .sns_BR_TRIM => { blk := .sns, region := false, off := 0x40, lo := 16, width := 10, acc := .rwc, reset := .factory, count := 16, stride := 0x10, rej := [(501, 523)] }
  | .sns_OC_LIMIT => { blk := .sns, region := false, off := 0x44, lo := 0, width := 8, acc := .rwc, reset := (.num 0x14), count := 16, stride := 0x10, rej := [(0, 0), (201, 255)] }
  | .sns_OC_FILT => { blk := .sns, region := false, off := 0x44, lo := 8, width := 6, acc := .rwc, reset := (.num 5), count := 16, stride := 0x10 }
  | .sns_V_SET => { blk := .sns, region := false, off := 0x48, lo := 0, width := 16, acc := .ro, reset := (.num 0), count := 16, stride := 0x10 }
  | .sns_BIAS_OK => { blk := .sns, region := false, off := 0x48, lo := 16, width := 1, acc := .ro, reset := (.num 0), count := 16, stride := 0x10 }
  | .sns_RAMPING => { blk := .sns, region := false, off := 0x48, lo := 17, width := 1, acc := .ro, reset := (.num 0), count := 16, stride := 0x10 }
  | .sns_OC_TRIP => { blk := .sns, region := false, off := 0x48, lo := 18, width := 1, acc := .w1c, reset := (.num 0), count := 16, stride := 0x10 }
  | .sns_VCLAMP => { blk := .sns, region := false, off := 0x48, lo := 19, width := 1, acc := .w1c, reset := (.num 0), count := 16, stride := 0x10 }
  -- PFE pages, tables Pixel-15 to Pixel-24 (02_pixel_front_end.md)
  | .pfe_MASK_SAVE => { blk := .pfe, region := false, off := 0x20, lo := 0, width := 1, acc := .w1s, reset := (.num 0) }
  | .pfe_MASK_SAVE_BUSY => { blk := .pfe, region := false, off := 0x20, lo := 1, width := 1, acc := .ro, reset := (.num 0) }
  | .pfe_MASK_IMG_VALID => { blk := .pfe, region := false, off := 0x20, lo := 2, width := 1, acc := .ro, reset := .undef }
  | .pfe_MASK_SAVE_IGN => { blk := .pfe, region := false, off := 0x20, lo := 8, width := 8, acc := .ro, reset := (.num 0) }
  | .pfe_REGION_CFG_ERR => { blk := .pfe, region := false, off := 0x20, lo := 16, width := 16, acc := .ro, reset := (.num 0) }
  | .pfer_FE_EN => { blk := .pfe, region := true, off := 0x20, lo := 0, width := 1, acc := .rwc, reset := (.num 0), count := 16 }
  | .pfer_FE_ABORT => { blk := .pfe, region := true, off := 0x20, lo := 1, width := 1, acc := .w1s, reset := (.num 0), count := 16 }
  | .pfer_HOLDOFF => { blk := .pfe, region := true, off := 0x20, lo := 2, width := 6, acc := .rwc, reset := (.num 5), count := 16, resv := [(0, 0)] }
  | .pfer_SENSE_THR => { blk := .pfe, region := true, off := 0x20, lo := 8, width := 4, acc := .rwc, reset := (.num 4), count := 16 }
  | .pfer_SENSE_HYS => { blk := .pfe, region := true, off := 0x20, lo := 12, width := 2, acc := .rwc, reset := (.num 1), count := 16 }
  | .pfer_MASK_ADDR => { blk := .pfe, region := true, off := 0x24, lo := 0, width := 14, acc := .rw, reset := (.num 0), count := 16 }
  | .pfer_MASK_VIEW => { blk := .pfe, region := true, off := 0x24, lo := 30, width := 1, acc := .rw, reset := (.num 0), count := 16 }
  | .pfer_MASK_AUTO_INC => { blk := .pfe, region := true, off := 0x24, lo := 31, width := 1, acc := .rw, reset := (.num 1), count := 16 }
  | .pfer_MASK_DATA => { blk := .pfe, region := true, off := 0x28, lo := 0, width := 32, acc := .rwc, reset := .image, count := 16 }
  | .pfer_HOT_THR => { blk := .pfe, region := true, off := 0x2c, lo := 0, width := 12, acc := .rwc, reset := (.num 0), count := 16 }
  | .pfer_HOT_RUN => { blk := .pfe, region := true, off := 0x2c, lo := 12, width := 4, acc := .rwc, reset := (.num 8), count := 16, resv := [(0, 0)] }
  | .pfer_HOT_ACT => { blk := .pfe, region := true, off := 0x2c, lo := 16, width := 2, acc := .rwc, reset := (.num 1), count := 16, resv := [(3, 3)] }
  | .pfer_HOT_CLR => { blk := .pfe, region := true, off := 0x2c, lo := 18, width := 1, acc := .w1s, reset := (.num 0), count := 16 }
  | .pfer_INJ_EN => { blk := .pfe, region := true, off := 0x30, lo := 0, width := 1, acc := .rwc, reset := (.num 0), count := 16 }
  | .pfer_INJ_PAT => { blk := .pfe, region := true, off := 0x30, lo := 1, width := 3, acc := .rwc, reset := (.num 1), count := 16, resv := [(5, 7)] }
  | .pfer_INJ_PIX => { blk := .pfe, region := true, off := 0x30, lo := 4, width := 4, acc := .rwc, reset := (.num 0), count := 16 }
  | .pfer_INJ_AMP => { blk := .pfe, region := true, off := 0x30, lo := 8, width := 4, acc := .rwc, reset := (.num 0), count := 16 }
  | .pfer_INJ_REF => { blk := .pfe, region := true, off := 0x30, lo := 12, width := 1, acc := .rwc, reset := (.num 0), count := 16 }
  | .pfer_INJ_DELAY => { blk := .pfe, region := true, off := 0x34, lo := 0, width := 32, acc := .rwc, reset := (.num 0), count := 16 }
  | .pfer_INJ_COUNT => { blk := .pfe, region := true, off := 0x38, lo := 0, width := 16, acc := .rwc, reset := (.num 1), count := 16 }
  | .pfer_INJ_PERIOD => { blk := .pfe, region := true, off := 0x38, lo := 16, width := 16, acc := .rwc, reset := (.num 0x19), count := 16, rej := [(0, 1)] }
  | .pfer_CFG_ERR => { blk := .pfe, region := true, off := 0x3c, lo := 0, width := 1, acc := .w1c, reset := (.num 0), count := 16 }
  | .pfer_THR_ERR => { blk := .pfe, region := true, off := 0x3c, lo := 1, width := 1, acc := .w1c, reset := (.num 0), count := 16 }
  | .pfer_FE_FINAL => { blk := .pfe, region := true, off := 0x3c, lo := 2, width := 1, acc := .ro, reset := (.num 0), count := 16 }
  | .pfer_INJ_OVR => { blk := .pfe, region := true, off := 0x3c, lo := 3, width := 1, acc := .w1c, reset := (.num 0), count := 16 }
  | .pfer_HOT_FULL => { blk := .pfe, region := true, off := 0x3c, lo := 4, width := 1, acc := .ro, reset := (.num 0), count := 16 }
  | .pfer_HOT_LEN => { blk := .pfe, region := true, off := 0x3c, lo := 5, width := 7, acc := .ro, reset := (.num 0), count := 16 }
  | .pfer_INJ_ISSUED => { blk := .pfe, region := true, off := 0x40, lo := 0, width := 32, acc := .ro, reset := (.num 0), count := 16 }
  | .pfer_SAT_LAST => { blk := .pfe, region := true, off := 0x44, lo := 0, width := 19, acc := .ro, reset := (.num 0), count := 16 }
  | .pfer_MASKED_CNT => { blk := .pfe, region := true, off := 0x48, lo := 0, width := 19, acc := .ro, reset := (.num 0), count := 16 }
  | .pfer_MASKED_TDC => { blk := .pfe, region := true, off := 0x4c, lo := 0, width := 19, acc := .ro, reset := (.num 0), count := 16 }
  | .pfer_HOT_IDX => { blk := .pfe, region := true, off := 0x50, lo := 0, width := 6, acc := .rw, reset := (.num 0), count := 16 }
  | .pfer_HOT_ADDR => { blk := .pfe, region := true, off := 0x54, lo := 0, width := 22, acc := .ro, reset := (.num 0), count := 16 }
  | .pfer_HOT_ACTED => { blk := .pfe, region := true, off := 0x54, lo := 22, width := 2, acc := .ro, reset := (.num 0), count := 16 }
  -- TDC pages, tables TDC-9 to TDC-20 (03_cluster_tdc.md)
  | .tdc_AUX_EN => { blk := .tdc, region := false, off := 0x20, lo := 0, width := 4, acc := .rwc, reset := (.num 0) }
  | .tdc_AUX_EDGE => { blk := .tdc, region := false, off := 0x20, lo := 4, width := 4, acc := .rwc, reset := (.num 0) }
  | .tdc_AUX_DIV => { blk := .tdc, region := false, off := 0x24, lo := 0, width := 16, acc := .rwc, reset := (.num 0), count := 4, stride := 0x4 }
  | .tdc_AUX_OFS => { blk := .tdc, region := false, off := 0x24, lo := 16, width := 16, acc := .rwc, reset := .factory, count := 4, stride := 0x4 }
  | .tdc_CFG_ERR => { blk := .tdc, region := false, off := 0x34, lo := 0, width := 1, acc := .w1c, reset := (.num 0) }
  | .tdc_CLK_FAULT => { blk := .tdc, region := false, off := 0x34, lo := 1, width := 1, acc := .w1c, reset := (.num 0) }
  | .tdc_CLK_BAD => { blk := .tdc, region := false, off := 0x34, lo := 2, width := 1, acc := .ro, reset := (.num 0) }
  | .tdc_AUX_OVR => { blk := .tdc, region := false, off := 0x34, lo := 3, width := 4, acc := .w1c, reset := (.num 0) }
  | .tdc_AUX_CALOK => { blk := .tdc, region := false, off := 0x34, lo := 7, width := 4, acc := .ro, reset := (.num 0) }
  | .tdc_AUX_SKIP => { blk := .tdc, region := false, off := 0x38, lo := 0, width := 32, acc := .ro, reset := (.num 0), count := 4, stride := 0x4 }
  | .tdc_AUX_DROP => { blk := .tdc, region := false, off := 0x48, lo := 0, width := 32, acc := .ro, reset := (.num 0), count := 4, stride := 0x4 }
  | .tdc_CALOK_MAP => { blk := .tdc, region := false, off := 0x60, lo := 0, width := 32, acc := .ro, reset := (.num 0), count := 8, stride := 0x4 }
  | .tdc_CODE_ERR_ALL => { blk := .tdc, region := false, off := 0x80, lo := 0, width := 32, acc := .ro, reset := (.num 0) }
  | .tdcr_TDC_EN => { blk := .tdc, region := true, off := 0x20, lo := 0, width := 1, acc := .rwc, reset := (.num 1), count := 16 }
  | .tdcr_TDC_ABORT => { blk := .tdc, region := true, off := 0x20, lo := 1, width := 1, acc := .w1s, reset := (.num 0), count := 16 }
  | .tdcr_CAL_RESET => { blk := .tdc, region := true, off := 0x20, lo := 2, width := 1, acc := .w1s, reset := (.num 0), count := 16 }
  | .tdcr_CAL_SRC => { blk := .tdc, region := true, off := 0x20, lo := 3, width := 2, acc := .rwc, reset := (.num 0), count := 16 }
  | .tdcr_CAL_AVG => { blk := .tdc, region := true, off := 0x20, lo := 5, width := 3, acc := .rwc, reset := (.num 2), count := 16, resv := [(5, 7)] }
  | .tdcr_DITHER_EN => { blk := .tdc, region := true, off := 0x20, lo := 8, width := 1, acc := .rwc, reset := (.num 1), count := 16 }
  | .tdcr_CAL_DARK => { blk := .tdc, region := true, off := 0x20, lo := 9, width := 1, acc := .rw, reset := (.num 0), count := 16 }
  | .tdcr_REGION_OFS => { blk := .tdc, region := true, off := 0x24, lo := 0, width := 16, acc := .rwc, reset := (.num 0), count := 16 }
  | .tdcr_CAL_EXCL => { blk := .tdc, region := true, off := 0x28, lo := 0, width := 24, acc := .rwc, reset := (.num 0x10000), count := 16 }
  | .tdcr_CAL_JUMP => { blk := .tdc, region := true, off := 0x2c, lo := 0, width := 8, acc := .rwc, reset := (.num 0x40), count := 16, rej := [(0, 0)] }
  | .tdcr_CAL_CONV_THR => { blk := .tdc, region := true, off := 0x2c, lo := 8, width := 8, acc := .rwc, reset := (.num 0x18), count := 16 }
  | .tdcr_CAL_TMAX => { blk := .tdc, region := true, off := 0x2c, lo := 16, width := 16, acc := .rwc, reset := (.num 0x258), count := 16 }
  | .tdcr_CFG_ERR => { blk := .tdc, region := true, off := 0x30, lo := 0, width := 1, acc := .w1c, reset := (.num 0), count := 16 }
  | .tdcr_TDC_FINAL => { blk := .tdc, region := true, off := 0x30, lo := 1, width := 1, acc := .ro, reset := (.num 0), count := 16 }
  | .tdcr_CAL_LOAD_BUSY => { blk := .tdc, region := true, off := 0x30, lo := 2, width := 1, acc := .ro, reset := (.num 0), count := 16 }
  | .tdcr_CALOK => { blk := .tdc, region := true, off := 0x30, lo := 16, width := 16, acc := .ro, reset := (.num 0), count := 16 }
  | .tdcr_DROP_QFULL => { blk := .tdc, region := true, off := 0x34, lo := 0, width := 32, acc := .ro, reset := (.num 0), count := 16 }
  | .tdcr_DROP_AGE => { blk := .tdc, region := true, off := 0x38, lo := 0, width := 32, acc := .ro, reset := (.num 0), count := 16 }
  | .tdcr_DROP_ABORT => { blk := .tdc, region := true, off := 0x3c, lo := 0, width := 32, acc := .ro, reset := (.num 0), count := 16 }
  | .tdcr_CODE_ERR => { blk := .tdc, region := true, off := 0x40, lo := 0, width := 32, acc := .ro, reset := (.num 0), count := 16 }
  | .tdcr_PH_AMBIG => { blk := .tdc, region := true, off := 0x44, lo := 0, width := 32, acc := .ro, reset := (.num 0), count := 16 }
  | .tdcr_OFS_ADDR => { blk := .tdc, region := true, off := 0x48, lo := 0, width := 14, acc := .rw, reset := (.num 0), count := 16 }
  | .tdcr_OFS_VIEW => { blk := .tdc, region := true, off := 0x48, lo := 30, width := 1, acc := .rw, reset := (.num 0), count := 16 }
  | .tdcr_OFS_AUTO_INC => { blk := .tdc, region := true, off := 0x48, lo := 31, width := 1, acc := .rw, reset := (.num 1), count := 16 }
  | .tdcr_TDC_OFF => { blk := .tdc, region := true, off := 0x4c, lo := 0, width := 9, acc := .rwc, reset := .factory, count := 16 }
  | .tdcr_BIN_IDX => { blk := .tdc, region := true, off := 0x50, lo := 0, width := 7, acc := .rw, reset := (.num 0), count := 16 }
  | .tdcr_BIN_GRP => { blk := .tdc, region := true, off := 0x50, lo := 8, width := 4, acc := .rw, reset := (.num 0), count := 16 }
  | .tdcr_BIN_VIEW => { blk := .tdc, region := true, off := 0x50, lo := 12, width := 2, acc := .rw, reset := (.num 0), count := 16 }
  | .tdcr_BIN_DATA => { blk := .tdc, region := true, off := 0x54, lo := 0, width := 32, acc := .rw, reset := .factory, count := 16 }
  | .tdcr_LOAD_GRP => { blk := .tdc, region := true, off := 0x58, lo := 0, width := 4, acc := .rw, reset := (.num 0), count := 16 }
  | .tdcr_LOAD_OK => { blk := .tdc, region := true, off := 0x58, lo := 4, width := 1, acc := .rw, reset := (.num 0), count := 16 }
  | .tdcr_CAL_LOAD => { blk := .tdc, region := true, off := 0x58, lo := 5, width := 1, acc := .w1s, reset := (.num 0), count := 16 }
  | .tdcr_GRP_SEL => { blk := .tdc, region := true, off := 0x5c, lo := 0, width := 4, acc := .rw, reset := (.num 0), count := 16 }
  | .tdcr_CAL_GEN => { blk := .tdc, region := true, off := 0x60, lo := 0, width := 16, acc := .ro, reset := (.num 0), count := 16 }
  | .tdcr_GRP_CALOK => { blk := .tdc, region := true, off := 0x60, lo := 16, width := 1, acc := .ro, reset := (.num 0), count := 16 }
  | .tdcr_CAL_CONV => { blk := .tdc, region := true, off := 0x60, lo := 17, width := 1, acc := .ro, reset := (.num 0), count := 16 }
  | .tdcr_CAL_REJ_RUN => { blk := .tdc, region := true, off := 0x60, lo := 18, width := 3, acc := .ro, reset := (.num 0), count := 16 }
  | .tdcr_CAL_FILL => { blk := .tdc, region := true, off := 0x64, lo := 0, width := 21, acc := .ro, reset := (.num 0), count := 16 }
  | .tdcr_CAL_RESID => { blk := .tdc, region := true, off := 0x68, lo := 0, width := 16, acc := .ro, reset := (.num 0), count := 16 }
  | .tdcr_CAL_REJ => { blk := .tdc, region := true, off := 0x68, lo := 16, width := 16, acc := .ro, reset := (.num 0), count := 16 }
  | .tdcr_CAL_TIMEOUT => { blk := .tdc, region := true, off := 0x6c, lo := 0, width := 16, acc := .ro, reset := (.num 0), count := 16 }
  | .tdcr_GRP_DROP => { blk := .tdc, region := true, off := 0x6c, lo := 16, width := 16, acc := .ro, reset := (.num 0), count := 16 }
  -- SEQ page, tables Modes-9 to Modes-12 (05_acquisition_modes.md)
  | .seq_COMMIT => { blk := .seq, region := false, off := 0x20, lo := 0, width := 1, acc := .w1s, reset := (.num 0) }
  | .seq_COMMIT_AT_EN => { blk := .seq, region := false, off := 0x20, lo := 1, width := 1, acc := .rw, reset := (.num 0) }
  | .seq_CFG_ERR => { blk := .seq, region := false, off := 0x24, lo := 0, width := 1, acc := .w1c, reset := (.num 0) }
  | .seq_TICK_CFG_ERR => { blk := .seq, region := false, off := 0x24, lo := 1, width := 1, acc := .w1c, reset := (.num 0) }
  | .seq_TICK_BUDGET_ERR => { blk := .seq, region := false, off := 0x24, lo := 2, width := 1, acc := .w1c, reset := (.num 0) }
  | .seq_MODE_ERR => { blk := .seq, region := false, off := 0x24, lo := 3, width := 1, acc := .w1c, reset := (.num 0) }
  | .seq_COMMIT_PEND => { blk := .seq, region := false, off := 0x24, lo := 4, width := 1, acc := .ro, reset := (.num 0) }
  | .seq_COMMIT_LATE => { blk := .seq, region := false, off := 0x24, lo := 5, width := 1, acc := .w1c, reset := (.num 0) }
  | .seq_COMMIT_BUSY => { blk := .seq, region := false, off := 0x24, lo := 6, width := 1, acc := .w1c, reset := (.num 0) }
  | .seq_TICK_RUN => { blk := .seq, region := false, off := 0x24, lo := 7, width := 1, acc := .ro, reset := (.num 0) }
  | .seq_TICK_SLIP => { blk := .seq, region := false, off := 0x24, lo := 8, width := 1, acc := .w1c, reset := (.num 0) }
  | .seq_TICK_BUDGET_REGION => { blk := .seq, region := false, off := 0x24, lo := 9, width := 4, acc := .ro, reset := (.num 0) }
  | .seq_TICK_BUDGET_MIN => { blk := .seq, region := false, off := 0x28, lo := 0, width := 32, acc := .ro, reset := (.num 0) }
  | .seq_CFG_EPOCH => { blk := .seq, region := false, off := 0x2c, lo := 0, width := 32, acc := .ro, reset := (.num 0) }
  | .seq_TICK_NUM => { blk := .seq, region := false, off := 0x30, lo := 0, width := 32, acc := .rwc, reset := (.num 1) }
  | .seq_TICK_DEN => { blk := .seq, region := false, off := 0x34, lo := 0, width := 32, acc := .rwc, reset := (.num 0x3e8) }
  | .seq_TICK_EPOCH => { blk := .seq, region := false, off := 0x38, lo := 0, width := 128, acc := .rwc, reset := (.num 0), time := true }
  | .seq_TICK_BASE => { blk := .seq, region := false, off := 0x48, lo := 0, width := 48, acc := .rwc, reset := (.num 0) }
  | .seq_TICK_INDEX => { blk := .seq, region := false, off := 0x50, lo := 0, width := 48, acc := .ro, reset := (.num 0) }
  | .seq_COMMIT_TICK => { blk := .seq, region := false, off := 0x58, lo := 0, width := 48, acc := .rw, reset := (.num 0) }
  | .seq_EPOCH_TICK => { blk := .seq, region := false, off := 0x60, lo := 0, width := 48, acc := .ro, reset := (.num 0) }
  | .seq_REGION_MODE => { blk := .seq, region := false, off := 0x70, lo := 0, width := 8, acc := .rwc, reset := (.num 0), count := 16, stride := 0x4, inner := 4, bstr := 8 }
  | .seq_REGION_ABORT => { blk := .seq, region := false, off := 0x80, lo := 0, width := 16, acc := .w1s, reset := (.num 0) }
  | .seq_REGION_FINAL => { blk := .seq, region := false, off := 0x84, lo := 0, width := 16, acc := .ro, reset := (.num 0) }
  | .seq_TICK_OVR_CNT => { blk := .seq, region := false, off := 0x90, lo := 0, width := 32, acc := .ro, reset := (.num 0), count := 16, stride := 0x4 }
  -- EVB page, tables Events-13 to Events-15 (06_events_and_triggers.md)
  | .evb_REORDER_WIN => { blk := .evb, region := false, off := 0x20, lo := 0, width := 9, acc := .rwc, reset := (.num 0xc8), rej := [(0, 19), (401, 511)] }
  | .evb_HEAD_IDLE => { blk := .evb, region := false, off := 0x20, lo := 9, width := 4, acc := .rwc, reset := (.num 0xa) }
  | .evb_ZS_EN => { blk := .evb, region := false, off := 0x20, lo := 16, width := 16, acc := .rwc, reset := (.num 0) }
  | .evb_CFG_ERR => { blk := .evb, region := false, off := 0x24, lo := 0, width := 1, acc := .w1c, reset := (.num 0) }
  | .evb_RS_EARLY => { blk := .evb, region := false, off := 0x24, lo := 16, width := 16, acc := .w1c, reset := (.num 0) }
  | .evb_LATE_CNT => { blk := .evb, region := false, off := 0x40, lo := 0, width := 32, acc := .ro, reset := (.num 0), count := 16, stride := 0x8 }
  | .evb_EARLY_REL => { blk := .evb, region := false, off := 0x44, lo := 0, width := 32, acc := .ro, reset := (.num 0), count := 16, stride := 0x8 }
  -- TRG page, tables Events-16 to Events-19 (06_events_and_triggers.md)
  | .trg_TRG_EN => { blk := .trg, region := false, off := 0x20, lo := 0, width := 1, acc := .rwc, reset := (.num 0) }
  | .trg_SOFT_REQ => { blk := .trg, region := false, off := 0x20, lo := 1, width := 1, acc := .w1s, reset := (.num 0) }
  | .trg_MARK => { blk := .trg, region := false, off := 0x20, lo := 2, width := 1, acc := .w1s, reset := (.num 0) }
  | .trg_LOC_COINC => { blk := .trg, region := false, off := 0x20, lo := 8, width := 8, acc := .rwc, reset := (.num 0) }
  | .trg_REQ_MERGE => { blk := .trg, region := false, off := 0x20, lo := 16, width := 8, acc := .rwc, reset := (.num 0) }
  | .trg_DEC_COINC => { blk := .trg, region := false, off := 0x20, lo := 24, width := 8, acc := .rwc, reset := (.num 0) }
  | .trg_CFG_ERR => { blk := .trg, region := false, off := 0x24, lo := 0, width := 1, acc := .w1c, reset := (.num 0) }
  | .trg_REQ_OVR => { blk := .trg, region := false, off := 0x24, lo := 1, width := 1, acc := .w1c, reset := (.num 0) }
  | .trg_TRIG_LAT_ERR => { blk := .trg, region := false, off := 0x24, lo := 2, width := 1, acc := .w1c, reset := (.num 0) }
  | .trg_TRG_FINAL => { blk := .trg, region := false, off := 0x24, lo := 3, width := 1, acc := .ro, reset := (.num 0) }
  | .trg_LOCAL_LUT => { blk := .trg, region := false, off := 0x28, lo := 0, width := 32, acc := .rwc, reset := (.num 0), count := 4, stride := 0x4 }
  | .trg_DEC_LUT => { blk := .trg, region := false, off := 0x38, lo := 0, width := 16, acc := .rwc, reset := (.num 0xfffe) }
  | .trg_TRIG_HOLDOFF => { blk := .trg, region := false, off := 0x3c, lo := 0, width := 24, acc := .rwc, reset := (.num 0x2710) }
  | .trg_TRIG_FIX_LAT => { blk := .trg, region := false, off := 0x40, lo := 0, width := 16, acc := .rwc, reset := (.num 0x7d0), rej := [(0, 199)] }
  | .trg_TRIG_LAT_MIN => { blk := .trg, region := false, off := 0x40, lo := 16, width := 16, acc := .ro, reset := (.num 0xc8) }
  | .trg_WIN_PRE => { blk := .trg, region := false, off := 0x44, lo := 0, width := 32, acc := .rwc, reset := (.num 0) }
  | .trg_WIN_POST => { blk := .trg, region := false, off := 0x48, lo := 0, width := 32, acc := .rwc, reset := (.num 0x3e8) }
  | .trg_WIN_REEL => { blk := .trg, region := false, off := 0x4c, lo := 0, width := 8, acc := .rwc, reset := (.num 0) }
  | .trg_RATE_REGIONS => { blk := .trg, region := false, off := 0x50, lo := 0, width := 16, acc := .rwc, reset := (.num 0), count := 2, stride := 0x8 }
  | .trg_RATE_WIN => { blk := .trg, region := false, off := 0x50, lo := 16, width := 16, acc := .rwc, reset := (.num 0xa), count := 2, stride := 0x8, rej := [(0, 0)] }
  | .trg_RATE_THR => { blk := .trg, region := false, off := 0x54, lo := 0, width := 32, acc := .rwc, reset := (.num 0), count := 2, stride := 0x8 }
  | .trg_TO_SRC => { blk := .trg, region := false, off := 0x60, lo := 0, width := 3, acc := .rwc, reset := (.num 0), count := 2, stride := 0x4, resv := [(5, 7)] }
  | .trg_TO_REGION => { blk := .trg, region := false, off := 0x60, lo := 3, width := 4, acc := .rwc, reset := (.num 0), count := 2, stride := 0x4 }
  | .trg_TO_WIDTH => { blk := .trg, region := false, off := 0x60, lo := 8, width := 8, acc := .rwc, reset := (.num 0xa), count := 2, stride := 0x4, rej := [(0, 0)] }
  | .trg_TO_OFS => { blk := .trg, region := false, off := 0x60, lo := 16, width := 16, acc := .rwc, reset := (.num 0), count := 2, stride := 0x4 }
  | .trg_REQ_SENT => { blk := .trg, region := false, off := 0x70, lo := 0, width := 32, acc := .ro, reset := (.num 0) }
  | .trg_REQ_MERGED => { blk := .trg, region := false, off := 0x74, lo := 0, width := 32, acc := .ro, reset := (.num 0) }
  | .trg_REQ_EXCESS => { blk := .trg, region := false, off := 0x78, lo := 0, width := 32, acc := .ro, reset := (.num 0) }
  | .trg_DEC_COUNT => { blk := .trg, region := false, off := 0x7c, lo := 0, width := 32, acc := .ro, reset := (.num 0) }
  | .trg_DEC_REJ => { blk := .trg, region := false, off := 0x80, lo := 0, width := 32, acc := .ro, reset := (.num 0) }
  | .trg_DEC_HELD => { blk := .trg, region := false, off := 0x84, lo := 0, width := 32, acc := .ro, reset := (.num 0) }
  | .trg_TRIG_LATE => { blk := .trg, region := false, off := 0x88, lo := 0, width := 32, acc := .ro, reset := (.num 0) }
  | .trg_PRE_SHORT_CNT => { blk := .trg, region := false, off := 0x8c, lo := 0, width := 32, acc := .ro, reset := (.num 0) }
  | .trg_LAST_TRIG_ID => { blk := .trg, region := false, off := 0x90, lo := 0, width := 32, acc := .ro, reset := (.num 0) }
  | .trg_LAST_TT => { blk := .trg, region := false, off := 0x94, lo := 0, width := 128, acc := .ro, reset := (.num 0), time := true }
  | .trg_LAST_CLASS => { blk := .trg, region := false, off := 0xa4, lo := 0, width := 4, acc := .ro, reset := (.num 0) }
  -- HST pages (05_acquisition_modes.md)
  | .hst_REGION_CFG_ERR => { blk := .hst, region := false, off := 0x20, lo := 0, width := 16, acc := .ro, reset := (.num 0) }
  | .hstr_GATE_REF => { blk := .hst, region := true, off := 0x20, lo := 0, width := 1, acc := .rwc, reset := (.num 0), count := 16 }
  | .hstr_GATE_CYCLE => { blk := .hst, region := true, off := 0x20, lo := 1, width := 1, acc := .rwc, reset := (.num 1), count := 16 }
  | .hstr_HST_BINW => { blk := .hst, region := true, off := 0x20, lo := 2, width := 8, acc := .rwc, reset := (.num 0xf), count := 16 }
  | .hstr_GATE_START => { blk := .hst, region := true, off := 0x24, lo := 0, width := 28, acc := .rwc, reset := (.num 0), count := 16 }
  | .hstr_GATE_STOP => { blk := .hst, region := true, off := 0x28, lo := 0, width := 28, acc := .rwc, reset := (.num 0x40), count := 16 }
  | .hstr_GATE_STEP => { blk := .hst, region := true, off := 0x2c, lo := 0, width := 29, acc := .rwc, reset := (.num 0), count := 16 }
  | .hstr_GATE_NSTEP => { blk := .hst, region := true, off := 0x30, lo := 0, width := 16, acc := .rwc, reset := (.num 1), count := 16, rej := [(0, 0)] }
  | .hstr_CFG_ERR => { blk := .hst, region := true, off := 0x34, lo := 0, width := 1, acc := .w1c, reset := (.num 0), count := 16 }
  | .hstr_GATE_CFG_ERR => { blk := .hst, region := true, off := 0x34, lo := 1, width := 1, acc := .w1c, reset := (.num 0), count := 16 }
  | .hstr_GATE_HELD => { blk := .hst, region := true, off := 0x34, lo := 2, width := 1, acc := .ro, reset := (.num 0), count := 16 }
  | .hstr_HST_SAT => { blk := .hst, region := true, off := 0x34, lo := 3, width := 1, acc := .w1c, reset := (.num 0), count := 16 }
  | .hstr_GATE_IDX => { blk := .hst, region := true, off := 0x34, lo := 4, width := 16, acc := .ro, reset := (.num 0), count := 16 }
  | .hstr_SYNC_MISSED => { blk := .hst, region := true, off := 0x38, lo := 0, width := 32, acc := .ro, reset := (.num 0), count := 16 }
  | .hstr_HST_UNDER => { blk := .hst, region := true, off := 0x3c, lo := 0, width := 32, acc := .ro, reset := (.num 0), count := 16 }
  | .hstr_HST_OVER => { blk := .hst, region := true, off := 0x40, lo := 0, width := 32, acc := .ro, reset := (.num 0), count := 16 }
  | .hstr_HST_DROP => { blk := .hst, region := true, off := 0x44, lo := 0, width := 32, acc := .ro, reset := (.num 0), count := 16 }
  | .hstr_HST_LATE => { blk := .hst, region := true, off := 0x48, lo := 0, width := 32, acc := .ro, reset := (.num 0), count := 16 }
  -- ACC pages (05_acquisition_modes.md)
  | .acc_REGION_CFG_ERR => { blk := .acc, region := false, off := 0x20, lo := 0, width := 16, acc := .ro, reset := (.num 0) }
  | .accr_ACC_N => { blk := .acc, region := true, off := 0x20, lo := 0, width := 6, acc := .rwc, reset := (.num 0x27), count := 16 }
  | .accr_SHUTTER => { blk := .acc, region := true, off := 0x24, lo := 0, width := 64, acc := .rwc, reset := (.num 0xffffffffffffffff), count := 16 }
  | .accr_CFG_ERR => { blk := .acc, region := true, off := 0x2c, lo := 0, width := 1, acc := .w1c, reset := (.num 0), count := 16 }
  | .accr_SUB_IDX => { blk := .acc, region := true, off := 0x2c, lo := 1, width := 6, acc := .ro, reset := (.num 0), count := 16 }
  | .accr_PARTIAL => { blk := .acc, region := true, off := 0x2c, lo := 7, width := 1, acc := .w1c, reset := (.num 0), count := 16 }
  | .accr_ACC_FRAMES => { blk := .acc, region := true, off := 0x30, lo := 0, width := 32, acc := .ro, reset := (.num 0), count := 16 }
  | .accr_ACC_PARTIAL_CNT => { blk := .acc, region := true, off := 0x34, lo := 0, width := 32, acc := .ro, reset := (.num 0), count := 16 }
  -- CMP pages, tables Compression-10 to Compression-13 (07_compression.md)
  | .cmp_REGION_CFG_ERR => { blk := .cmp, region := false, off := 0x20, lo := 0, width := 16, acc := .ro, reset := (.num 0) }
  | .cmp_RP_PKTS => { blk := .cmp, region := false, off := 0x24, lo := 0, width := 32, acc := .ro, reset := (.num 0) }
  | .cmp_RP_STALL => { blk := .cmp, region := false, off := 0x28, lo := 0, width := 32, acc := .ro, reset := (.num 0) }
  | .cmpr_CMP_EN => { blk := .cmp, region := true, off := 0x20, lo := 0, width := 1, acc := .rwc, reset := (.num 1), count := 16 }
  | .cmpr_CMP_ABORT => { blk := .cmp, region := true, off := 0x20, lo := 1, width := 1, acc := .w1s, reset := (.num 0), count := 16 }
  | .cmpr_TABLE_MODE => { blk := .cmp, region := true, off := 0x20, lo := 2, width := 2, acc := .rwc, reset := (.num 2), count := 16, resv := [(3, 3)] }
  | .cmpr_PRED_MODE => { blk := .cmp, region := true, off := 0x20, lo := 4, width := 2, acc := .rwc, reset := (.num 2), count := 16, resv := [(3, 3)] }
  | .cmpr_STALL_LIMIT => { blk := .cmp, region := true, off := 0x20, lo := 16, width := 16, acc := .rwc, reset := (.num 0), count := 16 }
  | .cmpr_CFG_ERR => { blk := .cmp, region := true, off := 0x24, lo := 0, width := 1, acc := .w1c, reset := (.num 0), count := 16 }
  | .cmpr_CMP_FINAL => { blk := .cmp, region := true, off := 0x24, lo := 1, width := 1, acc := .ro, reset := (.num 0), count := 16 }
  | .cmpr_STALLED => { blk := .cmp, region := true, off := 0x24, lo := 2, width := 1, acc := .ro, reset := (.num 0), count := 16 }
  | .cmpr_TRUNC_SEEN => { blk := .cmp, region := true, off := 0x24, lo := 3, width := 1, acc := .w1c, reset := (.num 0), count := 16 }
  | .cmpr_FORCED => { blk := .cmp, region := true, off := 0x24, lo := 4, width := 1, acc := .w1c, reset := (.num 0), count := 16 }
  | .cmpr_CTX_LOAD_BUSY => { blk := .cmp, region := true, off := 0x24, lo := 5, width := 1, acc := .ro, reset := (.num 0), count := 16 }
  | .cmpr_ACT_KIND => { blk := .cmp, region := true, off := 0x24, lo := 8, width := 4, acc := .ro, reset := (.num 0xf), count := 16 }
  | .cmpr_PKT_CNT => { blk := .cmp, region := true, off := 0x28, lo := 0, width := 32, acc := .ro, reset := (.num 0), count := 16 }
  | .cmpr_TRUNC_CNT => { blk := .cmp, region := true, off := 0x2c, lo := 0, width := 32, acc := .ro, reset := (.num 0), count := 16 }
  | .cmpr_STORED_CHUNKS => { blk := .cmp, region := true, off := 0x30, lo := 0, width := 32, acc := .ro, reset := (.num 0), count := 16 }
  | .cmpr_PREEMPT_CNT => { blk := .cmp, region := true, off := 0x34, lo := 0, width := 32, acc := .ro, reset := (.num 0), count := 16 }
  | .cmpr_TRUNC_ELEMS => { blk := .cmp, region := true, off := 0x38, lo := 0, width := 32, acc := .ro, reset := (.num 0), count := 16 }
  | .cmpr_STALL_TIME => { blk := .cmp, region := true, off := 0x3c, lo := 0, width := 32, acc := .ro, reset := (.num 0), count := 16 }
  | .cmpr_IN_BYTES => { blk := .cmp, region := true, off := 0x40, lo := 0, width := 64, acc := .ro, reset := (.num 0), count := 16 }
  | .cmpr_OUT_BYTES => { blk := .cmp, region := true, off := 0x48, lo := 0, width := 64, acc := .ro, reset := (.num 0), count := 16 }
  | .cmpr_CTX_KIND => { blk := .cmp, region := true, off := 0x50, lo := 0, width := 3, acc := .rw, reset := (.num 0), count := 16, resv := [(2, 2), (5, 7)] }
  | .cmpr_CTX_IDX => { blk := .cmp, region := true, off := 0x50, lo := 8, width := 5, acc := .rw, reset := (.num 0), count := 16 }
  | .cmpr_CTX_VIEW => { blk := .cmp, region := true, off := 0x50, lo := 13, width := 1, acc := .rw, reset := (.num 0), count := 16 }
  | .cmpr_CTX_LOAD => { blk := .cmp, region := true, off := 0x50, lo := 14, width := 1, acc := .w1s, reset := (.num 0), count := 16 }
  | .cmpr_CTX_DATA => { blk := .cmp, region := true, off := 0x54, lo := 0, width := 32, acc := .rw, reset := (.num 0), count := 16 }
  -- QUE page, tables Queues-5 to Queues-8 (08_packet_queues.md)
  | .que_PACK_MODE => { blk := .que, region := false, off := 0x20, lo := 0, width := 1, acc := .rwc, reset := (.num 0) }
  | .que_STARVE_LIMIT => { blk := .que, region := false, off := 0x20, lo := 8, width := 8, acc := .rwc, reset := (.num 0x40), rej := [(0, 0)] }
  | .que_SHARE_CAP => { blk := .que, region := false, off := 0x20, lo := 16, width := 8, acc := .rwc, reset := (.num 0x40), rej := [(0, 0), (134, 255)] }
  | .que_HOLD_MARK => { blk := .que, region := false, off := 0x20, lo := 24, width := 8, acc := .rwc, reset := (.num 0xe0), rej := [(0, 0)] }
  | .que_CFG_ERR => { blk := .que, region := false, off := 0x24, lo := 0, width := 1, acc := .w1c, reset := (.num 0) }
  | .que_NARROW => { blk := .que, region := false, off := 0x24, lo := 1, width := 1, acc := .ro, reset := (.num 0) }
  | .que_PACK_FAULT => { blk := .que, region := false, off := 0x24, lo := 2, width := 1, acc := .w1c, reset := (.num 0) }
  | .que_UNCORR_SEEN => { blk := .que, region := false, off := 0x24, lo := 3, width := 1, acc := .w1c, reset := (.num 0) }
  | .que_PATCH_FULL => { blk := .que, region := false, off := 0x24, lo := 4, width := 1, acc := .ro, reset := (.num 0) }
  | .que_LANE_OUT => { blk := .que, region := false, off := 0x24, lo := 8, width := 8, acc := .ro, reset := (.num 0) }
  | .que_ROUTE_UP => { blk := .que, region := false, off := 0x28, lo := 0, width := 8, acc := .rwc, reset := (.num 0x63) }
  | .que_ROUTE_ETH => { blk := .que, region := false, off := 0x28, lo := 8, width := 8, acc := .rwc, reset := (.num 0) }
  | .que_HOLD_LIMIT => { blk := .que, region := false, off := 0x28, lo := 16, width := 16, acc := .rwc, reset := (.num 0x1f4), rej := [(0, 0)] }
  | .que_SHARED_USED => { blk := .que, region := false, off := 0x30, lo := 0, width := 18, acc := .ro, reset := (.num 0) }
  | .que_SHARED_PEAK => { blk := .que, region := false, off := 0x34, lo := 0, width := 18, acc := .ro, reset := (.num 0) }
  | .que_PATCH_USED => { blk := .que, region := false, off := 0x38, lo := 0, width := 7, acc := .ro, reset := (.num 0) }
  | .que_CORR => { blk := .que, region := false, off := 0x3c, lo := 0, width := 32, acc := .ro, reset := (.num 0) }
  | .que_UNCORR => { blk := .que, region := false, off := 0x40, lo := 0, width := 32, acc := .ro, reset := (.num 0) }
  | .que_HELD_CNT => { blk := .que, region := false, off := 0x44, lo := 0, width := 32, acc := .ro, reset := (.num 0) }
  | .que_PATCH_CNT => { blk := .que, region := false, off := 0x48, lo := 0, width := 32, acc := .ro, reset := (.num 0) }
  | .que_GRANT_WAIT => { blk := .que, region := false, off := 0x4c, lo := 0, width := 32, acc := .ro, reset := (.num 0) }
  -- CAB page, tables Store-8 to Store-11 (09_record_store.md)
  | .cab_SCRUB_EN => { blk := .cab, region := false, off := 0x20, lo := 0, width := 1, acc := .rwc, reset := (.num 1) }
  | .cab_REPAIR_AUTO => { blk := .cab, region := false, off := 0x20, lo := 1, width := 1, acc := .rw, reset := (.num 1) }
  | .cab_PPR_HARD_EN => { blk := .cab, region := false, off := 0x20, lo := 2, width := 1, acc := .rw, reset := (.num 0), own := true }
  | .cab_REPAIR_RUN => { blk := .cab, region := false, off := 0x20, lo := 3, width := 1, acc := .w1s, reset := (.num 0) }
  | .cab_OFL_START => { blk := .cab, region := false, off := 0x20, lo := 4, width := 1, acc := .w1s, reset := (.num 0) }
  | .cab_OFL_ABORT => { blk := .cab, region := false, off := 0x20, lo := 5, width := 1, acc := .w1s, reset := (.num 0) }
  | .cab_CMD_GO => { blk := .cab, region := false, off := 0x20, lo := 6, width := 1, acc := .w1s, reset := (.num 0) }
  | .cab_SCRUB_PERIOD => { blk := .cab, region := false, off := 0x20, lo := 16, width := 16, acc := .rwc, reset := (.num 0x168), rej := [(0, 0)] }
  | .cab_CFG_ERR => { blk := .cab, region := false, off := 0x24, lo := 0, width := 1, acc := .w1c, reset := (.num 0) }
  | .cab_CMD_BUSY => { blk := .cab, region := false, off := 0x24, lo := 1, width := 1, acc := .ro, reset := (.num 0) }
  | .cab_REPAIR_BUSY => { blk := .cab, region := false, off := 0x24, lo := 2, width := 1, acc := .ro, reset := (.num 0) }
  | .cab_OFL_BUSY => { blk := .cab, region := false, off := 0x24, lo := 3, width := 1, acc := .ro, reset := (.num 0) }
  | .cab_SCRUB_LATE => { blk := .cab, region := false, off := 0x24, lo := 4, width := 1, acc := .w1c, reset := (.num 0) }
  | .cab_PATCH_FULL => { blk := .cab, region := false, off := 0x24, lo := 5, width := 1, acc := .ro, reset := (.num 0) }
  | .cab_DIR_DAMAGED => { blk := .cab, region := false, off := 0x24, lo := 6, width := 1, acc := .w1c, reset := (.num 0) }
  | .cab_CMD_RES => { blk := .cab, region := false, off := 0x24, lo := 8, width := 8, acc := .ro, reset := (.num 0) }
  | .cab_CMD_OP => { blk := .cab, region := false, off := 0x30, lo := 0, width := 8, acc := .rw, reset := (.num 0), resv := [(0, 0), (11, 255)] }
  | .cab_CMD_ARG0 => { blk := .cab, region := false, off := 0x34, lo := 0, width := 32, acc := .rw, reset := (.num 0) }
  | .cab_CMD_ARG1 => { blk := .cab, region := false, off := 0x38, lo := 0, width := 32, acc := .rw, reset := (.num 0) }
  | .cab_CMD_TICK => { blk := .cab, region := false, off := 0x3c, lo := 0, width := 48, acc := .rw, reset := (.num 0) }
  | .cab_CMD_OUT => { blk := .cab, region := false, off := 0x44, lo := 0, width := 32, acc := .ro, reset := (.num 0) }
  | .cab_STREAM_REEL => { blk := .cab, region := false, off := 0x48, lo := 0, width := 6, acc := .rwc, reset := (.num 0), count := 8, stride := 0x4, inner := 4, bstr := 8 }
  | .cab_DOWN_REEL => { blk := .cab, region := false, off := 0x50, lo := 0, width := 6, acc := .rwc, reset := (.num 0), count := 4, stride := 0x4, inner := 4, bstr := 8 }
  | .cab_READ_SHARE => { blk := .cab, region := false, off := 0x54, lo := 0, width := 8, acc := .rwc, reset := (.num 0x40), rej := [(0, 0)] }
  | .cab_OFL_TAKE => { blk := .cab, region := false, off := 0x60, lo := 0, width := 32, acc := .rw, reset := (.num 0) }
  | .cab_OFL_FROM => { blk := .cab, region := false, off := 0x64, lo := 0, width := 64, acc := .rw, reset := (.num 0) }
  | .cab_OFL_QP => { blk := .cab, region := false, off := 0x6c, lo := 0, width := 4, acc := .rw, reset := (.num 0), resv := [(8, 15)] }
  | .cab_OFL_UP => { blk := .cab, region := false, off := 0x6c, lo := 4, width := 1, acc := .rw, reset := (.num 0) }
  | .cab_OFL_DONE => { blk := .cab, region := false, off := 0x70, lo := 0, width := 64, acc := .ro, reset := (.num 0) }
  | .cab_OFL_STATE => { blk := .cab, region := false, off := 0x78, lo := 0, width := 2, acc := .ro, reset := (.num 0) }
  | .cab_DIR_DATA => { blk := .cab, region := false, off := 0x80, lo := 0, width := 512, acc := .ro, reset := (.num 0) }
  | .cab_SCRUB_PASSES => { blk := .cab, region := false, off := 0xc0, lo := 0, width := 32, acc := .ro, reset := (.num 0) }
  | .cab_SCRUB_QUANT => { blk := .cab, region := false, off := 0xc4, lo := 0, width := 32, acc := .ro, reset := (.num 0) }
  | .cab_REC_DISC => { blk := .cab, region := false, off := 0xc8, lo := 0, width := 32, acc := .ro, reset := (.num 0) }
  | .cab_REEL_FREE => { blk := .cab, region := false, off := 0x100, lo := 0, width := 20, acc := .ro, reset := (.num 0), count := 64, stride := 0x4 }
  | .cab_REEL_FULL => { blk := .cab, region := false, off := 0x100, lo := 20, width := 1, acc := .ro, reset := (.num 0), count := 64, stride := 0x4 }
  | .cab_REEL_RING => { blk := .cab, region := false, off := 0x100, lo := 21, width := 1, acc := .ro, reset := (.num 0), count := 64, stride := 0x4 }
  | .cab_REEL_DEF => { blk := .cab, region := false, off := 0x100, lo := 22, width := 1, acc := .ro, reset := (.num 0), count := 64, stride := 0x4 }
  | .cab_TAKE_OPEN => { blk := .cab, region := false, off := 0x100, lo := 23, width := 1, acc := .ro, reset := (.num 0), count := 64, stride := 0x4 }
  | .cab_REEL_POLICY => { blk := .cab, region := false, off := 0x100, lo := 24, width := 2, acc := .ro, reset := (.num 0), count := 64, stride := 0x4 }
  | .cab_REEL_DISC => { blk := .cab, region := false, off := 0x200, lo := 0, width := 32, acc := .ro, reset := (.num 0), count := 64, stride := 0x4 }
  -- EDC page, tables Store-12 to Store-14 (09_record_store.md)
  | .edc_SRAM_WIN => { blk := .edc, region := false, off := 0x20, lo := 0, width := 8, acc := .rwc, reset := (.num 0xa), rej := [(0, 0)] }
  | .edc_CFG_ERR => { blk := .edc, region := false, off := 0x24, lo := 0, width := 1, acc := .w1c, reset := (.num 0) }
  | .edc_POOL_LOW => { blk := .edc, region := false, off := 0x24, lo := 1, width := 1, acc := .ro, reset := (.num 0) }
  | .edc_POOL_EXH => { blk := .edc, region := false, off := 0x24, lo := 2, width := 1, acc := .w1c, reset := (.num 0) }
  | .edc_TRACK_OVF => { blk := .edc, region := false, off := 0x24, lo := 3, width := 1, acc := .w1c, reset := (.num 0) }
  | .edc_SRAM_SPARE_EXH => { blk := .edc, region := false, off := 0x24, lo := 4, width := 1, acc := .w1c, reset := (.num 0) }
  | .edc_SELFTEST_FAIL => { blk := .edc, region := false, off := 0x24, lo := 5, width := 1, acc := .ro, reset := (.num 0) }
  | .edc_STORE_CORR => { blk := .edc, region := false, off := 0x28, lo := 0, width := 32, acc := .ro, reset := (.num 0) }
  | .edc_STORE_UNCORR => { blk := .edc, region := false, off := 0x2c, lo := 0, width := 32, acc := .ro, reset := (.num 0) }
  | .edc_POISONED => { blk := .edc, region := false, off := 0x30, lo := 0, width := 32, acc := .ro, reset := (.num 0) }
  | .edc_HARD_LINES => { blk := .edc, region := false, off := 0x34, lo := 0, width := 32, acc := .ro, reset := (.num 0) }
  | .edc_SPANS_MAPPED => { blk := .edc, region := false, off := 0x38, lo := 0, width := 16, acc := .ro, reset := (.num 0) }
  | .edc_PPR_SOFT => { blk := .edc, region := false, off := 0x3c, lo := 0, width := 16, acc := .ro, reset := (.num 0) }
  | .edc_PPR_HARD => { blk := .edc, region := false, off := 0x3c, lo := 16, width := 16, acc := .ro, reset := (.num 0) }
  | .edc_PATCH_LOST => { blk := .edc, region := false, off := 0x40, lo := 0, width := 32, acc := .ro, reset := (.num 0) }
  | .edc_WB_SKIP => { blk := .edc, region := false, off := 0x44, lo := 0, width := 32, acc := .ro, reset := (.num 0) }
  | .edc_SRAM_CORR => { blk := .edc, region := false, off := 0x48, lo := 0, width := 32, acc := .ro, reset := (.num 0) }
  | .edc_SRAM_UNCORR => { blk := .edc, region := false, off := 0x4c, lo := 0, width := 32, acc := .ro, reset := (.num 0) }
  | .edc_SRAM_ROWS_SPARED => { blk := .edc, region := false, off := 0x50, lo := 0, width := 16, acc := .ro, reset := (.num 0) }
  | .edc_LOG_IDX => { blk := .edc, region := false, off := 0x60, lo := 0, width := 8, acc := .rw, reset := (.num 0) }
  | .edc_LOG_HEAD => { blk := .edc, region := false, off := 0x60, lo := 8, width := 8, acc := .ro, reset := (.num 0) }
  | .edc_LOG_LINE => { blk := .edc, region := false, off := 0x64, lo := 0, width := 31, acc := .ro, reset := (.num 0) }
  | .edc_LOG_SRAM => { blk := .edc, region := false, off := 0x64, lo := 31, width := 1, acc := .ro, reset := (.num 0) }
  | .edc_LOG_SYMS => { blk := .edc, region := false, off := 0x68, lo := 0, width := 3, acc := .ro, reset := (.num 0) }
  | .edc_LOG_SRC => { blk := .edc, region := false, off := 0x68, lo := 3, width := 2, acc := .ro, reset := (.num 0) }
  | .edc_LOG_HARD => { blk := .edc, region := false, off := 0x68, lo := 5, width := 1, acc := .ro, reset := (.num 0) }
  | .edc_LOG_POISON => { blk := .edc, region := false, off := 0x68, lo := 6, width := 1, acc := .ro, reset := (.num 0) }
  | .edc_LOG_COUNT => { blk := .edc, region := false, off := 0x68, lo := 8, width := 8, acc := .ro, reset := (.num 0) }
  | .edc_LOG_NS => { blk := .edc, region := false, off := 0x6c, lo := 0, width := 30, acc := .ro, reset := (.num 0) }
  | .edc_LOG_SEC => { blk := .edc, region := false, off := 0x70, lo := 0, width := 32, acc := .ro, reset := (.num 0) }
  | .edc_SPARE_FREE => { blk := .edc, region := false, off := 0x80, lo := 0, width := 12, acc := .ro, reset := (.num 0x800), count := 16, stride := 0x4 }
  -- TBS page, tables Timebase-8 to Timebase-13 (04_timebase.md)
  | .tbs_SRC_PRIO => { blk := .tbs, region := false, off := 0x20, lo := 0, width := 6, acc := .rwc, reset := (.num 0x39) }
  | .tbs_SRC_REVERT => { blk := .tbs, region := false, off := 0x20, lo := 6, width := 1, acc := .rwc, reset := (.num 0) }
  | .tbs_SERVO_MODE => { blk := .tbs, region := false, off := 0x20, lo := 7, width := 2, acc := .rwc, reset := (.num 0), resv := [(3, 3)] }
  | .tbs_REF_FREQ => { blk := .tbs, region := false, off := 0x20, lo := 9, width := 1, acc := .rwc, reset := (.num 0) }
  | .tbs_PPS_EDGE => { blk := .tbs, region := false, off := 0x20, lo := 10, width := 1, acc := .rwc, reset := (.num 0) }
  | .tbs_CLAP_PORT_SEL => { blk := .tbs, region := false, off := 0x20, lo := 11, width := 3, acc := .rwc, reset := (.num 7), resv := [(6, 6)] }
  | .tbs_STEP_CMD => { blk := .tbs, region := false, off := 0x20, lo := 14, width := 1, acc := .w1s, reset := (.num 0), own := true }
  | .tbs_SNAP_REQ => { blk := .tbs, region := false, off := 0x20, lo := 15, width := 1, acc := .w1s, reset := (.num 0) }
  | .tbs_CFG_ERR => { blk := .tbs, region := false, off := 0x24, lo := 0, width := 1, acc := .w1c, reset := (.num 0) }
  | .tbs_SRC_ACT => { blk := .tbs, region := false, off := 0x24, lo := 1, width := 2, acc := .ro, reset := (.num 0) }
  | .tbs_LOCKED => { blk := .tbs, region := false, off := 0x24, lo := 3, width := 1, acc := .ro, reset := (.num 0) }
  | .tbs_HOLDOVER => { blk := .tbs, region := false, off := 0x24, lo := 4, width := 1, acc := .ro, reset := (.num 0) }
  | .tbs_FREERUN => { blk := .tbs, region := false, off := 0x24, lo := 5, width := 1, acc := .ro, reset := (.num 1) }
  | .tbs_REF_QUAL => { blk := .tbs, region := false, off := 0x24, lo := 6, width := 1, acc := .ro, reset := (.num 0) }
  | .tbs_REF_LOST => { blk := .tbs, region := false, off := 0x24, lo := 7, width := 1, acc := .ro, reset := (.num 1) }
  | .tbs_REF_BAD => { blk := .tbs, region := false, off := 0x24, lo := 8, width := 1, acc := .w1c, reset := (.num 0) }
  | .tbs_PPS_QUAL => { blk := .tbs, region := false, off := 0x24, lo := 9, width := 1, acc := .ro, reset := (.num 0) }
  | .tbs_PPS_LOST => { blk := .tbs, region := false, off := 0x24, lo := 10, width := 1, acc := .ro, reset := (.num 1) }
  | .tbs_CLAP_QUAL => { blk := .tbs, region := false, off := 0x24, lo := 11, width := 1, acc := .ro, reset := (.num 0) }
  | .tbs_PTP_QUAL => { blk := .tbs, region := false, off := 0x24, lo := 12, width := 1, acc := .ro, reset := (.num 0) }
  | .tbs_STEPPED => { blk := .tbs, region := false, off := 0x24, lo := 13, width := 1, acc := .w1c, reset := (.num 0) }
  | .tbs_STEP_REFUSED => { blk := .tbs, region := false, off := 0x24, lo := 14, width := 1, acc := .w1c, reset := (.num 0) }
  | .tbs_FREQ_CLAMP => { blk := .tbs, region := false, off := 0x24, lo := 15, width := 1, acc := .w1c, reset := (.num 0) }
  | .tbs_SNAP_DONE => { blk := .tbs, region := false, off := 0x24, lo := 16, width := 1, acc := .ro, reset := (.num 0) }
  | .tbs_TQ => { blk := .tbs, region := false, off := 0x24, lo := 17, width := 4, acc := .ro, reset := (.num 0xf) }
  | .tbs_STEP_GEN => { blk := .tbs, region := false, off := 0x24, lo := 21, width := 8, acc := .ro, reset := (.num 0) }
  | .tbs_KP_M => { blk := .tbs, region := false, off := 0x28, lo := 0, width := 8, acc := .rwc, reset := .table, count := 3, stride := 0x4 }
  | .tbs_KP_E => { blk := .tbs, region := false, off := 0x28, lo := 8, width := 5, acc := .rwc, reset := .table, count := 3, stride := 0x4 }
  | .tbs_KI_M => { blk := .tbs, region := false, off := 0x28, lo := 16, width := 8, acc := .rwc, reset := .table, count := 3, stride := 0x4 }
  | .tbs_KI_E => { blk := .tbs, region := false, off := 0x28, lo := 24, width := 5, acc := .rwc, reset := .table, count := 3, stride := 0x4 }
  | .tbs_LOCK_THR => { blk := .tbs, region := false, off := 0x34, lo := 0, width := 16, acc := .rwc, reset := (.num 0x10) }
  | .tbs_LOCK_CNT => { blk := .tbs, region := false, off := 0x34, lo := 16, width := 8, acc := .rwc, reset := (.num 0x40), rej := [(0, 0)] }
  | .tbs_UNLOCK_THR => { blk := .tbs, region := false, off := 0x34, lo := 24, width := 8, acc := .rwc, reset := (.num 4), rej := [(0, 0)] }
  | .tbs_SLEW_LIM => { blk := .tbs, region := false, off := 0x38, lo := 0, width := 7, acc := .rwc, reset := (.num 0xa), rej := [(0, 0), (101, 127)] }
  | .tbs_STEP_THR => { blk := .tbs, region := false, off := 0x38, lo := 8, width := 24, acc := .rwc, reset := (.num 0xa0) }
  | .tbs_HO_AVG => { blk := .tbs, region := false, off := 0x3c, lo := 0, width := 12, acc := .rwc, reset := (.num 0x400), rej := [(0, 0)] }
  | .tbs_HO_WARN => { blk := .tbs, region := false, off := 0x3c, lo := 12, width := 20, acc := .rwc, reset := (.num 0xe10) }
  | .tbs_FREQ_FACT => { blk := .tbs, region := false, off := 0x40, lo := 0, width := 32, acc := .ro, reset := .factory }
  | .tbs_FREQ_WORD => { blk := .tbs, region := false, off := 0x44, lo := 0, width := 32, acc := .rw, reset := (.num 0) }
  | .tbs_PHASE_ERR => { blk := .tbs, region := false, off := 0x48, lo := 0, width := 32, acc := .ro, reset := (.num 0) }
  | .tbs_REF_PPM => { blk := .tbs, region := false, off := 0x4c, lo := 0, width := 32, acc := .ro, reset := (.num 0) }
  | .tbs_TIME_NOW => { blk := .tbs, region := false, off := 0x50, lo := 0, width := 128, acc := .ro, reset := .undef, time := true }
  | .tbs_TIME_SET => { blk := .tbs, region := false, off := 0x60, lo := 0, width := 128, acc := .rw, reset := (.num 0), time := true }
  | .tbs_SNAP_TIME => { blk := .tbs, region := false, off := 0x70, lo := 0, width := 128, acc := .ro, reset := (.num 0), time := true }
  | .tbs_SNAP_COARSE => { blk := .tbs, region := false, off := 0x80, lo := 0, width := 64, acc := .ro, reset := (.num 0) }
  | .tbs_EXT_SEC => { blk := .tbs, region := false, off := 0x88, lo := 0, width := 48, acc := .rw, reset := (.num 0) }
  | .tbs_EXT_SEC_VALID => { blk := .tbs, region := false, off := 0x88, lo := 63, width := 1, acc := .rw, reset := (.num 0) }
  | .tbs_SRC_SWITCHES => { blk := .tbs, region := false, off := 0x90, lo := 0, width := 16, acc := .ro, reset := (.num 0) }
  | .tbs_STEP_COUNT => { blk := .tbs, region := false, off := 0x90, lo := 16, width := 16, acc := .ro, reset := (.num 0) }
  | .tbs_CYCLE_SLIP => { blk := .tbs, region := false, off := 0x94, lo := 0, width := 32, acc := .ro, reset := (.num 0) }
  | .tbs_ASYM_EXT0 => { blk := .tbs, region := false, off := 0xa0, lo := 0, width := 16, acc := .rwc, reset := (.num 0), count := 6, stride := 0x10 }
  | .tbs_ASYM_EXT1 => { blk := .tbs, region := false, off := 0xa0, lo := 16, width := 16, acc := .rwc, reset := (.num 0), count := 6, stride := 0x10 }
  | .tbs_TX_LAT => { blk := .tbs, region := false, off := 0xa4, lo := 0, width := 16, acc := .ro, reset := .factory, count := 6, stride := 0x10 }
  | .tbs_RX_LAT => { blk := .tbs, region := false, off := 0xa4, lo := 16, width := 16, acc := .ro, reset := .factory, count := 6, stride := 0x10 }
  | .tbs_CLAP_OFS => { blk := .tbs, region := false, off := 0xa8, lo := 0, width := 32, acc := .ro, reset := (.num 0), count := 6, stride := 0x10 }
  | .tbs_CLAP_DELAY => { blk := .tbs, region := false, off := 0xac, lo := 0, width := 24, acc := .ro, reset := (.num 0), count := 6, stride := 0x10 }
  | .tbs_CLAP_VALID => { blk := .tbs, region := false, off := 0xac, lo := 24, width := 1, acc := .ro, reset := (.num 0), count := 6, stride := 0x10 }
  | .tbs_CLAP_LANE => { blk := .tbs, region := false, off := 0xac, lo := 25, width := 1, acc := .ro, reset := (.num 0), count := 6, stride := 0x10 }
  | .tbs_CLAP_TQ => { blk := .tbs, region := false, off := 0xac, lo := 26, width := 4, acc := .ro, reset := (.num 0xf), count := 6, stride := 0x10 }
  | .tbs_PTP_EN => { blk := .tbs, region := false, off := 0x100, lo := 0, width := 1, acc := .rwc, reset := (.num 0) }
  | .tbs_PTP_TRANSPORT => { blk := .tbs, region := false, off := 0x100, lo := 1, width := 2, acc := .rwc, reset := (.num 0), resv := [(3, 3)] }
  | .tbs_PTP_DOMAIN => { blk := .tbs, region := false, off := 0x100, lo := 3, width := 7, acc := .rwc, reset := (.num 0) }
  | .tbs_PTP_ASYM => { blk := .tbs, region := false, off := 0x104, lo := 0, width := 32, acc := .rwc, reset := (.num 0) }
  | .tbs_GM_ID => { blk := .tbs, region := false, off := 0x108, lo := 0, width := 64, acc := .ro, reset := (.num 0) }
  | .tbs_UTC_OFS => { blk := .tbs, region := false, off := 0x110, lo := 0, width := 16, acc := .ro, reset := (.num 0) }
  | .tbs_PTP_DISC => { blk := .tbs, region := false, off := 0x110, lo := 16, width := 16, acc := .ro, reset := (.num 0) }
  | .tbs_PPS_OUT_MODE => { blk := .tbs, region := false, off := 0x114, lo := 0, width := 2, acc := .rwc, reset := (.num 0), resv := [(3, 3)] }
  | .tbs_PPS_WIDTH => { blk := .tbs, region := false, off := 0x114, lo := 2, width := 9, acc := .rwc, reset := (.num 0x64), rej := [(0, 0), (501, 511)] }
  | .tbs_PPS_OUT_OFS => { blk := .tbs, region := false, off := 0x118, lo := 0, width := 32, acc := .rwc, reset := (.num 0) }
  -- LNK page, tables Lanes-7 to Lanes-9 (10_sopolink_lanes.md)
  | .lnk_PORT_EN => { blk := .lnk, region := false, off := 0x20, lo := 0, width := 6, acc := .rwc, reset := (.num 0x3f) }
  | .lnk_PORT_SPLIT => { blk := .lnk, region := false, off := 0x20, lo := 6, width := 4, acc := .rwc, reset := (.num 0) }
  | .lnk_REV_CAP => { blk := .lnk, region := false, off := 0x20, lo := 10, width := 2, acc := .rwc, reset := (.num 2), resv := [(0, 0), (3, 3)] }
  | .lnk_PORT_ABORT => { blk := .lnk, region := false, off := 0x20, lo := 12, width := 6, acc := .w1s, reset := (.num 0) }
  | .lnk_CFG_ERR => { blk := .lnk, region := false, off := 0x24, lo := 0, width := 1, acc := .w1c, reset := (.num 0) }
  | .lnk_PORT_UP => { blk := .lnk, region := false, off := 0x24, lo := 1, width := 6, acc := .ro, reset := (.num 0) }
  | .lnk_DEGRADED => { blk := .lnk, region := false, off := 0x24, lo := 7, width := 6, acc := .ro, reset := (.num 0) }
  | .lnk_MISWIRE => { blk := .lnk, region := false, off := 0x24, lo := 13, width := 6, acc := .ro, reset := (.num 0) }
  | .lnk_PORT_FINAL => { blk := .lnk, region := false, off := 0x24, lo := 19, width := 6, acc := .ro, reset := (.num 0) }
  | .lnk_LANE_EN => { blk := .lnk, region := false, off := 0x100, lo := 0, width := 2, acc := .rwc, reset := (.num 3), count := 10, stride := 0x40 }
  | .lnk_EQ_MODE => { blk := .lnk, region := false, off := 0x100, lo := 2, width := 2, acc := .rwc, reset := (.num 0), count := 10, stride := 0x40, resv := [(2, 3)] }
  | .lnk_COMPAT_PRE => { blk := .lnk, region := false, off := 0x100, lo := 4, width := 5, acc := .rwc, reset := (.num 0), count := 10, stride := 0x40 }
  | .lnk_COMPAT_POST => { blk := .lnk, region := false, off := 0x100, lo := 9, width := 6, acc := .rwc, reset := (.num 8), count := 10, stride := 0x40 }
  | .lnk_HB_MISS => { blk := .lnk, region := false, off := 0x100, lo := 15, width := 4, acc := .rwc, reset := (.num 3), count := 10, stride := 0x40, rej := [(0, 0)] }
  | .lnk_RETRY_MAX => { blk := .lnk, region := false, off := 0x100, lo := 19, width := 4, acc := .rwc, reset := (.num 8), count := 10, stride := 0x40, rej := [(0, 0)] }
  | .lnk_REPLAY_TMO => { blk := .lnk, region := false, off := 0x100, lo := 23, width := 6, acc := .rwc, reset := (.num 6), count := 10, stride := 0x40, rej := [(0, 1)] }
  | .lnk_CLAP_VIEW => { blk := .lnk, region := false, off := 0x100, lo := 29, width := 1, acc := .rw, reset := (.num 0), count := 10, stride := 0x40 }
  | .lnk_RETRAIN => { blk := .lnk, region := false, off := 0x100, lo := 30, width := 2, acc := .w1s, reset := (.num 0), count := 10, stride := 0x40 }
  | .lnk_L0_STATE => { blk := .lnk, region := false, off := 0x104, lo := 0, width := 4, acc := .ro, reset := (.num 0), count := 10, stride := 0x40 }
  | .lnk_L1_STATE => { blk := .lnk, region := false, off := 0x104, lo := 4, width := 4, acc := .ro, reset := (.num 0), count := 10, stride := 0x40 }
  | .lnk_LANES_UP => { blk := .lnk, region := false, off := 0x104, lo := 8, width := 2, acc := .ro, reset := (.num 0), count := 10, stride := 0x40 }
  | .lnk_LINK_REV => { blk := .lnk, region := false, off := 0x104, lo := 10, width := 2, acc := .ro, reset := (.num 0), count := 10, stride := 0x40 }
  | .lnk_PARTNER_REV_MAX => { blk := .lnk, region := false, off := 0x104, lo := 12, width := 4, acc := .ro, reset := (.num 0), count := 10, stride := 0x40 }
  | .lnk_SILENT => { blk := .lnk, region := false, off := 0x104, lo := 16, width := 1, acc := .w1c, reset := (.num 0), count := 10, stride := 0x40 }
  | .lnk_LANE_LOSS => { blk := .lnk, region := false, off := 0x104, lo := 17, width := 1, acc := .w1c, reset := (.num 0), count := 10, stride := 0x40 }
  | .lnk_ALIGN_ERR => { blk := .lnk, region := false, off := 0x104, lo := 18, width := 1, acc := .w1c, reset := (.num 0), count := 10, stride := 0x40 }
  | .lnk_PARTNER_ID => { blk := .lnk, region := false, off := 0x108, lo := 0, width := 32, acc := .ro, reset := (.num 0), count := 10, stride := 0x40 }
  | .lnk_PARTNER_FEAT => { blk := .lnk, region := false, off := 0x10c, lo := 0, width := 32, acc := .ro, reset := (.num 0), count := 10, stride := 0x40 }
  | .lnk_PARTNER_PORT => { blk := .lnk, region := false, off := 0x110, lo := 0, width := 3, acc := .ro, reset := (.num 0), count := 10, stride := 0x40 }
  | .lnk_PARTNER_ROLE => { blk := .lnk, region := false, off := 0x110, lo := 3, width := 1, acc := .ro, reset := (.num 0), count := 10, stride := 0x40 }
  | .lnk_PARTNER_SPLIT => { blk := .lnk, region := false, off := 0x110, lo := 4, width := 1, acc := .ro, reset := (.num 0), count := 10, stride := 0x40 }
  | .lnk_PARTNER_MROLE => { blk := .lnk, region := false, off := 0x110, lo := 5, width := 2, acc := .ro, reset := (.num 0), count := 10, stride := 0x40 }
  | .lnk_PARTNER_FW => { blk := .lnk, region := false, off := 0x110, lo := 16, width := 16, acc := .ro, reset := (.num 0), count := 10, stride := 0x40 }
  | .lnk_TX_PRE => { blk := .lnk, region := false, off := 0x114, lo := 0, width := 5, acc := .ro, reset := (.num 4), count := 20, stride := 0x40, inner := 2, istr := 4 }
  | .lnk_TX_POST => { blk := .lnk, region := false, off := 0x114, lo := 5, width := 6, acc := .ro, reset := (.num 0xc), count := 20, stride := 0x40, inner := 2, istr := 4 }
  | .lnk_CTLE => { blk := .lnk, region := false, off := 0x114, lo := 11, width := 4, acc := .ro, reset := (.num 8), count := 20, stride := 0x40, inner := 2, istr := 4 }
  | .lnk_EQ_COMPAT => { blk := .lnk, region := false, off := 0x114, lo := 15, width := 1, acc := .ro, reset := (.num 0), count := 20, stride := 0x40, inner := 2, istr := 4 }
  | .lnk_BACKOFF_NOW => { blk := .lnk, region := false, off := 0x114, lo := 16, width := 9, acc := .ro, reset := (.num 1), count := 20, stride := 0x40, inner := 2, istr := 4 }
  | .lnk_BLK_ERR => { blk := .lnk, region := false, off := 0x11c, lo := 0, width := 16, acc := .ro, reset := (.num 0), count := 20, stride := 0x40, inner := 2, bstr := 16 }
  | .lnk_CTL_BAD => { blk := .lnk, region := false, off := 0x120, lo := 0, width := 16, acc := .ro, reset := (.num 0), count := 10, stride := 0x40 }
  | .lnk_CTL_UNK => { blk := .lnk, region := false, off := 0x120, lo := 16, width := 16, acc := .ro, reset := (.num 0), count := 10, stride := 0x40 }
  | .lnk_STUFF_ERR => { blk := .lnk, region := false, off := 0x124, lo := 0, width := 16, acc := .ro, reset := (.num 0), count := 10, stride := 0x40 }
  | .lnk_SCR_ERR => { blk := .lnk, region := false, off := 0x124, lo := 16, width := 16, acc := .ro, reset := (.num 0), count := 10, stride := 0x40 }
  | .lnk_CRC_ERR => { blk := .lnk, region := false, off := 0x128, lo := 0, width := 32, acc := .ro, reset := (.num 0), count := 10, stride := 0x40 }
  | .lnk_REPLAYS => { blk := .lnk, region := false, off := 0x12c, lo := 0, width := 32, acc := .ro, reset := (.num 0), count := 10, stride := 0x40 }
  | .lnk_LOSS_CNT => { blk := .lnk, region := false, off := 0x130, lo := 0, width := 16, acc := .ro, reset := (.num 0), count := 10, stride := 0x40 }
  | .lnk_TRAIN_FAIL => { blk := .lnk, region := false, off := 0x130, lo := 16, width := 16, acc := .ro, reset := (.num 0), count := 10, stride := 0x40 }
  | .lnk_RESTRIPES => { blk := .lnk, region := false, off := 0x134, lo := 0, width := 16, acc := .ro, reset := (.num 0), count := 10, stride := 0x40 }
  | .lnk_VC_ERR => { blk := .lnk, region := false, off := 0x134, lo := 16, width := 16, acc := .ro, reset := (.num 0), count := 10, stride := 0x40 }
  | .lnk_TRIG_RESEND => { blk := .lnk, region := false, off := 0x138, lo := 0, width := 16, acc := .ro, reset := (.num 0), count := 10, stride := 0x40 }
  | .lnk_TRIG_DUP => { blk := .lnk, region := false, off := 0x138, lo := 16, width := 16, acc := .ro, reset := (.num 0), count := 10, stride := 0x40 }
  -- TRE page, tables Trees-11 to Trees-16 (11_trees_and_failover.md)
  | .tre_TRE_EN => { blk := .tre, region := false, off := 0x20, lo := 0, width := 1, acc := .rwc, reset := (.num 1) }
  | .tre_STBY_EN => { blk := .tre, region := false, off := 0x20, lo := 1, width := 1, acc := .rwc, reset := (.num 1) }
  | .tre_ID_MODE => { blk := .tre, region := false, off := 0x20, lo := 2, width := 1, acc := .rwc, reset := (.num 0) }
  | .tre_ROLE_SW => { blk := .tre, region := false, off := 0x20, lo := 3, width := 2, acc := .rw, reset := .boot, resv := [(3, 3)] }
  | .tre_MERGE_WAIT => { blk := .tre, region := false, off := 0x20, lo := 5, width := 8, acc := .rwc, reset := (.num 8), rej := [(0, 0)] }
  | .tre_ENUM_START => { blk := .tre, region := false, off := 0x20, lo := 13, width := 1, acc := .w1s, reset := (.num 0) }
  | .tre_CLAIM_REQ => { blk := .tre, region := false, off := 0x20, lo := 14, width := 10, acc := .w1s, reset := (.num 0), own := true }
  | .tre_CFG_ERR => { blk := .tre, region := false, off := 0x24, lo := 0, width := 1, acc := .w1c, reset := (.num 0) }
  | .tre_ROLE => { blk := .tre, region := false, off := 0x24, lo := 1, width := 2, acc := .ro, reset := .contacts }
  | .tre_ENUM_DONE => { blk := .tre, region := false, off := 0x24, lo := 3, width := 1, acc := .ro, reset := (.num 0) }
  | .tre_TOPO_FAULT => { blk := .tre, region := false, off := 0x24, lo := 4, width := 1, acc := .w1c, reset := (.num 0) }
  | .tre_CRED_VIOL => { blk := .tre, region := false, off := 0x24, lo := 5, width := 1, acc := .w1c, reset := (.num 0) }
  | .tre_FEAT_PEND => { blk := .tre, region := false, off := 0x24, lo := 6, width := 1, acc := .ro, reset := (.num 0) }
  | .tre_HOLE_OVF => { blk := .tre, region := false, off := 0x24, lo := 7, width := 1, acc := .w1c, reset := (.num 0) }
  | .tre_TRE_FINAL => { blk := .tre, region := false, off := 0x24, lo := 8, width := 1, acc := .ro, reset := (.num 0) }
  | .tre_STRAP_POS => { blk := .tre, region := false, off := 0x24, lo := 9, width := 4, acc := .ro, reset := .contacts }
  | .tre_STRAP_ROLE => { blk := .tre, region := false, off := 0x24, lo := 13, width := 2, acc := .ro, reset := .contacts }
  | .tre_MODULE_ID => { blk := .tre, region := false, off := 0x28, lo := 0, width := 32, acc := .ro, reset := (.num 0) }
  | .tre_ROOT_ID => { blk := .tre, region := false, off := 0x2c, lo := 0, width := 32, acc := .rwc, reset := (.num 1), rej := [(0, 0), (4294967295, 4294967295)] }
  | .tre_HOP => { blk := .tre, region := false, off := 0x30, lo := 0, width := 16, acc := .ro, reset := (.num 0) }
  | .tre_DEPTH => { blk := .tre, region := false, off := 0x30, lo := 16, width := 16, acc := .ro, reset := (.num 0) }
  | .tre_TREE_FEAT => { blk := .tre, region := false, off := 0x34, lo := 0, width := 32, acc := .ro, reset := (.num 0) }
  | .tre_FEAT_TICK => { blk := .tre, region := false, off := 0x38, lo := 0, width := 48, acc := .ro, reset := (.num 0) }
  | .tre_FW_VER => { blk := .tre, region := false, off := 0x40, lo := 0, width := 16, acc := .ro, reset := .image }
  | .tre_FW_MIN => { blk := .tre, region := false, off := 0x40, lo := 16, width := 16, acc := .ro, reset := (.num 0) }
  | .tre_MERGE_HZN => { blk := .tre, region := false, off := 0x44, lo := 0, width := 48, acc := .ro, reset := (.num 0) }
  | .tre_GAP_EMIT => { blk := .tre, region := false, off := 0x50, lo := 0, width := 32, acc := .ro, reset := (.num 0) }
  | .tre_LATE_PKT => { blk := .tre, region := false, off := 0x54, lo := 0, width := 32, acc := .ro, reset := (.num 0) }
  | .tre_DUP_PKT => { blk := .tre, region := false, off := 0x58, lo := 0, width := 32, acc := .ro, reset := (.num 0) }
  | .tre_FAILOVERS => { blk := .tre, region := false, off := 0x5c, lo := 0, width := 16, acc := .ro, reset := (.num 0) }
  | .tre_CLAIM_REFUSED => { blk := .tre, region := false, off := 0x5c, lo := 16, width := 16, acc := .ro, reset := (.num 0) }
  | .tre_RELAY_FWD => { blk := .tre, region := false, off := 0x60, lo := 0, width := 32, acc := .ro, reset := (.num 0) }
  | .tre_RELAY_NOROUTE => { blk := .tre, region := false, off := 0x64, lo := 0, width := 16, acc := .ro, reset := (.num 0) }
  | .tre_CRED_VIOL_CNT => { blk := .tre, region := false, off := 0x64, lo := 16, width := 16, acc := .ro, reset := (.num 0) }
  | .tre_HOLES => { blk := .tre, region := false, off := 0x68, lo := 0, width := 13, acc := .ro, reset := (.num 0) }
  | .tre_FWD_LOG => { blk := .tre, region := false, off := 0x6c, lo := 0, width := 17, acc := .ro, reset := (.num 0) }
  | .tre_ENUM_IDX => { blk := .tre, region := false, off := 0x80, lo := 0, width := 12, acc := .rw, reset := (.num 0) }
  | .tre_ENUM_COUNT => { blk := .tre, region := false, off := 0x84, lo := 0, width := 13, acc := .ro, reset := (.num 0) }
  | .tre_ENUM_MODULE => { blk := .tre, region := false, off := 0x88, lo := 0, width := 32, acc := .ro, reset := (.num 0) }
  | .tre_ENUM_PRIMARY => { blk := .tre, region := false, off := 0x8c, lo := 0, width := 32, acc := .ro, reset := (.num 0) }
  | .tre_ENUM_STANDBY => { blk := .tre, region := false, off := 0x90, lo := 0, width := 32, acc := .ro, reset := (.num 0) }
  | .tre_ENUM_HOP => { blk := .tre, region := false, off := 0x94, lo := 0, width := 16, acc := .ro, reset := (.num 0) }
  | .tre_ENUM_FW => { blk := .tre, region := false, off := 0x94, lo := 16, width := 16, acc := .ro, reset := (.num 0) }
  | .tre_ENUM_FEAT => { blk := .tre, region := false, off := 0x98, lo := 0, width := 24, acc := .ro, reset := (.num 0) }
  | .tre_LINK_ROLE => { blk := .tre, region := false, off := 0x100, lo := 0, width := 3, acc := .ro, reset := (.num 0), count := 10, stride := 0x20 }
  | .tre_STBY_OK => { blk := .tre, region := false, off := 0x100, lo := 3, width := 1, acc := .ro, reset := (.num 0), count := 10, stride := 0x20 }
  | .tre_LINK_CLAIM => { blk := .tre, region := false, off := 0x104, lo := 0, width := 32, acc := .ro, reset := (.num 0), count := 10, stride := 0x20 }
  | .tre_LINK_HZN => { blk := .tre, region := false, off := 0x108, lo := 0, width := 48, acc := .ro, reset := (.num 0), count := 10, stride := 0x20 }
  | .tre_CRED_WAIT => { blk := .tre, region := false, off := 0x110, lo := 0, width := 32, acc := .ro, reset := (.num 0), count := 10, stride := 0x20 }
  | .tre_LINK_GAPS => { blk := .tre, region := false, off := 0x114, lo := 0, width := 32, acc := .ro, reset := (.num 0), count := 10, stride := 0x20 }
  | .tre_PEER_ID => { blk := .tre, region := false, off := 0x118, lo := 0, width := 32, acc := .ro, reset := (.num 0), count := 10, stride := 0x20 }
  -- ETH page, tables Host-9 to Host-13 (12_host_attachment.md)
  | .eth_ETH_EN => { blk := .eth, region := false, off := 0x20, lo := 0, width := 1, acc := .rwc, reset := (.num 1) }
  | .eth_ETH_SPEED => { blk := .eth, region := false, off := 0x20, lo := 1, width := 1, acc := .rwc, reset := (.num 1) }
  | .eth_FEC_EN => { blk := .eth, region := false, off := 0x20, lo := 2, width := 1, acc := .rwc, reset := (.num 0) }
  | .eth_DHCP_EN => { blk := .eth, region := false, off := 0x20, lo := 3, width := 1, acc := .rwc, reset := (.num 1) }
  | .eth_VLAN_EN => { blk := .eth, region := false, off := 0x20, lo := 4, width := 1, acc := .rwc, reset := (.num 0) }
  | .eth_VID => { blk := .eth, region := false, off := 0x20, lo := 5, width := 12, acc := .rwc, reset := (.num 1), rej := [(0, 0), (4095, 4095)] }
  | .eth_CTL_PCP => { blk := .eth, region := false, off := 0x20, lo := 17, width := 3, acc := .rwc, reset := (.num 0) }
  | .eth_PFC_EN => { blk := .eth, region := false, off := 0x20, lo := 20, width := 1, acc := .rwc, reset := (.num 0) }
  | .eth_PFC_PRIO => { blk := .eth, region := false, off := 0x20, lo := 21, width := 3, acc := .rwc, reset := (.num 3) }
  | .eth_ICMP_RATE => { blk := .eth, region := false, off := 0x20, lo := 24, width := 8, acc := .rwc, reset := (.num 0xa) }
  | .eth_CFG_ERR => { blk := .eth, region := false, off := 0x24, lo := 0, width := 1, acc := .w1c, reset := (.num 0) }
  | .eth_LINK_UP => { blk := .eth, region := false, off := 0x24, lo := 1, width := 1, acc := .ro, reset := (.num 0) }
  | .eth_ADDR_VALID => { blk := .eth, region := false, off := 0x24, lo := 2, width := 1, acc := .ro, reset := (.num 0) }
  | .eth_PAUSED => { blk := .eth, region := false, off := 0x24, lo := 3, width := 1, acc := .ro, reset := (.num 0) }
  | .eth_ETH_FINAL => { blk := .eth, region := false, off := 0x24, lo := 4, width := 1, acc := .ro, reset := (.num 0) }
  | .eth_QP_FINAL => { blk := .eth, region := false, off := 0x24, lo := 5, width := 8, acc := .ro, reset := (.num 0) }
  | .eth_QP_ABORT => { blk := .eth, region := false, off := 0x24, lo := 13, width := 8, acc := .w1s, reset := (.num 0) }
  | .eth_MAC_ADDR => { blk := .eth, region := false, off := 0x28, lo := 0, width := 48, acc := .ro, reset := .factory }
  | .eth_IP_ADDR => { blk := .eth, region := false, off := 0x30, lo := 0, width := 32, acc := .rwc, reset := (.num 0) }
  | .eth_NETMASK => { blk := .eth, region := false, off := 0x34, lo := 0, width := 32, acc := .rwc, reset := (.num 0xffffff00) }
  | .eth_GATEWAY => { blk := .eth, region := false, off := 0x38, lo := 0, width := 32, acc := .rwc, reset := (.num 0) }
  | .eth_IP_IN_USE => { blk := .eth, region := false, off := 0x3c, lo := 0, width := 32, acc := .ro, reset := (.num 0) }
  | .eth_LEASE_LEFT => { blk := .eth, region := false, off := 0x40, lo := 0, width := 32, acc := .ro, reset := (.num 0) }
  | .eth_ACK_TMO => { blk := .eth, region := false, off := 0x44, lo := 0, width := 16, acc := .rwc, reset := (.num 0x1f4), rej := [(0, 9)] }
  | .eth_RETRY_CNT => { blk := .eth, region := false, off := 0x44, lo := 16, width := 3, acc := .rwc, reset := (.num 7), rej := [(0, 0)] }
  | .eth_MSG_LOG2 => { blk := .eth, region := false, off := 0x44, lo := 19, width := 5, acc := .rwc, reset := (.num 0x12), rej := [(0, 11), (21, 31)] }
  | .eth_CNP_CUT => { blk := .eth, region := false, off := 0x44, lo := 24, width := 8, acc := .rwc, reset := (.num 0x40) }
  | .eth_RECOV_US => { blk := .eth, region := false, off := 0x48, lo := 0, width := 16, acc := .rwc, reset := (.num 0x37), rej := [(0, 0)] }
  | .eth_RAI => { blk := .eth, region := false, off := 0x48, lo := 16, width := 16, acc := .rwc, reset := (.num 0x32) }
  | .eth_DLY_BIN => { blk := .eth, region := false, off := 0x4c, lo := 3, width := 2, acc := .rwc, reset := (.num 1) }
  | .eth_DLY_SRC => { blk := .eth, region := false, off := 0x4c, lo := 5, width := 1, acc := .rwc, reset := (.num 0) }
  | .eth_DLY_DIV => { blk := .eth, region := false, off := 0x4c, lo := 8, width := 8, acc := .rwc, reset := (.num 0) }
  | .eth_DLY_REGIONS => { blk := .eth, region := false, off := 0x4c, lo := 16, width := 16, acc := .rwc, reset := (.num 0) }
  | .eth_RX_DISC_LEN => { blk := .eth, region := false, off := 0x60, lo := 0, width := 32, acc := .ro, reset := (.num 0) }
  | .eth_RX_DISC_VLAN => { blk := .eth, region := false, off := 0x64, lo := 0, width := 32, acc := .ro, reset := (.num 0) }
  | .eth_RX_DISC_TYPE => { blk := .eth, region := false, off := 0x68, lo := 0, width := 32, acc := .ro, reset := (.num 0) }
  | .eth_RX_DISC_IP => { blk := .eth, region := false, off := 0x6c, lo := 0, width := 32, acc := .ro, reset := (.num 0) }
  | .eth_RX_DISC_PORT => { blk := .eth, region := false, off := 0x70, lo := 0, width := 32, acc := .ro, reset := (.num 0) }
  | .eth_RX_DISC_FCS => { blk := .eth, region := false, off := 0x74, lo := 0, width := 32, acc := .ro, reset := (.num 0) }
  | .eth_ICMP_LIMITED => { blk := .eth, region := false, off := 0x78, lo := 0, width := 32, acc := .ro, reset := (.num 0) }
  | .eth_INBOUND_REQ => { blk := .eth, region := false, off := 0x7c, lo := 0, width := 32, acc := .ro, reset := (.num 0) }
  | .eth_NO_QP => { blk := .eth, region := false, off := 0x80, lo := 0, width := 32, acc := .ro, reset := (.num 0) }
  | .eth_EVQ_LOST => { blk := .eth, region := false, off := 0x84, lo := 0, width := 32, acc := .ro, reset := (.num 0) }
  | .eth_DLY_DROP => { blk := .eth, region := false, off := 0x88, lo := 0, width := 32, acc := .ro, reset := (.num 0) }
  | .eth_DLY_LOST => { blk := .eth, region := false, off := 0x8c, lo := 0, width := 32, acc := .ro, reset := (.num 0) }
  | .eth_QP_EN => { blk := .eth, region := false, off := 0x100, lo := 0, width := 1, acc := .rwc, reset := (.num 0), count := 8, stride := 0x40 }
  | .eth_QP_USE => { blk := .eth, region := false, off := 0x100, lo := 1, width := 2, acc := .rwc, reset := (.num 0), count := 8, stride := 0x40, resv := [(3, 3)] }
  | .eth_PMTU => { blk := .eth, region := false, off := 0x100, lo := 3, width := 2, acc := .rwc, reset := (.num 2), count := 8, stride := 0x40, resv := [(3, 3)] }
  | .eth_RING_OVF => { blk := .eth, region := false, off := 0x100, lo := 5, width := 1, acc := .rwc, reset := (.num 0), count := 8, stride := 0x40 }
  | .eth_ECN_EN => { blk := .eth, region := false, off := 0x100, lo := 6, width := 1, acc := .rwc, reset := (.num 1), count := 8, stride := 0x40 }
  | .eth_DSCP => { blk := .eth, region := false, off := 0x100, lo := 7, width := 6, acc := .rwc, reset := (.num 0x1a), count := 8, stride := 0x40 }
  | .eth_QP_PCP => { blk := .eth, region := false, off := 0x100, lo := 13, width := 3, acc := .rwc, reset := (.num 3), count := 8, stride := 0x40 }
  | .eth_KIND_MASK => { blk := .eth, region := false, off := 0x100, lo := 16, width := 8, acc := .rwc, reset := (.num 0xff), count := 8, stride := 0x40 }
  | .eth_DEST_IP => { blk := .eth, region := false, off := 0x104, lo := 0, width := 32, acc := .rwc, reset := (.num 0), count := 8, stride := 0x40 }
  | .eth_DEST_QPN => { blk := .eth, region := false, off := 0x108, lo := 0, width := 24, acc := .rwc, reset := (.num 0), count := 8, stride := 0x40 }
  | .eth_RKEY => { blk := .eth, region := false, off := 0x10c, lo := 0, width := 32, acc := .rwc, reset := (.num 0), count := 8, stride := 0x40 }
  | .eth_RING_VA => { blk := .eth, region := false, off := 0x110, lo := 0, width := 64, acc := .rwc, reset := (.num 0), count := 8, stride := 0x40 }
  | .eth_RING_LOG2 => { blk := .eth, region := false, off := 0x118, lo := 0, width := 6, acc := .rwc, reset := (.num 0x14), count := 8, stride := 0x40 }
  | .eth_REGION_MASK => { blk := .eth, region := false, off := 0x118, lo := 16, width := 16, acc := .rwc, reset := (.num 0xffff), count := 8, stride := 0x40 }
  | .eth_START_PSN => { blk := .eth, region := false, off := 0x11c, lo := 0, width := 24, acc := .rwc, reset := (.num 0), count := 8, stride := 0x40 }
  | .eth_QP_CI => { blk := .eth, region := false, off := 0x120, lo := 0, width := 32, acc := .rw, reset := (.num 0), count := 8, stride := 0x40 }
  | .eth_QP_PI => { blk := .eth, region := false, off := 0x124, lo := 0, width := 32, acc := .ro, reset := (.num 0), count := 8, stride := 0x40 }
  | .eth_QP_STATE => { blk := .eth, region := false, off := 0x128, lo := 0, width := 3, acc := .ro, reset := (.num 0), count := 8, stride := 0x40 }
  | .eth_NEXT_PSN => { blk := .eth, region := false, off := 0x128, lo := 8, width := 24, acc := .ro, reset := (.num 0), count := 8, stride := 0x40 }
  | .eth_RATE => { blk := .eth, region := false, off := 0x12c, lo := 0, width := 32, acc := .ro, reset := (.num 0), count := 8, stride := 0x40 }
  | .eth_RETRANS => { blk := .eth, region := false, off := 0x130, lo := 0, width := 16, acc := .ro, reset := (.num 0), count := 8, stride := 0x40 }
  | .eth_CNP_RX => { blk := .eth, region := false, off := 0x130, lo := 16, width := 16, acc := .ro, reset := (.num 0), count := 8, stride := 0x40 }
  | .eth_TIMEOUTS => { blk := .eth, region := false, off := 0x134, lo := 0, width := 16, acc := .ro, reset := (.num 0), count := 8, stride := 0x40 }
  | .eth_RNR_CNT => { blk := .eth, region := false, off := 0x134, lo := 16, width := 16, acc := .ro, reset := (.num 0), count := 8, stride := 0x40 }
  | .eth_QP_HELD => { blk := .eth, region := false, off := 0x138, lo := 0, width := 32, acc := .ro, reset := (.num 0), count := 8, stride := 0x40 }
  -- CTL page, tables Host-14 to Host-17 (12_host_attachment.md)
  | .ctl_THB_PORT => { blk := .ctl, region := false, off := 0x20, lo := 0, width := 16, acc := .rwc, reset := (.num 0xb83a), rej := [(0, 0)] }
  | .ctl_SESS_IDLE => { blk := .ctl, region := false, off := 0x20, lo := 16, width := 8, acc := .rwc, reset := (.num 0x3c), rej := [(0, 0)] }
  | .ctl_KEY_CLEAR => { blk := .ctl, region := false, off := 0x20, lo := 24, width := 1, acc := .w1s, reset := (.num 0) }
  | .ctl_CFG_ERR => { blk := .ctl, region := false, off := 0x24, lo := 0, width := 1, acc := .w1c, reset := (.num 0) }
  | .ctl_PROV => { blk := .ctl, region := false, off := 0x24, lo := 1, width := 1, acc := .ro, reset := .contacts }
  | .ctl_SESS_OPEN => { blk := .ctl, region := false, off := 0x24, lo := 2, width := 8, acc := .ro, reset := (.num 0) }
  | .ctl_KEY_VALID => { blk := .ctl, region := false, off := 0x24, lo := 10, width := 8, acc := .ro, reset := .contacts }
  | .ctl_KEY => { blk := .ctl, region := false, off := 0x40, lo := 0, width := 128, acc := .wo, reset := (.num 0), count := 7, stride := 0x20, own := true }
  | .ctl_KEY_LEVEL => { blk := .ctl, region := false, off := 0x50, lo := 0, width := 2, acc := .rw, reset := (.num 0), count := 7, stride := 0x20, resv := [(3, 3)], own := true }
  | .ctl_KEY_REVOKE => { blk := .ctl, region := false, off := 0x50, lo := 2, width := 1, acc := .w1s, reset := (.num 0), count := 7, stride := 0x20, own := true }
  | .ctl_SESS_SLOT => { blk := .ctl, region := false, off := 0x140, lo := 0, width := 3, acc := .ro, reset := (.num 0), count := 8, stride := 0x10 }
  | .ctl_SESS_LEVEL => { blk := .ctl, region := false, off := 0x140, lo := 3, width := 2, acc := .ro, reset := (.num 0), count := 8, stride := 0x10 }
  | .ctl_SESS_IP => { blk := .ctl, region := false, off := 0x144, lo := 0, width := 32, acc := .ro, reset := (.num 0), count := 8, stride := 0x10 }
  | .ctl_SESS_PORT => { blk := .ctl, region := false, off := 0x148, lo := 0, width := 16, acc := .ro, reset := (.num 0), count := 8, stride := 0x10 }
  | .ctl_SESS_SALT => { blk := .ctl, region := false, off := 0x14c, lo := 0, width := 32, acc := .ro, reset := (.num 0), count := 8, stride := 0x10 }
  | .ctl_FW_BEGIN => { blk := .ctl, region := false, off := 0x1c0, lo := 0, width := 1, acc := .w1s, reset := (.num 0), own := true }
  | .ctl_FW_VERIFY => { blk := .ctl, region := false, off := 0x1c0, lo := 1, width := 1, acc := .w1s, reset := (.num 0), own := true }
  | .ctl_FW_ABORT => { blk := .ctl, region := false, off := 0x1c0, lo := 2, width := 1, acc := .w1s, reset := (.num 0), own := true }
  | .ctl_FW_SIZE => { blk := .ctl, region := false, off := 0x1c4, lo := 0, width := 26, acc := .rw, reset := (.num 0) }
  | .ctl_FW_STATE => { blk := .ctl, region := false, off := 0x1c8, lo := 0, width := 4, acc := .ro, reset := (.num 0) }
  | .ctl_FW_MISSING => { blk := .ctl, region := false, off := 0x1c8, lo := 4, width := 18, acc := .ro, reset := (.num 0) }
  | .ctl_AUTH_FAIL => { blk := .ctl, region := false, off := 0x1d0, lo := 0, width := 32, acc := .ro, reset := (.num 0) }
  | .ctl_REPLAY_DROP => { blk := .ctl, region := false, off := 0x1d4, lo := 0, width := 32, acc := .ro, reset := (.num 0) }
  | .ctl_THB_OVF => { blk := .ctl, region := false, off := 0x1d8, lo := 0, width := 32, acc := .ro, reset := (.num 0) }
  | .ctl_MSG_EXEC => { blk := .ctl, region := false, off := 0x1dc, lo := 0, width := 32, acc := .ro, reset := (.num 0) }
  -- HKA page, tables Housekeeping-8 to Housekeeping-12 (13_housekeeping.md)
  | .hka_SCAN_TRIG => { blk := .hka, region := false, off := 0x20, lo := 0, width := 2, acc := .rwc, reset := (.num 0), resv := [(3, 3)] }
  | .hka_MAINS => { blk := .hka, region := false, off := 0x20, lo := 2, width := 1, acc := .rwc, reset := (.num 0) }
  | .hka_TEC_DLY => { blk := .hka, region := false, off := 0x20, lo := 3, width := 8, acc := .rwc, reset := (.num 0) }
  | .hka_SCAN_PER => { blk := .hka, region := false, off := 0x20, lo := 11, width := 8, acc := .rwc, reset := (.num 0xa), rej := [(0, 0)] }
  | .hka_RTD_EN => { blk := .hka, region := false, off := 0x20, lo := 19, width := 4, acc := .rwc, reset := (.num 3) }
  | .hka_CAL_REQ => { blk := .hka, region := false, off := 0x20, lo := 23, width := 1, acc := .w1s, reset := (.num 0) }
  | .hka_CFG_ERR => { blk := .hka, region := false, off := 0x24, lo := 0, width := 1, acc := .w1c, reset := (.num 0) }
  | .hka_SCAN_CFG_ERR => { blk := .hka, region := false, off := 0x24, lo := 1, width := 1, acc := .w1c, reset := (.num 0) }
  | .hka_CAL_BUSY => { blk := .hka, region := false, off := 0x24, lo := 2, width := 1, acc := .ro, reset := (.num 1) }
  | .hka_CAL_FAIL => { blk := .hka, region := false, off := 0x24, lo := 3, width := 1, acc := .w1c, reset := (.num 0) }
  | .hka_CAL_ABORTED => { blk := .hka, region := false, off := 0x24, lo := 4, width := 1, acc := .w1c, reset := (.num 0) }
  | .hka_INJ_BUSY => { blk := .hka, region := false, off := 0x24, lo := 5, width := 1, acc := .ro, reset := (.num 0) }
  | .hka_RTD_OPEN => { blk := .hka, region := false, off := 0x24, lo := 6, width := 4, acc := .ro, reset := (.num 0) }
  | .hka_CLAMP_SEEN => { blk := .hka, region := false, off := 0x28, lo := 0, width := 32, acc := .w1c, reset := (.num 0) }
  | .hka_CAL_PERIOD => { blk := .hka, region := false, off := 0x2c, lo := 0, width := 16, acc := .rwc, reset := (.num 0) }
  | .hka_CAL_IGN => { blk := .hka, region := false, off := 0x2c, lo := 16, width := 16, acc := .ro, reset := (.num 0) }
  | .hka_INJ_INPUT => { blk := .hka, region := false, off := 0x30, lo := 0, width := 5, acc := .rw, reset := (.num 0) }
  | .hka_INJ_URGENT => { blk := .hka, region := false, off := 0x30, lo := 5, width := 1, acc := .rw, reset := (.num 0) }
  | .hka_INJ_REQ => { blk := .hka, region := false, off := 0x30, lo := 6, width := 1, acc := .w1s, reset := (.num 0) }
  | .hka_INJ_IGN => { blk := .hka, region := false, off := 0x30, lo := 16, width := 16, acc := .ro, reset := (.num 0) }
  | .hka_INJ_CODE => { blk := .hka, region := false, off := 0x34, lo := 0, width := 16, acc := .ro, reset := (.num 0) }
  | .hka_INJ_IN => { blk := .hka, region := false, off := 0x34, lo := 16, width := 5, acc := .ro, reset := (.num 0) }
  | .hka_INJ_RANGE => { blk := .hka, region := false, off := 0x34, lo := 21, width := 2, acc := .ro, reset := (.num 0) }
  | .hka_INJ_DONE => { blk := .hka, region := false, off := 0x34, lo := 23, width := 1, acc := .ro, reset := (.num 0) }
  | .hka_INJ_CLAMP => { blk := .hka, region := false, off := 0x34, lo := 24, width := 1, acc := .ro, reset := (.num 0) }
  | .hka_INJ_VALUE => { blk := .hka, region := false, off := 0x38, lo := 0, width := 32, acc := .ro, reset := (.num 0) }
  | .hka_TEC_EN => { blk := .hka, region := false, off := 0x40, lo := 0, width := 1, acc := .rwc, reset := (.num 0) }
  | .hka_TEC_PER => { blk := .hka, region := false, off := 0x40, lo := 1, width := 16, acc := .rwc, reset := (.num 0x3e8), rej := [(0, 9)] }
  | .hka_TEC_DUTY => { blk := .hka, region := false, off := 0x44, lo := 0, width := 16, acc := .rwc, reset := (.num 0) }
  | .hka_DIE_T_WARN => { blk := .hka, region := false, off := 0x48, lo := 0, width := 8, acc := .rwc, reset := (.num 0x82) }
  | .hka_DIE_T_TRIP => { blk := .hka, region := false, off := 0x48, lo := 8, width := 8, acc := .rwc, reset := (.num 0x8c) }
  | .hka_CAL_OFS => { blk := .hka, region := false, off := 0x60, lo := 0, width := 16, acc := .ro, reset := .factory, count := 4, stride := 0x10 }
  | .hka_CAL_GAIN => { blk := .hka, region := false, off := 0x60, lo := 16, width := 16, acc := .ro, reset := .factory, count := 4, stride := 0x10 }
  | .hka_RANGE_GAIN0 => { blk := .hka, region := false, off := 0x64, lo := 0, width := 16, acc := .ro, reset := .factory, count := 4, stride := 0x10 }
  | .hka_RANGE_GAIN1 => { blk := .hka, region := false, off := 0x64, lo := 16, width := 16, acc := .ro, reset := .factory, count := 4, stride := 0x10 }
  | .hka_RANGE_GAIN2 => { blk := .hka, region := false, off := 0x68, lo := 0, width := 16, acc := .ro, reset := .factory, count := 4, stride := 0x10 }
  | .hka_IEXC => { blk := .hka, region := false, off := 0x68, lo := 16, width := 16, acc := .ro, reset := .factory, count := 4, stride := 0x10 }
  | .hka_RES_VAL => { blk := .hka, region := false, off := 0x100, lo := 0, width := 32, acc := .ro, reset := (.num 0), count := 32, stride := 0x8 }
  | .hka_VALID => { blk := .hka, region := false, off := 0x104, lo := 0, width := 1, acc := .ro, reset := (.num 0), count := 32, stride := 0x8 }
  | .hka_STALE => { blk := .hka, region := false, off := 0x104, lo := 1, width := 1, acc := .ro, reset := (.num 0), count := 32, stride := 0x8 }
  | .hka_OPEN => { blk := .hka, region := false, off := 0x104, lo := 2, width := 1, acc := .ro, reset := (.num 0), count := 32, stride := 0x8 }
  | .hka_OVR => { blk := .hka, region := false, off := 0x104, lo := 3, width := 1, acc := .ro, reset := (.num 0), count := 32, stride := 0x8 }
  | .hka_SETTLING => { blk := .hka, region := false, off := 0x104, lo := 4, width := 1, acc := .ro, reset := (.num 0), count := 32, stride := 0x8 }
  | .hka_CLAMP => { blk := .hka, region := false, off := 0x104, lo := 5, width := 1, acc := .ro, reset := (.num 0), count := 32, stride := 0x8 }
  | .hka_OOR => { blk := .hka, region := false, off := 0x104, lo := 6, width := 1, acc := .ro, reset := (.num 0), count := 32, stride := 0x8 }
  | .hka_RANGE => { blk := .hka, region := false, off := 0x104, lo := 7, width := 2, acc := .ro, reset := (.num 2), count := 32, stride := 0x8 }
  | .hka_AGE => { blk := .hka, region := false, off := 0x104, lo := 16, width := 16, acc := .ro, reset := (.num 0xffff), count := 32, stride := 0x8 }
  -- FLT page, tables Faults-8 to Faults-13 (14_faults_and_voting.md)
  | .flt_SHADOW_US => { blk := .flt, region := false, off := 0x20, lo := 0, width := 8, acc := .rwc, reset := (.num 0x32) }
  | .flt_INJ_ACT => { blk := .flt, region := false, off := 0x20, lo := 8, width := 1, acc := .rw, reset := (.num 0), own := true }
  | .flt_INJ_GO => { blk := .flt, region := false, off := 0x20, lo := 9, width := 1, acc := .w1s, reset := (.num 0) }
  | .flt_RESYNC_WIN => { blk := .flt, region := false, off := 0x20, lo := 16, width := 8, acc := .rwc, reset := (.num 0xa), rej := [(0, 0)] }
  | .flt_CFG_ERR => { blk := .flt, region := false, off := 0x24, lo := 0, width := 1, acc := .w1c, reset := (.num 0) }
  | .flt_MAX_LEVEL => { blk := .flt, region := false, off := 0x24, lo := 1, width := 3, acc := .ro, reset := (.num 7) }
  | .flt_SAFE_ACT => { blk := .flt, region := false, off := 0x24, lo := 4, width := 1, acc := .ro, reset := (.num 0) }
  | .flt_FAULT_N_OUT => { blk := .flt, region := false, off := 0x24, lo := 5, width := 1, acc := .ro, reset := (.num 0) }
  | .flt_FAULT_LINE_LOW => { blk := .flt, region := false, off := 0x24, lo := 6, width := 1, acc := .ro, reset := (.num 0) }
  | .flt_CLR_REFUSED => { blk := .flt, region := false, off := 0x24, lo := 7, width := 1, acc := .w1c, reset := (.num 0) }
  | .flt_ACK_REAL => { blk := .flt, region := false, off := 0x28, lo := 1, width := 15, acc := .w1s, reset := (.num 0) }
  | .flt_ACK_INJ => { blk := .flt, region := false, off := 0x28, lo := 17, width := 15, acc := .w1s, reset := (.num 0) }
  | .flt_CLR_REAL => { blk := .flt, region := false, off := 0x2c, lo := 1, width := 15, acc := .w1s, reset := (.num 0) }
  | .flt_CLR_INJ => { blk := .flt, region := false, off := 0x2c, lo := 17, width := 15, acc := .w1s, reset := (.num 0) }
  | .flt_INJ_CLASS => { blk := .flt, region := false, off := 0x30, lo := 0, width := 8, acc := .rw, reset := (.num 1), resv := [(0, 0), (16, 255)] }
  | .flt_INJ_LEVEL => { blk := .flt, region := false, off := 0x30, lo := 8, width := 3, acc := .rw, reset := (.num 1), resv := [(5, 7)] }
  | .flt_INJ_UNIT => { blk := .flt, region := false, off := 0x30, lo := 16, width := 16, acc := .rw, reset := (.num 0) }
  | .flt_LEVEL => { blk := .flt, region := false, off := 0x40, lo := 0, width := 3, acc := .ro, reset := (.num 7), count := 16, stride := 0x10, first := 1 }
  | .flt_STATE => { blk := .flt, region := false, off := 0x40, lo := 3, width := 2, acc := .ro, reset := (.num 0), count := 16, stride := 0x10, first := 1 }
  | .flt_COND => { blk := .flt, region := false, off := 0x40, lo := 5, width := 1, acc := .ro, reset := (.num 0), count := 16, stride := 0x10, first := 1 }
  | .flt_INJ_LVL_NOW => { blk := .flt, region := false, off := 0x40, lo := 6, width := 3, acc := .ro, reset := (.num 7), count := 16, stride := 0x10, first := 1 }
  | .flt_INJ_STATE => { blk := .flt, region := false, off := 0x40, lo := 9, width := 2, acc := .ro, reset := (.num 0), count := 16, stride := 0x10, first := 1 }
  | .flt_LAST_UNIT => { blk := .flt, region := false, off := 0x40, lo := 16, width := 16, acc := .ro, reset := (.num 0), count := 16, stride := 0x10, first := 1 }
  | .flt_RAISED => { blk := .flt, region := false, off := 0x44, lo := 0, width := 16, acc := .ro, reset := (.num 0), count := 16, stride := 0x10, first := 1 }
  | .flt_INJ_RAISED => { blk := .flt, region := false, off := 0x44, lo := 16, width := 16, acc := .ro, reset := (.num 0), count := 16, stride := 0x10, first := 1 }
  | .flt_ESCALATED => { blk := .flt, region := false, off := 0x48, lo := 0, width := 16, acc := .ro, reset := (.num 0), count := 16, stride := 0x10, first := 1 }
  | .flt_CONSEQ => { blk := .flt, region := false, off := 0x48, lo := 16, width := 16, acc := .ro, reset := (.num 0), count := 16, stride := 0x10, first := 1 }
  | .flt_MEM_A => { blk := .flt, region := false, off := 0x180, lo := 0, width := 2, acc := .ro, reset := (.num 0) }
  | .flt_MEM_B => { blk := .flt, region := false, off := 0x180, lo := 2, width := 2, acc := .ro, reset := (.num 0) }
  | .flt_MEM_C => { blk := .flt, region := false, off := 0x180, lo := 4, width := 2, acc := .ro, reset := (.num 0) }
  | .flt_CORE_RESTARTED => { blk := .flt, region := false, off := 0x180, lo := 6, width := 1, acc := .w1c, reset := (.num 0) }
  | .flt_RESYNC_A => { blk := .flt, region := false, off := 0x184, lo := 0, width := 16, acc := .ro, reset := (.num 0) }
  | .flt_RESYNC_B => { blk := .flt, region := false, off := 0x184, lo := 16, width := 16, acc := .ro, reset := (.num 0) }
  | .flt_RESYNC_C => { blk := .flt, region := false, off := 0x188, lo := 0, width := 16, acc := .ro, reset := (.num 0) }
  | .flt_MAJ_LOSS => { blk := .flt, region := false, off := 0x188, lo := 16, width := 16, acc := .ro, reset := (.num 0) }
  | .flt_LOG_IDX => { blk := .flt, region := false, off := 0x200, lo := 0, width := 8, acc := .rw, reset := (.num 0) }
  | .flt_LOG_HEAD => { blk := .flt, region := false, off := 0x200, lo := 8, width := 8, acc := .ro, reset := (.num 0) }
  | .flt_LOG_CLASS => { blk := .flt, region := false, off := 0x204, lo := 0, width := 8, acc := .ro, reset := (.num 0) }
  | .flt_LOG_LEVEL => { blk := .flt, region := false, off := 0x204, lo := 8, width := 3, acc := .ro, reset := (.num 0) }
  | .flt_LOG_DET => { blk := .flt, region := false, off := 0x204, lo := 11, width := 3, acc := .ro, reset := (.num 0) }
  | .flt_LOG_INJ => { blk := .flt, region := false, off := 0x204, lo := 14, width := 1, acc := .ro, reset := (.num 0) }
  | .flt_LOG_REAL => { blk := .flt, region := false, off := 0x204, lo := 15, width := 1, acc := .ro, reset := (.num 0) }
  | .flt_LOG_CONSEQ => { blk := .flt, region := false, off := 0x204, lo := 16, width := 1, acc := .ro, reset := (.num 0) }
  | .flt_LOG_ESC => { blk := .flt, region := false, off := 0x204, lo := 17, width := 1, acc := .ro, reset := (.num 0) }
  | .flt_LOG_SIM => { blk := .flt, region := false, off := 0x204, lo := 18, width := 1, acc := .ro, reset := (.num 0) }
  | .flt_LOG_UNIT => { blk := .flt, region := false, off := 0x208, lo := 0, width := 16, acc := .ro, reset := (.num 0) }
  | .flt_LOG_EV => { blk := .flt, region := false, off := 0x208, lo := 16, width := 16, acc := .ro, reset := (.num 0) }
  | .flt_LOG_NS => { blk := .flt, region := false, off := 0x20c, lo := 0, width := 30, acc := .ro, reset := (.num 0) }
  | .flt_LOG_SEC => { blk := .flt, region := false, off := 0x210, lo := 0, width := 32, acc := .ro, reset := (.num 0) }
  -- the common page header, table Pages-2 (16_register_pages.md)
  | .hdr_WIN => { blk := .pmr, region := false, off := 0x0, lo := 0, width := 5, acc := .ro, reset := .ident, count := 340 }
  | .hdr_PAGE => { blk := .pmr, region := false, off := 0x0, lo := 5, width := 5, acc := .ro, reset := .ident, count := 340 }
  | .hdr_LAYOUT => { blk := .pmr, region := false, off := 0x0, lo := 16, width := 8, acc := .ro, reset := (.num 1), count := 340 }
  | .hdr_PAGE_NAME => { blk := .pmr, region := false, off := 0x4, lo := 0, width := 24, acc := .ro, reset := .ident, count := 340 }
  | .hdr_RD_MASK => { blk := .pmr, region := false, off := 0x8, lo := 0, width := 3, acc := .rw, reset := .table, count := 340, own := true }
  | .hdr_WR_MASK => { blk := .pmr, region := false, off := 0x8, lo := 4, width := 3, acc := .rw, reset := .table, count := 340, own := true }
  | .hdr_SHADOW_DIRTY => { blk := .pmr, region := false, off := 0xc, lo := 0, width := 1, acc := .ro, reset := (.num 0), count := 340 }
  | .hdr_REVERT => { blk := .pmr, region := false, off := 0xc, lo := 1, width := 1, acc := .w1s, reset := (.num 0), count := 340 }
  | .hdr_PAGE_EPOCH => { blk := .pmr, region := false, off := 0x10, lo := 0, width := 32, acc := .ro, reset := (.num 0), count := 340 }
  | .hdr_WR_COUNT => { blk := .pmr, region := false, off := 0x14, lo := 0, width := 32, acc := .ro, reset := (.num 0), count := 340 }
  | .hdr_DENY_CNT => { blk := .pmr, region := false, off := 0x18, lo := 0, width := 16, acc := .ro, reset := (.num 0), count := 340 }
  | .hdr_SNAP_MISS => { blk := .pmr, region := false, off := 0x18, lo := 16, width := 16, acc := .ro, reset := (.num 0), count := 340 }
  | .hdr_LAST_SRC => { blk := .pmr, region := false, off := 0x1c, lo := 0, width := 4, acc := .ro, reset := (.num 0xf), count := 340 }
  | .hdr_LAST_LVL => { blk := .pmr, region := false, off := 0x1c, lo := 4, width := 2, acc := .ro, reset := (.num 0), count := 340 }

/-- The fields of PMR page. -/
def pmrBlockFields : List Fld :=
  [.pmr_PWR_CMD, .pmr_RST_MODULE, .pmr_FW_ACTIVATE, .pmr_FW_CONFIRM, .pmr_CFG_ERR, .pmr_PWR_CMD_ERR,
   .pmr_PWR_STATE, .pmr_ACQ_ENABLED, .pmr_BOOT_SLOT, .pmr_TRIAL, .pmr_BOOT_FALLBACK, .pmr_RESET_CAUSE,
   .pmr_CAB_OFFLINE, .pmr_BLK_RST, .pmr_CONFIRM_TMO, .pmr_PART_NO, .pmr_ORDER_CODE, .pmr_SI_STEP,
   .pmr_SEC_VER_MIN, .pmr_SERIAL, .pmr_FW_VER_A, .pmr_FW_VER_B, .pmr_START_COUNT, .pmr_START_MS, .pmr_XING_OVR,
   .pmr_XING_EXCESS]

/-- The fields of SNS page. -/
def snsBlockFields : List Fld :=
  [.sns_BIAS_EN, .sns_TSRC, .sns_SERVO_EN, .sns_BR_TC, .sns_BIAS_SLEW, .sns_RAMP_RATE, .sns_OC_TOTAL,
   .sns_CFG_ERR, .sns_BIAS_FROZEN, .sns_BIAS_EN_ERR, .sns_OC_TOTAL_TRIP, .sns_T_USED, .sns_VEX, .sns_BR_TRIM,
   .sns_OC_LIMIT, .sns_OC_FILT, .sns_V_SET, .sns_BIAS_OK, .sns_RAMPING, .sns_OC_TRIP, .sns_VCLAMP]

/-- The fields of PFE pages. -/
def pfeBlockFields : List Fld :=
  [.pfe_MASK_SAVE, .pfe_MASK_SAVE_BUSY, .pfe_MASK_IMG_VALID, .pfe_MASK_SAVE_IGN, .pfe_REGION_CFG_ERR]

/-- The fields of PFE pages (region pages). -/
def pfeRegionFields : List Fld :=
  [.pfer_FE_EN, .pfer_FE_ABORT, .pfer_HOLDOFF, .pfer_SENSE_THR, .pfer_SENSE_HYS, .pfer_MASK_ADDR,
   .pfer_MASK_VIEW, .pfer_MASK_AUTO_INC, .pfer_MASK_DATA, .pfer_HOT_THR, .pfer_HOT_RUN, .pfer_HOT_ACT,
   .pfer_HOT_CLR, .pfer_INJ_EN, .pfer_INJ_PAT, .pfer_INJ_PIX, .pfer_INJ_AMP, .pfer_INJ_REF, .pfer_INJ_DELAY,
   .pfer_INJ_COUNT, .pfer_INJ_PERIOD, .pfer_CFG_ERR, .pfer_THR_ERR, .pfer_FE_FINAL, .pfer_INJ_OVR,
   .pfer_HOT_FULL, .pfer_HOT_LEN, .pfer_INJ_ISSUED, .pfer_SAT_LAST, .pfer_MASKED_CNT, .pfer_MASKED_TDC,
   .pfer_HOT_IDX, .pfer_HOT_ADDR, .pfer_HOT_ACTED]

/-- The fields of TDC pages. -/
def tdcBlockFields : List Fld :=
  [.tdc_AUX_EN, .tdc_AUX_EDGE, .tdc_AUX_DIV, .tdc_AUX_OFS, .tdc_CFG_ERR, .tdc_CLK_FAULT, .tdc_CLK_BAD,
   .tdc_AUX_OVR, .tdc_AUX_CALOK, .tdc_AUX_SKIP, .tdc_AUX_DROP, .tdc_CALOK_MAP, .tdc_CODE_ERR_ALL]

/-- The fields of TDC pages (region pages). -/
def tdcRegionFields : List Fld :=
  [.tdcr_TDC_EN, .tdcr_TDC_ABORT, .tdcr_CAL_RESET, .tdcr_CAL_SRC, .tdcr_CAL_AVG, .tdcr_DITHER_EN,
   .tdcr_CAL_DARK, .tdcr_REGION_OFS, .tdcr_CAL_EXCL, .tdcr_CAL_JUMP, .tdcr_CAL_CONV_THR, .tdcr_CAL_TMAX,
   .tdcr_CFG_ERR, .tdcr_TDC_FINAL, .tdcr_CAL_LOAD_BUSY, .tdcr_CALOK, .tdcr_DROP_QFULL, .tdcr_DROP_AGE,
   .tdcr_DROP_ABORT, .tdcr_CODE_ERR, .tdcr_PH_AMBIG, .tdcr_OFS_ADDR, .tdcr_OFS_VIEW, .tdcr_OFS_AUTO_INC,
   .tdcr_TDC_OFF, .tdcr_BIN_IDX, .tdcr_BIN_GRP, .tdcr_BIN_VIEW, .tdcr_BIN_DATA, .tdcr_LOAD_GRP, .tdcr_LOAD_OK,
   .tdcr_CAL_LOAD, .tdcr_GRP_SEL, .tdcr_CAL_GEN, .tdcr_GRP_CALOK, .tdcr_CAL_CONV, .tdcr_CAL_REJ_RUN,
   .tdcr_CAL_FILL, .tdcr_CAL_RESID, .tdcr_CAL_REJ] ++
  [.tdcr_CAL_TIMEOUT, .tdcr_GRP_DROP]

/-- The fields of SEQ page. -/
def seqBlockFields : List Fld :=
  [.seq_COMMIT, .seq_COMMIT_AT_EN, .seq_CFG_ERR, .seq_TICK_CFG_ERR, .seq_TICK_BUDGET_ERR, .seq_MODE_ERR,
   .seq_COMMIT_PEND, .seq_COMMIT_LATE, .seq_COMMIT_BUSY, .seq_TICK_RUN, .seq_TICK_SLIP,
   .seq_TICK_BUDGET_REGION, .seq_TICK_BUDGET_MIN, .seq_CFG_EPOCH, .seq_TICK_NUM, .seq_TICK_DEN,
   .seq_TICK_EPOCH, .seq_TICK_BASE, .seq_TICK_INDEX, .seq_COMMIT_TICK, .seq_EPOCH_TICK, .seq_REGION_MODE,
   .seq_REGION_ABORT, .seq_REGION_FINAL, .seq_TICK_OVR_CNT]

/-- The fields of EVB page. -/
def evbBlockFields : List Fld :=
  [.evb_REORDER_WIN, .evb_HEAD_IDLE, .evb_ZS_EN, .evb_CFG_ERR, .evb_RS_EARLY, .evb_LATE_CNT, .evb_EARLY_REL]

/-- The fields of TRG page. -/
def trgBlockFields : List Fld :=
  [.trg_TRG_EN, .trg_SOFT_REQ, .trg_MARK, .trg_LOC_COINC, .trg_REQ_MERGE, .trg_DEC_COINC, .trg_CFG_ERR,
   .trg_REQ_OVR, .trg_TRIG_LAT_ERR, .trg_TRG_FINAL, .trg_LOCAL_LUT, .trg_DEC_LUT, .trg_TRIG_HOLDOFF,
   .trg_TRIG_FIX_LAT, .trg_TRIG_LAT_MIN, .trg_WIN_PRE, .trg_WIN_POST, .trg_WIN_REEL, .trg_RATE_REGIONS,
   .trg_RATE_WIN, .trg_RATE_THR, .trg_TO_SRC, .trg_TO_REGION, .trg_TO_WIDTH, .trg_TO_OFS, .trg_REQ_SENT,
   .trg_REQ_MERGED, .trg_REQ_EXCESS, .trg_DEC_COUNT, .trg_DEC_REJ, .trg_DEC_HELD, .trg_TRIG_LATE,
   .trg_PRE_SHORT_CNT, .trg_LAST_TRIG_ID, .trg_LAST_TT, .trg_LAST_CLASS]

/-- The fields of HST pages (05_acquisition_modes.md). -/
def hstBlockFields : List Fld :=
  [.hst_REGION_CFG_ERR]

/-- The fields of HST pages (05_acquisition_modes.md) (region pages). -/
def hstRegionFields : List Fld :=
  [.hstr_GATE_REF, .hstr_GATE_CYCLE, .hstr_HST_BINW, .hstr_GATE_START, .hstr_GATE_STOP, .hstr_GATE_STEP,
   .hstr_GATE_NSTEP, .hstr_CFG_ERR, .hstr_GATE_CFG_ERR, .hstr_GATE_HELD, .hstr_HST_SAT, .hstr_GATE_IDX,
   .hstr_SYNC_MISSED, .hstr_HST_UNDER, .hstr_HST_OVER, .hstr_HST_DROP, .hstr_HST_LATE]

/-- The fields of ACC pages (05_acquisition_modes.md). -/
def accBlockFields : List Fld :=
  [.acc_REGION_CFG_ERR]

/-- The fields of ACC pages (05_acquisition_modes.md) (region pages). -/
def accRegionFields : List Fld :=
  [.accr_ACC_N, .accr_SHUTTER, .accr_CFG_ERR, .accr_SUB_IDX, .accr_PARTIAL, .accr_ACC_FRAMES,
   .accr_ACC_PARTIAL_CNT]

/-- The fields of CMP pages. -/
def cmpBlockFields : List Fld :=
  [.cmp_REGION_CFG_ERR, .cmp_RP_PKTS, .cmp_RP_STALL]

/-- The fields of CMP pages (region pages). -/
def cmpRegionFields : List Fld :=
  [.cmpr_CMP_EN, .cmpr_CMP_ABORT, .cmpr_TABLE_MODE, .cmpr_PRED_MODE, .cmpr_STALL_LIMIT, .cmpr_CFG_ERR,
   .cmpr_CMP_FINAL, .cmpr_STALLED, .cmpr_TRUNC_SEEN, .cmpr_FORCED, .cmpr_CTX_LOAD_BUSY, .cmpr_ACT_KIND,
   .cmpr_PKT_CNT, .cmpr_TRUNC_CNT, .cmpr_STORED_CHUNKS, .cmpr_PREEMPT_CNT, .cmpr_TRUNC_ELEMS, .cmpr_STALL_TIME,
   .cmpr_IN_BYTES, .cmpr_OUT_BYTES, .cmpr_CTX_KIND, .cmpr_CTX_IDX, .cmpr_CTX_VIEW, .cmpr_CTX_LOAD,
   .cmpr_CTX_DATA]

/-- The fields of QUE page. -/
def queBlockFields : List Fld :=
  [.que_PACK_MODE, .que_STARVE_LIMIT, .que_SHARE_CAP, .que_HOLD_MARK, .que_CFG_ERR, .que_NARROW,
   .que_PACK_FAULT, .que_UNCORR_SEEN, .que_PATCH_FULL, .que_LANE_OUT, .que_ROUTE_UP, .que_ROUTE_ETH,
   .que_HOLD_LIMIT, .que_SHARED_USED, .que_SHARED_PEAK, .que_PATCH_USED, .que_CORR, .que_UNCORR, .que_HELD_CNT,
   .que_PATCH_CNT, .que_GRANT_WAIT]

/-- The fields of CAB page. -/
def cabBlockFields : List Fld :=
  [.cab_SCRUB_EN, .cab_REPAIR_AUTO, .cab_PPR_HARD_EN, .cab_REPAIR_RUN, .cab_OFL_START, .cab_OFL_ABORT,
   .cab_CMD_GO, .cab_SCRUB_PERIOD, .cab_CFG_ERR, .cab_CMD_BUSY, .cab_REPAIR_BUSY, .cab_OFL_BUSY,
   .cab_SCRUB_LATE, .cab_PATCH_FULL, .cab_DIR_DAMAGED, .cab_CMD_RES, .cab_CMD_OP, .cab_CMD_ARG0, .cab_CMD_ARG1,
   .cab_CMD_TICK, .cab_CMD_OUT, .cab_STREAM_REEL, .cab_DOWN_REEL, .cab_READ_SHARE, .cab_OFL_TAKE,
   .cab_OFL_FROM, .cab_OFL_QP, .cab_OFL_UP, .cab_OFL_DONE, .cab_OFL_STATE, .cab_DIR_DATA, .cab_SCRUB_PASSES,
   .cab_SCRUB_QUANT, .cab_REC_DISC, .cab_REEL_FREE, .cab_REEL_FULL, .cab_REEL_RING, .cab_REEL_DEF,
   .cab_TAKE_OPEN, .cab_REEL_POLICY] ++
  [.cab_REEL_DISC]

/-- The fields of EDC page. -/
def edcBlockFields : List Fld :=
  [.edc_SRAM_WIN, .edc_CFG_ERR, .edc_POOL_LOW, .edc_POOL_EXH, .edc_TRACK_OVF, .edc_SRAM_SPARE_EXH,
   .edc_SELFTEST_FAIL, .edc_STORE_CORR, .edc_STORE_UNCORR, .edc_POISONED, .edc_HARD_LINES, .edc_SPANS_MAPPED,
   .edc_PPR_SOFT, .edc_PPR_HARD, .edc_PATCH_LOST, .edc_WB_SKIP, .edc_SRAM_CORR, .edc_SRAM_UNCORR,
   .edc_SRAM_ROWS_SPARED, .edc_LOG_IDX, .edc_LOG_HEAD, .edc_LOG_LINE, .edc_LOG_SRAM, .edc_LOG_SYMS,
   .edc_LOG_SRC, .edc_LOG_HARD, .edc_LOG_POISON, .edc_LOG_COUNT, .edc_LOG_NS, .edc_LOG_SEC, .edc_SPARE_FREE]

/-- The fields of TBS page. -/
def tbsBlockFields : List Fld :=
  [.tbs_SRC_PRIO, .tbs_SRC_REVERT, .tbs_SERVO_MODE, .tbs_REF_FREQ, .tbs_PPS_EDGE, .tbs_CLAP_PORT_SEL,
   .tbs_STEP_CMD, .tbs_SNAP_REQ, .tbs_CFG_ERR, .tbs_SRC_ACT, .tbs_LOCKED, .tbs_HOLDOVER, .tbs_FREERUN,
   .tbs_REF_QUAL, .tbs_REF_LOST, .tbs_REF_BAD, .tbs_PPS_QUAL, .tbs_PPS_LOST, .tbs_CLAP_QUAL, .tbs_PTP_QUAL,
   .tbs_STEPPED, .tbs_STEP_REFUSED, .tbs_FREQ_CLAMP, .tbs_SNAP_DONE, .tbs_TQ, .tbs_STEP_GEN, .tbs_KP_M,
   .tbs_KP_E, .tbs_KI_M, .tbs_KI_E, .tbs_LOCK_THR, .tbs_LOCK_CNT, .tbs_UNLOCK_THR, .tbs_SLEW_LIM,
   .tbs_STEP_THR, .tbs_HO_AVG, .tbs_HO_WARN, .tbs_FREQ_FACT, .tbs_FREQ_WORD, .tbs_PHASE_ERR] ++
  [.tbs_REF_PPM, .tbs_TIME_NOW, .tbs_TIME_SET, .tbs_SNAP_TIME, .tbs_SNAP_COARSE, .tbs_EXT_SEC,
   .tbs_EXT_SEC_VALID, .tbs_SRC_SWITCHES, .tbs_STEP_COUNT, .tbs_CYCLE_SLIP, .tbs_ASYM_EXT0, .tbs_ASYM_EXT1,
   .tbs_TX_LAT, .tbs_RX_LAT, .tbs_CLAP_OFS, .tbs_CLAP_DELAY, .tbs_CLAP_VALID, .tbs_CLAP_LANE, .tbs_CLAP_TQ,
   .tbs_PTP_EN, .tbs_PTP_TRANSPORT, .tbs_PTP_DOMAIN, .tbs_PTP_ASYM, .tbs_GM_ID, .tbs_UTC_OFS, .tbs_PTP_DISC,
   .tbs_PPS_OUT_MODE, .tbs_PPS_WIDTH, .tbs_PPS_OUT_OFS]

/-- The fields of LNK page. -/
def lnkBlockFields : List Fld :=
  [.lnk_PORT_EN, .lnk_PORT_SPLIT, .lnk_REV_CAP, .lnk_PORT_ABORT, .lnk_CFG_ERR, .lnk_PORT_UP, .lnk_DEGRADED,
   .lnk_MISWIRE, .lnk_PORT_FINAL, .lnk_LANE_EN, .lnk_EQ_MODE, .lnk_COMPAT_PRE, .lnk_COMPAT_POST, .lnk_HB_MISS,
   .lnk_RETRY_MAX, .lnk_REPLAY_TMO, .lnk_CLAP_VIEW, .lnk_RETRAIN, .lnk_L0_STATE, .lnk_L1_STATE, .lnk_LANES_UP,
   .lnk_LINK_REV, .lnk_PARTNER_REV_MAX, .lnk_SILENT, .lnk_LANE_LOSS, .lnk_ALIGN_ERR, .lnk_PARTNER_ID,
   .lnk_PARTNER_FEAT, .lnk_PARTNER_PORT, .lnk_PARTNER_ROLE, .lnk_PARTNER_SPLIT, .lnk_PARTNER_MROLE,
   .lnk_PARTNER_FW, .lnk_TX_PRE, .lnk_TX_POST, .lnk_CTLE, .lnk_EQ_COMPAT, .lnk_BACKOFF_NOW, .lnk_BLK_ERR,
   .lnk_CTL_BAD] ++
  [.lnk_CTL_UNK, .lnk_STUFF_ERR, .lnk_SCR_ERR, .lnk_CRC_ERR, .lnk_REPLAYS, .lnk_LOSS_CNT, .lnk_TRAIN_FAIL,
   .lnk_RESTRIPES, .lnk_VC_ERR, .lnk_TRIG_RESEND, .lnk_TRIG_DUP]

/-- The fields of TRE page. -/
def treBlockFields : List Fld :=
  [.tre_TRE_EN, .tre_STBY_EN, .tre_ID_MODE, .tre_ROLE_SW, .tre_MERGE_WAIT, .tre_ENUM_START, .tre_CLAIM_REQ,
   .tre_CFG_ERR, .tre_ROLE, .tre_ENUM_DONE, .tre_TOPO_FAULT, .tre_CRED_VIOL, .tre_FEAT_PEND, .tre_HOLE_OVF,
   .tre_TRE_FINAL, .tre_STRAP_POS, .tre_STRAP_ROLE, .tre_MODULE_ID, .tre_ROOT_ID, .tre_HOP, .tre_DEPTH,
   .tre_TREE_FEAT, .tre_FEAT_TICK, .tre_FW_VER, .tre_FW_MIN, .tre_MERGE_HZN, .tre_GAP_EMIT, .tre_LATE_PKT,
   .tre_DUP_PKT, .tre_FAILOVERS, .tre_CLAIM_REFUSED, .tre_RELAY_FWD, .tre_RELAY_NOROUTE, .tre_CRED_VIOL_CNT,
   .tre_HOLES, .tre_FWD_LOG, .tre_ENUM_IDX, .tre_ENUM_COUNT, .tre_ENUM_MODULE, .tre_ENUM_PRIMARY] ++
  [.tre_ENUM_STANDBY, .tre_ENUM_HOP, .tre_ENUM_FW, .tre_ENUM_FEAT, .tre_LINK_ROLE, .tre_STBY_OK,
   .tre_LINK_CLAIM, .tre_LINK_HZN, .tre_CRED_WAIT, .tre_LINK_GAPS, .tre_PEER_ID]

/-- The fields of ETH page. -/
def ethBlockFields : List Fld :=
  [.eth_ETH_EN, .eth_ETH_SPEED, .eth_FEC_EN, .eth_DHCP_EN, .eth_VLAN_EN, .eth_VID, .eth_CTL_PCP, .eth_PFC_EN,
   .eth_PFC_PRIO, .eth_ICMP_RATE, .eth_CFG_ERR, .eth_LINK_UP, .eth_ADDR_VALID, .eth_PAUSED, .eth_ETH_FINAL,
   .eth_QP_FINAL, .eth_QP_ABORT, .eth_MAC_ADDR, .eth_IP_ADDR, .eth_NETMASK, .eth_GATEWAY, .eth_IP_IN_USE,
   .eth_LEASE_LEFT, .eth_ACK_TMO, .eth_RETRY_CNT, .eth_MSG_LOG2, .eth_CNP_CUT, .eth_RECOV_US, .eth_RAI,
   .eth_DLY_BIN, .eth_DLY_SRC, .eth_DLY_DIV, .eth_DLY_REGIONS, .eth_RX_DISC_LEN, .eth_RX_DISC_VLAN,
   .eth_RX_DISC_TYPE, .eth_RX_DISC_IP, .eth_RX_DISC_PORT, .eth_RX_DISC_FCS, .eth_ICMP_LIMITED] ++
  [.eth_INBOUND_REQ, .eth_NO_QP, .eth_EVQ_LOST, .eth_DLY_DROP, .eth_DLY_LOST, .eth_QP_EN, .eth_QP_USE,
   .eth_PMTU, .eth_RING_OVF, .eth_ECN_EN, .eth_DSCP, .eth_QP_PCP, .eth_KIND_MASK, .eth_DEST_IP, .eth_DEST_QPN,
   .eth_RKEY, .eth_RING_VA, .eth_RING_LOG2, .eth_REGION_MASK, .eth_START_PSN, .eth_QP_CI, .eth_QP_PI,
   .eth_QP_STATE, .eth_NEXT_PSN, .eth_RATE, .eth_RETRANS, .eth_CNP_RX, .eth_TIMEOUTS, .eth_RNR_CNT,
   .eth_QP_HELD]

/-- The fields of CTL page. -/
def ctlBlockFields : List Fld :=
  [.ctl_THB_PORT, .ctl_SESS_IDLE, .ctl_KEY_CLEAR, .ctl_CFG_ERR, .ctl_PROV, .ctl_SESS_OPEN, .ctl_KEY_VALID,
   .ctl_KEY, .ctl_KEY_LEVEL, .ctl_KEY_REVOKE, .ctl_SESS_SLOT, .ctl_SESS_LEVEL, .ctl_SESS_IP, .ctl_SESS_PORT,
   .ctl_SESS_SALT, .ctl_FW_BEGIN, .ctl_FW_VERIFY, .ctl_FW_ABORT, .ctl_FW_SIZE, .ctl_FW_STATE, .ctl_FW_MISSING,
   .ctl_AUTH_FAIL, .ctl_REPLAY_DROP, .ctl_THB_OVF, .ctl_MSG_EXEC]

/-- The fields of HKA page. -/
def hkaBlockFields : List Fld :=
  [.hka_SCAN_TRIG, .hka_MAINS, .hka_TEC_DLY, .hka_SCAN_PER, .hka_RTD_EN, .hka_CAL_REQ, .hka_CFG_ERR,
   .hka_SCAN_CFG_ERR, .hka_CAL_BUSY, .hka_CAL_FAIL, .hka_CAL_ABORTED, .hka_INJ_BUSY, .hka_RTD_OPEN,
   .hka_CLAMP_SEEN, .hka_CAL_PERIOD, .hka_CAL_IGN, .hka_INJ_INPUT, .hka_INJ_URGENT, .hka_INJ_REQ, .hka_INJ_IGN,
   .hka_INJ_CODE, .hka_INJ_IN, .hka_INJ_RANGE, .hka_INJ_DONE, .hka_INJ_CLAMP, .hka_INJ_VALUE, .hka_TEC_EN,
   .hka_TEC_PER, .hka_TEC_DUTY, .hka_DIE_T_WARN, .hka_DIE_T_TRIP, .hka_CAL_OFS, .hka_CAL_GAIN,
   .hka_RANGE_GAIN0, .hka_RANGE_GAIN1, .hka_RANGE_GAIN2, .hka_IEXC, .hka_RES_VAL, .hka_VALID, .hka_STALE] ++
  [.hka_OPEN, .hka_OVR, .hka_SETTLING, .hka_CLAMP, .hka_OOR, .hka_RANGE, .hka_AGE]

/-- The fields of FLT page. -/
def fltBlockFields : List Fld :=
  [.flt_SHADOW_US, .flt_INJ_ACT, .flt_INJ_GO, .flt_RESYNC_WIN, .flt_CFG_ERR, .flt_MAX_LEVEL, .flt_SAFE_ACT,
   .flt_FAULT_N_OUT, .flt_FAULT_LINE_LOW, .flt_CLR_REFUSED, .flt_ACK_REAL, .flt_ACK_INJ, .flt_CLR_REAL,
   .flt_CLR_INJ, .flt_INJ_CLASS, .flt_INJ_LEVEL, .flt_INJ_UNIT, .flt_LEVEL, .flt_STATE, .flt_COND,
   .flt_INJ_LVL_NOW, .flt_INJ_STATE, .flt_LAST_UNIT, .flt_RAISED, .flt_INJ_RAISED, .flt_ESCALATED, .flt_CONSEQ,
   .flt_MEM_A, .flt_MEM_B, .flt_MEM_C, .flt_CORE_RESTARTED, .flt_RESYNC_A, .flt_RESYNC_B, .flt_RESYNC_C,
   .flt_MAJ_LOSS, .flt_LOG_IDX, .flt_LOG_HEAD, .flt_LOG_CLASS, .flt_LOG_LEVEL, .flt_LOG_DET] ++
  [.flt_LOG_INJ, .flt_LOG_REAL, .flt_LOG_CONSEQ, .flt_LOG_ESC, .flt_LOG_SIM, .flt_LOG_UNIT, .flt_LOG_EV,
   .flt_LOG_NS, .flt_LOG_SEC]

/-- The fields of the page header. -/
def hdrFields : List Fld :=
  [.hdr_WIN, .hdr_PAGE, .hdr_LAYOUT, .hdr_PAGE_NAME, .hdr_RD_MASK, .hdr_WR_MASK, .hdr_SHADOW_DIRTY,
   .hdr_REVERT, .hdr_PAGE_EPOCH, .hdr_WR_COUNT, .hdr_DENY_CNT, .hdr_SNAP_MISS, .hdr_LAST_SRC, .hdr_LAST_LVL]

/-- The fields a page of block b holds beside its header: the block page's, or a region page's. -/
def pageFields (region : Bool) : Blk → List Fld
  | .pmr => if region then [] else pmrBlockFields
  | .sns => if region then [] else snsBlockFields
  | .pfe => if region then pfeRegionFields else pfeBlockFields
  | .tdc => if region then tdcRegionFields else tdcBlockFields
  | .seq => if region then [] else seqBlockFields
  | .evb => if region then [] else evbBlockFields
  | .trg => if region then [] else trgBlockFields
  | .hst => if region then hstRegionFields else hstBlockFields
  | .acc => if region then accRegionFields else accBlockFields
  | .cmp => if region then cmpRegionFields else cmpBlockFields
  | .que => if region then [] else queBlockFields
  | .cab => if region then [] else cabBlockFields
  | .edc => if region then [] else edcBlockFields
  | .tbs => if region then [] else tbsBlockFields
  | .lnk => if region then [] else lnkBlockFields
  | .tre => if region then [] else treBlockFields
  | .eth => if region then [] else ethBlockFields
  | .ctl => if region then [] else ctlBlockFields
  | .hka => if region then [] else hkaBlockFields
  | .flt => if region then [] else fltBlockFields

/-- The window index of a block (table Scope-2). -/
def Blk.idx (b : Blk) : Nat := b.ctorIdx

/-- The block of a window index; none above 0x13. -/
def Blk.ofIdx : Nat → Option Blk
  | 0 => some .pmr
  | 1 => some .sns
  | 2 => some .pfe
  | 3 => some .tdc
  | 4 => some .seq
  | 5 => some .evb
  | 6 => some .trg
  | 7 => some .hst
  | 8 => some .acc
  | 9 => some .cmp
  | 10 => some .que
  | 11 => some .cab
  | 12 => some .edc
  | 13 => some .tbs
  | 14 => some .lnk
  | 15 => some .tre
  | 16 => some .eth
  | 17 => some .ctl
  | 18 => some .hka
  | 19 => some .flt
  | _ => none

/-- The blocks that have region pages (R345, R346). -/
def Blk.replicated : Blk → Bool
  | .pfe | .tdc | .hst | .acc | .cmp => true
  | _ => false

/-- Every block, in window order. -/
def allBlks : List Blk :=
  [.pmr, .sns, .pfe, .tdc, .seq, .evb, .trg, .hst, .acc, .cmp, .que, .cab, .edc, .tbs, .lnk, .tre, .eth, .ctl, .hka, .flt]

/-- Every field of the block and region pages (the header's fields apart). -/
def allFields : List Fld :=
  allBlks.flatMap (fun b => pageFields false b ++ pageFields true b)

/-- The bits of a four-word TB time (layout of TIME_NOW): 8 of fu, 30 of ns, 48 of seconds. -/
def timeMask : Nat := 0x0000FFFF_FFFFFFFF_3FFFFFFF_000000FF

/-- The bits a field has: all of its width, or those of the TB time layout. -/
def Fld.mask (f : Fld) : Nat :=
  if f.desc.time then timeMask else 2 ^ f.desc.width - 1

/-- The value v cut to the field's bits. -/
def Fld.cut (f : Fld) (v : Nat) : Nat :=
  if f.desc.time then v &&& timeMask else v % 2 ^ f.desc.width

/-- The byte offset of instance i of the field in its page. -/
def Fld.offOf (f : Fld) (i : Nat) : Nat :=
  if f.desc.region then f.desc.off
  else f.desc.off + f.desc.stride * (i / f.desc.inner) + f.desc.istr * (i % f.desc.inner)

/-- The lowest bit of instance i, counted from bit 0 of the word at its offset. -/
def Fld.loOf (f : Fld) (i : Nat) : Nat := f.desc.lo + f.desc.bstr * (i % f.desc.inner)

/-- How many words instance i reaches into. -/
def Fld.wordsOf (f : Fld) (i : Nat) : Nat := (f.loOf i + f.desc.width + 31) / 32

/-- The field belongs to the page header. -/
def Fld.isHdr (f : Fld) : Bool := hdrFields.contains f

/-- The key under which instance i of field f stands in a register map. -/
def Fld.key (f : Fld) (i : Nat) : Nat := f.ctorIdx + 1024 * i

end Sys2Proof.Machine
end

