-- ==== Sys2Proof/Config.lean ====
section
/-! DEFINITION. What an implementation fixes (factory data, fuses, contacts) and the free values the spec leaves open.
Every one is a constant with no body: nothing can be proved of its value. -/

namespace Sys2Proof

open Sys2Proof.Machine

/-- The factory, fuse, boot, contact and image entries of the Reset columns (table Pages-6), by field and instance. -/
opaque Config.factory : Fld → Nat → Nat

/-- The factory TDC_OFF of the cluster at 16384 x region + local index (R54). -/
opaque Config.tdcOff : Nat → Nat

/-- The factory bin table of group g of region r, when flash holds a valid one (R64). -/
opaque Config.factoryTable : Nat → Nat → Option (List Nat)

/-- The seed and the feedback taps of region r's dither generator (R54 gives neither). -/
opaque Config.lfsrSeed : Nat → Nat
opaque Config.lfsrTaps : Nat → Nat

/-- The averaging A and the jump limit of the auxiliary channels' calibration (R66 names R62 and gives them no field). -/
opaque Config.auxAvg : Nat
opaque Config.auxJump : Nat

/-- How far from the grid the n-th pulse lands at cluster c (R44 bounds the landing and the jitter only). -/
opaque Config.injOffset : Nat → Nat → Nat

/-- The skew of the clock at the cluster 16384 x region + local index, and its converter's step error at place f of the circle. -/
opaque Config.clockSkew : Nat → Nat → Nat

/-- The place among the fabric's words of the n-th word a source writes (R169 gives the words, no allocation of them). -/
opaque Config.fabricWord : Nat → Nat → Nat

/-- The check bits of a fabric lane's 64 data bits and of a word's 8-bit tag (R181 names the kind of code, not its matrix). -/
opaque Config.laneCheck : BitVec 64 → BitVec 8
opaque Config.tagCheck : BitVec 8 → BitVec 4

/-- The time quality of a module that is not root and follows EXT or PTP (table Timebase-2 gives none). -/
opaque Config.tqOther : Nat

/-- The photon-to-comparator delay of region r in fu, from the factory data (R100). -/
opaque Config.photonDelay : Nat → Nat

/-- The factory key of slot 7 (R292). -/
opaque Config.factoryKey : Nat

/-- The point of the Dravyan signing key, whose SHA-256 the fuses hold (R342). -/
opaque Config.signKey : Nat × Nat

/-- Another module on the wire pulls FAULT_N low at an instant (R319: the wire is shared). -/
opaque Config.faultLine : Nat → Bool

/-- The flash buffer is full for the n-th block written (R293). -/
opaque Config.flashFull : Nat → Bool

/-- Whether a measured value between two units of its result, sum / n, goes to the upper one (R299, R304 give no rounding). -/
opaque Config.roundUp : Int → Nat → Bool

/-- The temperature of a resistance num / den ohm outside -200 to 850 degrees, where IEC 60751 gives none (R299, R307). -/
opaque Config.cvdOutside : Int → Nat → Int

/-- A value the spec leaves open, for the n-th time one is needed. -/
opaque Config.freeValue : Nat → Nat

end Sys2Proof
end

