-- ==== Sys2Proof/Machine/State.lean ====
section
/-! DEFINITION. The state of the module, its stops, and the state after reset. -/

namespace Sys2Proof.Machine

open Sys2Proof

/-- Why a step stops with a fault. -/
inductive Fault where
  /-- A command with an operand list its rule cannot give (a length outside the bounds WellFormed checks); raised by the
  commands that take such a list. Safe: the module never presents one. -/
  | malformed (mnemonic : String)
  deriving DecidableEq, Repr

/-- Why a step is refused. -/
inductive Refusal where
  /-- A command that has no meaning yet; raised by the dispatch alone. Safe. -/
  | notModelled (mnemonic : String)
  deriving DecidableEq, Repr

/-- The state of the module. reg holds the fields that are not RWC and force the RWC fields in force; shadow holds the RWC
shadows; a field that is not listed reads its reset entry. clock is the present instant in fu on the module's own scale. -/
structure State where
  clock : Nat := 0
  free : Nat := 0
  pwr : Pwr := .off
  held : Nat := 0xFFFFF
  reg : Sp := []
  force : Sp := []
  shadow : Sp := []
  staged : Option Staged := none
  evSeq : Nat := 0
  /-- event records waiting on the event queue pair or unacknowledged there, oldest first -/
  evq : List EvRec := []
  /-- own records on their way up as VC0 items (R283) -/
  evUp : List EvRec := []
  /-- records discarded since the queue was last full, not yet reported -/
  evLost : Nat := 0
  detected : List Det := []
  pmr : Pmr := {}
  flash : Flash := {}
  sns : Sns := {}
  pfe : Pfe := {}
  tdc : Tdc := {}
  tbs : Tbs := {}
  seq : Seq := {}
  evb : Evb := {}
  hst : Hst := {}
  accum : Accum := {}
  cmp : Cmp := {}
  que : Que := {}
  cab : Cab := {}
  edc : Edc := {}
  trg : Trg := {}
  lnk : Lnk := {}
  tre : Tre := {}
  hka : Hka := {}
  flt : Flt := {}
  eth : Eth := {}
  ctl : Ctl := {}
  /-- what the last command that reads by itself returned -/
  lastRead : Nat := 0
  /-- what the module has sent, newest first -/
  out : List Out := []
  pending : List Instr := []
  deriving DecidableEq, Repr

/-- The module before power: OFF, every block held, every register at its reset entry, nothing
waiting. DESIGN CHOICE for what the tables give no value (log entry 4): unsafe. -/
def State.reset : State := {}

end Sys2Proof.Machine
end

