-- ==== Sys2Proof/Machine/Ops.lean ====
section
/-! DEFINITION. The named operations every block shares: registers, time, power, event records and detected faults. -/

namespace Sys2Proof.Machine

open Sys2Proof

/-! ### Registers (R6, R347, R356, R361) -/

/-- The default servo gains of table Timebase-4, by source. -/
def gainReset : Fld → Nat → Nat
  | .tbs_KP_M, 0 => 196 | .tbs_KP_M, 1 => 157 | .tbs_KP_M, _ => 201
  | .tbs_KP_E, 0 => 17 | .tbs_KP_E, 1 => 14 | .tbs_KP_E, _ => 7
  | .tbs_KI_M, 0 => 158 | .tbs_KI_M, 1 => 253 | .tbs_KI_M, _ => 202
  | .tbs_KI_E, 0 => 8 | .tbs_KI_E, 1 => 4 | .tbs_KI_E, _ => 1
  | _, _ => 0

/-- The reset masks of table Pages-5: everyone reads; OWN alone writes CTL, OPERATE and OWN every other page. -/
def maskReset : Fld → Nat → Nat
  | .hdr_RD_MASK, _ => 7
  | .hdr_WR_MASK, p => if p / 17 == Blk.ctl.idx then 4 else 6
  | _, _ => 0

/-- The three letters of a block's mnemonic, first in the low byte (R348). -/
def pageName : Nat → Nat
  | 0 => 0x524D50 | 1 => 0x534E53 | 2 => 0x454650 | 3 => 0x434454 | 4 => 0x514553
  | 5 => 0x425645 | 6 => 0x475254 | 7 => 0x545348 | 8 => 0x434341 | 9 => 0x504D43
  | 10 => 0x455551 | 11 => 0x424143 | 12 => 0x434445 | 13 => 0x534254 | 14 => 0x4B4E4C
  | 15 => 0x455254 | 16 => 0x485445 | 17 => 0x4C5443 | 18 => 0x414B48 | 19 => 0x544C46
  | _ => 0

/-- The constant identity fields of a page (R348); the page number is 17 x window + page. -/
def identReset : Fld → Nat → Nat
  | .hdr_WIN, p => p / 17
  | .hdr_PAGE, p => p % 17
  | .hdr_PAGE_NAME, p => pageName (p / 17)
  | _, _ => 0

/-- The entry of the reset column for instance i of field f (tables Pages-5, Pages-6, Timebase-4). PROVISION_EN is taken as low, and with it PROV
and KEY_VALID of slot 7, until it has been sampled high (R292). In the registers of a sub-link 1 the fields of lane 0 read 0
(10_sopolink_lanes.md, LNK registers). -/
def Fld.resetEntry (f : Fld) (i : Nat) : Nat :=
  match f.desc.reset with
  | .num n => if f.desc.blk == .lnk && f.desc.inner == 2 && 12 ≤ i && i % 2 == 0 then 0 else n
  | .undef => 0
  | .ident => identReset f i
  | .table => if f.desc.blk == .tbs then gainReset f i else maskReset f i
  | .contacts => if f.desc.blk == .ctl then 0 else Config.factory f i
  | _ => Config.factory f i

/-- The value of instance i of field f after a reset that resets it: its reset entry, in the bits the field has. -/
def Fld.resetVal (f : Fld) (i : Nat) : Nat := f.cut (f.resetEntry i)

/-- The value in force of instance i of field f. -/
def State.rd (s : State) (f : Fld) (i : Nat := 0) : Nat :=
  if f.desc.acc = .rwc then spGet s.force (f.key i) (f.resetVal i) else spGet s.reg (f.key i) (f.resetVal i)

/-- The shadow of instance i of an RWC field. -/
def State.rdSh (s : State) (f : Fld) (i : Nat := 0) : Nat := spGet s.shadow (f.key i) (f.resetVal i)

/-- The shadow of instance i of an RWC field set to v. -/
def State.wrSh (s : State) (f : Fld) (i v : Nat) : State :=
  { s with shadow := spSet s.shadow (f.key i) (f.cut v) (f.resetVal i) }

/-- Instance i of the RWC field f set in force alone. -/
def State.wrForce (s : State) (f : Fld) (i v : Nat) : State :=
  { s with force := spSet s.force (f.key i) (f.cut v) (f.resetVal i) }

/-- The module sets instance i of field f to v: an RWC field in force and in its shadow (R356). -/
def State.wr (s : State) (f : Fld) (i v : Nat) : State :=
  if f.desc.acc = .rwc then
    { s with force := spSet s.force (f.key i) (f.cut v) (f.resetVal i),
             shadow := spSet s.shadow (f.key i) (f.cut v) (f.resetVal i) }
  else { s with reg := spSet s.reg (f.key i) (f.cut v) (f.resetVal i) }

/-- A field read as a flag. -/
def State.flag (s : State) (f : Fld) (i : Nat := 0) : Bool := s.rd f i != 0

/-- A one-bit field set to b. -/
def State.wrB (s : State) (f : Fld) (i : Nat) (b : Bool) : State := s.wr f i (b2n b)

/-- A counter raised by n, wrapping at its width. -/
def State.bump (s : State) (f : Fld) (i : Nat) (n : Nat := 1) : State := s.wr f i (s.rd f i + n)

/-- A counter raised by n, stopping at its largest value. -/
def State.bumpSat (s : State) (f : Fld) (i : Nat) (n : Nat := 1) : State :=
  s.wr f i (satN (2 ^ f.desc.width - 1) (s.rd f i + n))

/-- Bit n of a field that holds one bit a unit. -/
def State.rdBit (s : State) (f : Fld) (i n : Nat) : Bool := bit (s.rd f i) n

/-- Bit n of a field set to b. -/
def State.wrBit (s : State) (f : Fld) (i n : Nat) (b : Bool) : State := s.wr f i (setBit (s.rd f i) n b)

/-- Bit n of a field's shadow. -/
def State.rdShBit (s : State) (f : Fld) (i n : Nat) : Bool := bit (s.rdSh f i) n

/-- A signed field. -/
def State.rdS (s : State) (f : Fld) (i : Nat := 0) : Int := sgn f.desc.width (s.rd f i)

/-- A signed field set, wrapping at its width. -/
def State.wrS (s : State) (f : Fld) (i : Nat) (x : Int) : State := s.wr f i (toU f.desc.width x)

/-! ### Time (R4, R5, R71) -/

/-- One second, one microsecond, one nanosecond and one coarse period in fu. -/
def secFu : Nat := 160000000000
def msFu : Nat := 160000000
def usFu : Nat := 160000
def nsFu : Nat := 160
def coarseFu : Nat := 128

/-- The module coarse count at the present instant. -/
def State.coarse (s : State) : Nat := (s.clock - s.tbs.zero) / coarseFu

/-- The present instant on the coarse scale, in fu since the coarse count was 0. -/
def State.local_ (s : State) : Nat := s.clock - s.tbs.zero

/-- TB time of the instant x of the coarse scale, in fu (R71). -/
def State.tbOf (s : State) (x : Int) : Int := x + s.tbs.base

/-- TB time of an instant latched at x on the coarse scale: by the base in force then (R85). -/
def State.tbAt (s : State) (x : Int) : Int :=
  x + s.tbs.steps.foldl (fun b p => if x < p.1 then p.2 else b) s.tbs.base

/-- The present TB time in fu: it moves at the coarse edges, by a coarse period each (R71). -/
def State.tbNow (s : State) : Nat := (s.tbAt (coarseFu * s.coarse : Nat)).toNat

/-- The TB time of a stamp taken now, to 1 fu (R76, R79). -/
def State.tbStamp (s : State) : Nat := (s.tbAt s.local_).toNat

/-- The four-word layout of a TB time given in fu (TIME_NOW). -/
def timeWords (t : Nat) : Nat :=
  t % 160 + ((t / 160) % 1000000000) <<< 32 + ((t / secFu) % 2 ^ 48) <<< 64

/-- The TB time in fu of a four-word value; none when its fu or nanoseconds are out of range (R5). -/
def timeOfWords (w : Nat) : Option Nat :=
  if bits w 0 8 < 160 ∧ bits w 32 30 < 1000000000 then
    some (bits w 0 8 + 160 * bits w 32 30 + secFu * bits w 64 48)
  else none

/-- The clock moved on to the instant t; it never goes back. -/
def State.at (s : State) (t : Nat) : State := { s with clock := if s.clock < t then t else s.clock }

/-- A fresh free value: the state with its counter advanced. -/
def State.fresh (s : State) : State := { s with free := s.free + 1 }

/-! ### Power and reset (R17, R377) -/

/-- The blocks table Architecture-7 powers in STANDBY. -/
def Blk.inStandby : Blk → Bool
  | .pmr | .flt | .tbs | .hka | .ctl | .eth | .tre | .lnk => true
  | _ => false

/-- The block is powered and out of reset; PMR and FLT leave theirs at an instant of the start in progress (table Clocks-5). -/
def State.alive (s : State) (b : Blk) : Bool :=
  s.pwr != .off && !bit s.held b.idx && (s.pwr != .standby || b.inStandby) && (b != .pmr || s.pmr.upFrom ≤ s.clock) &&
    (b != .flt || s.pmr.fltFrom ≤ s.clock)

/-- k where the block is powered and out of reset; else nothing happens. -/
def State.on (s : State) (b : Blk) (k : State → State) : State := if s.alive b then k s else s

/-- s with its clock at c and the commands p waiting. -/
def State.stamp (s : State) (c : Nat) (p : List Instr) : State := { s with clock := c, pending := p }

/-- The outcome of a command that always runs: the clock moved on to its instant, then f. What f does stands at that instant, and the
queue of waiting commands is not f's to change. -/
def run (t : Nat) (f : State → State) (s : State) : Host.Outcome State Fault Refusal :=
  .next ((f (s.at t)).stamp (s.at t).clock s.pending)

/-- f where c holds. -/
def State.when (s : State) (c : Bool) (f : State → State) : State := if c then f s else s

/-- f run over a list of values, one after another. -/
def State.each {α : Type} (s : State) (l : List α) (f : α → State → State) : State :=
  l.foldl (fun a x => f x a) s

/-! ### Event records (R282, R283) -/

/-- A queue pair is enabled for event records. -/
def State.eventQp (s : State) : Option Nat :=
  (List.range 8).find? (fun q => s.flag .eth_QP_EN q && s.rd .eth_QP_USE q == 1)

/-- A record put on the event queue pair, or counted as lost when 512 wait there or there is none (R283). -/
def State.queueEv (s : State) (r : EvRec) : State :=
  if s.eventQp.isSome then
    if s.evq.length < 512 then { s with evq := s.evq ++ [r] }
    else { (s.bump .eth_EVQ_LOST 0) with evLost := s.evLost + 1 }
  else s.bump .eth_EVQ_LOST 0

/-- An own record of a module with a primary parent goes up, too, as an item of VC0 (R283). -/
def State.raiseEv (s : State) (r : EvRec) : State :=
  if (List.range 2).any (fun l => s.rd .tre_LINK_ROLE l == 1) then { s with evUp := s.evUp ++ [r] } else s

/-- The module originates an event record: EV_SEQ, MODULE_ID and EV_TIME are filled in (R282). -/
def State.emitAs (s : State) (sev cls flags ty data : Nat) : State :=
  let r : EvRec := { ty := ty, sev := sev, cls := cls, modId := s.rd .tre_MODULE_ID, time := s.tbNow, data := data % 2 ^ 64,
                     seq := s.evSeq % 2 ^ 16, flags := flags }
  (State.queueEv { s with evSeq := (s.evSeq + 1) % 2 ^ 16 } r).raiseEv r

/-- A record that reports no fault: SEVERITY 0xFF, class 0. -/
def State.emit (s : State) (ty data : Nat) : State := s.emitAs 0xFF 0 0 ty data

/-! ### Detected faults (R313 to R316) -/

def clsBias : Nat := 1
def clsOverCurrent : Nat := 2
def clsSupply : Nat := 3
def clsOverTemp : Nat := 4
def clsTick : Nat := 5
def clsTdc : Nat := 6
def clsTimebase : Nat := 7
def clsTrigger : Nat := 8
def clsCompression : Nat := 9
def clsQueue : Nat := 10
def clsMemory : Nat := 11
def clsLink : Nat := 12
def clsTopology : Nat := 13
def clsHousekeeping : Nat := 14
def clsControl : Nat := 15

/-- The unit codes of table Faults-2. -/
def unitModule : Nat := 0
def unitRegion (r : Nat) : Nat := 0x1000 + r
def unitLink (l : Nat) : Nat := 0x2000 + l
def unitRtd (c : Nat) : Nat := 0x3000 + c
def unitHka (i : Nat) : Nat := 0x4000 + i
def unitCore (m : Nat) : Nat := 0x5000 + m

/-- A detector raises a fault: it waits for FLT to take it (R315). -/
def State.detect (s : State) (cls lvl unit : Nat) (ev more : Option (Nat × Nat) := none) (par : Bool := false) : State :=
  { s with detected := s.detected ++ [{ cls := cls, lvl := lvl, unit := unit, at_ := s.clock, ev := ev, more := more, par := par }] }

def State.flashUpd (s : State) (f : Flash → Flash) : State := { s with flash := f s.flash }

/-- The boot record in force. -/
def Flash.boot (x : Flash) : BootRec := { roleSw := x.roleSw, active := x.active, trial := x.trial, starts := x.starts, ethSpeed := x.ethSpeed, seq := x.seq }

/-- A write of the boot record goes to the copy not in force with the next sequence number, and is in force from then on; the copy
that was stays as it is (R343). -/
def State.bootRec (s : State) (f : Flash → Flash) : State := s.flashUpd (fun x => { f x with seq := x.seq + 1, other := x.boot })

/-! ### The tick and the modes, as other blocks read them (R93) -/

/-- The module is the root of its tree: ROLE root or root by strap (R117, R238). -/
def State.isRoot (s : State) : Bool := s.rd .tre_ROLE == 1 || s.rd .tre_ROLE == 2

/-- The mode word of region r in force. -/
def State.mode (s : State) (r : Nat) : Nat := s.rd .seq_REGION_MODE r

def mStamp : Nat := 0
def mWindow : Nat := 1
def mGate : Nat := 2
def mHisto : Nat := 3
def mCount : Nat := 4
def mBinary : Nat := 5
def mAccum : Nat := 6
def mTest : Nat := 7

/-- Mode bit m is in force in region r. -/
def State.hasMode (s : State) (r m : Nat) : Bool := bit (s.mode r) m

/-- A mode that takes event words is in force in region r: STAMP, WINDOW, HISTO or TEST (R59). -/
def State.tdcMode (s : State) (r : Nat) : Bool :=
  s.hasMode r mStamp || s.hasMode r mWindow || s.hasMode r mHisto || s.hasMode r mTest

/-- A mode that takes a counter frame is in force in region r: COUNT, GATE or ACCUM (R36). -/
def State.counterMode (s : State) (r : Nat) : Bool :=
  s.hasMode r mCount || s.hasMode r mGate || s.hasMode r mAccum

end Sys2Proof.Machine
end

