-- ==== Sys2Proof/Machine/Rs.lean ====
section
/-! DEFINITION. The Reed-Solomon code of the cabinet's lines (R186): GF(2^8) with x^8 + x^4 + x^3 + x^2 + 1, generator roots
alpha^0 to alpha^(2t-1), data byte 0 the coefficient of highest degree. -/

namespace Sys2Proof.Machine

/-- Multiplication by alpha. -/
def gfDouble (a : Nat) : Nat := if 128 ≤ a then ((2 * a) ^^^ 0x11D) % 256 else 2 * a

/-- The product in GF(2^8). -/
def gfMul (a b : Nat) : Nat :=
  ((List.range 8).foldl (fun (q : Nat × Nat) i => (if bit b i then q.1 ^^^ q.2 else q.1, gfDouble q.2)) (0, a)).1

/-- alpha^n. -/
def gfExp (n : Nat) : Nat := (List.range (n % 255)).foldl (fun a _ => gfDouble a) 1

/-- a^n. -/
def gfPow (a n : Nat) : Nat := (List.range n).foldl (fun x _ => gfMul x a) 1

/-- The inverse of a non-zero element: a^254. -/
def gfInv (a : Nat) : Nat := gfPow a 254

/-- A polynomial (highest degree first) at x. -/
def gfEval (p : List Nat) (x : Nat) : Nat := p.foldl (fun a c => gfMul a x ^^^ c) 0

/-- A polynomial times (X + r), highest degree first. -/
def gfTimesRoot (p : List Nat) (r : Nat) : List Nat :=
  List.zipWith (fun a b => a ^^^ gfMul b r) (p ++ [0]) (0 :: p)

/-- The generator polynomial for t errors. -/
def rsGen (t : Nat) : List Nat := (List.range (2 * t)).foldl (fun p i => gfTimesRoot p (gfExp i)) [1]

/-- The check bytes of data: the remainder of data x X^2t by the generator. -/
def rsCheck (t : Nat) (data : List Nat) : List Nat :=
  let g := (rsGen t).drop 1
  data.foldl (fun r d =>
    let k := r.headD 0 ^^^ d
    List.zipWith (fun a b => a ^^^ gfMul k b) (r.drop 1 ++ [0]) g) (List.replicate (2 * t) 0)

/-- The syndromes of a codeword. -/
def rsSyn (t : Nat) (w : List Nat) : List Nat := (List.range (2 * t)).map (fun i => gfEval w (gfExp i))

/-- One elimination step: pivot column c; rows are coefficients followed by the right-hand side. -/
def gfPivot (c : Nat) (rows : List (List Nat)) (done : List (List Nat)) : Option (List (List Nat) × List (List Nat)) :=
  match rows.find? (fun r => r.getD c 0 != 0) with
  | none => none
  | some p =>
    let p := p.map (gfMul (gfInv (p.getD c 0)))
    let red (r : List Nat) : List Nat := List.zipWith (fun a b => a ^^^ gfMul (r.getD c 0) b) r p
    some (((rows.filter (fun r => r.getD c 0 == 0)) ++ ((rows.filter (fun r => r.getD c 0 != 0)).drop 1).map red),
      (done.map red) ++ [p])

/-- The solution of a square system given as augmented rows; none when it is singular. -/
def gfSolve (n : Nat) (rows : List (List Nat)) : Option (List Nat) :=
  ((List.range n).foldl (fun q c => q.bind (fun q => gfPivot c q.1 q.2)) (some (rows, []))).map
    (fun q => q.2.map (fun r => r.getD n 0))

/-- The correction of a codeword of length n with v errors: the error positions (0 is the first byte) and values, when the
syndromes fit exactly v errors. -/
def rsTry (t v : Nat) (w : List Nat) : Option (List Nat) :=
  let s := rsSyn t w
  match gfSolve v ((List.range v).map (fun i => (List.range v).map (fun j => s.getD (i + j) 0) ++ [s.getD (i + v) 0])) with
  | none => none
  | some lam =>
    -- the locator polynomial X^v + lam_(v-1) X^(v-1) + ... + lam_0 vanishes at alpha^(n-1-position)
    let loc := 1 :: lam.reverse
    let pos := (List.range w.length).filter (fun k => gfEval loc (gfExp (w.length - 1 - k)) == 0)
    if pos.length = v then
      match gfSolve v ((List.range v).map (fun i => pos.map (fun k => gfExp ((w.length - 1 - k) * i)) ++ [s.getD i 0])) with
      | none => none
      | some e =>
        let fix := (pos.zip e).foldl (fun (a : List Nat) q => a.set q.1 (a.getD q.1 0 ^^^ q.2)) w
        if (rsSyn t fix).all (· == 0) then some fix else none
    else none

/-- A codeword decoded: its correction and how many symbols were wrong, or none when the errors exceed t. -/
def rsDecode (t : Nat) (w : List Nat) : Option (List Nat × Nat) :=
  if (rsSyn t w).all (· == 0) then some (w, 0)
  else ((List.range t).map (· + 1)).findSome? (fun v => (rsTry t v w).map (fun x => (x, v)))

end Sys2Proof.Machine
end

