-- ==== Sys2Proof/Machine/Store.lean ====
section
/-! DEFINITION. The lines of the record store and their protection: layout, reading, merging, poison, hard lines, spares and
the internal SRAMs (R184 to R187, R196, R197, R201 to R208). -/

namespace Sys2Proof.Machine

open Sys2Proof

/-! ### Layout (R184 to R188, R193) -/

/-- Data bytes, groups per unit and lines of a group, and t, by code class (table Store-1). -/
def Shelf.gb (h : Shelf) : Nat := if h.classL then 1024 else 512
def Shelf.ng (h : Shelf) : Nat := if h.classL then 986895 else 1864135
def Shelf.gl (h : Shelf) : Nat := if h.classL then 17 else 9
def Shelf.t (h : Shelf) : Nat := if h.classL then 2 else 4

/-- The extents of a shelf (R188). -/
def Shelf.exts (h : Shelf) : Nat := h.units * (h.gb * h.ng) / 2 ^ 20

/-- The shelf that holds unit u; the system area and the spare pool are coded S. -/
def State.shelfOfUnit (s : State) (u : Nat) : Shelf :=
  (s.cab.shelves.find? (fun h => h.base ≤ u && u < h.base + h.units)).getD ⟨16, false, u, 1⟩

/-- A line's group: its shelf, its first line, and its own place in it. -/
def State.lineGroup (s : State) (p : Nat) : Shelf × Nat × Nat :=
  let h := s.shelfOfUnit (p / 2 ^ 24)
  let i := p % 2 ^ 24 % h.gl
  (h, p - i, i)

/-- Channel of a line and the number of its 2 KiB row span on the channel (R184, R204). -/
def lineCh (p : Nat) : Nat := p % 16
def lineSpan (p : Nat) : Nat := p / 16 / 32

/-- Line j of spare span k of channel c: the pool is the last 1,048,576 lines of unit 127 (R185, R204). -/
def spareLine (c k j : Nat) : Nat := 16 * (2 ^ 27 - 2 ^ 16 + 32 * k + j) + c

/-- remap(p) (R206). -/
def State.remap (s : State) (p : Nat) : Nat :=
  match s.edc.remap.find? (fun e => e.1 == lineCh p && e.2.1 == lineSpan p) with
  | some e => spareLine (lineCh p) e.2.2 (p / 16 % 32)
  | none => p

/-- Reel n. -/
def State.reel (s : State) (n : Nat) : Option Reel := s.cab.reels.find? (fun r => r.n == n)

/-- An extent belongs to a take. -/
def Take.holds (t : Take) (reel q : Nat) : Bool :=
  t.reel == reel && (match t.startExt with | some a => a ≤ q && q ≤ t.endExt | none => false)

/-! ### The system area (R185) -/

/-- S groups of the system area: unit 126 and the first 15,728,639 lines of unit 127 (R185); and of each of its two copies. -/
def sysGroups : Nat := 1864135 + 15728639 / 9
def sysHalf : Nat := sysGroups / 2

/-- The first line of system group n, and the group that mirrors it. -/
def sysLine (n : Nat) : Nat := if n < 1864135 then 126 * 2 ^ 24 + 9 * n else 127 * 2 ^ 24 + 9 * (n - 1864135)
def sysMirror (n : Nat) : Nat := if n < sysHalf then n + sysHalf else n - sysHalf

/-- The system group of line p and the line's place in it; none outside the system area. -/
def sysPlace (p : Nat) : Option (Nat × Nat) :=
  if p < 126 * 2 ^ 24 then none
  else if p < 126 * 2 ^ 24 + 9 * 1864135 then some ((p - 126 * 2 ^ 24) / 9, (p - 126 * 2 ^ 24) % 9)
  else if p < 127 * 2 ^ 24 then none
  else if p < 127 * 2 ^ 24 + 9 * (15728639 / 9) then some (1864135 + (p - 127 * 2 ^ 24) / 9, (p - 127 * 2 ^ 24) % 9)
  else none

/-- The take directory entry of table Store-3 as 64 bytes. -/
def State.dirEntry (s : State) (t : Take) : List Nat :=
  let ex := match s.reel t.reel with | some r => r.exts | none => 1
  let n := match s.reel t.reel with
    | some r => (r.live.filter (fun x => t.holds r.n x.seq)).foldl (fun a x => a + x.len) 0
    | none => 0
  let b := bytesLE 4 t.num ++ [t.reel, t.st] ++ bytesLE 2 t.flags ++ bytesLE 4 (t.startExt.getD 0 % ex) ++ bytesLE 4 (t.endExt % ex)
    ++ bytesLE 8 (t.startTick % 2 ^ 48) ++ bytesLE 8 (t.stopTick % 2 ^ 48) ++ bytesLE 8 n ++ bytesLE 4 t.epoch
    ++ bytesLE 4 t.poison ++ bytesLE 4 t.trigId ++ List.replicate 8 0
  b ++ bytesLE 4 (crc32c b)

/-- Where the tables of a copy begin, in lines: the take directory, the poison list and the extent table. The spec gives the tables
no places and, the directory apart, no layout (DESIGN CHOICE, log entry 82). -/
def sysTakes : Nat := 1024
def sysPoison : Nat := 524288
def sysExts : Nat := 1048576

/-- Line m of a copy of the system area, from the tables it holds: shelves, reels, the last take number, the take directory, the poison list
and the extents. -/
def State.sysData (s : State) (m : Nat) : List Nat :=
  let row (b : List Nat) : List Nat := b ++ List.replicate (64 - b.length) 0
  if m < 16 then
    row ((s.cab.shelves.find? (fun h => h.n == m)).elim [] (fun h => [1, h.n, b2n h.classL, h.base, h.units]))
  else if m < 80 then
    row ((s.reel (m - 16)).elim [] (fun r => [1, r.n, r.shelf, b2n r.ring, r.policy, 0, 0, 0] ++ bytesLE 4 r.base ++ bytesLE 4 r.exts ++
      bytesLE 4 r.alloc))
  else if m = 80 then row (bytesLE 4 s.cab.lastTake)
  else if m < sysTakes then row []
  else if m < sysPoison then row ((s.cab.takes[m - sysTakes]?).elim [] s.dirEntry)
  else if m < sysExts then
    row ((s.cab.poison[m - sysPoison]?).elim [] (fun e => bytesLE 4 e.1 ++ bytesLE 8 e.2 ++ bytesLE 4 64))
  else
    row (((s.cab.reels.flatMap (fun r => r.live.map (fun x => (r, x))))[m - sysExts]?).elim [] (fun e =>
      [1, e.1.n, e.2.prod, b2n e.2.open_] ++ bytesLE 4 e.2.seq ++ bytesLE 4 e.2.groups ++ bytesLE 4 e.2.len))

/-- The 64 bytes line p of the system area is to hold, its check line included; nothing elsewhere. -/
def State.sysBytes (s : State) (p : Nat) : List Nat :=
  match sysPlace p with
  | none => []
  | some (n, i) =>
    if 2 * sysHalf ≤ n then []
    else
      let m := 8 * (n % sysHalf)
      if i < 8 then s.sysData (m + i) else (List.range 8).flatMap (fun j => rsCheck 4 (s.sysData (m + j)))

/-! ### Bytes of the store -/

/-- The device lines that hold line p: where remap puts it and, while its span is being copied to a spare and the line has been, its place
there too (R204). -/
def State.homes (s : State) (p : Nat) : List Nat :=
  s.remap p :: (s.edc.moves.filter (fun m => m.ch == lineCh p && m.span == lineSpan p && !m.left.contains (p / 16 % 32))).map
    (fun m => spareLine m.ch m.spare (p / 16 % 32))

/-- The 64 bytes of line p as the device holds them; a byte never written reads 0 (DESIGN CHOICE, log entry 13: unsafe). Of the system
area the store keeps how its lines differ from what they are to hold (DESIGN CHOICE, log entry 82). -/
def State.lineRaw (s : State) (p : Nat) : List Nat :=
  let d := s.sysBytes p
  let a := 64 * s.remap p
  (List.range 64).map (fun b => spGet s.cab.mem (a + b) 0 ^^^ d.getD b 0)

/-- Byte a of the devices set. -/
def State.setByte (s : State) (a v : Nat) : State := { s with cab := { s.cab with mem := spSet s.cab.mem a (v % 256) 0 } }

/-- Bytes l of line p put at byte b of device line q on. -/
def State.putLine (s : State) (q p b : Nat) (l : List Nat) : State :=
  let d := s.sysBytes p
  s.each ((List.range l.length).zip l) (fun e s => s.setByte (64 * q + b + e.1) (e.2 % 256 ^^^ d.getD (b + e.1) 0))

/-- Bytes l put at byte b of line p on, wherever it is held. -/
def State.setMem (s : State) (p b : Nat) (l : List Nat) : State := s.each (s.homes p) (fun q s => s.putLine q p b l)

/-- Bytes of the store changed under the reader: device address in bytes and an exclusive-or value. -/
def State.flip (s : State) (errs : List (Nat × Nat)) : State :=
  s.each errs (fun e s => { s with cab := { s.cab with mem := spSet s.cab.mem e.1 ((spGet s.cab.mem e.1 0 ^^^ e.2) % 256) 0 } })

/-- The check bytes of place i of a group (R187). -/
def State.checkRaw (s : State) (h : Shelf) (g0 i : Nat) : List Nat :=
  ((s.lineRaw (g0 + h.gl - 1)).drop (2 * h.t * i)).take (2 * h.t)

/-- A poison write of line p waits. -/
def State.poisonDue (s : State) (p : Nat) : Bool := (s.cab.merge ++ s.cab.wait).any (· == .poison p)

/-- Data line i of a group written with its check bytes. -/
def State.writeLine (s : State) (h : Shelf) (g0 i : Nat) (data : List Nat) : State :=
  (s.setMem (g0 + i) 0 data).setMem (g0 + h.gl - 1) (2 * h.t * i) (rsCheck h.t data)

/-- A data line read: the poison pattern is tested before correction (R186, R201); a line whose poison write waits reads as poisoned. -/
def State.readLine (s : State) (h : Shelf) (g0 i : Nat) : LineRes :=
  let d := s.lineRaw (g0 + i)
  let c := s.checkRaw h g0 i
  if s.poisonDue (g0 + i) || (d.all (· == 0) && c.countP (· != 0x5A) ≤ (if h.classL then 1 else 2)) then .poisoned
  else match rsDecode h.t (d ++ c) with
    | none => .bad
    | some (_, 0) => .good d
    | some (w, n) => .fixed (w.take 64) n

/-! ### Error log and tracking (R203, table Store-14) -/

/-- An entry written to the error log; the log wraps. -/
def State.edcLog (s : State) (e : EdcLog) : State :=
  let n := s.rd .edc_LOG_HEAD
  { s with edc := { s.edc with log := s.edc.log.set (n % 256) { e with time := s.tbNow } (Nat.mod_lt _ (by decide)) } }.wr
    .edc_LOG_HEAD 0 (n + 1)

/-- A correction at an address counted within a period: the list, the corrections in the period, whether it is the third since the
address was last declared hard, and whether an entry was replaced (R203). -/
def trackUp (l : List Track) (addr now period cap : Nat) : List Track × Nat × Bool × Bool :=
  match l.find? (fun t => t.addr == addr) with
  | some t =>
    let ts := (now :: t.times).filter (fun x => now ≤ x + period)
    let k := min (t.since + 1) ts.length
    (⟨addr, ts, if k = 3 then 0 else k⟩ :: l.filter (fun x => x.addr != addr), ts.length, k == 3, false)
  | none =>
    let new : Track := ⟨addr, [now], 1⟩
    if l.length < cap then (new :: l, 1, false, false)
    else
      let age (x : Track) : Nat := x.times.headD 0
      let old := l.foldl (fun m x => min m (age x)) now
      (new :: (match l.find? (fun x => age x == old) with
        | some x => l.erase x
        | none => l.dropLast), 1, false, true)

/-- SCRUB_PERIOD in fu. -/
def State.scrubFu (s : State) : Nat := s.rd .cab_SCRUB_PERIOD * 60 * secFu

/-- Spans of a channel in use, being filled or retired. -/
def State.spansUsed (s : State) (c : Nat) : List Nat :=
  (s.edc.remap.filter (fun e => e.1 == c)).map (·.2.2) ++ (s.edc.retired.filter (fun e => e.1 == c)).map (·.2) ++
    (s.edc.moves.filter (fun m => m.ch == c)).map (·.spare)

/-- SPARE_FREE, SPANS_MAPPED and POOL_LOW brought up to date; with the channel's last span gone POOL_EXH and its fault (R204). -/
def State.poolRegs (s : State) (c : Nat) : State :=
  let n := 2048 - (s.spansUsed c).length
  let last := n == 0 && s.rd .edc_SPARE_FREE c != 0
  let s := (s.wr .edc_SPARE_FREE c n).wr .edc_SPANS_MAPPED 0 s.edc.remap.length
  let s := s.wrB .edc_POOL_LOW 0 ((List.range 16).any (fun c => 2048 - (s.spansUsed c).length < 64))
  s.when last (fun s => (s.wrB .edc_POOL_EXH 0 true).detect clsMemory 2 unitModule)

/-! ### The merge buffer's entries (R196) -/

/-- The line an operation is on. -/
def MergeOp.line : MergeOp → Nat
  | .patch _ p _ _ => p
  | .head p _ => p
  | .back p => p
  | .poison p => p
  | .copy p _ => p
  | .home p => p

/-- The line entries of lines ps: each line and its group's check line, shared where it is the same. -/
def State.entriesOf (s : State) (ps : List Nat) : Nat :=
  (ps.flatMap (fun p => let (h, g0, _) := s.lineGroup p; [p, g0 + h.gl - 1])).eraseDups.length

/-- The line entries in use. -/
def State.mergeUsed (s : State) : Nat := s.entriesOf (s.cab.merge.map (·.line))

/-- An entry is free, and nothing waits for it. -/
def State.mergeRoom (s : State) : Bool := s.cab.wait.isEmpty && s.mergeUsed < 64

/-- The entries an operation on line p needs are free. -/
def State.mergeFits (s : State) (p : Nat) : Bool := s.entriesOf (p :: s.cab.merge.map (·.line)) ≤ 64

/-- The buffer takes an operation on line p at once. -/
def State.mergeTakes (s : State) (p : Nat) : Bool := s.cab.wait.isEmpty && s.mergeFits p

/-- An operation accepted behind those before it, or put behind those that wait. -/
def State.mergePush (s : State) (o : MergeOp) : State :=
  if s.mergeTakes o.line then { s with cab := { s.cab with merge := s.cab.merge ++ [o] } }
  else { s with cab := { s.cab with wait := s.cab.wait ++ [o] } }

/-- Operations that wait are accepted in order while there is room: fuel n. -/
def State.mergeFeed (s : State) : Nat → State
  | 0 => s
  | n + 1 => match s.cab.wait with
    | [] => s
    | o :: l =>
      if s.mergeFits o.line then
        State.mergeFeed { s with cab := { s.cab with merge := s.cab.merge ++ [o], wait := l } } n
      else s

/-- A read's write-back without room is skipped and counted. -/
def State.mergeBack (s : State) (p : Nat) : State :=
  if s.mergeTakes p then s.mergePush (.back p) else s.bump .edc_WB_SKIP 0

/-- A patch lost (R197). -/
def State.patchLost (s : State) (p : Nat) : State := (s.bump .edc_PATCH_LOST 0).emit 0x0B02 p

/-! ### Hard lines (R203, R204) -/

/-- The row span of a hard line is to be copied to a free spare span, line by line through the merge buffer; with none left the line stays
in place (R204). -/
def State.spareSpan (s : State) (p : Nat) : State :=
  let c := lineCh p
  let used := s.spansUsed c
  if s.edc.moves.any (fun m => m.ch == c && m.span == lineSpan p) then s
  else match (List.range 2048).find? (fun k => !used.contains k) with
    | none => s
    | some k =>
      let m : Move := ⟨c, lineSpan p, k, p, List.range 32⟩
      let s := { s with edc := { s.edc with moves := s.edc.moves ++ [m] } }.poolRegs c
      s.each (List.range 32) (fun j s => s.mergePush (.copy (16 * (32 * lineSpan p + j) + c) k))

/-- A corrected line: counted, logged, tracked; the third correction within SCRUB_PERIOD makes it hard (R203, R204). -/
def State.lineFixed (s : State) (p n src : Nat) : State :=
  let (l, k, hard, ovf) := trackUp s.edc.track p s.clock s.scrubFu 1024
  let s := { s with edc := { s.edc with track := l } }.bump .edc_STORE_CORR 0
  let s := if ovf then s.wrB .edc_TRACK_OVF 0 true else s
  let s := s.edcLog { line := p, syms := n, src := src, hard := hard, count := min 255 k }
  if hard then (s.bump .edc_HARD_LINES 0).spareSpan p else s

/-- The span of a move has been copied: its mapping enters the remap table, a spare that failed is retired, the repair is logged and
reported (R204). -/
def State.moveDone (s : State) (m : Move) : State :=
  let old := s.edc.remap.find? (fun e => e.1 == m.ch && e.2.1 == m.span)
  let e := { s.edc with
    moves := s.edc.moves.filter (fun x => x != m),
    remap := (m.ch, m.span, m.spare) :: s.edc.remap.filter (fun e => !(e.1 == m.ch && e.2.1 == m.span)),
    retired := (match old with | some o => [(m.ch, o.2.2)] | none => []) ++ s.edc.retired }
  ({ s with edc := e }.poolRegs m.ch).detect clsMemory 1 unitModule (some (0x0C02, m.hard + m.spare <<< 32))

/-- A correction that a read other than the scrubber's meets: counted, logged and written back (R203). -/
def State.corrected (s : State) (p n src : Nat) : State := (s.lineFixed p n src).mergeBack p

/-- The bytes a check line is to hold: the check bytes of every line of the group that can be corrected, the others as they are; the lines
corrected on the way are counted and written back. -/
def State.checkFixed (s : State) (h : Shelf) (g0 : Nat) : State × List Nat :=
  (List.range (h.gl - 1)).foldl (fun a i => match s.readLine h g0 i with
    | .fixed d n => (a.1.corrected (g0 + i) n 3, a.2 ++ rsCheck h.t d)
    | _ => (a.1, a.2 ++ s.checkRaw h g0 i)) (s, [])

/-- Line p written at its place in spare span k, corrected; the move ends with its last line. -/
def State.copyTo (s : State) (p k : Nat) (d : List Nat) : State :=
  let j := p / 16 % 32
  let s := s.putLine (spareLine (lineCh p) k j) p 0 d
  match s.edc.moves.find? (fun m => m.ch == lineCh p && m.span == lineSpan p) with
  | none => s
  | some m =>
    let m' := { m with left := m.left.erase j }
    let s := { s with edc := { s.edc with moves := s.edc.moves.map (fun x => if x == m then m' else x) } }
    if m'.left.isEmpty then s.moveDone m' else s

/-! ### Poison (R197, R201, R202) -/

/-- The write of the poison pattern over a line (R201). -/
def State.poisonLine (s : State) (p : Nat) : State :=
  let (h, g0, i) := s.lineGroup p
  (s.setMem p 0 (List.replicate 64 0)).setMem (g0 + h.gl - 1) (2 * h.t * i) (List.replicate (2 * h.t) 0x5A)

/-- The shelf data byte of a line: its extent of the shelf and the byte in it. -/
def State.lineExtent (s : State) (p : Nat) : Shelf × Nat × Nat :=
  let (h, g0, i) := s.lineGroup p
  let g := (p / 2 ^ 24 - h.base) * h.ng + (g0 % 2 ^ 24) / h.gl
  let d := g * h.gb + 64 * i
  (h, d / 2 ^ 20, d % 2 ^ 20)

/-- The live extent of a reel that lies at extent e of the reel's shelf. -/
def State.extAt (s : State) (h : Shelf) (e : Nat) : Option (Reel × Ext) :=
  s.cab.reels.findSome? (fun r =>
    if r.shelf == h.n && r.base ≤ e && e < r.base + r.exts then
      (r.live.find? (fun x => x.seq % r.exts == e - r.base)).map (fun x => (r, x))
    else none)

/-- A poison write of line p waits behind what the merge buffer holds; every pending operation on the line is discarded, its patches
counted as lost (R197). The repair copy of the line then follows it. -/
def State.poisonNow (s : State) (p : Nat) : State :=
  let all := s.cab.merge ++ s.cab.wait
  let lost := all.countP (fun o : MergeOp => o.line == p && (match o with | .patch .. => true | _ => false))
  let copies := all.filter (fun o : MergeOp => o.line == p && (match o with | .copy .. => true | .home _ => true | _ => false))
  let s := { s with cab := { s.cab with merge := s.cab.merge.filter (fun o : MergeOp => o.line != p),
                                        wait := s.cab.wait.filter (fun o : MergeOp => o.line != p) } }
  let s := (s.mergePush (.poison p)).each copies (fun o s => s.mergePush o)
  (List.range lost).foldl (fun s _ => s.patchLost p) s

/-- The poison list, POISON_LINES and DAMAGED of a take that byte b of the extent of ordinal q lies in (R202). -/
def State.takeBad (s : State) (t : Take) (q b : Nat) : State :=
  let t' : Take := { t with poison := t.poison + 1, flags := t.flags ||| 4 }
  let off := (q - t.startExt.getD 0) * 1048512 + (b - 64)
  { s with cab := { s.cab with poison := s.cab.poison ++ [(t.num, off)],
                               takes := s.cab.takes.map (fun y : Take => if y.num == t.num then t' else y) } }

/-- A line found uncorrectable is poisoned: counted, reported, and entered in the poison list of every take it lies in; the record names
the first of them (R201, R202). -/
def State.lineBad (s : State) (p src : Nat) : State :=
  let (h, e, b) := s.lineExtent p
  let s := ((s.poisonNow p).bump .edc_STORE_UNCORR 0).bump .edc_POISONED 0
  let s := s.edcLog { line := p, syms := 0, src := src, poison := true }
  let s := { s with cab := { s.cab with badAt := (p, s.tbNow) :: s.cab.badAt.filter (fun x => x.1 != p) } }
  let ts := match s.extAt h e with
    | none => []
    | some (r, x) => (s.cab.takes.filter (fun t : Take => t.holds r.n x.seq)).map (fun t => (t, x.seq))
  let s := s.each ts (fun q s => s.takeBad q.1 q.2 b)
  s.detect clsMemory 1 unitModule (some (0x0C01, p + ts.head?.elim 0 (fun q => 1 <<< 31 + q.1.num <<< 32)))

/-- A line's bytes with l put at b. -/
def putBytes (d : List Nat) (b : Nat) (l : List Nat) : List Nat := d.take b ++ l ++ d.drop (b + l.length)

/-! ### Operations of the merge buffer (R196, R197, R202) -/

/-- A line of the system area that cannot be corrected is rewritten from the other copy or, with that lost too, from what the tables now
hold (R202). -/
def State.sysRewrite (s : State) (n i : Nat) : State :=
  let h : Shelf := ⟨16, false, 126, 2⟩
  let g := sysLine (sysMirror n)
  match s.readLine h g i with
  | .good d => s.writeLine h (sysLine n) i d
  | .fixed d k => (s.corrected (g + i) k 1).writeLine h (sysLine n) i d
  | _ => s.writeLine h (sysLine n) i (s.sysData (8 * (n % sysHalf) + i))

/-- The copy of line p to spare span k is made (R204): corrected, or poisoned first where it cannot be. -/
def State.copyRun (s : State) (p k : Nat) : State :=
  let (h, g0, i) := s.lineGroup p
  if h.ng * h.gl ≤ p % 2 ^ 24 then s.copyTo p k (s.lineRaw p)
  else if i + 1 = h.gl then (s.checkFixed h g0).1.copyTo p k (s.checkFixed h g0).2
  else match s.readLine h g0 i with
    | .good d => s.copyTo p k d
    | .fixed d n => (s.lineFixed p n 3).copyTo p k d
    | .poisoned => s.copyTo p k (List.replicate 64 0)
    | .bad => (s.lineBad p 3).mergePush (.copy p k)

/-- The copy of line p of a repaired span back from its spare to its own place is made (R205): corrected, or poisoned first where it cannot
be. -/
def State.homeRun (s : State) (p : Nat) : State :=
  let (h, g0, i) := s.lineGroup p
  if h.ng * h.gl ≤ p % 2 ^ 24 then s.putLine p p 0 (s.lineRaw p)
  else if i + 1 = h.gl then (s.checkFixed h g0).1.putLine p p 0 (s.checkFixed h g0).2
  else match s.readLine h g0 i with
    | .good d => s.putLine p p 0 d
    | .fixed d n => (s.lineFixed p n 3).putLine p p 0 d
    | .poisoned => s.putLine p p 0 (List.replicate 64 0)
    | .bad => (s.lineBad p 3).mergePush (.home p)

/-- An extent header is written anew over line p. -/
def State.headRun (s : State) (p : Nat) (l : List Nat) : State :=
  let (h, g0, i) := s.lineGroup p
  match s.readLine h g0 i with
  | .good _ => s.writeLine h g0 i l
  | .fixed _ n => (s.lineFixed p n 2).writeLine h g0 i l
  | .poisoned => s
  | .bad => s.lineBad p 2

/-- A write-back of line p is made. -/
def State.backRun (s : State) (p : Nat) : State :=
  let (h, g0, i) := s.lineGroup p
  match s.readLine h g0 i with
  | .fixed d _ => s.writeLine h g0 i d
  | .good d => s.writeLine h g0 i d
  | .poisoned => s
  | .bad => match sysPlace p with
    | some (n, i) => s.sysRewrite n i
    | none => s.lineBad p 1

/-- One operation of the merge buffer carried out (R196, R197). -/
def State.mergeRun (s : State) (o : MergeOp) : State :=
  match o with
  | .poison p => s.poisonLine p
  | .copy p k => s.copyRun p k
  | .home p => s.homeRun p
  | .head p l => s.headRun p l
  | .back p => s.backRun p
  | .patch _ p off l =>
    let (h, g0, i) := s.lineGroup p
    match s.readLine h g0 i with
    | .good d => s.writeLine h g0 i (putBytes d off l)
    | .fixed d n => (s.lineFixed p n 2).writeLine h g0 i (putBytes d off l)
    | .poisoned => s.patchLost p
    | .bad => (s.patchLost p).lineBad p 2

/-- MERGE_OP_DONE: the oldest operation of the merge buffer completes, and those that wait come in. -/
def State.mergeDone (s : State) : State :=
  match s.cab.merge with
  | [] => s.mergeFeed s.cab.wait.length
  | o :: l =>
    let s := ({ s with cab := { s.cab with merge := l } }).mergeRun o
    s.mergeFeed s.cab.wait.length

/-- Operations completed one after another until none is left: fuel n. -/
def State.mergeDrain (s : State) : Nat → State
  | 0 => s
  | n + 1 => if s.cab.merge.isEmpty && s.cab.wait.isEmpty then s else State.mergeDrain s.mergeDone n

/-- A line read for delivery: its bytes when it can be delivered, with the work a correction or a poisoning starts. -/
def State.fetchLine (s : State) (p src : Nat) : State × Option (List Nat) :=
  let (h, g0, i) := s.lineGroup p
  match s.readLine h g0 i with
  | .good d => (s, some d)
  | .fixed d n => (s.corrected p n src, some d)
  | .poisoned => (s, none)
  | .bad => (s.lineBad p src, none)

/-! ### Internal SRAMs (R207, table Store-6) -/

/-- Spare rows a macro has. -/
def sramSpares : SramMac → Nat
  | .bank _ => 8
  | .fabric => 8
  | .reorder _ => 4
  | _ => 2

/-- The number a macro has in logs and records: its kind and region. -/
def sramCode : SramMac → Nat
  | .bank r => r
  | .fabric => 0x10
  | .reorder r => 0x20 + r
  | .assembler => 0x30
  | .merge => 0x31
  | .remapTable => 0x40
  | .caches => 0x41
  | .tdc r => 0x50 + r
  | .mask r => 0x60 + r

/-- The spare rows of a macro that the fuse map and the soft-repair map have left. -/
def State.rowsLeft (s : State) (m : SramMac) : Nat :=
  sramSpares m - spGet s.flash.fuse (sramCode m) 0 - spGet s.edc.rows (sramCode m) 0

/-- A hard word: its row waits for a spare at the next boundary, or the macro has none left (R207). -/
def State.sramHard (s : State) (h : SramHit) : State :=
  let m := sramCode h.mac
  if 0 < s.rowsLeft h.mac then
    { s with edc := { s.edc with rows := spSet s.edc.rows m (spGet s.edc.rows m 0 + 1) 0,
                                 rowPend := s.edc.rowPend ++ [m + 65536 * h.row.toNat] } }
  else match h.mac with
    | .fabric =>
      if 32768 ≤ h.row.toNat then (s.wrB .edc_SRAM_SPARE_EXH 0 true).detect clsMemory 2 unitModule else
      let b : Fin 4 := ⟨h.row.toNat / 1536 % 4, Nat.mod_lt _ (by decide)⟩
      { s with que := { s.que with laneOut := s.que.laneOut.set b (setBit s.que.laneOut[b] (h.word.toNat % 8) true) } }
    | _ => (s.wrB .edc_SRAM_SPARE_EXH 0 true).detect clsMemory 2 unitModule

/-- A corrected word of an internal SRAM: counted, logged, tracked within SRAM_WIN. -/
def State.sramFixed (s : State) (h : SramHit) : State :=
  let addr := sramCode h.mac * 2 ^ 24 + h.row.toNat * 2 ^ 8 + h.word.toNat
  let (l, k, hard, _) := trackUp s.edc.sram addr s.clock (s.rd .edc_SRAM_WIN * 100 * msFu) 1024
  let s := { s with edc := { s.edc with sram := l } }.bump .edc_SRAM_CORR 0
  let s := s.edcLog { line := addr % 2 ^ 31, sram := true, syms := 1, hard := hard, count := min 255 k }
  if hard then s.sramHard h else s

/-- Spare rows put in place at a boundary, each reported (R207). -/
def State.sramBoundary (s : State) : State :=
  let l := s.edc.rowPend
  let s := ({ s with edc := { s.edc with rowPend := [] } }).each l (fun x s => s.emit 0x0C04 x)
  if l.isEmpty then s
  else { s with flash := { s.flash with sram := s.edc.rows } }.bump .edc_SRAM_ROWS_SPARED 0 l.length

end Sys2Proof.Machine
end

