-- ==== Sys2Proof/Machine/Cab.lean ====
section
/-! DEFINITION. CAB: shelves, reels, extents, takes, the group assembler, the cabinet's commands and the scrubber (R188 to
R195, R198, R201, R202, R205, R209). -/

namespace Sys2Proof.Machine

open Sys2Proof

/-- CAB's own record changed. -/
def State.cabUpd (s : State) (f : Cab → Cab) : State := { s with cab := f s.cab }

/-- Reel x put in the place of the reel of its number. -/
def State.setReel (s : State) (x : Reel) : State :=
  s.cabUpd (fun c => { c with reels := c.reels.map (fun r => if r.n == x.n then x else r) })

/-- Take n, and a take put in the place of the entry of its number. -/
def State.take (s : State) (n : Nat) : Option Take := s.cab.takes.find? (fun t => t.num == n)
def State.setTake (s : State) (x : Take) : State :=
  s.cabUpd (fun c => { c with takes := c.takes.map (fun t => if t.num == x.num then x else t) })

/-- The shelf of a reel. -/
def State.reelShelf (s : State) (r : Reel) : Shelf := (s.cab.shelves.find? (fun h => h.n == r.shelf)).getD ⟨0, false, 0, 126⟩

/-- The data line that holds byte y of the extent of ordinal q (R193): its shelf, line and byte in the line. -/
def State.extLine (s : State) (r : Reel) (q y : Nat) : Shelf × Nat × Nat :=
  let h := s.reelShelf r
  let d := (r.base + q % r.exts) * 2 ^ 20 + y
  let g := d / h.gb
  (h, (h.base + g / h.ng) * 2 ^ 24 + (g % h.ng) * h.gl + d % h.gb / 64, d % 64)

/-! ### Extents (R189, R191, R194) -/

/-- A directory state that protects extents: OPEN or CLOSED. -/
def Take.keeps (t : Take) : Bool := t.st == 1 || t.st == 2

/-- Packets whose places in the reel ETH keeps: to be delivered from there, or delivered and unacknowledged (R276, R280). -/
def State.ethKeeps (s : State) : List PktId := s.eth.qp.toList.flatMap (fun q : Qp => q.behind ++ q.ents.filterMap (·.pid))

/-- The extent of ordinal q of reel n is protected: by a take, or by a delivery position at or before it (R194). -/
def State.takeProt (s : State) (n q : Nat) : Bool := s.cab.takes.any (fun t => t.keeps && t.holds n q)
def State.posProt (s : State) (n q : Nat) : Bool :=
  s.cab.pos.any (fun p => p.reel == n && p.ext ≤ q) ||
    (s.que.heldUp ++ s.ethKeeps).any (fun i => s.cab.pkts.any (fun p => p.pid == i && p.reel == n && p.ext ≤ q))

/-- The take a packet of the given tick belongs to on reel n, taken by command; 0 for none (R192). -/
def State.takeFor (s : State) (n tick : Nat) : Nat :=
  ((s.cab.takes.find? (fun t => t.reel == n && t.flags % 2 == 0 && t.startTick ≤ tick && (t.st == 1 || tick < t.stopTick) &&
    t.st != 3)).map (·.num)).getD 0

/-- The open extent of a producer in a reel. -/
def Reel.openOf (r : Reel) (prod : Nat) : Option Ext := r.live.find? (fun x => x.prod == prod && x.open_)

/-- Extent x put in the place of the extent of its ordinal. -/
def Reel.setExt (r : Reel) (x : Ext) : Reel := { r with live := r.live.map (fun y => if y.seq == x.seq then x else y) }

/-- The recordable bytes of an extent (R191). -/
def extBytes : Nat := 1048512

/-- The oldest kept extent of a ring leaves it: its packets and words are gone and a RELEASED take on it is deleted. -/
def State.dropExt (s : State) (r : Reel) (q : Nat) : State :=
  let here (p : PktRef) : Bool := p.reel == r.n && p.ext == q
  let gone (w : RingW) : Bool := w.pid.any (fun i => s.cab.pkts.any (fun p => here p && p.pid == i))
  let s : State := { s with evb := { s.evb with r := s.evb.r.map (fun e => { e with ring := e.ring.filter (fun w : RingW => !gone w) }) } }
  let s := s.setReel { r with live := r.live.filter (fun x => x.seq != q) }
  s.cabUpd (fun c => { c with
    pkts := c.pkts.filter (fun p : PktRef => !here p),
    slots := c.slots.filter (fun x : Slot => !(x.reel == r.n && x.ext == q)),
    takes := c.takes.filter (fun t : Take => !(t.st == 3 && t.holds r.n q)) })

/-- Reel r is full (R189, R194): no extent of a linear reel is left; the next extent of a ring is protected. -/
def State.reelEnd (s : State) (r : Reel) : Bool :=
  r.exts ≤ r.alloc && (!r.ring || s.takeProt r.n (r.alloc - r.exts) || s.posProt r.n (r.alloc - r.exts))

/-- FULL follows reel n; a reel that becomes full is reported once (R194). -/
def State.reelFull (s : State) (n : Nat) : State :=
  match s.reel n with
  | none => s
  | some r =>
    let f := s.reelEnd r
    if f == r.full then s
    else
      let s := s.setReel { r with full := f, ended := r.ended || (f && r.policy == 1) }
      if f then s.emit 0x0B01 (r.n + r.policy <<< 8) else s

/-- Whether the next extent of reel r can be handed out: some of a state in which it is free. -/
def State.freeNext (s : State) (r : Reel) : Option State :=
  if r.alloc < r.exts then some s
  else if !r.ring then none
  else
    let q := r.alloc - r.exts
    if s.takeProt r.n q then none
    else if s.posProt r.n q then
      if r.policy == 2 then
        some ((s.cabUpd (fun c => { c with pos := c.pos.map (fun p : DelPos => if p.reel == r.n && p.ext ≤ q then { p with ext := q + 1 } else p) })).dropExt
          r q)
      else none
    else some (s.dropExt r q)

/-- An extent handed out to a producer (R189, R191, table Store-2): a take by command that starts here begins with it. -/
def State.allocExt (s : State) (n prod tk : Nat) : Option State :=
  match s.reel n with
  | none => none
  | some r =>
    match s.freeNext r with
    | none => none
    | some s =>
      match s.reel n with
      | none => none
      | some r =>
        let prev := ((r.live.filter (fun x => x.prod == prod)).getLast?).map (·.seq)
        let tkOpen := ((s.cab.takes.find? (fun t => t.reel == n && t.st == 1)).map (·.num)).getD 0
        let x : Ext := { seq := r.alloc, prod := prod, take := tk, head := tkOpen, prev := prev, epoch := s.rd .seq_CFG_EPOCH }
        let s := s.setReel { r with alloc := r.alloc + 1, live := r.live ++ [x] }
        let s := s.cabUpd (fun c => { c with takes := c.takes.map (fun t : Take =>
          if t.num == tk && tk != 0 then { t with startExt := some (t.startExt.getD r.alloc), endExt := r.alloc }
          else if t.reel == n && t.st == 1 && t.flags % 2 == 1 then { t with endExt := r.alloc } else t) })
        some (s.reelFull n)

/-- The extent header of table Store-2 as a line. -/
def extHeader (n : Nat) (exts : Nat) (x : Ext) : List Nat :=
  let b := bytesLE 2 0x5E71 ++ [x.prod, n] ++ bytesLE 4 x.head ++ bytesLE 4 x.seq
    ++ bytesLE 4 ((x.prev.map (· % exts)).getD 0xFFFFFFFF) ++ bytesLE 8 ((x.firstTick.getD 0) % 2 ^ 48) ++ bytesLE 4 x.cont
    ++ bytesLE 4 x.epoch ++ List.replicate 28 0
  b ++ bytesLE 4 (crc32c b)

/-- The slot of the assembler that serves a pair. -/
def State.slotOf (s : State) (prod n : Nat) : Option Slot := s.cab.slots.find? (fun x => x.prod == prod && x.reel == n)

/-- A slot's group is complete: it waits for its write. -/
def State.slotFull (s : State) (x : Slot) : Bool :=
  match s.reel x.reel with
  | some r => (s.reelShelf r).gb ≤ x.data.length
  | none => false

/-- Slot x put in the place of its pair's slot. -/
def State.setSlot (s : State) (x : Slot) : State :=
  s.cabUpd (fun c => { c with slots := c.slots.filter (fun y : Slot => !(y.prod == x.prod && y.reel == x.reel)) ++ [x] })

/-- A producer's open extent closes: its last group is padded with zeros and waits to be written (R191). -/
def State.closeExt (s : State) (n prod : Nat) : State :=
  match s.reel n with
  | none => s
  | some r =>
    match r.openOf prod with
    | none => s
    | some x =>
      let s := s.setReel (r.setExt { x with open_ := false })
      match s.slotOf prod n with
      | none => s
      | some w => s.setSlot { w with data := w.data ++ List.replicate ((s.reelShelf r).gb - w.data.length) 0 }

/-- The slot a producer writes into: present, or begun for the next group of its open extent. -/
def State.slotFor (s : State) (r : Reel) (x : Ext) : Slot :=
  (s.slotOf x.prod r.n).getD
    { prod := x.prod, reel := r.n, ext := x.seq, grp := (64 + x.len) / (s.reelShelf r).gb,
      data := if x.len = 0 then List.replicate 64 0 else [] }

/-- An open extent with room for a packet of the given take: kept, or the next one handed out. -/
def State.readyExt (s : State) (n prod tk : Nat) (start : Bool) : Option State :=
  match s.reel n with
  | none => none
  | some r =>
    match r.openOf prod with
    | some x =>
      if start && x.take != tk then
        let s := s.closeExt n prod
        if (s.slotOf prod n).isSome then some s else s.allocExt n prod tk
      else some s
    | none => if (s.slotOf prod n).isSome then some s else s.allocExt n prod tk

/-- The header line of extent q of reel n, brought up to date through the merge buffer once its group is written: a packet that
starts or goes on in a later group changes FIRST_TICK or CONT (table Store-2, R196). -/
def State.refreshHeader (s : State) (n q : Nat) : State :=
  match s.reel n with
  | none => s
  | some r =>
    match r.live.find? (fun x => x.seq == q) with
    | some x =>
      if 1 ≤ x.groups then
        s.mergePush (.head (s.extLine r q 0).2.1 (extHeader n r.exts x))
      else s
    | none => s

/-- Bytes of a packet written on from a producer to a reel, at most to the end of the present group (R191, R195): the state,
and how many were taken; none when the reel has no extent for them. start says that the packet begins with them, here that
it began in the open extent. -/
def State.cabPut (s : State) (n prod : Nat) (pid : PktId) (start : Bool) (bytes : List Nat) : Option (State × Nat) :=
  match s.readyExt n prod (s.takeFor n pid.tick) start with
  | none => none
  | some s =>
    match s.reel n with
    | none => none
    | some r =>
      match r.openOf prod with
      | none => some (s, 0)
      | some x =>
        let w := s.slotFor r x
        if (s.reelShelf r).gb ≤ w.data.length then some (s, 0)
        else
          let k := min bytes.length ((s.reelShelf r).gb - w.data.length)
          let here := s.cab.pkts.any (fun p => p.pid == pid && p.prod == prod && p.reel == n && p.ext == x.seq)
          let x' : Ext := { x with len := x.len + k, firstTick := if start && x.firstTick.isNone then some pid.tick else x.firstTick,
                                   cont := if start || here then x.cont else x.cont + k,
                                   open_ := x.len + k < extBytes }
          let s := (s.setReel (r.setExt x')).setSlot { w with data := w.data ++ bytes.take k }
          let s := if x'.firstTick == x.firstTick && x'.cont == x.cont then s else s.refreshHeader n x.seq
          let s := if start then s.cabUpd (fun c => { c with pkts := c.pkts ++
            [{ pid := pid, prod := prod, reel := n, ext := x.seq, off := x.len, len := 0 }] }) else s
          some (s, k)

/-- GROUP_WRITE: the complete group of a pair is written with its check line in one pass (R195). -/
def State.groupWrite (s : State) (prod n : Nat) : State :=
  match s.slotOf prod n, s.reel n with
  | some w, some r =>
    if s.slotFull w then
      match r.live.find? (fun x => x.seq == w.ext) with
      | none => s.cabUpd (fun c => { c with slots := c.slots.filter (fun y : Slot => !(y.prod == prod && y.reel == n)) })
      | some x =>
        let h := s.reelShelf r
        let data := if w.grp = 0 then extHeader n r.exts x ++ w.data.drop 64 else w.data
        let (_, g0, _) := s.extLine r w.ext (w.grp * h.gb)
        let s := s.each (List.range (h.gl - 1)) (fun i s => s.writeLine h g0 i ((data.drop (64 * i)).take 64))
        let s := s.each w.bad (fun i s => s.poisonLine (g0 + i))
        let s := s.cabUpd (fun c => { c with badAt := c.badAt.filter (fun e => e.1 < g0 || g0 + h.gl ≤ e.1) })
        let s := s.setReel (r.setExt { x with groups := x.groups + 1 })
        s.cabUpd (fun c => { c with slots := c.slots.filter (fun y : Slot => !(y.prod == prod && y.reel == n)) })
    else s
  | _, _ => s

/-- The packet's length once it is closed, kept with where it lies. -/
def State.pktLen (s : State) (pid : PktId) (prod len : Nat) : State :=
  s.cabUpd (fun c => { c with pkts := c.pkts.map (fun p : PktRef => if p.pid == pid && p.prod == prod then { p with len := len } else p) })

/-- A slot patch given to the merge buffer, y the slot's byte in its extent; none when the buffer has no room for its entries (R196). -/
def State.patchPush (s : State) (pid : PktId) (r : Reel) (q y val : Nat) : Option State :=
  let (_, l, b) := s.extLine r q y
  if s.mergeTakes l then some (s.mergePush (.patch pid l b (bytesLE 4 val))) else none

/-- A slot patch reaches CAB (R196): applied in the assembler when its word is there, else given to the merge buffer; none
when the buffer has no room. -/
def State.patchIn (s : State) (pid : PktId) (prod val : Nat) : Option State :=
  match s.cab.pkts.find? (fun p => p.pid == pid && p.prod == prod) with
  | none => some s
  | some p =>
    match s.reel p.reel with
    | none => some s
    | some r =>
      let gb := (s.reelShelf r).gb
      let y := 64 + p.off
      match s.slotOf prod p.reel with
      | some w =>
        if w.ext == p.ext && w.grp == y / gb && y % gb + 4 ≤ w.data.length then
          some (s.setSlot { w with data := putBytes w.data (y % gb) (bytesLE 4 val) })
        else s.patchPush pid r p.ext y val
      | none => s.patchPush pid r p.ext y val

/-! ### Reading packets back (R198, R199) -/

/-- Line y of an extent (0 is its header): from the assembler while its group is there, else from the store. -/
def State.readExtLine (s : State) (r : Reel) (prod q y : Nat) : State × Option (List Nat) :=
  let h := s.reelShelf r
  let (_, p, _) := s.extLine r q (64 * y)
  match s.slotOf prod r.n with
  | some w =>
    if w.ext == q && w.grp == 64 * y / h.gb then
      (s, if w.bad.contains (64 * y % h.gb / 64) then none else some ((w.data.drop (64 * y % h.gb)).take 64))
    else s.fetchLine p 1
  | none => s.fetchLine p 1

/-- Lines of an extent read one after another, up to the first that cannot be delivered. -/
def State.readExtLines (s : State) (r : Reel) (prod q : Nat) : List Nat → State × LinesRead
  | [] => (s, .got [])
  | y :: l =>
    match s.readExtLine r prod q y with
    | (s, none) => (s, .bad y (s.extLine r q (64 * y)).2.1)
    | (s, some d) =>
      match State.readExtLines s r prod q l with
      | (s, .bad y p) => (s, .bad y p)
      | (s, .got e) => (s, .got (d ++ e))

/-- n recordable bytes of an extent from off on. -/
def State.readSpan (s : State) (r : Reel) (prod q off n : Nat) : State × LinesRead :=
  let a := (64 + off) / 64
  let b := (64 + off + n + 63) / 64
  match s.readExtLines r prod q ((List.range (b - a)).map (a + ·)) with
  | (s, .bad y p) => (s, .bad y p)
  | (s, .got d) => (s, .got ((d.drop (off % 64)).take n))

/-- A stored packet read whole, through the producer's next extent when it continues there (R191, R198). The header of every extent it lies in
is read with it. -/
def State.readPkt (s : State) (p : PktRef) : State × PktRead :=
  match s.reel p.reel with
  | none => (s, .lost 0)
  | some r =>
    let n1 := min p.len (extBytes - p.off)
    match s.readExtLines r p.prod p.ext [0] with
    | (s, .bad _ l) => (s, .lost l)
    | (s, .got _) =>
      match s.readSpan r p.prod p.ext p.off n1 with
      | (s, .bad y l) => (s, if y = (64 + p.off) / 64 then .lost l else .part l)
      | (s, .got d) =>
        if n1 = p.len then (s, .whole d)
        else match r.live.find? (fun x => x.prod == p.prod && x.prev == some p.ext) with
          | none => (s, .lost 0)
          | some x =>
            match s.readExtLines r p.prod x.seq [0] with
            | (s, .bad _ l) => (s, .lost l)
            | (s, .got _) =>
              match s.readSpan r p.prod x.seq 0 (p.len - n1) with
              | (s, .bad _ l) => (s, .part l)
              | (s, .got e) => (s, .whole (d ++ e))

/-- Of extents l of a producer, in their order, those a reader passes over and the one it resynchronises at: the first in which a packet
starts and whose header can be read (R191). Each header is read. -/
def State.resyncGo (s : State) (r : Reel) (prod : Nat) : List Ext → State × List Ext × Option Ext
  | [] => (s, [], none)
  | x :: l =>
    match s.readExtLine r prod x.seq 0 with
    | (s, d) =>
      if d.isSome && x.firstTick.isSome then (s, [], some x)
      else match State.resyncGo s r prod l with
        | (s, a, y) => (s, x :: a, y)

/-- A reader resynchronises after packet p. -/
def State.resync (s : State) (p : PktRef) : State × List Ext × Option Ext :=
  match s.reel p.reel with
  | none => (s, [], none)
  | some r => s.resyncGo r p.prod (r.live.filter (fun x => x.prod == p.prod && p.ext < x.seq))

/-- The bytes from packet p to the next packet start found under R191 (R199). -/
def State.lostLen (s : State) (p : PktRef) : State × Nat :=
  let len := ((s.reel p.reel).bind (fun r => r.live.find? (fun x => x.seq == p.ext))).elim p.off (fun x => x.len)
  match s.resync p with
  | (s, l, x) => (s, len - p.off + l.foldl (fun a x => a + x.len) 0 + x.elim 0 (·.cont))

/-- A reader that lost packet p cannot find packet q before it resynchronises (R191, R199). -/
def State.lostWith (s : State) (p q : PktRef) : Bool :=
  q.reel == p.reel && q.prod == p.prod && (p.ext < q.ext || (p.ext == q.ext && p.off < q.off)) &&
    (match (s.resync p).2.2 with | some x => decide (q.ext < x.seq) | none => true)

/-- The take offset of recordable byte off of the extent of ordinal q (R192). -/
def Take.offset (t : Take) (q off : Nat) : Nat := (q - t.startExt.getD 0) * extBytes + off

/-- The POISON record in the place of packet p, n bytes long, in take tk or else the first that holds it; l is the line that could not be
delivered (R199). -/
def State.poisonFor (s : State) (p : PktRef) (tk : Option Nat) (n l : Nat) : List Nat :=
  let t := (tk.bind s.take) <|> s.cab.takes.find? (fun t => t.holds p.reel p.ext)
  let at_ := (s.cab.badAt.find? (fun e => e.1 == l)).elim s.tbNow (·.2)
  poisonRec (s.rd .tre_MODULE_ID) p.reel ((t.map (·.num)).getD 0) ((t.map (fun t => t.offset p.ext p.off)).getD 0) n at_

/-- A stored packet for delivery, of take tk where it is one's offload: its own bytes, or a POISON record in its place (R199). -/
def State.deliverPkt (s : State) (p : PktRef) (tk : Option Nat := none) : State × List Nat :=
  match s.readPkt p with
  | (s, .whole d) => (s, d)
  | (s, .part l) => (s, s.poisonFor p tk p.len l)
  | (s, .lost l) => match s.lostLen p with
    | (s, n) => (s, s.poisonFor p tk n l)

/-- A stored packet can be read whole: it is delivered itself, not a POISON record in its place. -/
def State.reads (s : State) (p : PktRef) : Bool := match (s.readPkt p).2 with | .whole _ => true | _ => false

/-! ### Commands (table Store-10) -/

/-- A packet a consumer waits for is in no reel any more, and not on its way into one. -/
def State.pktGone (s : State) (p : PktId) : Bool :=
  !s.cab.pkts.any (fun r => r.pid == p) && !s.que.items.any (fun x => x.pid == p && x.cab)

/-- A consumer whose position was overrun is moved past its packets of one module that are gone, and has one GAP record of
REASON 0x04 in their place (R194): the record, and the packets left. -/
def State.gapHead (s : State) (ps : List PktId) : Option (List Nat × List PktId) :=
  match ps with
  | [] => none
  | p :: _ =>
    let run := ps.takeWhile (fun x => s.pktGone x && x.mod_ == p.mod_)
    if run.isEmpty then none
    else
      let first := run.foldl (fun a x => min a x.tick) p.tick
      let last := run.foldl (fun a x => max a x.tick) p.tick
      let regions := run.foldl (fun a x => if x.kind ≤ 5 then a ||| 2 ^ (x.region % 16) else a) 0
      some (gapRec (s.rd .tre_MODULE_ID) first last p.mod_ regions 4 s.tbNow, ps.drop run.length)

/-- A command's result; an error sets CFG_ERR. -/
def State.cmdRes (s : State) (c : Nat) : State :=
  let s := s.wr .cab_CMD_RES 0 c
  if c = 0 || c = 0xFF then s else s.wrB .cab_CFG_ERR 0 true

/-- A command runs unless one is running. -/
def State.cabCmd (s : State) (f : State → State) : State := if s.flag .cab_CMD_BUSY then s else f s

/-- A reel is named by a mapping field in force (R190, R209). -/
def State.mapped (s : State) (n : Nat) : Bool :=
  (List.range 8).any (fun k => s.rd .cab_STREAM_REEL k == n) || (List.range 4).any (fun d => s.rd .cab_DOWN_REEL d == n) ||
    s.rd .trg_WIN_REEL == n

/-- A take is under offload. -/
def State.offloading (s : State) (t : Nat) : Bool := s.cab.ofl.any (fun o => o.take == t)

/-- A reel is in use: mapped, with an OPEN take, or with a take under offload (R209). -/
def State.reelBusy (s : State) (n : Nat) : Bool :=
  s.mapped n || s.cab.takes.any (fun t => t.reel == n && (t.st == 1 || s.offloading t.num))

/-- SHELF_DEF. -/
def State.shelfDef (s : State) : State :=
  let a := s.rd .cab_CMD_ARG0
  let b := s.rd .cab_CMD_ARG1
  let x : Shelf := ⟨bits a 0 4, bit a 4, bits b 0 7, bits b 8 7⟩
  if x.units = 0 || 126 < x.base + x.units then s.cmdRes 1
  else if s.cab.shelves.any (fun h => h.n == x.n || (h.base < x.base + x.units && x.base < h.base + h.units)) then s.cmdRes 3
  else (s.cabUpd (fun c => { c with shelves := c.shelves ++ [x] })).cmdRes 0

/-- SHELF_DEL. -/
def State.shelfDel (s : State) : State :=
  let n := bits (s.rd .cab_CMD_ARG0) 0 4
  if !s.cab.shelves.any (fun h => h.n == n) then s.cmdRes 4
  else if s.cab.reels.any (fun r => r.shelf == n) then s.cmdRes 3
  else (s.cabUpd (fun c => { c with shelves := c.shelves.filter (fun h => h.n != n) })).cmdRes 0

/-- The first extent from which k fit between the reels of a shelf (first fit). -/
def State.firstFit (s : State) (h : Shelf) (k : Nat) : Option Nat :=
  let used := s.cab.reels.filter (fun r => r.shelf == h.n)
  ((0 :: used.map (fun r => r.base + r.exts)).filter (fun b => b + k ≤ h.exts &&
    used.all (fun r => b + k ≤ r.base || r.base + r.exts ≤ b))).foldl
    (fun m b => some (match m with | none => b | some x => min x b)) none

/-- REEL_DEF. -/
def State.reelDef (s : State) : State :=
  let a := s.rd .cab_CMD_ARG0
  let k := bits (s.rd .cab_CMD_ARG1) 0 20
  let n := bits a 0 6
  let pol := bits a 13 2
  if k < 2 || 121434 < k || pol = 3 || (pol = 2 && !bit a 12) then s.cmdRes 1
  else if (s.reel n).isSome then s.cmdRes 3
  else match s.cab.shelves.find? (fun h => h.n == bits a 8 4) with
    | none => s.cmdRes 4
    | some h =>
      match s.firstFit h k with
      | none => s.cmdRes 2
      | some b => (s.cabUpd (fun c => { c with reels := c.reels ++
          [{ n := n, shelf := h.n, base := b, exts := k, ring := bit a 12, policy := pol }] })).cmdRes 0

/-- A command deletes the packets for which gone holds: the consumers that wait for them forget them. -/
def State.forgetPkts (s : State) (gone : PktRef → Bool) : State :=
  let keep (p : PktId) : Bool := !s.cab.pkts.any (fun r => r.pid == p && gone r)
  let s := { s with que := { s.que with heldUp := s.que.heldUp.filter keep } }
  let s := { s with tre := { s.tre with log := s.tre.log.filter (fun e : FwdEnt => e.sent || keep e.pid), listed := s.tre.listed.filter keep } }
  let s := { s with eth := { s.eth with qp := s.eth.qp.map (fun q : Qp => { q with behind := q.behind.filter keep }) } }
  s.cabUpd (fun c => { c with pkts := c.pkts.filter (fun r => !gone r) })

/-- What a reel holds is gone: its takes, packets, slots and words; the runs of ticks discarded for it are over (R194). -/
def State.wipeReel (s : State) (n : Nat) : State :=
  let s := (s.forgetPkts (fun p => p.reel == n)).cabUpd (fun c => { c with
    takes := c.takes.filter (fun t : Take => t.reel != n), slots := c.slots.filter (fun x : Slot => x.reel != n),
    pos := c.pos.filter (fun p : DelPos => p.reel != n), gapDue := c.gapDue ++ ((s.reel n).elim [] (·.gaps)) })
  { s with evb := { s.evb with r := s.evb.r.map (fun e => { e with ring := e.ring.filter (fun w : RingW => w.reel != n) }) } }

/-- REEL_DEL. -/
def State.reelDel (s : State) : State :=
  let n := bits (s.rd .cab_CMD_ARG0) 0 6
  if (s.reel n).isNone then s.cmdRes 4
  else if s.reelBusy n then s.cmdRes 3
  else ((s.wipeReel n).cabUpd (fun c => { c with reels := c.reels.filter (fun r => r.n != n) })).cmdRes 0

/-- REEL_CLEAR. -/
def State.reelClear (s : State) : State :=
  let n := bits (s.rd .cab_CMD_ARG0) 0 6
  match s.reel n with
  | none => s.cmdRes 4
  | some r =>
    if s.reelBusy n then s.cmdRes 3
    else ((s.wipeReel n).setReel { r with alloc := 0, live := [], full := false, gaps := [] }).cmdRes 0

/-- A take command's tick lies at least 4 us ahead; at gives the TB instant of a tick. -/
def State.tickAhead (s : State) (at_ : Nat → Int) (k : Nat) : Bool :=
  s.flag .seq_TICK_RUN && ((s.tbNow : Int) + 4 * usFu : Int) ≤ at_ k && s.seq.k < k

/-- TAKE_START: the take's number stands in CMD_OUT; it opens at the named tick (R192). -/
def State.takeStart (s : State) (at_ : Nat → Int) : State :=
  let n := bits (s.rd .cab_CMD_ARG0) 0 6
  let k := s.rd .cab_CMD_TICK
  if (s.reel n).isNone then s.cmdRes 4
  else if s.cab.takes.any (fun t => t.reel == n && t.st == 1) then s.cmdRes 3
  else if !s.tickAhead at_ k then s.cmdRes 5
  else if 262144 ≤ s.cab.takes.length then s.cmdRes 2
  else
    let num := (s.cab.lastTake + 1) % 2 ^ 32
    (((s.cabUpd (fun c => { c with lastTake := num, cmd := some (6, num, k, n) })).wr .cab_CMD_OUT 0 num).wrB .cab_CMD_BUSY 0
      true).cmdRes 0xFF

/-- TAKE_STOP. -/
def State.takeStop (s : State) (at_ : Nat → Int) : State :=
  let k := s.rd .cab_CMD_TICK
  match s.take (s.rd .cab_CMD_ARG0) with
  | none => s.cmdRes 4
  | some t =>
    if t.st != 1 then s.cmdRes 3
    else if !s.tickAhead at_ k then s.cmdRes 5
    else ((s.cabUpd (fun c => { c with cmd := some (7, t.num, k, t.reel) })).wrB .cab_CMD_BUSY 0 true).cmdRes 0xFF

/-- The take command of a boundary carried out, and OPEN takes of reels full under DISCARD closed (R192, R194). A reel that a window's take
has opened on since holds its one OPEN take: the command answers 0x03 (DESIGN CHOICE, log entry 170). -/
def State.takeBoundary (s : State) (k : Nat) : State :=
  let s := match s.cab.cmd with
    | some (6, n, at_, rl) =>
      if at_ ≤ k && s.cab.takes.any (fun t => t.reel == rl && t.st == 1) then
        ((s.cabUpd (fun c => { c with cmd := none })).wrB .cab_CMD_BUSY 0 false).cmdRes 3
      else if at_ ≤ k then
        let t : Take := { num := n, reel := rl, st := 1, flags := 0, startExt := none, endExt := 0,
                          startTick := at_, stopTick := 0, epoch := s.rd .seq_CFG_EPOCH }
        ((s.cabUpd (fun c => { c with cmd := none, takes := c.takes ++ [t] })).wrB .cab_CMD_BUSY 0 false).cmdRes 0
      else s
    | some (_, n, at_, _) =>
      if at_ ≤ k then
        let s := match s.take n with
          | some t => if t.st == 1 then s.setTake { t with st := 2, stopTick := at_ } else s
          | none => s
        ((s.cabUpd (fun c => { c with cmd := none })).wrB .cab_CMD_BUSY 0 false).cmdRes 0
      else s
    | none => s
  let s := s.each s.cab.reels (fun r s => s.reelFull r.n)
  let full (t : Take) : Bool := match s.reel t.reel with | some r => r.ended || (r.full && r.policy == 1) | none => false
  s.cabUpd (fun c => { c with reels := c.reels.map (fun r : Reel => { r with ended := false }), takes := c.takes.map (fun t : Take =>
    if full t && t.st == 1 && t.startTick < k then { t with st := 2, stopTick := k, flags := t.flags ||| 2 }
    else if full t && t.st == 2 && t.stopTick == k then { t with flags := t.flags ||| 2 } else t) })

/-- TAKE_RELEASE. -/
def State.takeRelease (s : State) : State :=
  match s.take (s.rd .cab_CMD_ARG0) with
  | none => s.cmdRes 4
  | some t =>
    match s.reel t.reel with
    | some r =>
      if !r.ring then s.cmdRes 1
      else if s.offloading t.num || t.st == 1 then s.cmdRes 3
      else ((s.setTake { t with st := 3 }).reelFull r.n).cmdRes 0
    | none => s.cmdRes 4

/-- TAKE_DELETE: linear, the reel's last take with its extents; ring, the entry alone. -/
def State.takeDelete (s : State) : State :=
  match s.take (s.rd .cab_CMD_ARG0) with
  | none => s.cmdRes 4
  | some t =>
    match s.reel t.reel with
    | none => s.cmdRes 4
    | some r =>
      if s.offloading t.num || t.st == 1 then s.cmdRes 3
      else
        let rest (s : State) : State := s.cabUpd (fun c => { c with takes := c.takes.filter (fun x : Take => x.num != t.num) })
        if r.ring then ((rest s).reelFull r.n).cmdRes 0
        else if s.cab.takes.any (fun x => x.reel == t.reel && t.num < x.num) then s.cmdRes 3
        else
          let a := t.startExt.getD r.alloc
          let s := ((rest s).forgetPkts (fun p => p.reel == r.n && a ≤ p.ext)).cabUpd (fun c => { c with slots := c.slots.filter (fun x : Slot => !(x.reel == r.n && a ≤ x.ext)) })
          (s.setReel { r with alloc := a, live := r.live.filter (fun x => x.seq < a), full := false }).cmdRes 0

/-- DIR_READ. -/
def State.dirRead (s : State) : State :=
  match s.take (s.rd .cab_CMD_ARG0) with
  | none => s.cmdRes 4
  | some t => (s.wr .cab_DIR_DATA 0 (ofBytesLE (s.dirEntry t))).cmdRes 0

/-! ### Scrub (R201, R202) -/

/-- Written groups of the cabinet. -/
def State.writtenGroups (s : State) : Nat :=
  sysGroups + s.cab.reels.foldl (fun a r => a + r.live.foldl (fun a x => a + x.groups) 0) 0

/-- Place a comes before place b: reel, extent of the reel, group. -/
def placeLt (a b : Nat × Nat × Nat) : Bool :=
  a.1 < b.1 || (a.1 == b.1 && (a.2.1 < b.2.1 || (a.2.1 == b.2.1 && a.2.2 < b.2.2)))

/-- The first written group of an extent at or behind place p of the pass, and its place. -/
def Reel.groupFrom (r : Reel) (x : Ext) (p : Nat × Nat × Nat) : Option (Nat × Nat × Nat) :=
  let e := x.seq % r.exts
  let g := if r.n = p.1 && e = p.2.1 then p.2.2 else 0
  if g < x.groups && !placeLt (r.n, e, g) p then some (r.n, e, g) else none

/-- The next written group of the pass behind the system area: reels in ascending number, each in reel order (R201). -/
def State.reelGroup (s : State) (p : Nat × Nat × Nat) : Option (Reel × Ext × Nat × Nat × Nat) :=
  (s.cab.reels.flatMap (fun r => r.live.filterMap (fun x => (r.groupFrom x p).map (fun q => (r, x, q))))).foldl
    (fun a e => match a with
      | some b => some (if placeLt e.2.2 b.2.2 then e else b)
      | none => some e) none

/-- The quantum per tick is set, at a pass start and at a commit: the written groups multiplied by the tick period and divided by
SCRUB_PERIOD (R201). -/
def State.scrubPlan (s : State) : State :=
  let (num, den) := if s.flag .seq_TICK_RUN then (s.rd .seq_TICK_NUM, s.rd .seq_TICK_DEN) else (1, 1000)
  let n := s.writtenGroups * num
  let d := max 1 den * (s.rd .cab_SCRUB_PERIOD * 60)
  (s.cabUpd (fun c => { c with quantN := n, quantD := d })).wr .cab_SCRUB_QUANT 0 (max 1 (n / d))

/-- A tick's quantum, or that of the 1 ms timer: the remainder is carried forward, and at least one group is due (R201). -/
def State.scrubTick (s : State) : State :=
  let c := s.cab
  let a := c.rem + c.quantN
  let q := a / c.quantD
  s.cabUpd (fun c => { c with due := max 1 q, rem := if q = 0 then 0 else a % c.quantD })

/-- One line read by the scrubber: corrected and written back, or poisoned. -/
def State.scrubLine (s : State) (h : Shelf) (g0 i : Nat) : State :=
  match s.readLine h g0 i with
  | .fixed _ n => (s.lineFixed (g0 + i) n 0).mergePush (.back (g0 + i))
  | .bad => s.lineBad (g0 + i) 0
  | _ => s

/-- Both copies of a line of the system area are lost: what they held of the take directory and the poison list is gone (R202); the other
tables' lines are written again from the tables (DESIGN CHOICE, log entry 82). -/
def State.sysLost (s : State) (m : Nat) : State :=
  let s := s.cabUpd (fun c => { c with
    takes := if sysTakes ≤ m && m < sysPoison then c.takes.eraseIdx (m - sysTakes) else c.takes,
    poison := if sysPoison ≤ m && m < sysExts then c.poison.eraseIdx (m - sysPoison) else c.poison })
  (s.wrB .cab_DIR_DAMAGED 0 true).detect clsMemory 2 unitModule

/-- Line i of system group n read by the scrubber: corrected, or rewritten from the other copy, or lost with both (R202). -/
def State.scrubSysLine (s : State) (n i : Nat) : State :=
  let h : Shelf := ⟨16, false, 126, 2⟩
  let g0 := sysLine n
  match s.readLine h g0 i with
  | .fixed _ k => (s.lineFixed (g0 + i) k 0).mergePush (.back (g0 + i))
  | .bad =>
    let g1 := sysLine (sysMirror n)
    let s := (s.bump .edc_STORE_UNCORR 0).edcLog { line := g0 + i, syms := 0, src := 0 }
    match s.readLine h g1 i with
    | .bad => ((((s.bump .edc_STORE_UNCORR 0).edcLog { line := g1 + i, syms := 0, src := 0 }).sysLost (8 * (n % sysHalf) + i)).mergePush
        (.back (g0 + i))).mergePush (.back (g1 + i))
    | .fixed _ k => (((s.lineFixed (g1 + i) k 0).mergePush (.back (g1 + i))).mergePush (.back (g0 + i))).emit 0x0C05 (g0 + i)
    | _ => (s.mergePush (.back (g0 + i))).emit 0x0C05 (g0 + i)
  | _ => s

/-- Errors come into the lines of the group at g0: offset in the group and exclusive-or value. -/
def State.groupErrs (s : State) (g0 : Nat) (errs : List (Nat × Nat)) : State :=
  s.flip (errs.map (fun e => (64 * s.remap (g0 + e.1 / 64) + e.1 % 64, e.2)))

/-- The scrubber reads system group n, or with none left there the next written group of a reel; whether there was one. -/
def State.scrubRead (s : State) (errs : List (Nat × Nat)) (both : Bool) : State × Bool :=
  let n := s.cab.passDone
  if n < sysGroups then
    let s := (s.groupErrs (sysLine n) errs).when both (fun s => s.groupErrs (sysLine (sysMirror n)) errs)
    ((s.each (List.range 8) (fun i s => s.scrubSysLine n i)).cabUpd (fun c => { c with passDone := n + 1 }), true)
  else match s.reelGroup s.cab.passPos with
    | none => (s, false)
    | some (r, x, m, e, g) =>
      let h := s.reelShelf r
      let (_, g0, _) := s.extLine r x.seq (g * h.gb)
      (((s.groupErrs g0 errs).each (List.range (h.gl - 1)) (fun i s => s.scrubLine h g0 i)).cabUpd (fun c => { c with
        passDone := n + 1, passPos := (m, e, g + 1) }), true)

/-- SCRUB_GROUP_READ: the next written group of the pass is read, errs having come into its lines, and with both set into those of the
other copy; the pass ends behind the last group. The scrubber waits for a free entry of the merge buffer (R196) and in STANDBY. -/
def State.scrubGroup (s : State) (errs : List (Nat × Nat)) (both : Bool) : State :=
  if !s.flag .cab_SCRUB_EN || !s.mergeRoom || s.pwr == .standby then s
  else
    let s := if s.cab.passDone = 0 then (s.cabUpd (fun c => { c with passAt := s.clock, passPos := (0, 0, 0) })).scrubPlan else s
    let (s, _) := s.scrubRead errs both
    let s := s.cabUpd (fun c => { c with due := c.due - 1 })
    let s := if s.cab.passAt + s.scrubFu < s.clock then s.wrB .cab_SCRUB_LATE 0 true else s
    if sysGroups ≤ s.cab.passDone && (s.reelGroup s.cab.passPos).isNone then
      (s.cabUpd (fun c => { c with passDone := 0 })).bump .cab_SCRUB_PASSES 0
    else s

/-! ### Repair (R205) -/

/-- REPAIR_RUN: in READY repair starts; elsewhere CFG_ERR. -/
def State.repairRun (s : State) : State :=
  if s.pwr == .ready then s.wrB .cab_REPAIR_BUSY 0 true else s.wrB .cab_CFG_ERR 0 true

/-- The operations mergeDrain carries out at most: every line of a span for each that comes in. -/
def drainFuel : Nat := 65536

/-- Repair of one remapped span whose bank had a resource: copied back line by line through the merge buffer, behind what it holds, its spare
freed, reported. -/
def State.spanBack (s : State) (e : Nat × Nat × Nat) : State :=
  let first := 16 * (32 * e.2.1) + e.1
  let s := s.mergeDrain drainFuel
  let s := (s.each (List.range 32) (fun j s => s.mergePush (.home (first + 16 * j)))).mergeDrain drainFuel
  let s := { s with edc := { s.edc with remap := s.edc.remap.filter (fun x => x != e) } }
  let hard := s.flag .cab_PPR_HARD_EN
  let s := s.bump (if hard then .edc_PPR_HARD else .edc_PPR_SOFT) 0
  let s := { s with flash := { s.flash with repairs := (s.flash.repairs ++ [(first, hard)]).take 512 } }
  (s.poolRegs e.1).emit 0x0C03 (first + b2n hard <<< 32)

/-- REPAIR_DONE: the i-th remapped span is repaired where its bank had a resource. Repair runs in READY alone: outside it REPAIR_BUSY stays
until READY is back. -/
def State.repairDone (s : State) (ok : List Bool) : State :=
  if s.flag .cab_REPAIR_BUSY && s.pwr == .ready then
    let todo := (s.edc.remap.zip ok).filter (·.2)
    (s.each todo (fun q s => s.spanBack q.1)).wrB .cab_REPAIR_BUSY 0 false
  else s

/-- STANDBY entry: open groups are padded and written, the merge buffer is emptied (R209). -/
def State.cabStandby (s : State) : State :=
  let s := s.each s.cab.slots (fun (w : Slot) s =>
    match s.reel w.reel with
    | none => s
    | some r =>
      let gb := (s.reelShelf r).gb
      let n := (w.grp + 1) * gb - 64
      let r' := match r.live.find? (fun x => x.seq == w.ext) with
        | some x => r.setExt { x with len := n, open_ := x.open_ && decide (n < extBytes) }
        | none => r
      ((s.setReel r').setSlot { w with data := w.data ++ List.replicate (gb - w.data.length) 0 }).groupWrite w.prod w.reel)
  s.mergeDrain drainFuel

end Sys2Proof.Machine
end

