-- ==== Sys2Proof/Machine/Ring.lean ====
section
/-! DEFINITION. The rings in host memory: entries, messages and RoCE packets of a queue pair (R275, R278 to R281, R284). -/

namespace Sys2Proof.Machine

open Sys2Proof

def State.qp (s : State) (q : Fin 8) : Qp := s.eth.qp[q]
def State.setQp (s : State) (q : Fin 8) (x : Qp) : State := { s with eth := { s.eth with qp := s.eth.qp.set q x } }

def qpDisabled : Nat := 0
def qpResolving : Nat := 1
def qpRun : Nat := 2
def qpWait : Nat := 3
def qpRetry : Nat := 4
def qpError : Nat := 5

/-- The lowest-numbered enabled data QP that takes a packet of this kind and region (R281). -/
def State.qpFor (s : State) (kind region : Nat) : Option (Fin 8) :=
  (List.finRange 8).find? (fun q : Fin 8 => s.flag .eth_ETH_EN && s.flag .eth_QP_EN q && s.rd .eth_QP_USE q == 0 &&
    bit (s.rd .eth_KIND_MASK q) kind && bit (s.rd .eth_REGION_MASK q) region)

/-- The unit of a QP's ring in bytes: 32 for event records, else 64. -/
def State.ringUnit (s : State) (q : Fin 8) : Nat := if s.rd .eth_QP_USE q = 1 then 32 else 64
/-- The units of the ring, those free, and those left before its end (R279). -/
def State.ringUnits (s : State) (q : Fin 8) : Nat := 2 ^ s.rd .eth_RING_LOG2 q / s.ringUnit q
def State.ringFree (s : State) (q : Fin 8) : Nat :=
  s.ringUnits q - (s.rd .eth_QP_PI q + 2 ^ 32 - s.rd .eth_QP_CI q) % 2 ^ 32
def State.ringLeft (s : State) (q : Fin 8) : Nat := s.ringUnits q - s.rd .eth_QP_PI q % s.ringUnits q

/-- The bytes of an entry of n bytes (R278, table Host-2): header, payload, zeros, tail; its flags hold PHASE. -/
def entryAs (n ty flags no : Nat) (payload : List Nat) : List Nat :=
  bytesLE 4 n ++ [ty, flags, 0, 0] ++ bytesLE 4 payload.length ++ bytesLE 4 no ++ payload ++
    List.replicate (n - 17 - payload.length) 0 ++ [flags % 2]

/-- The bytes of an entry as long as its payload needs. -/
def entryBytes (ty flags : Nat) (phase : Bool) (no : Nat) (payload : List Nat) : List Nat :=
  entryAs (64 * ((16 + payload.length + 1 + 63) / 64)) ty (flags + b2n phase) no payload

/-- The PAD entry that fills n units. -/
def padBytes (n : Nat) (phase : Bool) (no : Nat) : List Nat :=
  bytesLE 4 (64 * n) ++ [3, b2n phase, 0, 0] ++ bytesLE 4 0 ++ bytesLE 4 no ++ List.replicate (64 * n - 17) 0 ++ [b2n phase]

/-- n units written at the ring's producer index: the index moves on, PHASE toggles at the end of the ring. -/
def State.produce (s : State) (q : Fin 8) (units : Nat) (isEntry : Bool) : State :=
  let wrap := decide (s.ringLeft q ≤ units)
  let x := s.qp q
  (s.setQp q { x with phase := x.phase != wrap, entryNo := (x.entryNo + b2n isEntry) % 2 ^ 32 }).wr .eth_QP_PI q (s.rd .eth_QP_PI q + units)

/-- The address of the producer index. -/
def State.ringVa (s : State) (q : Fin 8) : Nat :=
  s.rd .eth_RING_VA q + s.ringUnit q * (s.rd .eth_QP_PI q % s.ringUnits q)

/-- The packet size of a QP. -/
def State.pmtu (s : State) (q : Fin 8) : Nat := 1024 * 2 ^ s.rd .eth_PMTU q

/-- The packets of one message from its bytes on (R275): fuel n. -/
def State.cutMsg (s : State) (q : Fin 8) (va psn imm : Nat) (first : Bool) (bytes : List Nat) : Nat → List RPkt
  | 0 => []
  | n + 1 =>
    let m := s.pmtu q
    let last := decide (bytes.length ≤ m)
    let op := if first && last then 0x0B else if first then 6 else if last then 9 else 7
    let no := (psn + 2 ^ 24 - s.rd .eth_START_PSN q + 1) % 2 ^ 24
    let p : RPkt := { psn := psn, op := op, va := va, data := bytes.take m, imm := if last then some imm else none,
                      ack := last || no % 16 == 0 }
    if last then [p] else p :: State.cutMsg s q (va + m) ((psn + 1) % 2 ^ 24) imm false (bytes.drop m) n

/-- A draft made into one message or, beyond 2^MSG_LOG2 bytes, into several: fuel n. The producer index stands behind it. -/
def State.cutDraft (s : State) (q : Fin 8) (va psn : Nat) (bytes : List Nat) : Nat → List RPkt
  | 0 => []
  | n + 1 =>
    let m := 2 ^ s.rd .eth_MSG_LOG2
    let part := bytes.take m
    let rest := bytes.drop m
    let imm := (s.rd .eth_QP_PI q + 2 ^ 32 - rest.length / s.ringUnit q) % 2 ^ 32
    let ps := s.cutMsg q va psn imm true part (part.length / s.pmtu q + 1)
    if rest.isEmpty then ps else ps ++ State.cutDraft s q (va + m) ((psn + ps.length) % 2 ^ 24) rest n

/-- A draft queued as packets behind those of the QP. -/
def State.queueDraft (s : State) (q : Fin 8) (d : Draft) : State :=
  if d.bytes.isEmpty then s else
  let psn := s.rd .eth_NEXT_PSN q
  let ps := s.cutDraft q d.va psn d.bytes (d.bytes.length / 2 ^ s.rd .eth_MSG_LOG2 + 1)
  let lastPsn (off : Nat) : Nat :=
    ((ps.find? (fun p => off ≤ p.va + p.data.length - d.va)).map (·.psn)).getD psn
  let x := s.qp q
  (s.setQp q { x with pkts := x.pkts ++ ps, ents := x.ents ++ d.ents.map (fun e : REnt × Nat => { e.1 with psn := lastPsn e.2 }) }).wr
    .eth_NEXT_PSN q (psn + ps.length)

/-- An entry written into a draft, a PAD before it where it does not fit before the ring's end; none when the ring has no
room for it. The flag says that the draft ends here. -/
def State.addEntry (s : State) (q : Fin 8) (d : Draft) (ty flags : Nat) (payload : List Nat) (e : REnt) : Option (State × Draft) :=
  let u := (16 + payload.length + 1 + 63) / 64
  if s.ringFree q < u then none
  else
    let x := s.qp q
    let b := entryBytes ty flags x.phase x.entryNo payload
    let e := { e with flags := flags + b2n x.phase, no := x.entryNo, va := s.ringVa q, len := b.length }
    some (s.produce q u true, { d with bytes := d.bytes ++ b, ents := d.ents ++ [(e, d.bytes.length + b.length)] })

/-- A PAD entry to the ring's end. -/
def State.addPad (s : State) (q : Fin 8) (d : Draft) : State × Draft :=
  let u := s.ringLeft q
  let b := padBytes u (s.qp q).phase (s.qp q).entryNo
  (s.produce q u true, { d with bytes := d.bytes ++ b })

/-! ### Dailies (R284) -/

/-- The dailies QP. -/
def State.dailyQp (s : State) : Option (Fin 8) :=
  (List.finRange 8).find? (fun q : Fin 8 => s.flag .eth_ETH_EN && s.flag .eth_QP_EN q && s.rd .eth_QP_USE q == 2)

/-- The bins of a frame given by its non-zero pixels in local row-major order. -/
def dailyBins (bin : Nat) (px : Sp) : List Nat :=
  let side := 2 ^ (bin + 1)
  let w := 512 / side
  let m := px.foldl (fun a e => let k := (e.1 / 512 / side) * w + e.1 % 512 / side; spSet a k (spGet a k 0 + e.2) 0) []
  (List.range (w * w)).map (fun k => min 65535 (spGet m k 0))

/-- The ring of queue pair q filled up to its end with a PAD entry, where pad units are left there. -/
def State.padRing (s : State) (q : Fin 8) (pad : Nat) : State :=
  if pad = 0 then s else
    let (t, d) := s.addPad q { va := s.ringVa q }
    t.queueDraft q d

/-- A dailies entry written to the ring of queue pair q, or dropped where it has no room for it (R284). -/
def State.dailyPut (s : State) (q : Fin 8) (payload : List Nat) : State :=
  let u := (16 + payload.length + 1 + 63) / 64
  let pad := if s.ringLeft q < u then s.ringLeft q else 0
  if s.ringFree q < u + pad then s.bump .eth_DLY_DROP 0
  else
    let s := s.padRing q pad
    match s.addEntry q { va := s.ringVa q } 2 0 payload { daily := true, va := 0, len := 0, psn := 0 } with
    | none => s.bump .eth_DLY_DROP 0
    | some (t, d) => t.queueDraft q d

/-- A frame of region r chosen for the dailies: binned into an entry, or dropped while its queue pair cannot take one (R284). -/
def State.dailyFrame (s : State) (r : Fin 16) (src tick epoch : Nat) (px : Sp) : State :=
  match s.dailyQp with
  | none => s.bump .eth_DLY_DROP 0
  | some q =>
    let x := s.qp q
    if s.rd .eth_QP_STATE q != qpRun || x.sent < x.pkts.length then s.bump .eth_DLY_DROP 0
    else
      let bin := s.rd .eth_DLY_BIN
      let head := bytesLE 8 tick ++ bytesLE 4 (s.rd .tre_MODULE_ID) ++ bytesLE 4 epoch ++ [r.val, bin, src] ++ List.replicate 13 0
      s.dailyPut q (head ++ (dailyBins bin px).flatMap (fun v => bytesLE 2 v))

/-- A frame of region r at the dailies: every (DLY_DIV + 1)-th becomes an entry, or is dropped (R284). -/
def State.daily (s : State) (r : Fin 16) (src tick epoch : Nat) (px : Sp) : State :=
  if !(s.rdBit .eth_DLY_REGIONS 0 r && s.rd .eth_DLY_SRC == src && s.alive .eth) then s
  else
    let n := s.eth.dly[r]
    let s : State := { s with eth := { s.eth with dly := s.eth.dly.set r (n + 1) } }
    if n % (s.rd .eth_DLY_DIV + 1) ≠ 0 then s else s.dailyFrame r src tick epoch px

end Sys2Proof.Machine
end

