-- ==== Sys2Proof/Machine/Que.lean ====
section
/-! DEFINITION. QUE: fabric space, words and lanes, grants, packets, slot patches, destinations, held packets and word protection
(R169 to R183), and the cabinet writer's taking of words (R177, R179, R190, R194). -/

namespace Sys2Proof.Machine

open Sys2Proof

/-- QUE's own record changed. -/
def State.queUpd (s : State) (f : Que → Que) : State := { s with que := f s.que }

/-- Item i. -/
def State.item (s : State) (i : Nat) : Option QItem := s.que.items.find? (fun x => x.id == i)

/-- An item put in the place of the item of its number. -/
def State.setItem (s : State) (x : QItem) : State :=
  s.queUpd (fun q => { q with items := q.items.map (fun y : QItem => if y.id == x.id then x else y) })

/-! ### Words and lanes (R169, R172 to R174) -/

/-- The fabric's words, and those of one of its four banks. -/
def fabricWords : Nat := 196608
def bankWords : Nat := 49152

/-- The address of word n of a source, and its bank. Which words a source's are given is the fabric's (Config.fabricWord); the banks
follow one another in the address space (DESIGN CHOICE, log entry 75). -/
def fabAddr (src n : Nat) : Nat := Config.fabricWord src n % fabricWords
def fabBank (src n : Nat) : Fin 4 := ⟨fabAddr src n / bankWords % 4, Nat.mod_lt _ (by decide)⟩

/-- LANE_OUT: the lanes mapped out in at least one bank. -/
def Que.lanesOut (q : Que) : Nat := q.laneOut.toList.foldl (· ||| ·) 0

/-- The narrow form is in force for new packets (R174). -/
def State.narrow (s : State) : Bool := s.rd .que_PACK_MODE == 1 || s.que.stuckNarrow || s.que.lanesOut != 0

/-- The lanes of word n of a source open to its packets: all of them, or in the narrow form those its bank has left. -/
def State.lanes (s : State) (src n : Nat) (narrow : Bool) : Nat :=
  if narrow then 255 - s.que.laneOut[fabBank src n] % 256 else 255

/-- The bytes a word part may still take. -/
def FWord.room (w : FWord) : Nat := 8 * popCount w.cap 8 - w.data.length

/-- The tag bits a packet sets in a word (R169): the first of its open lanes, as many as its bytes need. -/
def FWord.tag (w : FWord) : Nat :=
  ((List.range 8).foldl (fun (a : Nat × Nat) i =>
    if bit w.cap i && 0 < a.2 then (a.1 + 2 ^ i, a.2 - 8) else a) (0, w.data.length)).1

/-- Who packs an item's words: its source, or its stream of the record packer (DESIGN CHOICE, log entry 159). -/
def QItem.pack (x : QItem) : Fin 40 :=
  ⟨(if x.src = 16 then 22 + (if x.pid.kind = 5 then x.pid.region % 16 else x.pid.kind + 10) else x.src) % 40, Nat.mod_lt _ (by decide)⟩

/-- The valid-byte tag of word n of a source: the lanes of what its packets hold there, and of what they held that is freed. -/
def State.fabTag (s : State) (src n : Nat) : Nat :=
  s.que.items.foldl (fun a x => if x.pack == src then x.words.foldl (fun a w => if w.no == n then a ||| w.tag ||| w.gone else a) a
    else a) 0

/-- The check bits of a lane's 64 data bits and of a tag (R181); the code is the fabric's (log entry 204). -/
def laneCheck (v : Nat) : Nat := (Config.laneCheck (.ofNat 64 v)).toNat
def tagCheck (v : Nat) : Nat := (Config.tagCheck (.ofNat 8 v)).toNat

/-- Lane i of word n of a source, as the packets that hold it fill it. -/
def State.fabLane (s : State) (src n i : Nat) : List Nat :=
  s.que.items.flatMap (fun x => if x.pack == src then x.words.flatMap (fun w =>
    if w.no == n && bit w.cap i then (w.data.drop (8 * popCount (w.cap % 2 ^ i) 8)).take 8 else []) else [])

/-- The check bits stored beside word n of a source: of each lane, and of the tag. -/
def State.fabCheck (s : State) (src n : Nat) : List Nat × Nat :=
  ((List.range 8).map (fun i => laneCheck (ofBytesLE (s.fabLane src n i))), tagCheck (s.fabTag src n))

/-- Bytes laid into fresh words from word n on, cap giving the lanes of each, off the place of the first in the packet; fuel bounds
the words. -/
def layWords (cap : Nat → Nat) : Nat → Nat → Nat → List Nat → List FWord
  | 0, _, _, _ => []
  | f + 1, n, off, b =>
    if b.isEmpty then []
    else
      let k := 8 * popCount (cap n) 8
      { no := n, cap := cap n, off := off, data := b.take k } :: layWords cap f (n + 1) (off + k) (b.drop k)

/-- The bytes a word takes of its packet's grants: in the narrow form the whole word. -/
def FWord.cost (w : FWord) (narrow : Bool) : Nat := if narrow then 64 else w.data.length

/-- Bytes laid behind those of item x: into what its last word has left, then into fresh words. -/
def QItem.put (x : QItem) (cap : Nat → Nat) (b : List Nat) : QItem :=
  let old := x.words.getLast?.toList
  let k := old.foldl (fun _ w => w.room) 0
  let ws := x.words.dropLast ++ old.map (fun w : FWord => { w with data := w.data ++ b.take k })
  let l := layWords cap (b.length + 1) x.next (x.len + min k b.length) (b.drop k)
  { x with words := ws ++ l, len := x.len + b.length, next := x.next + l.length,
           used := x.used + (if x.narrow then 64 * l.length else b.length) }

/-- Bytes of item x replaced from off on, where its words still hold them. -/
def QItem.poke (x : QItem) (off : Nat) (b : List Nat) : QItem :=
  { x with words := x.words.map (fun w : FWord => { w with
      data := w.data.mapIdx (fun i v => if off ≤ w.off + i then b.getD (w.off + i - off) v else v) }) }

/-- The bytes of an item its words hold: what a consumer receives (R173). -/
def QItem.data (x : QItem) : List Nat := x.words.flatMap (·.data)

/-! ### Space (R170, R171, R175) -/

/-- The traffic class of a packet kind (table Queues-2). -/
def clsOfKind (k : Nat) : Nat := if k = 5 ∨ k = 6 then 1 else if k = 0 ∨ k = 7 then 2 else 3

/-- The bytes of the shared pool, of a source's reserve and of a class reserve (table Queues-1). -/
def sharedPool : Nat := 8512 * 1024
def sourceReserve : Nat := 128 * 1024
def classReserve (c : Nat) : Nat := if c = 0 then 64 * 1024 else 512 * 1024

/-- One grant: eight words (R169). -/
def grantBytes : Nat := 512

/-- The shared pool's bytes in use. -/
def State.sharedUsed (s : State) : Nat := s.que.shared.toList.foldl (· + ·) 0

/-- The patch entries in use: one for each open packet of an own producer, one for each patch CAB has not accepted. -/
def State.patchUsed (s : State) : Nat := s.que.patches.length + s.que.items.countP (fun x => x.patch)

/-- The occupancy registers brought up to date. -/
def State.queRegs (s : State) : State :=
  let w := (s.sharedUsed + 63) / 64
  let s := (s.wr .que_SHARED_USED 0 w).wr .que_SHARED_PEAK 0 (max w (s.rd .que_SHARED_PEAK))
  ((s.wr .que_PATCH_USED 0 s.patchUsed).wrB .que_PATCH_FULL 0 (64 ≤ s.patchUsed))

/-- Links 0 and 1 are uplinks; the others lead down (R237). -/
def isUplink (l : Fin 10) : Bool := l.val < 2

/-- The downlink port of a link: 0 to 3 for D0 to D3. -/
def downPort (l : Fin 10) : Nat := if l.val < 6 then l.val - 2 else l.val - 6

/-- Downlink Dd is split (R210). -/
def State.isSplit (s : State) (l : Fin 10) : Bool :=
  if l.val < 2 then false else s.rdBit .lnk_PORT_SPLIT 0 (downPort l)

/-- The receive space granted on VC v of link l in units (table Trees-4). -/
def State.grantOf (s : State) (l : Fin 10) (v : Fin 5) : Nat :=
  if isUplink l then (if v = 0 then 32 else 0)
  else match v.val with
    | 0 => 32 | 1 => 256 | 4 => 512
    | _ => if s.isSplit l then 512 else 1024

/-- The bytes of receive space of VC v that link l's bytes take: those gathered, and those of items that still fill the area (R242, R243). -/
def State.heldBytes (s : State) (l : Fin 10) (v : Fin 5) : Nat :=
  s.que.items.foldl (fun a x => if x.link == some l.val && x.cls == v.val then a + x.own else a) (s.tre.links[l].buf[v]).length

/-- The links a module has: one a port, two for a split downlink. -/
def State.hasLink (s : State) (l : Fin 10) : Bool := l.val < 6 || s.isSplit l

/-- The bytes of class c's reserve that stand granted to links and are not in use, those of the port of source src apart: no one else is
lent them (R243). -/
def State.lent (s : State) (src c : Nat) : Nat :=
  (List.finRange 10).foldl (fun a l =>
    if s.hasLink l && (isUplink l || src != 17 + downPort l) then
      a + (64 * s.grantOf l ⟨c % 5, Nat.mod_lt _ (by decide)⟩ - s.heldBytes l ⟨c % 5, Nat.mod_lt _ (by decide)⟩)
    else a) 0

/-- The free bytes of the area a source has for traffic class c: its reserve for QC2 and QC3, else the class's without what is granted to
links (R243). -/
def State.ownFree (s : State) (src : Fin 21) (c : Nat) : Nat :=
  if c = 2 ∨ c = 3 then sourceReserve - s.que.own[src] else classReserve c - s.que.cls.toList.getD c 0 - s.lent src c

/-- The bytes of the shared pool a source may still take for class c, within SHARE_CAP. -/
def State.sharedFree (s : State) (src : Fin 21) (c : Nat) : Nat :=
  if c = 2 ∨ c = 3 then min (s.rd .que_SHARE_CAP * 65536 - s.que.shared[src]) (sharedPool - s.sharedUsed) else 0

/-- n grants for class c of a source: from its own area as far as that goes, then from the shared pool; the bytes (own, shared). -/
def State.grantsFor (s : State) (src : Fin 21) (c n : Nat) : Option (Nat × Nat) :=
  let a := min n (s.ownFree src c / grantBytes)
  if grantBytes * (n - a) ≤ s.sharedFree src c then some (grantBytes * a, grantBytes * (n - a)) else none

/-- Bytes of an area taken (or, negative, given back). -/
def State.useArea (s : State) (src : Fin 21) (c : Nat) (own shared : Int) : State :=
  let up (v : Nat) (d : Int) : Nat := ((v : Int) + d).toNat
  (s.queUpd (fun q =>
    if c = 2 ∨ c = 3 then { q with own := q.own.set src (up q.own[src] own), shared := q.shared.set src (up q.shared[src] shared) }
    else { q with cls := q.cls.set (c % 5) (up (q.cls[c % 5]'(Nat.mod_lt _ (by decide))) own) (Nat.mod_lt _ (by decide)) })).queRegs

/-- The source number of an item as a bounded one. -/
def srcFin (n : Nat) : Fin 21 := ⟨n % 21, Nat.mod_lt _ (by decide)⟩

/-- The read-back path's source number. -/
def srcBack : Nat := 21

/-- The room an open item has: its grants less what is written (R162, R175); in the narrow form what the words left hold without the
lanes lost. -/
def State.roomOf (s : State) (x : QItem) : Nat :=
  let f := x.own + x.shared - x.used
  let lost := s.que.laneOut.toList.foldl (fun a m => max a (popCount m 8)) 0
  if x.narrow && lost != 0 then f / 64 * (64 - 8 * lost) else f

/-! ### Release of forwarding consumers (R180) -/

/-- STREAM of a packet: its kind above its region (table Compression-3). -/
def PktId.stream (p : PktId) : Nat := 16 * p.kind + p.region

/-- The queue pair an item for ETH goes to: the one its offload names, else the one that takes its kind and region (R198, R281). -/
def State.qpOf (s : State) (x : QItem) : Option (Fin 8) :=
  match x.qp with
  | some q => some ⟨q % 8, Nat.mod_lt _ (by decide)⟩
  | none => s.qpFor x.pid.kind x.pid.region

/-- A packet ETH releases: with RING_OVF its QP delivers it from the reel later, otherwise a HELD record names it (R280). -/
def State.ethRelease (s : State) (x : QItem) : State :=
  match s.qpOf x with
  | none => s
  | some q =>
    let p := x.pid
    let s := s.bump .eth_QP_HELD q
    if s.flag .eth_RING_OVF q then
      s.setQp q { s.qp q with behind := (s.qp q).behind ++ [p], late := (s.qp q).late ++ (if x.late then [p] else []) }
    else s.emit 0x1004 (p.seq % 2 ^ 32 + (p.stream % 256) <<< 32 + (p.mod_ % 2 ^ 24) <<< 40)

/-- An item of a class forwarding consumers may be released from: QC0 and QC1 never are (R180). -/
def QItem.mayHold (x : QItem) : Bool := 2 ≤ x.cls

/-- The uplink has not begun to take item x: one it has begun no longer waits for it, and is not released from it (DEDUCED, log entry
203). -/
def QItem.upWaits (x : QItem) : Bool := x.up && x.upDone == 0

/-- Item x is released from its forwarding consumers: it stays in its reel (R180). -/
def State.holdItem (s : State) (x : QItem) : State :=
  if x.mayHold then
    let n := b2n x.upWaits + b2n x.eth
    let s := s.setItem { x with up := x.up && !x.upWaits, eth := false, heldUp := x.heldUp || x.upWaits, heldEth := x.heldEth || x.eth }
    let s := s.when x.upWaits (fun s => s.queUpd (fun q => { q with heldUp := q.heldUp ++ [x.pid] }))
    let s := s.when x.eth (fun s => s.ethRelease x)
    if n = 0 then s else s.bump .que_HELD_CNT 0 n
  else s

/-- An item that may be released: closed, of no class that never is, and waiting for a forwarding consumer. -/
def QItem.holdable (x : QItem) : Bool := !x.open_ && x.mayHold && (x.upWaits || x.eth)

/-- HOLD_LIMIT: item i has waited HOLD_LIMIT us. -/
def State.holdLimit (s : State) (i : Nat) : State :=
  match s.item i with
  | some x => if x.holdable && x.since + s.rd .que_HOLD_LIMIT * usFu ≤ s.clock then s.holdItem x else s
  | none => s

/-- The shared pool's use has reached HOLD_MARK: every waiting item is released. -/
def State.holdMark (s : State) : State :=
  if s.rd .que_HOLD_MARK * sharedPool ≤ 256 * s.sharedUsed then
    s.each (s.que.items.filter (fun x : QItem => x.holdable)) (fun x s => s.holdItem x)
  else s

/-- One grant more for item x (R175). -/
def State.grantMore (s : State) (x : QItem) : Option State :=
  (s.grantsFor (srcFin x.src) x.cls 1).map (fun g =>
    ((s.setItem { x with own := x.own + g.1, shared := x.shared + g.2 }).useArea (srcFin x.src) x.cls g.1 g.2).holdMark)

/-- Grants for item i, one at a time, until it has n bytes of room; as many as the fabric gives. -/
def State.grantUpTo (s : State) (i n : Nat) : State :=
  (List.range (n / grantBytes + 2)).foldl (fun s _ =>
    match s.item i with
    | none => s
    | some x => if s.roomOf x < n then (s.grantMore x).getD s else s) s

/-! ### Freeing (R178) -/

/-- The writer may take no more into word w of item x: the word is complete, or its packet closed. -/
def QItem.whole (x : QItem) (w : FWord) : Bool := w.room == 0 || !x.open_

/-- Every consumer item x is destined for has taken word w or has been released from it. -/
def QItem.freed (x : QItem) (w : FWord) : Bool :=
  (!x.up || decide (w.off + w.data.length ≤ x.upDone)) && !x.eth && x.whole w && (!x.cab || decide (w.data.length ≤ w.done))

/-- Every consumer has had item x. -/
def QItem.done (x : QItem) : Bool := !x.open_ && !x.cab && !x.up && !x.eth

/-- Item y keeps the tag bits of the parts ws of item x that are freed, in the words both lie in (R172). -/
def QItem.tagFreed (y x : QItem) (ws : List FWord) : QItem :=
  if y.id != x.id && y.pack == x.pack then
    { y with words := y.words.map (fun v : FWord => { v with
        gone := ws.foldl (fun a w => if w.no == v.no then a ||| w.tag ||| w.gone else a) v.gone }) }
  else y

/-- Item x without the words that are freed; their bytes go back, to its own area first (DESIGN CHOICE, log entry 75). -/
def State.freeWords (s : State) (x : QItem) : State :=
  let gone := x.words.filter (fun w => x.freed w)
  let n := gone.foldl (fun a w => a + w.cost x.narrow) 0
  if n = 0 then s
  else
    let a := min n x.own
    let b := min (n - a) x.shared
    let s := s.queUpd (fun q => { q with items := q.items.map (fun y : QItem => y.tagFreed x gone) })
    (s.setItem { x with words := x.words.filter (fun w => !x.freed w), own := x.own - a, shared := x.shared - b,
                        used := x.used - n }).useArea (srcFin x.src) x.cls (-(a : Int)) (-(b : Int))

/-- Words every consumer has had are freed, and items every consumer has had leave the fabric. -/
def State.sweep (s : State) : State :=
  let s := s.each s.que.items (fun x s => s.freeWords x)
  let d := s.que.items.filter (fun x : QItem => x.done)
  let s := s.queUpd (fun q => { q with items := q.items.filter (fun x : QItem => !x.done) })
  s.each d (fun x s => s.useArea (srcFin x.src) x.cls (-(x.own : Int)) (-(x.shared : Int)))

/-! ### The cabinet writer (R177, R179, R190, R194) -/

/-- The run of ticks discarded for producer p in reel r is over: its GAP record waits for the next boundary (R194). -/
def State.gapEnd (s : State) (r : Reel) (p : Nat) : State :=
  match r.gaps.find? (fun g => g.1 == p) with
  | none => s
  | some g => (s.setReel { r with gaps := r.gaps.filter (fun g => g.1 != p) }).cabUpd (fun c => { c with gapDue := c.gapDue ++ [g] })

/-- The run of producer p in reel n goes on to tick k, or one that is over gives way to a run that begins there (R194). -/
def State.gapNote (s : State) (n p k : Nat) : State :=
  let s := match s.reel n with
    | some r => if r.gaps.any (fun g => g.1 == p && (g.2.2 + 1 < k || k < g.2.1)) then s.gapEnd r p else s
    | none => s
  match s.reel n with
  | none => s
  | some r =>
    let first := ((r.gaps.find? (fun g => g.1 == p)).map (·.2.1)).getD k
    s.setReel { r with gaps := r.gaps.filter (fun g => g.1 != p) ++ [(p, first, k)] }

/-- n bytes discarded for reel r. -/
def State.reelDisc (s : State) (r n : Nat) : State :=
  match s.reel r with
  | some x => s.setReel { x with disc := x.disc + n }
  | none => s

/-- Item x is not recorded (R194): under DISCARD its bytes count in REEL_DISC and its tick joins its producer's run; else it is
a record packet, counted in REC_DISC. What of it was written is no packet any more. -/
def State.discardItem (s : State) (x : QItem) : State :=
  let drop := match s.reel x.reel with | some r => r.policy == 1 | none => false
  let s := s.setItem { x with cab := false, disc := drop }
  let s := s.cabUpd (fun c => { c with pkts := c.pkts.filter (fun p : PktRef => !(p.pid == x.pid && p.prod == x.prod)) })
  let s : State := { s with evb := { s.evb with r := s.evb.r.map (fun e => { e with
    ring := e.ring.filter (fun w : RingW => w.pid != some x.pid) }) } }
  if drop then (s.reelDisc x.reel (x.len - x.cabDone)).gapNote x.reel x.prod x.pid.tick else s.bump .cab_REC_DISC 0

/-- The word of item x the writer takes next: the first it does not wholly have, complete or of a closed packet (R177). -/
def QItem.nextWord (x : QItem) : Option FWord :=
  (x.words.find? (fun w => w.done < w.data.length)).filter (fun w => x.whole w)

/-- The writer has k bytes more of word w of item x. -/
def QItem.took (x : QItem) (w : FWord) (k : Nat) : QItem :=
  { x with cabDone := x.cabDone + k, words := x.words.map (fun y : FWord => if y.no == w.no then { y with done := y.done + k } else y) }

/-- The last k bytes of the slot of a pair lie in lines that are to read as poison (R182). -/
def State.slotBad (s : State) (prod reel k : Nat) : State :=
  match s.slotOf prod reel with
  | some w =>
    let a := (w.data.length - k) / 64
    let b := (w.data.length + 63) / 64
    s.setSlot { w with bad := w.bad ++ (List.range (b - a)).map (a + ·) }
  | none => s

/-- The writer has all of a closed item: it is recorded, with its length. -/
def State.wholeTaken (s : State) (i : Nat) : State :=
  match s.item i with
  | some x => if x.cab && !x.open_ && x.len ≤ x.cabDone then (s.setItem { x with cab := false }).pktLen x.pid x.prod x.len else s
  | none => s

/-- The turn of item x's producer is over once the writer has the whole of word w, k bytes more of which it has now (R179). -/
def State.turnOver (s : State) (x : QItem) (w : FWord) (k : Nat) : State :=
  if 1 < x.cls && w.data.length ≤ w.done + k then s.queUpd (fun q => { q with turn := x.prod }) else s

/-- Word w of item x, or what of it the present group takes, goes to the writer; none when it cannot go on. -/
def State.takeBytes (s : State) (x : QItem) (w : FWord) : Option State :=
  match s.reel x.reel with
  | none => some (s.setItem { x with cab := false })
  | some r =>
    match s.cabPut x.reel x.prod x.pid (x.cabDone == 0) (w.data.drop w.done) with
    | none =>
      let s := s.reelFull r.n
      if x.cls == 1 || r.policy == 1 then some (s.discardItem x) else none
    | some (_, 0) => none
    | some (s, k) =>
      let s := match s.reel x.reel with
        | some r => if x.cabDone == 0 then s.gapEnd r x.prod else s
        | none => s
      some ((((s.setItem (x.took w k)).when w.bad (fun s => s.slotBad x.prod x.reel k)).turnOver x w k).wholeTaken x.id)

/-- The next word of item x taken by the writer; none when it cannot go on. -/
def State.takeWord (s : State) (x : QItem) : Option State :=
  if !x.cab then none
  else match x.nextWord with
    | some w => s.takeBytes x w
    | none => if x.open_ || x.cabDone < x.len then none else some (s.wholeTaken x.id)

/-- The items whose turn it is, in the writer's order (R177, R179): of each producer the oldest it has not wholly taken; QC0 and QC1
ahead, then round the producers from behind the one served last. -/
def State.turns (s : State) : List QItem :=
  let l := (List.range 24).filterMap (fun i => s.que.items.find? (fun x => x.prod == (s.que.turn + 1 + i) % 24 && x.cab))
  l.filter (fun x => x.cls ≤ 1) ++ l.filter (fun x => 1 < x.cls)

/-- The writer's next word: the first of those items it can go on with. A word split at the end of a group is one turn: the producer keeps
its turn until the writer has the rest. -/
def State.pullOne (s : State) : Option State := s.turns.findSome? s.takeWord

/-- The writer takes words as long as it can. -/
def State.pullN (s : State) : Nat → State
  | 0 => s
  | n + 1 => match s.pullOne with
    | none => s
    | some s => State.pullN s n

/-- The writer takes every word it can, then freed words and items leave. -/
def State.cabPull (s : State) : State :=
  let n := (s.que.items.filter (fun x : QItem => x.cab)).foldl (fun a x => a + x.len / 8 + 4) 0
  (s.pullN n).sweep

/-- The mode word in force in region r at tick k, and the epoch. -/
def State.recOf (s : State) (r : Fin 16) (k : Nat) : Option Rec := (s.evb.r[r]).recs.find? (fun x => x.k == k)
/-- The region was aborted in tick k. -/
def State.cutAt (s : State) (r : Fin 16) (k : Nat) : Bool := ((s.recOf r k).map (·.cut)).getD false
def State.modeAt (s : State) (r : Fin 16) (k : Nat) : Nat := ((s.recOf r k).map (·.mode)).getD (s.mode r)
def State.epochAt (s : State) (r : Fin 16) (k : Nat) : Nat := ((s.recOf r k).map (·.epoch)).getD (s.rd .seq_CFG_EPOCH)

/-- The reel of a packet of an own producer with mode word m at its tick (R190). -/
def State.reelOf (s : State) (kind m : Nat) : Nat :=
  if kind = 0 && bit m mWindow then s.rd .trg_WIN_REEL else s.rd .cab_STREAM_REEL kind

/-! ### Packets (R172, R175, R176, R178) -/

/-- Item x put into the fabric with no bytes yet: its first lane follows the source's last packet or, in the narrow form, begins a
word (R172). -/
def State.addItem (s : State) (x : QItem) : State :=
  let p := s.que.pos[x.pack]
  let no := if x.narrow then (p + 7) / 8 else p / 8
  let cap := if x.narrow then s.lanes x.pack no true else 255 - (2 ^ (p % 8) - 1)
  let x := { x with words := [{ no := no, cap := cap, off := 0, gone := if x.narrow then 0 else 255 - cap }], first := no, next := no + 1, used := b2n x.narrow * 64 }
  s.queUpd (fun q => { q with items := q.items ++ [x], next := q.next + 1 })

/-- Bytes laid behind those of item x; what is written of a discarded item counts (R194). -/
def State.layItem (s : State) (x : QItem) (b : List Nat) : State :=
  (s.setItem (x.put (fun n => s.lanes x.pack n x.narrow) b)).when x.disc (fun s => s.reelDisc x.reel b.length)

/-- The lane behind an item's last byte. -/
def QItem.stop (x : QItem) : Nat :=
  match x.words.getLast? with
  | some w => if x.narrow then 8 * w.no + 8 else 8 * w.no + Nat.log2 (2 * w.tag)
  | none => 8 * x.next

/-- Item i is closed: the source's next packet follows it, and the unused part of its reservation goes back, to the shared pool
first. -/
def State.shutItem (s : State) (i : Nat) : State :=
  match s.item i with
  | none => s
  | some x =>
    let excess := x.own + x.shared - x.used
    let b := min excess x.shared
    let a := min (excess - b) x.own
    let s := (s.setItem { x with open_ := false, patch := false, own := x.own - a, shared := x.shared - b, since := s.clock }).queUpd
      (fun q => { q with pos := q.pos.set x.pack x.stop })
    s.useArea (srcFin x.src) x.cls (-(a : Int)) (-(b : Int))

/-- A packet opens: a grant of the producer's own area and a patch entry are there (R175); the item and the state, or none. up and eth say where else it goes. -/
def State.openItem (s : State) (src cls : Nat) (pid : PktId) (prod reel : Nat) (up eth : Bool) (head : List Nat) :
    Option (State × Nat) :=
  if 64 ≤ s.patchUsed || s.ownFree (srcFin src) cls < grantBytes then none
  else
    let x : QItem := {
      id := s.que.next, src := src, cls := cls, pid := pid, words := [], first := 0, next := 0, open_ := true, own := grantBytes,
      patch := true, narrow := s.narrow, since := s.clock, prod := prod, reel := reel, up := up, eth := eth }
    let s := (s.addItem x).useArea (srcFin src) cls grantBytes 0
    some (((s.item x.id).elim s (fun x => s.layItem x head)).cabPull, x.id)

/-- A whole item that goes to ETH and matches no QP is not delivered (R281). -/
def State.ethMatch (s : State) (i : Nat) : State :=
  match s.item i with
  | none => s
  | some x =>
    if x.eth && !x.open_ && (s.qpOf x).isNone then (s.setItem { x with eth := false }).bump .eth_NO_QP 0 else s

/-- Bytes written behind an open item's, and the writer takes what is complete. -/
def State.writeItem (s : State) (i : Nat) (bytes : List Nat) : State :=
  match s.item i with
  | none => s
  | some x => (s.layItem x bytes).cabPull

/-- Item i closes with its final bytes (R176): the slot is filled in place and, where the writer has its word, by a patch of its 4
bytes. Flags of the header that the close decides change in the fabric alone (DEDUCED, log entry 160). -/
def State.closeItem (s : State) (i : Nat) (data : List Nat) (trunc : Bool) : State :=
  match s.item i with
  | none => s
  | some x =>
    let late := 4 ≤ x.cabDone && x.patch && x.cab
    let s := s.layItem { x.poke 0 (data.take 8) with trunc := trunc } (data.drop x.len)
    let s := s.queUpd (fun q => { q with
      patches := if late then q.patches ++ [⟨x.pid, x.prod, ofBytesLE (data.take 4)⟩] else q.patches })
    (((s.when late (fun s => s.bump .que_PATCH_CNT 0)).shutItem i).ethMatch i).cabPull

/-- A closed packet put into the fabric with the reservation x has: its bytes laid down, the rest given back. -/
def State.placeItem (s : State) (x : QItem) (data : List Nat) : State :=
  let s := s.addItem { x with open_ := true }
  (((((s.item x.id).elim s (fun x => s.layItem x data)).shutItem x.id).ethMatch x.id).holdMark).cabPull

/-- The bytes of words a packet of n bytes needs in a form (R174). -/
def State.formBytes (s : State) (narrow : Bool) (n : Nat) : Nat :=
  let lost := s.que.laneOut.toList.foldl (fun a m => max a (popCount m 8)) 0
  if narrow then ceilDiv n (64 - 8 * lost) * 64 else n

/-- The grants a packet of n bytes needs in the form in force. -/
def State.grantsOf (s : State) (n : Nat) : Nat := ceilDiv (s.formBytes s.narrow n) grantBytes

/-- A whole packet put into the fabric at once: one from a downlink (table Queues-1's sources 17 to 20), or one read back from the
cabinet; none when there is no room. -/
def State.putItem (s : State) (x : QItem) (data : List Nat) : Option (State × Nat) :=
  match s.grantsFor (srcFin x.src) x.cls (s.grantsOf data.length) with
  | none => none
  | some g =>
    let x := { x with id := s.que.next, own := g.1, shared := g.2, narrow := s.narrow, since := s.clock }
    some ((s.useArea (srcFin x.src) x.cls g.1 g.2).placeItem x data, x.id)

/-- A packet of the cabinet's read-back path (QC4): its USE, and where it goes (R171, R198). -/
def backItem (pid : PktId) (use : Nat) (up eth : Bool) (qp : Option Nat) : QItem :=
  { id := 0, src := srcBack, cls := 4, pid := pid, words := [], first := 0, next := 0, open_ := false, cab := false, up := up, eth := eth,
    use_ := use, qp := qp }

/-- A packet wholly in its reel. -/
def State.stored (s : State) (p : PktId) : Option PktRef :=
  if s.que.items.any (fun x => x.pid == p && x.cab) then none else s.cab.pkts.find? (fun r => r.pid == p)

/-- PATCH_ACCEPT: the oldest slot patch goes to CAB, when its merge buffer takes it (R176, R196). -/
def State.patchAccept (s : State) : State :=
  match s.que.patches with
  | [] => s
  | p :: l =>
    match s.patchIn p.pid p.prod p.val with
    | none => s
    | some s => (s.queUpd (fun q => { q with patches := l })).queRegs

/-! ### Offering (R179) -/

/-- The order key of a closed item. -/
def PktId.key (p : PktId) : List Nat := [p.tick, p.mod_, p.region, p.kind, p.seq]

/-- Lexicographic order of keys. -/
def keyLt : List Nat → List Nat → Bool
  | a :: l, b :: m => a < b || (a == b && keyLt l m)
  | _, _ => false

/-- The first of a list by a strict order. -/
def leastBy {α : Type} (lt : α → α → Bool) : List α → Option α
  | [] => none
  | a :: l => match leastBy lt l with
    | none => some a
    | some b => if lt b a then some b else some a

/-- The next item offered to a consumer whose waiting items are l, n items of higher classes having gone before a waiting
lower one (R179). -/
def State.offer (s : State) (l : List QItem) (n : Nat) : Option QItem :=
  let best := leastBy (fun a b : QItem => a.cls < b.cls || (a.cls == b.cls && keyLt a.pid.key b.pid.key)) l
  match best with
  | none => none
  | some b =>
    let low := l.foldl (fun c x => max c x.cls) b.cls
    if s.rd .que_STARVE_LIMIT ≤ n && b.cls < low then leastBy (fun a c : QItem => a.since < c.since) (l.filter (fun x => x.cls == low))
    else some b

/-- The items waiting for the uplink, and for ETH. -/
def State.upItems (s : State) : List QItem := s.que.items.filter (fun x : QItem => !x.open_ && x.up)
def State.ethItems (s : State) : List QItem := s.que.items.filter (fun x : QItem => !x.open_ && x.eth)

/-- The item the uplink, or ETH, is offered next. -/
def State.nextUp (s : State) : Option QItem := s.offer s.upItems s.que.starveUp
def State.nextEth (s : State) : Option QItem := s.offer s.ethItems s.que.starveEth

/-- An item of class c goes to the uplink: counted while one of a lower class waits there, else the count is 0 again (R179). -/
def State.starveCount (s : State) (c : Nat) : State :=
  let low := s.upItems.any (fun y => y.upDone == 0 && c < y.cls)
  s.queUpd (fun q => { q with starveUp := if low then q.starveUp + 1 else 0 })

/-- The uplink has taken item x up to byte n; its words taken are freed (R178). -/
def State.tookUp (s : State) (x : QItem) (n : Nat) : State :=
  ((s.when (x.upDone == 0) (fun s => s.starveCount x.cls)).setItem { x with up := x.up && decide (n < x.len), upDone := n }).sweep

/-- ETH has taken item x. -/def State.tookEth (s : State) (x : QItem) : State :=
  let low := s.ethItems.any (fun y => x.cls < y.cls)
  ((s.setItem { x with eth := false }).queUpd (fun q => { q with starveEth := if low then q.starveEth + 1 else 0 })).sweep

/-! ### Word protection (R181, R182) -/

/-- Recordable bytes o to o + n - 1 of extent q, written by a producer, are to read as poison: their lines are marked in the assembler, or
written over in the store, in the order of R197 (R182). -/
def State.poisonIn (s : State) (r : Reel) (prod q o n : Nat) : State :=
  let gb := (s.reelShelf r).gb
  let lines := (List.range ((64 + o + n + 63) / 64 - (64 + o) / 64)).map ((64 + o) / 64 + ·)
  s.each lines (fun y s =>
    match s.slotOf prod r.n with
    | some w =>
      if w.ext == q && w.grp == 64 * y / gb then s.setSlot { w with bad := w.bad ++ [64 * y % gb / 64] }
      else s.poisonNow (s.extLine r q (64 * y)).2.1
    | none => s.poisonNow (s.extLine r q (64 * y)).2.1)

/-- Bytes a to a + n - 1 of a stored packet are to read as poison: those of the extent it starts in, and those it goes on with in the
producer's next. -/
def State.poisonAt (s : State) (p : PktRef) (a n : Nat) : State :=
  match s.reel p.reel with
  | none => s
  | some r =>
    let o := p.off + a
    let k := min n (extBytes - o)
    let s := if k = 0 then s else s.poisonIn r p.prod p.ext o k
    if k = n then s
    else match r.live.find? (fun x => x.prod == p.prod && x.prev == some p.ext) with
      | some x => s.poisonIn r p.prod x.seq (o + k - extBytes) (n - k)
      | none => s

/-- A word of item x passed to the writer as poison: marked where the writer has not yet taken it, else written over where it lies
(R182). -/
def State.poisonWord (s : State) (x : QItem) (w : FWord) : State :=
  let s := s.setItem { x with words := x.words.map (fun y : FWord => if y.no == w.no then { y with bad := true } else y) }
  if w.done = 0 then s
  else match s.cab.pkts.find? (fun p => p.pid == x.pid && p.prod == x.prod) with
    | some p => s.poisonAt p w.off w.done
    | none => s

/-- What a read of item x that cannot be corrected does, w its word (R182). -/
def State.fabricBad (s : State) (x : QItem) (w : Option FWord) : State :=
  let s := (s.bump .que_UNCORR 0).wrB .que_UNCORR_SEEN 0 true
  let s := s.detect clsQueue 1 unitModule (some (0x0A01, x.pid.seq % 2 ^ 32 + x.pid.stream <<< 32 + (x.pid.tick % 2 ^ 24) <<< 40))
    (some (0x0A02, x.pid.mod_ + (x.pid.tick / 2 ^ 24 % 2 ^ 24) <<< 32))
  let s := w.elim s (fun w => s.poisonWord x w)
  ((s.item x.id).elim s (fun x => s.holdItem x)).sweep

/-- A lane of the word at address a of the fabric as R207 tracks it: rows of 32 words, and of a word its lanes (DESIGN CHOICE, log entry
75). -/
def fabHit (a : Nat) (lane : Fin 8) : SramHit :=
  { mac := .fabric, row := .ofNat 16 (a / 32), word := .ofNat 8 (8 * (a % 32) + lane), uncorr := false, loadFails := false }

/-- The tag of that word, in rows of their own from 32,768 on (DESIGN CHOICE, log entry 75). -/
def tagHit (a : Nat) : SramHit :=
  { mac := .fabric, row := .ofNat 16 (32768 + a / 32), word := .ofNat 8 (a % 32), uncorr := false, loadFails := false }

/-- FABRIC_WORD_READ: word n of item i is read, counted from its first (R181, R182). A correction counts toward its row's repair
(R207); a bad tag costs nothing more, since the packet's extent is known from its LEN_SLOT. -/
def State.fabricRead (s : State) (i n : Nat) (res : WordRead) : State :=
  let at_ (x : QItem) : Option FWord := x.words.find? (fun w => w.no == x.first + n)
  let fixed (f : Nat → SramHit) : State :=
    let s := s.bump .que_CORR 0
    (s.item i).elim s (fun x => (at_ x).elim s (fun w => s.sramFixed (f (fabAddr x.pack w.no))))
  match res with
  | .good => s
  | .corrected lane => fixed (fun a => fabHit a lane)
  | .correctedTag => fixed tagHit
  | .uncorrectable => (s.item i).elim s (fun x => s.fabricBad x (at_ x))
  | .badTag => (s.item i).elim s (fun x => s.fabricBad x (at_ x))

end Sys2Proof.Machine
end

