-- ==== Sys2Proof/Machine/Sched.lean ====
section
/-! DEFINITION. The tick schedule: the instant of each tick, and the tick that holds an instant (R10, R55). -/

namespace Sys2Proof.Machine

open Sys2Proof

/-! ### Placement (R10) -/

/-- The instant of tick k under a schedule, in fu of TB time: on the nearest fu, a half going later. -/
def Seg.time (g : Seg) (k : Nat) : Int := g.epoch + roundHalfUp (((k : Int) - g.base) * (g.num * secFu : Nat)) g.den

/-- The last tick of a schedule whose instant is at or before h. -/
def Seg.tick (g : Seg) (h : Int) : Nat :=
  ((g.base : Int) + ((2 * (h - g.epoch) + 1) * g.den - 1) / (2 * (g.num * secFu : Nat) : Nat)).toNat

/-- The instant of tick k: the schedules stand newest first. -/
def segTime : List Seg → Nat → Int
  | [], _ => 0
  | [g], k => g.time k
  | g :: l, k => if g.first ≤ k then g.time k else segTime l k

/-- The tick that holds the TB time h. -/
def segTick : List Seg → Int → Nat
  | [], _ => 0
  | [g], h => g.tick h
  | g :: l, h => if g.time g.first ≤ h then g.tick h else min (segTick l h) (g.first - 1)

/-- The instant of tick k in fu of TB time, and the tick TB time h is assigned to (R55). -/
def State.tickTime (s : State) (k : Nat) : Int := segTime s.seq.segs k
def State.tickOf (s : State) (h : Int) : Nat := segTick s.seq.segs h

/-- An instant of TB time on the coarse scale. -/
def State.coarseOf (s : State) (h : Int) : Int := h - s.tbs.base

/-- A tick schedule is running. -/
def State.running (s : State) : Bool := s.flag .seq_TICK_RUN

/-- The tick that begins at the next boundary: the present one's successor, or the first of a schedule that comes before it. -/
def State.nextTick (s : State) : Nat :=
  let n := s.seq.k + 1
  match s.seq.segs with
  | g :: _ => if n < g.first && g.time g.first ≤ s.tickTime n then g.first else n
  | [] => n

/-- The coarse edge at which the counters swap for the next tick has passed (R36): the first one at or after its instant. -/
def State.swapDue (s : State) : Bool := s.running && decide (s.tickTime s.nextTick ≤ s.tbNow)

end Sys2Proof.Machine
end

