-- ==== Sys2Proof/Machine/Tdc.lean ====
section
/-! DEFINITION. TDC: resolving raw captures, capture windows, cluster queues, readout and background calibration
(R48 to R66, R68). -/

namespace Sys2Proof.Machine

open Sys2Proof

/-! ### Resolution (R50 to R53) -/

/-- The valid phase pattern of sector p: phases p-3 to p high, mod 8. -/
def sectorPattern (p : Nat) : Nat := (List.range 4).foldl (fun a k => a + 2 ^ ((p + 8 - k) % 8)) 0

/-- The number of phases in which a pattern differs from sector p's. -/
def sectorDist (therm p : Nat) : Nat := popCount (therm ^^^ sectorPattern p) 8

/-- The sectors whose pattern is nearest. -/
def tiedSectors (therm : Nat) : List Nat :=
  let m := (List.range 8).foldl (fun a p => min a (sectorDist therm p)) 8
  (List.range 8).filter (fun p => sectorDist therm p == m)

/-- The gap round the circle from the tied sector before x to x. -/
def gapInto (tied : List Nat) (x : Nat) : Nat :=
  ((List.range 8).map (· + 1)).find? (fun g => tied.contains ((x + 16 - g) % 8)) |>.getD 8

/-- The sector of a phase pattern (R50): the nearest; of tied ones, the one that ends the largest gap, then the lowest. -/
def sectorOf (therm : Nat) : Nat :=
  let tied := tiedSectors therm
  let g := tied.foldl (fun a x => max a (gapInto tied x)) 0
  (tied.find? (fun x => gapInto tied x == g)).getD 0

/-- The pattern is one of the eight valid ones. -/
def thermValid (therm : Nat) : Bool := (List.range 8).any (fun p => therm == sectorPattern p)

/-- The coarse count by the latch furthest from its own increment (R51), modulo 2^20. -/
def coarseOf (p c0 c4 : Nat) : Nat :=
  if p ≤ 1 then (c4 + 1) % 2 ^ 20 else if 6 ≤ p then c4 else c0

/-- The vernier step: V_RAW - 2, or 8 for a code fault (R52, R53). -/
def vernier (vraw : Nat) : Int := if 20 ≤ vraw then 8 else (vraw : Int) - 2

/-- A raw capture resolved: coarse count modulo 2^20, raw bin, code fault, and whether the pattern was repaired. -/
def resolve (raw : RawCapture) : Nat × Nat × Bool × Bool :=
  let th := raw.therm.toNat
  let p := sectorOf th
  let c := coarseOf p raw.c0.toNat raw.c4.toNat
  let f : Int := 16 * p + vernier raw.vraw.toNat
  let (c, f) := if f < 0 then ((c + 2 ^ 20 - 1) % 2 ^ 20, f + 128)
                else if 128 ≤ f then ((c + 1) % 2 ^ 20, f - 128) else (c, f)
  (c, f.toNat, 20 ≤ raw.vraw.toNat, !thermValid th)

/-- The full coarse count of a 20-bit one, seen when the count is now (R59). -/
def extendCoarse (now c20 : Nat) : Nat := now - (now + 2 ^ 20 - c20 % 2 ^ 20) % 2 ^ 20

/-! ### Bin tables (R54, R62 to R65) -/

/-- The edges a group starts from when flash holds no valid table: 64 x k (R64). -/
def plainEdges : List Nat := (List.range 128).map (64 * ·)

/-- The factory table of group g of region r, or plain edges. -/
def factoryEdges (r g : Nat) : List Nat := (Config.factoryTable r g).getD plainEdges

/-- BIN_EDGE[k] of a table: 0 at 0 and 8,192 at 128, by definition (R54). -/
def edgeAt (tab : List Nat) (k : Nat) : Nat :=
  if k = 0 then 0 else if 128 ≤ k then 8192 else tab.getD k 0 % 8192

/-- The position in 1/64 fu of raw bin k: dithered by d (0 to 63), or the bin's centre (R54). -/
def binPos (tab : List Nat) (k : Nat) (dither : Option Nat) : Int :=
  let lo : Int := edgeAt tab k
  let hi : Int := edgeAt tab (k + 1)
  match dither with
  | some d => lo + (hi - lo) * (d : Int) / 64
  | none => lo + (hi - lo) / 2

/-- One step of a 16-bit shift register whose new bit is the parity of the tapped bits. -/
def lfsrStep (taps x : Nat) : Nat := (2 * x) % 2 ^ 16 + popCount (x &&& taps) 16 % 2

/-- n steps. -/
def lfsrRun (taps : Nat) : Nat → Nat → Nat
  | 0, x => x
  | n + 1, x => lfsrRun taps n (lfsrStep taps x)

/-- Taps that give the full period of 65,535 states: 65,535 steps lead back to the start, and none of its parts 3, 5, 17 and 257 does. -/
def lfsrMax (taps : Nat) : Bool :=
  lfsrRun taps 65535 1 == 1 && [3, 5, 17, 257].all (fun p => lfsrRun taps (65535 / p) 1 != 1)

/-- The taps of region r's dither generator: any that give a maximal length (R54; log entry 40). -/
def ditherTaps (r : Nat) : Nat :=
  if lfsrMax (Config.lfsrTaps r % 2 ^ 16) then Config.lfsrTaps r % 2 ^ 16 else 0xD008

/-- The state of region r's dither generator: its seed before the first capture (log entry 40). -/
def TdcR.lfsrNow (x : TdcR) (r : Nat) : Nat := if x.lfsr = 0 then Config.lfsrSeed r % 65535 + 1 else x.lfsr

/-- The corrected time in fu on the coarse scale (R54). -/
def correct (coarse : Nat) (pos : Int) (ofs : Int) : Int :=
  ((coarse : Int) * 8192 + pos - 64 * ofs + 32) / 64

/-- The measured edges of a closed batch (R61). -/
def measEdges (h : Sp) : List Nat :=
  ((List.range 128).foldl (fun (a : List Nat × Nat) k => (a.1 ++ [(a.2 + 64) / 128], a.2 + spGet h k 0)) ([], 0)).1

/-- The largest distance between measured edges and a table (R61). -/
def residOf (meas tab : List Nat) : Nat :=
  (List.range 128).foldl (fun a k => max a ((meas.getD k 0 : Int) - edgeAt tab k).natAbs) 0

/-- Every bin of a batch is 0.25 fu to 2.5 fu wide (R61). -/
def batchOk (h : Sp) : Bool := (List.range 128).all (fun k => 2048 ≤ spGet h k 0 && spGet h k 0 ≤ 20480)

/-- An edge moved toward its measurement by 1/2^A, rounded (R62). -/
def edgeToward (a : Nat) (edge meas : Nat) : Nat :=
  if a = 0 then meas else ((edge : Int) + ((meas : Int) - edge + (2 ^ (a - 1) : Nat)) / (2 ^ a : Nat)).toNat

/-- A batch closed on a group whose table in force is tab, averaged by A with the given jump limit and convergence
threshold (R61, R62); true when the group lost CALOK by it. A second batch that closes before the boundary is judged against the table in
force, and its table replaces the one that waits (DESIGN CHOICE, log entry 144). -/
def TdcGroup.closeBatch (g : TdcGroup) (tab : List Nat) (a jump conv : Nat) : TdcGroup × Bool :=
  let m := measEdges g.hist
  let rs := residOf m tab
  let e : TdcGroup := { g with hist := [], fill := 0, first := none, meas := m, resid := rs % 2 ^ 16 }
  if !batchOk g.hist then ({ e with rej := (e.rej + 1) % 2 ^ 16 }, false)
  else if !g.calok then ({ e with next := some m, nextOk := true, rejRun := 0, conv := rs ≤ conv }, false)
  else if rs ≤ jump then
    ({ e with next := some ((List.range 128).map (fun k => edgeToward a (edgeAt tab k) (m.getD k 0))), nextOk := false, rejRun := 0,
              conv := rs ≤ conv }, false)
  else
    let n := e.rejRun + 1
    ({ e with rej := (e.rej + 1) % 2 ^ 16, rejRun := min n 4, calok := n < 4 }, n == 4)

/-- A new table put in force at a boundary: CAL_GEN increments, and CALOK is set by a table measured while it was clear (R62). -/
def TdcGroup.boundary (g : TdcGroup) : TdcGroup :=
  match g.next with
  | none => g
  | some t => { g with table := some t, next := none, nextOk := false, calok := g.calok || g.nextOk, gen := (g.gen + 1) % 2 ^ 16 }

/-- A capture with raw bin k added to the batch (R60). -/
def TdcGroup.add (g : TdcGroup) (k now : Nat) : TdcGroup :=
  { g with hist := spSet g.hist k (spGet g.hist k 0 + 1) 0, fill := g.fill + 1,
           first := if g.fill = 0 then some now else g.first }

/-- A group at start-up or after CAL_RESET: factory table, CALOK clear, CAL_GEN 0, histogram discarded (R64). The shadow table that
BIN_SEL and BIN_DATA reach stays as it is (DESIGN CHOICE, log entry 145). -/
def TdcGroup.restart (g : TdcGroup) : TdcGroup :=
  { g with hist := [], fill := 0, first := none, table := none, next := none, nextOk := false, calok := false, conv := false,
           rejRun := 0, gen := 0 }

/-- A group on return from STANDBY: its table kept, CALOK clear, CAL_REJ_RUN 0, histogram discarded (R378). -/
def TdcGroup.resume (g : TdcGroup) : TdcGroup :=
  { g with hist := [], fill := 0, first := none, next := none, nextOk := false, calok := false, rejRun := 0 }

/-- The edges of a table whose none is the factory's. -/
def TdcGroup.edges (g : TdcGroup) (r k : Nat) : List Nat := g.table.getD (factoryEdges r k)

/-- A table CAL_LOAD accepts: edges strictly rising from at least 1, all below 8,192 (R65). -/
def loadable (tab : List Nat) : Bool :=
  (List.range 127).all (fun k => tab.getD (k + 1) 0 < 8192 && (if k = 0 then 1 ≤ tab.getD 1 0 else tab.getD k 0 < tab.getD (k + 1) 0))

/-! ### State access -/

def State.tdcR (s : State) (r : Fin 16) : TdcR := s.tdc.r[r]
def State.setTdcR (s : State) (r : Fin 16) (x : TdcR) : State := { s with tdc := { s.tdc with r := s.tdc.r.set r x } }
def State.group (s : State) (r g : Fin 16) : TdcGroup := (s.tdcR r).g[g]
def State.setGroup (s : State) (r g : Fin 16) (x : TdcGroup) : State :=
  s.setTdcR r { s.tdcR r with g := (s.tdcR r).g.set g x }
def State.auxCh (s : State) (c : Fin 4) : AuxCh := s.tdc.aux[c]
def State.setAux (s : State) (c : Fin 4) (x : AuxCh) : State := { s with tdc := { s.tdc with aux := s.tdc.aux.set c x } }

/-- The column group of a cluster's local index: 8 cluster columns each (R54, table Scope-4). -/
def groupOf (c : Nat) : Fin 16 := ⟨(c % 128) / 8, by omega⟩

/-- TDC_OFF in force of a cluster (R54). -/
def State.tdcOff (s : State) (r c : Nat) : Int :=
  sgn 9 (spGet s.tdc.offF (16384 * r + c) (Config.tdcOff (16384 * r + c) % 512))

/-! ### Calibration (R60 to R65) -/

/-- The batch of a group closed: the table is updated or the batch rejected; losing CALOK sends record 0x0301. -/
def State.calBatchClose (s : State) (r g : Fin 16) : State :=
  let x := s.group r g
  if x.fill = 2 ^ 20 then
    let (y, lost) := x.closeBatch (x.edges r g) (s.rd .tdcr_CAL_AVG r) (s.rd .tdcr_CAL_JUMP r) (s.rd .tdcr_CAL_CONV_THR r)
    let s := s.setGroup r g y
    if lost then s.emit 0x0301 (r + 16 * g + 256 * y.resid) else s
  else s

/-- The latest SYNC_IN edge at or before the uncorrected instant x, on the coarse scale (R60). -/
def State.lastSync (s : State) (x : Int) : Option Int := (s.auxCh 0).stamps.find? (· ≤ x)

/-- A capture passes the source selection CAL_SRC (table TDC-3); dark says that CAL_DARK stood as it was made. -/
def State.calSelect (s : State) (r : Fin 16) (coarse fine : Nat) (dark : Bool) : Bool :=
  match s.rd .tdcr_CAL_SRC r with
  | 0 => true
  | 1 =>
    let x : Int := (coarse : Int) * 128 + fine
    match s.lastSync x with
    | none => true
    | some y => (s.rd .tdcr_CAL_EXCL r : Int) ≤ x - y
  | 2 => dark
  | _ => false

/-- A capture taken into the batch of its group when R60 accepts it; one beyond 2^20 opens the next batch. -/
def State.calTake (s : State) (r : Fin 16) (e : Entry) : State :=
  if !e.test && !e.codeErr && !e.bad && s.calSelect r (extendCoarse s.coarse e.coarse20) e.fine e.dark then
    let s := s.calBatchClose r (groupOf e.cluster)
    s.setGroup r (groupOf e.cluster) ((s.group r (groupOf e.cluster)).add e.fine s.clock)
  else s

/-- A batch not closed CAL_TMAX seconds after its first capture is discarded (R63), one that CAL_SRC = 0b11 holds too (DESIGN CHOICE,
log entry 146). -/
def State.calBatchTimeout (s : State) (r g : Fin 16) : State :=
  let x := s.group r g
  let m := s.rd .tdcr_CAL_TMAX r
  match x.first with
  | none => s
  | some t0 =>
    if m != 0 && t0 + m * secFu ≤ s.clock then
      s.setGroup r g { x with hist := [], fill := 0, first := none, timeout := (x.timeout + 1) % 2 ^ 16 }
    else s

/-- The groups of region r that flash holds no valid factory table for. -/
def noFactory (r : Nat) : Nat :=
  (List.range 16).foldl (fun a g => if (Config.factoryTable r g).isNone then a + 2 ^ g else a) 0

/-- Every group of region r restarted from its factory table (R64); record 0x0302 names those that had none. -/
def State.calRestart (s : State) (r : Fin 16) : State :=
  let x := s.tdcR r
  let s := s.setTdcR r { x with g := x.g.map TdcGroup.restart, resetPend := false }
  if noFactory r != 0 then s.emit 0x0302 (r + (noFactory r) <<< 16) else s

/-- CAL_LOAD written: the shadow table of LOAD_GRP waits for the next boundary, or is rejected with CFG_ERR (R65). Table and LOAD_OK are
those of the write (DESIGN CHOICE, log entry 147). -/
def State.calLoad (s : State) (r : Fin 16) : State :=
  let k := s.rd .tdcr_LOAD_GRP r % 16
  let tab := ((s.tdcR r).g[k]'(Nat.mod_lt _ (by decide))).load.getD (factoryEdges r k)
  if loadable tab then
    (s.setTdcR r { s.tdcR r with loadPend := (s.tdcR r).loadPend.filter (fun p => p.1 != k) ++ [(k, s.flag .tdcr_LOAD_OK r, tab)] }).wrB .tdcr_CAL_LOAD_BUSY r true
  else s.wrB .tdcr_CFG_ERR r true

/-- CAL_RESET written: the tables restart at the next boundary (R64). -/
def State.calReset (s : State) (r : Fin 16) : State := s.setTdcR r { s.tdcR r with resetPend := true }

/-- A table loaded by CAL_LOAD put in force (R65). -/
def TdcGroup.loaded (g : TdcGroup) (ok : Bool) (tab : List Nat) : TdcGroup :=
  { g with table := some tab, next := none, nextOk := false, calok := ok, rejRun := 0, hist := [], fill := 0, first := none,
           gen := (g.gen + 1) % 2 ^ 16 }

/-- Group k of region r as its next boundary leaves it: a new table, then CAL_RESET, then CAL_LOAD (R62, R64, R65). -/
def State.groupNext (s : State) (r k : Fin 16) : TdcGroup :=
  let x := s.tdcR r
  let g := (s.group r k).boundary
  let g := if x.resetPend then g.restart else g
  match x.loadPend.find? (fun p => p.1 % 16 == k.val) with
  | some p => g.loaded p.2.1 p.2.2
  | none => g

/-- The group g as it was before the boundary x, kept in its successor for the captures still to be corrected with its table:
one table for all captures of one tick (R62). -/
def TdcGroup.keepPast (old g : TdcGroup) (x : Int) : TdcGroup :=
  let past := old.past.filter (fun p => decide (x < p.1 + (500 * usFu : Nat)))
  { g with past := if old.table = g.table && old.calok == g.calok then past else past ++ [(x, old.table, old.calok)] }

/-- The calibration work of region r at a boundary: new tables in force, then CAL_RESET, then CAL_LOAD. -/
def State.calBoundary (s : State) (r : Fin 16) : State :=
  let x := s.tdcR r
  let s := s.setTdcR r { x with g := x.g.map TdcGroup.boundary, codeErrTick := 0 }
  let s := if x.resetPend then s.calRestart r else s
  let s := s.each x.loadPend (fun p s =>
    let k : Fin 16 := ⟨p.1 % 16, Nat.mod_lt _ (by decide)⟩
    s.setGroup r k ((s.group r k).loaded p.2.1 p.2.2))
  let s := s.each (List.finRange 16) (fun k s => s.setGroup r k (x.g[k].keepPast (s.group r k) s.seq.start))
  (s.setTdcR r { s.tdcR r with loadPend := [] }).wrB .tdcr_CAL_LOAD_BUSY r false

/-- The TDC's work at a tick boundary or pacing instant: every region's and auxiliary channel's new tables. -/
def State.tdcTick (s : State) : State :=
  s.on .tdc (fun s =>
    let s := s.each (List.finRange 16) (fun r s => s.calBoundary r)
    let s := s.each (List.finRange 4) (fun c s =>
      let a := s.auxCh c
      s.setAux c { a with i0 := a.i0.boundary, i1 := a.i1.boundary })
    { s with tbs := { s.tbs with tt0 := s.tbs.tt0.map TdcGroup.boundary, tt1 := s.tbs.tt1.map TdcGroup.boundary } })

/-! ### Windows and queues (R56 to R58) -/

/-- The capture of a window, resolved. -/
def Win.entry (w : Win) : Entry :=
  let (c, f, ce, _) := resolve w.raw
  { cluster := w.cluster, t0 := w.t0, coarse20 := c, fine := f, pix := w.pix, mask := w.mask, multi := 2 ≤ w.edges,
    test := w.test, codeErr := ce, bad := w.bad, dark := w.dark }

/-- A code fault counted; the 1,025th within one tick raises a TDC fault of the region (R53). -/
def State.codeFault (s : State) (r : Fin 16) : State :=
  let x := s.tdcR r
  let s := ((s.bump .tdcr_CODE_ERR r).bump .tdc_CODE_ERR_ALL 0).setTdcR r { x with codeErrTick := x.codeErrTick + 1 }
  if x.codeErrTick + 1 = 1025 then s.detect clsTdc 1 (unitRegion r) else s

/-- A capture completed on a full queue is discarded and counted, of the region and of its group (R58). -/
def State.dropFull (s : State) (r : Fin 16) (c : Nat) : State :=
  let g := s.group r (groupOf c)
  (s.bump .tdcr_DROP_QFULL r).setGroup r (groupOf c) { g with drop := (g.drop + 1) % 2 ^ 16 }

/-- The window w of region r closes: its capture is resolved, counted, queued or dropped, and one queued is offered to calibration here,
ahead of its readout (R60; DESIGN CHOICE, log entry 199). -/
def State.closeWin (s : State) (r : Fin 16) (w : Win) : State :=
  let e := w.entry
  let rep := (resolve w.raw).2.2.2
  let x := s.tdcR r
  let s := s.setTdcR r { x with wins := x.wins.filter (fun v => v.cluster != w.cluster) }
  let s := { s with tdc := { s.tdc with caps := s.tdc.caps + 1, repairs := s.tdc.repairs + b2n rep } }
  let s := s.when rep (fun s => s.bump .tdcr_PH_AMBIG r)
  let s := s.when e.codeErr (fun s => s.codeFault r)
  if 4 ≤ (s.tdcR r).queue.countP (fun v => v.cluster == w.cluster) then s.dropFull r w.cluster
  else (s.setTdcR r { s.tdcR r with queue := (s.tdcR r).queue ++ [e] }).calTake r e

/-- The nominal length of a window and its tolerance, in fu (R57). -/
def winFu : Nat := 1600
def winTol : Nat := 16

/-- The open window of cluster c of region r. -/
def State.winOf (s : State) (r : Fin 16) (c : Nat) : Option Win := (s.tdcR r).wins.find? (fun w => w.cluster == c)

/-- An edge of pixel p on the combined line of cluster c (R39, R56): it joins the open window or opens one. -/
def State.tdcEdge (s : State) (r : Fin 16) (c p : Nat) (raw : RawCapture) (test : Bool) : State :=
  let s := match s.winOf r c with
    | some w => if w.t0 + winFu + winTol ≤ s.clock then s.closeWin r w else s
    | none => s
  let x := s.tdcR r
  match s.winOf r c with
  | some w =>
    let w' := { w with mask := w.mask ||| 2 ^ p, edges := w.edges + 1,
                       pix := if s.clock ≤ w.t0 + 8 ∧ p < w.pix then p else w.pix }
    s.setTdcR r { x with wins := x.wins.map (fun v => if v.cluster == c then w' else v) }
  | none =>
    if s.flag .tdcr_TDC_EN r then
      s.setTdcR r { x with wins := x.wins ++ [{ cluster := c, t0 := s.clock, raw := raw, pix := p, mask := 2 ^ p, edges := 1,
                                                test := test, bad := s.flag .tdc_CLK_BAD, dark := s.flag .tdcr_CAL_DARK r }] }
    else s

/-- CAPTURE_WINDOW_CLOSE: the window of cluster c closes once its 10 ns are over, within the tolerance of R57. -/
def State.windowClose (s : State) (r : Fin 16) (c : Nat) : State :=
  match s.winOf r c with
  | some w => if w.t0 + winFu ≤ s.clock + winTol then s.closeWin r w else s
  | none => s

/-! ### Readout (R59) -/

/-- The queued entry the round-robin readout of region r takes next. -/
def State.nextEntry (s : State) (r : Fin 16) : Option Entry :=
  let x := s.tdcR r
  let d (e : Entry) : Nat := (e.cluster + 16384 - x.rr) % 16384
  let m := x.queue.foldl (fun a e => min a (d e)) 16384
  x.queue.find? (fun e => d e == m)

/-- The entry e taken out of its queue; the readout goes on behind its cluster. -/
def State.takeEntry (s : State) (r : Fin 16) (e : Entry) : State :=
  let x := s.tdcR r
  s.setTdcR r { x with queue := x.queue.erase e, rr := (e.cluster + 1) % 16384 }

/-- An entry is too old at readout (R59). -/
def State.tooOld (s : State) (e : Entry) : Bool := e.t0 + 400 * usFu < s.clock

/-- The corrected time of an entry at its readout by the table of its tick, the CALOK of its event word, and the state with the
dither generator advanced (R54, R55, R62): the table lately replaced for a tick before the present one, and for the tick whose boundary is
still to be processed the table that boundary puts in force. TDC_OFF, REGION_OFS and DITHER_EN are those in force at the readout (DESIGN CHOICE, log
entry 200). -/
def State.correctEntry (s : State) (r : Fin 16) (e : Entry) : State × Int × Bool :=
  let x := s.tdcR r
  let g := s.group r (groupOf e.cluster)
  let d := x.lfsrNow r
  let di := if s.flag .tdcr_DITHER_EN r then some (d % 64) else none
  let at_ (tab : Option (List Nat)) : Int := correct (extendCoarse s.coarse e.coarse20)
    (binPos (tab.getD (factoryEdges r (groupOf e.cluster))) e.fine di) (s.tdcOff r e.cluster + s.rdS .tdcr_REGION_OFS r)
  let old := (g.past.find? (fun p => decide (at_ p.2.1 < p.1))).map (·.2)
  let next := s.groupNext r (groupOf e.cluster)
  let (tab, ok) := old.getD (if s.running && s.tickTime s.nextTick ≤ s.tbAt (at_ g.table) then (next.table, next.calok) else (g.table, g.calok))
  (s.setTdcR r { x with lfsr := lfsrStep (ditherTaps r) d }, at_ tab, ok && !e.codeErr && !e.bad)

/-! ### Auxiliary channels (R66) -/

/-- The instance of a channel that takes the stamps. -/
def AuxCh.cur (a : AuxCh) : TdcGroup := if a.inst = 0 then a.i0 else a.i1

/-- A channel's CALOK: both instances hold an accepted table. -/
def AuxCh.calok (a : AuxCh) : Bool := a.i0.calok && a.i1.calok

/-- The stamp of a raw capture of channel c on the coarse scale, AUX_OFS not applied; true for a code fault. Without a table yet the edges
stand at 64 x k; the centre of the bin is taken (R66; DESIGN CHOICE, log entry 197). -/
def State.auxStamp (s : State) (c : Fin 4) (raw : RawCapture) : Int × Bool :=
  let (c20, f, ce, _) := resolve raw
  (correct (extendCoarse s.coarse c20) (binPos ((s.auxCh c).cur.table.getD plainEdges) f none) 0, ce)

/-- The dead time of an auxiliary channel. -/
def auxDead : Nat := 512

/-- AUX_INSTANCE_SWAP: after 2^20 edges the other instance takes the stamps. -/
def State.auxSwap (s : State) (c : Fin 4) : State :=
  let a := s.auxCh c
  if 2 ^ 20 ≤ a.instEdges then s.setAux c { a with inst := 1 - a.inst, instEdges := 0 } else s

/-- A ring-oscillator batch with histogram h taken by a converter instance, when it holds 2^20 captures (R66). -/
def TdcGroup.ringBatch (g : TdcGroup) (h : Vector Nat 128) : TdcGroup :=
  if h.toList.foldl (· + ·) 0 = 2 ^ 20 then
    let hist : Sp := ((List.range 128).zip h.toList).filter (fun e => e.2 != 0)
    ({ g with hist := hist, fill := 2 ^ 20 }.closeBatch (g.table.getD plainEdges) Config.auxAvg Config.auxJump 0).1
  else g

/-- A ring-oscillator batch of instance k of auxiliary channel c. -/
def State.auxBatch (s : State) (c : Fin 4) (k : Fin 2) (h : Vector Nat 128) : State :=
  let a := s.auxCh c
  if k = 0 then s.setAux c { a with i0 := a.i0.ringBatch h } else s.setAux c { a with i1 := a.i1.ringBatch h }

/-- A ring-oscillator batch of instance k of the time-transfer converter of port p (R76, R78). -/
def State.ttBatch (s : State) (p : Fin 6) (k : Fin 2) (h : Vector Nat 128) : State :=
  if k = 0 then { s with tbs := { s.tbs with tt0 := s.tbs.tt0.set p ((s.tbs.tt0[p]).ringBatch h) } }
  else { s with tbs := { s.tbs with tt1 := s.tbs.tt1.set p ((s.tbs.tt1[p]).ringBatch h) } }

/-! ### Phase monitor (R68) -/

/-- One measurement of the phase monitor: CLK_BAD by its three conditions, cleared after 1,000 good measurements; setting
it with CLK_FAULT clear sets CLK_FAULT and raises a TDC fault of the module. -/
def State.phaseMonitor (s : State) (spacingBad pllLost : Bool) : State :=
  let many := s.tdc.caps < 100 * s.tdc.repairs
  let bad := spacingBad || pllLost || many
  let s := { s with tdc := { s.tdc with caps := 0, repairs := 0, pllLost := pllLost } }
  if bad then
    let was := s.flag .tdc_CLK_BAD
    let s := { s with tdc := { s.tdc with good := 0, badTick := true } }.wrB .tdc_CLK_BAD 0 true
    if !was && !s.flag .tdc_CLK_FAULT then (s.wrB .tdc_CLK_FAULT 0 true).detect clsTdc 2 unitModule else s
  else
    let n := s.tdc.good + 1
    let s := { s with tdc := { s.tdc with good := n } }
    if 1000 ≤ n then s.wrB .tdc_CLK_BAD 0 false else s

/-! ### TDC_OFF access (R54, table TDC-17) -/

/-- OFS_ADDR after an access to TDC_OFF. -/
def State.ofsNext (s : State) (r : Fin 16) : State :=
  if s.flag .tdcr_OFS_AUTO_INC r then s.wr .tdcr_OFS_ADDR r (s.rd .tdcr_OFS_ADDR r + 1) else s

/-- The key of the cluster OFS_ADDR selects. -/
def State.ofsKey (s : State) (r : Fin 16) : Nat := 16384 * r + s.rd .tdcr_OFS_ADDR r

/-- The TDC_OFF word selected, from the shadow (inForce false) or in force. -/
def State.ofsGet (s : State) (r : Fin 16) (inForce : Bool) : Nat :=
  let k := s.ofsKey r
  spGet (if inForce then s.tdc.offF else s.tdc.offS) k (Config.tdcOff k % 512)

/-- A write to TDC_OFF: into the shadow, whose page turns dirty; OFS_ADDR advances. -/
def State.ofsWrite (s : State) (r : Fin 16) (v : Nat) : State :=
  let k := s.ofsKey r
  (({ s with tdc := { s.tdc with offS := spSet s.tdc.offS k (v % 512) (Config.tdcOff k % 512) } }).wrB .hdr_SHADOW_DIRTY
    (17 * Blk.tdc.idx + 1 + r) true).ofsNext r

/-- Open windows and queued captures of region r, discarded by an abort and counted once each (R47, R70). -/
def State.dropWins (s : State) (r : Fin 16) : State :=
  let n := (s.tdcR r).wins.length
  (s.setTdcR r { s.tdcR r with wins := [] }).bump .tdcr_DROP_ABORT r n

def State.dropQueue (s : State) (r : Fin 16) : State :=
  let n := (s.tdcR r).queue.length
  (s.setTdcR r { s.tdcR r with queue := [] }).bump .tdcr_DROP_ABORT r n

/-! ### Meanings -/

/-- CAPTURE_WINDOW_CLOSE. -/
def execCaptureWindowClose (t : Nat) (r : Fin 16) (c : Fin 16384) (s : State) : Host.Outcome State Fault Refusal :=
  run t (fun s => s.on .tdc (fun s => s.windowClose r c)) s

/-- CAL_BATCH_CLOSE: of a column group's own histogram, or of an auxiliary instance's ring-oscillator batch. -/
def execCalBatchClose (t : Nat) (b : CalBatch) (s : State) : Host.Outcome State Fault Refusal :=
  run t (fun s => s.on .tdc (fun s =>
    match b with
    | .group r g => s.calBatchClose r g
    | .aux c k h => s.auxBatch c k h
    | .timeTransfer p k h => s.ttBatch p k h)) s

/-- CAL_BATCH_TIMEOUT. -/
def execCalBatchTimeout (t : Nat) (r g : Fin 16) (s : State) : Host.Outcome State Fault Refusal :=
  run t (fun s => s.on .tdc (fun s => s.calBatchTimeout r g)) s

/-- CAL_RESET: a 1 written to CAL_RESET of region r. -/
def execCalReset (t : Nat) (r : Fin 16) (s : State) : Host.Outcome State Fault Refusal :=
  run t (fun s => s.on .tdc (fun s => s.calReset r)) s

/-- CAL_LOAD: a 1 written to CAL_LOAD of region r. -/
def execCalLoad (t : Nat) (r : Fin 16) (s : State) : Host.Outcome State Fault Refusal :=
  run t (fun s => s.on .tdc (fun s => s.calLoad r)) s

/-- TDC_OFF_ACCESS: a write (some) or a read (none) of TDC_OFF of region r. -/
def execTdcOffAccess (t : Nat) (r : Fin 16) (w : Option (BitVec 32)) (s : State) : Host.Outcome State Fault Refusal :=
  run t (fun s => s.on .tdc (fun s =>
    match w with
    | some v => s.ofsWrite r v.toNat
    | none => { s with lastRead := s.ofsGet r (s.flag .tdcr_OFS_VIEW r) }.ofsNext r)) s

/-- AUX_INSTANCE_SWAP. -/
def execAuxInstanceSwap (t : Nat) (ch : Fin 4) (s : State) : Host.Outcome State Fault Refusal :=
  run t (fun s => s.on .tdc (fun s => s.auxSwap ch)) s

/-- PHASE_MONITOR: one measurement, a spacing out of bounds or not, the PLL's lock lost or not. -/
def execPhaseMonitor (t : Nat) (spacingBad pllLost : Bool) (s : State) : Host.Outcome State Fault Refusal :=
  run t (fun s => s.on .tdc (fun s => s.phaseMonitor spacingBad pllLost)) s

end Sys2Proof.Machine
end

