-- ==== Sys2Proof/Machine/Cmp.lean ====
section
/-! DEFINITION. CMP: the engines, their packets and histories, stalls, forced closes, context access, and the record packer
(R144, R145, R153 to R168). -/

namespace Sys2Proof.Machine

open Sys2Proof

def State.cmpR (s : State) (r : Fin 16) : CmpR := s.cmp.r[r]
def State.setCmpR (s : State) (r : Fin 16) (x : CmpR) : State := { s with cmp := { s.cmp with r := s.cmp.r.set r x } }

/-! ### Frame heads in the making (R127) -/

def State.evbR (s : State) (r : Fin 16) : EvbR := s.evb.r[r]
def State.setEvbR (s : State) (r : Fin 16) (x : EvbR) : State := { s with evb := { s.evb with r := s.evb.r.set r x } }

/-- The head of tick k of region r changed. -/
def State.upRec (s : State) (r : Fin 16) (k : Nat) (f : Rec → Rec) : State :=
  let x := s.evbR r
  s.setEvbR r { x with recs := x.recs.map (fun c : Rec => if c.k == k then f c else c) }

/-- Bits of HEAD_FLAGS of tick k set (table Events-5). -/
def State.headFlag (s : State) (r : Fin 16) (k b : Nat) : State := s.upRec r k (fun c => { c with flags := c.flags ||| 2 ^ b })

def hfOverrun : Nat := 0
def hfSlip : Nat := 1
def hfStep : Nat := 2
def hfBiasOk : Nat := 3
def hfFrozen : Nat := 4
def hfClkBad : Nat := 5
def hfTest : Nat := 6
def hfPartial : Nat := 7
def hfHeld : Nat := 8
def hfFinal : Nat := 9
def hfTrunc : Nat := 10
def hfZs : Nat := 11
def hfEarly : Nat := 12
def hfWrap : Nat := 13

/-- TICK_SLIP in the heads not yet given of tick k and the ticks behind it (R12). -/
def State.slipHeads (s : State) (k : Nat) : State :=
  s.each (List.finRange 16) (fun r s =>
    let x := s.evbR r
    s.setEvbR r { x with recs := x.recs.map (fun c : Rec =>
      if k ≤ c.k && !c.emitted then { c with flags := c.flags ||| 2 ^ hfSlip } else c) })

/-! ### The ring reel's words (R140) -/

/-- Region r's words of the ring reel changed. -/
def State.ringUpd (s : State) (r : Fin 16) (f : List RingW → List RingW) : State :=
  s.setEvbR r { s.evbR r with ring := f (s.evbR r).ring }

/-- The first of a list that p holds of changed. -/
def mapFirst {α : Type} (p : α → Bool) (f : α → α) : List α → List α
  | [] => []
  | a :: l => if p a then f a :: l else a :: mapFirst p f l

/-- Word w of reference tick ref lies in packet pid now. -/
def State.ringPut (s : State) (r : Fin 16) (w ref : Nat) (pid : PktId) : State :=
  s.ringUpd r (mapFirst (fun x : RingW => x.pid.isNone && x.w == w && x.ref == ref) (fun x => { x with pid := some pid }))

/-- Words not in a packet yet that never get into one, those of reference ticks f, are in no reel. -/
def State.ringDrop (s : State) (r : Fin 16) (f : Nat → Bool) : State :=
  s.ringUpd r (fun l => l.filter (fun x => x.pid.isSome || !f x.ref))

/-- The packet that holds region r's first word due to a window read back from the reel and put into the fabric as a QC4 item; none while
there is none, it is not in its reel yet, or QC4 has no room. The reader selects the window's words in it by h (R140, R192, R198; DESIGN
CHOICE, log entry 206). -/
def State.winNext (s : State) (r : Fin 16) : Option State :=
  match ((s.evbR r).ring.find? (·.due)).bind (·.pid) with
  | none => none
  | some p =>
    match s.stored p with
    | none => none
    | some q =>
      let tk := ((s.evbR r).wins.getLast?).map (·.take)
      let (t, d) := s.deliverPkt q tk
      let i := backItem p 3 (bit (s.rd .que_ROUTE_UP) 0 && !s.isRoot) (bit (s.rd .que_ROUTE_ETH) 0) none
      (t.putItem { i with isRec := !s.reads q } d).map (fun (t, _) =>
        t.ringUpd r (fun l => l.map (fun w : RingW => if w.pid == some p then { w with due := false, had := true } else w)))

/-- Region r's windows get what the reel holds of them, as far as there is room. -/
def State.winRun (s : State) (r : Fin 16) : State :=
  (List.range ((s.evbR r).ring.countP (·.due))).foldl (fun s _ => (s.winNext r).getD s) s
def State.winPump (s : State) : State := s.each (List.finRange 16) (fun r s => s.winRun r)

/-! ### Streams -/

/-- Words of a tick with mode word m go to the engine: STAMP or WINDOW, or TEST alone (R97, R99). -/
def toEngine (m : Nat) : Bool := m &&& 3 != 0 || m &&& 0x8B == 0x80

/-- A stream kind of an engine as an index of its contexts. -/
def kindIx (k : Nat) : Fin 5 := ⟨k % 5, Nat.mod_lt _ (by decide)⟩

/-- The history of a stream. -/
def State.ctx (s : State) (r : Fin 16) (k : Nat) : Ctx := (s.cmpR r).ctx[kindIx k]
def State.setCtx (s : State) (r : Fin 16) (k : Nat) (c : Ctx) : State :=
  s.setCmpR r { s.cmpR r with ctx := (s.cmpR r).ctx.set (kindIx k) c }

/-- The static table of a kind (R152). -/
def staticTab (k : Nat) : CodeTab := if k = 0 then tableT else tableF

/-- A 64-bit counter of the region raised. -/
def State.addBytes (s : State) (f : Fld) (r n : Nat) : State := s.wr f r (s.rd f r + n)

/-- The modes whose FINAL product a stream carries (R118). -/
def modesOfKind (k : Nat) : Nat :=
  match k with
  | 0 => 0x83
  | 1 => 0x14
  | 2 => 0x20
  | 3 => 0x08
  | _ => 0x40

/-- CMP_FINAL once a drained engine has closed the last packet of its region's drained modes (R168). -/
def State.cmpDrained (s : State) (r : Fin 16) : State :=
  let x := s.cmpR r
  if x.draining && s.seq.draining[r] == 0 then (s.setCmpR r { x with draining := false }).wrB .cmpr_CMP_FINAL r true else s

/-- A stream of region r has delivered its FINAL product. -/
def State.noteFinal (s : State) (r : Fin 16) (k : Nat) : State :=
  State.cmpDrained { s with seq := { s.seq with
    draining := s.seq.draining.set r (s.seq.draining[r] - (s.seq.draining[r] &&& modesOfKind k)) } } r

/-! ### Blocks (R153 to R156) -/

/-- A block of tick t is the stream's first (R156). -/
def Ctx.isFirst (c : Ctx) (t : Nat) : Bool :=
  c.first || c.freshAt.any (fun f => decide (f ≤ t))

/-- The table and predictor of a stream's block of tick t: its first block is static and MED (R154 to R156). -/
def State.blockChoice (s : State) (r : Fin 16) (k t : Nat) : Option CodeTab × Bool :=
  let c := s.ctx r k
  if c.isFirst t || k = 2 then (none, false)
  else (chooseTable (s.rd .cmpr_TABLE_MODE r) k c.hist c.dyn,
    if k = 0 then false else match s.rd .cmpr_PRED_MODE r with
      | 0 => false
      | 1 => true
      | _ => c.predLeft)

/-- A block of tick t begins: its residue sums start from 0 (R155), and with a first block BLOCKS (R166). -/
def State.blockStart (s : State) (r : Fin 16) (k t : Nat) : State :=
  let c := s.ctx r k
  s.setCtx r k { c with sumMed := 0, sumLeft := 0, first := c.isFirst t, loaded := false, blocks := if c.isFirst t then 0 else c.blocks,
                        freshAt := c.freshAt.filter (fun f : Nat => decide (t < f)) }

/-- The mode of stream kind i is put in force by a mode word that goes from m to n (R156): for the EVENT stream STAMP or WINDOW, or TEST
where it alone feeds the stream (R99). -/
def putInForce (i m n : Nat) : Bool :=
  if i = 0 then (m &&& n &&& 3 == 0 && n &&& 3 != 0) || (!toEngine m && toEngine n)
  else m &&& n &&& modesOfKind i == 0 && n &&& modesOfKind i != 0

/-- The streams of region r whose mode goes in force at the boundary of tick k, the mode word going from m to n, start anew there,
but for one that a loaded context waits in (R156, R167). -/
def State.freshStreams (s : State) (r : Fin 16) (k m n : Nat) : State :=
  s.each [0, 1, 3, 4] (fun i s =>
    if putInForce i m n && !(s.ctx r i).loaded then
      s.setCtx r i { s.ctx r i with freshAt := (s.ctx r i).freshAt ++ [k] }
    else s)

/-- A context put in force while the block that now ends was in progress takes its stream over (R167); PKT_SEQ goes on. -/
def State.ctxReady (s : State) (r : Fin 16) (k : Nat) : State :=
  match (s.cmpR r).ready.find? (fun e => e.1 == k) with
  | some (_, c) =>
    let s := s.setCtx r k { c with seq := (s.ctx r k).seq }
    s.setCmpR r { s.cmpR r with ready := (s.cmpR r).ready.filter (fun e => e.1 != k) }
  | none => s

/-- A block of stream k of region r is in progress. -/
def State.inBlock (s : State) (r : Fin 16) (k : Nat) : Bool :=
  let x := s.cmpR r
  if k = 0 then x.blk.isSome
  else match x.jobs with
    | j :: _ => j.kind == k && (x.pi != 0 || x.open_.any (fun o => o.kind == k))
    | [] => false

/-- A block ends: the next table is being built, and AUTO's choice is made (R153, R155). -/
def State.blockEnd (s : State) (r : Fin 16) (k : Nat) : State :=
  let c := s.ctx r k
  if k = 2 then s.setCtx r k { c with first := false, blocks := (c.blocks + 1) % 2 ^ 16 }
  else (s.setCtx r k { c with first := false, histValid := true, blocks := (c.blocks + 1) % 2 ^ 16,
                              building := some (dynTable c.hist), predLeft := c.sumLeft < c.sumMed }).ctxReady r k

/-- DYN_TABLE_READY: the table built for a stream of region r is ready (R153). -/
def State.dynReady (s : State) (r : Fin 16) (k : Nat) : State :=
  let c := s.ctx r k
  match c.building with
  | some t => s.setCtx r k { c with dyn := some t, building := none }
  | none => s

/-- The history a region abort or start-up empties; PKT_SEQ goes on (R156, R157). -/
def Ctx.restart (c : Ctx) : Ctx := { seq := c.seq }

/-- Items of an emitted chunk taken into the stream's history. -/
def Ctx.count (c : Ctx) (l : List CItem) : Ctx :=
  let cap (n : Nat) : Nat := satN 0xFFFFFFFF n
  { c with hist := l.foldl (fun h x => match x.sym with | some k => histInc h k | none => h) c.hist,
           sumMed := cap (l.foldl (fun a x => a + x.mm) c.sumMed), sumLeft := cap (l.foldl (fun a x => a + x.ml) c.sumLeft) }

/-! ### Packets -/

/-- Elements of a frame packet by kind (table Compression-1). -/
def pktElems (k : Nat) : Nat := match k with | 1 => 16384 | 3 => 4096 | 4 => 16384 | _ => 262144

/-- The values of elements lo to lo + n - 1 of a product. -/
def Job.vals (j : Job) (lo n : Nat) : List Nat :=
  let l := spRange j.px lo (lo + n)
  (List.range n).map (fun i => spGet l (lo + i) 0)

/-- The payload items of packet p of a product under a table and predictor. -/
def Job.items (j : Job) (p : Nat) (t : CodeTab) (left : Bool) : List CItem :=
  let vs := j.vals (p * pktElems j.kind) (min (pktElems j.kind) (j.n - p * pktElems j.kind))
  match j.kind with
  | 1 => let l := frameItems 12 512 t left vs; if j.zs then zsItems vs l else l
  | 3 => frameItems 24 256 t left vs
  | 4 => frameItems 24 512 t left vs
  | _ => if j.zs then zsBinaryItems vs else binaryItems vs

/-- Items a chunk may hold: a zero-suppressed or BINARY packet is one chunk (R159). -/
def chunkLimit (kind : Nat) (zs : Bool) : Nat := if kind = 2 || zs then 1000000 else 256

/-- Items admitted one after another while the chunk in its larger form fits (R162): those admitted, newest first, and the
rest. -/
def admitGo (room limit : Nat) : Nat → Nat → Nat → List CItem → List CItem → List CItem × List CItem
  | _, _, _, acc, [] => (acc, [])
  | n, cb, ob, acc, x :: l =>
    if n < limit && 1 + max ((cb + x.coded.length + 7) / 8) ((ob + x.w + 7) / 8) ≤ room then
      admitGo room limit (n + 1) (cb + x.coded.length) (ob + x.w) (x :: acc) l
    else (acc, x :: l)

/-- The open packet of an engine replaced. -/
def State.setOpen (s : State) (r : Fin 16) (o : Option OpenPkt) : State := s.setCmpR r { s.cmpR r with open_ := o }

/-- The chunk in progress emitted in its form, and counted (R153, R159). -/
def State.emitChunk (s : State) (r : Fin 16) : State :=
  match (s.cmpR r).open_ with
  | none => s
  | some o =>
    if o.cur.isEmpty then s
    else
      let b := chunkBytes o.kind o.zs o.cur
      let s := s.setOpen r (some { o with cur := [], body := o.body ++ b, orig := o.orig ++ canonBytes o.cur,
                                          elems := o.elems + o.cur.foldl (fun a x => a + x.cover) 0 })
      let s := if o.kind = 2 then s else s.setCtx r o.kind ((s.ctx r o.kind).count o.cur)
      let s := if o.kind != 2 && chunkForm o.kind o.zs o.cur == 1 then s.bump .cmpr_STORED_CHUNKS r else s
      s.writeItem o.item b

/-- Stall time of a resumed or closed packet or waiting producer counted (R162, R175). -/
def State.unstall (s : State) (r : Fin 16) : State :=
  match (s.cmpR r).stallAt with
  | none => s
  | some t =>
    let us := (s.clock - t) / usFu
    (((s.setCmpR r { s.cmpR r with stallAt := none }).wrB .cmpr_STALLED r false).bump .cmpr_STALL_TIME r us).bump .que_GRANT_WAIT 0 us

/-- The engine stalls: its input is held (R162). -/
def State.stall (s : State) (r : Fin 16) : State :=
  if (s.cmpR r).stallAt.isSome then s
  else (s.setCmpR r { s.cmpR r with stallAt := some s.clock }).wrB .cmpr_STALLED r true

/-- The open packet of engine r closes behind its chunk in progress (R157, R163): flags are added to its PKT_FLAGS. -/
def State.closePkt (s : State) (r : Fin 16) (flags : Nat) (trunc final : Bool) : State :=
  let s := s.emitChunk r
  match (s.cmpR r).open_ with
  | none => s
  | some o =>
    let body := o.body.set 5 ((o.body.getD 5 0) ||| flags)
    let d := pktClose body o.elems o.orig trunc final
    let s := (s.setOpen r none).unstall r
    let c := s.ctx r o.kind
    let s := s.setCtx r o.kind { c with seq := (c.seq + 1) % 2 ^ 32 }
    let s := ((s.bump .cmpr_PKT_CNT r).addBytes .cmpr_IN_BYTES r o.orig.length).addBytes .cmpr_OUT_BYTES r d.length
    let s := if trunc then (s.bump .cmpr_TRUNC_CNT r).wrB .cmpr_TRUNC_SEEN r true else s
    let s := if bit flags 6 then s.bump .cmpr_PREEMPT_CNT r else s
    let s := if final then s.noteFinal r o.kind else s
    (s.wr .cmpr_ACT_KIND r 0xF).closeItem o.item d trunc

/-- A packet of a stream opens with its header; false (none) when the fabric has no space or patch entry (R175). -/
def State.openPkt (s : State) (r : Fin 16) (kind tick first flags : Nat) (zs : Bool) (dyn : Option CodeTab) (todo : List CItem)
    (final : Bool) : Option State :=
  let m := s.modeAt r tick
  let c := s.ctx r kind
  let mid := s.rd .tre_MODULE_ID
  let pid : PktId := ⟨mid, r, kind, tick % 2 ^ 48, c.seq⟩
  let fwd := !(kind = 0 && bit m mWindow && !bit m mStamp)
  let head := pktHeader kind r flags mid c.seq tick first (s.epochAt r tick) dyn
  match s.openItem r (clsOfKind kind) pid r (s.reelOf kind m) (bit (s.rd .que_ROUTE_UP) kind && !s.isRoot && fwd)
      (bit (s.rd .que_ROUTE_ETH) kind && fwd) head with
  | none => none
  | some (s, i) =>
    let o : OpenPkt := ⟨i, kind, tick, zs, dyn.getD (staticTab kind), todo, [], head, [], 0, 0, 0, flags, final⟩
    some ((s.setOpen r (some o)).wr .cmpr_ACT_KIND r kind)

/-- An empty FINAL packet (R145). -/
def State.emptyFinal (s : State) (r : Fin 16) (kind tick : Nat) : Option State :=
  (s.openPkt r kind tick 0 0x18 false none [] true).map (fun s => s.closePkt r 0 false true)

/-! ### The engine's work (R162, R164) -/

/-- The packets of a product. -/
def Job.pkts (j : Job) : Nat := max 1 ((j.n + pktElems j.kind - 1) / pktElems j.kind)

/-- The first job done: its block ends, and the next is begun. -/
def State.jobEnd (s : State) (r : Fin 16) (k : Nat) : State :=
  let s := s.blockEnd r k
  let x := s.cmpR r
  s.setCmpR r { x with jobs := x.jobs.drop 1, pi := 0, jobTab := none }

/-- The next packet of the first waiting product opens, or the engine stalls. -/
def State.openJob (s : State) (r : Fin 16) : State :=
  let x := s.cmpR r
  match x.jobs with
  | [] => s
  | j :: l =>
    if j.empty then
      match s.emptyFinal r j.kind j.tick with
      | some s => (s.unstall r).setCmpR r { (s.unstall r).cmpR r with jobs := l }
      | none => s.stall r
    else
      let (dyn, left) := x.jobTab.getD (s.blockChoice r j.kind j.tick)
      let last := j.pkts ≤ x.pi + 1 && !j.trunc
      let flags := b2n dyn.isSome + 2 * b2n left + 4 * b2n j.zs + 8 * b2n (x.pi == 0) + 16 * b2n last + 32 * b2n j.partial_
      match s.openPkt r j.kind j.tick (x.pi * pktElems j.kind) flags j.zs dyn (j.items x.pi (dyn.getD (staticTab j.kind)) left)
          (j.final && j.pkts ≤ x.pi + 1) with
      | none => s.stall r
      | some s =>
        let s := (s.unstall r).when (x.pi == 0) (fun s => s.blockStart r j.kind j.tick)
        s.setCmpR r { s.cmpR r with jobTab := some (dyn, left) }

/-- The room the chunk in progress may grow into: a grant is asked for each time the grants less the bytes written fall below 512 bytes, and
for a chunk that they do not hold with the 24 bytes of R162 (R175; DEDUCED, log entry 161). -/
def State.askRoom (s : State) (o : OpenPkt) (want : List CItem) : State × Nat :=
  let s := s.grantUpTo o.item (max grantBytes (chunkSpace (o.cur ++ want) + 24))
  (s, (s.item o.item).elim 0 s.roomOf - 24)

/-- Items of the open frame packet admitted to its chunk as far as they fit; the engine stalls when they do not. -/
def State.admitFrame (s : State) (r : Fin 16) (o : OpenPkt) : State :=
  let lim := chunkLimit o.kind o.zs
  let (s, room) := s.askRoom o (o.todo.take (lim - o.cur.length))
  let (acc, rest) := admitGo room lim 0 0 0 [] (o.cur ++ o.todo)
  let cur := acc.reverse
  let s := s.setOpen r (some { o with cur := cur, todo := rest })
  if rest.isEmpty || lim ≤ cur.length then s.unstall r else if cur.length = o.cur.length then s.stall r else (s.unstall r).stall r

/-- The EVENT block of a tick begun when none is. -/
def State.evBlk (s : State) (r : Fin 16) (k : Nat) : State :=
  if (s.cmpR r).blk.isSome then s
  else
    let s := (s.setCmpR r { s.cmpR r with blk := some { tick := k, dyn := (s.blockChoice r 0 k).1 } }).blockStart r 0 k
    s

/-- The EVENT packet closes, by the end of its block (last) or not; its words are counted into the block. -/
def State.evClose (s : State) (r : Fin 16) (flags : Nat) (trunc final : Bool) : State :=
  let n := (((s.cmpR r).open_.map (fun o => o.elems + o.cur.length)).getD 0)
  let s := s.closePkt r flags trunc final
  s.setCmpR r { s.cmpR r with blk := (s.cmpR r).blk.map (fun b => { b with words := b.words + n, npk := b.npk + 1 }) }

/-- The EVENT block in progress ends; with final its stream ends, and an empty FINAL packet carries TICK k (R145). -/
def State.evEnd (s : State) (r : Fin 16) (k : Nat) (final : Bool) : Option State :=
  let fin (s : State) : State := s.setCmpR r { s.cmpR r with blk := none }
  match (s.cmpR r).open_, (s.cmpR r).blk with
  | some _, some _ => some (fin ((s.evClose r 16 false final).blockEnd r 0))
  | none, some b =>
    if final then (s.emptyFinal r 0 k).map (fun s => fin (s.blockEnd r 0))
    else some (if b.npk = 0 then (fin s).ctxReady r 0 else fin (s.blockEnd r 0))
  | _, none => if final then s.emptyFinal r 0 k else some s

/-- One step of the engine on its EVENT input; false when it cannot go on for now. -/
def State.evStep (s : State) (r : Fin 16) : State × Bool :=
  let x := s.cmpR r
  let pop (s : State) : State := s.setCmpR r { s.cmpR r with inq := (s.cmpR r).inq.drop 1 }
  match x.inq with
  | [] => (s, false)
  | .close k final last :: _ =>
    if x.blk.any (fun b => b.tick != k) then
      match s.evEnd r k false with
      | some s => (s, true)
      | none => (s.stall r, false)
    else match s.evEnd r last final with
      | some s => (pop (s.setCmpR r { s.cmpR r with dead := if x.dead == some k then none else x.dead }), true)
      | none => (s.stall r, false)
  | .word w ref :: _ =>
    if x.dead == some ref then (pop ((s.bump .cmpr_TRUNC_ELEMS r).ringDrop r (· == ref)), true)
    else if x.blk.any (fun b => b.tick != ref) then
      match s.evEnd r ref false with
      | some s => (s, true)
      | none => (s.stall r, false)
    else match x.open_ with
      | none =>
        let s := s.evBlk r ref
        let b := (s.cmpR r).blk.getD { tick := ref }
        match s.openPkt r 0 ref b.words (b2n b.dyn.isSome + 8 * b2n (b.npk == 0)) false b.dyn [] false with
        | some s => (s.unstall r, true)
        | none => (s.stall r, false)
      | some o =>
        if 256 ≤ o.cur.length || 4096 ≤ o.elems + o.cur.length then (s, false)
        else
          let it := eventItem o.tab o.prev w
          let (s, room) := s.askRoom o [it]
          if chunkSpace (o.cur ++ [it]) ≤ room then
            let s := (s.item o.item).elim s (fun i => s.ringPut r w ref i.pid)
            (pop ((s.unstall r).setOpen r (some { o with cur := o.cur ++ [it], prev := wordOffset w })), true)
          else (s.stall r, false)

/-- The engine works on its EVENT input as far as it can. -/
def State.evRun (s : State) (r : Fin 16) : Nat → State
  | 0 => s
  | n + 1 => match s.evStep r with
    | (s, true) => State.evRun s r n
    | (s, false) => s

/-- The ACCUM staging area holds 4,096 completed values (R109). -/
def stageSize : Nat := 4096

/-- Elements of the first waiting product the engine has taken into its packets. -/
def CmpR.taken (x : CmpR) (j : Job) : Nat :=
  x.pi * pktElems j.kind + match x.open_ with
    | some o => if o.kind = j.kind then o.elems + o.cur.foldl (fun a c => a + c.cover) 0 else 0
    | none => 0

/-- The ACCUM output waiting at engine r, and how many of its values the engine has taken. -/
def CmpR.accJob (x : CmpR) : Option (Job × Nat) :=
  (x.jobs.find? (fun j => j.kind == 4 && !j.empty)).map (fun j =>
    (j, if (x.jobs.head?.map (·.kind)) == some 4 then x.taken j else 0))

/-- The staging area brought up to date: the values that follow those taken (R109). -/
def State.accStage (s : State) (r : Fin 16) : State :=
  let a := s.accum.r[r]
  let st : Sp := match (s.cmpR r).accJob with
    | some (j, c) => spRange j.px c (c + stageSize)
    | none => []
  { s with accum := { s.accum with r := s.accum.r.set r { a with stage := st } } }

/-- The engine is stalled, the staging area is full and values of the output are still to come: the transfer waits (R109). -/
def State.accWaits (s : State) (r : Fin 16) : Bool :=
  (s.cmpR r).stallAt.isSome && match (s.cmpR r).accJob with
  | some (j, c) => decide (c + stageSize < j.n)
  | none => false

/-- The output cut to what has passed the staging area. -/
def State.accCut (s : State) (r : Fin 16) : State :=
  let x := s.cmpR r
  match x.accJob with
  | some (_, c) => s.setCmpR r { x with jobs := x.jobs.map (fun j : Job =>
      if j.kind = 4 then { j with n := min j.n (c + stageSize), px := spRange j.px 0 (c + stageSize), trunc := true, final := false } else j) }
  | none => s

/-- The engine goes on: a waiting product first, then event words (R164). -/
def State.pump (s : State) (r : Fin 16) : State := State.accStage (r := r) <|
  let x := s.cmpR r
  match x.open_ with
  | some o =>
    if o.kind = 0 then if x.jobs.isEmpty then s.evRun r (3 * x.inq.length + 3) else s else s.admitFrame r o
  | none =>
    if x.jobs.isEmpty then s.evRun r (3 * x.inq.length + 3)
    else
      let s := s.openJob r
      match (s.cmpR r).open_ with
      | some o => s.admitFrame r o
      | none => if (s.cmpR r).jobs.isEmpty then s.evRun r (3 * x.inq.length + 3) else s

/-- The chunk in progress is complete. -/
def State.chunkReady (s : State) (r : Fin 16) : Bool :=
  match (s.cmpR r).open_ with
  | none => false
  | some o =>
    if o.kind = 0 then 256 ≤ o.cur.length || 4096 ≤ o.elems + o.cur.length
    else o.todo.isEmpty || chunkLimit o.kind o.zs ≤ o.cur.length

/-- CHUNK_COMPLETE (R159): the complete chunk of engine r is emitted in its form; a packet or block that ends with it
closes; the engine goes on. -/
def State.chunkComplete (s : State) (r : Fin 16) : State :=
  if s.chunkReady r then
    match (s.cmpR r).open_ with
    | none => s
    | some o =>
      let s := s.emitChunk r
      if o.kind = 0 then
        (if 4096 ≤ o.elems + o.cur.length then s.evClose r 0 false false else s).pump r
      else if o.todo.isEmpty then
        let cut := match (s.cmpR r).jobs with
          | [] => false
          | j :: _ => j.trunc && j.pkts ≤ (s.cmpR r).pi + 1
        let s := s.closePkt r 0 cut o.final
        let x := s.cmpR r
        match x.jobs with
        | [] => s.pump r
        | j :: _ => (if j.pkts ≤ x.pi + 1 then s.jobEnd r j.kind else s.setCmpR r { x with pi := x.pi + 1 }).pump r
      else s.pump r
  else s

/-- A product handed to engine r: an EVENT packet open is closed with PREEMPT, unless its block ends just there (R164). -/
def State.submit (s : State) (r : Fin 16) (j : Job) : State :=
  let x := s.cmpR r
  let s := match x.open_, x.blk with
    | some o, some b =>
      if o.kind = 0 then
        match x.inq with
        | .close k f last :: l => if k == b.tick then
            match (s.setCmpR r { x with inq := l }).evEnd r last f with
            | some s => s
            | none => s.evClose r 0x40 false false
          else s.evClose r 0x40 false false
        | _ => s.evClose r 0x40 false false
      else s
    | _, _ => s
  (s.setCmpR r { s.cmpR r with jobs := (s.cmpR r).jobs ++ [j] }).pump r

/-- Words in the engine's input queue, which holds 16,384 (R164). -/
def State.inqWords (s : State) (r : Fin 16) : Nat :=
  (s.cmpR r).inq.countP (fun x => match x with | .word .. => true | _ => false)
def State.inqRoom (s : State) (r : Fin 16) : Bool := s.inqWords r < 16384

/-- An input handed to the engine behind those waiting. -/
def State.evInput (s : State) (r : Fin 16) (x : EvIn) : State :=
  (s.setCmpR r { s.cmpR r with inq := (s.cmpR r).inq ++ [x] }).pump r

/-- At the boundary that begins tick k, the engine has work of the tick ended unfinished (R16): the frame of tick k - 2, or the ACCUM
output of tick k - 1. -/
def State.cmpBusy (s : State) (r : Fin 16) (k : Nat) : Bool :=
  (s.cmpR r).jobs.any (fun j => j.kind != 3 && (if j.kind = 4 then j.tick + 1 == k else j.tick + 2 == k))

/-! ### Forced closes and aborts (R163, R168) -/

/-- STALL_LIMIT: the packet stalled for STALL_LIMIT us is closed with TRUNC and the rest of its block discarded. -/
def State.stallLimit (s : State) (r : Fin 16) : State :=
  let x := s.cmpR r
  let lim := s.rd .cmpr_STALL_LIMIT r
  match x.open_, x.stallAt with
  | some o, some t =>
    if lim != 0 && t + lim * usFu ≤ s.clock then
      let fin (s : State) (lost : Nat) : State :=
        ((s.bump .cmpr_TRUNC_ELEMS r lost).wrB .cmpr_FORCED r true).detect clsCompression 1 (unitRegion r)
          (some (0x0901, o.kind + 16 * r + (lost % 2 ^ 32) <<< 32)) |>.pump r
      if o.kind = 0 then
        let k := o.tick
        let mine (e : EvIn) : Bool := match e with | .word _ ref => ref == k | _ => false
        let lost := x.inq.countP mine
        let s := ((s.ringDrop r (· == k)).setCmpR r { x with inq := x.inq.filter (fun e => !mine e) }).evClose r 16 true false
        let s := (s.setCmpR r { s.cmpR r with blk := none, dead := some k }).blockEnd r 0
        fin s lost
      else
        match x.jobs with
        | [] => s
        | j :: _ =>
          let s := s.closePkt r 16 true j.final
          let done := x.pi * pktElems j.kind + o.elems + o.cur.foldl (fun a x => a + x.cover) 0
          fin (s.jobEnd r j.kind) (j.n - done)
    else s
  | _, _ => s

/-- The words of region r in the engine's input queue discarded and counted (R70, R119). -/
def State.dropInq (s : State) (r : Fin 16) : State :=
  let n := s.inqWords r
  let x := s.cmpR r
  ((s.ringDrop r (fun _ => true)).setCmpR r { x with inq := [] }).bump .tdcr_DROP_ABORT r n

/-- TDC_ABORT at the engine: the open EVENT packet closes with TRUNC and its block ends; a stream that was to end here ends with the empty
FINAL packet (R145, R168). -/
def State.abortEvents (s : State) (r : Fin 16) : State :=
  let ends := (s.cmpR r).inq.filter (fun i => match i with | .close _ final _ => final | .word _ _ => false)
  let s := s.dropInq r
  let s := match (s.cmpR r).open_ with
    | some o => if o.kind = 0 then s.evClose r 0 true false else s
    | none => s
  ((s.setCmpR r { s.cmpR r with blk := none, dead := none, inq := ends }).ctxReady r 0).pump r

/-- What the engine has in hand is cut (R119): the open packet closes with TRUNC, waiting work is discarded, the heads of the ticks cut
short are marked. -/
def State.cmpCut (s : State) (r : Fin 16) : State :=
  let x := s.cmpR r
  let ks := (x.jobs.map (·.tick)) ++ (x.open_.map (·.tick)).toList
  let s := s.each ks (fun k s => s.headFlag r k hfTrunc)
  let s := ((s.closePkt r 0 true false).dropInq r).unstall r
  (s.setCmpR r { s.cmpR r with jobs := [], pi := 0, jobTab := none, open_ := none, blk := none, dead := none }).wr .cmpr_ACT_KIND r 0xF
    |>.each (x.ready.map (·.1)) (fun k s => s.ctxReady r k)

/-- The engine's waiting products encoded as far as there is room. -/
def State.encodeAll (s : State) (r : Fin 16) : State :=
  (List.range ((s.cmpR r).jobs.foldl (fun a j => a + j.n / 64 + j.pkts + 2) 0)).foldl (fun s _ => s.chunkComplete r) s

/-- A region abort at the engine: what is in hand is cut, and the histories are emptied. -/
def State.cmpAbort (s : State) (r : Fin 16) : State :=
  let s := s.cmpCut r
  (s.setCmpR r { s.cmpR r with draining := false, ready := [], ctx := (s.cmpR r).ctx.map Ctx.restart }).accStage r

/-- FE_ABORT during a transfer: the frame's open packet closes with TRUNC and no later packet of the block follows. -/
def State.cutFrame (s : State) (r : Fin 16) : State :=
  let x := s.cmpR r
  match x.open_ with
  | some o =>
    if o.kind = 0 then s
    else match x.jobs with
      | [] => s
      | j :: _ => ((s.closePkt r 0 true false).jobEnd r j.kind).pump r
  | none => s

/-! ### Context access (R166, R167) -/

/-- The context record of a stream without its CRC word. -/
def Ctx.body (c : Ctx) (r k : Nat) : List Nat :=
  [16 * k + r % 16, b2n c.histValid + 2 * b2n c.predLeft + 4 * b2n c.dyn.isSome] ++ bytesLE 2 c.blocks ++ bytesLE 4 c.seq
    ++ (tableBytes (c.dyn.getD [])).take 20 ++ bytesLE 4 0 ++ c.hist.flatMap (bytesLE 2) ++ bytesLE 4 c.sumMed
    ++ bytesLE 4 c.sumLeft ++ bytesLE 4 0

/-- Bytes as 32-bit words. -/
def words32 : Nat → List Nat → List Nat
  | 0, _ => []
  | n + 1, l => ofBytesLE (l.take 4) :: words32 n (l.drop 4)

/-- The 32 words of a context record (table Compression-8). -/
def Ctx.record (c : Ctx) (r k : Nat) : List Nat :=
  let b := c.body r k
  words32 32 (b ++ bytesLE 4 (crc32c b))

/-- The context a load buffer's bytes spell. -/
def ctxOf (b : List Nat) (old : Ctx) : Ctx :=
  let f := b.getD 1 0
  { first := !bit f 0 && !bit f 2, histValid := bit f 0, blocks := ofBytesLE ((b.drop 2).take 2),
    hist := (List.range 40).map (fun i => ofBytesLE ((b.drop (0x20 + 2 * i)).take 2)), sumMed := ofBytesLE ((b.drop 0x70).take 4),
    sumLeft := ofBytesLE ((b.drop 0x74).take 4),
    dyn := if bit f 2 then some ((List.range 40).map (fun i => b.getD (8 + i / 2) 0 / 16 ^ (i % 2) % 16)) else none,
    building := none, predLeft := bit f 1, seq := old.seq, loaded := true }

/-- CTX_IDX after an access. -/
def State.ctxNext (s : State) (r : Fin 16) : State := s.wr .cmpr_CTX_IDX r ((s.rd .cmpr_CTX_IDX r + 1) % 32)

/-- The snapshot of a reader (R353). -/
def State.setSnap (s : State) (w : Fin 10) (x : Snap) : State := { s with ctl := { s.ctl with snaps := s.ctl.snaps.set w (some x) } }

/-- Word k of a value behind its word 0: from the reader's snapshot of it, or live and counted (R354). -/
def State.snapWord (s : State) (w : Fin 10) (p base k : Nat) (view : Bool) (live : Nat) : State × Nat :=
  match s.ctl.snaps[w] with
  | some n =>
    if n.page == p && n.off == base && n.view == view then (s, n.words.getD k 0) else (s.bump .hdr_SNAP_MISS p, live)
  | none => (s.bump .hdr_SNAP_MISS p, live)

/-- The register page of region r of CMP (R346). -/
def cmpPage (r : Fin 16) : Nat := 17 * Blk.cmp.idx + 1 + r

/-- A read of CTX_DATA by reader w: word 0 of the live context captures the record, the others come from the reader's capture
(R167, R353, R354); the load buffer is read as it stands. -/
def State.ctxWord (s : State) (r : Fin 16) (w : Fin 10) (view : Bool) : State × Nat :=
  let i := s.rd .cmpr_CTX_IDX r
  let k := s.rd .cmpr_CTX_KIND r
  if s.flag .cmpr_CTX_VIEW r then (s.ctxNext r, (s.cmpR r).buf.getD i 0)
  else
    let ws := (s.ctx r k).record r k
    if i = 0 then ((s.setSnap w ⟨cmpPage r, 0x54, view, ws⟩).ctxNext r, ws.getD 0 0)
    else
      let x := s.snapWord w (cmpPage r) 0x54 i view (ws.getD i 0)
      (x.1.ctxNext r, x.2)

/-- CTX_DATA_READ by reader w in the normal view. -/
def State.ctxRead (s : State) (r : Fin 16) (w : Fin 10) : State :=
  let x := s.ctxWord r w false
  { x.1 with lastRead := x.2 }

/-- The words writer w has staged. -/
def State.setStage (s : State) (w : Fin 10) (l : List (Nat × Nat × Nat)) : State :=
  { s with ctl := { s.ctl with stage := s.ctl.stage.set w l } }

/-- The place of word i of a context record among a writer's staged words, behind every offset of a page. -/
def ctxPlace (i : Nat) : Nat := 0x100000 + i

/-- CTX_DATA_WRITE of the word CTX_IDX by writer w: the load buffer takes the words staged with word 31 (R167, R355). -/
def State.ctxWrite (s : State) (r : Fin 16) (w : Fin 10) (v : Nat) : State :=
  if s.flag .cmpr_CTX_VIEW r then
    let i := s.rd .cmpr_CTX_IDX r
    let st := (s.ctl.stage[w]).filter (fun e => e.1 == cmpPage r && ctxPlace 0 ≤ e.2.1 && e.2.1 != ctxPlace i) ++
      [(cmpPage r, ctxPlace i, v % 2 ^ 32)]
    if i ≠ 31 then (s.setStage w st).ctxNext r
    else
      let b := st.foldl (fun b e => b.set (e.2.1 - ctxPlace 0) e.2.2) (s.cmpR r).buf
      ((s.setCmpR r { s.cmpR r with buf := b }).setStage w []).ctxNext r
  else (s.setStage w []).wrB .cmpr_CFG_ERR r true

/-- CTX_LOAD: the buffer is checked and waits for the next boundary (R167). -/
def State.ctxLoad (s : State) (r : Fin 16) : State :=
  let b := (s.cmpR r).buf.flatMap (bytesLE 4)
  let k := s.rd .cmpr_CTX_KIND r
  let c := ctxOf b (s.ctx r k)
  if s.flag .cmpr_CTX_LOAD_BUSY r || b.getD 0 0 != 16 * k + r || ofBytesLE (b.drop 124) != crc32c (b.take 124)
      || c.dyn.any (fun t => !CodeTab.valid t) then s.wrB .cmpr_CFG_ERR r true
  else (s.setCmpR r { s.cmpR r with load := some (k, c) }).wrB .cmpr_CTX_LOAD_BUSY r true

/-- A loaded context put in force at a boundary: at once, or behind the block of its stream in progress (R167). -/
def State.ctxBoundary (s : State) (r : Fin 16) : State :=
  match (s.cmpR r).load with
  | none => s
  | some (k, c) =>
    let x := s.cmpR r
    let s := (s.setCmpR r { x with load := none, ready := x.ready.filter (fun e => e.1 != k) ++ [(k, c)] }).wrB .cmpr_CTX_LOAD_BUSY r false
    if s.inBlock r k then s else s.ctxReady r k

/-! ### The record packer (R144, R145, R165) -/

/-- The stream numbers of the record packer: region r's records, module records, AUX stamp words. -/
def rpIx (n : Nat) : Fin 18 := ⟨n % 18, Nat.mod_lt _ (by decide)⟩
def rpKind (n : Nat) : Nat := if n < 16 then 5 else n - 10
def rpRegion (n : Nat) : Fin 16 := ⟨n % 16 * (16 - n / 16) / 16 % 16, Nat.mod_lt _ (by decide)⟩

def State.rpS (s : State) (n : Nat) : RpS := s.cmp.rp[rpIx n]
def State.setRp (s : State) (n : Nat) (x : RpS) : State := { s with cmp := { s.cmp with rp := s.cmp.rp.set (rpIx n) x } }

/-- The tick whose close ends the interval records of stream n are gathered in (R145). -/
def State.rpTick (s : State) (n : Nat) : Nat :=
  let e := s.evb.r[rpRegion n]
  if n < 16 then ((e.recs.find? (fun c => !c.emitted)).map (·.k)).getD e.k else e.k

/-- The records of a stream's open packet. -/
def RpS.elems (x : RpS) : List (List Nat) :=
  match x.groups.getLast? with
  | some g => if g.shut.isSome then [] else g.recs
  | none => []

/-- The bytes of a packet's records. -/
def recBytes (l : List (List Nat)) : Nat := l.foldl (fun a l => a + l.length) 0

/-- Stream n's first packet waits for the fabric (R175). -/
def State.rpStall (s : State) (n : Nat) : State :=
  let x := s.rpS n
  if x.waitAt.isSome then s else (s.setRp n { x with waitAt := some s.clock }).bump .cmp_RP_STALL 0

/-- It waits no more. -/
def State.rpGo (s : State) (n : Nat) : State :=
  let x := s.rpS n
  match x.waitAt with
  | some t => (s.setRp n { x with waitAt := none }).bump .que_GRANT_WAIT 0 ((s.clock - t) / usFu)
  | none => s

/-- Stream n's first packet replaced. -/
def State.setFront (s : State) (n : Nat) (g : RpG) : State :=
  let x := s.rpS n
  s.setRp n { x with groups := g :: x.groups.drop 1 }

/-- Stream n's first packet opens, with its header: a grant of the packer's own area, which its first record fits in, and a patch entry are
there; where it goes is settled here (R175, R178, R183, R190). The close alone sets the header's LAST flag (log entry 160). -/
def State.rpOpen (s : State) (n : Nat) (g : RpG) : Option State :=
  let x := s.rpS n
  let kind := rpKind n
  let r := rpRegion n
  let mid := s.rd .tre_MODULE_ID
  let h := g.shut.getD { tick := s.rpTick n, first := x.npk == 0, last := false, index := x.count, epoch := s.epochAt r (s.rpTick n) }
  let head := pktHeader kind r (8 * b2n h.first) mid x.seq h.tick h.index h.epoch none
  (s.openItem 16 (clsOfKind kind) ⟨mid, r, kind, h.tick % 2 ^ 48, x.seq⟩ (0x10 + (kind - 5)) (s.reelOf kind 0)
      (bit (s.rd .que_ROUTE_UP) kind && !s.isRoot) (bit (s.rd .que_ROUTE_ETH) kind) head).map
    (fun q => (q.1.setFront n { g with head := head, item := some q.2 }).rpGo n)

/-- The next record of stream n's first packet, open as item i, moved into the fabric, behind the chunk tag where it is the first; none while
the fabric gives no room for it (R162, R175). -/
def State.rpMove (s : State) (n : Nat) (g : RpG) (i : Nat) (e : List Nat) : Option State :=
  let b := if g.moved = 0 then 1 :: e else e
  let s := s.grantUpTo i (max grantBytes (b.length + 24))
  if (s.item i).elim true (fun x => b.length + 24 ≤ s.roomOf x) then
    some (((s.setFront n { g with moved := g.moved + 1 }).rpGo n).writeItem i b)
  else none

/-- Stream n's first packet, open as item i with every record in the fabric, closes (R165, R176). -/
def State.rpLeave (s : State) (n : Nat) (g : RpG) (i : Nat) (h : RpShut) : State :=
  let x := s.rpS n
  let body := g.recs.flatten
  let head := g.head.set 5 (g.head.getD 5 0 ||| 16 * b2n h.last)
  let d := pktClose (head ++ 1 :: body) g.recs.length body false false
  let s := (s.setRp n { x with groups := x.groups.drop 1, seq := (x.seq + 1) % 2 ^ 32 }).rpGo n
  ((s.closeItem i d false).queRegs).bump .cmp_RP_PKTS 0

/-- One step of stream n's first packet: it opens, takes a record, or closes; none when it can do nothing now. -/
def State.rpStep (s : State) (n : Nat) : Option State :=
  match (s.rpS n).groups with
  | [] => none
  | g :: _ =>
    match g.item, g.recs[g.moved]?, g.shut with
    | none, some _, _ => s.rpOpen n g
    | some i, some e, _ => s.rpMove n g i e
    | some i, none, some h => some (s.rpLeave n g i h)
    | _, none, _ => none

/-- Stream n goes on as far as it can; a packet held up waits. -/
def State.rpPump (s : State) (n : Nat) : Nat → State
  | 0 => s
  | f + 1 => match s.rpStep n with
    | some s => State.rpPump s n f
    | none => if (s.rpS n).groups.any (fun g => g.moved < g.recs.length) then s.rpStall n else s

/-- The steps a stream can take at most. -/
def State.rpRun (s : State) (n : Nat) : State := s.rpPump n ((s.rpS n).groups.foldl (fun a g => a + g.recs.length + 2) 1)

/-- The packet stream n gathers is closed as a packet of tick k; last says that the block ends with it (R145). -/
def State.rpShut (s : State) (n k : Nat) (last : Bool) : State :=
  let x := s.rpS n
  let h : RpShut := { tick := k, first := x.npk == 0, last := last, index := x.count, epoch := s.epochAt (rpRegion n) k }
  let gs := x.groups.dropLast ++ x.groups.getLast?.toList.map (fun g : RpG => { g with shut := some h })
  s.setRp n { x with groups := gs, npk := if last then 0 else x.npk + 1, count := if last then 0 else x.count + x.elems.length }

/-- The packet stream n gathers closes, if it holds a record; with last the stream's block ends: a packet of the block that still waits
for the fabric is its last. -/
def State.rpClose (s : State) (n k : Nat) (last : Bool) : State :=
  let x := s.rpS n
  if x.elems.isEmpty then
    if last then
      let mark (g : RpG) : RpG := { g with shut := g.shut.map (fun h : RpShut => if h.tick == k then { h with last := true } else h) }
      s.setRp n { x with npk := 0, count := 0, groups := x.groups.dropLast ++ x.groups.getLast?.toList.map mark }
    else s
  else (s.rpShut n k last).rpRun n

/-- A record (or stamp word) gathered for stream n. -/
def State.rpGather (s : State) (n : Nat) (e : List Nat) : State :=
  let x := s.rpS n
  let open_ := x.groups.getLast?.any (fun g => g.shut.isNone)
  let gs := if open_ then x.groups.dropLast ++ x.groups.getLast?.toList.map (fun g : RpG => { g with recs := g.recs ++ [e] })
    else x.groups ++ [{ recs := [e] }]
  s.setRp n { x with groups := gs }

/-- A record handed to stream n: 4,096 bytes of elements close its packet (R145). -/
def State.rpAdd (s : State) (n : Nat) (e : List Nat) : State :=
  let s := s.rpGather n e
  let s := if 4096 ≤ recBytes (s.rpS n).elems then s.rpShut n (s.rpTick n) false else s
  s.rpRun n

/-- A frame head of tick k handed to stream n: the record that closes the tick's packets (R145). -/
def State.rpEnd (s : State) (n k : Nat) (e : List Nat) : State := (s.rpGather n e).rpClose n k true

/-- A packet of stream n waits for the fabric. -/
def State.rpHeld (s : State) (n : Nat) : Bool := (s.rpS n).waitAt.isSome

/-- A record of region r, a module record, and an AUX stamp word. -/
def State.regionRec (s : State) (r : Fin 16) (b : List Nat) : State := s.rpAdd r b
def State.moduleRec (s : State) (b : List Nat) : State := s.rpAdd 16 b
def State.auxWord (s : State) (w : Nat) : State := s.rpAdd 17 (bytesLE 8 w)

/-- The first stamp word that waits in channel c's queue goes to the record packer, unless that waits for the fabric (R66). -/
def State.auxNext (s : State) (c : Fin 4) : State :=
  match (s.auxCh c).queue with
  | w :: l => if s.rpHeld 17 then s else (s.setAux c { s.auxCh c with queue := l }).auxWord w
  | [] => s

/-- Stamp words that waited go on as far as the record packer takes them. -/
def State.auxFlush (s : State) : State :=
  s.each (List.finRange 4) (fun c s => (List.range 64).foldl (fun s _ => s.auxNext c) s)

/-- GRANT_AVAILABLE: a waiting source opens its packet or resumes (R175). -/
def State.grantAvailable (s : State) (src : Fin 21) : State := State.winPump <|
  if h : src.val < 16 then (s.pump ⟨src.val, h⟩)
  else if src.val = 16 then (s.each (List.range 18) (fun n s => s.rpRun n)).auxFlush
  else s.cabPull

/-! ### Meanings -/

/-- The dense packer's rotation check found a mismatch: narrow packing until reset (R174). -/
def State.packFault (s : State) : State :=
  ((s.queUpd (fun q => { q with stuckNarrow := true })).wrB .que_PACK_FAULT 0 true).detect clsQueue 1 unitModule
/-- CHUNK_COMPLETE; packBad says that the packer's rotation check failed as the chunk was packed. -/
def execChunkComplete (t : Nat) (r : Fin 16) (packBad : Bool) (s : State) : Host.Outcome State Fault Refusal :=
  run t (fun s => s.on .cmp (fun s => ((s.when packBad State.packFault).chunkComplete r).winRun r)) s
/-- DYN_TABLE_READY: for the stream of kind k of region r. -/
def execDynTableReady (t : Nat) (r : Fin 16) (k : Fin 5) (s : State) : Host.Outcome State Fault Refusal :=
  run t (fun s => s.on .cmp (fun s => s.dynReady r k)) s
/-- STALL_LIMIT. -/
def execStallLimit (t : Nat) (r : Fin 16) (s : State) : Host.Outcome State Fault Refusal :=
  run t (fun s => s.on .cmp (fun s => s.stallLimit r)) s
/-- CTX_DATA_READ: of the region r.1, by the reader r.2 of the ten of R354. -/
def execCtxDataRead (t : Nat) (r : Fin 16 × Fin 10) (s : State) : Host.Outcome State Fault Refusal :=
  run t (fun s => s.on .cmp (fun s => s.ctxRead r.1 r.2)) s
/-- CTX_DATA_WRITE by a writer. -/
def execCtxDataWrite (t : Nat) (r : Fin 16) (v : WriterWord) (s : State) : Host.Outcome State Fault Refusal :=
  run t (fun s => s.on .cmp (fun s => s.ctxWrite r v.who v.word.toNat)) s
/-- CTX_LOAD. -/
def execCtxLoad (t : Nat) (r : Fin 16) (s : State) : Host.Outcome State Fault Refusal :=
  run t (fun s => s.on .cmp (fun s => s.ctxLoad r)) s
/-- GRANT_AVAILABLE: to a source of table Queues-1. -/
def execGrantAvailable (t : Nat) (src : Fin 21) (s : State) : Host.Outcome State Fault Refusal :=
  run t (fun s => s.on .que (fun s => s.grantAvailable src)) s
/-- PATCH_ACCEPT. -/
def execPatchAccept (t : Nat) (s : State) : Host.Outcome State Fault Refusal :=
  run t (fun s => s.on .que State.patchAccept) s
/-- HOLD_LIMIT: of fabric item i. -/
def execHoldLimit (t i : Nat) (s : State) : Host.Outcome State Fault Refusal :=
  run t (fun s => s.on .que (fun s => (s.holdLimit i).sweep)) s
/-- FABRIC_WORD_READ: word w of fabric item i. -/
def execFabricWordRead (t i w : Nat) (res : WordRead) (s : State) : Host.Outcome State Fault Refusal :=
  run t (fun s => s.on .que (fun s => s.fabricRead i w res)) s
/-- GROUP_WRITE: of the slot of a (producer, reel) pair; the writer then goes on. -/
def execGroupWrite (t : Nat) (prod : Fin 24) (reel : Fin 64) (s : State) : Host.Outcome State Fault Refusal :=
  run t (fun s => s.on .cab (fun s => ((s.groupWrite prod reel).cabPull).winPump)) s
/-- MERGE_OP_DONE: errs came into the lines it read (device byte and exclusive-or value). -/
def execMergeOpDone (t : Nat) (errs : List (Nat × Nat)) (s : State) : Host.Outcome State Fault Refusal :=
  run t (fun s => s.on .cab (fun s => (s.flip errs).mergeDone)) s
/-- SHELF_DEF. -/
def execShelfDef (t : Nat) (s : State) : Host.Outcome State Fault Refusal := run t (fun s => s.on .cab (fun s => s.cabCmd State.shelfDef)) s
/-- SHELF_DEL. -/
def execShelfDel (t : Nat) (s : State) : Host.Outcome State Fault Refusal := run t (fun s => s.on .cab (fun s => s.cabCmd State.shelfDel)) s
/-- REEL_DEF. -/
def execReelDef (t : Nat) (s : State) : Host.Outcome State Fault Refusal := run t (fun s => s.on .cab (fun s => s.cabCmd State.reelDef)) s
/-- REEL_DEL. -/
def execReelDel (t : Nat) (s : State) : Host.Outcome State Fault Refusal := run t (fun s => s.on .cab (fun s => s.cabCmd State.reelDel)) s
/-- REEL_CLEAR. -/
def execReelClear (t : Nat) (s : State) : Host.Outcome State Fault Refusal := run t (fun s => s.on .cab (fun s => s.cabCmd State.reelClear)) s
/-- TAKE_RELEASE. -/
def execTakeRelease (t : Nat) (s : State) : Host.Outcome State Fault Refusal := run t (fun s => s.on .cab (fun s => s.cabCmd State.takeRelease)) s
/-- TAKE_DELETE. -/
def execTakeDelete (t : Nat) (s : State) : Host.Outcome State Fault Refusal := run t (fun s => s.on .cab (fun s => s.cabCmd State.takeDelete)) s
/-- DIR_READ. -/
def execDirRead (t : Nat) (s : State) : Host.Outcome State Fault Refusal := run t (fun s => s.on .cab (fun s => s.cabCmd State.dirRead)) s
/-- A reserved CMD_OP: not executed, CFG_ERR set. -/
def State.cmdReserved (s : State) : State := s.wrB .cab_CFG_ERR 0 true
/-- CMD_OP_RESERVED. -/
def execCmdOpReserved (t : Nat) (s : State) : Host.Outcome State Fault Refusal := run t (fun s => s.on .cab State.cmdReserved) s
/-- SCRUB_GROUP_READ: errs came into the group's lines; both says that a system line's other copy is lost too. -/
def execScrubGroupRead (t : Nat) (errs : List (Nat × Nat)) (both : Bool) (s : State) : Host.Outcome State Fault Refusal :=
  run t (fun s => s.on .cab (fun s => s.scrubGroup errs both)) s
/-- REPAIR_RUN. -/
def execRepairRun (t : Nat) (s : State) : Host.Outcome State Fault Refusal := run t (fun s => s.on .cab State.repairRun) s
/-- REPAIR_DONE: ok says for each remapped span whether its bank had a repair resource. -/
def execRepairDone (t : Nat) (ok : List Bool) (s : State) : Host.Outcome State Fault Refusal :=
  run t (fun s => s.on .cab (fun s => s.repairDone ok)) s

end Sys2Proof.Machine
end

