-- ==== Sys2Proof/Machine/Crypto.lean ====
section
/-! DEFINITION. The ciphers and digests the spec names: AES-128-GCM (R286), SHA-256 and ECDSA P-256 (R293, R342). Bytes are numbers below 256; a
block or a key is one number, its first byte highest. -/

namespace Sys2Proof.Machine

open Sys2Proof

/-- The n bytes of a number, highest first. -/
def bytesBE (n v : Nat) : List Nat := (bytesLE n v).reverse

/-! ### AES-128 -/

/-- The product in the field of AES. -/
def aesMul (a b : Nat) : Nat :=
  ((List.range 8).foldl (fun (x : Nat × Nat) i =>
    (if bit b i then x.1 ^^^ x.2 else x.1, if 128 ≤ x.2 then (2 * x.2) ^^^ 0x11B else 2 * x.2)) (0, a)).1

/-- x to the power 254: the inverse, 0 for 0. -/
def aesInv (x : Nat) : Nat := ((List.range 6).foldl (fun (p : Nat × Nat) _ =>
  let q := aesMul p.2 p.2
  (aesMul p.1 q, q)) (aesMul x x, aesMul x x)).1

/-- The substitution of a byte. -/
def aesSub (x : Nat) : Nat :=
  let y := aesInv x
  let rot (k : Nat) : Nat := (y * 2 ^ k) % 256 + y * 2 ^ k / 256
  y ^^^ rot 1 ^^^ rot 2 ^^^ rot 3 ^^^ rot 4 ^^^ 0x63

/-- The round constants. -/
def aesRcon : List Nat := [1, 2, 4, 8, 16, 32, 64, 128, 27, 54]

/-- The next round key of 16 bytes. -/
def aesNext (k : List Nat) (rc : Nat) : List Nat :=
  let w (i : Nat) : List Nat := (k.drop (4 * i)).take 4
  let xor (a b : List Nat) : List Nat := (a.zip b).map (fun e => e.1 ^^^ e.2)
  let t := (((w 3).drop 1 ++ (w 3).take 1).map aesSub).mapIdx (fun i b => if i = 0 then b ^^^ rc else b)
  let a := xor (w 0) t
  let b := xor (w 1) a
  let c := xor (w 2) b
  a ++ b ++ c ++ xor (w 3) c

/-- The rows shifted: byte 4 c + r comes from column c + r. -/
def aesShift (b : List Nat) : List Nat := (List.range 16).map (fun i => b.getD (4 * ((i / 4 + i % 4) % 4) + i % 4) 0)

/-- The columns mixed. -/
def aesMix (b : List Nat) : List Nat :=
  (List.range 16).map (fun i =>
    let at_ (r : Nat) : Nat := b.getD (4 * (i / 4) + (i + r) % 4) 0
    aesMul 2 (at_ 0) ^^^ aesMul 3 (at_ 1) ^^^ at_ 2 ^^^ at_ 3)

/-- A block encrypted. -/
def aesEnc (key block : Nat) : Nat :=
  let xor (a b : List Nat) : List Nat := (a.zip b).map (fun e => e.1 ^^^ e.2)
  let k := bytesBE 16 key
  let r := aesRcon.foldl (fun (x : List Nat × List Nat × Nat) rc =>
    let n := aesNext x.2.1 rc
    let b := aesShift (x.1.map aesSub)
    (xor (if x.2.2 = 9 then b else aesMix b) n, n, x.2.2 + 1)) (xor (bytesBE 16 block) k, k, 0)
  ofBytesBE r.1

/-! ### GCM -/

/-- The product in the field of GHASH. -/
def gcmMul (x y : Nat) : Nat :=
  ((List.range 128).foldl (fun (z : Nat × Nat) i =>
    (if bit x (127 - i) then z.1 ^^^ z.2 else z.1, if z.2 % 2 = 1 then (z.2 / 2) ^^^ (0xE1 <<< 120) else z.2 / 2)) (0, y)).1

/-- Bytes cut into blocks of 16, the last filled up with zeros. -/
def gcmBlocks (b : List Nat) : List Nat :=
  (List.range ((b.length + 15) / 16)).map (fun i => let c := (b.drop (16 * i)).take 16; ofBytesBE (c ++ List.replicate (16 - c.length) 0))

/-- Bytes encrypted or decrypted: the counter begins at 2 behind the nonce. -/
def gcmCrypt (key : Nat) (nonce b : List Nat) : List Nat :=
  (List.range ((b.length + 15) / 16)).flatMap (fun i =>
    let k := bytesBE 16 (aesEnc key (ofBytesBE (nonce ++ bytesBE 4 (i + 2))))
    (((b.drop (16 * i)).take 16).zip k).map (fun e => e.1 ^^^ e.2))

/-- The 128-bit tag over additional data and ciphertext. -/
def gcmTag (key : Nat) (nonce aad c : List Nat) : BitVec 128 :=
  let h := aesEnc key 0
  let y := (gcmBlocks aad ++ gcmBlocks c ++ [8 * aad.length * 2 ^ 64 + 8 * c.length]).foldl (fun a x => gcmMul (a ^^^ x) h) 0
  BitVec.ofNat 128 (y ^^^ aesEnc key (ofBytesBE (nonce ++ bytesBE 4 1)))

/-! ### SHA-256 -/

/-- The first 32 bits behind the point of the root of order n of a prime, cut off: n 2 for the square root, 3 for the cube root. -/
def rootBits (n p : Nat) : Nat :=
  let x := p * 2 ^ (32 * n)
  ((List.range 36).foldl (fun a i => let c := a + 2 ^ (35 - i); if c ^ n ≤ x then c else a) 0) % 2 ^ 32

/-- The first 64 primes. -/
def shaPrimes : List Nat := (List.range 312).filter (fun n => 2 ≤ n && (List.range 18).all (fun d => d < 2 || n ≤ d || n % d != 0))

/-- The round constants and the initial state. -/
def shaK : List Nat := (shaPrimes.take 64).map (rootBits 3)
def shaInit : List Nat := (shaPrimes.take 8).map (rootBits 2)

def rotr32 (x n : Nat) : Nat := x / 2 ^ n + x % 2 ^ n * 2 ^ (32 - n)

/-- The 64 words of a block's schedule, last first, from its 16. -/
def shaWords (b : List Nat) : List Nat :=
  let w := (List.range 16).map (fun i => ofBytesBE ((b.drop (4 * i)).take 4))
  (List.range 48).foldl (fun (l : List Nat) _ =>
    let x := l.getD 14 0
    let y := l.getD 1 0
    let s0 := rotr32 x 7 ^^^ rotr32 x 18 ^^^ (x / 2 ^ 3)
    let s1 := rotr32 y 17 ^^^ rotr32 y 19 ^^^ (y / 2 ^ 10)
    ((l.getD 15 0 + s0 + l.getD 6 0 + s1) % 2 ^ 32) :: l) w.reverse

/-- One round over the eight words a to h. -/
def shaRound (v : List Nat) (k w : Nat) : List Nat :=
  match v with
  | [a, b, c, d, e, f, g, h] =>
    let s1 := rotr32 e 6 ^^^ rotr32 e 11 ^^^ rotr32 e 25
    let ch := (e &&& f) ^^^ ((2 ^ 32 - 1 - e) &&& g)
    let t := h + s1 + ch + k + w
    let s0 := rotr32 a 2 ^^^ rotr32 a 13 ^^^ rotr32 a 22
    let m := (a &&& b) ^^^ (a &&& c) ^^^ (b &&& c)
    [(t + s0 + m) % 2 ^ 32, a, b, c, (d + t) % 2 ^ 32, e, f, g]
  | _ => v

/-- A block of 64 bytes taken into the state. -/
def shaBlock (v b : List Nat) : List Nat :=
  let r := ((shaK.zip (shaWords b).reverse).foldl (fun v e => shaRound v e.1 e.2) v)
  (v.zip r).map (fun e => (e.1 + e.2) % 2 ^ 32)

/-- The digest of bytes, as one number. -/
def sha256 (b : List Nat) : Nat :=
  let n := b.length
  let m := b ++ [0x80] ++ List.replicate ((119 - n % 64) % 64) 0 ++ bytesBE 8 (8 * n)
  let v := (List.range (m.length / 64)).foldl (fun v i => shaBlock v ((m.drop (64 * i)).take 64)) shaInit
  v.foldl (fun a x => 2 ^ 32 * a + x) 0

/-! ### ECDSA over P-256 -/

def p256P : Nat := 2 ^ 256 - 2 ^ 224 + 2 ^ 192 + 2 ^ 96 - 1
def p256N : Nat := 0xFFFFFFFF00000000FFFFFFFFFFFFFFFFBCE6FAADA7179E84F3B9CAC2FC632551
def p256B : Nat := 0x5AC635D8AA3A93E7B3EBBD55769886BC651D06B0CC53B0F63BCE3C3E27D2604B
def p256G : Nat × Nat :=
  (0x6B17D1F2E12C4247F8BCE6E563A440F277037D812DEB33A0F4A13945D898C296, 0x4FE342E2FE1A7F9B8EE7EB4A7C0F9E162BCE33576B315ECECBB6406837BF51F5)

/-- a to the power e modulo m, over the low n bits of e. -/
def powMod (m a e : Nat) : Nat → Nat
  | 0 => 1 % m
  | n + 1 => let r := powMod m (a * a % m) (e / 2) n; if e % 2 = 1 then a * r % m else r

/-- The inverse modulo a prime m below 2^256. -/
def invMod (m a : Nat) : Nat := powMod m (a % m) (m - 2) 256

/-- The sum of two points of the curve; none is the point at infinity. -/
def p256Add (x y : Option (Nat × Nat)) : Option (Nat × Nat) :=
  match x, y with
  | none, y => y
  | x, none => x
  | some (a, b), some (c, d) =>
    if a = c ∧ (b + d) % p256P = 0 then none
    else
      let l := (if a = c then (3 * a * a + p256P - 3) * invMod p256P (2 * b) else (d + p256P - b) * invMod p256P (c + p256P - a)) % p256P
      let e := (l * l + 2 * p256P - a - c) % p256P
      some (e, (l * (a + p256P - e) + p256P - b) % p256P)

/-- k times a point, over the low n bits of k. -/
def p256Mul (x : Option (Nat × Nat)) (k : Nat) : Nat → Option (Nat × Nat)
  | 0 => none
  | n + 1 => let r := p256Mul (p256Add x x) (k / 2) n; if k % 2 = 1 then p256Add x r else r

/-- The signature (r, s) is valid over digest e under the public key. -/
def ecdsaOk (key : Nat × Nat) (e r s : Nat) : Bool :=
  let on (q : Nat × Nat) : Bool := q.1 < p256P && q.2 < p256P && (q.2 * q.2) % p256P == (q.1 * q.1 * q.1 + (p256P - 3) * q.1 + p256B) % p256P
  let w := invMod p256N s
  on key && 0 < r && r < p256N && 0 < s && s < p256N &&
    (match p256Add (p256Mul (some p256G) (e * w % p256N) 256) (p256Mul (some key) (r * w % p256N) 256) with
     | some (x, _) => x % p256N == r
     | none => false)

end Sys2Proof.Machine
end

