-- ==== Sys2Proof/Machine/Sns.lean ====
section
/-! DEFINITION. SNS: region bias, ramps, the temperature servo and the current comparators (R25 to R31). -/

namespace Sys2Proof.Machine

open Sys2Proof

/-- The HKA input of the RTD that source code k of TSRC names: RTDc is input 8c. -/
def rtdInput (c : Nat) : Nat := 8 * c

/-- The mean of n values of the given sum, in whole units: exact, or one of the two neighbours, which one is open. -/
def meanI (sum : Int) (n : Nat) : Int :=
  sum / (n : Int) + (if sum % (n : Int) != 0 && Config.roundUp sum n then 1 else 0)

/-- The bias monitor input of region r (table Housekeeping-1). -/
def biasInput (r : Fin 16) : Fin 32 := ⟨8 * (r.val / 4) + 1 + r.val % 4, by omega⟩

/-- An input's converter range set: a change makes the next sample SETTLING (R303). -/
def HkaIn.toRange (x : HkaIn) (n : Nat) : HkaIn := if x.range == n then x else { x with range := n, settle := true, low := 0 }

/-- A housekeeping input changed. -/
def State.upIn (s : State) (i : Fin 32) (f : HkaIn → HkaIn) : State :=
  { s with hka := { s.hka with ins := s.hka.ins.set i (f s.hka.ins[i]) } }

/-- An HKA result the servo may use: valid, neither STALE nor OPEN (R26). -/
def State.resUsable (s : State) (i : Nat) : Bool :=
  s.flag .hka_VALID i && !s.flag .hka_STALE i && !s.flag .hka_OPEN i

/-- The result of thermometer c, when it is usable; with tick as the servo takes it at a tick instant, to which a publication completed at that
same instant is not there yet (R309). -/
def State.rtdResult (s : State) (tick : Bool) (c : Nat) : Option Int :=
  let i := rtdInput c
  let x := s.hka.ins[(⟨i % 32, Nat.mod_lt _ (by decide)⟩ : Fin 32)]
  if tick && x.pubAt == some s.clock then x.was
  else if s.resUsable i then some (s.rdS .hka_RES_VAL i) else none

/-- The sensor-layer temperature TSRC selects, in thousandths of a degree, when it is usable (R19, R26). -/
def State.layerTemp (s : State) (tick : Bool := false) : Option Int :=
  let one := s.rtdResult tick
  match s.rd .sns_TSRC with
  | 0 => one 0
  | 1 => one 1
  | 2 => match one 0, one 1 with
    | some a, some b => some (roundHalfUp (a + b) 2)
    | _, _ => none
  | 3 => one 2
  | _ => one 3

/-- The unclamped target of region r in mV (R25). -/
def State.rawTarget (s : State) (r : Nat) : Int :=
  24000 + s.rdS .sns_BR_TRIM r + roundHalfUp ((s.rd .sns_BR_TC : Int) * (s.rdS .sns_T_USED - 20000)) 1000000
    + 10 * (s.rd .sns_VEX r : Int)

/-- The target of region r in mV, clamped at 34,000 mV (R25). -/
def State.target (s : State) (r : Nat) : Nat :=
  (if s.rawTarget r > 34000 then 34000 else s.rawTarget r).toNat

/-- The ramp of region r. -/
def State.rampOf (s : State) (r : Fin 16) : Option Ramp := s.sns.ramp[r]

/-- The ramp of region r replaced. -/
def State.setRamp (s : State) (r : Fin 16) (x : Option Ramp) : State :=
  { s with sns := { s.sns with ramp := s.sns.ramp.set r x } }

/-- The present setpoint of region r in mV: on a ramp it moves at RAMP_RATE mV/us (R28, R29). -/
def State.vNow (s : State) (r : Fin 16) : Nat :=
  match s.rampOf r with
  | none => s.rd .sns_V_SET r
  | some q =>
    let d := s.rd .sns_RAMP_RATE * ((s.clock - q.t0) / usFu)
    if q.up then min (q.v0 + d) (max q.v0 (s.target r)) else q.v0 - d

/-- A change of RAMP_RATE acts from now on: each ramp goes on from the value it has reached, its whole microseconds counted (R28, R29). -/
def State.rampRebase (s : State) : State :=
  s.each (List.finRange 16) (fun r s =>
    match s.rampOf r with
    | none => s
    | some q => s.setRamp r (some { q with t0 := q.t0 + usFu * ((s.clock - q.t0) / usFu), v0 := s.vNow r }))

/-- Region r's bias starts: the setpoint rises from its present value (R28). -/
def State.biasStart (s : State) (r : Fin 16) : State :=
  let v := s.vNow r
  (((((s.upIn (biasInput r) (fun x => x.toRange 2)).setRamp r (some ⟨s.clock, v, true⟩)).wrBit .sns_BIAS_EN 0 r
    true).wrB .sns_RAMPING r true).wrB .sns_BIAS_OK r false).wr .sns_V_SET r v

/-- Writing BIAS_EN of region r to 1 (R28): the bias starts, or BIAS_EN_ERR is set and the bit stays 0. -/
def State.biasEnSet (s : State) (r : Fin 16) : State :=
  if s.rdBit .sns_BIAS_EN 0 r then s
  else if (s.pwr == .ready || s.pwr == .acquire) && s.pmr.standbyPend.isNone && s.layerTemp.isSome && !s.flag .sns_OC_TRIP r then
    s.biasStart r
  else s.wrB .sns_BIAS_EN_ERR 0 true

/-- Writing BIAS_EN of region r to 0: the region ramps down at RAMP_RATE (R29). -/
def State.biasEnClear (s : State) (r : Fin 16) : State :=
  if s.rdBit .sns_BIAS_EN 0 r then
    let v := s.vNow r
    ((((s.setRamp r (some ⟨s.clock, v, false⟩)).wrBit .sns_BIAS_EN 0 r false).wrB .sns_RAMPING r false).wrB .sns_BIAS_OK r
      false).wr .sns_V_SET r v
  else s

/-- The crowbar takes region r below 1 V and its BIAS_EN bit clears (R29, R30). -/
def State.crowbar (s : State) (r : Fin 16) : State :=
  ((((s.setRamp r none).wrBit .sns_BIAS_EN 0 r false).wrB .sns_RAMPING r false).wrB .sns_BIAS_OK r false).wr .sns_V_SET r 0

/-- Every region crowbarred, as on SAFE entry (R29). -/
def State.crowbarAll (s : State) : State := s.each (List.finRange 16) (fun r s => s.crowbar r)

/-- Every region ramped down, as on a STANDBY command (R19) or the BIAS class's level 2. -/
def State.rampDownAll (s : State) : State := s.each (List.finRange 16) (fun r s => s.biasEnClear r)

/-- The end of a ramp of region r: the enable ramp reaches its target, or the disable ramp falls below 1 V. An enable ramp that starts
above its target ends at once with V_SET at the target (DESIGN CHOICE, log entry 140). -/
def State.rampDone (s : State) (r : Fin 16) : State :=
  match s.rampOf r with
  | none => s
  | some q =>
    if q.up then
      if s.target r ≤ s.vNow r then
        (((s.wr .sns_V_SET r (s.target r)).wrB .sns_RAMPING r false).wrB .sns_BIAS_OK r true).setRamp r none
      else s
    else if s.vNow r < 1000 then (s.wr .sns_V_SET r 0).setRamp r none
    else s

/-- The servo's choice of T_USED at a tick or pacing instant (R26, R27): a usable source is taken, an unusable one
freezes T_USED while a region has BIAS_EN, and SERVO_EN clear holds it at 20,000. -/
def State.servoTemp (s : State) : State :=
  let frozen := s.flag .sns_BIAS_FROZEN
  let leave (s : State) : State :=
    if frozen then (s.wrB .sns_BIAS_FROZEN 0 false).emit 0x0102 (s.rd .sns_TSRC + (s.rd .sns_T_USED) <<< 32) else s
  if !s.flag .sns_SERVO_EN then leave (s.wrS .sns_T_USED 0 20000)
  else match s.layerTemp true with
    | some x => leave (s.wrS .sns_T_USED 0 x)
    | none =>
      if !frozen && s.rd .sns_BIAS_EN != 0 then
        (s.wrB .sns_BIAS_FROZEN 0 true).detect clsBias 1 unitModule
          (some (0x0101, s.rd .sns_TSRC + (s.rd .sns_T_USED) <<< 32))
      else s

/-- The setpoint of region r once per tick (R25): VCLAMP when clamped, and off a ramp one BIAS_SLEW step to the target. -/
def State.servoStep (s : State) (r : Fin 16) : State :=
  if s.rdBit .sns_BIAS_EN 0 r then
    let s1 := if s.rawTarget r > 34000 then s.wrB .sns_VCLAMP r true else s
    match s.rampOf r with
    | some _ => s1
    | none =>
      let v : Int := s.rd .sns_V_SET r
      let slew : Int := s.rd .sns_BIAS_SLEW
      s1.wr .sns_V_SET r (v + clampI (-slew) slew ((s.target r : Int) - v)).toNat
  else s

/-- The bias servo at a tick boundary or pacing instant. -/
def State.snsTick (s : State) : State :=
  s.on .sns (fun s => s.servoTemp.each (List.finRange 16) (fun r s => s.servoStep r))

/-- Every region's bias lies below 1 V (R19). -/
def State.biasDown (s : State) : Bool := (List.finRange 16).all (fun r => s.vNow r < 1000)

/-- BIAS_EN_SET: a 1 written to BIAS_EN of region r. -/
def execBiasEnSet (t : Nat) (r : Fin 16) (s : State) : Host.Outcome State Fault Refusal :=
  run t (fun s => s.on .sns (fun s => s.biasEnSet r)) s

/-- BIAS_EN_CLEAR: a 0 written to BIAS_EN of region r. -/
def execBiasEnClear (t : Nat) (r : Fin 16) (s : State) : Host.Outcome State Fault Refusal :=
  run t (fun s => s.on .sns (fun s => s.biasEnClear r)) s

/-- BIAS_RAMP_DONE: the ramp of region r ends. -/
def execBiasRampDone (t : Nat) (r : Fin 16) (s : State) : Host.Outcome State Fault Refusal :=
  run t (fun s => s.on .sns (fun s => s.rampDone r)) s

/-- REGION_OVERCURRENT: the current of region r stayed above OC_LIMIT for OC_FILT us (R30). -/
def execRegionOvercurrent (t : Nat) (r : Fin 16) (s : State) : Host.Outcome State Fault Refusal :=
  run t (fun s => s.on .sns (fun s =>
    ((s.crowbar r).wrB .sns_OC_TRIP r true).detect clsOverCurrent 2 (unitRegion r) (some (0x0103, r)))) s

/-- RAIL_OVERCURRENT: the bias input rail stayed above OC_TOTAL for 2 us: a level 4 supply fault (R31). -/
def execRailOvercurrent (t : Nat) (s : State) : Host.Outcome State Fault Refusal :=
  run t (fun s => s.on .sns (fun s =>
    (s.wrB .sns_OC_TOTAL_TRIP 0 true).detect clsSupply 4 unitModule (some (0x0104, 0)))) s

end Sys2Proof.Machine
end

