-- ==== Sys2Proof/Machine/Hka.lean ====
section
/-! DEFINITION. HKA: scans, thermometers, ranges, limits, self-calibration, injected conversions and TEC_PWM (R296 to R312). -/

namespace Sys2Proof.Machine

open Sys2Proof

/-! ### Inputs (table Housekeeping-1) -/

def State.hkaIn (s : State) (i : Fin 32) : HkaIn := s.hka.ins[i]
def State.rtdCh (s : State) (c : Fin 4) : RtdCh := s.hka.rtd[c]
def State.upRtd (s : State) (c : Fin 4) (f : RtdCh → RtdCh) : State :=
  { s with hka := { s.hka with rtd := s.hka.rtd.set c (f s.hka.rtd[c]) } }

def isRtdIn (i : Nat) : Bool := i % 8 == 0
def isBiasIn (i : Nat) : Bool := 1 ≤ i % 8 && i % 8 ≤ 4
def isRailIn (i : Nat) : Bool := i % 8 == 5 || i % 8 == 6
/-- The rail of an input. -/
def railOf (i : Nat) : Nat := 2 * (i / 8) + (i % 8 - 5)

/-- The input of thermometer channel c. -/
def rtdIn (c : Fin 4) : Fin 32 := ⟨8 * c.val, by omega⟩

/-- RES_VAL and its AGE as read (table Housekeeping-12). -/
def State.hkaAge (s : State) (i : Fin 32) : Nat :=
  match (s.hkaIn i).pubAt with
  | none => 0xFFFF
  | some a => satN 0xFFFF ((s.clock - a) / msFu)

/-! ### Conversion (R303, R306) -/

/-- Full scale of a bias range in nA. -/
def fullScale : Nat → Int
  | 0 => 10000
  | 1 => 1000000
  | _ => 50000000

/-- The denominator of a sample's value: offsets in 1/16 LSB, two gains of 15 places, full scale at the code 65,535. -/
def sampleDen : Int := 16 * 32768 * 32768 * 65535

/-- The gain of input i on a bias range, beside its converter's. -/
def State.rangeGain (s : State) (i range : Nat) : Nat :=
  if !isBiasIn i then 32768
  else match range with
    | 0 => s.rd .hka_RANGE_GAIN0 (i / 8)
    | 1 => s.rd .hka_RANGE_GAIN1 (i / 8)
    | _ => s.rd .hka_RANGE_GAIN2 (i / 8)

/-- The value of a sample of input i on a range, as a multiple of 1 / sampleDen, under the factors in force: the code less CAL_OFS, times
CAL_GAIN and the range's gain (R306; DEDUCED, log entry 117). -/
def State.sampleVal (s : State) (i range : Nat) (v : HkaSample) : Int :=
  let code : Int := if isRtdIn i then v.code.toInt else v.code.toNat
  let full := if isBiasIn i then fullScale range else v.full
  (16 * code - s.rdS .hka_CAL_OFS (i / 8)) * s.rd .hka_CAL_GAIN (i / 8) * s.rangeGain i range * full

/-! ### STALE (R301, R304) -/

/-- STALE where it is due: a thermometer after five excitation periods with no result, another input after 10 ms and two
boundaries. -/
def State.staleDue (s : State) (i : Fin 32) : Bool :=
  let x := s.hkaIn i
  let since := s.clock - x.pubAt.getD s.hka.startAt
  if isRtdIn i then 5 * secFu ≤ since * (if s.flag .hka_MAINS then 60 else 50)
  else 2 ≤ x.ticks && 10 * msFu ≤ since

def State.hkaStale (s : State) : State :=
  s.each (List.finRange 32) (fun i s => s.when (s.staleDue i) (fun s => s.wrB .hka_STALE i true))

/-! ### Limits (R305, table Housekeeping-4) -/

/-- The nominal voltage of a rail in mV; rail 0 has none. -/
def railNominal : Nat → Nat
  | 1 => 36000 | 2 => 1800 | 3 => 750 | 4 => 750 | 5 => 1050 | 6 => 500 | 7 => 900
  | _ => 0

/-- The side on which x / d lies outside n % of the nominal value: true is high. -/
def outside (nom n : Nat) (x d : Int) : Option Bool :=
  if 100 * x < (100 - n : Nat) * nom * d then some false
  else if (100 + n : Nat) * nom * d < 100 * x then some true else none

/-- The side on which a published result lies outside its level 1 limit. -/
def State.out1 (s : State) (i : Nat) (x : Int) : Option Bool :=
  if isRailIn i then
    if railOf i = 0 then (if x < 6000 then some false else if 40000 < x then some true else none)
    else outside (railNominal (railOf i)) 5 x 1
  else if i % 8 = 7 then (if (1000 * s.rd .hka_DIE_T_WARN : Nat) < x then some true else none)
  else none

/-- The side on which a sample x / sampleDen lies outside its level 4 limit. -/
def State.out4 (s : State) (i : Nat) (x : Int) : Option Bool :=
  if isRailIn i then (if railOf i = 0 then none else outside (railNominal (railOf i)) 10 x sampleDen)
  else if i % 8 = 7 then (if (1000 * s.rd .hka_DIE_T_TRIP : Nat) * sampleDen < x then some true else none)
  else none

/-- EV_DATA of 0x1204: input, side, level and result. -/
def limitData (i : Nat) (high : Bool) (lvl : Nat) (x : Int) : Nat :=
  i + b2n high <<< 5 + lvl <<< 6 + toU 32 x <<< 32

/-- A limit crossing: rail 0 is reported only, a rail is a supply fault, a die temperature an over-temperature fault. -/
def State.crossing (s : State) (i : Nat) (high : Bool) (lvl : Nat) (x : Int) : State :=
  if isRailIn i && railOf i == 0 then s.emit 0x1204 (limitData i high 0 x)
  else if isRailIn i then s.detect clsSupply lvl unitModule (some (0x1204, limitData i high lvl x))
  else s.detect clsOverTemp lvl (unitHka i) (some (0x1204, limitData i high lvl x))

/-- A usable sample x / sampleDen against the level 4 limit: the fourth outside in a row crosses it. -/
def State.check4 (s : State) (i : Fin 32) (x : Int) : State :=
  match s.out4 i x with
  | none => s.upIn i (fun y => { y with out4 := 0 })
  | some high =>
    let n := (s.hkaIn i).out4 + 1
    (s.upIn i (fun y => { y with out4 := n })).when (n == 4) (fun s => s.crossing i high 4 (meanI x sampleDen.toNat))

/-- A published result against the level 1 limit. -/
def State.check1 (s : State) (i : Fin 32) (x : Int) : State :=
  let o := s.out1 i x
  let s1 := s.upIn i (fun y => { y with out1 := o })
  match o with
  | none => s1
  | some high => s1.when ((s.hkaIn i).out1 != some high) (fun s => s.crossing i high 1 x)

/-! ### Samples of a scan (R296, R302, R303) -/

/-- The clamp flag of a sample: CLAMP_SEEN and CLAMP (R302). -/
def State.clampSeen (s : State) (i : Fin 32) : State :=
  (s.wrBit .hka_CLAMP_SEEN 0 i true).wrB .hka_CLAMP i true

/-- A sample is at or above its range's full scale: by its value, or with no code left above it (R303; DESIGN CHOICE, log entry 117). -/
def State.sampleOvr (s : State) (i range : Nat) (v : HkaSample) : Bool :=
  v.code == 0xFFFF || fullScale range * sampleDen ≤ s.sampleVal i range v

/-- A bias sample: its flags, whether it is usable, and the range of the next one (R303). -/
def State.biasSample (s : State) (i : Fin 32) (v : HkaSample) : State :=
  let x := s.hkaIn i
  let val := s.sampleVal i x.range v
  let ovr := s.sampleOvr i x.range v
  let low := if x.range ≠ 0 ∧ 100 * val < 8 * fullScale (x.range - 1) * sampleDen then x.low + 1 else 0
  let usable := !v.clamp && !x.settle && (!ovr || x.range == 2)
  let val := if ovr then fullScale 2 * sampleDen else val
  let y : HkaIn := { x with
    last := x.range, ovr := x.ovr || ovr, clamp := x.clamp || v.clamp, settle := false, low := low,
    sum := x.sum + (if usable then val else 0), n := x.n + b2n usable }
  let y := if ovr && x.range != 2 then y.toRange (x.range + 1) else if low == 16 then y.toRange (x.range - 1) else y
  (s.upIn i (fun _ => y)).wrB .hka_SETTLING i x.settle

/-- A rail or die temperature sample. -/
def State.plainSample (s : State) (i : Fin 32) (v : HkaSample) : State :=
  if v.clamp then s.upIn i (fun x => { x with clamp := true })
  else
    let val := s.sampleVal i 0 v
    (s.upIn i (fun x => { x with sum := x.sum + val, n := x.n + 1 })).check4 i val

/-- A sample added to a half-period: not in the first 500 us after a reversal, and not clamped (R299, R302). -/
def RtdHalf.add (h : RtdHalf) (val : Int) (clamp blank : Bool) : RtdHalf :=
  { sum := h.sum + (if blank || clamp then 0 else val), n := h.n + b2n (!blank && !clamp), all := h.all + 1,
    clamped := h.clamped + b2n clamp }

/-- A thermometer sample of the half-period in progress. -/
def State.rtdSample (s : State) (c : Fin 4) (v : HkaSample) : State :=
  if !(s.rtdCh c).on then s else
  let blank := match s.hka.revAt with
    | some a => decide (s.clock < a + 500 * usFu)
    | none => false
  let val := s.sampleVal (rtdIn c) 0 v
  s.upRtd c (fun x =>
    if s.hka.half % 2 == 0 then { x with a := x.a.add val v.clamp blank, clamp := x.clamp || v.clamp }
    else { x with b := x.b.add val v.clamp blank, clamp := x.clamp || v.clamp })

/-- The sample of input i. -/
def State.hkaSample (s : State) (i : Fin 32) (v : HkaSample) : State :=
  let s1 := s.when v.clamp (fun s => s.clampSeen i)
  if isRtdIn i then s1.rtdSample ⟨i.val / 8, by omega⟩ v
  else if isBiasIn i then s1.biasSample i v
  else s1.plainSample i v

/-! ### Publication at a boundary (R304) -/

/-- An input's interval ends: its mean is published, or nothing. -/
def State.hkaPublish (s : State) (i : Fin 32) : State :=
  if isRtdIn i then s else
  let x := s.hkaIn i
  let fresh (x : HkaIn) : HkaIn := { x with sum := 0, n := 0, ovr := false, clamp := false }
  if x.n = 0 then s.upIn i (fun x => { fresh x with ticks := x.ticks + 1 })
  else
    let m := meanI x.sum (x.n * sampleDen.toNat)
    let s1 := (((((s.wrS .hka_RES_VAL i m).wrB .hka_VALID i true).wrB .hka_STALE i false).wrB .hka_OVR i x.ovr).wrB .hka_CLAMP
      i x.clamp).when (isBiasIn i) (fun s => s.wr .hka_RANGE i x.last)
    (s1.upIn i (fun x => { fresh x with ticks := 0, pubAt := some s.clock })).check1 i m

/-- The intervals of all inputs end; the core publishes nothing while its members are restarted, and the intervals run on (R327; log entry 125). -/
def State.hkaClose (s : State) : State :=
  if s.flt.coreDown then s else s.each (List.finRange 32) (fun i s => s.hkaPublish i)

/-- HKA at a tick boundary or pacing instant; the scan of that instant may have closed the interval already. -/
def State.hkaTick (s : State) : State :=
  s.on .hka (fun s =>
    if s.hka.closed then State.hkaStale { s with hka := { s.hka with closed := false } }
    else s.hkaClose.hkaStale)

/-! ### Scans (R296, R297) -/

/-- The tick or pacing instant has come whose boundary is still to run. -/
def State.tickCome (s : State) : Bool :=
  s.pwr != .off && s.pwr != .start && !bit s.held Blk.seq.idx &&
    (if s.running then decide (s.tickTime s.nextTick ≤ s.tbNow)
     else match s.seq.boundaryAt with
       | some a => decide (a + msFu ≤ s.clock)
       | none => true)

/-- The last scan start that SCAN_TRIG has selected by now (R297): of the scan timer, which restarts at each tick or pacing instant; of the
rising edges of TEC_PWM, TEC_DLY behind each; or the tick instant alone. -/
def State.scanSlot (s : State) : Option Nat :=
  let tick (grid : Nat → Nat) : Option Nat :=
    if s.tickCome then (if s.hka.closed then none else some s.clock) else s.seq.boundaryAt.map grid
  match s.rd .hka_SCAN_TRIG with
  | 0 =>
    let p := s.rd .hka_SCAN_PER * 10 * usFu
    tick (fun a => a + (s.clock - a) / p * p)
  | 1 => (s.hka.edges.map (fun a => a + s.rd .hka_TEC_DLY * 100 * nsFu)).find? (fun a => a ≤ s.clock)
  | _ => tick (fun a => a)

/-- A scan start has come that no scan has followed yet and no self-calibration covered, and no injected conversion occupies a converter
(R297, R306). -/
def State.scanDue (s : State) : Bool :=
  !s.flag .hka_CAL_BUSY && !s.flag .hka_INJ_BUSY &&
    (match s.scanSlot with | some a => decide (s.hka.scanFrom ≤ a && a ≤ s.clock) | none => false)

/-- The four converters sample position m together, m us behind the scan's start (R296). -/
def State.scanPos (s : State) (v : Vector HkaSample 32) (m : Nat) : State :=
  let t := s.clock
  let s := State.each { s with clock := t + m * usFu } (List.finRange 4) (fun c s =>
    let i : Fin 32 := ⟨(8 * c.val + m) % 32, Nat.mod_lt _ (by decide)⟩
    s.hkaSample i v[i])
  { s with clock := t }

/-- A scan of all 32 inputs, at its start; none runs during a self-calibration (R297, R306). One that starts at the tick instant belongs to the
interval behind it, whichever of the two commands comes first (R304). -/
def State.hkaScan (s : State) (v : Vector HkaSample 32) : State :=
  if s.scanDue then
    let s := if s.tickCome && !s.hka.closed then
        let s := s.hkaClose
        { s with hka := { s.hka with closed := true } }
      else s
    let s : State := { s with hka := { s.hka with scanFrom := s.clock + 1 } }
    (s.each (List.range 8) (fun m s => s.scanPos v m)).hkaStale
  else s

/-! ### Thermometers (R298 to R301) -/

/-- 10^27 times R(t) / 1000 ohm of IEC 60751, t in thousandths of a degree. -/
def cvdScaled (t : Int) : Int :=
  10 ^ 27 + 39083 * 10 ^ 17 * t - 5775 * 10 ^ 11 * t ^ 2 - (if t < 0 then 4183 * (t - 100000) * t ^ 3 else 0)

/-- The temperature at which the resistance num / den ohm is reached, rounded down to a thousandth of a degree. -/
def cvdFloor (num : Int) (den : Nat) : Int :=
  (List.range 20).foldl (fun t k =>
    let u := t + 2 ^ (19 - k)
    if cvdScaled u * den ≤ num * 10 ^ 24 then u else t) (-200000)

/-- The inverse of R299, in thousandths of a degree; the rounding is open, and the value outside the standard's span. -/
def cvdInverse (num : Int) (den : Nat) : Int :=
  let t := cvdFloor num den
  if num * 10 ^ 24 < cvdScaled (-200000) * den || cvdScaled 850000 * den < num * 10 ^ 24 then Config.cvdOutside num den
  else if cvdScaled t * den = num * 10 ^ 24 then t else t + (if Config.roundUp num den then 1 else 0)

/-- A half-period is complete: eight usable samples, and at most a quarter of its samples clamped. -/
def RtdHalf.complete (h : RtdHalf) : Bool := 8 ≤ h.n && 4 * h.clamped ≤ h.all

/-- The resistance of period n as a fraction, by the excitation current in 10 nA: positive half first when n is even. -/
def rtdRatio (a b : RtdHalf) (odd : Bool) (iexc : Nat) : Int × Nat :=
  let d := a.sum * b.n - b.sum * a.n
  ((if odd then -d else d), a.n * b.n * 2 * iexc * 10 * sampleDen.toNat)

/-- A thermometer result goes out: VALID, STALE cleared, and the recovery reported (R300, R301). -/
def State.rtdPublish (s : State) (c : Fin 4) (t : Int) : State :=
  let i := rtdIn c
  let x := s.rtdCh c
  ((((((s.wrS .hka_RES_VAL i t).wrB .hka_VALID i true).wrB .hka_STALE i false).wrB .hka_CLAMP i x.clamp).upIn i
    (fun y => { y with pubAt := some s.clock, was := if s.resUsable i then some (s.rdS .hka_RES_VAL i) else none })).upRtd c (fun x => { x with recover := false })).when x.recover
      (fun s => s.emit 0x1202 c)

/-- The end of a period of channel c. -/
def State.rtdEnd (s : State) (c : Fin 4) : State :=
  let x := s.rtdCh c
  let next (x : RtdCh) (h : Option (Int × Nat)) : RtdCh :=
    { x with a := {}, b := {}, cut := s.flag .hka_CAL_BUSY, dev := false, part := false, hist := h, clamp := h.isSome && (x.a.clamped + x.b.clamped != 0) }
  if !x.on then s
  else if x.stop then
    (s.upRtd c (fun x => { next x none with on := false, stop := false, run := 0 })).wrB .hka_VALID (rtdIn c) false
  else if s.flag .hka_OPEN (rtdIn c) then
    (s.upRtd c (fun x => next x none)).when (!x.dev && !x.part) (fun s =>
      ((s.wrB .hka_OPEN (rtdIn c) false).wrBit .hka_RTD_OPEN 0 c false).upRtd c (fun x => { x with recover := true }))
  else if x.cut || !x.a.complete || !x.b.complete then s.upRtd c (fun x => next x none)
  else
    let r := rtdRatio x.a x.b (s.hka.half / 2 % 2 == 1) (s.rd .hka_IEXC c)
    let s1 := match x.hist with
      | none => s
      | some q =>
        let num := r.1 * q.2 + q.1 * r.2
        let den := 2 * r.2 * q.2
        if (700 * den : Nat) ≤ num ∧ num ≤ (1650 * den : Nat) then
          (s.wrB .hka_OOR (rtdIn c) false).rtdPublish c (cvdInverse num den)
        else s.wrB .hka_OOR (rtdIn c) true
    s1.upRtd c (fun x => next x (some r))

/-- Half an excitation period: of 20.000 ms, or with MAINS = 1 of 16.667 ms (R298). -/
def State.halfFu (s : State) : Nat := if s.flag .hka_MAINS then 16667 * usFu / 2 else 10 * msFu

/-- The present half-period is over, and lay in the half of its period that p says: 0 the first, 1 the second. -/
def State.halfOver (s : State) (p : Nat) : Bool := s.hka.half % 2 == p && s.hka.halfAt + s.halfFu ≤ s.clock

/-- The shared count's next half-period inside a period: the polarity reverses. -/
def State.rtdReversal (s : State) : State :=
  if s.halfOver 0 then { s with hka := { s.hka with half := s.hka.half + 1, halfAt := s.clock, revAt := some s.clock } } else s

/-- The end of an excitation period. -/
def State.rtdPeriodEnd (s : State) : State :=
  if s.halfOver 1 then
    let s1 := s.each (List.finRange 4) (fun c s => s.rtdEnd c)
    State.hkaStale { s1 with hka := { s1.hka with half := s1.hka.half + 1, halfAt := s1.clock } }
  else s

/-- Channel c is declared OPEN (R300). -/
def State.rtdOpen (s : State) (c : Fin 4) : State :=
  ((((((s.wrB .hka_OPEN (rtdIn c) true).wrB .hka_STALE (rtdIn c) true).wrB .hka_VALID (rtdIn c) false).wrBit .hka_RTD_OPEN 0 c
    true).upRtd c (fun x => { x with dev := true, cut := true, hist := none, recover := false })).detect clsHousekeeping 1
      (unitRtd c) (some (0x1201, c)))

/-- One comparison of the excitation monitor, blanked for 25 us after a reversal: the twentieth deviation in a row is OPEN. -/
def State.rtdMonitor (s : State) (dev : BitVec 4) : State :=
  let blank := match s.hka.revAt with
    | some a => decide (s.clock < a + 25 * usFu)
    | none => false
  if blank then s.hkaStale
  else (s.each (List.finRange 4) (fun c s =>
    if !(s.rtdCh c).on then s
    else if bit dev.toNat c then
      let n := (s.rtdCh c).run + 1
      (s.upRtd c (fun x => { x with run := n, dev := true })).when (n == 20 && !s.flag .hka_OPEN (rtdIn c)) (fun s => s.rtdOpen c)
    else s.upRtd c (fun x => { x with run := 0 }))).hkaStale

/-! ### Self-calibration and injected conversions (R306 to R308) -/

/-- Every period in progress is incomplete. -/
def State.cutPeriods (s : State) : State := s.each (List.finRange 4) (fun c s => s.upRtd c (fun x => { x with cut := true }))

/-- A self-calibration starts. -/
def State.calStart (s : State) (startup : Bool) : State :=
  let s1 := (s.wrB .hka_CAL_BUSY 0 true).cutPeriods
  { s1 with hka := { s1.hka with startup := startup, calPend := false } }

/-- A request for a self-calibration: it waits for an injected conversion. -/
def State.calAsk (s : State) : State :=
  if s.flag .hka_INJ_BUSY then { s with hka := { s.hka with calPend := true } } else s.calStart false

/-- Scan starts that a self-calibration covered are past (R306, table Housekeeping-5). -/
def State.scanOn (s : State) : State := { s with hka := { s.hka with scanFrom := s.clock } }

/-- CAL_PERIOD minutes are over since the last time, the start or the change of CAL_PERIOD: a self-calibration is due (R306). -/
def State.calPeriodic (s : State) : State :=
  let p := s.rd .hka_CAL_PERIOD * 60 * secFu
  if p != 0 && s.hka.perAt + p ≤ s.clock then
    State.when { s with hka := { s.hka with perAt := s.clock } } (!s.flag .hka_CAL_BUSY) State.calAsk
  else s

/-- CAL_REQ written. -/
def State.calReq (s : State) : State := if s.flag .hka_CAL_BUSY then s.bump .hka_CAL_IGN 0 else s.calAsk

/-- The factors lie inside the limits of R306. -/
def factorsGood (f : CalFactors) : Bool :=
  let gain (g : Nat) : Bool := 98 * 32768 ≤ 100 * g && 100 * g ≤ 102 * 32768
  decide (-1024 ≤ f.ofs) && decide (f.ofs ≤ 1024) && gain f.gain && gain f.range0 && gain f.range1 && gain f.range2 &&
    decide (24500 ≤ f.iexc) && decide (f.iexc ≤ 25500)

/-- The factors of converter c put in force. -/
def State.setFactors (s : State) (c : Fin 4) (f : CalFactors) : State :=
  (((((s.wrS .hka_CAL_OFS c f.ofs).wr .hka_CAL_GAIN c f.gain).wr .hka_RANGE_GAIN0 c f.range0).wr .hka_RANGE_GAIN1 c
    f.range1).wr .hka_RANGE_GAIN2 c f.range2).wr .hka_IEXC c f.iexc

/-- A self-calibration ends with the factors it measured. -/
def State.calDone (s : State) (f : Vector CalFactors 4) : State :=
  if !s.flag .hka_CAL_BUSY then s else
  let s1 := (s.wrB .hka_CAL_BUSY 0 false).scanOn
  let s2 : State := { s1 with hka := { s1.hka with startup := false } }
  if (List.finRange 4).all (fun c => factorsGood f[c]) then
    (s2.each (List.finRange 4) (fun c s => s.setFactors c f[c])).emit 0x1203 0
  else (s2.wrB .hka_CAL_FAIL 0 true).detect clsHousekeeping 1 unitModule (some (0x1203, 1))

/-- INJ_REQ written: one request is held; an urgent one aborts a calibration, never the start-up one. -/
def State.injReq (s : State) : State :=
  if s.flag .hka_INJ_BUSY then s.bump .hka_INJ_IGN 0 else
  let s1 := (s.wrB .hka_INJ_BUSY 0 true).wrB .hka_INJ_DONE 0 false
  let s2 : State := { s1 with hka := { s1.hka with inj := s.rd .hka_INJ_INPUT } }
  if s.flag .hka_CAL_BUSY && s.flag .hka_INJ_URGENT && !s.hka.startup then
    (((s2.wrB .hka_CAL_BUSY 0 false).scanOn).wrB .hka_CAL_ABORTED 0 true).emit 0x1203 2
  else s2

/-- The value of one injected sample of input i on a range, in the unit of table Housekeeping-1: of a thermometer the temperature of its voltage
over the excitation, in the polarity that now drives it (R307; DEDUCED, log entry 117). -/
def State.injValue (s : State) (i range : Nat) (v : HkaSample) : Int :=
  let x := s.sampleVal i range v
  if isRtdIn i then
    let neg := (s.hka.half + 1) / 2 % 2 == 1
    cvdInverse (if neg then -x else x) (s.rd .hka_IEXC (i / 8) * 10 * sampleDen.toNat)
  else meanI x sampleDen.toNat

/-- The injected conversion completes; a calibration that waited for it starts. -/
def State.injDone (s : State) (v : HkaSample) : State :=
  if !s.flag .hka_INJ_BUSY || s.flag .hka_CAL_BUSY then s else
  let i : Fin 32 := ⟨s.hka.inj % 32, by omega⟩
  let range := if isBiasIn i then (s.hkaIn i).range else 0
  let s1 := ((((((s.wr .hka_INJ_CODE 0 v.code.toNat).wr .hka_INJ_IN 0 i).wr .hka_INJ_RANGE 0 range).wrB .hka_INJ_CLAMP 0
    v.clamp).wrS .hka_INJ_VALUE 0 (s.injValue i range v)).wrB .hka_INJ_DONE 0 true).wrB .hka_INJ_BUSY 0 false
  let s2 := s1.when v.clamp (fun s => s.wrBit .hka_CLAMP_SEEN 0 i true)
  s2.when s.hka.calPend (fun s => s.calStart false)

/-! ### TEC_PWM (R310) -/

/-- The present period of TEC_PWM is over, or none runs. -/
def State.tecOver (s : State) : Bool :=
  match s.hka.tec with
  | some (a, per, _) => decide (a + per * 100 * nsFu ≤ s.clock)
  | none => true

/-- A period starts with the values in force, rising where it is high at all, or the output stays low. -/
def State.tecStart (s : State) : State :=
  let duty := s.rd .hka_TEC_DUTY
  if s.tecOver then
    if s.flag .hka_TEC_EN then
      { s with hka := { s.hka with tec := some (s.clock, s.rd .hka_TEC_PER, duty),
                                   edges := if duty = 0 then s.hka.edges else (s.clock :: s.hka.edges).take 4 } }
    else { s with hka := { s.hka with tec := none } }
  else s

/-- The level of TEC_PWM: low in START, in OFF and in reset. -/
def State.tecLevel (s : State) : Bool :=
  match s.hka.tec with
  | none => false
  | some (a, per, duty) => s.alive .hka && s.pwr != .start && decide ((s.clock - a) * 65536 < duty * per * 100 * nsFu)

/-! ### Commits, start and reset (R298, R311) -/

/-- What a commit does to HKA, given MAINS, RTD_EN and CAL_PERIOD before it. -/
def State.hkaCommit (s : State) (mains en per : Nat) : State :=
  let s : State := if s.rd .hka_CAL_PERIOD == per then s else { s with hka := { s.hka with perAt := s.clock } }
  let s1 := s.each (List.finRange 4) (fun c s =>
    let was := bit en c
    let now := s.rdBit .hka_RTD_EN 0 c
    if now && !was then
      s.upRtd c (fun x => { x with on := true, stop := false, cut := true, part := true, hist := none, a := {}, b := {}, run := 0,
                                   dev := false })
    else if was && !now then s.upRtd c (fun x => { x with stop := x.on })
    else s)
  if s.rd .hka_MAINS != mains then
    let s2 := s1.each (List.finRange 4) (fun c s =>
      s.upRtd c (fun x => { x with a := {}, b := {}, hist := none, cut := s.flag .hka_CAL_BUSY, dev := false, part := false, clamp := false }))
    let neg := (s.hka.half + 1) / 2 % 2 == 1
    { s2 with hka := { s2.hka with half := 0, halfAt := s.clock, revAt := if neg then some s.clock else s2.hka.revAt } }
  else s1

/-- HKA starts: the enabled channels are excited, the 50 mA range is in force, and the start-up calibration runs. -/
def State.hkaStart (s : State) : State :=
  let h : Hka := { startAt := s.clock, halfAt := s.clock, perAt := s.clock }
  let s1 := State.each { s with hka := h } (List.finRange 4) (fun c s =>
    s.upRtd c (fun x => { x with on := s.rdBit .hka_RTD_EN 0 c }))
  s1.calStart true

/-! ### The commands -/

/-- HKA_SCAN: a scan starts. -/
def execHkaScan (t : Nat) (v : Vector HkaSample 32) (s : State) : Host.Outcome State Fault Refusal :=
  run t (fun s => s.on .hka (fun s => s.hkaScan v)) s

/-- RTD_REVERSAL: the polarity reverses inside a period. -/
def execRtdReversal (t : Nat) (s : State) : Host.Outcome State Fault Refusal :=
  run t (fun s => s.on .hka (fun s => s.rtdReversal)) s

/-- RTD_PERIOD_END: an excitation period ends. -/
def execRtdPeriodEnd (t : Nat) (s : State) : Host.Outcome State Fault Refusal :=
  run t (fun s => s.on .hka (fun s => s.rtdPeriodEnd)) s

/-- RTD_MONITOR: one comparison; bit c of dev is a deviation on channel c. -/
def execRtdMonitor (t : Nat) (dev : BitVec 4) (s : State) : Host.Outcome State Fault Refusal :=
  run t (fun s => s.on .hka (fun s => s.rtdMonitor dev)) s

/-- CAL_REQ: a 1 written to CAL_REQ. -/
def execCalReq (t : Nat) (s : State) : Host.Outcome State Fault Refusal :=
  run t (fun s => s.on .hka (fun s => s.calReq)) s

/-- HKA_CAL_PERIODIC: CAL_PERIOD minutes are over. -/
def execHkaCalPeriodic (t : Nat) (s : State) : Host.Outcome State Fault Refusal :=
  run t (fun s => s.on .hka State.calPeriodic) s

/-- HKA_CAL_DONE: a self-calibration ends. -/
def execHkaCalDone (t : Nat) (f : Vector CalFactors 4) (s : State) : Host.Outcome State Fault Refusal :=
  run t (fun s => s.on .hka (fun s => s.calDone f)) s

/-- INJ_REQ: a 1 written to INJ_REQ. -/
def execInjReq (t : Nat) (s : State) : Host.Outcome State Fault Refusal :=
  run t (fun s => s.on .hka (fun s => s.injReq)) s

/-- HKA_INJ_DONE: the injected conversion completes. -/
def execHkaInjDone (t : Nat) (x : HkaSample) (s : State) : Host.Outcome State Fault Refusal :=
  run t (fun s => s.on .hka (fun s => s.injDone x)) s

/-- TEC_PERIOD_START: a TEC_PWM period starts. -/
def execTecPeriodStart (t : Nat) (s : State) : Host.Outcome State Fault Refusal :=
  run t (fun s => s.on .hka (fun s => s.tecStart)) s

end Sys2Proof.Machine
end

