-- ==== Sys2Proof/Machine/Pfe.lean ====
section
/-! DEFINITION. PFE: pixel edges, hold-off, counters, masks, the hot-pixel detector and pulse injection (R34 to R47). -/

namespace Sys2Proof.Machine

open Sys2Proof

def State.pfeR (s : State) (r : Fin 16) : PfeR := s.pfe.r[r]
def State.setPfeR (s : State) (r : Fin 16) (x : PfeR) : State := { s with pfe := { s.pfe with r := s.pfe.r.set r x } }

/-- The 22-bit pixel address: row [21:11], column [10:0] (R38, table Pixel-24). -/
def pixAddr (r : Nat) (id : Nat) : Nat :=
  let c := id / 16
  let p := id % 16
  (512 * (r / 4) + 4 * (c / 128) + p / 4) <<< 11 + (512 * (r % 4) + 4 * (c % 128) + p % 4)

/-- The pixel 16 x cluster + index at local row y and column x of a region (R38). -/
def pixAt (y x : Nat) : Nat := 16 * (128 * (y / 4) + x / 4) + 4 * (y % 4) + x % 4

/-! ### Masks (R40 to R42) -/

/-- The mask word in force of cluster c of region r. -/
def State.maskF (s : State) (r c : Nat) : Nat := spGet s.pfe.maskF (16384 * r + c) 0

/-- MASK_CNT and MASK_TDC in force of pixel p of cluster c (R41). -/
def State.maskCnt (s : State) (r c p : Nat) : Bool := bit (s.maskF r c) (2 * p)
def State.maskTdc (s : State) (r c p : Nat) : Bool := bit (s.maskF r c) (2 * p + 1)

/-- How many pixels of region r have mask bit k (0 MASK_CNT, 1 MASK_TDC) set in the mask in force. -/
def State.maskedCount (s : State) (r k : Nat) : Nat :=
  (spRange s.pfe.maskF (16384 * r) (16384 * (r + 1))).foldl
    (fun a e => a + (List.range 16).countP (fun p => bit e.2 (2 * p + k))) 0

/-- The cluster MASK_ADDR selects. -/
def State.maskKey (s : State) (r : Fin 16) : Nat := 16384 * r + s.rd .pfer_MASK_ADDR r

/-- MASK_ADDR after an access to MASK_DATA. -/
def State.maskNext (s : State) (r : Fin 16) : State :=
  if s.flag .pfer_MASK_AUTO_INC r then s.wr .pfer_MASK_ADDR r (s.rd .pfer_MASK_ADDR r + 1) else s

/-- The mask word selected, from the shadow or in force. -/
def State.maskGet (s : State) (r : Fin 16) (inForce : Bool) : Nat :=
  spGet (if inForce then s.pfe.maskF else s.pfe.maskS) (s.maskKey r) 0

/-- A write to MASK_DATA: into the shadow, whose page turns dirty; MASK_ADDR advances (R41). -/
def State.maskWrite (s : State) (r : Fin 16) (v : Nat) : State :=
  (({ s with pfe := { s.pfe with maskS := spSet s.pfe.maskS (s.maskKey r) (v % 2 ^ 32) 0 } }).wrB .hdr_SHADOW_DIRTY
    (17 * Blk.pfe.idx + 1 + r) true).maskNext r

/-- Mask bits m of cluster word k set in force, in the shadow and in a captured configuration (R41, R43). -/
def State.maskSetBits (s : State) (k m : Nat) : State :=
  let up (x : Sp) : Sp := spSet x k (spGet x k 0 ||| m) 0
  { s with pfe := { s.pfe with maskF := up s.pfe.maskF, maskS := up s.pfe.maskS },
           staged := s.staged.map (fun g => { g with mask := up g.mask }) }

/-- MASK_SAVE written: a save starts, or is counted as ignored while one runs (R42). -/
def State.maskSave (s : State) : State :=
  if s.flag .pfe_MASK_SAVE_BUSY then s.bumpSat .pfe_MASK_SAVE_IGN 0
  else ({ s with pfe := { s.pfe with saving := some s.pfe.maskF } }).wrB .pfe_MASK_SAVE_BUSY 0 true

/-- The save ends: the flash holds the masks that were in force. -/
def State.maskSaveDone (s : State) : State :=
  match s.pfe.saving with
  | none => s
  | some m => ({ s with pfe := { s.pfe with saving := none }, flash := { s.flash with mask := some m } }).wrB
      .pfe_MASK_SAVE_BUSY 0 false

/-! ### Pixel edges (R34, R35, R39) -/

/-- The hold-off time in fu, and the longest recharge of table Pixel-1. -/
def State.holdFu (s : State) (r : Nat) : Nat := 4 * s.rd .pfer_HOLDOFF r * nsFu
def rechargeMax : Nat := 2 * nsFu

/-- Pixel id is dead: in hold-off or recharge (R34). -/
def State.pixDead (s : State) (r : Fin 16) (id : Nat) : Bool :=
  let h := spGet (s.pfeR r).hold id 0
  h != 0 && s.clock < h - 1 + s.holdFu r + rechargeMax

/-- The count enable of region r: the gate while GATE is active, else always (R35). -/
def State.countEnable (s : State) (r : Fin 16) : Bool := !s.hasMode r mGate || (s.hst.r[r]).gateOpen

/-- A comparator edge of pixel p of cluster c: hold-off starts, the counter counts it (in the new tick from the swap edge on, R36), the
cluster line carries it. -/
def State.pixelEdge (s : State) (r : Fin 16) (c p : Nat) (raw : RawCapture) : State :=
  let id := 16 * c + p
  if !s.flag .pfer_FE_EN r || (s.maskCnt r c p && s.maskTdc r c p) || s.pixDead r id then s
  else
    let x := s.pfeR r
    let up (m : Sp) : Sp := if !s.maskCnt r c p && s.countEnable r then spSet m id (min 4095 (spGet m id 0 + 1)) 0 else m
    let test := s.clock < spGet x.testEnd c 0
    let x := { x with hold := spSet x.hold id (s.clock + 1) 0 }
    let s := s.setPfeR r (if s.swapDue then { x with next := up x.next } else { x with counts := up x.counts })
    if s.maskTdc r c p then s else s.tdcEdge r c p raw test

/-- Hold-off and recharge of a pixel are complete (R34). -/
def State.holdoffEnd (s : State) (r : Fin 16) (id : Nat) : State :=
  let x := s.pfeR r
  let h := spGet x.hold id 0
  if h != 0 && h - 1 + s.holdFu r ≤ s.clock then s.setPfeR r { x with hold := spDel x.hold id } else s

/-! ### Injection (R44 to R46) -/

/-- Pixel p of cluster c is chosen by INJ_PAT (table Pixel-5). -/
def State.injected (s : State) (r : Nat) (c p : Nat) : Bool :=
  match s.rd .pfer_INJ_PAT r with
  | 0 => true
  | 1 => p == s.rd .pfer_INJ_PIX r
  | 2 => (c / 128 * 4 + p / 4 + c % 128 * 4 + p % 4) % 2 == 0
  | 3 => (c / 128 * 4 + p / 4 + c % 128 * 4 + p % 4) % 2 == 1
  | _ => (c / 128) % 2 == 0

/-- A requested instant on the 100 ps grid: the nearest multiple of 16 fu, a half going later (R44). The grid counts from the instant at
which the coarse count was 0 (DESIGN CHOICE, log entry 141). -/
def grid16 (x : Int) : Int := (x + 8) / 16 * 16

/-- Region r injects: INJ_EN, FE_EN and a non-zero amplitude (R44). -/
def State.injects (s : State) (r : Nat) : Bool :=
  s.flag .pfer_INJ_EN r && s.flag .pfer_FE_EN r && s.rd .pfer_INJ_AMP r != 0

/-- The injected amplitude reaches the rising threshold: 0.1 x INJ_AMP V against 0.20 + 0.05 x SENSE_THR V (R32, R44). -/
def State.injReaches (s : State) (r : Nat) : Bool := 4 + s.rd .pfer_SENSE_THR r ≤ 2 * s.rd .pfer_INJ_AMP r

/-- A pulse requested at the instant d of the coarse scale falls in tick k. -/
def State.injTickIs (s : State) (k : Nat) (d : Int) : Bool := s.tickOf (s.tbOf (grid16 d)) == k

/-- The pulse schedule of region r restarted at a tick instant x of the coarse scale, the next tick at y (R45); pulses that SYNC_IN edges
of earlier ticks asked for stay due. -/
def State.injTick (s : State) (r : Fin 16) (x y : Int) : State :=
  let q := s.pfeR r
  let due := if s.flag .pfer_INJ_REF r then q.injDue else []
  let s := s.setPfeR r { q with injSync := due.countP (s.injTickIs s.seq.k), injLeft := 0, injDue := due }
  let n := s.rd .pfer_INJ_COUNT r
  if s.injects r && !s.flag .pfer_INJ_REF r && n != 0 then
    let d := x + s.rd .pfer_INJ_DELAY r
    if grid16 d < y then s.setPfeR r { s.pfeR r with injDue := [d], injLeft := n - 1 } else s.wrB .pfer_INJ_OVR r true
  else s

/-- INJ_ISSUED takes the number of pulses of the tick that ends. -/
def State.injCount (s : State) (r : Fin 16) : State :=
  let q := s.pfeR r
  (s.wr .pfer_INJ_ISSUED r q.injIssued).setPfeR r { q with injIssued := 0 }

/-- A stamped SYNC_IN edge at x schedules one pulse of region r while fewer than INJ_COUNT fall in that pulse's tick (R45). -/
def State.injSyncEdge (s : State) (r : Fin 16) (x : Int) : State :=
  let q := s.pfeR r
  let d := x + s.rd .pfer_INJ_DELAY r
  let now := s.injTickIs s.seq.k d
  let n := if now then q.injSync else q.injDue.countP (s.injTickIs (s.tickOf (s.tbOf (grid16 d))))
  if s.injects r && s.flag .pfer_INJ_REF r && n < s.rd .pfer_INJ_COUNT r then
    s.setPfeR r { q with injDue := q.injDue ++ [d], injSync := q.injSync + b2n now }
  else s

/-- What a converter latches at the instant x of the coarse scale: its counts, and the phases and step of a nominal circle (R50 to R53). -/
def rawAt (x : Int) : RawCapture :=
  let n : Nat := (x / 128).toNat
  let f : Nat := (x % 128).toNat
  ⟨BitVec.ofNat 20 n, BitVec.ofNat 20 (if f < 64 then n + 2 ^ 20 - 1 else n), BitVec.ofNat 8 (sectorPattern (f / 16)),
    BitVec.ofNat 5 (f % 16 + 2)⟩

/-- How far from the grid the n-th pulse's edge lands in a region (R44): at most 30 ps, 4 fu, and the edge's jitter; the sum, at most
8 fu, is a free value (log entry 33). -/
def injOffset (n c : Nat) : Int := (Config.injOffset n c % 17 : Nat) - 8

/-- The clock skew and step error of a cluster's converter at the place f of its circle: what its table and TDC_OFF correct (R54), a free
value within a coarse period (log entry 33). -/
def clockSkew (r c f : Nat) : Int := sgn 9 (Config.clockSkew (16384 * r + c) f)

/-- What cluster c of region r latches of the n-th pulse, placed at x. -/
def injRaw (x : Int) (r n c : Nat) : RawCapture :=
  let y := x + injOffset n c
  rawAt (y + clockSkew r c (y % 128).toNat)

/-- Cluster c of region r has a pixel the pulse reaches: chosen and not held quenched. -/
def State.injCluster (s : State) (r : Nat) (c : Nat) : Bool :=
  (List.range 16).any (fun p => s.injected r c p && !(s.maskCnt r c p && s.maskTdc r c p))

/-- The pulse now due, placed at x of the coarse scale, acts on region r (R44 to R46): it is counted; when it reaches the threshold it
opens a TEST window of 1.6 ns at every injected cluster and makes an edge in every injected pixel. The window and the hold-off count from the
command's instant, the capture takes the landed one (DESIGN CHOICE, log entry 196). -/
def State.injPulse (s : State) (r : Fin 16) (x : Int) : State :=
  let q := s.pfeR r
  let s := s.setPfeR r { q with injIssued := q.injIssued + 1 }
  if s.injReaches r then
    let cs := (List.range 16384).filter (fun c => s.injCluster r c)
    let q := s.pfeR r
    let s := s.setPfeR r { q with testEnd := cs.map (fun c => (c, s.clock + 256)) }
    let n := s.free
    let s := s.fresh
    s.each cs (fun c s => s.each ((List.range 16).filter (fun p => s.injected r c p)) (fun p s =>
      s.pixelEdge r c p (injRaw x r n c)))
  else s

/-- INJECTED_PULSE: the earliest scheduled pulse of region r, once its instant has come; the one after it is scheduled, or
INJ_OVR is set when it would fall at or after the next tick instant y. -/
def State.injectedPulse (s : State) (r : Fin 16) (y : Int) : State :=
  let q := s.pfeR r
  match q.injDue with
  | [] => s
  | d :: rest =>
    if grid16 d ≤ s.local_ then
      let s := s.setPfeR r { q with injDue := rest }
      let s := if s.injects r then s.injPulse r (grid16 d) else s
      let q := s.pfeR r
      if q.injLeft = 0 then s
      else
        let d' := d + 4 * s.rd .pfer_INJ_PERIOD r * nsFu
        if grid16 d' < y then s.setPfeR r { q with injDue := [d'], injLeft := q.injLeft - 1 }
        else (s.setPfeR r { q with injLeft := 0 }).wrB .pfer_INJ_OVR r true
    else s

/-! ### Counter swap and frames (R36, R37, R43) -/

/-- The pixels of a frame that read 4,095 (R37). -/
def Frame.saturated (f : Frame) : Nat := f.pix.countP (fun e => e.2 == 4095)

/-- One pixel made hot (R43): listed while there is room, reported, its action left for the next boundary, tick k. -/
def State.makeHot (s : State) (r : Fin 16) (id k : Nat) : State :=
  let q := s.pfeR r
  let act := s.rd .pfer_HOT_ACT r
  let s := s.setPfeR r { q with hot := spSet q.hot id 1 0, hotPend := q.hotPend ++ [(id, act)],
                                hotList := if q.hotList.length < 64 then q.hotList ++ [(id, act)] else q.hotList }
  s.emit 0x0201 (pixAddr r id + act <<< 22 + (k % 2 ^ 40) <<< 24)

/-- The hot-pixel detector on a transferred frame without injected pulses (R43); k is the next boundary's tick. While HOT_THR is 0 the
runs stand as they are (DESIGN CHOICE, log entry 142). -/
def State.hotDetect (s : State) (r : Fin 16) (f : Frame) (k : Nat) : State :=
  let thr := s.rd .pfer_HOT_THR r
  if thr = 0 || f.injected then s
  else
    let q := s.pfeR r
    let runs : Sp := (f.pix.filter (fun e => thr ≤ e.2)).map (fun e => (e.1, min 15 (spGet q.hotRun e.1 0 + 1)))
    let found := (runs.filter (fun e => s.rd .pfer_HOT_RUN r ≤ e.2 && spGet q.hot e.1 0 == 0)).map (·.1)
    (s.setPfeR r { q with hotRun := runs }).each found (fun id s => s.makeHot r id k)

/-- The pending hot-pixel actions of region r at a boundary (table Pixel-4). -/
def State.hotBoundary (s : State) (r : Fin 16) : State :=
  let q := s.pfeR r
  (s.setPfeR r { q with hotPend := [] }).each q.hotPend (fun e s =>
    let k := 16384 * r + e.1 / 16
    let p := e.1 % 16
    if e.2 = 1 then s.maskSetBits k (2 ^ (2 * p + 1)) else if e.2 = 2 then s.maskSetBits k (3 * 2 ^ (2 * p)) else s)

/-- HOT_CLR: the list is emptied, every pixel eligible again, every run restarted (R43). -/
def State.hotClr (s : State) (r : Fin 16) : State :=
  s.setPfeR r { s.pfeR r with hotList := [], hot := [], hotRun := [] }

/-- What FRAME_TRANSFER_DONE does in PFE: the saturated count, then the hot-pixel detector. -/
def State.pfeFrameDone (s : State) (r : Fin 16) (f : Frame) (k : Nat) : State :=
  (s.wr .pfer_SAT_LAST r f.saturated).hotDetect r f k

/-! ### Meanings -/

/-- PIXEL_EDGE: pixel p of cluster c of region r fires; its cluster's converter would latch raw. -/
def execPixelEdge (t : Nat) (r : Fin 16) (c : Fin 16384) (p : Fin 16) (raw : RawCapture) (s : State) :
    Host.Outcome State Fault Refusal :=
  run t (fun s => s.on .pfe (fun s => s.pixelEdge r c p raw)) s

/-- PIXEL_HOLDOFF_END. -/
def execPixelHoldoffEnd (t : Nat) (r : Fin 16) (c : Fin 16384) (p : Fin 16) (s : State) :
    Host.Outcome State Fault Refusal :=
  run t (fun s => s.on .pfe (fun s => s.holdoffEnd r (16 * c + p))) s

/-- MASK_DATA_WRITE. -/
def execMaskDataWrite (t : Nat) (r : Fin 16) (v : BitVec 32) (s : State) : Host.Outcome State Fault Refusal :=
  run t (fun s => s.on .pfe (fun s => s.maskWrite r v.toNat)) s

/-- MASK_DATA_READ: the word MASK_VIEW chooses is returned and MASK_ADDR advances. -/
def execMaskDataRead (t : Nat) (r : Fin 16) (s : State) : Host.Outcome State Fault Refusal :=
  run t (fun s => s.on .pfe (fun s => { s with lastRead := s.maskGet r (s.flag .pfer_MASK_VIEW r) }.maskNext r)) s

/-- MASK_SAVE: a 1 written to MASK_SAVE. -/
def execMaskSave (t : Nat) (s : State) : Host.Outcome State Fault Refusal :=
  run t (fun s => s.on .pfe (fun s => s.maskSave)) s

/-- MASK_SAVE_DONE. -/
def execMaskSaveDone (t : Nat) (s : State) : Host.Outcome State Fault Refusal :=
  run t (fun s => s.on .pfe (fun s => s.maskSaveDone)) s

/-- HOT_CLR: a 1 written to HOT_CLR of region r. -/
def execHotClr (t : Nat) (r : Fin 16) (s : State) : Host.Outcome State Fault Refusal :=
  run t (fun s => s.on .pfe (fun s => s.hotClr r)) s

end Sys2Proof.Machine
end

