-- ==== Sys2Proof/Machine/Line.lean ====
section
/-! DEFINITION. The line of a lane: bits, scrambler, stuffing, control blocks and their layouts, and the dealing of stream blocks
(R212 to R215, R219, R231, R234). -/

namespace Sys2Proof.Machine

open Sys2Proof

/-! ### Links and lanes (R210, table Lanes-3) -/

def State.lnkUpd (s : State) (f : Lnk → Lnk) : State := { s with lnk := f s.lnk }
def State.link (s : State) (l : Fin 10) : LinkSt := s.lnk.links[l]
def State.setLink (s : State) (l : Fin 10) (x : LinkSt) : State := s.lnkUpd (fun k => { k with links := k.links.set l x })

/-- The port of link l: links 6 to 9 are the second sub-links of D0 to D3. -/
def portOf (l : Nat) : Nat := if l < 6 then l else l - 4

def laneIx (l : Fin 10) (j : Fin 2) : Fin 20 := ⟨2 * l.val + j.val, by omega⟩
def State.lane (s : State) (l : Fin 10) (j : Fin 2) : Lane := s.lnk.lanes[laneIx l j]
def State.setLane (s : State) (l : Fin 10) (j : Fin 2) (x : Lane) : State :=
  s.lnkUpd (fun k => { k with lanes := k.lanes.set (laneIx l j) x })
def otherLane (j : Fin 2) : Fin 2 := if j = 0 then 1 else 0

def laDisabled : Nat := 0
def laBackoff : Nat := 1
def laHunt : Nat := 2
def laHello : Nat := 3
def laTrain : Nat := 4
def laCompat : Nat := 5
def laAlign : Nat := 6
def laUp : Nat := 7
def laIdle : Nat := 8

/-- The state of a lane, as L0_STATE or L1_STATE reports it. -/
def laneFld (j : Fin 2) : Fld := if j = 0 then .lnk_L0_STATE else .lnk_L1_STATE
def State.laneSt (s : State) (l : Fin 10) (j : Fin 2) : Nat := s.rd (laneFld j) l
def State.setLaneSt (s : State) (l : Fin 10) (j : Fin 2) (st : Nat) : State :=
  (s.wr (laneFld j) l st).setLane l j { s.lane l j with since := s.clock }

/-- A lane of link l is in UP. -/
def State.linkUp (s : State) (l : Nat) : Bool := s.rd .lnk_L0_STATE l == 7 || s.rd .lnk_L1_STATE l == 7

/-! ### Bits on the line (R212 to R214) -/

/-- Bytes as they are sent: bit 0 of each first. -/
def bitsOf (b : List Nat) : List Bool := b.flatMap (fun x => (List.range 8).map (bit x))

/-- The byte of eight bits, first bit lowest, and the bytes of bits. -/
def byteOf (l : List Bool) : Nat := l.foldr (fun b a => b2n b + 2 * a) 0
def bytesOf (l : List Bool) : List Nat := (List.range (l.length / 8)).map (fun i => byteOf ((l.drop (8 * i)).take 8))

/-- One step of the scrambler: the bit s[n] and the state behind it, bit j of which is s[n-1-j] (R213). -/
def scrBit (st : Nat) : Bool := bit st 30 != bit st 27
def scrNext (st : Nat) : Nat := (2 * st + b2n (scrBit st)) % 2 ^ 31
def scrRun : Nat → Nat → List Bool × Nat
  | 0, st => ([], st)
  | n + 1, st => let (l, e) := scrRun n (scrNext st); (scrBit st :: l, e)

/-- Line bits with a bit stuffed after every 40th identical one, and the run behind them (R214). -/
def stuff (run : Bool × Nat) : List Bool → List Bool × (Bool × Nat)
  | [] => ([], run)
  | b :: l =>
    let n := if b == run.1 then run.2 + 1 else 1
    if n = 40 then let (k, r) := stuff (!b, 1) l; (b :: (!b) :: k, r)
    else let (k, r) := stuff (b, n) l; (b :: k, r)

/-- Bits with the stuffed ones dropped: the bits kept, the run behind them, and the stuffed bits that did not break a run
(R214). -/
def destuff (run : Bool × Nat) : List Bool → List Bool × (Bool × Nat) × Nat
  | [] => ([], run, 0)
  | b :: l =>
    if run.2 = 40 then
      let (k, r, e) := destuff (b, 1) l
      (k, r, if b == run.1 then e + 1 else e)
    else
      let (k, r, e) := destuff (if b == run.1 then (b, run.2 + 1) else (b, 1)) l
      (b :: k, r, e)

/-! ### Control blocks (R215, table Lanes-2) -/

def tyFill : Nat := 0x1E
def tyAlign : Nat := 0x2D
def tyHello : Nat := 0x33
def tyTrain : Nat := 0x4B
def tyClapA : Nat := 0x55
def tyClapB : Nat := 0x5A
def tyRestripe : Nat := 0x66
def tyFend : Nat := 0x78
def tyAck : Nat := 0x87
def tyNak : Nat := 0x8B
def tyHeart : Nat := 0x96
def tyTreq : Nat := 0xA5
def tyTdec : Nat := 0xAA

/-- The TYPEs of table Lanes-2. -/
def ctlTypes : List Nat :=
  [tyFill, tyAlign, tyHello, tyTrain, tyClapA, tyClapB, tyRestripe, tyFend, tyAck, tyNak, tyHeart, tyTreq, tyTdec]

/-- The 16 bytes of a control block: TYPE, its fields, 0 where the table names none, and CHK. -/
def ctlBlock (ty : Nat) (body : List Nat) : List Nat :=
  let b := ty :: (body ++ List.replicate (14 - body.length) 0)
  b ++ [crc8 0xFF b]

/-- A TB time as TB86, in 11 bytes. -/
def tb86 (t : Nat) : List Nat := bytesLE 11 (t % 160 + ((t / 160) % 1000000000) <<< 8 + ((t / secFu) % 2 ^ 48) <<< 38)

/-- The fields of a HELLO. -/
def helloBody (h : Hello) : List Nat :=
  [h.revMax.toNat + 16 * h.linkRev.toNat,
   h.port.toNat + 8 * h.lane.toNat + 16 * b2n h.down + 32 * b2n h.split + 64 * b2n h.ack + 128 * b2n h.leaving] ++
    bytesLE 4 h.feat.toNat ++ bytesLE 4 h.moduleId.toNat ++ bytesLE 2 h.fwVer.toNat ++ [h.mrole.toNat]

/-- The fields of a TRAIN with PRE_NOW and POST_NOW. -/
def trainBody (m : Train) (pre post : Nat) : List Nat :=
  [m.preCmd.toNat + 4 * m.postCmd.toNat + 16 * b2n m.preset + 32 * b2n m.rxReady, m.reqSeq.toNat + 16 * m.statSeq.toNat,
   m.preSt.toNat + 4 * m.postSt.toNat, pre, post]

/-- The fields of a CLAP_A and of a CLAP_B. -/
def clapBodyA (k : Clap) : List Nat := bytesLE 2 k.seq.toNat ++ tb86 k.txPrev ++ [k.tq.toNat + 16 * k.flags.toNat]
def clapBodyB (k : Clap) : List Nat := bytesLE 2 k.rxSeq.toNat ++ tb86 k.rxTime ++ [k.stepGen.toNat]

/-- The fields of a HEART; its credit fields are those of R242. -/
def heartBody (h : Heart) : List Nat :=
  [h.seq.toNat, b2n h.ackV + 2 * b2n h.tackV + 4 * b2n h.standby] ++ bytesLE 2 h.ackSeq.toNat ++ [h.tack.toNat] ++
    bytesLE 8 (h.cred.toList.foldr (fun c a => c.toNat + 4096 * a) 0)

/-- The bytes of a trigger block with its TSEQ: a TREQ or a TDEC. -/
def TBlk.block (b : TBlk) (tseq : Nat) : List Nat :=
  match b with
  | .req q => ctlBlock tyTreq ([tseq % 256, q.cls % 16, q.n % 256] ++ bytesLE 4 q.src ++ bytesLE 7 (toU 56 q.tt))
  | .dec d => ctlBlock tyTdec ([tseq % 256, d.cls % 16] ++ bytesLE 4 d.id ++ bytesLE 7 (toU 56 d.tt))

/-! ### The transmitter (R212 to R214, R219) -/

/-- One block on the line of a lane: header and payload, scrambled and stuffed; the TYPE of a control block and the whole of a FILL are
in clear. -/
def Lane.block (x : Lane) (ctl : Bool) (b : List Nat) : Lane :=
  let (ks, next) := scrRun 128 x.tx
  let fill := ctl && b.head? == some tyFill
  let key := if fill then List.replicate 128 false else if ctl then List.replicate 8 false ++ ks.drop 8 else ks
  let (l, run) := stuff (x.txBit, x.txLen) ([ctl, !ctl] ++ List.zipWith (fun a k => a != k) (bitsOf b) key)
  { x with tx := next, txBit := run.1, txLen := run.2, line := l :: x.line, fillN := if fill then 0 else x.fillN + 1 }

/-- A FILL on the line of lane j: SCR_STATE is the scrambler's state behind it. -/
def Lane.fill (x : Lane) (j : Fin 2) : Lane :=
  x.block true (ctlBlock tyFill ([j.val] ++ bytesLE 4 (scrRun 128 x.tx).2 ++ List.replicate 9 0x5A))

/-- The lane as it stands before a block sent at the clock instant now, n more to follow it at once: the time since its last block
was filled, shown as one FILL (DESIGN CHOICE, log entry 162), and a FILL comes after at most 2,047 other blocks (R219). -/
def Lane.due (x : Lane) (j : Fin 2) (now n : Nat) : Lane := if x.txAt < now || 2047 ≤ x.fillN + n then x.fill j else x

/-- The lane's transmitter runs: the lane is not off, nor held at electrical idle. -/
def State.laneTx (s : State) (l : Fin 10) (j : Fin 2) : Bool := !(s.lane l j).quiet && laHunt ≤ s.laneSt l j

/-- One block sent on lane j of link l, while its transmitter runs. -/
def State.laneBlock (s : State) (l : Fin 10) (j : Fin 2) (ctl : Bool) (b : List Nat) : State :=
  if s.laneTx l j then s.setLane l j { ((s.lane l j).due j s.clock 0).block ctl b with txAt := s.clock } else s

/-- The lane of the link's next stream block (R231, R233): both in turn, else the one that carries the stream alone, or the other where that is
not in UP. -/
def State.streamLane (s : State) (l : Fin 10) : Fin 2 :=
  let x := s.link l
  if x.two then (if x.turn then 1 else 0)
  else if s.laneSt l x.solo == laUp && s.laneTx l x.solo then x.solo
  else if s.laneSt l (otherLane x.solo) == laUp && s.laneTx l (otherLane x.solo) then otherLane x.solo else 0

/-- An ALIGN sent on both lanes; the next stream block goes to lane 0, and with two dealing to both goes on or begins (R231). -/
def State.alignPair (s : State) (l : Fin 10) (two : Bool) : State :=
  let x := s.link l
  let s := s.each (List.finRange 2) (fun j s => s.laneBlock l j true (ctlBlock tyAlign (bytesLE 2 x.alignSeq ++ [j.val])))
  let s := s.setLink l { x with blk := 0, alignSeq := (x.alignSeq + 1) % 65536, two := two, turn := false }
  { s with out := .align l x.alignSeq :: s.out }

/-- One stream block sent on link l; on two lanes an ALIGN pair follows the 8,192nd since the last (R231). -/
def State.streamBlock (s : State) (l : Fin 10) (ctl : Bool) (b : List Nat) : State :=
  let x := s.link l
  let s := (s.laneBlock l (s.streamLane l) ctl b).setLink l { x with turn := !x.turn, blk := x.blk + 1 }
  if x.two && 8192 ≤ x.blk + 1 then s.alignPair l true else s

/-- A trigger block sent on every lane of link l in UP (R230). -/
def State.trigBlock (s : State) (l : Fin 10) (n : Nat) (b : TBlk) : State :=
  s.each (List.finRange 2) (fun j s => if s.laneSt l j == laUp then s.laneBlock l j true (b.block n) else s)

/-- A clapper sent on lane j of link l (R234): its CLAP_A waits one block where the bits before its header are 30 or more of a kind. -/
def State.clapBlocks (s : State) (l : Fin 10) (j : Fin 2) (k : Clap) : State :=
  if s.laneTx l j then
    let x := (s.lane l j).due j s.clock 1
    let x := if 30 ≤ x.txLen then x.fill j else x
    s.setLane l j { (x.block true (ctlBlock tyClapA (clapBodyA k))).block true (ctlBlock tyClapB (clapBodyB k)) with txAt := s.clock }
  else s

end Sys2Proof.Machine
end

