-- ==== Sys2Proof/Machine/Tbs.lean ====
section
/-! DEFINITION. TBS: TB time, sources, clapper exchange, PTP, selection, servo, steps and holdover (R71 to R91). The
commands that may step TB time get their meaning in Time.lean, where the ticks a step jumps are processed (R85). -/

namespace Sys2Proof.Machine

open Sys2Proof

/-- Source codes of SRC_PRIO. -/
def srcExt : Nat := 1
def srcClap : Nat := 2
def srcPtp : Nat := 3

/-- TBS's own record changed. -/
def State.tbsUpd (s : State) (f : Tbs → Tbs) : State := { s with tbs := f s.tbs }

/-- The source is qualified (R75, R78, R79). -/
def State.srcQual (s : State) (k : Nat) : Bool :=
  match k with
  | 1 => s.flag .tbs_REF_QUAL && s.flag .tbs_PPS_QUAL
  | 2 => s.flag .tbs_CLAP_QUAL
  | 3 => s.flag .tbs_PTP_QUAL
  | _ => false

/-- SRC_PRIO's sources in order of priority. -/
def prioList (v : Nat) : List Nat := [bits v 0 2, bits v 2 2, bits v 4 2].filter (· != 0)

/-- The entries of a list behind the first x. -/
def after (x : Nat) : List Nat → List Nat
  | [] => []
  | a :: l => if a == x then l else after x l

/-- FREQ_WORD set by hardware, clamped to 100 ppm either way with FREQ_CLAMP (R72). -/
def State.setFreq (s : State) (x : Int) : State :=
  let c := clampI (-100000000) 100000000 x
  (s.wrS .tbs_FREQ_WORD 0 c).when (c != x) (fun s => s.wrB .tbs_FREQ_CLAMP 0 true)

/-! ### Steps (R84) -/

/-- TB time moved by d fu, never below zero: STEP_GEN and STEP_COUNT increment, STEPPED is set, record 0x0D03 goes out. -/
def State.tbStep (s : State) (d : Int) : State :=
  let now := s.tbOf s.local_
  let d := if now + d < 0 then -now else d
  let s := s.tbsUpd (fun b => { b with
    steps := ((s.local_ : Int), b.base) :: b.steps.take 63, base := b.base + d, stepped := some d, ppsOutLast := none })
  let s := ((s.bump .tbs_STEP_GEN 0).bump .tbs_STEP_COUNT 0).wrB .tbs_STEPPED 0 true
  s.emit 0x0D03 (toU 56 d + (s.rd .tbs_STEP_GEN) <<< 56)

/-- The clock moved on to the next coarse edge. -/
def State.nextEdge (s : State) : State := s.at (s.tbs.zero + coarseFu * (s.coarse + 1))

/-- A step to the TB time x at the next coarse edge. -/
def State.stepTo (s : State) (x : Nat) : State :=
  let s := s.nextEdge
  s.tbStep ((x : Int) - s.tbOf s.local_)

/-! ### Holdover and selection (R81, R86, R87) -/

/-- The mean of the integrator over its last n updates, in whole ppt. -/
def meanInteg (h : List Int) (n : Nat) : Int :=
  let l := h.take n
  if l.isEmpty then 0 else roundHalfUp (l.foldl (· + ·) 0) (65536 * l.length)

/-- Holdover entered when source k is lost (R86): FREQ_WORD takes the mean of integ, of integ itself while the source gave no update
(DESIGN CHOICE, log entry 150), or 0 from free-run; a timebase fault unless the holdover is forced. -/
def State.holdover (s : State) (k : Nat) : State :=
  if s.flag .tbs_HOLDOVER then s.wr .tbs_SRC_ACT 0 0
  else
    let h := if s.tbs.hist.isEmpty then [s.tbs.integ] else s.tbs.hist
    let s := s.setFreq (if s.flag .tbs_FREERUN then 0 else meanInteg h (s.rd .tbs_HO_AVG))
    let s := ((s.wrB .tbs_HOLDOVER 0 true).wrB .tbs_LOCKED 0 false).wr .tbs_SRC_ACT 0 0
    let s := s.tbsUpd (fun b => { b with holdSince := some s.clock, holdWarned := false, lockRun := 0, unlockRun := 0 })
    let data := k + (s.rd .tbs_FREQ_WORD) <<< 32
    if s.rd .tbs_SERVO_MODE == 1 then s.emit 0x0D04 data else s.detect clsTimebase 1 unitModule (some (0x0D04, data))

/-- The active source becomes k: counted, reported, the integrator kept, or set to the holdover FREQ_WORD as R91 sets it, and its history
begun again (R81, R82, R87; DEDUCED, log entry 151). -/
def State.srcSwitch (s : State) (k : Nat) : State :=
  let old := s.rd .tbs_SRC_ACT
  let s := s.when (s.flag .tbs_HOLDOVER) (fun s => s.tbsUpd (fun b => { b with integ := s.rdS .tbs_FREQ_WORD * 65536 }))
  let s := (s.wr .tbs_SRC_ACT 0 k).bump .tbs_SRC_SWITCHES 0
  (s.tbsUpd (fun b => { b with hist := [] })).emit 0x0D02 (old + 4 * k)

/-- A source higher in the list than the active one that has been qualified for 10 s (R81). -/
def State.revertTo (s : State) (l : List Nat) (act : Nat) : Option Nat :=
  (l.takeWhile (· != act)).find? (fun k => s.srcQual k &&
    match s.tbs.qualSince[k % 4]'(Nat.mod_lt _ (by decide)) with
    | some t => t + 10 * secFu ≤ s.clock
    | none => false)

/-- The active source is listed and qualified. -/
def State.srcGood (s : State) : Bool :=
  s.rd .tbs_SRC_ACT != 0 && (prioList (s.rd .tbs_SRC_PRIO)).contains (s.rd .tbs_SRC_ACT) && s.srcQual (s.rd .tbs_SRC_ACT)

/-- The source above the active one in the list that replaces it (R81): any qualified one in holdover or free-run, with SRC_REVERT one
qualified for 10 s. -/
def State.srcHigher (s : State) : Option Nat :=
  let l := prioList (s.rd .tbs_SRC_PRIO)
  let act := s.rd .tbs_SRC_ACT
  if s.flag .tbs_HOLDOVER || s.flag .tbs_FREERUN then (l.takeWhile (· != act)).find? (fun k => s.srcQual k)
  else if s.flag .tbs_SRC_REVERT then s.revertTo l act else none

/-- What a change of qualification, list or servo mode and the 10 s timer do at once (R81, R86): a higher source replaces the active one,
lost or not, a source is taken up at the start, and holdover is entered when none is qualified or it is forced. The loss of the active
source while only others are qualified waits for the next update. -/
def State.srcSelect (s : State) : State :=
  let act := s.rd .tbs_SRC_ACT
  if s.rd .tbs_SERVO_MODE == 1 then (if act == 0 && s.flag .tbs_HOLDOVER then s else s.holdover act)
  else match s.srcHigher with
    | some k => s.srcSwitch k
    | none =>
      if s.srcGood then s
      else match (prioList (s.rd .tbs_SRC_PRIO)).find? (fun k => s.srcQual k) with
        | none => if act != 0 then s.holdover act else s
        | some k => if act == 0 then s.srcSwitch k else s

/-- The choice at an update (R81): a source lost gives way to the first qualified one further down the list, where none above it replaces
it at once. -/
def State.srcUpdate (s : State) : State :=
  let l := prioList (s.rd .tbs_SRC_PRIO)
  let act := s.rd .tbs_SRC_ACT
  if s.rd .tbs_SERVO_MODE == 1 || act == 0 || s.srcGood || s.srcHigher.isSome then s.srcSelect
  else match ((after act l) ++ l).find? (fun k => s.srcQual k) with
    | some k => s.srcSwitch k
    | none => s.holdover act

/-- The instants since which the sources are qualified brought up to date, then the choice of R81. -/
def State.qualChanged (s : State) : State :=
  let up (k : Nat) (o : Option Nat) : Option Nat := if s.srcQual k then (if o.isSome then o else some s.clock) else none
  let q := s.tbs.qualSince
  let s := s.tbsUpd (fun b => { b with
    qualSince := #v[none, up 1 q[1], up 2 q[2], up 3 q[3]],
    everQual := b.everQual || s.srcQual 1 || s.srcQual 2 || s.srcQual 3 })
  s.srcSelect

/-- SRC_REVERT_TIMER (R81). -/
def State.revertTimer (s : State) : State := s.srcSelect

/-- HOLDOVER_WARN: holdover has lasted longer than HO_WARN seconds (R86). -/
def State.holdWarn (s : State) : State :=
  match s.tbs.holdSince with
  | some t =>
    let n := s.rd .tbs_HO_WARN
    if s.flag .tbs_HOLDOVER && n != 0 && !s.tbs.holdWarned && t + n * secFu < s.clock then
      (s.tbsUpd (fun b => { b with holdWarned := true })).emit 0x0D05 ((s.clock - t) / secFu)
    else s
  | none => s

/-! ### Servo (R82, R83) -/

/-- A gain in 1/65,536 ppt per fu: mantissa x 2^exponent. -/
def State.gain (s : State) (m e : Fld) (k : Nat) : Int := ((s.rd m k) * 2 ^ (s.rd e k) : Nat)

/-- The servo equations for error e of source k (codes 1 to 3); a is the size of the error that the runs of R83 count. -/
def State.servo (s : State) (k : Nat) (e : Int) (a : Nat) : State :=
  let lim : Int := (s.rd .tbs_SLEW_LIM * 1000000 : Nat)
  let integ := clampI (-lim * 65536) (lim * 65536) (s.tbs.integ + s.gain .tbs_KI_M .tbs_KI_E (k - 1) * e)
  let y := s.gain .tbs_KP_M .tbs_KP_E (k - 1) * e + integ
  let s := s.setFreq (clampI (-lim) lim (roundHalfUp (-y) 65536))
  let lr := if a ≤ s.rd .tbs_LOCK_THR then s.tbs.lockRun + 1 else 0
  let ur := if 16 * s.rd .tbs_UNLOCK_THR < a then s.tbs.unlockRun + 1 else 0
  let s := s.tbsUpd (fun b => { b with integ := integ, hist := (integ :: b.hist).take 4095, lockRun := lr, unlockRun := ur })
  let s := if s.rd .tbs_LOCK_CNT ≤ lr then (s.wrB .tbs_LOCKED 0 true).wrB .tbs_FREERUN 0 false else s
  if 4 ≤ ur then s.wrB .tbs_LOCKED 0 false else s

/-- An update of source k with servo error e; step is the error a step would remove, left what the error is after it, and follow says
that the time parent's STEP_GEN changed (R82 to R84, R87). Only the active, qualified source acts, and not under MANUAL or forced
holdover. An update that steps runs the servo with the error left and counts as one of the error it found (DEDUCED, log entry 152). -/
def State.servoUpdate (s : State) (k : Nat) (e step left : Int) (follow : Bool) : State :=
  let s := s.srcUpdate
  if s.rd .tbs_SERVO_MODE == 0 && s.rd .tbs_SRC_ACT == k && s.srcQual k then
    let s := (s.wrS .tbs_PHASE_ERR 0 (satS 32 e)).wrB .tbs_HOLDOVER 0 false
    let s := s.tbsUpd (fun b => { b with holdSince := none })
    let big := s.rd .tbs_STEP_THR * 1000 < step.natAbs
    if s.flag .tbs_FREERUN && !s.tbs.stepUsed && big then
      (((s.tbsUpd (fun b => { b with stepUsed := true })).nextEdge).tbStep (-step)).servo k left step.natAbs
    else if k == srcClap && follow && big then (s.nextEdge.tbStep (-step)).servo k left step.natAbs
    else s.servo k e e.natAbs
  else s

/-! ### REF_IN, PPS_IN and EXT (R73 to R75) -/

/-- One REF_IN period in fu. -/
def State.refPeriod (s : State) : Nat := if s.flag .tbs_REF_FREQ then 1600 else 16000

/-- REF_LOSS: no edge for 2 us. -/
def State.refLoss (s : State) : State :=
  ((s.tbsUpd (fun b => { b with refFrom := none })).wrB .tbs_REF_LOST 0 true |>.wrB .tbs_REF_QUAL 0 false).qualChanged

/-- REF_IN_RESUME: edges are back; qualification starts. -/
def State.refResume (s : State) : State :=
  if s.flag .tbs_REF_LOST then
    (s.tbsUpd (fun b => { b with refFrom := some s.clock })).wrB .tbs_REF_LOST 0 false
  else s

/-- REF_WINDOW: a 1 ms window read ppb parts per billion off (R73). -/
def State.refWindow (s : State) (ppb : Int) : State :=
  let s := s.wrS .tbs_REF_PPM 0 (satS 32 ppb)
  if 50000 < ppb.natAbs then
    (((s.tbsUpd (fun b => { b with refFrom := b.refFrom.map (fun _ => s.clock) })).wrB .tbs_REF_BAD 0 true).wrB
      .tbs_REF_QUAL 0 false).qualChanged
  else match s.tbs.refFrom with
    | some t => if t + 100 * msFu ≤ s.clock then (s.wrB .tbs_REF_QUAL 0 true).qualChanged else s
    | none => s

/-- The nearest whole second of a TB time, a half going later. -/
def nearestSec (x : Int) : Int := (x + (secFu / 2 : Nat)) / (secFu : Nat)

/-- A PPS_IN edge of the polarity PPS_EDGE selects, stamped x on the coarse scale, refs REF_IN periods after the one
before (R74, R75): qualification, label and cycle slip. The first edge inside the window clears PPS_LOST (DESIGN CHOICE, log entry 190). -/
def State.ppsEdge (s : State) (x : Int) (refs : Nat) : State :=
  let hz : Int := if s.flag .tbs_REF_FREQ then 100000000 else 10000000
  let inWin := s.tbs.ppsLast.isSome && ((refs : Int) - hz).natAbs ≤ (hz / 1000000).toNat
  let tb := s.tbAt x
  let s := if inWin then
      let run := s.tbs.ppsRun + 1
      let s := (s.tbsUpd (fun b => { b with ppsRun := run })).wrB .tbs_PPS_LOST 0 false
      if 3 ≤ run then s.wrB .tbs_PPS_QUAL 0 true else s
    else
      let s := s.tbsUpd (fun b => { b with ppsRun := 0 })
      if s.tbs.ppsLast.isSome then (s.wrB .tbs_PPS_LOST 0 true).wrB .tbs_PPS_QUAL 0 false else s
  let lab := s.flag .tbs_EXT_SEC_VALID && s.flag .tbs_PPS_QUAL
  let sec : Nat := if lab then s.rd .tbs_EXT_SEC else (nearestSec tb).toNat
  let s := s.when lab (fun s => s.wrB .tbs_EXT_SEC_VALID 0 false)
  let s := s.tbsUpd (fun b => { b with ppsLast := some s.clock, ppsStamp := some x, ppsSec := sec, ppsLab := lab })
  let d := tb - nearestSec tb * (secFu : Nat)
  let p := s.refPeriod
  let s := if s.flag .tbs_LOCKED && (p : Int) < 2 * (d.natAbs : Int) then
      let n := roundHalfUp d p
      ((s.tbsUpd (fun b => { b with grid := b.grid + n })).bump .tbs_CYCLE_SLIP 0).emit 0x0D01 (toU 32 n)
    else s
  s.qualChanged

/-- PPS_TIMEOUT: no edge within 1.000 s + 10 us of the one before (R74). -/
def State.ppsTimeout (s : State) : State :=
  match s.tbs.ppsLast with
  | some t =>
    if t + secFu + 10 * usFu ≤ s.clock then
      (((s.tbsUpd (fun b => { b with ppsRun := 0, ppsLast := none })).wrB .tbs_PPS_LOST 0 true).wrB .tbs_PPS_QUAL 0
        false).qualChanged
    else s
  | none => s

/-- The EXT phase error of a REF_IN edge stamped x: its TB time less the nearest grid instant, within half a period. -/
def State.extErr (s : State) (x : Int) : Int :=
  let p : Int := s.refPeriod
  (s.tbAt x - ((s.tbs.ppsSec * secFu : Nat) : Int) - s.tbs.grid * p + p / 2) % p - p / 2

/-- EXT_PHASE_UPDATE: every 100 us a REF_IN edge is stamped x (R75); the step before the first lock aligns the last PPS_IN edge with its
second. A second taken from TB time stands in the TB time of the edge's latch; one EXT_SEC gave stands whatever stepped since (DEDUCED,
log entry 51). -/
def State.extUpdate (s : State) (x : Int) : State :=
  if s.srcQual srcExt then
    let e := s.extErr x
    let step := match s.tbs.ppsStamp with
      | some y => (if s.tbs.ppsLab then s.tbOf y else s.tbAt y) - ((s.tbs.ppsSec * secFu : Nat) : Int)
      | none => e
    let p : Int := s.refPeriod
    s.servoUpdate srcExt e step ((e - step + p / 2) % p - p / 2) false
  else s

/-! ### Clapper exchange (R76 to R78) -/

/-- The time parent's link: the primary parent's, unless CLAP_PORT_SEL forces a port (R78). -/
def State.timeParent (s : State) : Option Nat :=
  let k := s.rd .tbs_CLAP_PORT_SEL
  if k < 6 then some k else (List.range 10).find? (fun l => s.rd .tre_LINK_ROLE l == 1)

/-- The module's time quality (table Timebase-2). -/
def State.tqNow (s : State) : Nat :=
  if s.flag .tbs_HOLDOVER || s.flag .tbs_FREERUN then 15
  else match s.rd .tbs_SRC_ACT with
    | 1 | 3 => if s.isRoot then 0 else Config.tqOther % 16
    | 2 => match s.timeParent with
      | some l =>
        let q := (s.tbs.clap[l % 10]'(Nat.mod_lt _ (by decide))).tq
        if q == 15 then 15 else min 14 (q + 1)
      | none => 15
    | _ => 15

def State.clapSt (s : State) (l : Fin 10) : ClapSt := s.tbs.clap[l]
def State.setClap (s : State) (l : Fin 10) (x : ClapSt) : State := s.tbsUpd (fun b => { b with clap := b.clap.set l x })

/-- The port's time-transfer converter has CALOK: both instances hold an accepted table (R66, R76). -/
def State.ttCalok (s : State) (p : Nat) : Bool :=
  (s.tbs.tt0[p % 6]'(Nat.mod_lt _ (by decide))).calok && (s.tbs.tt1[p % 6]'(Nat.mod_lt _ (by decide))).calok

/-- The clapper a link sends now; a time or sequence number there is none of yet is 0 (DESIGN CHOICE, log entry 193). -/
def State.clapNow (s : State) (l : Fin 10) : Clap :=
  let c := s.clapSt l
  { seq := BitVec.ofNat 16 (c.seq + 1), txPrev := (c.tx.head?.map (·.2)).getD 0,
    rxSeq := BitVec.ofNat 16 ((c.rx.head?.map (·.1)).getD 0), rxTime := (c.rx.head?.map (·.2)).getD 0,
    tq := BitVec.ofNat 4 s.tqNow, stepGen := BitVec.ofNat 8 (s.rd .tbs_STEP_GEN),
    flags := BitVec.ofNat 4 (s.rd .tbs_LOCKED + 2 * s.rd .tbs_HOLDOVER + 4 * s.rd .tbs_FREERUN) }

/-- TX_LAT or RX_LAT of a link's lane, as the factory measured it for each port and lane (R76): a split port's second sub-link runs on
lane 1. -/
def latOf (f : Fld) (l lane : Nat) : Nat := f.cut (Config.factory f (portOf l + 6 * (if l < 6 then lane else 1)))

/-- CLAPPER_TX on link l, its marker leaving now on the lane: the clapper goes out and its send time at the contacts is
kept (R76). -/
def State.clapTx (s : State) (l : Fin 10) (lane : Fin 2) : State :=
  let c := s.clapSt l
  let k := s.clapNow l
  let t3 := s.tbStamp + latOf .tbs_TX_LAT l lane
  let n := (c.seq + 1) % 2 ^ 16
  let s := s.setClap l { c with seq := n, tx := ((n, t3) :: c.tx).take 8, lane := lane, txAt := some s.clock }
  let s := s.clapBlocks l lane k
  { s with out := .clap l lane k :: s.out }

/-- One pair computed (R77): theta and delay of the port, on the lane in use; a half rounds down (DESIGN CHOICE, log entry 191). -/
def pairOf (t1 t2 t3 t4 asym : Int) : Int × Int :=
  (((t2 - t1) - (t4 - t3) - asym) / 2, ((t2 - t1) + (t4 - t3)) / 2)

/-- The per-port registers report the link CLAP_VIEW selects of a split port (R234). -/
def State.clapReported (s : State) (l : Fin 10) : Bool :=
  if l.val < 2 then true
  else if l.val < 6 then !(bit (s.rd .lnk_PORT_SPLIT) (l - 2)) || !s.flag .lnk_CLAP_VIEW l
  else s.flag .lnk_CLAP_VIEW (l - 4)

/-- The exchange of a link delivered three usable pairs in a row whose delays agree within 64 fu, and its port's converter has CALOK
(R78). -/
def State.clapGood (s : State) (l : Fin 10) : Bool :=
  let c := s.clapSt l
  decide (3 ≤ c.pairs) && c.delays.all (fun a => c.delays.all (fun b => (a - b).natAbs ≤ 64)) && s.ttCalok (portOf l)

/-- CLAP_QUAL of the time parent that is chosen now: by a change of role or of CLAP_PORT_SEL another link's exchange counts, with no new
qualification (R78). -/
def State.clapSel (s : State) : State :=
  let q := match s.timeParent with
    | some l => s.clapGood ⟨l % 10, Nat.mod_lt _ (by decide)⟩
    | none => false
  (s.wrB .tbs_CLAP_QUAL 0 q).qualChanged

/-- The per-port registers of link l written, while they report it. -/
def State.clapReport (s : State) (l : Fin 10) (f : State → State) : State := if s.clapReported l then f s else s

/-- The per-port registers of link l's port show its own exchange, as CLAP_VIEW now selects it (R234). -/
def State.clapView (s : State) (l : Fin 10) : State :=
  let p := portOf l
  let c := s.clapSt l
  s.clapReport l (fun s =>
    let s := ((s.wr .tbs_CLAP_TQ p c.tq).wr .tbs_CLAP_LANE p c.lane).wr .tbs_TX_LAT p (latOf .tbs_TX_LAT l c.lane)
    (((s.wr .tbs_RX_LAT p (latOf .tbs_RX_LAT l c.lane)).wrS .tbs_CLAP_OFS p (satS 32 c.theta)).wrS .tbs_CLAP_DELAY p c.delay).wrB
      .tbs_CLAP_VALID p c.lastPair.isSome)

/-- CLAPPER_RX on link l, its marker arriving now on the lane (R76 to R78): a pair is computed when both its stamps are kept and lie within
1 ms; one that is not usable ends the run, and so does a clapper without its CLAP_B, whose fields are then not there (R234). A change of STEP_GEN acts with the first pair whose times both come from behind it (R84; DEDUCED,
log entry 153). The own clapper paired is the one whose RX_SEQ comes with it (DESIGN CHOICE, log entry 192). -/
def State.clapRx (s : State) (l : Fin 10) (lane : Nat) (k : Clap) : State :=
  let p := portOf l
  let c := s.clapSt l
  let t2now := s.tbStamp - latOf .tbs_RX_LAT l lane
  let i := (k.seq.toNat + 2 ^ 16 - 1) % 2 ^ 16
  let t2 := (c.rx.find? (fun e => e.1 == i)).map (·.2)
  let t3 := (c.tx.find? (fun e => e.1 == k.rxSeq.toNat)).map (·.2)
  let changed := k.whole && c.stepGen.isSome && c.stepGen != some k.stepGen.toNat
  let ready := !changed && c.stepPend.isSome && c.stepPend != some k.rxSeq.toNat
  let c := { c with rx := ((k.seq.toNat, t2now) :: c.rx).take 8, tq := k.tq.toNat, lane := lane,
                    stepGen := if k.whole then some k.stepGen.toNat else c.stepGen,
                    stepPend := if changed then some k.rxSeq.toNat else c.stepPend }
  let s := (s.setClap l c).clapReport l (fun s => (((s.wr .tbs_CLAP_TQ p k.tq.toNat).wr .tbs_CLAP_LANE p lane).wr .tbs_TX_LAT p
    (latOf .tbs_TX_LAT l lane)).wr .tbs_RX_LAT p (latOf .tbs_RX_LAT l lane))
  let none_ := s.setClap l { c with pairs := 0, delays := [] }
  if !k.whole then none_ else
  match t2, t3 with
  | some t2, some t3 =>
    if ((t3 : Int) - t2).natAbs ≤ msFu then
      let asym := if lane = 0 then s.rdS .tbs_ASYM_EXT0 p else s.rdS .tbs_ASYM_EXT1 p
      let (th, d) := pairOf k.txPrev t2 t3 k.rxTime asym
      let s := s.setClap l { c with delays := (d :: c.delays).take 3, pairs := c.pairs + 1, lastPair := some s.clock, theta := th,
                                    delay := d, stepPend := if ready then none else c.stepPend }
      let s := s.clapReport l (fun s => ((s.wrS .tbs_CLAP_OFS p (satS 32 th)).wrS .tbs_CLAP_DELAY p d).wrB .tbs_CLAP_VALID p true)
      if s.timeParent == some l.val then
        let s := s.when (s.clapGood l) (fun s => s.wrB .tbs_CLAP_QUAL 0 true)
        s.qualChanged.servoUpdate srcClap th th 0 ready
      else s
    else none_
  | _, _ => none_

/-- CLAP_TIMEOUT: 3 ms without a usable pair on link l (R78). -/
def State.clapTimeout (s : State) (l : Fin 10) : State :=
  let c := s.clapSt l
  match c.lastPair with
  | some t =>
    if t + 3 * msFu ≤ s.clock then
      let s := s.setClap l { c with pairs := 0, delays := [], lastPair := none }
      let s := if s.clapReported l then s.wrB .tbs_CLAP_VALID (portOf l) false else s
      if s.timeParent == some l.val then (s.wrB .tbs_CLAP_QUAL 0 false).qualChanged else s
    else s
  | none => s

/-- The link went down: its exchange starts anew, and the time parent's loss ends CLAP's qualification (R78). -/
def State.clapLinkDown (s : State) (l : Fin 10) : State :=
  let c := s.clapSt l
  let s := s.setClap l { c with pairs := 0, delays := [], lastPair := none, tx := [], rx := [] }
  let s := if s.clapReported l then s.wrB .tbs_CLAP_VALID (portOf l) false else s
  if s.timeParent == some l.val then (s.wrB .tbs_CLAP_QUAL 0 false).qualChanged else s

/-! ### PTP (R79, R80) -/

/-- A message is discarded and counted in PTP_DISC. -/
def State.ptpDisc (s : State) : State := s.bump .tbs_PTP_DISC 0

/-- PTP takes messages over the transport. -/
def State.ptpOn (s : State) (udp : Bool) : Bool :=
  s.flag .tbs_PTP_EN && (match s.rd .tbs_PTP_TRANSPORT with
    | 0 => udp
    | 1 => !udp
    | _ => true)

/-- f for a message PTP takes: one over another transport is none of its own; one of another version or domain is
discarded and counted (R80). -/
def State.ptpMsg (s : State) (h : PtpHead) (f : State → State) : State :=
  if s.ptpOn h.udp then
    if h.version == 2 && h.domain == s.rd .tbs_PTP_DOMAIN then f s else s.ptpDisc
  else s

/-- The key the best master clock algorithm orders by, most significant first. -/
def Master.rank (m : Master) : Nat :=
  let a := m.ann
  [(a.clockClass.toNat, 8), (a.accuracy.toNat, 8), (a.variance.toNat, 16), (a.priority2.toNat, 8), (a.gmId.toNat, 64),
   (a.stepsRemoved.toNat, 16), (m.port, 80)].foldl (fun k e => k * 2 ^ e.2 + e.1 % 2 ^ e.2) a.priority1.toNat

/-- The best of the masters heard. -/
def bestMaster (l : List Master) : Option Master :=
  l.foldl (fun b m => match b with
    | none => some m
    | some x => if m.rank < x.rank then some m else some x) none

/-- 2^k seconds in fu, for a signed k. -/
def logSec (k : Int) : Nat := if 0 ≤ k then secFu * 2 ^ k.toNat else secFu / 2 ^ (-k).toNat

/-- The selected master after the list changed: GM_ID and UTC_OFS follow it, and another one starts qualification anew. -/
def State.ptpSelect (s : State) : State :=
  match bestMaster s.tbs.masters with
  | some m =>
    let s := if s.tbs.master == some m.port then s
      else (s.tbsUpd (fun b => { b with master := some m.port, ptpRun := 0, sync := none, follow := none, delayReq := none, delayAt := none, delayLog := none })).wrB
        .tbs_PTP_QUAL 0 false
    (s.wr .tbs_GM_ID 0 m.ann.gmId.toNat).wrS .tbs_UTC_OFS 0 m.ann.utcOffset
  | none => (s.tbsUpd (fun b => { b with master := none, ptpRun := 0, sync := none, follow := none, delayReq := none, delayAt := none, delayLog := none })).wrB
      .tbs_PTP_QUAL 0 false

/-- PTP_ANNOUNCE_RX. -/
def State.ptpAnnounce (s : State) (h : PtpHead) (a : PtpAnnounce) : State :=
  s.ptpMsg h (fun s =>
    let m : Master := { port := h.source, ann := a, at_ := s.clock, logInterval := h.logInterval }
    (s.tbsUpd (fun b => { b with masters := m :: b.masters.filter (fun x => x.port != h.source) })).ptpSelect.qualChanged)

/-- PTP_ANNOUNCE_TIMEOUT: three announce intervals without the selected master's Announce. -/
def State.ptpAnnTimeout (s : State) : State :=
  match s.tbs.masters.find? (fun m => s.tbs.master == some m.port) with
  | some m =>
    if m.at_ + 3 * logSec m.logInterval ≤ s.clock then
      ((s.tbsUpd (fun b => { b with masters := b.masters.filter (fun x => x.port != m.port) })).wrB .tbs_PTP_QUAL 0
        false).ptpSelect.qualChanged
    else s
  | none => s

/-- A correctionField in fu. -/
def corrFu (c : Int) : Int := roundHalfUp (c * 160) 65536

/-- PTP_SYNC_RX: stamped on arrival; one-step Sync is discarded and counted (R80). A Sync still without its Follow_Up is an exchange not
completed, and ends the run of R79. -/
def State.ptpSync (s : State) (h : PtpHead) (twoStep : Bool) : State :=
  s.ptpMsg h (fun s =>
    if !twoStep then s.ptpDisc
    else if s.tbs.master == some h.source then
      s.tbsUpd (fun b => { b with sync := some (h.seq.toNat, s.tbStamp, h.corr), syncLog := h.logInterval,
                                  ptpRun := if b.sync.isSome then 0 else b.ptpRun,
                                  lastFollow := if b.lastFollow.isSome then b.lastFollow else some s.clock })
    else s)

/-- PTP_FOLLOW_UP_RX: t1, the origin time in fu, of the Sync with the same sequence number. -/
def State.ptpFollow (s : State) (h : PtpHead) (t1 : Nat) : State :=
  s.ptpMsg h (fun s =>
    match s.tbs.sync with
    | some (q, t2, c) =>
      if s.tbs.master == some h.source && q == h.seq.toNat then
        s.tbsUpd (fun b => { b with sync := none, follow := some ((t1 : Int), (t2 : Int), corrFu c + corrFu h.corr),
                                    lastFollow := some s.clock })
      else s
    | none => s)

/-- The VLAN tag of a frame that is no RoCE frame: CTL_PCP and VID (R267). -/
def State.ctlTag (s : State) : Option Nat :=
  if s.flag .eth_VLAN_EN then some ((s.rd .eth_CTL_PCP) <<< 13 + s.rd .eth_VID) else none

/-- A Delay_Req of sequence q over the transport (R79): UDP/IPv4 to 224.0.1.129, event port 319, or EtherType 0x88F7 to
01-1B-19-00-00-00. -/
def State.delayFrame (s : State) (q : Nat) (udp : Bool) : Out :=
  if udp then .delayReq q s.tbStamp true 0xE0000181 319 s.ctlTag else .delayReq q s.tbStamp false 0x011B19000000 0x88F7 s.ctlTag

/-- PTP_DELAY_REQ_TX: a Delay_Req leaves and is stamped, once a Sync exchange is there, and from then on at the interval the master's
Delay_Resp sets (R79). One sent while the last has no answer ends the run of complete exchanges. -/
def State.ptpDelayReq (s : State) : State :=
  let due := match s.tbs.delayAt, s.tbs.delayLog with
    | some t, some k => decide (t + logSec k ≤ s.clock)
    | _, _ => true
  if s.flag .tbs_PTP_EN && s.alive .eth && s.flag .eth_LINK_UP && s.tbs.follow.isSome && due then
    let q := (s.tbs.delaySeq + 1) % 2 ^ 16
    let s := s.tbsUpd (fun b => { b with
      delaySeq := q, delayReq := some (q, s.tbStamp), delayAt := some s.clock, ptpRun := if b.delayReq.isSome then 0 else b.ptpRun })
    { s with out := ([true, false].filter s.ptpOn).map (s.delayFrame q) ++ s.out }
  else s

/-- PTP_DELAY_RESP_RX: t4 of the Delay_Req with the same sequence number; with the latest Sync exchange it completes one, which gives one
update (R79; DEDUCED, log entry 154). A half rounds down (DESIGN CHOICE, log entry 191). -/
def State.ptpDelayResp (s : State) (h : PtpHead) (t4 : Nat) : State :=
  s.ptpMsg h (fun s =>
    match s.tbs.follow, s.tbs.delayReq with
    | some (t1, t2, cs), some (q, t3) =>
      if s.tbs.master == some h.source && q == h.seq.toNat then
        let th := ((t2 - t1 - cs) - ((t4 : Int) - t3 - corrFu h.corr) - s.rdS .tbs_PTP_ASYM) / 2
        let run := s.tbs.ptpRun + 1
        let s := s.tbsUpd (fun b => { b with delayReq := none, delayLog := some h.logInterval, ptpRun := run })
        let s := if 3 ≤ run then s.wrB .tbs_PTP_QUAL 0 true else s
        s.qualChanged.servoUpdate srcPtp th th 0 false
      else s
    | _, _ => s)

/-- PTP_SYNC_TIMEOUT: four Sync intervals without a complete Follow_Up. -/
def State.ptpSyncTimeout (s : State) : State :=
  match s.tbs.lastFollow with
  | some t =>
    if t + 4 * logSec s.tbs.syncLog ≤ s.clock then
      ((s.tbsUpd (fun b => { b with lastFollow := none, ptpRun := 0, sync := none, follow := none, delayReq := none, delayAt := none, delayLog := none })).wrB
        .tbs_PTP_QUAL 0 false).qualChanged
    else s
  | none => s

/-! ### Reading and writing time (R84, R89 to R91) -/

/-- TIME_SET written whole: refused when out of range; put in force as a step before the first source qualifies (R84). -/
def State.timeSet (s : State) (w : Nat) : State :=
  match timeOfWords w with
  | none => s.wrB .tbs_CFG_ERR 0 true
  | some x =>
    let s := s.wr .tbs_TIME_SET 0 w
    if s.tbs.everQual then s else s.stepTo x

/-- STEP_CMD from OWN: a step to TIME_SET, refused in ACQUIRE (R84). -/
def State.stepCmd (s : State) : State :=
  if s.pwr == .acquire then s.wrB .tbs_STEP_REFUSED 0 true
  else s.stepTo ((timeOfWords (s.rd .tbs_TIME_SET)).getD 0)

/-- SNAP_REQ: the time and count of the next coarse edge (R90). -/
def State.snapReq (s : State) : State :=
  let c := s.coarse + 1
  ((s.wr .tbs_SNAP_TIME 0 (timeWords (s.tbOf (coarseFu * c : Nat)).toNat)).wr .tbs_SNAP_COARSE 0 c).wrB .tbs_SNAP_DONE 0 true

/-- A write of FREQ_WORD: taken under MANUAL alone, clamped (R72, R91). -/
def State.freqWrite (s : State) (v : Nat) : State :=
  if s.rd .tbs_SERVO_MODE == 2 then s.setFreq (sgn 32 v) else s.wrB .tbs_CFG_ERR 0 true

/-- PPS_OUT_PULSE: a TB second boundary plus PPS_OUT_OFS has just come, within the last coarse period: a pulse rises when the mode allows
it, and lasts PPS_WIDTH ms from that instant (R89). -/
def State.ppsOut (s : State) : State :=
  let m := s.rd .tbs_PPS_OUT_MODE
  let x := (s.tbStamp : Int) - s.rdS .tbs_PPS_OUT_OFS
  let k := x / (secFu : Nat)
  let late := (x % (secFu : Nat)).toNat
  if (m == 1 || (m == 2 && s.flag .tbs_LOCKED)) && decide (late < coarseFu) && s.tbs.ppsOutLast != some k then
    s.tbsUpd (fun b => { b with ppsOutLast := some k, ppsOutUntil := s.clock - late + s.rd .tbs_PPS_WIDTH * msFu })
  else s

/-- The level of PPS_OUT: mode 0b00 holds it low (R89). -/
def State.ppsOutHigh (s : State) : Bool := s.alive .tbs && s.rd .tbs_PPS_OUT_MODE != 0 && s.clock < s.tbs.ppsOutUntil

/-- What a commit that changed SERVO_MODE from old does: leaving MANUAL sets integ to FREQ_WORD (R91); forced holdover is
entered or left (R86); the source list may have changed (R81), and the time parent, which was parent (R78). PPS_OUT_MODE 0b00 ends a pulse
(R89). -/
def State.tbsCommit (s : State) (old : Nat) (parent : Option Nat) : State :=
  let new := s.rd .tbs_SERVO_MODE
  let s := if old == 2 && new != 2 then s.tbsUpd (fun b => { b with integ := s.rdS .tbs_FREQ_WORD * 65536 }) else s
  let s := if s.flag .tbs_PTP_EN then s else s.wrB .tbs_PTP_QUAL 0 false
  let s := s.when (s.rd .tbs_PPS_OUT_MODE == 0) (fun s => s.tbsUpd (fun b => { b with ppsOutUntil := 0 }))
  if s.timeParent == parent then s.qualChanged else s.clapSel

/-- TBS after its release from reset: TB time 0, FREQ_WORD 0 (R72). -/
def State.tbsStart (s : State) : State := { s with tbs := { ({} : Tbs) with zero := s.clock } }

/-! ### Meanings that never step -/

/-- REF_LOSS. -/
def execRefLoss (t : Nat) (s : State) : Host.Outcome State Fault Refusal := run t (fun s => s.on .tbs State.refLoss) s
/-- REF_WINDOW: a 1 ms window read ppb parts per billion off. -/
def execRefWindow (t : Nat) (ppb : Int) (s : State) : Host.Outcome State Fault Refusal :=
  run t (fun s => s.on .tbs (fun s => s.refWindow ppb)) s
/-- REF_IN_RESUME. -/
def execRefInResume (t : Nat) (s : State) : Host.Outcome State Fault Refusal := run t (fun s => s.on .tbs State.refResume) s
/-- PPS_TIMEOUT. -/
def execPpsTimeout (t : Nat) (s : State) : Host.Outcome State Fault Refusal := run t (fun s => s.on .tbs State.ppsTimeout) s
/-- SRC_REVERT_TIMER. -/
def execSrcRevertTimer (t : Nat) (s : State) : Host.Outcome State Fault Refusal := run t (fun s => s.on .tbs State.revertTimer) s
/-- HOLDOVER_WARN. -/
def execHoldoverWarn (t : Nat) (s : State) : Host.Outcome State Fault Refusal := run t (fun s => s.on .tbs State.holdWarn) s
/-- CLAP_TIMEOUT. -/
def execClapTimeout (t : Nat) (l : Fin 10) (s : State) : Host.Outcome State Fault Refusal :=
  run t (fun s => s.on .tbs (fun s => s.clapTimeout l)) s
/-- PTP_ANNOUNCE_RX. -/
def execPtpAnnounceRx (t : Nat) (h : PtpHead) (a : PtpAnnounce) (s : State) : Host.Outcome State Fault Refusal :=
  run t (fun s => s.on .tbs (fun s => s.ptpAnnounce h a)) s
/-- PTP_SYNC_RX. -/
def execPtpSyncRx (t : Nat) (h : PtpHead) (twoStep : Bool) (s : State) : Host.Outcome State Fault Refusal :=
  run t (fun s => s.on .tbs (fun s => s.ptpSync h twoStep)) s
/-- PTP_FOLLOW_UP_RX: t1 is the origin time in fu. -/
def execPtpFollowUpRx (t : Nat) (h : PtpHead) (t1 : Nat) (s : State) : Host.Outcome State Fault Refusal :=
  run t (fun s => s.on .tbs (fun s => s.ptpFollow h t1)) s
/-- PTP_DELAY_REQ_TX. -/
def execPtpDelayReqTx (t : Nat) (s : State) : Host.Outcome State Fault Refusal := run t (fun s => s.on .tbs State.ptpDelayReq) s
/-- PTP_ANNOUNCE_TIMEOUT. -/
def execPtpAnnounceTimeout (t : Nat) (s : State) : Host.Outcome State Fault Refusal :=
  run t (fun s => s.on .tbs State.ptpAnnTimeout) s
/-- PTP_SYNC_TIMEOUT. -/
def execPtpSyncTimeout (t : Nat) (s : State) : Host.Outcome State Fault Refusal :=
  run t (fun s => s.on .tbs State.ptpSyncTimeout) s
/-- SNAP_REQ: a 1 written to SNAP_REQ. -/
def execSnapReq (t : Nat) (s : State) : Host.Outcome State Fault Refusal := run t (fun s => s.on .tbs State.snapReq) s
/-- TIME_NOW_READ: TB time at the instant of the read, in the layout of TIME_NOW. -/
def execTimeNowRead (t : Nat) (s : State) : Host.Outcome State Fault Refusal :=
  run t (fun s => s.on .tbs (fun s => { s with lastRead := timeWords s.tbNow })) s
/-- FREQ_WORD_WRITE. -/
def execFreqWordWrite (t : Nat) (v : BitVec 32) (s : State) : Host.Outcome State Fault Refusal :=
  run t (fun s => s.on .tbs (fun s => s.freqWrite v.toNat)) s
/-- PPS_OUT_PULSE. -/
def execPpsOutPulse (t : Nat) (s : State) : Host.Outcome State Fault Refusal := run t (fun s => s.on .tbs State.ppsOut) s

end Sys2Proof.Machine
end

