-- ==== Sys2Proof/Machine/Tick.lean ====
section
/-! DEFINITION. The frame head of each tick while its figures gather (R127). -/

namespace Sys2Proof.Machine

open Sys2Proof

/-! ### Frame heads in the making -/

/-- The TIME_STATE byte of R88. -/
def State.timeState (s : State) : Nat :=
  s.rd .tbs_LOCKED + 2 * s.rd .tbs_HOLDOVER + 4 * s.rd .tbs_FREERUN + 8 * s.rd .tbs_SRC_ACT

/-- CALOK of each column group of region r (table Events-4). -/
def State.calokGrp (s : State) (r : Fin 16) : Nat :=
  (List.finRange 16).foldl (fun a g => a + (if (s.group r g).calok then 2 ^ g.val else 0)) 0

/-- The head of tick k begun at its boundary: what is known then. marks holds the flags of the tick itself. -/
def State.newRec (s : State) (r : Fin 16) (k marks : Nat) (jumped : Bool) : State :=
  let x := s.evbR r
  let b (n : Nat) (c : Bool) : Nat := if c then 2 ^ n else 0
  let c : Rec := {
    k := k, time := s.tickTime k, epoch := s.rd .seq_CFG_EPOCH, mode := s.mode r,
    flags := marks ||| b hfBiasOk (s.flag .sns_BIAS_OK r) ||| b hfFrozen (s.flag .sns_BIAS_FROZEN) |||
      b hfClkBad (s.flag .tdc_CLK_BAD) ||| b hfZs (s.rdBit .evb_ZS_EN 0 r),
    calok := s.calokGrp r, masked := s.maskedCount r 0, binw := s.rd .hstr_HST_BINW r, jumped := jumped }
  let keep := x.recs.filter (fun c => !c.emitted || k < c.k + 128)
  s.setEvbR r { x with recs := keep ++ [c] }

/-- A GAP record of this module's own data, regions by bit (R131). -/
def State.gapOwn (s : State) (first last regions reason : Nat) : State :=
  s.moduleRec (gapRec (s.rd .tre_MODULE_ID) first last (s.rd .tre_MODULE_ID) regions reason s.tbNow)

/-- A pixel map keyed by 16 x cluster + index, keyed by local row and column instead. -/
def rowMajor (m : Sp) : Sp :=
  m.foldl (fun a e =>
    let c := e.1 / 16
    let i := e.1 % 16
    let y := 4 * (c / 128) + i / 4
    let x := 4 * (c % 128) + i % 4
    spIns a (512 * y + x) e.2) []

end Sys2Proof.Machine
end

