-- ==== Sys2Proof/Machine/Hst.lean ====
section
/-! DEFINITION. HST: the gate of each region, its histograms, dumps and dump records (R100 to R107, R128). -/

namespace Sys2Proof.Machine

open Sys2Proof

def State.hstR (s : State) (r : Fin 16) : HstR := s.hst.r[r]
def State.setHstR (s : State) (r : Fin 16) (x : HstR) : State := { s with hst := { s.hst with r := s.hst.r.set r x } }

/-! ### The gate (R100 to R104) -/

/-- The placed start and stop of the gate at the present step, in fu after the reference (R100, R103). -/
def State.gateBounds (s : State) (r : Fin 16) : Int × Int :=
  let d := ((s.hstR r).step : Int) * s.rdS .hstr_GATE_STEP r
  (grid16 ((s.rd .hstr_GATE_START r : Int) + d), grid16 ((s.rd .hstr_GATE_STOP r : Int) + d))

/-- One gate opened by the tick instant x of the coarse scale (R104). -/
def State.gateTick (s : State) (r : Fin 16) (x : Int) : State :=
  let (a, b) := s.gateBounds r
  s.setHstR r { s.hstR r with gates := (s.hstR r).gates ++ [⟨x + a, x + b, s.seq.start⟩] }

/-- The step index put in its registers and in the head of tick k; while GATE is not in force it is 0 (DEDUCED: it starts
there at the next time GATE is put in force, R103). -/
def State.gateIdx (s : State) (r : Fin 16) (k step : Nat) (held : Bool) : State :=
  let s := (s.setHstR r { s.hstR r with step := step }).wr .hstr_GATE_IDX r step
  let s := s.wrB .hstr_GATE_HELD r held
  s.upRec r k (fun c => { c with gateIdx := step, flags := setBit c.flags hfHeld held })

/-- The gate at the boundary that begins tick k, at x of the coarse scale: the step advances (R103); a tick wholly inside a
jump opens none. -/
def State.gateBoundary (s : State) (r : Fin 16) (k : Nat) (x : Int) (into : Bool) : State :=
  if s.hasMode r mGate then
    let n := s.rd .hstr_GATE_NSTEP r
    let i := (s.hstR r).step + 1
    let s := if i < n then s.gateIdx r k i false
      else if s.flag .hstr_GATE_CYCLE r then s.gateIdx r k 0 false else s.gateIdx r k (n - 1) true
    if s.flag .hstr_GATE_REF r && !into then s.gateTick r x else s
  else s

/-- The gate restarted at the boundary of tick k: GATE put in force, or a gate field changed (R103). oldRef says that a
gate of the former tick reference was just scheduled. -/
def State.gateRestart (s : State) (r : Fin 16) (k : Nat) (x : Int) (oldRef : Bool) : State :=
  let h := s.hstR r
  let s := s.setHstR r { h with gates := if oldRef then h.gates.filter (fun g => g.o < x) else h.gates }
  let s := s.gateIdx r k 0 false
  if s.flag .hstr_GATE_REF r then s.gateTick r x else s

/-- GATE cleared at a boundary: a gate open there closes (table Modes-8). -/
def State.gateStop (s : State) (r : Fin 16) : State := s.setHstR r { s.hstR r with gates := [], gateOpen := false }

/-- A SYNC_IN edge stamped at x on the coarse scale, AUX_OFS applied, at the gate engine of region r (R102). -/
def State.gateSync (s : State) (r : Fin 16) (x : Int) : State :=
  if s.hasMode r mGate && !s.flag .hstr_GATE_REF r then
    let h := s.hstR r
    let (a, b) := s.gateBounds r
    let busy := h.gates.any (fun g => g.o ≤ x && x < g.c)
    let past := match h.gates.getLast? with | some g => decide (x + a < g.c) | none => false
    if busy || past || 16 ≤ h.gates.countP (fun g => x < g.o) then s.bump .hstr_SYNC_MISSED r
    else s.setHstR r { h with gates := h.gates ++ [⟨x + a, x + b, s.local_⟩] }
  else s

/-- The first gate has reached its start at the comparators: counting is enabled; false when it has not (R35, R100). -/
def State.gateOpens (s : State) (r : Fin 16) : Option State :=
  let h := s.hstR r
  match h.gates with
  | g :: _ =>
    if !h.gateOpen && g.o + Config.photonDelay r ≤ s.local_ then some (s.setHstR r { h with gateOpen := true }) else none
  | [] => none

/-- The open gate has reached its stop: counting is disabled. -/
def State.gateCloses (s : State) (r : Fin 16) : State :=
  let h := s.hstR r
  match h.gates with
  | g :: l =>
    if h.gateOpen && g.c + Config.photonDelay r ≤ s.local_ then s.setHstR r { h with gateOpen := false, gates := l } else s
  | [] => s

/-! ### Histograms (R105 to R107) -/

/-- The number at which a bin stops (R105). -/
def binMax : Nat := 16777215

/-- n hits added to bin key of region r; a bin that reaches its end stays there and sets HST_SAT. -/
def State.binAdd (s : State) (r : Fin 16) (key n : Nat) : State :=
  let h := s.hstR r
  let v := min binMax (spGet h.bins key 0 + n)
  let s := s.setHstR r { h with bins := spSet h.bins key v 0 }
  if v = binMax then s.wrB .hstr_HST_SAT r true else s

/-- The counts of the hits of tick k changed. -/
def HstR.count (h : HstR) (k : Nat) (f : HstCnt → HstCnt) : HstR :=
  if h.cnts.any (fun c => c.k == k) then { h with cnts := h.cnts.map (fun c => if c.k == k then f c else c) }
  else { h with cnts := h.cnts ++ [f { k := k }] }

/-- A hit that waits in the coalescing buffer, or is dropped when it finds neither an entry nor space (R107). -/
def State.coalesce (s : State) (r : Fin 16) (k key : Nat) : State :=
  let h := s.hstR r
  if h.coal.any (fun e => e.k == k && e.key == key && e.n < 65535) then
    let i := h.coal.findIdx (fun e => e.k == k && e.key == key && e.n < 65535)
    s.setHstR r { h with coal := h.coal.modify i (fun e => { e with n := e.n + 1 }) }
  else if h.coal.length < 12288 then s.setHstR r { h with coal := h.coal ++ [⟨k, key, 1⟩] }
  else (s.bump .hstr_HST_DROP r).setHstR r ((s.bump .hstr_HST_DROP r).hstR r |>.count k (fun c => { c with drop := c.drop + 1 }))

/-- The SYNC_IN stamp a hit of tick k at TB time x is binned against: the latest one at or before it that serves (R106). -/
def State.stampFor (s : State) (r : Fin 16) (k : Nat) (x : Int) : Option Int :=
  let ofs := s.rdS .tdc_AUX_OFS 0
  let now := s.tbNow
  ((s.auxCh 0).stamps.map (fun t => s.tbAt t - ofs)).find? (fun t =>
    decide (t ≤ x) && decide ((if k < (s.hstR r).fromK then (s.hstR r).oldFrom else (s.hstR r).stampFrom) ≤ t) && decide ((now : Int) ≤ t + msFu))

/-- The tile of a pixel of a cluster, from the cluster's local index (R105). -/
def tileOf (loc pix : Nat) : Nat :=
  let y := 4 * (loc / 128) + pix / 4
  let x := 4 * (loc % 128) + pix % 4
  16 * (y / 32) + x / 32

/-- Fine units after a dump's start at which it has passed one more tile. -/
def tileFu : Nat := 3840

/-- A hit of tick k at HST: late, binned, or counted (R106, R107). -/
def State.hstHit (s : State) (r : Fin 16) (k : Nat) (w : EvW) : State :=
  let h := s.hstR r
  if k < h.next then (s.setHstR r { h with late := h.late + 1 }).bump .hstr_HST_LATE r
  else
    let bw := (((s.recOf r k).map (·.binw)).getD (s.rd .hstr_HST_BINW r)) + 1
    match s.stampFor r k w.h with
    | none => (s.setHstR r (h.count k (fun c => { c with under := c.under + 1 }))).bump .hstr_HST_UNDER r
    | some y =>
      let dt := (w.h - y).toNat
      if 256 * bw ≤ dt then (s.setHstR r (h.count k (fun c => { c with above := c.above + 1 }))).bump .hstr_HST_OVER r
      else
        let tile := tileOf w.loc w.pix
        let key := 256 * tile + dt / bw
        match h.dump with
        | none => s.binAdd r key 1
        | some (kd, t0) =>
          if h.due.isEmpty && k == kd + 1 && t0 + tileFu * (tile + 1) ≤ s.clock then s.binAdd r key 1 else s.coalesce r k key

/-- Flags of a dump record. -/
def dumpFinal : Nat := 1
def dumpTrunc : Nat := 2
def dumpSat : Nat := 4
def dumpLost : Nat := 8

/-- The dump record of tick k with its counts (R128). -/
def State.dumpRecord (s : State) (r : Fin 16) (k flags sat : Nat) : State :=
  let h := s.hstR r
  let c := (h.cnts.find? (fun c => c.k == k)).getD { k := k }
  let q := (s.recOf r k).getD { k := k }
  let s := s.setHstR r { h with late := 0, cnts := h.cnts.filter (fun c => c.k != k) }
  s.regionRec r (dumpRec (s.rd .tre_MODULE_ID) k r flags q.binw sat c.drop h.late c.under c.above q.inj)

/-- HISTO ends with tick k: no HISTO in the mode word of the tick after it (R118). -/
def State.histoEnds (s : State) (r : Fin 16) (k : Nat) : Bool :=
  !bit (s.modeAt r (k + 1)) mHisto && !s.cutAt r k

/-- The dump of tick k starts: its record, then its bins to the engine; the bins are clear behind it. -/
def State.dumpStart (s : State) (r : Fin 16) (k : Nat) : State :=
  let h := s.hstR r
  let fin := s.histoEnds r k
  let sat := h.bins.countP (fun e => e.2 == binMax)
  let s := s.dumpRecord r k (b2n fin * dumpFinal + (if sat = 0 then 0 else dumpSat)) sat
  let s := if fin then s.headFlag r k hfFinal else s
  let s := s.setHstR r { s.hstR r with bins := [], dump := some (k, s.clock), next := k + 1 }
  s.submit r { kind := 3, tick := k, n := 65536, px := h.bins, final := fin }

/-- The tick whose dump is discarded (R16) or that has none (R85): a record, and its hits are gone. -/
def State.dumpSkip (s : State) (r : Fin 16) (k : Nat) (lost : Bool) : State :=
  let fin := s.histoEnds r k
  let s := s.dumpRecord r k (if lost then dumpLost else 0) 0
  let h := s.hstR r
  let s := s.setHstR r { h with
    bins := if lost then [] else h.bins, coal := h.coal.filter (fun e => e.k != k), next := k + 1,
    lost := h.lost.filter (· != k) }
  if fin then (s.headFlag r k hfFinal).submit r { kind := 3, tick := k, n := 0, px := [], final := true, empty := true } else s

/-- The dump of tick k in its turn: its dump, or the record of one that R16 discards or R85 leaves out. -/
def State.dumpTurn (s : State) (r : Fin 16) (k : Nat) : State :=
  if (s.hstR r).lost.contains k then s.dumpSkip r k true
  else if ((s.recOf r k).map (·.jumped)).getD false then s.dumpSkip r k false
  else s.dumpStart r k

/-- Tick k of a region with HISTO has closed: its dump falls due, and waits while one runs (R16, R107). -/
def State.hstClose (s : State) (r : Fin 16) (k : Nat) : State :=
  let h := s.hstR r
  if k < h.next then s
  else match h.dump with
    | some _ => s.setHstR r { h with due := h.due ++ [k] }
    | none => s.dumpTurn r k

/-- Entries of the coalescing buffer for which p holds merged into the bins. -/
def State.mergeCoal (s : State) (r : Fin 16) (p : Coal → Bool) : State :=
  let h := s.hstR r
  (s.setHstR r { h with coal := h.coal.filter (fun e => !p e) }).each (h.coal.filter p) (fun e s => s.binAdd r e.key e.n)

/-- The dumps that fell due in the meantime, one after another until one runs; each takes its tick's hits out of the buffer first. -/
def State.dumpDue (s : State) (r : Fin 16) : List Nat → State
  | [] => s.mergeCoal r (fun _ => true)
  | k :: l =>
    let s := ((s.setHstR r { s.hstR r with due := l }).mergeCoal r (fun e => e.k == k)).dumpTurn r k
    if (s.hstR r).dump.isSome then s else State.dumpDue s r l

/-- HISTO_DUMP_DONE: the dump is complete; the buffer is merged, and a dump that fell due meanwhile starts. -/
def State.dumpDone (s : State) (r : Fin 16) : State :=
  let h := s.hstR r
  if h.dump.isSome then (s.setHstR r { h with dump := none }).dumpDue r h.due else s

/-- HISTO put in force at the boundary of tick k, whose TB time is x: earlier stamps do not serve it, and the ticks of an earlier
time of HISTO that are not dumped yet keep their histograms and stamps (R106, R107, R111). -/
def State.histoStart (s : State) (r : Fin 16) (k : Nat) (x : Int) : State :=
  let h := s.hstR r
  let owed := (s.evbR r).recs.any (fun c => (!c.closed || h.due.contains c.k) && bit c.mode mHisto && h.next ≤ c.k && c.k < k)
  s.setHstR r { h with stampFrom := x, oldFrom := h.stampFrom, fromK := k, next := if owed then h.next else max h.next k }

/-- A region abort at HST (R119): for each tick whose dump had not started a record with TRUNC, the areas cleared. -/
def State.hstAbort (s : State) (r : Fin 16) : State :=
  let h := s.hstR r
  let k := s.seq.k
  let s := s.gateStop r
  let ticks := ((s.evbR r).recs.filter (fun c => !c.closed || h.due.contains c.k)).filter (fun c =>
    bit c.mode mHisto && h.next ≤ c.k && c.k ≤ k)
  let s := s.each ticks (fun c s => s.dumpRecord r c.k dumpTrunc 0)
  s.setHstR r { s.hstR r with bins := [], coal := [], dump := none, due := [], cnts := [], lost := [], stampFrom := s.tbNow, oldFrom := s.tbNow,
                              next := if ticks.isEmpty then h.next else k + 1 }

end Sys2Proof.Machine
end

