-- ==== Sys2Proof/Machine/Accum.lean ====
section
/-! DEFINITION. Counter frames on their way to the engines and ACC: the swap, the transfer, COUNT, GATE and BINARY frames,
and accumulation (R8, R16, R36, R37, R98, R108 to R110, R129). -/

namespace Sys2Proof.Machine

open Sys2Proof

def State.accR (s : State) (r : Fin 16) : AccR := s.accum.r[r]
def State.setAccR (s : State) (r : Fin 16) (x : AccR) : State := { s with accum := { s.accum with r := s.accum.r.set r x } }

/-- Mode bits that take the 12-bit transfer, and those that take any counter product (table Architecture-5). -/
def mode12 (m : Nat) : Bool := m &&& 0x54 != 0
def modeFrame (m : Nat) : Bool := m &&& 0x74 != 0

/-- The pixels of a region, and fine units a pixel takes on the readout link: 12 bits at 64 Gbit/s, or 1 bit. -/
def regionPix : Nat := 262144
def pixelFu (m : Nat) : Nat := if mode12 m then 30000 else 2500

/-- Pixels of a frame transferred d fu after the transfer began (thousandths of a fu a pixel). -/
def pixDone (m d : Nat) : Nat := min regionPix (1000 * d / pixelFu m)

/-! ### Accumulation (R108 to R110) -/

/-- Tick k begins sub-frame i of the cycle: SUB_IDX and the head carry it (table Events-4). -/
def State.subIdx (s : State) (r : Fin 16) (k : Nat) : State :=
  let a := s.accR r
  if a.on then
    let i := k - a.k0
    (s.wr .accr_SUB_IDX r i).upRec r k (fun c => { c with subIdx := i % 64 + 64 * b2n (bit a.sh i) })
  else (s.wr .accr_SUB_IDX r 0).upRec r k (fun c => { c with subIdx := 0 })

/-- A cycle begins at the boundary of tick k with the values in force (R108). -/
def State.accBegin (s : State) (r : Fin 16) (k : Nat) : State :=
  let a := s.accR r
  (s.setAccR r { a with on := true, k0 := k, n := s.rd .accr_ACC_N r + 1, sh := s.rd .accr_SHUTTER r }).subIdx r k

/-- The marks a frame of tick k takes from the cycle it is a sub-frame of; whole says the cycle ends with it. -/
def AccR.mark (a : AccR) (f : Frame) : Frame :=
  if a.on && bit f.mode mAccum then
    let i := f.tick - a.k0
    { f with sub := i, shut := bit a.sh i && !f.lost, cycEnd := i + 1 == a.n, subs := i + 1 }
  else f

/-- ACCUM at the boundary that begins tick k: a whole cycle is followed by the next. -/
def State.accBoundary (s : State) (r : Fin 16) (k : Nat) : State :=
  let a := s.accR r
  if a.on && a.k0 + a.n ≤ k then s.accBegin r k else s.subIdx r k

/-- The output frame of a cycle passes to the engine in the tick behind the cycle's last (R109): acc, its sub-frames, and
the pixels saturated. -/
def State.accOutput (s : State) (r : Fin 16) (f : Frame) (acc : Sp) (sat n : Nat) (cut : Bool) : State :=
  let k := f.tick + 1
  let s := s.upRec r k (fun c => { c with
    subDone := f.subs, accSat := sat, accKnown := true,
    flags := c.flags ||| (if f.partial_ then 2 ^ hfPartial else 0) ||| (if f.accFinal then 2 ^ hfFinal else 0) })
  let s := s.bump .accr_ACC_FRAMES r
  let s := if f.partial_ then (s.bump .accr_ACC_PARTIAL_CNT r).wrB .accr_PARTIAL r true else s
  let s := s.when (!cut) (fun s => s.daily r 1 k (s.epochAt r k) acc)
  s.submit r { kind := 4, tick := k, n := n, px := acc, final := f.accFinal && !cut, partial_ := f.partial_, trunc := cut }

/-- A sub-frame's counts at the bank (R109): written, added, or passed on as the output frame. n pixels of it came. -/
def State.accFrame (s : State) (r : Fin 16) (f : Frame) (px : Sp) (n : Nat) (cut : Bool) : State :=
  let a := s.accR r
  let base : Sp := if f.sub = 0 then [] else a.acc
  let sat0 : Sp := if f.sub = 0 then [] else a.sat
  let acc := if f.shut then px.foldl (fun m e => spSet m e.1 (spGet m e.1 0 + e.2) 0) base else base
  let sat := if f.shut then (px.filter (fun e => e.2 == 4095)).foldl (fun m e => spSet m e.1 1 0) sat0 else sat0
  if f.cycEnd then
    (s.setAccR r { a with acc := [], sat := [] }).accOutput r f (if cut then spRange acc 0 n else acc) sat.length n cut
  else s.setAccR r { a with acc := acc, sat := sat }

/-- A jumped sub-frame: it adds nothing, and a cycle that ends with it has no output frame (R85; DEDUCED, log entry 201); a stream that was
to end there ends with the empty FINAL packet (R145). -/
def State.accJumped (s : State) (r : Fin 16) (f : Frame) : State :=
  if f.cycEnd then
    let k := f.tick + 1
    let s := (s.setAccR r { s.accR r with acc := [], sat := [] }).upRec r k (fun c => { c with accKnown := true })
    s.when f.accFinal (fun s => (s.headFlag r k hfFinal).submit r { kind := 4, tick := f.tick, n := 0, px := [], final := true, empty := true })
  else s.accFrame r f [] regionPix false

/-! ### Frames (R36, R98, R129) -/

/-- The frame of the tick just ended, as a commit at the same boundary may still mark it. -/
def State.upFrame (s : State) (r : Fin 16) (k : Nat) (g : Frame → Frame) : State :=
  let q := s.pfeR r
  let u (f : Frame) : Frame := if f.tick == k then g f else f
  s.setPfeR r { q with xfer := q.xfer.map u, behind := q.behind.map u }

/-- The streams that were to end with frame f end with the empty FINAL packet (R145). -/
def State.emptyEnds (s : State) (r : Fin 16) (f : Frame) : State :=
  let fin (kind : Nat) (s : State) : State := s.submit r { kind := kind, tick := f.tick, n := 0, px := [], final := true, empty := true }
  let s := s.when (f.ends &&& 0x14 != 0) (fin 1)
  let s := s.when (f.ends &&& 0x20 != 0) (fin 2)
  if f.ends &&& 0x74 != 0 then s.headFlag r f.tick hfFinal else s

/-- A stream's share of a frame that was not transferred: nothing, or the empty FINAL packet. -/
def State.lostFrame (s : State) (r : Fin 16) (f : Frame) : State :=
  let s := s.emptyEnds r f
  if !bit f.mode mAccum then s else if f.jumped then s.accJumped r f else s.accFrame r f [] regionPix false

/-- The products of a transferred frame, of which n pixels came (all but under FE_ABORT). -/
def State.frameOut (s : State) (r : Fin 16) (f : Frame) (n : Nat) (cut : Bool) : State :=
  let px := spRange (rowMajor f.pix) 0 n
  let zs := ((s.recOf r f.tick).map (fun c => bit c.flags hfZs)).getD false
  let s := if f.ends &&& 0x74 != 0 && !cut then s.headFlag r f.tick hfFinal else s
  let s := s.when (mode12 f.mode && !cut) (fun s => s.daily r 0 f.tick (s.epochAt r f.tick) px)
  let s := if f.mode &&& 0x14 != 0 then
      s.submit r { kind := 1, tick := f.tick, n := n, px := px, zs := zs, final := f.ends &&& 0x14 != 0 && !cut, trunc := cut }
    else s
  let s := if f.mode &&& 0x20 != 0 then
      s.submit r { kind := 2, tick := f.tick, n := n, px := px.map (fun e => (e.1, 1)), zs := zs, final := f.ends &&& 0x20 != 0 && !cut,
                   trunc := cut }
    else s
  if bit f.mode mAccum then s.accFrame r f px n cut else s

/-- The discarded frames behind a transfer take their place once nothing is before them. -/
def State.flushBehind (s : State) (r : Fin 16) : State :=
  let q := s.pfeR r
  match q.xfer with
  | some _ => s
  | none => (s.setPfeR r { q with behind := [] }).each q.behind (fun f s => s.lostFrame r f)

/-- FE_FINAL once the last counter frame of a drain has gone (R47). -/
def State.feFinal (s : State) (r : Fin 16) : State :=
  let q := s.pfeR r
  if q.finalOwed && q.xfer.isNone then (s.setPfeR r { q with finalOwed := false }).wrB .pfer_FE_FINAL r true else s

/-- The transfer of frame f is over: its figures are known, and what waited behind it goes on. -/
def State.frameEnd (s : State) (r : Fin 16) (f : Frame) : State :=
  let s := s.setPfeR r { s.pfeR r with xfer := none, xferDone := true }
  (((s.upRec r f.tick (fun c => { c with known := true }))).flushBehind r).feFinal r

/-- FRAME_TRANSFER_DONE (R37): the figures of the frame go to its head, the hot-pixel detector sees it, and its products go
to the engine; an output frame's last values wait for room in the staging area, and the transfer with them (R109). -/
def State.frameDone (s : State) (r : Fin 16) : State :=
  let q := s.pfeR r
  match q.xfer with
  | none => s
  | some f =>
    let s := if f.passed then s else
      let s := s.setPfeR r { q with xfer := some { f with passed := true } }
      let old := (s.pfeR r).hot.length
      let s := if mode12 f.mode then s.pfeFrameDone r f (s.seq.k + 1) else s
      let zs := ((s.recOf r f.tick).map (fun c => bit c.flags hfZs)).getD false
      let hotNew := (s.pfeR r).hot.length - old
      let s := s.upRec r f.tick (fun c => { c with
        sat := if mode12 f.mode then f.saturated else c.sat,
        nzSeg := if zs then ((rowMajor f.pix).map (fun e => e.1 / 64)).eraseDups.length else 0, hotNew := hotNew })
      s.frameOut r f regionPix false
    if s.accWaits r then s else s.frameEnd r f

/-- The counters of region r swap at the boundary that begins tick k (R36): the frame of the tick ended is transferred,
discarded under R16 (gone), or has none to transfer (jumped). mode is the mode word of the tick ended. -/
def State.swapAt (s : State) (r : Fin 16) (k m : Nat) (gone jumped : Bool) : State :=
  let q := s.pfeR r
  let f0 : Frame := {
    tick := k - 1, pix := if gone || jumped then [] else q.counts, injected := q.injIssued != 0, mode := m, since := s.clock,
    lost := gone || jumped, jumped := jumped }
  let f := (s.accR r).mark f0
  let s := s.upRec r (k - 1) (fun c => { c with
    inj := q.injIssued, known := gone || jumped || !modeFrame m,
    lost := if gone then (if mode12 m then 1 else 0) + (if bit m mBinary then 2 else 0) + (if bit m mHisto then 4 else 0) +
      (if bit m mAccum then 8 else 0) else c.lost })
  let s := if f.cycEnd then s.upRec r k (fun c => { c with accKnown := false }) else s
  let s := if gone && bit m mHisto then s.setHstR r { s.hstR r with lost := (s.hstR r).lost ++ [k - 1] } else s
  let q := { q with counts := q.next, next := [] }
  if !modeFrame m then s.setPfeR r q
  else if gone || jumped then s.setPfeR r { q with behind := q.behind ++ [f] }
  else s.setPfeR r { q with xfer := some f, xferDone := false }

/-- At the boundary that begins tick k, region r has not finished the work of the tick ended (R16): the transfer, which keeps the readout
buffers, or the compression of the frame of tick k - 2 or of the ACCUM output of tick k - 1. -/
def State.unfinished (s : State) (r : Fin 16) (k : Nat) : Bool := (s.pfeR r).xfer.isSome || s.cmpBusy r k

/-- What a cut frame owes to the streams that were to end with it: the empty FINAL packets, that of ACCUM's output too (R145, R168). -/
def State.cutEnds (s : State) (r : Fin 16) (f : Frame) : State :=
  (s.emptyEnds r f).when (f.cycEnd && f.accFinal) (fun s =>
    s.submit r { kind := 4, tick := f.tick, n := 0, px := [], final := true, empty := true })

/-- FE_ABORT during a transfer (R47): the part already transferred is encoded and its packet closes with TRUNC; a drained stream ends behind
it with the empty FINAL packet. -/
def State.cutTransfer (s : State) (r : Fin 16) : State :=
  let q := s.pfeR r
  match q.xfer with
  | none => s
  | some f =>
    let n := pixDone f.mode (s.clock - f.since)
    let s := s.setPfeR r { q with xfer := none, xferDone := true }
    let left := (s.cmpR r).accJob.isSome
    let s := s.upRec r f.tick (fun c => { c with known := true, flags := c.flags ||| 2 ^ hfTrunc })
    if f.passed then (s.accCut r).cutEnds r { f with ends := 0, accFinal := f.accFinal && left }
    else if n = 0 then
      if f.cycEnd then
        ((s.setAccR r { s.accR r with acc := [], sat := [] }).upRec r (f.tick + 1) (fun c => { c with accKnown := true })).cutEnds r f
      else s.lostFrame r f
    else (s.frameOut r f n true).cutEnds r f

/-- A region abort at the frames and the accumulators (R47, R119): the transfer is cut as by FE_ABORT, the cycle in progress is discarded,
the areas are cleared. -/
def State.frameAbort (s : State) (r : Fin 16) : State :=
  let s := s.cmpCut r
  let q := s.pfeR r
  let s := ((s.setPfeR r { q with xfer := q.xfer.map (fun f : Frame => { f with ends := 0, accFinal := false }) }).cutTransfer r).encodeAll r
  let s := s.setPfeR r { s.pfeR r with xfer := none, xferDone := true, behind := [], counts := [], next := [] }
  let x := s.evbR r
  let s := s.setEvbR r { x with recs := x.recs.map (fun c : Rec => { c with accKnown := true }) }
  (s.setAccR r {}).wr .accr_SUB_IDX r 0

end Sys2Proof.Machine
end

