-- ==== Sys2Proof/Machine/Evb.lean ====
section
/-! DEFINITION. EVB: the reorder store, the release of event words, the close of ticks and the frame heads (R120 to R128,
R140). -/

namespace Sys2Proof.Machine

open Sys2Proof

/-- The TB time words must lie before to be due: REORDER_WIN us ago (R121). -/
def State.dueBefore (s : State) : Int := (s.tbNow : Int) - (s.rd .evb_REORDER_WIN * usFu : Nat)

/-- The reorder store of a region (R121). -/
def storeWords : Nat := 131072

/-- A word put in its place: by time, then cluster local index, behind its equals. -/
def storePut (w : EvW) : List EvW → List EvW
  | [] => [w]
  | x :: l => if w.h < x.h || (w.h == x.h && w.loc < x.loc) then w :: x :: l else x :: storePut w l

/-- Every word earlier than the TB time x is released, and none held or to come within REORDER_WIN is earlier. -/
def State.clearTo (s : State) (r : Fin 16) : Int :=
  match (s.evbR r).store with
  | [] => s.dueBefore
  | w :: _ => min s.dueBefore w.h

/-- The release front of a region with no TDC mode follows its TB time minus REORDER_WIN, behind what it still holds (R123); that of another
stands at the last word released (R121). It never moves back. -/
def State.frontUp (s : State) (r : Fin 16) : State :=
  let x := s.evbR r
  if s.tdcMode r then s
  else match x.front with
    | some f => if f < s.clearTo r then s.setEvbR r { x with front := some (s.clearTo r) } else s
    | none => s.setEvbR r { x with front := some (s.clearTo r) }

/-- The release front moved to the instant y, when no word before it is held and REORDER_WIN has passed since: so a tick or a window ends
in a region that has no later word (DEDUCED from R127, log entry 155). -/
def State.frontTo (s : State) (r : Fin 16) (y : Int) : State :=
  let s := s.frontUp r
  let x := s.evbR r
  let behind := match x.front with | some f => decide (f < y) | none => true
  if behind && decide (y ≤ s.clearTo r) then s.setEvbR r { x with front := some y } else s

/-- A word earlier than the release front (R122). -/
def EvbR.late (x : EvbR) (w : EvW) : Bool := match x.front with | some f => decide (w.h < f) | none => false

/-- The mode word a word of tick k meets: a WINDOW drain with a window open still takes words (table Modes-8). -/
def State.wordMode (s : State) (r : Fin 16) (k : Nat) : Nat :=
  let m := s.modeAt r k
  let x := s.evbR r
  if x.winDrain && !x.wins.isEmpty then m ||| 2 ^ mWindow else m

/-- A released word of reference tick ref in the ring reel and in the windows it falls in; its packet is read back for them once it is in the
reel, unless STAMP has it forwarded as it closes (R140, R142). -/
def State.winWord (s : State) (r : Fin 16) (w : EvW) (word ref : Nat) (stamp : Bool) : State :=
  let x := s.evbR r
  let hit (v : WinTake) : Bool := decide (v.start ≤ w.h) && decide (w.h < v.stop)
  s.setEvbR r { x with
    ring := x.ring ++ [{ h := w.h, w := word, ref := ref, reel := s.rd .trg_WIN_REEL, fwd := stamp, due := !stamp && x.wins.any hit }],
    wins := x.wins.map (fun v => if hit v then { v with words := v.words + 1 } else v) }

/-- The first word of the store released; none while the engine's queue has no room for it (R121, R122). -/
def State.relWord (s : State) (r : Fin 16) (w : EvW) (early : Bool) : Option State :=
  let x := s.evbR r
  let pop (s : State) : State := s.setEvbR r { s.evbR r with store := (s.evbR r).store.drop 1 }
  let kt := s.tickOf w.h
  let m := s.wordMode r kt
  if !s.running || m &&& 0x8B = 0 || (m &&& 0x8B = 0x80 && !w.test) then some (pop s)
  else if toEngine m && !s.inqRoom r then none
  else
    let late := x.late w
    let ref := if late then s.tickOf (x.front.getD 0) else kt
    let word := eventWord w.test w.multi late w.calok w.pix (128 * (r / 4) + w.loc / 128) (128 * (r % 4) + w.loc % 128)
      (toU 38 (w.h - s.tickTime ref))
    let s := pop s
    let s := if late then s else s.setEvbR r { s.evbR r with front := some w.h }
    let s := if late then (s.bump .evb_LATE_CNT r).upRec r ref (fun c => { c with late := c.late + 1 })
      else s.upRec r kt (fun c => { c with events := c.events + 1 })
    let s := if early then ((s.bump .evb_EARLY_REL r).wrBit .evb_RS_EARLY 0 r true).headFlag r kt hfEarly else s
    let s := if bit m mHisto then s.hstHit r kt w else s
    let s := if bit m mWindow then s.winWord r w word ref (bit m mStamp) else s
    some (if toEngine m then (s.setEvbR r { s.evbR r with pushed := true }).evInput r (.word word ref) else s)

/-! ### Closing ticks (R123, R127, R128) -/

/-- The EVENT stream of region r ends with tick k (R118, R70): neither STAMP nor WINDOW stays, or TEST where it alone filled it. -/
def State.eventsEnd (s : State) (r : Fin 16) (k : Nat) : Bool :=
  let m := s.wordMode r k
  let n := s.wordMode r (k + 1)
  ((m &&& 3 != 0 && m &&& n &&& 3 == 0) || (toEngine m && !toEngine n) ||
    ((s.tdcR r).endTick == some k && m &&& 0x8B != 0)) && !s.cutAt r k

/-- The counters of table Events-4 whose counts cover the interval between two closes. -/
def State.closeCnts (s : State) (r : Fin 16) : List Nat :=
  [s.rd .tdcr_DROP_QFULL r, s.rd .tdcr_DROP_AGE r, s.rd .tdcr_DROP_ABORT r, s.rd .tdcr_CODE_ERR r, s.rd .hstr_SYNC_MISSED r]

/-- How far counter n of the list moved since the last close, modulo 2^32. -/
def State.sinceClose (s : State) (r : Fin 16) (n : Nat) : Nat :=
  ((s.closeCnts r).getD n 0 + 2 ^ 32 - (s.evbR r).base.getD n 0) % 2 ^ 32

/-- Tick k of region r closes: its EVENT block, its dump, its interval counts. -/
def State.closeTick (s : State) (r : Fin 16) (k : Nat) : State :=
  let m := s.wordMode r k
  let fin := s.eventsEnd r k
  let s := if (s.evbR r).pushed || toEngine m || fin then s.evInput r (.close k fin k) else s
  let s := if fin then s.headFlag r k hfFinal else s
  let s := if bit m mHisto then s.hstClose r k else s
  let s := s.upRec r k (fun c => { c with
    closed := true, tstate := s.timeState, tq := s.tqNow, qfull := s.sinceClose r 0, age := s.sinceClose r 1,
    abort := s.sinceClose r 2, code := s.sinceClose r 3, sync := s.sinceClose r 4, slates := (s.evbR r).slates })
  let s := s.setEvbR r { s.evbR r with k := k + 1, slates := 0, base := s.closeCnts r, pushed := false }
  if r = 0 then (s.rpClose 16 k true).rpClose 17 k true else s

/-- TICK_CLOSE: the next tick closes once its end is a boundary processed and the front has reached it. -/
def State.tickClose (s : State) (r : Fin 16) : State :=
  let s := s.frontTo r (s.tickTime ((s.evbR r).k + 1))
  let x := s.evbR r
  if s.running && x.k < s.seq.k && (match x.front with | some f => decide (s.tickTime (x.k + 1) ≤ f) | none => false) then
    s.closeTick r x.k
  else s

/-- Every tick before k closed, as the word that opens tick k is about to be released. -/
def State.closeUpTo (s : State) (r : Fin 16) (k : Nat) : State :=
  (List.range (k - (s.evbR r).k)).foldl (fun s _ => if (s.evbR r).k < k then s.closeTick r (s.evbR r).k else s) s

/-- The first word of the store released when it is due; none when there is none or it must wait. -/
def State.relDue (s : State) (r : Fin 16) : Option State :=
  let x := s.evbR r
  match x.store with
  | [] => none
  | w :: _ =>
    let due := decide (w.h < s.dueBefore) || x.late w
    let early := storeWords ≤ x.store.length && !due
    let kt := s.tickOf w.h
    if (due || (early && s.inqRoom r)) && (!s.running || kt ≤ s.seq.k) then
      (if s.running && !x.late w then s.closeUpTo r kt else s).relWord r w early
    else none

/-- EVENT_WORD_RELEASE: the earliest word of region r, when it is due. -/
def State.wordRelease (s : State) (r : Fin 16) : State := ((s.relDue r).getD s).frontUp r

/-- Every due word released in order, and every tick closed that the front has passed (R124). -/
def State.relAll (s : State) (r : Fin 16) : Nat → State
  | 0 => s
  | n + 1 => match s.relDue r with
    | some s => State.relAll s r n
    | none => s

/-- An entry of the readout reaches EVB: stored, and released at once when it is late or the store is full (R121, R122). -/
def State.evbArrive (s : State) (r : Fin 16) (w : EvW) : State :=
  let s := s.frontUp r
  let x := s.evbR r
  let s := s.setEvbR r { x with store := storePut w x.store }
  if x.late w || storeWords ≤ x.store.length + 1 then (s.relDue r).getD s else s

/-- EVB takes a further entry of region r (R121). -/
def State.evbTakes (s : State) (r : Fin 16) : Bool := (s.evbR r).store.length < storeWords || s.inqRoom r

/-! ### Frame heads (R127, table Events-4) -/

/-- The bytes of a frame head. -/
def headRec (modId r trigs : Nat) (c : Rec) : List Nat :=
  recordOf 1 modId (bytesLE 8 (c.k % 2 ^ 48) ++ recTime c.time ++ bytesLE 4 c.epoch ++ [r, c.mode] ++ bytesLE 2 c.flags
    ++ [c.tstate, c.tq, c.subIdx, c.subDone] ++ bytesLE 2 c.gateIdx ++ bytesLE 2 c.calok ++ u32 c.events ++ u32 c.late
    ++ u32 c.qfull ++ u32 c.age ++ u32 c.abort ++ u32 c.code ++ u32 c.sat ++ u32 c.masked ++ u32 c.inj ++ u32 c.accSat
    ++ u32 c.sync ++ u16 c.nzSeg ++ u16 c.lost ++ u16 c.hotNew ++ u16 c.slates ++ u16 trigs ++ List.replicate 26 0)

/-- A head with no count and no flag but BIAS_OK. -/
def Rec.idle (c : Rec) (trigs : Nat) : Bool :=
  c.mode == 0 && c.flags &&& (0xFFFF - 2 ^ hfBiasOk) == 0 &&
    [c.events, c.late, c.qfull, c.age, c.abort, c.code, c.sat, c.masked, c.inj, c.accSat, c.sync, c.nzSeg, c.lost, c.hotNew, c.slates,
     trigs].all (· == 0)

/-- FRAME_HEAD_EMIT: the head of the oldest tick closed whose figures are known, emitted or suppressed; it ends the packet of
region records. -/
def State.headEmit (s : State) (r : Fin 16) : State :=
  let x := s.evbR r
  match x.recs.find? (fun c => !c.emitted) with
  | none => s
  | some c =>
    if c.closed && c.known && c.accKnown then
      let stop := s.tickTime (c.k + 1)
      let trigs := x.trigPend.countP (fun t => decide (t < stop))
      let c := if c.inj = 0 then c else { c with flags := c.flags ||| 2 ^ hfTest }
      let s := s.setEvbR r { x with trigPend := x.trigPend.filter (fun t => !decide (t < stop)) }
      let s := s.upRec r c.k (fun c => { c with emitted := true })
      let quiet := c.idle trigs && c.k % 2 ^ s.rd .evb_HEAD_IDLE != 0
      if quiet then s.rpClose r c.k true else s.rpEnd r c.k (headRec (s.rd .tre_MODULE_ID) r trigs c)
    else s

/-! ### Aborts and STANDBY -/

/-- TDC_ABORT or a region abort at EVB: the words of the reorder store are discarded and counted once (R70, R119). -/
def State.evbDrop (s : State) (r : Fin 16) : State :=
  let x := s.evbR r
  (s.setEvbR r { x with store := [] }).bump .tdcr_DROP_ABORT r x.store.length

/-- Every tick before k closes at once, as EVB loses its power at the boundary of tick k. -/
def State.evbFlush (s : State) (r : Fin 16) (k : Nat) : State :=
  let s := s.closeUpTo r k
  (List.range (s.evbR r).recs.length).foldl (fun s _ => s.headEmit r) s

/-! ### Meanings -/

/-- GATE_OPEN is in Trg.lean, for its trigger outputs. GATE_CLOSE: the gate of region r closes. -/
def execGateClose (t : Nat) (r : Fin 16) (s : State) : Host.Outcome State Fault Refusal :=
  run t (fun s => s.on .hst (fun s => s.gateCloses r)) s
/-- HISTO_DUMP_DONE. -/
def execHistoDumpDone (t : Nat) (r : Fin 16) (s : State) : Host.Outcome State Fault Refusal :=
  run t (fun s => s.on .hst (fun s => s.dumpDone r)) s
/-- FRAME_TRANSFER_DONE. -/
def execFrameTransferDone (t : Nat) (r : Fin 16) (s : State) : Host.Outcome State Fault Refusal :=
  run t (fun s => s.on .pfe (fun s => s.frameDone r)) s
/-- EVENT_WORD_RELEASE. -/
def execEventWordRelease (t : Nat) (r : Fin 16) (s : State) : Host.Outcome State Fault Refusal :=
  run t (fun s => s.on .evb (fun s => s.wordRelease r)) s
/-- TICK_CLOSE. -/
def execTickClose (t : Nat) (r : Fin 16) (s : State) : Host.Outcome State Fault Refusal :=
  run t (fun s => s.on .evb (fun s => s.tickClose r)) s
/-- FRAME_HEAD_EMIT. -/
def execFrameHeadEmit (t : Nat) (r : Fin 16) (s : State) : Host.Outcome State Fault Refusal :=
  run t (fun s => s.on .evb (fun s => s.headEmit r)) s

end Sys2Proof.Machine
end

