-- ==== Sys2Proof/Machine/Trg.lean ====
section
/-! DEFINITION. TRG: the trigger inputs, requests, decisions, windows and trigger outputs (R133 to R143), and the exchange of
trigger blocks on a link (R230). -/

namespace Sys2Proof.Machine

open Sys2Proof

def State.trgUpd (s : State) (f : Trg → Trg) : State := { s with trg := f s.trg }

/-! ### Trigger blocks on a link (R230) -/

/-- The link of the primary parent, and those of the primary children (table Trees-16). -/
def State.parentLink (s : State) : Option (Fin 10) := (List.finRange 10).find? (fun l => s.rd .tre_LINK_ROLE l == 1)
def State.childLinks (s : State) : List (Fin 10) := (List.finRange 10).filter (fun l => s.rd .tre_LINK_ROLE l == 4)

/-- Trigger classes 2 and 3 are in the tree's feature set (TRIG4, table Trees-9). -/
def State.trig4 (s : State) : Bool := s.rdBit .tre_TREE_FEAT 0 10
def State.clsMask (s : State) (c : Nat) : Nat := if s.trig4 then c % 16 else c % 4

/-- Link l carries what relies on tree feature b: it is in TREE_FEAT, and the partner has it (R262). -/
def State.linkFeat (s : State) (l : Fin 10) (b : Nat) : Bool := s.rdBit .tre_TREE_FEAT 0 b && s.rdBit .lnk_PARTNER_FEAT l b

/-- A block as it is sent on link l: CLASS bits 3 and 2 are 0 without TRIG4. -/
def State.blkOut (s : State) (l : Fin 10) : TBlk → TBlk
  | .req q => .req { q with cls := if s.linkFeat l 10 then q.cls % 16 else q.cls % 4 }
  | .dec d => .dec { d with cls := if s.linkFeat l 10 then d.cls % 16 else d.cls % 4 }

/-- A trigger block leaves on link l. -/
def State.trigOut (s : State) (l : Fin 10) (n : Nat) (b : TBlk) : State :=
  let s := s.trigBlock l n b
  { s with out := .tblk l n b :: s.out }

/-- Link l takes trigger blocks: in UP, and not in STANDBY (table Lanes-5). -/
def State.trigOpen (s : State) (l : Fin 10) : Bool := s.linkUp l && s.pwr != .standby

def State.trigLink (s : State) (l : Fin 10) : TrigLink := s.trg.links[l]
def State.setTrigLink (s : State) (l : Fin 10) (x : TrigLink) : State :=
  s.trgUpd (fun g => { g with links := g.links.set l x })

/-- A block sent on link l, or kept while the link takes none or 64 blocks are outstanding. -/
def State.trigSend (s : State) (l : Fin 10) (b : TBlk) : State :=
  let x := s.trigLink l
  if s.trigOpen l && x.out.length < 64 && x.wait.isEmpty then
    let n := x.next
    let s := s.setTrigLink l { x with next := (n + 1) % 256, out := x.out ++ [(n, b, s.clock)] }
    s.trigOut l n (s.blkOut l b)
  else s.setTrigLink l { x with wait := x.wait ++ [b] }

/-- Waiting blocks sent as far as 64 may be outstanding. -/
def State.trigPump (s : State) (l : Fin 10) : State :=
  let x := s.trigLink l
  let n := 64 - x.out.length
  if s.trigOpen l then (s.setTrigLink l { x with wait := [] }).each (x.wait.take n) (fun b s => s.trigSend l b) |>.each (x.wait.drop n)
    (fun b s => s.setTrigLink l { s.trigLink l with wait := (s.trigLink l).wait ++ [b] })
  else s

/-- Link l has reached UP: both sides count TSEQ from 0, and what was outstanding goes first. -/
def State.trigLinkUp (s : State) (l : Fin 10) : State :=
  let x := s.trigLink l
  (s.setTrigLink l { wait := x.out.map (fun e => e.2.1) ++ x.wait }).trigPump l

/-- TACK received: it covers every TSEQ up to it. -/
def State.trigAck (s : State) (l : Fin 10) (tack : Nat) : State :=
  let x := s.trigLink l
  (s.setTrigLink l { x with out := x.out.filter (fun e => 128 ≤ (tack + 256 - e.1) % 256) }).trigPump l

/-- TACK moved on over the TSEQs received. -/
def tackUp (seen : List Nat) : Nat → Option Nat → Option Nat
  | 0, t => t
  | n + 1, t =>
    let k := match t with | some a => (a + 1) % 256 | none => 0
    if seen.contains k then tackUp seen n (some k) else t

/-- A trigger block with this TSEQ arrives: f for its first good copy, counted as a duplicate otherwise. -/
def State.trigRx (s : State) (l : Fin 10) (tseq : Nat) (f : State → State) : State :=
  let x := s.trigLink l
  if x.seen.contains tseq then s.bump .lnk_TRIG_DUP l
  else
    let seen := (tseq :: x.seen).take 128
    f (s.setTrigLink l { x with seen := seen, tack := tackUp seen 128 x.tack })

/-- Every unacknowledged block last sent 3 us ago or earlier is sent again. -/
def State.trigResend (s : State) (l : Fin 10) : State :=
  let x := s.trigLink l
  let old (e : Nat × TBlk × Nat) : Bool := e.2.2 + 3 * usFu ≤ s.clock
  if s.trigOpen l then
    let s := s.setTrigLink l { x with out := x.out.map (fun e => if old e then (e.1, e.2.1, s.clock) else e) }
    s.each (x.out.filter old) (fun e s => (s.bump .lnk_TRIG_RESEND l).trigOut l e.1 (s.blkOut l e.2.1))
  else s

/-- The TB time nearest now whose low 56 bits are t. -/
def near56 (now : Int) (t : Nat) : Int := now + ((t - now + 2 ^ 55) % 2 ^ 56 - 2 ^ 55)

/-! ### Trigger outputs (R139) -/

/-- A pulse of output o whose source instant is x on the coarse scale and was known from known on: none when its start has passed by
then (R139), nor under SAFE, where the drivers are off the bus (R322). -/
def State.pulseAt (s : State) (o : Fin 2) (x known : Int) (ofs : Bool) : State :=
  let a := if ofs then grid16 (x + (s.rd .trg_TO_OFS o * nsFu : Nat)) else x
  let g := s.trg.pulses[o]
  if a < known || s.flag .flt_SAFE_ACT then s else s.trgUpd (fun t => { t with pulses := t.pulses.set o (g ++ [(a, a + (s.rd .trg_TO_WIDTH o * 10 * nsFu : Nat))]) })

/-- The outputs whose TO_SRC is src pulse from the coarse-scale instant x, known from known on. -/
def State.trigSource (s : State) (src : Nat) (x known : Int) : State :=
  s.each (List.finRange 2) (fun o s => if s.rd .trg_TO_SRC o == src then s.pulseAt o x known (src != 2) else s)

/-- The same for gate g of region r. -/
def State.gateSource (s : State) (r : Nat) (g : Gate) : State :=
  s.each (List.finRange 2) (fun o s =>
    if s.rd .trg_TO_SRC o == 4 && s.rd .trg_TO_REGION o == r then s.pulseAt o g.o g.known true else s)

/-- TRIG_OUT_PULSE_START: the output is driven high while a pulse runs, and not under SAFE (R322). -/
def State.pulseStart (s : State) (o : Fin 2) : State :=
  let now : Int := s.local_
  if !s.flag .flt_SAFE_ACT && (s.trg.pulses[o]).any (fun p => decide (p.1 ≤ now) && decide (now < p.2)) then
    s.trgUpd (fun t => { t with high := t.high.set o true })
  else s

/-- TRIG_OUT_PULSE_END: pulses that are over are gone; with none running the driver is off the bus. -/
def State.pulseEnd (s : State) (o : Fin 2) : State :=
  let now : Int := s.local_
  let l := (s.trg.pulses[o]).filter (fun p => decide (now < p.2))
  s.trgUpd (fun t => { t with pulses := t.pulses.set o l, high := t.high.set o (t.high[o] && l.any (fun p => decide (p.1 ≤ now))) })

/-- Both drivers off the bus at once, their pulses gone. -/
def State.trigRelease (s : State) : State :=
  s.trgUpd (fun t => { t with pulses := .replicate 2 [], high := .replicate 2 false })

/-! ### Requests (R133 to R135) -/

/-- A request joined to another: the classes ORed, the earlier time and its requester kept, the number raised up to 255. -/
def Treq.join (a b : Treq) : Treq :=
  { cls := a.cls ||| b.cls, tt := if b.tt < a.tt then b.tt else a.tt, n := satN 255 (a.n + 1),
    src := if b.tt < a.tt then b.src else a.src }

/-- A request that meets a count of 255 (R135). -/
def State.reqFull (s : State) (q : Treq) : State :=
  if 255 ≤ q.n then ((s.bump .trg_REQ_EXCESS 0).wrB .trg_REQ_OVR 0 true).trgUpd (fun g => { g with excess := g.excess + 1 }) else s

/-- A request joins the merge, or starts a merge interval from the clock instant x (R135). -/
def State.reqIn (s : State) (q : Treq) (x : Nat) : State :=
  match s.trg.merge with
  | some (m, e) => ((s.reqFull m).bump .trg_REQ_MERGED 0).trgUpd (fun g => { g with merge := some (m.join q, e) })
  | none => s.trgUpd (fun g => { g with merge := some ({ q with n := 1 }, x + s.rd .trg_REQ_MERGE * nsFu), excess := 0 })

/-- The lookup index of grid slot n (R133). -/
def State.trgIndex (s : State) (n : Int) : Nat :=
  (List.finRange 5).foldl (fun a i => a + (match s.trg.act[i] with
    | some x => if x.first ≤ n ∧ n ≤ x.last then 2 ^ i.val else 0
    | none => 0)) 0

/-- The grid slot of a TB instant: 3.2 ns each. -/
def gridSlot (x : Int) : Int := x / 512

/-- Grid slot n evaluated: each class whose bit rises raises a request with request time tt, which enters the merge at the clock
instant at_ (R135). -/
def State.trgEval (s : State) (n tt : Int) (at_ : Nat) : State :=
  let i := s.trgIndex n
  let j := s.trgIndex (n - 1)
  let c := (List.range 4).foldl (fun a c =>
    let lut := s.rd .trg_LOCAL_LUT c
    a + (if bit lut i && !bit lut j then 2 ^ c else 0)) 0
  if s.flag .trg_TRG_EN then
    s.each (bitsSet (s.clsMask c) 4) (fun i s => s.reqIn { cls := 2 ^ i, tt := tt, n := 1, src := s.rd .tre_MODULE_ID } at_)
  else s

/-- The open grid slot is evaluated once it is over. -/
def State.trgSettle (s : State) : State :=
  match s.trg.pend with
  | some (n, tt) =>
    if n < gridSlot s.tbNow then
      let s := s.trgUpd (fun g => { g with pend := none })
      s.trgEval n tt (s.coarseOf (512 * (n + 1)) + s.tbs.zero).toNat
    else s
  | none => s

/-- Trigger input i has an event at the TB instant x: it is active from then for LOC_COINC ns (R133). -/
def State.trgInput (s : State) (i : Fin 5) (x : Int) : State :=
  let s := s.trgSettle
  let n := match s.trg.pend with | some (m, _) => max m (gridSlot x) | none => gridSlot x
  let stop := x + (s.rd .trg_LOC_COINC * nsFu : Nat)
  let last := max n (gridSlot (stop - 1))
  let a : Act := match s.trg.act[i] with
    | some a => if n ≤ a.last + 1 then { first := a.first, last := max a.last last, until_ := max a.until_ stop }
      else { first := n, last := last, until_ := stop }
    | none => { first := n, last := last, until_ := stop }
  let tt := match s.trg.pend with | some (_, y) => max x y | none => x
  s.trgUpd (fun g => { g with act := g.act.set i (some a), pend := some (n, tt) })

/-- LOC_COINC_EXPIRY: the activity of input i has run out; the index of the slot behind it is evaluated, once, and while that slot is still open
with the events that yet come in it. The activity stays on record, for the comparison of a slot with the one before. -/
def State.trgExpiry (s : State) (i : Fin 5) : State :=
  let s := s.trgSettle
  let now := gridSlot s.tbNow
  match s.trg.act[i] with
  | some a =>
    if a.last < now && !a.done then
      let s := s.trgUpd (fun g => { g with act := g.act.set i (some { a with done := true }) })
      if a.last + 1 < now then s.trgEval (a.last + 1) a.until_ s.clock
      else s.trgUpd (fun g => { g with pend := some (now, match g.pend with | some (_, t) => max t a.until_ | none => a.until_) })
    else s
  | none => s

/-! ### Rate conditions (R134) -/

/-- The readout of region r took n entries: counted for the conditions that select it. -/
def State.rateCount (s : State) (r n : Nat) : State :=
  s.each (List.finRange 2) (fun a s =>
    if s.rdBit .trg_RATE_REGIONS a r then s.trgUpd (fun g => { g with rateNow := g.rateNow.set a (g.rateNow[a] + n) }) else s)

/-- RATE_EVAL: the counts of the last RATE_WIN slots meet RATE_THR; a condition that becomes true is an event of its input. -/
def State.rateEval (s : State) : State :=
  s.each (List.finRange 2) (fun a s =>
    let l := ((s.trg.rateNow[a]) :: s.trg.rate[a]).take (s.rd .trg_RATE_WIN a)
    let thr := s.rd .trg_RATE_THR a
    let on := thr != 0 && thr ≤ l.foldl (· + ·) 0
    let was := s.trg.rateTrue[a]
    let s := s.trgUpd (fun g => { g with rate := g.rate.set a l, rateNow := g.rateNow.set a 0, rateTrue := g.rateTrue.set a on })
    if on && !was then s.trgInput ⟨2 + a.val, by omega⟩ s.tbNow else s)

/-! ### Windows (R140 to R142) -/

/-- WIN_PRE and WIN_POST in force at tick k. -/
def State.winAt (s : State) (k : Nat) : Nat × Nat :=
  match s.trg.wins.find? (fun w => w.1 ≤ k) with
  | some w => w.2
  | none => match s.trg.wins.getLast? with
    | some w => w.2
    | none => (s.rd .trg_WIN_PRE, s.rd .trg_WIN_POST)

/-- The take of a window on reel n, from extent a: the reel's one OPEN take, which a command may have opened and then closes (DESIGN CHOICE,
log entry 170), or a new one by this decision (R192). -/
def State.winTakeOpen (s : State) (n a id tick epoch : Nat) : State × Nat :=
  match s.cab.takes.find? (fun t => t.reel == n && t.st == 1) with
  | some t =>
    (s.setTake { t with startExt := some (min a (t.startExt.getD a)) }, t.num)
  | none =>
    if 262144 ≤ s.cab.takes.length || (s.reel n).isNone then (s, 0)
    else
      let num := (s.cab.lastTake + 1) % 2 ^ 32
      let last := ((s.reel n).map (fun r => r.alloc - 1)).getD a
      let t : Take := { num := num, reel := n, st := 1, flags := 1, startExt := some a, endExt := max a last, startTick := tick,
                        stopTick := 0, epoch := epoch, trigId := id }
      (s.cabUpd (fun c => { c with lastTake := num, takes := c.takes ++ [t] }), num)

/-- A decision opens its window on region r (R140 to R142); late says that it arrived after its action instant. -/
def State.winOpen (s : State) (r : Fin 16) (d : Tdec) (late : Bool) : State :=
  let x := s.evbR r
  let n := s.rd .trg_WIN_REEL
  let ring := x.ring.filter (fun w : RingW => w.reel == n && x.winFrom ≤ w.h)
  let k := s.tickOf d.tt
  let (pre, post) := s.winAt k
  let from_ := d.tt - (pre * nsFu : Nat)
  let stop := d.tt + (post * nsFu : Nat)
  let oldest := (ring.map (·.h)).foldl (fun a h => match a with | some b => some (min b h) | none => some h) (none : Option Int)
  let short := match oldest with | some h => decide (from_ < h) | none => false
  let start := max x.winFrom (match oldest with | some h => max h from_ | none => from_)
  let cur := match s.reel n with
    | some q => ((q.openOf r).map (·.seq)).getD q.alloc
    | none => 0
  let ext (w : RingW) : Nat := ((w.pid.bind (fun p => s.cab.pkts.find? (fun q => q.pid == p && q.reel == n))).map (·.ext)).getD cur
  let first := (ring.filter (fun w => decide (from_ ≤ w.h))).foldl (fun a w => min a (ext w)) cur
  let (s, take) := s.winTakeOpen n first d.id (s.tickOf start) (s.epochAt r (s.tickOf start))
  let inside (w : RingW) : Bool := decide (start ≤ w.h) && decide (w.h < stop)
  let words := ring.filter inside
  let v : WinTake := {
    trigId := d.id, cls := d.cls, tt := d.tt, start := start, stop := stop, take := take, reel := n, epoch := s.epochAt r k,
    words := words.length, preAct := ((d.tt - start) / (nsFu : Nat)).toNat, postAct := post,
    overlap := x.wins.any (fun v => decide (start < v.stop) && decide (v.start < stop)), preShort := short, late := late }
  let s := if short then s.bump .trg_PRE_SHORT_CNT 0 else s
  let s := s.ringUpd r (fun l => l.map (fun w : RingW => if w.reel == n && inside w && !w.fwd && !w.had then { w with due := true } else w))
  (s.setEvbR r { s.evbR r with wins := (s.evbR r).wins ++ [v] }).winRun r

/-- The slate of a window of region r. -/
def State.winSlate (s : State) (r : Fin 16) (v : WinTake) (trunc : Bool) : State :=
  let f := 4 * b2n v.overlap + 8 * b2n v.preShort + 16 * b2n v.late + 32 * b2n v.final + 64 * b2n trunc
  let s := s.regionRec r (slateRec (s.rd .tre_MODULE_ID) v.trigId r v.cls f v.tt v.epoch v.preAct v.postAct v.reel v.take v.words)
  s.setEvbR r { s.evbR r with slates := (s.evbR r).slates + 1 }

/-- The take of a window closes once no other window of it is open. -/
def State.winTakeClose (s : State) (n : Nat) (trunc : Bool) : State :=
  if n != 0 && !(List.finRange 16).any (fun r => (s.evbR r).wins.any (fun v => v.take == n)) then
    match s.take n with
    | some t => if t.st == 1 && t.flags % 2 == 1 then
        s.setTake { t with st := 2, stopTick := s.seq.k + 1, flags := if trunc then t.flags ||| 8 else t.flags } else s
    | none => s
  else s

/-- A WINDOW drain is over once its last window has closed (table Modes-8): the ring reel stops filling, and when the ending tick has
closed before, the EVENT stream ends here, unless another mode has gone on with it, whose product is then the drain's last too. -/
def State.winDrained (s : State) (r : Fin 16) : State :=
  let x := s.evbR r
  if x.winDrain && x.wins.isEmpty then
    let s := (s.setEvbR r { x with winDrain := false }).ringUpd r (fun l => l.filter (·.due))
    if x.k < x.winEnd then s
    else if toEngine (s.modeAt r x.k) then
      { s with seq := { s.seq with draining := s.seq.draining.set r (setBit s.seq.draining[r] mWindow false) } }
    else (s.evInput r (.close x.k true (x.winEnd - 1))).headFlag r x.k hfFinal
  else s

/-- TRG_EN was put in force as 0, and what was in progress is done (table Events-12). -/
def State.trgFinal (s : State) : State :=
  let g := s.trg
  if g.draining && g.merge.isNone && g.window.isNone && g.waiting.isEmpty && (List.finRange 16).all (fun r => (s.evbR r).wins.isEmpty) then
    (s.trgUpd (fun g => { g with draining := false })).wrB .trg_TRG_FINAL 0 true
  else s

/-- WINDOW_CLOSE: the release front has passed the end of region r's earliest window. -/
def State.windowDone (s : State) (r : Fin 16) : State :=
  let stop := (s.evbR r).wins.foldl (fun a v => match a with | some b => some (min b v.stop) | none => some v.stop) (none : Option Int)
  let s := s.frontTo r (stop.getD 0)
  let x := s.evbR r
  match x.wins.find? (fun v => some v.stop == stop), x.front with
  | some v, some f =>
    if v.stop ≤ f then
      let rest := x.wins.filter (fun w => w != v)
      let s := s.setEvbR r { x with wins := rest }
      let s := s.winSlate r { v with final := x.winDrain && rest.isEmpty && !s.hasMode r mStamp } false
      (((s.winTakeClose v.take false).winDrained r).winRun r).trgFinal
    else s
  | _, _ => s

/-- A region abort closes its windows with TRUNC, cut to the abort (R142). -/
def State.winAbort (s : State) (r : Fin 16) : State :=
  let x := s.evbR r
  let now : Int := s.tbNow
  let s := s.setEvbR r { x with wins := [], winDrain := false, ring := if x.winDrain then x.ring.filter (·.due) else x.ring }
  (s.each x.wins (fun v s =>
    let p := if now < v.tt then 0 else min v.postAct ((now - v.tt) / (nsFu : Nat)).toNat
    (s.winSlate r { v with postAct := p } true).winTakeClose v.take true)).trgFinal

/-! ### Decisions (R136, R137) -/

/-- A decision acted on: the last decision's registers, and a window on every WINDOW region that is not aborted (R119, R143). -/
def State.decAct (s : State) (d : Tdec) (late : Bool) : State :=
  let s := ((s.wr .trg_LAST_TRIG_ID 0 d.id).wr .trg_LAST_TT 0 (timeWords d.tt.toNat)).wr .trg_LAST_CLASS 0 d.cls
  s.each (List.finRange 16) (fun r s =>
    if s.alive .evb && s.hasMode r mWindow && !bit s.seq.zero r then s.winOpen r d late else s)

/-- The action instant of a decision, in TB time. -/
def State.actionTime (s : State) (d : Tdec) : Int := d.tt + (s.rd .trg_TRIG_FIX_LAT * nsFu : Nat)

/-- A decision reaches this module: it is counted for the heads to come (R127), and waits for its action instant, or is late (R137). -/
def State.decHere (s : State) (d : Tdec) : State :=
  let s := s.each (List.finRange 16) (fun r s => s.setEvbR r { s.evbR r with trigPend := (s.evbR r).trigPend ++ [d.tt] })
  if s.actionTime d < s.tbNow then (s.bump .trg_TRIG_LATE 0).decAct d true
  else s.trgUpd (fun g => { g with waiting := g.waiting ++ [(d, (s.local_ : Int))] })

/-- TRIGGER_ACTION: the waiting decision whose action instant came first; that instant was known from the decision's arrival on. -/
def State.trigAction (s : State) : State :=
  let due := s.trg.waiting.filter (fun d => decide (s.actionTime d.1 ≤ s.tbNow))
  match leastBy (fun a b : Tdec × Int => decide (a.1.tt < b.1.tt)) due with
  | none => s
  | some d =>
    let s := s.trgUpd (fun g => { g with waiting := g.waiting.erase d })
    ((s.decAct d.1 false).trigSource 1 (s.coarseOf (s.actionTime d.1)) d.2).trgFinal

/-- The sequence check of a received TRIG_ID (R137). -/
def State.trigSeq (s : State) (id : Nat) : State :=
  let h := s.trg.highest
  let want := if (h + 1) % 2 ^ 32 = 0 then 1 else (h + 1) % 2 ^ 32
  let s := if id = want then s else s.emit 0x0602 (id + h <<< 32)
  s.trgUpd (fun g => { g with highest := if id = want ∨ h < id then id else h })

/-- TDEC_RX: a decision received from the parent is relayed down and taken. -/
def State.decRx (s : State) (d : Tdec) : State :=
  let s := (s.bump .trg_DEC_COUNT 0).trigSeq d.id
  (s.each s.childLinks (fun l s => s.trigSend l (.dec d))).decHere d

/-- A request meets the decision window (R136). -/
def State.decIn (s : State) (q : Treq) : State :=
  match s.trg.window with
  | some (m, e) =>
    let x := s.trg.excess
    (s.reqFull m).trgUpd (fun g => { g with window := some (m.join q, e), decExcess := g.decExcess + (g.excess - x), excess := x })
  | none => s.trgUpd (fun g => { g with window := some ({ q with n := 1 }, s.clock + s.rd .trg_DEC_COINC * nsFu), decExcess := 0 })

/-- REQUEST_MERGE_END: the merged request goes to the primary parent or, at the root, to the decision (R135). -/
def State.mergeEnd (s : State) : State :=
  let s := s.trgSettle
  match s.trg.merge with
  | some (q, e) =>
    if e ≤ s.clock then
      let x := s.trg.excess
      let s := s.trgUpd (fun g => { g with merge := none, excess := 0 })
      let s := if x = 0 then s else s.emit 0x0601 (q.cls % 16 + (satN 0xFFFF x) <<< 16)
      let s := if s.isRoot then s.decIn q
        else match s.parentLink with
          | some l => ((s.bump .trg_REQ_SENT 0).trigSend l (.req q)).trigSource 2 s.local_ s.local_
          | none => s
      s.trgFinal
    else s
  | none => s

/-- DECISION_WINDOW_END: the root decides, rejects or holds off (R136). -/
def State.decide_ (s : State) : State :=
  match s.trg.window with
  | some (q, e) =>
    if e ≤ s.clock then
      let x := s.trg.decExcess
      let s := s.trgUpd (fun g => { g with window := none, decExcess := 0 })
      let s := if x = 0 then s else s.emit 0x0601 (q.cls % 16 + (satN 0xFFFF x) <<< 16)
      let mask := s.clsMask q.cls
      let held := match s.trg.lastDec with
        | some t => decide (s.clock < t + s.rd .trg_TRIG_HOLDOFF * 100 * nsFu)
        | none => false
      let s :=
        if !s.flag .trg_TRG_EN || !s.rdBit .trg_DEC_LUT 0 mask then s.bump .trg_DEC_REJ 0
        else if held then s.bump .trg_DEC_HELD 0
        else
          let id := if (s.trg.serial + 1) % 2 ^ 32 = 0 then 1 else (s.trg.serial + 1) % 2 ^ 32
          let d : Tdec := ⟨id, q.tt, mask⟩
          let s := (s.bump .trg_DEC_COUNT 0).trgUpd (fun g => { g with serial := id, highest := id, lastDec := some s.clock })
          let s := s.moduleRec (slateRec (s.rd .tre_MODULE_ID) id 0xFF mask 1 q.tt (s.epochAt 0 (s.tickOf q.tt)) 0 0 0 0 0)
          let s := s.each s.childLinks (fun l s => s.trigSend l (.dec d))
          (s.trigSource 2 s.local_ s.local_).decHere d
      s.trgFinal
    else s
  | none => s

/-- MARK: a marker slate at the TB time of the write (R130). -/
def State.markSlate (s : State) : State :=
  s.moduleRec (slateRec (s.rd .tre_MODULE_ID) 0 0xFF 0 2 s.tbNow (s.rd .seq_CFG_EPOCH) 0 0 0 0 0)

/-! ### TRIG_LAT_MIN and commits (R138, R143) -/

/-- TRIG_LAT_MIN for depth d, in ns (R138). -/
def trigLatMin (d loc merge coinc : Nat) : Nat := 200 + loc + merge * d + coinc + 300 * d

/-- The root computes TRIG_LAT_MIN after a change of D; a TRIG_FIX_LAT below it is reported (R138). -/
def State.latDepth (s : State) : State :=
  if s.isRoot then
    let m := trigLatMin (s.rd .tre_DEPTH) (s.rd .trg_LOC_COINC) (s.rd .trg_REQ_MERGE) (s.rd .trg_DEC_COINC)
    let s := s.wr .trg_TRIG_LAT_MIN 0 (satN 0xFFFF m)
    if s.rd .trg_TRIG_FIX_LAT < m then (s.wrB .trg_TRIG_LAT_ERR 0 true).detect clsTrigger 1 unitModule else s
  else s

/-- The effects of a commit at tick k on TRG; en and the window values are those before it. -/
def State.trgCommit (s : State) (k : Nat) (en : Bool) (pre post : Nat) : State :=
  let s := if s.isRoot then
      s.wr .trg_TRIG_LAT_MIN 0 (satN 0xFFFF (trigLatMin (s.rd .tre_DEPTH) (s.rd .trg_LOC_COINC) (s.rd .trg_REQ_MERGE) (s.rd .trg_DEC_COINC)))
    else s
  let now := (s.rd .trg_WIN_PRE, s.rd .trg_WIN_POST)
  let s := if now == (pre, post) then s
    else s.trgUpd (fun g => { g with wins := ((k, now) :: (if g.wins.isEmpty then [(0, (pre, post))] else g.wins)).take 64 })
  let s := s.each (List.finRange 2) (fun o s =>
    if s.rd .trg_TO_SRC o == 0 then
      s.trgUpd (fun g => { g with pulses := g.pulses.set o ((g.pulses[o]).filter (fun p => decide (p.1 ≤ (s.local_ : Int)))) }) else s)
  if s.flag .trg_TRG_EN then
    if en then s else (s.trgUpd (fun g => { g with draining := false })).wrB .trg_TRG_FINAL 0 false
  else if en then (s.trgUpd (fun g => { g with draining := true })).trgFinal
  else s

/-! ### Meanings -/

/-- GATE_OPEN: the gate of region r opens (R100), a source of TRIG_OUT (R139). -/
def execGateOpen (t : Nat) (r : Fin 16) (s : State) : Host.Outcome State Fault Refusal :=
  run t (fun s => s.on .hst (fun s =>
    match s.gateOpens r with
    | some s => match (s.hstR r).gates with
      | g :: _ => s.on .trg (fun s => s.gateSource r g)
      | [] => s
    | none => s)) s
/-- SOFT_REQ. -/
def execSoftReq (t : Nat) (s : State) : Host.Outcome State Fault Refusal :=
  run t (fun s => s.on .trg (fun s => s.trgInput 4 s.tbNow)) s
/-- MARK. -/
def execMark (t : Nat) (s : State) : Host.Outcome State Fault Refusal := run t (fun s => s.on .trg State.markSlate) s
/-- LOC_COINC_EXPIRY. -/
def execLocCoincExpiry (t : Nat) (i : Fin 5) (s : State) : Host.Outcome State Fault Refusal :=
  run t (fun s => s.on .trg (fun s => s.trgExpiry i)) s
/-- REQUEST_MERGE_END. -/
def execRequestMergeEnd (t : Nat) (s : State) : Host.Outcome State Fault Refusal := run t (fun s => s.on .trg State.mergeEnd) s
/-- DECISION_WINDOW_END. -/
def execDecisionWindowEnd (t : Nat) (s : State) : Host.Outcome State Fault Refusal := run t (fun s => s.on .trg State.decide_) s
/-- TREQ_RX: a request of a primary child joins the merge. -/
def execTreqRx (t : Nat) (l : Fin 10) (tseq : BitVec 8) (cls : BitVec 4) (n : BitVec 8) (src : BitVec 32) (time : BitVec 56)
    (s : State) : Host.Outcome State Fault Refusal :=
  run t (fun s => s.on .lnk (fun s => s.when (s.linkUp l) (fun s => s.trigRx l tseq.toNat (fun s =>
    s.on .trg (fun s => s.when (s.rd .tre_LINK_ROLE l == 4) (fun s =>
      s.trgSettle.reqIn { cls := cls.toNat, tt := near56 s.tbNow time.toNat, n := n.toNat, src := src.toNat } s.clock)))))) s
/-- TDEC_RX: a decision of the primary parent. -/
def execTdecRx (t : Nat) (l : Fin 10) (tseq : BitVec 8) (cls : BitVec 4) (id : BitVec 32) (time : BitVec 56) (s : State) :
    Host.Outcome State Fault Refusal :=
  run t (fun s => s.on .lnk (fun s => s.when (s.linkUp l) (fun s => s.trigRx l tseq.toNat (fun s =>
    s.on .trg (fun s => s.when (s.rd .tre_LINK_ROLE l == 1) (fun s =>
      s.decRx ⟨id.toNat, near56 s.tbNow time.toNat, cls.toNat⟩)))))) s
/-- TRIGGER_ACTION. -/
def execTriggerAction (t : Nat) (s : State) : Host.Outcome State Fault Refusal := run t (fun s => s.on .trg State.trigAction) s
/-- TRIG_OUT_PULSE_START. -/
def execTrigOutPulseStart (t : Nat) (o : Fin 2) (s : State) : Host.Outcome State Fault Refusal :=
  run t (fun s => s.on .trg (fun s => s.pulseStart o)) s
/-- TRIG_OUT_PULSE_END. -/
def execTrigOutPulseEnd (t : Nat) (o : Fin 2) (s : State) : Host.Outcome State Fault Refusal :=
  run t (fun s => s.on .trg (fun s => s.pulseEnd o)) s
/-- WINDOW_CLOSE. -/
def execWindowClose (t : Nat) (r : Fin 16) (s : State) : Host.Outcome State Fault Refusal :=
  run t (fun s => s.on .evb (fun s => s.windowDone r)) s
/-- TRIG_RESEND. -/
def execTrigResend (t : Nat) (l : Fin 10) (s : State) : Host.Outcome State Fault Refusal :=
  run t (fun s => s.on .lnk (fun s => s.trigResend l)) s

end Sys2Proof.Machine
end

