-- ==== Sys2Proof/Machine/Tre.lean ====
section
/-! DEFINITION. TRE: enumeration, claims, the merge and its horizon, the forward log, held packets and the feature set
(R237 to R264). -/

namespace Sys2Proof.Machine

open Sys2Proof

def State.treUpd (s : State) (f : Tre → Tre) : State := { s with tre := f s.tre }
def State.treLink (s : State) (l : Fin 10) : TreLink := s.tre.links[l]
def State.setTreLink (s : State) (l : Fin 10) (x : TreLink) : State := s.treUpd (fun k => { k with links := k.links.set l x })


/-- The unbounded tick index a 48-bit one stands for: the one nearest the present tick, so that order holds across the wrap (R11). -/
def State.tickFull (s : State) (n : Nat) : Nat :=
  let d := (n % 2 ^ 48 + 2 ^ 48 - s.seq.k % 2 ^ 48) % 2 ^ 48
  if d < 2 ^ 47 || s.seq.k + d < 2 ^ 48 then s.seq.k + d else s.seq.k + d - 2 ^ 48

/-- The module's own ID, 0 until it is enumerated. -/
def State.myId (s : State) : Nat := s.rd .tre_MODULE_ID

/-- LINK_ROLE of a link (table Trees-16). -/
def roleNone : Nat := 0
def roleParent : Nat := 1
def roleStandbyParent : Nat := 2
def roleOffered : Nat := 3
def roleChild : Nat := 4
def roleStandbyChild : Nat := 5
def roleClaimSent : Nat := 6
def State.linkRole (s : State) (l : Fin 10) : Nat := s.rd .tre_LINK_ROLE l
def State.setRole (s : State) (l : Fin 10) (r : Nat) : State := s.wr .tre_LINK_ROLE l r

/-- The tree features of table Trees-9, as bits of TREE_FEAT. -/
def featStandby : Nat := 8
def featHeld : Nat := 9
def featZs : Nat := 11
def State.feature (s : State) (b : Nat) : Bool := s.rdBit .tre_TREE_FEAT 0 b

/-- A topology-class fault of this chapter (table Trees-12). -/
def State.topoFault (s : State) (lvl unit : Nat) : State := (s.wrB .tre_TOPO_FAULT 0 true).detect clsTopology lvl unit

/-! ### Items of VC0 (R241, table Trees-3) -/

/-- The 32 bytes of an event record (R282, table Host-4). -/
def EvRec.bytes (r : EvRec) (phase : Bool) : List Nat :=
  bytesLE 2 r.ty ++ [r.sev, r.cls] ++ bytesLE 4 r.modId ++ recTime r.time ++ bytesLE 8 r.data ++ bytesLE 2 r.seq ++
    bytesLE 2 (setBits r.flags 0 1 (b2n phase))

/-- The operation of a relay request: its code and operands. The spec gives relay traffic no layout (DESIGN CHOICE, log entry 163). -/
def relayBytes : RelayOp → Nat × List Nat
  | .read fixed a n => (0, bytesLE 4 a ++ [n, b2n fixed, 0, 0])
  | .write fixed a ws => (1, bytesLE 4 a ++ [ws.length, b2n fixed, 0, 0] ++ ws.flatMap (bytesLE 4))
  | .commit k => (2, bytesLE 8 k)
  | .ticks k num den epoch base => (3, bytesLE 8 k ++ bytesLE 4 num ++ bytesLE 4 den ++ bytesLE 16 (toU 128 epoch) ++ bytesLE 8 base)
  | .fixLat ns => (4, bytesLE 8 ns)
  | .admitted child => (5, bytesLE 8 child)

/-- The item code, and the body behind its first 8 bytes. -/
def V0.body : V0 → Nat × List Nat
  | .ev r => (0x01, r.bytes false)
  | .thabor b => (0x02, b)
  | .relayReq q => (0x03, bytesLE 4 q.target ++ bytesLE 4 q.src ++ bytesLE 2 q.seq.toNat ++ [(relayBytes q.op).1, q.level, 0, 0, 0, 0] ++
      (relayBytes q.op).2)
  | .relayRep p => (0x04, bytesLE 4 p.from_ ++ bytesLE 4 p.src ++ bytesLE 2 p.seq.toNat ++ [p.status, p.words.length, 0, 0, 0, 0] ++
      p.words.flatMap (bytesLE 4))
  | .enum_ root hop assign feat => (0x10, bytesLE 4 root ++ bytesLE 2 hop ++ [0, 0] ++ bytesLE 4 assign ++ bytesLE 4 feat)
  | .enumReply id parent role feat fw rev => (0x11, bytesLE 4 id ++ bytesLE 4 parent ++ [role, 0, 0, 0] ++ bytesLE 4 feat ++ bytesLE 2 fw ++
      [rev, 0, 0, 0, 0, 0])
  | .claim no => (0x12, bytesLE 8 no)
  | .claimAck no result held => (0x13, bytesLE 4 no ++ [result, 0, 0, 0] ++ bytesLE 8 held)
  | .lost held => (0x14, bytesLE 8 held)
  | .demote no => (0x15, bytesLE 8 no)
  | .stbyOk child grant => (0x16, bytesLE 4 child ++ [b2n grant, 0, 0, 0])
  | .horizon tick no cnt held => (0x17, bytesLE 8 tick ++ bytesLE 8 no ++ cnt.flatMap (bytesLE 8) ++ [held.length, 0, 0, 0, 0, 0, 0, 0] ++
      held.flatMap (fun h => bytesLE 4 h.1 ++ [h.2.1 % 256, 0, 0, 0] ++ bytesLE 8 h.2.2))
  | .confirm conf => (0x18, conf.flatMap (bytesLE 8))
  | .topo child parent no => (0x19, bytesLE 4 child ++ bytesLE 4 parent ++ bytesLE 8 no)
  | .featset feat tick => (0x1A, bytesLE 8 feat ++ bytesLE 8 tick)

/-- The bytes of an item as its frame carries them: the code; LEN and SRC_ID of a tree message; the body from byte 8. -/
def V0.bytes (src : Nat) (m : V0) : List Nat :=
  let (c, b) := m.body
  let tree := 0x10 ≤ c
  [c, if tree then (8 + b.length) / 8 else 0, 0, 0] ++ bytesLE 4 (if tree then src else 0) ++ b

/-- The bytes an item of VC0 takes in its frame. -/
def V0.len (m : V0) : Nat := (m.bytes 0).length

/-- An item of traffic class QC0 (table Queues-2); tree messages are none. -/
def V0.qc0 (m : V0) : Bool := m.body.1 < 0x10

/-- The bytes of the QC0 reserve in use: the event records that wait, and the items of QC0 that wait for a link (R170). -/
def State.qc0Used (s : State) : Nat :=
  s.lnk.links.toList.foldl (fun a x => x.vc0.foldl (fun a m => if m.qc0 then a + m.len else a) a) (32 * s.evq.length)

/-- An item joins the VC0 items of link l. -/
def State.putV0 (s : State) (l : Fin 10) (m : V0) : State := s.setLink l { s.link l with vc0 := (s.link l).vc0 ++ [m] }

/-- An item of QC0 that finds no room in the reserve, or others of its link before it, stays at its source (R170). -/
def State.waits0 (s : State) (l : Fin 10) (m : V0) : Bool :=
  m.qc0 && (classReserve 0 < s.qc0Used + s.lent 0 0 + m.len || s.tre.wait0.any (fun e => e.1 == l.val))

/-- An item handed to VC0 of link l; a link that is not in UP carries nothing. -/
def State.sendV0 (s : State) (l : Fin 10) (m : V0) : State :=
  if s.linkUp l then
    if s.waits0 l m then s.treUpd (fun t => { t with wait0 := t.wait0 ++ [(l.val, m)] }) else s.putV0 l m
  else s

/-- The items that stayed at their source, as far as the reserve now has room. -/
def State.pump0 (s : State) : State :=
  (s.treUpd (fun t => { t with wait0 := [] })).each s.tre.wait0 (fun e s => s.sendV0 ⟨e.1 % 10, Nat.mod_lt _ (by decide)⟩ e.2)

/-- An item sent to the primary parent. -/
def State.sendUp (s : State) (m : V0) : State := match s.parentLink with | some l => s.sendV0 l m | none => s

/-- The own event records that are to go up, handed to the primary parent's link (R283). -/
def State.evPump (s : State) : State := State.each { s with evUp := [] } s.evUp (fun r s => s.sendUp (.ev r))
/-- An item sent down every primary child link. -/
def State.sendDown (s : State) (m : V0) : State := s.each s.childLinks (fun l s => s.sendV0 l m)

/-! ### Roles, IDs and the subtree table (R238 to R240) -/

/-- The entry of module id in the subtree table. -/
def State.subEnt (s : State) (id : Nat) : Option SubEnt := s.tre.sub.find? (fun e => e.id == id)

/-- Module a lies in the subtree of primary edges of module b: found by walking up from a. -/
def below (sub : List SubEnt) (b : Nat) : Nat → Nat → Bool
  | 0, _ => false
  | n + 1, a => a == b || (match sub.find? (fun e => e.id == a) with
    | some e => e.parent != a && below sub b n e.parent
    | none => false)

/-- The hop count of module a along primary edges from module root, whose hop count is 0. -/
def hopOf (sub : List SubEnt) (root : Nat) : Nat → Nat → Nat
  | 0, _ => 0
  | n + 1, a => if a == root then 0 else match sub.find? (fun e => e.id == a) with
    | some e => hopOf sub root n e.parent + 1
    | none => 0

/-- The root's registers of the enumeration table follow the subtree table: hop counts, D, ENUM_COUNT, FW_MIN and ENUM_DONE
(R240, R254, R263); then R138. -/
def State.enumRegs (s : State) : State :=
  if s.isRoot then
    let n := s.tre.sub.length + 1
    let sub := s.tre.sub.map (fun e : SubEnt => { e with hop := hopOf s.tre.sub s.myId n e.id })
    let s := s.treUpd (fun t => { t with sub := sub })
    let fw := sub.foldl (fun a e => min a e.fw) (s.rd .tre_FW_VER)
    let d := sub.foldl (fun a e => max a e.hop) 0
    let was := s.rd .tre_DEPTH
    let s := (s.wr .tre_ENUM_COUNT 0 sub.length).wr .tre_FW_MIN 0 fw
    let done := s.tre.replied && sub.all (·.claimed) && s.tre.given.isEmpty
    let s := if done then (s.wrB .tre_ENUM_DONE 0 true).wr .tre_DEPTH 0 d else s.wr .tre_DEPTH 0 d
    if s.rd .tre_DEPTH = was then s else s.latDepth
  else s

/-- The registers of table Trees-15 at ENUM_IDX: module, primary, standby, hop, firmware, features. -/
def State.enumEntry (s : State) : List Nat :=
  match s.tre.sub[s.rd .tre_ENUM_IDX]? with
  | some e => [e.id, e.parent, e.standby, e.hop, e.fw, e.feat / 256]
  | none => [0, 0, 0, 0, 0, 0]

/-- The FEAT word of a PY2048-T: native training, two lanes, and the four tree features (R215, R261). -/
def ownFeat : Nat := 0xF03

/-! ### Claims (R251 to R254) -/

/-- ENUM sent down link l: the root's ID, the own hop count, an ID to be taken, the features (R240). -/
def State.sendEnum (s : State) (l : Fin 10) (assign : Nat) : State :=
  s.sendV0 l (.enum_ (s.rd .tre_ROOT_ID) (s.rd .tre_HOP) assign (s.rd .tre_TREE_FEAT))

/-- Downlinks in UP. -/
def State.downUp (s : State) : List (Fin 10) := (List.finRange 10).filter (fun l => !isUplink l && s.linkUp l)

/-- The module is a root, or has its ID. -/
def State.enumerated (s : State) : Bool := s.isRoot || s.myId != 0

/-- A claim of the child on link l with the next generation (R251); none beyond the first without STANDBY (table Trees-9). -/
def State.sendClaim (s : State) (l : Fin 10) : State :=
  let x := s.treLink l
  let g := x.known / 256 + 1
  if 1 < g && !s.feature featStandby then s
  else if 2 ^ 24 - 1 < g then s.topoFault 2 (unitLink l)
  else
    let no := 256 * g + s.myId % 256
    ((s.setTreLink l { x with claimed := some no, known := no }).setRole l roleClaimSent).sendV0 l (.claim no)

/-- Link l leads down to the module child, whose primary parent is another. -/
def State.stbyLink (s : State) (child : Nat) (l : Fin 10) : Bool :=
  !isUplink l && s.rd .tre_PEER_ID l == child && s.linkUp l && (s.linkRole l == roleNone || s.linkRole l == roleStandbyChild)

/-- A standby grant at the root for the child of an entry, with the parent it asked for (R240): none where the edge would close a cycle;
where the root itself is asked, a link to the child must be up. -/
def State.grantOk (s : State) (e : SubEnt) : Bool :=
  s.feature featStandby && e.asked != 0 && !below s.tre.sub e.id (s.tre.sub.length + 1) e.asked &&
    (e.asked != s.myId || (List.finRange 10).any (s.stbyLink e.id))

/-- STBY_OK as it reaches the parent and the child: at the parent the link to the child, at the child the link it came on. -/
def State.stbyHere (s : State) (child : Nat) (grant : Bool) : State :=
  s.each (List.finRange 10) (fun l s =>
    if s.stbyLink child l then
      ((s.wrB .tre_STBY_OK l grant).setRole l (if grant then roleStandbyChild else roleNone)).sendV0 l (.stbyOk child grant)
    else s)

/-- An entry of the subtree table changed. -/
def State.subMap (s : State) (id : Nat) (f : SubEnt → SubEnt) : State :=
  s.treUpd (fun t => { t with sub := t.sub.map (fun e : SubEnt => if e.id == id then f e else e) })

/-- The root grants or revokes the standby role of child id, and says so (R240). -/
def State.stbySet (s : State) (id parent : Nat) : State :=
  let ok := parent != 0
  ((s.subMap id (fun e => { e with standby := parent })).stbyHere id ok).sendDown (.stbyOk id ok)

/-- A standby role refused because the low bytes of the child's parents agree: reported once, the record naming the child in its high
word (R240; DESIGN CHOICE, log entry 164). -/
def State.stbyRefuse (s : State) (e : SubEnt) : State :=
  let unit := unitLink e.link
  ((s.subMap e.id (fun e => { e with told := true })).wrB .tre_TOPO_FAULT 0 true).detect clsTopology 1 unit
    (some (0x1301, unit + 1 <<< 16 + (e.id % 2 ^ 32) <<< 32))

/-- The root grants and revokes standby roles by the present table (R240). -/
def State.standbyCheck (s : State) : State :=
  if s.isRoot then
    s.each s.tre.sub (fun e s =>
      let same := e.asked % 256 == e.parent % 256
      let may := s.grantOk e
      let s := if may && same && e.claimed && e.standby == 0 then (if e.told then s else s.stbyRefuse e)
        else s.subMap e.id (fun e => { e with told := false })
      if may && !same && e.standby != e.asked && e.claimed then s.stbySet e.id e.asked
      else if (!may || same) && e.standby != 0 then s.stbySet e.id 0
      else s)
  else s

/-! ### The feature set (R262) -/

/-- FEATSET goes down every link in UP whose child is this module's own, claimed or not yet (R262). -/
def State.sendSet (s : State) (f tick : Nat) : State :=
  s.each (s.downUp.filter (fun l => s.linkRole l != roleStandbyChild)) (fun l s => s.sendV0 l (.featset f tick))

/-- A feature set put in force, with its record; without ZS every ZS_EN is 0 in force and in its shadow (R356); without STANDBY the root
revokes the standby grants. -/
def State.featApply (s : State) (f tick : Nat) : State :=
  let s := ((s.wr .tre_TREE_FEAT 0 f).wrB .tre_FEAT_PEND 0 false).treUpd (fun t => { t with feat := none })
  let s := if bit f featZs then s else s.wr .evb_ZS_EN 0 0
  (s.emit 0x0F01 (bits f 8 24 + (tick % 2 ^ 40) <<< 24)).standbyCheck

/-- The set pending is put in force at the boundary of tick k or, with no schedule, at once. -/
def State.featBoundary (s : State) (k : Nat) : State :=
  match s.tre.feat with
  | some (f, t) => if !s.running || t ≤ k then s.featApply f t else s
  | none => s

/-- The root computes the set over itself and every enumerated module and, when it changes, schedules and broadcasts it. -/
def State.featCompute (s : State) : State :=
  if s.isRoot then
    let f := (s.tre.sub.filter (fun e => !e.lost)).foldl (fun a e => a &&& e.feat) ownFeat
    let f := f - f % 256
    let was := match s.tre.feat with | some (g, _) => g | none => s.rd .tre_TREE_FEAT
    if f = was then s
    else if s.running then
      let t := s.seq.k + 16
      (((s.treUpd (fun x => { x with feat := some (f, t) })).wrB .tre_FEAT_PEND 0 true).wr .tre_FEAT_TICK 0 t).sendSet f (t % 2 ^ 48)
    else ((s.sendSet f 0).wr .tre_FEAT_TICK 0 0).featApply f 0
  else s

/-- FEATSET_RX: relayed; scheduled, applied late with TICK_SLIP, or applied at once with no schedule. One that repeats the last is no news. -/
def State.featRx (s : State) (f tick : Nat) : State :=
  if (s.rd .tre_FEAT_TICK == tick && (match s.tre.feat with | some (g, _) => g == f | none => s.rd .tre_TREE_FEAT == f)) then s
  else
    let s := (s.sendSet f tick).wr .tre_FEAT_TICK 0 tick
    let tick := s.tickFull tick
    if !s.running then s.featApply f tick
    else
      let s := (s.treUpd (fun x => { x with feat := some (f, tick) })).wrB .tre_FEAT_PEND 0 true
      if tick ≤ s.seq.k then
        (s.wrB .seq_TICK_SLIP 0 true).slipHeads tick
      else s

/-- An entry of the subtree table put in or changed; it holds 4,096 (R240). The way to a module is link where move is set, or where it is
new. -/
def State.subPut (s : State) (id link : Nat) (move : Bool) (f : SubEnt → SubEnt) : State :=
  if s.tre.sub.any (fun e => e.id == id) then s.subMap id (fun e => f { e with link := if move then link else e.link })
  else if s.tre.sub.length < 4096 then
    s.treUpd (fun t => { t with sub := t.sub ++ [f { id := id, link := link, parent := 0 }] })
  else s

/-- Module child is now under parent, on the way of link, and with it what lies below it (R254, R260). -/
def State.subMove (s : State) (child parent link : Nat) : State :=
  let n := s.tre.sub.length + 1
  (s.treUpd (fun t => { t with sub := t.sub.map (fun e : SubEnt => if below t.sub child n e.id then { e with link := link } else e) })).subPut
    child link true (fun e => { e with parent := parent, claimed := true, lost := false,
                                              asked := if e.asked == parent then e.parent else e.asked,
                                              standby := if e.standby == parent then 0 else e.standby })

/-- A child claimed here is announced toward the root (R254); the root acts on it itself. -/
def State.announce (s : State) (child no : Nat) (l : Fin 10) : State :=
  let s := s.subMove child s.myId l
  if s.isRoot then (s.enumRegs.standbyCheck).featCompute else s.sendUp (.topo child s.myId no)

/-- The first number from n on that bad does not exclude; fuel bounds the search. -/
def freeFrom (bad : Nat → Bool) : Nat → Nat → Option Nat
  | 0, _ => none
  | f + 1, n => if bad (n % 2 ^ 32) then freeFrom bad f (n + 1) else some (n % 2 ^ 32)

/-- An ID for a module that has none (R239): the next one that is given, reported in use, nor of the low byte of a module that is a
parent already, with whose child the new one could share it; where every low byte is taken, the next one free (DEDUCED, log entry
165). -/
def State.freeId (s : State) : Nat :=
  let n := max (s.rd .tre_ROOT_ID) s.tre.lastId + 1
  let used (n : Nat) : Bool := n == 0 || n == 0xFFFFFFFF || n == s.myId || s.tre.sub.any (fun e => e.id == n)
  let clash (n : Nat) : Bool := s.tre.sub.any (fun e => e.parent % 256 == n % 256 || (e.standby != 0 && e.standby % 256 == n % 256))
  ((freeFrom (fun n => used n || clash n) 4608 n) <|> freeFrom used 4608 n).getD n

/-! ### Forward log, held packets and confirmation (R249, R255, R256) -/

/-- The STREAM byte of a packet. -/
def PktId.name (p : PktId) : Nat × Nat × Nat := (p.mod_, p.stream, p.seq)

/-- The number of log entries, the position they protect, and the held packets' position (R194, R255). -/
def State.fwdRegs (s : State) : State :=
  let s := s.wr .tre_FWD_LOG 0 s.tre.log.length
  let at_ := (s.tre.log.head?.map (·.pid)).bind (fun p => s.cab.pkts.find? (fun x => x.pid == p))
  s.cabUpd (fun c => { c with pos := c.pos.filter (fun p : DelPos => p.who != 1) ++
    (match at_ with | some r => [{ who := 1, reel := r.reel, ext := r.ext }] | none => []) })

/-- HOLES shows the hole table's entries in use. -/
def State.holeRegs (s : State) : State := s.wr .tre_HOLES 0 s.tre.holes.length

/-- A listed packet recorded as a hole (R249). -/
def State.addHole (s : State) (h : Nat × Nat × Nat) : State :=
  if s.tre.holes.contains h then s
  else if s.tre.holes.length < 4096 then (s.treUpd (fun t => { t with holes := t.holes ++ [h] })).holeRegs
  else s.wrB .tre_HOLE_OVF 0 true

/-- Packets of this name are taken beyond this module's failure (R255). -/
def State.markTaken (s : State) (p : PktId) : State :=
  s.each (List.finRange 10) (fun l s =>
    let x := s.treLink l
    if x.conf.any (fun e => e.2.2.1 == p) then
      s.setTreLink l { x with conf := x.conf.map (fun e => if e.2.2.1 == p then (e.1, e.2.1, e.2.2.1, true) else e) }
    else s)

/-- The counts through which every packet of link l has been taken; at the root, packets the cabinet writer has taken count
(R255). -/
def State.confirmed (s : State) (l : Fin 10) : State :=
  let x := s.treLink l
  let taken (e : Nat × Nat × PktId × Bool) : Bool :=
    e.2.2.2 || (s.isRoot && !s.que.items.any (fun i => i.pid == e.2.2.1 && i.cab))
  let conf := x.conf.map (fun e => (e.1, e.2.1, e.2.2.1, taken e))
  let pre (v : Nat) := (conf.filter (fun e => e.1 == v)).takeWhile (fun e => e.2.2.2)
  let confd := (List.finRange 5).foldl (fun (a : Vector Nat 5) (v : Fin 5) =>
    match (pre v).getLast? with | some e => a.set v e.2.1 | none => a) x.confd
  s.setTreLink l { x with confd := confd, conf := conf.filter (fun e => confd.toList.getD e.1 0 < e.2.1),
                          confAt := if confd == x.confSent then none else x.confAt <|> some s.clock }

/-- Every link's counts brought up to date. -/
def State.confirmAll (s : State) : State := s.each (List.finRange 10) (fun l s => s.confirmed l)

/-- A CONFIRM is due on a link at the clock instant now: a count has advanced by 4 KiB, or 5 us have passed since any did. -/
def TreLink.confDue (x : TreLink) (now : Nat) : Bool :=
  (List.finRange 5).any (fun v => x.confSent[v] + 4096 ≤ x.confd[v]) ||
    (match x.confAt with | some t => t + 5 * usFu ≤ now | none => false)

/-- CONFIRM_TX: the counts of a primary child have advanced (R255). -/
def State.confirmTx (s : State) (l : Fin 10) : State :=
  let s := s.confirmed l
  let x := s.treLink l
  if s.linkRole l == roleChild && x.confDue s.clock then
    (s.setTreLink l { x with confSent := x.confd, confAt := none }).sendV0 l (.confirm (x.confd.toList.drop 1))
  else s

/-- CONFIRM_RX: log entries confirmed by the primary parent leave (R255). -/
def State.confirmRx (s : State) (l : Fin 10) (conf : List Nat) : State :=
  if s.linkRole l == roleParent then
    (s.treUpd (fun t => { t with log := t.log.filter (fun e : FwdEnt => !e.sent || conf.getD (e.vc - 1) 0 < e.stop) })).fwdRegs
  else s

/-! ### The merge horizon (R245 to R248) -/

/-- Every region has closed tick k and every packet of the ticks up to k has closed in QUE: no product of them is under way
(R245). -/
def State.ownThrough (s : State) (k : Nat) : Bool :=
  (List.finRange 16).all (fun r =>
    let x := s.evbR r
    k < x.k && x.recs.all (fun c => k < c.k || c.emitted) &&
      (s.cmpR r).jobs.all (fun j => k < j.tick) && (match (s.cmpR r).open_ with | some o => decide (k < o.tick) | none => true) &&
      (s.cmpR r).inq.all (fun i => match i with | .close t _ _ => decide (k < t) | .word _ t => decide (k < t))) &&
    s.que.items.all (fun i => !i.open_ || k < s.tickFull i.pid.tick) &&
    s.cmp.rp.toList.all (fun x => x.groups.all (fun g => match g.shut with | some h => decide (k < h.tick) | none => true))

/-- The greatest tick the own input is complete through. -/
def State.ownHzn (s : State) : Option Nat :=
  let top := (List.finRange 16).foldl (fun a r => min a (s.evbR r).k) s.seq.k
  (List.range 4096).findSome? (fun i => if i < top && s.ownThrough (top - 1 - i) then some (top - 1 - i) else none)

/-- The tick through which link l is complete: its HORIZON once every counted byte has arrived, or what was given up (R245,
R247). -/
def State.linkThrough (s : State) (l : Fin 10) : Option Nat :=
  let x := s.treLink l
  let by_ := match x.hz with
    | some (k, c) => if (List.range 4).all (fun i => decide (c.getD i 0 ≤ x.acc.toList.getD (i + 1) 0)) then some k else none
    | none => none
  match by_, x.through with
  | some a, some b => some (max a b)
  | some a, none => some a
  | none, b => b

/-- The child links that are inputs of the merge. -/
def State.inputs (s : State) : List (Fin 10) := (List.finRange 10).filter (fun l => (s.treLink l).input)

/-- Packets held for the uplink and not yet listed (R249). -/
def State.toList_ (s : State) : List PktId :=
  if s.feature featHeld then s.que.heldUp.filter (fun p => !s.tre.listed.contains p) else []

/-- The HORIZON messages of tick k for a link, 16 held packets in each. -/
def horizonMsgs (k claim : Nat) (cnt : List Nat) (held : List (Nat × Nat × Nat)) : List V0 :=
  (List.range ((held.length + 15) / 16 |> max 1)).map (fun i => .horizon (k % 2 ^ 48) claim cnt ((held.drop (16 * i)).take 16))

/-- The ticks of the packets still to go up: items that wait, and packets not yet sent again (R246, R256). -/
def State.owed (s : State) : List Nat :=
  (s.que.items.filter (fun i => i.up && i.use_ ≤ 1)).map (fun i => s.tickFull i.pid.tick) ++
    (s.tre.log.filter (fun e => !e.sent)).map (fun e => s.tickFull e.pid.tick)

/-- The greatest tick the merge horizon has reached of whose items, and of those of the ticks before, none is still to go up (R246). -/
def State.sentThrough (s : State) : Option Nat :=
  match s.tre.hzn with
  | none => none
  | some h => match s.owed.min? with
    | none => some h
    | some w => if h < w then some h else if w = 0 then none else some (w - 1)

/-- The HORIZON of tick k sent on uplink l: counted to the primary parent, with counts of 0 to the standby; the held packets are listed
where the link has the feature. -/
def State.horizonOn (s : State) (l : Fin 10) (k : Nat) (names : List (Nat × Nat × Nat)) : State :=
  let names := if s.linkFeat l featHeld then names else []
  let msgs (cnt : List Nat) := horizonMsgs k s.tre.held cnt names
  if s.linkRole l == roleParent then s.each (msgs ((s.treLink l).cnt.toList.drop 1)) (fun m s => s.sendV0 l m)
  else if s.linkRole l == roleStandbyParent then s.each (msgs [0, 0, 0, 0]) (fun m s => s.sendV0 l m)
  else s

/-- An uplink takes HORIZON messages: it leads to the primary or the standby parent. -/
def State.horizonTo (s : State) : Bool := [(0 : Fin 10), 1].any (fun l => s.linkRole l == roleParent || s.linkRole l == roleStandbyParent)

/-- The own HORIZON of a tick the merge horizon has reached, once every item of it and of the ticks before has been offered and framed or
released (R246). It lists the packets held here, and those held below that HORIZONs from there listed, for the mergers further up; they stand
listed once the primary parent has it (R249). -/
def State.horizonSend (s : State) : State :=
  match s.sentThrough with
  | none => s
  | some k =>
    if s.tre.hznSent.any (fun h => decide (k ≤ h)) || s.isRoot || !s.horizonTo then s
    else
      let held := s.toList_
      let names := held.map (·.name) ++ s.tre.passOn
      let told := s.parentLink.any (fun l => s.linkFeat l featHeld)
      let s := s.treUpd (fun t => { t with
        hznSent := some k, listed := if told then t.listed ++ held else t.listed, passOn := if told then [] else t.passOn })
      s.each [(0 : Fin 10), 1] (fun l s => s.horizonOn l k names)

/-- MERGE_HORIZON_ADVANCE: the horizon is the least of the own input's and the primary children's (R246). -/
def State.horizonAdvance (s : State) : State :=
  let l := s.ownHzn :: s.inputs.map s.linkThrough
  let m := l.foldl (fun (a : Option (Option Nat)) x => match a, x with
    | none, x => some x
    | some (some a), some b => some (some (min a b))
    | _, _ => some none) none
  match m with
  | some (some k) =>
    let up := match s.tre.hzn with | some h => decide (h < k) | none => true
    let s := if up && s.flag .tre_TRE_EN then (s.treUpd (fun t => { t with hzn := some k })).wr .tre_MERGE_HZN 0 k else s
    s.horizonSend
  | _ => s.horizonSend

/-- A tick of a packet or message lies at or below the merge horizon. -/
def State.passed (s : State) (tick : Nat) : Bool := match s.tre.hzn with | some h => decide (s.tickFull tick ≤ h) | none => false

/-- The module's own replay, or another packet it reads back for the uplink. -/
def QItem.ownBack (x : QItem) : Bool := x.src == srcBack
def QItem.ownReplay (x : QItem) : Bool := x.ownBack && x.use_ == 1

/-- The merge horizon lets an item pass: its tick has been reached; what is read back here, held deliveries and offloads pass at
once (R246, R249). -/
def State.mayPass (s : State) (x : QItem) : Bool := x.ownBack || 2 ≤ x.use_ || s.passed x.pid.tick

/-- The items the uplink and, at the root, ETH may be offered now (R246, R255): with the log full, its own replays alone. -/
def State.upReady (s : State) : List QItem :=
  s.upItems.filter (fun x => if s.tre.log.length < 65536 then s.mayPass x else x.ownReplay)
def State.ethReady (s : State) : List QItem := s.ethItems.filter (fun x => !s.isRoot || s.mayPass x)
def State.nextUpItem (s : State) : Option QItem := s.offer s.upReady s.que.starveUp
def State.nextEthItem (s : State) : Option QItem := s.offer s.ethReady s.que.starveEth

/-- Packets a child lists as held: holes here, and listed again for the mergers above a primary input (R249). -/
def State.heldBelow (s : State) (input : Bool) (held : List (Nat × Nat × Nat)) : State :=
  let new := held.filter (fun h => !s.tre.holes.contains h)
  let s := s.each held (fun h s => s.addHole h)
  if input && !s.isRoot then s.treUpd (fun t => { t with passOn := t.passOn ++ new }) else s

/-- HORIZON_RX: from a child, primary or standby (R245, R249, R252); one with a lower CLAIM_NO than seen is discarded (R256). -/
def State.horizonRx (s : State) (l : Fin 10) (k claim : Nat) (cnt : List Nat) (held : List (Nat × Nat × Nat)) : State :=
  let x := s.treLink l
  let k := s.tickFull k
  if isUplink l || claim < s.rd .tre_LINK_CLAIM l then s
  else
    let newer := match x.hz with | some (j, _) => decide (j ≤ k) || s.rd .tre_LINK_CLAIM l < claim | none => true
    let s := s.setTreLink l { x with known := max x.known claim, hz := if newer then some (k, cnt) else x.hz }
    let s := s.wr .tre_LINK_CLAIM l claim
    let s := if s.feature featHeld then s.heldBelow x.input held else s
    match s.linkThrough l with
    | some j => s.wr .tre_LINK_HZN l j
    | none => s

/-- The modules reached through link l are lost with it: they no longer count for TREE_FEAT (R262; DEDUCED, log entry 166). -/
def State.subLost (s : State) (l : Fin 10) : State :=
  (s.treUpd (fun t => { t with sub := t.sub.map (fun e : SubEnt => if e.link == l.val then { e with lost := true } else e) })).featCompute

/-- The first tick link l has not completed: behind its horizon, else behind the merge horizon, else the schedule's first. -/
def State.owedFrom (s : State) (l : Fin 10) (k : Nat) : Nat :=
  match s.linkThrough l, s.tre.hzn with
  | some j, _ => j + 1
  | none, some h => h + 1
  | none, none => ((s.seq.segs.getLast?).map (·.base)).getD k

/-- The GAP records for ticks a to k of link l's child: of the child while the link is up, else of every module reached through it (table
Trees-5). -/
def State.giveUpGaps (s : State) (l : Fin 10) (a k : Nat) : State :=
  let gap (s : State) (m reason : Nat) : State :=
    ((s.moduleRec (gapRec s.myId a k m 0xFFFF reason s.tbNow)).bump .tre_GAP_EMIT 0).bump .tre_LINK_GAPS l
  if s.linkUp l then gap s (s.rd .tre_PEER_ID l) 1
  else (s.each (s.tre.sub.filter (fun e => e.link == l.val)) (fun e s => gap s e.id 3)).subLost l

/-- MERGE_GIVE_UP: the child of link l is given up for the ticks through k, MERGE_WAIT ticks behind the own input (R247). -/
def State.giveUp (s : State) (l : Fin 10) : State :=
  match s.ownHzn with
  | some own =>
    let w := s.rd .tre_MERGE_WAIT
    let k := own - w
    let a := s.owedFrom l k
    if (s.treLink l).input && w ≤ own && a ≤ k then
      let s := s.giveUpGaps l a k
      let s := (s.setTreLink l { s.treLink l with through := some k }).wr .tre_LINK_HZN l k
      s.horizonAdvance
    else s
  | none => s

/-! ### Packets from below (R244 to R249, R256) -/

/-- The bytes of the GAP or POISON record that stands in a packet's place (R199, table Events-2); none where a packet stands. A LEN_SLOT
has bit 22 set and a record's first word does not (DEDUCED, log entry 177). -/
def recLen (d : List Nat) : Option Nat :=
  let ty := ofBytesLE (d.take 2)
  if (ty = 3 || ty = 4) && d.getD 2 0 < 64 && d.getD 3 0 = 1 then some (8 * d.getD 2 0) else none

/-- The name a packet's header carries; a record in a packet's place counts as a module record of its source (DEDUCED, log entry
177). -/
def pktIdOf (d : List Nat) : PktId :=
  let b (i n : Nat) : Nat := ofBytesLE ((d.drop i).take n)
  if (recLen d).isSome then { mod_ := b 4 4, region := 0, kind := 6, tick := if b 0 2 = 3 then b 8 8 % 2 ^ 48 else 0, seq := 0 }
  else
  { mod_ := b 8 4, region := d.getD 4 0 % 16, kind := d.getD 4 0 / 16, tick := b 16 8 % 2 ^ 48, seq := b 12 4 }

/-- The highest PKT_SEQ accepted of a stream, if any. -/
def State.highSeq (s : State) (p : PktId) : Option Nat :=
  (s.tre.high.find? (fun e => e.1 == p.mod_ && e.2.1 == p.stream)).map (·.2.2)

/-- The item a packet of USE use becomes that link l brings: use 0 for VC1 to VC3. It goes to the cabinet, and up and to ETH by its
kind's routes; an offload goes on to the root and there to ETH. A replay, a held delivery and an offload travel on in VC4 (R178, R198,
R249, R256; DEDUCED, log entry 167). -/
def State.downItem (s : State) (l : Fin 10) (use : Nat) (p : PktId) (isRec : Bool) : QItem :=
  let off := use == 3
  let d := downPort l
  { id := 0, src := 17 + d, cls := if use = 0 then clsOfKind p.kind else 4, pid := p, words := [], first := 0, next := 0, open_ := false,
    prod := 0x14 + d, reel := s.rd .cab_DOWN_REEL d, up := (off || bit (s.rd .que_ROUTE_UP) p.kind) && !s.isRoot,
    eth := if off then s.isRoot else bit (s.rd .que_ROUTE_ETH) p.kind, late := use == 2 || (!off && s.passed p.tick), use_ := use,
    isRec := isRec, link := some l.val }

/-- The highest PKT_SEQ of a stream accepted in VC1 to VC3 or in a replay, raised to a packet's (R256). -/
def State.highUp (s : State) (p : PktId) : State :=
  let high := match s.highSeq p with | some h => max h p.seq | none => p.seq
  s.treUpd (fun t => { t with high := (p.mod_, p.stream, high) :: t.high.filter (fun e => !(e.1 == p.mod_ && e.2.1 == p.stream)) })

/-- The modules that the GAP records of REASON 0x03 among records name, each with the module that gave it up; fuel bounds the records. -/
def lostIn : Nat → List Nat → List (Nat × Nat)
  | 0, _ => []
  | f + 1, d =>
    let n := 8 * d.getD 2 0
    let b (i n : Nat) : Nat := ofBytesLE ((d.drop i).take n)
    if n < 12 || d.length < n || d.getD 3 0 != 1 || crc32c (d.take (n - 4)) != b (n - 4) 4 then []
    else (if b 0 2 = 3 && d.getD 30 0 = 3 then [(b 24 4, b 4 4)] else []) ++ lostIn f (d.drop n)

/-- The root hears by GAP records in packet d that modules below other parents are lost: they no longer count for TREE_FEAT (R262; DEDUCED, log
entry 166). -/
def State.gapHeard (s : State) (d : List Nat) : State :=
  let gone := if (recLen d).isSome then lostIn 1 d else if (pktIdOf d).kind = 6 then lostIn 64 (d.drop 33) else []
  if s.isRoot && !gone.isEmpty then
    (s.treUpd (fun t => { t with sub := t.sub.map (fun e : SubEnt =>
      if gone.any (fun g => g.1 == e.id && below t.sub g.2 (t.sub.length + 1) e.id) then { e with lost := true } else e) })).featCompute
  else s

/-- A packet accepted from link l enters the fabric; a late one is counted (R248). None when it finds no room. -/
def State.acceptPkt (s : State) (l : Fin 10) (use : Nat) (d : List Nat) : Option State :=
  let p := pktIdOf d
  let x := s.downItem l use p (recLen d).isSome
  (s.putItem x d).map (fun (s, _) =>
    ((s.when x.late (fun s => s.bump .tre_LATE_PKT 0)).when (use ≤ 1 && !x.isRec) (fun s => s.highUp p)).gapHeard d)

/-- A packet of VC v taken out of link l's receive space: use 0 for VC1 to VC3, or the tag's USE (R249, R256); none when it must
wait for room. -/
def State.pktIn (s : State) (l : Fin 10) (use claim : Nat) (d : List Nat) : Option (State × Bool) :=
  let p := pktIdOf d
  let fills := s.tre.holes.contains p.name
  let clear (s : State) : State := (s.treUpd (fun t => { t with holes := t.holes.filter (· != p.name) })).holeRegs
  let new := (recLen d).isSome || (match s.highSeq p with | some h => decide (h < p.seq) | none => true)
  if use != 0 && claim < s.rd .tre_LINK_CLAIM l then some (s, false)
  else if use == 1 && !(new || fills) then some (s.bump .tre_DUP_PKT 0, false)
  else match s.acceptPkt l use d with
    | none => none
    | some s => some (if use == 2 || (use == 1 && fills) then clear s else s, true)

/-- n bytes more (or, negative, fewer) of link l's receive space on VC v in use, drawn from the area table Trees-4 names (R243). -/
def State.useSpace (s : State) (l : Fin 10) (v : Fin 5) (n : Int) : State := s.useArea (srcFin (17 + downPort l)) v n 0

/-- The bytes of the packet, or of the record in its place, that the bytes of VC v begin with, its tag among them; none where its length is
not yet there, 0 where it has none. -/
def pktBytes (v : Fin 5) (b : List Nat) : Option Nat :=
  let tag := if v.val = 4 then 8 else 0
  if b.length < tag + 4 then none
  else some (match (if v.val = 4 then recLen (b.drop tag) else none) <|> slotLen (ofBytesLE ((b.drop tag).take 4)) with
    | some n => tag + n
    | none => 0)

/-- The bytes of the whole packets that the bytes of VC v begin with; fuel bounds them. -/
def wholeBytes (v : Fin 5) : Nat → List Nat → Nat
  | 0, _ => 0
  | f + 1, b => match pktBytes v b with
    | some (n + 1) => if b.length ≤ n then 0 else n + 1 + wholeBytes v f (b.drop (n + 1))
    | _ => 0

/-- The bytes of VC v of link l dropped from the n-th on. -/
def State.dropBuf (s : State) (l : Fin 10) (v : Fin 5) (n : Nat) : State :=
  let x := s.treLink l
  (s.useSpace l v (-((((x.buf[v]).length - n : Nat)) : Int))).setTreLink l { x with buf := x.buf.set v ((x.buf[v]).take n) }

/-- One packet of n bytes, its tag among them, leaves the bytes gathered on VC v of link l: what was done with it is f's to say. One that came
before the link last went down is not confirmed on it. -/
def State.takePkt (s : State) (l : Fin 10) (v : Fin 5) (n : Nat) (f : State → Option (State × Bool)) : Option State :=
  let x := s.treLink l
  let b := x.buf[v]
  let rest := b.drop n
  let s := (s.setTreLink l { x with buf := x.buf.set v rest, old := x.old.set v (x.old[v] - n) }).useSpace l v (-(n : Int))
  (f s).map (fun (s, kept) =>
    if 0 < x.old[v] then s
    else
      let x := s.treLink l
      s.setTreLink l { x with conf := x.conf ++ [(v.val, x.acc[v] - rest.length, pktIdOf (b.drop (if v.val = 4 then 8 else 0)), !kept)] })

/-- The complete packets of VC v of link l taken as far as there is room. -/
def State.rxPump (s : State) (l : Fin 10) (v : Fin 5) : Nat → State
  | 0 => s
  | n + 1 =>
    let b := (s.treLink l).buf[v]
    let tag := if v.val = 4 then 8 else 0
    match pktBytes v b with
    | none => s
    | some 0 => s.dropBuf l v 0
    | some len =>
      if b.length < len then s
      else match s.takePkt l v len (fun s =>
          s.pktIn l (if v.val = 4 then b.getD 0 0 else 0) (ofBytesLE ((b.drop 4).take 4)) ((b.drop tag).take (len - tag))) with
        | none => s
        | some s => State.rxPump s l v n

/-- The packets that waited for room, taken as far as there is room now. -/
def State.rxPumps (s : State) : State :=
  s.each (List.finRange 10) (fun l s => (s.each (List.finRange 5) (fun v s => s.rxPump l v 64)).confirmed l)

/-- Bytes of a frame of VC v accepted by TRE. -/
def State.rxBytes (s : State) (l : Fin 10) (v : Fin 5) (d : List Nat) : State :=
  let x := s.treLink l
  let s := (s.setTreLink l { x with acc := x.acc.set v (x.acc[v] + d.length), buf := x.buf.set v (x.buf[v] ++ d) }).useSpace l v d.length
  (s.rxPump l v 64).confirmed l

/-- An event record from below: queued here and passed up (R283). -/
def State.evRx (s : State) (r : EvRec) : State :=
  (s.queueEv { r with flags := r.flags ||| 16 }).sendUp (.ev { r with flags := r.flags ||| 16 })

/-! ### Link up and link down -/

/-- A packet partly received on link l is dropped; those received whole still wait for room (table Queues-4). -/
def State.dropBufs (s : State) (l : Fin 10) : State :=
  s.each (List.finRange 5) (fun v s => let b := (s.treLink l).buf[v]; s.dropBuf l v (wholeBytes v b.length b))

/-- What TRE keeps of a link that comes up or goes down: what it knows of the child and the ticks completed on it as an input, and the packets
that wait for room; counts start at 0. -/
def State.treLinkNew (s : State) (l : Fin 10) : State :=
  let through := s.linkThrough l
  let s := s.dropBufs l
  let x := s.treLink l
  s.setTreLink l { known := x.known, noClaim := x.noClaim, input := x.input, through := if x.input then through else none,
                   buf := x.buf, old := x.buf.map (·.length) }

/-- Link l has reached UP: counts start at 0, and ENUM goes down a downlink (R240, R242, R245). -/
def State.treLinkUp (s : State) (l : Fin 10) : State :=
  let s := s.treLinkNew l
  let y := s.link l
  let s := s.setLink l { rsSeq := y.rsSeq, hbLast := s.clock, ackAt := s.clock, dataAt := s.clock, live := true, two := y.two, turn := y.turn,
                         alignSeq := y.alignSeq, blk := y.blk, draining := y.draining }
  let s := s.trigLinkUp l
  if s.alive .tre && !isUplink l && s.enumerated then s.sendEnum l 0 else s

/-- The packets under way on link l, which will not get there whole, are broken off: one the uplink has begun to take stands in the forward
log to be sent again from its reel (R178, R255, R256; DEDUCED, log entry 203). -/
def State.cutPkts (s : State) (l : Fin 10) : State :=
  let x := s.link l
  let s := s.setLink l { x with cur := .replicate 5 none }
  s.each (x.cur.toList.filterMap id) (fun k s =>
    match k.item.bind s.item with
    | some i =>
      if i.up && i.upDone != 0 then
        let s := s.when (!k.back) (fun s => s.treUpd (fun t => { t with log := t.log ++ [{ pid := k.pid, vc := i.cls, stop := 0, sent := false }] }))
        (s.setItem { i with up := false }).sweep
      else s
    | none => s)

/-- LOST sent to the standby parent, where its link is still there; the CLAIM is awaited (table Trees-6). -/
def State.sendLost (s : State) (again : Nat) : State :=
  let s := s.treUpd (fun t => { t with lost := some (s.clock, again) })
  match [(0 : Fin 10), 1].find? (fun l => s.linkRole l == roleStandbyParent) with
  | some l => s.sendV0 l (.lost s.tre.held)
  | none => s

/-- Link l has gone down (tables Queues-4, Trees-6, Trees-10). -/
def State.treLinkDown (s : State) (l : Fin 10) : State :=
  let role := s.linkRole l
  let s := (s.clapLinkDown l).treLinkNew l
  let s := (s.cutPkts l).setLink l { (s.cutPkts l).link l with vc0 := [], replay := [], live := false, two := false }
  let s := s.treUpd (fun t => { t with wait0 := t.wait0.filter (fun e => e.1 != l.val), given := t.given.filter (fun e => e.1 != l.val),
                                       waitId := t.waitId.filter (· != l.val) })
  let s := ((s.setRole l roleNone).wrB .tre_STBY_OK l false).pump0
  if role == roleParent then
    let s := s.clapSel
    if [(0 : Fin 10), 1].any (fun m => s.linkRole m == roleStandbyParent) then (s.bump .tre_FAILOVERS 0).sendLost 0
    else s.topoFault 2 (unitLink l)
  else s

/-! ### Message handlers -/

/-- The role a child asks for on uplink l (R240): primary where its hop count is the lower, U0 on a tie. -/
def State.roleAsked (s : State) (l : Fin 10) : Nat :=
  let m : Fin 10 := if l = 0 then 1 else 0
  if s.linkRole l == roleParent then 0
  else if s.linkRole m == roleParent then 1
  else match (s.treLink l).hop, (s.treLink m).hop with
    | some a, some b => if s.linkUp m && (b < a || (b == a && m.val < l.val)) then 1 else 0
    | _, _ => 0

/-- The strap-derived ID (R239); 0, no ID, when CARRIER_ID is unknown (R369) or where it would be one that is never given. -/
def State.strapId (s : State) : Nat :=
  match s.pmr.carrier with
  | some c =>
    let v := (16 * (c % 2 ^ 28) + s.rd .tre_STRAP_POS) % 2 ^ 32
    if v == 0xFFFFFFFF then 0 else v
  | none => 0

/-- The ID a module answers with: its own, or under ID_MODE = 1 the strap-derived one, which it takes as it is claimed (R239; DEDUCED, log
entry 168). -/
def State.replyId (s : State) : Nat := if s.myId != 0 then s.myId else if s.flag .tre_ID_MODE then s.strapId else 0

/-- ENUM_REPLY sent on uplink l; its claim is awaited for 1 ms (R240). A module without ID asks for one on one uplink; it answers on the other
when it has it (DEDUCED, log entry 209). -/
def State.sendReply (s : State) (l : Fin 10) (again : Nat) : State :=
  let role := s.roleAsked l
  let asks := s.replyId == 0 && s.tre.reply.any (fun e => e.2.2 != l.val && s.linkUp (⟨e.2.2 % 10, Nat.mod_lt _ (by decide)⟩ : Fin 10))
  if (role == 1 && !s.flag .tre_STBY_EN) || asks then s
  else
    let s := s.sendV0 l (.enumReply s.replyId (s.rd .tre_PEER_ID l) role ownFeat (s.rd .tre_FW_VER) (s.rd .lnk_LINK_REV l))
    if role == 0 && s.parentLink.isNone then s.treUpd (fun t => { t with reply := some (s.clock, again, l.val) }) else s

/-- ENUM_RX (R240, R254). -/
def State.enumRx (s : State) (l : Fin 10) (src root hop assign feat : Nat) : State :=
  if !isUplink l then s.topoFault 1 (unitLink l)
  else if s.isRoot then s
  else
    let known := s.myId
    let s := s.treUpd (fun t => { t with enumSeen := true })
    if known == 0 && s.flag .tre_ID_MODE && s.strapId == 0 then s.topoFault 1 unitModule else
    let s := (s.setTreLink l { s.treLink l with hop := some hop }).wr .tre_PEER_ID l src
    match (if known != 0 && assign != 0 && assign != known then s.tre.waitId else []) with
    | m :: rest => (s.treUpd (fun t => { t with waitId := rest })).sendEnum ⟨m % 10, Nat.mod_lt _ (by decide)⟩ assign
    | [] =>
      let s := if known == 0 && !s.flag .tre_ID_MODE && assign != 0 then s.wr .tre_MODULE_ID 0 assign else s
      let s := s.wr .tre_ROOT_ID 0 root
      let s := if known == 0 && s.replyId != 0 then s.wr .tre_TREE_FEAT 0 feat else s
      let s := if s.linkRole l == roleNone then s.setRole l roleOffered else s
      let s := if s.linkRole l == roleParent || s.parentLink.isNone then s.wr .tre_HOP 0 (hop + 1) else s
      let s := s.sendReply l 0
      let m : Fin 10 := if l = 0 then 1 else 0
      let s := if known == 0 && s.myId != 0 && s.linkRole m == roleOffered && s.linkUp m then s.sendReply m 0 else s
      if s.myId != 0 && (s.linkRole l == roleParent || s.parentLink.isNone) then s.each s.downUp (fun m s => s.sendEnum m 0) else s

/-- A strap-derived ID that a reply for the primary role brings on link l is enumerated already (R239): it is the module's own or the root's, or
stands in the table under another parent that has not lost the module, or on another link to a child of the same parent; 0 as the parent is
what a parent that has refused it says (DEDUCED, log entry 168). -/
def State.strapDup (s : State) (l : Fin 10) (id parent : Nat) : Bool :=
  id == s.myId || id == s.rd .tre_ROOT_ID || parent == 0 ||
    (match s.subEnt id with
     | some e =>
         let here := (List.finRange 10).any (fun m => m != l && s.linkUp m && s.rd .tre_PEER_ID m == id)
         if e.parent == s.myId then here else e.parent != parent && !e.lost
     | none => false)

/-- A reply is recorded in the subtree table (R240). -/
def State.subReply (s : State) (l : Fin 10) (id parent role feat fw : Nat) : State :=
  s.subPut id l (role == 0) (fun e =>
    if role == 0 then { e with parent := parent, fw := fw, feat := feat, lost := false }
    else { e with asked := parent, fw := fw, feat := feat, lost := false })

/-- The primary parent claims the child that replied on link l (R240, R254), unless that one refused it or demoted it since its last LOST
(R253). -/
def State.replyClaim (s : State) (l : Fin 10) (id parent role : Nat) : State :=
  if parent == s.myId && role == 0 && id != 0 && s.linkRole l != roleChild && s.linkRole l != roleClaimSent && !(s.treLink l).noClaim then
    s.sendClaim l
  else s

/-- The root gives an ID to the module that asks for one through parent on link l: the one it was given before, where that went to the module
itself (R239; DEDUCED, log entry 209). -/
def State.giveId (s : State) (l : Fin 10) (parent : Nat) : State :=
  match s.tre.given.find? (fun e => e.1 == l.val && e.2.1 == parent && parent == s.myId) with
  | some e => s.sendEnum l e.2.2
  | none =>
    let n := s.freeId
    (s.treUpd (fun t => { t with lastId := n, given := t.given ++ [(l.val, parent, n)] })).sendEnum l n

/-- A module's standby role granted before is said again: its link to that parent has come back (R258). -/
def State.regrant (s : State) (id parent : Nat) (was : Bool) : State :=
  if was && (s.subEnt id).any (fun e => e.standby == parent) then s.stbySet id parent else s

/-- The root's leave to claim the child id with a strap-derived ID goes down link l to its parent (R239; DESIGN CHOICE, log entry 168). -/
def State.sendAdmit (s : State) (l : Fin 10) (id parent : Nat) : State :=
  let q : RelayReq := ⟨s.myId, BitVec.ofNat 16 s.tre.relaySeq, parent, 2, .admitted id⟩
  (s.treUpd (fun t => { t with relaySeq := (t.relaySeq + 1) % 2 ^ 16 })).sendV0 l (.relayReq q)

/-- The root's leave: the child that waits for it is claimed. -/
def State.admitRx (s : State) (id : Nat) : State :=
  s.each (s.downUp.filter (fun l : Fin 10 => s.rd .tre_PEER_ID l == id && s.linkRole l == roleNone)) (fun l s => s.replyClaim l id s.myId 0)

/-- ENUM_REPLY_RX (R239, R240, R262). Under ID_MODE = 1 a parent below the root claims a child with the root's leave, which knows every ID. -/
def State.enumReplyRx (s : State) (l : Fin 10) (id parent role feat fw : Nat) (rev : Nat) : State :=
  let strap := s.flag .tre_ID_MODE && role == 0 && id != 0
  let dup := strap && s.strapDup l id parent
  let s := if parent == s.myId && id != 0 && !dup then s.wr .tre_PEER_ID l id else s
  if s.isRoot then
    let s := s.treUpd (fun t => { t with replied := true, given := t.given.filter (fun e => e.2.2 != id) })
    if id == 0 then (if role == 0 then s.giveId l parent else s)
    else if dup then s.topoFault 1 (unitLink l)
    else
      let was := role == 1 && (s.subEnt id).any (fun e => e.standby == parent)
      let s := ((((s.subReply l id parent role feat fw).replyClaim l id parent role).enumRegs).standbyCheck).regrant id parent was
      (s.featCompute).when (strap && parent != s.myId) (fun s => s.sendAdmit l id parent)
  else
    let s := s.sendUp (.enumReply id (if dup then 0 else parent) role feat fw rev)
    if id == 0 then (if role == 0 then s.treUpd (fun t => { t with waitId := t.waitId ++ [l.val] }) else s)
    else if dup then s
    else (s.subReply l id parent role feat fw).when (!strap) (fun s => s.replyClaim l id parent role)

/-- ENUM_REPLY_TIMEOUT: no CLAIM within 1 ms; repeated up to 8 times, then reported (R240). -/
def State.replyTimeout (s : State) : State :=
  match s.tre.reply with
  | some (t, n, l) =>
    if t + msFu ≤ s.clock then
      let s := s.treUpd (fun x => { x with reply := none })
      let l : Fin 10 := if s.linkUp l then ⟨l % 10, Nat.mod_lt _ (by decide)⟩ else if l = 0 then 1 else 0
      if n < 8 then s.sendReply l (n + 1) else s.topoFault 1 (unitLink l)
    else s
  | none => s

/-- ENUM_WAIT_TIMEOUT: a child with no ENUM 2 s after READY (R238). -/
def State.enumWait (s : State) : State :=
  match s.tre.readyAt with
  | some t =>
    if !s.isRoot && !s.tre.enumSeen && !s.tre.waitRep && t + 2 * secFu ≤ s.clock then
      (s.treUpd (fun x => { x with waitRep := true })).topoFault 1 unitModule
    else s
  | none => s

/-- The root takes its ID as an enumeration begins (R239; DEDUCED, log entry 179): ROOT_ID, or the strap-derived one; with CARRIER_ID
unknown it has none (R369). -/
def State.takeRootId (s : State) : State :=
  if s.flag .tre_ID_MODE && s.strapId == 0 then (s.wr .tre_MODULE_ID 0 0).topoFault 1 unitModule
  else s.wr .tre_MODULE_ID 0 (if s.flag .tre_ID_MODE then s.strapId else s.rd .tre_ROOT_ID)

/-- ENUM goes out on every downlink in UP, and the enumeration is not done. -/
def State.enumAll (s : State) : State :=
  (((s.treUpd (fun t => { t with replied := false, given := [] })).each s.downUp (fun l s => s.sendEnum l 0)).wrB .tre_ENUM_DONE 0 false).enumRegs

/-- ENUM_START: the root enumerates again; elsewhere ignored with CFG_ERR. -/
def State.enumStart (s : State) : State :=
  if !s.isRoot then s.wrB .tre_CFG_ERR 0 true
  else
    let s := s.takeRootId
    if s.enumerated then s.enumAll else s

/-- The module's own replays under way leave the fabric: delivery starts again from the log (R256). -/
def State.dropReplay (s : State) : State :=
  (s.queUpd (fun q => { q with items := q.items.map (fun x : QItem => if x.ownReplay then { x with up := false } else x) })).sweep

/-- A claim above HELD_CLAIM is accepted on uplink l (table Trees-6): the other uplink, where primary, becomes standby and is told. A module
with a strap-derived ID is enumerated by it. -/
def State.claimTake (s : State) (l : Fin 10) (no : Nat) : State :=
  let m : Fin 10 := if l = 0 then 1 else 0
  let new := !s.enumerated
  let s := s.treUpd (fun t => { t with held := no, reply := none, lost := none })
  let s := s.when (s.myId == 0) (fun s => s.wr .tre_MODULE_ID 0 s.replyId)
  let s := ((s.sendV0 l (.claimAck no 0 no)).wr .tre_LINK_CLAIM 0 no).wr .tre_LINK_CLAIM 1 no
  let s := if s.linkRole m == roleParent then ((s.setRole m roleStandbyParent).wrB .tre_STBY_OK m true).sendV0 m (.demote no) else s
  let s := (s.setRole l roleParent).clapSel
  let s := match (s.treLink l).hop with | some h => s.wr .tre_HOP 0 (h + 1) | none => s
  if new && s.enumerated then s.each s.downUp (fun m s => s.sendEnum m 0) else s

/-- CLAIM_RX (table Trees-6): a claim above HELD_CLAIM makes the uplink primary, and what is not confirmed is to be sent again on it
(R253, R256); without STANDBY nothing is (table Trees-9). -/
def State.claimRx (s : State) (l : Fin 10) (no : Nat) : State :=
  if !isUplink l then s
  else if no ≤ s.tre.held then (s.sendV0 l (.claimAck no 1 s.tre.held)).bump .tre_CLAIM_REFUSED 0
  else if s.linkRole l == roleNone then s
  else
    let first := s.tre.held == 0
    let s := s.claimTake l no
    if first then s
    else ((s.treUpd (fun t => { t with hznSent := none,
                                       log := if s.feature featStandby then t.log.map (fun e : FwdEnt => { e with sent := false }) else [] })).dropReplay).fwdRegs

/-- CLAIM_ACK_RX: the claim's answer at the claimant (R253, R254). The horizons heard as standby completed nothing; refused, the child is
standby and is not claimed again until LOST. -/
def State.claimAckRx (s : State) (l : Fin 10) (no result held : Nat) : State :=
  let x := s.treLink l
  if x.claimed != some no then s
  else if result == 0 then
    let s := (s.setTreLink l { x with claimed := none, input := true, noClaim := false, hz := none, through := none }).setRole l roleChild
    let s := ((s.wr .tre_LINK_CLAIM l no).announce (s.rd .tre_PEER_ID l) no l).sendEnum l 0
    match s.tre.feat with
    | some (f, t) => s.sendV0 l (.featset f (t % 2 ^ 48))
    | none => s
  else (s.setTreLink l { x with claimed := none, noClaim := true, known := max x.known held }).setRole l roleStandbyChild

/-- LOST_RX: a granted standby claims the child (R251, R253). -/
def State.lostRx (s : State) (l : Fin 10) (held : Nat) : State :=
  let x := s.treLink l
  let s := s.setTreLink l { x with known := max x.known held, noClaim := false }
  if s.linkRole l == roleStandbyChild && s.flag .tre_STBY_OK l && s.feature featStandby then s.sendClaim l else s

/-- LOST_TIMEOUT: no CLAIM within 4 us of LOST: again, at most 3 times, then reported (table Trees-6). -/
def State.lostTimeout (s : State) : State :=
  match s.tre.lost with
  | some (t, n) =>
    if t + 4 * usFu ≤ s.clock then
      if n < 3 then s.sendLost (n + 1) else (s.treUpd (fun x => { x with lost := none })).topoFault 2 unitModule
    else s
  | none => s

/-- DEMOTE_RX: the former primary marks the child standby (R253). -/
def State.demoteRx (s : State) (l : Fin 10) (no : Nat) : State :=
  if s.linkRole l == roleChild then
    let x := s.treLink l
    ((s.setTreLink l { x with input := false, noClaim := true, known := max x.known no }).setRole l roleStandbyChild).wrB .tre_STBY_OK l
      true
  else s

/-- STBY_OK_RX: for this module on link l, or on its way down (R240, table Trees-6). -/
def State.stbyRx (s : State) (l : Fin 10) (child : Nat) (grant : Bool) : State :=
  if child == s.myId && isUplink l then
    if grant && s.linkRole l == roleOffered then (s.setRole l roleStandbyParent).wrB .tre_STBY_OK l true
    else if !grant && s.linkRole l == roleStandbyParent then (s.setRole l roleOffered).wrB .tre_STBY_OK l false
    else s
  else (s.stbyHere child grant).sendDown (.stbyOk child grant)

/-- TOPO_RX: a child moved; the way to it is link l (R254). -/
def State.topoRx (s : State) (l : Fin 10) (child parent no : Nat) : State :=
  let s := s.subMove child parent l
  let s := s.each (List.finRange 10) (fun m s =>
    if m != l && s.rd .tre_PEER_ID m == child && (s.treLink m).input && s.linkRole m != roleChild then
      s.setTreLink m { s.treLink m with input := false } else s)
  if s.isRoot then ((s.enumRegs).standbyCheck).featCompute else s.sendUp (.topo child parent no)

/-- CLAIM_REQ for the links set: a granted standby child is claimed, any other link is refused with CFG_ERR (R258). -/
def State.claimReq (s : State) (m : Nat) : State :=
  s.each ((List.finRange 10).filter (fun l : Fin 10 => bit m l.val)) (fun l s =>
    if s.linkRole l == roleStandbyChild && s.flag .tre_STBY_OK l then s.sendClaim l else s.wrB .tre_CFG_ERR 0 true)

/-- ROLE_SW written: kept in the boot record, in the copy not in force, which is in force from then on (R238, R343); 0b11 is reserved
(R7). -/
def State.roleSw (s : State) (v : Nat) : State :=
  if v = 3 then s.wrB .tre_CFG_ERR 0 true
  else (s.bootRec (fun f => { f with roleSw := v })).wr .tre_ROLE_SW 0 v

/-- TRE is released: the role is sampled (R238, table Trees-2); a root takes its ID (R239). -/
def State.treStart (s : State) : State :=
  let strap := s.rd .tre_STRAP_ROLE
  let role := if strap = 3 then s.flash.roleSw else strap
  let s := ({ s with tre := {} }.wr .tre_ROLE 0 role).wr .tre_ROLE_SW 0 s.flash.roleSw
  if s.isRoot then s.takeRootId else s

/-- READY is reached: a root sends ENUM on its downlinks and, alone, is done at once (R240). -/
def State.treReady (s : State) : State :=
  let s := s.treUpd (fun t => { t with readyAt := some s.clock })
  if s.enumerated then ((s.each s.downUp (fun l s => s.sendEnum l 0)).enumRegs).featCompute else s

/-- The effects of a commit on TRE (table Trees-10); en and stby are TRE_EN and STBY_EN before it. A module whose STBY_EN is cleared asks for no
standby parent any more: the ENUM_REPLY that says so names none, and the root revokes the grant (DEDUCED, log entry 100). -/
def State.treCommit (s : State) (en stby : Bool) : State :=
  let s := if !s.flag .tre_TRE_EN && en then
      (s.treUpd (fun t => { t with draining := true, hznSent := none }))
    else if s.flag .tre_TRE_EN && !en then (s.treUpd (fun t => { t with draining := false })).wrB .tre_TRE_FINAL 0 false else s
  if stby && !s.flag .tre_STBY_EN then
    let s := s.each [(0 : Fin 10), 1] (fun l s =>
      if s.linkRole l == roleStandbyParent then (s.setRole l roleOffered).wrB .tre_STBY_OK l false else s)
    s.when (s.myId != 0) (fun s => s.sendUp (.enumReply s.myId 0 1 ownFeat (s.rd .tre_FW_VER) 0))
  else if !stby && s.flag .tre_STBY_EN then
    s.each [(0 : Fin 10), 1] (fun l s => s.when (s.linkRole l == roleOffered && s.linkUp l && s.myId != 0) (fun s => s.sendReply l 0))
  else s

/-- A TRE drain is over once every item up to the horizon and every packet to be sent again is sent, and the final HORIZON with them (table
Trees-10). -/
def State.treDrained (s : State) : State :=
  if s.tre.draining && !s.que.items.any (fun i => i.up && s.passed i.pid.tick) && s.tre.log.all (·.sent) then
    ((s.horizonSend).treUpd (fun t => { t with draining := false })).wrB .tre_TRE_FINAL 0 true
  else s

/-- An 8-byte VC4 tag (R241). -/
def vc4Tag (use held : Nat) : List Nat := [use, 0, 0, 0] ++ bytesLE 4 held

/-- The first of the packets ps read back for the uplink with USE use, as a QC4 item: its bytes, the POISON record that stands for it
(R199), or the GAP record that stands for those overrun (R194); the packets left. None while it is not yet in its reel, or QC4 has no
room. -/
def State.readUp (s : State) (ps : List PktId) (use : Nat) : Option (State × List PktId) :=
  match ps with
  | [] => none
  | p :: rest =>
    let x := backItem p use true false none
    match s.gapHead ps with
    | some (b, rest) => (s.putItem { x with isRec := true } b).map (fun (s, _) => (s, rest))
    | none =>
      match s.stored p with
      | none => none
      | some r =>
        let (t, d) := s.deliverPkt r
        (t.putItem { x with isRec := !s.reads r } d).map (fun (s, _) => (s, rest))

/-- A packet of the module's own read back with USE use waits for the uplink. -/
def State.backWaits (s : State) (use : Nat) : Bool := s.que.items.any (fun x => x.ownBack && x.use_ == use && x.up)

/-- The packets of the log not yet sent to the present parent. -/
def State.unsent (s : State) : List PktId := (s.tre.log.filter (fun e => !e.sent)).map (·.pid)

/-- The next packet of the log to be sent again is read back, one at a time, oldest first (R256). Packets that one GAP record stands for leave
the log but for the first. -/
def State.replayNext (s : State) : State :=
  if s.backWaits 1 then s
  else match s.readUp s.unsent 1 with
    | none => s
    | some (t, rest) =>
      let gone := (s.unsent.take (s.unsent.length - rest.length)).drop 1
      (t.treUpd (fun x => { x with log := x.log.filter (fun e : FwdEnt => e.sent || !gone.contains e.pid) })).fwdRegs

/-- HELD_DELIVERY may start on link l: VC2 and VC3 idle for 10 us, nothing to be sent again (R249). -/
def State.heldReady (s : State) (l : Fin 10) : Bool :=
  s.linkRole l == roleParent && s.linkFeat l featHeld && (s.link l).dataAt + 10 * usFu ≤ s.clock && !s.backWaits 2 && s.unsent.isEmpty

/-- HELD_DELIVERY: the oldest held packet goes up as a held delivery (R249). -/
def State.heldDelivery (s : State) (l : Fin 10) : State :=
  if s.heldReady l then
    match s.readUp s.que.heldUp 2 with
    | none => s
    | some (s, left) =>
      (s.queUpd (fun q => { q with heldUp := left })).treUpd (fun t => { t with listed := t.listed.filter (left.contains ·) })
  else s

end Sys2Proof.Machine
end

