-- ==== Sys2Proof/Machine/Lnk.lean ====
section
/-! DEFINITION. LNK: the lanes and their bring-up, the line's blocks, frames, retry, heartbeats and the use of two lanes
(R210 to R236, R242 to R244). -/

namespace Sys2Proof.Machine

open Sys2Proof

/-! ### Lanes and ports (R210, table Lanes-3) -/

/-- What the module puts on its contacts is kept. -/
def State.say (s : State) (o : Out) : State := { s with out := o :: s.out }

/-- Lane j belongs to link l: sub-link 0 of a split port has lane 0, sub-link 1 lane 1 (R210). -/
def State.laneOk (s : State) (l : Fin 10) (j : Fin 2) : Bool :=
  if 6 ≤ l.val then s.isSplit l && j = 1 else if s.isSplit l then j = 0 else true

/-- The lane may run: its port and itself enabled, the module not standalone (table Trees-2). -/
def State.laneOn (s : State) (l : Fin 10) (j : Fin 2) : Bool :=
  s.laneOk l j && s.rdBit .lnk_PORT_EN 0 (portOf l) && s.rdBit .lnk_LANE_EN l j && s.rd .tre_ROLE != 2

/-- The link runs striped over both lanes: both are enabled and both sides have FEAT bit 1 (R231). -/
def State.striped (s : State) (l : Fin 10) : Bool :=
  l.val < 6 && !s.isSplit l && s.rd .lnk_LANE_EN l == 3 && s.rdBit .lnk_PARTNER_FEAT l 1

/-- Lane j carries the stream of link l: in UP, its transmitter not held at electrical idle. -/
def State.carries (s : State) (l : Fin 10) (j : Fin 2) : Bool := s.laneSt l j == laUp && !(s.lane l j).quiet

/-- LANES_UP of the link and PORT_UP of its port. -/
def State.lnkRegs (s : State) (l : Fin 10) : State :=
  let u (j : Fin 2) : Nat := if s.carries l j then 2 ^ j.val else 0
  let s := s.wr .lnk_LANES_UP l (u 0 + u 1)
  s.wrBit .lnk_PORT_UP 0 (portOf l) ((List.finRange 10).any (fun m => portOf m == portOf l && s.linkUp m))

/-- MISWIRE of the link's port: a condition of R226 holds on a lane of it. -/
def State.misRegs (s : State) (l : Fin 10) : State :=
  s.wrBit .lnk_MISWIRE 0 (portOf l) ((List.finRange 10).any (fun m => portOf m == portOf l && ((s.lane m 0).mis || (s.lane m 1).mis)))

/-- The transmitter taps of a lane (R223). -/
def State.laneTaps (s : State) (l : Fin 10) (j : Fin 2) (pre post : Nat) : State :=
  (s.wr .lnk_TX_PRE (laneIx l j) pre).wr .lnk_TX_POST (laneIx l j) post

/-- RATE_HUNT entered: the scrambler seeded, the receiver unsynchronised, the taps at the preset, CTLE at 8 dB (R213, R221). LINK_REV is 0
again until it is chosen, unless the link's other lane has it (R215). -/
def State.enterHunt (s : State) (l : Fin 10) (j : Fin 2) (rate : Nat) (only : Bool) : State :=
  let x := s.lane l j
  let seed := (s.myId % 2 ^ 31) ^^^ j.val
  let s := s.setLane l j { rate := rate, only := only, los := x.los, tx := if seed = 0 then 1 else seed, txBit := x.txBit, txLen := x.txLen,
                           txAt := x.txAt, line := x.line }
  let s := ((s.laneTaps l j 4 12).wr .lnk_CTLE (laneIx l j) 8).wrB .lnk_EQ_COMPAT (laneIx l j) false
  let s := s.when (!only && !(s.laneOk l (otherLane j) && laHello ≤ s.laneSt l (otherLane j))) (fun s => s.wr .lnk_LINK_REV l 0)
  s.setLaneSt l j laHunt

/-- The first rate of a hunt (R221). -/
def State.huntRate (s : State) : Nat := if s.rd .lnk_REV_CAP == 1 then 1 else 2

/-- Lane j leaves what it was in for st, DISABLED or BACKOFF: its partner is forgotten. -/
def State.laneOff (s : State) (l : Fin 10) (j : Fin 2) (st : Nat) : State :=
  ((s.setLane l j { s.lane l j with
      mis := false, quiet := false, partner := none, until_ := s.clock + s.rd .lnk_BACKOFF_NOW (laneIx l j) * msFu }).setLaneSt l j
    st).misRegs l

/-- Every lane of link l in a state for which c holds, off to st. -/
def State.lanesOff (s : State) (l : Fin 10) (st : Nat) (c : Nat → Bool) : State :=
  s.each (List.finRange 2) (fun j s => if s.laneOk l j && c (s.laneSt l j) then s.laneOff l j st else s)

/-- The lanes of link l in DISABLED that may run hunt (table Lanes-3). -/
def State.huntLanes (s : State) (l : Fin 10) : State :=
  s.each (List.finRange 2) (fun j s => if s.laneOn l j && s.laneSt l j == laDisabled then s.enterHunt l j s.huntRate false else s)

/-- A draining port's link is off (table Lanes-6), and its lanes hunt again where it was enabled meanwhile; PORT_FINAL follows its last. -/
def State.portOff (s : State) (l : Fin 10) : State :=
  let s := (s.lanesOff l laDisabled (fun _ => true)).setLink l { s.link l with draining := false }
  let s := (s.lnkRegs l).huntLanes l
  if (List.finRange 10).any (fun m => portOf m == portOf l && (s.link m).draining) then s
  else s.wrBit .lnk_PORT_FINAL 0 (portOf l) true

/-- The link has no lane in UP any more; a drain of its port is over with it. -/
def State.linkLost (s : State) (l : Fin 10) : State :=
  let s := ((s.wrBit .lnk_DEGRADED 0 (portOf l) false).treLinkDown l).lnkRegs l
  if (s.link l).draining then s.portOff l else s

/-! ### What the module sends (table Lanes-2) -/

/-- The HELLO a lane sends. -/
def State.helloNow (s : State) (l : Fin 10) (j : Fin 2) (leaving : Bool) : Hello :=
  { revMax := .ofNat 4 (s.rd .lnk_REV_CAP), linkRev := .ofNat 4 (s.rd .lnk_LINK_REV l), port := .ofNat 3 (portOf l), lane := .ofNat 1 j,
    down := !isUplink l, split := s.isSplit l, ack := (s.lane l j).ack, leaving := leaving, feat := .ofNat 32 ownFeat,
    moduleId := .ofNat 32 s.myId, fwVer := .ofNat 16 (s.rd .tre_FW_VER), mrole := .ofNat 2 (s.rd .tre_ROLE) }

/-- A block of lane j sent n times. -/
def State.laneBlocks (s : State) (l : Fin 10) (j : Fin 2) (b : List Nat) (n : Nat) : State :=
  s.each (List.range n) (fun _ s => s.laneBlock l j true b)

/-- A HELLO sent n times on lane j. -/
def State.sendHello (s : State) (l : Fin 10) (j : Fin 2) (leaving : Bool) (n : Nat) : State :=
  let h := s.helloNow l j leaving
  (s.laneBlocks l j (ctlBlock tyHello (helloBody h)) n).say (.hello l j h)

/-- A RESTRIPE sent n times on lane j, with the next RS_SEQ. -/
def State.sendRestripe (s : State) (l : Fin 10) (j : Fin 2) (lanes : Nat) (ack : Bool) (n : Nat) : State :=
  let x := s.link l
  let s := s.setLink l { x with rsSeq := (x.rsSeq + 1) % 256 }
  (s.laneBlocks l j (ctlBlock tyRestripe [lanes + 4 * b2n ack, x.rsSeq]) n).say (.restripe l j lanes x.rsSeq ack)

/-- The last SEQ accepted. -/
def LinkSt.ackSeq (x : LinkSt) : Nat := (x.rxSeq + 65535) % 65536

def State.sendAck (s : State) (l : Fin 10) : State :=
  let n := (s.link l).ackSeq
  (s.streamBlock l true (ctlBlock tyAck (bytesLE 2 n))).say (.ack l n)

/-- A NAK for the expected SEQ. -/
def State.sendNak (s : State) (l : Fin 10) : State :=
  let n := (s.link l).rxSeq
  (s.streamBlock l true (ctlBlock tyNak (bytesLE 2 n))).say (.nak l n)

/-- The blocks of a frame on the link: its data blocks, and the FEND with NBLK, LAST, the present acknowledgement and FCRC (R227, R228). -/
def State.frameLine (s : State) (l : Fin 10) (f : TxFrame) : State :=
  let n := ceilDiv f.data.length 16
  let d := f.data ++ List.replicate (16 * n - f.data.length) 0
  let x := s.link l
  let h := bytesLE 2 f.seq ++ [(n - 1) % 32 + 32 * f.vc, (f.data.length + 15) % 16 + 16 * b2n x.accepted] ++ bytesLE 2 x.ackSeq
  let s := (s.each (List.range n) (fun i s => s.streamBlock l false ((d.drop (16 * i)).take 16))).streamBlock l true
    (ctlBlock tyFend (h ++ bytesLE 4 (crc32 (d ++ h))))
  s.setLink l { s.link l with ackDue := none }

/-- Frames from SEQ n on sent again (R228); in STANDBY those before the first that is not of VC0 (table Lanes-5; DEDUCED, log entry 216). -/
def State.replayFrom (s : State) (l : Fin 10) (n : Nat) : State :=
  let fs := (s.link l).replay.filter (fun f => (f.seq + 65536 - n % 65536) % 65536 < 32768)
  let fs := if s.pwr == .standby then fs.takeWhile (fun f => f.vc == 0) else fs
  ((s.bump .lnk_REPLAYS l).each fs (fun f s => s.frameLine l f)).say (.replay l n)

/-- The oldest unacknowledged SEQ. -/
def LinkSt.oldest (x : LinkSt) : Nat := (x.replay.head?.map (·.seq)).getD x.txSeq

/-! ### Losing a lane (R225, R228, R232) -/

/-- Lane j of a two-lane link is lost or given up: the stream moves to the other (R232). -/
def State.restripe (s : State) (l : Fin 10) (j : Fin 2) (ack fault : Bool) : State :=
  let o := otherLane j
  let x := s.link l
  let s := s.setLink l { x with reading := ack, nakAt := some s.clock, rejoin := false, asked := false, two := false }
  let s := (s.sendRestripe l o (2 ^ o.val) ack 4).sendNak l
  let s := ((s.replayFrom l x.oldest).bump .lnk_RESTRIPES l).lnkRegs l
  if fault then
    ((s.wrBit .lnk_DEGRADED 0 (portOf l) true).wrB .lnk_LANE_LOSS l true).detect clsLink 1 (unitLink l)
      (some (0x0E01, portOf l + 8 * b2n (6 ≤ l.val) + 16 * j.val))
  else s

/-- A lane leaves its state for st: the link goes on on its other lane or is lost. A lane already given up at the partner's RESTRIPE leaves
with no further action (table Lanes-4). -/
def State.laneLeave (s : State) (l : Fin 10) (j : Fin 2) (st : Nat) (ack fault : Bool) : State :=
  let was := s.laneSt l j
  let carried := s.carries l j
  let o := otherLane j
  let s := s.laneOff l j st
  if was == laUp then
    if !carried then s.lnkRegs l
    else if s.carries l o then s.restripe l j ack fault
    else (s.when (s.laneSt l o == laUp) (fun s => s.laneOff l o laBackoff)).linkLost l
  else if was == laIdle then
    if s.laneSt l o == laIdle then (s.setLink l { s.link l with two := false }).lnkRegs l else s.linkLost l
  else s.lnkRegs l

/-- A lane has failed (R225): to BACKOFF; BACKOFF_NOW doubles up to 256 ms for the next. -/
def State.laneFail (s : State) (l : Fin 10) (j : Fin 2) (double : Bool) : State :=
  let s := (s.bump .lnk_TRAIN_FAIL l).laneLeave l j laBackoff false true
  if double then s.wr .lnk_BACKOFF_NOW (laneIx l j) (min 256 (2 * s.rd .lnk_BACKOFF_NOW (laneIx l j))) else s

/-- The link is taken down, its lanes to BACKOFF (R228). -/
def State.takeDownQuiet (s : State) (l : Fin 10) : State := (s.lanesOff l laBackoff (fun st => laHunt ≤ st)).linkLost l

/-- The link is taken down with a link-class fault at level 2 (R228, R229). -/
def State.takeDown (s : State) (l : Fin 10) : State :=
  (s.takeDownQuiet l).detect clsLink 2 (unitLink l) none none (s.timeParent == some l.val)

/-- A lane reaches UP, or IDLE during SAFE (table Lanes-5): BACKOFF_NOW returns to 1 ms; with the first in UP the link comes up. -/
def State.laneUp (s : State) (l : Fin 10) (j : Fin 2) : State :=
  let was := s.linkUp l || (s.link l).live
  let idle := s.pwr == .safe
  let s := ((s.setLaneSt l j (if idle then laIdle else laUp)).wr .lnk_BACKOFF_NOW (laneIx l j) 1).lnkRegs l
  if was || idle then s else s.treLinkUp l

/-- Equalisation is done: to ALIGN on a two-lane link, else to UP; beside a lane in UP a rejoin is asked for (R220, R233). -/
def State.laneReady (s : State) (l : Fin 10) (j : Fin 2) : State :=
  if s.striped l then
    let s := s.setLaneSt l j laAlign
    if s.carries l (otherLane j) then
      let x := s.link l
      (s.setLink l { x with asked := true }).sendRestripe l (otherLane j) 3 x.rejoin 1
    else s
  else if j = 1 && l.val < 6 && s.rd .lnk_LANE_EN l == 3 && !s.isSplit l then s.setLaneSt l j laAlign
  else s.laneUp l j

/-! ### Bring-up (R217 to R226) -/

/-- Compatibility equalisation begins on a lane: the taps held at COMPAT_PRE and COMPAT_POST, the sweep at 0 dB (R224). -/
def State.sweepStart (s : State) (l : Fin 10) (j : Fin 2) : State :=
  let s := (s.laneTaps l j (s.rd .lnk_COMPAT_PRE l) (s.rd .lnk_COMPAT_POST l)).wrB .lnk_EQ_COMPAT (laneIx l j) true
  (s.wr .lnk_CTLE (laneIx l j) 0).setLane l j { s.lane l j with sweep := [], sweepAt := some s.clock }

/-- COMPAT entered (R224). -/
def State.enterCompat (s : State) (l : Fin 10) (j : Fin 2) : State := (s.sweepStart l j).setLaneSt l j laCompat

/-- The TRAIN a lane sends: its own command, and the answer to the partner's last. -/
def State.trainNow (s : State) (l : Fin 10) (j : Fin 2) : Train :=
  let x := s.lane l j
  let e := x.echo.getD (0, 0, 0)
  { preCmd := .ofNat 2 x.req.2.1, postCmd := .ofNat 2 x.req.2.2.1, preset := x.req.2.2.2, rxReady := x.ready, reqSeq := .ofNat 4 x.req.1,
    statSeq := .ofNat 4 e.1, preSt := .ofNat 2 e.2.1, postSt := .ofNat 2 e.2.2 }

/-- A TRAIN sent on lane j. -/
def State.sendTrain (s : State) (l : Fin 10) (j : Fin 2) : State :=
  let m := s.trainNow l j
  let pre := s.rd .lnk_TX_PRE (laneIx l j)
  let post := s.rd .lnk_TX_POST (laneIx l j)
  (s.laneBlock l j true (ctlBlock tyTrain (trainBody m pre post))).say (.train l j m pre post)

/-- The receiver's next command to the partner's taps, under a new REQ_SEQ; which it is, is the receiver's own (a free value, log entry
169). -/
def State.trainAsk (s : State) (l : Fin 10) (j : Fin 2) : State :=
  let x := s.lane l j
  let v := Config.freeValue s.free
  s.fresh.setLane l j { x with req := ((x.req.1 + 1) % 16, v % 3, v / 3 % 3, v / 9 % 2 == 1), stat := none }

/-- TRAIN entered with the taps at the preset (R223). -/
def State.enterTrain (s : State) (l : Fin 10) (j : Fin 2) : State :=
  let s := (s.laneTaps l j 4 12).wrB .lnk_EQ_COMPAT (laneIx l j) false
  let s := (s.setLane l j
    { s.lane l j with trainAt := none, echo := none, ready := false, partnerReady := false, sweepAt := none }).setLaneSt l j laTrain
  (s.trainAsk l j).sendTrain l j

/-- HELLO is done once each side has sent and received one with ACK: the rate is switched or equalisation begins (R222). -/
def State.helloNext (s : State) (l : Fin 10) (j : Fin 2) : State :=
  let x := s.lane l j
  if s.laneSt l j == laHello && x.ack && x.ackSent && x.ackGot then
    if x.rate != s.rd .lnk_LINK_REV l then
      if x.switchAt.isSome then s else s.setLane l j { x with switchAt := some (s.clock + msFu) }
    else if s.rd .lnk_LINK_REV l == 2 && s.rdBit .lnk_PARTNER_FEAT l 0 && s.rd .lnk_EQ_MODE l == 0 then s.enterTrain l j
    else s.enterCompat l j
  else s

/-- BLOCK_LOCK: the last 64 headers are valid (R217). The peaking the receiver has adapted to is its own (R221; a free value, log entry
169). -/
def State.blockLock (s : State) (l : Fin 10) (j : Fin 2) : State :=
  let x := s.lane l j
  if s.laneSt l j == laHunt && x.hdrs == List.replicate 64 true then
    ((s.fresh.wr .lnk_CTLE (laneIx l j) (Config.freeValue s.free % 16)).setLane l j
      { x with lockAt := s.clock, heard := false, ack := false, ackSent := false, ackGot := false, switchAt := none }).setLaneSt l j laHello
  else s

/-- The lane is lost (R217, R218, R225). -/
def State.laneLoss (s : State) (l : Fin 10) (j : Fin 2) (los : Bool) : State :=
  let s := (s.bump .lnk_LOSS_CNT l).setLane l j { s.lane l j with los := los || (s.lane l j).los }
  if laHello ≤ s.laneSt l j then s.laneFail l j true else s

/-- LOCK_LOSS: 16 of the last 64 headers are invalid (R217). -/
def State.lockLoss (s : State) (l : Fin 10) (j : Fin 2) : State :=
  if laHello ≤ s.laneSt l j && 16 ≤ (s.lane l j).hdrs.countP (fun b => !b) then s.laneLoss l j false else s

/-- SIGNAL_RETURN: the input has stayed above 40 mV for 10 us. -/
def State.signalBack (s : State) (l : Fin 10) (j : Fin 2) : State := s.setLane l j { s.lane l j with los := false }

/-- The hunt goes on at a rate. -/
def State.huntAt (s : State) (l : Fin 10) (j : Fin 2) (rate : Nat) : State :=
  s.setLane l j { s.lane l j with rate := rate, since := s.clock, hdrs := [], slip := 0, rx := none }

/-- RATE_HUNT_SWITCH: the hunt alternates rates, every 10 ms on a downlink and 25 ms on an uplink (R221). -/
def State.rateSwitch (s : State) (l : Fin 10) (j : Fin 2) : State :=
  let x := s.lane l j
  let p := if isUplink l then 25 * msFu else 10 * msFu
  if s.laneSt l j == laHunt && s.rd .lnk_REV_CAP == 2 && !x.only && x.since + p ≤ s.clock then s.huntAt l j (3 - x.rate) else s

/-- HELLO_TX: every 10 us from block lock on (R222). -/
def State.helloTx (s : State) (l : Fin 10) (j : Fin 2) : State :=
  if laHello ≤ s.laneSt l j then
    let x := s.lane l j
    ((s.setLane l j { x with ackSent := x.ackSent || x.ack }).sendHello l j false 1).helloNext l j
  else s

/-- The conditions of R226 under which a lane stays in HELLO; the other lane's partner counts while that lane has one. -/
def State.miswired (s : State) (l : Fin 10) (j : Fin 2) (h : Hello) : Bool :=
  let o := s.lane l (otherLane j)
  h.down == !isUplink l || (h.moduleId.toNat == s.myId && h.moduleId.toNat != 0) || (h.mrole.toNat == 1 && s.rd .tre_ROLE == 1) ||
    (!s.isSplit l && laHello ≤ s.laneSt l (otherLane j) &&
      (match o.partner with | some p => p != (h.moduleId.toNat, h.port.toNat) | none => false))

/-- HELLO_RX (R222, R226); an unsynchronised receiver takes none (R213). -/
def State.helloRx (s : State) (l : Fin 10) (j : Fin 2) (h : Hello) : State :=
  if s.laneSt l j < laHello || (s.lane l j).rx.isNone then s
  else
    let bad := s.miswired l j h
    let x := s.lane l j
    let s := s.setLane l j { x with heard := true, ack := !bad, ackGot := h.ack, partner := some (h.moduleId.toNat, h.port.toNat),
                                    mis := bad }
    let s := (((s.wr .lnk_PARTNER_ID l h.moduleId.toNat).wr .lnk_PARTNER_FEAT l h.feat.toNat).wr .lnk_PARTNER_PORT l h.port.toNat).wr
      .lnk_PARTNER_REV_MAX l h.revMax.toNat
    let s := (((s.wrB .lnk_PARTNER_ROLE l h.down).wrB .lnk_PARTNER_SPLIT l h.split).wr .lnk_PARTNER_MROLE l h.mrole.toNat).wr
      .lnk_PARTNER_FW l h.fwVer.toNat
    let s := s.misRegs l
    if bad then (if x.mis then s else s.detect clsTopology 1 (unitLink l))
    else
      let s := if s.laneSt l j == laHello then s.wr .lnk_LINK_REV l (min (s.rd .lnk_REV_CAP) h.revMax.toNat) else s
      s.helloNext l j

/-- REV_SWITCH: the lane goes to LINK_REV's rate and hunts at it alone (R222). -/
def State.revSwitch (s : State) (l : Fin 10) (j : Fin 2) : State :=
  match (s.lane l j).switchAt with
  | some t => if s.laneSt l j == laHello && t ≤ s.clock then s.enterHunt l j (s.rd .lnk_LINK_REV l) true else s
  | none => s

/-- RELOCK_TIMEOUT: no lock at the new rate within 100 ms (R222). -/
def State.relockTimeout (s : State) (l : Fin 10) (j : Fin 2) : State :=
  let x := s.lane l j
  if s.laneSt l j == laHunt && x.only && x.since + 100 * msFu ≤ s.clock then s.laneFail l j true else s

/-- HELLO_TIMEOUT: no HELLO 20 ms after lock begins compatibility equalisation, 200 ms after it fails the lane (R222). -/
def State.helloTimeout (s : State) (l : Fin 10) (j : Fin 2) : State :=
  let x := s.lane l j
  if s.laneSt l j == laHello && !x.heard then
    if x.lockAt + 200 * msFu ≤ s.clock then s.laneFail l j true
    else if x.lockAt + 20 * msFu ≤ s.clock && !s.flag .lnk_EQ_COMPAT (laneIx l j) then s.sweepStart l j
    else s
  else s

/-- Training ends when both sides have sent RX_READY (R223). -/
def State.trainNext (s : State) (l : Fin 10) (j : Fin 2) : State :=
  let x := s.lane l j
  if s.laneSt l j == laTrain && x.ready && x.partnerReady then s.laneReady l j else s

/-- One tap after a command: its value and the status echoed; room says that one more keeps PRE + POST within 38 (R223). -/
def tapStep (cmd v top : Nat) (room : Bool) : Nat × Nat :=
  match cmd with
  | 1 => if v < top && room then (v + 1, 1) else (v, 3)
  | 2 => if 0 < v then (v - 1, 1) else (v, 2)
  | _ => (v, 0)

/-- The partner's command m applied to the lane's taps, and its statuses kept for the echo (R223). -/
def State.tapApply (s : State) (l : Fin 10) (j : Fin 2) (m : Train) : State :=
  let i := laneIx l j
  let (pre, ps) := if m.preset then (4, 1)
    else tapStep m.preCmd.toNat (s.rd .lnk_TX_PRE i) 16 (s.rd .lnk_TX_PRE i + s.rd .lnk_TX_POST i < 38)
  let (post, qs) := if m.preset then (12, 1)
    else tapStep m.postCmd.toNat (s.rd .lnk_TX_POST i) 32 (pre + s.rd .lnk_TX_POST i < 38)
  (s.laneTaps l j pre post).setLane l j { s.lane l j with echo := some (m.reqSeq.toNat, ps, qs) }

/-- TRAIN_RX: a new command is applied and echoed; the status of the own command, once echoed, is taken, and the next command follows while
the receiver is not ready (R223). -/
def State.trainRx (s : State) (l : Fin 10) (j : Fin 2) (m : Train) : State :=
  if s.laneSt l j != laTrain then s
  else
    let x := s.lane l j
    let fresh := match x.echo with | some (n, _, _) => n != m.reqSeq.toNat | none => true
    let told := x.stat.isNone && m.statSeq.toNat == x.req.1
    let s := s.setLane l j { x with
      trainAt := some s.clock, partnerReady := m.rxReady, stat := if told then some (m.preSt.toNat, m.postSt.toNat) else x.stat }
    let s := s.when fresh (fun s => s.tapApply l j m)
    let s := s.when (told && !x.ready) (fun s => s.trainAsk l j)
    (s.when (fresh || (told && !x.ready)) (fun s => s.sendTrain l j)).trainNext l j

/-- RX_READY: the receiver has seen no invalid header in 10^6 blocks and its margin meets the target (R223). -/
def State.rxReady (s : State) (l : Fin 10) (j : Fin 2) : State :=
  if s.laneSt l j == laTrain then ((s.setLane l j { s.lane l j with ready := true }).sendTrain l j).trainNext l j else s

/-- TRAIN_TIMEOUT (R223). -/
def State.trainTimeout (s : State) (l : Fin 10) (j : Fin 2) : State :=
  let x := s.lane l j
  if s.laneSt l j == laTrain then
    if x.since + 500 * msFu ≤ s.clock then s.laneFail l j true
    else match x.trainAt with
      | none => if x.lockAt + 20 * msFu ≤ s.clock then s.enterCompat l j else s
      | some t => if t + 2 * msFu ≤ s.clock then s.enterCompat l j else s
  else s

/-- The better of two sweep steps (headers, margin, dB): fewer invalid headers, larger margin, lower peaking (R224). -/
def sweepBetter (a b : Nat × Nat × Nat) : Bool :=
  a.1 < b.1 || (a.1 == b.1 && (b.2.1 < a.2.1 || (a.2.1 == b.2.1 && a.2.2 < b.2.2)))

/-- The sweep is over: the best step is kept, and in COMPAT the lane is ready; a sweep with invalid headers in every step fails the lane
(R224). -/
def State.sweepEnd (s : State) (l : Fin 10) (j : Fin 2) (w : List (Nat × Nat)) : State :=
  let s := s.setLane l j { s.lane l j with sweepAt := none }
  match leastBy sweepBetter ((w.zip (List.range 16)).map (fun e => (e.1.1, e.1.2, e.2))) with
  | some b =>
    if b.1 = 0 then
      let s := s.wr .lnk_CTLE (laneIx l j) b.2.2
      if s.laneSt l j == laCompat then s.laneReady l j else s
    else s.laneFail l j true
  | none => s

/-- COMPAT_SWEEP_STEP: a step of 100 us ends, in COMPAT or, where no HELLO came, in HELLO (R222, R224). -/
def State.sweepStep (s : State) (l : Fin 10) (j : Fin 2) (bad margin : Nat) : State :=
  let x := s.lane l j
  let w := x.sweep ++ [(bad, margin)]
  let due := match x.sweepAt with | some t => t + 100 * usFu * w.length ≤ s.clock | none => false
  if due && (s.laneSt l j == laCompat || s.laneSt l j == laHello) then
    let s := s.setLane l j { x with sweep := w }
    if w.length < 16 then s.wr .lnk_CTLE (laneIx l j) w.length else s.sweepEnd l j w
  else s

/-- BACKOFF_DONE: the lane hunts again (R225). -/
def State.backoffDone (s : State) (l : Fin 10) (j : Fin 2) : State :=
  if s.laneSt l j == laBackoff && (s.lane l j).until_ ≤ s.clock then
    if s.laneOn l j then s.enterHunt l j s.huntRate false else s.setLaneSt l j laDisabled
  else s

/-! ### The receiver (R212 to R217, R219) -/

/-- The validity of one header noted: while the lane hunts, an invalid one slips the candidate position by one bit (R217). -/
def State.headerIn (s : State) (l : Fin 10) (j : Fin 2) (ok : Bool) : State :=
  let x := s.lane l j
  if !ok && s.laneSt l j == laHunt then s.setLane l j { x with hdrs := [], slip := (x.slip + 1) % 130 }
  else s.setLane l j { x with hdrs := (ok :: x.hdrs).take 64 }

/-- LINE_BLOCK_RX: the line bits of one block through the receiver: destuffed, descrambled, its header and CHK checked (R212 to
R217). What a good block carries takes effect as the command of its type. -/
def State.lineBlock (s : State) (l : Fin 10) (j : Fin 2) (line : List Bool) : State :=
  let x := s.lane l j
  let (kept, run, bad) := destuff (x.runBit, x.runLen) line
  let h := kept.take 2
  let ok := h == [false, true] || h == [true, false]
  let pay := (kept.drop 2).take 128
  let clear := bytesOf pay
  let (ks, next) := scrRun 128 (x.rx.getD 0)
  let plain := bytesOf (List.zipWith (fun a b => a != b) pay ks)
  let s := if bad = 0 then s else s.bump .lnk_STUFF_ERR l bad
  let s := (s.setLane l j { x with runBit := run.1, runLen := run.2, rx := x.rx.map (fun _ => next) }).headerIn l j ok
  if !ok then s.bump .lnk_BLK_ERR (laneIx l j)
  else if h == [false, true] then s
  else
    let ty := clear.getD 0 0
    let b := if ty == tyFill then clear else ty :: plain.drop 1
    if x.rx.isNone && ty != tyFill then s
    else if crc8 0xFF (b.take 15) != b.getD 15 0 then s.bump .lnk_CTL_BAD l
    else if ctlTypes.contains ty then s
    else s.bump .lnk_CTL_UNK l

/-- FILL_RX: SCR_STATE loaded or compared; the elastic buffer, holding n of its 32 blocks, deletes the FILL or inserts one (R213,
R219). -/
def State.fillRx (s : State) (l : Fin 10) (j : Fin 2) (scr n : Nat) : State :=
  let x := s.lane l j
  let s := match x.rx with
    | some r => if r == scr then s else s.bump .lnk_SCR_ERR l
    | none => s
  let n := if 20 < n then n - 1 else if n < 12 then n + 1 else n
  s.setLane l j { x with rx := some scr, elastic := n }

/-! ### Credits (R242, R243) -/

/-- The units a frame of n blocks costs. -/
def frameUnits (n : Nat) : Nat := ceilDiv n 4

/-- A frame of cost c fits the credit of VC v. -/
def LinkSt.credOk (x : LinkSt) (v : Fin 5) (c : Nat) : Bool := (x.cred[v] + 2 * 4096 - x.sent[v] % 4096 - c) % 4096 < 2048

/-- The cumulative limit advertised on VC v, not reduced modulo 4,096: it never falls back. -/
def State.credLimit (s : State) (l : Fin 10) (v : Fin 5) : Nat :=
  let x := s.link l
  max x.adv[v] (x.got[v] + s.grantOf l v - ceilDiv (s.heldBytes l v) 64)

/-! ### Acknowledgement and retry (R228) -/

/-- The bytes of the replay buffer of a link, and those in use. -/
def State.replaySize (s : State) (l : Fin 10) : Nat := if s.isSplit l then 32768 else 65536
def frameBytes (n : Nat) : Nat := 16 * (ceilDiv n 16 + 1)
def LinkSt.replayUsed (x : LinkSt) : Nat := x.replay.foldl (fun a f => a + frameBytes f.data.length) 0

/-- A port's drain is over once its link has no frame outstanding: it says that it leaves, and goes off (table Lanes-6). -/
def State.portDrained (s : State) (l : Fin 10) : State :=
  let x := s.link l
  if x.draining && (x.replay.isEmpty || !s.linkUp l) then
    let s := s.each (List.finRange 2) (fun j s =>
      if s.laneOk l j && laHello ≤ s.laneSt l j then s.sendHello l j true 4 else s)
    if x.live || s.linkUp l then s.linkLost l else s.portOff l
  else s

/-- ACK_SEQ received: it covers every frame up to it (R228); packets the parent has are taken (R255). -/
def State.lnkAck (s : State) (l : Fin 10) (n : Nat) : State :=
  let x := s.link l
  let cov (f : TxFrame) : Bool := (n + 65536 - f.seq) % 65536 < 32768
  let gone := x.replay.filter cov
  if gone.isEmpty then s
  else
    let s := s.setLink l { x with replay := x.replay.filter (fun f => !cov f), replays := 0, ackAt := s.clock }
    let s := if s.linkRole l == roleParent then (s.each (gone.filterMap (·.pid)) (fun p s => s.markTaken p)).confirmAll else s
    s.portDrained l

/-- A replay counted: RETRY_MAX of them with no advance take the link down (R228). -/
def State.replay (s : State) (l : Fin 10) (n : Nat) : State :=
  let x := s.link l
  let s := (s.setLink l { x with replays := x.replays + 1, ackAt := s.clock }).replayFrom l n
  if s.rd .lnk_RETRY_MAX l ≤ x.replays + 1 then s.takeDown l else s

/-- NAK_RX. -/
def State.nakRx (s : State) (l : Fin 10) (n : Nat) : State :=
  if s.linkUp l && (s.link l).reading && !(s.link l).discard then s.replay l n else s

/-- REPLAY_TIMEOUT: frames outstanding and no advance for REPLAY_TMO us. -/
def State.replayTimeout (s : State) (l : Fin 10) : State :=
  let x := s.link l
  if s.linkUp l && !x.replay.isEmpty && x.ackAt + s.rd .lnk_REPLAY_TMO l * usFu ≤ s.clock then s.replay l x.oldest else s

/-- ACK_TX: 0.5 us after a good frame with no acknowledgement sent. -/
def State.ackTx (s : State) (l : Fin 10) : State :=
  let x := s.link l
  match x.ackDue with
  | some t => if s.linkUp l && t + 80000 ≤ s.clock then (s.setLink l { x with ackDue := none }).sendAck l else s
  | none => s

/-! ### Frames (R227, R242) -/

/-- A frame of VC v put into the replay buffer and sent, charged once. -/
def State.putFrame (s : State) (l : Fin 10) (v : Fin 5) (d : List Nat) (pid : Option PktId) (item : Option V0) (o : Out) : State :=
  let x := s.link l
  let c := frameUnits (ceilDiv d.length 16)
  let w := match x.credWait with | some t => (s.clock - t) / usFu | none => 0
  let f : TxFrame := { seq := x.txSeq, vc := v, data := d, pid := pid, item := item }
  let x := { x with txSeq := (x.txSeq + 1) % 65536, replay := x.replay ++ [f], sent := x.sent.set v (x.sent[v] + c), ackDue := none,
                    credWait := none, ackAt := if x.replay.isEmpty then s.clock else x.ackAt,
                    dataAt := if v.val = 2 || v.val = 3 then s.clock else x.dataAt }
  (((s.setLink l x).bump .tre_CRED_WAIT l w).frameLine l f).say o

/-- A frame of n bytes may be sent on VC v now. -/
def State.frameOk (s : State) (l : Fin 10) (v : Fin 5) (n : Nat) : Bool :=
  let x := s.link l
  x.credOk v (frameUnits (ceilDiv n 16)) && x.replayUsed + frameBytes n ≤ s.replaySize l

/-- A frame waits for credit or replay room. -/
def State.frameWait (s : State) (l : Fin 10) : State :=
  let x := s.link l
  s.setLink l { x with credWait := x.credWait <|> some s.clock }

/-- Link l leads to the primary parent and takes items. -/
def State.sendsUp (s : State) (l : Fin 10) : Bool :=
  s.linkRole l == roleParent && (s.flag .tre_TRE_EN || s.tre.draining) && s.alive .tre

/-- A packet chosen for the uplink l and since released from it (R180) goes no further. -/
def State.dropStale (s : State) (l : Fin 10) : State :=
  let x := s.link l
  let stale (k : TxPkt) : Bool := k.item.any (fun i => !(s.item i).any (fun y => y.up))
  s.setLink l { x with cur := x.cur.map (fun c : Option TxPkt => c.filter (fun k => !stale k)) }

/-- The next packet for the uplink l chosen: while the log holds packets to be sent again, those alone, one at a time (R256); else the items
of the fabric in their order (R179, R246). -/
def State.nextPkt (s : State) (l : Fin 10) : State :=
  if s.sendsUp l then
    let s := s.replayNext.dropStale l
    let x := s.link l
    let busy (i : Nat) : Bool := x.cur.toList.any (fun c => match c with | some k => k.item == some i | none => false)
    match s.offer (s.upReady.filter (fun i => !busy i.id && (s.unsent.isEmpty || i.ownReplay))) s.que.starveUp with
    | some i =>
      let v : Fin 5 := ⟨i.cls % 5, Nat.mod_lt _ (by decide)⟩
      if x.cur[v].isSome then s
      else
        let d := if i.cls = 4 then vc4Tag i.use_ s.tre.held ++ i.data else i.data
        s.setLink l { x with cur := x.cur.set v (some { pid := i.pid, left := d, item := some i.id, back := i.ownReplay }) }
    | none => s
  else s

/-- A packet wholly framed on link l up to count stop of VC v stands in the forward log (R255): a replay in its place; another behind the
rest, to be sent again where the link is no longer the primary parent's. -/
def State.logSent (s : State) (l : Fin 10) (v : Fin 5) (k : TxPkt) (stop : Nat) : State :=
  let up := s.linkRole l == roleParent
  let f (t : Tre) : List FwdEnt :=
    if k.back then
      if up then t.log.map (fun e : FwdEnt => if !e.sent && e.pid == k.pid then { e with vc := v, stop := stop, sent := true } else e) else t.log
    else t.log ++ [{ pid := k.pid, vc := v, stop := stop, sent := up }]
  (s.treUpd (fun t => { t with log := f t })).fwdRegs

/-- What a frame leaves of packet k is left; the fabric counts the bytes taken of its item. -/
def State.tookLeft (s : State) (k : TxPkt) (left : Nat) : State :=
  match k.item.bind s.item with
  | some i => s.tookUp i (i.len - left)
  | none => s

/-- A frame of the packet under way on VC v (R255). -/
def State.sendPkt (s : State) (l : Fin 10) (v : Fin 5) (k : TxPkt) : State :=
  let b := k.left.take 512
  let last := k.left.length ≤ 512
  let x := s.link l
  let s := s.putFrame l v b (if last then some k.pid else none) none (.frame l x.txSeq v b)
  let y := s.treLink l
  let stop := y.cnt[v] + b.length
  let s := s.setTreLink l { y with cnt := y.cnt.set v stop }
  if last then
    let s := (s.setLink l { s.link l with cur := (s.link l).cur.set v none }).tookLeft k 0
    (((s.logSent l v k stop).horizonSend).treDrained).portDrained l
  else (s.setLink l { s.link l with cur := (s.link l).cur.set v (some { k with left := k.left.drop 512 }) }).tookLeft k (k.left.length - 512)

/-- A frame of VC0, item m being the first of rest of those waiting; it counts among the items that go to the uplink (R179). -/
def State.vc0Tx (s : State) (l : Fin 10) (m : V0) (rest : List V0) : State :=
  let d := m.bytes s.myId
  if s.frameOk l 0 d.length then
    let s := s.when (s.sendsUp l) (fun s => s.starveCount 0)
    (s.setLink l { s.link l with vc0 := rest }).putFrame l 0 d none (some m) (.v0 l m)
  else s.frameWait l

/-- A frame of a packet, of the lowest class with one under way that has its credit and replay room, or with low of the highest; none when
there is none, a wait where there is no credit or room. -/
def State.dataTx (s : State) (l : Fin 10) (low : Bool) : Option State :=
  let s := s.nextPkt l
  let x := s.link l
  let vs : List (Fin 5) := if low then [4, 3, 2, 1] else [1, 2, 3, 4]
  let ready := vs.filterMap (fun v => (x.cur[v]).map (fun k => (v, k)))
  match ready.find? (fun e => s.frameOk l e.1 (min 512 e.2.left.length)) with
  | some (v, k) => some (s.sendPkt l v k)
  | none => if ready.isEmpty then none else some (s.frameWait l)

/-- STARVE_LIMIT items of higher classes have gone up link l while one of a lower class waited: it goes next (R179). -/
def State.starved (s : State) (l : Fin 10) : Bool :=
  s.sendsUp l && s.pwr != .standby && s.rd .que_STARVE_LIMIT ≤ s.que.starveUp && !s.upReady.isEmpty

/-- FRAME_TX: VC0 first, then the lowest class with a packet under way that has its credit and replay room (R228, R242). A draining port
sends no new frame; in STANDBY there are frames of VC0 alone (tables Lanes-5, Lanes-6). -/
def State.frameTx (s : State) (l : Fin 10) : State :=
  if !s.linkUp l || (s.link l).draining then s
  else
    let s := s.evPump.pump0
    let x := s.link l
    match x.vc0 with
    | m :: rest => if s.starved l then (s.dataTx l true).getD (s.vc0Tx l m rest) else s.vc0Tx l m rest
    | [] => if s.pwr == .standby then s else (s.dataTx l (s.starved l)).getD s

/-- An event record as its 32 bytes carry it (table Host-4). -/
def evOf (d : List Nat) : EvRec :=
  let b (i n : Nat) : Nat := ofBytesLE ((d.drop i).take n)
  { ty := b 0 2, sev := b 2 1, cls := b 3 1, modId := b 4 4, time := b 8 1 % 256 + 160 * bits (b 8 8) 8 30 + secFu * b 13 7,
    data := b 20 8, seq := b 28 2, flags := b 30 2 }

/-- An item of VC0 accepted: an unknown code is counted; an event record is taken here, every other item by its own command
(R241, R283). -/
def State.itemRx (s : State) (l : Fin 10) (d : List Nat) : State :=
  let c := d.getD 0 0
  if c = 1 then s.evRx (evOf (d.drop 8))
  else if 2 ≤ c && c ≤ 4 || 0x10 ≤ c && c ≤ 0x1A then s
  else s.bump .lnk_VC_ERR l

/-- A good frame reaches TRE: beyond the limit of its VC it is discarded (R244). -/
def State.frameIn (s : State) (l : Fin 10) (vc n : Nat) (d : List Nat) : State :=
  if h : vc < 5 then
    let v : Fin 5 := ⟨vc, h⟩
    let x := s.link l
    let c := frameUnits n
    if x.adv[v] < x.got[v] + c then
      ((s.wrB .tre_CRED_VIOL 0 true).bump .tre_CRED_VIOL_CNT 0).detect clsLink 1 (unitLink l)
    else
      let s := s.setLink l { x with got := x.got.set v (x.got[v] + c) }
      if vc = 0 then s.itemRx l d else s.rxBytes l v d
  else s.bump .lnk_VC_ERR l

/-- FRAME_RX (R227, R228). -/
def State.frameRx (s : State) (l : Fin 10) (f : RxFrame) : State :=
  let x := s.link l
  if !s.linkUp l || x.discard || !x.reading then s
  else
    let s := if f.ackV then s.lnkAck l f.ackSeq.toNat else s
    let x := s.link l
    let d := f.data.map (·.toNat)
    let n := f.n1.toNat + 1
    let fend := bytesLE 2 f.seq.toNat ++ [f.n1.toNat + 32 * f.vc.toNat, f.last1.toNat + 16 * b2n f.ackV] ++ bytesLE 2 f.ackSeq.toNat
    let q := f.seq.toNat
    if (x.rxSeq + 65536 - q - 1) % 65536 < 32768 then s.setLink l { x with ackDue := x.ackDue <|> some s.clock }
    else if q = x.rxSeq && d.length = 16 * n && crc32 (d ++ fend) = f.fcrc.toNat then
      (s.setLink l { x with rxSeq := (q + 1) % 65536, nakAt := none, ackDue := x.ackDue <|> some s.clock, accepted := true }).frameIn l
        f.vc.toNat n (d.take (16 * (n - 1) + f.last1.toNat + 1))
    else
      let s := s.bump .lnk_CRC_ERR l
      let quiet := match x.nakAt with | some t => decide (s.clock < t + 4 * usFu) | none => false
      if quiet then s else (s.setLink l { x with nakAt := some s.clock }).sendNak l

/-! ### Heartbeats (R229) -/

/-- HEART_TX. -/
def State.heartTx (s : State) (l : Fin 10) : State :=
  if !s.linkUp l then s
  else
    let s := s.on .tre State.rxPumps
    let x := s.link l
    let t := (s.trigLink l).tack
    let lim := Vector.ofFn (fun v : Fin 5 => s.credLimit l v)
    let h : Heart := {
      seq := .ofNat 8 x.hbSeq, ackV := x.accepted, tackV := t.isSome, standby := s.pwr == .standby, ackSeq := .ofNat 16 x.ackSeq,
      tack := .ofNat 8 (t.getD 0), cred := lim.map (fun c => .ofNat 12 c) }
    let s := s.setLink l { x with hbSeq := (x.hbSeq + 1) % 256, ackDue := none, adv := lim }
    (s.streamBlock l true (ctlBlock tyHeart (heartBody h))).say (.heart l h)

/-- HEART_RX: acknowledgements, TACK and credit limits (R228, R230, R242). -/
def State.heartRx (s : State) (l : Fin 10) (h : Heart) : State :=
  let x := s.link l
  if !s.linkUp l || x.discard || !x.reading then s
  else
    let s := s.setLink l { x with hbLast := s.clock, cred := h.cred.map (·.toNat) }
    let s := if h.ackV then s.lnkAck l h.ackSeq.toNat else s
    if h.tackV then s.trigAck l h.tack.toNat else s

/-- SILENT: no good HEART for HB_MISS us (R229). -/
def State.silent (s : State) (l : Fin 10) : State :=
  if s.linkUp l && (s.link l).hbLast + s.rd .lnk_HB_MISS l * usFu ≤ s.clock then (s.wrB .lnk_SILENT l true).takeDown l else s

/-! ### Two lanes (R231 to R233) -/

/-- Lane j of link l may take its part in an ALIGN pair. -/
def State.alignOk (s : State) (l : Fin 10) (j : Fin 2) : Bool := laAlign ≤ s.laneSt l j && s.laneTx l j

/-- ALIGN_TX: after 8,192 stream blocks, or while a lane waits for a pair, one is sent; the next stream block goes to lane 0, and with
both lanes in one state dealing to both begins (R231, R233). -/
def State.alignTx (s : State) (l : Fin 10) : State :=
  let x := s.link l
  let same := s.laneSt l 0 == s.laneSt l 1
  if s.striped l && s.alignOk l 0 && s.alignOk l 1 && (!same || s.laneSt l 0 == laAlign || !x.two || 8192 ≤ x.blk) then s.alignPair l same
  else s

/-- ALIGN_RX: the pair's sequences and the skew between them; a matched pair brings both lanes to UP (R220, R231). -/
def State.alignRx (s : State) (l : Fin 10) (a b skew : Nat) : State :=
  if a = b && skew ≤ 12 then
    let s := s.setLink l { s.link l with discard := false }
    if s.laneSt l 0 == laAlign && s.laneSt l 1 == laAlign then (s.laneUp l 0).laneUp l 1 else s
  else if s.linkUp l then (s.setLink l { s.link l with discard := true }).wrB .lnk_ALIGN_ERR l true
  else s.wrB .lnk_ALIGN_ERR l true

/-- RESTRIPE_RX: received on a lane, naming lanes (R232, R233): one lane moves the stream to it, the other's transmitter idle from then on;
both ask for the other lane, or answer. -/
def State.restripeRx (s : State) (l : Fin 10) (lanes : Nat) (ack : Bool) : State :=
  if lanes = 3 then
    let wait := s.laneSt l 0 == laAlign || s.laneSt l 1 == laAlign
    let s := s.setLink l { s.link l with rejoin := true }
    if wait && !ack then s.sendRestripe l (if s.laneSt l 0 == laUp then 0 else 1) 3 true 1 else s
  else
    let j : Fin 2 := if lanes = 1 then 1 else 0
    let s := if s.carries l j && s.carries l (otherLane j) then
        (s.setLane l j { s.lane l j with quiet := true }).restripe l j true true else s
    s.setLink l { s.link l with reading := true }

/-- LANE_REJOIN: the recovered lane takes its share again at the next ALIGN pair (R233). -/
def State.laneRejoin (s : State) (l : Fin 10) : State :=
  if (s.link l).rejoin then
    match (List.finRange 2).find? (fun j => s.laneSt l j == laAlign && s.laneSt l (otherLane j) == laUp) with
    | some j =>
      let s := s.laneUp l j
      let s := s.setLink l { s.link l with rejoin := false, asked := false, solo := otherLane j }
      (s.wrBit .lnk_DEGRADED 0 (portOf l) false).emit 0x0E02 (portOf l)
    | none => s
  else s

/-! ### Stops and module states (R235, R236) -/

/-- Lane j of link l waits in ALIGN although its link has one lane (table Lanes-3). -/
def State.alignAlone (s : State) (l : Fin 10) (j : Fin 2) : Bool :=
  s.laneSt l j == laAlign && s.laneOn l j && !s.striped l && (j = 0 || 6 ≤ l.val || s.rd .lnk_LANE_EN l != 3)

/-- Every lane brought to what its enables say: a disabled lane in RATE_HUNT; one no longer enabled off, unless its port
drains; one in ALIGN that is its link's only lane now, in UP. -/
def State.lnkLanes (s : State) : State :=
  s.each (List.finRange 10) (fun l s =>
    let s := (s.huntLanes l).each (List.finRange 2) (fun j s =>
      if !s.laneOn l j && s.laneSt l j != laDisabled && !(s.link l).draining then s.laneLeave l j laDisabled false false else s)
    s.each (List.finRange 2) (fun j s => if s.alignAlone l j then s.laneUp l j else s))

/-- With REV_CAP revision 1 in force, hunts that alternate go on at its rate (R221). -/
def State.revCap (s : State) : State :=
  if s.rd .lnk_REV_CAP == 1 then
    s.each (List.finRange 10) (fun l s => s.each (List.finRange 2) (fun j s =>
      let x := s.lane l j
      if s.laneSt l j == laHunt && !x.only && x.rate == 2 then s.huntAt l j 1 else s))
  else s

/-- The effects of a commit on LNK; en is PORT_EN before it (table Lanes-6). -/
def State.lnkCommit (s : State) (en : Nat) : State :=
  let now := s.rd .lnk_PORT_EN
  let s := s.each (List.finRange 10) (fun l s =>
    if bit en (portOf l) && !bit now (portOf l) then s.setLink l { s.link l with draining := true } else s)
  let s := s.each (List.range 6) (fun p s => if !bit en p && bit now p then s.wrBit .lnk_PORT_FINAL 0 p false else s)
  ((s.each (List.finRange 10) (fun l s => s.portDrained l)).lnkLanes).revCap

/-- PORT_ABORT: the ports' replay buffers are discarded, their lanes disabled, their enables cleared (table Lanes-6). -/
def State.portAbort (s : State) (m : Nat) : State :=
  s.each ((List.finRange 10).filter (fun l : Fin 10 => bit m (portOf l))) (fun l s =>
    let up := s.linkUp l || (s.link l).live
    let s := (s.cutPkts l).setLink l { (s.cutPkts l).link l with replay := [], draining := false }
    let s := s.lanesOff l laDisabled (fun _ => true)
    let sh := setBit (s.rdSh .lnk_PORT_EN) (portOf l) false
    let s := (s.wr .lnk_PORT_EN 0 (setBit (s.rd .lnk_PORT_EN) (portOf l) false)).wrSh .lnk_PORT_EN 0 sh
    if up then s.linkLost l else s.lnkRegs l)

/-- RETRAIN of the lanes set: a failure that leaves BACKOFF_NOW, restriping first on a two-lane link (table Lanes-6). -/
def State.retrain (s : State) (l : Fin 10) (m : Nat) : State :=
  s.each ((List.finRange 2).filter (fun j : Fin 2 => bit m j.val)) (fun j s =>
    if s.laneOk l j && laHunt ≤ s.laneSt l j then s.laneFail l j false else s)

/-- SAFE: every lane in UP goes to IDLE (table Lanes-5). -/
def State.lnkSafe (s : State) : State :=
  s.each (List.finRange 10) (fun l s => (s.each (List.finRange 2) (fun j s =>
    if s.laneSt l j == laUp then s.setLaneSt l j laIdle else s)).lnkRegs l)

/-- SAFE is left: lanes in IDLE return to UP, frame sequences going on; a link whose lanes had got no further comes up now. -/
def State.lnkSafeExit (s : State) : State :=
  s.each (List.finRange 10) (fun l s =>
    let s := (s.each (List.finRange 2) (fun j s => if s.laneSt l j == laIdle then s.setLaneSt l j laUp else s)).lnkRegs l
    if !s.linkUp l then s
    else if (s.link l).live then s.setLink l { s.link l with hbLast := s.clock }
    else s.treLinkUp l)

/-- STANDBY is left: trigger blocks that waited go out. -/
def State.lnkResume (s : State) : State := s.each (List.finRange 10) (fun l s => s.trigPump l)

/-- LNK is released from reset: enabled lanes hunt. -/
def State.lnkStart (s : State) : State := ({ s with lnk := {} }).lnkLanes

/-! ### Meanings -/

/-- A command of one lane of an existing link. -/
def laneCmd (t : Nat) (l : Fin 10) (j : Fin 2) (f : State → State) (s : State) : Host.Outcome State Fault Refusal :=
  run t (fun s => s.on .lnk (fun s => s.when (s.laneOk l j) f)) s

/-- A command of one link, and one of TRE that arrives on link l in UP. -/
def linkCmd (t : Nat) (f : State → State) (s : State) : Host.Outcome State Fault Refusal := run t (fun s => s.on .lnk f) s
def treRx (t : Nat) (l : Fin 10) (f : State → State) (s : State) : Host.Outcome State Fault Refusal :=
  run t (fun s => s.on .tre (fun s => s.when (s.linkUp l) f)) s

/-- RATE_HUNT_SWITCH. -/
def execRateHuntSwitch (t : Nat) (l : Fin 10) (j : Fin 2) (s : State) : Host.Outcome State Fault Refusal :=
  laneCmd t l j (fun s => s.rateSwitch l j) s
/-- BLOCK_LOCK. -/
def execBlockLock (t : Nat) (l : Fin 10) (j : Fin 2) (s : State) : Host.Outcome State Fault Refusal :=
  laneCmd t l j (fun s => s.blockLock l j) s
/-- LOCK_LOSS. -/
def execLockLoss (t : Nat) (l : Fin 10) (j : Fin 2) (s : State) : Host.Outcome State Fault Refusal :=
  laneCmd t l j (fun s => s.lockLoss l j) s
/-- LOSS_OF_SIGNAL. -/
def execLossOfSignal (t : Nat) (l : Fin 10) (j : Fin 2) (s : State) : Host.Outcome State Fault Refusal :=
  laneCmd t l j (fun s => s.laneLoss l j true) s
/-- SIGNAL_RETURN. -/
def execSignalReturn (t : Nat) (l : Fin 10) (j : Fin 2) (s : State) : Host.Outcome State Fault Refusal :=
  laneCmd t l j (fun s => s.signalBack l j) s
/-- LINE_BLOCK_RX: the line bits of one block, 130 of them once destuffed. -/
def execLineBlockRx (t : Nat) (l : Fin 10) (j : Fin 2) (line : List Bool) (s : State) : Host.Outcome State Fault Refusal :=
  if (destuff ((s.lane l j).runBit, (s.lane l j).runLen) line).1.length = 130 then laneCmd t l j (fun s => s.lineBlock l j line) s
  else .fault (.malformed "LINE_BLOCK_RX")
/-- FILL_RX. -/
def execFillRx (t : Nat) (l : Fin 10) (j : Fin 2) (scr : BitVec 31) (n : Fin 33) (s : State) : Host.Outcome State Fault Refusal :=
  laneCmd t l j (fun s => s.fillRx l j scr.toNat n) s
/-- HELLO_TX. -/
def execHelloTx (t : Nat) (l : Fin 10) (j : Fin 2) (s : State) : Host.Outcome State Fault Refusal :=
  laneCmd t l j (fun s => s.helloTx l j) s
/-- HELLO_RX. -/
def execHelloRx (t : Nat) (l : Fin 10) (j : Fin 2) (h : Hello) (s : State) : Host.Outcome State Fault Refusal :=
  laneCmd t l j (fun s => s.helloRx l j h) s
/-- REV_SWITCH. -/
def execRevSwitch (t : Nat) (l : Fin 10) (j : Fin 2) (s : State) : Host.Outcome State Fault Refusal :=
  laneCmd t l j (fun s => s.revSwitch l j) s
/-- RELOCK_TIMEOUT. -/
def execRelockTimeout (t : Nat) (l : Fin 10) (j : Fin 2) (s : State) : Host.Outcome State Fault Refusal :=
  laneCmd t l j (fun s => s.relockTimeout l j) s
/-- HELLO_TIMEOUT. -/
def execHelloTimeout (t : Nat) (l : Fin 10) (j : Fin 2) (s : State) : Host.Outcome State Fault Refusal :=
  laneCmd t l j (fun s => s.helloTimeout l j) s
/-- TRAIN_RX. -/
def execTrainRx (t : Nat) (l : Fin 10) (j : Fin 2) (m : Train) (s : State) : Host.Outcome State Fault Refusal :=
  laneCmd t l j (fun s => s.trainRx l j m) s
/-- RX_READY. -/
def execRxReady (t : Nat) (l : Fin 10) (j : Fin 2) (s : State) : Host.Outcome State Fault Refusal :=
  laneCmd t l j (fun s => s.rxReady l j) s
/-- TRAIN_TIMEOUT. -/
def execTrainTimeout (t : Nat) (l : Fin 10) (j : Fin 2) (s : State) : Host.Outcome State Fault Refusal :=
  laneCmd t l j (fun s => s.trainTimeout l j) s
/-- COMPAT_SWEEP_STEP. -/
def execCompatSweepStep (t : Nat) (l : Fin 10) (j : Fin 2) (bad margin : Nat) (s : State) : Host.Outcome State Fault Refusal :=
  laneCmd t l j (fun s => s.sweepStep l j bad margin) s
/-- ALIGN_TX. -/
def execAlignTx (t : Nat) (l : Fin 10) (s : State) : Host.Outcome State Fault Refusal := linkCmd t (fun s => s.alignTx l) s
/-- ALIGN_RX. -/
def execAlignRx (t : Nat) (l : Fin 10) (a b : BitVec 16) (skew : Nat) (s : State) : Host.Outcome State Fault Refusal :=
  linkCmd t (fun s => s.when (s.striped l) (fun s => s.alignRx l a.toNat b.toNat skew)) s
/-- BACKOFF_DONE. -/
def execBackoffDone (t : Nat) (l : Fin 10) (j : Fin 2) (s : State) : Host.Outcome State Fault Refusal :=
  laneCmd t l j (fun s => s.backoffDone l j) s
/-- FRAME_RX: a frame has 1 to 32 data blocks of 16 bytes. -/
def execFrameRx (t : Nat) (l : Fin 10) (f : RxFrame) (s : State) : Host.Outcome State Fault Refusal :=
  if f.data.length % 16 = 0 then linkCmd t (fun s => s.frameRx l f) s else .fault (.malformed "FRAME_RX")
/-- ACK_RX. -/
def execAckRx (t : Nat) (l : Fin 10) (n : BitVec 16) (s : State) : Host.Outcome State Fault Refusal :=
  linkCmd t (fun s => s.when (s.linkUp l && (s.link l).reading && !(s.link l).discard) (fun s => s.lnkAck l n.toNat)) s
/-- NAK_RX. -/
def execNakRx (t : Nat) (l : Fin 10) (n : BitVec 16) (s : State) : Host.Outcome State Fault Refusal :=
  linkCmd t (fun s => s.nakRx l n.toNat) s
/-- ACK_TX. -/
def execAckTx (t : Nat) (l : Fin 10) (s : State) : Host.Outcome State Fault Refusal := linkCmd t (fun s => s.ackTx l) s
/-- REPLAY_TIMEOUT. -/
def execReplayTimeout (t : Nat) (l : Fin 10) (s : State) : Host.Outcome State Fault Refusal := linkCmd t (fun s => s.replayTimeout l) s
/-- HEART_TX. -/
def execHeartTx (t : Nat) (l : Fin 10) (s : State) : Host.Outcome State Fault Refusal := linkCmd t (fun s => s.heartTx l) s
/-- HEART_RX. -/
def execHeartRx (t : Nat) (l : Fin 10) (h : Heart) (s : State) : Host.Outcome State Fault Refusal :=
  linkCmd t (fun s => s.heartRx l h) s
/-- SILENT. -/
def execSilent (t : Nat) (l : Fin 10) (s : State) : Host.Outcome State Fault Refusal := linkCmd t (fun s => s.silent l) s
/-- RESTRIPE_RX. -/
def execRestripeRx (t : Nat) (l : Fin 10) (lanes : BitVec 2) (ack : Bool) (s : State) : Host.Outcome State Fault Refusal :=
  linkCmd t (fun s => s.when (s.linkUp l && lanes != 0) (fun s => s.restripeRx l lanes.toNat ack)) s
/-- LANE_REJOIN. -/
def execLaneRejoin (t : Nat) (l : Fin 10) (s : State) : Host.Outcome State Fault Refusal := linkCmd t (fun s => s.laneRejoin l) s
/-- PORT_ABORT: the bits written. -/
def execPortAbort (t : Nat) (m : BitVec 6) (s : State) : Host.Outcome State Fault Refusal :=
  linkCmd t (fun s => s.portAbort m.toNat) s
/-- RETRAIN: the bits written. -/
def execRetrain (t : Nat) (l : Fin 10) (m : BitVec 2) (s : State) : Host.Outcome State Fault Refusal :=
  linkCmd t (fun s => s.retrain l m.toNat) s

/-- ENUM_RX. -/
def execEnumRx (t : Nat) (l : Fin 10) (src root : BitVec 32) (hop : BitVec 16) (assign feat : BitVec 32) (s : State) :
    Host.Outcome State Fault Refusal :=
  treRx t l (fun s => s.enumRx l src.toNat root.toNat hop.toNat assign.toNat feat.toNat) s
/-- ENUM_REPLY_RX. -/
def execEnumReplyRx (t : Nat) (l : Fin 10) (id parent : BitVec 32) (role : BitVec 1) (feat : BitVec 32) (fw : BitVec 16)
    (rev : BitVec 8) (s : State) : Host.Outcome State Fault Refusal :=
  treRx t l (fun s => s.enumReplyRx l id.toNat parent.toNat role.toNat feat.toNat fw.toNat rev.toNat) s
/-- ENUM_REPLY_TIMEOUT. -/
def execEnumReplyTimeout (t : Nat) (s : State) : Host.Outcome State Fault Refusal := run t (fun s => s.on .tre State.replyTimeout) s
/-- ENUM_WAIT_TIMEOUT. -/
def execEnumWaitTimeout (t : Nat) (s : State) : Host.Outcome State Fault Refusal := run t (fun s => s.on .tre State.enumWait) s
/-- ENUM_START. -/
def execEnumStart (t : Nat) (s : State) : Host.Outcome State Fault Refusal := run t (fun s => s.on .tre State.enumStart) s
/-- CLAIM_RX. -/
def execClaimRx (t : Nat) (l : Fin 10) (no : BitVec 32) (s : State) : Host.Outcome State Fault Refusal :=
  treRx t l (fun s => s.claimRx l no.toNat) s
/-- CLAIM_ACK_RX. -/
def execClaimAckRx (t : Nat) (l : Fin 10) (no : BitVec 32) (result : BitVec 1) (held : BitVec 32) (s : State) :
    Host.Outcome State Fault Refusal :=
  treRx t l (fun s => s.claimAckRx l no.toNat result.toNat held.toNat) s
/-- LOST_RX. -/
def execLostRx (t : Nat) (l : Fin 10) (held : BitVec 32) (s : State) : Host.Outcome State Fault Refusal :=
  treRx t l (fun s => s.lostRx l held.toNat) s
/-- LOST_TIMEOUT. -/
def execLostTimeout (t : Nat) (s : State) : Host.Outcome State Fault Refusal := run t (fun s => s.on .tre State.lostTimeout) s
/-- DEMOTE_RX. -/
def execDemoteRx (t : Nat) (l : Fin 10) (no : BitVec 32) (s : State) : Host.Outcome State Fault Refusal :=
  treRx t l (fun s => s.demoteRx l no.toNat) s
/-- STBY_OK_RX. -/
def execStbyOkRx (t : Nat) (l : Fin 10) (child : BitVec 32) (grant : Bool) (s : State) : Host.Outcome State Fault Refusal :=
  treRx t l (fun s => s.stbyRx l child.toNat grant) s
/-- HORIZON_RX. -/
def execHorizonRx (t : Nat) (l : Fin 10) (tick : BitVec 48) (claim : BitVec 32) (cnt : Vector (BitVec 64) 4) (held : List HeldName)
    (s : State) : Host.Outcome State Fault Refusal :=
  if held.length ≤ 16 then
    treRx t l (fun s => s.horizonRx l tick.toNat claim.toNat (cnt.toList.map (·.toNat))
      (held.map (fun h => (h.mod_.toNat, h.stream.toNat, h.seq.toNat)))) s
  else .fault (.malformed "HORIZON_RX")
/-- MERGE_HORIZON_ADVANCE. -/
def execMergeHorizonAdvance (t : Nat) (s : State) : Host.Outcome State Fault Refusal :=
  run t (fun s => s.on .tre (fun s => s.rxPumps.horizonAdvance.treDrained)) s
/-- MERGE_GIVE_UP. -/
def execMergeGiveUp (t : Nat) (l : Fin 10) (s : State) : Host.Outcome State Fault Refusal :=
  run t (fun s => s.on .tre (fun s => s.giveUp l)) s
/-- HELD_DELIVERY. -/
def execHeldDelivery (t : Nat) (l : Fin 10) (s : State) : Host.Outcome State Fault Refusal := treRx t l (fun s => s.heldDelivery l) s
/-- CONFIRM_TX. -/
def execConfirmTx (t : Nat) (l : Fin 10) (s : State) : Host.Outcome State Fault Refusal := treRx t l (fun s => s.confirmTx l) s
/-- CONFIRM_RX. -/
def execConfirmRx (t : Nat) (l : Fin 10) (conf : Vector (BitVec 64) 4) (s : State) : Host.Outcome State Fault Refusal :=
  treRx t l (fun s => s.confirmRx l (conf.toList.map (·.toNat))) s
/-- TOPO_RX. -/
def execTopoRx (t : Nat) (l : Fin 10) (child parent no : BitVec 32) (s : State) : Host.Outcome State Fault Refusal :=
  treRx t l (fun s => s.topoRx l child.toNat parent.toNat no.toNat) s
/-- FEATSET_RX. -/
def execFeatsetRx (t : Nat) (l : Fin 10) (feat : BitVec 32) (tick : BitVec 48) (s : State) : Host.Outcome State Fault Refusal :=
  treRx t l (fun s => s.featRx feat.toNat tick.toNat) s
/-- CLAIM_REQ: the bits written, accepted from OWN only (table Trees-11). -/
def execClaimReq (t : Nat) (m : BitVec 10) (own : Bool) (s : State) : Host.Outcome State Fault Refusal :=
  run t (fun s => s.on .tre (fun s => if own then s.claimReq m.toNat else s)) s
/-- ROLE_SW_WRITE. -/
def execRoleSwWrite (t : Nat) (v : BitVec 2) (s : State) : Host.Outcome State Fault Refusal :=
  run t (fun s => s.on .tre (fun s => s.roleSw v.toNat)) s

end Sys2Proof.Machine
end

