-- ==== Sys2Proof/Machine/Abort.lean ====
section
/-! DEFINITION. Aborts of the front end, of the TDC and of a region, region drains, and SAFE entry (R47, R70, R119, R322). -/

namespace Sys2Proof.Machine

open Sys2Proof

/-- FE_ABORT of region r (R47): its pixels quenched, its open windows and the transfer cut, FE_EN clear. -/
def State.feAbort (s : State) (r : Fin 16) : State :=
  let s := (s.dropWins r).cutTransfer r
  let s := s.setPfeR r { s.pfeR r with hold := [], testEnd := [], finalOwed := false }
  s.wrB .pfer_FE_EN r false

/-- TDC_ABORT of region r (R70): windows, queue, reorder store and engine words discarded, the EVENT packet cut, TDC_EN clear. -/
def State.tdcAbort (s : State) (r : Fin 16) : State :=
  let s := (((s.dropWins r).dropQueue r).evbDrop r).abortEvents r
  let s := s.setTdcR r { s.tdcR r with draining := false, endTick := none }
  (s.headFlag r s.seq.k hfTrunc).wrB .tdcr_TDC_EN r false

/-- A region abort (R119): PFE and TDC as above, frames, accumulators, histograms, windows and open packets cut, injection
stopped; the mode word becomes 0 at the next boundary. -/
def State.regionAbort (s : State) (r : Fin 16) : State :=
  let s := (((s.dropWins r).dropQueue r).evbDrop r)
  let s := ((((s.frameAbort r).hstAbort r).winAbort r).cmpAbort r)
  let s := s.upRec r s.seq.k (fun c => { c with cut := true })
  let s := s.setPfeR r { s.pfeR r with hold := [], testEnd := [], finalOwed := false, injDue := [], injLeft := 0, injSync := 0 }
  let s := s.setTdcR r { s.tdcR r with draining := false, endTick := none }
  let s := (((s.headFlag r s.seq.k hfTrunc).wrB .tdcr_TDC_EN r false).wrB .pfer_FE_EN r false).wrB .pfer_INJ_EN r false
  { s with seq := { s.seq with
      zero := setBit s.seq.zero r true, safeKeep := setBit s.seq.safeKeep r false, aborted := if s.mode r = 0 then s.seq.aborted else setBit s.seq.aborted r true, draining := s.seq.draining.set r 0, drainOrd := setBit s.seq.drainOrd r false } }

/-- The regions of a mask aborted. -/
def State.regionsAbort (s : State) (m : Nat) : State :=
  s.each ((List.finRange 16).filter (fun r : Fin 16 => bit m r)) (fun r s => s.regionAbort r)

/-- A drain a fault orders: the mode word of region r becomes 0 at the next boundary, where its modes drain (R118). -/
def State.regionDrain (s : State) (r : Fin 16) : State := { s with seq := { s.seq with fdrain := setBit s.seq.fdrain r true } }

/-- The power state in PWR_STATE. -/
def Pwr.code : Pwr → Nat
  | .off => 0 | .start => 0 | .standby => 1 | .ready => 2 | .acquire => 3 | .safe => 4

/-- The power state changes. -/
def State.setPwr (s : State) (p : Pwr) : State := State.wr { s with pwr := p } .pmr_PWR_STATE 0 p.code

/-- The blocks table Architecture-7 does not power in STANDBY resume (R378). -/
def State.standbyResume (s : State) : State :=
  let s := s.each (List.finRange 16) (fun r s =>
    let x := s.tdcR r
    let g := x.g.map TdcGroup.resume
    let s := s.setTdcR r { x with g := g, wins := [], queue := [] }
    let y := s.cmpR r
    let s := s.setCmpR r { y with ctx := y.ctx.map Ctx.restart }
    let z := s.evbR r
    let s := s.setEvbR r { z with store := [], ring := [], wins := [] }
    let s := (s.setHstR r { s.hstR r with bins := [], coal := [], dump := none, due := [], gates := [], gateOpen := false }).setAccR r {}
    s.setPfeR r { s.pfeR r with hotRun := [], counts := [], next := [], hold := [], testEnd := [] })
  let aux (a : AuxCh) : AuxCh := { a with i0 := a.i0.resume, i1 := a.i1.resume }
  { s with tdc := { s.tdc with aux := s.tdc.aux.map aux } }

/-- SAFE is entered (R20, R322): the drivers of TRIG_OUT off the bus, lanes to IDLE, every bias crowbarred, every region
aborted with the shadow kept (R356), record 0x1304. cls and unit are the cause's, 0 for a command. -/
def State.safeNow (s : State) (cls unit : Nat) : State :=
  let s := (s.wrB .flt_SAFE_ACT 0 true).emit 0x1304 (cls + unit <<< 8)
  let s := if s.pwr == .standby then s.standbyResume else s
  let s := (((s.setPwr .safe).wrB .pmr_ACQ_ENABLED 0 false).trigRelease).lnkSafe
  let s := s.crowbarAll
  let kept := s.shadow
  let s := s.regionsAbort 0xFFFF
  { s with shadow := kept, seq := { s.seq with safeAt := some s.clock, safeKeep := 0xFFFF }, pmr := { s.pmr with standbyPend := none, upAt := none } }

/-- The SAFE line is driven; in START the state stays (R322). -/
def State.enterSafe (s : State) (cls unit : Nat) : State :=
  if s.pwr == .off then s
  else if s.pwr == .start then s.wrB .flt_SAFE_ACT 0 true
  else s.safeNow cls unit

end Sys2Proof.Machine
end

