-- ==== Sys2Proof/Machine/Flt.lean ====
section
/-! DEFINITION. FLT: escalation, reactions, shadows, the log, acknowledge and clear, and fault injection (R313 to R325). -/

namespace Sys2Proof.Machine

open Sys2Proof

def State.fltUpd (s : State) (f : Flt → Flt) : State := { s with flt := f s.flt }

/-! ### Class records (tables Faults-9 and Faults-11) -/

/-- The entries of one side of a class. -/
def State.side (s : State) (c : Nat) (inj : Bool) : List FEnt := s.flt.ents.filter (fun e => e.cls == c && e.inj == inj)

/-- The highest level among entries; 7 for none. -/
def topLevel (l : List FEnt) : Nat :=
  match l with
  | [] => 7
  | _ => l.foldl (fun a e => max a e.lvl) 0

/-- STATE of a side: 0 clear, 1 an entry RAISED, 2 all ACKNOWLEDGED. -/
def sideState (l : List FEnt) : Nat := if l.isEmpty then 0 else if l.any (·.raised) then 1 else 2

/-- A detector of class c reports a standing condition (R318). -/
def State.condOf (s : State) (c : Nat) : Bool :=
  let lim (p : Nat → Bool) : Bool := (List.finRange 32).any (fun i : Fin 32 => p i && ((s.hkaIn i).out1.isSome || 4 ≤ (s.hkaIn i).out4))
  if c = clsBias then s.flag .sns_BIAS_FROZEN
  else if c = clsSupply then lim (fun i => isRailIn i && railOf i != 0)
  else if c = clsOverTemp then lim (fun i => i % 8 == 7)
  else if c = clsTdc then s.flag .tdc_CLK_BAD
  else if c = clsTimebase then s.flag .tbs_REF_LOST || s.flag .tbs_HOLDOVER
  else if c = clsLink then (List.finRange 10).any (fun l : Fin 10 => !s.linkUp l && s.flt.ents.any (fun e => e.cls == clsLink && e.unit == unitLink l))
  else if c = clsTopology then s.rd .lnk_MISWIRE != 0
  else if c = clsHousekeeping then s.rd .hka_RTD_OPEN != 0
  else if c = clsControl then s.rd .flt_MEM_A == 2 || s.rd .flt_MEM_B == 2 || s.rd .flt_MEM_C == 2
  else false

/-- The records of every class and MAX_LEVEL brought up to date. -/
def State.fltRegs (s : State) : State :=
  let s := s.each (List.range 15) (fun j s =>
    let i := j + 1
    let a := s.side i false
    let b := s.side i true
    ((((s.wr .flt_LEVEL i (topLevel a)).wr .flt_STATE i (sideState a)).wr .flt_INJ_LVL_NOW i (topLevel b)).wr .flt_INJ_STATE i
      (sideState b)))
  s.wr .flt_MAX_LEVEL 0 (topLevel (s.flt.ents.filter (fun e => !e.inj)))

/-- FAULT_N is pulled low by this module (R319). -/
def State.faultN (s : State) : Bool :=
  s.alive .flt && s.flt.ents.any (fun e => 1 ≤ e.lvl && (!e.inj || s.flag .flt_INJ_ACT))

/-- FAULT_N is sensed low: by this module's own pull or another's on the wire (R319). -/
def State.faultLine (s : State) : Bool := s.faultN || Config.faultLine s.clock

/-- A level 4 fault stands that holds SAFE (R18). -/
def State.level4 (s : State) : Bool := s.flt.ents.any (fun e => e.lvl == 4 && (!e.inj || e.perf))

/-! ### Shadows (R320, R321, R325, table Faults-3) -/

def Scope.covers (c : Scope) (u : Nat) : Bool :=
  match c with
  | .unit v => u == v
  | .regions => u / 4096 == 1
  | .all => true

/-- The open shadows that make a fault CONSEQUENTIAL. -/
def State.covering (s : State) (cls unit : Nat) (inj : Bool) : List Shadow :=
  if cls == clsOverCurrent || cls == clsSupply || cls == clsOverTemp || (cls == clsControl && unit / 4096 == 0) then []
  else s.flt.shadows.filter (fun h =>
    s.clock < h.till && h.classes.contains cls && h.scope.covers unit && (if inj then h.inj else !h.inj || h.perf))

/-- A shadow of SHADOW_US opens; none with SHADOW_US 0. -/
def State.openShadow (s : State) (classes : List Nat) (scope : Scope) (inj perf : Bool) : State :=
  let n := s.rd .flt_SHADOW_US
  if n = 0 then s
  else s.fltUpd (fun f => { f with shadows := f.shadows ++ [⟨s.clock + n * usFu, classes, scope, inj, perf⟩] })

def shBias : List Nat := [clsBias, clsTick]
def shDrain : List Nat := [clsTick, clsCompression]
def shAbort : List Nat := [clsTick, clsCompression, clsTdc, clsMemory]
def shSafe : List Nat :=
  [clsBias, clsTick, clsCompression, clsTdc, clsMemory, clsLink, clsTopology, clsTimebase, clsTrigger]

/-! ### Reactions (R314, table Faults-1) -/

/-- The regions a unit stands for, by bit. -/
def unitRegions (u : Nat) : Nat := if u / 4096 = 1 then 2 ^ (u % 4096) % 2 ^ 16 else if u = 0 then 0xFFFF else 0

/-- The shadow of a region action on a unit. -/
def State.regionShadow (s : State) (classes : List Nat) (u : Nat) (inj perf : Bool) : State :=
  s.openShadow classes (if u / 4096 = 1 then .unit u else .regions) inj perf

/-- The unit's regions drained. -/
def State.actDrain (s : State) (u : Nat) (inj act : Bool) : State :=
  if s.flag .flt_SAFE_ACT then s
  else (s.when act (fun s => s.each ((List.finRange 16).filter (fun r : Fin 16 => bit (unitRegions u) r)) (fun r s =>
    s.regionDrain r))).regionShadow shDrain u inj act

/-- The regions of mask m of the unit aborted. -/
def State.actAbort (s : State) (u m : Nat) (inj act : Bool) : State :=
  if s.flag .flt_SAFE_ACT then s else (s.when act (fun s => s.regionsAbort (unitRegions u &&& m))).regionShadow shAbort u inj act

/-- The shadow of a link taken down or retrained; par says that it served the time parent. -/
def State.linkShadow (s : State) (u : Nat) (inj act par : Bool) : State :=
  let s := s.openShadow [clsLink, clsTopology] (.unit u) inj act
  if par then s.openShadow [clsTimebase] (.unit unitModule) inj act else s

/-- The regions in which a mode that takes event words is in force, by bit. -/
def State.tdcRegions (s : State) : Nat := (List.range 16).foldl (fun a r => a + (if s.tdcMode r then 2 ^ r else 0)) 0

/-- The field of CORE_STAT that holds the state of member m. -/
def memField (m : Nat) : Fld := if m = 0 then .flt_MEM_A else if m = 1 then .flt_MEM_B else .flt_MEM_C

/-- A core member is retired, with its record, once (R325, R328). -/
def State.retire (s : State) (m : Nat) : State :=
  if s.rd (memField m) == 2 then s else (s.wr (memField m) 0 2).emit 0x1307 m

/-- The level 2 action of a class. own says that the detector has taken it. -/
def State.react2 (s : State) (cls u : Nat) (inj act own par : Bool) : State :=
  if cls = clsBias then
    if s.flag .flt_SAFE_ACT then s else (s.when act State.rampDownAll).regionShadow shBias u inj act
  else if cls = clsOverCurrent then
    if own || s.flag .flt_SAFE_ACT then s
    else (s.when act (fun s => s.each ((List.finRange 16).filter (fun r : Fin 16 => bit (unitRegions u) r)) (fun r s =>
      (s.crowbar r).wrB .sns_OC_TRIP r true))).regionShadow shBias u inj act
  else if cls = clsSupply || cls = clsOverTemp then s.actDrain unitModule inj act
  else if cls = clsTick || cls = clsCompression then s.actDrain u inj act
  else if cls = clsMemory then (if u / 4096 = 1 then s.actDrain u inj act else s)
  else if cls = clsLink then
    if own then s
    else (s.when act (fun s => s.each ((List.finRange 10).filter (fun l : Fin 10 => unitLink l == u)) (fun l s =>
      s.takeDownQuiet l))).linkShadow u inj act par
  else if cls = clsControl && u / 4096 == 5 && !own then
    (s.when act (fun s => s.retire (u % 4096))).openShadow [clsControl] (.unit u) inj act
  else s

/-- The level 3 action of a class; a region abort takes every region of the unit, its bias enabled or not (log entry 195). -/
def State.react3 (s : State) (cls u : Nat) (inj act par : Bool) : State :=
  if cls = clsBias then
    if s.flag .flt_SAFE_ACT then s
    else ((s.actAbort unitModule 0xFFFF inj act).when act State.rampDownAll).regionShadow shBias unitModule inj act
  else if cls = clsSupply || cls = clsOverTemp then s.actAbort unitModule 0xFFFF inj act
  else if cls = clsOverCurrent || cls = clsTick || cls = clsCompression then s.actAbort u 0xFFFF inj act
  else if cls = clsTdc then
    if u / 4096 = 1 then (if bit s.tdcRegions (u % 4096) then s.actAbort u 0xFFFF inj act else s)
    else
      let m := s.tdcRegions
      if s.flag .flt_SAFE_ACT then s
      else (s.when act (fun s => s.regionsAbort m)).each (bitsSet m 16) (fun r s => s.openShadow shAbort (.unit (unitRegion r)) inj act)
  else if cls = clsMemory then (if u / 4096 = 1 then s.actAbort u 0xFFFF inj act else s)
  else if cls = clsLink then
    (s.when act (fun s => s.each ((List.finRange 10).filter (fun l : Fin 10 => unitLink l == u)) (fun l s => s.retrain l 3))).linkShadow u
      inj act par
  else s

/-- The shadow of the action the detector of a real fault has taken itself, where table Faults-3 lists it: an over-current region
crowbarred, a link restriped or taken down, a core member resynchronised or retired. An injected fault has no detector. -/
def State.ownShadow (s : State) (d : Det) (par : Bool) : State :=
  if d.inj then s
  else if d.cls = clsOverCurrent then (if s.flag .flt_SAFE_ACT then s else s.regionShadow shBias d.unit false true)
  else if (d.ev.map (·.1)) == some 0x0E01 then s.openShadow [clsLink] (.unit d.unit) false true
  else if d.cls = clsLink && d.lvl == 2 then s.linkShadow d.unit false true par
  else if d.cls = clsControl && d.unit / 4096 == 5 then s.openShadow [clsControl] (.unit d.unit) false true
  else s

/-- The reaction to a fault raised at level lvl. One at level 4 raised in SAFE also drops a READY command still waiting for its boundary
(log entry 202). -/
def State.react (s : State) (d : Det) (lvl : Nat) (act : Bool) : State :=
  let par := d.par || s.timeParent == some (d.unit % 4096)
  let s := s.ownShadow d par
  if lvl = 2 then s.react2 d.cls d.unit d.inj act (!d.inj && d.lvl == 2) par
  else if lvl = 3 then s.react3 d.cls d.unit d.inj act par
  else if lvl = 4 then
    if s.flag .flt_SAFE_ACT then s.when act (fun s => { s with pmr := { s.pmr with upAt := none } })
    else (s.when act (fun s => s.enterSafe d.cls d.unit)).openShadow shSafe .all d.inj act
  else s

/-! ### Taking a fault (R315 to R317) -/

/-- The level at which a fault is raised: raised by one above what stands RAISED on its side. -/
def escalated (d : Nat) (raised : List FEnt) : Nat :=
  match raised with
  | [] => d
  | _ => min 4 (max d (raised.foldl (fun a e => max a e.lvl) 0) + 1)

/-- One fault raised: its entry, its counts, its log entry and its one record, then its reaction. -/
def State.raise (s : State) (d : Det) : State :=
  let act := !d.inj || s.flag .flt_INJ_ACT
  let cov := s.covering d.cls d.unit d.inj
  let conseq := !cov.isEmpty
  let byInj := !d.inj && conseq && cov.any (·.inj)
  let lvl := if conseq then 0 else escalated d.lvl ((s.side d.cls d.inj).filter (fun e => e.raised && 1 ≤ e.lvl))
  let esc := decide (d.lvl < lvl)
  let i := d.cls
  let s := s.fltUpd (fun f => { f with ents := f.ents ++ [⟨d.cls, lvl, d.unit, d.inj, decide (0 < lvl), d.inj && act⟩] })
  let s := if d.inj then s.bump .flt_INJ_RAISED i else (s.bump .flt_RAISED i).wr .flt_LAST_UNIT i d.unit
  let s := (s.when esc (fun s => s.bump .flt_ESCALATED i)).when conseq (fun s => s.bump .flt_CONSEQ i)
  let ev := d.ev.getD (0x1301, d.unit + d.lvl <<< 16)
  let now := s.tbNow
  let e : FLog := {
    cls := d.cls, lvl := lvl, det := d.lvl, inj := d.inj || byInj, real_ := !d.inj, conseq := conseq, esc := esc, sim := !act,
    unit := d.unit, ev := ev.1, ns := now / nsFu % 1000000000, sec := now / secFu % 2 ^ 32 }
  let s := (s.fltUpd (fun f => { f with log := (e :: f.log).take 256 })).bump .flt_LOG_HEAD 0
  let s := s.emitAs lvl d.cls (2 * b2n e.inj + 4 * b2n e.real_ + 8 * b2n conseq) ev.1 ev.2
  let s := match d.more with
    | some m => s.emit m.1 m.2
    | none => s
  (s.when (!conseq) (fun s => s.react d lvl act)).fltRegs

/-- A detected fault comes before another: by its class, its unit (R315). -/
def Det.before (a b : Det) : Bool := a.cls < b.cls || (a.cls == b.cls && a.unit < b.unit)

/-- The first of the faults detected by the instant now, and the others in their order. -/
def firstDet (now : Nat) : List Det → Option (Det × List Det)
  | [] => none
  | d :: l =>
    match firstDet now l with
    | none => if d.at_ ≤ now then some (d, l) else none
    | some (e, rest) => if now < d.at_ || e.before d then some (e, d :: rest) else some (d, l)

/-- FLT takes one of the faults its detectors have found by now, the first by class and unit, so that those taken on one clock follow R315
(log entry 180). -/
def State.faultTake (s : State) : State :=
  match firstDet s.clock s.detected with
  | none => s
  | some (d, rest) => State.raise { s with detected := rest } d

/-- The shadows that are over close. -/
def State.shadowExpiry (s : State) : State := s.fltUpd (fun f => { f with shadows := f.shadows.filter (fun h => s.clock < h.till) })

/-! ### Acknowledge, clear, injection (R318, R324) -/

/-- One class acknowledged on one side. -/
def State.ack1 (s : State) (inj : Bool) (c : Nat) : State :=
  ((s.fltUpd (fun f => { f with ents := f.ents.map (fun e : FEnt => if e.cls == c && e.inj == inj then { e with raised := false } else e) })).emit
    0x1302 (c + b2n inj <<< 8)).fltRegs

/-- One class cleared on one side, or refused. -/
def State.clr1 (s : State) (inj own : Bool) (c : Nat) : State :=
  let l := s.side c inj
  if l.any (·.raised) || s.condOf c || (l.any (fun e => e.lvl == 4) && !own) then s.wrB .flt_CLR_REFUSED 0 true
  else ((s.fltUpd (fun f => { f with ents := f.ents.filter (fun e => !(e.cls == c && e.inj == inj)) })).emit 0x1303
    (c + b2n inj <<< 8)).fltRegs

/-- Bits of ACK and CLR: bit i of m is class i + 1. -/
def State.ackMask (s : State) (inj : Bool) (m : Nat) : State := s.each (bitsSet m 15) (fun i s => s.ack1 inj (i + 1))
def State.clrMask (s : State) (inj own : Bool) (m : Nat) : State := s.each (bitsSet m 15) (fun i s => s.clr1 inj own (i + 1))

/-- The unit kinds table Faults-1 gives for a class, as the top digit of the unit code. -/
def unitKinds (c : Nat) : List Nat :=
  if c = clsOverCurrent || c = clsCompression then [1]
  else if c = clsOverTemp then [4]
  else if c = clsTick || c = clsTdc || c = clsMemory then [0, 1]
  else if c = clsLink then [2]
  else if c = clsTopology then [0, 2]
  else if c = clsHousekeeping then [0, 3]
  else if c = clsControl then [0, 5]
  else [0]

/-- INJ_GO: an injected fault is handed to FLT, or refused with CFG_ERR. -/
def State.injGo (s : State) : State :=
  let u := s.rd .flt_INJ_UNIT
  let c := s.rd .flt_INJ_CLASS
  let soon := match s.flt.injAt with
    | some a => decide (s.clock < a + usFu)
    | none => false
  let s := s.fltUpd (fun f => { f with injAt := some s.clock })
  if soon || !(unitKinds c).contains (u / 4096) then s.wrB .flt_CFG_ERR 0 true
  else { s with detected := s.detected ++ [{ cls := c, lvl := s.rd .flt_INJ_LEVEL, unit := u, at_ := s.clock, inj := true }] }

/-! ### The commands -/

/-- FAULT_TAKE. -/
def execFaultTake (t : Nat) (s : State) : Host.Outcome State Fault Refusal := run t (fun s => s.on .flt State.faultTake) s
/-- SHADOW_EXPIRY. -/
def execShadowExpiry (t : Nat) (s : State) : Host.Outcome State Fault Refusal := run t (fun s => s.on .flt State.shadowExpiry) s
/-- ACK_REAL: bit i of m acknowledges class i + 1. -/
def execAckReal (t : Nat) (m : BitVec 15) (s : State) : Host.Outcome State Fault Refusal :=
  run t (fun s => s.on .flt (fun s => s.ackMask false m.toNat)) s
/-- ACK_INJ. -/
def execAckInj (t : Nat) (m : BitVec 15) (s : State) : Host.Outcome State Fault Refusal :=
  run t (fun s => s.on .flt (fun s => s.ackMask true m.toNat)) s
/-- CLR_REAL; own says that the writer's level is OWN. -/
def execClrReal (t : Nat) (m : BitVec 15) (own : Bool) (s : State) : Host.Outcome State Fault Refusal :=
  run t (fun s => s.on .flt (fun s => s.clrMask false own m.toNat)) s
/-- CLR_INJ. -/
def execClrInj (t : Nat) (m : BitVec 15) (own : Bool) (s : State) : Host.Outcome State Fault Refusal :=
  run t (fun s => s.on .flt (fun s => s.clrMask true own m.toNat)) s
/-- INJ_GO. -/
def execInjGo (t : Nat) (s : State) : Host.Outcome State Fault Refusal := run t (fun s => s.on .flt State.injGo) s

end Sys2Proof.Machine
end

