-- ==== Sys2Proof/Machine/Eth.lean ====
section
/-! DEFINITION. ETH: the port and its filter, addresses, and the RDMA requester (R265 to R281, R283, R294). -/

namespace Sys2Proof.Machine

open Sys2Proof

def State.ethUpd (s : State) (f : Eth → Eth) : State := { s with eth := f s.eth }

/-! ### Addresses (R269) -/

/-- The address in force; 0 while none is held. -/
def State.myIp (s : State) : Nat := if s.flag .eth_ADDR_VALID then s.rd .eth_IP_IN_USE else 0

/-- An ARP, DHCP or ICMP frame put on the line, with its VLAN tag (R267). -/
def State.sayArp (s : State) (req : Bool) (ip dst : Nat) : State := { s with out := .arp req ip dst s.ctlTag :: s.out }
def State.sayDhcp (s : State) (ty xid : Nat) : State := { s with out := .dhcp ty xid s.ctlTag :: s.out }
def State.sayIcmp (s : State) (dst id : Nat) : State := { s with out := .icmp dst id s.ctlTag :: s.out }

/-- The link-local address of R292, held while PROVISION_EN is taken as high. -/
def State.linkLocal (s : State) : Nat :=
  let m := s.rd .eth_MAC_ADDR
  169 * 2 ^ 24 + 254 * 2 ^ 16 + (1 + bits m 8 8 % 254) * 2 ^ 8 + (1 + bits m 0 8 % 254)

/-- The port can send anything but DHCP. -/
def State.canSend (s : State) : Bool := s.flag .eth_LINK_UP && s.flag .eth_ADDR_VALID

/-- The gratuitous ARP of the address taken goes out as soon as the link is up (R269). -/
def State.sayGarp (s : State) : State :=
  if s.eth.garp && s.canSend then (s.ethUpd (fun e => { e with garp := false })).sayArp true (s.rd .eth_IP_IN_USE) 0 else s

/-- The address is given up. -/
def State.dropIp (s : State) : State :=
  if s.flag .eth_ADDR_VALID then ((s.wr .eth_IP_IN_USE 0 0).wrB .eth_ADDR_VALID 0 false).emit 0x1002 0 else s

/-- A DHCP message of a new exchange goes out, with a transaction ID of its own choice; the next follows 4 s later if it is not answered. -/
def State.dhcpNew (s : State) (st ty : Nat) : State :=
  let x := Config.freeValue s.free % 2 ^ 32
  let s := (s.fresh).ethUpd (fun e => { e with dhcp := st, xid := x, dhcpAt := s.clock, backoff := 4 })
  if s.flag .eth_LINK_UP then s.sayDhcp ty x else s

/-- A DHCP exchange begins: DISCOVER. -/
def State.solicit (s : State) : State := s.dhcpNew 1 1

/-- A client that waits for an answer sends its message again 4, 8, 16, 32 and then every 64 s after the last (R269, RFC 2131 4.1;
DEDUCED, log entry 215). -/
def State.dhcpAgain (s : State) : State :=
  let e := s.eth
  if s.flag .eth_LINK_UP && s.flag .eth_DHCP_EN && (e.dhcp == 1 || e.dhcp == 2) && e.dhcpAt + e.backoff * secFu ≤ s.clock then
    (s.ethUpd (fun e => { e with dhcpAt := s.clock, backoff := min 64 (2 * e.backoff) })).sayDhcp (if e.dhcp == 1 then 1 else 3) e.xid
  else s

/-- Seconds of the lease left. -/
def State.leaseLeft (s : State) : Nat :=
  if 3 ≤ s.eth.dhcp then s.eth.lease - (s.clock - s.eth.leaseAt) / secFu else 0

/-- A share num / 8 of the lease is over. -/
def State.leaseAt (s : State) (num : Nat) : Bool := 3 ≤ s.eth.dhcp && num * s.eth.lease * secFu ≤ 8 * (s.clock - s.eth.leaseAt)

/-- Renewing and rebinding send a REQUEST of a new exchange. -/
def State.renew (s : State) (st : Nat) : State := s.dhcpNew st 3

/-! ### ARP (R269, R274) -/

/-- The next hop of a destination: itself on the subnet, else the gateway. -/
def State.nextHop (s : State) (dst : Nat) : Nat :=
  if dst &&& s.eth.mask == s.rd .eth_IP_IN_USE &&& s.eth.mask then dst else s.eth.gw

/-- A request for a next hop, the first of three. -/
def State.arpAsk (s : State) (ip : Nat) : State :=
  if !s.canSend || s.eth.waits.any (fun w => w.ip == ip) then s
  else
    let s := s.ethUpd (fun e => { e with waits := e.waits ++ [⟨ip, 1, s.clock⟩] })
    s.sayArp true ip 0

/-- The next hop of QP q is unresolved: one event record, and another try a second later (R274). -/
def State.qpUnresolved (s : State) (q : Fin 8) : State :=
  let x := s.qp q
  (s.setQp q { x with told := true, failAt := some s.clock }).when (!x.told) (fun s => s.emit 0x1006 q)

/-- A QP in RESOLVING: RUN once its next hop is known; unresolved where the module cannot ask for it, without link, address or gateway. -/
def State.qpResolve (s : State) (q : Fin 8) : State :=
  if s.rd .eth_QP_STATE q != qpResolving then s
  else
    let hop := s.nextHop (s.rd .eth_DEST_IP q)
    if !s.canSend || hop == 0 then s.qpUnresolved q
    else if s.eth.arp.any (fun e => e.1 == hop) then s.wr .eth_QP_STATE q qpRun
    else s.arpAsk hop

/-- Every QP in RESOLVING looks for its next hop. -/
def State.resolveAll (s : State) : State := s.each (List.finRange 8) (fun q s => s.qpResolve q)

/-- QP_RESOLVE_RETRY: a second after its next hop was found unresolved, a QP in RESOLVING asks for it again (R274). -/
def State.resolveRetry (s : State) (q : Fin 8) : State :=
  let x := s.qp q
  match x.failAt with
  | some t => if t + secFu ≤ s.clock then (s.setQp q { x with failAt := none }).qpResolve q else s
  | none => s

/-- A reply to an outstanding request: cached, the oldest of 16 making room, and the QPs that waited run. -/
def State.arpReply (s : State) (ip mac : Nat) : State :=
  if !s.eth.waits.any (fun w => w.ip == ip) then s
  else
    let s := s.ethUpd (fun e => { e with
      waits := e.waits.filter (fun w => w.ip != ip), arp := ((ip, mac, s.clock) :: e.arp.filter (fun a => a.1 != ip)).take 16 })
    s.resolveAll

/-- ARP_RX. -/
def State.arpRx (s : State) (req : Bool) (sip smac tip : Nat) : State :=
  if req then (if s.canSend && tip == s.myIp then s.sayArp false tip sip else s)
  else s.arpReply sip smac

/-- ARP_TIMEOUT: a second has passed unanswered: another request, or after the third the destination is unresolved. -/
def State.arpTimeout (s : State) (ip : Nat) : State :=
  match s.eth.waits.find? (fun w => w.ip == ip) with
  | none => s
  | some w =>
    if s.clock < w.at_ + secFu || !s.canSend then s
    else if w.tries < 3 then
      let s := s.ethUpd (fun e => { e with waits := e.waits.map (fun v : ArpWait => if v.ip == ip then ⟨ip, w.tries + 1, s.clock⟩ else v) })
      s.sayArp true ip 0
    else
      let s := s.ethUpd (fun e => { e with waits := e.waits.filter (fun v => v.ip != ip), arp := e.arp.filter (fun a => a.1 != ip) })
      s.each (List.finRange 8) (fun q s =>
        if s.rd .eth_QP_STATE q == qpResolving && s.nextHop (s.rd .eth_DEST_IP q) == ip then s.qpUnresolved q else s)

/-- ARP_REFRESH: a cache entry 60 s old is asked for again. -/
def State.arpRefresh (s : State) (ip : Nat) : State :=
  match s.eth.arp.find? (fun a => a.1 == ip) with
  | some a => if a.2.2 + 60 * secFu ≤ s.clock then s.arpAsk ip else s
  | none => s

/-- An address is taken: its event record, one gratuitous ARP, and the QPs in RESOLVING try again (R269, R274). -/
def State.takeIp (s : State) (ip mask gw : Nat) : State :=
  let s := (s.wr .eth_IP_IN_USE 0 ip).wrB .eth_ADDR_VALID 0 true
  let s := (s.ethUpd (fun e => { e with mask := mask, gw := gw, garp := true })).emit 0x1003 ip
  s.sayGarp.resolveAll

/-- The address by its source: static, or the client. -/
def State.addressStart (s : State) : State :=
  if s.flag .eth_DHCP_EN then (if s.eth.dhcp = 0 then (s.dropIp).solicit else s)
  else
    let s := s.ethUpd (fun e => { e with dhcp := 0, lease := 0 })
    let ip := s.rd .eth_IP_ADDR
    if ip = 0 then s.dropIp
    else if s.flag .eth_ADDR_VALID && s.rd .eth_IP_IN_USE == ip then
      s.ethUpd (fun e => { e with mask := s.rd .eth_NETMASK, gw := s.rd .eth_GATEWAY })
    else (s.dropIp).takeIp ip (s.rd .eth_NETMASK) (s.rd .eth_GATEWAY)

/-- DHCP_RX: a message of the current exchange. -/
def State.dhcpRx (s : State) (m : DhcpMsg) : State :=
  if !s.flag .eth_DHCP_EN || m.xid.toNat != s.eth.xid || s.eth.dhcp == 0 || s.eth.dhcp == 3 then s
  else if m.ty = 2 && s.eth.dhcp == 1 then
    let s := s.ethUpd (fun e => { e with dhcp := 2, server := m.server.toNat, dhcpAt := s.clock, backoff := 4 })
    s.sayDhcp 3 s.eth.xid
  else if m.ty = 5 && s.eth.dhcp != 1 then
    let s := s.ethUpd (fun e => { e with dhcp := 3, leaseAt := s.clock, lease := m.lease, mask := m.mask.toNat, gw := m.router.toNat })
    if s.flag .eth_ADDR_VALID && s.rd .eth_IP_IN_USE == m.yip.toNat then s
    else (s.dropIp).takeIp m.yip.toNat m.mask.toNat m.router.toNat
  else if m.ty = 6 && s.eth.dhcp != 1 then (s.dropIp).solicit
  else s

/-- ICMP_ECHO_RX: answered up to ICMP_RATE in a second. -/
def State.icmpRx (s : State) (src id : Nat) : State :=
  if !s.canSend then s else
  let new := s.eth.icmpAt + secFu ≤ s.clock || s.eth.icmpN == 0
  let n := if new then 0 else s.eth.icmpN
  if n < s.rd .eth_ICMP_RATE then
    let s := s.ethUpd (fun e => { e with icmpN := n + 1, icmpAt := if new then s.clock else e.icmpAt })
    s.sayIcmp src id
  else s.bump .eth_ICMP_LIMITED 0

/-! ### The filter (R266, R267, R270, R271) -/

/-- A session's source. -/
def State.fromSession (s : State) (ip port : Nat) : Bool :=
  (List.range 8).any (fun n => s.rdBit .ctl_SESS_OPEN 0 n && s.rd .ctl_SESS_IP n == ip && s.rd .ctl_SESS_PORT n == port)

/-- A Thabor message joins its queue, or finds it full (R271). -/
def State.thbQueue (s : State) (ip port : Nat) : State :=
  let own := s.fromSession ip port
  if s.eth.thb.countP (fun e => e.2.2 == own) < (if own then 16 else 48) then
    s.ethUpd (fun e => { e with thb := e.thb ++ [(ip, port, own)] })
  else s.bump .ctl_THB_OVF 0

/-- The tags admitted by R267. -/
def State.tagsOk (s : State) (tags : List (BitVec 16)) : Bool :=
  match tags with
  | [] => !s.flag .eth_VLAN_EN
  | [t] => s.flag .eth_VLAN_EN && t.toNat % 4096 == s.rd .eth_VID
  | _ => false

/-- ETH_FRAME_RX: the filter of R270. What an accepted frame does is the effect of the command of its kind; a Thabor message
joins its queue. -/
def State.ethFrameRx (s : State) (f : EthFrame) : State :=
  if !f.fcs then s.bump .eth_RX_DISC_FCS 0
  else if f.len < 64 || 1522 < f.len then s.bump .eth_RX_DISC_LEN 0
  else if !s.tagsOk f.tags then s.bump .eth_RX_DISC_VLAN 0
  else match f.body with
    | .other => s.bump .eth_RX_DISC_TYPE 0
    | .ptp => if f.dst == .ptp && s.ptpOn false then s else s.bump .eth_RX_DISC_TYPE 0
    | .arp req sip tip =>
      if (f.dst == .mac || f.dst == .broadcast) &&
          (if req then s.myIp != 0 && tip.toNat == s.myIp else s.eth.waits.any (fun w => w.ip == sip.toNat)) then s
      else s.bump .eth_RX_DISC_PORT 0
    | .ip bad src dst proto icmp8 sport dport xid qpn op =>
      let mine := f.dst == .mac && s.myIp != 0 && dst.toNat == s.myIp
      let local_ := f.dst == .mac && s.flag .ctl_PROV && dst.toNat == s.linkLocal
      let dhcp := (f.dst == .mac || f.dst == .broadcast) && proto.toNat == 17 && dport.toNat == 68
      let ptp := f.dst == .ptpIp && dst.toNat == 0xE0000181 && proto.toNat == 17 && (dport.toNat == 319 || dport.toNat == 320)
      if bad then s.bump .eth_RX_DISC_IP 0
      else if ptp then (if s.ptpOn true then s else s.bump .eth_RX_DISC_PORT 0)
      else if dhcp then (if s.flag .eth_DHCP_EN && xid.toNat == s.eth.xid then s else s.bump .eth_RX_DISC_PORT 0)
      else if !mine && !local_ then s.bump .eth_RX_DISC_IP 0
      else if proto.toNat == 1 then (if mine && icmp8 then s else s.bump .eth_RX_DISC_PORT 0)
      else if proto.toNat != 17 then s.bump .eth_RX_DISC_PORT 0
      else if (mine && dport.toNat == s.rd .ctl_THB_PORT) || (local_ && dport.toNat == 47162) then s.thbQueue src.toNat sport.toNat
      else if mine && dport.toNat == 4791 then
        match (List.finRange 8).find? (fun q : Fin 8 => qpn.toNat == 0x100 + q.val && s.flag .eth_QP_EN q && s.rd .eth_DEST_IP q == src.toNat) with
        | none => s.bump .eth_RX_DISC_PORT 0
        | some _ => if op.toNat == 0x11 || op.toNat == 0x81 then s else s.bump .eth_INBOUND_REQ 0
      else s.bump .eth_RX_DISC_PORT 0

/-! ### Priority flow control (R268) -/

/-- n quanta of 512 bit times in fu. -/
def State.quantaFu (s : State) (n : Nat) : Nat := n * 512 * 160 / (if s.flag .eth_ETH_SPEED then 25 else 10)

/-- PFC_FRAME_RX: en and quanta by priority. -/
def State.pfcRx (s : State) (en : Nat) (quanta : Vector (BitVec 16) 8) : State :=
  let p : Fin 8 := ⟨s.rd .eth_PFC_PRIO % 8, by omega⟩
  if !s.flag .eth_PFC_EN then s.bump .eth_RX_DISC_TYPE 0
  else if !bit en p then s
  else
    let n := quanta[p].toNat
    if n = 0 then (s.ethUpd (fun e => { e with pause := none })).wrB .eth_PAUSED 0 false
    else (s.ethUpd (fun e => { e with pause := some (s.clock + s.quantaFu n) })).wrB .eth_PAUSED 0 true

/-- PFC_PAUSE_END. -/
def State.pfcEnd (s : State) : State :=
  match s.eth.pause with
  | some t => if t ≤ s.clock then (s.ethUpd (fun e => { e with pause := none })).wrB .eth_PAUSED 0 false else s
  | none => s

/-- The frames of QP q are paused. -/
def State.qpPaused (s : State) (q : Fin 8) : Bool :=
  s.flag .eth_PAUSED && s.flag .eth_PFC_EN && s.flag .eth_VLAN_EN && s.rd .eth_QP_PCP q == s.rd .eth_PFC_PRIO

/-! ### Transmission (R272, R275) -/

/-- The line rate in MB/s. -/
def State.lineRate (s : State) : Nat := if s.flag .eth_ETH_SPEED then 3125 else 1250

/-- The most unacknowledged packets of a QP. -/
def qpWindow : Nat := 1024

/-- QP q may send: link and address, RUN, WAIT_RING or RETRY, not paused, no RNR wait. -/
def State.qpSends (s : State) (q : Fin 8) : Bool :=
  let st := s.rd .eth_QP_STATE q
  s.canSend && (st == qpRun || st == qpWait || st == qpRetry) && !s.qpPaused q &&
    (match (s.qp q).rnr with | some t => decide (t ≤ s.clock) | none => true)

/-- The items of the fabric QP q would take. -/
def State.qpItems (s : State) (q : Fin 8) : List QItem := s.ethReady.filter (fun x => s.qpOf x == some q)

/-- The headers of a RoCE frame of QP q (R267, R273, R277). -/
def State.roceHead (s : State) (q : Fin 8) : RoceHead :=
  let ecn := s.flag .eth_ECN_EN q
  { vlan := if s.flag .eth_VLAN_EN then some (s.rd .eth_QP_PCP q <<< 13 + s.rd .eth_VID) else none, dscp := if ecn then s.rd .eth_DSCP q else 0,
    ect := ecn, src := s.myIp, dst := s.rd .eth_DEST_IP q, sport := 0xC000 + q, pkey := 0xFFFF, qpn := s.rd .eth_DEST_QPN q,
    rkey := s.rd .eth_RKEY q }

/-- Packet p of a queue pair carries bytes of entry e. -/
def RPkt.inEntry (p : RPkt) (e : REnt) : Bool := e.va < p.va + p.data.length && p.va < e.va + e.len

/-- The packet QP q sends next, as far as the window goes. -/
def State.qpNext (s : State) (q : Fin 8) : Option RPkt :=
  let x := s.qp q
  if x.sent < qpWindow then x.pkts[x.sent]? else none

/-- The entries of QP q whose packets of the reel packet p sends again (R276). -/
def State.rereads (s : State) (q : Fin 8) (p : RPkt) : List (REnt × PktId) :=
  let x := s.qp q
  if x.sent < x.again then x.ents.filterMap (fun e => e.pid.bind (fun i => if p.inEntry e then some (e, i) else none)) else []

/-- What packet p sends again can be read: each of its packets stands in its reel, or is gone from it and a GAP record takes its place
(R194, R276). -/
def State.sendable (s : State) (q : Fin 8) (p : RPkt) : Bool :=
  (s.rereads q p).all (fun e => (s.stored e.2).isSome || s.pktGone e.2)

/-- Packet p with bytes b in the place of those of entry e. -/
def RPkt.refill (p : RPkt) (e : REnt) (b : List Nat) : RPkt :=
  { p with data := p.data.mapIdx (fun i v =>
      if e.va ≤ p.va + i && p.va + i < e.va + e.len then b.getD (p.va + i - e.va) v else v) }

/-- The entry type of a packet read back: a packet, or a record where it cannot be read. -/
def State.oldType (s : State) (r : PktRef) : Nat := if s.reads r then 1 else 5

/-- Bytes read back from the cabinet pass through the fabric's QC4 space, whose words they leave again at once; none where it has no room
for them (R171). -/
def State.viaQc4 (s : State) (r : PktRef) (b : List Nat) : Option State :=
  (s.putItem { backItem r.pid 0 false false none with isRec := !s.reads r } b).map (fun e => e.1.sweep)

/-- The GAP record of one packet that is gone from its reel (R194). -/
def State.gapOf (s : State) (i : PktId) : List Nat := ((s.gapHead [i]).map (·.1)).getD []

/-- Entry e of QP q read again into packet p: its packet's bytes, or the record that a read now produces, in the entry's own length; a GAP
record for a packet that is gone (R194, R276; DESIGN CHOICE, log entry 178). None where the fabric has no room for what is read. -/
def State.reread (s : State) (e : REnt) (i : PktId) (p : RPkt) : Option (State × RPkt) :=
  match s.stored i with
  | none => some (s, p.refill e (entryAs e.len 5 e.flags e.no ((s.gapOf i).take (e.len - 17))))
  | some r =>
    let (t, d) := s.deliverPkt r
    (t.viaQc4 r d).map (fun u => (u, p.refill e (entryAs e.len (s.oldType r) e.flags e.no (d.take (e.len - 17)))))

/-- The entries l of QP q read again into packet p. -/
def State.rereadAll (s : State) (p : RPkt) : List (REnt × PktId) → Option (State × RPkt)
  | [] => some (s, p)
  | e :: l => (s.reread e.1 e.2 p).bind (fun r => State.rereadAll r.1 r.2 l)

/-- Packet p of QP q leaves. -/
def State.putRoce (s : State) (q : Fin 8) (p : RPkt) : State :=
  let x := s.qp q
  let s := s.setQp q { x with sent := x.sent + 1, ackAt := if x.sent == 0 then s.clock else x.ackAt, rnr := none }
  let s := (s.wr .eth_QP_STATE q qpRun).ethUpd (fun e => { e with rr := q })
  { s with out := Out.roce q (s.roceHead q) p :: s.out }

/-- QP q sends its next packet; a retransmission reads again what the first transmission read, and waits until it can (R276). None where
nothing leaves. -/
def State.sendPkt1 (s : State) (q : Fin 8) : Option (State × RPkt) :=
  (s.qpNext q).bind (fun p =>
    if s.sendable q p then (s.rereadAll p (s.rereads q p)).map (fun r => (r.1.putRoce q r.2, r.2)) else none)

/-- QP q has something to send. -/
def State.qpHas (s : State) (q : Fin 8) : Bool :=
  let x := s.qp q
  (s.qpNext q).any (fun p => s.sendable q p) || (x.pkts.length ≤ x.sent && !x.draining &&
    (match s.rd .eth_QP_USE q with
     | 0 => !x.behind.isEmpty || !(s.qpItems q).isEmpty
     | 1 => x.evs < s.evq.length && s.ringFree q != 0
     | _ => false))

/-- The place of QP q in R272: events, data, dailies. -/
def State.qpRank (s : State) (q : Fin 8) : Nat :=
  match s.rd .eth_QP_USE q with
  | 1 => 0 | 0 => 1 | _ => 2

/-- An entry of len payload bytes fits the draft: in the ring, and in one message with what the draft holds. -/
def State.draftRoom (s : State) (q : Fin 8) (d : Draft) (len : Nat) : Bool :=
  let u := (16 + len + 1 + 63) / 64
  u ≤ s.ringLeft q && (d.bytes.isEmpty || d.bytes.length + 64 * u ≤ 2 ^ s.rd .eth_MSG_LOG2)

/-- The packets still to be delivered from the reel by QP q set. -/
def State.setBehind (s : State) (q : Fin 8) (l : List PktId) : State :=
  s.setQp q { s.qp q with behind := l, late := (s.qp q).late.filter (fun p => l.contains p) }

/-- A GAP entry for packets that are gone from the cabinet, into the draft. -/
def State.draftGap (s : State) (q : Fin 8) (d : Draft) (b : List Nat) (rest : List PktId) : Option (State × Draft) :=
  if !s.draftRoom q d b.length then none
  else match s.addEntry q d 5 2 b { va := 0, len := 0, psn := 0 } with
    | none => none
    | some (t, d) => some (t.setBehind q rest, d)

/-- The packets QP q delivers from the reel, in reel order: those gone from it first, those not yet in it last (R280). -/
def State.behindNow (s : State) (q : Fin 8) : List PktId :=
  let key (i : PktId) : List Nat := match s.stored i with
    | some r => [1, r.reel, r.ext, r.off]
    | none => if s.pktGone i then [0] else [2]
  (s.qp q).behind.foldl (fun a i => insertBy (fun j => keyLt (key i) (key j)) i a) []

/-- A packet read back from the cabinet through the fabric's QC4 space, into the draft (R171). -/
def State.draftOld (s : State) (q : Fin 8) (d : Draft) (r : PktRef) (rest : List PktId) : Option (State × Draft) :=
  let (s1, b) := s.deliverPkt r
  let late := (s.qp q).late.contains r.pid
  if !s.draftRoom q d b.length then none
  else (s1.viaQc4 r b).bind (fun s2 =>
    (s2.addEntry q d (s.oldType r) (if late then 6 else 2) b { pid := some r.pid, va := 0, len := 0, psn := 0 }).map (fun e =>
      (e.1.setBehind q rest, e.2)))

/-- A packet of the queue, into the draft. -/
def State.draftNew (s : State) (q : Fin 8) (d : Draft) (x : QItem) : Option (State × Draft) :=
  if !s.draftRoom q d x.data.length then none
  else match s.addEntry q d (if x.isRec then 5 else 1) (if x.late then 4 else 0) x.data { pid := some x.pid, va := 0, len := 0, psn := 0 } with
    | none => none
    | some (t, d) => some (t.tookEth x, d)

/-- The next entry of a data QP into the draft; none when there is none, or it must wait for another message. -/
def State.draftData (s : State) (q : Fin 8) (d : Draft) : Option (State × Draft) :=
  match s.behindNow q with
  | p :: rest =>
    match s.stored p with
    | none =>
      match s.gapHead (p :: rest) with
      | none => none
      | some (b, rest) => s.draftGap q d b rest
    | some r => s.draftOld q d r rest
  | [] =>
    match s.offer (s.qpItems q) s.que.starveEth with
    | none => none
    | some x => s.draftNew q d x

/-- Entries drafted while they fit one message: fuel n. -/
def State.draftN (s : State) (q : Fin 8) (d : Draft) : Nat → State × Draft
  | 0 => (s, d)
  | n + 1 => match s.draftData q d with
    | none => (s, d)
    | some (t, e) => if s.ringLeft q ≤ (e.bytes.length - d.bytes.length) / 64 then (t, e) else State.draftN t q e n

/-- The length of what a data QP would write next. -/
def State.nextLen (s : State) (q : Fin 8) : Option Nat :=
  match s.behindNow q with
  | p :: rest =>
    match s.stored p with
    | some r => some (s.deliverPkt r).2.length
    | none => (s.gapHead (p :: rest)).map (·.1.length)
  | [] => (s.offer (s.qpItems q) s.que.starveEth).map (·.data.length)

/-- One item released from ETH alone. -/
def State.holdEth (s : State) (x : QItem) : State :=
  ((s.setItem { x with eth := false, heldEth := true }).ethRelease x).bump .que_HELD_CNT 0 |>.sweep

/-- With RING_OVF what finds no space in the ring is released at once, whether or not the QP may send (R280). -/
def State.ringOvf (s : State) (q : Fin 8) : State :=
  match s.nextLen q with
  | some n =>
    let u := (16 + n + 1 + 63) / 64
    let pad := if s.ringLeft q < u then s.ringLeft q else 0
    if s.rd .eth_QP_USE q == 0 && s.flag .eth_RING_OVF q && s.ringFree q < u + pad then
      s.each (s.qpItems q) (fun x s => s.holdEth x)
    else s
  | none => s

/-- A data QP forms a message: a PAD to the ring's end where the next entry does not fit before it, else entries. With no room
it waits, or with RING_OVF releases what it cannot place (R280). -/
def State.formData (s : State) (q : Fin 8) : State :=
  match s.nextLen q with
  | none => s
  | some n =>
    let u := (16 + n + 1 + 63) / 64
    let d : Draft := { va := s.ringVa q }
    if s.ringLeft q < u && s.ringLeft q ≤ s.ringFree q then
      let (t, e) := s.addPad q d
      t.queueDraft q e
    else
      let (t, e) := s.draftN q d ((s.qpItems q).length + (s.qp q).behind.length)
      if !e.bytes.isEmpty then t.queueDraft q e
      else if u ≤ s.ringFree q && u ≤ s.ringLeft q then s
      else if s.flag .eth_RING_OVF q then s.each (s.qpItems q) (fun x s => s.holdEth x)
      else s.wr .eth_QP_STATE q qpWait

/-- The event QP writes the records not yet written that fit before the ring's end (R283). -/
def State.formEvents (s : State) (q : Fin 8) : State :=
  let x := s.qp q
  let n := min (min (s.evq.length - x.evs) (s.ringFree q)) (s.ringLeft q)
  if n = 0 then s.wr .eth_QP_STATE q qpWait
  else
    let recs := (s.evq.drop x.evs).take n
    let b := recs.flatMap (fun r => r.bytes x.phase)
    let ent (i : Nat) : REnt × Nat := ({ evs := 1, va := s.ringVa q + 32 * i, len := 32, psn := 0 }, 32 * (i + 1))
    let d : Draft := { va := s.ringVa q, bytes := b, ents := (List.range n).map ent }
    let s := s.produce q n false
    (s.setQp q { s.qp q with evs := x.evs + n, entryNo := x.entryNo + n }).queueDraft q d

/-- A QP that waits for its ring tries again (R279). -/
def State.turnWait (s : State) (q : Fin 8) : State := s.when (s.rd .eth_QP_STATE q == qpWait) (fun s => s.wr .eth_QP_STATE q qpRun)

/-- QP q forms its next message. -/
def State.formTx (s : State) (q : Fin 8) : State :=
  if (s.qp q).draining then s
  else match s.rd .eth_QP_USE q with
    | 0 => s.formData q
    | 1 => if (s.qp q).evs < s.evq.length then s.formEvents q else s
    | _ => s

/-- QP q takes its turn: one packet, of a message formed then if none waits. None where nothing leaves, with what forming left. -/
def State.turnTx (s : State) (q : Fin 8) : State × Option RPkt :=
  let s := if (s.qp q).sent < (s.qp q).pkts.length then s else s.formTx q
  match s.sendPkt1 q with
  | some (t, p) => (t, some p)
  | none => (s, none)

/-- The QP whose turn it is: of those that may send and have something to send, apart from those of l, the one of the highest place,
data QPs in turn behind the one that sent last (R272). -/
def State.turnOf (s : State) (l : List (Fin 8)) : Option (Fin 8) :=
  let c := (List.finRange 8).filter (fun p : Fin 8 => !l.contains p && s.qpSends p && s.qpHas p && s.rd .eth_QP_STATE p != qpWait)
  let key (p : Fin 8) : Nat := 8 * s.qpRank p + (p.val + 7 - s.eth.rr.val) % 8
  c.foldl (fun a p => match a with
    | some b => if key p < key b then some p else some b
    | none => some p) none

/-- The port runs until a message of QP q is out, or q has nothing it may send; l holds the QPs whose turn gave nothing (R272): fuel n. -/
def State.portTx (s : State) (q : Fin 8) (l : List (Fin 8)) : Nat → State
  | 0 => s
  | n + 1 =>
    match s.turnOf l with
    | none => s
    | some p =>
      match s.turnTx p with
      | (t, none) => if p == q then t else State.portTx t q (p :: l) n
      | (t, some k) => if p == q && (k.imm.isSome || !t.qpHas q) then t else State.portTx t q l n

/-- The turns the port can have in one command: the unacknowledged packets of every QP. -/
def portFuel : Nat := 8 * qpWindow + 512

/-- ROCE_MESSAGE_TX: QP q sends the rest of the message that waits, or forms and sends the next one; the QPs above it send first, and data
QPs in turn with it, one packet each (R272, R275). -/
def State.messageTx (s : State) (q : Fin 8) : State :=
  let s := s.ringOvf q
  if s.qpSends q && s.qpHas q then s.turnWait q |>.portTx q [] portFuel else s

/-! ### Acknowledgement (R276, R294) -/

/-- The PSN distance from a to b. -/
def psnDist (a b : Nat) : Nat := (b + 2 ^ 24 - a) % 2 ^ 24

/-- A QP that drains is done once nothing of it is outstanding; then ETH_FINAL follows the last. -/
def State.qpDrained (s : State) (q : Fin 8) : State :=
  let x := s.qp q
  let s := if x.draining && (x.pkts.isEmpty || s.rd .eth_QP_STATE q == qpError) then
      ((s.setQp q { x with draining := false, pkts := [], sent := 0, again := 0, ents := [] }).wr .eth_QP_STATE q qpDisabled).wrBit .eth_QP_FINAL 0 q true
    else s
  if !s.flag .eth_ETH_EN && (List.finRange 8).all (fun p : Fin 8 => s.rd .eth_QP_STATE p == qpDisabled) then s.wrB .eth_ETH_FINAL 0 true else s

/-- ROCE_ACK_RX: every packet up to psn is retired. -/
def State.ackRx (s : State) (q : Fin 8) (psn : Nat) : State :=
  let x := s.qp q
  match x.pkts with
  | [] => s
  | p :: _ =>
    let n := psnDist p.psn psn + 1
    if x.sent < n || s.rd .eth_QP_STATE q == qpError then s
    else
      let gone (e : REnt) : Bool := psnDist p.psn e.psn < n
      let evs := (x.ents.filter gone).foldl (fun a e => a + e.evs) 0
      let s := { s with evq := s.evq.drop evs }
      let s := s.setQp q { x with
        pkts := x.pkts.drop n, sent := x.sent - n, again := x.again - n, ents := x.ents.filter (fun e => !gone e), acked := psn, retry := 0,
        ackAt := s.clock, evs := x.evs - evs }
      let s := s.when (s.rd .eth_QP_STATE q == qpRetry) (fun s => s.wr .eth_QP_STATE q qpRun)
      let s := if evs != 0 && s.evLost != 0 && s.evq.length < 512 then State.emit { s with evLost := 0 } 0x1005 s.evLost else s
      s.qpDrained q

/-- A dailies packet resent: the payload zeroed, ENTRY_TYPE LOST (R284). -/
def lostDaily (ents : List REnt) (p : RPkt) : RPkt :=
  match ents.find? (fun e => e.daily && e.va ≤ p.va && p.va < e.va + e.len) with
  | none => p
  | some e => { p with data := p.data.mapIdx (fun i b =>
      let o := p.va + i - e.va
      if o = 4 then 4 else if o < 16 || o = e.len - 1 then b else 0) }

/-- Go-back-N from the oldest unacknowledged packet. -/
def State.goBack (s : State) (q : Fin 8) : State :=
  let x := s.qp q
  let d := s.rd .eth_QP_USE q == 2
  let ps := if d then x.pkts.mapIdx (fun i p => if i < x.sent then lostDaily x.ents p else p) else x.pkts
  let s := s.when d (fun s => s.bump .eth_DLY_LOST 0 x.sent)
  ((s.setQp q { x with pkts := ps, sent := 0, again := max x.again x.sent, ackAt := s.clock }).bump .eth_RETRANS q).wr .eth_QP_STATE q qpRetry

/-- The packets of QP q, unacknowledged or waiting, are released as held (R280). -/
def State.qpRelease (s : State) (q : Fin 8) : State :=
  let x := s.qp q
  let own := x.ents.filterMap (·.pid) ++ x.behind
  let items := s.qpItems q
  let s := s.setQp q { x with pkts := [], sent := 0, again := 0, ents := [], behind := [], late := [], evs := 0, rnr := none }
  let s := s.each items (fun y s => s.setItem { y with eth := false, heldEth := true })
  (s.each (own ++ items.map (·.pid)) (fun p s =>
    ((s.bump .eth_QP_HELD q).bump .que_HELD_CNT 0).emit 0x1004 (p.seq % 2 ^ 32 + (p.stream % 256) <<< 32 + (p.mod_ % 2 ^ 24) <<< 40))).sweep

/-- QP q goes to ERROR. -/
def State.qpFail (s : State) (q : Fin 8) : State :=
  let a := (s.qp q).acked
  (((s.wr .eth_QP_STATE q qpError).emit 0x1001 (q.val + a <<< 8)).qpRelease q).qpDrained q

/-- A timeout or sequence NAK: RETRY_CNT of them with no advance is an ERROR. -/
def State.qpAgain (s : State) (q : Fin 8) : State :=
  let n := (s.qp q).retry + 1
  let s := s.setQp q { s.qp q with retry := n }
  if s.rd .eth_RETRY_CNT ≤ n then s.qpFail q else s.goBack q

/-- ROCE_NAK_RX: the packets before psn are acknowledged with it. -/
def State.roceNak (s : State) (q : Fin 8) (psn : Nat) (k : NakKind) : State :=
  let st := s.rd .eth_QP_STATE q
  if st == qpDisabled || st == qpResolving || st == qpError then s
  else
    let s := match (s.qp q).pkts with
      | p :: _ => if psn == p.psn then s else s.ackRx q ((psn + 2 ^ 24 - 1) % 2 ^ 24)
      | [] => s
    match k with
    | .sequence => s.qpAgain q
    | .rnr ns =>
      let s := (s.goBack q).bump .eth_RNR_CNT q
      s.setQp q { s.qp q with rnr := some (s.clock + ns * nsFu) }
    | .access => s.qpFail q
    | .invalid => s.qpFail q

/-- ACK_TMO: the time since the last acknowledgement or the first sending is over; a QP holds its state while the link is down (R272). -/
def State.ackTmo (s : State) (q : Fin 8) : State :=
  let x := s.qp q
  if s.flag .eth_LINK_UP && x.sent != 0 && x.rnr.isNone && x.ackAt + s.rd .eth_ACK_TMO * usFu ≤ s.clock then (s.bump .eth_TIMEOUTS q).qpAgain q else s

/-- RNR_WAIT_END. -/
def State.rnrEnd (s : State) (q : Fin 8) : State :=
  match (s.qp q).rnr with
  | some t => if t ≤ s.clock then (s.setQp q { s.qp q with rnr := none }).messageTx q else s
  | none => s

/-! ### Rate (R277) -/

/-- CNP_RX. -/
def State.cnpRx (s : State) (q : Fin 8) : State :=
  let x := s.qp q
  let s := s.bump .eth_CNP_RX q
  if !s.flag .eth_ECN_EN q then s
  else
    let s := s.setQp q { x with recAt := s.clock }
    let cut := match x.cutAt with | some t => decide (t + 50 * usFu ≤ s.clock) | none => true
    if cut then
      let r := s.rd .eth_RATE q
      (s.setQp q { s.qp q with cutAt := some s.clock }).wr .eth_RATE q (max ((s.lineRate + 63) / 64) (r - r * s.rd .eth_CNP_CUT / 256))
    else s

/-- RATE_RECOVERY. -/
def State.rateUp (s : State) (q : Fin 8) : State :=
  let x := s.qp q
  if s.flag .eth_ECN_EN q && s.rd .eth_QP_STATE q != qpDisabled && x.recAt + s.rd .eth_RECOV_US * usFu ≤ s.clock then
    (s.setQp q { x with recAt := s.clock }).wr .eth_RATE q (min s.lineRate (s.rd .eth_RATE q + s.rd .eth_RAI))
  else s

/-! ### Enables, commits, link (R265, R272, R274, R279, R294) -/

/-- QP_CI_WRITE: ignored with CFG_ERR beyond PI. -/
def State.ciWrite (s : State) (q : Fin 8) (v : Nat) : State :=
  if s.ringUnits q < (s.rd .eth_QP_PI q + 2 ^ 32 - v) % 2 ^ 32 then s.wrB .eth_CFG_ERR 0 true
  else
    let s := s.wr .eth_QP_CI q v
    if s.rd .eth_QP_STATE q == qpWait then s.wr .eth_QP_STATE q qpRun else s

/-- A QP starts afresh: producer index 0, phase 1, PSN START_PSN (R274). -/
def State.qpStart (s : State) (q : Fin 8) : State :=
  let s := s.setQp q { recAt := s.clock, acked := (s.rd .eth_START_PSN q + 2 ^ 24 - 1) % 2 ^ 24 }
  let s := (((((s.wr .eth_QP_PI q 0).wr .eth_QP_CI q 0).wr .eth_NEXT_PSN q (s.rd .eth_START_PSN q)).wr .eth_RATE q s.lineRate).wrBit
    .eth_QP_FINAL 0 q false).wr .eth_QP_STATE q qpResolving
  s.qpResolve q

/-- QP_ABORT: the QPs of mask m stop, their packets released as held. -/
def State.qpAbort (s : State) (m : Nat) : State :=
  s.each ((List.finRange 8).filter (fun q : Fin 8 => bit m q)) (fun q s =>
    ((((s.qpRelease q).setQp q { (s.qpRelease q).qp q with draining := false }).wr .eth_QP_STATE q qpDisabled).wrB .eth_QP_EN q false).qpDrained q)

/-- The QPs that should run: enabled with ETH. -/
def State.qpOn (s : State) : Nat := if s.flag .eth_ETH_EN then (List.range 8).foldl (fun a q => a + s.rd .eth_QP_EN q * 2 ^ q) 0 else 0

/-- The link comes up: QPs go back, and a client without an address solicits. -/
def State.linkUpEth (s : State) : State :=
  let s := s.wrB .eth_LINK_UP 0 true
  let s := s.each (List.finRange 8) (fun q s => if (s.qp q).sent != 0 then s.goBack q else s)
  let s := if s.flag .eth_DHCP_EN && s.eth.dhcp < 3 then s.solicit else s
  s.sayGarp.resolveAll

/-- A pause ends where a commit takes its priority from PFC (R268). -/
def State.pfcCommit (s : State) (prio : Nat) : State :=
  if s.flag .eth_PFC_EN && s.rd .eth_PFC_PRIO == prio then s else (s.ethUpd (fun e => { e with pause := none })).wrB .eth_PAUSED 0 false

/-- The effects of a commit on ETH: on, ETH_EN, PFC_PRIO, the speed and FEC before it. -/
def State.ethCommit (s : State) (on speed fec prio : Nat) (en : Bool) : State :=
  let s := s.pfcCommit prio
  let s := if s.rd .eth_ETH_SPEED != speed || (s.rd .eth_FEC_EN != fec && s.flag .eth_ETH_SPEED) then s.wrB .eth_LINK_UP 0 false else s
  let s := if s.flag .eth_ETH_EN && !en then s.wrB .eth_ETH_FINAL 0 false else s
  let s := s.addressStart
  let now := s.qpOn
  s.each (List.finRange 8) (fun q s =>
    if bit now q && !bit on q then s.qpStart q
    else if bit on q && !bit now q then (s.setQp q { s.qp q with draining := true }).qpDrained q
    else s.qpDrained q)

/-- ETH is released from reset: DHCP starts where enabled. -/
def State.ethStart (s : State) : State := State.addressStart { s with eth := {} }

/-- What ETH does by itself at each boundary and pacing instant: a DHCP message is repeated, a full ring with RING_OVF releases (R269, R280). -/
def State.ethTick (s : State) : State := s.dhcpAgain.each (List.finRange 8) (fun q s => s.ringOvf q)

/-! ### The commands -/

/-- ETH_LINK_UP. -/
def execEthLinkUp (t : Nat) (s : State) : Host.Outcome State Fault Refusal :=
  run t (fun s => s.on .eth (fun s => s.when (!s.flag .eth_LINK_UP) State.linkUpEth)) s
/-- ETH_LINK_DOWN. -/
def execEthLinkDown (t : Nat) (s : State) : Host.Outcome State Fault Refusal :=
  run t (fun s => s.on .eth (fun s => s.wrB .eth_LINK_UP 0 false)) s
/-- ETH_FRAME_RX. -/
def execEthFrameRx (t : Nat) (f : EthFrame) (s : State) : Host.Outcome State Fault Refusal :=
  run t (fun s => s.on .eth (fun s => s.ethFrameRx f)) s
/-- ARP_RX. -/
def execArpRx (t : Nat) (req : Bool) (sip : BitVec 32) (smac : BitVec 48) (tip : BitVec 32) (s : State) :
    Host.Outcome State Fault Refusal := run t (fun s => s.on .eth (fun s => s.arpRx req sip.toNat smac.toNat tip.toNat)) s
/-- ARP_TIMEOUT. -/
def execArpTimeout (t : Nat) (ip : BitVec 32) (s : State) : Host.Outcome State Fault Refusal :=
  run t (fun s => s.on .eth (fun s => s.arpTimeout ip.toNat)) s
/-- ARP_REFRESH. -/
def execArpRefresh (t : Nat) (ip : BitVec 32) (s : State) : Host.Outcome State Fault Refusal :=
  run t (fun s => s.on .eth (fun s => s.arpRefresh ip.toNat)) s
/-- QP_RESOLVE_RETRY. -/
def execQpResolveRetry (t : Nat) (q : Fin 8) (s : State) : Host.Outcome State Fault Refusal :=
  run t (fun s => s.on .eth (fun s => s.resolveRetry q)) s
/-- DHCP_RX. -/
def execDhcpRx (t : Nat) (m : DhcpMsg) (s : State) : Host.Outcome State Fault Refusal :=
  run t (fun s => s.on .eth (fun s => s.dhcpRx m)) s
/-- DHCP_RENEW. -/
def execDhcpRenew (t : Nat) (s : State) : Host.Outcome State Fault Refusal :=
  run t (fun s => s.on .eth (fun s => s.when (s.eth.dhcp == 3 && s.leaseAt 4) (fun s => s.renew 4))) s
/-- DHCP_REBIND. -/
def execDhcpRebind (t : Nat) (s : State) : Host.Outcome State Fault Refusal :=
  run t (fun s => s.on .eth (fun s => s.when (s.eth.dhcp == 4 && s.leaseAt 7) (fun s => s.renew 5))) s
/-- DHCP_LEASE_EXPIRE. -/
def execDhcpLeaseExpire (t : Nat) (s : State) : Host.Outcome State Fault Refusal :=
  run t (fun s => s.on .eth (fun s => s.when (s.leaseAt 8) (fun s => (s.dropIp).solicit))) s
/-- ICMP_ECHO_RX. -/
def execIcmpEchoRx (t : Nat) (src id : BitVec 32) (s : State) : Host.Outcome State Fault Refusal :=
  run t (fun s => s.on .eth (fun s => s.icmpRx src.toNat id.toNat)) s
/-- PFC_FRAME_RX. -/
def execPfcFrameRx (t : Nat) (en : BitVec 8) (quanta : Vector (BitVec 16) 8) (s : State) : Host.Outcome State Fault Refusal :=
  run t (fun s => s.on .eth (fun s => s.pfcRx en.toNat quanta)) s
/-- PFC_PAUSE_END. -/
def execPfcPauseEnd (t : Nat) (s : State) : Host.Outcome State Fault Refusal := run t (fun s => s.on .eth State.pfcEnd) s
/-- ROCE_MESSAGE_TX. -/
def execRoceMessageTx (t : Nat) (q : Fin 8) (s : State) : Host.Outcome State Fault Refusal :=
  run t (fun s => s.on .eth (fun s => s.messageTx q)) s
/-- ROCE_ACK_RX. -/
def execRoceAckRx (t : Nat) (q : Fin 8) (psn : BitVec 24) (s : State) : Host.Outcome State Fault Refusal :=
  run t (fun s => s.on .eth (fun s => s.ackRx q psn.toNat)) s
/-- ROCE_NAK_RX. -/
def execRoceNakRx (t : Nat) (q : Fin 8) (psn : BitVec 24) (k : NakKind) (s : State) : Host.Outcome State Fault Refusal :=
  run t (fun s => s.on .eth (fun s => s.roceNak q psn.toNat k)) s
/-- ACK_TMO. -/
def execAckTmo (t : Nat) (q : Fin 8) (s : State) : Host.Outcome State Fault Refusal :=
  run t (fun s => s.on .eth (fun s => s.ackTmo q)) s
/-- RNR_WAIT_END. -/
def execRnrWaitEnd (t : Nat) (q : Fin 8) (s : State) : Host.Outcome State Fault Refusal :=
  run t (fun s => s.on .eth (fun s => s.rnrEnd q)) s
/-- CNP_RX. -/
def execCnpRx (t : Nat) (q : Fin 8) (s : State) : Host.Outcome State Fault Refusal :=
  run t (fun s => s.on .eth (fun s => s.cnpRx q)) s
/-- RATE_RECOVERY. -/
def execRateRecovery (t : Nat) (q : Fin 8) (s : State) : Host.Outcome State Fault Refusal :=
  run t (fun s => s.on .eth (fun s => s.rateUp q)) s
/-- QP_CI_WRITE. -/
def execQpCiWrite (t : Nat) (q : Fin 8) (v : BitVec 32) (s : State) : Host.Outcome State Fault Refusal :=
  run t (fun s => s.on .eth (fun s => s.ciWrite q v.toNat)) s
/-- QP_ABORT. -/
def execQpAbort (t : Nat) (m : BitVec 8) (s : State) : Host.Outcome State Fault Refusal :=
  run t (fun s => s.on .eth (fun s => s.qpAbort m.toNat)) s

end Sys2Proof.Machine
end

