-- ==== Sys2Proof/Machine/Start.lean ====
section
/-! DEFINITION. PMR: power on and off, start-up, the reset kinds, boot images, and the core's members (R18, R328, R329, R335 to R344). -/

namespace Sys2Proof.Machine

open Sys2Proof

def State.pmrUpd (s : State) (f : Pmr → Pmr) : State := { s with pmr := f s.pmr }
/-! ### Images (R342, table Clocks-8) -/

/-- The slot of a letter: false is A. -/
def State.slot (s : State) (b : Bool) : FwSlot := s.flash.slots[(if b then 1 else 0 : Fin 2)]
def State.setSlotFw (s : State) (b : Bool) (x : FwSlot) : State :=
  s.flashUpd (fun f => { f with slots := f.slots.set (if b then 1 else 0 : Fin 2) x })

/-- The first 256 bytes of a slot as one number, and the fields of the header there. -/
def FwSlot.head (x : FwSlot) : Nat := spGet x.blocks 0 0
def FwSlot.imgVer (x : FwSlot) : Nat := bits x.head 32 16
def FwSlot.imgSize (x : FwSlot) : Nat := bits x.head 64 32

/-- Blocks of an image of n bytes, and those a slot lacks. -/
def fwBlocks (n : Nat) : Nat := (n + 255) / 256
def FwSlot.missing (x : FwSlot) : Nat := (List.range (fwBlocks x.size)).countP (fun k => !x.blocks.any (fun e => e.1 == k))

/-- The size an image may have. -/
def sizeOk (n : Nat) : Bool := 257 ≤ n && n ≤ 33554432

/-- The bytes of an image. -/
def FwSlot.bytes (x : FwSlot) : List Nat :=
  ((List.range (fwBlocks x.size)).flatMap (fun k => bytesLE 256 (spGet x.blocks k 0))).take x.size

/-- DIGEST is the SHA-256 of the bytes behind the header, and SIG a signature over that of bytes 0x00 to 0x2F under the signing key. -/
def FwSlot.authentic (x : FwSlot) : Bool :=
  let b := x.bytes
  let at_ (o n : Nat) : Nat := ofBytesBE ((b.drop o).take n)
  at_ 0x10 32 == sha256 (b.drop 256) && ecdsaOk Config.signKey (sha256 (b.take 48)) (at_ 0x30 32) (at_ 0x50 32)

/-- Magic, header and security version, digest and signature are good. -/
def State.imageGood (s : State) (x : FwSlot) : Bool :=
  bits x.head 0 32 == 0x5E721A0B && bits x.head 56 8 == 1 && s.rd .pmr_SEC_VER_MIN ≤ bits x.head 48 8 && x.authentic

/-- The slot holds a valid image; the one it left the factory with is (PRESUMED, log entry 112). -/
def State.slotValid (s : State) (b : Bool) : Bool :=
  let x := s.slot b
  !x.bad && (x.factory || (x.missing == 0 && sizeOk x.imgSize && x.imgSize == x.size && s.imageGood x))

/-- FW_VER of a slot; 0 when it is not valid. -/
def State.slotVer (s : State) (b : Bool) : Nat :=
  if !s.slotValid b then 0
  else if (s.slot b).factory then Fld.resetVal (if b then .pmr_FW_VER_B else .pmr_FW_VER_A) 0
  else (s.slot b).imgVer

/-! ### Boot (R343, R344) -/

/-- What the boot record has the module run: the trial slot, ACTIVE, or the other slot where ACTIVE fails its check. -/
def State.bootPick (s : State) : Boot :=
  let a := s.flash.active
  if s.flash.trial then (if s.slotValid (!a) then .run (!a) true else .again)
  else if s.slotValid a then .run a false
  else if s.slotValid (!a) then .run (!a) false
  else .recovery

/-- Every member's program memory holds image n. -/
def State.loadCore (s : State) (n : Nat) : State := s.pmrUpd (fun p => { p with prog := .replicate 3 n })

/-- The image of the slot that runs, as the program memories hold it. -/
def State.running_ (s : State) : Nat := if s.pmr.recovery then 3 else if s.flag .pmr_BOOT_SLOT then 2 else 1

/-- Blocks leave reset. -/
def State.release (s : State) (l : List Blk) : State := { s with held := l.foldl (fun h b => setBit h b.idx false) s.held }

/-- Slot b is run: its image loaded into the members, CTL released. One run in place of ACTIVE is made ACTIVE at READY. -/
def State.runSlot (s : State) (b trial : Bool) : State :=
  let swap := !trial && b != s.flash.active
  let s := (s.wrB .pmr_BOOT_SLOT 0 b).wrB .pmr_TRIAL 0 trial
  let s := (s.pmrUpd (fun p => { p with setActive := swap })).wrB .pmr_BOOT_FALLBACK 0 (s.pmr.fallback.isSome || swap)
  (s.loadCore (if b then 2 else 1)).release [.ctl]

/-- Neither slot is valid: a control fault at level 4, the recovery firmware in the members, and ETH and CTL out of reset for it; ETH at the
speed the boot record holds (R344). -/
def State.recover (s : State) : State :=
  let s := (s.pmrUpd (fun p => { p with recovery := true })).detect clsControl 4 unitModule
  ((s.loadCore 3).release [.ctl, .eth]).wrForce .eth_ETH_SPEED 0 (b2n (s.flash.ethSpeed.getD true))

/-- The start in progress is added to the start-up count. -/
def State.countStart (s : State) : State :=
  if s.pmr.counted then s
  else State.pmrUpd (s.bootRec (fun f => { f with starts := f.starts + 1 })) (fun p => { p with counted := true })

/-- A start that PMR has not counted although its rails have come up. -/
def State.countDue (s : State) : Bool := s.pwr == .start && !s.pmr.counted && s.pmr.upFrom ≤ s.clock

/-- START begins (table Clocks-5): every block in reset, PMR until the rails are in regulation and FLT until CK_CORE has locked, at the table's
instants (log entry 219). A WARM reset keeps the rails, and PMR out of reset. -/
def State.startUp (s : State) (warm : Bool) : State :=
  let up := if warm then s.clock else s.clock + 20 * msFu
  let s := { s with held := setBit (setBit 0xFFFFF Blk.pmr.idx false) Blk.flt.idx false }
  let s := s.pmrUpd (fun p => { p with startAt := s.clock, railAt := s.clock, upFrom := up, fltFrom := up + 2 * msFu })
  ((s.setPwr .start).wr .pmr_RESET_CAUSE 0 s.pmr.cause).wrB .pmr_BOOT_FALLBACK 0 s.pmr.fallback.isSome

/-! ### COLD and WARM resets (R335, R341, R361) -/

/-- What a COLD reset leaves: OFF, with flash and the contacts as they are. -/
def State.coldReset (s : State) (cause : Nat) : State :=
  let s := if s.countDue then s.countStart else s
  let p : Pmr := { vin := s.pmr.vin, pwrEn := s.pmr.pwrEn, resetN := s.pmr.resetN, cause := cause }
  { State.reset with clock := s.clock, free := s.free, flash := s.flash, lastRead := s.lastRead, out := s.out, pending := s.pending,
                     pmr := p }

/-- The module is started when VIN, PWR_EN and RESET_N allow it. -/
def State.tryStart (s : State) : State :=
  if s.pwr == .off && s.pmr.vin && s.pmr.pwrEn && s.pmr.resetN then s.startUp false else s

/-- The cabinet as it comes out of a WARM reset: extents closed, OPEN takes closed with TRUNC, nothing in progress. -/
def State.cabKept (s : State) : Cab :=
  let c := s.cab
  let takes := c.takes.map (fun t : Take => if t.st == 1 then { t with st := 2, stopTick := s.seq.k % 2 ^ 48, flags := t.flags ||| 8 } else t)
  let shut (r : Reel) : Reel := { r with live := r.live.map (fun e : Ext => { e with open_ := false }), gaps := [] }
  { mem := c.mem, shelves := c.shelves, reels := c.reels.map shut, takes := takes, lastTake := c.lastTake, pkts := c.pkts, poison := c.poison,
    badAt := c.badAt, gapDue := c.gapDue ++ c.reels.flatMap (·.gaps), passAt := s.clock }

/-- A WARM reset: the cabinet drains, every block restarts, START begins; the store is kept. -/
def State.warmReset (s : State) (cause : Nat) : State :=
  let s := s.cabStandby
  let k := s.cabKept
  let e : Edc := { remap := s.edc.remap, retired := s.edc.retired }
  let s := s.coldReset cause
  State.startUp { s with cab := k, edc := e } true

/-- A trial ends by fallback: reason 0 check failed, 1 confirm timeout, 2 core restart (R343). -/
def State.trialEnd (s : State) (reason : Nat) : State :=
  let s := s.bootRec (fun f => { f with trial := false })
  let s := s.cabStandby
  let k := s.cabKept
  let e : Edc := { remap := s.edc.remap, retired := s.edc.retired }
  let s := (s.coldReset 3).pmrUpd (fun p => { p with fallback := some reason })
  State.startUp { s with cab := k, edc := e } true

/-! ### The end of start-up (R339, R340, R207, R208) -/

/-- A row March C- finds failing takes a spare of its macro; with none left the self-test has failed. -/
def State.marchRow (s : State) (m : SramMac) (row : Nat) : State :=
  let n := sramCode m
  if 0 < s.rowsLeft m then
    let rows := spSet s.edc.rows n (spGet s.edc.rows n 0 + 1) 0
    { s with edc := { s.edc with rows := rows }, flash := { s.flash with sram := rows } }.emit 0x0C04 (n + row <<< 16) |>.bump
      .edc_SRAM_ROWS_SPARED 0
  else (s.wrB .edc_SELFTEST_FAIL 0 true).detect clsMemory 2 unitModule

/-- A soft repair of the log applied again in store training, or its row remapped where the bank can no longer take one (R205). -/
def State.softAgain (s : State) (p : Nat) (ok : Bool) : State :=
  if ok then s.bump .edc_PPR_SOFT 0 else (s.spareSpan p).mergeDrain drainFuel

/-- The cabinet comes into service, soft repairs of the log applied again, or stays out of it. -/
def State.cabStart (s : State) (trained : Bool) (soft : List Bool) : State :=
  if trained then
    let s := s.each ((s.flash.repairs.filter (fun e => !e.2)).zip soft) (fun e s => s.softAgain e.1.1 e.2)
    (List.range 16).foldl (fun s c => s.poolRegs c) s
  else (s.wrB .pmr_CAB_OFFLINE 0 true).detect clsMemory 2 unitModule

/-- READY is reached: its record, a slot fallen back to made ACTIVE, the root's enumeration, repairs (R205, R339, R343). -/
def State.readyReached (s : State) : State :=
  let s := s.pmrUpd (fun p => { p with readyAt := some s.clock })
  let s := s.emit 0x0002 (s.rd .pmr_BOOT_SLOT + 2 * s.rd .pmr_TRIAL + 4 * s.rd .pmr_BOOT_FALLBACK + 8 * s.rd .pmr_RESET_CAUSE +
    s.rd .pmr_START_MS <<< 16)
  let s := match s.pmr.fallback with
    | some r => s.emit 0x0003 r
    | none => s
  let s := if s.pmr.setActive then s.bootRec (fun f => { f with active := s.flag .pmr_BOOT_SLOT }) else s
  let s := (s.pmrUpd (fun p => { p with fallback := none, setActive := false })).treReady
  if s.flag .cab_REPAIR_AUTO then s.repairRun else s

/-- EDC is released for the internal SRAMs: the repairs of the flash image applied, and March C- run (R207, R208). -/
def State.edcStart (s : State) (march : List (SramMac × BitVec 16)) : State :=
  let s := s.release [.edc]
  let s := State.wr { s with edc := { s.edc with rows := s.flash.sram } } .edc_SRAM_ROWS_SPARED 0
    (s.flash.sram.foldl (fun a e => a + e.2) 0)
  s.each march (fun e s => s.marchRow e.1 e.2.toNat)

/-- The mask image of the flash device, loaded (R42). -/
def State.maskStart (s : State) : State :=
  let m := s.flash.mask.getD []
  { s with pfe := { s.pfe with maskF := m, maskS := m } }.wrB .pfe_MASK_IMG_VALID 0 s.flash.mask.isSome

/-- Start-up behind the image: the cabinet, HKA with its self-calibration, TBS, the blocks from SNS to QUE, LNK, TRE and ETH leave reset in the
order of table Clocks-4; then READY, or SAFE with a level 4 fault uncleared (R339, R322). -/
def State.startRest (s : State) (x : StartUp) : State :=
  let s := (s.release [.cab]).cabStart x.trained x.soft
  let s := (s.release [.hka]).hkaStart.calDone x.cal
  let s := (s.release [.tbs]).tbsStart
  let s := (s.release [.sns, .pfe, .tdc, .seq, .evb, .trg, .hst, .acc, .cmp, .que]).maskStart.each (List.finRange 16) (fun r s => s.calRestart r)
  let s := ((s.wr .tre_STRAP_ROLE 0 x.strapRole.toNat).wr .tre_STRAP_POS 0 x.strapPos.toNat).pmrUpd (fun p => {
    p with carrier := x.carrier.map (·.toNat) })
  let s := s.wr .tre_FW_VER 0 (s.slotVer (s.flag .pmr_BOOT_SLOT))
  let s := (((s.release [.lnk, .tre]).treStart).lnkStart.release [.eth]).ethStart
  let s := s.wr .pmr_START_MS 0 ((s.clock - s.pmr.startAt) / msFu)
  match s.flt.ents.find? (fun e => e.lvl == 4 && (!e.inj || e.perf)) with
  | some e => s.safeNow e.cls e.unit
  | none => ((s.setPwr .ready).wrB .flt_SAFE_ACT 0 false).readyReached

/-- START_COMPLETE: the rails being up, PMR and FLT are out of reset; what is left of table Clocks-5 is done in its order, unless the image ends
it in a WARM reset or in recovery (R343, R344). -/
def State.startComplete (s : State) (x : StartUp) : State :=
  if s.pwr != .start || s.pmr.recovery || s.clock < s.pmr.railAt then s
  else
    let s := (s.pmrUpd (fun p => { p with upFrom := min p.upFrom s.clock, fltFrom := min p.fltFrom s.clock })).release [.pmr, .flt] |>.countStart.edcStart x.march
    let s := (s.wr .pmr_FW_VER_A 0 (s.slotVer false)).wr .pmr_FW_VER_B 0 (s.slotVer true)
    match s.bootPick with
    | .run b trial => (s.runSlot b trial).startRest x
    | .again => s.trialEnd 0
    | .recovery => s.recover

/-! ### BLOCK resets (R336, R337, R357, R361) -/

/-- The rank of a block in table Clocks-4; 0 for one BLK_RST never resets. -/
def blkRank (b : Nat) : Nat :=
  if b = 18 then 1 else if b = 13 then 2
  else if b = 14 then 13 else if b = 15 then 14 else if b = 16 then 15
  else if b = 1 then 3 else if b = 2 then 4 else if b = 3 then 5 else if b = 4 then 6 else if b = 5 then 7 else if b = 6 then 8
  else if b = 7 then 9 else if b = 8 then 10 else if b = 9 then 11 else if b = 10 then 12
  else 0

/-- The fields of block b, its region pages' among them, have their keys. -/
def blkKeys (b : Nat) : List Nat :=
  match Blk.ofIdx b with
  | some k => (pageFields false k ++ pageFields true k).map (·.ctorIdx)
  | none => []

/-- The register k of a map belongs to block b, a page header's apart from its masks. -/
def keyOfBlk (b : Nat) (fs : List Nat) (k : Nat) : Bool :=
  let f := k % 1024
  fs.contains f || ((k / 1024) / 17 == b &&
    [Fld.hdr_SHADOW_DIRTY, .hdr_PAGE_EPOCH, .hdr_WR_COUNT, .hdr_DENY_CNT, .hdr_SNAP_MISS, .hdr_LAST_SRC, .hdr_LAST_LVL].any
      (fun h => h.ctorIdx == f))

/-- Every register of block b at its reset entry; the staged values, snapshots and staged writes of its pages discarded. A commit staged
goes on for the other blocks (R357), in a reset of SEQ with no target tick left (log entry 220). -/
def State.blkRegs (s : State) (b : Nat) : State :=
  let fs := blkKeys b
  let out (m : Sp) : Sp := m.filter (fun e => !keyOfBlk b fs e.1)
  let st := s.staged.map (fun g : Staged => { g with
    regs := g.regs.filter (fun e => !fs.contains (e.1 % 1024)), mask := if b = 2 then s.flash.mask.getD [] else g.mask,
    off := if b = 3 then [] else g.off, target := if b = 4 then none else g.target })
  let own (p : Nat) : Bool := p / 17 == b
  let c := { s.ctl with snaps := s.ctl.snaps.map (fun n : Option Snap => n.filter (fun n => !own n.page)),
                        stage := s.ctl.stage.map (fun l : List (Nat × Nat × Nat) => l.filter (fun e => !own e.1)) }
  { s with reg := out s.reg, force := out s.force, shadow := out s.shadow, staged := st, ctl := c }.when (b = 4) (fun s =>
    s.wrB .seq_COMMIT_PEND 0 s.staged.isSome)

/-- The block whose detectors raise the faults of a class (table Faults-1). -/
def detBlk (c : Nat) : Nat :=
  if c = clsBias || c = clsOverCurrent then Blk.sns.idx else if c = clsTick then Blk.seq.idx else if c = clsTdc then Blk.tdc.idx
  else if c = clsTimebase then Blk.tbs.idx else if c = clsTrigger then Blk.trg.idx else if c = clsCompression then Blk.cmp.idx
  else if c = clsQueue then Blk.que.idx else if c = clsLink then Blk.lnk.idx else if c = clsTopology then Blk.tre.idx
  else if c = clsSupply || c = clsOverTemp || c = clsHousekeeping then Blk.hka.idx else Blk.flt.idx

/-- The crossings of block b, reset on both their sides (R336): its faults on the way to FLT; with TRG or TDC the readout notifications. -/
def State.xingReset (s : State) (b : Nat) : State :=
  let s := { s with detected := s.detected.filter (fun d => d.inj || detBlk d.cls != b) }
  if b = Blk.trg.idx then s.each (List.finRange 16) (fun r s => s.setTdcR r { s.tdcR r with xing := 0, xingLost := 0 }) else s

/-- Block b is held in reset: its registers, its crossings and what it keeps besides go. -/
def State.blkHold (s : State) (b : Nat) : State :=
  let s := if b = 14 then s.each (List.finRange 10) (fun l s => if s.linkUp l then s.takeDownQuiet l else s) else s
  let s := (s.blkRegs b).xingReset b
  let s := { s with held := setBit s.held b true, pmr := { s.pmr with blk := s.pmr.blk.filter (fun e => e.1 != b) ++ [(b, s.clock)] } }
  if b = 1 then { s with sns := {} } else if b = 2 then { s with pfe := {} } else if b = 3 then { s with tdc := {} }
  else if b = 4 then { s with seq := {} } else if b = 5 then { s with evb := {} } else if b = 6 then { s with trg := {} }
  else if b = 7 then { s with hst := {} } else if b = 8 then { s with accum := {} } else if b = 9 then { s with cmp := {} }
  else if b = 10 then { s with que := {} } else if b = 13 then s.tbsStart else if b = 14 then { s with lnk := {} }
  else if b = 15 then { s with tre := {} } else if b = 16 then { s with eth := {}, evq := [], evLost := 0 }
  else if b = 18 then { s with hka := {} } else s

/-- BLK_RST: accepted from OWN in READY with every mode word 0, and never for PMR, CTL, FLT, CAB and EDC. -/
def State.blkRst (s : State) (m : Nat) (own : Bool) : State :=
  let bs := bitsSet m 20
  if bs.isEmpty then s
  else if !own || s.pwr != .ready || bs.any (fun b => blkRank b == 0) || (List.range 16).any (fun r => s.mode r != 0) then
    s.wrB .pmr_CFG_ERR 0 true
  else s.each bs (fun b s => s.blkHold b)

/-- What a block does as it leaves reset. -/
def State.blkStart (s : State) (b : Nat) (role pos : Nat) : State :=
  if b = 2 then s.maskStart
  else if b = 3 then s.each (List.finRange 16) (fun r s => s.calRestart r)
  else if b = 13 then s.tbsStart
  else if b = 14 then s.lnkStart
  else if b = 15 then
    (((((s.wr .tre_STRAP_ROLE 0 role).wr .tre_STRAP_POS 0 pos).wr .tre_FW_VER 0 (s.slotVer (s.flag .pmr_BOOT_SLOT))).treStart).on .lnk
      State.lnkLanes).treReady
  else if b = 16 then s.ethStart
  else if b = 18 then s.hkaStart
  else s

/-- BLOCK_RESET_RELEASE: 10 us are over, and no block above it in table Clocks-4 is still held. -/
def State.blkRelease (s : State) (b : Nat) (role pos : Nat) : State :=
  match s.pmr.blk.find? (fun e => e.1 == b) with
  | none => s
  | some e =>
    if s.clock < e.2 + 10 * usFu || s.pmr.blk.any (fun f => blkRank f.1 < blkRank b) then s
    else
      let s := s.pmrUpd (fun p => { p with blk := p.blk.filter (fun f => f.1 != b) })
      State.blkStart { s with held := setBit s.held b false } b role pos

/-! ### The control core (R327 to R329) -/

/-- State of member m in CORE_STAT: 0 voting, 1 resynchronising, 2 retired. -/
def State.member (s : State) (m : Nat) : Nat := s.rd (memField m)
def State.setMember (s : State) (m v : Nat) : State := s.wr (memField m) 0 v

/-- Every session closes. -/
def State.sessClear (s : State) : State :=
  let s := s.each (List.range 8) (fun n s =>
    ((((s.wr .ctl_SESS_SLOT n 0).wr .ctl_SESS_LEVEL n 0).wr .ctl_SESS_IP n 0).wr .ctl_SESS_PORT n 0).wr .ctl_SESS_SALT n 0)
  let c := s.ctl
  let keep {α : Type} (d : α) (v : Vector α 10) : Vector α 10 := v.mapFinIdx (fun i x _ => if i < 8 then d else x)
  { s with ctl := { c with sess := .replicate 8 none, snaps := keep none c.snaps, stage := keep [] c.stage, pend := [] } }.wr .ctl_SESS_OPEN 0 0

/-- Loss of majority (R329): the core restarts, its sessions, the relays it waits for and the staged commit are lost; a trial not confirmed ends (R343). -/
def State.coreLoss (s : State) : State :=
  let s := (s.detect clsControl 4 unitModule).bump .flt_MAJ_LOSS 0
  let s := s.sessClear
  let s := (s.treUpd (fun t => { t with relays := [] })).loadCore 0
  let s := { s with staged := none, flt := { s.flt with coreDown := true } }.wrB .seq_COMMIT_PEND 0 false
  if s.flag .pmr_TRIAL then s.trialEnd 2 else s

/-- The members whose outputs are compared. -/
def State.voters (s : State) : List (Fin 3) := (List.finRange 3).filter (fun m => s.member m == 0)

/-- The output the voter passes: that of at least two members (R327). -/
def State.votePass (s : State) (o : Vector (BitVec 32) 3) : Option (BitVec 32) :=
  (s.voters.find? (fun m => 2 ≤ (s.voters.filter (fun n => o[n] == o[m])).length)).map (fun m => o[m])

/-- The program memory of member m holds image n. -/
def State.setProg (s : State) (m : Fin 3) (n : Nat) : State := s.pmrUpd (fun p => { p with prog := p.prog.set m n })

/-- Member m is out of the vote: it is held in reset while its memories are copied from the majority, or, the third time within RESYNC_WIN,
retired (R328). -/
def State.exclude (s : State) (m : Fin 3) : State :=
  let w := s.rd .flt_RESYNC_WIN * secFu
  let recent := (s.flt.resync[m]).filter (fun a => s.clock < a + w)
  let s := (s.setProg m 0).fltUpd (fun f => { f with resync := f.resync.set m ((s.clock :: recent).take 3) })
  if 2 ≤ recent.length then (s.setMember m 2).detect clsControl 2 (unitCore m) (some (0x1307, m.val))
  else
    let s := (s.setMember m 1).bump (if m.val = 0 then .flt_RESYNC_A else if m.val = 1 then .flt_RESYNC_B else .flt_RESYNC_C) 0
    s.detect clsControl 1 (unitCore m) (some (0x1306, m.val))

/-- VOTER_MISMATCH: the members' outputs on one clock. Without an output that two members give the majority is lost; a member that gives
another than the two does is excluded. -/
def State.voterMismatch (s : State) (o : Vector (BitVec 32) 3) : State :=
  if s.flt.coreDown then s
  else
    match s.votePass o with
    | none => s.coreLoss
    | some x =>
      match s.voters.find? (fun m => o[m] != x) with
      | some m => s.exclude m
      | none => s

/-- RESYNC_DONE: the member, its memories those of the majority, rejoins the lockstep. -/
def State.resyncDone (s : State) (m : Fin 3) : State :=
  if s.member m == 1 && !s.flt.coreDown then (s.setProg m s.running_).setMember m 0 else s

/-- CORE_RESTART_DONE: the three members run again. -/
def State.coreRestart (s : State) : State :=
  if !s.flt.coreDown then s
  else
    let s := (s.fltUpd (fun f => { f with coreDown := false })).loadCore s.running_
    let s := (((s.setMember 0 0).setMember 1 0).setMember 2 0).wrB .flt_CORE_RESTARTED 0 true
    s.emit 0x1308 (s.rd .flt_MAJ_LOSS)

/-! ### RST_MODULE and the boot record (R341, R343) -/

/-- RST_MODULE: cause 2 from a session, 4 through JTAG, which only a high PROVISION_EN lets in (R360). -/
def State.rstModule (s : State) (own jtag : Bool) : State :=
  if jtag && !s.flag .ctl_PROV then s.bump .hdr_DENY_CNT 0
  else if (!own && !jtag) || s.pwr == .acquire then s.wrB .pmr_PWR_CMD_ERR 0 true
  else s.warmReset (if jtag then 4 else 2)

/-- FW_ACTIVATE: with FW_STATE VALID the slot that is not ACTIVE becomes the trial slot. -/
def State.fwActivate (s : State) (own : Bool) : State :=
  if own && s.rd .ctl_FW_STATE == 4 then s.bootRec (fun f => { f with trial := true }) else s.wrB .pmr_CFG_ERR 0 true

/-- FW_CONFIRM: the trial slot becomes ACTIVE; without a trial CFG_ERR. -/
def State.fwConfirm (s : State) (own : Bool) : State :=
  if own && s.flag .pmr_TRIAL then
    (s.bootRec (fun f => { f with active := s.flag .pmr_BOOT_SLOT, trial := false })).wrB .pmr_TRIAL 0 false
  else s.wrB .pmr_CFG_ERR 0 true

/-- CONFIRM_TMO seconds after READY the trial ends. -/
def State.confirmTmo (s : State) : State :=
  let n := s.rd .pmr_CONFIRM_TMO
  match s.pmr.readyAt with
  | some a => if s.flag .pmr_TRIAL && n != 0 && a + n * secFu ≤ s.clock then s.trialEnd 1 else s
  | none => s

/-! ### The commands -/

/-- POWER_ON: VIN rises above 5.6 V. -/
def execPowerOn (t : Nat) (s : State) : Host.Outcome State Fault Refusal :=
  run t (fun s => (s.pmrUpd (fun p => { p with vin := true })).tryStart) s
/-- VIN_UNDERVOLTAGE. -/
def execVinUndervoltage (t : Nat) (s : State) : Host.Outcome State Fault Refusal :=
  run t (fun s => (s.pmrUpd (fun p => { p with vin := false })).coldReset 0) s
/-- PWR_EN_LOW. -/
def execPwrEnLow (t : Nat) (s : State) : Host.Outcome State Fault Refusal :=
  run t (fun s => (s.pmrUpd (fun p => { p with pwrEn := false })).coldReset 0) s
/-- RESET_N_LOW. -/
def execResetNLow (t : Nat) (s : State) : Host.Outcome State Fault Refusal :=
  run t (fun s => (s.pmrUpd (fun p => { p with resetN := false })).coldReset 1) s
/-- RESET_RELEASE_HIGH: of RESET_N, or of PWR_EN. -/
def execResetReleaseHigh (t : Nat) (rstN : Bool) (s : State) : Host.Outcome State Fault Refusal :=
  run t (fun s => (s.pmrUpd (fun p => if rstN then { p with resetN := true } else { p with pwrEn := true })).tryStart) s
/-- START_COMPLETE. -/
def execStartComplete (t : Nat) (x : StartUp) (s : State) : Host.Outcome State Fault Refusal := run t (fun s => s.startComplete x) s
/-- A rail was not in regulation 20 ms into the rail sequence: PMR stays in START, every other block in reset, and the sequence runs again
1 s after it began (R340). -/
def State.railRetry (s : State) : State :=
  if s.pwr == .start && !s.pmr.recovery && !s.pmr.counted && s.pmr.railAt + 20 * msFu ≤ s.clock then
    let a := s.pmr.railAt + secFu
    let s := (s.blkRegs Blk.flt.idx).pmrUpd (fun p => { p with railAt := a, upFrom := a + 20 * msFu, fltFrom := a + 22 * msFu })
    { s with flt := {}, detected := [] }
  else s
/-- RAIL_RETRY. -/
def execRailRetry (t : Nat) (s : State) : Host.Outcome State Fault Refusal := run t State.railRetry s
/-- RESYNC_DONE. -/
def execResyncDone (t : Nat) (m : Fin 3) (s : State) : Host.Outcome State Fault Refusal := run t (fun s => s.on .flt (fun s => s.resyncDone m)) s
/-- CORE_RESTART_DONE. -/
def execCoreRestartDone (t : Nat) (s : State) : Host.Outcome State Fault Refusal := run t (fun s => s.on .flt State.coreRestart) s
/-- RST_MODULE. -/
def execRstModule (t : Nat) (own jtag : Bool) (s : State) : Host.Outcome State Fault Refusal :=
  run t (fun s => s.on .pmr (fun s => s.rstModule own jtag)) s
/-- BLK_RST: of the blocks of mask m. -/
def execBlkRst (t : Nat) (m : BitVec 20) (own : Bool) (s : State) : Host.Outcome State Fault Refusal :=
  run t (fun s => s.on .pmr (fun s => s.blkRst m.toNat own)) s
/-- BLOCK_RESET_RELEASE: of block b; TRE samples the straps. -/
def execBlockResetRelease (t : Nat) (b : Fin 20) (strapRole : BitVec 2) (strapPos : BitVec 4) (s : State) :
    Host.Outcome State Fault Refusal := run t (fun s => s.on .pmr (fun s => s.blkRelease b strapRole.toNat strapPos.toNat)) s
/-- FW_ACTIVATE. -/
def execFwActivate (t : Nat) (own : Bool) (s : State) : Host.Outcome State Fault Refusal := run t (fun s => s.on .pmr (fun s => s.fwActivate own)) s
/-- FW_CONFIRM. -/
def execFwConfirm (t : Nat) (own : Bool) (s : State) : Host.Outcome State Fault Refusal := run t (fun s => s.on .pmr (fun s => s.fwConfirm own)) s
/-- CONFIRM_TMO. -/
def execConfirmTmo (t : Nat) (s : State) : Host.Outcome State Fault Refusal := run t (fun s => s.on .pmr State.confirmTmo) s

end Sys2Proof.Machine
end

