-- ==== Sys2Proof/Machine/Relay.lean ====
section
/-! DEFINITION. What waits for the modules below: Thabor sessions and their replies, and requests this module sent on to others (R259, R260, R285
to R290). -/

namespace Sys2Proof.Machine

open Sys2Proof

/-! ### Sessions -/

def State.ctlUpd (s : State) (f : Ctl → Ctl) : State := { s with ctl := f s.ctl }

/-- Session n, when it is open. -/
def State.session (s : State) (n : Fin 8) : Option Sess := s.ctl.sess[n]
def State.setSession (s : State) (n : Fin 8) (x : Option Sess) : State := s.ctlUpd (fun c => { c with sess := c.sess.set n x })

/-! ### The seal (R285, R286, table Host-6) -/

/-- The nonce: SALT, then MSG_SEQ. -/
def thbNonce (salt seq : Nat) : List Nat := bytesLE 4 salt ++ bytesLE 8 seq

/-- Bytes 0x00 to 0x17 of a message whose body has n bytes. -/
def thbHeadBytes (mtype slot sess salt seq target n : Nat) : List Nat :=
  [1, mtype, slot, sess] ++ bytesLE 4 salt ++ bytesLE 8 seq ++ bytesLE 4 target ++ bytesLE 2 n ++ [0, 0]

/-- The 16 bytes of a key, word 0 least significant, as AES takes them: in the order of their addresses (DEDUCED, log entry 111). -/
def thbKey (key : Nat) : Nat := ofBytesBE (bytesLE 16 key)

/-- A body encrypted under a key, and the tag of the message. -/
def thbSeal (key mtype slot sess salt seq target : Nat) (body : List Nat) : List Nat × BitVec 128 :=
  let c := gcmCrypt (thbKey key) (thbNonce salt seq) body
  (c, gcmTag (thbKey key) (thbNonce salt seq) (thbHeadBytes mtype slot sess salt seq target body.length) c)

/-- A message to send, of a type and with a body, sealed under a key. -/
def ThbOut.seal (m : ThbOut) (key mtype : Nat) (body : List Nat) : ThbOut :=
  let c := thbSeal key mtype m.slot m.sess m.salt m.seq m.target body
  { m with body := c.1, tag := c.2 }

/-- The port a reply leaves from: that the message came to (R285, R292). -/
def State.thbSport (s : State) (local_ : Bool) : Nat := if local_ then 47162 else s.rd .ctl_THB_PORT

/-- The head of the next message of session n, x, to a sender (R285 to R287); TARGET_ID is 0 (DEDUCED, log entry 111). -/
def State.sessHead (s : State) (n : Fin 8) (x : Sess) (ip port : Nat) (local_ : Bool) : ThbOut :=
  { ip := ip, port := port, vlan := s.ctlTag, local_ := local_, sport := s.thbSport local_, slot := x.slot, sess := n, salt := x.salt,
    seq := 2 ^ 63 + x.tx }

/-- The body of a REPLY (R289): of each operation STATUS, OP and COUNT, and behind a READ that is done its words. -/
def replyBody (l : List OpRep) : List Nat :=
  l.flatMap (fun r => [r.status % 256, r.op % 256] ++ bytesLE 2 r.count ++ r.words.flatMap (fun w => bytesLE 4 w))

def reg10 (i : Nat) : Fin 10 := ⟨i % 10, Nat.mod_lt _ (by decide)⟩
def reg8 (i : Nat) : Fin 8 := ⟨i % 8, Nat.mod_lt _ (by decide)⟩

/-! ### Replies -/

/-- A REPLY of session n goes out, sealed under a key, to the request of MSG_SEQ seq; while ETH is in reset nothing does (R371). -/
def State.thbSay (s : State) (n : Fin 8) (key ip port : Nat) (local_ : Bool) (seq : Nat) (l : List OpRep) : State :=
  match if s.alive .eth then s.session n else none with
  | some x =>
    { s.setSession n (some { x with tx := x.tx + 1 }) with
      out := .reply ((s.sessHead n x ip port local_).seal key 4 (replyBody l)) seq l :: s.out }
  | none => s

/-- A REPLY to a request executed: it goes out, and is kept among the session's last four (R288). -/
def State.thbReply (s : State) (n : Fin 8) (key ip port : Nat) (local_ : Bool) (seq : Nat) (l : List OpRep) : State :=
  match s.session n with
  | some x =>
    let reps := x.reps ++ [(seq, l)]
    (s.setSession n (some { x with reps := reps.drop (reps.length - 4) })).thbSay n key ip port local_ seq l
  | none => s

/-- The answers of a relayed REQUEST, once all are there. -/
def PendMsg.answers (p : PendMsg) : Option (List OpRep) :=
  p.ops.foldr (fun o acc => match o, acc with
    | .done r, some l => some (r :: l)
    | _, _ => none) (some [])

/-- Messages all of whose relays are answered are replied to (R290). -/
def State.pendReply (s : State) : State :=
  let l := s.ctl.pend
  let s := s.ctlUpd (fun c => { c with pend := l.filter (fun p : PendMsg => p.answers.isNone) })
  s.each l (fun p s =>
    match p.answers with
    | some a => s.thbReply (reg8 p.sess) p.key p.ip p.port p.local_ p.seq a
    | none => s)

/-! ### Relay at the originating module (R259, R290) -/

/-- The way to a module: the primary child link whose subtree holds it. -/
def State.routeTo (s : State) (id : Nat) : Option (Fin 10) :=
  match s.subEnt id with
  | some e => if s.linkUp (reg10 e.link) && s.rd .tre_LINK_ROLE (reg10 e.link) == 4 then some (reg10 e.link) else none
  | none => none

/-- A request put on a link, counted as forwarded. -/
def State.relayOn (s : State) (l : Fin 10) (q : RelayReq) : State := (s.bump .tre_RELAY_FWD 0).sendV0 l (.relayReq q)

/-- A relay has its answer: its operation's answer stands in the message that waits. -/
def State.relayResolve (s : State) (seq status : Nat) (words : List Nat) : State :=
  let s := s.treUpd (fun t => { t with relays := t.relays.filter (fun w => w.seq != seq) })
  let up (o : PendOp) : PendOp := match o with
    | .wait n op c => if n = seq then .done ⟨status, op, c, if status = 0 then words else []⟩ else o
    | o => o
  (s.ctlUpd (fun c => { c with pend := c.pend.map (fun p : PendMsg => { p with ops := p.ops.map up }) })).pendReply

/-- RELAY_REPLY_RX: forwarded toward the root, or gathered at the module that asked. -/
def State.relayGather (s : State) (p : RelayRep) : State :=
  if p.src != s.myId then s.sendUp (.relayRep p)
  else
    match s.tre.relays.find? (fun w => w.seq == p.seq.toNat) with
    | none => s
    | some w =>
      if w.target != 0xFFFFFFFF then s.relayResolve w.seq p.status p.words
      else if !w.left.contains p.from_ then s
      else
        let w' := { w with left := w.left.erase p.from_, status := if w.status = 0 then p.status else w.status }
        if w'.left.isEmpty then s.relayResolve w.seq w'.status []
        else s.treUpd (fun t => { t with relays := t.relays.map (fun x : RelayWait => if x.seq == w.seq then w' else x) })

/-- RELAY_TIMEOUT: no answer within 10 ms. -/
def State.relayTimeout (s : State) (seq : Nat) : State :=
  match s.tre.relays.find? (fun w => w.seq == seq) with
  | some w => if w.at_ + 10 * msFu ≤ s.clock then s.relayResolve seq (if w.status = 0 then 3 else w.status) [] else s
  | none => s

/-- The answer of this module to a relay request: kept for a repeat of it, and sent toward the root or, where this module asked, gathered
(R259, R260). -/
def State.relayAnswer (s : State) (q : RelayReq) (status : Nat) (words : List Nat) : State :=
  let p : RelayRep := ⟨s.myId, q.src, q.seq, status, words⟩
  if q.src == s.myId then s.relayGather p else (s.treUpd (fun t => { t with done := ((q, p) :: t.done).take 32768 })).sendUp (.relayRep p)

/-- The outcome of a commit that a relay request asked for, answered now that it is known (R259; DESIGN CHOICE, log entry 207). -/
def State.commitSaid (s : State) (g : Staged) (ok : Bool) : State :=
  match g.req with
  | some q => s.on .tre (fun s => s.relayAnswer q (if ok then 0 else 4) [])
  | none => s

end Sys2Proof.Machine
end

