-- ==== Sys2Proof/Machine/Commit.lean ====
section
/-! DEFINITION. The commit: its capture, its checks, and what putting it in force starts, changes and drains (R9, R12, R15, R33,
R45, R94, R99, R101, R110, R114 to R118, R351, R356, R357). -/

namespace Sys2Proof.Machine

open Sys2Proof

/-! ### The staged configuration (R114) -/

/-- A field as the staged configuration would put it in force. -/
def Staged.rd (g : Staged) (f : Fld) (i : Nat := 0) : Nat := spGet g.regs (f.key i) (f.resetVal i)

/-- The mode word of region r it would put in force. -/
def Staged.mode (g : Staged) (r : Nat) : Nat := g.rd .seq_REGION_MODE r

/-- It changes instance i of field f. -/
def State.changes (s : State) (g : Staged) (f : Fld) (i : Nat := 0) : Bool := g.rd f i != s.rd f i

/-- A non-zero mode word is in it. -/
def Staged.acquires (g : Staged) : Bool := (List.range 16).any (fun r => g.mode r != 0)

/-- It holds WINDOW in a region. -/
def Staged.windows (g : Staged) : Bool := (List.range 16).any (fun r => bit (g.mode r) mWindow)

/-! ### The status bits a failing check sets (R115) -/

/-- CFG_ERR of the page that holds instance i of field f. -/
def Fld.errOf (f : Fld) (i : Nat) : Fld × Nat :=
  match f.desc.blk with
  | .pmr => (.pmr_CFG_ERR, 0) | .sns => (.sns_CFG_ERR, 0) | .pfe => (.pfer_CFG_ERR, i)
  | .tdc => if f.desc.region then (.tdcr_CFG_ERR, i) else (.tdc_CFG_ERR, 0)
  | .seq => (.seq_CFG_ERR, 0) | .evb => (.evb_CFG_ERR, 0) | .trg => (.trg_CFG_ERR, 0) | .hst => (.hstr_CFG_ERR, i)
  | .acc => (.accr_CFG_ERR, i) | .cmp => (.cmpr_CFG_ERR, i) | .que => (.que_CFG_ERR, 0) | .cab => (.cab_CFG_ERR, 0)
  | .edc => (.edc_CFG_ERR, 0) | .tbs => (.tbs_CFG_ERR, 0) | .lnk => (.lnk_CFG_ERR, 0) | .tre => (.tre_CFG_ERR, 0)
  | .eth => (.eth_CFG_ERR, 0) | .ctl => (.ctl_CFG_ERR, 0) | .hka => (.hka_CFG_ERR, 0) | .flt => (.flt_CFG_ERR, 0)

/-- The fields a register table limits with "rejected at commit". -/
def limFields : List Fld :=
  [.sns_BIAS_SLEW, .sns_RAMP_RATE, .sns_OC_TOTAL, .sns_VEX, .sns_BR_TRIM, .sns_OC_LIMIT, .pfer_INJ_PERIOD, .tdcr_CAL_JUMP,
   .evb_REORDER_WIN, .trg_TRIG_FIX_LAT, .trg_RATE_WIN, .trg_TO_WIDTH, .hstr_GATE_NSTEP, .que_STARVE_LIMIT, .que_SHARE_CAP,
   .que_HOLD_MARK, .que_HOLD_LIMIT, .cab_SCRUB_PERIOD, .cab_READ_SHARE, .edc_SRAM_WIN, .tbs_LOCK_CNT, .tbs_UNLOCK_THR,
   .tbs_SLEW_LIM, .tbs_HO_AVG, .tbs_PPS_WIDTH, .lnk_HB_MISS, .lnk_RETRY_MAX, .lnk_REPLAY_TMO, .tre_MERGE_WAIT, .tre_ROOT_ID,
   .eth_VID, .eth_ACK_TMO, .eth_RETRY_CNT, .eth_MSG_LOG2, .eth_RECOV_US, .ctl_THB_PORT, .ctl_SESS_IDLE, .hka_SCAN_PER,
   .hka_TEC_PER, .flt_RESYNC_WIN]

/-- The limits of the register tables. -/
def limErrs (g : Staged) : List (Fld × Nat) :=
  limFields.flatMap (fun f => ((List.range f.desc.count).filter (fun i =>
    f.desc.rej.any (fun p => p.1 ≤ g.rd f i && g.rd f i ≤ p.2))).map (fun i => f.errOf i))

/-! ### The tick (R9, R12, R15, R117) -/

/-- The period num / den seconds lies outside 10 us to 1 s. -/
def badPeriod (num den : Nat) : Bool := den == 0 || num * 100000 < den || den < num

/-- The commit is of a schedule, none running. -/
def State.firstSchedule (s : State) (g : Staged) : Bool :=
  s.isRoot && !s.running &&
    [Fld.seq_TICK_NUM, .seq_TICK_DEN, .seq_TICK_EPOCH, .seq_TICK_BASE].any (fun f => s.changes g f)

/-- The commit changes the period of a running schedule at the root. -/
def State.rebases (s : State) (g : Staged) : Bool :=
  s.isRoot && s.running && (s.changes g .seq_TICK_NUM || s.changes g .seq_TICK_DEN)

def State.tickErrs (s : State) (g : Staged) : List (Fld × Nat) :=
  let early := match timeOfWords (g.rd .seq_TICK_EPOCH) with
    | some x => decide (x < s.tbNow + 10 * msFu)
    | none => true
  let moved := s.isRoot && s.running && (s.changes g .seq_TICK_EPOCH || s.changes g .seq_TICK_BASE)
  let near := match g.target with | some b => decide (b < g.atK + 16) | none => true
  if badPeriod (g.rd .seq_TICK_NUM) (g.rd .seq_TICK_DEN) || (s.firstSchedule g && early) || moved || (s.rebases g && near) then
    [(.seq_TICK_CFG_ERR, 0)]
  else []

/-- The smallest period in ns that passes for a mode word (R15, tables Architecture-5 and Architecture-6). -/
def needNs (m : Nat) : Nat :=
  let on (b n : Nat) : Nat := if bit m b then n else 0
  let floor := if mode12 m then 62500 else if m != 0 then 10000 else 0
  let link := 1000 + (if mode12 m then 49152 else on mBinary 4096)
  let bank := 1000 + on mAccum 24576 + on mHisto 6144
  let engine := 1000 + (if m &&& 0x14 != 0 then 32768 else 0) + on mBinary 4096 + on mHisto 8192 + on mAccum 32768
  max (max floor link) (max bank engine)

/-- The management sequencer's work in ns. -/
def needMgmt : Nat := 9000

/-- A period num / den seconds is at least n ns. -/
def periodHas (num den n : Nat) : Bool := n * den ≤ num * 1000000000

/-- The regions whose tick does not fit, and the smallest period that would pass. -/
def Staged.budget (g : Staged) : List Nat × Nat :=
  let num := g.rd .seq_TICK_NUM
  let den := g.rd .seq_TICK_DEN
  ((List.range 16).filter (fun r => !periodHas num den (max needMgmt (needNs (g.mode r)))),
   (List.range 16).foldl (fun a r => max a (needNs (g.mode r))) needMgmt)

def Staged.budgetErrs (g : Staged) : List (Fld × Nat) := if g.budget.1.isEmpty then [] else [(.seq_TICK_BUDGET_ERR, 0)]

/-! ### The fields of one block against each other -/

/-- Threshold plus 0.50 V does not exceed the excess bias (R33), in 10 mV. -/
def Staged.thrErrs (g : Staged) : List (Fld × Nat) :=
  ((List.range 16).filter (fun r => g.rd .sns_VEX r < 70 + 5 * g.rd .pfer_SENSE_THR r)).flatMap (fun r =>
    [(.pfer_CFG_ERR, r), (.pfer_THR_ERR, r)])

/-- The pulse spacing of INJ_REF = 0 (R45). -/
def Staged.injErrs (g : Staged) : List (Fld × Nat) :=
  ((List.range 16).filter (fun r => g.rd .pfer_INJ_REF r == 0 && 4 * g.rd .pfer_INJ_PERIOD r < 4 * g.rd .pfer_HOLDOFF r + 2)).map
    (fun r => (.pfer_CFG_ERR, r))

/-- What a non-zero mode word needs (R94), and TEST with INJ_EN (R99). -/
def State.modeErrs (s : State) (g : Staged) : List (Fld × Nat) :=
  let may := (s.pwr == .ready || s.pwr == .acquire) && s.flag .pmr_ACQ_ENABLED && s.running
  let test (r : Nat) : Bool :=
    (bit (g.mode r) mTest && g.rd .pfer_INJ_EN r == 0) ||
      (g.rd .pfer_INJ_EN r == 1 && !bit (g.mode r) mTest && !s.hasMode r mTest)
  if (g.acquires && !may) || (List.range 16).any test then [(.seq_MODE_ERR, 0)] else []

def gateFields : List Fld := [.hstr_GATE_REF, .hstr_GATE_CYCLE, .hstr_GATE_START, .hstr_GATE_STOP, .hstr_GATE_STEP, .hstr_GATE_NSTEP]

/-- The commit puts GATE in force in region r, or changes a gate field while it is. -/
def State.gateNew (s : State) (g : Staged) (r : Nat) : Bool :=
  bit (g.mode r) mGate && (!s.hasMode r mGate || gateFields.any (fun f => s.changes g f r))

/-- The gate of step k of region r cannot be (R101). -/
def Staged.badGate (g : Staged) (r k : Nat) : Bool :=
  let d := (k : Int) * sgn 29 (g.rd .hstr_GATE_STEP r)
  let a := (g.rd .hstr_GATE_START r : Int) + d
  let b := (g.rd .hstr_GATE_STOP r : Int) + d
  decide (b - a < 64) || decide (a < 0) || decide (160000000 < b) ||
    (g.rd .hstr_GATE_REF r == 1 && decide (((g.rd .seq_TICK_NUM * secFu : Nat) : Int) < b * (g.rd .seq_TICK_DEN : Nat)))

def State.gateErrs (s : State) (g : Staged) : List (Fld × Nat) :=
  ((List.range 16).filter (fun r => s.gateNew g r && (g.badGate r 0 || g.badGate r (g.rd .hstr_GATE_NSTEP r - 1)))).flatMap (fun r =>
    [(.hstr_CFG_ERR, r), (.hstr_GATE_CFG_ERR, r)])

/-- TRG: the latency at the root (R138), the windows' lengths and their ring reel (table Events-12's registers). -/
def State.trgErrs (s : State) (g : Staged) : List (Fld × Nat) :=
  let lat := s.isRoot && g.rd .trg_TRIG_FIX_LAT <
    trigLatMin (s.rd .tre_DEPTH) (g.rd .trg_LOC_COINC) (g.rd .trg_REQ_MERGE) (g.rd .trg_DEC_COINC)
  let ring := g.windows && !(match s.reel (g.rd .trg_WIN_REEL) with | some q => q.ring | none => false)
  if lat || ring || g.rd .trg_WIN_PRE + g.rd .trg_WIN_POST == 0 then [(.trg_CFG_ERR, 0)] else []

/-- CAB: the mapping (R190), and what keeps it from recording (R205, R340). WIN_REEL is one of the reels named while a region has WINDOW. -/
def State.cabErrs (s : State) (g : Staged) : List (Fld × Nat) :=
  let own := (List.range 8).map (fun k => g.rd .cab_STREAM_REEL k)
  let map := g.rd .trg_WIN_REEL :: own ++ (List.range 4).map (fun d => g.rd .cab_DOWN_REEL d)
  let many := 3 < ((if g.windows then [g.rd .trg_WIN_REEL] else []) ++ own.take 5).eraseDups.length
  if map.any (fun n => (s.reel n).isNone) || many || (g.acquires && (s.flag .pmr_CAB_OFFLINE || s.flag .cab_REPAIR_BUSY)) then
    [(.cab_CFG_ERR, 0)]
  else []

/-- ETH: the queue pairs it puts in force (R274, table Host-13). -/
def Staged.ethErrs (g : Staged) : List (Fld × Nat) :=
  let on := (List.range 8).filter (fun q => g.rd .eth_QP_EN q == 1)
  let bad (q : Nat) : Bool :=
    let n := g.rd .eth_RING_LOG2 q
    g.rd .eth_PMTU q == 3 || g.rd .eth_RING_VA q % 4096 != 0 ||
      (if g.rd .eth_QP_USE q == 1 then n < 11 || 25 < n else n < 16 || 38 < n)
  let twice (u : Nat) : Bool := 1 < (List.range 8).countP (fun q => g.rd .eth_QP_USE q == u)
  if on.any bad || (!on.isEmpty && (twice 1 || twice 2)) then [(.eth_CFG_ERR, 0)] else []

/-- HKA: the scan spacing (R297) and the die temperature limits. -/
def State.hkaErrs (s : State) (g : Staged) : List (Fld × Nat) :=
  let tick := s.running || !s.seq.segs.isEmpty || s.firstSchedule g
  let (num, den) := match g.rd .hka_SCAN_TRIG with
    | 0 => (g.rd .hka_SCAN_PER, 100000)
    | 1 => (g.rd .hka_TEC_PER, 10000000)
    | _ => if tick then (g.rd .seq_TICK_NUM, g.rd .seq_TICK_DEN) else (1, 1000)
  let most := if g.rd .hka_MAINS == 0 then 1187500 else 979200
  let scan := !periodHas num den 10000 || most * den < num * 1000000000 || (g.rd .hka_SCAN_TRIG == 1 && g.rd .hka_TEC_EN == 0)
  (if scan then [(.hka_CFG_ERR, 0), (.hka_SCAN_CFG_ERR, 0)] else []) ++
    (if g.rd .hka_DIE_T_TRIP < g.rd .hka_DIE_T_WARN then [(.hka_CFG_ERR, 0)] else [])

/-- The rest: CMP_EN with a mode word (R168), a source listed twice, COMPAT taps, and PORT_SPLIT of an enabled port. -/
def State.miscErrs (s : State) (g : Staged) : List (Fld × Nat) :=
  let p := g.rd .tbs_SRC_PRIO
  let l := [bits p 0 2, bits p 2 2, bits p 4 2].filter (· != 0)
  ((List.range 16).filter (fun r => g.rd .cmpr_CMP_EN r == 0 && g.mode r != 0)).map (fun r => (.cmpr_CFG_ERR, r)) ++
    (if l.eraseDups.length != l.length then [(.tbs_CFG_ERR, 0)] else []) ++
    (if (List.range 10).any (fun n => 38 < g.rd .lnk_COMPAT_PRE n + g.rd .lnk_COMPAT_POST n) ||
        (List.range 4).any (fun d => bit (g.rd .lnk_PORT_SPLIT) d != s.rdBit .lnk_PORT_SPLIT 0 d && s.rdBit .lnk_PORT_EN 0 (2 + d)) then
      [(.lnk_CFG_ERR, 0)] else [])

/-- Every status bit a staged configuration's failing checks set; none for one that passes. -/
def State.commitErrs (s : State) (g : Staged) : List (Fld × Nat) :=
  limErrs g ++ s.tickErrs g ++ g.budgetErrs ++ g.thrErrs ++ g.injErrs ++ s.modeErrs g ++ s.gateErrs g ++ s.trgErrs g ++
    s.cabErrs g ++ g.ethErrs ++ s.hkaErrs g ++ s.miscErrs g

/-- The commit is rejected: its flags, and nothing else, change. -/
def State.commitReject (s : State) (g : Staged) : State :=
  let s := (s.wrB .seq_CFG_ERR 0 true).each (s.commitErrs g) (fun e s => s.wrB e.1 e.2 true)
  match g.budget.1 with
  | [] => s
  | r :: _ => (s.wr .seq_TICK_BUDGET_REGION 0 r).wr .seq_TICK_BUDGET_MIN 0 g.budget.2

/-! ### Modes at a boundary (R95, R110, R118) -/

/-- ACCUM of region r at the boundary of tick k, its mode word going from m to n: begun, ended, or cut short because restart
says that its cycle changes. -/
def State.accChange (s : State) (r : Fin 16) (k m n : Nat) (restart : Bool) : State :=
  let a := s.accR r
  let fresh := a.k0 == k
  let cut (last : Bool) (s : State) : State :=
    if fresh then s.upFrame r (k - 1) (fun f => { f with accFinal := last })
    else (s.upFrame r (k - 1) (fun f => { f with cycEnd := true, partial_ := true, accFinal := last })).upRec r k (fun c => {
      c with accKnown := false })
  if bit m mAccum && !bit n mAccum then
    let s := s.when a.on (cut true)
    (s.setAccR r { s.accR r with on := false }).subIdx r k
  else if !bit m mAccum && bit n mAccum then s.accBegin r k
  else if bit n mAccum && restart then (cut false s).accBegin r k
  else s

/-- WINDOW put in force at the boundary of tick k: no window begins before it, and no drain of it goes on (R118). -/
def State.windowStart (s : State) (r : Fin 16) (k : Nat) : State :=
  let s := s.setEvbR r { s.evbR r with winDrain := false, winEnd := 0, winFrom := s.tickTime k }
  { s with seq := { s.seq with draining := s.seq.draining.set r (setBit s.seq.draining[r] mWindow false) } }

/-- The mode word of region r goes from m to n at the boundary of tick k: modes cleared drain, modes set begin (R118). A product is shared
by the modes that stay, those of both words. -/
def State.modeChange (s : State) (r : Fin 16) (k m n : Nat) : State :=
  let c := m &&& (0xFF ^^^ n)
  let test := if toEngine m && !toEngine n then 0 else 0x80
  let stay := m &&& n
  let shared := (if stay &&& 0x14 != 0 then 0x14 else 0) ||| (if stay &&& 3 != 0 then 3 else 0) ||| test
  let owed := c &&& (0xFF ^^^ shared)
  let ends := (if stay &&& 0x14 == 0 then c &&& 0x14 else 0) ||| (c &&& 0x20)
  let s := (s.upRec r k (fun q => { q with mode := n })).freshStreams r k m n
  let s := s.when (c != 0) (fun s => { s with seq := { s.seq with
    drainOrd := setBit s.seq.drainOrd r true, draining := s.seq.draining.set r (s.seq.draining[r] ||| owed) } })
  let s := s.when (n != m && n != 0) (fun s => s.wrBit .seq_REGION_FINAL 0 r false)
  let s := s.when (ends != 0) (fun s => s.upFrame r (k - 1) (fun f => { f with ends := f.ends ||| ends }))
  let s := s.when (bit c mWindow) (fun s => (s.setEvbR r { s.evbR r with winDrain := true, winEnd := k }).winDrained r)
  let s := s.when (bit n mWindow && !bit m mWindow) (fun s => s.windowStart r k)
  let s := s.when (bit c mGate) (fun s => (s.gateStop r).gateIdx r k 0 false)
  let s := s.when (bit n mHisto && !bit m mHisto) (fun s => s.histoStart r k (s.tickTime k))
  s.when (bit c mTest) (fun s => s.wrB .pfer_INJ_EN r false)

/-- A region's mode word cleared by the module itself at the boundary of tick k (R118, R119), in force and in the shadow, which
SAFE entry keeps (R356). -/
def State.modeClear (s : State) (r : Fin 16) (k : Nat) (drain : Bool) : State :=
  let m := s.mode r
  let w := s.wr .seq_REGION_MODE r 0
  let s := if bit s.seq.safeKeep r then { w with shadow := s.shadow } else w
  let s := { s with seq := { s.seq with cleared := setBit s.seq.cleared r true } }
  if drain then (s.modeChange r k m 0).accChange r k m 0 false
  else s.when (bit m mGate) (fun s => s.gateIdx r k 0 false) |>.upRec r k (fun q => { q with mode := 0 })

/-! ### Enables at a boundary (R47, R70, R168) -/

def State.feChange (s : State) (r : Fin 16) (k m : Nat) (was : Bool) : State :=
  let now := s.flag .pfer_FE_EN r
  if was && !now then
    let s := s.setPfeR r { s.pfeR r with hold := [], testEnd := [], finalOwed := true }
    (s.upFrame r (k - 1) (fun f => { f with ends := f.ends ||| (m &&& 0x74) })).feFinal r
  else if now && !was then (s.setPfeR r { s.pfeR r with finalOwed := false }).wrB .pfer_FE_FINAL r false
  else s

def State.tdcChange (s : State) (r : Fin 16) (k : Nat) (was : Bool) : State :=
  let now := s.flag .tdcr_TDC_EN r
  if was && !now then
    s.setTdcR r { s.tdcR r with draining := true, endTick := if s.running && 0 < k then some (k - 1) else none }
  else if now && !was then (s.setTdcR r { s.tdcR r with draining := false, endTick := none }).wrB .tdcr_TDC_FINAL r false
  else s

def State.cmpChange (s : State) (r : Fin 16) (was : Bool) : State :=
  let now := s.flag .cmpr_CMP_EN r
  if was && !now then (s.setCmpR r { s.cmpR r with draining := true }).cmpDrained r
  else if now && !was then (s.setCmpR r { s.cmpR r with draining := false }).wrB .cmpr_CMP_FINAL r false
  else s

/-! ### Putting it in force (R115 to R117) -/

/-- A relay request to every module below. -/
def State.relayAll (s : State) (op : RelayOp) : State :=
  let q : RelayReq := ⟨s.myId, BitVec.ofNat 16 s.tre.relaySeq, 0xFFFFFFFF, 2, op⟩
  (s.treUpd (fun t => { t with relaySeq := (t.relaySeq + 1) % 2 ^ 16 })).sendDown (.relayReq q)

/-- A schedule in force, newest first. -/
def State.pushSeg (s : State) (g : Seg) : State := { s with seq := { s.seq with segs := g :: s.seq.segs.take 63 } }

/-- The tick parameters of a schedule in their registers, in force and in the shadow. -/
def State.tickRegs (s : State) (num den : Nat) (epoch : Int) (base : Nat) : State :=
  (((s.wr .seq_TICK_NUM 0 num).wr .seq_TICK_DEN 0 den).wr .seq_TICK_EPOCH 0 (timeWords epoch.toNat)).wr .seq_TICK_BASE 0 base

/-- The tick parameters of a commit at the boundary of tick k: a first schedule, or a rebase (R10, R117). A module that is not
the root keeps its own. old is the state before the commit. -/
def State.commitTicks (s old : State) (g : Staged) (k : Nat) : State :=
  let num := g.rd .seq_TICK_NUM
  let den := g.rd .seq_TICK_DEN
  if !old.isRoot then
    [Fld.seq_TICK_NUM, .seq_TICK_DEN, .seq_TICK_EPOCH, .seq_TICK_BASE].foldl (fun s f => s.wr f 0 (old.rd f)) s
  else if old.firstSchedule g then
    let epoch : Int := ((timeOfWords (g.rd .seq_TICK_EPOCH)).getD 0 : Nat)
    let base := g.rd .seq_TICK_BASE
    let s := { s with seq := { s.seq with segs := [⟨base, base, epoch, num, den⟩] } }
    s.relayAll (.ticks base num den epoch base)
  else if old.rebases g then
    let epoch := old.tickTime k
    (s.pushSeg ⟨k, k, epoch, num, den⟩).tickRegs num den epoch (k % 2 ^ 48)
  else s

/-- The pages with a value in force that u has changed, by their header's number (R357). -/
def State.pagesChanged (s u : State) : List Nat :=
  let keys := (s.force.map (·.1) ++ u.force.map (·.1)).filter (fun k => (s.force.find? (·.1 == k)) != (u.force.find? (·.1 == k)))
  let near (a b : Sp) (r : Nat) : Bool := spRange a (16384 * r) (16384 * (r + 1)) != spRange b (16384 * r) (16384 * (r + 1))
  let block (b : Blk) : List Nat :=
    if (pageFields false b).any (fun f => keys.any (fun k => k % 1024 == f.ctorIdx)) then [17 * b.idx] else []
  let region (b : Blk) (r : Nat) : Bool :=
    (pageFields true b).any (fun f => keys.contains (f.key r)) ||
      (b == .pfe && near s.pfe.maskF u.pfe.maskF r) || (b == .tdc && near s.tdc.offF u.tdc.offF r)
  allBlks.flatMap (fun b =>
    block b ++ if b.replicated then ((List.range 16).filter (region b)).map (fun r => 17 * b.idx + 1 + r) else [])

/-- CFG_EPOCH, EPOCH_TICK and PAGE_EPOCH of an accepted commit (R116, R357). -/
def State.epochUp (s : State) (pages : List Nat) (k : Nat) : State :=
  let s := (s.bump .seq_CFG_EPOCH 0).wr .seq_EPOCH_TICK 0 (if s.running then k % 2 ^ 48 else 0)
  s.each pages (fun p s => s.wr .hdr_PAGE_EPOCH p (s.rd .seq_CFG_EPOCH))

/-- What the commit does in region r at the boundary of tick k, whose instant is x on the coarse scale and the next one's y. -/
def State.commitRegion (s old : State) (g : Staged) (r : Fin 16) (k : Nat) (x y : Int) : State :=
  let m := old.mode r
  let n := s.mode r
  let acc := old.changes g .accr_ACC_N r ||
    (old.rd .accr_SHUTTER r) % 2 ^ (g.rd .accr_ACC_N r + 1) != (g.rd .accr_SHUTTER r) % 2 ^ (g.rd .accr_ACC_N r + 1)
  let gate := bit n mGate && old.gateNew g r
  let s := s.upRec r k (fun c => { c with
    epoch := s.rd .seq_CFG_EPOCH, masked := s.maskedCount r 0, binw := s.rd .hstr_HST_BINW r,
    flags := setBit c.flags hfZs (s.rdBit .evb_ZS_EN 0 r) })
  let s := (s.modeChange r k m n).accChange r k m n acc
  let s := s.when gate (fun s => s.gateRestart r k x (old.hasMode r mGate && old.flag .hstr_GATE_REF r))
  let s := ((s.feChange r k m (old.flag .pfer_FE_EN r)).tdcChange r k (old.flag .tdcr_TDC_EN r)).cmpChange r (old.flag .cmpr_CMP_EN r)
  if s.running then s.injTick r x y else s

/-- What the commit does in the blocks that have no regions. -/
def State.commitBlocks (s old : State) (k : Nat) : State :=
  let s := s.on .tbs (fun s => s.tbsCommit (old.rd .tbs_SERVO_MODE) old.timeParent)
  let s := s.on .hka (fun s => s.hkaCommit (old.rd .hka_MAINS) (old.rd .hka_RTD_EN) (old.rd .hka_CAL_PERIOD))
  let s := s.on .cab State.scrubPlan
  let s := s.on .tre (fun s => s.treCommit (old.flag .tre_TRE_EN) (old.flag .tre_STBY_EN))
  let s := s.on .lnk (fun s => s.lnkCommit (old.rd .lnk_PORT_EN))
  let s := s.on .eth (fun s => s.ethCommit old.qpOn (old.rd .eth_ETH_SPEED) (old.rd .eth_FEC_EN) (old.rd .eth_PFC_PRIO) (old.flag .eth_ETH_EN))
  let s := s.on .trg (fun s => s.trgCommit k (old.flag .trg_TRG_EN) (old.rd .trg_WIN_PRE) (old.rd .trg_WIN_POST))
  if s.isRoot && s.rd .trg_TRIG_FIX_LAT != old.rd .trg_TRIG_FIX_LAT then s.relayAll (.fixLat (s.rd .trg_TRIG_FIX_LAT)) else s

/-- A change of REORDER_WIN: the front stands where the old window left it, and words made due are released (R124). -/
def State.reorderChange (s : State) : State :=
  s.each (List.finRange 16) (fun r s => s.relAll r ((s.evbR r).store.length))

/-- The values a commit does not put in force, held by the module in force and in the shadow (R356): ZS_EN without the feature ZS, and the
mode word and INJ_EN of a region whose modes this boundary has cleared. -/
def State.ownValues (s : State) : State :=
  let s := if bit (s.rd .tre_TREE_FEAT) featZs then s else s.wr .evb_ZS_EN 0 0
  s.each (List.finRange 16) (fun r s => s.when (bit s.seq.cleared r) (fun s => (s.wr .seq_REGION_MODE r 0).wrB .pfer_INJ_EN r false))

/-- An accepted commit goes in force whole at the boundary of tick k (R115, R116). -/
def State.commitForce (s : State) (g : Staged) (k : Nat) (x : Int) : State :=
  let s := s.when (s.changes g .sns_RAMP_RATE) State.rampRebase
  let win := s.changes g .evb_REORDER_WIN
  let old := if win then s.each (List.finRange 16) (fun r s => s.frontUp r) else s
  let s := { old with force := g.regs, pfe := { old.pfe with maskF := g.mask }, tdc := { old.tdc with offF := g.off } }
  let s := s.ownValues.commitTicks old g k
  let s := s.epochUp (old.pagesChanged s) k
  let y := s.coarseOf (s.tickTime (k + 1))
  let s := s.each (List.finRange 16) (fun r s => s.commitRegion old g r k x y)
  let s := if win then s.reorderChange else s
  let s := s.commitBlocks old k
  if s.pwr == .ready && (List.range 16).any (fun r => s.mode r != 0) then
    let s := s.setPwr .acquire
    { s with pmr := { s.pmr with standbyPend := none } }
  else s

/-! ### COMMIT and its boundary (R114, R115) -/

/-- Every page's SHADOW_DIRTY cleared. -/
def State.cleanPages (s : State) : State :=
  { s with reg := s.reg.filter (fun e => e.1 % 1024 != Fld.ctorIdx .hdr_SHADOW_DIRTY) }

/-- A 48-bit tick index as the unbounded one nearest above the present tick; none for one that is not ahead. -/
def State.tickAheadOf (s : State) (n : Nat) : Option Nat :=
  let d := (n % 2 ^ 48 + 2 ^ 48 - s.seq.k % 2 ^ 48) % 2 ^ 48
  if d = 0 || 2 ^ 47 ≤ d then none else some (s.seq.k + d)

/-- The present tick or one gone, as a 48-bit index names it. -/
def State.tickGoneOf (s : State) (n : Nat) : Nat := s.seq.k - (s.seq.k % 2 ^ 48 + 2 ^ 48 - n % 2 ^ 48) % 2 ^ 48

/-- The first boundary that a configuration captured now can meet (R115). -/
def State.commitNext (s : State) : Nat :=
  if (s.tbNow : Int) + (4 * usFu : Nat) ≤ s.tickTime (s.seq.k + 1) then s.seq.k + 1 else s.seq.k + 2

/-- The shadows captured for a target (R114). -/
def State.capture (s : State) (target : Option Nat) : State :=
  let g : Staged := { regs := s.shadow, mask := s.pfe.maskS, off := s.tdc.offS, target := target,
                      earliest := s.clock + 4 * usFu, atK := s.seq.k }
  let s := (({ s with staged := some g }).wrB .seq_COMMIT_PEND 0 true).cleanPages
  match target with
  | some b =>
    if s.rebases g && (s.commitErrs g).isEmpty then
      s.relayAll (.ticks b (g.rd .seq_TICK_NUM) (g.rd .seq_TICK_DEN) (s.tickTime b) b)
    else s
  | none => s

/-- A commit for tick b: captured, or late when b's boundary is less than 4 us away or has passed. -/
def State.commitFor (s : State) (b : Option Nat) : State :=
  match b with
  | some b =>
    if (s.tbNow : Int) + (4 * usFu : Nat) ≤ s.tickTime b then s.capture (some b)
    else (s.wrB .seq_CFG_ERR 0 true).wrB .seq_COMMIT_LATE 0 true
  | none => (s.wrB .seq_CFG_ERR 0 true).wrB .seq_COMMIT_LATE 0 true

/-- COMMIT written. -/
def State.commitWrite (s : State) : State :=
  if s.staged.isSome then s.wrB .seq_COMMIT_BUSY 0 true
  else if s.flag .seq_COMMIT_AT_EN then
    if !s.running then (s.wrB .seq_CFG_ERR 0 true).wrB .seq_TICK_CFG_ERR 0 true
    else s.commitFor (s.tickAheadOf (s.rd .seq_COMMIT_TICK))
  else s.capture none

/-- The boundary just processed is the target of the staged configuration. -/
def State.commitDue (s : State) : Bool :=
  match s.staged with
  | none => false
  | some g => s.seq.boundaryAt == some s.clock && match g.target with
    | some b => s.running && b ≤ s.seq.k
    | none => g.earliest ≤ s.clock

/-- What a boundary does by the configuration in force from it on: the bias servo, whose result stands in the heads of tick k, and the
trigger source of the tick, begun at x (R25, R27, R29, R127). -/
def State.boundaryTail (s : State) (k : Nat) (x : Int) : State :=
  let s := s.snsTick.each (List.finRange 16) (fun r s => s.on .pfe (fun s => s.flushBehind r))
  let s := s.each (List.finRange 16) (fun r s => s.upRec r k (fun c => { c with
    flags := setBit (setBit c.flags hfBiasOk (s.flag .sns_BIAS_OK r)) hfFrozen (s.flag .sns_BIAS_FROZEN) }))
  s.when s.running (fun s => s.on .trg (fun s => s.trigSource 3 (s.coarseOf (s.tickTime k)) (min x (s.coarseOf (s.tickTime k) - 8))))

/-- COMMIT_BOUNDARY: the staged configuration is put in force, rejected, or dropped by SAFE (R20). -/
def State.commitBoundary (s : State) : State :=
  match s.staged with
  | none => s
  | some g =>
    if s.commitDue then
      let s := ({ s with staged := none }).wrB .seq_COMMIT_PEND 0 false
      let x := s.seq.start
      let y := s.coarseOf (s.tickTime (s.seq.k + 1))
      let again (s : State) : State := if s.running then s.each (List.finRange 16) (fun r s => s.injTick r x y) else s
      let ok := s.seq.safeAt != some s.clock && (s.commitErrs g).isEmpty
      let s := if s.seq.safeAt == some s.clock then again s
        else if (s.commitErrs g).isEmpty then s.commitForce g s.seq.k x
        else again (s.commitReject g)
      (s.boundaryTail s.seq.k x).commitSaid g ok
    else s

end Sys2Proof.Machine
end

