-- ==== Sys2Proof/Machine/Seq.lean ====
section
/-! DEFINITION. The sequencer: tick boundaries, pacing instants, power states, drains and aborts, and the edges, readout visits,
takes, offloads and scrubs that stand beside them (R10 to R20, R59, R66, R85, R117 to R119, R198, R207, R334, R378). -/

namespace Sys2Proof.Machine

open Sys2Proof

def State.seqUpd (s : State) (f : Seq → Seq) : State := { s with seq := f s.seq }

/-- The power state is one in which the sequencer marks ticks or pacing instants. -/
def State.paced (s : State) : Bool := s.pwr != .off && s.pwr != .start && !bit s.held Blk.seq.idx

/-! ### A boundary (R10, R16, R36, R85) -/

/-- Region r at the boundary of tick k, at x of the coarse scale, the next one at y: the check of R16, the head, the swap, and
what starts with the tick. gone says that the tick ended had no duration, into that the one beginning has none. -/
def State.tickRegion (s : State) (r : Fin 16) (k : Nat) (x y : Int) (marks : Nat) (gone into : Bool) : State :=
  let m := if bit s.seq.zero r then 0 else s.mode r
  let late := !gone && s.unfinished r k && (modeFrame (s.modeAt r (k - 1)) || modeFrame (s.modeAt r (k - 2)))
  let s := if late then
      ((s.bump .seq_TICK_OVR_CNT r).headFlag r (k - 1) hfOverrun).detect clsTick 1 (unitRegion r)
    else s
  let s := s.on .evb (fun s => s.newRec r k marks into)
  let s := s.on .pfe (fun s => (s.swapAt r k m late gone).injCount r)
  let s := if bit s.seq.zero r then s.modeClear r k false
    else if bit s.seq.fdrain r then (s.on .acc (fun s => s.accBoundary r k)).modeClear r k true else s
  let s := s.on .pfe (fun s => 
    let s := s.hotBoundary r
    let s := s.upRec r k (fun c => { c with masked := s.maskedCount r 0 })
    if into || s.commitDue then s else s.injTick r x y)
  let s := s.on .hst (fun s => s.gateBoundary r k (s.coarseOf (s.tickTime k)) into)
  let s := s.on .acc (fun s => s.accBoundary r k)
  s.on .cmp (fun s => s.ctxBoundary r)

/-- The crossing overruns of the time since the last boundary, each reported once (R334). -/
def State.xingReport (s : State) : State :=
  s.each (List.finRange 16) (fun r s =>
    let n := (s.tdcR r).xingLost
    if n = 0 then s else (s.setTdcR r { s.tdcR r with xingLost := 0 }).emit 0x0001 (r + n <<< 32))

/-- The GAP records of reel full policy DISCARD whose runs are over (R194, table Events-8): this module's own data, or a port's. -/
def State.gapFlush (s : State) : State :=
  let due := s.cab.gapDue
  (s.cabUpd (fun c => { c with gapDue := [] })).each due (fun g s =>
    if g.1 < 0x14 then s.gapOwn g.2.1 g.2.2 (if g.1 < 16 then 2 ^ g.1 else 0) 4
    else
      let l := (List.finRange 10).find? (fun l => !isUplink l && 0x14 + downPort l == g.1 && s.linkRole l == roleChild)
      let m := match l with | some l => s.rd .tre_PEER_ID l | none => 0xFFFFFFFF
      s.moduleRec (gapRec (s.rd .tre_MODULE_ID) g.2.1 g.2.2 m 0xFFFF 4 s.tbNow))

/-- What every boundary and pacing instant does once: housekeeping, spare rows, the feature set (R14, R207, R262, R304), and, when
no commit is due there, what follows it. ETH looks there after its waiting DHCP message and its full rings (DESIGN CHOICE, log entry 215). -/
def State.onceTick (s : State) (k : Nat) : State :=
  let s := s.hkaTick
  let s := ((s.on .edc State.sramBoundary).on .pmr State.xingReport).on .cab (fun s => s.gapFlush.scrubTick)
  let s := ((s.on .tdc State.auxFlush).on .tre (fun s => s.featBoundary k)).on .eth State.ethTick
  if s.commitDue then s else s.boundaryTail k s.seq.start

/-- Tick parameters relayed for a tick not after k are applied (R12). -/
def State.relayDue (s : State) (k : Nat) : State :=
  match s.seq.relay with
  | some c =>
    if c.tick ≤ k then
      ((s.seqUpd (fun q => { q with relay := none })).pushSeg ⟨c.tick, c.base, c.epoch, c.num, c.den⟩).tickRegs c.num c.den c.epoch
        (c.base % 2 ^ 48)
    else s
  | none => s

/-- The flags the head of tick k begins with: after a step, and under R12. -/
def State.tickMarks (s : State) (k : Nat) (stepped : Bool) : Nat :=
  (if stepped || s.seq.stepMark then 2 ^ hfStep else 0) +
    (match s.seq.slipUntil with | some n => if k ≤ n then 2 ^ hfSlip else 0 | none => 0)

/-- The boundary that begins tick k, at x of the coarse scale (R10, R16, R36). In STANDBY the schedule alone goes on (R378). -/
def State.boundary (s : State) (k : Nat) (x : Int) (stepped gone into : Bool) : State :=
  let marks := s.tickMarks k stepped
  let cut := s.seq.aborted
  let bad := s.tdc.badTick
  let s := (s.seqUpd (fun q => { q with k := k, boundaryAt := some s.clock, start := x, cleared := 0, stepMark := false })).relayDue k
  let s := s.wr .seq_TICK_INDEX 0 k
  let s := if k % 2 ^ 48 = 0 then s.emit 0x0401 0 else s
  let marks := if k % 2 ^ 48 = 0 then marks + 2 ^ hfWrap else marks
  if s.pwr == .standby then
    let s := s.each (List.finRange 16) (fun r s => s.setEvbR r { s.evbR r with k := k })
    (s.hkaTick).on .tre (fun s => s.featBoundary k)
  else
    let s := if bad then s.each (List.finRange 16) (fun r s => s.headFlag r (k - 1) hfClkBad) else s
    let s := { s with tdc := { s.tdc with badTick := s.flag .tdc_CLK_BAD } }
    let s := if cut != 0 then s.gapOwn (k - 1) (k - 1) cut 2 else s
    let y := s.coarseOf (s.tickTime (k + 1))
    let s := s.tdcTick.each (List.finRange 16) (fun r s => s.tickRegion r k x y marks gone into)
    let s := s.seqUpd (fun q => { q with zero := 0, fdrain := 0, safeKeep := 0, aborted := 0 })
    (s.onceTick k).on .cab (fun s => s.takeBoundary k)

/-- TICK_BOUNDARY: the next tick's instant has come. -/
def State.tickBoundary (s : State) : State :=
  let n := s.nextTick
  let x := s.tickTime n
  if s.running && s.paced && x ≤ s.tbNow then
    (List.range (n - s.seq.k)).foldl (fun s j =>
      s.boundary (s.seq.k + 1) (s.coarseOf x) false (j != 0) (s.seq.k + 1 < n)) s
  else s

/-- PACING_INSTANT: 1 ms after the last while no schedule runs (R14, R117). -/
def State.pacing (s : State) : State :=
  let due := match s.seq.boundaryAt with | some t => decide (t + msFu ≤ s.clock) | none => true
  if !s.running && s.paced && due then
    let s := s.seqUpd (fun q => { q with boundaryAt := some s.clock, start := s.local_, cleared := 0 })
    if s.pwr == .standby then (s.hkaTick).on .tre (fun s => s.featBoundary 0)
    else
      let s := s.tdcTick.each (List.finRange 16) (fun r s =>
        let s := if bit s.seq.zero r then s.modeClear r 0 false else if bit s.seq.fdrain r then s.modeClear r 0 true else s
        (s.on .pfe (fun s => s.hotBoundary r)).on .cmp (fun s => s.ctxBoundary r))
      let s := s.seqUpd (fun q => { q with zero := 0, fdrain := 0, safeKeep := 0, aborted := 0 })
      s.onceTick 0
  else s

/-- The first tick of the first schedule begins, with TICK_RUN set (R117); stepped says that a step of TB time brought it, at the step
instant (R85). What an abort or a fault's drain owes at the next boundary is done at this one (R118, R119). -/
def State.scheduleBegin (s : State) (stepped : Bool) : State :=
  match s.seq.segs with
  | [] => s
  | g :: _ =>
    let k := g.first
    let x := if stepped then (s.local_ : Int) else s.coarseOf (s.tickTime k)
    let into := stepped && decide (s.tickTime (k + 1) ≤ s.tbNow)
    if !s.running && s.paced && s.tickTime k ≤ s.tbNow then
      let s := s.seqUpd (fun q => { q with k := k, boundaryAt := some s.clock, start := x, cleared := 0, stepMark := false })
      let s := (s.wrB .seq_TICK_RUN 0 true).wr .seq_TICK_INDEX 0 k
      let s := s.each (List.finRange 16) (fun r s => s.setEvbR r { s.evbR r with k := k, base := s.closeCnts r })
      let quiet (s : State) : State := s.seqUpd (fun q => { q with zero := 0, fdrain := 0, safeKeep := 0, aborted := 0 })
      if s.pwr == .standby then ((quiet s).hkaTick).on .tre (fun s => s.featBoundary k)
      else
        let y := s.coarseOf (s.tickTime (k + 1))
        let marks := s.tickMarks k stepped
        let s := s.tdcTick.each (List.finRange 16) (fun r s =>
          let s := s.on .evb (fun s => s.newRec r k marks into)
          let s := if bit s.seq.zero r then s.modeClear r k false else if bit s.seq.fdrain r then s.modeClear r k true else s
          let s := s.on .pfe (fun s =>
            let s := (s.setPfeR r { s.pfeR r with counts := [], next := [], injIssued := 0 }).hotBoundary r
            if into || s.commitDue then s else s.injTick r x y)
          s.on .cmp (fun s => s.ctxBoundary r))
        let s := { quiet s with tdc := { s.tdc with badTick := s.flag .tdc_CLK_BAD } }
        s.onceTick k
    else s

/-- TICK_SCHEDULE_START. -/
def State.scheduleStart (s : State) : State := s.scheduleBegin false

/-! ### Tick changes relayed (R12) -/

/-- A change meant for the boundary of tick `first` applies at that of tick n: the ticks between are marked, and the level 1 fault is raised. -/
def State.slip (s : State) (first n : Nat) : State :=
  (((s.slipHeads first).seqUpd (fun q => { q with slipUntil := some (n - 1) })).wrB .seq_TICK_SLIP 0 true).detect clsTick 1 unitModule
    (some (0x0402, n - first))

/-- Tick parameters relayed from the root: kept for their tick, or, when it has passed, applied at the first boundary still ahead
with every tick up to it marked. -/
def State.ticksRx (s : State) (c : TickChange) : State :=
  let g : Seg := ⟨c.tick, c.base, c.epoch, c.num, c.den⟩
  if !s.running then
    let n := if g.time c.tick < s.tbNow then g.tick s.tbNow + 1 else c.tick
    let s := (s.seqUpd (fun q => { q with segs := [{ g with first := n }] })).tickRegs c.num c.den c.epoch (c.base % 2 ^ 48)
    if n = c.tick then s else s.slip c.tick n
  else if s.seq.k < c.tick then s.seqUpd (fun q => { q with relay := some c })
  else
    let n := max (g.tick s.tbNow + 1) (s.seq.k + 1)
    ((s.pushSeg { g with first := n }).tickRegs c.num c.den c.epoch (c.base % 2 ^ 48)).slip c.tick n

/-! ### Steps of TB time (R85) -/

/-- TIME_STEP in the heads of the present tick: a step fell in it (R88). -/
def State.stepHeads (s : State) : State :=
  s.when s.running (fun s => s.each (List.finRange 16) (fun r s => s.headFlag r s.seq.k hfStep))

/-- The boundaries a forward step jumped over, at the step instant in tick order; a step within a tick marks that tick, and a backward step
the next one too (R85, R88). A jumped tick that holds the new TB time begins at the step instant, and INJ_DELAY counts from there (R45;
DESIGN CHOICE, log entry 194). -/
def State.afterStep (s : State) : State :=
  match s.tbs.stepped with
  | none => s
  | some d =>
    let s := { s with tbs := { s.tbs with stepped := none } }
    if d < 0 then (s.seqUpd (fun q => { q with stepMark := s.running })).stepHeads
    else
      let was := s.running
      let k0 := s.seq.k
      let s := s.scheduleBegin true
      if s.running && s.paced then
        let n := s.tickOf s.tbNow
        let s := s.when (was && n ≤ k0) State.stepHeads
        (List.range (n - s.seq.k)).foldl (fun s j =>
          (s.boundary (s.seq.k + 1) s.local_ true (j != 0 || !was) (s.seq.k + 1 < n)).commitBoundary) s
      else s

/-! ### Power states (R18 to R20, R378) -/

def State.pwrErr (s : State) : State := s.wrB .pmr_PWR_CMD_ERR 0 true

/-- PWR_CMD = READY. -/
def State.pwrReady (s : State) : State :=
  let up (s : State) : State := { s with pmr := { s.pmr with upAt := s.pmr.upAt <|> some s.clock } }
  match s.pwr with
  | .ready => s.wrB .pmr_ACQ_ENABLED 0 false
  | .standby => up s
  | .safe => if s.level4 then s.pwrErr else up s
  | _ => s.pwrErr

/-- PWR_CMD = STANDBY: the bias ramps down, and STANDBY follows at a boundary. -/
def State.pwrStandby (s : State) : State :=
  if s.pwr == .ready then
    let s := s.rampDownAll
    { s with pmr := { s.pmr with standbyPend := some s.clock } }
  else s.pwrErr

/-- PWR_CMD = ACQUIRE-enable. -/
def State.pwrAcquire (s : State) : State := if s.pwr == .ready then s.wrB .pmr_ACQ_ENABLED 0 true else s.pwrErr

/-- PWR_CMD = SAFE: from OWN alone. -/
def State.pwrSafe (s : State) (own : Bool) : State :=
  if own && (s.pwr == .ready || s.pwr == .acquire || s.pwr == .standby) then s.enterSafe 0 0 else s.pwrErr

/-- A tick boundary, or a pacing instant without a schedule, is being processed now. -/
def State.atBoundary (s : State) : Bool := s.seq.boundaryAt == some s.clock

/-- STANDBY_ENTRY: at the first boundary behind the command at which every bias lies below 1 V. -/
def State.standbyEntry (s : State) : State :=
  match s.pmr.standbyPend with
  | some t =>
    if s.atBoundary && t < s.clock && s.pwr == .ready && s.biasDown then
      let k := s.seq.k
      let s := s.on .cab State.cabStandby
      let s := if s.running then
          s.each (List.finRange 16) (fun r s =>
            let s := s.evbFlush r k
            let x := s.evbR r
            s.setEvbR r { x with recs := x.recs.filter (fun c => c.emitted) })
        else s
      let s := ((s.on .trg State.trigRelease).setPwr .standby).wrB .pmr_ACQ_ENABLED 0 false
      { s with pmr := { s.pmr with standbyPend := none, upAt := none } }
    else s
  | none => s

/-- Repairs run at every entry of READY when REPAIR_AUTO is set (R205). -/
def State.repairAuto (s : State) : State := s.on .cab (fun s => if s.flag .cab_REPAIR_AUTO then s.repairRun else s)

/-- STANDBY_EXIT: at the first boundary at least 50 ms after the command. -/
def State.standbyExit (s : State) : State :=
  match s.pmr.upAt with
  | some t =>
    if s.atBoundary && s.pwr == .standby && t + 50 * msFu ≤ s.clock then
      let s := ((s.standbyResume).setPwr .ready).on .lnk State.lnkResume
      let s := { s with pmr := { s.pmr with upAt := none } }
      let k := s.seq.k
      let s := if s.running then
          s.each (List.finRange 16) (fun r s =>
            let s := s.on .evb (fun s => s.newRec r k (s.tickMarks k false) false)
            s.setEvbR r { s.evbR r with k := k, base := s.closeCnts r })
        else s
      s.repairAuto
    else s
  | none => s

/-- ACQUIRE_TO_READY: every mode word is 0 and every drain has delivered its FINAL product. -/
def State.acquireToReady (s : State) : State :=
  let quiet := (List.finRange 16).all (fun r => s.mode r == 0 && s.seq.draining[r] == 0)
  if s.atBoundary && s.pwr == .acquire && quiet then (s.setPwr .ready).repairAuto else s

/-- SAFE_EXIT: at the boundary behind the READY command. A level 4 fault raised in between has dropped the command (log entry 202). -/
def State.safeExit (s : State) : State :=
  match s.pmr.upAt with
  | some t =>
    if s.atBoundary && s.pwr == .safe && t < s.clock then
      let s := ((s.setPwr .ready).wrB .flt_SAFE_ACT 0 false).lnkSafeExit
      let s := State.emit { s with pmr := { s.pmr with upAt := none } } 0x1305 0
      if s.pmr.readyAt.isNone then s.readyReached else s.repairAuto
    else s
  | none => s

/-! ### Drains (R70, R118) -/

/-- REGION_DRAIN_DONE: every mode drained in region r has delivered its FINAL product. -/
def State.regionDrainDone (s : State) (r : Fin 16) : State :=
  if bit s.seq.drainOrd r && s.seq.draining[r] == 0 then
    (s.wrBit .seq_REGION_FINAL 0 r true).seqUpd (fun q => { q with drainOrd := setBit q.drainOrd r false })
  else s

/-- TDC_DRAIN_DONE: the last entry of region r has passed EVB. -/
def State.tdcDrainDone (s : State) (r : Fin 16) : State :=
  let x := s.tdcR r
  if x.draining && x.wins.isEmpty && x.queue.isEmpty && (s.evbR r).store.isEmpty then
    (s.setTdcR r { x with draining := false }).wrB .tdcr_TDC_FINAL r true
  else s

/-! ### Cluster readout (R59, R334) -/

/-- n readout entries of region r for the rate conditions: through the crossing, which stands while the PLL relocks and is held empty
while TRG is in reset (R336). -/
def State.rateNote (s : State) (r : Fin 16) (n : Nat) : State :=
  let x := s.tdcR r
  if bit s.held Blk.trg.idx then s
  else if s.tdc.pllLost then
    let k := min n (254 - x.xing)
    let lost := n - k
    let s := s.setTdcR r { x with xing := x.xing + k, xingLost := x.xingLost + lost }
    if lost = 0 then s else (s.bump .pmr_XING_EXCESS 0 lost).wrBit .pmr_XING_OVR 0 r true
  else (s.setTdcR r { x with xing := 0 }).on .trg (fun s => s.rateCount r (x.xing + n))

/-- CLUSTER_READOUT_VISIT: the next entry of region r is taken, discarded as too old, or passed to EVB where a mode takes it. -/
def State.readoutVisit (s : State) (r : Fin 16) : State :=
  match s.nextEntry r with
  | none => s
  | some e =>
    if s.tooOld e then ((s.takeEntry r e).bump .tdcr_DROP_AGE r).rateNote r 1
    else
      let (c, x, ok) := (s.takeEntry r e).correctEntry r e
      let h := s.tbAt x
      if s.tdcMode r || s.wordMode r (s.tickOf h) &&& 0x8B != 0 then
        if s.evbTakes r then
          let w : EvW := { h := h, loc := e.cluster, pix := e.pix, test := e.test, multi := e.multi, calok := ok }
          let c := c.rateNote r 1
          if bit c.held Blk.evb.idx then c.bump .tdcr_DROP_ABORT r else c.on .evb (fun s => s.evbArrive r w)
        else s
      else c.rateNote r 1

/-! ### Auxiliary channels (R66, R74, R102, R133) -/

/-- The word of table TDC-5. -/
def auxStampWord (c : Nat) (falling : Bool) (n off : Nat) (ok : Bool) : Nat :=
  b2n ok + (off % 2 ^ 38) * 2 + (n % 2 ^ 22) <<< 39 + b2n falling <<< 61 + c <<< 62

/-- A stamp word goes to EVB behind those of its queue, or waits there while the record packer waits; a full queue discards it. -/
def State.auxDeliver (s : State) (c : Fin 4) (w : Nat) : State :=
  let s := s.auxFlush
  let a := s.auxCh c
  if a.queue.isEmpty && !s.rpHeld 17 then s.auxWord w
  else if a.queue.length < 64 then s.setAux c { a with queue := a.queue ++ [w] }
  else (s.bump .tdc_AUX_DROP c).wrBit .tdc_AUX_OVR 0 c true

/-- What a channel's stamp x on the coarse scale, AUX_OFS applied, means to the blocks that use it. With INJ_REF = 1, INJ_DELAY counts
from this corrected stamp (DESIGN CHOICE, log entry 143). -/
def State.auxUse (s : State) (c : Fin 4) (x : Int) : State :=
  if c = 0 then
    s.each (List.finRange 16) (fun r s => (s.on .hst (fun s => s.gateSync r x)).on .pfe (fun s => s.injSyncEdge r x))
  else if c = 1 then s.on .trg (fun s => s.trgInput 0 (s.tbAt x))
  else if c = 2 then s.on .trg (fun s => s.trgInput 1 (s.tbAt x))
  else s

/-- A stamp put before those of the last two milliseconds and the one before them, which the exclusion of R60 may still need. -/
def keepStamps (x : Int) (l : List Int) : List Int :=
  let near := l.filter (fun t => x - 2 * msFu ≤ t)
  x :: near ++ (l.drop near.length).take 1

/-- A block that uses channel c is in reset: what is sent to it is discarded and counted (R336; log entry 218). -/
def State.auxHeld (s : State) (c : Fin 4) : Bool :=
  if c = 0 then bit s.held Blk.hst.idx || bit s.held Blk.pfe.idx else (c = 1 || c = 2) && bit s.held Blk.trg.idx

/-- AUX_EDGE: an edge of channel c, its converter latching raw; refs counts the REF_IN periods since the PPS_IN edge before. Of
AUX_DIV's stamps the first goes out, then every (n + 1)-th; on channel 3 edges of both polarities used count alike (DESIGN CHOICE,
log entry 148). With no tick schedule running no stamp goes out and AUX_DIV does not count (DESIGN CHOICE, log entry 198). -/
def State.auxEdge (s : State) (c : Fin 4) (falling : Bool) (raw : RawCapture) (refs : Nat) : State :=
  let mine := falling == s.rdBit .tdc_AUX_EDGE 0 c
  let pps := c == 3 && falling == s.flag .tbs_PPS_EDGE
  let a := s.auxCh c
  let near := match a.last with | some t => decide (s.clock < t + auxDead) | none => false
  if !mine && !pps then s
  else if near then (s.setAux c { a with ecount := a.ecount + 1 }).bump .tdc_AUX_SKIP c
  else
    let (x0, bad) := s.auxStamp c raw
    let x := x0 - s.rdS .tdc_AUX_OFS c
    let s := s.setAux c { a with
      last := some s.clock, ecount := a.ecount + 1, instEdges := a.instEdges + 1,
      stamps := if mine then keepStamps x0 a.stamps else a.stamps }
    let s := if mine then (s.auxUse c x).when (s.auxHeld c) (fun s => s.bump .tdc_AUX_DROP c) else s
    let s := if pps then s.on .tbs (fun s => s.ppsEdge x refs) else s
    if mine && s.rdBit .tdc_AUX_EN 0 c && s.running then
      let d := (s.auxCh c).div
      let s := s.setAux c { s.auxCh c with div := if s.rd .tdc_AUX_DIV c ≤ d then 0 else d + 1 }
      if d = 0 then
        let h := s.tbAt x
        let ok := a.calok && !bad && !s.flag .tdc_CLK_BAD
        s.auxDeliver c (auxStampWord c falling (a.ecount + 1) (h - s.tickTime (s.tickOf h)).toNat ok)
      else s
    else s

/-! ### Offload (R198, R209) -/

/-- The packets of a take that begin at or after a take offset, earliest first, with the offset of each. -/
def State.takePkts (s : State) (t : Take) (from_ : Nat) : List (Nat × PktRef) :=
  let l := (s.cab.pkts.filter (fun p => p.reel == t.reel && t.holds p.reel p.ext)).map (fun p => (t.offset p.ext p.off, p))
  (l.filter (fun p => from_ ≤ p.1)).foldl (fun a p => insertBy (fun q => p.1 < q.1) p a) []

/-- A packet wholly in its reel: its bytes are no longer on their way there. -/
def State.inReel (s : State) (p : PktRef) : Bool := !s.que.items.any (fun x => x.pid == p.pid && x.cab)

/-- One packet of the offload read and put into the fabric as a QC4 item, when there is room for it (R171, R198). -/
def State.oflOne (s : State) (p : PktRef) : Option State :=
  let up := s.flag .cab_OFL_UP
  let (t, d) := s.deliverPkt p (s.cab.ofl.map (·.take))
  (t.putItem { backItem p.pid 3 up (!up) (if up then none else some (s.rd .cab_OFL_QP)) with isRec := !s.reads p } d).map (·.1)

/-- The offload is complete. -/
def State.oflEnd (s : State) : State :=
  (({ s with cab := { s.cab with ofl := none } }).wrB .cab_OFL_BUSY 0 false).wr .cab_OFL_STATE 0 2

/-- Packet p is passed at offset o: a reader that lost it cannot find those behind it before it resynchronises (R199). -/
def State.oflPass (s : State) (o : Nat) (p : PktRef) : State :=
  let lost := match (s.readPkt p).2 with | .lost _ => [p] | _ => []
  { s with cab := { s.cab with ofl := s.cab.ofl.map (fun x : Ofl => { x with off := o + 1, lost := x.lost ++ lost }) } }

/-- A packet that the offload cannot find. -/
def State.oflLost (s : State) (q : PktRef) : Bool := s.cab.ofl.any (fun o => o.lost.any (fun p => s.lostWith p q))

/-- The offload's packets passed on in order while there is room; opn says that the take is OPEN, and with it the offload ends at the
write position: the first packet not yet wholly in its reel. Fuel n. -/
def State.oflRun (s : State) (opn : Bool) : List (Nat × PktRef) → Nat → State
  | [], _ => s.oflEnd
  | _, 0 => s
  | (o, p) :: l, n + 1 =>
    if !s.inReel p then (if opn then s.oflEnd else s)
    else match s.oflOne p with
      | none => s
      | some t =>
        let t := t.oflPass o p
        let k := o + min p.len (extBytes - p.off) - t.rd .cab_OFL_FROM
        State.oflRun (t.wr .cab_OFL_DONE 0 (max k (t.rd .cab_OFL_DONE))) opn (l.filter (fun q => !t.oflLost q.2)) n

/-- The offload goes on. -/
def State.oflPump (s : State) : State :=
  match s.cab.ofl with
  | none => s
  | some o =>
    match s.take o.take with
    | none => s.oflEnd
    | some t =>
      let l := (s.takePkts t o.off).filter (fun q => !s.oflLost q.2)
      s.oflRun (t.st == 1) l l.length

/-- OFL_START written: ignored while one runs. -/
def State.oflStart (s : State) : State :=
  if s.flag .cab_OFL_BUSY then s
  else
    let s := { s with cab := { s.cab with ofl := some ⟨s.rd .cab_OFL_TAKE, s.rd .cab_OFL_FROM, []⟩ } }
    (((s.wrB .cab_OFL_BUSY 0 true).wr .cab_OFL_STATE 0 1).wr .cab_OFL_DONE 0 0).oflPump

/-- OFL_ABORT written: what was read is delivered, nothing after. -/
def State.oflAbort (s : State) : State :=
  if s.flag .cab_OFL_BUSY then
    (({ s with cab := { s.cab with ofl := none } }).wrB .cab_OFL_BUSY 0 false).wr .cab_OFL_STATE 0 3
  else s

/-! ### Scrub of the internal SRAMs (R207) -/

/-- Word i of region r's TDC offsets and bin tables reloaded (table Store-6): a cluster's offset from its shadow, or a group's
table from the factory data, which ends its CALOK (DESIGN CHOICE for the places, log entry 205). -/
def State.tdcReload (s : State) (r : Fin 16) (i : Nat) : State :=
  if i < 16384 then
    let k := 16384 * r + i
    { s with tdc := { s.tdc with offF := spSet s.tdc.offF k (spGet s.tdc.offS k (Config.tdcOff k % 512)) (Config.tdcOff k % 512) } }
  else
    let x := s.tdcR r
    let g : Fin 16 := ⟨(i - 16384) / 128 % 16, Nat.mod_lt _ (by decide)⟩
    s.setTdcR r { x with g := x.g.set g { x.g[g] with table := none, calok := false } }

/-- Word i of region r's pixel masks, those of a cluster, reloaded from its shadow (table Store-6). -/
def State.maskReload (s : State) (r : Fin 16) (i : Nat) : State :=
  let k := 16384 * r + i % 16384
  { s with pfe := { s.pfe with maskF := spSet s.pfe.maskF k (spGet s.pfe.maskS k 0) 0 } }

/-- A word found uncorrectable, by what holds it (table Store-6). -/
def State.sramBad (s : State) (h : SramHit) : State :=
  let s := s.bump .edc_SRAM_UNCORR 0
  let own (s : State) : State := if h.loadFails then s.detect clsMemory 2 unitModule else s
  match h.mac with
  | .bank r => s.detect clsMemory 3 (unitRegion r)
  | .fabric => s
  | .tdc r => (s.tdcReload r (256 * h.row.toNat + h.word.toNat)).detect clsMemory 2 unitModule
  | .mask r => (s.maskReload r (256 * h.row.toNat + h.word.toNat)).detect clsMemory 2 unitModule
  | .reorder r =>
    let x := s.evbR r
    let i := 256 * h.row.toNat + h.word.toNat
    let s := s.setEvbR r { x with store := x.store.mapIdx (fun (j : Nat) (w : EvW) => if j = i then { w with calok := false } else w) }
    (if i < x.store.length then s.codeFault r else s).detect clsMemory 1 unitModule
  | .assembler =>
    let s := match s.cab.slots[h.row.toNat]? with
      | some w => s.setSlot { w with bad := List.range (match s.reel w.reel with | some r => (s.reelShelf r).gb / 64 | none => 0) }
      | none => s
    s.detect clsMemory 1 unitModule
  | .merge =>
    let s := match s.cab.merge[h.row.toNat]? with
      | some o =>
        let (h, g0, _) := s.lineGroup o.line
        s.each (List.range (h.gl - 1)) (fun i s => s.poisonNow (g0 + i))
      | none => s
    s.detect clsMemory 1 unitModule
  | _ => own s

/-- SRAM_SCRUB: the words found wrong. -/
def State.sramScrub (s : State) (l : List SramHit) : State :=
  s.each l (fun h s => if h.uncorr then s.sramBad h else s.sramFixed h)

/-! ### Meanings -/

/-- PWR_CMD_READY. -/
def execPwrCmdReady (t : Nat) (s : State) : Host.Outcome State Fault Refusal := run t (fun s => s.on .pmr State.pwrReady) s
/-- PWR_CMD_STANDBY. -/
def execPwrCmdStandby (t : Nat) (s : State) : Host.Outcome State Fault Refusal := run t (fun s => s.on .pmr State.pwrStandby) s
/-- PWR_CMD_ACQUIRE_ENABLE. -/
def execPwrCmdAcquireEnable (t : Nat) (s : State) : Host.Outcome State Fault Refusal := run t (fun s => s.on .pmr State.pwrAcquire) s
/-- PWR_CMD_SAFE. -/
def execPwrCmdSafe (t : Nat) (own : Bool) (s : State) : Host.Outcome State Fault Refusal :=
  run t (fun s => s.on .pmr (fun s => s.pwrSafe own)) s
/-- STANDBY_ENTRY. -/
def execStandbyEntry (t : Nat) (s : State) : Host.Outcome State Fault Refusal := run t (fun s => s.on .pmr State.standbyEntry) s
/-- STANDBY_EXIT. -/
def execStandbyExit (t : Nat) (s : State) : Host.Outcome State Fault Refusal := run t (fun s => s.on .pmr State.standbyExit) s
/-- ACQUIRE_TO_READY. -/
def execAcquireToReady (t : Nat) (s : State) : Host.Outcome State Fault Refusal := run t (fun s => s.on .pmr State.acquireToReady) s
/-- SAFE_EXIT. -/
def execSafeExit (t : Nat) (s : State) : Host.Outcome State Fault Refusal := run t (fun s => s.on .pmr State.safeExit) s
/-- TICK_BOUNDARY. -/
def execTickBoundary (t : Nat) (s : State) : Host.Outcome State Fault Refusal := run t State.tickBoundary s
/-- PACING_INSTANT. -/
def execPacingInstant (t : Nat) (s : State) : Host.Outcome State Fault Refusal := run t State.pacing s
/-- TICK_SCHEDULE_START. -/
def execTickScheduleStart (t : Nat) (s : State) : Host.Outcome State Fault Refusal := run t State.scheduleStart s
/-- COMMIT: a 1 written to COMMIT. -/
def execCommit (t : Nat) (s : State) : Host.Outcome State Fault Refusal := run t (fun s => s.on .seq State.commitWrite) s
/-- COMMIT_BOUNDARY. -/
def execCommitBoundary (t : Nat) (s : State) : Host.Outcome State Fault Refusal := run t (fun s => s.on .seq State.commitBoundary) s
/-- REGION_DRAIN_DONE. -/
def execRegionDrainDone (t : Nat) (r : Fin 16) (s : State) : Host.Outcome State Fault Refusal :=
  run t (fun s => s.on .seq (fun s => s.regionDrainDone r)) s
/-- REGION_ABORT: m written to REGION_ABORT. -/
def execRegionAbort (t : Nat) (m : BitVec 16) (s : State) : Host.Outcome State Fault Refusal :=
  run t (fun s => s.on .seq (fun s => s.regionsAbort m.toNat)) s
/-- FE_ABORT. -/
def execFeAbort (t : Nat) (r : Fin 16) (s : State) : Host.Outcome State Fault Refusal :=
  run t (fun s => s.on .pfe (fun s => s.feAbort r)) s
/-- INJECTED_PULSE. -/
def execInjectedPulse (t : Nat) (r : Fin 16) (s : State) : Host.Outcome State Fault Refusal :=
  run t (fun s => s.on .pfe (fun s => s.injectedPulse r (s.coarseOf (s.tickTime (s.seq.k + 1))))) s
/-- CLUSTER_READOUT_VISIT. -/
def execClusterReadoutVisit (t : Nat) (r : Fin 16) (s : State) : Host.Outcome State Fault Refusal :=
  run t (fun s => s.on .tdc (fun s => s.readoutVisit r)) s
/-- TDC_DRAIN_DONE. -/
def execTdcDrainDone (t : Nat) (r : Fin 16) (s : State) : Host.Outcome State Fault Refusal :=
  run t (fun s => s.on .tdc (fun s => s.tdcDrainDone r)) s
/-- TDC_ABORT. -/
def execTdcAbort (t : Nat) (r : Fin 16) (s : State) : Host.Outcome State Fault Refusal :=
  run t (fun s => s.on .tdc (fun s => s.tdcAbort r)) s
/-- AUX_EDGE. -/
def execAuxEdge (t : Nat) (ch : Fin 4) (falling : Bool) (raw : RawCapture) (refs : Nat) (s : State) : Host.Outcome State Fault Refusal :=
  run t (fun s => s.on .tdc (fun s => s.auxEdge ch falling raw refs)) s
/-- RATE_EVAL. -/
def execRateEval (t : Nat) (s : State) : Host.Outcome State Fault Refusal :=
  run t (fun s => s.on .trg (fun s => (s.each (List.finRange 16) (fun r s => s.rateNote r 0)).rateEval)) s
/-- CMP_ABORT: the region is aborted (R168). -/
def execCmpAbort (t : Nat) (r : Fin 16) (s : State) : Host.Outcome State Fault Refusal :=
  run t (fun s => s.on .cmp (fun s => s.regionAbort r)) s
/-- TAKE_START. -/
def execTakeStart (t : Nat) (s : State) : Host.Outcome State Fault Refusal :=
  run t (fun s => s.on .cab (fun s => s.cabCmd (fun s => s.takeStart s.tickTime))) s
/-- TAKE_STOP. -/
def execTakeStop (t : Nat) (s : State) : Host.Outcome State Fault Refusal :=
  run t (fun s => s.on .cab (fun s => s.cabCmd (fun s => s.takeStop s.tickTime))) s
/-- OFL_START: a 1 written to OFL_START. -/
def execOflStart (t : Nat) (s : State) : Host.Outcome State Fault Refusal := run t (fun s => s.on .cab State.oflStart) s
/-- OFL_ABORT: a 1 written to OFL_ABORT. -/
def execOflAbort (t : Nat) (s : State) : Host.Outcome State Fault Refusal := run t (fun s => s.on .cab State.oflAbort) s
/-- OFFLOAD_DONE: the offload passes on what is left of its take, and is complete when nothing is. -/
def execOffloadDone (t : Nat) (s : State) : Host.Outcome State Fault Refusal := run t (fun s => s.on .cab State.oflPump) s
/-- SRAM_SCRUB: hits lists the words found wrong. -/
def execSramScrub (t : Nat) (hits : List SramHit) (s : State) : Host.Outcome State Fault Refusal :=
  run t (fun s => s.on .edc (fun s => s.sramScrub hits)) s

end Sys2Proof.Machine
end

