-- ==== Sys2Proof/Machine/Time.lean ====
section
/-! DEFINITION. The commands that can step TB time: a step is followed by the tick boundaries it jumped over (R75 to R78, R80,
R84, R85). -/

namespace Sys2Proof.Machine

open Sys2Proof

/-- The stamp of a REF_IN edge by the phase TDC, a cluster TDC design with its table in the factory data (R75). -/
def State.phaseStamp (s : State) (raw : RawCapture) : Int :=
  let (c20, f, _, _) := resolve raw
  correct (extendCoarse s.coarse c20) (binPos (factoryEdges 16 0) f none) 0

/-- The lane a link's clapper leaves on: lane 0, or lane 1 while lane 0 is not UP. -/
def State.clapLane (s : State) (l : Fin 10) : Fin 2 :=
  if s.laneSt l 0 == laUp || (s.laneSt l 0 == laIdle && s.laneSt l 1 != laUp) then 0 else 1

/-- A clapper may pass on link l: a lane is in UP, or in IDLE during SAFE (table Lanes-5). -/
def State.clapOn (s : State) (l : Fin 10) : Bool := s.linkUp l || s.laneSt l 0 == laIdle || s.laneSt l 1 == laIdle

/-- The link's last clapper left at least 1 ms less 10 us ago (R234). -/
def State.clapDue (s : State) (l : Fin 10) : Bool :=
  match (s.clapSt l).txAt with
  | some t => t + (msFu - 10 * usFu) ≤ s.clock
  | none => true

/-- STEP_CMD with the privilege it needs: from a lower level it does nothing here (R359). -/
def State.stepWrite (s : State) (own : Bool) : State := if own then s.stepCmd else s

/-- EXT_PHASE_UPDATE: the phase TDC latches raw at a REF_IN edge. -/
def execExtPhaseUpdate (t : Nat) (raw : RawCapture) (s : State) : Host.Outcome State Fault Refusal :=
  run t (fun s => s.on .tbs (fun s => (s.extUpdate (s.phaseStamp raw)).afterStep)) s
/-- CLAPPER_TX: on a link whose lanes run, 1 ms behind its last. -/
def execClapperTx (t : Nat) (l : Fin 10) (s : State) : Host.Outcome State Fault Refusal :=
  run t (fun s => s.on .tbs (fun s => if s.clapOn l && s.clapDue l then s.clapTx l (s.clapLane l) else s)) s
/-- CLAPPER_RX: on a lane of a link whose lanes run. -/
def execClapperRx (t : Nat) (l : Fin 10) (lane : Fin 2) (c : Clap) (s : State) : Host.Outcome State Fault Refusal :=
  run t (fun s => s.on .tbs (fun s => if s.clapOn l then (s.clapRx l lane c).afterStep else s)) s
/-- PTP_DELAY_RESP_RX. -/
def execPtpDelayRespRx (t : Nat) (h : PtpHead) (t4 : Nat) (s : State) : Host.Outcome State Fault Refusal :=
  run t (fun s => s.on .tbs (fun s => (s.ptpDelayResp h t4).afterStep)) s
/-- STEP_CMD: a 1 written to STEP_CMD; own says that the session's level is OWN. -/
def execStepCmd (t : Nat) (own : Bool) (s : State) : Host.Outcome State Fault Refusal :=
  run t (fun s => s.on .tbs (fun s => (s.stepWrite own).afterStep)) s
/-- TIME_SET_WRITE: the whole value, as its highest word is written. -/
def execTimeSetWrite (t : Nat) (w : BitVec 128) (s : State) : Host.Outcome State Fault Refusal :=
  run t (fun s => s.on .tbs (fun s => (s.timeSet w.toNat).afterStep)) s

end Sys2Proof.Machine
end

