-- ==== Sys2Proof/Machine/Keys.lean ====
section
/-! DEFINITION. CTL: sessions as they close, key slots, PROVISION_EN, and the firmware transfer (R287, R291 to R293). -/

namespace Sys2Proof.Machine

open Sys2Proof

/-- Session n closes: its registers, snapshot and staged writes go, and no reply of it follows (R287, R354, R355). -/
def State.sessClose (s : State) (n : Fin 8) : State :=
  let s := ((((s.wr .ctl_SESS_SLOT n 0).wr .ctl_SESS_LEVEL n 0).wr .ctl_SESS_IP n 0).wr .ctl_SESS_PORT n 0).wr .ctl_SESS_SALT n 0
  let i : Fin 10 := ⟨n.val, Nat.lt_trans n.isLt (by decide)⟩
  let s := s.ctlUpd (fun c => {
    c with sess := c.sess.set n none, snaps := c.snaps.set i none, stage := c.stage.set i [],
           pend := c.pend.filter (fun p : PendMsg => p.sess != n.val) })
  s.wrBit .ctl_SESS_OPEN 0 n false

/-- The session of an accessor, if it is one. -/
def State.accSess (s : State) (a : Accessor) : Option Sess := if h : a.who.val < 8 then s.session ⟨a.who.val, h⟩ else none

/-- The accessor is a session on slot 7. -/
def State.slot7 (s : State) (a : Accessor) : Bool := (s.accSess a).any (fun x => x.slot == 7)

/-! ### Key slots (R291) -/

/-- Slot n can be used, its key, and its level; slot 7 is the factory's, while PROVISION_EN is high (R292). -/
def State.slotUsable (s : State) (n : Nat) : Bool := if n = 7 then s.flag .ctl_PROV else s.rdBit .ctl_KEY_VALID 0 n
def State.slotKey (s : State) (n : Nat) : Nat := if n = 7 then Config.factoryKey % 2 ^ 128 else s.rd .ctl_KEY n
def State.slotLevel (s : State) (n : Nat) : Nat := if n = 7 then 2 else s.rd .ctl_KEY_LEVEL n

/-- The level of a session: the lower of the one asked for and its slot's (R287). -/
def State.sessLevel (s : State) (x : Sess) : Nat := Nat.min x.asked (s.slotLevel x.slot)

/-- Some slot of 0 to 6 holds a usable key at level OWN. -/
def State.ownKey (s : State) : Bool := (List.range 7).any (fun n => s.rdBit .ctl_KEY_VALID 0 n && s.rd .ctl_KEY_LEVEL n == 2)

/-- A change of the key slots: refused with 0x06 when it would leave no usable OWN key, except from a session on slot 7. -/
def State.keyChange (s : State) (a : Accessor) (f : State → State) : State × Nat :=
  let t := f s
  if !t.ownKey && !s.slot7 a then (s, 6) else (t, 0)

/-- The sessions of slot n close behind the message being executed. -/
def State.keyClosing (s : State) (n : Nat) : State := s.ctlUpd (fun c => { c with closing := setBit c.closing n true })

/-- A key put in force in slot n. -/
def State.keyPut (s : State) (n v : Nat) : State :=
  let s := ((s.wr .ctl_KEY n v).wrBit .ctl_KEY_VALID 0 n true).keyClosing n
  s.emit 0x1101 (n + s.rd .ctl_KEY_LEVEL n <<< 3 + 1 <<< 5)

/-- Slot n emptied. -/
def State.keyEmpty (s : State) (n : Nat) : State :=
  let s := (((s.wr .ctl_KEY n 0).wrBit .ctl_KEY_VALID 0 n false).wr .ctl_KEY_LEVEL n 0).keyClosing n
  s.emit 0x1101 n

/-- KEY word 3, KEY_LEVEL, KEY_REVOKE and KEY_CLEAR, with the status of the write. -/
def State.keyWrite (s : State) (a : Accessor) (n v : Nat) : State × Nat := s.keyChange a (fun s => s.keyPut n v)
def State.keyLevel (s : State) (a : Accessor) (n v : Nat) : State × Nat :=
  if v = s.rd .ctl_KEY_LEVEL n then (s, 0)
  else s.keyChange a (fun s => (s.wr .ctl_KEY_LEVEL n v).emit 0x1101 (n + v <<< 3))
def State.keyRevoke (s : State) (a : Accessor) (n : Nat) : State × Nat := s.keyChange a (fun s => s.keyEmpty n)
def State.keyClear (s : State) (a : Accessor) : State × Nat :=
  if s.slot7 a && a.lvl == 2 then
    (s.each (List.range 7) (fun n s => if s.rdBit .ctl_KEY_VALID 0 n then s.keyEmpty n else s), 0)
  else (s, 1)

/-- What waits for the end of a message: sessions on changed slots close, and the others take their level (R291). -/
def State.keySettle (s : State) : State :=
  let m := s.ctl.closing
  let s := s.each (List.finRange 8) (fun n s =>
    match s.session n with
    | some x => if bit m x.slot then s.sessClose n else s.wr .ctl_SESS_LEVEL n (s.sessLevel x)
    | none => s)
  s.ctlUpd (fun c => { c with closing := 0 })

/-- A relay reply of this module has not left yet, or a message waits for its relays. -/
def State.owesReply (s : State) : Bool :=
  let rep (m : V0) : Bool := match m with | .relayRep _ => true | _ => false
  !s.ctl.pend.isEmpty || s.tre.wait0.any (fun e => rep e.2) || s.lnk.links.toList.any (fun x => x.vc0.any rep)

/-- An accepted WARM reset follows the reply to its write, that reply having left (R341). -/
def State.warmSettle (s : State) : State :=
  match s.pmr.warm with
  | some c => if s.owesReply then s else s.warmReset c
  | none => s

/-- The end of a message, or of an access by other means. -/
def State.settle (s : State) : State := s.keySettle.warmSettle

/-- FRAME_TX: a reply that left may have been the one a WARM reset waits for (R341). -/
def execFrameTx (t : Nat) (l : Fin 10) (s : State) : Host.Outcome State Fault Refusal := linkCmd t (fun s => (s.frameTx l).warmSettle) s

/-! ### PROVISION_EN (R292) -/

/-- A new level taken. -/
def State.provision (s : State) (level : Bool) : State :=
  if s.flag .ctl_PROV == level then s
  else
    let s := ((s.wrB .ctl_PROV 0 level).wrBit .ctl_KEY_VALID 0 7 level).emit 0x1103 (b2n level)
    if level then s
    else s.each (List.finRange 8) (fun n s => if (s.session n).any (fun x => x.slot == 7) then s.sessClose n else s)

/-! ### The firmware transfer (R293) -/

/-- FW_STATE takes a value; a change is reported. -/
def State.fwState (s : State) (n : Nat) : State :=
  if s.rd .ctl_FW_STATE == n then s else (s.wr .ctl_FW_STATE 0 n).emit 0x1102 n

/-- The controls of a transfer are accepted: from OWN, not in OFF, and in START from the recovery firmware alone. -/
def State.fwMay (s : State) (own : Bool) : Bool := own && s.pwr != .off && (s.pwr != .start || s.pmr.recovery)

/-- The slot that is not ACTIVE, and a change of it. -/
def State.fwSlot (s : State) : FwSlot := s.slot (!s.flash.active)
def State.setFwSlot (s : State) (x : FwSlot) : State := s.setSlotFw (!s.flash.active) x

/-- FW_BEGIN: the inactive slot is erased, or the size is bad. -/
def State.fwBegin (s : State) (own : Bool) : State :=
  if !s.fwMay own then s
  else
    let n := s.rd .ctl_FW_SIZE
    if n = 0 ∨ 33554432 < n then s.fwState 6
    else (s.setFwSlot { size := n }).fwState 1

/-- FW_ERASE_DONE. -/
def State.fwErased (s : State) (flashErr : Bool) : State :=
  if s.rd .ctl_FW_STATE == 1 then s.fwState (if flashErr then 8 else 2) else s

/-- FW_DATA: one block at an offset, with its status. -/
def State.fwData (s : State) (own : Bool) (off : Nat) (ws : List (BitVec 32)) : State × Nat :=
  let x := s.fwSlot
  let st := s.rd .ctl_FW_STATE
  let left := x.size - off
  let s := s.fresh
  if !own then (s, 1)
  else if st == 1 || st == 3 then (s, 5)
  else if !s.fwMay own || (st != 2 && st != 5) then (s, 2)
  else if off % 256 != 0 || x.size ≤ off then (s, 2)
  else if ws.length != 64 && ws.length != (Nat.min left 256 + 3) / 4 then (s, 4)
  else if Config.flashFull s.free then (s, 5)
  else
    let v := ofBytesLE ((ws.flatMap (fun w => bytesLE 4 w.toNat)).take left)
    (s.setFwSlot { x with blocks := spIns (spDel x.blocks (off / 256)) (off / 256) v }, 0)

/-- FW_VERIFY. -/
def State.fwVerify (s : State) (own : Bool) : State :=
  if !s.fwMay own then s
  else if s.rd .ctl_FW_STATE == 2 || s.rd .ctl_FW_STATE == 5 then s.fwState 3
  else s.wrB .ctl_CFG_ERR 0 true

/-- FW_VERIFY_DONE: the checks of R342, in order: every block written, the size, then header, digest and signature. -/
def State.fwVerified (s : State) (flashErr : Bool) : State :=
  let x := s.fwSlot
  if s.rd .ctl_FW_STATE != 3 then s
  else if flashErr then s.fwState 8
  else if x.missing != 0 then s.fwState 5
  else if !sizeOk x.imgSize || x.imgSize != x.size then s.fwState 6
  else s.fwState (if s.imageGood x then 4 else 7)

/-- FW_ABORT: a transfer begun ends, and its slot is invalid. -/
def State.fwAbort (s : State) (own : Bool) : State :=
  let st := s.rd .ctl_FW_STATE
  if s.fwMay own && 1 ≤ st && st ≤ 8 then (s.setFwSlot { s.fwSlot with bad := true }).fwState 9 else s

/-! ### The commands -/

/-- PROVISION_EN_CHANGE: ten samples have read a level. -/
def execProvisionEnChange (t : Nat) (level : Bool) (s : State) : Host.Outcome State Fault Refusal :=
  run t (fun s => s.on .pmr (fun s => s.provision level)) s
/-- FW_BEGIN: a 1 written to FW_BEGIN; own says that the writer's level is OWN. -/
def execFwBegin (t : Nat) (own : Bool) (s : State) : Host.Outcome State Fault Refusal := run t (fun s => s.on .ctl (fun s => s.fwBegin own)) s
/-- FW_ERASE_DONE. -/
def execFwEraseDone (t : Nat) (flashErr : Bool) (s : State) : Host.Outcome State Fault Refusal :=
  run t (fun s => s.on .ctl (fun s => s.fwErased flashErr)) s
/-- FW_VERIFY. -/
def execFwVerify (t : Nat) (own : Bool) (s : State) : Host.Outcome State Fault Refusal := run t (fun s => s.on .ctl (fun s => s.fwVerify own)) s
/-- FW_VERIFY_DONE. -/
def execFwVerifyDone (t : Nat) (flashErr : Bool) (s : State) : Host.Outcome State Fault Refusal :=
  run t (fun s => s.on .ctl (fun s => s.fwVerified flashErr)) s
/-- FW_ABORT. -/
def execFwAbort (t : Nat) (own : Bool) (s : State) : Host.Outcome State Fault Refusal := run t (fun s => s.on .ctl (fun s => s.fwAbort own)) s

end Sys2Proof.Machine
end

