-- ==== Sys2Proof/Machine/RegAccess.lean ====
section
/-! DEFINITION. Accesses to the register space: addresses, what a read returns, what a write does, privilege, snapshots and
staged words (R6, R7, R345 to R361, R377). -/

namespace Sys2Proof.Machine

open Sys2Proof

/-! ### Addresses (R345, R346) -/

def addrOff (a : Nat) : Nat := bits a 0 20
def addrWin (a : Nat) : Nat := bits a 20 5
def addrPage (a : Nat) : Nat := bits a 25 5
def addrView (a : Nat) : Bool := bit a 30

/-- The page number 17 x window + page, by which headers are kept. -/
def addrPg (a : Nat) : Nat := 17 * addrWin a + addrPage a

/-- The address of an offset in a page. -/
def mkAddr (win page off : Nat) : Nat := off + win <<< 20 + page <<< 25

/-- The window has region pages. -/
def winReplicated (w : Nat) : Bool := (Blk.ofIdx w).any Blk.replicated

/-- The operation of n words at address a names a bad address. -/
def addrBad (fixed : Bool) (a n : Nat) : Bool :=
  bit a 31 || 0x13 < addrWin a || 16 < addrPage a || (addrPage a != 0 && !winReplicated (addrWin a)) || a % 4 != 0 ||
    2 ^ 32 ≤ a || (!fixed && 2 ^ 20 < addrOff a + 4 * n)

/-- The block of page p is powered and out of reset (R377). -/
def State.pageAlive (s : State) (p : Nat) : Bool := (Blk.ofIdx (p / 17)).any (fun b => s.alive b)

/-- Page p is a region page of block b; its region. -/
def isRegion (b : Blk) (p : Nat) : Bool := p / 17 == b.idx && p % 17 != 0
def pageRegion (p : Nat) : Fin 16 := ⟨(p % 17 - 1) % 16, Nat.mod_lt _ (by decide)⟩

/-- The page instance i of field f lies in. -/
def Fld.pageOf (f : Fld) (i : Nat) : Nat := if f.isHdr then i else 17 * f.desc.blk.idx + (if f.desc.region then 1 + i else 0)

/-- The fields of page p, with their instances, that reach into the n words from offset o on. -/
def slotsIn (p o n : Nat) : List (Fld × Nat) :=
  let hit (f : Fld) (i : Nat) : Bool := f.offOf i < o + 4 * n && o < f.offOf i + 4 * f.wordsOf i
  let hdr := (hdrFields.filter (fun f => f.desc.off < o + 4 * n && o < f.desc.off + 4)).map (fun f => (f, p))
  match Blk.ofIdx (p / 17) with
  | none => hdr
  | some b =>
    if p % 17 = 0 then
      hdr ++ (pageFields false b).flatMap (fun f =>
        ((List.range f.desc.count).filter (fun i => f.desc.first ≤ i && hit f i)).map (fun i => (f, i)))
    else hdr ++ ((pageFields true b).filter (fun f => hit f 0)).map (fun f => (f, p % 17 - 1))

/-! ### Values the module works out when they are read -/

def reg16 (i : Nat) : Fin 16 := ⟨i % 16, Nat.mod_lt _ (by decide)⟩
def reg32 (i : Nat) : Fin 32 := ⟨i % 32, Nat.mod_lt _ (by decide)⟩

/-- REGION_CFG_ERR: the CFG_ERR bits of the region pages. -/
def State.mirror (s : State) (f : Fld) : Nat := (List.range 16).foldl (fun a r => a + b2n (s.flag f r) <<< r) 0

/-- Fields of PFE and its region pages (tables Pixel-23 and Pixel-24). -/
def State.livePfe (s : State) (f : Fld) (i : Nat) : Nat :=
  let q := s.pfeR (reg16 i)
  let e := q.hotList[s.rd .pfer_HOT_IDX i]?
  match f with
  | .pfe_REGION_CFG_ERR => s.mirror .pfer_CFG_ERR
  | .pfer_HOT_FULL => b2n (decide (64 ≤ q.hotList.length))
  | .pfer_HOT_LEN => q.hotList.length
  | .pfer_HOT_ADDR => match e with
    | some x => pixAddr i x.1
    | none => 0
  | .pfer_HOT_ACTED => match e with
    | some x => x.2
    | none => 0
  | .pfer_MASKED_CNT => s.maskedCount i 0
  | .pfer_MASKED_TDC => s.maskedCount i 1
  | .pfer_MASK_DATA => s.maskGet (reg16 i) (s.flag .pfer_MASK_VIEW i)
  | _ => s.rd f i

/-- BIN_DATA by BIN_VIEW, BIN_GRP and BIN_IDX (table TDC-18). -/
def State.binData (s : State) (r : Fin 16) : Nat :=
  let g := reg16 (s.rd .tdcr_BIN_GRP r)
  let k := s.rd .tdcr_BIN_IDX r
  let x := s.group r g
  match s.rd .tdcr_BIN_VIEW r with
  | 0 => edgeAt (x.edges r g) k
  | 1 => edgeAt (x.load.getD (factoryEdges r g)) k
  | 2 => spGet x.hist k 0
  | _ => x.meas.getD k 0

/-- Fields of TDC and its region pages (tables TDC-11, TDC-12, TDC-14, TDC-17, TDC-18, TDC-20). -/
def State.liveTdc (s : State) (f : Fld) (i : Nat) : Nat :=
  let r := reg16 i
  let g := s.group r (reg16 (s.rd .tdcr_GRP_SEL i))
  let oks (n : Nat) : Bool := (s.group (reg16 (n / 16)) (reg16 n)).calok
  match f with
  | .tdc_AUX_CALOK => (List.finRange 4).foldl (fun a (c : Fin 4) => a + b2n (s.auxCh c).calok <<< c.val) 0
  | .tdc_CALOK_MAP => (List.range 32).foldl (fun a b => a + b2n (oks (32 * i + b)) <<< b) 0
  | .tdcr_CALOK => s.calokGrp r
  | .tdcr_TDC_OFF => s.ofsGet r (s.flag .tdcr_OFS_VIEW i)
  | .tdcr_BIN_DATA => s.binData r
  | .tdcr_CAL_GEN => g.gen
  | .tdcr_GRP_CALOK => b2n g.calok
  | .tdcr_CAL_CONV => b2n g.conv
  | .tdcr_CAL_REJ_RUN => g.rejRun
  | .tdcr_CAL_FILL => g.fill
  | .tdcr_CAL_RESID => g.resid
  | .tdcr_CAL_REJ => g.rej
  | .tdcr_CAL_TIMEOUT => g.timeout
  | .tdcr_GRP_DROP => g.drop
  | _ => s.rd f i

/-- Fields of CMP, QUE, CAB and EDC (tables Store-8 to Store-11). -/
def State.liveStore (s : State) (f : Fld) (i : Nat) : Nat :=
  let x := s.reel i
  let of (g : Reel → Nat) : Nat := match x with
    | some r => g r
    | none => 0
  let e := s.edc.log[s.rd .edc_LOG_IDX % 256]'(Nat.mod_lt _ (by decide))
  match f with
  | .cmp_REGION_CFG_ERR => s.mirror .cmpr_CFG_ERR
  | .que_NARROW => b2n s.narrow
  | .que_LANE_OUT => s.que.lanesOut
  | .cab_REEL_FREE => of (fun r => r.exts - r.live.countP (fun e : Ext => s.takeProt i e.seq || s.posProt i e.seq))
  | .cab_PATCH_FULL => b2n (64 ≤ s.mergeUsed)
  | .cab_REEL_FULL => of (fun r => b2n (s.reelEnd r))
  | .cab_REEL_RING => of (fun r => b2n r.ring)
  | .cab_REEL_DEF => b2n x.isSome
  | .cab_TAKE_OPEN => b2n (s.cab.takes.any (fun t => t.reel == i && t.st == 1))
  | .cab_REEL_POLICY => of (·.policy)
  | .cab_REEL_DISC => of (fun r => r.disc / 1048576)
  | .edc_LOG_LINE => e.line
  | .edc_LOG_SRAM => b2n e.sram
  | .edc_LOG_SYMS => e.syms
  | .edc_LOG_SRC => e.src
  | .edc_LOG_HARD => b2n e.hard
  | .edc_LOG_POISON => b2n e.poison
  | .edc_LOG_COUNT => e.count
  | .edc_LOG_NS => e.time / nsFu % 1000000000
  | .edc_LOG_SEC => e.time / secFu
  | _ => s.rd f i

/-- The fault log's entry LOG_IDX (table Faults-13). -/
def State.fltEntry (s : State) : Option FLog := s.flt.log[(s.rd .flt_LOG_HEAD + 255 - s.rd .flt_LOG_IDX) % 256]?

/-- Fields of TBS, TRE, ETH, CTL, HKA, FLT and the mirrors of HST and ACC. -/
def State.liveRest (s : State) (f : Fld) (i : Nat) : Nat :=
  let log (g : FLog → Nat) : Nat := match s.fltEntry with
    | some e => g e
    | none => 0
  match f with
  | .hst_REGION_CFG_ERR => s.mirror .hstr_CFG_ERR
  | .acc_REGION_CFG_ERR => s.mirror .accr_CFG_ERR
  | .tbs_TQ => s.tqNow
  | .tbs_TIME_NOW => timeWords s.tbNow
  | .tre_ENUM_MODULE => s.enumEntry.getD 0 0
  | .tre_ENUM_PRIMARY => s.enumEntry.getD 1 0
  | .tre_ENUM_STANDBY => s.enumEntry.getD 2 0
  | .tre_ENUM_HOP => s.enumEntry.getD 3 0
  | .tre_ENUM_FW => s.enumEntry.getD 4 0
  | .tre_ENUM_FEAT => s.enumEntry.getD 5 0
  | .eth_LEASE_LEFT => s.leaseLeft
  | .ctl_FW_MISSING => s.fwSlot.missing
  | .hka_AGE => s.hkaAge (reg32 i)
  | .hka_RANGE => if isBiasIn i then s.rd f i else 0
  | .pmr_START_COUNT => s.flash.starts + b2n s.countDue
  | .flt_FAULT_N_OUT => b2n s.faultN
  | .flt_FAULT_LINE_LOW => b2n s.faultLine
  | .flt_COND => b2n (s.condOf i)
  | .flt_LOG_CLASS => log (·.cls)
  | .flt_LOG_LEVEL => log (·.lvl)
  | .flt_LOG_DET => log (·.det)
  | .flt_LOG_INJ => log (fun e => b2n e.inj)
  | .flt_LOG_REAL => log (fun e => b2n e.real_)
  | .flt_LOG_CONSEQ => log (fun e => b2n e.conseq)
  | .flt_LOG_ESC => log (fun e => b2n e.esc)
  | .flt_LOG_SIM => log (fun e => b2n e.sim)
  | .flt_LOG_UNIT => log (·.unit)
  | .flt_LOG_EV => log (·.ev)
  | .flt_LOG_NS => log (·.ns)
  | .flt_LOG_SEC => log (·.sec)
  | _ => s.rd f i

/-- Instance i of field f as it stands. -/
def State.live (s : State) (f : Fld) (i : Nat) : Nat :=
  match f.desc.blk with
  | .sns => if f = .sns_V_SET then s.vNow (reg16 i) else s.rd f i
  | .pfe => s.livePfe f i
  | .tdc => s.liveTdc f i
  | .cmp | .que | .cab | .edc => s.liveStore f i
  | .hst | .acc | .tbs | .tre | .eth | .ctl | .hka | .flt => s.liveRest f i
  | _ => s.rd f i

/-- What a read of the field returns (R6, R347, R349): an RWC field from its shadow, or in force in the in-force view. -/
def State.fieldRead (s : State) (view : Bool) (f : Fld) (i : Nat) : Nat :=
  match f.desc.acc with
  | .wo | .w1s => 0
  | .rwc => if f = .pfer_MASK_DATA || f = .tdcr_TDC_OFF then s.live f i else if view then s.rd f i else s.rdSh f i
  | _ => s.live f i

/-- The word at offset o of page p as a read finds it; reserved bits and offsets read 0 (R350). -/
def State.liveWord (s : State) (p o : Nat) (view : Bool) : Nat :=
  (slotsIn p o 1).foldl (fun a x =>
    a + ((x.1.cut (s.fieldRead view x.1 x.2) <<< x.1.loOf x.2) >>> (8 * (o - x.1.offOf x.2))) % 2 ^ 32) 0

/-! ### Multi-word values (R353 to R355) -/

/-- Table Pages-3: block, region page, offset of word 0, words, and how often at what stride. -/
def mwTable : List (Blk × Bool × Nat × Nat × Nat × Nat) :=
  [(.pmr, false, 0x34, 2, 1, 0), (.seq, false, 0x38, 4, 1, 0), (.seq, false, 0x48, 2, 1, 0), (.seq, false, 0x50, 2, 1, 0),
   (.seq, false, 0x58, 2, 1, 0), (.seq, false, 0x60, 2, 1, 0), (.trg, false, 0x94, 4, 1, 0), (.acc, true, 0x24, 2, 1, 0),
   (.cmp, true, 0x40, 2, 1, 0), (.cmp, true, 0x48, 2, 1, 0), (.cab, false, 0x3C, 2, 1, 0), (.cab, false, 0x64, 2, 1, 0),
   (.cab, false, 0x70, 2, 1, 0), (.cab, false, 0x80, 16, 1, 0), (.edc, false, 0x64, 4, 1, 0)] ++
  [(.tbs, false, 0x50, 4, 1, 0), (.tbs, false, 0x60, 4, 1, 0), (.tbs, false, 0x70, 4, 1, 0), (.tbs, false, 0x80, 2, 1, 0),
   (.tbs, false, 0x88, 2, 1, 0), (.tbs, false, 0x108, 2, 1, 0), (.tre, false, 0x38, 2, 1, 0), (.tre, false, 0x44, 2, 1, 0),
   (.tre, false, 0x88, 5, 1, 0), (.tre, false, 0x108, 2, 10, 0x20), (.eth, false, 0x28, 2, 1, 0), (.eth, false, 0x110, 2, 8, 0x40),
   (.ctl, false, 0x40, 4, 7, 0x20), (.hka, false, 0x100, 2, 32, 8), (.flt, false, 0x204, 4, 1, 0)]

/-- The multi-word value the word at offset o of page p belongs to: the offset of its word 0 and its words. -/
def mwOf (p o : Nat) : Option (Nat × Nat) :=
  mwTable.findSome? (fun (b, region, off, n, count, stride) =>
    let i := (o - off) / stride
    let base := off + i * stride
    if p / 17 == b.idx && (p % 17 != 0) == region && off ≤ o && i < count && o < base + 4 * n then some (base, n) else none)

/-- The words of a value as they stand. -/
def State.mwWords (s : State) (p base n : Nat) (view : Bool) : List Nat := (List.range n).map (fun k => s.liveWord p (base + 4 * k) view)

/-- One word read, with what the read itself does: snapshots, and the registers whose index advances. -/
def State.readWord (s : State) (a : Accessor) (p o : Nat) (view : Bool) : State × Nat :=
  let r := pageRegion p
  if isRegion .pfe p && o == 0x28 then (s.maskNext r, s.maskGet r (view || s.flag .pfer_MASK_VIEW r))
  else if isRegion .tdc p && o == 0x4C then (s.ofsNext r, s.ofsGet r (view || s.flag .tdcr_OFS_VIEW r))
  else if isRegion .cmp p && o == 0x54 then s.ctxWord r a.who view
  else
    match mwOf p o with
    | some (base, n) =>
      if o == base then
        let ws := s.mwWords p base n view
        (s.setSnap a.who ⟨p, base, view, ws⟩, ws.getD 0 0)
      else s.snapWord a.who p base ((o - base) / 4) view (s.liveWord p o view)
    | none => (s, s.liveWord p o view)

/-! ### What a written field does (R6, R7, R349, R359) -/

/-- A 1 in REVERT of page p: its shadows take the values in force (R356). -/
def State.revert (s : State) (p : Nat) : State :=
  let fs := match Blk.ofIdx (p / 17) with
    | some b => (pageFields (p % 17 != 0) b).map Fld.ctorIdx
    | none => []
  let mine (k : Nat) : Bool := fs.contains (k % 1024) && (p % 17 == 0 || k / 1024 == p % 17 - 1)
  let here (k : Nat) : Bool := k / 16384 == p % 17 - 1
  let s := { s with shadow := spMix s.shadow s.force mine }
  let s := if isRegion .pfe p then { s with pfe := { s.pfe with maskS := spMix s.pfe.maskS s.pfe.maskF here } } else s
  let s := if isRegion .tdc p then { s with tdc := { s.tdc with offS := spMix s.tdc.offS s.tdc.offF here } } else s
  s.wrB .hdr_SHADOW_DIRTY p false

/-- A write of BIN_DATA: the shadow table's bin k, from 1 on; its 13 bits are all of an edge that can be written (DESIGN CHOICE, log
entry 149). -/
def State.binWrite (s : State) (r : Fin 16) (v : Nat) : State :=
  let g := reg16 (s.rd .tdcr_BIN_GRP r)
  let k := s.rd .tdcr_BIN_IDX r
  if s.rd .tdcr_BIN_VIEW r == 1 && k != 0 then
    let x := s.group r g
    s.setGroup r g { x with load := some ((x.load.getD (factoryEdges r g)).set k (v % 8192)) }
  else s.wrB .tdcr_CFG_ERR r true

/-- BIAS_EN written: each bit that changes starts or ends a region's bias. -/
def State.biasWrite (s : State) (v : Nat) : State :=
  s.each (List.finRange 16) (fun r s => if bit v r then s.biasEnSet r else s.biasEnClear r)

/-- The command of CMD_OP. -/
def State.cmdGo (s : State) : State :=
  match s.rd .cab_CMD_OP with
  | 1 => s.cabCmd State.shelfDef
  | 2 => s.cabCmd State.shelfDel
  | 3 => s.cabCmd State.reelDef
  | 4 => s.cabCmd State.reelDel
  | 5 => s.cabCmd State.reelClear
  | 6 => s.cabCmd (fun s => s.takeStart s.tickTime)
  | 7 => s.cabCmd (fun s => s.takeStop s.tickTime)
  | 8 => s.cabCmd State.takeRelease
  | 9 => s.cabCmd State.takeDelete
  | 10 => s.cabCmd State.dirRead
  | _ => s.cmdReserved

/-- RST_MODULE written: accepted or not by R341; the reset follows the reply. -/
def State.rstWrite (s : State) (a : Accessor) : State :=
  if a.lvl != 2 || s.pwr == .acquire then s.wrB .pmr_PWR_CMD_ERR 0 true
  else s.pmrUpd (fun p => { p with warm := some (if a.who == 9 then 4 else 2) })

/-- A 1 in each bit m of a W1S field starts its action; own says that the writer's level is OWN. -/
def State.w1sWrite (s : State) (a : Accessor) (f : Fld) (i m : Nat) : State × Nat :=
  let own := a.lvl == 2
  let r := reg16 i
  match f with
  | .pmr_RST_MODULE => (s.rstWrite a, 0)
  | .pmr_FW_ACTIVATE => (s.fwActivate own, 0)
  | .pmr_FW_CONFIRM => (s.fwConfirm own, 0)
  | .pmr_BLK_RST => (s.blkRst m (own && a.who != 9), 0)
  | .pfe_MASK_SAVE => (s.maskSave, 0)
  | .pfer_FE_ABORT => (s.feAbort r, 0)
  | .pfer_HOT_CLR => (s.hotClr r, 0)
  | .tdcr_TDC_ABORT => (s.tdcAbort r, 0)
  | .tdcr_CAL_RESET => (s.calReset r, 0)
  | .tdcr_CAL_LOAD => (s.calLoad r, 0)
  | .seq_COMMIT => (s.commitWrite, 0)
  | .seq_REGION_ABORT => (s.regionsAbort m, 0)
  | .trg_SOFT_REQ => (s.trgInput 4 s.tbNow, 0)
  | .trg_MARK => (s.markSlate, 0)
  | .cmpr_CMP_ABORT => (s.regionAbort r, 0)
  | .cmpr_CTX_LOAD => (s.ctxLoad r, 0)
  | .cab_REPAIR_RUN => (s.repairRun, 0)
  | .cab_OFL_START => (s.oflStart, 0)
  | .cab_OFL_ABORT => (s.oflAbort, 0)
  | .cab_CMD_GO => (s.cmdGo, 0)
  | .tbs_STEP_CMD => ((s.stepWrite own).afterStep, 0)
  | .tbs_SNAP_REQ => (s.snapReq, 0)
  | .lnk_PORT_ABORT => (s.portAbort m, 0)
  | .lnk_RETRAIN => (s.retrain (reg10 i) m, 0)
  | .tre_ENUM_START => (s.enumStart, 0)
  | .tre_CLAIM_REQ => (if own then s.claimReq m else s, 0)
  | .eth_QP_ABORT => (s.qpAbort m, 0)
  | .ctl_KEY_CLEAR => s.keyClear a
  | .ctl_KEY_REVOKE => if own then s.keyRevoke a i else (s, 1)
  | .ctl_FW_BEGIN => (s.fwBegin own, 0)
  | .ctl_FW_VERIFY => (s.fwVerify own, 0)
  | .ctl_FW_ABORT => (s.fwAbort own, 0)
  | .hka_CAL_REQ => (s.calReq, 0)
  | .hka_INJ_REQ => (s.injReq, 0)
  | .flt_INJ_GO => (s.injGo, 0)
  | .flt_ACK_REAL => (s.ackMask false m, 0)
  | .flt_ACK_INJ => (s.ackMask true m, 0)
  | .flt_CLR_REAL => (s.clrMask false own m, 0)
  | .flt_CLR_INJ => (s.clrMask true own m, 0)
  | .hdr_REVERT => (s.revert i, 0)
  | _ => (s, 0)

/-- An RW field written. -/
def State.rwWrite (s : State) (a : Accessor) (f : Fld) (i v : Nat) : State × Nat :=
  match f with
  | .sns_BIAS_EN => (s.biasWrite v, 0)
  | .tdcr_BIN_DATA => (s.binWrite (reg16 i) v, 0)
  | .cmpr_CTX_DATA => (s.ctxWrite (reg16 i) a.who v, 0)
  | .tbs_FREQ_WORD => (s.freqWrite v, 0)
  | .tbs_TIME_SET => ((s.timeSet v).afterStep, 0)
  | .tre_ROLE_SW => (s.roleSw v, 0)
  | .lnk_CLAP_VIEW => ((s.wr f i v).on .tbs (fun s => s.each (List.finRange 10) (fun l s => if portOf l == i then s.clapView l else s)), 0)
  | .eth_QP_CI => (s.ciWrite (reg8 i) v, 0)
  | .ctl_KEY_LEVEL => s.keyLevel a i v
  | .hdr_RD_MASK | .hdr_WR_MASK => (s.wr f i (v ||| 4), 0)
  | _ => (s.wr f i v, 0)

/-- The tick parameters, which only a root's software writes (R117). -/
def rootOnly (f : Fld) : Bool := f = .seq_TICK_NUM || f = .seq_TICK_DEN || f = .seq_TICK_EPOCH || f = .seq_TICK_BASE

/-- An RWC field written: into its shadow, and its page turns dirty (R356). -/
def State.rwcWrite (s : State) (f : Fld) (i v : Nat) : State :=
  if f = .pfer_MASK_DATA then s.maskWrite (reg16 i) v
  else if f = .tdcr_TDC_OFF then s.ofsWrite (reg16 i) v
  else if rootOnly f && !s.isRoot then s.wrB .seq_CFG_ERR 0 true
  else (s.wrSh f i v).wrB .hdr_SHADOW_DIRTY (f.pageOf i) true

/-- A WO field written: PWR_CMD, or a key. -/
def State.woWrite (s : State) (a : Accessor) (f : Fld) (i v : Nat) : State × Nat :=
  match f with
  | .pmr_PWR_CMD =>
    (if v = 0 then s.pwrReady else if v = 1 then s.pwrStandby else if v = 2 then s.pwrAcquire else s.pwrSafe (a.lvl == 2), 0)
  | .ctl_KEY => s.keyWrite a i v
  | _ => (s, 0)

/-- The write acts on the field (R359). -/
def State.actsOn (s : State) (f : Fld) (i v : Nat) : Bool :=
  match f.desc.acc with
  | .ro => false
  | .rw => v != s.rd f i
  | .rwc => v != s.rdSh f i
  | .wo => true
  | _ => v != 0

/-- One field written with v, with the status it gives: from a lower level an OWN-only field is left alone (0x01), a reserved
encoding sets CFG_ERR of its page (R7), else the field acts by its type. -/
def State.fieldWrite (s : State) (a : Accessor) (f : Fld) (i v : Nat) : State × Nat :=
  if f.desc.own && a.lvl != 2 && s.actsOn f i v then (if f.desc.acc = .w1s then (s.w1sWrite a f i v).1 else s, 1)
  else if f.desc.resv.any (fun e => e.1 ≤ v && v ≤ e.2) then (s.wrB (f.errOf i).1 (f.errOf i).2 true, 0)
  else
    match f.desc.acc with
    | .ro => (s, 0)
    | .rw => s.rwWrite a f i v
    | .rwc => (s.rwcWrite f i v, 0)
    | .w1c => (s.wr f i (s.rd f i - (s.rd f i &&& v)), 0)
    | .wo => s.woWrite a f i v
    | .w1s => if v = 0 then (s, 0) else s.w1sWrite a f i v

/-- Within one write plain fields take their values first, then commands, then actions. -/
def Fld.phase (f : Fld) : Nat :=
  match f.desc.acc with
  | .w1s => 2
  | .wo => 1
  | .ro => 3
  | _ => 0

/-- The fields l written from the words v that begin at offset o. -/
def State.fieldsWrite (s : State) (a : Accessor) (l : List (Fld × Nat)) (v o : Nat) : State × Nat :=
  ((List.range 3).flatMap (fun ph => l.filter (fun x => x.1.phase == ph))).foldl (fun (acc : State × Nat) x =>
    let r := acc.1.fieldWrite a x.1 x.2 (x.1.cut (v >>> (8 * (x.1.offOf x.2 - o) + x.1.loOf x.2)))
    (r.1, if acc.2 = 0 then r.2 else acc.2)) (s, 0)

/-! ### One word written -/

/-- The write counted, its source and level kept (table Pages-2). -/
def State.countWrite (s : State) (a : Accessor) (p : Nat) : State :=
  ((s.bump .hdr_WR_COUNT p).wr .hdr_LAST_SRC p a.who).wr .hdr_LAST_LVL p a.lvl

/-- Word k of a value of which other words are written: staged by the writer, else as it stands (a key's in force). -/
def State.otherWord (s : State) (w : Fin 10) (p base k : Nat) : Nat :=
  match (s.ctl.stage[w]).find? (fun e => e.1 == p && e.2.1 == base + 4 * k) with
  | some e => e.2.2
  | none =>
    if p == 17 * Blk.ctl.idx then bits (s.rd .ctl_KEY ((base - 0x40) / 0x20)) (32 * k) 32 else s.liveWord p (base + 4 * k) false

/-- One word written (R349, R350, R355): the words of a multi-word value wait for its highest one. -/
def State.writeWord (s : State) (a : Accessor) (p o v : Nat) : State × Nat :=
  match mwOf p o with
  | none => (s.countWrite a p).fieldsWrite a (slotsIn p o 1) v o
  | some (base, n) =>
    let l := slotsIn p base n
    if l.all (fun x => x.1.desc.acc = .ro) then ((s.setStage a.who []).countWrite a p, 0)
    else if a.lvl != 2 && l.any (fun x => x.1.desc.own && x.1.desc.acc = .wo) then (s, 1)
    else
      let s := s.countWrite a p
      let st := (s.ctl.stage[a.who]).filter (fun e => e.1 == p && base ≤ e.2.1 && e.2.1 < base + 4 * n && e.2.1 != o)
      if o != base + 4 * (n - 1) then (s.setStage a.who (st ++ [(p, o, v)]), 0)
      else
        let w := (List.range (n - 1)).foldl (fun x k => x + s.otherWord a.who p base k <<< (32 * k)) (v <<< (32 * (n - 1)))
        (s.setStage a.who []).fieldsWrite a l w base

/-! ### Operations (R289, R346, R358, R360, R377) -/

/-- The status of an operation that executes nothing, 0 for one that may go on; masks are those of s0. A read that stays within
the header needs no level. -/
def State.opErr (s0 s : State) (a : Accessor) (fixed write : Bool) (addr n : Nat) : Nat :=
  let p := addrPg addr
  let head := decide (addrOff addr + 4 * (if fixed then 1 else n) ≤ 0x20)
  if addrBad fixed addr n || (write && addrView addr) then 2
  else if !s.pageAlive p then 5
  else if write then (if bit (s0.rd .hdr_WR_MASK p) a.lvl then 0 else 1)
  else if head || bit (s0.rd .hdr_RD_MASK p) a.lvl then 0 else 1

/-- A refusal by privilege is counted in its page. -/
def State.denied (s : State) (p st : Nat) : State := if st = 1 then s.bump .hdr_DENY_CNT p else s

/-- The offset of word k of an operation. -/
def wordOff (fixed : Bool) (addr k : Nat) : Nat := addrOff addr + (if fixed then 0 else 4 * k)

/-- A READ of n words: its status and the words. -/
def State.readOp (s0 s : State) (a : Accessor) (fixed : Bool) (addr n : Nat) : State × Nat × List Nat :=
  let e := s0.opErr s a fixed false addr n
  let p := addrPg addr
  if e ≠ 0 then (s.denied p e, e, [])
  else
    let r := (List.range n).foldl (fun (acc : State × List Nat) k =>
      let x := acc.1.readWord a p (wordOff fixed addr k) (addrView addr)
      (x.1, acc.2 ++ [x.2])) (s, [])
    (r.1, 0, r.2)

/-- A WRITE of words, with its status. -/
def State.writeOp (s0 s : State) (a : Accessor) (fixed : Bool) (addr : Nat) (ws : List Nat) : State × Nat :=
  let e := s0.opErr s a fixed true addr ws.length
  let p := addrPg addr
  if e ≠ 0 then (s.denied p e, e)
  else
    let r := ws.zipIdx.foldl (fun (acc : State × Nat) x =>
      if !acc.1.pageAlive p then acc
      else
        let y := acc.1.writeWord a p (wordOff fixed addr x.2) (x.1 % 2 ^ 32)
        (y.1, if acc.2 = 0 then y.2 else acc.2)) (s, 0)
    (r.1.denied p r.2, r.2)

/-- The accessor may reach the registers at all: JTAG while PROVISION_EN is high (R360), the others through the control core. -/
def State.mayAccess (s : State) (a : Accessor) : Bool :=
  if a.who == 9 then s.flag .ctl_PROV else s.alive .ctl && !s.flt.coreDown

/-- JTAG runs at level OWN. -/
def Accessor.eff (a : Accessor) : Accessor := if a.who == 9 then { a with lvl := 2 } else a

/-- An access outside a message: what it leaves for the message's end follows at once. A JTAG access while PROVISION_EN is low
is counted in its page. -/
def State.access (s : State) (a : Accessor) (addr : Nat) (f : Accessor → State → State) : State :=
  let b := Accessor.eff a
  if s.mayAccess b then (f b s).settle
  else if b.who == 9 && !addrBad true addr 1 && s.pageAlive (addrPg addr) then s.bump .hdr_DENY_CNT (addrPg addr)
  else s

/-- One word written by an accessor. -/
def State.poke (s : State) (a : Accessor) (addr v : Nat) : State := s.access a addr (fun b s => (s.writeOp s b false addr [v]).1)

/-! ### The commands -/

/-- REGISTER_WRITE: one word written by an accessor. -/
def execRegisterWrite (t : Nat) (a : Accessor) (addr v : BitVec 32) (s : State) : Host.Outcome State Fault Refusal :=
  run t (fun s => s.poke a addr.toNat v.toNat) s
/-- MULTIWORD_CAPTURE: one word read by an accessor, word 0 of a multi-word value capturing it whole. -/
def execMultiwordCapture (t : Nat) (a : Accessor) (addr : BitVec 32) (s : State) : Host.Outcome State Fault Refusal :=
  run t (fun s => (s.access a addr.toNat (fun b s =>
    let r := s.readOp s b false addr.toNat 1
    { r.1 with lastRead := r.2.2.getD 0 0 })).when (!s.mayAccess (Accessor.eff a)) (fun s => { s with lastRead := 0 })) s

/-- MULTIWORD_COMMIT: the highest word of a multi-word value written. -/
def execMultiwordCommit (t : Nat) (a : Accessor) (addr v : BitVec 32) (s : State) : Host.Outcome State Fault Refusal :=
  run t (fun s => s.poke a addr.toNat v.toNat) s
/-- REVERT: a 1 written to REVERT of a page. -/
def execRevert (t : Nat) (a : Accessor) (blk : Fin 20) (page : Fin 17) (s : State) : Host.Outcome State Fault Refusal :=
  run t (fun s => s.poke a (mkAddr blk page 0xC) 2) s
/-- PRIV_MASK_WRITE: the mask word of a page written. -/
def execPrivMaskWrite (t : Nat) (a : Accessor) (blk : Fin 20) (page : Fin 17) (v : BitVec 32) (s : State) :
    Host.Outcome State Fault Refusal := run t (fun s => s.poke a (mkAddr blk page 8) v.toNat) s
/-- KEY_WRITE: word 3 of a slot's KEY written behind the words 0 to 2 the accessor has staged. -/
def execKeyWrite (t : Nat) (a : Accessor) (slot : Fin 7) (v : BitVec 32) (s : State) : Host.Outcome State Fault Refusal :=
  run t (fun s => s.poke a (mkAddr 17 0 (0x4C + 0x20 * slot)) v.toNat) s
/-- KEY_LEVEL_WRITE. -/
def execKeyLevelWrite (t : Nat) (a : Accessor) (slot : Fin 7) (v : BitVec 2) (s : State) : Host.Outcome State Fault Refusal :=
  run t (fun s => s.poke a (mkAddr 17 0 (0x50 + 0x20 * slot)) v.toNat) s
/-- KEY_REVOKE: written with the slot's present level beside it. -/
def execKeyRevoke (t : Nat) (a : Accessor) (slot : Fin 7) (s : State) : Host.Outcome State Fault Refusal :=
  run t (fun s => s.poke a (mkAddr 17 0 (0x50 + 0x20 * slot)) (4 + s.rd .ctl_KEY_LEVEL slot)) s
/-- KEY_CLEAR: written with the shadows of its word beside it. -/
def execKeyClear (t : Nat) (a : Accessor) (s : State) : Host.Outcome State Fault Refusal :=
  run t (fun s => s.poke a (mkAddr 17 0 0x20) (s.liveWord (17 * Blk.ctl.idx) 0x20 false + 1 <<< 24)) s

end Sys2Proof.Machine
end

