-- ==== Sys2Proof/Machine/Ctl.lean ====
section
/-! DEFINITION. CTL and relay: Thabor sessions and requests, and requests to and from other modules (R259, R260, R285 to R290). -/

namespace Sys2Proof.Machine

open Sys2Proof

/-! ### Messages and who sent them (R285, R286, R344) -/

/-- The module answers Thabor here: by its control core, on the link-local address while PROVISION_EN is high, from the recovery
firmware there and through slot 7 alone. -/
def State.thbHears (s : State) (h : ThbHead) : Bool :=
  s.alive .ctl && s.alive .eth && !s.flt.coreDown && (!h.local_ || s.flag .ctl_PROV) &&
    (!s.pmr.recovery || (h.local_ && h.slot.toNat == 7))

/-- The message leaves the queue of the authentication engine. -/
def State.thbTake (s : State) (h : ThbHead) : State :=
  match s.eth.thb.find? (fun e => e.1 == h.ip.toNat && e.2.1 == h.port.toNat) with
  | some e => s.ethUpd (fun x => { x with thb := x.thb.erase e })
  | none => s

/-- The bytes of the bodies (R287, R289). -/
def openBody (level nonce : Nat) : List Nat := [level] ++ List.replicate 7 0 ++ bytesLE 8 nonce
def ThbOp.bytes : ThbOp → List Nat
  | .read fixed n addr => [1, b2n fixed] ++ bytesLE 2 n ++ bytesLE 4 addr.toNat
  | .write fixed addr ws => [2, b2n fixed] ++ bytesLE 2 ws.length ++ bytesLE 4 addr.toNat ++ ws.flatMap (fun w => bytesLE 4 w.toNat)
  | .fwData off ws => [3, 0] ++ bytesLE 2 ws.length ++ bytesLE 4 off.toNat ++ ws.flatMap (fun w => bytesLE 4 w.toNat)
  | .nop n => [4, 0] ++ bytesLE 2 n ++ bytesLE 4 0
def requestBody (ops : List ThbOp) (rest : List (BitVec 8)) : List Nat := ops.flatMap ThbOp.bytes ++ rest.map (·.toNat)

/-- The operations a body's bytes hold; none where they are malformed (R289): fuel n. -/
def parseOps : Nat → List Nat → Option (List ThbOp)
  | _, [] => some []
  | 0, _ => none
  | n + 1, b =>
    let count := ofBytesLE ((b.drop 2).take 2)
    let addr := BitVec.ofNat 32 (ofBytesLE ((b.drop 4).take 4))
    let fixed := bit (b.getD 1 0) 0
    let words := (List.range count).map (fun i => BitVec.ofNat 32 (ofBytesLE ((b.drop (8 + 4 * i)).take 4)))
    let next (o : ThbOp) (k : Nat) : Option (List ThbOp) := if b.length < 8 + k then none else (parseOps n (b.drop (8 + k))).map (fun l => o :: l)
    match b.getD 0 0 with
    | 1 => next (.read fixed count addr) 0
    | 2 => next (.write fixed addr words) (4 * count)
    | 3 => next (.fwData addr words) (4 * count)
    | 4 => next (.nop count) 0
    | _ => none

/-- The operations of a REQUEST: those of ops, and those in the bytes behind them. -/
def requestOps (ops : List ThbOp) (rest : List (BitVec 8)) : Option (List ThbOp) :=
  (parseOps rest.length (rest.map (·.toNat))).map (fun l => ops ++ l)

/-- A message's form (R285): THB_VER, MTYPE, a slot there is, MSG_SEQ of the host, and a BODY_LEN that agrees with its body of n bytes. -/
def thbWhole (h : ThbHead) (mtype n : Nat) : Bool :=
  h.ver.toNat == 1 && h.mtype.toNat == mtype && h.slot.toNat < 8 && h.seq.toNat < 2 ^ 63 && h.bodyLen.toNat == n && n ≤ 1400

/-- The message is whole, and its tag is that of its bytes under the key its slot holds (R286). -/
def State.thbSealed (s : State) (h : ThbHead) (mtype target : Nat) (body : List Nat) : Bool :=
  thbWhole h mtype body.length &&
    (thbSeal (s.slotKey h.slot.toNat) mtype h.slot.toNat h.sess.toNat h.salt.toNat h.seq.toNat target body).2 == h.tag

/-- The open session an authentic message belongs to. -/
def State.thbSession (s : State) (h : ThbHead) (mtype target : Nat) (body : List Nat) : Option Sess :=
  (s.session (reg8 h.sess.toNat)).filter (fun x =>
    h.sess.toNat < 8 && s.slotUsable h.slot.toNat && x.slot == h.slot.toNat && x.salt == h.salt.toNat && s.thbSealed h mtype target body)

def State.authFail (s : State) : State := s.bump .ctl_AUTH_FAIL 0
def State.replayDrop (s : State) : State := s.bump .ctl_REPLAY_DROP 0

/-! ### OPEN (R287) -/

/-- The salt of the n-th OPEN since start-up: the start-up count above it. -/
def State.saltOf (s : State) (n : Nat) : Nat := (s.flash.starts % 2 ^ 16) <<< 16 + n % 2 ^ 16

/-- An OPEN_REPLY goes out: on session n, or refusing. -/
def State.openSay (s : State) (h : ThbHead) (n status level salt nonce : Nat) : State :=
  let m : ThbOut := { ip := h.ip.toNat, port := h.port.toNat, vlan := s.ctlTag, local_ := h.local_, sport := s.thbSport h.local_,
                      slot := h.slot.toNat, sess := n, salt := salt, seq := 2 ^ 63 }
  let body := [status, level] ++ List.replicate 6 0 ++ bytesLE 8 nonce
  { s with out := .openReply (m.seal (s.slotKey h.slot.toNat) 2 body) status level nonce :: s.out }

/-- Session n opens. -/
def State.sessOpen (s : State) (n : Fin 8) (h : ThbHead) (asked salt : Nat) : State :=
  let x : Sess := { slot := h.slot.toNat, asked := asked, salt := salt, high := h.seq.toNat, seen := [h.seq.toNat], at_ := s.clock }
  let s := (s.setSession n (some x)).wrBit .ctl_SESS_OPEN 0 n true
  ((((s.wr .ctl_SESS_SLOT n h.slot.toNat).wr .ctl_SESS_LEVEL n (s.sessLevel x)).wr .ctl_SESS_IP n h.ip.toNat).wr .ctl_SESS_PORT n
    h.port.toNat).wr .ctl_SESS_SALT n salt

/-- An authentic OPEN: answered, unless it repeats one of the slot's last 64. -/
def State.openMsg (s : State) (h : ThbHead) (asked nonce : Nat) : State :=
  let seen := s.ctl.opens[reg8 h.slot.toNat]
  if seen.contains h.seq.toNat then s.replayDrop
  else
    let full := decide (65535 ≤ s.ctl.count)
    let n := if full then 65535 else s.ctl.count + 1
    let s := s.ctlUpd (fun c => { c with opens := c.opens.set (reg8 h.slot.toNat) ((h.seq.toNat :: seen).take 64), count := n })
    let salt := s.saltOf n
    if full then s.openSay h 255 5 0 salt nonce
    else if !s.slotUsable h.slot.toNat then s.openSay h 255 1 0 salt nonce
    else
      match (List.finRange 8).find? (fun n => (s.session n).isNone) with
      | none => s.openSay h 255 5 0 salt nonce
      | some n =>
        let s := s.sessOpen n h asked salt
        s.openSay h n 0 (s.rd .ctl_SESS_LEVEL n) salt nonce

/-! ### Relay at the target (R12, R259, R360) -/

/-- A commit named by its tick, that request q asks for: captured for it; busy while one is pending; once the tick has passed, for the next
boundary, the ticks in between marked (R12). None where the outcome is to be known at the boundary. -/
def State.relayCommit (s : State) (q : RelayReq) (tick : Nat) : State × Option Nat :=
  let asked (s : State) : State × Option Nat :=
    match s.staged with
    | some g => ({ s with staged := some { g with req := some q } }, none)
    | none => (s, some 4)
  if s.staged.isSome then (s, some 5)
  else if !s.running then ((s.wrB .seq_CFG_ERR 0 true).wrB .seq_TICK_CFG_ERR 0 true, some 4)
  else
    match s.tickAheadOf tick with
    | some b => asked (s.commitFor (some b))
    | none => asked ((s.commitFor (some s.commitNext)).slip (s.tickGoneOf tick) s.commitNext)

/-- The accessor of a relayed operation: relay, at the originating session's level (R360). -/
def relayAcc (level : Nat) : Accessor := { who := 8, lvl := ⟨Nat.min level 2, Nat.lt_succ_of_le (Nat.min_le_right _ _)⟩ }

/-- What a request does at its target: status and words; no status yet for a commit that awaits its boundary. -/
def State.relayApply (s : State) (q : RelayReq) : State × Option Nat × List Nat :=
  let a := relayAcc q.level
  match q.op with
  | .read fixed addr n =>
    let r := s.readOp s a fixed addr n
    (r.1, some r.2.1, r.2.2)
  | .write fixed addr ws =>
    let r := s.writeOp s a fixed addr ws
    (r.1, some r.2, [])
  | .commit tick =>
    let e := s.opErr s a false true (mkAddr Blk.seq.idx 0 0x20) 1
    if e ≠ 0 then (s.denied (17 * Blk.seq.idx) e, some e, [])
    else
      let r := s.relayCommit q tick
      (r.1, r.2, [])
  | .ticks tick num den epoch base =>
    if bit s.held Blk.seq.idx then (s, some 5, []) else (s.ticksRx ⟨tick, num, den, epoch, base⟩, some 0, [])
  | .fixLat ns => if s.alive .trg then (s.wr .trg_TRIG_FIX_LAT 0 ns, some 0, []) else (s, some 5, [])
  | .admitted child => (s.admitRx child, some 0, [])

/-- A request applied here and answered upward; one received before is answered again and not applied (R260), one whose outcome is not yet known
is answered when it is. -/
def State.relayHere (s : State) (q : RelayReq) : State :=
  if s.staged.any (fun g => g.req.any (fun p => p.src == q.src && p.seq == q.seq)) then s
  else
    match s.tre.done.find? (fun e => e.1.src == q.src && e.1.seq == q.seq) with
    | some e => s.sendUp (.relayRep e.2)
    | none =>
      let r := s.relayApply q
      (match r.2.1 with
        | some st => r.1.relayAnswer q st r.2.2
        | none => r.1).settle

/-- RELAY_REQUEST_RX from the primary parent. -/
def State.relayRx (s : State) (q : RelayReq) : State :=
  if q.target == 0xFFFFFFFF then (s.each s.childLinks (fun l s => s.relayOn l q)).relayHere q
  else if q.target == s.myId then s.relayHere q
  else
    match s.routeTo q.target with
    | some l => s.relayOn l q
    | none => (s.bump .tre_RELAY_NOROUTE 0).sendUp (.relayRep ⟨s.myId, q.src, q.seq, 3, []⟩)

/-! ### REQUEST (R288 to R291) -/

def ThbOp.code : ThbOp → Nat
  | .read .. => 1
  | .write .. => 2
  | .fwData .. => 3
  | .nop _ => 4
def ThbOp.count : ThbOp → Nat
  | .read _ n _ => n
  | .write _ _ ws => ws.length
  | .fwData _ ws => ws.length
  | .nop n => n

/-- The bytes of an operation's answer when it is done. -/
def ThbOp.replyLen : ThbOp → Nat
  | .read _ n _ => 4 + 4 * n
  | _ => 4

/-- The operations are well formed and their reply fits. -/
def thbFits (ops : List ThbOp) : Bool :=
  ops.all (fun o => decide (1 ≤ ThbOp.count o) && decide (ThbOp.count o ≤ 64)) &&
    decide (ops.foldl (fun a o => a + ThbOp.replyLen o) 0 ≤ 1400)

/-- An answer without data. -/
def ThbOp.answer (o : ThbOp) (status : Nat) : OpRep := ⟨status, ThbOp.code o, ThbOp.count o, []⟩

/-- The recovery firmware takes the operation (R344): a read of the PMR page, FW_DATA, FW_SIZE, FW_BEGIN and FW_VERIFY, RST_MODULE and
FW_ACTIVATE. -/
def recoveryOp : ThbOp → Bool
  | .read _ _ addr => addrWin addr.toNat == Blk.pmr.idx && addrPage addr.toNat == 0
  | .fwData .. => true
  | .write _ addr ws =>
    match ws with
    | [v] =>
      let w := v.toNat
      (addr.toNat == mkAddr 17 0 0x1C0 && !bit w 2) || addr.toNat == mkAddr 17 0 0x1C4 || 
        (addr.toNat == mkAddr 0 0 0x20 && w % 8 == 0 && !bit w 5 && (bit w 3 || bit w 4))
    | _ => false
  | .nop _ => false

/-- One operation on this module; masks are those of s0. -/
def State.thbOp (s0 s : State) (a : Accessor) (o : ThbOp) : State × OpRep :=
  if s.pmr.recovery && !recoveryOp o then (s, ThbOp.answer o 4)
  else
    match o with
    | .read fixed n addr =>
      let r := s0.readOp s a fixed addr.toNat n
      (r.1, ⟨r.2.1, 1, n, r.2.2⟩)
    | .write fixed addr ws =>
      let r := s0.writeOp s a fixed addr.toNat (ws.map (·.toNat))
      (r.1, ThbOp.answer o r.2)
    | .fwData off ws =>
      let r := s.fwData (a.lvl == 2) off.toNat ws
      (r.1.denied (17 * Blk.ctl.idx) r.2, ThbOp.answer o r.2)
    | .nop _ => (s, ThbOp.answer o 0)

/-- The operations of a message in order. -/
def State.thbOps (s : State) (a : Accessor) (ops : List ThbOp) : State × List OpRep :=
  ops.foldl (fun (acc : State × List OpRep) o =>
    let r := s.thbOp acc.1 a o
    (r.1, acc.2 ++ [r.2])) (s, [])

/-- The relay operation of an operation for another module or, with all, for every module; none that may not be relayed (R290). A write of
COMMIT that sets COMMIT_AT_EN is the commit relay of R259; it names COMMIT_TICK as it stands here (DESIGN CHOICE, log entry 207). -/
def State.relayOp (s : State) (all : Bool) (o : ThbOp) : Option RelayOp :=
  match o with
  | .read fixed n addr => if all then none else some (.read fixed addr.toNat n)
  | .write fixed addr ws =>
    if addr.toNat == mkAddr Blk.seq.idx 0 0x20 && ws.length == 1 && ws.all (fun w => bit w.toNat 0 && bit w.toNat 1) then
      some (.commit (s.rd .seq_COMMIT_TICK))
    else some (.write fixed addr.toNat (ws.map (·.toNat)))
  | _ => none

/-- A relayed commit names a tick at least 16 ticks after the present one (R259). -/
def State.relayLate (s : State) (op : RelayOp) : Bool :=
  match op with
  | .commit k => !s.running || !(s.tickAheadOf k).any (fun b => decide (s.seq.k + 16 ≤ b))
  | _ => false

/-- An operation for another module, or for all: its relay sent, with the modules that must answer (R290). -/
def State.relayOut (s : State) (level target : Nat) (o : ThbOp) : State × PendOp :=
  match s.relayOp (target == 0xFFFFFFFF) o with
  | none => (s, .done (ThbOp.answer o 4))
  | some op =>
    let n := s.tre.relaySeq
    let q : RelayReq := ⟨s.myId, BitVec.ofNat 16 n, target, level, op⟩
    let next (s : State) : State := s.treUpd (fun t => { t with relaySeq := (t.relaySeq + 1) % 2 ^ 16 })
    let wait (w : RelayWait) (s : State) : State × PendOp :=
      (s.treUpd (fun t => { t with relays := t.relays ++ [w] }), .wait n (ThbOp.code o) (ThbOp.count o))
    if s.relayLate op then (s, .done (ThbOp.answer o 4))
    else if target = 0xFFFFFFFF then
      let r := (next s).relayApply q
      let s := r.1.each s.childLinks (fun l s => s.relayOn l q)
      let left := (if r.2.1.isSome then [] else [s.myId]) ++ s.tre.sub.map (·.id)
      let st := r.2.1.getD 0
      if left.isEmpty then (s, .done (ThbOp.answer o st))
      else wait { seq := n, at_ := s.clock, target := target, left := left, status := st } s
    else
      match s.routeTo target with
      | some l => wait { seq := n, at_ := s.clock, target := target, left := [target] } ((next s).relayOn l q)
      | none => (s.bump .tre_RELAY_NOROUTE 0, .done (ThbOp.answer o 3))

/-- The operations of a message for another module. -/
def State.relayOuts (s : State) (level target : Nat) (ops : List ThbOp) : State × List PendOp :=
  ops.foldl (fun (acc : State × List PendOp) o =>
    let r := acc.1.relayOut level target o
    (r.1, acc.2 ++ [r.2])) (s, [])

/-- A new REQUEST of session n executed. -/
def State.thbExec (s : State) (n : Fin 8) (x : Sess) (h : ThbHead) (target : Nat) (ops : List ThbOp) : State :=
  let lvl : Fin 3 := ⟨Nat.min (s.sessLevel x) 2, Nat.lt_succ_of_le (Nat.min_le_right _ _)⟩
  let s := s.bump .ctl_MSG_EXEC 0
  if target = 0 || target == s.myId then
    let a : Accessor := { who := ⟨n.val, Nat.lt_trans n.isLt (by decide)⟩, lvl := lvl }
    let r := s.thbOps a ops
    (r.1.thbReply n (s.slotKey h.slot.toNat) h.ip.toNat h.port.toNat h.local_ h.seq.toNat r.2).settle
  else if s.pmr.recovery then
    s.thbReply n (s.slotKey h.slot.toNat) h.ip.toNat h.port.toNat h.local_ h.seq.toNat (ops.map (fun o => ThbOp.answer o 4))
  else
    let r := s.relayOuts lvl target ops
    let p : PendMsg := { sess := n, salt := x.salt, seq := h.seq.toNat, ip := h.ip.toNat, port := h.port.toNat, local_ := h.local_,
                         key := s.slotKey h.slot.toNat, ops := r.2 }
    (r.1.ctlUpd (fun c => { c with pend := c.pend ++ [p] })).pendReply.settle

/-- A MSG_SEQ was accepted before, or lies below the window of 64 (R288). -/
def Sess.old (x : Sess) (seq : Nat) : Bool := seq + 64 < x.high || seq == x.high || (seq < x.high && x.seen.contains seq)

/-- A MSG_SEQ accepted. -/
def Sess.accept (x : Sess) (seq : Nat) : Sess :=
  let high := max x.high seq
  { x with high := high, seen := (seq :: x.seen).filter (fun n => high ≤ n + 64) }

/-- An authentic REQUEST: a repeat of one of the last four executed is answered again, any other repeat is dropped; one that is malformed is
answered with a single head. -/
def State.requestMsg (s : State) (h : ThbHead) (x : Sess) (target : Nat) (ops : Option (List ThbOp)) : State :=
  let n := reg8 h.sess.toNat
  let seq := h.seq.toNat
  let x := { x with at_ := s.clock }
  let s := s.setSession n (some x)
  let say (s : State) (l : List OpRep) : State := s.thbSay n (s.slotKey h.slot.toNat) h.ip.toNat h.port.toNat h.local_ seq l
  match x.reps.find? (fun e => e.1 == seq) with
  | some e => say s e.2
  | none =>
    if x.old seq then s.replayDrop
    else
      let x := x.accept seq
      let s := s.setSession n (some x)
      match ops.filter thbFits with
      | some ops => s.thbExec n x h target ops
      | none => say s [⟨4, 0, 0, []⟩]

/-! ### The commands -/

/-- OPEN: the level asked for and the host's nonce. -/
def execOpenReq (t : Nat) (h : ThbHead) (level : BitVec 8) (nonce : BitVec 64) (s : State) : Host.Outcome State Fault Refusal :=
  run t (fun s => s.when (s.thbHears h) (fun s =>
    let s := s.thbTake h
    if s.thbSealed h 1 0 (openBody level.toNat nonce.toNat) && h.salt.toNat == 0xFFFFFFFF && h.sess.toNat == 0xFF then s.openMsg h level.toNat nonce.toNat else s.authFail)) s
/-- REQUEST: for a target, its operations, and the bytes of its body behind them. -/
def execRequest (t : Nat) (h : ThbHead) (target : BitVec 32) (rest : List (BitVec 8)) (ops : List ThbOp) (s : State) :
    Host.Outcome State Fault Refusal :=
  run t (fun s => s.when (s.thbHears h) (fun s =>
    let s := s.thbTake h
    match s.thbSession h 3 target.toNat (requestBody ops rest) with
    | some x => s.requestMsg h x target.toNat (requestOps ops rest)
    | none => s.authFail)) s
/-- CLOSE. -/
def execCloseReq (t : Nat) (h : ThbHead) (s : State) : Host.Outcome State Fault Refusal :=
  run t (fun s => s.when (s.thbHears h) (fun s =>
    let s := s.thbTake h
    match s.thbSession h 5 0 [] with
    | some x =>
      let n := reg8 h.sess.toNat
      let m := s.sessHead n x h.ip.toNat h.port.toNat h.local_
      { s.sessClose n with out := .closeReply (m.seal (s.slotKey h.slot.toNat) 6 []) :: s.out }
    | none => s.authFail)) s
/-- SESSION_IDLE: session n has had no valid message for SESS_IDLE seconds. -/
def execSessionIdle (t : Nat) (n : Fin 8) (s : State) : Host.Outcome State Fault Refusal :=
  run t (fun s => s.on .ctl (fun s =>
    match s.session n with
    | some x => if x.at_ + s.rd .ctl_SESS_IDLE * secFu ≤ s.clock then s.sessClose n else s
    | none => s)) s
/-- RELAY_REQUEST_RX: from the primary parent; a read or write has at most 64 words. -/
def execRelayRequestRx (t : Nat) (l : Fin 10) (q : RelayReq) (s : State) : Host.Outcome State Fault Refusal :=
  let n := match q.op with
    | .read _ _ n => n
    | .write _ _ ws => ws.length
    | _ => 0
  if 64 < n then .fault (.malformed "RELAY_REQUEST_RX")
  else treRx t l (fun s => s.when (s.parentLink == some l && !s.flt.coreDown) (fun s => s.relayRx q)) s
/-- RELAY_REPLY_RX. -/
def execRelayReplyRx (t : Nat) (l : Fin 10) (p : RelayRep) (s : State) : Host.Outcome State Fault Refusal :=
  treRx t l (fun s => s.when (!s.flt.coreDown) (fun s => (s.relayGather p).warmSettle)) s
/-- VOTER_MISMATCH: the outputs of members A, B and C on a clock. -/
def execVoterMismatch (t : Nat) (o : Vector (BitVec 32) 3) (s : State) : Host.Outcome State Fault Refusal :=
  run t (fun s => s.on .ctl (fun s => s.on .flt (fun s => (s.voterMismatch o).warmSettle))) s
/-- RELAY_TIMEOUT: of relay sequence seq. -/
def execRelayTimeout (t : Nat) (seq : BitVec 16) (s : State) : Host.Outcome State Fault Refusal :=
  run t (fun s => s.on .tre (fun s => s.when (!s.flt.coreDown) (fun s => (s.relayTimeout seq.toNat).warmSettle))) s

end Sys2Proof.Machine
end

