-- ==== Sys2Proof/Machine/Dispatch.lean ====
section
/-! DEFINITION. The dispatch: one arm for each command, one direct call of its meaning. -/

namespace Sys2Proof.Machine

open Sys2Proof

/-- The effect of a command on everything but the queue of waiting commands. -/
def exec (i : Instr) (s : State) : Host.Outcome State Fault Refusal :=
  match i with
  | .powerOn t => Sys2Proof.Machine.execPowerOn t s
  | .vinUndervoltage t => Sys2Proof.Machine.execVinUndervoltage t s
  | .pwrEnLow t => Sys2Proof.Machine.execPwrEnLow t s
  | .resetNLow t => Sys2Proof.Machine.execResetNLow t s
  | .startComplete t x => Sys2Proof.Machine.execStartComplete t x s
  | .railRetry t => Sys2Proof.Machine.execRailRetry t s
  | .pwrCmdReady t => Sys2Proof.Machine.execPwrCmdReady t s
  | .pwrCmdStandby t => Sys2Proof.Machine.execPwrCmdStandby t s
  | .pwrCmdAcquireEnable t => Sys2Proof.Machine.execPwrCmdAcquireEnable t s
  | .pwrCmdSafe t own => Sys2Proof.Machine.execPwrCmdSafe t own s
  | .standbyEntry t => Sys2Proof.Machine.execStandbyEntry t s
  | .standbyExit t => Sys2Proof.Machine.execStandbyExit t s
  | .acquireToReady t => Sys2Proof.Machine.execAcquireToReady t s
  | .safeExit t => Sys2Proof.Machine.execSafeExit t s
  | .tickBoundary t => Sys2Proof.Machine.execTickBoundary t s
  | .pacingInstant t => Sys2Proof.Machine.execPacingInstant t s
  | .tickScheduleStart t => Sys2Proof.Machine.execTickScheduleStart t s
  | .commit t => Sys2Proof.Machine.execCommit t s
  | .commitBoundary t => Sys2Proof.Machine.execCommitBoundary t s
  | .regionDrainDone t r => Sys2Proof.Machine.execRegionDrainDone t r s
  | .regionAbort t m => Sys2Proof.Machine.execRegionAbort t m s
  | .biasEnSet t r => Sys2Proof.Machine.execBiasEnSet t r s
  | .biasEnClear t r => Sys2Proof.Machine.execBiasEnClear t r s
  | .biasRampDone t r => Sys2Proof.Machine.execBiasRampDone t r s
  | .regionOvercurrent t r => Sys2Proof.Machine.execRegionOvercurrent t r s
  | .railOvercurrent t => Sys2Proof.Machine.execRailOvercurrent t s
  | .pixelEdge t r c p raw => Sys2Proof.Machine.execPixelEdge t r c p raw s
  | .pixelHoldoffEnd t r c p => Sys2Proof.Machine.execPixelHoldoffEnd t r c p s
  | .captureWindowClose t r c => Sys2Proof.Machine.execCaptureWindowClose t r c s
  | .feAbort t r => Sys2Proof.Machine.execFeAbort t r s
  | .maskDataWrite t r v => Sys2Proof.Machine.execMaskDataWrite t r v s
  | .maskDataRead t r => Sys2Proof.Machine.execMaskDataRead t r s
  | .maskSave t => Sys2Proof.Machine.execMaskSave t s
  | .maskSaveDone t => Sys2Proof.Machine.execMaskSaveDone t s
  | .hotClr t r => Sys2Proof.Machine.execHotClr t r s
  | .frameTransferDone t r => Sys2Proof.Machine.execFrameTransferDone t r s
  | .injectedPulse t r => Sys2Proof.Machine.execInjectedPulse t r s
  | .clusterReadoutVisit t r => Sys2Proof.Machine.execClusterReadoutVisit t r s
  | .tdcDrainDone t r => Sys2Proof.Machine.execTdcDrainDone t r s
  | .tdcAbort t r => Sys2Proof.Machine.execTdcAbort t r s
  | .calBatchClose t b => Sys2Proof.Machine.execCalBatchClose t b s
  | .calBatchTimeout t r g => Sys2Proof.Machine.execCalBatchTimeout t r g s
  | .calReset t r => Sys2Proof.Machine.execCalReset t r s
  | .calLoad t r => Sys2Proof.Machine.execCalLoad t r s
  | .tdcOffAccess t r w => Sys2Proof.Machine.execTdcOffAccess t r w s
  | .auxEdge t ch falling raw refs => Sys2Proof.Machine.execAuxEdge t ch falling raw refs s
  | .auxInstanceSwap t ch => Sys2Proof.Machine.execAuxInstanceSwap t ch s
  | .phaseMonitor t spacingBad pllLost => Sys2Proof.Machine.execPhaseMonitor t spacingBad pllLost s
  | .refLoss t => Sys2Proof.Machine.execRefLoss t s
  | .refWindow t ppb => Sys2Proof.Machine.execRefWindow t ppb s
  | .ppsTimeout t => Sys2Proof.Machine.execPpsTimeout t s
  | .extPhaseUpdate t raw => Sys2Proof.Machine.execExtPhaseUpdate t raw s
  | .srcRevertTimer t => Sys2Proof.Machine.execSrcRevertTimer t s
  | .holdoverWarn t => Sys2Proof.Machine.execHoldoverWarn t s
  | .clapperTx t l => Sys2Proof.Machine.execClapperTx t l s
  | .clapperRx t l lane c => Sys2Proof.Machine.execClapperRx t l lane c s
  | .clapTimeout t l => Sys2Proof.Machine.execClapTimeout t l s
  | .ptpAnnounceRx t h a => Sys2Proof.Machine.execPtpAnnounceRx t h a s
  | .ptpSyncRx t h twoStep => Sys2Proof.Machine.execPtpSyncRx t h twoStep s
  | .ptpFollowUpRx t h t1 => Sys2Proof.Machine.execPtpFollowUpRx t h t1 s
  | .ptpDelayReqTx t => Sys2Proof.Machine.execPtpDelayReqTx t s
  | .ptpDelayRespRx t h t4 => Sys2Proof.Machine.execPtpDelayRespRx t h t4 s
  | .ptpAnnounceTimeout t => Sys2Proof.Machine.execPtpAnnounceTimeout t s
  | .ptpSyncTimeout t => Sys2Proof.Machine.execPtpSyncTimeout t s
  | .stepCmd t own => Sys2Proof.Machine.execStepCmd t own s
  | .timeSetWrite t w => Sys2Proof.Machine.execTimeSetWrite t w s
  | .snapReq t => Sys2Proof.Machine.execSnapReq t s
  | .timeNowRead t => Sys2Proof.Machine.execTimeNowRead t s
  | .freqWordWrite t v => Sys2Proof.Machine.execFreqWordWrite t v s
  | .ppsOutPulse t => Sys2Proof.Machine.execPpsOutPulse t s
  | .gateOpen t r => Sys2Proof.Machine.execGateOpen t r s
  | .gateClose t r => Sys2Proof.Machine.execGateClose t r s
  | .eventWordRelease t r => Sys2Proof.Machine.execEventWordRelease t r s
  | .tickClose t r => Sys2Proof.Machine.execTickClose t r s
  | .histoDumpDone t r => Sys2Proof.Machine.execHistoDumpDone t r s
  | .frameHeadEmit t r => Sys2Proof.Machine.execFrameHeadEmit t r s
  | .softReq t => Sys2Proof.Machine.execSoftReq t s
  | .mark t => Sys2Proof.Machine.execMark t s
  | .rateEval t => Sys2Proof.Machine.execRateEval t s
  | .requestMergeEnd t => Sys2Proof.Machine.execRequestMergeEnd t s
  | .treqRx t l tseq cls n src time => Sys2Proof.Machine.execTreqRx t l tseq cls n src time s
  | .decisionWindowEnd t => Sys2Proof.Machine.execDecisionWindowEnd t s
  | .tdecRx t l tseq cls id time => Sys2Proof.Machine.execTdecRx t l tseq cls id time s
  | .triggerAction t => Sys2Proof.Machine.execTriggerAction t s
  | .trigOutPulseStart t o => Sys2Proof.Machine.execTrigOutPulseStart t o s
  | .trigOutPulseEnd t o => Sys2Proof.Machine.execTrigOutPulseEnd t o s
  | .windowClose t r => Sys2Proof.Machine.execWindowClose t r s
  | .chunkComplete t r packBad => Sys2Proof.Machine.execChunkComplete t r packBad s
  | .dynTableReady t r k => Sys2Proof.Machine.execDynTableReady t r k s
  | .stallLimit t r => Sys2Proof.Machine.execStallLimit t r s
  | .cmpAbort t r => Sys2Proof.Machine.execCmpAbort t r s
  | .ctxDataRead t r => Sys2Proof.Machine.execCtxDataRead t r s
  | .ctxDataWrite t r v => Sys2Proof.Machine.execCtxDataWrite t r v s
  | .ctxLoad t r => Sys2Proof.Machine.execCtxLoad t r s
  | .grantAvailable t src => Sys2Proof.Machine.execGrantAvailable t src s
  | .patchAccept t => Sys2Proof.Machine.execPatchAccept t s
  | .holdLimit t item => Sys2Proof.Machine.execHoldLimit t item s
  | .fabricWordRead t item word res => Sys2Proof.Machine.execFabricWordRead t item word res s
  | .groupWrite t prod reel => Sys2Proof.Machine.execGroupWrite t prod reel s
  | .mergeOpDone t errs => Sys2Proof.Machine.execMergeOpDone t errs s
  | .shelfDef t => Sys2Proof.Machine.execShelfDef t s
  | .shelfDel t => Sys2Proof.Machine.execShelfDel t s
  | .reelDef t => Sys2Proof.Machine.execReelDef t s
  | .reelDel t => Sys2Proof.Machine.execReelDel t s
  | .reelClear t => Sys2Proof.Machine.execReelClear t s
  | .takeStart t => Sys2Proof.Machine.execTakeStart t s
  | .takeStop t => Sys2Proof.Machine.execTakeStop t s
  | .takeRelease t => Sys2Proof.Machine.execTakeRelease t s
  | .takeDelete t => Sys2Proof.Machine.execTakeDelete t s
  | .dirRead t => Sys2Proof.Machine.execDirRead t s
  | .cmdOpReserved t => Sys2Proof.Machine.execCmdOpReserved t s
  | .oflStart t => Sys2Proof.Machine.execOflStart t s
  | .oflAbort t => Sys2Proof.Machine.execOflAbort t s
  | .offloadDone t => Sys2Proof.Machine.execOffloadDone t s
  | .scrubGroupRead t errs both => Sys2Proof.Machine.execScrubGroupRead t errs both s
  | .repairRun t => Sys2Proof.Machine.execRepairRun t s
  | .repairDone t fixed => Sys2Proof.Machine.execRepairDone t fixed s
  | .rateHuntSwitch t l j => Sys2Proof.Machine.execRateHuntSwitch t l j s
  | .blockLock t l j => Sys2Proof.Machine.execBlockLock t l j s
  | .lockLoss t l j => Sys2Proof.Machine.execLockLoss t l j s
  | .lossOfSignal t l j => Sys2Proof.Machine.execLossOfSignal t l j s
  | .signalReturn t l j => Sys2Proof.Machine.execSignalReturn t l j s
  | .lineBlockRx t l j line => Sys2Proof.Machine.execLineBlockRx t l j line s
  | .fillRx t l j scr n => Sys2Proof.Machine.execFillRx t l j scr n s
  | .helloTx t l j => Sys2Proof.Machine.execHelloTx t l j s
  | .helloRx t l j h => Sys2Proof.Machine.execHelloRx t l j h s
  | .revSwitch t l j => Sys2Proof.Machine.execRevSwitch t l j s
  | .helloTimeout t l j => Sys2Proof.Machine.execHelloTimeout t l j s
  | .trainRx t l j m => Sys2Proof.Machine.execTrainRx t l j m s
  | .rxReady t l j => Sys2Proof.Machine.execRxReady t l j s
  | .trainTimeout t l j => Sys2Proof.Machine.execTrainTimeout t l j s
  | .compatSweepStep t l j bad margin => Sys2Proof.Machine.execCompatSweepStep t l j bad margin s
  | .alignTx t l => Sys2Proof.Machine.execAlignTx t l s
  | .alignRx t l a b skew => Sys2Proof.Machine.execAlignRx t l a b skew s
  | .backoffDone t l j => Sys2Proof.Machine.execBackoffDone t l j s
  | .frameTx t l => Sys2Proof.Machine.execFrameTx t l s
  | .frameRx t l f => Sys2Proof.Machine.execFrameRx t l f s
  | .ackRx t l n => Sys2Proof.Machine.execAckRx t l n s
  | .nakRx t l n => Sys2Proof.Machine.execNakRx t l n s
  | .ackTx t l => Sys2Proof.Machine.execAckTx t l s
  | .replayTimeout t l => Sys2Proof.Machine.execReplayTimeout t l s
  | .heartTx t l => Sys2Proof.Machine.execHeartTx t l s
  | .heartRx t l h => Sys2Proof.Machine.execHeartRx t l h s
  | .silent t l => Sys2Proof.Machine.execSilent t l s
  | .trigResend t l => Sys2Proof.Machine.execTrigResend t l s
  | .restripeRx t l lanes ack => Sys2Proof.Machine.execRestripeRx t l lanes ack s
  | .laneRejoin t l => Sys2Proof.Machine.execLaneRejoin t l s
  | .portAbort t m => Sys2Proof.Machine.execPortAbort t m s
  | .retrain t l m => Sys2Proof.Machine.execRetrain t l m s
  | .enumRx t l src root hop assign feat => Sys2Proof.Machine.execEnumRx t l src root hop assign feat s
  | .enumReplyRx t l id parent role feat fw rev => Sys2Proof.Machine.execEnumReplyRx t l id parent role feat fw rev s
  | .enumReplyTimeout t => Sys2Proof.Machine.execEnumReplyTimeout t s
  | .enumWaitTimeout t => Sys2Proof.Machine.execEnumWaitTimeout t s
  | .enumStart t => Sys2Proof.Machine.execEnumStart t s
  | .claimRx t l no => Sys2Proof.Machine.execClaimRx t l no s
  | .claimAckRx t l no result held => Sys2Proof.Machine.execClaimAckRx t l no result held s
  | .lostRx t l held => Sys2Proof.Machine.execLostRx t l held s
  | .lostTimeout t => Sys2Proof.Machine.execLostTimeout t s
  | .demoteRx t l no => Sys2Proof.Machine.execDemoteRx t l no s
  | .stbyOkRx t l child grant => Sys2Proof.Machine.execStbyOkRx t l child grant s
  | .horizonRx t l tick claim cnt held => Sys2Proof.Machine.execHorizonRx t l tick claim cnt held s
  | .mergeHorizonAdvance t => Sys2Proof.Machine.execMergeHorizonAdvance t s
  | .mergeGiveUp t l => Sys2Proof.Machine.execMergeGiveUp t l s
  | .heldDelivery t l => Sys2Proof.Machine.execHeldDelivery t l s
  | .confirmTx t l => Sys2Proof.Machine.execConfirmTx t l s
  | .confirmRx t l conf => Sys2Proof.Machine.execConfirmRx t l conf s
  | .topoRx t l child parent no => Sys2Proof.Machine.execTopoRx t l child parent no s
  | .featsetRx t l feat tick => Sys2Proof.Machine.execFeatsetRx t l feat tick s
  | .claimReq t m own => Sys2Proof.Machine.execClaimReq t m own s
  | .roleSwWrite t v => Sys2Proof.Machine.execRoleSwWrite t v s
  | .relayRequestRx t l q => Sys2Proof.Machine.execRelayRequestRx t l q s
  | .relayReplyRx t l p => Sys2Proof.Machine.execRelayReplyRx t l p s
  | .relayTimeout t seq => Sys2Proof.Machine.execRelayTimeout t seq s
  | .ethLinkUp t => Sys2Proof.Machine.execEthLinkUp t s
  | .ethLinkDown t => Sys2Proof.Machine.execEthLinkDown t s
  | .ethFrameRx t f => Sys2Proof.Machine.execEthFrameRx t f s
  | .arpRx t req sip smac tip => Sys2Proof.Machine.execArpRx t req sip smac tip s
  | .arpTimeout t ip => Sys2Proof.Machine.execArpTimeout t ip s
  | .arpRefresh t ip => Sys2Proof.Machine.execArpRefresh t ip s
  | .qpResolveRetry t q => Sys2Proof.Machine.execQpResolveRetry t q s
  | .dhcpRx t m => Sys2Proof.Machine.execDhcpRx t m s
  | .dhcpRenew t => Sys2Proof.Machine.execDhcpRenew t s
  | .dhcpRebind t => Sys2Proof.Machine.execDhcpRebind t s
  | .dhcpLeaseExpire t => Sys2Proof.Machine.execDhcpLeaseExpire t s
  | .icmpEchoRx t src id => Sys2Proof.Machine.execIcmpEchoRx t src id s
  | .pfcFrameRx t en quanta => Sys2Proof.Machine.execPfcFrameRx t en quanta s
  | .pfcPauseEnd t => Sys2Proof.Machine.execPfcPauseEnd t s
  | .roceMessageTx t q => Sys2Proof.Machine.execRoceMessageTx t q s
  | .roceAckRx t q psn => Sys2Proof.Machine.execRoceAckRx t q psn s
  | .roceNakRx t q psn k => Sys2Proof.Machine.execRoceNakRx t q psn k s
  | .ackTmo t q => Sys2Proof.Machine.execAckTmo t q s
  | .rnrWaitEnd t q => Sys2Proof.Machine.execRnrWaitEnd t q s
  | .cnpRx t q => Sys2Proof.Machine.execCnpRx t q s
  | .rateRecovery t q => Sys2Proof.Machine.execRateRecovery t q s
  | .qpCiWrite t q v => Sys2Proof.Machine.execQpCiWrite t q v s
  | .qpAbort t m => Sys2Proof.Machine.execQpAbort t m s
  | .openReq t h level nonce => Sys2Proof.Machine.execOpenReq t h level nonce s
  | .request t h target rest ops => Sys2Proof.Machine.execRequest t h target rest ops s
  | .closeReq t h => Sys2Proof.Machine.execCloseReq t h s
  | .sessionIdle t n => Sys2Proof.Machine.execSessionIdle t n s
  | .keyWrite t a slot v => Sys2Proof.Machine.execKeyWrite t a slot v s
  | .keyLevelWrite t a slot v => Sys2Proof.Machine.execKeyLevelWrite t a slot v s
  | .keyRevoke t a slot => Sys2Proof.Machine.execKeyRevoke t a slot s
  | .keyClear t a => Sys2Proof.Machine.execKeyClear t a s
  | .provisionEnChange t level => Sys2Proof.Machine.execProvisionEnChange t level s
  | .fwBegin t own => Sys2Proof.Machine.execFwBegin t own s
  | .fwEraseDone t flashErr => Sys2Proof.Machine.execFwEraseDone t flashErr s
  | .fwVerify t own => Sys2Proof.Machine.execFwVerify t own s
  | .fwVerifyDone t flashErr => Sys2Proof.Machine.execFwVerifyDone t flashErr s
  | .fwAbort t own => Sys2Proof.Machine.execFwAbort t own s
  | .hkaScan t v => Sys2Proof.Machine.execHkaScan t v s
  | .rtdReversal t => Sys2Proof.Machine.execRtdReversal t s
  | .rtdPeriodEnd t => Sys2Proof.Machine.execRtdPeriodEnd t s
  | .rtdMonitor t dev => Sys2Proof.Machine.execRtdMonitor t dev s
  | .calReq t => Sys2Proof.Machine.execCalReq t s
  | .hkaCalPeriodic t => Sys2Proof.Machine.execHkaCalPeriodic t s
  | .hkaCalDone t f => Sys2Proof.Machine.execHkaCalDone t f s
  | .injReq t => Sys2Proof.Machine.execInjReq t s
  | .hkaInjDone t x => Sys2Proof.Machine.execHkaInjDone t x s
  | .tecPeriodStart t => Sys2Proof.Machine.execTecPeriodStart t s
  | .faultTake t => Sys2Proof.Machine.execFaultTake t s
  | .shadowExpiry t => Sys2Proof.Machine.execShadowExpiry t s
  | .ackReal t m => Sys2Proof.Machine.execAckReal t m s
  | .ackInj t m => Sys2Proof.Machine.execAckInj t m s
  | .clrReal t m own => Sys2Proof.Machine.execClrReal t m own s
  | .clrInj t m own => Sys2Proof.Machine.execClrInj t m own s
  | .injGo t => Sys2Proof.Machine.execInjGo t s
  | .voterMismatch t o => Sys2Proof.Machine.execVoterMismatch t o s
  | .resyncDone t m => Sys2Proof.Machine.execResyncDone t m s
  | .coreRestartDone t => Sys2Proof.Machine.execCoreRestartDone t s
  | .rstModule t own jtag => Sys2Proof.Machine.execRstModule t own jtag s
  | .blkRst t m own => Sys2Proof.Machine.execBlkRst t m own s
  | .blockResetRelease t b strapRole strapPos => Sys2Proof.Machine.execBlockResetRelease t b strapRole strapPos s
  | .fwActivate t own => Sys2Proof.Machine.execFwActivate t own s
  | .fwConfirm t own => Sys2Proof.Machine.execFwConfirm t own s
  | .confirmTmo t => Sys2Proof.Machine.execConfirmTmo t s
  | .registerWrite t a addr v => Sys2Proof.Machine.execRegisterWrite t a addr v s
  | .multiwordCapture t a addr => Sys2Proof.Machine.execMultiwordCapture t a addr s
  | .multiwordCommit t a addr v => Sys2Proof.Machine.execMultiwordCommit t a addr v s
  | .revert t a blk page => Sys2Proof.Machine.execRevert t a blk page s
  | .privMaskWrite t a blk page v => Sys2Proof.Machine.execPrivMaskWrite t a blk page v s
  | .refInResume t => Sys2Proof.Machine.execRefInResume t s
  | .locCoincExpiry t inp => Sys2Proof.Machine.execLocCoincExpiry t inp s
  | .relockTimeout t l j => Sys2Proof.Machine.execRelockTimeout t l j s
  | .sramScrub t hits => Sys2Proof.Machine.execSramScrub t hits s
  | .resetReleaseHigh t rstN => Sys2Proof.Machine.execResetReleaseHigh t rstN s

end Sys2Proof.Machine
end

