-- ==== Sys2Proof/WellFormed.lean ====
section
/-! DEFINITION. Which commands name something that can happen: the bounds of the lists they carry. -/

namespace Sys2Proof

/-- The bounds of a relay operation: at most 64 words are read or written (R259). -/
def RelayOp.wf : RelayOp → Bool
  | .read _ _ n => decide (n ≤ 64)
  | .write _ _ ws => decide (ws.length ≤ 64)
  | .commit _ => true
  | .admitted _ => true
  | .ticks _ _ _ _ _ => true
  | .fixLat _ => true

/-- A command whose lists its rule can give: a line block has 130 bits and at most four stuffed ones (R212, R214), a frame's data
whole blocks of 16 bytes (R227), a HORIZON at most 16 held packets (R249), a relay request at most 64 words (R259). -/
def Instr.wf : Instr → Bool
  | .powerOn _ => true
  | .vinUndervoltage _ => true
  | .pwrEnLow _ => true
  | .resetNLow _ => true
  | .startComplete _ _ => true
  | .railRetry _ => true
  | .pwrCmdReady _ => true
  | .pwrCmdStandby _ => true
  | .pwrCmdAcquireEnable _ => true
  | .pwrCmdSafe _ _ => true
  | .standbyEntry _ => true
  | .standbyExit _ => true
  | .acquireToReady _ => true
  | .safeExit _ => true
  | .tickBoundary _ => true
  | .pacingInstant _ => true
  | .tickScheduleStart _ => true
  | .commit _ => true
  | .commitBoundary _ => true
  | .regionDrainDone _ _ => true
  | .regionAbort _ _ => true
  | .biasEnSet _ _ => true
  | .biasEnClear _ _ => true
  | .biasRampDone _ _ => true
  | .regionOvercurrent _ _ => true
  | .railOvercurrent _ => true
  | .pixelEdge _ _ _ _ _ => true
  | .pixelHoldoffEnd _ _ _ _ => true
  | .captureWindowClose _ _ _ => true
  | .feAbort _ _ => true
  | .maskDataWrite _ _ _ => true
  | .maskDataRead _ _ => true
  | .maskSave _ => true
  | .maskSaveDone _ => true
  | .hotClr _ _ => true
  | .frameTransferDone _ _ => true
  | .injectedPulse _ _ => true
  | .clusterReadoutVisit _ _ => true
  | .tdcDrainDone _ _ => true
  | .tdcAbort _ _ => true
  | .calBatchClose _ _ => true
  | .calBatchTimeout _ _ _ => true
  | .calReset _ _ => true
  | .calLoad _ _ => true
  | .tdcOffAccess _ _ _ => true
  | .auxEdge _ _ _ _ _ => true
  | .auxInstanceSwap _ _ => true
  | .phaseMonitor _ _ _ => true
  | .refLoss _ => true
  | .refWindow _ _ => true
  | .ppsTimeout _ => true
  | .extPhaseUpdate _ _ => true
  | .srcRevertTimer _ => true
  | .holdoverWarn _ => true
  | .clapperTx _ _ => true
  | .clapperRx _ _ _ _ => true
  | .clapTimeout _ _ => true
  | .ptpAnnounceRx _ _ _ => true
  | .ptpSyncRx _ _ _ => true
  | .ptpFollowUpRx _ _ _ => true
  | .ptpDelayReqTx _ => true
  | .ptpDelayRespRx _ _ _ => true
  | .ptpAnnounceTimeout _ => true
  | .ptpSyncTimeout _ => true
  | .stepCmd _ _ => true
  | .timeSetWrite _ _ => true
  | .snapReq _ => true
  | .timeNowRead _ => true
  | .freqWordWrite _ _ => true
  | .ppsOutPulse _ => true
  | .gateOpen _ _ => true
  | .gateClose _ _ => true
  | .eventWordRelease _ _ => true
  | .tickClose _ _ => true
  | .histoDumpDone _ _ => true
  | .frameHeadEmit _ _ => true
  | .softReq _ => true
  | .mark _ => true
  | .rateEval _ => true
  | .requestMergeEnd _ => true
  | .treqRx _ _ _ _ _ _ _ => true
  | .decisionWindowEnd _ => true
  | .tdecRx _ _ _ _ _ _ => true
  | .triggerAction _ => true
  | .trigOutPulseStart _ _ => true
  | .trigOutPulseEnd _ _ => true
  | .windowClose _ _ => true
  | .chunkComplete _ _ _ => true
  | .dynTableReady _ _ _ => true
  | .stallLimit _ _ => true
  | .cmpAbort _ _ => true
  | .ctxDataRead _ _ => true
  | .ctxDataWrite _ _ _ => true
  | .ctxLoad _ _ => true
  | .grantAvailable _ _ => true
  | .patchAccept _ => true
  | .holdLimit _ _ => true
  | .fabricWordRead _ _ _ _ => true
  | .groupWrite _ _ _ => true
  | .mergeOpDone _ _ => true
  | .shelfDef _ => true
  | .shelfDel _ => true
  | .reelDef _ => true
  | .reelDel _ => true
  | .reelClear _ => true
  | .takeStart _ => true
  | .takeStop _ => true
  | .takeRelease _ => true
  | .takeDelete _ => true
  | .dirRead _ => true
  | .cmdOpReserved _ => true
  | .oflStart _ => true
  | .oflAbort _ => true
  | .offloadDone _ => true
  | .scrubGroupRead _ _ _ => true
  | .repairRun _ => true
  | .repairDone _ _ => true
  | .rateHuntSwitch _ _ _ => true
  | .blockLock _ _ _ => true
  | .lockLoss _ _ _ => true
  | .lossOfSignal _ _ _ => true
  | .signalReturn _ _ _ => true
  | .lineBlockRx _ _ _ line => decide (130 ≤ line.length ∧ line.length ≤ 134)
  | .fillRx _ _ _ _ _ => true
  | .helloTx _ _ _ => true
  | .helloRx _ _ _ _ => true
  | .revSwitch _ _ _ => true
  | .helloTimeout _ _ _ => true
  | .trainRx _ _ _ _ => true
  | .rxReady _ _ _ => true
  | .trainTimeout _ _ _ => true
  | .compatSweepStep _ _ _ _ _ => true
  | .alignTx _ _ => true
  | .alignRx _ _ _ _ _ => true
  | .backoffDone _ _ _ => true
  | .frameTx _ _ => true
  | .frameRx _ _ f => decide (f.data.length % 16 = 0)
  | .ackRx _ _ _ => true
  | .nakRx _ _ _ => true
  | .ackTx _ _ => true
  | .replayTimeout _ _ => true
  | .heartTx _ _ => true
  | .heartRx _ _ _ => true
  | .silent _ _ => true
  | .trigResend _ _ => true
  | .restripeRx _ _ _ _ => true
  | .laneRejoin _ _ => true
  | .portAbort _ _ => true
  | .retrain _ _ _ => true
  | .enumRx _ _ _ _ _ _ _ => true
  | .enumReplyRx _ _ _ _ _ _ _ _ => true
  | .enumReplyTimeout _ => true
  | .enumWaitTimeout _ => true
  | .enumStart _ => true
  | .claimRx _ _ _ => true
  | .claimAckRx _ _ _ _ _ => true
  | .lostRx _ _ _ => true
  | .lostTimeout _ => true
  | .demoteRx _ _ _ => true
  | .stbyOkRx _ _ _ _ => true
  | .horizonRx _ _ _ _ _ held => decide (held.length ≤ 16)
  | .mergeHorizonAdvance _ => true
  | .mergeGiveUp _ _ => true
  | .heldDelivery _ _ => true
  | .confirmTx _ _ => true
  | .confirmRx _ _ _ => true
  | .topoRx _ _ _ _ _ => true
  | .featsetRx _ _ _ _ => true
  | .claimReq _ _ _ => true
  | .roleSwWrite _ _ => true
  | .relayRequestRx _ _ q => q.op.wf
  | .relayReplyRx _ _ _ => true
  | .relayTimeout _ _ => true
  | .ethLinkUp _ => true
  | .ethLinkDown _ => true
  | .ethFrameRx _ _ => true
  | .arpRx _ _ _ _ _ => true
  | .arpTimeout _ _ => true
  | .arpRefresh _ _ => true
  | .qpResolveRetry _ _ => true
  | .dhcpRx _ _ => true
  | .dhcpRenew _ => true
  | .dhcpRebind _ => true
  | .dhcpLeaseExpire _ => true
  | .icmpEchoRx _ _ _ => true
  | .pfcFrameRx _ _ _ => true
  | .pfcPauseEnd _ => true
  | .roceMessageTx _ _ => true
  | .roceAckRx _ _ _ => true
  | .roceNakRx _ _ _ _ => true
  | .ackTmo _ _ => true
  | .rnrWaitEnd _ _ => true
  | .cnpRx _ _ => true
  | .rateRecovery _ _ => true
  | .qpCiWrite _ _ _ => true
  | .qpAbort _ _ => true
  | .openReq _ _ _ _ => true
  | .request _ _ _ _ _ => true
  | .closeReq _ _ => true
  | .sessionIdle _ _ => true
  | .keyWrite _ _ _ _ => true
  | .keyLevelWrite _ _ _ _ => true
  | .keyRevoke _ _ _ => true
  | .keyClear _ _ => true
  | .provisionEnChange _ _ => true
  | .fwBegin _ _ => true
  | .fwEraseDone _ _ => true
  | .fwVerify _ _ => true
  | .fwVerifyDone _ _ => true
  | .fwAbort _ _ => true
  | .hkaScan _ _ => true
  | .rtdReversal _ => true
  | .rtdPeriodEnd _ => true
  | .rtdMonitor _ _ => true
  | .calReq _ => true
  | .hkaCalPeriodic _ => true
  | .hkaCalDone _ _ => true
  | .injReq _ => true
  | .hkaInjDone _ _ => true
  | .tecPeriodStart _ => true
  | .faultTake _ => true
  | .shadowExpiry _ => true
  | .ackReal _ _ => true
  | .ackInj _ _ => true
  | .clrReal _ _ _ => true
  | .clrInj _ _ _ => true
  | .injGo _ => true
  | .voterMismatch _ _ => true
  | .resyncDone _ _ => true
  | .coreRestartDone _ => true
  | .rstModule _ _ _ => true
  | .blkRst _ _ _ => true
  | .blockResetRelease _ _ _ _ => true
  | .fwActivate _ _ => true
  | .fwConfirm _ _ => true
  | .confirmTmo _ => true
  | .registerWrite _ _ _ _ => true
  | .multiwordCapture _ _ _ => true
  | .multiwordCommit _ _ _ _ => true
  | .revert _ _ _ _ => true
  | .privMaskWrite _ _ _ _ _ => true
  | .refInResume _ => true
  | .locCoincExpiry _ _ => true
  | .relockTimeout _ _ _ => true
  | .sramScrub _ _ => true
  | .resetReleaseHigh _ _ => true

/-- The instant of a command. -/
def Instr.time : Instr → Nat
  | .powerOn t => t
  | .vinUndervoltage t => t
  | .pwrEnLow t => t
  | .resetNLow t => t
  | .startComplete t _ => t
  | .railRetry t => t
  | .pwrCmdReady t => t
  | .pwrCmdStandby t => t
  | .pwrCmdAcquireEnable t => t
  | .pwrCmdSafe t _ => t
  | .standbyEntry t => t
  | .standbyExit t => t
  | .acquireToReady t => t
  | .safeExit t => t
  | .tickBoundary t => t
  | .pacingInstant t => t
  | .tickScheduleStart t => t
  | .commit t => t
  | .commitBoundary t => t
  | .regionDrainDone t _ => t
  | .regionAbort t _ => t
  | .biasEnSet t _ => t
  | .biasEnClear t _ => t
  | .biasRampDone t _ => t
  | .regionOvercurrent t _ => t
  | .railOvercurrent t => t
  | .pixelEdge t _ _ _ _ => t
  | .pixelHoldoffEnd t _ _ _ => t
  | .captureWindowClose t _ _ => t
  | .feAbort t _ => t
  | .maskDataWrite t _ _ => t
  | .maskDataRead t _ => t
  | .maskSave t => t
  | .maskSaveDone t => t
  | .hotClr t _ => t
  | .frameTransferDone t _ => t
  | .injectedPulse t _ => t
  | .clusterReadoutVisit t _ => t
  | .tdcDrainDone t _ => t
  | .tdcAbort t _ => t
  | .calBatchClose t _ => t
  | .calBatchTimeout t _ _ => t
  | .calReset t _ => t
  | .calLoad t _ => t
  | .tdcOffAccess t _ _ => t
  | .auxEdge t _ _ _ _ => t
  | .auxInstanceSwap t _ => t
  | .phaseMonitor t _ _ => t
  | .refLoss t => t
  | .refWindow t _ => t
  | .ppsTimeout t => t
  | .extPhaseUpdate t _ => t
  | .srcRevertTimer t => t
  | .holdoverWarn t => t
  | .clapperTx t _ => t
  | .clapperRx t _ _ _ => t
  | .clapTimeout t _ => t
  | .ptpAnnounceRx t _ _ => t
  | .ptpSyncRx t _ _ => t
  | .ptpFollowUpRx t _ _ => t
  | .ptpDelayReqTx t => t
  | .ptpDelayRespRx t _ _ => t
  | .ptpAnnounceTimeout t => t
  | .ptpSyncTimeout t => t
  | .stepCmd t _ => t
  | .timeSetWrite t _ => t
  | .snapReq t => t
  | .timeNowRead t => t
  | .freqWordWrite t _ => t
  | .ppsOutPulse t => t
  | .gateOpen t _ => t
  | .gateClose t _ => t
  | .eventWordRelease t _ => t
  | .tickClose t _ => t
  | .histoDumpDone t _ => t
  | .frameHeadEmit t _ => t
  | .softReq t => t
  | .mark t => t
  | .rateEval t => t
  | .requestMergeEnd t => t
  | .treqRx t _ _ _ _ _ _ => t
  | .decisionWindowEnd t => t
  | .tdecRx t _ _ _ _ _ => t
  | .triggerAction t => t
  | .trigOutPulseStart t _ => t
  | .trigOutPulseEnd t _ => t
  | .windowClose t _ => t
  | .chunkComplete t _ _ => t
  | .dynTableReady t _ _ => t
  | .stallLimit t _ => t
  | .cmpAbort t _ => t
  | .ctxDataRead t _ => t
  | .ctxDataWrite t _ _ => t
  | .ctxLoad t _ => t
  | .grantAvailable t _ => t
  | .patchAccept t => t
  | .holdLimit t _ => t
  | .fabricWordRead t _ _ _ => t
  | .groupWrite t _ _ => t
  | .mergeOpDone t _ => t
  | .shelfDef t => t
  | .shelfDel t => t
  | .reelDef t => t
  | .reelDel t => t
  | .reelClear t => t
  | .takeStart t => t
  | .takeStop t => t
  | .takeRelease t => t
  | .takeDelete t => t
  | .dirRead t => t
  | .cmdOpReserved t => t
  | .oflStart t => t
  | .oflAbort t => t
  | .offloadDone t => t
  | .scrubGroupRead t _ _ => t
  | .repairRun t => t
  | .repairDone t _ => t
  | .rateHuntSwitch t _ _ => t
  | .blockLock t _ _ => t
  | .lockLoss t _ _ => t
  | .lossOfSignal t _ _ => t
  | .signalReturn t _ _ => t
  | .lineBlockRx t _ _ _ => t
  | .fillRx t _ _ _ _ => t
  | .helloTx t _ _ => t
  | .helloRx t _ _ _ => t
  | .revSwitch t _ _ => t
  | .helloTimeout t _ _ => t
  | .trainRx t _ _ _ => t
  | .rxReady t _ _ => t
  | .trainTimeout t _ _ => t
  | .compatSweepStep t _ _ _ _ => t
  | .alignTx t _ => t
  | .alignRx t _ _ _ _ => t
  | .backoffDone t _ _ => t
  | .frameTx t _ => t
  | .frameRx t _ _ => t
  | .ackRx t _ _ => t
  | .nakRx t _ _ => t
  | .ackTx t _ => t
  | .replayTimeout t _ => t
  | .heartTx t _ => t
  | .heartRx t _ _ => t
  | .silent t _ => t
  | .trigResend t _ => t
  | .restripeRx t _ _ _ => t
  | .laneRejoin t _ => t
  | .portAbort t _ => t
  | .retrain t _ _ => t
  | .enumRx t _ _ _ _ _ _ => t
  | .enumReplyRx t _ _ _ _ _ _ _ => t
  | .enumReplyTimeout t => t
  | .enumWaitTimeout t => t
  | .enumStart t => t
  | .claimRx t _ _ => t
  | .claimAckRx t _ _ _ _ => t
  | .lostRx t _ _ => t
  | .lostTimeout t => t
  | .demoteRx t _ _ => t
  | .stbyOkRx t _ _ _ => t
  | .horizonRx t _ _ _ _ _ => t
  | .mergeHorizonAdvance t => t
  | .mergeGiveUp t _ => t
  | .heldDelivery t _ => t
  | .confirmTx t _ => t
  | .confirmRx t _ _ => t
  | .topoRx t _ _ _ _ => t
  | .featsetRx t _ _ _ => t
  | .claimReq t _ _ => t
  | .roleSwWrite t _ => t
  | .relayRequestRx t _ _ => t
  | .relayReplyRx t _ _ => t
  | .relayTimeout t _ => t
  | .ethLinkUp t => t
  | .ethLinkDown t => t
  | .ethFrameRx t _ => t
  | .arpRx t _ _ _ _ => t
  | .arpTimeout t _ => t
  | .arpRefresh t _ => t
  | .qpResolveRetry t _ => t
  | .dhcpRx t _ => t
  | .dhcpRenew t => t
  | .dhcpRebind t => t
  | .dhcpLeaseExpire t => t
  | .icmpEchoRx t _ _ => t
  | .pfcFrameRx t _ _ => t
  | .pfcPauseEnd t => t
  | .roceMessageTx t _ => t
  | .roceAckRx t _ _ => t
  | .roceNakRx t _ _ _ => t
  | .ackTmo t _ => t
  | .rnrWaitEnd t _ => t
  | .cnpRx t _ => t
  | .rateRecovery t _ => t
  | .qpCiWrite t _ _ => t
  | .qpAbort t _ => t
  | .openReq t _ _ _ => t
  | .request t _ _ _ _ => t
  | .closeReq t _ => t
  | .sessionIdle t _ => t
  | .keyWrite t _ _ _ => t
  | .keyLevelWrite t _ _ _ => t
  | .keyRevoke t _ _ => t
  | .keyClear t _ => t
  | .provisionEnChange t _ => t
  | .fwBegin t _ => t
  | .fwEraseDone t _ => t
  | .fwVerify t _ => t
  | .fwVerifyDone t _ => t
  | .fwAbort t _ => t
  | .hkaScan t _ => t
  | .rtdReversal t => t
  | .rtdPeriodEnd t => t
  | .rtdMonitor t _ => t
  | .calReq t => t
  | .hkaCalPeriodic t => t
  | .hkaCalDone t _ => t
  | .injReq t => t
  | .hkaInjDone t _ => t
  | .tecPeriodStart t => t
  | .faultTake t => t
  | .shadowExpiry t => t
  | .ackReal t _ => t
  | .ackInj t _ => t
  | .clrReal t _ _ => t
  | .clrInj t _ _ => t
  | .injGo t => t
  | .voterMismatch t _ => t
  | .resyncDone t _ => t
  | .coreRestartDone t => t
  | .rstModule t _ _ => t
  | .blkRst t _ _ => t
  | .blockResetRelease t _ _ _ => t
  | .fwActivate t _ => t
  | .fwConfirm t _ => t
  | .confirmTmo t => t
  | .registerWrite t _ _ _ => t
  | .multiwordCapture t _ _ => t
  | .multiwordCommit t _ _ _ => t
  | .revert t _ _ _ => t
  | .privMaskWrite t _ _ _ _ => t
  | .refInResume t => t
  | .locCoincExpiry t _ => t
  | .relockTimeout t _ _ => t
  | .sramScrub t _ => t
  | .resetReleaseHigh t _ => t

end Sys2Proof
end

