-- ==== Sys2Proof/Safety.lean ====
section
/-! DEFINITION. What counts as a safe run, in the words the statements use: which commands a state takes, what a command brings
about, and the forms every state keeps. -/

namespace Sys2Proof.Safety

open Sys2Proof Sys2Proof.Machine

/-- What flash holds once a start that its rails have ended is counted (R339). -/
def startCounted (s : State) : Flash :=
  if s.countDue then { s.flash with starts := s.flash.starts + 1, seq := s.flash.seq + 1, other := s.flash.boot } else s.flash

/-- State s takes command c: it is well formed, and a line block destuffs to the 130 bits of a block (R212, R214). -/
def takes (c : Instr) (s : State) : Bool :=
  c.wf && (match c with
    | .lineBlockRx _ l j line => decide ((destuff ((s.lane l j).runBit, (s.lane l j).runLen) line).1.length = 130)
    | _ => true)

/-- Command c runs in state s and leaves a state of which P holds. -/
def Brings (c : Instr) (s : State) (P : State → Prop) : Prop := ∃ u, exec c s = .next u ∧ P u

/-- Register field f of every instance i for which p does not hold reads as before, in force and in the shadow. -/
def KeepsReg (s u : State) (p : Fld → Nat → Bool) : Prop :=
  ∀ f i, p f i = false → u.rd f i = s.rd f i ∧ u.rdSh f i = s.rdSh f i

/-- The parts of the state beside the registers: of each block what it keeps, the event records, the faults that wait for FLT, a
configuration that waits for its boundary, the blocks in reset, the power state, the free values' counter, what a read returned,
and what was sent. mem is the bytes of the record store alone. -/
inductive Part where
  | pmr | flash | sns | pfe | tdc | tbs | seq | evb | hst | accum | cmp | que | cab | mem | edc
  | trg | lnk | tre | hka | flt | eth | ctl | detected | staged | held | pwr | free | lastRead | out | events
  deriving DecidableEq, Repr

/-- Part x of state u is that of state s. -/
def SamePart (s u : State) : Part → Prop
  | .pmr => u.pmr = s.pmr
  | .flash => u.flash = s.flash
  | .sns => u.sns = s.sns
  | .pfe => u.pfe = s.pfe
  | .tdc => u.tdc = s.tdc
  | .tbs => u.tbs = s.tbs
  | .seq => u.seq = s.seq
  | .evb => u.evb = s.evb
  | .hst => u.hst = s.hst
  | .accum => u.accum = s.accum
  | .cmp => u.cmp = s.cmp
  | .que => u.que = s.que
  | .cab => { u.cab with mem := s.cab.mem } = s.cab
  | .mem => u.cab.mem = s.cab.mem
  | .edc => u.edc = s.edc
  | .trg => u.trg = s.trg
  | .lnk => u.lnk = s.lnk
  | .tre => u.tre = s.tre
  | .hka => u.hka = s.hka
  | .flt => u.flt = s.flt
  | .eth => u.eth = s.eth
  | .ctl => u.ctl = s.ctl
  | .detected => u.detected = s.detected
  | .staged => u.staged = s.staged
  | .held => u.held = s.held
  | .pwr => u.pwr = s.pwr
  | .free => u.free = s.free
  | .lastRead => u.lastRead = s.lastRead
  | .out => u.out = s.out
  | .events => u.evq = s.evq ∧ u.evUp = s.evUp ∧ u.evSeq = s.evSeq ∧ u.evLost = s.evLost

/-- From s to u nothing changes but the parts ps and the register fields p holds of: no other register, in force or in the shadow,
no other part, and not the queue of waiting commands. -/
def Frame (s u : State) (ps : List Part) (p : Fld → Nat → Bool) : Prop :=
  KeepsReg s u p ∧ (∀ x, x ∉ ps → SamePart s u x) ∧ u.pending = s.pending

/-- Command c runs in state s, and changes the parts ps and the register fields p holds of, and nothing else. -/
def Leaves (c : Instr) (s : State) (ps : List Part) (p : Fld → Nat → Bool) : Prop := Brings c s (fun u => Frame s u ps p)

/-- The instances of fields in ones, and every instance of the fields in any. -/
def just (ones : List (Fld × Nat)) (any : List Fld) : Fld → Nat → Bool := fun f i => ones.contains (f, i) || any.contains f

/-- The fields of the blocks bs that are not RWC and not of a page header, and the fields in more. -/
def within (bs : List Blk) (more : List Fld) : Fld → Nat → Bool :=
  fun f _ => more.contains f || (bs.contains f.desc.blk && f.desc.acc != .rwc && !f.isHdr)

/-- The RWC fields, and those of within. -/
def withinForce (bs : List Blk) (more : List Fld) : Fld → Nat → Bool := fun f i => f.desc.acc == .rwc || within bs more f i

/-- What an engine reports of the packets and stalls of its region (chapter 7). -/
def engineRegs : List Fld :=
  [.cmpr_ACT_KIND, .cmpr_CMP_FINAL, .cmpr_IN_BYTES, .cmpr_OUT_BYTES, .cmpr_PKT_CNT, .cmpr_PREEMPT_CNT, .cmpr_STALLED,
   .cmpr_STALL_TIME, .cmpr_STORED_CHUNKS, .cmpr_TRUNC_CNT, .cmpr_TRUNC_ELEMS, .cmpr_TRUNC_SEEN]

/-- The same of region r. -/
def engineOf (r : Fin 16) : List (Fld × Nat) := engineRegs.map (fun f => (f, r.val))

/-- What the fabric, its record consumers and the writer report of the items they hold (chapters 8 and 9). -/
def fabricRegs : List Fld :=
  [.cab_REC_DISC, .eth_NO_QP, .eth_QP_HELD, .que_HELD_CNT, .que_PATCH_FULL, .que_PATCH_USED, .que_SHARED_PEAK,
   .que_SHARED_USED]

/-- What a link lost changes in LNK, in its time role and in its tree role (chapters 4, 10 and 11). -/
def lossRegs : List Fld :=
  [.lnk_DEGRADED, .lnk_L0_STATE, .lnk_L1_STATE, .lnk_LANES_UP, .lnk_PORT_UP, .tbs_CLAP_QUAL, .tbs_CLAP_VALID, .tbs_FREQ_CLAMP,
   .tbs_FREQ_WORD, .tbs_HOLDOVER, .tbs_LOCKED, .tbs_SRC_ACT, .tbs_SRC_SWITCHES, .tre_FAILOVERS, .tre_LINK_ROLE, .tre_STBY_OK,
   .tre_TOPO_FAULT]

/-- What a change of the time source changes (R81, R86). -/
def sourceRegs : List Fld :=
  [.tbs_FREQ_CLAMP, .tbs_FREQ_WORD, .tbs_HOLDOVER, .tbs_LOCKED, .tbs_SRC_ACT, .tbs_SRC_SWITCHES]

/-- What a line read from the store that needs correction changes (R201 to R204). -/
def storeRegs : List Fld :=
  [.edc_HARD_LINES, .edc_LOG_HEAD, .edc_PATCH_LOST, .edc_POISONED, .edc_POOL_EXH, .edc_POOL_LOW, .edc_SPANS_MAPPED,
   .edc_SPARE_FREE, .edc_STORE_CORR, .edc_STORE_UNCORR, .edc_TRACK_OVF, .edc_WB_SKIP]

/-- The RWC fields a commit may leave at a value of the module's own: the tick parameters, and what it has cleared (R10, R20, R261, R356). -/
def ownForced : List Fld :=
  [.seq_TICK_NUM, .seq_TICK_DEN, .seq_TICK_EPOCH, .seq_TICK_BASE, .seq_REGION_MODE, .pfer_INJ_EN, .evb_ZS_EN]

/-- The registers of the sessions (R287). -/
def sessRegs : List Fld :=
  [.ctl_SESS_OPEN, .ctl_SESS_SLOT, .ctl_SESS_LEVEL, .ctl_SESS_IP, .ctl_SESS_PORT, .ctl_SESS_SALT]

/-- The header fields of page p that a write of it changes (table Pages-2). -/
def counted (p : Nat) : List (Fld × Nat) := [(.hdr_WR_COUNT, p), (.hdr_LAST_SRC, p), (.hdr_LAST_LVL, p), (.hdr_SHADOW_DIRTY, p)]

/-- What the front end, the converters, the histograms, the accumulators and the engines keep of every region but r is as it was. -/
def Apart (r : Fin 16) (s u : State) : Prop :=
  ∀ q : Fin 16, q ≠ r → u.pfeR q = s.pfeR q ∧ u.tdcR q = s.tdcR q ∧ u.hstR q = s.hstR q ∧ u.accR q = s.accR q ∧ u.cmpR q = s.cmpR q

/-- Leaves, and of the regions r alone. -/
def LeavesIn (r : Fin 16) (c : Instr) (s : State) (ps : List Part) (p : Fld → Nat → Bool) : Prop :=
  Brings c s (fun u => Frame s u ps p ∧ Apart r s u)

/-- A fault of class cls and level lvl at the unit waits for FLT in state u (R315). -/
def Raised (u : State) (cls lvl unit : Nat) : Prop := ∃ d ∈ u.detected, d.cls = cls ∧ d.lvl = lvl ∧ d.unit = unit

/-- Accessor a reaches page p, and nothing waits for the end of a message (R354, R360, R377). -/
def Reaches (s : State) (a : Accessor) (p : Nat) : Prop :=
  s.mayAccess (Accessor.eff a) = true ∧ s.pageAlive p = true ∧ s.pmr.warm = none ∧ s.ctl.closing = 0

/-- A write of any level to field f changes the field alone: an RO field not at all, an RW field at once, an RWC field in its shadow,
a W1C field where the value has a 1 (R6, R7, R356, R359). -/
def plain (s : State) (f : Fld) : Bool :=
  !f.desc.own && f.desc.resv.isEmpty && (match f.desc.acc with
    | .ro | .w1c => true
    | .rw => !([Fld.sns_BIAS_EN, .tdcr_BIN_DATA, .cmpr_CTX_DATA, .tbs_FREQ_WORD, .tbs_TIME_SET, .tre_ROLE_SW, .eth_QP_CI,
        .ctl_KEY_LEVEL, .hdr_RD_MASK, .hdr_WR_MASK].contains f)
    | .rwc => f != .pfer_MASK_DATA && f != .tdcr_TDC_OFF && (!rootOnly f || s.isRoot)
    | _ => false)

/-- What such a write of v leaves in instance i of field f of state u. -/
def Written (s u : State) (f : Fld) (i v : Nat) : Prop :=
  match f.desc.acc with
  | .rw => u.rd f i = v
  | .rwc => u.rdSh f i = v ∧ u.rd f i = s.rd f i ∧ u.flag .hdr_SHADOW_DIRTY (f.pageOf i) = true
  | .w1c => u.rd f i = s.rd f i - (s.rd f i &&& v)
  | _ => True

/-- The value instance i of field f takes from the word or words w that begin at offset o. -/
def fieldOf (f : Fld) (i w o : Nat) : Nat := f.cut (w >>> (8 * (f.offOf i - o) + f.loOf i))

/-- The form of a map of register values: keys strictly rising, no entry equal to the reset entry an unlisted register reads as,
and no value with a bit its field does not have. -/
def MapOk (m : Sp) : Prop :=
  spSorted m = true ∧ ∀ (f : Fld) (i v : Nat), (f.key i, v) ∈ m → v ≠ f.resetVal i ∧ f.cut v = v

/-- The registers keep that form: those that are not RWC, the RWC fields in force, their shadows, and a configuration that waits
for its boundary. -/
def RegOk (s : State) : Prop :=
  MapOk s.reg ∧ MapOk s.force ∧ MapOk s.shadow ∧ ∀ g, s.staged = some g → MapOk g.regs

/-! ### The loops of R10 and R151, and R147's prediction, as the rules write them -/

/-- The prediction of element i of a packet of values vals in rows of w, by LEFT or by MED (R147). -/
def framePred (w : Nat) (left : Bool) (vals : List Nat) (i : Nat) : Int :=
  let a : Int := vals.getD (i - 1) 0
  let b : Int := vals.getD (i - w) 0
  let c : Int := vals.getD (i - w - 1) 0
  if i = 0 then 0
  else if i < w then a
  else if i % w = 0 then b
  else if left then a
  else if max a b ≤ c then min a b
  else if c ≤ min a b then max a b
  else a + b - c

/-- One turn of R10's loop on acc_fu and acc_rem. -/
def placeTurn (den q r : Nat) (x : Nat × Nat) : Nat × Nat :=
  if den ≤ x.2 + r then (x.1 + q + 1, x.2 + r - den) else (x.1 + q, x.2 + r)

/-- acc_fu and acc_rem at the n-th tick behind TICK_EPOCH. -/
def placeAt (num den n : Nat) : Nat × Nat :=
  (List.range n).foldl (fun x _ => placeTurn den (num * 160000000000 / den) (num * 160000000000 % den) x) (0, 0)

/-- placed_fu of R10. -/
def placedFu (den : Nat) (x : Nat × Nat) : Nat := if den ≤ 2 * x.2 then x.1 + 1 else x.1

/-- The symbols and codes R151's loop assigns, in its order, and the next code. -/
def canonLoop (t : CodeTab) : Nat × List (Nat × Nat) :=
  (List.range 15).foldl (fun x n =>
    let y := ((List.range 40).filter (fun k => lenOf t k == n + 1)).foldl (fun z k => (z.1 + 1, z.2 ++ [(k, z.1)])) x
    (2 * y.1, y.2)) (0, [])

/-- The code of symbol k as a bit string, most significant bit first (R151). -/
def codeBits (t : CodeTab) (k : Nat) : List Bool := msbBits (lenOf t k) (codeOf t k)

end Sys2Proof.Safety
end

