-- ==== Sys2Proof/Certificates/Slice0/Obligations.lean ====
section
/-! DEFINITION. The statements for the provers, from the numbered rules of the spec. -/

open Sys2Proof Sys2Proof.Machine Sys2Proof.Safety

/-- For every command c and every state: one step with c at the front of the queue is exec of c on the state in which the
rest of the queue waits (the block's queue is the model's own, log entry 1). -/
def Obligations.StepRunsFront : Prop :=
  ∀ (c : Instr) (l : List Instr) (s : State), step { s with pending := c :: l } = exec c { s with pending := l }

/-- With an empty queue a step leaves the state as it is (the model's own choice, log entry 2). -/
def Obligations.EmptyQueueIdles : Prop := ∀ s : State, s.pending = [] → step s = .next s

/-- State.reset meets RegOk: the maps of register values, in force and in the shadow, are sorted by key and list no value
equal to the reset value nor wider than its field. -/
def Obligations.ResetRegistersMeetForm : Prop := RegOk State.reset

/-- From every state that meets RegOk, whatever command is at the front of the queue: the state after the step meets RegOk.
No command leaves a register with a bit its field does not have, in force, in the shadow or in a configuration that waits for
its boundary. -/
def Obligations.StepKeepsRegisterForm : Prop := ∀ s u : State, RegOk s → step s = .next u → RegOk u

/-- A command that the state takes (well formed, and a line block that destuffs to the 130 bits of a block) answers a next
state, never a fault or a refusal. -/
def Obligations.TakenCommandsComplete : Prop := ∀ (c : Instr) (s : State), takes c s = true → ∃ u, exec c s = .next u

/-- R17, R22, R339, R340, R377: what the commands of the supply, the reset contacts and the start bring about. -/
def Obligations.PowerUpCommandsComplete : Prop :=
  ∀ (s : State) (t : Nat),
    (s.pwr = .off → s.pmr.pwrEn = true → s.pmr.resetN = true → Brings (.powerOn t) s (fun u => u.pwr = .start ∧
        u.pmr.vin = true ∧ u.pmr.startAt = (s.at t).clock ∧ u.pmr.upFrom = (s.at t).clock + 20 * msFu ∧
        ∀ b : Blk, bit u.held b.idx = (b != .pmr && b != .flt))) ∧
    Brings (.vinUndervoltage t) s (fun u => u.pwr = .off ∧ u.pmr.vin = false ∧ u.pmr.cause = 0 ∧
        u.flash = startCounted (s.at t) ∧ ∀ f i,
        u.rd f i = f.resetVal i ∧ u.rdSh f i = f.resetVal i) ∧
    Brings (.pwrEnLow t) s (fun u => u.pwr = .off ∧ u.pmr.pwrEn = false ∧ u.pmr.cause = 0 ∧
        u.flash = startCounted (s.at t) ∧ ∀ f i,
        u.rd f i = f.resetVal i ∧ u.rdSh f i = f.resetVal i) ∧
    Brings (.resetNLow t) s (fun u => u.pwr = .off ∧ u.pmr.resetN = false ∧ u.pmr.cause = 1 ∧
        u.flash = startCounted (s.at t) ∧ ∀ f i,
        u.rd f i = f.resetVal i ∧ u.rdSh f i = f.resetVal i) ∧
    (∀ (rstN : Bool), s.pwr = .off → s.pmr.vin = true → (if rstN then s.pmr.pwrEn else s.pmr.resetN) = true →
        Brings (.resetReleaseHigh t rstN) s (fun u => u.pwr = .start ∧ u.pmr.startAt = (s.at t).clock ∧
        u.pmr.upFrom = (s.at t).clock + 20 * msFu ∧ ∀ b : Blk, bit u.held b.idx = (b != .pmr && b != .flt))) ∧
    (∀ (x : StartUp) (slot trial : Bool), s.pwr = .start → s.pmr.recovery = false → s.pmr.railAt ≤ (s.at t).clock →
        s.bootPick = .run slot trial → Brings (.startComplete t x) s (fun u =>
        u.pwr = (if s.flt.ents.any (fun e => e.lvl == 4 && (!e.inj || e.perf)) then .safe else .ready) ∧
        (∀ b : Blk, bit u.held b.idx = false) ∧ u.flag .pmr_BOOT_SLOT = slot ∧ u.flag .pmr_TRIAL = trial ∧
        u.flash.starts = s.flash.starts + b2n (!s.pmr.counted))) ∧
    (∀ (x : StartUp), s.pwr = .start → s.pmr.recovery = false → s.pmr.railAt ≤ (s.at t).clock → s.bootPick = .again →
        Brings (.startComplete t x) s (fun u => u.pwr = .start ∧ u.rd .pmr_RESET_CAUSE = 3 ∧ u.flash.trial = false ∧
        u.pmr.fallback = some 0 ∧ u.flag .pmr_BOOT_FALLBACK = true)) ∧
    (∀ (x : StartUp), s.pwr = .start → s.pmr.recovery = false → s.pmr.railAt ≤ (s.at t).clock → s.bootPick = .recovery →
        Brings (.startComplete t x) s (fun u => u.pwr = .start ∧ u.pmr.recovery = true ∧
        (∀ b ∈ [Blk.pmr, .flt, .edc, .ctl, .eth], bit u.held b.idx = false) ∧ Raised u clsControl 4 unitModule)) ∧
    (s.pwr = .start → s.pmr.recovery = false → s.pmr.counted = false → s.pmr.railAt + 20 * msFu ≤ t →
        Brings (.railRetry t) s (fun u => u.pwr = .start ∧ u.pmr.railAt = s.pmr.railAt + secFu ∧
        u.pmr.upFrom = s.pmr.railAt + secFu + 20 * msFu ∧ u.held = s.held ∧ u.flt = {} ∧ u.detected = [] ∧
        u.pmr.startAt = s.pmr.startAt))

/-- R18 to R21, R322, R378: the four power commands and the four changes of the power state that follow at a boundary. -/
def Obligations.PowerStateCommandsComplete : Prop :=
  ∀ (s : State) (t : Nat), s.alive .pmr = true →
    ((s.pwr = .standby ∨ s.pwr = .safe ∧ s.level4 = false) → s.pmr.upAt = none → Brings (.pwrCmdReady t) s (fun u =>
        u.pmr.upAt = some (s.at t).clock ∧ u.pwr = s.pwr)) ∧
    (s.pwr = .ready → Brings (.pwrCmdReady t) s (fun u => u.pwr = .ready ∧ u.flag .pmr_ACQ_ENABLED = false)) ∧
    ((s.pwr = .acquire ∨ s.pwr = .start ∨ s.pwr = .safe ∧ s.level4 = true) → Brings (.pwrCmdReady t) s (fun u =>
        u.pwr = s.pwr ∧ u.flag .pmr_PWR_CMD_ERR = true)) ∧
    (s.pwr = .ready → Brings (.pwrCmdStandby t) s (fun u => u.pwr = .ready ∧ u.pmr.standbyPend = some (s.at t).clock)) ∧
    (s.pwr ≠ .ready → Brings (.pwrCmdStandby t) s (fun u => u.pwr = s.pwr ∧ u.pmr.standbyPend = s.pmr.standbyPend ∧
        u.flag .pmr_PWR_CMD_ERR = true)) ∧
    (s.pwr = .ready → Brings (.pwrCmdAcquireEnable t) s (fun u => u.pwr = .ready ∧ u.flag .pmr_ACQ_ENABLED = true)) ∧
    (s.pwr ≠ .ready → Brings (.pwrCmdAcquireEnable t) s (fun u => u.pwr = s.pwr ∧
        u.flag .pmr_ACQ_ENABLED = s.flag .pmr_ACQ_ENABLED ∧ u.flag .pmr_PWR_CMD_ERR = true)) ∧
    ((s.pwr = .ready ∨ s.pwr = .acquire ∨ s.pwr = .standby) → Brings (.pwrCmdSafe t true) s (fun u => u.pwr = .safe ∧
        u.seq.safeAt = some (s.at t).clock ∧ u.pmr.standbyPend = none ∧ u.pmr.upAt = none)) ∧
    Brings (.pwrCmdSafe t false) s (fun u => u.pwr = s.pwr ∧ u.flag .pmr_PWR_CMD_ERR = true) ∧
    (∀ (t0 : Nat), s.pmr.standbyPend = some t0 → t0 < (s.at t).clock → (s.at t).atBoundary = true → s.pwr = .ready →
        (s.at t).biasDown = true → Brings (.standbyEntry t) s (fun u => u.pwr = .standby ∧ u.pmr.standbyPend = none ∧
        u.pmr.upAt = none)) ∧
    (∀ (t0 : Nat), s.pmr.upAt = some t0 → t0 + 50 * msFu ≤ (s.at t).clock → (s.at t).atBoundary = true → s.pwr = .standby →
        Brings (.standbyExit t) s (fun u => u.pwr = .ready ∧ u.pmr.upAt = none)) ∧
    ((s.at t).atBoundary = true → s.pwr = .acquire → (∀ r : Fin 16, s.mode r = 0 ∧ s.seq.draining[r] = 0) →
        Brings (.acquireToReady t) s (fun u => u.pwr = .ready)) ∧
    (∀ (t0 : Nat), s.pmr.upAt = some t0 → t0 < (s.at t).clock → (s.at t).atBoundary = true → s.pwr = .safe →
        Brings (.safeExit t) s (fun u => u.pwr = .ready ∧ u.pmr.upAt = none))

/-- R28 to R31: what each of the bias commands does in a region whose sensor supply is powered. -/
def Obligations.BiasCommandsComplete : Prop :=
  ∀ (s : State) (t : Nat) (r : Fin 16), s.alive .sns = true →
    ((s.pwr = .ready ∨ s.pwr = .acquire) → s.pmr.standbyPend = none → s.layerTemp.isSome = true →
        s.flag .sns_OC_TRIP r = false → s.rdBit .sns_BIAS_EN 0 r = false → Brings (.biasEnSet t r) s (fun u =>
        u.rdBit .sns_BIAS_EN 0 r = true ∧ u.flag .sns_RAMPING r = true ∧ u.rampOf r = some ⟨(s.at t).clock, (s.at t).vNow r,
        true⟩)) ∧
    (s.flag .sns_OC_TRIP r = true → s.rdBit .sns_BIAS_EN 0 r = false → Brings (.biasEnSet t r) s (fun u =>
        u.rdBit .sns_BIAS_EN 0 r = false ∧ u.flag .sns_BIAS_EN_ERR = true)) ∧
    (s.rdBit .sns_BIAS_EN 0 r = true → Brings (.biasEnClear t r) s (fun u => u.rdBit .sns_BIAS_EN 0 r = false ∧
        u.flag .sns_RAMPING r = false ∧ u.flag .sns_BIAS_OK r = false ∧ u.rampOf r = some ⟨(s.at t).clock, (s.at t).vNow r,
        false⟩)) ∧
    (∀ (t0 : Nat) (v0 : Nat), s.rampOf r = some ⟨t0, v0, true⟩ → (s.at t).target r ≤ (s.at t).vNow r →
        Brings (.biasRampDone t r) s (fun u => u.rd .sns_V_SET r = (s.at t).target r % 65536 ∧
        u.flag .sns_RAMPING r = false ∧ u.flag .sns_BIAS_OK r = true ∧ u.rampOf r = none)) ∧
    (∀ (t0 : Nat) (v0 : Nat), s.rampOf r = some ⟨t0, v0, false⟩ → (s.at t).vNow r < 1000 →
        Brings (.biasRampDone t r) s (fun u => u.rd .sns_V_SET r = 0 ∧ u.rampOf r = none)) ∧
    Brings (.regionOvercurrent t r) s (fun u => u.flag .sns_OC_TRIP r = true ∧ u.rdBit .sns_BIAS_EN 0 r = false ∧
        u.rd .sns_V_SET r = 0 ∧ u.rampOf r = none ∧ Raised u clsOverCurrent 2 (unitRegion r)) ∧
    Brings (.railOvercurrent t) s (fun u => u.flag .sns_OC_TOTAL_TRIP = true ∧ Raised u clsSupply 4 unitModule)

/-- R34, R36, R39, R41 to R44, R47: what the pixel, mask, hot-pixel and injection commands and an abort do in a powered front end. An edge
counts in the tick in force, or from the swap edge on in the next one. -/
def Obligations.PixelCommandsComplete : Prop :=
  ∀ (s : State) (t : Nat) (r : Fin 16), s.alive .pfe = true →
    (∀ (c : Fin 16384) (p : Fin 16) (raw : RawCapture), s.flag .pfer_FE_EN r = true → s.maskCnt r c p = false →
        s.countEnable r = true → (s.at t).pixDead r (16 * c + p) = false → (s.at t).swapDue = false →
        Brings (.pixelEdge t r c p raw) s (fun u =>
        spGet (u.pfeR r).counts (16 * c + p) 0 = min 4095 (spGet (s.pfeR r).counts (16 * c + p) 0 + 1) ∧
        spGet (u.pfeR r).hold (16 * c + p) 0 = (s.at t).clock + 1)) ∧
    (∀ (c : Fin 16384) (p : Fin 16) (raw : RawCapture), s.flag .pfer_FE_EN r = true → s.maskCnt r c p = false →
        s.countEnable r = true → (s.at t).pixDead r (16 * c + p) = false → (s.at t).swapDue = true →
        Brings (.pixelEdge t r c p raw) s (fun u =>
        spGet (u.pfeR r).next (16 * c + p) 0 = min 4095 (spGet (s.pfeR r).next (16 * c + p) 0 + 1) ∧
        (u.pfeR r).counts = (s.pfeR r).counts ∧ spGet (u.pfeR r).hold (16 * c + p) 0 = (s.at t).clock + 1)) ∧
    (∀ (c : Fin 16384) (p : Fin 16), spGet (s.pfeR r).hold (16 * c + p) 0 ≠ 0 →
        spGet (s.pfeR r).hold (16 * c + p) 0 + s.holdFu r ≤ t → Brings (.pixelHoldoffEnd t r c p) s (fun u =>
        spGet (u.pfeR r).hold (16 * c + p) 0 = 0 ∧ (u.pfeR r).counts = (s.pfeR r).counts)) ∧
    (∀ (v : BitVec 32), Brings (.maskDataWrite t r v) s (fun u => spGet u.pfe.maskS (s.maskKey r) 0 = v.toNat ∧
        u.pfe.maskF = s.pfe.maskF ∧ u.flag .hdr_SHADOW_DIRTY (17 * Blk.pfe.idx + 1 + r) = true)) ∧
    Brings (.maskDataRead t r) s (fun u => u.lastRead = s.maskGet r (s.flag .pfer_MASK_VIEW r) ∧ u.pfe = s.pfe ∧
        u.rd .pfer_MASK_ADDR r = if s.flag .pfer_MASK_AUTO_INC r then (s.rd .pfer_MASK_ADDR r + 1) % 16384 else s.rd
        .pfer_MASK_ADDR r) ∧
    Brings (.hotClr t r) s (fun u => (u.pfeR r).hotList = [] ∧ (u.pfeR r).hot = [] ∧ (u.pfeR r).hotRun = []) ∧
    (s.flag .pfe_MASK_SAVE_BUSY = false → Brings (.maskSave t) s (fun u => u.flag .pfe_MASK_SAVE_BUSY = true ∧
        u.pfe.saving = some s.pfe.maskF)) ∧
    (∀ (m : Sp), s.pfe.saving = some m → Brings (.maskSaveDone t) s (fun u => u.flag .pfe_MASK_SAVE_BUSY = false ∧
        u.flash.mask = some m)) ∧
    Brings (.feAbort t r) s (fun u => u.flag .pfer_FE_EN r = false ∧ (u.pfeR r).hold = [] ∧ (u.pfeR r).finalOwed = false) ∧
    (∀ (f : Frame), (s.pfeR r).xfer = some f → Brings (.frameTransferDone t r) s (fun u => (u.pfeR r).xfer = none ∧
        (u.pfeR r).xferDone = true)) ∧
    (∀ (d : Int) (l : List Int), (s.pfeR r).injDue = d :: l → (s.pfeR r).injLeft = 0 → grid16 d ≤ (s.at t).local_ →
        Brings (.injectedPulse t r) s (fun u => (u.pfeR r).injDue = l ∧
        (u.pfeR r).injIssued = (s.pfeR r).injIssued + b2n (s.injects r)))

/-- R10, R12, R14, R114 to R119, R122: the tick boundary, the pacing instant, the schedule's start, a commit and its
boundary, drains and aborts: what each brings about. -/
def Obligations.SequencerCommandsComplete : Prop :=
  ∀ (s : State) (t : Nat), s.alive .seq = true →
    (s.running = true → s.paced = true → (s.at t).tickTime s.nextTick ≤ (s.at t).tbNow → Brings (.tickBoundary t) s (fun u =>
        u.seq.k = s.nextTick ∧ u.seq.boundaryAt = some (s.at t).clock)) ∧
    (s.running = false → s.paced = true → (∀ b, s.seq.boundaryAt = some b → b + msFu ≤ (s.at t).clock) →
        Brings (.pacingInstant t) s (fun u => u.seq.boundaryAt = some (s.at t).clock ∧ u.seq.start = (s.at t).local_ ∧
        u.seq.k = s.seq.k)) ∧
    (∀ (g : Seg) (l : List Seg), s.seq.segs = g :: l → s.running = false → s.paced = true →
        s.tickTime g.first ≤ (s.at t).tbNow → Brings (.tickScheduleStart t) s (fun u => u.seq.k = g.first ∧
        u.seq.boundaryAt = some (s.at t).clock ∧ u.seq.start = s.coarseOf (s.tickTime g.first))) ∧
    (s.staged = none → s.flag .seq_COMMIT_AT_EN = false → Brings (.commit t) s (fun u => u.staged = some ⟨s.shadow,
        s.pfe.maskS, s.tdc.offS, none, (s.at t).clock + 4 * usFu, s.seq.k, none⟩ ∧ u.flag .seq_COMMIT_PEND = true ∧
        u.force = s.force ∧ ∀ p, u.flag .hdr_SHADOW_DIRTY p = false)) ∧
    (s.staged.isSome = true → Brings (.commit t) s (fun u => u.staged = s.staged ∧ u.flag .seq_COMMIT_BUSY = true ∧
        u.force = s.force ∧ u.shadow = s.shadow)) ∧
    (∀ (b : Nat), s.staged = none → s.flag .seq_COMMIT_AT_EN = true → s.running = true →
        s.tickAheadOf (s.rd .seq_COMMIT_TICK) = some b → s.tickTime b < ((s.at t).tbNow : Int) + (4 * usFu : Nat) →
        Brings (.commit t) s (fun u => u.staged = none ∧ u.flag .seq_COMMIT_LATE = true ∧ u.flag .seq_CFG_ERR = true ∧
        u.force = s.force ∧ u.shadow = s.shadow)) ∧
    (∀ (g : Staged), s.staged = some g → (s.at t).commitDue = true → Brings (.commitBoundary t) s (fun u =>
        u.staged = none ∧ (u.pwr = s.pwr ∨ s.pwr = .ready ∧ u.pwr = .acquire))) ∧
    (∀ (g : Staged), s.staged = some g → (s.at t).commitDue = true → s.seq.safeAt ≠ some (s.at t).clock →
        (s.at t).commitErrs g = [] → Brings (.commitBoundary t) s (fun u => u.staged = none ∧
        (∀ f i, f.desc.acc = .rwc → f ∉ ownForced → u.rd f i = g.rd f i) ∧
        (∀ r : Fin 16, bit s.seq.cleared r = false → u.rd .seq_REGION_MODE r = g.rd .seq_REGION_MODE r) ∧
        u.pfe.maskF = g.mask ∧ u.tdc.offF = g.off ∧
        u.rd .seq_CFG_EPOCH = Fld.cut .seq_CFG_EPOCH (s.rd .seq_CFG_EPOCH + 1) ∧
        u.rd .seq_EPOCH_TICK = (if u.running then s.seq.k % 2 ^ 48 else 0))) ∧
    (∀ (g : Staged), s.staged = some g → (s.at t).commitDue = true → s.seq.safeAt ≠ some (s.at t).clock →
        (s.at t).commitErrs g ≠ [] → Brings (.commitBoundary t) s (fun u => u.staged = none ∧ u.flag .seq_CFG_ERR = true ∧
        (∀ f i, f.desc.acc = .rwc → u.rd f i = s.rd f i) ∧ u.rd .seq_CFG_EPOCH = s.rd .seq_CFG_EPOCH ∧
        u.rd .seq_EPOCH_TICK = s.rd .seq_EPOCH_TICK)) ∧
    (∀ (r : Fin 16), bit s.seq.drainOrd r = true → s.seq.draining[r] = 0 → Brings (.regionDrainDone t r) s (fun u =>
        u.rdBit .seq_REGION_FINAL 0 r = true ∧ bit u.seq.drainOrd r = false)) ∧
    (∀ (m : BitVec 16), Brings (.regionAbort t m) s (fun u => ∀ r : Fin 16, bit m.toNat r = true →
        bit u.seq.zero r = true ∧ bit u.seq.drainOrd r = false ∧ u.seq.draining[r] = 0 ∧ u.flag .pfer_FE_EN r = false ∧
        u.flag .tdcr_TDC_EN r = false))

/-- R347, R349, R350, R354 to R356, R359: one word written or read by an accessor that reaches its page. Plain configuration
goes into the shadows; a word of a multi-word value waits for the highest; a refusal by the page's mask is counted; word 0 of
a value captures it whole. -/
def Obligations.RegisterCommandsComplete : Prop :=
  ∀ (s : State) (t : Nat) (a : Accessor) (addr : BitVec 32) (v : BitVec 32) (p : Nat) (o : Nat), (p = addrPg addr.toNat ∧
    o = addrOff addr.toNat) → addrBad false addr.toNat 1 = false → Reaches s a p →
    (addrView addr.toNat = false → bit (s.rd .hdr_WR_MASK p) (Accessor.eff a).lvl = true → mwOf p o = none →
        (∀ x ∈ slotsIn p o 1, plain s x.1 = true) → Brings (.registerWrite t a addr v) s (fun u => (∀ x ∈ slotsIn p o 1,
        Written s u x.1 x.2 (fieldOf x.1 x.2 v.toNat o)) ∧
        u.rd .hdr_WR_COUNT p = Fld.cut .hdr_WR_COUNT (s.rd .hdr_WR_COUNT p + 1) ∧ u.rd .hdr_LAST_SRC p = a.who)) ∧
    (addrView addr.toNat = false → bit (s.rd .hdr_WR_MASK p) (Accessor.eff a).lvl = false →
        Brings (.registerWrite t a addr v) s (fun u =>
        u.rd .hdr_DENY_CNT p = Fld.cut .hdr_DENY_CNT (s.rd .hdr_DENY_CNT p + 1) ∧ u.force = s.force ∧ u.shadow = s.shadow ∧
        u.rd .hdr_WR_COUNT p = s.rd .hdr_WR_COUNT p)) ∧
    (∀ (base : Nat) (n : Nat), addrView addr.toNat = false → bit (s.rd .hdr_WR_MASK p) (Accessor.eff a).lvl = true →
        (Accessor.eff a).lvl = 2 → mwOf p o = some (base, n) → o ≠ base + 4 * (n - 1) → (∃ x ∈ slotsIn p base n,
        x.1.desc.acc ≠ .ro) → Brings (.registerWrite t a addr v) s (fun u => (p, o, v.toNat) ∈ u.ctl.stage[a.who] ∧
        u.force = s.force ∧ u.shadow = s.shadow)) ∧
    (∀ (base : Nat) (n : Nat) (ws : List Nat), addrView addr.toNat = false →
        bit (s.rd .hdr_WR_MASK p) (Accessor.eff a).lvl = true → mwOf p o = some (base, n) → o = base + 4 * (n - 1) →
        ws.length = n - 1 → (∀ k (h : k < ws.length),
        (s.ctl.stage[a.who]).find? (fun e => e.1 == p && e.2.1 == base + 4 * k) = some (p, base + 4 * k, ws[k])) →
        (∀ x ∈ slotsIn p base n, plain s x.1 = true) → Brings (.multiwordCommit t a addr v) s (fun u =>
        (∀ x ∈ slotsIn p base n,
        Written s u x.1 x.2 (fieldOf x.1 x.2 ((ws ++ [v.toNat]).zipIdx.foldl (fun y e => y + e.1 <<< (32 * e.2)) 0) base)) ∧
        u.ctl.stage[a.who] = [])) ∧
    (∀ (n : Nat), bit (s.rd .hdr_RD_MASK p) (Accessor.eff a).lvl = true → mwOf p o = some (o, n) →
        Brings (.multiwordCapture t a addr) s (fun u =>
        u.lastRead = ((s.at t).mwWords p o n (addrView addr.toNat)).getD 0 0 ∧ u.ctl.snaps[a.who] = some ⟨p, o,
        addrView addr.toNat, (s.at t).mwWords p o n (addrView addr.toNat)⟩))

/-- R356, R358: the mask word of a page written at level OWN, and REVERT, which gives every shadow of the page the value in
force. -/
def Obligations.PageHeaderCommandsComplete : Prop :=
  ∀ (s : State) (t : Nat) (a : Accessor) (blk : Fin 20) (page : Fin 17), (page.val = 0 ∨ winReplicated blk.val = true) →
    Reaches s a (17 * blk.val + page.val) → bit (s.rd .hdr_WR_MASK (17 * blk.val + page.val)) (Accessor.eff a).lvl = true →
    (∀ (v : BitVec 32), (Accessor.eff a).lvl = 2 → Brings (.privMaskWrite t a blk page v) s (fun u =>
        u.rd .hdr_RD_MASK (17 * blk.val + page.val) = (v.toNat % 8 ||| 4) ∧
        u.rd .hdr_WR_MASK (17 * blk.val + page.val) = (v.toNat / 16 % 8 ||| 4) ∧ u.force = s.force ∧ u.shadow = s.shadow)) ∧
    (∀ (v : BitVec 32), (Accessor.eff a).lvl ≠ 2 → v.toNat % 8 ≠ s.rd .hdr_RD_MASK (17 * blk.val + page.val) →
        Brings (.privMaskWrite t a blk page v) s (fun u =>
        u.rd .hdr_RD_MASK (17 * blk.val + page.val) = s.rd .hdr_RD_MASK (17 * blk.val + page.val) ∧
        u.rd .hdr_DENY_CNT (17 * blk.val + page.val) = Fld.cut .hdr_DENY_CNT (s.rd .hdr_DENY_CNT (17 * blk.val + page.val) +
        1))) ∧
    (RegOk s → Brings (.revert t a blk page) s (fun u => (∀ f i, f.desc.acc = .rwc → f.desc.blk.idx = blk.val →
        (if f.desc.region then page.val = i + 1 else page.val = 0) → u.rdSh f i = s.rd f i ∧ u.rd f i = s.rd f i) ∧
        u.flag .hdr_SHADOW_DIRTY (17 * blk.val + page.val) = false))

/-- R52, R57 to R59, R70: a capture window's close, the readout, the drain and the abort of the converters of a region. -/
def Obligations.TdcCommandsComplete : Prop :=
  ∀ (s : State) (t : Nat) (r : Fin 16), s.alive .tdc = true →
    (∀ (c : Fin 16384) (w : Win), s.winOf r c = some w → w.t0 + winFu ≤ t →
        (s.tdcR r).queue.countP (fun v => v.cluster == w.cluster) < 4 → Brings (.captureWindowClose t r c) s (fun u =>
        u.winOf r c = none ∧ (u.tdcR r).queue = (s.tdcR r).queue ++ [w.entry])) ∧
    (∀ (c : Fin 16384) (w : Win), s.winOf r c = some w → w.t0 + winFu ≤ t →
        4 ≤ (s.tdcR r).queue.countP (fun v => v.cluster == w.cluster) → Brings (.captureWindowClose t r c) s (fun u =>
        u.winOf r c = none ∧ (u.tdcR r).queue = (s.tdcR r).queue ∧
        u.rd .tdcr_DROP_QFULL r = Fld.cut .tdcr_DROP_QFULL (s.rd .tdcr_DROP_QFULL r + 1))) ∧
    (∀ (e : Entry), s.nextEntry r = some e → (s.at t).tooOld e = true → Brings (.clusterReadoutVisit t r) s (fun u =>
        (u.tdcR r).queue = (s.tdcR r).queue.erase e ∧ (u.tdcR r).rr = (e.cluster + 1) % 16384 ∧
        u.rd .tdcr_DROP_AGE r = Fld.cut .tdcr_DROP_AGE (s.rd .tdcr_DROP_AGE r + 1))) ∧
    (∀ (e : Entry), s.nextEntry r = some e → (s.at t).tooOld e = false → (s.at t).evbTakes r = true →
        Brings (.clusterReadoutVisit t r) s (fun u => (u.tdcR r).queue = (s.tdcR r).queue.erase e ∧
        (u.tdcR r).rr = (e.cluster + 1) % 16384)) ∧
    ((s.tdcR r).draining = true → (s.tdcR r).wins = [] → (s.tdcR r).queue = [] → (s.evbR r).store = [] →
        Brings (.tdcDrainDone t r) s (fun u => (u.tdcR r).draining = false ∧ u.flag .tdcr_TDC_FINAL r = true)) ∧
    Brings (.tdcAbort t r) s (fun u => u.flag .tdcr_TDC_EN r = false ∧ (u.tdcR r).wins = [] ∧ (u.tdcR r).queue = [] ∧
        (u.tdcR r).draining = false)

/-- R60 to R66, R68, R76: a batch closed, of a column group, of an auxiliary or of a time-transfer converter; a batch timed
out; the calibration restarted, a table loaded, an offset word written and read. -/
def Obligations.CalibrationCommandsComplete : Prop :=
  ∀ (s : State) (t : Nat) (r : Fin 16), s.alive .tdc = true →
    (∀ (g : Fin 16), (s.group r g).fill = 2 ^ 20 → Brings (.calBatchClose t (.group r g)) s (fun u =>
        (u.group r g).hist = [] ∧ (u.group r g).fill = 0 ∧ (u.group r g).first = none ∧
        (u.group r g).meas = measEdges (s.group r g).hist)) ∧
    (∀ (c : Fin 4) (k : Fin 2) (h : Vector Nat 128), h.toList.foldl (· + ·) 0 = 2 ^ 20 →
        Brings (.calBatchClose t (.aux c k h)) s (fun u =>
        (if k = 0 then (u.auxCh c).i0 else (u.auxCh c).i1).meas = measEdges (((List.range 128).zip h.toList).filter (fun e =>
        e.2 != 0)))) ∧
    (∀ (p : Fin 6) (k : Fin 2) (h : Vector Nat 128), h.toList.foldl (· + ·) 0 = 2 ^ 20 →
        Brings (.calBatchClose t (.timeTransfer p k h)) s (fun u =>
        (if k = 0 then u.tbs.tt0[p] else u.tbs.tt1[p]).meas = measEdges (((List.range 128).zip h.toList).filter (fun e => e.2
        != 0)))) ∧
    (∀ (g : Fin 16) (t0 : Nat), (s.group r g).first = some t0 → s.rd .tdcr_CAL_TMAX r ≠ 0 →
        t0 + s.rd .tdcr_CAL_TMAX r * secFu ≤ t → Brings (.calBatchTimeout t r g) s (fun u => (u.group r g).hist = [] ∧
        (u.group r g).fill = 0 ∧ (u.group r g).first = none ∧ (u.group r g).timeout = ((s.group r g).timeout + 1) % 65536)) ∧
    Brings (.calReset t r) s (fun u => (u.tdcR r).resetPend = true) ∧
    (∀ (g : Fin 16) (tab : List Nat), s.rd .tdcr_LOAD_GRP r = g.val → (s.group r g).load = some tab → loadable tab = true →
        Brings (.calLoad t r) s (fun u => (g.val, s.flag .tdcr_LOAD_OK r, tab) ∈ (u.tdcR r).loadPend ∧
        u.flag .tdcr_CAL_LOAD_BUSY r = true)) ∧
    (∀ (g : Fin 16) (tab : List Nat), s.rd .tdcr_LOAD_GRP r = g.val → (s.group r g).load = some tab →
        loadable tab = false → Brings (.calLoad t r) s (fun u => (u.tdcR r).loadPend = (s.tdcR r).loadPend ∧
        u.flag .tdcr_CFG_ERR r = true)) ∧
    (∀ (v : BitVec 32), Brings (.tdcOffAccess t r (some v)) s (fun u =>
        spGet u.tdc.offS (s.ofsKey r) (Config.tdcOff (s.ofsKey r) % 512) = v.toNat % 512 ∧ u.tdc.offF = s.tdc.offF ∧
        u.flag .hdr_SHADOW_DIRTY (17 * Blk.tdc.idx + 1 + r) = true)) ∧
    Brings (.tdcOffAccess t r none) s (fun u => u.lastRead = s.ofsGet r (s.flag .tdcr_OFS_VIEW r) ∧ u.tdc = s.tdc)

/-- R66 to R69: an edge of an auxiliary channel, counted and, outside the dead time, latched; the swap of its instances; a
measurement of the phase monitor. -/
def Obligations.AuxCommandsComplete : Prop :=
  ∀ (s : State) (t : Nat), s.alive .tdc = true →
    (∀ (c : Fin 4) (fall : Bool) (raw : RawCapture) (refs : Nat), fall = s.rdBit .tdc_AUX_EDGE 0 c → (∀ t0,
        (s.auxCh c).last = some t0 → t0 + auxDead ≤ t) → Brings (.auxEdge t c fall raw refs) s (fun u =>
        (u.auxCh c).ecount = (s.auxCh c).ecount + 1 ∧ (u.auxCh c).last = some (s.at t).clock)) ∧
    (∀ (c : Fin 4) (fall : Bool) (raw : RawCapture) (refs : Nat) (t0 : Nat), fall = s.rdBit .tdc_AUX_EDGE 0 c →
        (s.auxCh c).last = some t0 → (s.at t).clock < t0 + auxDead → Brings (.auxEdge t c fall raw refs) s (fun u =>
        (u.auxCh c).ecount = (s.auxCh c).ecount + 1 ∧ (u.auxCh c).last = some t0 ∧
        u.rd .tdc_AUX_SKIP c = Fld.cut .tdc_AUX_SKIP (s.rd .tdc_AUX_SKIP c + 1))) ∧
    (∀ (c : Fin 4), 2 ^ 20 ≤ (s.auxCh c).instEdges → Brings (.auxInstanceSwap t c) s (fun u =>
        (u.auxCh c).inst = 1 - (s.auxCh c).inst ∧ (u.auxCh c).instEdges = 0 ∧ (u.auxCh c).ecount = (s.auxCh c).ecount)) ∧
    (∀ (bad : Bool) (lost : Bool), (bad = true ∨ lost = true ∨ s.tdc.caps < 100 * s.tdc.repairs) →
        s.flag .tdc_CLK_FAULT = false → s.flag .tdc_CLK_BAD = false → Brings (.phaseMonitor t bad lost) s (fun u =>
        u.flag .tdc_CLK_BAD = true ∧ u.flag .tdc_CLK_FAULT = true ∧ u.tdc.good = 0 ∧ u.tdc.caps = 0 ∧
        Raised u clsTdc 2 unitModule)) ∧
    (100 * s.tdc.repairs ≤ s.tdc.caps → Brings (.phaseMonitor t false false) s (fun u => u.tdc.good = s.tdc.good + 1 ∧
        u.tdc.caps = 0 ∧ u.flag .tdc_CLK_BAD = (s.flag .tdc_CLK_BAD && decide (s.tdc.good < 999))))

/-- R73 to R75, R81 to R83, R86: the loss, the return and a window of the reference, the PPS timeout, an update of the EXT
source, the choice of the source, and the warning of a long holdover. -/
def Obligations.ReferenceCommandsComplete : Prop :=
  ∀ (s : State) (t : Nat), s.alive .tbs = true →
    Brings (.refLoss t) s (fun u => u.flag .tbs_REF_LOST = true ∧ u.flag .tbs_REF_QUAL = false ∧ u.tbs.refFrom = none) ∧
    (∀ (ppb : Int), 50000 < ppb.natAbs → Brings (.refWindow t ppb) s (fun u => u.flag .tbs_REF_BAD = true ∧
        u.flag .tbs_REF_QUAL = false ∧ u.rdS .tbs_REF_PPM = satS 32 ppb)) ∧
    (∀ (ppb : Int) (t0 : Nat), ppb.natAbs ≤ 50000 → s.tbs.refFrom = some t0 → t0 + 100 * msFu ≤ t →
        Brings (.refWindow t ppb) s (fun u => u.flag .tbs_REF_QUAL = true ∧ u.rdS .tbs_REF_PPM = ppb)) ∧
    (s.flag .tbs_REF_LOST = true → Brings (.refInResume t) s (fun u => u.flag .tbs_REF_LOST = false ∧
        u.tbs.refFrom = some (s.at t).clock)) ∧
    (∀ (t0 : Nat), s.tbs.ppsLast = some t0 → t0 + secFu + 10 * usFu ≤ t → Brings (.ppsTimeout t) s (fun u =>
        u.flag .tbs_PPS_LOST = true ∧ u.flag .tbs_PPS_QUAL = false ∧ u.tbs.ppsLast = none ∧ u.tbs.ppsRun = 0)) ∧
    (∀ (raw : RawCapture), s.srcQual srcExt = true → s.rd .tbs_SRC_ACT = 1 → s.rd .tbs_SERVO_MODE = 0 →
        (prioList (s.rd .tbs_SRC_PRIO)).contains 1 = true → s.flag .tbs_SRC_REVERT = false → s.flag .tbs_FREERUN = false →
        s.tbs.stepped = none → Brings (.extPhaseUpdate t raw) s (fun u =>
        u.rdS .tbs_PHASE_ERR = satS 32 (s.extErr ((s.at t).phaseStamp raw)) ∧ u.flag .tbs_HOLDOVER = false ∧
        u.tbs.holdSince = none)) ∧
    (∀ (k : Nat), s.rd .tbs_SERVO_MODE ≠ 1 → s.srcGood = true → (s.flag .tbs_HOLDOVER = false ∧
        s.flag .tbs_FREERUN = false) → s.flag .tbs_SRC_REVERT = true →
        (s.at t).revertTo (prioList (s.rd .tbs_SRC_PRIO)) (s.rd .tbs_SRC_ACT) = some k →
        Brings (.srcRevertTimer t) s (fun u =>
        u.rd .tbs_SRC_ACT = k ∧ u.rd .tbs_SRC_SWITCHES = Fld.cut .tbs_SRC_SWITCHES (s.rd .tbs_SRC_SWITCHES + 1) ∧
        u.tbs = { s.tbs with hist := [] })) ∧
    (s.rd .tbs_SERVO_MODE ≠ 1 → s.srcGood = true → (s.flag .tbs_HOLDOVER = false ∧ s.flag .tbs_FREERUN = false) →
        (s.flag .tbs_SRC_REVERT = false ∨ (s.at t).revertTo (prioList (s.rd .tbs_SRC_PRIO)) (s.rd .tbs_SRC_ACT) = none) →
        Brings (.srcRevertTimer t) s (fun u => u.tbs = s.tbs ∧ u.reg = s.reg)) ∧
    (∀ (k : Nat), s.rd .tbs_SERVO_MODE ≠ 1 → s.rd .tbs_SRC_ACT = 0 →
        (after 0 (prioList (s.rd .tbs_SRC_PRIO)) ++ prioList (s.rd .tbs_SRC_PRIO)).find? (fun k => s.srcQual k) = some k →
        Brings (.srcRevertTimer t) s (fun u => u.rd .tbs_SRC_ACT = k ∧
        u.rd .tbs_SRC_SWITCHES = Fld.cut .tbs_SRC_SWITCHES (s.rd .tbs_SRC_SWITCHES + 1) ∧ u.tbs.hist = [])) ∧
    (∀ (t0 : Nat), s.tbs.holdSince = some t0 → s.flag .tbs_HOLDOVER = true → s.tbs.holdWarned = false →
        s.rd .tbs_HO_WARN ≠ 0 → t0 + s.rd .tbs_HO_WARN * secFu < t → Brings (.holdoverWarn t) s (fun u =>
        u.tbs.holdWarned = true ∧ u.evSeq = (s.evSeq + 1) % 65536))

/-- R71, R72, R84, R89 to R91: the steps of TB time, its reading and its snapshot, a write of the frequency word, and the PPS
output. -/
def Obligations.TimeCommandsComplete : Prop :=
  ∀ (s : State) (t : Nat), s.alive .tbs = true →
    (∀ (x : Nat), s.pwr ≠ .acquire → timeOfWords (s.rd .tbs_TIME_SET) = some x → Brings (.stepCmd t true) s (fun u =>
        u.tbs.base = (x : Int) - (s.at t).nextEdge.local_ ∧ u.flag .tbs_STEPPED = true ∧
        u.rd .tbs_STEP_COUNT = Fld.cut .tbs_STEP_COUNT (s.rd .tbs_STEP_COUNT + 1))) ∧
    (s.pwr = .acquire → s.tbs.stepped = none → Brings (.stepCmd t true) s (fun u => u.flag .tbs_STEP_REFUSED = true ∧
        u.tbs.base = s.tbs.base)) ∧
    (∀ (v : BitVec 128) (x : Nat), timeOfWords v.toNat = some x → s.tbs.everQual = false →
        Brings (.timeSetWrite t v) s (fun u => u.rd .tbs_TIME_SET = Fld.cut .tbs_TIME_SET v.toNat ∧
        u.tbs.base = (x : Int) - (s.at t).nextEdge.local_ ∧ u.flag .tbs_STEPPED = true)) ∧
    (∀ (v : BitVec 128) (x : Nat), timeOfWords v.toNat = some x → s.tbs.everQual = true → s.tbs.stepped = none →
        Brings (.timeSetWrite t v) s (fun u => u.rd .tbs_TIME_SET = Fld.cut .tbs_TIME_SET v.toNat ∧
        u.tbs.base = s.tbs.base)) ∧
    (∀ (v : BitVec 128), timeOfWords v.toNat = none → s.tbs.stepped = none → Brings (.timeSetWrite t v) s (fun u =>
        u.rd .tbs_TIME_SET = s.rd .tbs_TIME_SET ∧ u.flag .tbs_CFG_ERR = true ∧ u.tbs.base = s.tbs.base)) ∧
    Brings (.snapReq t) s (fun u => u.rd .tbs_SNAP_COARSE = ((s.at t).coarse + 1) % 2 ^ 64 ∧ u.flag .tbs_SNAP_DONE = true ∧
        u.rd .tbs_SNAP_TIME = Fld.cut .tbs_SNAP_TIME (timeWords (s.tbOf ((coarseFu * ((s.at t).coarse + 1) : Nat) :
        Int)).toNat)) ∧
    Brings (.timeNowRead t) s (fun u => u.lastRead = timeWords (s.at t).tbNow ∧ u.tbs = s.tbs ∧ u.reg = s.reg ∧
        u.force = s.force) ∧
    (∀ (v : BitVec 32), s.rd .tbs_SERVO_MODE = 2 → Brings (.freqWordWrite t v) s (fun u =>
        u.rdS .tbs_FREQ_WORD = clampI (-100000000) 100000000 v.toInt)) ∧
    (∀ (v : BitVec 32), s.rd .tbs_SERVO_MODE ≠ 2 → Brings (.freqWordWrite t v) s (fun u =>
        u.rd .tbs_FREQ_WORD = s.rd .tbs_FREQ_WORD ∧ u.flag .tbs_CFG_ERR = true)) ∧
    (∀ (x : Int), (s.rd .tbs_PPS_OUT_MODE = 1 ∨ (s.rd .tbs_PPS_OUT_MODE = 2 ∧ s.flag .tbs_LOCKED = true)) →
        x = ((s.at t).tbStamp : Int) - s.rdS .tbs_PPS_OUT_OFS → x % (secFu : Nat) < coarseFu →
        s.tbs.ppsOutLast ≠ some (x / (secFu : Nat)) → Brings (.ppsOutPulse t) s (fun u =>
        u.tbs.ppsOutUntil = (s.at t).clock - (x % (secFu : Nat)).toNat + s.rd .tbs_PPS_WIDTH * msFu ∧
        u.tbs.ppsOutLast = some (x / (secFu : Nat)))) ∧
    ((s.rd .tbs_PPS_OUT_MODE = 0 ∨ (s.rd .tbs_PPS_OUT_MODE = 2 ∧ s.flag .tbs_LOCKED = false)) →
        Brings (.ppsOutPulse t) s (fun u => u.tbs = s.tbs ∧ u.reg = s.reg))

/-- R76 to R80: clappers sent, received and missed on a link in UP, and the messages of PTP. -/
def Obligations.TimeTransferCommandsComplete : Prop :=
  ∀ (s : State) (t : Nat), s.alive .tbs = true →
    (∀ (l : Fin 10), s.clapOn l = true → (s.at t).clapDue l = true → Brings (.clapperTx t l) s (fun u =>
        u.out = .clap l (s.clapLane l) ((s.at t).clapNow l) :: s.out ∧ (u.clapSt l).seq = ((s.clapSt l).seq + 1) % 65536)) ∧
    (∀ (l : Fin 10), (s.clapOn l = false ∨ (s.at t).clapDue l = false) → Brings (.clapperTx t l) s (fun u => u.out = s.out ∧
        u.tbs = s.tbs)) ∧
    (∀ (l : Fin 10) (j : Fin 2) (c : Clap), s.clapOn l = true → s.tbs.stepped = none →
        Brings (.clapperRx t l j c) s (fun u => (u.clapSt l).tq = c.tq.toNat ∧ (u.clapSt l).lane = j ∧
        (u.clapSt l).stepGen = (if c.whole then some c.stepGen.toNat else (s.clapSt l).stepGen))) ∧
    (∀ (l : Fin 10) (t0 : Nat), (s.clapSt l).lastPair = some t0 → t0 + 3 * msFu ≤ t → Brings (.clapTimeout t l) s (fun u =>
        (u.clapSt l).pairs = 0 ∧ (u.clapSt l).delays = [] ∧ (u.clapSt l).lastPair = none)) ∧
    (∀ (h : PtpHead) (a : PtpAnnounce), s.ptpOn h.udp = true → (h.version = 2 ∧ h.domain = s.rd .tbs_PTP_DOMAIN) →
        Brings (.ptpAnnounceRx t h a) s (fun u => ⟨h.source, a, (s.at t).clock, h.logInterval⟩ ∈ u.tbs.masters)) ∧
    (∀ (h : PtpHead) (a : PtpAnnounce), s.ptpOn h.udp = true → (h.version ≠ 2 ∨ h.domain ≠ s.rd .tbs_PTP_DOMAIN) →
        Brings (.ptpAnnounceRx t h a) s (fun u => u.tbs.masters = s.tbs.masters ∧
        u.rd .tbs_PTP_DISC = Fld.cut .tbs_PTP_DISC (s.rd .tbs_PTP_DISC + 1))) ∧
    (∀ (h : PtpHead), s.ptpOn h.udp = true → (h.version = 2 ∧ h.domain = s.rd .tbs_PTP_DOMAIN) →
        s.tbs.master = some h.source → Brings (.ptpSyncRx t h true) s (fun u => u.tbs.sync = some (h.seq.toNat,
        (s.at t).tbStamp, h.corr) ∧ u.tbs.syncLog = h.logInterval)) ∧
    (∀ (h : PtpHead), s.ptpOn h.udp = true → Brings (.ptpSyncRx t h false) s (fun u => u.tbs.sync = s.tbs.sync ∧
        u.rd .tbs_PTP_DISC = Fld.cut .tbs_PTP_DISC (s.rd .tbs_PTP_DISC + 1))) ∧
    (∀ (h : PtpHead) (t1 : Nat) (t2 : Nat) (c : Int), s.ptpOn h.udp = true → (h.version = 2 ∧
        h.domain = s.rd .tbs_PTP_DOMAIN) → s.tbs.master = some h.source → s.tbs.sync = some (h.seq.toNat, t2, c) →
        Brings (.ptpFollowUpRx t h t1) s (fun u => u.tbs.follow = some ((t1 : Int), (t2 : Int), corrFu c + corrFu h.corr) ∧
        u.tbs.sync = none)) ∧
    (s.flag .tbs_PTP_EN = true → (s.alive .eth = true ∧ s.flag .eth_LINK_UP = true) → s.tbs.follow.isSome = true →
        (∀ t0 k, s.tbs.delayAt = some t0 → s.tbs.delayLog = some k →
        t0 + logSec k ≤ t) → Brings (.ptpDelayReqTx t) s (fun u =>
        u.tbs.delayReq = some ((s.tbs.delaySeq + 1) % 65536, (s.at t).tbStamp) ∧ u.tbs.delayAt = some (s.at t).clock ∧
        u.out = ([true, false].filter s.ptpOn).map ((s.at t).delayFrame ((s.tbs.delaySeq + 1) % 65536)) ++ s.out)) ∧
    (∀ (t0 : Nat) (k : Int), s.tbs.delayAt = some t0 → s.tbs.delayLog = some k → (s.at t).clock < t0 + logSec k →
        Brings (.ptpDelayReqTx t) s (fun u => u.tbs = s.tbs ∧ u.out = s.out)) ∧
    (∀ (h : PtpHead) (t4 : Nat) (x : Int × Int × Int) (t3 : Nat), s.ptpOn h.udp = true → (h.version = 2 ∧
        h.domain = s.rd .tbs_PTP_DOMAIN) → s.tbs.master = some h.source → s.tbs.follow = some x →
        s.tbs.delayReq = some (h.seq.toNat, t3) → s.tbs.stepped = none → Brings (.ptpDelayRespRx t h t4) s (fun u =>
        u.tbs.delayReq = none ∧ u.tbs.delayLog = some h.logInterval ∧ u.tbs.ptpRun = s.tbs.ptpRun + 1)) ∧
    (∀ (m : Master), s.tbs.masters.find? (fun x => s.tbs.master == some x.port) = some m →
        m.at_ + 3 * logSec m.logInterval ≤ t → Brings (.ptpAnnounceTimeout t) s (fun u => ∀ x ∈ u.tbs.masters,
        x.port ≠ m.port)) ∧
    (∀ (t0 : Nat), s.tbs.lastFollow = some t0 → t0 + 4 * logSec s.tbs.syncLog ≤ t → Brings (.ptpSyncTimeout t) s (fun u =>
        u.flag .tbs_PTP_QUAL = false ∧ u.tbs.ptpRun = 0 ∧ u.tbs.lastFollow = none))

/-- R97 to R100, R106, R107, R121 to R124, R126 to R129, R140: the gates, a word's release, a tick's close, the end of a
histogram dump, a head's emission and a window's close in a region. -/
def Obligations.EventCommandsComplete : Prop :=
  ∀ (s : State) (t : Nat) (r : Fin 16), s.alive .hst = true → s.alive .evb = true →
    (∀ (g : Gate) (l : List Gate), (s.hstR r).gates = g :: l → (s.hstR r).gateOpen = false →
        g.o + Config.photonDelay r ≤ (s.at t).local_ → Brings (.gateOpen t r) s (fun u => (u.hstR r).gateOpen = true ∧
        (u.hstR r).gates = g :: l)) ∧
    (∀ (g : Gate) (l : List Gate), (s.hstR r).gates = g :: l → (s.hstR r).gateOpen = true →
        g.c + Config.photonDelay r ≤ (s.at t).local_ → Brings (.gateClose t r) s (fun u => (u.hstR r).gateOpen = false ∧
        (u.hstR r).gates = l)) ∧
    (∀ (w : EvW) (l : List EvW), (s.evbR r).store = w :: l → s.running = false → w.h < (s.at t).dueBefore →
        Brings (.eventWordRelease t r) s (fun u => (u.evbR r).store = l)) ∧
    (∀ (w : EvW) (l : List EvW), (s.evbR r).store = w :: l → s.running = true → w.h < (s.at t).dueBefore →
        (s.tickOf w.h ≤ s.seq.k ∧ s.tickOf w.h ≤ (s.evbR r).k) → (toEngine (s.wordMode r (s.tickOf w.h)) = true →
        s.inqRoom r = true) → Brings (.eventWordRelease t r) s (fun u => (u.evbR r).store = l)) ∧
    (∀ (f : Int), s.running = true → (s.evbR r).k < s.seq.k → (((s.at t).frontUp r).evbR r).front = some f →
        s.tickTime ((s.evbR r).k + 1) ≤ f → Brings (.tickClose t r) s (fun u => (u.evbR r).k = (s.evbR r).k + 1)) ∧
    (∀ (d : Nat × Nat), (s.hstR r).dump = some d → (s.hstR r).due = [] → Brings (.histoDumpDone t r) s (fun u =>
        (u.hstR r).dump = none ∧ (u.hstR r).coal = [])) ∧
    (∀ (d : Nat × Nat) (k : Nat) (l : List Nat), (s.hstR r).dump = some d → (s.hstR r).due = k :: l →
        Brings (.histoDumpDone t r) s (fun u => (u.hstR r).dump = some (k, (s.at t).clock) ∧ (u.hstR r).due = l ∧
        (u.hstR r).bins = [])) ∧
    (∀ (c : Rec), (s.evbR r).recs.find? (fun x => !x.emitted) = some c → (c.closed = true ∧ c.known = true ∧
        c.accKnown = true) → Brings (.frameHeadEmit t r) s (fun u => ∀ x ∈ (u.evbR r).recs, x.k = c.k → x.emitted = true)) ∧
    (∀ (v : WinTake) (f : Int), v ∈ (s.evbR r).wins → (∀ x ∈ (s.evbR r).wins, v.stop < x.stop ∨ x = v) →
        (((s.at t).frontUp r).evbR r).front = some f → v.stop ≤ f → Brings (.windowClose t r) s (fun u =>
        (u.evbR r).wins = (s.evbR r).wins.filter (fun x => x != v)))

/-- R130, R131, R133 to R136: software requests, marks, the rate conditions, the local coincidence, requests received and
merged, the root's decision. -/
def Obligations.TriggerInputCommandsComplete : Prop :=
  ∀ (s : State) (t : Nat), s.alive .trg = true →
    Brings (.softReq t) s (fun u =>
        u.trg.act[4].any (fun a => decide ((((s.at t).tbNow : Int) + (s.rd .trg_LOC_COINC * nsFu : Nat)) ≤ a.until_)) = true
        ∧ u.trg.pend.isSome = true) ∧
    (∀ (m : List Nat), m = slateRec (s.rd .tre_MODULE_ID) 0 0xFF 0 2 (s.at t).tbNow (s.rd .seq_CFG_EPOCH) 0 0 0 0 0 →
        ((s.rpS 16).elems ++ [m]).foldl (fun a l => a + l.length) 0 < 4096 → Brings (.mark t) s (fun u =>
        (u.rpS 16).elems = (s.rpS 16).elems ++ [m])) ∧
    Brings (.rateEval t) s (fun u => ∀ a : Fin 2, u.trg.rateNow[a] = 0) ∧
    (∀ (i : Fin 5) (a : Act), s.trg.pend = none → s.trg.act[i] = some a → a.last < gridSlot (s.at t).tbNow → a.done = false →
        Brings (.locCoincExpiry t i) s (fun u => u.trg.act[i] = some { a with done := true } ∧
        (a.last + 1 = gridSlot (s.at t).tbNow → u.trg.pend = some (a.last + 1, a.until_)))) ∧
    (∀ (i : Fin 5) (a : Act), s.trg.pend = none → s.trg.act[i] = some a → (gridSlot (s.at t).tbNow ≤ a.last ∨ a.done = true) →
        Brings (.locCoincExpiry t i) s (fun u => u.trg = s.trg ∧ u.reg = s.reg)) ∧
    (∀ (q : Treq) (e : Nat), s.trg.pend = none → s.trg.merge = some (q, e) → e ≤ t → Brings (.requestMergeEnd t) s (fun u =>
        u.trg.merge = none ∧ (s.isRoot = true → s.trg.window = none → u.trg.window = some (q,
        (s.at t).clock + s.rd .trg_DEC_COINC * nsFu)) ∧ (s.isRoot = false → s.parentLink.isSome = true →
        u.rd .trg_REQ_SENT = Fld.cut .trg_REQ_SENT (s.rd .trg_REQ_SENT + 1)))) ∧
    (∀ (l : Fin 10) (q : BitVec 8) (c : BitVec 4) (n : BitVec 8) (src : BitVec 32) (x : BitVec 56), s.alive .lnk = true →
        s.linkUp l = true → s.rd .tre_LINK_ROLE l = 4 → q.toNat ∉ (s.trigLink l).seen → s.trg.pend = none →
        s.trg.merge = none → Brings (.treqRx t l q c n src x) s (fun u => u.trg.merge = some (⟨c.toNat,
        near56 (s.at t).tbNow x.toNat, 1, src.toNat⟩, (s.at t).clock + s.rd .trg_REQ_MERGE * nsFu) ∧
        q.toNat ∈ (u.trigLink l).seen)) ∧
    (∀ (l : Fin 10) (q : BitVec 8) (c : BitVec 4) (n : BitVec 8) (src : BitVec 32) (x : BitVec 56), s.alive .lnk = true →
        s.linkUp l = true → q.toNat ∈ (s.trigLink l).seen → Brings (.treqRx t l q c n src x) s (fun u => u.trg = s.trg ∧
        u.rd .lnk_TRIG_DUP l = Fld.cut .lnk_TRIG_DUP (s.rd .lnk_TRIG_DUP l + 1))) ∧
    (∀ (q : Treq) (e : Nat), s.trg.window = some (q, e) → e ≤ t → (s.flag .trg_TRG_EN = false ∨
        s.rdBit .trg_DEC_LUT 0 (s.clsMask q.cls) = false) → Brings (.decisionWindowEnd t) s (fun u => u.trg.window = none ∧
        u.trg.serial = s.trg.serial ∧ u.rd .trg_DEC_REJ = Fld.cut .trg_DEC_REJ (s.rd .trg_DEC_REJ + 1))) ∧
    (∀ (q : Treq) (e : Nat), s.trg.window = some (q, e) → e ≤ t → s.flag .trg_TRG_EN = true →
        s.rdBit .trg_DEC_LUT 0 (s.clsMask q.cls) = true → s.trg.lastDec = none → Brings (.decisionWindowEnd t) s (fun u =>
        u.trg.window = none ∧ u.trg.lastDec = some (s.at t).clock ∧
        u.trg.serial = (if (s.trg.serial + 1) % 2 ^ 32 = 0 then 1 else (s.trg.serial + 1) % 2 ^ 32) ∧
        u.rd .trg_DEC_COUNT = Fld.cut .trg_DEC_COUNT (s.rd .trg_DEC_COUNT + 1)))

/-- R137 to R139: a decision received, a decision acted on, and the pulses of the trigger outputs. -/
def Obligations.TriggerOutputCommandsComplete : Prop :=
  ∀ (s : State) (t : Nat), s.alive .trg = true →
    (∀ (l : Fin 10) (q : BitVec 8) (c : BitVec 4) (id : BitVec 32) (x : BitVec 56), s.alive .lnk = true →
        s.linkUp l = true → s.rd .tre_LINK_ROLE l = 1 → q.toNat ∉ (s.trigLink l).seen →
        ((s.at t).tbNow : Int) ≤ s.actionTime ⟨id.toNat, near56 (s.at t).tbNow x.toNat, c.toNat⟩ →
        Brings (.tdecRx t l q c id x) s (fun u => u.trg.waiting = s.trg.waiting ++ [((⟨id.toNat,
        near56 (s.at t).tbNow x.toNat, c.toNat⟩ : Tdec), ((s.at t).local_ : Int))] ∧
        u.rd .trg_DEC_COUNT = Fld.cut .trg_DEC_COUNT (s.rd .trg_DEC_COUNT + 1))) ∧
    (∀ (d : Tdec × Int),
        leastBy (fun a b : Tdec × Int => decide (a.1.tt < b.1.tt)) (s.trg.waiting.filter (fun d => decide (s.actionTime d.1 ≤
        (s.at t).tbNow))) = some d → Brings (.triggerAction t) s (fun u => u.trg.waiting = s.trg.waiting.erase d ∧
        u.rd .trg_LAST_TRIG_ID = d.1.id % 2 ^ 32)) ∧
    (∀ (o : Fin 2) (p : Int × Int), s.flag .flt_SAFE_ACT = false → p ∈ s.trg.pulses[o] → p.1 ≤ (s.at t).local_ →
        ((s.at t).local_ : Int) < p.2 → Brings (.trigOutPulseStart t o) s (fun u => u.trg.high[o] = true ∧
        u.trg.pulses = s.trg.pulses)) ∧
    (∀ (o : Fin 2), s.flag .flt_SAFE_ACT = true → Brings (.trigOutPulseStart t o) s (fun u => u.trg = s.trg)) ∧
    (∀ (o : Fin 2), (∀ p ∈ s.trg.pulses[o], p.2 ≤ (s.at t).local_) → Brings (.trigOutPulseEnd t o) s (fun u =>
        u.trg.high[o] = false ∧ u.trg.pulses[o] = []))

/-- R119, R153, R159, R162, R166 to R168: a chunk and with it a packet completed, a table ready, a stall cut, the context
window read, written and loaded, and the abort of a region from its engine. -/
def Obligations.CompressionCommandsComplete : Prop :=
  ∀ (s : State) (t : Nat) (r : Fin 16), s.alive .cmp = true →
    (∀ (bad : Bool) (o : OpenPkt), (s.cmpR r).open_ = some o → o.kind = 0 → 256 ≤ o.cur.length →
        o.elems + o.cur.length < 4096 → (s.cmpR r).inq = [] → Brings (.chunkComplete t r bad) s (fun u =>
        (u.cmpR r).open_.any (fun p => p.cur.isEmpty && p.elems == o.elems + o.cur.foldl (fun a x => a + x.cover) 0) =
        true)) ∧
    (∀ (bad : Bool) (o : OpenPkt), (s.cmpR r).open_ = some o → o.kind = 0 → 4096 ≤ o.elems + o.cur.length →
        (s.cmpR r).inq = [] → (s.cmpR r).jobs = [] → Brings (.chunkComplete t r bad) s (fun u => (u.cmpR r).open_ = none ∧
        u.rd .cmpr_PKT_CNT r = Fld.cut .cmpr_PKT_CNT (s.rd .cmpr_PKT_CNT r + 1))) ∧
    (∀ (bad : Bool) (o : OpenPkt) (j : Job), (s.cmpR r).open_ = some o → o.kind ≠ 0 → o.todo = [] → (s.cmpR r).inq = [] →
        (s.cmpR r).jobs = [j] → j.pkts ≤ (s.cmpR r).pi + 1 → Brings (.chunkComplete t r bad) s (fun u =>
        (u.cmpR r).open_ = none ∧ (u.cmpR r).jobs = [] ∧
        u.rd .cmpr_PKT_CNT r = Fld.cut .cmpr_PKT_CNT (s.rd .cmpr_PKT_CNT r + 1))) ∧
    (∀ (k : Fin 5) (tab : List Nat), (s.ctx r k).building = some tab → Brings (.dynTableReady t r k) s (fun u =>
        (u.ctx r k).dyn = some tab ∧ (u.ctx r k).building = none)) ∧
    (∀ (o : OpenPkt) (t0 : Nat), (s.cmpR r).open_ = some o → (s.cmpR r).stallAt = some t0 → s.rd .cmpr_STALL_LIMIT r ≠ 0 →
        t0 + s.rd .cmpr_STALL_LIMIT r * usFu ≤ t → (o.kind = 0 ∨ (s.cmpR r).jobs ≠ []) → Brings (.stallLimit t r) s (fun u =>
        u.flag .cmpr_FORCED r = true ∧ Raised u clsCompression 1 (unitRegion r))) ∧
    Brings (.cmpAbort t r) s (fun u => bit u.seq.zero r = true ∧ u.seq.draining[r] = 0 ∧ u.flag .pfer_FE_EN r = false ∧
        u.flag .tdcr_TDC_EN r = false) ∧
    (∀ (who : Fin 10), s.flag .cmpr_CTX_VIEW r = true → Brings (.ctxDataRead t (r, who)) s (fun u =>
        u.lastRead = (s.cmpR r).buf.getD (s.rd .cmpr_CTX_IDX r) 0 ∧
        u.rd .cmpr_CTX_IDX r = (s.rd .cmpr_CTX_IDX r + 1) % 32 ∧ u.cmp = s.cmp ∧ u.ctl = s.ctl)) ∧
    (∀ (who : Fin 10) (ws : List Nat), s.flag .cmpr_CTX_VIEW r = false → s.rd .cmpr_CTX_IDX r = 0 →
        ws = (s.ctx r (s.rd .cmpr_CTX_KIND r)).record r (s.rd .cmpr_CTX_KIND r) → Brings (.ctxDataRead t (r, who)) s (fun u =>
        u.lastRead = ws.getD 0 0 ∧ u.ctl.snaps[who] = some ⟨cmpPage r, 0x54, false, ws⟩ ∧ u.rd .cmpr_CTX_IDX r = 1 ∧
        u.cmp = s.cmp)) ∧
    (∀ (who : Fin 10) (ws : List Nat), s.flag .cmpr_CTX_VIEW r = false → s.rd .cmpr_CTX_IDX r ≠ 0 →
        s.ctl.snaps[who] = some ⟨cmpPage r, 0x54, false, ws⟩ → Brings (.ctxDataRead t (r, who)) s (fun u =>
        u.lastRead = ws.getD (s.rd .cmpr_CTX_IDX r) 0 ∧ u.rd .cmpr_CTX_IDX r = (s.rd .cmpr_CTX_IDX r + 1) % 32 ∧
        u.cmp = s.cmp ∧ u.ctl = s.ctl)) ∧
    (∀ (who : Fin 10), s.flag .cmpr_CTX_VIEW r = false → s.rd .cmpr_CTX_IDX r ≠ 0 → s.ctl.snaps[who] = none →
        Brings (.ctxDataRead t (r, who)) s (fun u => u.lastRead = ((s.ctx r (s.rd .cmpr_CTX_KIND r)).record r (s.rd
        .cmpr_CTX_KIND r)).getD (s.rd .cmpr_CTX_IDX r) 0 ∧
        u.rd .hdr_SNAP_MISS (cmpPage r) = Fld.cut .hdr_SNAP_MISS (s.rd .hdr_SNAP_MISS (cmpPage r) + 1) ∧ u.cmp = s.cmp)) ∧
    (∀ (v : WriterWord), s.flag .cmpr_CTX_VIEW r = true → s.rd .cmpr_CTX_IDX r ≠ 31 → Brings (.ctxDataWrite t r v) s (fun u =>
        (cmpPage r, ctxPlace (s.rd .cmpr_CTX_IDX r), v.word.toNat) ∈ u.ctl.stage[v.who] ∧ u.cmp = s.cmp ∧
        u.rd .cmpr_CTX_IDX r = (s.rd .cmpr_CTX_IDX r + 1) % 32)) ∧
    (∀ (v : WriterWord) (ws : List Nat), s.flag .cmpr_CTX_VIEW r = true → s.rd .cmpr_CTX_IDX r = 31 → ws.length = 31 →
        s.ctl.stage[v.who] = ws.zipIdx.map (fun e => (cmpPage r, ctxPlace e.2, e.1)) → (s.cmpR r).buf.length = 32 →
        Brings (.ctxDataWrite t r v) s (fun u => (u.cmpR r).buf = ws ++ [v.word.toNat] ∧ u.ctl.stage[v.who] = [] ∧
        u.rd .cmpr_CTX_IDX r = 0)) ∧
    (∀ (v : WriterWord), s.flag .cmpr_CTX_VIEW r = false → Brings (.ctxDataWrite t r v) s (fun u => u.cmp = s.cmp ∧
        u.ctl.stage[v.who] = [] ∧ u.flag .cmpr_CFG_ERR r = true)) ∧
    (∀ (b : List Nat), b = (s.cmpR r).buf.flatMap (bytesLE 4) → s.flag .cmpr_CTX_LOAD_BUSY r = false →
        b.getD 0 0 = 16 * s.rd .cmpr_CTX_KIND r + r → ofBytesLE (b.drop 124) = crc32c (b.take 124) → (∀ d,
        (ctxOf b (s.ctx r (s.rd .cmpr_CTX_KIND r))).dyn = some d → CodeTab.valid d = true) →
        Brings (.ctxLoad t r) s (fun u => (u.cmpR r).load = some (s.rd .cmpr_CTX_KIND r,
        ctxOf b (s.ctx r (s.rd .cmpr_CTX_KIND r))) ∧ u.flag .cmpr_CTX_LOAD_BUSY r = true)) ∧
    (s.flag .cmpr_CTX_LOAD_BUSY r = true → Brings (.ctxLoad t r) s (fun u => u.cmp = s.cmp ∧ u.flag .cmpr_CFG_ERR r = true))

/-- R162, R175, R176, R179 to R182: a waiting source granted room, a slot patch accepted, an item held too long, a fabric
word read. -/
def Obligations.FabricCommandsComplete : Prop :=
  ∀ (s : State) (t : Nat), s.alive .que = true →
    (∀ (src : Fin 21) (r : Fin 16) (o : OpenPkt) (x : Nat) (k : Nat), src.val = r.val → (s.cmpR r).jobs = [] →
        (s.cmpR r).open_ = some o → o.kind = 0 → (o.cur.length < 256 ∧ o.elems + o.cur.length < 4096) →
        (s.cmpR r).inq = [.word x k] → (s.cmpR r).dead ≠ some k → (∀ b, (s.cmpR r).blk = some b → b.tick = k) →
        chunkSpace (o.cur ++ [eventItem o.tab o.prev x]) ≤ ((s.at t).askRoom o [eventItem o.tab o.prev x]).2 →
        Brings (.grantAvailable t src) s (fun u => (u.cmpR r).inq = [] ∧ (u.cmpR r).stallAt = none ∧
        (u.cmpR r).open_.any (fun p => p.cur == o.cur ++ [eventItem o.tab o.prev x]) = true)) ∧
    (∀ (p : Patch) (l : List Patch) (x : State), s.que.patches = p :: l → (s.at t).patchIn p.pid p.prod p.val = some x →
        Brings (.patchAccept t) s (fun u => u.que.patches = l ∧ u.cab = x.cab)) ∧
    (∀ (p : Patch) (l : List Patch), s.que.patches = p :: l → (s.at t).patchIn p.pid p.prod p.val = none →
        Brings (.patchAccept t) s (fun u => u.que = s.que ∧ u.cab = s.cab ∧ u.reg = s.reg)) ∧
    (∀ (i : Nat) (x : QItem), s.item i = some x → x.holdable = true → x.since + s.rd .que_HOLD_LIMIT * usFu ≤ t →
        Brings (.holdLimit t i) s (fun u =>
        u.rd .que_HELD_CNT = Fld.cut .que_HELD_CNT (s.rd .que_HELD_CNT + b2n x.up + b2n x.eth) ∧ ∀ y, u.item i = some y →
        y.up = false ∧ y.eth = false)) ∧
    (∀ (i : Nat) (n : Nat), Brings (.fabricWordRead t i n .good) s (fun u => u.que = s.que ∧ u.reg = s.reg)) ∧
    (∀ (i : Nat) (n : Nat) (lane : Fin 8), Brings (.fabricWordRead t i n (.corrected lane)) s (fun u => u.que = s.que ∧
        u.rd .que_CORR = Fld.cut .que_CORR (s.rd .que_CORR + 1))) ∧
    (∀ (i : Nat) (n : Nat) (x : QItem) (res : WordRead), s.item i = some x → (res = .uncorrectable ∨ res = .badTag) →
        Brings (.fabricWordRead t i n res) s (fun u =>
        u.rd .que_UNCORR = Fld.cut .que_UNCORR (s.rd .que_UNCORR + 1) ∧ u.flag .que_UNCORR_SEEN = true ∧
        Raised u clsQueue 1 unitModule))

/-- R185, R189, R190, R209: the commands on shelves and reels while no command runs: what each adds or takes out, its
CMD_RES, and the refusals that leave the cabinet as it is. -/
def Obligations.ShelfCommandsComplete : Prop :=
  ∀ (s : State) (t : Nat), s.alive .cab = true → s.flag .cab_CMD_BUSY = false →
    (∀ (x : Shelf), x = ⟨bits (s.rd .cab_CMD_ARG0) 0 4, bit (s.rd .cab_CMD_ARG0) 4, bits (s.rd .cab_CMD_ARG1) 0 7,
        bits (s.rd .cab_CMD_ARG1) 8 7⟩ → x.units ≠ 0 → x.base + x.units ≤ 126 → (∀ h ∈ s.cab.shelves, h.n ≠ x.n ∧
        (x.base + x.units ≤ h.base ∨ h.base + h.units ≤ x.base)) → Brings (.shelfDef t) s (fun u =>
        u.cab.shelves = s.cab.shelves ++ [x] ∧ u.rd .cab_CMD_RES = 0)) ∧
    (bits (s.rd .cab_CMD_ARG1) 8 7 = 0 → Brings (.shelfDef t) s (fun u => u.rd .cab_CMD_RES = 1 ∧
        u.flag .cab_CFG_ERR = true ∧ u.cab = s.cab)) ∧
    (s.cab.shelves.any (fun h => h.n == bits (s.rd .cab_CMD_ARG0) 0 4) = true →
        s.cab.reels.any (fun r => r.shelf == bits (s.rd .cab_CMD_ARG0) 0 4) = false → Brings (.shelfDel t) s (fun u =>
        u.cab.shelves = s.cab.shelves.filter (fun h => h.n != bits (s.rd .cab_CMD_ARG0) 0 4) ∧ u.rd .cab_CMD_RES = 0)) ∧
    (s.cab.shelves.any (fun h => h.n == bits (s.rd .cab_CMD_ARG0) 0 4) = true →
        s.cab.reels.any (fun r => r.shelf == bits (s.rd .cab_CMD_ARG0) 0 4) = true → Brings (.shelfDel t) s (fun u =>
        u.rd .cab_CMD_RES = 3 ∧ u.flag .cab_CFG_ERR = true ∧ u.cab = s.cab)) ∧
    (∀ (n : Nat) (k : Nat) (h : Shelf) (b : Nat), (n = bits (s.rd .cab_CMD_ARG0) 0 6 ∧
        k = bits (s.rd .cab_CMD_ARG1) 0 20) → (2 ≤ k ∧ k ≤ 121434) → (bits (s.rd .cab_CMD_ARG0) 13 2 = 0 ∨
        bits (s.rd .cab_CMD_ARG0) 13 2 = 1) → s.reel n = none →
        s.cab.shelves.find? (fun h => h.n == bits (s.rd .cab_CMD_ARG0) 8 4) = some h → s.firstFit h k = some b →
        Brings (.reelDef t) s (fun u =>
        u.cab.reels = s.cab.reels ++
        [{ n := n, shelf := h.n, base := b, exts := k, ring := bit (s.rd .cab_CMD_ARG0) 12,
            policy := bits (s.rd .cab_CMD_ARG0) 13 2 }]
        ∧ u.rd .cab_CMD_RES = 0)) ∧
    ((bits (s.rd .cab_CMD_ARG1) 0 20 < 2 ∨ 121434 < bits (s.rd .cab_CMD_ARG1) 0 20) → Brings (.reelDef t) s (fun u =>
        u.rd .cab_CMD_RES = 1 ∧ u.flag .cab_CFG_ERR = true ∧ u.cab = s.cab)) ∧
    (∀ (n : Nat), n = bits (s.rd .cab_CMD_ARG0) 0 6 → (s.reel n).isSome = true → s.reelBusy n = false →
        Brings (.reelDel t) s (fun u => u.reel n = none ∧ (∀ p ∈ u.cab.pkts, p.reel ≠ n) ∧ (∀ p ∈ u.cab.takes,
        p.reel ≠ n) ∧ u.rd .cab_CMD_RES = 0)) ∧
    ((s.reel (bits (s.rd .cab_CMD_ARG0) 0 6)).isSome = true → s.reelBusy (bits (s.rd .cab_CMD_ARG0) 0 6) = true →
        Brings (.reelDel t) s (fun u => u.rd .cab_CMD_RES = 3 ∧ u.flag .cab_CFG_ERR = true ∧ u.cab = s.cab)) ∧
    (∀ (n : Nat) (r : Reel), n = bits (s.rd .cab_CMD_ARG0) 0 6 → s.reel n = some r → s.reelBusy n = false →
        Brings (.reelClear t) s (fun u => u.reel n = some { r with alloc := 0, live := [], full := false, gaps := [] } ∧
        (∀ p ∈ u.cab.pkts, p.reel ≠ n) ∧ u.rd .cab_CMD_RES = 0)) ∧
    (s.reel (bits (s.rd .cab_CMD_ARG0) 0 6) = none → Brings (.reelClear t) s (fun u => u.rd .cab_CMD_RES = 4 ∧
        u.flag .cab_CFG_ERR = true ∧ u.cab = s.cab)) ∧
    Brings (.cmdOpReserved t) s (fun u => u.flag .cab_CFG_ERR = true ∧ u.cab = s.cab)

/-- R192, R194, R209: the commands on takes while no command runs. Start and stop wait for their tick with CMD_BUSY set and
CMD_RES 0xFF; a tick that does not lie ahead is refused. -/
def Obligations.TakeCommandsComplete : Prop :=
  ∀ (s : State) (t : Nat), s.alive .cab = true → s.flag .cab_CMD_BUSY = false →
    (∀ (n : Nat), n = bits (s.rd .cab_CMD_ARG0) 0 6 → (s.reel n).isSome = true → (∀ x ∈ s.cab.takes, x.reel = n →
        x.st ≠ 1) → (s.at t).tickAhead (s.at t).tickTime (s.rd .cab_CMD_TICK) = true → s.cab.takes.length < 262144 →
        Brings (.takeStart t) s (fun u => u.rd .cab_CMD_OUT = (s.cab.lastTake + 1) % 2 ^ 32 ∧ u.flag .cab_CMD_BUSY = true ∧
        u.rd .cab_CMD_RES = 0xFF ∧ u.cab.cmd = some (6, (s.cab.lastTake + 1) % 2 ^ 32, s.rd .cab_CMD_TICK, n) ∧
        u.cab.takes = s.cab.takes)) ∧
    ((s.reel (bits (s.rd .cab_CMD_ARG0) 0 6)).isSome = true → (∀ x ∈ s.cab.takes, x.reel = bits (s.rd .cab_CMD_ARG0) 0 6 →
        x.st ≠ 1) → (s.at t).tickAhead (s.at t).tickTime (s.rd .cab_CMD_TICK) = false → Brings (.takeStart t) s (fun u =>
        u.rd .cab_CMD_RES = 5 ∧ u.flag .cab_CFG_ERR = true ∧ u.cab = s.cab)) ∧
    (∀ (x : Take), s.take (s.rd .cab_CMD_ARG0) = some x → x.st = 1 →
        (s.at t).tickAhead (s.at t).tickTime (s.rd .cab_CMD_TICK) = true → Brings (.takeStop t) s (fun u =>
        u.flag .cab_CMD_BUSY = true ∧ u.rd .cab_CMD_RES = 0xFF ∧ u.cab.cmd = some (7, x.num, s.rd .cab_CMD_TICK, x.reel) ∧
        u.cab.takes = s.cab.takes)) ∧
    (s.take (s.rd .cab_CMD_ARG0) = none → Brings (.takeStop t) s (fun u => u.rd .cab_CMD_RES = 4 ∧
        u.flag .cab_CFG_ERR = true ∧ u.cab = s.cab)) ∧
    (∀ (x : Take) (r : Reel), s.take (s.rd .cab_CMD_ARG0) = some x → s.reel x.reel = some r → r.ring = true →
        s.offloading x.num = false → x.st ≠ 1 → Brings (.takeRelease t) s (fun u =>
        u.take (s.rd .cab_CMD_ARG0) = some { x with st := 3 } ∧ u.rd .cab_CMD_RES = 0)) ∧
    (∀ (x : Take) (r : Reel), s.take (s.rd .cab_CMD_ARG0) = some x → s.reel x.reel = some r → r.ring = true → x.st = 1 →
        Brings (.takeRelease t) s (fun u => u.rd .cab_CMD_RES = 3 ∧ u.flag .cab_CFG_ERR = true ∧ u.cab = s.cab)) ∧
    (∀ (x : Take) (r : Reel), s.take (s.rd .cab_CMD_ARG0) = some x → s.reel x.reel = some r → r.ring = true →
        s.offloading x.num = false → x.st ≠ 1 → Brings (.takeDelete t) s (fun u => u.take (s.rd .cab_CMD_ARG0) = none ∧
        (u.reel x.reel).map (fun y => (y.alloc, y.live)) = some (r.alloc, r.live) ∧ u.rd .cab_CMD_RES = 0)) ∧
    (∀ (x : Take), s.take (s.rd .cab_CMD_ARG0) = some x → Brings (.dirRead t) s (fun u =>
        u.rd .cab_DIR_DATA = Fld.cut .cab_DIR_DATA (ofBytesLE (s.dirEntry x)) ∧ u.rd .cab_CMD_RES = 0 ∧ u.cab = s.cab))

/-- R195 to R197, R198, R201, R205, R207, R209: a group written, a merge operation done, an offload started, aborted and
done, a scrub group read, a repair run and done, and the words an SRAM scrub finds. -/
def Obligations.StoreCommandsComplete : Prop :=
  ∀ (s : State) (t : Nat), s.alive .cab = true → s.alive .edc = true →
    (∀ (prod : Fin 24) (reel : Fin 64) (w : Slot) (r : Reel) (x : Ext), s.slotOf prod reel = some w →
        s.reel reel = some r → s.slotFull w = true → r.live.find? (fun y => y.seq == w.ext) = some x → (∀ y ∈ s.que.items,
        y.prod ≠ prod.val) → Brings (.groupWrite t prod reel) s (fun u => u.slotOf prod reel = none ∧
        (u.reel reel).any (fun q => q.live.any (fun y => y.seq == w.ext && y.groups == x.groups + 1)) = true)) ∧
    (∀ (errs : List (Nat × Nat)) (p : Nat) (l : List MergeOp), s.cab.merge = .poison p :: l →
        s.cab.wait = [] → Brings (.mergeOpDone t errs) s (fun u => u.cab.merge = l)) ∧
    (s.flag .cab_OFL_BUSY = false → s.take (s.rd .cab_OFL_TAKE) = none → Brings (.oflStart t) s (fun u =>
        u.flag .cab_OFL_BUSY = false ∧ u.rd .cab_OFL_STATE = 2 ∧ u.cab.ofl = none ∧ u.rd .cab_OFL_DONE = 0)) ∧
    (∀ (x : Take) (o : Nat) (p : PktRef) (l : List (Nat × PktRef)), s.flag .cab_OFL_BUSY = false →
        s.take (s.rd .cab_OFL_TAKE) = some x → s.takePkts x (s.rd .cab_OFL_FROM) = (o, p) :: l → s.inReel p = true →
        (s.at t).oflOne p = none → Brings (.oflStart t) s (fun u => u.flag .cab_OFL_BUSY = true ∧ u.rd .cab_OFL_STATE = 1 ∧
        u.cab.ofl = some ⟨s.rd .cab_OFL_TAKE, s.rd .cab_OFL_FROM, []⟩ ∧ u.rd .cab_OFL_DONE = 0 ∧ u.que = s.que)) ∧
    (∀ (x : Take) (o : Nat) (p : PktRef) (y : State), s.flag .cab_OFL_BUSY = false →
        s.take (s.rd .cab_OFL_TAKE) = some x → s.takePkts x (s.rd .cab_OFL_FROM) = [(o, p)] → s.inReel p = true →
        (s.at t).oflOne p = some y → Brings (.oflStart t) s (fun u => u.que.items = y.que.items ∧ u.cab.ofl = none ∧
        u.flag .cab_OFL_BUSY = false ∧ u.rd .cab_OFL_STATE = 2 ∧
        u.rd .cab_OFL_DONE = Fld.cut .cab_OFL_DONE (o + min p.len (extBytes - p.off) - s.rd .cab_OFL_FROM))) ∧
    (s.flag .cab_OFL_BUSY = true → Brings (.oflStart t) s (fun u => u.cab = s.cab ∧
        u.rd .cab_OFL_STATE = s.rd .cab_OFL_STATE ∧ u.flag .cab_OFL_BUSY = true)) ∧
    (s.flag .cab_OFL_BUSY = true → Brings (.oflAbort t) s (fun u => u.flag .cab_OFL_BUSY = false ∧
        u.rd .cab_OFL_STATE = 3 ∧ u.cab.ofl = none)) ∧
    (∀ (o : Ofl) (x : Take), s.cab.ofl = some o → s.take o.take = some x → s.takePkts x o.off = [] →
        Brings (.offloadDone t) s (fun u => u.flag .cab_OFL_BUSY = false ∧ u.rd .cab_OFL_STATE = 2 ∧ u.cab.ofl = none)) ∧
    (∀ (errs : List (Nat × Nat)) (both : Bool), s.flag .cab_SCRUB_EN = true → s.mergeRoom = true →
        s.cab.passDone + 1 < sysGroups → Brings (.scrubGroupRead t errs both) s (fun u =>
        u.cab.passDone = s.cab.passDone + 1)) ∧
    (∀ (errs : List (Nat × Nat)) (both : Bool), s.flag .cab_SCRUB_EN = false →
        Brings (.scrubGroupRead t errs both) s (fun u => u.cab = s.cab ∧ u.edc = s.edc)) ∧
    (s.pwr = .ready → Brings (.repairRun t) s (fun u => u.flag .cab_REPAIR_BUSY = true)) ∧
    (s.pwr ≠ .ready → Brings (.repairRun t) s (fun u => u.flag .cab_CFG_ERR = true ∧
        u.flag .cab_REPAIR_BUSY = s.flag .cab_REPAIR_BUSY)) ∧
    (∀ (ok : List Bool), s.flag .cab_REPAIR_BUSY = true → s.pwr = .ready → Brings (.repairDone t ok) s (fun u =>
        u.flag .cab_REPAIR_BUSY = false ∧
        u.edc.remap = s.edc.remap.filter (fun e => !((s.edc.remap.zip ok).any (fun q => q.1 == e && q.2))))) ∧
    (∀ (ok : List Bool), s.pwr ≠ .ready → Brings (.repairDone t ok) s (fun u => u.edc = s.edc ∧ u.cab = s.cab ∧
        u.flag .cab_REPAIR_BUSY = s.flag .cab_REPAIR_BUSY)) ∧
    (∀ (h : SramHit), h.uncorr = false → Brings (.sramScrub t [h]) s (fun u =>
        u.rd .edc_SRAM_CORR = Fld.cut .edc_SRAM_CORR (s.rd .edc_SRAM_CORR + 1))) ∧
    (∀ (h : SramHit) (r : Fin 16), h.uncorr = true → h.mac = .bank r → Brings (.sramScrub t [h]) s (fun u =>
        u.rd .edc_SRAM_UNCORR = Fld.cut .edc_SRAM_UNCORR (s.rd .edc_SRAM_UNCORR + 1) ∧ Raised u clsMemory 3 (unitRegion r)))

/-- R213, R214, R217 to R226: what the commands of one lane bring about: the hunt alternates, locks and fails; blocks and
FILLs are read; HELLOs are sent, read and compared; training, the compatibility sweep and their timeouts; loss of signal or
lock; the end of a backoff. -/
def Obligations.LaneBringUpCommandsComplete : Prop :=
  ∀ (s : State) (t : Nat) (l : Fin 10) (j : Fin 2), s.alive .lnk = true → s.laneOk l j = true →
    (s.laneSt l j = laHunt → s.rd .lnk_REV_CAP = 2 → (s.lane l j).only = false →
        (s.lane l j).since + (if isUplink l then 25 * msFu else 10 * msFu) ≤ t → Brings (.rateHuntSwitch t l j) s (fun u =>
        (u.lane l j).rate = 3 - (s.lane l j).rate ∧ (u.lane l j).since = (s.at t).clock ∧ u.laneSt l j = laHunt)) ∧
    (s.laneSt l j = laHunt → (s.lane l j).hdrs = List.replicate 64 true →
        Brings (.blockLock t l j) s (fun u => u.laneSt l j = laHello ∧
        (u.lane l j).lockAt = (s.at t).clock ∧ (u.lane l j).heard = false)) ∧
    ((s.laneSt l j < laHello ∨ (s.lane l j).hdrs.countP (fun b => !b) < 16) → Brings (.lockLoss t l j) s (fun u =>
        u.lnk = s.lnk ∧ u.reg = s.reg)) ∧
    ((laHello ≤ s.laneSt l j ∧ s.laneSt l j ≤ laAlign) → 16 ≤ (s.lane l j).hdrs.countP (fun b => !b) →
        Brings (.lockLoss t l j) s (fun u => u.laneSt l j = laBackoff ∧
        u.rd .lnk_LOSS_CNT l = Fld.cut .lnk_LOSS_CNT (s.rd .lnk_LOSS_CNT l + 1) ∧
        u.rd .lnk_TRAIN_FAIL l = Fld.cut .lnk_TRAIN_FAIL (s.rd .lnk_TRAIN_FAIL l + 1) ∧
        u.rd .lnk_BACKOFF_NOW (laneIx l j) = Fld.cut .lnk_BACKOFF_NOW (min 256 (2 * s.rd .lnk_BACKOFF_NOW (laneIx l j))))) ∧
    (s.laneSt l j < laHello → Brings (.lossOfSignal t l j) s (fun u => (u.lane l j).los = true ∧
        u.laneSt l j = s.laneSt l j ∧ u.rd .lnk_LOSS_CNT l = Fld.cut .lnk_LOSS_CNT (s.rd .lnk_LOSS_CNT l + 1))) ∧
    Brings (.signalReturn t l j) s (fun u => (u.lane l j).los = false ∧ u.laneSt l j = s.laneSt l j) ∧
    (∀ (line : List Bool) (k : List Bool) (run : Bool × Nat) (e : Nat), destuff ((s.lane l j).runBit,
        (s.lane l j).runLen) line = (k, run, e) → k.length = 130 → (k.take 2 = [true, true] ∨ k.take 2 = [false, false]) →
        Brings (.lineBlockRx t l j line) s (fun u =>
        u.rd .lnk_BLK_ERR (laneIx l j) = Fld.cut .lnk_BLK_ERR (s.rd .lnk_BLK_ERR (laneIx l j) + 1) ∧
        (u.lane l j).runBit = run.1 ∧ (u.lane l j).runLen = run.2)) ∧
    (∀ (scr : BitVec 31) (n : Fin 33), (12 ≤ n.val ∧ n.val ≤ 20) → Brings (.fillRx t l j scr n) s (fun u =>
        (u.lane l j).rx = some scr.toNat ∧ (u.lane l j).elastic = n.val)) ∧
    (∀ (scr : BitVec 31) (n : Fin 33) (r : Nat), (s.lane l j).rx = some r → r ≠ scr.toNat →
        Brings (.fillRx t l j scr n) s (fun u => (u.lane l j).rx = some scr.toNat ∧
        u.rd .lnk_SCR_ERR l = Fld.cut .lnk_SCR_ERR (s.rd .lnk_SCR_ERR l + 1))) ∧
    (laHello ≤ s.laneSt l j → (s.lane l j).ackGot = false → Brings (.helloTx t l j) s (fun u =>
        u.out = .hello l j ((s.at t).helloNow l j false) :: s.out ∧
        (u.lane l j).ackSent = ((s.lane l j).ackSent || (s.lane l j).ack))) ∧
    (∀ (h : Hello), laHello ≤ s.laneSt l j → (s.lane l j).rx.isSome = true → s.miswired l j h = false →
        Brings (.helloRx t l j h) s (fun u =>
        (u.lane l j).heard = true ∧ u.rd .lnk_PARTNER_ID l = h.moduleId.toNat ∧ u.rd .lnk_PARTNER_FEAT l = h.feat.toNat ∧
        u.rd .lnk_PARTNER_PORT l = h.port.toNat ∧ (s.laneSt l j = laHello →
        u.rd .lnk_LINK_REV l = Fld.cut .lnk_LINK_REV (min (s.rd .lnk_REV_CAP) h.revMax.toNat)))) ∧
    (∀ (h : Hello), (s.laneSt l j < laHello ∨ (s.lane l j).rx = none) → Brings (.helloRx t l j h) s (fun u => u.lnk = s.lnk ∧
        u.reg = s.reg)) ∧
    (∀ (h : Hello), laHello ≤ s.laneSt l j → (s.lane l j).rx.isSome = true → s.miswired l j h = true →
        (s.lane l j).mis = false →
        Brings (.helloRx t l j h) s (fun u => (u.lane l j).ack = false ∧ (u.lane l j).mis = true ∧
        u.rdBit .lnk_MISWIRE 0 (portOf l) = true ∧ u.rd .lnk_LINK_REV l = s.rd .lnk_LINK_REV l ∧
        Raised u clsTopology 1 (unitLink l))) ∧
    (∀ (t0 : Nat), (s.lane l j).switchAt = some t0 → t0 ≤ t → s.laneSt l j = laHello → Brings (.revSwitch t l j) s (fun u =>
        u.laneSt l j = laHunt ∧ (u.lane l j).rate = s.rd .lnk_LINK_REV l ∧ (u.lane l j).only = true)) ∧
    (s.laneSt l j = laHunt → (s.lane l j).only = true → (s.lane l j).since + 100 * msFu ≤ t →
        Brings (.relockTimeout t l j) s (fun u => u.laneSt l j = laBackoff ∧
        u.rd .lnk_TRAIN_FAIL l = Fld.cut .lnk_TRAIN_FAIL (s.rd .lnk_TRAIN_FAIL l + 1))) ∧
    (s.laneSt l j = laHello → (s.lane l j).heard = false → (s.lane l j).lockAt + 200 * msFu ≤ t →
        Brings (.helloTimeout t l j) s (fun u => u.laneSt l j = laBackoff ∧
        u.rd .lnk_TRAIN_FAIL l = Fld.cut .lnk_TRAIN_FAIL (s.rd .lnk_TRAIN_FAIL l + 1))) ∧
    (s.laneSt l j = laHello → (s.lane l j).heard = false → ((s.lane l j).lockAt + 20 * msFu ≤ t ∧
        (s.at t).clock < (s.lane l j).lockAt + 200 * msFu) → Brings (.helloTimeout t l j) s (fun u =>
        u.laneSt l j = laHello ∧ u.flag .lnk_EQ_COMPAT (laneIx l j) = true ∧
        u.rd .lnk_TX_PRE (laneIx l j) = Fld.cut .lnk_TX_PRE (s.rd .lnk_COMPAT_PRE l))) ∧
    (∀ (m : Train), s.laneSt l j = laTrain → (s.lane l j).ready = false → (s.lane l j).echo = none → m.preset = true →
        Brings (.trainRx t l j m) s (fun u => (u.lane l j).echo = some (m.reqSeq.toNat, 1, 1) ∧
        u.rd .lnk_TX_PRE (laneIx l j) = 4 ∧ u.rd .lnk_TX_POST (laneIx l j) = 12 ∧
        u.out = .train l j (u.trainNow l j) 4 12 :: s.out)) ∧
    (s.laneSt l j = laTrain → (s.lane l j).partnerReady = false → Brings (.rxReady t l j) s (fun u =>
        (u.lane l j).ready = true ∧ u.laneSt l j = laTrain)) ∧
    (s.laneSt l j = laTrain → (s.lane l j).partnerReady = true → s.striped l = true → s.laneSt l (otherLane j) ≠ laUp →
        Brings (.rxReady t l j) s (fun u => u.laneSt l j = laAlign)) ∧
    (s.laneSt l j = laTrain → (s.lane l j).since + 500 * msFu ≤ t → Brings (.trainTimeout t l j) s (fun u =>
        u.laneSt l j = laBackoff ∧ u.rd .lnk_TRAIN_FAIL l = Fld.cut .lnk_TRAIN_FAIL (s.rd .lnk_TRAIN_FAIL l + 1))) ∧
    (s.laneSt l j = laTrain → (s.at t).clock < (s.lane l j).since + 500 * msFu → (s.lane l j).trainAt = none →
        (s.lane l j).lockAt + 20 * msFu ≤ t → Brings (.trainTimeout t l j) s (fun u => u.laneSt l j = laCompat ∧
        (u.lane l j).sweep = [])) ∧
    (∀ (bad : Nat) (margin : Nat) (t0 : Nat), (s.laneSt l j = laCompat ∨ s.laneSt l j = laHello) →
        (s.lane l j).sweep.length < 15 → (s.lane l j).sweepAt = some t0 →
        t0 + 100 * usFu * ((s.lane l j).sweep.length + 1) ≤ t →
        Brings (.compatSweepStep t l j bad margin) s (fun u => (u.lane l j).sweep = (s.lane l j).sweep ++ [(bad, margin)] ∧
        u.rd .lnk_CTLE (laneIx l j) = (s.lane l j).sweep.length + 1)) ∧
    (s.laneSt l j = laBackoff → (s.lane l j).until_ ≤ t → s.laneOn l j = true → Brings (.backoffDone t l j) s (fun u =>
        u.laneSt l j = laHunt ∧ (u.lane l j).rate = s.huntRate ∧ (u.lane l j).only = false)) ∧
    (s.laneSt l j = laBackoff → (s.lane l j).until_ ≤ t → s.laneOn l j = false → Brings (.backoffDone t l j) s (fun u =>
        u.laneSt l j = laDisabled))

/-- R227 to R233, R236, R242 to R244: the commands of one link: ALIGN pairs, frames and trigger blocks sent and received,
acknowledgements and replays, heartbeats, the use of two lanes, and the aborts of its port and lanes. -/
def Obligations.LinkCommandsComplete : Prop :=
  ∀ (s : State) (t : Nat) (l : Fin 10), s.alive .lnk = true →
    (s.striped l = true → (s.alignOk l 0 = true ∧ s.alignOk l 1 = true) → (s.laneSt l 0 = laAlign ∨
        8192 ≤ (s.link l).blk) → Brings (.alignTx t l) s (fun u =>
        u.out = .align l (s.link l).alignSeq :: s.out ∧ (u.link l).alignSeq = ((s.link l).alignSeq + 1) % 65536 ∧
        (u.link l).blk = 0)) ∧
    (∀ (a : BitVec 16) (b : BitVec 16) (skew : Nat), s.striped l = true → (a ≠ b ∨ 12 < skew) → s.linkUp l = true →
        Brings (.alignRx t l a b skew) s (fun u => (u.link l).discard = true ∧ u.flag .lnk_ALIGN_ERR l = true)) ∧
    (∀ (a : BitVec 16) (b : BitVec 16) (skew : Nat), s.striped l = true → a = b → skew ≤ 12 → s.laneSt l 0 ≠ laAlign →
        Brings (.alignRx t l a b skew) s (fun u => (u.link l).discard = false ∧ u.laneSt l 0 = s.laneSt l 0 ∧
        u.laneSt l 1 = s.laneSt l 1)) ∧
    (∀ (m : V0) (q : List V0), s.pmr.warm = none → s.linkUp l = true → (s.link l).draining = false →
        ((s.at t).evPump.pump0.link l).vc0 = m :: q → s.frameOk l 0 (m.bytes s.myId).length = true →
        Brings (.frameTx t l) s (fun u => (u.link l).vc0 = q ∧ u.out = .v0 l m :: s.out ∧
        (u.link l).txSeq = ((s.link l).txSeq + 1) % 65536 ∧ (u.link l).replay = (s.link l).replay ++
        [{ seq := (s.link l).txSeq, vc := 0, data := m.bytes s.myId, pid := none, item := some m }])) ∧
    (∀ (m : V0) (q : List V0), s.pmr.warm = none → s.linkUp l = true → (s.link l).draining = false →
        ((s.at t).evPump.pump0.link l).vc0 = m :: q → s.frameOk l 0 (m.bytes s.myId).length = false →
        Brings (.frameTx t l) s (fun u => (u.link l).vc0 = m :: q ∧ u.out = s.out ∧ (u.link l).credWait.isSome = true)) ∧
    (s.pmr.warm = none → (s.linkUp l = false ∨ (s.link l).draining = true) → Brings (.frameTx t l) s (fun u =>
        u.lnk = s.lnk ∧ u.out = s.out)) ∧
    (∀ (c : Nat), s.pmr.warm = some c → (s.linkUp l = false ∨ (s.link l).draining = true) → s.owesReply = false →
        Brings (.frameTx t l) s (fun u => u.pwr = .start ∧ u.pmr.cause = c)) ∧
    (∀ (f : RxFrame), s.linkUp l = true → ((s.link l).discard = false ∧ (s.link l).reading = true) → f.ackV = false →
        f.seq.toNat = (s.link l).rxSeq → f.data.length = 16 * (f.n1.toNat + 1) →
        crc32 (f.data.map (·.toNat) ++ bytesLE 2 f.seq.toNat ++ [f.n1.toNat + 32 * f.vc.toNat,
        f.last1.toNat] ++ bytesLE 2 f.ackSeq.toNat) = f.fcrc.toNat → f.vc = 0 →
        (s.link l).got[0] + frameUnits (f.n1.toNat + 1) ≤ (s.link l).adv[0] → (f.data.map (·.toNat)).getD 0 0 = 0x10 →
        Brings (.frameRx t l f) s (fun u => (u.link l).rxSeq = ((s.link l).rxSeq + 1) % 65536 ∧
        (u.link l).ackDue.isSome = true ∧ (u.link l).got[0] = (s.link l).got[0] + frameUnits (f.n1.toNat + 1))) ∧
    (∀ (f : RxFrame), s.linkUp l = true → ((s.link l).discard = false ∧ (s.link l).reading = true) → f.ackV = false →
        f.data.length % 16 = 0 → f.seq.toNat = ((s.link l).rxSeq + 1) % 65536 → (s.link l).nakAt = none →
        (s.link l).rxSeq < 65536 → Brings (.frameRx t l f) s (fun u =>
        u.rd .lnk_CRC_ERR l = Fld.cut .lnk_CRC_ERR (s.rd .lnk_CRC_ERR l + 1) ∧ u.out = .nak l (s.link l).rxSeq :: s.out ∧
        (u.link l).rxSeq = (s.link l).rxSeq ∧ (u.link l).nakAt = some (s.at t).clock)) ∧
    (∀ (n : BitVec 16), s.linkUp l = true → (s.link l).reading = true → (s.link l).draining = false →
        s.linkRole l ≠ roleParent → Brings (.ackRx t l n) s (fun u =>
        (u.link l).replay = (s.link l).replay.filter (fun f => !decide ((n.toNat + 65536 - f.seq) % 65536 < 32768)) ∧
        (u.link l).txSeq = (s.link l).txSeq)) ∧
    (∀ (n : BitVec 16), s.linkUp l = true → (s.link l).reading = true → (s.link l).replays + 1 < s.rd .lnk_RETRY_MAX l →
        Brings (.nakRx t l n) s (fun u => u.rd .lnk_REPLAYS l = Fld.cut .lnk_REPLAYS (s.rd .lnk_REPLAYS l + 1) ∧
        u.out = .replay l n.toNat :: s.out ∧ (u.link l).replays = (s.link l).replays + 1)) ∧
    (∀ (t0 : Nat), s.linkUp l = true → (s.link l).ackDue = some t0 → t0 + 80000 ≤ t → Brings (.ackTx t l) s (fun u =>
        u.out = .ack l (((s.link l).rxSeq + 65535) % 65536) :: s.out ∧ (u.link l).ackDue = none)) ∧
    (s.linkUp l = true → (s.link l).replay ≠ [] → (s.link l).ackAt + s.rd .lnk_REPLAY_TMO l * usFu ≤ t →
        (s.link l).replays + 1 < s.rd .lnk_RETRY_MAX l → Brings (.replayTimeout t l) s (fun u =>
        u.rd .lnk_REPLAYS l = Fld.cut .lnk_REPLAYS (s.rd .lnk_REPLAYS l + 1) ∧
        u.out = .replay l (s.link l).oldest :: s.out ∧ (u.link l).replays = (s.link l).replays + 1 ∧
        (u.link l).ackAt = (s.at t).clock)) ∧
    (s.linkUp l = true → Brings (.heartTx t l) s (fun u => (∃ h : Heart, u.out = .heart l h :: s.out ∧
        h.seq = BitVec.ofNat 8 (s.link l).hbSeq ∧ ∀ v : Fin 5, h.cred[v] = BitVec.ofNat 12 (s.credLimit l v)) ∧
        (u.link l).hbSeq = ((s.link l).hbSeq + 1) % 256)) ∧
    (∀ (h : Heart), s.linkUp l = true → ((s.link l).discard = false ∧ (s.link l).reading = true) → (h.ackV = false ∧
        h.tackV = false) → Brings (.heartRx t l h) s (fun u => (u.link l).hbLast = (s.at t).clock ∧
        (u.link l).cred = h.cred.map (·.toNat))) ∧
    (s.linkUp l = true → (s.link l).hbLast + s.rd .lnk_HB_MISS l * usFu ≤ t → Brings (.silent t l) s (fun u =>
        u.flag .lnk_SILENT l = true ∧ Raised u clsLink 2 (unitLink l))) ∧
    ((s.linkUp l = false ∨ s.pwr = .standby ∨
        (s.trigLink l).out.any (fun e => decide (e.2.2 + 3 * usFu ≤ (s.at t).clock)) = false) →
        Brings (.trigResend t l) s (fun u => u.out = s.out ∧ u.rd .lnk_TRIG_RESEND l = s.rd .lnk_TRIG_RESEND l)) ∧
    (∀ (e : Nat × TBlk × Nat), s.linkUp l = true → s.pwr ≠ .standby → (s.trigLink l).out = [e] → e.2.2 + 3 * usFu ≤ t →
        Brings (.trigResend t l) s (fun u => u.out = .tblk l e.1 (s.blkOut l e.2.1) :: s.out ∧
        u.rd .lnk_TRIG_RESEND l = Fld.cut .lnk_TRIG_RESEND (s.rd .lnk_TRIG_RESEND l + 1))) ∧
    (∀ (lanes : BitVec 2) (ack : Bool), s.linkUp l = true → lanes = 1 → s.laneSt l 1 ≠ laUp →
        Brings (.restripeRx t l lanes ack) s (fun u => (u.link l).reading = true ∧ u.laneSt l 0 = s.laneSt l 0)) ∧
    (∀ (lanes : BitVec 2) (ack : Bool), s.linkUp l = true → lanes = 3 → Brings (.restripeRx t l lanes ack) s (fun u =>
        (u.link l).rejoin = true)) ∧
    ((s.link l).rejoin = true → s.laneSt l 1 = laAlign → s.laneSt l 0 = laUp → s.pwr ≠ .safe →
        Brings (.laneRejoin t l) s (fun u =>
        u.laneSt l 1 = laUp ∧ (u.link l).rejoin = false ∧ u.rdBit .lnk_DEGRADED 0 (portOf l) = false)) ∧
    (∀ (m : BitVec 6), Brings (.portAbort t m) s (fun u => ∀ p : Fin 6, bit m.toNat p = true →
        u.rdBit .lnk_PORT_EN 0 p = false)) ∧
    (∀ (m : BitVec 2), m = 1 → s.laneOk l 0 = true → (laHunt ≤ s.laneSt l 0 ∧ s.laneSt l 0 ≤ laAlign) →
        Brings (.retrain t l m) s (fun u => u.laneSt l 0 = laBackoff ∧
        u.rd .lnk_TRAIN_FAIL l = Fld.cut .lnk_TRAIN_FAIL (s.rd .lnk_TRAIN_FAIL l + 1) ∧
        u.rd .lnk_BACKOFF_NOW (laneIx l 0) = s.rd .lnk_BACKOFF_NOW (laneIx l 0)))

/-- R238 to R240, R254, R262: what a module does with ENUM and ENUM_REPLY, with a wait that ends, with ENUM_START, TOPO and
FEATSET, and with a write of ROLE_SW. -/
def Obligations.EnumerationCommandsComplete : Prop :=
  ∀ (s : State) (t : Nat) (l : Fin 10), s.alive .tre = true → s.linkUp l = true →
    (∀ (src : BitVec 32) (root : BitVec 32) (hop : BitVec 16) (assign : BitVec 32) (feat : BitVec 32), isUplink l = false →
        Brings (.enumRx t l src root hop assign feat) s (fun u => u.flag .tre_TOPO_FAULT = true ∧
        Raised u clsTopology 1 (unitLink l))) ∧
    (∀ (src : BitVec 32) (root : BitVec 32) (hop : BitVec 16) (assign : BitVec 32) (feat : BitVec 32), isUplink l = true →
        s.isRoot = false → s.myId ≠ 0 → assign = 0 → s.linkRole l = roleParent →
        Brings (.enumRx t l src root hop assign feat) s (fun u => u.rd .tre_ROOT_ID = root.toNat ∧
        u.rd .tre_HOP = Fld.cut .tre_HOP (hop.toNat + 1) ∧ u.rd .tre_PEER_ID l = src.toNat ∧
        (u.treLink l).hop = some hop.toNat ∧ u.myId = s.myId)) ∧
    (∀ (id : BitVec 32) (parent : BitVec 32) (role : BitVec 1) (feat : BitVec 32) (fw : BitVec 16) (rev : BitVec 8),
        s.isRoot = true → id = 0 → role = 0 → (∀ e ∈ s.tre.given, e.1 ≠ l.val ∨ e.2.1 ≠ parent.toNat) →
        Brings (.enumReplyRx t l id parent role feat fw rev) s (fun u => u.tre.lastId = s.freeId ∧
        (l.val, parent.toNat, u.tre.lastId) ∈ u.tre.given ∧
        (u.link l).vc0 = (s.link l).vc0 ++ [.enum_ (s.rd .tre_ROOT_ID) (s.rd .tre_HOP) u.tre.lastId (s.rd .tre_TREE_FEAT)])) ∧
    (∀ (id : BitVec 32) (parent : BitVec 32) (role : BitVec 1) (feat : BitVec 32) (fw : BitVec 16) (rev : BitVec 8) (n : Nat),
        s.isRoot = true → id = 0 → role = 0 → parent.toNat = s.myId → s.tre.given = [(l.val, s.myId, n)] → n ≠ 0 →
        Brings (.enumReplyRx t l id parent role feat fw rev) s (fun u => u.tre.lastId = s.tre.lastId ∧
        (u.link l).vc0 = (s.link l).vc0 ++ [.enum_ (s.rd .tre_ROOT_ID) (s.rd .tre_HOP) n (s.rd .tre_TREE_FEAT)])) ∧
    (∀ (id : BitVec 32) (parent : BitVec 32) (role : BitVec 1) (feat : BitVec 32) (fw : BitVec 16) (rev : BitVec 8) (p : Fin
        10), s.isRoot = false → id ≠ 0 → parent.toNat ≠ s.myId → s.parentLink = some p → s.linkUp p = true →
        Brings (.enumReplyRx t l id parent role feat fw rev) s (fun u =>
        (u.link p).vc0 = (s.link p).vc0 ++ [.enumReply id.toNat parent.toNat role.toNat feat.toNat fw.toNat rev.toNat] ∧
        u.reg = s.reg)) ∧
    (∀ (t0 : Nat) (p : Fin 10), s.tre.reply = some (t0, 8, p.val) → s.linkUp p = true → t0 + msFu ≤ t →
        Brings (.enumReplyTimeout t) s (fun u =>
        u.tre.reply = none ∧ u.flag .tre_TOPO_FAULT = true ∧ Raised u clsTopology 1 (unitLink p))) ∧
    (∀ (t0 : Nat), s.tre.readyAt = some t0 → s.isRoot = false → (s.tre.enumSeen = false ∧ s.tre.waitRep = false) →
        t0 + 2 * secFu ≤ t → Brings (.enumWaitTimeout t) s (fun u => u.tre.waitRep = true ∧
        Raised u clsTopology 1 unitModule)) ∧
    (s.isRoot = false → Brings (.enumStart t) s (fun u => u.flag .tre_CFG_ERR = true ∧ u.tre = s.tre ∧ u.lnk = s.lnk)) ∧
    (s.isRoot = true → l ∈ s.downUp → Brings (.enumStart t) s (fun u =>
        .enum_ (s.rd .tre_ROOT_ID) (s.rd .tre_HOP) 0 (s.rd .tre_TREE_FEAT) ∈ (u.link l).vc0)) ∧
    (∀ (child : BitVec 32) (parent : BitVec 32) (no : BitVec 32) (p : Fin 10) (e : SubEnt), s.isRoot = false →
        s.parentLink = some p → s.linkUp p = true → s.subEnt child.toNat = some e →
        Brings (.topoRx t l child parent no) s (fun u =>
        (u.link p).vc0 = (s.link p).vc0 ++ [.topo child.toNat parent.toNat no.toNat] ∧
        (u.subEnt child.toNat).any (fun x => x.parent == parent.toNat && x.link == l.val && x.claimed) = true)) ∧
    (∀ (feat : BitVec 32) (tick : BitVec 48), s.running = false → Brings (.featsetRx t l feat tick) s (fun u =>
        u.rd .tre_TREE_FEAT = Fld.cut .tre_TREE_FEAT feat.toNat ∧ u.flag .tre_FEAT_PEND = false ∧ u.tre.feat = none)) ∧
    (∀ (feat : BitVec 32) (tick : BitVec 48), s.running = true → s.seq.k < tick.toNat →
        Brings (.featsetRx t l feat tick) s (fun u => u.tre.feat = some (feat.toNat, tick.toNat) ∧
        u.flag .tre_FEAT_PEND = true ∧ u.rd .tre_TREE_FEAT = s.rd .tre_TREE_FEAT ∧ u.evb = s.evb)) ∧
    (∀ (v : BitVec 2), v ≠ 3 → Brings (.roleSwWrite t v) s (fun u => u.flash =
        { s.flash with roleSw := v.toNat, seq := s.flash.seq + 1, other := s.flash.boot } ∧
        u.rd .tre_ROLE_SW = v.toNat)) ∧
    (∀ (v : BitVec 2), v = 3 → Brings (.roleSwWrite t v) s (fun u => u.flash = s.flash ∧ u.flag .tre_CFG_ERR = true ∧
        u.rd .tre_ROLE_SW = s.rd .tre_ROLE_SW))

/-- R240, R251 to R254, R256, R258: CLAIM and CLAIM_ACK as the child and the claimant act on them, LOST and its timeout,
DEMOTE, STBY_OK, and a write of CLAIM_REQ. -/
def Obligations.ClaimCommandsComplete : Prop :=
  ∀ (s : State) (t : Nat) (l : Fin 10), s.alive .tre = true → s.linkUp l = true →
    (∀ (no : BitVec 32), isUplink l = true → no.toNat ≤ s.tre.held → Brings (.claimRx t l no) s (fun u =>
        (u.link l).vc0 = (s.link l).vc0 ++ [.claimAck no.toNat 1 s.tre.held] ∧
        u.rd .tre_CLAIM_REFUSED = Fld.cut .tre_CLAIM_REFUSED (s.rd .tre_CLAIM_REFUSED + 1) ∧ u.tre = s.tre)) ∧
    (∀ (no : BitVec 32), isUplink l = true → s.tre.held < no.toNat → s.linkRole l = roleOffered →
        Brings (.claimRx t l no) s (fun u => u.tre.held = no.toNat ∧ u.linkRole l = roleParent ∧
        u.rd .tre_LINK_CLAIM 0 = no.toNat ∧ u.rd .tre_LINK_CLAIM 1 = no.toNat ∧ u.tre.reply = none ∧ u.tre.lost = none ∧
        (u.link l).vc0 = (s.link l).vc0 ++ [.claimAck no.toNat 0 no.toNat])) ∧
    (∀ (no : BitVec 32) (m : Fin 10), isUplink l = true → s.tre.held < no.toNat → s.linkRole l = roleStandbyParent →
        m = (if l = 0 then 1 else 0) → s.linkRole m = roleParent → s.linkUp m = true → Brings (.claimRx t l no) s (fun u =>
        u.tre.held = no.toNat ∧ u.linkRole l = roleParent ∧ u.linkRole m = roleStandbyParent ∧
        u.flag .tre_STBY_OK m = true ∧ (u.link l).vc0 = (s.link l).vc0 ++ [.claimAck no.toNat 0 no.toNat] ∧
        (u.link m).vc0 = (s.link m).vc0 ++ [.demote no.toNat] ∧
        u.tre.log = (if s.tre.held = 0 then s.tre.log
          else if s.feature featStandby then s.tre.log.map (fun e => { e with sent := false }) else []))) ∧
    (∀ (no : BitVec 32) (result : BitVec 1) (held : BitVec 32), (s.treLink l).claimed = some no.toNat → result = 0 →
        Brings (.claimAckRx t l no result held) s (fun u => u.linkRole l = roleChild ∧ u.rd .tre_LINK_CLAIM l = no.toNat ∧
        (u.treLink l).input = true ∧ (u.treLink l).claimed = none ∧ (u.treLink l).noClaim = false ∧
        (u.treLink l).hz = none)) ∧
    (∀ (no : BitVec 32) (result : BitVec 1) (held : BitVec 32), (s.treLink l).claimed = some no.toNat → result = 1 →
        Brings (.claimAckRx t l no result held) s (fun u =>
        u.linkRole l = roleStandbyChild ∧ (u.treLink l).claimed = none ∧
        (u.treLink l).noClaim = true ∧ (u.treLink l).known = max (s.treLink l).known held.toNat)) ∧
    (∀ (no : BitVec 32) (result : BitVec 1) (held : BitVec 32), (s.treLink l).claimed ≠ some no.toNat →
        Brings (.claimAckRx t l no result held) s (fun u => u.tre = s.tre ∧ u.linkRole l = s.linkRole l)) ∧
    (∀ (held : BitVec 32) (g : Nat), s.linkRole l = roleStandbyChild → s.flag .tre_STBY_OK l = true →
        s.feature featStandby = true → g = max (s.treLink l).known held.toNat / 256 + 1 → g < 2 ^ 24 →
        Brings (.lostRx t l held) s (fun u => u.linkRole l = roleClaimSent ∧
        (u.treLink l).claimed = some (256 * g + s.myId % 256) ∧
        (u.link l).vc0 = (s.link l).vc0 ++ [.claim (256 * g + s.myId % 256)])) ∧
    (∀ (held : BitVec 32), s.linkRole l ≠ roleStandbyChild → Brings (.lostRx t l held) s (fun u =>
        u.linkRole l = s.linkRole l ∧ u.lnk = s.lnk ∧ (u.treLink l).known = max (s.treLink l).known held.toNat)) ∧
    (∀ (t0 : Nat) (n : Nat) (p : Fin 10), s.tre.lost = some (t0, n) → n < 3 → t0 + 4 * usFu ≤ t →
        [(0 : Fin 10), 1].find? (fun q => s.linkRole q == roleStandbyParent) = some p → s.linkUp p = true →
        Brings (.lostTimeout t) s (fun u => u.tre.lost = some ((s.at t).clock, n + 1) ∧
        (u.link p).vc0 = (s.link p).vc0 ++ [.lost s.tre.held] ∧ u.reg = s.reg)) ∧
    (∀ (t0 : Nat) (n : Nat), s.tre.lost = some (t0, n) → (s.at t).clock < t0 + 4 * usFu → Brings (.lostTimeout t) s (fun u =>
        u.tre = s.tre ∧ u.lnk = s.lnk ∧ u.reg = s.reg)) ∧
    (∀ (t0 : Nat), s.tre.lost = some (t0, 3) → t0 + 4 * usFu ≤ t → Brings (.lostTimeout t) s (fun u => u.tre.lost = none ∧
        u.flag .tre_TOPO_FAULT = true ∧ Raised u clsTopology 2 unitModule)) ∧
    (∀ (no : BitVec 32), s.linkRole l = roleChild → Brings (.demoteRx t l no) s (fun u => u.linkRole l = roleStandbyChild ∧
        u.flag .tre_STBY_OK l = true ∧ (u.treLink l).input = false ∧ (u.treLink l).noClaim = true ∧
        (u.treLink l).known = max (s.treLink l).known no.toNat)) ∧
    (∀ (no : BitVec 32), s.linkRole l ≠ roleChild → Brings (.demoteRx t l no) s (fun u => u.tre = s.tre ∧ u.reg = s.reg)) ∧
    (∀ (child : BitVec 32), child.toNat = s.myId → isUplink l = true → s.linkRole l = roleOffered →
        Brings (.stbyOkRx t l child true) s (fun u => u.linkRole l = roleStandbyParent ∧ u.flag .tre_STBY_OK l = true)) ∧
    (∀ (child : BitVec 32), child.toNat = s.myId → isUplink l = true → s.linkRole l = roleStandbyParent →
        Brings (.stbyOkRx t l child false) s (fun u => u.linkRole l = roleOffered ∧ u.flag .tre_STBY_OK l = false)) ∧
    (∀ (m : BitVec 10), bit m.toNat l = true → s.linkRole l = roleStandbyChild → s.flag .tre_STBY_OK l = true →
        (s.treLink l).known / 256 + 1 < 2 ^ 24 → Brings (.claimReq t m true) s (fun u => u.linkRole l = roleClaimSent ∧
        (u.treLink l).claimed = some (256 * ((s.treLink l).known / 256 + 1) + s.myId % 256))) ∧
    (∀ (m : BitVec 10), bit m.toNat l = true → s.linkRole l ≠ roleStandbyChild → Brings (.claimReq t m true) s (fun u =>
        u.flag .tre_CFG_ERR = true ∧ u.linkRole l = s.linkRole l)) ∧
    (∀ (m : BitVec 10), Brings (.claimReq t m false) s (fun u => u.tre = s.tre ∧ u.reg = s.reg))

/-- R245 to R249, R252, R255, R256: a HORIZON from below, the advance of the merge horizon, a child given up, the delivery of
held packets, and the confirmations sent and received. -/
def Obligations.MergeCommandsComplete : Prop :=
  ∀ (s : State) (t : Nat) (l : Fin 10), s.alive .tre = true → s.linkUp l = true →
    (∀ (tick : BitVec 48) (claim : BitVec 32) (cnt : Vector (BitVec 64) 4) (held : List HeldName), held.length ≤ 16 →
        (isUplink l = true ∨ claim.toNat < s.rd .tre_LINK_CLAIM l) → Brings (.horizonRx t l tick claim cnt held) s (fun u =>
        u.tre = s.tre ∧ u.reg = s.reg)) ∧
    (∀ (tick : BitVec 48) (claim : BitVec 32) (cnt : Vector (BitVec 64) 4) (held : List HeldName), held.length ≤ 16 →
        isUplink l = false → s.rd .tre_LINK_CLAIM l ≤ claim.toNat → (s.treLink l).hz = none →
        Brings (.horizonRx t l tick claim cnt held) s (fun u => (u.treLink l).hz = some (tick.toNat,
        cnt.toList.map (·.toNat)) ∧ u.rd .tre_LINK_CLAIM l = claim.toNat ∧
        (u.treLink l).known = max (s.treLink l).known claim.toNat)) ∧
    (∀ (k : Nat), s.ownHzn = some k → s.inputs = [] → s.tre.hzn = none → s.flag .tre_TRE_EN = true →
        Brings (.mergeHorizonAdvance t) s (fun u => u.tre.hzn = some k ∧ u.rd .tre_MERGE_HZN = Fld.cut .tre_MERGE_HZN k)) ∧
    (∀ (own : Nat), s.ownHzn = some own → (s.treLink l).input = true → s.rd .tre_MERGE_WAIT ≤ own →
        s.owedFrom l (own - s.rd .tre_MERGE_WAIT) ≤ own - s.rd .tre_MERGE_WAIT → Brings (.mergeGiveUp t l) s (fun u =>
        (u.treLink l).through = some (own - s.rd .tre_MERGE_WAIT) ∧
        u.rd .tre_GAP_EMIT = Fld.cut .tre_GAP_EMIT (s.rd .tre_GAP_EMIT + 1) ∧
        u.rd .tre_LINK_GAPS l = Fld.cut .tre_LINK_GAPS (s.rd .tre_LINK_GAPS l + 1))) ∧
    ((s.at t).heldReady l = false → Brings (.heldDelivery t l) s (fun u => u.que = s.que ∧ u.lnk = s.lnk ∧ u.tre = s.tre)) ∧
    (∀ (x : State × List PktId), (s.at t).heldReady l = true → (s.at t).readUp s.que.heldUp 2 = some x →
        Brings (.heldDelivery t l) s (fun u => u.que.heldUp = x.2 ∧ u.que.items = x.1.que.items ∧ u.lnk = s.lnk)) ∧
    (∀ (x : TreLink), s.linkRole l = roleChild → x = ((s.at t).confirmed l).treLink l → x.confDue (s.at t).clock = true →
        Brings (.confirmTx t l) s (fun u => (u.treLink l).confSent = x.confd ∧ (u.treLink l).confAt = none ∧
        (u.link l).vc0 = (s.link l).vc0 ++ [.confirm (x.confd.toList.drop 1)])) ∧
    (∀ (x : TreLink), x = ((s.at t).confirmed l).treLink l → (s.linkRole l ≠ roleChild ∨ x.confDue (s.at t).clock = false) →
        Brings (.confirmTx t l) s (fun u => (u.treLink l).confSent = (s.treLink l).confSent ∧ u.lnk = s.lnk)) ∧
    (∀ (conf : Vector (BitVec 64) 4), s.linkRole l = roleParent → Brings (.confirmRx t l conf) s (fun u =>
        u.tre.log = s.tre.log.filter (fun e => !e.sent || (conf.toList.map (·.toNat)).getD (e.vc - 1) 0 < e.stop) ∧
        u.rd .tre_FWD_LOG = Fld.cut .tre_FWD_LOG u.tre.log.length)) ∧
    (∀ (conf : Vector (BitVec 64) 4), s.linkRole l ≠ roleParent → Brings (.confirmRx t l conf) s (fun u => u.tre = s.tre ∧
        u.reg = s.reg))

/-- R286 to R290: an OPEN that is sealed, one that is not and one repeated; a REQUEST executed, repeated, dropped and malformed; CLOSE;
a session idle for SESS_IDLE seconds. -/
def Obligations.SessionCommandsComplete : Prop :=
  ∀ (s : State) (t : Nat) (h : ThbHead), s.thbHears h = true →
    (∀ (level : BitVec 8) (nonce : BitVec 64) (n : Fin 8), s.thbSealed h 1 0 (openBody level.toNat nonce.toNat) = true →
        (h.salt = 0xFFFFFFFF ∧ h.sess = 0xFF) → h.seq.toNat ∉ s.ctl.opens[reg8 h.slot.toNat] → s.ctl.count < 65535 →
        s.slotUsable h.slot.toNat = true → (List.finRange 8).find? (fun n => (s.session n).isNone) = some n →
        Brings (.openReq t h level nonce) s (fun u => u.out = .openReply (ThbOut.seal
        { ip := h.ip.toNat, port := h.port.toNat, vlan := s.ctlTag, local_ := h.local_, sport := s.thbSport h.local_,
          slot := h.slot.toNat, sess := n, salt := s.saltOf (s.ctl.count + 1), seq := 2 ^ 63 }
        (s.slotKey h.slot.toNat) 2 ([0, u.rd .ctl_SESS_LEVEL n] ++ List.replicate 6 0 ++ bytesLE 8 nonce.toNat)) 0
        (u.rd .ctl_SESS_LEVEL n) nonce.toNat :: s.out ∧
        u.session n = some
        { slot := h.slot.toNat, asked := level.toNat, salt := s.saltOf (s.ctl.count + 1), high := h.seq.toNat,
          seen := [h.seq.toNat], at_ := (s.at t).clock }
        ∧ u.rdBit .ctl_SESS_OPEN 0 n = true)) ∧
    (∀ (level : BitVec 8) (nonce : BitVec 64), (s.thbSealed h 1 0 (openBody level.toNat nonce.toNat) = false ∨
        h.salt ≠ 0xFFFFFFFF ∨ h.sess ≠ 0xFF) → Brings (.openReq t h level nonce) s (fun u =>
        u.rd .ctl_AUTH_FAIL = Fld.cut .ctl_AUTH_FAIL (s.rd .ctl_AUTH_FAIL + 1) ∧ u.out = s.out ∧ u.ctl = s.ctl)) ∧
    (∀ (level : BitVec 8) (nonce : BitVec 64), s.thbSealed h 1 0 (openBody level.toNat nonce.toNat) = true →
        (h.salt = 0xFFFFFFFF ∧ h.sess = 0xFF) → h.seq.toNat ∈ s.ctl.opens[reg8 h.slot.toNat] →
        Brings (.openReq t h level nonce) s (fun u =>
        u.rd .ctl_REPLAY_DROP = Fld.cut .ctl_REPLAY_DROP (s.rd .ctl_REPLAY_DROP + 1) ∧ u.out = s.out ∧ u.ctl = s.ctl)) ∧
    (∀ (target : BitVec 32) (x : Sess), s.thbSession h 3 target.toNat (requestBody [.nop 1] []) = some x →
        x.reps.find? (fun e => e.1 == h.seq.toNat) = none → x.old h.seq.toNat = false → target = 0 →
        s.pmr.recovery = false → s.pmr.warm = none → s.ctl.closing = 0 → Brings (.request t h target [] [.nop 1]) s (fun u =>
        u.out = .reply ((s.sessHead (reg8 h.sess.toNat) x h.ip.toNat h.port.toNat h.local_).seal (s.slotKey h.slot.toNat) 4
        [0, 4, 1, 0]) h.seq.toNat [⟨0, 4, 1, []⟩] :: s.out ∧
        u.rd .ctl_MSG_EXEC = Fld.cut .ctl_MSG_EXEC (s.rd .ctl_MSG_EXEC + 1) ∧
        (u.session (reg8 h.sess.toNat)).any (fun y => y.tx == x.tx + 1 && y.high == max x.high h.seq.toNat) = true)) ∧
    (∀ (target : BitVec 32) (rest : List (BitVec 8)) (ops : List ThbOp) (x : Sess) (e : Nat × List OpRep),
        s.thbSession h 3 target.toNat (requestBody ops rest) = some x → x.reps.find? (fun e => e.1 == h.seq.toNat) = some e →
        Brings (.request t h target rest ops) s (fun u =>
        u.out = .reply ((s.sessHead (reg8 h.sess.toNat) x h.ip.toNat h.port.toNat h.local_).seal (s.slotKey h.slot.toNat) 4
        (replyBody e.2)) h.seq.toNat e.2 :: s.out ∧ u.rd .ctl_MSG_EXEC = s.rd .ctl_MSG_EXEC ∧ u.reg = s.reg ∧
        u.force = s.force)) ∧
    (∀ (target : BitVec 32) (rest : List (BitVec 8)) (ops : List ThbOp) (x : Sess),
        s.thbSession h 3 target.toNat (requestBody ops rest) = some x → x.reps.find? (fun e => e.1 == h.seq.toNat) = none →
        x.old h.seq.toNat = true → Brings (.request t h target rest ops) s (fun u => u.out = s.out ∧
        u.rd .ctl_REPLAY_DROP = Fld.cut .ctl_REPLAY_DROP (s.rd .ctl_REPLAY_DROP + 1) ∧ u.force = s.force)) ∧
    (∀ (target : BitVec 32) (rest : List (BitVec 8)) (ops : List ThbOp) (x : Sess),
        s.thbSession h 3 target.toNat (requestBody ops rest) = some x → x.reps.find? (fun e => e.1 == h.seq.toNat) = none →
        x.old h.seq.toNat = false → (requestOps ops rest).filter thbFits = none →
        Brings (.request t h target rest ops) s (fun u =>
        u.out = .reply ((s.sessHead (reg8 h.sess.toNat) x h.ip.toNat h.port.toNat h.local_).seal (s.slotKey h.slot.toNat) 4
        [4, 0, 0, 0]) h.seq.toNat [⟨4, 0, 0, []⟩] :: s.out ∧ u.reg = s.reg ∧ u.force = s.force ∧ u.shadow = s.shadow)) ∧
    (∀ (target : BitVec 32) (rest : List (BitVec 8)) (ops : List ThbOp),
        s.thbSession h 3 target.toNat (requestBody ops rest) = none → Brings (.request t h target rest ops) s (fun u =>
        u.rd .ctl_AUTH_FAIL = Fld.cut .ctl_AUTH_FAIL (s.rd .ctl_AUTH_FAIL + 1) ∧ u.out = s.out ∧ u.ctl = s.ctl)) ∧
    (∀ (x : Sess), s.thbSession h 5 0 [] = some x → Brings (.closeReq t h) s (fun u =>
        u.session (reg8 h.sess.toNat) = none ∧ u.out = .closeReply ((s.sessHead (reg8 h.sess.toNat) x h.ip.toNat h.port.toNat
        h.local_).seal (s.slotKey h.slot.toNat) 6 []) :: s.out ∧ u.rdBit .ctl_SESS_OPEN 0 (reg8 h.sess.toNat) = false)) ∧
    (s.thbSession h 5 0 [] = none → Brings (.closeReq t h) s (fun u =>
        u.rd .ctl_AUTH_FAIL = Fld.cut .ctl_AUTH_FAIL (s.rd .ctl_AUTH_FAIL + 1) ∧ u.out = s.out ∧ u.ctl = s.ctl)) ∧
    (∀ (n : Fin 8) (x : Sess), s.session n = some x → x.at_ + s.rd .ctl_SESS_IDLE * secFu ≤ t →
        Brings (.sessionIdle t n) s (fun u => u.session n = none ∧ u.rdBit .ctl_SESS_OPEN 0 n = false))

/-- R291, R292: the writes of a slot of keys by an accessor at OWN that reaches page CTL, the one that would leave no usable
OWN key, KEY_CLEAR from a session on slot 7, and a change of PROVISION_EN. -/
def Obligations.KeyCommandsComplete : Prop :=
  ∀ (s : State) (t : Nat) (a : Accessor), Reaches s a (17 * Blk.ctl.idx) → (Accessor.eff a).lvl = 2 →
    bit (s.rd .hdr_WR_MASK (17 * Blk.ctl.idx)) 2 = true →
    (∀ (slot : Fin 7) (v : BitVec 32) (x : Nat) (y : Nat) (z : Nat), s.ownKey = true →
        s.ctl.stage[a.who] = [(17 * Blk.ctl.idx, 0x40 + 0x20 * slot.val, x), (17 * Blk.ctl.idx, 0x44 + 0x20 * slot.val, y),
        (17 * Blk.ctl.idx, 0x48 + 0x20 * slot.val, z)] → Brings (.keyWrite t a slot v) s (fun u =>
        u.rd .ctl_KEY slot = Fld.cut .ctl_KEY (x + y <<< 32 + z <<< 64 + v.toNat <<< 96) ∧
        u.rdBit .ctl_KEY_VALID 0 slot = true ∧ ∀ n : Fin 8, (u.session n).all (fun e => e.slot != slot.val) = true)) ∧
    (∀ (slot : Fin 7) (v : BitVec 2), v ≠ 3 → (s.wr .ctl_KEY_LEVEL slot v.toNat).ownKey = true →
        Brings (.keyLevelWrite t a slot v) s (fun u => u.rd .ctl_KEY_LEVEL slot = v.toNat)) ∧
    (∀ (slot : Fin 7) (v : BitVec 2), v ≠ 3 → v.toNat ≠ s.rd .ctl_KEY_LEVEL slot →
        (s.wr .ctl_KEY_LEVEL slot v.toNat).ownKey = false → s.slot7 (Accessor.eff a) = false →
        Brings (.keyLevelWrite t a slot v) s (fun u => u.rd .ctl_KEY_LEVEL slot = s.rd .ctl_KEY_LEVEL slot)) ∧
    (∀ (slot : Fin 7) (n : Fin 7), n ≠ slot → (s.rdBit .ctl_KEY_VALID 0 n = true ∧ s.rd .ctl_KEY_LEVEL n = 2) →
        Brings (.keyRevoke t a slot) s (fun u => u.rd .ctl_KEY slot = 0 ∧ u.rdBit .ctl_KEY_VALID 0 slot = false ∧
        u.rd .ctl_KEY_LEVEL slot = 0 ∧ ∀ n : Fin 8, (u.session n).all (fun e => e.slot != slot.val) = true)) ∧
    (s.slot7 (Accessor.eff a) = true → Brings (.keyClear t a) s (fun u => ∀ n : Fin 7, u.rdBit .ctl_KEY_VALID 0 n = false ∧
        (s.rdBit .ctl_KEY_VALID 0 n = true → u.rd .ctl_KEY n = 0))) ∧
    (∀ (level : Bool), s.alive .pmr = true → s.flag .ctl_PROV ≠ level → Brings (.provisionEnChange t level) s (fun u =>
        u.flag .ctl_PROV = level ∧ u.rdBit .ctl_KEY_VALID 0 7 = level ∧ (level = false → ∀ n : Fin 8,
        (u.session n).all (fun e => e.slot != 7) = true)))

/-- R293, R342 to R344: the steps of a firmware transfer from OWN, the checks of an image, the trial slot made, confirmed and
given up. -/
def Obligations.FirmwareCommandsComplete : Prop :=
  ∀ (s : State) (t : Nat), s.alive .ctl = true → s.alive .pmr = true →
    (∀ (own : Bool), s.fwMay own = true → (s.rd .ctl_FW_SIZE ≠ 0 ∧ s.rd .ctl_FW_SIZE ≤ 33554432) →
        Brings (.fwBegin t own) s (fun u => u.rd .ctl_FW_STATE = 1 ∧ u.fwSlot = { size := s.rd .ctl_FW_SIZE } ∧
        u.slot s.flash.active = s.slot s.flash.active)) ∧
    (∀ (own : Bool), s.fwMay own = true → (s.rd .ctl_FW_SIZE = 0 ∨ 33554432 < s.rd .ctl_FW_SIZE) →
        Brings (.fwBegin t own) s (fun u => u.rd .ctl_FW_STATE = 6 ∧ u.flash = s.flash)) ∧
    (∀ (own : Bool), s.fwMay own = false → Brings (.fwBegin t own) s (fun u => u.flash = s.flash ∧ u.reg = s.reg)) ∧
    (∀ (e : Bool), s.rd .ctl_FW_STATE = 1 → Brings (.fwEraseDone t e) s (fun u =>
        u.rd .ctl_FW_STATE = (if e then 8 else 2) ∧ u.flash = s.flash)) ∧
    (∀ (own : Bool), s.fwMay own = true → (s.rd .ctl_FW_STATE = 2 ∨ s.rd .ctl_FW_STATE = 5) →
        Brings (.fwVerify t own) s (fun u => u.rd .ctl_FW_STATE = 3)) ∧
    (∀ (own : Bool), s.fwMay own = true → (s.rd .ctl_FW_STATE ≠ 2 ∧ s.rd .ctl_FW_STATE ≠ 5) →
        Brings (.fwVerify t own) s (fun u => u.flag .ctl_CFG_ERR = true ∧ u.rd .ctl_FW_STATE = s.rd .ctl_FW_STATE)) ∧
    (∀ (e : Bool), s.rd .ctl_FW_STATE = 3 → e = false → s.fwSlot.missing ≠ 0 → Brings (.fwVerifyDone t e) s (fun u =>
        u.rd .ctl_FW_STATE = 5)) ∧
    (∀ (e : Bool), s.rd .ctl_FW_STATE = 3 → e = true → Brings (.fwVerifyDone t e) s (fun u => u.rd .ctl_FW_STATE = 8)) ∧
    (∀ (e : Bool) (x : FwSlot), s.rd .ctl_FW_STATE = 3 → e = false → x = s.fwSlot → x.missing = 0 →
        sizeOk x.imgSize = true → x.imgSize = x.size →
        (bits x.head 0 32 == 0x5E721A0B && bits x.head 56 8 == 1 && s.rd .pmr_SEC_VER_MIN ≤ bits x.head 48 8) = true →
        Brings (.fwVerifyDone t e) s (fun u => u.rd .ctl_FW_STATE = (if x.authentic then 4 else 7))) ∧
    (∀ (own : Bool), s.fwMay own = true → (1 ≤ s.rd .ctl_FW_STATE ∧ s.rd .ctl_FW_STATE ≤ 8) →
        Brings (.fwAbort t own) s (fun u => u.rd .ctl_FW_STATE = 9 ∧ u.fwSlot = { s.fwSlot with bad := true })) ∧
    (∀ (own : Bool), own = true → s.rd .ctl_FW_STATE = 4 → Brings (.fwActivate t own) s (fun u =>
        u.flash = { s.flash with trial := true, seq := s.flash.seq + 1, other := s.flash.boot })) ∧
    (∀ (own : Bool), (own = false ∨ s.rd .ctl_FW_STATE ≠ 4) → Brings (.fwActivate t own) s (fun u => u.flash = s.flash ∧
        u.flag .pmr_CFG_ERR = true)) ∧
    (∀ (own : Bool), own = true → s.flag .pmr_TRIAL = true → Brings (.fwConfirm t own) s (fun u =>
        u.flash =
        { s.flash with active := s.flag .pmr_BOOT_SLOT, trial := false, seq := s.flash.seq + 1, other := s.flash.boot }
        ∧
        u.flag .pmr_TRIAL = false)) ∧
    (∀ (own : Bool), (own = false ∨ s.flag .pmr_TRIAL = false) → Brings (.fwConfirm t own) s (fun u => u.flash = s.flash ∧
        u.flag .pmr_CFG_ERR = true)) ∧
    (∀ (t0 : Nat), s.pmr.readyAt = some t0 → s.flag .pmr_TRIAL = true → s.rd .pmr_CONFIRM_TMO ≠ 0 →
        t0 + s.rd .pmr_CONFIRM_TMO * secFu ≤ t → Brings (.confirmTmo t) s (fun u => u.pwr = .start ∧
        u.flash.trial = false ∧ u.flash.active = s.flash.active)) ∧
    (s.flag .pmr_TRIAL = false → Brings (.confirmTmo t) s (fun u => u.pwr = s.pwr ∧ u.flash = s.flash ∧ u.reg = s.reg))

/-- R336, R337, R341, R360, R361: RST_MODULE from an OWN session or through JTAG outside ACQUIRE, its refusal, BLK_RST and
its refusal, the release of a block. -/
def Obligations.ResetCommandsComplete : Prop :=
  ∀ (s : State) (t : Nat), s.alive .pmr = true →
    (s.pwr ≠ .acquire → Brings (.rstModule t true false) s (fun u => u.pwr = .start ∧ u.cab.shelves = s.cab.shelves ∧
        ((s.flash.trial = false ∨ s.slotValid (!s.flash.active) = true) → u.rd .pmr_RESET_CAUSE = 2))) ∧
    (∀ (own : Bool), s.flag .ctl_PROV = true → s.pwr ≠ .acquire → Brings (.rstModule t own true) s (fun u =>
        u.pwr = .start ∧ u.cab.shelves = s.cab.shelves ∧
        ((s.flash.trial = false ∨ s.slotValid (!s.flash.active) = true) → u.rd .pmr_RESET_CAUSE = 4))) ∧
    (∀ (own : Bool), (own = false ∨ s.pwr = .acquire) → Brings (.rstModule t own false) s (fun u => u.pwr = s.pwr ∧
        u.flag .pmr_PWR_CMD_ERR = true ∧ u.cab = s.cab ∧ u.held = s.held)) ∧
    (∀ (m : BitVec 20) (own : Bool), own = true → s.pwr = .ready → m ≠ 0 →
        (bitsSet m.toNat 20).all (fun b => blkRank b != 0) = true → (∀ r : Fin 16, s.mode r = 0) →
        Brings (.blkRst t m own) s (fun u => ∀ b : Fin 20, bit m.toNat b = true → bit u.held b = true)) ∧
    (∀ (m : BitVec 20) (own : Bool), m ≠ 0 → (own = false ∨ s.pwr ≠ .ready) → Brings (.blkRst t m own) s (fun u =>
        u.flag .pmr_CFG_ERR = true ∧ u.held = s.held)) ∧
    (∀ (b : Fin 20) (sr : BitVec 2) (sp : BitVec 4) (e : Nat × Nat), s.pmr.blk.find? (fun e => e.1 == b.val) = some e →
        e.2 + 10 * usFu ≤ t → s.pmr.blk.any (fun f => blkRank f.1 < blkRank b) = false →
        Brings (.blockResetRelease t b sr sp) s (fun u => bit u.held b = false ∧
        u.pmr.blk = s.pmr.blk.filter (fun f => f.1 != b.val)))

/-- R170, R259, R260: a relay request from the primary parent, a reply from below, which stays at its source while QC0 has no room, and a
request that has had no answer for 10 ms. -/
def Obligations.RelayCommandsComplete : Prop :=
  ∀ (s : State) (t : Nat) (l : Fin 10), s.alive .tre = true → s.linkUp l = true →
    (∀ (q : RelayReq) (c : Fin 10), q.op.wf = true → s.parentLink = some l → s.flt.coreDown = false →
        (q.target ≠ 0xFFFFFFFF ∧ q.target ≠ s.myId) → s.routeTo q.target = some c →
        s.waits0 c (.relayReq q) = false → Brings (.relayRequestRx t l q) s (fun u => (u.link c).vc0 = (s.link c).vc0 ++
        [.relayReq q] ∧
        u.rd .tre_RELAY_FWD = Fld.cut .tre_RELAY_FWD (s.rd .tre_RELAY_FWD + 1))) ∧
    (∀ (q : RelayReq), q.op.wf = true → s.parentLink = some l → s.flt.coreDown = false → (q.target ≠ 0xFFFFFFFF ∧
        q.target ≠ s.myId) → s.routeTo q.target = none →
        s.waits0 l (.relayRep ⟨s.myId, q.src, q.seq, 3, []⟩) = false → Brings (.relayRequestRx t l q) s (fun u =>
        (u.link l).vc0 = (s.link l).vc0 ++ [.relayRep ⟨s.myId, q.src, q.seq, 3, []⟩] ∧
        u.rd .tre_RELAY_NOROUTE = Fld.cut .tre_RELAY_NOROUTE (s.rd .tre_RELAY_NOROUTE + 1))) ∧
    (∀ (q : RelayReq) (e : RelayReq × RelayRep), q.op.wf = true → s.parentLink = some l → s.flt.coreDown = false →
        (q.target ≠ 0xFFFFFFFF ∧ q.target = s.myId) →
        s.tre.done.find? (fun e => e.1.src == q.src && e.1.seq == q.seq) = some e →
        s.waits0 l (.relayRep e.2) = false → Brings (.relayRequestRx t l q) s (fun u => (u.link l).vc0 = (s.link l).vc0 ++
        [.relayRep e.2] ∧ u.reg = s.reg ∧
        u.force = s.force ∧ u.tre = s.tre)) ∧
    (∀ (p : RelayRep) (c : Fin 10), s.flt.coreDown = false → s.pmr.warm = none → p.src ≠ s.myId → s.parentLink = some c →
        s.linkUp c = true →
        s.waits0 c (.relayRep p) = false → Brings (.relayReplyRx t l p) s (fun u =>
        (u.link c).vc0 = (s.link c).vc0 ++ [.relayRep p] ∧ u.tre = s.tre ∧ u.ctl = s.ctl)) ∧
    (∀ (p : RelayRep) (c : Fin 10), s.flt.coreDown = false → s.pmr.warm = none → p.src ≠ s.myId → s.parentLink = some c →
        s.linkUp c = true →
        s.waits0 c (.relayRep p) = true → Brings (.relayReplyRx t l p) s (fun u =>
        u.tre.wait0 = s.tre.wait0 ++ [(c.val, .relayRep p)] ∧ u.lnk = s.lnk ∧ u.ctl = s.ctl)) ∧
    (∀ (q : BitVec 16) (x : RelayWait), s.flt.coreDown = false → s.pmr.warm = none →
        s.tre.relays.find? (fun x => x.seq == q.toNat) = some x → x.at_ + 10 * msFu ≤ t →
        Brings (.relayTimeout t q) s (fun u => u.tre.relays = s.tre.relays.filter (fun x => x.seq != q.toNat)))

/-- R265, R268, R270 to R272: the link comes and goes, a frame whose FCS is bad or whose length is outside 64 to 1,522 is
discarded and counted, a Thabor message joins its queue or finds it full, an echo request is answered within ICMP_RATE, and
PFC pauses and releases. With a link that returns, every queue pair that had sent packets goes back to its oldest
unacknowledged one. -/
def Obligations.PortCommandsComplete : Prop :=
  ∀ (s : State) (t : Nat), s.alive .eth = true →
    (s.flag .eth_LINK_UP = false → Brings (.ethLinkUp t) s (fun u => u.flag .eth_LINK_UP = true ∧ ∀ q : Fin 8,
        (u.qp q).sent = 0)) ∧
    (s.flag .eth_LINK_UP = true → Brings (.ethLinkUp t) s (fun u => u.eth = s.eth ∧ u.out = s.out ∧ u.reg = s.reg)) ∧
    Brings (.ethLinkDown t) s (fun u => u.flag .eth_LINK_UP = false ∧ u.eth = s.eth ∧ u.out = s.out) ∧
    (∀ (f : EthFrame), f.fcs = false → Brings (.ethFrameRx t f) s (fun u =>
        u.rd .eth_RX_DISC_FCS = Fld.cut .eth_RX_DISC_FCS (s.rd .eth_RX_DISC_FCS + 1) ∧ u.eth = s.eth ∧ u.out = s.out)) ∧
    (∀ (f : EthFrame), f.fcs = true → (f.len < 64 ∨ 1522 < f.len) → Brings (.ethFrameRx t f) s (fun u =>
        u.rd .eth_RX_DISC_LEN = Fld.cut .eth_RX_DISC_LEN (s.rd .eth_RX_DISC_LEN + 1) ∧ u.eth = s.eth ∧ u.out = s.out)) ∧
    (∀ (f : EthFrame), f.fcs = true → (64 ≤ f.len ∧ f.len ≤ 1522) → s.tagsOk f.tags = false →
        Brings (.ethFrameRx t f) s (fun u =>
        u.rd .eth_RX_DISC_VLAN = Fld.cut .eth_RX_DISC_VLAN (s.rd .eth_RX_DISC_VLAN + 1) ∧ u.eth = s.eth ∧ u.out = s.out)) ∧
    (∀ (len : Nat) (tags : List (BitVec 16)) (src : BitVec 32) (dst : BitVec 32) (icmp8 : Bool) (sport : BitVec 16) (dport :
        BitVec 16) (xid : BitVec 32) (qpn : BitVec 24) (op : BitVec 8) (own : Bool), (64 ≤ len ∧ len ≤ 1522) →
        s.tagsOk tags = true → (s.myIp ≠ 0 ∧ dst.toNat = s.myIp) → dport.toNat = s.rd .ctl_THB_PORT → (dport ≠ 68 ∧
        dport ≠ 319 ∧ dport ≠ 320) → own = s.fromSession src.toNat sport.toNat →
        s.eth.thb.countP (fun e => e.2.2 == own) < (if own then 16 else 48) → Brings (.ethFrameRx t ⟨len, true, .mac, tags,
        .ip false src dst 17 icmp8 sport dport xid qpn op⟩) s (fun u => u.eth.thb = s.eth.thb ++ [(src.toNat, sport.toNat,
        own)] ∧ u.rd .ctl_THB_OVF = s.rd .ctl_THB_OVF)) ∧
    (∀ (len : Nat) (tags : List (BitVec 16)) (src : BitVec 32) (dst : BitVec 32) (icmp8 : Bool) (sport : BitVec 16) (dport :
        BitVec 16) (xid : BitVec 32) (qpn : BitVec 24) (op : BitVec 8) (own : Bool), (64 ≤ len ∧ len ≤ 1522) →
        s.tagsOk tags = true → (s.myIp ≠ 0 ∧ dst.toNat = s.myIp) → dport.toNat = s.rd .ctl_THB_PORT → (dport ≠ 68 ∧
        dport ≠ 319 ∧ dport ≠ 320) → own = s.fromSession src.toNat sport.toNat →
        (if own then 16 else 48) ≤ s.eth.thb.countP (fun e => e.2.2 == own) → Brings (.ethFrameRx t ⟨len, true, .mac, tags,
        .ip false src dst 17 icmp8 sport dport xid qpn op⟩) s (fun u => u.eth = s.eth ∧
        u.rd .ctl_THB_OVF = Fld.cut .ctl_THB_OVF (s.rd .ctl_THB_OVF + 1))) ∧
    (∀ (src : BitVec 32) (id : BitVec 32), s.canSend = true → (s.eth.icmpN ≠ 0 ∧ t < s.eth.icmpAt + secFu ∧
        s.clock < s.eth.icmpAt + secFu) → s.eth.icmpN < s.rd .eth_ICMP_RATE → Brings (.icmpEchoRx t src id) s (fun u =>
        u.out = .icmp src.toNat id.toNat s.ctlTag :: s.out ∧ u.eth.icmpN = s.eth.icmpN + 1 ∧ u.reg = s.reg)) ∧
    (∀ (src : BitVec 32) (id : BitVec 32), s.canSend = true → (s.eth.icmpN ≠ 0 ∧ t < s.eth.icmpAt + secFu ∧
        s.clock < s.eth.icmpAt + secFu) → s.rd .eth_ICMP_RATE ≤ s.eth.icmpN → Brings (.icmpEchoRx t src id) s (fun u =>
        u.out = s.out ∧ u.eth = s.eth ∧ u.rd .eth_ICMP_LIMITED = Fld.cut .eth_ICMP_LIMITED (s.rd .eth_ICMP_LIMITED + 1))) ∧
    (∀ (en : BitVec 8) (quanta : Vector (BitVec 16) 8) (p : Fin 8), s.flag .eth_PFC_EN = true →
        p.val = s.rd .eth_PFC_PRIO → bit en.toNat p = true → quanta[p] ≠ 0 → Brings (.pfcFrameRx t en quanta) s (fun u =>
        u.flag .eth_PAUSED = true ∧ u.eth.pause = some ((s.at t).clock + s.quantaFu quanta[p].toNat))) ∧
    (∀ (en : BitVec 8) (quanta : Vector (BitVec 16) 8) (p : Fin 8), s.flag .eth_PFC_EN = true →
        p.val = s.rd .eth_PFC_PRIO → bit en.toNat p = true → quanta[p] = 0 → Brings (.pfcFrameRx t en quanta) s (fun u =>
        u.flag .eth_PAUSED = false ∧ u.eth.pause = none)) ∧
    (∀ (en : BitVec 8) (quanta : Vector (BitVec 16) 8), s.flag .eth_PFC_EN = false →
        Brings (.pfcFrameRx t en quanta) s (fun u =>
        u.rd .eth_RX_DISC_TYPE = Fld.cut .eth_RX_DISC_TYPE (s.rd .eth_RX_DISC_TYPE + 1) ∧ u.eth = s.eth)) ∧
    (∀ (e : Nat), s.eth.pause = some e → e ≤ t → Brings (.pfcPauseEnd t) s (fun u => u.flag .eth_PAUSED = false ∧
        u.eth.pause = none))

/-- R269: a request for the module's own address is answered, a reply to an outstanding request is cached, three requests a
second apart go unanswered, an entry 60 s old is asked for again; the DHCP client takes an offer, an address, renews it at
half and rebinds at seven eighths of its lease, and gives it up. -/
def Obligations.AddressCommandsComplete : Prop :=
  ∀ (s : State) (t : Nat), s.alive .eth = true →
    (∀ (sip : BitVec 32) (smac : BitVec 48) (tip : BitVec 32), s.canSend = true → tip.toNat = s.myIp →
        Brings (.arpRx t true sip smac tip) s (fun u => u.out = .arp false tip.toNat sip.toNat s.ctlTag :: s.out ∧
        u.eth = s.eth ∧
        u.reg = s.reg)) ∧
    (∀ (sip : BitVec 32) (smac : BitVec 48) (tip : BitVec 32), tip.toNat ≠ s.myIp →
        Brings (.arpRx t true sip smac tip) s (fun u => u.eth = s.eth ∧ u.out = s.out ∧ u.reg = s.reg)) ∧
    (∀ (sip : BitVec 32) (smac : BitVec 48) (tip : BitVec 32), s.eth.waits.any (fun e => e.ip == sip.toNat) = true →
        Brings (.arpRx t false sip smac tip) s (fun u => u.eth.arp.head? = some (sip.toNat, smac.toNat, (s.at t).clock) ∧
        u.eth.arp.length ≤ 16)) ∧
    (∀ (sip : BitVec 32) (smac : BitVec 48) (tip : BitVec 32), s.eth.waits.any (fun e => e.ip == sip.toNat) = false →
        Brings (.arpRx t false sip smac tip) s (fun u => u.eth = s.eth ∧ u.out = s.out ∧ u.reg = s.reg)) ∧
    (∀ (ip : BitVec 32) (x : ArpWait), s.eth.waits.find? (fun e => e.ip == ip.toNat) = some x → x.at_ + secFu ≤ t →
        s.canSend = true → x.tries < 3 → Brings (.arpTimeout t ip) s (fun u => u.out = .arp true ip.toNat 0 s.ctlTag ::
        s.out ∧ (∀ e ∈ u.eth.waits,
        e.ip = ip.toNat → e.tries = x.tries + 1 ∧ e.at_ = (s.at t).clock) ∧ u.eth.arp = s.eth.arp)) ∧
    (∀ (ip : BitVec 32) (x : ArpWait), s.eth.waits.find? (fun e => e.ip == ip.toNat) = some x → x.at_ + secFu ≤ t →
        s.canSend = true → 3 ≤ x.tries → Brings (.arpTimeout t ip) s (fun u => u.out = s.out ∧
        u.eth.waits = s.eth.waits.filter (fun e => e.ip != ip.toNat) ∧
        u.eth.arp = s.eth.arp.filter (fun e => e.1 != ip.toNat))) ∧
    (∀ (ip : BitVec 32) (x : Nat × Nat × Nat), s.eth.arp.find? (fun e => e.1 == ip.toNat) = some x →
        x.2.2 + 60 * secFu ≤ t → s.canSend = true → s.eth.waits.any (fun e => e.ip == ip.toNat) = false →
        Brings (.arpRefresh t ip) s (fun u => u.out = .arp true ip.toNat 0 s.ctlTag :: s.out ∧
        u.eth.waits = s.eth.waits ++ [⟨ip.toNat, 1, (s.at t).clock⟩] ∧ u.eth.arp = s.eth.arp)) ∧
    (∀ (m : DhcpMsg), s.flag .eth_DHCP_EN = true → m.xid.toNat = s.eth.xid → s.eth.dhcp = 1 → m.ty = 2 →
        Brings (.dhcpRx t m) s (fun u => u.eth.dhcp = 2 ∧ u.eth.server = m.server.toNat ∧
        u.out = .dhcp 3 s.eth.xid s.ctlTag :: s.out)) ∧
    (∀ (m : DhcpMsg), s.flag .eth_DHCP_EN = true → m.xid.toNat = s.eth.xid → (s.eth.dhcp = 2 ∨ s.eth.dhcp = 4 ∨
        s.eth.dhcp = 5) → m.ty = 5 → Brings (.dhcpRx t m) s (fun u => u.eth.dhcp = 3 ∧ u.eth.lease = m.lease ∧
        u.eth.leaseAt = (s.at t).clock ∧ u.flag .eth_ADDR_VALID = true ∧ u.rd .eth_IP_IN_USE = m.yip.toNat ∧
        u.eth.mask = m.mask.toNat ∧ u.eth.gw = m.router.toNat)) ∧
    (∀ (m : DhcpMsg), s.flag .eth_DHCP_EN = true → m.xid.toNat = s.eth.xid → (s.eth.dhcp = 2 ∨ s.eth.dhcp = 4 ∨
        s.eth.dhcp = 5) → m.ty = 6 → Brings (.dhcpRx t m) s (fun u => u.eth.dhcp = 1 ∧ u.flag .eth_ADDR_VALID = false)) ∧
    (∀ (m : DhcpMsg), m.xid.toNat ≠ s.eth.xid → Brings (.dhcpRx t m) s (fun u => u.eth = s.eth ∧ u.out = s.out ∧
        u.reg = s.reg)) ∧
    (s.eth.dhcp = 3 → 4 * s.eth.lease * secFu + 8 * s.eth.leaseAt ≤ 8 * t → Brings (.dhcpRenew t) s (fun u =>
        u.eth.dhcp = 4 ∧ u.eth.leaseAt = s.eth.leaseAt ∧ u.flag .eth_ADDR_VALID = s.flag .eth_ADDR_VALID ∧
        (s.flag .eth_LINK_UP = true → u.out = .dhcp 3 u.eth.xid s.ctlTag :: s.out))) ∧
    (s.eth.dhcp = 4 → 7 * s.eth.lease * secFu + 8 * s.eth.leaseAt ≤ 8 * t → Brings (.dhcpRebind t) s (fun u =>
        u.eth.dhcp = 5 ∧ u.eth.leaseAt = s.eth.leaseAt ∧ u.flag .eth_ADDR_VALID = s.flag .eth_ADDR_VALID ∧
        (s.flag .eth_LINK_UP = true → u.out = .dhcp 3 u.eth.xid s.ctlTag :: s.out))) ∧
    (3 ≤ s.eth.dhcp → s.eth.lease * secFu + s.eth.leaseAt ≤ t → Brings (.dhcpLeaseExpire t) s (fun u =>
        u.flag .eth_ADDR_VALID = false ∧ u.eth.dhcp = 1 ∧ (s.flag .eth_LINK_UP = true →
        u.out = .dhcp 1 u.eth.xid s.ctlTag :: s.out)))

/-- R274, R276, R277, R279, R294: a queue pair runs once its next hop is known; it sends what waits; an acknowledgement
retires, a sequence NAK and a time-out go back, an RNR NAK waits, an access NAK is an ERROR; a CNP cuts the rate and the
recovery raises it; QP_CI within the ring; QP_ABORT. -/
def Obligations.QueuePairCommandsComplete : Prop :=
  ∀ (s : State) (t : Nat) (q : Fin 8), s.alive .eth = true →
    (∀ (t0 : Nat), s.rd .eth_QP_STATE q = qpResolving → (s.qp q).failAt = some t0 → t0 + secFu ≤ t → s.canSend = true →
        s.nextHop (s.rd .eth_DEST_IP q) ≠ 0 → s.eth.arp.any (fun e => e.1 == s.nextHop (s.rd .eth_DEST_IP q)) = true →
        Brings (.qpResolveRetry t q) s (fun u =>
        u.rd .eth_QP_STATE q = qpRun ∧ (u.qp q).failAt = none ∧ u.out = s.out)) ∧
    (∀ (t0 : Nat), s.rd .eth_QP_STATE q = qpResolving → (s.qp q).failAt = some t0 → t0 + secFu ≤ t → s.canSend = false →
        Brings (.qpResolveRetry t q) s (fun u => u.rd .eth_QP_STATE q = qpResolving ∧ (u.qp q).failAt = some (s.at t).clock ∧
        u.evSeq = (if (s.qp q).told then s.evSeq else (s.evSeq + 1) % 65536) ∧ u.out = s.out)) ∧
    (∀ (t0 : Nat), s.rd .eth_QP_STATE q ≠ qpResolving → (s.qp q).failAt = some t0 → Brings (.qpResolveRetry t q) s (fun u =>
        u.out = s.out ∧ u.reg = s.reg)) ∧
    ((s.qp q).failAt = none → Brings (.qpResolveRetry t q) s (fun u => u.eth = s.eth ∧ u.out = s.out ∧ u.reg = s.reg)) ∧
    (∀ (p : RPkt), (s.at t).qpSends q = true → ((s.at t).turnWait q).turnOf [] = some q →
        (s.qp q).pkts.drop (s.qp q).sent = [p] → p.imm.isSome = true → (s.qp q).again ≤ (s.qp q).sent → (s.qp q).sent < 1024 →
        s.flag .eth_RING_OVF q = false → Brings (.roceMessageTx t q) s (fun u => u.out = .roce q (s.roceHead q) p :: s.out ∧
        (u.qp q).sent = (s.qp q).sent + 1 ∧ (u.qp q).pkts = (s.qp q).pkts ∧ u.rd .eth_QP_STATE q = qpRun)) ∧
    (((s.at t).qpSends q = false ∨ (s.at t).qpHas q = false) → s.flag .eth_RING_OVF q = false →
        Brings (.roceMessageTx t q) s (fun u => u.eth = s.eth ∧ u.out = s.out ∧ u.reg = s.reg)) ∧
    (∀ (psn : BitVec 24) (p : RPkt) (l : List RPkt), (s.qp q).pkts = p :: l → psnDist p.psn psn.toNat < (s.qp q).sent →
        s.rd .eth_QP_STATE q ≠ qpError → Brings (.roceAckRx t q psn) s (fun u =>
        (u.qp q).pkts = l.drop (psnDist p.psn psn.toNat) ∧ (u.qp q).acked = psn.toNat ∧ (u.qp q).retry = 0 ∧
        (u.qp q).ackAt = (s.at t).clock)) ∧
    (∀ (psn : BitVec 24) (p : RPkt) (l : List RPkt), (s.qp q).pkts = p :: l → (s.qp q).sent ≤ psnDist p.psn psn.toNat →
        Brings (.roceAckRx t q psn) s (fun u => u.eth = s.eth ∧ u.out = s.out ∧ u.reg = s.reg)) ∧
    (∀ (psn : BitVec 24) (p : RPkt) (l : List RPkt), (s.qp q).pkts = p :: l → psn.toNat = p.psn →
        s.rd .eth_QP_STATE q = qpRun → (s.qp q).retry + 1 < s.rd .eth_RETRY_CNT →
        Brings (.roceNakRx t q psn .sequence) s (fun u => u.rd .eth_QP_STATE q = qpRetry ∧ (u.qp q).sent = 0 ∧
        (u.qp q).retry = (s.qp q).retry + 1)) ∧
    (∀ (psn : BitVec 24) (ns : Nat) (p : RPkt) (l : List RPkt), (s.qp q).pkts = p :: l → psn.toNat = p.psn →
        s.rd .eth_QP_STATE q = qpRun → Brings (.roceNakRx t q psn (.rnr ns)) s (fun u => u.rd .eth_QP_STATE q = qpRetry ∧
        (u.qp q).sent = 0 ∧ (u.qp q).retry = (s.qp q).retry ∧ (u.qp q).rnr = some ((s.at t).clock + ns * nsFu) ∧
        u.rd .eth_RNR_CNT q = Fld.cut .eth_RNR_CNT (s.rd .eth_RNR_CNT q + 1))) ∧
    (∀ (psn : BitVec 24) (p : RPkt) (l : List RPkt), (s.qp q).pkts = p :: l → psn.toNat = p.psn →
        s.rd .eth_QP_STATE q = qpRun → (s.qp q).draining = false → Brings (.roceNakRx t q psn .access) s (fun u =>
        u.rd .eth_QP_STATE q = qpError ∧ (u.qp q).pkts = [] ∧ (u.qp q).behind = [])) ∧
    (s.flag .eth_LINK_UP = true → (s.qp q).sent ≠ 0 → (s.qp q).rnr = none → (s.qp q).ackAt + s.rd .eth_ACK_TMO * usFu ≤ t →
        Brings (.ackTmo t q) s (fun u => u.rd .eth_TIMEOUTS q = Fld.cut .eth_TIMEOUTS (s.rd .eth_TIMEOUTS q + 1) ∧
        (u.qp q).sent = 0)) ∧
    (((s.qp q).sent = 0 ∨ s.flag .eth_LINK_UP = false) → Brings (.ackTmo t q) s (fun u => u.eth = s.eth ∧ u.out = s.out ∧
        u.reg = s.reg)) ∧
    (∀ (e : Nat), (s.qp q).rnr = some e → e ≤ t → Brings (.rnrWaitEnd t q) s (fun u => (u.qp q).rnr = none ∧
        (u.qp q).pkts = (s.qp q).pkts)) ∧
    (s.flag .eth_ECN_EN q = true → (s.qp q).cutAt = none → Brings (.cnpRx t q) s (fun u =>
        u.rd .eth_CNP_RX q = Fld.cut .eth_CNP_RX (s.rd .eth_CNP_RX q + 1) ∧ (u.qp q).cutAt = some (s.at t).clock ∧
        u.rd .eth_RATE q = Fld.cut .eth_RATE (max ((s.lineRate + 63) / 64) (s.rd .eth_RATE q - s.rd .eth_RATE q * s.rd
        .eth_CNP_CUT / 256)))) ∧
    (s.flag .eth_ECN_EN q = false → Brings (.cnpRx t q) s (fun u =>
        u.rd .eth_CNP_RX q = Fld.cut .eth_CNP_RX (s.rd .eth_CNP_RX q + 1) ∧ u.eth = s.eth ∧
        u.rd .eth_RATE q = s.rd .eth_RATE q)) ∧
    (s.flag .eth_ECN_EN q = true → s.rd .eth_QP_STATE q ≠ qpDisabled → (s.qp q).recAt + s.rd .eth_RECOV_US * usFu ≤ t →
        Brings (.rateRecovery t q) s (fun u =>
        u.rd .eth_RATE q = Fld.cut .eth_RATE (min s.lineRate (s.rd .eth_RATE q + s.rd .eth_RAI)) ∧
        (u.qp q).recAt = (s.at t).clock)) ∧
    (∀ (v : BitVec 32), s.ringUnits q < (s.rd .eth_QP_PI q + 2 ^ 32 - v.toNat) % 2 ^ 32 →
        Brings (.qpCiWrite t q v) s (fun u => u.flag .eth_CFG_ERR = true ∧ u.rd .eth_QP_CI q = s.rd .eth_QP_CI q ∧
        u.rd .eth_QP_STATE q = s.rd .eth_QP_STATE q ∧ u.eth = s.eth)) ∧
    (∀ (v : BitVec 32), (s.rd .eth_QP_PI q + 2 ^ 32 - v.toNat) % 2 ^ 32 ≤ s.ringUnits q →
        Brings (.qpCiWrite t q v) s (fun u => u.rd .eth_QP_CI q = v.toNat ∧
        u.rd .eth_QP_STATE q = (if s.rd .eth_QP_STATE q = qpWait then qpRun else s.rd .eth_QP_STATE q) ∧ u.eth = s.eth)) ∧
    (∀ (m : BitVec 8), bit m.toNat q = true → Brings (.qpAbort t m) s (fun u => u.rd .eth_QP_STATE q = qpDisabled ∧
        u.flag .eth_QP_EN q = false ∧ (u.qp q).pkts = [] ∧ (u.qp q).behind = []))

/-- R296 to R298, R300, R302, R303, R306 to R308, R310: a scan that is due adds each usable sample, marks a clamped one and moves a bias range
up; none is taken while a calibration runs; the excitation reverses and its period ends, each when its half-period is over; the twentieth
deviation in a row is OPEN; a calibration starts, on a write or when CAL_PERIOD is over, and ends with its factors or a fault; an injected
conversion is held, urgent or not, and answered; TEC_PWM takes its values at a period's start, once the period before is over. -/
def Obligations.HousekeepingCommandsComplete : Prop :=
  ∀ (s : State) (t : Nat), s.alive .hka = true →
    (∀ (v : Vector HkaSample 32), s.flag .hka_CAL_BUSY = true → Brings (.hkaScan t v) s (fun u => u.hka = s.hka ∧
        u.reg = s.reg)) ∧
    (∀ (v : Vector HkaSample 32) (i : Fin 32), (s.at t).scanDue = true → v[i].clamp = true →
        Brings (.hkaScan t v) s (fun u => u.rdBit .hka_CLAMP_SEEN 0 i = true)) ∧
    (∀ (v : Vector HkaSample 32) (i : Fin 32), (s.at t).scanDue = true → ((s.at t).tickCome = false ∨ s.hka.closed = true) →
        5 ≤ i.val % 8 → v[i].clamp = false →
        Brings (.hkaScan t v) s (fun u => (u.hkaIn i).n = (s.hkaIn i).n + 1 ∧
        (u.hkaIn i).sum = (s.hkaIn i).sum + s.sampleVal i 0 v[i])) ∧
    (∀ (v : Vector HkaSample 32) (i : Fin 32), (s.at t).scanDue = true → ((s.at t).tickCome = true ∧ s.hka.closed = false ∧
        s.flt.coreDown = false) → 5 ≤ i.val % 8 → v[i].clamp = false → Brings (.hkaScan t v) s (fun u =>
        (u.hkaIn i).n = 1 ∧ (u.hkaIn i).sum = s.sampleVal i 0 v[i] ∧ u.hka.closed = true)) ∧
    (∀ (v : Vector HkaSample 32) (i : Fin 32), (s.at t).scanDue = true → ((s.at t).tickCome = false ∨ s.hka.closed = true) →
        (1 ≤ i.val % 8 ∧ i.val % 8 ≤ 4) → (s.hkaIn i).range < 2 → s.sampleOvr i (s.hkaIn i).range v[i] = true →
        Brings (.hkaScan t v) s (fun u =>
        (u.hkaIn i).range = (s.hkaIn i).range + 1 ∧ (u.hkaIn i).settle = true ∧ (u.hkaIn i).n = (s.hkaIn i).n ∧
        (u.hkaIn i).sum = (s.hkaIn i).sum)) ∧
    ((s.at t).halfOver 0 = true → Brings (.rtdReversal t) s (fun u =>
        u.hka = { s.hka with half := s.hka.half + 1, halfAt := (s.at t).clock, revAt := some (s.at t).clock } ∧
        u.reg = s.reg)) ∧
    ((s.at t).halfOver 0 = false → Brings (.rtdReversal t) s (fun u => u.hka = s.hka ∧ u.reg = s.reg)) ∧
    ((s.at t).halfOver 1 = true → Brings (.rtdPeriodEnd t) s (fun u => u.hka.half = s.hka.half + 1 ∧
        u.hka.halfAt = (s.at t).clock ∧ u.hka.revAt = s.hka.revAt)) ∧
    ((s.at t).halfOver 1 = false → Brings (.rtdPeriodEnd t) s (fun u => u.hka = s.hka ∧ u.reg = s.reg)) ∧
    (∀ (c : Fin 4), (s.at t).halfOver 1 = true → (s.rtdCh c).on = true → (s.rtdCh c).stop = true →
        Brings (.rtdPeriodEnd t) s (fun u => (u.rtdCh c).on = false ∧ u.flag .hka_VALID (rtdIn c) = false)) ∧
    (∀ (dev : BitVec 4) (c : Fin 4), s.hka.revAt.all (fun a => decide (a + 25 * usFu ≤ t)) = true → (s.rtdCh c).on = true →
        bit dev.toNat c = false → Brings (.rtdMonitor t dev) s (fun u => (u.rtdCh c).run = 0)) ∧
    (∀ (dev : BitVec 4) (c : Fin 4), s.hka.revAt.all (fun a => decide (a + 25 * usFu ≤ t)) = true → (s.rtdCh c).on = true →
        bit dev.toNat c = true → (s.rtdCh c).run = 19 → s.flag .hka_OPEN (rtdIn c) = false →
        Brings (.rtdMonitor t dev) s (fun u => u.flag .hka_OPEN (rtdIn c) = true ∧ u.flag .hka_VALID (rtdIn c) = false ∧
        u.rdBit .hka_RTD_OPEN 0 c = true ∧ Raised u clsHousekeeping 1 (unitRtd c))) ∧
    (s.flag .hka_CAL_BUSY = true → Brings (.calReq t) s (fun u =>
        u.rd .hka_CAL_IGN = Fld.cut .hka_CAL_IGN (s.rd .hka_CAL_IGN + 1) ∧ u.hka = s.hka)) ∧
    (s.flag .hka_CAL_BUSY = false → s.flag .hka_INJ_BUSY = false → Brings (.calReq t) s (fun u =>
        u.flag .hka_CAL_BUSY = true ∧ ∀ c : Fin 4, (u.rtdCh c).cut = true)) ∧
    (s.flag .hka_CAL_BUSY = false → s.flag .hka_INJ_BUSY = true → Brings (.calReq t) s (fun u =>
        u.flag .hka_CAL_BUSY = false ∧ u.hka = { s.hka with calPend := true })) ∧
    (s.rd .hka_CAL_PERIOD ≠ 0 → s.hka.perAt + s.rd .hka_CAL_PERIOD * 60 * secFu ≤ t → s.flag .hka_CAL_BUSY = false →
        s.flag .hka_INJ_BUSY = false → Brings (.hkaCalPeriodic t) s (fun u => u.flag .hka_CAL_BUSY = true ∧
        u.hka.perAt = (s.at t).clock)) ∧
    ((s.rd .hka_CAL_PERIOD = 0 ∨ (s.at t).clock < s.hka.perAt + s.rd .hka_CAL_PERIOD * 60 * secFu) →
        Brings (.hkaCalPeriodic t) s (fun u => u.hka = s.hka ∧ u.reg = s.reg)) ∧
    (∀ (f : Vector CalFactors 4), s.flag .hka_CAL_BUSY = true → (List.finRange 4).all (fun c => factorsGood f[c]) = true →
        Brings (.hkaCalDone t f) s (fun u => u.flag .hka_CAL_BUSY = false ∧ ∀ c : Fin 4, u.rd .hka_CAL_GAIN c = f[c].gain ∧
        u.rd .hka_RANGE_GAIN0 c = f[c].range0 ∧ u.rd .hka_RANGE_GAIN1 c = f[c].range1 ∧
        u.rd .hka_RANGE_GAIN2 c = f[c].range2 ∧ u.rd .hka_IEXC c = f[c].iexc)) ∧
    (∀ (f : Vector CalFactors 4), s.flag .hka_CAL_BUSY = true → (List.finRange 4).all (fun c => factorsGood f[c]) = false →
        Brings (.hkaCalDone t f) s (fun u => u.flag .hka_CAL_BUSY = false ∧ u.flag .hka_CAL_FAIL = true ∧
        Raised u clsHousekeeping 1 unitModule ∧ ∀ c : Fin 4, u.rd .hka_CAL_OFS c = s.rd .hka_CAL_OFS c ∧
        u.rd .hka_CAL_GAIN c = s.rd .hka_CAL_GAIN c ∧ u.rd .hka_IEXC c = s.rd .hka_IEXC c)) ∧
    (s.flag .hka_INJ_BUSY = true → Brings (.injReq t) s (fun u =>
        u.rd .hka_INJ_IGN = Fld.cut .hka_INJ_IGN (s.rd .hka_INJ_IGN + 1) ∧ u.hka = s.hka)) ∧
    (s.flag .hka_INJ_BUSY = false → (s.flag .hka_CAL_BUSY = false ∨ s.flag .hka_INJ_URGENT = false ∨ s.hka.startup = true) →
        Brings (.injReq t) s (fun u => u.flag .hka_INJ_BUSY = true ∧ u.flag .hka_INJ_DONE = false ∧
        u.flag .hka_CAL_BUSY = s.flag .hka_CAL_BUSY ∧ u.hka = { s.hka with inj := s.rd .hka_INJ_INPUT })) ∧
    (s.flag .hka_INJ_BUSY = false → s.flag .hka_CAL_BUSY = true → s.flag .hka_INJ_URGENT = true → s.hka.startup = false →
        Brings (.injReq t) s (fun u => u.flag .hka_INJ_BUSY = true ∧ u.flag .hka_INJ_DONE = false ∧
        u.flag .hka_CAL_BUSY = false ∧ u.flag .hka_CAL_ABORTED = true ∧
        u.hka = { s.hka with inj := s.rd .hka_INJ_INPUT, scanFrom := (s.at t).clock })) ∧
    (∀ (x : HkaSample), s.flag .hka_INJ_BUSY = true → s.flag .hka_CAL_BUSY = false → Brings (.hkaInjDone t x) s (fun u =>
        u.rd .hka_INJ_CODE = x.code.toNat ∧ u.rd .hka_INJ_IN = s.hka.inj % 32 ∧
        u.rd .hka_INJ_VALUE = toU 32 (s.injValue (s.hka.inj % 32) (u.rd .hka_INJ_RANGE) x) ∧ u.flag .hka_INJ_DONE = true ∧
        u.flag .hka_INJ_BUSY = false ∧
        u.hka.ins = s.hka.ins)) ∧
    (∀ (x : HkaSample), (s.flag .hka_INJ_BUSY = false ∨ s.flag .hka_CAL_BUSY = true) → Brings (.hkaInjDone t x) s (fun u =>
        u.hka = s.hka ∧ u.reg = s.reg)) ∧
    (s.flag .hka_TEC_EN = true → (s.at t).tecOver = true → Brings (.tecPeriodStart t) s (fun u =>
        u.hka.tec = some ((s.at t).clock, s.rd .hka_TEC_PER, s.rd .hka_TEC_DUTY) ∧ u.reg = s.reg)) ∧
    (s.flag .hka_TEC_EN = false → (s.at t).tecOver = true → Brings (.tecPeriodStart t) s (fun u => u.hka.tec = none ∧
        u.reg = s.reg)) ∧
    ((s.at t).tecOver = false → Brings (.tecPeriodStart t) s (fun u => u.hka = s.hka ∧ u.reg = s.reg))

/-- R315, R317, R318, R320, R324: FLT takes the next detected fault and raises it at its level, by one above a standing one,
or at level 0 in a shadow; the shadows that are over close; an acknowledge and a clear of either side, and the clear refused;
an injected fault handed over or refused. -/
def Obligations.FaultCommandsComplete : Prop :=
  ∀ (s : State) (t : Nat), s.alive .flt = true →
    (s.detected = [] → Brings (.faultTake t) s (fun u => u.flt = s.flt ∧ u.reg = s.reg)) ∧
    (∀ (d : Det), s.detected = [d] → (d.inj = false ∧ d.lvl = 1) → (s.at t).covering d.cls d.unit false = [] →
        (s.side d.cls false).all (fun e => !e.raised) = true → Brings (.faultTake t) s (fun u =>
        u.flt.ents = s.flt.ents ++ [⟨d.cls, 1, d.unit, false, true, false⟩] ∧ u.detected = [] ∧
        u.rd .flt_RAISED d.cls = Fld.cut .flt_RAISED (s.rd .flt_RAISED d.cls + 1) ∧
        u.rd .flt_LAST_UNIT d.cls = Fld.cut .flt_LAST_UNIT d.unit ∧ u.pwr = s.pwr)) ∧
    (∀ (d : Det), s.detected = [d] → d.inj = false → (s.at t).covering d.cls d.unit false = [] →
        Brings (.faultTake t) s (fun u => u.flt.log.head?.map (fun e => (e.cls, e.unit, e.lvl)) = some (d.cls, d.unit,
        escalated d.lvl ((s.side d.cls false).filter (fun e => e.raised && 1 ≤ e.lvl))))) ∧
    (∀ (d : Det), s.detected = [d] → d.inj = false → (s.at t).covering d.cls d.unit false ≠ [] →
        Brings (.faultTake t) s (fun u => u.flt.ents = s.flt.ents ++ [⟨d.cls, 0, d.unit, false, false, false⟩] ∧
        u.detected = [] ∧ u.rd .flt_CONSEQ d.cls = Fld.cut .flt_CONSEQ (s.rd .flt_CONSEQ d.cls + 1) ∧
        u.flt.shadows = s.flt.shadows ∧ u.pwr = s.pwr)) ∧
    Brings (.shadowExpiry t) s (fun u =>
        u.flt = { s.flt with shadows := s.flt.shadows.filter (fun h => (s.at t).clock < h.till) } ∧ u.reg = s.reg) ∧
    (∀ (m : BitVec 15) (c : Fin 15), bit m.toNat c = true → Brings (.ackReal t m) s (fun u => ∀ e ∈ u.flt.ents,
        e.inj = false → e.cls = c.val + 1 → e.raised = false ∧ u.flt.ents.length = s.flt.ents.length)) ∧
    (∀ (m : BitVec 15) (c : Fin 15), bit m.toNat c = true → Brings (.ackInj t m) s (fun u => ∀ e ∈ u.flt.ents,
        e.inj = true → e.cls = c.val + 1 → e.raised = false ∧ u.flt.ents.length = s.flt.ents.length)) ∧
    (∀ (m : BitVec 15) (own : Bool) (c : Fin 15), bit m.toNat c = true →
        (s.side (c.val + 1) false).all (fun e => !e.raised && (own || e.lvl != 4)) = true → s.condOf (c.val + 1) = false →
        Brings (.clrReal t m own) s (fun u => u.side (c.val + 1) false = [] ∧
        u.side (c.val + 1) true = s.side (c.val + 1) true)) ∧
    (∀ (m : BitVec 15) (own : Bool) (c : Fin 15), bit m.toNat c = true →
        (s.side (c.val + 1) false).any (fun e => e.raised || (!own && e.lvl == 4)) = true →
        Brings (.clrReal t m own) s (fun u => u.side (c.val + 1) false = s.side (c.val + 1) false ∧
        u.flag .flt_CLR_REFUSED = true)) ∧
    (∀ (m : BitVec 15) (own : Bool) (c : Fin 15), bit m.toNat c = true →
        (s.side (c.val + 1) true).all (fun e => !e.raised && (own || e.lvl != 4)) = true → s.condOf (c.val + 1) = false →
        Brings (.clrInj t m own) s (fun u => u.side (c.val + 1) true = [] ∧
        u.side (c.val + 1) false = s.side (c.val + 1) false)) ∧
    (∀ (m : BitVec 15) (own : Bool) (c : Fin 15), bit m.toNat c = true →
        (s.side (c.val + 1) true).any (fun e => e.raised || (!own && e.lvl == 4)) = true →
        Brings (.clrInj t m own) s (fun u => u.side (c.val + 1) true = s.side (c.val + 1) true ∧
        u.flag .flt_CLR_REFUSED = true)) ∧
    (s.flt.injAt = none → (unitKinds (s.rd .flt_INJ_CLASS)).contains (s.rd .flt_INJ_UNIT / 4096) = true →
        Brings (.injGo t) s (fun u =>
        u.detected = s.detected ++
        [{ cls := s.rd .flt_INJ_CLASS, lvl := s.rd .flt_INJ_LEVEL, unit := s.rd .flt_INJ_UNIT, at_ := (s.at t).clock,
            inj := true }])) ∧
    ((unitKinds (s.rd .flt_INJ_CLASS)).contains (s.rd .flt_INJ_UNIT / 4096) = false → Brings (.injGo t) s (fun u =>
        u.detected = s.detected ∧ u.flag .flt_CFG_ERR = true))

/-- R327 to R329: a member that differs from the other two is resynchronised, a third time within RESYNC_WIN seconds retired;
without a majority the staged commit and the sessions are lost and the core is down until it restarts. -/
def Obligations.CoreCommandsComplete : Prop :=
  ∀ (s : State) (t : Nat), s.alive .ctl = true → s.alive .flt = true →
    (∀ (o : Vector (BitVec 32) 3) (x : BitVec 32) (m : Fin 3), s.flt.coreDown = false → s.pmr.warm = none →
        (∀ n : Fin 3, s.member n = 0) → o[m] ≠ x → (∀ n : Fin 3, n ≠ m → o[n] = x) → s.flt.resync[m] = [] →
        Brings (.voterMismatch t o) s (fun u => u.member m = 1 ∧ u.flt.resync[m] = [(s.at t).clock] ∧
        Raised u clsControl 1 (unitCore m) ∧ u.pmr.prog[m] = 0 ∧
        ∀ n : Fin 3, n ≠ m → u.member n = 0 ∧ u.pmr.prog[n] = s.pmr.prog[n])) ∧
    (∀ (o : Vector (BitVec 32) 3) (x : BitVec 32) (m : Fin 3) (a : Nat) (b : Nat), s.flt.coreDown = false →
        s.pmr.warm = none →
        (∀ n : Fin 3, s.member n = 0) → o[m] ≠ x → (∀ n : Fin 3, n ≠ m → o[n] = x) → s.flt.resync[m] = [a, b] →
        (t < b + s.rd .flt_RESYNC_WIN * secFu ∧ s.clock < b + s.rd .flt_RESYNC_WIN * secFu) → b ≤ a →
        Brings (.voterMismatch t o) s (fun u => u.member m = 2 ∧ Raised u clsControl 2 (unitCore m))) ∧
    (∀ (o : Vector (BitVec 32) 3), s.flt.coreDown = false → s.pmr.warm = none → s.flag .pmr_TRIAL = false →
        (∀ m n : Fin 3, m ≠ n → s.member m = 0 → s.member n = 0 → o[m] ≠ o[n]) →
        Brings (.voterMismatch t o) s (fun u => u.flt.coreDown = true ∧
        u.staged = none ∧ u.flag .seq_COMMIT_PEND = false ∧ Raised u clsControl 4 unitModule ∧
        u.rd .flt_MAJ_LOSS = Fld.cut .flt_MAJ_LOSS (s.rd .flt_MAJ_LOSS + 1) ∧ ∀ n : Fin 8, u.session n = none)) ∧
    (∀ (o : Vector (BitVec 32) 3) (x : BitVec 32) (m n : Fin 3), s.flt.coreDown = false → s.pmr.warm = none → m ≠ n →
        s.member m = 0 →
        s.member n = 0 → (∀ k : Fin 3, s.member k = 0 → o[k] = x) → Brings (.voterMismatch t o) s (fun u => u.flt = s.flt ∧
        u.reg = s.reg ∧ u.detected = s.detected)) ∧
    (∀ (m : Fin 3), s.member m = 1 → s.flt.coreDown = false → Brings (.resyncDone t m) s (fun u => u.member m = 0 ∧
        u.flt = s.flt ∧ u.pmr.prog[m] = s.running_)) ∧
    (∀ (m : Fin 3), s.member m ≠ 1 → Brings (.resyncDone t m) s (fun u => u.reg = s.reg ∧ u.flt = s.flt)) ∧
    (s.flt.coreDown = true → Brings (.coreRestartDone t) s (fun u => u.flt.coreDown = false ∧ (∀ n : Fin 3,
        u.member n = 0) ∧ u.flag .flt_CORE_RESTARTED = true)) ∧
    (s.flt.coreDown = false → Brings (.coreRestartDone t) s (fun u => u.flt = s.flt ∧ u.reg = s.reg))

/-! ### What single rules say -/

/-- R206: remap(p) is the spare line of p's channel for p when an entry of the remap table holds p's span, and p when none does. -/
def Obligations.RemapGivesTheSpareLine : Prop :=
  ∀ (s : State) (p : Nat),
    (∀ k, (p % 16, p / 512, k) ∈ s.edc.remap → (∀ j, (p % 16, p / 512, j) ∈ s.edc.remap → j = k) →
        s.remap p = 16 * (2 ^ 27 - 2 ^ 16 + 32 * k + p / 16 % 32) + p % 16) ∧
    ((∀ k, (p % 16, p / 512, k) ∉ s.edc.remap) → s.remap p = p)

/-- R10: under a schedule of TICK_NUM over TICK_DEN seconds from TICK_EPOCH and TICK_BASE, tick k stands on the fu nearest its exact
instant, the later one of two equally near, so at most half an fu away; consecutive ticks lie within one fu of the exact period;
the n-th tick behind TICK_BASE stands where the rule's loop of acc_fu and acc_rem places it. A commit of tick parameters at the
boundary of tick k takes k as TICK_BASE and k's instant as TICK_EPOCH, and the tick's instant is that of the newest schedule that
has begun. -/
def Obligations.TicksStandOnTheNearestFu : Prop :=
  (Fld.desc .seq_TICK_BASE).width = 48 ∧ (Fld.desc .seq_TICK_NUM).width = 32 ∧ (Fld.desc .seq_TICK_DEN).width = 32 ∧
  (∀ g : Seg, 0 < g.den →
    (∀ k : Nat, -(g.den : Int) < 2 * (g.den * (g.time k - g.epoch) - ((k : Int) - g.base) * (g.num * 160000000000)) ∧
        2 * (g.den * (g.time k - g.epoch) - ((k : Int) - g.base) * (g.num * 160000000000)) ≤ g.den) ∧
    (∀ k : Nat, -(g.den : Int) ≤ g.den * (g.time (k + 1) - g.time k) - g.num * 160000000000 ∧
        g.den * (g.time (k + 1) - g.time k) - g.num * 160000000000 ≤ g.den) ∧
    (∀ n : Nat, g.time (g.base + n) = g.epoch + (placedFu g.den (placeAt g.num g.den n) : Nat))) ∧
  (∀ (s old : State) (g : Staged) (k : Nat), old.rebases g = true → (s.commitTicks old g k).seq.segs.head? = some
    ⟨k, k, old.tickTime k, g.rd .seq_TICK_NUM, g.rd .seq_TICK_DEN⟩) ∧
  (∀ (s : State) (g : Seg) (l : List Seg) (k : Nat), s.seq.segs = g :: l → g.first ≤ k → s.tickTime k = g.time k)

/-- R149: a residue is reduced modulo 2^B into B signed bits; m is 2e or -2e - 1 and stays below 2^B; its bucket is 0 for m = 0 and
else the bit length of m, a symbol of the 40; a residue is coded as its bucket's prefix code and the k - 1 extra bits of
m - 2^(k-1), the highest first; frame elements of 12 and 24 bits, under the prediction R147 gives them by MED or by LEFT, and the OFFSETs of event
words are coded so, under tables that give each of the 40 symbols a length. -/
def Obligations.ResiduesAreMappedAndCoded : Prop :=
  (∀ (b x : Nat) (q : Int), 0 < b → -(2 ^ (b - 1) : Int) ≤ residue b x q ∧ residue b x q < 2 ^ (b - 1) ∧
    ((2 ^ b : Nat) : Int) ∣ ((x : Int) - q - residue b x q) ∧ mapRes (residue b x q) < 2 ^ b ∧
    bitLen (mapRes (residue b x q)) ≤ b) ∧
  (∀ e : Int, (0 ≤ e → (mapRes e : Int) = 2 * e) ∧ (e < 0 → (mapRes e : Int) = -2 * e - 1)) ∧
  (∀ m : Nat, (m = 0 → bitLen m = 0) ∧ (m ≠ 0 → 2 ^ (bitLen m - 1) ≤ m ∧ m < 2 ^ bitLen m)) ∧
  (∀ (t : CodeTab) (m : Nat), codeRes t m = codeBits t (bitLen m) ++
    (List.range (bitLen m - 1)).map (fun i => bit (m - 2 ^ (bitLen m - 1)) (bitLen m - 2 - i))) ∧
  (∀ (b w : Nat) (t : CodeTab) (left : Bool) (vals : List Nat), b = 12 ∨ b = 24 →
    (frameItems b w t left vals).length = vals.length ∧ ∀ (i : Nat) (x : CItem), (frameItems b w t left vals)[i]? = some x →
      x.v = vals.getD i 0 ∧ x.m = mapRes (residue b x.v (framePred w left vals i)) ∧ x.coded = codeRes t x.m ∧
      x.sym = some (bitLen x.m) ∧ bitLen x.m ≤ b) ∧
  (∀ (t : CodeTab) (prev v : Nat), (eventItem t prev v).m = mapRes (residue 38 (v / 2 % 2 ^ 38) prev) ∧
    (eventItem t prev v).coded.take (codeRes t (eventItem t prev v).m).length = codeRes t (eventItem t prev v).m ∧
    (eventItem t prev v).sym = some (bitLen (eventItem t prev v).m) ∧ bitLen (eventItem t prev v).m ≤ 38) ∧
  tableF.length = 40 ∧ tableT.length = 40 ∧ ∀ h : List Nat, (dynTable h).length = 40

/-- R151: the codes of a table of 40 lengths of 1 to 15 are those the rule's loop assigns, len bits each; a table is valid when it
has such lengths and the sum of 2^(-length) over the symbols is at most 1. -/
def Obligations.CodesAreCanonical : Prop :=
  (∀ (t : CodeTab), t.length = 40 → (∀ l ∈ t, 1 ≤ l ∧ l ≤ 15) → ∀ k < 40, (codeBits t k).length = lenOf t k ∧
    (canonLoop t).2.find? (fun e => e.1 == k) = some (k, codeOf t k)) ∧
  (∀ t : CodeTab, CodeTab.valid t = true ↔
    t.length = 40 ∧ (∀ l ∈ t, 1 ≤ l ∧ l ≤ 15) ∧ (t.map (fun l => (1 / 2 : ℚ) ^ l)).sum ≤ 1)

/-- R20: where SAFE entry and a staged configuration fall on one boundary, the configuration is dropped: no field in force
changes, CFG_EPOCH does not advance, and the shadows stay for the next commit. -/
def Obligations.SafeTakesPrecedenceOverACommit : Prop :=
  ∀ (s : State) (t : Nat) (g : Staged), s.alive .seq = true → s.staged = some g → (s.at t).commitDue = true →
    s.seq.safeAt = some (s.at t).clock → Brings (.commitBoundary t) s (fun u => u.staged = none ∧
      (∀ f i, f.desc.acc = .rwc → u.rd f i = s.rd f i ∧ u.rdSh f i = s.rdSh f i) ∧
      u.rd .seq_CFG_EPOCH = s.rd .seq_CFG_EPOCH ∧ u.pfe.maskF = s.pfe.maskF ∧ u.pfe.maskS = s.pfe.maskS ∧
      u.tdc.offF = s.tdc.offF ∧ u.tdc.offS = s.tdc.offS)

/-- R94: a commit that would put a non-zero mode word in force is refused whole unless PWR_STATE is READY or ACQUIRE, ACQUIRE-enable
is given and a schedule runs: CFG_ERR and MODE_ERR are set in SEQ and nothing of it goes in force. -/
def Obligations.ModeCommitsNeedReadinessEnableAndTick : Prop :=
  ∀ (s : State) (t : Nat) (g : Staged) (r : Fin 16), s.alive .seq = true → s.staged = some g → (s.at t).commitDue = true →
    s.seq.safeAt ≠ some (s.at t).clock → g.mode r ≠ 0 →
    ¬((s.pwr = .ready ∨ s.pwr = .acquire) ∧ s.flag .pmr_ACQ_ENABLED = true ∧ s.flag .seq_TICK_RUN = true) →
    Brings (.commitBoundary t) s (fun u => u.staged = none ∧ u.flag .seq_CFG_ERR = true ∧ u.flag .seq_MODE_ERR = true ∧
      (∀ f i, f.desc.acc = .rwc → u.rd f i = s.rd f i ∧ u.rdSh f i = s.rdSh f i) ∧
      u.rd .seq_CFG_EPOCH = s.rd .seq_CFG_EPOCH ∧ u.pfe.maskF = s.pfe.maskF ∧ u.tdc.offF = s.tdc.offF ∧ u.pwr = s.pwr)

/-- R346: an operation names a bad address when bit 31 is set, WIN is above 0x13, PAGE above 16, PAGE is not 0 in a window other than
PFE, TDC, HST, ACC and CMP, the address is not a multiple of 4, or the COUNT words of a non-FIXED operation leave the page; no
other address is bad. It executes nothing and is answered 0x02, and the message's other operations run as if it were not there. -/
def Obligations.BadAddressesExecuteNothing : Prop :=
  (∀ (fixed : Bool) (addr : BitVec 32) (n : Nat), addrBad fixed addr.toNat n = true ↔
    (addr.toNat / 2 ^ 31 = 1 ∨ 0x13 < addr.toNat / 2 ^ 20 % 32 ∨ 16 < addr.toNat / 2 ^ 25 % 32 ∨
      (addr.toNat / 2 ^ 25 % 32 ≠ 0 ∧ addr.toNat / 2 ^ 20 % 32 ∉ [2, 3, 7, 8, 9]) ∨ addr.toNat % 4 ≠ 0 ∨
      (fixed = false ∧ 2 ^ 20 < addr.toNat % 2 ^ 20 + 4 * n))) ∧
  (∀ (s : State) (a : Accessor) (o : ThbOp) (addr : BitVec 32) (fixed : Bool) (l m : List ThbOp),
    (∃ n, o = .read fixed n addr) ∨ (∃ ws, o = .write fixed addr ws) → addrBad fixed addr.toNat (ThbOp.count o) = true →
    (s.pmr.recovery = true → recoveryOp o = true) →
    (s.thbOps a (l ++ o :: m)).1 = (s.thbOps a (l ++ m)).1 ∧
    (s.thbOps a (l ++ o :: m)).2 = (s.thbOps a (l ++ m)).2.take l.length ++ ThbOp.answer o 2 :: (s.thbOps a (l ++
        m)).2.drop l.length)

/-- Whatever command is at the front of the queue, the power state after a step is the one before it or one that table
Architecture-8 leads to from it, or OFF or START, which the supply, the contacts and the resets lead to from any: STANDBY is
entered from READY alone and ACQUIRE from READY alone (R18, R19). -/
def Obligations.PowerStatesFollowTheTable : Prop :=
  ∀ s u : State, step s = .next u → u.pwr = s.pwr ∨ u.pwr = .off ∨ u.pwr = .start ∨
    (s.pwr, u.pwr) ∈ [(.start, .ready), (.start, .safe), (.ready, .standby), (.standby, .ready), (.ready, .acquire),
      (.acquire, .ready), (.ready, .safe), (.acquire, .safe), (.standby, .safe), (.safe, .ready)]

/-! ### Frames: what the commands leave alone -/

/-- R6, R18, R28 to R31, R41 to R43, R114: what the narrow commands of the power states, the sensor, the front end and the
commit leave alone. Each runs, changes the parts and registers named, those of a region for that region alone, and nothing
else. -/
def Obligations.SensorFrames : Prop :=
  ∀ (s : State) (t : Nat),
    Leaves (.powerOn t) s [.pmr, .held, .pwr] (just [] [.pmr_PWR_STATE, .pmr_BOOT_FALLBACK, .pmr_RESET_CAUSE]) ∧
    (∀ (rstN : Bool), Leaves (.resetReleaseHigh t rstN) s [.pmr, .held, .pwr] (just [] [.pmr_PWR_STATE,
        .pmr_BOOT_FALLBACK, .pmr_RESET_CAUSE])) ∧
    Leaves (.railRetry t) s [.pmr, .flt, .ctl, .detected, .staged] (fun f i => if f.isHdr then i / 17 == Blk.flt.idx else
        f.desc.blk == .flt) ∧
    Leaves (.pwrCmdReady t) s [.pmr] (just [] [.pmr_PWR_CMD_ERR, .pmr_ACQ_ENABLED]) ∧
    Leaves (.pwrCmdStandby t) s [.pmr, .sns] (just [] [.pmr_PWR_CMD_ERR, .sns_BIAS_EN, .sns_V_SET, .sns_BIAS_OK,
        .sns_RAMPING]) ∧
    Leaves (.pwrCmdAcquireEnable t) s [] (just [] [.pmr_PWR_CMD_ERR, .pmr_ACQ_ENABLED]) ∧
    Leaves (.standbyExit t) s [.pmr, .pfe, .tdc, .evb, .hst, .accum, .cmp, .trg, .lnk, .pwr, .out] (just []
        [.pmr_PWR_STATE, .cab_CFG_ERR, .cab_REPAIR_BUSY]) ∧
    Leaves (.acquireToReady t) s [.pwr] (just [] [.pmr_PWR_STATE, .cab_CFG_ERR, .cab_REPAIR_BUSY]) ∧
    Leaves (.safeExit t) s [.pmr, .flash, .que, .trg, .lnk, .tre, .detected, .pwr, .out, .events] (just []
        [.pmr_PWR_STATE, .evb_ZS_EN, .trg_TRIG_LAT_ERR, .trg_TRIG_LAT_MIN, .que_PATCH_FULL, .que_SHARED_USED,
        .que_SHARED_PEAK, .que_PATCH_USED, .cab_CFG_ERR, .cab_REPAIR_BUSY, .lnk_PORT_UP, .lnk_L0_STATE, .lnk_L1_STATE,
        .lnk_LANES_UP, .tre_ENUM_DONE, .tre_TOPO_FAULT, .tre_FEAT_PEND, .tre_DEPTH, .tre_TREE_FEAT, .tre_FEAT_TICK,
        .tre_FW_MIN, .tre_ENUM_COUNT, .tre_LINK_ROLE, .tre_STBY_OK, .eth_EVQ_LOST, .flt_SAFE_ACT]) ∧
    (∀ (r : Fin 16), LeavesIn r (.biasEnSet t r) s [.sns, .hka] (just [(.sns_V_SET, r), (.sns_BIAS_OK, r), (.sns_RAMPING,
        r)] [.sns_BIAS_EN, .sns_BIAS_EN_ERR])) ∧
    (∀ (r : Fin 16), LeavesIn r (.biasEnClear t r) s [.sns] (just [(.sns_V_SET, r), (.sns_BIAS_OK, r), (.sns_RAMPING, r)]
        [.sns_BIAS_EN])) ∧
    (∀ (r : Fin 16), LeavesIn r (.biasRampDone t r) s [.sns] (just [(.sns_V_SET, r), (.sns_BIAS_OK, r), (.sns_RAMPING, r)]
        [])) ∧
    (∀ (r : Fin 16), LeavesIn r (.regionOvercurrent t r) s [.sns, .detected] (just [(.sns_V_SET, r), (.sns_BIAS_OK, r),
        (.sns_RAMPING, r), (.sns_OC_TRIP, r)] [.sns_BIAS_EN])) ∧
    Leaves (.railOvercurrent t) s [.detected] (just [] [.sns_OC_TOTAL_TRIP]) ∧
    (∀ (r : Fin 16) (c : Fin 16384) (p : Fin 16) (raw : RawCapture), LeavesIn r (.pixelEdge t r c p raw) s [.pfe, .tdc,
        .detected, .events] (just [(.tdcr_DROP_QFULL, r), (.tdcr_CODE_ERR, r), (.tdcr_PH_AMBIG, r)] [.tdc_CODE_ERR_ALL,
        .eth_EVQ_LOST])) ∧
    (∀ (r : Fin 16) (c : Fin 16384) (p : Fin 16), LeavesIn r (.pixelHoldoffEnd t r c p) s [.pfe] (just [] [])) ∧
    (∀ (r : Fin 16) (v : BitVec 32), LeavesIn r (.maskDataWrite t r v) s [.pfe] (just [(.pfer_MASK_ADDR, r),
        (.hdr_SHADOW_DIRTY, 17 * Blk.pfe.idx + 1 + r)] [])) ∧
    (∀ (r : Fin 16), LeavesIn r (.maskDataRead t r) s [.lastRead] (just [(.pfer_MASK_ADDR, r)] [])) ∧
    Leaves (.maskSave t) s [.pfe] (just [] [.pfe_MASK_SAVE_BUSY, .pfe_MASK_SAVE_IGN]) ∧
    Leaves (.maskSaveDone t) s [.flash, .pfe] (just [] [.pfe_MASK_SAVE_BUSY]) ∧
    (∀ (r : Fin 16), LeavesIn r (.hotClr t r) s [.pfe] (just [] [])) ∧
    (∀ (r : Fin 16), LeavesIn r (.injectedPulse t r) s [.pfe, .tdc, .detected, .free, .events] (just [(.pfer_INJ_OVR, r),
        (.tdcr_DROP_QFULL, r), (.tdcr_CODE_ERR, r), (.tdcr_PH_AMBIG, r)] [.tdc_CODE_ERR_ALL, .eth_EVQ_LOST])) ∧
    Leaves (.commit t) s [.lnk, .tre, .staged] (just [] [.seq_CFG_ERR, .seq_TICK_CFG_ERR, .seq_COMMIT_PEND,
        .seq_COMMIT_LATE, .seq_COMMIT_BUSY, .hdr_SHADOW_DIRTY]) ∧
    (∀ (r : Fin 16), LeavesIn r (.regionDrainDone t r) s [.seq] (just [] [.seq_REGION_FINAL]))

/-- R6, R57, R62, R68, R73, R76, R81, R90: what the commands of the converters and of the time base that do not step TB time
leave alone. None of them writes the record store or a configuration field. -/
def Obligations.ConverterAndTimeFrames : Prop :=
  ∀ (s : State) (t : Nat),
    (∀ (r : Fin 16) (c : Fin 16384), LeavesIn r (.captureWindowClose t r c) s [.tdc, .detected, .events] (just
        [(.tdcr_DROP_QFULL, r), (.tdcr_CODE_ERR, r), (.tdcr_PH_AMBIG, r)] [.tdc_CODE_ERR_ALL, .eth_EVQ_LOST])) ∧
    (∀ (r : Fin 16), LeavesIn r (.tdcDrainDone t r) s [.tdc] (just [(.tdcr_TDC_FINAL, r)] [])) ∧
    (∀ (b : CalBatch), Leaves (.calBatchClose t b) s [.tdc, .tbs, .events] (just [] [.eth_EVQ_LOST])) ∧
    (∀ (r : Fin 16) (g : Fin 16), LeavesIn r (.calBatchTimeout t r g) s [.tdc] (just [] [])) ∧
    (∀ (r : Fin 16), LeavesIn r (.calReset t r) s [.tdc] (just [] [])) ∧
    (∀ (r : Fin 16), LeavesIn r (.calLoad t r) s [.tdc] (just [(.tdcr_CFG_ERR, r), (.tdcr_CAL_LOAD_BUSY, r)] [])) ∧
    (∀ (r : Fin 16) (w : Option (BitVec 32)), LeavesIn r (.tdcOffAccess t r w) s [.tdc, .lastRead] (just [(.tdcr_OFS_ADDR,
        r), (.hdr_SHADOW_DIRTY, 17 * Blk.tdc.idx + 1 + r)] [])) ∧
    (∀ (ch : Fin 4), Leaves (.auxInstanceSwap t ch) s [.tdc] (just [] [])) ∧
    (∀ (spacingBad : Bool) (pllLost : Bool), Leaves (.phaseMonitor t spacingBad pllLost) s [.tdc, .detected] (just []
        [.tdc_CLK_FAULT, .tdc_CLK_BAD])) ∧
    Leaves (.refLoss t) s [.tbs, .detected, .events] (just [] (sourceRegs.append [.tbs_REF_QUAL, .tbs_REF_LOST,
        .eth_EVQ_LOST])) ∧
    Leaves (.refInResume t) s [.tbs] (just [] [.tbs_REF_LOST]) ∧
    (∀ (ppb : Int), Leaves (.refWindow t ppb) s [.tbs, .detected, .events] (just [] (sourceRegs.append [.tbs_REF_QUAL,
        .tbs_REF_BAD, .tbs_REF_PPM, .eth_EVQ_LOST]))) ∧
    Leaves (.ppsTimeout t) s [.tbs, .detected, .events] (just [] (sourceRegs.append [.tbs_PPS_QUAL, .tbs_PPS_LOST,
        .eth_EVQ_LOST])) ∧
    Leaves (.srcRevertTimer t) s [.tbs, .detected, .events] (just [] (sourceRegs.append [.eth_EVQ_LOST])) ∧
    Leaves (.holdoverWarn t) s [.tbs, .events] (just [] [.eth_EVQ_LOST]) ∧
    (∀ (l : Fin 10), Leaves (.clapperTx t l) s [.tbs, .lnk, .out] (just [] [])) ∧
    (∀ (l : Fin 10), Leaves (.clapTimeout t l) s [.tbs, .detected, .events] (just [] (sourceRegs.append [.tbs_CLAP_QUAL,
        .tbs_CLAP_VALID, .eth_EVQ_LOST]))) ∧
    (∀ (h : PtpHead) (a : PtpAnnounce), Leaves (.ptpAnnounceRx t h a) s [.tbs, .detected, .events] (just []
        (sourceRegs.append [.tbs_PTP_QUAL, .tbs_GM_ID, .tbs_UTC_OFS, .tbs_PTP_DISC, .eth_EVQ_LOST]))) ∧
    (∀ (h : PtpHead) (twoStep : Bool), Leaves (.ptpSyncRx t h twoStep) s [.tbs] (just [] [.tbs_PTP_DISC])) ∧
    (∀ (h : PtpHead) (t1 : Nat), Leaves (.ptpFollowUpRx t h t1) s [.tbs] (just [] [.tbs_PTP_DISC])) ∧
    Leaves (.ptpDelayReqTx t) s [.tbs, .out] (just [] []) ∧
    Leaves (.ptpAnnounceTimeout t) s [.tbs, .detected, .events] (just [] (sourceRegs.append [.tbs_PTP_QUAL, .tbs_GM_ID,
        .tbs_UTC_OFS, .eth_EVQ_LOST])) ∧
    Leaves (.ptpSyncTimeout t) s [.tbs, .detected, .events] (just [] (sourceRegs.append [.tbs_PTP_QUAL, .eth_EVQ_LOST])) ∧
    Leaves (.snapReq t) s [] (just [] [.tbs_SNAP_DONE, .tbs_SNAP_TIME, .tbs_SNAP_COARSE]) ∧
    Leaves (.timeNowRead t) s [.lastRead] (just [] []) ∧
    (∀ (v : BitVec 32), Leaves (.freqWordWrite t v) s [] (just [] [.tbs_CFG_ERR, .tbs_FREQ_CLAMP, .tbs_FREQ_WORD])) ∧
    Leaves (.ppsOutPulse t) s [.tbs] (just [] [])

/-- R6, R70, R99, R119, R121, R126, R133, R137, R159, R168, R175, R182: what the commands of the event path, the triggers, the
engines and the fabric leave alone. Data that move on reach the engine of their region, the fabric and the record store; no
configuration field changes but the enables an abort clears. -/
def Obligations.EventAndEngineFrames : Prop :=
  ∀ (s : State) (t : Nat),
    (∀ (r : Fin 16), LeavesIn r (.feAbort t r) s [.pfe, .tdc, .seq, .evb, .accum, .cmp, .que, .cab, .eth, .events] (just
        ((engineOf r).append [(.pfer_FE_EN, r), (.tdcr_DROP_ABORT, r), (.accr_PARTIAL, r), (.accr_ACC_FRAMES, r),
        (.accr_ACC_PARTIAL_CNT, r)]) (fabricRegs.append [.que_PATCH_CNT, .que_GRANT_WAIT, .eth_EVQ_LOST, .eth_DLY_DROP,
        .eth_QP_PI, .eth_NEXT_PSN]))) ∧
    (∀ (r : Fin 16), LeavesIn r (.frameTransferDone t r) s [.pfe, .seq, .evb, .accum, .cmp, .que, .cab, .eth, .events]
        (just ((engineOf r).append [(.pfer_FE_FINAL, r), (.pfer_SAT_LAST, r), (.accr_PARTIAL, r), (.accr_ACC_FRAMES, r),
        (.accr_ACC_PARTIAL_CNT, r)]) (fabricRegs.append [.que_PATCH_CNT, .que_GRANT_WAIT, .eth_EVQ_LOST, .eth_DLY_DROP,
        .eth_QP_PI, .eth_NEXT_PSN]))) ∧
    (∀ (r : Fin 16), LeavesIn r (.clusterReadoutVisit t r) s [.tdc, .seq, .evb, .hst, .accum, .cmp, .que, .cab, .trg,
        .eth, .events] (just ((engineOf r).append [(.tdcr_DROP_AGE, r), (.tdcr_DROP_ABORT, r), (.evb_LATE_CNT, r),
        (.evb_EARLY_REL, r), (.hstr_HST_SAT, r), (.hstr_HST_UNDER, r), (.hstr_HST_OVER, r), (.hstr_HST_DROP, r),
        (.hstr_HST_LATE, r)]) (fabricRegs.append [.pmr_XING_OVR, .pmr_XING_EXCESS, .evb_RS_EARLY, .cmp_RP_PKTS,
        .cmp_RP_STALL, .que_PATCH_CNT, .que_GRANT_WAIT, .eth_EVQ_LOST]))) ∧
    (∀ (r : Fin 16), LeavesIn r (.tdcAbort t r) s [.tdc, .seq, .evb, .accum, .cmp, .que, .cab, .eth, .events] (just
        ((engineOf r).append [(.tdcr_TDC_EN, r), (.tdcr_DROP_ABORT, r)]) (fabricRegs.append [.que_PATCH_CNT,
        .que_GRANT_WAIT, .eth_EVQ_LOST]))) ∧
    (∀ (ch : Fin 4) (falling : Bool) (raw : RawCapture) (refs : Nat), Leaves (.auxEdge t ch falling raw refs) s [.pfe,
        .tdc, .tbs, .evb, .hst, .cmp, .que, .cab, .trg, .eth, .detected, .events] (just [] ((sourceRegs ++
        fabricRegs).append [.tdc_AUX_OVR, .tdc_AUX_SKIP, .tdc_AUX_DROP, .trg_REQ_OVR, .trg_REQ_MERGED, .trg_REQ_EXCESS,
        .hstr_SYNC_MISSED, .cmp_RP_PKTS, .cmp_RP_STALL, .que_PATCH_CNT, .que_GRANT_WAIT, .tbs_PPS_QUAL, .tbs_PPS_LOST,
        .tbs_EXT_SEC_VALID, .tbs_CYCLE_SLIP, .eth_EVQ_LOST]))) ∧
    (∀ (r : Fin 16), LeavesIn r (.gateOpen t r) s [.hst, .trg] (just [] [])) ∧
    (∀ (r : Fin 16), LeavesIn r (.gateClose t r) s [.hst] (just [] [])) ∧
    (∀ (r : Fin 16), LeavesIn r (.eventWordRelease t r) s [.seq, .evb, .hst, .accum, .cmp, .que, .cab, .eth, .events]
        (just ((engineOf r).append [(.evb_LATE_CNT, r), (.evb_EARLY_REL, r), (.hstr_HST_SAT, r), (.hstr_HST_UNDER, r),
        (.hstr_HST_OVER, r), (.hstr_HST_DROP, r), (.hstr_HST_LATE, r)]) (fabricRegs.append [.evb_RS_EARLY, .cmp_RP_PKTS,
        .cmp_RP_STALL, .que_PATCH_CNT, .que_GRANT_WAIT, .eth_EVQ_LOST]))) ∧
    (∀ (r : Fin 16), LeavesIn r (.tickClose t r) s [.seq, .evb, .hst, .accum, .cmp, .que, .cab, .eth, .events] (just
        (engineOf r) (fabricRegs.append [.cmp_RP_PKTS, .cmp_RP_STALL, .que_PATCH_CNT, .que_GRANT_WAIT, .eth_EVQ_LOST]))) ∧
    (∀ (r : Fin 16), LeavesIn r (.histoDumpDone t r) s [.seq, .evb, .hst, .accum, .cmp, .que, .cab, .eth, .events] (just
        ((engineOf r).append [(.hstr_HST_SAT, r)]) (fabricRegs.append [.cmp_RP_PKTS, .cmp_RP_STALL, .que_PATCH_CNT,
        .que_GRANT_WAIT, .eth_EVQ_LOST]))) ∧
    (∀ (r : Fin 16), LeavesIn r (.frameHeadEmit t r) s [.evb, .cmp, .que, .cab, .eth, .events] (just [] (fabricRegs.append
        [.cmp_RP_PKTS, .cmp_RP_STALL, .que_PATCH_CNT, .que_GRANT_WAIT, .eth_EVQ_LOST]))) ∧
    (∀ (r : Fin 16), LeavesIn r (.windowClose t r) s [.seq, .evb, .accum, .cmp, .que, .cab, .edc, .trg, .eth, .detected,
        .events] (just (engineOf r) ((storeRegs ++ fabricRegs).append [.trg_TRG_FINAL, .cmp_RP_PKTS, .cmp_RP_STALL,
        .que_PATCH_CNT, .que_GRANT_WAIT, .eth_EVQ_LOST]))) ∧
    Leaves (.softReq t) s [.trg] (just [] [.trg_REQ_OVR, .trg_REQ_MERGED, .trg_REQ_EXCESS]) ∧
    Leaves (.mark t) s [.evb, .cmp, .que, .cab, .eth, .events] (just [] (fabricRegs.append [.cmp_RP_PKTS, .cmp_RP_STALL,
        .que_PATCH_CNT, .que_GRANT_WAIT, .eth_EVQ_LOST])) ∧
    Leaves (.rateEval t) s [.tdc, .trg] (just [] [.pmr_XING_OVR, .pmr_XING_EXCESS, .trg_REQ_OVR, .trg_REQ_MERGED,
        .trg_REQ_EXCESS]) ∧
    (∀ (inp : Fin 5), Leaves (.locCoincExpiry t inp) s [.trg] (just [] [.trg_REQ_OVR, .trg_REQ_MERGED, .trg_REQ_EXCESS]))
        ∧
    Leaves (.requestMergeEnd t) s [.trg, .lnk, .out, .events] (just [] [.trg_REQ_OVR, .trg_TRG_FINAL, .trg_REQ_SENT,
        .trg_REQ_MERGED, .trg_REQ_EXCESS, .eth_EVQ_LOST]) ∧
    (∀ (l : Fin 10) (tseq : BitVec 8) (cls : BitVec 4) (n : BitVec 8) (src : BitVec 32) (time : BitVec 56), Leaves
        (.treqRx t l tseq cls n src time) s [.trg] (just [] [.trg_REQ_OVR, .trg_REQ_MERGED, .trg_REQ_EXCESS,
        .lnk_TRIG_DUP])) ∧
    Leaves (.decisionWindowEnd t) s [.evb, .cmp, .que, .cab, .edc, .trg, .lnk, .eth, .detected, .out, .events] (just []
        ((storeRegs ++ fabricRegs).append [.trg_TRG_FINAL, .trg_DEC_COUNT, .trg_DEC_REJ, .trg_DEC_HELD, .trg_TRIG_LATE,
        .trg_PRE_SHORT_CNT, .trg_LAST_TRIG_ID, .trg_LAST_TT, .trg_LAST_CLASS, .cmp_RP_PKTS, .cmp_RP_STALL, .que_PATCH_CNT,
        .que_GRANT_WAIT, .eth_EVQ_LOST])) ∧
    (∀ (l : Fin 10) (tseq : BitVec 8) (cls : BitVec 4) (id : BitVec 32) (time : BitVec 56), Leaves (.tdecRx t l tseq cls
        id time) s [.evb, .que, .cab, .edc, .trg, .lnk, .eth, .detected, .out, .events] (just [] ((storeRegs ++
        fabricRegs).append [.trg_DEC_COUNT, .trg_TRIG_LATE, .trg_PRE_SHORT_CNT, .trg_LAST_TRIG_ID, .trg_LAST_TT,
        .trg_LAST_CLASS, .lnk_TRIG_DUP, .eth_EVQ_LOST]))) ∧
    Leaves (.triggerAction t) s [.evb, .que, .cab, .edc, .trg, .eth, .detected, .events] (just [] ((storeRegs ++
        fabricRegs).append [.trg_TRG_FINAL, .trg_PRE_SHORT_CNT, .trg_LAST_TRIG_ID, .trg_LAST_TT, .trg_LAST_CLASS,
        .eth_EVQ_LOST])) ∧
    (∀ (o : Fin 2), Leaves (.trigOutPulseStart t o) s [.trg] (just [] [])) ∧
    (∀ (o : Fin 2), Leaves (.trigOutPulseEnd t o) s [.trg] (just [] [])) ∧
    (∀ (r : Fin 16) (packBad : Bool), LeavesIn r (.chunkComplete t r packBad) s [.seq, .evb, .accum, .cmp, .que, .cab,
        .edc, .eth, .detected, .events] (just (engineOf r) ((storeRegs ++ fabricRegs).append [.que_PACK_FAULT,
        .que_PATCH_CNT, .que_GRANT_WAIT, .eth_EVQ_LOST]))) ∧
    (∀ (r : Fin 16) (k : Fin 5), LeavesIn r (.dynTableReady t r k) s [.cmp] (just [] [])) ∧
    (∀ (r : Fin 16), LeavesIn r (.stallLimit t r) s [.seq, .evb, .accum, .cmp, .que, .cab, .eth, .detected, .events] (just
        ((engineOf r).append [(.cmpr_FORCED, r)]) (fabricRegs.append [.que_PATCH_CNT, .que_GRANT_WAIT, .eth_EVQ_LOST]))) ∧
    (∀ (r : Fin 16), LeavesIn r (.cmpAbort t r) s [.pfe, .tdc, .seq, .evb, .hst, .accum, .cmp, .que, .cab, .trg, .eth,
        .events] (just ((engineOf r).append [(.pfer_FE_EN, r), (.pfer_INJ_EN, r), (.tdcr_TDC_EN, r), (.tdcr_DROP_ABORT,
        r), (.accr_SUB_IDX, r), (.accr_PARTIAL, r), (.accr_ACC_FRAMES, r), (.accr_ACC_PARTIAL_CNT, r)]) (fabricRegs.append
        [.trg_TRG_FINAL, .cmp_RP_PKTS, .cmp_RP_STALL, .que_PATCH_CNT, .que_GRANT_WAIT, .eth_EVQ_LOST, .eth_DLY_DROP,
        .eth_QP_PI, .eth_NEXT_PSN]))) ∧
    (∀ (m : BitVec 16), Leaves (.regionAbort t m) s [.pfe, .tdc, .seq, .evb, .hst, .accum, .cmp, .que, .cab, .trg, .eth,
        .events] (just [] ((engineRegs ++ fabricRegs).append [.pfer_FE_EN, .pfer_INJ_EN, .tdcr_TDC_EN, .tdcr_DROP_ABORT,
        .trg_TRG_FINAL, .accr_SUB_IDX, .accr_PARTIAL, .accr_ACC_FRAMES, .accr_ACC_PARTIAL_CNT, .cmp_RP_PKTS,
        .cmp_RP_STALL, .que_PATCH_CNT, .que_GRANT_WAIT, .eth_EVQ_LOST, .eth_DLY_DROP, .eth_QP_PI, .eth_NEXT_PSN]))) ∧
    (∀ (r : Fin 16) (who : Fin 10), LeavesIn r (.ctxDataRead t (r, who)) s [.ctl, .lastRead] (just [(.cmpr_CTX_IDX, r),
        (.hdr_SNAP_MISS, cmpPage r)] [])) ∧
    (∀ (r : Fin 16) (v : WriterWord), LeavesIn r (.ctxDataWrite t r v) s [.cmp, .ctl] (just [(.cmpr_CFG_ERR, r),
        (.cmpr_CTX_IDX, r)] [])) ∧
    (∀ (r : Fin 16), LeavesIn r (.ctxLoad t r) s [.cmp] (just [(.cmpr_CFG_ERR, r), (.cmpr_CTX_LOAD_BUSY, r)] [])) ∧
    (∀ (src : Fin 21), Leaves (.grantAvailable t src) s [.tdc, .seq, .evb, .accum, .cmp, .que, .cab, .edc, .eth,
        .detected, .events] (just [] ((engineRegs ++ storeRegs ++ fabricRegs).append [.cmp_RP_PKTS, .cmp_RP_STALL,
        .que_PATCH_CNT, .que_GRANT_WAIT, .eth_EVQ_LOST]))) ∧
    Leaves (.patchAccept t) s [.que, .cab] (just [] [.que_PATCH_FULL, .que_SHARED_USED, .que_SHARED_PEAK,
        .que_PATCH_USED]) ∧
    (∀ (item : Nat), Leaves (.holdLimit t item) s [.que, .eth, .events] (just [] [.que_PATCH_FULL, .que_SHARED_USED,
        .que_SHARED_PEAK, .que_PATCH_USED, .que_HELD_CNT, .eth_EVQ_LOST, .eth_QP_HELD])) ∧
    (∀ (item : Nat) (word : Nat) (res : WordRead), Leaves (.fabricWordRead t item word res) s [.que, .cab, .edc, .eth,
        .detected, .events] (just [] [.que_UNCORR_SEEN, .que_PATCH_FULL, .que_SHARED_USED, .que_SHARED_PEAK,
        .que_PATCH_USED, .que_CORR, .que_UNCORR, .que_HELD_CNT, .edc_SRAM_SPARE_EXH, .edc_PATCH_LOST, .edc_SRAM_CORR,
        .edc_LOG_HEAD, .eth_EVQ_LOST, .eth_QP_HELD]))

/-- R6, R185, R189, R193 to R196, R201, R205 to R207: what the commands of the record store leave alone. A command on shelves,
reels and takes writes no byte of the store; a group without poisoned lines is written to the lines R193 places it in, and to
no other. -/
def Obligations.StoreFrames : Prop :=
  ∀ (s : State) (t : Nat),
    (∀ (prod : Fin 24) (reel : Fin 64), Leaves (.groupWrite t prod reel) s [.evb, .que, .cab, .mem, .edc, .eth, .detected,
        .events] (just [] ((storeRegs ++ fabricRegs).append [.eth_EVQ_LOST]))) ∧
    (∀ (errs : List (Nat × Nat)), Leaves (.mergeOpDone t errs) s [.cab, .mem, .edc, .detected, .events] (just []
        (storeRegs.append [.eth_EVQ_LOST]))) ∧
    Leaves (.shelfDef t) s [.cab] (just [] [.cab_CFG_ERR, .cab_CMD_RES]) ∧
    Leaves (.shelfDel t) s [.cab] (just [] [.cab_CFG_ERR, .cab_CMD_RES]) ∧
    Leaves (.reelDef t) s [.cab] (just [] [.cab_CFG_ERR, .cab_CMD_RES]) ∧
    Leaves (.reelDel t) s [.evb, .que, .cab, .tre, .eth] (just [] [.cab_CFG_ERR, .cab_CMD_RES]) ∧
    Leaves (.reelClear t) s [.evb, .que, .cab, .tre, .eth] (just [] [.cab_CFG_ERR, .cab_CMD_RES]) ∧
    Leaves (.takeStart t) s [.cab] (just [] [.cab_CFG_ERR, .cab_CMD_BUSY, .cab_CMD_RES, .cab_CMD_OUT]) ∧
    Leaves (.takeStop t) s [.cab] (just [] [.cab_CFG_ERR, .cab_CMD_BUSY, .cab_CMD_RES]) ∧
    Leaves (.takeRelease t) s [.cab, .events] (just [] [.cab_CFG_ERR, .cab_CMD_RES, .eth_EVQ_LOST]) ∧
    Leaves (.takeDelete t) s [.que, .cab, .tre, .eth, .events] (just [] [.cab_CFG_ERR, .cab_CMD_RES, .eth_EVQ_LOST]) ∧
    Leaves (.dirRead t) s [] (just [] [.cab_CFG_ERR, .cab_CMD_RES, .cab_DIR_DATA]) ∧
    Leaves (.cmdOpReserved t) s [] (just [] [.cab_CFG_ERR]) ∧
    Leaves (.oflStart t) s [.evb, .que, .cab, .edc, .eth, .detected, .events] (just [] ((storeRegs ++ fabricRegs).append
        [.cab_OFL_BUSY, .cab_OFL_DONE, .cab_OFL_STATE, .eth_EVQ_LOST])) ∧
    Leaves (.oflAbort t) s [.cab] (just [] [.cab_OFL_BUSY, .cab_OFL_STATE]) ∧
    Leaves (.offloadDone t) s [.evb, .que, .cab, .edc, .eth, .detected, .events] (just [] ((storeRegs ++
        fabricRegs).append [.cab_OFL_BUSY, .cab_OFL_DONE, .cab_OFL_STATE, .eth_EVQ_LOST])) ∧
    (∀ (errs : List (Nat × Nat)) (both : Bool), Leaves (.scrubGroupRead t errs both) s [.cab, .mem, .edc, .detected,
        .events] (just [] [.cab_SCRUB_LATE, .cab_DIR_DAMAGED, .cab_SCRUB_PASSES, .cab_SCRUB_QUANT, .edc_POOL_LOW,
        .edc_POOL_EXH, .edc_TRACK_OVF, .edc_STORE_CORR, .edc_STORE_UNCORR, .edc_POISONED, .edc_HARD_LINES,
        .edc_SPANS_MAPPED, .edc_PATCH_LOST, .edc_LOG_HEAD, .edc_SPARE_FREE, .eth_EVQ_LOST])) ∧
    Leaves (.repairRun t) s [] (just [] [.cab_CFG_ERR, .cab_REPAIR_BUSY]) ∧
    (∀ (fixed : List Bool), Leaves (.repairDone t fixed) s [.flash, .cab, .mem, .edc, .detected, .events] (just []
        (storeRegs.append [.cab_REPAIR_BUSY, .edc_PPR_SOFT, .edc_PPR_HARD, .eth_EVQ_LOST]))) ∧
    (∀ (hits : List SramHit), Leaves (.sramScrub t hits) s [.pfe, .tdc, .evb, .que, .cab, .edc, .detected, .events] (just
        [] [.tdc_CODE_ERR_ALL, .tdcr_CODE_ERR, .edc_SRAM_SPARE_EXH, .edc_PATCH_LOST, .edc_SRAM_CORR, .edc_SRAM_UNCORR,
        .edc_LOG_HEAD, .eth_EVQ_LOST])) ∧
    (∀ (prod : Fin 24) (reel : Fin 64) (w : Slot) (r : Reel) (x : Ext) (h : Shelf) (g0 b : Nat), s.slotOf prod reel = some
        w → s.reel reel = some r → s.slotFull w = true → w.bad = [] → r.live.find? (fun y => y.seq == w.ext) = some x → (∀
        y ∈ s.que.items, y.prod ≠ prod.val) → s.extLine r w.ext (w.grp * (s.reelShelf r).gb) = (h, g0, b) → Brings
        (.groupWrite t prod reel) s (fun u => ∀ a, (∀ i < h.gl, a / 64 ∉ s.homes (g0 + i)) → spGet u.cab.mem a 0 = spGet
        s.cab.mem a 0))

/-- R6, R210, R218, R220, R227, R230, R231: what the commands of lanes and links leave alone. None changes a configuration
field but PORT_EN, which an abort clears; none reaches the front end, the converters or the tick; a link lost takes its time
role and its tree role with it. -/
def Obligations.LinkFrames : Prop :=
  ∀ (s : State) (t : Nat),
    (∀ (l : Fin 10) (j : Fin 2), Leaves (.rateHuntSwitch t l j) s [.lnk] (just [] [])) ∧
    (∀ (l : Fin 10) (j : Fin 2), Leaves (.blockLock t l j) s [.lnk, .free] (just [(.lnk_CTLE, laneIx l j), (laneFld j, l)]
        [])) ∧
    (∀ (l : Fin 10) (j : Fin 2), Leaves (.lockLoss t l j) s [.tbs, .que, .lnk, .tre, .detected, .out, .events] (just []
        (lossRegs.append [.que_PATCH_FULL, .que_SHARED_USED, .que_SHARED_PEAK, .que_PATCH_USED, .lnk_MISWIRE,
        .lnk_PORT_FINAL, .lnk_LINK_REV, .lnk_LANE_LOSS, .lnk_TX_PRE, .lnk_TX_POST, .lnk_CTLE, .lnk_EQ_COMPAT,
        .lnk_BACKOFF_NOW, .lnk_REPLAYS, .lnk_LOSS_CNT, .lnk_TRAIN_FAIL, .lnk_RESTRIPES, .eth_EVQ_LOST]))) ∧
    (∀ (l : Fin 10) (j : Fin 2), Leaves (.lossOfSignal t l j) s [.tbs, .que, .lnk, .tre, .detected, .out, .events] (just
        [] (lossRegs.append [.que_PATCH_FULL, .que_SHARED_USED, .que_SHARED_PEAK, .que_PATCH_USED, .lnk_MISWIRE,
        .lnk_PORT_FINAL, .lnk_LINK_REV, .lnk_LANE_LOSS, .lnk_TX_PRE, .lnk_TX_POST, .lnk_CTLE, .lnk_EQ_COMPAT,
        .lnk_BACKOFF_NOW, .lnk_REPLAYS, .lnk_LOSS_CNT, .lnk_TRAIN_FAIL, .lnk_RESTRIPES, .eth_EVQ_LOST]))) ∧
    (∀ (l : Fin 10) (j : Fin 2), Leaves (.signalReturn t l j) s [.lnk] (just [] [])) ∧
    (∀ (l : Fin 10) (j : Fin 2) (line : List Bool), takes (.lineBlockRx t l j line) s = true → Leaves (.lineBlockRx t l j
        line) s [.lnk] (just [(.lnk_BLK_ERR, laneIx l j), (.lnk_CTL_BAD, l), (.lnk_CTL_UNK, l), (.lnk_STUFF_ERR, l)] []))
        ∧
    (∀ (l : Fin 10) (j : Fin 2) (scr : BitVec 31) (n : Fin 33), Leaves (.fillRx t l j scr n) s [.lnk] (just
        [(.lnk_SCR_ERR, l)] [])) ∧
    (∀ (l : Fin 10) (j : Fin 2), Leaves (.helloTx t l j) s [.lnk, .free, .out] (just [(.lnk_TX_PRE, laneIx l j),
        (.lnk_TX_POST, laneIx l j), (.lnk_CTLE, laneIx l j), (.lnk_EQ_COMPAT, laneIx l j), (laneFld j, l)] [])) ∧
    (∀ (l : Fin 10) (j : Fin 2) (h : Hello), Leaves (.helloRx t l j h) s [.lnk, .detected, .free, .out] (just
        [(.lnk_LINK_REV, l), (.lnk_PARTNER_REV_MAX, l), (.lnk_PARTNER_ID, l), (.lnk_PARTNER_FEAT, l), (.lnk_PARTNER_PORT,
        l), (.lnk_PARTNER_ROLE, l), (.lnk_PARTNER_SPLIT, l), (.lnk_PARTNER_MROLE, l), (.lnk_PARTNER_FW, l), (.lnk_TX_PRE,
        laneIx l j), (.lnk_TX_POST, laneIx l j), (.lnk_CTLE, laneIx l j), (.lnk_EQ_COMPAT, laneIx l j), (laneFld j, l)]
        [.lnk_MISWIRE])) ∧
    (∀ (l : Fin 10) (j : Fin 2), Leaves (.revSwitch t l j) s [.lnk] (just [(.lnk_LINK_REV, l), (.lnk_TX_PRE, laneIx l j),
        (.lnk_TX_POST, laneIx l j), (.lnk_CTLE, laneIx l j), (.lnk_EQ_COMPAT, laneIx l j), (laneFld j, l)] [])) ∧
    (∀ (l : Fin 10) (j : Fin 2), Leaves (.helloTimeout t l j) s [.tbs, .que, .lnk, .tre, .detected, .out, .events] (just
        [] (lossRegs.append [.que_PATCH_FULL, .que_SHARED_USED, .que_SHARED_PEAK, .que_PATCH_USED, .lnk_MISWIRE,
        .lnk_PORT_FINAL, .lnk_LINK_REV, .lnk_LANE_LOSS, .lnk_TX_PRE, .lnk_TX_POST, .lnk_CTLE, .lnk_EQ_COMPAT,
        .lnk_BACKOFF_NOW, .lnk_REPLAYS, .lnk_TRAIN_FAIL, .lnk_RESTRIPES, .eth_EVQ_LOST]))) ∧
    (∀ (l : Fin 10) (j : Fin 2) (m : Train), Leaves (.trainRx t l j m) s [.que, .trg, .lnk, .tre, .free, .out] (just []
        [.que_PATCH_FULL, .que_SHARED_USED, .que_SHARED_PEAK, .que_PATCH_USED, .lnk_PORT_UP, .lnk_L0_STATE, .lnk_L1_STATE,
        .lnk_LANES_UP, .lnk_TX_PRE, .lnk_TX_POST, .lnk_BACKOFF_NOW])) ∧
    (∀ (l : Fin 10) (j : Fin 2), Leaves (.rxReady t l j) s [.que, .trg, .lnk, .tre, .out] (just [] [.que_PATCH_FULL,
        .que_SHARED_USED, .que_SHARED_PEAK, .que_PATCH_USED, .lnk_PORT_UP, .lnk_L0_STATE, .lnk_L1_STATE, .lnk_LANES_UP,
        .lnk_BACKOFF_NOW])) ∧
    (∀ (l : Fin 10) (j : Fin 2), Leaves (.trainTimeout t l j) s [.tbs, .que, .lnk, .tre, .detected, .out, .events] (just
        [] (lossRegs.append [.que_PATCH_FULL, .que_SHARED_USED, .que_SHARED_PEAK, .que_PATCH_USED, .lnk_MISWIRE,
        .lnk_PORT_FINAL, .lnk_LINK_REV, .lnk_LANE_LOSS, .lnk_TX_PRE, .lnk_TX_POST, .lnk_CTLE, .lnk_EQ_COMPAT,
        .lnk_BACKOFF_NOW, .lnk_REPLAYS, .lnk_TRAIN_FAIL, .lnk_RESTRIPES, .eth_EVQ_LOST]))) ∧
    (∀ (l : Fin 10) (j : Fin 2) (bad : Nat) (margin : Nat), Leaves (.compatSweepStep t l j bad margin) s [.tbs, .que,
        .trg, .lnk, .tre, .detected, .out, .events] (just [] (lossRegs.append [.que_PATCH_FULL, .que_SHARED_USED,
        .que_SHARED_PEAK, .que_PATCH_USED, .lnk_MISWIRE, .lnk_PORT_FINAL, .lnk_LINK_REV, .lnk_LANE_LOSS, .lnk_TX_PRE,
        .lnk_TX_POST, .lnk_CTLE, .lnk_EQ_COMPAT, .lnk_BACKOFF_NOW, .lnk_REPLAYS, .lnk_TRAIN_FAIL, .lnk_RESTRIPES,
        .eth_EVQ_LOST]))) ∧
    (∀ (l : Fin 10), Leaves (.alignTx t l) s [.lnk, .out] (just [] [])) ∧
    (∀ (l : Fin 10) (a : BitVec 16) (b : BitVec 16) (skew : Nat), Leaves (.alignRx t l a b skew) s [.que, .trg, .lnk,
        .tre, .out] (just [] [.que_PATCH_FULL, .que_SHARED_USED, .que_SHARED_PEAK, .que_PATCH_USED, .lnk_PORT_UP,
        .lnk_L0_STATE, .lnk_L1_STATE, .lnk_LANES_UP, .lnk_ALIGN_ERR, .lnk_BACKOFF_NOW])) ∧
    (∀ (l : Fin 10) (j : Fin 2), Leaves (.backoffDone t l j) s [.lnk] (just [(.lnk_LINK_REV, l), (.lnk_TX_PRE, laneIx l
        j), (.lnk_TX_POST, laneIx l j), (.lnk_CTLE, laneIx l j), (.lnk_EQ_COMPAT, laneIx l j), (laneFld j, l)] [])) ∧
    (∀ (l : Fin 10) (j : Fin 2), Leaves (.relockTimeout t l j) s [.tbs, .que, .lnk, .tre, .detected, .out, .events] (just
        [] (lossRegs.append [.que_PATCH_FULL, .que_SHARED_USED, .que_SHARED_PEAK, .que_PATCH_USED, .lnk_MISWIRE,
        .lnk_PORT_FINAL, .lnk_LINK_REV, .lnk_LANE_LOSS, .lnk_TX_PRE, .lnk_TX_POST, .lnk_CTLE, .lnk_EQ_COMPAT,
        .lnk_BACKOFF_NOW, .lnk_REPLAYS, .lnk_TRAIN_FAIL, .lnk_RESTRIPES, .eth_EVQ_LOST]))) ∧
    (∀ (l : Fin 10), s.pmr.warm = none → Leaves (.frameTx t l) s [.tbs, .evb, .que, .cab, .edc, .lnk, .tre, .eth,
        .detected, .out, .events] (just [] ((lossRegs ++ storeRegs ++ fabricRegs).append [.lnk_MISWIRE, .lnk_PORT_FINAL,
        .lnk_LINK_REV, .lnk_TX_PRE, .lnk_TX_POST, .lnk_CTLE, .lnk_EQ_COMPAT, .tre_TRE_FINAL, .tre_FWD_LOG, .tre_CRED_WAIT,
        .eth_EVQ_LOST]))) ∧
    (∀ (l : Fin 10), s.pmr.warm ≠ none → Brings (.frameTx t l) s (fun u => u.pending = s.pending ∧ ∀ x ∈ [Part.free,
        .lastRead], SamePart s u x)) ∧
    (∀ (l : Fin 10) (f : RxFrame), takes (.frameRx t l f) s = true → Leaves (.frameRx t l f) s [.tbs, .evb, .que, .cab,
        .lnk, .tre, .eth, .detected, .out, .events] (just [] ((lossRegs ++ fabricRegs).append [.evb_ZS_EN, .lnk_MISWIRE,
        .lnk_PORT_FINAL, .lnk_LINK_REV, .lnk_TX_PRE, .lnk_TX_POST, .lnk_CTLE, .lnk_EQ_COMPAT, .lnk_CRC_ERR, .lnk_VC_ERR,
        .tre_CRED_VIOL, .tre_FEAT_PEND, .tre_TREE_FEAT, .tre_FEAT_TICK, .tre_LATE_PKT, .tre_DUP_PKT, .tre_CRED_VIOL_CNT,
        .tre_HOLES, .eth_EVQ_LOST]))) ∧
    (∀ (l : Fin 10) (n : BitVec 16), Leaves (.ackRx t l n) s [.tbs, .que, .lnk, .tre, .detected, .out, .events] (just []
        (lossRegs.append [.que_PATCH_FULL, .que_SHARED_USED, .que_SHARED_PEAK, .que_PATCH_USED, .lnk_MISWIRE,
        .lnk_PORT_FINAL, .lnk_LINK_REV, .lnk_TX_PRE, .lnk_TX_POST, .lnk_CTLE, .lnk_EQ_COMPAT, .eth_EVQ_LOST]))) ∧
    (∀ (l : Fin 10) (n : BitVec 16), Leaves (.nakRx t l n) s [.tbs, .que, .lnk, .tre, .detected, .out, .events] (just []
        (lossRegs.append [.que_PATCH_FULL, .que_SHARED_USED, .que_SHARED_PEAK, .que_PATCH_USED, .lnk_MISWIRE,
        .lnk_PORT_FINAL, .lnk_LINK_REV, .lnk_TX_PRE, .lnk_TX_POST, .lnk_CTLE, .lnk_EQ_COMPAT, .lnk_REPLAYS,
        .eth_EVQ_LOST]))) ∧
    (∀ (l : Fin 10), Leaves (.ackTx t l) s [.lnk, .out] (just [] [])) ∧
    (∀ (l : Fin 10), Leaves (.replayTimeout t l) s [.tbs, .que, .lnk, .tre, .detected, .out, .events] (just []
        (lossRegs.append [.que_PATCH_FULL, .que_SHARED_USED, .que_SHARED_PEAK, .que_PATCH_USED, .lnk_MISWIRE,
        .lnk_PORT_FINAL, .lnk_LINK_REV, .lnk_TX_PRE, .lnk_TX_POST, .lnk_CTLE, .lnk_EQ_COMPAT, .lnk_REPLAYS,
        .eth_EVQ_LOST]))) ∧
    (∀ (l : Fin 10), Leaves (.heartTx t l) s [.evb, .que, .cab, .lnk, .tre, .eth, .detected, .out, .events] (just []
        (fabricRegs.append [.evb_ZS_EN, .tre_TOPO_FAULT, .tre_FEAT_PEND, .tre_TREE_FEAT, .tre_FEAT_TICK, .tre_LATE_PKT,
        .tre_DUP_PKT, .tre_HOLES, .tre_LINK_ROLE, .tre_STBY_OK, .eth_EVQ_LOST]))) ∧
    (∀ (l : Fin 10) (h : Heart), Leaves (.heartRx t l h) s [.tbs, .que, .trg, .lnk, .tre, .detected, .out, .events] (just
        [] (lossRegs.append [.que_PATCH_FULL, .que_SHARED_USED, .que_SHARED_PEAK, .que_PATCH_USED, .lnk_MISWIRE,
        .lnk_PORT_FINAL, .lnk_LINK_REV, .lnk_TX_PRE, .lnk_TX_POST, .lnk_CTLE, .lnk_EQ_COMPAT, .eth_EVQ_LOST]))) ∧
    (∀ (l : Fin 10), Leaves (.silent t l) s [.tbs, .que, .lnk, .tre, .detected, .events] (just [] (lossRegs.append
        [.que_PATCH_FULL, .que_SHARED_USED, .que_SHARED_PEAK, .que_PATCH_USED, .lnk_MISWIRE, .lnk_PORT_FINAL,
        .lnk_LINK_REV, .lnk_SILENT, .lnk_TX_PRE, .lnk_TX_POST, .lnk_CTLE, .lnk_EQ_COMPAT, .eth_EVQ_LOST]))) ∧
    (∀ (l : Fin 10), Leaves (.trigResend t l) s [.trg, .lnk, .out] (just [(.lnk_TRIG_RESEND, l)] [])) ∧
    (∀ (l : Fin 10) (lanes : BitVec 2) (ack : Bool), Leaves (.restripeRx t l lanes ack) s [.lnk, .detected, .out] (just []
        [.lnk_PORT_UP, .lnk_DEGRADED, .lnk_LANES_UP, .lnk_LANE_LOSS, .lnk_REPLAYS, .lnk_RESTRIPES])) ∧
    (∀ (l : Fin 10), Leaves (.laneRejoin t l) s [.que, .trg, .lnk, .tre, .out, .events] (just [] [.que_PATCH_FULL,
        .que_SHARED_USED, .que_SHARED_PEAK, .que_PATCH_USED, .lnk_PORT_UP, .lnk_DEGRADED, .lnk_L0_STATE, .lnk_L1_STATE,
        .lnk_LANES_UP, .lnk_BACKOFF_NOW, .eth_EVQ_LOST])) ∧
    (∀ (m : BitVec 6), Leaves (.portAbort t m) s [.tbs, .que, .lnk, .tre, .detected, .events] (just [] (lossRegs.append
        [.que_PATCH_FULL, .que_SHARED_USED, .que_SHARED_PEAK, .que_PATCH_USED, .lnk_PORT_EN, .lnk_MISWIRE,
        .lnk_PORT_FINAL, .lnk_LINK_REV, .lnk_TX_PRE, .lnk_TX_POST, .lnk_CTLE, .lnk_EQ_COMPAT, .eth_EVQ_LOST]))) ∧
    (∀ (l : Fin 10) (m : BitVec 2), Leaves (.retrain t l m) s [.tbs, .que, .lnk, .tre, .detected, .out, .events] (just []
        (lossRegs.append [.que_PATCH_FULL, .que_SHARED_USED, .que_SHARED_PEAK, .que_PATCH_USED, .lnk_MISWIRE,
        .lnk_PORT_FINAL, .lnk_LINK_REV, .lnk_LANE_LOSS, .lnk_TX_PRE, .lnk_TX_POST, .lnk_CTLE, .lnk_EQ_COMPAT,
        .lnk_BACKOFF_NOW, .lnk_REPLAYS, .lnk_TRAIN_FAIL, .lnk_RESTRIPES, .eth_EVQ_LOST])))

/-- R6, R238, R240, R245, R249, R254, R256, R259, R262: what the commands of the tree leave alone. -/
def Obligations.TreeFrames : Prop :=
  ∀ (s : State) (t : Nat),
    (∀ (l : Fin 10) (src : BitVec 32) (root : BitVec 32) (hop : BitVec 16) (assign : BitVec 32) (feat : BitVec 32), Leaves
        (.enumRx t l src root hop assign feat) s [.lnk, .tre, .detected] (just [] [.tre_TOPO_FAULT, .tre_MODULE_ID,
        .tre_ROOT_ID, .tre_HOP, .tre_TREE_FEAT, .tre_LINK_ROLE, .tre_PEER_ID])) ∧
    (∀ (l : Fin 10) (id : BitVec 32) (parent : BitVec 32) (role : BitVec 1) (feat : BitVec 32) (fw : BitVec 16) (rev :
        BitVec 8), Leaves (.enumReplyRx t l id parent role feat fw rev) s [.lnk, .tre, .detected, .events] (just []
        [.evb_ZS_EN, .trg_TRIG_LAT_ERR, .trg_TRIG_LAT_MIN, .tre_ENUM_DONE, .tre_TOPO_FAULT, .tre_FEAT_PEND, .tre_DEPTH,
        .tre_TREE_FEAT, .tre_FEAT_TICK, .tre_FW_MIN, .tre_ENUM_COUNT, .tre_LINK_ROLE, .tre_STBY_OK, .tre_PEER_ID,
        .eth_EVQ_LOST])) ∧
    Leaves (.enumReplyTimeout t) s [.lnk, .tre, .detected] (just [] [.tre_TOPO_FAULT]) ∧
    Leaves (.enumWaitTimeout t) s [.tre, .detected] (just [] [.tre_TOPO_FAULT]) ∧
    Leaves (.enumStart t) s [.lnk, .tre, .detected] (just [] [.trg_TRIG_LAT_ERR, .trg_TRIG_LAT_MIN, .tre_CFG_ERR,
        .tre_ENUM_DONE, .tre_TOPO_FAULT, .tre_MODULE_ID, .tre_DEPTH, .tre_FW_MIN, .tre_ENUM_COUNT]) ∧
    (∀ (l : Fin 10) (no : BitVec 32), Leaves (.claimRx t l no) s [.tbs, .que, .cab, .lnk, .tre, .detected, .events] (just
        [] (sourceRegs.append [.que_PATCH_FULL, .que_SHARED_USED, .que_SHARED_PEAK, .que_PATCH_USED, .tbs_CLAP_QUAL,
        .tre_MODULE_ID, .tre_HOP, .tre_CLAIM_REFUSED, .tre_FWD_LOG, .tre_LINK_ROLE, .tre_STBY_OK, .tre_LINK_CLAIM,
        .eth_EVQ_LOST]))) ∧
    (∀ (l : Fin 10) (no : BitVec 32) (result : BitVec 1) (held : BitVec 32), Leaves (.claimAckRx t l no result held) s
        [.lnk, .tre, .detected, .events] (just [] [.evb_ZS_EN, .trg_TRIG_LAT_ERR, .trg_TRIG_LAT_MIN, .tre_ENUM_DONE,
        .tre_TOPO_FAULT, .tre_FEAT_PEND, .tre_DEPTH, .tre_TREE_FEAT, .tre_FEAT_TICK, .tre_FW_MIN, .tre_ENUM_COUNT,
        .tre_LINK_ROLE, .tre_STBY_OK, .tre_LINK_CLAIM, .eth_EVQ_LOST])) ∧
    (∀ (l : Fin 10) (held : BitVec 32), Leaves (.lostRx t l held) s [.lnk, .tre, .detected] (just [] [.tre_TOPO_FAULT,
        .tre_LINK_ROLE])) ∧
    Leaves (.lostTimeout t) s [.lnk, .tre, .detected] (just [] [.tre_TOPO_FAULT]) ∧
    (∀ (l : Fin 10) (no : BitVec 32), Leaves (.demoteRx t l no) s [.tre] (just [] [.tre_LINK_ROLE, .tre_STBY_OK])) ∧
    (∀ (l : Fin 10) (child : BitVec 32) (grant : Bool), Leaves (.stbyOkRx t l child grant) s [.lnk, .tre] (just []
        [.tre_LINK_ROLE, .tre_STBY_OK])) ∧
    (∀ (l : Fin 10) (tick : BitVec 48) (claim : BitVec 32) (cnt : Vector (BitVec 64) 4) (held : List HeldName), takes
        (.horizonRx t l tick claim cnt held) s = true → Leaves (.horizonRx t l tick claim cnt held) s [.tre] (just []
        [.tre_HOLE_OVF, .tre_HOLES, .tre_LINK_CLAIM, .tre_LINK_HZN])) ∧
    Leaves (.mergeHorizonAdvance t) s [.evb, .que, .cab, .lnk, .tre, .eth, .detected, .events] (just [] (fabricRegs.append
        [.evb_ZS_EN, .tre_TOPO_FAULT, .tre_FEAT_PEND, .tre_TRE_FINAL, .tre_TREE_FEAT, .tre_FEAT_TICK, .tre_MERGE_HZN,
        .tre_LATE_PKT, .tre_DUP_PKT, .tre_HOLES, .tre_LINK_ROLE, .tre_STBY_OK, .eth_EVQ_LOST])) ∧
    (∀ (l : Fin 10), Leaves (.mergeGiveUp t l) s [.evb, .cmp, .que, .cab, .lnk, .tre, .eth, .detected, .events] (just []
        (fabricRegs.append [.evb_ZS_EN, .cmp_RP_PKTS, .cmp_RP_STALL, .que_PATCH_CNT, .que_GRANT_WAIT, .tre_TOPO_FAULT,
        .tre_FEAT_PEND, .tre_TREE_FEAT, .tre_FEAT_TICK, .tre_MERGE_HZN, .tre_GAP_EMIT, .tre_LINK_ROLE, .tre_STBY_OK,
        .tre_LINK_HZN, .tre_LINK_GAPS, .eth_EVQ_LOST]))) ∧
    (∀ (l : Fin 10), Leaves (.heldDelivery t l) s [.evb, .que, .cab, .edc, .tre, .eth, .detected, .events] (just []
        ((storeRegs ++ fabricRegs).append [.eth_EVQ_LOST]))) ∧
    (∀ (l : Fin 10), Leaves (.confirmTx t l) s [.lnk, .tre] (just [] [])) ∧
    (∀ (l : Fin 10) (conf : Vector (BitVec 64) 4), Leaves (.confirmRx t l conf) s [.cab, .tre] (just [] [.tre_FWD_LOG])) ∧
    (∀ (l : Fin 10) (child : BitVec 32) (parent : BitVec 32) (no : BitVec 32), Leaves (.topoRx t l child parent no) s
        [.lnk, .tre, .detected, .events] (just [] [.evb_ZS_EN, .trg_TRIG_LAT_ERR, .trg_TRIG_LAT_MIN, .tre_ENUM_DONE,
        .tre_TOPO_FAULT, .tre_FEAT_PEND, .tre_DEPTH, .tre_TREE_FEAT, .tre_FEAT_TICK, .tre_FW_MIN, .tre_ENUM_COUNT,
        .tre_LINK_ROLE, .tre_STBY_OK, .eth_EVQ_LOST])) ∧
    (∀ (l : Fin 10) (feat : BitVec 32) (tick : BitVec 48), Leaves (.featsetRx t l feat tick) s [.evb, .lnk, .tre,
        .detected, .events] (just [] [.seq_TICK_SLIP, .evb_ZS_EN, .tre_TOPO_FAULT, .tre_FEAT_PEND, .tre_TREE_FEAT,
        .tre_FEAT_TICK, .tre_LINK_ROLE, .tre_STBY_OK, .eth_EVQ_LOST])) ∧
    (∀ (m : BitVec 10) (own : Bool), Leaves (.claimReq t m own) s [.lnk, .tre, .detected] (just [] [.tre_CFG_ERR,
        .tre_TOPO_FAULT, .tre_LINK_ROLE])) ∧
    (∀ (v : BitVec 2), Leaves (.roleSwWrite t v) s [.flash] (just [] [.tre_ROLE_SW, .tre_CFG_ERR])) ∧
    (∀ (l : Fin 10) (p : RelayRep), s.pmr.warm = none → Leaves (.relayReplyRx t l p) s [.lnk, .tre, .ctl, .out] (just []
        [])) ∧
    (∀ (l : Fin 10) (p : RelayRep), s.pmr.warm ≠ none → Brings (.relayReplyRx t l p) s (fun u => u.pending = s.pending ∧ ∀
        x ∈ [Part.free, .lastRead], SamePart s u x)) ∧
    (∀ (seq : BitVec 16), s.pmr.warm = none → Leaves (.relayTimeout t seq) s [.tre, .ctl, .out] (just [] [])) ∧
    (∀ (seq : BitVec 16), s.pmr.warm ≠ none → Brings (.relayTimeout t seq) s (fun u => u.pending = s.pending ∧ ∀ x ∈
        [Part.free, .lastRead], SamePart s u x))

/-- R6, R264, R270, R276, R279, R285, R287, R292, R293, R343: what the commands of the Ethernet port, its queue pairs, the
sessions and the firmware transfer leave alone. -/
def Obligations.HostFrames : Prop :=
  ∀ (s : State) (t : Nat),
    Leaves (.ethLinkUp t) s [.eth, .free, .out, .events] (just [] [.eth_LINK_UP, .eth_EVQ_LOST, .eth_DLY_LOST,
        .eth_QP_STATE, .eth_RETRANS]) ∧
    Leaves (.ethLinkDown t) s [] (just [] [.eth_LINK_UP]) ∧
    (∀ (f : EthFrame), Leaves (.ethFrameRx t f) s [.eth] (just [] [.eth_RX_DISC_LEN, .eth_RX_DISC_VLAN, .eth_RX_DISC_TYPE,
        .eth_RX_DISC_IP, .eth_RX_DISC_PORT, .eth_RX_DISC_FCS, .eth_INBOUND_REQ, .ctl_THB_OVF])) ∧
    (∀ (req : Bool) (sip : BitVec 32) (smac : BitVec 48) (tip : BitVec 32), Leaves (.arpRx t req sip smac tip) s [.eth,
        .out, .events] (just [] [.eth_EVQ_LOST, .eth_QP_STATE])) ∧
    (∀ (ip : BitVec 32), Leaves (.arpTimeout t ip) s [.eth, .out, .events] (just [] [.eth_EVQ_LOST])) ∧
    (∀ (ip : BitVec 32), Leaves (.arpRefresh t ip) s [.eth, .out] (just [] [])) ∧
    (∀ (q : Fin 8), Leaves (.qpResolveRetry t q) s [.eth, .out, .events] (just [] [.eth_EVQ_LOST, .eth_QP_STATE])) ∧
    (∀ (m : DhcpMsg), Leaves (.dhcpRx t m) s [.eth, .free, .out, .events] (just [] [.eth_ADDR_VALID, .eth_IP_IN_USE,
        .eth_EVQ_LOST, .eth_QP_STATE])) ∧
    Leaves (.dhcpRenew t) s [.eth, .free, .out] (just [] []) ∧
    Leaves (.dhcpRebind t) s [.eth, .free, .out] (just [] []) ∧
    Leaves (.dhcpLeaseExpire t) s [.eth, .free, .out, .events] (just [] [.eth_ADDR_VALID, .eth_IP_IN_USE, .eth_EVQ_LOST])
        ∧
    (∀ (src : BitVec 32) (id : BitVec 32), Leaves (.icmpEchoRx t src id) s [.eth, .out] (just [] [.eth_ICMP_LIMITED])) ∧
    (∀ (en : BitVec 8) (quanta : Vector (BitVec 16) 8), Leaves (.pfcFrameRx t en quanta) s [.eth] (just [] [.eth_PAUSED,
        .eth_RX_DISC_TYPE])) ∧
    Leaves (.pfcPauseEnd t) s [.eth] (just [] [.eth_PAUSED]) ∧
    (∀ (q : Fin 8), Leaves (.roceMessageTx t q) s [.evb, .que, .cab, .edc, .eth, .detected, .out, .events] (just []
        ((storeRegs ++ fabricRegs).append [.eth_EVQ_LOST, .eth_QP_PI, .eth_QP_STATE, .eth_NEXT_PSN]))) ∧
    (∀ (q : Fin 8) (psn : BitVec 24), Leaves (.roceAckRx t q psn) s [.eth, .events] (just [] [.eth_ETH_FINAL,
        .eth_QP_FINAL, .eth_EVQ_LOST, .eth_QP_STATE])) ∧
    (∀ (q : Fin 8) (psn : BitVec 24) (k : NakKind), Leaves (.roceNakRx t q psn k) s [.que, .eth, .events] (just []
        [.que_PATCH_FULL, .que_SHARED_USED, .que_SHARED_PEAK, .que_PATCH_USED, .que_HELD_CNT, .eth_ETH_FINAL,
        .eth_QP_FINAL, .eth_EVQ_LOST, .eth_DLY_LOST, .eth_QP_STATE, .eth_RETRANS, .eth_RNR_CNT, .eth_QP_HELD])) ∧
    (∀ (q : Fin 8), Leaves (.ackTmo t q) s [.que, .eth, .events] (just [] [.que_PATCH_FULL, .que_SHARED_USED,
        .que_SHARED_PEAK, .que_PATCH_USED, .que_HELD_CNT, .eth_ETH_FINAL, .eth_QP_FINAL, .eth_EVQ_LOST, .eth_DLY_LOST,
        .eth_QP_STATE, .eth_RETRANS, .eth_TIMEOUTS, .eth_QP_HELD])) ∧
    (∀ (q : Fin 8), Leaves (.rnrWaitEnd t q) s [.evb, .que, .cab, .edc, .eth, .detected, .out, .events] (just []
        ((storeRegs ++ fabricRegs).append [.eth_EVQ_LOST, .eth_QP_PI, .eth_QP_STATE, .eth_NEXT_PSN]))) ∧
    (∀ (q : Fin 8), Leaves (.cnpRx t q) s [.eth] (just [] [.eth_RATE, .eth_CNP_RX])) ∧
    (∀ (q : Fin 8), Leaves (.rateRecovery t q) s [.eth] (just [] [.eth_RATE])) ∧
    (∀ (q : Fin 8) (v : BitVec 32), Leaves (.qpCiWrite t q v) s [] (just [] [.eth_CFG_ERR, .eth_QP_CI, .eth_QP_STATE])) ∧
    (∀ (m : BitVec 8), Leaves (.qpAbort t m) s [.que, .eth, .events] (just [] [.que_PATCH_FULL, .que_SHARED_USED,
        .que_SHARED_PEAK, .que_PATCH_USED, .que_HELD_CNT, .eth_ETH_FINAL, .eth_QP_FINAL, .eth_EVQ_LOST, .eth_QP_EN,
        .eth_QP_STATE, .eth_QP_HELD])) ∧
    (∀ (h : ThbHead) (level : BitVec 8) (nonce : BitVec 64), Leaves (.openReq t h level nonce) s [.eth, .ctl, .out] (just
        [] [.ctl_SESS_OPEN, .ctl_SESS_SLOT, .ctl_SESS_LEVEL, .ctl_SESS_IP, .ctl_SESS_PORT, .ctl_SESS_SALT, .ctl_AUTH_FAIL,
        .ctl_REPLAY_DROP])) ∧
    (∀ (h : ThbHead), Leaves (.closeReq t h) s [.eth, .ctl, .out] (just [] [.ctl_SESS_OPEN, .ctl_SESS_SLOT,
        .ctl_SESS_LEVEL, .ctl_SESS_IP, .ctl_SESS_PORT, .ctl_SESS_SALT, .ctl_AUTH_FAIL])) ∧
    (∀ (n : Fin 8), Leaves (.sessionIdle t n) s [.ctl] (just [] [.ctl_SESS_OPEN, .ctl_SESS_SLOT, .ctl_SESS_LEVEL,
        .ctl_SESS_IP, .ctl_SESS_PORT, .ctl_SESS_SALT])) ∧
    (∀ (level : Bool), Leaves (.provisionEnChange t level) s [.ctl, .events] (just [] [.eth_EVQ_LOST, .ctl_PROV,
        .ctl_SESS_OPEN, .ctl_KEY_VALID, .ctl_SESS_SLOT, .ctl_SESS_LEVEL, .ctl_SESS_IP, .ctl_SESS_PORT, .ctl_SESS_SALT])) ∧
    (∀ (own : Bool), Leaves (.fwBegin t own) s [.flash, .events] (just [] [.eth_EVQ_LOST, .ctl_FW_STATE])) ∧
    (∀ (flashErr : Bool), Leaves (.fwEraseDone t flashErr) s [.events] (just [] [.eth_EVQ_LOST, .ctl_FW_STATE])) ∧
    (∀ (own : Bool), Leaves (.fwVerify t own) s [.events] (just [] [.eth_EVQ_LOST, .ctl_CFG_ERR, .ctl_FW_STATE])) ∧
    (∀ (flashErr : Bool), Leaves (.fwVerifyDone t flashErr) s [.events] (just [] [.eth_EVQ_LOST, .ctl_FW_STATE])) ∧
    (∀ (own : Bool), Leaves (.fwAbort t own) s [.flash, .events] (just [] [.eth_EVQ_LOST, .ctl_FW_STATE])) ∧
    (∀ (own : Bool), Leaves (.fwActivate t own) s [.flash] (just [] [.pmr_CFG_ERR])) ∧
    (∀ (own : Bool), Leaves (.fwConfirm t own) s [.flash] (just [] [.pmr_CFG_ERR, .pmr_TRIAL]))

/-- R6, R297, R304, R317, R319, R324, R328: what the commands of housekeeping, of the fault collection and of the voted core
leave alone. An acknowledgement or a clear, real or injected, reaches no block but FLT and the event queue. -/
def Obligations.HousekeepingAndFaultFrames : Prop :=
  ∀ (s : State) (t : Nat),
    (∀ (v : Vector HkaSample 32), Leaves (.hkaScan t v) s [.hka, .detected, .events] (just [] [.eth_EVQ_LOST,
        .hka_CLAMP_SEEN, .hka_RES_VAL, .hka_VALID, .hka_STALE, .hka_OVR, .hka_SETTLING, .hka_CLAMP, .hka_RANGE])) ∧
    Leaves (.rtdReversal t) s [.hka] (just [] []) ∧
    Leaves (.rtdPeriodEnd t) s [.hka, .events] (just [] [.eth_EVQ_LOST, .hka_RTD_OPEN, .hka_RES_VAL, .hka_VALID,
        .hka_STALE, .hka_OPEN, .hka_CLAMP, .hka_OOR]) ∧
    (∀ (dev : BitVec 4), Leaves (.rtdMonitor t dev) s [.hka, .detected] (just [] [.hka_RTD_OPEN, .hka_VALID, .hka_STALE,
        .hka_OPEN])) ∧
    Leaves (.calReq t) s [.hka] (just [] [.hka_CAL_BUSY, .hka_CAL_IGN]) ∧
    Leaves (.hkaCalPeriodic t) s [.hka] (just [] [.hka_CAL_BUSY]) ∧
    (∀ (f : Vector CalFactors 4), Leaves (.hkaCalDone t f) s [.hka, .detected, .events] (just [] [.eth_EVQ_LOST,
        .hka_CAL_BUSY, .hka_CAL_FAIL, .hka_CAL_OFS, .hka_CAL_GAIN, .hka_RANGE_GAIN0, .hka_RANGE_GAIN1, .hka_RANGE_GAIN2,
        .hka_IEXC])) ∧
    Leaves (.injReq t) s [.hka, .events] (just [] [.eth_EVQ_LOST, .hka_CAL_BUSY, .hka_CAL_ABORTED, .hka_INJ_BUSY,
        .hka_INJ_IGN, .hka_INJ_DONE]) ∧
    (∀ (x : HkaSample), Leaves (.hkaInjDone t x) s [.hka] (just [] [.hka_CAL_BUSY, .hka_INJ_BUSY, .hka_CLAMP_SEEN,
        .hka_INJ_CODE, .hka_INJ_IN, .hka_INJ_RANGE, .hka_INJ_DONE, .hka_INJ_CLAMP, .hka_INJ_VALUE])) ∧
    Leaves (.tecPeriodStart t) s [.hka] (just [] []) ∧
    Leaves (.shadowExpiry t) s [.flt] (just [] []) ∧
    (∀ (m : BitVec 15), Leaves (.ackReal t m) s [.flt, .events] (just [] [.eth_EVQ_LOST, .flt_MAX_LEVEL, .flt_LEVEL,
        .flt_STATE, .flt_INJ_LVL_NOW, .flt_INJ_STATE])) ∧
    (∀ (m : BitVec 15), Leaves (.ackInj t m) s [.flt, .events] (just [] [.eth_EVQ_LOST, .flt_MAX_LEVEL, .flt_LEVEL,
        .flt_STATE, .flt_INJ_LVL_NOW, .flt_INJ_STATE])) ∧
    (∀ (m : BitVec 15) (own : Bool), Leaves (.clrReal t m own) s [.flt, .events] (just [] [.eth_EVQ_LOST, .flt_MAX_LEVEL,
        .flt_CLR_REFUSED, .flt_LEVEL, .flt_STATE, .flt_INJ_LVL_NOW, .flt_INJ_STATE])) ∧
    (∀ (m : BitVec 15) (own : Bool), Leaves (.clrInj t m own) s [.flt, .events] (just [] [.eth_EVQ_LOST, .flt_MAX_LEVEL,
        .flt_CLR_REFUSED, .flt_LEVEL, .flt_STATE, .flt_INJ_LVL_NOW, .flt_INJ_STATE])) ∧
    Leaves (.injGo t) s [.flt, .detected] (just [] [.flt_CFG_ERR]) ∧
    (∀ (m : Fin 3), Leaves (.resyncDone t m) s [.pmr] (just [] [.flt_MEM_A, .flt_MEM_B, .flt_MEM_C])) ∧
    Leaves (.coreRestartDone t) s [.pmr, .flt, .events] (just [] [.eth_EVQ_LOST, .flt_MEM_A, .flt_MEM_B, .flt_MEM_C,
        .flt_CORE_RESTARTED])

/-- R6, R349, R350, R354 to R359: what an accessor that reaches its page leaves alone. A word of plain fields written changes those
fields and its page's header; a refused one the header's DENY_CNT alone; a read moves the reader's snapshot and an index; a REVERT
the shadows of its page; a key the slots and the sessions. A message without an access, and a relay for another module, change no
register space at all. -/
def Obligations.RegisterFrames : Prop :=
  (∀ (s : State) (t : Nat) (a : Accessor) (addr v : BitVec 32) (p o : Nat), p = addrPg addr.toNat → o = addrOff addr.toNat →
    addrBad false addr.toNat 1 = false → Reaches s a p →
    (addrView addr.toNat = false → bit (s.rd .hdr_WR_MASK p) (Accessor.eff a).lvl = true → mwOf p o = none →
        (∀ x ∈ slotsIn p o 1, plain s x.1 = true) →
        Leaves (.registerWrite t a addr v) s [] (just (slotsIn p o 1 ++ counted p) [.ctl_SESS_LEVEL])) ∧
    (addrView addr.toNat = false → bit (s.rd .hdr_WR_MASK p) (Accessor.eff a).lvl = false →
        Leaves (.registerWrite t a addr v) s [] (just [(.hdr_DENY_CNT, p)] [.ctl_SESS_LEVEL])) ∧
    (∀ (base n : Nat), addrView addr.toNat = false → bit (s.rd .hdr_WR_MASK p) (Accessor.eff a).lvl = true →
        mwOf p o = some (base, n) → o ≠ base + 4 * (n - 1) →
        Leaves (.registerWrite t a addr v) s [.ctl] (just ((counted p).append [(.hdr_DENY_CNT, p)]) [.ctl_SESS_LEVEL])) ∧
    (∀ (base n : Nat), addrView addr.toNat = false → bit (s.rd .hdr_WR_MASK p) (Accessor.eff a).lvl = true →
        mwOf p o = some (base, n) → o = base + 4 * (n - 1) → (∀ x ∈ slotsIn p base n, plain s x.1 = true) →
        Leaves (.multiwordCommit t a addr v) s [.ctl] (just (slotsIn p base n ++ counted p) [.ctl_SESS_LEVEL])) ∧
    Leaves (.multiwordCapture t a addr) s [.ctl, .lastRead] (just [(.hdr_DENY_CNT, p), (.hdr_SNAP_MISS, p),
        (.pfer_MASK_ADDR, p % 17 - 1), (.tdcr_OFS_ADDR, p % 17 - 1), (.cmpr_CTX_IDX, p % 17 - 1)] [.ctl_SESS_LEVEL])) ∧
  (∀ (s : State) (t : Nat) (a : Accessor) (blk : Fin 20) (page : Fin 17) (p : Nat),
        (page.val = 0 ∨ winReplicated blk.val = true) →
    p = 17 * blk.val + page.val → Reaches s a p →
    Brings (.revert t a blk page) s (fun u => Frame s u [.pfe, .tdc] (fun f i => ((.hdr_DENY_CNT,
        p) :: counted p).contains (f, i) ||
        f = .ctl_SESS_LEVEL || f.pageOf i == p) ∧
        (∀ f i, (f, i) ∉ (.hdr_DENY_CNT, p) :: counted p → f ≠ .ctl_SESS_LEVEL → u.rd f i = s.rd f i) ∧
        u.pfe = { s.pfe with maskS := u.pfe.maskS } ∧ u.tdc = { s.tdc with offS := u.tdc.offS }) ∧
    (∀ (v : BitVec 32), Leaves (.privMaskWrite t a blk page v) s [] (just ((counted p).append [(.hdr_RD_MASK, p),
        (.hdr_WR_MASK, p),
        (.hdr_DENY_CNT, p)]) [.ctl_SESS_LEVEL]))) ∧
  (∀ (s : State) (t : Nat) (a : Accessor) (p : Nat), p = 17 * Blk.ctl.idx → Reaches s a p →
    (∀ (slot : Fin 7) (v : BitVec 32), Leaves (.keyWrite t a slot v) s [.ctl,
        .events] (just ((counted p).append [(.ctl_KEY, slot.val),
        (.hdr_DENY_CNT, p)]) (sessRegs.append [.ctl_KEY_VALID, .ctl_CFG_ERR, .eth_EVQ_LOST]))) ∧
    (∀ (slot : Fin 7) (v : BitVec 2), Leaves (.keyLevelWrite t a slot v) s [.ctl,
        .events] (just ((counted p).append [(.ctl_KEY_LEVEL, slot.val),
        (.hdr_DENY_CNT, p)]) (sessRegs.append [.ctl_CFG_ERR, .eth_EVQ_LOST]))) ∧
    (∀ (slot : Fin 7), Leaves (.keyRevoke t a slot) s [.ctl, .events] (just ((counted p).append [(.ctl_KEY, slot.val),
        (.ctl_KEY_LEVEL, slot.val),
        (.hdr_DENY_CNT, p)]) (sessRegs.append [.ctl_KEY_VALID, .ctl_CFG_ERR, .eth_EVQ_LOST]))) ∧
    Leaves (.keyClear t a) s [.ctl, .events] (just ((slotsIn p 0x20 1 ++ counted p).append [(.hdr_DENY_CNT, p)])
        (sessRegs.append [.ctl_KEY, .ctl_KEY_LEVEL, .ctl_KEY_VALID, .ctl_CFG_ERR, .eth_EVQ_LOST]))) ∧
  (∀ (s : State) (t : Nat) (h : ThbHead) (ops : List ThbOp), s.pmr.warm = none → s.ctl.closing = 0 →
    (∀ o ∈ ops, ∃ n, o = .nop n) → Leaves (.request t h 0 [] ops) s [.eth, .ctl, .out] (just [] [.ctl_SESS_LEVEL,
        .ctl_MSG_EXEC, .ctl_AUTH_FAIL, .ctl_REPLAY_DROP])) ∧
  (∀ (s : State) (t : Nat) (l : Fin 10) (q : RelayReq), takes (.relayRequestRx t l q) s = true → q.target ≠ 0xFFFFFFFF →
    q.target ≠ s.myId → Leaves (.relayRequestRx t l q) s [.lnk, .tre, .out] (just [] [.tre_RELAY_FWD, .tre_RELAY_NOROUTE]))

/-- R10, R16, R20, R84, R115, R322, R328, R335, R339, R341, R377: what the commands that reach most of the module leave alone:
the start, SAFE, the boundaries, a commit in force, the steps of TB time, a fault taken and the resets. -/
def Obligations.WideFrames : Prop :=
  ∀ (s : State) (t : Nat),
    (∀ (x : StartUp), s.bootPick ≠ .again → Leaves (.startComplete t x) s [.pmr, .flash, .sns, .pfe, .tdc, .tbs, .seq,
        .evb, .hst, .accum, .cmp, .que, .cab, .mem, .edc, .trg, .lnk, .tre, .hka, .eth, .detected, .held, .pwr, .free,
        .out, .events] (within [.pmr, .sns, .pfe, .tdc, .trg, .acc, .cmp, .que, .cab, .edc, .tbs, .lnk, .tre, .eth, .hka,
        .flt] [.pfer_FE_EN, .pfer_INJ_EN, .tdcr_TDC_EN, .seq_REGION_MODE, .evb_ZS_EN, .eth_ETH_SPEED])) ∧
    (∀ (x : StartUp), s.bootPick = .again → Brings (.startComplete t x) s (fun u => u.pending = s.pending ∧ ∀ x ∈
        [Part.free, .lastRead, .out], SamePart s u x)) ∧
    (∀ (own : Bool), Leaves (.pwrCmdSafe t own) s [.pmr, .sns, .pfe, .tdc, .seq, .evb, .hst, .accum, .cmp, .que, .cab,
        .trg, .lnk, .eth, .pwr, .events] (just [] ((engineRegs ++ fabricRegs).append [.pmr_PWR_CMD_ERR, .pmr_PWR_STATE,
        .pmr_ACQ_ENABLED, .sns_BIAS_EN, .sns_V_SET, .sns_BIAS_OK, .sns_RAMPING, .pfer_FE_EN, .pfer_INJ_EN, .tdcr_TDC_EN,
        .tdcr_DROP_ABORT, .seq_REGION_MODE, .trg_TRG_FINAL, .accr_SUB_IDX, .accr_PARTIAL, .accr_ACC_FRAMES,
        .accr_ACC_PARTIAL_CNT, .cmp_RP_PKTS, .cmp_RP_STALL, .que_PATCH_CNT, .que_GRANT_WAIT, .lnk_PORT_UP, .lnk_L0_STATE,
        .lnk_L1_STATE, .lnk_LANES_UP, .eth_EVQ_LOST, .eth_DLY_DROP, .eth_QP_PI, .eth_NEXT_PSN, .flt_SAFE_ACT]))) ∧
    Leaves (.standbyEntry t) s [.pmr, .seq, .evb, .hst, .accum, .cmp, .que, .cab, .mem, .edc, .trg, .eth, .detected, .pwr,
        .events] (just [] ((engineRegs ++ storeRegs ++ fabricRegs).append [.pmr_PWR_STATE, .pmr_ACQ_ENABLED, .cmp_RP_PKTS,
        .cmp_RP_STALL, .que_PATCH_CNT, .que_GRANT_WAIT, .eth_EVQ_LOST])) ∧
    Leaves (.tickBoundary t) s [.flash, .pfe, .tdc, .tbs, .seq, .evb, .hst, .accum, .cmp, .que, .cab, .edc, .trg, .lnk,
        .tre, .hka, .eth, .detected, .staged, .out, .events] (within [.sns, .pfe, .tdc, .seq, .hst, .acc, .cmp, .que,
        .cab, .edc, .tre, .eth, .hka] [.pfer_INJ_EN, .seq_TICK_NUM, .seq_TICK_DEN, .seq_TICK_EPOCH, .seq_TICK_BASE,
        .seq_REGION_MODE, .evb_ZS_EN]) ∧
    Leaves (.pacingInstant t) s [.flash, .pfe, .tdc, .tbs, .seq, .evb, .hst, .accum, .cmp, .que, .cab, .edc, .trg, .lnk,
        .tre, .hka, .eth, .detected, .staged, .out, .events] (just [] ((engineRegs ++ storeRegs ++ fabricRegs).append
        [.sns_BIAS_FROZEN, .sns_T_USED, .sns_V_SET, .sns_VCLAMP, .pfer_INJ_EN, .tdcr_CAL_LOAD_BUSY, .seq_REGION_MODE,
        .seq_REGION_FINAL, .evb_ZS_EN, .hstr_GATE_HELD, .hstr_GATE_IDX, .accr_SUB_IDX, .accr_PARTIAL, .accr_ACC_FRAMES,
        .accr_ACC_PARTIAL_CNT, .cmp_RP_PKTS, .cmp_RP_STALL, .cmpr_CTX_LOAD_BUSY, .que_PATCH_CNT, .que_GRANT_WAIT,
        .edc_SRAM_ROWS_SPARED, .tre_TOPO_FAULT, .tre_FEAT_PEND, .tre_TREE_FEAT, .tre_LINK_ROLE, .tre_STBY_OK,
        .eth_EVQ_LOST, .eth_DLY_DROP, .eth_QP_PI, .eth_NEXT_PSN, .hka_RES_VAL, .hka_VALID, .hka_STALE, .hka_OVR,
        .hka_CLAMP, .hka_RANGE])) ∧
    Leaves (.tickScheduleStart t) s [.flash, .pfe, .tdc, .tbs, .seq, .evb, .hst, .accum, .cmp, .que, .cab, .edc, .trg,
        .lnk, .tre, .hka, .eth, .detected, .staged, .out, .events] (just [] ((engineRegs ++ storeRegs ++
        fabricRegs).append [.sns_BIAS_FROZEN, .sns_T_USED, .sns_V_SET, .sns_VCLAMP, .pfer_INJ_EN, .pfer_INJ_OVR,
        .tdcr_CAL_LOAD_BUSY, .seq_TICK_RUN, .seq_TICK_INDEX, .seq_REGION_MODE, .seq_REGION_FINAL, .evb_ZS_EN,
        .hstr_GATE_HELD, .hstr_GATE_IDX, .accr_SUB_IDX, .accr_PARTIAL, .accr_ACC_FRAMES, .accr_ACC_PARTIAL_CNT,
        .cmp_RP_PKTS, .cmp_RP_STALL, .cmpr_CTX_LOAD_BUSY, .que_PATCH_CNT, .que_GRANT_WAIT, .edc_SRAM_ROWS_SPARED,
        .tre_TOPO_FAULT, .tre_FEAT_PEND, .tre_TREE_FEAT, .tre_LINK_ROLE, .tre_STBY_OK, .eth_EVQ_LOST, .eth_DLY_DROP,
        .eth_QP_PI, .eth_NEXT_PSN, .hka_RES_VAL, .hka_VALID, .hka_STALE, .hka_OVR, .hka_CLAMP, .hka_RANGE])) ∧
    Leaves (.commitBoundary t) s [.pmr, .sns, .pfe, .tdc, .tbs, .seq, .evb, .hst, .accum, .cmp, .que, .cab, .trg, .lnk,
        .tre, .hka, .eth, .ctl, .detected, .staged, .pwr, .free, .out, .events] (withinForce [.pmr, .sns, .pfe, .tdc,
        .seq, .evb, .trg, .hst, .acc, .cmp, .que, .cab, .edc, .tbs, .lnk, .tre, .eth, .ctl, .hka, .flt] [.hdr_PAGE_EPOCH])
        ∧
    (∀ (raw : RawCapture), Leaves (.extPhaseUpdate t raw) s [.pmr, .flash, .sns, .pfe, .tdc, .tbs, .seq, .evb, .hst,
        .accum, .cmp, .que, .cab, .edc, .trg, .lnk, .tre, .hka, .eth, .ctl, .detected, .staged, .pwr, .free, .out,
        .events] (withinForce [.pmr, .sns, .pfe, .tdc, .seq, .evb, .trg, .hst, .acc, .cmp, .que, .cab, .edc, .tbs, .lnk,
        .tre, .eth, .ctl, .hka, .flt] [.hdr_PAGE_EPOCH])) ∧
    (∀ (l : Fin 10) (lane : Fin 2) (c : Clap), Leaves (.clapperRx t l lane c) s [.pmr, .flash, .sns, .pfe, .tdc, .tbs,
        .seq, .evb, .hst, .accum, .cmp, .que, .cab, .edc, .trg, .lnk, .tre, .hka, .eth, .ctl, .detected, .staged, .pwr,
        .free, .out, .events] (withinForce [.pmr, .sns, .pfe, .tdc, .seq, .evb, .trg, .hst, .acc, .cmp, .que, .cab, .edc,
        .tbs, .lnk, .tre, .eth, .ctl, .hka, .flt] [.hdr_PAGE_EPOCH])) ∧
    (∀ (h : PtpHead) (t4 : Nat), Leaves (.ptpDelayRespRx t h t4) s [.pmr, .flash, .sns, .pfe, .tdc, .tbs, .seq, .evb,
        .hst, .accum, .cmp, .que, .cab, .edc, .trg, .lnk, .tre, .hka, .eth, .ctl, .detected, .staged, .pwr, .free, .out,
        .events] (withinForce [.pmr, .sns, .pfe, .tdc, .seq, .evb, .trg, .hst, .acc, .cmp, .que, .cab, .edc, .tbs, .lnk,
        .tre, .eth, .ctl, .hka, .flt] [.hdr_PAGE_EPOCH])) ∧
    (∀ (own : Bool), Leaves (.stepCmd t own) s [.pmr, .flash, .sns, .pfe, .tdc, .tbs, .seq, .evb, .hst, .accum, .cmp,
        .que, .cab, .edc, .trg, .lnk, .tre, .hka, .eth, .ctl, .detected, .staged, .pwr, .free, .out, .events] (withinForce
        [.pmr, .sns, .pfe, .tdc, .seq, .evb, .trg, .hst, .acc, .cmp, .que, .cab, .edc, .tbs, .lnk, .tre, .eth, .ctl, .hka,
        .flt] [.hdr_PAGE_EPOCH])) ∧
    (∀ (w : BitVec 128), Leaves (.timeSetWrite t w) s [.pmr, .flash, .sns, .pfe, .tdc, .tbs, .seq, .evb, .hst, .accum,
        .cmp, .que, .cab, .edc, .trg, .lnk, .tre, .hka, .eth, .ctl, .detected, .staged, .pwr, .free, .out, .events]
        (withinForce [.pmr, .sns, .pfe, .tdc, .seq, .evb, .trg, .hst, .acc, .cmp, .que, .cab, .edc, .tbs, .lnk, .tre,
        .eth, .ctl, .hka, .flt] [.hdr_PAGE_EPOCH])) ∧
    Leaves (.faultTake t) s [.pmr, .sns, .pfe, .tdc, .tbs, .seq, .evb, .hst, .accum, .cmp, .que, .cab, .trg, .lnk, .tre,
        .flt, .eth, .detected, .pwr, .out, .events] (within [.pmr, .sns, .tdc, .trg, .acc, .cmp, .que, .cab, .tbs, .lnk,
        .tre, .eth, .flt] [.pfer_FE_EN, .pfer_INJ_EN, .tdcr_TDC_EN, .seq_REGION_MODE]) ∧
    (∀ (b : Fin 20) (strapRole : BitVec 2) (strapPos : BitVec 4), Leaves (.blockResetRelease t b strapRole strapPos) s
        [.pmr, .pfe, .tdc, .tbs, .que, .trg, .lnk, .tre, .hka, .eth, .detected, .held, .free, .out, .events] (just []
        (lossRegs.append [.pfe_MASK_IMG_VALID, .evb_ZS_EN, .trg_TRIG_LAT_ERR, .trg_TRIG_LAT_MIN, .que_PATCH_FULL,
        .que_SHARED_USED, .que_SHARED_PEAK, .que_PATCH_USED, .lnk_MISWIRE, .lnk_PORT_FINAL, .lnk_LINK_REV, .lnk_LANE_LOSS,
        .lnk_TX_PRE, .lnk_TX_POST, .lnk_CTLE, .lnk_EQ_COMPAT, .lnk_BACKOFF_NOW, .lnk_REPLAYS, .lnk_RESTRIPES,
        .tre_ROLE_SW, .tre_ROLE, .tre_ENUM_DONE, .tre_FEAT_PEND, .tre_STRAP_POS, .tre_STRAP_ROLE, .tre_MODULE_ID,
        .tre_DEPTH, .tre_TREE_FEAT, .tre_FEAT_TICK, .tre_FW_VER, .tre_FW_MIN, .tre_ENUM_COUNT, .eth_ADDR_VALID,
        .eth_IP_IN_USE, .eth_EVQ_LOST, .eth_QP_STATE, .hka_CAL_BUSY]))) ∧
    Brings (.vinUndervoltage t) s (fun u => u.pending = s.pending ∧ u.flash = startCounted (s.at t) ∧ ∀ x ∈ [Part.free,
        .lastRead, .out],
        SamePart s u x) ∧
    Brings (.pwrEnLow t) s (fun u => u.pending = s.pending ∧ u.flash = startCounted (s.at t) ∧ ∀ x ∈ [Part.free,
        .lastRead, .out],
        SamePart s u x) ∧
    Brings (.resetNLow t) s (fun u => u.pending = s.pending ∧ u.flash = startCounted (s.at t) ∧ ∀ x ∈ [Part.free,
        .lastRead, .out],
        SamePart s u x) ∧
    (∀ (own jtag : Bool), Brings (.rstModule t own jtag) s (fun u => u.pending = s.pending ∧ ∀ x ∈ [Part.free, .lastRead,
        .out], SamePart s u x)) ∧
    (∀ (own jtag : Bool), (own = false ∧ jtag = false ∨ jtag = true ∧ s.flag .ctl_PROV = false ∨ s.pwr = .acquire) →
        Leaves (.rstModule t own jtag) s [] (just [(.hdr_DENY_CNT, 0)] [.pmr_PWR_CMD_ERR])) ∧
    Brings (.confirmTmo t) s (fun u => u.pending = s.pending ∧ ∀ x ∈ [Part.free, .lastRead, .out], SamePart s u x) ∧
    (s.flag .pmr_TRIAL = false → Leaves (.confirmTmo t) s [] (just [] [])) ∧
    (∀ (o : Vector (BitVec 32) 3), s.flag .pmr_TRIAL = false → s.pmr.warm = none → Leaves (.voterMismatch t o) s [.pmr,
        .tre, .flt, .ctl, .detected, .staged] (just [] (sessRegs.append [.seq_COMMIT_PEND, .flt_MEM_A, .flt_MEM_B,
        .flt_MEM_C, .flt_RESYNC_A, .flt_RESYNC_B, .flt_RESYNC_C, .flt_MAJ_LOSS]))) ∧
    (∀ (o : Vector (BitVec 32) 3), Brings (.voterMismatch t o) s (fun u => u.pending = s.pending ∧ ∀ x ∈ [Part.free,
        .lastRead, .out], SamePart s u x)) ∧
    (∀ (m : BitVec 20) (own : Bool), Leaves (.blkRst t m own) s [.pmr, .sns, .pfe, .tdc, .tbs, .seq, .evb, .hst, .accum,
        .cmp, .que, .trg, .lnk, .tre, .hka, .eth, .ctl, .detected, .staged, .held, .events] (fun f i => (if f.isHdr then
        bit m.toNat (i / 17) else bit m.toNat f.desc.blk.idx) || (lossRegs.append [.pmr_CFG_ERR, .que_PATCH_FULL,
        .que_SHARED_USED, .que_SHARED_PEAK, .que_PATCH_USED, .eth_EVQ_LOST]).contains f))
end

