-- ==== Sys2Proof/Laws/Bits.lean ====
section
/-! SUPPORT. Laws of bit fields: a bit after a bit is set, and after a value is cut to a width. -/

namespace Sys2Proof.Machine

theorem bit_eq_testBit (v n : Nat) : bit v n = v.testBit n := by
  rw [bit, Nat.testBit_eq_decide_div_mod_eq, Nat.shiftRight_eq_div_pow]
  rfl

/-- A value's bit n below the width it is cut to. -/
theorem bit_mod (v w n : Nat) (h : n < w) : bit (v % 2 ^ w) n = bit v n := by
  simp [bit_eq_testBit, Nat.testBit_mod_two_pow, h]

/-- A value with bit n set or clear, by its parts above and below that bit. -/
theorem setBit_eq (v n : Nat) (b : Bool) : setBit v n b = 2 ^ n * (2 * (v / 2 ^ n / 2) + b.toNat) + v % 2 ^ n := by
  have h1 := Nat.div_add_mod v (2 ^ n)
  have h2 := Nat.div_add_mod (v / 2 ^ n) 2
  have hb : (if b then 1 else 0) % 2 ^ 1 = b.toNat := by cases b <;> rfl
  have hc : (if b then 1 else 0) % 2 = b.toNat := by cases b <;> rfl
  simp only [setBit, setBits, bits, hb, hc, Nat.shiftLeft_eq, Nat.shiftRight_eq_div_pow, Nat.pow_one]
  generalize v / 2 ^ n = q at *
  generalize hr : q % 2 = r at *
  have h3 : 2 ^ n * q = 2 ^ n * (2 * (q / 2)) + r * 2 ^ n := by
    conv => lhs; rw [← h2, Nat.mul_add, Nat.mul_comm _ r]
  rw [Nat.mul_add, Nat.mul_comm _ b.toNat]
  omega

/-- The bits of a value with bit n set or clear. -/
theorem bit_setBit (v n m : Nat) (b : Bool) : bit (setBit v n b) m = if m = n then b else bit v m := by
  simp only [bit_eq_testBit, setBit_eq]
  rw [Nat.testBit_two_pow_mul_add _ (Nat.mod_lt _ (Nat.two_pow_pos n))]
  by_cases h : m < n
  · have : m ≠ n := by omega
    simp [h, this, Nat.testBit_mod_two_pow]
  · by_cases he : m = n
    · subst he
      cases b <;> simp
    · have hm : m - n = (m - n - 1) + 1 := by omega
      simp only [h, he, if_false]
      rw [hm, Nat.testBit_succ]
      have : (2 * (v / 2 ^ n / 2) + b.toNat) / 2 = v / 2 ^ n / 2 := by cases b <;> simp <;> omega
      rw [this, ← Nat.testBit_succ, Nat.testBit_div_two_pow]
      congr 1
      omega

end Sys2Proof.Machine
end

