-- ==== Sys2Proof/Laws/Sparse.lean ====
section
/-! SUPPORT. Laws of the sparse memories: a read after a write, and the canonical form every write keeps. -/

namespace Sys2Proof.Machine

theorem spGet_del_self (m : Sp) (k d : Nat) : spGet (spDel m k) k d = d := by
  induction m with
  | nil => rfl
  | cons e r ih =>
    by_cases h : e.1 = k
    · simpa [spDel, h] using ih
    · simpa [spDel, spGet, h] using ih

theorem spGet_del_of_ne (m : Sp) {k j : Nat} (d : Nat) (h : j ≠ k) : spGet (spDel m k) j d = spGet m j d := by
  induction m with
  | nil => rfl
  | cons e r ih =>
    by_cases hk : e.1 = k
    · simpa [spDel, spGet, hk, Ne.symm h] using ih
    · by_cases hj : e.1 = j
      · simp [spDel, spGet, hj, h]
      · simpa [spDel, spGet, hk, hj] using ih

theorem spGet_ins_self (m : Sp) (k v d : Nat) (h : ∀ e ∈ m, e.1 ≠ k) : spGet (spIns m k v) k d = v := by
  induction m with
  | nil => simp [spIns, spGet]
  | cons e r ih =>
    have hr := ih (fun x hx => h x (List.mem_cons_of_mem _ hx))
    have he := h e List.mem_cons_self
    by_cases hk : k < e.1
    · simp [spIns, spGet, hk]
    · simpa [spIns, spGet, hk, he] using hr

theorem spGet_ins_of_ne (m : Sp) {k j : Nat} (v d : Nat) (h : j ≠ k) : spGet (spIns m k v) j d = spGet m j d := by
  induction m with
  | nil => simp [spIns, spGet, Ne.symm h]
  | cons e r ih =>
    by_cases hk : k < e.1
    · simp [spIns, spGet, hk, Ne.symm h]
    · by_cases hj : e.1 = j
      · subst hj
        simp [spIns, spGet, hk]
      · simpa [spIns, spGet, hk, hj] using ih

theorem not_mem_del (m : Sp) (k : Nat) : ∀ e ∈ spDel m k, e.1 ≠ k := by
  intro e he
  simpa using (List.mem_filter.1 he).2

/-- A read of the key just written gives the value written. -/
@[simp] theorem spGet_set_self (m : Sp) (k v d : Nat) : spGet (spSet m k v d) k d = v := by
  unfold spSet
  split
  · next h => simp only [spGet_del_self, beq_iff_eq] at h ⊢; exact h.symm
  · exact spGet_ins_self _ k v d (not_mem_del m k)

/-- A write leaves every other key as it was. -/
theorem spGet_set_of_ne (m : Sp) {k j : Nat} (v d e : Nat) (h : j ≠ k) : spGet (spSet m k v d) j e = spGet m j e := by
  unfold spSet
  split
  · exact spGet_del_of_ne m e h
  · rw [spGet_ins_of_ne _ v e h, spGet_del_of_ne m e h]

/-! ### The canonical form -/

theorem spSorted_cons (e : Nat × Nat) (r : Sp) :
    spSorted (e :: r) = true ↔ (∀ x ∈ r, e.1 < x.1) ∧ spSorted r = true := by
  induction r generalizing e with
  | nil => simp [spSorted]
  | cons x r ih =>
    simp only [spSorted, Bool.and_eq_true, decide_eq_true_eq, ih x, List.forall_mem_cons]
    constructor
    · rintro ⟨h, hx, hr⟩
      exact ⟨⟨h, fun y hy => Nat.lt_trans h (hx y hy)⟩, hx, hr⟩
    · rintro ⟨⟨h, _⟩, hx, hr⟩
      exact ⟨h, hx, hr⟩

theorem spSorted_filter (m : Sp) (p : Nat × Nat → Bool) (h : spSorted m = true) : spSorted (m.filter p) = true := by
  induction m with
  | nil => rfl
  | cons e r ih =>
    have ⟨h1, h2⟩ := (spSorted_cons e r).1 h
    by_cases hp : p e = true
    · rw [List.filter_cons_of_pos hp]
      exact (spSorted_cons _ _).2 ⟨fun x hx => h1 x (List.mem_filter.1 hx).1, ih h2⟩
    · rw [List.filter_cons_of_neg hp]
      exact ih h2

theorem mem_ins (m : Sp) (k v : Nat) (e : Nat × Nat) (h : e ∈ spIns m k v) : e = (k, v) ∨ e ∈ m := by
  induction m with
  | nil => simpa [spIns] using h
  | cons a r ih =>
    unfold spIns at h
    split at h
    · simpa using h
    · rcases List.mem_cons.1 h with h | h
      · exact .inr (h ▸ List.mem_cons_self)
      · exact (ih h).imp id (List.mem_cons_of_mem _)

theorem spSorted_ins (m : Sp) (k v : Nat) (hk : ∀ e ∈ m, e.1 ≠ k) (h : spSorted m = true) :
    spSorted (spIns m k v) = true := by
  induction m with
  | nil => rfl
  | cons e r ih =>
    have ⟨h1, h2⟩ := (spSorted_cons e r).1 h
    unfold spIns
    split
    · next hlt =>
      exact (spSorted_cons _ _).2 ⟨fun x hx => by
        rcases List.mem_cons.1 hx with hx | hx
        · exact hx ▸ hlt
        · exact Nat.lt_trans hlt (h1 x hx), h⟩
    · next hlt =>
      have hne := hk e List.mem_cons_self
      refine (spSorted_cons _ _).2 ⟨fun x hx => ?_, ih (fun x hx => hk x (List.mem_cons_of_mem _ hx)) h2⟩
      rcases mem_ins r k v x hx with hx | hx
      · subst hx
        exact Nat.lt_of_le_of_ne (Nat.le_of_not_lt hlt) hne
      · exact h1 x hx

/-- A write keeps the keys rising. -/
theorem spSorted_set (m : Sp) (k v d : Nat) (h : spSorted m = true) : spSorted (spSet m k v d) = true := by
  unfold spSet
  split
  · exact spSorted_filter m _ h
  · exact spSorted_ins _ k v (not_mem_del m k) (spSorted_filter m _ h)

/-- A write of v at key k, where an unlisted k reads as d says, keeps the canonical form. -/
theorem spWf_set (d : Nat → Nat) (m : Sp) (k v : Nat) (h : spWf d m = true) : spWf d (spSet m k v (d k)) = true := by
  simp only [spWf, Bool.and_eq_true, List.all_eq_true, bne_iff_ne] at h ⊢
  refine ⟨spSorted_set m k v _ h.1, fun e he => ?_⟩
  unfold spSet at he
  split at he
  · exact h.2 e (List.mem_filter.1 he).1
  · next hv =>
    rcases mem_ins _ _ _ _ he with he | he
    · subst he
      simpa using hv
    · exact h.2 e (List.mem_filter.1 he).1

/-- A memory narrowed to some keys keeps the canonical form. -/
theorem spWf_filter (d : Nat → Nat) (m : Sp) (p : Nat × Nat → Bool) (h : spWf d m = true) : spWf d (m.filter p) = true := by
  simp only [spWf, Bool.and_eq_true, List.all_eq_true] at h ⊢
  exact ⟨spSorted_filter m p h.1, fun e he => h.2 e (List.mem_filter.1 he).1⟩

/-- What is in a mix comes from one of its two maps. -/
theorem mem_mix {sh fo : Sp} {q : Nat → Bool} {e : Nat × Nat} (h : e ∈ spMix sh fo q) : e ∈ sh ∨ e ∈ fo := by
  have key : ∀ (l m : Sp), e ∈ l.foldl (fun m e => spIns m e.1 e.2) m → e ∈ m ∨ e ∈ l := by
    intro l
    induction l with
    | nil => exact fun _ h => .inl h
    | cons a l ih =>
      intro m h
      rcases ih _ h with h | h
      · rcases mem_ins _ _ _ _ h with h | h
        · exact .inr (h ▸ List.mem_cons_self)
        · exact .inl h
      · exact .inr (List.mem_cons_of_mem _ h)
  exact (key _ _ h).imp (fun h => (List.mem_filter.1 h).1) (fun h => (List.mem_filter.1 h).1)

theorem spSorted_mix (sh fo : Sp) (q : Nat → Bool) (hs : spSorted sh = true) (hf : spSorted fo = true) :
    spSorted (spMix sh fo q) = true := by
  have key : ∀ (l m : Sp), spSorted l = true → spSorted m = true → (∀ e ∈ l, ∀ x ∈ m, x.1 ≠ e.1) →
      spSorted (l.foldl (fun m e => spIns m e.1 e.2) m) = true := by
    intro l
    induction l with
    | nil => exact fun _ _ h _ => h
    | cons a l ih =>
      intro m hl hm hd
      obtain ⟨h1, h2⟩ := (spSorted_cons a l).1 hl
      refine ih _ h2 (spSorted_ins m a.1 a.2 (hd a List.mem_cons_self) hm) (fun e he x hx => ?_)
      rcases mem_ins _ _ _ _ hx with hx | hx
      · have := h1 e he; subst hx; exact Nat.ne_of_lt this
      · exact hd e (List.mem_cons_of_mem _ he) x hx
  refine key _ _ (spSorted_filter _ _ hf) (spSorted_filter _ _ hs) (fun e he x hx hxe => ?_)
  have h1 := (List.mem_filter.1 he).2
  have h2 := (List.mem_filter.1 hx).2
  rw [hxe, h1] at h2
  cases h2

end Sys2Proof.Machine
end

