-- ==== Sys2Proof/Laws/Regs.lean ====
section
/-! SUPPORT. Laws of the registers: a read after a write, and what a write leaves alone. -/

namespace Sys2Proof.Machine

/-- A field's number fits the low part of a key. -/
theorem Fld.ctorIdx_lt (f : Fld) : f.ctorIdx < 1024 := by
  cases f <;> decide

theorem Fld.ctorIdx_inj {f g : Fld} (h : f.ctorIdx = g.ctorIdx) : f = g := by
  have := congrArg Fld.ofNat h
  simpa [Fld.ofNat_ctorIdx] using this

/-- Two instances share a key only when they are one. -/
theorem Fld.key_inj {f g : Fld} {i j : Nat} (h : f.key i = g.key j) : f = g ∧ i = j := by
  have hf := f.ctorIdx_lt
  have hg := g.ctorIdx_lt
  unfold Fld.key at h
  have : i = j := by omega
  exact ⟨Fld.ctorIdx_inj (by omega), this⟩

/-- A register reads what was last written to it, and a write to another leaves it alone (R6). -/
theorem State.rd_wr (s : State) (f g : Fld) (i j v : Nat) :
    (s.wr f i v).rd g j = if f = g ∧ i = j then f.cut v else s.rd g j := by
  by_cases h : f = g ∧ i = j
  · obtain ⟨rfl, rfl⟩ := h
    simp only [and_self, if_true]
    unfold State.wr State.rd
    split <;> simp
  · rw [if_neg h]
    have hk : g.key j ≠ f.key i := fun e => h (by have := Fld.key_inj e; exact ⟨this.1.symm, this.2.symm⟩)
    unfold State.wr
    split <;> simp only [State.rd] <;> split <;> first | rfl | rw [spGet_set_of_ne _ _ _ _ hk]

end Sys2Proof.Machine
end

