-- ==== Sys2Proof/Laws/State.lean ====
section
/-! SUPPORT. Laws of the state: what reading a register or a part of the state gives after an update, one lemma for each. -/

namespace Sys2Proof.Machine

/-! ### A part of the state after a register is set -/

@[simp] theorem State.clock_wr (s : State) (f : Fld) (i v : Nat) : (s.wr f i v).clock = s.clock := by
  unfold State.wr; split <;> rfl
@[simp] theorem State.free_wr (s : State) (f : Fld) (i v : Nat) : (s.wr f i v).free = s.free := by
  unfold State.wr; split <;> rfl
@[simp] theorem State.pwr_wr (s : State) (f : Fld) (i v : Nat) : (s.wr f i v).pwr = s.pwr := by
  unfold State.wr; split <;> rfl
@[simp] theorem State.held_wr (s : State) (f : Fld) (i v : Nat) : (s.wr f i v).held = s.held := by
  unfold State.wr; split <;> rfl
@[simp] theorem State.staged_wr (s : State) (f : Fld) (i v : Nat) : (s.wr f i v).staged = s.staged := by
  unfold State.wr; split <;> rfl
@[simp] theorem State.evSeq_wr (s : State) (f : Fld) (i v : Nat) : (s.wr f i v).evSeq = s.evSeq := by
  unfold State.wr; split <;> rfl
@[simp] theorem State.evq_wr (s : State) (f : Fld) (i v : Nat) : (s.wr f i v).evq = s.evq := by
  unfold State.wr; split <;> rfl
@[simp] theorem State.evUp_wr (s : State) (f : Fld) (i v : Nat) : (s.wr f i v).evUp = s.evUp := by
  unfold State.wr; split <;> rfl
@[simp] theorem State.evLost_wr (s : State) (f : Fld) (i v : Nat) : (s.wr f i v).evLost = s.evLost := by
  unfold State.wr; split <;> rfl
@[simp] theorem State.detected_wr (s : State) (f : Fld) (i v : Nat) : (s.wr f i v).detected = s.detected := by
  unfold State.wr; split <;> rfl
@[simp] theorem State.pmr_wr (s : State) (f : Fld) (i v : Nat) : (s.wr f i v).pmr = s.pmr := by
  unfold State.wr; split <;> rfl
@[simp] theorem State.flash_wr (s : State) (f : Fld) (i v : Nat) : (s.wr f i v).flash = s.flash := by
  unfold State.wr; split <;> rfl
@[simp] theorem State.sns_wr (s : State) (f : Fld) (i v : Nat) : (s.wr f i v).sns = s.sns := by
  unfold State.wr; split <;> rfl
@[simp] theorem State.pfe_wr (s : State) (f : Fld) (i v : Nat) : (s.wr f i v).pfe = s.pfe := by
  unfold State.wr; split <;> rfl
@[simp] theorem State.tdc_wr (s : State) (f : Fld) (i v : Nat) : (s.wr f i v).tdc = s.tdc := by
  unfold State.wr; split <;> rfl
@[simp] theorem State.tbs_wr (s : State) (f : Fld) (i v : Nat) : (s.wr f i v).tbs = s.tbs := by
  unfold State.wr; split <;> rfl
@[simp] theorem State.seq_wr (s : State) (f : Fld) (i v : Nat) : (s.wr f i v).seq = s.seq := by
  unfold State.wr; split <;> rfl
@[simp] theorem State.evb_wr (s : State) (f : Fld) (i v : Nat) : (s.wr f i v).evb = s.evb := by
  unfold State.wr; split <;> rfl
@[simp] theorem State.hst_wr (s : State) (f : Fld) (i v : Nat) : (s.wr f i v).hst = s.hst := by
  unfold State.wr; split <;> rfl
@[simp] theorem State.accum_wr (s : State) (f : Fld) (i v : Nat) : (s.wr f i v).accum = s.accum := by
  unfold State.wr; split <;> rfl
@[simp] theorem State.cmp_wr (s : State) (f : Fld) (i v : Nat) : (s.wr f i v).cmp = s.cmp := by
  unfold State.wr; split <;> rfl
@[simp] theorem State.que_wr (s : State) (f : Fld) (i v : Nat) : (s.wr f i v).que = s.que := by
  unfold State.wr; split <;> rfl
@[simp] theorem State.cab_wr (s : State) (f : Fld) (i v : Nat) : (s.wr f i v).cab = s.cab := by
  unfold State.wr; split <;> rfl
@[simp] theorem State.edc_wr (s : State) (f : Fld) (i v : Nat) : (s.wr f i v).edc = s.edc := by
  unfold State.wr; split <;> rfl
@[simp] theorem State.trg_wr (s : State) (f : Fld) (i v : Nat) : (s.wr f i v).trg = s.trg := by
  unfold State.wr; split <;> rfl
@[simp] theorem State.lnk_wr (s : State) (f : Fld) (i v : Nat) : (s.wr f i v).lnk = s.lnk := by
  unfold State.wr; split <;> rfl
@[simp] theorem State.tre_wr (s : State) (f : Fld) (i v : Nat) : (s.wr f i v).tre = s.tre := by
  unfold State.wr; split <;> rfl
@[simp] theorem State.hka_wr (s : State) (f : Fld) (i v : Nat) : (s.wr f i v).hka = s.hka := by
  unfold State.wr; split <;> rfl
@[simp] theorem State.flt_wr (s : State) (f : Fld) (i v : Nat) : (s.wr f i v).flt = s.flt := by
  unfold State.wr; split <;> rfl
@[simp] theorem State.eth_wr (s : State) (f : Fld) (i v : Nat) : (s.wr f i v).eth = s.eth := by
  unfold State.wr; split <;> rfl
@[simp] theorem State.ctl_wr (s : State) (f : Fld) (i v : Nat) : (s.wr f i v).ctl = s.ctl := by
  unfold State.wr; split <;> rfl
@[simp] theorem State.lastRead_wr (s : State) (f : Fld) (i v : Nat) : (s.wr f i v).lastRead = s.lastRead := by
  unfold State.wr; split <;> rfl
@[simp] theorem State.out_wr (s : State) (f : Fld) (i v : Nat) : (s.wr f i v).out = s.out := by
  unfold State.wr; split <;> rfl
@[simp] theorem State.pending_wr (s : State) (f : Fld) (i v : Nat) : (s.wr f i v).pending = s.pending := by
  unfold State.wr; split <;> rfl

/-! ### A register after another part is set -/

@[simp] theorem State.rd_upd_clock (s : State) (x : Nat) (f : Fld) (i : Nat) :
    ({ s with clock := x } : State).rd f i = s.rd f i := rfl
@[simp] theorem State.rd_upd_free (s : State) (x : Nat) (f : Fld) (i : Nat) :
    ({ s with free := x } : State).rd f i = s.rd f i := rfl
@[simp] theorem State.rd_upd_pwr (s : State) (x : Pwr) (f : Fld) (i : Nat) :
    ({ s with pwr := x } : State).rd f i = s.rd f i := rfl
@[simp] theorem State.rd_upd_held (s : State) (x : Nat) (f : Fld) (i : Nat) :
    ({ s with held := x } : State).rd f i = s.rd f i := rfl
@[simp] theorem State.rd_upd_staged (s : State) (x : Option Staged) (f : Fld) (i : Nat) :
    ({ s with staged := x } : State).rd f i = s.rd f i := rfl
@[simp] theorem State.rd_upd_evSeq (s : State) (x : Nat) (f : Fld) (i : Nat) :
    ({ s with evSeq := x } : State).rd f i = s.rd f i := rfl
@[simp] theorem State.rd_upd_evq (s : State) (x : List EvRec) (f : Fld) (i : Nat) :
    ({ s with evq := x } : State).rd f i = s.rd f i := rfl
@[simp] theorem State.rd_upd_evUp (s : State) (x : List EvRec) (f : Fld) (i : Nat) :
    ({ s with evUp := x } : State).rd f i = s.rd f i := rfl
@[simp] theorem State.rd_upd_evLost (s : State) (x : Nat) (f : Fld) (i : Nat) :
    ({ s with evLost := x } : State).rd f i = s.rd f i := rfl
@[simp] theorem State.rd_upd_detected (s : State) (x : List Det) (f : Fld) (i : Nat) :
    ({ s with detected := x } : State).rd f i = s.rd f i := rfl
@[simp] theorem State.rd_upd_pmr (s : State) (x : Pmr) (f : Fld) (i : Nat) :
    ({ s with pmr := x } : State).rd f i = s.rd f i := rfl
@[simp] theorem State.rd_upd_flash (s : State) (x : Flash) (f : Fld) (i : Nat) :
    ({ s with flash := x } : State).rd f i = s.rd f i := rfl
@[simp] theorem State.rd_upd_sns (s : State) (x : Sns) (f : Fld) (i : Nat) :
    ({ s with sns := x } : State).rd f i = s.rd f i := rfl
@[simp] theorem State.rd_upd_pfe (s : State) (x : Pfe) (f : Fld) (i : Nat) :
    ({ s with pfe := x } : State).rd f i = s.rd f i := rfl
@[simp] theorem State.rd_upd_tdc (s : State) (x : Tdc) (f : Fld) (i : Nat) :
    ({ s with tdc := x } : State).rd f i = s.rd f i := rfl
@[simp] theorem State.rd_upd_tbs (s : State) (x : Tbs) (f : Fld) (i : Nat) :
    ({ s with tbs := x } : State).rd f i = s.rd f i := rfl
@[simp] theorem State.rd_upd_seq (s : State) (x : Seq) (f : Fld) (i : Nat) :
    ({ s with seq := x } : State).rd f i = s.rd f i := rfl
@[simp] theorem State.rd_upd_evb (s : State) (x : Evb) (f : Fld) (i : Nat) :
    ({ s with evb := x } : State).rd f i = s.rd f i := rfl
@[simp] theorem State.rd_upd_hst (s : State) (x : Hst) (f : Fld) (i : Nat) :
    ({ s with hst := x } : State).rd f i = s.rd f i := rfl
@[simp] theorem State.rd_upd_accum (s : State) (x : Accum) (f : Fld) (i : Nat) :
    ({ s with accum := x } : State).rd f i = s.rd f i := rfl
@[simp] theorem State.rd_upd_cmp (s : State) (x : Cmp) (f : Fld) (i : Nat) :
    ({ s with cmp := x } : State).rd f i = s.rd f i := rfl
@[simp] theorem State.rd_upd_que (s : State) (x : Que) (f : Fld) (i : Nat) :
    ({ s with que := x } : State).rd f i = s.rd f i := rfl
@[simp] theorem State.rd_upd_cab (s : State) (x : Cab) (f : Fld) (i : Nat) :
    ({ s with cab := x } : State).rd f i = s.rd f i := rfl
@[simp] theorem State.rd_upd_edc (s : State) (x : Edc) (f : Fld) (i : Nat) :
    ({ s with edc := x } : State).rd f i = s.rd f i := rfl
@[simp] theorem State.rd_upd_trg (s : State) (x : Trg) (f : Fld) (i : Nat) :
    ({ s with trg := x } : State).rd f i = s.rd f i := rfl
@[simp] theorem State.rd_upd_lnk (s : State) (x : Lnk) (f : Fld) (i : Nat) :
    ({ s with lnk := x } : State).rd f i = s.rd f i := rfl
@[simp] theorem State.rd_upd_tre (s : State) (x : Tre) (f : Fld) (i : Nat) :
    ({ s with tre := x } : State).rd f i = s.rd f i := rfl
@[simp] theorem State.rd_upd_hka (s : State) (x : Hka) (f : Fld) (i : Nat) :
    ({ s with hka := x } : State).rd f i = s.rd f i := rfl
@[simp] theorem State.rd_upd_flt (s : State) (x : Flt) (f : Fld) (i : Nat) :
    ({ s with flt := x } : State).rd f i = s.rd f i := rfl
@[simp] theorem State.rd_upd_eth (s : State) (x : Eth) (f : Fld) (i : Nat) :
    ({ s with eth := x } : State).rd f i = s.rd f i := rfl
@[simp] theorem State.rd_upd_ctl (s : State) (x : Ctl) (f : Fld) (i : Nat) :
    ({ s with ctl := x } : State).rd f i = s.rd f i := rfl
@[simp] theorem State.rd_upd_lastRead (s : State) (x : Nat) (f : Fld) (i : Nat) :
    ({ s with lastRead := x } : State).rd f i = s.rd f i := rfl
@[simp] theorem State.rd_upd_out (s : State) (x : List Out) (f : Fld) (i : Nat) :
    ({ s with out := x } : State).rd f i = s.rd f i := rfl
@[simp] theorem State.rd_upd_pending (s : State) (x : List Instr) (f : Fld) (i : Nat) :
    ({ s with pending := x } : State).rd f i = s.rd f i := rfl

/-! ### Reads of a state written out -/

/-- A register read from the two maps that hold the values in force. -/
def regRead (reg force : Sp) (f : Fld) (i : Nat) : Nat :=
  if f.desc.acc = .rwc then spGet force (f.key i) (f.resetVal i) else spGet reg (f.key i) (f.resetVal i)

/-- A shadow read from the map that holds the shadows. -/
def shRead (shadow : Sp) (f : Fld) (i : Nat) : Nat := spGet shadow (f.key i) (f.resetVal i)

/-- A block powered and out of reset, by the power state, the blocks held, the instants from which PMR and FLT are out of reset, and the clock. -/
def aliveIn (pwr : Pwr) (held up flt clock : Nat) (b : Blk) : Bool :=
  pwr != .off && !bit held b.idx && (pwr != .standby || b.inStandby) && (b != .pmr || up ≤ clock) && (b != .flt || flt ≤ clock)

@[simp] theorem State.rd_mk (x0 : Nat) (x1 : Nat) (x2 : Pwr) (x3 : Nat) (x4 : Sp) (x5 : Sp) (x6 : Sp) (x7 : Option Staged) (x8 : Nat) (x9 : List EvRec) (x10 : List EvRec) (x11 : Nat) (x12 : List Det) (x13 : Pmr) (x14 : Flash) (x15 : Sns) (x16 : Pfe) (x17 : Tdc) (x18 : Tbs) (x19 : Seq) (x20 : Evb) (x21 : Hst) (x22 : Accum) (x23 : Cmp) (x24 : Que) (x25 : Cab) (x26 : Edc) (x27 : Trg) (x28 : Lnk) (x29 : Tre) (x30 : Hka) (x31 : Flt) (x32 : Eth) (x33 : Ctl) (x34 : Nat) (x35 : List Out) (x36 : List Instr) (f : Fld) (i : Nat) :
    (State.mk x0 x1 x2 x3 x4 x5 x6 x7 x8 x9 x10 x11 x12 x13 x14 x15 x16 x17 x18 x19 x20 x21 x22 x23 x24 x25 x26 x27 x28 x29 x30 x31 x32 x33 x34 x35 x36).rd f i = regRead x4 x5 f i := rfl
@[simp] theorem regRead_self (s : State) (f : Fld) (i : Nat) : regRead s.reg s.force f i = s.rd f i := rfl
@[simp] theorem State.rdSh_mk (x0 : Nat) (x1 : Nat) (x2 : Pwr) (x3 : Nat) (x4 : Sp) (x5 : Sp) (x6 : Sp) (x7 : Option Staged) (x8 : Nat) (x9 : List EvRec) (x10 : List EvRec) (x11 : Nat) (x12 : List Det) (x13 : Pmr) (x14 : Flash) (x15 : Sns) (x16 : Pfe) (x17 : Tdc) (x18 : Tbs) (x19 : Seq) (x20 : Evb) (x21 : Hst) (x22 : Accum) (x23 : Cmp) (x24 : Que) (x25 : Cab) (x26 : Edc) (x27 : Trg) (x28 : Lnk) (x29 : Tre) (x30 : Hka) (x31 : Flt) (x32 : Eth) (x33 : Ctl) (x34 : Nat) (x35 : List Out) (x36 : List Instr) (f : Fld) (i : Nat) :
    (State.mk x0 x1 x2 x3 x4 x5 x6 x7 x8 x9 x10 x11 x12 x13 x14 x15 x16 x17 x18 x19 x20 x21 x22 x23 x24 x25 x26 x27 x28 x29 x30 x31 x32 x33 x34 x35 x36).rdSh f i = shRead x6 f i := rfl
@[simp] theorem shRead_self (s : State) (f : Fld) (i : Nat) : shRead s.shadow f i = s.rdSh f i := rfl
@[simp] theorem State.alive_mk (x0 : Nat) (x1 : Nat) (x2 : Pwr) (x3 : Nat) (x4 : Sp) (x5 : Sp) (x6 : Sp) (x7 : Option Staged) (x8 : Nat) (x9 : List EvRec) (x10 : List EvRec) (x11 : Nat) (x12 : List Det) (x13 : Pmr) (x14 : Flash) (x15 : Sns) (x16 : Pfe) (x17 : Tdc) (x18 : Tbs) (x19 : Seq) (x20 : Evb) (x21 : Hst) (x22 : Accum) (x23 : Cmp) (x24 : Que) (x25 : Cab) (x26 : Edc) (x27 : Trg) (x28 : Lnk) (x29 : Tre) (x30 : Hka) (x31 : Flt) (x32 : Eth) (x33 : Ctl) (x34 : Nat) (x35 : List Out) (x36 : List Instr) (b : Blk) :
    (State.mk x0 x1 x2 x3 x4 x5 x6 x7 x8 x9 x10 x11 x12 x13 x14 x15 x16 x17 x18 x19 x20 x21 x22 x23 x24 x25 x26 x27 x28 x29 x30 x31 x32 x33 x34 x35 x36).alive b = aliveIn x2 x3 x13.upFrom x13.fltFrom x0 b := rfl
@[simp] theorem aliveIn_self (s : State) (b : Blk) : aliveIn s.pwr s.held s.pmr.upFrom s.pmr.fltFrom s.clock b = s.alive b := rfl

/-- Registers read the same in states whose register maps agree. -/
theorem State.rd_congr {s u : State} (hr : u.reg = s.reg) (hf : u.force = s.force) (f : Fld) (i : Nat) : u.rd f i = s.rd f i := by
  unfold State.rd; rw [hr, hf]

/-- Shadows read the same in states whose shadow maps agree. -/
theorem State.rdSh_congr {s u : State} (h : u.shadow = s.shadow) (f : Fld) (i : Nat) : u.rdSh f i = s.rdSh f i := by
  unfold State.rdSh; rw [h]

/-! ### The clock moved on, and the outcome of a command -/

@[simp] theorem State.free_at (s : State) (t : Nat) : (s.at t).free = s.free := rfl
@[simp] theorem State.free_stamp (s : State) (c : Nat) (p : List Instr) : (s.stamp c p).free = s.free := rfl
@[simp] theorem State.pwr_at (s : State) (t : Nat) : (s.at t).pwr = s.pwr := rfl
@[simp] theorem State.pwr_stamp (s : State) (c : Nat) (p : List Instr) : (s.stamp c p).pwr = s.pwr := rfl
@[simp] theorem State.held_at (s : State) (t : Nat) : (s.at t).held = s.held := rfl
@[simp] theorem State.held_stamp (s : State) (c : Nat) (p : List Instr) : (s.stamp c p).held = s.held := rfl
@[simp] theorem State.reg_at (s : State) (t : Nat) : (s.at t).reg = s.reg := rfl
@[simp] theorem State.reg_stamp (s : State) (c : Nat) (p : List Instr) : (s.stamp c p).reg = s.reg := rfl
@[simp] theorem State.force_at (s : State) (t : Nat) : (s.at t).force = s.force := rfl
@[simp] theorem State.force_stamp (s : State) (c : Nat) (p : List Instr) : (s.stamp c p).force = s.force := rfl
@[simp] theorem State.shadow_at (s : State) (t : Nat) : (s.at t).shadow = s.shadow := rfl
@[simp] theorem State.shadow_stamp (s : State) (c : Nat) (p : List Instr) : (s.stamp c p).shadow = s.shadow := rfl
@[simp] theorem State.staged_at (s : State) (t : Nat) : (s.at t).staged = s.staged := rfl
@[simp] theorem State.staged_stamp (s : State) (c : Nat) (p : List Instr) : (s.stamp c p).staged = s.staged := rfl
@[simp] theorem State.evSeq_at (s : State) (t : Nat) : (s.at t).evSeq = s.evSeq := rfl
@[simp] theorem State.evSeq_stamp (s : State) (c : Nat) (p : List Instr) : (s.stamp c p).evSeq = s.evSeq := rfl
@[simp] theorem State.evq_at (s : State) (t : Nat) : (s.at t).evq = s.evq := rfl
@[simp] theorem State.evq_stamp (s : State) (c : Nat) (p : List Instr) : (s.stamp c p).evq = s.evq := rfl
@[simp] theorem State.evUp_at (s : State) (t : Nat) : (s.at t).evUp = s.evUp := rfl
@[simp] theorem State.evUp_stamp (s : State) (c : Nat) (p : List Instr) : (s.stamp c p).evUp = s.evUp := rfl
@[simp] theorem State.evLost_at (s : State) (t : Nat) : (s.at t).evLost = s.evLost := rfl
@[simp] theorem State.evLost_stamp (s : State) (c : Nat) (p : List Instr) : (s.stamp c p).evLost = s.evLost := rfl
@[simp] theorem State.detected_at (s : State) (t : Nat) : (s.at t).detected = s.detected := rfl
@[simp] theorem State.detected_stamp (s : State) (c : Nat) (p : List Instr) : (s.stamp c p).detected = s.detected := rfl
@[simp] theorem State.pmr_at (s : State) (t : Nat) : (s.at t).pmr = s.pmr := rfl
@[simp] theorem State.pmr_stamp (s : State) (c : Nat) (p : List Instr) : (s.stamp c p).pmr = s.pmr := rfl
@[simp] theorem State.flash_at (s : State) (t : Nat) : (s.at t).flash = s.flash := rfl
@[simp] theorem State.flash_stamp (s : State) (c : Nat) (p : List Instr) : (s.stamp c p).flash = s.flash := rfl
@[simp] theorem State.sns_at (s : State) (t : Nat) : (s.at t).sns = s.sns := rfl
@[simp] theorem State.sns_stamp (s : State) (c : Nat) (p : List Instr) : (s.stamp c p).sns = s.sns := rfl
@[simp] theorem State.pfe_at (s : State) (t : Nat) : (s.at t).pfe = s.pfe := rfl
@[simp] theorem State.pfe_stamp (s : State) (c : Nat) (p : List Instr) : (s.stamp c p).pfe = s.pfe := rfl
@[simp] theorem State.tdc_at (s : State) (t : Nat) : (s.at t).tdc = s.tdc := rfl
@[simp] theorem State.tdc_stamp (s : State) (c : Nat) (p : List Instr) : (s.stamp c p).tdc = s.tdc := rfl
@[simp] theorem State.tbs_at (s : State) (t : Nat) : (s.at t).tbs = s.tbs := rfl
@[simp] theorem State.tbs_stamp (s : State) (c : Nat) (p : List Instr) : (s.stamp c p).tbs = s.tbs := rfl
@[simp] theorem State.seq_at (s : State) (t : Nat) : (s.at t).seq = s.seq := rfl
@[simp] theorem State.seq_stamp (s : State) (c : Nat) (p : List Instr) : (s.stamp c p).seq = s.seq := rfl
@[simp] theorem State.evb_at (s : State) (t : Nat) : (s.at t).evb = s.evb := rfl
@[simp] theorem State.evb_stamp (s : State) (c : Nat) (p : List Instr) : (s.stamp c p).evb = s.evb := rfl
@[simp] theorem State.hst_at (s : State) (t : Nat) : (s.at t).hst = s.hst := rfl
@[simp] theorem State.hst_stamp (s : State) (c : Nat) (p : List Instr) : (s.stamp c p).hst = s.hst := rfl
@[simp] theorem State.accum_at (s : State) (t : Nat) : (s.at t).accum = s.accum := rfl
@[simp] theorem State.accum_stamp (s : State) (c : Nat) (p : List Instr) : (s.stamp c p).accum = s.accum := rfl
@[simp] theorem State.cmp_at (s : State) (t : Nat) : (s.at t).cmp = s.cmp := rfl
@[simp] theorem State.cmp_stamp (s : State) (c : Nat) (p : List Instr) : (s.stamp c p).cmp = s.cmp := rfl
@[simp] theorem State.que_at (s : State) (t : Nat) : (s.at t).que = s.que := rfl
@[simp] theorem State.que_stamp (s : State) (c : Nat) (p : List Instr) : (s.stamp c p).que = s.que := rfl
@[simp] theorem State.cab_at (s : State) (t : Nat) : (s.at t).cab = s.cab := rfl
@[simp] theorem State.cab_stamp (s : State) (c : Nat) (p : List Instr) : (s.stamp c p).cab = s.cab := rfl
@[simp] theorem State.edc_at (s : State) (t : Nat) : (s.at t).edc = s.edc := rfl
@[simp] theorem State.edc_stamp (s : State) (c : Nat) (p : List Instr) : (s.stamp c p).edc = s.edc := rfl
@[simp] theorem State.trg_at (s : State) (t : Nat) : (s.at t).trg = s.trg := rfl
@[simp] theorem State.trg_stamp (s : State) (c : Nat) (p : List Instr) : (s.stamp c p).trg = s.trg := rfl
@[simp] theorem State.lnk_at (s : State) (t : Nat) : (s.at t).lnk = s.lnk := rfl
@[simp] theorem State.lnk_stamp (s : State) (c : Nat) (p : List Instr) : (s.stamp c p).lnk = s.lnk := rfl
@[simp] theorem State.tre_at (s : State) (t : Nat) : (s.at t).tre = s.tre := rfl
@[simp] theorem State.tre_stamp (s : State) (c : Nat) (p : List Instr) : (s.stamp c p).tre = s.tre := rfl
@[simp] theorem State.hka_at (s : State) (t : Nat) : (s.at t).hka = s.hka := rfl
@[simp] theorem State.hka_stamp (s : State) (c : Nat) (p : List Instr) : (s.stamp c p).hka = s.hka := rfl
@[simp] theorem State.flt_at (s : State) (t : Nat) : (s.at t).flt = s.flt := rfl
@[simp] theorem State.flt_stamp (s : State) (c : Nat) (p : List Instr) : (s.stamp c p).flt = s.flt := rfl
@[simp] theorem State.eth_at (s : State) (t : Nat) : (s.at t).eth = s.eth := rfl
@[simp] theorem State.eth_stamp (s : State) (c : Nat) (p : List Instr) : (s.stamp c p).eth = s.eth := rfl
@[simp] theorem State.ctl_at (s : State) (t : Nat) : (s.at t).ctl = s.ctl := rfl
@[simp] theorem State.ctl_stamp (s : State) (c : Nat) (p : List Instr) : (s.stamp c p).ctl = s.ctl := rfl
@[simp] theorem State.lastRead_at (s : State) (t : Nat) : (s.at t).lastRead = s.lastRead := rfl
@[simp] theorem State.lastRead_stamp (s : State) (c : Nat) (p : List Instr) : (s.stamp c p).lastRead = s.lastRead := rfl
@[simp] theorem State.out_at (s : State) (t : Nat) : (s.at t).out = s.out := rfl
@[simp] theorem State.out_stamp (s : State) (c : Nat) (p : List Instr) : (s.stamp c p).out = s.out := rfl
@[simp] theorem State.pending_at (s : State) (t : Nat) : (s.at t).pending = s.pending := rfl
@[simp] theorem State.clock_at (s : State) (t : Nat) : (s.at t).clock = max s.clock t := by
  unfold State.at; simp only; split <;> omega
@[simp] theorem State.clock_stamp (s : State) (c : Nat) (p : List Instr) : (s.stamp c p).clock = c := rfl
@[simp] theorem State.pending_stamp (s : State) (c : Nat) (p : List Instr) : (s.stamp c p).pending = p := rfl
@[simp] theorem State.rd_at (s : State) (t : Nat) (f : Fld) (i : Nat) : (s.at t).rd f i = s.rd f i := rfl
@[simp] theorem State.rdSh_at (s : State) (t : Nat) (f : Fld) (i : Nat) : (s.at t).rdSh f i = s.rdSh f i := rfl
@[simp] theorem State.rd_stamp (s : State) (c : Nat) (p : List Instr) (f : Fld) (i : Nat) :
    (s.stamp c p).rd f i = s.rd f i := rfl
@[simp] theorem State.rdSh_stamp (s : State) (c : Nat) (p : List Instr) (f : Fld) (i : Nat) :
    (s.stamp c p).rdSh f i = s.rdSh f i := rfl

/-! ### The short forms of reads and writes -/

@[simp] theorem State.wrB_eq (s : State) (f : Fld) (i : Nat) (b : Bool) : s.wrB f i b = s.wr f i (b2n b) := rfl
@[simp] theorem State.wrBit_eq (s : State) (f : Fld) (i n : Nat) (b : Bool) :
    s.wrBit f i n b = s.wr f i (setBit (s.rd f i) n b) := rfl
@[simp] theorem State.wrS_eq (s : State) (f : Fld) (i : Nat) (x : Int) : s.wrS f i x = s.wr f i (toU f.desc.width x) := rfl
@[simp] theorem State.bump_eq (s : State) (f : Fld) (i n : Nat) : s.bump f i n = s.wr f i (s.rd f i + n) := rfl
@[simp] theorem State.bumpSat_eq (s : State) (f : Fld) (i n : Nat) :
    s.bumpSat f i n = s.wr f i (satN (2 ^ f.desc.width - 1) (s.rd f i + n)) := rfl
@[simp] theorem State.flag_eq (s : State) (f : Fld) (i : Nat) : s.flag f i = (s.rd f i != 0) := rfl
@[simp] theorem State.rdBit_eq (s : State) (f : Fld) (i n : Nat) : s.rdBit f i n = bit (s.rd f i) n := rfl
@[simp] theorem State.rdS_eq (s : State) (f : Fld) (i : Nat) : s.rdS f i = sgn f.desc.width (s.rd f i) := rfl

/-! ### Power -/

/-- A block out of reset stays so as the clock moves on. -/
@[simp] theorem State.alive_at {s : State} (t : Nat) {b : Blk} (h : s.alive b = true) : (s.at t).alive b = true := by
  have hc : s.clock ≤ (s.at t).clock := by rw [State.clock_at]; omega
  simp only [State.alive, Bool.and_eq_true, Bool.or_eq_true, decide_eq_true_eq] at h ⊢
  exact ⟨⟨h.1.1, h.1.2.imp id (Nat.le_trans · hc)⟩, h.2.imp id (Nat.le_trans · hc)⟩

/-- Of the blocks only PMR and FLT leave reset by the clock. -/
@[simp] theorem State.alive_at_ne (s : State) (t : Nat) {b : Blk} (hp : b ≠ .pmr) (hf : b ≠ .flt) : (s.at t).alive b = s.alive b := by
  cases b <;> first | exact absurd rfl hp | exact absurd rfl hf | rfl
@[simp] theorem State.alive_stamp_ne (s : State) (c : Nat) (p : List Instr) {b : Blk} (hp : b ≠ .pmr) (hf : b ≠ .flt) :
    (s.stamp c p).alive b = s.alive b := by
  cases b <;> first | exact absurd rfl hp | exact absurd rfl hf | rfl

@[simp] theorem State.alive_wr (s : State) (f : Fld) (i v : Nat) (b : Blk) : (s.wr f i v).alive b = s.alive b := by
  simp [State.alive]

/-- Where a block is powered and out of reset, what it does happens. -/
theorem State.on_alive {s : State} {b : Blk} (h : s.alive b = true) (k : State → State) : s.on b k = k s := by
  simp [State.on, h]

/-- Where it is not, nothing happens. -/
theorem State.on_dead {s : State} {b : Blk} (h : s.alive b = false) (k : State → State) : s.on b k = s := by
  simp [State.on, h]

end Sys2Proof.Machine
end

