-- ==== Sys2Proof/Laws/KeepBase.lean ====
section
/-! SUPPORT. What it takes for a fact about a state to survive an operation: it reads only the parts that the sequencer's own
commands and the register accesses change, and it is kept by a register write. -/

namespace Sys2Proof.Machine

open Sys2Proof

/-- u has the parts of s that only the sequencer's own commands and the register accesses change. -/
structure SameCore (s u : State) : Prop where
  pwr : u.pwr = s.pwr
  held : u.held = s.held
  reg : u.reg = s.reg
  force : u.force = s.force
  shadow : u.shadow = s.shadow
  staged : u.staged.map (·.regs) = s.staged.map (·.regs)
  k : u.seq.k = s.seq.k
  segs : u.seq.segs = s.seq.segs
  at_ : u.seq.boundaryAt = s.seq.boundaryAt
  start : u.seq.start = s.seq.start

/-- P is kept by every change outside those parts, and by a register write of the module. -/
structure Closed (P : State → Prop) : Prop where
  same : ∀ {s u : State}, SameCore s u → P s → P u
  wr : ∀ {s : State} (f : Fld) (i v : Nat), P s → P (s.wr f i v)
  wrSh : ∀ {s : State} (f : Fld) (i v : Nat), P s → P (s.wrSh f i v)
  wrForce : ∀ {s : State} (f : Fld) (i v : Nat), P s → P (s.wrForce f i v)

variable {P : State → Prop}

theorem keeps_mk (C : Closed P) {s : State} (clock_ : Nat) (free_ : Nat) (staged_ : Option Staged) (evSeq_ : Nat) (evq_ : List EvRec) (evUp_ : List EvRec) (evLost_ : Nat) (detected_ : List Det) (pmr_ : Pmr) (flash_ : Flash) (sns_ : Sns) (pfe_ : Pfe) (tdc_ : Tdc) (tbs_ : Tbs) (seq_ : Seq) (evb_ : Evb) (hst_ : Hst) (accum_ : Accum) (cmp_ : Cmp) (que_ : Que) (cab_ : Cab) (edc_ : Edc) (trg_ : Trg) (lnk_ : Lnk) (tre_ : Tre) (hka_ : Hka) (flt_ : Flt) (eth_ : Eth) (ctl_ : Ctl) (lastRead_ : Nat) (out_ : List Out) (pending_ : List Instr)
    (hst : staged_.map (·.regs) = s.staged.map (·.regs))
    (hk : seq_.k = s.seq.k) (hs : seq_.segs = s.seq.segs) (ha : seq_.boundaryAt = s.seq.boundaryAt) (ht : seq_.start = s.seq.start) (h : P s) :
    P (State.mk clock_ free_ s.pwr s.held s.reg s.force s.shadow staged_ evSeq_ evq_ evUp_ evLost_ detected_ pmr_ flash_ sns_ pfe_ tdc_ tbs_ seq_ evb_ hst_ accum_ cmp_ que_ cab_ edc_ trg_ lnk_ tre_ hka_ flt_ eth_ ctl_ lastRead_ out_ pending_) := C.same (s := s) ⟨rfl, rfl, rfl, rfl, rfl, hst, hk, hs, ha, ht⟩ h
theorem keeps_ite {c : Prop} [Decidable c] {a b : State} (ha : P a) (hb : P b) : P (if c then a else b) := by split <;> assumption
theorem keeps_each {α : Type} {s : State} (l : List α) {f : α → State → State} (hf : ∀ a x, P x → P (f a x)) (h : P s) : P (s.each l f) := by
  unfold State.each
  induction l generalizing s with
  | nil => exact h
  | cons a l ih => exact ih (hf a s h)
theorem keeps_foldl {α : Type} {s : State} (l : List α) {f : State → α → State} (hf : ∀ x a, P x → P (f x a)) (h : P s) : P (l.foldl f s) := by
  induction l generalizing s with
  | nil => exact h
  | cons a l ih => exact ih (hf s a h)
theorem keeps_on {s : State} {b : Blk} {f : State → State} (hf : ∀ x, P x → P (f x)) (h : P s) : P (s.on b f) := by
  unfold State.on; split
  · exact hf s h
  · exact h
theorem keeps_when {s : State} {c : Bool} {f : State → State} (hf : ∀ x, P x → P (f x)) (h : P s) : P (s.when c f) := by
  unfold State.when; split
  · exact hf s h
  · exact h

/-- Where o holds a value, Q holds of it. -/
structure OptP {β : Type} (Q : β → Prop) (o : Option β) : Prop where
  out : ∀ x, o = some x → Q x
/-- Q holds of the first part. -/
structure PairP {β α : Type} (Q : β → Prop) (o : β × α) : Prop where
  out : Q o.1
theorem optP_none {β : Type} {Q : β → Prop} : OptP Q none := ⟨fun _ h => by cases h⟩
theorem optP_some {β : Type} {Q : β → Prop} {x : β} (h : Q x) : OptP Q (some x) := ⟨fun y e => by cases e; exact h⟩
theorem optP_map {β γ : Type} {R : γ → Prop} {o : Option β} {f : β → γ} (hf : ∀ x, R (f x)) :
    OptP R (o.map f) := ⟨fun y e => by
  cases o with
  | none => cases e
  | some x => cases e; exact hf x⟩
theorem pairP_mk {β α : Type} {Q : β → Prop} {x : β} {a : α} (h : Q x) : PairP Q (x, a) := ⟨h⟩
theorem keeps_iteO {β : Type} {Q : β → Prop} {c : Prop} [Decidable c] {a b : Option β} (ha : OptP Q a) (hb : OptP Q b) :
    OptP Q (if c then a else b) := by split <;> assumption
theorem keeps_iteP {β α : Type} {Q : β → Prop} {c : Prop} [Decidable c] {a b : β × α} (ha : PairP Q a) (hb : PairP Q b) :
    PairP Q (if c then a else b) := by split <;> assumption
theorem of_pair {α : Type} {e : State × α} {x : State} {a : α} (he : e = (x, a)) (h : PairP P e) : P x := by
  subst he; exact h.out
theorem of_some {e : Option State} {x : State} (he : e = some x) (h : OptP P e) : P x := h.out x he
theorem of_somePair {α : Type} {e : Option (State × α)} {x : State} {a : α} (he : e = some (x, a))
    (h : OptP (PairP P) e) : P x := (h.out _ he).out
theorem keeps_fst {α : Type} {e : State × α} (h : PairP P e) : P e.1 := h.out
theorem keeps_elim {α : Type} {o : Option α} {d : State} {f : α → State} (hd : P d) (hf : ∀ x, P (f x)) : P (o.elim d f) := by
  cases o with
  | none => exact hd
  | some x => exact hf x
theorem optP_find {α β : Type} {Q : β → Prop} {f : α → Option β} (l : List α) (hf : ∀ x, OptP Q (f x)) : OptP Q (l.findSome? f) := by
  induction l with
  | nil => exact optP_none
  | cons a l ih =>
    rw [List.findSome?_cons]
    split
    · next he => exact he ▸ hf a
    · exact ih
theorem keeps_getD {e : Option State} {d : State} (h : OptP P e) (hd : P d) : P (e.getD d) := by
  cases e with
  | none => exact hd
  | some x => exact h.out x rfl
theorem keeps_at (C : Closed P) {s : State} (t : Nat) (h : P s) : P (s.at t) := C.same (s := s) ⟨rfl, rfl, rfl, rfl, rfl, rfl, rfl, rfl, rfl, rfl⟩ h
theorem keeps_stamp (C : Closed P) {s : State} (c : Nat) (p : List Instr) (h : P s) : P (s.stamp c p) :=
  C.same (s := s) ⟨rfl, rfl, rfl, rfl, rfl, rfl, rfl, rfl, rfl, rfl⟩ h
theorem keeps_foldl_pair {α γ : Type} {s : State × γ} (l : List α) {f : State × γ → α → State × γ}
    (hf : ∀ x a, PairP P x → PairP P (f x a)) (h : PairP P s) : PairP P (l.foldl f s) := by
  induction l generalizing s with
  | nil => exact h
  | cons a l ih => exact ih (hf s a h)
theorem optP_mapS {γ : Type} {R : γ → Prop} {o : Option State} {f : State → γ} (h : OptP P o) (hf : ∀ x, P x → R (f x)) :
    OptP R (o.map f) := ⟨fun y e => by
  cases o with
  | none => cases e
  | some x => cases e; exact hf x (h.out x rfl)⟩
theorem optP_mapP {α γ : Type} {R : γ → Prop} {o : Option (State × α)} {f : State × α → γ} (h : OptP (PairP P) o)
    (hf : ∀ x a, P x → R (f (x, a))) : OptP R (o.map f) := ⟨fun y e => by
  cases o with
  | none => cases e
  | some x => cases e; exact hf x.1 x.2 (h.out x rfl).out⟩

theorem optP_bind {α β : Type} {Q : β → Prop} {o : Option α} {f : α → Option β} (hf : ∀ x, OptP Q (f x)) : OptP Q (o.bind f) := by
  cases o with
  | none => exact optP_none
  | some x => exact hf x
theorem optP_bindP {α β : Type} {Q : β → Prop} {o : Option (State × α)} {f : State × α → Option β} (h : OptP (PairP P) o)
    (hf : ∀ x, P x.1 → OptP Q (f x)) : OptP Q (o.bind f) := by
  cases o with
  | none => exact optP_none
  | some x => exact hf x (h.out x rfl).out
theorem optP_bindS {β : Type} {Q : β → Prop} {o : Option State} {f : State → Option β} (h : OptP P o) (hf : ∀ x, P x → OptP Q (f x)) :
    OptP Q (o.bind f) := by
  cases o with
  | none => exact optP_none
  | some x => exact hf x (h.out x rfl)

/-- The power state, the blocks held in reset, the tick index and the time's segments survive every ordinary operation. -/
theorem closed_pwr (p : Pwr) : Closed (fun u => u.pwr = p) :=
  ⟨fun c h => c.pwr.trans h, fun f i v h => (State.pwr_wr _ f i v).trans h, fun _ _ _ h => h, fun _ _ _ h => h⟩
theorem closed_held (n : Nat) : Closed (fun u => u.held = n) :=
  ⟨fun c h => c.held.trans h, fun f i v h => (State.held_wr _ f i v).trans h, fun _ _ _ h => h, fun _ _ _ h => h⟩
theorem closed_k (k : Nat) : Closed (fun u => u.seq.k = k) :=
  ⟨fun c h => c.k.trans h, fun f i v h => (congrArg Seq.k (State.seq_wr _ f i v)).trans h, fun _ _ _ h => h, fun _ _ _ h => h⟩
theorem closed_segs (l : List Seg) : Closed (fun u => u.seq.segs = l) :=
  ⟨fun c h => c.segs.trans h, fun f i v h => (congrArg Seq.segs (State.seq_wr _ f i v)).trans h, fun _ _ _ h => h, fun _ _ _ h => h⟩

end Sys2Proof.Machine
end

