-- ==== Sys2Proof/Laws/KeepFront.lean ====
section
/-! SUPPORT. Each operation of the front end: keys and counters, the sensor, the converters and the comparators, the time base keeps what no ordinary operation changes: one lemma for each. -/

namespace Sys2Proof.Machine

open Sys2Proof

variable {P : State → Prop}

theorem State.wrB_keeps (C : Closed P) {s : State} (f : Fld) (i : Nat) (b : Bool) (hs : P s) :
    P (State.wrB s f i b) := by
  unfold State.wrB
  try dsimp only
  repeat' first
    | with_reducible assumption | intro _
    | with_reducible (first
      | exact rfl | apply C.wr)

theorem State.bump_keeps (C : Closed P) {s : State} (f : Fld) (i : Nat) (n : Nat) (hs : P s) :
    P (State.bump s f i n) := by
  unfold State.bump
  try dsimp only
  repeat' first
    | with_reducible assumption | intro _
    | with_reducible (first
      | exact rfl | apply C.wr)

theorem State.bumpSat_keeps (C : Closed P) {s : State} (f : Fld) (i : Nat) (n : Nat) (hs : P s) :
    P (State.bumpSat s f i n) := by
  unfold State.bumpSat
  try dsimp only
  repeat' first
    | with_reducible assumption | intro _
    | with_reducible (first
      | exact rfl | apply C.wr)

theorem State.wrBit_keeps (C : Closed P) {s : State} (f : Fld) (i : Nat) (n : Nat) (b : Bool) (hs : P s) :
    P (State.wrBit s f i n b) := by
  unfold State.wrBit
  try dsimp only
  repeat' first
    | with_reducible assumption | intro _
    | with_reducible (first
      | exact rfl | apply C.wr)

theorem State.wrS_keeps (C : Closed P) {s : State} (f : Fld) (i : Nat) (x : Int) (hs : P s) :
    P (State.wrS s f i x) := by
  unfold State.wrS
  try dsimp only
  repeat' first
    | with_reducible assumption | intro _
    | with_reducible (first
      | exact rfl | apply C.wr)

theorem State.fresh_keeps (C : Closed P) {s : State} (hs : P s) : P (State.fresh s) := by
  unfold State.fresh
  try dsimp only
  repeat' first
    | with_reducible assumption | intro _
    | with_reducible exact rfl
    | split
    | with_reducible (first
      | refine of_pair (by assumption) ?_ | refine of_some (by assumption) ?_ | refine of_somePair (by assumption) ?_
      | apply keeps_fst | apply keeps_mk C)

theorem State.queueEv_keeps (C : Closed P) {s : State} (r : EvRec) (hs : P s) : P (State.queueEv s r) := by
  unfold State.queueEv
  try dsimp only
  repeat' first
    | with_reducible assumption | intro _
    | with_reducible (first
      | exact rfl | apply State.bump_keeps C | apply keeps_ite)
    | split
    | with_reducible (first
      | refine of_pair (by assumption) ?_ | refine of_some (by assumption) ?_ | refine of_somePair (by assumption) ?_
      | apply keeps_fst | apply keeps_mk C)

theorem State.raiseEv_keeps (C : Closed P) {s : State} (r : EvRec) (hs : P s) : P (State.raiseEv s r) := by
  unfold State.raiseEv
  try dsimp only
  repeat' first
    | with_reducible assumption | intro _
    | with_reducible (first
      | exact rfl | apply keeps_ite)
    | split
    | with_reducible (first
      | refine of_pair (by assumption) ?_ | refine of_some (by assumption) ?_ | refine of_somePair (by assumption) ?_
      | apply keeps_fst | apply keeps_mk C)

theorem State.emitAs_keeps (C : Closed P) {s : State} (sev : Nat) (cls : Nat) (flags : Nat) (ty : Nat) (data : Nat) (hs : P s) :
    P (State.emitAs s sev cls flags ty data) := by
  unfold State.emitAs
  try dsimp only
  repeat' first
    | with_reducible assumption | intro _
    | with_reducible (first
      | exact rfl | apply State.queueEv_keeps C | apply State.raiseEv_keeps C)
    | split
    | with_reducible (first
      | refine of_pair (by assumption) ?_ | refine of_some (by assumption) ?_ | refine of_somePair (by assumption) ?_
      | apply keeps_fst | apply keeps_mk C)

theorem State.emit_keeps (C : Closed P) {s : State} (ty : Nat) (data : Nat) (hs : P s) : P (State.emit s ty data) := by
  unfold State.emit
  try dsimp only
  repeat' first
    | with_reducible assumption | intro _
    | with_reducible (first
      | exact rfl | apply State.emitAs_keeps C)

theorem State.detect_keeps (C : Closed P) {s : State} (cls : Nat) (lvl : Nat) (unit : Nat) (ev : Option (Nat × Nat)) (more : Option (Nat × Nat)) (par : Bool) (hs : P s) :
    P (State.detect s cls lvl unit ev more par) := by
  unfold State.detect
  try dsimp only
  repeat' first
    | with_reducible assumption | intro _
    | with_reducible exact rfl
    | split
    | with_reducible (first
      | refine of_pair (by assumption) ?_ | refine of_some (by assumption) ?_ | refine of_somePair (by assumption) ?_
      | apply keeps_fst | apply keeps_mk C)

theorem State.flashUpd_keeps (C : Closed P) {s : State} (f : Flash → Flash) (hs : P s) : P (State.flashUpd s f) := by
  unfold State.flashUpd
  try dsimp only
  repeat' first
    | with_reducible assumption | intro _
    | with_reducible exact rfl
    | split
    | with_reducible (first
      | refine of_pair (by assumption) ?_ | refine of_some (by assumption) ?_ | refine of_somePair (by assumption) ?_
      | apply keeps_fst | apply keeps_mk C)

theorem State.bootRec_keeps (C : Closed P) {s : State} (f : Flash → Flash) (hs : P s) : P (State.bootRec s f) := by
  unfold State.bootRec
  try dsimp only
  repeat' first
    | with_reducible assumption | intro _
    | with_reducible (first
      | exact rfl | apply State.flashUpd_keeps C)

theorem State.upIn_keeps (C : Closed P) {s : State} (i : Fin 32) (f : HkaIn → HkaIn) (hs : P s) :
    P (State.upIn s i f) := by
  unfold State.upIn
  try dsimp only
  repeat' first
    | with_reducible assumption | intro _
    | with_reducible exact rfl
    | split
    | with_reducible (first
      | refine of_pair (by assumption) ?_ | refine of_some (by assumption) ?_ | refine of_somePair (by assumption) ?_
      | apply keeps_fst | apply keeps_mk C)

theorem State.setRamp_keeps (C : Closed P) {s : State} (r : Fin 16) (x : Option Ramp) (hs : P s) :
    P (State.setRamp s r x) := by
  unfold State.setRamp
  try dsimp only
  repeat' first
    | with_reducible assumption | intro _
    | with_reducible exact rfl
    | split
    | with_reducible (first
      | refine of_pair (by assumption) ?_ | refine of_some (by assumption) ?_ | refine of_somePair (by assumption) ?_
      | apply keeps_fst | apply keeps_mk C)

theorem State.rampRebase_keeps (C : Closed P) {s : State} (hs : P s) : P (State.rampRebase s) := by
  unfold State.rampRebase
  try dsimp only
  repeat' first
    | with_reducible assumption | intro _
    | with_reducible (first
      | exact rfl | apply State.setRamp_keeps C | apply keeps_each)
    | split

theorem State.biasStart_keeps (C : Closed P) {s : State} (r : Fin 16) (hs : P s) : P (State.biasStart s r) := by
  unfold State.biasStart
  try dsimp only
  repeat' first
    | with_reducible assumption | intro _
    | with_reducible (first
      | exact rfl | apply State.upIn_keeps C | apply State.setRamp_keeps C | apply State.wrBit_keeps C
      | apply State.wrB_keeps C | apply C.wr)

theorem State.biasEnSet_keeps (C : Closed P) {s : State} (r : Fin 16) (hs : P s) : P (State.biasEnSet s r) := by
  unfold State.biasEnSet
  try dsimp only
  repeat' first
    | with_reducible assumption | intro _
    | with_reducible (first
      | exact rfl | apply State.biasStart_keeps C | apply State.wrB_keeps C | apply C.wr | apply keeps_ite)

theorem State.biasEnClear_keeps (C : Closed P) {s : State} (r : Fin 16) (hs : P s) : P (State.biasEnClear s r) := by
  unfold State.biasEnClear
  try dsimp only
  repeat' first
    | with_reducible assumption | intro _
    | with_reducible (first
      | exact rfl | apply State.setRamp_keeps C | apply State.wrBit_keeps C | apply State.wrB_keeps C | apply C.wr
      | apply keeps_ite)

theorem State.crowbar_keeps (C : Closed P) {s : State} (r : Fin 16) (hs : P s) : P (State.crowbar s r) := by
  unfold State.crowbar
  try dsimp only
  repeat' first
    | with_reducible assumption | intro _
    | with_reducible (first
      | exact rfl | apply State.setRamp_keeps C | apply State.wrBit_keeps C | apply State.wrB_keeps C | apply C.wr)

theorem State.crowbarAll_keeps (C : Closed P) {s : State} (hs : P s) : P (State.crowbarAll s) := by
  unfold State.crowbarAll
  try dsimp only
  repeat' first
    | with_reducible assumption | intro _
    | with_reducible (first
      | exact rfl | apply State.crowbar_keeps C | apply keeps_each)

theorem State.rampDownAll_keeps (C : Closed P) {s : State} (hs : P s) : P (State.rampDownAll s) := by
  unfold State.rampDownAll
  try dsimp only
  repeat' first
    | with_reducible assumption | intro _
    | with_reducible (first
      | exact rfl | apply State.biasEnClear_keeps C | apply keeps_each)

theorem State.rampDone_keeps (C : Closed P) {s : State} (r : Fin 16) (hs : P s) : P (State.rampDone s r) := by
  unfold State.rampDone
  try dsimp only
  repeat' first
    | with_reducible assumption | intro _
    | with_reducible (first
      | exact rfl | apply State.wrB_keeps C | apply State.setRamp_keeps C | apply C.wr | apply keeps_ite)
    | split

theorem State.servoTemp_keeps (C : Closed P) {s : State} (hs : P s) : P (State.servoTemp s) := by
  unfold State.servoTemp
  try dsimp only
  repeat' first
    | with_reducible assumption | intro _
    | with_reducible (first
      | exact rfl | apply State.wrB_keeps C | apply State.emit_keeps C | apply State.wrS_keeps C
      | apply State.detect_keeps C | apply C.wr | apply keeps_ite)
    | split

theorem State.servoStep_keeps (C : Closed P) {s : State} (r : Fin 16) (hs : P s) : P (State.servoStep s r) := by
  unfold State.servoStep
  try dsimp only
  repeat' first
    | with_reducible assumption | intro _
    | with_reducible (first
      | exact rfl | apply State.wrB_keeps C | apply C.wr | apply keeps_ite)
    | split

theorem State.snsTick_keeps (C : Closed P) {s : State} (hs : P s) : P (State.snsTick s) := by
  unfold State.snsTick
  try dsimp only
  repeat' first
    | with_reducible assumption | intro _
    | with_reducible (first
      | exact rfl | apply State.servoTemp_keeps C | apply State.servoStep_keeps C | apply keeps_each | apply keeps_on)

theorem State.lnkUpd_keeps (C : Closed P) {s : State} (f : Lnk → Lnk) (hs : P s) : P (State.lnkUpd s f) := by
  unfold State.lnkUpd
  try dsimp only
  repeat' first
    | with_reducible assumption | intro _
    | with_reducible exact rfl
    | split
    | with_reducible (first
      | refine of_pair (by assumption) ?_ | refine of_some (by assumption) ?_ | refine of_somePair (by assumption) ?_
      | apply keeps_fst | apply keeps_mk C)

theorem State.setLink_keeps (C : Closed P) {s : State} (l : Fin 10) (x : LinkSt) (hs : P s) :
    P (State.setLink s l x) := by
  unfold State.setLink
  try dsimp only
  repeat' first
    | with_reducible assumption | intro _
    | with_reducible (first
      | exact rfl | apply State.lnkUpd_keeps C)

theorem State.setLane_keeps (C : Closed P) {s : State} (l : Fin 10) (j : Fin 2) (x : Lane) (hs : P s) :
    P (State.setLane s l j x) := by
  unfold State.setLane
  try dsimp only
  repeat' first
    | with_reducible assumption | intro _
    | with_reducible (first
      | exact rfl | apply State.lnkUpd_keeps C)

theorem State.setLaneSt_keeps (C : Closed P) {s : State} (l : Fin 10) (j : Fin 2) (st : Nat) (hs : P s) :
    P (State.setLaneSt s l j st) := by
  unfold State.setLaneSt
  try dsimp only
  repeat' first
    | with_reducible assumption | intro _
    | with_reducible (first
      | exact rfl | apply State.setLane_keeps C | apply C.wr)

theorem State.laneBlock_keeps (C : Closed P) {s : State} (l : Fin 10) (j : Fin 2) (ctl : Bool) (b : List Nat) (hs : P s) :
    P (State.laneBlock s l j ctl b) := by
  unfold State.laneBlock
  try dsimp only
  repeat' first
    | with_reducible assumption | intro _
    | with_reducible (first
      | exact rfl | apply State.setLane_keeps C | apply keeps_ite)

theorem State.alignPair_keeps (C : Closed P) {s : State} (l : Fin 10) (two : Bool) (hs : P s) :
    P (State.alignPair s l two) := by
  unfold State.alignPair
  try dsimp only
  repeat' first
    | with_reducible assumption | intro _
    | with_reducible (first
      | exact rfl | apply State.laneBlock_keeps C | apply State.setLink_keeps C | apply keeps_each)
    | split
    | with_reducible (first
      | refine of_pair (by assumption) ?_ | refine of_some (by assumption) ?_ | refine of_somePair (by assumption) ?_
      | apply keeps_fst | apply keeps_mk C)

theorem State.streamBlock_keeps (C : Closed P) {s : State} (l : Fin 10) (ctl : Bool) (b : List Nat) (hs : P s) :
    P (State.streamBlock s l ctl b) := by
  unfold State.streamBlock
  try dsimp only
  repeat' first
    | with_reducible assumption | intro _
    | with_reducible (first
      | exact rfl | apply State.laneBlock_keeps C | apply State.setLink_keeps C | apply State.alignPair_keeps C
      | apply keeps_ite)

theorem State.trigBlock_keeps (C : Closed P) {s : State} (l : Fin 10) (n : Nat) (b : TBlk) (hs : P s) :
    P (State.trigBlock s l n b) := by
  unfold State.trigBlock
  try dsimp only
  repeat' first
    | with_reducible assumption | intro _
    | with_reducible (first
      | exact rfl | apply State.laneBlock_keeps C | apply keeps_ite | apply keeps_each)

theorem State.clapBlocks_keeps (C : Closed P) {s : State} (l : Fin 10) (j : Fin 2) (k : Clap) (hs : P s) :
    P (State.clapBlocks s l j k) := by
  unfold State.clapBlocks
  try dsimp only
  repeat' first
    | with_reducible assumption | intro _
    | with_reducible (first
      | exact rfl | apply State.setLane_keeps C | apply keeps_ite)

theorem State.setTdcR_keeps (C : Closed P) {s : State} (r : Fin 16) (x : TdcR) (hs : P s) :
    P (State.setTdcR s r x) := by
  unfold State.setTdcR
  try dsimp only
  repeat' first
    | with_reducible assumption | intro _
    | with_reducible exact rfl
    | split
    | with_reducible (first
      | refine of_pair (by assumption) ?_ | refine of_some (by assumption) ?_ | refine of_somePair (by assumption) ?_
      | apply keeps_fst | apply keeps_mk C)

theorem State.setGroup_keeps (C : Closed P) {s : State} (r : Fin 16) (g : Fin 16) (x : TdcGroup) (hs : P s) :
    P (State.setGroup s r g x) := by
  unfold State.setGroup
  try dsimp only
  repeat' first
    | with_reducible assumption | intro _
    | with_reducible (first
      | exact rfl | apply State.setTdcR_keeps C)

theorem State.setAux_keeps (C : Closed P) {s : State} (c : Fin 4) (x : AuxCh) (hs : P s) : P (State.setAux s c x) := by
  unfold State.setAux
  try dsimp only
  repeat' first
    | with_reducible assumption | intro _
    | with_reducible exact rfl
    | split
    | with_reducible (first
      | refine of_pair (by assumption) ?_ | refine of_some (by assumption) ?_ | refine of_somePair (by assumption) ?_
      | apply keeps_fst | apply keeps_mk C)

theorem State.calBatchClose_keeps (C : Closed P) {s : State} (r : Fin 16) (g : Fin 16) (hs : P s) :
    P (State.calBatchClose s r g) := by
  unfold State.calBatchClose
  try dsimp only
  repeat' first
    | with_reducible assumption | intro _
    | with_reducible (first
      | exact rfl | apply State.setGroup_keeps C | apply State.emit_keeps C | apply keeps_ite)

theorem State.calTake_keeps (C : Closed P) {s : State} (r : Fin 16) (e : Entry) (hs : P s) :
    P (State.calTake s r e) := by
  unfold State.calTake
  try dsimp only
  repeat' first
    | with_reducible assumption | intro _
    | with_reducible (first
      | exact rfl | apply State.calBatchClose_keeps C | apply State.setGroup_keeps C | apply keeps_ite)

theorem State.calBatchTimeout_keeps (C : Closed P) {s : State} (r : Fin 16) (g : Fin 16) (hs : P s) :
    P (State.calBatchTimeout s r g) := by
  unfold State.calBatchTimeout
  try dsimp only
  repeat' first
    | with_reducible assumption | intro _
    | with_reducible (first
      | exact rfl | apply State.setGroup_keeps C | apply keeps_ite)
    | split

theorem State.calRestart_keeps (C : Closed P) {s : State} (r : Fin 16) (hs : P s) : P (State.calRestart s r) := by
  unfold State.calRestart
  try dsimp only
  repeat' first
    | with_reducible assumption | intro _
    | with_reducible (first
      | exact rfl | apply State.setTdcR_keeps C | apply State.emit_keeps C | apply keeps_ite)

theorem State.calLoad_keeps (C : Closed P) {s : State} (r : Fin 16) (hs : P s) : P (State.calLoad s r) := by
  unfold State.calLoad
  try dsimp only
  repeat' first
    | with_reducible assumption | intro _
    | with_reducible (first
      | exact rfl | apply State.setTdcR_keeps C | apply State.wrB_keeps C | apply C.wr | apply keeps_ite)

theorem State.calReset_keeps (C : Closed P) {s : State} (r : Fin 16) (hs : P s) : P (State.calReset s r) := by
  unfold State.calReset
  try dsimp only
  repeat' first
    | with_reducible assumption | intro _
    | with_reducible (first
      | exact rfl | apply State.setTdcR_keeps C)

theorem State.calBoundary_keeps (C : Closed P) {s : State} (r : Fin 16) (hs : P s) : P (State.calBoundary s r) := by
  unfold State.calBoundary
  try dsimp only
  repeat' first
    | with_reducible assumption | intro _
    | with_reducible (first
      | exact rfl | apply State.setTdcR_keeps C | apply State.calRestart_keeps C | apply State.setGroup_keeps C
      | apply State.wrB_keeps C | apply C.wr | apply keeps_ite | apply keeps_iteP | apply keeps_each)

theorem State.tdcTick_keeps (C : Closed P) {s : State} (hs : P s) : P (State.tdcTick s) := by
  unfold State.tdcTick
  try dsimp only
  repeat' first
    | with_reducible assumption | intro _
    | with_reducible (first
      | exact rfl | apply State.calBoundary_keeps C | apply State.setAux_keeps C | apply keeps_each | apply keeps_on)
    | split
    | with_reducible (first
      | refine of_pair (by assumption) ?_ | refine of_some (by assumption) ?_ | refine of_somePair (by assumption) ?_
      | apply keeps_fst | apply keeps_mk C)

theorem State.codeFault_keeps (C : Closed P) {s : State} (r : Fin 16) (hs : P s) : P (State.codeFault s r) := by
  unfold State.codeFault
  try dsimp only
  repeat' first
    | with_reducible assumption | intro _
    | with_reducible (first
      | exact rfl | apply State.bump_keeps C | apply State.setTdcR_keeps C | apply State.detect_keeps C
      | apply keeps_ite)

theorem State.dropFull_keeps (C : Closed P) {s : State} (r : Fin 16) (c : Nat) (hs : P s) :
    P (State.dropFull s r c) := by
  unfold State.dropFull
  try dsimp only
  repeat' first
    | with_reducible assumption | intro _
    | with_reducible (first
      | exact rfl | apply State.bump_keeps C | apply State.setGroup_keeps C)

theorem State.closeWin_keeps (C : Closed P) {s : State} (r : Fin 16) (w : Win) (hs : P s) :
    P (State.closeWin s r w) := by
  unfold State.closeWin
  try dsimp only
  repeat' first
    | with_reducible assumption | intro _
    | with_reducible (first
      | exact rfl | apply State.setTdcR_keeps C | apply State.bump_keeps C | apply State.codeFault_keeps C
      | apply State.dropFull_keeps C | apply State.calTake_keeps C | apply keeps_ite | apply keeps_when)
    | split
    | with_reducible (first
      | refine of_pair (by assumption) ?_ | refine of_some (by assumption) ?_ | refine of_somePair (by assumption) ?_
      | apply keeps_fst | apply keeps_mk C)

theorem State.tdcEdge_keeps (C : Closed P) {s : State} (r : Fin 16) (c : Nat) (p : Nat) (raw : RawCapture) (test : Bool) (hs : P s) :
    P (State.tdcEdge s r c p raw test) := by
  unfold State.tdcEdge
  try dsimp only
  repeat' first
    | with_reducible assumption | intro _
    | with_reducible (first
      | exact rfl | apply State.closeWin_keeps C | apply State.setTdcR_keeps C | apply keeps_ite)
    | split

theorem State.windowClose_keeps (C : Closed P) {s : State} (r : Fin 16) (c : Nat) (hs : P s) :
    P (State.windowClose s r c) := by
  unfold State.windowClose
  try dsimp only
  repeat' first
    | with_reducible assumption | intro _
    | with_reducible (first
      | exact rfl | apply State.closeWin_keeps C | apply keeps_ite)
    | split

theorem State.takeEntry_keeps (C : Closed P) {s : State} (r : Fin 16) (e : Entry) (hs : P s) :
    P (State.takeEntry s r e) := by
  unfold State.takeEntry
  try dsimp only
  repeat' first
    | with_reducible assumption | intro _
    | with_reducible (first
      | exact rfl | apply State.setTdcR_keeps C)

theorem State.correctEntry_keeps (C : Closed P) {s : State} (r : Fin 16) (e : Entry) (hs : P s) :
    (PairP P) (State.correctEntry s r e) := by
  unfold State.correctEntry
  try dsimp only
  repeat' first
    | with_reducible assumption | intro _
    | with_reducible (first
      | exact rfl | apply State.setTdcR_keeps C | apply keeps_ite | apply keeps_iteP | apply pairP_mk)

theorem State.auxSwap_keeps (C : Closed P) {s : State} (c : Fin 4) (hs : P s) : P (State.auxSwap s c) := by
  unfold State.auxSwap
  try dsimp only
  repeat' first
    | with_reducible assumption | intro _
    | with_reducible (first
      | exact rfl | apply State.setAux_keeps C | apply keeps_ite)

theorem State.auxBatch_keeps (C : Closed P) {s : State} (c : Fin 4) (k : Fin 2) (h : Vector Nat 128) (hs : P s) :
    P (State.auxBatch s c k h) := by
  unfold State.auxBatch
  try dsimp only
  repeat' first
    | with_reducible assumption | intro _
    | with_reducible (first
      | exact rfl | apply State.setAux_keeps C | apply keeps_ite)

theorem State.ttBatch_keeps (C : Closed P) {s : State} (p : Fin 6) (k : Fin 2) (h : Vector Nat 128) (hs : P s) :
    P (State.ttBatch s p k h) := by
  unfold State.ttBatch
  try dsimp only
  repeat' first
    | with_reducible assumption | intro _
    | with_reducible (first
      | exact rfl | apply keeps_ite)
    | split
    | with_reducible (first
      | refine of_pair (by assumption) ?_ | refine of_some (by assumption) ?_ | refine of_somePair (by assumption) ?_
      | apply keeps_fst | apply keeps_mk C)

theorem State.phaseMonitor_keeps (C : Closed P) {s : State} (spacingBad : Bool) (pllLost : Bool) (hs : P s) :
    P (State.phaseMonitor s spacingBad pllLost) := by
  unfold State.phaseMonitor
  try dsimp only
  repeat' first
    | with_reducible assumption | intro _
    | with_reducible (first
      | exact rfl | apply State.wrB_keeps C | apply State.detect_keeps C | apply C.wr | apply keeps_ite)
    | split
    | with_reducible (first
      | refine of_pair (by assumption) ?_ | refine of_some (by assumption) ?_ | refine of_somePair (by assumption) ?_
      | apply keeps_fst | apply keeps_mk C)

theorem State.ofsNext_keeps (C : Closed P) {s : State} (r : Fin 16) (hs : P s) : P (State.ofsNext s r) := by
  unfold State.ofsNext
  try dsimp only
  repeat' first
    | with_reducible assumption | intro _
    | with_reducible (first
      | exact rfl | apply C.wr | apply keeps_ite)

theorem State.ofsWrite_keeps (C : Closed P) {s : State} (r : Fin 16) (v : Nat) (hs : P s) :
    P (State.ofsWrite s r v) := by
  unfold State.ofsWrite
  try dsimp only
  repeat' first
    | with_reducible assumption | intro _
    | with_reducible (first
      | exact rfl | apply State.wrB_keeps C | apply State.ofsNext_keeps C | apply C.wr)
    | split
    | with_reducible (first
      | refine of_pair (by assumption) ?_ | refine of_some (by assumption) ?_ | refine of_somePair (by assumption) ?_
      | apply keeps_fst | apply keeps_mk C)

theorem State.dropWins_keeps (C : Closed P) {s : State} (r : Fin 16) (hs : P s) : P (State.dropWins s r) := by
  unfold State.dropWins
  try dsimp only
  repeat' first
    | with_reducible assumption | intro _
    | with_reducible (first
      | exact rfl | apply State.setTdcR_keeps C | apply State.bump_keeps C)

theorem State.dropQueue_keeps (C : Closed P) {s : State} (r : Fin 16) (hs : P s) : P (State.dropQueue s r) := by
  unfold State.dropQueue
  try dsimp only
  repeat' first
    | with_reducible assumption | intro _
    | with_reducible (first
      | exact rfl | apply State.setTdcR_keeps C | apply State.bump_keeps C)

theorem State.setPfeR_keeps (C : Closed P) {s : State} (r : Fin 16) (x : PfeR) (hs : P s) :
    P (State.setPfeR s r x) := by
  unfold State.setPfeR
  try dsimp only
  repeat' first
    | with_reducible assumption | intro _
    | with_reducible exact rfl
    | split
    | with_reducible (first
      | refine of_pair (by assumption) ?_ | refine of_some (by assumption) ?_ | refine of_somePair (by assumption) ?_
      | apply keeps_fst | apply keeps_mk C)

theorem State.maskNext_keeps (C : Closed P) {s : State} (r : Fin 16) (hs : P s) : P (State.maskNext s r) := by
  unfold State.maskNext
  try dsimp only
  repeat' first
    | with_reducible assumption | intro _
    | with_reducible (first
      | exact rfl | apply C.wr | apply keeps_ite)

theorem State.maskWrite_keeps (C : Closed P) {s : State} (r : Fin 16) (v : Nat) (hs : P s) :
    P (State.maskWrite s r v) := by
  unfold State.maskWrite
  try dsimp only
  repeat' first
    | with_reducible assumption | intro _
    | with_reducible (first
      | exact rfl | apply State.wrB_keeps C | apply State.maskNext_keeps C | apply C.wr)
    | split
    | with_reducible (first
      | refine of_pair (by assumption) ?_ | refine of_some (by assumption) ?_ | refine of_somePair (by assumption) ?_
      | apply keeps_fst | apply keeps_mk C)

theorem State.maskSetBits_keeps (C : Closed P) {s : State} (k m : Nat) (h : P s) : P (s.maskSetBits k m) := by
  have e : (s.staged.map (fun g => { g with mask := spSet g.mask k (spGet g.mask k 0 ||| m) 0 })).map (·.regs) = s.staged.map (·.regs) := by
    cases s.staged <;> rfl
  exact C.same (s := s) ⟨rfl, rfl, rfl, rfl, rfl, e, rfl, rfl, rfl, rfl⟩ h

theorem State.maskSave_keeps (C : Closed P) {s : State} (hs : P s) : P (State.maskSave s) := by
  unfold State.maskSave
  try dsimp only
  repeat' first
    | with_reducible assumption | intro _
    | with_reducible (first
      | exact rfl | apply State.bumpSat_keeps C | apply State.wrB_keeps C | apply C.wr | apply keeps_ite)
    | split
    | with_reducible (first
      | refine of_pair (by assumption) ?_ | refine of_some (by assumption) ?_ | refine of_somePair (by assumption) ?_
      | apply keeps_fst | apply keeps_mk C)

theorem State.maskSaveDone_keeps (C : Closed P) {s : State} (hs : P s) : P (State.maskSaveDone s) := by
  unfold State.maskSaveDone
  try dsimp only
  repeat' first
    | with_reducible assumption | intro _
    | with_reducible (first
      | exact rfl | apply State.wrB_keeps C | apply C.wr)
    | split
    | with_reducible (first
      | refine of_pair (by assumption) ?_ | refine of_some (by assumption) ?_ | refine of_somePair (by assumption) ?_
      | apply keeps_fst | apply keeps_mk C)

theorem State.pixelEdge_keeps (C : Closed P) {s : State} (r : Fin 16) (c : Nat) (p : Nat) (raw : RawCapture) (hs : P s) :
    P (State.pixelEdge s r c p raw) := by
  unfold State.pixelEdge
  try dsimp only
  repeat' first
    | with_reducible assumption | intro _
    | with_reducible (first
      | exact rfl | apply State.setPfeR_keeps C | apply State.tdcEdge_keeps C | apply keeps_ite)

theorem State.holdoffEnd_keeps (C : Closed P) {s : State} (r : Fin 16) (id : Nat) (hs : P s) :
    P (State.holdoffEnd s r id) := by
  unfold State.holdoffEnd
  try dsimp only
  repeat' first
    | with_reducible assumption | intro _
    | with_reducible (first
      | exact rfl | apply State.setPfeR_keeps C | apply keeps_ite)

theorem State.injTick_keeps (C : Closed P) {s : State} (r : Fin 16) (x : Int) (y : Int) (hs : P s) :
    P (State.injTick s r x y) := by
  unfold State.injTick
  try dsimp only
  repeat' first
    | with_reducible assumption | intro _
    | with_reducible (first
      | exact rfl | apply State.setPfeR_keeps C | apply State.wrB_keeps C | apply C.wr | apply keeps_ite)

theorem State.injCount_keeps (C : Closed P) {s : State} (r : Fin 16) (hs : P s) : P (State.injCount s r) := by
  unfold State.injCount
  try dsimp only
  repeat' first
    | with_reducible assumption | intro _
    | with_reducible (first
      | exact rfl | apply State.setPfeR_keeps C | apply C.wr)

theorem State.injSyncEdge_keeps (C : Closed P) {s : State} (r : Fin 16) (x : Int) (hs : P s) :
    P (State.injSyncEdge s r x) := by
  unfold State.injSyncEdge
  try dsimp only
  repeat' first
    | with_reducible assumption | intro _
    | with_reducible (first
      | exact rfl | apply State.setPfeR_keeps C | apply keeps_ite)

theorem State.injPulse_keeps (C : Closed P) {s : State} (r : Fin 16) (x : Int) (hs : P s) :
    P (State.injPulse s r x) := by
  unfold State.injPulse
  try dsimp only
  repeat' first
    | with_reducible assumption | intro _
    | with_reducible (first
      | exact rfl | apply State.setPfeR_keeps C | apply State.fresh_keeps C | apply State.pixelEdge_keeps C
      | apply keeps_ite | apply keeps_each)

theorem State.injectedPulse_keeps (C : Closed P) {s : State} (r : Fin 16) (y : Int) (hs : P s) :
    P (State.injectedPulse s r y) := by
  unfold State.injectedPulse
  try dsimp only
  repeat' first
    | with_reducible assumption | intro _
    | with_reducible (first
      | exact rfl | apply State.setPfeR_keeps C | apply State.injPulse_keeps C | apply State.wrB_keeps C | apply C.wr
      | apply keeps_ite)
    | split

theorem State.makeHot_keeps (C : Closed P) {s : State} (r : Fin 16) (id : Nat) (k : Nat) (hs : P s) :
    P (State.makeHot s r id k) := by
  unfold State.makeHot
  try dsimp only
  repeat' first
    | with_reducible assumption | intro _
    | with_reducible (first
      | exact rfl | apply State.setPfeR_keeps C | apply State.emit_keeps C)

theorem State.hotDetect_keeps (C : Closed P) {s : State} (r : Fin 16) (f : Frame) (k : Nat) (hs : P s) :
    P (State.hotDetect s r f k) := by
  unfold State.hotDetect
  try dsimp only
  repeat' first
    | with_reducible assumption | intro _
    | with_reducible (first
      | exact rfl | apply State.setPfeR_keeps C | apply State.makeHot_keeps C | apply keeps_ite | apply keeps_iteP
      | apply keeps_each)

theorem State.hotBoundary_keeps (C : Closed P) {s : State} (r : Fin 16) (hs : P s) : P (State.hotBoundary s r) := by
  unfold State.hotBoundary
  try dsimp only
  repeat' first
    | with_reducible assumption | intro _
    | with_reducible (first
      | exact rfl | apply State.setPfeR_keeps C | apply State.maskSetBits_keeps C | apply keeps_ite | apply keeps_iteP
      | apply keeps_each)

theorem State.hotClr_keeps (C : Closed P) {s : State} (r : Fin 16) (hs : P s) : P (State.hotClr s r) := by
  unfold State.hotClr
  try dsimp only
  repeat' first
    | with_reducible assumption | intro _
    | with_reducible (first
      | exact rfl | apply State.setPfeR_keeps C)

theorem State.pfeFrameDone_keeps (C : Closed P) {s : State} (r : Fin 16) (f : Frame) (k : Nat) (hs : P s) :
    P (State.pfeFrameDone s r f k) := by
  unfold State.pfeFrameDone
  try dsimp only
  repeat' first
    | with_reducible assumption | intro _
    | with_reducible (first
      | exact rfl | apply State.hotDetect_keeps C | apply C.wr)

theorem State.tbsUpd_keeps (C : Closed P) {s : State} (f : Tbs → Tbs) (hs : P s) : P (State.tbsUpd s f) := by
  unfold State.tbsUpd
  try dsimp only
  repeat' first
    | with_reducible assumption | intro _
    | with_reducible exact rfl
    | split
    | with_reducible (first
      | refine of_pair (by assumption) ?_ | refine of_some (by assumption) ?_ | refine of_somePair (by assumption) ?_
      | apply keeps_fst | apply keeps_mk C)

theorem State.setFreq_keeps (C : Closed P) {s : State} (x : Int) (hs : P s) : P (State.setFreq s x) := by
  unfold State.setFreq
  try dsimp only
  repeat' first
    | with_reducible assumption | intro _
    | with_reducible (first
      | exact rfl | apply State.wrS_keeps C | apply State.wrB_keeps C | apply C.wr | apply keeps_when)

theorem State.tbStep_keeps (C : Closed P) {s : State} (d : Int) (hs : P s) : P (State.tbStep s d) := by
  unfold State.tbStep
  try dsimp only
  repeat' first
    | with_reducible assumption | intro _
    | with_reducible (first
      | exact rfl | apply State.tbsUpd_keeps C | apply State.bump_keeps C | apply State.wrB_keeps C
      | apply State.emit_keeps C)

theorem State.nextEdge_keeps (C : Closed P) {s : State} (hs : P s) : P (State.nextEdge s) := by
  unfold State.nextEdge
  try dsimp only
  repeat' first
    | with_reducible assumption | intro _
    | with_reducible (first
      | exact rfl | apply keeps_at C)

theorem State.stepTo_keeps (C : Closed P) {s : State} (x : Nat) (hs : P s) : P (State.stepTo s x) := by
  unfold State.stepTo
  try dsimp only
  repeat' first
    | with_reducible assumption | intro _
    | with_reducible (first
      | exact rfl | apply State.nextEdge_keeps C | apply State.tbStep_keeps C)

theorem State.holdover_keeps (C : Closed P) {s : State} (k : Nat) (hs : P s) : P (State.holdover s k) := by
  unfold State.holdover
  try dsimp only
  repeat' first
    | with_reducible assumption | intro _
    | with_reducible (first
      | exact rfl | apply State.setFreq_keeps C | apply State.wrB_keeps C | apply State.tbsUpd_keeps C
      | apply State.emit_keeps C | apply State.detect_keeps C | apply C.wr | apply keeps_ite)

theorem State.srcSwitch_keeps (C : Closed P) {s : State} (k : Nat) (hs : P s) : P (State.srcSwitch s k) := by
  unfold State.srcSwitch
  try dsimp only
  repeat' first
    | with_reducible assumption | intro _
    | with_reducible (first
      | exact rfl | apply State.tbsUpd_keeps C | apply State.bump_keeps C | apply State.emit_keeps C | apply C.wr
      | apply keeps_when)

theorem State.srcSelect_keeps (C : Closed P) {s : State} (hs : P s) : P (State.srcSelect s) := by
  unfold State.srcSelect
  try dsimp only
  repeat' first
    | with_reducible assumption | intro _
    | with_reducible (first
      | exact rfl | apply State.holdover_keeps C | apply State.srcSwitch_keeps C | apply keeps_ite)
    | split

theorem State.srcUpdate_keeps (C : Closed P) {s : State} (hs : P s) : P (State.srcUpdate s) := by
  unfold State.srcUpdate
  try dsimp only
  repeat' first
    | with_reducible assumption | intro _
    | with_reducible (first
      | exact rfl | apply State.srcSelect_keeps C | apply State.srcSwitch_keeps C | apply State.holdover_keeps C
      | apply keeps_ite)
    | split

theorem State.qualChanged_keeps (C : Closed P) {s : State} (hs : P s) : P (State.qualChanged s) := by
  unfold State.qualChanged
  try dsimp only
  repeat' first
    | with_reducible assumption | intro _
    | with_reducible (first
      | exact rfl | apply State.tbsUpd_keeps C | apply State.srcSelect_keeps C)

theorem State.revertTimer_keeps (C : Closed P) {s : State} (hs : P s) : P (State.revertTimer s) := by
  unfold State.revertTimer
  try dsimp only
  repeat' first
    | with_reducible assumption | intro _
    | with_reducible (first
      | exact rfl | apply State.srcSelect_keeps C)

theorem State.holdWarn_keeps (C : Closed P) {s : State} (hs : P s) : P (State.holdWarn s) := by
  unfold State.holdWarn
  try dsimp only
  repeat' first
    | with_reducible assumption | intro _
    | with_reducible (first
      | exact rfl | apply State.tbsUpd_keeps C | apply State.emit_keeps C | apply keeps_ite)
    | split

theorem State.servo_keeps (C : Closed P) {s : State} (k : Nat) (e : Int) (a : Nat) (hs : P s) :
    P (State.servo s k e a) := by
  unfold State.servo
  try dsimp only
  repeat' first
    | with_reducible assumption | intro _
    | with_reducible (first
      | exact rfl | apply State.setFreq_keeps C | apply State.tbsUpd_keeps C | apply State.wrB_keeps C | apply C.wr
      | apply keeps_ite)

theorem State.servoUpdate_keeps (C : Closed P) {s : State} (k : Nat) (e : Int) (step : Int) (left : Int) (follow : Bool) (hs : P s) :
    P (State.servoUpdate s k e step left follow) := by
  unfold State.servoUpdate
  try dsimp only
  repeat' first
    | with_reducible assumption | intro _
    | with_reducible (first
      | exact rfl | apply State.srcUpdate_keeps C | apply State.wrS_keeps C | apply State.wrB_keeps C
      | apply State.tbsUpd_keeps C | apply State.nextEdge_keeps C | apply State.tbStep_keeps C
      | apply State.servo_keeps C | apply C.wr | apply keeps_ite)

theorem State.refLoss_keeps (C : Closed P) {s : State} (hs : P s) : P (State.refLoss s) := by
  unfold State.refLoss
  try dsimp only
  repeat' first
    | with_reducible assumption | intro _
    | with_reducible (first
      | exact rfl | apply State.tbsUpd_keeps C | apply State.wrB_keeps C | apply State.qualChanged_keeps C)

theorem State.refResume_keeps (C : Closed P) {s : State} (hs : P s) : P (State.refResume s) := by
  unfold State.refResume
  try dsimp only
  repeat' first
    | with_reducible assumption | intro _
    | with_reducible (first
      | exact rfl | apply State.tbsUpd_keeps C | apply State.wrB_keeps C | apply C.wr | apply keeps_ite)

theorem State.refWindow_keeps (C : Closed P) {s : State} (ppb : Int) (hs : P s) : P (State.refWindow s ppb) := by
  unfold State.refWindow
  try dsimp only
  repeat' first
    | with_reducible assumption | intro _
    | with_reducible (first
      | exact rfl | apply State.wrS_keeps C | apply State.tbsUpd_keeps C | apply State.wrB_keeps C
      | apply State.qualChanged_keeps C | apply C.wr | apply keeps_ite)
    | split

theorem State.ppsEdge_keeps (C : Closed P) {s : State} (x : Int) (refs : Nat) (hs : P s) :
    P (State.ppsEdge s x refs) := by
  unfold State.ppsEdge
  try dsimp only
  repeat' first
    | with_reducible assumption | intro _
    | with_reducible (first
      | exact rfl | apply State.tbsUpd_keeps C | apply State.wrB_keeps C | apply State.bump_keeps C
      | apply State.emit_keeps C | apply State.qualChanged_keeps C | apply C.wr | apply keeps_ite | apply keeps_when)

theorem State.ppsTimeout_keeps (C : Closed P) {s : State} (hs : P s) : P (State.ppsTimeout s) := by
  unfold State.ppsTimeout
  try dsimp only
  repeat' first
    | with_reducible assumption | intro _
    | with_reducible (first
      | exact rfl | apply State.tbsUpd_keeps C | apply State.wrB_keeps C | apply State.qualChanged_keeps C
      | apply C.wr | apply keeps_ite)
    | split

theorem State.extUpdate_keeps (C : Closed P) {s : State} (x : Int) (hs : P s) : P (State.extUpdate s x) := by
  unfold State.extUpdate
  try dsimp only
  repeat' first
    | with_reducible assumption | intro _
    | with_reducible (first
      | exact rfl | apply State.servoUpdate_keeps C | apply keeps_ite)

theorem State.setClap_keeps (C : Closed P) {s : State} (l : Fin 10) (x : ClapSt) (hs : P s) :
    P (State.setClap s l x) := by
  unfold State.setClap
  try dsimp only
  repeat' first
    | with_reducible assumption | intro _
    | with_reducible (first
      | exact rfl | apply State.tbsUpd_keeps C)

theorem State.clapTx_keeps (C : Closed P) {s : State} (l : Fin 10) (lane : Fin 2) (hs : P s) :
    P (State.clapTx s l lane) := by
  unfold State.clapTx
  try dsimp only
  repeat' first
    | with_reducible assumption | intro _
    | with_reducible (first
      | exact rfl | apply State.setClap_keeps C | apply State.clapBlocks_keeps C)
    | split
    | with_reducible (first
      | refine of_pair (by assumption) ?_ | refine of_some (by assumption) ?_ | refine of_somePair (by assumption) ?_
      | apply keeps_fst | apply keeps_mk C)

theorem State.clapSel_keeps (C : Closed P) {s : State} (hs : P s) : P (State.clapSel s) := by
  unfold State.clapSel
  try dsimp only
  repeat' first
    | with_reducible assumption | intro _
    | with_reducible (first
      | exact rfl | apply State.wrB_keeps C | apply State.qualChanged_keeps C)

theorem State.clapReport_keeps (_ : Closed P) {s : State} (l : Fin 10) {f : State → State} (hs : P s) (hf : ∀ a, P a → P (f a)) :
    P (State.clapReport s l f) := by
  unfold State.clapReport
  try dsimp only
  repeat' first
    | with_reducible assumption | intro _
    | with_reducible (first
      | exact rfl | apply hf | apply keeps_ite)

theorem State.clapView_keeps (C : Closed P) {s : State} (l : Fin 10) (hs : P s) : P (State.clapView s l) := by
  unfold State.clapView
  try dsimp only
  repeat' first
    | with_reducible assumption | intro _
    | with_reducible (first
      | exact rfl | apply State.clapReport_keeps C | apply State.wrS_keeps C | apply State.wrB_keeps C | apply C.wr)

theorem State.clapRx_keeps (C : Closed P) {s : State} (l : Fin 10) (lane : Nat) (k : Clap) (hs : P s) :
    P (State.clapRx s l lane k) := by
  unfold State.clapRx
  try dsimp only
  repeat' first
    | with_reducible assumption | intro _
    | with_reducible (first
      | exact rfl | apply State.setClap_keeps C | apply State.clapReport_keeps C | apply State.wrS_keeps C
      | apply State.wrB_keeps C | apply State.qualChanged_keeps C | apply State.servoUpdate_keeps C | apply C.wr
      | apply keeps_ite | apply keeps_iteP | apply keeps_when)
    | split

theorem State.clapTimeout_keeps (C : Closed P) {s : State} (l : Fin 10) (hs : P s) : P (State.clapTimeout s l) := by
  unfold State.clapTimeout
  try dsimp only
  repeat' first
    | with_reducible assumption | intro _
    | with_reducible (first
      | exact rfl | apply State.setClap_keeps C | apply State.wrB_keeps C | apply State.qualChanged_keeps C
      | apply C.wr | apply keeps_ite)
    | split

theorem State.clapLinkDown_keeps (C : Closed P) {s : State} (l : Fin 10) (hs : P s) : P (State.clapLinkDown s l) := by
  unfold State.clapLinkDown
  try dsimp only
  repeat' first
    | with_reducible assumption | intro _
    | with_reducible (first
      | exact rfl | apply State.setClap_keeps C | apply State.wrB_keeps C | apply State.qualChanged_keeps C
      | apply C.wr | apply keeps_ite)

theorem State.ptpDisc_keeps (C : Closed P) {s : State} (hs : P s) : P (State.ptpDisc s) := by
  unfold State.ptpDisc
  try dsimp only
  repeat' first
    | with_reducible assumption | intro _
    | with_reducible (first
      | exact rfl | apply State.bump_keeps C)

theorem State.ptpMsg_keeps (C : Closed P) {s : State} (h : PtpHead) {f : State → State} (hs : P s) (hf : ∀ a, P a → P (f a)) :
    P (State.ptpMsg s h f) := by
  unfold State.ptpMsg
  try dsimp only
  repeat' first
    | with_reducible assumption | intro _
    | with_reducible (first
      | exact rfl | apply hf | apply State.ptpDisc_keeps C | apply keeps_ite)

theorem State.ptpSelect_keeps (C : Closed P) {s : State} (hs : P s) : P (State.ptpSelect s) := by
  unfold State.ptpSelect
  try dsimp only
  repeat' first
    | with_reducible assumption | intro _
    | with_reducible (first
      | exact rfl | apply State.tbsUpd_keeps C | apply State.wrB_keeps C | apply State.wrS_keeps C | apply C.wr
      | apply keeps_ite)
    | split

theorem State.ptpAnnounce_keeps (C : Closed P) {s : State} (h : PtpHead) (a : PtpAnnounce) (hs : P s) :
    P (State.ptpAnnounce s h a) := by
  unfold State.ptpAnnounce
  try dsimp only
  repeat' first
    | with_reducible assumption | intro _
    | with_reducible (first
      | exact rfl | apply State.ptpMsg_keeps C | apply State.tbsUpd_keeps C | apply State.ptpSelect_keeps C
      | apply State.qualChanged_keeps C)

theorem State.ptpAnnTimeout_keeps (C : Closed P) {s : State} (hs : P s) : P (State.ptpAnnTimeout s) := by
  unfold State.ptpAnnTimeout
  try dsimp only
  repeat' first
    | with_reducible assumption | intro _
    | with_reducible (first
      | exact rfl | apply State.tbsUpd_keeps C | apply State.wrB_keeps C | apply State.ptpSelect_keeps C
      | apply State.qualChanged_keeps C | apply C.wr | apply keeps_ite)
    | split

theorem State.ptpSync_keeps (C : Closed P) {s : State} (h : PtpHead) (twoStep : Bool) (hs : P s) :
    P (State.ptpSync s h twoStep) := by
  unfold State.ptpSync
  try dsimp only
  repeat' first
    | with_reducible assumption | intro _
    | with_reducible (first
      | exact rfl | apply State.ptpMsg_keeps C | apply State.ptpDisc_keeps C | apply State.tbsUpd_keeps C
      | apply keeps_ite)

theorem State.ptpFollow_keeps (C : Closed P) {s : State} (h : PtpHead) (t1 : Nat) (hs : P s) :
    P (State.ptpFollow s h t1) := by
  unfold State.ptpFollow
  try dsimp only
  repeat' first
    | with_reducible assumption | intro _
    | with_reducible (first
      | exact rfl | apply State.ptpMsg_keeps C | apply State.tbsUpd_keeps C | apply keeps_ite)
    | split

theorem State.ptpDelayReq_keeps (C : Closed P) {s : State} (hs : P s) : P (State.ptpDelayReq s) := by
  unfold State.ptpDelayReq
  try dsimp only
  repeat' first
    | with_reducible assumption | intro _
    | with_reducible (first
      | exact rfl | apply State.tbsUpd_keeps C | apply keeps_ite)
    | split
    | with_reducible (first
      | refine of_pair (by assumption) ?_ | refine of_some (by assumption) ?_ | refine of_somePair (by assumption) ?_
      | apply keeps_fst | apply keeps_mk C)

theorem State.ptpDelayResp_keeps (C : Closed P) {s : State} (h : PtpHead) (t4 : Nat) (hs : P s) :
    P (State.ptpDelayResp s h t4) := by
  unfold State.ptpDelayResp
  try dsimp only
  repeat' first
    | with_reducible assumption | intro _
    | with_reducible (first
      | exact rfl | apply State.ptpMsg_keeps C | apply State.tbsUpd_keeps C | apply State.wrB_keeps C
      | apply State.qualChanged_keeps C | apply State.servoUpdate_keeps C | apply C.wr | apply keeps_ite)
    | split

theorem State.ptpSyncTimeout_keeps (C : Closed P) {s : State} (hs : P s) : P (State.ptpSyncTimeout s) := by
  unfold State.ptpSyncTimeout
  try dsimp only
  repeat' first
    | with_reducible assumption | intro _
    | with_reducible (first
      | exact rfl | apply State.tbsUpd_keeps C | apply State.wrB_keeps C | apply State.qualChanged_keeps C
      | apply C.wr | apply keeps_ite)
    | split

theorem State.timeSet_keeps (C : Closed P) {s : State} (w : Nat) (hs : P s) : P (State.timeSet s w) := by
  unfold State.timeSet
  try dsimp only
  repeat' first
    | with_reducible assumption | intro _
    | with_reducible (first
      | exact rfl | apply State.wrB_keeps C | apply State.stepTo_keeps C | apply C.wr | apply keeps_ite)
    | split

theorem State.stepCmd_keeps (C : Closed P) {s : State} (hs : P s) : P (State.stepCmd s) := by
  unfold State.stepCmd
  try dsimp only
  repeat' first
    | with_reducible assumption | intro _
    | with_reducible (first
      | exact rfl | apply State.wrB_keeps C | apply State.stepTo_keeps C | apply C.wr | apply keeps_ite)

theorem State.snapReq_keeps (C : Closed P) {s : State} (hs : P s) : P (State.snapReq s) := by
  unfold State.snapReq
  try dsimp only
  repeat' first
    | with_reducible assumption | intro _
    | with_reducible (first
      | exact rfl | apply State.wrB_keeps C | apply C.wr)

theorem State.freqWrite_keeps (C : Closed P) {s : State} (v : Nat) (hs : P s) : P (State.freqWrite s v) := by
  unfold State.freqWrite
  try dsimp only
  repeat' first
    | with_reducible assumption | intro _
    | with_reducible (first
      | exact rfl | apply State.setFreq_keeps C | apply State.wrB_keeps C | apply C.wr | apply keeps_ite)

theorem State.ppsOut_keeps (C : Closed P) {s : State} (hs : P s) : P (State.ppsOut s) := by
  unfold State.ppsOut
  try dsimp only
  repeat' first
    | with_reducible assumption | intro _
    | with_reducible (first
      | exact rfl | apply State.tbsUpd_keeps C | apply keeps_ite)

theorem State.tbsCommit_keeps (C : Closed P) {s : State} (old : Nat) (parent : Option Nat) (hs : P s) :
    P (State.tbsCommit s old parent) := by
  unfold State.tbsCommit
  try dsimp only
  repeat' first
    | with_reducible assumption | intro _
    | with_reducible (first
      | exact rfl | apply State.tbsUpd_keeps C | apply State.wrB_keeps C | apply State.qualChanged_keeps C
      | apply State.clapSel_keeps C | apply C.wr | apply keeps_ite | apply keeps_when)

theorem State.tbsStart_keeps (C : Closed P) {s : State} (hs : P s) : P (State.tbsStart s) := by
  unfold State.tbsStart
  try dsimp only
  repeat' first
    | with_reducible assumption | intro _
    | with_reducible exact rfl
    | split
    | with_reducible (first
      | refine of_pair (by assumption) ?_ | refine of_some (by assumption) ?_ | refine of_somePair (by assumption) ?_
      | apply keeps_fst | apply keeps_mk C)

end Sys2Proof.Machine
end

