-- ==== Sys2Proof/Laws/KeepStore.lean ====
section
/-! SUPPORT. Each operation of the store and the compression keeps what no ordinary operation changes: one lemma for each. -/

namespace Sys2Proof.Machine

open Sys2Proof

variable {P : State → Prop}

theorem State.setByte_keeps (C : Closed P) {s : State} (a : Nat) (v : Nat) (hs : P s) : P (State.setByte s a v) := by
  unfold State.setByte
  try dsimp only
  repeat' first
    | with_reducible assumption | intro _
    | with_reducible exact rfl
    | split
    | with_reducible (first
      | refine of_pair (by assumption) ?_ | refine of_some (by assumption) ?_ | refine of_somePair (by assumption) ?_
      | apply keeps_fst | apply keeps_mk C)

theorem State.putLine_keeps (C : Closed P) {s : State} (q : Nat) (p : Nat) (b : Nat) (l : List Nat) (hs : P s) :
    P (State.putLine s q p b l) := by
  unfold State.putLine
  try dsimp only
  repeat' first
    | with_reducible assumption | intro _
    | with_reducible (first
      | exact rfl | apply State.setByte_keeps C | apply keeps_each)

theorem State.setMem_keeps (C : Closed P) {s : State} (p : Nat) (b : Nat) (l : List Nat) (hs : P s) :
    P (State.setMem s p b l) := by
  unfold State.setMem
  try dsimp only
  repeat' first
    | with_reducible assumption | intro _
    | with_reducible (first
      | exact rfl | apply State.putLine_keeps C | apply keeps_each)

theorem State.flip_keeps (C : Closed P) {s : State} (errs : List (Nat × Nat)) (hs : P s) : P (State.flip s errs) := by
  unfold State.flip
  try dsimp only
  repeat' first
    | with_reducible assumption | intro _
    | with_reducible (first
      | exact rfl | apply keeps_each)
    | split
    | with_reducible (first
      | refine of_pair (by assumption) ?_ | refine of_some (by assumption) ?_ | refine of_somePair (by assumption) ?_
      | apply keeps_fst | apply keeps_mk C)

theorem State.writeLine_keeps (C : Closed P) {s : State} (h : Shelf) (g0 : Nat) (i : Nat) (data : List Nat) (hs : P s) :
    P (State.writeLine s h g0 i data) := by
  unfold State.writeLine
  try dsimp only
  repeat' first
    | with_reducible assumption | intro _
    | with_reducible (first
      | exact rfl | apply State.setMem_keeps C)

theorem State.edcLog_keeps (C : Closed P) {s : State} (e : EdcLog) (hs : P s) : P (State.edcLog s e) := by
  unfold State.edcLog
  try dsimp only
  repeat' first
    | with_reducible assumption | intro _
    | with_reducible (first
      | exact rfl | apply C.wr)
    | split
    | with_reducible (first
      | refine of_pair (by assumption) ?_ | refine of_some (by assumption) ?_ | refine of_somePair (by assumption) ?_
      | apply keeps_fst | apply keeps_mk C)

theorem State.poolRegs_keeps (C : Closed P) {s : State} (c : Nat) (hs : P s) : P (State.poolRegs s c) := by
  unfold State.poolRegs
  try dsimp only
  repeat' first
    | with_reducible assumption | intro _
    | with_reducible (first
      | exact rfl | apply State.wrB_keeps C | apply State.detect_keeps C | apply C.wr | apply keeps_when)

theorem State.mergePush_keeps (C : Closed P) {s : State} (o : MergeOp) (hs : P s) : P (State.mergePush s o) := by
  unfold State.mergePush
  try dsimp only
  repeat' first
    | with_reducible assumption | intro _
    | with_reducible (first
      | exact rfl | apply keeps_ite)
    | split
    | with_reducible (first
      | refine of_pair (by assumption) ?_ | refine of_some (by assumption) ?_ | refine of_somePair (by assumption) ?_
      | apply keeps_fst | apply keeps_mk C)

theorem State.mergeFeed_keeps (C : Closed P) {s : State} (n0 : Nat) (hs : P s) : P (State.mergeFeed s n0) := by
  induction n0 generalizing s
  all_goals
  unfold State.mergeFeed
  try dsimp only
  repeat' first
    | with_reducible assumption | intro _
    | with_reducible (first
      | exact rfl | apply_assumption | apply keeps_ite)
    | split
    | with_reducible (first
      | refine of_pair (by assumption) ?_ | refine of_some (by assumption) ?_ | refine of_somePair (by assumption) ?_
      | apply keeps_fst | apply keeps_mk C)

theorem State.mergeBack_keeps (C : Closed P) {s : State} (p : Nat) (hs : P s) : P (State.mergeBack s p) := by
  unfold State.mergeBack
  try dsimp only
  repeat' first
    | with_reducible assumption | intro _
    | with_reducible (first
      | exact rfl | apply State.mergePush_keeps C | apply State.bump_keeps C | apply keeps_ite)

theorem State.patchLost_keeps (C : Closed P) {s : State} (p : Nat) (hs : P s) : P (State.patchLost s p) := by
  unfold State.patchLost
  try dsimp only
  repeat' first
    | with_reducible assumption | intro _
    | with_reducible (first
      | exact rfl | apply State.bump_keeps C | apply State.emit_keeps C)

theorem State.spareSpan_keeps (C : Closed P) {s : State} (p : Nat) (hs : P s) : P (State.spareSpan s p) := by
  unfold State.spareSpan
  try dsimp only
  repeat' first
    | with_reducible assumption | intro _
    | with_reducible (first
      | exact rfl | apply State.poolRegs_keeps C | apply State.mergePush_keeps C | apply keeps_ite | apply keeps_each)
    | split
    | with_reducible (first
      | refine of_pair (by assumption) ?_ | refine of_some (by assumption) ?_ | refine of_somePair (by assumption) ?_
      | apply keeps_fst | apply keeps_mk C)

theorem State.lineFixed_keeps (C : Closed P) {s : State} (p : Nat) (n : Nat) (src : Nat) (hs : P s) :
    P (State.lineFixed s p n src) := by
  unfold State.lineFixed
  try dsimp only
  repeat' first
    | with_reducible assumption | intro _
    | with_reducible (first
      | exact rfl | apply State.bump_keeps C | apply State.wrB_keeps C | apply State.edcLog_keeps C
      | apply State.spareSpan_keeps C | apply C.wr | apply keeps_ite | apply keeps_iteP)
    | split
    | with_reducible (first
      | refine of_pair (by assumption) ?_ | refine of_some (by assumption) ?_ | refine of_somePair (by assumption) ?_
      | apply keeps_fst | apply keeps_mk C)

theorem State.moveDone_keeps (C : Closed P) {s : State} (m : Move) (hs : P s) : P (State.moveDone s m) := by
  unfold State.moveDone
  try dsimp only
  repeat' first
    | with_reducible assumption | intro _
    | with_reducible (first
      | exact rfl | apply State.poolRegs_keeps C | apply State.detect_keeps C)
    | split
    | with_reducible (first
      | refine of_pair (by assumption) ?_ | refine of_some (by assumption) ?_ | refine of_somePair (by assumption) ?_
      | apply keeps_fst | apply keeps_mk C)

theorem State.corrected_keeps (C : Closed P) {s : State} (p : Nat) (n : Nat) (src : Nat) (hs : P s) :
    P (State.corrected s p n src) := by
  unfold State.corrected
  try dsimp only
  repeat' first
    | with_reducible assumption | intro _
    | with_reducible (first
      | exact rfl | apply State.lineFixed_keeps C | apply State.mergeBack_keeps C)

theorem State.checkFixed_keeps (C : Closed P) {s : State} (h : Shelf) (g0 : Nat) (hs : P s) :
    (PairP P) (State.checkFixed s h g0) := by
  unfold State.checkFixed
  try dsimp only
  repeat' first
    | with_reducible assumption | intro _
    | with_reducible (first
      | exact rfl | apply State.corrected_keeps C | apply keeps_foldl_pair | apply keeps_foldl | apply pairP_mk)
    | split
    | with_reducible (first
      | refine of_pair (by assumption) ?_ | refine of_some (by assumption) ?_ | refine of_somePair (by assumption) ?_
      | apply keeps_fst)

theorem State.copyTo_keeps (C : Closed P) {s : State} (p : Nat) (k : Nat) (d : List Nat) (hs : P s) :
    P (State.copyTo s p k d) := by
  unfold State.copyTo
  try dsimp only
  repeat' first
    | with_reducible assumption | intro _
    | with_reducible (first
      | exact rfl | apply State.putLine_keeps C | apply State.moveDone_keeps C | apply keeps_ite)
    | split
    | with_reducible (first
      | refine of_pair (by assumption) ?_ | refine of_some (by assumption) ?_ | refine of_somePair (by assumption) ?_
      | apply keeps_fst | apply keeps_mk C)

theorem State.poisonLine_keeps (C : Closed P) {s : State} (p : Nat) (hs : P s) : P (State.poisonLine s p) := by
  unfold State.poisonLine
  try dsimp only
  repeat' first
    | with_reducible assumption | intro _
    | with_reducible (first
      | exact rfl | apply State.setMem_keeps C)

theorem State.poisonNow_keeps (C : Closed P) {s : State} (p : Nat) (hs : P s) : P (State.poisonNow s p) := by
  unfold State.poisonNow
  try dsimp only
  repeat' first
    | with_reducible assumption | intro _
    | with_reducible (first
      | exact rfl | apply State.mergePush_keeps C | apply State.patchLost_keeps C | apply keeps_foldl_pair
      | apply keeps_each | apply keeps_foldl | apply pairP_mk)
    | split
    | with_reducible (first
      | refine of_pair (by assumption) ?_ | refine of_some (by assumption) ?_ | refine of_somePair (by assumption) ?_
      | apply keeps_fst | apply keeps_mk C)

theorem State.takeBad_keeps (C : Closed P) {s : State} (t : Take) (q : Nat) (b : Nat) (hs : P s) :
    P (State.takeBad s t q b) := by
  unfold State.takeBad
  try dsimp only
  repeat' first
    | with_reducible assumption | intro _
    | with_reducible (first
      | exact rfl | apply keeps_ite | apply keeps_getD)
    | split
    | with_reducible (first
      | refine of_pair (by assumption) ?_ | refine of_some (by assumption) ?_ | refine of_somePair (by assumption) ?_
      | apply keeps_fst | apply keeps_mk C)

theorem State.lineBad_keeps (C : Closed P) {s : State} (p : Nat) (src : Nat) (hs : P s) :
    P (State.lineBad s p src) := by
  unfold State.lineBad
  try dsimp only
  repeat' first
    | with_reducible assumption | intro _
    | with_reducible (first
      | exact rfl | apply State.poisonNow_keeps C | apply State.bump_keeps C | apply State.edcLog_keeps C
      | apply State.takeBad_keeps C | apply State.detect_keeps C | apply keeps_each | apply keeps_elim)
    | split
    | with_reducible (first
      | refine of_pair (by assumption) ?_ | refine of_some (by assumption) ?_ | refine of_somePair (by assumption) ?_
      | apply keeps_fst | apply keeps_mk C)

theorem State.sysRewrite_keeps (C : Closed P) {s : State} (n : Nat) (i : Nat) (hs : P s) :
    P (State.sysRewrite s n i) := by
  unfold State.sysRewrite
  try dsimp only
  repeat' first
    | with_reducible assumption | intro _
    | with_reducible (first
      | exact rfl | apply State.writeLine_keeps C | apply State.corrected_keeps C | apply C.wr)
    | split

theorem State.copyRun_keeps (C : Closed P) {s : State} (p : Nat) (k : Nat) (hs : P s) : P (State.copyRun s p k) := by
  unfold State.copyRun
  try dsimp only
  repeat' first
    | with_reducible assumption | intro _
    | with_reducible (first
      | exact rfl | apply State.copyTo_keeps C | apply State.checkFixed_keeps C | apply State.lineFixed_keeps C
      | apply State.lineBad_keeps C | apply State.mergePush_keeps C | apply keeps_ite | apply keeps_iteP)
    | split
    | with_reducible (first
      | refine of_pair (by assumption) ?_ | refine of_some (by assumption) ?_ | refine of_somePair (by assumption) ?_
      | apply keeps_fst)

theorem State.homeRun_keeps (C : Closed P) {s : State} (p : Nat) (hs : P s) : P (State.homeRun s p) := by
  unfold State.homeRun
  try dsimp only
  repeat' first
    | with_reducible assumption | intro _
    | with_reducible (first
      | exact rfl | apply State.putLine_keeps C | apply State.checkFixed_keeps C | apply State.lineFixed_keeps C
      | apply State.lineBad_keeps C | apply State.mergePush_keeps C | apply keeps_ite | apply keeps_iteP)
    | split
    | with_reducible (first
      | refine of_pair (by assumption) ?_ | refine of_some (by assumption) ?_ | refine of_somePair (by assumption) ?_
      | apply keeps_fst)

theorem State.headRun_keeps (C : Closed P) {s : State} (p : Nat) (l : List Nat) (hs : P s) :
    P (State.headRun s p l) := by
  unfold State.headRun
  try dsimp only
  repeat' first
    | with_reducible assumption | intro _
    | with_reducible (first
      | exact rfl | apply State.writeLine_keeps C | apply State.lineFixed_keeps C | apply State.lineBad_keeps C
      | apply C.wr)
    | split

theorem State.backRun_keeps (C : Closed P) {s : State} (p : Nat) (hs : P s) : P (State.backRun s p) := by
  unfold State.backRun
  try dsimp only
  repeat' first
    | with_reducible assumption | intro _
    | with_reducible (first
      | exact rfl | apply State.writeLine_keeps C | apply State.sysRewrite_keeps C | apply State.lineBad_keeps C
      | apply C.wr)
    | split

theorem State.mergeRun_keeps (C : Closed P) {s : State} (o : MergeOp) (hs : P s) : P (State.mergeRun s o) := by
  unfold State.mergeRun
  try dsimp only
  repeat' first
    | with_reducible assumption | intro _
    | with_reducible (first
      | exact rfl | apply State.poisonLine_keeps C | apply State.copyRun_keeps C | apply State.homeRun_keeps C
      | apply State.headRun_keeps C | apply State.backRun_keeps C | apply State.writeLine_keeps C
      | apply State.lineFixed_keeps C | apply State.patchLost_keeps C | apply State.lineBad_keeps C | apply C.wr)
    | split

theorem State.mergeDone_keeps (C : Closed P) {s : State} (hs : P s) : P (State.mergeDone s) := by
  unfold State.mergeDone
  try dsimp only
  repeat' first
    | with_reducible assumption | intro _
    | with_reducible (first
      | exact rfl | apply State.mergeFeed_keeps C | apply State.mergeRun_keeps C)
    | split
    | with_reducible (first
      | refine of_pair (by assumption) ?_ | refine of_some (by assumption) ?_ | refine of_somePair (by assumption) ?_
      | apply keeps_fst | apply keeps_mk C)

theorem State.mergeDrain_keeps (C : Closed P) {s : State} (n0 : Nat) (hs : P s) : P (State.mergeDrain s n0) := by
  induction n0 generalizing s
  all_goals
  unfold State.mergeDrain
  try dsimp only
  repeat' first
    | with_reducible assumption | intro _
    | with_reducible (first
      | exact rfl | apply_assumption | apply State.mergeDone_keeps C | apply keeps_ite)

theorem State.fetchLine_keeps (C : Closed P) {s : State} (p : Nat) (src : Nat) (hs : P s) :
    (PairP P) (State.fetchLine s p src) := by
  unfold State.fetchLine
  try dsimp only
  repeat' first
    | with_reducible assumption | intro _
    | with_reducible (first
      | exact rfl | apply State.corrected_keeps C | apply State.lineBad_keeps C | apply pairP_mk)
    | split

theorem State.sramHard_keeps (C : Closed P) {s : State} (h : SramHit) (hs : P s) : P (State.sramHard s h) := by
  unfold State.sramHard
  try dsimp only
  repeat' first
    | with_reducible assumption | intro _
    | with_reducible (first
      | exact rfl | apply State.wrB_keeps C | apply State.detect_keeps C | apply C.wr | apply keeps_ite)
    | split
    | with_reducible (first
      | refine of_pair (by assumption) ?_ | refine of_some (by assumption) ?_ | refine of_somePair (by assumption) ?_
      | apply keeps_fst | apply keeps_mk C)

theorem State.sramFixed_keeps (C : Closed P) {s : State} (h : SramHit) (hs : P s) : P (State.sramFixed s h) := by
  unfold State.sramFixed
  try dsimp only
  repeat' first
    | with_reducible assumption | intro _
    | with_reducible (first
      | exact rfl | apply State.bump_keeps C | apply State.edcLog_keeps C | apply State.sramHard_keeps C
      | apply keeps_ite | apply keeps_iteP)
    | split
    | with_reducible (first
      | refine of_pair (by assumption) ?_ | refine of_some (by assumption) ?_ | refine of_somePair (by assumption) ?_
      | apply keeps_fst | apply keeps_mk C)

theorem State.sramBoundary_keeps (C : Closed P) {s : State} (hs : P s) : P (State.sramBoundary s) := by
  unfold State.sramBoundary
  try dsimp only
  repeat' first
    | with_reducible assumption | intro _
    | with_reducible (first
      | exact rfl | apply State.emit_keeps C | apply State.bump_keeps C | apply keeps_ite | apply keeps_each)
    | split
    | with_reducible (first
      | refine of_pair (by assumption) ?_ | refine of_some (by assumption) ?_ | refine of_somePair (by assumption) ?_
      | apply keeps_fst | apply keeps_mk C)

theorem State.cabUpd_keeps (C : Closed P) {s : State} (f : Cab → Cab) (hs : P s) : P (State.cabUpd s f) := by
  unfold State.cabUpd
  try dsimp only
  repeat' first
    | with_reducible assumption | intro _
    | with_reducible exact rfl
    | split
    | with_reducible (first
      | refine of_pair (by assumption) ?_ | refine of_some (by assumption) ?_ | refine of_somePair (by assumption) ?_
      | apply keeps_fst | apply keeps_mk C)

theorem State.setReel_keeps (C : Closed P) {s : State} (x : Reel) (hs : P s) : P (State.setReel s x) := by
  unfold State.setReel
  try dsimp only
  repeat' first
    | with_reducible assumption | intro _
    | with_reducible (first
      | exact rfl | apply State.cabUpd_keeps C)

theorem State.setTake_keeps (C : Closed P) {s : State} (x : Take) (hs : P s) : P (State.setTake s x) := by
  unfold State.setTake
  try dsimp only
  repeat' first
    | with_reducible assumption | intro _
    | with_reducible (first
      | exact rfl | apply State.cabUpd_keeps C)

theorem State.dropExt_keeps (C : Closed P) {s : State} (r : Reel) (q : Nat) (hs : P s) : P (State.dropExt s r q) := by
  unfold State.dropExt
  try dsimp only
  repeat' first
    | with_reducible assumption | intro _
    | with_reducible (first
      | exact rfl | apply State.setReel_keeps C | apply State.cabUpd_keeps C)
    | split
    | with_reducible (first
      | refine of_pair (by assumption) ?_ | refine of_some (by assumption) ?_ | refine of_somePair (by assumption) ?_
      | apply keeps_fst | apply keeps_mk C)

theorem State.reelFull_keeps (C : Closed P) {s : State} (n : Nat) (hs : P s) : P (State.reelFull s n) := by
  unfold State.reelFull
  try dsimp only
  repeat' first
    | with_reducible assumption | intro _
    | with_reducible (first
      | exact rfl | apply State.setReel_keeps C | apply State.emit_keeps C | apply keeps_ite)
    | split

theorem State.freeNext_keeps (C : Closed P) {s : State} (r : Reel) (hs : P s) : (OptP P) (State.freeNext s r) := by
  unfold State.freeNext
  try dsimp only
  repeat' first
    | with_reducible assumption | intro _
    | with_reducible (first
      | exact rfl | apply State.cabUpd_keeps C | apply State.dropExt_keeps C | apply keeps_ite | apply keeps_iteO
      | apply optP_none | apply optP_some)

theorem State.allocExt_keeps (C : Closed P) {s : State} (n : Nat) (prod : Nat) (tk : Nat) (hs : P s) :
    (OptP P) (State.allocExt s n prod tk) := by
  unfold State.allocExt
  try dsimp only
  repeat' first
    | with_reducible assumption | intro _
    | with_reducible (first
      | exact rfl | apply State.freeNext_keeps C | apply State.setReel_keeps C | apply State.cabUpd_keeps C
      | apply State.reelFull_keeps C | apply keeps_ite | apply keeps_iteO | apply optP_none | apply optP_some
      | apply optP_mapS | apply optP_mapP | apply optP_map | apply keeps_getD)
    | split
    | with_reducible (first
      | refine of_pair (by assumption) ?_ | refine of_some (by assumption) ?_)

theorem State.setSlot_keeps (C : Closed P) {s : State} (x : Slot) (hs : P s) : P (State.setSlot s x) := by
  unfold State.setSlot
  try dsimp only
  repeat' first
    | with_reducible assumption | intro _
    | with_reducible (first
      | exact rfl | apply State.cabUpd_keeps C)

theorem State.closeExt_keeps (C : Closed P) {s : State} (n : Nat) (prod : Nat) (hs : P s) :
    P (State.closeExt s n prod) := by
  unfold State.closeExt
  try dsimp only
  repeat' first
    | with_reducible assumption | intro _
    | with_reducible (first
      | exact rfl | apply State.setReel_keeps C | apply State.setSlot_keeps C)
    | split

theorem State.readyExt_keeps (C : Closed P) {s : State} (n : Nat) (prod : Nat) (tk : Nat) (start : Bool) (hs : P s) :
    (OptP P) (State.readyExt s n prod tk start) := by
  unfold State.readyExt
  try dsimp only
  repeat' first
    | with_reducible assumption | intro _
    | with_reducible (first
      | exact rfl | apply State.closeExt_keeps C | apply State.allocExt_keeps C | apply keeps_ite | apply keeps_iteO
      | apply optP_none | apply optP_some)
    | split

theorem State.refreshHeader_keeps (C : Closed P) {s : State} (n : Nat) (q : Nat) (hs : P s) :
    P (State.refreshHeader s n q) := by
  unfold State.refreshHeader
  try dsimp only
  repeat' first
    | with_reducible assumption | intro _
    | with_reducible (first
      | exact rfl | apply State.mergePush_keeps C | apply keeps_ite | apply keeps_iteP)
    | split

theorem State.cabPut_keeps (C : Closed P) {s : State} (n : Nat) (prod : Nat) (pid : PktId) (start : Bool) (bytes : List Nat) (hs : P s) :
    OptP (PairP P) (State.cabPut s n prod pid start bytes) := by
  unfold State.cabPut
  try dsimp only
  repeat' first
    | with_reducible assumption | intro _
    | with_reducible (first
      | exact rfl | apply State.readyExt_keeps C | apply State.setReel_keeps C | apply State.setSlot_keeps C
      | apply State.refreshHeader_keeps C | apply State.cabUpd_keeps C | apply keeps_ite | apply keeps_iteO
      | apply keeps_iteP | apply optP_none | apply optP_some | apply pairP_mk)
    | split
    | with_reducible (first
      | refine of_pair (by assumption) ?_ | refine of_some (by assumption) ?_)

theorem State.groupWrite_keeps (C : Closed P) {s : State} (prod : Nat) (n : Nat) (hs : P s) :
    P (State.groupWrite s prod n) := by
  unfold State.groupWrite
  try dsimp only
  repeat' first
    | with_reducible assumption | intro _
    | with_reducible (first
      | exact rfl | apply State.cabUpd_keeps C | apply State.writeLine_keeps C | apply State.poisonLine_keeps C
      | apply State.setReel_keeps C | apply C.wr | apply keeps_ite | apply keeps_iteP | apply keeps_each)
    | split

theorem State.pktLen_keeps (C : Closed P) {s : State} (pid : PktId) (prod : Nat) (len : Nat) (hs : P s) :
    P (State.pktLen s pid prod len) := by
  unfold State.pktLen
  try dsimp only
  repeat' first
    | with_reducible assumption | intro _
    | with_reducible (first
      | exact rfl | apply State.cabUpd_keeps C)

theorem State.patchPush_keeps (C : Closed P) {s : State} (pid : PktId) (r : Reel) (q : Nat) (y : Nat) (val : Nat) (hs : P s) :
    (OptP P) (State.patchPush s pid r q y val) := by
  unfold State.patchPush
  try dsimp only
  repeat' first
    | with_reducible assumption | intro _
    | with_reducible (first
      | exact rfl | apply State.mergePush_keeps C | apply keeps_ite | apply keeps_iteO | apply keeps_iteP
      | apply optP_none | apply optP_some)

theorem State.patchIn_keeps (C : Closed P) {s : State} (pid : PktId) (prod : Nat) (val : Nat) (hs : P s) :
    (OptP P) (State.patchIn s pid prod val) := by
  unfold State.patchIn
  try dsimp only
  repeat' first
    | with_reducible assumption | intro _
    | with_reducible (first
      | exact rfl | apply State.setSlot_keeps C | apply State.patchPush_keeps C | apply keeps_ite | apply keeps_iteO
      | apply optP_none | apply optP_some)
    | split

theorem State.readExtLine_keeps (C : Closed P) {s : State} (r : Reel) (prod : Nat) (q : Nat) (y : Nat) (hs : P s) :
    (PairP P) (State.readExtLine s r prod q y) := by
  unfold State.readExtLine
  try dsimp only
  repeat' first
    | with_reducible assumption | intro _
    | with_reducible (first
      | exact rfl | apply State.fetchLine_keeps C | apply keeps_ite | apply keeps_iteP | apply pairP_mk)
    | split
    | with_reducible (first
      | refine of_pair (by assumption) ?_ | refine of_some (by assumption) ?_ | refine of_somePair (by assumption) ?_
      | apply keeps_fst)

theorem State.readExtLines_keeps (C : Closed P) {s : State} (r : Reel) (prod : Nat) (q : Nat) (n0 : List Nat) (hs : P s) :
    (PairP P) (State.readExtLines s r prod q n0) := by
  induction n0 generalizing s r prod q
  all_goals
  unfold State.readExtLines
  try dsimp only
  repeat' first
    | with_reducible assumption | intro _
    | with_reducible (first
      | exact rfl | apply_assumption | apply State.readExtLine_keeps C | apply pairP_mk)
    | split
    | with_reducible refine of_pair (by assumption) ?_

theorem State.readSpan_keeps (C : Closed P) {s : State} (r : Reel) (prod : Nat) (q : Nat) (off : Nat) (n : Nat) (hs : P s) :
    (PairP P) (State.readSpan s r prod q off n) := by
  unfold State.readSpan
  try dsimp only
  repeat' first
    | with_reducible assumption | intro _
    | with_reducible (first
      | exact rfl | apply State.readExtLines_keeps C | apply pairP_mk)
    | split
    | with_reducible refine of_pair (by assumption) ?_

theorem State.readPkt_keeps (C : Closed P) {s : State} (p : PktRef) (hs : P s) : (PairP P) (State.readPkt s p) := by
  unfold State.readPkt
  try dsimp only
  repeat' first
    | with_reducible assumption | intro _
    | with_reducible (first
      | exact rfl | apply State.readExtLines_keeps C | apply State.readSpan_keeps C | apply keeps_ite
      | apply keeps_iteP | apply pairP_mk)
    | split
    | with_reducible refine of_pair (by assumption) ?_

theorem State.resyncGo_keeps (C : Closed P) {s : State} (r : Reel) (prod : Nat) (n0 : List Ext) (hs : P s) :
    (PairP P) (State.resyncGo s r prod n0) := by
  induction n0 generalizing s r prod
  all_goals
  unfold State.resyncGo
  try dsimp only
  repeat' first
    | with_reducible assumption | intro _
    | with_reducible (first
      | exact rfl | apply_assumption | apply State.readExtLine_keeps C | apply keeps_ite | apply keeps_iteP
      | apply pairP_mk)
    | split
    | with_reducible (first
      | refine of_pair (by assumption) ?_ | refine of_some (by assumption) ?_ | refine of_somePair (by assumption) ?_
      | apply keeps_fst)

theorem State.resync_keeps (C : Closed P) {s : State} (p : PktRef) (hs : P s) : (PairP P) (State.resync s p) := by
  unfold State.resync
  try dsimp only
  repeat' first
    | with_reducible assumption | intro _
    | with_reducible (first
      | exact rfl | apply State.resyncGo_keeps C | apply pairP_mk)
    | split
    | with_reducible (first
      | refine of_pair (by assumption) ?_ | refine of_some (by assumption) ?_ | refine of_somePair (by assumption) ?_
      | apply keeps_fst)

theorem State.lostLen_keeps (C : Closed P) {s : State} (p : PktRef) (hs : P s) : (PairP P) (State.lostLen s p) := by
  unfold State.lostLen
  try dsimp only
  repeat' first
    | with_reducible assumption | intro _
    | with_reducible (first
      | exact rfl | apply State.resync_keeps C | apply keeps_foldl_pair | apply keeps_foldl | apply pairP_mk
      | apply keeps_elim)
    | split
    | with_reducible (first
      | refine of_pair (by assumption) ?_ | refine of_some (by assumption) ?_ | refine of_somePair (by assumption) ?_
      | apply keeps_fst)

theorem State.deliverPkt_keeps (C : Closed P) {s : State} (p : PktRef) (tk : Option Nat) (hs : P s) :
    (PairP P) (State.deliverPkt s p tk) := by
  unfold State.deliverPkt
  try dsimp only
  repeat' first
    | with_reducible assumption | intro _
    | with_reducible (first
      | exact rfl | apply State.readPkt_keeps C | apply State.lostLen_keeps C | apply pairP_mk)
    | split
    | with_reducible (first
      | refine of_pair (by assumption) ?_ | refine of_some (by assumption) ?_ | refine of_somePair (by assumption) ?_
      | apply keeps_fst)

theorem State.cmdRes_keeps (C : Closed P) {s : State} (c : Nat) (hs : P s) : P (State.cmdRes s c) := by
  unfold State.cmdRes
  try dsimp only
  repeat' first
    | with_reducible assumption | intro _
    | with_reducible (first
      | exact rfl | apply State.wrB_keeps C | apply C.wr | apply keeps_ite)

theorem State.cabCmd_keeps (_ : Closed P) {s : State} {f : State → State} (hs : P s) (hf : ∀ a, P a → P (f a)) :
    P (State.cabCmd s f) := by
  unfold State.cabCmd
  try dsimp only
  repeat' first
    | with_reducible assumption | intro _
    | with_reducible (first
      | exact rfl | apply hf | apply keeps_ite)

theorem State.shelfDef_keeps (C : Closed P) {s : State} (hs : P s) : P (State.shelfDef s) := by
  unfold State.shelfDef
  try dsimp only
  repeat' first
    | with_reducible assumption | intro _
    | with_reducible (first
      | exact rfl | apply State.cmdRes_keeps C | apply State.cabUpd_keeps C | apply keeps_ite)

theorem State.shelfDel_keeps (C : Closed P) {s : State} (hs : P s) : P (State.shelfDel s) := by
  unfold State.shelfDel
  try dsimp only
  repeat' first
    | with_reducible assumption | intro _
    | with_reducible (first
      | exact rfl | apply State.cmdRes_keeps C | apply State.cabUpd_keeps C | apply keeps_ite)

theorem State.reelDef_keeps (C : Closed P) {s : State} (hs : P s) : P (State.reelDef s) := by
  unfold State.reelDef
  try dsimp only
  repeat' first
    | with_reducible assumption | intro _
    | with_reducible (first
      | exact rfl | apply State.cmdRes_keeps C | apply State.cabUpd_keeps C | apply keeps_ite)
    | split

theorem State.forgetPkts_keeps (C : Closed P) {s : State} (gone : PktRef → Bool) (hs : P s) :
    P (State.forgetPkts s gone) := by
  unfold State.forgetPkts
  try dsimp only
  repeat' first
    | with_reducible assumption | intro _
    | with_reducible (first
      | exact rfl | apply State.cabUpd_keeps C)
    | split
    | with_reducible (first
      | refine of_pair (by assumption) ?_ | refine of_some (by assumption) ?_ | refine of_somePair (by assumption) ?_
      | apply keeps_fst | apply keeps_mk C)

theorem State.wipeReel_keeps (C : Closed P) {s : State} (n : Nat) (hs : P s) : P (State.wipeReel s n) := by
  unfold State.wipeReel
  try dsimp only
  repeat' first
    | with_reducible assumption | intro _
    | with_reducible (first
      | exact rfl | apply State.forgetPkts_keeps C | apply State.cabUpd_keeps C | apply keeps_elim)
    | split
    | with_reducible (first
      | refine of_pair (by assumption) ?_ | refine of_some (by assumption) ?_ | refine of_somePair (by assumption) ?_
      | apply keeps_fst | apply keeps_mk C)

theorem State.reelDel_keeps (C : Closed P) {s : State} (hs : P s) : P (State.reelDel s) := by
  unfold State.reelDel
  try dsimp only
  repeat' first
    | with_reducible assumption | intro _
    | with_reducible (first
      | exact rfl | apply State.cmdRes_keeps C | apply State.wipeReel_keeps C | apply State.cabUpd_keeps C
      | apply keeps_ite)

theorem State.reelClear_keeps (C : Closed P) {s : State} (hs : P s) : P (State.reelClear s) := by
  unfold State.reelClear
  try dsimp only
  repeat' first
    | with_reducible assumption | intro _
    | with_reducible (first
      | exact rfl | apply State.cmdRes_keeps C | apply State.wipeReel_keeps C | apply State.setReel_keeps C
      | apply keeps_ite)
    | split

theorem State.takeStart_keeps (C : Closed P) {s : State} (at_ : Nat → Int) (hs : P s) : P (State.takeStart s at_) := by
  unfold State.takeStart
  try dsimp only
  repeat' first
    | with_reducible assumption | intro _
    | with_reducible (first
      | exact rfl | apply State.cmdRes_keeps C | apply State.cabUpd_keeps C | apply State.wrB_keeps C | apply C.wr
      | apply keeps_ite)

theorem State.takeStop_keeps (C : Closed P) {s : State} (at_ : Nat → Int) (hs : P s) : P (State.takeStop s at_) := by
  unfold State.takeStop
  try dsimp only
  repeat' first
    | with_reducible assumption | intro _
    | with_reducible (first
      | exact rfl | apply State.cmdRes_keeps C | apply State.cabUpd_keeps C | apply State.wrB_keeps C | apply C.wr
      | apply keeps_ite)
    | split

theorem State.takeBoundary_keeps (C : Closed P) {s : State} (k : Nat) (hs : P s) : P (State.takeBoundary s k) := by
  unfold State.takeBoundary
  try dsimp only
  repeat' first
    | with_reducible assumption | intro _
    | with_reducible (first
      | exact rfl | apply State.cabUpd_keeps C | apply State.wrB_keeps C | apply State.cmdRes_keeps C
      | apply State.setTake_keeps C | apply State.reelFull_keeps C | apply C.wr | apply keeps_ite | apply keeps_each)
    | split

theorem State.takeRelease_keeps (C : Closed P) {s : State} (hs : P s) : P (State.takeRelease s) := by
  unfold State.takeRelease
  try dsimp only
  repeat' first
    | with_reducible assumption | intro _
    | with_reducible (first
      | exact rfl | apply State.cmdRes_keeps C | apply State.setTake_keeps C | apply State.reelFull_keeps C
      | apply keeps_ite)
    | split

theorem State.takeDelete_keeps (C : Closed P) {s : State} (hs : P s) : P (State.takeDelete s) := by
  unfold State.takeDelete
  try dsimp only
  repeat' first
    | with_reducible assumption | intro _
    | with_reducible (first
      | exact rfl | apply State.cmdRes_keeps C | apply State.cabUpd_keeps C | apply State.reelFull_keeps C
      | apply State.forgetPkts_keeps C | apply State.setReel_keeps C | apply keeps_ite | apply keeps_getD)
    | split

theorem State.dirRead_keeps (C : Closed P) {s : State} (hs : P s) : P (State.dirRead s) := by
  unfold State.dirRead
  try dsimp only
  repeat' first
    | with_reducible assumption | intro _
    | with_reducible (first
      | exact rfl | apply State.cmdRes_keeps C | apply C.wr)
    | split

theorem State.scrubPlan_keeps (C : Closed P) {s : State} (hs : P s) : P (State.scrubPlan s) := by
  unfold State.scrubPlan
  try dsimp only
  repeat' first
    | with_reducible assumption | intro _
    | with_reducible (first
      | exact rfl | apply State.cabUpd_keeps C | apply C.wr)

theorem State.scrubTick_keeps (C : Closed P) {s : State} (hs : P s) : P (State.scrubTick s) := by
  unfold State.scrubTick
  try dsimp only
  repeat' first
    | with_reducible assumption | intro _
    | with_reducible (first
      | exact rfl | apply State.cabUpd_keeps C)

theorem State.scrubLine_keeps (C : Closed P) {s : State} (h : Shelf) (g0 : Nat) (i : Nat) (hs : P s) :
    P (State.scrubLine s h g0 i) := by
  unfold State.scrubLine
  try dsimp only
  repeat' first
    | with_reducible assumption | intro _
    | with_reducible (first
      | exact rfl | apply State.lineFixed_keeps C | apply State.mergePush_keeps C | apply State.lineBad_keeps C)
    | split

theorem State.sysLost_keeps (C : Closed P) {s : State} (m : Nat) (hs : P s) : P (State.sysLost s m) := by
  unfold State.sysLost
  try dsimp only
  repeat' first
    | with_reducible assumption | intro _
    | with_reducible (first
      | exact rfl | apply State.cabUpd_keeps C | apply State.wrB_keeps C | apply State.detect_keeps C)

theorem State.scrubSysLine_keeps (C : Closed P) {s : State} (n : Nat) (i : Nat) (hs : P s) :
    P (State.scrubSysLine s n i) := by
  unfold State.scrubSysLine
  try dsimp only
  repeat' first
    | with_reducible assumption | intro _
    | with_reducible (first
      | exact rfl | apply State.lineFixed_keeps C | apply State.mergePush_keeps C | apply State.bump_keeps C
      | apply State.edcLog_keeps C | apply State.sysLost_keeps C | apply State.emit_keeps C)
    | split

theorem State.groupErrs_keeps (C : Closed P) {s : State} (g0 : Nat) (errs : List (Nat × Nat)) (hs : P s) :
    P (State.groupErrs s g0 errs) := by
  unfold State.groupErrs
  try dsimp only
  repeat' first
    | with_reducible assumption | intro _
    | with_reducible (first
      | exact rfl | apply State.flip_keeps C)

theorem State.scrubRead_keeps (C : Closed P) {s : State} (errs : List (Nat × Nat)) (both : Bool) (hs : P s) :
    (PairP P) (State.scrubRead s errs both) := by
  unfold State.scrubRead
  try dsimp only
  repeat' first
    | with_reducible assumption | intro _
    | with_reducible (first
      | exact rfl | apply State.groupErrs_keeps C | apply State.scrubSysLine_keeps C | apply State.cabUpd_keeps C
      | apply State.scrubLine_keeps C | apply keeps_ite | apply keeps_iteP | apply keeps_each | apply keeps_when
      | apply pairP_mk)
    | split

theorem State.scrubGroup_keeps (C : Closed P) {s : State} (errs : List (Nat × Nat)) (both : Bool) (hs : P s) :
    P (State.scrubGroup s errs both) := by
  unfold State.scrubGroup
  try dsimp only
  repeat' first
    | with_reducible assumption | intro _
    | with_reducible (first
      | exact rfl | apply State.cabUpd_keeps C | apply State.scrubPlan_keeps C | apply State.scrubRead_keeps C
      | apply State.wrB_keeps C | apply State.bump_keeps C | apply C.wr | apply keeps_ite | apply keeps_iteP)
    | split
    | with_reducible (first
      | refine of_pair (by assumption) ?_ | refine of_some (by assumption) ?_ | refine of_somePair (by assumption) ?_
      | apply keeps_fst)

theorem State.repairRun_keeps (C : Closed P) {s : State} (hs : P s) : P (State.repairRun s) := by
  unfold State.repairRun
  try dsimp only
  repeat' first
    | with_reducible assumption | intro _
    | with_reducible (first
      | exact rfl | apply State.wrB_keeps C | apply C.wr | apply keeps_ite)

theorem State.spanBack_keeps (C : Closed P) {s : State} (e : Nat × Nat × Nat) (hs : P s) : P (State.spanBack s e) := by
  unfold State.spanBack
  try dsimp only
  repeat' first
    | with_reducible assumption | intro _
    | with_reducible (first
      | exact rfl | apply State.mergeDrain_keeps C | apply State.mergePush_keeps C | apply State.bump_keeps C
      | apply State.poolRegs_keeps C | apply State.emit_keeps C | apply keeps_ite | apply keeps_iteP
      | apply keeps_each)
    | split
    | with_reducible (first
      | refine of_pair (by assumption) ?_ | refine of_some (by assumption) ?_ | refine of_somePair (by assumption) ?_
      | apply keeps_fst | apply keeps_mk C)

theorem State.repairDone_keeps (C : Closed P) {s : State} (ok : List Bool) (hs : P s) : P (State.repairDone s ok) := by
  unfold State.repairDone
  try dsimp only
  repeat' first
    | with_reducible assumption | intro _
    | with_reducible (first
      | exact rfl | apply State.spanBack_keeps C | apply State.wrB_keeps C | apply C.wr | apply keeps_ite
      | apply keeps_iteP | apply keeps_each)

theorem State.cabStandby_keeps (C : Closed P) {s : State} (hs : P s) : P (State.cabStandby s) := by
  unfold State.cabStandby
  try dsimp only
  repeat' first
    | with_reducible assumption | intro _
    | with_reducible (first
      | exact rfl | apply State.setReel_keeps C | apply State.setSlot_keeps C | apply State.groupWrite_keeps C
      | apply State.mergeDrain_keeps C | apply keeps_each)
    | split

theorem State.setQp_keeps (C : Closed P) {s : State} (q : Fin 8) (x : Qp) (hs : P s) : P (State.setQp s q x) := by
  unfold State.setQp
  try dsimp only
  repeat' first
    | with_reducible assumption | intro _
    | with_reducible exact rfl
    | split
    | with_reducible (first
      | refine of_pair (by assumption) ?_ | refine of_some (by assumption) ?_ | refine of_somePair (by assumption) ?_
      | apply keeps_fst | apply keeps_mk C)

theorem State.produce_keeps (C : Closed P) {s : State} (q : Fin 8) (units : Nat) (isEntry : Bool) (hs : P s) :
    P (State.produce s q units isEntry) := by
  unfold State.produce
  try dsimp only
  repeat' first
    | with_reducible assumption | intro _
    | with_reducible (first
      | exact rfl | apply State.setQp_keeps C | apply C.wr)

theorem State.queueDraft_keeps (C : Closed P) {s : State} (q : Fin 8) (d : Draft) (hs : P s) :
    P (State.queueDraft s q d) := by
  unfold State.queueDraft
  try dsimp only
  repeat' first
    | with_reducible assumption | intro _
    | with_reducible (first
      | exact rfl | apply State.setQp_keeps C | apply C.wr | apply keeps_ite)

theorem State.addEntry_keeps (C : Closed P) {s : State} (q : Fin 8) (d : Draft) (ty : Nat) (flags : Nat) (payload : List Nat) (e : REnt) (hs : P s) :
    OptP (PairP P) (State.addEntry s q d ty flags payload e) := by
  unfold State.addEntry
  try dsimp only
  repeat' first
    | with_reducible assumption | intro _
    | with_reducible (first
      | exact rfl | apply State.produce_keeps C | apply keeps_ite | apply keeps_iteO | apply keeps_iteP
      | apply optP_none | apply optP_some | apply pairP_mk)

theorem State.addPad_keeps (C : Closed P) {s : State} (q : Fin 8) (d : Draft) (hs : P s) :
    (PairP P) (State.addPad s q d) := by
  unfold State.addPad
  try dsimp only
  repeat' first
    | with_reducible assumption | intro _
    | with_reducible (first
      | exact rfl | apply State.produce_keeps C | apply pairP_mk)

theorem State.padRing_keeps (C : Closed P) {s : State} (q : Fin 8) (pad : Nat) (hs : P s) :
    P (State.padRing s q pad) := by
  unfold State.padRing
  try dsimp only
  repeat' first
    | with_reducible assumption | intro _
    | with_reducible (first
      | exact rfl | apply State.addPad_keeps C | apply State.queueDraft_keeps C | apply keeps_ite | apply keeps_iteP)
    | split
    | with_reducible (first
      | refine of_pair (by assumption) ?_ | refine of_some (by assumption) ?_ | refine of_somePair (by assumption) ?_
      | apply keeps_fst)

theorem State.dailyPut_keeps (C : Closed P) {s : State} (q : Fin 8) (payload : List Nat) (hs : P s) :
    P (State.dailyPut s q payload) := by
  unfold State.dailyPut
  try dsimp only
  repeat' first
    | with_reducible assumption | intro _
    | with_reducible (first
      | exact rfl | apply State.bump_keeps C | apply State.padRing_keeps C | apply State.addEntry_keeps C
      | apply State.queueDraft_keeps C | apply keeps_ite)
    | split
    | with_reducible (first
      | refine of_pair (by assumption) ?_ | refine of_some (by assumption) ?_ | refine of_somePair (by assumption) ?_)

theorem State.dailyFrame_keeps (C : Closed P) {s : State} (r : Fin 16) (src : Nat) (tick : Nat) (epoch : Nat) (px : Sp) (hs : P s) :
    P (State.dailyFrame s r src tick epoch px) := by
  unfold State.dailyFrame
  try dsimp only
  repeat' first
    | with_reducible assumption | intro _
    | with_reducible (first
      | exact rfl | apply State.bump_keeps C | apply State.dailyPut_keeps C | apply keeps_ite)
    | split

theorem State.daily_keeps (C : Closed P) {s : State} (r : Fin 16) (src : Nat) (tick : Nat) (epoch : Nat) (px : Sp) (hs : P s) :
    P (State.daily s r src tick epoch px) := by
  unfold State.daily
  try dsimp only
  repeat' first
    | with_reducible assumption | intro _
    | with_reducible (first
      | exact rfl | apply State.dailyFrame_keeps C | apply keeps_ite)
    | split
    | with_reducible (first
      | refine of_pair (by assumption) ?_ | refine of_some (by assumption) ?_ | refine of_somePair (by assumption) ?_
      | apply keeps_fst | apply keeps_mk C)

theorem State.queUpd_keeps (C : Closed P) {s : State} (f : Que → Que) (hs : P s) : P (State.queUpd s f) := by
  unfold State.queUpd
  try dsimp only
  repeat' first
    | with_reducible assumption | intro _
    | with_reducible exact rfl
    | split
    | with_reducible (first
      | refine of_pair (by assumption) ?_ | refine of_some (by assumption) ?_ | refine of_somePair (by assumption) ?_
      | apply keeps_fst | apply keeps_mk C)

theorem State.setItem_keeps (C : Closed P) {s : State} (x : QItem) (hs : P s) : P (State.setItem s x) := by
  unfold State.setItem
  try dsimp only
  repeat' first
    | with_reducible assumption | intro _
    | with_reducible (first
      | exact rfl | apply State.queUpd_keeps C)

theorem State.queRegs_keeps (C : Closed P) {s : State} (hs : P s) : P (State.queRegs s) := by
  unfold State.queRegs
  try dsimp only
  repeat' first
    | with_reducible assumption | intro _
    | with_reducible (first
      | exact rfl | apply State.wrB_keeps C | apply C.wr)

theorem State.useArea_keeps (C : Closed P) {s : State} (src : Fin 21) (c : Nat) (own : Int) (shared : Int) (hs : P s) :
    P (State.useArea s src c own shared) := by
  unfold State.useArea
  try dsimp only
  repeat' first
    | with_reducible assumption | intro _
    | with_reducible (first
      | exact rfl | apply State.queUpd_keeps C | apply State.queRegs_keeps C)

theorem State.ethRelease_keeps (C : Closed P) {s : State} (x : QItem) (hs : P s) : P (State.ethRelease s x) := by
  unfold State.ethRelease
  try dsimp only
  repeat' first
    | with_reducible assumption | intro _
    | with_reducible (first
      | exact rfl | apply State.bump_keeps C | apply State.setQp_keeps C | apply State.emit_keeps C | apply keeps_ite)
    | split

theorem State.holdItem_keeps (C : Closed P) {s : State} (x : QItem) (hs : P s) : P (State.holdItem s x) := by
  unfold State.holdItem
  try dsimp only
  repeat' first
    | with_reducible assumption | intro _
    | with_reducible (first
      | exact rfl | apply State.setItem_keeps C | apply State.queUpd_keeps C | apply State.ethRelease_keeps C
      | apply State.bump_keeps C | apply keeps_ite | apply keeps_when)

theorem State.holdLimit_keeps (C : Closed P) {s : State} (i : Nat) (hs : P s) : P (State.holdLimit s i) := by
  unfold State.holdLimit
  try dsimp only
  repeat' first
    | with_reducible assumption | intro _
    | with_reducible (first
      | exact rfl | apply State.holdItem_keeps C | apply keeps_ite)
    | split

theorem State.holdMark_keeps (C : Closed P) {s : State} (hs : P s) : P (State.holdMark s) := by
  unfold State.holdMark
  try dsimp only
  repeat' first
    | with_reducible assumption | intro _
    | with_reducible (first
      | exact rfl | apply State.holdItem_keeps C | apply keeps_ite | apply keeps_each)

theorem State.grantMore_keeps (C : Closed P) {s : State} (x : QItem) (hs : P s) : (OptP P) (State.grantMore s x) := by
  unfold State.grantMore
  try dsimp only
  repeat' first
    | with_reducible assumption | intro _
    | with_reducible (first
      | exact rfl | apply State.setItem_keeps C | apply State.useArea_keeps C | apply State.holdMark_keeps C
      | apply optP_none | apply optP_some | apply optP_mapS | apply optP_mapP | apply optP_map)

theorem State.grantUpTo_keeps (C : Closed P) {s : State} (i : Nat) (n : Nat) (hs : P s) :
    P (State.grantUpTo s i n) := by
  unfold State.grantUpTo
  try dsimp only
  repeat' first
    | with_reducible assumption | intro _
    | with_reducible (first
      | exact rfl | apply State.grantMore_keeps C | apply keeps_foldl_pair | apply keeps_ite | apply keeps_foldl
      | apply pairP_mk | apply keeps_getD)
    | split

theorem State.freeWords_keeps (C : Closed P) {s : State} (x : QItem) (hs : P s) : P (State.freeWords s x) := by
  unfold State.freeWords
  try dsimp only
  repeat' first
    | with_reducible assumption | intro _
    | with_reducible (first
      | exact rfl | apply State.queUpd_keeps C | apply State.setItem_keeps C | apply State.useArea_keeps C
      | apply keeps_foldl_pair | apply keeps_ite)

theorem State.sweep_keeps (C : Closed P) {s : State} (hs : P s) : P (State.sweep s) := by
  unfold State.sweep
  try dsimp only
  repeat' first
    | with_reducible assumption | intro _
    | with_reducible (first
      | exact rfl | apply State.freeWords_keeps C | apply State.queUpd_keeps C | apply State.useArea_keeps C
      | apply keeps_each)

theorem State.gapEnd_keeps (C : Closed P) {s : State} (r : Reel) (p : Nat) (hs : P s) : P (State.gapEnd s r p) := by
  unfold State.gapEnd
  try dsimp only
  repeat' first
    | with_reducible assumption | intro _
    | with_reducible (first
      | exact rfl | apply State.setReel_keeps C | apply State.cabUpd_keeps C)
    | split

theorem State.gapNote_keeps (C : Closed P) {s : State} (n : Nat) (p : Nat) (k : Nat) (hs : P s) :
    P (State.gapNote s n p k) := by
  unfold State.gapNote
  try dsimp only
  repeat' first
    | with_reducible assumption | intro _
    | with_reducible (first
      | exact rfl | apply State.gapEnd_keeps C | apply State.setReel_keeps C | apply keeps_ite | apply keeps_iteP
      | apply keeps_getD)
    | split

theorem State.reelDisc_keeps (C : Closed P) {s : State} (r : Nat) (n : Nat) (hs : P s) : P (State.reelDisc s r n) := by
  unfold State.reelDisc
  try dsimp only
  repeat' first
    | with_reducible assumption | intro _
    | with_reducible (first
      | exact rfl | apply State.setReel_keeps C)
    | split

theorem State.discardItem_keeps (C : Closed P) {s : State} (x : QItem) (hs : P s) : P (State.discardItem s x) := by
  unfold State.discardItem
  try dsimp only
  repeat' first
    | with_reducible assumption | intro _
    | with_reducible (first
      | exact rfl | apply State.setItem_keeps C | apply State.cabUpd_keeps C | apply State.reelDisc_keeps C
      | apply State.gapNote_keeps C | apply State.bump_keeps C | apply keeps_ite)
    | split
    | with_reducible (first
      | refine of_pair (by assumption) ?_ | refine of_some (by assumption) ?_ | refine of_somePair (by assumption) ?_
      | apply keeps_fst | apply keeps_mk C)

theorem State.slotBad_keeps (C : Closed P) {s : State} (prod : Nat) (reel : Nat) (k : Nat) (hs : P s) :
    P (State.slotBad s prod reel k) := by
  unfold State.slotBad
  try dsimp only
  repeat' first
    | with_reducible assumption | intro _
    | with_reducible (first
      | exact rfl | apply State.setSlot_keeps C)
    | split

theorem State.wholeTaken_keeps (C : Closed P) {s : State} (i : Nat) (hs : P s) : P (State.wholeTaken s i) := by
  unfold State.wholeTaken
  try dsimp only
  repeat' first
    | with_reducible assumption | intro _
    | with_reducible (first
      | exact rfl | apply State.setItem_keeps C | apply State.pktLen_keeps C | apply keeps_ite)
    | split

theorem State.turnOver_keeps (C : Closed P) {s : State} (x : QItem) (w : FWord) (k : Nat) (hs : P s) :
    P (State.turnOver s x w k) := by
  unfold State.turnOver
  try dsimp only
  repeat' first
    | with_reducible assumption | intro _
    | with_reducible (first
      | exact rfl | apply State.queUpd_keeps C | apply keeps_ite)

theorem State.takeBytes_keeps (C : Closed P) {s : State} (x : QItem) (w : FWord) (hs : P s) :
    (OptP P) (State.takeBytes s x w) := by
  unfold State.takeBytes
  try dsimp only
  repeat' first
    | with_reducible assumption | intro _
    | with_reducible (first
      | exact rfl | apply State.setItem_keeps C | apply State.cabPut_keeps C | apply State.reelFull_keeps C
      | apply State.discardItem_keeps C | apply State.gapEnd_keeps C | apply State.slotBad_keeps C
      | apply State.turnOver_keeps C | apply State.wholeTaken_keeps C | apply keeps_ite | apply keeps_iteO
      | apply keeps_when | apply optP_none | apply optP_some)
    | split
    | with_reducible (first
      | refine of_pair (by assumption) ?_ | refine of_some (by assumption) ?_ | refine of_somePair (by assumption) ?_)

theorem State.takeWord_keeps (C : Closed P) {s : State} (x : QItem) (hs : P s) : (OptP P) (State.takeWord s x) := by
  unfold State.takeWord
  try dsimp only
  repeat' first
    | with_reducible assumption | intro _
    | with_reducible (first
      | exact rfl | apply State.takeBytes_keeps C | apply State.wholeTaken_keeps C | apply keeps_ite
      | apply keeps_iteO | apply optP_none | apply optP_some)
    | split

theorem State.pullOne_keeps (C : Closed P) {s : State} (hs : P s) : (OptP P) (State.pullOne s) := by
  unfold State.pullOne
  try dsimp only
  repeat' first
    | with_reducible assumption | intro _
    | with_reducible (first
      | exact rfl | apply State.takeWord_keeps C | apply optP_none | apply optP_some | apply optP_find)

theorem State.pullN_keeps (C : Closed P) {s : State} (n0 : Nat) (hs : P s) : P (State.pullN s n0) := by
  induction n0 generalizing s
  all_goals
  unfold State.pullN
  try dsimp only
  repeat' first
    | with_reducible assumption | intro _
    | with_reducible (first
      | exact rfl | apply_assumption | apply State.pullOne_keeps C)
    | split
    | with_reducible (first
      | refine of_pair (by assumption) ?_ | refine of_some (by assumption) ?_)

theorem State.cabPull_keeps (C : Closed P) {s : State} (hs : P s) : P (State.cabPull s) := by
  unfold State.cabPull
  try dsimp only
  repeat' first
    | with_reducible assumption | intro _
    | with_reducible (first
      | exact rfl | apply State.pullN_keeps C | apply State.sweep_keeps C)

theorem State.addItem_keeps (C : Closed P) {s : State} (x : QItem) (hs : P s) : P (State.addItem s x) := by
  unfold State.addItem
  try dsimp only
  repeat' first
    | with_reducible assumption | intro _
    | with_reducible (first
      | exact rfl | apply State.queUpd_keeps C)

theorem State.layItem_keeps (C : Closed P) {s : State} (x : QItem) (b : List Nat) (hs : P s) :
    P (State.layItem s x b) := by
  unfold State.layItem
  try dsimp only
  repeat' first
    | with_reducible assumption | intro _
    | with_reducible (first
      | exact rfl | apply State.setItem_keeps C | apply State.reelDisc_keeps C | apply keeps_when)

theorem State.shutItem_keeps (C : Closed P) {s : State} (i : Nat) (hs : P s) : P (State.shutItem s i) := by
  unfold State.shutItem
  try dsimp only
  repeat' first
    | with_reducible assumption | intro _
    | with_reducible (first
      | exact rfl | apply State.setItem_keeps C | apply State.queUpd_keeps C | apply State.useArea_keeps C)
    | split

theorem State.openItem_keeps (C : Closed P) {s : State} (src : Nat) (cls : Nat) (pid : PktId) (prod : Nat) (reel : Nat) (up : Bool) (eth : Bool) (head : List Nat) (hs : P s) :
    OptP (PairP P) (State.openItem s src cls pid prod reel up eth head) := by
  unfold State.openItem
  try dsimp only
  repeat' first
    | with_reducible assumption | intro _
    | with_reducible (first
      | exact rfl | apply State.addItem_keeps C | apply State.useArea_keeps C | apply State.layItem_keeps C
      | apply State.cabPull_keeps C | apply keeps_ite | apply keeps_iteO | apply keeps_iteP | apply optP_none
      | apply optP_some | apply pairP_mk | apply keeps_elim)

theorem State.ethMatch_keeps (C : Closed P) {s : State} (i : Nat) (hs : P s) : P (State.ethMatch s i) := by
  unfold State.ethMatch
  try dsimp only
  repeat' first
    | with_reducible assumption | intro _
    | with_reducible (first
      | exact rfl | apply State.setItem_keeps C | apply State.bump_keeps C | apply keeps_ite)
    | split

theorem State.writeItem_keeps (C : Closed P) {s : State} (i : Nat) (bytes : List Nat) (hs : P s) :
    P (State.writeItem s i bytes) := by
  unfold State.writeItem
  try dsimp only
  repeat' first
    | with_reducible assumption | intro _
    | with_reducible (first
      | exact rfl | apply State.layItem_keeps C | apply State.cabPull_keeps C)
    | split

theorem State.closeItem_keeps (C : Closed P) {s : State} (i : Nat) (data : List Nat) (trunc : Bool) (hs : P s) :
    P (State.closeItem s i data trunc) := by
  unfold State.closeItem
  try dsimp only
  repeat' first
    | with_reducible assumption | intro _
    | with_reducible (first
      | exact rfl | apply State.layItem_keeps C | apply State.queUpd_keeps C | apply State.bump_keeps C
      | apply State.shutItem_keeps C | apply State.ethMatch_keeps C | apply State.cabPull_keeps C | apply keeps_ite
      | apply keeps_when)
    | split

theorem State.placeItem_keeps (C : Closed P) {s : State} (x : QItem) (data : List Nat) (hs : P s) :
    P (State.placeItem s x data) := by
  unfold State.placeItem
  try dsimp only
  repeat' first
    | with_reducible assumption | intro _
    | with_reducible (first
      | exact rfl | apply State.addItem_keeps C | apply State.layItem_keeps C | apply State.shutItem_keeps C
      | apply State.ethMatch_keeps C | apply State.holdMark_keeps C | apply State.cabPull_keeps C | apply keeps_elim)

theorem State.putItem_keeps (C : Closed P) {s : State} (x : QItem) (data : List Nat) (hs : P s) :
    OptP (PairP P) (State.putItem s x data) := by
  unfold State.putItem
  try dsimp only
  repeat' first
    | with_reducible assumption | intro _
    | with_reducible (first
      | exact rfl | apply State.useArea_keeps C | apply State.placeItem_keeps C | apply optP_none | apply optP_some
      | apply pairP_mk)
    | split

theorem State.patchAccept_keeps (C : Closed P) {s : State} (hs : P s) : P (State.patchAccept s) := by
  unfold State.patchAccept
  try dsimp only
  repeat' first
    | with_reducible assumption | intro _
    | with_reducible (first
      | exact rfl | apply State.patchIn_keeps C | apply State.queUpd_keeps C | apply State.queRegs_keeps C)
    | split
    | with_reducible (first
      | refine of_pair (by assumption) ?_ | refine of_some (by assumption) ?_)

theorem State.starveCount_keeps (C : Closed P) {s : State} (c : Nat) (hs : P s) : P (State.starveCount s c) := by
  unfold State.starveCount
  try dsimp only
  repeat' first
    | with_reducible assumption | intro _
    | with_reducible (first
      | exact rfl | apply State.queUpd_keeps C)

theorem State.tookUp_keeps (C : Closed P) {s : State} (x : QItem) (n : Nat) (hs : P s) : P (State.tookUp s x n) := by
  unfold State.tookUp
  try dsimp only
  repeat' first
    | with_reducible assumption | intro _
    | with_reducible (first
      | exact rfl | apply State.starveCount_keeps C | apply State.setItem_keeps C | apply State.sweep_keeps C
      | apply keeps_when)

theorem State.tookEth_keeps (C : Closed P) {s : State} (x : QItem) (hs : P s) : P (State.tookEth s x) := by
  unfold State.tookEth
  try dsimp only
  repeat' first
    | with_reducible assumption | intro _
    | with_reducible (first
      | exact rfl | apply State.setItem_keeps C | apply State.queUpd_keeps C | apply State.sweep_keeps C)

theorem State.poisonIn_keeps (C : Closed P) {s : State} (r : Reel) (prod : Nat) (q : Nat) (o : Nat) (n : Nat) (hs : P s) :
    P (State.poisonIn s r prod q o n) := by
  unfold State.poisonIn
  try dsimp only
  repeat' first
    | with_reducible assumption | intro _
    | with_reducible (first
      | exact rfl | apply State.setSlot_keeps C | apply State.poisonNow_keeps C | apply keeps_ite | apply keeps_iteP
      | apply keeps_each)
    | split

theorem State.poisonAt_keeps (C : Closed P) {s : State} (p : PktRef) (a : Nat) (n : Nat) (hs : P s) :
    P (State.poisonAt s p a n) := by
  unfold State.poisonAt
  try dsimp only
  repeat' first
    | with_reducible assumption | intro _
    | with_reducible (first
      | exact rfl | apply State.poisonIn_keeps C | apply keeps_ite)
    | split

theorem State.poisonWord_keeps (C : Closed P) {s : State} (x : QItem) (w : FWord) (hs : P s) :
    P (State.poisonWord s x w) := by
  unfold State.poisonWord
  try dsimp only
  repeat' first
    | with_reducible assumption | intro _
    | with_reducible (first
      | exact rfl | apply State.setItem_keeps C | apply State.poisonAt_keeps C | apply keeps_ite)
    | split

theorem State.fabricBad_keeps (C : Closed P) {s : State} (x : QItem) (w : Option FWord) (hs : P s) :
    P (State.fabricBad s x w) := by
  unfold State.fabricBad
  try dsimp only
  repeat' first
    | with_reducible assumption | intro _
    | with_reducible (first
      | exact rfl | apply State.bump_keeps C | apply State.wrB_keeps C | apply State.detect_keeps C
      | apply State.poisonWord_keeps C | apply State.holdItem_keeps C | apply State.sweep_keeps C | apply C.wr
      | apply keeps_elim)

theorem State.fabricRead_keeps (C : Closed P) {s : State} (i : Nat) (n : Nat) (res : WordRead) (hs : P s) :
    P (State.fabricRead s i n res) := by
  unfold State.fabricRead
  try dsimp only
  repeat' first
    | with_reducible assumption | intro _
    | with_reducible (first
      | exact rfl | apply State.bump_keeps C | apply State.sramFixed_keeps C | apply State.corrected_keeps C
      | apply State.fabricBad_keeps C | apply keeps_elim)
    | split

theorem State.setCmpR_keeps (C : Closed P) {s : State} (r : Fin 16) (x : CmpR) (hs : P s) :
    P (State.setCmpR s r x) := by
  unfold State.setCmpR
  try dsimp only
  repeat' first
    | with_reducible assumption | intro _
    | with_reducible exact rfl
    | split
    | with_reducible (first
      | refine of_pair (by assumption) ?_ | refine of_some (by assumption) ?_ | refine of_somePair (by assumption) ?_
      | apply keeps_fst | apply keeps_mk C)

theorem State.setEvbR_keeps (C : Closed P) {s : State} (r : Fin 16) (x : EvbR) (hs : P s) :
    P (State.setEvbR s r x) := by
  unfold State.setEvbR
  try dsimp only
  repeat' first
    | with_reducible assumption | intro _
    | with_reducible exact rfl
    | split
    | with_reducible (first
      | refine of_pair (by assumption) ?_ | refine of_some (by assumption) ?_ | refine of_somePair (by assumption) ?_
      | apply keeps_fst | apply keeps_mk C)

theorem State.upRec_keeps (C : Closed P) {s : State} (r : Fin 16) (k : Nat) (f : Rec → Rec) (hs : P s) :
    P (State.upRec s r k f) := by
  unfold State.upRec
  try dsimp only
  repeat' first
    | with_reducible assumption | intro _
    | with_reducible (first
      | exact rfl | apply State.setEvbR_keeps C)

theorem State.headFlag_keeps (C : Closed P) {s : State} (r : Fin 16) (k : Nat) (b : Nat) (hs : P s) :
    P (State.headFlag s r k b) := by
  unfold State.headFlag
  try dsimp only
  repeat' first
    | with_reducible assumption | intro _
    | with_reducible (first
      | exact rfl | apply State.upRec_keeps C)

theorem State.slipHeads_keeps (C : Closed P) {s : State} (k : Nat) (hs : P s) : P (State.slipHeads s k) := by
  unfold State.slipHeads
  try dsimp only
  repeat' first
    | with_reducible assumption | intro _
    | with_reducible (first
      | exact rfl | apply State.setEvbR_keeps C | apply keeps_ite | apply keeps_each)

theorem State.ringUpd_keeps (C : Closed P) {s : State} (r : Fin 16) (f : List RingW → List RingW) (hs : P s) :
    P (State.ringUpd s r f) := by
  unfold State.ringUpd
  try dsimp only
  repeat' first
    | with_reducible assumption | intro _
    | with_reducible (first
      | exact rfl | apply State.setEvbR_keeps C)

theorem State.ringPut_keeps (C : Closed P) {s : State} (r : Fin 16) (w : Nat) (ref : Nat) (pid : PktId) (hs : P s) :
    P (State.ringPut s r w ref pid) := by
  unfold State.ringPut
  try dsimp only
  repeat' first
    | with_reducible assumption | intro _
    | with_reducible (first
      | exact rfl | apply State.ringUpd_keeps C)

theorem State.ringDrop_keeps (C : Closed P) {s : State} (r : Fin 16) (f : Nat → Bool) (hs : P s) :
    P (State.ringDrop s r f) := by
  unfold State.ringDrop
  try dsimp only
  repeat' first
    | with_reducible assumption | intro _
    | with_reducible (first
      | exact rfl | apply State.ringUpd_keeps C)

theorem State.winNext_keeps (C : Closed P) {s : State} (r : Fin 16) (hs : P s) : (OptP P) (State.winNext s r) := by
  unfold State.winNext
  try dsimp only
  repeat' first
    | with_reducible assumption | intro _
    | with_reducible (first
      | exact rfl | apply State.deliverPkt_keeps C | apply State.putItem_keeps C | apply State.ringUpd_keeps C
      | apply keeps_ite | apply keeps_iteO | apply keeps_iteP | apply optP_none | apply optP_some | apply optP_mapS
      | apply optP_mapP | apply optP_map)
    | split
    | with_reducible (first
      | refine of_pair (by assumption) ?_ | refine of_some (by assumption) ?_ | refine of_somePair (by assumption) ?_
      | apply keeps_fst)

theorem State.winRun_keeps (C : Closed P) {s : State} (r : Fin 16) (hs : P s) : P (State.winRun s r) := by
  unfold State.winRun
  try dsimp only
  repeat' first
    | with_reducible assumption | intro _
    | with_reducible (first
      | exact rfl | apply State.winNext_keeps C | apply keeps_foldl_pair | apply keeps_foldl | apply pairP_mk
      | apply keeps_getD)

theorem State.winPump_keeps (C : Closed P) {s : State} (hs : P s) : P (State.winPump s) := by
  unfold State.winPump
  try dsimp only
  repeat' first
    | with_reducible assumption | intro _
    | with_reducible (first
      | exact rfl | apply State.winRun_keeps C | apply keeps_each)

theorem State.setCtx_keeps (C : Closed P) {s : State} (r : Fin 16) (k : Nat) (c : Ctx) (hs : P s) :
    P (State.setCtx s r k c) := by
  unfold State.setCtx
  try dsimp only
  repeat' first
    | with_reducible assumption | intro _
    | with_reducible (first
      | exact rfl | apply State.setCmpR_keeps C)

theorem State.addBytes_keeps (C : Closed P) {s : State} (f : Fld) (r : Nat) (n : Nat) (hs : P s) :
    P (State.addBytes s f r n) := by
  unfold State.addBytes
  try dsimp only
  repeat' first
    | with_reducible assumption | intro _
    | with_reducible (first
      | exact rfl | apply C.wr)

theorem State.cmpDrained_keeps (C : Closed P) {s : State} (r : Fin 16) (hs : P s) : P (State.cmpDrained s r) := by
  unfold State.cmpDrained
  try dsimp only
  repeat' first
    | with_reducible assumption | intro _
    | with_reducible (first
      | exact rfl | apply State.setCmpR_keeps C | apply State.wrB_keeps C | apply C.wr | apply keeps_ite)

theorem State.noteFinal_keeps (C : Closed P) {s : State} (r : Fin 16) (k : Nat) (hs : P s) :
    P (State.noteFinal s r k) := by
  unfold State.noteFinal
  try dsimp only
  repeat' first
    | with_reducible assumption | intro _
    | with_reducible (first
      | exact rfl | apply State.cmpDrained_keeps C)
    | split
    | with_reducible (first
      | refine of_pair (by assumption) ?_ | refine of_some (by assumption) ?_ | refine of_somePair (by assumption) ?_
      | apply keeps_fst | apply keeps_mk C)

theorem State.blockStart_keeps (C : Closed P) {s : State} (r : Fin 16) (k : Nat) (t : Nat) (hs : P s) :
    P (State.blockStart s r k t) := by
  unfold State.blockStart
  try dsimp only
  repeat' first
    | with_reducible assumption | intro _
    | with_reducible (first
      | exact rfl | apply State.setCtx_keeps C)

theorem State.freshStreams_keeps (C : Closed P) {s : State} (r : Fin 16) (k : Nat) (m : Nat) (n : Nat) (hs : P s) :
    P (State.freshStreams s r k m n) := by
  unfold State.freshStreams
  try dsimp only
  repeat' first
    | with_reducible assumption | intro _
    | with_reducible (first
      | exact rfl | apply State.setCtx_keeps C | apply keeps_ite | apply keeps_each)

theorem State.ctxReady_keeps (C : Closed P) {s : State} (r : Fin 16) (k : Nat) (hs : P s) :
    P (State.ctxReady s r k) := by
  unfold State.ctxReady
  try dsimp only
  repeat' first
    | with_reducible assumption | intro _
    | with_reducible (first
      | exact rfl | apply State.setCtx_keeps C | apply State.setCmpR_keeps C)
    | split

theorem State.blockEnd_keeps (C : Closed P) {s : State} (r : Fin 16) (k : Nat) (hs : P s) :
    P (State.blockEnd s r k) := by
  unfold State.blockEnd
  try dsimp only
  repeat' first
    | with_reducible assumption | intro _
    | with_reducible (first
      | exact rfl | apply State.setCtx_keeps C | apply State.ctxReady_keeps C | apply keeps_ite)

theorem State.dynReady_keeps (C : Closed P) {s : State} (r : Fin 16) (k : Nat) (hs : P s) :
    P (State.dynReady s r k) := by
  unfold State.dynReady
  try dsimp only
  repeat' first
    | with_reducible assumption | intro _
    | with_reducible (first
      | exact rfl | apply State.setCtx_keeps C)
    | split

theorem State.setOpen_keeps (C : Closed P) {s : State} (r : Fin 16) (o : Option OpenPkt) (hs : P s) :
    P (State.setOpen s r o) := by
  unfold State.setOpen
  try dsimp only
  repeat' first
    | with_reducible assumption | intro _
    | with_reducible (first
      | exact rfl | apply State.setCmpR_keeps C)

theorem State.emitChunk_keeps (C : Closed P) {s : State} (r : Fin 16) (hs : P s) : P (State.emitChunk s r) := by
  unfold State.emitChunk
  try dsimp only
  repeat' first
    | with_reducible assumption | intro _
    | with_reducible (first
      | exact rfl | apply State.setOpen_keeps C | apply State.setCtx_keeps C | apply State.bump_keeps C
      | apply State.writeItem_keeps C | apply C.wr | apply keeps_foldl_pair | apply keeps_ite | apply keeps_foldl
      | apply pairP_mk)
    | split

theorem State.unstall_keeps (C : Closed P) {s : State} (r : Fin 16) (hs : P s) : P (State.unstall s r) := by
  unfold State.unstall
  try dsimp only
  repeat' first
    | with_reducible assumption | intro _
    | with_reducible (first
      | exact rfl | apply State.setCmpR_keeps C | apply State.wrB_keeps C | apply State.bump_keeps C | apply C.wr)
    | split

theorem State.stall_keeps (C : Closed P) {s : State} (r : Fin 16) (hs : P s) : P (State.stall s r) := by
  unfold State.stall
  try dsimp only
  repeat' first
    | with_reducible assumption | intro _
    | with_reducible (first
      | exact rfl | apply State.setCmpR_keeps C | apply State.wrB_keeps C | apply C.wr | apply keeps_ite)

theorem State.closePkt_keeps (C : Closed P) {s : State} (r : Fin 16) (flags : Nat) (trunc : Bool) (final : Bool) (hs : P s) :
    P (State.closePkt s r flags trunc final) := by
  unfold State.closePkt
  try dsimp only
  repeat' first
    | with_reducible assumption | intro _
    | with_reducible (first
      | exact rfl | apply State.emitChunk_keeps C | apply State.setOpen_keeps C | apply State.unstall_keeps C
      | apply State.setCtx_keeps C | apply State.bump_keeps C | apply State.addBytes_keeps C | apply State.wrB_keeps C
      | apply State.noteFinal_keeps C | apply State.closeItem_keeps C | apply C.wr | apply keeps_ite
      | apply keeps_getD)
    | split

theorem State.openPkt_keeps (C : Closed P) {s : State} (r : Fin 16) (kind : Nat) (tick : Nat) (first : Nat) (flags : Nat) (zs : Bool) (dyn : Option CodeTab) (todo : List CItem) (final : Bool) (hs : P s) :
    (OptP P) (State.openPkt s r kind tick first flags zs dyn todo final) := by
  unfold State.openPkt
  try dsimp only
  repeat' first
    | with_reducible assumption | intro _
    | with_reducible (first
      | exact rfl | apply State.openItem_keeps C | apply State.setOpen_keeps C | apply C.wr | apply optP_none
      | apply optP_some | apply keeps_getD)
    | split
    | with_reducible (first
      | refine of_pair (by assumption) ?_ | refine of_some (by assumption) ?_ | refine of_somePair (by assumption) ?_)

theorem State.emptyFinal_keeps (C : Closed P) {s : State} (r : Fin 16) (kind : Nat) (tick : Nat) (hs : P s) :
    (OptP P) (State.emptyFinal s r kind tick) := by
  unfold State.emptyFinal
  try dsimp only
  repeat' first
    | with_reducible assumption | intro _
    | with_reducible (first
      | exact rfl | apply State.openPkt_keeps C | apply State.closePkt_keeps C | apply optP_none | apply optP_some
      | apply optP_mapS)

theorem State.jobEnd_keeps (C : Closed P) {s : State} (r : Fin 16) (k : Nat) (hs : P s) : P (State.jobEnd s r k) := by
  unfold State.jobEnd
  try dsimp only
  repeat' first
    | with_reducible assumption | intro _
    | with_reducible (first
      | exact rfl | apply State.blockEnd_keeps C | apply State.setCmpR_keeps C)

theorem State.openJob_keeps (C : Closed P) {s : State} (r : Fin 16) (hs : P s) : P (State.openJob s r) := by
  unfold State.openJob
  try dsimp only
  repeat' first
    | with_reducible assumption | intro _
    | with_reducible (first
      | exact rfl | apply State.emptyFinal_keeps C | apply State.unstall_keeps C | apply State.setCmpR_keeps C
      | apply State.stall_keeps C | apply State.openPkt_keeps C | apply State.blockStart_keeps C | apply keeps_ite
      | apply keeps_iteP | apply keeps_when | apply keeps_getD)
    | split
    | with_reducible (first
      | refine of_pair (by assumption) ?_ | refine of_some (by assumption) ?_)

theorem State.askRoom_keeps (C : Closed P) {s : State} (o : OpenPkt) (want : List CItem) (hs : P s) :
    (PairP P) (State.askRoom s o want) := by
  unfold State.askRoom
  try dsimp only
  repeat' first
    | with_reducible assumption | intro _
    | with_reducible (first
      | exact rfl | apply State.grantUpTo_keeps C | apply pairP_mk)

theorem State.admitFrame_keeps (C : Closed P) {s : State} (r : Fin 16) (o : OpenPkt) (hs : P s) :
    P (State.admitFrame s r o) := by
  unfold State.admitFrame
  try dsimp only
  repeat' first
    | with_reducible assumption | intro _
    | with_reducible (first
      | exact rfl | apply State.askRoom_keeps C | apply State.setOpen_keeps C | apply State.unstall_keeps C
      | apply State.stall_keeps C | apply keeps_ite | apply keeps_iteP)
    | split
    | with_reducible (first
      | refine of_pair (by assumption) ?_ | refine of_some (by assumption) ?_ | refine of_somePair (by assumption) ?_
      | apply keeps_fst)

theorem State.evBlk_keeps (C : Closed P) {s : State} (r : Fin 16) (k : Nat) (hs : P s) : P (State.evBlk s r k) := by
  unfold State.evBlk
  try dsimp only
  repeat' first
    | with_reducible assumption | intro _
    | with_reducible (first
      | exact rfl | apply State.setCmpR_keeps C | apply State.blockStart_keeps C | apply keeps_ite)

theorem State.evClose_keeps (C : Closed P) {s : State} (r : Fin 16) (flags : Nat) (trunc : Bool) (final : Bool) (hs : P s) :
    P (State.evClose s r flags trunc final) := by
  unfold State.evClose
  try dsimp only
  repeat' first
    | with_reducible assumption | intro _
    | with_reducible (first
      | exact rfl | apply State.closePkt_keeps C | apply State.setCmpR_keeps C)

theorem State.evEnd_keeps (C : Closed P) {s : State} (r : Fin 16) (k : Nat) (final : Bool) (hs : P s) :
    (OptP P) (State.evEnd s r k final) := by
  unfold State.evEnd
  try dsimp only
  repeat' first
    | with_reducible assumption | intro _
    | with_reducible (first
      | exact rfl | apply State.setCmpR_keeps C | apply State.evClose_keeps C | apply State.blockEnd_keeps C
      | apply State.emptyFinal_keeps C | apply State.ctxReady_keeps C | apply keeps_ite | apply keeps_iteO
      | apply optP_none | apply optP_some | apply optP_mapS | apply optP_mapP | apply optP_map)
    | split

theorem State.evStep_keeps (C : Closed P) {s : State} (r : Fin 16) (hs : P s) : (PairP P) (State.evStep s r) := by
  unfold State.evStep
  try dsimp only
  repeat' first
    | with_reducible assumption | intro _
    | with_reducible (first
      | exact rfl | apply State.setCmpR_keeps C | apply State.evEnd_keeps C | apply State.stall_keeps C
      | apply State.bump_keeps C | apply State.ringDrop_keeps C | apply State.evBlk_keeps C
      | apply State.openPkt_keeps C | apply State.unstall_keeps C | apply State.askRoom_keeps C
      | apply State.ringPut_keeps C | apply State.setOpen_keeps C | apply keeps_ite | apply keeps_iteP
      | apply pairP_mk | apply keeps_elim | apply keeps_getD)
    | split
    | with_reducible (first
      | refine of_pair (by assumption) ?_ | refine of_some (by assumption) ?_ | refine of_somePair (by assumption) ?_
      | apply keeps_fst)

theorem State.evRun_keeps (C : Closed P) {s : State} (r : Fin 16) (n0 : Nat) (hs : P s) : P (State.evRun s r n0) := by
  induction n0 generalizing s r
  all_goals
  unfold State.evRun
  try dsimp only
  repeat' first
    | with_reducible assumption | intro _
    | with_reducible (first
      | exact rfl | apply_assumption | apply State.evStep_keeps C)
    | split
    | with_reducible refine of_pair (by assumption) ?_

theorem State.accStage_keeps (C : Closed P) {s : State} (r : Fin 16) (hs : P s) : P (State.accStage s r) := by
  unfold State.accStage
  try dsimp only
  repeat' first
    | with_reducible assumption | intro _
    | with_reducible exact rfl
    | split
    | with_reducible (first
      | refine of_pair (by assumption) ?_ | refine of_some (by assumption) ?_ | refine of_somePair (by assumption) ?_
      | apply keeps_fst | apply keeps_mk C)

theorem State.accCut_keeps (C : Closed P) {s : State} (r : Fin 16) (hs : P s) : P (State.accCut s r) := by
  unfold State.accCut
  try dsimp only
  repeat' first
    | with_reducible assumption | intro _
    | with_reducible (first
      | exact rfl | apply State.setCmpR_keeps C | apply keeps_ite)
    | split

theorem State.pump_keeps (C : Closed P) {s : State} (r : Fin 16) (hs : P s) : P (State.pump s r) := by
  unfold State.pump
  try dsimp only
  repeat' first
    | with_reducible assumption | intro _
    | with_reducible (first
      | exact rfl | apply State.accStage_keeps C | apply State.evRun_keeps C | apply State.admitFrame_keeps C
      | apply State.openJob_keeps C | apply keeps_ite)
    | split

theorem State.chunkComplete_keeps (C : Closed P) {s : State} (r : Fin 16) (hs : P s) : P (State.chunkComplete s r) := by
  unfold State.chunkComplete
  try dsimp only
  repeat' first
    | with_reducible assumption | intro _
    | with_reducible (first
      | exact rfl | apply State.emitChunk_keeps C | apply State.evClose_keeps C | apply State.pump_keeps C
      | apply State.closePkt_keeps C | apply State.jobEnd_keeps C | apply State.setCmpR_keeps C | apply keeps_ite)
    | split

theorem State.submit_keeps (C : Closed P) {s : State} (r : Fin 16) (j : Job) (hs : P s) : P (State.submit s r j) := by
  unfold State.submit
  try dsimp only
  repeat' first
    | with_reducible assumption | intro _
    | with_reducible (first
      | exact rfl | apply State.setCmpR_keeps C | apply State.evEnd_keeps C | apply State.evClose_keeps C
      | apply State.pump_keeps C | apply keeps_ite)
    | split
    | with_reducible (first
      | refine of_pair (by assumption) ?_ | refine of_some (by assumption) ?_)

theorem State.evInput_keeps (C : Closed P) {s : State} (r : Fin 16) (x : EvIn) (hs : P s) :
    P (State.evInput s r x) := by
  unfold State.evInput
  try dsimp only
  repeat' first
    | with_reducible assumption | intro _
    | with_reducible (first
      | exact rfl | apply State.setCmpR_keeps C | apply State.pump_keeps C)

theorem State.stallLimit_keeps (C : Closed P) {s : State} (r : Fin 16) (hs : P s) : P (State.stallLimit s r) := by
  unfold State.stallLimit
  try dsimp only
  repeat' first
    | with_reducible assumption | intro _
    | with_reducible (first
      | exact rfl | apply State.bump_keeps C | apply State.wrB_keeps C | apply State.detect_keeps C
      | apply State.pump_keeps C | apply State.ringDrop_keeps C | apply State.setCmpR_keeps C
      | apply State.evClose_keeps C | apply State.blockEnd_keeps C | apply State.closePkt_keeps C
      | apply State.jobEnd_keeps C | apply C.wr | apply keeps_foldl_pair | apply keeps_ite | apply keeps_foldl
      | apply pairP_mk)
    | split

theorem State.dropInq_keeps (C : Closed P) {s : State} (r : Fin 16) (hs : P s) : P (State.dropInq s r) := by
  unfold State.dropInq
  try dsimp only
  repeat' first
    | with_reducible assumption | intro _
    | with_reducible (first
      | exact rfl | apply State.ringDrop_keeps C | apply State.setCmpR_keeps C | apply State.bump_keeps C)

theorem State.abortEvents_keeps (C : Closed P) {s : State} (r : Fin 16) (hs : P s) : P (State.abortEvents s r) := by
  unfold State.abortEvents
  try dsimp only
  repeat' first
    | with_reducible assumption | intro _
    | with_reducible (first
      | exact rfl | apply State.dropInq_keeps C | apply State.evClose_keeps C | apply State.setCmpR_keeps C
      | apply State.ctxReady_keeps C | apply State.pump_keeps C | apply keeps_ite)
    | split

theorem State.cmpCut_keeps (C : Closed P) {s : State} (r : Fin 16) (hs : P s) : P (State.cmpCut s r) := by
  unfold State.cmpCut
  try dsimp only
  repeat' first
    | with_reducible assumption | intro _
    | with_reducible (first
      | exact rfl | apply State.headFlag_keeps C | apply State.closePkt_keeps C | apply State.dropInq_keeps C
      | apply State.unstall_keeps C | apply State.setCmpR_keeps C | apply State.ctxReady_keeps C | apply C.wr
      | apply keeps_each)

theorem State.encodeAll_keeps (C : Closed P) {s : State} (r : Fin 16) (hs : P s) : P (State.encodeAll s r) := by
  unfold State.encodeAll
  try dsimp only
  repeat' first
    | with_reducible assumption | intro _
    | with_reducible (first
      | exact rfl | apply State.chunkComplete_keeps C | apply keeps_foldl_pair | apply keeps_foldl)

theorem State.cmpAbort_keeps (C : Closed P) {s : State} (r : Fin 16) (hs : P s) : P (State.cmpAbort s r) := by
  unfold State.cmpAbort
  try dsimp only
  repeat' first
    | with_reducible assumption | intro _
    | with_reducible (first
      | exact rfl | apply State.cmpCut_keeps C | apply State.setCmpR_keeps C | apply State.accStage_keeps C)

theorem State.cutFrame_keeps (C : Closed P) {s : State} (r : Fin 16) (hs : P s) : P (State.cutFrame s r) := by
  unfold State.cutFrame
  try dsimp only
  repeat' first
    | with_reducible assumption | intro _
    | with_reducible (first
      | exact rfl | apply State.closePkt_keeps C | apply State.jobEnd_keeps C | apply State.pump_keeps C
      | apply keeps_ite)
    | split

theorem State.ctxNext_keeps (C : Closed P) {s : State} (r : Fin 16) (hs : P s) : P (State.ctxNext s r) := by
  unfold State.ctxNext
  try dsimp only
  repeat' first
    | with_reducible assumption | intro _
    | with_reducible (first
      | exact rfl | apply C.wr)

theorem State.setSnap_keeps (C : Closed P) {s : State} (w : Fin 10) (x : Snap) (hs : P s) :
    P (State.setSnap s w x) := by
  unfold State.setSnap
  try dsimp only
  repeat' first
    | with_reducible assumption | intro _
    | with_reducible exact rfl
    | split
    | with_reducible (first
      | refine of_pair (by assumption) ?_ | refine of_some (by assumption) ?_ | refine of_somePair (by assumption) ?_
      | apply keeps_fst | apply keeps_mk C)

theorem State.snapWord_keeps (C : Closed P) {s : State} (w : Fin 10) (p : Nat) (base : Nat) (k : Nat) (view : Bool) (live : Nat) (hs : P s) :
    (PairP P) (State.snapWord s w p base k view live) := by
  unfold State.snapWord
  try dsimp only
  repeat' first
    | with_reducible assumption | intro _
    | with_reducible (first
      | exact rfl | apply State.bump_keeps C | apply keeps_ite | apply keeps_iteP | apply pairP_mk | apply keeps_getD)
    | split

theorem State.ctxWord_keeps (C : Closed P) {s : State} (r : Fin 16) (w : Fin 10) (view : Bool) (hs : P s) :
    (PairP P) (State.ctxWord s r w view) := by
  unfold State.ctxWord
  try dsimp only
  repeat' first
    | with_reducible assumption | intro _
    | with_reducible (first
      | exact rfl | apply State.ctxNext_keeps C | apply State.setSnap_keeps C | apply State.snapWord_keeps C
      | apply keeps_ite | apply keeps_iteP | apply pairP_mk | apply keeps_getD)
    | split
    | with_reducible (first
      | refine of_pair (by assumption) ?_ | refine of_some (by assumption) ?_ | refine of_somePair (by assumption) ?_
      | apply keeps_fst)

theorem State.ctxRead_keeps (C : Closed P) {s : State} (r : Fin 16) (w : Fin 10) (hs : P s) :
    P (State.ctxRead s r w) := by
  unfold State.ctxRead
  try dsimp only
  repeat' first
    | with_reducible assumption | intro _
    | with_reducible (first
      | exact rfl | apply State.ctxWord_keeps C)
    | split
    | with_reducible (first
      | refine of_pair (by assumption) ?_ | refine of_some (by assumption) ?_ | refine of_somePair (by assumption) ?_
      | apply keeps_fst | apply keeps_mk C)

theorem State.setStage_keeps (C : Closed P) {s : State} (w : Fin 10) (l : List (Nat × Nat × Nat)) (hs : P s) :
    P (State.setStage s w l) := by
  unfold State.setStage
  try dsimp only
  repeat' first
    | with_reducible assumption | intro _
    | with_reducible exact rfl
    | split
    | with_reducible (first
      | refine of_pair (by assumption) ?_ | refine of_some (by assumption) ?_ | refine of_somePair (by assumption) ?_
      | apply keeps_fst | apply keeps_mk C)

theorem State.ctxWrite_keeps (C : Closed P) {s : State} (r : Fin 16) (w : Fin 10) (v : Nat) (hs : P s) :
    P (State.ctxWrite s r w v) := by
  unfold State.ctxWrite
  try dsimp only
  repeat' first
    | with_reducible assumption | intro _
    | with_reducible (first
      | exact rfl | apply State.setStage_keeps C | apply State.ctxNext_keeps C | apply State.setCmpR_keeps C
      | apply State.wrB_keeps C | apply C.wr | apply keeps_foldl_pair | apply keeps_ite)

theorem State.ctxLoad_keeps (C : Closed P) {s : State} (r : Fin 16) (hs : P s) : P (State.ctxLoad s r) := by
  unfold State.ctxLoad
  try dsimp only
  repeat' first
    | with_reducible assumption | intro _
    | with_reducible (first
      | exact rfl | apply State.wrB_keeps C | apply State.setCmpR_keeps C | apply C.wr | apply keeps_ite)

theorem State.ctxBoundary_keeps (C : Closed P) {s : State} (r : Fin 16) (hs : P s) : P (State.ctxBoundary s r) := by
  unfold State.ctxBoundary
  try dsimp only
  repeat' first
    | with_reducible assumption | intro _
    | with_reducible (first
      | exact rfl | apply State.setCmpR_keeps C | apply State.wrB_keeps C | apply State.ctxReady_keeps C | apply C.wr
      | apply keeps_ite | apply keeps_iteP)
    | split

theorem State.setRp_keeps (C : Closed P) {s : State} (n : Nat) (x : RpS) (hs : P s) : P (State.setRp s n x) := by
  unfold State.setRp
  try dsimp only
  repeat' first
    | with_reducible assumption | intro _
    | with_reducible exact rfl
    | split
    | with_reducible (first
      | refine of_pair (by assumption) ?_ | refine of_some (by assumption) ?_ | refine of_somePair (by assumption) ?_
      | apply keeps_fst | apply keeps_mk C)

theorem State.rpStall_keeps (C : Closed P) {s : State} (n : Nat) (hs : P s) : P (State.rpStall s n) := by
  unfold State.rpStall
  try dsimp only
  repeat' first
    | with_reducible assumption | intro _
    | with_reducible (first
      | exact rfl | apply State.setRp_keeps C | apply State.bump_keeps C | apply keeps_ite)

theorem State.rpGo_keeps (C : Closed P) {s : State} (n : Nat) (hs : P s) : P (State.rpGo s n) := by
  unfold State.rpGo
  try dsimp only
  repeat' first
    | with_reducible assumption | intro _
    | with_reducible (first
      | exact rfl | apply State.setRp_keeps C | apply State.bump_keeps C)
    | split

theorem State.setFront_keeps (C : Closed P) {s : State} (n : Nat) (g : RpG) (hs : P s) : P (State.setFront s n g) := by
  unfold State.setFront
  try dsimp only
  repeat' first
    | with_reducible assumption | intro _
    | with_reducible (first
      | exact rfl | apply State.setRp_keeps C)

theorem State.rpOpen_keeps (C : Closed P) {s : State} (n : Nat) (g : RpG) (hs : P s) :
    (OptP P) (State.rpOpen s n g) := by
  unfold State.rpOpen
  try dsimp only
  repeat' first
    | with_reducible assumption | intro _
    | with_reducible (first
      | exact rfl | apply State.openItem_keeps C | apply State.setFront_keeps C | apply State.rpGo_keeps C
      | apply optP_none | apply optP_some | apply optP_mapS | apply optP_mapP)

theorem State.rpMove_keeps (C : Closed P) {s : State} (n : Nat) (g : RpG) (i : Nat) (e : List Nat) (hs : P s) :
    (OptP P) (State.rpMove s n g i e) := by
  unfold State.rpMove
  try dsimp only
  repeat' first
    | with_reducible assumption | intro _
    | with_reducible (first
      | exact rfl | apply State.grantUpTo_keeps C | apply State.setFront_keeps C | apply State.rpGo_keeps C
      | apply State.writeItem_keeps C | apply C.wr | apply keeps_ite | apply keeps_iteO | apply optP_none
      | apply optP_some)

theorem State.rpLeave_keeps (C : Closed P) {s : State} (n : Nat) (g : RpG) (i : Nat) (h : RpShut) (hs : P s) :
    P (State.rpLeave s n g i h) := by
  unfold State.rpLeave
  try dsimp only
  repeat' first
    | with_reducible assumption | intro _
    | with_reducible (first
      | exact rfl | apply State.setRp_keeps C | apply State.rpGo_keeps C | apply State.closeItem_keeps C
      | apply State.queRegs_keeps C | apply State.bump_keeps C)

theorem State.rpStep_keeps (C : Closed P) {s : State} (n : Nat) (hs : P s) : (OptP P) (State.rpStep s n) := by
  unfold State.rpStep
  try dsimp only
  repeat' first
    | with_reducible assumption | intro _
    | with_reducible (first
      | exact rfl | apply State.rpOpen_keeps C | apply State.rpMove_keeps C | apply State.rpLeave_keeps C
      | apply optP_none | apply optP_some)
    | split

theorem State.rpPump_keeps (C : Closed P) {s : State} (n : Nat) (n0 : Nat) (hs : P s) : P (State.rpPump s n n0) := by
  induction n0 generalizing s n
  all_goals
  unfold State.rpPump
  try dsimp only
  repeat' first
    | with_reducible assumption | intro _
    | with_reducible (first
      | exact rfl | apply_assumption | apply State.rpStep_keeps C | apply State.rpStall_keeps C | apply keeps_ite)
    | split
    | with_reducible (first
      | refine of_pair (by assumption) ?_ | refine of_some (by assumption) ?_)

theorem State.rpRun_keeps (C : Closed P) {s : State} (n : Nat) (hs : P s) : P (State.rpRun s n) := by
  unfold State.rpRun
  try dsimp only
  repeat' first
    | with_reducible assumption | intro _
    | with_reducible (first
      | exact rfl | apply State.rpPump_keeps C)

theorem State.rpShut_keeps (C : Closed P) {s : State} (n : Nat) (k : Nat) (last : Bool) (hs : P s) :
    P (State.rpShut s n k last) := by
  unfold State.rpShut
  try dsimp only
  repeat' first
    | with_reducible assumption | intro _
    | with_reducible (first
      | exact rfl | apply State.setRp_keeps C)

theorem State.rpClose_keeps (C : Closed P) {s : State} (n : Nat) (k : Nat) (last : Bool) (hs : P s) :
    P (State.rpClose s n k last) := by
  unfold State.rpClose
  try dsimp only
  repeat' first
    | with_reducible assumption | intro _
    | with_reducible (first
      | exact rfl | apply State.setRp_keeps C | apply State.rpShut_keeps C | apply State.rpRun_keeps C
      | apply keeps_ite)

theorem State.rpGather_keeps (C : Closed P) {s : State} (n : Nat) (e : List Nat) (hs : P s) :
    P (State.rpGather s n e) := by
  unfold State.rpGather
  try dsimp only
  repeat' first
    | with_reducible assumption | intro _
    | with_reducible (first
      | exact rfl | apply State.setRp_keeps C)

theorem State.rpAdd_keeps (C : Closed P) {s : State} (n : Nat) (e : List Nat) (hs : P s) : P (State.rpAdd s n e) := by
  unfold State.rpAdd
  try dsimp only
  repeat' first
    | with_reducible assumption | intro _
    | with_reducible (first
      | exact rfl | apply State.rpGather_keeps C | apply State.rpShut_keeps C | apply State.rpRun_keeps C
      | apply keeps_ite)

theorem State.rpEnd_keeps (C : Closed P) {s : State} (n : Nat) (k : Nat) (e : List Nat) (hs : P s) :
    P (State.rpEnd s n k e) := by
  unfold State.rpEnd
  try dsimp only
  repeat' first
    | with_reducible assumption | intro _
    | with_reducible (first
      | exact rfl | apply State.rpGather_keeps C | apply State.rpClose_keeps C)

theorem State.regionRec_keeps (C : Closed P) {s : State} (r : Fin 16) (b : List Nat) (hs : P s) :
    P (State.regionRec s r b) := by
  unfold State.regionRec
  try dsimp only
  repeat' first
    | with_reducible assumption | intro _
    | with_reducible (first
      | exact rfl | apply State.rpAdd_keeps C)

theorem State.moduleRec_keeps (C : Closed P) {s : State} (b : List Nat) (hs : P s) : P (State.moduleRec s b) := by
  unfold State.moduleRec
  try dsimp only
  repeat' first
    | with_reducible assumption | intro _
    | with_reducible (first
      | exact rfl | apply State.rpAdd_keeps C)

theorem State.auxWord_keeps (C : Closed P) {s : State} (w : Nat) (hs : P s) : P (State.auxWord s w) := by
  unfold State.auxWord
  try dsimp only
  repeat' first
    | with_reducible assumption | intro _
    | with_reducible (first
      | exact rfl | apply State.rpAdd_keeps C)

theorem State.auxNext_keeps (C : Closed P) {s : State} (c : Fin 4) (hs : P s) : P (State.auxNext s c) := by
  unfold State.auxNext
  try dsimp only
  repeat' first
    | with_reducible assumption | intro _
    | with_reducible (first
      | exact rfl | apply State.setAux_keeps C | apply State.auxWord_keeps C | apply keeps_ite)
    | split

theorem State.auxFlush_keeps (C : Closed P) {s : State} (hs : P s) : P (State.auxFlush s) := by
  unfold State.auxFlush
  try dsimp only
  repeat' first
    | with_reducible assumption | intro _
    | with_reducible (first
      | exact rfl | apply State.auxNext_keeps C | apply keeps_foldl_pair | apply keeps_each | apply keeps_foldl)

theorem State.grantAvailable_keeps (C : Closed P) {s : State} (src : Fin 21) (hs : P s) :
    P (State.grantAvailable s src) := by
  unfold State.grantAvailable
  try dsimp only
  repeat' first
    | with_reducible assumption | intro _
    | with_reducible (first
      | exact rfl | apply State.winPump_keeps C | apply State.pump_keeps C | apply State.rpRun_keeps C
      | apply State.auxFlush_keeps C | apply State.cabPull_keeps C | apply keeps_ite | apply keeps_each)
    | split

theorem State.packFault_keeps (C : Closed P) {s : State} (hs : P s) : P (State.packFault s) := by
  unfold State.packFault
  try dsimp only
  repeat' first
    | with_reducible assumption | intro _
    | with_reducible (first
      | exact rfl | apply State.queUpd_keeps C | apply State.wrB_keeps C | apply State.detect_keeps C)

theorem State.cmdReserved_keeps (C : Closed P) {s : State} (hs : P s) : P (State.cmdReserved s) := by
  unfold State.cmdReserved
  try dsimp only
  repeat' first
    | with_reducible assumption | intro _
    | with_reducible (first
      | exact rfl | apply State.wrB_keeps C)

end Sys2Proof.Machine
end

