-- ==== Sys2Proof/Laws/KeepFrames.lean ====
section
/-! SUPPORT. Each operation of the frame builder, histograms, accumulation and the trigger keeps what no ordinary operation changes: one lemma for each. -/

namespace Sys2Proof.Machine

open Sys2Proof

variable {P : State → Prop}

theorem State.newRec_keeps (C : Closed P) {s : State} (r : Fin 16) (k : Nat) (marks : Nat) (jumped : Bool) (hs : P s) :
    P (State.newRec s r k marks jumped) := by
  unfold State.newRec
  try dsimp only
  repeat' first
    | with_reducible assumption | intro _
    | with_reducible (first
      | exact rfl | apply State.setEvbR_keeps C)

theorem State.gapOwn_keeps (C : Closed P) {s : State} (first : Nat) (last : Nat) (regions : Nat) (reason : Nat) (hs : P s) :
    P (State.gapOwn s first last regions reason) := by
  unfold State.gapOwn
  try dsimp only
  repeat' first
    | with_reducible assumption | intro _
    | with_reducible (first
      | exact rfl | apply State.moduleRec_keeps C)

theorem State.setHstR_keeps (C : Closed P) {s : State} (r : Fin 16) (x : HstR) (hs : P s) :
    P (State.setHstR s r x) := by
  unfold State.setHstR
  try dsimp only
  repeat' first
    | with_reducible assumption | intro _
    | with_reducible exact rfl
    | split
    | with_reducible (first
      | refine of_pair (by assumption) ?_ | refine of_some (by assumption) ?_ | refine of_somePair (by assumption) ?_
      | apply keeps_fst | apply keeps_mk C)

theorem State.gateTick_keeps (C : Closed P) {s : State} (r : Fin 16) (x : Int) (hs : P s) :
    P (State.gateTick s r x) := by
  unfold State.gateTick
  try dsimp only
  repeat' first
    | with_reducible assumption | intro _
    | with_reducible (first
      | exact rfl | apply State.setHstR_keeps C)

theorem State.gateIdx_keeps (C : Closed P) {s : State} (r : Fin 16) (k : Nat) (step : Nat) (held : Bool) (hs : P s) :
    P (State.gateIdx s r k step held) := by
  unfold State.gateIdx
  try dsimp only
  repeat' first
    | with_reducible assumption | intro _
    | with_reducible (first
      | exact rfl | apply State.setHstR_keeps C | apply State.wrB_keeps C | apply State.upRec_keeps C | apply C.wr)

theorem State.gateBoundary_keeps (C : Closed P) {s : State} (r : Fin 16) (k : Nat) (x : Int) (into : Bool) (hs : P s) :
    P (State.gateBoundary s r k x into) := by
  unfold State.gateBoundary
  try dsimp only
  repeat' first
    | with_reducible assumption | intro _
    | with_reducible (first
      | exact rfl | apply State.gateIdx_keeps C | apply State.gateTick_keeps C | apply keeps_ite)

theorem State.gateRestart_keeps (C : Closed P) {s : State} (r : Fin 16) (k : Nat) (x : Int) (oldRef : Bool) (hs : P s) :
    P (State.gateRestart s r k x oldRef) := by
  unfold State.gateRestart
  try dsimp only
  repeat' first
    | with_reducible assumption | intro _
    | with_reducible (first
      | exact rfl | apply State.setHstR_keeps C | apply State.gateIdx_keeps C | apply State.gateTick_keeps C
      | apply keeps_ite)

theorem State.gateStop_keeps (C : Closed P) {s : State} (r : Fin 16) (hs : P s) : P (State.gateStop s r) := by
  unfold State.gateStop
  try dsimp only
  repeat' first
    | with_reducible assumption | intro _
    | with_reducible (first
      | exact rfl | apply State.setHstR_keeps C)

theorem State.gateSync_keeps (C : Closed P) {s : State} (r : Fin 16) (x : Int) (hs : P s) :
    P (State.gateSync s r x) := by
  unfold State.gateSync
  try dsimp only
  repeat' first
    | with_reducible assumption | intro _
    | with_reducible (first
      | exact rfl | apply State.bump_keeps C | apply State.setHstR_keeps C | apply keeps_ite)

theorem State.gateOpens_keeps (C : Closed P) {s : State} (r : Fin 16) (hs : P s) : (OptP P) (State.gateOpens s r) := by
  unfold State.gateOpens
  try dsimp only
  repeat' first
    | with_reducible assumption | intro _
    | with_reducible (first
      | exact rfl | apply State.setHstR_keeps C | apply keeps_ite | apply keeps_iteO | apply optP_none
      | apply optP_some)
    | split

theorem State.gateCloses_keeps (C : Closed P) {s : State} (r : Fin 16) (hs : P s) : P (State.gateCloses s r) := by
  unfold State.gateCloses
  try dsimp only
  repeat' first
    | with_reducible assumption | intro _
    | with_reducible (first
      | exact rfl | apply State.setHstR_keeps C | apply keeps_ite)
    | split

theorem State.binAdd_keeps (C : Closed P) {s : State} (r : Fin 16) (key : Nat) (n : Nat) (hs : P s) :
    P (State.binAdd s r key n) := by
  unfold State.binAdd
  try dsimp only
  repeat' first
    | with_reducible assumption | intro _
    | with_reducible (first
      | exact rfl | apply State.setHstR_keeps C | apply State.wrB_keeps C | apply C.wr | apply keeps_ite)

theorem State.coalesce_keeps (C : Closed P) {s : State} (r : Fin 16) (k : Nat) (key : Nat) (hs : P s) :
    P (State.coalesce s r k key) := by
  unfold State.coalesce
  try dsimp only
  repeat' first
    | with_reducible assumption | intro _
    | with_reducible (first
      | exact rfl | apply State.setHstR_keeps C | apply State.bump_keeps C | apply keeps_ite)

theorem State.hstHit_keeps (C : Closed P) {s : State} (r : Fin 16) (k : Nat) (w : EvW) (hs : P s) :
    P (State.hstHit s r k w) := by
  unfold State.hstHit
  try dsimp only
  repeat' first
    | with_reducible assumption | intro _
    | with_reducible (first
      | exact rfl | apply State.setHstR_keeps C | apply State.bump_keeps C | apply State.binAdd_keeps C
      | apply State.coalesce_keeps C | apply keeps_ite | apply keeps_getD)
    | split

theorem State.dumpRecord_keeps (C : Closed P) {s : State} (r : Fin 16) (k : Nat) (flags : Nat) (sat : Nat) (hs : P s) :
    P (State.dumpRecord s r k flags sat) := by
  unfold State.dumpRecord
  try dsimp only
  repeat' first
    | with_reducible assumption | intro _
    | with_reducible (first
      | exact rfl | apply State.setHstR_keeps C | apply State.regionRec_keeps C)

theorem State.dumpStart_keeps (C : Closed P) {s : State} (r : Fin 16) (k : Nat) (hs : P s) :
    P (State.dumpStart s r k) := by
  unfold State.dumpStart
  try dsimp only
  repeat' first
    | with_reducible assumption | intro _
    | with_reducible (first
      | exact rfl | apply State.dumpRecord_keeps C | apply State.headFlag_keeps C | apply State.setHstR_keeps C
      | apply State.submit_keeps C | apply keeps_ite)

theorem State.dumpSkip_keeps (C : Closed P) {s : State} (r : Fin 16) (k : Nat) (lost : Bool) (hs : P s) :
    P (State.dumpSkip s r k lost) := by
  unfold State.dumpSkip
  try dsimp only
  repeat' first
    | with_reducible assumption | intro _
    | with_reducible (first
      | exact rfl | apply State.dumpRecord_keeps C | apply State.setHstR_keeps C | apply State.headFlag_keeps C
      | apply State.submit_keeps C | apply keeps_ite)

theorem State.dumpTurn_keeps (C : Closed P) {s : State} (r : Fin 16) (k : Nat) (hs : P s) :
    P (State.dumpTurn s r k) := by
  unfold State.dumpTurn
  try dsimp only
  repeat' first
    | with_reducible assumption | intro _
    | with_reducible (first
      | exact rfl | apply State.dumpSkip_keeps C | apply State.dumpStart_keeps C | apply keeps_ite)

theorem State.hstClose_keeps (C : Closed P) {s : State} (r : Fin 16) (k : Nat) (hs : P s) :
    P (State.hstClose s r k) := by
  unfold State.hstClose
  try dsimp only
  repeat' first
    | with_reducible assumption | intro _
    | with_reducible (first
      | exact rfl | apply State.setHstR_keeps C | apply State.dumpTurn_keeps C | apply keeps_ite)
    | split

theorem State.mergeCoal_keeps (C : Closed P) {s : State} (r : Fin 16) (p : Coal → Bool) (hs : P s) :
    P (State.mergeCoal s r p) := by
  unfold State.mergeCoal
  try dsimp only
  repeat' first
    | with_reducible assumption | intro _
    | with_reducible (first
      | exact rfl | apply State.setHstR_keeps C | apply State.binAdd_keeps C | apply keeps_each)

theorem State.dumpDue_keeps (C : Closed P) {s : State} (r : Fin 16) (n0 : List Nat) (hs : P s) :
    P (State.dumpDue s r n0) := by
  induction n0 generalizing s r
  all_goals
  unfold State.dumpDue
  try dsimp only
  repeat' first
    | with_reducible assumption | intro _
    | with_reducible (first
      | exact rfl | apply_assumption | apply State.mergeCoal_keeps C | apply State.setHstR_keeps C
      | apply State.dumpTurn_keeps C | apply keeps_ite)

theorem State.dumpDone_keeps (C : Closed P) {s : State} (r : Fin 16) (hs : P s) : P (State.dumpDone s r) := by
  unfold State.dumpDone
  try dsimp only
  repeat' first
    | with_reducible assumption | intro _
    | with_reducible (first
      | exact rfl | apply State.setHstR_keeps C | apply State.dumpDue_keeps C | apply keeps_ite)

theorem State.histoStart_keeps (C : Closed P) {s : State} (r : Fin 16) (k : Nat) (x : Int) (hs : P s) :
    P (State.histoStart s r k x) := by
  unfold State.histoStart
  try dsimp only
  repeat' first
    | with_reducible assumption | intro _
    | with_reducible (first
      | exact rfl | apply State.setHstR_keeps C)

theorem State.hstAbort_keeps (C : Closed P) {s : State} (r : Fin 16) (hs : P s) : P (State.hstAbort s r) := by
  unfold State.hstAbort
  try dsimp only
  repeat' first
    | with_reducible assumption | intro _
    | with_reducible (first
      | exact rfl | apply State.gateStop_keeps C | apply State.dumpRecord_keeps C | apply State.setHstR_keeps C
      | apply keeps_ite | apply keeps_each)

theorem State.setAccR_keeps (C : Closed P) {s : State} (r : Fin 16) (x : AccR) (hs : P s) :
    P (State.setAccR s r x) := by
  unfold State.setAccR
  try dsimp only
  repeat' first
    | with_reducible assumption | intro _
    | with_reducible exact rfl
    | split
    | with_reducible (first
      | refine of_pair (by assumption) ?_ | refine of_some (by assumption) ?_ | refine of_somePair (by assumption) ?_
      | apply keeps_fst | apply keeps_mk C)

theorem State.subIdx_keeps (C : Closed P) {s : State} (r : Fin 16) (k : Nat) (hs : P s) : P (State.subIdx s r k) := by
  unfold State.subIdx
  try dsimp only
  repeat' first
    | with_reducible assumption | intro _
    | with_reducible (first
      | exact rfl | apply State.upRec_keeps C | apply C.wr | apply keeps_ite)

theorem State.accBegin_keeps (C : Closed P) {s : State} (r : Fin 16) (k : Nat) (hs : P s) :
    P (State.accBegin s r k) := by
  unfold State.accBegin
  try dsimp only
  repeat' first
    | with_reducible assumption | intro _
    | with_reducible (first
      | exact rfl | apply State.setAccR_keeps C | apply State.subIdx_keeps C)

theorem State.accBoundary_keeps (C : Closed P) {s : State} (r : Fin 16) (k : Nat) (hs : P s) :
    P (State.accBoundary s r k) := by
  unfold State.accBoundary
  try dsimp only
  repeat' first
    | with_reducible assumption | intro _
    | with_reducible (first
      | exact rfl | apply State.accBegin_keeps C | apply State.subIdx_keeps C | apply keeps_ite)

theorem State.accOutput_keeps (C : Closed P) {s : State} (r : Fin 16) (f : Frame) (acc : Sp) (sat : Nat) (n : Nat) (cut : Bool) (hs : P s) :
    P (State.accOutput s r f acc sat n cut) := by
  unfold State.accOutput
  try dsimp only
  repeat' first
    | with_reducible assumption | intro _
    | with_reducible (first
      | exact rfl | apply State.upRec_keeps C | apply State.bump_keeps C | apply State.wrB_keeps C
      | apply State.daily_keeps C | apply State.submit_keeps C | apply C.wr | apply keeps_ite | apply keeps_when)

theorem State.accFrame_keeps (C : Closed P) {s : State} (r : Fin 16) (f : Frame) (px : Sp) (n : Nat) (cut : Bool) (hs : P s) :
    P (State.accFrame s r f px n cut) := by
  unfold State.accFrame
  try dsimp only
  repeat' first
    | with_reducible assumption | intro _
    | with_reducible (first
      | exact rfl | apply State.setAccR_keeps C | apply State.accOutput_keeps C | apply keeps_foldl_pair
      | apply keeps_ite)

theorem State.accJumped_keeps (C : Closed P) {s : State} (r : Fin 16) (f : Frame) (hs : P s) :
    P (State.accJumped s r f) := by
  unfold State.accJumped
  try dsimp only
  repeat' first
    | with_reducible assumption | intro _
    | with_reducible (first
      | exact rfl | apply State.setAccR_keeps C | apply State.upRec_keeps C | apply State.headFlag_keeps C
      | apply State.submit_keeps C | apply State.accFrame_keeps C | apply keeps_ite | apply keeps_when)

theorem State.upFrame_keeps (C : Closed P) {s : State} (r : Fin 16) (k : Nat) (g : Frame → Frame) (hs : P s) :
    P (State.upFrame s r k g) := by
  unfold State.upFrame
  try dsimp only
  repeat' first
    | with_reducible assumption | intro _
    | with_reducible (first
      | exact rfl | apply State.setPfeR_keeps C)

theorem State.emptyEnds_keeps (C : Closed P) {s : State} (r : Fin 16) (f : Frame) (hs : P s) :
    P (State.emptyEnds s r f) := by
  unfold State.emptyEnds
  try dsimp only
  repeat' first
    | with_reducible assumption | intro _
    | with_reducible (first
      | exact rfl | apply State.submit_keeps C | apply State.headFlag_keeps C | apply keeps_ite | apply keeps_when)

theorem State.lostFrame_keeps (C : Closed P) {s : State} (r : Fin 16) (f : Frame) (hs : P s) :
    P (State.lostFrame s r f) := by
  unfold State.lostFrame
  try dsimp only
  repeat' first
    | with_reducible assumption | intro _
    | with_reducible (first
      | exact rfl | apply State.emptyEnds_keeps C | apply State.accJumped_keeps C | apply State.accFrame_keeps C
      | apply keeps_ite)

theorem State.frameOut_keeps (C : Closed P) {s : State} (r : Fin 16) (f : Frame) (n : Nat) (cut : Bool) (hs : P s) :
    P (State.frameOut s r f n cut) := by
  unfold State.frameOut
  try dsimp only
  repeat' first
    | with_reducible assumption | intro _
    | with_reducible (first
      | exact rfl | apply State.headFlag_keeps C | apply State.daily_keeps C | apply State.submit_keeps C
      | apply State.accFrame_keeps C | apply keeps_ite | apply keeps_iteP | apply keeps_when)

theorem State.flushBehind_keeps (C : Closed P) {s : State} (r : Fin 16) (hs : P s) : P (State.flushBehind s r) := by
  unfold State.flushBehind
  try dsimp only
  repeat' first
    | with_reducible assumption | intro _
    | with_reducible (first
      | exact rfl | apply State.setPfeR_keeps C | apply State.lostFrame_keeps C | apply keeps_each)
    | split

theorem State.feFinal_keeps (C : Closed P) {s : State} (r : Fin 16) (hs : P s) : P (State.feFinal s r) := by
  unfold State.feFinal
  try dsimp only
  repeat' first
    | with_reducible assumption | intro _
    | with_reducible (first
      | exact rfl | apply State.setPfeR_keeps C | apply State.wrB_keeps C | apply C.wr | apply keeps_ite)

theorem State.frameEnd_keeps (C : Closed P) {s : State} (r : Fin 16) (f : Frame) (hs : P s) :
    P (State.frameEnd s r f) := by
  unfold State.frameEnd
  try dsimp only
  repeat' first
    | with_reducible assumption | intro _
    | with_reducible (first
      | exact rfl | apply State.setPfeR_keeps C | apply State.upRec_keeps C | apply State.flushBehind_keeps C
      | apply State.feFinal_keeps C)

theorem State.frameDone_keeps (C : Closed P) {s : State} (r : Fin 16) (hs : P s) : P (State.frameDone s r) := by
  unfold State.frameDone
  try dsimp only
  repeat' first
    | with_reducible assumption | intro _
    | with_reducible (first
      | exact rfl | apply State.setPfeR_keeps C | apply State.pfeFrameDone_keeps C | apply State.upRec_keeps C
      | apply State.frameOut_keeps C | apply State.frameEnd_keeps C | apply keeps_ite | apply keeps_iteP
      | apply keeps_getD)
    | split

theorem State.swapAt_keeps (C : Closed P) {s : State} (r : Fin 16) (k : Nat) (m : Nat) (gone : Bool) (jumped : Bool) (hs : P s) :
    P (State.swapAt s r k m gone jumped) := by
  unfold State.swapAt
  try dsimp only
  repeat' first
    | with_reducible assumption | intro _
    | with_reducible (first
      | exact rfl | apply State.upRec_keeps C | apply State.setHstR_keeps C | apply State.setPfeR_keeps C
      | apply keeps_ite)

theorem State.cutEnds_keeps (C : Closed P) {s : State} (r : Fin 16) (f : Frame) (hs : P s) :
    P (State.cutEnds s r f) := by
  unfold State.cutEnds
  try dsimp only
  repeat' first
    | with_reducible assumption | intro _
    | with_reducible (first
      | exact rfl | apply State.emptyEnds_keeps C | apply State.submit_keeps C | apply keeps_when)

theorem State.cutTransfer_keeps (C : Closed P) {s : State} (r : Fin 16) (hs : P s) : P (State.cutTransfer s r) := by
  unfold State.cutTransfer
  try dsimp only
  repeat' first
    | with_reducible assumption | intro _
    | with_reducible (first
      | exact rfl | apply State.setPfeR_keeps C | apply State.upRec_keeps C | apply State.accCut_keeps C
      | apply State.cutEnds_keeps C | apply State.setAccR_keeps C | apply State.lostFrame_keeps C
      | apply State.frameOut_keeps C | apply keeps_ite)
    | split

theorem State.frameAbort_keeps (C : Closed P) {s : State} (r : Fin 16) (hs : P s) : P (State.frameAbort s r) := by
  unfold State.frameAbort
  try dsimp only
  repeat' first
    | with_reducible assumption | intro _
    | with_reducible (first
      | exact rfl | apply State.cmpCut_keeps C | apply State.setPfeR_keeps C | apply State.cutTransfer_keeps C
      | apply State.encodeAll_keeps C | apply State.setEvbR_keeps C | apply State.setAccR_keeps C | apply C.wr)

theorem State.frontUp_keeps (C : Closed P) {s : State} (r : Fin 16) (hs : P s) : P (State.frontUp s r) := by
  unfold State.frontUp
  try dsimp only
  repeat' first
    | with_reducible assumption | intro _
    | with_reducible (first
      | exact rfl | apply State.setEvbR_keeps C | apply keeps_ite)
    | split

theorem State.frontTo_keeps (C : Closed P) {s : State} (r : Fin 16) (y : Int) (hs : P s) : P (State.frontTo s r y) := by
  unfold State.frontTo
  try dsimp only
  repeat' first
    | with_reducible assumption | intro _
    | with_reducible (first
      | exact rfl | apply State.frontUp_keeps C | apply State.setEvbR_keeps C | apply keeps_ite)

theorem State.winWord_keeps (C : Closed P) {s : State} (r : Fin 16) (w : EvW) (word : Nat) (ref : Nat) (stamp : Bool) (hs : P s) :
    P (State.winWord s r w word ref stamp) := by
  unfold State.winWord
  try dsimp only
  repeat' first
    | with_reducible assumption | intro _
    | with_reducible (first
      | exact rfl | apply State.setEvbR_keeps C)

theorem State.relWord_keeps (C : Closed P) {s : State} (r : Fin 16) (w : EvW) (early : Bool) (hs : P s) :
    (OptP P) (State.relWord s r w early) := by
  unfold State.relWord
  try dsimp only
  repeat' first
    | with_reducible assumption | intro _
    | with_reducible (first
      | exact rfl | apply State.setEvbR_keeps C | apply State.bump_keeps C | apply State.upRec_keeps C
      | apply State.wrBit_keeps C | apply State.headFlag_keeps C | apply State.hstHit_keeps C
      | apply State.winWord_keeps C | apply State.evInput_keeps C | apply C.wr | apply keeps_ite | apply keeps_iteO
      | apply optP_none | apply optP_some)

theorem State.closeTick_keeps (C : Closed P) {s : State} (r : Fin 16) (k : Nat) (hs : P s) :
    P (State.closeTick s r k) := by
  unfold State.closeTick
  try dsimp only
  repeat' first
    | with_reducible assumption | intro _
    | with_reducible (first
      | exact rfl | apply State.evInput_keeps C | apply State.headFlag_keeps C | apply State.hstClose_keeps C
      | apply State.upRec_keeps C | apply State.setEvbR_keeps C | apply State.rpClose_keeps C | apply keeps_ite)

theorem State.tickClose_keeps (C : Closed P) {s : State} (r : Fin 16) (hs : P s) : P (State.tickClose s r) := by
  unfold State.tickClose
  try dsimp only
  repeat' first
    | with_reducible assumption | intro _
    | with_reducible (first
      | exact rfl | apply State.frontTo_keeps C | apply State.closeTick_keeps C | apply keeps_ite)

theorem State.closeUpTo_keeps (C : Closed P) {s : State} (r : Fin 16) (k : Nat) (hs : P s) :
    P (State.closeUpTo s r k) := by
  unfold State.closeUpTo
  try dsimp only
  repeat' first
    | with_reducible assumption | intro _
    | with_reducible (first
      | exact rfl | apply State.closeTick_keeps C | apply keeps_foldl_pair | apply keeps_ite | apply keeps_foldl)

theorem State.relDue_keeps (C : Closed P) {s : State} (r : Fin 16) (hs : P s) : (OptP P) (State.relDue s r) := by
  unfold State.relDue
  try dsimp only
  repeat' first
    | with_reducible assumption | intro _
    | with_reducible (first
      | exact rfl | apply State.closeUpTo_keeps C | apply State.relWord_keeps C | apply keeps_ite | apply keeps_iteO
      | apply optP_none | apply optP_some)
    | split

theorem State.wordRelease_keeps (C : Closed P) {s : State} (r : Fin 16) (hs : P s) : P (State.wordRelease s r) := by
  unfold State.wordRelease
  try dsimp only
  repeat' first
    | with_reducible assumption | intro _
    | with_reducible (first
      | exact rfl | apply State.relDue_keeps C | apply State.frontUp_keeps C | apply keeps_getD)

theorem State.relAll_keeps (C : Closed P) {s : State} (r : Fin 16) (n0 : Nat) (hs : P s) : P (State.relAll s r n0) := by
  induction n0 generalizing s r
  all_goals
  unfold State.relAll
  try dsimp only
  repeat' first
    | with_reducible assumption | intro _
    | with_reducible (first
      | exact rfl | apply_assumption | apply State.relDue_keeps C)
    | split
    | with_reducible (first
      | refine of_pair (by assumption) ?_ | refine of_some (by assumption) ?_)

theorem State.evbArrive_keeps (C : Closed P) {s : State} (r : Fin 16) (w : EvW) (hs : P s) :
    P (State.evbArrive s r w) := by
  unfold State.evbArrive
  try dsimp only
  repeat' first
    | with_reducible assumption | intro _
    | with_reducible (first
      | exact rfl | apply State.frontUp_keeps C | apply State.setEvbR_keeps C | apply State.relDue_keeps C
      | apply keeps_ite | apply keeps_getD)

theorem State.headEmit_keeps (C : Closed P) {s : State} (r : Fin 16) (hs : P s) : P (State.headEmit s r) := by
  unfold State.headEmit
  try dsimp only
  repeat' first
    | with_reducible assumption | intro _
    | with_reducible (first
      | exact rfl | apply State.setEvbR_keeps C | apply State.upRec_keeps C | apply State.rpClose_keeps C
      | apply State.rpEnd_keeps C | apply keeps_ite)
    | split

theorem State.evbDrop_keeps (C : Closed P) {s : State} (r : Fin 16) (hs : P s) : P (State.evbDrop s r) := by
  unfold State.evbDrop
  try dsimp only
  repeat' first
    | with_reducible assumption | intro _
    | with_reducible (first
      | exact rfl | apply State.setEvbR_keeps C | apply State.bump_keeps C)

theorem State.evbFlush_keeps (C : Closed P) {s : State} (r : Fin 16) (k : Nat) (hs : P s) :
    P (State.evbFlush s r k) := by
  unfold State.evbFlush
  try dsimp only
  repeat' first
    | with_reducible assumption | intro _
    | with_reducible (first
      | exact rfl | apply State.closeUpTo_keeps C | apply State.headEmit_keeps C | apply keeps_foldl_pair
      | apply keeps_foldl)

theorem State.trgUpd_keeps (C : Closed P) {s : State} (f : Trg → Trg) (hs : P s) : P (State.trgUpd s f) := by
  unfold State.trgUpd
  try dsimp only
  repeat' first
    | with_reducible assumption | intro _
    | with_reducible exact rfl
    | split
    | with_reducible (first
      | refine of_pair (by assumption) ?_ | refine of_some (by assumption) ?_ | refine of_somePair (by assumption) ?_
      | apply keeps_fst | apply keeps_mk C)

theorem State.trigOut_keeps (C : Closed P) {s : State} (l : Fin 10) (n : Nat) (b : TBlk) (hs : P s) :
    P (State.trigOut s l n b) := by
  unfold State.trigOut
  try dsimp only
  repeat' first
    | with_reducible assumption | intro _
    | with_reducible (first
      | exact rfl | apply State.trigBlock_keeps C)
    | split
    | with_reducible (first
      | refine of_pair (by assumption) ?_ | refine of_some (by assumption) ?_ | refine of_somePair (by assumption) ?_
      | apply keeps_fst | apply keeps_mk C)

theorem State.setTrigLink_keeps (C : Closed P) {s : State} (l : Fin 10) (x : TrigLink) (hs : P s) :
    P (State.setTrigLink s l x) := by
  unfold State.setTrigLink
  try dsimp only
  repeat' first
    | with_reducible assumption | intro _
    | with_reducible (first
      | exact rfl | apply State.trgUpd_keeps C)

theorem State.trigSend_keeps (C : Closed P) {s : State} (l : Fin 10) (b : TBlk) (hs : P s) :
    P (State.trigSend s l b) := by
  unfold State.trigSend
  try dsimp only
  repeat' first
    | with_reducible assumption | intro _
    | with_reducible (first
      | exact rfl | apply State.setTrigLink_keeps C | apply State.trigOut_keeps C | apply keeps_ite)

theorem State.trigPump_keeps (C : Closed P) {s : State} (l : Fin 10) (hs : P s) : P (State.trigPump s l) := by
  unfold State.trigPump
  try dsimp only
  repeat' first
    | with_reducible assumption | intro _
    | with_reducible (first
      | exact rfl | apply State.setTrigLink_keeps C | apply State.trigSend_keeps C | apply keeps_ite
      | apply keeps_each)

theorem State.trigLinkUp_keeps (C : Closed P) {s : State} (l : Fin 10) (hs : P s) : P (State.trigLinkUp s l) := by
  unfold State.trigLinkUp
  try dsimp only
  repeat' first
    | with_reducible assumption | intro _
    | with_reducible (first
      | exact rfl | apply State.setTrigLink_keeps C | apply State.trigPump_keeps C)

theorem State.trigAck_keeps (C : Closed P) {s : State} (l : Fin 10) (tack : Nat) (hs : P s) :
    P (State.trigAck s l tack) := by
  unfold State.trigAck
  try dsimp only
  repeat' first
    | with_reducible assumption | intro _
    | with_reducible (first
      | exact rfl | apply State.setTrigLink_keeps C | apply State.trigPump_keeps C)

theorem State.trigRx_keeps (C : Closed P) {s : State} (l : Fin 10) (tseq : Nat) {f : State → State} (hs : P s) (hf : ∀ a, P a → P (f a)) :
    P (State.trigRx s l tseq f) := by
  unfold State.trigRx
  try dsimp only
  repeat' first
    | with_reducible assumption | intro _
    | with_reducible (first
      | exact rfl | apply hf | apply State.bump_keeps C | apply State.setTrigLink_keeps C | apply keeps_ite)

theorem State.trigResend_keeps (C : Closed P) {s : State} (l : Fin 10) (hs : P s) : P (State.trigResend s l) := by
  unfold State.trigResend
  try dsimp only
  repeat' first
    | with_reducible assumption | intro _
    | with_reducible (first
      | exact rfl | apply State.setTrigLink_keeps C | apply State.bump_keeps C | apply State.trigOut_keeps C
      | apply keeps_ite | apply keeps_iteP | apply keeps_each)

theorem State.pulseAt_keeps (C : Closed P) {s : State} (o : Fin 2) (x : Int) (known : Int) (ofs : Bool) (hs : P s) :
    P (State.pulseAt s o x known ofs) := by
  unfold State.pulseAt
  try dsimp only
  repeat' first
    | with_reducible assumption | intro _
    | with_reducible (first
      | exact rfl | apply State.trgUpd_keeps C | apply keeps_ite)

theorem State.trigSource_keeps (C : Closed P) {s : State} (src : Nat) (x : Int) (known : Int) (hs : P s) :
    P (State.trigSource s src x known) := by
  unfold State.trigSource
  try dsimp only
  repeat' first
    | with_reducible assumption | intro _
    | with_reducible (first
      | exact rfl | apply State.pulseAt_keeps C | apply keeps_ite | apply keeps_each)

theorem State.gateSource_keeps (C : Closed P) {s : State} (r : Nat) (g : Gate) (hs : P s) :
    P (State.gateSource s r g) := by
  unfold State.gateSource
  try dsimp only
  repeat' first
    | with_reducible assumption | intro _
    | with_reducible (first
      | exact rfl | apply State.pulseAt_keeps C | apply keeps_ite | apply keeps_each)

theorem State.pulseStart_keeps (C : Closed P) {s : State} (o : Fin 2) (hs : P s) : P (State.pulseStart s o) := by
  unfold State.pulseStart
  try dsimp only
  repeat' first
    | with_reducible assumption | intro _
    | with_reducible (first
      | exact rfl | apply State.trgUpd_keeps C | apply keeps_ite)

theorem State.pulseEnd_keeps (C : Closed P) {s : State} (o : Fin 2) (hs : P s) : P (State.pulseEnd s o) := by
  unfold State.pulseEnd
  try dsimp only
  repeat' first
    | with_reducible assumption | intro _
    | with_reducible (first
      | exact rfl | apply State.trgUpd_keeps C)

theorem State.trigRelease_keeps (C : Closed P) {s : State} (hs : P s) : P (State.trigRelease s) := by
  unfold State.trigRelease
  try dsimp only
  repeat' first
    | with_reducible assumption | intro _
    | with_reducible (first
      | exact rfl | apply State.trgUpd_keeps C)

theorem State.reqFull_keeps (C : Closed P) {s : State} (q : Treq) (hs : P s) : P (State.reqFull s q) := by
  unfold State.reqFull
  try dsimp only
  repeat' first
    | with_reducible assumption | intro _
    | with_reducible (first
      | exact rfl | apply State.bump_keeps C | apply State.wrB_keeps C | apply State.trgUpd_keeps C | apply C.wr
      | apply keeps_ite)

theorem State.reqIn_keeps (C : Closed P) {s : State} (q : Treq) (x : Nat) (hs : P s) : P (State.reqIn s q x) := by
  unfold State.reqIn
  try dsimp only
  repeat' first
    | with_reducible assumption | intro _
    | with_reducible (first
      | exact rfl | apply State.reqFull_keeps C | apply State.bump_keeps C | apply State.trgUpd_keeps C)
    | split

theorem State.trgEval_keeps (C : Closed P) {s : State} (n : Int) (tt : Int) (at_ : Nat) (hs : P s) :
    P (State.trgEval s n tt at_) := by
  unfold State.trgEval
  try dsimp only
  repeat' first
    | with_reducible assumption | intro _
    | with_reducible (first
      | exact rfl | apply State.reqIn_keeps C | apply keeps_foldl_pair | apply keeps_ite | apply keeps_each)

theorem State.trgSettle_keeps (C : Closed P) {s : State} (hs : P s) : P (State.trgSettle s) := by
  unfold State.trgSettle
  try dsimp only
  repeat' first
    | with_reducible assumption | intro _
    | with_reducible (first
      | exact rfl | apply State.trgUpd_keeps C | apply State.trgEval_keeps C | apply keeps_ite)
    | split

theorem State.trgInput_keeps (C : Closed P) {s : State} (i : Fin 5) (x : Int) (hs : P s) :
    P (State.trgInput s i x) := by
  unfold State.trgInput
  try dsimp only
  repeat' first
    | with_reducible assumption | intro _
    | with_reducible (first
      | exact rfl | apply State.trgSettle_keeps C | apply State.trgUpd_keeps C)

theorem State.trgExpiry_keeps (C : Closed P) {s : State} (i : Fin 5) (hs : P s) : P (State.trgExpiry s i) := by
  unfold State.trgExpiry
  try dsimp only
  repeat' first
    | with_reducible assumption | intro _
    | with_reducible (first
      | exact rfl | apply State.trgSettle_keeps C | apply State.trgUpd_keeps C | apply State.trgEval_keeps C
      | apply keeps_ite)
    | split

theorem State.rateCount_keeps (C : Closed P) {s : State} (r : Nat) (n : Nat) (hs : P s) :
    P (State.rateCount s r n) := by
  unfold State.rateCount
  try dsimp only
  repeat' first
    | with_reducible assumption | intro _
    | with_reducible (first
      | exact rfl | apply State.trgUpd_keeps C | apply keeps_ite | apply keeps_each)

theorem State.rateEval_keeps (C : Closed P) {s : State} (hs : P s) : P (State.rateEval s) := by
  unfold State.rateEval
  try dsimp only
  repeat' first
    | with_reducible assumption | intro _
    | with_reducible (first
      | exact rfl | apply State.trgUpd_keeps C | apply State.trgInput_keeps C | apply keeps_foldl_pair
      | apply keeps_ite | apply keeps_each)

theorem State.winTakeOpen_keeps (C : Closed P) {s : State} (n : Nat) (a : Nat) (id : Nat) (tick : Nat) (epoch : Nat) (hs : P s) :
    (PairP P) (State.winTakeOpen s n a id tick epoch) := by
  unfold State.winTakeOpen
  try dsimp only
  repeat' first
    | with_reducible assumption | intro _
    | with_reducible (first
      | exact rfl | apply State.setTake_keeps C | apply State.cabUpd_keeps C | apply keeps_ite | apply keeps_iteP
      | apply pairP_mk | apply keeps_getD)
    | split

theorem State.winOpen_keeps (C : Closed P) {s : State} (r : Fin 16) (d : Tdec) (late : Bool) (hs : P s) :
    P (State.winOpen s r d late) := by
  unfold State.winOpen
  try dsimp only
  repeat' first
    | with_reducible assumption | intro _
    | with_reducible (first
      | exact rfl | apply State.winTakeOpen_keeps C | apply State.bump_keeps C | apply State.ringUpd_keeps C
      | apply State.setEvbR_keeps C | apply State.winRun_keeps C | apply keeps_foldl_pair | apply keeps_ite
      | apply keeps_iteP | apply keeps_foldl | apply pairP_mk | apply keeps_getD)
    | split
    | with_reducible (first
      | refine of_pair (by assumption) ?_ | refine of_some (by assumption) ?_ | refine of_somePair (by assumption) ?_
      | apply keeps_fst)

theorem State.winSlate_keeps (C : Closed P) {s : State} (r : Fin 16) (v : WinTake) (trunc : Bool) (hs : P s) :
    P (State.winSlate s r v trunc) := by
  unfold State.winSlate
  try dsimp only
  repeat' first
    | with_reducible assumption | intro _
    | with_reducible (first
      | exact rfl | apply State.regionRec_keeps C | apply State.setEvbR_keeps C)

theorem State.winTakeClose_keeps (C : Closed P) {s : State} (n : Nat) (trunc : Bool) (hs : P s) :
    P (State.winTakeClose s n trunc) := by
  unfold State.winTakeClose
  try dsimp only
  repeat' first
    | with_reducible assumption | intro _
    | with_reducible (first
      | exact rfl | apply State.setTake_keeps C | apply keeps_ite)
    | split

theorem State.winDrained_keeps (C : Closed P) {s : State} (r : Fin 16) (hs : P s) : P (State.winDrained s r) := by
  unfold State.winDrained
  try dsimp only
  repeat' first
    | with_reducible assumption | intro _
    | with_reducible (first
      | exact rfl | apply State.setEvbR_keeps C | apply State.ringUpd_keeps C | apply State.evInput_keeps C
      | apply State.headFlag_keeps C | apply keeps_ite)
    | split
    | with_reducible (first
      | refine of_pair (by assumption) ?_ | refine of_some (by assumption) ?_ | refine of_somePair (by assumption) ?_
      | apply keeps_fst | apply keeps_mk C)

theorem State.trgFinal_keeps (C : Closed P) {s : State} (hs : P s) : P (State.trgFinal s) := by
  unfold State.trgFinal
  try dsimp only
  repeat' first
    | with_reducible assumption | intro _
    | with_reducible (first
      | exact rfl | apply State.trgUpd_keeps C | apply State.wrB_keeps C | apply C.wr | apply keeps_ite)

theorem State.windowDone_keeps (C : Closed P) {s : State} (r : Fin 16) (hs : P s) : P (State.windowDone s r) := by
  unfold State.windowDone
  try dsimp only
  repeat' first
    | with_reducible assumption | intro _
    | with_reducible (first
      | exact rfl | apply State.frontTo_keeps C | apply State.setEvbR_keeps C | apply State.winSlate_keeps C
      | apply State.winTakeClose_keeps C | apply State.winDrained_keeps C | apply State.winRun_keeps C
      | apply State.trgFinal_keeps C | apply keeps_foldl_pair | apply keeps_ite | apply keeps_foldl | apply pairP_mk
      | apply keeps_getD)
    | split

theorem State.winAbort_keeps (C : Closed P) {s : State} (r : Fin 16) (hs : P s) : P (State.winAbort s r) := by
  unfold State.winAbort
  try dsimp only
  repeat' first
    | with_reducible assumption | intro _
    | with_reducible (first
      | exact rfl | apply State.setEvbR_keeps C | apply State.winSlate_keeps C | apply State.winTakeClose_keeps C
      | apply State.trgFinal_keeps C | apply keeps_ite | apply keeps_each)

theorem State.decAct_keeps (C : Closed P) {s : State} (d : Tdec) (late : Bool) (hs : P s) :
    P (State.decAct s d late) := by
  unfold State.decAct
  try dsimp only
  repeat' first
    | with_reducible assumption | intro _
    | with_reducible (first
      | exact rfl | apply State.winOpen_keeps C | apply C.wr | apply keeps_ite | apply keeps_each)

theorem State.decHere_keeps (C : Closed P) {s : State} (d : Tdec) (hs : P s) : P (State.decHere s d) := by
  unfold State.decHere
  try dsimp only
  repeat' first
    | with_reducible assumption | intro _
    | with_reducible (first
      | exact rfl | apply State.setEvbR_keeps C | apply State.bump_keeps C | apply State.decAct_keeps C
      | apply State.trgUpd_keeps C | apply keeps_ite | apply keeps_each)

theorem State.trigAction_keeps (C : Closed P) {s : State} (hs : P s) : P (State.trigAction s) := by
  unfold State.trigAction
  try dsimp only
  repeat' first
    | with_reducible assumption | intro _
    | with_reducible (first
      | exact rfl | apply State.trgUpd_keeps C | apply State.decAct_keeps C | apply State.trigSource_keeps C
      | apply State.trgFinal_keeps C)
    | split

theorem State.trigSeq_keeps (C : Closed P) {s : State} (id : Nat) (hs : P s) : P (State.trigSeq s id) := by
  unfold State.trigSeq
  try dsimp only
  repeat' first
    | with_reducible assumption | intro _
    | with_reducible (first
      | exact rfl | apply State.emit_keeps C | apply State.trgUpd_keeps C | apply keeps_ite)

theorem State.decRx_keeps (C : Closed P) {s : State} (d : Tdec) (hs : P s) : P (State.decRx s d) := by
  unfold State.decRx
  try dsimp only
  repeat' first
    | with_reducible assumption | intro _
    | with_reducible (first
      | exact rfl | apply State.bump_keeps C | apply State.trigSeq_keeps C | apply State.trigSend_keeps C
      | apply State.decHere_keeps C | apply keeps_each)

theorem State.decIn_keeps (C : Closed P) {s : State} (q : Treq) (hs : P s) : P (State.decIn s q) := by
  unfold State.decIn
  try dsimp only
  repeat' first
    | with_reducible assumption | intro _
    | with_reducible (first
      | exact rfl | apply State.reqFull_keeps C | apply State.trgUpd_keeps C)
    | split

theorem State.mergeEnd_keeps (C : Closed P) {s : State} (hs : P s) : P (State.mergeEnd s) := by
  unfold State.mergeEnd
  try dsimp only
  repeat' first
    | with_reducible assumption | intro _
    | with_reducible (first
      | exact rfl | apply State.trgSettle_keeps C | apply State.trgUpd_keeps C | apply State.emit_keeps C
      | apply State.decIn_keeps C | apply State.bump_keeps C | apply State.trigSend_keeps C
      | apply State.trigSource_keeps C | apply State.trgFinal_keeps C | apply keeps_ite)
    | split

theorem State.decide__keeps (C : Closed P) {s : State} (hs : P s) : P (State.decide_ s) := by
  unfold State.decide_
  try dsimp only
  repeat' first
    | with_reducible assumption | intro _
    | with_reducible (first
      | exact rfl | apply State.trgUpd_keeps C | apply State.emit_keeps C | apply State.bump_keeps C
      | apply State.moduleRec_keeps C | apply State.trigSend_keeps C | apply State.trigSource_keeps C
      | apply State.decHere_keeps C | apply State.trgFinal_keeps C | apply keeps_ite | apply keeps_each)
    | split

theorem State.markSlate_keeps (C : Closed P) {s : State} (hs : P s) : P (State.markSlate s) := by
  unfold State.markSlate
  try dsimp only
  repeat' first
    | with_reducible assumption | intro _
    | with_reducible (first
      | exact rfl | apply State.moduleRec_keeps C)

theorem State.latDepth_keeps (C : Closed P) {s : State} (hs : P s) : P (State.latDepth s) := by
  unfold State.latDepth
  try dsimp only
  repeat' first
    | with_reducible assumption | intro _
    | with_reducible (first
      | exact rfl | apply State.wrB_keeps C | apply State.detect_keeps C | apply C.wr | apply keeps_ite)

theorem State.trgCommit_keeps (C : Closed P) {s : State} (k : Nat) (en : Bool) (pre : Nat) (post : Nat) (hs : P s) :
    P (State.trgCommit s k en pre post) := by
  unfold State.trgCommit
  try dsimp only
  repeat' first
    | with_reducible assumption | intro _
    | with_reducible (first
      | exact rfl | apply State.trgUpd_keeps C | apply State.wrB_keeps C | apply State.trgFinal_keeps C | apply C.wr
      | apply keeps_ite | apply keeps_iteP | apply keeps_each)

end Sys2Proof.Machine
end

