-- ==== Sys2Proof/Laws/KeepTree.lean ====
section
/-! SUPPORT. Each operation of the tree and its links keeps what no ordinary operation changes: one lemma for each. -/

namespace Sys2Proof.Machine

open Sys2Proof

variable {P : State → Prop}

theorem State.treUpd_keeps (C : Closed P) {s : State} (f : Tre → Tre) (hs : P s) : P (State.treUpd s f) := by
  unfold State.treUpd
  try dsimp only
  repeat' first
    | with_reducible assumption | intro _
    | with_reducible exact rfl
    | split
    | with_reducible (first
      | refine of_pair (by assumption) ?_ | refine of_some (by assumption) ?_ | refine of_somePair (by assumption) ?_
      | apply keeps_fst | apply keeps_mk C)

theorem State.setTreLink_keeps (C : Closed P) {s : State} (l : Fin 10) (x : TreLink) (hs : P s) :
    P (State.setTreLink s l x) := by
  unfold State.setTreLink
  try dsimp only
  repeat' first
    | with_reducible assumption | intro _
    | with_reducible (first
      | exact rfl | apply State.treUpd_keeps C)

theorem State.setRole_keeps (C : Closed P) {s : State} (l : Fin 10) (r : Nat) (hs : P s) : P (State.setRole s l r) := by
  unfold State.setRole
  try dsimp only
  repeat' first
    | with_reducible assumption | intro _
    | with_reducible (first
      | exact rfl | apply C.wr)

theorem State.topoFault_keeps (C : Closed P) {s : State} (lvl : Nat) (unit : Nat) (hs : P s) :
    P (State.topoFault s lvl unit) := by
  unfold State.topoFault
  try dsimp only
  repeat' first
    | with_reducible assumption | intro _
    | with_reducible (first
      | exact rfl | apply State.wrB_keeps C | apply State.detect_keeps C)

theorem State.putV0_keeps (C : Closed P) {s : State} (l : Fin 10) (m : V0) (hs : P s) : P (State.putV0 s l m) := by
  unfold State.putV0
  try dsimp only
  repeat' first
    | with_reducible assumption | intro _
    | with_reducible (first
      | exact rfl | apply State.setLink_keeps C)

theorem State.sendV0_keeps (C : Closed P) {s : State} (l : Fin 10) (m : V0) (hs : P s) : P (State.sendV0 s l m) := by
  unfold State.sendV0
  try dsimp only
  repeat' first
    | with_reducible assumption | intro _
    | with_reducible (first
      | exact rfl | apply State.treUpd_keeps C | apply State.putV0_keeps C | apply keeps_ite)

theorem State.pump0_keeps (C : Closed P) {s : State} (hs : P s) : P (State.pump0 s) := by
  unfold State.pump0
  try dsimp only
  repeat' first
    | with_reducible assumption | intro _
    | with_reducible (first
      | exact rfl | apply State.treUpd_keeps C | apply State.sendV0_keeps C | apply keeps_each)

theorem State.sendUp_keeps (C : Closed P) {s : State} (m : V0) (hs : P s) : P (State.sendUp s m) := by
  unfold State.sendUp
  try dsimp only
  repeat' first
    | with_reducible assumption | intro _
    | with_reducible (first
      | exact rfl | apply State.sendV0_keeps C)
    | split

theorem State.evPump_keeps (C : Closed P) {s : State} (hs : P s) : P (State.evPump s) := by
  unfold State.evPump
  try dsimp only
  repeat' first
    | with_reducible assumption | intro _
    | with_reducible (first
      | exact rfl | apply State.sendUp_keeps C | apply keeps_each)
    | split
    | with_reducible (first
      | refine of_pair (by assumption) ?_ | refine of_some (by assumption) ?_ | refine of_somePair (by assumption) ?_
      | apply keeps_fst | apply keeps_mk C)

theorem State.sendDown_keeps (C : Closed P) {s : State} (m : V0) (hs : P s) : P (State.sendDown s m) := by
  unfold State.sendDown
  try dsimp only
  repeat' first
    | with_reducible assumption | intro _
    | with_reducible (first
      | exact rfl | apply State.sendV0_keeps C | apply keeps_each)

theorem State.enumRegs_keeps (C : Closed P) {s : State} (hs : P s) : P (State.enumRegs s) := by
  unfold State.enumRegs
  try dsimp only
  repeat' first
    | with_reducible assumption | intro _
    | with_reducible (first
      | exact rfl | apply State.treUpd_keeps C | apply State.wrB_keeps C | apply State.latDepth_keeps C | apply C.wr
      | apply keeps_foldl_pair | apply keeps_ite)

theorem State.sendEnum_keeps (C : Closed P) {s : State} (l : Fin 10) (assign : Nat) (hs : P s) :
    P (State.sendEnum s l assign) := by
  unfold State.sendEnum
  try dsimp only
  repeat' first
    | with_reducible assumption | intro _
    | with_reducible (first
      | exact rfl | apply State.sendV0_keeps C)

theorem State.sendClaim_keeps (C : Closed P) {s : State} (l : Fin 10) (hs : P s) : P (State.sendClaim s l) := by
  unfold State.sendClaim
  try dsimp only
  repeat' first
    | with_reducible assumption | intro _
    | with_reducible (first
      | exact rfl | apply State.topoFault_keeps C | apply State.setTreLink_keeps C | apply State.setRole_keeps C
      | apply State.sendV0_keeps C | apply keeps_ite)

theorem State.stbyHere_keeps (C : Closed P) {s : State} (child : Nat) (grant : Bool) (hs : P s) :
    P (State.stbyHere s child grant) := by
  unfold State.stbyHere
  try dsimp only
  repeat' first
    | with_reducible assumption | intro _
    | with_reducible (first
      | exact rfl | apply State.wrB_keeps C | apply State.setRole_keeps C | apply State.sendV0_keeps C | apply C.wr
      | apply keeps_ite | apply keeps_each)

theorem State.subMap_keeps (C : Closed P) {s : State} (id : Nat) (f : SubEnt → SubEnt) (hs : P s) :
    P (State.subMap s id f) := by
  unfold State.subMap
  try dsimp only
  repeat' first
    | with_reducible assumption | intro _
    | with_reducible (first
      | exact rfl | apply State.treUpd_keeps C)

theorem State.stbySet_keeps (C : Closed P) {s : State} (id : Nat) (parent : Nat) (hs : P s) :
    P (State.stbySet s id parent) := by
  unfold State.stbySet
  try dsimp only
  repeat' first
    | with_reducible assumption | intro _
    | with_reducible (first
      | exact rfl | apply State.subMap_keeps C | apply State.stbyHere_keeps C | apply State.sendDown_keeps C)

theorem State.stbyRefuse_keeps (C : Closed P) {s : State} (e : SubEnt) (hs : P s) : P (State.stbyRefuse s e) := by
  unfold State.stbyRefuse
  try dsimp only
  repeat' first
    | with_reducible assumption | intro _
    | with_reducible (first
      | exact rfl | apply State.subMap_keeps C | apply State.wrB_keeps C | apply State.detect_keeps C)

theorem State.standbyCheck_keeps (C : Closed P) {s : State} (hs : P s) : P (State.standbyCheck s) := by
  unfold State.standbyCheck
  try dsimp only
  repeat' first
    | with_reducible assumption | intro _
    | with_reducible (first
      | exact rfl | apply State.stbyRefuse_keeps C | apply State.subMap_keeps C | apply State.stbySet_keeps C
      | apply keeps_ite | apply keeps_each)

theorem State.sendSet_keeps (C : Closed P) {s : State} (f : Nat) (tick : Nat) (hs : P s) :
    P (State.sendSet s f tick) := by
  unfold State.sendSet
  try dsimp only
  repeat' first
    | with_reducible assumption | intro _
    | with_reducible (first
      | exact rfl | apply State.sendV0_keeps C | apply keeps_each)

theorem State.featApply_keeps (C : Closed P) {s : State} (f : Nat) (tick : Nat) (hs : P s) :
    P (State.featApply s f tick) := by
  unfold State.featApply
  try dsimp only
  repeat' first
    | with_reducible assumption | intro _
    | with_reducible (first
      | exact rfl | apply State.wrB_keeps C | apply State.treUpd_keeps C | apply State.emit_keeps C
      | apply State.standbyCheck_keeps C | apply C.wr | apply keeps_ite)

theorem State.featBoundary_keeps (C : Closed P) {s : State} (k : Nat) (hs : P s) : P (State.featBoundary s k) := by
  unfold State.featBoundary
  try dsimp only
  repeat' first
    | with_reducible assumption | intro _
    | with_reducible (first
      | exact rfl | apply State.featApply_keeps C | apply keeps_ite)
    | split

theorem State.featCompute_keeps (C : Closed P) {s : State} (hs : P s) : P (State.featCompute s) := by
  unfold State.featCompute
  try dsimp only
  repeat' first
    | with_reducible assumption | intro _
    | with_reducible (first
      | exact rfl | apply State.treUpd_keeps C | apply State.wrB_keeps C | apply State.sendSet_keeps C
      | apply State.featApply_keeps C | apply C.wr | apply keeps_foldl_pair | apply keeps_ite)

theorem State.featRx_keeps (C : Closed P) {s : State} (f : Nat) (tick : Nat) (hs : P s) :
    P (State.featRx s f tick) := by
  unfold State.featRx
  try dsimp only
  repeat' first
    | with_reducible assumption | intro _
    | with_reducible (first
      | exact rfl | apply State.sendSet_keeps C | apply State.featApply_keeps C | apply State.treUpd_keeps C
      | apply State.wrB_keeps C | apply State.slipHeads_keeps C | apply C.wr | apply keeps_ite)

theorem State.subPut_keeps (C : Closed P) {s : State} (id : Nat) (link : Nat) (move : Bool) (f : SubEnt → SubEnt) (hs : P s) :
    P (State.subPut s id link move f) := by
  unfold State.subPut
  try dsimp only
  repeat' first
    | with_reducible assumption | intro _
    | with_reducible (first
      | exact rfl | apply State.subMap_keeps C | apply State.treUpd_keeps C | apply keeps_ite)

theorem State.subMove_keeps (C : Closed P) {s : State} (child : Nat) (parent : Nat) (link : Nat) (hs : P s) :
    P (State.subMove s child parent link) := by
  unfold State.subMove
  try dsimp only
  repeat' first
    | with_reducible assumption | intro _
    | with_reducible (first
      | exact rfl | apply State.treUpd_keeps C | apply State.subPut_keeps C)

theorem State.announce_keeps (C : Closed P) {s : State} (child : Nat) (no : Nat) (l : Fin 10) (hs : P s) :
    P (State.announce s child no l) := by
  unfold State.announce
  try dsimp only
  repeat' first
    | with_reducible assumption | intro _
    | with_reducible (first
      | exact rfl | apply State.subMove_keeps C | apply State.enumRegs_keeps C | apply State.standbyCheck_keeps C
      | apply State.featCompute_keeps C | apply State.sendUp_keeps C | apply keeps_ite)

theorem State.fwdRegs_keeps (C : Closed P) {s : State} (hs : P s) : P (State.fwdRegs s) := by
  unfold State.fwdRegs
  try dsimp only
  repeat' first
    | with_reducible assumption | intro _
    | with_reducible (first
      | exact rfl | apply State.cabUpd_keeps C | apply C.wr)

theorem State.holeRegs_keeps (C : Closed P) {s : State} (hs : P s) : P (State.holeRegs s) := by
  unfold State.holeRegs
  try dsimp only
  repeat' first
    | with_reducible assumption | intro _
    | with_reducible (first
      | exact rfl | apply C.wr)

theorem State.addHole_keeps (C : Closed P) {s : State} (h : Nat × Nat × Nat) (hs : P s) : P (State.addHole s h) := by
  unfold State.addHole
  try dsimp only
  repeat' first
    | with_reducible assumption | intro _
    | with_reducible (first
      | exact rfl | apply State.treUpd_keeps C | apply State.holeRegs_keeps C | apply State.wrB_keeps C | apply C.wr
      | apply keeps_ite)

theorem State.markTaken_keeps (C : Closed P) {s : State} (p : PktId) (hs : P s) : P (State.markTaken s p) := by
  unfold State.markTaken
  try dsimp only
  repeat' first
    | with_reducible assumption | intro _
    | with_reducible (first
      | exact rfl | apply State.setTreLink_keeps C | apply keeps_ite | apply keeps_iteP | apply keeps_each)

theorem State.confirmed_keeps (C : Closed P) {s : State} (l : Fin 10) (hs : P s) : P (State.confirmed s l) := by
  unfold State.confirmed
  try dsimp only
  repeat' first
    | with_reducible assumption | intro _
    | with_reducible (first
      | exact rfl | apply State.setTreLink_keeps C)

theorem State.confirmAll_keeps (C : Closed P) {s : State} (hs : P s) : P (State.confirmAll s) := by
  unfold State.confirmAll
  try dsimp only
  repeat' first
    | with_reducible assumption | intro _
    | with_reducible (first
      | exact rfl | apply State.confirmed_keeps C | apply keeps_each)

theorem State.confirmTx_keeps (C : Closed P) {s : State} (l : Fin 10) (hs : P s) : P (State.confirmTx s l) := by
  unfold State.confirmTx
  try dsimp only
  repeat' first
    | with_reducible assumption | intro _
    | with_reducible (first
      | exact rfl | apply State.confirmed_keeps C | apply State.setTreLink_keeps C | apply State.sendV0_keeps C
      | apply keeps_ite)

theorem State.confirmRx_keeps (C : Closed P) {s : State} (l : Fin 10) (conf : List Nat) (hs : P s) :
    P (State.confirmRx s l conf) := by
  unfold State.confirmRx
  try dsimp only
  repeat' first
    | with_reducible assumption | intro _
    | with_reducible (first
      | exact rfl | apply State.treUpd_keeps C | apply State.fwdRegs_keeps C | apply keeps_ite)

theorem State.horizonOn_keeps (C : Closed P) {s : State} (l : Fin 10) (k : Nat) (names : List (Nat × Nat × Nat)) (hs : P s) :
    P (State.horizonOn s l k names) := by
  unfold State.horizonOn
  try dsimp only
  repeat' first
    | with_reducible assumption | intro _
    | with_reducible (first
      | exact rfl | apply State.sendV0_keeps C | apply keeps_ite | apply keeps_iteP | apply keeps_each)

theorem State.horizonSend_keeps (C : Closed P) {s : State} (hs : P s) : P (State.horizonSend s) := by
  unfold State.horizonSend
  try dsimp only
  repeat' first
    | with_reducible assumption | intro _
    | with_reducible (first
      | exact rfl | apply State.treUpd_keeps C | apply State.horizonOn_keeps C | apply keeps_ite | apply keeps_each)
    | split

theorem State.horizonAdvance_keeps (C : Closed P) {s : State} (hs : P s) : P (State.horizonAdvance s) := by
  unfold State.horizonAdvance
  try dsimp only
  repeat' first
    | with_reducible assumption | intro _
    | with_reducible (first
      | exact rfl | apply State.treUpd_keeps C | apply State.horizonSend_keeps C | apply C.wr | apply keeps_foldl_pair
      | apply keeps_ite | apply keeps_foldl | apply pairP_mk)
    | split

theorem State.heldBelow_keeps (C : Closed P) {s : State} (input : Bool) (held : List (Nat × Nat × Nat)) (hs : P s) :
    P (State.heldBelow s input held) := by
  unfold State.heldBelow
  try dsimp only
  repeat' first
    | with_reducible assumption | intro _
    | with_reducible (first
      | exact rfl | apply State.addHole_keeps C | apply State.treUpd_keeps C | apply keeps_ite | apply keeps_each)

theorem State.horizonRx_keeps (C : Closed P) {s : State} (l : Fin 10) (k : Nat) (claim : Nat) (cnt : List Nat) (held : List (Nat × Nat × Nat)) (hs : P s) :
    P (State.horizonRx s l k claim cnt held) := by
  unfold State.horizonRx
  try dsimp only
  repeat' first
    | with_reducible assumption | intro _
    | with_reducible (first
      | exact rfl | apply State.setTreLink_keeps C | apply State.heldBelow_keeps C | apply C.wr | apply keeps_ite)
    | split

theorem State.subLost_keeps (C : Closed P) {s : State} (l : Fin 10) (hs : P s) : P (State.subLost s l) := by
  unfold State.subLost
  try dsimp only
  repeat' first
    | with_reducible assumption | intro _
    | with_reducible (first
      | exact rfl | apply State.treUpd_keeps C | apply State.featCompute_keeps C)

theorem State.giveUpGaps_keeps (C : Closed P) {s : State} (l : Fin 10) (a : Nat) (k : Nat) (hs : P s) :
    P (State.giveUpGaps s l a k) := by
  unfold State.giveUpGaps
  try dsimp only
  repeat' first
    | with_reducible assumption | intro _
    | with_reducible (first
      | exact rfl | apply State.moduleRec_keeps C | apply State.bump_keeps C | apply State.subLost_keeps C
      | apply keeps_ite | apply keeps_each)

theorem State.giveUp_keeps (C : Closed P) {s : State} (l : Fin 10) (hs : P s) : P (State.giveUp s l) := by
  unfold State.giveUp
  try dsimp only
  repeat' first
    | with_reducible assumption | intro _
    | with_reducible (first
      | exact rfl | apply State.giveUpGaps_keeps C | apply State.setTreLink_keeps C
      | apply State.horizonAdvance_keeps C | apply C.wr | apply keeps_ite)
    | split

theorem State.highUp_keeps (C : Closed P) {s : State} (p : PktId) (hs : P s) : P (State.highUp s p) := by
  unfold State.highUp
  try dsimp only
  repeat' first
    | with_reducible assumption | intro _
    | with_reducible (first
      | exact rfl | apply State.treUpd_keeps C)

theorem State.gapHeard_keeps (C : Closed P) {s : State} (d : List Nat) (hs : P s) : P (State.gapHeard s d) := by
  unfold State.gapHeard
  try dsimp only
  repeat' first
    | with_reducible assumption | intro _
    | with_reducible (first
      | exact rfl | apply State.treUpd_keeps C | apply State.featCompute_keeps C | apply keeps_ite)

theorem State.acceptPkt_keeps (C : Closed P) {s : State} (l : Fin 10) (use : Nat) (d : List Nat) (hs : P s) :
    (OptP P) (State.acceptPkt s l use d) := by
  unfold State.acceptPkt
  try dsimp only
  repeat' first
    | with_reducible assumption | intro _
    | with_reducible (first
      | exact rfl | apply State.putItem_keeps C | apply State.bump_keeps C | apply State.highUp_keeps C
      | apply State.gapHeard_keeps C | apply keeps_when | apply optP_none | apply optP_some | apply optP_mapS
      | apply optP_mapP)

theorem State.pktIn_keeps (C : Closed P) {s : State} (l : Fin 10) (use : Nat) (claim : Nat) (d : List Nat) (hs : P s) :
    OptP (PairP P) (State.pktIn s l use claim d) := by
  unfold State.pktIn
  try dsimp only
  repeat' first
    | with_reducible assumption | intro _
    | with_reducible (first
      | exact rfl | apply State.treUpd_keeps C | apply State.holeRegs_keeps C | apply State.bump_keeps C
      | apply State.acceptPkt_keeps C | apply keeps_ite | apply keeps_iteO | apply keeps_iteP | apply optP_none
      | apply optP_some | apply pairP_mk)
    | split
    | with_reducible (first
      | refine of_pair (by assumption) ?_ | refine of_some (by assumption) ?_)

theorem State.useSpace_keeps (C : Closed P) {s : State} (l : Fin 10) (v : Fin 5) (n : Int) (hs : P s) :
    P (State.useSpace s l v n) := by
  unfold State.useSpace
  try dsimp only
  repeat' first
    | with_reducible assumption | intro _
    | with_reducible (first
      | exact rfl | apply State.useArea_keeps C)

theorem State.dropBuf_keeps (C : Closed P) {s : State} (l : Fin 10) (v : Fin 5) (n : Nat) (hs : P s) :
    P (State.dropBuf s l v n) := by
  unfold State.dropBuf
  try dsimp only
  repeat' first
    | with_reducible assumption | intro _
    | with_reducible (first
      | exact rfl | apply State.useSpace_keeps C | apply State.setTreLink_keeps C)

theorem State.takePkt_keeps (C : Closed P) {s : State} (l : Fin 10) (v : Fin 5) (n : Nat) {f : State → Option (State × Bool)} (hs : P s) (hf : ∀ a, P a → OptP (PairP P) (f a)) :
    (OptP P) (State.takePkt s l v n f) := by
  unfold State.takePkt
  try dsimp only
  repeat' first
    | with_reducible assumption | intro _
    | with_reducible (first
      | exact rfl | apply hf | apply State.setTreLink_keeps C | apply State.useSpace_keeps C | apply keeps_ite
      | apply keeps_iteO | apply optP_none | apply optP_some | apply optP_mapS | apply optP_mapP)

theorem State.rxPump_keeps (C : Closed P) {s : State} (l : Fin 10) (v : Fin 5) (n0 : Nat) (hs : P s) :
    P (State.rxPump s l v n0) := by
  induction n0 generalizing s with
  | zero => exact hs
  | succ n ih =>
    unfold State.rxPump
    extract_lets b tag
    split
    · exact hs
    · exact State.dropBuf_keeps C _ _ _ hs
    · split
      · exact hs
      · split
        · exact hs
        · next x hx => exact ih (of_some hx (State.takePkt_keeps C _ _ _ hs (fun a ha => State.pktIn_keeps C _ _ _ _ ha)))

theorem State.rxPumps_keeps (C : Closed P) {s : State} (hs : P s) : P (State.rxPumps s) := by
  unfold State.rxPumps
  try dsimp only
  repeat' first
    | with_reducible assumption | intro _
    | with_reducible (first
      | exact rfl | apply State.rxPump_keeps C | apply State.confirmed_keeps C | apply keeps_each)

theorem State.rxBytes_keeps (C : Closed P) {s : State} (l : Fin 10) (v : Fin 5) (d : List Nat) (hs : P s) :
    P (State.rxBytes s l v d) := by
  unfold State.rxBytes
  try dsimp only
  repeat' first
    | with_reducible assumption | intro _
    | with_reducible (first
      | exact rfl | apply State.setTreLink_keeps C | apply State.useSpace_keeps C | apply State.rxPump_keeps C
      | apply State.confirmed_keeps C)

theorem State.evRx_keeps (C : Closed P) {s : State} (r : EvRec) (hs : P s) : P (State.evRx s r) := by
  unfold State.evRx
  try dsimp only
  repeat' first
    | with_reducible assumption | intro _
    | with_reducible (first
      | exact rfl | apply State.queueEv_keeps C | apply State.sendUp_keeps C)

theorem State.dropBufs_keeps (C : Closed P) {s : State} (l : Fin 10) (hs : P s) : P (State.dropBufs s l) := by
  unfold State.dropBufs
  try dsimp only
  repeat' first
    | with_reducible assumption | intro _
    | with_reducible (first
      | exact rfl | apply State.dropBuf_keeps C | apply keeps_each)

theorem State.treLinkNew_keeps (C : Closed P) {s : State} (l : Fin 10) (hs : P s) : P (State.treLinkNew s l) := by
  unfold State.treLinkNew
  try dsimp only
  repeat' first
    | with_reducible assumption | intro _
    | with_reducible (first
      | exact rfl | apply State.dropBufs_keeps C | apply State.setTreLink_keeps C)

theorem State.treLinkUp_keeps (C : Closed P) {s : State} (l : Fin 10) (hs : P s) : P (State.treLinkUp s l) := by
  unfold State.treLinkUp
  try dsimp only
  repeat' first
    | with_reducible assumption | intro _
    | with_reducible (first
      | exact rfl | apply State.treLinkNew_keeps C | apply State.setLink_keeps C | apply State.trigLinkUp_keeps C
      | apply State.sendEnum_keeps C | apply keeps_ite)

theorem State.cutPkts_keeps (C : Closed P) {s : State} (l : Fin 10) (hs : P s) : P (State.cutPkts s l) := by
  unfold State.cutPkts
  try dsimp only
  repeat' first
    | with_reducible assumption | intro _
    | with_reducible (first
      | exact rfl | apply State.setLink_keeps C | apply State.treUpd_keeps C | apply State.setItem_keeps C
      | apply State.sweep_keeps C | apply keeps_ite | apply keeps_each | apply keeps_when)
    | split

theorem State.sendLost_keeps (C : Closed P) {s : State} (again : Nat) (hs : P s) : P (State.sendLost s again) := by
  unfold State.sendLost
  try dsimp only
  repeat' first
    | with_reducible assumption | intro _
    | with_reducible (first
      | exact rfl | apply State.treUpd_keeps C | apply State.sendV0_keeps C)
    | split

theorem State.treLinkDown_keeps (C : Closed P) {s : State} (l : Fin 10) (hs : P s) : P (State.treLinkDown s l) := by
  unfold State.treLinkDown
  try dsimp only
  repeat' first
    | with_reducible assumption | intro _
    | with_reducible (first
      | exact rfl | apply State.clapLinkDown_keeps C | apply State.treLinkNew_keeps C | apply State.cutPkts_keeps C
      | apply State.setLink_keeps C | apply State.treUpd_keeps C | apply State.setRole_keeps C
      | apply State.wrB_keeps C | apply State.pump0_keeps C | apply State.clapSel_keeps C | apply State.bump_keeps C
      | apply State.sendLost_keeps C | apply State.topoFault_keeps C | apply C.wr | apply keeps_ite)

theorem State.sendReply_keeps (C : Closed P) {s : State} (l : Fin 10) (again : Nat) (hs : P s) :
    P (State.sendReply s l again) := by
  unfold State.sendReply
  try dsimp only
  repeat' first
    | with_reducible assumption | intro _
    | with_reducible (first
      | exact rfl | apply State.sendV0_keeps C | apply State.treUpd_keeps C | apply keeps_ite)

theorem State.enumRx_keeps (C : Closed P) {s : State} (l : Fin 10) (src : Nat) (root : Nat) (hop : Nat) (assign : Nat) (feat : Nat) (hs : P s) :
    P (State.enumRx s l src root hop assign feat) := by
  unfold State.enumRx
  try dsimp only
  repeat' first
    | with_reducible assumption | intro _
    | with_reducible (first
      | exact rfl | apply State.topoFault_keeps C | apply State.treUpd_keeps C | apply State.setTreLink_keeps C
      | apply State.sendEnum_keeps C | apply State.setRole_keeps C | apply State.sendReply_keeps C | apply C.wr
      | apply keeps_ite | apply keeps_each)
    | split

theorem State.subReply_keeps (C : Closed P) {s : State} (l : Fin 10) (id : Nat) (parent : Nat) (role : Nat) (feat : Nat) (fw : Nat) (hs : P s) :
    P (State.subReply s l id parent role feat fw) := by
  unfold State.subReply
  try dsimp only
  repeat' first
    | with_reducible assumption | intro _
    | with_reducible (first
      | exact rfl | apply State.subPut_keeps C)

theorem State.replyClaim_keeps (C : Closed P) {s : State} (l : Fin 10) (id : Nat) (parent : Nat) (role : Nat) (hs : P s) :
    P (State.replyClaim s l id parent role) := by
  unfold State.replyClaim
  try dsimp only
  repeat' first
    | with_reducible assumption | intro _
    | with_reducible (first
      | exact rfl | apply State.sendClaim_keeps C | apply keeps_ite)

theorem State.giveId_keeps (C : Closed P) {s : State} (l : Fin 10) (parent : Nat) (hs : P s) :
    P (State.giveId s l parent) := by
  unfold State.giveId
  try dsimp only
  repeat' first
    | with_reducible assumption | intro _
    | with_reducible (first
      | exact rfl | apply State.sendEnum_keeps C | apply State.treUpd_keeps C)
    | split

theorem State.regrant_keeps (C : Closed P) {s : State} (id : Nat) (parent : Nat) (was : Bool) (hs : P s) :
    P (State.regrant s id parent was) := by
  unfold State.regrant
  try dsimp only
  repeat' first
    | with_reducible assumption | intro _
    | with_reducible (first
      | exact rfl | apply State.stbySet_keeps C | apply keeps_ite)

theorem State.sendAdmit_keeps (C : Closed P) {s : State} (l : Fin 10) (id : Nat) (parent : Nat) (hs : P s) :
    P (State.sendAdmit s l id parent) := by
  unfold State.sendAdmit
  try dsimp only
  repeat' first
    | with_reducible assumption | intro _
    | with_reducible (first
      | exact rfl | apply State.treUpd_keeps C | apply State.sendV0_keeps C)

theorem State.admitRx_keeps (C : Closed P) {s : State} (id : Nat) (hs : P s) : P (State.admitRx s id) := by
  unfold State.admitRx
  try dsimp only
  repeat' first
    | with_reducible assumption | intro _
    | with_reducible (first
      | exact rfl | apply State.replyClaim_keeps C | apply keeps_each)

theorem State.enumReplyRx_keeps (C : Closed P) {s : State} (l : Fin 10) (id : Nat) (parent : Nat) (role : Nat) (feat : Nat) (fw : Nat) (rev : Nat) (hs : P s) :
    P (State.enumReplyRx s l id parent role feat fw rev) := by
  unfold State.enumReplyRx
  try dsimp only
  repeat' first
    | with_reducible assumption | intro _
    | with_reducible (first
      | exact rfl | apply State.treUpd_keeps C | apply State.giveId_keeps C | apply State.topoFault_keeps C
      | apply State.subReply_keeps C | apply State.replyClaim_keeps C | apply State.enumRegs_keeps C
      | apply State.standbyCheck_keeps C | apply State.regrant_keeps C | apply State.featCompute_keeps C
      | apply State.sendAdmit_keeps C | apply State.sendUp_keeps C | apply C.wr | apply keeps_ite | apply keeps_when)

theorem State.replyTimeout_keeps (C : Closed P) {s : State} (hs : P s) : P (State.replyTimeout s) := by
  unfold State.replyTimeout
  try dsimp only
  repeat' first
    | with_reducible assumption | intro _
    | with_reducible (first
      | exact rfl | apply State.treUpd_keeps C | apply State.sendReply_keeps C | apply State.topoFault_keeps C
      | apply keeps_ite)
    | split

theorem State.enumWait_keeps (C : Closed P) {s : State} (hs : P s) : P (State.enumWait s) := by
  unfold State.enumWait
  try dsimp only
  repeat' first
    | with_reducible assumption | intro _
    | with_reducible (first
      | exact rfl | apply State.treUpd_keeps C | apply State.topoFault_keeps C | apply keeps_ite)
    | split

theorem State.takeRootId_keeps (C : Closed P) {s : State} (hs : P s) : P (State.takeRootId s) := by
  unfold State.takeRootId
  try dsimp only
  repeat' first
    | with_reducible assumption | intro _
    | with_reducible (first
      | exact rfl | apply State.topoFault_keeps C | apply C.wr | apply keeps_ite)

theorem State.enumAll_keeps (C : Closed P) {s : State} (hs : P s) : P (State.enumAll s) := by
  unfold State.enumAll
  try dsimp only
  repeat' first
    | with_reducible assumption | intro _
    | with_reducible (first
      | exact rfl | apply State.treUpd_keeps C | apply State.sendEnum_keeps C | apply State.wrB_keeps C
      | apply State.enumRegs_keeps C | apply C.wr | apply keeps_each)

theorem State.enumStart_keeps (C : Closed P) {s : State} (hs : P s) : P (State.enumStart s) := by
  unfold State.enumStart
  try dsimp only
  repeat' first
    | with_reducible assumption | intro _
    | with_reducible (first
      | exact rfl | apply State.wrB_keeps C | apply State.takeRootId_keeps C | apply State.enumAll_keeps C
      | apply C.wr | apply keeps_ite)

theorem State.dropReplay_keeps (C : Closed P) {s : State} (hs : P s) : P (State.dropReplay s) := by
  unfold State.dropReplay
  try dsimp only
  repeat' first
    | with_reducible assumption | intro _
    | with_reducible (first
      | exact rfl | apply State.queUpd_keeps C | apply State.sweep_keeps C)

theorem State.claimTake_keeps (C : Closed P) {s : State} (l : Fin 10) (no : Nat) (hs : P s) :
    P (State.claimTake s l no) := by
  unfold State.claimTake
  try dsimp only
  repeat' first
    | with_reducible assumption | intro _
    | with_reducible (first
      | exact rfl | apply State.treUpd_keeps C | apply State.sendV0_keeps C | apply State.setRole_keeps C
      | apply State.wrB_keeps C | apply State.clapSel_keeps C | apply State.sendEnum_keeps C | apply C.wr
      | apply keeps_ite | apply keeps_each | apply keeps_when)
    | split

theorem State.claimRx_keeps (C : Closed P) {s : State} (l : Fin 10) (no : Nat) (hs : P s) :
    P (State.claimRx s l no) := by
  unfold State.claimRx
  try dsimp only
  repeat' first
    | with_reducible assumption | intro _
    | with_reducible (first
      | exact rfl | apply State.sendV0_keeps C | apply State.bump_keeps C | apply State.claimTake_keeps C
      | apply State.treUpd_keeps C | apply State.dropReplay_keeps C | apply State.fwdRegs_keeps C | apply keeps_ite)

theorem State.claimAckRx_keeps (C : Closed P) {s : State} (l : Fin 10) (no : Nat) (result : Nat) (held : Nat) (hs : P s) :
    P (State.claimAckRx s l no result held) := by
  unfold State.claimAckRx
  try dsimp only
  repeat' first
    | with_reducible assumption | intro _
    | with_reducible (first
      | exact rfl | apply State.setTreLink_keeps C | apply State.setRole_keeps C | apply State.announce_keeps C
      | apply State.sendEnum_keeps C | apply State.sendV0_keeps C | apply C.wr | apply keeps_ite)
    | split

theorem State.lostRx_keeps (C : Closed P) {s : State} (l : Fin 10) (held : Nat) (hs : P s) :
    P (State.lostRx s l held) := by
  unfold State.lostRx
  try dsimp only
  repeat' first
    | with_reducible assumption | intro _
    | with_reducible (first
      | exact rfl | apply State.setTreLink_keeps C | apply State.sendClaim_keeps C | apply keeps_ite)

theorem State.lostTimeout_keeps (C : Closed P) {s : State} (hs : P s) : P (State.lostTimeout s) := by
  unfold State.lostTimeout
  try dsimp only
  repeat' first
    | with_reducible assumption | intro _
    | with_reducible (first
      | exact rfl | apply State.sendLost_keeps C | apply State.treUpd_keeps C | apply State.topoFault_keeps C
      | apply keeps_ite)
    | split

theorem State.demoteRx_keeps (C : Closed P) {s : State} (l : Fin 10) (no : Nat) (hs : P s) :
    P (State.demoteRx s l no) := by
  unfold State.demoteRx
  try dsimp only
  repeat' first
    | with_reducible assumption | intro _
    | with_reducible (first
      | exact rfl | apply State.setTreLink_keeps C | apply State.setRole_keeps C | apply State.wrB_keeps C
      | apply C.wr | apply keeps_ite)

theorem State.stbyRx_keeps (C : Closed P) {s : State} (l : Fin 10) (child : Nat) (grant : Bool) (hs : P s) :
    P (State.stbyRx s l child grant) := by
  unfold State.stbyRx
  try dsimp only
  repeat' first
    | with_reducible assumption | intro _
    | with_reducible (first
      | exact rfl | apply State.setRole_keeps C | apply State.wrB_keeps C | apply State.stbyHere_keeps C
      | apply State.sendDown_keeps C | apply C.wr | apply keeps_ite)

theorem State.topoRx_keeps (C : Closed P) {s : State} (l : Fin 10) (child : Nat) (parent : Nat) (no : Nat) (hs : P s) :
    P (State.topoRx s l child parent no) := by
  unfold State.topoRx
  try dsimp only
  repeat' first
    | with_reducible assumption | intro _
    | with_reducible (first
      | exact rfl | apply State.subMove_keeps C | apply State.setTreLink_keeps C | apply State.enumRegs_keeps C
      | apply State.standbyCheck_keeps C | apply State.featCompute_keeps C | apply State.sendUp_keeps C
      | apply keeps_ite | apply keeps_each)

theorem State.claimReq_keeps (C : Closed P) {s : State} (m : Nat) (hs : P s) : P (State.claimReq s m) := by
  unfold State.claimReq
  try dsimp only
  repeat' first
    | with_reducible assumption | intro _
    | with_reducible (first
      | exact rfl | apply State.sendClaim_keeps C | apply State.wrB_keeps C | apply C.wr | apply keeps_ite
      | apply keeps_each)

theorem State.roleSw_keeps (C : Closed P) {s : State} (v : Nat) (hs : P s) : P (State.roleSw s v) := by
  unfold State.roleSw
  try dsimp only
  repeat' first
    | with_reducible assumption | intro _
    | with_reducible (first
      | exact rfl | apply State.wrB_keeps C | apply State.bootRec_keeps C | apply C.wr | apply keeps_ite)

theorem State.treStart_keeps (C : Closed P) {s : State} (hs : P s) : P (State.treStart s) := by
  unfold State.treStart
  try dsimp only
  repeat' first
    | with_reducible assumption | intro _
    | with_reducible (first
      | exact rfl | apply State.roleSw_keeps C | apply State.takeRootId_keeps C | apply C.wr | apply keeps_ite)
    | split
    | with_reducible (first
      | refine of_pair (by assumption) ?_ | refine of_some (by assumption) ?_ | refine of_somePair (by assumption) ?_
      | apply keeps_fst | apply keeps_mk C)

theorem State.treReady_keeps (C : Closed P) {s : State} (hs : P s) : P (State.treReady s) := by
  unfold State.treReady
  try dsimp only
  repeat' first
    | with_reducible assumption | intro _
    | with_reducible (first
      | exact rfl | apply State.treUpd_keeps C | apply State.sendEnum_keeps C | apply State.enumRegs_keeps C
      | apply State.featCompute_keeps C | apply keeps_ite | apply keeps_each)

theorem State.treCommit_keeps (C : Closed P) {s : State} (en : Bool) (stby : Bool) (hs : P s) :
    P (State.treCommit s en stby) := by
  unfold State.treCommit
  try dsimp only
  repeat' first
    | with_reducible assumption | intro _
    | with_reducible (first
      | exact rfl | apply State.treUpd_keeps C | apply State.wrB_keeps C | apply State.setRole_keeps C
      | apply State.sendUp_keeps C | apply State.sendReply_keeps C | apply C.wr | apply keeps_ite | apply keeps_each
      | apply keeps_when)

theorem State.treDrained_keeps (C : Closed P) {s : State} (hs : P s) : P (State.treDrained s) := by
  unfold State.treDrained
  try dsimp only
  repeat' first
    | with_reducible assumption | intro _
    | with_reducible (first
      | exact rfl | apply State.horizonSend_keeps C | apply State.treUpd_keeps C | apply State.wrB_keeps C
      | apply C.wr | apply keeps_ite)

theorem State.readUp_keeps (C : Closed P) {s : State} (ps : List PktId) (use : Nat) (hs : P s) :
    OptP (PairP P) (State.readUp s ps use) := by
  unfold State.readUp
  try dsimp only
  repeat' first
    | with_reducible assumption | intro _
    | with_reducible (first
      | exact rfl | apply State.putItem_keeps C | apply State.deliverPkt_keeps C | apply optP_none | apply optP_some
      | apply optP_mapS | apply optP_mapP | apply optP_map | apply pairP_mk)
    | split
    | with_reducible (first
      | refine of_pair (by assumption) ?_ | refine of_some (by assumption) ?_ | refine of_somePair (by assumption) ?_
      | apply keeps_fst)

theorem State.replayNext_keeps (C : Closed P) {s : State} (hs : P s) : P (State.replayNext s) := by
  unfold State.replayNext
  try dsimp only
  repeat' first
    | with_reducible assumption | intro _
    | with_reducible (first
      | exact rfl | apply State.readUp_keeps C | apply State.treUpd_keeps C | apply State.fwdRegs_keeps C
      | apply keeps_ite)
    | split
    | with_reducible (first
      | refine of_pair (by assumption) ?_ | refine of_some (by assumption) ?_ | refine of_somePair (by assumption) ?_)

theorem State.heldDelivery_keeps (C : Closed P) {s : State} (l : Fin 10) (hs : P s) : P (State.heldDelivery s l) := by
  unfold State.heldDelivery
  try dsimp only
  repeat' first
    | with_reducible assumption | intro _
    | with_reducible (first
      | exact rfl | apply State.readUp_keeps C | apply State.queUpd_keeps C | apply State.treUpd_keeps C
      | apply keeps_ite)
    | split
    | with_reducible (first
      | refine of_pair (by assumption) ?_ | refine of_some (by assumption) ?_ | refine of_somePair (by assumption) ?_)

theorem State.say_keeps (C : Closed P) {s : State} (o : Out) (hs : P s) : P (State.say s o) := by
  unfold State.say
  try dsimp only
  repeat' first
    | with_reducible assumption | intro _
    | with_reducible exact rfl
    | split
    | with_reducible (first
      | refine of_pair (by assumption) ?_ | refine of_some (by assumption) ?_ | refine of_somePair (by assumption) ?_
      | apply keeps_fst | apply keeps_mk C)

theorem State.lnkRegs_keeps (C : Closed P) {s : State} (l : Fin 10) (hs : P s) : P (State.lnkRegs s l) := by
  unfold State.lnkRegs
  try dsimp only
  repeat' first
    | with_reducible assumption | intro _
    | with_reducible (first
      | exact rfl | apply State.wrBit_keeps C | apply C.wr)

theorem State.misRegs_keeps (C : Closed P) {s : State} (l : Fin 10) (hs : P s) : P (State.misRegs s l) := by
  unfold State.misRegs
  try dsimp only
  repeat' first
    | with_reducible assumption | intro _
    | with_reducible (first
      | exact rfl | apply State.wrBit_keeps C)

theorem State.laneTaps_keeps (C : Closed P) {s : State} (l : Fin 10) (j : Fin 2) (pre : Nat) (post : Nat) (hs : P s) :
    P (State.laneTaps s l j pre post) := by
  unfold State.laneTaps
  try dsimp only
  repeat' first
    | with_reducible assumption | intro _
    | with_reducible (first
      | exact rfl | apply C.wr)

theorem State.enterHunt_keeps (C : Closed P) {s : State} (l : Fin 10) (j : Fin 2) (rate : Nat) (only : Bool) (hs : P s) :
    P (State.enterHunt s l j rate only) := by
  unfold State.enterHunt
  try dsimp only
  repeat' first
    | with_reducible assumption | intro _
    | with_reducible (first
      | exact rfl | apply State.setLane_keeps C | apply State.laneTaps_keeps C | apply State.wrB_keeps C
      | apply State.setLaneSt_keeps C | apply C.wr | apply keeps_ite | apply keeps_when)

theorem State.laneOff_keeps (C : Closed P) {s : State} (l : Fin 10) (j : Fin 2) (st : Nat) (hs : P s) :
    P (State.laneOff s l j st) := by
  unfold State.laneOff
  try dsimp only
  repeat' first
    | with_reducible assumption | intro _
    | with_reducible (first
      | exact rfl | apply State.setLane_keeps C | apply State.setLaneSt_keeps C | apply State.misRegs_keeps C)

theorem State.lanesOff_keeps (C : Closed P) {s : State} (l : Fin 10) (st : Nat) (c : Nat → Bool) (hs : P s) :
    P (State.lanesOff s l st c) := by
  unfold State.lanesOff
  try dsimp only
  repeat' first
    | with_reducible assumption | intro _
    | with_reducible (first
      | exact rfl | apply State.laneOff_keeps C | apply keeps_ite | apply keeps_each)

theorem State.huntLanes_keeps (C : Closed P) {s : State} (l : Fin 10) (hs : P s) : P (State.huntLanes s l) := by
  unfold State.huntLanes
  try dsimp only
  repeat' first
    | with_reducible assumption | intro _
    | with_reducible (first
      | exact rfl | apply State.enterHunt_keeps C | apply keeps_ite | apply keeps_each)

theorem State.portOff_keeps (C : Closed P) {s : State} (l : Fin 10) (hs : P s) : P (State.portOff s l) := by
  unfold State.portOff
  try dsimp only
  repeat' first
    | with_reducible assumption | intro _
    | with_reducible (first
      | exact rfl | apply State.lanesOff_keeps C | apply State.setLink_keeps C | apply State.lnkRegs_keeps C
      | apply State.huntLanes_keeps C | apply State.wrBit_keeps C | apply C.wr | apply keeps_ite)

theorem State.linkLost_keeps (C : Closed P) {s : State} (l : Fin 10) (hs : P s) : P (State.linkLost s l) := by
  unfold State.linkLost
  try dsimp only
  repeat' first
    | with_reducible assumption | intro _
    | with_reducible (first
      | exact rfl | apply State.wrBit_keeps C | apply State.treLinkDown_keeps C | apply State.lnkRegs_keeps C
      | apply State.portOff_keeps C | apply C.wr | apply keeps_ite)

theorem State.laneBlocks_keeps (C : Closed P) {s : State} (l : Fin 10) (j : Fin 2) (b : List Nat) (n : Nat) (hs : P s) :
    P (State.laneBlocks s l j b n) := by
  unfold State.laneBlocks
  try dsimp only
  repeat' first
    | with_reducible assumption | intro _
    | with_reducible (first
      | exact rfl | apply State.laneBlock_keeps C | apply keeps_each)

theorem State.sendHello_keeps (C : Closed P) {s : State} (l : Fin 10) (j : Fin 2) (leaving : Bool) (n : Nat) (hs : P s) :
    P (State.sendHello s l j leaving n) := by
  unfold State.sendHello
  try dsimp only
  repeat' first
    | with_reducible assumption | intro _
    | with_reducible (first
      | exact rfl | apply State.laneBlocks_keeps C | apply State.say_keeps C)

theorem State.sendRestripe_keeps (C : Closed P) {s : State} (l : Fin 10) (j : Fin 2) (lanes : Nat) (ack : Bool) (n : Nat) (hs : P s) :
    P (State.sendRestripe s l j lanes ack n) := by
  unfold State.sendRestripe
  try dsimp only
  repeat' first
    | with_reducible assumption | intro _
    | with_reducible (first
      | exact rfl | apply State.setLink_keeps C | apply State.laneBlocks_keeps C | apply State.say_keeps C)

theorem State.sendAck_keeps (C : Closed P) {s : State} (l : Fin 10) (hs : P s) : P (State.sendAck s l) := by
  unfold State.sendAck
  try dsimp only
  repeat' first
    | with_reducible assumption | intro _
    | with_reducible (first
      | exact rfl | apply State.streamBlock_keeps C | apply State.say_keeps C)

theorem State.sendNak_keeps (C : Closed P) {s : State} (l : Fin 10) (hs : P s) : P (State.sendNak s l) := by
  unfold State.sendNak
  try dsimp only
  repeat' first
    | with_reducible assumption | intro _
    | with_reducible (first
      | exact rfl | apply State.streamBlock_keeps C | apply State.say_keeps C)

theorem State.frameLine_keeps (C : Closed P) {s : State} (l : Fin 10) (f : TxFrame) (hs : P s) :
    P (State.frameLine s l f) := by
  unfold State.frameLine
  try dsimp only
  repeat' first
    | with_reducible assumption | intro _
    | with_reducible (first
      | exact rfl | apply State.streamBlock_keeps C | apply State.setLink_keeps C | apply keeps_each)

theorem State.replayFrom_keeps (C : Closed P) {s : State} (l : Fin 10) (n : Nat) (hs : P s) :
    P (State.replayFrom s l n) := by
  unfold State.replayFrom
  try dsimp only
  repeat' first
    | with_reducible assumption | intro _
    | with_reducible (first
      | exact rfl | apply State.bump_keeps C | apply State.frameLine_keeps C | apply State.say_keeps C
      | apply keeps_ite | apply keeps_each)

theorem State.restripe_keeps (C : Closed P) {s : State} (l : Fin 10) (j : Fin 2) (ack : Bool) (fault : Bool) (hs : P s) :
    P (State.restripe s l j ack fault) := by
  unfold State.restripe
  try dsimp only
  repeat' first
    | with_reducible assumption | intro _
    | with_reducible (first
      | exact rfl | apply State.setLink_keeps C | apply State.sendRestripe_keeps C | apply State.sendNak_keeps C
      | apply State.replayFrom_keeps C | apply State.bump_keeps C | apply State.lnkRegs_keeps C
      | apply State.wrBit_keeps C | apply State.wrB_keeps C | apply State.detect_keeps C | apply C.wr
      | apply keeps_ite)

theorem State.laneLeave_keeps (C : Closed P) {s : State} (l : Fin 10) (j : Fin 2) (st : Nat) (ack : Bool) (fault : Bool) (hs : P s) :
    P (State.laneLeave s l j st ack fault) := by
  unfold State.laneLeave
  try dsimp only
  repeat' first
    | with_reducible assumption | intro _
    | with_reducible (first
      | exact rfl | apply State.laneOff_keeps C | apply State.lnkRegs_keeps C | apply State.restripe_keeps C
      | apply State.linkLost_keeps C | apply State.setLink_keeps C | apply keeps_ite | apply keeps_when)

theorem State.laneFail_keeps (C : Closed P) {s : State} (l : Fin 10) (j : Fin 2) (double : Bool) (hs : P s) :
    P (State.laneFail s l j double) := by
  unfold State.laneFail
  try dsimp only
  repeat' first
    | with_reducible assumption | intro _
    | with_reducible (first
      | exact rfl | apply State.bump_keeps C | apply State.laneLeave_keeps C | apply C.wr | apply keeps_ite)

theorem State.takeDownQuiet_keeps (C : Closed P) {s : State} (l : Fin 10) (hs : P s) : P (State.takeDownQuiet s l) := by
  unfold State.takeDownQuiet
  try dsimp only
  repeat' first
    | with_reducible assumption | intro _
    | with_reducible (first
      | exact rfl | apply State.lanesOff_keeps C | apply State.linkLost_keeps C)

theorem State.takeDown_keeps (C : Closed P) {s : State} (l : Fin 10) (hs : P s) : P (State.takeDown s l) := by
  unfold State.takeDown
  try dsimp only
  repeat' first
    | with_reducible assumption | intro _
    | with_reducible (first
      | exact rfl | apply State.takeDownQuiet_keeps C | apply State.detect_keeps C)

theorem State.laneUp_keeps (C : Closed P) {s : State} (l : Fin 10) (j : Fin 2) (hs : P s) : P (State.laneUp s l j) := by
  unfold State.laneUp
  try dsimp only
  repeat' first
    | with_reducible assumption | intro _
    | with_reducible (first
      | exact rfl | apply State.setLaneSt_keeps C | apply State.lnkRegs_keeps C | apply State.treLinkUp_keeps C
      | apply C.wr | apply keeps_ite)

theorem State.laneReady_keeps (C : Closed P) {s : State} (l : Fin 10) (j : Fin 2) (hs : P s) :
    P (State.laneReady s l j) := by
  unfold State.laneReady
  try dsimp only
  repeat' first
    | with_reducible assumption | intro _
    | with_reducible (first
      | exact rfl | apply State.setLaneSt_keeps C | apply State.setLink_keeps C | apply State.sendRestripe_keeps C
      | apply State.laneUp_keeps C | apply keeps_ite)

theorem State.sweepStart_keeps (C : Closed P) {s : State} (l : Fin 10) (j : Fin 2) (hs : P s) :
    P (State.sweepStart s l j) := by
  unfold State.sweepStart
  try dsimp only
  repeat' first
    | with_reducible assumption | intro _
    | with_reducible (first
      | exact rfl | apply State.laneTaps_keeps C | apply State.wrB_keeps C | apply State.setLane_keeps C | apply C.wr)

theorem State.enterCompat_keeps (C : Closed P) {s : State} (l : Fin 10) (j : Fin 2) (hs : P s) :
    P (State.enterCompat s l j) := by
  unfold State.enterCompat
  try dsimp only
  repeat' first
    | with_reducible assumption | intro _
    | with_reducible (first
      | exact rfl | apply State.sweepStart_keeps C | apply State.setLaneSt_keeps C)

theorem State.sendTrain_keeps (C : Closed P) {s : State} (l : Fin 10) (j : Fin 2) (hs : P s) :
    P (State.sendTrain s l j) := by
  unfold State.sendTrain
  try dsimp only
  repeat' first
    | with_reducible assumption | intro _
    | with_reducible (first
      | exact rfl | apply State.laneBlock_keeps C | apply State.say_keeps C)

theorem State.trainAsk_keeps (C : Closed P) {s : State} (l : Fin 10) (j : Fin 2) (hs : P s) :
    P (State.trainAsk s l j) := by
  unfold State.trainAsk
  try dsimp only
  repeat' first
    | with_reducible assumption | intro _
    | with_reducible (first
      | exact rfl | apply State.fresh_keeps C | apply State.setLane_keeps C)

theorem State.enterTrain_keeps (C : Closed P) {s : State} (l : Fin 10) (j : Fin 2) (hs : P s) :
    P (State.enterTrain s l j) := by
  unfold State.enterTrain
  try dsimp only
  repeat' first
    | with_reducible assumption | intro _
    | with_reducible (first
      | exact rfl | apply State.laneTaps_keeps C | apply State.wrB_keeps C | apply State.setLane_keeps C
      | apply State.setLaneSt_keeps C | apply State.trainAsk_keeps C | apply State.sendTrain_keeps C)

theorem State.helloNext_keeps (C : Closed P) {s : State} (l : Fin 10) (j : Fin 2) (hs : P s) :
    P (State.helloNext s l j) := by
  unfold State.helloNext
  try dsimp only
  repeat' first
    | with_reducible assumption | intro _
    | with_reducible (first
      | exact rfl | apply State.setLane_keeps C | apply State.enterTrain_keeps C | apply State.enterCompat_keeps C
      | apply keeps_ite)

theorem State.blockLock_keeps (C : Closed P) {s : State} (l : Fin 10) (j : Fin 2) (hs : P s) :
    P (State.blockLock s l j) := by
  unfold State.blockLock
  try dsimp only
  repeat' first
    | with_reducible assumption | intro _
    | with_reducible (first
      | exact rfl | apply State.fresh_keeps C | apply State.setLane_keeps C | apply State.setLaneSt_keeps C
      | apply C.wr | apply keeps_ite)

theorem State.laneLoss_keeps (C : Closed P) {s : State} (l : Fin 10) (j : Fin 2) (los : Bool) (hs : P s) :
    P (State.laneLoss s l j los) := by
  unfold State.laneLoss
  try dsimp only
  repeat' first
    | with_reducible assumption | intro _
    | with_reducible (first
      | exact rfl | apply State.bump_keeps C | apply State.setLane_keeps C | apply State.laneFail_keeps C
      | apply keeps_ite)

theorem State.lockLoss_keeps (C : Closed P) {s : State} (l : Fin 10) (j : Fin 2) (hs : P s) :
    P (State.lockLoss s l j) := by
  unfold State.lockLoss
  try dsimp only
  repeat' first
    | with_reducible assumption | intro _
    | with_reducible (first
      | exact rfl | apply State.laneLoss_keeps C | apply keeps_ite)

theorem State.signalBack_keeps (C : Closed P) {s : State} (l : Fin 10) (j : Fin 2) (hs : P s) :
    P (State.signalBack s l j) := by
  unfold State.signalBack
  try dsimp only
  repeat' first
    | with_reducible assumption | intro _
    | with_reducible (first
      | exact rfl | apply State.setLane_keeps C)

theorem State.huntAt_keeps (C : Closed P) {s : State} (l : Fin 10) (j : Fin 2) (rate : Nat) (hs : P s) :
    P (State.huntAt s l j rate) := by
  unfold State.huntAt
  try dsimp only
  repeat' first
    | with_reducible assumption | intro _
    | with_reducible (first
      | exact rfl | apply State.setLane_keeps C)

theorem State.rateSwitch_keeps (C : Closed P) {s : State} (l : Fin 10) (j : Fin 2) (hs : P s) :
    P (State.rateSwitch s l j) := by
  unfold State.rateSwitch
  try dsimp only
  repeat' first
    | with_reducible assumption | intro _
    | with_reducible (first
      | exact rfl | apply State.huntAt_keeps C | apply keeps_ite)

theorem State.helloTx_keeps (C : Closed P) {s : State} (l : Fin 10) (j : Fin 2) (hs : P s) :
    P (State.helloTx s l j) := by
  unfold State.helloTx
  try dsimp only
  repeat' first
    | with_reducible assumption | intro _
    | with_reducible (first
      | exact rfl | apply State.setLane_keeps C | apply State.sendHello_keeps C | apply State.helloNext_keeps C
      | apply keeps_ite)

theorem State.helloRx_keeps (C : Closed P) {s : State} (l : Fin 10) (j : Fin 2) (h : Hello) (hs : P s) :
    P (State.helloRx s l j h) := by
  unfold State.helloRx
  try dsimp only
  repeat' first
    | with_reducible assumption | intro _
    | with_reducible (first
      | exact rfl | apply State.setLane_keeps C | apply State.wrB_keeps C | apply State.misRegs_keeps C
      | apply State.detect_keeps C | apply State.helloNext_keeps C | apply C.wr | apply keeps_ite)

theorem State.revSwitch_keeps (C : Closed P) {s : State} (l : Fin 10) (j : Fin 2) (hs : P s) :
    P (State.revSwitch s l j) := by
  unfold State.revSwitch
  try dsimp only
  repeat' first
    | with_reducible assumption | intro _
    | with_reducible (first
      | exact rfl | apply State.enterHunt_keeps C | apply keeps_ite)
    | split

theorem State.relockTimeout_keeps (C : Closed P) {s : State} (l : Fin 10) (j : Fin 2) (hs : P s) :
    P (State.relockTimeout s l j) := by
  unfold State.relockTimeout
  try dsimp only
  repeat' first
    | with_reducible assumption | intro _
    | with_reducible (first
      | exact rfl | apply State.laneFail_keeps C | apply keeps_ite)

theorem State.helloTimeout_keeps (C : Closed P) {s : State} (l : Fin 10) (j : Fin 2) (hs : P s) :
    P (State.helloTimeout s l j) := by
  unfold State.helloTimeout
  try dsimp only
  repeat' first
    | with_reducible assumption | intro _
    | with_reducible (first
      | exact rfl | apply State.laneFail_keeps C | apply State.sweepStart_keeps C | apply keeps_ite)

theorem State.trainNext_keeps (C : Closed P) {s : State} (l : Fin 10) (j : Fin 2) (hs : P s) :
    P (State.trainNext s l j) := by
  unfold State.trainNext
  try dsimp only
  repeat' first
    | with_reducible assumption | intro _
    | with_reducible (first
      | exact rfl | apply State.laneReady_keeps C | apply keeps_ite)

theorem State.tapApply_keeps (C : Closed P) {s : State} (l : Fin 10) (j : Fin 2) (m : Train) (hs : P s) :
    P (State.tapApply s l j m) := by
  unfold State.tapApply
  try dsimp only
  repeat' first
    | with_reducible assumption | intro _
    | with_reducible (first
      | exact rfl | apply State.laneTaps_keeps C | apply State.setLane_keeps C)

theorem State.trainRx_keeps (C : Closed P) {s : State} (l : Fin 10) (j : Fin 2) (m : Train) (hs : P s) :
    P (State.trainRx s l j m) := by
  unfold State.trainRx
  try dsimp only
  repeat' first
    | with_reducible assumption | intro _
    | with_reducible (first
      | exact rfl | apply State.setLane_keeps C | apply State.tapApply_keeps C | apply State.trainAsk_keeps C
      | apply State.sendTrain_keeps C | apply State.trainNext_keeps C | apply keeps_ite | apply keeps_iteP
      | apply keeps_when)

theorem State.rxReady_keeps (C : Closed P) {s : State} (l : Fin 10) (j : Fin 2) (hs : P s) :
    P (State.rxReady s l j) := by
  unfold State.rxReady
  try dsimp only
  repeat' first
    | with_reducible assumption | intro _
    | with_reducible (first
      | exact rfl | apply State.setLane_keeps C | apply State.sendTrain_keeps C | apply State.trainNext_keeps C
      | apply keeps_ite)

theorem State.trainTimeout_keeps (C : Closed P) {s : State} (l : Fin 10) (j : Fin 2) (hs : P s) :
    P (State.trainTimeout s l j) := by
  unfold State.trainTimeout
  try dsimp only
  repeat' first
    | with_reducible assumption | intro _
    | with_reducible (first
      | exact rfl | apply State.laneFail_keeps C | apply State.enterCompat_keeps C | apply keeps_ite)
    | split

theorem State.sweepEnd_keeps (C : Closed P) {s : State} (l : Fin 10) (j : Fin 2) (w : List (Nat × Nat)) (hs : P s) :
    P (State.sweepEnd s l j w) := by
  unfold State.sweepEnd
  try dsimp only
  repeat' first
    | with_reducible assumption | intro _
    | with_reducible (first
      | exact rfl | apply State.setLane_keeps C | apply State.laneReady_keeps C | apply State.laneFail_keeps C
      | apply C.wr | apply keeps_ite | apply keeps_iteP)
    | split

theorem State.sweepStep_keeps (C : Closed P) {s : State} (l : Fin 10) (j : Fin 2) (bad : Nat) (margin : Nat) (hs : P s) :
    P (State.sweepStep s l j bad margin) := by
  unfold State.sweepStep
  try dsimp only
  repeat' first
    | with_reducible assumption | intro _
    | with_reducible (first
      | exact rfl | apply State.sweep_keeps C | apply State.setLane_keeps C | apply State.sweepEnd_keeps C
      | apply C.wr | apply keeps_ite)

theorem State.backoffDone_keeps (C : Closed P) {s : State} (l : Fin 10) (j : Fin 2) (hs : P s) :
    P (State.backoffDone s l j) := by
  unfold State.backoffDone
  try dsimp only
  repeat' first
    | with_reducible assumption | intro _
    | with_reducible (first
      | exact rfl | apply State.enterHunt_keeps C | apply State.setLaneSt_keeps C | apply keeps_ite)

theorem State.headerIn_keeps (C : Closed P) {s : State} (l : Fin 10) (j : Fin 2) (ok : Bool) (hs : P s) :
    P (State.headerIn s l j ok) := by
  unfold State.headerIn
  try dsimp only
  repeat' first
    | with_reducible assumption | intro _
    | with_reducible (first
      | exact rfl | apply State.setLane_keeps C | apply keeps_ite)

theorem State.lineBlock_keeps (C : Closed P) {s : State} (l : Fin 10) (j : Fin 2) (line : List Bool) (hs : P s) :
    P (State.lineBlock s l j line) := by
  unfold State.lineBlock
  try dsimp only
  repeat' first
    | with_reducible assumption | intro _
    | with_reducible (first
      | exact rfl | apply State.bump_keeps C | apply State.setLane_keeps C | apply State.headerIn_keeps C
      | apply keeps_ite)

theorem State.fillRx_keeps (C : Closed P) {s : State} (l : Fin 10) (j : Fin 2) (scr : Nat) (n : Nat) (hs : P s) :
    P (State.fillRx s l j scr n) := by
  unfold State.fillRx
  try dsimp only
  repeat' first
    | with_reducible assumption | intro _
    | with_reducible (first
      | exact rfl | apply State.bump_keeps C | apply State.setLane_keeps C | apply keeps_ite)
    | split

theorem State.portDrained_keeps (C : Closed P) {s : State} (l : Fin 10) (hs : P s) : P (State.portDrained s l) := by
  unfold State.portDrained
  try dsimp only
  repeat' first
    | with_reducible assumption | intro _
    | with_reducible (first
      | exact rfl | apply State.sendHello_keeps C | apply State.linkLost_keeps C | apply State.portOff_keeps C
      | apply keeps_ite | apply keeps_each)

theorem State.lnkAck_keeps (C : Closed P) {s : State} (l : Fin 10) (n : Nat) (hs : P s) : P (State.lnkAck s l n) := by
  unfold State.lnkAck
  try dsimp only
  repeat' first
    | with_reducible assumption | intro _
    | with_reducible (first
      | exact rfl | apply State.setLink_keeps C | apply State.markTaken_keeps C | apply State.confirmAll_keeps C
      | apply State.portDrained_keeps C | apply keeps_ite | apply keeps_each)

theorem State.replay_keeps (C : Closed P) {s : State} (l : Fin 10) (n : Nat) (hs : P s) : P (State.replay s l n) := by
  unfold State.replay
  try dsimp only
  repeat' first
    | with_reducible assumption | intro _
    | with_reducible (first
      | exact rfl | apply State.setLink_keeps C | apply State.replayFrom_keeps C | apply State.takeDown_keeps C
      | apply keeps_ite)

theorem State.nakRx_keeps (C : Closed P) {s : State} (l : Fin 10) (n : Nat) (hs : P s) : P (State.nakRx s l n) := by
  unfold State.nakRx
  try dsimp only
  repeat' first
    | with_reducible assumption | intro _
    | with_reducible (first
      | exact rfl | apply State.replay_keeps C | apply keeps_ite)

theorem State.replayTimeout_keeps (C : Closed P) {s : State} (l : Fin 10) (hs : P s) : P (State.replayTimeout s l) := by
  unfold State.replayTimeout
  try dsimp only
  repeat' first
    | with_reducible assumption | intro _
    | with_reducible (first
      | exact rfl | apply State.replay_keeps C | apply keeps_ite)

theorem State.ackTx_keeps (C : Closed P) {s : State} (l : Fin 10) (hs : P s) : P (State.ackTx s l) := by
  unfold State.ackTx
  try dsimp only
  repeat' first
    | with_reducible assumption | intro _
    | with_reducible (first
      | exact rfl | apply State.setLink_keeps C | apply State.sendAck_keeps C | apply keeps_ite)
    | split

theorem State.putFrame_keeps (C : Closed P) {s : State} (l : Fin 10) (v : Fin 5) (d : List Nat) (pid : Option PktId) (item : Option V0) (o : Out) (hs : P s) :
    P (State.putFrame s l v d pid item o) := by
  unfold State.putFrame
  try dsimp only
  repeat' first
    | with_reducible assumption | intro _
    | with_reducible (first
      | exact rfl | apply State.replay_keeps C | apply State.setLink_keeps C | apply State.bump_keeps C
      | apply State.frameLine_keeps C | apply State.say_keeps C)

theorem State.frameWait_keeps (C : Closed P) {s : State} (l : Fin 10) (hs : P s) : P (State.frameWait s l) := by
  unfold State.frameWait
  try dsimp only
  repeat' first
    | with_reducible assumption | intro _
    | with_reducible (first
      | exact rfl | apply State.setLink_keeps C)

theorem State.dropStale_keeps (C : Closed P) {s : State} (l : Fin 10) (hs : P s) : P (State.dropStale s l) := by
  unfold State.dropStale
  try dsimp only
  repeat' first
    | with_reducible assumption | intro _
    | with_reducible (first
      | exact rfl | apply State.setLink_keeps C)

theorem State.nextPkt_keeps (C : Closed P) {s : State} (l : Fin 10) (hs : P s) : P (State.nextPkt s l) := by
  unfold State.nextPkt
  try dsimp only
  repeat' first
    | with_reducible assumption | intro _
    | with_reducible (first
      | exact rfl | apply State.replayNext_keeps C | apply State.dropStale_keeps C | apply State.setLink_keeps C
      | apply keeps_ite)
    | split

theorem State.logSent_keeps (C : Closed P) {s : State} (l : Fin 10) (v : Fin 5) (k : TxPkt) (stop : Nat) (hs : P s) :
    P (State.logSent s l v k stop) := by
  unfold State.logSent
  try dsimp only
  repeat' first
    | with_reducible assumption | intro _
    | with_reducible (first
      | exact rfl | apply State.treUpd_keeps C | apply State.fwdRegs_keeps C)

theorem State.tookLeft_keeps (C : Closed P) {s : State} (k : TxPkt) (left : Nat) (hs : P s) :
    P (State.tookLeft s k left) := by
  unfold State.tookLeft
  try dsimp only
  repeat' first
    | with_reducible assumption | intro _
    | with_reducible (first
      | exact rfl | apply State.tookUp_keeps C)
    | split

theorem State.sendPkt_keeps (C : Closed P) {s : State} (l : Fin 10) (v : Fin 5) (k : TxPkt) (hs : P s) :
    P (State.sendPkt s l v k) := by
  unfold State.sendPkt
  try dsimp only
  repeat' first
    | with_reducible assumption | intro _
    | with_reducible (first
      | exact rfl | apply State.putFrame_keeps C | apply State.setTreLink_keeps C | apply State.setLink_keeps C
      | apply State.tookLeft_keeps C | apply State.logSent_keeps C | apply State.horizonSend_keeps C
      | apply State.treDrained_keeps C | apply State.portDrained_keeps C | apply keeps_ite)

theorem State.vc0Tx_keeps (C : Closed P) {s : State} (l : Fin 10) (m : V0) (rest : List V0) (hs : P s) :
    P (State.vc0Tx s l m rest) := by
  unfold State.vc0Tx
  try dsimp only
  repeat' first
    | with_reducible assumption | intro _
    | with_reducible (first
      | exact rfl | apply State.starveCount_keeps C | apply State.setLink_keeps C | apply State.putFrame_keeps C
      | apply State.frameWait_keeps C | apply keeps_ite | apply keeps_when)

theorem State.dataTx_keeps (C : Closed P) {s : State} (l : Fin 10) (low : Bool) (hs : P s) :
    (OptP P) (State.dataTx s l low) := by
  unfold State.dataTx
  try dsimp only
  repeat' first
    | with_reducible assumption | intro _
    | with_reducible (first
      | exact rfl | apply State.nextPkt_keeps C | apply State.sendPkt_keeps C | apply State.frameWait_keeps C
      | apply keeps_ite | apply keeps_iteO | apply keeps_iteP | apply optP_none | apply optP_some | apply optP_mapS
      | apply optP_mapP | apply optP_map)
    | split

theorem State.frameTx_keeps (C : Closed P) {s : State} (l : Fin 10) (hs : P s) : P (State.frameTx s l) := by
  unfold State.frameTx
  try dsimp only
  repeat' first
    | with_reducible assumption | intro _
    | with_reducible (first
      | exact rfl | apply State.evPump_keeps C | apply State.pump0_keeps C | apply State.dataTx_keeps C
      | apply State.vc0Tx_keeps C | apply keeps_ite | apply keeps_getD)
    | split

theorem State.itemRx_keeps (C : Closed P) {s : State} (l : Fin 10) (d : List Nat) (hs : P s) :
    P (State.itemRx s l d) := by
  unfold State.itemRx
  try dsimp only
  repeat' first
    | with_reducible assumption | intro _
    | with_reducible (first
      | exact rfl | apply State.evRx_keeps C | apply State.bump_keeps C | apply keeps_ite)

theorem State.frameIn_keeps (C : Closed P) {s : State} (l : Fin 10) (vc : Nat) (n : Nat) (d : List Nat) (hs : P s) :
    P (State.frameIn s l vc n d) := by
  unfold State.frameIn
  try dsimp only
  repeat' first
    | with_reducible assumption | intro _
    | with_reducible (first
      | exact rfl | apply State.wrB_keeps C | apply State.bump_keeps C | apply State.detect_keeps C
      | apply State.setLink_keeps C | apply State.itemRx_keeps C | apply State.rxBytes_keeps C | apply C.wr
      | apply keeps_ite)
    | split

theorem State.frameRx_keeps (C : Closed P) {s : State} (l : Fin 10) (f : RxFrame) (hs : P s) :
    P (State.frameRx s l f) := by
  unfold State.frameRx
  try dsimp only
  repeat' first
    | with_reducible assumption | intro _
    | with_reducible (first
      | exact rfl | apply State.lnkAck_keeps C | apply State.setLink_keeps C | apply State.frameIn_keeps C
      | apply State.bump_keeps C | apply State.sendNak_keeps C | apply keeps_ite)

theorem State.heartTx_keeps (C : Closed P) {s : State} (l : Fin 10) (hs : P s) : P (State.heartTx s l) := by
  unfold State.heartTx
  try dsimp only
  repeat' first
    | with_reducible assumption | intro _
    | with_reducible (first
      | exact rfl | apply State.rxPumps_keeps C | apply State.setLink_keeps C | apply State.streamBlock_keeps C
      | apply State.say_keeps C | apply keeps_ite | apply keeps_on)

theorem State.heartRx_keeps (C : Closed P) {s : State} (l : Fin 10) (h : Heart) (hs : P s) :
    P (State.heartRx s l h) := by
  unfold State.heartRx
  try dsimp only
  repeat' first
    | with_reducible assumption | intro _
    | with_reducible (first
      | exact rfl | apply State.setLink_keeps C | apply State.lnkAck_keeps C | apply State.trigAck_keeps C
      | apply keeps_ite)

theorem State.silent_keeps (C : Closed P) {s : State} (l : Fin 10) (hs : P s) : P (State.silent s l) := by
  unfold State.silent
  try dsimp only
  repeat' first
    | with_reducible assumption | intro _
    | with_reducible (first
      | exact rfl | apply State.wrB_keeps C | apply State.takeDown_keeps C | apply C.wr | apply keeps_ite)

theorem State.alignTx_keeps (C : Closed P) {s : State} (l : Fin 10) (hs : P s) : P (State.alignTx s l) := by
  unfold State.alignTx
  try dsimp only
  repeat' first
    | with_reducible assumption | intro _
    | with_reducible (first
      | exact rfl | apply State.alignPair_keeps C | apply keeps_ite)

theorem State.alignRx_keeps (C : Closed P) {s : State} (l : Fin 10) (a : Nat) (b : Nat) (skew : Nat) (hs : P s) :
    P (State.alignRx s l a b skew) := by
  unfold State.alignRx
  try dsimp only
  repeat' first
    | with_reducible assumption | intro _
    | with_reducible (first
      | exact rfl | apply State.setLink_keeps C | apply State.laneUp_keeps C | apply State.wrB_keeps C | apply C.wr
      | apply keeps_ite)

theorem State.restripeRx_keeps (C : Closed P) {s : State} (l : Fin 10) (lanes : Nat) (ack : Bool) (hs : P s) :
    P (State.restripeRx s l lanes ack) := by
  unfold State.restripeRx
  try dsimp only
  repeat' first
    | with_reducible assumption | intro _
    | with_reducible (first
      | exact rfl | apply State.setLink_keeps C | apply State.sendRestripe_keeps C | apply State.setLane_keeps C
      | apply State.restripe_keeps C | apply keeps_ite)

theorem State.laneRejoin_keeps (C : Closed P) {s : State} (l : Fin 10) (hs : P s) : P (State.laneRejoin s l) := by
  unfold State.laneRejoin
  try dsimp only
  repeat' first
    | with_reducible assumption | intro _
    | with_reducible (first
      | exact rfl | apply State.laneUp_keeps C | apply State.setLink_keeps C | apply State.wrBit_keeps C
      | apply State.emit_keeps C | apply C.wr | apply keeps_ite)
    | split

theorem State.lnkLanes_keeps (C : Closed P) {s : State} (hs : P s) : P (State.lnkLanes s) := by
  unfold State.lnkLanes
  try dsimp only
  repeat' first
    | with_reducible assumption | intro _
    | with_reducible (first
      | exact rfl | apply State.huntLanes_keeps C | apply State.laneLeave_keeps C | apply State.laneUp_keeps C
      | apply keeps_ite | apply keeps_each)

theorem State.revCap_keeps (C : Closed P) {s : State} (hs : P s) : P (State.revCap s) := by
  unfold State.revCap
  try dsimp only
  repeat' first
    | with_reducible assumption | intro _
    | with_reducible (first
      | exact rfl | apply State.huntAt_keeps C | apply keeps_ite | apply keeps_each)

theorem State.lnkCommit_keeps (C : Closed P) {s : State} (en : Nat) (hs : P s) : P (State.lnkCommit s en) := by
  unfold State.lnkCommit
  try dsimp only
  repeat' first
    | with_reducible assumption | intro _
    | with_reducible (first
      | exact rfl | apply State.setLink_keeps C | apply State.wrBit_keeps C | apply State.portDrained_keeps C
      | apply State.lnkLanes_keeps C | apply State.revCap_keeps C | apply C.wr | apply keeps_ite | apply keeps_each)

theorem State.portAbort_keeps (C : Closed P) {s : State} (m : Nat) (hs : P s) : P (State.portAbort s m) := by
  unfold State.portAbort
  try dsimp only
  repeat' first
    | with_reducible assumption | intro _
    | with_reducible (first
      | exact rfl | apply State.cutPkts_keeps C | apply State.setLink_keeps C | apply State.lanesOff_keeps C
      | apply State.linkLost_keeps C | apply State.lnkRegs_keeps C | apply C.wr | apply C.wrSh | apply keeps_ite
      | apply keeps_each)

theorem State.retrain_keeps (C : Closed P) {s : State} (l : Fin 10) (m : Nat) (hs : P s) : P (State.retrain s l m) := by
  unfold State.retrain
  try dsimp only
  repeat' first
    | with_reducible assumption | intro _
    | with_reducible (first
      | exact rfl | apply State.laneFail_keeps C | apply keeps_ite | apply keeps_each)

theorem State.lnkSafe_keeps (C : Closed P) {s : State} (hs : P s) : P (State.lnkSafe s) := by
  unfold State.lnkSafe
  try dsimp only
  repeat' first
    | with_reducible assumption | intro _
    | with_reducible (first
      | exact rfl | apply State.setLaneSt_keeps C | apply State.lnkRegs_keeps C | apply keeps_ite | apply keeps_each)

theorem State.lnkSafeExit_keeps (C : Closed P) {s : State} (hs : P s) : P (State.lnkSafeExit s) := by
  unfold State.lnkSafeExit
  try dsimp only
  repeat' first
    | with_reducible assumption | intro _
    | with_reducible (first
      | exact rfl | apply State.setLaneSt_keeps C | apply State.lnkRegs_keeps C | apply State.setLink_keeps C
      | apply State.treLinkUp_keeps C | apply keeps_ite | apply keeps_each)

theorem State.lnkResume_keeps (C : Closed P) {s : State} (hs : P s) : P (State.lnkResume s) := by
  unfold State.lnkResume
  try dsimp only
  repeat' first
    | with_reducible assumption | intro _
    | with_reducible (first
      | exact rfl | apply State.trigPump_keeps C | apply keeps_each)

theorem State.lnkStart_keeps (C : Closed P) {s : State} (hs : P s) : P (State.lnkStart s) := by
  unfold State.lnkStart
  try dsimp only
  repeat' first
    | with_reducible assumption | intro _
    | with_reducible (first
      | exact rfl | apply State.lnkLanes_keeps C)
    | split
    | with_reducible (first
      | refine of_pair (by assumption) ?_ | refine of_some (by assumption) ?_ | refine of_somePair (by assumption) ?_
      | apply keeps_fst | apply keeps_mk C)

end Sys2Proof.Machine
end

