-- ==== Sys2Proof/Laws/KeepUnits.lean ====
section
/-! SUPPORT. Each operation of housekeeping, faults and the host interface keeps what no ordinary operation changes: one lemma for each. -/

namespace Sys2Proof.Machine

open Sys2Proof

variable {P : State → Prop}

theorem State.upRtd_keeps (C : Closed P) {s : State} (c : Fin 4) (f : RtdCh → RtdCh) (hs : P s) :
    P (State.upRtd s c f) := by
  unfold State.upRtd
  try dsimp only
  repeat' first
    | with_reducible assumption | intro _
    | with_reducible exact rfl
    | split
    | with_reducible (first
      | refine of_pair (by assumption) ?_ | refine of_some (by assumption) ?_ | refine of_somePair (by assumption) ?_
      | apply keeps_fst | apply keeps_mk C)

theorem State.hkaStale_keeps (C : Closed P) {s : State} (hs : P s) : P (State.hkaStale s) := by
  unfold State.hkaStale
  try dsimp only
  repeat' first
    | with_reducible assumption | intro _
    | with_reducible (first
      | exact rfl | apply State.wrB_keeps C | apply C.wr | apply keeps_each | apply keeps_when)

theorem State.crossing_keeps (C : Closed P) {s : State} (i : Nat) (high : Bool) (lvl : Nat) (x : Int) (hs : P s) :
    P (State.crossing s i high lvl x) := by
  unfold State.crossing
  try dsimp only
  repeat' first
    | with_reducible assumption | intro _
    | with_reducible (first
      | exact rfl | apply State.emit_keeps C | apply State.detect_keeps C | apply keeps_ite)

theorem State.check4_keeps (C : Closed P) {s : State} (i : Fin 32) (x : Int) (hs : P s) : P (State.check4 s i x) := by
  unfold State.check4
  try dsimp only
  repeat' first
    | with_reducible assumption | intro _
    | with_reducible (first
      | exact rfl | apply State.upIn_keeps C | apply State.crossing_keeps C | apply keeps_when)
    | split

theorem State.check1_keeps (C : Closed P) {s : State} (i : Fin 32) (x : Int) (hs : P s) : P (State.check1 s i x) := by
  unfold State.check1
  try dsimp only
  repeat' first
    | with_reducible assumption | intro _
    | with_reducible (first
      | exact rfl | apply State.upIn_keeps C | apply State.crossing_keeps C | apply keeps_when)
    | split

theorem State.clampSeen_keeps (C : Closed P) {s : State} (i : Fin 32) (hs : P s) : P (State.clampSeen s i) := by
  unfold State.clampSeen
  try dsimp only
  repeat' first
    | with_reducible assumption | intro _
    | with_reducible (first
      | exact rfl | apply State.wrBit_keeps C | apply State.wrB_keeps C)

theorem State.biasSample_keeps (C : Closed P) {s : State} (i : Fin 32) (v : HkaSample) (hs : P s) :
    P (State.biasSample s i v) := by
  unfold State.biasSample
  try dsimp only
  repeat' first
    | with_reducible assumption | intro _
    | with_reducible (first
      | exact rfl | apply State.upIn_keeps C | apply State.wrB_keeps C)

theorem State.plainSample_keeps (C : Closed P) {s : State} (i : Fin 32) (v : HkaSample) (hs : P s) :
    P (State.plainSample s i v) := by
  unfold State.plainSample
  try dsimp only
  repeat' first
    | with_reducible assumption | intro _
    | with_reducible (first
      | exact rfl | apply State.upIn_keeps C | apply State.check4_keeps C | apply keeps_ite)

theorem State.rtdSample_keeps (C : Closed P) {s : State} (c : Fin 4) (v : HkaSample) (hs : P s) :
    P (State.rtdSample s c v) := by
  unfold State.rtdSample
  try dsimp only
  repeat' first
    | with_reducible assumption | intro _
    | with_reducible (first
      | exact rfl | apply State.upRtd_keeps C | apply keeps_ite)

theorem State.hkaSample_keeps (C : Closed P) {s : State} (i : Fin 32) (v : HkaSample) (hs : P s) :
    P (State.hkaSample s i v) := by
  unfold State.hkaSample
  try dsimp only
  repeat' first
    | with_reducible assumption | intro _
    | with_reducible (first
      | exact rfl | apply State.clampSeen_keeps C | apply State.rtdSample_keeps C | apply State.biasSample_keeps C
      | apply State.plainSample_keeps C | apply keeps_ite | apply keeps_when)

theorem State.hkaPublish_keeps (C : Closed P) {s : State} (i : Fin 32) (hs : P s) : P (State.hkaPublish s i) := by
  unfold State.hkaPublish
  try dsimp only
  repeat' first
    | with_reducible assumption | intro _
    | with_reducible (first
      | exact rfl | apply State.upIn_keeps C | apply State.wrS_keeps C | apply State.wrB_keeps C
      | apply State.check1_keeps C | apply C.wr | apply keeps_ite | apply keeps_when)

theorem State.hkaClose_keeps (C : Closed P) {s : State} (hs : P s) : P (State.hkaClose s) := by
  unfold State.hkaClose
  try dsimp only
  repeat' first
    | with_reducible assumption | intro _
    | with_reducible (first
      | exact rfl | apply State.hkaPublish_keeps C | apply keeps_ite | apply keeps_each)

theorem State.hkaTick_keeps (C : Closed P) {s : State} (hs : P s) : P (State.hkaTick s) := by
  unfold State.hkaTick
  try dsimp only
  repeat' first
    | with_reducible assumption | intro _
    | with_reducible (first
      | exact rfl | apply State.hkaStale_keeps C | apply State.hkaClose_keeps C | apply keeps_ite | apply keeps_on)
    | split
    | with_reducible (first
      | refine of_pair (by assumption) ?_ | refine of_some (by assumption) ?_ | refine of_somePair (by assumption) ?_
      | apply keeps_fst | apply keeps_mk C)

theorem State.scanPos_keeps (C : Closed P) {s : State} (v : Vector HkaSample 32) (m : Nat) (hs : P s) :
    P (State.scanPos s v m) := by
  unfold State.scanPos
  try dsimp only
  repeat' first
    | with_reducible assumption | intro _
    | with_reducible (first
      | exact rfl | apply State.hkaSample_keeps C | apply keeps_each)
    | split
    | with_reducible (first
      | refine of_pair (by assumption) ?_ | refine of_some (by assumption) ?_ | refine of_somePair (by assumption) ?_
      | apply keeps_fst | apply keeps_mk C)

theorem State.hkaScan_keeps (C : Closed P) {s : State} (v : Vector HkaSample 32) (hs : P s) :
    P (State.hkaScan s v) := by
  unfold State.hkaScan
  try dsimp only
  repeat' first
    | with_reducible assumption | intro _
    | with_reducible (first
      | exact rfl | apply State.hkaClose_keeps C | apply State.scanPos_keeps C | apply State.hkaStale_keeps C
      | apply keeps_ite | apply keeps_each)
    | split
    | with_reducible (first
      | refine of_pair (by assumption) ?_ | refine of_some (by assumption) ?_ | refine of_somePair (by assumption) ?_
      | apply keeps_fst | apply keeps_mk C)

theorem State.rtdPublish_keeps (C : Closed P) {s : State} (c : Fin 4) (t : Int) (hs : P s) :
    P (State.rtdPublish s c t) := by
  unfold State.rtdPublish
  try dsimp only
  repeat' first
    | with_reducible assumption | intro _
    | with_reducible (first
      | exact rfl | apply State.wrS_keeps C | apply State.wrB_keeps C | apply State.upIn_keeps C
      | apply State.upRtd_keeps C | apply State.emit_keeps C | apply C.wr | apply keeps_ite | apply keeps_when)

theorem State.rtdEnd_keeps (C : Closed P) {s : State} (c : Fin 4) (hs : P s) : P (State.rtdEnd s c) := by
  unfold State.rtdEnd
  try dsimp only
  repeat' first
    | with_reducible assumption | intro _
    | with_reducible (first
      | exact rfl | apply State.upRtd_keeps C | apply State.wrB_keeps C | apply State.wrBit_keeps C
      | apply State.rtdPublish_keeps C | apply C.wr | apply keeps_ite | apply keeps_iteP | apply keeps_on
      | apply keeps_when)
    | split

theorem State.rtdReversal_keeps (C : Closed P) {s : State} (hs : P s) : P (State.rtdReversal s) := by
  unfold State.rtdReversal
  try dsimp only
  repeat' first
    | with_reducible assumption | intro _
    | with_reducible (first
      | exact rfl | apply keeps_ite)
    | split
    | with_reducible (first
      | refine of_pair (by assumption) ?_ | refine of_some (by assumption) ?_ | refine of_somePair (by assumption) ?_
      | apply keeps_fst | apply keeps_mk C)

theorem State.rtdPeriodEnd_keeps (C : Closed P) {s : State} (hs : P s) : P (State.rtdPeriodEnd s) := by
  unfold State.rtdPeriodEnd
  try dsimp only
  repeat' first
    | with_reducible assumption | intro _
    | with_reducible (first
      | exact rfl | apply State.rtdEnd_keeps C | apply State.hkaStale_keeps C | apply keeps_ite | apply keeps_each)
    | split
    | with_reducible (first
      | refine of_pair (by assumption) ?_ | refine of_some (by assumption) ?_ | refine of_somePair (by assumption) ?_
      | apply keeps_fst | apply keeps_mk C)

theorem State.rtdOpen_keeps (C : Closed P) {s : State} (c : Fin 4) (hs : P s) : P (State.rtdOpen s c) := by
  unfold State.rtdOpen
  try dsimp only
  repeat' first
    | with_reducible assumption | intro _
    | with_reducible (first
      | exact rfl | apply State.wrB_keeps C | apply State.wrBit_keeps C | apply State.upRtd_keeps C
      | apply State.detect_keeps C)

theorem State.rtdMonitor_keeps (C : Closed P) {s : State} (dev : BitVec 4) (hs : P s) : P (State.rtdMonitor s dev) := by
  unfold State.rtdMonitor
  try dsimp only
  repeat' first
    | with_reducible assumption | intro _
    | with_reducible (first
      | exact rfl | apply State.hkaStale_keeps C | apply State.upRtd_keeps C | apply State.rtdOpen_keeps C
      | apply keeps_ite | apply keeps_each | apply keeps_on | apply keeps_when)

theorem State.cutPeriods_keeps (C : Closed P) {s : State} (hs : P s) : P (State.cutPeriods s) := by
  unfold State.cutPeriods
  try dsimp only
  repeat' first
    | with_reducible assumption | intro _
    | with_reducible (first
      | exact rfl | apply State.upRtd_keeps C | apply keeps_each)

theorem State.calStart_keeps (C : Closed P) {s : State} (startup : Bool) (hs : P s) : P (State.calStart s startup) := by
  unfold State.calStart
  try dsimp only
  repeat' first
    | with_reducible assumption | intro _
    | with_reducible (first
      | exact rfl | apply State.wrB_keeps C | apply State.cutPeriods_keeps C | apply C.wr)
    | split
    | with_reducible (first
      | refine of_pair (by assumption) ?_ | refine of_some (by assumption) ?_ | refine of_somePair (by assumption) ?_
      | apply keeps_fst | apply keeps_mk C)

theorem State.calAsk_keeps (C : Closed P) {s : State} (hs : P s) : P (State.calAsk s) := by
  unfold State.calAsk
  try dsimp only
  repeat' first
    | with_reducible assumption | intro _
    | with_reducible (first
      | exact rfl | apply State.calStart_keeps C | apply keeps_ite)
    | split
    | with_reducible (first
      | refine of_pair (by assumption) ?_ | refine of_some (by assumption) ?_ | refine of_somePair (by assumption) ?_
      | apply keeps_fst | apply keeps_mk C)

theorem State.scanOn_keeps (C : Closed P) {s : State} (hs : P s) : P (State.scanOn s) := by
  unfold State.scanOn
  try dsimp only
  repeat' first
    | with_reducible assumption | intro _
    | with_reducible exact rfl
    | split
    | with_reducible (first
      | refine of_pair (by assumption) ?_ | refine of_some (by assumption) ?_ | refine of_somePair (by assumption) ?_
      | apply keeps_fst | apply keeps_mk C)

theorem State.calPeriodic_keeps (C : Closed P) {s : State} (hs : P s) : P (State.calPeriodic s) := by
  unfold State.calPeriodic
  try dsimp only
  repeat' first
    | with_reducible assumption | intro _
    | with_reducible (first
      | exact rfl | apply State.calAsk_keeps C | apply keeps_ite | apply keeps_when)
    | split
    | with_reducible (first
      | refine of_pair (by assumption) ?_ | refine of_some (by assumption) ?_ | refine of_somePair (by assumption) ?_
      | apply keeps_fst | apply keeps_mk C)

theorem State.calReq_keeps (C : Closed P) {s : State} (hs : P s) : P (State.calReq s) := by
  unfold State.calReq
  try dsimp only
  repeat' first
    | with_reducible assumption | intro _
    | with_reducible (first
      | exact rfl | apply State.bump_keeps C | apply State.calAsk_keeps C | apply keeps_ite)

theorem State.setFactors_keeps (C : Closed P) {s : State} (c : Fin 4) (f : CalFactors) (hs : P s) :
    P (State.setFactors s c f) := by
  unfold State.setFactors
  try dsimp only
  repeat' first
    | with_reducible assumption | intro _
    | with_reducible (first
      | exact rfl | apply State.wrS_keeps C | apply C.wr)

theorem State.calDone_keeps (C : Closed P) {s : State} (f : Vector CalFactors 4) (hs : P s) :
    P (State.calDone s f) := by
  unfold State.calDone
  try dsimp only
  repeat' first
    | with_reducible assumption | intro _
    | with_reducible (first
      | exact rfl | apply State.wrB_keeps C | apply State.scanOn_keeps C | apply State.setFactors_keeps C
      | apply State.emit_keeps C | apply State.detect_keeps C | apply C.wr | apply keeps_ite | apply keeps_each)
    | split
    | with_reducible (first
      | refine of_pair (by assumption) ?_ | refine of_some (by assumption) ?_ | refine of_somePair (by assumption) ?_
      | apply keeps_fst | apply keeps_mk C)

theorem State.injReq_keeps (C : Closed P) {s : State} (hs : P s) : P (State.injReq s) := by
  unfold State.injReq
  try dsimp only
  repeat' first
    | with_reducible assumption | intro _
    | with_reducible (first
      | exact rfl | apply State.bump_keeps C | apply State.wrB_keeps C | apply State.scanOn_keeps C
      | apply State.emit_keeps C | apply C.wr | apply keeps_ite)
    | split
    | with_reducible (first
      | refine of_pair (by assumption) ?_ | refine of_some (by assumption) ?_ | refine of_somePair (by assumption) ?_
      | apply keeps_fst | apply keeps_mk C)

theorem State.injDone_keeps (C : Closed P) {s : State} (v : HkaSample) (hs : P s) : P (State.injDone s v) := by
  unfold State.injDone
  try dsimp only
  repeat' first
    | with_reducible assumption | intro _
    | with_reducible (first
      | exact rfl | apply State.wrB_keeps C | apply State.wrS_keeps C | apply State.wrBit_keeps C
      | apply State.calStart_keeps C | apply C.wr | apply keeps_ite | apply keeps_when)

theorem State.tecStart_keeps (C : Closed P) {s : State} (hs : P s) : P (State.tecStart s) := by
  unfold State.tecStart
  try dsimp only
  repeat' first
    | with_reducible assumption | intro _
    | with_reducible (first
      | exact rfl | apply keeps_ite)
    | split
    | with_reducible (first
      | refine of_pair (by assumption) ?_ | refine of_some (by assumption) ?_ | refine of_somePair (by assumption) ?_
      | apply keeps_fst | apply keeps_mk C)

theorem State.hkaCommit_keeps (C : Closed P) {s : State} (mains : Nat) (en : Nat) (per : Nat) (hs : P s) :
    P (State.hkaCommit s mains en per) := by
  unfold State.hkaCommit
  try dsimp only
  repeat' first
    | with_reducible assumption | intro _
    | with_reducible (first
      | exact rfl | apply State.upRtd_keeps C | apply keeps_ite | apply keeps_each | apply keeps_on)
    | split
    | with_reducible (first
      | refine of_pair (by assumption) ?_ | refine of_some (by assumption) ?_ | refine of_somePair (by assumption) ?_
      | apply keeps_fst | apply keeps_mk C)

theorem State.hkaStart_keeps (C : Closed P) {s : State} (hs : P s) : P (State.hkaStart s) := by
  unfold State.hkaStart
  try dsimp only
  repeat' first
    | with_reducible assumption | intro _
    | with_reducible (first
      | exact rfl | apply State.upRtd_keeps C | apply State.calStart_keeps C | apply keeps_each)
    | split
    | with_reducible (first
      | refine of_pair (by assumption) ?_ | refine of_some (by assumption) ?_ | refine of_somePair (by assumption) ?_
      | apply keeps_fst | apply keeps_mk C)

theorem State.feAbort_keeps (C : Closed P) {s : State} (r : Fin 16) (hs : P s) : P (State.feAbort s r) := by
  unfold State.feAbort
  try dsimp only
  repeat' first
    | with_reducible assumption | intro _
    | with_reducible (first
      | exact rfl | apply State.dropWins_keeps C | apply State.cutTransfer_keeps C | apply State.setPfeR_keeps C
      | apply State.wrB_keeps C)

theorem State.tdcAbort_keeps (C : Closed P) {s : State} (r : Fin 16) (hs : P s) : P (State.tdcAbort s r) := by
  unfold State.tdcAbort
  try dsimp only
  repeat' first
    | with_reducible assumption | intro _
    | with_reducible (first
      | exact rfl | apply State.dropWins_keeps C | apply State.dropQueue_keeps C | apply State.evbDrop_keeps C
      | apply State.abortEvents_keeps C | apply State.setTdcR_keeps C | apply State.headFlag_keeps C
      | apply State.wrB_keeps C)

theorem State.regionAbort_keeps (C : Closed P) {s : State} (r : Fin 16) (hs : P s) : P (State.regionAbort s r) := by
  unfold State.regionAbort
  try dsimp only
  repeat' first
    | with_reducible assumption | intro _
    | with_reducible (first
      | exact rfl | apply State.dropWins_keeps C | apply State.dropQueue_keeps C | apply State.evbDrop_keeps C
      | apply State.frameAbort_keeps C | apply State.hstAbort_keeps C | apply State.winAbort_keeps C
      | apply State.cmpAbort_keeps C | apply State.upRec_keeps C | apply State.setPfeR_keeps C
      | apply State.setTdcR_keeps C | apply State.headFlag_keeps C | apply State.wrB_keeps C | apply C.wr
      | apply keeps_ite)
    | split
    | with_reducible (first
      | refine of_pair (by assumption) ?_ | refine of_some (by assumption) ?_ | refine of_somePair (by assumption) ?_
      | apply keeps_fst | apply keeps_mk C)

theorem State.regionsAbort_keeps (C : Closed P) {s : State} (m : Nat) (hs : P s) : P (State.regionsAbort s m) := by
  unfold State.regionsAbort
  try dsimp only
  repeat' first
    | with_reducible assumption | intro _
    | with_reducible (first
      | exact rfl | apply State.regionAbort_keeps C | apply keeps_each)

theorem State.regionDrain_keeps (C : Closed P) {s : State} (r : Fin 16) (hs : P s) : P (State.regionDrain s r) := by
  unfold State.regionDrain
  try dsimp only
  repeat' first
    | with_reducible assumption | intro _
    | with_reducible exact rfl
    | split
    | with_reducible (first
      | refine of_pair (by assumption) ?_ | refine of_some (by assumption) ?_ | refine of_somePair (by assumption) ?_
      | apply keeps_fst | apply keeps_mk C)

theorem State.standbyResume_keeps (C : Closed P) {s : State} (hs : P s) : P (State.standbyResume s) := by
  unfold State.standbyResume
  try dsimp only
  repeat' first
    | with_reducible assumption | intro _
    | with_reducible (first
      | exact rfl | apply State.setTdcR_keeps C | apply State.setCmpR_keeps C | apply State.setEvbR_keeps C
      | apply State.setHstR_keeps C | apply State.setAccR_keeps C | apply State.setPfeR_keeps C | apply keeps_each)
    | split
    | with_reducible (first
      | refine of_pair (by assumption) ?_ | refine of_some (by assumption) ?_ | refine of_somePair (by assumption) ?_
      | apply keeps_fst | apply keeps_mk C)

theorem State.fltUpd_keeps (C : Closed P) {s : State} (f : Flt → Flt) (hs : P s) : P (State.fltUpd s f) := by
  unfold State.fltUpd
  try dsimp only
  repeat' first
    | with_reducible assumption | intro _
    | with_reducible exact rfl
    | split
    | with_reducible (first
      | refine of_pair (by assumption) ?_ | refine of_some (by assumption) ?_ | refine of_somePair (by assumption) ?_
      | apply keeps_fst | apply keeps_mk C)

theorem State.fltRegs_keeps (C : Closed P) {s : State} (hs : P s) : P (State.fltRegs s) := by
  unfold State.fltRegs
  try dsimp only
  repeat' first
    | with_reducible assumption | intro _
    | with_reducible (first
      | exact rfl | apply C.wr | apply keeps_each)

theorem State.openShadow_keeps (C : Closed P) {s : State} (classes : List Nat) (scope : Scope) (inj : Bool) (perf : Bool) (hs : P s) :
    P (State.openShadow s classes scope inj perf) := by
  unfold State.openShadow
  try dsimp only
  repeat' first
    | with_reducible assumption | intro _
    | with_reducible (first
      | exact rfl | apply State.fltUpd_keeps C | apply keeps_ite)

theorem State.regionShadow_keeps (C : Closed P) {s : State} (classes : List Nat) (u : Nat) (inj : Bool) (perf : Bool) (hs : P s) :
    P (State.regionShadow s classes u inj perf) := by
  unfold State.regionShadow
  try dsimp only
  repeat' first
    | with_reducible assumption | intro _
    | with_reducible (first
      | exact rfl | apply State.openShadow_keeps C)

theorem State.actDrain_keeps (C : Closed P) {s : State} (u : Nat) (inj : Bool) (act : Bool) (hs : P s) :
    P (State.actDrain s u inj act) := by
  unfold State.actDrain
  try dsimp only
  repeat' first
    | with_reducible assumption | intro _
    | with_reducible (first
      | exact rfl | apply State.regionDrain_keeps C | apply State.regionShadow_keeps C | apply keeps_ite
      | apply keeps_each | apply keeps_when)

theorem State.actAbort_keeps (C : Closed P) {s : State} (u : Nat) (m : Nat) (inj : Bool) (act : Bool) (hs : P s) :
    P (State.actAbort s u m inj act) := by
  unfold State.actAbort
  try dsimp only
  repeat' first
    | with_reducible assumption | intro _
    | with_reducible (first
      | exact rfl | apply State.regionsAbort_keeps C | apply State.regionShadow_keeps C | apply keeps_ite
      | apply keeps_when)

theorem State.linkShadow_keeps (C : Closed P) {s : State} (u : Nat) (inj : Bool) (act : Bool) (par : Bool) (hs : P s) :
    P (State.linkShadow s u inj act par) := by
  unfold State.linkShadow
  try dsimp only
  repeat' first
    | with_reducible assumption | intro _
    | with_reducible (first
      | exact rfl | apply State.openShadow_keeps C | apply keeps_ite)

theorem State.retire_keeps (C : Closed P) {s : State} (m : Nat) (hs : P s) : P (State.retire s m) := by
  unfold State.retire
  try dsimp only
  repeat' first
    | with_reducible assumption | intro _
    | with_reducible (first
      | exact rfl | apply State.emit_keeps C | apply C.wr | apply keeps_ite)

theorem State.react2_keeps (C : Closed P) {s : State} (cls : Nat) (u : Nat) (inj : Bool) (act : Bool) (own : Bool) (par : Bool) (hs : P s) :
    P (State.react2 s cls u inj act own par) := by
  unfold State.react2
  try dsimp only
  repeat' first
    | with_reducible assumption | intro _
    | with_reducible (first
      | exact rfl | apply State.rampDownAll_keeps C | apply State.regionShadow_keeps C | apply State.crowbar_keeps C
      | apply State.wrB_keeps C | apply State.actDrain_keeps C | apply State.takeDownQuiet_keeps C
      | apply State.linkShadow_keeps C | apply State.retire_keeps C | apply State.openShadow_keeps C | apply C.wr
      | apply keeps_ite | apply keeps_each | apply keeps_when)

theorem State.react3_keeps (C : Closed P) {s : State} (cls : Nat) (u : Nat) (inj : Bool) (act : Bool) (par : Bool) (hs : P s) :
    P (State.react3 s cls u inj act par) := by
  unfold State.react3
  try dsimp only
  repeat' first
    | with_reducible assumption | intro _
    | with_reducible (first
      | exact rfl | apply State.actAbort_keeps C | apply State.rampDownAll_keeps C | apply State.regionShadow_keeps C
      | apply State.regionsAbort_keeps C | apply State.openShadow_keeps C | apply State.retrain_keeps C
      | apply State.linkShadow_keeps C | apply keeps_ite | apply keeps_each | apply keeps_when)

theorem State.ownShadow_keeps (C : Closed P) {s : State} (d : Det) (par : Bool) (hs : P s) :
    P (State.ownShadow s d par) := by
  unfold State.ownShadow
  try dsimp only
  repeat' first
    | with_reducible assumption | intro _
    | with_reducible (first
      | exact rfl | apply State.regionShadow_keeps C | apply State.openShadow_keeps C | apply State.linkShadow_keeps C
      | apply keeps_ite)

theorem State.shadowExpiry_keeps (C : Closed P) {s : State} (hs : P s) : P (State.shadowExpiry s) := by
  unfold State.shadowExpiry
  try dsimp only
  repeat' first
    | with_reducible assumption | intro _
    | with_reducible (first
      | exact rfl | apply State.fltUpd_keeps C)

theorem State.ack1_keeps (C : Closed P) {s : State} (inj : Bool) (c : Nat) (hs : P s) : P (State.ack1 s inj c) := by
  unfold State.ack1
  try dsimp only
  repeat' first
    | with_reducible assumption | intro _
    | with_reducible (first
      | exact rfl | apply State.fltUpd_keeps C | apply State.emit_keeps C | apply State.fltRegs_keeps C)

theorem State.clr1_keeps (C : Closed P) {s : State} (inj : Bool) (own : Bool) (c : Nat) (hs : P s) :
    P (State.clr1 s inj own c) := by
  unfold State.clr1
  try dsimp only
  repeat' first
    | with_reducible assumption | intro _
    | with_reducible (first
      | exact rfl | apply State.wrB_keeps C | apply State.fltUpd_keeps C | apply State.emit_keeps C
      | apply State.fltRegs_keeps C | apply C.wr | apply keeps_ite)

theorem State.ackMask_keeps (C : Closed P) {s : State} (inj : Bool) (m : Nat) (hs : P s) :
    P (State.ackMask s inj m) := by
  unfold State.ackMask
  try dsimp only
  repeat' first
    | with_reducible assumption | intro _
    | with_reducible (first
      | exact rfl | apply State.ack1_keeps C | apply keeps_each)

theorem State.clrMask_keeps (C : Closed P) {s : State} (inj : Bool) (own : Bool) (m : Nat) (hs : P s) :
    P (State.clrMask s inj own m) := by
  unfold State.clrMask
  try dsimp only
  repeat' first
    | with_reducible assumption | intro _
    | with_reducible (first
      | exact rfl | apply State.clr1_keeps C | apply keeps_each)

theorem State.injGo_keeps (C : Closed P) {s : State} (hs : P s) : P (State.injGo s) := by
  unfold State.injGo
  try dsimp only
  repeat' first
    | with_reducible assumption | intro _
    | with_reducible (first
      | exact rfl | apply State.fltUpd_keeps C | apply State.wrB_keeps C | apply C.wr | apply keeps_ite)
    | split
    | with_reducible (first
      | refine of_pair (by assumption) ?_ | refine of_some (by assumption) ?_ | refine of_somePair (by assumption) ?_
      | apply keeps_fst | apply keeps_mk C)

theorem State.ethUpd_keeps (C : Closed P) {s : State} (f : Eth → Eth) (hs : P s) : P (State.ethUpd s f) := by
  unfold State.ethUpd
  try dsimp only
  repeat' first
    | with_reducible assumption | intro _
    | with_reducible exact rfl
    | split
    | with_reducible (first
      | refine of_pair (by assumption) ?_ | refine of_some (by assumption) ?_ | refine of_somePair (by assumption) ?_
      | apply keeps_fst | apply keeps_mk C)

theorem State.sayArp_keeps (C : Closed P) {s : State} (req : Bool) (ip : Nat) (dst : Nat) (hs : P s) :
    P (State.sayArp s req ip dst) := by
  unfold State.sayArp
  try dsimp only
  repeat' first
    | with_reducible assumption | intro _
    | with_reducible exact rfl
    | split
    | with_reducible (first
      | refine of_pair (by assumption) ?_ | refine of_some (by assumption) ?_ | refine of_somePair (by assumption) ?_
      | apply keeps_fst | apply keeps_mk C)

theorem State.sayDhcp_keeps (C : Closed P) {s : State} (ty : Nat) (xid : Nat) (hs : P s) :
    P (State.sayDhcp s ty xid) := by
  unfold State.sayDhcp
  try dsimp only
  repeat' first
    | with_reducible assumption | intro _
    | with_reducible exact rfl
    | split
    | with_reducible (first
      | refine of_pair (by assumption) ?_ | refine of_some (by assumption) ?_ | refine of_somePair (by assumption) ?_
      | apply keeps_fst | apply keeps_mk C)

theorem State.sayIcmp_keeps (C : Closed P) {s : State} (dst : Nat) (id : Nat) (hs : P s) :
    P (State.sayIcmp s dst id) := by
  unfold State.sayIcmp
  try dsimp only
  repeat' first
    | with_reducible assumption | intro _
    | with_reducible exact rfl
    | split
    | with_reducible (first
      | refine of_pair (by assumption) ?_ | refine of_some (by assumption) ?_ | refine of_somePair (by assumption) ?_
      | apply keeps_fst | apply keeps_mk C)

theorem State.sayGarp_keeps (C : Closed P) {s : State} (hs : P s) : P (State.sayGarp s) := by
  unfold State.sayGarp
  try dsimp only
  repeat' first
    | with_reducible assumption | intro _
    | with_reducible (first
      | exact rfl | apply State.ethUpd_keeps C | apply State.sayArp_keeps C | apply keeps_ite)

theorem State.dropIp_keeps (C : Closed P) {s : State} (hs : P s) : P (State.dropIp s) := by
  unfold State.dropIp
  try dsimp only
  repeat' first
    | with_reducible assumption | intro _
    | with_reducible (first
      | exact rfl | apply State.wrB_keeps C | apply State.emit_keeps C | apply C.wr | apply keeps_ite)

theorem State.dhcpNew_keeps (C : Closed P) {s : State} (st : Nat) (ty : Nat) (hs : P s) :
    P (State.dhcpNew s st ty) := by
  unfold State.dhcpNew
  try dsimp only
  repeat' first
    | with_reducible assumption | intro _
    | with_reducible (first
      | exact rfl | apply State.fresh_keeps C | apply State.ethUpd_keeps C | apply State.sayDhcp_keeps C
      | apply keeps_ite)

theorem State.solicit_keeps (C : Closed P) {s : State} (hs : P s) : P (State.solicit s) := by
  unfold State.solicit
  try dsimp only
  repeat' first
    | with_reducible assumption | intro _
    | with_reducible (first
      | exact rfl | apply State.dhcpNew_keeps C)

theorem State.dhcpAgain_keeps (C : Closed P) {s : State} (hs : P s) : P (State.dhcpAgain s) := by
  unfold State.dhcpAgain
  try dsimp only
  repeat' first
    | with_reducible assumption | intro _
    | with_reducible (first
      | exact rfl | apply State.ethUpd_keeps C | apply State.sayDhcp_keeps C | apply keeps_ite)

theorem State.renew_keeps (C : Closed P) {s : State} (st : Nat) (hs : P s) : P (State.renew s st) := by
  unfold State.renew
  try dsimp only
  repeat' first
    | with_reducible assumption | intro _
    | with_reducible (first
      | exact rfl | apply State.dhcpNew_keeps C)

theorem State.arpAsk_keeps (C : Closed P) {s : State} (ip : Nat) (hs : P s) : P (State.arpAsk s ip) := by
  unfold State.arpAsk
  try dsimp only
  repeat' first
    | with_reducible assumption | intro _
    | with_reducible (first
      | exact rfl | apply State.ethUpd_keeps C | apply State.sayArp_keeps C | apply keeps_ite)

theorem State.qpUnresolved_keeps (C : Closed P) {s : State} (q : Fin 8) (hs : P s) : P (State.qpUnresolved s q) := by
  unfold State.qpUnresolved
  try dsimp only
  repeat' first
    | with_reducible assumption | intro _
    | with_reducible (first
      | exact rfl | apply State.setQp_keeps C | apply State.emit_keeps C | apply keeps_when)

theorem State.qpResolve_keeps (C : Closed P) {s : State} (q : Fin 8) (hs : P s) : P (State.qpResolve s q) := by
  unfold State.qpResolve
  try dsimp only
  repeat' first
    | with_reducible assumption | intro _
    | with_reducible (first
      | exact rfl | apply State.qpUnresolved_keeps C | apply State.arpAsk_keeps C | apply C.wr | apply keeps_ite)

theorem State.resolveAll_keeps (C : Closed P) {s : State} (hs : P s) : P (State.resolveAll s) := by
  unfold State.resolveAll
  try dsimp only
  repeat' first
    | with_reducible assumption | intro _
    | with_reducible (first
      | exact rfl | apply State.qpResolve_keeps C | apply keeps_each)

theorem State.resolveRetry_keeps (C : Closed P) {s : State} (q : Fin 8) (hs : P s) : P (State.resolveRetry s q) := by
  unfold State.resolveRetry
  try dsimp only
  repeat' first
    | with_reducible assumption | intro _
    | with_reducible (first
      | exact rfl | apply State.setQp_keeps C | apply State.qpResolve_keeps C | apply keeps_ite)
    | split

theorem State.arpReply_keeps (C : Closed P) {s : State} (ip : Nat) (mac : Nat) (hs : P s) :
    P (State.arpReply s ip mac) := by
  unfold State.arpReply
  try dsimp only
  repeat' first
    | with_reducible assumption | intro _
    | with_reducible (first
      | exact rfl | apply State.ethUpd_keeps C | apply State.resolveAll_keeps C | apply keeps_ite)

theorem State.arpRx_keeps (C : Closed P) {s : State} (req : Bool) (sip : Nat) (smac : Nat) (tip : Nat) (hs : P s) :
    P (State.arpRx s req sip smac tip) := by
  unfold State.arpRx
  try dsimp only
  repeat' first
    | with_reducible assumption | intro _
    | with_reducible (first
      | exact rfl | apply State.sayArp_keeps C | apply State.arpReply_keeps C | apply keeps_ite)

theorem State.arpTimeout_keeps (C : Closed P) {s : State} (ip : Nat) (hs : P s) : P (State.arpTimeout s ip) := by
  unfold State.arpTimeout
  try dsimp only
  repeat' first
    | with_reducible assumption | intro _
    | with_reducible (first
      | exact rfl | apply State.ethUpd_keeps C | apply State.sayArp_keeps C | apply State.qpUnresolved_keeps C
      | apply keeps_ite | apply keeps_iteP | apply keeps_each)
    | split

theorem State.arpRefresh_keeps (C : Closed P) {s : State} (ip : Nat) (hs : P s) : P (State.arpRefresh s ip) := by
  unfold State.arpRefresh
  try dsimp only
  repeat' first
    | with_reducible assumption | intro _
    | with_reducible (first
      | exact rfl | apply State.arpAsk_keeps C | apply keeps_ite | apply keeps_iteP)
    | split

theorem State.takeIp_keeps (C : Closed P) {s : State} (ip : Nat) (mask : Nat) (gw : Nat) (hs : P s) :
    P (State.takeIp s ip mask gw) := by
  unfold State.takeIp
  try dsimp only
  repeat' first
    | with_reducible assumption | intro _
    | with_reducible (first
      | exact rfl | apply State.wrB_keeps C | apply State.ethUpd_keeps C | apply State.emit_keeps C
      | apply State.sayGarp_keeps C | apply State.resolveAll_keeps C | apply C.wr)

theorem State.addressStart_keeps (C : Closed P) {s : State} (hs : P s) : P (State.addressStart s) := by
  unfold State.addressStart
  try dsimp only
  repeat' first
    | with_reducible assumption | intro _
    | with_reducible (first
      | exact rfl | apply State.dropIp_keeps C | apply State.solicit_keeps C | apply State.ethUpd_keeps C
      | apply State.takeIp_keeps C | apply keeps_ite)

theorem State.dhcpRx_keeps (C : Closed P) {s : State} (m : DhcpMsg) (hs : P s) : P (State.dhcpRx s m) := by
  unfold State.dhcpRx
  try dsimp only
  repeat' first
    | with_reducible assumption | intro _
    | with_reducible (first
      | exact rfl | apply State.ethUpd_keeps C | apply State.sayDhcp_keeps C | apply State.dropIp_keeps C
      | apply State.takeIp_keeps C | apply State.solicit_keeps C | apply keeps_ite)

theorem State.icmpRx_keeps (C : Closed P) {s : State} (src : Nat) (id : Nat) (hs : P s) :
    P (State.icmpRx s src id) := by
  unfold State.icmpRx
  try dsimp only
  repeat' first
    | with_reducible assumption | intro _
    | with_reducible (first
      | exact rfl | apply State.ethUpd_keeps C | apply State.sayIcmp_keeps C | apply State.bump_keeps C
      | apply keeps_ite)

theorem State.thbQueue_keeps (C : Closed P) {s : State} (ip : Nat) (port : Nat) (hs : P s) :
    P (State.thbQueue s ip port) := by
  unfold State.thbQueue
  try dsimp only
  repeat' first
    | with_reducible assumption | intro _
    | with_reducible (first
      | exact rfl | apply State.ethUpd_keeps C | apply State.bump_keeps C | apply keeps_ite)

theorem State.ethFrameRx_keeps (C : Closed P) {s : State} (f : EthFrame) (hs : P s) : P (State.ethFrameRx s f) := by
  unfold State.ethFrameRx
  try dsimp only
  repeat' first
    | with_reducible assumption | intro _
    | with_reducible (first
      | exact rfl | apply State.bump_keeps C | apply State.thbQueue_keeps C | apply keeps_ite)
    | split

theorem State.pfcRx_keeps (C : Closed P) {s : State} (en : Nat) (quanta : Vector (BitVec 16) 8) (hs : P s) :
    P (State.pfcRx s en quanta) := by
  unfold State.pfcRx
  try dsimp only
  repeat' first
    | with_reducible assumption | intro _
    | with_reducible (first
      | exact rfl | apply State.bump_keeps C | apply State.ethUpd_keeps C | apply State.wrB_keeps C | apply C.wr
      | apply keeps_ite)

theorem State.pfcEnd_keeps (C : Closed P) {s : State} (hs : P s) : P (State.pfcEnd s) := by
  unfold State.pfcEnd
  try dsimp only
  repeat' first
    | with_reducible assumption | intro _
    | with_reducible (first
      | exact rfl | apply State.ethUpd_keeps C | apply State.wrB_keeps C | apply C.wr | apply keeps_ite)
    | split

theorem State.viaQc4_keeps (C : Closed P) {s : State} (r : PktRef) (b : List Nat) (hs : P s) :
    (OptP P) (State.viaQc4 s r b) := by
  unfold State.viaQc4
  try dsimp only
  repeat' first
    | with_reducible assumption | intro _
    | with_reducible (first
      | exact rfl | apply State.putItem_keeps C | apply State.sweep_keeps C | apply optP_none | apply optP_some
      | apply optP_mapS | apply optP_mapP)

theorem State.reread_keeps (C : Closed P) {s : State} (e : REnt) (i : PktId) (p : RPkt) (hs : P s) :
    OptP (PairP P) (State.reread s e i p) := by
  unfold State.reread
  try dsimp only
  repeat' first
    | with_reducible assumption | intro _
    | with_reducible (first
      | exact rfl | apply State.deliverPkt_keeps C | apply State.viaQc4_keeps C | apply optP_none | apply optP_some
      | apply optP_mapS | apply optP_mapP | apply optP_map | apply pairP_mk)
    | split
    | with_reducible (first
      | refine of_pair (by assumption) ?_ | refine of_some (by assumption) ?_ | refine of_somePair (by assumption) ?_
      | apply keeps_fst)

theorem State.rereadAll_keeps (C : Closed P) {s : State} (p : RPkt) (l : List (REnt × PktId)) (hs : P s) :
    OptP (PairP P) (s.rereadAll p l) := by
  induction l generalizing s p with
  | nil => exact optP_some (pairP_mk hs)
  | cons e l ih => exact optP_bindP (State.reread_keeps C _ _ _ hs) (fun x hx => ih _ hx)

theorem State.putRoce_keeps (C : Closed P) {s : State} (q : Fin 8) (p : RPkt) (hs : P s) : P (State.putRoce s q p) := by
  unfold State.putRoce
  try dsimp only
  repeat' first
    | with_reducible assumption | intro _
    | with_reducible (first
      | exact rfl | apply State.setQp_keeps C | apply State.ethUpd_keeps C | apply C.wr | apply keeps_ite)
    | split
    | with_reducible (first
      | refine of_pair (by assumption) ?_ | refine of_some (by assumption) ?_ | refine of_somePair (by assumption) ?_
      | apply keeps_fst | apply keeps_mk C)

theorem State.sendPkt1_keeps (C : Closed P) {s : State} (q : Fin 8) (hs : P s) : OptP (PairP P) (s.sendPkt1 q) := by
  unfold State.sendPkt1
  refine optP_bind (fun p => keeps_iteO (optP_mapP (State.rereadAll_keeps C _ _ hs) (fun x a hx => ?_)) optP_none)
  exact pairP_mk (State.putRoce_keeps C _ _ hx)

theorem State.setBehind_keeps (C : Closed P) {s : State} (q : Fin 8) (l : List PktId) (hs : P s) :
    P (State.setBehind s q l) := by
  unfold State.setBehind
  try dsimp only
  repeat' first
    | with_reducible assumption | intro _
    | with_reducible (first
      | exact rfl | apply State.setQp_keeps C)

theorem State.draftGap_keeps (C : Closed P) {s : State} (q : Fin 8) (d : Draft) (b : List Nat) (rest : List PktId) (hs : P s) :
    OptP (PairP P) (State.draftGap s q d b rest) := by
  unfold State.draftGap
  try dsimp only
  repeat' first
    | with_reducible assumption | intro _
    | with_reducible (first
      | exact rfl | apply State.addEntry_keeps C | apply State.setBehind_keeps C | apply keeps_ite | apply keeps_iteO
      | apply keeps_iteP | apply optP_none | apply optP_some | apply pairP_mk)
    | split
    | with_reducible (first
      | refine of_pair (by assumption) ?_ | refine of_some (by assumption) ?_ | refine of_somePair (by assumption) ?_)

theorem State.draftOld_keeps (C : Closed P) {s : State} (q : Fin 8) (d : Draft) (r : PktRef) (rest : List PktId) (h : P s) :
    OptP (PairP P) (s.draftOld q d r rest) := by
  have hd := State.deliverPkt_keeps C r none h
  unfold State.draftOld
  refine keeps_iteO optP_none (optP_bindS (State.viaQc4_keeps C _ _ hd.out) (fun x hx => ?_))
  exact optP_mapP (State.addEntry_keeps C _ _ _ _ _ _ hx) (fun y a hy => pairP_mk (State.setBehind_keeps C _ _ hy))

theorem State.draftNew_keeps (C : Closed P) {s : State} (q : Fin 8) (d : Draft) (x : QItem) (hs : P s) :
    OptP (PairP P) (State.draftNew s q d x) := by
  unfold State.draftNew
  try dsimp only
  repeat' first
    | with_reducible assumption | intro _
    | with_reducible (first
      | exact rfl | apply State.addEntry_keeps C | apply State.tookEth_keeps C | apply keeps_ite | apply keeps_iteO
      | apply keeps_iteP | apply optP_none | apply optP_some | apply pairP_mk)
    | split
    | with_reducible (first
      | refine of_pair (by assumption) ?_ | refine of_some (by assumption) ?_ | refine of_somePair (by assumption) ?_)

theorem State.draftData_keeps (C : Closed P) {s : State} (q : Fin 8) (d : Draft) (hs : P s) :
    OptP (PairP P) (State.draftData s q d) := by
  unfold State.draftData
  try dsimp only
  repeat' first
    | with_reducible assumption | intro _
    | with_reducible (first
      | exact rfl | apply State.draftGap_keeps C | apply State.draftOld_keeps C | apply State.draftNew_keeps C
      | apply optP_none | apply optP_some | apply pairP_mk)
    | split

theorem State.draftN_keeps (C : Closed P) {s : State} (q : Fin 8) (d : Draft) (n : Nat) (h : P s) : PairP P (s.draftN q d n) := by
  induction n generalizing s d with
  | zero => exact pairP_mk h
  | succ n ih =>
    unfold State.draftN
    have hd := State.draftData_keeps C q d h
    generalize s.draftData q d = o at hd ⊢
    cases o with
    | none => exact pairP_mk h
    | some x => exact keeps_iteP (pairP_mk (hd.out x rfl).out) (ih x.2 (hd.out x rfl).out)

theorem State.holdEth_keeps (C : Closed P) {s : State} (x : QItem) (hs : P s) : P (State.holdEth s x) := by
  unfold State.holdEth
  try dsimp only
  repeat' first
    | with_reducible assumption | intro _
    | with_reducible (first
      | exact rfl | apply State.setItem_keeps C | apply State.ethRelease_keeps C | apply State.bump_keeps C
      | apply State.sweep_keeps C)

theorem State.ringOvf_keeps (C : Closed P) {s : State} (q : Fin 8) (hs : P s) : P (State.ringOvf s q) := by
  unfold State.ringOvf
  try dsimp only
  repeat' first
    | with_reducible assumption | intro _
    | with_reducible (first
      | exact rfl | apply State.holdEth_keeps C | apply keeps_ite | apply keeps_each)
    | split

theorem State.formData_keeps (C : Closed P) {s : State} (q : Fin 8) (hs : P s) : P (State.formData s q) := by
  unfold State.formData
  try dsimp only
  repeat' first
    | with_reducible assumption | intro _
    | with_reducible (first
      | exact rfl | apply State.addPad_keeps C | apply State.queueDraft_keeps C | apply State.draftN_keeps C
      | apply State.holdEth_keeps C | apply C.wr | apply keeps_ite | apply keeps_iteP | apply keeps_each)
    | split
    | with_reducible (first
      | refine of_pair (by assumption) ?_ | refine of_some (by assumption) ?_ | refine of_somePair (by assumption) ?_
      | apply keeps_fst)

theorem State.formEvents_keeps (C : Closed P) {s : State} (q : Fin 8) (hs : P s) : P (State.formEvents s q) := by
  unfold State.formEvents
  try dsimp only
  repeat' first
    | with_reducible assumption | intro _
    | with_reducible (first
      | exact rfl | apply State.produce_keeps C | apply State.setQp_keeps C | apply State.queueDraft_keeps C
      | apply C.wr | apply keeps_ite)

theorem State.turnWait_keeps (C : Closed P) {s : State} (q : Fin 8) (hs : P s) : P (State.turnWait s q) := by
  unfold State.turnWait
  try dsimp only
  repeat' first
    | with_reducible assumption | intro _
    | with_reducible (first
      | exact rfl | apply C.wr | apply keeps_when)

theorem State.formTx_keeps (C : Closed P) {s : State} (q : Fin 8) (hs : P s) : P (State.formTx s q) := by
  unfold State.formTx
  try dsimp only
  repeat' first
    | with_reducible assumption | intro _
    | with_reducible (first
      | exact rfl | apply State.formData_keeps C | apply State.formEvents_keeps C | apply keeps_ite)
    | split

theorem State.turnTx_keeps (C : Closed P) {s : State} (q : Fin 8) (hs : P s) : (PairP P) (State.turnTx s q) := by
  unfold State.turnTx
  try dsimp only
  repeat' first
    | with_reducible assumption | intro _
    | with_reducible (first
      | exact rfl | apply State.formTx_keeps C | apply State.sendPkt1_keeps C | apply keeps_ite | apply keeps_iteP
      | apply pairP_mk)
    | split
    | with_reducible (first
      | refine of_pair (by assumption) ?_ | refine of_some (by assumption) ?_ | refine of_somePair (by assumption) ?_)

theorem State.portTx_keeps (C : Closed P) {s : State} (q : Fin 8) (l : List (Fin 8)) (n0 : Nat) (hs : P s) :
    P (State.portTx s q l n0) := by
  induction n0 generalizing s q l
  all_goals
  unfold State.portTx
  try dsimp only
  repeat' first
    | with_reducible assumption | intro _
    | with_reducible (first
      | exact rfl | apply_assumption | apply State.turnTx_keeps C | apply keeps_ite)
    | split
    | with_reducible refine of_pair (by assumption) ?_

theorem State.messageTx_keeps (C : Closed P) {s : State} (q : Fin 8) (hs : P s) : P (State.messageTx s q) := by
  unfold State.messageTx
  try dsimp only
  repeat' first
    | with_reducible assumption | intro _
    | with_reducible (first
      | exact rfl | apply State.ringOvf_keeps C | apply State.turnWait_keeps C | apply State.portTx_keeps C
      | apply keeps_ite)

theorem State.qpDrained_keeps (C : Closed P) {s : State} (q : Fin 8) (hs : P s) : P (State.qpDrained s q) := by
  unfold State.qpDrained
  try dsimp only
  repeat' first
    | with_reducible assumption | intro _
    | with_reducible (first
      | exact rfl | apply State.setQp_keeps C | apply State.wrBit_keeps C | apply State.wrB_keeps C | apply C.wr
      | apply keeps_ite)

theorem State.ackRx_keeps (C : Closed P) {s : State} (q : Fin 8) (psn : Nat) (hs : P s) : P (State.ackRx s q psn) := by
  unfold State.ackRx
  try dsimp only
  repeat' first
    | with_reducible assumption | intro _
    | with_reducible (first
      | exact rfl | apply State.setQp_keeps C | apply State.emit_keeps C | apply State.qpDrained_keeps C | apply C.wr
      | apply keeps_foldl_pair | apply keeps_ite | apply keeps_when | apply keeps_foldl | apply pairP_mk)
    | split
    | with_reducible (first
      | refine of_pair (by assumption) ?_ | refine of_some (by assumption) ?_ | refine of_somePair (by assumption) ?_
      | apply keeps_fst | apply keeps_mk C)

theorem State.goBack_keeps (C : Closed P) {s : State} (q : Fin 8) (hs : P s) : P (State.goBack s q) := by
  unfold State.goBack
  try dsimp only
  repeat' first
    | with_reducible assumption | intro _
    | with_reducible (first
      | exact rfl | apply State.bump_keeps C | apply State.setQp_keeps C | apply C.wr | apply keeps_ite
      | apply keeps_when)

theorem State.qpRelease_keeps (C : Closed P) {s : State} (q : Fin 8) (hs : P s) : P (State.qpRelease s q) := by
  unfold State.qpRelease
  try dsimp only
  repeat' first
    | with_reducible assumption | intro _
    | with_reducible (first
      | exact rfl | apply State.setQp_keeps C | apply State.setItem_keeps C | apply State.bump_keeps C
      | apply State.emit_keeps C | apply State.sweep_keeps C | apply keeps_each)

theorem State.qpFail_keeps (C : Closed P) {s : State} (q : Fin 8) (hs : P s) : P (State.qpFail s q) := by
  unfold State.qpFail
  try dsimp only
  repeat' first
    | with_reducible assumption | intro _
    | with_reducible (first
      | exact rfl | apply State.emit_keeps C | apply State.qpRelease_keeps C | apply State.qpDrained_keeps C
      | apply C.wr)

theorem State.qpAgain_keeps (C : Closed P) {s : State} (q : Fin 8) (hs : P s) : P (State.qpAgain s q) := by
  unfold State.qpAgain
  try dsimp only
  repeat' first
    | with_reducible assumption | intro _
    | with_reducible (first
      | exact rfl | apply State.setQp_keeps C | apply State.qpFail_keeps C | apply State.goBack_keeps C
      | apply keeps_ite)

theorem State.roceNak_keeps (C : Closed P) {s : State} (q : Fin 8) (psn : Nat) (k : NakKind) (hs : P s) :
    P (State.roceNak s q psn k) := by
  unfold State.roceNak
  try dsimp only
  repeat' first
    | with_reducible assumption | intro _
    | with_reducible (first
      | exact rfl | apply State.ackRx_keeps C | apply State.qpAgain_keeps C | apply State.goBack_keeps C
      | apply State.bump_keeps C | apply State.setQp_keeps C | apply State.qpFail_keeps C | apply keeps_ite)
    | split

theorem State.ackTmo_keeps (C : Closed P) {s : State} (q : Fin 8) (hs : P s) : P (State.ackTmo s q) := by
  unfold State.ackTmo
  try dsimp only
  repeat' first
    | with_reducible assumption | intro _
    | with_reducible (first
      | exact rfl | apply State.bump_keeps C | apply State.qpAgain_keeps C | apply keeps_ite)

theorem State.rnrEnd_keeps (C : Closed P) {s : State} (q : Fin 8) (hs : P s) : P (State.rnrEnd s q) := by
  unfold State.rnrEnd
  try dsimp only
  repeat' first
    | with_reducible assumption | intro _
    | with_reducible (first
      | exact rfl | apply State.setQp_keeps C | apply State.messageTx_keeps C | apply keeps_ite)
    | split

theorem State.cnpRx_keeps (C : Closed P) {s : State} (q : Fin 8) (hs : P s) : P (State.cnpRx s q) := by
  unfold State.cnpRx
  try dsimp only
  repeat' first
    | with_reducible assumption | intro _
    | with_reducible (first
      | exact rfl | apply State.bump_keeps C | apply State.setQp_keeps C | apply C.wr | apply keeps_ite)

theorem State.rateUp_keeps (C : Closed P) {s : State} (q : Fin 8) (hs : P s) : P (State.rateUp s q) := by
  unfold State.rateUp
  try dsimp only
  repeat' first
    | with_reducible assumption | intro _
    | with_reducible (first
      | exact rfl | apply State.setQp_keeps C | apply C.wr | apply keeps_ite)

theorem State.ciWrite_keeps (C : Closed P) {s : State} (q : Fin 8) (v : Nat) (hs : P s) : P (State.ciWrite s q v) := by
  unfold State.ciWrite
  try dsimp only
  repeat' first
    | with_reducible assumption | intro _
    | with_reducible (first
      | exact rfl | apply State.wrB_keeps C | apply C.wr | apply keeps_ite)

theorem State.qpStart_keeps (C : Closed P) {s : State} (q : Fin 8) (hs : P s) : P (State.qpStart s q) := by
  unfold State.qpStart
  try dsimp only
  repeat' first
    | with_reducible assumption | intro _
    | with_reducible (first
      | exact rfl | apply State.setQp_keeps C | apply State.wrBit_keeps C | apply State.qpResolve_keeps C | apply C.wr)

theorem State.qpAbort_keeps (C : Closed P) {s : State} (m : Nat) (hs : P s) : P (State.qpAbort s m) := by
  unfold State.qpAbort
  try dsimp only
  repeat' first
    | with_reducible assumption | intro _
    | with_reducible (first
      | exact rfl | apply State.qpRelease_keeps C | apply State.setQp_keeps C | apply State.wrB_keeps C
      | apply State.qpDrained_keeps C | apply C.wr | apply keeps_each)

theorem State.linkUpEth_keeps (C : Closed P) {s : State} (hs : P s) : P (State.linkUpEth s) := by
  unfold State.linkUpEth
  try dsimp only
  repeat' first
    | with_reducible assumption | intro _
    | with_reducible (first
      | exact rfl | apply State.wrB_keeps C | apply State.goBack_keeps C | apply State.solicit_keeps C
      | apply State.sayGarp_keeps C | apply State.resolveAll_keeps C | apply C.wr | apply keeps_ite | apply keeps_each)

theorem State.pfcCommit_keeps (C : Closed P) {s : State} (prio : Nat) (hs : P s) : P (State.pfcCommit s prio) := by
  unfold State.pfcCommit
  try dsimp only
  repeat' first
    | with_reducible assumption | intro _
    | with_reducible (first
      | exact rfl | apply State.ethUpd_keeps C | apply State.wrB_keeps C | apply C.wr | apply keeps_ite)

theorem State.ethCommit_keeps (C : Closed P) {s : State} (on : Nat) (speed : Nat) (fec : Nat) (prio : Nat) (en : Bool) (hs : P s) :
    P (State.ethCommit s on speed fec prio en) := by
  unfold State.ethCommit
  try dsimp only
  repeat' first
    | with_reducible assumption | intro _
    | with_reducible (first
      | exact rfl | apply State.pfcCommit_keeps C | apply State.wrB_keeps C | apply State.addressStart_keeps C
      | apply State.qpStart_keeps C | apply State.setQp_keeps C | apply State.qpDrained_keeps C | apply C.wr
      | apply keeps_ite | apply keeps_each)

theorem State.ethStart_keeps (C : Closed P) {s : State} (hs : P s) : P (State.ethStart s) := by
  unfold State.ethStart
  try dsimp only
  repeat' first
    | with_reducible assumption | intro _
    | with_reducible (first
      | exact rfl | apply State.addressStart_keeps C)
    | split
    | with_reducible (first
      | refine of_pair (by assumption) ?_ | refine of_some (by assumption) ?_ | refine of_somePair (by assumption) ?_
      | apply keeps_fst | apply keeps_mk C)

theorem State.ethTick_keeps (C : Closed P) {s : State} (hs : P s) : P (State.ethTick s) := by
  unfold State.ethTick
  try dsimp only
  repeat' first
    | with_reducible assumption | intro _
    | with_reducible (first
      | exact rfl | apply State.dhcpAgain_keeps C | apply State.ringOvf_keeps C | apply keeps_each)

end Sys2Proof.Machine
end

