-- ==== Sys2Proof/Laws/KeepSeq.lean ====
section
/-! SUPPORT. Each operation of power, commits, the sequencer and register accesses keeps what no ordinary operation changes: one lemma for each. -/

namespace Sys2Proof.Machine

open Sys2Proof

variable {P : State → Prop}

theorem State.pmrUpd_keeps (C : Closed P) {s : State} (f : Pmr → Pmr) (hs : P s) : P (State.pmrUpd s f) := by
  unfold State.pmrUpd
  try dsimp only
  repeat' first
    | with_reducible assumption | intro _
    | with_reducible exact rfl
    | split
    | with_reducible (first
      | refine of_pair (by assumption) ?_ | refine of_some (by assumption) ?_ | refine of_somePair (by assumption) ?_
      | apply keeps_fst | apply keeps_mk C)

theorem State.setSlotFw_keeps (C : Closed P) {s : State} (b : Bool) (x : FwSlot) (hs : P s) :
    P (State.setSlotFw s b x) := by
  unfold State.setSlotFw
  try dsimp only
  repeat' first
    | with_reducible assumption | intro _
    | with_reducible (first
      | exact rfl | apply State.flashUpd_keeps C)

theorem State.loadCore_keeps (C : Closed P) {s : State} (n : Nat) (hs : P s) : P (State.loadCore s n) := by
  unfold State.loadCore
  try dsimp only
  repeat' first
    | with_reducible assumption | intro _
    | with_reducible (first
      | exact rfl | apply State.pmrUpd_keeps C)

theorem State.countStart_keeps (C : Closed P) {s : State} (hs : P s) : P (State.countStart s) := by
  unfold State.countStart
  try dsimp only
  repeat' first
    | with_reducible assumption | intro _
    | with_reducible (first
      | exact rfl | apply State.pmrUpd_keeps C | apply State.bootRec_keeps C | apply keeps_ite)

theorem State.marchRow_keeps (C : Closed P) {s : State} (m : SramMac) (row : Nat) (hs : P s) :
    P (State.marchRow s m row) := by
  unfold State.marchRow
  try dsimp only
  repeat' first
    | with_reducible assumption | intro _
    | with_reducible (first
      | exact rfl | apply State.emit_keeps C | apply State.bump_keeps C | apply State.wrB_keeps C
      | apply State.detect_keeps C | apply C.wr | apply keeps_ite)
    | split
    | with_reducible (first
      | refine of_pair (by assumption) ?_ | refine of_some (by assumption) ?_ | refine of_somePair (by assumption) ?_
      | apply keeps_fst | apply keeps_mk C)

theorem State.softAgain_keeps (C : Closed P) {s : State} (p : Nat) (ok : Bool) (hs : P s) :
    P (State.softAgain s p ok) := by
  unfold State.softAgain
  try dsimp only
  repeat' first
    | with_reducible assumption | intro _
    | with_reducible (first
      | exact rfl | apply State.bump_keeps C | apply State.spareSpan_keeps C | apply State.mergeDrain_keeps C
      | apply keeps_ite)

theorem State.cabStart_keeps (C : Closed P) {s : State} (trained : Bool) (soft : List Bool) (hs : P s) :
    P (State.cabStart s trained soft) := by
  unfold State.cabStart
  try dsimp only
  repeat' first
    | with_reducible assumption | intro _
    | with_reducible (first
      | exact rfl | apply State.softAgain_keeps C | apply State.poolRegs_keeps C | apply State.wrB_keeps C
      | apply State.detect_keeps C | apply C.wr | apply keeps_foldl_pair | apply keeps_ite | apply keeps_iteP
      | apply keeps_each | apply keeps_foldl)

theorem State.readyReached_keeps (C : Closed P) {s : State} (hs : P s) : P (State.readyReached s) := by
  unfold State.readyReached
  try dsimp only
  repeat' first
    | with_reducible assumption | intro _
    | with_reducible (first
      | exact rfl | apply State.pmrUpd_keeps C | apply State.emit_keeps C | apply State.bootRec_keeps C
      | apply State.treReady_keeps C | apply State.repairRun_keeps C | apply keeps_ite)
    | split

theorem State.maskStart_keeps (C : Closed P) {s : State} (hs : P s) : P (State.maskStart s) := by
  unfold State.maskStart
  try dsimp only
  repeat' first
    | with_reducible assumption | intro _
    | with_reducible (first
      | exact rfl | apply State.wrB_keeps C | apply C.wr | apply keeps_getD)
    | split
    | with_reducible (first
      | refine of_pair (by assumption) ?_ | refine of_some (by assumption) ?_ | refine of_somePair (by assumption) ?_
      | apply keeps_fst | apply keeps_mk C)

theorem State.xingReset_keeps (C : Closed P) {s : State} (b : Nat) (hs : P s) : P (State.xingReset s b) := by
  unfold State.xingReset
  try dsimp only
  repeat' first
    | with_reducible assumption | intro _
    | with_reducible (first
      | exact rfl | apply State.setTdcR_keeps C | apply keeps_ite | apply keeps_each)
    | split
    | with_reducible (first
      | refine of_pair (by assumption) ?_ | refine of_some (by assumption) ?_ | refine of_somePair (by assumption) ?_
      | apply keeps_fst | apply keeps_mk C)

theorem State.blkStart_keeps (C : Closed P) {s : State} (b : Nat) (role : Nat) (pos : Nat) (hs : P s) :
    P (State.blkStart s b role pos) := by
  unfold State.blkStart
  try dsimp only
  repeat' first
    | with_reducible assumption | intro _
    | with_reducible (first
      | exact rfl | apply State.maskStart_keeps C | apply State.calRestart_keeps C | apply State.tbsStart_keeps C
      | apply State.lnkStart_keeps C | apply State.treStart_keeps C | apply State.lnkLanes_keeps C
      | apply State.treReady_keeps C | apply State.ethStart_keeps C | apply State.hkaStart_keeps C | apply C.wr
      | apply keeps_ite | apply keeps_each | apply keeps_on)

theorem State.setMember_keeps (C : Closed P) {s : State} (m : Nat) (v : Nat) (hs : P s) :
    P (State.setMember s m v) := by
  unfold State.setMember
  try dsimp only
  repeat' first
    | with_reducible assumption | intro _
    | with_reducible (first
      | exact rfl | apply C.wr)

theorem State.sessClear_keeps (C : Closed P) {s : State} (hs : P s) : P (State.sessClear s) := by
  unfold State.sessClear
  try dsimp only
  repeat' first
    | with_reducible assumption | intro _
    | with_reducible (first
      | exact rfl | apply C.wr | apply keeps_ite | apply keeps_each)
    | split
    | with_reducible (first
      | refine of_pair (by assumption) ?_ | refine of_some (by assumption) ?_ | refine of_somePair (by assumption) ?_
      | apply keeps_fst | apply keeps_mk C)

theorem State.setProg_keeps (C : Closed P) {s : State} (m : Fin 3) (n : Nat) (hs : P s) : P (State.setProg s m n) := by
  unfold State.setProg
  try dsimp only
  repeat' first
    | with_reducible assumption | intro _
    | with_reducible (first
      | exact rfl | apply State.pmrUpd_keeps C)

theorem State.exclude_keeps (C : Closed P) {s : State} (m : Fin 3) (hs : P s) : P (State.exclude s m) := by
  unfold State.exclude
  try dsimp only
  repeat' first
    | with_reducible assumption | intro _
    | with_reducible (first
      | exact rfl | apply State.resync_keeps C | apply State.setProg_keeps C | apply State.fltUpd_keeps C
      | apply State.setMember_keeps C | apply State.detect_keeps C | apply State.bump_keeps C | apply keeps_ite)

theorem State.resyncDone_keeps (C : Closed P) {s : State} (m : Fin 3) (hs : P s) : P (State.resyncDone s m) := by
  unfold State.resyncDone
  try dsimp only
  repeat' first
    | with_reducible assumption | intro _
    | with_reducible (first
      | exact rfl | apply State.setProg_keeps C | apply State.setMember_keeps C | apply keeps_ite)

theorem State.coreRestart_keeps (C : Closed P) {s : State} (hs : P s) : P (State.coreRestart s) := by
  unfold State.coreRestart
  try dsimp only
  repeat' first
    | with_reducible assumption | intro _
    | with_reducible (first
      | exact rfl | apply State.fltUpd_keeps C | apply State.loadCore_keeps C | apply State.setMember_keeps C
      | apply State.wrB_keeps C | apply State.emit_keeps C | apply C.wr | apply keeps_ite)

theorem State.fwActivate_keeps (C : Closed P) {s : State} (own : Bool) (hs : P s) : P (State.fwActivate s own) := by
  unfold State.fwActivate
  try dsimp only
  repeat' first
    | with_reducible assumption | intro _
    | with_reducible (first
      | exact rfl | apply State.bootRec_keeps C | apply State.wrB_keeps C | apply C.wr | apply keeps_ite)

theorem State.fwConfirm_keeps (C : Closed P) {s : State} (own : Bool) (hs : P s) : P (State.fwConfirm s own) := by
  unfold State.fwConfirm
  try dsimp only
  repeat' first
    | with_reducible assumption | intro _
    | with_reducible (first
      | exact rfl | apply State.bootRec_keeps C | apply State.wrB_keeps C | apply C.wr | apply keeps_ite)

theorem State.ctlUpd_keeps (C : Closed P) {s : State} (f : Ctl → Ctl) (hs : P s) : P (State.ctlUpd s f) := by
  unfold State.ctlUpd
  try dsimp only
  repeat' first
    | with_reducible assumption | intro _
    | with_reducible exact rfl
    | split
    | with_reducible (first
      | refine of_pair (by assumption) ?_ | refine of_some (by assumption) ?_ | refine of_somePair (by assumption) ?_
      | apply keeps_fst | apply keeps_mk C)

theorem State.setSession_keeps (C : Closed P) {s : State} (n : Fin 8) (x : Option Sess) (hs : P s) :
    P (State.setSession s n x) := by
  unfold State.setSession
  try dsimp only
  repeat' first
    | with_reducible assumption | intro _
    | with_reducible (first
      | exact rfl | apply State.ctlUpd_keeps C)

theorem State.thbSay_keeps (C : Closed P) {s : State} (n : Fin 8) (key : Nat) (ip : Nat) (port : Nat) (local_ : Bool) (seq : Nat) (l : List OpRep) (hs : P s) :
    P (State.thbSay s n key ip port local_ seq l) := by
  unfold State.thbSay
  try dsimp only
  repeat' first
    | with_reducible assumption | intro _
    | with_reducible (first
      | exact rfl | apply State.setSession_keeps C | apply keeps_ite)
    | split
    | with_reducible (first
      | refine of_pair (by assumption) ?_ | refine of_some (by assumption) ?_ | refine of_somePair (by assumption) ?_
      | apply keeps_fst | apply keeps_mk C)

theorem State.thbReply_keeps (C : Closed P) {s : State} (n : Fin 8) (key : Nat) (ip : Nat) (port : Nat) (local_ : Bool) (seq : Nat) (l : List OpRep) (hs : P s) :
    P (State.thbReply s n key ip port local_ seq l) := by
  unfold State.thbReply
  try dsimp only
  repeat' first
    | with_reducible assumption | intro _
    | with_reducible (first
      | exact rfl | apply State.setSession_keeps C | apply State.thbSay_keeps C)
    | split

theorem State.pendReply_keeps (C : Closed P) {s : State} (hs : P s) : P (State.pendReply s) := by
  unfold State.pendReply
  try dsimp only
  repeat' first
    | with_reducible assumption | intro _
    | with_reducible (first
      | exact rfl | apply State.ctlUpd_keeps C | apply State.thbReply_keeps C | apply keeps_each)
    | split

theorem State.relayOn_keeps (C : Closed P) {s : State} (l : Fin 10) (q : RelayReq) (hs : P s) :
    P (State.relayOn s l q) := by
  unfold State.relayOn
  try dsimp only
  repeat' first
    | with_reducible assumption | intro _
    | with_reducible (first
      | exact rfl | apply State.bump_keeps C | apply State.sendV0_keeps C)

theorem State.relayResolve_keeps (C : Closed P) {s : State} (seq : Nat) (status : Nat) (words : List Nat) (hs : P s) :
    P (State.relayResolve s seq status words) := by
  unfold State.relayResolve
  try dsimp only
  repeat' first
    | with_reducible assumption | intro _
    | with_reducible (first
      | exact rfl | apply State.treUpd_keeps C | apply State.ctlUpd_keeps C | apply State.pendReply_keeps C)

theorem State.relayGather_keeps (C : Closed P) {s : State} (p : RelayRep) (hs : P s) : P (State.relayGather s p) := by
  unfold State.relayGather
  try dsimp only
  repeat' first
    | with_reducible assumption | intro _
    | with_reducible (first
      | exact rfl | apply State.sendUp_keeps C | apply State.relayResolve_keeps C | apply State.treUpd_keeps C
      | apply keeps_ite)
    | split

theorem State.relayTimeout_keeps (C : Closed P) {s : State} (seq : Nat) (hs : P s) : P (State.relayTimeout s seq) := by
  unfold State.relayTimeout
  try dsimp only
  repeat' first
    | with_reducible assumption | intro _
    | with_reducible (first
      | exact rfl | apply State.relayResolve_keeps C | apply keeps_ite)
    | split

theorem State.relayAnswer_keeps (C : Closed P) {s : State} (q : RelayReq) (status : Nat) (words : List Nat) (hs : P s) :
    P (State.relayAnswer s q status words) := by
  unfold State.relayAnswer
  try dsimp only
  repeat' first
    | with_reducible assumption | intro _
    | with_reducible (first
      | exact rfl | apply State.relayGather_keeps C | apply State.treUpd_keeps C | apply State.sendUp_keeps C
      | apply keeps_ite)

theorem State.commitSaid_keeps (C : Closed P) {s : State} (g : Staged) (ok : Bool) (hs : P s) :
    P (State.commitSaid s g ok) := by
  unfold State.commitSaid
  try dsimp only
  repeat' first
    | with_reducible assumption | intro _
    | with_reducible (first
      | exact rfl | apply State.relayAnswer_keeps C | apply keeps_ite | apply keeps_on)
    | split

theorem State.commitReject_keeps (C : Closed P) {s : State} (g : Staged) (hs : P s) : P (State.commitReject s g) := by
  unfold State.commitReject
  try dsimp only
  repeat' first
    | with_reducible assumption | intro _
    | with_reducible (first
      | exact rfl | apply State.wrB_keeps C | apply C.wr | apply keeps_each)
    | split

theorem State.accChange_keeps (C : Closed P) {s : State} (r : Fin 16) (k : Nat) (m : Nat) (n : Nat) (restart : Bool) (hs : P s) :
    P (State.accChange s r k m n restart) := by
  unfold State.accChange
  try dsimp only
  repeat' first
    | with_reducible assumption | intro _
    | with_reducible (first
      | exact rfl | apply State.upFrame_keeps C | apply State.upRec_keeps C | apply State.setAccR_keeps C
      | apply State.subIdx_keeps C | apply State.accBegin_keeps C | apply keeps_ite | apply keeps_on
      | apply keeps_when)

theorem State.windowStart_keeps (C : Closed P) {s : State} (r : Fin 16) (k : Nat) (hs : P s) :
    P (State.windowStart s r k) := by
  unfold State.windowStart
  try dsimp only
  repeat' first
    | with_reducible assumption | intro _
    | with_reducible (first
      | exact rfl | apply State.setEvbR_keeps C)
    | split
    | with_reducible (first
      | refine of_pair (by assumption) ?_ | refine of_some (by assumption) ?_ | refine of_somePair (by assumption) ?_
      | apply keeps_fst | apply keeps_mk C)

theorem State.modeChange_keeps (C : Closed P) {s : State} (r : Fin 16) (k : Nat) (m : Nat) (n : Nat) (hs : P s) :
    P (State.modeChange s r k m n) := by
  unfold State.modeChange
  try dsimp only
  repeat' first
    | with_reducible assumption | intro _
    | with_reducible (first
      | exact rfl | apply State.upRec_keeps C | apply State.freshStreams_keeps C | apply State.wrBit_keeps C
      | apply State.upFrame_keeps C | apply State.setEvbR_keeps C | apply State.winDrained_keeps C
      | apply State.windowStart_keeps C | apply State.gateStop_keeps C | apply State.gateIdx_keeps C
      | apply State.histoStart_keeps C | apply State.wrB_keeps C | apply C.wr | apply keeps_ite | apply keeps_when)
    | split
    | with_reducible (first
      | refine of_pair (by assumption) ?_ | refine of_some (by assumption) ?_ | refine of_somePair (by assumption) ?_
      | apply keeps_fst | apply keeps_mk C)

theorem State.feChange_keeps (C : Closed P) {s : State} (r : Fin 16) (k : Nat) (m : Nat) (was : Bool) (hs : P s) :
    P (State.feChange s r k m was) := by
  unfold State.feChange
  try dsimp only
  repeat' first
    | with_reducible assumption | intro _
    | with_reducible (first
      | exact rfl | apply State.setPfeR_keeps C | apply State.upFrame_keeps C | apply State.feFinal_keeps C
      | apply State.wrB_keeps C | apply C.wr | apply keeps_ite)

theorem State.tdcChange_keeps (C : Closed P) {s : State} (r : Fin 16) (k : Nat) (was : Bool) (hs : P s) :
    P (State.tdcChange s r k was) := by
  unfold State.tdcChange
  try dsimp only
  repeat' first
    | with_reducible assumption | intro _
    | with_reducible (first
      | exact rfl | apply State.setTdcR_keeps C | apply State.wrB_keeps C | apply C.wr | apply keeps_ite)

theorem State.cmpChange_keeps (C : Closed P) {s : State} (r : Fin 16) (was : Bool) (hs : P s) :
    P (State.cmpChange s r was) := by
  unfold State.cmpChange
  try dsimp only
  repeat' first
    | with_reducible assumption | intro _
    | with_reducible (first
      | exact rfl | apply State.setCmpR_keeps C | apply State.cmpDrained_keeps C | apply State.wrB_keeps C
      | apply C.wr | apply keeps_ite)

theorem State.relayAll_keeps (C : Closed P) {s : State} (op : RelayOp) (hs : P s) : P (State.relayAll s op) := by
  unfold State.relayAll
  try dsimp only
  repeat' first
    | with_reducible assumption | intro _
    | with_reducible (first
      | exact rfl | apply State.treUpd_keeps C | apply State.sendDown_keeps C)

theorem State.tickRegs_keeps (C : Closed P) {s : State} (num : Nat) (den : Nat) (epoch : Int) (base : Nat) (hs : P s) :
    P (State.tickRegs s num den epoch base) := by
  unfold State.tickRegs
  try dsimp only
  repeat' first
    | with_reducible assumption | intro _
    | with_reducible (first
      | exact rfl | apply C.wr)

theorem State.epochUp_keeps (C : Closed P) {s : State} (pages : List Nat) (k : Nat) (hs : P s) :
    P (State.epochUp s pages k) := by
  unfold State.epochUp
  try dsimp only
  repeat' first
    | with_reducible assumption | intro _
    | with_reducible (first
      | exact rfl | apply State.bump_keeps C | apply C.wr | apply keeps_ite | apply keeps_each)

theorem State.commitRegion_keeps (C : Closed P) {s : State} {old : State} (g : Staged) (r : Fin 16) (k : Nat) (x : Int) (y : Int) (hs : P s) (hold : P old) :
    P (State.commitRegion s old g r k x y) := by
  unfold State.commitRegion
  try dsimp only
  repeat' first
    | with_reducible assumption | intro _
    | with_reducible (first
      | exact rfl | apply State.upRec_keeps C | apply State.modeChange_keeps C | apply State.accChange_keeps C
      | apply State.gateRestart_keeps C | apply State.feChange_keeps C | apply State.tdcChange_keeps C
      | apply State.cmpChange_keeps C | apply State.injTick_keeps C | apply keeps_ite | apply keeps_when)

theorem State.commitBlocks_keeps (C : Closed P) {s : State} {old : State} (k : Nat) (hs : P s) (hold : P old) :
    P (State.commitBlocks s old k) := by
  unfold State.commitBlocks
  try dsimp only
  repeat' first
    | with_reducible assumption | intro _
    | with_reducible (first
      | exact rfl | apply State.tbsCommit_keeps C | apply State.hkaCommit_keeps C | apply State.scrubPlan_keeps C
      | apply State.treCommit_keeps C | apply State.lnkCommit_keeps C | apply State.ethCommit_keeps C
      | apply State.trgCommit_keeps C | apply State.relayAll_keeps C | apply keeps_ite | apply keeps_on)

theorem State.reorderChange_keeps (C : Closed P) {s : State} (hs : P s) : P (State.reorderChange s) := by
  unfold State.reorderChange
  try dsimp only
  repeat' first
    | with_reducible assumption | intro _
    | with_reducible (first
      | exact rfl | apply State.relAll_keeps C | apply keeps_each)

theorem State.ownValues_keeps (C : Closed P) {s : State} (hs : P s) : P (State.ownValues s) := by
  unfold State.ownValues
  try dsimp only
  repeat' first
    | with_reducible assumption | intro _
    | with_reducible (first
      | exact rfl | apply State.wrB_keeps C | apply C.wr | apply keeps_ite | apply keeps_each | apply keeps_when)

theorem State.boundaryTail_keeps (C : Closed P) {s : State} (k : Nat) (x : Int) (hs : P s) :
    P (State.boundaryTail s k x) := by
  unfold State.boundaryTail
  try dsimp only
  repeat' first
    | with_reducible assumption | intro _
    | with_reducible (first
      | exact rfl | apply State.snsTick_keeps C | apply State.flushBehind_keeps C | apply State.upRec_keeps C
      | apply State.trigSource_keeps C | apply keeps_each | apply keeps_on | apply keeps_when)

theorem State.xingReport_keeps (C : Closed P) {s : State} (hs : P s) : P (State.xingReport s) := by
  unfold State.xingReport
  try dsimp only
  repeat' first
    | with_reducible assumption | intro _
    | with_reducible (first
      | exact rfl | apply State.setTdcR_keeps C | apply State.emit_keeps C | apply keeps_ite | apply keeps_each)

theorem State.gapFlush_keeps (C : Closed P) {s : State} (hs : P s) : P (State.gapFlush s) := by
  unfold State.gapFlush
  try dsimp only
  repeat' first
    | with_reducible assumption | intro _
    | with_reducible (first
      | exact rfl | apply State.cabUpd_keeps C | apply State.gapOwn_keeps C | apply State.moduleRec_keeps C
      | apply keeps_ite | apply keeps_iteP | apply keeps_each)

theorem State.onceTick_keeps (C : Closed P) {s : State} (k : Nat) (hs : P s) : P (State.onceTick s k) := by
  unfold State.onceTick
  try dsimp only
  repeat' first
    | with_reducible assumption | intro _
    | with_reducible (first
      | exact rfl | apply State.hkaTick_keeps C | apply State.sramBoundary_keeps C | apply State.xingReport_keeps C
      | apply State.gapFlush_keeps C | apply State.scrubTick_keeps C | apply State.auxFlush_keeps C
      | apply State.featBoundary_keeps C | apply State.ethTick_keeps C | apply State.boundaryTail_keeps C
      | apply keeps_ite | apply keeps_on)

theorem State.stepHeads_keeps (C : Closed P) {s : State} (hs : P s) : P (State.stepHeads s) := by
  unfold State.stepHeads
  try dsimp only
  repeat' first
    | with_reducible assumption | intro _
    | with_reducible (first
      | exact rfl | apply State.headFlag_keeps C | apply keeps_each | apply keeps_when)

theorem State.pwrErr_keeps (C : Closed P) {s : State} (hs : P s) : P (State.pwrErr s) := by
  unfold State.pwrErr
  try dsimp only
  repeat' first
    | with_reducible assumption | intro _
    | with_reducible (first
      | exact rfl | apply State.wrB_keeps C)

theorem State.pwrReady_keeps (C : Closed P) {s : State} (hs : P s) : P (State.pwrReady s) := by
  unfold State.pwrReady
  try dsimp only
  repeat' first
    | with_reducible assumption | intro _
    | with_reducible (first
      | exact rfl | apply State.wrB_keeps C | apply State.pwrErr_keeps C | apply C.wr | apply keeps_ite)
    | split
    | with_reducible (first
      | refine of_pair (by assumption) ?_ | refine of_some (by assumption) ?_ | refine of_somePair (by assumption) ?_
      | apply keeps_fst | apply keeps_mk C)

theorem State.pwrStandby_keeps (C : Closed P) {s : State} (hs : P s) : P (State.pwrStandby s) := by
  unfold State.pwrStandby
  try dsimp only
  repeat' first
    | with_reducible assumption | intro _
    | with_reducible (first
      | exact rfl | apply State.rampDownAll_keeps C | apply State.pwrErr_keeps C | apply keeps_ite)
    | split
    | with_reducible (first
      | refine of_pair (by assumption) ?_ | refine of_some (by assumption) ?_ | refine of_somePair (by assumption) ?_
      | apply keeps_fst | apply keeps_mk C)

theorem State.pwrAcquire_keeps (C : Closed P) {s : State} (hs : P s) : P (State.pwrAcquire s) := by
  unfold State.pwrAcquire
  try dsimp only
  repeat' first
    | with_reducible assumption | intro _
    | with_reducible (first
      | exact rfl | apply State.wrB_keeps C | apply State.pwrErr_keeps C | apply C.wr | apply keeps_ite)

theorem State.repairAuto_keeps (C : Closed P) {s : State} (hs : P s) : P (State.repairAuto s) := by
  unfold State.repairAuto
  try dsimp only
  repeat' first
    | with_reducible assumption | intro _
    | with_reducible (first
      | exact rfl | apply State.repairRun_keeps C | apply keeps_ite | apply keeps_on)

theorem State.tdcDrainDone_keeps (C : Closed P) {s : State} (r : Fin 16) (hs : P s) : P (State.tdcDrainDone s r) := by
  unfold State.tdcDrainDone
  try dsimp only
  repeat' first
    | with_reducible assumption | intro _
    | with_reducible (first
      | exact rfl | apply State.setTdcR_keeps C | apply State.wrB_keeps C | apply C.wr | apply keeps_ite)

theorem State.rateNote_keeps (C : Closed P) {s : State} (r : Fin 16) (n : Nat) (hs : P s) :
    P (State.rateNote s r n) := by
  unfold State.rateNote
  try dsimp only
  repeat' first
    | with_reducible assumption | intro _
    | with_reducible (first
      | exact rfl | apply State.setTdcR_keeps C | apply State.bump_keeps C | apply State.wrBit_keeps C
      | apply State.rateCount_keeps C | apply C.wr | apply keeps_ite | apply keeps_on)

theorem State.readoutVisit_keeps (C : Closed P) {s : State} (r : Fin 16) (hs : P s) : P (State.readoutVisit s r) := by
  unfold State.readoutVisit
  try dsimp only
  repeat' first
    | with_reducible assumption | intro _
    | with_reducible (first
      | exact rfl | apply State.takeEntry_keeps C | apply State.bump_keeps C | apply State.rateNote_keeps C
      | apply State.correctEntry_keeps C | apply State.evbArrive_keeps C | apply keeps_ite | apply keeps_iteP
      | apply keeps_on)
    | split
    | with_reducible (first
      | refine of_pair (by assumption) ?_ | refine of_some (by assumption) ?_ | refine of_somePair (by assumption) ?_
      | apply keeps_fst)

theorem State.auxDeliver_keeps (C : Closed P) {s : State} (c : Fin 4) (w : Nat) (hs : P s) :
    P (State.auxDeliver s c w) := by
  unfold State.auxDeliver
  try dsimp only
  repeat' first
    | with_reducible assumption | intro _
    | with_reducible (first
      | exact rfl | apply State.auxFlush_keeps C | apply State.auxWord_keeps C | apply State.setAux_keeps C
      | apply State.bump_keeps C | apply State.wrBit_keeps C | apply C.wr | apply keeps_ite)

theorem State.auxUse_keeps (C : Closed P) {s : State} (c : Fin 4) (x : Int) (hs : P s) : P (State.auxUse s c x) := by
  unfold State.auxUse
  try dsimp only
  repeat' first
    | with_reducible assumption | intro _
    | with_reducible (first
      | exact rfl | apply State.gateSync_keeps C | apply State.injSyncEdge_keeps C | apply State.trgInput_keeps C
      | apply keeps_ite | apply keeps_each | apply keeps_on)

theorem State.auxEdge_keeps (C : Closed P) {s : State} (c : Fin 4) (falling : Bool) (raw : RawCapture) (refs : Nat) (hs : P s) :
    P (State.auxEdge s c falling raw refs) := by
  unfold State.auxEdge
  try dsimp only
  repeat' first
    | with_reducible assumption | intro _
    | with_reducible (first
      | exact rfl | apply State.setAux_keeps C | apply State.bump_keeps C | apply State.auxUse_keeps C
      | apply State.ppsEdge_keeps C | apply State.auxDeliver_keeps C | apply keeps_ite | apply keeps_iteP
      | apply keeps_on | apply keeps_when)

theorem State.oflOne_keeps (C : Closed P) {s : State} (p : PktRef) (hs : P s) : (OptP P) (State.oflOne s p) := by
  unfold State.oflOne
  try dsimp only
  repeat' first
    | with_reducible assumption | intro _
    | with_reducible (first
      | exact rfl | apply State.deliverPkt_keeps C | apply State.putItem_keeps C | apply keeps_ite | apply keeps_iteO
      | apply keeps_iteP | apply optP_none | apply optP_some | apply optP_mapS | apply optP_mapP | apply optP_map)
    | split
    | with_reducible (first
      | refine of_pair (by assumption) ?_ | refine of_some (by assumption) ?_ | refine of_somePair (by assumption) ?_
      | apply keeps_fst)

theorem State.oflEnd_keeps (C : Closed P) {s : State} (hs : P s) : P (State.oflEnd s) := by
  unfold State.oflEnd
  try dsimp only
  repeat' first
    | with_reducible assumption | intro _
    | with_reducible (first
      | exact rfl | apply State.wrB_keeps C | apply C.wr)
    | split
    | with_reducible (first
      | refine of_pair (by assumption) ?_ | refine of_some (by assumption) ?_ | refine of_somePair (by assumption) ?_
      | apply keeps_fst | apply keeps_mk C)

theorem State.oflPass_keeps (C : Closed P) {s : State} (o : Nat) (p : PktRef) (hs : P s) : P (State.oflPass s o p) := by
  unfold State.oflPass
  try dsimp only
  repeat' first
    | with_reducible assumption | intro _
    | with_reducible (first
      | exact rfl | apply State.readPkt_keeps C)
    | split
    | with_reducible (first
      | refine of_pair (by assumption) ?_ | refine of_some (by assumption) ?_ | refine of_somePair (by assumption) ?_
      | apply keeps_fst | apply keeps_mk C)

theorem State.oflRun_keeps (C : Closed P) {s : State} (opn : Bool) (l : List (Nat × PktRef)) (n : Nat) (hs : P s) :
    P (State.oflRun s opn l n) := by
  induction n generalizing s l with
  | zero =>
    cases l with
    | nil => unfold State.oflRun; exact State.oflEnd_keeps C hs
    | cons _ _ => unfold State.oflRun; exact hs
  | succ n ih =>
    cases l with
    | nil => unfold State.oflRun; exact State.oflEnd_keeps C hs
    | cons a l =>
      obtain ⟨o, p⟩ := a
      unfold State.oflRun
      refine keeps_ite (keeps_ite (State.oflEnd_keeps C hs) hs) ?_
      split
      · exact hs
      · next t ht =>
        have h := of_some ht (State.oflOne_keeps C p hs)
        exact ih _ (C.wr _ _ _ (C.same (s := t) ⟨rfl, rfl, rfl, rfl, rfl, rfl, rfl, rfl, rfl, rfl⟩ h))

theorem State.oflPump_keeps (C : Closed P) {s : State} (hs : P s) : P (State.oflPump s) := by
  unfold State.oflPump
  try dsimp only
  repeat' first
    | with_reducible assumption | intro _
    | with_reducible (first
      | exact rfl | apply State.oflEnd_keeps C | apply State.oflRun_keeps C)
    | split

theorem State.oflStart_keeps (C : Closed P) {s : State} (hs : P s) : P (State.oflStart s) := by
  unfold State.oflStart
  try dsimp only
  repeat' first
    | with_reducible assumption | intro _
    | with_reducible (first
      | exact rfl | apply State.wrB_keeps C | apply State.oflPump_keeps C | apply C.wr | apply keeps_ite)
    | split
    | with_reducible (first
      | refine of_pair (by assumption) ?_ | refine of_some (by assumption) ?_ | refine of_somePair (by assumption) ?_
      | apply keeps_fst | apply keeps_mk C)

theorem State.oflAbort_keeps (C : Closed P) {s : State} (hs : P s) : P (State.oflAbort s) := by
  unfold State.oflAbort
  try dsimp only
  repeat' first
    | with_reducible assumption | intro _
    | with_reducible (first
      | exact rfl | apply State.wrB_keeps C | apply C.wr | apply keeps_ite)
    | split
    | with_reducible (first
      | refine of_pair (by assumption) ?_ | refine of_some (by assumption) ?_ | refine of_somePair (by assumption) ?_
      | apply keeps_fst | apply keeps_mk C)

theorem State.tdcReload_keeps (C : Closed P) {s : State} (r : Fin 16) (i : Nat) (hs : P s) :
    P (State.tdcReload s r i) := by
  unfold State.tdcReload
  try dsimp only
  repeat' first
    | with_reducible assumption | intro _
    | with_reducible (first
      | exact rfl | apply State.setTdcR_keeps C | apply keeps_ite)
    | split
    | with_reducible (first
      | refine of_pair (by assumption) ?_ | refine of_some (by assumption) ?_ | refine of_somePair (by assumption) ?_
      | apply keeps_fst | apply keeps_mk C)

theorem State.maskReload_keeps (C : Closed P) {s : State} (r : Fin 16) (i : Nat) (hs : P s) :
    P (State.maskReload s r i) := by
  unfold State.maskReload
  try dsimp only
  repeat' first
    | with_reducible assumption | intro _
    | with_reducible exact rfl
    | split
    | with_reducible (first
      | refine of_pair (by assumption) ?_ | refine of_some (by assumption) ?_ | refine of_somePair (by assumption) ?_
      | apply keeps_fst | apply keeps_mk C)

theorem State.sramBad_keeps (C : Closed P) {s : State} (h : SramHit) (hs : P s) : P (State.sramBad s h) := by
  unfold State.sramBad
  try dsimp only
  repeat' first
    | with_reducible assumption | intro _
    | with_reducible (first
      | exact rfl | apply State.bump_keeps C | apply State.detect_keeps C | apply State.tdcReload_keeps C
      | apply State.maskReload_keeps C | apply State.setEvbR_keeps C | apply State.codeFault_keeps C
      | apply State.setSlot_keeps C | apply State.poisonNow_keeps C | apply keeps_ite | apply keeps_iteP
      | apply keeps_each)
    | split

theorem State.sramScrub_keeps (C : Closed P) {s : State} (l : List SramHit) (hs : P s) : P (State.sramScrub s l) := by
  unfold State.sramScrub
  try dsimp only
  repeat' first
    | with_reducible assumption | intro _
    | with_reducible (first
      | exact rfl | apply State.sramBad_keeps C | apply State.sramFixed_keeps C | apply keeps_ite | apply keeps_each)

theorem State.stepWrite_keeps (C : Closed P) {s : State} (own : Bool) (hs : P s) : P (State.stepWrite s own) := by
  unfold State.stepWrite
  try dsimp only
  repeat' first
    | with_reducible assumption | intro _
    | with_reducible (first
      | exact rfl | apply State.stepCmd_keeps C | apply keeps_ite)

theorem State.sessClose_keeps (C : Closed P) {s : State} (n : Fin 8) (hs : P s) : P (State.sessClose s n) := by
  unfold State.sessClose
  try dsimp only
  repeat' first
    | with_reducible assumption | intro _
    | with_reducible (first
      | exact rfl | apply State.ctlUpd_keeps C | apply State.wrBit_keeps C | apply C.wr)

theorem State.keyChange_keeps (_ : Closed P) {s : State} (a : Accessor) {f : State → State} (hs : P s) (hf : ∀ a, P a → P (f a)) :
    (PairP P) (State.keyChange s a f) := by
  unfold State.keyChange
  try dsimp only
  repeat' first
    | with_reducible assumption | intro _
    | with_reducible (first
      | exact rfl | apply hf | apply keeps_ite | apply keeps_iteP | apply pairP_mk)

theorem State.keyClosing_keeps (C : Closed P) {s : State} (n : Nat) (hs : P s) : P (State.keyClosing s n) := by
  unfold State.keyClosing
  try dsimp only
  repeat' first
    | with_reducible assumption | intro _
    | with_reducible (first
      | exact rfl | apply State.ctlUpd_keeps C)

theorem State.keyPut_keeps (C : Closed P) {s : State} (n : Nat) (v : Nat) (hs : P s) : P (State.keyPut s n v) := by
  unfold State.keyPut
  try dsimp only
  repeat' first
    | with_reducible assumption | intro _
    | with_reducible (first
      | exact rfl | apply State.wrBit_keeps C | apply State.keyClosing_keeps C | apply State.emit_keeps C | apply C.wr)

theorem State.keyEmpty_keeps (C : Closed P) {s : State} (n : Nat) (hs : P s) : P (State.keyEmpty s n) := by
  unfold State.keyEmpty
  try dsimp only
  repeat' first
    | with_reducible assumption | intro _
    | with_reducible (first
      | exact rfl | apply State.wrBit_keeps C | apply State.keyClosing_keeps C | apply State.emit_keeps C | apply C.wr)

theorem State.keyWrite_keeps (C : Closed P) {s : State} (a : Accessor) (n : Nat) (v : Nat) (hs : P s) :
    (PairP P) (State.keyWrite s a n v) := by
  unfold State.keyWrite
  try dsimp only
  repeat' first
    | with_reducible assumption | intro _
    | with_reducible (first
      | exact rfl | apply State.keyChange_keeps C | apply State.keyPut_keeps C)

theorem State.keyLevel_keeps (C : Closed P) {s : State} (a : Accessor) (n : Nat) (v : Nat) (hs : P s) :
    (PairP P) (State.keyLevel s a n v) := by
  unfold State.keyLevel
  try dsimp only
  repeat' first
    | with_reducible assumption | intro _
    | with_reducible (first
      | exact rfl | apply State.keyChange_keeps C | apply State.emit_keeps C | apply C.wr | apply keeps_ite
      | apply keeps_iteP | apply pairP_mk)

theorem State.keyRevoke_keeps (C : Closed P) {s : State} (a : Accessor) (n : Nat) (hs : P s) :
    (PairP P) (State.keyRevoke s a n) := by
  unfold State.keyRevoke
  try dsimp only
  repeat' first
    | with_reducible assumption | intro _
    | with_reducible (first
      | exact rfl | apply State.keyChange_keeps C | apply State.keyEmpty_keeps C)

theorem State.keyClear_keeps (C : Closed P) {s : State} (a : Accessor) (hs : P s) : (PairP P) (State.keyClear s a) := by
  unfold State.keyClear
  try dsimp only
  repeat' first
    | with_reducible assumption | intro _
    | with_reducible (first
      | exact rfl | apply State.keyEmpty_keeps C | apply keeps_ite | apply keeps_iteP | apply keeps_each
      | apply pairP_mk)

theorem State.keySettle_keeps (C : Closed P) {s : State} (hs : P s) : P (State.keySettle s) := by
  unfold State.keySettle
  try dsimp only
  repeat' first
    | with_reducible assumption | intro _
    | with_reducible (first
      | exact rfl | apply State.sessClose_keeps C | apply State.ctlUpd_keeps C | apply C.wr | apply keeps_ite
      | apply keeps_each)
    | split

theorem State.provision_keeps (C : Closed P) {s : State} (level : Bool) (hs : P s) : P (State.provision s level) := by
  unfold State.provision
  try dsimp only
  repeat' first
    | with_reducible assumption | intro _
    | with_reducible (first
      | exact rfl | apply State.wrB_keeps C | apply State.wrBit_keeps C | apply State.emit_keeps C
      | apply State.sessClose_keeps C | apply C.wr | apply keeps_ite | apply keeps_each)

theorem State.fwState_keeps (C : Closed P) {s : State} (n : Nat) (hs : P s) : P (State.fwState s n) := by
  unfold State.fwState
  try dsimp only
  repeat' first
    | with_reducible assumption | intro _
    | with_reducible (first
      | exact rfl | apply State.emit_keeps C | apply C.wr | apply keeps_ite)

theorem State.setFwSlot_keeps (C : Closed P) {s : State} (x : FwSlot) (hs : P s) : P (State.setFwSlot s x) := by
  unfold State.setFwSlot
  try dsimp only
  repeat' first
    | with_reducible assumption | intro _
    | with_reducible (first
      | exact rfl | apply State.setSlotFw_keeps C)

theorem State.fwBegin_keeps (C : Closed P) {s : State} (own : Bool) (hs : P s) : P (State.fwBegin s own) := by
  unfold State.fwBegin
  try dsimp only
  repeat' first
    | with_reducible assumption | intro _
    | with_reducible (first
      | exact rfl | apply State.fwState_keeps C | apply State.setFwSlot_keeps C | apply keeps_ite)

theorem State.fwErased_keeps (C : Closed P) {s : State} (flashErr : Bool) (hs : P s) :
    P (State.fwErased s flashErr) := by
  unfold State.fwErased
  try dsimp only
  repeat' first
    | with_reducible assumption | intro _
    | with_reducible (first
      | exact rfl | apply State.fwState_keeps C | apply keeps_ite)

theorem State.fwData_keeps (C : Closed P) {s : State} (own : Bool) (off : Nat) (ws : List (BitVec 32)) (hs : P s) :
    (PairP P) (State.fwData s own off ws) := by
  unfold State.fwData
  try dsimp only
  repeat' first
    | with_reducible assumption | intro _
    | with_reducible (first
      | exact rfl | apply State.fresh_keeps C | apply State.setFwSlot_keeps C | apply keeps_ite | apply keeps_iteP
      | apply pairP_mk)

theorem State.fwVerify_keeps (C : Closed P) {s : State} (own : Bool) (hs : P s) : P (State.fwVerify s own) := by
  unfold State.fwVerify
  try dsimp only
  repeat' first
    | with_reducible assumption | intro _
    | with_reducible (first
      | exact rfl | apply State.fwState_keeps C | apply State.wrB_keeps C | apply C.wr | apply keeps_ite)

theorem State.fwVerified_keeps (C : Closed P) {s : State} (flashErr : Bool) (hs : P s) :
    P (State.fwVerified s flashErr) := by
  unfold State.fwVerified
  try dsimp only
  repeat' first
    | with_reducible assumption | intro _
    | with_reducible (first
      | exact rfl | apply State.fwState_keeps C | apply keeps_ite)

theorem State.fwAbort_keeps (C : Closed P) {s : State} (own : Bool) (hs : P s) : P (State.fwAbort s own) := by
  unfold State.fwAbort
  try dsimp only
  repeat' first
    | with_reducible assumption | intro _
    | with_reducible (first
      | exact rfl | apply State.setFwSlot_keeps C | apply State.fwState_keeps C | apply keeps_ite)

theorem State.readWord_keeps (C : Closed P) {s : State} (a : Accessor) (p : Nat) (o : Nat) (view : Bool) (hs : P s) :
    (PairP P) (State.readWord s a p o view) := by
  unfold State.readWord
  try dsimp only
  repeat' first
    | with_reducible assumption | intro _
    | with_reducible (first
      | exact rfl | apply State.maskNext_keeps C | apply State.ofsNext_keeps C | apply State.ctxWord_keeps C
      | apply State.setSnap_keeps C | apply State.snapWord_keeps C | apply keeps_ite | apply keeps_iteP
      | apply pairP_mk | apply keeps_getD)
    | split
    | with_reducible (first
      | refine of_pair (by assumption) ?_ | refine of_some (by assumption) ?_ | refine of_somePair (by assumption) ?_
      | apply keeps_fst)

theorem State.binWrite_keeps (C : Closed P) {s : State} (r : Fin 16) (v : Nat) (hs : P s) :
    P (State.binWrite s r v) := by
  unfold State.binWrite
  try dsimp only
  repeat' first
    | with_reducible assumption | intro _
    | with_reducible (first
      | exact rfl | apply State.setGroup_keeps C | apply State.wrB_keeps C | apply C.wr | apply keeps_ite)

theorem State.biasWrite_keeps (C : Closed P) {s : State} (v : Nat) (hs : P s) : P (State.biasWrite s v) := by
  unfold State.biasWrite
  try dsimp only
  repeat' first
    | with_reducible assumption | intro _
    | with_reducible (first
      | exact rfl | apply State.biasEnSet_keeps C | apply State.biasEnClear_keeps C | apply keeps_ite
      | apply keeps_each)

theorem State.cmdGo_keeps (C : Closed P) {s : State} (hs : P s) : P (State.cmdGo s) := by
  unfold State.cmdGo
  try dsimp only
  repeat' first
    | with_reducible assumption | intro _
    | with_reducible (first
      | exact rfl | apply State.cabCmd_keeps C | apply State.shelfDef_keeps C | apply State.shelfDel_keeps C
      | apply State.reelDef_keeps C | apply State.reelDel_keeps C | apply State.reelClear_keeps C
      | apply State.takeStart_keeps C | apply State.takeStop_keeps C | apply State.takeRelease_keeps C
      | apply State.takeDelete_keeps C | apply State.dirRead_keeps C | apply State.cmdReserved_keeps C)
    | split

theorem State.rstWrite_keeps (C : Closed P) {s : State} (a : Accessor) (hs : P s) : P (State.rstWrite s a) := by
  unfold State.rstWrite
  try dsimp only
  repeat' first
    | with_reducible assumption | intro _
    | with_reducible (first
      | exact rfl | apply State.wrB_keeps C | apply State.pmrUpd_keeps C | apply C.wr | apply keeps_ite)

theorem State.countWrite_keeps (C : Closed P) {s : State} (a : Accessor) (p : Nat) (hs : P s) :
    P (State.countWrite s a p) := by
  unfold State.countWrite
  try dsimp only
  repeat' first
    | with_reducible assumption | intro _
    | with_reducible (first
      | exact rfl | apply State.bump_keeps C | apply C.wr)

theorem State.denied_keeps (C : Closed P) {s : State} (p : Nat) (st : Nat) (hs : P s) : P (State.denied s p st) := by
  unfold State.denied
  try dsimp only
  repeat' first
    | with_reducible assumption | intro _
    | with_reducible (first
      | exact rfl | apply State.bump_keeps C | apply keeps_ite)

theorem State.readOp_keeps (C : Closed P) (s0 : State) {s : State} (a : Accessor) (fixed : Bool) (addr : Nat) (n : Nat) (hs : P s) :
    (PairP P) (State.readOp s0 s a fixed addr n) := by
  unfold State.readOp
  try dsimp only
  repeat' first
    | with_reducible assumption | intro _
    | with_reducible (first
      | exact rfl | apply State.denied_keeps C | apply State.readWord_keeps C | apply keeps_foldl_pair
      | apply keeps_ite | apply keeps_iteP | apply keeps_foldl | apply pairP_mk)
    | split
    | with_reducible (first
      | refine of_pair (by assumption) ?_ | refine of_some (by assumption) ?_ | refine of_somePair (by assumption) ?_
      | apply keeps_fst)

theorem State.thbTake_keeps (C : Closed P) {s : State} (h : ThbHead) (hs : P s) : P (State.thbTake s h) := by
  unfold State.thbTake
  try dsimp only
  repeat' first
    | with_reducible assumption | intro _
    | with_reducible (first
      | exact rfl | apply State.ethUpd_keeps C)
    | split

theorem State.authFail_keeps (C : Closed P) {s : State} (hs : P s) : P (State.authFail s) := by
  unfold State.authFail
  try dsimp only
  repeat' first
    | with_reducible assumption | intro _
    | with_reducible (first
      | exact rfl | apply State.bump_keeps C)

theorem State.replayDrop_keeps (C : Closed P) {s : State} (hs : P s) : P (State.replayDrop s) := by
  unfold State.replayDrop
  try dsimp only
  repeat' first
    | with_reducible assumption | intro _
    | with_reducible (first
      | exact rfl | apply State.bump_keeps C)

theorem State.openSay_keeps (C : Closed P) {s : State} (h : ThbHead) (n : Nat) (status : Nat) (level : Nat) (salt : Nat) (nonce : Nat) (hs : P s) :
    P (State.openSay s h n status level salt nonce) := by
  unfold State.openSay
  try dsimp only
  repeat' first
    | with_reducible assumption | intro _
    | with_reducible exact rfl
    | split
    | with_reducible (first
      | refine of_pair (by assumption) ?_ | refine of_some (by assumption) ?_ | refine of_somePair (by assumption) ?_
      | apply keeps_fst | apply keeps_mk C)

theorem State.sessOpen_keeps (C : Closed P) {s : State} (n : Fin 8) (h : ThbHead) (asked : Nat) (salt : Nat) (hs : P s) :
    P (State.sessOpen s n h asked salt) := by
  unfold State.sessOpen
  try dsimp only
  repeat' first
    | with_reducible assumption | intro _
    | with_reducible (first
      | exact rfl | apply State.setSession_keeps C | apply State.wrBit_keeps C | apply C.wr)

theorem State.openMsg_keeps (C : Closed P) {s : State} (h : ThbHead) (asked : Nat) (nonce : Nat) (hs : P s) :
    P (State.openMsg s h asked nonce) := by
  unfold State.openMsg
  try dsimp only
  repeat' first
    | with_reducible assumption | intro _
    | with_reducible (first
      | exact rfl | apply State.replayDrop_keeps C | apply State.ctlUpd_keeps C | apply State.openSay_keeps C
      | apply State.sessOpen_keeps C | apply keeps_ite)
    | split

end Sys2Proof.Machine
end

