-- ==== Sys2Proof/Laws/RegForm.lean ====
section
/-! SUPPORT. The form of the register maps is kept by every way a register changes. -/

namespace Sys2Proof.Machine

open Sys2Proof Safety

theorem Fld.cut_cut (f : Fld) (v : Nat) : f.cut (f.cut v) = f.cut v := by
  unfold Fld.cut
  split
  · rw [Nat.and_assoc, Nat.and_self]
  · exact Nat.mod_mod _ _

theorem Fld.cut_resetVal (f : Fld) (i : Nat) : f.cut (f.resetVal i) = f.resetVal i := f.cut_cut _

theorem mem_spSet {m : Sp} {k v d : Nat} {e : Nat × Nat} (h : e ∈ spSet m k v d) : (e = (k, v) ∧ v ≠ d) ∨ e ∈ m := by
  unfold spSet at h
  split at h
  · exact .inr (List.mem_filter.1 h).1
  · next hv =>
    rcases mem_ins _ _ _ _ h with h | h
    · exact .inl ⟨h, by simpa using hv⟩
    · exact .inr (List.mem_filter.1 h).1

theorem mapOk_nil : MapOk [] := ⟨rfl, fun _ _ _ h => by cases h⟩

/-- A value written as a register's key is written keeps the form. -/
theorem mapOk_set {m : Sp} (f : Fld) (i v : Nat) (h : MapOk m) : MapOk (spSet m (f.key i) (f.cut v) (f.resetVal i)) := by
  refine ⟨spSorted_set m _ _ _ h.1, fun g j w hw => ?_⟩
  rcases mem_spSet hw with ⟨he, hv⟩ | he
  · obtain ⟨hk, rfl⟩ := Prod.mk.inj he
    obtain ⟨rfl, rfl⟩ := Fld.key_inj hk
    exact ⟨hv, g.cut_cut v⟩
  · exact h.2 g j w he

/-- A map narrowed to some registers keeps the form. -/
theorem mapOk_filter {m : Sp} (p : Nat × Nat → Bool) (h : MapOk m) : MapOk (m.filter p) :=
  ⟨spSorted_filter m p h.1, fun f i v hv => h.2 f i v (List.mem_filter.1 hv).1⟩

/-- Some registers' entries replaced by another map's keep the form. -/
theorem mapOk_mix {sh fo : Sp} (q : Nat → Bool) (hs : MapOk sh) (hf : MapOk fo) : MapOk (spMix sh fo q) :=
  ⟨spSorted_mix sh fo q hs.1 hf.1, fun f i v hv => (mem_mix hv).elim (hs.2 f i v) (hf.2 f i v)⟩

/-- What a register reads has only bits the field has. -/
theorem mapOk_get {m : Sp} (f : Fld) (i : Nat) (h : MapOk m) : f.cut (spGet m (f.key i) (f.resetVal i)) = spGet m (f.key i) (f.resetVal i) := by
  have key : ∀ (l : Sp), (∀ e ∈ l, e ∈ m) → f.cut (spGet l (f.key i) (f.resetVal i)) = spGet l (f.key i) (f.resetVal i) := by
    intro l
    induction l with
    | nil => intro _; exact f.cut_resetVal i
    | cons e l ih =>
      intro hl
      obtain ⟨a, v⟩ := e
      simp only [spGet]
      split
      · next he =>
        have : a = f.key i := by simpa using he
        subst this
        exact (h.2 f i v (hl _ List.mem_cons_self)).2
      · exact ih (fun x hx => hl x (List.mem_cons_of_mem _ hx))
  exact key m (fun _ h => h)

theorem regOk_wr {s : State} (f : Fld) (i v : Nat) (h : RegOk s) : RegOk (s.wr f i v) := by
  obtain ⟨h1, h2, h3, h4⟩ := h
  unfold State.wr
  split
  · exact ⟨h1, mapOk_set f i v h2, mapOk_set f i v h3, h4⟩
  · exact ⟨mapOk_set f i v h1, h2, h3, h4⟩

theorem regOk_wrSh {s : State} (f : Fld) (i v : Nat) (h : RegOk s) : RegOk (s.wrSh f i v) :=
  ⟨h.1, h.2.1, mapOk_set f i v h.2.2.1, h.2.2.2⟩

theorem regOk_wrForce {s : State} (f : Fld) (i v : Nat) (h : RegOk s) : RegOk (s.wrForce f i v) :=
  ⟨h.1, mapOk_set f i v h.2.1, h.2.2⟩

theorem regOk_reset : RegOk State.reset := ⟨mapOk_nil, mapOk_nil, mapOk_nil, fun _ h => by cases h⟩

end Sys2Proof.Machine
end

