-- ==== Sys2Proof/Laws/KeepForm.lean ====
section
/-! SUPPORT. The operations that change the power state, the tick index or whole register maps keep the form of the maps. -/

namespace Sys2Proof.Machine

open Sys2Proof Safety

theorem staged_of_map {a b : Option Staged} (e : b.map (·.regs) = a.map (·.regs)) (h : ∀ g, a = some g → MapOk g.regs) : ∀ g, b = some g → MapOk g.regs := by
  intro g hg
  subst hg
  cases a with
  | none => cases e
  | some x => 
    have : g.regs = x.regs := Option.some.inj e
    rw [this]; exact h x rfl

theorem regOk_congr {s u : State} (hr : u.reg = s.reg) (hf : u.force = s.force) (hs : u.shadow = s.shadow)
    (ht : u.staged.map (·.regs) = s.staged.map (·.regs)) (h : RegOk s) : RegOk u := by
  obtain ⟨h1, h2, h3, h4⟩ := h
  exact ⟨hr ▸ h1, hf ▸ h2, hs ▸ h3, staged_of_map ht h4⟩

theorem regOk_closed : Closed RegOk := ⟨fun c h => regOk_congr c.reg c.force c.shadow c.staged h, fun f i v h => regOk_wr f i v h,
  fun f i v h => regOk_wrSh f i v h, fun f i v h => regOk_wrForce f i v h⟩

theorem regOk_mk {s : State} (clock_ : Nat) (free_ : Nat) (pwr_ : Pwr) (held_ : Nat) (staged_ : Option Staged) (evSeq_ : Nat) (evq_ : List EvRec) (evUp_ : List EvRec) (evLost_ : Nat) (detected_ : List Det) (pmr_ : Pmr) (flash_ : Flash) (sns_ : Sns) (pfe_ : Pfe) (tdc_ : Tdc) (tbs_ : Tbs) (seq_ : Seq) (evb_ : Evb) (hst_ : Hst) (accum_ : Accum) (cmp_ : Cmp) (que_ : Que) (cab_ : Cab) (edc_ : Edc) (trg_ : Trg) (lnk_ : Lnk) (tre_ : Tre) (hka_ : Hka) (flt_ : Flt) (eth_ : Eth) (ctl_ : Ctl) (lastRead_ : Nat) (out_ : List Out) (pending_ : List Instr)
    (hst : staged_.map (·.regs) = s.staged.map (·.regs)) (h : RegOk s) :
    RegOk (State.mk clock_ free_ pwr_ held_ s.reg s.force s.shadow staged_ evSeq_ evq_ evUp_ evLost_ detected_ pmr_ flash_ sns_ pfe_ tdc_ tbs_ seq_ evb_ hst_ accum_ cmp_ que_ cab_ edc_ trg_ lnk_ tre_ hka_ flt_ eth_ ctl_ lastRead_ out_ pending_) := regOk_congr (s := s) rfl rfl rfl hst h

theorem regOk_swap {s : State} {sh : Sp} (u : State) (hr : u.reg = s.reg) (hf : u.force = s.force) (hs : u.shadow = sh) (ht : u.staged.map (·.regs) = s.staged.map (·.regs)) (h : RegOk s) (hm : MapOk sh) : RegOk u :=
  ⟨hr ▸ h.1, hf ▸ h.2.1, hs ▸ hm, staged_of_map ht h.2.2.2⟩

theorem mapOk_reset {m : Sp} (f : Fld) (i : Nat) (h : MapOk m) : MapOk (spSet m (f.key i) (f.resetVal i) (f.resetVal i)) := by
  have := mapOk_set f i (f.resetVal i) h
  rwa [Fld.cut_resetVal] at this

theorem regOk_noStaged {s : State} (h : RegOk s) : RegOk { s with staged := none } := ⟨h.1, h.2.1, h.2.2.1, fun _ e => by cases e⟩

theorem regOk_staged {s : State} (g : Staged) (h : RegOk s) (hg : MapOk g.regs) : RegOk { s with staged := some g } := ⟨h.1, h.2.1, h.2.2.1, fun _ e => by cases e; exact hg⟩

theorem mapOk_cut {m : Sp} (f : Fld) (i v : Nat) (hv : f.cut v = v) (h : MapOk m) : MapOk (spSet m (f.key i) v (f.resetVal i)) := by
  have := mapOk_set f i v h
  rwa [hv] at this

theorem State.setPwr_regOk {s : State} (p : Pwr) (hs : RegOk s) : RegOk (State.setPwr s p) := by
  unfold State.setPwr
  try dsimp only
  repeat' first
    | with_reducible assumption | intro _
    | with_reducible (first
      | exact rfl | apply regOk_wr | apply regOk_wrSh | apply regOk_wrForce)
    | split
    | with_reducible (first
      | refine of_pair (by assumption) ?_ | refine of_some (by assumption) ?_ | refine of_somePair (by assumption) ?_
      | apply keeps_fst | apply regOk_mk)

theorem State.safeNow_regOk {s : State} (cls unit : Nat) (h : RegOk s) : RegOk (s.safeNow cls unit) := by
  unfold State.safeNow
  extract_lets s1 s2 s3 s4 kept s5 _ _
  have h1 : RegOk s1 := State.emit_keeps regOk_closed _ _ (State.wrB_keeps regOk_closed _ _ _ h)
  have h2 : RegOk s2 := keeps_ite (State.standbyResume_keeps regOk_closed h1) h1
  have h3 : RegOk s3 := State.lnkSafe_keeps regOk_closed (State.trigRelease_keeps regOk_closed (State.wrB_keeps regOk_closed _ _ _ (State.setPwr_regOk _ h2)))
  have h4 : RegOk s4 := State.crowbarAll_keeps regOk_closed h3
  have h5 : RegOk s5 := State.regionsAbort_keeps regOk_closed _ h4
  have hk : MapOk kept := h4.2.2.1
  clear_value kept s5
  exact ⟨h5.1, h5.2.1, hk, h5.2.2.2⟩

theorem State.enterSafe_regOk {s : State} (cls : Nat) (unit : Nat) (hs : RegOk s) :
    RegOk (State.enterSafe s cls unit) := by
  unfold State.enterSafe
  try dsimp only
  repeat' first
    | with_reducible assumption | intro _
    | with_reducible (first
      | exact rfl | apply State.wrB_keeps regOk_closed | apply State.safeNow_regOk | apply regOk_wr | apply regOk_wrSh
      | apply regOk_wrForce | apply keeps_ite)

theorem State.react_regOk {s : State} (d : Det) (lvl : Nat) (act : Bool) (hs : RegOk s) :
    RegOk (State.react s d lvl act) := by
  unfold State.react
  try dsimp only
  repeat' first
    | with_reducible assumption | intro _
    | with_reducible (first
      | exact rfl | apply State.ownShadow_keeps regOk_closed | apply State.react2_keeps regOk_closed
      | apply State.react3_keeps regOk_closed | apply State.enterSafe_regOk
      | apply State.openShadow_keeps regOk_closed | apply regOk_wr | apply regOk_wrSh | apply regOk_wrForce
      | apply keeps_ite | apply keeps_when)
    | split
    | with_reducible (first
      | refine of_pair (by assumption) ?_ | refine of_some (by assumption) ?_ | refine of_somePair (by assumption) ?_
      | apply keeps_fst | apply regOk_mk)

theorem State.raise_regOk {s : State} (d : Det) (hs : RegOk s) : RegOk (State.raise s d) := by
  unfold State.raise
  try dsimp only
  repeat' first
    | with_reducible assumption | intro _
    | with_reducible (first
      | exact rfl | apply State.fltUpd_keeps regOk_closed | apply State.bump_keeps regOk_closed
      | apply State.emitAs_keeps regOk_closed | apply State.emit_keeps regOk_closed | apply State.react_regOk
      | apply State.fltRegs_keeps regOk_closed | apply regOk_wr | apply regOk_wrSh | apply regOk_wrForce
      | apply keeps_ite | apply keeps_iteP | apply keeps_when | apply keeps_getD)
    | split

theorem State.faultTake_regOk {s : State} (hs : RegOk s) : RegOk (State.faultTake s) := by
  unfold State.faultTake
  try dsimp only
  repeat' first
    | with_reducible assumption | intro _
    | with_reducible (first
      | exact rfl | apply State.raise_regOk | apply regOk_wr | apply regOk_wrSh | apply regOk_wrForce)
    | split
    | with_reducible (first
      | refine of_pair (by assumption) ?_ | refine of_some (by assumption) ?_ | refine of_somePair (by assumption) ?_
      | apply keeps_fst | apply regOk_mk)

theorem State.release_regOk {s : State} (l : List Blk) (hs : RegOk s) : RegOk (State.release s l) := by
  unfold State.release
  try dsimp only
  repeat' first
    | with_reducible assumption | intro _
    | with_reducible (first
      | exact rfl | apply regOk_wr | apply regOk_wrSh | apply regOk_wrForce | apply keeps_foldl_pair
      | apply keeps_foldl | apply pairP_mk)
    | split
    | with_reducible (first
      | refine of_pair (by assumption) ?_ | refine of_some (by assumption) ?_ | refine of_somePair (by assumption) ?_
      | apply keeps_fst | apply regOk_mk)

theorem State.runSlot_regOk {s : State} (b : Bool) (trial : Bool) (hs : RegOk s) : RegOk (State.runSlot s b trial) := by
  unfold State.runSlot
  try dsimp only
  repeat' first
    | with_reducible assumption | intro _
    | with_reducible (first
      | exact rfl | apply State.wrB_keeps regOk_closed | apply State.pmrUpd_keeps regOk_closed
      | apply State.loadCore_keeps regOk_closed | apply State.release_regOk)

theorem State.recover_regOk {s : State} (hs : RegOk s) : RegOk (State.recover s) := by
  unfold State.recover
  try dsimp only
  repeat' first
    | with_reducible assumption | intro _
    | with_reducible (first
      | exact rfl | apply State.pmrUpd_keeps regOk_closed | apply State.detect_keeps regOk_closed
      | apply State.loadCore_keeps regOk_closed | apply State.release_regOk | apply regOk_wr | apply regOk_wrSh
      | apply regOk_wrForce)

theorem State.startUp_regOk {s : State} (warm : Bool) (hs : RegOk s) : RegOk (State.startUp s warm) := by
  unfold State.startUp
  try dsimp only
  repeat' first
    | with_reducible assumption | intro _
    | with_reducible (first
      | exact rfl | apply State.pmrUpd_keeps regOk_closed | apply State.setPwr_regOk
      | apply State.wrB_keeps regOk_closed | apply regOk_wr | apply regOk_wrSh | apply regOk_wrForce | apply keeps_ite)
    | split
    | with_reducible (first
      | refine of_pair (by assumption) ?_ | refine of_some (by assumption) ?_ | refine of_somePair (by assumption) ?_
      | apply keeps_fst | apply regOk_mk)

theorem State.coldReset_regOk {s : State} (c : Nat) (_ : RegOk s) : RegOk (s.coldReset c) := regOk_reset

theorem State.tryStart_regOk {s : State} (hs : RegOk s) : RegOk (State.tryStart s) := by
  unfold State.tryStart
  try dsimp only
  repeat' first
    | with_reducible assumption | intro _
    | with_reducible (first
      | exact rfl | apply State.startUp_regOk | apply regOk_wr | apply regOk_wrSh | apply regOk_wrForce
      | apply keeps_ite)

theorem State.warmReset_regOk {s : State} (cause : Nat) (hs : RegOk s) : RegOk (State.warmReset s cause) := by
  unfold State.warmReset
  try dsimp only
  repeat' first
    | with_reducible assumption | intro _
    | with_reducible (first
      | exact rfl | apply State.cabStandby_keeps regOk_closed | apply State.coldReset_regOk
      | apply State.startUp_regOk | apply regOk_wr | apply regOk_wrSh | apply regOk_wrForce)
    | split
    | with_reducible (first
      | refine of_pair (by assumption) ?_ | refine of_some (by assumption) ?_ | refine of_somePair (by assumption) ?_
      | apply keeps_fst | apply regOk_mk)

theorem State.trialEnd_regOk {s : State} (reason : Nat) (hs : RegOk s) : RegOk (State.trialEnd s reason) := by
  unfold State.trialEnd
  try dsimp only
  repeat' first
    | with_reducible assumption | intro _
    | with_reducible (first
      | exact rfl | apply State.bootRec_keeps regOk_closed | apply State.cabStandby_keeps regOk_closed
      | apply State.coldReset_regOk | apply State.pmrUpd_keeps regOk_closed | apply State.startUp_regOk
      | apply regOk_wr | apply regOk_wrSh | apply regOk_wrForce)
    | split
    | with_reducible (first
      | refine of_pair (by assumption) ?_ | refine of_some (by assumption) ?_ | refine of_somePair (by assumption) ?_
      | apply keeps_fst | apply regOk_mk)

theorem State.edcStart_regOk {s : State} (march : List (SramMac × BitVec 16)) (hs : RegOk s) :
    RegOk (State.edcStart s march) := by
  unfold State.edcStart
  try dsimp only
  repeat' first
    | with_reducible assumption | intro _
    | with_reducible (first
      | exact rfl | apply State.release_regOk | apply State.marchRow_keeps regOk_closed | apply regOk_wr
      | apply regOk_wrSh | apply regOk_wrForce | apply keeps_foldl_pair | apply keeps_each | apply keeps_foldl
      | apply pairP_mk)
    | split
    | with_reducible (first
      | refine of_pair (by assumption) ?_ | refine of_some (by assumption) ?_ | refine of_somePair (by assumption) ?_
      | apply keeps_fst | apply regOk_mk)

theorem State.startRest_regOk {s : State} (x : StartUp) (hs : RegOk s) : RegOk (State.startRest s x) := by
  unfold State.startRest
  try dsimp only
  repeat' first
    | with_reducible assumption | intro _
    | with_reducible (first
      | exact rfl | apply State.release_regOk | apply State.cabStart_keeps regOk_closed
      | apply State.hkaStart_keeps regOk_closed | apply State.calDone_keeps regOk_closed
      | apply State.tbsStart_keeps regOk_closed | apply State.maskStart_keeps regOk_closed
      | apply State.calRestart_keeps regOk_closed | apply State.pmrUpd_keeps regOk_closed
      | apply State.treStart_keeps regOk_closed | apply State.lnkStart_keeps regOk_closed
      | apply State.ethStart_keeps regOk_closed | apply State.safeNow_regOk | apply State.setPwr_regOk
      | apply State.wrB_keeps regOk_closed | apply State.readyReached_keeps regOk_closed | apply regOk_wr
      | apply regOk_wrSh | apply regOk_wrForce | apply keeps_each)
    | split

theorem State.startComplete_regOk {s : State} (x : StartUp) (hs : RegOk s) : RegOk (State.startComplete s x) := by
  unfold State.startComplete
  try dsimp only
  repeat' first
    | with_reducible assumption | intro _
    | with_reducible (first
      | exact rfl | apply State.pmrUpd_keeps regOk_closed | apply State.release_regOk
      | apply State.countStart_keeps regOk_closed | apply State.edcStart_regOk | apply State.runSlot_regOk
      | apply State.startRest_regOk | apply State.trialEnd_regOk | apply State.recover_regOk | apply regOk_wr
      | apply regOk_wrSh | apply regOk_wrForce | apply keeps_ite)
    | split

theorem State.blkRegs_regOk {s : State} (b : Nat) (h : RegOk s) : RegOk (s.blkRegs b) := by
  unfold State.blkRegs
  refine keeps_when (fun x hx => State.wrB_keeps regOk_closed _ _ _ hx) ⟨mapOk_filter _ h.1, mapOk_filter _ h.2.1, mapOk_filter _ h.2.2.1, ?_⟩
  intro g hg
  obtain ⟨x, hx, rfl⟩ := Option.map_eq_some_iff.1 hg
  exact mapOk_filter _ (h.2.2.2 x hx)

theorem State.blkHold_regOk {s : State} (b : Nat) (hs : RegOk s) : RegOk (State.blkHold s b) := by
  unfold State.blkHold
  try dsimp only
  repeat' first
    | with_reducible assumption | intro _
    | with_reducible (first
      | exact rfl | apply State.takeDownQuiet_keeps regOk_closed | apply State.blkRegs_regOk
      | apply State.xingReset_keeps regOk_closed | apply State.tbsStart_keeps regOk_closed | apply regOk_wr
      | apply regOk_wrSh | apply regOk_wrForce | apply keeps_ite | apply keeps_iteP | apply keeps_each)
    | split
    | with_reducible (first
      | refine of_pair (by assumption) ?_ | refine of_some (by assumption) ?_ | refine of_somePair (by assumption) ?_
      | apply keeps_fst | apply regOk_mk)

theorem State.blkRst_regOk {s : State} (m : Nat) (own : Bool) (hs : RegOk s) : RegOk (State.blkRst s m own) := by
  unfold State.blkRst
  try dsimp only
  repeat' first
    | with_reducible assumption | intro _
    | with_reducible (first
      | exact rfl | apply State.wrB_keeps regOk_closed | apply State.blkHold_regOk | apply regOk_wr | apply regOk_wrSh
      | apply regOk_wrForce | apply keeps_ite | apply keeps_each)

theorem State.blkRelease_regOk {s : State} (b : Nat) (role : Nat) (pos : Nat) (hs : RegOk s) :
    RegOk (State.blkRelease s b role pos) := by
  unfold State.blkRelease
  try dsimp only
  repeat' first
    | with_reducible assumption | intro _
    | with_reducible (first
      | exact rfl | apply State.pmrUpd_keeps regOk_closed | apply State.blkStart_keeps regOk_closed | apply regOk_wr
      | apply regOk_wrSh | apply regOk_wrForce | apply keeps_ite | apply keeps_iteP)
    | split
    | with_reducible (first
      | refine of_pair (by assumption) ?_ | refine of_some (by assumption) ?_ | refine of_somePair (by assumption) ?_
      | apply keeps_fst | apply regOk_mk)

theorem State.coreLoss_regOk {s : State} (h : RegOk s) : RegOk s.coreLoss := by
  unfold State.coreLoss
  extract_lets s1 s2 s3 _ s4
  have h1 : RegOk s1 := State.bump_keeps regOk_closed _ _ _ (State.detect_keeps regOk_closed _ _ _ _ _ _ h)
  clear_value s1
  have h2 : RegOk s2 := State.sessClear_keeps regOk_closed h1
  clear_value s2
  have h3 : RegOk s3 := State.loadCore_keeps regOk_closed _ (State.treUpd_keeps regOk_closed _ h2)
  clear_value s3
  have h4 : RegOk s4 := State.wrB_keeps regOk_closed _ _ _ ⟨h3.1, h3.2.1, h3.2.2.1, fun _ e => by cases e⟩
  exact keeps_ite (State.trialEnd_regOk _ h4) h4

theorem State.voterMismatch_regOk {s : State} (o : Vector (BitVec 32) 3) (hs : RegOk s) :
    RegOk (State.voterMismatch s o) := by
  unfold State.voterMismatch
  try dsimp only
  repeat' first
    | with_reducible assumption | intro _
    | with_reducible (first
      | exact rfl | apply State.coreLoss_regOk | apply State.exclude_keeps regOk_closed | apply regOk_wr
      | apply regOk_wrSh | apply regOk_wrForce | apply keeps_ite)
    | split

theorem State.rstModule_regOk {s : State} (own : Bool) (jtag : Bool) (hs : RegOk s) :
    RegOk (State.rstModule s own jtag) := by
  unfold State.rstModule
  try dsimp only
  repeat' first
    | with_reducible assumption | intro _
    | with_reducible (first
      | exact rfl | apply State.bump_keeps regOk_closed | apply State.wrB_keeps regOk_closed
      | apply State.warmReset_regOk | apply regOk_wr | apply regOk_wrSh | apply regOk_wrForce | apply keeps_ite)

theorem State.confirmTmo_regOk {s : State} (hs : RegOk s) : RegOk (State.confirmTmo s) := by
  unfold State.confirmTmo
  try dsimp only
  repeat' first
    | with_reducible assumption | intro _
    | with_reducible (first
      | exact rfl | apply State.trialEnd_regOk | apply regOk_wr | apply regOk_wrSh | apply regOk_wrForce
      | apply keeps_ite)
    | split

theorem State.railRetry_regOk {s : State} (hs : RegOk s) : RegOk (State.railRetry s) := by
  unfold State.railRetry
  try dsimp only
  repeat' first
    | with_reducible assumption | intro _
    | with_reducible (first
      | exact rfl | apply State.blkRegs_regOk | apply State.pmrUpd_keeps regOk_closed | apply regOk_wr
      | apply regOk_wrSh | apply regOk_wrForce | apply keeps_ite)
    | split
    | with_reducible (first
      | refine of_pair (by assumption) ?_ | refine of_some (by assumption) ?_ | refine of_somePair (by assumption) ?_
      | apply keeps_fst | apply regOk_mk)

theorem State.modeClear_regOk {s : State} (r : Fin 16) (k : Nat) (drain : Bool) (h : RegOk s) : RegOk (s.modeClear r k drain) := by
  unfold State.modeClear
  extract_lets m w s1 _ s2
  have hw : RegOk w := regOk_wr _ _ _ h
  clear_value w
  have h1 : RegOk s1 := keeps_ite (P := RegOk) ⟨hw.1, hw.2.1, h.2.2.1, hw.2.2.2⟩ hw
  clear_value s1
  have h2 : RegOk s2 := regOk_swap s2 rfl rfl rfl rfl h1 h1.2.2.1
  clear_value s2
  split
  · exact State.accChange_keeps regOk_closed _ _ _ _ _ (State.modeChange_keeps regOk_closed _ _ _ _ h2)
  · exact State.upRec_keeps regOk_closed _ _ _ (keeps_when (fun x hx => State.gateIdx_keeps regOk_closed _ _ _ _ hx) h2)

theorem State.pushSeg_regOk {s : State} (g : Seg) (hs : RegOk s) : RegOk (State.pushSeg s g) := by
  unfold State.pushSeg
  try dsimp only
  repeat' first
    | with_reducible assumption | intro _
    | with_reducible (first
      | exact rfl | apply regOk_wr | apply regOk_wrSh | apply regOk_wrForce)
    | split
    | with_reducible (first
      | refine of_pair (by assumption) ?_ | refine of_some (by assumption) ?_ | refine of_somePair (by assumption) ?_
      | apply keeps_fst | apply regOk_mk)

theorem State.commitTicks_regOk {s : State} {old : State} (g : Staged) (k : Nat) (hs : RegOk s) (hold : RegOk old) :
    RegOk (State.commitTicks s old g k) := by
  unfold State.commitTicks
  try dsimp only
  repeat' first
    | with_reducible assumption | intro _
    | with_reducible (first
      | exact rfl | apply State.relayAll_keeps regOk_closed | apply State.pushSeg_regOk
      | apply State.tickRegs_keeps regOk_closed | apply regOk_wr | apply regOk_wrSh | apply regOk_wrForce
      | apply keeps_foldl_pair | apply keeps_ite | apply keeps_foldl | apply pairP_mk | apply keeps_getD)
    | split
    | with_reducible (first
      | refine of_pair (by assumption) ?_ | refine of_some (by assumption) ?_ | refine of_somePair (by assumption) ?_
      | apply keeps_fst | apply regOk_mk)

theorem State.commitForce_regOk {s : State} (g : Staged) (k : Nat) (x : Int) (h : RegOk s) (hg : MapOk g.regs) : RegOk (s.commitForce g k x) := by
  unfold State.commitForce
  extract_lets s0 win old _ _ s1 s2 s3 y s4 s5 s6 s7 _
  have hb : RegOk s0 := keeps_when (fun x hx => State.rampRebase_keeps regOk_closed hx) h
  clear_value s0
  have h0 : RegOk old := keeps_ite (keeps_each _ (fun r x hx => State.frontUp_keeps regOk_closed _ hx) hb) hb
  clear_value old
  have h1 : RegOk s1 := ⟨h0.1, hg, h0.2.2.1, h0.2.2.2⟩
  clear_value s1
  have h2 : RegOk s2 := State.commitTicks_regOk _ _ (State.ownValues_keeps regOk_closed h1) h0
  clear_value s2
  have h3 : RegOk s3 := State.epochUp_keeps regOk_closed _ _ h2
  clear_value s3
  have h4 : RegOk s4 := keeps_each _ (fun r x hx => State.commitRegion_keeps regOk_closed _ _ _ _ _ hx h0) h3
  clear_value s4
  have h5 : RegOk s5 := keeps_ite (State.reorderChange_keeps regOk_closed h4) h4
  clear_value s5
  have h6 : RegOk s6 := State.commitBlocks_keeps regOk_closed _ h5 h0
  clear_value s6
  refine keeps_ite ?_ h6
  have h7 : RegOk s7 := State.setPwr_regOk _ h6
  clear_value s7
  exact ⟨h7.1, h7.2.1, h7.2.2.1, h7.2.2.2⟩

theorem State.cleanPages_regOk {s : State} (h : RegOk s) : RegOk s.cleanPages := ⟨mapOk_filter _ h.1, h.2⟩

theorem State.capture_regOk {s : State} (target : Option Nat) (h : RegOk s) : RegOk (s.capture target) := by
  unfold State.capture
  extract_lets g s1
  have h1 : RegOk s1 := State.cleanPages_regOk (State.wrB_keeps regOk_closed _ _ _ (regOk_staged g h h.2.2.1))
  split
  · exact keeps_ite (State.relayAll_keeps regOk_closed _ h1) h1
  · exact h1

theorem State.commitFor_regOk {s : State} (b : Option Nat) (hs : RegOk s) : RegOk (State.commitFor s b) := by
  unfold State.commitFor
  try dsimp only
  repeat' first
    | with_reducible assumption | intro _
    | with_reducible (first
      | exact rfl | apply State.capture_regOk | apply State.wrB_keeps regOk_closed | apply regOk_wr | apply regOk_wrSh
      | apply regOk_wrForce | apply keeps_ite)
    | split

theorem State.commitWrite_regOk {s : State} (hs : RegOk s) : RegOk (State.commitWrite s) := by
  unfold State.commitWrite
  try dsimp only
  repeat' first
    | with_reducible assumption | intro _
    | with_reducible (first
      | exact rfl | apply State.wrB_keeps regOk_closed | apply State.commitFor_regOk | apply State.capture_regOk
      | apply regOk_wr | apply regOk_wrSh | apply regOk_wrForce | apply keeps_ite)

theorem State.commitBoundary_regOk {s : State} (h : RegOk s) : RegOk s.commitBoundary := by
  unfold State.commitBoundary
  split
  · exact h
  · rename_i g hg
    split
    · extract_lets s1 x y again ok s2
      have h1 : RegOk s1 := State.wrB_keeps regOk_closed _ _ _ (regOk_noStaged h)
      clear_value s1
      have ha : ∀ u, RegOk u → RegOk (again u) := fun u hu => keeps_ite (keeps_each _ (fun r x hx => State.injTick_keeps regOk_closed _ _ _ hx) hu) hu
      have h2 : RegOk s2 := keeps_ite (ha _ h1) (keeps_ite (State.commitForce_regOk _ _ _ h1 (h.2.2.2 g hg)) (ha _ (State.commitReject_keeps regOk_closed _ h1)))
      exact State.commitSaid_keeps regOk_closed _ _ (State.boundaryTail_keeps regOk_closed _ _ h2)
    · exact h

theorem State.seqUpd_regOk {s : State} (f : Seq → Seq) (hs : RegOk s) : RegOk (State.seqUpd s f) := by
  unfold State.seqUpd
  try dsimp only
  repeat' first
    | with_reducible assumption | intro _
    | with_reducible (first
      | exact rfl | apply regOk_wr | apply regOk_wrSh | apply regOk_wrForce)
    | split
    | with_reducible (first
      | refine of_pair (by assumption) ?_ | refine of_some (by assumption) ?_ | refine of_somePair (by assumption) ?_
      | apply keeps_fst | apply regOk_mk)

theorem State.tickRegion_regOk {s : State} (r : Fin 16) (k : Nat) (x : Int) (y : Int) (marks : Nat) (gone : Bool) (into : Bool) (hs : RegOk s) :
    RegOk (State.tickRegion s r k x y marks gone into) := by
  unfold State.tickRegion
  try dsimp only
  repeat' first
    | with_reducible assumption | intro _
    | with_reducible (first
      | exact rfl | apply State.bump_keeps regOk_closed | apply State.headFlag_keeps regOk_closed
      | apply State.detect_keeps regOk_closed | apply State.newRec_keeps regOk_closed
      | apply State.swapAt_keeps regOk_closed | apply State.injCount_keeps regOk_closed | apply State.modeClear_regOk
      | apply State.accBoundary_keeps regOk_closed | apply State.hotBoundary_keeps regOk_closed
      | apply State.upRec_keeps regOk_closed | apply State.injTick_keeps regOk_closed
      | apply State.gateBoundary_keeps regOk_closed | apply State.ctxBoundary_keeps regOk_closed | apply regOk_wr
      | apply regOk_wrSh | apply regOk_wrForce | apply keeps_ite | apply keeps_on)

theorem State.relayDue_regOk {s : State} (k : Nat) (hs : RegOk s) : RegOk (State.relayDue s k) := by
  unfold State.relayDue
  try dsimp only
  repeat' first
    | with_reducible assumption | intro _
    | with_reducible (first
      | exact rfl | apply State.seqUpd_regOk | apply State.pushSeg_regOk | apply State.tickRegs_keeps regOk_closed
      | apply regOk_wr | apply regOk_wrSh | apply regOk_wrForce | apply keeps_ite)
    | split

theorem State.boundary_regOk {s : State} (k : Nat) (x : Int) (stepped : Bool) (gone : Bool) (into : Bool) (hs : RegOk s) :
    RegOk (State.boundary s k x stepped gone into) := by
  unfold State.boundary
  try dsimp only
  repeat' first
    | with_reducible assumption | intro _
    | with_reducible (first
      | exact rfl | apply State.seqUpd_regOk | apply State.relayDue_regOk | apply State.emit_keeps regOk_closed
      | apply State.setEvbR_keeps regOk_closed | apply State.hkaTick_keeps regOk_closed
      | apply State.featBoundary_keeps regOk_closed | apply State.headFlag_keeps regOk_closed
      | apply State.gapOwn_keeps regOk_closed | apply State.tdcTick_keeps regOk_closed | apply State.tickRegion_regOk
      | apply State.onceTick_keeps regOk_closed | apply State.takeBoundary_keeps regOk_closed | apply regOk_wr
      | apply regOk_wrSh | apply regOk_wrForce | apply keeps_ite | apply keeps_each | apply keeps_on)
    | split
    | with_reducible (first
      | refine of_pair (by assumption) ?_ | refine of_some (by assumption) ?_ | refine of_somePair (by assumption) ?_
      | apply keeps_fst | apply regOk_mk)

theorem State.tickBoundary_regOk {s : State} (hs : RegOk s) : RegOk (State.tickBoundary s) := by
  unfold State.tickBoundary
  try dsimp only
  repeat' first
    | with_reducible assumption | intro _
    | with_reducible (first
      | exact rfl | apply State.boundary_regOk | apply regOk_wr | apply regOk_wrSh | apply regOk_wrForce
      | apply keeps_foldl_pair | apply keeps_ite | apply keeps_foldl)

theorem State.pacing_regOk {s : State} (hs : RegOk s) : RegOk (State.pacing s) := by
  unfold State.pacing
  try dsimp only
  repeat' first
    | with_reducible assumption | intro _
    | with_reducible (first
      | exact rfl | apply State.seqUpd_regOk | apply State.hkaTick_keeps regOk_closed
      | apply State.featBoundary_keeps regOk_closed | apply State.tdcTick_keeps regOk_closed
      | apply State.modeClear_regOk | apply State.hotBoundary_keeps regOk_closed
      | apply State.ctxBoundary_keeps regOk_closed | apply State.onceTick_keeps regOk_closed | apply regOk_wr
      | apply regOk_wrSh | apply regOk_wrForce | apply keeps_ite | apply keeps_each | apply keeps_on)

theorem State.scheduleBegin_regOk {s : State} (stepped : Bool) (hs : RegOk s) :
    RegOk (State.scheduleBegin s stepped) := by
  unfold State.scheduleBegin
  try dsimp only
  repeat' first
    | with_reducible assumption | intro _
    | with_reducible (first
      | exact rfl | apply State.seqUpd_regOk | apply State.wrB_keeps regOk_closed
      | apply State.setEvbR_keeps regOk_closed | apply State.hkaTick_keeps regOk_closed
      | apply State.featBoundary_keeps regOk_closed | apply State.tdcTick_keeps regOk_closed
      | apply State.newRec_keeps regOk_closed | apply State.modeClear_regOk | apply State.setPfeR_keeps regOk_closed
      | apply State.hotBoundary_keeps regOk_closed | apply State.injTick_keeps regOk_closed
      | apply State.ctxBoundary_keeps regOk_closed | apply State.onceTick_keeps regOk_closed | apply regOk_wr
      | apply regOk_wrSh | apply regOk_wrForce | apply keeps_ite | apply keeps_each | apply keeps_on)
    | split
    | with_reducible (first
      | refine of_pair (by assumption) ?_ | refine of_some (by assumption) ?_ | refine of_somePair (by assumption) ?_
      | apply keeps_fst | apply regOk_mk)

theorem State.scheduleStart_regOk {s : State} (hs : RegOk s) : RegOk (State.scheduleStart s) := by
  unfold State.scheduleStart
  try dsimp only
  repeat' first
    | with_reducible assumption | intro _
    | with_reducible (first
      | exact rfl | apply State.scheduleBegin_regOk)

theorem State.slip_regOk {s : State} (first : Nat) (n : Nat) (hs : RegOk s) : RegOk (State.slip s first n) := by
  unfold State.slip
  try dsimp only
  repeat' first
    | with_reducible assumption | intro _
    | with_reducible (first
      | exact rfl | apply State.slipHeads_keeps regOk_closed | apply State.seqUpd_regOk
      | apply State.wrB_keeps regOk_closed | apply State.detect_keeps regOk_closed)

theorem State.ticksRx_regOk {s : State} (c : TickChange) (hs : RegOk s) : RegOk (State.ticksRx s c) := by
  unfold State.ticksRx
  try dsimp only
  repeat' first
    | with_reducible assumption | intro _
    | with_reducible (first
      | exact rfl | apply State.seqUpd_regOk | apply State.tickRegs_keeps regOk_closed | apply State.slip_regOk
      | apply State.pushSeg_regOk | apply regOk_wr | apply regOk_wrSh | apply regOk_wrForce | apply keeps_ite)

theorem State.afterStep_regOk {s : State} (hs : RegOk s) : RegOk (State.afterStep s) := by
  unfold State.afterStep
  try dsimp only
  repeat' first
    | with_reducible assumption | intro _
    | with_reducible (first
      | exact rfl | apply State.seqUpd_regOk | apply State.stepHeads_keeps regOk_closed
      | apply State.scheduleBegin_regOk | apply State.boundary_regOk | apply State.commitBoundary_regOk
      | apply regOk_wr | apply regOk_wrSh | apply regOk_wrForce | apply keeps_foldl_pair | apply keeps_ite
      | apply keeps_when | apply keeps_foldl | apply pairP_mk)
    | split
    | with_reducible (first
      | refine of_pair (by assumption) ?_ | refine of_some (by assumption) ?_ | refine of_somePair (by assumption) ?_
      | apply keeps_fst | apply regOk_mk)

theorem State.pwrSafe_regOk {s : State} (own : Bool) (hs : RegOk s) : RegOk (State.pwrSafe s own) := by
  unfold State.pwrSafe
  try dsimp only
  repeat' first
    | with_reducible assumption | intro _
    | with_reducible (first
      | exact rfl | apply State.enterSafe_regOk | apply State.pwrErr_keeps regOk_closed | apply regOk_wr
      | apply regOk_wrSh | apply regOk_wrForce | apply keeps_ite)

theorem State.standbyEntry_regOk {s : State} (hs : RegOk s) : RegOk (State.standbyEntry s) := by
  unfold State.standbyEntry
  try dsimp only
  repeat' first
    | with_reducible assumption | intro _
    | with_reducible (first
      | exact rfl | apply State.cabStandby_keeps regOk_closed | apply State.evbFlush_keeps regOk_closed
      | apply State.setEvbR_keeps regOk_closed | apply State.trigRelease_keeps regOk_closed | apply State.setPwr_regOk
      | apply State.wrB_keeps regOk_closed | apply regOk_wr | apply regOk_wrSh | apply regOk_wrForce | apply keeps_ite
      | apply keeps_each | apply keeps_on)
    | split
    | with_reducible (first
      | refine of_pair (by assumption) ?_ | refine of_some (by assumption) ?_ | refine of_somePair (by assumption) ?_
      | apply keeps_fst | apply regOk_mk)

theorem State.standbyExit_regOk {s : State} (hs : RegOk s) : RegOk (State.standbyExit s) := by
  unfold State.standbyExit
  try dsimp only
  repeat' first
    | with_reducible assumption | intro _
    | with_reducible (first
      | exact rfl | apply State.standbyResume_keeps regOk_closed | apply State.setPwr_regOk
      | apply State.lnkResume_keeps regOk_closed | apply State.newRec_keeps regOk_closed
      | apply State.setEvbR_keeps regOk_closed | apply State.repairAuto_keeps regOk_closed | apply regOk_wr
      | apply regOk_wrSh | apply regOk_wrForce | apply keeps_ite | apply keeps_each | apply keeps_on)
    | split
    | with_reducible (first
      | refine of_pair (by assumption) ?_ | refine of_some (by assumption) ?_ | refine of_somePair (by assumption) ?_
      | apply keeps_fst | apply regOk_mk)

theorem State.acquireToReady_regOk {s : State} (hs : RegOk s) : RegOk (State.acquireToReady s) := by
  unfold State.acquireToReady
  try dsimp only
  repeat' first
    | with_reducible assumption | intro _
    | with_reducible (first
      | exact rfl | apply State.setPwr_regOk | apply State.repairAuto_keeps regOk_closed | apply regOk_wr
      | apply regOk_wrSh | apply regOk_wrForce | apply keeps_ite)

theorem State.safeExit_regOk {s : State} (hs : RegOk s) : RegOk (State.safeExit s) := by
  unfold State.safeExit
  try dsimp only
  repeat' first
    | with_reducible assumption | intro _
    | with_reducible (first
      | exact rfl | apply State.setPwr_regOk | apply State.wrB_keeps regOk_closed
      | apply State.lnkSafeExit_keeps regOk_closed | apply State.emit_keeps regOk_closed
      | apply State.readyReached_keeps regOk_closed | apply State.repairAuto_keeps regOk_closed | apply regOk_wr
      | apply regOk_wrSh | apply regOk_wrForce | apply keeps_ite)
    | split
    | with_reducible (first
      | refine of_pair (by assumption) ?_ | refine of_some (by assumption) ?_ | refine of_somePair (by assumption) ?_
      | apply keeps_fst | apply regOk_mk)

theorem State.regionDrainDone_regOk {s : State} (r : Fin 16) (hs : RegOk s) : RegOk (State.regionDrainDone s r) := by
  unfold State.regionDrainDone
  try dsimp only
  repeat' first
    | with_reducible assumption | intro _
    | with_reducible (first
      | exact rfl | apply State.wrBit_keeps regOk_closed | apply State.seqUpd_regOk | apply regOk_wr
      | apply regOk_wrSh | apply regOk_wrForce | apply keeps_ite)

theorem State.warmSettle_regOk {s : State} (hs : RegOk s) : RegOk (State.warmSettle s) := by
  unfold State.warmSettle
  try dsimp only
  repeat' first
    | with_reducible assumption | intro _
    | with_reducible (first
      | exact rfl | apply State.warmReset_regOk | apply regOk_wr | apply regOk_wrSh | apply regOk_wrForce
      | apply keeps_ite)
    | split

theorem State.settle_regOk {s : State} (hs : RegOk s) : RegOk (State.settle s) := by
  unfold State.settle
  try dsimp only
  repeat' first
    | with_reducible assumption | intro _
    | with_reducible (first
      | exact rfl | apply State.keySettle_keeps regOk_closed | apply State.warmSettle_regOk)

theorem State.revert_regOk {s : State} (p : Nat) (h : RegOk s) : RegOk (s.revert p) := by
  unfold State.revert
  extract_lets fs mine here s1 _ s2 _ s3
  have h1 : RegOk s1 := ⟨h.1, h.2.1, mapOk_mix _ h.2.2.1 h.2.1, h.2.2.2⟩
  clear_value s1
  have h2 : RegOk s2 := keeps_ite ⟨h1.1, h1.2.1, h1.2.2.1, h1.2.2.2⟩ h1
  clear_value s2
  have h3 : RegOk s3 := keeps_ite ⟨h2.1, h2.2.1, h2.2.2.1, h2.2.2.2⟩ h2
  exact State.wrB_keeps regOk_closed _ _ _ h3

theorem State.w1sWrite_regOk {s : State} (a : Accessor) (f : Fld) (i : Nat) (m : Nat) (hs : RegOk s) :
    (PairP RegOk) (State.w1sWrite s a f i m) := by
  unfold State.w1sWrite
  try dsimp only
  repeat' first
    | with_reducible assumption | intro _
    | with_reducible (first
      | exact rfl | apply State.rstWrite_keeps regOk_closed | apply State.fwActivate_keeps regOk_closed
      | apply State.fwConfirm_keeps regOk_closed | apply State.blkRst_regOk | apply State.maskSave_keeps regOk_closed
      | apply State.feAbort_keeps regOk_closed | apply State.hotClr_keeps regOk_closed
      | apply State.tdcAbort_keeps regOk_closed | apply State.calReset_keeps regOk_closed
      | apply State.calLoad_keeps regOk_closed | apply State.commitWrite_regOk
      | apply State.regionsAbort_keeps regOk_closed | apply State.trgInput_keeps regOk_closed
      | apply State.markSlate_keeps regOk_closed | apply State.regionAbort_keeps regOk_closed
      | apply State.ctxLoad_keeps regOk_closed | apply State.repairRun_keeps regOk_closed
      | apply State.oflStart_keeps regOk_closed | apply State.oflAbort_keeps regOk_closed
      | apply State.cmdGo_keeps regOk_closed | apply State.stepWrite_keeps regOk_closed | apply State.afterStep_regOk
      | apply State.snapReq_keeps regOk_closed | apply State.portAbort_keeps regOk_closed
      | apply State.retrain_keeps regOk_closed | apply State.enumStart_keeps regOk_closed
      | apply State.claimReq_keeps regOk_closed | apply State.qpAbort_keeps regOk_closed
      | apply State.keyClear_keeps regOk_closed | apply State.keyRevoke_keeps regOk_closed
      | apply State.fwBegin_keeps regOk_closed | apply State.fwVerify_keeps regOk_closed
      | apply State.fwAbort_keeps regOk_closed | apply State.calReq_keeps regOk_closed
      | apply State.injReq_keeps regOk_closed | apply State.injGo_keeps regOk_closed
      | apply State.ackMask_keeps regOk_closed | apply State.clrMask_keeps regOk_closed | apply State.revert_regOk
      | apply regOk_wr | apply regOk_wrSh | apply regOk_wrForce | apply keeps_ite | apply keeps_iteP | apply pairP_mk)
    | split
    | with_reducible (first
      | refine of_pair (by assumption) ?_ | refine of_some (by assumption) ?_ | refine of_somePair (by assumption) ?_
      | apply keeps_fst)

theorem State.rwWrite_regOk {s : State} (a : Accessor) (f : Fld) (i : Nat) (v : Nat) (hs : RegOk s) :
    (PairP RegOk) (State.rwWrite s a f i v) := by
  unfold State.rwWrite
  try dsimp only
  repeat' first
    | with_reducible assumption | intro _
    | with_reducible (first
      | exact rfl | apply State.biasWrite_keeps regOk_closed | apply State.binWrite_keeps regOk_closed
      | apply State.ctxWrite_keeps regOk_closed | apply State.freqWrite_keeps regOk_closed
      | apply State.timeSet_keeps regOk_closed | apply State.afterStep_regOk | apply State.roleSw_keeps regOk_closed
      | apply State.clapView_keeps regOk_closed | apply State.ciWrite_keeps regOk_closed
      | apply State.keyLevel_keeps regOk_closed | apply regOk_wr | apply regOk_wrSh | apply regOk_wrForce
      | apply keeps_ite | apply keeps_iteP | apply keeps_each | apply keeps_on | apply pairP_mk)
    | split
    | with_reducible (first
      | refine of_pair (by assumption) ?_ | refine of_some (by assumption) ?_ | refine of_somePair (by assumption) ?_
      | apply keeps_fst)

theorem State.rwcWrite_regOk {s : State} (f : Fld) (i : Nat) (v : Nat) (hs : RegOk s) :
    RegOk (State.rwcWrite s f i v) := by
  unfold State.rwcWrite
  try dsimp only
  repeat' first
    | with_reducible assumption | intro _
    | with_reducible (first
      | exact rfl | apply State.maskWrite_keeps regOk_closed | apply State.ofsWrite_keeps regOk_closed
      | apply State.wrB_keeps regOk_closed | apply regOk_wr | apply regOk_wrSh | apply regOk_wrForce | apply keeps_ite)

theorem State.woWrite_regOk {s : State} (a : Accessor) (f : Fld) (i : Nat) (v : Nat) (hs : RegOk s) :
    (PairP RegOk) (State.woWrite s a f i v) := by
  unfold State.woWrite
  try dsimp only
  repeat' first
    | with_reducible assumption | intro _
    | with_reducible (first
      | exact rfl | apply State.pwrReady_keeps regOk_closed | apply State.pwrStandby_keeps regOk_closed
      | apply State.pwrAcquire_keeps regOk_closed | apply State.pwrSafe_regOk
      | apply State.keyWrite_keeps regOk_closed | apply regOk_wr | apply regOk_wrSh | apply regOk_wrForce
      | apply keeps_ite | apply keeps_iteP | apply pairP_mk)
    | split
    | with_reducible (first
      | refine of_pair (by assumption) ?_ | refine of_some (by assumption) ?_ | refine of_somePair (by assumption) ?_
      | apply keeps_fst)

theorem State.fieldWrite_regOk {s : State} (a : Accessor) (f : Fld) (i : Nat) (v : Nat) (hs : RegOk s) :
    (PairP RegOk) (State.fieldWrite s a f i v) := by
  unfold State.fieldWrite
  try dsimp only
  repeat' first
    | with_reducible assumption | intro _
    | with_reducible (first
      | exact rfl | apply State.w1sWrite_regOk | apply State.wrB_keeps regOk_closed | apply State.rwWrite_regOk
      | apply State.rwcWrite_regOk | apply State.woWrite_regOk | apply regOk_wr | apply regOk_wrSh
      | apply regOk_wrForce | apply keeps_ite | apply keeps_iteP | apply pairP_mk)
    | split
    | with_reducible (first
      | refine of_pair (by assumption) ?_ | refine of_some (by assumption) ?_ | refine of_somePair (by assumption) ?_
      | apply keeps_fst)

theorem State.fieldsWrite_regOk {s : State} (a : Accessor) (l : List (Fld × Nat)) (v : Nat) (o : Nat) (hs : RegOk s) :
    (PairP RegOk) (State.fieldsWrite s a l v o) := by
  unfold State.fieldsWrite
  try dsimp only
  repeat' first
    | with_reducible assumption | intro _
    | with_reducible (first
      | exact rfl | apply State.fieldWrite_regOk | apply regOk_wr | apply regOk_wrSh | apply regOk_wrForce
      | apply keeps_foldl_pair | apply keeps_ite | apply keeps_iteP | apply keeps_foldl | apply pairP_mk)
    | split
    | with_reducible (first
      | refine of_pair (by assumption) ?_ | refine of_some (by assumption) ?_ | refine of_somePair (by assumption) ?_
      | apply keeps_fst)

theorem State.writeWord_regOk {s : State} (a : Accessor) (p : Nat) (o : Nat) (v : Nat) (hs : RegOk s) :
    (PairP RegOk) (State.writeWord s a p o v) := by
  unfold State.writeWord
  try dsimp only
  repeat' first
    | with_reducible assumption | intro _
    | with_reducible (first
      | exact rfl | apply State.countWrite_keeps regOk_closed | apply State.fieldsWrite_regOk
      | apply State.setStage_keeps regOk_closed | apply regOk_wr | apply regOk_wrSh | apply regOk_wrForce
      | apply keeps_foldl_pair | apply keeps_ite | apply keeps_iteP | apply keeps_foldl | apply pairP_mk)
    | split
    | with_reducible (first
      | refine of_pair (by assumption) ?_ | refine of_some (by assumption) ?_ | refine of_somePair (by assumption) ?_
      | apply keeps_fst)

theorem State.writeOp_regOk (s0 : State) {s : State} (a : Accessor) (fixed : Bool) (addr : Nat) (ws : List Nat) (hs : RegOk s) :
    (PairP RegOk) (State.writeOp s0 s a fixed addr ws) := by
  unfold State.writeOp
  try dsimp only
  repeat' first
    | with_reducible assumption | intro _
    | with_reducible (first
      | exact rfl | apply State.denied_keeps regOk_closed | apply State.writeWord_regOk | apply regOk_wr
      | apply regOk_wrSh | apply regOk_wrForce | apply keeps_foldl_pair | apply keeps_ite | apply keeps_iteP
      | apply keeps_foldl | apply pairP_mk)
    | split
    | with_reducible (first
      | refine of_pair (by assumption) ?_ | refine of_some (by assumption) ?_ | refine of_somePair (by assumption) ?_
      | apply keeps_fst)

theorem State.access_regOk {s : State} (a : Accessor) (addr : Nat) {f : Accessor → State → State} (hf : ∀ b x, RegOk x → RegOk (f b x)) (h : RegOk s) :
    RegOk (s.access a addr f) := by
  unfold State.access
  extract_lets b
  exact keeps_ite (State.settle_regOk (hf _ _ h)) (keeps_ite (State.bump_keeps regOk_closed _ _ _ h) h)

theorem State.poke_regOk {s : State} (a : Accessor) (addr : Nat) (v : Nat) (hs : RegOk s) :
    RegOk (State.poke s a addr v) := by
  unfold State.poke
  try dsimp only
  repeat' first
    | with_reducible assumption | intro _
    | with_reducible (first
      | exact rfl | apply State.access_regOk | apply State.writeOp_regOk | apply regOk_wr | apply regOk_wrSh
      | apply regOk_wrForce)
    | split
    | with_reducible (first
      | refine of_pair (by assumption) ?_ | refine of_some (by assumption) ?_ | refine of_somePair (by assumption) ?_
      | apply keeps_fst)

theorem State.relayCommit_regOk {s : State} (q : RelayReq) (tick : Nat) (h : RegOk s) : PairP RegOk (s.relayCommit q tick) := by
  unfold State.relayCommit
  extract_lets asked
  have ha : ∀ u, RegOk u → PairP RegOk (asked u) := by
    intro u hu
    change PairP RegOk (match u.staged with
      | some g => ({ u with staged := some { g with req := some q } }, none)
      | none => (u, some 4))
    split
    · next g hg => exact pairP_mk (regOk_staged _ hu (hu.2.2.2 g hg))
    · exact pairP_mk hu
  clear_value asked
  refine keeps_iteP (pairP_mk h) (keeps_iteP (pairP_mk (State.wrB_keeps regOk_closed _ _ _ (State.wrB_keeps regOk_closed _ _ _ h))) ?_)
  split
  · exact ha _ (State.commitFor_regOk _ h)
  · exact ha _ (State.slip_regOk _ _ (State.commitFor_regOk _ h))

theorem State.relayApply_regOk {s : State} (q : RelayReq) (hs : RegOk s) : (PairP RegOk) (s.relayApply q) := by
  unfold State.relayApply
  dsimp only
  split
  · exact pairP_mk (State.readOp_keeps regOk_closed _ _ _ _ _ hs).out
  · exact pairP_mk (State.writeOp_regOk _ _ _ _ _ hs).out
  · exact keeps_iteP (pairP_mk (State.denied_keeps regOk_closed _ _ hs)) (pairP_mk (State.relayCommit_regOk _ _ hs).out)
  · exact keeps_iteP (pairP_mk hs) (pairP_mk (State.ticksRx_regOk _ hs))
  · exact keeps_iteP (pairP_mk (regOk_wr _ _ _ hs)) (pairP_mk hs)
  · exact pairP_mk (State.admitRx_keeps regOk_closed _ hs)

theorem State.relayHere_regOk {s : State} (q : RelayReq) (hs : RegOk s) : RegOk (State.relayHere s q) := by
  unfold State.relayHere
  try dsimp only
  repeat' first
    | with_reducible assumption | intro _
    | with_reducible (first
      | exact rfl | apply State.sendUp_keeps regOk_closed | apply State.relayApply_regOk
      | apply State.relayAnswer_keeps regOk_closed | apply State.settle_regOk | apply regOk_wr | apply regOk_wrSh
      | apply regOk_wrForce | apply keeps_ite | apply keeps_iteP)
    | split
    | with_reducible (first
      | refine of_pair (by assumption) ?_ | refine of_some (by assumption) ?_ | refine of_somePair (by assumption) ?_
      | apply keeps_fst)

theorem State.relayRx_regOk {s : State} (q : RelayReq) (hs : RegOk s) : RegOk (State.relayRx s q) := by
  unfold State.relayRx
  try dsimp only
  repeat' first
    | with_reducible assumption | intro _
    | with_reducible (first
      | exact rfl | apply State.relayOn_keeps regOk_closed | apply State.relayHere_regOk
      | apply State.bump_keeps regOk_closed | apply State.sendUp_keeps regOk_closed | apply regOk_wr
      | apply regOk_wrSh | apply regOk_wrForce | apply keeps_ite | apply keeps_each)
    | split

theorem State.thbOp_regOk (s0 : State) {s : State} (a : Accessor) (o : ThbOp) (hs : RegOk s) :
    (PairP RegOk) (State.thbOp s0 s a o) := by
  unfold State.thbOp
  try dsimp only
  repeat' first
    | with_reducible assumption | intro _
    | with_reducible (first
      | exact rfl | apply State.readOp_keeps regOk_closed | apply State.writeOp_regOk
      | apply State.fwData_keeps regOk_closed | apply State.denied_keeps regOk_closed | apply regOk_wr
      | apply regOk_wrSh | apply regOk_wrForce | apply keeps_ite | apply keeps_iteP | apply pairP_mk)
    | split
    | with_reducible (first
      | refine of_pair (by assumption) ?_ | refine of_some (by assumption) ?_ | refine of_somePair (by assumption) ?_
      | apply keeps_fst)

theorem State.thbOps_regOk {s : State} (a : Accessor) (ops : List ThbOp) (hs : RegOk s) :
    (PairP RegOk) (State.thbOps s a ops) := by
  unfold State.thbOps
  try dsimp only
  repeat' first
    | with_reducible assumption | intro _
    | with_reducible (first
      | exact rfl | apply State.thbOp_regOk | apply regOk_wr | apply regOk_wrSh | apply regOk_wrForce
      | apply keeps_foldl_pair | apply keeps_foldl | apply pairP_mk)
    | split
    | with_reducible (first
      | refine of_pair (by assumption) ?_ | refine of_some (by assumption) ?_ | refine of_somePair (by assumption) ?_
      | apply keeps_fst)

theorem State.relayOut_regOk {s : State} (level : Nat) (target : Nat) (o : ThbOp) (hs : RegOk s) :
    (PairP RegOk) (State.relayOut s level target o) := by
  unfold State.relayOut
  try dsimp only
  repeat' first
    | with_reducible assumption | intro _
    | with_reducible (first
      | exact rfl | apply State.treUpd_keeps regOk_closed | apply State.relayApply_regOk
      | apply State.relayOn_keeps regOk_closed | apply State.bump_keeps regOk_closed | apply regOk_wr
      | apply regOk_wrSh | apply regOk_wrForce | apply keeps_ite | apply keeps_iteP | apply keeps_each
      | apply pairP_mk | apply keeps_getD)
    | split
    | with_reducible (first
      | refine of_pair (by assumption) ?_ | refine of_some (by assumption) ?_ | refine of_somePair (by assumption) ?_
      | apply keeps_fst)

theorem State.relayOuts_regOk {s : State} (level : Nat) (target : Nat) (ops : List ThbOp) (hs : RegOk s) :
    (PairP RegOk) (State.relayOuts s level target ops) := by
  unfold State.relayOuts
  try dsimp only
  repeat' first
    | with_reducible assumption | intro _
    | with_reducible (first
      | exact rfl | apply State.relayOut_regOk | apply regOk_wr | apply regOk_wrSh | apply regOk_wrForce
      | apply keeps_foldl_pair | apply keeps_foldl | apply pairP_mk)
    | split
    | with_reducible (first
      | refine of_pair (by assumption) ?_ | refine of_some (by assumption) ?_ | refine of_somePair (by assumption) ?_
      | apply keeps_fst)

theorem State.thbExec_regOk {s : State} (n : Fin 8) (x : Sess) (h : ThbHead) (target : Nat) (ops : List ThbOp) (hs : RegOk s) :
    RegOk (State.thbExec s n x h target ops) := by
  unfold State.thbExec
  try dsimp only
  repeat' first
    | with_reducible assumption | intro _
    | with_reducible (first
      | exact rfl | apply State.bump_keeps regOk_closed | apply State.thbOps_regOk
      | apply State.thbReply_keeps regOk_closed | apply State.settle_regOk | apply State.relayOuts_regOk
      | apply State.ctlUpd_keeps regOk_closed | apply State.pendReply_keeps regOk_closed | apply regOk_wr
      | apply regOk_wrSh | apply regOk_wrForce | apply keeps_ite | apply keeps_iteP)
    | split
    | with_reducible (first
      | refine of_pair (by assumption) ?_ | refine of_some (by assumption) ?_ | refine of_somePair (by assumption) ?_
      | apply keeps_fst)

theorem State.requestMsg_regOk {s : State} (h : ThbHead) (x : Sess) (target : Nat) (ops : Option (List ThbOp)) (hs : RegOk s) :
    RegOk (State.requestMsg s h x target ops) := by
  unfold State.requestMsg
  try dsimp only
  repeat' first
    | with_reducible assumption | intro _
    | with_reducible (first
      | exact rfl | apply State.setSession_keeps regOk_closed | apply State.thbSay_keeps regOk_closed
      | apply State.replayDrop_keeps regOk_closed | apply State.thbExec_regOk | apply regOk_wr | apply regOk_wrSh
      | apply regOk_wrForce | apply keeps_ite | apply keeps_iteP)
    | split

end Sys2Proof.Machine
end

