-- ==== Sys2Proof/Machine/Pins.lean ====
section
/-! DEFINITION. The contacts the module drives, by its condition (R366, R371, table Connector-6). -/

namespace Sys2Proof.Machine

open Sys2Proof

/-- V3P3_OUT is on, from START onward. -/
def State.v3p3Pin (s : State) : Bool := s.pwr != .off

/-- A contact of a driver of block b: high-impedance in OFF, low until b is released and while it is in reset, else at its level. -/
def State.drivenPin (s : State) (b : Blk) (level : Bool) : Pin :=
  if s.pwr == .off then .highZ else if s.alive b && level then .high else .low

/-- PPS_OUT. -/
def State.ppsOutPin (s : State) : Pin := s.drivenPin .tbs s.ppsOutHigh

/-- TEC_PWM; in OFF the internal pull-down holds it low. -/
def State.tecPin (s : State) : Pin := s.drivenPin .hka s.tecLevel

/-- TRIG_OUT o: driven high in a pulse, off the bus otherwise. -/
def State.trigOutPin (s : State) (o : Fin 2) : Pin := if s.alive .trg && s.trg.high[o] then .high else .highZ

/-- FAULT_N: pulled low or released. -/
def State.faultNPin (s : State) : Pin := if s.faultN then .low else .highZ

/-- The transmitter of lane j of link l: high-impedance in OFF, at electrical idle in START, in reset or where the lane does not transmit,
else carrying blocks. -/
def State.lanePin (s : State) (l : Fin 10) (j : Fin 2) : Pin :=
  if s.pwr == .off then .highZ else if s.alive .lnk && s.laneTx l j then .active else .idle

/-- ETH_TX: squelched until ETH is released, and in its reset. -/
def State.ethTxPin (s : State) : Pin := if s.alive .eth && s.flag .eth_ETH_EN then .active else .highZ

/-- TDO and the I2C contacts between commands: no TAP shift and no transfer of R369 goes on then (log entry 221). -/
def State.tdoPin (_ : State) : Pin := .highZ
def State.i2cPin (_ : State) : Pin := .highZ

end Sys2Proof.Machine
end

