-- ==== Sys2Proof/Tests/Slice0.lean ====
section
/-! SUPPORT. Tests: the commands the well-formedness check refuses, values the spec works out, and a witness for each clause of each
statement. -/

open Sys2Proof Sys2Proof.Machine Sys2Proof.Safety

-- one theorem after another: the witnesses are many, and each in a thread of its own would take a stack of its own
set_option Elab.async false

/-! ### The well-formedness check refuses -/

theorem test_wf_relay_read : (Instr.relayRequestRx 0 2 ⟨1, 0, 2, 0, .read false 0 65⟩).wf = false := by decide +kernel
theorem test_wf_relay_write : (Instr.relayRequestRx 0 2 ⟨1, 0, 2, 0, .write false 0 (List.replicate 65 0)⟩).wf = false := by decide +kernel
theorem test_wf_line_short : (Instr.lineBlockRx 0 2 0 (List.replicate 129 true)).wf = false := by decide +kernel
theorem test_wf_line_long : (Instr.lineBlockRx 0 2 0 (List.replicate 135 true)).wf = false := by decide +kernel
theorem test_wf_frame : (Instr.frameRx 0 2 ⟨List.replicate 17 0, 0, 1, 0, 0, false, 0, 0⟩).wf = false := by decide +kernel
theorem test_wf_horizon : (Instr.horizonRx 0 2 0 0 (.replicate 4 0) (List.replicate 17 ⟨0, 0, 0⟩)).wf = false := by decide +kernel
theorem test_wf_line : (Instr.lineBlockRx 0 2 0 (List.replicate 130 true)).wf = true := by decide +kernel

/-- Instance i of field f holds v, in force and in the shadow, whatever the field resets to. -/
def put (s : State) (f : Fld) (i v : Nat) : State :=
  if f.desc.acc = .rwc then
    { s with force := spIns (spDel s.force (f.key i)) (f.key i) v, shadow := spIns (spDel s.shadow (f.key i)) (f.key i) v }
  else { s with reg := spIns (spDel s.reg (f.key i)) (f.key i) v }

/-- A module in READY, every block out of reset. -/
def up0 : State := { pwr := .ready, held := 0 }

/-- A message is sealed when it is whole and carries the tag of its bytes under the key its slot holds. -/
theorem sealed_of {s : State} {h : ThbHead} {mtype target : Nat} {body : List Nat} (k a b c d g : Nat) (l : List Nat)
    (hw : thbWhole h mtype body.length = true) (hk : s.slotKey h.slot.toNat = k ∧ h.slot.toNat = a ∧ h.sess.toNat = b ∧
      h.salt.toNat = c ∧ h.seq.toNat = d ∧ target = g ∧ body = l)
    (ht : h.tag = (thbSeal k mtype a b c d g l).2) : s.thbSealed h mtype target body = true := by
  obtain ⟨rfl, rfl, rfl, rfl, rfl, rfl, rfl⟩ := hk
  simp [State.thbSealed, hw, ht]

/-- A sealed message belongs to the open session it names, under the session's slot and SALT. -/
theorem session_of {s : State} {h : ThbHead} {mtype target : Nat} {body : List Nat} {x : Sess} (k a b c d g : Nat) (l : List Nat)
    (hx : s.session (reg8 h.sess.toNat) = some x)
    (hs : (h.sess.toNat < 8 && s.slotUsable h.slot.toNat && x.slot == h.slot.toNat && x.salt == h.salt.toNat) = true)
    (hw : thbWhole h mtype body.length = true) (hk : s.slotKey h.slot.toNat = k ∧ h.slot.toNat = a ∧ h.sess.toNat = b ∧
      h.salt.toNat = c ∧ h.seq.toNat = d ∧ target = g ∧ body = l)
    (ht : h.tag = (thbSeal k mtype a b c d g l).2) : s.thbSession h mtype target body = some x := by
  have h1 := sealed_of k a b c d g l hw hk ht
  simp only [Bool.and_eq_true] at hs
  simp [State.thbSession, hx, h1, hs]

theorem target_le (s : State) (r : Nat) : s.target r ≤ 34000 := by
  unfold State.target; split <;> omega
theorem target_le_ramp : State.target ((State.setRamp { pwr := .ready, held := 0 } 3 (some ⟨0, 40000, true⟩)).at 0) (3 : Fin 16) ≤
    State.vNow ((State.setRamp { pwr := .ready, held := 0 } 3 (some ⟨0, 40000, true⟩)).at 0) 3 := by
  have h := target_le ((State.setRamp { pwr := .ready, held := 0 } 3 (some ⟨0, 40000, true⟩)).at 0) (3 : Fin 16)
  have e : ((State.setRamp { pwr := .ready, held := 0 } 3 (some ⟨0, 40000, true⟩)).at 0).rampOf 3 = some ⟨0, 40000, true⟩ := rfl
  unfold State.vNow; rw [e]; simp only [if_true]; omega
theorem gate_now (s : State) (r : Fin 16) : -Config.photonDelay r + Config.photonDelay r ≤ (s.local_ : Int) := by
  have h : (0 : Int) ≤ (s.local_ : Int) := by unfold State.local_; omega
  omega

/-! ### Witnesses: for each clause of a statement, a state and operands that meet its hypotheses -/

theorem witness_EmptyQueueIdles : ∃ s : State, s.pending = [] := ⟨State.reset, rfl⟩

theorem witness_StepKeepsRegisterForm : ∃ s u : State, RegOk s ∧ step s = .next u :=
  ⟨State.reset, State.reset, regOk_reset, rfl⟩

theorem witness_TakenCommandsComplete : ∃ (c : Instr) (s : State), takes c s = true := ⟨.powerOn 0, State.reset, by decide +kernel⟩

theorem witness_PowerUpCommandsComplete :
(∃ (s : State), s.pwr = .off ∧ s.pmr.pwrEn = true ∧ s.pmr.resetN = true) ∧
(∃ (s : State) (rstN : Bool), s.pwr = .off ∧ s.pmr.vin = true ∧ (if rstN then s.pmr.pwrEn else s.pmr.resetN) = true) ∧
(∃ (s : State) (t : Nat) (slot : Bool) (trial : Bool), s.pwr = .start ∧ s.pmr.recovery = false ∧ s.pmr.railAt ≤ (s.at t).clock
    ∧ s.bootPick = .run slot trial) ∧
(∃ (s : State) (t : Nat), s.pwr = .start ∧ s.pmr.recovery = false ∧ s.pmr.railAt ≤ (s.at t).clock ∧ s.bootPick = .again) ∧
(∃ (s : State) (t : Nat), s.pwr = .start ∧ s.pmr.recovery = false ∧ s.pmr.railAt ≤ (s.at t).clock ∧ s.bootPick = .recovery) ∧
(∃ (s : State) (t : Nat), s.pwr = .start ∧ s.pmr.recovery = false ∧ s.pmr.counted = false ∧ s.pmr.railAt + 20 * msFu ≤ t) :=
  ⟨⟨State.reset, by decide +kernel⟩,
    ⟨{ pmr := { vin := true, pwrEn := true, resetN := false } }, true, by decide +kernel⟩,
    ⟨{ pwr := .start }, 0, false, false, by decide +kernel⟩,
    ⟨{ pwr := .start, flash := { trial := true } }, 0, by decide +kernel⟩,
    ⟨{ pwr := .start, flash := { slots := #v[{ bad := true }, { bad := true }] } }, 0, by decide +kernel⟩,
    ⟨{ pwr := .start }, 20 * msFu, by decide +kernel⟩⟩

theorem witness_PowerStateCommandsComplete :
(∃ (s : State), s.alive .pmr = true ∧ (s.pwr = .standby ∨ s.pwr = .safe ∧ s.level4 = false) ∧ s.pmr.upAt = none) ∧
(∃ (s : State), s.alive .pmr = true ∧ s.pwr = .ready) ∧
(∃ (s : State), s.alive .pmr = true ∧ (s.pwr = .acquire ∨ s.pwr = .start ∨ s.pwr = .safe ∧ s.level4 = true)) ∧
(∃ (s : State), s.alive .pmr = true ∧ s.pwr ≠ .ready) ∧
(∃ (s : State), s.alive .pmr = true ∧ (s.pwr = .ready ∨ s.pwr = .acquire ∨ s.pwr = .standby)) ∧
(∃ (s : State), s.alive .pmr = true) ∧
(∃ (s : State) (t : Nat) (t0 : Nat), s.alive .pmr = true ∧ s.pmr.standbyPend = some t0 ∧ t0 < (s.at t).clock ∧ (s.at
    t).atBoundary = true ∧ s.pwr = .ready ∧ (s.at t).biasDown = true) ∧
(∃ (s : State) (t : Nat) (t0 : Nat), s.alive .pmr = true ∧ s.pmr.upAt = some t0 ∧ t0 + 50 * msFu ≤ (s.at t).clock ∧ (s.at
    t).atBoundary = true ∧ s.pwr = .standby) ∧
(∃ (s : State) (t : Nat), s.alive .pmr = true ∧ (s.at t).atBoundary = true ∧ s.pwr = .acquire ∧ (∀ r : Fin 16, s.mode r = 0 ∧
    s.seq.draining[r] = 0)) ∧
(∃ (s : State) (t : Nat) (t0 : Nat), s.alive .pmr = true ∧ s.pmr.upAt = some t0 ∧ t0 < (s.at t).clock ∧ (s.at t).atBoundary =
    true ∧ s.pwr = .safe) :=
  ⟨⟨{ pwr := .standby, held := 0 }, by decide +kernel⟩,
    ⟨up0, by decide +kernel⟩,
    ⟨{ pwr := .acquire, held := 0 }, by decide +kernel⟩,
    ⟨{ pwr := .acquire, held := 0 }, by decide +kernel⟩,
    ⟨up0, by decide +kernel⟩,
    ⟨up0, by decide +kernel⟩,
    ⟨{ pwr := .ready, held := 0, pmr := { standbyPend := some 0 }, seq := { boundaryAt := some 1 } }, 1, 0, by decide +kernel⟩,
    ⟨{ pwr := .standby, held := 0, pmr := { upAt := some 0 }, seq := { boundaryAt := some (50 * msFu) } }, 50 * msFu, 0,
        by decide +kernel⟩,
    ⟨{ pwr := .acquire, held := 0, seq := { boundaryAt := some 1 } }, 1, by decide +kernel⟩,
    ⟨{ pwr := .safe, held := 0, pmr := { upAt := some 0 }, seq := { boundaryAt := some 1 } }, 1, 0, by decide +kernel⟩⟩

theorem witness_BiasCommandsComplete :
(∃ (s : State) (r : Fin 16), s.alive .sns = true ∧ (s.pwr = .ready ∨ s.pwr = .acquire) ∧ s.pmr.standbyPend = none ∧
    s.layerTemp.isSome = true ∧ s.flag .sns_OC_TRIP r = false ∧ s.rdBit .sns_BIAS_EN 0 r = false) ∧
(∃ (s : State) (r : Fin 16), s.alive .sns = true ∧ s.flag .sns_OC_TRIP r = true ∧ s.rdBit .sns_BIAS_EN 0 r = false) ∧
(∃ (s : State) (r : Fin 16), s.alive .sns = true ∧ s.rdBit .sns_BIAS_EN 0 r = true) ∧
(∃ (s : State) (t : Nat) (r : Fin 16) (t0 : Nat) (v0 : Nat), (s.at t).target r ≤ (s.at t).vNow r ∧ s.alive .sns = true ∧
    s.rampOf r = some ⟨t0, v0, true⟩) ∧
(∃ (s : State) (t : Nat) (r : Fin 16) (t0 : Nat) (v0 : Nat), s.alive .sns = true ∧ s.rampOf r = some ⟨t0, v0, false⟩ ∧ (s.at
    t).vNow r < 1000) ∧
(∃ (s : State), s.alive .sns = true) :=
  ⟨⟨put up0 .hka_VALID 0 1, 3, by decide +kernel⟩,
    ⟨put up0 .sns_OC_TRIP 3 1, 3, by decide +kernel⟩,
    ⟨put up0 .sns_BIAS_EN 0 8, 3, by decide +kernel⟩,
    ⟨State.setRamp up0 3 (some ⟨0, 40000, true⟩), 0, 3, 0, 40000, target_le_ramp, by decide +kernel⟩,
    ⟨State.setRamp up0 3 (some ⟨0, 20, false⟩), 10000000000000, 3, 0, 20, by decide +kernel⟩,
    ⟨up0, by decide +kernel⟩⟩

theorem witness_PixelCommandsComplete :
(∃ (s : State) (t : Nat) (r : Fin 16) (c : Fin 16384) (p : Fin 16), s.alive .pfe = true ∧ s.flag .pfer_FE_EN r = true ∧
    s.maskCnt r c p = false ∧ s.countEnable r = true ∧ (s.at t).pixDead r (16 * c + p) = false ∧ (s.at t).swapDue = false) ∧
(∃ (s : State) (t : Nat) (r : Fin 16) (c : Fin 16384) (p : Fin 16), s.alive .pfe = true ∧ s.flag .pfer_FE_EN r = true ∧
    s.maskCnt r c p = false ∧ s.countEnable r = true ∧ (s.at t).pixDead r (16 * c + p) = false ∧ (s.at t).swapDue = true) ∧
(∃ (s : State) (t : Nat) (r : Fin 16) (c : Fin 16384) (p : Fin 16), s.alive .pfe = true ∧ spGet (s.pfeR r).hold (16 * c + p) 0
    ≠ 0 ∧ spGet (s.pfeR r).hold (16 * c + p) 0 + s.holdFu r ≤ t) ∧
(∃ (s : State), s.alive .pfe = true) ∧
(∃ (s : State), s.alive .pfe = true ∧ s.flag .pfe_MASK_SAVE_BUSY = false) ∧
(∃ (s : State) (m : Sp), s.alive .pfe = true ∧ s.pfe.saving = some m) ∧
(∃ (s : State) (r : Fin 16) (f : Frame), s.alive .pfe = true ∧ (s.pfeR r).xfer = some f) ∧
(∃ (s : State) (t : Nat) (r : Fin 16) (d : Int) (l : List Int), s.alive .pfe = true ∧ (s.pfeR r).injDue = d :: l ∧ (s.pfeR
    r).injLeft = 0 ∧ grid16 d ≤ (s.at t).local_) :=
  ⟨⟨put (put up0 .pfer_FE_EN 3 1) .seq_REGION_MODE 3 1, 1, 3, 5, 6, by decide +kernel⟩,
    ⟨put (put (put up0 .pfer_FE_EN 3 1) .seq_REGION_MODE 3 1) .seq_TICK_RUN 0 1, 1, 3, 5, 6, by decide +kernel⟩,
    ⟨{ pwr := .ready, held := 0, pfe := { r := (Vector.replicate 16 {}).set 3 { hold := [(86, 1)] } } }, 100000000, 3, 5, 6,
        by decide +kernel⟩,
    ⟨up0, by decide +kernel⟩,
    ⟨up0, by decide +kernel⟩,
    ⟨{ pwr := .ready, held := 0, pfe := { saving := some [(1, 2)] } }, [(1, 2)], by decide +kernel⟩,
    ⟨{ pwr := .ready, held := 0, pfe := { r := (Vector.replicate 16 {}).set 3 { xfer := some { tick := 0, mode := 4, since := 0, pix := [] } } } },
        3, { tick := 0, mode := 4, since := 0, pix := [] }, by decide +kernel⟩,
    ⟨put (put (put ({ pwr := .ready, held := 0, pfe := { r := (Vector.replicate 16 {}).set 3 { injDue := [0] } } })
        .pfer_INJ_EN 3 1) .pfer_INJ_AMP 3 9) .pfer_FE_EN 3 1, 1, 3, 0, [], by decide +kernel⟩⟩

theorem witness_SequencerCommandsComplete :
(∃ (s : State) (t : Nat), s.alive .seq = true ∧ s.running = true ∧ s.paced = true ∧ (s.at t).tickTime s.nextTick ≤ (s.at
    t).tbNow) ∧
(∃ (s : State) (t : Nat), (∀ b, s.seq.boundaryAt = some b → b + msFu ≤ (s.at t).clock) ∧ s.alive .seq = true ∧ s.running =
    false ∧ s.paced = true) ∧
(∃ (s : State) (t : Nat) (g : Seg) (l : List Seg), s.alive .seq = true ∧ s.seq.segs = g :: l ∧ s.running = false ∧ s.paced =
    true ∧ s.tickTime g.first ≤ (s.at t).tbNow) ∧
(∃ (s : State), s.alive .seq = true ∧ s.staged = none ∧ s.flag .seq_COMMIT_AT_EN = false) ∧
(∃ (s : State), s.alive .seq = true ∧ s.staged.isSome = true) ∧
(∃ (s : State) (t : Nat) (b : Nat), s.alive .seq = true ∧ s.staged = none ∧ s.flag .seq_COMMIT_AT_EN = true ∧ s.running = true
    ∧ s.tickAheadOf (s.rd .seq_COMMIT_TICK) = some b ∧ s.tickTime b < ((s.at t).tbNow : Int) + (4 * usFu : Nat)) ∧
(∃ (s : State) (t : Nat) (g : Staged), s.alive .seq = true ∧ s.staged = some g ∧ (s.at t).commitDue = true) ∧
(∃ (s : State) (t : Nat) (g : Staged), s.alive .seq = true ∧ s.staged = some g ∧ (s.at t).commitDue = true ∧ s.seq.safeAt ≠
    some (s.at t).clock ∧ (s.at t).commitErrs g = []) ∧
(∃ (s : State) (t : Nat) (g : Staged), s.alive .seq = true ∧ s.staged = some g ∧ (s.at t).commitDue = true ∧ s.seq.safeAt ≠
    some (s.at t).clock ∧ (s.at t).commitErrs g ≠ []) ∧
(∃ (s : State) (r : Fin 16), s.alive .seq = true ∧ bit s.seq.drainOrd r = true ∧ s.seq.draining[r] = 0) ∧
(∃ (s : State), s.alive .seq = true) :=
  ⟨⟨put
        { pwr := .ready, held := 0, seq := { k := 6, boundaryAt := some 0, segs := [{ first := 5, base := 0, epoch := 0, num := 1, den := 50 }] } }
        .seq_TICK_RUN 0 1, 400000000000000, by decide +kernel⟩,
    ⟨up0, 1, (fun _ h => by cases h), by decide +kernel⟩,
    ⟨{ pwr := .ready, held := 0, seq := { segs := [{ first := 5, base := 0, epoch := 0, num := 1, den := 50 }] } },
        400000000000000, { first := 5, base := 0, epoch := 0, num := 1, den := 50 }, [], by decide +kernel⟩,
    ⟨up0, by decide +kernel⟩,
    ⟨{ pwr := .ready, held := 0, staged := some ⟨[], [], [], none, 0, 0, none⟩ }, by decide +kernel⟩,
    ⟨(put (put
        { pwr := .ready, held := 0, seq := { k := 6, boundaryAt := some 0, segs := [{ first := 5, base := 0, epoch := 0, num := 1, den := 50 }] } }
        .seq_TICK_RUN 0 1) .seq_COMMIT_AT_EN 0 1).wr .seq_COMMIT_TICK 0 7, 400000000000000, 7, by decide +kernel⟩,
    ⟨{ pwr := .ready, held := 0, staged := some ⟨[], [], [], none, 0, 0, none⟩, seq := { boundaryAt := some 1 } }, 1, ⟨[], [],
        [], none, 0, 0, none⟩, by decide +kernel⟩,
    ⟨put
        ({ pwr := .ready, held := 0, staged := some ⟨(List.range 16).map (fun r => (Fld.key .sns_BR_TRIM r, 0)), [], [], none, 0, 0, none⟩, seq := { boundaryAt := some 1 } })
        .tre_ROLE 0 1, 1, ⟨(List.range 16).map (fun r => (Fld.key .sns_BR_TRIM r, 0)), [], [], none, 0, 0, none⟩,
        by decide +kernel⟩,
    ⟨put
        ({ pwr := .ready, held := 0, staged := some ⟨(List.range 16).map (fun r => (Fld.key .sns_BR_TRIM r, 0)) ++ [(Fld.key .seq_REGION_MODE 3, 1)], [], [], none, 0, 0, none⟩, seq := { boundaryAt := some 1 } })
        .tre_ROLE 0 1, 1, ⟨(List.range 16).map (fun r => (Fld.key .sns_BR_TRIM r, 0)) ++ [(Fld.key .seq_REGION_MODE 3, 1)],
        [], [], none, 0, 0, none⟩, by decide +kernel⟩,
    ⟨{ pwr := .ready, held := 0, seq := { drainOrd := 8 } }, 3, by decide +kernel⟩,
    ⟨up0, by decide +kernel⟩⟩

theorem witness_RegisterCommandsComplete :
(∃ (s : State) (a : Accessor) (addr : BitVec 32) (p : Nat) (o : Nat), Reaches s a p ∧ p = addrPg addr.toNat ∧ o = addrOff
    addr.toNat ∧ addrBad false addr.toNat 1 = false ∧ addrView addr.toNat = false ∧ bit (s.rd .hdr_WR_MASK p) (Accessor.eff
    a).lvl = true ∧ mwOf p o = none ∧ (∀ x ∈ slotsIn p o 1, plain s x.1 = true)) ∧
(∃ (s : State) (a : Accessor) (addr : BitVec 32) (p : Nat) (o : Nat), Reaches s a p ∧ p = addrPg addr.toNat ∧ o = addrOff
    addr.toNat ∧ addrBad false addr.toNat 1 = false ∧ addrView addr.toNat = false ∧ bit (s.rd .hdr_WR_MASK p) (Accessor.eff
    a).lvl = false) ∧
(∃ (s : State) (a : Accessor) (addr : BitVec 32) (p : Nat) (o : Nat) (base : Nat) (n : Nat), Reaches s a p ∧ p = addrPg
    addr.toNat ∧ o = addrOff addr.toNat ∧ addrBad false addr.toNat 1 = false ∧ addrView addr.toNat = false ∧ bit (s.rd
    .hdr_WR_MASK p) (Accessor.eff a).lvl = true ∧ (Accessor.eff a).lvl = 2 ∧ mwOf p o = some (base, n) ∧ o ≠ base + 4 * (n -
    1) ∧ (∃ x ∈ slotsIn p base n, x.1.desc.acc ≠ .ro)) ∧
(∃ (s : State) (a : Accessor) (addr : BitVec 32) (p : Nat) (o : Nat) (base : Nat) (n : Nat) (ws : List Nat), Reaches s a p ∧ p
    = addrPg addr.toNat ∧ o = addrOff addr.toNat ∧ addrBad false addr.toNat 1 = false ∧ addrView addr.toNat = false ∧ bit
    (s.rd .hdr_WR_MASK p) (Accessor.eff a).lvl = true ∧ mwOf p o = some (base, n) ∧ o = base + 4 * (n - 1) ∧ ws.length = n - 1
    ∧ (∀ k (h : k < ws.length), (s.ctl.stage[a.who]).find? (fun e => e.1 == p && e.2.1 == base + 4 * k) = some (p, base + 4 *
    k, ws[k])) ∧ (∀ x ∈ slotsIn p base n, plain s x.1 = true)) ∧
(∃ (s : State) (a : Accessor) (addr : BitVec 32) (p : Nat) (o : Nat) (n : Nat), Reaches s a p ∧ p = addrPg addr.toNat ∧ o =
    addrOff addr.toNat ∧ addrBad false addr.toNat 1 = false ∧ bit (s.rd .hdr_RD_MASK p) (Accessor.eff a).lvl = true ∧ mwOf p o
    = some (o, n)) :=
  ⟨⟨up0, ⟨0, 2⟩, 0x00100024, 17, 0x24, ⟨by decide +kernel, by decide +kernel, rfl, rfl⟩, by decide +kernel⟩,
    ⟨put up0 .hdr_WR_MASK 17 4, ⟨0, 1⟩, 0x00100024, 17, 0x24, ⟨by decide +kernel, by decide +kernel, rfl, rfl⟩,
        by decide +kernel⟩,
    ⟨up0, ⟨0, 2⟩, 0x01100040, 17*17, 0x40, 0x40, 4, ⟨by decide +kernel, by decide +kernel, rfl, rfl⟩, by decide +kernel⟩,
    ⟨{ pwr := .ready, held := 0, ctl := { stage := (Vector.replicate 10 []).set 0 [(137, 0x24, 5)] } }, ⟨0, 2⟩, 0x02800028,
        137, 0x28, 0x24, 2, [5], ⟨by decide +kernel, by decide +kernel, rfl, rfl⟩, by decide +kernel⟩,
    ⟨up0, ⟨0, 2⟩, 0x00400038, 17*4, 0x38, 4, ⟨by decide +kernel, by decide +kernel, rfl, rfl⟩, by decide +kernel⟩⟩

theorem witness_PageHeaderCommandsComplete :
(∃ (s : State) (a : Accessor) (blk : Fin 20) (page : Fin 17), Reaches s a (17 * blk.val + page.val) ∧ (page.val = 0 ∨
    winReplicated blk.val = true) ∧ bit (s.rd .hdr_WR_MASK (17 * blk.val + page.val)) (Accessor.eff a).lvl = true ∧
    (Accessor.eff a).lvl = 2) ∧
(∃ (s : State) (a : Accessor) (blk : Fin 20) (page : Fin 17) (v : BitVec 32), Reaches s a (17 * blk.val + page.val) ∧
    (page.val = 0 ∨ winReplicated blk.val = true) ∧ bit (s.rd .hdr_WR_MASK (17 * blk.val + page.val)) (Accessor.eff a).lvl =
    true ∧ (Accessor.eff a).lvl ≠ 2 ∧ v.toNat % 8 ≠ s.rd .hdr_RD_MASK (17 * blk.val + page.val)) ∧
(∃ (s : State) (a : Accessor) (blk : Fin 20) (page : Fin 17), Reaches s a (17 * blk.val + page.val) ∧ RegOk s ∧ (page.val = 0
    ∨ winReplicated blk.val = true) ∧ bit (s.rd .hdr_WR_MASK (17 * blk.val + page.val)) (Accessor.eff a).lvl = true) :=
  ⟨⟨up0, ⟨0, 2⟩, 2, 2, ⟨by decide +kernel, by decide +kernel, rfl, rfl⟩, by decide +kernel⟩,
    ⟨up0, ⟨0, 1⟩, 2, 2, 0x13, ⟨by decide +kernel, by decide +kernel, rfl, rfl⟩, by decide +kernel⟩,
    ⟨up0, ⟨0, 2⟩, 2, 2, ⟨by decide +kernel, by decide +kernel, rfl, rfl⟩, ⟨mapOk_nil, mapOk_nil, mapOk_nil, fun _ h => by
        cases h⟩, by decide +kernel⟩⟩

theorem witness_TdcCommandsComplete :
(∃ (s : State) (t : Nat) (r : Fin 16) (c : Fin 16384) (w : Win), s.alive .tdc = true ∧ s.winOf r c = some w ∧ w.t0 + winFu ≤ t
    ∧ (s.tdcR r).queue.countP (fun v => v.cluster == w.cluster) < 4) ∧
(∃ (s : State) (t : Nat) (r : Fin 16) (c : Fin 16384) (w : Win), s.alive .tdc = true ∧ s.winOf r c = some w ∧ w.t0 + winFu ≤ t
    ∧ 4 ≤ (s.tdcR r).queue.countP (fun v => v.cluster == w.cluster)) ∧
(∃ (s : State) (t : Nat) (r : Fin 16) (e : Entry), s.alive .tdc = true ∧ s.nextEntry r = some e ∧ (s.at t).tooOld e = true) ∧
(∃ (s : State) (t : Nat) (r : Fin 16) (e : Entry), s.alive .tdc = true ∧ s.nextEntry r = some e ∧ (s.at t).tooOld e = false ∧
    (s.at t).evbTakes r = true) ∧
(∃ (s : State) (r : Fin 16), s.alive .tdc = true ∧ (s.tdcR r).draining = true ∧ (s.tdcR r).wins = [] ∧ (s.tdcR r).queue = [] ∧
    (s.evbR r).store = []) ∧
(∃ (s : State), s.alive .tdc = true) :=
  ⟨⟨{ pwr := .ready, held := 0, tdc := { r := (Vector.replicate 16 {}).set 3 { wins := [⟨7, 0, ⟨0, 0, 0, 0⟩, 1, 2, 1, false, false, false⟩] } } },
        winFu, 3, 7, ⟨7, 0, ⟨0, 0, 0, 0⟩, 1, 2, 1, false, false, false⟩, by decide +kernel⟩,
    ⟨{ pwr := .ready, held := 0, tdc := { r := (Vector.replicate 16 {}).set 3 { wins := [⟨7, 0, ⟨0, 0, 0, 0⟩, 1, 2, 1, false, false, false⟩], queue := [⟨7, 0, 0, 0, 1, 2, false, false, false, false, false⟩, ⟨7, 0, 0, 0, 1, 2, false, false, false, false, false⟩, ⟨7, 0, 0, 0, 1, 2, false, false, false, false, false⟩, ⟨7, 0, 0, 0, 1, 2, false, false, false, false, false⟩] } } },
        winFu, 3, 7, ⟨7, 0, ⟨0, 0, 0, 0⟩, 1, 2, 1, false, false, false⟩, by decide +kernel⟩,
    ⟨{ pwr := .ready, held := 0, tdc := { r := (Vector.replicate 16 {}).set 3 { queue := [⟨7, 0, 0, 0, 1, 2, false, false, false, false, false⟩] } } },
        401 * usFu, 3, ⟨7, 0, 0, 0, 1, 2, false, false, false, false, false⟩, by decide +kernel⟩,
    ⟨{ pwr := .ready, held := 0, tdc := { r := (Vector.replicate 16 {}).set 3 { queue := [⟨7, 0, 0, 0, 1, 2, false, false, false, false, false⟩] } } },
        1, 3, ⟨7, 0, 0, 0, 1, 2, false, false, false, false, false⟩, by decide +kernel⟩,
    ⟨{ pwr := .ready, held := 0, tdc := { r := (Vector.replicate 16 {}).set 3 { draining := true } } }, 3, by decide +kernel⟩,
    ⟨{ pwr := .ready, held := 0, tdc := { r := (Vector.replicate 16 {}).set 3 { wins := [⟨7, 0, ⟨0, 0, 0, 0⟩, 1, 2, 1, false, false, false⟩], queue := [⟨7, 0, 0, 0, 1, 2, false, false, false, false, false⟩], draining := true } } },
        by decide +kernel⟩⟩

theorem witness_CalibrationCommandsComplete :
(∃ (s : State) (r : Fin 16) (g : Fin 16), s.alive .tdc = true ∧ (s.group r g).fill = 2 ^ 20) ∧
(∃ (s : State) (h : Vector Nat 128), s.alive .tdc = true ∧ h.toList.foldl (· + ·) 0 = 2 ^ 20) ∧
(∃ (s : State) (t : Nat) (r : Fin 16) (g : Fin 16) (t0 : Nat), s.alive .tdc = true ∧ (s.group r g).first = some t0 ∧ s.rd
    .tdcr_CAL_TMAX r ≠ 0 ∧ t0 + s.rd .tdcr_CAL_TMAX r * secFu ≤ t) ∧
(∃ (s : State), s.alive .tdc = true) ∧
(∃ (s : State) (r : Fin 16) (g : Fin 16) (tab : List Nat), s.alive .tdc = true ∧ s.rd .tdcr_LOAD_GRP r = g.val ∧ (s.group r
    g).load = some tab ∧ loadable tab = true) ∧
(∃ (s : State) (r : Fin 16) (g : Fin 16) (tab : List Nat), s.alive .tdc = true ∧ s.rd .tdcr_LOAD_GRP r = g.val ∧ (s.group r
    g).load = some tab ∧ loadable tab = false) :=
  ⟨⟨{ pwr := .ready, held := 0, tdc := { r := (Vector.replicate 16 {}).set 3 { g := (Vector.replicate 16 {}).set 2 { hist := [(1, 4)], fill := 1048576, first := some 0 } } } },
        3, 2, by decide +kernel⟩,
    ⟨up0, (Vector.replicate 128 0).set 5 1048576, by decide +kernel⟩,
    ⟨put
        ({ pwr := .ready, held := 0, tdc := { r := (Vector.replicate 16 {}).set 3 { g := (Vector.replicate 16 {}).set 2 { hist := [(1, 4)], fill := 7, first := some 0 } } } })
        .tdcr_CAL_TMAX 3 2, 2 * secFu, 3, 2, 0, by decide +kernel⟩,
    ⟨up0, by decide +kernel⟩,
    ⟨{ pwr := .ready, held := 0, tdc := { r := (Vector.replicate 16 {}).set 3 { g := (Vector.replicate 16 {}).set 0 { load := some (List.range 128) } } } },
        3, 0, List.range 128, by decide +kernel⟩,
    ⟨{ pwr := .ready, held := 0, tdc := { r := (Vector.replicate 16 {}).set 3 { g := (Vector.replicate 16 {}).set 0 { load := some [] } } } },
        3, 0, [], by decide +kernel⟩⟩

theorem witness_AuxCommandsComplete :
(∃ (s : State) (t : Nat) (c : Fin 4) (fall : Bool), (∀ t0, (s.auxCh c).last = some t0 → t0 + auxDead ≤ t) ∧ s.alive .tdc =
    true ∧ fall = s.rdBit .tdc_AUX_EDGE 0 c) ∧
(∃ (s : State) (t : Nat) (c : Fin 4) (fall : Bool) (t0 : Nat), s.alive .tdc = true ∧ fall = s.rdBit .tdc_AUX_EDGE 0 c ∧
    (s.auxCh c).last = some t0 ∧ (s.at t).clock < t0 + auxDead) ∧
(∃ (s : State) (c : Fin 4), s.alive .tdc = true ∧ 2 ^ 20 ≤ (s.auxCh c).instEdges) ∧
(∃ (s : State) (bad : Bool) (lost : Bool), s.alive .tdc = true ∧ (bad = true ∨ lost = true ∨ s.tdc.caps < 100 * s.tdc.repairs)
    ∧ s.flag .tdc_CLK_FAULT = false ∧ s.flag .tdc_CLK_BAD = false) ∧
(∃ (s : State), s.alive .tdc = true ∧ 100 * s.tdc.repairs ≤ s.tdc.caps) :=
  ⟨⟨up0, 1000, 0, false, (fun _ h => by cases h), by decide +kernel⟩,
    ⟨{ pwr := .ready, held := 0, tdc := { aux := .replicate 4 { last := some 900 } } }, 1000, 0, false, 900,
        by decide +kernel⟩,
    ⟨{ pwr := .ready, held := 0, tdc := { aux := .replicate 4 { instEdges := 1048576 } } }, 2, by decide +kernel⟩,
    ⟨up0, true, false, by decide +kernel⟩,
    ⟨up0, by decide +kernel⟩⟩

theorem witness_ReferenceCommandsComplete :
(∃ (s : State), s.alive .tbs = true) ∧
(∃ (s : State) (ppb : Int), s.alive .tbs = true ∧ 50000 < ppb.natAbs) ∧
(∃ (s : State) (t : Nat) (ppb : Int) (t0 : Nat), s.alive .tbs = true ∧ ppb.natAbs ≤ 50000 ∧ s.tbs.refFrom = some t0 ∧ t0 + 100
    * msFu ≤ t) ∧
(∃ (s : State), s.alive .tbs = true ∧ s.flag .tbs_REF_LOST = true) ∧
(∃ (s : State) (t : Nat) (t0 : Nat), s.alive .tbs = true ∧ s.tbs.ppsLast = some t0 ∧ t0 + secFu + 10 * usFu ≤ t) ∧
(∃ (s : State), s.alive .tbs = true ∧ s.srcQual srcExt = true ∧ s.rd .tbs_SRC_ACT = 1 ∧ s.rd .tbs_SERVO_MODE = 0 ∧ (prioList
    (s.rd .tbs_SRC_PRIO)).contains 1 = true ∧ s.flag .tbs_SRC_REVERT = false ∧ s.flag .tbs_FREERUN = false ∧ s.tbs.stepped =
    none) ∧
(∃ (s : State) (t : Nat) (k : Nat), s.alive .tbs = true ∧ s.rd .tbs_SERVO_MODE ≠ 1 ∧ s.srcGood = true ∧ s.flag .tbs_HOLDOVER =
    false ∧ s.flag .tbs_FREERUN = false ∧ s.flag .tbs_SRC_REVERT = true ∧ (s.at t).revertTo (prioList (s.rd .tbs_SRC_PRIO))
    (s.rd .tbs_SRC_ACT) = some k) ∧
(∃ (s : State) (t : Nat), s.alive .tbs = true ∧ s.rd .tbs_SERVO_MODE ≠ 1 ∧ s.srcGood = true ∧ s.flag .tbs_HOLDOVER = false ∧
    s.flag .tbs_FREERUN = false ∧ (s.flag .tbs_SRC_REVERT = false ∨ (s.at t).revertTo (prioList (s.rd .tbs_SRC_PRIO)) (s.rd
    .tbs_SRC_ACT) = none)) ∧
(∃ (s : State) (k : Nat), s.alive .tbs = true ∧ s.rd .tbs_SERVO_MODE ≠ 1 ∧ s.rd .tbs_SRC_ACT = 0 ∧ (after 0 (prioList (s.rd
    .tbs_SRC_PRIO)) ++ prioList (s.rd .tbs_SRC_PRIO)).find? (fun k => s.srcQual k) = some k) ∧
(∃ (s : State) (t : Nat) (t0 : Nat), s.alive .tbs = true ∧ s.tbs.holdSince = some t0 ∧ s.flag .tbs_HOLDOVER = true ∧
    s.tbs.holdWarned = false ∧ s.rd .tbs_HO_WARN ≠ 0 ∧ t0 + s.rd .tbs_HO_WARN * secFu < t) :=
  ⟨⟨up0, by decide +kernel⟩,
    ⟨up0, -60000, by decide +kernel⟩,
    ⟨{ pwr := .ready, held := 0, tbs := { refFrom := some 0 } }, 100 * msFu, 40, 0, by decide +kernel⟩,
    ⟨put up0 .tbs_REF_LOST 0 1, by decide +kernel⟩,
    ⟨{ pwr := .ready, held := 0, tbs := { ppsLast := some 0 } }, 2 * secFu, 0, by decide +kernel⟩,
    ⟨put (put (put (put (put up0 .tbs_REF_QUAL 0 1) .tbs_PPS_QUAL 0 1) .tbs_SRC_ACT 0 1) .tbs_FREERUN 0 0) .tbs_SRC_REVERT 0
        0, by decide +kernel⟩,
    ⟨put (put (put (put (put (put (put (put ({ pwr := .ready, held := 0, tbs := { qualSince := .replicate 4 (some 0) } })
        .tbs_SRC_PRIO 0 57) .tbs_SRC_ACT 0 2) .tbs_CLAP_QUAL 0 1) .tbs_REF_QUAL 0 1) .tbs_PPS_QUAL 0 1) .tbs_FREERUN 0 0)
        .tbs_HOLDOVER 0 0) .tbs_SRC_REVERT 0 1, 10 * secFu, 1, by decide +kernel⟩,
    ⟨put (put (put (put (put (put (put (put ({ pwr := .ready, held := 0, tbs := { qualSince := .replicate 4 (some 0) } })
        .tbs_SRC_PRIO 0 57) .tbs_SRC_ACT 0 2) .tbs_CLAP_QUAL 0 1) .tbs_REF_QUAL 0 1) .tbs_PPS_QUAL 0 1) .tbs_FREERUN 0 0)
        .tbs_HOLDOVER 0 0) .tbs_SRC_REVERT 0 0, 1, by decide +kernel⟩,
    ⟨put (put up0 .tbs_REF_QUAL 0 1) .tbs_PPS_QUAL 0 1, 1, by decide +kernel⟩,
    ⟨put ({ pwr := .ready, held := 0, tbs := { holdSince := some 0 } }) .tbs_HOLDOVER 0 1, 3601 * secFu, 0, by decide +kernel⟩⟩

theorem witness_TimeCommandsComplete :
(∃ (s : State) (x : Nat), s.alive .tbs = true ∧ s.pwr ≠ .acquire ∧ timeOfWords (s.rd .tbs_TIME_SET) = some x) ∧
(∃ (s : State), s.alive .tbs = true ∧ s.pwr = .acquire ∧ s.tbs.stepped = none) ∧
(∃ (s : State) (v : BitVec 128) (x : Nat), s.alive .tbs = true ∧ timeOfWords v.toNat = some x ∧ s.tbs.everQual = false) ∧
(∃ (s : State) (v : BitVec 128) (x : Nat), s.alive .tbs = true ∧ timeOfWords v.toNat = some x ∧ s.tbs.everQual = true ∧
    s.tbs.stepped = none) ∧
(∃ (s : State) (v : BitVec 128), s.alive .tbs = true ∧ timeOfWords v.toNat = none ∧ s.tbs.stepped = none) ∧
(∃ (s : State), s.alive .tbs = true) ∧
(∃ (s : State), s.alive .tbs = true ∧ s.rd .tbs_SERVO_MODE = 2) ∧
(∃ (s : State), s.alive .tbs = true ∧ s.rd .tbs_SERVO_MODE ≠ 2) ∧
(∃ (s : State) (t : Nat) (x : Int), x = ((s.at t).tbStamp : Int) - s.rdS .tbs_PPS_OUT_OFS ∧ s.alive .tbs = true ∧ (s.rd
    .tbs_PPS_OUT_MODE = 1 ∨ (s.rd .tbs_PPS_OUT_MODE = 2 ∧ s.flag .tbs_LOCKED = true)) ∧ x % (secFu : Nat) < coarseFu ∧
    s.tbs.ppsOutLast ≠ some (x / (secFu : Nat))) ∧
(∃ (s : State), s.alive .tbs = true ∧ (s.rd .tbs_PPS_OUT_MODE = 0 ∨ (s.rd .tbs_PPS_OUT_MODE = 2 ∧ s.flag .tbs_LOCKED =
    false))) :=
  ⟨⟨put up0 .tbs_TIME_SET 0 4294967296, 160, by decide +kernel⟩,
    ⟨{ pwr := .acquire, held := 0 }, by decide +kernel⟩,
    ⟨up0, 0x100000000, 160, by decide +kernel⟩,
    ⟨{ pwr := .ready, held := 0, tbs := { everQual := true } }, 0x100000000, 160, by decide +kernel⟩,
    ⟨up0, 0xFF, by decide +kernel⟩,
    ⟨up0, by decide +kernel⟩,
    ⟨put up0 .tbs_SERVO_MODE 0 2, by decide +kernel⟩,
    ⟨up0, by decide +kernel⟩,
    ⟨put up0 .tbs_PPS_OUT_MODE 0 1, 1, _, rfl, by decide +kernel⟩,
    ⟨up0, by decide +kernel⟩⟩

theorem witness_TimeTransferCommandsComplete :
(∃ (s : State) (t : Nat) (l : Fin 10), s.alive .tbs = true ∧ s.clapOn l = true ∧ (s.at t).clapDue l = true) ∧
(∃ (s : State) (t : Nat) (l : Fin 10), s.alive .tbs = true ∧ (s.clapOn l = false ∨ (s.at t).clapDue l = false)) ∧
(∃ (s : State) (l : Fin 10), s.alive .tbs = true ∧ s.clapOn l = true ∧ s.tbs.stepped = none) ∧
(∃ (s : State) (t : Nat) (l : Fin 10) (t0 : Nat), s.alive .tbs = true ∧ (s.clapSt l).lastPair = some t0 ∧ t0 + 3 * msFu ≤ t) ∧
(∃ (s : State) (h : PtpHead), s.alive .tbs = true ∧ s.ptpOn h.udp = true ∧ h.version = 2 ∧ h.domain = s.rd .tbs_PTP_DOMAIN) ∧
(∃ (s : State) (h : PtpHead), s.alive .tbs = true ∧ s.ptpOn h.udp = true ∧ (h.version ≠ 2 ∨ h.domain ≠ s.rd .tbs_PTP_DOMAIN)) ∧
(∃ (s : State) (h : PtpHead), s.alive .tbs = true ∧ s.ptpOn h.udp = true ∧ h.version = 2 ∧ h.domain = s.rd .tbs_PTP_DOMAIN ∧
    s.tbs.master = some h.source) ∧
(∃ (s : State) (h : PtpHead), s.alive .tbs = true ∧ s.ptpOn h.udp = true) ∧
(∃ (s : State) (h : PtpHead) (t2 : Nat) (c : Int), s.alive .tbs = true ∧ s.ptpOn h.udp = true ∧ h.version = 2 ∧ h.domain =
    s.rd .tbs_PTP_DOMAIN ∧ s.tbs.master = some h.source ∧ s.tbs.sync = some (h.seq.toNat, t2, c)) ∧
(∃ (s : State) (t : Nat), (∀ t0 k, s.tbs.delayAt = some t0 → s.tbs.delayLog = some k → t0 + logSec k ≤ t) ∧ s.alive .tbs =
    true ∧ s.flag .tbs_PTP_EN = true ∧ s.alive .eth = true ∧ s.flag .eth_LINK_UP = true ∧ s.tbs.follow.isSome = true) ∧
(∃ (s : State) (t : Nat) (t0 : Nat) (k : Int), s.alive .tbs = true ∧ s.tbs.delayAt = some t0 ∧ s.tbs.delayLog = some k ∧ (s.at
    t).clock < t0 + logSec k) ∧
(∃ (s : State) (h : PtpHead) (x : Int × Int × Int) (t3 : Nat), s.alive .tbs = true ∧ s.ptpOn h.udp = true ∧ h.version = 2 ∧
    h.domain = s.rd .tbs_PTP_DOMAIN ∧ s.tbs.master = some h.source ∧ s.tbs.follow = some x ∧ s.tbs.delayReq = some
    (h.seq.toNat, t3) ∧ s.tbs.stepped = none) ∧
(∃ (s : State) (t : Nat) (m : Master), s.alive .tbs = true ∧ s.tbs.masters.find? (fun x => s.tbs.master == some x.port) = some
    m ∧ m.at_ + 3 * logSec m.logInterval ≤ t) ∧
(∃ (s : State) (t : Nat) (t0 : Nat), s.alive .tbs = true ∧ s.tbs.lastFollow = some t0 ∧ t0 + 4 * logSec s.tbs.syncLog ≤ t) :=
  ⟨⟨put ({ pwr := .ready, held := 0, lnk := { links := (Vector.replicate 10 {}).set 2 {  } } }) .lnk_L0_STATE 2 7, 1, 2,
        by decide +kernel⟩,
    ⟨up0, 1, 2, by decide +kernel⟩,
    ⟨put ({ pwr := .ready, held := 0, lnk := { links := (Vector.replicate 10 {}).set 2 {  } } }) .lnk_L0_STATE 2 7, 2,
        by decide +kernel⟩,
    ⟨{ pwr := .ready, held := 0, tbs := { clap := .replicate 10 { lastPair := some 0, pairs := 5 } } }, 3 * msFu, 2, 0,
        by decide +kernel⟩,
    ⟨put up0 .tbs_PTP_EN 0 1, ⟨true, 2, 0, 9, 4, 0, 0⟩, by decide +kernel⟩,
    ⟨put up0 .tbs_PTP_EN 0 1, ⟨true, 1, 0, 9, 4, 0, 0⟩, by decide +kernel⟩,
    ⟨put ({ pwr := .ready, held := 0, tbs := { master := some 9 } }) .tbs_PTP_EN 0 1, ⟨true, 2, 0, 9, 4, 0, 0⟩,
        by decide +kernel⟩,
    ⟨put ({ pwr := .ready, held := 0, tbs := { master := some 9 } }) .tbs_PTP_EN 0 1, ⟨true, 2, 0, 9, 4, 0, 0⟩,
        by decide +kernel⟩,
    ⟨put ({ pwr := .ready, held := 0, tbs := { master := some 9, sync := some (4, 6, 0) } }) .tbs_PTP_EN 0 1, ⟨true, 2, 0, 9,
        4, 0, 0⟩, 6, 0, by decide +kernel⟩,
    ⟨put (put (put ({ pwr := .ready, held := 0, tbs := { follow := some (0, 0, 0), delayAt := some 0, delayLog := some 0 } })
        .tbs_PTP_EN 0 1) .tbs_PTP_TRANSPORT 0 2) .eth_LINK_UP 0 1, secFu, (fun _ _ h k =>
        by cases h; cases k; decide +kernel), by decide +kernel⟩,
    ⟨{ pwr := .ready, held := 0, tbs := { follow := some (0, 0, 0), delayAt := some 0, delayLog := some 0 } }, 1, 0, 0,
        by decide +kernel⟩,
    ⟨put ({ pwr := .ready, held := 0, tbs := { master := some 9, follow := some (1, 2, 3), delayReq := some (4, 5) } })
        .tbs_PTP_EN 0 1, ⟨true, 2, 0, 9, 4, 0, 0⟩, (1, 2, 3), 5, by decide +kernel⟩,
    ⟨{ pwr := .ready, held := 0, tbs := { master := some 9, masters := [⟨9, ⟨1, 6, 1, 1, 1, 5, 0, 37⟩, 0, 0⟩] } }, 3 * secFu,
        ⟨9, ⟨1, 6, 1, 1, 1, 5, 0, 37⟩, 0, 0⟩, by decide +kernel⟩,
    ⟨{ pwr := .ready, held := 0, tbs := { lastFollow := some 0, ptpRun := 3 } }, 4 * secFu, 0, by decide +kernel⟩⟩

theorem witness_EventCommandsComplete :
(∃ (s : State) (t : Nat) (r : Fin 16) (g : Gate) (l : List Gate), (s.hstR r).gates = g :: l ∧ (s.hstR r).gateOpen = false ∧
    g.o + Config.photonDelay r ≤ (s.at t).local_ ∧ s.alive .hst = true ∧ s.alive .evb = true) ∧
(∃ (s : State) (t : Nat) (r : Fin 16) (g : Gate) (l : List Gate), (s.hstR r).gates = g :: l ∧ (s.hstR r).gateOpen = true ∧ g.c
    + Config.photonDelay r ≤ (s.at t).local_ ∧ s.alive .hst = true ∧ s.alive .evb = true) ∧
(∃ (s : State) (t : Nat) (r : Fin 16) (w : EvW) (l : List EvW), s.alive .hst = true ∧ s.alive .evb = true ∧ (s.evbR r).store =
    w :: l ∧ s.running = false ∧ w.h < (s.at t).dueBefore) ∧
(∃ (s : State) (t : Nat) (r : Fin 16) (w : EvW) (l : List EvW), s.alive .hst = true ∧ s.alive .evb = true ∧ (s.evbR r).store =
    w :: l ∧ s.running = true ∧ w.h < (s.at t).dueBefore ∧ s.tickOf w.h ≤ s.seq.k ∧ s.tickOf w.h ≤ (s.evbR r).k ∧ (toEngine
    (s.wordMode r (s.tickOf w.h)) = true → s.inqRoom r = true)) ∧
(∃ (s : State) (t : Nat) (r : Fin 16) (f : Int), s.alive .hst = true ∧ s.alive .evb = true ∧ s.running = true ∧ (s.evbR r).k <
    s.seq.k ∧ (((s.at t).frontUp r).evbR r).front = some f ∧ s.tickTime ((s.evbR r).k + 1) ≤ f) ∧
(∃ (s : State) (r : Fin 16) (d : Nat × Nat), s.alive .hst = true ∧ s.alive .evb = true ∧ (s.hstR r).dump = some d ∧ (s.hstR
    r).due = []) ∧
(∃ (s : State) (r : Fin 16) (d : Nat × Nat) (k : Nat) (l : List Nat), s.alive .hst = true ∧ s.alive .evb = true ∧ (s.hstR
    r).dump = some d ∧ (s.hstR r).due = k :: l) ∧
(∃ (s : State) (r : Fin 16) (c : Rec), s.alive .hst = true ∧ s.alive .evb = true ∧ (s.evbR r).recs.find? (fun x => !x.emitted)
    = some c ∧ c.closed = true ∧ c.known = true ∧ c.accKnown = true) ∧
(∃ (s : State) (t : Nat) (r : Fin 16) (v : WinTake) (f : Int), s.alive .hst = true ∧ s.alive .evb = true ∧ v ∈ (s.evbR r).wins
    ∧ (∀ x ∈ (s.evbR r).wins, v.stop < x.stop ∨ x = v) ∧ (((s.at t).frontUp r).evbR r).front = some f ∧ v.stop ≤ f) :=
  ⟨⟨{ pwr := .ready, held := 0, hst := { r := (Vector.replicate 16 {}).set 3 { gates := [⟨-(Config.photonDelay 3), 0, 0⟩] } } },
        1, 3, ⟨-(Config.photonDelay 3), 0, 0⟩, [], rfl, rfl, gate_now _ 3, by decide +kernel⟩,
    ⟨{ pwr := .ready, held := 0, hst := { r := (Vector.replicate 16 {}).set 3 { gates := [⟨0, -(Config.photonDelay 3), 0⟩], gateOpen := true } } },
        1, 3, ⟨0, -(Config.photonDelay 3), 0⟩, [], rfl, rfl, gate_now _ 3, by decide +kernel⟩,
    ⟨{ pwr := .ready, held := 0, evb := { r := (Vector.replicate 16 {}).set 3 { store := [⟨0, 5, 1, false, false, true⟩] } } },
        secFu, 3, ⟨0, 5, 1, false, false, true⟩, [], by decide +kernel⟩,
    ⟨put
        { pwr := .ready, held := 0, seq := { k := 6, segs := [{ first := 5, base := 0, epoch := 0, num := 1, den := 50 }] }, evb := { r := (Vector.replicate 16 {}).set 3 { store := [⟨0, 5, 1, false, false, true⟩], k := 6 } } }
        .seq_TICK_RUN 0 1, secFu, 3, ⟨0, 5, 1, false, false, true⟩, [], by decide +kernel⟩,
    ⟨put
        { pwr := .ready, held := 0, seq := { k := 6, segs := [{ first := 5, base := 0, epoch := 0, num := 1, den := 50 }] }, evb := { r := (Vector.replicate 16 {}).set 3 { k := 5, front := some (999 * 160000000000) } } }
        .seq_TICK_RUN 0 1, 1, 3, 999 * secFu, by decide +kernel⟩,
    ⟨{ pwr := .ready, held := 0, hst := { r := (Vector.replicate 16 {}).set 3 { dump := some (4, 0) } } }, 3, (4, 0),
        by decide +kernel⟩,
    ⟨{ pwr := .ready, held := 0, hst := { r := (Vector.replicate 16 {}).set 3 { dump := some (4, 0), due := [5, 6] } } }, 3,
        (4, 0), 5, [6], by decide +kernel⟩,
    ⟨{ pwr := .ready, held := 0, evb := { r := (Vector.replicate 16 {}).set 3 { recs := [{ k := 4, closed := true, known := true }] } } },
        3, { k := 4, closed := true, known := true }, by decide +kernel⟩,
    ⟨{ pwr := .ready, held := 0, evb := { r := (Vector.replicate 16 {}).set 3 { wins := [{ trigId := 1, cls := 1, tt := 0, start := 0, stop := 0, take := 0, reel := 0, epoch := 0 }], front := some 7 } } },
        1, 3, { trigId := 1, cls := 1, tt := 0, start := 0, stop := 0, take := 0, reel := 0, epoch := 0 }, 7,
        by decide +kernel⟩⟩

theorem witness_TriggerInputCommandsComplete :
(∃ (s : State), s.alive .trg = true) ∧
(∃ (s : State) (t : Nat) (m : List Nat), m = slateRec (s.rd .tre_MODULE_ID) 0 0xFF 0 2 (s.at t).tbNow (s.rd .seq_CFG_EPOCH) 0
    0 0 0 0 ∧ s.alive .trg = true ∧ ((s.rpS 16).elems ++ [m]).foldl (fun a l => a + l.length) 0 < 4096) ∧
(∃ (s : State) (t : Nat) (i : Fin 5) (a : Act), s.alive .trg = true ∧ s.trg.pend = none ∧ s.trg.act[i] = some a ∧ a.last <
    gridSlot (s.at t).tbNow ∧ a.done = false) ∧
(∃ (s : State) (t : Nat) (i : Fin 5) (a : Act), s.alive .trg = true ∧ s.trg.pend = none ∧ s.trg.act[i] = some a ∧ (gridSlot
    (s.at t).tbNow ≤ a.last ∨ a.done = true)) ∧
(∃ (s : State) (t : Nat) (q : Treq) (e : Nat), s.alive .trg = true ∧ s.trg.pend = none ∧ s.trg.merge = some (q, e) ∧ e ≤ t) ∧
(∃ (s : State) (l : Fin 10) (q : BitVec 8), s.alive .trg = true ∧ s.alive .lnk = true ∧ s.linkUp l = true ∧ s.rd
    .tre_LINK_ROLE l = 4 ∧ q.toNat ∉ (s.trigLink l).seen ∧ s.trg.pend = none ∧ s.trg.merge = none) ∧
(∃ (s : State) (l : Fin 10) (q : BitVec 8), s.alive .trg = true ∧ s.alive .lnk = true ∧ s.linkUp l = true ∧ q.toNat ∈
    (s.trigLink l).seen) ∧
(∃ (s : State) (t : Nat) (q : Treq) (e : Nat), s.alive .trg = true ∧ s.trg.window = some (q, e) ∧ e ≤ t ∧ (s.flag .trg_TRG_EN
    = false ∨ s.rdBit .trg_DEC_LUT 0 (s.clsMask q.cls) = false)) ∧
(∃ (s : State) (t : Nat) (q : Treq) (e : Nat), s.alive .trg = true ∧ s.trg.window = some (q, e) ∧ e ≤ t ∧ s.flag .trg_TRG_EN =
    true ∧ s.rdBit .trg_DEC_LUT 0 (s.clsMask q.cls) = true ∧ s.trg.lastDec = none) :=
  ⟨⟨up0, by decide +kernel⟩,
    ⟨up0, 1, _, rfl, by decide +kernel⟩,
    ⟨{ pwr := .ready, held := 0, trg := { act := (Vector.replicate 5 none).set 2 (some ⟨0, 0, 9, false⟩) } }, 1000, 2, ⟨0, 0,
        9, false⟩, by decide +kernel⟩,
    ⟨{ pwr := .ready, held := 0, trg := { act := (Vector.replicate 5 none).set 2 (some ⟨0, 0, 9, true⟩) } }, 1000, 2, ⟨0, 0,
        9, true⟩, by decide +kernel⟩,
    ⟨put ({ pwr := .ready, held := 0, trg := { merge := some ({ cls := 1, tt := 0, n := 1, src := 0 }, 1) } }) .tre_ROLE 0 1,
        1, { cls := 1, tt := 0, n := 1, src := 0 }, 1, by decide +kernel⟩,
    ⟨put (put up0 .lnk_L0_STATE 2 7) .tre_LINK_ROLE 2 4, 2, 3, by decide +kernel⟩,
    ⟨put (put ({ pwr := .ready, held := 0, trg := { links := .replicate 10 { seen := [3] } } }) .lnk_L0_STATE 2 7)
        .tre_LINK_ROLE 2 4, 2, 3, by decide +kernel⟩,
    ⟨{ pwr := .ready, held := 0, trg := { window := some ({ cls := 1, tt := 0, n := 1, src := 0 }, 1) } }, 1,
        { cls := 1, tt := 0, n := 1, src := 0 }, 1, by decide +kernel⟩,
    ⟨put (put ({ pwr := .ready, held := 0, trg := { window := some ({ cls := 1, tt := 0, n := 1, src := 0 }, 1) } })
        .trg_TRG_EN 0 1) .trg_DEC_LUT 0 65535, 1, { cls := 1, tt := 0, n := 1, src := 0 }, 1, by decide +kernel⟩⟩

theorem witness_TriggerOutputCommandsComplete :
(∃ (s : State) (t : Nat) (l : Fin 10) (q : BitVec 8) (c : BitVec 4) (id : BitVec 32) (x : BitVec 56), s.alive .trg = true ∧
    s.alive .lnk = true ∧ s.linkUp l = true ∧ s.rd .tre_LINK_ROLE l = 1 ∧ q.toNat ∉ (s.trigLink l).seen ∧ ((s.at t).tbNow :
    Int) ≤ s.actionTime ⟨id.toNat, near56 (s.at t).tbNow x.toNat, c.toNat⟩) ∧
(∃ (s : State) (t : Nat) (d : Tdec × Int), s.alive .trg = true ∧ leastBy (fun a b : Tdec × Int => decide (a.1.tt < b.1.tt))
    (s.trg.waiting.filter (fun d => decide (s.actionTime d.1 ≤ (s.at t).tbNow))) = some d) ∧
(∃ (s : State) (t : Nat) (o : Fin 2) (p : Int × Int), s.alive .trg = true ∧ s.flag .flt_SAFE_ACT = false ∧ p ∈ s.trg.pulses[o]
    ∧ p.1 ≤ (s.at t).local_ ∧ ((s.at t).local_ : Int) < p.2) ∧
(∃ (s : State), s.alive .trg = true ∧ s.flag .flt_SAFE_ACT = true) ∧
(∃ (s : State) (t : Nat) (o : Fin 2), s.alive .trg = true ∧ (∀ p ∈ s.trg.pulses[o], p.2 ≤ (s.at t).local_)) :=
  ⟨⟨put (put up0 .lnk_L0_STATE 2 7) .tre_LINK_ROLE 2 1, 1, 2, 3, 1, 7, 1000000, by decide +kernel⟩,
    ⟨{ pwr := .ready, held := 0, trg := { waiting := [(⟨7, 0, 2⟩, 0)] } }, 1000 * secFu, (⟨7, 0, 2⟩, 0), by decide +kernel⟩,
    ⟨{ pwr := .ready, held := 0, trg := { pulses := .replicate 2 [(0, 5)] } }, 1, 1, (0, 5), by decide +kernel⟩,
    ⟨put up0 .flt_SAFE_ACT 0 1, by decide +kernel⟩,
    ⟨{ pwr := .ready, held := 0, trg := { pulses := #v[[], [(0, 100)]], high := #v[false, true] } }, 100, 1,
        by decide +kernel⟩⟩

theorem witness_CompressionCommandsComplete :
(∃ (s : State) (r : Fin 16) (o : OpenPkt), s.alive .cmp = true ∧ (s.cmpR r).open_ = some o ∧ o.kind = 0 ∧ 256 ≤ o.cur.length ∧
    o.elems + o.cur.length < 4096 ∧ (s.cmpR r).inq = []) ∧
(∃ (s : State) (r : Fin 16) (o : OpenPkt), s.alive .cmp = true ∧ (s.cmpR r).open_ = some o ∧ o.kind = 0 ∧ 4096 ≤ o.elems +
    o.cur.length ∧ (s.cmpR r).inq = [] ∧ (s.cmpR r).jobs = []) ∧
(∃ (s : State) (r : Fin 16) (o : OpenPkt) (j : Job), s.alive .cmp = true ∧ (s.cmpR r).open_ = some o ∧ o.kind ≠ 0 ∧ o.todo =
    [] ∧ (s.cmpR r).inq = [] ∧ (s.cmpR r).jobs = [j] ∧ j.pkts ≤ (s.cmpR r).pi + 1) ∧
(∃ (s : State) (r : Fin 16) (k : Fin 5) (tab : List Nat), s.alive .cmp = true ∧ (s.ctx r k).building = some tab) ∧
(∃ (s : State) (t : Nat) (r : Fin 16) (o : OpenPkt) (t0 : Nat), s.alive .cmp = true ∧ (s.cmpR r).open_ = some o ∧ (s.cmpR
    r).stallAt = some t0 ∧ s.rd .cmpr_STALL_LIMIT r ≠ 0 ∧ t0 + s.rd .cmpr_STALL_LIMIT r * usFu ≤ t ∧ (o.kind = 0 ∨ (s.cmpR
    r).jobs ≠ [])) ∧
(∃ (s : State), s.alive .cmp = true) ∧
(∃ (s : State) (r : Fin 16), s.alive .cmp = true ∧ s.flag .cmpr_CTX_VIEW r = true) ∧
(∃ (s : State) (r : Fin 16) (ws : List Nat), ws = (s.ctx r (s.rd .cmpr_CTX_KIND r)).record r (s.rd .cmpr_CTX_KIND r) ∧ s.alive
    .cmp = true ∧ s.flag .cmpr_CTX_VIEW r = false ∧ s.rd .cmpr_CTX_IDX r = 0) ∧
(∃ (s : State) (r : Fin 16) (who : Fin 10) (ws : List Nat), s.alive .cmp = true ∧ s.flag .cmpr_CTX_VIEW r = false ∧ s.rd
    .cmpr_CTX_IDX r ≠ 0 ∧ s.ctl.snaps[who] = some ⟨cmpPage r, 0x54, false, ws⟩) ∧
(∃ (s : State) (r : Fin 16) (who : Fin 10), s.alive .cmp = true ∧ s.flag .cmpr_CTX_VIEW r = false ∧ s.rd .cmpr_CTX_IDX r ≠ 0 ∧
    s.ctl.snaps[who] = none) ∧
(∃ (s : State) (r : Fin 16), s.alive .cmp = true ∧ s.flag .cmpr_CTX_VIEW r = true ∧ s.rd .cmpr_CTX_IDX r ≠ 31) ∧
(∃ (s : State) (r : Fin 16) (v : WriterWord) (ws : List Nat), s.alive .cmp = true ∧ s.flag .cmpr_CTX_VIEW r = true ∧ s.rd
    .cmpr_CTX_IDX r = 31 ∧ ws.length = 31 ∧ s.ctl.stage[v.who] = ws.zipIdx.map (fun e => (cmpPage r, ctxPlace e.2, e.1)) ∧
    (s.cmpR r).buf.length = 32) ∧
(∃ (s : State) (r : Fin 16), s.alive .cmp = true ∧ s.flag .cmpr_CTX_VIEW r = false) ∧
(∃ (s : State) (r : Fin 16) (b : List Nat), b = (s.cmpR r).buf.flatMap (bytesLE 4) ∧ (∀ d, (ctxOf b (s.ctx r (s.rd
    .cmpr_CTX_KIND r))).dyn = some d → CodeTab.valid d = true) ∧ s.alive .cmp = true ∧ s.flag .cmpr_CTX_LOAD_BUSY r = false ∧
    b.getD 0 0 = 16 * s.rd .cmpr_CTX_KIND r + r ∧ ofBytesLE (b.drop 124) = crc32c (b.take 124)) ∧
(∃ (s : State) (r : Fin 16), s.alive .cmp = true ∧ s.flag .cmpr_CTX_LOAD_BUSY r = true) :=
  ⟨⟨{ pwr := .ready, held := 0, cmp := { r := (Vector.replicate 16 {}).set 3 { open_ := some { item := 0, kind := 0, tick := 4, zs := false, tab := [], todo := [], cur := List.replicate 256 ⟨0, 0, [], 0, 0, 0, none, 1⟩, body := [0, 0, 0, 0, 0, 0, 0, 0], elems := 0, flags := 0 } } } },
        3,
        { item := 0, kind := 0, tick := 4, zs := false, tab := [], todo := [], cur := List.replicate 256 ⟨0, 0, [], 0, 0, 0, none, 1⟩, body := [0, 0, 0, 0, 0, 0, 0, 0], elems := 0, flags := 0 },
        by decide +kernel⟩,
    ⟨{ pwr := .ready, held := 0, cmp := { r := (Vector.replicate 16 {}).set 3 { open_ := some { item := 0, kind := 0, tick := 4, zs := false, tab := [], todo := [], cur := [⟨0, 0, [], 0, 0, 0, none, 1⟩], body := [0, 0, 0, 0, 0, 0, 0, 0], elems := 4095, flags := 0 } } } },
        3,
        { item := 0, kind := 0, tick := 4, zs := false, tab := [], todo := [], cur := [⟨0, 0, [], 0, 0, 0, none, 1⟩], body := [0, 0, 0, 0, 0, 0, 0, 0], elems := 4095, flags := 0 },
        by decide +kernel⟩,
    ⟨{ pwr := .ready, held := 0, cmp := { r := (Vector.replicate 16 {}).set 3 { open_ := some { item := 0, kind := 1, tick := 4, zs := false, tab := [], todo := [], cur := [⟨0, 0, [], 0, 0, 0, none, 1⟩], body := [0, 0, 0, 0, 0, 0, 0, 0], elems := 40, flags := 0 }, jobs := [{ kind := 1, tick := 4, n := 41, px := [] }] } } },
        3,
        { item := 0, kind := 1, tick := 4, zs := false, tab := [], todo := [], cur := [⟨0, 0, [], 0, 0, 0, none, 1⟩], body := [0, 0, 0, 0, 0, 0, 0, 0], elems := 40, flags := 0 },
        { kind := 1, tick := 4, n := 41, px := [] }, by decide +kernel⟩,
    ⟨{ pwr := .ready, held := 0, cmp := { r := (Vector.replicate 16 {}).set 3 { ctx := .replicate 5 { building := some [1] } } } },
        3, 1, [1], by decide +kernel⟩,
    ⟨put
        ({ pwr := .ready, held := 0, cmp := { r := (Vector.replicate 16 {}).set 3 { open_ := some { item := 0, kind := 0, tick := 4, zs := false, tab := [], todo := [], cur := [], body := [0, 0, 0, 0, 0, 0, 0, 0], elems := 0, flags := 0 }, stallAt := some 0 } } })
        .cmpr_STALL_LIMIT 3 2, 2 * usFu, 3,
        { item := 0, kind := 0, tick := 4, zs := false, tab := [], todo := [], cur := [], body := [0, 0, 0, 0, 0, 0, 0, 0], elems := 0, flags := 0 },
        0, by decide +kernel⟩,
    ⟨up0, by decide +kernel⟩,
    ⟨put (put ({ pwr := .ready, held := 0, cmp := { r := (Vector.replicate 16 {}).set 3 { buf := [5, 6] } } }) .cmpr_CTX_VIEW
        3 1) .cmpr_CTX_IDX 3 1, 3, by decide +kernel⟩,
    ⟨put up0 .cmpr_CTX_KIND 3 2, 3, _, rfl, by decide +kernel⟩,
    ⟨put
        ({ pwr := .ready, held := 0, ctl := { snaps := (Vector.replicate 10 none).set 4 (some ⟨cmpPage 3, 0x54, false, [1, 2, 3]⟩) } })
        .cmpr_CTX_IDX 3 1, 3, 4, [1, 2, 3], by decide +kernel⟩,
    ⟨put up0 .cmpr_CTX_IDX 3 1, 3, 4, by decide +kernel⟩,
    ⟨put up0 .cmpr_CTX_VIEW 3 1, 3, by decide +kernel⟩,
    ⟨put (put
        ({ pwr := .ready, held := 0, ctl := { stage := (Vector.replicate 10 []).set 4 ((List.replicate 31 7).zipIdx.map (fun e => (cmpPage 3, ctxPlace e.2, e.1))) } })
        .cmpr_CTX_VIEW 3 1) .cmpr_CTX_IDX 3 31, 3, ⟨4, 9⟩, List.replicate 31 7, by decide +kernel⟩,
    ⟨up0, 3, by decide +kernel⟩,
    ⟨{ pwr := .ready, held := 0, cmp := { r := (Vector.replicate 16 {}).set 0 { buf := List.replicate 31 0 ++ [3608925028] } } },
        0, _, rfl, (fun _ h => by cases h), by decide +kernel⟩,
    ⟨put up0 .cmpr_CTX_LOAD_BUSY 3 1, 3, by decide +kernel⟩⟩

theorem witness_FabricCommandsComplete :
(∃ (s : State) (t : Nat) (src : Fin 21) (r : Fin 16) (o : OpenPkt) (x : Nat) (k : Nat), (∀ b, (s.cmpR r).blk = some b → b.tick
    = k) ∧ s.alive .que = true ∧ src.val = r.val ∧ (s.cmpR r).jobs = [] ∧ (s.cmpR r).open_ = some o ∧ o.kind = 0 ∧
    o.cur.length < 256 ∧ o.elems + o.cur.length < 4096 ∧ (s.cmpR r).inq = [.word x k] ∧ (s.cmpR r).dead ≠ some k ∧ chunkSpace
    (o.cur ++ [eventItem o.tab o.prev x]) ≤ ((s.at t).askRoom o [eventItem o.tab o.prev x]).2) ∧
(∃ (s : State) (t : Nat) (p : Patch) (l : List Patch) (x : State), (s.at t).patchIn p.pid p.prod p.val = some x ∧ s.alive .que
    = true ∧ s.que.patches = p :: l) ∧
(∃ (s : State) (t : Nat) (p : Patch) (l : List Patch), s.alive .que = true ∧ s.que.patches = p :: l ∧ (s.at t).patchIn p.pid
    p.prod p.val = none) ∧
(∃ (s : State) (t : Nat) (i : Nat) (x : QItem), s.alive .que = true ∧ s.item i = some x ∧ x.holdable = true ∧ x.since + s.rd
    .que_HOLD_LIMIT * usFu ≤ t) ∧
(∃ (s : State), s.alive .que = true) ∧
(∃ (s : State) (i : Nat) (x : QItem) (res : WordRead), s.alive .que = true ∧ s.item i = some x ∧ (res = .uncorrectable ∨ res =
    .badTag)) :=
  ⟨⟨{ pwr := .ready, held := 0, cmp := { r := (Vector.replicate 16 {}).set 3 { open_ := some { item := 0, kind := 0, tick := 4, zs := false, tab := [], todo := [], cur := [], body := [0, 0, 0, 0, 0, 0, 0, 0], elems := 0, flags := 0 }, inq := [.word 5 4], stallAt := some 0 } }, que := { items := [{ id := 0, src := 3, cls := 1, pid := ⟨0, 3, 0, 4, 0⟩, words := [], first := 0, next := 0, open_ := true, own := 65536 }], next := 1 } },
        1, 3, 3,
        { item := 0, kind := 0, tick := 4, zs := false, tab := [], todo := [], cur := [], body := [0, 0, 0, 0, 0, 0, 0, 0], elems := 0, flags := 0 },
        5, 4, (fun _ h => by cases h), by decide +kernel⟩,
    ⟨{ pwr := .ready, held := 0, que := { patches := [⟨⟨0, 0, 1, 0, 0⟩, 0, 9⟩] } }, 1, ⟨⟨0, 0, 1, 0, 0⟩, 0, 9⟩, [], _,
        (Option.some_get (by decide +kernel)).symm, by decide +kernel⟩,
    ⟨{ pwr := .ready, held := 0, que := { patches := [⟨⟨0, 0, 1, 0, 0⟩, 0, 9⟩] }, cab := { pkts := [⟨⟨0, 0, 1, 0, 0⟩, 0, 0, 0, 0, 64⟩], merge := (List.range 64).map .back } },
        1, ⟨⟨0, 0, 1, 0, 0⟩, 0, 9⟩, [], by decide +kernel⟩,
    ⟨{ pwr := .ready, held := 0, que := { items := [{ id := 7, src := 0, cls := 2, pid := ⟨0, 0, 1, 0, 0⟩, words := [⟨0, 64, 0, [1], 0, false, 0⟩], first := 0, next := 1, len := 1, open_ := false, up := true }] } },
        1000000 * usFu, 7,
        { id := 7, src := 0, cls := 2, pid := ⟨0, 0, 1, 0, 0⟩, words := [⟨0, 64, 0, [1], 0, false, 0⟩], first := 0, next := 1, len := 1, open_ := false, up := true },
        by decide +kernel⟩,
    ⟨up0, by decide +kernel⟩,
    ⟨{ pwr := .ready, held := 0, que := { items := [{ id := 7, src := 0, cls := 2, pid := ⟨0, 0, 1, 0, 0⟩, words := [⟨0, 64, 0, [1], 0, false, 0⟩], first := 0, next := 1, len := 1, open_ := false, up := true }] } },
        7,
        { id := 7, src := 0, cls := 2, pid := ⟨0, 0, 1, 0, 0⟩, words := [⟨0, 64, 0, [1], 0, false, 0⟩], first := 0, next := 1, len := 1, open_ := false, up := true },
        .badTag, by decide +kernel⟩⟩

theorem witness_ShelfCommandsComplete :
(∃ (s : State) (x : Shelf), s.alive .cab = true ∧ s.flag .cab_CMD_BUSY = false ∧ x = ⟨bits (s.rd .cab_CMD_ARG0) 0 4, bit (s.rd
    .cab_CMD_ARG0) 4, bits (s.rd .cab_CMD_ARG1) 0 7, bits (s.rd .cab_CMD_ARG1) 8 7⟩ ∧ x.units ≠ 0 ∧ x.base + x.units ≤ 126 ∧
    (∀ h ∈ s.cab.shelves, h.n ≠ x.n ∧ (x.base + x.units ≤ h.base ∨ h.base + h.units ≤ x.base))) ∧
(∃ (s : State), s.alive .cab = true ∧ s.flag .cab_CMD_BUSY = false ∧ bits (s.rd .cab_CMD_ARG1) 8 7 = 0) ∧
(∃ (s : State), s.alive .cab = true ∧ s.flag .cab_CMD_BUSY = false ∧ s.cab.shelves.any (fun h => h.n == bits (s.rd
    .cab_CMD_ARG0) 0 4) = true ∧ s.cab.reels.any (fun r => r.shelf == bits (s.rd .cab_CMD_ARG0) 0 4) = false) ∧
(∃ (s : State), s.alive .cab = true ∧ s.flag .cab_CMD_BUSY = false ∧ s.cab.shelves.any (fun h => h.n == bits (s.rd
    .cab_CMD_ARG0) 0 4) = true ∧ s.cab.reels.any (fun r => r.shelf == bits (s.rd .cab_CMD_ARG0) 0 4) = true) ∧
(∃ (s : State) (n : Nat) (k : Nat) (h : Shelf) (b : Nat), s.alive .cab = true ∧ s.flag .cab_CMD_BUSY = false ∧ n = bits (s.rd
    .cab_CMD_ARG0) 0 6 ∧ k = bits (s.rd .cab_CMD_ARG1) 0 20 ∧ 2 ≤ k ∧ k ≤ 121434 ∧ (bits (s.rd .cab_CMD_ARG0) 13 2 = 0 ∨ bits
    (s.rd .cab_CMD_ARG0) 13 2 = 1) ∧ s.reel n = none ∧ s.cab.shelves.find? (fun h => h.n == bits (s.rd .cab_CMD_ARG0) 8 4) =
    some h ∧ s.firstFit h k = some b) ∧
(∃ (s : State), s.alive .cab = true ∧ s.flag .cab_CMD_BUSY = false ∧ (bits (s.rd .cab_CMD_ARG1) 0 20 < 2 ∨ 121434 < bits (s.rd
    .cab_CMD_ARG1) 0 20)) ∧
(∃ (s : State) (n : Nat), s.alive .cab = true ∧ s.flag .cab_CMD_BUSY = false ∧ n = bits (s.rd .cab_CMD_ARG0) 0 6 ∧ (s.reel
    n).isSome = true ∧ s.reelBusy n = false) ∧
(∃ (s : State), s.alive .cab = true ∧ s.flag .cab_CMD_BUSY = false ∧ (s.reel (bits (s.rd .cab_CMD_ARG0) 0 6)).isSome = true ∧
    s.reelBusy (bits (s.rd .cab_CMD_ARG0) 0 6) = true) ∧
(∃ (s : State) (n : Nat) (r : Reel), s.alive .cab = true ∧ s.flag .cab_CMD_BUSY = false ∧ n = bits (s.rd .cab_CMD_ARG0) 0 6 ∧
    s.reel n = some r ∧ s.reelBusy n = false) ∧
(∃ (s : State), s.alive .cab = true ∧ s.flag .cab_CMD_BUSY = false ∧ s.reel (bits (s.rd .cab_CMD_ARG0) 0 6) = none) ∧
(∃ (s : State), s.alive .cab = true ∧ s.flag .cab_CMD_BUSY = false) :=
  ⟨⟨put (put ({ pwr := .ready, held := 0, cab := { shelves := [⟨0, false, 0, 100⟩] } }) .cab_CMD_ARG0 0 3) .cab_CMD_ARG1 0
        6756, ⟨3, false, 100, 26⟩, by decide +kernel⟩,
    ⟨up0, by decide +kernel⟩,
    ⟨{ pwr := .ready, held := 0, cab := { reels := [] } }, by decide +kernel⟩,
    ⟨up0, by decide +kernel⟩,
    ⟨put (put ({ pwr := .ready, held := 0, cab := { reels := [] } }) .cab_CMD_ARG0 0 5) .cab_CMD_ARG1 0 2, 5, 2, ⟨0, false, 0,
        126⟩, 0, by decide +kernel⟩,
    ⟨put up0 .cab_CMD_ARG1 0 1, by decide +kernel⟩,
    ⟨put
        ({ pwr := .ready, held := 0, cab := { reels := [{ n := 5, shelf := 0, base := 0, exts := 2, ring := true, policy := 0 }] } })
        .cab_CMD_ARG0 0 5, 5, by decide +kernel⟩,
    ⟨up0, by decide +kernel⟩,
    ⟨put
        ({ pwr := .ready, held := 0, cab := { reels := [{ n := 5, shelf := 0, base := 0, exts := 2, ring := true, policy := 0, alloc := 4 }] } })
        .cab_CMD_ARG0 0 5, 5, { n := 5, shelf := 0, base := 0, exts := 2, ring := true, policy := 0, alloc := 4 },
        by decide +kernel⟩,
    ⟨{ pwr := .ready, held := 0, cab := { reels := [] } }, by decide +kernel⟩,
    ⟨up0, by decide +kernel⟩⟩

theorem witness_TakeCommandsComplete :
(∃ (s : State) (t : Nat) (n : Nat), s.alive .cab = true ∧ s.flag .cab_CMD_BUSY = false ∧ n = bits (s.rd .cab_CMD_ARG0) 0 6 ∧
    (s.reel n).isSome = true ∧ (∀ x ∈ s.cab.takes, x.reel = n → x.st ≠ 1) ∧ (s.at t).tickAhead (s.at t).tickTime (s.rd
    .cab_CMD_TICK) = true ∧ s.cab.takes.length < 262144) ∧
(∃ (s : State) (t : Nat), s.alive .cab = true ∧ s.flag .cab_CMD_BUSY = false ∧ (s.reel (bits (s.rd .cab_CMD_ARG0) 0 6)).isSome
    = true ∧ (∀ x ∈ s.cab.takes, x.reel = bits (s.rd .cab_CMD_ARG0) 0 6 → x.st ≠ 1) ∧ (s.at t).tickAhead (s.at t).tickTime
    (s.rd .cab_CMD_TICK) = false) ∧
(∃ (s : State) (t : Nat) (x : Take), s.alive .cab = true ∧ s.flag .cab_CMD_BUSY = false ∧ s.take (s.rd .cab_CMD_ARG0) = some x
    ∧ x.st = 1 ∧ (s.at t).tickAhead (s.at t).tickTime (s.rd .cab_CMD_TICK) = true) ∧
(∃ (s : State), s.alive .cab = true ∧ s.flag .cab_CMD_BUSY = false ∧ s.take (s.rd .cab_CMD_ARG0) = none) ∧
(∃ (s : State) (x : Take) (r : Reel), s.alive .cab = true ∧ s.flag .cab_CMD_BUSY = false ∧ s.take (s.rd .cab_CMD_ARG0) = some
    x ∧ s.reel x.reel = some r ∧ r.ring = true ∧ s.offloading x.num = false ∧ x.st ≠ 1) ∧
(∃ (s : State) (x : Take) (r : Reel), s.alive .cab = true ∧ s.flag .cab_CMD_BUSY = false ∧ s.take (s.rd .cab_CMD_ARG0) = some
    x ∧ s.reel x.reel = some r ∧ r.ring = true ∧ x.st = 1) ∧
(∃ (s : State) (x : Take), s.alive .cab = true ∧ s.flag .cab_CMD_BUSY = false ∧ s.take (s.rd .cab_CMD_ARG0) = some x) :=
  ⟨⟨put (put
        ({ pwr := .ready, held := 0, seq := { k := 6, segs := [{ first := 5, base := 0, epoch := 0, num := 1, den := 50 }] } })
        .seq_TICK_RUN 0 1) .cab_CMD_TICK 0 100, 1, 0, by decide +kernel⟩,
    ⟨up0, 1, by decide +kernel⟩,
    ⟨put (put (put
        ({ pwr := .ready, held := 0, seq := { k := 6, segs := [{ first := 5, base := 0, epoch := 0, num := 1, den := 50 }] }, cab := { takes := [{ num := 9, reel := 0, st := 1, flags := 0, startExt := none, endExt := 0, startTick := 0, stopTick := 0, epoch := 0 }] } })
        .seq_TICK_RUN 0 1) .cab_CMD_TICK 0 100) .cab_CMD_ARG0 0 9, 1,
        { num := 9, reel := 0, st := 1, flags := 0, startExt := none, endExt := 0, startTick := 0, stopTick := 0, epoch := 0 },
        by decide +kernel⟩,
    ⟨up0, by decide +kernel⟩,
    ⟨put
        ({ pwr := .ready, held := 0, cab := { takes := [{ num := 9, reel := 0, st := 2, flags := 0, startExt := none, endExt := 0, startTick := 0, stopTick := 0, epoch := 0 }] } })
        .cab_CMD_ARG0 0 9,
        { num := 9, reel := 0, st := 2, flags := 0, startExt := none, endExt := 0, startTick := 0, stopTick := 0, epoch := 0 },
        { n := 0, shelf := 0, base := 0, exts := 114687, ring := true, policy := 0 }, by decide +kernel⟩,
    ⟨put
        ({ pwr := .ready, held := 0, cab := { takes := [{ num := 9, reel := 0, st := 1, flags := 0, startExt := none, endExt := 0, startTick := 0, stopTick := 0, epoch := 0 }] } })
        .cab_CMD_ARG0 0 9,
        { num := 9, reel := 0, st := 1, flags := 0, startExt := none, endExt := 0, startTick := 0, stopTick := 0, epoch := 0 },
        { n := 0, shelf := 0, base := 0, exts := 114687, ring := true, policy := 0 }, by decide +kernel⟩,
    ⟨put
        ({ pwr := .ready, held := 0, cab := { takes := [{ num := 9, reel := 0, st := 2, flags := 0, startExt := none, endExt := 0, startTick := 0, stopTick := 0, epoch := 0 }] } })
        .cab_CMD_ARG0 0 9,
        { num := 9, reel := 0, st := 2, flags := 0, startExt := none, endExt := 0, startTick := 0, stopTick := 0, epoch := 0 },
        by decide +kernel⟩⟩

theorem witness_StoreCommandsComplete :
(∃ (s : State) (prod : Fin 24) (reel : Fin 64) (w : Slot) (r : Reel) (x : Ext), s.slotOf prod reel = some w ∧ s.alive .cab =
    true ∧ s.alive .edc = true ∧ s.reel reel = some r ∧ s.slotFull w = true ∧ r.live.find? (fun y => y.seq == w.ext) = some x
    ∧ (∀ y ∈ s.que.items, y.prod ≠ prod.val)) ∧
(∃ (s : State) (p : Nat) (l : List MergeOp), s.alive .cab = true ∧ s.alive .edc = true ∧ s.cab.merge = .poison p :: l ∧
    s.cab.wait = []) ∧
(∃ (s : State), s.alive .cab = true ∧ s.alive .edc = true ∧ s.flag .cab_OFL_BUSY = false ∧ s.take (s.rd .cab_OFL_TAKE) = none) ∧
(∃ (s : State) (t : Nat) (x : Take) (o : Nat) (p : PktRef) (l : List (Nat × PktRef)), s.alive .cab = true ∧ s.alive .edc =
    true ∧ s.flag .cab_OFL_BUSY = false ∧ s.take (s.rd .cab_OFL_TAKE) = some x ∧ s.takePkts x (s.rd .cab_OFL_FROM) = (o, p) ::
    l ∧ s.inReel p = true ∧ (s.at t).oflOne p = none) ∧
(∃ (s : State) (t : Nat) (x : Take) (o : Nat) (p : PktRef) (y : State), (s.at t).oflOne p = some y ∧ s.alive .cab = true ∧
    s.alive .edc = true ∧ s.flag .cab_OFL_BUSY = false ∧ s.take (s.rd .cab_OFL_TAKE) = some x ∧ s.takePkts x (s.rd
    .cab_OFL_FROM) = [(o, p)] ∧ s.inReel p = true) ∧
(∃ (s : State), s.alive .cab = true ∧ s.alive .edc = true ∧ s.flag .cab_OFL_BUSY = true) ∧
(∃ (s : State) (o : Ofl) (x : Take), s.alive .cab = true ∧ s.alive .edc = true ∧ s.cab.ofl = some o ∧ s.take o.take = some x ∧
    s.takePkts x o.off = []) ∧
(∃ (s : State), s.alive .cab = true ∧ s.alive .edc = true ∧ s.flag .cab_SCRUB_EN = true ∧ s.mergeRoom = true ∧ s.cab.passDone
    + 1 < sysGroups) ∧
(∃ (s : State), s.alive .cab = true ∧ s.alive .edc = true ∧ s.flag .cab_SCRUB_EN = false) ∧
(∃ (s : State), s.alive .cab = true ∧ s.alive .edc = true ∧ s.pwr = .ready) ∧
(∃ (s : State), s.alive .cab = true ∧ s.alive .edc = true ∧ s.pwr ≠ .ready) ∧
(∃ (s : State), s.alive .cab = true ∧ s.alive .edc = true ∧ s.flag .cab_REPAIR_BUSY = true ∧ s.pwr = .ready) ∧
(∃ (s : State) (h : SramHit), s.alive .cab = true ∧ s.alive .edc = true ∧ h.uncorr = false) ∧
(∃ (s : State) (h : SramHit) (r : Fin 16), s.alive .cab = true ∧ s.alive .edc = true ∧ h.uncorr = true ∧ h.mac = .bank r) :=
  ⟨⟨{ pwr := .ready, held := 0, cab := { reels := [{ n := 0, shelf := 0, base := 0, exts := 114687, ring := true, policy := 0, alloc := 1, live := [{ seq := 0, prod := 1, take := 0, prev := none, epoch := 0 }] }], slots := [{ prod := 1, reel := 0, ext := 0, grp := 3, data := List.replicate 8192 7 }] } },
        1, 0, { prod := 1, reel := 0, ext := 0, grp := 3, data := List.replicate 8192 7 },
        { n := 0, shelf := 0, base := 0, exts := 114687, ring := true, policy := 0, alloc := 1, live := [{ seq := 0, prod := 1, take := 0, prev := none, epoch := 0 }] },
        { seq := 0, prod := 1, take := 0, prev := none, epoch := 0 }, rfl, by decide +kernel⟩,
    ⟨{ pwr := .ready, held := 0, cab := { merge := [.poison 7] } }, 7, [], by decide +kernel⟩,
    ⟨up0, by decide +kernel⟩,
    ⟨put
        ({ pwr := .ready, held := 0, cab := { reels := [{ n := 0, shelf := 0, base := 0, exts := 114687, ring := true, policy := 0, alloc := 1, live := [{ seq := 0, prod := 1, take := 9, prev := none, epoch := 0, len := 64 }] }], pkts := [{ pid := ⟨0, 0, 1, 0, 0⟩, prod := 1, reel := 0, ext := 0, off := 0, len := 8 }], takes := [{ num := 9, reel := 0, st := 2, flags := 0, startExt := some 0, endExt := 0, startTick := 0, stopTick := 0, epoch := 0 }] }, que := { cls := .replicate 5 4294967296, shared := .replicate 21 4294967296, own := .replicate 21 4294967296 } })
        .cab_OFL_TAKE 0 9, 1,
        { num := 9, reel := 0, st := 2, flags := 0, startExt := some 0, endExt := 0, startTick := 0, stopTick := 0, epoch := 0 },
        0, { pid := ⟨0, 0, 1, 0, 0⟩, prod := 1, reel := 0, ext := 0, off := 0, len := 8 }, [], by decide +kernel⟩,
    ⟨put
        ({ pwr := .ready, held := 0, cab := { reels := [{ n := 0, shelf := 0, base := 0, exts := 114687, ring := true, policy := 0, alloc := 1, live := [{ seq := 0, prod := 1, take := 9, prev := none, epoch := 0, len := 64 }] }], pkts := [{ pid := ⟨0, 0, 1, 0, 0⟩, prod := 1, reel := 0, ext := 0, off := 0, len := 8 }], takes := [{ num := 9, reel := 0, st := 2, flags := 0, startExt := some 0, endExt := 0, startTick := 0, stopTick := 0, epoch := 0 }] } })
        .cab_OFL_TAKE 0 9, 1,
        { num := 9, reel := 0, st := 2, flags := 0, startExt := some 0, endExt := 0, startTick := 0, stopTick := 0, epoch := 0 },
        0, { pid := ⟨0, 0, 1, 0, 0⟩, prod := 1, reel := 0, ext := 0, off := 0, len := 8 }, _, (Option.some_get
        (by decide +kernel)).symm, by decide +kernel⟩,
    ⟨put up0 .cab_OFL_BUSY 0 1, by decide +kernel⟩,
    ⟨put
        ({ pwr := .ready, held := 0, cab := { ofl := some ⟨9, 0, []⟩, takes := [{ num := 9, reel := 0, st := 2, flags := 0, startExt := none, endExt := 0, startTick := 0, stopTick := 0, epoch := 0 }] } })
        .cab_OFL_BUSY 0 1, ⟨9, 0, []⟩,
        { num := 9, reel := 0, st := 2, flags := 0, startExt := none, endExt := 0, startTick := 0, stopTick := 0, epoch := 0 },
        by decide +kernel⟩,
    ⟨up0, by decide +kernel⟩,
    ⟨put up0 .cab_SCRUB_EN 0 0, by decide +kernel⟩,
    ⟨up0, by decide +kernel⟩,
    ⟨{ pwr := .acquire, held := 0 }, by decide +kernel⟩,
    ⟨put ({ pwr := .ready, held := 0, edc := { remap := [(3, 7, 2)] } }) .cab_REPAIR_BUSY 0 1, by decide +kernel⟩,
    ⟨up0, ⟨.fabric, 3, 1, false, false⟩, by decide +kernel⟩,
    ⟨up0, ⟨.bank 3, 3, 1, true, false⟩, 3, by decide +kernel⟩⟩

theorem witness_LaneBringUpCommandsComplete :
(∃ (s : State) (t : Nat) (l : Fin 10) (j : Fin 2), s.alive .lnk = true ∧ s.laneOk l j = true ∧ s.laneSt l j = laHunt ∧ s.rd
    .lnk_REV_CAP = 2 ∧ (s.lane l j).only = false ∧ (s.lane l j).since + (if isUplink l then 25 * msFu else 10 * msFu) ≤ t) ∧
(∃ (s : State) (l : Fin 10) (j : Fin 2), s.alive .lnk = true ∧ s.laneOk l j = true ∧ s.laneSt l j = laHunt ∧ (s.lane l j).hdrs
    = List.replicate 64 true) ∧
(∃ (s : State) (l : Fin 10) (j : Fin 2), s.alive .lnk = true ∧ s.laneOk l j = true ∧ (s.laneSt l j < laHello ∨ (s.lane l
    j).hdrs.countP (fun b => !b) < 16)) ∧
(∃ (s : State) (l : Fin 10) (j : Fin 2), s.alive .lnk = true ∧ s.laneOk l j = true ∧ laHello ≤ s.laneSt l j ∧ s.laneSt l j ≤
    laAlign ∧ 16 ≤ (s.lane l j).hdrs.countP (fun b => !b)) ∧
(∃ (s : State) (l : Fin 10) (j : Fin 2), s.alive .lnk = true ∧ s.laneOk l j = true ∧ s.laneSt l j < laHello) ∧
(∃ (s : State) (l : Fin 10) (j : Fin 2), s.alive .lnk = true ∧ s.laneOk l j = true) ∧
(∃ (s : State) (l : Fin 10) (j : Fin 2) (line : List Bool) (k : List Bool) (run : Bool × Nat) (e : Nat), s.alive .lnk = true ∧
    s.laneOk l j = true ∧ destuff ((s.lane l j).runBit, (s.lane l j).runLen) line = (k, run, e) ∧ k.length = 130 ∧ (k.take 2 =
    [true, true] ∨ k.take 2 = [false, false])) ∧
(∃ (s : State) (l : Fin 10) (j : Fin 2) (n : Fin 33), s.alive .lnk = true ∧ s.laneOk l j = true ∧ 12 ≤ n.val ∧ n.val ≤ 20) ∧
(∃ (s : State) (l : Fin 10) (j : Fin 2) (scr : BitVec 31) (r : Nat), s.alive .lnk = true ∧ s.laneOk l j = true ∧ (s.lane l
    j).rx = some r ∧ r ≠ scr.toNat) ∧
(∃ (s : State) (l : Fin 10) (j : Fin 2), s.alive .lnk = true ∧ s.laneOk l j = true ∧ laHello ≤ s.laneSt l j ∧ (s.lane l
    j).ackGot = false) ∧
(∃ (s : State) (l : Fin 10) (j : Fin 2) (h : Hello), s.alive .lnk = true ∧ s.laneOk l j = true ∧ laHello ≤ s.laneSt l j ∧
    (s.lane l j).rx.isSome = true ∧ s.miswired l j h = false) ∧
(∃ (s : State) (l : Fin 10) (j : Fin 2), s.alive .lnk = true ∧ s.laneOk l j = true ∧ (s.laneSt l j < laHello ∨ (s.lane l j).rx
    = none)) ∧
(∃ (s : State) (l : Fin 10) (j : Fin 2) (h : Hello), s.alive .lnk = true ∧ s.laneOk l j = true ∧ laHello ≤ s.laneSt l j ∧
    (s.lane l j).rx.isSome = true ∧ s.miswired l j h = true ∧ (s.lane l j).mis = false) ∧
(∃ (s : State) (t : Nat) (l : Fin 10) (j : Fin 2) (t0 : Nat), s.alive .lnk = true ∧ s.laneOk l j = true ∧ (s.lane l
    j).switchAt = some t0 ∧ t0 ≤ t ∧ s.laneSt l j = laHello) ∧
(∃ (s : State) (t : Nat) (l : Fin 10) (j : Fin 2), s.alive .lnk = true ∧ s.laneOk l j = true ∧ s.laneSt l j = laHunt ∧ (s.lane
    l j).only = true ∧ (s.lane l j).since + 100 * msFu ≤ t) ∧
(∃ (s : State) (t : Nat) (l : Fin 10) (j : Fin 2), s.alive .lnk = true ∧ s.laneOk l j = true ∧ s.laneSt l j = laHello ∧
    (s.lane l j).heard = false ∧ (s.lane l j).lockAt + 200 * msFu ≤ t) ∧
(∃ (s : State) (t : Nat) (l : Fin 10) (j : Fin 2), s.alive .lnk = true ∧ s.laneOk l j = true ∧ s.laneSt l j = laHello ∧
    (s.lane l j).heard = false ∧ (s.lane l j).lockAt + 20 * msFu ≤ t ∧ (s.at t).clock < (s.lane l j).lockAt + 200 * msFu) ∧
(∃ (s : State) (l : Fin 10) (j : Fin 2) (m : Train), s.alive .lnk = true ∧ s.laneOk l j = true ∧ s.laneSt l j = laTrain ∧
    (s.lane l j).ready = false ∧ (s.lane l j).echo = none ∧ m.preset = true) ∧
(∃ (s : State) (l : Fin 10) (j : Fin 2), s.alive .lnk = true ∧ s.laneOk l j = true ∧ s.laneSt l j = laTrain ∧ (s.lane l
    j).partnerReady = false) ∧
(∃ (s : State) (l : Fin 10) (j : Fin 2), s.alive .lnk = true ∧ s.laneOk l j = true ∧ s.laneSt l j = laTrain ∧ (s.lane l
    j).partnerReady = true ∧ s.striped l = true ∧ s.laneSt l (otherLane j) ≠ laUp) ∧
(∃ (s : State) (t : Nat) (l : Fin 10) (j : Fin 2), s.alive .lnk = true ∧ s.laneOk l j = true ∧ s.laneSt l j = laTrain ∧
    (s.lane l j).since + 500 * msFu ≤ t) ∧
(∃ (s : State) (t : Nat) (l : Fin 10) (j : Fin 2), s.alive .lnk = true ∧ s.laneOk l j = true ∧ s.laneSt l j = laTrain ∧ (s.at
    t).clock < (s.lane l j).since + 500 * msFu ∧ (s.lane l j).trainAt = none ∧ (s.lane l j).lockAt + 20 * msFu ≤ t) ∧
(∃ (s : State) (t : Nat) (l : Fin 10) (j : Fin 2) (t0 : Nat), s.alive .lnk = true ∧ s.laneOk l j = true ∧ (s.laneSt l j =
    laCompat ∨ s.laneSt l j = laHello) ∧ (s.lane l j).sweep.length < 15 ∧ (s.lane l j).sweepAt = some t0 ∧ t0 + 100 * usFu *
    ((s.lane l j).sweep.length + 1) ≤ t) ∧
(∃ (s : State) (t : Nat) (l : Fin 10) (j : Fin 2), s.alive .lnk = true ∧ s.laneOk l j = true ∧ s.laneSt l j = laBackoff ∧
    (s.lane l j).until_ ≤ t ∧ s.laneOn l j = true) ∧
(∃ (s : State) (t : Nat) (l : Fin 10) (j : Fin 2), s.alive .lnk = true ∧ s.laneOk l j = true ∧ s.laneSt l j = laBackoff ∧
    (s.lane l j).until_ ≤ t ∧ s.laneOn l j = false) :=
  ⟨⟨put (put ({ pwr := .ready, held := 0, lnk := { lanes := (Vector.replicate 20 {}).set 4 { } } }) .lnk_L0_STATE 2 2)
        .lnk_REV_CAP 0 2, 10 * msFu, 2, 0, by decide +kernel⟩,
    ⟨put ({ pwr := .ready, held := 0, lnk := { lanes := (Vector.replicate 20 {}).set 4 { hdrs := List.replicate 64 true } } })
        .lnk_L0_STATE 2 2, 2, 0, by decide +kernel⟩,
    ⟨put up0 .lnk_L0_STATE 2 2, 2, 0, by decide +kernel⟩,
    ⟨put
        ({ pwr := .ready, held := 0, lnk := { lanes := (Vector.replicate 20 {}).set 4 { hdrs := List.replicate 64 false } } })
        .lnk_L0_STATE 2 4, 2, 0, by decide +kernel⟩,
    ⟨put ({ pwr := .ready, held := 0, lnk := { lanes := (Vector.replicate 20 {}).set 4 { } } }) .lnk_L0_STATE 2 2, 2, 0,
        by decide +kernel⟩,
    ⟨put ({ pwr := .ready, held := 0, lnk := { lanes := (Vector.replicate 20 {}).set 4 { los := true } } }) .lnk_L0_STATE 2 2,
        2, 0, by decide +kernel⟩,
    ⟨put ({ pwr := .ready, held := 0, lnk := { lanes := (Vector.replicate 20 {}).set 4 { } } }) .lnk_L0_STATE 2 3, 2, 0, true
        :: true :: (List.range 128).map (fun i => i % 2 == 1), true :: true :: (List.range 128).map (fun i => i % 2 == 1),
        (true, 1), 0, by decide +kernel⟩,
    ⟨put ({ pwr := .ready, held := 0, lnk := { links := (Vector.replicate 10 {}).set 2 {  } } }) .lnk_L0_STATE 2 7, 2, 0, 12,
        by decide +kernel⟩,
    ⟨put ({ pwr := .ready, held := 0, lnk := { lanes := (Vector.replicate 20 {}).set 4 { rx := some 4 } } }) .lnk_L0_STATE 2
        3, 2, 0, 5, 4, by decide +kernel⟩,
    ⟨put ({ pwr := .ready, held := 0, lnk := { lanes := (Vector.replicate 20 {}).set 4 { ack := true } } }) .lnk_L0_STATE 2 3,
        2, 0, by decide +kernel⟩,
    ⟨put ({ pwr := .ready, held := 0, lnk := { lanes := (Vector.replicate 20 {}).set 4 { rx := some 7 } } }) .lnk_L0_STATE 2
        3, 2, 0,
        { revMax := 2, linkRev := 2, port := 0, lane := 0, down := false, split := false, ack := false, leaving := false, feat := 3, moduleId := 77, fwVer := 0x100, mrole := 0 },
        by decide +kernel⟩,
    ⟨put up0 .lnk_L0_STATE 2 3, 2, 0, by decide +kernel⟩,
    ⟨put ({ pwr := .ready, held := 0, lnk := { lanes := (Vector.replicate 20 {}).set 4 { rx := some 7 } } }) .lnk_L0_STATE 2
        3, 2, 0,
        { revMax := 2, linkRev := 2, port := 0, lane := 0, down := true, split := false, ack := false, leaving := false, feat := 3, moduleId := 77, fwVer := 0x100, mrole := 0 },
        by decide +kernel⟩,
    ⟨put ({ pwr := .ready, held := 0, lnk := { lanes := (Vector.replicate 20 {}).set 4 { switchAt := some 0 } } })
        .lnk_L0_STATE 2 3, 1, 2, 0, 0, by decide +kernel⟩,
    ⟨put ({ pwr := .ready, held := 0, lnk := { lanes := (Vector.replicate 20 {}).set 4 { only := true } } }) .lnk_L0_STATE 2
        2, 100 * msFu, 2, 0, by decide +kernel⟩,
    ⟨put ({ pwr := .ready, held := 0, lnk := { lanes := (Vector.replicate 20 {}).set 4 { } } }) .lnk_L0_STATE 2 3, 200 * msFu,
        2, 0, by decide +kernel⟩,
    ⟨put ({ pwr := .ready, held := 0, lnk := { lanes := (Vector.replicate 20 {}).set 4 { } } }) .lnk_L0_STATE 2 3, 20 * msFu,
        2, 0, by decide +kernel⟩,
    ⟨put ({ pwr := .ready, held := 0, lnk := { lanes := (Vector.replicate 20 {}).set 4 { } } }) .lnk_L0_STATE 2 4, 2, 0, ⟨0,
        0, true, false, 5, 0, 0, 0⟩, by decide +kernel⟩,
    ⟨put ({ pwr := .ready, held := 0, lnk := { lanes := (Vector.replicate 20 {}).set 4 { } } }) .lnk_L0_STATE 2 4, 2, 0,
        by decide +kernel⟩,
    ⟨put (put (put ({ pwr := .ready, held := 0, lnk := { lanes := (Vector.replicate 20 {}).set 4 { partnerReady := true } } })
        .lnk_L0_STATE 2 4) .lnk_LANE_EN 2 3) .lnk_PARTNER_FEAT 2 2, 2, 0, by decide +kernel⟩,
    ⟨put ({ pwr := .ready, held := 0, lnk := { lanes := (Vector.replicate 20 {}).set 4 { } } }) .lnk_L0_STATE 2 4, 500 * msFu,
        2, 0, by decide +kernel⟩,
    ⟨put ({ pwr := .ready, held := 0, lnk := { lanes := (Vector.replicate 20 {}).set 4 { } } }) .lnk_L0_STATE 2 4, 20 * msFu,
        2, 0, by decide +kernel⟩,
    ⟨put
        ({ pwr := .ready, held := 0, lnk := { lanes := (Vector.replicate 20 {}).set 4 { sweep := [(1, 2)], sweepAt := some 0 } } })
        .lnk_L0_STATE 2 5, msFu, 2, 0, 0, by decide +kernel⟩,
    ⟨put (put (put (put ({ pwr := .ready, held := 0, lnk := { lanes := (Vector.replicate 20 {}).set 4 { } } }) .lnk_L0_STATE 2
        1) .lnk_PORT_EN 0 63) .lnk_LANE_EN 2 3) .tre_ROLE 0 0, 1, 2, 0, by decide +kernel⟩,
    ⟨put (put (put ({ pwr := .ready, held := 0, lnk := { lanes := (Vector.replicate 20 {}).set 4 { } } }) .lnk_L0_STATE 2 1)
        .lnk_PORT_EN 0 0) .tre_ROLE 0 0, 1, 2, 0, by decide +kernel⟩⟩

theorem witness_LinkCommandsComplete :
(∃ (s : State) (l : Fin 10), s.alive .lnk = true ∧ s.striped l = true ∧ s.alignOk l 0 = true ∧ s.alignOk l 1 = true ∧
    (s.laneSt l 0 = laAlign ∨ 8192 ≤ (s.link l).blk)) ∧
(∃ (s : State) (l : Fin 10) (a : BitVec 16) (b : BitVec 16) (skew : Nat), s.alive .lnk = true ∧ s.striped l = true ∧ (a ≠ b ∨
    12 < skew) ∧ s.linkUp l = true) ∧
(∃ (s : State) (l : Fin 10) (a : BitVec 16) (b : BitVec 16) (skew : Nat), s.alive .lnk = true ∧ s.striped l = true ∧ a = b ∧
    skew ≤ 12 ∧ s.laneSt l 0 ≠ laAlign) ∧
(∃ (s : State) (t : Nat) (l : Fin 10) (m : V0) (q : List V0), s.alive .lnk = true ∧ s.pmr.warm = none ∧ s.linkUp l = true ∧
    (s.link l).draining = false ∧ ((s.at t).evPump.pump0.link l).vc0 = m :: q ∧ s.frameOk l 0 (m.bytes s.myId).length = true) ∧
(∃ (s : State) (t : Nat) (l : Fin 10) (m : V0) (q : List V0), s.alive .lnk = true ∧ s.pmr.warm = none ∧ s.linkUp l = true ∧
    (s.link l).draining = false ∧ ((s.at t).evPump.pump0.link l).vc0 = m :: q ∧ s.frameOk l 0 (m.bytes s.myId).length = false) ∧
(∃ (s : State) (l : Fin 10), s.alive .lnk = true ∧ s.pmr.warm = none ∧ (s.linkUp l = false ∨ (s.link l).draining = true)) ∧
(∃ (s : State) (l : Fin 10) (c : Nat), s.alive .lnk = true ∧ s.pmr.warm = some c ∧ (s.linkUp l = false ∨ (s.link l).draining =
    true) ∧ s.owesReply = false) ∧
(∃ (s : State) (l : Fin 10) (f : RxFrame), s.alive .lnk = true ∧ s.linkUp l = true ∧ (s.link l).discard = false ∧ (s.link
    l).reading = true ∧ f.ackV = false ∧ f.seq.toNat = (s.link l).rxSeq ∧ f.data.length = 16 * (f.n1.toNat + 1) ∧ crc32
    (f.data.map (·.toNat) ++ bytesLE 2 f.seq.toNat ++ [f.n1.toNat + 32 * f.vc.toNat, f.last1.toNat] ++ bytesLE 2
    f.ackSeq.toNat) = f.fcrc.toNat ∧ f.vc = 0 ∧ (s.link l).got[0] + frameUnits (f.n1.toNat + 1) ≤ (s.link l).adv[0] ∧
    (f.data.map (·.toNat)).getD 0 0 = 0x10) ∧
(∃ (s : State) (l : Fin 10) (f : RxFrame), s.alive .lnk = true ∧ s.linkUp l = true ∧ (s.link l).discard = false ∧ (s.link
    l).reading = true ∧ f.ackV = false ∧ f.data.length % 16 = 0 ∧ f.seq.toNat = ((s.link l).rxSeq + 1) % 65536 ∧ (s.link
    l).nakAt = none ∧ (s.link l).rxSeq < 65536) ∧
(∃ (s : State) (l : Fin 10), s.alive .lnk = true ∧ s.linkUp l = true ∧ (s.link l).reading = true ∧ (s.link l).draining = false
    ∧ s.linkRole l ≠ roleParent) ∧
(∃ (s : State) (l : Fin 10), s.alive .lnk = true ∧ s.linkUp l = true ∧ (s.link l).reading = true ∧ (s.link l).replays + 1 <
    s.rd .lnk_RETRY_MAX l) ∧
(∃ (s : State) (t : Nat) (l : Fin 10) (t0 : Nat), s.alive .lnk = true ∧ s.linkUp l = true ∧ (s.link l).ackDue = some t0 ∧ t0 +
    80000 ≤ t) ∧
(∃ (s : State) (t : Nat) (l : Fin 10), s.alive .lnk = true ∧ s.linkUp l = true ∧ (s.link l).replay ≠ [] ∧ (s.link l).ackAt +
    s.rd .lnk_REPLAY_TMO l * usFu ≤ t ∧ (s.link l).replays + 1 < s.rd .lnk_RETRY_MAX l) ∧
(∃ (s : State) (l : Fin 10), s.alive .lnk = true ∧ s.linkUp l = true) ∧
(∃ (s : State) (l : Fin 10) (h : Heart), s.alive .lnk = true ∧ s.linkUp l = true ∧ (s.link l).discard = false ∧ (s.link
    l).reading = true ∧ h.ackV = false ∧ h.tackV = false) ∧
(∃ (s : State) (t : Nat) (l : Fin 10), s.alive .lnk = true ∧ s.linkUp l = true ∧ (s.link l).hbLast + s.rd .lnk_HB_MISS l *
    usFu ≤ t) ∧
(∃ (s : State) (t : Nat) (l : Fin 10), s.alive .lnk = true ∧ (s.linkUp l = false ∨ s.pwr = .standby ∨ (s.trigLink l).out.any
    (fun e => decide (e.2.2 + 3 * usFu ≤ (s.at t).clock)) = false)) ∧
(∃ (s : State) (t : Nat) (l : Fin 10) (e : Nat × TBlk × Nat), s.alive .lnk = true ∧ s.linkUp l = true ∧ s.pwr ≠ .standby ∧
    (s.trigLink l).out = [e] ∧ e.2.2 + 3 * usFu ≤ t) ∧
(∃ (s : State) (l : Fin 10) (lanes : BitVec 2), s.alive .lnk = true ∧ s.linkUp l = true ∧ lanes = 1 ∧ s.laneSt l 1 ≠ laUp) ∧
(∃ (s : State) (l : Fin 10) (lanes : BitVec 2), s.alive .lnk = true ∧ s.linkUp l = true ∧ lanes = 3) ∧
(∃ (s : State) (l : Fin 10), s.alive .lnk = true ∧ (s.link l).rejoin = true ∧ s.laneSt l 1 = laAlign ∧ s.laneSt l 0 = laUp ∧
    s.pwr ≠ .safe) ∧
(∃ (s : State), s.alive .lnk = true) ∧
(∃ (s : State) (l : Fin 10) (m : BitVec 2), s.alive .lnk = true ∧ m = 1 ∧ s.laneOk l 0 = true ∧ laHunt ≤ s.laneSt l 0 ∧
    s.laneSt l 0 ≤ laAlign) :=
  ⟨⟨put (put (put (put (put up0 .lnk_PORT_EN 0 63) .lnk_L0_STATE 2 6) .lnk_L1_STATE 2 6) .lnk_LANE_EN 2 3) .lnk_PARTNER_FEAT
        2 2, 2, by decide +kernel⟩,
    ⟨put (put (put ({ pwr := .ready, held := 0, lnk := { links := (Vector.replicate 10 {}).set 2 { } } }) .lnk_L0_STATE 2 7)
        .lnk_LANE_EN 2 3) .lnk_PARTNER_FEAT 2 2, 2, 5, 6, 0, by decide +kernel⟩,
    ⟨put (put (put ({ pwr := .ready, held := 0, lnk := { links := (Vector.replicate 10 {}).set 2 { discard := true } } })
        .lnk_L0_STATE 2 7) .lnk_LANE_EN 2 3) .lnk_PARTNER_FEAT 2 2, 2, 5, 5, 12, by decide +kernel⟩,
    ⟨put
        ({ pwr := .ready, held := 0, lnk := { links := (Vector.replicate 10 {}).set 2 { vc0 := [.claim 5], cred := .replicate 5 32 } } })
        .lnk_L0_STATE 2 7, 1, 2, .claim 5, [], by decide +kernel⟩,
    ⟨put
        ({ pwr := .ready, held := 0, lnk := { links := (Vector.replicate 10 {}).set 2 { vc0 := [.claim 5], cred := .replicate 5 0 } } })
        .lnk_L0_STATE 2 7, 1, 2, .claim 5, [], by decide +kernel⟩,
    ⟨up0, 2, by decide +kernel⟩,
    ⟨{ pwr := .ready, held := 0, pmr := { warm := some 2 } }, 2, 2, by decide +kernel⟩,
    ⟨put ({ pwr := .ready, held := 0, lnk := { links := (Vector.replicate 10 {}).set 2 { adv := .replicate 5 32 } } })
        .lnk_L0_STATE 2 7, 2, ⟨0x10 :: List.replicate 15 0, 0, 0, 0, 15, false, 0, 176340124⟩, by decide +kernel⟩,
    ⟨put ({ pwr := .ready, held := 0, lnk := { links := (Vector.replicate 10 {}).set 2 { } } }) .lnk_L0_STATE 2 7, 2,
        ⟨List.replicate 16 0, 1, 0, 0, 15, false, 0, 0⟩, by decide +kernel⟩,
    ⟨put
        ({ pwr := .ready, held := 0, lnk := { links := (Vector.replicate 10 {}).set 2 { replay := [⟨0, 0, List.replicate 16 0, none, none⟩, ⟨1, 0, List.replicate 16 0, none, none⟩], txSeq := 2 } } })
        .lnk_L0_STATE 2 7, 2, by decide +kernel⟩,
    ⟨put ({ pwr := .ready, held := 0, lnk := { links := (Vector.replicate 10 {}).set 2 { } } }) .lnk_L0_STATE 2 7, 2,
        by decide +kernel⟩,
    ⟨put ({ pwr := .ready, held := 0, lnk := { links := (Vector.replicate 10 {}).set 2 { ackDue := some 0, rxSeq := 5 } } })
        .lnk_L0_STATE 2 7, 80000, 2, 0, by decide +kernel⟩,
    ⟨put
        ({ pwr := .ready, held := 0, lnk := { links := (Vector.replicate 10 {}).set 2 { replay := [⟨7, 0, List.replicate 16 0, none, none⟩], txSeq := 8 } } })
        .lnk_L0_STATE 2 7, 1000 * msFu, 2, by decide +kernel⟩,
    ⟨put ({ pwr := .ready, held := 0, lnk := { links := (Vector.replicate 10 {}).set 2 { hbSeq := 9 } } }) .lnk_L0_STATE 2 7,
        2, by decide +kernel⟩,
    ⟨put ({ pwr := .ready, held := 0, lnk := { links := (Vector.replicate 10 {}).set 2 { } } }) .lnk_L0_STATE 2 7, 2, ⟨3,
        false, false, false, 0, 0, .replicate 5 77⟩, by decide +kernel⟩,
    ⟨put ({ pwr := .ready, held := 0, lnk := { links := (Vector.replicate 10 {}).set 2 { } } }) .lnk_L0_STATE 2 7, msFu, 2,
        by decide +kernel⟩,
    ⟨put ({ pwr := .ready, held := 0, lnk := { links := (Vector.replicate 10 {}).set 2 {  } } }) .lnk_L0_STATE 2 7, 1, 2,
        by decide +kernel⟩,
    ⟨put
        ({ pwr := .ready, held := 0, trg := { links := .replicate 10 { out := [(3, .req { cls := 1, tt := 0, n := 1, src := 0 }, 0)] } } })
        .lnk_L0_STATE 2 7, 4 * usFu, 2, (3, .req { cls := 1, tt := 0, n := 1, src := 0 }, 0), by decide +kernel⟩,
    ⟨put ({ pwr := .ready, held := 0, lnk := { links := (Vector.replicate 10 {}).set 2 { reading := false } } }) .lnk_L0_STATE
        2 7, 2, 1, by decide +kernel⟩,
    ⟨put ({ pwr := .ready, held := 0, lnk := { links := (Vector.replicate 10 {}).set 2 { } } }) .lnk_L0_STATE 2 7, 2, 3,
        by decide +kernel⟩,
    ⟨put (put ({ pwr := .ready, held := 0, lnk := { links := (Vector.replicate 10 {}).set 2 { rejoin := true } } })
        .lnk_L0_STATE 2 7) .lnk_L1_STATE 2 6, 2, by decide +kernel⟩,
    ⟨put up0 .lnk_PORT_EN 0 63, by decide +kernel⟩,
    ⟨put up0 .lnk_L0_STATE 2 4, 2, 1, by decide +kernel⟩⟩

theorem witness_EnumerationCommandsComplete :
(∃ (s : State) (l : Fin 10), s.alive .tre = true ∧ s.linkUp l = true ∧ isUplink l = false) ∧
(∃ (s : State) (l : Fin 10) (assign : BitVec 32), s.alive .tre = true ∧ s.linkUp l = true ∧ isUplink l = true ∧ s.isRoot =
    false ∧ s.myId ≠ 0 ∧ assign = 0 ∧ s.linkRole l = roleParent) ∧
(∃ (s : State) (l : Fin 10) (id : BitVec 32) (parent : BitVec 32) (role : BitVec 1), s.alive .tre = true ∧ s.linkUp l = true ∧
    s.isRoot = true ∧ id = 0 ∧ role = 0 ∧ (∀ e ∈ s.tre.given, e.1 ≠ l.val ∨ e.2.1 ≠ parent.toNat)) ∧
(∃ (s : State) (l : Fin 10) (id : BitVec 32) (parent : BitVec 32) (role : BitVec 1) (n : Nat), s.alive .tre = true ∧ s.linkUp
    l = true ∧ s.isRoot = true ∧ id = 0 ∧ role = 0 ∧ parent.toNat = s.myId ∧ s.tre.given = [(l.val, s.myId, n)] ∧ n ≠ 0) ∧
(∃ (s : State) (l : Fin 10) (id : BitVec 32) (parent : BitVec 32) (p : Fin 10), s.alive .tre = true ∧ s.linkUp l = true ∧
    s.isRoot = false ∧ id ≠ 0 ∧ parent.toNat ≠ s.myId ∧ s.parentLink = some p ∧ s.linkUp p = true) ∧
(∃ (s : State) (t : Nat) (l : Fin 10) (t0 : Nat) (p : Fin 10), s.alive .tre = true ∧ s.linkUp l = true ∧ s.tre.reply = some
    (t0, 8, p.val) ∧ s.linkUp p = true ∧ t0 + msFu ≤ t) ∧
(∃ (s : State) (t : Nat) (l : Fin 10) (t0 : Nat), s.alive .tre = true ∧ s.linkUp l = true ∧ s.tre.readyAt = some t0 ∧ s.isRoot
    = false ∧ s.tre.enumSeen = false ∧ s.tre.waitRep = false ∧ t0 + 2 * secFu ≤ t) ∧
(∃ (s : State) (l : Fin 10), s.alive .tre = true ∧ s.linkUp l = true ∧ s.isRoot = false) ∧
(∃ (s : State) (l : Fin 10), s.alive .tre = true ∧ s.linkUp l = true ∧ s.isRoot = true ∧ l ∈ s.downUp) ∧
(∃ (s : State) (l : Fin 10) (child : BitVec 32) (p : Fin 10) (e : SubEnt), s.alive .tre = true ∧ s.linkUp l = true ∧ s.isRoot
    = false ∧ s.parentLink = some p ∧ s.linkUp p = true ∧ s.subEnt child.toNat = some e) ∧
(∃ (s : State) (l : Fin 10), s.alive .tre = true ∧ s.linkUp l = true ∧ s.running = false) ∧
(∃ (s : State) (l : Fin 10) (tick : BitVec 48), s.alive .tre = true ∧ s.linkUp l = true ∧ s.running = true ∧ s.seq.k <
    tick.toNat) ∧
(∃ (s : State) (l : Fin 10) (v : BitVec 2), s.alive .tre = true ∧ s.linkUp l = true ∧ v ≠ 3) ∧
(∃ (s : State) (l : Fin 10) (v : BitVec 2), s.alive .tre = true ∧ s.linkUp l = true ∧ v = 3) :=
  ⟨⟨put ({ pwr := .ready, held := 0, tre := { } }) .lnk_L0_STATE 2 7, 2, by decide +kernel⟩,
    ⟨put (put (put (put ({ pwr := .ready, held := 0, tre := { } }) .lnk_L0_STATE 0 7) .tre_ROLE 0 0) .tre_MODULE_ID 0 9)
        .tre_LINK_ROLE 0 1, 0, 0, by decide +kernel⟩,
    ⟨put (put up0 .lnk_L0_STATE 2 7) .tre_ROLE 0 1, 2, 0, 0, 0, by decide +kernel⟩,
    ⟨put (put (put ({ pwr := .ready, held := 0, tre := { given := [(2, 9, 10)] } }) .lnk_L0_STATE 2 7) .tre_ROLE 0 1)
        .tre_MODULE_ID 0 9, 2, 0, 9, 0, 10, by decide +kernel⟩,
    ⟨put (put (put (put (put ({ pwr := .ready, held := 0, tre := { } }) .lnk_L0_STATE 2 7) .tre_MODULE_ID 0 9) .tre_LINK_ROLE
        0 1) .lnk_L0_STATE 0 7) .tre_ROLE 0 0, 2, 5, 4, 0, by decide +kernel⟩,
    ⟨put ({ pwr := .ready, held := 0, tre := { reply := some (0, 8, 1) } }) .lnk_L0_STATE 1 7, msFu, 1, 0, 1,
        by decide +kernel⟩,
    ⟨put (put ({ pwr := .ready, held := 0, tre := { readyAt := some 0 } }) .lnk_L0_STATE 0 7) .tre_ROLE 0 0, 2 * secFu, 0, 0,
        by decide +kernel⟩,
    ⟨put (put ({ pwr := .ready, held := 0, tre := { } }) .lnk_L0_STATE 0 7) .tre_ROLE 0 0, 0, by decide +kernel⟩,
    ⟨put (put ({ pwr := .ready, held := 0, tre := { } }) .lnk_L0_STATE 2 7) .tre_ROLE 0 1, 2, by decide +kernel⟩,
    ⟨put (put (put (put (put ({ pwr := .ready, held := 0, tre := { sub := [{ id := 5, link := 2, parent := 9 }] } })
        .lnk_L0_STATE 2 7) .tre_MODULE_ID 0 9) .tre_LINK_ROLE 0 1) .lnk_L0_STATE 0 7) .tre_ROLE 0 0, 2, 5, 0,
        { id := 5, link := 2, parent := 9 }, by decide +kernel⟩,
    ⟨put ({ pwr := .ready, held := 0, tre := { } }) .lnk_L0_STATE 0 7, 0, by decide +kernel⟩,
    ⟨put (put
        ({ pwr := .ready, held := 0, seq := { k := 6, segs := [{ first := 5, base := 0, epoch := 0, num := 1, den := 50 }] } })
        .seq_TICK_RUN 0 1) .lnk_L0_STATE 0 7, 0, 9, by decide +kernel⟩,
    ⟨put ({ pwr := .ready, held := 0, tre := { } }) .lnk_L0_STATE 0 7, 0, 2, by decide +kernel⟩,
    ⟨put ({ pwr := .ready, held := 0, tre := { } }) .lnk_L0_STATE 0 7, 0, 3, by decide +kernel⟩⟩

theorem witness_ClaimCommandsComplete :
(∃ (s : State) (l : Fin 10) (no : BitVec 32), s.alive .tre = true ∧ s.linkUp l = true ∧ isUplink l = true ∧ no.toNat ≤
    s.tre.held) ∧
(∃ (s : State) (l : Fin 10) (no : BitVec 32), s.alive .tre = true ∧ s.linkUp l = true ∧ isUplink l = true ∧ s.tre.held <
    no.toNat ∧ s.linkRole l = roleOffered) ∧
(∃ (s : State) (l : Fin 10) (no : BitVec 32) (m : Fin 10), s.alive .tre = true ∧ s.linkUp l = true ∧ isUplink l = true ∧
    s.tre.held < no.toNat ∧ s.linkRole l = roleStandbyParent ∧ m = (if l = 0 then 1 else 0) ∧ s.linkRole m = roleParent ∧
    s.linkUp m = true) ∧
(∃ (s : State) (l : Fin 10) (no : BitVec 32) (result : BitVec 1), s.alive .tre = true ∧ s.linkUp l = true ∧ (s.treLink
    l).claimed = some no.toNat ∧ result = 0) ∧
(∃ (s : State) (l : Fin 10) (no : BitVec 32) (result : BitVec 1), s.alive .tre = true ∧ s.linkUp l = true ∧ (s.treLink
    l).claimed = some no.toNat ∧ result = 1) ∧
(∃ (s : State) (l : Fin 10) (no : BitVec 32), s.alive .tre = true ∧ s.linkUp l = true ∧ (s.treLink l).claimed ≠ some no.toNat) ∧
(∃ (s : State) (l : Fin 10) (held : BitVec 32) (g : Nat), s.alive .tre = true ∧ s.linkUp l = true ∧ s.linkRole l =
    roleStandbyChild ∧ s.flag .tre_STBY_OK l = true ∧ s.feature featStandby = true ∧ g = max (s.treLink l).known held.toNat /
    256 + 1 ∧ g < 2 ^ 24) ∧
(∃ (s : State) (l : Fin 10), s.alive .tre = true ∧ s.linkUp l = true ∧ s.linkRole l ≠ roleStandbyChild) ∧
(∃ (s : State) (t : Nat) (l : Fin 10) (t0 : Nat) (n : Nat) (p : Fin 10), s.alive .tre = true ∧ s.linkUp l = true ∧ s.tre.lost
    = some (t0, n) ∧ n < 3 ∧ t0 + 4 * usFu ≤ t ∧ [(0 : Fin 10), 1].find? (fun q => s.linkRole q == roleStandbyParent) = some p
    ∧ s.linkUp p = true) ∧
(∃ (s : State) (t : Nat) (l : Fin 10) (t0 : Nat) (n : Nat), s.alive .tre = true ∧ s.linkUp l = true ∧ s.tre.lost = some (t0,
    n) ∧ (s.at t).clock < t0 + 4 * usFu) ∧
(∃ (s : State) (t : Nat) (l : Fin 10) (t0 : Nat), s.alive .tre = true ∧ s.linkUp l = true ∧ s.tre.lost = some (t0, 3) ∧ t0 + 4
    * usFu ≤ t) ∧
(∃ (s : State) (l : Fin 10), s.alive .tre = true ∧ s.linkUp l = true ∧ s.linkRole l = roleChild) ∧
(∃ (s : State) (l : Fin 10), s.alive .tre = true ∧ s.linkUp l = true ∧ s.linkRole l ≠ roleChild) ∧
(∃ (s : State) (l : Fin 10) (child : BitVec 32), s.alive .tre = true ∧ s.linkUp l = true ∧ child.toNat = s.myId ∧ isUplink l =
    true ∧ s.linkRole l = roleOffered) ∧
(∃ (s : State) (l : Fin 10) (child : BitVec 32), s.alive .tre = true ∧ s.linkUp l = true ∧ child.toNat = s.myId ∧ isUplink l =
    true ∧ s.linkRole l = roleStandbyParent) ∧
(∃ (s : State) (l : Fin 10) (m : BitVec 10), s.alive .tre = true ∧ s.linkUp l = true ∧ bit m.toNat l = true ∧ s.linkRole l =
    roleStandbyChild ∧ s.flag .tre_STBY_OK l = true ∧ (s.treLink l).known / 256 + 1 < 2 ^ 24) ∧
(∃ (s : State) (l : Fin 10) (m : BitVec 10), s.alive .tre = true ∧ s.linkUp l = true ∧ bit m.toNat l = true ∧ s.linkRole l ≠
    roleStandbyChild) ∧
(∃ (s : State) (l : Fin 10), s.alive .tre = true ∧ s.linkUp l = true) :=
  ⟨⟨put ({ pwr := .ready, held := 0, tre := { held := 300 } }) .lnk_L0_STATE 0 7, 0, 256, by decide +kernel⟩,
    ⟨put (put ({ pwr := .ready, held := 0, tre := { held := 300 } }) .lnk_L0_STATE 0 7) .tre_LINK_ROLE 0 3, 0, 512,
        by decide +kernel⟩,
    ⟨put (put (put (put ({ pwr := .ready, held := 0, tre := { held := 300, log := [⟨⟨0, 0, 1, 0, 0⟩, 2, 40, true⟩] } })
        .lnk_L0_STATE 0 7) .lnk_L0_STATE 1 7) .tre_LINK_ROLE 0 2) .tre_LINK_ROLE 1 1, 0, 512, 1, by decide +kernel⟩,
    ⟨put (put ({ pwr := .ready, held := 0, tre := { links := (Vector.replicate 10 {}).set 2 { claimed := some 300 } } })
        .lnk_L0_STATE 2 7) .tre_LINK_ROLE 2 6, 2, 300, 0, by decide +kernel⟩,
    ⟨put (put ({ pwr := .ready, held := 0, tre := { links := (Vector.replicate 10 {}).set 2 { claimed := some 300 } } })
        .lnk_L0_STATE 2 7) .tre_LINK_ROLE 2 6, 2, 300, 1, by decide +kernel⟩,
    ⟨put ({ pwr := .ready, held := 0, tre := { } }) .lnk_L0_STATE 2 7, 2, 300, by decide +kernel⟩,
    ⟨put (put (put (put ({ pwr := .ready, held := 0, tre := { } }) .lnk_L0_STATE 2 7) .tre_LINK_ROLE 2 5) .tre_STBY_OK 2 1)
        .tre_TREE_FEAT 0 3840, 2, 300, 2, by decide +kernel⟩,
    ⟨put ({ pwr := .ready, held := 0, tre := { } }) .lnk_L0_STATE 2 7, 2, by decide +kernel⟩,
    ⟨put (put ({ pwr := .ready, held := 0, tre := { lost := some (0, 1) } }) .lnk_L0_STATE 0 7) .tre_LINK_ROLE 0 2, 4 * usFu,
        0, 0, 1, 0, by decide +kernel⟩,
    ⟨put ({ pwr := .ready, held := 0, tre := { lost := some (0, 1) } }) .lnk_L0_STATE 0 7, 1, 0, 0, 1, by decide +kernel⟩,
    ⟨put ({ pwr := .ready, held := 0, tre := { lost := some (0, 3) } }) .lnk_L0_STATE 0 7, 4 * usFu, 0, 0, by decide +kernel⟩,
    ⟨put (put ({ pwr := .ready, held := 0, tre := { links := (Vector.replicate 10 {}).set 2 { input := true } } })
        .lnk_L0_STATE 2 7) .tre_LINK_ROLE 2 4, 2, by decide +kernel⟩,
    ⟨put up0 .lnk_L0_STATE 2 7, 2, by decide +kernel⟩,
    ⟨put (put (put ({ pwr := .ready, held := 0, tre := { } }) .lnk_L0_STATE 0 7) .tre_MODULE_ID 0 9) .tre_LINK_ROLE 0 3, 0, 9,
        by decide +kernel⟩,
    ⟨put (put (put ({ pwr := .ready, held := 0, tre := { } }) .lnk_L0_STATE 0 7) .tre_MODULE_ID 0 9) .tre_LINK_ROLE 0 2, 0, 9,
        by decide +kernel⟩,
    ⟨put (put (put ({ pwr := .ready, held := 0, tre := { } }) .lnk_L0_STATE 2 7) .tre_LINK_ROLE 2 5) .tre_STBY_OK 2 1, 2, 4,
        by decide +kernel⟩,
    ⟨put ({ pwr := .ready, held := 0, tre := { } }) .lnk_L0_STATE 2 7, 2, 4, by decide +kernel⟩,
    ⟨put ({ pwr := .ready, held := 0, tre := { } }) .lnk_L0_STATE 0 7, 0, by decide +kernel⟩⟩

theorem witness_MergeCommandsComplete :
(∃ (s : State) (l : Fin 10) (claim : BitVec 32) (held : List HeldName), s.alive .tre = true ∧ s.linkUp l = true ∧ held.length
    ≤ 16 ∧ (isUplink l = true ∨ claim.toNat < s.rd .tre_LINK_CLAIM l)) ∧
(∃ (s : State) (l : Fin 10) (claim : BitVec 32) (held : List HeldName), s.alive .tre = true ∧ s.linkUp l = true ∧ held.length
    ≤ 16 ∧ isUplink l = false ∧ s.rd .tre_LINK_CLAIM l ≤ claim.toNat ∧ (s.treLink l).hz = none) ∧
(∃ (s : State) (l : Fin 10) (k : Nat), s.alive .tre = true ∧ s.linkUp l = true ∧ s.ownHzn = some k ∧ s.inputs = [] ∧ s.tre.hzn
    = none ∧ s.flag .tre_TRE_EN = true) ∧
(∃ (s : State) (l : Fin 10) (own : Nat), s.alive .tre = true ∧ s.linkUp l = true ∧ s.ownHzn = some own ∧ (s.treLink l).input =
    true ∧ s.rd .tre_MERGE_WAIT ≤ own ∧ s.owedFrom l (own - s.rd .tre_MERGE_WAIT) ≤ own - s.rd .tre_MERGE_WAIT) ∧
(∃ (s : State) (t : Nat) (l : Fin 10), s.alive .tre = true ∧ s.linkUp l = true ∧ (s.at t).heldReady l = false) ∧
(∃ (s : State) (t : Nat) (l : Fin 10) (x : State × List PktId), (s.at t).readUp s.que.heldUp 2 = some x ∧ s.alive .tre = true
    ∧ s.linkUp l = true ∧ (s.at t).heldReady l = true) ∧
(∃ (s : State) (t : Nat) (l : Fin 10) (x : TreLink), x = ((s.at t).confirmed l).treLink l ∧ s.alive .tre = true ∧ s.linkUp l =
    true ∧ s.linkRole l = roleChild ∧ x.confDue (s.at t).clock = true) ∧
(∃ (s : State) (t : Nat) (l : Fin 10) (x : TreLink), x = ((s.at t).confirmed l).treLink l ∧ s.alive .tre = true ∧ s.linkUp l =
    true ∧ (s.linkRole l ≠ roleChild ∨ x.confDue (s.at t).clock = false)) ∧
(∃ (s : State) (l : Fin 10), s.alive .tre = true ∧ s.linkUp l = true ∧ s.linkRole l = roleParent) ∧
(∃ (s : State) (l : Fin 10), s.alive .tre = true ∧ s.linkUp l = true ∧ s.linkRole l ≠ roleParent) :=
  ⟨⟨put (put ({ pwr := .ready, held := 0, tre := { } }) .lnk_L0_STATE 2 7) .tre_LINK_CLAIM 2 4, 2, 3, [], by decide +kernel⟩,
    ⟨put ({ pwr := .ready, held := 0, tre := { } }) .lnk_L0_STATE 2 7, 2, 3, [⟨5, 1, 3⟩], by decide +kernel⟩,
    ⟨put (put ({ pwr := .ready, held := 0, seq := { k := 5 }, evb := { r := .replicate 16 { k := 5 } } }) .lnk_L0_STATE 2 7)
        .tre_TRE_EN 0 1, 2, 4, by decide +kernel⟩,
    ⟨put (put
        ({ pwr := .ready, held := 0, seq := { k := 5 }, evb := { r := .replicate 16 { k := 5 } }, tre := { links := (Vector.replicate 10 {}).set 2 { input := true } } })
        .lnk_L0_STATE 2 7) .tre_MERGE_WAIT 0 3, 2, 4, by decide +kernel⟩,
    ⟨put ({ pwr := .ready, held := 0, lnk := { links := (Vector.replicate 10 {}).set 2 {  } } }) .lnk_L0_STATE 2 7, 1, 2,
        by decide +kernel⟩,
    ⟨put (put (put (put
        ({ pwr := .ready, held := 0, cab := { reels := [{ n := 0, shelf := 0, base := 0, exts := 114687, ring := true, policy := 0, alloc := 1, live := [{ seq := 0, prod := 1, take := 9, prev := none, epoch := 0, len := 64 }] }], pkts := [{ pid := ⟨0, 0, 1, 0, 0⟩, prod := 1, reel := 0, ext := 0, off := 0, len := 8 }] }, que := { heldUp := [⟨0, 0, 1, 0, 0⟩] } })
        .lnk_L0_STATE 0 7) .tre_LINK_ROLE 0 1) .lnk_PARTNER_FEAT 0 65535) .tre_TREE_FEAT 0 65535, msFu, 0, _, (Option.some_get
        (by decide +kernel)).symm, by decide +kernel⟩,
    ⟨put (put
        ({ pwr := .ready, held := 0, tre := { links := (Vector.replicate 10 {}).set 2 { confd := .replicate 5 5000 } } })
        .lnk_L0_STATE 2 7) .tre_LINK_ROLE 2 4, 1, 2, _, rfl, by decide +kernel⟩,
    ⟨put up0 .lnk_L0_STATE 2 7, 1, 2, _, rfl, by decide +kernel⟩,
    ⟨put (put
        ({ pwr := .ready, held := 0, tre := { log := [⟨⟨0, 0, 1, 0, 0⟩, 2, 40, true⟩, ⟨⟨0, 0, 1, 0, 1⟩, 2, 80, true⟩] } })
        .lnk_L0_STATE 0 7) .tre_LINK_ROLE 0 1, 0, by decide +kernel⟩,
    ⟨put ({ pwr := .ready, held := 0, tre := { } }) .lnk_L0_STATE 2 7, 2, by decide +kernel⟩⟩

theorem witness_SessionCommandsComplete :
(∃ (s : State) (h : ThbHead) (level : BitVec 8) (nonce : BitVec 64) (n : Fin 8), s.thbSealed h 1 0 (openBody level.toNat
    nonce.toNat) = true ∧ s.thbHears h = true ∧ h.salt = 0xFFFFFFFF ∧ h.sess = 0xFF ∧ h.seq.toNat ∉ s.ctl.opens[reg8
    h.slot.toNat] ∧ s.ctl.count < 65535 ∧ s.slotUsable h.slot.toNat = true ∧ (List.finRange 8).find? (fun n => (s.session
    n).isNone) = some n) ∧
(∃ (s : State) (h : ThbHead) (level : BitVec 8) (nonce : BitVec 64), s.thbHears h = true ∧ (s.thbSealed h 1 0 (openBody
    level.toNat nonce.toNat) = false ∨ h.salt ≠ 0xFFFFFFFF ∨ h.sess ≠ 0xFF)) ∧
(∃ (s : State) (h : ThbHead) (level : BitVec 8) (nonce : BitVec 64), s.thbSealed h 1 0 (openBody level.toNat nonce.toNat) =
    true ∧ s.thbHears h = true ∧ h.salt = 0xFFFFFFFF ∧ h.sess = 0xFF ∧ h.seq.toNat ∈ s.ctl.opens[reg8 h.slot.toNat]) ∧
(∃ (s : State) (h : ThbHead) (target : BitVec 32) (x : Sess), s.thbSession h 3 target.toNat (requestBody [.nop 1] []) = some x
    ∧ s.thbHears h = true ∧ x.reps.find? (fun e => e.1 == h.seq.toNat) = none ∧ x.old h.seq.toNat = false ∧ target = 0 ∧
    s.pmr.recovery = false ∧ s.pmr.warm = none ∧ s.ctl.closing = 0) ∧
(∃ (s : State) (h : ThbHead) (target : BitVec 32) (rest : List (BitVec 8)) (ops : List ThbOp) (x : Sess) (e : Nat × List
    OpRep), s.thbSession h 3 target.toNat (requestBody ops rest) = some x ∧ s.thbHears h = true ∧ x.reps.find? (fun e => e.1
    == h.seq.toNat) = some e) ∧
(∃ (s : State) (h : ThbHead) (target : BitVec 32) (rest : List (BitVec 8)) (ops : List ThbOp) (x : Sess), s.thbSession h 3
    target.toNat (requestBody ops rest) = some x ∧ s.thbHears h = true ∧ x.reps.find? (fun e => e.1 == h.seq.toNat) = none ∧
    x.old h.seq.toNat = true) ∧
(∃ (s : State) (h : ThbHead) (target : BitVec 32) (rest : List (BitVec 8)) (ops : List ThbOp) (x : Sess), s.thbSession h 3
    target.toNat (requestBody ops rest) = some x ∧ s.thbHears h = true ∧ x.reps.find? (fun e => e.1 == h.seq.toNat) = none ∧
    x.old h.seq.toNat = false ∧ (requestOps ops rest).filter thbFits = none) ∧
(∃ (s : State) (h : ThbHead) (target : BitVec 32) (rest : List (BitVec 8)) (ops : List ThbOp), s.thbHears h = true ∧
    s.thbSession h 3 target.toNat (requestBody ops rest) = none) ∧
(∃ (s : State) (h : ThbHead) (x : Sess), s.thbSession h 5 0 [] = some x ∧ s.thbHears h = true) ∧
(∃ (s : State) (h : ThbHead), s.thbHears h = true ∧ s.thbSession h 5 0 [] = none) ∧
(∃ (s : State) (t : Nat) (h : ThbHead) (n : Fin 8) (x : Sess), s.thbHears h = true ∧ s.session n = some x ∧ x.at_ + s.rd
    .ctl_SESS_IDLE * secFu ≤ t) :=
  ⟨⟨put up0 .ctl_KEY_VALID 0 2,
        { ip := 9, port := 7, ver := 1, mtype := 1, slot := 1, sess := 0xFF, salt := 0xFFFFFFFF, seq := 11, bodyLen := 16, tag := (thbSeal 0 1 1 255 4294967295 11 0 (openBody 2 5)).2, local_ := false },
        2, 5, 0, (sealed_of 0 1 255 4294967295 11 0 (openBody 2 5) (by decide +kernel) (by decide +kernel) (by dsimp only)),
        by decide +kernel⟩,
    ⟨up0,
        { ip := 9, port := 7, ver := 0, mtype := 1, slot := 1, sess := 255, salt := 0xFFFFFFFF, seq := 11, bodyLen := 16, tag := 0, local_ := false },
        2, 5, by decide +kernel⟩,
    ⟨{ pwr := .ready, held := 0, ctl := { opens := .replicate 8 [11] } },
        { ip := 9, port := 7, ver := 1, mtype := 1, slot := 1, sess := 0xFF, salt := 0xFFFFFFFF, seq := 11, bodyLen := 16, tag := (thbSeal 0 1 1 255 4294967295 11 0 (openBody 2 5)).2, local_ := false },
        2, 5, (sealed_of 0 1 255 4294967295 11 0 (openBody 2 5) (by decide +kernel) (by decide +kernel) (by dsimp only)),
        by decide +kernel⟩,
    ⟨put
        ({ pwr := .ready, held := 0, ctl := { sess := (Vector.replicate 8 none).set 2 (some { slot := 1, asked := 2, salt := 5, high := 10, at_ := 0, seen := [10], reps := [(10, [⟨0, 4, 1, []⟩])] }) } })
        .ctl_KEY_VALID 0 2,
        { ip := 9, port := 7, ver := 1, mtype := 3, slot := 1, sess := 2, salt := 5, seq := 11, bodyLen := 8, tag := (thbSeal 0 3 1 2 5 11 0 (requestBody [.nop 1] [])).2, local_ := false },
        0, { slot := 1, asked := 2, salt := 5, high := 10, at_ := 0, seen := [10], reps := [(10, [⟨0, 4, 1, []⟩])] },
        (session_of 0 1 2 5 11 0 (requestBody [.nop 1] []) (x :=
        { slot := 1, asked := 2, salt := 5, high := 10, at_ := 0, seen := [10], reps := [(10, [⟨0, 4, 1, []⟩])] }) (by rfl)
        (by decide +kernel) (by decide +kernel) (by decide +kernel) (by dsimp only)), by decide +kernel⟩,
    ⟨put
        ({ pwr := .ready, held := 0, ctl := { sess := (Vector.replicate 8 none).set 2 (some { slot := 1, asked := 2, salt := 5, high := 10, at_ := 0, seen := [10], reps := [(10, [⟨0, 4, 1, []⟩])] }) } })
        .ctl_KEY_VALID 0 2,
        { ip := 9, port := 7, ver := 1, mtype := 3, slot := 1, sess := 2, salt := 5, seq := 10, bodyLen := 8, tag := (thbSeal 0 3 1 2 5 10 0 (requestBody [.nop 1] [])).2, local_ := false },
        0, [], [.nop 1],
        { slot := 1, asked := 2, salt := 5, high := 10, at_ := 0, seen := [10], reps := [(10, [⟨0, 4, 1, []⟩])] }, (10, [⟨0,
        4, 1, []⟩]), (session_of 0 1 2 5 10 0 (requestBody [.nop 1] []) (x :=
        { slot := 1, asked := 2, salt := 5, high := 10, at_ := 0, seen := [10], reps := [(10, [⟨0, 4, 1, []⟩])] }) (by rfl)
        (by decide +kernel) (by decide +kernel) (by decide +kernel) (by dsimp only)), by decide +kernel⟩,
    ⟨put
        ({ pwr := .ready, held := 0, ctl := { sess := (Vector.replicate 8 none).set 2 (some { slot := 1, asked := 2, salt := 5, high := 10, at_ := 0, seen := [10], reps := [] }) } })
        .ctl_KEY_VALID 0 2,
        { ip := 9, port := 7, ver := 1, mtype := 3, slot := 1, sess := 2, salt := 5, seq := 10, bodyLen := 8, tag := (thbSeal 0 3 1 2 5 10 0 (requestBody [.nop 1] [])).2, local_ := false },
        0, [], [.nop 1], { slot := 1, asked := 2, salt := 5, high := 10, at_ := 0, seen := [10], reps := [] }, (session_of 0 1
        2 5 10 0 (requestBody [.nop 1] []) (x :=
        { slot := 1, asked := 2, salt := 5, high := 10, at_ := 0, seen := [10], reps := [] }) (by rfl) (by decide +kernel)
        (by decide +kernel) (by decide +kernel) (by dsimp only)), by decide +kernel⟩,
    ⟨put
        ({ pwr := .ready, held := 0, ctl := { sess := (Vector.replicate 8 none).set 2 (some { slot := 1, asked := 2, salt := 5, high := 10, at_ := 0, seen := [10], reps := [] }) } })
        .ctl_KEY_VALID 0 2,
        { ip := 9, port := 7, ver := 1, mtype := 3, slot := 1, sess := 2, salt := 5, seq := 11, bodyLen := 1, tag := (thbSeal 0 3 1 2 5 11 0 (requestBody [] [9])).2, local_ := false },
        0, [9], [], { slot := 1, asked := 2, salt := 5, high := 10, at_ := 0, seen := [10], reps := [] }, (session_of 0 1 2 5
        11 0 (requestBody [] [9]) (x := { slot := 1, asked := 2, salt := 5, high := 10, at_ := 0, seen := [10], reps := [] })
        (by rfl) (by decide +kernel) (by decide +kernel) (by decide +kernel) (by dsimp only)), by decide +kernel⟩,
    ⟨up0,
        { ip := 9, port := 7, ver := 1, mtype := 3, slot := 1, sess := 2, salt := 5, seq := 11, bodyLen := 8, tag := 0, local_ := false },
        0, [], [], by decide +kernel⟩,
    ⟨put
        ({ pwr := .ready, held := 0, ctl := { sess := (Vector.replicate 8 none).set 2 (some { slot := 1, asked := 2, salt := 5, high := 10, at_ := 0, seen := [10], reps := [] }) } })
        .ctl_KEY_VALID 0 2,
        { ip := 9, port := 7, ver := 1, mtype := 5, slot := 1, sess := 2, salt := 5, seq := 11, bodyLen := 0, tag := (thbSeal 0 5 1 2 5 11 0 []).2, local_ := false },
        { slot := 1, asked := 2, salt := 5, high := 10, at_ := 0, seen := [10], reps := [] }, (session_of 0 1 2 5 11 0 [] (x
        := { slot := 1, asked := 2, salt := 5, high := 10, at_ := 0, seen := [10], reps := [] }) (by rfl) (by decide +kernel)
        (by decide +kernel) (by decide +kernel) (by dsimp only)), by decide +kernel⟩,
    ⟨up0,
        { ip := 9, port := 7, ver := 1, mtype := 5, slot := 1, sess := 2, salt := 5, seq := 11, bodyLen := 0, tag := 0, local_ := false },
        by decide +kernel⟩,
    ⟨put
        ({ pwr := .ready, held := 0, ctl := { sess := (Vector.replicate 8 none).set 2 (some { slot := 1, asked := 2, salt := 5, high := 10, at_ := 0, seen := [10], reps := [(10, [⟨0, 4, 1, []⟩])] }) } })
        .ctl_KEY_VALID 0 2, 1000000 * secFu,
        { ip := 9, port := 7, ver := 1, mtype := 5, slot := 1, sess := 2, salt := 0xFFFFFFFF, seq := 11, bodyLen := 0, tag := 0, local_ := false },
        2, { slot := 1, asked := 2, salt := 5, high := 10, at_ := 0, seen := [10], reps := [(10, [⟨0, 4, 1, []⟩])] },
        by decide +kernel⟩⟩

theorem witness_KeyCommandsComplete :
(∃ (s : State) (a : Accessor) (slot : Fin 7) (x : Nat) (y : Nat) (z : Nat), Reaches s a (17 * Blk.ctl.idx) ∧ (Accessor.eff
    a).lvl = 2 ∧ bit (s.rd .hdr_WR_MASK (17 * Blk.ctl.idx)) 2 = true ∧ s.ownKey = true ∧ s.ctl.stage[a.who] = [(17 *
    Blk.ctl.idx, 0x40 + 0x20 * slot.val, x), (17 * Blk.ctl.idx, 0x44 + 0x20 * slot.val, y), (17 * Blk.ctl.idx, 0x48 + 0x20 *
    slot.val, z)]) ∧
(∃ (s : State) (a : Accessor) (slot : Fin 7) (v : BitVec 2), Reaches s a (17 * Blk.ctl.idx) ∧ (Accessor.eff a).lvl = 2 ∧ bit
    (s.rd .hdr_WR_MASK (17 * Blk.ctl.idx)) 2 = true ∧ v ≠ 3 ∧ (s.wr .ctl_KEY_LEVEL slot v.toNat).ownKey = true) ∧
(∃ (s : State) (a : Accessor) (slot : Fin 7) (v : BitVec 2), Reaches s a (17 * Blk.ctl.idx) ∧ (Accessor.eff a).lvl = 2 ∧ bit
    (s.rd .hdr_WR_MASK (17 * Blk.ctl.idx)) 2 = true ∧ v ≠ 3 ∧ v.toNat ≠ s.rd .ctl_KEY_LEVEL slot ∧ (s.wr .ctl_KEY_LEVEL slot
    v.toNat).ownKey = false ∧ s.slot7 (Accessor.eff a) = false) ∧
(∃ (s : State) (a : Accessor) (slot : Fin 7) (n : Fin 7), Reaches s a (17 * Blk.ctl.idx) ∧ (Accessor.eff a).lvl = 2 ∧ bit
    (s.rd .hdr_WR_MASK (17 * Blk.ctl.idx)) 2 = true ∧ n ≠ slot ∧ s.rdBit .ctl_KEY_VALID 0 n = true ∧ s.rd .ctl_KEY_LEVEL n =
    2) ∧
(∃ (s : State) (a : Accessor), Reaches s a (17 * Blk.ctl.idx) ∧ (Accessor.eff a).lvl = 2 ∧ bit (s.rd .hdr_WR_MASK (17 *
    Blk.ctl.idx)) 2 = true ∧ s.slot7 (Accessor.eff a) = true) ∧
(∃ (s : State) (a : Accessor) (level : Bool), Reaches s a (17 * Blk.ctl.idx) ∧ (Accessor.eff a).lvl = 2 ∧ bit (s.rd
    .hdr_WR_MASK (17 * Blk.ctl.idx)) 2 = true ∧ s.alive .pmr = true ∧ s.flag .ctl_PROV ≠ level) :=
  ⟨⟨put (put
        ({ pwr := .ready, held := 0, ctl := { stage := (Vector.replicate 10 []).set 0 [(17 * Blk.ctl.idx, 0xA0, 1), (17 * Blk.ctl.idx, 0xA4, 2), (17 * Blk.ctl.idx, 0xA8, 3)] } })
        .ctl_KEY_VALID 0 2) .ctl_KEY_LEVEL 1 2, ⟨0, 2⟩, 3, 1, 2, 3, ⟨by decide +kernel, by decide +kernel, rfl, rfl⟩,
        by decide +kernel⟩,
    ⟨put (put up0 .ctl_KEY_VALID 0 2) .ctl_KEY_LEVEL 1 2, ⟨0, 2⟩, 3, 1, ⟨by decide +kernel, by decide +kernel, rfl, rfl⟩,
        by decide +kernel⟩,
    ⟨put (put up0 .ctl_KEY_VALID 0 2) .ctl_KEY_LEVEL 1 2, ⟨0, 2⟩, 1, 1, ⟨by decide +kernel, by decide +kernel, rfl, rfl⟩,
        by decide +kernel⟩,
    ⟨put (put up0 .ctl_KEY_VALID 0 2) .ctl_KEY_LEVEL 1 2, ⟨0, 2⟩, 3, 1, ⟨by decide +kernel, by decide +kernel, rfl, rfl⟩,
        by decide +kernel⟩,
    ⟨put (put
        ({ pwr := .ready, held := 0, ctl := { sess := (Vector.replicate 8 none).set 0 (some { slot := 7, asked := 2, salt := 5, high := 10, at_ := 0 }) } })
        .ctl_KEY_VALID 0 2) .ctl_KEY_LEVEL 1 2, ⟨0, 2⟩, ⟨by decide +kernel, by decide +kernel, rfl, rfl⟩, by decide +kernel⟩,
    ⟨put (put (put up0 .ctl_KEY_VALID 0 2) .ctl_KEY_LEVEL 1 2) .ctl_PROV 0 0, ⟨0, 2⟩, true, ⟨by decide +kernel,
        by decide +kernel, rfl, rfl⟩, by decide +kernel⟩⟩

theorem witness_FirmwareCommandsComplete :
(∃ (s : State) (own : Bool), s.alive .ctl = true ∧ s.alive .pmr = true ∧ s.fwMay own = true ∧ s.rd .ctl_FW_SIZE ≠ 0 ∧ s.rd
    .ctl_FW_SIZE ≤ 33554432) ∧
(∃ (s : State) (own : Bool), s.alive .ctl = true ∧ s.alive .pmr = true ∧ s.fwMay own = true ∧ (s.rd .ctl_FW_SIZE = 0 ∨
    33554432 < s.rd .ctl_FW_SIZE)) ∧
(∃ (s : State) (own : Bool), s.alive .ctl = true ∧ s.alive .pmr = true ∧ s.fwMay own = false) ∧
(∃ (s : State), s.alive .ctl = true ∧ s.alive .pmr = true ∧ s.rd .ctl_FW_STATE = 1) ∧
(∃ (s : State) (own : Bool), s.alive .ctl = true ∧ s.alive .pmr = true ∧ s.fwMay own = true ∧ (s.rd .ctl_FW_STATE = 2 ∨ s.rd
    .ctl_FW_STATE = 5)) ∧
(∃ (s : State) (own : Bool), s.alive .ctl = true ∧ s.alive .pmr = true ∧ s.fwMay own = true ∧ s.rd .ctl_FW_STATE ≠ 2 ∧ s.rd
    .ctl_FW_STATE ≠ 5) ∧
(∃ (s : State) (e : Bool), s.alive .ctl = true ∧ s.alive .pmr = true ∧ s.rd .ctl_FW_STATE = 3 ∧ e = false ∧ s.fwSlot.missing ≠
    0) ∧
(∃ (s : State) (e : Bool), s.alive .ctl = true ∧ s.alive .pmr = true ∧ s.rd .ctl_FW_STATE = 3 ∧ e = true) ∧
(∃ (s : State) (e : Bool) (x : FwSlot), s.alive .ctl = true ∧ s.alive .pmr = true ∧ s.rd .ctl_FW_STATE = 3 ∧ e = false ∧ x =
    s.fwSlot ∧ x.missing = 0 ∧ sizeOk x.imgSize = true ∧ x.imgSize = x.size ∧ (bits x.head 0 32 == 0x5E721A0B && bits x.head
    56 8 == 1 && s.rd .pmr_SEC_VER_MIN ≤ bits x.head 48 8) = true) ∧
(∃ (s : State) (own : Bool), s.alive .ctl = true ∧ s.alive .pmr = true ∧ s.fwMay own = true ∧ 1 ≤ s.rd .ctl_FW_STATE ∧ s.rd
    .ctl_FW_STATE ≤ 8) ∧
(∃ (s : State) (own : Bool), s.alive .ctl = true ∧ s.alive .pmr = true ∧ own = true ∧ s.rd .ctl_FW_STATE = 4) ∧
(∃ (s : State) (own : Bool), s.alive .ctl = true ∧ s.alive .pmr = true ∧ (own = false ∨ s.rd .ctl_FW_STATE ≠ 4)) ∧
(∃ (s : State) (own : Bool), s.alive .ctl = true ∧ s.alive .pmr = true ∧ own = true ∧ s.flag .pmr_TRIAL = true) ∧
(∃ (s : State) (own : Bool), s.alive .ctl = true ∧ s.alive .pmr = true ∧ (own = false ∨ s.flag .pmr_TRIAL = false)) ∧
(∃ (s : State) (t : Nat) (t0 : Nat), s.alive .ctl = true ∧ s.alive .pmr = true ∧ s.pmr.readyAt = some t0 ∧ s.flag .pmr_TRIAL =
    true ∧ s.rd .pmr_CONFIRM_TMO ≠ 0 ∧ t0 + s.rd .pmr_CONFIRM_TMO * secFu ≤ t) ∧
(∃ (s : State), s.alive .ctl = true ∧ s.alive .pmr = true ∧ s.flag .pmr_TRIAL = false) :=
  ⟨⟨put up0 .ctl_FW_SIZE 0 1000, true, by decide +kernel⟩,
    ⟨up0, true, by decide +kernel⟩,
    ⟨up0, false, by decide +kernel⟩,
    ⟨put up0 .ctl_FW_STATE 0 1, by decide +kernel⟩,
    ⟨put up0 .ctl_FW_STATE 0 2, true, by decide +kernel⟩,
    ⟨up0, true, by decide +kernel⟩,
    ⟨put (State.setFwSlot up0 { size := 1000 }) .ctl_FW_STATE 0 3, false, by decide +kernel⟩,
    ⟨put up0 .ctl_FW_STATE 0 3, true, by decide +kernel⟩,
    ⟨put (put (State.setFwSlot up0
        { size := 257, blocks := [(0, 0x5E721A0B + 255 * 2 ^ 48 + 2 ^ 56 + 257 * 2 ^ 64), (1, 0)] }) .ctl_FW_STATE 0 3)
        .pmr_SEC_VER_MIN 0 0, false,
        { size := 257, blocks := [(0, 0x5E721A0B + 255 * 2 ^ 48 + 2 ^ 56 + 257 * 2 ^ 64), (1, 0)] }, by decide +kernel⟩,
    ⟨put up0 .ctl_FW_STATE 0 2, true, by decide +kernel⟩,
    ⟨put up0 .ctl_FW_STATE 0 4, true, by decide +kernel⟩,
    ⟨up0, true, by decide +kernel⟩,
    ⟨put (put up0 .pmr_TRIAL 0 1) .pmr_BOOT_SLOT 0 1, true, by decide +kernel⟩,
    ⟨put up0 .pmr_TRIAL 0 0, true, by decide +kernel⟩,
    ⟨put (put ({ pwr := .ready, held := 0, pmr := { readyAt := some 0 } }) .pmr_TRIAL 0 1) .pmr_CONFIRM_TMO 0 60, 1000000 *
        secFu, 0, by decide +kernel⟩,
    ⟨put up0 .pmr_TRIAL 0 0, by decide +kernel⟩⟩

theorem witness_ResetCommandsComplete :
(∃ (s : State), s.alive .pmr = true ∧ s.pwr ≠ .acquire) ∧
(∃ (s : State), s.alive .pmr = true ∧ s.flag .ctl_PROV = true ∧ s.pwr ≠ .acquire) ∧
(∃ (s : State) (own : Bool), s.alive .pmr = true ∧ (own = false ∨ s.pwr = .acquire)) ∧
(∃ (s : State) (m : BitVec 20) (own : Bool), s.alive .pmr = true ∧ own = true ∧ s.pwr = .ready ∧ m ≠ 0 ∧ (bitsSet m.toNat
    20).all (fun b => blkRank b != 0) = true ∧ (∀ r : Fin 16, s.mode r = 0)) ∧
(∃ (s : State) (m : BitVec 20) (own : Bool), s.alive .pmr = true ∧ m ≠ 0 ∧ (own = false ∨ s.pwr ≠ .ready)) ∧
(∃ (s : State) (t : Nat) (b : Fin 20) (e : Nat × Nat), s.alive .pmr = true ∧ s.pmr.blk.find? (fun e => e.1 == b.val) = some e
    ∧ e.2 + 10 * usFu ≤ t ∧ s.pmr.blk.any (fun f => blkRank f.1 < blkRank b) = false) :=
  ⟨⟨up0, by decide +kernel⟩,
    ⟨put up0 .ctl_PROV 0 1, by decide +kernel⟩,
    ⟨up0, false, by decide +kernel⟩,
    ⟨up0, 64, true, by decide +kernel⟩,
    ⟨up0, 1, false, by decide +kernel⟩,
    ⟨{ pwr := .ready, held := 2 ^ Blk.trg.idx, pmr := { blk := [(Blk.trg.idx, 0)] } }, 10 * usFu, 6, (Blk.trg.idx, 0),
        by decide +kernel⟩⟩

theorem witness_RelayCommandsComplete :
(∃ (s : State) (l : Fin 10) (q : RelayReq) (c : Fin 10), s.alive .tre = true ∧ s.linkUp l = true ∧ q.op.wf = true ∧
    s.parentLink = some l ∧ s.flt.coreDown = false ∧ q.target ≠ 0xFFFFFFFF ∧ q.target ≠ s.myId ∧ s.routeTo q.target = some c ∧
    s.waits0 c (.relayReq q) = false) ∧
(∃ (s : State) (l : Fin 10) (q : RelayReq), s.alive .tre = true ∧ s.linkUp l = true ∧ q.op.wf = true ∧ s.parentLink = some l ∧
    s.flt.coreDown = false ∧ q.target ≠ 0xFFFFFFFF ∧ q.target ≠ s.myId ∧ s.routeTo q.target = none ∧ s.waits0 l (.relayRep
    ⟨s.myId, q.src, q.seq, 3, []⟩) = false) ∧
(∃ (s : State) (l : Fin 10) (q : RelayReq) (e : RelayReq × RelayRep), s.alive .tre = true ∧ s.linkUp l = true ∧ q.op.wf = true
    ∧ s.parentLink = some l ∧ s.flt.coreDown = false ∧ q.target ≠ 0xFFFFFFFF ∧ q.target = s.myId ∧ s.tre.done.find? (fun e =>
    e.1.src == q.src && e.1.seq == q.seq) = some e ∧ s.waits0 l (.relayRep e.2) = false) ∧
(∃ (s : State) (l : Fin 10) (p : RelayRep) (c : Fin 10), s.alive .tre = true ∧ s.linkUp l = true ∧ s.flt.coreDown = false ∧
    s.pmr.warm = none ∧ p.src ≠ s.myId ∧ s.parentLink = some c ∧ s.linkUp c = true ∧ s.waits0 c (.relayRep p) = false) ∧
(∃ (s : State) (l : Fin 10) (p : RelayRep) (c : Fin 10), s.alive .tre = true ∧ s.linkUp l = true ∧ s.flt.coreDown = false ∧
    s.pmr.warm = none ∧ p.src ≠ s.myId ∧ s.parentLink = some c ∧ s.linkUp c = true ∧ s.waits0 c (.relayRep p) = true) ∧
(∃ (s : State) (t : Nat) (l : Fin 10) (q : BitVec 16) (x : RelayWait), s.alive .tre = true ∧ s.linkUp l = true ∧
    s.flt.coreDown = false ∧ s.pmr.warm = none ∧ s.tre.relays.find? (fun x => x.seq == q.toNat) = some x ∧ x.at_ + 10 * msFu ≤
    t) :=
  ⟨⟨put (put (put (put (put ({ pwr := .ready, held := 0, tre := { sub := [{ id := 5, link := 2, parent := 9 }] } })
        .lnk_L0_STATE 0 7) .tre_MODULE_ID 0 9) .tre_LINK_ROLE 0 1) .tre_LINK_ROLE 2 4) .lnk_L0_STATE 2 7, 0, ⟨1, 5, 5, 2,
        .read false 0 1⟩, 2, by decide +kernel⟩,
    ⟨put (put (put up0 .lnk_L0_STATE 0 7) .tre_MODULE_ID 0 9) .tre_LINK_ROLE 0 1, 0, ⟨1, 5, 5, 2, .read false 0 1⟩,
        by decide +kernel⟩,
    ⟨put (put (put ({ pwr := .ready, held := 0, tre := { done := [(⟨1, 5, 9, 2, .read false 0 1⟩, ⟨9, 1, 5, 0, [3]⟩)] } })
        .lnk_L0_STATE 0 7) .tre_MODULE_ID 0 9) .tre_LINK_ROLE 0 1, 0, ⟨1, 5, 9, 2, .read false 0 1⟩, (⟨1, 5, 9, 2, .read false
        0 1⟩, ⟨9, 1, 5, 0, [3]⟩), by decide +kernel⟩,
    ⟨put (put (put (put up0 .lnk_L0_STATE 0 7) .tre_MODULE_ID 0 9) .tre_LINK_ROLE 0 1) .lnk_L0_STATE 2 7, 2, ⟨5, 1, 5, 0,
        [3]⟩, 0, by decide +kernel⟩,
    ⟨put (put (put (put ({ pwr := .ready, held := 0, tre := { wait0 := [(0, .thabor [])] } }) .lnk_L0_STATE 0 7)
        .tre_MODULE_ID 0 9) .tre_LINK_ROLE 0 1) .lnk_L0_STATE 2 7, 2, ⟨5, 1, 5, 0, [3]⟩, 0, by decide +kernel⟩,
    ⟨put (put ({ pwr := .ready, held := 0, tre := { relays := [{ seq := 5, at_ := 0, target := 3, left := [3] }] } })
        .tre_MODULE_ID 0 9) .lnk_L0_STATE 2 7, 10 * msFu, 2, 5, { seq := 5, at_ := 0, target := 3, left := [3] },
        by decide +kernel⟩⟩

theorem witness_PortCommandsComplete :
(∃ (s : State), s.alive .eth = true ∧ s.flag .eth_LINK_UP = false) ∧
(∃ (s : State), s.alive .eth = true ∧ s.flag .eth_LINK_UP = true) ∧
(∃ (s : State), s.alive .eth = true) ∧
(∃ (s : State) (f : EthFrame), s.alive .eth = true ∧ f.fcs = false) ∧
(∃ (s : State) (f : EthFrame), s.alive .eth = true ∧ f.fcs = true ∧ (f.len < 64 ∨ 1522 < f.len)) ∧
(∃ (s : State) (f : EthFrame), s.alive .eth = true ∧ f.fcs = true ∧ 64 ≤ f.len ∧ f.len ≤ 1522 ∧ s.tagsOk f.tags = false) ∧
(∃ (s : State) (len : Nat) (tags : List (BitVec 16)) (src : BitVec 32) (dst : BitVec 32) (sport : BitVec 16) (dport : BitVec
    16) (own : Bool), s.alive .eth = true ∧ 64 ≤ len ∧ len ≤ 1522 ∧ s.tagsOk tags = true ∧ s.myIp ≠ 0 ∧ dst.toNat = s.myIp ∧
    dport.toNat = s.rd .ctl_THB_PORT ∧ dport ≠ 68 ∧ dport ≠ 319 ∧ dport ≠ 320 ∧ own = s.fromSession src.toNat sport.toNat ∧
    s.eth.thb.countP (fun e => e.2.2 == own) < (if own then 16 else 48)) ∧
(∃ (s : State) (len : Nat) (tags : List (BitVec 16)) (src : BitVec 32) (dst : BitVec 32) (sport : BitVec 16) (dport : BitVec
    16) (own : Bool), s.alive .eth = true ∧ 64 ≤ len ∧ len ≤ 1522 ∧ s.tagsOk tags = true ∧ s.myIp ≠ 0 ∧ dst.toNat = s.myIp ∧
    dport.toNat = s.rd .ctl_THB_PORT ∧ dport ≠ 68 ∧ dport ≠ 319 ∧ dport ≠ 320 ∧ own = s.fromSession src.toNat sport.toNat ∧
    (if own then 16 else 48) ≤ s.eth.thb.countP (fun e => e.2.2 == own)) ∧
(∃ (s : State) (t : Nat), s.alive .eth = true ∧ s.canSend = true ∧ s.eth.icmpN ≠ 0 ∧ t < s.eth.icmpAt + secFu ∧ s.clock <
    s.eth.icmpAt + secFu ∧ s.eth.icmpN < s.rd .eth_ICMP_RATE) ∧
(∃ (s : State) (t : Nat), s.alive .eth = true ∧ s.canSend = true ∧ s.eth.icmpN ≠ 0 ∧ t < s.eth.icmpAt + secFu ∧ s.clock <
    s.eth.icmpAt + secFu ∧ s.rd .eth_ICMP_RATE ≤ s.eth.icmpN) ∧
(∃ (s : State) (en : BitVec 8) (quanta : Vector (BitVec 16) 8) (p : Fin 8), s.alive .eth = true ∧ s.flag .eth_PFC_EN = true ∧
    p.val = s.rd .eth_PFC_PRIO ∧ bit en.toNat p = true ∧ quanta[p] ≠ 0) ∧
(∃ (s : State) (en : BitVec 8) (quanta : Vector (BitVec 16) 8) (p : Fin 8), s.alive .eth = true ∧ s.flag .eth_PFC_EN = true ∧
    p.val = s.rd .eth_PFC_PRIO ∧ bit en.toNat p = true ∧ quanta[p] = 0) ∧
(∃ (s : State), s.alive .eth = true ∧ s.flag .eth_PFC_EN = false) ∧
(∃ (s : State) (t : Nat) (e : Nat), s.alive .eth = true ∧ s.eth.pause = some e ∧ e ≤ t) :=
  ⟨⟨up0, by decide +kernel⟩,
    ⟨put (put (put up0 .eth_LINK_UP 0 1) .eth_ADDR_VALID 0 1) .eth_IP_IN_USE 0 9, by decide +kernel⟩,
    ⟨put (put (put up0 .eth_LINK_UP 0 1) .eth_ADDR_VALID 0 1) .eth_IP_IN_USE 0 9, by decide +kernel⟩,
    ⟨up0, ⟨100, false, .mac, [], .other⟩, by decide +kernel⟩,
    ⟨up0, ⟨1523, true, .mac, [], .other⟩, by decide +kernel⟩,
    ⟨up0, ⟨64, true, .mac, [3], .other⟩, by decide +kernel⟩,
    ⟨put (put (put (put up0 .eth_LINK_UP 0 1) .eth_ADDR_VALID 0 1) .eth_IP_IN_USE 0 9) .ctl_THB_PORT 0 47161, 64, [], 5, 9, 7,
        47161, false, by decide +kernel⟩,
    ⟨put (put (put (put ({ pwr := .ready, held := 0, eth := { thb := List.replicate 48 (1, 1, false) } }) .eth_LINK_UP 0 1)
        .eth_ADDR_VALID 0 1) .eth_IP_IN_USE 0 9) .ctl_THB_PORT 0 47161, 64, [], 5, 9, 7, 47161, false, by decide +kernel⟩,
    ⟨put (put (put (put ({ pwr := .ready, held := 0, eth := { icmpN := 2 } }) .eth_LINK_UP 0 1) .eth_ADDR_VALID 0 1)
        .eth_IP_IN_USE 0 9) .eth_ICMP_RATE 0 3, 1, by decide +kernel⟩,
    ⟨put (put (put (put ({ pwr := .ready, held := 0, eth := { icmpN := 3 } }) .eth_LINK_UP 0 1) .eth_ADDR_VALID 0 1)
        .eth_IP_IN_USE 0 9) .eth_ICMP_RATE 0 3, 1, by decide +kernel⟩,
    ⟨put (put up0 .eth_PFC_EN 0 1) .eth_PFC_PRIO 0 3, 255, .replicate 8 7, 3, by decide +kernel⟩,
    ⟨put (put up0 .eth_PFC_EN 0 1) .eth_PFC_PRIO 0 3, 255, .replicate 8 0, 3, by decide +kernel⟩,
    ⟨put up0 .eth_PFC_EN 0 0, by decide +kernel⟩,
    ⟨{ pwr := .ready, held := 0, eth := { pause := some 1 } }, 1, 1, by decide +kernel⟩⟩

theorem witness_AddressCommandsComplete :
(∃ (s : State) (tip : BitVec 32), s.alive .eth = true ∧ s.canSend = true ∧ tip.toNat = s.myIp) ∧
(∃ (s : State) (tip : BitVec 32), s.alive .eth = true ∧ tip.toNat ≠ s.myIp) ∧
(∃ (s : State) (sip : BitVec 32), s.alive .eth = true ∧ s.eth.waits.any (fun e => e.ip == sip.toNat) = true) ∧
(∃ (s : State) (sip : BitVec 32), s.alive .eth = true ∧ s.eth.waits.any (fun e => e.ip == sip.toNat) = false) ∧
(∃ (s : State) (t : Nat) (ip : BitVec 32) (x : ArpWait), s.alive .eth = true ∧ s.eth.waits.find? (fun e => e.ip == ip.toNat) =
    some x ∧ x.at_ + secFu ≤ t ∧ s.canSend = true ∧ x.tries < 3) ∧
(∃ (s : State) (t : Nat) (ip : BitVec 32) (x : ArpWait), s.alive .eth = true ∧ s.eth.waits.find? (fun e => e.ip == ip.toNat) =
    some x ∧ x.at_ + secFu ≤ t ∧ s.canSend = true ∧ 3 ≤ x.tries) ∧
(∃ (s : State) (t : Nat) (ip : BitVec 32) (x : Nat × Nat × Nat), s.alive .eth = true ∧ s.eth.arp.find? (fun e => e.1 ==
    ip.toNat) = some x ∧ x.2.2 + 60 * secFu ≤ t ∧ s.canSend = true ∧ s.eth.waits.any (fun e => e.ip == ip.toNat) = false) ∧
(∃ (s : State) (m : DhcpMsg), s.alive .eth = true ∧ s.flag .eth_DHCP_EN = true ∧ m.xid.toNat = s.eth.xid ∧ s.eth.dhcp = 1 ∧
    m.ty = 2) ∧
(∃ (s : State) (m : DhcpMsg), s.alive .eth = true ∧ s.flag .eth_DHCP_EN = true ∧ m.xid.toNat = s.eth.xid ∧ (s.eth.dhcp = 2 ∨
    s.eth.dhcp = 4 ∨ s.eth.dhcp = 5) ∧ m.ty = 5) ∧
(∃ (s : State) (m : DhcpMsg), s.alive .eth = true ∧ s.flag .eth_DHCP_EN = true ∧ m.xid.toNat = s.eth.xid ∧ (s.eth.dhcp = 2 ∨
    s.eth.dhcp = 4 ∨ s.eth.dhcp = 5) ∧ m.ty = 6) ∧
(∃ (s : State) (m : DhcpMsg), s.alive .eth = true ∧ m.xid.toNat ≠ s.eth.xid) ∧
(∃ (s : State) (t : Nat), s.alive .eth = true ∧ s.eth.dhcp = 3 ∧ 4 * s.eth.lease * secFu + 8 * s.eth.leaseAt ≤ 8 * t) ∧
(∃ (s : State) (t : Nat), s.alive .eth = true ∧ s.eth.dhcp = 4 ∧ 7 * s.eth.lease * secFu + 8 * s.eth.leaseAt ≤ 8 * t) ∧
(∃ (s : State) (t : Nat), s.alive .eth = true ∧ 3 ≤ s.eth.dhcp ∧ s.eth.lease * secFu + s.eth.leaseAt ≤ t) :=
  ⟨⟨put (put (put up0 .eth_LINK_UP 0 1) .eth_ADDR_VALID 0 1) .eth_IP_IN_USE 0 9, 9, by decide +kernel⟩,
    ⟨put (put (put up0 .eth_LINK_UP 0 1) .eth_ADDR_VALID 0 1) .eth_IP_IN_USE 0 9, 8, by decide +kernel⟩,
    ⟨put (put (put ({ pwr := .ready, held := 0, eth := { waits := [⟨5, 1, 0⟩] } }) .eth_LINK_UP 0 1) .eth_ADDR_VALID 0 1)
        .eth_IP_IN_USE 0 9, 5, by decide +kernel⟩,
    ⟨put (put (put up0 .eth_LINK_UP 0 1) .eth_ADDR_VALID 0 1) .eth_IP_IN_USE 0 9, 5, by decide +kernel⟩,
    ⟨put (put (put ({ pwr := .ready, held := 0, eth := { waits := [⟨9, 1, 0⟩] } }) .eth_LINK_UP 0 1) .eth_ADDR_VALID 0 1)
        .eth_IP_IN_USE 0 5, secFu, 9, ⟨9, 1, 0⟩, by decide +kernel⟩,
    ⟨put (put (put ({ pwr := .ready, held := 0, eth := { waits := [⟨9, 3, 0⟩] } }) .eth_LINK_UP 0 1) .eth_ADDR_VALID 0 1)
        .eth_IP_IN_USE 0 5, secFu, 9, ⟨9, 3, 0⟩, by decide +kernel⟩,
    ⟨put (put (put ({ pwr := .ready, held := 0, eth := { arp := [(5, 6, 0)] } }) .eth_LINK_UP 0 1) .eth_ADDR_VALID 0 1)
        .eth_IP_IN_USE 0 9, 60 * secFu, 5, (5, 6, 0), by decide +kernel⟩,
    ⟨put ({ pwr := .ready, held := 0, eth := { dhcp := 1, xid := 4 } }) .eth_DHCP_EN 0 1, ⟨2, 4, 1, 9, 0xFFFFFF00, 2, 3600⟩,
        by decide +kernel⟩,
    ⟨put ({ pwr := .ready, held := 0, eth := { dhcp := 2, xid := 4 } }) .eth_DHCP_EN 0 1, ⟨5, 4, 1, 9, 0xFFFFFF00, 2, 3600⟩,
        by decide +kernel⟩,
    ⟨put (put (put (put ({ pwr := .ready, held := 0, eth := { dhcp := 4, xid := 4 } }) .eth_LINK_UP 0 1) .eth_ADDR_VALID 0 1)
        .eth_IP_IN_USE 0 9) .eth_DHCP_EN 0 1, ⟨6, 4, 1, 9, 0xFFFFFF00, 2, 3600⟩, by decide +kernel⟩,
    ⟨put (put (put up0 .eth_LINK_UP 0 1) .eth_ADDR_VALID 0 1) .eth_IP_IN_USE 0 9, ⟨5, 3, 1, 9, 0xFFFFFF00, 2, 3600⟩,
        by decide +kernel⟩,
    ⟨put (put (put ({ pwr := .ready, held := 0, eth := { dhcp := 3, lease := 100 } }) .eth_LINK_UP 0 1) .eth_ADDR_VALID 0 1)
        .eth_IP_IN_USE 0 9, 50 * secFu, by decide +kernel⟩,
    ⟨put (put (put ({ pwr := .ready, held := 0, eth := { dhcp := 4, lease := 100 } }) .eth_LINK_UP 0 1) .eth_ADDR_VALID 0 1)
        .eth_IP_IN_USE 0 9, 88 * secFu, by decide +kernel⟩,
    ⟨put (put (put ({ pwr := .ready, held := 0, eth := { dhcp := 5, lease := 100 } }) .eth_LINK_UP 0 1) .eth_ADDR_VALID 0 1)
        .eth_IP_IN_USE 0 9, 100 * secFu, by decide +kernel⟩⟩

theorem witness_QueuePairCommandsComplete :
(∃ (s : State) (t : Nat) (q : Fin 8) (t0 : Nat), s.alive .eth = true ∧ s.rd .eth_QP_STATE q = qpResolving ∧ (s.qp q).failAt =
    some t0 ∧ t0 + secFu ≤ t ∧ s.canSend = true ∧ s.nextHop (s.rd .eth_DEST_IP q) ≠ 0 ∧ s.eth.arp.any (fun e => e.1 ==
    s.nextHop (s.rd .eth_DEST_IP q)) = true) ∧
(∃ (s : State) (t : Nat) (q : Fin 8) (t0 : Nat), s.alive .eth = true ∧ s.rd .eth_QP_STATE q = qpResolving ∧ (s.qp q).failAt =
    some t0 ∧ t0 + secFu ≤ t ∧ s.canSend = false) ∧
(∃ (s : State) (q : Fin 8) (t0 : Nat), s.alive .eth = true ∧ s.rd .eth_QP_STATE q ≠ qpResolving ∧ (s.qp q).failAt = some t0) ∧
(∃ (s : State) (q : Fin 8), s.alive .eth = true ∧ (s.qp q).failAt = none) ∧
(∃ (s : State) (t : Nat) (q : Fin 8) (p : RPkt), s.alive .eth = true ∧ (s.at t).qpSends q = true ∧ ((s.at t).turnWait
    q).turnOf [] = some q ∧ (s.qp q).pkts.drop (s.qp q).sent = [p] ∧ p.imm.isSome = true ∧ (s.qp q).again ≤ (s.qp q).sent ∧
    (s.qp q).sent < 1024 ∧ s.flag .eth_RING_OVF q = false) ∧
(∃ (s : State) (t : Nat) (q : Fin 8), s.alive .eth = true ∧ ((s.at t).qpSends q = false ∨ (s.at t).qpHas q = false) ∧ s.flag
    .eth_RING_OVF q = false) ∧
(∃ (s : State) (q : Fin 8) (psn : BitVec 24) (p : RPkt) (l : List RPkt), s.alive .eth = true ∧ (s.qp q).pkts = p :: l ∧
    psnDist p.psn psn.toNat < (s.qp q).sent ∧ s.rd .eth_QP_STATE q ≠ qpError) ∧
(∃ (s : State) (q : Fin 8) (psn : BitVec 24) (p : RPkt) (l : List RPkt), s.alive .eth = true ∧ (s.qp q).pkts = p :: l ∧ (s.qp
    q).sent ≤ psnDist p.psn psn.toNat) ∧
(∃ (s : State) (q : Fin 8) (psn : BitVec 24) (p : RPkt) (l : List RPkt), s.alive .eth = true ∧ (s.qp q).pkts = p :: l ∧
    psn.toNat = p.psn ∧ s.rd .eth_QP_STATE q = qpRun ∧ (s.qp q).retry + 1 < s.rd .eth_RETRY_CNT) ∧
(∃ (s : State) (q : Fin 8) (psn : BitVec 24) (p : RPkt) (l : List RPkt), s.alive .eth = true ∧ (s.qp q).pkts = p :: l ∧
    psn.toNat = p.psn ∧ s.rd .eth_QP_STATE q = qpRun) ∧
(∃ (s : State) (q : Fin 8) (psn : BitVec 24) (p : RPkt) (l : List RPkt), s.alive .eth = true ∧ (s.qp q).pkts = p :: l ∧
    psn.toNat = p.psn ∧ s.rd .eth_QP_STATE q = qpRun ∧ (s.qp q).draining = false) ∧
(∃ (s : State) (t : Nat) (q : Fin 8), s.alive .eth = true ∧ s.flag .eth_LINK_UP = true ∧ (s.qp q).sent ≠ 0 ∧ (s.qp q).rnr =
    none ∧ (s.qp q).ackAt + s.rd .eth_ACK_TMO * usFu ≤ t) ∧
(∃ (s : State) (q : Fin 8), s.alive .eth = true ∧ ((s.qp q).sent = 0 ∨ s.flag .eth_LINK_UP = false)) ∧
(∃ (s : State) (t : Nat) (q : Fin 8) (e : Nat), s.alive .eth = true ∧ (s.qp q).rnr = some e ∧ e ≤ t) ∧
(∃ (s : State) (q : Fin 8), s.alive .eth = true ∧ s.flag .eth_ECN_EN q = true ∧ (s.qp q).cutAt = none) ∧
(∃ (s : State) (q : Fin 8), s.alive .eth = true ∧ s.flag .eth_ECN_EN q = false) ∧
(∃ (s : State) (t : Nat) (q : Fin 8), s.alive .eth = true ∧ s.flag .eth_ECN_EN q = true ∧ s.rd .eth_QP_STATE q ≠ qpDisabled ∧
    (s.qp q).recAt + s.rd .eth_RECOV_US * usFu ≤ t) ∧
(∃ (s : State) (q : Fin 8) (v : BitVec 32), s.alive .eth = true ∧ s.ringUnits q < (s.rd .eth_QP_PI q + 2 ^ 32 - v.toNat) % 2 ^
    32) ∧
(∃ (s : State) (q : Fin 8) (v : BitVec 32), s.alive .eth = true ∧ (s.rd .eth_QP_PI q + 2 ^ 32 - v.toNat) % 2 ^ 32 ≤
    s.ringUnits q) ∧
(∃ (s : State) (q : Fin 8) (m : BitVec 8), s.alive .eth = true ∧ bit m.toNat q = true) :=
  ⟨⟨put (put (put (put (put
        ({ pwr := .ready, held := 0, eth := { arp := [(6, 5, 0)], qp := .replicate 8 { failAt := some 0 } } }) .eth_QP_STATE 1
        1) .eth_LINK_UP 0 1) .eth_ADDR_VALID 0 1) .eth_IP_IN_USE 0 5) .eth_DEST_IP 1 6, secFu, 1, 0, by decide +kernel⟩,
    ⟨put ({ pwr := .ready, held := 0, eth := { qp := .replicate 8 { failAt := some 0 } } }) .eth_QP_STATE 1 1, secFu, 1, 0,
        by decide +kernel⟩,
    ⟨{ pwr := .ready, held := 0, eth := { qp := .replicate 8 { failAt := some 0 } } }, 1, 0, by decide +kernel⟩,
    ⟨up0, 1, by decide +kernel⟩,
    ⟨put (put (put (put
        ({ pwr := .ready, held := 0, eth := { qp := (Vector.replicate 8 {}).set 1 { pkts := [{ psn := 5, op := 0x2A, va := 0, data := [1], imm := some 1, ack := true }] } } })
        .eth_LINK_UP 0 1) .eth_ADDR_VALID 0 1) .eth_IP_IN_USE 0 5) .eth_QP_STATE 1 2, 1, 1,
        { psn := 5, op := 0x2A, va := 0, data := [1], imm := some 1, ack := true }, by decide +kernel⟩,
    ⟨up0, 1, 1, by decide +kernel⟩,
    ⟨put (put (put (put
        ({ pwr := .ready, held := 0, eth := { qp := (Vector.replicate 8 {}).set 1 { pkts := [{ psn := 5, op := 0x2A, va := 0, data := [1], imm := none, ack := true }], sent := 1 } } })
        .eth_LINK_UP 0 1) .eth_ADDR_VALID 0 1) .eth_IP_IN_USE 0 9) .eth_QP_STATE 1 2, 1, 5,
        { psn := 5, op := 0x2A, va := 0, data := [1], imm := none, ack := true }, [], by decide +kernel⟩,
    ⟨put (put (put (put
        ({ pwr := .ready, held := 0, eth := { qp := (Vector.replicate 8 {}).set 1 { pkts := [{ psn := 5, op := 0x2A, va := 0, data := [1], imm := none, ack := true }], sent := 1 } } })
        .eth_LINK_UP 0 1) .eth_ADDR_VALID 0 1) .eth_IP_IN_USE 0 9) .eth_QP_STATE 1 2, 1, 6,
        { psn := 5, op := 0x2A, va := 0, data := [1], imm := none, ack := true }, [], by decide +kernel⟩,
    ⟨put (put (put (put (put
        ({ pwr := .ready, held := 0, eth := { qp := (Vector.replicate 8 {}).set 1 { pkts := [{ psn := 5, op := 0x2A, va := 0, data := [1], imm := none, ack := true }], sent := 1 } } })
        .eth_LINK_UP 0 1) .eth_ADDR_VALID 0 1) .eth_IP_IN_USE 0 9) .eth_QP_STATE 1 2) .eth_RETRY_CNT 0 3, 1, 5,
        { psn := 5, op := 0x2A, va := 0, data := [1], imm := none, ack := true }, [], by decide +kernel⟩,
    ⟨put (put (put (put
        ({ pwr := .ready, held := 0, eth := { qp := (Vector.replicate 8 {}).set 1 { pkts := [{ psn := 5, op := 0x2A, va := 0, data := [1], imm := none, ack := true }], sent := 1 } } })
        .eth_LINK_UP 0 1) .eth_ADDR_VALID 0 1) .eth_IP_IN_USE 0 9) .eth_QP_STATE 1 2, 1, 5,
        { psn := 5, op := 0x2A, va := 0, data := [1], imm := none, ack := true }, [], by decide +kernel⟩,
    ⟨put (put (put (put
        ({ pwr := .ready, held := 0, eth := { qp := (Vector.replicate 8 {}).set 1 { pkts := [{ psn := 5, op := 0x2A, va := 0, data := [1], imm := none, ack := true }], sent := 1 } } })
        .eth_LINK_UP 0 1) .eth_ADDR_VALID 0 1) .eth_IP_IN_USE 0 9) .eth_QP_STATE 1 2, 1, 5,
        { psn := 5, op := 0x2A, va := 0, data := [1], imm := none, ack := true }, [], by decide +kernel⟩,
    ⟨put
        ({ pwr := .ready, held := 0, eth := { qp := .replicate 8 { sent := 1, pkts := [{ psn := 5, op := 0x2A, va := 0, data := [1], imm := none, ack := true }] } } })
        .eth_LINK_UP 0 1, 1000 * secFu, 1, by decide +kernel⟩,
    ⟨up0, 1, by decide +kernel⟩,
    ⟨put (put (put ({ pwr := .ready, held := 0, eth := { qp := (Vector.replicate 8 {}).set 1 { rnr := some 1 } } })
        .eth_LINK_UP 0 1) .eth_ADDR_VALID 0 1) .eth_IP_IN_USE 0 9, 1, 1, 1, by decide +kernel⟩,
    ⟨put (put up0 .eth_ECN_EN 1 1) .eth_RATE 1 1000, 1, by decide +kernel⟩,
    ⟨put up0 .eth_ECN_EN 1 0, 1, by decide +kernel⟩,
    ⟨put (put (put up0 .eth_ECN_EN 1 1) .eth_RATE 1 1000) .eth_QP_STATE 1 2, secFu, 1, by decide +kernel⟩,
    ⟨put (put (put up0 .eth_LINK_UP 0 1) .eth_ADDR_VALID 0 1) .eth_IP_IN_USE 0 9, 1, 1, by decide +kernel⟩,
    ⟨put up0 .eth_QP_STATE 1 3, 1, 0, by decide +kernel⟩,
    ⟨put (put (put (put (put
        ({ pwr := .ready, held := 0, eth := { qp := (Vector.replicate 8 {}).set 1 { pkts := [{ psn := 5, op := 0x2A, va := 0, data := [1], imm := none, ack := true }], sent := 1 } } })
        .eth_LINK_UP 0 1) .eth_ADDR_VALID 0 1) .eth_IP_IN_USE 0 9) .eth_QP_STATE 1 2) .eth_QP_EN 1 1, 1, 2, by decide +kernel⟩⟩

theorem witness_HousekeepingCommandsComplete :
(∃ (s : State), s.alive .hka = true ∧ s.flag .hka_CAL_BUSY = true) ∧
(∃ (s : State) (t : Nat) (v : Vector HkaSample 32) (i : Fin 32), s.alive .hka = true ∧ (s.at t).scanDue = true ∧ v[i].clamp =
    true) ∧
(∃ (s : State) (t : Nat) (v : Vector HkaSample 32) (i : Fin 32), s.alive .hka = true ∧ (s.at t).scanDue = true ∧ ((s.at
    t).tickCome = false ∨ s.hka.closed = true) ∧ 5 ≤ i.val % 8 ∧ v[i].clamp = false) ∧
(∃ (s : State) (t : Nat) (v : Vector HkaSample 32) (i : Fin 32), s.alive .hka = true ∧ (s.at t).scanDue = true ∧ (s.at
    t).tickCome = true ∧ s.hka.closed = false ∧ s.flt.coreDown = false ∧ 5 ≤ i.val % 8 ∧ v[i].clamp = false) ∧
(∃ (s : State) (t : Nat) (v : Vector HkaSample 32) (i : Fin 32), s.alive .hka = true ∧ (s.at t).scanDue = true ∧ ((s.at
    t).tickCome = false ∨ s.hka.closed = true) ∧ 1 ≤ i.val % 8 ∧ i.val % 8 ≤ 4 ∧ (s.hkaIn i).range < 2 ∧ s.sampleOvr i
    (s.hkaIn i).range v[i] = true) ∧
(∃ (s : State) (t : Nat), s.alive .hka = true ∧ (s.at t).halfOver 0 = true) ∧
(∃ (s : State) (t : Nat), s.alive .hka = true ∧ (s.at t).halfOver 0 = false) ∧
(∃ (s : State) (t : Nat), s.alive .hka = true ∧ (s.at t).halfOver 1 = true) ∧
(∃ (s : State) (t : Nat), s.alive .hka = true ∧ (s.at t).halfOver 1 = false) ∧
(∃ (s : State) (t : Nat) (c : Fin 4), s.alive .hka = true ∧ (s.at t).halfOver 1 = true ∧ (s.rtdCh c).on = true ∧ (s.rtdCh
    c).stop = true) ∧
(∃ (s : State) (t : Nat) (dev : BitVec 4) (c : Fin 4), s.alive .hka = true ∧ s.hka.revAt.all (fun a => decide (a + 25 * usFu ≤
    t)) = true ∧ (s.rtdCh c).on = true ∧ bit dev.toNat c = false) ∧
(∃ (s : State) (t : Nat) (dev : BitVec 4) (c : Fin 4), s.alive .hka = true ∧ s.hka.revAt.all (fun a => decide (a + 25 * usFu ≤
    t)) = true ∧ (s.rtdCh c).on = true ∧ bit dev.toNat c = true ∧ (s.rtdCh c).run = 19 ∧ s.flag .hka_OPEN (rtdIn c) = false) ∧
(∃ (s : State), s.alive .hka = true ∧ s.flag .hka_CAL_BUSY = false ∧ s.flag .hka_INJ_BUSY = false) ∧
(∃ (s : State), s.alive .hka = true ∧ s.flag .hka_CAL_BUSY = false ∧ s.flag .hka_INJ_BUSY = true) ∧
(∃ (s : State) (t : Nat), s.alive .hka = true ∧ s.rd .hka_CAL_PERIOD ≠ 0 ∧ s.hka.perAt + s.rd .hka_CAL_PERIOD * 60 * secFu ≤ t
    ∧ s.flag .hka_CAL_BUSY = false ∧ s.flag .hka_INJ_BUSY = false) ∧
(∃ (s : State) (t : Nat), s.alive .hka = true ∧ (s.rd .hka_CAL_PERIOD = 0 ∨ (s.at t).clock < s.hka.perAt + s.rd
    .hka_CAL_PERIOD * 60 * secFu)) ∧
(∃ (s : State) (f : Vector CalFactors 4), s.alive .hka = true ∧ s.flag .hka_CAL_BUSY = true ∧ (List.finRange 4).all (fun c =>
    factorsGood f[c]) = true) ∧
(∃ (s : State) (f : Vector CalFactors 4), s.alive .hka = true ∧ s.flag .hka_CAL_BUSY = true ∧ (List.finRange 4).all (fun c =>
    factorsGood f[c]) = false) ∧
(∃ (s : State), s.alive .hka = true ∧ s.flag .hka_INJ_BUSY = true) ∧
(∃ (s : State), s.alive .hka = true ∧ s.flag .hka_INJ_BUSY = false ∧ (s.flag .hka_CAL_BUSY = false ∨ s.flag .hka_INJ_URGENT =
    false ∨ s.hka.startup = true)) ∧
(∃ (s : State), s.alive .hka = true ∧ s.flag .hka_INJ_BUSY = false ∧ s.flag .hka_CAL_BUSY = true ∧ s.flag .hka_INJ_URGENT =
    true ∧ s.hka.startup = false) ∧
(∃ (s : State), s.alive .hka = true ∧ (s.flag .hka_INJ_BUSY = false ∨ s.flag .hka_CAL_BUSY = true)) ∧
(∃ (s : State) (t : Nat), s.alive .hka = true ∧ s.flag .hka_TEC_EN = true ∧ (s.at t).tecOver = true) ∧
(∃ (s : State) (t : Nat), s.alive .hka = true ∧ s.flag .hka_TEC_EN = false ∧ (s.at t).tecOver = true) ∧
(∃ (s : State) (t : Nat), s.alive .hka = true ∧ (s.at t).tecOver = false) :=
  ⟨⟨put up0 .hka_CAL_BUSY 0 1, by decide +kernel⟩,
    ⟨put ({ pwr := .ready, held := 0, seq := { boundaryAt := some 0 } }) .hka_CAL_BUSY 0 0, 1, .replicate 32 ⟨7, 5, true⟩, 5,
        by decide +kernel⟩,
    ⟨put ({ pwr := .ready, held := 0, seq := { boundaryAt := some 0 } }) .hka_CAL_BUSY 0 0, 1, .replicate 32 ⟨7, 5, false⟩, 5,
        by decide +kernel⟩,
    ⟨put ({ pwr := .ready, held := 0, seq := { boundaryAt := some 0 } }) .hka_CAL_BUSY 0 0, msFu, .replicate 32 ⟨7, 5, false⟩,
        5, by decide +kernel⟩,
    ⟨put ({ pwr := .ready, held := 0, seq := { boundaryAt := some 0 }, hka := { ins := .replicate 32 { range := 0 } } })
        .hka_CAL_BUSY 0 0, 1, .replicate 32 ⟨0xFFFF, 0, false⟩, 1, by decide +kernel⟩,
    ⟨up0, 10 * msFu, by decide +kernel⟩,
    ⟨up0, 1, by decide +kernel⟩,
    ⟨{ pwr := .ready, held := 0, hka := { half := 1 } }, 10 * msFu, by decide +kernel⟩,
    ⟨up0, 1, by decide +kernel⟩,
    ⟨{ pwr := .ready, held := 0, hka := { half := 1, rtd := .replicate 4 { on := true, stop := true } } }, 10 * msFu, 2,
        by decide +kernel⟩,
    ⟨{ pwr := .ready, held := 0, hka := { rtd := .replicate 4 { on := true, run := 7 } } }, 1, 0, 2, by decide +kernel⟩,
    ⟨{ pwr := .ready, held := 0, hka := { rtd := .replicate 4 { on := true, run := 19 } } }, 1, 4, 2, by decide +kernel⟩,
    ⟨put up0 .hka_CAL_BUSY 0 0, by decide +kernel⟩,
    ⟨put (put up0 .hka_INJ_BUSY 0 1) .hka_CAL_BUSY 0 0, by decide +kernel⟩,
    ⟨put (put up0 .hka_CAL_PERIOD 0 5) .hka_CAL_BUSY 0 0, 300 * secFu, by decide +kernel⟩,
    ⟨up0, 1, by decide +kernel⟩,
    ⟨put up0 .hka_CAL_BUSY 0 1, .replicate 4
        { ofs := 0, gain := 32768, range0 := 32768, range1 := 32768, range2 := 32768, iexc := 25000 }, by decide +kernel⟩,
    ⟨put up0 .hka_CAL_BUSY 0 1, .replicate 4
        { ofs := 2000, gain := 32768, range0 := 32768, range1 := 32768, range2 := 32768, iexc := 25000 }, by decide +kernel⟩,
    ⟨put up0 .hka_INJ_BUSY 0 1, by decide +kernel⟩,
    ⟨put up0 .hka_CAL_BUSY 0 0, by decide +kernel⟩,
    ⟨put (put ({ pwr := .ready, held := 0, hka := { startup := false } }) .hka_CAL_BUSY 0 1) .hka_INJ_URGENT 0 1,
        by decide +kernel⟩,
    ⟨up0, by decide +kernel⟩,
    ⟨put (put up0 .hka_TEC_EN 0 1) .hka_TEC_PER 0 10, 1, by decide +kernel⟩,
    ⟨put up0 .hka_TEC_EN 0 0, 1, by decide +kernel⟩,
    ⟨{ pwr := .ready, held := 0, hka := { tec := some (0, 10, 5) } }, 1, by decide +kernel⟩⟩

theorem witness_FaultCommandsComplete :
(∃ (s : State), s.alive .flt = true ∧ s.detected = []) ∧
(∃ (s : State) (t : Nat) (d : Det), s.alive .flt = true ∧ s.detected = [d] ∧ d.inj = false ∧ d.lvl = 1 ∧ (s.at t).covering
    d.cls d.unit false = [] ∧ (s.side d.cls false).all (fun e => !e.raised) = true) ∧
(∃ (s : State) (t : Nat) (d : Det), s.alive .flt = true ∧ s.detected = [d] ∧ d.inj = false ∧ (s.at t).covering d.cls d.unit
    false = []) ∧
(∃ (s : State) (t : Nat) (d : Det), s.alive .flt = true ∧ s.detected = [d] ∧ d.inj = false ∧ (s.at t).covering d.cls d.unit
    false ≠ []) ∧
(∃ (s : State), s.alive .flt = true) ∧
(∃ (s : State) (m : BitVec 15) (c : Fin 15), s.alive .flt = true ∧ bit m.toNat c = true) ∧
(∃ (s : State) (m : BitVec 15) (own : Bool) (c : Fin 15), s.alive .flt = true ∧ bit m.toNat c = true ∧ (s.side (c.val + 1)
    false).all (fun e => !e.raised && (own || e.lvl != 4)) = true ∧ s.condOf (c.val + 1) = false) ∧
(∃ (s : State) (m : BitVec 15) (own : Bool) (c : Fin 15), s.alive .flt = true ∧ bit m.toNat c = true ∧ (s.side (c.val + 1)
    false).any (fun e => e.raised || (!own && e.lvl == 4)) = true) ∧
(∃ (s : State) (m : BitVec 15) (own : Bool) (c : Fin 15), s.alive .flt = true ∧ bit m.toNat c = true ∧ (s.side (c.val + 1)
    true).all (fun e => !e.raised && (own || e.lvl != 4)) = true ∧ s.condOf (c.val + 1) = false) ∧
(∃ (s : State) (m : BitVec 15) (own : Bool) (c : Fin 15), s.alive .flt = true ∧ bit m.toNat c = true ∧ (s.side (c.val + 1)
    true).any (fun e => e.raised || (!own && e.lvl == 4)) = true) ∧
(∃ (s : State), s.alive .flt = true ∧ s.flt.injAt = none ∧ (unitKinds (s.rd .flt_INJ_CLASS)).contains (s.rd .flt_INJ_UNIT /
    4096) = true) ∧
(∃ (s : State), s.alive .flt = true ∧ (unitKinds (s.rd .flt_INJ_CLASS)).contains (s.rd .flt_INJ_UNIT / 4096) = false) :=
  ⟨⟨up0, by decide +kernel⟩,
    ⟨{ pwr := .ready, held := 0, detected := [{ cls := 5, lvl := 1, unit := 0x1002, at_ := 0 }] }, 1,
        { cls := 5, lvl := 1, unit := 0x1002, at_ := 0 }, by decide +kernel⟩,
    ⟨{ pwr := .ready, held := 0, detected := [{ cls := 5, lvl := 1, unit := 0x1002, at_ := 0 }], flt := { ents := [⟨5, 2, 0, false, true, false⟩] } },
        1, { cls := 5, lvl := 1, unit := 0x1002, at_ := 0 }, by decide +kernel⟩,
    ⟨{ pwr := .ready, held := 0, detected := [{ cls := 5, lvl := 1, unit := 0x1002, at_ := 0 }], flt := { shadows := [⟨10, [5], .all, false, true⟩] } },
        1, { cls := 5, lvl := 1, unit := 0x1002, at_ := 0 }, by decide +kernel⟩,
    ⟨up0, by decide +kernel⟩,
    ⟨{ pwr := .ready, held := 0, flt := { ents := [⟨5, 2, 0, false, true, false⟩] } }, 16, 4, by decide +kernel⟩,
    ⟨{ pwr := .ready, held := 0, flt := { ents := [⟨5, 2, 0, false, false, false⟩] } }, 16, false, 4, by decide +kernel⟩,
    ⟨{ pwr := .ready, held := 0, flt := { ents := [⟨5, 4, 0, false, false, false⟩] } }, 16, false, 4, by decide +kernel⟩,
    ⟨{ pwr := .ready, held := 0, flt := { ents := [⟨5, 2, 0, true, false, false⟩] } }, 16, false, 4, by decide +kernel⟩,
    ⟨{ pwr := .ready, held := 0, flt := { ents := [⟨5, 4, 0, true, false, false⟩] } }, 16, false, 4, by decide +kernel⟩,
    ⟨put (put (put up0 .flt_INJ_CLASS 0 5) .flt_INJ_UNIT 0 4098) .flt_INJ_LEVEL 0 2, by decide +kernel⟩,
    ⟨put (put up0 .flt_INJ_CLASS 0 5) .flt_INJ_UNIT 0 8194, by decide +kernel⟩⟩

theorem witness_CoreCommandsComplete :
(∃ (s : State) (o : Vector (BitVec 32) 3) (x : BitVec 32) (m : Fin 3), s.alive .ctl = true ∧ s.alive .flt = true ∧
    s.flt.coreDown = false ∧ s.pmr.warm = none ∧ (∀ n : Fin 3, s.member n = 0) ∧ o[m] ≠ x ∧ (∀ n : Fin 3, n ≠ m → o[n] = x) ∧
    s.flt.resync[m] = []) ∧
(∃ (s : State) (t : Nat) (o : Vector (BitVec 32) 3) (x : BitVec 32) (m : Fin 3) (a : Nat) (b : Nat), s.alive .ctl = true ∧
    s.alive .flt = true ∧ s.flt.coreDown = false ∧ s.pmr.warm = none ∧ (∀ n : Fin 3, s.member n = 0) ∧ o[m] ≠ x ∧ (∀ n : Fin
    3, n ≠ m → o[n] = x) ∧ s.flt.resync[m] = [a, b] ∧ t < b + s.rd .flt_RESYNC_WIN * secFu ∧ s.clock < b + s.rd
    .flt_RESYNC_WIN * secFu ∧ b ≤ a) ∧
(∃ (s : State) (o : Vector (BitVec 32) 3), s.alive .ctl = true ∧ s.alive .flt = true ∧ s.flt.coreDown = false ∧ s.pmr.warm =
    none ∧ s.flag .pmr_TRIAL = false ∧ (∀ m n : Fin 3, m ≠ n → s.member m = 0 → s.member n = 0 → o[m] ≠ o[n])) ∧
(∃ (s : State) (o : Vector (BitVec 32) 3) (x : BitVec 32) (m : Fin 3) (n : Fin 3), s.alive .ctl = true ∧ s.alive .flt = true ∧
    s.flt.coreDown = false ∧ s.pmr.warm = none ∧ m ≠ n ∧ s.member m = 0 ∧ s.member n = 0 ∧ (∀ k : Fin 3, s.member k = 0 → o[k]
    = x)) ∧
(∃ (s : State) (m : Fin 3), s.alive .ctl = true ∧ s.alive .flt = true ∧ s.member m = 1 ∧ s.flt.coreDown = false) ∧
(∃ (s : State) (m : Fin 3), s.alive .ctl = true ∧ s.alive .flt = true ∧ s.member m ≠ 1) ∧
(∃ (s : State), s.alive .ctl = true ∧ s.alive .flt = true ∧ s.flt.coreDown = true) ∧
(∃ (s : State), s.alive .ctl = true ∧ s.alive .flt = true ∧ s.flt.coreDown = false) :=
  ⟨⟨put up0 .pmr_TRIAL 0 0, #v[7, 8, 8], 8, 0, by decide +kernel⟩,
    ⟨{ pwr := .ready, held := 0, flt := { resync := .replicate 3 [0, 0] } }, 1, #v[7, 8, 8], 8, 0, 0, 0, by decide +kernel⟩,
    ⟨put up0 .pmr_TRIAL 0 0, #v[7, 8, 9], by decide +kernel⟩,
    ⟨up0, #v[8, 8, 8], 8, 0, 1, by decide +kernel⟩,
    ⟨put up0 .flt_MEM_B 0 1, 1, by decide +kernel⟩,
    ⟨put up0 .flt_MEM_B 0 2, 1, by decide +kernel⟩,
    ⟨put ({ pwr := .ready, held := 0, flt := { coreDown := true } }) .flt_MEM_B 0 2, by decide +kernel⟩,
    ⟨up0, by decide +kernel⟩⟩

theorem witness_RemapGivesTheSpareLine :
(∃ (s : State) (p k : Nat), (p % 16, p / 512, k) ∈ s.edc.remap ∧ (∀ j, (p % 16, p / 512, j) ∈ s.edc.remap → j = k)) ∧
(∃ (s : State) (p : Nat), ∀ k, (p % 16, p / 512, k) ∉ s.edc.remap) :=
  ⟨⟨{ edc := { remap := [(3, 2, 65535)] } }, 2 * 512 + 511 - 12, 65535, by decide +kernel, by simp⟩,
    ⟨{ edc := { remap := [(3, 2, 7)] } }, 3 * 512 + 3, by simp⟩⟩

theorem witness_TicksStandOnTheNearestFu :
(∃ g : Seg, 0 < g.den) ∧
(∃ (old : State) (g : Staged), old.rebases g = true) ∧
(∃ (s : State) (g : Seg) (l : List Seg) (k : Nat), s.seq.segs = g :: l ∧ g.first ≤ k) :=
  ⟨⟨⟨0, 0, 0, 1, 3000⟩, by decide +kernel⟩,
    ⟨put (put (put ({ pwr := .ready, held := 0 }) .tre_ROLE 0 1) .seq_TICK_RUN 0 1) .seq_TICK_NUM 0 77, ⟨[], [], [], none, 0, 0, none⟩,
        by decide +kernel⟩,
    ⟨{ seq := { segs := [⟨5, 5, 7, 1, 3000⟩, ⟨0, 0, 0, 1, 1000⟩] } }, ⟨5, 5, 7, 1, 3000⟩, [⟨0, 0, 0, 1, 1000⟩], 5, rfl,
        by decide +kernel⟩⟩

-- table Architecture-4: the first three ticks at 3,000 ticks/s
theorem test_three_thousand_ticks : [1, 2, 3].map (fun n => placedFu 3000 (placeAt 1 3000 n)) = [53333333, 106666667, 160000000] := by
  decide +kernel

theorem witness_ResiduesAreMappedAndCoded :
(∃ b : Nat, 0 < b) ∧ (∃ e : Int, 0 ≤ e) ∧ (∃ e : Int, e < 0) ∧ (∃ m : Nat, m = 0) ∧ (∃ m : Nat, m ≠ 0) ∧
(∃ (b w : Nat) (t : CodeTab) (left : Bool) (vals : List Nat) (i : Nat) (x : CItem), b = 12 ∧
    (frameItems b w t left vals)[i]? = some x) ∧
(∃ (b w : Nat) (t : CodeTab) (left : Bool) (vals : List Nat) (i : Nat) (x : CItem), b = 24 ∧
    (frameItems b w t left vals)[i]? = some x) :=
  ⟨⟨1, by decide⟩, ⟨0, by decide⟩, ⟨-1, by decide⟩, ⟨0, rfl⟩, ⟨1, by decide⟩,
    ⟨12, 1, tableF, true, [4095], 0, (frameItems 12 1 tableF true [4095]).headD ⟨0, 0, [], 0, 0, 0, none, 0⟩, rfl, by decide +kernel⟩,
    ⟨24, 2, tableF, false, [5, 9, 7, 3], 3, (frameItems 24 2 tableF false [5, 9, 7, 3]).getD 3 ⟨0, 0, [], 0, 0, 0, none, 0⟩, rfl, by decide +kernel⟩⟩

theorem witness_CodesAreCanonical : ∃ (t : CodeTab) (k : Nat), t.length = 40 ∧ (∀ l ∈ t, 1 ≤ l ∧ l ≤ 15) ∧ k < 40 :=
  ⟨tableF, 39, by decide +kernel, by decide +kernel, by decide⟩

theorem witness_SafeTakesPrecedenceOverACommit :
    ∃ (s : State) (t : Nat) (g : Staged), s.alive .seq = true ∧ s.staged = some g ∧ (s.at t).commitDue = true ∧ s.seq.safeAt =
    some (s.at t).clock :=
  ⟨{ pwr := .ready, held := 0, staged := some ⟨[], [], [], none, 0, 0, none⟩, seq := { boundaryAt := some 9, safeAt := some 9 } },
    9, ⟨[], [], [], none, 0, 0, none⟩, by decide +kernel⟩

theorem witness_ModeCommitsNeedReadinessEnableAndTick :
    ∃ (s : State) (t : Nat) (g : Staged) (r : Fin 16), s.alive .seq = true ∧ s.staged = some g ∧ (s.at t).commitDue = true ∧
    s.seq.safeAt ≠ some (s.at t).clock ∧ g.mode r ≠ 0 ∧ ¬((s.pwr = .ready ∨ s.pwr = .acquire) ∧ s.flag .pmr_ACQ_ENABLED = true
    ∧ s.flag .seq_TICK_RUN = true) :=
  ⟨{ pwr := .ready, held := 0, staged := some ⟨[(Fld.key .seq_REGION_MODE 15, 1)], [], [], none, 0, 0, none⟩, seq := { boundaryAt := some 9 } },
    9, ⟨[(Fld.key .seq_REGION_MODE 15, 1)], [], [], none, 0, 0, none⟩, 15, by decide +kernel⟩

theorem witness_BadAddressesExecuteNothing :
(∃ (s : State) (o : ThbOp) (addr : BitVec 32) (fixed : Bool) (n : Nat), o = .read fixed n addr ∧
    addrBad fixed addr.toNat (ThbOp.count o) = true ∧ (s.pmr.recovery = true → recoveryOp o = true)) ∧
(∃ (s : State) (o : ThbOp) (addr : BitVec 32) (fixed : Bool) (ws : List (BitVec 32)), o = .write fixed addr ws ∧
    addrBad fixed addr.toNat (ThbOp.count o) = true ∧ (s.pmr.recovery = true → recoveryOp o = true)) ∧
(∃ (s : State) (o : ThbOp) (addr : BitVec 32) (fixed : Bool) (n : Nat), o = .read fixed n addr ∧
    addrBad fixed addr.toNat (ThbOp.count o) = true ∧ s.pmr.recovery = true ∧ recoveryOp o = true) :=
  ⟨⟨{ pwr := .ready, held := 0 }, .read false 2 0x000FFFFC, 0x000FFFFC, false, 2, rfl, by decide +kernel, by decide +kernel⟩,
    ⟨{ pwr := .ready, held := 0 }, .write true 0x01400000 [1], 0x01400000, true, [1], rfl, by decide +kernel, by decide +kernel⟩,
    ⟨{ pwr := .ready, held := 0, pmr := { recovery := true } }, .read false 1 0x80000000, 0x80000000, false, 1, rfl,
      by decide +kernel, by decide +kernel, by decide +kernel⟩⟩

theorem witness_PowerStatesFollowTheTable : ∃ s u : State, step s = .next u := ⟨State.reset, State.reset, rfl⟩

theorem witness_StoreFrames :
    ∃ (s : State) (prod : Fin 24) (reel : Fin 64) (w : Slot) (r : Reel) (x : Ext) (h : Shelf) (g0 b : Nat),
      s.slotOf prod reel = some w ∧ s.reel reel = some r ∧ s.slotFull w = true ∧ w.bad = [] ∧
      r.live.find? (fun y => y.seq == w.ext) = some x ∧ (∀ y ∈ s.que.items, y.prod ≠ prod.val) ∧
      s.extLine r w.ext (w.grp * (s.reelShelf r).gb) = (h, g0, b) :=
  ⟨{ pwr := .ready, held := 0, cab := { shelves := [⟨1, true, 4, 2⟩], reels := [{ n := 3, shelf := 1, base := 0, exts := 8, ring := true, policy := 0, live := [{ seq := 0, prod := 5, take := 1, prev := none, epoch := 0 }] }], slots := [{ prod := 5, reel := 3, ext := 0, grp := 1, data := List.replicate 1024 7 }] } }, 5, 3,
    { prod := 5, reel := 3, ext := 0, grp := 1, data := List.replicate 1024 7 },
    { n := 3, shelf := 1, base := 0, exts := 8, ring := true, policy := 0, live := [{ seq := 0, prod := 5, take := 1, prev := none, epoch := 0 }] },
    { seq := 0, prod := 5, take := 1, prev := none, epoch := 0 }, ⟨1, true, 4, 2⟩, 4 * 2 ^ 24 + 17, 0, by decide +kernel⟩

theorem witness_LinkFrames :
(∃ (s : State) (t : Nat) (l : Fin 10) (j : Fin 2) (line : List Bool), takes (.lineBlockRx t l j line) s = true) ∧
(∃ (s : State) (t : Nat) (l : Fin 10) (f : RxFrame), takes (.frameRx t l f) s = true) ∧
(∃ (s : State), s.pmr.warm = none) ∧ (∃ (s : State), s.pmr.warm ≠ none) :=
  ⟨⟨{ pwr := .ready, held := 0 }, 0, 2, 0, (List.range 130).map (fun i => i % 2 == 0), by decide +kernel⟩,
    ⟨{ pwr := .ready, held := 0 }, 0, 2, ⟨List.replicate 32 1, 1, 1, 0, 15, false, 0, 0⟩, by decide +kernel⟩,
    ⟨State.reset, rfl⟩, ⟨{ pwr := .ready, held := 0, pmr := { warm := some 2 } }, by decide⟩⟩

theorem witness_TreeFrames :
(∃ (s : State) (t : Nat) (l : Fin 10) (k : BitVec 48) (f : BitVec 32) (b : Vector (BitVec 64) 4) (held : List HeldName),
    takes (.horizonRx t l k f b held) s = true) ∧
(∃ (s : State), s.pmr.warm = none) ∧ (∃ (s : State), s.pmr.warm ≠ none) :=
  ⟨⟨{ pwr := .ready, held := 0 }, 0, 2, 0, 0, .replicate 4 0, List.replicate 16 ⟨0, 0, 0⟩, by decide +kernel⟩,
    ⟨State.reset, rfl⟩, ⟨{ pwr := .ready, held := 0, pmr := { warm := some 2 } }, by decide⟩⟩

theorem witness_RegisterFrames :
(∃ (s : State) (a : Accessor) (addr : BitVec 32) (p o : Nat), p = addrPg addr.toNat ∧ o = addrOff addr.toNat ∧
    addrBad false addr.toNat 1 = false ∧ Reaches s a p ∧ addrView addr.toNat = false ∧
    bit (s.rd .hdr_WR_MASK p) (Accessor.eff a).lvl = true ∧ mwOf p o = none ∧ (∀ x ∈ slotsIn p o 1, plain s x.1 = true)) ∧
(∃ (s : State) (a : Accessor) (addr : BitVec 32) (p : Nat), p = addrPg addr.toNat ∧ addrBad false addr.toNat 1 = false ∧
    Reaches s a p ∧ addrView addr.toNat = false ∧ bit (s.rd .hdr_WR_MASK p) (Accessor.eff a).lvl = false) ∧
(∃ (s : State) (a : Accessor) (addr : BitVec 32) (p o base n : Nat), p = addrPg addr.toNat ∧ o = addrOff addr.toNat ∧
    addrBad false addr.toNat 1 = false ∧ Reaches s a p ∧ addrView addr.toNat = false ∧
    bit (s.rd .hdr_WR_MASK p) (Accessor.eff a).lvl = true ∧ mwOf p o = some (base, n) ∧ o ≠ base + 4 * (n - 1)) ∧
(∃ (s : State) (a : Accessor) (addr : BitVec 32) (p o base n : Nat), p = addrPg addr.toNat ∧ o = addrOff addr.toNat ∧
    addrBad false addr.toNat 1 = false ∧ Reaches s a p ∧ addrView addr.toNat = false ∧
    bit (s.rd .hdr_WR_MASK p) (Accessor.eff a).lvl = true ∧ mwOf p o = some (base, n) ∧ o = base + 4 * (n - 1) ∧
    (∀ x ∈ slotsIn p base n, plain s x.1 = true)) ∧
(∃ (s : State) (a : Accessor) (blk : Fin 20) (page : Fin 17) (p : Nat), (page.val = 0 ∨ winReplicated blk.val = true) ∧
    p = 17 * blk.val + page.val ∧ Reaches s a p) ∧
(∃ (s : State) (a : Accessor) (p : Nat), p = 17 * Blk.ctl.idx ∧ Reaches s a p) ∧
(∃ (s : State) (ops : List ThbOp), s.pmr.warm = none ∧ s.ctl.closing = 0 ∧ (∀ o ∈ ops, ∃ n, o = .nop n)) ∧
(∃ (s : State) (t : Nat) (l : Fin 10) (q : RelayReq), takes (.relayRequestRx t l q) s = true ∧ q.target ≠ 0xFFFFFFFF ∧
    q.target ≠ s.myId) :=
  ⟨⟨{ pwr := .ready, held := 0 }, ⟨0, 1⟩, 0x00100024, 17, 0x24, by decide +kernel, by decide +kernel, by decide +kernel,
        ⟨by decide +kernel, by decide +kernel, rfl, rfl⟩, by decide +kernel, by decide +kernel, by decide +kernel, by decide +kernel⟩,
    ⟨{ pwr := .ready, held := 0 }, ⟨0, 0⟩, 0x00100024, 17, by decide +kernel, by decide +kernel,
        ⟨by decide +kernel, by decide +kernel, rfl, rfl⟩, by decide +kernel, by decide +kernel⟩,
    ⟨{ pwr := .ready, held := 0 }, ⟨8, 2⟩, 0x00000034, 0, 0x34, 0x34, 2, by decide +kernel, by decide +kernel, by decide +kernel,
        ⟨by decide +kernel, by decide +kernel, rfl, rfl⟩, by decide +kernel, by decide +kernel, by decide +kernel, by decide +kernel⟩,
    ⟨{ pwr := .ready, held := 0 }, ⟨8, 2⟩, 0x00000038, 0, 0x38, 0x34, 2, by decide +kernel, by decide +kernel, by decide +kernel,
        ⟨by decide +kernel, by decide +kernel, rfl, rfl⟩, by decide +kernel, by decide +kernel, by decide +kernel, by decide +kernel,
        by decide +kernel⟩,
    ⟨{ pwr := .ready, held := 0 }, ⟨7, 2⟩, 2, 16, 50, by decide +kernel, by decide +kernel,
        ⟨by decide +kernel, by decide +kernel, rfl, rfl⟩⟩,
    ⟨{ pwr := .ready, held := 0 }, ⟨7, 2⟩, 289, by decide +kernel, ⟨by decide +kernel, by decide +kernel, rfl, rfl⟩⟩,
    ⟨{ pwr := .ready, held := 0 }, [.nop 3], rfl, rfl, by simp⟩,
    ⟨{ pwr := .ready, held := 0 }, 0, 2, ⟨1, 0, 0x12345678, 0, .read false 0 64⟩, by decide +kernel, by decide +kernel,
        by decide +kernel⟩⟩

theorem witness_WideFrames :
(∃ (s : State) (own jtag : Bool), own = false ∧ jtag = false ∨ jtag = true ∧ s.flag .ctl_PROV = false ∨ s.pwr = .acquire) ∧
(∃ (s : State), s.flag .pmr_TRIAL = false ∧ s.pmr.warm = none) ∧
(∃ (s : State), s.bootPick ≠ .again) ∧ (∃ (s : State), s.bootPick = .again) :=
  ⟨⟨State.reset, false, false, .inl ⟨rfl, rfl⟩⟩, ⟨put State.reset .pmr_TRIAL 0 0, by decide +kernel⟩,
    ⟨{ pwr := .start, flash := { slots := .replicate 2 { bad := true } } }, by decide +kernel⟩,
    ⟨{ pwr := .start, flash := { trial := true, slots := .replicate 2 { bad := true } } }, by decide +kernel⟩⟩
end

/-! ### The form of the registers (R6, R356, R361): every command keeps it -/

section
namespace Sys2Proof.Machine

open Sys2Proof Safety

/-- P holds of the state an outcome leaves, where it leaves one. -/
structure OutP (P : State → Prop) (o : Host.Outcome State Fault Refusal) : Prop where
  out : ∀ u, o = .next u → P u

theorem outP_fault {P : State → Prop} {r : Fault} : OutP P (.fault r) := ⟨fun _ h => by cases h⟩

theorem outP_ite {P : State → Prop} {c : Prop} [Decidable c] {a b : Host.Outcome State Fault Refusal} (ha : OutP P a)
    (hb : OutP P b) : OutP P (if c then a else b) := by
  split <;> assumption

section
variable {s : State} {t : Nat} {f : State → State}

/-- The clock and the queue of waiting commands are no part of the form. -/
theorem run_regOk (hf : ∀ x, RegOk x → RegOk (f x)) (hs : RegOk s) : OutP RegOk (run t f s) :=
  ⟨fun _ h => by cases h; exact keeps_stamp regOk_closed _ _ (hf _ (keeps_at regOk_closed t hs))⟩

theorem runOn_regOk {b : Blk} (hf : ∀ x, RegOk x → RegOk (f x)) (hs : RegOk s) :
    OutP RegOk (run t (fun s => s.on b f) s) :=
  run_regOk (fun _ h => keeps_on hf h) hs

theorem laneCmd_regOk {l : Fin 10} {j : Fin 2} (hf : ∀ x, RegOk x → RegOk (f x)) (hs : RegOk s) :
    OutP RegOk (laneCmd t l j f s) :=
  runOn_regOk (fun _ h => keeps_when hf h) hs

theorem linkCmd_regOk (hf : ∀ x, RegOk x → RegOk (f x)) (hs : RegOk s) : OutP RegOk (linkCmd t f s) := runOn_regOk hf hs

theorem treRx_regOk {l : Fin 10} (hf : ∀ x, RegOk x → RegOk (f x)) (hs : RegOk s) : OutP RegOk (treRx t l f s) :=
  runOn_regOk (fun _ h => keeps_when hf h) hs

theorem thbCmd_regOk {h : ThbHead} (hf : ∀ x, RegOk x → RegOk (f x)) (hs : RegOk s) :
    OutP RegOk (run t (fun s => s.when (s.thbHears h) f) s) :=
  run_regOk (fun _ h => keeps_when hf h) hs

theorem regOk_lastRead (n : Nat) (hs : RegOk s) : RegOk { s with lastRead := n } := hs

theorem regOk_readWord (b : Accessor) (addr : Nat) (hs : RegOk s) :
    RegOk (let r := s.readOp s b false addr 1; { r.1 with lastRead := r.2.2.getD 0 0 }) :=
  regOk_lastRead (s := (s.readOp s b false addr 1).1) _ (State.readOp_keeps regOk_closed _ _ _ _ _ hs).out

theorem execMultiwordCapture_regOk {a : Accessor} {addr : BitVec 32} (hs : RegOk s) :
    OutP RegOk (execMultiwordCapture t a addr s) := by
  unfold execMultiwordCapture
  refine run_regOk (fun x h => ?_) hs
  refine keeps_when (fun _ h => regOk_lastRead _ h) ?_
  exact State.access_regOk _ _ (fun b _ h => regOk_readWord b _ h) h

theorem runPoke_regOk {a : Accessor} {addr : Nat} {v : State → Nat} (hs : RegOk s) :
    OutP RegOk (run t (fun s => s.poke a addr (v s)) s) :=
  run_regOk (fun _ h => State.poke_regOk _ _ _ h) hs

theorem regOk_out (o : List Out) (hs : RegOk s) : RegOk { s with out := o } := hs

end

/-- One case for each command: it runs an operation of its block, which keeps the form. -/
theorem exec_regOk (c : Instr) {s : State} (hs : RegOk s) : OutP RegOk (exec c s) := by
  have C := regOk_closed
  cases c with dsimp only [exec]
  | powerOn _ => exact run_regOk (fun _ h => State.tryStart_regOk (State.pmrUpd_keeps C _ h)) hs
  | vinUndervoltage _ => exact run_regOk (fun _ h => State.coldReset_regOk _ (State.pmrUpd_keeps C _ h)) hs
  | pwrEnLow _ => exact run_regOk (fun _ h => State.coldReset_regOk _ (State.pmrUpd_keeps C _ h)) hs
  | resetNLow _ => exact run_regOk (fun _ h => State.coldReset_regOk _ (State.pmrUpd_keeps C _ h)) hs
  | startComplete _ _ => exact run_regOk (fun _ h => State.startComplete_regOk _ h) hs
  | railRetry _ => exact run_regOk (fun _ h => State.railRetry_regOk h) hs
  | pwrCmdReady _ => exact runOn_regOk (fun _ h => State.pwrReady_keeps C h) hs
  | pwrCmdStandby _ => exact runOn_regOk (fun _ h => State.pwrStandby_keeps C h) hs
  | pwrCmdAcquireEnable _ => exact runOn_regOk (fun _ h => State.pwrAcquire_keeps C h) hs
  | pwrCmdSafe _ _ => exact runOn_regOk (fun _ h => State.pwrSafe_regOk _ h) hs
  | standbyEntry _ => exact runOn_regOk (fun _ h => State.standbyEntry_regOk h) hs
  | standbyExit _ => exact runOn_regOk (fun _ h => State.standbyExit_regOk h) hs
  | acquireToReady _ => exact runOn_regOk (fun _ h => State.acquireToReady_regOk h) hs
  | safeExit _ => exact runOn_regOk (fun _ h => State.safeExit_regOk h) hs
  | tickBoundary _ => exact run_regOk (fun _ h => State.tickBoundary_regOk h) hs
  | pacingInstant _ => exact run_regOk (fun _ h => State.pacing_regOk h) hs
  | tickScheduleStart _ => exact run_regOk (fun _ h => State.scheduleStart_regOk h) hs
  | commit _ => exact runOn_regOk (fun _ h => State.commitWrite_regOk h) hs
  | commitBoundary _ => exact runOn_regOk (fun _ h => State.commitBoundary_regOk h) hs
  | regionDrainDone _ _ => exact runOn_regOk (fun _ h => State.regionDrainDone_regOk _ h) hs
  | regionAbort _ _ => exact runOn_regOk (fun _ h => State.regionsAbort_keeps C _ h) hs
  | biasEnSet _ _ => exact runOn_regOk (fun _ h => State.biasEnSet_keeps C _ h) hs
  | biasEnClear _ _ => exact runOn_regOk (fun _ h => State.biasEnClear_keeps C _ h) hs
  | biasRampDone _ _ => exact runOn_regOk (fun _ h => State.rampDone_keeps C _ h) hs
  | regionOvercurrent _ _ =>
    exact runOn_regOk (fun _ h => State.detect_keeps C _ _ _ _ _ _ (State.wrB_keeps C _ _ _
      (State.crowbar_keeps C _ h))) hs
  | railOvercurrent _ => exact runOn_regOk (fun _ h => State.detect_keeps C _ _ _ _ _ _ (State.wrB_keeps C _ _ _ h)) hs
  | pixelEdge _ _ _ _ _ => exact runOn_regOk (fun _ h => State.pixelEdge_keeps C _ _ _ _ h) hs
  | pixelHoldoffEnd _ _ _ _ => exact runOn_regOk (fun _ h => State.holdoffEnd_keeps C _ _ h) hs
  | captureWindowClose _ _ _ => exact runOn_regOk (fun _ h => State.windowClose_keeps C _ _ h) hs
  | feAbort _ _ => exact runOn_regOk (fun _ h => State.feAbort_keeps C _ h) hs
  | maskDataWrite _ _ _ => exact runOn_regOk (fun _ h => State.maskWrite_keeps C _ _ h) hs
  | maskDataRead _ _ => exact runOn_regOk (fun _ h => State.maskNext_keeps C _ ((regOk_lastRead _ h))) hs
  | maskSave _ => exact runOn_regOk (fun _ h => State.maskSave_keeps C h) hs
  | maskSaveDone _ => exact runOn_regOk (fun _ h => State.maskSaveDone_keeps C h) hs
  | hotClr _ _ => exact runOn_regOk (fun _ h => State.hotClr_keeps C _ h) hs
  | frameTransferDone _ _ => exact runOn_regOk (fun _ h => State.frameDone_keeps C _ h) hs
  | injectedPulse _ _ => exact runOn_regOk (fun _ h => State.injectedPulse_keeps C _ _ h) hs
  | clusterReadoutVisit _ _ => exact runOn_regOk (fun _ h => State.readoutVisit_keeps C _ h) hs
  | tdcDrainDone _ _ => exact runOn_regOk (fun _ h => State.tdcDrainDone_keeps C _ h) hs
  | tdcAbort _ _ => exact runOn_regOk (fun _ h => State.tdcAbort_keeps C _ h) hs
  | calBatchClose _ b =>
    refine runOn_regOk (fun _ h => ?_) hs
    cases b with
    | group _ _ => exact State.calBatchClose_keeps C _ _ h
    | aux _ _ _ => exact State.auxBatch_keeps C _ _ _ h
    | timeTransfer _ _ _ => exact State.ttBatch_keeps C _ _ _ h
  | calBatchTimeout _ _ _ => exact runOn_regOk (fun _ h => State.calBatchTimeout_keeps C _ _ h) hs
  | calReset _ _ => exact runOn_regOk (fun _ h => State.calReset_keeps C _ h) hs
  | calLoad _ _ => exact runOn_regOk (fun _ h => State.calLoad_keeps C _ h) hs
  | tdcOffAccess _ _ w =>
    refine runOn_regOk (fun _ h => ?_) hs
    cases w with
    | some _ => exact State.ofsWrite_keeps C _ _ h
    | none => exact State.ofsNext_keeps C _ (regOk_lastRead _ h)
  | auxEdge _ _ _ _ _ => exact runOn_regOk (fun _ h => State.auxEdge_keeps C _ _ _ _ h) hs
  | auxInstanceSwap _ _ => exact runOn_regOk (fun _ h => State.auxSwap_keeps C _ h) hs
  | phaseMonitor _ _ _ => exact runOn_regOk (fun _ h => State.phaseMonitor_keeps C _ _ h) hs
  | refLoss _ => exact runOn_regOk (fun _ h => State.refLoss_keeps C h) hs
  | refWindow _ _ => exact runOn_regOk (fun _ h => State.refWindow_keeps C _ h) hs
  | ppsTimeout _ => exact runOn_regOk (fun _ h => State.ppsTimeout_keeps C h) hs
  | extPhaseUpdate _ _ => exact runOn_regOk (fun _ h => State.afterStep_regOk (State.extUpdate_keeps C _ h)) hs
  | srcRevertTimer _ => exact runOn_regOk (fun _ h => State.revertTimer_keeps C h) hs
  | holdoverWarn _ => exact runOn_regOk (fun _ h => State.holdWarn_keeps C h) hs
  | clapperTx _ _ => exact runOn_regOk (fun _ h => keeps_ite (State.clapTx_keeps C _ _ h) h) hs
  | clapperRx _ _ _ _ =>
    exact runOn_regOk (fun _ h => keeps_ite (State.afterStep_regOk (State.clapRx_keeps C _ _ _ h)) h) hs
  | clapTimeout _ _ => exact runOn_regOk (fun _ h => State.clapTimeout_keeps C _ h) hs
  | ptpAnnounceRx _ _ _ => exact runOn_regOk (fun _ h => State.ptpAnnounce_keeps C _ _ h) hs
  | ptpSyncRx _ _ _ => exact runOn_regOk (fun _ h => State.ptpSync_keeps C _ _ h) hs
  | ptpFollowUpRx _ _ _ => exact runOn_regOk (fun _ h => State.ptpFollow_keeps C _ _ h) hs
  | ptpDelayReqTx _ => exact runOn_regOk (fun _ h => State.ptpDelayReq_keeps C h) hs
  | ptpDelayRespRx _ _ _ => exact runOn_regOk (fun _ h => State.afterStep_regOk (State.ptpDelayResp_keeps C _ _ h)) hs
  | ptpAnnounceTimeout _ => exact runOn_regOk (fun _ h => State.ptpAnnTimeout_keeps C h) hs
  | ptpSyncTimeout _ => exact runOn_regOk (fun _ h => State.ptpSyncTimeout_keeps C h) hs
  | stepCmd _ _ => exact runOn_regOk (fun _ h => State.afterStep_regOk (State.stepWrite_keeps C _ h)) hs
  | timeSetWrite _ _ => exact runOn_regOk (fun _ h => State.afterStep_regOk (State.timeSet_keeps C _ h)) hs
  | snapReq _ => exact runOn_regOk (fun _ h => State.snapReq_keeps C h) hs
  | timeNowRead _ => exact runOn_regOk (fun _ h => regOk_lastRead _ h) hs
  | freqWordWrite _ _ => exact runOn_regOk (fun _ h => State.freqWrite_keeps C _ h) hs
  | ppsOutPulse _ => exact runOn_regOk (fun _ h => State.ppsOut_keeps C h) hs
  | gateOpen _ r =>
    refine runOn_regOk (fun x h => ?_) hs
    have ho := State.gateOpens_keeps C r h
    split
    · next he =>
      split
      · exact keeps_on (fun _ h => State.gateSource_keeps C _ _ h) (of_some he ho)
      · exact of_some he ho
    · exact h
  | gateClose _ _ => exact runOn_regOk (fun _ h => State.gateCloses_keeps C _ h) hs
  | eventWordRelease _ _ => exact runOn_regOk (fun _ h => State.wordRelease_keeps C _ h) hs
  | tickClose _ _ => exact runOn_regOk (fun _ h => State.tickClose_keeps C _ h) hs
  | histoDumpDone _ _ => exact runOn_regOk (fun _ h => State.dumpDone_keeps C _ h) hs
  | frameHeadEmit _ _ => exact runOn_regOk (fun _ h => State.headEmit_keeps C _ h) hs
  | softReq _ => exact runOn_regOk (fun _ h => State.trgInput_keeps C _ _ h) hs
  | mark _ => exact runOn_regOk (fun _ h => State.markSlate_keeps C h) hs
  | rateEval _ =>
    exact runOn_regOk (fun _ h => State.rateEval_keeps C (keeps_each _ (fun _ _ h => State.rateNote_keeps C _ _ h) h)) hs
  | requestMergeEnd _ => exact runOn_regOk (fun _ h => State.mergeEnd_keeps C h) hs
  | treqRx _ _ _ _ _ _ _ =>
    exact runOn_regOk (fun _ h => keeps_when (fun _ h => State.trigRx_keeps C _ _ h fun _ h => keeps_on (fun _ h =>
      keeps_when (fun _ h => State.reqIn_keeps C _ _ (State.trgSettle_keeps C h)) h) h) h) hs
  | decisionWindowEnd _ => exact runOn_regOk (fun _ h => State.decide__keeps C h) hs
  | tdecRx _ _ _ _ _ _ =>
    exact runOn_regOk (fun _ h => keeps_when (fun _ h => State.trigRx_keeps C _ _ h fun _ h => keeps_on (fun _ h =>
      keeps_when (fun _ h => State.decRx_keeps C _ h) h) h) h) hs
  | triggerAction _ => exact runOn_regOk (fun _ h => State.trigAction_keeps C h) hs
  | trigOutPulseStart _ _ => exact runOn_regOk (fun _ h => State.pulseStart_keeps C _ h) hs
  | trigOutPulseEnd _ _ => exact runOn_regOk (fun _ h => State.pulseEnd_keeps C _ h) hs
  | windowClose _ _ => exact runOn_regOk (fun _ h => State.windowDone_keeps C _ h) hs
  | chunkComplete _ _ _ =>
    exact runOn_regOk (fun _ h => State.winRun_keeps C _ (State.chunkComplete_keeps C _
      (keeps_when (fun _ h => State.packFault_keeps C h) h))) hs
  | dynTableReady _ _ _ => exact runOn_regOk (fun _ h => State.dynReady_keeps C _ _ h) hs
  | stallLimit _ _ => exact runOn_regOk (fun _ h => State.stallLimit_keeps C _ h) hs
  | cmpAbort _ _ => exact runOn_regOk (fun _ h => State.regionAbort_keeps C _ h) hs
  | ctxDataRead _ _ => exact runOn_regOk (fun _ h => State.ctxRead_keeps C _ _ h) hs
  | ctxDataWrite _ _ _ => exact runOn_regOk (fun _ h => State.ctxWrite_keeps C _ _ _ h) hs
  | ctxLoad _ _ => exact runOn_regOk (fun _ h => State.ctxLoad_keeps C _ h) hs
  | grantAvailable _ _ => exact runOn_regOk (fun _ h => State.grantAvailable_keeps C _ h) hs
  | patchAccept _ => exact runOn_regOk (fun _ h => State.patchAccept_keeps C h) hs
  | holdLimit _ _ => exact runOn_regOk (fun _ h => State.sweep_keeps C (State.holdLimit_keeps C _ h)) hs
  | fabricWordRead _ _ _ _ => exact runOn_regOk (fun _ h => State.fabricRead_keeps C _ _ _ h) hs
  | groupWrite _ _ _ =>
    exact runOn_regOk (fun _ h => State.winPump_keeps C (State.cabPull_keeps C (State.groupWrite_keeps C _ _ h))) hs
  | mergeOpDone _ _ => exact runOn_regOk (fun _ h => State.mergeDone_keeps C (State.flip_keeps C _ h)) hs
  | shelfDef _ => exact runOn_regOk (fun _ h => State.cabCmd_keeps C h fun _ h => State.shelfDef_keeps C h) hs
  | shelfDel _ => exact runOn_regOk (fun _ h => State.cabCmd_keeps C h fun _ h => State.shelfDel_keeps C h) hs
  | reelDef _ => exact runOn_regOk (fun _ h => State.cabCmd_keeps C h fun _ h => State.reelDef_keeps C h) hs
  | reelDel _ => exact runOn_regOk (fun _ h => State.cabCmd_keeps C h fun _ h => State.reelDel_keeps C h) hs
  | reelClear _ => exact runOn_regOk (fun _ h => State.cabCmd_keeps C h fun _ h => State.reelClear_keeps C h) hs
  | takeStart _ => exact runOn_regOk (fun _ h => State.cabCmd_keeps C h fun _ h => State.takeStart_keeps C _ h) hs
  | takeStop _ => exact runOn_regOk (fun _ h => State.cabCmd_keeps C h fun _ h => State.takeStop_keeps C _ h) hs
  | takeRelease _ => exact runOn_regOk (fun _ h => State.cabCmd_keeps C h fun _ h => State.takeRelease_keeps C h) hs
  | takeDelete _ => exact runOn_regOk (fun _ h => State.cabCmd_keeps C h fun _ h => State.takeDelete_keeps C h) hs
  | dirRead _ => exact runOn_regOk (fun _ h => State.cabCmd_keeps C h fun _ h => State.dirRead_keeps C h) hs
  | cmdOpReserved _ => exact runOn_regOk (fun _ h => State.cmdReserved_keeps C h) hs
  | oflStart _ => exact runOn_regOk (fun _ h => State.oflStart_keeps C h) hs
  | oflAbort _ => exact runOn_regOk (fun _ h => State.oflAbort_keeps C h) hs
  | offloadDone _ => exact runOn_regOk (fun _ h => State.oflPump_keeps C h) hs
  | scrubGroupRead _ _ _ => exact runOn_regOk (fun _ h => State.scrubGroup_keeps C _ _ h) hs
  | repairRun _ => exact runOn_regOk (fun _ h => State.repairRun_keeps C h) hs
  | repairDone _ _ => exact runOn_regOk (fun _ h => State.repairDone_keeps C _ h) hs
  | rateHuntSwitch _ _ _ => exact laneCmd_regOk (fun _ h => State.rateSwitch_keeps C _ _ h) hs
  | blockLock _ _ _ => exact laneCmd_regOk (fun _ h => State.blockLock_keeps C _ _ h) hs
  | lockLoss _ _ _ => exact laneCmd_regOk (fun _ h => State.lockLoss_keeps C _ _ h) hs
  | lossOfSignal _ _ _ => exact laneCmd_regOk (fun _ h => State.laneLoss_keeps C _ _ _ h) hs
  | signalReturn _ _ _ => exact laneCmd_regOk (fun _ h => State.signalBack_keeps C _ _ h) hs
  | lineBlockRx _ _ _ _ => exact outP_ite (laneCmd_regOk (fun _ h => State.lineBlock_keeps C _ _ _ h) hs) outP_fault
  | fillRx _ _ _ _ _ => exact laneCmd_regOk (fun _ h => State.fillRx_keeps C _ _ _ _ h) hs
  | helloTx _ _ _ => exact laneCmd_regOk (fun _ h => State.helloTx_keeps C _ _ h) hs
  | helloRx _ _ _ _ => exact laneCmd_regOk (fun _ h => State.helloRx_keeps C _ _ _ h) hs
  | revSwitch _ _ _ => exact laneCmd_regOk (fun _ h => State.revSwitch_keeps C _ _ h) hs
  | helloTimeout _ _ _ => exact laneCmd_regOk (fun _ h => State.helloTimeout_keeps C _ _ h) hs
  | trainRx _ _ _ _ => exact laneCmd_regOk (fun _ h => State.trainRx_keeps C _ _ _ h) hs
  | rxReady _ _ _ => exact laneCmd_regOk (fun _ h => State.rxReady_keeps C _ _ h) hs
  | trainTimeout _ _ _ => exact laneCmd_regOk (fun _ h => State.trainTimeout_keeps C _ _ h) hs
  | compatSweepStep _ _ _ _ _ => exact laneCmd_regOk (fun _ h => State.sweepStep_keeps C _ _ _ _ h) hs
  | alignTx _ _ => exact linkCmd_regOk (fun _ h => State.alignTx_keeps C _ h) hs
  | alignRx _ _ _ _ _ => exact linkCmd_regOk (fun _ h => keeps_when (fun _ h => State.alignRx_keeps C _ _ _ _ h) h) hs
  | backoffDone _ _ _ => exact laneCmd_regOk (fun _ h => State.backoffDone_keeps C _ _ h) hs
  | frameTx _ _ => exact linkCmd_regOk (fun _ h => State.warmSettle_regOk (State.frameTx_keeps C _ h)) hs
  | frameRx _ _ _ => exact outP_ite (linkCmd_regOk (fun _ h => State.frameRx_keeps C _ _ h) hs) outP_fault
  | ackRx _ _ _ => exact linkCmd_regOk (fun _ h => keeps_when (fun _ h => State.lnkAck_keeps C _ _ h) h) hs
  | nakRx _ _ _ => exact linkCmd_regOk (fun _ h => State.nakRx_keeps C _ _ h) hs
  | ackTx _ _ => exact linkCmd_regOk (fun _ h => State.ackTx_keeps C _ h) hs
  | replayTimeout _ _ => exact linkCmd_regOk (fun _ h => State.replayTimeout_keeps C _ h) hs
  | heartTx _ _ => exact linkCmd_regOk (fun _ h => State.heartTx_keeps C _ h) hs
  | heartRx _ _ _ => exact linkCmd_regOk (fun _ h => State.heartRx_keeps C _ _ h) hs
  | silent _ _ => exact linkCmd_regOk (fun _ h => State.silent_keeps C _ h) hs
  | trigResend _ _ => exact runOn_regOk (fun _ h => State.trigResend_keeps C _ h) hs
  | restripeRx _ _ _ _ => exact linkCmd_regOk (fun _ h => keeps_when (fun _ h => State.restripeRx_keeps C _ _ _ h) h) hs
  | laneRejoin _ _ => exact linkCmd_regOk (fun _ h => State.laneRejoin_keeps C _ h) hs
  | portAbort _ _ => exact linkCmd_regOk (fun _ h => State.portAbort_keeps C _ h) hs
  | retrain _ _ _ => exact linkCmd_regOk (fun _ h => State.retrain_keeps C _ _ h) hs
  | enumRx _ _ _ _ _ _ _ => exact treRx_regOk (fun _ h => State.enumRx_keeps C _ _ _ _ _ _ h) hs
  | enumReplyRx _ _ _ _ _ _ _ _ => exact treRx_regOk (fun _ h => State.enumReplyRx_keeps C _ _ _ _ _ _ _ h) hs
  | enumReplyTimeout _ => exact runOn_regOk (fun _ h => State.replyTimeout_keeps C h) hs
  | enumWaitTimeout _ => exact runOn_regOk (fun _ h => State.enumWait_keeps C h) hs
  | enumStart _ => exact runOn_regOk (fun _ h => State.enumStart_keeps C h) hs
  | claimRx _ _ _ => exact treRx_regOk (fun _ h => State.claimRx_keeps C _ _ h) hs
  | claimAckRx _ _ _ _ _ => exact treRx_regOk (fun _ h => State.claimAckRx_keeps C _ _ _ _ h) hs
  | lostRx _ _ _ => exact treRx_regOk (fun _ h => State.lostRx_keeps C _ _ h) hs
  | lostTimeout _ => exact runOn_regOk (fun _ h => State.lostTimeout_keeps C h) hs
  | demoteRx _ _ _ => exact treRx_regOk (fun _ h => State.demoteRx_keeps C _ _ h) hs
  | stbyOkRx _ _ _ _ => exact treRx_regOk (fun _ h => State.stbyRx_keeps C _ _ _ h) hs
  | horizonRx _ _ _ _ _ _ => exact outP_ite (treRx_regOk (fun _ h => State.horizonRx_keeps C _ _ _ _ _ h) hs) outP_fault
  | mergeHorizonAdvance _ =>
    exact runOn_regOk (fun _ h => State.treDrained_keeps C (State.horizonAdvance_keeps C (State.rxPumps_keeps C h))) hs
  | mergeGiveUp _ _ => exact runOn_regOk (fun _ h => State.giveUp_keeps C _ h) hs
  | heldDelivery _ _ => exact treRx_regOk (fun _ h => State.heldDelivery_keeps C _ h) hs
  | confirmTx _ _ => exact treRx_regOk (fun _ h => State.confirmTx_keeps C _ h) hs
  | confirmRx _ _ _ => exact treRx_regOk (fun _ h => State.confirmRx_keeps C _ _ h) hs
  | topoRx _ _ _ _ _ => exact treRx_regOk (fun _ h => State.topoRx_keeps C _ _ _ _ h) hs
  | featsetRx _ _ _ _ => exact treRx_regOk (fun _ h => State.featRx_keeps C _ _ h) hs
  | claimReq _ _ _ => exact runOn_regOk (fun _ h => keeps_ite (State.claimReq_keeps C _ h) h) hs
  | roleSwWrite _ _ => exact runOn_regOk (fun _ h => State.roleSw_keeps C _ h) hs
  | relayRequestRx _ _ _ =>
    exact outP_ite outP_fault (treRx_regOk (fun _ h => keeps_when (fun _ h => State.relayRx_regOk _ h) h) hs)
  | relayReplyRx _ _ _ =>
    exact treRx_regOk (fun _ h => keeps_when (fun _ h => State.warmSettle_regOk (State.relayGather_keeps C _ h)) h) hs
  | relayTimeout _ _ =>
    exact runOn_regOk (fun _ h => keeps_when (fun _ h => State.warmSettle_regOk (State.relayTimeout_keeps C _ h)) h) hs
  | ethLinkUp _ => exact runOn_regOk (fun _ h => keeps_when (fun _ h => State.linkUpEth_keeps C h) h) hs
  | ethLinkDown _ => exact runOn_regOk (fun _ h => State.wrB_keeps C _ _ _ h) hs
  | ethFrameRx _ _ => exact runOn_regOk (fun _ h => State.ethFrameRx_keeps C _ h) hs
  | arpRx _ _ _ _ _ => exact runOn_regOk (fun _ h => State.arpRx_keeps C _ _ _ _ h) hs
  | arpTimeout _ _ => exact runOn_regOk (fun _ h => State.arpTimeout_keeps C _ h) hs
  | arpRefresh _ _ => exact runOn_regOk (fun _ h => State.arpRefresh_keeps C _ h) hs
  | qpResolveRetry _ _ => exact runOn_regOk (fun _ h => State.resolveRetry_keeps C _ h) hs
  | dhcpRx _ _ => exact runOn_regOk (fun _ h => State.dhcpRx_keeps C _ h) hs
  | dhcpRenew _ => exact runOn_regOk (fun _ h => keeps_when (fun _ h => State.renew_keeps C _ h) h) hs
  | dhcpRebind _ => exact runOn_regOk (fun _ h => keeps_when (fun _ h => State.renew_keeps C _ h) h) hs
  | dhcpLeaseExpire _ =>
    exact runOn_regOk (fun _ h => keeps_when (fun _ h => State.solicit_keeps C (State.dropIp_keeps C h)) h) hs
  | icmpEchoRx _ _ _ => exact runOn_regOk (fun _ h => State.icmpRx_keeps C _ _ h) hs
  | pfcFrameRx _ _ _ => exact runOn_regOk (fun _ h => State.pfcRx_keeps C _ _ h) hs
  | pfcPauseEnd _ => exact runOn_regOk (fun _ h => State.pfcEnd_keeps C h) hs
  | roceMessageTx _ _ => exact runOn_regOk (fun _ h => State.messageTx_keeps C _ h) hs
  | roceAckRx _ _ _ => exact runOn_regOk (fun _ h => State.ackRx_keeps C _ _ h) hs
  | roceNakRx _ _ _ _ => exact runOn_regOk (fun _ h => State.roceNak_keeps C _ _ _ h) hs
  | ackTmo _ _ => exact runOn_regOk (fun _ h => State.ackTmo_keeps C _ h) hs
  | rnrWaitEnd _ _ => exact runOn_regOk (fun _ h => State.rnrEnd_keeps C _ h) hs
  | cnpRx _ _ => exact runOn_regOk (fun _ h => State.cnpRx_keeps C _ h) hs
  | rateRecovery _ _ => exact runOn_regOk (fun _ h => State.rateUp_keeps C _ h) hs
  | qpCiWrite _ _ _ => exact runOn_regOk (fun _ h => State.ciWrite_keeps C _ _ h) hs
  | qpAbort _ _ => exact runOn_regOk (fun _ h => State.qpAbort_keeps C _ h) hs
  | openReq _ m _ _ =>
    refine thbCmd_regOk (fun _ h => ?_) hs
    have ht := State.thbTake_keeps C m h
    exact keeps_ite (State.openMsg_keeps C _ _ _ ht) (State.authFail_keeps C ht)
  | request _ m _ _ _ =>
    refine thbCmd_regOk (fun _ h => ?_) hs
    have ht := State.thbTake_keeps C m h
    dsimp only
    split
    · exact State.requestMsg_regOk _ _ _ _ ht
    · exact State.authFail_keeps C ht
  | closeReq _ m =>
    refine thbCmd_regOk (fun _ h => ?_) hs
    have ht := State.thbTake_keeps C m h
    dsimp only
    split
    · exact regOk_out _ (State.sessClose_keeps C _ ht)
    · exact State.authFail_keeps C ht
  | sessionIdle _ _ =>
    refine runOn_regOk (fun _ h => ?_) hs
    split
    · exact keeps_ite (State.sessClose_keeps C _ h) h
    · exact h
  | keyWrite _ _ _ _ => exact runPoke_regOk hs
  | keyLevelWrite _ _ _ _ => exact runPoke_regOk hs
  | keyRevoke _ _ _ => exact runPoke_regOk hs
  | keyClear _ _ => exact runPoke_regOk hs
  | provisionEnChange _ _ => exact runOn_regOk (fun _ h => State.provision_keeps C _ h) hs
  | fwBegin _ _ => exact runOn_regOk (fun _ h => State.fwBegin_keeps C _ h) hs
  | fwEraseDone _ _ => exact runOn_regOk (fun _ h => State.fwErased_keeps C _ h) hs
  | fwVerify _ _ => exact runOn_regOk (fun _ h => State.fwVerify_keeps C _ h) hs
  | fwVerifyDone _ _ => exact runOn_regOk (fun _ h => State.fwVerified_keeps C _ h) hs
  | fwAbort _ _ => exact runOn_regOk (fun _ h => State.fwAbort_keeps C _ h) hs
  | hkaScan _ _ => exact runOn_regOk (fun _ h => State.hkaScan_keeps C _ h) hs
  | rtdReversal _ => exact runOn_regOk (fun _ h => State.rtdReversal_keeps C h) hs
  | rtdPeriodEnd _ => exact runOn_regOk (fun _ h => State.rtdPeriodEnd_keeps C h) hs
  | rtdMonitor _ _ => exact runOn_regOk (fun _ h => State.rtdMonitor_keeps C _ h) hs
  | calReq _ => exact runOn_regOk (fun _ h => State.calReq_keeps C h) hs
  | hkaCalPeriodic _ => exact runOn_regOk (fun _ h => State.calPeriodic_keeps C h) hs
  | hkaCalDone _ _ => exact runOn_regOk (fun _ h => State.calDone_keeps C _ h) hs
  | injReq _ => exact runOn_regOk (fun _ h => State.injReq_keeps C h) hs
  | hkaInjDone _ _ => exact runOn_regOk (fun _ h => State.injDone_keeps C _ h) hs
  | tecPeriodStart _ => exact runOn_regOk (fun _ h => State.tecStart_keeps C h) hs
  | faultTake _ => exact runOn_regOk (fun _ h => State.faultTake_regOk h) hs
  | shadowExpiry _ => exact runOn_regOk (fun _ h => State.shadowExpiry_keeps C h) hs
  | ackReal _ _ => exact runOn_regOk (fun _ h => State.ackMask_keeps C _ _ h) hs
  | ackInj _ _ => exact runOn_regOk (fun _ h => State.ackMask_keeps C _ _ h) hs
  | clrReal _ _ _ => exact runOn_regOk (fun _ h => State.clrMask_keeps C _ _ _ h) hs
  | clrInj _ _ _ => exact runOn_regOk (fun _ h => State.clrMask_keeps C _ _ _ h) hs
  | injGo _ => exact runOn_regOk (fun _ h => State.injGo_keeps C h) hs
  | voterMismatch _ _ =>
    exact runOn_regOk (fun _ h => keeps_on (fun _ h => State.warmSettle_regOk (State.voterMismatch_regOk _ h)) h) hs
  | resyncDone _ _ => exact runOn_regOk (fun _ h => State.resyncDone_keeps C _ h) hs
  | coreRestartDone _ => exact runOn_regOk (fun _ h => State.coreRestart_keeps C h) hs
  | rstModule _ _ _ => exact runOn_regOk (fun _ h => State.rstModule_regOk _ _ h) hs
  | blkRst _ _ _ => exact runOn_regOk (fun _ h => State.blkRst_regOk _ _ h) hs
  | blockResetRelease _ _ _ _ => exact runOn_regOk (fun _ h => State.blkRelease_regOk _ _ _ h) hs
  | fwActivate _ _ => exact runOn_regOk (fun _ h => State.fwActivate_keeps C _ h) hs
  | fwConfirm _ _ => exact runOn_regOk (fun _ h => State.fwConfirm_keeps C _ h) hs
  | confirmTmo _ => exact runOn_regOk (fun _ h => State.confirmTmo_regOk h) hs
  | registerWrite _ _ _ _ => exact runPoke_regOk hs
  | multiwordCapture _ _ _ => exact execMultiwordCapture_regOk hs
  | multiwordCommit _ _ _ _ => exact runPoke_regOk hs
  | revert _ _ _ _ => exact runPoke_regOk hs
  | privMaskWrite _ _ _ _ _ => exact runPoke_regOk hs
  | refInResume _ => exact runOn_regOk (fun _ h => State.refResume_keeps C h) hs
  | locCoincExpiry _ _ => exact runOn_regOk (fun _ h => State.trgExpiry_keeps C _ h) hs
  | relockTimeout _ _ _ => exact laneCmd_regOk (fun _ h => State.relockTimeout_keeps C _ _ h) hs
  | sramScrub _ _ => exact runOn_regOk (fun _ h => State.sramScrub_keeps C _ h) hs
  | resetReleaseHigh _ _ => exact run_regOk (fun _ h => State.tryStart_regOk (State.pmrUpd_keeps C _ h)) hs

end Sys2Proof.Machine
end

open Sys2Proof Sys2Proof.Machine Sys2Proof.Safety in
/-- Settles O4: an empty queue leaves the state, and each command keeps the form of the maps. -/
theorem stepKeepsRegisterForm : Obligations.StepKeepsRegisterForm := by
  intro s u hs hu
  unfold step at hu
  split at hu
  · cases hu; exact hs
  · next c l _ =>
    have hl : RegOk { s with pending := l } := hs
    exact (exec_regOk c hl).out u hu


/-! ### Frames: what a state is but for the parts, fields and regions a command may change (R6) -/

section
namespace Sys2Proof.Machine

open Sys2Proof Safety

/-- What a command may change: parts of the state, register fields at an index, and what is kept of the regions. -/
structure Foot where
  part : Part → Prop
  fld : Fld → Nat → Prop
  region : Fin 16 → Prop

/-- From s to u nothing changes but what F holds of; the clock and the queue of waiting commands are no part of this. -/
structure Within (F : Foot) (s u : State) : Prop where
  regs : ∀ f i, ¬ F.fld f i → u.rd f i = s.rd f i ∧ u.rdSh f i = s.rdSh f i
  parts : ∀ x, ¬ F.part x → SamePart s u x
  apart : ∀ q, ¬ F.region q →
    u.pfeR q = s.pfeR q ∧ u.tdcR q = s.tdcR q ∧ u.hstR q = s.hstR q ∧ u.accR q = s.accR q ∧ u.cmpR q = s.cmpR q

variable {F : Foot} {s u v : State}

theorem samePart_refl (s : State) (x : Part) : SamePart s s x := by
  cases x <;> simp [SamePart]

theorem samePart_symm {x : Part} (h : SamePart s u x) : SamePart u s x := by
  cases x
  case cab => simp only [SamePart] at h ⊢; rw [← h]
  case events => obtain ⟨a, b, c, d⟩ := h; exact ⟨a.symm, b.symm, c.symm, d.symm⟩
  all_goals exact Eq.symm h

theorem samePart_trans {x : Part} (h : SamePart s u x) (k : SamePart u v x) : SamePart s v x := by
  cases x
  case cab => simp only [SamePart] at h k ⊢; rw [← h, ← k]
  case events =>
    obtain ⟨a, b, c, d⟩ := h
    obtain ⟨a', b', c', d'⟩ := k
    exact ⟨a'.trans a, b'.trans b, c'.trans c, d'.trans d⟩
  all_goals exact Eq.trans k h

theorem Within.refl (s : State) : Within F s s :=
  ⟨fun _ _ _ => ⟨rfl, rfl⟩, fun x _ => samePart_refl s x, fun _ _ => ⟨rfl, rfl, rfl, rfl, rfl⟩⟩

theorem Within.symm (h : Within F s u) : Within F u s where
  regs f i n := ⟨(h.regs f i n).1.symm, (h.regs f i n).2.symm⟩
  parts x n := samePart_symm (h.parts x n)
  apart q n := by
    obtain ⟨a, b, c, d, e⟩ := h.apart q n
    exact ⟨a.symm, b.symm, c.symm, d.symm, e.symm⟩

theorem Within.trans (h : Within F s u) (k : Within F u v) : Within F s v where
  regs f i n := ⟨(k.regs f i n).1.trans (h.regs f i n).1, (k.regs f i n).2.trans (h.regs f i n).2⟩
  parts x n := samePart_trans (h.parts x n) (k.parts x n)
  apart q n := by
    obtain ⟨a, b, c, d, e⟩ := h.apart q n
    obtain ⟨a', b', c', d', e'⟩ := k.apart q n
    exact ⟨a'.trans a, b'.trans b, c'.trans c, d'.trans d, e'.trans e⟩

/-- States that differ in nothing but F are one. -/
def Foot.setoid (F : Foot) : Setoid State := ⟨Within F, ⟨.refl, .symm, .trans⟩⟩

/-- What a state is but for F: an operation changes nothing but F when it leaves this as it was, so that what operations leave
alone is found by rewriting. -/
def rest (F : Foot) (s : State) : Quotient F.setoid := Quotient.mk _ s

theorem rest_eq_iff : rest F u = rest F s ↔ Within F s u :=
  ⟨fun h => Within.symm (Quotient.exact h), fun h => Quotient.sound (Within.symm h)⟩

/-! #### What F allows -/

/-- F holds of the parts ps, and of the fields fs at every index. -/
def Foot.may (F : Foot) (ps : List Part) (fs : List Fld) : Prop := (∀ x ∈ ps, F.part x) ∧ ∀ f ∈ fs, ∀ i, F.fld f i

/-- F holds of the fields fs at index i. -/
def Foot.mayOf (F : Foot) (i : Nat) (fs : List Fld) : Prop := ∀ f ∈ fs, F.fld f i

/-- F holds of what is kept of region r, and of the fields fs of that region. -/
def Foot.mayAt (F : Foot) (r : Fin 16) (fs : List Fld) : Prop := F.region r ∧ F.mayOf r fs

section
variable {ps ps' : List Part} {fs fs' : List Fld} {i : Nat} {r : Fin 16}

theorem Foot.may.sub (h : F.may ps fs) (hp : ps' ⊆ ps := by decide +kernel) (hf : fs' ⊆ fs := by decide +kernel) :
    F.may ps' fs' :=
  ⟨fun x hx => h.1 x (hp hx), fun f hx => h.2 f (hf hx)⟩

theorem Foot.mayOf.sub (h : F.mayOf i fs) (hf : fs' ⊆ fs := by decide +kernel) : F.mayOf i fs' := fun f hx => h f (hf hx)

theorem Foot.mayAt.sub (h : F.mayAt r fs) (hf : fs' ⊆ fs := by decide +kernel) : F.mayAt r fs' := ⟨h.1, h.2.sub hf⟩

theorem Foot.may.of (h : F.may ps fs) (i : Nat) : F.mayOf i fs := fun f hx => h.2 f hx i

theorem Foot.may.laneSt (h : F.may ps fs) {l : Nat} {j : Fin 2}
    (hf : [Fld.lnk_L0_STATE, .lnk_L1_STATE] ⊆ fs := by decide +kernel) : F.mayOf l [laneFld j] := by
  intro f hx
  obtain rfl := List.mem_singleton.1 hx
  refine h.2 _ (hf ?_) l
  unfold laneFld
  split <;> simp

theorem Foot.may.part {x : Part} (h : F.may [x] fs) : F.part x := h.1 x List.mem_cons_self

theorem Foot.may.fld {f : Fld} (h : F.may ps [f]) (i : Nat) : F.fld f i := h.2 f List.mem_cons_self i

theorem Foot.mayOf.fld {f : Fld} (h : F.mayOf i [f]) : F.fld f i := h f List.mem_cons_self

end

/-! #### Fields that change together -/

/-- What a lane back at the start of its training changes (R218 to R222). -/
def trainRegs : List Fld :=
  [.lnk_CTLE, .lnk_EQ_COMPAT, .lnk_LINK_REV, .lnk_TX_POST, .lnk_TX_PRE, .lnk_MISWIRE, .lnk_PORT_FINAL]

/-- What the root learns of the tree from an enumeration (R245). -/
def treeRegs : List Fld :=
  [.tre_DEPTH, .tre_ENUM_COUNT, .tre_ENUM_DONE, .tre_FW_MIN, .trg_TRIG_LAT_ERR, .trg_TRIG_LAT_MIN]

/-- What a histogram counts besides its bins (R133). -/
def histRegs : List Fld := [.hstr_HST_DROP, .hstr_HST_LATE, .hstr_HST_OVER, .hstr_HST_SAT, .hstr_HST_UNDER]

/-- What the fabric reports of the areas items take (R175). -/
def areaRegs : List Fld := [.que_PATCH_FULL, .que_PATCH_USED, .que_SHARED_PEAK, .que_SHARED_USED]

/-- What a packet that waits for room changes (R182). -/
def feedRegs : List Fld := [.cmp_RP_PKTS, .cmp_RP_STALL, .que_GRANT_WAIT, .que_PATCH_CNT]

/-- The features of the tree, and what they switch (R261). -/
def featRegs : List Fld := [.evb_ZS_EN, .tre_FEAT_PEND, .tre_FEAT_TICK, .tre_TREE_FEAT]

/-- The roles of the links (R240). -/
def roleRegs : List Fld := [.tre_LINK_ROLE, .tre_STBY_OK, .tre_TOPO_FAULT]

/-! #### Registers -/

theorem State.rdSh_wr_of_ne {f g : Fld} {i j : Nat} (v : Nat) (h : ¬ (f = g ∧ i = j)) : (s.wr f i v).rdSh g j = s.rdSh g j := by
  have hk : g.key j ≠ f.key i := fun e => h (by obtain ⟨hf, hi⟩ := Fld.key_inj e; exact ⟨hf.symm, hi.symm⟩)
  unfold State.wr
  split
  · exact spGet_set_of_ne _ _ _ _ hk
  · rfl

theorem Fld.key_mod (f : Fld) (i : Nat) : f.key i % 1024 = f.ctorIdx := by
  have := f.ctorIdx_lt
  unfold Fld.key
  omega

theorem Fld.key_div (f : Fld) (i : Nat) : f.key i / 1024 = i := by
  have := f.ctorIdx_lt
  unfold Fld.key
  omega

theorem spGet_filter_of (m : Sp) {q : Nat × Nat → Bool} {k : Nat} (d : Nat) (h : ∀ v, q (k, v) = true) :
    spGet (m.filter q) k d = spGet m k d := by
  induction m with
  | nil => rfl
  | cons e m ih =>
    obtain ⟨a, v⟩ := e
    by_cases ha : a = k
    · subst ha
      simp [List.filter_cons_of_pos (h v), spGet]
    · have hb : (a == k) = false := by simpa using ha
      rw [List.filter_cons]
      split <;> simp [spGet, hb, ih]

/-- Registers of fields that F holds of, put out of the maps. -/
theorem rest_filter {q : Nat × Nat → Bool} (hq : ∀ f i v, ¬ F.fld f i → q (f.key i, v) = true) (hr : u.reg = s.reg.filter q)
    (hf : u.force = s.force.filter q ∨ u.force = s.force) (hs : u.shadow = s.shadow.filter q ∨ u.shadow = s.shadow)
    (hp : ∀ x, SamePart s u x)
    (ha : ∀ r, u.pfeR r = s.pfeR r ∧ u.tdcR r = s.tdcR r ∧ u.hstR r = s.hstR r ∧ u.accR r = s.accR r ∧ u.cmpR r = s.cmpR r) :
    rest F u = rest F s := by
  have key (m m' : Sp) (f : Fld) (i : Nat) (n : ¬ F.fld f i) (hm : m' = m.filter q ∨ m' = m) (d : Nat) :
      spGet m' (f.key i) d = spGet m (f.key i) d := by
    rcases hm with rfl | rfl
    · exact spGet_filter_of m d fun v => hq f i v n
    · rfl
  refine rest_eq_iff.2 ⟨fun f i n => ⟨?_, key _ _ f i n hs _⟩, fun x _ => hp x, fun r _ => ha r⟩
  unfold State.rd
  rw [key _ _ f i n hf, key _ _ f i n (.inl hr)]

/-- A register that F holds of, set. -/
theorem rest_wr_of {f : Fld} {i : Nat} (h : F.fld f i) (v : Nat) : rest F (s.wr f i v) = rest F s := by
  refine rest_eq_iff.2 ⟨fun g j n => ?_, fun x _ => ?_, fun q _ => ?_⟩
  · have hn : ¬ (f = g ∧ i = j) := by rintro ⟨rfl, rfl⟩; exact n h
    exact ⟨by rw [State.rd_wr, if_neg hn], State.rdSh_wr_of_ne v hn⟩
  · cases x <;> simp [SamePart]
  · simp [State.pfeR, State.tdcR, State.hstR, State.accR, State.cmpR]

theorem rest_wr (f : Fld) (h : F.may [] [f]) (i v : Nat) : rest F (s.wr f i v) = rest F s := rest_wr_of (h.fld i) v

theorem rest_wrOf (f : Fld) {i : Nat} (h : F.mayOf i [f]) (v : Nat) : rest F (s.wr f i v) = rest F s := rest_wr_of h.fld v

theorem rest_wrAt (f : Fld) {r : Fin 16} (h : F.mayAt r [f]) (v : Nat) : rest F (s.wr f r v) = rest F s := rest_wrOf f h.2 v

theorem rest_wrSh_of {f : Fld} {i : Nat} (h : F.fld f i) (v : Nat) : rest F (s.wrSh f i v) = rest F s := by
  refine rest_eq_iff.2 ⟨fun g j n => ⟨rfl, spGet_set_of_ne _ _ _ _ fun e => n ?_⟩, fun x _ => samePart_refl s x,
    fun _ _ => ⟨rfl, rfl, rfl, rfl, rfl⟩⟩
  obtain ⟨rfl, rfl⟩ := Fld.key_inj e
  exact h

theorem rest_wrSh (f : Fld) (h : F.may [] [f]) (i v : Nat) : rest F (s.wrSh f i v) = rest F s := rest_wrSh_of (h.fld i) v

/-! #### Parts -/

/-- The registers as they were, every part as it was but the part p, which F holds of,
  and what is kept of the regions as it was. -/
theorem rest_of_part {p : Part} (h : F.may [p] []) (hr : u.reg = s.reg) (hf : u.force = s.force) (hs : u.shadow = s.shadow)
    (hx : ∀ x, x ≠ p → SamePart s u x)
    (hq : ∀ q, ¬ F.region q → u.pfeR q = s.pfeR q ∧ u.tdcR q = s.tdcR q ∧ u.hstR q = s.hstR q ∧ u.accR q = s.accR q ∧
      u.cmpR q = s.cmpR q) : rest F u = rest F s :=
  rest_eq_iff.2 ⟨fun f i _ => ⟨State.rd_congr hr hf f i, State.rdSh_congr hs f i⟩,
    fun x n => hx x (fun e => n (e ▸ h.part)), hq⟩

theorem rest_pmr (h : F.may [.pmr] []) (x : Pmr) : rest F { s with pmr := x } = rest F s :=
  rest_of_part h rfl rfl rfl (fun y _ => by cases y <;> simp_all [SamePart]) fun _ _ => ⟨rfl, rfl, rfl, rfl, rfl⟩

theorem rest_flash (h : F.may [.flash] []) (x : Flash) : rest F { s with flash := x } = rest F s :=
  rest_of_part h rfl rfl rfl (fun y _ => by cases y <;> simp_all [SamePart]) fun _ _ => ⟨rfl, rfl, rfl, rfl, rfl⟩

theorem rest_sns (h : F.may [.sns] []) (x : Sns) : rest F { s with sns := x } = rest F s :=
  rest_of_part h rfl rfl rfl (fun y _ => by cases y <;> simp_all [SamePart]) fun _ _ => ⟨rfl, rfl, rfl, rfl, rfl⟩

theorem rest_tbs (h : F.may [.tbs] []) (x : Tbs) : rest F { s with tbs := x } = rest F s :=
  rest_of_part h rfl rfl rfl (fun y _ => by cases y <;> simp_all [SamePart]) fun _ _ => ⟨rfl, rfl, rfl, rfl, rfl⟩

theorem rest_seq (h : F.may [.seq] []) (x : Seq) : rest F { s with seq := x } = rest F s :=
  rest_of_part h rfl rfl rfl (fun y _ => by cases y <;> simp_all [SamePart]) fun _ _ => ⟨rfl, rfl, rfl, rfl, rfl⟩

theorem rest_evb (h : F.may [.evb] []) (x : Evb) : rest F { s with evb := x } = rest F s :=
  rest_of_part h rfl rfl rfl (fun y _ => by cases y <;> simp_all [SamePart]) fun _ _ => ⟨rfl, rfl, rfl, rfl, rfl⟩

theorem rest_que (h : F.may [.que] []) (x : Que) : rest F { s with que := x } = rest F s :=
  rest_of_part h rfl rfl rfl (fun y _ => by cases y <;> simp_all [SamePart]) fun _ _ => ⟨rfl, rfl, rfl, rfl, rfl⟩

theorem rest_edc (h : F.may [.edc] []) (x : Edc) : rest F { s with edc := x } = rest F s :=
  rest_of_part h rfl rfl rfl (fun y _ => by cases y <;> simp_all [SamePart]) fun _ _ => ⟨rfl, rfl, rfl, rfl, rfl⟩

theorem rest_trg (h : F.may [.trg] []) (x : Trg) : rest F { s with trg := x } = rest F s :=
  rest_of_part h rfl rfl rfl (fun y _ => by cases y <;> simp_all [SamePart]) fun _ _ => ⟨rfl, rfl, rfl, rfl, rfl⟩

theorem rest_lnk (h : F.may [.lnk] []) (x : Lnk) : rest F { s with lnk := x } = rest F s :=
  rest_of_part h rfl rfl rfl (fun y _ => by cases y <;> simp_all [SamePart]) fun _ _ => ⟨rfl, rfl, rfl, rfl, rfl⟩

theorem rest_tre (h : F.may [.tre] []) (x : Tre) : rest F { s with tre := x } = rest F s :=
  rest_of_part h rfl rfl rfl (fun y _ => by cases y <;> simp_all [SamePart]) fun _ _ => ⟨rfl, rfl, rfl, rfl, rfl⟩

theorem rest_hka (h : F.may [.hka] []) (x : Hka) : rest F { s with hka := x } = rest F s :=
  rest_of_part h rfl rfl rfl (fun y _ => by cases y <;> simp_all [SamePart]) fun _ _ => ⟨rfl, rfl, rfl, rfl, rfl⟩

theorem rest_flt (h : F.may [.flt] []) (x : Flt) : rest F { s with flt := x } = rest F s :=
  rest_of_part h rfl rfl rfl (fun y _ => by cases y <;> simp_all [SamePart]) fun _ _ => ⟨rfl, rfl, rfl, rfl, rfl⟩

theorem rest_eth (h : F.may [.eth] []) (x : Eth) : rest F { s with eth := x } = rest F s :=
  rest_of_part h rfl rfl rfl (fun y _ => by cases y <;> simp_all [SamePart]) fun _ _ => ⟨rfl, rfl, rfl, rfl, rfl⟩

theorem rest_ctl (h : F.may [.ctl] []) (x : Ctl) : rest F { s with ctl := x } = rest F s :=
  rest_of_part h rfl rfl rfl (fun y _ => by cases y <;> simp_all [SamePart]) fun _ _ => ⟨rfl, rfl, rfl, rfl, rfl⟩

theorem rest_detected (h : F.may [.detected] []) (x : List Det) : rest F { s with detected := x } = rest F s :=
  rest_of_part h rfl rfl rfl (fun y _ => by cases y <;> simp_all [SamePart]) fun _ _ => ⟨rfl, rfl, rfl, rfl, rfl⟩

theorem rest_staged (h : F.may [.staged] []) (x : Option Staged) : rest F { s with staged := x } = rest F s :=
  rest_of_part h rfl rfl rfl (fun y _ => by cases y <;> simp_all [SamePart]) fun _ _ => ⟨rfl, rfl, rfl, rfl, rfl⟩

theorem rest_held (h : F.may [.held] []) (x : Nat) : rest F { s with held := x } = rest F s :=
  rest_of_part h rfl rfl rfl (fun y _ => by cases y <;> simp_all [SamePart]) fun _ _ => ⟨rfl, rfl, rfl, rfl, rfl⟩

theorem rest_pwr (h : F.may [.pwr] []) (x : Pwr) : rest F { s with pwr := x } = rest F s :=
  rest_of_part h rfl rfl rfl (fun y _ => by cases y <;> simp_all [SamePart]) fun _ _ => ⟨rfl, rfl, rfl, rfl, rfl⟩

theorem rest_free (h : F.may [.free] []) (x : Nat) : rest F { s with free := x } = rest F s :=
  rest_of_part h rfl rfl rfl (fun y _ => by cases y <;> simp_all [SamePart]) fun _ _ => ⟨rfl, rfl, rfl, rfl, rfl⟩

theorem rest_lastRead (h : F.may [.lastRead] []) (x : Nat) : rest F { s with lastRead := x } = rest F s :=
  rest_of_part h rfl rfl rfl (fun y _ => by cases y <;> simp_all [SamePart]) fun _ _ => ⟨rfl, rfl, rfl, rfl, rfl⟩

theorem rest_out (h : F.may [.out] []) (x : List Out) : rest F { s with out := x } = rest F s :=
  rest_of_part h rfl rfl rfl (fun y _ => by cases y <;> simp_all [SamePart]) fun _ _ => ⟨rfl, rfl, rfl, rfl, rfl⟩

theorem rest_evSeq (h : F.may [.events] []) (x : Nat) : rest F { s with evSeq := x } = rest F s :=
  rest_of_part h rfl rfl rfl (fun y _ => by cases y <;> simp_all [SamePart]) fun _ _ => ⟨rfl, rfl, rfl, rfl, rfl⟩

theorem rest_evq (h : F.may [.events] []) (x : List EvRec) : rest F { s with evq := x } = rest F s :=
  rest_of_part h rfl rfl rfl (fun y _ => by cases y <;> simp_all [SamePart]) fun _ _ => ⟨rfl, rfl, rfl, rfl, rfl⟩

theorem rest_evUp (h : F.may [.events] []) (x : List EvRec) : rest F { s with evUp := x } = rest F s :=
  rest_of_part h rfl rfl rfl (fun y _ => by cases y <;> simp_all [SamePart]) fun _ _ => ⟨rfl, rfl, rfl, rfl, rfl⟩

theorem rest_evLost (h : F.may [.events] []) (x : Nat) : rest F { s with evLost := x } = rest F s :=
  rest_of_part h rfl rfl rfl (fun y _ => by cases y <;> simp_all [SamePart]) fun _ _ => ⟨rfl, rfl, rfl, rfl, rfl⟩

theorem rest_cab (h : F.may [.cab] []) (x : Cab) (hm : x.mem = s.cab.mem) : rest F { s with cab := x } = rest F s :=
  rest_of_part h rfl rfl rfl (fun y _ => by cases y <;> simp_all [SamePart]) fun _ _ => ⟨rfl, rfl, rfl, rfl, rfl⟩

theorem rest_mem (h : F.may [.mem] []) (x : Sp) : rest F { s with cab := { s.cab with mem := x } } = rest F s :=
  rest_of_part h rfl rfl rfl (fun y _ => by cases y <;> simp_all [SamePart]) fun _ _ => ⟨rfl, rfl, rfl, rfl, rfl⟩

theorem rest_pfe (h : F.may [.pfe] []) (x : Pfe) (hr : x.r = s.pfe.r) : rest F { s with pfe := x } = rest F s :=
  rest_of_part h rfl rfl rfl (fun y _ => by cases y <;> simp_all [SamePart]) fun q _ => by
    simp [State.pfeR, State.tdcR, State.hstR, State.accR, State.cmpR, hr]

theorem rest_tdc (h : F.may [.tdc] []) (x : Tdc) (hr : x.r = s.tdc.r) : rest F { s with tdc := x } = rest F s :=
  rest_of_part h rfl rfl rfl (fun y _ => by cases y <;> simp_all [SamePart]) fun q _ => by
    simp [State.pfeR, State.tdcR, State.hstR, State.accR, State.cmpR, hr]

theorem rest_hst (h : F.may [.hst] []) (x : Hst) (hr : x.r = s.hst.r) : rest F { s with hst := x } = rest F s :=
  rest_of_part h rfl rfl rfl (fun y _ => by cases y <;> simp_all [SamePart]) fun q _ => by
    simp [State.pfeR, State.tdcR, State.hstR, State.accR, State.cmpR, hr]

theorem rest_accum (h : F.may [.accum] []) (x : Accum) (hr : x.r = s.accum.r) : rest F { s with accum := x } = rest F s :=
  rest_of_part h rfl rfl rfl (fun y _ => by cases y <;> simp_all [SamePart]) fun q _ => by
    simp [State.pfeR, State.tdcR, State.hstR, State.accR, State.cmpR, hr]

theorem rest_cmp (h : F.may [.cmp] []) (x : Cmp) (hr : x.r = s.cmp.r) : rest F { s with cmp := x } = rest F s :=
  rest_of_part h rfl rfl rfl (fun y _ => by cases y <;> simp_all [SamePart]) fun q _ => by
    simp [State.pfeR, State.tdcR, State.hstR, State.accR, State.cmpR, hr]

theorem State.rest_setPfeR (h : F.may [.pfe] []) {r : Fin 16} (hr : F.mayAt r []) (x : PfeR) :
    rest F (s.setPfeR r x) = rest F s := by
  unfold State.setPfeR
  refine rest_of_part h rfl rfl rfl (fun y _ => by cases y <;> simp_all [SamePart]) fun q hq => ?_
  have hn : r.val ≠ q.val := fun e => hq (Fin.ext e ▸ hr.1)
  simp [State.pfeR, State.tdcR, State.hstR, State.accR, State.cmpR, Vector.getElem_set_ne, hn]

theorem State.rest_setTdcR (h : F.may [.tdc] []) {r : Fin 16} (hr : F.mayAt r []) (x : TdcR) :
    rest F (s.setTdcR r x) = rest F s := by
  unfold State.setTdcR
  refine rest_of_part h rfl rfl rfl (fun y _ => by cases y <;> simp_all [SamePart]) fun q hq => ?_
  have hn : r.val ≠ q.val := fun e => hq (Fin.ext e ▸ hr.1)
  simp [State.pfeR, State.tdcR, State.hstR, State.accR, State.cmpR, Vector.getElem_set_ne, hn]

theorem State.rest_setHstR (h : F.may [.hst] []) {r : Fin 16} (hr : F.mayAt r []) (x : HstR) :
    rest F (s.setHstR r x) = rest F s := by
  unfold State.setHstR
  refine rest_of_part h rfl rfl rfl (fun y _ => by cases y <;> simp_all [SamePart]) fun q hq => ?_
  have hn : r.val ≠ q.val := fun e => hq (Fin.ext e ▸ hr.1)
  simp [State.pfeR, State.tdcR, State.hstR, State.accR, State.cmpR, Vector.getElem_set_ne, hn]

theorem State.rest_setAccR (h : F.may [.accum] []) {r : Fin 16} (hr : F.mayAt r []) (x : AccR) :
    rest F (s.setAccR r x) = rest F s := by
  unfold State.setAccR
  refine rest_of_part h rfl rfl rfl (fun y _ => by cases y <;> simp_all [SamePart]) fun q hq => ?_
  have hn : r.val ≠ q.val := fun e => hq (Fin.ext e ▸ hr.1)
  simp [State.pfeR, State.tdcR, State.hstR, State.accR, State.cmpR, Vector.getElem_set_ne, hn]

theorem State.rest_setCmpR (h : F.may [.cmp] []) {r : Fin 16} (hr : F.mayAt r []) (x : CmpR) :
    rest F (s.setCmpR r x) = rest F s := by
  unfold State.setCmpR
  refine rest_of_part h rfl rfl rfl (fun y _ => by cases y <;> simp_all [SamePart]) fun q hq => ?_
  have hn : r.val ≠ q.val := fun e => hq (Fin.ext e ▸ hr.1)
  simp [State.pfeR, State.tdcR, State.hstR, State.accR, State.cmpR, Vector.getElem_set_ne, hn]


/-! #### Combinators -/

theorem rest_ite (c : Prop) [Decidable c] : rest F (if c then s else u) = if c then rest F s else rest F u := by
  split <;> rfl

theorem rest_ite_eq {c : Prop} [Decidable c] {q : Quotient F.setoid} (hs : rest F s = q) (hu : rest F u = q) :
    rest F (if c then s else u) = q := by
  split <;> assumption

theorem rest_when_at {f : State → State} (hf : rest F (f s) = rest F s) (c : Bool) : rest F (s.when c f) = rest F s := by
  unfold State.when
  split
  · exact hf
  · rfl

theorem rest_when {f : State → State} (hf : ∀ x, rest F (f x) = rest F x) (c : Bool) : rest F (s.when c f) = rest F s :=
  rest_when_at (hf s) c

theorem rest_on_at {f : State → State} (hf : rest F (f s) = rest F s) (b : Blk) : rest F (s.on b f) = rest F s := by
  unfold State.on
  split
  · exact hf
  · rfl

theorem rest_on {f : State → State} (hf : ∀ x, rest F (f x) = rest F x) (b : Blk) : rest F (s.on b f) = rest F s :=
  rest_on_at (hf s) b

theorem rest_getD {e : Option State} (he : ∀ u, e = some u → rest F u = rest F s) : rest F (e.getD s) = rest F s := by
  cases e with
  | none => rfl
  | some u => exact he u rfl

theorem rest_elim {α : Type} (e : Option α) {f : α → State} (hf : ∀ a, rest F (f a) = rest F s) :
    rest F (e.elim s f) = rest F s := by
  cases e with
  | none => rfl
  | some a => exact hf a

theorem rest_foldl {α : Type} {f : State → α → State} (hf : ∀ x a, rest F (f x a) = rest F x) (l : List α) :
    rest F (l.foldl f s) = rest F s := by
  induction l generalizing s with
  | nil => rfl
  | cons a l ih => exact ih.trans (hf s a)

theorem rest_each {α : Type} {f : α → State → State} (hf : ∀ a x, rest F (f a x) = rest F x) (l : List α) :
    rest F (s.each l f) = rest F s :=
  rest_foldl (fun x a => hf a x) l

theorem rest_foldl_pair {α β : Type} {f : State × β → α → State × β} (hf : ∀ x a, rest F (f x a).1 = rest F x.1) (l : List α)
    (x : State × β) : rest F (l.foldl f x).1 = rest F x.1 := by
  induction l generalizing x with
  | nil => rfl
  | cons a l ih => exact (ih _).trans (hf x a)

theorem rest_fst {α : Type} {e : State × α} {x : State} {a : α} (he : e = (x, a)) : rest F x = rest F e.1 := by
  subst he; rfl

theorem rest_clock (c : Nat) (p : List Instr) : rest F { s with clock := c, pending := p } = rest F s :=
  rest_eq_iff.2 ⟨fun _ _ _ => ⟨rfl, rfl⟩, fun x _ => by cases x <;> simp [SamePart], fun _ _ => ⟨rfl, rfl, rfl, rfl, rfl⟩⟩

theorem rest_at (t : Nat) : rest F (s.at t) = rest F s := rest_clock _ _

theorem rest_stamp (c : Nat) (p : List Instr) : rest F (s.stamp c p) = rest F s := rest_clock c p

end Sys2Proof.Machine
end

/-! ### What each operation leaves as it was: one rule per operation of the model (R6) -/

section
namespace Sys2Proof.Machine
open Sys2Proof Safety
variable {F : Foot} {s u v : State}
set_option Elab.async false

/-! #### The named operations every block shares -/

theorem State.rest_fresh (h : F.may [.free] []) : rest F s.fresh = rest F s := by
  simp only [State.fresh, rest_free h.sub, eq_self]

theorem State.rest_queueEv (h : F.may [.events] [.eth_EVQ_LOST]) (r : EvRec) : rest F (s.queueEv r) = rest F s := by
  simp only [State.queueEv, State.bump_eq, rest_evLost h.sub, rest_evq h.sub, rest_wr .eth_EVQ_LOST h.sub, rest_ite, ite_self,
    eq_self]

theorem State.rest_raiseEv (h : F.may [.events] []) (r : EvRec) : rest F (s.raiseEv r) = rest F s := by
  simp only [State.raiseEv, rest_evUp h.sub, rest_ite, ite_self, eq_self]

theorem State.rest_emitAs (h : F.may [.events] [.eth_EVQ_LOST]) (sev cls flags ty data : ℕ) :
    rest F (s.emitAs sev cls flags ty data) = rest F s := by
  simp only [State.emitAs, rest_evSeq h.sub, State.rest_raiseEv h.sub, State.rest_queueEv h.sub, eq_self]

theorem State.rest_emit (h : F.may [.events] [.eth_EVQ_LOST]) (ty data : ℕ) : rest F (s.emit ty data) = rest F s := by
  simp only [State.emit, State.rest_emitAs h.sub, eq_self]

theorem State.rest_detect (h : F.may [.detected] []) (cls lvl unit : ℕ) (ev more : Option (ℕ × ℕ)) (par : Bool) :
    rest F (s.detect cls lvl unit ev more par) = rest F s := by
  simp only [State.detect, rest_detected h.sub, eq_self]

theorem State.rest_flashUpd (h : F.may [.flash] []) (f : Flash → Flash) : rest F (s.flashUpd f) = rest F s := by
  simp only [State.flashUpd, rest_flash h.sub, eq_self]

theorem State.rest_bootRec (h : F.may [.flash] []) (f : Flash → Flash) : rest F (s.bootRec f) = rest F s := by
  simp only [State.bootRec, State.rest_flashUpd h.sub, eq_self]

/-! #### The lines of the record store and their protection -/

theorem State.rest_setByte (h : F.may [.mem] []) (a v : ℕ) : rest F (s.setByte a v) = rest F s := by
  simp only [State.setByte, rest_mem h.sub, eq_self]

theorem State.rest_putLine (h : F.may [.mem] []) (q p b : ℕ) (l : List ℕ) : rest F (s.putLine q p b l) = rest F s := by
  simp only [State.putLine, State.rest_setByte h.sub, rest_each, eq_self, implies_true]

theorem State.rest_setMem (h : F.may [.mem] []) (p b : ℕ) (l : List ℕ) : rest F (s.setMem p b l) = rest F s := by
  simp only [State.setMem, State.rest_putLine h.sub, rest_each, eq_self, implies_true]

theorem State.rest_flip (h : F.may [.mem] []) (errs : List (ℕ × ℕ)) : rest F (s.flip errs) = rest F s := by
  simp only [State.flip, rest_mem h.sub, rest_each, eq_self, implies_true]

theorem State.rest_writeLine (h : F.may [.mem] []) (x : Shelf) (g0 i : ℕ) (data : List ℕ) :
    rest F (s.writeLine x g0 i data) = rest F s := by
  simp only [State.writeLine, State.rest_setMem h.sub, eq_self]

theorem State.rest_edcLog (h : F.may [.edc] [.edc_LOG_HEAD]) (e : EdcLog) : rest F (s.edcLog e) = rest F s := by
  simp only [State.edcLog, rest_edc h.sub, rest_wr .edc_LOG_HEAD h.sub, eq_self]

theorem State.rest_poolRegs (h : F.may [.detected] [.edc_POOL_EXH, .edc_POOL_LOW, .edc_SPANS_MAPPED, .edc_SPARE_FREE]) (c : ℕ)
    : rest F (s.poolRegs c) = rest F s := by
  simp only [State.poolRegs, State.wrB_eq, rest_wr .edc_SPANS_MAPPED h.sub, rest_wr .edc_SPARE_FREE h.sub,
    rest_wr .edc_POOL_LOW h.sub, rest_wr .edc_POOL_EXH h.sub, State.rest_detect h.sub, rest_when, eq_self, implies_true]

theorem State.rest_mergePush (h : F.may [.cab] []) (o : MergeOp) : rest F (s.mergePush o) = rest F s := by
  simp only [State.mergePush, rest_cab h.sub, rest_ite, ite_self, eq_self]

theorem State.rest_mergeFeed (h : F.may [.cab] []) (n : ℕ) : rest F (s.mergeFeed n) = rest F s := by
  induction n generalizing s with
  | zero => rfl
  | succ n ih =>
    unfold State.mergeFeed
    split
    · rfl
    · split
      · exact ih.trans (rest_cab h.sub _ rfl)
      · rfl

theorem State.rest_mergeBack (h : F.may [.cab] [.edc_WB_SKIP]) (p : ℕ) : rest F (s.mergeBack p) = rest F s := by
  simp only [State.mergeBack, State.bump_eq, rest_wr .edc_WB_SKIP h.sub, State.rest_mergePush h.sub, rest_ite, ite_self,
    eq_self]

theorem State.rest_patchLost (h : F.may [.events] [.edc_PATCH_LOST, .eth_EVQ_LOST]) (p : ℕ) :
    rest F (s.patchLost p) = rest F s := by
  simp only [State.patchLost, State.bump_eq, rest_wr .edc_PATCH_LOST h.sub, State.rest_emit h.sub, eq_self]

theorem State.rest_spareSpan (h : F.may [.cab, .edc, .detected] [.edc_POOL_EXH, .edc_POOL_LOW, .edc_SPANS_MAPPED,
    .edc_SPARE_FREE]) (p : ℕ) : rest F (s.spareSpan p) = rest F s := by
  unfold State.spareSpan
  dsimp only
  split
  · rfl
  · split
    · rfl
    · simp only [rest_edc h.sub, State.rest_poolRegs h.sub, State.rest_mergePush h.sub, rest_each, eq_self, implies_true]

theorem State.rest_lineFixed (h : F.may [.cab, .edc, .detected] [.edc_HARD_LINES, .edc_LOG_HEAD, .edc_POOL_EXH, .edc_POOL_LOW,
    .edc_SPANS_MAPPED, .edc_SPARE_FREE, .edc_STORE_CORR, .edc_TRACK_OVF]) (p n src : ℕ) :
    rest F (s.lineFixed p n src) = rest F s := by
  simp only [State.lineFixed, State.wrB_eq, State.bump_eq, rest_edc h.sub, rest_wr .edc_STORE_CORR h.sub,
    rest_wr .edc_TRACK_OVF h.sub, rest_wr .edc_HARD_LINES h.sub, State.rest_edcLog h.sub, State.rest_spareSpan h.sub, rest_ite,
    ite_self, eq_self]

theorem State.rest_moveDone (h : F.may [.edc, .detected] [.edc_POOL_EXH, .edc_POOL_LOW, .edc_SPANS_MAPPED, .edc_SPARE_FREE])
    (m : Move) : rest F (s.moveDone m) = rest F s := by
  simp only [State.moveDone, rest_edc h.sub, State.rest_detect h.sub, State.rest_poolRegs h.sub, eq_self]

theorem State.rest_corrected (h : F.may [.cab, .edc, .detected] [.edc_HARD_LINES, .edc_LOG_HEAD, .edc_POOL_EXH, .edc_POOL_LOW,
    .edc_SPANS_MAPPED, .edc_SPARE_FREE, .edc_STORE_CORR, .edc_TRACK_OVF, .edc_WB_SKIP]) (p n src : ℕ) :
    rest F (s.corrected p n src) = rest F s := by
  simp only [State.corrected, State.rest_mergeBack h.sub, State.rest_lineFixed h.sub, eq_self]

theorem State.rest_checkFixed (h : F.may [.cab, .edc, .detected] [.edc_HARD_LINES, .edc_LOG_HEAD, .edc_POOL_EXH, .edc_POOL_LOW,
    .edc_SPANS_MAPPED, .edc_SPARE_FREE, .edc_STORE_CORR, .edc_TRACK_OVF, .edc_WB_SKIP]) (x : Shelf) (g0 : ℕ) :
    rest F (s.checkFixed x g0).1 = rest F s := by
  unfold State.checkFixed
  refine rest_foldl_pair (fun x i => ?_) _ _
  split
  · exact State.rest_corrected h.sub _ _ _
  · rfl

theorem State.rest_copyTo (h : F.may [.mem, .edc, .detected] [.edc_POOL_EXH, .edc_POOL_LOW, .edc_SPANS_MAPPED,
    .edc_SPARE_FREE]) (p k : ℕ) (d : List ℕ) : rest F (s.copyTo p k d) = rest F s := by
  unfold State.copyTo
  dsimp only
  split <;> simp only [rest_edc h.sub, State.rest_putLine h.sub, State.rest_moveDone h.sub, rest_ite, ite_self, eq_self]

theorem State.rest_poisonLine (h : F.may [.mem] []) (p : ℕ) : rest F (s.poisonLine p) = rest F s := by
  simp only [State.poisonLine, State.rest_setMem h.sub, eq_self]

theorem State.rest_poisonNow (h : F.may [.cab, .events] [.edc_PATCH_LOST, .eth_EVQ_LOST]) (p : ℕ) :
    rest F (s.poisonNow p) = rest F s := by
  simp only [State.poisonNow, rest_cab h.sub, State.rest_mergePush h.sub, State.rest_patchLost h.sub, rest_each, rest_foldl,
    eq_self, implies_true]

theorem State.rest_takeBad (h : F.may [.cab] []) (t : Take) (q b : ℕ) : rest F (s.takeBad t q b) = rest F s := by
  simp only [State.takeBad, rest_cab h.sub, eq_self]

theorem State.rest_lineBad (h : F.may [.cab, .edc, .detected, .events] [.edc_LOG_HEAD, .edc_PATCH_LOST, .edc_POISONED,
    .edc_STORE_UNCORR, .eth_EVQ_LOST]) (p src : ℕ) : rest F (s.lineBad p src) = rest F s := by
  simp only [State.lineBad, State.bump_eq, rest_cab h.sub, rest_wr .edc_POISONED h.sub, rest_wr .edc_STORE_UNCORR h.sub,
    State.rest_poisonNow h.sub, State.rest_edcLog h.sub, State.rest_takeBad h.sub, State.rest_detect h.sub, rest_each, eq_self,
    implies_true]

theorem State.rest_sysRewrite (h : F.may [.cab, .mem, .edc, .detected] [.edc_HARD_LINES, .edc_LOG_HEAD, .edc_POOL_EXH,
    .edc_POOL_LOW, .edc_SPANS_MAPPED, .edc_SPARE_FREE, .edc_STORE_CORR, .edc_TRACK_OVF, .edc_WB_SKIP]) (n i : ℕ) :
    rest F (s.sysRewrite n i) = rest F s := by
  unfold State.sysRewrite
  dsimp only
  split <;> simp only [State.rest_writeLine h.sub, State.rest_corrected h.sub, eq_self]

theorem State.rest_copyRun (h : F.may [.cab, .mem, .edc, .detected, .events] (storeRegs ++ [Fld.eth_EVQ_LOST])) (p k : ℕ) :
    rest F (s.copyRun p k) = rest F s := by
  unfold State.copyRun
  split
  · split
    · simp only [State.rest_copyTo h.sub, eq_self]
    · split
      · simp only [State.rest_copyTo h.sub, State.rest_checkFixed h.sub, eq_self]
      · split <;> simp only [State.rest_copyTo h.sub, State.rest_lineFixed h.sub, State.rest_mergePush h.sub,
          State.rest_lineBad h.sub, eq_self]

theorem State.rest_homeRun (h : F.may [.cab, .mem, .edc, .detected, .events] (storeRegs ++ [Fld.eth_EVQ_LOST])) (p : ℕ) :
    rest F (s.homeRun p) = rest F s := by
  unfold State.homeRun
  split
  · split
    · simp only [State.rest_putLine h.sub, eq_self]
    · split
      · simp only [State.rest_putLine h.sub, State.rest_checkFixed h.sub, eq_self]
      · split <;> simp only [State.rest_putLine h.sub, State.rest_lineFixed h.sub, State.rest_mergePush h.sub,
          State.rest_lineBad h.sub, eq_self]

theorem State.rest_headRun (h : F.may [.cab, .mem, .edc, .detected, .events] [.edc_HARD_LINES, .edc_LOG_HEAD, .edc_PATCH_LOST,
    .edc_POISONED, .edc_POOL_EXH, .edc_POOL_LOW, .edc_SPANS_MAPPED, .edc_SPARE_FREE, .edc_STORE_CORR, .edc_STORE_UNCORR,
    .edc_TRACK_OVF, .eth_EVQ_LOST]) (p : ℕ) (l : List ℕ) : rest F (s.headRun p l) = rest F s := by
  unfold State.headRun
  split
  · split
    · simp only [State.rest_writeLine h.sub, eq_self]
    · simp only [State.rest_writeLine h.sub, State.rest_lineFixed h.sub, eq_self]
    · rfl
    · simp only [State.rest_lineBad h.sub, eq_self]

theorem State.rest_backRun (h : F.may [.cab, .mem, .edc, .detected, .events] (storeRegs ++ [Fld.eth_EVQ_LOST])) (p : ℕ) :
    rest F (s.backRun p) = rest F s := by
  unfold State.backRun
  split
  · split
    · simp only [State.rest_writeLine h.sub, eq_self]
    · simp only [State.rest_writeLine h.sub, eq_self]
    · rfl
    · split <;> simp only [State.rest_sysRewrite h.sub, State.rest_lineBad h.sub, eq_self]

theorem State.rest_mergeRun (h : F.may [.cab, .mem, .edc, .detected, .events] (storeRegs ++ [Fld.eth_EVQ_LOST])) (o : MergeOp)
    : rest F (s.mergeRun o) = rest F s := by
  unfold State.mergeRun
  split
  · simp only [State.rest_poisonLine h.sub, eq_self]
  · simp only [State.rest_copyRun h.sub, eq_self]
  · simp only [State.rest_homeRun h.sub, eq_self]
  · simp only [State.rest_headRun h.sub, eq_self]
  · simp only [State.rest_backRun h.sub, eq_self]
  · split
    split <;> simp only [State.rest_writeLine h.sub, State.rest_lineFixed h.sub, State.rest_patchLost h.sub,
      State.rest_lineBad h.sub, eq_self]

theorem State.rest_mergeDone (h : F.may [.cab, .mem, .edc, .detected, .events] (storeRegs ++ [Fld.eth_EVQ_LOST])) :
    rest F s.mergeDone = rest F s := by
  unfold State.mergeDone
  split <;> simp only [rest_cab h.sub, State.rest_mergeFeed h.sub, State.rest_mergeRun h.sub, eq_self]

theorem State.rest_mergeDrain (h : F.may [.cab, .mem, .edc, .detected, .events] (storeRegs ++ [Fld.eth_EVQ_LOST])) (n : ℕ) :
    rest F (s.mergeDrain n) = rest F s := by
  induction n generalizing s with
  | zero => rfl
  | succ n ih =>
    unfold State.mergeDrain
    split
    · rfl
    · exact ih.trans (State.rest_mergeDone h.sub)

theorem State.rest_fetchLine (h : F.may [.cab, .edc, .detected, .events] (storeRegs ++ [Fld.eth_EVQ_LOST])) (p src : ℕ) :
    rest F (s.fetchLine p src).1 = rest F s := by
  unfold State.fetchLine
  split
  · split
    · rfl
    · simp only [State.rest_corrected h.sub, eq_self]
    · rfl
    · simp only [State.rest_lineBad h.sub, eq_self]

theorem State.rest_sramHard (h : F.may [.que, .edc, .detected] [.edc_SRAM_SPARE_EXH]) (x : SramHit) :
    rest F (s.sramHard x) = rest F s := by
  unfold State.sramHard
  dsimp only
  split
  · exact rest_edc h.sub _
  · split
    · split
      · simp only [State.wrB_eq, rest_wr .edc_SRAM_SPARE_EXH h.sub, State.rest_detect h.sub, eq_self]
      · exact rest_que h.sub _
    · simp only [State.wrB_eq, rest_wr .edc_SRAM_SPARE_EXH h.sub, State.rest_detect h.sub, eq_self]

theorem State.rest_sramFixed (h : F.may [.que, .edc, .detected] [.edc_LOG_HEAD, .edc_SRAM_CORR, .edc_SRAM_SPARE_EXH])
    (x : SramHit) : rest F (s.sramFixed x) = rest F s := by
  simp only [State.sramFixed, State.bump_eq, rest_edc h.sub, rest_wr .edc_SRAM_CORR h.sub, State.rest_edcLog h.sub,
    State.rest_sramHard h.sub, rest_ite, ite_self, eq_self]

/-! #### CAB -/

theorem State.rest_cabUpd (h : F.may [.cab] []) {f : Cab → Cab} (hf : ∀ c, (f c).mem = c.mem) :
    rest F (s.cabUpd f) = rest F s := by
  exact rest_cab h.sub _ (hf _)

theorem State.rest_setReel (h : F.may [.cab] []) (x : Reel) : rest F (s.setReel x) = rest F s := by
  simp only [State.setReel, State.rest_cabUpd h.sub, eq_self, implies_true]

theorem State.rest_setTake (h : F.may [.cab] []) (x : Take) : rest F (s.setTake x) = rest F s := by
  simp only [State.setTake, State.rest_cabUpd h.sub, eq_self, implies_true]

theorem State.rest_dropExt (h : F.may [.evb, .cab] []) (r : Reel) (q : ℕ) : rest F (s.dropExt r q) = rest F s := by
  simp only [State.dropExt, rest_evb h.sub, State.rest_setReel h.sub, State.rest_cabUpd h.sub, eq_self, implies_true]

theorem State.rest_reelFull (h : F.may [.cab, .events] [.eth_EVQ_LOST]) (n : ℕ) : rest F (s.reelFull n) = rest F s := by
  unfold State.reelFull
  split
  · rfl
  · simp only [State.rest_setReel h.sub, State.rest_emit h.sub, rest_ite, ite_self, eq_self]

theorem State.rest_freeNext (h : F.may [.evb, .cab] []) {r : Reel} {u : State} (he : s.freeNext r = some u) :
    rest F u = rest F s := by
  unfold State.freeNext at he
  split at he
  · cases he
    rfl
  · split at he
    · cases he
    · dsimp only at he
      split at he
      · cases he
      · split at he
        · split at he
          · cases he
            simp only [State.rest_dropExt h.sub, State.rest_cabUpd h.sub, eq_self, implies_true]
          · cases he
        · cases he
          simp only [State.rest_dropExt h.sub, eq_self]

theorem State.rest_allocExt (h : F.may [.evb, .cab, .events] [.eth_EVQ_LOST]) {n prod tk : ℕ} {u : State}
    (he : s.allocExt n prod tk = some u) : rest F u = rest F s := by
  unfold State.allocExt at he
  split at he
  · cases he
  · split at he
    · next hx11 =>
      cases he
    · next hx11 =>
      split at he
      · cases he
      · dsimp only at he
        cases he
        simp only [State.rest_freeNext h.sub hx11, State.rest_setReel h.sub, State.rest_cabUpd h.sub,
          State.rest_reelFull h.sub, eq_self, implies_true]

theorem State.rest_setSlot (h : F.may [.cab] []) (x : Slot) : rest F (s.setSlot x) = rest F s := by
  simp only [State.setSlot, State.rest_cabUpd h.sub, eq_self, implies_true]

theorem State.rest_closeExt (h : F.may [.cab] []) (n prod : ℕ) : rest F (s.closeExt n prod) = rest F s := by
  unfold State.closeExt
  split
  · rfl
  · split
    · rfl
    · dsimp only
      split <;> simp only [State.rest_setReel h.sub, State.rest_setSlot h.sub, eq_self]

theorem State.rest_readyExt (h : F.may [.evb, .cab, .events] [.eth_EVQ_LOST]) {n prod tk : ℕ} {start : Bool} {u : State}
    (he : s.readyExt n prod tk start = some u) : rest F u = rest F s := by
  unfold State.readyExt at he
  split at he
  · cases he
  · split at he
    · split at he
      · dsimp only at he
        split at he
        · cases he
          simp only [State.rest_closeExt h.sub, eq_self]
        · refine (State.rest_allocExt h.sub he).trans ?_
          simp only [State.rest_closeExt h.sub, eq_self]
      · cases he
        rfl
    · split at he
      · cases he
        rfl
      · exact State.rest_allocExt h.sub he

theorem State.rest_refreshHeader (h : F.may [.cab] []) (n q : ℕ) : rest F (s.refreshHeader n q) = rest F s := by
  unfold State.refreshHeader
  split
  · rfl
  · split
    · simp only [State.rest_mergePush h.sub, rest_ite, ite_self, eq_self]
    · rfl

theorem State.rest_cabPut (h : F.may [.evb, .cab, .events] [.eth_EVQ_LOST]) {n prod : ℕ} {pid : PktId} {start : Bool}
    {bytes : List ℕ} {u : State} {a : ℕ} (he : s.cabPut n prod pid start bytes = some (u, a)) : rest F u = rest F s := by
  unfold State.cabPut at he
  split at he
  · next hx12 =>
    cases he
  · next hx12 =>
    split at he
    · cases he
    · split at he
      · cases he
        simp only [State.rest_readyExt h.sub hx12, eq_self]
      · dsimp only at he
        split at he
        · cases he
          simp only [State.rest_readyExt h.sub hx12, eq_self]
        · cases he
          simp only [State.rest_readyExt h.sub hx12, State.rest_setSlot h.sub, State.rest_setReel h.sub,
            State.rest_refreshHeader h.sub, State.rest_cabUpd h.sub, rest_ite, ite_self, eq_self, implies_true]

theorem State.rest_groupWrite (h : F.may [.cab, .mem] []) (prod n : ℕ) : rest F (s.groupWrite prod n) = rest F s := by
  unfold State.groupWrite
  split
  · split
    · split <;> simp only [State.rest_cabUpd h.sub, State.rest_writeLine h.sub, State.rest_poisonLine h.sub,
        State.rest_setReel h.sub, rest_each, eq_self, implies_true]
    · rfl
  · rfl

theorem State.rest_pktLen (h : F.may [.cab] []) (pid : PktId) (prod len : ℕ) : rest F (s.pktLen pid prod len) = rest F s := by
  simp only [State.pktLen, State.rest_cabUpd h.sub, eq_self, implies_true]

theorem State.rest_patchPush (h : F.may [.cab] []) {pid : PktId} {r : Reel} {q y val : ℕ} {u : State}
    (he : s.patchPush pid r q y val = some u) : rest F u = rest F s := by
  unfold State.patchPush at he
  split at he
  · split at he
    · cases he
      simp only [State.rest_mergePush h.sub, eq_self]
    · cases he

theorem State.rest_patchIn (h : F.may [.cab] []) {pid : PktId} {prod val : ℕ} {u : State}
    (he : s.patchIn pid prod val = some u) : rest F u = rest F s := by
  unfold State.patchIn at he
  split at he
  · cases he
    rfl
  · split at he
    · cases he
      rfl
    · dsimp only at he
      split at he
      · split at he
        · cases he
          simp only [State.rest_setSlot h.sub, eq_self]
        · exact State.rest_patchPush h.sub he
      · exact State.rest_patchPush h.sub he

theorem State.rest_readExtLine (h : F.may [.cab, .edc, .detected, .events] (storeRegs ++ [Fld.eth_EVQ_LOST])) (r : Reel)
    (prod q y : ℕ) : rest F (s.readExtLine r prod q y).1 = rest F s := by
  unfold State.readExtLine
  dsimp only
  split
  · split
    · rfl
    · simp only [State.rest_fetchLine h.sub, eq_self]
  · simp only [State.rest_fetchLine h.sub, eq_self]

theorem State.rest_readExtLines (h : F.may [.cab, .edc, .detected, .events] (storeRegs ++ [Fld.eth_EVQ_LOST])) (r : Reel)
    (prod q : ℕ) (l : List ℕ) : rest F (s.readExtLines r prod q l).1 = rest F s := by
  induction l generalizing s with
  | nil => rfl
  | cons y l ih =>
    unfold State.readExtLines
    have hy := State.rest_readExtLine (s := s) h.sub r prod q y
    split
    next he => rw [← hy, he]
    next u d he =>
      have hu : rest F u = rest F s := by rw [← hy, he]
      split
      next hl => rw [← hu, ← ih (s := u), hl]
      next hl => rw [← hu, ← ih (s := u), hl]

theorem State.rest_readSpan (h : F.may [.cab, .edc, .detected, .events] (storeRegs ++ [Fld.eth_EVQ_LOST])) (r : Reel)
    (prod q off n : ℕ) : rest F (s.readSpan r prod q off n).1 = rest F s := by
  unfold State.readSpan
  dsimp only
  split
  · next he12 =>
    simp only [rest_fst he12, State.rest_readExtLines h.sub, eq_self]
  · next he12 =>
    simp only [rest_fst he12, State.rest_readExtLines h.sub, eq_self]

theorem State.rest_readPkt (h : F.may [.cab, .edc, .detected, .events] (storeRegs ++ [Fld.eth_EVQ_LOST])) (p : PktRef) :
    rest F (s.readPkt p).1 = rest F s := by
  unfold State.readPkt
  split
  · rfl
  · dsimp only
    split
    · next he11 =>
      simp only [rest_fst he11, State.rest_readExtLines h.sub, eq_self]
    · next he11 =>
      split
      · next he10 =>
        simp only [rest_fst he10, rest_fst he11, State.rest_readExtLines h.sub, State.rest_readSpan h.sub, eq_self]
      · next he10 =>
        split
        · simp only [rest_fst he10, rest_fst he11, State.rest_readExtLines h.sub, State.rest_readSpan h.sub, eq_self]
        · split
          · simp only [rest_fst he10, rest_fst he11, State.rest_readExtLines h.sub, State.rest_readSpan h.sub, eq_self]
          · split
            · next he7 =>
              simp only [rest_fst he7, rest_fst he10, rest_fst he11, State.rest_readExtLines h.sub, State.rest_readSpan h.sub,
                eq_self]
            · next he7 =>
              split
              · next he6 =>
                simp only [rest_fst he6, rest_fst he7, rest_fst he10, rest_fst he11, State.rest_readExtLines h.sub,
                  State.rest_readSpan h.sub, eq_self]
              · next he6 =>
                simp only [rest_fst he6, rest_fst he7, rest_fst he10, rest_fst he11, State.rest_readExtLines h.sub,
                  State.rest_readSpan h.sub, eq_self]

theorem State.rest_resyncGo (h : F.may [.cab, .edc, .detected, .events] (storeRegs ++ [Fld.eth_EVQ_LOST])) (r : Reel)
    (prod : ℕ) (l : List Ext) : rest F (s.resyncGo r prod l).1 = rest F s := by
  induction l generalizing s with
  | nil => rfl
  | cons x l ih =>
    unfold State.resyncGo
    split
    next u d he =>
      have hu : rest F u = rest F s := by rw [← State.rest_readExtLine (s := s) h.sub r prod x.seq 0, he]
      split
      · exact hu
      · split
        next hl => rw [← hu, ← ih (s := u), hl]

theorem State.rest_resync (h : F.may [.cab, .edc, .detected, .events] (storeRegs ++ [Fld.eth_EVQ_LOST])) (p : PktRef) :
    rest F (s.resync p).1 = rest F s := by
  unfold State.resync
  split
  · rfl
  · simp only [State.rest_resyncGo h.sub, eq_self]

theorem State.rest_lostLen (h : F.may [.cab, .edc, .detected, .events] (storeRegs ++ [Fld.eth_EVQ_LOST])) (p : PktRef) :
    rest F (s.lostLen p).1 = rest F s := by
  simp only [State.lostLen, State.rest_resync h.sub, eq_self]

theorem State.rest_deliverPkt (h : F.may [.cab, .edc, .detected, .events] (storeRegs ++ [Fld.eth_EVQ_LOST])) (p : PktRef)
    (tk : Option ℕ) : rest F (s.deliverPkt p tk).1 = rest F s := by
  unfold State.deliverPkt
  split
  · next he12 =>
    simp only [rest_fst he12, State.rest_readPkt h.sub, eq_self]
  · next he12 =>
    simp only [rest_fst he12, State.rest_readPkt h.sub, eq_self]
  · next he12 =>
    simp only [rest_fst he12, State.rest_readPkt h.sub, State.rest_lostLen h.sub, eq_self]

theorem State.rest_cmdRes (h : F.may [] [.cab_CFG_ERR, .cab_CMD_RES]) (c : ℕ) : rest F (s.cmdRes c) = rest F s := by
  simp only [State.cmdRes, State.wrB_eq, rest_wr .cab_CMD_RES h.sub, rest_wr .cab_CFG_ERR h.sub, rest_ite, ite_self, eq_self]

theorem State.rest_cabCmd {f : State → State} (hf : ∀ x, rest F (f x) = rest F x) : rest F (s.cabCmd f) = rest F s := by
  unfold State.cabCmd
  split
  · rfl
  · exact hf s

theorem State.rest_shelfDef (h : F.may [.cab] [.cab_CFG_ERR, .cab_CMD_RES]) : rest F s.shelfDef = rest F s := by
  simp only [State.shelfDef, State.rest_cmdRes h.sub, State.rest_cabUpd h.sub, rest_ite, ite_self, eq_self, implies_true]

theorem State.rest_shelfDel (h : F.may [.cab] [.cab_CFG_ERR, .cab_CMD_RES]) : rest F s.shelfDel = rest F s := by
  simp only [State.shelfDel, State.rest_cmdRes h.sub, State.rest_cabUpd h.sub, rest_ite, ite_self, eq_self, implies_true]

theorem State.rest_reelDef (h : F.may [.cab] [.cab_CFG_ERR, .cab_CMD_RES]) : rest F s.reelDef = rest F s := by
  unfold State.reelDef
  dsimp only
  split
  · simp only [State.rest_cmdRes h.sub, eq_self]
  · split
    · simp only [State.rest_cmdRes h.sub, eq_self]
    · split
      · simp only [State.rest_cmdRes h.sub, eq_self]
      · split <;> simp only [State.rest_cmdRes h.sub, State.rest_cabUpd h.sub, eq_self, implies_true]

theorem State.rest_forgetPkts (h : F.may [.que, .cab, .tre, .eth] []) (gone : PktRef → Bool) :
    rest F (s.forgetPkts gone) = rest F s := by
  unfold State.forgetPkts
  extract_lets keep q s1 t s2 e s3
  have h1 : rest F s1 = rest F s := rest_que h.sub _
  have h2 : rest F s2 = rest F s1 := rest_tre h.sub _
  have h3 : rest F s3 = rest F s2 := rest_eth h.sub _
  exact (State.rest_cabUpd h.sub (by exact fun _ => rfl)).trans (h3.trans (h2.trans h1))

theorem State.rest_wipeReel (h : F.may [.evb, .que, .cab, .tre, .eth] []) (n : ℕ) : rest F (s.wipeReel n) = rest F s := by
  simp only [State.wipeReel, rest_evb h.sub, State.rest_cabUpd h.sub, State.rest_forgetPkts h.sub, eq_self, implies_true]

theorem State.rest_reelDel (h : F.may [.evb, .que, .cab, .tre, .eth] [.cab_CFG_ERR, .cab_CMD_RES]) :
    rest F s.reelDel = rest F s := by
  simp only [State.reelDel, State.rest_cmdRes h.sub, State.rest_cabUpd h.sub, State.rest_wipeReel h.sub, rest_ite, ite_self,
    eq_self, implies_true]

theorem State.rest_reelClear (h : F.may [.evb, .que, .cab, .tre, .eth] [.cab_CFG_ERR, .cab_CMD_RES]) :
    rest F s.reelClear = rest F s := by
  unfold State.reelClear
  dsimp only
  split <;> simp only [State.rest_cmdRes h.sub, State.rest_setReel h.sub, State.rest_wipeReel h.sub, rest_ite, ite_self,
    eq_self]

theorem State.rest_takeStart (h : F.may [.cab] [.cab_CFG_ERR, .cab_CMD_BUSY, .cab_CMD_OUT, .cab_CMD_RES]) (at_ : ℕ → ℤ) :
    rest F (s.takeStart at_) = rest F s := by
  simp only [State.takeStart, State.wrB_eq, rest_wr .cab_CMD_BUSY h.sub, rest_wr .cab_CMD_OUT h.sub, State.rest_cmdRes h.sub,
    State.rest_cabUpd h.sub, rest_ite, ite_self, eq_self, implies_true]

theorem State.rest_takeStop (h : F.may [.cab] [.cab_CFG_ERR, .cab_CMD_BUSY, .cab_CMD_RES]) (at_ : ℕ → ℤ) :
    rest F (s.takeStop at_) = rest F s := by
  unfold State.takeStop
  dsimp only
  split <;> simp only [State.wrB_eq, rest_wr .cab_CMD_BUSY h.sub, State.rest_cmdRes h.sub, State.rest_cabUpd h.sub, rest_ite,
    ite_self, eq_self, implies_true]

theorem State.rest_takeRelease (h : F.may [.cab, .events] [.cab_CFG_ERR, .cab_CMD_RES, .eth_EVQ_LOST]) :
    rest F s.takeRelease = rest F s := by
  unfold State.takeRelease
  split
  · simp only [State.rest_cmdRes h.sub, eq_self]
  · split <;> simp only [State.rest_cmdRes h.sub, State.rest_reelFull h.sub, State.rest_setTake h.sub, rest_ite, ite_self,
      eq_self]

theorem State.rest_takeDelete (h : F.may [.que, .cab, .tre, .eth, .events] [.cab_CFG_ERR, .cab_CMD_RES, .eth_EVQ_LOST]) :
    rest F s.takeDelete = rest F s := by
  unfold State.takeDelete
  split
  · simp only [State.rest_cmdRes h.sub, eq_self]
  · split <;> simp only [State.rest_cmdRes h.sub, State.rest_cabUpd h.sub, State.rest_reelFull h.sub,
      State.rest_forgetPkts h.sub, State.rest_setReel h.sub, rest_ite, ite_self, eq_self, implies_true]

theorem State.rest_dirRead (h : F.may [] [.cab_CFG_ERR, .cab_CMD_RES, .cab_DIR_DATA]) : rest F s.dirRead = rest F s := by
  unfold State.dirRead
  split <;> simp only [rest_wr .cab_DIR_DATA h.sub, State.rest_cmdRes h.sub, eq_self]

theorem State.rest_scrubPlan (h : F.may [.cab] [.cab_SCRUB_QUANT]) : rest F s.scrubPlan = rest F s := by
  simp only [State.scrubPlan, rest_wr .cab_SCRUB_QUANT h.sub, State.rest_cabUpd h.sub, eq_self, implies_true]

theorem State.rest_scrubLine (h : F.may [.cab, .edc, .detected, .events] [.edc_HARD_LINES, .edc_LOG_HEAD, .edc_PATCH_LOST,
    .edc_POISONED, .edc_POOL_EXH, .edc_POOL_LOW, .edc_SPANS_MAPPED, .edc_SPARE_FREE, .edc_STORE_CORR, .edc_STORE_UNCORR,
    .edc_TRACK_OVF, .eth_EVQ_LOST]) (x : Shelf) (g0 i : ℕ) : rest F (s.scrubLine x g0 i) = rest F s := by
  unfold State.scrubLine
  split
  · simp only [State.rest_mergePush h.sub, State.rest_lineFixed h.sub, eq_self]
  · simp only [State.rest_lineBad h.sub, eq_self]
  · rfl

theorem State.rest_sysLost (h : F.may [.cab, .detected] [.cab_DIR_DAMAGED]) (m : ℕ) : rest F (s.sysLost m) = rest F s := by
  simp only [State.sysLost, State.wrB_eq, rest_wr .cab_DIR_DAMAGED h.sub, State.rest_cabUpd h.sub, State.rest_detect h.sub,
    eq_self, implies_true]

theorem State.rest_scrubSysLine (h : F.may [.cab, .edc, .detected, .events] [.cab_DIR_DAMAGED, .edc_HARD_LINES, .edc_LOG_HEAD,
    .edc_POOL_EXH, .edc_POOL_LOW, .edc_SPANS_MAPPED, .edc_SPARE_FREE, .edc_STORE_CORR, .edc_STORE_UNCORR, .edc_TRACK_OVF,
    .eth_EVQ_LOST]) (n i : ℕ) : rest F (s.scrubSysLine n i) = rest F s := by
  unfold State.scrubSysLine
  dsimp only
  split
  · simp only [State.rest_mergePush h.sub, State.rest_lineFixed h.sub, eq_self]
  · split <;> simp only [State.bump_eq, rest_wr .edc_STORE_UNCORR h.sub, State.rest_mergePush h.sub,
      State.rest_lineFixed h.sub, State.rest_edcLog h.sub, State.rest_sysLost h.sub, State.rest_emit h.sub, eq_self]
  · rfl

theorem State.rest_groupErrs (h : F.may [.mem] []) (g0 : ℕ) (errs : List (ℕ × ℕ)) :
    rest F (s.groupErrs g0 errs) = rest F s := by
  simp only [State.groupErrs, State.rest_flip h.sub, eq_self]

theorem State.rest_scrubRead (h : F.may [.cab, .mem, .edc, .detected, .events] [.cab_DIR_DAMAGED, .edc_HARD_LINES,
    .edc_LOG_HEAD, .edc_PATCH_LOST, .edc_POISONED, .edc_POOL_EXH, .edc_POOL_LOW, .edc_SPANS_MAPPED, .edc_SPARE_FREE,
    .edc_STORE_CORR, .edc_STORE_UNCORR, .edc_TRACK_OVF, .eth_EVQ_LOST]) (errs : List (ℕ × ℕ)) (both : Bool) :
    rest F (s.scrubRead errs both).1 = rest F s := by
  unfold State.scrubRead
  dsimp only
  split
  · simp only [State.rest_groupErrs h.sub, State.rest_cabUpd h.sub, State.rest_scrubSysLine h.sub, rest_when, rest_each,
      eq_self, implies_true]
  · split
    · rfl
    · simp only [State.rest_groupErrs h.sub, State.rest_cabUpd h.sub, State.rest_scrubLine h.sub, rest_each, eq_self,
        implies_true]

theorem State.rest_scrubGroup (h : F.may [.cab, .mem, .edc, .detected, .events] [.cab_DIR_DAMAGED, .cab_SCRUB_LATE,
    .cab_SCRUB_PASSES, .cab_SCRUB_QUANT, .edc_HARD_LINES, .edc_LOG_HEAD, .edc_PATCH_LOST, .edc_POISONED, .edc_POOL_EXH,
    .edc_POOL_LOW, .edc_SPANS_MAPPED, .edc_SPARE_FREE, .edc_STORE_CORR, .edc_STORE_UNCORR, .edc_TRACK_OVF, .eth_EVQ_LOST])
    (errs : List (ℕ × ℕ)) (both : Bool) : rest F (s.scrubGroup errs both) = rest F s := by
  unfold State.scrubGroup
  split
  · rfl
  · dsimp only
    split
    · split
      · split <;> simp only [State.wrB_eq, State.bump_eq, rest_wr .cab_SCRUB_LATE h.sub, rest_wr .cab_SCRUB_PASSES h.sub,
          State.rest_scrubPlan h.sub, State.rest_cabUpd h.sub, State.rest_scrubRead h.sub, eq_self, implies_true]
      · simp only [State.bump_eq, rest_wr .cab_SCRUB_PASSES h.sub, State.rest_scrubPlan h.sub, State.rest_cabUpd h.sub,
          State.rest_scrubRead h.sub, rest_ite, ite_self, eq_self, implies_true]
    · split
      · split <;> simp only [State.wrB_eq, State.bump_eq, rest_wr .cab_SCRUB_LATE h.sub, rest_wr .cab_SCRUB_PASSES h.sub,
          State.rest_cabUpd h.sub, State.rest_scrubRead h.sub, eq_self, implies_true]
      · simp only [State.bump_eq, rest_wr .cab_SCRUB_PASSES h.sub, State.rest_cabUpd h.sub, State.rest_scrubRead h.sub,
          rest_ite, ite_self, eq_self, implies_true]

theorem State.rest_repairRun (h : F.may [] [.cab_CFG_ERR, .cab_REPAIR_BUSY]) : rest F s.repairRun = rest F s := by
  simp only [State.repairRun, State.wrB_eq, rest_wr .cab_REPAIR_BUSY h.sub, rest_wr .cab_CFG_ERR h.sub, rest_ite, ite_self,
    eq_self]

theorem State.rest_spanBack (h : F.may [.flash, .cab, .mem, .edc, .detected, .events]
    (storeRegs ++ [Fld.edc_PPR_HARD, Fld.edc_PPR_SOFT, Fld.eth_EVQ_LOST])) (e : ℕ × ℕ × ℕ) :
    rest F (s.spanBack e) = rest F s := by
  unfold State.spanBack
  dsimp only
  split <;> simp only [State.bump_eq, rest_flash h.sub, rest_wr .edc_PPR_SOFT h.sub, rest_wr .edc_PPR_HARD h.sub,
    State.rest_emit h.sub, State.rest_poolRegs h.sub] <;> rw [rest_edc h.sub] <;> simp only [State.rest_mergeDrain h.sub,
    State.rest_mergePush h.sub, rest_each, eq_self, implies_true]

theorem State.rest_repairDone (h : F.may [.flash, .cab, .mem, .edc, .detected, .events]
    (storeRegs ++ [Fld.cab_REPAIR_BUSY, Fld.edc_PPR_HARD, Fld.edc_PPR_SOFT, Fld.eth_EVQ_LOST])) (ok : List Bool) :
    rest F (s.repairDone ok) = rest F s := by
  simp only [State.repairDone, State.wrB_eq, rest_wr .cab_REPAIR_BUSY h.sub, State.rest_spanBack h.sub, rest_each, rest_ite,
    ite_self, eq_self, implies_true]

theorem State.rest_cabStandby (h : F.may [.cab, .mem, .edc, .detected, .events] (storeRegs ++ [Fld.eth_EVQ_LOST])) :
    rest F s.cabStandby = rest F s := by
  unfold State.cabStandby
  simp only [State.rest_mergeDrain h.sub]
  refine (rest_each (fun _ _ => ?_) _).trans ?_
  · split
    · rfl
    · simp only [State.rest_groupWrite h.sub, State.rest_setSlot h.sub, State.rest_setReel h.sub, eq_self]
  · rfl

/-! #### The rings in host memory -/

theorem State.rest_setQp (h : F.may [.eth] []) (q : Fin 8) (x : Qp) : rest F (s.setQp q x) = rest F s := by
  simp only [State.setQp, rest_eth h.sub, eq_self]

theorem State.rest_produce (h : F.may [.eth] [.eth_QP_PI]) (q : Fin 8) (units : ℕ) (isEntry : Bool) :
    rest F (s.produce q units isEntry) = rest F s := by
  simp only [State.produce, rest_wr .eth_QP_PI h.sub, State.rest_setQp h.sub, eq_self]

theorem State.rest_queueDraft (h : F.may [.eth] [.eth_NEXT_PSN]) (q : Fin 8) (d : Draft) :
    rest F (s.queueDraft q d) = rest F s := by
  simp only [State.queueDraft, rest_wr .eth_NEXT_PSN h.sub, State.rest_setQp h.sub, rest_ite, ite_self, eq_self]

theorem State.rest_addEntry (h : F.may [.eth] [.eth_QP_PI]) {q : Fin 8} {d : Draft} {ty flags : ℕ} {payload : List ℕ}
    {e : REnt} {u : State} {a : Draft} (he : s.addEntry q d ty flags payload e = some (u, a)) : rest F u = rest F s := by
  unfold State.addEntry at he
  dsimp only at he
  split at he
  · cases he
  · cases he
    simp only [State.rest_produce h.sub, eq_self]

theorem State.rest_addPad (h : F.may [.eth] [.eth_QP_PI]) (q : Fin 8) (d : Draft) : rest F (s.addPad q d).1 = rest F s := by
  simp only [State.addPad, State.rest_produce h.sub, eq_self]

theorem State.rest_padRing (h : F.may [.eth] [.eth_NEXT_PSN, .eth_QP_PI]) (q : Fin 8) (pad : ℕ) :
    rest F (s.padRing q pad) = rest F s := by
  simp only [State.padRing, State.rest_addPad h.sub, State.rest_queueDraft h.sub, rest_ite, ite_self, eq_self]

theorem State.rest_dailyPut (h : F.may [.eth] [.eth_DLY_DROP, .eth_NEXT_PSN, .eth_QP_PI]) (q : Fin 8) (payload : List ℕ) :
    rest F (s.dailyPut q payload) = rest F s := by
  unfold State.dailyPut
  dsimp only
  split
  · split
    · simp only [State.bump_eq, rest_wr .eth_DLY_DROP h.sub, eq_self]
    · split
      · simp only [State.bump_eq, rest_wr .eth_DLY_DROP h.sub, State.rest_padRing h.sub, eq_self]
      · next he10 =>
        simp only [State.rest_addEntry h.sub he10, State.rest_padRing h.sub, State.rest_queueDraft h.sub, eq_self]
  · split
    · simp only [State.bump_eq, rest_wr .eth_DLY_DROP h.sub, eq_self]
    · split
      · simp only [State.bump_eq, rest_wr .eth_DLY_DROP h.sub, State.rest_padRing h.sub, eq_self]
      · next he10 =>
        simp only [State.rest_addEntry h.sub he10, State.rest_padRing h.sub, State.rest_queueDraft h.sub, eq_self]

theorem State.rest_dailyFrame (h : F.may [.eth] [.eth_DLY_DROP, .eth_NEXT_PSN, .eth_QP_PI]) (r : Fin 16) (src tick epoch : ℕ)
    (px : Sp) : rest F (s.dailyFrame r src tick epoch px) = rest F s := by
  unfold State.dailyFrame
  split <;> simp only [State.bump_eq, rest_wr .eth_DLY_DROP h.sub, State.rest_dailyPut h.sub, rest_ite, ite_self, eq_self]

theorem State.rest_daily (h : F.may [.eth] [.eth_DLY_DROP, .eth_NEXT_PSN, .eth_QP_PI]) (r : Fin 16) (src tick epoch : ℕ)
    (px : Sp) : rest F (s.daily r src tick epoch px) = rest F s := by
  simp only [State.daily, rest_eth h.sub, State.rest_dailyFrame h.sub, rest_ite, ite_self, eq_self]

/-! #### QUE -/

theorem State.rest_queUpd (h : F.may [.que] []) (f : Que → Que) : rest F (s.queUpd f) = rest F s := by
  simp only [State.queUpd, rest_que h.sub, eq_self]

theorem State.rest_setItem (h : F.may [.que] []) (x : QItem) : rest F (s.setItem x) = rest F s := by
  simp only [State.setItem, State.rest_queUpd h.sub, eq_self]

theorem State.rest_queRegs (h : F.may [] areaRegs) : rest F s.queRegs = rest F s := by
  simp only [State.queRegs, State.wrB_eq, rest_wr .que_SHARED_PEAK h.sub, rest_wr .que_SHARED_USED h.sub,
    rest_wr .que_PATCH_FULL h.sub, rest_wr .que_PATCH_USED h.sub, eq_self]

theorem State.rest_useArea (h : F.may [.que] areaRegs) (src : Fin 21) (c : ℕ) (own shared : ℤ) :
    rest F (s.useArea src c own shared) = rest F s := by
  simp only [State.useArea, State.rest_queRegs h.sub, State.rest_queUpd h.sub, eq_self]

theorem State.rest_ethRelease (h : F.may [.eth, .events] [.eth_EVQ_LOST, .eth_QP_HELD]) (x : QItem) :
    rest F (s.ethRelease x) = rest F s := by
  unfold State.ethRelease
  split
  · rfl
  · dsimp only
    split <;> simp only [State.bump_eq, rest_wr .eth_QP_HELD h.sub, State.rest_setQp h.sub, State.rest_emit h.sub, eq_self]

theorem State.rest_holdItem (h : F.may [.que, .eth, .events] [.eth_EVQ_LOST, .eth_QP_HELD, .que_HELD_CNT]) (x : QItem) :
    rest F (s.holdItem x) = rest F s := by
  simp only [State.holdItem, State.bump_eq, rest_wr .que_HELD_CNT h.sub, State.rest_setItem h.sub, State.rest_queUpd h.sub,
    State.rest_ethRelease h.sub, rest_when, rest_ite, ite_self, eq_self, implies_true]

theorem State.rest_holdLimit (h : F.may [.que, .eth, .events] [.eth_EVQ_LOST, .eth_QP_HELD, .que_HELD_CNT]) (i : ℕ) :
    rest F (s.holdLimit i) = rest F s := by
  unfold State.holdLimit
  split
  · simp only [State.rest_holdItem h.sub, rest_ite, ite_self, eq_self]
  · rfl

theorem State.rest_holdMark (h : F.may [.que, .eth, .events] [.eth_EVQ_LOST, .eth_QP_HELD, .que_HELD_CNT]) :
    rest F s.holdMark = rest F s := by
  simp only [State.holdMark, State.rest_holdItem h.sub, rest_each, rest_ite, ite_self, eq_self, implies_true]

theorem State.rest_grantMore (h : F.may [.que, .eth, .events] (areaRegs ++
    [Fld.eth_EVQ_LOST, Fld.eth_QP_HELD, Fld.que_HELD_CNT])) {x : QItem} {u : State} (he : s.grantMore x = some u) :
    rest F u = rest F s := by
  unfold State.grantMore at he
  obtain ⟨⟨v12, b12⟩, hv12, he⟩ := Option.map_eq_some_iff.1 he
  cases he
  simp only [State.rest_holdMark h.sub, State.rest_useArea h.sub, State.rest_setItem h.sub, eq_self]

theorem State.rest_grantUpTo (h : F.may [.que, .eth, .events] (areaRegs ++
    [Fld.eth_EVQ_LOST, Fld.eth_QP_HELD, Fld.que_HELD_CNT])) (i n : ℕ) : rest F (s.grantUpTo i n) = rest F s := by
  unfold State.grantUpTo
  refine rest_foldl (fun x _ => ?_) _
  split
  · rfl
  · split
    · exact rest_getD (fun _ => State.rest_grantMore h.sub)
    · rfl

theorem State.rest_freeWords (h : F.may [.que] areaRegs) (x : QItem) : rest F (s.freeWords x) = rest F s := by
  simp only [State.freeWords, State.rest_queUpd h.sub, State.rest_useArea h.sub, State.rest_setItem h.sub, rest_ite, ite_self,
    eq_self]

theorem State.rest_sweep (h : F.may [.que] areaRegs) : rest F s.sweep = rest F s := by
  simp only [State.sweep, State.rest_freeWords h.sub, State.rest_queUpd h.sub, State.rest_useArea h.sub, rest_each, eq_self,
    implies_true]

theorem State.rest_gapEnd (h : F.may [.cab] []) (r : Reel) (p : ℕ) : rest F (s.gapEnd r p) = rest F s := by
  unfold State.gapEnd
  split
  · rfl
  · simp only [State.rest_cabUpd h.sub, State.rest_setReel h.sub, eq_self, implies_true]

theorem State.rest_gapNote (h : F.may [.cab] []) (n p k : ℕ) : rest F (s.gapNote n p k) = rest F s := by
  unfold State.gapNote
  dsimp only
  split
  · split
    · simp only [State.rest_gapEnd h.sub, rest_ite, ite_self, eq_self]
    · rfl
  · simp only [State.rest_setReel h.sub]
    split
    · simp only [State.rest_gapEnd h.sub, rest_ite, ite_self, eq_self]
    · rfl

theorem State.rest_reelDisc (h : F.may [.cab] []) (r n : ℕ) : rest F (s.reelDisc r n) = rest F s := by
  unfold State.reelDisc
  split
  · simp only [State.rest_setReel h.sub, eq_self]
  · rfl

theorem State.rest_discardItem (h : F.may [.evb, .que, .cab] [.cab_REC_DISC]) (x : QItem) :
    rest F (s.discardItem x) = rest F s := by
  simp only [State.discardItem, State.bump_eq, rest_evb h.sub, rest_wr .cab_REC_DISC h.sub, State.rest_setItem h.sub,
    State.rest_cabUpd h.sub, State.rest_gapNote h.sub, State.rest_reelDisc h.sub, rest_ite, ite_self, eq_self, implies_true]

theorem State.rest_slotBad (h : F.may [.cab] []) (prod reel k : ℕ) : rest F (s.slotBad prod reel k) = rest F s := by
  unfold State.slotBad
  split
  · simp only [State.rest_setSlot h.sub, eq_self]
  · rfl

theorem State.rest_wholeTaken (h : F.may [.que, .cab] []) (i : ℕ) : rest F (s.wholeTaken i) = rest F s := by
  unfold State.wholeTaken
  split
  · simp only [State.rest_pktLen h.sub, State.rest_setItem h.sub, rest_ite, ite_self, eq_self]
  · rfl

theorem State.rest_turnOver (h : F.may [.que] []) (x : QItem) (w : FWord) (k : ℕ) : rest F (s.turnOver x w k) = rest F s := by
  simp only [State.turnOver, State.rest_queUpd h.sub, rest_ite, ite_self, eq_self]

theorem State.rest_takeBytes (h : F.may [.evb, .que, .cab, .events] [.cab_REC_DISC, .eth_EVQ_LOST]) {x : QItem} {w : FWord}
    {u : State} (he : s.takeBytes x w = some u) : rest F u = rest F s := by
  unfold State.takeBytes at he
  split at he
  · cases he
    simp only [State.rest_setItem h.sub, eq_self]
  · split at he
    · dsimp only at he
      split at he
      · cases he
        simp only [State.rest_reelFull h.sub, State.rest_discardItem h.sub, eq_self]
      · cases he
    · next hx11 =>
      cases he
    · next hx11 =>
      dsimp only at he
      cases he
      simp only [State.rest_setItem h.sub, State.rest_wholeTaken h.sub, State.rest_turnOver h.sub, State.rest_slotBad h.sub,
        rest_when, eq_self, implies_true]
      split <;> simp only [State.rest_cabPut h.sub hx11, State.rest_gapEnd h.sub, rest_ite, ite_self, eq_self]

theorem State.rest_takeWord (h : F.may [.evb, .que, .cab, .events] [.cab_REC_DISC, .eth_EVQ_LOST]) {x : QItem} {u : State}
    (he : s.takeWord x = some u) : rest F u = rest F s := by
  unfold State.takeWord at he
  split at he
  · cases he
  · split at he
    · exact State.rest_takeBytes h.sub he
    · split at he
      · cases he
      · cases he
        simp only [State.rest_wholeTaken h.sub, eq_self]

theorem State.rest_pullOne (h : F.may [.evb, .que, .cab, .events] [.cab_REC_DISC, .eth_EVQ_LOST]) {u : State}
    (he : s.pullOne = some u) : rest F u = rest F s := by
  unfold State.pullOne at he
  obtain ⟨x, _, hx⟩ := List.exists_of_findSome?_eq_some he
  exact State.rest_takeWord h.sub hx

theorem State.rest_pullN (h : F.may [.evb, .que, .cab, .events] [.cab_REC_DISC, .eth_EVQ_LOST]) (n : ℕ) :
    rest F (s.pullN n) = rest F s := by
  induction n generalizing s with
  | zero => rfl
  | succ n ih =>
    unfold State.pullN
    split
    · rfl
    next he => exact ih.trans (State.rest_pullOne h.sub he)

theorem State.rest_cabPull (h : F.may [.evb, .que, .cab, .events] (areaRegs ++ [Fld.cab_REC_DISC, Fld.eth_EVQ_LOST])) :
    rest F s.cabPull = rest F s := by
  simp only [State.cabPull, State.rest_sweep h.sub, State.rest_pullN h.sub, eq_self]

theorem State.rest_addItem (h : F.may [.que] []) (x : QItem) : rest F (s.addItem x) = rest F s := by
  simp only [State.addItem, State.rest_queUpd h.sub, eq_self]

theorem State.rest_layItem (h : F.may [.que, .cab] []) (x : QItem) (b : List ℕ) : rest F (s.layItem x b) = rest F s := by
  simp only [State.layItem, State.rest_setItem h.sub, State.rest_reelDisc h.sub, rest_when, eq_self, implies_true]

theorem State.rest_shutItem (h : F.may [.que] areaRegs) (i : ℕ) : rest F (s.shutItem i) = rest F s := by
  unfold State.shutItem
  split
  · rfl
  · simp only [State.rest_queUpd h.sub, State.rest_setItem h.sub, State.rest_useArea h.sub, eq_self]

theorem State.rest_openItem (h : F.may [.evb, .que, .cab, .events] (areaRegs ++ [Fld.cab_REC_DISC, Fld.eth_EVQ_LOST]))
    {src cls : ℕ} {pid : PktId} {prod reel : ℕ} {up eth : Bool} {head : List ℕ} {u : State} {a : ℕ}
    (he : s.openItem src cls pid prod reel up eth head = some (u, a)) : rest F u = rest F s := by
  unfold State.openItem at he
  split at he
  · cases he
  · dsimp only at he
    cases he
    simp only [State.rest_useArea h.sub, State.rest_addItem h.sub, State.rest_cabPull h.sub, State.rest_layItem h.sub,
      rest_elim, eq_self, implies_true]

theorem State.rest_ethMatch (h : F.may [.que] [.eth_NO_QP]) (i : ℕ) : rest F (s.ethMatch i) = rest F s := by
  unfold State.ethMatch
  split
  · rfl
  · simp only [State.bump_eq, rest_wr .eth_NO_QP h.sub, State.rest_setItem h.sub, rest_ite, ite_self, eq_self]

theorem State.rest_writeItem (h : F.may [.evb, .que, .cab, .events] (areaRegs ++ [Fld.cab_REC_DISC, Fld.eth_EVQ_LOST])) (i : ℕ)
    (bytes : List ℕ) : rest F (s.writeItem i bytes) = rest F s := by
  unfold State.writeItem
  split
  · rfl
  · simp only [State.rest_cabPull h.sub, State.rest_layItem h.sub, eq_self]

theorem State.rest_closeItem (h : F.may [.evb, .que, .cab, .events] (areaRegs ++
    [Fld.cab_REC_DISC, Fld.eth_EVQ_LOST, Fld.eth_NO_QP, Fld.que_PATCH_CNT])) (i : ℕ) (data : List ℕ) (trunc : Bool) :
    rest F (s.closeItem i data trunc) = rest F s := by
  unfold State.closeItem
  split
  · rfl
  · simp only [State.bump_eq, rest_wr .que_PATCH_CNT h.sub, State.rest_layItem h.sub, State.rest_queUpd h.sub,
      State.rest_cabPull h.sub, State.rest_ethMatch h.sub, State.rest_shutItem h.sub, rest_when, eq_self, implies_true]

theorem State.rest_placeItem (h : F.may [.evb, .que, .cab, .eth, .events] (fabricRegs ++ [Fld.eth_EVQ_LOST])) (x : QItem)
    (data : List ℕ) : rest F (s.placeItem x data) = rest F s := by
  simp only [State.placeItem, State.rest_addItem h.sub, State.rest_cabPull h.sub, State.rest_holdMark h.sub,
    State.rest_ethMatch h.sub, State.rest_shutItem h.sub, State.rest_layItem h.sub, rest_elim, eq_self, implies_true]

theorem State.rest_putItem (h : F.may [.evb, .que, .cab, .eth, .events] (fabricRegs ++ [Fld.eth_EVQ_LOST])) {x : QItem}
    {data : List ℕ} {u : State} {a : ℕ} (he : s.putItem x data = some (u, a)) : rest F u = rest F s := by
  unfold State.putItem at he
  split at he
  · cases he
  · simp only [Option.some.injEq, Prod.mk.injEq] at he
    obtain ⟨rfl, _⟩ := he
    rw [State.rest_placeItem h.sub, State.rest_useArea h.sub]

theorem State.rest_patchAccept (h : F.may [.que, .cab] areaRegs) : rest F s.patchAccept = rest F s := by
  unfold State.patchAccept
  split
  · rfl
  · split
    · next he11 =>
      rfl
    · next he11 =>
      simp only [State.rest_patchIn h.sub he11, State.rest_queRegs h.sub, State.rest_queUpd h.sub, eq_self]

theorem State.rest_starveCount (h : F.may [.que] []) (c : ℕ) : rest F (s.starveCount c) = rest F s := by
  simp only [State.starveCount, State.rest_queUpd h.sub, eq_self]

theorem State.rest_tookUp (h : F.may [.que] areaRegs) (x : QItem) (n : ℕ) : rest F (s.tookUp x n) = rest F s := by
  simp only [State.tookUp, State.rest_sweep h.sub, State.rest_setItem h.sub, State.rest_starveCount h.sub, rest_when, eq_self,
    implies_true]

theorem State.rest_tookEth (h : F.may [.que] areaRegs) (x : QItem) : rest F (s.tookEth x) = rest F s := by
  simp only [State.tookEth, State.rest_sweep h.sub, State.rest_queUpd h.sub, State.rest_setItem h.sub, eq_self]

theorem State.rest_poisonIn (h : F.may [.cab, .events] [.edc_PATCH_LOST, .eth_EVQ_LOST]) (r : Reel) (prod q o n : ℕ) :
    rest F (s.poisonIn r prod q o n) = rest F s := by
  unfold State.poisonIn
  dsimp only
  refine (rest_each (fun _ _ => ?_) _).trans ?_
  · split <;> simp only [State.rest_setSlot h.sub, State.rest_poisonNow h.sub, rest_ite, ite_self, eq_self]
  · rfl

theorem State.rest_poisonAt (h : F.may [.cab, .events] [.edc_PATCH_LOST, .eth_EVQ_LOST]) (p : PktRef) (a n : ℕ) :
    rest F (s.poisonAt p a n) = rest F s := by
  unfold State.poisonAt
  split
  · rfl
  · dsimp only
    split
    · simp only [State.rest_poisonIn h.sub, rest_ite, ite_self, eq_self]
    · split <;> simp only [State.rest_poisonIn h.sub, rest_ite, ite_self, eq_self]

theorem State.rest_poisonWord (h : F.may [.que, .cab, .events] [.edc_PATCH_LOST, .eth_EVQ_LOST]) (x : QItem) (w : FWord) :
    rest F (s.poisonWord x w) = rest F s := by
  unfold State.poisonWord
  dsimp only
  split
  · simp only [State.rest_setItem h.sub, eq_self]
  · split <;> simp only [State.rest_setItem h.sub, State.rest_poisonAt h.sub, eq_self]

theorem State.rest_fabricBad (h : F.may [.que, .cab, .eth, .detected, .events]
    (areaRegs ++ [Fld.edc_PATCH_LOST, Fld.eth_EVQ_LOST, Fld.eth_QP_HELD, Fld.que_HELD_CNT, Fld.que_UNCORR,
    Fld.que_UNCORR_SEEN])) (x : QItem) (w : Option FWord) : rest F (s.fabricBad x w) = rest F s := by
  simp only [State.fabricBad, State.wrB_eq, State.bump_eq, rest_wr .que_UNCORR_SEEN h.sub, rest_wr .que_UNCORR h.sub,
    State.rest_detect h.sub, State.rest_poisonWord h.sub, State.rest_sweep h.sub, State.rest_holdItem h.sub, rest_elim,
    eq_self, implies_true]

theorem State.rest_fabricRead (h : F.may [.que, .cab, .edc, .eth, .detected, .events]
    (areaRegs ++ [Fld.edc_LOG_HEAD, Fld.edc_PATCH_LOST, Fld.edc_SRAM_CORR, Fld.edc_SRAM_SPARE_EXH, Fld.eth_EVQ_LOST,
    Fld.eth_QP_HELD, Fld.que_CORR, Fld.que_HELD_CNT, Fld.que_UNCORR, Fld.que_UNCORR_SEEN])) (i n : ℕ) (res : WordRead) :
    rest F (s.fabricRead i n res) = rest F s := by
  unfold State.fabricRead
  dsimp only
  split
  · rfl
  · simp only [State.bump_eq, rest_wr .que_CORR h.sub, State.rest_sramFixed h.sub, rest_elim, eq_self, implies_true]
  · simp only [State.bump_eq, rest_wr .que_CORR h.sub, State.rest_sramFixed h.sub, rest_elim, eq_self, implies_true]
  · simp only [State.rest_fabricBad h.sub, rest_elim, eq_self, implies_true]
  · simp only [State.rest_fabricBad h.sub, rest_elim, eq_self, implies_true]

/-! #### TDC -/

theorem State.rest_setGroup (h : F.may [.tdc] []) {r : Fin 16} (hr : F.mayAt r []) (g : Fin 16) (x : TdcGroup) :
    rest F (s.setGroup r g x) = rest F s := by
  simp only [State.setGroup, State.rest_setTdcR h.sub hr.sub, eq_self]

theorem State.rest_setAux (h : F.may [.tdc] []) (c : Fin 4) (x : AuxCh) : rest F (s.setAux c x) = rest F s := by
  simp only [State.setAux, rest_tdc h.sub, eq_self]

theorem State.rest_calBatchClose (h : F.may [.tdc, .events] [.eth_EVQ_LOST]) {r : Fin 16} (hr : F.mayAt r []) (g : Fin 16) :
    rest F (s.calBatchClose r g) = rest F s := by
  simp only [State.calBatchClose, State.rest_setGroup h.sub hr.sub, State.rest_emit h.sub, rest_ite, ite_self, eq_self]

theorem State.rest_calTake (h : F.may [.tdc, .events] [.eth_EVQ_LOST]) {r : Fin 16} (hr : F.mayAt r []) (e : Entry) :
    rest F (s.calTake r e) = rest F s := by
  simp only [State.calTake, State.rest_calBatchClose h.sub hr.sub, State.rest_setGroup h.sub hr.sub, rest_ite, ite_self,
    eq_self]

theorem State.rest_calBatchTimeout (h : F.may [.tdc] []) {r : Fin 16} (hr : F.mayAt r []) (g : Fin 16) :
    rest F (s.calBatchTimeout r g) = rest F s := by
  unfold State.calBatchTimeout
  dsimp only
  split
  · rfl
  · simp only [State.rest_setGroup h.sub hr.sub, rest_ite, ite_self, eq_self]

theorem State.rest_calLoad (h : F.may [.tdc] []) {r : Fin 16} (hr : F.mayAt r [.tdcr_CAL_LOAD_BUSY, .tdcr_CFG_ERR]) :
    rest F (s.calLoad r) = rest F s := by
  simp only [State.calLoad, State.wrB_eq, rest_wrAt .tdcr_CAL_LOAD_BUSY hr.sub, rest_wrAt .tdcr_CFG_ERR hr.sub,
    State.rest_setTdcR h.sub hr.sub, rest_ite, ite_self, eq_self]

theorem State.rest_calReset (h : F.may [.tdc] []) {r : Fin 16} (hr : F.mayAt r []) : rest F (s.calReset r) = rest F s := by
  simp only [State.calReset, State.rest_setTdcR h.sub hr.sub, eq_self]

theorem State.rest_codeFault (h : F.may [.tdc, .detected] [.tdc_CODE_ERR_ALL]) {r : Fin 16} (hr : F.mayAt r [.tdcr_CODE_ERR]) :
    rest F (s.codeFault r) = rest F s := by
  simp only [State.codeFault, State.bump_eq, rest_wr .tdc_CODE_ERR_ALL h.sub, rest_wrAt .tdcr_CODE_ERR hr.sub,
    State.rest_setTdcR h.sub hr.sub, State.rest_detect h.sub, rest_ite, ite_self, eq_self]

theorem State.rest_dropFull (h : F.may [.tdc] []) {r : Fin 16} (hr : F.mayAt r [.tdcr_DROP_QFULL]) (c : ℕ) :
    rest F (s.dropFull r c) = rest F s := by
  simp only [State.dropFull, State.bump_eq, rest_wrAt .tdcr_DROP_QFULL hr.sub, State.rest_setGroup h.sub hr.sub, eq_self]

theorem State.rest_closeWin (h : F.may [.tdc, .detected, .events] [.eth_EVQ_LOST, .tdc_CODE_ERR_ALL]) {r : Fin 16}
    (hr : F.mayAt r [.tdcr_CODE_ERR, .tdcr_DROP_QFULL, .tdcr_PH_AMBIG]) (w : Win) : rest F (s.closeWin r w) = rest F s := by
  unfold State.closeWin
  dsimp only
  split <;> simp only [State.bump_eq, rest_tdc h.sub, rest_wrAt .tdcr_PH_AMBIG hr.sub, State.rest_setTdcR h.sub hr.sub,
    State.rest_codeFault h.sub hr.sub, State.rest_dropFull h.sub hr.sub, State.rest_calTake h.sub hr.sub, rest_when, eq_self,
    implies_true]

theorem State.rest_tdcEdge (h : F.may [.tdc, .detected, .events] [.eth_EVQ_LOST, .tdc_CODE_ERR_ALL]) {r : Fin 16}
    (hr : F.mayAt r [.tdcr_CODE_ERR, .tdcr_DROP_QFULL, .tdcr_PH_AMBIG]) (c p : ℕ) (raw : RawCapture) (test : Bool) :
    rest F (s.tdcEdge r c p raw test) = rest F s := by
  unfold State.tdcEdge
  dsimp only
  split
  · simp only [State.rest_setTdcR h.sub hr.sub]
    split
    · simp only [State.rest_closeWin h.sub hr.sub, rest_ite, ite_self, eq_self]
    · rfl
  · split <;> simp only [State.rest_closeWin h.sub hr.sub, State.rest_setTdcR h.sub hr.sub, rest_ite, ite_self, eq_self]

theorem State.rest_windowClose (h : F.may [.tdc, .detected, .events] [.eth_EVQ_LOST, .tdc_CODE_ERR_ALL]) {r : Fin 16}
    (hr : F.mayAt r [.tdcr_CODE_ERR, .tdcr_DROP_QFULL, .tdcr_PH_AMBIG]) (c : ℕ) : rest F (s.windowClose r c) = rest F s := by
  unfold State.windowClose
  split
  · simp only [State.rest_closeWin h.sub hr.sub, rest_ite, ite_self, eq_self]
  · rfl

theorem State.rest_takeEntry (h : F.may [.tdc] []) {r : Fin 16} (hr : F.mayAt r []) (e : Entry) :
    rest F (s.takeEntry r e) = rest F s := by
  simp only [State.takeEntry, State.rest_setTdcR h.sub hr.sub, eq_self]

theorem State.rest_correctEntry (h : F.may [.tdc] []) {r : Fin 16} (hr : F.mayAt r []) (e : Entry) :
    rest F (s.correctEntry r e).1 = rest F s := by
  simp only [State.correctEntry, State.rest_setTdcR h.sub hr.sub, eq_self]

theorem State.rest_auxSwap (h : F.may [.tdc] []) (c : Fin 4) : rest F (s.auxSwap c) = rest F s := by
  simp only [State.auxSwap, State.rest_setAux h.sub, rest_ite, ite_self, eq_self]

theorem State.rest_auxBatch (h : F.may [.tdc] []) (c : Fin 4) (k : Fin 2) (x : Vector ℕ 128) :
    rest F (s.auxBatch c k x) = rest F s := by
  simp only [State.auxBatch, State.rest_setAux h.sub, rest_ite, ite_self, eq_self]

theorem State.rest_ttBatch (h : F.may [.tbs] []) (p : Fin 6) (k : Fin 2) (x : Vector ℕ 128) :
    rest F (s.ttBatch p k x) = rest F s := by
  unfold State.ttBatch
  split <;> exact rest_tbs h.sub _

theorem State.rest_phaseMonitor (h : F.may [.tdc, .detected] [.tdc_CLK_BAD, .tdc_CLK_FAULT]) (spacingBad pllLost : Bool) :
    rest F (s.phaseMonitor spacingBad pllLost) = rest F s := by
  unfold State.phaseMonitor
  dsimp only
  split
  · split <;> simp only [State.wrB_eq, rest_tdc h.sub, rest_wr .tdc_CLK_BAD h.sub, rest_wr .tdc_CLK_FAULT h.sub,
      State.rest_detect h.sub, eq_self]
  · simp only [State.wrB_eq, rest_tdc h.sub, rest_wr .tdc_CLK_BAD h.sub, rest_ite, ite_self, eq_self]

theorem State.rest_ofsNext {r : Fin 16} (hr : F.mayAt r [.tdcr_OFS_ADDR]) : rest F (s.ofsNext r) = rest F s := by
  simp only [State.ofsNext, rest_wrAt .tdcr_OFS_ADDR hr.sub, rest_ite, ite_self, eq_self]

theorem State.rest_ofsWrite (h : F.may [.tdc] []) {r : Fin 16} (hr : F.mayAt r [.tdcr_OFS_ADDR])
    (hp : F.mayOf (17 * Blk.tdc.idx + 1 + r) [.hdr_SHADOW_DIRTY]) (v : ℕ) : rest F (s.ofsWrite r v) = rest F s := by
  simp only [State.ofsWrite, State.wrB_eq, rest_tdc h.sub, rest_wrOf .hdr_SHADOW_DIRTY hp.sub, State.rest_ofsNext hr.sub,
    eq_self]

theorem State.rest_dropWins (h : F.may [.tdc] []) {r : Fin 16} (hr : F.mayAt r [.tdcr_DROP_ABORT]) :
    rest F (s.dropWins r) = rest F s := by
  simp only [State.dropWins, State.bump_eq, rest_wrAt .tdcr_DROP_ABORT hr.sub, State.rest_setTdcR h.sub hr.sub, eq_self]

theorem State.rest_dropQueue (h : F.may [.tdc] []) {r : Fin 16} (hr : F.mayAt r [.tdcr_DROP_ABORT]) :
    rest F (s.dropQueue r) = rest F s := by
  simp only [State.dropQueue, State.bump_eq, rest_wrAt .tdcr_DROP_ABORT hr.sub, State.rest_setTdcR h.sub hr.sub, eq_self]

/-! #### CMP -/

theorem State.rest_setEvbR (h : F.may [.evb] []) (r : Fin 16) (x : EvbR) : rest F (s.setEvbR r x) = rest F s := by
  simp only [State.setEvbR, rest_evb h.sub, eq_self]

theorem State.rest_upRec (h : F.may [.evb] []) (r : Fin 16) (k : ℕ) (f : Rec → Rec) : rest F (s.upRec r k f) = rest F s := by
  simp only [State.upRec, State.rest_setEvbR h.sub, eq_self]

theorem State.rest_headFlag (h : F.may [.evb] []) (r : Fin 16) (k b : ℕ) : rest F (s.headFlag r k b) = rest F s := by
  simp only [State.headFlag, State.rest_upRec h.sub, eq_self]

theorem State.rest_slipHeads (h : F.may [.evb] []) (k : ℕ) : rest F (s.slipHeads k) = rest F s := by
  simp only [State.slipHeads, State.rest_setEvbR h.sub, rest_each, eq_self, implies_true]

theorem State.rest_ringUpd (h : F.may [.evb] []) (r : Fin 16) (f : List RingW → List RingW) :
    rest F (s.ringUpd r f) = rest F s := by
  simp only [State.ringUpd, State.rest_setEvbR h.sub, eq_self]

theorem State.rest_ringPut (h : F.may [.evb] []) (r : Fin 16) (w ref : ℕ) (pid : PktId) :
    rest F (s.ringPut r w ref pid) = rest F s := by
  simp only [State.ringPut, State.rest_ringUpd h.sub, eq_self]

theorem State.rest_ringDrop (h : F.may [.evb] []) (r : Fin 16) (f : ℕ → Bool) : rest F (s.ringDrop r f) = rest F s := by
  simp only [State.ringDrop, State.rest_ringUpd h.sub, eq_self]

theorem State.rest_winNext (h : F.may [.evb, .que, .cab, .edc, .eth, .detected, .events]
    (storeRegs ++ fabricRegs ++ [Fld.eth_EVQ_LOST])) {r : Fin 16} {u : State} (he : s.winNext r = some u) :
    rest F u = rest F s := by
  unfold State.winNext at he
  split at he
  · cases he
  · split at he
    · cases he
    · dsimp only at he
      obtain ⟨⟨v9, b9⟩, hv9, he⟩ := Option.map_eq_some_iff.1 he
      cases he
      simp only [State.rest_putItem h.sub hv9, State.rest_deliverPkt h.sub, State.rest_ringUpd h.sub, eq_self]

theorem State.rest_winRun (h : F.may [.evb, .que, .cab, .edc, .eth, .detected, .events]
    (storeRegs ++ fabricRegs ++ [Fld.eth_EVQ_LOST])) (r : Fin 16) : rest F (s.winRun r) = rest F s := by
  unfold State.winRun
  exact rest_foldl (fun x _ => rest_getD (fun _ => State.rest_winNext h.sub)) _

theorem State.rest_winPump (h : F.may [.evb, .que, .cab, .edc, .eth, .detected, .events]
    (storeRegs ++ fabricRegs ++ [Fld.eth_EVQ_LOST])) : rest F s.winPump = rest F s := by
  simp only [State.winPump, State.rest_winRun h.sub, rest_each, eq_self, implies_true]

theorem State.rest_setCtx (h : F.may [.cmp] []) {r : Fin 16} (hr : F.mayAt r []) (k : ℕ) (c : Ctx) :
    rest F (s.setCtx r k c) = rest F s := by
  simp only [State.setCtx, State.rest_setCmpR h.sub hr.sub, eq_self]

theorem State.rest_addBytes {f : Fld} {r : ℕ} (hr : F.mayOf r [f]) (n : ℕ) : rest F (s.addBytes f r n) = rest F s := by
  exact rest_wrOf _ hr _

theorem State.rest_cmpDrained (h : F.may [.cmp] []) {r : Fin 16} (hr : F.mayAt r [.cmpr_CMP_FINAL]) :
    rest F (s.cmpDrained r) = rest F s := by
  simp only [State.cmpDrained, State.wrB_eq, rest_wrAt .cmpr_CMP_FINAL hr.sub, State.rest_setCmpR h.sub hr.sub, rest_ite,
    ite_self, eq_self]

theorem State.rest_noteFinal (h : F.may [.seq, .cmp] []) {r : Fin 16} (hr : F.mayAt r [.cmpr_CMP_FINAL]) (k : ℕ) :
    rest F (s.noteFinal r k) = rest F s := by
  simp only [State.noteFinal, rest_seq h.sub, State.rest_cmpDrained h.sub hr.sub, eq_self]

theorem State.rest_blockStart (h : F.may [.cmp] []) {r : Fin 16} (hr : F.mayAt r []) (k t : ℕ) :
    rest F (s.blockStart r k t) = rest F s := by
  simp only [State.blockStart, State.rest_setCtx h.sub hr.sub, eq_self]

theorem State.rest_ctxReady (h : F.may [.cmp] []) {r : Fin 16} (hr : F.mayAt r []) (k : ℕ) :
    rest F (s.ctxReady r k) = rest F s := by
  unfold State.ctxReady
  split
  · simp only [State.rest_setCtx h.sub hr.sub, State.rest_setCmpR h.sub hr.sub, eq_self]
  · rfl

theorem State.rest_blockEnd (h : F.may [.cmp] []) {r : Fin 16} (hr : F.mayAt r []) (k : ℕ) :
    rest F (s.blockEnd r k) = rest F s := by
  simp only [State.blockEnd, State.rest_setCtx h.sub hr.sub, State.rest_ctxReady h.sub hr.sub, rest_ite, ite_self, eq_self]

theorem State.rest_dynReady (h : F.may [.cmp] []) {r : Fin 16} (hr : F.mayAt r []) (k : ℕ) :
    rest F (s.dynReady r k) = rest F s := by
  unfold State.dynReady
  dsimp only
  split
  · simp only [State.rest_setCtx h.sub hr.sub, eq_self]
  · rfl

theorem State.rest_setOpen (h : F.may [.cmp] []) {r : Fin 16} (hr : F.mayAt r []) (o : Option OpenPkt) :
    rest F (s.setOpen r o) = rest F s := by
  simp only [State.setOpen, State.rest_setCmpR h.sub hr.sub, eq_self]

theorem State.rest_emitChunk (h : F.may [.evb, .cmp, .que, .cab, .events] (areaRegs ++ [Fld.cab_REC_DISC, Fld.eth_EVQ_LOST]))
    {r : Fin 16} (hr : F.mayAt r [.cmpr_STORED_CHUNKS]) : rest F (s.emitChunk r) = rest F s := by
  unfold State.emitChunk
  split
  · rfl
  · simp only [State.bump_eq, rest_wrAt .cmpr_STORED_CHUNKS hr.sub, State.rest_setOpen h.sub hr.sub,
      State.rest_setCtx h.sub hr.sub, State.rest_writeItem h.sub, rest_ite, ite_self, eq_self]

theorem State.rest_unstall (h : F.may [.cmp] [.que_GRANT_WAIT]) {r : Fin 16} (hr : F.mayAt r [.cmpr_STALLED, .cmpr_STALL_TIME])
    : rest F (s.unstall r) = rest F s := by
  unfold State.unstall
  split
  · rfl
  · simp only [State.wrB_eq, State.bump_eq, rest_wr .que_GRANT_WAIT h.sub, rest_wrAt .cmpr_STALL_TIME hr.sub,
      rest_wrAt .cmpr_STALLED hr.sub, State.rest_setCmpR h.sub hr.sub, eq_self]

theorem State.rest_stall (h : F.may [.cmp] []) {r : Fin 16} (hr : F.mayAt r [.cmpr_STALLED]) :
    rest F (s.stall r) = rest F s := by
  simp only [State.stall, State.wrB_eq, rest_wrAt .cmpr_STALLED hr.sub, State.rest_setCmpR h.sub hr.sub, rest_ite, ite_self,
    eq_self]

theorem State.rest_closePkt (h : F.may [.seq, .evb, .cmp, .que, .cab, .events]
    (areaRegs ++ [Fld.cab_REC_DISC, Fld.eth_EVQ_LOST, Fld.eth_NO_QP, Fld.que_GRANT_WAIT, Fld.que_PATCH_CNT])) {r : Fin 16}
    (hr : F.mayAt r [.cmpr_ACT_KIND, .cmpr_CMP_FINAL, .cmpr_IN_BYTES, .cmpr_OUT_BYTES, .cmpr_PKT_CNT, .cmpr_PREEMPT_CNT,
    .cmpr_STALLED, .cmpr_STALL_TIME, .cmpr_STORED_CHUNKS, .cmpr_TRUNC_CNT, .cmpr_TRUNC_SEEN]) (flags : ℕ) (trunc final : Bool)
    : rest F (s.closePkt r flags trunc final) = rest F s := by
  unfold State.closePkt
  dsimp only
  split <;> simp only [State.wrB_eq, State.bump_eq, rest_wrAt .cmpr_PKT_CNT hr.sub, rest_wrAt .cmpr_TRUNC_SEEN hr.sub,
    rest_wrAt .cmpr_TRUNC_CNT hr.sub, rest_wrAt .cmpr_PREEMPT_CNT hr.sub, rest_wrAt .cmpr_ACT_KIND hr.sub,
    State.rest_emitChunk h.sub hr.sub, State.rest_unstall h.sub hr.sub, State.rest_setOpen h.sub hr.sub,
    State.rest_setCtx h.sub hr.sub, State.rest_addBytes (f := .cmpr_IN_BYTES) hr.2.sub,
    State.rest_addBytes (f := .cmpr_OUT_BYTES) hr.2.sub, State.rest_noteFinal h.sub hr.sub, State.rest_closeItem h.sub,
    rest_ite, ite_self, eq_self]

theorem State.rest_openPkt (h : F.may [.evb, .cmp, .que, .cab, .events] (areaRegs ++ [Fld.cab_REC_DISC, Fld.eth_EVQ_LOST]))
    {r : Fin 16} (hr : F.mayAt r [.cmpr_ACT_KIND]) {kind tick first flags : ℕ} {zs : Bool} {dyn : Option CodeTab}
    {todo : List CItem} {final : Bool} {u : State} (he : s.openPkt r kind tick first flags zs dyn todo final = some u) :
    rest F u = rest F s := by
  unfold State.openPkt at he
  dsimp only at he
  split at he
  · next hx11 =>
    cases he
  · next hx11 =>
    cases he
    simp only [State.rest_openItem h.sub hx11, rest_wrAt .cmpr_ACT_KIND hr.sub, State.rest_setOpen h.sub hr.sub, eq_self]

theorem State.rest_emptyFinal (h : F.may [.seq, .evb, .cmp, .que, .cab, .events]
    (areaRegs ++ [Fld.cab_REC_DISC, Fld.eth_EVQ_LOST, Fld.eth_NO_QP, Fld.que_GRANT_WAIT, Fld.que_PATCH_CNT])) {r : Fin 16}
    (hr : F.mayAt r [.cmpr_ACT_KIND, .cmpr_CMP_FINAL, .cmpr_IN_BYTES, .cmpr_OUT_BYTES, .cmpr_PKT_CNT, .cmpr_PREEMPT_CNT,
    .cmpr_STALLED, .cmpr_STALL_TIME, .cmpr_STORED_CHUNKS, .cmpr_TRUNC_CNT, .cmpr_TRUNC_SEEN]) {kind tick : ℕ} {u : State}
    (he : s.emptyFinal r kind tick = some u) : rest F u = rest F s := by
  unfold State.emptyFinal at he
  obtain ⟨v12, hv12, he⟩ := Option.map_eq_some_iff.1 he
  cases he
  simp only [State.rest_openPkt h.sub hr.sub hv12, State.rest_closePkt h.sub hr.sub, eq_self]

theorem State.rest_jobEnd (h : F.may [.cmp] []) {r : Fin 16} (hr : F.mayAt r []) (k : ℕ) :
    rest F (s.jobEnd r k) = rest F s := by
  simp only [State.jobEnd, State.rest_blockEnd h.sub hr.sub, State.rest_setCmpR h.sub hr.sub, eq_self]

theorem State.rest_openJob (h : F.may [.seq, .evb, .cmp, .que, .cab, .events]
    (areaRegs ++ [Fld.cab_REC_DISC, Fld.eth_EVQ_LOST, Fld.eth_NO_QP, Fld.que_GRANT_WAIT, Fld.que_PATCH_CNT])) {r : Fin 16}
    (hr : F.mayAt r [.cmpr_ACT_KIND, .cmpr_CMP_FINAL, .cmpr_IN_BYTES, .cmpr_OUT_BYTES, .cmpr_PKT_CNT, .cmpr_PREEMPT_CNT,
    .cmpr_STALLED, .cmpr_STALL_TIME, .cmpr_STORED_CHUNKS, .cmpr_TRUNC_CNT, .cmpr_TRUNC_SEEN]) :
    rest F (s.openJob r) = rest F s := by
  unfold State.openJob
  dsimp only
  split
  · rfl
  · split
    · split
      · next he10 =>
        simp only [State.rest_emptyFinal h.sub hr.sub he10, State.rest_setCmpR h.sub hr.sub, State.rest_unstall h.sub hr.sub,
          eq_self]
      · simp only [State.rest_stall h.sub hr.sub, eq_self]
    · split
      · simp only [State.rest_stall h.sub hr.sub, eq_self]
      · next he10 =>
        simp only [State.rest_openPkt h.sub hr.sub he10, State.rest_setCmpR h.sub hr.sub, State.rest_unstall h.sub hr.sub,
          State.rest_blockStart h.sub hr.sub, rest_when, eq_self, implies_true]

theorem State.rest_askRoom (h : F.may [.que, .eth, .events] (areaRegs ++
    [Fld.eth_EVQ_LOST, Fld.eth_QP_HELD, Fld.que_HELD_CNT])) (o : OpenPkt) (want : List CItem) :
    rest F (s.askRoom o want).1 = rest F s := by
  simp only [State.askRoom, State.rest_grantUpTo h.sub, eq_self]

theorem State.rest_admitFrame (h : F.may [.cmp, .que, .eth, .events] (areaRegs ++
    [Fld.eth_EVQ_LOST, Fld.eth_QP_HELD, Fld.que_GRANT_WAIT, Fld.que_HELD_CNT])) {r : Fin 16}
    (hr : F.mayAt r [.cmpr_STALLED, .cmpr_STALL_TIME]) (o : OpenPkt) : rest F (s.admitFrame r o) = rest F s := by
  simp only [State.admitFrame, State.rest_askRoom h.sub, State.rest_setOpen h.sub hr.sub, State.rest_unstall h.sub hr.sub,
    State.rest_stall h.sub hr.sub, rest_ite, ite_self, eq_self]

theorem State.rest_evBlk (h : F.may [.cmp] []) {r : Fin 16} (hr : F.mayAt r []) (k : ℕ) : rest F (s.evBlk r k) = rest F s := by
  simp only [State.evBlk, State.rest_blockStart h.sub hr.sub, State.rest_setCmpR h.sub hr.sub, rest_ite, ite_self, eq_self]

theorem State.rest_evClose (h : F.may [.seq, .evb, .cmp, .que, .cab, .events]
    (areaRegs ++ [Fld.cab_REC_DISC, Fld.eth_EVQ_LOST, Fld.eth_NO_QP, Fld.que_GRANT_WAIT, Fld.que_PATCH_CNT])) {r : Fin 16}
    (hr : F.mayAt r [.cmpr_ACT_KIND, .cmpr_CMP_FINAL, .cmpr_IN_BYTES, .cmpr_OUT_BYTES, .cmpr_PKT_CNT, .cmpr_PREEMPT_CNT,
    .cmpr_STALLED, .cmpr_STALL_TIME, .cmpr_STORED_CHUNKS, .cmpr_TRUNC_CNT, .cmpr_TRUNC_SEEN]) (flags : ℕ) (trunc final : Bool)
    : rest F (s.evClose r flags trunc final) = rest F s := by
  simp only [State.evClose, State.rest_closePkt h.sub hr.sub, State.rest_setCmpR h.sub hr.sub, eq_self]

theorem State.rest_evEnd (h : F.may [.seq, .evb, .cmp, .que, .cab, .events]
    (areaRegs ++ [Fld.cab_REC_DISC, Fld.eth_EVQ_LOST, Fld.eth_NO_QP, Fld.que_GRANT_WAIT, Fld.que_PATCH_CNT])) {r : Fin 16}
    (hr : F.mayAt r [.cmpr_ACT_KIND, .cmpr_CMP_FINAL, .cmpr_IN_BYTES, .cmpr_OUT_BYTES, .cmpr_PKT_CNT, .cmpr_PREEMPT_CNT,
    .cmpr_STALLED, .cmpr_STALL_TIME, .cmpr_STORED_CHUNKS, .cmpr_TRUNC_CNT, .cmpr_TRUNC_SEEN]) {k : ℕ} {final : Bool}
    {u : State} (he : s.evEnd r k final = some u) : rest F u = rest F s := by
  unfold State.evEnd at he
  dsimp only at he
  split at he
  · cases he
    simp only [State.rest_setCmpR h.sub hr.sub, State.rest_blockEnd h.sub hr.sub, State.rest_evClose h.sub hr.sub, eq_self]
  · split at he
    · obtain ⟨v9, hv9, he⟩ := Option.map_eq_some_iff.1 he
      cases he
      simp only [State.rest_emptyFinal h.sub hr.sub hv9, State.rest_setCmpR h.sub hr.sub, State.rest_blockEnd h.sub hr.sub,
        eq_self]
    · cases he
      simp only [State.rest_setCmpR h.sub hr.sub, State.rest_blockEnd h.sub hr.sub, State.rest_ctxReady h.sub hr.sub, rest_ite,
        ite_self, eq_self]
  · split at he
    · exact State.rest_emptyFinal h.sub hr.sub he
    · cases he
      rfl

theorem State.rest_evStep (h : F.may [.seq, .evb, .cmp, .que, .cab, .eth, .events]
    (fabricRegs ++ [Fld.eth_EVQ_LOST, Fld.que_GRANT_WAIT, Fld.que_PATCH_CNT])) {r : Fin 16} (hr : F.mayAt r engineRegs) :
    rest F (s.evStep r).1 = rest F s := by
  unfold State.evStep
  dsimp only
  split
  · rfl
  · split
    · split
      · next he10 =>
        simp only [State.rest_evEnd h.sub hr.sub he10, eq_self]
      · simp only [State.rest_stall h.sub hr.sub, eq_self]
    · split
      · next he10 =>
        simp only [State.rest_evEnd h.sub hr.sub he10, State.rest_setCmpR h.sub hr.sub, eq_self]
      · simp only [State.rest_stall h.sub hr.sub, eq_self]
  · split
    · simp only [State.bump_eq, rest_wrAt .cmpr_TRUNC_ELEMS hr.sub, State.rest_setCmpR h.sub hr.sub, State.rest_ringDrop h.sub,
        eq_self]
    · split
      · split
        · next he9 =>
          simp only [State.rest_evEnd h.sub hr.sub he9, eq_self]
        · simp only [State.rest_stall h.sub hr.sub, eq_self]
      · split
        · split
          · next he8 =>
            simp only [State.rest_openPkt h.sub hr.sub he8, State.rest_evBlk h.sub hr.sub, State.rest_unstall h.sub hr.sub,
              eq_self]
          · simp only [State.rest_stall h.sub hr.sub, State.rest_evBlk h.sub hr.sub, eq_self]
        · split
          · rfl
          · split <;> simp only [State.rest_setCmpR h.sub hr.sub, State.rest_stall h.sub hr.sub,
              State.rest_unstall h.sub hr.sub, State.rest_askRoom h.sub, State.rest_ringPut h.sub,
              State.rest_setOpen h.sub hr.sub, rest_elim, eq_self, implies_true]

theorem State.rest_evRun (h : F.may [.seq, .evb, .cmp, .que, .cab, .eth, .events]
    (fabricRegs ++ [Fld.eth_EVQ_LOST, Fld.que_GRANT_WAIT, Fld.que_PATCH_CNT])) {r : Fin 16} (hr : F.mayAt r engineRegs) (n : ℕ)
    : rest F (s.evRun r n) = rest F s := by
  induction n generalizing s with
  | zero => rfl
  | succ n ih =>
    unfold State.evRun
    have hs := State.rest_evStep (s := s) h.sub hr.sub
    split
    next he => exact ih.trans (by rw [← hs, he])
    next he => rw [← hs, he]

theorem State.rest_accStage (h : F.may [.accum] []) {r : Fin 16} (hr : F.mayAt r []) : rest F (s.accStage r) = rest F s := by
  unfold State.accStage
  exact (State.rest_setAccR (x := { s.accum.r[r] with stage := match (s.cmpR r).accJob with
      | some (j, c) => spRange j.px c (c + stageSize)
      | none => [] }) h.sub hr.sub)

theorem State.rest_accCut (h : F.may [.cmp] []) {r : Fin 16} (hr : F.mayAt r []) : rest F (s.accCut r) = rest F s := by
  unfold State.accCut
  dsimp only
  split
  · simp only [State.rest_setCmpR h.sub hr.sub, eq_self]
  · rfl

theorem State.rest_pump (h : F.may [.seq, .evb, .accum, .cmp, .que, .cab, .eth, .events]
    (fabricRegs ++ [Fld.eth_EVQ_LOST, Fld.que_GRANT_WAIT, Fld.que_PATCH_CNT])) {r : Fin 16} (hr : F.mayAt r engineRegs) :
    rest F (s.pump r) = rest F s := by
  unfold State.pump
  simp only [State.rest_accStage h.sub hr.sub]
  split
  · simp only [State.rest_evRun h.sub hr.sub, State.rest_admitFrame h.sub hr.sub, rest_ite, ite_self, eq_self]
  · split
    · simp only [State.rest_evRun h.sub hr.sub, eq_self]
    · split <;> simp only [State.rest_evRun h.sub hr.sub, State.rest_admitFrame h.sub hr.sub, State.rest_openJob h.sub hr.sub,
        rest_ite, ite_self, eq_self]

theorem State.rest_chunkComplete (h : F.may [.seq, .evb, .accum, .cmp, .que, .cab, .eth, .events]
    (fabricRegs ++ [Fld.eth_EVQ_LOST, Fld.que_GRANT_WAIT, Fld.que_PATCH_CNT])) {r : Fin 16} (hr : F.mayAt r engineRegs) :
    rest F (s.chunkComplete r) = rest F s := by
  unfold State.chunkComplete
  split
  · split
    · rfl
    · dsimp only
      split
      · simp only [State.rest_emitChunk h.sub hr.sub, State.rest_pump h.sub hr.sub, State.rest_evClose h.sub hr.sub, rest_ite,
          ite_self, eq_self]
      · split
        · split <;> simp only [State.rest_emitChunk h.sub hr.sub, State.rest_pump h.sub hr.sub,
            State.rest_closePkt h.sub hr.sub, State.rest_jobEnd h.sub hr.sub, State.rest_setCmpR h.sub hr.sub, rest_ite,
            ite_self, eq_self]
        · simp only [State.rest_emitChunk h.sub hr.sub, State.rest_pump h.sub hr.sub, eq_self]
  · rfl

theorem State.rest_submit (h : F.may [.seq, .evb, .accum, .cmp, .que, .cab, .eth, .events]
    (fabricRegs ++ [Fld.eth_EVQ_LOST, Fld.que_GRANT_WAIT, Fld.que_PATCH_CNT])) {r : Fin 16} (hr : F.mayAt r engineRegs)
    (j : Job) : rest F (s.submit r j) = rest F s := by
  unfold State.submit
  simp only [State.rest_setCmpR h.sub hr.sub, State.rest_pump h.sub hr.sub]
  split
  · split
    · split
      · split
        · split
          · next he8 =>
            simp only [State.rest_evEnd h.sub hr.sub he8, State.rest_setCmpR h.sub hr.sub, eq_self]
          · simp only [State.rest_evClose h.sub hr.sub, eq_self]
        · simp only [State.rest_evClose h.sub hr.sub, eq_self]
      · simp only [State.rest_evClose h.sub hr.sub, eq_self]
    · rfl
  · rfl

theorem State.rest_evInput (h : F.may [.seq, .evb, .accum, .cmp, .que, .cab, .eth, .events]
    (fabricRegs ++ [Fld.eth_EVQ_LOST, Fld.que_GRANT_WAIT, Fld.que_PATCH_CNT])) {r : Fin 16} (hr : F.mayAt r engineRegs)
    (x : EvIn) : rest F (s.evInput r x) = rest F s := by
  simp only [State.evInput, State.rest_pump h.sub hr.sub, State.rest_setCmpR h.sub hr.sub, eq_self]

theorem State.rest_stallLimit (h : F.may [.seq, .evb, .accum, .cmp, .que, .cab, .eth, .detected, .events]
    (fabricRegs ++ [Fld.eth_EVQ_LOST, Fld.que_GRANT_WAIT, Fld.que_PATCH_CNT])) {r : Fin 16}
    (hr : F.mayAt r (engineRegs ++ [Fld.cmpr_FORCED])) : rest F (s.stallLimit r) = rest F s := by
  unfold State.stallLimit
  dsimp only
  split
  · split
    · split
      · simp only [State.wrB_eq, State.bump_eq, rest_wrAt .cmpr_FORCED hr.sub, rest_wrAt .cmpr_TRUNC_ELEMS hr.sub,
          State.rest_pump h.sub hr.sub, State.rest_detect h.sub, State.rest_evClose h.sub hr.sub,
          State.rest_setCmpR h.sub hr.sub, State.rest_ringDrop h.sub, State.rest_blockEnd h.sub hr.sub, eq_self]
      · split
        · rfl
        · simp only [State.wrB_eq, State.bump_eq, rest_wrAt .cmpr_FORCED hr.sub, rest_wrAt .cmpr_TRUNC_ELEMS hr.sub,
            State.rest_pump h.sub hr.sub, State.rest_detect h.sub, State.rest_closePkt h.sub hr.sub,
            State.rest_jobEnd h.sub hr.sub, eq_self]
    · rfl
  · rfl

theorem State.rest_dropInq (h : F.may [.evb, .cmp] []) {r : Fin 16} (hr : F.mayAt r [.tdcr_DROP_ABORT]) :
    rest F (s.dropInq r) = rest F s := by
  simp only [State.dropInq, State.bump_eq, rest_wrAt .tdcr_DROP_ABORT hr.sub, State.rest_setCmpR h.sub hr.sub,
    State.rest_ringDrop h.sub, eq_self]

theorem State.rest_abortEvents (h : F.may [.seq, .evb, .accum, .cmp, .que, .cab, .eth, .events]
    (fabricRegs ++ [Fld.eth_EVQ_LOST, Fld.que_GRANT_WAIT, Fld.que_PATCH_CNT])) {r : Fin 16}
    (hr : F.mayAt r (engineRegs ++ [Fld.tdcr_DROP_ABORT])) : rest F (s.abortEvents r) = rest F s := by
  unfold State.abortEvents
  simp only [State.rest_pump h.sub hr.sub, State.rest_ctxReady h.sub hr.sub, State.rest_setCmpR h.sub hr.sub]
  split <;> simp only [State.rest_dropInq h.sub hr.sub, State.rest_evClose h.sub hr.sub, rest_ite, ite_self, eq_self]

theorem State.rest_cmpCut (h : F.may [.seq, .evb, .cmp, .que, .cab, .events]
    (areaRegs ++ [Fld.cab_REC_DISC, Fld.eth_EVQ_LOST, Fld.eth_NO_QP, Fld.que_GRANT_WAIT, Fld.que_PATCH_CNT])) {r : Fin 16}
    (hr : F.mayAt r [.cmpr_ACT_KIND, .cmpr_CMP_FINAL, .cmpr_IN_BYTES, .cmpr_OUT_BYTES, .cmpr_PKT_CNT, .cmpr_PREEMPT_CNT,
    .cmpr_STALLED, .cmpr_STALL_TIME, .cmpr_STORED_CHUNKS, .cmpr_TRUNC_CNT, .cmpr_TRUNC_SEEN, .tdcr_DROP_ABORT]) :
    rest F (s.cmpCut r) = rest F s := by
  simp only [State.cmpCut, rest_wrAt .cmpr_ACT_KIND hr.sub, State.rest_headFlag h.sub, State.rest_unstall h.sub hr.sub,
    State.rest_dropInq h.sub hr.sub, State.rest_closePkt h.sub hr.sub, State.rest_setCmpR h.sub hr.sub,
    State.rest_ctxReady h.sub hr.sub, rest_each, eq_self, implies_true]

theorem State.rest_encodeAll (h : F.may [.seq, .evb, .accum, .cmp, .que, .cab, .eth, .events]
    (fabricRegs ++ [Fld.eth_EVQ_LOST, Fld.que_GRANT_WAIT, Fld.que_PATCH_CNT])) {r : Fin 16} (hr : F.mayAt r engineRegs) :
    rest F (s.encodeAll r) = rest F s := by
  simp only [State.encodeAll, State.rest_chunkComplete h.sub hr.sub, rest_foldl, eq_self, implies_true]

theorem State.rest_cmpAbort (h : F.may [.seq, .evb, .accum, .cmp, .que, .cab, .events]
    (areaRegs ++ [Fld.cab_REC_DISC, Fld.eth_EVQ_LOST, Fld.eth_NO_QP, Fld.que_GRANT_WAIT, Fld.que_PATCH_CNT])) {r : Fin 16}
    (hr : F.mayAt r [.cmpr_ACT_KIND, .cmpr_CMP_FINAL, .cmpr_IN_BYTES, .cmpr_OUT_BYTES, .cmpr_PKT_CNT, .cmpr_PREEMPT_CNT,
    .cmpr_STALLED, .cmpr_STALL_TIME, .cmpr_STORED_CHUNKS, .cmpr_TRUNC_CNT, .cmpr_TRUNC_SEEN, .tdcr_DROP_ABORT]) :
    rest F (s.cmpAbort r) = rest F s := by
  simp only [State.cmpAbort, State.rest_cmpCut h.sub hr.sub, State.rest_accStage h.sub hr.sub, State.rest_setCmpR h.sub hr.sub,
    eq_self]

theorem State.rest_ctxNext {r : Fin 16} (hr : F.mayAt r [.cmpr_CTX_IDX]) : rest F (s.ctxNext r) = rest F s := by
  simp only [State.ctxNext, rest_wrAt .cmpr_CTX_IDX hr.sub, eq_self]

theorem State.rest_setSnap (h : F.may [.ctl] []) (w : Fin 10) (x : Snap) : rest F (s.setSnap w x) = rest F s := by
  simp only [State.setSnap, rest_ctl h.sub, eq_self]

theorem State.rest_snapWord {p : ℕ} (hp : F.mayOf p [.hdr_SNAP_MISS]) (w : Fin 10) (base k : ℕ) (view : Bool) (live : ℕ) :
    rest F (s.snapWord w p base k view live).1 = rest F s := by
  unfold State.snapWord
  split
  · split
    · rfl
    · simp only [State.bump_eq, rest_wrOf .hdr_SNAP_MISS hp.sub, eq_self]
  · simp only [State.bump_eq, rest_wrOf .hdr_SNAP_MISS hp.sub, eq_self]

theorem State.rest_ctxWord (h : F.may [.ctl] []) {r : Fin 16} (hr : F.mayAt r [.cmpr_CTX_IDX])
    (hp : F.mayOf (cmpPage r) [.hdr_SNAP_MISS]) (w : Fin 10) (view : Bool) : rest F (s.ctxWord r w view).1 = rest F s := by
  unfold State.ctxWord
  dsimp only
  split
  · simp only [State.rest_ctxNext hr.sub, eq_self]
  · split <;> simp only [State.rest_ctxNext hr.sub, State.rest_setSnap h.sub, State.rest_snapWord hp.sub, eq_self]

theorem State.rest_ctxRead (h : F.may [.ctl, .lastRead] []) {r : Fin 16} (hr : F.mayAt r [.cmpr_CTX_IDX])
    (hp : F.mayOf (cmpPage r) [.hdr_SNAP_MISS]) (w : Fin 10) : rest F (s.ctxRead r w) = rest F s := by
  simp only [State.ctxRead, rest_lastRead h.sub, State.rest_ctxWord h.sub hr.sub hp.sub, eq_self]

theorem State.rest_setStage (h : F.may [.ctl] []) (w : Fin 10) (l : List (ℕ × ℕ × ℕ)) : rest F (s.setStage w l) = rest F s := by
  simp only [State.setStage, rest_ctl h.sub, eq_self]

theorem State.rest_ctxWrite (h : F.may [.cmp, .ctl] []) {r : Fin 16} (hr : F.mayAt r [.cmpr_CFG_ERR, .cmpr_CTX_IDX])
    (w : Fin 10) (v : ℕ) : rest F (s.ctxWrite r w v) = rest F s := by
  simp only [State.ctxWrite, State.wrB_eq, rest_wrAt .cmpr_CFG_ERR hr.sub, State.rest_ctxNext hr.sub,
    State.rest_setStage h.sub, State.rest_setCmpR h.sub hr.sub, rest_ite, ite_self, eq_self]

theorem State.rest_ctxLoad (h : F.may [.cmp] []) {r : Fin 16} (hr : F.mayAt r [.cmpr_CFG_ERR, .cmpr_CTX_LOAD_BUSY]) :
    rest F (s.ctxLoad r) = rest F s := by
  simp only [State.ctxLoad, State.wrB_eq, rest_wrAt .cmpr_CFG_ERR hr.sub, rest_wrAt .cmpr_CTX_LOAD_BUSY hr.sub,
    State.rest_setCmpR h.sub hr.sub, rest_ite, ite_self, eq_self]

theorem State.rest_setRp (h : F.may [.cmp] []) (n : ℕ) (x : RpS) : rest F (s.setRp n x) = rest F s := by
  simp only [State.setRp, rest_cmp h.sub, eq_self]

theorem State.rest_rpStall (h : F.may [.cmp] [.cmp_RP_STALL]) (n : ℕ) : rest F (s.rpStall n) = rest F s := by
  simp only [State.rpStall, State.bump_eq, rest_wr .cmp_RP_STALL h.sub, State.rest_setRp h.sub, rest_ite, ite_self, eq_self]

theorem State.rest_rpGo (h : F.may [.cmp] [.que_GRANT_WAIT]) (n : ℕ) : rest F (s.rpGo n) = rest F s := by
  unfold State.rpGo
  dsimp only
  split
  · simp only [State.bump_eq, rest_wr .que_GRANT_WAIT h.sub, State.rest_setRp h.sub, eq_self]
  · rfl

theorem State.rest_setFront (h : F.may [.cmp] []) (n : ℕ) (g : RpG) : rest F (s.setFront n g) = rest F s := by
  simp only [State.setFront, State.rest_setRp h.sub, eq_self]

theorem State.rest_rpOpen (h : F.may [.evb, .cmp, .que, .cab, .events] (areaRegs ++
    [Fld.cab_REC_DISC, Fld.eth_EVQ_LOST, Fld.que_GRANT_WAIT])) {n : ℕ} {g : RpG} {u : State} (he : s.rpOpen n g = some u) :
    rest F u = rest F s := by
  unfold State.rpOpen at he
  dsimp only at he
  obtain ⟨⟨v11, b11⟩, hv11, he⟩ := Option.map_eq_some_iff.1 he
  cases he
  simp only [State.rest_openItem h.sub hv11, State.rest_rpGo h.sub, State.rest_setFront h.sub, eq_self]

theorem State.rest_rpMove (h : F.may [.evb, .cmp, .que, .cab, .eth, .events]
    (areaRegs ++ [Fld.cab_REC_DISC, Fld.eth_EVQ_LOST, Fld.eth_QP_HELD, Fld.que_GRANT_WAIT, Fld.que_HELD_CNT])) {n : ℕ}
    {g : RpG} {i : ℕ} {e : List ℕ} {u : State} (he : s.rpMove n g i e = some u) : rest F u = rest F s := by
  unfold State.rpMove at he
  dsimp only at he
  split at he
  · split at he
    · cases he
      simp only [State.rest_grantUpTo h.sub, State.rest_writeItem h.sub, State.rest_rpGo h.sub, State.rest_setFront h.sub,
        eq_self]
    · cases he
  · split at he
    · cases he
      simp only [State.rest_grantUpTo h.sub, State.rest_writeItem h.sub, State.rest_rpGo h.sub, State.rest_setFront h.sub,
        eq_self]
    · cases he

theorem State.rest_rpLeave (h : F.may [.evb, .cmp, .que, .cab, .events]
    (areaRegs ++ [Fld.cab_REC_DISC, Fld.cmp_RP_PKTS, Fld.eth_EVQ_LOST, Fld.eth_NO_QP, Fld.que_GRANT_WAIT, Fld.que_PATCH_CNT]))
    (n : ℕ) (g : RpG) (i : ℕ) (x : RpShut) : rest F (s.rpLeave n g i x) = rest F s := by
  simp only [State.rpLeave, State.bump_eq, rest_wr .cmp_RP_PKTS h.sub, State.rest_rpGo h.sub, State.rest_setRp h.sub,
    State.rest_queRegs h.sub, State.rest_closeItem h.sub, eq_self]

theorem State.rest_rpStep (h : F.may [.evb, .cmp, .que, .cab, .eth, .events]
    (fabricRegs ++ [Fld.cmp_RP_PKTS, Fld.eth_EVQ_LOST, Fld.que_GRANT_WAIT, Fld.que_PATCH_CNT])) {n : ℕ} {u : State}
    (he : s.rpStep n = some u) : rest F u = rest F s := by
  unfold State.rpStep at he
  split at he
  · cases he
  · split at he
    · exact State.rest_rpOpen h.sub he
    · exact State.rest_rpMove h.sub he
    · cases he
      simp only [State.rest_rpLeave h.sub, eq_self]
    · cases he

theorem State.rest_rpPump (h : F.may [.evb, .cmp, .que, .cab, .eth, .events] (fabricRegs ++ feedRegs ++ [Fld.eth_EVQ_LOST]))
    (n k : ℕ) : rest F (s.rpPump n k) = rest F s := by
  induction k generalizing s with
  | zero => rfl
  | succ f ih =>
    unfold State.rpPump
    split
    next he => exact ih.trans (State.rest_rpStep h.sub he)
    · split
      · exact State.rest_rpStall h.sub _
      · rfl

theorem State.rest_rpRun (h : F.may [.evb, .cmp, .que, .cab, .eth, .events] (fabricRegs ++ feedRegs ++ [Fld.eth_EVQ_LOST]))
    (n : ℕ) : rest F (s.rpRun n) = rest F s := by
  simp only [State.rpRun, State.rest_rpPump h.sub, eq_self]

theorem State.rest_rpShut (h : F.may [.cmp] []) (n k : ℕ) (last : Bool) : rest F (s.rpShut n k last) = rest F s := by
  simp only [State.rpShut, State.rest_setRp h.sub, eq_self]

theorem State.rest_rpClose (h : F.may [.evb, .cmp, .que, .cab, .eth, .events] (fabricRegs ++ feedRegs ++ [Fld.eth_EVQ_LOST]))
    (n k : ℕ) (last : Bool) : rest F (s.rpClose n k last) = rest F s := by
  simp only [State.rpClose, State.rest_setRp h.sub, State.rest_rpRun h.sub, State.rest_rpShut h.sub, rest_ite, ite_self,
    eq_self]

theorem State.rest_rpGather (h : F.may [.cmp] []) (n : ℕ) (e : List ℕ) : rest F (s.rpGather n e) = rest F s := by
  simp only [State.rpGather, State.rest_setRp h.sub, eq_self]

theorem State.rest_rpAdd (h : F.may [.evb, .cmp, .que, .cab, .eth, .events] (fabricRegs ++ feedRegs ++ [Fld.eth_EVQ_LOST]))
    (n : ℕ) (e : List ℕ) : rest F (s.rpAdd n e) = rest F s := by
  simp only [State.rpAdd, State.rest_rpGather h.sub, State.rest_rpShut h.sub, State.rest_rpRun h.sub, rest_ite, ite_self,
    eq_self]

theorem State.rest_rpEnd (h : F.may [.evb, .cmp, .que, .cab, .eth, .events] (fabricRegs ++ feedRegs ++ [Fld.eth_EVQ_LOST]))
    (n k : ℕ) (e : List ℕ) : rest F (s.rpEnd n k e) = rest F s := by
  simp only [State.rpEnd, State.rest_rpClose h.sub, State.rest_rpGather h.sub, eq_self]

theorem State.rest_regionRec (h : F.may [.evb, .cmp, .que, .cab, .eth, .events] (fabricRegs ++ feedRegs ++ [Fld.eth_EVQ_LOST]))
    (r : Fin 16) (b : List ℕ) : rest F (s.regionRec r b) = rest F s := by
  simp only [State.regionRec, State.rest_rpAdd h.sub, eq_self]

theorem State.rest_moduleRec (h : F.may [.evb, .cmp, .que, .cab, .eth, .events] (fabricRegs ++ feedRegs ++ [Fld.eth_EVQ_LOST]))
    (b : List ℕ) : rest F (s.moduleRec b) = rest F s := by
  simp only [State.moduleRec, State.rest_rpAdd h.sub, eq_self]

theorem State.rest_auxWord (h : F.may [.evb, .cmp, .que, .cab, .eth, .events] (fabricRegs ++ feedRegs ++ [Fld.eth_EVQ_LOST]))
    (w : ℕ) : rest F (s.auxWord w) = rest F s := by
  simp only [State.auxWord, State.rest_rpAdd h.sub, eq_self]

theorem State.rest_auxNext (h : F.may [.tdc, .evb, .cmp, .que, .cab, .eth, .events]
    (fabricRegs ++ feedRegs ++ [Fld.eth_EVQ_LOST])) (c : Fin 4) : rest F (s.auxNext c) = rest F s := by
  unfold State.auxNext
  split
  · simp only [State.rest_auxWord h.sub, State.rest_setAux h.sub, rest_ite, ite_self, eq_self]
  · rfl

theorem State.rest_auxFlush (h : F.may [.tdc, .evb, .cmp, .que, .cab, .eth, .events]
    (fabricRegs ++ feedRegs ++ [Fld.eth_EVQ_LOST])) : rest F s.auxFlush = rest F s := by
  simp only [State.auxFlush, State.rest_auxNext h.sub, rest_each, rest_foldl, eq_self, implies_true]

theorem State.rest_grantAvailable (h : F.may [.tdc, .seq, .evb, .accum, .cmp, .que, .cab, .edc, .eth, .detected, .events]
    (storeRegs ++ fabricRegs ++ feedRegs ++ [Fld.eth_EVQ_LOST])) (hr : ∀ r, F.mayAt r engineRegs) (src : Fin 21) :
    rest F (s.grantAvailable src) = rest F s := by
  unfold State.grantAvailable
  simp only [State.rest_winPump h.sub]
  split <;> simp only [State.rest_pump h.sub (hr _).sub, State.rest_auxFlush h.sub, State.rest_rpRun h.sub,
    State.rest_cabPull h.sub, rest_each, rest_ite, ite_self, eq_self, implies_true]

theorem State.rest_packFault (h : F.may [.que, .detected] [.que_PACK_FAULT]) : rest F s.packFault = rest F s := by
  simp only [State.packFault, State.wrB_eq, rest_wr .que_PACK_FAULT h.sub, State.rest_detect h.sub, State.rest_queUpd h.sub,
    eq_self]

theorem State.rest_cmdReserved (h : F.may [] [.cab_CFG_ERR]) : rest F s.cmdReserved = rest F s := by
  simp only [State.cmdReserved, State.wrB_eq, rest_wr .cab_CFG_ERR h.sub, eq_self]

/-! #### SNS -/

theorem State.rest_upIn (h : F.may [.hka] []) (i : Fin 32) (f : HkaIn → HkaIn) : rest F (s.upIn i f) = rest F s := by
  simp only [State.upIn, rest_hka h.sub, eq_self]

theorem State.rest_setRamp (h : F.may [.sns] []) (r : Fin 16) (x : Option Ramp) : rest F (s.setRamp r x) = rest F s := by
  simp only [State.setRamp, rest_sns h.sub, eq_self]

theorem State.rest_biasStart (h : F.may [.sns, .hka] [.sns_BIAS_EN]) {r : Fin 16}
    (hr : F.mayAt r [.sns_BIAS_OK, .sns_RAMPING, .sns_V_SET]) : rest F (s.biasStart r) = rest F s := by
  simp only [State.biasStart, State.wrB_eq, State.wrBit_eq, rest_wrAt .sns_V_SET hr.sub, rest_wrAt .sns_BIAS_OK hr.sub,
    rest_wrAt .sns_RAMPING hr.sub, rest_wr .sns_BIAS_EN h.sub, State.rest_setRamp h.sub, State.rest_upIn h.sub, eq_self]

theorem State.rest_biasEnSet (h : F.may [.sns, .hka] [.sns_BIAS_EN, .sns_BIAS_EN_ERR]) {r : Fin 16}
    (hr : F.mayAt r [.sns_BIAS_OK, .sns_RAMPING, .sns_V_SET]) : rest F (s.biasEnSet r) = rest F s := by
  simp only [State.biasEnSet, State.wrB_eq, rest_wr .sns_BIAS_EN_ERR h.sub, State.rest_biasStart h.sub hr.sub, rest_ite,
    ite_self, eq_self]

theorem State.rest_biasEnClear (h : F.may [.sns] [.sns_BIAS_EN]) {r : Fin 16}
    (hr : F.mayAt r [.sns_BIAS_OK, .sns_RAMPING, .sns_V_SET]) : rest F (s.biasEnClear r) = rest F s := by
  simp only [State.biasEnClear, State.wrB_eq, State.wrBit_eq, rest_wrAt .sns_V_SET hr.sub, rest_wrAt .sns_BIAS_OK hr.sub,
    rest_wrAt .sns_RAMPING hr.sub, rest_wr .sns_BIAS_EN h.sub, State.rest_setRamp h.sub, rest_ite, ite_self, eq_self]

theorem State.rest_crowbar (h : F.may [.sns] [.sns_BIAS_EN]) {r : Fin 16}
    (hr : F.mayAt r [.sns_BIAS_OK, .sns_RAMPING, .sns_V_SET]) : rest F (s.crowbar r) = rest F s := by
  simp only [State.crowbar, State.wrB_eq, State.wrBit_eq, rest_wrAt .sns_V_SET hr.sub, rest_wrAt .sns_BIAS_OK hr.sub,
    rest_wrAt .sns_RAMPING hr.sub, rest_wr .sns_BIAS_EN h.sub, State.rest_setRamp h.sub, eq_self]

theorem State.rest_rampDownAll (h : F.may [.sns] [.sns_BIAS_EN]) (hr : ∀ r, F.mayAt r [.sns_BIAS_OK, .sns_RAMPING, .sns_V_SET])
    : rest F s.rampDownAll = rest F s := by
  simp only [State.rampDownAll, State.rest_biasEnClear h.sub (hr _).sub, rest_each, eq_self, implies_true]

theorem State.rest_rampDone (h : F.may [.sns] []) {r : Fin 16} (hr : F.mayAt r [.sns_BIAS_OK, .sns_RAMPING, .sns_V_SET]) :
    rest F (s.rampDone r) = rest F s := by
  unfold State.rampDone
  split
  · rfl
  · simp only [State.wrB_eq, rest_wrAt .sns_BIAS_OK hr.sub, rest_wrAt .sns_RAMPING hr.sub, rest_wrAt .sns_V_SET hr.sub,
      State.rest_setRamp h.sub, rest_ite, ite_self, eq_self]

/-! #### HKA -/

theorem State.rest_upRtd (h : F.may [.hka] []) (c : Fin 4) (f : RtdCh → RtdCh) : rest F (s.upRtd c f) = rest F s := by
  simp only [State.upRtd, rest_hka h.sub, eq_self]

theorem State.rest_hkaStale (h : F.may [] [.hka_STALE]) : rest F s.hkaStale = rest F s := by
  simp only [State.hkaStale, State.wrB_eq, rest_wr .hka_STALE h.sub, rest_when, rest_each, eq_self, implies_true]

theorem State.rest_crossing (h : F.may [.detected, .events] [.eth_EVQ_LOST]) (i : ℕ) (high : Bool) (lvl : ℕ) (x : ℤ) :
    rest F (s.crossing i high lvl x) = rest F s := by
  simp only [State.crossing, State.rest_emit h.sub, State.rest_detect h.sub, rest_ite, ite_self, eq_self]

theorem State.rest_check4 (h : F.may [.hka, .detected, .events] [.eth_EVQ_LOST]) (i : Fin 32) (x : ℤ) :
    rest F (s.check4 i x) = rest F s := by
  unfold State.check4
  split <;> simp only [State.rest_upIn h.sub, State.rest_crossing h.sub, rest_when, eq_self, implies_true]

theorem State.rest_check1 (h : F.may [.hka, .detected, .events] [.eth_EVQ_LOST]) (i : Fin 32) (x : ℤ) :
    rest F (s.check1 i x) = rest F s := by
  unfold State.check1
  dsimp only
  split <;> simp only [State.rest_upIn h.sub, State.rest_crossing h.sub, rest_when, eq_self, implies_true]

theorem State.rest_clampSeen (h : F.may [] [.hka_CLAMP, .hka_CLAMP_SEEN]) (i : Fin 32) : rest F (s.clampSeen i) = rest F s := by
  simp only [State.clampSeen, State.wrB_eq, State.wrBit_eq, rest_wr .hka_CLAMP h.sub, rest_wr .hka_CLAMP_SEEN h.sub, eq_self]

theorem State.rest_biasSample (h : F.may [.hka] [.hka_SETTLING]) (i : Fin 32) (v : HkaSample) :
    rest F (s.biasSample i v) = rest F s := by
  simp only [State.biasSample, State.wrB_eq, rest_wr .hka_SETTLING h.sub, State.rest_upIn h.sub, eq_self]

theorem State.rest_plainSample (h : F.may [.hka, .detected, .events] [.eth_EVQ_LOST]) (i : Fin 32) (v : HkaSample) :
    rest F (s.plainSample i v) = rest F s := by
  simp only [State.plainSample, State.rest_upIn h.sub, State.rest_check4 h.sub, rest_ite, ite_self, eq_self]

theorem State.rest_rtdSample (h : F.may [.hka] []) (c : Fin 4) (v : HkaSample) : rest F (s.rtdSample c v) = rest F s := by
  simp only [State.rtdSample, State.rest_upRtd h.sub, rest_ite, ite_self, eq_self]

theorem State.rest_hkaSample (h : F.may [.hka, .detected, .events] [.eth_EVQ_LOST, .hka_CLAMP, .hka_CLAMP_SEEN, .hka_SETTLING])
    (i : Fin 32) (v : HkaSample) : rest F (s.hkaSample i v) = rest F s := by
  simp only [State.hkaSample, State.rest_clampSeen h.sub, State.rest_rtdSample h.sub, State.rest_biasSample h.sub,
    State.rest_plainSample h.sub, rest_when, rest_ite, ite_self, eq_self, implies_true]

theorem State.rest_hkaPublish (h : F.may [.hka, .detected, .events] [.eth_EVQ_LOST, .hka_CLAMP, .hka_OVR, .hka_RANGE,
    .hka_RES_VAL, .hka_STALE, .hka_VALID]) (i : Fin 32) : rest F (s.hkaPublish i) = rest F s := by
  simp only [State.hkaPublish, State.wrB_eq, State.wrS_eq, rest_wr .hka_CLAMP h.sub, rest_wr .hka_OVR h.sub,
    rest_wr .hka_STALE h.sub, rest_wr .hka_VALID h.sub, rest_wr .hka_RES_VAL h.sub, rest_wr .hka_RANGE h.sub,
    State.rest_upIn h.sub, State.rest_check1 h.sub, rest_when, rest_ite, ite_self, eq_self, implies_true]

theorem State.rest_hkaClose (h : F.may [.hka, .detected, .events] [.eth_EVQ_LOST, .hka_CLAMP, .hka_OVR, .hka_RANGE,
    .hka_RES_VAL, .hka_STALE, .hka_VALID]) : rest F s.hkaClose = rest F s := by
  simp only [State.hkaClose, State.rest_hkaPublish h.sub, rest_each, rest_ite, ite_self, eq_self, implies_true]

theorem State.rest_scanPos (h : F.may [.hka, .detected, .events] [.eth_EVQ_LOST, .hka_CLAMP, .hka_CLAMP_SEEN, .hka_SETTLING])
    (v : Vector HkaSample 32) (m : ℕ) : rest F (s.scanPos v m) = rest F s := by
  unfold State.scanPos
  dsimp only
  rw [rest_clock, rest_each (fun _ _ => State.rest_hkaSample h.sub _ _), rest_clock]

theorem State.rest_hkaScan (h : F.may [.hka, .detected, .events] [.eth_EVQ_LOST, .hka_CLAMP, .hka_CLAMP_SEEN, .hka_OVR,
    .hka_RANGE, .hka_RES_VAL, .hka_SETTLING, .hka_STALE, .hka_VALID]) (v : Vector HkaSample 32) :
    rest F (s.hkaScan v) = rest F s := by
  simp only [State.hkaScan, rest_hka h.sub, State.rest_hkaClose h.sub, State.rest_hkaStale h.sub, State.rest_scanPos h.sub,
    rest_each, rest_ite, ite_self, eq_self, implies_true]

theorem State.rest_rtdPublish (h : F.may [.hka, .events] [.eth_EVQ_LOST, .hka_CLAMP, .hka_RES_VAL, .hka_STALE, .hka_VALID])
    (c : Fin 4) (t : ℤ) : rest F (s.rtdPublish c t) = rest F s := by
  simp only [State.rtdPublish, State.wrB_eq, State.wrS_eq, rest_wr .hka_CLAMP h.sub, rest_wr .hka_STALE h.sub,
    rest_wr .hka_VALID h.sub, rest_wr .hka_RES_VAL h.sub, State.rest_upRtd h.sub, State.rest_upIn h.sub, State.rest_emit h.sub,
    rest_when, eq_self, implies_true]

theorem State.rest_rtdEnd (h : F.may [.hka, .events] [.eth_EVQ_LOST, .hka_CLAMP, .hka_OOR, .hka_OPEN, .hka_RES_VAL,
    .hka_RTD_OPEN, .hka_STALE, .hka_VALID]) (c : Fin 4) : rest F (s.rtdEnd c) = rest F s := by
  unfold State.rtdEnd
  dsimp only
  split
  · rfl
  · split
    · simp only [State.wrB_eq, rest_wr .hka_VALID h.sub, State.rest_upRtd h.sub, eq_self]
    · split
      · simp only [State.wrB_eq, State.wrBit_eq, rest_wr .hka_RTD_OPEN h.sub, rest_wr .hka_OPEN h.sub, State.rest_upRtd h.sub,
          rest_when, eq_self, implies_true]
      · split
        · simp only [State.rest_upRtd h.sub, eq_self]
        · simp only [State.wrB_eq, State.rest_upRtd h.sub]
          split
          · rfl
          · simp only [rest_wr .hka_OOR h.sub, State.rest_rtdPublish h.sub, rest_ite, ite_self, eq_self]

theorem State.rest_rtdReversal (h : F.may [.hka] []) : rest F s.rtdReversal = rest F s := by
  simp only [State.rtdReversal, rest_hka h.sub, rest_ite, ite_self, eq_self]

theorem State.rest_rtdPeriodEnd (h : F.may [.hka, .events] [.eth_EVQ_LOST, .hka_CLAMP, .hka_OOR, .hka_OPEN, .hka_RES_VAL,
    .hka_RTD_OPEN, .hka_STALE, .hka_VALID]) : rest F s.rtdPeriodEnd = rest F s := by
  simp only [State.rtdPeriodEnd, rest_hka h.sub, State.rest_rtdEnd h.sub, State.rest_hkaStale h.sub, rest_each, rest_ite,
    ite_self, eq_self, implies_true]

theorem State.rest_rtdOpen (h : F.may [.hka, .detected] [.hka_OPEN, .hka_RTD_OPEN, .hka_STALE, .hka_VALID]) (c : Fin 4) :
    rest F (s.rtdOpen c) = rest F s := by
  simp only [State.rtdOpen, State.wrB_eq, State.wrBit_eq, rest_wr .hka_RTD_OPEN h.sub, rest_wr .hka_VALID h.sub,
    rest_wr .hka_STALE h.sub, rest_wr .hka_OPEN h.sub, State.rest_detect h.sub, State.rest_upRtd h.sub, eq_self]

theorem State.rest_rtdMonitor (h : F.may [.hka, .detected] [.hka_OPEN, .hka_RTD_OPEN, .hka_STALE, .hka_VALID]) (dev : BitVec 4)
    : rest F (s.rtdMonitor dev) = rest F s := by
  simp only [State.rtdMonitor, State.rest_hkaStale h.sub, State.rest_upRtd h.sub, State.rest_rtdOpen h.sub, rest_when,
    rest_each, rest_ite, ite_self, eq_self, implies_true]

theorem State.rest_cutPeriods (h : F.may [.hka] []) : rest F s.cutPeriods = rest F s := by
  simp only [State.cutPeriods, State.rest_upRtd h.sub, rest_each, eq_self, implies_true]

theorem State.rest_calStart (h : F.may [.hka] [.hka_CAL_BUSY]) (startup : Bool) : rest F (s.calStart startup) = rest F s := by
  simp only [State.calStart, State.wrB_eq, rest_hka h.sub, rest_wr .hka_CAL_BUSY h.sub, State.rest_cutPeriods h.sub, eq_self]

theorem State.rest_calAsk (h : F.may [.hka] [.hka_CAL_BUSY]) : rest F s.calAsk = rest F s := by
  simp only [State.calAsk, rest_hka h.sub, State.rest_calStart h.sub, rest_ite, ite_self, eq_self]

theorem State.rest_scanOn (h : F.may [.hka] []) : rest F s.scanOn = rest F s := by
  simp only [State.scanOn, rest_hka h.sub, eq_self]

theorem State.rest_calPeriodic (h : F.may [.hka] [.hka_CAL_BUSY]) : rest F s.calPeriodic = rest F s := by
  simp only [State.calPeriodic, rest_hka h.sub, State.rest_calAsk h.sub, rest_when, rest_ite, ite_self, eq_self, implies_true]

theorem State.rest_calReq (h : F.may [.hka] [.hka_CAL_BUSY, .hka_CAL_IGN]) : rest F s.calReq = rest F s := by
  simp only [State.calReq, State.bump_eq, rest_wr .hka_CAL_IGN h.sub, State.rest_calAsk h.sub, rest_ite, ite_self, eq_self]

theorem State.rest_setFactors (h : F.may [] [.hka_CAL_GAIN, .hka_CAL_OFS, .hka_IEXC, .hka_RANGE_GAIN0, .hka_RANGE_GAIN1,
    .hka_RANGE_GAIN2]) (c : Fin 4) (f : CalFactors) : rest F (s.setFactors c f) = rest F s := by
  simp only [State.setFactors, State.wrS_eq, rest_wr .hka_IEXC h.sub, rest_wr .hka_RANGE_GAIN2 h.sub,
    rest_wr .hka_RANGE_GAIN1 h.sub, rest_wr .hka_RANGE_GAIN0 h.sub, rest_wr .hka_CAL_GAIN h.sub, rest_wr .hka_CAL_OFS h.sub,
    eq_self]

theorem State.rest_calDone (h : F.may [.hka, .detected, .events] [.eth_EVQ_LOST, .hka_CAL_BUSY, .hka_CAL_FAIL, .hka_CAL_GAIN,
    .hka_CAL_OFS, .hka_IEXC, .hka_RANGE_GAIN0, .hka_RANGE_GAIN1, .hka_RANGE_GAIN2]) (f : Vector CalFactors 4) :
    rest F (s.calDone f) = rest F s := by
  simp only [State.calDone, State.wrB_eq, rest_hka h.sub, rest_wr .hka_CAL_BUSY h.sub, rest_wr .hka_CAL_FAIL h.sub,
    State.rest_scanOn h.sub, State.rest_emit h.sub, State.rest_setFactors h.sub, State.rest_detect h.sub, rest_each, rest_ite,
    ite_self, eq_self, implies_true]

theorem State.rest_injReq (h : F.may [.hka, .events] [.eth_EVQ_LOST, .hka_CAL_ABORTED, .hka_CAL_BUSY, .hka_INJ_BUSY,
    .hka_INJ_DONE, .hka_INJ_IGN]) : rest F s.injReq = rest F s := by
  simp only [State.injReq, State.wrB_eq, State.bump_eq, rest_hka h.sub, rest_wr .hka_INJ_IGN h.sub,
    rest_wr .hka_INJ_DONE h.sub, rest_wr .hka_INJ_BUSY h.sub, rest_wr .hka_CAL_ABORTED h.sub, rest_wr .hka_CAL_BUSY h.sub,
    State.rest_emit h.sub, State.rest_scanOn h.sub, rest_ite, ite_self, eq_self]

theorem State.rest_injDone (h : F.may [.hka] [.hka_CAL_BUSY, .hka_CLAMP_SEEN, .hka_INJ_BUSY, .hka_INJ_CLAMP, .hka_INJ_CODE,
    .hka_INJ_DONE, .hka_INJ_IN, .hka_INJ_RANGE, .hka_INJ_VALUE]) (v : HkaSample) : rest F (s.injDone v) = rest F s := by
  simp only [State.injDone, State.wrB_eq, State.wrBit_eq, State.wrS_eq, rest_wr .hka_INJ_BUSY h.sub,
    rest_wr .hka_INJ_DONE h.sub, rest_wr .hka_INJ_VALUE h.sub, rest_wr .hka_INJ_CLAMP h.sub, rest_wr .hka_INJ_RANGE h.sub,
    rest_wr .hka_INJ_IN h.sub, rest_wr .hka_INJ_CODE h.sub, rest_wr .hka_CLAMP_SEEN h.sub, State.rest_calStart h.sub,
    rest_when, rest_ite, ite_self, eq_self, implies_true]

theorem State.rest_tecStart (h : F.may [.hka] []) : rest F s.tecStart = rest F s := by
  simp only [State.tecStart, rest_hka h.sub, rest_ite, ite_self, eq_self]

/-! #### PFE -/

theorem State.rest_maskNext {r : Fin 16} (hr : F.mayAt r [.pfer_MASK_ADDR]) : rest F (s.maskNext r) = rest F s := by
  simp only [State.maskNext, rest_wrAt .pfer_MASK_ADDR hr.sub, rest_ite, ite_self, eq_self]

theorem State.rest_maskWrite (h : F.may [.pfe] []) {r : Fin 16} (hr : F.mayAt r [.pfer_MASK_ADDR])
    (hp : F.mayOf (17 * Blk.pfe.idx + 1 + r) [.hdr_SHADOW_DIRTY]) (v : ℕ) : rest F (s.maskWrite r v) = rest F s := by
  simp only [State.maskWrite, State.wrB_eq, rest_pfe h.sub, rest_wrOf .hdr_SHADOW_DIRTY hp.sub, State.rest_maskNext hr.sub,
    eq_self]

theorem State.rest_maskSave (h : F.may [.pfe] [.pfe_MASK_SAVE_BUSY, .pfe_MASK_SAVE_IGN]) : rest F s.maskSave = rest F s := by
  simp only [State.maskSave, State.wrB_eq, State.bumpSat_eq, rest_pfe h.sub, rest_wr .pfe_MASK_SAVE_IGN h.sub,
    rest_wr .pfe_MASK_SAVE_BUSY h.sub, rest_ite, ite_self, eq_self]

theorem State.rest_maskSaveDone (h : F.may [.flash, .pfe] [.pfe_MASK_SAVE_BUSY]) : rest F s.maskSaveDone = rest F s := by
  unfold State.maskSaveDone
  split
  · rfl
  · rw [State.wrB_eq, rest_wr .pfe_MASK_SAVE_BUSY h.sub]
    exact (rest_flash (s := { s with pfe := { s.pfe with saving := none } }) h.sub _).trans (rest_pfe h.sub _ rfl)

theorem State.rest_pixelEdge (h : F.may [.pfe, .tdc, .detected, .events] [.eth_EVQ_LOST, .tdc_CODE_ERR_ALL]) {r : Fin 16}
    (hr : F.mayAt r [.tdcr_CODE_ERR, .tdcr_DROP_QFULL, .tdcr_PH_AMBIG]) (c p : ℕ) (raw : RawCapture) :
    rest F (s.pixelEdge r c p raw) = rest F s := by
  simp only [State.pixelEdge, State.rest_setPfeR h.sub hr.sub, State.rest_tdcEdge h.sub hr.sub, rest_ite, ite_self, eq_self]

theorem State.rest_holdoffEnd (h : F.may [.pfe] []) {r : Fin 16} (hr : F.mayAt r []) (id : ℕ) :
    rest F (s.holdoffEnd r id) = rest F s := by
  simp only [State.holdoffEnd, State.rest_setPfeR h.sub hr.sub, rest_ite, ite_self, eq_self]

theorem State.rest_injSyncEdge (h : F.may [.pfe] []) {r : Fin 16} (hr : F.mayAt r []) (x : ℤ) :
    rest F (s.injSyncEdge r x) = rest F s := by
  simp only [State.injSyncEdge, State.rest_setPfeR h.sub hr.sub, rest_ite, ite_self, eq_self]

theorem State.rest_injPulse (h : F.may [.pfe, .tdc, .detected, .free, .events] [.eth_EVQ_LOST, .tdc_CODE_ERR_ALL]) {r : Fin 16}
    (hr : F.mayAt r [.tdcr_CODE_ERR, .tdcr_DROP_QFULL, .tdcr_PH_AMBIG]) (x : ℤ) : rest F (s.injPulse r x) = rest F s := by
  simp only [State.injPulse, State.rest_setPfeR h.sub hr.sub, State.rest_fresh h.sub, State.rest_pixelEdge h.sub hr.sub,
    rest_each, rest_ite, ite_self, eq_self, implies_true]

theorem State.rest_injectedPulse (h : F.may [.pfe, .tdc, .detected, .free, .events] [.eth_EVQ_LOST, .tdc_CODE_ERR_ALL])
    {r : Fin 16} (hr : F.mayAt r [.pfer_INJ_OVR, .tdcr_CODE_ERR, .tdcr_DROP_QFULL, .tdcr_PH_AMBIG]) (y : ℤ) :
    rest F (s.injectedPulse r y) = rest F s := by
  unfold State.injectedPulse
  dsimp only
  split
  · rfl
  · simp only [State.wrB_eq, rest_wrAt .pfer_INJ_OVR hr.sub, State.rest_setPfeR h.sub hr.sub, State.rest_injPulse h.sub hr.sub,
      rest_ite, ite_self, eq_self]

theorem State.rest_makeHot (h : F.may [.pfe, .events] [.eth_EVQ_LOST]) {r : Fin 16} (hr : F.mayAt r []) (id k : ℕ) :
    rest F (s.makeHot r id k) = rest F s := by
  simp only [State.makeHot, State.rest_setPfeR h.sub hr.sub, State.rest_emit h.sub, eq_self]

theorem State.rest_hotDetect (h : F.may [.pfe, .events] [.eth_EVQ_LOST]) {r : Fin 16} (hr : F.mayAt r []) (f : Frame) (k : ℕ) :
    rest F (s.hotDetect r f k) = rest F s := by
  simp only [State.hotDetect, State.rest_setPfeR h.sub hr.sub, State.rest_makeHot h.sub hr.sub, rest_each, rest_ite, ite_self,
    eq_self, implies_true]

theorem State.rest_hotClr (h : F.may [.pfe] []) {r : Fin 16} (hr : F.mayAt r []) : rest F (s.hotClr r) = rest F s := by
  simp only [State.hotClr, State.rest_setPfeR h.sub hr.sub, eq_self]

theorem State.rest_pfeFrameDone (h : F.may [.pfe, .events] [.eth_EVQ_LOST]) {r : Fin 16} (hr : F.mayAt r [.pfer_SAT_LAST])
    (f : Frame) (k : ℕ) : rest F (s.pfeFrameDone r f k) = rest F s := by
  simp only [State.pfeFrameDone, rest_wrAt .pfer_SAT_LAST hr.sub, State.rest_hotDetect h.sub hr.sub, eq_self]

/-! #### The line of a lane -/

theorem State.rest_lnkUpd (h : F.may [.lnk] []) (f : Lnk → Lnk) : rest F (s.lnkUpd f) = rest F s := by
  simp only [State.lnkUpd, rest_lnk h.sub, eq_self]

theorem State.rest_setLink (h : F.may [.lnk] []) (l : Fin 10) (x : LinkSt) : rest F (s.setLink l x) = rest F s := by
  simp only [State.setLink, State.rest_lnkUpd h.sub, eq_self]

theorem State.rest_setLane (h : F.may [.lnk] []) (l : Fin 10) (j : Fin 2) (x : Lane) : rest F (s.setLane l j x) = rest F s := by
  simp only [State.setLane, State.rest_lnkUpd h.sub, eq_self]

theorem State.rest_setLaneSt (h : F.may [.lnk] []) {l : Fin 10} {j : Fin 2} (hj : F.mayOf l [laneFld j]) (st : ℕ) :
    rest F (s.setLaneSt l j st) = rest F s := by
  simp only [State.setLaneSt, rest_wrOf (laneFld j) hj, State.rest_setLane h.sub, eq_self]

theorem State.rest_laneBlock (h : F.may [.lnk] []) (l : Fin 10) (j : Fin 2) (ctl : Bool) (b : List ℕ) :
    rest F (s.laneBlock l j ctl b) = rest F s := by
  simp only [State.laneBlock, State.rest_setLane h.sub, rest_ite, ite_self, eq_self]

theorem State.rest_alignPair (h : F.may [.lnk, .out] []) (l : Fin 10) (two : Bool) : rest F (s.alignPair l two) = rest F s := by
  simp only [State.alignPair, rest_out h.sub, State.rest_laneBlock h.sub, State.rest_setLink h.sub, rest_each, eq_self,
    implies_true]

theorem State.rest_streamBlock (h : F.may [.lnk, .out] []) (l : Fin 10) (ctl : Bool) (b : List ℕ) :
    rest F (s.streamBlock l ctl b) = rest F s := by
  simp only [State.streamBlock, State.rest_setLink h.sub, State.rest_laneBlock h.sub, State.rest_alignPair h.sub, rest_ite,
    ite_self, eq_self]

theorem State.rest_trigBlock (h : F.may [.lnk] []) (l : Fin 10) (n : ℕ) (b : TBlk) : rest F (s.trigBlock l n b) = rest F s := by
  simp only [State.trigBlock, State.rest_laneBlock h.sub, rest_each, rest_ite, ite_self, eq_self, implies_true]

theorem State.rest_clapBlocks (h : F.may [.lnk] []) (l : Fin 10) (j : Fin 2) (k : Clap) :
    rest F (s.clapBlocks l j k) = rest F s := by
  simp only [State.clapBlocks, State.rest_setLane h.sub, rest_ite, ite_self, eq_self]

/-! #### TBS -/

theorem State.rest_tbsUpd (h : F.may [.tbs] []) (f : Tbs → Tbs) : rest F (s.tbsUpd f) = rest F s := by
  simp only [State.tbsUpd, rest_tbs h.sub, eq_self]

theorem State.rest_setFreq (h : F.may [] [.tbs_FREQ_CLAMP, .tbs_FREQ_WORD]) (x : ℤ) : rest F (s.setFreq x) = rest F s := by
  simp only [State.setFreq, State.wrB_eq, State.wrS_eq, rest_wr .tbs_FREQ_WORD h.sub, rest_wr .tbs_FREQ_CLAMP h.sub, rest_when,
    eq_self, implies_true]

theorem State.rest_holdover (h : F.may [.tbs, .detected, .events] [.eth_EVQ_LOST, .tbs_FREQ_CLAMP, .tbs_FREQ_WORD,
    .tbs_HOLDOVER, .tbs_LOCKED, .tbs_SRC_ACT]) (k : ℕ) : rest F (s.holdover k) = rest F s := by
  unfold State.holdover
  split
  · simp only [rest_wr .tbs_SRC_ACT h.sub, eq_self]
  · dsimp only
    split
    · split <;> simp only [State.wrB_eq, rest_wr .tbs_SRC_ACT h.sub, rest_wr .tbs_LOCKED h.sub, rest_wr .tbs_HOLDOVER h.sub,
        State.rest_setFreq h.sub, State.rest_tbsUpd h.sub, State.rest_emit h.sub, State.rest_detect h.sub, eq_self]
    · split <;> split <;> simp only [State.wrB_eq, rest_wr .tbs_SRC_ACT h.sub, rest_wr .tbs_LOCKED h.sub,
        rest_wr .tbs_HOLDOVER h.sub, State.rest_setFreq h.sub, State.rest_tbsUpd h.sub, State.rest_emit h.sub,
        State.rest_detect h.sub, eq_self]

theorem State.rest_srcSwitch (h : F.may [.tbs, .events] [.eth_EVQ_LOST, .tbs_SRC_ACT, .tbs_SRC_SWITCHES]) (k : ℕ) :
    rest F (s.srcSwitch k) = rest F s := by
  simp only [State.srcSwitch, State.bump_eq, rest_wr .tbs_SRC_SWITCHES h.sub, rest_wr .tbs_SRC_ACT h.sub,
    State.rest_tbsUpd h.sub, State.rest_emit h.sub, rest_when, eq_self, implies_true]

theorem State.rest_srcSelect (h : F.may [.tbs, .detected, .events] (sourceRegs ++ [Fld.eth_EVQ_LOST])) :
    rest F s.srcSelect = rest F s := by
  unfold State.srcSelect
  dsimp only
  split
  · simp only [State.rest_holdover h.sub, rest_ite, ite_self, eq_self]
  · split
    · simp only [State.rest_srcSwitch h.sub, eq_self]
    · split
      · rfl
      · split <;> simp only [State.rest_holdover h.sub, State.rest_srcSwitch h.sub, rest_ite, ite_self, eq_self]

theorem State.rest_qualChanged (h : F.may [.tbs, .detected, .events] (sourceRegs ++ [Fld.eth_EVQ_LOST])) :
    rest F s.qualChanged = rest F s := by
  simp only [State.qualChanged, State.rest_tbsUpd h.sub, State.rest_srcSelect h.sub, eq_self]

theorem State.rest_revertTimer (h : F.may [.tbs, .detected, .events] (sourceRegs ++ [Fld.eth_EVQ_LOST])) :
    rest F s.revertTimer = rest F s := by
  simp only [State.revertTimer, State.rest_srcSelect h.sub, eq_self]

theorem State.rest_holdWarn (h : F.may [.tbs, .events] [.eth_EVQ_LOST]) : rest F s.holdWarn = rest F s := by
  unfold State.holdWarn
  split
  · simp only [State.rest_emit h.sub, State.rest_tbsUpd h.sub, rest_ite, ite_self, eq_self]
  · rfl

theorem State.rest_refLoss (h : F.may [.tbs, .detected, .events] (sourceRegs ++
    [Fld.eth_EVQ_LOST, Fld.tbs_REF_LOST, Fld.tbs_REF_QUAL])) : rest F s.refLoss = rest F s := by
  simp only [State.refLoss, State.wrB_eq, rest_wr .tbs_REF_QUAL h.sub, rest_wr .tbs_REF_LOST h.sub,
    State.rest_qualChanged h.sub, State.rest_tbsUpd h.sub, eq_self]

theorem State.rest_refResume (h : F.may [.tbs] [.tbs_REF_LOST]) : rest F s.refResume = rest F s := by
  simp only [State.refResume, State.wrB_eq, rest_wr .tbs_REF_LOST h.sub, State.rest_tbsUpd h.sub, rest_ite, ite_self, eq_self]

theorem State.rest_refWindow (h : F.may [.tbs, .detected, .events] (sourceRegs ++
    [Fld.eth_EVQ_LOST, Fld.tbs_REF_BAD, Fld.tbs_REF_PPM, Fld.tbs_REF_QUAL])) (ppb : ℤ) :
    rest F (s.refWindow ppb) = rest F s := by
  unfold State.refWindow
  dsimp only
  split
  · simp only [State.wrB_eq, State.wrS_eq, rest_wr .tbs_REF_PPM h.sub, rest_wr .tbs_REF_QUAL h.sub, rest_wr .tbs_REF_BAD h.sub,
      State.rest_qualChanged h.sub, State.rest_tbsUpd h.sub, eq_self]
  · split
    · split <;> simp only [State.wrB_eq, State.wrS_eq, rest_wr .tbs_REF_PPM h.sub, rest_wr .tbs_REF_QUAL h.sub,
        State.rest_qualChanged h.sub, eq_self]
    · simp only [State.wrS_eq, rest_wr .tbs_REF_PPM h.sub, eq_self]

theorem State.rest_ppsEdge (h : F.may [.tbs, .detected, .events] (sourceRegs ++
    [Fld.eth_EVQ_LOST, Fld.tbs_CYCLE_SLIP, Fld.tbs_EXT_SEC_VALID, Fld.tbs_PPS_LOST, Fld.tbs_PPS_QUAL])) (x : ℤ) (refs : ℕ) :
    rest F (s.ppsEdge x refs) = rest F s := by
  unfold State.ppsEdge
  simp only [State.wrB_eq, State.bump_eq, State.rest_qualChanged h.sub]
  split <;> simp only [rest_wr .tbs_PPS_LOST h.sub, rest_wr .tbs_PPS_QUAL h.sub, rest_wr .tbs_EXT_SEC_VALID h.sub,
    rest_wr .tbs_CYCLE_SLIP h.sub, State.rest_tbsUpd h.sub, State.rest_emit h.sub, rest_when, rest_ite, ite_self, eq_self,
    implies_true]

theorem State.rest_ppsTimeout (h : F.may [.tbs, .detected, .events] (sourceRegs ++
    [Fld.eth_EVQ_LOST, Fld.tbs_PPS_LOST, Fld.tbs_PPS_QUAL])) : rest F s.ppsTimeout = rest F s := by
  unfold State.ppsTimeout
  split
  · simp only [State.wrB_eq, rest_wr .tbs_PPS_QUAL h.sub, rest_wr .tbs_PPS_LOST h.sub, State.rest_qualChanged h.sub,
      State.rest_tbsUpd h.sub, rest_ite, ite_self, eq_self]
  · rfl

theorem State.rest_setClap (h : F.may [.tbs] []) (l : Fin 10) (x : ClapSt) : rest F (s.setClap l x) = rest F s := by
  simp only [State.setClap, State.rest_tbsUpd h.sub, eq_self]

theorem State.rest_clapTx (h : F.may [.tbs, .lnk, .out] []) (l : Fin 10) (lane : Fin 2) :
    rest F (s.clapTx l lane) = rest F s := by
  simp only [State.clapTx, rest_out h.sub, State.rest_setClap h.sub, State.rest_clapBlocks h.sub, eq_self]

theorem State.rest_clapSel (h : F.may [.tbs, .detected, .events] (sourceRegs ++ [Fld.eth_EVQ_LOST, Fld.tbs_CLAP_QUAL])) :
    rest F s.clapSel = rest F s := by
  simp only [State.clapSel, State.wrB_eq, rest_wr .tbs_CLAP_QUAL h.sub, State.rest_qualChanged h.sub, eq_self]

theorem State.rest_clapTimeout (h : F.may [.tbs, .detected, .events] (sourceRegs ++
    [Fld.eth_EVQ_LOST, Fld.tbs_CLAP_QUAL, Fld.tbs_CLAP_VALID])) (l : Fin 10) : rest F (s.clapTimeout l) = rest F s := by
  unfold State.clapTimeout
  dsimp only
  split
  · split
    · split
      · split <;> simp only [State.wrB_eq, rest_wr .tbs_CLAP_VALID h.sub, rest_wr .tbs_CLAP_QUAL h.sub,
          State.rest_setClap h.sub, State.rest_qualChanged h.sub, eq_self]
      · simp only [State.wrB_eq, rest_wr .tbs_CLAP_QUAL h.sub, State.rest_setClap h.sub, State.rest_qualChanged h.sub,
          rest_ite, ite_self, eq_self]
    · rfl
  · rfl

theorem State.rest_clapLinkDown (h : F.may [.tbs, .detected, .events] (sourceRegs ++
    [Fld.eth_EVQ_LOST, Fld.tbs_CLAP_QUAL, Fld.tbs_CLAP_VALID])) (l : Fin 10) : rest F (s.clapLinkDown l) = rest F s := by
  unfold State.clapLinkDown
  dsimp only
  split
  · split <;> simp only [State.wrB_eq, rest_wr .tbs_CLAP_VALID h.sub, rest_wr .tbs_CLAP_QUAL h.sub, State.rest_setClap h.sub,
      State.rest_qualChanged h.sub, eq_self]
  · simp only [State.wrB_eq, rest_wr .tbs_CLAP_QUAL h.sub, State.rest_setClap h.sub, State.rest_qualChanged h.sub, rest_ite,
      ite_self, eq_self]

theorem State.rest_ptpDisc (h : F.may [] [.tbs_PTP_DISC]) : rest F s.ptpDisc = rest F s := by
  simp only [State.ptpDisc, State.bump_eq, rest_wr .tbs_PTP_DISC h.sub, eq_self]

theorem State.rest_ptpMsg (h : F.may [] [.tbs_PTP_DISC]) (x : PtpHead) {f : State → State} (hf : ∀ x, rest F (f x) = rest F x)
    : rest F (s.ptpMsg x f) = rest F s := by
  unfold State.ptpMsg
  split
  · split
    · exact hf s
    · exact State.rest_ptpDisc h.sub
  · rfl

theorem State.rest_ptpSelect (h : F.may [.tbs] [.tbs_GM_ID, .tbs_PTP_QUAL, .tbs_UTC_OFS]) : rest F s.ptpSelect = rest F s := by
  unfold State.ptpSelect
  split <;> simp only [State.wrB_eq, State.wrS_eq, rest_wr .tbs_PTP_QUAL h.sub, rest_wr .tbs_UTC_OFS h.sub,
    rest_wr .tbs_GM_ID h.sub, State.rest_tbsUpd h.sub, rest_ite, ite_self, eq_self]

theorem State.rest_ptpAnnounce (h : F.may [.tbs, .detected, .events] (sourceRegs ++
    [Fld.eth_EVQ_LOST, Fld.tbs_GM_ID, Fld.tbs_PTP_DISC, Fld.tbs_PTP_QUAL, Fld.tbs_UTC_OFS])) (x : PtpHead) (a : PtpAnnounce) :
    rest F (s.ptpAnnounce x a) = rest F s := by
  unfold State.ptpAnnounce
  refine State.rest_ptpMsg h.sub _ (fun t => ?_)
  simp only [State.rest_qualChanged h.sub, State.rest_ptpSelect h.sub, State.rest_tbsUpd h.sub, eq_self]

theorem State.rest_ptpAnnTimeout (h : F.may [.tbs, .detected, .events] (sourceRegs ++
    [Fld.eth_EVQ_LOST, Fld.tbs_GM_ID, Fld.tbs_PTP_QUAL, Fld.tbs_UTC_OFS])) : rest F s.ptpAnnTimeout = rest F s := by
  unfold State.ptpAnnTimeout
  split
  · simp only [State.wrB_eq, rest_wr .tbs_PTP_QUAL h.sub, State.rest_qualChanged h.sub, State.rest_ptpSelect h.sub,
      State.rest_tbsUpd h.sub, rest_ite, ite_self, eq_self]
  · rfl

theorem State.rest_ptpSync (h : F.may [.tbs] [.tbs_PTP_DISC]) (x : PtpHead) (twoStep : Bool) :
    rest F (s.ptpSync x twoStep) = rest F s := by
  unfold State.ptpSync
  refine State.rest_ptpMsg h.sub _ (fun t => ?_)
  simp only [State.rest_ptpDisc h.sub, State.rest_tbsUpd h.sub, rest_ite, ite_self, eq_self]

theorem State.rest_ptpFollow (h : F.may [.tbs] [.tbs_PTP_DISC]) (x : PtpHead) (t1 : ℕ) :
    rest F (s.ptpFollow x t1) = rest F s := by
  unfold State.ptpFollow
  refine State.rest_ptpMsg h.sub _ (fun t => ?_)
  split
  · simp only [State.rest_tbsUpd h.sub, rest_ite, ite_self, eq_self]
  · rfl

theorem State.rest_ptpDelayReq (h : F.may [.tbs, .out] []) : rest F s.ptpDelayReq = rest F s := by
  simp only [State.ptpDelayReq, rest_out h.sub, State.rest_tbsUpd h.sub, rest_ite, ite_self, eq_self]

theorem State.rest_ptpSyncTimeout (h : F.may [.tbs, .detected, .events] (sourceRegs ++ [Fld.eth_EVQ_LOST, Fld.tbs_PTP_QUAL])) :
    rest F s.ptpSyncTimeout = rest F s := by
  unfold State.ptpSyncTimeout
  split
  · simp only [State.wrB_eq, rest_wr .tbs_PTP_QUAL h.sub, State.rest_qualChanged h.sub, State.rest_tbsUpd h.sub, rest_ite,
      ite_self, eq_self]
  · rfl

theorem State.rest_snapReq (h : F.may [] [.tbs_SNAP_COARSE, .tbs_SNAP_DONE, .tbs_SNAP_TIME]) : rest F s.snapReq = rest F s := by
  simp only [State.snapReq, State.wrB_eq, rest_wr .tbs_SNAP_DONE h.sub, rest_wr .tbs_SNAP_COARSE h.sub,
    rest_wr .tbs_SNAP_TIME h.sub, eq_self]

theorem State.rest_freqWrite (h : F.may [] [.tbs_CFG_ERR, .tbs_FREQ_CLAMP, .tbs_FREQ_WORD]) (v : ℕ) :
    rest F (s.freqWrite v) = rest F s := by
  simp only [State.freqWrite, State.wrB_eq, rest_wr .tbs_CFG_ERR h.sub, State.rest_setFreq h.sub, rest_ite, ite_self, eq_self]

theorem State.rest_ppsOut (h : F.may [.tbs] []) : rest F s.ppsOut = rest F s := by
  simp only [State.ppsOut, State.rest_tbsUpd h.sub, rest_ite, ite_self, eq_self]

/-! #### The frame head of each tick while its figures gather -/

theorem State.rest_newRec (h : F.may [.evb] []) (r : Fin 16) (k marks : ℕ) (jumped : Bool) :
    rest F (s.newRec r k marks jumped) = rest F s := by
  simp only [State.newRec, State.rest_setEvbR h.sub, eq_self]

/-! #### HST -/

theorem State.rest_gateStop (h : F.may [.hst] []) {r : Fin 16} (hr : F.mayAt r []) : rest F (s.gateStop r) = rest F s := by
  simp only [State.gateStop, State.rest_setHstR h.sub hr.sub, eq_self]

theorem State.rest_gateSync (h : F.may [.hst] [.hstr_SYNC_MISSED]) {r : Fin 16} (hr : F.mayAt r []) (x : ℤ) :
    rest F (s.gateSync r x) = rest F s := by
  simp only [State.gateSync, State.bump_eq, rest_wr .hstr_SYNC_MISSED h.sub, State.rest_setHstR h.sub hr.sub, rest_ite,
    ite_self, eq_self]

theorem State.rest_gateOpens (h : F.may [.hst] []) {r : Fin 16} (hr : F.mayAt r []) {u : State} (he : s.gateOpens r = some u) :
    rest F u = rest F s := by
  unfold State.gateOpens at he
  dsimp only at he
  split at he
  · split at he
    · cases he
      simp only [State.rest_setHstR h.sub hr.sub, eq_self]
    · cases he
  · cases he

theorem State.rest_gateCloses (h : F.may [.hst] []) {r : Fin 16} (hr : F.mayAt r []) : rest F (s.gateCloses r) = rest F s := by
  unfold State.gateCloses
  dsimp only
  split
  · simp only [State.rest_setHstR h.sub hr.sub, rest_ite, ite_self, eq_self]
  · rfl

theorem State.rest_binAdd (h : F.may [.hst] []) {r : Fin 16} (hr : F.mayAt r [.hstr_HST_SAT]) (key n : ℕ) :
    rest F (s.binAdd r key n) = rest F s := by
  simp only [State.binAdd, State.wrB_eq, rest_wrAt .hstr_HST_SAT hr.sub, State.rest_setHstR h.sub hr.sub, rest_ite, ite_self,
    eq_self]

theorem State.rest_coalesce (h : F.may [.hst] []) {r : Fin 16} (hr : F.mayAt r [.hstr_HST_DROP]) (k key : ℕ) :
    rest F (s.coalesce r k key) = rest F s := by
  simp only [State.coalesce, State.bump_eq, rest_wrAt .hstr_HST_DROP hr.sub, State.rest_setHstR h.sub hr.sub, rest_ite,
    ite_self, eq_self]

theorem State.rest_hstHit (h : F.may [.hst] []) {r : Fin 16} (hr : F.mayAt r histRegs) (k : ℕ) (w : EvW) :
    rest F (s.hstHit r k w) = rest F s := by
  unfold State.hstHit
  dsimp only
  split
  · simp only [State.bump_eq, rest_wrAt .hstr_HST_LATE hr.sub, State.rest_setHstR h.sub hr.sub, eq_self]
  · split
    · simp only [State.bump_eq, rest_wrAt .hstr_HST_UNDER hr.sub, State.rest_setHstR h.sub hr.sub, eq_self]
    · split
      · simp only [State.bump_eq, rest_wrAt .hstr_HST_OVER hr.sub, State.rest_setHstR h.sub hr.sub, eq_self]
      · split <;> simp only [State.rest_binAdd h.sub hr.sub, State.rest_coalesce h.sub hr.sub, rest_ite, ite_self, eq_self]

theorem State.rest_dumpRecord (h : F.may [.evb, .hst, .cmp, .que, .cab, .eth, .events]
    (fabricRegs ++ feedRegs ++ [Fld.eth_EVQ_LOST])) {r : Fin 16} (hr : F.mayAt r []) (k flags sat : ℕ) :
    rest F (s.dumpRecord r k flags sat) = rest F s := by
  simp only [State.dumpRecord, State.rest_setHstR h.sub hr.sub, State.rest_regionRec h.sub, eq_self]

theorem State.rest_dumpStart (h : F.may [.seq, .evb, .hst, .accum, .cmp, .que, .cab, .eth, .events]
    (fabricRegs ++ feedRegs ++ [Fld.eth_EVQ_LOST])) {r : Fin 16} (hr : F.mayAt r engineRegs) (k : ℕ) :
    rest F (s.dumpStart r k) = rest F s := by
  simp only [State.dumpStart, State.rest_dumpRecord h.sub hr.sub, State.rest_headFlag h.sub, State.rest_setHstR h.sub hr.sub,
    State.rest_submit h.sub hr.sub, rest_ite, ite_self, eq_self]

theorem State.rest_dumpSkip (h : F.may [.seq, .evb, .hst, .accum, .cmp, .que, .cab, .eth, .events]
    (fabricRegs ++ feedRegs ++ [Fld.eth_EVQ_LOST])) {r : Fin 16} (hr : F.mayAt r engineRegs) (k : ℕ) (lost : Bool) :
    rest F (s.dumpSkip r k lost) = rest F s := by
  simp only [State.dumpSkip, State.rest_dumpRecord h.sub hr.sub, State.rest_setHstR h.sub hr.sub,
    State.rest_submit h.sub hr.sub, State.rest_headFlag h.sub, rest_ite, ite_self, eq_self]

theorem State.rest_dumpTurn (h : F.may [.seq, .evb, .hst, .accum, .cmp, .que, .cab, .eth, .events]
    (fabricRegs ++ feedRegs ++ [Fld.eth_EVQ_LOST])) {r : Fin 16} (hr : F.mayAt r engineRegs) (k : ℕ) :
    rest F (s.dumpTurn r k) = rest F s := by
  simp only [State.dumpTurn, State.rest_dumpSkip h.sub hr.sub, State.rest_dumpStart h.sub hr.sub, rest_ite, ite_self, eq_self]

theorem State.rest_hstClose (h : F.may [.seq, .evb, .hst, .accum, .cmp, .que, .cab, .eth, .events]
    (fabricRegs ++ feedRegs ++ [Fld.eth_EVQ_LOST])) {r : Fin 16} (hr : F.mayAt r engineRegs) (k : ℕ) :
    rest F (s.hstClose r k) = rest F s := by
  unfold State.hstClose
  dsimp only
  split
  · rfl
  · split <;> simp only [State.rest_setHstR h.sub hr.sub, State.rest_dumpTurn h.sub hr.sub, eq_self]

theorem State.rest_mergeCoal (h : F.may [.hst] []) {r : Fin 16} (hr : F.mayAt r [.hstr_HST_SAT]) (p : Coal → Bool) :
    rest F (s.mergeCoal r p) = rest F s := by
  simp only [State.mergeCoal, State.rest_setHstR h.sub hr.sub, State.rest_binAdd h.sub hr.sub, rest_each, eq_self, implies_true]

theorem State.rest_dumpDue (h : F.may [.seq, .evb, .hst, .accum, .cmp, .que, .cab, .eth, .events]
    (fabricRegs ++ feedRegs ++ [Fld.eth_EVQ_LOST])) {r : Fin 16} (hr : F.mayAt r (engineRegs ++ [Fld.hstr_HST_SAT]))
    (l : List ℕ) : rest F (s.dumpDue r l) = rest F s := by
  induction l generalizing s with
  | nil => exact State.rest_mergeCoal h.sub hr.sub _
  | cons k l ih =>
    unfold State.dumpDue
    dsimp only
    split
    · simp only [State.rest_mergeCoal h.sub hr.sub, State.rest_dumpTurn h.sub hr.sub, State.rest_setHstR h.sub hr.sub, eq_self]
    · exact ih.trans (by simp only [State.rest_mergeCoal h.sub hr.sub, State.rest_dumpTurn h.sub hr.sub,
        State.rest_setHstR h.sub hr.sub, eq_self])

theorem State.rest_dumpDone (h : F.may [.seq, .evb, .hst, .accum, .cmp, .que, .cab, .eth, .events]
    (fabricRegs ++ feedRegs ++ [Fld.eth_EVQ_LOST])) {r : Fin 16} (hr : F.mayAt r (engineRegs ++ [Fld.hstr_HST_SAT])) :
    rest F (s.dumpDone r) = rest F s := by
  simp only [State.dumpDone, State.rest_dumpDue h.sub hr.sub, State.rest_setHstR h.sub hr.sub, rest_ite, ite_self, eq_self]

theorem State.rest_hstAbort (h : F.may [.evb, .hst, .cmp, .que, .cab, .eth, .events]
    (fabricRegs ++ feedRegs ++ [Fld.eth_EVQ_LOST])) {r : Fin 16} (hr : F.mayAt r []) : rest F (s.hstAbort r) = rest F s := by
  simp only [State.hstAbort, State.rest_gateStop h.sub hr.sub, State.rest_dumpRecord h.sub hr.sub,
    State.rest_setHstR h.sub hr.sub, rest_each, eq_self, implies_true]

/-! #### Counter frames on their way to the engines and ACC -/

theorem State.rest_accOutput (h : F.may [.seq, .evb, .accum, .cmp, .que, .cab, .eth, .events]
    (fabricRegs ++ [Fld.eth_DLY_DROP, Fld.eth_EVQ_LOST, Fld.eth_NEXT_PSN, Fld.eth_QP_PI, Fld.que_GRANT_WAIT,
    Fld.que_PATCH_CNT])) {r : Fin 16} (hr : F.mayAt r (engineRegs ++ [Fld.accr_ACC_FRAMES, Fld.accr_ACC_PARTIAL_CNT,
    Fld.accr_PARTIAL])) (f : Frame) (acc : Sp) (sat n : ℕ) (cut : Bool) :
    rest F (s.accOutput r f acc sat n cut) = rest F s := by
  simp only [State.accOutput, State.wrB_eq, State.bump_eq, rest_wrAt .accr_ACC_FRAMES hr.sub, rest_wrAt .accr_PARTIAL hr.sub,
    rest_wrAt .accr_ACC_PARTIAL_CNT hr.sub, State.rest_upRec h.sub, State.rest_daily h.sub, State.rest_submit h.sub hr.sub,
    rest_when, rest_ite, ite_self, eq_self, implies_true]

theorem State.rest_accFrame (h : F.may [.seq, .evb, .accum, .cmp, .que, .cab, .eth, .events]
    (fabricRegs ++ [Fld.eth_DLY_DROP, Fld.eth_EVQ_LOST, Fld.eth_NEXT_PSN, Fld.eth_QP_PI, Fld.que_GRANT_WAIT,
    Fld.que_PATCH_CNT])) {r : Fin 16} (hr : F.mayAt r (engineRegs ++ [Fld.accr_ACC_FRAMES, Fld.accr_ACC_PARTIAL_CNT,
    Fld.accr_PARTIAL])) (f : Frame) (px : Sp) (n : ℕ) (cut : Bool) : rest F (s.accFrame r f px n cut) = rest F s := by
  simp only [State.accFrame, State.rest_accOutput h.sub hr.sub, State.rest_setAccR h.sub hr.sub, rest_ite, ite_self, eq_self]

theorem State.rest_accJumped (h : F.may [.seq, .evb, .accum, .cmp, .que, .cab, .eth, .events]
    (fabricRegs ++ [Fld.eth_DLY_DROP, Fld.eth_EVQ_LOST, Fld.eth_NEXT_PSN, Fld.eth_QP_PI, Fld.que_GRANT_WAIT,
    Fld.que_PATCH_CNT])) {r : Fin 16} (hr : F.mayAt r (engineRegs ++ [Fld.accr_ACC_FRAMES, Fld.accr_ACC_PARTIAL_CNT,
    Fld.accr_PARTIAL])) (f : Frame) : rest F (s.accJumped r f) = rest F s := by
  simp only [State.accJumped, State.rest_upRec h.sub, State.rest_setAccR h.sub hr.sub, State.rest_submit h.sub hr.sub,
    State.rest_headFlag h.sub, State.rest_accFrame h.sub hr.sub, rest_when, rest_ite, ite_self, eq_self, implies_true]

theorem State.rest_emptyEnds (h : F.may [.seq, .evb, .accum, .cmp, .que, .cab, .eth, .events]
    (fabricRegs ++ [Fld.eth_EVQ_LOST, Fld.que_GRANT_WAIT, Fld.que_PATCH_CNT])) {r : Fin 16} (hr : F.mayAt r engineRegs)
    (f : Frame) : rest F (s.emptyEnds r f) = rest F s := by
  simp only [State.emptyEnds, State.rest_submit h.sub hr.sub, State.rest_headFlag h.sub, rest_when, rest_ite, ite_self,
    eq_self, implies_true]

theorem State.rest_lostFrame (h : F.may [.seq, .evb, .accum, .cmp, .que, .cab, .eth, .events]
    (fabricRegs ++ [Fld.eth_DLY_DROP, Fld.eth_EVQ_LOST, Fld.eth_NEXT_PSN, Fld.eth_QP_PI, Fld.que_GRANT_WAIT,
    Fld.que_PATCH_CNT])) {r : Fin 16} (hr : F.mayAt r (engineRegs ++ [Fld.accr_ACC_FRAMES, Fld.accr_ACC_PARTIAL_CNT,
    Fld.accr_PARTIAL])) (f : Frame) : rest F (s.lostFrame r f) = rest F s := by
  simp only [State.lostFrame, State.rest_emptyEnds h.sub hr.sub, State.rest_accJumped h.sub hr.sub,
    State.rest_accFrame h.sub hr.sub, rest_ite, ite_self, eq_self]

theorem State.rest_frameOut (h : F.may [.seq, .evb, .accum, .cmp, .que, .cab, .eth, .events]
    (fabricRegs ++ [Fld.eth_DLY_DROP, Fld.eth_EVQ_LOST, Fld.eth_NEXT_PSN, Fld.eth_QP_PI, Fld.que_GRANT_WAIT,
    Fld.que_PATCH_CNT])) {r : Fin 16} (hr : F.mayAt r (engineRegs ++ [Fld.accr_ACC_FRAMES, Fld.accr_ACC_PARTIAL_CNT,
    Fld.accr_PARTIAL])) (f : Frame) (n : ℕ) (cut : Bool) : rest F (s.frameOut r f n cut) = rest F s := by
  simp only [State.frameOut, State.rest_headFlag h.sub, State.rest_daily h.sub, State.rest_submit h.sub hr.sub,
    State.rest_accFrame h.sub hr.sub, rest_when, rest_ite, ite_self, eq_self, implies_true]

theorem State.rest_flushBehind (h : F.may [.pfe, .seq, .evb, .accum, .cmp, .que, .cab, .eth, .events]
    (fabricRegs ++ [Fld.eth_DLY_DROP, Fld.eth_EVQ_LOST, Fld.eth_NEXT_PSN, Fld.eth_QP_PI, Fld.que_GRANT_WAIT,
    Fld.que_PATCH_CNT])) {r : Fin 16} (hr : F.mayAt r (engineRegs ++ [Fld.accr_ACC_FRAMES, Fld.accr_ACC_PARTIAL_CNT,
    Fld.accr_PARTIAL])) : rest F (s.flushBehind r) = rest F s := by
  unfold State.flushBehind
  dsimp only
  split
  · rfl
  · simp only [State.rest_setPfeR h.sub hr.sub, State.rest_lostFrame h.sub hr.sub, rest_each, eq_self, implies_true]

theorem State.rest_feFinal (h : F.may [.pfe] []) {r : Fin 16} (hr : F.mayAt r [.pfer_FE_FINAL]) :
    rest F (s.feFinal r) = rest F s := by
  simp only [State.feFinal, State.wrB_eq, rest_wrAt .pfer_FE_FINAL hr.sub, State.rest_setPfeR h.sub hr.sub, rest_ite, ite_self,
    eq_self]

theorem State.rest_frameEnd (h : F.may [.pfe, .seq, .evb, .accum, .cmp, .que, .cab, .eth, .events]
    (fabricRegs ++ [Fld.eth_DLY_DROP, Fld.eth_EVQ_LOST, Fld.eth_NEXT_PSN, Fld.eth_QP_PI, Fld.que_GRANT_WAIT,
    Fld.que_PATCH_CNT])) {r : Fin 16} (hr : F.mayAt r (engineRegs ++ [Fld.accr_ACC_FRAMES, Fld.accr_ACC_PARTIAL_CNT,
    Fld.accr_PARTIAL, Fld.pfer_FE_FINAL])) (f : Frame) : rest F (s.frameEnd r f) = rest F s := by
  simp only [State.frameEnd, State.rest_setPfeR h.sub hr.sub, State.rest_feFinal h.sub hr.sub,
    State.rest_flushBehind h.sub hr.sub, State.rest_upRec h.sub, eq_self]

theorem State.rest_frameDone (h : F.may [.pfe, .seq, .evb, .accum, .cmp, .que, .cab, .eth, .events]
    (fabricRegs ++ [Fld.eth_DLY_DROP, Fld.eth_EVQ_LOST, Fld.eth_NEXT_PSN, Fld.eth_QP_PI, Fld.que_GRANT_WAIT,
    Fld.que_PATCH_CNT])) {r : Fin 16} (hr : F.mayAt r (engineRegs ++ [Fld.accr_ACC_FRAMES, Fld.accr_ACC_PARTIAL_CNT,
    Fld.accr_PARTIAL, Fld.pfer_FE_FINAL, Fld.pfer_SAT_LAST])) : rest F (s.frameDone r) = rest F s := by
  unfold State.frameDone
  dsimp only
  split
  · rfl
  · simp only [State.rest_setPfeR h.sub hr.sub, State.rest_pfeFrameDone h.sub hr.sub, State.rest_upRec h.sub,
      State.rest_frameOut h.sub hr.sub, State.rest_frameEnd h.sub hr.sub, rest_ite, ite_self, eq_self]

theorem State.rest_cutEnds (h : F.may [.seq, .evb, .accum, .cmp, .que, .cab, .eth, .events]
    (fabricRegs ++ [Fld.eth_EVQ_LOST, Fld.que_GRANT_WAIT, Fld.que_PATCH_CNT])) {r : Fin 16} (hr : F.mayAt r engineRegs)
    (f : Frame) : rest F (s.cutEnds r f) = rest F s := by
  simp only [State.cutEnds, State.rest_emptyEnds h.sub hr.sub, State.rest_submit h.sub hr.sub, rest_when, eq_self, implies_true]

theorem State.rest_cutTransfer (h : F.may [.pfe, .seq, .evb, .accum, .cmp, .que, .cab, .eth, .events]
    (fabricRegs ++ [Fld.eth_DLY_DROP, Fld.eth_EVQ_LOST, Fld.eth_NEXT_PSN, Fld.eth_QP_PI, Fld.que_GRANT_WAIT,
    Fld.que_PATCH_CNT])) {r : Fin 16} (hr : F.mayAt r (engineRegs ++ [Fld.accr_ACC_FRAMES, Fld.accr_ACC_PARTIAL_CNT,
    Fld.accr_PARTIAL])) : rest F (s.cutTransfer r) = rest F s := by
  unfold State.cutTransfer
  dsimp only
  split
  · rfl
  · simp only [State.rest_setPfeR h.sub hr.sub, State.rest_upRec h.sub, State.rest_cutEnds h.sub hr.sub,
      State.rest_accCut h.sub hr.sub, State.rest_setAccR h.sub hr.sub, State.rest_lostFrame h.sub hr.sub,
      State.rest_frameOut h.sub hr.sub, rest_ite, ite_self, eq_self]

theorem State.rest_frameAbort (h : F.may [.pfe, .seq, .evb, .accum, .cmp, .que, .cab, .eth, .events]
    (fabricRegs ++ [Fld.eth_DLY_DROP, Fld.eth_EVQ_LOST, Fld.eth_NEXT_PSN, Fld.eth_QP_PI, Fld.que_GRANT_WAIT,
    Fld.que_PATCH_CNT])) {r : Fin 16} (hr : F.mayAt r (engineRegs ++ [Fld.accr_ACC_FRAMES, Fld.accr_ACC_PARTIAL_CNT,
    Fld.accr_PARTIAL, Fld.accr_SUB_IDX, Fld.tdcr_DROP_ABORT])) : rest F (s.frameAbort r) = rest F s := by
  simp only [State.frameAbort, rest_wrAt .accr_SUB_IDX hr.sub, State.rest_cmpCut h.sub hr.sub,
    State.rest_encodeAll h.sub hr.sub, State.rest_cutTransfer h.sub hr.sub, State.rest_setPfeR h.sub hr.sub,
    State.rest_setEvbR h.sub, State.rest_setAccR h.sub hr.sub, eq_self]

/-! #### EVB -/

theorem State.rest_frontUp (h : F.may [.evb] []) (r : Fin 16) : rest F (s.frontUp r) = rest F s := by
  unfold State.frontUp
  dsimp only
  split
  · rfl
  · split <;> simp only [State.rest_setEvbR h.sub, rest_ite, ite_self, eq_self]

theorem State.rest_frontTo (h : F.may [.evb] []) (r : Fin 16) (y : ℤ) : rest F (s.frontTo r y) = rest F s := by
  simp only [State.frontTo, State.rest_frontUp h.sub, State.rest_setEvbR h.sub, rest_ite, ite_self, eq_self]

theorem State.rest_winWord (h : F.may [.evb] []) (r : Fin 16) (w : EvW) (word ref : ℕ) (stamp : Bool) :
    rest F (s.winWord r w word ref stamp) = rest F s := by
  simp only [State.winWord, State.rest_setEvbR h.sub, eq_self]

theorem State.rest_relWord (h : F.may [.seq, .evb, .hst, .accum, .cmp, .que, .cab, .eth, .events]
    (fabricRegs ++ [Fld.eth_EVQ_LOST, Fld.evb_RS_EARLY, Fld.que_GRANT_WAIT, Fld.que_PATCH_CNT])) {r : Fin 16}
    (hr : F.mayAt r (engineRegs ++ histRegs ++ [Fld.evb_EARLY_REL, Fld.evb_LATE_CNT])) {w : EvW} {early : Bool} {u : State}
    (he : s.relWord r w early = some u) : rest F u = rest F s := by
  unfold State.relWord at he
  extract_lets x pop kt m late ref word s1 e s2 s3 s4 s5 s6 at he
  have h1 : rest F s1 = rest F s := State.rest_setEvbR h.sub _ _
  have h2 : rest F s2 = rest F s1 := by simp only [s2, State.rest_setEvbR h.sub, rest_ite, ite_self, eq_self]
  have h3 : rest F s3 = rest F s2 := by simp only [s2, s3, State.bump_eq, rest_wrAt .evb_LATE_CNT hr.sub,
    State.rest_setEvbR h.sub, State.rest_upRec h.sub, rest_ite, ite_self, eq_self]
  have h4 : rest F s4 = rest F s3 := by simp only [s2, s3, s4, State.bump_eq, State.wrBit_eq, rest_wrAt .evb_LATE_CNT hr.sub,
    rest_wr .evb_RS_EARLY h.sub, rest_wrAt .evb_EARLY_REL hr.sub, State.rest_setEvbR h.sub, State.rest_upRec h.sub,
    State.rest_headFlag h.sub, rest_ite, ite_self, eq_self]
  have h5 : rest F s5 = rest F s4 := by simp only [s2, s3, s4, s5, State.bump_eq, State.wrBit_eq,
    rest_wrAt .evb_LATE_CNT hr.sub, rest_wr .evb_RS_EARLY h.sub, rest_wrAt .evb_EARLY_REL hr.sub, State.rest_setEvbR h.sub,
    State.rest_upRec h.sub, State.rest_headFlag h.sub, State.rest_hstHit h.sub hr.sub, rest_ite, ite_self, eq_self]
  have h6 : rest F s6 = rest F s5 := by simp only [s2, s3, s4, s5, s6, State.bump_eq, State.wrBit_eq,
    rest_wrAt .evb_LATE_CNT hr.sub, rest_wr .evb_RS_EARLY h.sub, rest_wrAt .evb_EARLY_REL hr.sub, State.rest_setEvbR h.sub,
    State.rest_upRec h.sub, State.rest_headFlag h.sub, State.rest_hstHit h.sub hr.sub, State.rest_winWord h.sub, rest_ite,
    ite_self, eq_self]
  clear_value s6 s5 s4 s3 s2 s1
  split at he
  · cases he
    exact State.rest_setEvbR h.sub _ _
  · split at he
    · cases he
    · cases he
      refine Eq.trans ?_ (h6.trans (h5.trans (h4.trans (h3.trans (h2.trans h1)))))
      simp only [State.rest_setEvbR h.sub, State.rest_evInput h.sub hr.sub, rest_ite, ite_self, eq_self]

theorem State.rest_closeTick (h : F.may [.seq, .evb, .hst, .accum, .cmp, .que, .cab, .eth, .events]
    (fabricRegs ++ feedRegs ++ [Fld.eth_EVQ_LOST])) {r : Fin 16} (hr : F.mayAt r engineRegs) (k : ℕ) :
    rest F (s.closeTick r k) = rest F s := by
  simp only [State.closeTick, State.rest_evInput h.sub hr.sub, State.rest_headFlag h.sub, State.rest_hstClose h.sub hr.sub,
    State.rest_upRec h.sub, State.rest_setEvbR h.sub, State.rest_rpClose h.sub, rest_ite, ite_self, eq_self]

theorem State.rest_tickClose (h : F.may [.seq, .evb, .hst, .accum, .cmp, .que, .cab, .eth, .events]
    (fabricRegs ++ feedRegs ++ [Fld.eth_EVQ_LOST])) {r : Fin 16} (hr : F.mayAt r engineRegs) :
    rest F (s.tickClose r) = rest F s := by
  simp only [State.tickClose, State.rest_frontTo h.sub, State.rest_closeTick h.sub hr.sub, rest_ite, ite_self, eq_self]

theorem State.rest_closeUpTo (h : F.may [.seq, .evb, .hst, .accum, .cmp, .que, .cab, .eth, .events]
    (fabricRegs ++ feedRegs ++ [Fld.eth_EVQ_LOST])) {r : Fin 16} (hr : F.mayAt r engineRegs) (k : ℕ) :
    rest F (s.closeUpTo r k) = rest F s := by
  simp only [State.closeUpTo, State.rest_closeTick h.sub hr.sub, rest_foldl, rest_ite, ite_self, eq_self, implies_true]

theorem State.rest_relDue (h : F.may [.seq, .evb, .hst, .accum, .cmp, .que, .cab, .eth, .events]
    (fabricRegs ++ feedRegs ++ [Fld.eth_EVQ_LOST, Fld.evb_RS_EARLY])) {r : Fin 16}
    (hr : F.mayAt r (engineRegs ++ histRegs ++ [Fld.evb_EARLY_REL, Fld.evb_LATE_CNT])) {u : State} (he : s.relDue r = some u) :
    rest F u = rest F s := by
  unfold State.relDue at he
  dsimp only at he
  split at he
  · cases he
  · split at he
    · refine (State.rest_relWord h.sub hr.sub he).trans ?_
      simp only [State.rest_closeUpTo h.sub hr.sub, rest_ite, ite_self, eq_self]
    · cases he

theorem State.rest_wordRelease (h : F.may [.seq, .evb, .hst, .accum, .cmp, .que, .cab, .eth, .events]
    (fabricRegs ++ feedRegs ++ [Fld.eth_EVQ_LOST, Fld.evb_RS_EARLY])) {r : Fin 16}
    (hr : F.mayAt r (engineRegs ++ histRegs ++ [Fld.evb_EARLY_REL, Fld.evb_LATE_CNT])) :
    rest F (s.wordRelease r) = rest F s := by
  unfold State.wordRelease
  rw [State.rest_frontUp h.sub, rest_getD (fun _ => State.rest_relDue h.sub hr.sub)]

theorem State.rest_evbArrive (h : F.may [.seq, .evb, .hst, .accum, .cmp, .que, .cab, .eth, .events]
    (fabricRegs ++ feedRegs ++ [Fld.eth_EVQ_LOST, Fld.evb_RS_EARLY])) {r : Fin 16}
    (hr : F.mayAt r (engineRegs ++ histRegs ++ [Fld.evb_EARLY_REL, Fld.evb_LATE_CNT])) (w : EvW) :
    rest F (s.evbArrive r w) = rest F s := by
  simp only [State.evbArrive, State.rest_frontUp h.sub, State.rest_setEvbR h.sub,
    rest_getD (fun _ => State.rest_relDue h.sub hr.sub), rest_ite, ite_self, eq_self]

theorem State.rest_headEmit (h : F.may [.evb, .cmp, .que, .cab, .eth, .events] (fabricRegs ++ feedRegs ++ [Fld.eth_EVQ_LOST]))
    (r : Fin 16) : rest F (s.headEmit r) = rest F s := by
  unfold State.headEmit
  dsimp only
  split
  · rfl
  · simp only [State.rest_setEvbR h.sub, State.rest_upRec h.sub, State.rest_rpClose h.sub, State.rest_rpEnd h.sub, rest_ite,
      ite_self, eq_self]

theorem State.rest_evbDrop (h : F.may [.evb] []) {r : Fin 16} (hr : F.mayAt r [.tdcr_DROP_ABORT]) :
    rest F (s.evbDrop r) = rest F s := by
  simp only [State.evbDrop, State.bump_eq, rest_wrAt .tdcr_DROP_ABORT hr.sub, State.rest_setEvbR h.sub, eq_self]

/-! #### TRG -/

theorem State.rest_trgUpd (h : F.may [.trg] []) (f : Trg → Trg) : rest F (s.trgUpd f) = rest F s := by
  simp only [State.trgUpd, rest_trg h.sub, eq_self]

theorem State.rest_trigOut (h : F.may [.lnk, .out] []) (l : Fin 10) (n : ℕ) (b : TBlk) :
    rest F (s.trigOut l n b) = rest F s := by
  simp only [State.trigOut, rest_out h.sub, State.rest_trigBlock h.sub, eq_self]

theorem State.rest_setTrigLink (h : F.may [.trg] []) (l : Fin 10) (x : TrigLink) : rest F (s.setTrigLink l x) = rest F s := by
  simp only [State.setTrigLink, State.rest_trgUpd h.sub, eq_self]

theorem State.rest_trigSend (h : F.may [.trg, .lnk, .out] []) (l : Fin 10) (b : TBlk) : rest F (s.trigSend l b) = rest F s := by
  simp only [State.trigSend, State.rest_setTrigLink h.sub, State.rest_trigOut h.sub, rest_ite, ite_self, eq_self]

theorem State.rest_trigPump (h : F.may [.trg, .lnk, .out] []) (l : Fin 10) : rest F (s.trigPump l) = rest F s := by
  simp only [State.trigPump, State.rest_setTrigLink h.sub, State.rest_trigSend h.sub, rest_each, rest_ite, ite_self, eq_self,
    implies_true]

theorem State.rest_trigLinkUp (h : F.may [.trg, .lnk, .out] []) (l : Fin 10) : rest F (s.trigLinkUp l) = rest F s := by
  simp only [State.trigLinkUp, State.rest_trigPump h.sub, State.rest_setTrigLink h.sub, eq_self]

theorem State.rest_trigAck (h : F.may [.trg, .lnk, .out] []) (l : Fin 10) (tack : ℕ) :
    rest F (s.trigAck l tack) = rest F s := by
  simp only [State.trigAck, State.rest_trigPump h.sub, State.rest_setTrigLink h.sub, eq_self]

theorem State.rest_trigRx (h : F.may [.trg] [.lnk_TRIG_DUP]) (l : Fin 10) (tseq : ℕ) {f : State → State}
    (hf : ∀ x, rest F (f x) = rest F x) : rest F (s.trigRx l tseq f) = rest F s := by
  unfold State.trigRx
  dsimp only
  split
  · simp only [State.bump_eq, rest_wr .lnk_TRIG_DUP h.sub, eq_self]
  · exact (hf _).trans (State.rest_setTrigLink h.sub _ _)

theorem State.rest_trigResend (h : F.may [.trg, .lnk, .out] []) {l : Fin 10} (hl : F.mayOf l [.lnk_TRIG_RESEND]) :
    rest F (s.trigResend l) = rest F s := by
  simp only [State.trigResend, State.bump_eq, rest_wrOf .lnk_TRIG_RESEND hl.sub, State.rest_setTrigLink h.sub,
    State.rest_trigOut h.sub, rest_each, rest_ite, ite_self, eq_self, implies_true]

theorem State.rest_pulseAt (h : F.may [.trg] []) (o : Fin 2) (x known : ℤ) (ofs : Bool) :
    rest F (s.pulseAt o x known ofs) = rest F s := by
  simp only [State.pulseAt, State.rest_trgUpd h.sub, rest_ite, ite_self, eq_self]

theorem State.rest_trigSource (h : F.may [.trg] []) (src : ℕ) (x known : ℤ) : rest F (s.trigSource src x known) = rest F s := by
  simp only [State.trigSource, State.rest_pulseAt h.sub, rest_each, rest_ite, ite_self, eq_self, implies_true]

theorem State.rest_gateSource (h : F.may [.trg] []) (r : ℕ) (g : Gate) : rest F (s.gateSource r g) = rest F s := by
  simp only [State.gateSource, State.rest_pulseAt h.sub, rest_each, rest_ite, ite_self, eq_self, implies_true]

theorem State.rest_pulseStart (h : F.may [.trg] []) (o : Fin 2) : rest F (s.pulseStart o) = rest F s := by
  simp only [State.pulseStart, State.rest_trgUpd h.sub, rest_ite, ite_self, eq_self]

theorem State.rest_pulseEnd (h : F.may [.trg] []) (o : Fin 2) : rest F (s.pulseEnd o) = rest F s := by
  simp only [State.pulseEnd, State.rest_trgUpd h.sub, eq_self]

theorem State.rest_reqFull (h : F.may [.trg] [.trg_REQ_EXCESS, .trg_REQ_OVR]) (q : Treq) : rest F (s.reqFull q) = rest F s := by
  simp only [State.reqFull, State.wrB_eq, State.bump_eq, rest_wr .trg_REQ_OVR h.sub, rest_wr .trg_REQ_EXCESS h.sub,
    State.rest_trgUpd h.sub, rest_ite, ite_self, eq_self]

theorem State.rest_reqIn (h : F.may [.trg] [.trg_REQ_EXCESS, .trg_REQ_MERGED, .trg_REQ_OVR]) (q : Treq) (x : ℕ) :
    rest F (s.reqIn q x) = rest F s := by
  unfold State.reqIn
  split <;> simp only [State.bump_eq, rest_wr .trg_REQ_MERGED h.sub, State.rest_trgUpd h.sub, State.rest_reqFull h.sub, eq_self]

theorem State.rest_trgEval (h : F.may [.trg] [.trg_REQ_EXCESS, .trg_REQ_MERGED, .trg_REQ_OVR]) (n tt : ℤ) (at_ : ℕ) :
    rest F (s.trgEval n tt at_) = rest F s := by
  simp only [State.trgEval, State.rest_reqIn h.sub, rest_each, rest_ite, ite_self, eq_self, implies_true]

theorem State.rest_trgSettle (h : F.may [.trg] [.trg_REQ_EXCESS, .trg_REQ_MERGED, .trg_REQ_OVR]) :
    rest F s.trgSettle = rest F s := by
  unfold State.trgSettle
  split
  · simp only [State.rest_trgUpd h.sub, State.rest_trgEval h.sub, rest_ite, ite_self, eq_self]
  · rfl

theorem State.rest_trgInput (h : F.may [.trg] [.trg_REQ_EXCESS, .trg_REQ_MERGED, .trg_REQ_OVR]) (i : Fin 5) (x : ℤ) :
    rest F (s.trgInput i x) = rest F s := by
  simp only [State.trgInput, State.rest_trgSettle h.sub, State.rest_trgUpd h.sub, eq_self]

theorem State.rest_trgExpiry (h : F.may [.trg] [.trg_REQ_EXCESS, .trg_REQ_MERGED, .trg_REQ_OVR]) (i : Fin 5) :
    rest F (s.trgExpiry i) = rest F s := by
  unfold State.trgExpiry
  dsimp only
  split <;> simp only [State.rest_trgSettle h.sub, State.rest_trgUpd h.sub, State.rest_trgEval h.sub, rest_ite, ite_self,
    eq_self]

theorem State.rest_rateCount (h : F.may [.trg] []) (r n : ℕ) : rest F (s.rateCount r n) = rest F s := by
  simp only [State.rateCount, State.rest_trgUpd h.sub, rest_each, rest_ite, ite_self, eq_self, implies_true]

theorem State.rest_rateEval (h : F.may [.trg] [.trg_REQ_EXCESS, .trg_REQ_MERGED, .trg_REQ_OVR]) :
    rest F s.rateEval = rest F s := by
  simp only [State.rateEval, State.rest_trgUpd h.sub, State.rest_trgInput h.sub, rest_each, rest_ite, ite_self, eq_self,
    implies_true]

theorem State.rest_winTakeOpen (h : F.may [.cab] []) (n a id tick epoch : ℕ) :
    rest F (s.winTakeOpen n a id tick epoch).1 = rest F s := by
  unfold State.winTakeOpen
  split
  · simp only [State.rest_setTake h.sub, eq_self]
  · split
    · rfl
    · simp only [State.rest_cabUpd h.sub, eq_self, implies_true]

theorem State.rest_winOpen (h : F.may [.evb, .que, .cab, .edc, .eth, .detected, .events]
    (storeRegs ++ fabricRegs ++ [Fld.eth_EVQ_LOST, Fld.trg_PRE_SHORT_CNT])) (r : Fin 16) (d : Tdec) (late : Bool) :
    rest F (s.winOpen r d late) = rest F s := by
  simp only [State.winOpen, State.bump_eq, rest_wr .trg_PRE_SHORT_CNT h.sub, State.rest_winTakeOpen h.sub,
    State.rest_ringUpd h.sub, State.rest_winRun h.sub, State.rest_setEvbR h.sub, rest_ite, ite_self, eq_self]

theorem State.rest_winSlate (h : F.may [.evb, .cmp, .que, .cab, .eth, .events] (fabricRegs ++ feedRegs ++ [Fld.eth_EVQ_LOST]))
    (r : Fin 16) (v : WinTake) (trunc : Bool) : rest F (s.winSlate r v trunc) = rest F s := by
  simp only [State.winSlate, State.rest_regionRec h.sub, State.rest_setEvbR h.sub, eq_self]

theorem State.rest_winTakeClose (h : F.may [.cab] []) (n : ℕ) (trunc : Bool) : rest F (s.winTakeClose n trunc) = rest F s := by
  unfold State.winTakeClose
  split
  · split
    · simp only [State.rest_setTake h.sub, rest_ite, ite_self, eq_self]
    · rfl
  · rfl

theorem State.rest_winDrained (h : F.may [.seq, .evb, .accum, .cmp, .que, .cab, .eth, .events]
    (fabricRegs ++ [Fld.eth_EVQ_LOST, Fld.que_GRANT_WAIT, Fld.que_PATCH_CNT])) {r : Fin 16} (hr : F.mayAt r engineRegs) :
    rest F (s.winDrained r) = rest F s := by
  simp only [State.winDrained, rest_seq h.sub, State.rest_ringUpd h.sub, State.rest_setEvbR h.sub, State.rest_headFlag h.sub,
    State.rest_evInput h.sub hr.sub, rest_ite, ite_self, eq_self]

theorem State.rest_trgFinal (h : F.may [.trg] [.trg_TRG_FINAL]) : rest F s.trgFinal = rest F s := by
  simp only [State.trgFinal, State.wrB_eq, rest_wr .trg_TRG_FINAL h.sub, State.rest_trgUpd h.sub, rest_ite, ite_self, eq_self]

theorem State.rest_windowDone (h : F.may [.seq, .evb, .accum, .cmp, .que, .cab, .edc, .trg, .eth, .detected, .events]
    (storeRegs ++ fabricRegs ++ feedRegs ++ [Fld.eth_EVQ_LOST, Fld.trg_TRG_FINAL])) {r : Fin 16} (hr : F.mayAt r engineRegs) :
    rest F (s.windowDone r) = rest F s := by
  unfold State.windowDone
  dsimp only
  split <;> simp only [State.rest_frontTo h.sub, State.rest_setEvbR h.sub, State.rest_winSlate h.sub,
    State.rest_trgFinal h.sub, State.rest_winRun h.sub, State.rest_winDrained h.sub hr.sub, State.rest_winTakeClose h.sub,
    rest_ite, ite_self, eq_self]

theorem State.rest_winAbort (h : F.may [.evb, .cmp, .que, .cab, .trg, .eth, .events]
    (fabricRegs ++ feedRegs ++ [Fld.eth_EVQ_LOST, Fld.trg_TRG_FINAL])) (r : Fin 16) : rest F (s.winAbort r) = rest F s := by
  simp only [State.winAbort, State.rest_setEvbR h.sub, State.rest_trgFinal h.sub, State.rest_winTakeClose h.sub,
    State.rest_winSlate h.sub, rest_each, eq_self, implies_true]

theorem State.rest_decAct (h : F.may [.evb, .que, .cab, .edc, .eth, .detected, .events]
    (storeRegs ++ fabricRegs ++ [Fld.eth_EVQ_LOST, Fld.trg_LAST_CLASS, Fld.trg_LAST_TRIG_ID, Fld.trg_LAST_TT,
    Fld.trg_PRE_SHORT_CNT])) (d : Tdec) (late : Bool) : rest F (s.decAct d late) = rest F s := by
  simp only [State.decAct, rest_wr .trg_LAST_CLASS h.sub, rest_wr .trg_LAST_TT h.sub, rest_wr .trg_LAST_TRIG_ID h.sub,
    State.rest_winOpen h.sub, rest_each, rest_ite, ite_self, eq_self, implies_true]

theorem State.rest_decHere (h : F.may [.evb, .que, .cab, .edc, .trg, .eth, .detected, .events]
    (storeRegs ++ fabricRegs ++ [Fld.eth_EVQ_LOST, Fld.trg_LAST_CLASS, Fld.trg_LAST_TRIG_ID, Fld.trg_LAST_TT,
    Fld.trg_PRE_SHORT_CNT, Fld.trg_TRIG_LATE])) (d : Tdec) : rest F (s.decHere d) = rest F s := by
  simp only [State.decHere, State.bump_eq, rest_wr .trg_TRIG_LATE h.sub, State.rest_setEvbR h.sub, State.rest_decAct h.sub,
    State.rest_trgUpd h.sub, rest_each, rest_ite, ite_self, eq_self, implies_true]

theorem State.rest_trigAction (h : F.may [.evb, .que, .cab, .edc, .trg, .eth, .detected, .events]
    (storeRegs ++ fabricRegs ++ [Fld.eth_EVQ_LOST, Fld.trg_LAST_CLASS, Fld.trg_LAST_TRIG_ID, Fld.trg_LAST_TT,
    Fld.trg_PRE_SHORT_CNT, Fld.trg_TRG_FINAL])) : rest F s.trigAction = rest F s := by
  unfold State.trigAction
  dsimp only
  split
  · rfl
  · simp only [State.rest_trgUpd h.sub, State.rest_trgFinal h.sub, State.rest_trigSource h.sub, State.rest_decAct h.sub,
      eq_self]

theorem State.rest_trigSeq (h : F.may [.trg, .events] [.eth_EVQ_LOST]) (id : ℕ) : rest F (s.trigSeq id) = rest F s := by
  simp only [State.trigSeq, State.rest_emit h.sub, State.rest_trgUpd h.sub, rest_ite, ite_self, eq_self]

theorem State.rest_decRx (h : F.may [.evb, .que, .cab, .edc, .trg, .lnk, .eth, .detected, .out, .events]
    (storeRegs ++ fabricRegs ++ [Fld.eth_EVQ_LOST, Fld.trg_DEC_COUNT, Fld.trg_LAST_CLASS, Fld.trg_LAST_TRIG_ID,
    Fld.trg_LAST_TT, Fld.trg_PRE_SHORT_CNT, Fld.trg_TRIG_LATE])) (d : Tdec) : rest F (s.decRx d) = rest F s := by
  simp only [State.decRx, State.bump_eq, rest_wr .trg_DEC_COUNT h.sub, State.rest_trigSeq h.sub, State.rest_decHere h.sub,
    State.rest_trigSend h.sub, rest_each, eq_self, implies_true]

theorem State.rest_decIn (h : F.may [.trg] [.trg_REQ_EXCESS, .trg_REQ_OVR]) (q : Treq) : rest F (s.decIn q) = rest F s := by
  unfold State.decIn
  split <;> simp only [State.rest_trgUpd h.sub, State.rest_reqFull h.sub, eq_self]

theorem State.rest_mergeEnd (h : F.may [.trg, .lnk, .out, .events] [.eth_EVQ_LOST, .trg_REQ_EXCESS, .trg_REQ_MERGED,
    .trg_REQ_OVR, .trg_REQ_SENT, .trg_TRG_FINAL]) : rest F s.mergeEnd = rest F s := by
  unfold State.mergeEnd
  dsimp only
  split
  · split
    · simp only [State.bump_eq, State.rest_trgSettle h.sub, State.rest_trgUpd h.sub, State.rest_emit h.sub,
        State.rest_decIn h.sub, State.rest_trgFinal h.sub, rest_ite, ite_self]
      split
      · split
        · rfl
        · split <;> simp only [rest_wr .trg_REQ_SENT h.sub, State.rest_trgSettle h.sub, State.rest_trgUpd h.sub,
            State.rest_trigSource h.sub, State.rest_trigSend h.sub, eq_self]
      · split
        · rfl
        · split <;> simp only [rest_wr .trg_REQ_SENT h.sub, State.rest_trgSettle h.sub, State.rest_trgUpd h.sub,
            State.rest_emit h.sub, State.rest_trigSource h.sub, State.rest_trigSend h.sub, eq_self]
    · simp only [State.rest_trgSettle h.sub, eq_self]
  · simp only [State.rest_trgSettle h.sub, eq_self]

theorem State.rest_decide_ (h : F.may [.evb, .cmp, .que, .cab, .edc, .trg, .lnk, .eth, .detected, .out, .events]
    (storeRegs ++ fabricRegs ++ feedRegs ++ [Fld.eth_EVQ_LOST, Fld.trg_DEC_COUNT, Fld.trg_DEC_HELD, Fld.trg_DEC_REJ,
    Fld.trg_LAST_CLASS, Fld.trg_LAST_TRIG_ID, Fld.trg_LAST_TT, Fld.trg_PRE_SHORT_CNT, Fld.trg_TRG_FINAL, Fld.trg_TRIG_LATE])) :
    rest F s.decide_ = rest F s := by
  unfold State.decide_
  split
  · simp only [State.bump_eq, rest_wr .trg_DEC_REJ h.sub, rest_wr .trg_DEC_HELD h.sub, rest_wr .trg_DEC_COUNT h.sub,
      State.rest_trgUpd h.sub, State.rest_emit h.sub, State.rest_moduleRec h.sub, State.rest_trigSend h.sub,
      State.rest_decHere h.sub, State.rest_trigSource h.sub, State.rest_trgFinal h.sub, rest_each, rest_ite, ite_self, eq_self,
      implies_true]
  · rfl

theorem State.rest_markSlate (h : F.may [.evb, .cmp, .que, .cab, .eth, .events] (fabricRegs ++ feedRegs ++ [Fld.eth_EVQ_LOST]))
    : rest F s.markSlate = rest F s := by
  simp only [State.markSlate, State.rest_moduleRec h.sub, eq_self]

theorem State.rest_latDepth (h : F.may [.detected] [.trg_TRIG_LAT_ERR, .trg_TRIG_LAT_MIN]) : rest F s.latDepth = rest F s := by
  simp only [State.latDepth, State.wrB_eq, rest_wr .trg_TRIG_LAT_MIN h.sub, rest_wr .trg_TRIG_LAT_ERR h.sub,
    State.rest_detect h.sub, rest_ite, ite_self, eq_self]

/-! #### TRE -/

theorem State.rest_treUpd (h : F.may [.tre] []) (f : Tre → Tre) : rest F (s.treUpd f) = rest F s := by
  simp only [State.treUpd, rest_tre h.sub, eq_self]

theorem State.rest_setTreLink (h : F.may [.tre] []) (l : Fin 10) (x : TreLink) : rest F (s.setTreLink l x) = rest F s := by
  simp only [State.setTreLink, State.rest_treUpd h.sub, eq_self]

theorem State.rest_setRole (h : F.may [] [.tre_LINK_ROLE]) (l : Fin 10) (r : ℕ) : rest F (s.setRole l r) = rest F s := by
  simp only [State.setRole, rest_wr .tre_LINK_ROLE h.sub, eq_self]

theorem State.rest_topoFault (h : F.may [.detected] [.tre_TOPO_FAULT]) (lvl unit : ℕ) :
    rest F (s.topoFault lvl unit) = rest F s := by
  simp only [State.topoFault, State.wrB_eq, rest_wr .tre_TOPO_FAULT h.sub, State.rest_detect h.sub, eq_self]

theorem State.rest_putV0 (h : F.may [.lnk] []) (l : Fin 10) (m : V0) : rest F (s.putV0 l m) = rest F s := by
  simp only [State.putV0, State.rest_setLink h.sub, eq_self]

theorem State.rest_sendV0 (h : F.may [.lnk, .tre] []) (l : Fin 10) (m : V0) : rest F (s.sendV0 l m) = rest F s := by
  simp only [State.sendV0, State.rest_treUpd h.sub, State.rest_putV0 h.sub, rest_ite, ite_self, eq_self]

theorem State.rest_pump0 (h : F.may [.lnk, .tre] []) : rest F s.pump0 = rest F s := by
  simp only [State.pump0, State.rest_treUpd h.sub, State.rest_sendV0 h.sub, rest_each, eq_self, implies_true]

theorem State.rest_sendUp (h : F.may [.lnk, .tre] []) (m : V0) : rest F (s.sendUp m) = rest F s := by
  unfold State.sendUp
  split
  · simp only [State.rest_sendV0 h.sub, eq_self]
  · rfl

theorem State.rest_evPump (h : F.may [.lnk, .tre, .events] []) : rest F s.evPump = rest F s := by
  simp only [State.evPump, rest_evUp h.sub, State.rest_sendUp h.sub, rest_each, eq_self, implies_true]

theorem State.rest_sendDown (h : F.may [.lnk, .tre] []) (m : V0) : rest F (s.sendDown m) = rest F s := by
  simp only [State.sendDown, State.rest_sendV0 h.sub, rest_each, eq_self, implies_true]

theorem State.rest_enumRegs (h : F.may [.tre, .detected] treeRegs) : rest F s.enumRegs = rest F s := by
  unfold State.enumRegs
  split
  · dsimp only
    split
    · split <;> simp only [State.wrB_eq, rest_wr .tre_FW_MIN h.sub, rest_wr .tre_ENUM_COUNT h.sub, rest_wr .tre_DEPTH h.sub,
        rest_wr .tre_ENUM_DONE h.sub, State.rest_treUpd h.sub, State.rest_latDepth h.sub, eq_self]
    · simp only [rest_wr .tre_FW_MIN h.sub, rest_wr .tre_ENUM_COUNT h.sub, rest_wr .tre_DEPTH h.sub, State.rest_treUpd h.sub,
        State.rest_latDepth h.sub, rest_ite, ite_self, eq_self]
  · rfl

theorem State.rest_sendEnum (h : F.may [.lnk, .tre] []) (l : Fin 10) (assign : ℕ) :
    rest F (s.sendEnum l assign) = rest F s := by
  simp only [State.sendEnum, State.rest_sendV0 h.sub, eq_self]

theorem State.rest_sendClaim (h : F.may [.lnk, .tre, .detected] [.tre_LINK_ROLE, .tre_TOPO_FAULT]) (l : Fin 10) :
    rest F (s.sendClaim l) = rest F s := by
  simp only [State.sendClaim, State.rest_topoFault h.sub, State.rest_sendV0 h.sub, State.rest_setRole h.sub,
    State.rest_setTreLink h.sub, rest_ite, ite_self, eq_self]

theorem State.rest_stbyHere (h : F.may [.lnk, .tre] [.tre_LINK_ROLE, .tre_STBY_OK]) (child : ℕ) (grant : Bool) :
    rest F (s.stbyHere child grant) = rest F s := by
  simp only [State.stbyHere, State.wrB_eq, rest_wr .tre_STBY_OK h.sub, State.rest_sendV0 h.sub, State.rest_setRole h.sub,
    rest_each, rest_ite, ite_self, eq_self, implies_true]

theorem State.rest_subMap (h : F.may [.tre] []) (id : ℕ) (f : SubEnt → SubEnt) : rest F (s.subMap id f) = rest F s := by
  simp only [State.subMap, State.rest_treUpd h.sub, eq_self]

theorem State.rest_stbySet (h : F.may [.lnk, .tre] [.tre_LINK_ROLE, .tre_STBY_OK]) (id parent : ℕ) :
    rest F (s.stbySet id parent) = rest F s := by
  simp only [State.stbySet, State.rest_sendDown h.sub, State.rest_stbyHere h.sub, State.rest_subMap h.sub, eq_self]

theorem State.rest_stbyRefuse (h : F.may [.tre, .detected] [.tre_TOPO_FAULT]) (e : SubEnt) :
    rest F (s.stbyRefuse e) = rest F s := by
  simp only [State.stbyRefuse, State.wrB_eq, rest_wr .tre_TOPO_FAULT h.sub, State.rest_detect h.sub, State.rest_subMap h.sub,
    eq_self]

theorem State.rest_standbyCheck (h : F.may [.lnk, .tre, .detected] roleRegs) : rest F s.standbyCheck = rest F s := by
  simp only [State.standbyCheck, State.rest_stbyRefuse h.sub, State.rest_subMap h.sub, State.rest_stbySet h.sub, rest_each,
    rest_ite, ite_self, eq_self, implies_true]

theorem State.rest_sendSet (h : F.may [.lnk, .tre] []) (f tick : ℕ) : rest F (s.sendSet f tick) = rest F s := by
  simp only [State.sendSet, State.rest_sendV0 h.sub, rest_each, eq_self, implies_true]

theorem State.rest_featApply (h : F.may [.lnk, .tre, .detected, .events]
    (roleRegs ++ [Fld.eth_EVQ_LOST, Fld.evb_ZS_EN, Fld.tre_FEAT_PEND, Fld.tre_TREE_FEAT])) (f tick : ℕ) :
    rest F (s.featApply f tick) = rest F s := by
  simp only [State.featApply, State.wrB_eq, rest_wr .tre_FEAT_PEND h.sub, rest_wr .tre_TREE_FEAT h.sub,
    rest_wr .evb_ZS_EN h.sub, State.rest_treUpd h.sub, State.rest_standbyCheck h.sub, State.rest_emit h.sub, rest_ite,
    ite_self, eq_self]

theorem State.rest_featCompute (h : F.may [.lnk, .tre, .detected, .events] (featRegs ++ roleRegs ++ [Fld.eth_EVQ_LOST])) :
    rest F s.featCompute = rest F s := by
  simp only [State.featCompute, State.wrB_eq, rest_wr .tre_FEAT_TICK h.sub, rest_wr .tre_FEAT_PEND h.sub,
    State.rest_sendSet h.sub, State.rest_treUpd h.sub, State.rest_featApply h.sub, rest_ite, ite_self, eq_self]

theorem State.rest_featRx (h : F.may [.evb, .lnk, .tre, .detected, .events]
    (featRegs ++ roleRegs ++ [Fld.eth_EVQ_LOST, Fld.seq_TICK_SLIP])) (f tick : ℕ) : rest F (s.featRx f tick) = rest F s := by
  unfold State.featRx
  split
  · split
    · rfl
    · dsimp only
      split
      · simp only [rest_wr .tre_FEAT_TICK h.sub, State.rest_sendSet h.sub, State.rest_featApply h.sub, eq_self]
      · split <;> simp only [State.wrB_eq, rest_wr .tre_FEAT_TICK h.sub, rest_wr .tre_FEAT_PEND h.sub,
          rest_wr .seq_TICK_SLIP h.sub, State.rest_sendSet h.sub, State.rest_treUpd h.sub, State.rest_slipHeads h.sub, eq_self]
  · split
    · rfl
    · dsimp only
      split
      · simp only [rest_wr .tre_FEAT_TICK h.sub, State.rest_sendSet h.sub, State.rest_featApply h.sub, eq_self]
      · split <;> simp only [State.wrB_eq, rest_wr .tre_FEAT_TICK h.sub, rest_wr .tre_FEAT_PEND h.sub,
          rest_wr .seq_TICK_SLIP h.sub, State.rest_sendSet h.sub, State.rest_treUpd h.sub, State.rest_slipHeads h.sub, eq_self]

theorem State.rest_subPut (h : F.may [.tre] []) (id link : ℕ) (move : Bool) (f : SubEnt → SubEnt) :
    rest F (s.subPut id link move f) = rest F s := by
  simp only [State.subPut, State.rest_subMap h.sub, State.rest_treUpd h.sub, rest_ite, ite_self, eq_self]

theorem State.rest_subMove (h : F.may [.tre] []) (child parent link : ℕ) : rest F (s.subMove child parent link) = rest F s := by
  simp only [State.subMove, State.rest_subPut h.sub, State.rest_treUpd h.sub, eq_self]

theorem State.rest_announce (h : F.may [.lnk, .tre, .detected, .events]
    (treeRegs ++ featRegs ++ roleRegs ++ [Fld.eth_EVQ_LOST])) (child no : ℕ) (l : Fin 10) :
    rest F (s.announce child no l) = rest F s := by
  simp only [State.announce, State.rest_subMove h.sub, State.rest_featCompute h.sub, State.rest_standbyCheck h.sub,
    State.rest_enumRegs h.sub, State.rest_sendUp h.sub, rest_ite, ite_self, eq_self]

theorem State.rest_fwdRegs (h : F.may [.cab] [.tre_FWD_LOG]) : rest F s.fwdRegs = rest F s := by
  simp only [State.fwdRegs, rest_wr .tre_FWD_LOG h.sub, State.rest_cabUpd h.sub, eq_self, implies_true]

theorem State.rest_holeRegs (h : F.may [] [.tre_HOLES]) : rest F s.holeRegs = rest F s := by
  simp only [State.holeRegs, rest_wr .tre_HOLES h.sub, eq_self]

theorem State.rest_addHole (h : F.may [.tre] [.tre_HOLES, .tre_HOLE_OVF]) (x : ℕ × ℕ × ℕ) :
    rest F (s.addHole x) = rest F s := by
  simp only [State.addHole, State.wrB_eq, rest_wr .tre_HOLE_OVF h.sub, State.rest_holeRegs h.sub, State.rest_treUpd h.sub,
    rest_ite, ite_self, eq_self]

theorem State.rest_markTaken (h : F.may [.tre] []) (p : PktId) : rest F (s.markTaken p) = rest F s := by
  simp only [State.markTaken, State.rest_setTreLink h.sub, rest_each, rest_ite, ite_self, eq_self, implies_true]

theorem State.rest_confirmed (h : F.may [.tre] []) (l : Fin 10) : rest F (s.confirmed l) = rest F s := by
  simp only [State.confirmed, State.rest_setTreLink h.sub, eq_self]

theorem State.rest_confirmAll (h : F.may [.tre] []) : rest F s.confirmAll = rest F s := by
  simp only [State.confirmAll, State.rest_confirmed h.sub, rest_each, eq_self, implies_true]

theorem State.rest_confirmTx (h : F.may [.lnk, .tre] []) (l : Fin 10) : rest F (s.confirmTx l) = rest F s := by
  simp only [State.confirmTx, State.rest_confirmed h.sub, State.rest_sendV0 h.sub, State.rest_setTreLink h.sub, rest_ite,
    ite_self, eq_self]

theorem State.rest_confirmRx (h : F.may [.cab, .tre] [.tre_FWD_LOG]) (l : Fin 10) (conf : List ℕ) :
    rest F (s.confirmRx l conf) = rest F s := by
  simp only [State.confirmRx, State.rest_fwdRegs h.sub, State.rest_treUpd h.sub, rest_ite, ite_self, eq_self]

theorem State.rest_horizonOn (h : F.may [.lnk, .tre] []) (l : Fin 10) (k : ℕ) (names : List (ℕ × ℕ × ℕ)) :
    rest F (s.horizonOn l k names) = rest F s := by
  simp only [State.horizonOn, State.rest_sendV0 h.sub, rest_each, rest_ite, ite_self, eq_self, implies_true]

theorem State.rest_horizonSend (h : F.may [.lnk, .tre] []) : rest F s.horizonSend = rest F s := by
  unfold State.horizonSend
  split
  · rfl
  · simp only [State.rest_treUpd h.sub, State.rest_horizonOn h.sub, rest_each, rest_ite, ite_self, eq_self, implies_true]

theorem State.rest_horizonAdvance (h : F.may [.lnk, .tre] [.tre_MERGE_HZN]) : rest F s.horizonAdvance = rest F s := by
  unfold State.horizonAdvance
  dsimp only
  split <;> simp only [rest_wr .tre_MERGE_HZN h.sub, State.rest_treUpd h.sub, State.rest_horizonSend h.sub, rest_ite, ite_self,
    eq_self]

theorem State.rest_heldBelow (h : F.may [.tre] [.tre_HOLES, .tre_HOLE_OVF]) (input : Bool) (held : List (ℕ × ℕ × ℕ)) :
    rest F (s.heldBelow input held) = rest F s := by
  simp only [State.heldBelow, State.rest_addHole h.sub, State.rest_treUpd h.sub, rest_each, rest_ite, ite_self, eq_self,
    implies_true]

theorem State.rest_horizonRx (h : F.may [.tre] [.tre_HOLES, .tre_HOLE_OVF, .tre_LINK_CLAIM, .tre_LINK_HZN]) (l : Fin 10)
    (k claim : ℕ) (cnt : List ℕ) (held : List (ℕ × ℕ × ℕ)) : rest F (s.horizonRx l k claim cnt held) = rest F s := by
  unfold State.horizonRx
  dsimp only
  split
  · rfl
  · split <;> simp only [rest_wr .tre_LINK_CLAIM h.sub, rest_wr .tre_LINK_HZN h.sub, State.rest_setTreLink h.sub,
      State.rest_heldBelow h.sub, rest_ite, ite_self, eq_self]

theorem State.rest_subLost (h : F.may [.lnk, .tre, .detected, .events] (featRegs ++ roleRegs ++ [Fld.eth_EVQ_LOST]))
    (l : Fin 10) : rest F (s.subLost l) = rest F s := by
  simp only [State.subLost, State.rest_featCompute h.sub, State.rest_treUpd h.sub, eq_self]

theorem State.rest_giveUpGaps (h : F.may [.evb, .cmp, .que, .cab, .lnk, .tre, .eth, .detected, .events]
    (fabricRegs ++ feedRegs ++ featRegs ++ roleRegs ++ [Fld.eth_EVQ_LOST, Fld.tre_GAP_EMIT, Fld.tre_LINK_GAPS])) (l : Fin 10)
    (a k : ℕ) : rest F (s.giveUpGaps l a k) = rest F s := by
  simp only [State.giveUpGaps, State.bump_eq, rest_wr .tre_LINK_GAPS h.sub, rest_wr .tre_GAP_EMIT h.sub,
    State.rest_moduleRec h.sub, State.rest_subLost h.sub, rest_each, rest_ite, ite_self, eq_self, implies_true]

theorem State.rest_giveUp (h : F.may [.evb, .cmp, .que, .cab, .lnk, .tre, .eth, .detected, .events]
    (fabricRegs ++ feedRegs ++ featRegs ++ roleRegs ++ [Fld.eth_EVQ_LOST, Fld.tre_GAP_EMIT, Fld.tre_LINK_GAPS,
    Fld.tre_LINK_HZN, Fld.tre_MERGE_HZN])) (l : Fin 10) : rest F (s.giveUp l) = rest F s := by
  unfold State.giveUp
  split
  · dsimp only
    split
    · rw [State.rest_horizonAdvance h.sub, rest_wr .tre_LINK_HZN h.sub, State.rest_setTreLink h.sub,
        State.rest_giveUpGaps h.sub]
    · rfl
  · rfl

theorem State.rest_highUp (h : F.may [.tre] []) (p : PktId) : rest F (s.highUp p) = rest F s := by
  simp only [State.highUp, State.rest_treUpd h.sub, eq_self]

theorem State.rest_gapHeard (h : F.may [.lnk, .tre, .detected, .events] (featRegs ++ roleRegs ++ [Fld.eth_EVQ_LOST]))
    (d : List ℕ) : rest F (s.gapHeard d) = rest F s := by
  simp only [State.gapHeard, State.rest_featCompute h.sub, State.rest_treUpd h.sub, rest_ite, ite_self, eq_self]

theorem State.rest_acceptPkt (h : F.may [.evb, .que, .cab, .lnk, .tre, .eth, .detected, .events]
    (fabricRegs ++ featRegs ++ roleRegs ++ [Fld.eth_EVQ_LOST, Fld.tre_LATE_PKT])) {l : Fin 10} {use : ℕ} {d : List ℕ}
    {u : State} (he : s.acceptPkt l use d = some u) : rest F u = rest F s := by
  unfold State.acceptPkt at he
  dsimp only at he
  obtain ⟨⟨v11, b11⟩, hv11, he⟩ := Option.map_eq_some_iff.1 he
  cases he
  simp only [State.rest_putItem h.sub hv11, State.bump_eq, rest_wr .tre_LATE_PKT h.sub, State.rest_gapHeard h.sub,
    State.rest_highUp h.sub, rest_when, eq_self, implies_true]

theorem State.rest_pktIn (h : F.may [.evb, .que, .cab, .lnk, .tre, .eth, .detected, .events]
    (fabricRegs ++ featRegs ++ roleRegs ++ [Fld.eth_EVQ_LOST, Fld.tre_DUP_PKT, Fld.tre_HOLES, Fld.tre_LATE_PKT])) {l : Fin 10}
    {use claim : ℕ} {d : List ℕ} {u : State} {a : Bool} (he : s.pktIn l use claim d = some (u, a)) : rest F u = rest F s := by
  unfold State.pktIn at he
  dsimp only at he
  split at he
  · cases he
    rfl
  · split at he
    · split at he
      · cases he
        simp only [State.bump_eq, rest_wr .tre_DUP_PKT h.sub, eq_self]
      · split at he
        · next hx8 =>
          cases he
        · next hx8 =>
          cases he
          simp only [State.rest_acceptPkt h.sub hx8, State.rest_holeRegs h.sub, State.rest_treUpd h.sub, rest_ite, ite_self,
            eq_self]
    · split at he
      · cases he
        simp only [State.bump_eq, rest_wr .tre_DUP_PKT h.sub, eq_self]
      · split at he
        · next hx8 =>
          cases he
        · next hx8 =>
          cases he
          simp only [State.rest_acceptPkt h.sub hx8, State.rest_holeRegs h.sub, State.rest_treUpd h.sub, rest_ite, ite_self,
            eq_self]

theorem State.rest_useSpace (h : F.may [.que] areaRegs) (l : Fin 10) (v : Fin 5) (n : ℤ) :
    rest F (s.useSpace l v n) = rest F s := by
  simp only [State.useSpace, State.rest_useArea h.sub, eq_self]

theorem State.rest_dropBuf (h : F.may [.que, .tre] areaRegs) (l : Fin 10) (v : Fin 5) (n : ℕ) :
    rest F (s.dropBuf l v n) = rest F s := by
  simp only [State.dropBuf, State.rest_setTreLink h.sub, State.rest_useSpace h.sub, eq_self]

theorem State.rest_takePkt (h : F.may [.que, .tre] areaRegs) {l : Fin 10} {v : Fin 5} {n : ℕ}
    {f : State → Option (State × Bool)} (hf : ∀ x u b, f x = some (u, b) → rest F u = rest F x) {u : State}
    (he : s.takePkt l v n f = some u) : rest F u = rest F s := by
  unfold State.takePkt at he
  dsimp only at he
  obtain ⟨⟨v, b⟩, hv, he⟩ := Option.map_eq_some_iff.1 he
  have hs := (hf _ _ _ hv).trans ((State.rest_useSpace h.sub _ _ _).trans (State.rest_setTreLink h.sub _ _))
  dsimp only at he
  split at he
  · rw [← he]; exact hs
  · rw [← he]; exact (State.rest_setTreLink h.sub _ _).trans hs

theorem State.rest_rxPump (h : F.may [.evb, .que, .cab, .lnk, .tre, .eth, .detected, .events]
    (fabricRegs ++ featRegs ++ roleRegs ++ [Fld.eth_EVQ_LOST, Fld.tre_DUP_PKT, Fld.tre_HOLES, Fld.tre_LATE_PKT])) (l : Fin 10)
    (v : Fin 5) (n : ℕ) : rest F (s.rxPump l v n) = rest F s := by
  induction n generalizing s with
  | zero => rfl
  | succ n ih =>
    unfold State.rxPump
    dsimp only
    split
    · rfl
    · exact State.rest_dropBuf h.sub _ _ _
    · split
      · rfl
      · split
        · rfl
        next he => exact ih.trans (State.rest_takePkt h.sub (fun _ _ _ => State.rest_pktIn h.sub) he)

theorem State.rest_rxPumps (h : F.may [.evb, .que, .cab, .lnk, .tre, .eth, .detected, .events]
    (fabricRegs ++ featRegs ++ roleRegs ++ [Fld.eth_EVQ_LOST, Fld.tre_DUP_PKT, Fld.tre_HOLES, Fld.tre_LATE_PKT])) :
    rest F s.rxPumps = rest F s := by
  simp only [State.rxPumps, State.rest_confirmed h.sub, State.rest_rxPump h.sub, rest_each, eq_self, implies_true]

theorem State.rest_rxBytes (h : F.may [.evb, .que, .cab, .lnk, .tre, .eth, .detected, .events]
    (fabricRegs ++ featRegs ++ roleRegs ++ [Fld.eth_EVQ_LOST, Fld.tre_DUP_PKT, Fld.tre_HOLES, Fld.tre_LATE_PKT])) (l : Fin 10)
    (v : Fin 5) (d : List ℕ) : rest F (s.rxBytes l v d) = rest F s := by
  simp only [State.rxBytes, State.rest_useSpace h.sub, State.rest_setTreLink h.sub, State.rest_confirmed h.sub,
    State.rest_rxPump h.sub, eq_self]

theorem State.rest_evRx (h : F.may [.lnk, .tre, .events] [.eth_EVQ_LOST]) (r : EvRec) : rest F (s.evRx r) = rest F s := by
  simp only [State.evRx, State.rest_sendUp h.sub, State.rest_queueEv h.sub, eq_self]

theorem State.rest_dropBufs (h : F.may [.que, .tre] areaRegs) (l : Fin 10) : rest F (s.dropBufs l) = rest F s := by
  simp only [State.dropBufs, State.rest_dropBuf h.sub, rest_each, eq_self, implies_true]

theorem State.rest_treLinkNew (h : F.may [.que, .tre] areaRegs) (l : Fin 10) : rest F (s.treLinkNew l) = rest F s := by
  simp only [State.treLinkNew, State.rest_dropBufs h.sub, State.rest_setTreLink h.sub, eq_self]

theorem State.rest_treLinkUp (h : F.may [.que, .trg, .lnk, .tre, .out] areaRegs) (l : Fin 10) :
    rest F (s.treLinkUp l) = rest F s := by
  simp only [State.treLinkUp, State.rest_treLinkNew h.sub, State.rest_setLink h.sub, State.rest_trigLinkUp h.sub,
    State.rest_sendEnum h.sub, rest_ite, ite_self, eq_self]

theorem State.rest_cutPkts (h : F.may [.que, .lnk, .tre] areaRegs) (l : Fin 10) : rest F (s.cutPkts l) = rest F s := by
  unfold State.cutPkts
  dsimp only
  refine (rest_each (fun _ _ => ?_) _).trans ?_
  · split
    · simp only [State.rest_treUpd h.sub, State.rest_sweep h.sub, State.rest_setItem h.sub, rest_when, rest_ite, ite_self,
        eq_self, implies_true]
    · rfl
  · simp only [State.rest_setLink h.sub, eq_self]

theorem State.rest_sendLost (h : F.may [.lnk, .tre] []) (again : ℕ) : rest F (s.sendLost again) = rest F s := by
  unfold State.sendLost
  dsimp only
  split <;> simp only [State.rest_treUpd h.sub, State.rest_sendV0 h.sub, eq_self]

theorem State.rest_treLinkDown (h : F.may [.tbs, .que, .lnk, .tre, .detected, .events]
    (sourceRegs ++ areaRegs ++ roleRegs ++ [Fld.eth_EVQ_LOST, Fld.tbs_CLAP_QUAL, Fld.tbs_CLAP_VALID, Fld.tre_FAILOVERS]))
    (l : Fin 10) : rest F (s.treLinkDown l) = rest F s := by
  unfold State.treLinkDown
  dsimp only
  split
  · split <;> simp only [State.wrB_eq, State.bump_eq, rest_wr .tre_STBY_OK h.sub, rest_wr .tre_FAILOVERS h.sub,
      State.rest_treLinkNew h.sub, State.rest_clapLinkDown h.sub, State.rest_setLink h.sub, State.rest_cutPkts h.sub,
      State.rest_treUpd h.sub, State.rest_pump0 h.sub, State.rest_setRole h.sub, State.rest_clapSel h.sub,
      State.rest_sendLost h.sub, State.rest_topoFault h.sub, eq_self]
  · simp only [State.wrB_eq, rest_wr .tre_STBY_OK h.sub, State.rest_treLinkNew h.sub, State.rest_clapLinkDown h.sub,
      State.rest_setLink h.sub, State.rest_cutPkts h.sub, State.rest_treUpd h.sub, State.rest_pump0 h.sub,
      State.rest_setRole h.sub, eq_self]

theorem State.rest_sendReply (h : F.may [.lnk, .tre] []) (l : Fin 10) (again : ℕ) :
    rest F (s.sendReply l again) = rest F s := by
  simp only [State.sendReply, State.rest_sendV0 h.sub, State.rest_treUpd h.sub, rest_ite, ite_self, eq_self]

theorem State.rest_enumRx (h : F.may [.lnk, .tre, .detected] [.tre_HOP, .tre_LINK_ROLE, .tre_MODULE_ID, .tre_PEER_ID,
    .tre_ROOT_ID, .tre_TOPO_FAULT, .tre_TREE_FEAT]) (l : Fin 10) (src root hop assign feat : ℕ) :
    rest F (s.enumRx l src root hop assign feat) = rest F s := by
  unfold State.enumRx
  refine rest_ite_eq (State.rest_topoFault h.sub _ _) (rest_ite_eq rfl ?_)
  extract_lets known s1 x s2 s3 s4 s5 s6 s7 s8 m s9
  have h1 : rest F s1 = rest F s := State.rest_treUpd h.sub _
  have h2 : rest F s2 = rest F s1 := (rest_wr .tre_PEER_ID h.sub _ _).trans (State.rest_setTreLink h.sub _ _)
  refine rest_ite_eq ((State.rest_topoFault h.sub _ _).trans h1) ?_
  split
  · exact (State.rest_sendEnum h.sub _ _).trans ((State.rest_treUpd h.sub _).trans (h2.trans h1))
  · have h3 : rest F s3 = rest F s2 := rest_ite_eq (rest_wr .tre_MODULE_ID h.sub _ _) rfl
    have h4 : rest F s4 = rest F s3 := rest_wr .tre_ROOT_ID h.sub _ _
    have h5 : rest F s5 = rest F s4 := rest_ite_eq (rest_wr .tre_TREE_FEAT h.sub _ _) rfl
    have h6 : rest F s6 = rest F s5 := rest_ite_eq (State.rest_setRole h.sub _ _) rfl
    have h7 : rest F s7 = rest F s6 := rest_ite_eq (rest_wr .tre_HOP h.sub _ _) rfl
    have h8 : rest F s8 = rest F s7 := State.rest_sendReply h.sub _ _
    have h9 : rest F s9 = rest F s8 := rest_ite_eq (State.rest_sendReply h.sub _ _) rfl
    have hs : rest F s9 = rest F s := h9.trans (h8.trans (h7.trans (h6.trans (h5.trans (h4.trans (h3.trans (h2.trans h1)))))))
    exact rest_ite_eq ((rest_each (fun _ _ => State.rest_sendEnum h.sub _ _) _).trans hs) hs

theorem State.rest_subReply (h : F.may [.tre] []) (l : Fin 10) (id parent role feat fw : ℕ) :
    rest F (s.subReply l id parent role feat fw) = rest F s := by
  simp only [State.subReply, State.rest_subPut h.sub, eq_self]

theorem State.rest_replyClaim (h : F.may [.lnk, .tre, .detected] [.tre_LINK_ROLE, .tre_TOPO_FAULT]) (l : Fin 10)
    (id parent role : ℕ) : rest F (s.replyClaim l id parent role) = rest F s := by
  simp only [State.replyClaim, State.rest_sendClaim h.sub, rest_ite, ite_self, eq_self]

theorem State.rest_giveId (h : F.may [.lnk, .tre] []) (l : Fin 10) (parent : ℕ) : rest F (s.giveId l parent) = rest F s := by
  unfold State.giveId
  split <;> simp only [State.rest_sendEnum h.sub, State.rest_treUpd h.sub, eq_self]

theorem State.rest_regrant (h : F.may [.lnk, .tre] [.tre_LINK_ROLE, .tre_STBY_OK]) (id parent : ℕ) (was : Bool) :
    rest F (s.regrant id parent was) = rest F s := by
  simp only [State.regrant, State.rest_stbySet h.sub, rest_ite, ite_self, eq_self]

theorem State.rest_sendAdmit (h : F.may [.lnk, .tre] []) (l : Fin 10) (id parent : ℕ) :
    rest F (s.sendAdmit l id parent) = rest F s := by
  simp only [State.sendAdmit, State.rest_sendV0 h.sub, State.rest_treUpd h.sub, eq_self]

theorem State.rest_enumReplyRx (h : F.may [.lnk, .tre, .detected, .events]
    (treeRegs ++ featRegs ++ roleRegs ++ [Fld.eth_EVQ_LOST, Fld.tre_PEER_ID])) (l : Fin 10) (id parent role feat fw rev : ℕ) :
    rest F (s.enumReplyRx l id parent role feat fw rev) = rest F s := by
  simp only [State.enumReplyRx, rest_wr .tre_PEER_ID h.sub, State.rest_treUpd h.sub, State.rest_giveId h.sub,
    State.rest_topoFault h.sub, State.rest_regrant h.sub, State.rest_standbyCheck h.sub, State.rest_enumRegs h.sub,
    State.rest_replyClaim h.sub, State.rest_subReply h.sub, State.rest_featCompute h.sub, State.rest_sendAdmit h.sub,
    State.rest_sendUp h.sub, rest_when, rest_ite, ite_self, eq_self, implies_true]

theorem State.rest_replyTimeout (h : F.may [.lnk, .tre, .detected] [.tre_TOPO_FAULT]) : rest F s.replyTimeout = rest F s := by
  unfold State.replyTimeout
  split
  · simp only [State.rest_treUpd h.sub, State.rest_sendReply h.sub, State.rest_topoFault h.sub, rest_ite, ite_self, eq_self]
  · rfl

theorem State.rest_enumWait (h : F.may [.tre, .detected] [.tre_TOPO_FAULT]) : rest F s.enumWait = rest F s := by
  unfold State.enumWait
  split
  · simp only [State.rest_topoFault h.sub, State.rest_treUpd h.sub, rest_ite, ite_self, eq_self]
  · rfl

theorem State.rest_takeRootId (h : F.may [.detected] [.tre_MODULE_ID, .tre_TOPO_FAULT]) : rest F s.takeRootId = rest F s := by
  simp only [State.takeRootId, rest_wr .tre_MODULE_ID h.sub, State.rest_topoFault h.sub, rest_ite, ite_self, eq_self]

theorem State.rest_enumAll (h : F.may [.lnk, .tre, .detected] treeRegs) : rest F s.enumAll = rest F s := by
  simp only [State.enumAll, State.wrB_eq, rest_wr .tre_ENUM_DONE h.sub, State.rest_enumRegs h.sub, State.rest_treUpd h.sub,
    State.rest_sendEnum h.sub, rest_each, eq_self, implies_true]

theorem State.rest_enumStart (h : F.may [.lnk, .tre, .detected] (treeRegs ++
    [Fld.tre_CFG_ERR, Fld.tre_MODULE_ID, Fld.tre_TOPO_FAULT])) : rest F s.enumStart = rest F s := by
  simp only [State.enumStart, State.wrB_eq, rest_wr .tre_CFG_ERR h.sub, State.rest_takeRootId h.sub, State.rest_enumAll h.sub,
    rest_ite, ite_self, eq_self]

theorem State.rest_dropReplay (h : F.may [.que] areaRegs) : rest F s.dropReplay = rest F s := by
  simp only [State.dropReplay, State.rest_sweep h.sub, State.rest_queUpd h.sub, eq_self]

theorem State.rest_claimTake (h : F.may [.tbs, .lnk, .tre, .detected, .events]
    (sourceRegs ++ [Fld.eth_EVQ_LOST, Fld.tbs_CLAP_QUAL, Fld.tre_HOP, Fld.tre_LINK_CLAIM, Fld.tre_LINK_ROLE, Fld.tre_MODULE_ID,
    Fld.tre_STBY_OK])) (l : Fin 10) (no : ℕ) : rest F (s.claimTake l no) = rest F s := by
  unfold State.claimTake
  dsimp only
  split
  · split
    · split
      · split <;> simp only [State.wrB_eq, rest_wr .tre_MODULE_ID h.sub, rest_wr .tre_LINK_CLAIM h.sub,
          rest_wr .tre_STBY_OK h.sub, rest_wr .tre_HOP h.sub, State.rest_treUpd h.sub, State.rest_sendV0 h.sub,
          State.rest_setRole h.sub, State.rest_clapSel h.sub, State.rest_sendEnum h.sub, rest_when, rest_each, eq_self,
          implies_true]
      · simp only [rest_wr .tre_MODULE_ID h.sub, rest_wr .tre_LINK_CLAIM h.sub, rest_wr .tre_HOP h.sub,
          State.rest_treUpd h.sub, State.rest_sendV0 h.sub, State.rest_setRole h.sub, State.rest_clapSel h.sub,
          State.rest_sendEnum h.sub, rest_when, rest_each, rest_ite, ite_self, eq_self, implies_true]
    · split
      · split <;> simp only [State.wrB_eq, rest_wr .tre_MODULE_ID h.sub, rest_wr .tre_LINK_CLAIM h.sub,
          rest_wr .tre_STBY_OK h.sub, rest_wr .tre_HOP h.sub, State.rest_treUpd h.sub, State.rest_sendV0 h.sub,
          State.rest_setRole h.sub, State.rest_clapSel h.sub, State.rest_sendEnum h.sub, rest_when, rest_each, eq_self,
          implies_true]
      · simp only [rest_wr .tre_MODULE_ID h.sub, rest_wr .tre_LINK_CLAIM h.sub, rest_wr .tre_HOP h.sub,
          State.rest_treUpd h.sub, State.rest_sendV0 h.sub, State.rest_setRole h.sub, State.rest_clapSel h.sub,
          State.rest_sendEnum h.sub, rest_when, rest_each, rest_ite, ite_self, eq_self, implies_true]
  · split
    · split
      · split <;> simp only [State.wrB_eq, rest_wr .tre_MODULE_ID h.sub, rest_wr .tre_LINK_CLAIM h.sub,
          rest_wr .tre_STBY_OK h.sub, State.rest_treUpd h.sub, State.rest_sendV0 h.sub, State.rest_setRole h.sub,
          State.rest_clapSel h.sub, State.rest_sendEnum h.sub, rest_when, rest_each, eq_self, implies_true]
      · simp only [rest_wr .tre_MODULE_ID h.sub, rest_wr .tre_LINK_CLAIM h.sub, State.rest_treUpd h.sub,
          State.rest_sendV0 h.sub, State.rest_setRole h.sub, State.rest_clapSel h.sub, State.rest_sendEnum h.sub, rest_when,
          rest_each, rest_ite, ite_self, eq_self, implies_true]
    · split
      · split <;> simp only [State.wrB_eq, rest_wr .tre_MODULE_ID h.sub, rest_wr .tre_LINK_CLAIM h.sub,
          rest_wr .tre_STBY_OK h.sub, State.rest_treUpd h.sub, State.rest_sendV0 h.sub, State.rest_setRole h.sub,
          State.rest_clapSel h.sub, State.rest_sendEnum h.sub, rest_when, rest_each, eq_self, implies_true]
      · simp only [rest_wr .tre_MODULE_ID h.sub, rest_wr .tre_LINK_CLAIM h.sub, State.rest_treUpd h.sub,
          State.rest_sendV0 h.sub, State.rest_setRole h.sub, State.rest_clapSel h.sub, State.rest_sendEnum h.sub, rest_when,
          rest_each, rest_ite, ite_self, eq_self, implies_true]

theorem State.rest_claimRx (h : F.may [.tbs, .que, .cab, .lnk, .tre, .detected, .events]
    (sourceRegs ++ areaRegs ++ [Fld.eth_EVQ_LOST, Fld.tbs_CLAP_QUAL, Fld.tre_CLAIM_REFUSED, Fld.tre_FWD_LOG, Fld.tre_HOP,
    Fld.tre_LINK_CLAIM, Fld.tre_LINK_ROLE, Fld.tre_MODULE_ID, Fld.tre_STBY_OK])) (l : Fin 10) (no : ℕ) :
    rest F (s.claimRx l no) = rest F s := by
  simp only [State.claimRx, State.bump_eq, rest_wr .tre_CLAIM_REFUSED h.sub, State.rest_sendV0 h.sub,
    State.rest_claimTake h.sub, State.rest_fwdRegs h.sub, State.rest_dropReplay h.sub, State.rest_treUpd h.sub, rest_ite,
    ite_self, eq_self]

theorem State.rest_claimAckRx (h : F.may [.lnk, .tre, .detected, .events]
    (treeRegs ++ featRegs ++ roleRegs ++ [Fld.eth_EVQ_LOST, Fld.tre_LINK_CLAIM])) (l : Fin 10) (no result held : ℕ) :
    rest F (s.claimAckRx l no result held) = rest F s := by
  unfold State.claimAckRx
  dsimp only
  split
  · rfl
  · split
    · split <;> simp only [rest_wr .tre_LINK_CLAIM h.sub, State.rest_setRole h.sub, State.rest_setTreLink h.sub,
        State.rest_sendEnum h.sub, State.rest_announce h.sub, State.rest_sendV0 h.sub, eq_self]
    · simp only [State.rest_setRole h.sub, State.rest_setTreLink h.sub, eq_self]

theorem State.rest_lostRx (h : F.may [.lnk, .tre, .detected] [.tre_LINK_ROLE, .tre_TOPO_FAULT]) (l : Fin 10) (held : ℕ) :
    rest F (s.lostRx l held) = rest F s := by
  simp only [State.lostRx, State.rest_setTreLink h.sub, State.rest_sendClaim h.sub, rest_ite, ite_self, eq_self]

theorem State.rest_lostTimeout (h : F.may [.lnk, .tre, .detected] [.tre_TOPO_FAULT]) : rest F s.lostTimeout = rest F s := by
  unfold State.lostTimeout
  split
  · simp only [State.rest_sendLost h.sub, State.rest_topoFault h.sub, State.rest_treUpd h.sub, rest_ite, ite_self, eq_self]
  · rfl

theorem State.rest_demoteRx (h : F.may [.tre] [.tre_LINK_ROLE, .tre_STBY_OK]) (l : Fin 10) (no : ℕ) :
    rest F (s.demoteRx l no) = rest F s := by
  simp only [State.demoteRx, State.wrB_eq, rest_wr .tre_STBY_OK h.sub, State.rest_setRole h.sub, State.rest_setTreLink h.sub,
    rest_ite, ite_self, eq_self]

theorem State.rest_stbyRx (h : F.may [.lnk, .tre] [.tre_LINK_ROLE, .tre_STBY_OK]) (l : Fin 10) (child : ℕ) (grant : Bool) :
    rest F (s.stbyRx l child grant) = rest F s := by
  simp only [State.stbyRx, State.wrB_eq, rest_wr .tre_STBY_OK h.sub, State.rest_setRole h.sub, State.rest_sendDown h.sub,
    State.rest_stbyHere h.sub, rest_ite, ite_self, eq_self]

theorem State.rest_topoRx (h : F.may [.lnk, .tre, .detected, .events] (treeRegs ++ featRegs ++ roleRegs ++ [Fld.eth_EVQ_LOST]))
    (l : Fin 10) (child parent no : ℕ) : rest F (s.topoRx l child parent no) = rest F s := by
  simp only [State.topoRx, State.rest_subMove h.sub, State.rest_setTreLink h.sub, State.rest_featCompute h.sub,
    State.rest_standbyCheck h.sub, State.rest_enumRegs h.sub, State.rest_sendUp h.sub, rest_each, rest_ite, ite_self, eq_self,
    implies_true]

theorem State.rest_claimReq (h : F.may [.lnk, .tre, .detected] [.tre_CFG_ERR, .tre_LINK_ROLE, .tre_TOPO_FAULT]) (m : ℕ) :
    rest F (s.claimReq m) = rest F s := by
  simp only [State.claimReq, State.wrB_eq, rest_wr .tre_CFG_ERR h.sub, State.rest_sendClaim h.sub, rest_each, rest_ite,
    ite_self, eq_self, implies_true]

theorem State.rest_roleSw (h : F.may [.flash] [.tre_CFG_ERR, .tre_ROLE_SW]) (v : ℕ) : rest F (s.roleSw v) = rest F s := by
  simp only [State.roleSw, State.wrB_eq, rest_wr .tre_CFG_ERR h.sub, rest_wr .tre_ROLE_SW h.sub, State.rest_bootRec h.sub,
    rest_ite, ite_self, eq_self]

theorem State.rest_treReady (h : F.may [.lnk, .tre, .detected, .events]
    (treeRegs ++ featRegs ++ roleRegs ++ [Fld.eth_EVQ_LOST])) : rest F s.treReady = rest F s := by
  simp only [State.treReady, State.rest_treUpd h.sub, State.rest_featCompute h.sub, State.rest_enumRegs h.sub,
    State.rest_sendEnum h.sub, rest_each, rest_ite, ite_self, eq_self, implies_true]

theorem State.rest_treDrained (h : F.may [.lnk, .tre] [.tre_TRE_FINAL]) : rest F s.treDrained = rest F s := by
  simp only [State.treDrained, State.wrB_eq, rest_wr .tre_TRE_FINAL h.sub, State.rest_treUpd h.sub,
    State.rest_horizonSend h.sub, rest_ite, ite_self, eq_self]

theorem State.rest_readUp (h : F.may [.evb, .que, .cab, .edc, .eth, .detected, .events]
    (storeRegs ++ fabricRegs ++ [Fld.eth_EVQ_LOST])) {ps : List PktId} {use : ℕ} {u : State} {a : List PktId}
    (he : s.readUp ps use = some (u, a)) : rest F u = rest F s := by
  unfold State.readUp at he
  split at he
  · cases he
  · dsimp only at he
    split at he
    · obtain ⟨⟨v9, b9⟩, hv9, he⟩ := Option.map_eq_some_iff.1 he
      cases he
      simp only [State.rest_putItem h.sub hv9, eq_self]
    · split at he
      · cases he
      · obtain ⟨⟨v8, b8⟩, hv8, he⟩ := Option.map_eq_some_iff.1 he
        cases he
        simp only [State.rest_putItem h.sub hv8, State.rest_deliverPkt h.sub, eq_self]

theorem State.rest_replayNext (h : F.may [.evb, .que, .cab, .edc, .tre, .eth, .detected, .events]
    (storeRegs ++ fabricRegs ++ [Fld.eth_EVQ_LOST, Fld.tre_FWD_LOG])) : rest F s.replayNext = rest F s := by
  unfold State.replayNext
  split
  · rfl
  · split
    · next he11 =>
      rfl
    · next he11 =>
      simp only [State.rest_readUp h.sub he11, State.rest_fwdRegs h.sub, State.rest_treUpd h.sub, eq_self]

theorem State.rest_heldDelivery (h : F.may [.evb, .que, .cab, .edc, .tre, .eth, .detected, .events]
    (storeRegs ++ fabricRegs ++ [Fld.eth_EVQ_LOST])) (l : Fin 10) : rest F (s.heldDelivery l) = rest F s := by
  unfold State.heldDelivery
  split
  · split
    · next he11 =>
      rfl
    · next he11 =>
      simp only [State.rest_readUp h.sub he11, State.rest_treUpd h.sub, State.rest_queUpd h.sub, eq_self]
  · rfl

/-! #### LNK -/

theorem State.rest_say (h : F.may [.out] []) (o : Out) : rest F (s.say o) = rest F s := by
  simp only [State.say, rest_out h.sub, eq_self]

theorem State.rest_lnkRegs (h : F.may [] [.lnk_LANES_UP, .lnk_PORT_UP]) (l : Fin 10) : rest F (s.lnkRegs l) = rest F s := by
  simp only [State.lnkRegs, State.wrBit_eq, rest_wr .lnk_LANES_UP h.sub, rest_wr .lnk_PORT_UP h.sub, eq_self]

theorem State.rest_misRegs (h : F.may [] [.lnk_MISWIRE]) (l : Fin 10) : rest F (s.misRegs l) = rest F s := by
  simp only [State.misRegs, State.wrBit_eq, rest_wr .lnk_MISWIRE h.sub, eq_self]

theorem State.rest_laneTaps {l : Fin 10} {j : Fin 2} (hx : F.mayOf (laneIx l j) [.lnk_TX_POST, .lnk_TX_PRE]) (pre post : ℕ) :
    rest F (s.laneTaps l j pre post) = rest F s := by
  simp only [State.laneTaps, rest_wrOf .lnk_TX_POST hx.sub, rest_wrOf .lnk_TX_PRE hx.sub, eq_self]

theorem State.rest_enterHunt (h : F.may [.lnk] []) {l : Fin 10} {j : Fin 2} (hj : F.mayOf l [laneFld j])
    (hx : F.mayOf (laneIx l j) [.lnk_CTLE, .lnk_EQ_COMPAT, .lnk_TX_POST, .lnk_TX_PRE]) (hl : F.mayOf l [.lnk_LINK_REV])
    (rate : ℕ) (only : Bool) : rest F (s.enterHunt l j rate only) = rest F s := by
  simp only [State.enterHunt, State.wrB_eq, rest_wrOf .lnk_EQ_COMPAT hx.sub, rest_wrOf .lnk_CTLE hx.sub,
    rest_wrOf .lnk_LINK_REV hl.sub, State.rest_setLane h.sub, State.rest_laneTaps hx.sub, State.rest_setLaneSt h.sub hj,
    rest_when, eq_self, implies_true]

theorem State.rest_laneOff (h : F.may [.lnk] [.lnk_L0_STATE, .lnk_L1_STATE, .lnk_MISWIRE]) (l : Fin 10) (j : Fin 2) (st : ℕ) :
    rest F (s.laneOff l j st) = rest F s := by
  simp only [State.laneOff, State.rest_misRegs h.sub, State.rest_setLaneSt h.sub h.laneSt, State.rest_setLane h.sub, eq_self]

theorem State.rest_lanesOff (h : F.may [.lnk] [.lnk_L0_STATE, .lnk_L1_STATE, .lnk_MISWIRE]) (l : Fin 10) (st : ℕ)
    (c : ℕ → Bool) : rest F (s.lanesOff l st c) = rest F s := by
  simp only [State.lanesOff, State.rest_laneOff h.sub, rest_each, rest_ite, ite_self, eq_self, implies_true]

theorem State.rest_huntLanes (h : F.may [.lnk] [.lnk_CTLE, .lnk_EQ_COMPAT, .lnk_L0_STATE, .lnk_L1_STATE, .lnk_LINK_REV,
    .lnk_TX_POST, .lnk_TX_PRE]) (l : Fin 10) : rest F (s.huntLanes l) = rest F s := by
  simp only [State.huntLanes, State.rest_enterHunt h.sub h.laneSt (h.of _).sub (h.of _).sub, rest_each, rest_ite, ite_self,
    eq_self, implies_true]

theorem State.rest_portOff (h : F.may [.lnk] (trainRegs ++ [Fld.lnk_L0_STATE, Fld.lnk_L1_STATE, Fld.lnk_LANES_UP,
    Fld.lnk_PORT_UP])) (l : Fin 10) : rest F (s.portOff l) = rest F s := by
  simp only [State.portOff, State.wrBit_eq, rest_wr .lnk_PORT_FINAL h.sub, State.rest_setLink h.sub, State.rest_lanesOff h.sub,
    State.rest_huntLanes h.sub, State.rest_lnkRegs h.sub, rest_ite, ite_self, eq_self]

theorem State.rest_linkLost (h : F.may [.tbs, .que, .lnk, .tre, .detected, .events]
    (lossRegs ++ trainRegs ++ areaRegs ++ [Fld.eth_EVQ_LOST])) (l : Fin 10) : rest F (s.linkLost l) = rest F s := by
  unfold State.linkLost
  dsimp only
  split <;> simp only [State.wrBit_eq, rest_wr .lnk_DEGRADED h.sub, State.rest_lnkRegs h.sub, State.rest_treLinkDown h.sub,
    State.rest_portOff h.sub, eq_self]

theorem State.rest_laneBlocks (h : F.may [.lnk] []) (l : Fin 10) (j : Fin 2) (b : List ℕ) (n : ℕ) :
    rest F (s.laneBlocks l j b n) = rest F s := by
  simp only [State.laneBlocks, State.rest_laneBlock h.sub, rest_each, eq_self, implies_true]

theorem State.rest_sendHello (h : F.may [.lnk, .out] []) (l : Fin 10) (j : Fin 2) (leaving : Bool) (n : ℕ) :
    rest F (s.sendHello l j leaving n) = rest F s := by
  simp only [State.sendHello, State.rest_say h.sub, State.rest_laneBlocks h.sub, eq_self]

theorem State.rest_sendRestripe (h : F.may [.lnk, .out] []) (l : Fin 10) (j : Fin 2) (lanes : ℕ) (ack : Bool) (n : ℕ) :
    rest F (s.sendRestripe l j lanes ack n) = rest F s := by
  simp only [State.sendRestripe, State.rest_setLink h.sub, State.rest_say h.sub, State.rest_laneBlocks h.sub, eq_self]

theorem State.rest_sendAck (h : F.may [.lnk, .out] []) (l : Fin 10) : rest F (s.sendAck l) = rest F s := by
  simp only [State.sendAck, State.rest_say h.sub, State.rest_streamBlock h.sub, eq_self]

theorem State.rest_sendNak (h : F.may [.lnk, .out] []) (l : Fin 10) : rest F (s.sendNak l) = rest F s := by
  simp only [State.sendNak, State.rest_say h.sub, State.rest_streamBlock h.sub, eq_self]

theorem State.rest_frameLine (h : F.may [.lnk, .out] []) (l : Fin 10) (f : TxFrame) : rest F (s.frameLine l f) = rest F s := by
  simp only [State.frameLine, State.rest_streamBlock h.sub, State.rest_setLink h.sub, rest_each, eq_self, implies_true]

theorem State.rest_replayFrom (h : F.may [.lnk, .out] [.lnk_REPLAYS]) (l : Fin 10) (n : ℕ) :
    rest F (s.replayFrom l n) = rest F s := by
  simp only [State.replayFrom, State.bump_eq, rest_wr .lnk_REPLAYS h.sub, State.rest_say h.sub, State.rest_frameLine h.sub,
    rest_each, eq_self, implies_true]

theorem State.rest_restripe (h : F.may [.lnk, .detected, .out] [.lnk_DEGRADED, .lnk_LANES_UP, .lnk_LANE_LOSS, .lnk_PORT_UP,
    .lnk_REPLAYS, .lnk_RESTRIPES]) (l : Fin 10) (j : Fin 2) (ack fault : Bool) :
    rest F (s.restripe l j ack fault) = rest F s := by
  simp only [State.restripe, State.wrB_eq, State.bump_eq, State.wrBit_eq, rest_wr .lnk_RESTRIPES h.sub,
    rest_wr .lnk_LANE_LOSS h.sub, rest_wr .lnk_DEGRADED h.sub, State.rest_setLink h.sub, State.rest_sendNak h.sub,
    State.rest_sendRestripe h.sub, State.rest_lnkRegs h.sub, State.rest_replayFrom h.sub, State.rest_detect h.sub, rest_ite,
    ite_self, eq_self]

theorem State.rest_laneLeave (h : F.may [.tbs, .que, .lnk, .tre, .detected, .out, .events]
    (lossRegs ++ trainRegs ++ areaRegs ++ [Fld.eth_EVQ_LOST, Fld.lnk_LANE_LOSS, Fld.lnk_REPLAYS, Fld.lnk_RESTRIPES]))
    (l : Fin 10) (j : Fin 2) (st : ℕ) (ack fault : Bool) : rest F (s.laneLeave l j st ack fault) = rest F s := by
  simp only [State.laneLeave, State.rest_laneOff h.sub, State.rest_lnkRegs h.sub, State.rest_restripe h.sub,
    State.rest_linkLost h.sub, State.rest_setLink h.sub, rest_when, rest_ite, ite_self, eq_self, implies_true]

theorem State.rest_laneFail (h : F.may [.tbs, .que, .lnk, .tre, .detected, .out, .events]
    (lossRegs ++ trainRegs ++ areaRegs ++ [Fld.eth_EVQ_LOST, Fld.lnk_BACKOFF_NOW, Fld.lnk_LANE_LOSS, Fld.lnk_REPLAYS,
    Fld.lnk_RESTRIPES, Fld.lnk_TRAIN_FAIL])) (l : Fin 10) (j : Fin 2) (double : Bool) :
    rest F (s.laneFail l j double) = rest F s := by
  simp only [State.laneFail, State.bump_eq, rest_wr .lnk_TRAIN_FAIL h.sub, rest_wr .lnk_BACKOFF_NOW h.sub,
    State.rest_laneLeave h.sub, rest_ite, ite_self, eq_self]

theorem State.rest_takeDownQuiet (h : F.may [.tbs, .que, .lnk, .tre, .detected, .events]
    (lossRegs ++ trainRegs ++ areaRegs ++ [Fld.eth_EVQ_LOST])) (l : Fin 10) : rest F (s.takeDownQuiet l) = rest F s := by
  simp only [State.takeDownQuiet, State.rest_linkLost h.sub, State.rest_lanesOff h.sub, eq_self]

theorem State.rest_takeDown (h : F.may [.tbs, .que, .lnk, .tre, .detected, .events]
    (lossRegs ++ trainRegs ++ areaRegs ++ [Fld.eth_EVQ_LOST])) (l : Fin 10) : rest F (s.takeDown l) = rest F s := by
  simp only [State.takeDown, State.rest_detect h.sub, State.rest_takeDownQuiet h.sub, eq_self]

theorem State.rest_laneUp (h : F.may [.que, .trg, .lnk, .tre, .out] (areaRegs ++
    [Fld.lnk_BACKOFF_NOW, Fld.lnk_L0_STATE, Fld.lnk_L1_STATE, Fld.lnk_LANES_UP, Fld.lnk_PORT_UP])) (l : Fin 10) (j : Fin 2) :
    rest F (s.laneUp l j) = rest F s := by
  simp only [State.laneUp, rest_wr .lnk_BACKOFF_NOW h.sub, State.rest_lnkRegs h.sub, State.rest_setLaneSt h.sub h.laneSt,
    State.rest_treLinkUp h.sub, rest_ite, ite_self, eq_self]

theorem State.rest_laneReady (h : F.may [.que, .trg, .lnk, .tre, .out] (areaRegs ++
    [Fld.lnk_BACKOFF_NOW, Fld.lnk_L0_STATE, Fld.lnk_L1_STATE, Fld.lnk_LANES_UP, Fld.lnk_PORT_UP])) (l : Fin 10) (j : Fin 2) :
    rest F (s.laneReady l j) = rest F s := by
  simp only [State.laneReady, State.rest_setLaneSt h.sub h.laneSt, State.rest_sendRestripe h.sub, State.rest_setLink h.sub,
    State.rest_laneUp h.sub, rest_ite, ite_self, eq_self]

theorem State.rest_sweepStart (h : F.may [.lnk] []) {l : Fin 10} {j : Fin 2}
    (hx : F.mayOf (laneIx l j) [.lnk_CTLE, .lnk_EQ_COMPAT, .lnk_TX_POST, .lnk_TX_PRE]) :
    rest F (s.sweepStart l j) = rest F s := by
  simp only [State.sweepStart, State.wrB_eq, rest_wrOf .lnk_EQ_COMPAT hx.sub, rest_wrOf .lnk_CTLE hx.sub,
    State.rest_laneTaps hx.sub, State.rest_setLane h.sub, eq_self]

theorem State.rest_enterCompat (h : F.may [.lnk] []) {l : Fin 10} {j : Fin 2} (hj : F.mayOf l [laneFld j])
    (hx : F.mayOf (laneIx l j) [.lnk_CTLE, .lnk_EQ_COMPAT, .lnk_TX_POST, .lnk_TX_PRE]) :
    rest F (s.enterCompat l j) = rest F s := by
  simp only [State.enterCompat, State.rest_setLaneSt h.sub hj, State.rest_sweepStart h.sub hx.sub, eq_self]

theorem State.rest_sendTrain (h : F.may [.lnk, .out] []) (l : Fin 10) (j : Fin 2) : rest F (s.sendTrain l j) = rest F s := by
  simp only [State.sendTrain, State.rest_say h.sub, State.rest_laneBlock h.sub, eq_self]

theorem State.rest_trainAsk (h : F.may [.lnk, .free] []) (l : Fin 10) (j : Fin 2) : rest F (s.trainAsk l j) = rest F s := by
  simp only [State.trainAsk, State.rest_setLane h.sub, State.rest_fresh h.sub, eq_self]

theorem State.rest_enterTrain (h : F.may [.lnk, .free, .out] []) {l : Fin 10} {j : Fin 2} (hj : F.mayOf l [laneFld j])
    (hx : F.mayOf (laneIx l j) [.lnk_EQ_COMPAT, .lnk_TX_POST, .lnk_TX_PRE]) : rest F (s.enterTrain l j) = rest F s := by
  simp only [State.enterTrain, State.wrB_eq, rest_wrOf .lnk_EQ_COMPAT hx.sub, State.rest_laneTaps hx.sub,
    State.rest_setLaneSt h.sub hj, State.rest_setLane h.sub, State.rest_sendTrain h.sub, State.rest_trainAsk h.sub, eq_self]

theorem State.rest_helloNext (h : F.may [.lnk, .free, .out] []) {l : Fin 10} {j : Fin 2} (hj : F.mayOf l [laneFld j])
    (hx : F.mayOf (laneIx l j) [.lnk_CTLE, .lnk_EQ_COMPAT, .lnk_TX_POST, .lnk_TX_PRE]) :
    rest F (s.helloNext l j) = rest F s := by
  simp only [State.helloNext, State.rest_setLane h.sub, State.rest_enterTrain h.sub hj hx.sub,
    State.rest_enterCompat h.sub hj hx.sub, rest_ite, ite_self, eq_self]

theorem State.rest_blockLock (h : F.may [.lnk, .free] []) {l : Fin 10} {j : Fin 2} (hj : F.mayOf l [laneFld j])
    (hx : F.mayOf (laneIx l j) [.lnk_CTLE]) : rest F (s.blockLock l j) = rest F s := by
  simp only [State.blockLock, rest_wrOf .lnk_CTLE hx.sub, State.rest_setLaneSt h.sub hj, State.rest_setLane h.sub,
    State.rest_fresh h.sub, rest_ite, ite_self, eq_self]

theorem State.rest_laneLoss (h : F.may [.tbs, .que, .lnk, .tre, .detected, .out, .events]
    (lossRegs ++ trainRegs ++ areaRegs ++ [Fld.eth_EVQ_LOST, Fld.lnk_BACKOFF_NOW, Fld.lnk_LANE_LOSS, Fld.lnk_LOSS_CNT,
    Fld.lnk_REPLAYS, Fld.lnk_RESTRIPES, Fld.lnk_TRAIN_FAIL])) (l : Fin 10) (j : Fin 2) (los : Bool) :
    rest F (s.laneLoss l j los) = rest F s := by
  unfold State.laneLoss
  dsimp only
  split <;> simp only [State.bump_eq, rest_wr .lnk_LOSS_CNT h.sub, State.rest_setLane h.sub, State.rest_laneFail h.sub, eq_self]

theorem State.rest_lockLoss (h : F.may [.tbs, .que, .lnk, .tre, .detected, .out, .events]
    (lossRegs ++ trainRegs ++ areaRegs ++ [Fld.eth_EVQ_LOST, Fld.lnk_BACKOFF_NOW, Fld.lnk_LANE_LOSS, Fld.lnk_LOSS_CNT,
    Fld.lnk_REPLAYS, Fld.lnk_RESTRIPES, Fld.lnk_TRAIN_FAIL])) (l : Fin 10) (j : Fin 2) :
    rest F (s.lockLoss l j) = rest F s := by
  simp only [State.lockLoss, State.rest_laneLoss h.sub, rest_ite, ite_self, eq_self]

theorem State.rest_signalBack (h : F.may [.lnk] []) (l : Fin 10) (j : Fin 2) : rest F (s.signalBack l j) = rest F s := by
  simp only [State.signalBack, State.rest_setLane h.sub, eq_self]

theorem State.rest_huntAt (h : F.may [.lnk] []) (l : Fin 10) (j : Fin 2) (rate : ℕ) :
    rest F (s.huntAt l j rate) = rest F s := by
  simp only [State.huntAt, State.rest_setLane h.sub, eq_self]

theorem State.rest_rateSwitch (h : F.may [.lnk] []) (l : Fin 10) (j : Fin 2) : rest F (s.rateSwitch l j) = rest F s := by
  simp only [State.rateSwitch, State.rest_huntAt h.sub, rest_ite, ite_self, eq_self]

theorem State.rest_helloTx (h : F.may [.lnk, .free, .out] []) {l : Fin 10} {j : Fin 2} (hj : F.mayOf l [laneFld j])
    (hx : F.mayOf (laneIx l j) [.lnk_CTLE, .lnk_EQ_COMPAT, .lnk_TX_POST, .lnk_TX_PRE]) : rest F (s.helloTx l j) = rest F s := by
  simp only [State.helloTx, State.rest_helloNext h.sub hj hx.sub, State.rest_sendHello h.sub, State.rest_setLane h.sub,
    rest_ite, ite_self, eq_self]

theorem State.rest_helloRx (h : F.may [.lnk, .detected, .free, .out] [.lnk_MISWIRE]) {l : Fin 10} {j : Fin 2}
    (hj : F.mayOf l [laneFld j]) (hx : F.mayOf (laneIx l j) [.lnk_CTLE, .lnk_EQ_COMPAT, .lnk_TX_POST, .lnk_TX_PRE])
    (hl : F.mayOf l [.lnk_LINK_REV, .lnk_PARTNER_FEAT, .lnk_PARTNER_FW, .lnk_PARTNER_ID, .lnk_PARTNER_MROLE, .lnk_PARTNER_PORT,
    .lnk_PARTNER_REV_MAX, .lnk_PARTNER_ROLE, .lnk_PARTNER_SPLIT]) (x : Hello) : rest F (s.helloRx l j x) = rest F s := by
  unfold State.helloRx
  split
  · rfl
  · extract_lets bad y s1 s2 s3 s4 s5
    have h1 : rest F s1 = rest F s := State.rest_setLane h.sub _ _ _
    have h2 : rest F s2 = rest F s1 := by
      simp only [s2, rest_wrOf .lnk_PARTNER_ID hl.sub, rest_wrOf .lnk_PARTNER_FEAT hl.sub, rest_wrOf .lnk_PARTNER_PORT hl.sub,
        rest_wrOf .lnk_PARTNER_REV_MAX hl.sub]
    have h3 : rest F s3 = rest F s2 := by
      simp only [s3, State.wrB_eq, rest_wrOf .lnk_PARTNER_ROLE hl.sub, rest_wrOf .lnk_PARTNER_SPLIT hl.sub,
        rest_wrOf .lnk_PARTNER_MROLE hl.sub, rest_wrOf .lnk_PARTNER_FW hl.sub]
    have h4 : rest F s4 = rest F s := (State.rest_misRegs h.sub _).trans (h3.trans (h2.trans h1))
    split
    · simp only [rest_ite, State.rest_detect h.sub, ite_self, h4]
    · rw [State.rest_helloNext h.sub hj hx.sub]
      simp only [s5, rest_ite, rest_wrOf .lnk_LINK_REV hl.sub, ite_self, h4]

theorem State.rest_revSwitch (h : F.may [.lnk] []) {l : Fin 10} {j : Fin 2} (hj : F.mayOf l [laneFld j])
    (hx : F.mayOf (laneIx l j) [.lnk_CTLE, .lnk_EQ_COMPAT, .lnk_TX_POST, .lnk_TX_PRE]) (hl : F.mayOf l [.lnk_LINK_REV]) :
    rest F (s.revSwitch l j) = rest F s := by
  unfold State.revSwitch
  split
  · simp only [State.rest_enterHunt h.sub hj hx.sub hl.sub, rest_ite, ite_self, eq_self]
  · rfl

theorem State.rest_relockTimeout (h : F.may [.tbs, .que, .lnk, .tre, .detected, .out, .events]
    (lossRegs ++ trainRegs ++ areaRegs ++ [Fld.eth_EVQ_LOST, Fld.lnk_BACKOFF_NOW, Fld.lnk_LANE_LOSS, Fld.lnk_REPLAYS,
    Fld.lnk_RESTRIPES, Fld.lnk_TRAIN_FAIL])) (l : Fin 10) (j : Fin 2) : rest F (s.relockTimeout l j) = rest F s := by
  simp only [State.relockTimeout, State.rest_laneFail h.sub, rest_ite, ite_self, eq_self]

theorem State.rest_helloTimeout (h : F.may [.tbs, .que, .lnk, .tre, .detected, .out, .events]
    (lossRegs ++ trainRegs ++ areaRegs ++ [Fld.eth_EVQ_LOST, Fld.lnk_BACKOFF_NOW, Fld.lnk_LANE_LOSS, Fld.lnk_REPLAYS,
    Fld.lnk_RESTRIPES, Fld.lnk_TRAIN_FAIL])) (l : Fin 10) (j : Fin 2) : rest F (s.helloTimeout l j) = rest F s := by
  simp only [State.helloTimeout, State.rest_laneFail h.sub, State.rest_sweepStart h.sub (h.of _).sub, rest_ite, ite_self,
    eq_self]

theorem State.rest_trainNext (h : F.may [.que, .trg, .lnk, .tre, .out] (areaRegs ++
    [Fld.lnk_BACKOFF_NOW, Fld.lnk_L0_STATE, Fld.lnk_L1_STATE, Fld.lnk_LANES_UP, Fld.lnk_PORT_UP])) (l : Fin 10) (j : Fin 2) :
    rest F (s.trainNext l j) = rest F s := by
  simp only [State.trainNext, State.rest_laneReady h.sub, rest_ite, ite_self, eq_self]

theorem State.rest_tapApply (h : F.may [.lnk] [.lnk_TX_POST, .lnk_TX_PRE]) (l : Fin 10) (j : Fin 2) (m : Train) :
    rest F (s.tapApply l j m) = rest F s := by
  simp only [State.tapApply, State.rest_setLane h.sub, State.rest_laneTaps (h.of _).sub, eq_self]

theorem State.rest_trainRx (h : F.may [.que, .trg, .lnk, .tre, .free, .out]
    (areaRegs ++ [Fld.lnk_BACKOFF_NOW, Fld.lnk_L0_STATE, Fld.lnk_L1_STATE, Fld.lnk_LANES_UP, Fld.lnk_PORT_UP, Fld.lnk_TX_POST,
    Fld.lnk_TX_PRE])) (l : Fin 10) (j : Fin 2) (m : Train) : rest F (s.trainRx l j m) = rest F s := by
  simp only [State.trainRx, State.rest_setLane h.sub, State.rest_tapApply h.sub, State.rest_trainAsk h.sub,
    State.rest_trainNext h.sub, State.rest_sendTrain h.sub, rest_when, rest_ite, ite_self, eq_self, implies_true]

theorem State.rest_rxReady (h : F.may [.que, .trg, .lnk, .tre, .out] (areaRegs ++
    [Fld.lnk_BACKOFF_NOW, Fld.lnk_L0_STATE, Fld.lnk_L1_STATE, Fld.lnk_LANES_UP, Fld.lnk_PORT_UP])) (l : Fin 10) (j : Fin 2) :
    rest F (s.rxReady l j) = rest F s := by
  simp only [State.rxReady, State.rest_trainNext h.sub, State.rest_sendTrain h.sub, State.rest_setLane h.sub, rest_ite,
    ite_self, eq_self]

theorem State.rest_trainTimeout (h : F.may [.tbs, .que, .lnk, .tre, .detected, .out, .events]
    (lossRegs ++ trainRegs ++ areaRegs ++ [Fld.eth_EVQ_LOST, Fld.lnk_BACKOFF_NOW, Fld.lnk_LANE_LOSS, Fld.lnk_REPLAYS,
    Fld.lnk_RESTRIPES, Fld.lnk_TRAIN_FAIL])) (l : Fin 10) (j : Fin 2) : rest F (s.trainTimeout l j) = rest F s := by
  unfold State.trainTimeout
  dsimp only
  split
  · split
    · simp only [State.rest_laneFail h.sub, eq_self]
    · split <;> simp only [State.rest_enterCompat h.sub h.laneSt (h.of _).sub, rest_ite, ite_self, eq_self]
  · rfl

theorem State.rest_sweepEnd (h : F.may [.tbs, .que, .trg, .lnk, .tre, .detected, .out, .events]
    (lossRegs ++ trainRegs ++ areaRegs ++ [Fld.eth_EVQ_LOST, Fld.lnk_BACKOFF_NOW, Fld.lnk_LANE_LOSS, Fld.lnk_REPLAYS,
    Fld.lnk_RESTRIPES, Fld.lnk_TRAIN_FAIL])) (l : Fin 10) (j : Fin 2) (w : List (ℕ × ℕ)) :
    rest F (s.sweepEnd l j w) = rest F s := by
  unfold State.sweepEnd
  dsimp only
  split <;> simp only [rest_wr .lnk_CTLE h.sub, State.rest_setLane h.sub, State.rest_laneReady h.sub,
    State.rest_laneFail h.sub, rest_ite, ite_self, eq_self]

theorem State.rest_sweepStep (h : F.may [.tbs, .que, .trg, .lnk, .tre, .detected, .out, .events]
    (lossRegs ++ trainRegs ++ areaRegs ++ [Fld.eth_EVQ_LOST, Fld.lnk_BACKOFF_NOW, Fld.lnk_LANE_LOSS, Fld.lnk_REPLAYS,
    Fld.lnk_RESTRIPES, Fld.lnk_TRAIN_FAIL])) (l : Fin 10) (j : Fin 2) (bad margin : ℕ) :
    rest F (s.sweepStep l j bad margin) = rest F s := by
  simp only [State.sweepStep, rest_wr .lnk_CTLE h.sub, State.rest_setLane h.sub, State.rest_sweepEnd h.sub, rest_ite, ite_self,
    eq_self]

theorem State.rest_backoffDone (h : F.may [.lnk] []) {l : Fin 10} {j : Fin 2} (hj : F.mayOf l [laneFld j])
    (hx : F.mayOf (laneIx l j) [.lnk_CTLE, .lnk_EQ_COMPAT, .lnk_TX_POST, .lnk_TX_PRE]) (hl : F.mayOf l [.lnk_LINK_REV]) :
    rest F (s.backoffDone l j) = rest F s := by
  simp only [State.backoffDone, State.rest_enterHunt h.sub hj hx.sub hl.sub, State.rest_setLaneSt h.sub hj, rest_ite, ite_self,
    eq_self]

theorem State.rest_headerIn (h : F.may [.lnk] []) (l : Fin 10) (j : Fin 2) (ok : Bool) :
    rest F (s.headerIn l j ok) = rest F s := by
  simp only [State.headerIn, State.rest_setLane h.sub, rest_ite, ite_self, eq_self]

theorem State.rest_lineBlock (h : F.may [.lnk] []) {l : Fin 10} {j : Fin 2} (hx : F.mayOf (laneIx l j) [.lnk_BLK_ERR])
    (hl : F.mayOf l [.lnk_CTL_BAD, .lnk_CTL_UNK, .lnk_STUFF_ERR]) (line : List Bool) :
    rest F (s.lineBlock l j line) = rest F s := by
  simp only [State.lineBlock, State.bump_eq, rest_wrOf .lnk_STUFF_ERR hl.sub, rest_wrOf .lnk_BLK_ERR hx.sub,
    rest_wrOf .lnk_CTL_BAD hl.sub, rest_wrOf .lnk_CTL_UNK hl.sub, State.rest_headerIn h.sub, State.rest_setLane h.sub,
    rest_ite, ite_self, eq_self]

theorem State.rest_fillRx (h : F.may [.lnk] []) {l : Fin 10} (hl : F.mayOf l [.lnk_SCR_ERR]) (j : Fin 2) (scr n : ℕ) :
    rest F (s.fillRx l j scr n) = rest F s := by
  unfold State.fillRx
  simp only [State.bump_eq, State.rest_setLane h.sub]
  split
  · simp only [rest_wrOf .lnk_SCR_ERR hl.sub, rest_ite, ite_self, eq_self]
  · rfl

theorem State.rest_portDrained (h : F.may [.tbs, .que, .lnk, .tre, .detected, .out, .events]
    (lossRegs ++ trainRegs ++ areaRegs ++ [Fld.eth_EVQ_LOST])) (l : Fin 10) : rest F (s.portDrained l) = rest F s := by
  simp only [State.portDrained, State.rest_sendHello h.sub, State.rest_linkLost h.sub, State.rest_portOff h.sub, rest_each,
    rest_ite, ite_self, eq_self, implies_true]

theorem State.rest_lnkAck (h : F.may [.tbs, .que, .lnk, .tre, .detected, .out, .events]
    (lossRegs ++ trainRegs ++ areaRegs ++ [Fld.eth_EVQ_LOST])) (l : Fin 10) (n : ℕ) : rest F (s.lnkAck l n) = rest F s := by
  simp only [State.lnkAck, State.rest_setLink h.sub, State.rest_confirmAll h.sub, State.rest_markTaken h.sub,
    State.rest_portDrained h.sub, rest_each, rest_ite, ite_self, eq_self, implies_true]

theorem State.rest_replay (h : F.may [.tbs, .que, .lnk, .tre, .detected, .out, .events]
    (lossRegs ++ trainRegs ++ areaRegs ++ [Fld.eth_EVQ_LOST, Fld.lnk_REPLAYS])) (l : Fin 10) (n : ℕ) :
    rest F (s.replay l n) = rest F s := by
  simp only [State.replay, State.rest_replayFrom h.sub, State.rest_setLink h.sub, State.rest_takeDown h.sub, rest_ite,
    ite_self, eq_self]

theorem State.rest_nakRx (h : F.may [.tbs, .que, .lnk, .tre, .detected, .out, .events]
    (lossRegs ++ trainRegs ++ areaRegs ++ [Fld.eth_EVQ_LOST, Fld.lnk_REPLAYS])) (l : Fin 10) (n : ℕ) :
    rest F (s.nakRx l n) = rest F s := by
  simp only [State.nakRx, State.rest_replay h.sub, rest_ite, ite_self, eq_self]

theorem State.rest_replayTimeout (h : F.may [.tbs, .que, .lnk, .tre, .detected, .out, .events]
    (lossRegs ++ trainRegs ++ areaRegs ++ [Fld.eth_EVQ_LOST, Fld.lnk_REPLAYS])) (l : Fin 10) :
    rest F (s.replayTimeout l) = rest F s := by
  simp only [State.replayTimeout, State.rest_replay h.sub, rest_ite, ite_self, eq_self]

theorem State.rest_ackTx (h : F.may [.lnk, .out] []) (l : Fin 10) : rest F (s.ackTx l) = rest F s := by
  unfold State.ackTx
  dsimp only
  split
  · simp only [State.rest_sendAck h.sub, State.rest_setLink h.sub, rest_ite, ite_self, eq_self]
  · rfl

theorem State.rest_putFrame (h : F.may [.lnk, .out] [.tre_CRED_WAIT]) (l : Fin 10) (v : Fin 5) (d : List ℕ)
    (pid : Option PktId) (item : Option V0) (o : Out) : rest F (s.putFrame l v d pid item o) = rest F s := by
  simp only [State.putFrame, State.bump_eq, rest_wr .tre_CRED_WAIT h.sub, State.rest_say h.sub, State.rest_frameLine h.sub,
    State.rest_setLink h.sub, eq_self]

theorem State.rest_frameWait (h : F.may [.lnk] []) (l : Fin 10) : rest F (s.frameWait l) = rest F s := by
  simp only [State.frameWait, State.rest_setLink h.sub, eq_self]

theorem State.rest_dropStale (h : F.may [.lnk] []) (l : Fin 10) : rest F (s.dropStale l) = rest F s := by
  simp only [State.dropStale, State.rest_setLink h.sub, eq_self]

theorem State.rest_nextPkt (h : F.may [.evb, .que, .cab, .edc, .lnk, .tre, .eth, .detected, .events]
    (storeRegs ++ fabricRegs ++ [Fld.eth_EVQ_LOST, Fld.tre_FWD_LOG])) (l : Fin 10) : rest F (s.nextPkt l) = rest F s := by
  unfold State.nextPkt
  split
  · dsimp only
    split <;> simp only [State.rest_dropStale h.sub, State.rest_replayNext h.sub, State.rest_setLink h.sub, rest_ite, ite_self,
      eq_self]
  · rfl

theorem State.rest_logSent (h : F.may [.cab, .tre] [.tre_FWD_LOG]) (l : Fin 10) (v : Fin 5) (k : TxPkt) (stop : ℕ) :
    rest F (s.logSent l v k stop) = rest F s := by
  simp only [State.logSent, State.rest_fwdRegs h.sub, State.rest_treUpd h.sub, eq_self]

theorem State.rest_tookLeft (h : F.may [.que] areaRegs) (k : TxPkt) (left : ℕ) : rest F (s.tookLeft k left) = rest F s := by
  unfold State.tookLeft
  split
  · simp only [State.rest_tookUp h.sub, eq_self]
  · rfl

theorem State.rest_sendPkt (h : F.may [.tbs, .que, .cab, .lnk, .tre, .detected, .out, .events]
    (lossRegs ++ trainRegs ++ areaRegs ++ [Fld.eth_EVQ_LOST, Fld.tre_CRED_WAIT, Fld.tre_FWD_LOG, Fld.tre_TRE_FINAL]))
    (l : Fin 10) (v : Fin 5) (k : TxPkt) : rest F (s.sendPkt l v k) = rest F s := by
  simp only [State.sendPkt, State.rest_putFrame h.sub, State.rest_setTreLink h.sub, State.rest_tookLeft h.sub,
    State.rest_setLink h.sub, State.rest_portDrained h.sub, State.rest_treDrained h.sub, State.rest_horizonSend h.sub,
    State.rest_logSent h.sub, rest_ite, ite_self, eq_self]

theorem State.rest_vc0Tx (h : F.may [.que, .lnk, .out] [.tre_CRED_WAIT]) (l : Fin 10) (m : V0) (x : List V0) :
    rest F (s.vc0Tx l m x) = rest F s := by
  simp only [State.vc0Tx, State.rest_starveCount h.sub, State.rest_putFrame h.sub, State.rest_setLink h.sub,
    State.rest_frameWait h.sub, rest_when, rest_ite, ite_self, eq_self, implies_true]

theorem State.rest_dataTx (h : F.may [.tbs, .evb, .que, .cab, .edc, .lnk, .tre, .eth, .detected, .out, .events]
    (lossRegs ++ storeRegs ++ fabricRegs ++ trainRegs ++ [Fld.eth_EVQ_LOST, Fld.tre_CRED_WAIT, Fld.tre_FWD_LOG,
    Fld.tre_TRE_FINAL])) {l : Fin 10} {low : Bool} {u : State} (he : s.dataTx l low = some u) : rest F u = rest F s := by
  unfold State.dataTx at he
  dsimp only at he
  split at he
  · cases he
    simp only [State.rest_nextPkt h.sub, State.rest_sendPkt h.sub, eq_self]
  · split at he
    · split at he
      · cases he
      · cases he
        simp only [State.rest_nextPkt h.sub, State.rest_frameWait h.sub, eq_self]
    · split at he
      · cases he
      · cases he
        simp only [State.rest_nextPkt h.sub, State.rest_frameWait h.sub, eq_self]

theorem State.rest_frameTx (h : F.may [.tbs, .evb, .que, .cab, .edc, .lnk, .tre, .eth, .detected, .out, .events]
    (lossRegs ++ storeRegs ++ fabricRegs ++ trainRegs ++ [Fld.eth_EVQ_LOST, Fld.tre_CRED_WAIT, Fld.tre_FWD_LOG,
    Fld.tre_TRE_FINAL])) (l : Fin 10) : rest F (s.frameTx l) = rest F s := by
  unfold State.frameTx
  split
  · rfl
  · extract_lets s1 x
    have h1 : rest F s1 = rest F s := (State.rest_pump0 h.sub).trans (State.rest_evPump h.sub)
    clear_value s1
    have hd (b : Bool) (t : State) (ht : rest F t = rest F s) : rest F ((s1.dataTx l b).getD t) = rest F s := by
      cases he : s1.dataTx l b with
      | none => exact ht
      | some u => exact (State.rest_dataTx h.sub he).trans h1
    split
    · have hv := fun m k => (State.rest_vc0Tx (s := s1) h.sub l m k).trans h1
      split
      · exact hd _ _ (hv _ _)
      · exact hv _ _
    · split
      · exact h1
      · exact hd _ _ h1

theorem State.rest_itemRx (h : F.may [.lnk, .tre, .events] [.eth_EVQ_LOST, .lnk_VC_ERR]) (l : Fin 10) (d : List ℕ) :
    rest F (s.itemRx l d) = rest F s := by
  simp only [State.itemRx, State.bump_eq, rest_wr .lnk_VC_ERR h.sub, State.rest_evRx h.sub, rest_ite, ite_self, eq_self]

theorem State.rest_frameIn (h : F.may [.evb, .que, .cab, .lnk, .tre, .eth, .detected, .events]
    (fabricRegs ++ featRegs ++ roleRegs ++ [Fld.eth_EVQ_LOST, Fld.lnk_VC_ERR, Fld.tre_CRED_VIOL, Fld.tre_CRED_VIOL_CNT,
    Fld.tre_DUP_PKT, Fld.tre_HOLES, Fld.tre_LATE_PKT])) (l : Fin 10) (vc n : ℕ) (d : List ℕ) :
    rest F (s.frameIn l vc n d) = rest F s := by
  unfold State.frameIn
  split <;> simp only [State.wrB_eq, State.bump_eq, rest_wr .tre_CRED_VIOL_CNT h.sub, rest_wr .tre_CRED_VIOL h.sub,
    rest_wr .lnk_VC_ERR h.sub, State.rest_detect h.sub, State.rest_setLink h.sub, State.rest_itemRx h.sub,
    State.rest_rxBytes h.sub, rest_ite, ite_self, eq_self]

theorem State.rest_frameRx (h : F.may [.tbs, .evb, .que, .cab, .lnk, .tre, .eth, .detected, .out, .events]
    (lossRegs ++ fabricRegs ++ trainRegs ++ featRegs ++ [Fld.eth_EVQ_LOST, Fld.lnk_CRC_ERR, Fld.lnk_VC_ERR, Fld.tre_CRED_VIOL,
    Fld.tre_CRED_VIOL_CNT, Fld.tre_DUP_PKT, Fld.tre_HOLES, Fld.tre_LATE_PKT])) (l : Fin 10) (f : RxFrame) :
    rest F (s.frameRx l f) = rest F s := by
  unfold State.frameRx
  dsimp only
  split
  · rfl
  · split
    · split
      · simp only [State.rest_lnkAck h.sub, State.rest_setLink h.sub, eq_self]
      · split
        · simp only [State.rest_lnkAck h.sub, State.rest_setLink h.sub, State.rest_frameIn h.sub, eq_self]
        · split
          · split <;> simp only [State.bump_eq, rest_wr .lnk_CRC_ERR h.sub, State.rest_lnkAck h.sub, State.rest_setLink h.sub,
              State.rest_sendNak h.sub, eq_self]
          · simp only [State.bump_eq, rest_wr .lnk_CRC_ERR h.sub, State.rest_lnkAck h.sub, State.rest_setLink h.sub,
              State.rest_sendNak h.sub, rest_ite, ite_self, eq_self]
    · split
      · simp only [State.rest_setLink h.sub, eq_self]
      · split
        · simp only [State.rest_setLink h.sub, State.rest_frameIn h.sub, eq_self]
        · split
          · split <;> simp only [State.bump_eq, rest_wr .lnk_CRC_ERR h.sub, State.rest_setLink h.sub, State.rest_sendNak h.sub,
              eq_self]
          · simp only [State.bump_eq, rest_wr .lnk_CRC_ERR h.sub, State.rest_setLink h.sub, State.rest_sendNak h.sub, rest_ite,
              ite_self, eq_self]

theorem State.rest_heartTx (h : F.may [.evb, .que, .cab, .lnk, .tre, .eth, .detected, .out, .events]
    (fabricRegs ++ featRegs ++ roleRegs ++ [Fld.eth_EVQ_LOST, Fld.tre_DUP_PKT, Fld.tre_HOLES, Fld.tre_LATE_PKT])) (l : Fin 10)
    : rest F (s.heartTx l) = rest F s := by
  simp only [State.heartTx, State.rest_rxPumps h.sub, State.rest_setLink h.sub, State.rest_say h.sub,
    State.rest_streamBlock h.sub, rest_on, rest_ite, ite_self, eq_self, implies_true]

theorem State.rest_heartRx (h : F.may [.tbs, .que, .trg, .lnk, .tre, .detected, .out, .events]
    (lossRegs ++ trainRegs ++ areaRegs ++ [Fld.eth_EVQ_LOST])) (l : Fin 10) (x : Heart) :
    rest F (s.heartRx l x) = rest F s := by
  simp only [State.heartRx, State.rest_setLink h.sub, State.rest_lnkAck h.sub, State.rest_trigAck h.sub, rest_ite, ite_self,
    eq_self]

theorem State.rest_silent (h : F.may [.tbs, .que, .lnk, .tre, .detected, .events]
    (lossRegs ++ trainRegs ++ areaRegs ++ [Fld.eth_EVQ_LOST, Fld.lnk_SILENT])) (l : Fin 10) :
    rest F (s.silent l) = rest F s := by
  simp only [State.silent, State.wrB_eq, rest_wr .lnk_SILENT h.sub, State.rest_takeDown h.sub, rest_ite, ite_self, eq_self]

theorem State.rest_alignTx (h : F.may [.lnk, .out] []) (l : Fin 10) : rest F (s.alignTx l) = rest F s := by
  simp only [State.alignTx, State.rest_alignPair h.sub, rest_ite, ite_self, eq_self]

theorem State.rest_alignRx (h : F.may [.que, .trg, .lnk, .tre, .out] (areaRegs ++
    [Fld.lnk_ALIGN_ERR, Fld.lnk_BACKOFF_NOW, Fld.lnk_L0_STATE, Fld.lnk_L1_STATE, Fld.lnk_LANES_UP, Fld.lnk_PORT_UP]))
    (l : Fin 10) (a b skew : ℕ) : rest F (s.alignRx l a b skew) = rest F s := by
  simp only [State.alignRx, State.wrB_eq, rest_wr .lnk_ALIGN_ERR h.sub, State.rest_setLink h.sub, State.rest_laneUp h.sub,
    rest_ite, ite_self, eq_self]

theorem State.rest_restripeRx (h : F.may [.lnk, .detected, .out] [.lnk_DEGRADED, .lnk_LANES_UP, .lnk_LANE_LOSS, .lnk_PORT_UP,
    .lnk_REPLAYS, .lnk_RESTRIPES]) (l : Fin 10) (lanes : ℕ) (ack : Bool) : rest F (s.restripeRx l lanes ack) = rest F s := by
  simp only [State.restripeRx, State.rest_setLink h.sub, State.rest_sendRestripe h.sub, State.rest_restripe h.sub,
    State.rest_setLane h.sub, rest_ite, ite_self, eq_self]

theorem State.rest_laneRejoin (h : F.may [.que, .trg, .lnk, .tre, .out, .events]
    (areaRegs ++ [Fld.eth_EVQ_LOST, Fld.lnk_BACKOFF_NOW, Fld.lnk_DEGRADED, Fld.lnk_L0_STATE, Fld.lnk_L1_STATE,
    Fld.lnk_LANES_UP, Fld.lnk_PORT_UP])) (l : Fin 10) : rest F (s.laneRejoin l) = rest F s := by
  unfold State.laneRejoin
  split
  · split
    · simp only [State.wrBit_eq, rest_wr .lnk_DEGRADED h.sub, State.rest_laneUp h.sub, State.rest_setLink h.sub,
        State.rest_emit h.sub, eq_self]
    · rfl
  · rfl

theorem State.rest_portAbort (h : F.may [.tbs, .que, .lnk, .tre, .detected, .events]
    (lossRegs ++ trainRegs ++ areaRegs ++ [Fld.eth_EVQ_LOST, Fld.lnk_PORT_EN])) (m : ℕ) :
    rest F (s.portAbort m) = rest F s := by
  unfold State.portAbort
  refine rest_each (fun l x => ?_) _
  simp only [rest_wrSh .lnk_PORT_EN h.sub, rest_wr .lnk_PORT_EN h.sub, State.rest_setLink h.sub, State.rest_cutPkts h.sub,
    State.rest_lanesOff h.sub, State.rest_linkLost h.sub, State.rest_lnkRegs h.sub, rest_ite, ite_self, eq_self]

theorem State.rest_retrain (h : F.may [.tbs, .que, .lnk, .tre, .detected, .out, .events]
    (lossRegs ++ trainRegs ++ areaRegs ++ [Fld.eth_EVQ_LOST, Fld.lnk_BACKOFF_NOW, Fld.lnk_LANE_LOSS, Fld.lnk_REPLAYS,
    Fld.lnk_RESTRIPES, Fld.lnk_TRAIN_FAIL])) (l : Fin 10) (m : ℕ) : rest F (s.retrain l m) = rest F s := by
  simp only [State.retrain, State.rest_laneFail h.sub, rest_each, rest_ite, ite_self, eq_self, implies_true]

theorem State.rest_lnkSafeExit (h : F.may [.que, .trg, .lnk, .tre, .out]
    (areaRegs ++ [Fld.lnk_L0_STATE, Fld.lnk_L1_STATE, Fld.lnk_LANES_UP, Fld.lnk_PORT_UP])) :
    rest F s.lnkSafeExit = rest F s := by
  simp only [State.lnkSafeExit, State.rest_lnkRegs h.sub, State.rest_setLaneSt h.sub h.laneSt, State.rest_setLink h.sub,
    State.rest_treLinkUp h.sub, rest_each, rest_ite, ite_self, eq_self, implies_true]

theorem State.rest_lnkResume (h : F.may [.trg, .lnk, .out] []) : rest F s.lnkResume = rest F s := by
  simp only [State.lnkResume, State.rest_trigPump h.sub, rest_each, eq_self, implies_true]

/-! #### Aborts of the front end -/

theorem State.rest_feAbort (h : F.may [.pfe, .tdc, .seq, .evb, .accum, .cmp, .que, .cab, .eth, .events]
    (fabricRegs ++ [Fld.eth_DLY_DROP, Fld.eth_EVQ_LOST, Fld.eth_NEXT_PSN, Fld.eth_QP_PI, Fld.que_GRANT_WAIT,
    Fld.que_PATCH_CNT])) {r : Fin 16} (hr : F.mayAt r (engineRegs ++ [Fld.accr_ACC_FRAMES, Fld.accr_ACC_PARTIAL_CNT,
    Fld.accr_PARTIAL, Fld.pfer_FE_EN, Fld.tdcr_DROP_ABORT])) : rest F (s.feAbort r) = rest F s := by
  simp only [State.feAbort, State.wrB_eq, rest_wrAt .pfer_FE_EN hr.sub, State.rest_cutTransfer h.sub hr.sub,
    State.rest_dropWins h.sub hr.sub, State.rest_setPfeR h.sub hr.sub, eq_self]

theorem State.rest_tdcAbort (h : F.may [.tdc, .seq, .evb, .accum, .cmp, .que, .cab, .eth, .events]
    (fabricRegs ++ [Fld.eth_EVQ_LOST, Fld.que_GRANT_WAIT, Fld.que_PATCH_CNT])) {r : Fin 16}
    (hr : F.mayAt r (engineRegs ++ [Fld.tdcr_DROP_ABORT, Fld.tdcr_TDC_EN])) : rest F (s.tdcAbort r) = rest F s := by
  simp only [State.tdcAbort, State.wrB_eq, rest_wrAt .tdcr_TDC_EN hr.sub, State.rest_abortEvents h.sub hr.sub,
    State.rest_evbDrop h.sub hr.sub, State.rest_dropQueue h.sub hr.sub, State.rest_dropWins h.sub hr.sub,
    State.rest_setTdcR h.sub hr.sub, State.rest_headFlag h.sub, eq_self]

theorem State.rest_regionAbort (h : F.may [.pfe, .tdc, .seq, .evb, .hst, .accum, .cmp, .que, .cab, .trg, .eth, .events]
    (fabricRegs ++ feedRegs ++ [Fld.eth_DLY_DROP, Fld.eth_EVQ_LOST, Fld.eth_NEXT_PSN, Fld.eth_QP_PI, Fld.trg_TRG_FINAL]))
    {r : Fin 16} (hr : F.mayAt r (engineRegs ++ [Fld.accr_ACC_FRAMES, Fld.accr_ACC_PARTIAL_CNT, Fld.accr_PARTIAL,
    Fld.accr_SUB_IDX, Fld.pfer_FE_EN, Fld.pfer_INJ_EN, Fld.tdcr_DROP_ABORT, Fld.tdcr_TDC_EN])) :
    rest F (s.regionAbort r) = rest F s := by
  simp only [State.regionAbort, State.wrB_eq, rest_seq h.sub, rest_wrAt .pfer_INJ_EN hr.sub, rest_wrAt .pfer_FE_EN hr.sub,
    rest_wrAt .tdcr_TDC_EN hr.sub, State.rest_evbDrop h.sub hr.sub, State.rest_dropQueue h.sub hr.sub,
    State.rest_dropWins h.sub hr.sub, State.rest_cmpAbort h.sub hr.sub, State.rest_winAbort h.sub,
    State.rest_hstAbort h.sub hr.sub, State.rest_frameAbort h.sub hr.sub, State.rest_upRec h.sub,
    State.rest_setPfeR h.sub hr.sub, State.rest_setTdcR h.sub hr.sub, State.rest_headFlag h.sub, eq_self]

theorem State.rest_regionsAbort (h : F.may [.pfe, .tdc, .seq, .evb, .hst, .accum, .cmp, .que, .cab, .trg, .eth, .events]
    (fabricRegs ++ feedRegs ++ [Fld.eth_DLY_DROP, Fld.eth_EVQ_LOST, Fld.eth_NEXT_PSN, Fld.eth_QP_PI, Fld.trg_TRG_FINAL]))
    (hr : ∀ r, F.mayAt r (engineRegs ++ [Fld.accr_ACC_FRAMES, Fld.accr_ACC_PARTIAL_CNT, Fld.accr_PARTIAL, Fld.accr_SUB_IDX,
    Fld.pfer_FE_EN, Fld.pfer_INJ_EN, Fld.tdcr_DROP_ABORT, Fld.tdcr_TDC_EN])) (m : ℕ) :
    rest F (s.regionsAbort m) = rest F s := by
  simp only [State.regionsAbort, State.rest_regionAbort h.sub (hr _).sub, rest_each, eq_self, implies_true]

theorem State.rest_setPwr (h : F.may [.pwr] [.pmr_PWR_STATE]) (p : Pwr) : rest F (s.setPwr p) = rest F s := by
  simp only [State.setPwr, rest_pwr h.sub, rest_wr .pmr_PWR_STATE h.sub, eq_self]

theorem State.rest_standbyResume (h : F.may [.pfe, .tdc, .evb, .hst, .accum, .cmp] []) (hr : ∀ r, F.mayAt r []) :
    rest F s.standbyResume = rest F s := by
  simp only [State.standbyResume, rest_tdc h.sub, State.rest_setTdcR h.sub (hr _).sub, State.rest_setCmpR h.sub (hr _).sub,
    State.rest_setEvbR h.sub, State.rest_setAccR h.sub (hr _).sub, State.rest_setHstR h.sub (hr _).sub,
    State.rest_setPfeR h.sub (hr _).sub, rest_each, eq_self, implies_true]

/-! #### FLT -/

theorem State.rest_fltUpd (h : F.may [.flt] []) (f : Flt → Flt) : rest F (s.fltUpd f) = rest F s := by
  simp only [State.fltUpd, rest_flt h.sub, eq_self]

theorem State.rest_fltRegs (h : F.may [] [.flt_INJ_LVL_NOW, .flt_INJ_STATE, .flt_LEVEL, .flt_MAX_LEVEL, .flt_STATE]) :
    rest F s.fltRegs = rest F s := by
  simp only [State.fltRegs, rest_wr .flt_INJ_STATE h.sub, rest_wr .flt_INJ_LVL_NOW h.sub, rest_wr .flt_STATE h.sub,
    rest_wr .flt_LEVEL h.sub, rest_wr .flt_MAX_LEVEL h.sub, rest_each, eq_self, implies_true]

theorem State.rest_shadowExpiry (h : F.may [.flt] []) : rest F s.shadowExpiry = rest F s := by
  simp only [State.shadowExpiry, State.rest_fltUpd h.sub, eq_self]

theorem State.rest_ack1 (h : F.may [.flt, .events] [.eth_EVQ_LOST, .flt_INJ_LVL_NOW, .flt_INJ_STATE, .flt_LEVEL,
    .flt_MAX_LEVEL, .flt_STATE]) (inj : Bool) (c : ℕ) : rest F (s.ack1 inj c) = rest F s := by
  simp only [State.ack1, State.rest_fltRegs h.sub, State.rest_emit h.sub, State.rest_fltUpd h.sub, eq_self]

theorem State.rest_clr1 (h : F.may [.flt, .events] [.eth_EVQ_LOST, .flt_CLR_REFUSED, .flt_INJ_LVL_NOW, .flt_INJ_STATE,
    .flt_LEVEL, .flt_MAX_LEVEL, .flt_STATE]) (inj own : Bool) (c : ℕ) : rest F (s.clr1 inj own c) = rest F s := by
  simp only [State.clr1, State.wrB_eq, rest_wr .flt_CLR_REFUSED h.sub, State.rest_fltRegs h.sub, State.rest_emit h.sub,
    State.rest_fltUpd h.sub, rest_ite, ite_self, eq_self]

theorem State.rest_ackMask (h : F.may [.flt, .events] [.eth_EVQ_LOST, .flt_INJ_LVL_NOW, .flt_INJ_STATE, .flt_LEVEL,
    .flt_MAX_LEVEL, .flt_STATE]) (inj : Bool) (m : ℕ) : rest F (s.ackMask inj m) = rest F s := by
  simp only [State.ackMask, State.rest_ack1 h.sub, rest_each, eq_self, implies_true]

theorem State.rest_clrMask (h : F.may [.flt, .events] [.eth_EVQ_LOST, .flt_CLR_REFUSED, .flt_INJ_LVL_NOW, .flt_INJ_STATE,
    .flt_LEVEL, .flt_MAX_LEVEL, .flt_STATE]) (inj own : Bool) (m : ℕ) : rest F (s.clrMask inj own m) = rest F s := by
  simp only [State.clrMask, State.rest_clr1 h.sub, rest_each, eq_self, implies_true]

theorem State.rest_injGo (h : F.may [.flt, .detected] [.flt_CFG_ERR]) : rest F s.injGo = rest F s := by
  simp only [State.injGo, State.wrB_eq, rest_detected h.sub, rest_wr .flt_CFG_ERR h.sub, State.rest_fltUpd h.sub, rest_ite,
    ite_self, eq_self]

/-! #### ETH -/

theorem State.rest_ethUpd (h : F.may [.eth] []) (f : Eth → Eth) : rest F (s.ethUpd f) = rest F s := by
  simp only [State.ethUpd, rest_eth h.sub, eq_self]

theorem State.rest_sayArp (h : F.may [.out] []) (req : Bool) (ip dst : ℕ) : rest F (s.sayArp req ip dst) = rest F s := by
  simp only [State.sayArp, rest_out h.sub, eq_self]

theorem State.rest_sayDhcp (h : F.may [.out] []) (ty xid : ℕ) : rest F (s.sayDhcp ty xid) = rest F s := by
  simp only [State.sayDhcp, rest_out h.sub, eq_self]

theorem State.rest_sayIcmp (h : F.may [.out] []) (dst id : ℕ) : rest F (s.sayIcmp dst id) = rest F s := by
  simp only [State.sayIcmp, rest_out h.sub, eq_self]

theorem State.rest_sayGarp (h : F.may [.eth, .out] []) : rest F s.sayGarp = rest F s := by
  simp only [State.sayGarp, State.rest_sayArp h.sub, State.rest_ethUpd h.sub, rest_ite, ite_self, eq_self]

theorem State.rest_dropIp (h : F.may [.events] [.eth_ADDR_VALID, .eth_EVQ_LOST, .eth_IP_IN_USE]) :
    rest F s.dropIp = rest F s := by
  simp only [State.dropIp, State.wrB_eq, rest_wr .eth_ADDR_VALID h.sub, rest_wr .eth_IP_IN_USE h.sub, State.rest_emit h.sub,
    rest_ite, ite_self, eq_self]

theorem State.rest_dhcpNew (h : F.may [.eth, .free, .out] []) (st ty : ℕ) : rest F (s.dhcpNew st ty) = rest F s := by
  simp only [State.dhcpNew, State.rest_ethUpd h.sub, State.rest_fresh h.sub, State.rest_sayDhcp h.sub, rest_ite, ite_self,
    eq_self]

theorem State.rest_solicit (h : F.may [.eth, .free, .out] []) : rest F s.solicit = rest F s := by
  simp only [State.solicit, State.rest_dhcpNew h.sub, eq_self]

theorem State.rest_renew (h : F.may [.eth, .free, .out] []) (st : ℕ) : rest F (s.renew st) = rest F s := by
  simp only [State.renew, State.rest_dhcpNew h.sub, eq_self]

theorem State.rest_arpAsk (h : F.may [.eth, .out] []) (ip : ℕ) : rest F (s.arpAsk ip) = rest F s := by
  simp only [State.arpAsk, State.rest_ethUpd h.sub, State.rest_sayArp h.sub, rest_ite, ite_self, eq_self]

theorem State.rest_qpUnresolved (h : F.may [.eth, .events] [.eth_EVQ_LOST]) (q : Fin 8) :
    rest F (s.qpUnresolved q) = rest F s := by
  simp only [State.qpUnresolved, State.rest_setQp h.sub, State.rest_emit h.sub, rest_when, eq_self, implies_true]

theorem State.rest_qpResolve (h : F.may [.eth, .out, .events] [.eth_EVQ_LOST, .eth_QP_STATE]) (q : Fin 8) :
    rest F (s.qpResolve q) = rest F s := by
  simp only [State.qpResolve, rest_wr .eth_QP_STATE h.sub, State.rest_qpUnresolved h.sub, State.rest_arpAsk h.sub, rest_ite,
    ite_self, eq_self]

theorem State.rest_resolveAll (h : F.may [.eth, .out, .events] [.eth_EVQ_LOST, .eth_QP_STATE]) :
    rest F s.resolveAll = rest F s := by
  simp only [State.resolveAll, State.rest_qpResolve h.sub, rest_each, eq_self, implies_true]

theorem State.rest_resolveRetry (h : F.may [.eth, .out, .events] [.eth_EVQ_LOST, .eth_QP_STATE]) (q : Fin 8) :
    rest F (s.resolveRetry q) = rest F s := by
  unfold State.resolveRetry
  dsimp only
  split
  · simp only [State.rest_qpResolve h.sub, State.rest_setQp h.sub, rest_ite, ite_self, eq_self]
  · rfl

theorem State.rest_arpReply (h : F.may [.eth, .out, .events] [.eth_EVQ_LOST, .eth_QP_STATE]) (ip mac : ℕ) :
    rest F (s.arpReply ip mac) = rest F s := by
  simp only [State.arpReply, State.rest_ethUpd h.sub, State.rest_resolveAll h.sub, rest_ite, ite_self, eq_self]

theorem State.rest_arpRx (h : F.may [.eth, .out, .events] [.eth_EVQ_LOST, .eth_QP_STATE]) (req : Bool) (sip smac tip : ℕ) :
    rest F (s.arpRx req sip smac tip) = rest F s := by
  simp only [State.arpRx, State.rest_sayArp h.sub, State.rest_arpReply h.sub, rest_ite, ite_self, eq_self]

theorem State.rest_arpTimeout (h : F.may [.eth, .out, .events] [.eth_EVQ_LOST]) (ip : ℕ) :
    rest F (s.arpTimeout ip) = rest F s := by
  unfold State.arpTimeout
  split
  · rfl
  · simp only [State.rest_ethUpd h.sub, State.rest_sayArp h.sub, State.rest_qpUnresolved h.sub, rest_each, rest_ite, ite_self,
      eq_self, implies_true]

theorem State.rest_arpRefresh (h : F.may [.eth, .out] []) (ip : ℕ) : rest F (s.arpRefresh ip) = rest F s := by
  unfold State.arpRefresh
  split
  · simp only [State.rest_arpAsk h.sub, rest_ite, ite_self, eq_self]
  · rfl

theorem State.rest_takeIp (h : F.may [.eth, .out, .events] [.eth_ADDR_VALID, .eth_EVQ_LOST, .eth_IP_IN_USE, .eth_QP_STATE])
    (ip mask gw : ℕ) : rest F (s.takeIp ip mask gw) = rest F s := by
  simp only [State.takeIp, State.wrB_eq, rest_wr .eth_ADDR_VALID h.sub, rest_wr .eth_IP_IN_USE h.sub, State.rest_emit h.sub,
    State.rest_ethUpd h.sub, State.rest_resolveAll h.sub, State.rest_sayGarp h.sub, eq_self]

theorem State.rest_dhcpRx (h : F.may [.eth, .free, .out, .events] [.eth_ADDR_VALID, .eth_EVQ_LOST, .eth_IP_IN_USE,
    .eth_QP_STATE]) (m : DhcpMsg) : rest F (s.dhcpRx m) = rest F s := by
  simp only [State.dhcpRx, State.rest_ethUpd h.sub, State.rest_sayDhcp h.sub, State.rest_takeIp h.sub, State.rest_dropIp h.sub,
    State.rest_solicit h.sub, rest_ite, ite_self, eq_self]

theorem State.rest_icmpRx (h : F.may [.eth, .out] [.eth_ICMP_LIMITED]) (src id : ℕ) : rest F (s.icmpRx src id) = rest F s := by
  simp only [State.icmpRx, State.bump_eq, rest_wr .eth_ICMP_LIMITED h.sub, State.rest_ethUpd h.sub, State.rest_sayIcmp h.sub,
    rest_ite, ite_self, eq_self]

theorem State.rest_thbQueue (h : F.may [.eth] [.ctl_THB_OVF]) (ip port : ℕ) : rest F (s.thbQueue ip port) = rest F s := by
  simp only [State.thbQueue, State.bump_eq, rest_wr .ctl_THB_OVF h.sub, State.rest_ethUpd h.sub, rest_ite, ite_self, eq_self]

theorem State.rest_ethFrameRx (h : F.may [.eth] [.ctl_THB_OVF, .eth_INBOUND_REQ, .eth_RX_DISC_FCS, .eth_RX_DISC_IP,
    .eth_RX_DISC_LEN, .eth_RX_DISC_PORT, .eth_RX_DISC_TYPE, .eth_RX_DISC_VLAN]) (f : EthFrame) :
    rest F (s.ethFrameRx f) = rest F s := by
  have hb {f : Fld} (hf : F.may [] [f]) : rest F (s.bump f 0) = rest F s := by rw [State.bump_eq, rest_wr f hf]
  have hport : rest F (s.bump .eth_RX_DISC_PORT 0) = rest F s := hb h.sub
  have hip : rest F (s.bump .eth_RX_DISC_IP 0) = rest F s := hb h.sub
  have htype : rest F (s.bump .eth_RX_DISC_TYPE 0) = rest F s := hb h.sub
  unfold State.ethFrameRx
  refine rest_ite_eq (hb h.sub) (rest_ite_eq (hb h.sub) (rest_ite_eq (hb h.sub) ?_))
  cases f.body with
  | other => exact htype
  | ptp => exact rest_ite_eq rfl htype
  | arp => exact rest_ite_eq rfl hport
  | ip =>
    refine rest_ite_eq hip (rest_ite_eq (rest_ite_eq rfl hport) (rest_ite_eq (rest_ite_eq rfl hport) (rest_ite_eq hip
      (rest_ite_eq (rest_ite_eq rfl hport) (rest_ite_eq hport (rest_ite_eq (State.rest_thbQueue h.sub _ _)
        (rest_ite_eq ?_ hport)))))))
    split
    · exact hport
    · exact rest_ite_eq rfl (hb h.sub)

theorem State.rest_pfcRx (h : F.may [.eth] [.eth_PAUSED, .eth_RX_DISC_TYPE]) (en : ℕ) (quanta : Vector (BitVec 16) 8) :
    rest F (s.pfcRx en quanta) = rest F s := by
  simp only [State.pfcRx, State.wrB_eq, State.bump_eq, rest_wr .eth_RX_DISC_TYPE h.sub, rest_wr .eth_PAUSED h.sub,
    State.rest_ethUpd h.sub, rest_ite, ite_self, eq_self]

theorem State.rest_pfcEnd (h : F.may [.eth] [.eth_PAUSED]) : rest F s.pfcEnd = rest F s := by
  unfold State.pfcEnd
  split
  · simp only [State.wrB_eq, rest_wr .eth_PAUSED h.sub, State.rest_ethUpd h.sub, rest_ite, ite_self, eq_self]
  · rfl

theorem State.rest_viaQc4 (h : F.may [.evb, .que, .cab, .eth, .events] (fabricRegs ++ [Fld.eth_EVQ_LOST])) {r : PktRef}
    {b : List ℕ} {u : State} (he : s.viaQc4 r b = some u) : rest F u = rest F s := by
  unfold State.viaQc4 at he
  obtain ⟨⟨v12, b12⟩, hv12, he⟩ := Option.map_eq_some_iff.1 he
  cases he
  simp only [State.rest_putItem h.sub hv12, State.rest_sweep h.sub, eq_self]

theorem State.rest_reread (h : F.may [.evb, .que, .cab, .edc, .eth, .detected, .events]
    (storeRegs ++ fabricRegs ++ [Fld.eth_EVQ_LOST])) {e : REnt} {i : PktId} {p : RPkt} {u : State} {a : RPkt}
    (he : s.reread e i p = some (u, a)) : rest F u = rest F s := by
  unfold State.reread at he
  split at he
  · cases he
    rfl
  · split at he
    · next hx11 =>
      obtain ⟨v10, hv10, he⟩ := Option.map_eq_some_iff.1 he
      cases he
      simp only [State.rest_viaQc4 h.sub hv10, rest_fst hx11, State.rest_deliverPkt h.sub, eq_self]

theorem State.rest_rereadAll (h : F.may [.evb, .que, .cab, .edc, .eth, .detected, .events]
    (storeRegs ++ fabricRegs ++ [Fld.eth_EVQ_LOST])) {p : RPkt} {l : List (REnt × PktId)} {u : State} {a : RPkt}
    (he : s.rereadAll p l = some (u, a)) : rest F u = rest F s := by
  induction l generalizing s p with
  | nil => cases he; rfl
  | cons e l ih =>
    unfold State.rereadAll at he
    obtain ⟨⟨v, b⟩, hv, he⟩ := Option.bind_eq_some_iff.1 he
    exact (ih he).trans (State.rest_reread h.sub hv)

theorem State.rest_putRoce (h : F.may [.eth, .out] [.eth_QP_STATE]) (q : Fin 8) (p : RPkt) :
    rest F (s.putRoce q p) = rest F s := by
  simp only [State.putRoce, rest_out h.sub, rest_wr .eth_QP_STATE h.sub, State.rest_setQp h.sub, State.rest_ethUpd h.sub,
    eq_self]

theorem State.rest_sendPkt1 (h : F.may [.evb, .que, .cab, .edc, .eth, .detected, .out, .events]
    (storeRegs ++ fabricRegs ++ [Fld.eth_EVQ_LOST, Fld.eth_QP_STATE])) {q : Fin 8} {u : State} {a : RPkt}
    (he : s.sendPkt1 q = some (u, a)) : rest F u = rest F s := by
  unfold State.sendPkt1 at he
  obtain ⟨v12, hv12, he⟩ := Option.bind_eq_some_iff.1 he
  split at he
  · obtain ⟨⟨v10, b10⟩, hv10, he⟩ := Option.map_eq_some_iff.1 he
    cases he
    simp only [State.rest_rereadAll h.sub hv10, State.rest_putRoce h.sub, eq_self]
  · cases he

theorem State.rest_setBehind (h : F.may [.eth] []) (q : Fin 8) (l : List PktId) : rest F (s.setBehind q l) = rest F s := by
  simp only [State.setBehind, State.rest_setQp h.sub, eq_self]

theorem State.rest_draftGap (h : F.may [.eth] [.eth_QP_PI]) {q : Fin 8} {d : Draft} {b : List ℕ} {x : List PktId} {u : State}
    {a : Draft} (he : s.draftGap q d b x = some (u, a)) : rest F u = rest F s := by
  unfold State.draftGap at he
  split at he
  · cases he
  · split at he
    · next hx11 =>
      cases he
    · next hx11 =>
      cases he
      simp only [State.rest_addEntry h.sub hx11, State.rest_setBehind h.sub, eq_self]

theorem State.rest_draftOld (h : F.may [.evb, .que, .cab, .edc, .eth, .detected, .events]
    (storeRegs ++ fabricRegs ++ [Fld.eth_EVQ_LOST, Fld.eth_QP_PI])) {q : Fin 8} {d : Draft} {r : PktRef} {x : List PktId}
    {u : State} {a : Draft} (he : s.draftOld q d r x = some (u, a)) : rest F u = rest F s := by
  unfold State.draftOld at he
  split at he
  · next hx12 =>
    dsimp only at he
    split at he
    · cases he
    · obtain ⟨v9, hv9, he⟩ := Option.bind_eq_some_iff.1 he
      obtain ⟨⟨v8, b8⟩, hv8, he⟩ := Option.map_eq_some_iff.1 he
      cases he
      simp only [State.rest_addEntry h.sub hv8, State.rest_viaQc4 h.sub hv9, rest_fst hx12, State.rest_deliverPkt h.sub,
        State.rest_setBehind h.sub, eq_self]

theorem State.rest_draftNew (h : F.may [.que, .eth] (areaRegs ++ [Fld.eth_QP_PI])) {q : Fin 8} {d : Draft} {x : QItem}
    {u : State} {a : Draft} (he : s.draftNew q d x = some (u, a)) : rest F u = rest F s := by
  unfold State.draftNew at he
  split at he
  · cases he
  · split at he
    · next hx11 =>
      cases he
    · next hx11 =>
      cases he
      simp only [State.rest_addEntry h.sub hx11, State.rest_tookEth h.sub, eq_self]

theorem State.rest_draftData (h : F.may [.evb, .que, .cab, .edc, .eth, .detected, .events]
    (storeRegs ++ fabricRegs ++ [Fld.eth_EVQ_LOST, Fld.eth_QP_PI])) {q : Fin 8} {d : Draft} {u : State} {a : Draft}
    (he : s.draftData q d = some (u, a)) : rest F u = rest F s := by
  unfold State.draftData at he
  split at he
  · split at he
    · split at he
      · cases he
      · exact State.rest_draftGap h.sub he
    · exact State.rest_draftOld h.sub he
  · split at he
    · cases he
    · exact State.rest_draftNew h.sub he

theorem State.rest_draftN (h : F.may [.evb, .que, .cab, .edc, .eth, .detected, .events]
    (storeRegs ++ fabricRegs ++ [Fld.eth_EVQ_LOST, Fld.eth_QP_PI])) (q : Fin 8) (d : Draft) (n : ℕ) :
    rest F (s.draftN q d n).1 = rest F s := by
  induction n generalizing s d with
  | zero => rfl
  | succ n ih =>
    unfold State.draftN
    split
    · rfl
    next he =>
      have ht := State.rest_draftData h.sub he
      split
      · exact ht
      · exact (ih _).trans ht

theorem State.rest_holdEth (h : F.may [.que, .eth, .events] (areaRegs ++
    [Fld.eth_EVQ_LOST, Fld.eth_QP_HELD, Fld.que_HELD_CNT])) (x : QItem) : rest F (s.holdEth x) = rest F s := by
  simp only [State.holdEth, State.bump_eq, rest_wr .que_HELD_CNT h.sub, State.rest_sweep h.sub, State.rest_ethRelease h.sub,
    State.rest_setItem h.sub, eq_self]

theorem State.rest_ringOvf (h : F.may [.que, .eth, .events] (areaRegs ++
    [Fld.eth_EVQ_LOST, Fld.eth_QP_HELD, Fld.que_HELD_CNT])) (q : Fin 8) : rest F (s.ringOvf q) = rest F s := by
  unfold State.ringOvf
  split
  · simp only [State.rest_holdEth h.sub, rest_each, rest_ite, ite_self, eq_self, implies_true]
  · rfl

theorem State.rest_formData (h : F.may [.evb, .que, .cab, .edc, .eth, .detected, .events]
    (storeRegs ++ fabricRegs ++ [Fld.eth_EVQ_LOST, Fld.eth_NEXT_PSN, Fld.eth_QP_PI, Fld.eth_QP_STATE])) (q : Fin 8) :
    rest F (s.formData q) = rest F s := by
  unfold State.formData
  split
  · rfl
  · simp only [rest_wr .eth_QP_STATE h.sub, State.rest_addPad h.sub, State.rest_queueDraft h.sub, State.rest_draftN h.sub,
      State.rest_holdEth h.sub, rest_each, rest_ite, ite_self, eq_self, implies_true]

theorem State.rest_formEvents (h : F.may [.eth] [.eth_NEXT_PSN, .eth_QP_PI, .eth_QP_STATE]) (q : Fin 8) :
    rest F (s.formEvents q) = rest F s := by
  simp only [State.formEvents, rest_wr .eth_QP_STATE h.sub, State.rest_produce h.sub, State.rest_queueDraft h.sub,
    State.rest_setQp h.sub, rest_ite, ite_self, eq_self]

theorem State.rest_turnWait (h : F.may [] [.eth_QP_STATE]) (q : Fin 8) : rest F (s.turnWait q) = rest F s := by
  simp only [State.turnWait, rest_wr .eth_QP_STATE h.sub, rest_when, eq_self, implies_true]

theorem State.rest_formTx (h : F.may [.evb, .que, .cab, .edc, .eth, .detected, .events]
    (storeRegs ++ fabricRegs ++ [Fld.eth_EVQ_LOST, Fld.eth_NEXT_PSN, Fld.eth_QP_PI, Fld.eth_QP_STATE])) (q : Fin 8) :
    rest F (s.formTx q) = rest F s := by
  unfold State.formTx
  split
  · rfl
  · split
    · simp only [State.rest_formData h.sub, eq_self]
    · simp only [State.rest_formEvents h.sub, rest_ite, ite_self, eq_self]
    · rfl

theorem State.rest_turnTx (h : F.may [.evb, .que, .cab, .edc, .eth, .detected, .out, .events]
    (storeRegs ++ fabricRegs ++ [Fld.eth_EVQ_LOST, Fld.eth_NEXT_PSN, Fld.eth_QP_PI, Fld.eth_QP_STATE])) (q : Fin 8) :
    rest F (s.turnTx q).1 = rest F s := by
  have hs : rest F (if (s.qp q).sent < (s.qp q).pkts.length then s else s.formTx q) = rest F s := by
    split
    · rfl
    · exact State.rest_formTx h.sub _
  unfold State.turnTx
  dsimp only
  generalize (if (s.qp q).sent < (s.qp q).pkts.length then s else s.formTx q) = t at hs ⊢
  split
  next he => exact (State.rest_sendPkt1 h.sub he).trans hs
  · exact hs

theorem State.rest_portTx (h : F.may [.evb, .que, .cab, .edc, .eth, .detected, .out, .events]
    (storeRegs ++ fabricRegs ++ [Fld.eth_EVQ_LOST, Fld.eth_NEXT_PSN, Fld.eth_QP_PI, Fld.eth_QP_STATE])) (q : Fin 8)
    (l : List (Fin 8)) (n : ℕ) : rest F (s.portTx q l n) = rest F s := by
  induction n generalizing s q l with
  | zero => rfl
  | succ n ih =>
    unfold State.portTx
    split
    · rfl
    next p _ =>
      have hp := State.rest_turnTx (s := s) h.sub p
      split
      next he =>
        have ht : rest F _ = rest F s := (rest_fst he).trans hp
        split
        · exact ht
        · exact (ih _ _).trans ht
      next he =>
        have ht : rest F _ = rest F s := (rest_fst he).trans hp
        split
        · exact ht
        · exact (ih _ _).trans ht

theorem State.rest_messageTx (h : F.may [.evb, .que, .cab, .edc, .eth, .detected, .out, .events]
    (storeRegs ++ fabricRegs ++ [Fld.eth_EVQ_LOST, Fld.eth_NEXT_PSN, Fld.eth_QP_PI, Fld.eth_QP_STATE])) (q : Fin 8) :
    rest F (s.messageTx q) = rest F s := by
  simp only [State.messageTx, State.rest_ringOvf h.sub, State.rest_portTx h.sub, State.rest_turnWait h.sub, rest_ite, ite_self,
    eq_self]

theorem State.rest_qpDrained (h : F.may [.eth] [.eth_ETH_FINAL, .eth_QP_FINAL, .eth_QP_STATE]) (q : Fin 8) :
    rest F (s.qpDrained q) = rest F s := by
  unfold State.qpDrained
  dsimp only
  split
  · split <;> simp only [State.wrB_eq, State.wrBit_eq, rest_wr .eth_QP_FINAL h.sub, rest_wr .eth_QP_STATE h.sub,
      rest_wr .eth_ETH_FINAL h.sub, State.rest_setQp h.sub, eq_self]
  · simp only [State.wrB_eq, rest_wr .eth_ETH_FINAL h.sub, rest_ite, ite_self, eq_self]

theorem State.rest_ackRx (h : F.may [.eth, .events] [.eth_ETH_FINAL, .eth_EVQ_LOST, .eth_QP_FINAL, .eth_QP_STATE]) (q : Fin 8)
    (psn : ℕ) : rest F (s.ackRx q psn) = rest F s := by
  unfold State.ackRx
  dsimp only
  split
  · rfl
  · simp only [rest_evLost h.sub, rest_evq h.sub, rest_wr .eth_QP_STATE h.sub, State.rest_setQp h.sub, State.rest_emit h.sub,
      State.rest_qpDrained h.sub, rest_when, rest_ite, ite_self, eq_self, implies_true]

theorem State.rest_goBack (h : F.may [.eth] [.eth_DLY_LOST, .eth_QP_STATE, .eth_RETRANS]) (q : Fin 8) :
    rest F (s.goBack q) = rest F s := by
  simp only [State.goBack, State.bump_eq, rest_wr .eth_DLY_LOST h.sub, rest_wr .eth_QP_STATE h.sub, rest_wr .eth_RETRANS h.sub,
    State.rest_setQp h.sub, rest_when, eq_self, implies_true]

theorem State.rest_qpRelease (h : F.may [.que, .eth, .events] (areaRegs ++
    [Fld.eth_EVQ_LOST, Fld.eth_QP_HELD, Fld.que_HELD_CNT])) (q : Fin 8) : rest F (s.qpRelease q) = rest F s := by
  simp only [State.qpRelease, State.bump_eq, rest_wr .que_HELD_CNT h.sub, rest_wr .eth_QP_HELD h.sub, State.rest_setQp h.sub,
    State.rest_setItem h.sub, State.rest_sweep h.sub, State.rest_emit h.sub, rest_each, eq_self, implies_true]

theorem State.rest_qpFail (h : F.may [.que, .eth, .events] (areaRegs ++
    [Fld.eth_ETH_FINAL, Fld.eth_EVQ_LOST, Fld.eth_QP_FINAL, Fld.eth_QP_HELD, Fld.eth_QP_STATE, Fld.que_HELD_CNT])) (q : Fin 8)
    : rest F (s.qpFail q) = rest F s := by
  simp only [State.qpFail, rest_wr .eth_QP_STATE h.sub, State.rest_qpDrained h.sub, State.rest_qpRelease h.sub,
    State.rest_emit h.sub, eq_self]

theorem State.rest_qpAgain (h : F.may [.que, .eth, .events] (areaRegs ++
    [Fld.eth_DLY_LOST, Fld.eth_ETH_FINAL, Fld.eth_EVQ_LOST, Fld.eth_QP_FINAL, Fld.eth_QP_HELD, Fld.eth_QP_STATE,
    Fld.eth_RETRANS, Fld.que_HELD_CNT])) (q : Fin 8) : rest F (s.qpAgain q) = rest F s := by
  simp only [State.qpAgain, State.rest_setQp h.sub, State.rest_qpFail h.sub, State.rest_goBack h.sub, rest_ite, ite_self,
    eq_self]

theorem State.rest_roceNak (h : F.may [.que, .eth, .events] (areaRegs ++
    [Fld.eth_DLY_LOST, Fld.eth_ETH_FINAL, Fld.eth_EVQ_LOST, Fld.eth_QP_FINAL, Fld.eth_QP_HELD, Fld.eth_QP_STATE,
    Fld.eth_RETRANS, Fld.eth_RNR_CNT, Fld.que_HELD_CNT])) (q : Fin 8) (psn : ℕ) (k : NakKind) :
    rest F (s.roceNak q psn k) = rest F s := by
  unfold State.roceNak
  dsimp only
  split
  · rfl
  · split
    · simp only [State.rest_qpAgain h.sub]
      split
      · simp only [State.rest_ackRx h.sub, rest_ite, ite_self, eq_self]
      · rfl
    · simp only [State.bump_eq, rest_wr .eth_RNR_CNT h.sub, State.rest_goBack h.sub, State.rest_setQp h.sub]
      split
      · simp only [State.rest_ackRx h.sub, rest_ite, ite_self, eq_self]
      · rfl
    · simp only [State.rest_qpFail h.sub]
      split
      · simp only [State.rest_ackRx h.sub, rest_ite, ite_self, eq_self]
      · rfl
    · simp only [State.rest_qpFail h.sub]
      split
      · simp only [State.rest_ackRx h.sub, rest_ite, ite_self, eq_self]
      · rfl

theorem State.rest_ackTmo (h : F.may [.que, .eth, .events] (areaRegs ++
    [Fld.eth_DLY_LOST, Fld.eth_ETH_FINAL, Fld.eth_EVQ_LOST, Fld.eth_QP_FINAL, Fld.eth_QP_HELD, Fld.eth_QP_STATE,
    Fld.eth_RETRANS, Fld.eth_TIMEOUTS, Fld.que_HELD_CNT])) (q : Fin 8) : rest F (s.ackTmo q) = rest F s := by
  simp only [State.ackTmo, State.bump_eq, rest_wr .eth_TIMEOUTS h.sub, State.rest_qpAgain h.sub, rest_ite, ite_self, eq_self]

theorem State.rest_rnrEnd (h : F.may [.evb, .que, .cab, .edc, .eth, .detected, .out, .events]
    (storeRegs ++ fabricRegs ++ [Fld.eth_EVQ_LOST, Fld.eth_NEXT_PSN, Fld.eth_QP_PI, Fld.eth_QP_STATE])) (q : Fin 8) :
    rest F (s.rnrEnd q) = rest F s := by
  unfold State.rnrEnd
  split
  · simp only [State.rest_messageTx h.sub, State.rest_setQp h.sub, rest_ite, ite_self, eq_self]
  · rfl

theorem State.rest_cnpRx (h : F.may [.eth] [.eth_CNP_RX, .eth_RATE]) (q : Fin 8) : rest F (s.cnpRx q) = rest F s := by
  unfold State.cnpRx
  dsimp only
  split
  · simp only [State.bump_eq, rest_wr .eth_CNP_RX h.sub, eq_self]
  · split
    · split <;> simp only [State.bump_eq, rest_wr .eth_CNP_RX h.sub, rest_wr .eth_RATE h.sub, State.rest_setQp h.sub, eq_self]
    · simp only [State.bump_eq, rest_wr .eth_CNP_RX h.sub, rest_wr .eth_RATE h.sub, State.rest_setQp h.sub, rest_ite, ite_self,
        eq_self]

theorem State.rest_rateUp (h : F.may [.eth] [.eth_RATE]) (q : Fin 8) : rest F (s.rateUp q) = rest F s := by
  simp only [State.rateUp, rest_wr .eth_RATE h.sub, State.rest_setQp h.sub, rest_ite, ite_self, eq_self]

theorem State.rest_ciWrite (h : F.may [] [.eth_CFG_ERR, .eth_QP_CI, .eth_QP_STATE]) (q : Fin 8) (v : ℕ) :
    rest F (s.ciWrite q v) = rest F s := by
  simp only [State.ciWrite, State.wrB_eq, rest_wr .eth_CFG_ERR h.sub, rest_wr .eth_QP_CI h.sub, rest_wr .eth_QP_STATE h.sub,
    rest_ite, ite_self, eq_self]

theorem State.rest_qpAbort (h : F.may [.que, .eth, .events] (areaRegs ++
    [Fld.eth_ETH_FINAL, Fld.eth_EVQ_LOST, Fld.eth_QP_EN, Fld.eth_QP_FINAL, Fld.eth_QP_HELD, Fld.eth_QP_STATE,
    Fld.que_HELD_CNT])) (m : ℕ) : rest F (s.qpAbort m) = rest F s := by
  simp only [State.qpAbort, State.wrB_eq, rest_wr .eth_QP_EN h.sub, rest_wr .eth_QP_STATE h.sub, State.rest_qpDrained h.sub,
    State.rest_setQp h.sub, State.rest_qpRelease h.sub, rest_each, eq_self, implies_true]

theorem State.rest_linkUpEth (h : F.may [.eth, .free, .out, .events] [.eth_DLY_LOST, .eth_EVQ_LOST, .eth_LINK_UP,
    .eth_QP_STATE, .eth_RETRANS]) : rest F s.linkUpEth = rest F s := by
  unfold State.linkUpEth
  dsimp only
  rw [State.rest_resolveAll h.sub, State.rest_sayGarp h.sub, rest_ite, State.rest_solicit h.sub, ite_self, rest_each,
    State.wrB_eq,
    rest_wr .eth_LINK_UP h.sub]
  intro q x
  split
  · exact State.rest_goBack h.sub _
  · rfl

/-! #### PMR -/

theorem State.rest_pmrUpd (h : F.may [.pmr] []) (f : Pmr → Pmr) : rest F (s.pmrUpd f) = rest F s := by
  simp only [State.pmrUpd, rest_pmr h.sub, eq_self]

theorem State.rest_setSlotFw (h : F.may [.flash] []) (b : Bool) (x : FwSlot) : rest F (s.setSlotFw b x) = rest F s := by
  simp only [State.setSlotFw, State.rest_flashUpd h.sub, eq_self]

theorem State.rest_loadCore (h : F.may [.pmr] []) (n : ℕ) : rest F (s.loadCore n) = rest F s := by
  simp only [State.loadCore, State.rest_pmrUpd h.sub, eq_self]

theorem State.rest_countStart (h : F.may [.pmr, .flash] []) : rest F s.countStart = rest F s := by
  simp only [State.countStart, State.rest_pmrUpd h.sub, State.rest_bootRec h.sub, rest_ite, ite_self, eq_self]

theorem State.rest_startUp (h : F.may [.pmr, .held, .pwr] [.pmr_BOOT_FALLBACK, .pmr_PWR_STATE, .pmr_RESET_CAUSE]) (warm : Bool)
    : rest F (s.startUp warm) = rest F s := by
  simp only [State.startUp, State.wrB_eq, rest_held h.sub, rest_wr .pmr_BOOT_FALLBACK h.sub, rest_wr .pmr_RESET_CAUSE h.sub,
    State.rest_pmrUpd h.sub, State.rest_setPwr h.sub, eq_self]

theorem State.rest_tryStart (h : F.may [.pmr, .held, .pwr] [.pmr_BOOT_FALLBACK, .pmr_PWR_STATE, .pmr_RESET_CAUSE]) :
    rest F s.tryStart = rest F s := by
  simp only [State.tryStart, State.rest_startUp h.sub, rest_ite, ite_self, eq_self]

theorem State.rest_readyReached (h : F.may [.pmr, .flash, .lnk, .tre, .detected, .events]
    (treeRegs ++ featRegs ++ roleRegs ++ [Fld.cab_CFG_ERR, Fld.cab_REPAIR_BUSY, Fld.eth_EVQ_LOST])) :
    rest F s.readyReached = rest F s := by
  unfold State.readyReached
  dsimp only
  split <;> simp only [State.rest_pmrUpd h.sub, State.rest_emit h.sub, State.rest_bootRec h.sub, State.rest_treReady h.sub,
    State.rest_repairRun h.sub, rest_ite, ite_self, eq_self]

theorem State.rest_blkRegs (h : F.may [.ctl, .staged] []) {b : ℕ} (hb : b ≠ 4)
    (hk : ∀ f i, keyOfBlk b (blkKeys b) (f.key i) = true → F.fld f i) : rest F (s.blkRegs b) = rest F s := by
  unfold State.blkRegs
  extract_lets fs out st own k c
  unfold State.when
  rw [if_neg (by simpa using hb)]
  refine (rest_ctl (s := { s with reg := out s.reg, force := out s.force, shadow := out s.shadow, staged := st })
    h.sub c).trans ?_
  refine (rest_staged (s := { s with reg := out s.reg, force := out s.force, shadow := out s.shadow }) h.sub st).trans ?_
  refine rest_filter (fun f i v n => ?_) rfl (.inl rfl) (.inl rfl) (fun x => samePart_refl s x) fun _ =>
    ⟨rfl, rfl, rfl, rfl, rfl⟩
  simpa using fun e => n (hk f i e)

theorem State.rest_setMember (h : F.may [] [.flt_MEM_A, .flt_MEM_B, .flt_MEM_C]) (m v : ℕ) :
    rest F (s.setMember m v) = rest F s := by
  unfold State.setMember
  unfold memField
  split
  · exact rest_wr .flt_MEM_A h.sub _ _
  · split
    · exact rest_wr .flt_MEM_B h.sub _ _
    · exact rest_wr .flt_MEM_C h.sub _ _

theorem State.rest_setProg (h : F.may [.pmr] []) (m : Fin 3) (n : ℕ) : rest F (s.setProg m n) = rest F s := by
  simp only [State.setProg, State.rest_pmrUpd h.sub, eq_self]

theorem State.rest_resyncDone (h : F.may [.pmr] [.flt_MEM_A, .flt_MEM_B, .flt_MEM_C]) (m : Fin 3) :
    rest F (s.resyncDone m) = rest F s := by
  simp only [State.resyncDone, State.rest_setMember h.sub, State.rest_setProg h.sub, rest_ite, ite_self, eq_self]

theorem State.rest_coreRestart (h : F.may [.pmr, .flt, .events] [.eth_EVQ_LOST, .flt_CORE_RESTARTED, .flt_MEM_A, .flt_MEM_B,
    .flt_MEM_C]) : rest F s.coreRestart = rest F s := by
  simp only [State.coreRestart, State.wrB_eq, rest_wr .flt_CORE_RESTARTED h.sub, State.rest_loadCore h.sub,
    State.rest_fltUpd h.sub, State.rest_setMember h.sub, State.rest_emit h.sub, rest_ite, ite_self, eq_self]

theorem State.rest_fwActivate (h : F.may [.flash] [.pmr_CFG_ERR]) (own : Bool) : rest F (s.fwActivate own) = rest F s := by
  simp only [State.fwActivate, State.wrB_eq, rest_wr .pmr_CFG_ERR h.sub, State.rest_bootRec h.sub, rest_ite, ite_self, eq_self]

theorem State.rest_fwConfirm (h : F.may [.flash] [.pmr_CFG_ERR, .pmr_TRIAL]) (own : Bool) :
    rest F (s.fwConfirm own) = rest F s := by
  simp only [State.fwConfirm, State.wrB_eq, rest_wr .pmr_TRIAL h.sub, rest_wr .pmr_CFG_ERR h.sub, State.rest_bootRec h.sub,
    rest_ite, ite_self, eq_self]

theorem State.rest_railRetry (h : F.may [.pmr, .flt, .ctl, .detected, .staged] [])
    (hk : ∀ f i, keyOfBlk Blk.flt.idx (blkKeys Blk.flt.idx) (f.key i) = true → F.fld f i) : rest F s.railRetry = rest F s := by
  unfold State.railRetry
  split
  · extract_lets a t
    have ht : rest F t = rest F s := (State.rest_pmrUpd h.sub _).trans (State.rest_blkRegs h.sub (by decide) hk)
    exact (rest_detected (s := { t with flt := {} }) h.sub _).trans ((rest_flt h.sub _).trans ht)
  · rfl

/-! #### What waits for the modules below -/

theorem State.rest_ctlUpd (h : F.may [.ctl] []) (f : Ctl → Ctl) : rest F (s.ctlUpd f) = rest F s := by
  simp only [State.ctlUpd, rest_ctl h.sub, eq_self]

theorem State.rest_setSession (h : F.may [.ctl] []) (n : Fin 8) (x : Option Sess) : rest F (s.setSession n x) = rest F s := by
  simp only [State.setSession, State.rest_ctlUpd h.sub, eq_self]

theorem State.rest_thbSay (h : F.may [.ctl, .out] []) (n : Fin 8) (key ip port : ℕ) (local_ : Bool) (seq : ℕ) (l : List OpRep)
    : rest F (s.thbSay n key ip port local_ seq l) = rest F s := by
  unfold State.thbSay
  split
  · simp only [rest_out h.sub, State.rest_setSession h.sub, eq_self]
  · rfl

theorem State.rest_thbReply (h : F.may [.ctl, .out] []) (n : Fin 8) (key ip port : ℕ) (local_ : Bool) (seq : ℕ)
    (l : List OpRep) : rest F (s.thbReply n key ip port local_ seq l) = rest F s := by
  unfold State.thbReply
  split
  · simp only [State.rest_thbSay h.sub, State.rest_setSession h.sub, eq_self]
  · rfl

theorem State.rest_pendReply (h : F.may [.ctl, .out] []) : rest F s.pendReply = rest F s := by
  unfold State.pendReply
  dsimp only
  refine (rest_each (fun _ _ => ?_) _).trans ?_
  · split
    · simp only [State.rest_thbReply h.sub, eq_self]
    · rfl
  · simp only [State.rest_ctlUpd h.sub, eq_self]

theorem State.rest_relayResolve (h : F.may [.tre, .ctl, .out] []) (seq status : ℕ) (words : List ℕ) :
    rest F (s.relayResolve seq status words) = rest F s := by
  simp only [State.relayResolve, State.rest_treUpd h.sub, State.rest_pendReply h.sub, State.rest_ctlUpd h.sub, eq_self]

theorem State.rest_relayGather (h : F.may [.lnk, .tre, .ctl, .out] []) (p : RelayRep) :
    rest F (s.relayGather p) = rest F s := by
  unfold State.relayGather
  split
  · simp only [State.rest_sendUp h.sub, eq_self]
  · split
    · rfl
    · simp only [State.rest_relayResolve h.sub, State.rest_treUpd h.sub, rest_ite, ite_self, eq_self]

theorem State.rest_relayTimeout (h : F.may [.tre, .ctl, .out] []) (seq : ℕ) : rest F (s.relayTimeout seq) = rest F s := by
  unfold State.relayTimeout
  split
  · simp only [State.rest_relayResolve h.sub, rest_ite, ite_self, eq_self]
  · rfl

/-! #### The commit -/

theorem State.rest_relayAll (h : F.may [.lnk, .tre] []) (op : RelayOp) : rest F (s.relayAll op) = rest F s := by
  simp only [State.relayAll, State.rest_sendDown h.sub, State.rest_treUpd h.sub, eq_self]

theorem State.rest_cleanPages (h : F.may [] [.hdr_SHADOW_DIRTY]) : rest F s.cleanPages = rest F s := by
  refine rest_filter (fun f i v n => ?_) rfl (.inr rfl) (.inr rfl) (fun x => samePart_refl s x) fun _ =>
    ⟨rfl, rfl, rfl, rfl, rfl⟩
  simp only [Fld.key_mod, bne_iff_ne]
  exact fun e => n (Fld.ctorIdx_inj e ▸ h.fld i)

theorem State.rest_capture (h : F.may [.lnk, .tre, .staged] [.hdr_SHADOW_DIRTY, .seq_COMMIT_PEND]) (target : Option ℕ) :
    rest F (s.capture target) = rest F s := by
  unfold State.capture
  dsimp only
  split
  · split <;> simp only [State.wrB_eq, rest_staged h.sub, rest_wr .seq_COMMIT_PEND h.sub, State.rest_cleanPages h.sub,
      State.rest_relayAll h.sub, eq_self]
  · simp only [State.wrB_eq, rest_staged h.sub, rest_wr .seq_COMMIT_PEND h.sub, State.rest_cleanPages h.sub, eq_self]

theorem State.rest_commitFor (h : F.may [.lnk, .tre, .staged] [.hdr_SHADOW_DIRTY, .seq_CFG_ERR, .seq_COMMIT_LATE,
    .seq_COMMIT_PEND]) (b : Option ℕ) : rest F (s.commitFor b) = rest F s := by
  unfold State.commitFor
  split <;> simp only [State.wrB_eq, rest_wr .seq_COMMIT_LATE h.sub, rest_wr .seq_CFG_ERR h.sub, State.rest_capture h.sub,
    rest_ite, ite_self, eq_self]

theorem State.rest_commitWrite (h : F.may [.lnk, .tre, .staged] [.hdr_SHADOW_DIRTY, .seq_CFG_ERR, .seq_COMMIT_BUSY,
    .seq_COMMIT_LATE, .seq_COMMIT_PEND, .seq_TICK_CFG_ERR]) : rest F s.commitWrite = rest F s := by
  simp only [State.commitWrite, State.wrB_eq, rest_wr .seq_COMMIT_BUSY h.sub, rest_wr .seq_TICK_CFG_ERR h.sub,
    rest_wr .seq_CFG_ERR h.sub, State.rest_commitFor h.sub, State.rest_capture h.sub, rest_ite, ite_self, eq_self]

/-! #### The sequencer -/

theorem State.rest_seqUpd (h : F.may [.seq] []) (f : Seq → Seq) : rest F (s.seqUpd f) = rest F s := by
  simp only [State.seqUpd, rest_seq h.sub, eq_self]

theorem State.rest_pwrErr (h : F.may [] [.pmr_PWR_CMD_ERR]) : rest F s.pwrErr = rest F s := by
  simp only [State.pwrErr, State.wrB_eq, rest_wr .pmr_PWR_CMD_ERR h.sub, eq_self]

theorem State.rest_pwrReady (h : F.may [.pmr] [.pmr_ACQ_ENABLED, .pmr_PWR_CMD_ERR]) : rest F s.pwrReady = rest F s := by
  unfold State.pwrReady
  dsimp only
  split <;> simp only [State.wrB_eq, rest_pmr h.sub, rest_wr .pmr_ACQ_ENABLED h.sub, State.rest_pwrErr h.sub, rest_ite,
    ite_self, eq_self]

theorem State.rest_pwrStandby (h : F.may [.pmr, .sns] [.pmr_PWR_CMD_ERR, .sns_BIAS_EN])
    (hr : ∀ r, F.mayAt r [.sns_BIAS_OK, .sns_RAMPING, .sns_V_SET]) : rest F s.pwrStandby = rest F s := by
  simp only [State.pwrStandby, rest_pmr h.sub, State.rest_rampDownAll h.sub (fun r => (hr r).sub), State.rest_pwrErr h.sub,
    rest_ite, ite_self, eq_self]

theorem State.rest_pwrAcquire (h : F.may [] [.pmr_ACQ_ENABLED, .pmr_PWR_CMD_ERR]) : rest F s.pwrAcquire = rest F s := by
  simp only [State.pwrAcquire, State.wrB_eq, rest_wr .pmr_ACQ_ENABLED h.sub, State.rest_pwrErr h.sub, rest_ite, ite_self,
    eq_self]

theorem State.rest_repairAuto (h : F.may [] [.cab_CFG_ERR, .cab_REPAIR_BUSY]) : rest F s.repairAuto = rest F s := by
  simp only [State.repairAuto, State.rest_repairRun h.sub, rest_on, rest_ite, ite_self, eq_self, implies_true]

theorem State.rest_standbyExit (h : F.may [.pmr, .pfe, .tdc, .evb, .hst, .accum, .cmp, .trg, .lnk, .pwr, .out] [.cab_CFG_ERR,
    .cab_REPAIR_BUSY, .pmr_PWR_STATE]) (hr : ∀ r, F.mayAt r []) : rest F s.standbyExit = rest F s := by
  unfold State.standbyExit
  split
  · simp only [rest_pmr h.sub, State.rest_setPwr h.sub, State.rest_standbyResume h.sub (fun r => (hr r).sub),
      State.rest_lnkResume h.sub, State.rest_newRec h.sub, State.rest_setEvbR h.sub, State.rest_repairAuto h.sub, rest_on,
      rest_each, rest_ite, ite_self, eq_self, implies_true]
  · rfl

theorem State.rest_acquireToReady (h : F.may [.pwr] [.cab_CFG_ERR, .cab_REPAIR_BUSY, .pmr_PWR_STATE]) :
    rest F s.acquireToReady = rest F s := by
  simp only [State.acquireToReady, State.rest_repairAuto h.sub, State.rest_setPwr h.sub, rest_ite, ite_self, eq_self]

theorem State.rest_safeExit (h : F.may [.pmr, .flash, .que, .trg, .lnk, .tre, .detected, .pwr, .out, .events]
    (treeRegs ++ areaRegs ++ featRegs ++ roleRegs ++ [Fld.cab_CFG_ERR, Fld.cab_REPAIR_BUSY, Fld.eth_EVQ_LOST, Fld.flt_SAFE_ACT,
    Fld.lnk_L0_STATE, Fld.lnk_L1_STATE, Fld.lnk_LANES_UP, Fld.lnk_PORT_UP, Fld.pmr_PWR_STATE])) :
    rest F s.safeExit = rest F s := by
  unfold State.safeExit
  split
  · split
    · dsimp only
      split <;> simp only [State.wrB_eq, rest_pmr h.sub, rest_wr .flt_SAFE_ACT h.sub, State.rest_lnkSafeExit h.sub,
        State.rest_setPwr h.sub, State.rest_emit h.sub, State.rest_readyReached h.sub, State.rest_repairAuto h.sub, eq_self]
    · rfl
  · rfl

theorem State.rest_regionDrainDone (h : F.may [.seq] [.seq_REGION_FINAL]) (r : Fin 16) :
    rest F (s.regionDrainDone r) = rest F s := by
  simp only [State.regionDrainDone, State.wrBit_eq, rest_wr .seq_REGION_FINAL h.sub, State.rest_seqUpd h.sub, rest_ite,
    ite_self, eq_self]

theorem State.rest_tdcDrainDone (h : F.may [.tdc] []) {r : Fin 16} (hr : F.mayAt r [.tdcr_TDC_FINAL]) :
    rest F (s.tdcDrainDone r) = rest F s := by
  simp only [State.tdcDrainDone, State.wrB_eq, rest_wrAt .tdcr_TDC_FINAL hr.sub, State.rest_setTdcR h.sub hr.sub, rest_ite,
    ite_self, eq_self]

theorem State.rest_rateNote (h : F.may [.tdc, .trg] [.pmr_XING_EXCESS, .pmr_XING_OVR]) {r : Fin 16} (hr : F.mayAt r []) (n : ℕ)
    : rest F (s.rateNote r n) = rest F s := by
  simp only [State.rateNote, State.bump_eq, State.wrBit_eq, rest_wr .pmr_XING_OVR h.sub, rest_wr .pmr_XING_EXCESS h.sub,
    State.rest_setTdcR h.sub hr.sub, State.rest_rateCount h.sub, rest_on, rest_ite, ite_self, eq_self, implies_true]

theorem State.rest_readoutVisit (h : F.may [.tdc, .seq, .evb, .hst, .accum, .cmp, .que, .cab, .trg, .eth, .events]
    (fabricRegs ++ feedRegs ++ [Fld.eth_EVQ_LOST, Fld.evb_RS_EARLY, Fld.pmr_XING_EXCESS, Fld.pmr_XING_OVR])) {r : Fin 16}
    (hr : F.mayAt r (engineRegs ++ histRegs ++ [Fld.evb_EARLY_REL, Fld.evb_LATE_CNT, Fld.tdcr_DROP_ABORT, Fld.tdcr_DROP_AGE]))
    : rest F (s.readoutVisit r) = rest F s := by
  unfold State.readoutVisit
  split
  · rfl
  · simp only [State.bump_eq, rest_wrAt .tdcr_DROP_AGE hr.sub, rest_wrAt .tdcr_DROP_ABORT hr.sub,
      State.rest_rateNote h.sub hr.sub, State.rest_takeEntry h.sub hr.sub, State.rest_correctEntry h.sub hr.sub,
      State.rest_evbArrive h.sub hr.sub, rest_on, rest_ite, ite_self, eq_self, implies_true]

theorem State.rest_auxDeliver (h : F.may [.tdc, .evb, .cmp, .que, .cab, .eth, .events]
    (fabricRegs ++ feedRegs ++ [Fld.eth_EVQ_LOST, Fld.tdc_AUX_DROP, Fld.tdc_AUX_OVR])) (c : Fin 4) (w : ℕ) :
    rest F (s.auxDeliver c w) = rest F s := by
  simp only [State.auxDeliver, State.bump_eq, State.wrBit_eq, rest_wr .tdc_AUX_OVR h.sub, rest_wr .tdc_AUX_DROP h.sub,
    State.rest_auxFlush h.sub, State.rest_auxWord h.sub, State.rest_setAux h.sub, rest_ite, ite_self, eq_self]

theorem State.rest_auxUse (h : F.may [.pfe, .hst, .trg] [.hstr_SYNC_MISSED, .trg_REQ_EXCESS, .trg_REQ_MERGED, .trg_REQ_OVR])
    (hr : ∀ r, F.mayAt r []) (c : Fin 4) (x : ℤ) : rest F (s.auxUse c x) = rest F s := by
  simp only [State.auxUse, State.rest_gateSync h.sub (hr _).sub, State.rest_injSyncEdge h.sub (hr _).sub,
    State.rest_trgInput h.sub, rest_on, rest_each, rest_ite, ite_self, eq_self, implies_true]

theorem State.rest_auxEdge (h : F.may [.pfe, .tdc, .tbs, .evb, .hst, .cmp, .que, .cab, .trg, .eth, .detected, .events]
    (fabricRegs ++ sourceRegs ++ feedRegs ++ [Fld.eth_EVQ_LOST, Fld.hstr_SYNC_MISSED, Fld.tbs_CYCLE_SLIP,
    Fld.tbs_EXT_SEC_VALID, Fld.tbs_PPS_LOST, Fld.tbs_PPS_QUAL, Fld.tdc_AUX_DROP, Fld.tdc_AUX_OVR, Fld.tdc_AUX_SKIP,
    Fld.trg_REQ_EXCESS, Fld.trg_REQ_MERGED, Fld.trg_REQ_OVR])) (hr : ∀ r, F.mayAt r []) (c : Fin 4) (falling : Bool)
    (raw : RawCapture) (refs : ℕ) : rest F (s.auxEdge c falling raw refs) = rest F s := by
  unfold State.auxEdge
  dsimp only
  split
  · rfl
  · split
    · split
      · simp only [State.bump_eq, rest_wr .tdc_AUX_SKIP h.sub, State.rest_setAux h.sub, eq_self]
      · split
        · split
          · split
            · split <;> simp only [State.bump_eq, rest_wr .tdc_AUX_DROP h.sub, State.rest_setAux h.sub,
                State.rest_auxUse h.sub (fun r => (hr r).sub), State.rest_ppsEdge h.sub, State.rest_auxDeliver h.sub,
                rest_when, rest_on, eq_self, implies_true]
            · simp only [State.bump_eq, rest_wr .tdc_AUX_DROP h.sub, State.rest_setAux h.sub,
                State.rest_auxUse h.sub (fun r => (hr r).sub), State.rest_ppsEdge h.sub, rest_when, rest_on, eq_self,
                implies_true]
          · simp only [State.rest_setAux h.sub, State.rest_ppsEdge h.sub, State.rest_auxDeliver h.sub, rest_on, rest_ite,
              ite_self, eq_self, implies_true]
        · split
          · split
            · split <;> simp only [State.bump_eq, rest_wr .tdc_AUX_DROP h.sub, State.rest_setAux h.sub,
                State.rest_auxUse h.sub (fun r => (hr r).sub), State.rest_auxDeliver h.sub, rest_when, eq_self, implies_true]
            · simp only [State.bump_eq, rest_wr .tdc_AUX_DROP h.sub, State.rest_setAux h.sub,
                State.rest_auxUse h.sub (fun r => (hr r).sub), rest_when, eq_self, implies_true]
          · simp only [State.rest_setAux h.sub, State.rest_auxDeliver h.sub, rest_ite, ite_self, eq_self]
    · split
      · simp only [State.bump_eq, rest_wr .tdc_AUX_SKIP h.sub, State.rest_setAux h.sub, eq_self]
      · split
        · split
          · split
            · split <;> simp only [State.bump_eq, rest_wr .tdc_AUX_DROP h.sub, State.rest_setAux h.sub,
                State.rest_auxUse h.sub (fun r => (hr r).sub), State.rest_ppsEdge h.sub, State.rest_auxDeliver h.sub,
                rest_when, rest_on, eq_self, implies_true]
            · simp only [State.bump_eq, rest_wr .tdc_AUX_DROP h.sub, State.rest_setAux h.sub,
                State.rest_auxUse h.sub (fun r => (hr r).sub), State.rest_ppsEdge h.sub, rest_when, rest_on, eq_self,
                implies_true]
          · simp only [State.rest_setAux h.sub, State.rest_ppsEdge h.sub, State.rest_auxDeliver h.sub, rest_on, rest_ite,
              ite_self, eq_self, implies_true]
        · split
          · split
            · split <;> simp only [State.bump_eq, rest_wr .tdc_AUX_DROP h.sub, State.rest_setAux h.sub,
                State.rest_auxUse h.sub (fun r => (hr r).sub), State.rest_auxDeliver h.sub, rest_when, eq_self, implies_true]
            · simp only [State.bump_eq, rest_wr .tdc_AUX_DROP h.sub, State.rest_setAux h.sub,
                State.rest_auxUse h.sub (fun r => (hr r).sub), rest_when, eq_self, implies_true]
          · simp only [State.rest_setAux h.sub, State.rest_auxDeliver h.sub, rest_ite, ite_self, eq_self]

theorem State.rest_oflOne (h : F.may [.evb, .que, .cab, .edc, .eth, .detected, .events]
    (storeRegs ++ fabricRegs ++ [Fld.eth_EVQ_LOST])) {p : PktRef} {u : State} (he : s.oflOne p = some u) :
    rest F u = rest F s := by
  unfold State.oflOne at he
  dsimp only at he
  obtain ⟨⟨v11, b11⟩, hv11, he⟩ := Option.map_eq_some_iff.1 he
  cases he
  simp only [State.rest_putItem h.sub hv11, State.rest_deliverPkt h.sub, eq_self]

theorem State.rest_oflEnd (h : F.may [.cab] [.cab_OFL_BUSY, .cab_OFL_STATE]) : rest F s.oflEnd = rest F s := by
  simp only [State.oflEnd, State.wrB_eq, rest_cab h.sub, rest_wr .cab_OFL_STATE h.sub, rest_wr .cab_OFL_BUSY h.sub, eq_self]

theorem State.rest_oflPass (h : F.may [.cab, .edc, .detected, .events] (storeRegs ++ [Fld.eth_EVQ_LOST])) (o : ℕ) (p : PktRef)
    : rest F (s.oflPass o p) = rest F s := by
  simp only [State.oflPass, rest_cab h.sub, eq_self]

theorem State.rest_oflRun (h : F.may [.evb, .que, .cab, .edc, .eth, .detected, .events]
    (storeRegs ++ fabricRegs ++ [Fld.cab_OFL_BUSY, Fld.cab_OFL_DONE, Fld.cab_OFL_STATE, Fld.eth_EVQ_LOST])) (opn : Bool)
    (l : List (ℕ × PktRef)) (n : ℕ) : rest F (s.oflRun opn l n) = rest F s := by
  induction n generalizing s l with
  | zero =>
    cases l with
    | nil => exact State.rest_oflEnd h.sub
    | cons p l => rfl
  | succ n ih =>
    cases l with
    | nil => exact State.rest_oflEnd h.sub
    | cons p l =>
      unfold State.oflRun
      split
      · split
        · exact State.rest_oflEnd h.sub
        · rfl
      · split
        · rfl
        next he =>
          exact (ih _).trans ((rest_wr .cab_OFL_DONE h.sub _ _).trans ((State.rest_oflPass h.sub _ _).trans
            (State.rest_oflOne h.sub he)))

theorem State.rest_oflPump (h : F.may [.evb, .que, .cab, .edc, .eth, .detected, .events]
    (storeRegs ++ fabricRegs ++ [Fld.cab_OFL_BUSY, Fld.cab_OFL_DONE, Fld.cab_OFL_STATE, Fld.eth_EVQ_LOST])) :
    rest F s.oflPump = rest F s := by
  unfold State.oflPump
  split
  · rfl
  · split <;> simp only [State.rest_oflEnd h.sub, State.rest_oflRun h.sub, eq_self]

theorem State.rest_oflStart (h : F.may [.evb, .que, .cab, .edc, .eth, .detected, .events]
    (storeRegs ++ fabricRegs ++ [Fld.cab_OFL_BUSY, Fld.cab_OFL_DONE, Fld.cab_OFL_STATE, Fld.eth_EVQ_LOST])) :
    rest F s.oflStart = rest F s := by
  simp only [State.oflStart, State.wrB_eq, rest_cab h.sub, rest_wr .cab_OFL_DONE h.sub, rest_wr .cab_OFL_STATE h.sub,
    rest_wr .cab_OFL_BUSY h.sub, State.rest_oflPump h.sub, rest_ite, ite_self, eq_self]

theorem State.rest_oflAbort (h : F.may [.cab] [.cab_OFL_BUSY, .cab_OFL_STATE]) : rest F s.oflAbort = rest F s := by
  simp only [State.oflAbort, State.wrB_eq, rest_cab h.sub, rest_wr .cab_OFL_STATE h.sub, rest_wr .cab_OFL_BUSY h.sub, rest_ite,
    ite_self, eq_self]

theorem State.rest_tdcReload (h : F.may [.tdc] []) {r : Fin 16} (hr : F.mayAt r []) (i : ℕ) :
    rest F (s.tdcReload r i) = rest F s := by
  simp only [State.tdcReload, rest_tdc h.sub, State.rest_setTdcR h.sub hr.sub, rest_ite, ite_self, eq_self]

theorem State.rest_maskReload (h : F.may [.pfe] []) (r : Fin 16) (i : ℕ) : rest F (s.maskReload r i) = rest F s := by
  simp only [State.maskReload, rest_pfe h.sub, eq_self]

theorem State.rest_sramBad (h : F.may [.pfe, .tdc, .evb, .cab, .detected, .events] [.edc_PATCH_LOST, .edc_SRAM_UNCORR,
    .eth_EVQ_LOST, .tdc_CODE_ERR_ALL]) (hr : ∀ r, F.mayAt r [.tdcr_CODE_ERR]) (x : SramHit) :
    rest F (s.sramBad x) = rest F s := by
  unfold State.sramBad
  extract_lets s1 own i s2 s3
  have h1 : rest F s1 = rest F s := by simp only [s1, State.bump_eq, rest_wr .edc_SRAM_UNCORR h.sub]
  have ho : rest F (own s1) = rest F s := by simp only [own, rest_ite, State.rest_detect h.sub, ite_self, h1]
  have h2 : rest F s2 = rest F s := by
    simp only [s2]
    split
    · rw [State.rest_setSlot h.sub, h1]
    · exact h1
  have h3 : rest F s3 = rest F s := by
    simp only [s3]
    split
    · rw [rest_each (fun _ _ => State.rest_poisonNow h.sub _), h1]
    · exact h1
  clear_value s3 s2 own
  clear_value s1
  split
  · rw [State.rest_detect h.sub, h1]
  · exact h1
  · rw [State.rest_detect h.sub, State.rest_tdcReload h.sub (hr _).sub, h1]
  · rw [State.rest_detect h.sub, State.rest_maskReload h.sub, h1]
  · simp only [State.rest_detect h.sub, rest_ite, State.rest_codeFault h.sub (hr _).sub, State.rest_setEvbR h.sub, ite_self, h1]
  · rw [State.rest_detect h.sub, h2]
  · rw [State.rest_detect h.sub, h3]
  · exact ho

theorem State.rest_sramScrub (h : F.may [.pfe, .tdc, .evb, .que, .cab, .edc, .detected, .events] [.edc_LOG_HEAD,
    .edc_PATCH_LOST, .edc_SRAM_CORR, .edc_SRAM_SPARE_EXH, .edc_SRAM_UNCORR, .eth_EVQ_LOST, .tdc_CODE_ERR_ALL])
    (hr : ∀ r, F.mayAt r [.tdcr_CODE_ERR]) (l : List SramHit) : rest F (s.sramScrub l) = rest F s := by
  simp only [State.sramScrub, State.rest_sramBad h.sub (fun r => (hr r).sub), State.rest_sramFixed h.sub, rest_each, rest_ite,
    ite_self, eq_self, implies_true]

/-! #### CTL -/

theorem State.rest_sessClose (h : F.may [.ctl] [.ctl_SESS_IP, .ctl_SESS_LEVEL, .ctl_SESS_OPEN, .ctl_SESS_PORT, .ctl_SESS_SALT,
    .ctl_SESS_SLOT]) (n : Fin 8) : rest F (s.sessClose n) = rest F s := by
  simp only [State.sessClose, State.wrBit_eq, rest_wr .ctl_SESS_SALT h.sub, rest_wr .ctl_SESS_PORT h.sub,
    rest_wr .ctl_SESS_IP h.sub, rest_wr .ctl_SESS_LEVEL h.sub, rest_wr .ctl_SESS_SLOT h.sub, rest_wr .ctl_SESS_OPEN h.sub,
    State.rest_ctlUpd h.sub, eq_self]

theorem State.rest_provision (h : F.may [.ctl, .events] [.ctl_KEY_VALID, .ctl_PROV, .ctl_SESS_IP, .ctl_SESS_LEVEL,
    .ctl_SESS_OPEN, .ctl_SESS_PORT, .ctl_SESS_SALT, .ctl_SESS_SLOT, .eth_EVQ_LOST]) (level : Bool) :
    rest F (s.provision level) = rest F s := by
  simp only [State.provision, State.wrB_eq, State.wrBit_eq, rest_wr .ctl_KEY_VALID h.sub, rest_wr .ctl_PROV h.sub,
    State.rest_emit h.sub, State.rest_sessClose h.sub, rest_each, rest_ite, ite_self, eq_self, implies_true]

theorem State.rest_fwState (h : F.may [.events] [.ctl_FW_STATE, .eth_EVQ_LOST]) (n : ℕ) : rest F (s.fwState n) = rest F s := by
  simp only [State.fwState, rest_wr .ctl_FW_STATE h.sub, State.rest_emit h.sub, rest_ite, ite_self, eq_self]

theorem State.rest_setFwSlot (h : F.may [.flash] []) (x : FwSlot) : rest F (s.setFwSlot x) = rest F s := by
  simp only [State.setFwSlot, State.rest_setSlotFw h.sub, eq_self]

theorem State.rest_fwBegin (h : F.may [.flash, .events] [.ctl_FW_STATE, .eth_EVQ_LOST]) (own : Bool) :
    rest F (s.fwBegin own) = rest F s := by
  simp only [State.fwBegin, State.rest_fwState h.sub, State.rest_setFwSlot h.sub, rest_ite, ite_self, eq_self]

theorem State.rest_fwErased (h : F.may [.events] [.ctl_FW_STATE, .eth_EVQ_LOST]) (flashErr : Bool) :
    rest F (s.fwErased flashErr) = rest F s := by
  simp only [State.fwErased, State.rest_fwState h.sub, rest_ite, ite_self, eq_self]

theorem State.rest_fwVerify (h : F.may [.events] [.ctl_CFG_ERR, .ctl_FW_STATE, .eth_EVQ_LOST]) (own : Bool) :
    rest F (s.fwVerify own) = rest F s := by
  simp only [State.fwVerify, State.wrB_eq, rest_wr .ctl_CFG_ERR h.sub, State.rest_fwState h.sub, rest_ite, ite_self, eq_self]

theorem State.rest_fwVerified (h : F.may [.events] [.ctl_FW_STATE, .eth_EVQ_LOST]) (flashErr : Bool) :
    rest F (s.fwVerified flashErr) = rest F s := by
  simp only [State.fwVerified, State.rest_fwState h.sub, rest_ite, ite_self, eq_self]

theorem State.rest_fwAbort (h : F.may [.flash, .events] [.ctl_FW_STATE, .eth_EVQ_LOST]) (own : Bool) :
    rest F (s.fwAbort own) = rest F s := by
  simp only [State.fwAbort, State.rest_fwState h.sub, State.rest_setFwSlot h.sub, rest_ite, ite_self, eq_self]

/-! #### CTL and relay -/

theorem State.rest_thbTake (h : F.may [.eth] []) (x : ThbHead) : rest F (s.thbTake x) = rest F s := by
  unfold State.thbTake
  split
  · simp only [State.rest_ethUpd h.sub, eq_self]
  · rfl

theorem State.rest_authFail (h : F.may [] [.ctl_AUTH_FAIL]) : rest F s.authFail = rest F s := by
  simp only [State.authFail, State.bump_eq, rest_wr .ctl_AUTH_FAIL h.sub, eq_self]

theorem State.rest_replayDrop (h : F.may [] [.ctl_REPLAY_DROP]) : rest F s.replayDrop = rest F s := by
  simp only [State.replayDrop, State.bump_eq, rest_wr .ctl_REPLAY_DROP h.sub, eq_self]

theorem State.rest_openSay (h : F.may [.out] []) (x : ThbHead) (n status level salt nonce : ℕ) :
    rest F (s.openSay x n status level salt nonce) = rest F s := by
  simp only [State.openSay, rest_out h.sub, eq_self]

theorem State.rest_sessOpen (h : F.may [.ctl] [.ctl_SESS_IP, .ctl_SESS_LEVEL, .ctl_SESS_OPEN, .ctl_SESS_PORT, .ctl_SESS_SALT,
    .ctl_SESS_SLOT]) (n : Fin 8) (x : ThbHead) (asked salt : ℕ) : rest F (s.sessOpen n x asked salt) = rest F s := by
  simp only [State.sessOpen, State.wrBit_eq, rest_wr .ctl_SESS_OPEN h.sub, rest_wr .ctl_SESS_SALT h.sub,
    rest_wr .ctl_SESS_PORT h.sub, rest_wr .ctl_SESS_IP h.sub, rest_wr .ctl_SESS_LEVEL h.sub, rest_wr .ctl_SESS_SLOT h.sub,
    State.rest_setSession h.sub, eq_self]

theorem State.rest_openMsg (h : F.may [.ctl, .out] [.ctl_REPLAY_DROP, .ctl_SESS_IP, .ctl_SESS_LEVEL, .ctl_SESS_OPEN,
    .ctl_SESS_PORT, .ctl_SESS_SALT, .ctl_SESS_SLOT]) (x : ThbHead) (asked nonce : ℕ) :
    rest F (s.openMsg x asked nonce) = rest F s := by
  unfold State.openMsg
  dsimp only
  split
  · simp only [State.rest_replayDrop h.sub, eq_self]
  · split
    · simp only [State.rest_ctlUpd h.sub, State.rest_openSay h.sub, eq_self]
    · split
      · simp only [State.rest_ctlUpd h.sub, State.rest_openSay h.sub, eq_self]
      · split <;> simp only [State.rest_ctlUpd h.sub, State.rest_openSay h.sub, State.rest_sessOpen h.sub, eq_self]

end Sys2Proof.Machine
end


/-! ### Frames of commands -/

section
namespace Sys2Proof.Machine

open Sys2Proof Safety

/-- F holds of the fields in ones, each at its index. -/
def Foot.has (F : Foot) (ones : List (Fld × Nat)) : Prop := ∀ e ∈ ones, F.fld e.1 e.2

/-- What a clause of a frame allows: the parts ps, the fields p holds of, and the regions q holds of. -/
def Foot.of (ps : List Part) (p : Fld → Nat → Bool) (q : Fin 16 → Prop) : Foot where
  part x := x ∈ ps
  fld f i := p f i = true
  region := q

variable {F : Foot} {s u : State} {c : Instr} {t : Nat} {ps : List Part} {p : Fld → Nat → Bool}
  {q : Fin 16 → Prop} {ones : List (Fld × Nat)} {any fs : List Fld} {i : Nat} {r : Fin 16}

theorem Foot.has.of (ho : F.has ones) (h : F.may ps any) (hf : ∀ f ∈ fs, (f, i) ∈ ones ∨ f ∈ any) : F.mayOf i fs :=
  fun f hx => (hf f hx).elim (fun e => ho _ e) fun e => h.2 f e i

theorem Foot.of_may_just : (Foot.of ps (just ones any) q).may ps any :=
  ⟨fun _ hx => hx, fun f hf i => by simp [Foot.of, just, hf]⟩

theorem Foot.of_has_just : (Foot.of ps (just ones any) q).has ones :=
  fun e he => by simp [Foot.of, just, he]

theorem frame_of_rest (h : rest (Foot.of ps p q) u = rest (Foot.of ps p q) s) (hp : u.pending = s.pending) :
    Safety.Frame s u ps p := by
  have hw := rest_eq_iff.1 h
  exact ⟨fun f i hf => hw.regs f i (by simp [Foot.of, hf]), hw.parts, hp⟩

/-- A command that brings u, in which nothing has changed but the parts ps and the fields p holds of. -/
theorem leaves_of_rest (he : exec c s = .next (u.stamp (s.at t).clock s.pending))
    (h : rest (Foot.of ps p fun _ => True) u = rest (Foot.of ps p fun _ => True) (s.at t)) : Leaves c s ps p :=
  ⟨_, he, frame_of_rest ((rest_stamp _ _).trans (h.trans (rest_at t))) rfl⟩

/-- A command that changes the parts ps, the fields any, and the indexed fields ones. -/
theorem leaves_of_next (he : exec c s = .next (u.stamp (s.at t).clock s.pending))
    (h : ∀ F : Foot, F.may ps any → F.has ones → (∀ r, F.mayAt r any) → rest F u = rest F (s.at t)) :
    Leaves c s ps (just ones any) :=
  leaves_of_rest he (h _ Foot.of_may_just Foot.of_has_just fun r => ⟨trivial, Foot.of_may_just.of r⟩)

/-- A command that changes of the regions r alone, with the fields fs of it. -/
theorem leavesIn_of_next (fs : List Fld) (he : exec c s = .next (u.stamp (s.at t).clock s.pending))
    (hf : ∀ f ∈ fs, (f, r.val) ∈ ones ∨ f ∈ any)
    (h : ∀ F : Foot, F.may ps any → F.has ones → F.mayAt r fs → rest F u = rest F (s.at t)) :
    LeavesIn r c s ps (just ones any) := by
  have hr := (rest_stamp (F := Foot.of ps (just ones any) (· = r)) (s.at t).clock s.pending).trans
    ((h (Foot.of ps (just ones any) (· = r)) Foot.of_may_just Foot.of_has_just
      ⟨rfl, Foot.of_has_just.of Foot.of_may_just hf⟩).trans (rest_at t))
  exact ⟨_, he, frame_of_rest hr rfl, (rest_eq_iff.1 hr).apart⟩

/-! #### A WARM reset that waits (R341) -/

/-- A state whose PMR is as it was in s, in which no WARM reset waits, does not settle (R341). -/
theorem rest_warmSettle (h : rest F u = rest F s) (hn : ¬ F.part .pmr) (hw : s.pmr.warm = none) :
    rest F u.warmSettle = rest F s := by
  have hp : u.pmr = s.pmr := (rest_eq_iff.1 h).parts .pmr hn
  have hu : u.warmSettle = u := by simp [State.warmSettle, hp, hw]
  rw [hu, h]

/-- leaves_of_next for a command whose proof turns on the parts it does not touch. -/
theorem leaves_of_parts (he : exec c s = .next (u.stamp (s.at t).clock s.pending))
    (h : ∀ F : Foot, F.may ps any → F.has ones → (∀ r, F.region r) → (∀ x, x ∉ ps → ¬ F.part x) → rest F u = rest F (s.at t)) :
    Leaves c s ps (just ones any) :=
  leaves_of_rest he (h _ Foot.of_may_just Foot.of_has_just (fun _ => trivial) fun _ hx => hx)

/-- leaves_of_next for a command that does not touch PMR. -/
theorem leaves_of_next_pmr (hn : Part.pmr ∉ ps) (he : exec c s = .next (u.stamp (s.at t).clock s.pending))
    (h : ∀ F : Foot, F.may ps any → ¬ F.part .pmr → rest F u = rest F (s.at t)) : Leaves c s ps (just [] any) :=
  leaves_of_parts he fun F hF _ _ hx => h F hF (hx _ hn)

/-- Everything but the parts qs. -/
def Foot.allBut (qs : List Part) : Foot := ⟨(· ∉ qs), fun _ _ => True, fun _ => True⟩

theorem Foot.allBut_may {qs ps : List Part} {fs : List Fld} (h : ∀ x ∈ ps, x ∉ qs) : (Foot.allBut qs).may ps fs :=
  ⟨h, fun _ _ _ => trivial⟩

theorem brings_of_rest {qs : List Part} (he : exec c s = .next (u.stamp (s.at t).clock s.pending))
    (h : rest (Foot.allBut qs) u = rest (Foot.allBut qs) (s.at t)) :
    Brings c s (fun u => u.pending = s.pending ∧ ∀ x ∈ qs, SamePart s u x) := by
  have hr := rest_eq_iff.1 ((rest_stamp (s.at t).clock s.pending).trans (h.trans (rest_at t)))
  exact ⟨_, he, rfl, fun x hx => hr.parts x (not_not.2 hx)⟩

/-- What a WARM reset keeps of the model's own parts. -/
def kept : List Part := [.free, .lastRead]

theorem rest_allBut_kept (hf : u.free = s.free) (hl : u.lastRead = s.lastRead) :
    rest (Foot.allBut kept) u = rest (Foot.allBut kept) s :=
  rest_eq_iff.2 ⟨fun _ _ n => absurd trivial n, fun x n => by
    rcases List.mem_pair.1 (not_not.1 n) with rfl | rfl
    · exact hf
    · exact hl, fun _ n => absurd trivial n⟩

theorem State.rest_coldReset_kept (cause : Nat) : rest (Foot.allBut kept) (s.coldReset cause) = rest (Foot.allBut kept) s := by
  unfold State.coldReset
  extract_lets s1 p
  have h1 : rest (Foot.allBut kept) s1 = rest (Foot.allBut kept) s :=
    rest_ite_eq (State.rest_countStart (Foot.allBut_may (by decide))) rfl
  refine Eq.trans ?_ h1
  exact rest_allBut_kept rfl rfl

theorem State.rest_warmReset_kept (cause : Nat) : rest (Foot.allBut kept) (s.warmReset cause) = rest (Foot.allBut kept) s := by
  unfold State.warmReset
  extract_lets s1 k e s2
  calc _ = rest (Foot.allBut kept) { s2 with cab := k, edc := e } := State.rest_startUp (Foot.allBut_may (by decide)) _
    _ = rest (Foot.allBut kept) s2 := rest_allBut_kept rfl rfl
    _ = rest (Foot.allBut kept) s1 := s1.rest_coldReset_kept cause
    _ = rest (Foot.allBut kept) s := State.rest_cabStandby (Foot.allBut_may (by decide))

theorem State.rest_warmSettle_kept : rest (Foot.allBut kept) s.warmSettle = rest (Foot.allBut kept) s := by
  unfold State.warmSettle
  split
  · exact rest_ite_eq rfl (s.rest_warmReset_kept _)
  · rfl

end Sys2Proof.Machine
end

/-! ### Registers that have keys of FLT, and the bytes of a group (R193, R335) -/

section
namespace Sys2Proof.Machine

open Sys2Proof Safety

set_option Elab.async false

variable {F : Foot} {s u v : State}

/-- The registers that a RAIL_RETRY resets with FLT: its fields, and the headers of its pages (R335). -/
def fltReg (f : Fld) (i : Nat) : Bool := if f.isHdr then i / 17 == Blk.flt.idx else f.desc.blk == .flt

theorem blkKeys_flt : ∀ n ∈ blkKeys Blk.flt.idx, (Fld.ofNat n).isHdr = false ∧ (Fld.ofNat n).desc.blk = .flt := by
  decide +kernel

theorem fltReg_of_keyOfBlk {f : Fld} {i : Nat} (h : keyOfBlk Blk.flt.idx (blkKeys Blk.flt.idx) (f.key i) = true) :
    fltReg f i = true := by
  simp only [keyOfBlk, Fld.key_mod, Fld.key_div, Bool.or_eq_true, Bool.and_eq_true, List.contains_iff_mem, List.any_eq_true,
    beq_iff_eq] at h
  unfold fltReg
  rcases h with h | ⟨hi, g, hg, he⟩
  · have hb := blkKeys_flt _ h
    rw [Fld.ofNat_ctorIdx] at hb
    simp [hb]
  · obtain rfl := Fld.ctorIdx_inj he
    have hh : g.isHdr = true := by
      revert g
      decide
    simp [hh, hi]

/-- From s to u no line is moved to a spare, and no byte outside the lines of L changes. -/
structure BytesKept (L : Nat → Prop) (s u : State) : Prop where
  edc : u.edc = s.edc
  bytes : ∀ a, ¬ L (a / 64) → spGet u.cab.mem a 0 = spGet s.cab.mem a 0

section
variable {L : Nat → Prop}

theorem BytesKept.of_eq (he : u.edc = s.edc) (hm : u.cab.mem = s.cab.mem) : BytesKept L s u := ⟨he, fun _ _ => by rw [hm]⟩

theorem BytesKept.trans (h : BytesKept L s u) (k : BytesKept L u v) : BytesKept L s v :=
  ⟨k.edc.trans h.edc, fun a ha => (k.bytes a ha).trans (h.bytes a ha)⟩

theorem BytesKept.each {α : Type} {f : α → State → State} (l : List α)
    (hf : ∀ a ∈ l, ∀ x, x.edc = s.edc → BytesKept L x (f a x)) : BytesKept L s (s.each l f) := by
  induction l generalizing s with
  | nil => exact .of_eq rfl rfl
  | cons a l ih =>
    have h1 := hf a List.mem_cons_self s rfl
    exact h1.trans (ih fun b hb x hx => hf b (List.mem_cons_of_mem a hb) x (hx.trans h1.edc))

theorem BytesKept.nil {α : Type} (f : α → State → State) : BytesKept L s (s.each [] f) := .of_eq rfl rfl

theorem BytesKept.cabUpd {f : Cab → Cab} (hf : ∀ c, (f c).mem = c.mem) : BytesKept L s (s.cabUpd f) := .of_eq rfl (hf _)

theorem BytesKept.setReel (r : Reel) : BytesKept L s (s.setReel r) := .of_eq rfl rfl

theorem State.homes_congr (h : u.edc = s.edc) (p : Nat) : u.homes p = s.homes p := by
  simp only [State.homes, State.remap, h]

theorem BytesKept.setByte {a : Nat} (h : L (a / 64)) (v : Nat) : BytesKept L s (s.setByte a v) :=
  ⟨rfl, fun _ hn => spGet_set_of_ne _ _ _ _ fun e => hn (e ▸ h)⟩

theorem BytesKept.putLine {q b : Nat} {l : List Nat} (h : L q) (hb : b + l.length ≤ 64) (p : Nat) :
    BytesKept L s (s.putLine q p b l) := by
  refine .each _ fun e he x _ => .setByte ?_ _
  have hi : e.1 < l.length := List.mem_range.1 (List.of_mem_zip he).1
  rwa [show (64 * q + b + e.1) / 64 = q by omega]

theorem BytesKept.setMem {p b : Nat} {l : List Nat} (h : ∀ q ∈ s.homes p, L q) (hb : b + l.length ≤ 64) :
    BytesKept L s (s.setMem p b l) :=
  .each _ fun q hq _ _ => .putLine (h q hq) hb p

theorem rsCheck_length_le {t : Nat} (ht : 0 < t) (data : List Nat) : (rsCheck t data).length ≤ 2 * t := by
  unfold rsCheck
  suffices h : ∀ r : List Nat, r.length ≤ 2 * t → ∀ g, (data.foldl (fun r d =>
      List.zipWith (fun a b => a ^^^ gfMul (r.headD 0 ^^^ d) b) (r.drop 1 ++ [0]) g) r).length ≤ 2 * t from
    h _ (by simp) _
  intro r hr g
  induction data generalizing r with
  | nil => exact hr
  | cons d data ih =>
    refine ih _ ?_
    simp only [List.length_zipWith, List.length_append, List.length_drop, List.length_singleton]
    omega

/-- The lines of the group whose first line is g0 stand at L in s. -/
def GroupAt (L : Nat → Prop) (s : State) (h : Shelf) (g0 : Nat) : Prop := ∀ i < h.gl, ∀ q ∈ s.homes (g0 + i), L q

theorem GroupAt.congr {h : Shelf} {g0 : Nat} (hl : GroupAt L s h g0) (he : u.edc = s.edc) : GroupAt L u h g0 :=
  fun i hi q hq => hl i hi q (State.homes_congr he _ ▸ hq)

theorem BytesKept.writeLine {h : Shelf} {g0 i : Nat} {data : List Nat} (hl : GroupAt L s h g0) (hi : i < h.gl - 1)
    (hd : data.length ≤ 64) : BytesKept L s (s.writeLine h g0 i data) := by
  have h1 : BytesKept L s (s.setMem (g0 + i) 0 data) := .setMem (hl i (by omega)) (by omega)
  have ht : 0 < h.t ∧ 2 * h.t * i + 2 * h.t ≤ 64 ∧ g0 + h.gl - 1 = g0 + (h.gl - 1) := by
    unfold Shelf.gl at hi ⊢
    unfold Shelf.t
    split <;> split at hi <;> simp_all <;> omega
  obtain ⟨h0, h64, hg⟩ := ht
  refine h1.trans (.setMem ?_ ((Nat.add_le_add_left (rsCheck_length_le h0 data) _).trans h64))
  rw [State.homes_congr h1.edc, hg]
  exact hl _ (by omega)

theorem State.extLine_fst (r : Reel) (q y : Nat) : (s.extLine r q y).1 = s.reelShelf r := by
  simp only [State.extLine]

/-- A group without poisoned lines changes the bytes of its own lines alone (R193). -/
theorem BytesKept.groupWrite {prod n : Nat} {w : Slot} {r : Reel} {x : Ext} {h : Shelf} {g0 b : Nat}
    (hw : s.slotOf prod n = some w)
    (hr : s.reel n = some r) (hf : s.slotFull w = true) (hb : w.bad = []) (hx : r.live.find? (fun y => y.seq == w.ext) = some x)
    (he : s.extLine r w.ext (w.grp * (s.reelShelf r).gb) = (h, g0, b)) (hl : GroupAt L s h g0) :
    BytesKept L s (s.groupWrite prod n) := by
  have hs : s.reelShelf r = h := by rw [← State.extLine_fst r w.ext (w.grp * (s.reelShelf r).gb), he]
  have hg : (s.extLine r w.ext (w.grp * (s.reelShelf r).gb)).2.1 = g0 := by rw [he]
  have hd (data : List Nat) : BytesKept L s
      (s.each (List.range (h.gl - 1)) (fun i s => s.writeLine h g0 i ((data.drop (64 * i)).take 64))) :=
    .each _ fun i hi y hy => .writeLine (hl.congr hy) (List.mem_range.1 hi) (List.length_take_le _ _)
  simp only [State.groupWrite, hw, hr, hf, hx, hb, hg, if_true]
  rw [hs]
  refine BytesKept.trans ?_ (BytesKept.cabUpd fun _ => rfl)
  refine BytesKept.trans ?_ (BytesKept.setReel _)
  refine BytesKept.trans ?_ (BytesKept.cabUpd fun _ => rfl)
  exact (hd _).trans (BytesKept.nil _)

theorem mem_of_rest {qs : List Part} (hq : Part.mem ∈ qs) (h : rest (Foot.allBut qs) u = rest (Foot.allBut qs) s) :
    u.cab.mem = s.cab.mem :=
  (rest_eq_iff.1 h).parts .mem (not_not.2 hq)

/-- What GROUP_WRITE changes of the store's bytes, with the data that then move on. -/
theorem BytesKept.groupWriteOn {prod n : Nat} (hk : BytesKept L s (s.groupWrite prod n)) (b : Blk) :
    ∀ a, ¬ L (a / 64) → spGet (s.on b fun s => ((s.groupWrite prod n).cabPull).winPump).cab.mem a 0 = spGet s.cab.mem a 0 := by
  intro a ha
  have hm : ((s.groupWrite prod n).cabPull).winPump.cab.mem = (s.groupWrite prod n).cab.mem :=
    mem_of_rest (qs := [.mem]) (by decide)
      ((State.rest_winPump (Foot.allBut_may (by decide))).trans (State.rest_cabPull (Foot.allBut_may (by decide))))
  unfold State.on
  split
  · rw [hm]
    exact hk.bytes a ha
  · rfl
end

end Sys2Proof.Machine
end

/-! ### The frames of the commands: O51 to O58 -/

section
namespace Sys2Proof.Machine

open Sys2Proof Safety

set_option Elab.async false

/-- Settles O51: the frames of the operations its commands run, RAIL_RETRY by the registers that have keys of FLT. -/
theorem sensorFrames : Obligations.SensorFrames := by
  unfold Obligations.SensorFrames
  intro s t
  exact ⟨
    leaves_of_next rfl fun _ h _ _ => by simp only [State.rest_pmrUpd h.sub, State.rest_tryStart h.sub],
    fun _ => leaves_of_next rfl fun _ h _ _ => by simp only [State.rest_pmrUpd h.sub, State.rest_tryStart h.sub],
    leaves_of_rest rfl (State.rest_railRetry ⟨fun _ hx => hx, by simp⟩ fun _ _ hk => fltReg_of_keyOfBlk hk),
    leaves_of_next rfl fun _ h _ _ => rest_on (fun _ => State.rest_pwrReady h.sub) _,
    leaves_of_next rfl fun _ h _ hr => rest_on (fun _ => State.rest_pwrStandby h.sub (fun r => (hr r).sub)) _,
    leaves_of_next rfl fun _ h _ _ => rest_on (fun _ => State.rest_pwrAcquire h.sub) _,
    leaves_of_next rfl fun _ h _ hr => rest_on (fun _ => State.rest_standbyExit h.sub (fun r => (hr r).sub)) _,
    leaves_of_next rfl fun _ h _ _ => rest_on (fun _ => State.rest_acquireToReady h.sub) _,
    leaves_of_next rfl fun _ h _ _ => rest_on (fun _ => State.rest_safeExit h.sub) _,
    fun _ => leavesIn_of_next [.sns_BIAS_OK, .sns_RAMPING, .sns_V_SET] rfl (by simp) fun _ h _ hr =>
      rest_on (fun _ => State.rest_biasEnSet h.sub hr.sub) _,
    fun _ => leavesIn_of_next [.sns_BIAS_OK, .sns_RAMPING, .sns_V_SET] rfl (by simp) fun _ h _ hr =>
      rest_on (fun _ => State.rest_biasEnClear h.sub hr.sub) _,
    fun _ => leavesIn_of_next [.sns_BIAS_OK, .sns_RAMPING, .sns_V_SET] rfl (by simp) fun _ h _ hr =>
      rest_on (fun _ => State.rest_rampDone h.sub hr.sub) _,
    fun _ => leavesIn_of_next [.sns_BIAS_OK, .sns_OC_TRIP, .sns_RAMPING, .sns_V_SET] rfl (by simp) fun _ h _ hr =>
      rest_on (fun _ => by simp only [State.rest_crowbar h.sub hr.sub, State.rest_detect h.sub, State.wrB_eq,
      rest_wrAt .sns_OC_TRIP hr.sub]) _,
    leaves_of_next rfl fun _ h _ _ => rest_on (fun _ => by simp only [State.rest_detect h.sub, State.wrB_eq,
      rest_wr .sns_OC_TOTAL_TRIP h.sub]) _,
    fun _ _ _ _ => leavesIn_of_next [.tdcr_CODE_ERR, .tdcr_DROP_QFULL, .tdcr_PH_AMBIG] rfl (by simp) fun _ h _ hr =>
      rest_on (fun _ => State.rest_pixelEdge h.sub hr.sub _ _ _) _,
    fun _ _ _ => leavesIn_of_next [] rfl (by simp) fun _ h _ hr => rest_on (fun _ => State.rest_holdoffEnd h.sub hr.sub _) _,
    fun _ _ => leavesIn_of_next [.pfer_MASK_ADDR] rfl (by simp) fun _ h ho hr =>
      rest_on (fun _ => State.rest_maskWrite h.sub hr.sub (ho.of h (by simp)) _) _,
    fun _ => leavesIn_of_next [.pfer_MASK_ADDR] rfl (by simp) fun _ h _ hr =>
      rest_on (fun _ => by simp only [State.rest_maskNext hr.sub, rest_lastRead h.sub]) _,
    leaves_of_next rfl fun _ h _ _ => rest_on (fun _ => State.rest_maskSave h.sub) _,
    leaves_of_next rfl fun _ h _ _ => rest_on (fun _ => State.rest_maskSaveDone h.sub) _,
    fun _ => leavesIn_of_next [] rfl (by simp) fun _ h _ hr => rest_on (fun _ => State.rest_hotClr h.sub hr.sub) _,
    fun _ => leavesIn_of_next [.pfer_INJ_OVR, .tdcr_CODE_ERR, .tdcr_DROP_QFULL, .tdcr_PH_AMBIG] rfl (by simp) fun _ h _ hr =>
      rest_on (fun _ => State.rest_injectedPulse h.sub hr.sub _) _,
    leaves_of_next rfl fun _ h _ _ => rest_on (fun _ => State.rest_commitWrite h.sub) _,
    fun _ => leavesIn_of_next [] rfl (by simp) fun _ h _ _ => rest_on (fun _ => State.rest_regionDrainDone h.sub _) _⟩

/-- Settles O52: the frames of the operations its commands run. -/
theorem converterAndTimeFrames : Obligations.ConverterAndTimeFrames := by
  unfold Obligations.ConverterAndTimeFrames
  intro s t
  exact ⟨
    fun _ _ => leavesIn_of_next [.tdcr_CODE_ERR, .tdcr_DROP_QFULL, .tdcr_PH_AMBIG] rfl (by simp) fun _ h _ hr =>
      rest_on (fun _ => State.rest_windowClose h.sub hr.sub _) _,
    fun _ => leavesIn_of_next [.tdcr_TDC_FINAL] rfl (by simp) fun _ h _ hr =>
      rest_on (fun _ => State.rest_tdcDrainDone h.sub hr.sub) _,
    fun _ => leaves_of_next rfl fun _ h _ hr => rest_on (fun _ => by split <;> simp only [State.rest_calBatchClose h.sub
      (hr _).sub, State.rest_auxBatch h.sub, State.rest_ttBatch h.sub]) _,
    fun _ _ => leavesIn_of_next [] rfl (by simp) fun _ h _ hr => rest_on (fun _ => State.rest_calBatchTimeout h.sub hr.sub _) _,
    fun _ => leavesIn_of_next [] rfl (by simp) fun _ h _ hr => rest_on (fun _ => State.rest_calReset h.sub hr.sub) _,
    fun _ => leavesIn_of_next [.tdcr_CAL_LOAD_BUSY, .tdcr_CFG_ERR] rfl (by simp) fun _ h _ hr =>
      rest_on (fun _ => State.rest_calLoad h.sub hr.sub) _,
    fun _ _ => leavesIn_of_next [.tdcr_OFS_ADDR] rfl (by simp) fun _ h ho hr =>
      rest_on (fun _ => by split <;> simp only [State.rest_ofsWrite h.sub hr.sub (ho.of h (by simp)),
      State.rest_ofsNext hr.sub, rest_lastRead h.sub]) _,
    fun _ => leaves_of_next rfl fun _ h _ _ => rest_on (fun _ => State.rest_auxSwap h.sub _) _,
    fun _ _ => leaves_of_next rfl fun _ h _ _ => rest_on (fun _ => State.rest_phaseMonitor h.sub _ _) _,
    leaves_of_next rfl fun _ h _ _ => rest_on (fun _ => State.rest_refLoss h.sub) _,
    leaves_of_next rfl fun _ h _ _ => rest_on (fun _ => State.rest_refResume h.sub) _,
    fun _ => leaves_of_next rfl fun _ h _ _ => rest_on (fun _ => State.rest_refWindow h.sub _) _,
    leaves_of_next rfl fun _ h _ _ => rest_on (fun _ => State.rest_ppsTimeout h.sub) _,
    leaves_of_next rfl fun _ h _ _ => rest_on (fun _ => State.rest_revertTimer h.sub) _,
    leaves_of_next rfl fun _ h _ _ => rest_on (fun _ => State.rest_holdWarn h.sub) _,
    fun _ => leaves_of_next rfl fun _ h _ _ => rest_on (fun _ => by simp only [State.rest_clapTx h.sub, rest_ite, ite_self]) _,
    fun _ => leaves_of_next rfl fun _ h _ _ => rest_on (fun _ => State.rest_clapTimeout h.sub _) _,
    fun h _ => leaves_of_next rfl fun _ h _ _ => rest_on (fun _ => State.rest_ptpAnnounce h.sub _ _) _,
    fun h _ => leaves_of_next rfl fun _ h _ _ => rest_on (fun _ => State.rest_ptpSync h.sub _ _) _,
    fun h _ => leaves_of_next rfl fun _ h _ _ => rest_on (fun _ => State.rest_ptpFollow h.sub _ _) _,
    leaves_of_next rfl fun _ h _ _ => rest_on (fun _ => State.rest_ptpDelayReq h.sub) _,
    leaves_of_next rfl fun _ h _ _ => rest_on (fun _ => State.rest_ptpAnnTimeout h.sub) _,
    leaves_of_next rfl fun _ h _ _ => rest_on (fun _ => State.rest_ptpSyncTimeout h.sub) _,
    leaves_of_next rfl fun _ h _ _ => rest_on (fun _ => State.rest_snapReq h.sub) _,
    leaves_of_next rfl fun _ h _ _ => rest_on (fun _ => by simp only [rest_lastRead h.sub]) _,
    fun _ => leaves_of_next rfl fun _ h _ _ => rest_on (fun _ => State.rest_freqWrite h.sub _) _,
    leaves_of_next rfl fun _ h _ _ => rest_on (fun _ => State.rest_ppsOut h.sub) _⟩

/-- Settles O53: the frames of the operations its commands run. -/
theorem eventAndEngineFrames : Obligations.EventAndEngineFrames := by
  unfold Obligations.EventAndEngineFrames
  intro s t
  exact ⟨
    fun _ => leavesIn_of_next (engineRegs ++ [Fld.accr_ACC_FRAMES, Fld.accr_ACC_PARTIAL_CNT, Fld.accr_PARTIAL, Fld.pfer_FE_EN,
      Fld.tdcr_DROP_ABORT]) rfl (by simp [engineOf, engineRegs]) fun _ h _ hr =>
      rest_on (fun _ => State.rest_feAbort h.sub hr.sub) _,
    fun _ => leavesIn_of_next (engineRegs ++ [Fld.accr_ACC_FRAMES, Fld.accr_ACC_PARTIAL_CNT, Fld.accr_PARTIAL,
      Fld.pfer_FE_FINAL, Fld.pfer_SAT_LAST]) rfl (by simp [engineOf, engineRegs]) fun _ h _ hr =>
      rest_on (fun _ => State.rest_frameDone h.sub hr.sub) _,
    fun _ => leavesIn_of_next (engineRegs ++ histRegs ++ [Fld.evb_EARLY_REL, Fld.evb_LATE_CNT, Fld.tdcr_DROP_ABORT,
      Fld.tdcr_DROP_AGE]) rfl (by simp [engineOf, engineRegs, histRegs]) fun _ h _ hr =>
      rest_on (fun _ => State.rest_readoutVisit h.sub hr.sub) _,
    fun _ => leavesIn_of_next (engineRegs ++ [Fld.tdcr_DROP_ABORT, Fld.tdcr_TDC_EN]) rfl (by simp [engineOf, engineRegs])
      fun _ h _ hr => rest_on (fun _ => State.rest_tdcAbort h.sub hr.sub) _,
    fun _ _ _ _ => leaves_of_next rfl fun _ h _ hr => rest_on (fun _ => State.rest_auxEdge h.sub (fun r => (hr r).sub) _ _ _ _)
      _,
    fun _ => leavesIn_of_next [] rfl (by simp) fun _ h _ hr => rest_on (fun _ => by
      split
      case h_1 u hu =>
        have hu' := State.rest_gateOpens h.sub hr.sub hu
        split
        · exact (rest_on (fun _ => State.rest_gateSource h.sub _ _) _).trans hu'
        · exact hu'
      case h_2 => rfl) _,
    fun _ => leavesIn_of_next [] rfl (by simp) fun _ h _ hr => rest_on (fun _ => State.rest_gateCloses h.sub hr.sub) _,
    fun _ => leavesIn_of_next (engineRegs ++ histRegs ++ [Fld.evb_EARLY_REL, Fld.evb_LATE_CNT]) rfl
      (by simp [engineOf, engineRegs, histRegs]) fun _ h _ hr => rest_on (fun _ => State.rest_wordRelease h.sub hr.sub) _,
    fun _ => leavesIn_of_next engineRegs rfl (by simp [engineOf, engineRegs]) fun _ h _ hr =>
      rest_on (fun _ => State.rest_tickClose h.sub hr.sub) _,
    fun _ => leavesIn_of_next (engineRegs ++ [Fld.hstr_HST_SAT]) rfl (by simp [engineOf, engineRegs]) fun _ h _ hr =>
      rest_on (fun _ => State.rest_dumpDone h.sub hr.sub) _,
    fun _ => leavesIn_of_next [] rfl (by simp) fun _ h _ _ => rest_on (fun _ => State.rest_headEmit h.sub _) _,
    fun _ => leavesIn_of_next engineRegs rfl (by simp [engineOf, engineRegs]) fun _ h _ hr =>
      rest_on (fun _ => State.rest_windowDone h.sub hr.sub) _,
    leaves_of_next rfl fun _ h _ _ => rest_on (fun _ => State.rest_trgInput h.sub _ _) _,
    leaves_of_next rfl fun _ h _ _ => rest_on (fun _ => State.rest_markSlate h.sub) _,
    leaves_of_next rfl fun _ h _ hr => rest_on (fun _ => by simp only [State.rest_rateNote h.sub (hr _).sub,
      State.rest_rateEval h.sub, rest_each, implies_true]) _,
    fun _ => leaves_of_next rfl fun _ h _ _ => rest_on (fun _ => State.rest_trgExpiry h.sub _) _,
    leaves_of_next rfl fun _ h _ _ => rest_on (fun _ => State.rest_mergeEnd h.sub) _,
    fun _ _ _ _ _ _ => leaves_of_next rfl fun _ h _ _ => rest_on (fun _ => rest_when (fun _ =>
      State.rest_trigRx h.sub _ _ (fun _ => rest_on (fun _ => rest_when (fun _ => by
        simp only [State.rest_reqIn h.sub, State.rest_trgSettle h.sub]) _) _)) _) _,
    leaves_of_next rfl fun _ h _ _ => rest_on (fun _ => State.rest_decide_ h.sub) _,
    fun _ _ _ _ _ => leaves_of_next rfl fun _ h _ _ => rest_on (fun _ => rest_when (fun _ =>
      State.rest_trigRx h.sub _ _ (fun _ => rest_on (fun _ => rest_when (fun _ => State.rest_decRx h.sub _) _) _)) _) _,
    leaves_of_next rfl fun _ h _ _ => rest_on (fun _ => State.rest_trigAction h.sub) _,
    fun _ => leaves_of_next rfl fun _ h _ _ => rest_on (fun _ => State.rest_pulseStart h.sub _) _,
    fun _ => leaves_of_next rfl fun _ h _ _ => rest_on (fun _ => State.rest_pulseEnd h.sub _) _,
    fun _ _ => leavesIn_of_next engineRegs rfl (by simp [engineOf, engineRegs]) fun _ h _ hr =>
      rest_on (fun _ => by simp only [State.rest_packFault h.sub, State.rest_chunkComplete h.sub hr.sub,
      State.rest_winRun h.sub, rest_when, implies_true]) _,
    fun _ _ => leavesIn_of_next [] rfl (by simp) fun _ h _ hr => rest_on (fun _ => State.rest_dynReady h.sub hr.sub _) _,
    fun _ => leavesIn_of_next (engineRegs ++ [Fld.cmpr_FORCED]) rfl (by simp [engineOf, engineRegs]) fun _ h _ hr =>
      rest_on (fun _ => State.rest_stallLimit h.sub hr.sub) _,
    fun _ => leavesIn_of_next (engineRegs ++ [Fld.accr_ACC_FRAMES, Fld.accr_ACC_PARTIAL_CNT, Fld.accr_PARTIAL,
      Fld.accr_SUB_IDX, Fld.pfer_FE_EN, Fld.pfer_INJ_EN, Fld.tdcr_DROP_ABORT, Fld.tdcr_TDC_EN]) rfl
      (by simp [engineOf, engineRegs]) fun _ h _ hr => rest_on (fun _ => State.rest_regionAbort h.sub hr.sub) _,
    fun _ => leaves_of_next rfl fun _ h _ hr => rest_on (fun _ => State.rest_regionsAbort h.sub (fun r => (hr r).sub) _) _,
    fun _ _ => leavesIn_of_next [.cmpr_CTX_IDX] rfl (by simp) fun _ h ho hr =>
      rest_on (fun _ => State.rest_ctxRead h.sub hr.sub (ho.of h (by simp)) _) _,
    fun _ _ => leavesIn_of_next [.cmpr_CFG_ERR, .cmpr_CTX_IDX] rfl (by simp) fun _ h _ hr =>
      rest_on (fun _ => State.rest_ctxWrite h.sub hr.sub _ _) _,
    fun _ => leavesIn_of_next [.cmpr_CFG_ERR, .cmpr_CTX_LOAD_BUSY] rfl (by simp) fun _ h _ hr =>
      rest_on (fun _ => State.rest_ctxLoad h.sub hr.sub) _,
    fun _ => leaves_of_next rfl fun _ h _ hr => rest_on (fun _ => State.rest_grantAvailable h.sub (fun r => (hr r).sub) _) _,
    leaves_of_next rfl fun _ h _ _ => rest_on (fun _ => State.rest_patchAccept h.sub) _,
    fun _ => leaves_of_next rfl fun _ h _ _ => rest_on (fun _ => by simp only [State.rest_holdLimit h.sub,
      State.rest_sweep h.sub]) _,
    fun _ _ _ => leaves_of_next rfl fun _ h _ _ => rest_on (fun _ => State.rest_fabricRead h.sub _ _ _) _⟩

/-- Settles O54: the frames of the operations its commands run, and the bytes of a group by the homes of its lines. -/
theorem storeFrames : Obligations.StoreFrames := by
  unfold Obligations.StoreFrames
  intro s t
  exact ⟨
    fun _ _ => leaves_of_next rfl fun _ h _ _ => rest_on (fun _ => by simp only [State.rest_groupWrite h.sub,
      State.rest_cabPull h.sub, State.rest_winPump h.sub]) _,
    fun _ => leaves_of_next rfl fun _ h _ _ => rest_on (fun _ => by simp only [State.rest_flip h.sub,
      State.rest_mergeDone h.sub]) _,
    leaves_of_next rfl fun _ h _ _ => rest_on (fun _ => by simp only [State.rest_cabCmd, State.rest_shelfDef h.sub,
      implies_true]) _,
    leaves_of_next rfl fun _ h _ _ => rest_on (fun _ => by simp only [State.rest_cabCmd, State.rest_shelfDel h.sub,
      implies_true]) _,
    leaves_of_next rfl fun _ h _ _ => rest_on (fun _ => by simp only [State.rest_cabCmd, State.rest_reelDef h.sub,
      implies_true]) _,
    leaves_of_next rfl fun _ h _ _ => rest_on (fun _ => by simp only [State.rest_cabCmd, State.rest_reelDel h.sub,
      implies_true]) _,
    leaves_of_next rfl fun _ h _ _ => rest_on (fun _ => by simp only [State.rest_cabCmd, State.rest_reelClear h.sub,
      implies_true]) _,
    leaves_of_next rfl fun _ h _ _ => rest_on (fun _ => by simp only [State.rest_cabCmd, State.rest_takeStart h.sub,
      implies_true]) _,
    leaves_of_next rfl fun _ h _ _ => rest_on (fun _ => by simp only [State.rest_cabCmd, State.rest_takeStop h.sub,
      implies_true]) _,
    leaves_of_next rfl fun _ h _ _ => rest_on (fun _ => by simp only [State.rest_cabCmd, State.rest_takeRelease h.sub,
      implies_true]) _,
    leaves_of_next rfl fun _ h _ _ => rest_on (fun _ => by simp only [State.rest_cabCmd, State.rest_takeDelete h.sub,
      implies_true]) _,
    leaves_of_next rfl fun _ h _ _ => rest_on (fun _ => by simp only [State.rest_cabCmd, State.rest_dirRead h.sub,
      implies_true]) _,
    leaves_of_next rfl fun _ h _ _ => rest_on (fun _ => State.rest_cmdReserved h.sub) _,
    leaves_of_next rfl fun _ h _ _ => rest_on (fun _ => State.rest_oflStart h.sub) _,
    leaves_of_next rfl fun _ h _ _ => rest_on (fun _ => State.rest_oflAbort h.sub) _,
    leaves_of_next rfl fun _ h _ _ => rest_on (fun _ => State.rest_oflPump h.sub) _,
    fun _ _ => leaves_of_next rfl fun _ h _ _ => rest_on (fun _ => State.rest_scrubGroup h.sub _ _) _,
    leaves_of_next rfl fun _ h _ _ => rest_on (fun _ => State.rest_repairRun h.sub) _,
    fun _ => leaves_of_next rfl fun _ h _ _ => rest_on (fun _ => State.rest_repairDone h.sub _) _,
    fun _ => leaves_of_next rfl fun _ h _ hr => rest_on (fun _ => State.rest_sramScrub h.sub (fun r => (hr r).sub) _) _,
    by
      intro prod reel w r x h g0 b hw hr hf hb hx _ he
      refine ⟨_, rfl, fun a ha => ?_⟩
      have hk : BytesKept (fun q => ∃ i < h.gl, q ∈ s.homes (g0 + i)) (s.at t) ((s.at t).groupWrite prod reel) :=
        .groupWrite hw hr hf hb hx he fun i hi _ hq => ⟨i, hi, hq⟩
      exact hk.groupWriteOn _ a fun ⟨i, hi, hq⟩ => ha i hi hq⟩

/-- Settles O55: the frames of the operations its commands run; without a WARM reset that waits FRAME_TX settles nothing. -/
theorem linkFrames : Obligations.LinkFrames := by
  unfold Obligations.LinkFrames
  intro s t
  exact ⟨
    fun _ _ => leaves_of_next rfl fun _ h _ _ => rest_on (fun _ => rest_when (fun _ => State.rest_rateSwitch h.sub _ _) _) _,
    fun _ _ => leaves_of_next rfl fun _ h ho _ => rest_on (fun _ => rest_when
      (fun _ => State.rest_blockLock h.sub (ho.of h (by simp)) (ho.of h (by simp))) _) _,
    fun _ _ => leaves_of_next rfl fun _ h _ _ => rest_on (fun _ => rest_when (fun _ => State.rest_lockLoss h.sub _ _) _) _,
    fun _ _ => leaves_of_next rfl fun _ h _ _ => rest_on (fun _ => rest_when (fun _ => State.rest_laneLoss h.sub _ _ _) _) _,
    fun _ _ => leaves_of_next rfl fun _ h _ _ => rest_on (fun _ => rest_when (fun _ => State.rest_signalBack h.sub _ _) _) _,
    fun _ _ _ hw => leaves_of_next ((if_pos (of_decide_eq_true (Bool.and_eq_true_iff.1 hw).2)).trans rfl) fun _ h ho _ =>
      rest_on (fun _ => rest_when (fun _ => State.rest_lineBlock h.sub (ho.of h (by simp)) (ho.of h (by simp)) _) _) _,
    fun _ _ _ _ => leaves_of_next rfl fun _ h ho _ => rest_on (fun _ =>
      rest_when (fun _ => State.rest_fillRx h.sub (ho.of h (by simp)) _ _ _) _) _,
    fun _ _ => leaves_of_next rfl fun _ h ho _ => rest_on (fun _ => rest_when
      (fun _ => State.rest_helloTx h.sub (ho.of h (by simp)) (ho.of h (by simp))) _) _,
    fun _ _ h => leaves_of_next rfl fun _ h ho _ => rest_on (fun _ => rest_when
      (fun _ => State.rest_helloRx h.sub (ho.of h (by simp)) (ho.of h (by simp)) (ho.of h (by simp)) _) _) _,
    fun _ _ => leaves_of_next rfl fun _ h ho _ => rest_on (fun _ => rest_when
      (fun _ => State.rest_revSwitch h.sub (ho.of h (by simp)) (ho.of h (by simp)) (ho.of h (by simp))) _) _,
    fun _ _ => leaves_of_next rfl fun _ h _ _ => rest_on (fun _ => rest_when (fun _ => State.rest_helloTimeout h.sub _ _) _) _,
    fun _ _ _ => leaves_of_next rfl fun _ h _ _ => rest_on (fun _ => rest_when (fun _ => State.rest_trainRx h.sub _ _ _) _) _,
    fun _ _ => leaves_of_next rfl fun _ h _ _ => rest_on (fun _ => rest_when (fun _ => State.rest_rxReady h.sub _ _) _) _,
    fun _ _ => leaves_of_next rfl fun _ h _ _ => rest_on (fun _ => rest_when (fun _ => State.rest_trainTimeout h.sub _ _) _) _,
    fun _ _ _ _ => leaves_of_next rfl fun _ h _ _ => rest_on (fun _ => rest_when (fun _ => State.rest_sweepStep h.sub _ _ _ _)
      _) _,
    fun _ => leaves_of_next rfl fun _ h _ _ => rest_on (fun _ => State.rest_alignTx h.sub _) _,
    fun _ _ _ _ => leaves_of_next rfl fun _ h _ _ => rest_on (fun _ => rest_when (fun _ => State.rest_alignRx h.sub _ _ _ _) _)
      _,
    fun _ _ => leaves_of_next rfl fun _ h ho _ => rest_on (fun _ => rest_when
      (fun _ => State.rest_backoffDone h.sub (ho.of h (by simp)) (ho.of h (by simp)) (ho.of h (by simp))) _) _,
    fun _ _ => leaves_of_next rfl fun _ h _ _ => rest_on (fun _ => rest_when (fun _ => State.rest_relockTimeout h.sub _ _) _) _,
    fun _ hw => leaves_of_next_pmr (by decide) rfl fun _ h hn => by
      refine rest_on_at ?_ _
      exact rest_warmSettle (State.rest_frameTx h.sub _) hn hw,
    fun _ _ => brings_of_rest rfl (rest_on (fun _ =>
      (State.rest_warmSettle_kept).trans (State.rest_frameTx (Foot.allBut_may (by decide)) _)) _),
    fun _ _ hw => leaves_of_next ((if_pos (of_decide_eq_true (Bool.and_eq_true_iff.1 hw).1)).trans rfl) fun _ h _ _ =>
      rest_on (fun _ => State.rest_frameRx h.sub _ _) _,
    fun _ _ => leaves_of_next rfl fun _ h _ _ => rest_on (fun _ => rest_when (fun _ => State.rest_lnkAck h.sub _ _) _) _,
    fun _ _ => leaves_of_next rfl fun _ h _ _ => rest_on (fun _ => State.rest_nakRx h.sub _ _) _,
    fun _ => leaves_of_next rfl fun _ h _ _ => rest_on (fun _ => State.rest_ackTx h.sub _) _,
    fun _ => leaves_of_next rfl fun _ h _ _ => rest_on (fun _ => State.rest_replayTimeout h.sub _) _,
    fun _ => leaves_of_next rfl fun _ h _ _ => rest_on (fun _ => State.rest_heartTx h.sub _) _,
    fun _ h => leaves_of_next rfl fun _ h _ _ => rest_on (fun _ => State.rest_heartRx h.sub _ _) _,
    fun _ => leaves_of_next rfl fun _ h _ _ => rest_on (fun _ => State.rest_silent h.sub _) _,
    fun _ => leaves_of_next rfl fun _ h ho _ => rest_on (fun _ => State.rest_trigResend h.sub (ho.of h (by simp))) _,
    fun _ _ _ => leaves_of_next rfl fun _ h _ _ => rest_on (fun _ => rest_when (fun _ => State.rest_restripeRx h.sub _ _ _) _)
      _,
    fun _ => leaves_of_next rfl fun _ h _ _ => rest_on (fun _ => State.rest_laneRejoin h.sub _) _,
    fun _ => leaves_of_next rfl fun _ h _ _ => rest_on (fun _ => State.rest_portAbort h.sub _) _,
    fun _ _ => leaves_of_next rfl fun _ h _ _ => rest_on (fun _ => State.rest_retrain h.sub _ _) _⟩

/-- Settles O56: the frames of the operations its commands run; without a WARM reset that waits the replies settle nothing. -/
theorem treeFrames : Obligations.TreeFrames := by
  unfold Obligations.TreeFrames
  intro s t
  exact ⟨
    fun _ _ _ _ _ _ => leaves_of_next rfl fun _ h _ _ => rest_on (fun _ =>
      rest_when (fun _ => State.rest_enumRx h.sub _ _ _ _ _ _) _) _,
    fun _ _ _ _ _ _ _ => leaves_of_next rfl fun _ h _ _ => rest_on (fun _ =>
      rest_when (fun _ => State.rest_enumReplyRx h.sub _ _ _ _ _ _ _) _) _,
    leaves_of_next rfl fun _ h _ _ => rest_on (fun _ => State.rest_replyTimeout h.sub) _,
    leaves_of_next rfl fun _ h _ _ => rest_on (fun _ => State.rest_enumWait h.sub) _,
    leaves_of_next rfl fun _ h _ _ => rest_on (fun _ => State.rest_enumStart h.sub) _,
    fun _ _ => leaves_of_next rfl fun _ h _ _ => rest_on (fun _ => rest_when (fun _ => State.rest_claimRx h.sub _ _) _) _,
    fun _ _ _ _ => leaves_of_next rfl fun _ h _ _ => rest_on (fun _ => rest_when (fun _ => State.rest_claimAckRx h.sub _ _ _ _)
      _) _,
    fun _ _ => leaves_of_next rfl fun _ h _ _ => rest_on (fun _ => rest_when (fun _ => State.rest_lostRx h.sub _ _) _) _,
    leaves_of_next rfl fun _ h _ _ => rest_on (fun _ => State.rest_lostTimeout h.sub) _,
    fun _ _ => leaves_of_next rfl fun _ h _ _ => rest_on (fun _ => rest_when (fun _ => State.rest_demoteRx h.sub _ _) _) _,
    fun _ _ _ => leaves_of_next rfl fun _ h _ _ => rest_on (fun _ => rest_when (fun _ => State.rest_stbyRx h.sub _ _ _) _) _,
    fun _ _ _ _ _ hw => leaves_of_next ((if_pos (of_decide_eq_true (Bool.and_eq_true_iff.1 hw).1)).trans rfl) fun _ h _ _ =>
      rest_on (fun _ => rest_when (fun _ => State.rest_horizonRx h.sub _ _ _ _ _) _) _,
    leaves_of_next rfl fun _ h _ _ => rest_on (fun _ => by simp only [State.rest_rxPumps h.sub,
      State.rest_horizonAdvance h.sub, State.rest_treDrained h.sub]) _,
    fun _ => leaves_of_next rfl fun _ h _ _ => rest_on (fun _ => State.rest_giveUp h.sub _) _,
    fun _ => leaves_of_next rfl fun _ h _ _ => rest_on (fun _ => rest_when (fun _ => State.rest_heldDelivery h.sub _) _) _,
    fun _ => leaves_of_next rfl fun _ h _ _ => rest_on (fun _ => rest_when (fun _ => State.rest_confirmTx h.sub _) _) _,
    fun _ _ => leaves_of_next rfl fun _ h _ _ => rest_on (fun _ => rest_when (fun _ => State.rest_confirmRx h.sub _ _) _) _,
    fun _ _ _ _ => leaves_of_next rfl fun _ h _ _ => rest_on (fun _ => rest_when (fun _ => State.rest_topoRx h.sub _ _ _ _) _)
      _,
    fun _ _ _ => leaves_of_next rfl fun _ h _ _ => rest_on (fun _ => rest_when (fun _ => State.rest_featRx h.sub _ _) _) _,
    fun _ _ => leaves_of_next rfl fun _ h _ _ => rest_on (fun _ => by simp only [State.rest_claimReq h.sub, rest_ite,
      ite_self]) _,
    fun _ => leaves_of_next rfl fun _ h _ _ => rest_on (fun _ => State.rest_roleSw h.sub _) _,
    fun _ _ hw => leaves_of_next_pmr (by decide) rfl fun _ h hn => by
      refine rest_on_at ?_ _
      refine rest_when_at ?_ _
      refine rest_when_at ?_ _
      exact rest_warmSettle (State.rest_relayGather h.sub _) hn hw,
    fun _ _ _ => brings_of_rest rfl (rest_on (fun _ => rest_when (fun _ => rest_when (fun _ =>
      (State.rest_warmSettle_kept).trans (State.rest_relayGather (Foot.allBut_may (by decide)) _)) _) _) _),
    fun _ hw => leaves_of_next_pmr (by decide) rfl fun _ h hn => by
      refine rest_on_at ?_ _
      refine rest_when_at ?_ _
      exact rest_warmSettle (State.rest_relayTimeout h.sub _) hn hw,
    fun _ _ => brings_of_rest rfl (rest_on (fun _ => rest_when (fun _ =>
      (State.rest_warmSettle_kept).trans (State.rest_relayTimeout (Foot.allBut_may (by decide)) _)) _) _)⟩

/-- Settles O57: the frames of the operations its commands run. -/
theorem hostFrames : Obligations.HostFrames := by
  unfold Obligations.HostFrames
  intro s t
  exact ⟨
    leaves_of_next rfl fun _ h _ _ => rest_on (fun _ => rest_when (fun _ => State.rest_linkUpEth h.sub) _) _,
    leaves_of_next rfl fun _ h _ _ => rest_on (fun _ => by simp only [State.wrB_eq, rest_wr .eth_LINK_UP h.sub]) _,
    fun _ => leaves_of_next rfl fun _ h _ _ => rest_on (fun _ => State.rest_ethFrameRx h.sub _) _,
    fun _ _ _ _ => leaves_of_next rfl fun _ h _ _ => rest_on (fun _ => State.rest_arpRx h.sub _ _ _ _) _,
    fun _ => leaves_of_next rfl fun _ h _ _ => rest_on (fun _ => State.rest_arpTimeout h.sub _) _,
    fun _ => leaves_of_next rfl fun _ h _ _ => rest_on (fun _ => State.rest_arpRefresh h.sub _) _,
    fun _ => leaves_of_next rfl fun _ h _ _ => rest_on (fun _ => State.rest_resolveRetry h.sub _) _,
    fun _ => leaves_of_next rfl fun _ h _ _ => rest_on (fun _ => State.rest_dhcpRx h.sub _) _,
    leaves_of_next rfl fun _ h _ _ => rest_on (fun _ => rest_when (fun _ => State.rest_renew h.sub _) _) _,
    leaves_of_next rfl fun _ h _ _ => rest_on (fun _ => rest_when (fun _ => State.rest_renew h.sub _) _) _,
    leaves_of_next rfl fun _ h _ _ => rest_on (fun _ => rest_when (fun _ =>
      by simp only [State.rest_dropIp h.sub, State.rest_solicit h.sub]) _) _,
    fun _ _ => leaves_of_next rfl fun _ h _ _ => rest_on (fun _ => State.rest_icmpRx h.sub _ _) _,
    fun _ _ => leaves_of_next rfl fun _ h _ _ => rest_on (fun _ => State.rest_pfcRx h.sub _ _) _,
    leaves_of_next rfl fun _ h _ _ => rest_on (fun _ => State.rest_pfcEnd h.sub) _,
    fun _ => leaves_of_next rfl fun _ h _ _ => rest_on (fun _ => State.rest_messageTx h.sub _) _,
    fun _ _ => leaves_of_next rfl fun _ h _ _ => rest_on (fun _ => State.rest_ackRx h.sub _ _) _,
    fun _ _ _ => leaves_of_next rfl fun _ h _ _ => rest_on (fun _ => State.rest_roceNak h.sub _ _ _) _,
    fun _ => leaves_of_next rfl fun _ h _ _ => rest_on (fun _ => State.rest_ackTmo h.sub _) _,
    fun _ => leaves_of_next rfl fun _ h _ _ => rest_on (fun _ => State.rest_rnrEnd h.sub _) _,
    fun _ => leaves_of_next rfl fun _ h _ _ => rest_on (fun _ => State.rest_cnpRx h.sub _) _,
    fun _ => leaves_of_next rfl fun _ h _ _ => rest_on (fun _ => State.rest_rateUp h.sub _) _,
    fun _ _ => leaves_of_next rfl fun _ h _ _ => rest_on (fun _ => State.rest_ciWrite h.sub _ _) _,
    fun _ => leaves_of_next rfl fun _ h _ _ => rest_on (fun _ => State.rest_qpAbort h.sub _) _,
    fun h _ _ => leaves_of_next rfl fun _ h _ _ => rest_when (fun _ => by simp only [State.rest_thbTake h.sub,
      State.rest_openMsg h.sub, State.rest_authFail h.sub, rest_ite, ite_self]) _,
    fun _ => leaves_of_next rfl fun _ h _ _ => rest_when (fun _ => by
      dsimp only
      split
      · simp only [rest_out h.sub, State.rest_sessClose h.sub, State.rest_thbTake h.sub]
      · simp only [State.rest_authFail h.sub, State.rest_thbTake h.sub]) _,
    fun _ => leaves_of_next rfl fun _ h _ _ => rest_on (fun _ => by split <;> simp only [State.rest_sessClose h.sub, rest_ite,
      ite_self]) _,
    fun _ => leaves_of_next rfl fun _ h _ _ => rest_on (fun _ => State.rest_provision h.sub _) _,
    fun _ => leaves_of_next rfl fun _ h _ _ => rest_on (fun _ => State.rest_fwBegin h.sub _) _,
    fun _ => leaves_of_next rfl fun _ h _ _ => rest_on (fun _ => State.rest_fwErased h.sub _) _,
    fun _ => leaves_of_next rfl fun _ h _ _ => rest_on (fun _ => State.rest_fwVerify h.sub _) _,
    fun _ => leaves_of_next rfl fun _ h _ _ => rest_on (fun _ => State.rest_fwVerified h.sub _) _,
    fun _ => leaves_of_next rfl fun _ h _ _ => rest_on (fun _ => State.rest_fwAbort h.sub _) _,
    fun _ => leaves_of_next rfl fun _ h _ _ => rest_on (fun _ => State.rest_fwActivate h.sub _) _,
    fun _ => leaves_of_next rfl fun _ h _ _ => rest_on (fun _ => State.rest_fwConfirm h.sub _) _⟩

/-- Settles O58: the frames of the operations its commands run. -/
theorem housekeepingAndFaultFrames : Obligations.HousekeepingAndFaultFrames := by
  unfold Obligations.HousekeepingAndFaultFrames
  intro s t
  exact ⟨
    fun _ => leaves_of_next rfl fun _ h _ _ => rest_on (fun _ => State.rest_hkaScan h.sub _) _,
    leaves_of_next rfl fun _ h _ _ => rest_on (fun _ => State.rest_rtdReversal h.sub) _,
    leaves_of_next rfl fun _ h _ _ => rest_on (fun _ => State.rest_rtdPeriodEnd h.sub) _,
    fun _ => leaves_of_next rfl fun _ h _ _ => rest_on (fun _ => State.rest_rtdMonitor h.sub _) _,
    leaves_of_next rfl fun _ h _ _ => rest_on (fun _ => State.rest_calReq h.sub) _,
    leaves_of_next rfl fun _ h _ _ => rest_on (fun _ => State.rest_calPeriodic h.sub) _,
    fun _ => leaves_of_next rfl fun _ h _ _ => rest_on (fun _ => State.rest_calDone h.sub _) _,
    leaves_of_next rfl fun _ h _ _ => rest_on (fun _ => State.rest_injReq h.sub) _,
    fun _ => leaves_of_next rfl fun _ h _ _ => rest_on (fun _ => State.rest_injDone h.sub _) _,
    leaves_of_next rfl fun _ h _ _ => rest_on (fun _ => State.rest_tecStart h.sub) _,
    leaves_of_next rfl fun _ h _ _ => rest_on (fun _ => State.rest_shadowExpiry h.sub) _,
    fun _ => leaves_of_next rfl fun _ h _ _ => rest_on (fun _ => State.rest_ackMask h.sub _ _) _,
    fun _ => leaves_of_next rfl fun _ h _ _ => rest_on (fun _ => State.rest_ackMask h.sub _ _) _,
    fun _ _ => leaves_of_next rfl fun _ h _ _ => rest_on (fun _ => State.rest_clrMask h.sub _ _ _) _,
    fun _ _ => leaves_of_next rfl fun _ h _ _ => rest_on (fun _ => State.rest_clrMask h.sub _ _ _) _,
    leaves_of_next rfl fun _ h _ _ => rest_on (fun _ => State.rest_injGo h.sub) _,
    fun _ => leaves_of_next rfl fun _ h _ _ => rest_on (fun _ => State.rest_resyncDone h.sub _) _,
    leaves_of_next rfl fun _ h _ _ => rest_on (fun _ => State.rest_coreRestart h.sub) _⟩

end Sys2Proof.Machine
end

/-! ### Accesses to the register space: what a word written, a word read and the end of an access leave as they were
  (R349 to R360) -/

section
namespace Sys2Proof.Machine

open Sys2Proof Safety

set_option Elab.async false

variable {F : Foot} {s u : State} {a : Accessor} {addr v p o n base : Nat} {f : Fld} {i : Nat}

/-! #### The end of an access (R291, R341) -/

theorem State.rest_keySettle (h : F.may [.ctl] sessRegs) : rest F s.keySettle = rest F s := by
  unfold State.keySettle
  extract_lets m s1
  refine (State.rest_ctlUpd h.sub _).trans (rest_each (fun k x => ?_) _)
  split
  · exact rest_ite_eq (State.rest_sessClose h.sub _) (rest_wr .ctl_SESS_LEVEL h.sub _ _)
  · rfl

theorem State.pmr_keySettle : s.keySettle.pmr = s.pmr :=
  (rest_eq_iff.1 (State.rest_keySettle (F := Foot.allBut [.pmr]) (Foot.allBut_may (by decide)))).parts .pmr
    (not_not.2 (by decide))

theorem State.settle_of_none (hw : s.pmr.warm = none) : s.settle = s.keySettle := by
  simp only [State.settle, State.warmSettle, State.pmr_keySettle, hw]

/-- The registers, and no part of the state. -/
def Foot.regs : Foot := ⟨fun _ => False, fun _ _ => True, fun _ => True⟩

theorem Foot.regs_may {fs : List Fld} : Foot.regs.may [] fs := ⟨fun _ hx => absurd hx List.not_mem_nil, fun _ _ _ => trivial⟩

theorem ctl_of_regs (h : rest Foot.regs u = rest Foot.regs s) : u.ctl = s.ctl := (rest_eq_iff.1 h).parts .ctl not_false

theorem State.ctlUpd_closing (h : s.ctl.closing = 0) : s.ctlUpd (fun c => { c with closing := 0 }) = s := by
  have hc : { s.ctl with closing := 0 } = s.ctl := by rw [← h]
  simp only [State.ctlUpd, hc]

/-- With no slot changed, the end of an access is the sessions' levels alone. -/
theorem State.rest_keySettle_quiet (h : F.may [] [.ctl_SESS_LEVEL]) (hc : s.ctl.closing = 0) :
    rest F s.keySettle = rest F s := by
  unfold State.keySettle
  extract_lets m s1
  have h1 (G : Foot) (hG : G.may [] [.ctl_SESS_LEVEL]) : rest G s1 = rest G s := rest_each (fun k x => by
    split
    · rw [if_neg (by simp [m, hc, bit])]
      exact rest_wr .ctl_SESS_LEVEL hG _ _
    · rfl) _
  rw [State.ctlUpd_closing (by rw [ctl_of_regs (h1 _ Foot.regs_may), hc]), h1 F h]

/-- An access that leaves no slot changed and no WARM reset waiting. -/
theorem State.rest_settle_quiet (h : F.may [] [.ctl_SESS_LEVEL]) (hw : s.pmr.warm = none) (hc : s.ctl.closing = 0) :
    rest F s.settle = rest F s := by
  rw [State.settle_of_none hw, State.rest_keySettle_quiet h hc]

theorem State.rest_settle (h : F.may [.ctl] sessRegs) (hw : s.pmr.warm = none) : rest F s.settle = rest F s := by
  rw [State.settle_of_none hw, State.rest_keySettle h]

/-! #### An accessor that reaches its page (R346, R354, R360) -/

/-- A block stays out of reset as time goes on, so that a page stays in reach. -/
theorem reaches_at (h : Reaches s a p) (t : Nat) : Reaches (s.at t) a p := by
  obtain ⟨hm, hp, hw, hc⟩ := h
  refine ⟨?_, ?_, hw, hc⟩
  · unfold State.mayAccess at hm ⊢
    by_cases h9 : ((Accessor.eff a).who == 9) = true
    · rw [if_pos h9] at hm ⊢
      exact hm
    · rw [if_neg h9] at hm ⊢
      obtain ⟨ha, hd⟩ := Bool.and_eq_true_iff.1 hm
      simp only [State.alive_at t ha, State.flt_at, hd, Bool.and_self]
  · unfold State.pageAlive at hp ⊢
    cases hb : Blk.ofIdx (p / 17) with
    | none => simp [hb] at hp
    | some b => simpa [hb] using State.alive_at t (by simpa [hb] using hp)

theorem State.poke_of_reaches (h : Reaches s a p) : s.poke a addr v = (s.writeOp s (Accessor.eff a) false addr [v]).1.settle :=
    by
  obtain ⟨hm, -⟩ := h
  simp only [State.poke, State.access, hm, if_true]

theorem State.opErr_of_mask (hb : addrBad false addr 1 = false) (hv : addrView addr = false)
    (ha : s.pageAlive (addrPg addr) = true) :
    s.opErr s a false true addr 1 = if bit (s.rd .hdr_WR_MASK (addrPg addr)) a.lvl then 0 else 1 := by
  simp [State.opErr, hb, hv, ha]

theorem State.writeOp_one (ha : s.pageAlive (addrPg addr) = true) : (s.writeOp s a false addr [v]).1 =
    if s.opErr s a false true addr 1 ≠ 0 then s.denied (addrPg addr) (s.opErr s a false true addr 1)
    else (s.writeWord a (addrPg addr) (addrOff addr) (v % 2 ^ 32)).1.denied (addrPg addr)
      (s.writeWord a (addrPg addr) (addrOff addr) (v % 2 ^ 32)).2 := by
  unfold State.writeOp
  simp only [List.length_singleton]
  split
  · rfl
  · simp [ha, wordOff]

theorem State.rest_denied {st : Nat} (h : F.mayOf p [.hdr_DENY_CNT]) : rest F (s.denied p st) = rest F s := by
  unfold State.denied
  exact rest_ite_eq (rest_wrOf .hdr_DENY_CNT h _) rfl

theorem State.denied_zero : s.denied p 0 = s := by
  simp [State.denied]

/-- A word of a page whose refusals may be counted. -/
theorem State.rest_writeOp_one (ha : s.pageAlive (addrPg addr) = true) (hd : F.mayOf (addrPg addr) [.hdr_DENY_CNT])
    (hy : rest F (s.writeWord a (addrPg addr) (addrOff addr) (v % 2 ^ 32)).1 = rest F s) :
    rest F (s.writeOp s a false addr [v]).1 = rest F s := by
  rw [State.writeOp_one ha]
  exact rest_ite_eq (State.rest_denied hd) ((State.rest_denied hd).trans hy)

/-! #### Fields written (R6, R7, R356) -/

/-- A plain field written (R6): an RW field at once, an RWC field in its shadow, a W1C field where the value has a 1. -/
def State.plainWrite (s : State) (f : Fld) (i v : Nat) : State :=
  match f.desc.acc with
  | .rw => s.wr f i v
  | .rwc => (s.wrSh f i v).wrB .hdr_SHADOW_DIRTY (f.pageOf i) true
  | .w1c => s.wr f i (s.rd f i - (s.rd f i &&& v))
  | _ => s

theorem State.rwWrite_plain (hp : plain s f = true) (hf : f ≠ .lnk_CLAP_VIEW) (ha : f.desc.acc = .rw) :
    s.rwWrite a f i v = (s.wr f i v, 0) := by
  simp only [plain, ha, Bool.and_eq_true, Bool.not_eq_true', List.contains_eq_mem, decide_eq_false_iff_not] at hp
  obtain ⟨-, hn⟩ := hp
  unfold State.rwWrite
  split <;> simp_all

theorem State.rwcWrite_plain (hp : plain s f = true) (ha : f.desc.acc = .rwc) :
    s.rwcWrite f i v = (s.wrSh f i v).wrB .hdr_SHADOW_DIRTY (f.pageOf i) true := by
  simp only [plain, ha, Bool.and_eq_true, bne_iff_ne, Bool.or_eq_true, Bool.not_eq_true'] at hp
  obtain ⟨-, ⟨hm, ho⟩, hr⟩ := hp
  unfold State.rwcWrite
  rw [if_neg hm, if_neg ho, if_neg]
  simpa using fun h => hr.resolve_left (by simp [h])

theorem State.fieldWrite_plain (hp : plain s f = true) (hf : f ≠ .lnk_CLAP_VIEW) :
    s.fieldWrite a f i v = (s.plainWrite f i v, 0) := by
  have h0 := hp
  simp only [plain, Bool.and_eq_true, Bool.not_eq_true', List.isEmpty_iff] at h0
  obtain ⟨⟨ho, hr⟩, ht⟩ := h0
  unfold State.fieldWrite State.plainWrite
  rw [ho, hr]
  cases ha : f.desc.acc with
  | ro => rfl
  | rw => simp [State.rwWrite_plain hp hf ha]
  | rwc => simp [State.rwcWrite_plain hp ha]
  | w1c => rfl
  | wo => simp [ha] at ht
  | w1s => simp [ha] at ht

theorem State.rest_plainWrite (hf : F.fld f i) (hd : F.fld .hdr_SHADOW_DIRTY (f.pageOf i)) :
    rest F (s.plainWrite f i v) = rest F s := by
  unfold State.plainWrite
  split
  · exact rest_wr_of hf _
  · exact (rest_wr_of hd _).trans (rest_wrSh_of hf _)
  · exact rest_wr_of hf _
  · rfl

/-- ROLE is the module's own to write, so that a plain write moves no root. -/
theorem State.isRoot_plainWrite : (s.plainWrite f i v).isRoot = s.isRoot := by
  have hw (x : State) (g : Fld) (j w : Nat) (hg : g ≠ .tre_ROLE) : (x.wr g j w).isRoot = x.isRoot := by
    simp [State.isRoot, State.rd_wr, hg]
  have hr (hf : f.desc.acc ≠ .ro) : f ≠ .tre_ROLE := fun e => hf (e ▸ rfl)
  unfold State.plainWrite
  split
  next h => exact hw _ _ _ _ (hr (by simp [h]))
  next h => exact hw _ _ _ _ (by decide)
  next h => exact hw _ _ _ _ (hr (by simp [h]))
  next => rfl

theorem plain_congr (h : u.isRoot = s.isRoot) : plain u f = plain s f := by
  simp only [plain, h]

/-- Every field of l is one that a write changes alone. -/
def Plain (s : State) (l : List (Fld × Nat)) : Prop := ∀ x ∈ l, plain s x.1 = true ∧ x.1 ≠ .lnk_CLAP_VIEW

theorem State.fieldsWrite_plain {l : List (Fld × Nat)} (hl : Plain s l) (hf : F.has l)
    (hd : ∀ x ∈ l, F.fld .hdr_SHADOW_DIRTY (x.1.pageOf x.2)) :
    rest F (s.fieldsWrite a l v o).1 = rest F s ∧ (s.fieldsWrite a l v o).2 = 0 := by
  unfold State.fieldsWrite
  have hm : ∀ x ∈ (List.range 3).flatMap (fun ph => l.filter (fun x => x.1.phase == ph)), x ∈ l := fun x hx => by
    obtain ⟨_, _, hx⟩ := List.mem_flatMap.1 hx
    exact List.mem_of_mem_filter hx
  revert hm
  generalize (List.range 3).flatMap (fun ph => l.filter (fun x => x.1.phase == ph)) = m
  intro hm
  induction m generalizing s with
  | nil => exact ⟨rfl, rfl⟩
  | cons x m ih =>
    have hx := hm x List.mem_cons_self
    obtain ⟨hp, hn⟩ := hl x hx
    rw [List.foldl_cons]
    simp only [State.fieldWrite_plain hp hn, if_true]
    obtain ⟨h1, h2⟩ := ih (fun y hy => ⟨(plain_congr State.isRoot_plainWrite).trans (hl y hy).1, (hl y hy).2⟩)
      fun y hy => hm y (List.mem_cons_of_mem x hy)
    exact ⟨h1.trans (State.rest_plainWrite (hf x hx) (hd x hx)), h2⟩

/-! #### The fields of a word (R347) -/

theorem isHdr_of_mem (h : f ∈ hdrFields) : f.isHdr = true := List.contains_iff_mem.2 h

theorem pageFields_spec (r : Bool) (b : Blk) : ∀ f ∈ pageFields r b, f.isHdr = false ∧ f.desc.blk = b ∧ f.desc.region = r := by
  cases r <;> cases b <;> decide +kernel

theorem Blk.idx_of_ofIdx {b : Blk} (h : Blk.ofIdx n = some b) : b.idx = n := by
  unfold Blk.ofIdx at h
  split at h <;> simp_all <;> subst h <;> rfl

theorem mem_slotsIn {x : Fld × Nat} (h : x ∈ slotsIn p o n) : (x.1 ∈ hdrFields ∧ x.2 = p) ∨
    ∃ b, Blk.ofIdx (p / 17) = some b ∧ ((p % 17 = 0 ∧ x.1 ∈ pageFields false b) ∨
      (p % 17 ≠ 0 ∧ x.1 ∈ pageFields true b ∧ x.2 = p % 17 - 1)) := by
  obtain ⟨g, j⟩ := x
  unfold slotsIn at h
  dsimp only at h
  split at h
  next => simp at h; tauto
  next b hb =>
    split at h
    next h0 => simp at h; tauto
    next h0 =>
      simp only [List.mem_append, List.mem_map, List.mem_filter, Prod.mk.injEq] at h
      rcases h with ⟨g, ⟨hg, -⟩, rfl, rfl⟩ | ⟨g, ⟨hg, -⟩, rfl, rfl⟩
      · exact .inl ⟨hg, rfl⟩
      · exact .inr ⟨b, hb, .inr ⟨h0, hg, rfl⟩⟩

theorem pageOf_of_mem_slotsIn {x : Fld × Nat} (h : x ∈ slotsIn p o n) : x.1.pageOf x.2 = p := by
  unfold Fld.pageOf
  rcases mem_slotsIn h with ⟨hh, hp⟩ | ⟨b, hb, ⟨h0, hf⟩ | ⟨h0, hf, hi⟩⟩
  · rw [isHdr_of_mem hh, if_pos rfl, hp]
  · obtain ⟨hn, hk, hr⟩ := pageFields_spec _ _ _ hf
    have := Blk.idx_of_ofIdx hb
    simp only [hn, hk, hr, this]
    simp
    omega
  · obtain ⟨hn, hk, hr⟩ := pageFields_spec _ _ _ hf
    have := Blk.idx_of_ofIdx hb
    simp only [hn, hk, hr, this, hi]
    simp
    omega

/-- CLAP_VIEW stands in one word with RETRAIN, which is no plain field. -/
theorem retrain_of_clapView (h : (Fld.lnk_CLAP_VIEW, i) ∈ slotsIn p o n) : (Fld.lnk_RETRAIN, i) ∈ slotsIn p o n := by
  have hs (b : Blk) (r : Bool) (hf : Fld.lnk_CLAP_VIEW ∈ pageFields r b) : b = .lnk ∧ r = false := by
    obtain ⟨-, hb, hr⟩ := pageFields_spec _ _ _ hf
    exact ⟨hb.symm, hr.symm⟩
  have hw : Fld.lnk_CLAP_VIEW.wordsOf i = Fld.lnk_RETRAIN.wordsOf i := by
    show (29 + 0 * (i % 1) + 1 + 31) / 32 = (30 + 0 * (i % 1) + 2 + 31) / 32
    omega
  have ho : Fld.lnk_CLAP_VIEW.offOf i = Fld.lnk_RETRAIN.offOf i := rfl
  rcases mem_slotsIn h with ⟨hh, -⟩ | ⟨b, hb, ⟨h0, hf⟩ | ⟨-, hf, -⟩⟩
  · exact absurd (show Fld.lnk_CLAP_VIEW ∈ hdrFields from hh) (by decide)
  · obtain ⟨rfl, -⟩ := hs _ _ hf
    unfold slotsIn at h ⊢
    simp only [hb, h0, if_true, List.mem_append, List.mem_map, List.mem_flatMap, List.mem_filter, Prod.mk.injEq] at h ⊢
    rcases h with ⟨g, ⟨hg, -⟩, rfl, -⟩ | ⟨g, -, j, ⟨hj, hk⟩, rfl, rfl⟩
    · exact absurd hg (by decide)
    · exact .inr ⟨.lnk_RETRAIN, by decide, j, ⟨hj, by rwa [← hw, ← ho]⟩, rfl, rfl⟩
  · exact absurd (hs _ _ hf).2 (by decide)

theorem plain_slots (hl : ∀ x ∈ slotsIn p o n, plain s x.1 = true) : Plain s (slotsIn p o n) := by
  rintro ⟨g, j⟩ hx
  refine ⟨hl _ hx, ?_⟩
  rintro rfl
  exact Bool.noConfusion (show false = true from hl _ (retrain_of_clapView hx))

/-! #### A word written (R349, R350, R355) -/

theorem State.rest_countWrite (h : F.mayOf p [.hdr_WR_COUNT, .hdr_LAST_SRC, .hdr_LAST_LVL]) :
    rest F (s.countWrite a p) = rest F s := by
  simp only [State.countWrite, State.bump_eq, rest_wrOf .hdr_WR_COUNT h.sub, rest_wrOf .hdr_LAST_SRC h.sub,
    rest_wrOf .hdr_LAST_LVL h.sub]

theorem State.isRoot_countWrite : (s.countWrite a p).isRoot = s.isRoot := by
  simp [State.countWrite, State.isRoot, State.rd_wr]

theorem Foot.has.counted (h : F.has (slotsIn p o n ++ counted p)) :
    F.has (slotsIn p o n) ∧ F.mayOf p [.hdr_WR_COUNT, .hdr_LAST_SRC, .hdr_LAST_LVL] ∧
      ∀ x ∈ slotsIn p o n, F.fld .hdr_SHADOW_DIRTY (x.1.pageOf x.2) := by
  have hc (f : Fld) (hf : (f, p) ∈ Safety.counted p) : F.fld f p := h _ (List.mem_append_right _ hf)
  refine ⟨fun x hx => h x (List.mem_append_left _ hx), fun f hf => hc f ?_, fun x hx => ?_⟩
  · simp only [Safety.counted, List.mem_cons, Prod.mk.injEq] at hf ⊢
    tauto
  · rw [pageOf_of_mem_slotsIn hx]
    exact hc _ (by simp [Safety.counted])

/-- A word of plain fields, no part of a longer value. -/
theorem State.rest_writeWord_plain (hm : mwOf p o = none) (hl : ∀ x ∈ slotsIn p o 1, plain s x.1 = true)
    (ho : F.has (slotsIn p o 1 ++ counted p)) :
    rest F (s.writeWord a p o v).1 = rest F s ∧ (s.writeWord a p o v).2 = 0 := by
  obtain ⟨hf, hc, hd⟩ := ho.counted
  unfold State.writeWord
  rw [hm]
  have hp : Plain (s.countWrite a p) (slotsIn p o 1) := fun x hx =>
    ⟨(plain_congr State.isRoot_countWrite).trans (plain_slots hl x hx).1, (plain_slots hl x hx).2⟩
  obtain ⟨h1, h2⟩ := State.fieldsWrite_plain (a := a) (v := v) (o := o) hp hf hd
  exact ⟨h1.trans (State.rest_countWrite hc), h2⟩

/-! #### Accesses as a whole -/

/-- The end of an access that changes neither PMR nor what waits for it. -/
theorem State.rest_settle_same (hu : rest F u = rest F s) (hp : ¬ F.part .pmr) (hc : ¬ F.part .ctl)
    (h : F.may [] [.ctl_SESS_LEVEL])
    (hR : Reaches s a p) : rest F u.settle = rest F s := by
  obtain ⟨-, -, hw, hq⟩ := hR
  have hk := (rest_eq_iff.1 hu).parts
  exact (State.rest_settle_quiet h (by rw [show u.pmr = s.pmr from hk .pmr hp, hw])
    (by rw [show u.ctl = s.ctl from hk .ctl hc, hq])).trans hu

/-- The end of an access that changes no slot. -/
theorem State.rest_settle_closing (hu : rest F u = rest F s) (hp : ¬ F.part .pmr) (hc : u.ctl.closing = s.ctl.closing)
    (h : F.may [] [.ctl_SESS_LEVEL]) (hR : Reaches s a p) : rest F u.settle = rest F s := by
  obtain ⟨-, -, hw, hq⟩ := hR
  have hk := (rest_eq_iff.1 hu).parts
  exact (State.rest_settle_quiet h (by rw [show u.pmr = s.pmr from hk .pmr hp, hw]) (hc.trans hq)).trans hu

/-- A word that its page's mask allows. -/
theorem State.writeOp_open (hb : addrBad false addr 1 = false) (hv : addrView addr = false)
    (ha : s.pageAlive (addrPg addr) = true)
    (hm : bit (s.rd .hdr_WR_MASK (addrPg addr)) a.lvl = true) (hz : (s.writeWord a (addrPg addr) (addrOff addr)
      (v % 2 ^ 32)).2 = 0) :
    (s.writeOp s a false addr [v]).1 = (s.writeWord a (addrPg addr) (addrOff addr) (v % 2 ^ 32)).1 := by
  rw [State.writeOp_one ha, State.opErr_of_mask hb hv ha, hm, hz]
  simp [State.denied_zero]

/-- A word that its page's mask refuses. -/
theorem State.writeOp_shut (hb : addrBad false addr 1 = false) (hv : addrView addr = false)
    (ha : s.pageAlive (addrPg addr) = true)
    (hm : bit (s.rd .hdr_WR_MASK (addrPg addr)) a.lvl = false) :
    (s.writeOp s a false addr [v]).1 = s.denied (addrPg addr) 1 := by
  rw [State.writeOp_one ha, State.opErr_of_mask hb hv ha, hm]
  simp

theorem State.rest_poke_plain (hb : addrBad false addr 1 = false) (hv : addrView addr = false) (hR : Reaches s a (addrPg addr))
    (hm : bit (s.rd .hdr_WR_MASK (addrPg addr)) (Accessor.eff a).lvl = true) (hn : mwOf (addrPg addr) (addrOff addr) = none)
    (hl : ∀ x ∈ slotsIn (addrPg addr) (addrOff addr) 1, plain s x.1 = true)
    (ho : F.has (slotsIn (addrPg addr) (addrOff addr) 1 ++ counted (addrPg addr))) (h : F.may [] [.ctl_SESS_LEVEL])
    (hp : ¬ F.part .pmr) (hc : ¬ F.part .ctl) : rest F (s.poke a addr v) = rest F s := by
  obtain ⟨h1, h2⟩ := State.rest_writeWord_plain (a := Accessor.eff a) (v := v % 2 ^ 32) hn hl ho
  rw [State.poke_of_reaches hR, State.writeOp_open hb hv hR.2.1 hm h2]
  exact State.rest_settle_same h1 hp hc h hR

theorem State.rest_poke_shut (hb : addrBad false addr 1 = false) (hv : addrView addr = false) (hR : Reaches s a (addrPg addr))
    (hm : bit (s.rd .hdr_WR_MASK (addrPg addr)) (Accessor.eff a).lvl = false) (hd : F.mayOf (addrPg addr) [.hdr_DENY_CNT])
    (h : F.may [] [.ctl_SESS_LEVEL]) (hp : ¬ F.part .pmr) (hc : ¬ F.part .ctl) : rest F (s.poke a addr v) = rest F s := by
  rw [State.poke_of_reaches hR, State.writeOp_shut hb hv hR.2.1 hm]
  exact State.rest_settle_same (State.rest_denied hd) hp hc h hR

/-! #### Multi-word values (R353 to R355) -/

theorem State.ctl_countWrite : (s.countWrite a p).ctl = s.ctl := by
  simp [State.countWrite]

theorem State.closing_setStage (w : Fin 10) (l : List (Nat × Nat × Nat)) : (s.setStage w l).ctl.closing = s.ctl.closing := rfl

theorem State.ctl_denied {st : Nat} : (s.denied p st).ctl = s.ctl := by
  unfold State.denied
  split <;> simp

theorem State.pmr_denied {st : Nat} : (s.denied p st).pmr = s.pmr := by
  unfold State.denied
  split <;> simp

/-- A lower word of a value: staged, refused, or dropped where nothing of the value can be written. -/
theorem State.rest_writeWord_low (h : F.may [.ctl] []) (hc : F.mayOf p [.hdr_WR_COUNT, .hdr_LAST_SRC, .hdr_LAST_LVL])
    (hm : mwOf p o = some (base, n)) (ho : o ≠ base + 4 * (n - 1)) :
    rest F (s.writeWord a p o v).1 = rest F s ∧ (s.writeWord a p o v).1.ctl.closing = s.ctl.closing := by
  unfold State.writeWord
  rw [hm]
  dsimp only
  split
  · exact ⟨(State.rest_countWrite hc).trans (State.rest_setStage h _ _), by rw [State.ctl_countWrite, State.closing_setStage]⟩
  · split
    · exact ⟨rfl, rfl⟩
    · rw [if_pos (by simpa using ho)]
      exact ⟨(State.rest_setStage h _ _).trans (State.rest_countWrite hc), by rw [State.closing_setStage, State.ctl_countWrite]⟩

/-- The highest word of a value of plain fields. -/
theorem State.rest_writeWord_top (h : F.may [.ctl] []) (ho : F.has (slotsIn p base n ++ counted p))
    (hm : mwOf p (base + 4 * (n - 1)) = some (base, n)) (hl : ∀ x ∈ slotsIn p base n, plain s x.1 = true) :
    let r := s.writeWord a p (base + 4 * (n - 1)) v
    rest F r.1 = rest F s ∧ r.2 = 0 ∧ r.1.ctl.closing = s.ctl.closing := by
  obtain ⟨hf, hc, hd⟩ := ho.counted
  intro r
  have hno : (slotsIn p base n).any (fun x => x.1.desc.own && x.1.desc.acc = .wo) = false := by
    rw [List.any_eq_false]
    intro x hx
    have hp := hl x hx
    simp only [plain, Bool.and_eq_true, Bool.not_eq_true'] at hp
    simp [hp.1.1]
  simp only [r, State.writeWord, hm, hno, Bool.and_false, bne_self_eq_false, Bool.false_eq_true, if_false]
  split
  · exact ⟨(State.rest_countWrite hc).trans (State.rest_setStage h _ _), rfl,
      by rw [State.ctl_countWrite, State.closing_setStage]⟩
  · have hp : Plain ((s.countWrite a p).setStage a.who []) (slotsIn p base n) := fun x hx =>
      ⟨(plain_congr (State.isRoot_countWrite (a := a) (p := p))).trans (plain_slots hl x hx).1, (plain_slots hl x hx).2⟩
    have h1 (w : Nat) := State.fieldsWrite_plain (a := a) (v := w) (o := base) hp hf hd
    have h2 (w : Nat) := State.fieldsWrite_plain (F := Foot.regs) (a := a) (v := w) (o := base) hp (fun _ _ => trivial)
      fun _ _ => trivial
    refine ⟨(h1 _).1.trans ((State.rest_setStage h _ _).trans (State.rest_countWrite hc)), (h1 _).2, ?_⟩
    rw [ctl_of_regs (h2 _).1, State.closing_setStage, State.ctl_countWrite]

/-- A word whose refusal may be counted, and that changes no slot. -/
theorem State.rest_poke_word (hR : Reaches s a (addrPg addr)) (hd : F.mayOf (addrPg addr) [.hdr_DENY_CNT])
    (hy : ∀ w, rest F (s.writeWord (Accessor.eff a) (addrPg addr) (addrOff addr) w).1 = rest F s ∧
      (s.writeWord (Accessor.eff a) (addrPg addr) (addrOff addr) w).1.ctl.closing = s.ctl.closing)
    (h : F.may [] [.ctl_SESS_LEVEL]) (hp : ¬ F.part .pmr) : rest F (s.poke a addr v) = rest F s := by
  rw [State.poke_of_reaches hR]
  refine State.rest_settle_closing (State.rest_writeOp_one hR.2.1 hd (hy _).1) hp ?_ h hR
  rw [State.writeOp_one hR.2.1]
  split
  · rw [State.ctl_denied]
  · rw [State.ctl_denied, (hy _).2]

theorem State.rest_poke_top (hb : addrBad false addr 1 = false) (hv : addrView addr = false) (hR : Reaches s a (addrPg addr))
    (hm : bit (s.rd .hdr_WR_MASK (addrPg addr)) (Accessor.eff a).lvl = true)
    (hn : mwOf (addrPg addr) (addrOff addr) = some (base, n)) (ho : addrOff addr = base + 4 * (n - 1))
    (hl : ∀ x ∈ slotsIn (addrPg addr) base n, plain s x.1 = true)
    (hs : F.has (slotsIn (addrPg addr) base n ++ counted (addrPg addr))) (h : F.may [.ctl] [.ctl_SESS_LEVEL])
    (hp : ¬ F.part .pmr) : rest F (s.poke a addr v) = rest F s := by
  rw [ho] at hn
  obtain ⟨h1, h2, h3⟩ := State.rest_writeWord_top (a := Accessor.eff a) (v := v % 2 ^ 32) h.sub hs hn hl
  rw [← ho] at h1 h2 h3
  rw [State.poke_of_reaches hR, State.writeOp_open hb hv hR.2.1 hm h2]
  exact State.rest_settle_closing h1 hp h3 h.sub hR

/-! #### A word read (R353, R354) -/

theorem State.closing_setSnap (w : Fin 10) (x : Snap) : (s.setSnap w x).ctl.closing = s.ctl.closing := rfl

theorem State.ctl_snapWord (w : Fin 10) (k : Nat) (view : Bool) (live : Nat) :
    (s.snapWord w p base k view live).1.ctl = s.ctl := by
  unfold State.snapWord
  split
  · split <;> simp
  · simp

theorem Foot.regs_mayAt {r : Fin 16} {fs : List Fld} : Foot.regs.mayAt r fs := ⟨trivial, fun _ _ => trivial⟩

theorem State.ctl_ctxNext (r : Fin 16) : (s.ctxNext r).ctl = s.ctl := ctl_of_regs (State.rest_ctxNext Foot.regs_mayAt)

theorem State.ctl_maskNext (r : Fin 16) : (s.maskNext r).ctl = s.ctl := ctl_of_regs (State.rest_maskNext Foot.regs_mayAt)

theorem State.ctl_ofsNext (r : Fin 16) : (s.ofsNext r).ctl = s.ctl := ctl_of_regs (State.rest_ofsNext Foot.regs_mayAt)

theorem State.closing_ctxWord (r : Fin 16) (w : Fin 10) (view : Bool) : (s.ctxWord r w view).1.ctl.closing = s.ctl.closing := by
  unfold State.ctxWord
  dsimp only
  split
  · rw [State.ctl_ctxNext]
  · split
    · rw [State.ctl_ctxNext, State.closing_setSnap]
    · rw [State.ctl_ctxNext, State.ctl_snapWord]

theorem cmpPage_pageRegion (h : isRegion .cmp p = true) : cmpPage (pageRegion p) = p := by
  simp only [isRegion, Bool.and_eq_true, beq_iff_eq, bne_iff_ne] at h
  simp only [cmpPage, pageRegion]
  omega

theorem pageRegion_val : (pageRegion p).val = p % 17 - 1 := by
  simp only [pageRegion]
  omega

theorem State.rest_readWord {view : Bool} (h : F.may [.ctl] []) (hd : F.mayOf p [.hdr_SNAP_MISS])
    (hr : F.mayAt (pageRegion p) [.pfer_MASK_ADDR, .tdcr_OFS_ADDR, .cmpr_CTX_IDX]) :
    rest F (s.readWord a p o view).1 = rest F s ∧ (s.readWord a p o view).1.ctl.closing = s.ctl.closing := by
  unfold State.readWord
  dsimp only
  split
  · exact ⟨State.rest_maskNext hr.sub, congrArg Ctl.closing (State.ctl_maskNext _)⟩
  · split
    · exact ⟨State.rest_ofsNext hr.sub, congrArg Ctl.closing (State.ctl_ofsNext _)⟩
    · split
      next hx =>
        have hp := cmpPage_pageRegion (Bool.and_eq_true_iff.1 hx).1
        exact ⟨State.rest_ctxWord h hr.sub (by rwa [hp]) _ _, State.closing_ctxWord _ _ _⟩
      next =>
        split
        · split
          · exact ⟨State.rest_setSnap h _ _, State.closing_setSnap _ _⟩
          · exact ⟨State.rest_snapWord hd _ _ _ _ _, by rw [State.ctl_snapWord]⟩
        · exact ⟨rfl, rfl⟩

theorem State.readOp_one : (s.readOp s a false addr 1).1 =
    if s.opErr s a false false addr 1 ≠ 0 then s.denied (addrPg addr) (s.opErr s a false false addr 1)
    else (s.readWord a (addrPg addr) (addrOff addr) (addrView addr)).1 := by
  unfold State.readOp
  dsimp only
  split
  · rfl
  · simp [List.range_succ, wordOff]

theorem State.rest_readOp_one (h : F.may [.ctl] []) (hd : F.mayOf (addrPg addr) [.hdr_DENY_CNT, .hdr_SNAP_MISS])
    (hr : F.mayAt (pageRegion (addrPg addr)) [.pfer_MASK_ADDR, .tdcr_OFS_ADDR, .cmpr_CTX_IDX]) :
    rest F (s.readOp s a false addr 1).1 = rest F s ∧ (s.readOp s a false addr 1).1.ctl.closing = s.ctl.closing := by
  rw [State.readOp_one]
  split
  · exact ⟨State.rest_denied hd.sub, by rw [State.ctl_denied]⟩
  · exact State.rest_readWord h hd.sub hr

theorem State.rest_access_read (hR : Reaches s a (addrPg addr)) (h : F.may [.ctl, .lastRead] [.ctl_SESS_LEVEL])
    (hd : F.mayOf (addrPg addr) [.hdr_DENY_CNT, .hdr_SNAP_MISS])
    (hr : F.mayAt (pageRegion (addrPg addr)) [.pfer_MASK_ADDR, .tdcr_OFS_ADDR, .cmpr_CTX_IDX]) (hp : ¬ F.part .pmr) :
    rest F (s.access a addr (fun b s => { (s.readOp s b false addr 1).1 with
      lastRead := (s.readOp s b false addr 1).2.2.getD 0 0 })) = rest F s := by
  obtain ⟨h1, h2⟩ := State.rest_readOp_one (s := s) (a := Accessor.eff a) h.sub hd hr
  obtain ⟨hm, -⟩ := id hR
  simp only [State.access, hm, if_true]
  exact State.rest_settle_closing ((rest_lastRead h.sub _).trans h1) hp h2 h.sub hR

/-! #### Fields that act, one by one (R6, R7, R359) -/

/-- What a field does with a value by its type (R6). -/
def State.typeWrite (s : State) (a : Accessor) (f : Fld) (i v : Nat) : State :=
  match f.desc.acc with
  | .ro => s
  | .rw => (s.rwWrite a f i v).1
  | .rwc => s.rwcWrite f i v
  | .w1c => s.wr f i (s.rd f i - (s.rd f i &&& v))
  | .wo => (s.woWrite a f i v).1
  | .w1s => if v = 0 then s else (s.w1sWrite a f i v).1

/-- A field written is left alone, marks its page's CFG_ERR where it has reserved encodings, or acts by its type. -/
theorem State.rest_fieldWrite (ht : rest F (s.typeWrite a f i v) = rest F s)
    (he : f.desc.resv = [] ∨ F.fld (f.errOf i).1 (f.errOf i).2) : rest F (s.fieldWrite a f i v).1 = rest F s := by
  unfold State.fieldWrite
  split
  next h =>
    split
    next hw =>
      have hv : v ≠ 0 := by simpa [State.actsOn, hw] using (Bool.and_eq_true_iff.1 h).2
      simpa [State.typeWrite, hw, hv] using ht
    next => rfl
  next =>
    split
    next hr =>
      rcases he with he | he
      · simp [he] at hr
      · exact rest_wr_of he _
    next =>
      cases ha : f.desc.acc with
      | ro => rfl
      | w1s =>
        simp only [State.typeWrite, ha] at ht ⊢
        rwa [apply_ite Prod.fst]
      | _ => simpa [State.typeWrite, ha] using ht

theorem State.rest_fieldsWrite {l : List (Fld × Nat)}
    (hf : ∀ x ∈ l, ∀ u : State,
      rest F (u.fieldWrite a x.1 x.2 (x.1.cut (v >>> (8 * (x.1.offOf x.2 - o) + x.1.loOf x.2)))).1 = rest F u) :
    rest F (s.fieldsWrite a l v o).1 = rest F s := by
  unfold State.fieldsWrite
  have hm : ∀ x ∈ (List.range 3).flatMap (fun ph => l.filter (fun x => x.1.phase == ph)), x ∈ l := fun x hx => by
    obtain ⟨_, _, hx⟩ := List.mem_flatMap.1 hx
    exact List.mem_of_mem_filter hx
  revert hm
  generalize (List.range 3).flatMap (fun ph => l.filter (fun x => x.1.phase == ph)) = m
  intro hm
  generalize hw : ((s, 0) : State × Nat) = w
  have hs : rest F w.1 = rest F s := by rw [← hw]
  clear hw
  induction m generalizing w with
  | nil => exact hs
  | cons x m ih =>
    exact ih (fun y hy => hm y (List.mem_cons_of_mem x hy)) _ ((hf x (hm x List.mem_cons_self) _).trans hs)

/-! #### REVERT (R356) -/

theorem spGet_mix_of (sh fo : Sp) {q : Nat → Bool} {k : Nat} (d : Nat) (h : q k = false) :
    spGet (spMix sh fo q) k d = spGet sh k d := by
  unfold spMix
  rw [← spGet_filter_of sh (q := fun e => !q e.1) d fun v => by simp [h]]
  have hm : ∀ e ∈ fo.filter (fun e => q e.1), k ≠ e.1 := fun e he hk => by
    simpa [← hk, h] using (List.mem_filter.1 he).2
  generalize fo.filter (fun e => q e.1) = l at hm
  generalize sh.filter (fun e => !q e.1) = m
  induction l generalizing m with
  | nil => rfl
  | cons e l ih =>
    exact (ih (fun x hx => hm x (List.mem_cons_of_mem e hx)) _).trans (spGet_ins_of_ne _ _ _ (hm e List.mem_cons_self))

theorem pageOf_of_revert
    (hf : f.ctorIdx ∈ match Blk.ofIdx (p / 17) with | some b => (pageFields (p % 17 != 0) b).map Fld.ctorIdx | none => [])
    (hi : (p % 17 == 0 || i == p % 17 - 1) = true) : f.pageOf i = p := by
  cases hb : Blk.ofIdx (p / 17) with
  | none => simp [hb] at hf
  | some b =>
    simp only [hb] at hf
    obtain ⟨g, hg, he⟩ := List.mem_map.1 hf
    obtain rfl := Fld.ctorIdx_inj he
    obtain ⟨hn, hk, hr⟩ := pageFields_spec _ _ _ hg
    have hx := Blk.idx_of_ofIdx hb
    simp only [Fld.pageOf, hn, hk, hr, hx]
    simp only [Bool.or_eq_true, beq_iff_eq] at hi
    by_cases h0 : p % 17 = 0 <;> simp [h0] at hi ⊢ <;> omega

/-- A REVERT changes what its page has: shadows, masks and offsets, and its SHADOW_DIRTY. -/
theorem State.rest_revert (h : F.may [.pfe, .tdc] []) (hk : ∀ f i, f.pageOf i = p → F.fld f i) :
    rest F (s.revert p) = rest F s := by
  unfold State.revert
  extract_lets fs mine here s1 _ s2 _ s3
  have h1 : rest F s1 = rest F s := by
    refine rest_eq_iff.2 ⟨fun f i n => ⟨rfl, spGet_mix_of _ _ _ ?_⟩, fun x _ => samePart_refl s x,
      fun _ _ => ⟨rfl, rfl, rfl, rfl, rfl⟩⟩
    by_contra hc
    simp only [mine, Fld.key_mod, Fld.key_div, Bool.not_eq_false, Bool.and_eq_true, List.contains_iff_mem] at hc
    exact n (hk f i (pageOf_of_revert hc.1 hc.2))
  have h2 : rest F s2 = rest F s1 := rest_ite_eq (rest_pfe h.sub _ rfl) rfl
  have h3 : rest F s3 = rest F s2 := rest_ite_eq (rest_tdc h.sub _ rfl) rfl
  exact (rest_wr_of (hk _ _ rfl) _).trans (h3.trans (h2.trans h1))

theorem State.rd_revert (h : ¬ (f = .hdr_SHADOW_DIRTY ∧ i = p)) : (s.revert p).rd f i = s.rd f i := by
  unfold State.revert
  extract_lets fs mine here s1 _ s2 _ s3
  have h2 : s2.rd f i = s1.rd f i := by simp only [s2]; split <;> rfl
  have h3 : s3.rd f i = s2.rd f i := by simp only [s3]; split <;> rfl
  rw [State.wrB_eq, State.rd_wr, if_neg fun e => h ⟨e.1.symm, e.2.symm⟩, h3, h2]
  rfl

/-- Of the front end and the converters a REVERT changes the shadows of the masks and of the offsets. -/
theorem State.pfe_tdc_revert : (s.revert p).pfe = { s.pfe with maskS := (s.revert p).pfe.maskS } ∧
    (s.revert p).tdc = { s.tdc with offS := (s.revert p).tdc.offS } := by
  unfold State.revert
  dsimp only
  constructor <;> split <;> split <;> simp

/-! #### Words of a page header -/

theorem page_mask (blk : Fin 20) (page : Fin 17) :
    addrPg (mkAddr blk page 8) = 17 * blk.val + page.val ∧ addrOff (mkAddr blk page 8) = 8 := by
  revert blk page
  decide +kernel

theorem page_revert (blk : Fin 20) (page : Fin 17) :
    addrPg (mkAddr blk page 0xC) = 17 * blk.val + page.val ∧ addrOff (mkAddr blk page 0xC) = 0xC := by
  revert blk page
  decide +kernel

theorem mwTable_off : ∀ e ∈ mwTable, 0x20 ≤ e.2.2.1 := by decide

theorem mwOf_hdr (h : o < 0x20) : mwOf p o = none := by
  refine List.findSome?_eq_none_iff.2 fun e he => ?_
  have ho := mwTable_off e he
  obtain ⟨b, r, off, k, count, stride⟩ := e
  dsimp only at ho ⊢
  rw [if_neg]
  simp only [Bool.and_eq_true, decide_eq_true_eq]
  omega

theorem pageFields_off (r : Bool) (b : Blk) : ∀ f ∈ pageFields r b, 0x20 ≤ f.desc.off := by
  cases r <;> cases b <;> decide +kernel

theorem slotsIn_hdr (h : o < 0x20) (ho : o % 4 = 0) :
    slotsIn p o 1 = (hdrFields.filter (fun f => f.desc.off < o + 4 && o < f.desc.off + 4)).map (fun f => (f, p)) := by
  have hf (r : Bool) (b : Blk) (f : Fld) (hm : f ∈ pageFields r b) (j : Nat) : ¬ f.offOf j < o + 4 := by
    have := pageFields_off r b f hm
    unfold Fld.offOf
    split <;> omega
  unfold slotsIn
  dsimp only
  split
  · rfl
  · split
    · simpa using fun x hx j _ _ hh => absurd hh (hf _ _ x hx j)
    · simpa using fun x hx hh => absurd hh (hf _ _ x hx 0)

theorem slots_mask : slotsIn p 8 1 = [(.hdr_RD_MASK, p), (.hdr_WR_MASK, p)] := slotsIn_hdr (by decide) (by decide)

theorem slots_revert : slotsIn p 0xC 1 = [(.hdr_SHADOW_DIRTY, p), (.hdr_REVERT, p)] := slotsIn_hdr (by decide) (by decide)

theorem State.fieldsWrite_revert : s.fieldsWrite a [(.hdr_SHADOW_DIRTY, p), (.hdr_REVERT, p)] 2 0xC = (s.revert p, 0) := by
  have ho : Fld.hdr_REVERT.offOf p = 0xC := by
    show 0xC + 0 * (p / 1) + 0 * (p % 1) = 0xC
    omega
  have hb : Fld.hdr_REVERT.loOf p = 1 := by
    show 1 + 0 * (p % 1) = 1
    omega
  have hc : Fld.hdr_REVERT.cut (2 >>> (8 * (Fld.hdr_REVERT.offOf p - 0xC) + Fld.hdr_REVERT.loOf p)) = 1 := by
    rw [ho, hb]
    rfl
  have hf : s.fieldWrite a .hdr_REVERT p 1 = (s.revert p, 0) := rfl
  have hl : (List.range 3).flatMap (fun ph => [(Fld.hdr_SHADOW_DIRTY, p), (Fld.hdr_REVERT, p)].filter
    (fun x => x.1.phase == ph)) =
      [(Fld.hdr_REVERT, p)] := rfl
  unfold State.fieldsWrite
  rw [hl, List.foldl_cons, hc, hf]
  rfl

theorem State.writeWord_revert : s.writeWord a p 0xC 2 = ((s.countWrite a p).revert p, 0) := by
  simp only [State.writeWord, mwOf_hdr (show 0xC < 0x20 by decide), slots_revert, State.fieldsWrite_revert]

/-- A 1 written to REVERT of page p: refused and counted, or the page reverted. -/
theorem State.writeOp_revert (ha : s.pageAlive (addrPg addr) = true) (ho : addrOff addr = 0xC) :
    (∃ st, (s.writeOp s a false addr [2]).1 = s.denied (addrPg addr) st) ∨
      (s.writeOp s a false addr [2]).1 = (s.countWrite a (addrPg addr)).revert (addrPg addr) := by
  rw [State.writeOp_one ha, ho, show 2 % 2 ^ 32 = 2 from rfl, State.writeWord_revert]
  split
  · exact .inl ⟨_, rfl⟩
  · exact .inr State.denied_zero

/-- The registers of a page header that a write of it changes, and the sessions' levels. -/
def Foot.head (p : Nat) : Foot :=
  ⟨fun _ => False, fun f i => (f, i) ∈ (.hdr_DENY_CNT, p) :: counted p ∨ f = .ctl_SESS_LEVEL, fun _ => True⟩

theorem Foot.head_mayOf {fs : List Fld} (h : ∀ f ∈ fs, (f, p) ∈ (.hdr_DENY_CNT, p) :: counted p) : (Foot.head p).mayOf p fs :=
  fun f hf => .inl (h f hf)

theorem Foot.head_level : (Foot.head p).may [] [.ctl_SESS_LEVEL] :=
  ⟨fun _ hx => absurd hx List.not_mem_nil, fun _ hf _ => .inr (List.mem_singleton.1 hf)⟩

/-- What holds behind an access that reverted page p: its header counted, its shadows,
  masks and offsets taken from what is in force. -/
structure Reverted (p : Nat) (s u : State) : Prop where
  force : ∀ f i, ¬ (Foot.head p).fld f i → u.rd f i = s.rd f i
  pfe : u.pfe = { s.pfe with maskS := u.pfe.maskS }
  tdc : u.tdc = { s.tdc with offS := u.tdc.offS }

theorem Reverted.of_head (h : rest (Foot.head p) u = rest (Foot.head p) s) : Reverted p s u := by
  have hw := rest_eq_iff.1 h
  have hp : u.pfe = s.pfe := hw.parts .pfe not_false
  have ht : u.tdc = s.tdc := hw.parts .tdc not_false
  exact ⟨fun f i n => (hw.regs f i n).1, by rw [hp], by rw [ht]⟩

theorem Reverted.trans {w : State} (h : Reverted p s u) (k : Reverted p u w) : Reverted p s w :=
  ⟨fun f i n => (k.force f i n).trans (h.force f i n), by rw [k.pfe, h.pfe], by rw [k.tdc, h.tdc]⟩

theorem Reverted.revert : Reverted p s (s.revert p) :=
  ⟨fun f i n => State.rd_revert fun e => n (.inl (by rw [e.1, e.2]; simp [counted])), State.pfe_tdc_revert.1,
    State.pfe_tdc_revert.2⟩

theorem State.ctl_revert : (s.revert p).ctl = s.ctl := by
  simp only [State.revert, State.wrB_eq, State.ctl_wr]
  split <;> split <;> rfl

theorem State.pmr_revert : (s.revert p).pmr = s.pmr := by
  simp only [State.revert, State.wrB_eq, State.pmr_wr]
  split <;> split <;> rfl

theorem State.reverted_poke (hR : Reaches s a (addrPg addr)) (ho : addrOff addr = 0xC) :
    Reverted (addrPg addr) s (s.poke a addr 2) := by
  rw [State.poke_of_reaches hR]
  have hs (w : State) (hp : w.pmr = s.pmr) (hc : w.ctl = s.ctl) : Reverted (addrPg addr) w w.settle :=
    .of_head (State.rest_settle_quiet Foot.head_level (hp ▸ hR.2.2.1) (hc ▸ hR.2.2.2))
  have hcount : Reverted (addrPg addr) s (s.countWrite (Accessor.eff a) (addrPg addr)) :=
    .of_head (State.rest_countWrite (Foot.head_mayOf (by simp [counted])))
  rcases State.writeOp_revert (a := Accessor.eff a) hR.2.1 ho with ⟨st, h⟩ | h
  · rw [h]
    have hd : Reverted (addrPg addr) s (s.denied (addrPg addr) st) := .of_head (State.rest_denied (Foot.head_mayOf (by simp)))
    exact hd.trans (hs _ State.pmr_denied State.ctl_denied)
  · rw [h]
    exact (hcount.trans .revert).trans (hs _ (by simp [State.pmr_revert, State.countWrite])
      (by simp [State.ctl_revert, State.countWrite]))

/-- What a REVERT of page p may change of the registers: its header's counts, the sessions' levels,
  and the shadows of page p. -/
def revertRegs (p : Nat) : Fld → Nat → Bool := fun f i =>
  ((.hdr_DENY_CNT, p) :: counted p).contains (f, i) || f = .ctl_SESS_LEVEL || f.pageOf i == p

/-- What a REVERT of page p may change. -/
def Foot.revert (p : Nat) : Foot := .of [.pfe, .tdc] (revertRegs p) fun _ => True

theorem Foot.revert_head {fs : List Fld} (h : ∀ f ∈ fs, (f, p) ∈ (.hdr_DENY_CNT, p) :: counted p) :
    (Foot.revert p).mayOf p fs :=
  fun f hf => by simp only [Foot.revert, Foot.of, revertRegs, List.contains_iff_mem.2 (h f hf), Bool.true_or]

theorem State.rest_poke_revert (hR : Reaches s a (addrPg addr)) (ho : addrOff addr = 0xC) :
    rest (Foot.revert (addrPg addr)) (s.poke a addr 2) = rest (Foot.revert (addrPg addr)) s := by
  have hk (f : Fld) (i : Nat) (h : f.pageOf i = addrPg addr) : (Foot.revert (addrPg addr)).fld f i := by
    simp [Foot.revert, Foot.of, revertRegs, h]
  have hl : (Foot.revert (addrPg addr)).may [.pfe, .tdc] [.ctl_SESS_LEVEL] :=
    ⟨fun _ hx => hx, fun f hf i => by simp [Foot.revert, Foot.of, revertRegs, List.mem_singleton.1 hf]⟩
  rw [State.poke_of_reaches hR]
  refine State.rest_settle_same ?_ (show Part.pmr ∉ [Part.pfe, .tdc] by decide) (show Part.ctl ∉ [Part.pfe, .tdc] by decide)
    hl.sub hR
  rcases State.writeOp_revert (a := Accessor.eff a) hR.2.1 ho with ⟨st, h⟩ | h
  · rw [h, State.rest_denied (Foot.revert_head (by simp))]
  · rw [h, State.rest_revert hl.sub hk, State.rest_countWrite (Foot.revert_head (by simp [counted]))]

theorem State.fieldWrite_mask (hf : f = .hdr_RD_MASK ∨ f = .hdr_WR_MASK) (h : F.mayOf p [f]) :
    rest F (s.fieldWrite a f p v).1 = rest F s := by
  rcases hf with rfl | rfl <;> exact State.rest_fieldWrite (rest_wrOf _ h _) (.inl rfl)

theorem State.rest_poke_mask (hR : Reaches s a (addrPg addr)) (ho : addrOff addr = 8) (h : F.may [] [.ctl_SESS_LEVEL])
    (hc : F.mayOf (addrPg addr) [.hdr_DENY_CNT, .hdr_WR_COUNT, .hdr_LAST_SRC, .hdr_LAST_LVL, .hdr_RD_MASK, .hdr_WR_MASK])
    (hp : ¬ F.part .pmr) (hq : ¬ F.part .ctl) : rest F (s.poke a addr v) = rest F s := by
  rw [State.poke_of_reaches hR]
  refine State.rest_settle_same (State.rest_writeOp_one hR.2.1 hc.sub ?_) hp hq h hR
  rw [ho]
  simp only [State.writeWord, mwOf_hdr (show 8 < 0x20 by decide), slots_mask]
  refine (State.rest_fieldsWrite fun x hx u => ?_).trans (State.rest_countWrite hc.sub)
  have hr : F.mayOf (addrPg addr) [.hdr_RD_MASK] := hc.sub
  have hw : F.mayOf (addrPg addr) [.hdr_WR_MASK] := hc.sub
  rcases List.mem_pair.1 hx with rfl | rfl
  · exact State.fieldWrite_mask (.inl rfl) hr
  · exact State.fieldWrite_mask (.inr rfl) hw

/-! #### Key slots (R291) -/

theorem State.rest_keyChange {g : State → State} (hg : rest F (g s) = rest F s) : rest F (s.keyChange a g).1 = rest F s := by
  unfold State.keyChange
  dsimp only
  split
  · rfl
  · exact hg

theorem State.rest_keyPut (h : F.may [.ctl, .events] [.ctl_KEY_VALID, .eth_EVQ_LOST]) (hk : F.mayOf i [.ctl_KEY]) :
    rest F (s.keyPut i v) = rest F s := by
  simp only [State.keyPut, State.keyClosing, State.rest_emit h.sub, State.rest_ctlUpd h.sub, State.wrBit_eq,
    rest_wr .ctl_KEY_VALID h.sub, rest_wrOf .ctl_KEY hk]

theorem State.rest_keyEmpty (h : F.may [.ctl, .events] [.ctl_KEY_VALID, .eth_EVQ_LOST])
    (hk : F.mayOf i [.ctl_KEY, .ctl_KEY_LEVEL]) :
    rest F (s.keyEmpty i) = rest F s := by
  simp only [State.keyEmpty, State.keyClosing, State.rest_emit h.sub, State.rest_ctlUpd h.sub, State.wrBit_eq,
    rest_wr .ctl_KEY_VALID h.sub, rest_wrOf .ctl_KEY_LEVEL hk.sub, rest_wrOf .ctl_KEY hk.sub]

theorem State.rest_keyLevel (h : F.may [.events] [.eth_EVQ_LOST]) (hk : F.mayOf i [.ctl_KEY_LEVEL]) :
    rest F (s.keyLevel a i v).1 = rest F s := by
  unfold State.keyLevel
  split
  · rfl
  · exact State.rest_keyChange ((State.rest_emit h.sub _ _).trans (rest_wrOf _ hk _))

theorem State.rest_keyClear (h : F.may [.ctl, .events] [.ctl_KEY, .ctl_KEY_LEVEL, .ctl_KEY_VALID, .eth_EVQ_LOST]) :
    rest F (s.keyClear a).1 = rest F s := by
  have hk : F.may [] [.ctl_KEY, .ctl_KEY_LEVEL] := h.sub
  unfold State.keyClear
  split
  · exact rest_each (fun k x => rest_ite_eq (State.rest_keyEmpty h.sub (hk.of k)) rfl) _
  · rfl

theorem page_key (slot : Fin 7) :
    (addrPg (mkAddr 17 0 (0x4C + 0x20 * slot.val)) = 289 ∧ addrOff (mkAddr 17 0 (0x4C + 0x20 * slot.val))
      = 0x4C + 0x20 * slot.val) ∧
      addrPg (mkAddr 17 0 (0x50 + 0x20 * slot.val)) = 289 ∧ addrOff (mkAddr 17 0 (0x50 + 0x20 * slot.val))
        = 0x50 + 0x20 * slot.val := by
  revert slot
  decide

theorem words_key (slot : Fin 7) : mwOf 289 (0x4C + 0x20 * slot.val) = some (0x40 + 0x20 * slot.val, 4) ∧
    slotsIn 289 (0x40 + 0x20 * slot.val) 4 = [(.ctl_KEY, slot.val)] := by
  revert slot
  decide +kernel

theorem words_level (slot : Fin 7) : mwOf 289 (0x50 + 0x20 * slot.val) = none ∧
    slotsIn 289 (0x50 + 0x20 * slot.val) 1 = [(.ctl_KEY_LEVEL, slot.val), (.ctl_KEY_REVOKE, slot.val)] := by
  revert slot
  decide +kernel

theorem words_clear : addrPg (mkAddr 17 0 0x20) = 289 ∧ addrOff (mkAddr 17 0 0x20) = 0x20 ∧ mwOf 289 0x20 = none ∧
    slotsIn 289 0x20 1 = [(.ctl_THB_PORT, 0), (.ctl_SESS_IDLE, 0), (.ctl_KEY_CLEAR, 0)] := by
  decide +kernel

/-- An access to a word of the key slots. -/
theorem State.rest_poke_key (hR : Reaches s a (addrPg addr)) (hd : F.mayOf (addrPg addr) [.hdr_DENY_CNT])
    (hy : ∀ w, w = v % 2 ^ 32 → rest F (s.writeWord (Accessor.eff a) (addrPg addr) (addrOff addr) w).1 = rest F s)
    (h : F.may [.ctl] sessRegs) (hp : ¬ F.part .pmr) : rest F (s.poke a addr v) = rest F s := by
  rw [State.poke_of_reaches hR]
  have hw := State.rest_writeOp_one (v := v) hR.2.1 hd (hy _ rfl)
  have hk : (s.writeOp s (Accessor.eff a) false addr [v]).1.pmr = s.pmr := (rest_eq_iff.1 hw).parts .pmr hp
  exact (State.rest_settle h (hk ▸ hR.2.2.1)).trans hw

theorem State.rest_writeWord_key (slot : Fin 7) (h : F.may [.ctl, .events] [.ctl_KEY_VALID, .ctl_CFG_ERR, .eth_EVQ_LOST])
    (hc : F.mayOf 289 [.hdr_WR_COUNT, .hdr_LAST_SRC, .hdr_LAST_LVL]) (hk : F.mayOf slot [.ctl_KEY]) :
    rest F (s.writeWord a 289 (0x4C + 0x20 * slot.val) v).1 = rest F s := by
  obtain ⟨hm, hs⟩ := words_key slot
  unfold State.writeWord
  rw [hm]
  dsimp only
  rw [hs]
  split
  · exact (State.rest_countWrite hc).trans (State.rest_setStage h.sub _ _)
  · split
    · rfl
    · have hf (u : State) (w : Nat) : rest F (u.fieldWrite a .ctl_KEY slot w).1 = rest F u := by
        refine State.rest_fieldWrite ?_ (.inl rfl)
        show rest F (u.keyWrite a slot w).1 = rest F u
        exact State.rest_keyChange (State.rest_keyPut h.sub hk)
      split
      · exact (State.rest_setStage h.sub _ _).trans (State.rest_countWrite hc)
      · refine (State.rest_fieldsWrite fun x hx u => ?_).trans ((State.rest_setStage h.sub _ _).trans
          (State.rest_countWrite hc))
        obtain rfl := List.mem_singleton.1 hx
        exact hf _ _

theorem State.rest_fieldWrite_level (h : F.may [.events] [.ctl_CFG_ERR, .eth_EVQ_LOST]) (hk : F.mayOf i [.ctl_KEY_LEVEL]) :
    rest F (s.fieldWrite a .ctl_KEY_LEVEL i v).1 = rest F s :=
  State.rest_fieldWrite (State.rest_keyLevel h.sub hk) (.inr (h.2 .ctl_CFG_ERR (by decide) 0))

theorem State.rest_fieldWrite_revoke (h : F.may [.ctl, .events] [.ctl_KEY_VALID, .eth_EVQ_LOST])
    (hk : F.mayOf i [.ctl_KEY, .ctl_KEY_LEVEL]) : rest F (s.fieldWrite a .ctl_KEY_REVOKE i v).1 = rest F s := by
  have hr : rest F (s.w1sWrite a .ctl_KEY_REVOKE i v).1 = rest F s :=
    (congrArg _ (apply_ite Prod.fst _ _ _)).trans (rest_ite_eq (State.rest_keyChange (State.rest_keyEmpty h hk)) rfl)
  exact State.rest_fieldWrite (rest_ite_eq rfl hr) (.inl rfl)

theorem shift_revoke (slot : Fin 7) :
    8 * (Fld.ctl_KEY_REVOKE.offOf slot.val - (0x50 + 0x20 * slot.val)) + Fld.ctl_KEY_REVOKE.loOf slot.val = 2 := by
  revert slot
  decide

theorem State.rest_writeWord_level (slot : Fin 7) (hc : F.mayOf 289 [.hdr_WR_COUNT, .hdr_LAST_SRC, .hdr_LAST_LVL])
    (hl : ∀ u : State, ∀ w, rest F (u.fieldWrite a .ctl_KEY_LEVEL slot.val w).1 = rest F u)
    (hr : ∀ u : State, rest F (u.fieldWrite a .ctl_KEY_REVOKE slot.val (Fld.ctl_KEY_REVOKE.cut (v >>> 2))).1 = rest F u) :
    rest F (s.writeWord a 289 (0x50 + 0x20 * slot.val) v).1 = rest F s := by
  obtain ⟨hm, hs⟩ := words_level slot
  simp only [State.writeWord, hm, hs]
  refine (State.rest_fieldsWrite fun x hx u => ?_).trans (State.rest_countWrite hc)
  rcases List.mem_pair.1 hx with rfl | rfl
  · exact hl _ _
  · dsimp only
    rw [shift_revoke]
    exact hr _

theorem State.rest_writeWord_clear (h : F.may [.ctl, .events] [.ctl_KEY, .ctl_KEY_LEVEL, .ctl_KEY_VALID, .eth_EVQ_LOST])
    (hc : F.mayOf 289 [.hdr_WR_COUNT, .hdr_LAST_SRC, .hdr_LAST_LVL, .hdr_SHADOW_DIRTY])
    (hf : F.mayOf 0 [.ctl_THB_PORT, .ctl_SESS_IDLE]) : rest F (s.writeWord a 289 0x20 v).1 = rest F s := by
  obtain ⟨-, -, hm, hs⟩ := words_clear
  have hd : F.mayOf 289 [.hdr_SHADOW_DIRTY] := hc.sub
  have hw (f : Fld) (hx : f ∈ [Fld.ctl_THB_PORT, .ctl_SESS_IDLE]) (u : State) (w : Nat) :
      rest F ((u.wrSh f 0 w).wrB .hdr_SHADOW_DIRTY 289 true) = rest F u :=
    (rest_wrOf .hdr_SHADOW_DIRTY hd _).trans (rest_wrSh_of (hf f hx) _)
  simp only [State.writeWord, hm, hs]
  refine (State.rest_fieldsWrite fun x hx u => ?_).trans (State.rest_countWrite hc.sub)
  simp only [List.mem_cons, List.not_mem_nil, or_false] at hx
  rcases hx with rfl | rfl | rfl
  · exact State.rest_fieldWrite (hw _ (by decide) _ _) (.inl rfl)
  · exact State.rest_fieldWrite (hw _ (by decide) _ _) (.inl rfl)
  · exact State.rest_fieldWrite (rest_ite_eq rfl (State.rest_keyClear h)) (.inl rfl)

theorem State.rest_fieldWrite_revoke_zero : rest F (s.fieldWrite a .ctl_KEY_REVOKE i 0).1 = rest F s :=
  State.rest_fieldWrite rfl (.inl rfl)

theorem cut_revoke_level (v : BitVec 2) : Fld.ctl_KEY_REVOKE.cut ((v.toNat % 2 ^ 32) >>> 2) = 0 := by
  revert v
  decide

section
variable (slot : Fin 7) (hR : Reaches s a 289) (hp : ¬ F.part .pmr)
include hR hp

theorem State.rest_poke_keyWrite (h : F.may [.ctl, .events] (sessRegs ++ [Fld.ctl_KEY_VALID, .ctl_CFG_ERR, .eth_EVQ_LOST]))
    (hc : F.mayOf 289 [.hdr_DENY_CNT, .hdr_WR_COUNT, .hdr_LAST_SRC, .hdr_LAST_LVL]) (hk : F.mayOf slot [.ctl_KEY]) :
    rest F (s.poke a (mkAddr 17 0 (0x4C + 0x20 * slot.val)) v) = rest F s := by
  obtain ⟨⟨hg, ho⟩, -⟩ := page_key slot
  refine State.rest_poke_key (by rwa [hg]) (by rw [hg]; exact hc.sub) (fun w _ => ?_) h.sub hp
  rw [hg, ho]
  exact State.rest_writeWord_key slot h.sub hc.sub hk

theorem State.rest_poke_keyLevel (v : BitVec 2) (h : F.may [.ctl, .events] (sessRegs ++ [Fld.ctl_CFG_ERR, .eth_EVQ_LOST]))
    (hc : F.mayOf 289 [.hdr_DENY_CNT, .hdr_WR_COUNT, .hdr_LAST_SRC, .hdr_LAST_LVL]) (hk : F.mayOf slot [.ctl_KEY_LEVEL]) :
    rest F (s.poke a (mkAddr 17 0 (0x50 + 0x20 * slot.val)) v.toNat) = rest F s := by
  obtain ⟨-, hg, ho⟩ := page_key slot
  refine State.rest_poke_key (by rwa [hg]) (by rw [hg]; exact hc.sub) (fun w hw => ?_) h.sub hp
  rw [hg, ho]
  refine State.rest_writeWord_level slot hc.sub (fun _ _ => State.rest_fieldWrite_level h.sub hk) fun _ => ?_
  rw [hw, cut_revoke_level]
  exact State.rest_fieldWrite_revoke_zero

theorem State.rest_poke_keyRevoke (h : F.may [.ctl, .events] (sessRegs ++ [Fld.ctl_KEY_VALID, .ctl_CFG_ERR, .eth_EVQ_LOST]))
    (hc : F.mayOf 289 [.hdr_DENY_CNT, .hdr_WR_COUNT, .hdr_LAST_SRC, .hdr_LAST_LVL])
    (hk : F.mayOf slot [.ctl_KEY, .ctl_KEY_LEVEL]) : rest F (s.poke a (mkAddr 17 0 (0x50 + 0x20 * slot.val)) v) = rest F s := by
  obtain ⟨-, hg, ho⟩ := page_key slot
  refine State.rest_poke_key (by rwa [hg]) (by rw [hg]; exact hc.sub) (fun w hw => ?_) h.sub hp
  rw [hg, ho]
  exact State.rest_writeWord_level slot hc.sub (fun _ _ => State.rest_fieldWrite_level h.sub hk.sub)
    fun _ => State.rest_fieldWrite_revoke h.sub hk

theorem State.rest_poke_keyClear
    (h : F.may [.ctl, .events] (sessRegs ++ [Fld.ctl_KEY, .ctl_KEY_LEVEL, .ctl_KEY_VALID, .eth_EVQ_LOST]))
    (hc : F.mayOf 289 [.hdr_DENY_CNT, .hdr_WR_COUNT, .hdr_LAST_SRC, .hdr_LAST_LVL, .hdr_SHADOW_DIRTY])
    (hf : F.mayOf 0 [.ctl_THB_PORT, .ctl_SESS_IDLE]) : rest F (s.poke a (mkAddr 17 0 0x20) v) = rest F s := by
  obtain ⟨hg, ho, -⟩ := words_clear
  refine State.rest_poke_key (by rwa [hg]) (by rw [hg]; exact hc.sub) (fun w hw => ?_) h.sub hp
  rw [hg, ho]
  exact State.rest_writeWord_clear h.sub hc.sub hf

end

/-! #### Messages without an access (R288 to R290) -/

theorem State.thbOps_nop {ops : List ThbOp} (h : ∀ o ∈ ops, ∃ k, o = .nop k) : (s.thbOps a ops).1 = s := by
  unfold State.thbOps
  generalize hw : ((s, []) : State × List OpRep) = w
  have hs : w.1 = s := by rw [← hw]
  clear hw
  induction ops generalizing w with
  | nil => exact hs
  | cons o ops ih =>
    obtain ⟨k, rfl⟩ := h o List.mem_cons_self
    have ho (u : State) : (s.thbOp u a (.nop k)).1 = u := by
      unfold State.thbOp
      split <;> rfl
    exact ih (fun x hx => h x (List.mem_cons_of_mem _ hx)) _ ((ho _).trans hs)

theorem State.closing_setSession (k : Fin 8) (x : Option Sess) : (s.setSession k x).ctl.closing = s.ctl.closing := rfl

theorem State.closing_thbSay (k : Fin 8) (key ip port : Nat) (local_ : Bool) (seq : Nat) (l : List OpRep) :
    (s.thbSay k key ip port local_ seq l).ctl.closing = s.ctl.closing := by
  unfold State.thbSay
  split <;> rfl

theorem State.closing_thbReply (k : Fin 8) (key ip port : Nat) (local_ : Bool) (seq : Nat) (l : List OpRep) :
    (s.thbReply k key ip port local_ seq l).ctl.closing = s.ctl.closing := by
  unfold State.thbReply
  split
  · exact State.closing_thbSay _ _ _ _ _ _ _
  · rfl

section
variable {ops : List ThbOp} (h : F.may [.eth, .ctl, .out] [.ctl_SESS_LEVEL, .ctl_MSG_EXEC, .ctl_AUTH_FAIL, .ctl_REPLAY_DROP])
  (hn : ∀ o ∈ ops, ∃ k, o = .nop k) (hw : s.pmr.warm = none) (hc : s.ctl.closing = 0) (hp : ¬ F.part .pmr)
include h hn hw hc hp

theorem State.rest_thbExec_nop (k : Fin 8) (x : Sess) (m : ThbHead) : rest F (s.thbExec k x m 0 ops) = rest F s := by
  unfold State.thbExec
  extract_lets lvl s1 acc r _ _
  have h1 : rest F s1 = rest F s := rest_wr .ctl_MSG_EXEC h.sub _ _
  rw [if_pos (by simp)]
  have hr : r.1 = s1 := State.thbOps_nop hn
  rw [hr]
  have h2 := (State.rest_thbReply (s := s1) h.sub k (s1.slotKey m.slot.toNat)
    m.ip.toNat m.port.toNat m.local_ m.seq.toNat r.2).trans h1
  have hq : (s1.thbReply k (s1.slotKey m.slot.toNat) m.ip.toNat m.port.toNat m.local_ m.seq.toNat r.2).pmr = s.pmr :=
    (rest_eq_iff.1 h2).parts .pmr hp
  exact (State.rest_settle_quiet h.sub (hq ▸ hw) (by rw [State.closing_thbReply]; simpa [s1] using hc)).trans h2

theorem State.rest_requestMsg_nop (m : ThbHead) (x : Sess) : rest F (s.requestMsg m x 0 (some ops)) = rest F s := by
  unfold State.requestMsg
  extract_lets n seq x1 s1 say x2 s2
  have h1 : rest F s1 = rest F s := State.rest_setSession h.sub _ _
  have h2 : rest F s2 = rest F s := (State.rest_setSession h.sub _ _).trans h1
  have hs (y : State) (l : List OpRep) : rest F (say y l) = rest F y := State.rest_thbSay h.sub _ _ _ _ _ _ _
  split
  · exact (hs _ _).trans h1
  · split
    · exact (State.rest_replayDrop h.sub).trans h1
    · split
      next l hl =>
        obtain ⟨he, -⟩ := Option.filter_eq_some_iff.1 hl
        obtain rfl := Option.some_inj.1 he
        exact (State.rest_thbExec_nop (s := s2) h hn hw hc hp n x2 m).trans h2
      next => exact (hs _ _).trans h2

end

theorem State.closing_thbTake (m : ThbHead) : (s.thbTake m).ctl.closing = s.ctl.closing := by
  unfold State.thbTake
  split <;> rfl

/-- A relay request for another module goes down to it, or back up where there is no way (R259). -/
theorem State.rest_relayRx_of_ne {q : RelayReq} (h : F.may [.lnk, .tre] [.tre_RELAY_FWD, .tre_RELAY_NOROUTE])
    (h1 : q.target ≠ 0xFFFFFFFF) (h2 : q.target ≠ s.myId) : rest F (s.relayRx q) = rest F s := by
  unfold State.relayRx
  rw [if_neg (by simpa using h1), if_neg (by simpa using h2)]
  split
  · exact (State.rest_sendV0 h.sub _ _).trans (rest_wr .tre_RELAY_FWD h.sub _ _)
  · exact (State.rest_sendUp h.sub _).trans (rest_wr .tre_RELAY_NOROUTE h.sub _ _)

end Sys2Proof.Machine
end

/-! ### What accesses, key commands and messages leave alone: O59 -/

section
namespace Sys2Proof.Machine

open Sys2Proof Safety

set_option Elab.async false

section
variable {s : State} {a : Accessor} {addr v : BitVec 32} {base n : Nat} (t : Nat)
  (hb : addrBad false addr.toNat 1 = false) (hv : addrView addr.toNat = false) (hR : Reaches s a (addrPg addr.toNat))
include hR

theorem leaves_multiwordCapture : Leaves (.multiwordCapture t a addr) s [.ctl, .lastRead]
    (just [(.hdr_DENY_CNT, addrPg addr.toNat), (.hdr_SNAP_MISS, addrPg addr.toNat),
      (.pfer_MASK_ADDR, addrPg addr.toNat % 17 - 1),
      (.tdcr_OFS_ADDR, addrPg addr.toNat % 17 - 1), (.cmpr_CTX_IDX, addrPg addr.toNat % 17 - 1)] [.ctl_SESS_LEVEL]) :=
  leaves_of_parts rfl fun _ h hs hq hx => (rest_when (fun _ => rest_lastRead h.sub _) _).trans
    (State.rest_access_read (reaches_at hR t) h.sub (hs.of h (by simp)) ⟨hq _, pageRegion_val ▸ hs.of h (by simp)⟩
      (hx _ (by decide)))

theorem leaves_registerWrite_low (hn : mwOf (addrPg addr.toNat) (addrOff addr.toNat) = some (base, n))
    (ho : addrOff addr.toNat ≠ base + 4 * (n - 1)) : Leaves (.registerWrite t a addr v) s [.ctl]
      (just ((counted (addrPg addr.toNat)).append [(.hdr_DENY_CNT, addrPg addr.toNat)]) [.ctl_SESS_LEVEL]) :=
  leaves_of_parts rfl fun _ h hs _ hx => State.rest_poke_word (reaches_at hR t) (hs.of h (by simp))
    (fun _ => State.rest_writeWord_low h.sub (hs.of h (by simp [counted])) hn ho) h.sub (hx _ (by decide))

include hb hv

theorem leaves_registerWrite_plain (hm : bit (s.rd .hdr_WR_MASK (addrPg addr.toNat)) (Accessor.eff a).lvl = true)
    (hn : mwOf (addrPg addr.toNat) (addrOff addr.toNat) = none)
    (hl : ∀ x ∈ slotsIn (addrPg addr.toNat) (addrOff addr.toNat) 1, plain s x.1 = true) :
      Leaves (.registerWrite t a addr v) s []
      (just (slotsIn (addrPg addr.toNat) (addrOff addr.toNat) 1 ++ counted (addrPg addr.toNat)) [.ctl_SESS_LEVEL]) :=
  leaves_of_parts rfl fun _ h hs _ hx =>
    State.rest_poke_plain hb hv (reaches_at hR t) hm hn hl hs h.sub (hx _ (by decide)) (hx _ (by decide))

theorem leaves_registerWrite_shut (hm : bit (s.rd .hdr_WR_MASK (addrPg addr.toNat)) (Accessor.eff a).lvl = false) :
    Leaves (.registerWrite t a addr v) s [] (just [(.hdr_DENY_CNT, addrPg addr.toNat)] [.ctl_SESS_LEVEL]) :=
  leaves_of_parts rfl fun _ h hs _ hx =>
    State.rest_poke_shut hb hv (reaches_at hR t) hm (hs.of h (by simp)) h.sub (hx _ (by decide)) (hx _ (by decide))

theorem leaves_multiwordCommit (hm : bit (s.rd .hdr_WR_MASK (addrPg addr.toNat)) (Accessor.eff a).lvl = true)
    (hn : mwOf (addrPg addr.toNat) (addrOff addr.toNat) = some (base, n)) (ho : addrOff addr.toNat = base + 4 * (n - 1))
    (hl : ∀ x ∈ slotsIn (addrPg addr.toNat) base n, plain s x.1 = true) : Leaves (.multiwordCommit t a addr v) s [.ctl]
      (just (slotsIn (addrPg addr.toNat) base n ++ counted (addrPg addr.toNat)) [.ctl_SESS_LEVEL]) :=
  leaves_of_parts rfl fun _ h hs _ hx =>
    State.rest_poke_top hb hv (reaches_at hR t) hm hn ho hl hs h.sub (hx _ (by decide))

end

section
variable {s : State} {a : Accessor} {blk : Fin 20} {page : Fin 17} {p : Nat} (t : Nat) (hp : p = 17 * blk.val + page.val)
  (hR : Reaches s a p)
include hp hR

theorem brings_revert : Brings (.revert t a blk page) s (fun u => Safety.Frame s u [.pfe, .tdc] (revertRegs p) ∧
    (∀ f i, (f, i) ∉ (.hdr_DENY_CNT, p) :: counted p → f ≠ .ctl_SESS_LEVEL → u.rd f i = s.rd f i) ∧
    u.pfe = { s.pfe with maskS := u.pfe.maskS } ∧ u.tdc = { s.tdc with offS := u.tdc.offS }) := by
  obtain ⟨hg, ho⟩ := page_revert blk page
  obtain rfl := hp.trans hg.symm
  have hR := reaches_at hR t
  have hr := State.reverted_poke hR ho
  exact ⟨_, rfl, frame_of_rest ((rest_stamp _ _).trans ((State.rest_poke_revert hR ho).trans (rest_at t))) rfl,
    fun f i hn hl => hr.force f i fun h => h.elim hn hl, hr.pfe, hr.tdc⟩

theorem leaves_privMaskWrite (v : BitVec 32) : Leaves (.privMaskWrite t a blk page v) s []
    (just ((counted p).append [(.hdr_RD_MASK, p), (.hdr_WR_MASK, p), (.hdr_DENY_CNT, p)]) [.ctl_SESS_LEVEL]) := by
  obtain ⟨hg, ho⟩ := page_mask blk page
  obtain rfl := hp.trans hg.symm
  exact leaves_of_parts rfl fun _ h hs _ hx =>
    State.rest_poke_mask (reaches_at hR t) ho h.sub (hs.of h (by simp [counted])) (hx _ (by decide)) (hx _ (by decide))

end

section
variable {s : State} {a : Accessor} (t : Nat) (slot : Fin 7) (hR : Reaches s a 289)
include hR

theorem leaves_keyWrite (v : BitVec 32) : Leaves (.keyWrite t a slot v) s [.ctl, .events]
    (just ((counted 289).append [(.ctl_KEY, slot.val), (.hdr_DENY_CNT, 289)])
      (sessRegs.append [.ctl_KEY_VALID, .ctl_CFG_ERR, .eth_EVQ_LOST])) :=
  leaves_of_parts rfl fun _ h hs _ hx => State.rest_poke_keyWrite slot (reaches_at hR t) (hx _ (by decide)) h.sub
    (hs.of h (by simp [counted])) (hs.of h (by simp))

theorem leaves_keyLevelWrite (v : BitVec 2) : Leaves (.keyLevelWrite t a slot v) s [.ctl, .events]
    (just ((counted 289).append [(.ctl_KEY_LEVEL, slot.val), (.hdr_DENY_CNT, 289)])
      (sessRegs.append [.ctl_CFG_ERR, .eth_EVQ_LOST])) :=
  leaves_of_parts rfl fun _ h hs _ hx => State.rest_poke_keyLevel slot (reaches_at hR t) (hx _ (by decide)) v h.sub
    (hs.of h (by simp [counted])) (hs.of h (by simp))

theorem leaves_keyRevoke : Leaves (.keyRevoke t a slot) s [.ctl, .events]
    (just ((counted 289).append [(.ctl_KEY, slot.val), (.ctl_KEY_LEVEL, slot.val), (.hdr_DENY_CNT, 289)])
      (sessRegs.append [.ctl_KEY_VALID, .ctl_CFG_ERR, .eth_EVQ_LOST])) :=
  leaves_of_parts rfl fun _ h hs _ hx => State.rest_poke_keyRevoke slot (reaches_at hR t) (hx _ (by decide)) h.sub
    (hs.of h (by simp [counted])) (hs.of h (by simp))

theorem leaves_keyClear : Leaves (.keyClear t a) s [.ctl, .events]
    (just ((slotsIn 289 0x20 1 ++ counted 289).append [(.hdr_DENY_CNT, 289)])
      (sessRegs.append [.ctl_KEY, .ctl_KEY_LEVEL, .ctl_KEY_VALID, .ctl_CFG_ERR, .eth_EVQ_LOST])) := by
  obtain ⟨-, -, -, hw⟩ := words_clear
  rw [hw]
  exact leaves_of_parts rfl fun _ h hs _ hx => State.rest_poke_keyClear (reaches_at hR t) (hx _ (by decide)) h.sub
    (hs.of h (by simp [counted])) (hs.of h (by simp))

end

theorem leaves_request_nop {s : State} (t : Nat) (h : ThbHead) {ops : List ThbOp} (hw : s.pmr.warm = none)
    (hc : s.ctl.closing = 0)
    (hn : ∀ o ∈ ops, ∃ n, o = .nop n) : Leaves (.request t h 0 [] ops) s [.eth, .ctl, .out]
      (just [] [.ctl_SESS_LEVEL, .ctl_MSG_EXEC, .ctl_AUTH_FAIL, .ctl_REPLAY_DROP]) := by
  refine leaves_of_parts rfl fun F hF _ _ hx => rest_when_at ?_ _
  have hp : ¬ F.part .pmr := hx _ (by decide)
  have h1 : rest F ((s.at t).thbTake h) = rest F (s.at t) := State.rest_thbTake hF.sub h
  have hw1 : ((s.at t).thbTake h).pmr.warm = none := (congrArg Pmr.warm ((rest_eq_iff.1 h1).parts .pmr hp)).trans hw
  have hc1 : ((s.at t).thbTake h).ctl.closing = 0 := (State.closing_thbTake h).trans hc
  have ho : requestOps ops [] = some ops := by simp [requestOps, parseOps]
  dsimp only
  rw [ho]
  split
  · exact (State.rest_requestMsg_nop hF hn hw1 hc1 hp h _).trans h1
  · exact (State.rest_authFail hF.sub).trans h1

theorem leaves_relayRequestRx {s : State} (t : Nat) {l : Fin 10} {q : RelayReq} (hw : takes (.relayRequestRx t l q) s = true)
    (h1 : q.target ≠ 0xFFFFFFFF) (h2 : q.target ≠ s.myId) : Leaves (.relayRequestRx t l q) s [.lnk, .tre, .out]
      (just [] [.tre_RELAY_FWD, .tre_RELAY_NOROUTE]) := by
  have hq : q.op.wf = true := (Bool.and_eq_true_iff.1 hw).1
  refine leaves_of_parts ((if_neg ?_).trans rfl) fun F h _ _ _ => ?_
  · revert hq
    generalize q.op = op
    cases op <;> simp [RelayOp.wf]
  · refine rest_on_at ?_ _
    refine rest_when_at ?_ _
    refine rest_when_at ?_ _
    exact State.rest_relayRx_of_ne h.sub h1 h2

/-- Settles O59: an accessor's word by the fields it reaches, the end of an access by what waits for it. -/
theorem registerFrames : Obligations.RegisterFrames := by
  unfold Obligations.RegisterFrames
  refine ⟨?_, ?_, ?_, ?_, fun s t l q hw => leaves_relayRequestRx t hw⟩
  · rintro s t a addr v p o rfl rfl hb hR
    exact ⟨fun hv hm hn hl => leaves_registerWrite_plain t hb hv hR hm hn hl, fun hv hm =>
      leaves_registerWrite_shut t hb hv hR hm,
      fun base n _ _ hn ho => leaves_registerWrite_low t hR hn ho,
      fun base n hv hm hn ho hl => leaves_multiwordCommit t hb hv hR hm hn ho hl, leaves_multiwordCapture t hR⟩
  · exact fun s t a blk page p _ hp hR => ⟨brings_revert t hp hR, leaves_privMaskWrite t hp hR⟩
  · rintro s t a p rfl hR
    exact ⟨fun slot v => leaves_keyWrite t slot hR v, fun slot v => leaves_keyLevelWrite t slot hR v,
      fun slot => leaves_keyRevoke t slot hR, leaves_keyClear t hR⟩
  · exact fun s t h ops hw hc hn => leaves_request_nop t h hw hc hn

end Sys2Proof.Machine
end

/-! ### What the operations of the boundaries, SAFE, faults, the start and the resets leave alone -/

section
namespace Sys2Proof.Machine

open Sys2Proof Safety

set_option Elab.async false

/-- What ACC reports of its frames (R110). -/
def accRegs : List Fld := [.accr_ACC_FRAMES, .accr_ACC_PARTIAL_CNT, .accr_PARTIAL, .accr_SUB_IDX]

/-- What an event record or a daily frame leaves in ETH (R283). -/
def dailyRegs : List Fld := [.eth_DLY_DROP, .eth_EVQ_LOST, .eth_NEXT_PSN, .eth_QP_PI]

/-- What a scan publishes (R298). -/
def scanRegs : List Fld := [.hka_CLAMP, .hka_OVR, .hka_RANGE, .hka_RES_VAL, .hka_STALE, .hka_VALID]

/-- What the bias servo changes at a boundary (R25, R27). -/
def servoRegs : List Fld := [.sns_BIAS_FROZEN, .sns_T_USED, .sns_VCLAMP, .sns_V_SET]

/-- What a crowbar changes in a region (R30). -/
def biasRegs : List Fld := [.sns_BIAS_EN, .sns_BIAS_OK, .sns_RAMPING, .sns_V_SET]

/-- What a lane that leaves UP changes. -/
def laneRegs : List Fld := [.lnk_L0_STATE, .lnk_L1_STATE, .lnk_LANES_UP, .lnk_PORT_UP]

/-- The step of a gate (R103). -/
def gateRegs : List Fld := [.hstr_GATE_HELD, .hstr_GATE_IDX]

/-- The tick parameters (R10). -/
def scheduleRegs : List Fld := [.seq_TICK_BASE, .seq_TICK_DEN, .seq_TICK_EPOCH, .seq_TICK_NUM]

/-- What a step of TB time counts (R84). -/
def stepRegs : List Fld := [.eth_EVQ_LOST, .tbs_STEPPED, .tbs_STEP_COUNT, .tbs_STEP_GEN]

/-- What SAFE entry changes (R20, R322). -/
def safeRegs : List Fld :=
  engineRegs ++ fabricRegs ++ feedRegs ++ accRegs ++ dailyRegs ++ biasRegs ++ laneRegs ++ [Fld.flt_SAFE_ACT,
   Fld.pfer_FE_EN, Fld.pfer_INJ_EN, Fld.pmr_ACQ_ENABLED, Fld.pmr_PWR_STATE, Fld.tdcr_DROP_ABORT, Fld.tdcr_TDC_EN,
   Fld.trg_TRG_FINAL]

/-- What a fault taken changes (R315 to R328). -/
def faultRegs : List Fld :=
  safeRegs ++ lossRegs ++ trainRegs ++ [Fld.flt_CONSEQ, Fld.flt_ESCALATED, Fld.flt_INJ_LVL_NOW, Fld.flt_INJ_RAISED,
   Fld.flt_INJ_STATE, Fld.flt_LAST_UNIT, Fld.flt_LEVEL, Fld.flt_LOG_HEAD, Fld.flt_MAX_LEVEL, Fld.flt_MEM_A,
   Fld.flt_MEM_B, Fld.flt_MEM_C, Fld.flt_RAISED, Fld.flt_STATE, Fld.lnk_BACKOFF_NOW, Fld.lnk_LANE_LOSS,
   Fld.lnk_REPLAYS, Fld.lnk_RESTRIPES, Fld.lnk_TRAIN_FAIL, Fld.sns_OC_TRIP]

/-- What a tick boundary changes (R10). -/
def boundaryRegs : List Fld :=
  engineRegs ++ fabricRegs ++ scanRegs ++ feedRegs ++ accRegs ++ dailyRegs ++ servoRegs ++ scheduleRegs ++ roleRegs ++
   gateRegs ++ [Fld.cab_CFG_ERR, Fld.cab_CMD_BUSY, Fld.cab_CMD_RES, Fld.cmpr_CTX_LOAD_BUSY, Fld.edc_SRAM_ROWS_SPARED,
   Fld.evb_ZS_EN, Fld.pfer_INJ_EN, Fld.pfer_INJ_ISSUED, Fld.pfer_INJ_OVR, Fld.seq_REGION_FINAL, Fld.seq_REGION_MODE,
   Fld.seq_TICK_INDEX, Fld.seq_TICK_OVR_CNT, Fld.tdcr_CAL_LOAD_BUSY, Fld.tre_FEAT_PEND, Fld.tre_TREE_FEAT]

variable {F : Foot} {s u v : State}

theorem Foot.may.at {ps : List Part} {fs fs' : List Fld} (h : F.may ps fs) (hr : ∀ r, F.region r) {r : Fin 16}
    (hf : fs' ⊆ fs := by decide +kernel) : F.mayAt r fs' :=
  ⟨hr r, (h.of r).sub hf⟩

theorem rest_seq_pmr (h : F.may [.seq, .pmr] []) (x : Seq) (y : Pmr) :
    rest F { u with seq := x, pmr := y } = rest F u :=
  (rest_pmr (s := { u with seq := x }) h.sub y).trans (rest_seq h.sub x)

theorem rest_edc_flash (h : F.may [.edc, .flash] []) (x : Edc) (y : Flash) :
    rest F { u with edc := x, flash := y } = rest F u :=
  (rest_flash (s := { u with edc := x }) h.sub y).trans (rest_edc h.sub x)

theorem State.rest_lnkSafe (h : F.may [.lnk] laneRegs) :
    rest F s.lnkSafe = rest F s := by
  simp only [State.lnkSafe, State.rest_lnkRegs h.sub, State.rest_setLaneSt h.sub h.laneSt, rest_each, rest_ite,
    ite_self, eq_self, implies_true]

theorem State.rest_trigRelease (h : F.may [.trg] []) :
    rest F s.trigRelease = rest F s := by
  simp only [State.trigRelease, State.rest_trgUpd h.sub, eq_self]

theorem State.rest_crowbarAll (h : F.may [.sns] biasRegs) (hr : ∀ r, F.region r) :
    rest F s.crowbarAll = rest F s := by
  simp only [State.crowbarAll, State.rest_crowbar h.sub (h.at hr), rest_each, eq_self, implies_true]

/-- SAFE entry puts the shadows back as they were (R356). -/
theorem rest_shadow (h : rest F u = rest F s) : rest F { u with shadow := s.shadow } = rest F s := by
  have hw := rest_eq_iff.1 h
  refine rest_eq_iff.2 ⟨fun f i n => ⟨(hw.regs f i n).1, rfl⟩, fun x n => ?_, hw.apart⟩
  have hx := hw.parts x n
  cases x <;> exact hx

theorem rest_shadow_seq_pmr (h : F.may [.seq, .pmr] []) (k : Sp) (x : Seq) (y : Pmr)
    (hu : rest F { u with shadow := k } = rest F s) :
    rest F { u with shadow := k, seq := x, pmr := y } = rest F s :=
  (rest_seq_pmr (u := { u with shadow := k }) h x y).trans hu

theorem State.rest_safeNow (h : F.may [.pmr, .sns, .pfe, .tdc, .seq, .evb, .hst, .accum, .cmp, .que, .cab, .trg, .lnk,
    .eth, .pwr, .events] safeRegs) (hr : ∀ r, F.region r) (cls unit : Nat) : rest F (s.safeNow cls unit) = rest F s := by
  unfold State.safeNow
  extract_lets s1 s2 s3 s4 kept s5 _ _
  have h1 : rest F s1 = rest F s := (State.rest_emit h.sub _ _).trans (rest_wr .flt_SAFE_ACT h.sub _ _)
  have h2 : rest F s2 = rest F s1 := rest_ite_eq (State.rest_standbyResume h.sub fun _ => h.at hr) rfl
  have h3 : rest F s3 = rest F s2 := by
    simp only [s3, State.wrB_eq, State.rest_lnkSafe h.sub, State.rest_trigRelease h.sub, rest_wr .pmr_ACQ_ENABLED h.sub,
      State.rest_setPwr h.sub]
  have h4 : rest F s4 = rest F s3 := State.rest_crowbarAll h.sub hr
  have h5 : rest F { s5 with shadow := kept } = rest F s4 := rest_shadow (State.rest_regionsAbort h.sub (fun _ => h.at hr) _)
  clear_value s5
  exact rest_shadow_seq_pmr h.sub _ _ _ (h5.trans (h4.trans (h3.trans (h2.trans h1))))

theorem State.rest_enterSafe (h : F.may [.pmr, .sns, .pfe, .tdc, .seq, .evb, .hst, .accum, .cmp, .que, .cab, .trg, .lnk,
    .eth, .pwr, .events] safeRegs) (hr : ∀ r, F.region r) (cls unit : Nat) :
    rest F (s.enterSafe cls unit) = rest F s := by
  simp only [State.enterSafe, State.wrB_eq, rest_wr .flt_SAFE_ACT h.sub, State.rest_safeNow h.sub hr, rest_ite,
    ite_self, eq_self]

theorem State.rest_openShadow (h : F.may [.flt] []) (classes : List Nat) (scope : Scope) (inj perf : Bool) :
    rest F (s.openShadow classes scope inj perf) = rest F s := by
  simp only [State.openShadow, State.rest_fltUpd h.sub, rest_ite, ite_self, eq_self]

theorem State.rest_linkShadow (h : F.may [.flt] []) (u : Nat) (inj act par : Bool) :
    rest F (s.linkShadow u inj act par) = rest F s := by
  simp only [State.linkShadow, State.rest_openShadow h.sub, rest_ite, ite_self, eq_self]

theorem State.rest_regionShadow (h : F.may [.flt] []) (classes : List Nat) (u : Nat) (inj perf : Bool) :
    rest F (s.regionShadow classes u inj perf) = rest F s := by
  simp only [State.regionShadow, State.rest_openShadow h.sub, eq_self]

theorem State.rest_actAbort (h : F.may [.pfe, .tdc, .seq, .evb, .hst, .accum, .cmp, .que, .cab, .trg, .flt, .eth, .events]
    (engineRegs ++ fabricRegs ++ feedRegs ++ accRegs ++ dailyRegs ++ [Fld.pfer_FE_EN, Fld.pfer_INJ_EN,
    Fld.tdcr_DROP_ABORT, Fld.tdcr_TDC_EN, Fld.trg_TRG_FINAL])) (hr : ∀ r, F.region r) (u m : Nat) (inj act : Bool) :
    rest F (s.actAbort u m inj act) = rest F s := by
  simp only [State.actAbort, State.rest_regionShadow h.sub, State.rest_regionsAbort h.sub (fun _ => h.at hr), rest_when,
    rest_ite, ite_self, eq_self, implies_true]

theorem State.rest_react3 (h : F.may [.sns, .pfe, .tdc, .tbs, .seq, .evb, .hst, .accum, .cmp, .que, .cab, .trg, .lnk,
    .tre, .flt, .eth, .detected, .out, .events] (lossRegs ++ engineRegs ++ fabricRegs ++ trainRegs ++ feedRegs ++ accRegs
    ++ dailyRegs ++ biasRegs ++ [Fld.lnk_BACKOFF_NOW, Fld.lnk_LANE_LOSS, Fld.lnk_REPLAYS, Fld.lnk_RESTRIPES,
    Fld.lnk_TRAIN_FAIL, Fld.pfer_FE_EN, Fld.pfer_INJ_EN, Fld.tdcr_DROP_ABORT, Fld.tdcr_TDC_EN, Fld.trg_TRG_FINAL])) (hr :
    ∀ r, F.region r) (cls u : Nat) (inj act par : Bool) :
    rest F (s.react3 cls u inj act par) = rest F s := by
  simp only [State.react3, State.rest_linkShadow h.sub, State.rest_openShadow h.sub, State.rest_retrain h.sub,
    State.rest_rampDownAll h.sub (fun _ => h.at hr), State.rest_regionShadow h.sub,
    State.rest_regionsAbort h.sub (fun _ => h.at hr), State.rest_actAbort h.sub hr, rest_when, rest_each, rest_ite,
    ite_self, eq_self, implies_true]

theorem State.rest_ownShadow (h : F.may [.flt] []) (d : Det) (par : Bool) :
    rest F (s.ownShadow d par) = rest F s := by
  simp only [State.ownShadow, State.rest_linkShadow h.sub, State.rest_openShadow h.sub, State.rest_regionShadow h.sub,
    rest_ite, ite_self, eq_self]

theorem State.rest_regionDrain (h : F.may [.seq] []) (r : Fin 16) :
    rest F (s.regionDrain r) = rest F s := by
  simp only [State.regionDrain, rest_seq h.sub, eq_self]

theorem State.rest_actDrain (h : F.may [.seq, .flt] []) (u : Nat) (inj act : Bool) :
    rest F (s.actDrain u inj act) = rest F s := by
  simp only [State.actDrain, State.rest_regionDrain h.sub, State.rest_regionShadow h.sub, rest_when, rest_each,
    rest_ite, ite_self, eq_self, implies_true]

theorem State.rest_retire (h : F.may [.events] [.eth_EVQ_LOST, .flt_MEM_A, .flt_MEM_B, .flt_MEM_C]) (m : Nat) :
    rest F (s.retire m) = rest F s :=
  rest_ite_eq rfl ((State.rest_emit h.sub _ _).trans (State.rest_setMember h.sub m 2))

theorem State.rest_react2 (h : F.may [.sns, .tbs, .seq, .que, .lnk, .tre, .flt, .detected, .events] (lossRegs ++ trainRegs
    ++ areaRegs ++ biasRegs ++ [Fld.eth_EVQ_LOST, Fld.flt_MEM_A, Fld.flt_MEM_B, Fld.flt_MEM_C, Fld.sns_OC_TRIP])) (hr : ∀
    r, F.region r) (cls u : Nat) (inj act own par : Bool) :
    rest F (s.react2 cls u inj act own par) = rest F s := by
  simp only [State.react2, State.wrB_eq, rest_wr .sns_OC_TRIP h.sub, State.rest_crowbar h.sub (h.at hr),
    State.rest_actDrain h.sub, State.rest_linkShadow h.sub, State.rest_takeDownQuiet h.sub, State.rest_retire h.sub,
    State.rest_rampDownAll h.sub (fun _ => h.at hr), State.rest_openShadow h.sub, State.rest_regionShadow h.sub,
    rest_when, rest_each, rest_ite, ite_self, eq_self, implies_true]

theorem State.rest_react (h : F.may [.pmr, .sns, .pfe, .tdc, .tbs, .seq, .evb, .hst, .accum, .cmp, .que, .cab, .trg, .lnk,
    .tre, .flt, .eth, .detected, .pwr, .out, .events] (safeRegs ++ lossRegs ++ trainRegs ++ [Fld.flt_MEM_A, Fld.flt_MEM_B,
    Fld.flt_MEM_C, Fld.lnk_BACKOFF_NOW, Fld.lnk_LANE_LOSS, Fld.lnk_REPLAYS, Fld.lnk_RESTRIPES, Fld.lnk_TRAIN_FAIL,
    Fld.sns_OC_TRIP])) (hr : ∀ r, F.region r) (d : Det) (lvl : Nat) (act : Bool) :
    rest F (s.react d lvl act) = rest F s := by
  simp only [State.react, rest_pmr h.sub, State.rest_enterSafe h.sub hr, State.rest_openShadow h.sub,
    State.rest_react3 h.sub hr, State.rest_ownShadow h.sub, State.rest_react2 h.sub hr, rest_when, rest_ite, ite_self,
    eq_self, implies_true]

theorem State.rest_raise (h : F.may [.pmr, .sns, .pfe, .tdc, .tbs, .seq, .evb, .hst, .accum, .cmp, .que, .cab, .trg, .lnk,
    .tre, .flt, .eth, .detected, .pwr, .out, .events] faultRegs) (hr : ∀ r, F.region r) (d : Det) :
    rest F (s.raise d) = rest F s := by
  unfold State.raise
  dsimp only
  split <;> simp only [State.bump_eq, rest_wr .flt_CONSEQ h.sub, rest_wr .flt_ESCALATED h.sub, rest_wr .flt_INJ_RAISED h.sub,
    rest_wr .flt_LAST_UNIT h.sub, rest_wr .flt_LOG_HEAD h.sub, rest_wr .flt_RAISED h.sub, State.rest_emitAs h.sub,
    State.rest_react h.sub hr, State.rest_emit h.sub, State.rest_fltRegs h.sub, State.rest_fltUpd h.sub, rest_when,
    rest_ite, ite_self, eq_self, implies_true]

theorem State.rest_faultTake (h : F.may [.pmr, .sns, .pfe, .tdc, .tbs, .seq, .evb, .hst, .accum, .cmp, .que, .cab, .trg,
    .lnk, .tre, .flt, .eth, .detected, .pwr, .out, .events] faultRegs) (hr : ∀ r, F.region r) :
    rest F s.faultTake = rest F s := by
  unfold State.faultTake
  split
  · rfl
  · rw [State.rest_raise h.sub hr, rest_detected h.sub]

theorem State.rest_pwrSafe (h : F.may [.pmr, .sns, .pfe, .tdc, .seq, .evb, .hst, .accum, .cmp, .que, .cab, .trg, .lnk,
    .eth, .pwr, .events] (safeRegs ++ [Fld.pmr_PWR_CMD_ERR])) (hr : ∀ r, F.region r) (own : Bool) :
    rest F (s.pwrSafe own) = rest F s := by
  simp only [State.pwrSafe, State.rest_pwrErr h.sub, State.rest_enterSafe h.sub hr, rest_ite, ite_self, eq_self]

theorem State.rest_evbFlush (h : F.may [.seq, .evb, .hst, .accum, .cmp, .que, .cab, .eth, .events] (engineRegs ++
    fabricRegs ++ feedRegs ++ [Fld.eth_EVQ_LOST])) (hr : ∀ r, F.region r) (r : Fin 16) (k : Nat) :
    rest F (s.evbFlush r k) = rest F s := by
  simp only [State.evbFlush, State.rest_headEmit h.sub, State.rest_closeUpTo h.sub (h.at hr), rest_foldl, eq_self,
    implies_true]

theorem State.rest_standbyEntry (h : F.may [.pmr, .seq, .evb, .hst, .accum, .cmp, .que, .cab, .mem, .edc, .trg, .eth,
    .detected, .pwr, .events] (engineRegs ++ storeRegs ++ fabricRegs ++ feedRegs ++ [Fld.eth_EVQ_LOST,
    Fld.pmr_ACQ_ENABLED, Fld.pmr_PWR_STATE])) (hr : ∀ r, F.region r) :
    rest F s.standbyEntry = rest F s := by
  unfold State.standbyEntry
  dsimp only
  split <;> simp only [State.wrB_eq, rest_pmr h.sub, rest_wr .pmr_ACQ_ENABLED h.sub, State.rest_setPwr h.sub,
    State.rest_evbFlush h.sub hr, State.rest_trigRelease h.sub, State.rest_setEvbR h.sub, State.rest_cabStandby h.sub,
    rest_on, rest_each, rest_ite, ite_self, eq_self, implies_true]

theorem State.rest_gapOwn (h : F.may [.evb, .cmp, .que, .cab, .eth, .events] (fabricRegs ++ feedRegs ++
    [Fld.eth_EVQ_LOST])) (first last regions reason : Nat) :
    rest F (s.gapOwn first last regions reason) = rest F s := by
  simp only [State.gapOwn, State.rest_moduleRec h.sub, eq_self]

theorem State.rest_scrubTick (h : F.may [.cab] []) :
    rest F s.scrubTick = rest F s := by
  unfold State.scrubTick
  exact State.rest_cabUpd h.sub (by intro _; rfl)

theorem State.rest_servoTemp (h : F.may [.detected, .events] [.eth_EVQ_LOST, .sns_BIAS_FROZEN, .sns_T_USED]) :
    rest F s.servoTemp = rest F s := by
  unfold State.servoTemp
  extract_lets frozen leave
  have hl (x : State) : rest F (leave x) = rest F x := by
    simp only [leave, State.wrB_eq, rest_ite, State.rest_emit h.sub, rest_wr .sns_BIAS_FROZEN h.sub, ite_self]
  refine rest_ite_eq ((hl _).trans (rest_wr .sns_T_USED h.sub _ _)) ?_
  split
  · exact (hl _).trans (rest_wr .sns_T_USED h.sub _ _)
  · simp only [State.wrB_eq, rest_ite, State.rest_detect h.sub, rest_wr .sns_BIAS_FROZEN h.sub, ite_self]

theorem State.rest_servoStep (h : F.may [] [.sns_VCLAMP, .sns_V_SET]) (r : Fin 16) :
    rest F (s.servoStep r) = rest F s := by
  unfold State.servoStep
  extract_lets s1 v slew
  have h1 : rest F s1 = rest F s := rest_ite_eq (rest_wr .sns_VCLAMP h.sub _ _) rfl
  split
  · split
    · exact h1
    · exact (rest_wr .sns_V_SET h.sub _ _).trans h1
  · rfl

theorem State.rest_snsTick (h : F.may [.detected, .events] (servoRegs ++ [Fld.eth_EVQ_LOST])) :
    rest F s.snsTick = rest F s := by
  simp only [State.snsTick, State.rest_servoTemp h.sub, State.rest_servoStep h.sub, rest_on, rest_each, eq_self,
    implies_true]

theorem State.rest_boundaryTail (h : F.may [.pfe, .seq, .evb, .accum, .cmp, .que, .cab, .trg, .eth, .detected, .events]
    (engineRegs ++ fabricRegs ++ dailyRegs ++ servoRegs ++ [Fld.accr_ACC_FRAMES, Fld.accr_ACC_PARTIAL_CNT,
    Fld.accr_PARTIAL, Fld.que_GRANT_WAIT, Fld.que_PATCH_CNT])) (hr : ∀ r, F.region r) (k : Nat) (x : Int) :
    rest F (s.boundaryTail k x) = rest F s := by
  simp only [State.boundaryTail, State.rest_flushBehind h.sub (h.at hr), State.rest_snsTick h.sub,
    State.rest_upRec h.sub, State.rest_trigSource h.sub, rest_when, rest_on, rest_each, eq_self, implies_true]

theorem State.rest_hkaTick (h : F.may [.hka, .detected, .events] (scanRegs ++ [Fld.eth_EVQ_LOST])) :
    rest F s.hkaTick = rest F s := by
  simp only [State.hkaTick, rest_hka h.sub, State.rest_hkaClose h.sub, State.rest_hkaStale h.sub, rest_on, rest_ite,
    ite_self, eq_self, implies_true]

theorem State.rest_sramBoundary (h : F.may [.flash, .edc, .events] [.edc_SRAM_ROWS_SPARED, .eth_EVQ_LOST]) :
    rest F s.sramBoundary = rest F s := by
  simp only [State.sramBoundary, State.bump_eq, rest_flash h.sub, rest_edc h.sub, rest_wr .edc_SRAM_ROWS_SPARED h.sub,
    State.rest_emit h.sub, rest_each, rest_ite, ite_self, eq_self, implies_true]

theorem State.rest_gapFlush (h : F.may [.evb, .cmp, .que, .cab, .eth, .events] (fabricRegs ++ feedRegs ++
    [Fld.eth_EVQ_LOST])) :
    rest F s.gapFlush = rest F s := by
  simp only [State.gapFlush, State.rest_cabUpd h.sub, State.rest_moduleRec h.sub, State.rest_gapOwn h.sub, rest_each,
    rest_ite, ite_self, eq_self, implies_true]

theorem State.rest_featBoundary (h : F.may [.lnk, .tre, .detected, .events] (roleRegs ++ [Fld.eth_EVQ_LOST, Fld.evb_ZS_EN,
    Fld.tre_FEAT_PEND, Fld.tre_TREE_FEAT])) (k : Nat) :
    rest F (s.featBoundary k) = rest F s := by
  unfold State.featBoundary
  split
  · exact rest_ite_eq (State.rest_featApply h.sub _ _) rfl
  · rfl

theorem State.rest_dhcpAgain (h : F.may [.eth, .out] []) :
    rest F s.dhcpAgain = rest F s := by
  simp only [State.dhcpAgain, State.rest_ethUpd h.sub, State.rest_sayDhcp h.sub, rest_ite, ite_self, eq_self]

theorem State.rest_ethTick (h : F.may [.que, .eth, .out, .events] (areaRegs ++ [Fld.eth_EVQ_LOST, Fld.eth_QP_HELD,
    Fld.que_HELD_CNT])) :
    rest F s.ethTick = rest F s := by
  simp only [State.ethTick, State.rest_ringOvf h.sub, State.rest_dhcpAgain h.sub, rest_each, eq_self, implies_true]

theorem State.rest_xingReport (h : F.may [.tdc, .events] [.eth_EVQ_LOST]) (hr : ∀ r, F.region r) :
    rest F s.xingReport = rest F s := by
  simp only [State.xingReport, State.rest_emit h.sub, State.rest_setTdcR h.sub (h.at hr), rest_each, rest_ite, ite_self,
    eq_self, implies_true]

theorem State.rest_onceTick (h : F.may [.flash, .pfe, .tdc, .seq, .evb, .accum, .cmp, .que, .cab, .edc, .trg, .lnk, .tre,
    .hka, .eth, .detected, .out, .events] (engineRegs ++ fabricRegs ++ scanRegs ++ feedRegs ++ dailyRegs ++ servoRegs ++
    roleRegs ++ [Fld.accr_ACC_FRAMES, Fld.accr_ACC_PARTIAL_CNT, Fld.accr_PARTIAL, Fld.edc_SRAM_ROWS_SPARED, Fld.evb_ZS_EN,
    Fld.tre_FEAT_PEND, Fld.tre_TREE_FEAT])) (hr : ∀ r, F.region r) (k : Nat) :
    rest F (s.onceTick k) = rest F s := by
  simp only [State.onceTick, State.rest_scrubTick h.sub, State.rest_auxFlush h.sub, State.rest_boundaryTail h.sub hr,
    State.rest_hkaTick h.sub, State.rest_sramBoundary h.sub, State.rest_gapFlush h.sub, State.rest_featBoundary h.sub,
    State.rest_ethTick h.sub, State.rest_xingReport h.sub hr, rest_on, rest_ite, ite_self, eq_self, implies_true]

theorem State.rest_takeBoundary (h : F.may [.cab, .events] [.cab_CFG_ERR, .cab_CMD_BUSY, .cab_CMD_RES, .eth_EVQ_LOST]) (k
    : Nat) :
    rest F (s.takeBoundary k) = rest F s := by
  have hc {c : State} {f : Cab → Cab} (e : Nat) (hf : ∀ x, (f x).mem = x.mem) (hx : rest F c = rest F s) :
      rest F (((c.cabUpd f).wrB .cab_CMD_BUSY 0 false).cmdRes e) = rest F s := by
    rw [State.rest_cmdRes h.sub, State.wrB_eq, rest_wr .cab_CMD_BUSY h.sub, State.rest_cabUpd h.sub hf, hx]
  unfold State.takeBoundary
  extract_lets s1 s2 full
  have h1 : rest F s1 = rest F s := by
    unfold s1
    split
    · exact rest_ite_eq (hc _ (by intro _; rfl) rfl) (rest_ite_eq (hc _ (by intro _; rfl) rfl) rfl)
    · refine rest_ite_eq (hc _ (by intro _; rfl) ?_) rfl
      split
      · exact rest_ite_eq (State.rest_setTake h.sub _) rfl
      · rfl
    · rfl
  calc _ = rest F s2 := State.rest_cabUpd h.sub (by intro _; rfl)
    _ = rest F s1 := rest_each (fun _ _ => State.rest_reelFull h.sub _) _
    _ = rest F s := h1

theorem State.rest_calRestart (h : F.may [.tdc, .events] [.eth_EVQ_LOST]) (hr : ∀ r, F.region r) (r : Fin 16) :
    rest F (s.calRestart r) = rest F s := by
  simp only [State.calRestart, State.rest_emit h.sub, State.rest_setTdcR h.sub (h.at hr), rest_ite, ite_self, eq_self]

theorem State.rest_calBoundary (h : F.may [.tdc, .events] [.eth_EVQ_LOST, .tdcr_CAL_LOAD_BUSY]) (hr : ∀ r, F.region r) (r
    : Fin 16) :
    rest F (s.calBoundary r) = rest F s := by
  simp only [State.calBoundary, State.wrB_eq, rest_wr .tdcr_CAL_LOAD_BUSY h.sub, State.rest_setTdcR h.sub (h.at hr),
    State.rest_calRestart h.sub hr, State.rest_setGroup h.sub (h.at hr), rest_each, rest_ite, ite_self, eq_self,
    implies_true]

theorem State.rest_tdcTick (h : F.may [.tdc, .tbs, .events] [.eth_EVQ_LOST, .tdcr_CAL_LOAD_BUSY]) (hr : ∀ r, F.region r) :
    rest F s.tdcTick = rest F s := by
  simp only [State.tdcTick, rest_tbs h.sub, State.rest_calBoundary h.sub hr, State.rest_setAux h.sub, rest_on,
    rest_each, eq_self, implies_true]

theorem State.rest_pushSeg (h : F.may [.seq] []) (g : Seg) :
    rest F (s.pushSeg g) = rest F s := by
  simp only [State.pushSeg, rest_seq h.sub, eq_self]

theorem State.rest_tickRegs (h : F.may [] scheduleRegs) (num den : Nat) (epoch : Int) (base : Nat) :
    rest F (s.tickRegs num den epoch base) = rest F s := by
  simp only [State.tickRegs, rest_wr .seq_TICK_BASE h.sub, rest_wr .seq_TICK_DEN h.sub, rest_wr .seq_TICK_EPOCH h.sub,
    rest_wr .seq_TICK_NUM h.sub, eq_self]

theorem State.rest_relayDue (h : F.may [.seq] scheduleRegs) (k : Nat) :
    rest F (s.relayDue k) = rest F s := by
  unfold State.relayDue
  split
  · simp only [State.rest_tickRegs h.sub, State.rest_pushSeg h.sub, State.rest_seqUpd h.sub, rest_ite, ite_self]
  · rfl

theorem State.rest_subIdx (h : F.may [.evb] [.accr_SUB_IDX]) (r : Fin 16) (k : Nat) :
    rest F (s.subIdx r k) = rest F s := by
  simp only [State.subIdx, rest_wr .accr_SUB_IDX h.sub, State.rest_upRec h.sub, rest_ite, ite_self, eq_self]

theorem State.rest_accBegin (h : F.may [.evb, .accum] [.accr_SUB_IDX]) (hr : ∀ r, F.region r) (r : Fin 16) (k : Nat) :
    rest F (s.accBegin r k) = rest F s := by
  simp only [State.accBegin, State.rest_setAccR h.sub (h.at hr), State.rest_subIdx h.sub, eq_self]

theorem State.rest_accBoundary (h : F.may [.evb, .accum] [.accr_SUB_IDX]) (hr : ∀ r, F.region r) (r : Fin 16) (k : Nat) :
    rest F (s.accBoundary r k) = rest F s := by
  simp only [State.accBoundary, State.rest_accBegin h.sub hr, State.rest_subIdx h.sub, rest_ite, ite_self, eq_self]

theorem State.rest_histoStart (h : F.may [.hst] []) (hr : ∀ r, F.region r) (r : Fin 16) (k : Nat) (x : Int) :
    rest F (s.histoStart r k x) = rest F s := by
  simp only [State.histoStart, State.rest_setHstR h.sub (h.at hr), eq_self]

theorem State.rest_freshStreams (h : F.may [.cmp] []) (hr : ∀ r, F.region r) (r : Fin 16) (k m n : Nat) :
    rest F (s.freshStreams r k m n) = rest F s := by
  simp only [State.freshStreams, State.rest_setCtx h.sub (h.at hr), rest_each, rest_ite, ite_self, eq_self,
    implies_true]

theorem State.rest_upFrame (h : F.may [.pfe] []) (hr : ∀ r, F.region r) (r : Fin 16) (k : Nat) (g : Frame → Frame) :
    rest F (s.upFrame r k g) = rest F s := by
  simp only [State.upFrame, State.rest_setPfeR h.sub (h.at hr), eq_self]

theorem State.rest_gateIdx (h : F.may [.evb, .hst] gateRegs) (hr : ∀ r, F.region r) (r : Fin 16) (k step : Nat) (held :
    Bool) :
    rest F (s.gateIdx r k step held) = rest F s := by
  simp only [State.gateIdx, State.wrB_eq, rest_wr .hstr_GATE_HELD h.sub, rest_wr .hstr_GATE_IDX h.sub,
    State.rest_upRec h.sub, State.rest_setHstR h.sub (h.at hr), eq_self]

theorem State.rest_windowStart (h : F.may [.seq, .evb] []) (r : Fin 16) (k : Nat) :
    rest F (s.windowStart r k) = rest F s := by
  simp only [State.windowStart, rest_seq h.sub, State.rest_setEvbR h.sub, eq_self]

theorem State.rest_modeChange (h : F.may [.pfe, .seq, .evb, .hst, .accum, .cmp, .que, .cab, .eth, .events] (engineRegs ++
    fabricRegs ++ gateRegs ++ [Fld.eth_EVQ_LOST, Fld.pfer_INJ_EN, Fld.que_GRANT_WAIT, Fld.que_PATCH_CNT,
    Fld.seq_REGION_FINAL])) (hr : ∀ r, F.region r) (r : Fin 16) (k m n : Nat) :
    rest F (s.modeChange r k m n) = rest F s := by
  simp only [State.modeChange, State.wrB_eq, State.wrBit_eq, rest_seq h.sub, rest_wr .pfer_INJ_EN h.sub,
    rest_wr .seq_REGION_FINAL h.sub, State.rest_histoStart h.sub hr, State.rest_gateStop h.sub (h.at hr),
    State.rest_freshStreams h.sub hr, State.rest_upFrame h.sub hr, State.rest_upRec h.sub,
    State.rest_gateIdx h.sub hr, State.rest_winDrained h.sub (h.at hr), State.rest_windowStart h.sub,
    State.rest_setEvbR h.sub, rest_when, eq_self, implies_true]

theorem State.rest_accChange (h : F.may [.pfe, .evb, .accum] [.accr_SUB_IDX]) (hr : ∀ r, F.region r) (r : Fin 16) (k m n :
    Nat) (restart : Bool) :
    rest F (s.accChange r k m n restart) = rest F s := by
  simp only [State.accChange, State.rest_accBegin h.sub hr, State.rest_upFrame h.sub hr, State.rest_upRec h.sub,
    State.rest_subIdx h.sub, State.rest_setAccR h.sub (h.at hr), rest_when, rest_ite, ite_self, eq_self, implies_true]

theorem State.rest_modeClear (h : F.may [.pfe, .seq, .evb, .hst, .accum, .cmp, .que, .cab, .eth, .events] (engineRegs ++
    fabricRegs ++ gateRegs ++ [Fld.accr_SUB_IDX, Fld.eth_EVQ_LOST, Fld.pfer_INJ_EN, Fld.que_GRANT_WAIT, Fld.que_PATCH_CNT,
    Fld.seq_REGION_FINAL, Fld.seq_REGION_MODE])) (hr : ∀ r, F.region r) (r : Fin 16) (k : Nat) (drain : Bool) :
    rest F (s.modeClear r k drain) = rest F s := by
  unfold State.modeClear
  extract_lets m w s1 _ s2
  have hw : rest F w = rest F s := rest_wr .seq_REGION_MODE h.sub _ _
  have h1 : rest F s1 = rest F s := rest_ite_eq (rest_shadow hw) hw
  have h2 : rest F s2 = rest F s := (rest_seq h.sub _).trans h1
  refine rest_ite_eq ?_ ?_
  · exact (State.rest_accChange h.sub hr _ _ _ _ _).trans ((State.rest_modeChange h.sub hr _ _ _ _).trans h2)
  · exact (State.rest_upRec h.sub _ _ _).trans ((rest_when (fun _ => State.rest_gateIdx h.sub hr _ _ _ _) _).trans h2)

theorem State.rest_ctxBoundary (h : F.may [.cmp] [.cmpr_CTX_LOAD_BUSY]) (hr : ∀ r, F.region r) (r : Fin 16) :
    rest F (s.ctxBoundary r) = rest F s := by
  unfold State.ctxBoundary
  split
  · rfl
  next k c _ =>
    extract_lets x s1
    have h1 : rest F s1 = rest F s :=
      (rest_wr .cmpr_CTX_LOAD_BUSY h.sub _ _).trans (State.rest_setCmpR h.sub (h.at hr) _)
    exact rest_ite_eq h1 ((State.rest_ctxReady h.sub (h.at hr) k).trans h1)

theorem State.rest_injTick (h : F.may [.pfe] [.pfer_INJ_OVR]) (hr : ∀ r, F.region r) (r : Fin 16) (x y : Int) :
    rest F (s.injTick r x y) = rest F s := by
  simp only [State.injTick, State.wrB_eq, rest_wr .pfer_INJ_OVR h.sub, State.rest_setPfeR h.sub (h.at hr), rest_ite,
    ite_self, eq_self]

theorem State.rest_injCount (h : F.may [.pfe] [.pfer_INJ_ISSUED]) (hr : ∀ r, F.region r) (r : Fin 16) :
    rest F (s.injCount r) = rest F s := by
  simp only [State.injCount, rest_wr .pfer_INJ_ISSUED h.sub, State.rest_setPfeR h.sub (h.at hr), eq_self]

theorem State.rest_swapAt (h : F.may [.pfe, .evb, .hst] []) (hr : ∀ r, F.region r) (r : Fin 16) (k m : Nat) (gone jumped :
    Bool) :
    rest F (s.swapAt r k m gone jumped) = rest F s := by
  simp only [State.swapAt, State.rest_upRec h.sub, State.rest_setPfeR h.sub (h.at hr),
    State.rest_setHstR h.sub (h.at hr), rest_ite, ite_self, eq_self]

theorem State.rest_gateTick (h : F.may [.hst] []) (hr : ∀ r, F.region r) (r : Fin 16) (x : Int) :
    rest F (s.gateTick r x) = rest F s := by
  simp only [State.gateTick, State.rest_setHstR h.sub (h.at hr), eq_self]

theorem State.rest_gateBoundary (h : F.may [.evb, .hst] gateRegs) (hr : ∀ r, F.region r) (r : Fin 16) (k : Nat) (x :
    Int) (into : Bool) :
    rest F (s.gateBoundary r k x into) = rest F s := by
  simp only [State.gateBoundary, State.rest_gateTick h.sub hr, State.rest_gateIdx h.sub hr, rest_ite, ite_self, eq_self]

theorem State.rest_maskSetBits (h : F.may [.pfe, .staged] []) (k m : Nat) :
    rest F (s.maskSetBits k m) = rest F s := by
  unfold State.maskSetBits
  extract_lets up
  exact (rest_staged (s := { s with pfe := { s.pfe with maskF := up s.pfe.maskF, maskS := up s.pfe.maskS } }) h.sub _).trans
    (rest_pfe h.sub _ rfl)

theorem State.rest_hotBoundary (h : F.may [.pfe, .staged] []) (hr : ∀ r, F.region r) (r : Fin 16) :
    rest F (s.hotBoundary r) = rest F s := by
  simp only [State.hotBoundary, State.rest_setPfeR h.sub (h.at hr), State.rest_maskSetBits h.sub, rest_each, rest_ite,
    ite_self, eq_self, implies_true]

theorem State.rest_tickRegion (h : F.may [.pfe, .seq, .evb, .hst, .accum, .cmp, .que, .cab, .eth, .detected, .staged,
    .events] (engineRegs ++ fabricRegs ++ gateRegs ++ [Fld.accr_SUB_IDX, Fld.cmpr_CTX_LOAD_BUSY, Fld.eth_EVQ_LOST,
    Fld.pfer_INJ_EN, Fld.pfer_INJ_ISSUED, Fld.pfer_INJ_OVR, Fld.que_GRANT_WAIT, Fld.que_PATCH_CNT, Fld.seq_REGION_FINAL,
    Fld.seq_REGION_MODE, Fld.seq_TICK_OVR_CNT])) (hr : ∀ r, F.region r) (r : Fin 16) (k : Nat) (x y : Int) (marks : Nat)
    (gone into : Bool) :
    rest F (s.tickRegion r k x y marks gone into) = rest F s := by
  unfold State.tickRegion
  extract_lets _ _ s1 s2 s3 s4 s5 s6 s7
  have h1 : rest F s1 = rest F s := by
    refine rest_ite_eq ?_ rfl
    rw [State.rest_detect h.sub, State.rest_headFlag h.sub, State.bump_eq, rest_wr .seq_TICK_OVR_CNT h.sub]
  have h2 : rest F s2 = rest F s1 := rest_on (fun _ => State.rest_newRec h.sub _ _ _ _) _
  have h3 : rest F s3 = rest F s2 := rest_on (fun _ => by rw [State.rest_injCount h.sub hr, State.rest_swapAt h.sub hr]) _
  have h4 : rest F s4 = rest F s3 := by
    refine rest_ite_eq (State.rest_modeClear h.sub hr _ _ _) (rest_ite_eq ?_ rfl)
    exact (State.rest_modeClear h.sub hr _ _ _).trans (rest_on (fun _ => State.rest_accBoundary h.sub hr _ _) _)
  have h5 : rest F s5 = rest F s4 := rest_on (fun _ => by
    simp only [State.rest_injTick h.sub hr, State.rest_upRec h.sub, State.rest_hotBoundary h.sub hr, rest_ite, ite_self]) _
  have h6 : rest F s6 = rest F s5 := rest_on (fun _ => State.rest_gateBoundary h.sub hr _ _ _ _) _
  have h7 : rest F s7 = rest F s6 := rest_on (fun _ => State.rest_accBoundary h.sub hr _ _) _
  have h8 : rest F (s7.on .cmp fun s => s.ctxBoundary r) = rest F s7 := rest_on (fun _ => State.rest_ctxBoundary h.sub hr _) _
  rw [h8, h7, h6, h5, h4, h3, h2, h1]

theorem State.rest_boundary (h : F.may [.flash, .pfe, .tdc, .tbs, .seq, .evb, .hst, .accum, .cmp, .que, .cab, .edc, .trg,
    .lnk, .tre, .hka, .eth, .detected, .staged, .out, .events] boundaryRegs) (hr : ∀ r, F.region r) (k : Nat) (x : Int)
    (stepped gone into : Bool) :
    rest F (s.boundary k x stepped gone into) = rest F s := by
  simp only [State.boundary, rest_tdc h.sub, rest_wr .seq_TICK_INDEX h.sub, State.rest_gapOwn h.sub,
    State.rest_onceTick h.sub hr, State.rest_headFlag h.sub, State.rest_takeBoundary h.sub, State.rest_emit h.sub,
    State.rest_tdcTick h.sub hr, State.rest_seqUpd h.sub, State.rest_relayDue h.sub, State.rest_featBoundary h.sub,
    State.rest_hkaTick h.sub, State.rest_setEvbR h.sub, State.rest_tickRegion h.sub hr, rest_on, rest_each, rest_ite,
    ite_self, eq_self, implies_true]

theorem State.rest_tickBoundary (h : F.may [.flash, .pfe, .tdc, .tbs, .seq, .evb, .hst, .accum, .cmp, .que, .cab, .edc,
    .trg, .lnk, .tre, .hka, .eth, .detected, .staged, .out, .events] boundaryRegs) (hr : ∀ r, F.region r) :
    rest F s.tickBoundary = rest F s := by
  simp only [State.tickBoundary, State.rest_boundary h.sub hr, rest_foldl, rest_ite, ite_self, eq_self, implies_true]

theorem State.rest_pacing (h : F.may [.flash, .pfe, .tdc, .tbs, .seq, .evb, .hst, .accum, .cmp, .que, .cab, .edc, .trg,
    .lnk, .tre, .hka, .eth, .detected, .staged, .out, .events] (engineRegs ++ fabricRegs ++ scanRegs ++ feedRegs ++
    accRegs ++ dailyRegs ++ servoRegs ++ roleRegs ++ gateRegs ++ [Fld.cmpr_CTX_LOAD_BUSY, Fld.edc_SRAM_ROWS_SPARED,
    Fld.evb_ZS_EN, Fld.pfer_INJ_EN, Fld.seq_REGION_FINAL, Fld.seq_REGION_MODE, Fld.tdcr_CAL_LOAD_BUSY, Fld.tre_FEAT_PEND,
    Fld.tre_TREE_FEAT])) (hr : ∀ r, F.region r) :
    rest F s.pacing = rest F s := by
  unfold State.pacing
  dsimp only
  split <;> simp only [State.rest_onceTick h.sub hr, State.rest_modeClear h.sub hr, State.rest_ctxBoundary h.sub hr,
    State.rest_tdcTick h.sub hr, State.rest_seqUpd h.sub, State.rest_featBoundary h.sub, State.rest_hkaTick h.sub,
    State.rest_hotBoundary h.sub hr, rest_on, rest_each, rest_ite, ite_self, eq_self, implies_true]

theorem State.rest_scheduleBegin (h : F.may [.flash, .pfe, .tdc, .tbs, .seq, .evb, .hst, .accum, .cmp, .que, .cab, .edc,
    .trg, .lnk, .tre, .hka, .eth, .detected, .staged, .out, .events] (engineRegs ++ fabricRegs ++ scanRegs ++ feedRegs ++
    accRegs ++ dailyRegs ++ servoRegs ++ roleRegs ++ gateRegs ++ [Fld.cmpr_CTX_LOAD_BUSY, Fld.edc_SRAM_ROWS_SPARED,
    Fld.evb_ZS_EN, Fld.pfer_INJ_EN, Fld.pfer_INJ_OVR, Fld.seq_REGION_FINAL, Fld.seq_REGION_MODE, Fld.seq_TICK_INDEX,
    Fld.seq_TICK_RUN, Fld.tdcr_CAL_LOAD_BUSY, Fld.tre_FEAT_PEND, Fld.tre_TREE_FEAT])) (hr : ∀ r, F.region r) (stepped :
    Bool) :
    rest F (s.scheduleBegin stepped) = rest F s := by
  unfold State.scheduleBegin
  split
  · rfl
  extract_lets _ _ _ s1 s2 s3 quiet _ _ s4 s5 _ s6
  have h3 : rest F s3 = rest F s := by
    simp only [s3, s2, s1, State.wrB_eq, State.rest_setEvbR h.sub, rest_wr .seq_TICK_RUN h.sub, rest_wr .seq_TICK_INDEX h.sub,
      State.rest_seqUpd h.sub, rest_each, implies_true]
  have hq (y : State) : rest F (quiet y) = rest F y := State.rest_seqUpd h.sub _
  refine rest_ite_eq (rest_ite_eq ?_ ?_) rfl
  · rw [rest_on (fun _ => State.rest_featBoundary h.sub _), State.rest_hkaTick h.sub, hq, h3]
  · have h4 : rest F s4 = rest F s3 := by
      refine (rest_each (fun r z => ?_) _).trans (State.rest_tdcTick h.sub hr)
      extract_lets z1 z2 z3
      have k1 : rest F z1 = rest F z := rest_on (fun _ => State.rest_newRec h.sub _ _ _ _) _
      have k2 : rest F z2 = rest F z1 :=
        rest_ite_eq (State.rest_modeClear h.sub hr _ _ _) (rest_ite_eq (State.rest_modeClear h.sub hr _ _ _) rfl)
      have k3 : rest F z3 = rest F z2 := rest_on (fun _ => by
        simp only [State.rest_injTick h.sub hr, State.rest_setPfeR h.sub (h.at hr), State.rest_hotBoundary h.sub hr, rest_ite,
          ite_self]) _
      rw [rest_on (fun _ => State.rest_ctxBoundary h.sub hr _), k3, k2, k1]
    have h6 : rest F s6 = rest F s4 := (rest_tdc (s := s5) h.sub _ (by rfl)).trans (hq s4)
    rw [State.rest_onceTick h.sub hr, h6, h4, h3]

theorem State.rest_scheduleStart (h : F.may [.flash, .pfe, .tdc, .tbs, .seq, .evb, .hst, .accum, .cmp, .que, .cab, .edc,
    .trg, .lnk, .tre, .hka, .eth, .detected, .staged, .out, .events] (engineRegs ++ fabricRegs ++ scanRegs ++ feedRegs ++
    accRegs ++ dailyRegs ++ servoRegs ++ roleRegs ++ gateRegs ++ [Fld.cmpr_CTX_LOAD_BUSY, Fld.edc_SRAM_ROWS_SPARED,
    Fld.evb_ZS_EN, Fld.pfer_INJ_EN, Fld.pfer_INJ_OVR, Fld.seq_REGION_FINAL, Fld.seq_REGION_MODE, Fld.seq_TICK_INDEX,
    Fld.seq_TICK_RUN, Fld.tdcr_CAL_LOAD_BUSY, Fld.tre_FEAT_PEND, Fld.tre_TREE_FEAT])) (hr : ∀ r, F.region r) :
    rest F s.scheduleStart = rest F s := by
  simp only [State.scheduleStart, State.rest_scheduleBegin h.sub hr, eq_self]

theorem State.rest_qpStart (h : F.may [.eth, .out, .events] [.eth_EVQ_LOST, .eth_NEXT_PSN, .eth_QP_CI, .eth_QP_FINAL,
    .eth_QP_PI, .eth_QP_STATE, .eth_RATE]) (q : Fin 8) :
    rest F (s.qpStart q) = rest F s := by
  simp only [State.qpStart, State.wrBit_eq, rest_wr .eth_NEXT_PSN h.sub, rest_wr .eth_QP_CI h.sub,
    rest_wr .eth_QP_FINAL h.sub, rest_wr .eth_QP_PI h.sub, rest_wr .eth_QP_STATE h.sub, rest_wr .eth_RATE h.sub,
    State.rest_setQp h.sub, State.rest_qpResolve h.sub, eq_self]

theorem State.rest_addressStart (h : F.may [.eth, .free, .out, .events] [.eth_ADDR_VALID, .eth_EVQ_LOST, .eth_IP_IN_USE,
    .eth_QP_STATE]) :
    rest F s.addressStart = rest F s := by
  simp only [State.addressStart, State.rest_solicit h.sub, State.rest_dropIp h.sub, State.rest_ethUpd h.sub,
    State.rest_takeIp h.sub, rest_ite, ite_self, eq_self]

theorem State.rest_pfcCommit (h : F.may [.eth] [.eth_PAUSED]) (prio : Nat) :
    rest F (s.pfcCommit prio) = rest F s := by
  simp only [State.pfcCommit, State.wrB_eq, rest_wr .eth_PAUSED h.sub, State.rest_ethUpd h.sub, rest_ite, ite_self,
    eq_self]

theorem State.rest_ethCommit (h : F.may [.eth, .free, .out, .events] [.eth_ADDR_VALID, .eth_ETH_FINAL, .eth_EVQ_LOST,
    .eth_IP_IN_USE, .eth_LINK_UP, .eth_NEXT_PSN, .eth_PAUSED, .eth_QP_CI, .eth_QP_FINAL, .eth_QP_PI, .eth_QP_STATE,
    .eth_RATE]) (on speed fec prio : Nat) (en : Bool) :
    rest F (s.ethCommit on speed fec prio en) = rest F s := by
  unfold State.ethCommit
  extract_lets s1 s2 s3 s4 now
  have h1 : rest F s1 = rest F s := State.rest_pfcCommit h.sub _
  have h2 : rest F s2 = rest F s1 := rest_ite_eq (rest_wr .eth_LINK_UP h.sub _ _) rfl
  have h3 : rest F s3 = rest F s2 := rest_ite_eq (rest_wr .eth_ETH_FINAL h.sub _ _) rfl
  have h4 : rest F s4 = rest F s3 := State.rest_addressStart h.sub
  refine (rest_each (fun q x => ?_) _).trans (h4.trans (h3.trans (h2.trans h1)))
  simp only [State.rest_qpStart h.sub, State.rest_qpDrained h.sub, State.rest_setQp h.sub, rest_ite, ite_self]

theorem State.rest_trgCommit (h : F.may [.trg] [.trg_TRG_FINAL, .trg_TRIG_LAT_MIN]) (k : Nat) (en : Bool) (pre post : Nat)
    :
    rest F (s.trgCommit k en pre post) = rest F s := by
  simp only [State.trgCommit, State.wrB_eq, rest_wr .trg_TRG_FINAL h.sub, rest_wr .trg_TRIG_LAT_MIN h.sub,
    State.rest_trgUpd h.sub, State.rest_trgFinal h.sub, rest_each, rest_ite, ite_self, eq_self, implies_true]

theorem State.rest_treCommit (h : F.may [.lnk, .tre] [.tre_LINK_ROLE, .tre_STBY_OK, .tre_TRE_FINAL]) (en stby : Bool) :
    rest F (s.treCommit en stby) = rest F s := by
  unfold State.treCommit
  extract_lets s1 s2
  have h1 : rest F s1 = rest F s :=
    rest_ite_eq (State.rest_treUpd h.sub _)
      (rest_ite_eq ((rest_wr .tre_TRE_FINAL h.sub _ _).trans (State.rest_treUpd h.sub _)) rfl)
  have h2 : rest F s2 = rest F s1 := rest_each (fun l x =>
    rest_ite_eq ((rest_wr .tre_STBY_OK h.sub _ _).trans (State.rest_setRole h.sub _ _)) rfl) _
  refine rest_ite_eq ?_ (rest_ite_eq ?_ h1)
  · exact (rest_when (fun _ => State.rest_sendUp h.sub _) _).trans (h2.trans h1)
  · exact (rest_each (fun _ _ => rest_when (fun _ => State.rest_sendReply h.sub _ _) _) _).trans h1

theorem State.rest_revCap (h : F.may [.lnk] []) :
    rest F s.revCap = rest F s := by
  simp only [State.revCap, State.rest_huntAt h.sub, rest_each, rest_ite, ite_self, eq_self, implies_true]

theorem State.rest_lnkLanes (h : F.may [.tbs, .que, .trg, .lnk, .tre, .detected, .out, .events] (lossRegs ++ trainRegs ++
    areaRegs ++ [Fld.eth_EVQ_LOST, Fld.lnk_BACKOFF_NOW, Fld.lnk_LANE_LOSS, Fld.lnk_REPLAYS, Fld.lnk_RESTRIPES])) :
    rest F s.lnkLanes = rest F s := by
  simp only [State.lnkLanes, State.rest_laneUp h.sub, State.rest_laneLeave h.sub, State.rest_huntLanes h.sub, rest_each,
    rest_ite, ite_self, eq_self, implies_true]

theorem State.rest_lnkCommit (h : F.may [.tbs, .que, .trg, .lnk, .tre, .detected, .out, .events] (lossRegs ++ trainRegs ++
    areaRegs ++ [Fld.eth_EVQ_LOST, Fld.lnk_BACKOFF_NOW, Fld.lnk_LANE_LOSS, Fld.lnk_REPLAYS, Fld.lnk_RESTRIPES])) (en :
    Nat) :
    rest F (s.lnkCommit en) = rest F s := by
  simp only [State.lnkCommit, State.wrBit_eq, rest_wr .lnk_PORT_FINAL h.sub, State.rest_revCap h.sub,
    State.rest_setLink h.sub, State.rest_lnkLanes h.sub, State.rest_portDrained h.sub, rest_each, rest_ite, ite_self,
    eq_self, implies_true]

theorem State.rest_tbsCommit (h : F.may [.tbs, .detected, .events] (sourceRegs ++ [Fld.eth_EVQ_LOST, Fld.tbs_CLAP_QUAL,
    Fld.tbs_PTP_QUAL])) (old : Nat) (parent : Option Nat) :
    rest F (s.tbsCommit old parent) = rest F s := by
  unfold State.tbsCommit
  extract_lets new s1 s2 s3
  have h1 : rest F s1 = rest F s := rest_ite_eq (State.rest_tbsUpd h.sub _) rfl
  have h2 : rest F s2 = rest F s1 := rest_ite_eq rfl (rest_wr .tbs_PTP_QUAL h.sub _ _)
  have h3 : rest F s3 = rest F s2 := rest_when (fun _ => State.rest_tbsUpd h.sub _) _
  exact (rest_ite_eq (State.rest_qualChanged h.sub) (State.rest_clapSel h.sub)).trans (h3.trans (h2.trans h1))

theorem State.rest_hkaCommit (h : F.may [.hka] []) (mains en per : Nat) :
    rest F (s.hkaCommit mains en per) = rest F s := by
  simp only [State.hkaCommit, rest_hka h.sub, State.rest_upRtd h.sub, rest_each, rest_ite, ite_self, eq_self,
    implies_true]

theorem State.rest_commitBlocks (h : F.may [.tbs, .que, .cab, .trg, .lnk, .tre, .hka, .eth, .detected, .free, .out,
    .events] (lossRegs ++ trainRegs ++ areaRegs ++ [Fld.cab_SCRUB_QUANT, Fld.eth_ADDR_VALID, Fld.eth_ETH_FINAL,
    Fld.eth_EVQ_LOST, Fld.eth_IP_IN_USE, Fld.eth_LINK_UP, Fld.eth_NEXT_PSN, Fld.eth_PAUSED, Fld.eth_QP_CI,
    Fld.eth_QP_FINAL, Fld.eth_QP_PI, Fld.eth_QP_STATE, Fld.eth_RATE, Fld.lnk_BACKOFF_NOW, Fld.lnk_LANE_LOSS,
    Fld.lnk_REPLAYS, Fld.lnk_RESTRIPES, Fld.tbs_PTP_QUAL, Fld.tre_TRE_FINAL, Fld.trg_TRG_FINAL, Fld.trg_TRIG_LAT_MIN]))
    (old : State) (k : Nat) :
    rest F (s.commitBlocks old k) = rest F s := by
  simp only [State.commitBlocks, State.rest_relayAll h.sub, State.rest_ethCommit h.sub, State.rest_scrubPlan h.sub,
    State.rest_trgCommit h.sub, State.rest_treCommit h.sub, State.rest_lnkCommit h.sub, State.rest_tbsCommit h.sub,
    State.rest_hkaCommit h.sub, rest_on, rest_ite, ite_self, eq_self, implies_true]

theorem State.rest_relAll (h : F.may [.seq, .evb, .hst, .accum, .cmp, .que, .cab, .eth, .events] (engineRegs ++ fabricRegs ++
    histRegs ++ feedRegs ++ [Fld.eth_EVQ_LOST, Fld.evb_EARLY_REL, Fld.evb_LATE_CNT, Fld.evb_RS_EARLY]))
    (hr : ∀ r, F.region r) (r : Fin 16) (n : Nat) : rest F (s.relAll r n) = rest F s := by
  induction n generalizing s with
  | zero => rfl
  | succ n ih =>
    unfold State.relAll
    split
    next he => exact ih.trans (State.rest_relDue h.sub (h.at hr) he)
    next => rfl

theorem State.rest_reorderChange (h : F.may [.seq, .evb, .hst, .accum, .cmp, .que, .cab, .eth, .events] (engineRegs ++
    fabricRegs ++ histRegs ++ feedRegs ++ [Fld.eth_EVQ_LOST, Fld.evb_EARLY_REL, Fld.evb_LATE_CNT, Fld.evb_RS_EARLY])) (hr
    : ∀ r, F.region r) :
    rest F s.reorderChange = rest F s := by
  exact rest_each (fun r _ => State.rest_relAll h.sub hr r _) _

theorem State.rest_epochUp (h : F.may [] [.hdr_PAGE_EPOCH, .seq_CFG_EPOCH, .seq_EPOCH_TICK]) (pages : List Nat) (k : Nat)
    :
    rest F (s.epochUp pages k) = rest F s := by
  simp only [State.epochUp, State.bump_eq, rest_wr .hdr_PAGE_EPOCH h.sub, rest_wr .seq_CFG_EPOCH h.sub,
    rest_wr .seq_EPOCH_TICK h.sub, rest_each, eq_self, implies_true]

theorem State.rest_ownValues (h : F.may [] [.evb_ZS_EN, .pfer_INJ_EN, .seq_REGION_MODE]) :
    rest F s.ownValues = rest F s := by
  simp only [State.ownValues, State.wrB_eq, rest_wr .evb_ZS_EN h.sub, rest_wr .pfer_INJ_EN h.sub,
    rest_wr .seq_REGION_MODE h.sub, rest_when, rest_each, rest_ite, ite_self, eq_self, implies_true]

theorem State.rest_feChange (h : F.may [.pfe] [.pfer_FE_FINAL]) (hr : ∀ r, F.region r) (r : Fin 16) (k m : Nat) (was :
    Bool) :
    rest F (s.feChange r k m was) = rest F s := by
  simp only [State.feChange, State.wrB_eq, rest_wr .pfer_FE_FINAL h.sub, State.rest_upFrame h.sub hr,
    State.rest_setPfeR h.sub (h.at hr), State.rest_feFinal h.sub (h.at hr), rest_ite, ite_self, eq_self]

theorem State.rest_gateRestart (h : F.may [.evb, .hst] gateRegs) (hr : ∀ r, F.region r) (r : Fin 16) (k : Nat) (x : Int)
    (oldRef : Bool) :
    rest F (s.gateRestart r k x oldRef) = rest F s := by
  simp only [State.gateRestart, State.rest_gateTick h.sub hr, State.rest_gateIdx h.sub hr,
    State.rest_setHstR h.sub (h.at hr), rest_ite, ite_self, eq_self]

theorem State.rest_cmpChange (h : F.may [.cmp] [.cmpr_CMP_FINAL]) (hr : ∀ r, F.region r) (r : Fin 16) (was : Bool) :
    rest F (s.cmpChange r was) = rest F s := by
  simp only [State.cmpChange, State.wrB_eq, rest_wr .cmpr_CMP_FINAL h.sub, State.rest_setCmpR h.sub (h.at hr),
    State.rest_cmpDrained h.sub (h.at hr), rest_ite, ite_self, eq_self]

theorem State.rest_tdcChange (h : F.may [.tdc] [.tdcr_TDC_FINAL]) (hr : ∀ r, F.region r) (r : Fin 16) (k : Nat) (was :
    Bool) :
    rest F (s.tdcChange r k was) = rest F s := by
  simp only [State.tdcChange, State.wrB_eq, rest_wr .tdcr_TDC_FINAL h.sub, State.rest_setTdcR h.sub (h.at hr), rest_ite,
    ite_self, eq_self]

theorem State.rest_commitRegion (h : F.may [.pfe, .tdc, .seq, .evb, .hst, .accum, .cmp, .que, .cab, .eth, .events]
    (engineRegs ++ fabricRegs ++ gateRegs ++ [Fld.accr_SUB_IDX, Fld.eth_EVQ_LOST, Fld.pfer_FE_FINAL, Fld.pfer_INJ_EN,
    Fld.pfer_INJ_OVR, Fld.que_GRANT_WAIT, Fld.que_PATCH_CNT, Fld.seq_REGION_FINAL, Fld.tdcr_TDC_FINAL])) (hr : ∀ r,
    F.region r) (old : State) (g : Staged) (r : Fin 16) (k : Nat) (x y : Int) :
    rest F (s.commitRegion old g r k x y) = rest F s := by
  simp only [State.commitRegion, State.rest_accChange h.sub hr, State.rest_injTick h.sub hr,
    State.rest_feChange h.sub hr, State.rest_gateRestart h.sub hr, State.rest_upRec h.sub,
    State.rest_cmpChange h.sub hr, State.rest_modeChange h.sub hr, State.rest_tdcChange h.sub hr, rest_when, rest_ite,
    ite_self, eq_self, implies_true]

theorem State.rest_commitTicks (h : F.may [.seq, .lnk, .tre] scheduleRegs) (old : State) (g : Staged) (k : Nat) :
    rest F (s.commitTicks old g k) = rest F s := by
  unfold State.commitTicks
  extract_lets num den epoch base s1
  refine rest_ite_eq ?_ (rest_ite_eq ?_ (rest_ite_eq ?_ rfl))
  · simp only [List.foldl_cons, List.foldl_nil, rest_wr .seq_TICK_BASE h.sub, rest_wr .seq_TICK_EPOCH h.sub,
      rest_wr .seq_TICK_DEN h.sub, rest_wr .seq_TICK_NUM h.sub]
  · exact (State.rest_relayAll h.sub _).trans (rest_seq h.sub _)
  · exact (State.rest_tickRegs h.sub _ _ _ _).trans (State.rest_pushSeg h.sub _)

theorem State.rest_rampRebase (h : F.may [.sns] []) :
    rest F s.rampRebase = rest F s := by
  refine rest_each (fun r x => ?_) _
  split
  · rfl
  · exact State.rest_setRamp h.sub _ _

theorem State.rest_relayAnswer (h : F.may [.lnk, .tre, .ctl, .out] []) (q : RelayReq) (status : Nat) (words : List Nat) :
    rest F (s.relayAnswer q status words) = rest F s := by
  simp only [State.relayAnswer, State.rest_treUpd h.sub, State.rest_sendUp h.sub, State.rest_relayGather h.sub,
    rest_ite, ite_self, eq_self]

theorem State.rest_commitSaid (h : F.may [.lnk, .tre, .ctl, .out] []) (g : Staged) (ok : Bool) :
    rest F (s.commitSaid g ok) = rest F s := by
  unfold State.commitSaid
  split
  · exact rest_on (fun _ => State.rest_relayAnswer h.sub _ _ _) _
  · rfl

theorem State.rest_stepHeads (h : F.may [.evb] []) :
    rest F s.stepHeads = rest F s := by
  simp only [State.stepHeads, State.rest_headFlag h.sub, rest_when, rest_each, eq_self, implies_true]

theorem State.rest_servo (h : F.may [.tbs] [.tbs_FREERUN, .tbs_FREQ_CLAMP, .tbs_FREQ_WORD, .tbs_LOCKED]) (k : Nat) (e :
    Int) (a : Nat) :
    rest F (s.servo k e a) = rest F s := by
  simp only [State.servo, State.wrB_eq, rest_wr .tbs_FREERUN h.sub, rest_wr .tbs_LOCKED h.sub, State.rest_tbsUpd h.sub,
    State.rest_setFreq h.sub, rest_ite, ite_self, eq_self]

theorem State.rest_nextEdge : rest F s.nextEdge = rest F s := rest_at _

theorem State.rest_tbStep (h : F.may [.tbs, .events] stepRegs) (d : Int) :
    rest F (s.tbStep d) = rest F s := by
  simp only [State.tbStep, State.wrB_eq, State.bump_eq, rest_wr .tbs_STEPPED h.sub, rest_wr .tbs_STEP_COUNT h.sub,
    rest_wr .tbs_STEP_GEN h.sub, State.rest_tbsUpd h.sub, State.rest_emit h.sub, eq_self]

theorem State.rest_srcUpdate (h : F.may [.tbs, .detected, .events] (sourceRegs ++ [Fld.eth_EVQ_LOST])) :
    rest F s.srcUpdate = rest F s := by
  unfold State.srcUpdate
  refine rest_ite_eq (State.rest_srcSelect h.sub) ?_
  split
  · exact State.rest_srcSwitch h.sub _
  · exact State.rest_holdover h.sub _

theorem State.rest_servoUpdate (h : F.may [.tbs, .detected, .events] (sourceRegs ++ stepRegs ++ [Fld.tbs_FREERUN,
    Fld.tbs_PHASE_ERR])) (k : Nat) (e step left : Int) (follow : Bool) :
    rest F (s.servoUpdate k e step left follow) = rest F s := by
  unfold State.servoUpdate
  extract_lets s1 s2 s3 big
  have h1 : rest F s1 = rest F s := State.rest_srcUpdate h.sub
  have h2 : rest F s2 = rest F s1 := (rest_wr .tbs_HOLDOVER h.sub _ _).trans (rest_wr .tbs_PHASE_ERR h.sub _ _)
  have h3 : rest F s3 = rest F s := (State.rest_tbsUpd h.sub _).trans (h2.trans h1)
  refine rest_ite_eq (rest_ite_eq ?_ (rest_ite_eq ?_ ?_)) h1
  · rw [State.rest_servo h.sub, State.rest_tbStep h.sub, State.rest_nextEdge, State.rest_tbsUpd h.sub, h3]
  · rw [State.rest_servo h.sub, State.rest_tbStep h.sub, State.rest_nextEdge, h3]
  · rw [State.rest_servo h.sub, h3]

theorem State.rest_extUpdate (h : F.may [.tbs, .detected, .events] (sourceRegs ++ stepRegs ++ [Fld.tbs_FREERUN,
    Fld.tbs_PHASE_ERR])) (x : Int) :
    rest F (s.extUpdate x) = rest F s := by
  unfold State.extUpdate
  dsimp only
  split <;> simp only [State.rest_servoUpdate h.sub, eq_self]

theorem State.rest_clapReport {f : State → State} (l : Fin 10) (hf : ∀ x, rest F (f x) = rest F x) :
    rest F (s.clapReport l f) = rest F s :=
  rest_ite_eq (hf s) rfl

theorem State.rest_clapRx (h : F.may [.tbs, .detected, .events] (sourceRegs ++ stepRegs ++ [Fld.tbs_CLAP_DELAY, Fld.tbs_CLAP_LANE,
    Fld.tbs_CLAP_OFS, Fld.tbs_CLAP_QUAL, Fld.tbs_CLAP_TQ, Fld.tbs_CLAP_VALID, Fld.tbs_FREERUN, Fld.tbs_PHASE_ERR,
    Fld.tbs_RX_LAT, Fld.tbs_TX_LAT])) (l : Fin 10) (lane : Nat) (k : Clap) : rest F (s.clapRx l lane k) = rest F s := by
  unfold State.clapRx
  extract_lets p c t2now i t2 t3 changed ready c1 s1 none_
  have h1 : rest F s1 = rest F s := by
    refine (State.rest_clapReport l fun x => ?_).trans (State.rest_setClap h.sub _ _)
    simp only [rest_wr .tbs_RX_LAT h.sub, rest_wr .tbs_TX_LAT h.sub, rest_wr .tbs_CLAP_LANE h.sub, rest_wr .tbs_CLAP_TQ h.sub]
  have hn : rest F none_ = rest F s := (State.rest_setClap h.sub _ _).trans h1
  clear_value none_ s1 t2 t3
  refine rest_ite_eq hn ?_
  rcases t2 with _ | t2
  · exact hn
  rcases t3 with _ | t3
  · exact hn
  · refine rest_ite_eq ?_ hn
    extract_lets
    split
    extract_lets s2 s3 s4
    have h2 : rest F s2 = rest F s := (State.rest_setClap h.sub _ _).trans h1
    have h3 : rest F s3 = rest F s2 := State.rest_clapReport l fun x => by
      simp only [State.wrB_eq, State.wrS_eq, rest_wr .tbs_CLAP_VALID h.sub, rest_wr .tbs_CLAP_DELAY h.sub,
        rest_wr .tbs_CLAP_OFS h.sub]
    have h4 : rest F s4 = rest F s3 := rest_when (fun _ => rest_wr .tbs_CLAP_QUAL h.sub _ _) _
    have hq : rest F (s4.qualChanged) = rest F s := (State.rest_qualChanged h.sub).trans (h4.trans (h3.trans h2))
    exact rest_ite_eq ((State.rest_servoUpdate h.sub _ _ _ _ _).trans hq) (h3.trans h2)

theorem State.rest_ptpDelayResp (h : F.may [.tbs, .detected, .events] (sourceRegs ++ stepRegs ++ [Fld.tbs_FREERUN,
    Fld.tbs_PHASE_ERR, Fld.tbs_PTP_DISC, Fld.tbs_PTP_QUAL])) (x : PtpHead) (t4 : Nat) :
    rest F (s.ptpDelayResp x t4) = rest F s := by
  unfold State.ptpDelayResp
  refine State.rest_ptpMsg h.sub _ fun y => ?_
  split
  · refine rest_ite_eq ?_ rfl
    extract_lets th run y1 y2
    have h2 : rest F y2 = rest F y := (rest_ite_eq (rest_wr .tbs_PTP_QUAL h.sub _ _) rfl).trans (State.rest_tbsUpd h.sub _)
    exact (State.rest_servoUpdate h.sub _ _ _ _ _).trans ((State.rest_qualChanged h.sub).trans h2)
  · rfl

theorem State.rest_stepTo (h : F.may [.tbs, .events] stepRegs) (x : Nat) :
    rest F (s.stepTo x) = rest F s := by
  exact (State.rest_tbStep h.sub _).trans State.rest_nextEdge

theorem State.rest_stepCmd (h : F.may [.tbs, .events] (stepRegs ++ [Fld.tbs_STEP_REFUSED])) :
    rest F s.stepCmd = rest F s := by
  simp only [State.stepCmd, State.wrB_eq, rest_wr .tbs_STEP_REFUSED h.sub, State.rest_stepTo h.sub, rest_ite, ite_self,
    eq_self]

theorem State.rest_stepWrite (h : F.may [.tbs, .events] (stepRegs ++ [Fld.tbs_STEP_REFUSED])) (own : Bool) :
    rest F (s.stepWrite own) = rest F s := by
  simp only [State.stepWrite, State.rest_stepCmd h.sub, rest_ite, ite_self, eq_self]

theorem State.rest_timeSet (h : F.may [.tbs, .events] (stepRegs ++ [Fld.tbs_CFG_ERR, Fld.tbs_TIME_SET])) (w : Nat) :
    rest F (s.timeSet w) = rest F s := by
  unfold State.timeSet
  dsimp only
  split <;> simp only [State.wrB_eq, rest_wr .tbs_CFG_ERR h.sub, rest_wr .tbs_TIME_SET h.sub, State.rest_stepTo h.sub, rest_ite,
    ite_self, eq_self]

theorem State.rest_lnkStart (h : F.may [.tbs, .que, .trg, .lnk, .tre, .detected, .out, .events] (lossRegs ++ trainRegs ++
    areaRegs ++ [Fld.eth_EVQ_LOST, Fld.lnk_BACKOFF_NOW, Fld.lnk_LANE_LOSS, Fld.lnk_REPLAYS, Fld.lnk_RESTRIPES])) :
    rest F s.lnkStart = rest F s := by
  simp only [State.lnkStart, rest_lnk h.sub, State.rest_lnkLanes h.sub, eq_self]

theorem State.rest_hkaStart (h : F.may [.hka] [.hka_CAL_BUSY]) :
    rest F s.hkaStart = rest F s := by
  simp only [State.hkaStart, rest_hka h.sub, State.rest_upRtd h.sub, State.rest_calStart h.sub, rest_each, eq_self,
    implies_true]

theorem State.rest_ethStart (h : F.may [.eth, .free, .out, .events] [.eth_ADDR_VALID, .eth_EVQ_LOST, .eth_IP_IN_USE,
    .eth_QP_STATE]) :
    rest F s.ethStart = rest F s := by
  simp only [State.ethStart, rest_eth h.sub, State.rest_addressStart h.sub, eq_self]

theorem State.rest_treStart (h : F.may [.tre, .detected] [.tre_MODULE_ID, .tre_ROLE, .tre_ROLE_SW, .tre_TOPO_FAULT]) :
    rest F s.treStart = rest F s := by
  simp only [State.treStart, rest_tre h.sub, rest_wr .tre_ROLE h.sub, rest_wr .tre_ROLE_SW h.sub,
    State.rest_takeRootId h.sub, rest_ite, ite_self, eq_self]

theorem State.rest_maskStart (h : F.may [.pfe] [.pfe_MASK_IMG_VALID]) :
    rest F s.maskStart = rest F s := by
  simp only [State.maskStart, State.wrB_eq, rest_pfe h.sub, rest_wr .pfe_MASK_IMG_VALID h.sub, eq_self]

theorem State.rest_tbsStart (h : F.may [.tbs] []) :
    rest F s.tbsStart = rest F s := by
  simp only [State.tbsStart, rest_tbs h.sub, eq_self]

theorem State.rest_blkStart (h : F.may [.pfe, .tdc, .tbs, .que, .trg, .lnk, .tre, .hka, .eth, .detected, .free, .out,
    .events] (lossRegs ++ trainRegs ++ treeRegs ++ areaRegs ++ featRegs ++ [Fld.eth_ADDR_VALID, Fld.eth_EVQ_LOST,
    Fld.eth_IP_IN_USE, Fld.eth_QP_STATE, Fld.hka_CAL_BUSY, Fld.lnk_BACKOFF_NOW, Fld.lnk_LANE_LOSS, Fld.lnk_REPLAYS,
    Fld.lnk_RESTRIPES, Fld.pfe_MASK_IMG_VALID, Fld.tre_FW_VER, Fld.tre_MODULE_ID, Fld.tre_ROLE, Fld.tre_ROLE_SW,
    Fld.tre_STRAP_POS, Fld.tre_STRAP_ROLE])) (hr : ∀ r, F.region r) (b : Nat) (role pos : Nat) :
    rest F (s.blkStart b role pos) = rest F s := by
  simp only [State.blkStart, rest_wr .tre_FW_VER h.sub, rest_wr .tre_STRAP_POS h.sub, rest_wr .tre_STRAP_ROLE h.sub,
    State.rest_lnkStart h.sub, State.rest_hkaStart h.sub, State.rest_ethStart h.sub, State.rest_treStart h.sub,
    State.rest_calRestart h.sub hr, State.rest_maskStart h.sub, State.rest_lnkLanes h.sub, State.rest_treReady h.sub,
    State.rest_tbsStart h.sub, rest_on, rest_each, rest_ite, ite_self, eq_self, implies_true]

theorem State.rest_blkRelease (h : F.may [.pmr, .pfe, .tdc, .tbs, .que, .trg, .lnk, .tre, .hka, .eth, .detected, .held,
    .free, .out, .events] (lossRegs ++ trainRegs ++ treeRegs ++ areaRegs ++ featRegs ++ [Fld.eth_ADDR_VALID,
    Fld.eth_EVQ_LOST, Fld.eth_IP_IN_USE, Fld.eth_QP_STATE, Fld.hka_CAL_BUSY, Fld.lnk_BACKOFF_NOW, Fld.lnk_LANE_LOSS,
    Fld.lnk_REPLAYS, Fld.lnk_RESTRIPES, Fld.pfe_MASK_IMG_VALID, Fld.tre_FW_VER, Fld.tre_MODULE_ID, Fld.tre_ROLE,
    Fld.tre_ROLE_SW, Fld.tre_STRAP_POS, Fld.tre_STRAP_ROLE])) (hr : ∀ r, F.region r) (b : Nat) (role pos : Nat) :
    rest F (s.blkRelease b role pos) = rest F s := by
  unfold State.blkRelease
  dsimp only
  split <;> simp only [rest_held h.sub, State.rest_blkStart h.sub hr, State.rest_pmrUpd h.sub, rest_ite, ite_self, eq_self]

theorem State.rest_release (h : F.may [.held] []) (l : List Blk) :
    rest F (s.release l) = rest F s := by
  simp only [State.release, rest_held h.sub, eq_self]

theorem State.rest_runSlot (h : F.may [.pmr, .held] [.pmr_BOOT_FALLBACK, .pmr_BOOT_SLOT, .pmr_TRIAL]) (b trial : Bool) :
    rest F (s.runSlot b trial) = rest F s := by
  simp only [State.runSlot, State.wrB_eq, rest_wr .pmr_BOOT_FALLBACK h.sub, rest_wr .pmr_BOOT_SLOT h.sub,
    rest_wr .pmr_TRIAL h.sub, State.rest_release h.sub, State.rest_loadCore h.sub, State.rest_pmrUpd h.sub, eq_self]

theorem State.rest_marchRow (h : F.may [.flash, .edc, .detected, .events] [.edc_SELFTEST_FAIL, .edc_SRAM_ROWS_SPARED,
    .eth_EVQ_LOST]) (m : SramMac) (row : Nat) :
    rest F (s.marchRow m row) = rest F s := by
  unfold State.marchRow
  dsimp only
  split
  · rw [State.bump_eq, rest_wr .edc_SRAM_ROWS_SPARED h.sub, State.rest_emit h.sub]
    exact rest_edc_flash h.sub _ _
  · rw [State.rest_detect h.sub, State.wrB_eq, rest_wr .edc_SELFTEST_FAIL h.sub]

theorem State.rest_edcStart (h : F.may [.flash, .edc, .detected, .held, .events] [.edc_SELFTEST_FAIL,
    .edc_SRAM_ROWS_SPARED, .eth_EVQ_LOST]) (march : List (SramMac × BitVec 16)) :
    rest F (s.edcStart march) = rest F s := by
  unfold State.edcStart
  refine (rest_each (fun _ _ => State.rest_marchRow h.sub _ _) _).trans ?_
  exact (rest_wr .edc_SRAM_ROWS_SPARED h.sub _ _).trans ((rest_edc h.sub _).trans (State.rest_release h.sub _))

theorem State.rest_softAgain (h : F.may [.cab, .mem, .edc, .detected, .events] (storeRegs ++ [Fld.edc_PPR_SOFT,
    Fld.eth_EVQ_LOST])) (p : Nat) (ok : Bool) :
    rest F (s.softAgain p ok) = rest F s := by
  simp only [State.softAgain, State.bump_eq, rest_wr .edc_PPR_SOFT h.sub, State.rest_spareSpan h.sub,
    State.rest_mergeDrain h.sub, rest_ite, ite_self, eq_self]

theorem State.rest_cabStart (h : F.may [.cab, .mem, .edc, .detected, .events] (storeRegs ++ [Fld.edc_PPR_SOFT,
    Fld.eth_EVQ_LOST, Fld.pmr_CAB_OFFLINE])) (trained : Bool) (soft : List Bool) :
    rest F (s.cabStart trained soft) = rest F s := by
  simp only [State.cabStart, State.wrB_eq, rest_wr .pmr_CAB_OFFLINE h.sub, State.rest_detect h.sub,
    State.rest_softAgain h.sub, State.rest_poolRegs h.sub, rest_each, rest_foldl, rest_ite, ite_self, eq_self,
    implies_true]

theorem State.rest_startRest (h : F.may [.pmr, .flash, .sns, .pfe, .tdc, .tbs, .seq, .evb, .hst, .accum, .cmp, .que, .cab,
    .mem, .edc, .trg, .lnk, .tre, .hka, .eth, .detected, .held, .pwr, .free, .out, .events] (safeRegs ++ lossRegs ++
    storeRegs ++ trainRegs ++ treeRegs ++ featRegs ++ [Fld.cab_CFG_ERR, Fld.cab_REPAIR_BUSY, Fld.edc_PPR_SOFT,
    Fld.eth_ADDR_VALID, Fld.eth_IP_IN_USE, Fld.eth_QP_STATE, Fld.hka_CAL_BUSY, Fld.hka_CAL_FAIL, Fld.hka_CAL_GAIN,
    Fld.hka_CAL_OFS, Fld.hka_IEXC, Fld.hka_RANGE_GAIN0, Fld.hka_RANGE_GAIN1, Fld.hka_RANGE_GAIN2, Fld.lnk_BACKOFF_NOW,
    Fld.lnk_LANE_LOSS, Fld.lnk_REPLAYS, Fld.lnk_RESTRIPES, Fld.pfe_MASK_IMG_VALID, Fld.pmr_CAB_OFFLINE, Fld.pmr_START_MS,
    Fld.tre_FW_VER, Fld.tre_MODULE_ID, Fld.tre_ROLE, Fld.tre_ROLE_SW, Fld.tre_STRAP_POS, Fld.tre_STRAP_ROLE])) (hr : ∀ r,
    F.region r) (x : StartUp) :
    rest F (s.startRest x) = rest F s := by
  unfold State.startRest
  dsimp only
  split <;> simp only [State.wrB_eq, rest_wr .flt_SAFE_ACT h.sub, rest_wr .pmr_START_MS h.sub, rest_wr .tre_FW_VER h.sub,
    rest_wr .tre_STRAP_POS h.sub, rest_wr .tre_STRAP_ROLE h.sub, State.rest_safeNow h.sub hr,
    State.rest_hkaStart h.sub, State.rest_lnkStart h.sub, State.rest_ethStart h.sub, State.rest_treStart h.sub,
    State.rest_setPwr h.sub, State.rest_cabStart h.sub, State.rest_calRestart h.sub hr, State.rest_calDone h.sub,
    State.rest_maskStart h.sub, State.rest_pmrUpd h.sub, State.rest_tbsStart h.sub, State.rest_readyReached h.sub,
    State.rest_release h.sub, rest_each, eq_self, implies_true]

theorem State.rest_wrForce {f : Fld} {i : Nat} (h : F.fld f i) (v : Nat) : rest F (s.wrForce f i v) = rest F s := by
  refine rest_eq_iff.2 ⟨fun g j n => ⟨?_, rfl⟩, fun x _ => samePart_refl s x, fun _ _ => ⟨rfl, rfl, rfl, rfl, rfl⟩⟩
  have hk : g.key j ≠ f.key i := fun e => n (by obtain ⟨rfl, rfl⟩ := Fld.key_inj e; exact h)
  simp only [State.wrForce, State.rd, spGet_set_of_ne _ _ _ _ hk]

theorem State.rest_recover (h : F.may [.pmr, .detected, .held] [.eth_ETH_SPEED]) : rest F s.recover = rest F s := by
  simp only [State.recover, State.rest_wrForce (h.fld _), State.rest_release h.sub, State.rest_loadCore h.sub,
    State.rest_detect h.sub, State.rest_pmrUpd h.sub]

theorem State.rest_xingReset (h : F.may [.tdc, .detected] []) (hr : ∀ r, F.region r) (b : Nat) :
    rest F (s.xingReset b) = rest F s := by
  simp only [State.xingReset, rest_detected h.sub, State.rest_setTdcR h.sub (h.at hr), rest_each, rest_ite, ite_self,
    eq_self, implies_true]

theorem State.rest_exclude (h : F.may [.pmr, .flt, .detected] [.flt_MEM_A, .flt_MEM_B, .flt_MEM_C, .flt_RESYNC_A,
    .flt_RESYNC_B, .flt_RESYNC_C]) (m : Fin 3) : rest F (s.exclude m) = rest F s := by
  unfold State.exclude
  extract_lets w recent s1 s2
  have h1 : rest F s1 = rest F s := (State.rest_fltUpd h.sub _).trans (State.rest_setProg h.sub _ _)
  have h2 : rest F s2 = rest F s1 := by
    refine Eq.trans ?_ (State.rest_setMember h.sub m 1)
    simp only [s2, State.bump_eq]
    split
    · exact rest_wr .flt_RESYNC_A h.sub _ _
    · split
      · exact rest_wr .flt_RESYNC_B h.sub _ _
      · exact rest_wr .flt_RESYNC_C h.sub _ _
  refine rest_ite_eq ?_ ?_
  · exact (State.rest_detect h.sub _ _ _ _ _ _).trans ((State.rest_setMember h.sub _ _).trans h1)
  · exact (State.rest_detect h.sub _ _ _ _ _ _).trans (h2.trans h1)

theorem State.rest_sessClear (h : F.may [.ctl] [.ctl_SESS_IP, .ctl_SESS_LEVEL, .ctl_SESS_OPEN, .ctl_SESS_PORT,
    .ctl_SESS_SALT, .ctl_SESS_SLOT]) :
    rest F s.sessClear = rest F s := by
  simp only [State.sessClear, rest_ctl h.sub, rest_wr .ctl_SESS_IP h.sub, rest_wr .ctl_SESS_LEVEL h.sub,
    rest_wr .ctl_SESS_OPEN h.sub, rest_wr .ctl_SESS_PORT h.sub, rest_wr .ctl_SESS_SALT h.sub,
    rest_wr .ctl_SESS_SLOT h.sub, rest_each, eq_self, implies_true]

end Sys2Proof.Machine
end

/-! ### A commit at its boundary, and a step of TB time: what they leave alone (R84, R115, R118) -/

section
namespace Sys2Proof.Machine

open Sys2Proof Safety

set_option Elab.async false

/-- The status bits of a commit that is refused (R115). -/
def rejectRegs : List Fld :=
  [.pmr_CFG_ERR, .sns_CFG_ERR, .pfer_CFG_ERR, .tdcr_CFG_ERR, .tdc_CFG_ERR, .seq_CFG_ERR, .evb_CFG_ERR, .trg_CFG_ERR,
   .hstr_CFG_ERR, .accr_CFG_ERR, .cmpr_CFG_ERR, .que_CFG_ERR, .cab_CFG_ERR, .edc_CFG_ERR, .tbs_CFG_ERR, .lnk_CFG_ERR,
   .tre_CFG_ERR, .eth_CFG_ERR, .ctl_CFG_ERR, .hka_CFG_ERR, .flt_CFG_ERR, .seq_TICK_CFG_ERR, .seq_TICK_BUDGET_ERR,
   .seq_MODE_ERR, .pfer_THR_ERR, .hstr_GATE_CFG_ERR, .hka_SCAN_CFG_ERR]

/-- What the blocks and the regions report as a configuration is put in force (R115, R118). -/
def commitRegs : List Fld :=
  lossRegs ++ engineRegs ++ fabricRegs ++ trainRegs ++ histRegs ++ feedRegs ++ gateRegs ++
  [Fld.accr_SUB_IDX, Fld.cab_SCRUB_QUANT, Fld.eth_ADDR_VALID, Fld.eth_ETH_FINAL, Fld.eth_EVQ_LOST, Fld.eth_IP_IN_USE,
   Fld.eth_LINK_UP, Fld.eth_NEXT_PSN, Fld.eth_PAUSED, Fld.eth_QP_CI, Fld.eth_QP_FINAL, Fld.eth_QP_PI, Fld.eth_QP_STATE,
   Fld.eth_RATE, Fld.evb_EARLY_REL, Fld.evb_LATE_CNT, Fld.evb_RS_EARLY, Fld.evb_ZS_EN, Fld.lnk_BACKOFF_NOW,
   Fld.lnk_LANE_LOSS, Fld.lnk_REPLAYS, Fld.lnk_RESTRIPES, Fld.pfer_FE_FINAL, Fld.pfer_INJ_EN, Fld.pfer_INJ_OVR,
   Fld.seq_REGION_FINAL, Fld.seq_REGION_MODE, Fld.tbs_PTP_QUAL, Fld.tdcr_TDC_FINAL, Fld.tre_TRE_FINAL, Fld.trg_TRG_FINAL,
   Fld.trg_TRIG_LAT_MIN]

/-- The epoch of a configuration put in force (R118). -/
def epochRegs : List Fld := [.hdr_PAGE_EPOCH, .seq_CFG_EPOCH, .seq_EPOCH_TICK]

/-- The parts a configuration put in force reaches, but for the power state. -/
def commitParts : List Part :=
  [.sns, .pfe, .tdc, .tbs, .seq, .evb, .hst, .accum, .cmp, .que, .cab, .trg, .lnk, .tre, .hka, .eth, .detected, .free, .out,
   .events]

variable {F : Foot} {s u v : State}

/-! #### A commit that is refused -/

/-- Every status bit of l is one of a refused commit's. -/
def Refuses (l : List (Fld × Nat)) : Prop := ∀ e ∈ l, e.1 ∈ rejectRegs

section
variable {l m : List (Fld × Nat)} {α : Type}

theorem Refuses.append (hl : Refuses l) (hm : Refuses m) : Refuses (l ++ m) :=
  fun e he => (List.mem_append.1 he).elim (hl e) (hm e)

theorem Refuses.ite {c : Prop} [Decidable c] (hl : Refuses l) (hm : Refuses m) : Refuses (if c then l else m) := by
  split <;> assumption

theorem Refuses.map {f : α → Fld × Nat} (hf : ∀ a, (f a).1 ∈ rejectRegs) (k : List α) : Refuses (k.map f) := by
  intro e he
  obtain ⟨a, _, rfl⟩ := List.mem_map.1 he
  exact hf a

theorem Refuses.flatMap {f : α → List (Fld × Nat)} (hf : ∀ a, Refuses (f a)) (k : List α) : Refuses (k.flatMap f) := by
  intro e he
  obtain ⟨a, _, ha⟩ := List.mem_flatMap.1 he
  exact hf a e ha

theorem Refuses.nil : Refuses [] := fun _ he => absurd he List.not_mem_nil

theorem Refuses.cons {f : Fld} {i : Nat} (hl : Refuses l) (hf : f ∈ rejectRegs := by decide) : Refuses ((f, i) :: l) := by
  intro e he
  rcases List.mem_cons.1 he with rfl | h
  · exact hf
  · exact hl e h

end

theorem errOf_mem_rejectRegs (f : Fld) (i : Nat) : (f.errOf i).1 ∈ rejectRegs := by
  unfold Fld.errOf
  repeat' split
  all_goals simp only [rejectRegs, List.mem_cons, true_or, or_true]

theorem State.refuses_commitErrs (g : Staged) : Refuses (s.commitErrs g) := by
  have one {c : Prop} [Decidable c] {f : Fld} (hf : f ∈ rejectRegs) : Refuses (if c then [(f, 0)] else []) :=
    .ite (.cons .nil hf) .nil
  have lim : Refuses (limErrs g) := .flatMap (fun f => .map (fun i => errOf_mem_rejectRegs f i) _) _
  have tick : Refuses (s.tickErrs g) := one (by decide)
  have budget : Refuses g.budgetErrs := .ite .nil (.cons .nil)
  have thr : Refuses g.thrErrs := .flatMap (fun _ => .cons (.cons .nil)) _
  have inj : Refuses g.injErrs := .map (fun _ => (by decide : Fld.pfer_CFG_ERR ∈ rejectRegs)) _
  have mode : Refuses (s.modeErrs g) := one (by decide)
  have gate : Refuses (s.gateErrs g) := .flatMap (fun _ => .cons (.cons .nil)) _
  have trg : Refuses (s.trgErrs g) := one (by decide)
  have cab : Refuses (s.cabErrs g) := one (by decide)
  have eth : Refuses g.ethErrs := one (by decide)
  have hka : Refuses (s.hkaErrs g) := .append (.ite (.cons (.cons .nil)) .nil) (one (by decide))
  have misc : Refuses (s.miscErrs g) :=
    .append (.append (.map (fun _ => (by decide : Fld.cmpr_CFG_ERR ∈ rejectRegs)) _) (one (by decide))) (one (by decide))
  exact lim.append tick |>.append budget |>.append thr |>.append inj |>.append mode |>.append gate |>.append trg
    |>.append cab |>.append eth |>.append hka |>.append misc

theorem rest_each_of_mem {α : Type} {f : α → State → State} {l : List α} (hf : ∀ a ∈ l, ∀ x, rest F (f a x) = rest F x) :
    rest F (s.each l f) = rest F s := by
  induction l generalizing s with
  | nil => rfl
  | cons a l ih => exact (ih fun b hb => hf b (List.mem_cons_of_mem a hb)).trans (hf a List.mem_cons_self s)

theorem State.rest_commitReject (h : F.may [] (rejectRegs ++ [.seq_TICK_BUDGET_REGION, .seq_TICK_BUDGET_MIN])) (g : Staged) :
    rest F (s.commitReject g) = rest F s := by
  unfold State.commitReject
  extract_lets s1
  have h1 : rest F s1 = rest F s :=
    (rest_each_of_mem fun e he x => rest_wr_of (h.2 _ (List.mem_append_left _ (s.refuses_commitErrs g e he)) _) _).trans
      (rest_wr .seq_CFG_ERR h.sub _ _)
  split
  · exact h1
  · rw [rest_wr .seq_TICK_BUDGET_MIN h.sub, rest_wr .seq_TICK_BUDGET_REGION h.sub, h1]

/-! #### A configuration put in force -/

/-- commitForce but for the power state: what a configuration put in force has the blocks and regions do (R115, R118). -/
def State.commitInForce (s : State) (g : Staged) (k : Nat) (x : Int) : State :=
  let s := s.when (s.changes g .sns_RAMP_RATE) State.rampRebase
  let win := s.changes g .evb_REORDER_WIN
  let old := if win then s.each (List.finRange 16) (fun r s => s.frontUp r) else s
  let s := { old with force := g.regs, pfe := { old.pfe with maskF := g.mask }, tdc := { old.tdc with offF := g.off } }
  let s := s.ownValues.commitTicks old g k
  let s := s.epochUp (old.pagesChanged s) k
  let y := s.coarseOf (s.tickTime (k + 1))
  let s := s.each (List.finRange 16) (fun r s => s.commitRegion old g r k x y)
  let s := if win then s.reorderChange else s
  s.commitBlocks old k

/-- ACQUIRE is entered from READY as a mode word other than 0 comes in force (R18). -/
def State.acquireNow (s : State) : State :=
  if s.pwr == .ready && (List.range 16).any (fun r => s.mode r != 0) then
    let s := s.setPwr .acquire
    { s with pmr := { s.pmr with standbyPend := none } }
  else s

theorem State.commitForce_eq (g : Staged) (k : Nat) (x : Int) : s.commitForce g k x = (s.commitInForce g k x).acquireNow := by
  unfold State.commitForce
  extract_lets s1 win old _ _ s2 s3 s4 y s5 s6 s7
  have e : s.commitInForce g k x = s7 := rfl
  rw [e]
  rfl

/-- The registers a configuration holds, and its masks and offsets, in force. -/
theorem rest_inForce (h : F.may [.pfe, .tdc] []) (hw : ∀ f i, f.desc.acc = .rwc → F.fld f i) (g : Sp) {p : Pfe} {o : Tdc}
    (hp : p.r = s.pfe.r) (ho : o.r = s.tdc.r) : rest F { s with force := g, pfe := p, tdc := o } = rest F s := by
  have h1 : rest F { s with force := g } = rest F s := by
    refine rest_eq_iff.2 ⟨fun f i n => ⟨?_, rfl⟩, fun x _ => samePart_refl s x, fun _ _ => ⟨rfl, rfl, rfl, rfl, rfl⟩⟩
    have hf : f.desc.acc ≠ .rwc := fun e => n (hw f i e)
    simp only [State.rd, if_neg hf]
  have h2 : rest F { s with force := g, pfe := p } = rest F { s with force := g } :=
    rest_pfe (s := { s with force := g }) h.sub p hp
  exact (rest_tdc (s := { s with force := g, pfe := p }) h.sub o ho).trans (h2.trans h1)

theorem State.rest_commitInForce (h : F.may commitParts (commitRegs ++ scheduleRegs ++ epochRegs))
    (hw : ∀ f i, f.desc.acc = .rwc → F.fld f i) (hr : ∀ r, F.region r) (g : Staged) (k : Nat) (x : Int) :
    rest F (s.commitInForce g k x) = rest F s := by
  unfold State.commitInForce
  extract_lets s1 win old _ _ s2 s3 s4 y s5 s6
  have h1 : rest F s1 = rest F s := rest_when (fun _ => State.rest_rampRebase h.sub) _
  have ho : rest F old = rest F s1 := rest_ite_eq (rest_each (fun _ _ => State.rest_frontUp h.sub _) _) rfl
  have h2 : rest F s2 = rest F old := rest_inForce h.sub hw _ rfl rfl
  have h3 : rest F s3 = rest F s2 := (State.rest_commitTicks h.sub _ _ _).trans (State.rest_ownValues h.sub)
  have h4 : rest F s4 = rest F s3 := State.rest_epochUp h.sub _ _
  have h5 : rest F s5 = rest F s4 := rest_each (fun _ _ => State.rest_commitRegion h.sub hr _ _ _ _ _ _) _
  have h6 : rest F s6 = rest F s5 := rest_ite_eq (State.rest_reorderChange h.sub hr) rfl
  rw [State.rest_commitBlocks h.sub, h6, h5, h4, h3, h2, ho, h1]

theorem State.rest_acquireNow (h : F.may [.pmr, .pwr] [.pmr_PWR_STATE]) : rest F s.acquireNow = rest F s :=
  rest_ite_eq ((rest_pmr (s := s.setPwr .acquire) h.sub _).trans (State.rest_setPwr h.sub _)) rfl

/-- What a boundary of a commit reports, whether its configuration goes in force or not. -/
def decideRegs : List Fld :=
  commitRegs ++ scheduleRegs ++ epochRegs ++ rejectRegs ++ dailyRegs ++ servoRegs ++
  [Fld.accr_ACC_FRAMES, Fld.accr_ACC_PARTIAL_CNT, Fld.accr_PARTIAL, Fld.pmr_PWR_STATE, Fld.seq_COMMIT_PEND,
   Fld.seq_TICK_BUDGET_REGION, Fld.seq_TICK_BUDGET_MIN]

/-- What the boundaries that a step of TB time brings report, besides those of a commit (R84). -/
def steppedRegs : List Fld :=
  scanRegs ++ roleRegs ++ [Fld.accr_SUB_IDX, Fld.cab_CMD_BUSY, Fld.cab_CMD_RES, Fld.cmpr_CTX_LOAD_BUSY, Fld.edc_SRAM_ROWS_SPARED,
   Fld.pfer_INJ_ISSUED, Fld.seq_TICK_INDEX, Fld.seq_TICK_OVR_CNT, Fld.seq_TICK_RUN, Fld.tdcr_CAL_LOAD_BUSY, Fld.tre_FEAT_PEND,
   Fld.tre_TREE_FEAT]

/-- The parts a boundary of a commit reaches. -/
def decideParts : List Part := commitParts ++ [.pmr, .pwr, .ctl, .staged]

theorem State.rest_commitBoundary (h : F.may decideParts decideRegs) (hw : ∀ f i, f.desc.acc = .rwc → F.fld f i)
    (hr : ∀ r, F.region r) : rest F s.commitBoundary = rest F s := by
  unfold State.commitBoundary
  split
  · rfl
  next g _ =>
    refine rest_ite_eq ?_ rfl
    extract_lets s1 x y again ok s2
    have h1 : rest F s1 = rest F s := (rest_wr .seq_COMMIT_PEND h.sub _ _).trans (rest_staged h.sub _)
    have ha (z : State) : rest F (again z) = rest F z :=
      rest_ite_eq (rest_each (fun _ _ => State.rest_injTick h.sub hr _ _ _) _) rfl
    have h2 : rest F s2 = rest F s1 := by
      refine rest_ite_eq (ha s1) (rest_ite_eq ?_ ?_)
      · rw [State.commitForce_eq, State.rest_acquireNow h.sub, State.rest_commitInForce h.sub hw hr]
      · rw [ha, State.rest_commitReject h.sub]
    rw [State.rest_commitSaid h.sub, State.rest_boundaryTail h.sub hr, h2, h1]

theorem State.rest_afterStep (h : F.may (decideParts ++ [.flash, .edc]) (decideRegs ++ steppedRegs))
    (hw : ∀ f i, f.desc.acc = .rwc → F.fld f i) (hr : ∀ r, F.region r) : rest F s.afterStep = rest F s := by
  unfold State.afterStep
  split
  · rfl
  extract_lets _ s1 was k0 s2 n s3
  have h1 : rest F s1 = rest F s := rest_tbs h.sub _
  have h2 : rest F s2 = rest F s := (State.rest_scheduleBegin h.sub hr _).trans h1
  have h3 : rest F s3 = rest F s := (rest_when (fun _ => State.rest_stepHeads h.sub) _).trans h2
  refine rest_ite_eq ?_ (rest_ite_eq ?_ h2)
  · rw [State.rest_stepHeads h.sub, State.rest_seqUpd h.sub, h1]
  · refine (rest_foldl (fun _ _ => ?_) _).trans h3
    rw [State.rest_commitBoundary h.sub hw hr, State.rest_boundary h.sub hr]

end Sys2Proof.Machine
end

/-! ### Blocks in reset: what they leave alone (R377) -/

section
namespace Sys2Proof.Machine

open Sys2Proof Safety

set_option Elab.async false

variable {F : Foot} {s u v : State} {b : ℕ}

/-! #### Blocks in reset (R377) -/

/-- A register of block b: one of its fields, or one of the headers of its pages. -/
def blkReg (b : Nat) (f : Fld) (i : Nat) : Bool := if f.isHdr then i / 17 == b else f.desc.blk.idx == b

theorem blkKeys_own : ∀ b < 20, ∀ n ∈ blkKeys b, (Fld.ofNat n).isHdr = false ∧ (Fld.ofNat n).desc.blk.idx = b := by
  decide +kernel

theorem blkReg_of_keyOfBlk (hb : b < 20) {f : Fld} {i : Nat} (h : keyOfBlk b (blkKeys b) (f.key i) = true) :
    blkReg b f i = true := by
  simp only [keyOfBlk, Fld.key_mod, Fld.key_div, Bool.or_eq_true, Bool.and_eq_true, List.contains_iff_mem, List.any_eq_true,
    beq_iff_eq] at h
  unfold blkReg
  rcases h with h | ⟨hi, g, hg, he⟩
  · obtain ⟨hh, hk⟩ := blkKeys_own b hb _ h
    rw [Fld.ofNat_ctorIdx] at hh hk
    simp [hh, hk]
  · obtain rfl := Fld.ctorIdx_inj he
    have hh : g.isHdr = true := by
      revert g
      decide
    simp [hh, hi]

/-- F holds of the registers a reset of block b puts back. -/
def Foot.resets (F : Foot) (b : Nat) : Prop := ∀ f i, keyOfBlk b (blkKeys b) (f.key i) = true → F.fld f i

theorem Foot.resets.may (h : F.resets b) {fs : List Fld} (hf : ∀ f ∈ fs, f.ctorIdx ∈ blkKeys b) : F.may [] fs :=
  ⟨fun _ hx => absurd hx List.not_mem_nil, fun f hm i => h f i (by
    simp only [keyOfBlk, Fld.key_mod, List.contains_iff_mem.2 (hf f hm), Bool.true_or])⟩

theorem Foot.may.and {ps : List Part} {fs gs : List Fld} (h : F.may ps fs) (k : F.may [] gs) : F.may ps (fs ++ gs) :=
  ⟨h.1, fun f hf => (List.mem_append.1 hf).elim (h.2 f) (k.2 f)⟩

theorem State.rest_blkRegs_all (h : F.may [.ctl, .staged] []) (hk : F.resets b) : rest F (s.blkRegs b) = rest F s := by
  by_cases hb : b = 4
  · subst hb
    unfold State.blkRegs
    extract_lets fs out st own k c
    refine (rest_when (fun _ => rest_wr .seq_COMMIT_PEND (hk.may (by decide +kernel)) _ _) _).trans ?_
    refine (rest_ctl (s := { s with reg := out s.reg, force := out s.force, shadow := out s.shadow, staged := st })
      h.sub c).trans ?_
    refine (rest_staged (s := { s with reg := out s.reg, force := out s.force, shadow := out s.shadow }) h.sub st).trans ?_
    refine rest_filter (fun f i v n => ?_) rfl (.inl rfl) (.inl rfl) (fun x => samePart_refl s x) fun _ =>
      ⟨rfl, rfl, rfl, rfl, rfl⟩
    simpa using fun e => n (hk f i e)
  · exact State.rest_blkRegs h hb hk

/-- A part anew, with what is kept of every region there. -/
theorem rest_whole {p : Part} (h : F.may [p] []) (hr : ∀ r, F.region r) (hg : u.reg = s.reg) (hf : u.force = s.force)
    (hs : u.shadow = s.shadow) (hx : ∀ x, x ≠ p → SamePart s u x) : rest F u = rest F s :=
  rest_of_part h hg hf hs hx fun q n => absurd (hr q) n

theorem rest_eth_emptied (h : F.may [.eth, .events] []) (x : Eth) (q : List EvRec) (n : Nat) :
    rest F { u with eth := x, evq := q, evLost := n } = rest F u :=
  (rest_evLost (s := { u with eth := x, evq := q }) h.sub n).trans
    ((rest_evq (s := { u with eth := x }) h.sub q).trans (rest_eth h.sub x))

theorem rest_held_pmr (h : F.may [.held, .pmr] []) (n : Nat) (x : Pmr) :
    rest F { u with held := n, pmr := x } = rest F u :=
  (rest_pmr (s := { u with held := n }) h.sub x).trans (rest_held h.sub n)

theorem State.rest_blkHold (h : F.may [.pmr, .sns, .pfe, .tdc, .tbs, .seq, .evb, .hst, .accum, .cmp, .que, .trg, .lnk,
    .tre, .hka, .eth, .ctl, .detected, .staged, .held, .events] (lossRegs ++ areaRegs ++ [.eth_EVQ_LOST]))
    (hr : ∀ r, F.region r) (hk : F.resets b) : rest F (s.blkHold b) = rest F s := by
  unfold State.blkHold
  extract_lets s1 s2 _ s3
  have h1 : rest F s1 = rest F s := by
    unfold s1
    split
    next hb =>
      subst hb
      have ht : F.may [] trainRegs := hk.may (by decide +kernel)
      exact rest_each (fun _ _ => rest_ite_eq (State.rest_takeDownQuiet (h.and ht).sub _) rfl) _
    · rfl
  have h2 : rest F s2 = rest F s1 := (State.rest_xingReset h.sub hr b).trans (State.rest_blkRegs_all h.sub hk)
  have h3 : rest F s3 = rest F s := (rest_held_pmr h.sub _ _).trans (h2.trans h1)
  clear_value s3
  have pfe (x : Pfe) : rest F { s3 with pfe := x } = rest F s3 :=
    rest_whole (p := .pfe) h.sub hr rfl rfl rfl fun y _ => by cases y <;> simp_all [SamePart]
  have tdc (x : Tdc) : rest F { s3 with tdc := x } = rest F s3 :=
    rest_whole (p := .tdc) h.sub hr rfl rfl rfl fun y _ => by cases y <;> simp_all [SamePart]
  have hst (x : Hst) : rest F { s3 with hst := x } = rest F s3 :=
    rest_whole (p := .hst) h.sub hr rfl rfl rfl fun y _ => by cases y <;> simp_all [SamePart]
  have acc (x : Accum) : rest F { s3 with accum := x } = rest F s3 :=
    rest_whole (p := .accum) h.sub hr rfl rfl rfl fun y _ => by cases y <;> simp_all [SamePart]
  have cmp (x : Cmp) : rest F { s3 with cmp := x } = rest F s3 :=
    rest_whole (p := .cmp) h.sub hr rfl rfl rfl fun y _ => by cases y <;> simp_all [SamePart]
  simp only [rest_ite, rest_sns h.sub, pfe, tdc, rest_seq h.sub, rest_evb h.sub, rest_trg h.sub, hst, acc, cmp, rest_que h.sub,
    State.rest_tbsStart h.sub, rest_lnk h.sub, rest_tre h.sub, rest_eth_emptied h.sub, rest_hka h.sub, ite_self, h3]

theorem State.rest_blkRst (h : F.may [.pmr, .sns, .pfe, .tdc, .tbs, .seq, .evb, .hst, .accum, .cmp, .que, .trg, .lnk,
    .tre, .hka, .eth, .ctl, .detected, .staged, .held, .events] (lossRegs ++ areaRegs ++ [.eth_EVQ_LOST, .pmr_CFG_ERR]))
    (hr : ∀ r, F.region r) (m : Nat) (own : Bool) (hk : ∀ b ∈ bitsSet m 20, F.resets b) :
    rest F (s.blkRst m own) = rest F s :=
  rest_ite_eq rfl <| rest_ite_eq (rest_wr .pmr_CFG_ERR h.sub _ _) <|
    rest_each_of_mem fun b hb _ => State.rest_blkHold h.sub hr (hk b hb)

end Sys2Proof.Machine
end

/-! ### The start: what is kept, and the image that is picked (R343, R344) -/

section
namespace Sys2Proof.Machine

open Sys2Proof Safety

set_option Elab.async false

variable {F : Foot} {s u v : State} {qs ps : List Part} {gs fs : List Fld}

/-! #### Parts and registers that an operation is shown to keep -/

/-- Everything but the parts qs and the fields gs. -/
def Foot.but (qs : List Part) (gs : List Fld) : Foot := ⟨(· ∉ qs), fun f _ => f ∉ gs, fun _ => True⟩

theorem Foot.but_may (hp : ∀ x ∈ ps, x ∉ qs := by decide +kernel) (hf : ∀ f ∈ fs, f ∉ gs := by decide +kernel) :
    (Foot.but qs gs).may ps fs :=
  ⟨hp, fun f hm _ => hf f hm⟩

theorem Foot.but_region (r : Fin 16) : (Foot.but qs gs).region r := trivial

/-- From s to u the parts qs and the fields gs are as they were. -/
def Keeps (qs : List Part) (gs : List Fld) (s u : State) : Prop := rest (Foot.but qs gs) u = rest (Foot.but qs gs) s

theorem Keeps.part (h : Keeps qs gs s u) (x : Part) (hx : x ∈ qs := by decide) : SamePart s u x :=
  (rest_eq_iff.1 h).parts x (not_not.2 hx)

theorem Keeps.rd (h : Keeps qs gs s u) {f : Fld} (hf : f ∈ gs := by decide) (i : Nat) : u.rd f i = s.rd f i :=
  ((rest_eq_iff.1 h).regs f i (not_not.2 hf)).1

theorem Keeps.rdSh (h : Keeps qs gs s u) {f : Fld} (hf : f ∈ gs := by decide) (i : Nat) : u.rdSh f i = s.rdSh f i :=
  ((rest_eq_iff.1 h).regs f i (not_not.2 hf)).2

/-! #### The start (R343, R344) -/

/-- PMR and FLT leave reset as the rails are in regulation. -/
def State.railsUp (s : State) : State :=
  (s.pmrUpd (fun p => { p with upFrom := min p.upFrom s.clock, fltFrom := min p.fltFrom s.clock })).release [.pmr, .flt]

/-- START_COMPLETE up to the choice of an image: PMR, FLT and EDC out of reset, the start counted, the macros tested. -/
def State.startHead (s : State) (march : List (SramMac × BitVec 16)) : State :=
  let s := s.railsUp.countStart.edcStart march
  (s.wr .pmr_FW_VER_A 0 (s.slotVer false)).wr .pmr_FW_VER_B 0 (s.slotVer true)

theorem State.rest_startHead (h : F.may [.pmr, .flash, .edc, .detected, .held, .events]
    [.edc_SELFTEST_FAIL, .edc_SRAM_ROWS_SPARED, .eth_EVQ_LOST, .pmr_FW_VER_A, .pmr_FW_VER_B])
    (march : List (SramMac × BitVec 16)) : rest F (s.startHead march) = rest F s := by
  simp only [State.startHead, State.railsUp, rest_wr .pmr_FW_VER_B h.sub, rest_wr .pmr_FW_VER_A h.sub, State.rest_edcStart h.sub,
    State.rest_countStart h.sub, State.rest_release h.sub, State.rest_pmrUpd h.sub]

/-- From s to u flash changes by the rows that the macros have spared alone. -/
def SramAlone (s u : State) : Prop := ∃ r, u.flash = { s.flash with sram := r }

theorem SramAlone.of_keeps (h : Keeps [.flash] [] s u) : SramAlone s u := ⟨s.flash.sram, h.part .flash⟩

theorem SramAlone.trans (h : SramAlone s u) (k : SramAlone u v) : SramAlone s v := by
  obtain ⟨a, ha⟩ := h
  obtain ⟨b, hb⟩ := k
  exact ⟨b, by rw [hb, ha]⟩

theorem SramAlone.each {α : Type} {f : α → State → State} (hf : ∀ a x, SramAlone x (f a x)) (l : List α) :
    SramAlone s (s.each l f) := by
  induction l generalizing s with
  | nil => exact ⟨_, rfl⟩
  | cons a l ih => exact (hf a s).trans ih

theorem State.sramAlone_marchRow (m : SramMac) (row : Nat) : SramAlone s (s.marchRow m row) := by
  unfold State.marchRow
  dsimp only
  split
  · have h (y : State) (ty d : Nat) : Keeps [.flash] [] y ((y.emit ty d).bump .edc_SRAM_ROWS_SPARED 0) :=
      (rest_wr .edc_SRAM_ROWS_SPARED Foot.but_may _ _).trans (State.rest_emit Foot.but_may _ _)
    exact ⟨_, (h _ _ _).part .flash⟩
  · exact .of_keeps ((State.rest_detect Foot.but_may _ _ _ _ _ _).trans (rest_wr .edc_SELFTEST_FAIL Foot.but_may _ _))

theorem State.sramAlone_edcStart (march : List (SramMac × BitVec 16)) : SramAlone s (s.edcStart march) := by
  unfold State.edcStart
  refine .trans (.of_keeps ?_) (.each (fun e _ => State.sramAlone_marchRow e.1 e.2.toNat) march)
  exact (rest_wr .edc_SRAM_ROWS_SPARED Foot.but_may _ _).trans
    ((rest_edc Foot.but_may _).trans (State.rest_release Foot.but_may _))

theorem State.flash_startHead (march : List (SramMac × BitVec 16)) :
    ∃ r, (s.startHead march).flash = { s.countStart.flash with sram := r } := by
  have hc : s.railsUp.countStart.flash = s.countStart.flash := by
    unfold State.countStart
    cases h : s.pmr.counted <;> simp [State.railsUp, State.release, State.pmrUpd, State.bootRec, State.flashUpd, h]
  obtain ⟨r, hr⟩ := State.sramAlone_edcStart (s := s.railsUp.countStart) march
  refine ⟨r, ?_⟩
  rw [← hc, ← hr]
  simp only [State.startHead, State.flash_wr]

theorem State.bootPick_congr (ha : u.flash.active = s.flash.active) (ht : u.flash.trial = s.flash.trial)
    (hs : u.flash.slots = s.flash.slots) (hv : u.rd .pmr_SEC_VER_MIN = s.rd .pmr_SEC_VER_MIN) : u.bootPick = s.bootPick := by
  have hx (b : Bool) : u.slot b = s.slot b := by simp only [State.slot, hs]
  have hi (x : FwSlot) : u.imageGood x = s.imageGood x := by simp only [State.imageGood, hv]
  have hb (b : Bool) : u.slotValid b = s.slotValid b := by simp only [State.slotValid, hx, hi]
  simp only [State.bootPick, hb, ha, ht]

theorem State.bootPick_startHead (march : List (SramMac × BitVec 16)) : (s.startHead march).bootPick = s.bootPick := by
  obtain ⟨r, hr⟩ := s.flash_startHead march
  have hk : Keeps [] [.pmr_SEC_VER_MIN] s (s.startHead march) := State.rest_startHead Foot.but_may march
  have hc : s.countStart.flash.active = s.flash.active ∧ s.countStart.flash.trial = s.flash.trial ∧
      s.countStart.flash.slots = s.flash.slots := by
    unfold State.countStart
    split <;> exact ⟨rfl, rfl, rfl⟩
  obtain ⟨ha, ht, hs⟩ := hc
  exact State.bootPick_congr (by rw [hr, ← ha]) (by rw [hr, ← ht]) (by rw [hr, ← hs]) (hk.rd (by decide) 0)

/-- START_COMPLETE while a start goes on and its rails are due, by what the boot record has the module run. -/
theorem State.startComplete_eq (x : StartUp) (hp : s.pwr = .start) (hr : s.pmr.recovery = false) (ht : s.pmr.railAt ≤ s.clock) :
    s.startComplete x = match s.bootPick with
      | .run b trial => ((s.startHead x.march).runSlot b trial).startRest x
      | .again => (s.startHead x.march).trialEnd 0
      | .recovery => (s.startHead x.march).recover := by
  rw [← State.bootPick_startHead (s := s) x.march]
  unfold State.startComplete
  rw [if_neg (by simp [hp, hr, ht])]
  rfl

/-- START_COMPLETE at any other time does nothing. -/
theorem State.startComplete_of_not (x : StartUp) (h : ¬ (s.pwr = .start ∧ s.pmr.recovery = false ∧ s.pmr.railAt ≤ s.clock)) :
    s.startComplete x = s := by
  unfold State.startComplete
  refine if_pos ?_
  by_contra hn
  simp only [Bool.not_eq_true, Bool.or_eq_false_iff, decide_eq_false_iff_not, Nat.not_lt, bne_eq_false_iff_eq] at hn
  exact h ⟨hn.1.1, hn.1.2, hn.2⟩

end Sys2Proof.Machine
end

/-! ### What the resets and the vote leave alone (R335 to R341) -/

section
namespace Sys2Proof.Machine

open Sys2Proof Safety

set_option Elab.async false

variable {F : Foot} {s u v : State}

/-! #### What the resets keep of the model's own parts (R335, R341, R361) -/

/-- What a reset keeps beside flash: the free values' counter, what a read returned, and what was sent. -/
def keptByReset : List Part := [.free, .lastRead, .out]

theorem rest_keptByReset (hf : u.free = s.free) (hl : u.lastRead = s.lastRead) (ho : u.out = s.out) :
    rest (Foot.allBut keptByReset) u = rest (Foot.allBut keptByReset) s :=
  rest_eq_iff.2 ⟨fun _ _ n => absurd trivial n, fun x n => by
    have hx : x ∈ keptByReset := not_not.1 n
    simp only [keptByReset, List.mem_cons, List.not_mem_nil, or_false] at hx
    rcases hx with rfl | rfl | rfl
    · exact hf
    · exact hl
    · exact ho, fun _ n => absurd trivial n⟩

theorem State.rest_coldReset (cause : Nat) :
    rest (Foot.allBut keptByReset) (s.coldReset cause) = rest (Foot.allBut keptByReset) s := by
  unfold State.coldReset
  extract_lets s1 p
  have h1 : rest (Foot.allBut keptByReset) s1 = rest (Foot.allBut keptByReset) s :=
    rest_ite_eq (State.rest_countStart (Foot.allBut_may (by decide))) rfl
  refine Eq.trans ?_ h1
  exact rest_keptByReset rfl rfl rfl

/-- A COLD reset and a start behind it, with what the record store keeps. -/
theorem State.rest_restart (f : Pmr → Pmr) (cause : Nat) (k : Cab) (e : Edc) :
    rest (Foot.allBut keptByReset) (State.startUp { (s.coldReset cause).pmrUpd f with cab := k, edc := e } true) =
      rest (Foot.allBut keptByReset) s :=
  calc _ = rest (Foot.allBut keptByReset) { (s.coldReset cause).pmrUpd f with cab := k, edc := e } :=
        State.rest_startUp (Foot.allBut_may (by decide)) _
    _ = rest (Foot.allBut keptByReset) ((s.coldReset cause).pmrUpd f) := rest_keptByReset rfl rfl rfl
    _ = rest (Foot.allBut keptByReset) s := (State.rest_pmrUpd (Foot.allBut_may (by decide)) f).trans (s.rest_coldReset cause)

theorem State.rest_warmReset (cause : Nat) :
    rest (Foot.allBut keptByReset) (s.warmReset cause) = rest (Foot.allBut keptByReset) s :=
  (State.rest_restart id cause s.cabStandby.cabKept _).trans (State.rest_cabStandby (Foot.allBut_may (by decide)))

theorem State.rest_trialEnd (reason : Nat) :
    rest (Foot.allBut keptByReset) (s.trialEnd reason) = rest (Foot.allBut keptByReset) s := by
  unfold State.trialEnd
  extract_lets s1 s2 k e s3
  exact (State.rest_restart _ 3 k e).trans ((State.rest_cabStandby (Foot.allBut_may (by decide))).trans
    (State.rest_bootRec (Foot.allBut_may (by decide)) _))

theorem State.rest_warmSettle_keptByReset :
    rest (Foot.allBut keptByReset) s.warmSettle = rest (Foot.allBut keptByReset) s := by
  unfold State.warmSettle
  split
  · exact rest_ite_eq rfl (s.rest_warmReset _)
  · rfl

theorem State.warmSettle_of_none (h : s.pmr.warm = none) : s.warmSettle = s := by simp [State.warmSettle, h]

/-! #### The vote and the core (R336 to R338) -/

/-- The core is lost, but for the trial that it ends (R338). -/
def State.coreDown (s : State) : State :=
  let s := (s.detect clsControl 4 unitModule).bump .flt_MAJ_LOSS 0
  let s := s.sessClear
  let s := (s.treUpd (fun t => { t with relays := [] })).loadCore 0
  { s with staged := none, flt := { s.flt with coreDown := true } }.wrB .seq_COMMIT_PEND 0 false

theorem State.coreLoss_eq : s.coreLoss = if s.coreDown.flag .pmr_TRIAL then s.coreDown.trialEnd 2 else s.coreDown := rfl

theorem rest_staged_flt (h : F.may [.staged, .flt] []) (x : Option Staged) (y : Flt) :
    rest F { u with staged := x, flt := y } = rest F u :=
  (rest_flt (s := { u with staged := x }) h.sub y).trans (rest_staged h.sub x)

theorem State.rest_coreDown (h : F.may [.pmr, .tre, .flt, .ctl, .detected, .staged]
    (sessRegs ++ [Fld.flt_MAJ_LOSS, Fld.seq_COMMIT_PEND])) : rest F s.coreDown = rest F s := by
  simp only [State.coreDown, State.wrB_eq, State.bump_eq, rest_wr .seq_COMMIT_PEND h.sub, rest_wr .flt_MAJ_LOSS h.sub,
    rest_staged_flt h.sub, State.rest_loadCore h.sub, State.rest_treUpd h.sub, State.rest_sessClear h.sub,
    State.rest_detect h.sub]

theorem State.flag_coreDown_trial : s.coreDown.flag .pmr_TRIAL = s.flag .pmr_TRIAL := by
  have h : Keeps [] [.pmr_TRIAL] s s.coreDown := State.rest_coreDown Foot.but_may
  simp only [State.flag, h.rd (f := .pmr_TRIAL)]

theorem State.rest_voterMismatch_of_not_trial (h : F.may [.pmr, .tre, .flt, .ctl, .detected, .staged]
    (sessRegs ++ [Fld.flt_MAJ_LOSS, Fld.seq_COMMIT_PEND, Fld.flt_MEM_A, Fld.flt_MEM_B, Fld.flt_MEM_C, Fld.flt_RESYNC_A,
    Fld.flt_RESYNC_B, Fld.flt_RESYNC_C])) (ht : s.flag .pmr_TRIAL = false) (o : Vector (BitVec 32) 3) :
    rest F (s.voterMismatch o) = rest F s := by
  unfold State.voterMismatch
  refine rest_ite_eq rfl ?_
  split
  · rw [State.coreLoss_eq, State.flag_coreDown_trial, ht]
    exact State.rest_coreDown h.sub
  · split
    · exact State.rest_exclude h.sub _
    · rfl

theorem State.warm_exclude (m : Fin 3) : (s.exclude m).pmr.warm = s.pmr.warm := by
  have h : Keeps [.pmr] [] (s.setProg m 0) (s.exclude m) := by
    unfold State.exclude
    extract_lets w recent s1 s2
    have h1 : Keeps [.pmr] [] (s.setProg m 0) s1 := State.rest_fltUpd Foot.but_may _
    refine rest_ite_eq ?_ ?_
    · exact (State.rest_detect Foot.but_may _ _ _ _ _ _).trans ((State.rest_setMember Foot.but_may _ _).trans h1)
    · refine (State.rest_detect Foot.but_may _ _ _ _ _ _).trans (Eq.trans ?_ h1)
      refine Eq.trans ?_ (State.rest_setMember (s := s1) Foot.but_may m 1)
      exact rest_wr_of List.not_mem_nil _
  have hp : (s.exclude m).pmr = (s.setProg m 0).pmr := h.part .pmr
  rw [hp]
  rfl

theorem State.warm_coreDown : s.coreDown.pmr.warm = s.pmr.warm := by
  unfold State.coreDown
  extract_lets s1 s2 s3
  have h : Keeps [.pmr] [] s s2 := (State.rest_sessClear Foot.but_may).trans
    ((rest_wr .flt_MAJ_LOSS Foot.but_may _ _).trans (State.rest_detect Foot.but_may _ _ _ _ _ _))
  have hp : s2.pmr = s.pmr := h.part .pmr
  simp [s3, State.loadCore, State.pmrUpd, State.treUpd, hp]

theorem State.warm_voterMismatch (ht : s.flag .pmr_TRIAL = false) (o : Vector (BitVec 32) 3) :
    (s.voterMismatch o).pmr.warm = s.pmr.warm := by
  unfold State.voterMismatch
  split
  · rfl
  split
  · rw [State.coreLoss_eq, State.flag_coreDown_trial, ht]
    exact State.warm_coreDown
  · split
    · exact State.warm_exclude _
    · rfl

theorem State.rest_vote_of_not_trial (h : F.may [.pmr, .tre, .flt, .ctl, .detected, .staged]
    (sessRegs ++ [Fld.flt_MAJ_LOSS, Fld.seq_COMMIT_PEND, Fld.flt_MEM_A, Fld.flt_MEM_B, Fld.flt_MEM_C, Fld.flt_RESYNC_A,
    Fld.flt_RESYNC_B, Fld.flt_RESYNC_C])) (ht : s.flag .pmr_TRIAL = false) (hw : s.pmr.warm = none)
    (o : Vector (BitVec 32) 3) : rest F (s.voterMismatch o).warmSettle = rest F s := by
  rw [State.warmSettle_of_none ((State.warm_voterMismatch ht o).trans hw)]
  exact State.rest_voterMismatch_of_not_trial h ht o

theorem State.rest_voterMismatch (o : Vector (BitVec 32) 3) :
    rest (Foot.allBut keptByReset) (s.voterMismatch o) = rest (Foot.allBut keptByReset) s := by
  unfold State.voterMismatch
  refine rest_ite_eq rfl ?_
  have hd : rest (Foot.allBut keptByReset) s.coreDown = rest (Foot.allBut keptByReset) s :=
    State.rest_coreDown (Foot.allBut_may (by decide))
  split
  · rw [State.coreLoss_eq]
    exact rest_ite_eq ((State.rest_trialEnd 2).trans hd) hd
  · split
    · exact State.rest_exclude (Foot.allBut_may (by decide)) _
    · rfl

end Sys2Proof.Machine
end

/-! ### The frames of the wide commands -/

section
namespace Sys2Proof.Machine

open Sys2Proof Safety

set_option Elab.async false

section
variable {F : Foot} {s : State}

/-- What a start whose image is picked, or that recovers, changes in registers. -/
def startRegs : List Fld :=
  safeRegs ++ lossRegs ++ storeRegs ++ trainRegs ++ treeRegs ++ featRegs ++ [Fld.cab_CFG_ERR, Fld.cab_REPAIR_BUSY,
   Fld.edc_PPR_SOFT, Fld.edc_SELFTEST_FAIL, Fld.edc_SRAM_ROWS_SPARED, Fld.eth_ADDR_VALID, Fld.eth_ETH_SPEED, Fld.eth_IP_IN_USE,
   Fld.eth_QP_STATE, Fld.hka_CAL_BUSY, Fld.hka_CAL_FAIL, Fld.hka_CAL_GAIN, Fld.hka_CAL_OFS, Fld.hka_IEXC, Fld.hka_RANGE_GAIN0,
   Fld.hka_RANGE_GAIN1, Fld.hka_RANGE_GAIN2, Fld.lnk_BACKOFF_NOW, Fld.lnk_LANE_LOSS, Fld.lnk_REPLAYS, Fld.lnk_RESTRIPES,
   Fld.pfe_MASK_IMG_VALID, Fld.pmr_BOOT_FALLBACK, Fld.pmr_BOOT_SLOT, Fld.pmr_CAB_OFFLINE, Fld.pmr_FW_VER_A, Fld.pmr_FW_VER_B,
   Fld.pmr_START_MS, Fld.pmr_TRIAL, Fld.tre_FW_VER, Fld.tre_MODULE_ID, Fld.tre_ROLE, Fld.tre_ROLE_SW, Fld.tre_STRAP_POS,
   Fld.tre_STRAP_ROLE]

/-- The parts that such a start reaches. -/
def startParts : List Part :=
  [.pmr, .flash, .sns, .pfe, .tdc, .tbs, .seq, .evb, .hst, .accum, .cmp, .que, .cab, .mem, .edc, .trg, .lnk, .tre, .hka, .eth,
   .detected, .held, .pwr, .free, .out, .events]

theorem State.rest_startComplete (h : F.may startParts startRegs) (hr : ∀ r, F.region r) (hb : s.bootPick ≠ .again)
    (x : StartUp) : rest F (s.startComplete x) = rest F s := by
  by_cases hc : s.pwr = .start ∧ s.pmr.recovery = false ∧ s.pmr.railAt ≤ s.clock
  · obtain ⟨hp, hv, ht⟩ := hc
    have hh : rest F (s.startHead x.march) = rest F s := State.rest_startHead h.sub _
    rw [State.startComplete_eq x hp hv ht]
    split
    · exact (State.rest_startRest h.sub hr x).trans ((State.rest_runSlot h.sub _ _).trans hh)
    next ha => exact absurd ha hb
    · exact (State.rest_recover h.sub).trans hh
  · rw [State.startComplete_of_not x hc]

theorem State.rest_startComplete_again (hb : s.bootPick = .again) (x : StartUp) :
    rest (Foot.allBut keptByReset) (s.startComplete x) = rest (Foot.allBut keptByReset) s := by
  by_cases hc : s.pwr = .start ∧ s.pmr.recovery = false ∧ s.pmr.railAt ≤ s.clock
  · obtain ⟨hp, hv, ht⟩ := hc
    rw [State.startComplete_eq x hp hv ht, hb]
    exact (State.rest_trialEnd 0).trans (State.rest_startHead (Foot.allBut_may (by decide)) _)
  · rw [State.startComplete_of_not x hc]

theorem State.rest_rstModule (own jtag : Bool) :
    rest (Foot.allBut keptByReset) (s.rstModule own jtag) = rest (Foot.allBut keptByReset) s :=
  rest_ite_eq (rest_wr .hdr_DENY_CNT (Foot.allBut_may (by decide)) _ _)
    (rest_ite_eq (rest_wr .pmr_PWR_CMD_ERR (Foot.allBut_may (by decide)) _ _) (State.rest_warmReset _))

theorem State.rest_confirmTmo : rest (Foot.allBut keptByReset) s.confirmTmo = rest (Foot.allBut keptByReset) s := by
  unfold State.confirmTmo
  extract_lets n
  split
  · exact rest_ite_eq (State.rest_trialEnd 1) rfl
  · rfl

/-- A reset that is refused or denied is counted or flagged, and does nothing else (R339, R341). -/
theorem State.rest_rstModule_refused (h : F.mayOf 0 [.hdr_DENY_CNT] ∧ F.may [] [.pmr_PWR_CMD_ERR]) {own jtag : Bool}
    (hr : own = false ∧ jtag = false ∨ jtag = true ∧ s.flag .ctl_PROV = false ∨ s.pwr = .acquire) :
    rest F (s.rstModule own jtag) = rest F s := by
  obtain ⟨hd, hp⟩ := h
  unfold State.rstModule
  split
  · exact rest_wrOf .hdr_DENY_CNT hd _
  next hj =>
    refine (congrArg (rest F) (if_pos ?_)).trans (rest_wr .pmr_PWR_CMD_ERR hp _ _)
    rcases hr with ⟨rfl, rfl⟩ | ⟨rfl, hf⟩ | ha
    · rfl
    · exact absurd (by rw [hf]; rfl) hj
    · simp [ha]

theorem State.confirmTmo_of_not_trial (hf : s.flag .pmr_TRIAL = false) : s.confirmTmo = s := by
  unfold State.confirmTmo
  extract_lets n
  split
  · rw [hf]
    rfl
  · rfl

theorem State.flash_coldReset (cause : Nat) : (s.coldReset cause).flash = startCounted s := by
  unfold State.coldReset startCounted
  cases hd : s.countDue
  · rfl
  · have hc : s.pmr.counted = false := by
      simp only [State.countDue, Bool.and_eq_true, Bool.not_eq_true'] at hd
      exact hd.1.2
    simp [State.countStart, hc, State.bootRec, State.flashUpd, State.pmrUpd]

end

section
variable {s u : State} {c : Instr} {t : Nat} {ps : List Part} {fs more : List Fld} {bs : List Blk}

/-- leaves_of_next for a clause of the fields of blocks. -/
theorem leaves_within (he : exec c s = .next (u.stamp (s.at t).clock s.pending))
    (h : ∀ F : Foot, F.may ps fs → (∀ r, F.region r) → rest F u = rest F (s.at t))
    (hf : ∀ f ∈ fs, within bs more f 0 = true := by decide +kernel) : Leaves c s ps (within bs more) :=
  leaves_of_rest he (h _ ⟨fun _ hx => hx, fun f hm _ => hf f hm⟩ fun _ => trivial)

/-- leaves_within for a clause of the RWC fields as well. -/
theorem leaves_withinForce (he : exec c s = .next (u.stamp (s.at t).clock s.pending))
    (h : ∀ F : Foot, F.may ps fs → (∀ f i, f.desc.acc = .rwc → F.fld f i) → (∀ r, F.region r) →
      rest F u = rest F (s.at t))
    (hf : ∀ f ∈ fs, withinForce bs more f 0 = true := by decide +kernel) : Leaves c s ps (withinForce bs more) :=
  leaves_of_rest he (h _ ⟨fun _ hx => hx, fun f hm _ => hf f hm⟩
    (fun f _ ha => by simp [Foot.of, withinForce, ha]) fun _ => trivial)

/-- What brings a state that keeps parts, and flash as it is counted. -/
theorem brings_coldReset {cause : Nat} {f : Pmr → Pmr}
    (hf : ∀ p, (f p).counted = p.counted ∧ (f p).upFrom = p.upFrom)
    (he : exec c s = .next ((((s.at t).pmrUpd f).coldReset cause).stamp (s.at t).clock s.pending)) :
    Brings c s (fun u => u.pending = s.pending ∧ u.flash = startCounted (s.at t) ∧ ∀ x ∈ [Part.free, .lastRead, .out],
      SamePart s u x) := by
  have hr : rest (Foot.allBut keptByReset) (((s.at t).pmrUpd f).coldReset cause) = rest (Foot.allBut keptByReset) (s.at t) :=
    (State.rest_coldReset cause).trans (State.rest_pmrUpd (Foot.allBut_may (by decide)) f)
  have hk := rest_eq_iff.1 ((rest_stamp (s.at t).clock s.pending).trans (hr.trans (rest_at t)))
  refine ⟨_, he, rfl, ?_, fun x hx => hk.parts x (not_not.2 hx)⟩
  refine (State.flash_coldReset cause).trans ?_
  simp only [startCounted, State.countDue, State.pmrUpd, hf]
  rfl

end

/-- What a step of TB time may change, with the boundaries it brings (R84). -/
def timeRegs : List Fld :=
  decideRegs ++ steppedRegs ++ sourceRegs ++ stepRegs ++ [Fld.tbs_CFG_ERR, Fld.tbs_CLAP_DELAY, Fld.tbs_CLAP_LANE,
   Fld.tbs_CLAP_OFS, Fld.tbs_CLAP_QUAL, Fld.tbs_CLAP_TQ, Fld.tbs_CLAP_VALID, Fld.tbs_FREERUN, Fld.tbs_PHASE_ERR,
   Fld.tbs_PTP_DISC, Fld.tbs_PTP_QUAL, Fld.tbs_RX_LAT, Fld.tbs_STEP_REFUSED, Fld.tbs_TIME_SET, Fld.tbs_TX_LAT]

/-- Settles O60: the frames of the operations its commands run. -/
theorem wideFrames : Obligations.WideFrames := by
  unfold Obligations.WideFrames
  intro s t
  refine ⟨fun x hb => leaves_within (fs := startRegs) rfl fun F h hr =>
      State.rest_startComplete (s := s.at t) h.sub hr hb x,
    fun x hb => brings_of_rest rfl (State.rest_startComplete_again (s := s.at t) hb x),
    fun own => leaves_of_parts rfl fun _ h _ hr _ => rest_on (fun _ => State.rest_pwrSafe h.sub hr own) _,
    leaves_of_parts rfl fun _ h _ hr _ => rest_on (fun _ => State.rest_standbyEntry h.sub hr) _,
    leaves_within (fs := boundaryRegs) rfl fun _ h hr => State.rest_tickBoundary h.sub hr,
    leaves_of_parts rfl fun _ h _ hr _ => State.rest_pacing h.sub hr,
    leaves_of_parts rfl fun _ h _ hr _ => State.rest_scheduleStart h.sub hr,
    leaves_withinForce (fs := decideRegs) rfl fun _ h hw hr => rest_on (fun _ => State.rest_commitBoundary h.sub hw hr) _,
    fun raw => leaves_withinForce (fs := timeRegs) rfl fun _ h hw hr => rest_on (fun _ =>
      (State.rest_afterStep h.sub hw hr).trans (State.rest_extUpdate h.sub _)) _,
    fun l lane c => leaves_withinForce (fs := timeRegs) rfl fun _ h hw hr => rest_on (fun _ => rest_ite_eq
      ((State.rest_afterStep h.sub hw hr).trans (State.rest_clapRx h.sub l lane c)) rfl) _,
    fun p t4 => leaves_withinForce (fs := timeRegs) rfl fun _ h hw hr => rest_on (fun _ =>
      (State.rest_afterStep h.sub hw hr).trans (State.rest_ptpDelayResp h.sub p t4)) _,
    fun own => leaves_withinForce (fs := timeRegs) rfl fun _ h hw hr => rest_on (fun _ =>
      (State.rest_afterStep h.sub hw hr).trans (State.rest_stepWrite h.sub own)) _,
    fun w => leaves_withinForce (fs := timeRegs) rfl fun _ h hw hr => rest_on (fun _ =>
      (State.rest_afterStep h.sub hw hr).trans (State.rest_timeSet h.sub _)) _,
    leaves_within (fs := faultRegs) rfl fun _ h hr => rest_on (fun _ => State.rest_faultTake h.sub hr) _,
    fun b role pos => leaves_of_parts rfl fun _ h _ hr _ => rest_on (fun _ => State.rest_blkRelease h.sub hr _ _ _) _,
    brings_coldReset (by intro _; exact ⟨rfl, rfl⟩) rfl,
    brings_coldReset (by intro _; exact ⟨rfl, rfl⟩) rfl,
    brings_coldReset (by intro _; exact ⟨rfl, rfl⟩) rfl,
    fun own jtag => brings_of_rest rfl (rest_on (fun _ => State.rest_rstModule own jtag) _),
    fun own jtag hr => leaves_of_next rfl fun _ h ho _ => rest_on_at
      (State.rest_rstModule_refused (s := s.at t) ⟨ho.of h (by simp), h.sub⟩ hr) _,
    brings_of_rest rfl (rest_on (fun _ => State.rest_confirmTmo) _),
    fun hf => leaves_of_next rfl fun _ _ _ _ => rest_on_at
      (congrArg (rest _) (State.confirmTmo_of_not_trial (s := s.at t) hf)) _,
    fun o ht hw => leaves_of_next rfl fun F h _ _ => rest_on_at (f := fun s => s.on .flt _)
      (rest_on_at (State.rest_vote_of_not_trial (s := s.at t) h.sub ht hw o) _) _,
    fun o => brings_of_rest rfl (rest_on (fun _ => rest_on (fun _ =>
      State.rest_warmSettle_keptByReset.trans (State.rest_voterMismatch o)) _) _),
    fun m own => leaves_of_rest rfl (rest_on (fun _ => State.rest_blkRst ⟨fun _ hx => hx, fun f hf i => ?_⟩
      (fun _ => trivial) m.toNat own fun b hb => ?_) _)⟩
  · exact Bool.or_eq_true_iff.2 (.inr (List.contains_iff_mem.2 (by revert f; decide +kernel)))
  · intro f i hk
    obtain ⟨hb, hm⟩ := List.mem_filter.1 hb
    have hr := blkReg_of_keyOfBlk (List.mem_range.1 hb) hk
    refine Bool.or_eq_true_iff.2 (.inl ?_)
    unfold blkReg at hr
    split at hr <;> simp_all

end Sys2Proof.Machine
end

/-! ### The power state: SAFE entry, the resets and a commit (R18, R20, R341) -/

section
namespace Sys2Proof.Machine

open Sys2Proof Safety

set_option Elab.async false

/-! #### Properties of the power state alone -/

/-- Q holds of the power state. -/
def AtPwr (Q : Pwr → Prop) (s : State) : Prop := Q s.pwr

/-- Where Q holds of a power state it holds of those that SAFE entry, a commit of a mode word, the resets, the supply and the
contacts lead to from there. -/
structure Moves (Q : Pwr → Prop) : Prop where
  off : Q .off
  start : Q .start
  safe : ∀ p, Q p → p ≠ .off → p ≠ .start → Q .safe
  acquire : Q .ready → Q .acquire

variable {Q : Pwr → Prop} {s u : State}

theorem atPwr_closed : Closed (AtPwr Q) :=
  ⟨fun c h => by unfold AtPwr; rw [c.pwr]; exact h, fun f i v h => by unfold AtPwr; rw [State.pwr_wr]; exact h,
    fun _ _ _ h => h, fun _ _ _ h => h⟩

theorem AtPwr.of_keeps (h : Keeps [.pwr] [] s u) (hs : AtPwr Q s) : AtPwr Q u := by
  have hp : u.pwr = s.pwr := h.part .pwr
  unfold AtPwr
  rw [hp]
  exact hs

/-! #### SAFE entry and the faults that lead to it (R20, R322) -/

theorem State.pwr_setPwr (p : Pwr) : (s.setPwr p).pwr = p := by simp [State.setPwr]

theorem State.pwr_safeNow (cls unit : Nat) : (s.safeNow cls unit).pwr = .safe := by
  have C := closed_pwr .safe
  unfold State.safeNow
  extract_lets s1 s2 s3 s4 kept s5 _ _
  have h3 : s3.pwr = .safe :=
    State.lnkSafe_keeps C (State.trigRelease_keeps C (State.wrB_keeps C _ _ _ (State.pwr_setPwr .safe)))
  have h5 : s5.pwr = .safe := State.regionsAbort_keeps C _ (State.crowbarAll_keeps C h3)
  clear_value s5
  exact h5

theorem State.enterSafe_moves (M : Moves Q) (cls unit : Nat) (hs : AtPwr Q s) : AtPwr Q (s.enterSafe cls unit) := by
  unfold State.enterSafe
  split
  · exact hs
  next ho =>
    split
    · exact State.wrB_keeps atPwr_closed _ _ _ hs
    next ht =>
      unfold AtPwr
      rw [State.pwr_safeNow]
      exact M.safe s.pwr hs (by simpa using ho) (by simpa using ht)

section
variable (M : Moves Q)
include M

theorem State.react_moves (d : Det) (lvl : Nat) (act : Bool) (hs : AtPwr Q s) : AtPwr Q (s.react d lvl act) := by
  have C := atPwr_closed (Q := Q)
  unfold State.react
  extract_lets par s1
  have h1 : AtPwr Q s1 := State.ownShadow_keeps C _ _ hs
  refine keeps_ite (State.react2_keeps C _ _ _ _ _ _ h1) (keeps_ite (State.react3_keeps C _ _ _ _ _ h1) ?_)
  refine keeps_ite (keeps_ite (keeps_when (fun _ h => h) h1) ?_) h1
  exact State.openShadow_keeps C _ _ _ _ (keeps_when (fun _ h => State.enterSafe_moves M _ _ h) h1)

theorem State.raise_moves (d : Det) (hs : AtPwr Q s) : AtPwr Q (s.raise d) := by
  have C := atPwr_closed (Q := Q)
  unfold State.raise
  extract_lets act cov conseq byInj lvl esc i s1 s2 s3 ev now e s4 s5 s6
  have h2 : AtPwr Q s2 := keeps_ite (State.bump_keeps C _ _ _ hs) (C.wr _ _ _ (State.bump_keeps C _ _ _ hs))
  have h3 : AtPwr Q s3 :=
    keeps_when (fun _ h => State.bump_keeps C _ _ _ h) (keeps_when (fun _ h => State.bump_keeps C _ _ _ h) h2)
  have h5 : AtPwr Q s5 := State.emitAs_keeps C _ _ _ _ _ (State.bump_keeps C _ _ _ (State.fltUpd_keeps C _ h3))
  have h6 : AtPwr Q s6 := by
    unfold s6
    split
    · exact State.emit_keeps C _ _ h5
    · exact h5
  exact State.fltRegs_keeps C (keeps_when (fun _ h => State.react_moves M _ _ _ h) h6)

theorem State.faultTake_moves (hs : AtPwr Q s) : AtPwr Q s.faultTake := by
  unfold State.faultTake
  split
  · exact hs
  · exact State.raise_moves M _ hs

theorem State.pwrSafe_moves (own : Bool) (hs : AtPwr Q s) : AtPwr Q (s.pwrSafe own) :=
  keeps_ite (State.enterSafe_moves M _ _ hs) (State.pwrErr_keeps atPwr_closed hs)

/-! #### The resets and the start (R335, R341, R361) -/

omit M in
theorem State.pwr_startUp (warm : Bool) : (s.startUp warm).pwr = .start := by
  have C := closed_pwr .start
  exact State.wrB_keeps C _ _ _ (C.wr _ _ _ (State.pwr_setPwr .start))

theorem State.startUp_moves (warm : Bool) : AtPwr Q (s.startUp warm) := by
  unfold AtPwr
  rw [State.pwr_startUp]
  exact M.start

theorem State.coldReset_moves (cause : Nat) : AtPwr Q (s.coldReset cause) := M.off

theorem State.tryStart_moves (hs : AtPwr Q s) : AtPwr Q s.tryStart := keeps_ite (State.startUp_moves M _) hs

theorem State.warmReset_moves (cause : Nat) : AtPwr Q (s.warmReset cause) := State.startUp_moves M _

theorem State.trialEnd_moves (reason : Nat) : AtPwr Q (s.trialEnd reason) := State.startUp_moves M _

theorem State.rstModule_moves (own jtag : Bool) (hs : AtPwr Q s) : AtPwr Q (s.rstModule own jtag) := by
  have C := atPwr_closed (Q := Q)
  exact keeps_ite (State.bump_keeps C _ _ _ hs) (keeps_ite (State.wrB_keeps C _ _ _ hs) (State.warmReset_moves M _))

theorem State.confirmTmo_moves (hs : AtPwr Q s) : AtPwr Q s.confirmTmo := by
  unfold State.confirmTmo
  extract_lets n
  split
  · exact keeps_ite (State.trialEnd_moves M _) hs
  · exact hs

theorem State.voterMismatch_moves (o : Vector (BitVec 32) 3) (hs : AtPwr Q s) : AtPwr Q (s.voterMismatch o) := by
  have hd : AtPwr Q s.coreDown := AtPwr.of_keeps (State.rest_coreDown Foot.but_may) hs
  unfold State.voterMismatch
  rw [State.coreLoss_eq]
  refine keeps_ite hs ?_
  split
  · exact keeps_ite (State.trialEnd_moves M _) hd
  · split
    · exact AtPwr.of_keeps (State.rest_exclude Foot.but_may _) hs
    · exact hs

theorem State.warmSettle_moves (hs : AtPwr Q s) : AtPwr Q s.warmSettle := by
  unfold State.warmSettle
  split
  · exact keeps_ite hs (State.warmReset_moves M _)
  · exact hs

theorem State.settle_moves (hs : AtPwr Q s) : AtPwr Q s.settle :=
  State.warmSettle_moves M (State.keySettle_keeps atPwr_closed hs)

/-! #### A commit at its boundary, and a step of TB time (R18, R84, R115) -/

theorem State.acquireNow_moves (hs : AtPwr Q s) : AtPwr Q s.acquireNow := by
  unfold State.acquireNow
  split
  next hc =>
    have hp : s.pwr = .ready := by simpa using (Bool.and_eq_true_iff.1 hc).1
    have hq : Q .acquire := M.acquire (hp ▸ hs)
    unfold AtPwr
    rw [State.pwr_setPwr]
    exact hq
  · exact hs

theorem State.commitBoundary_moves (hs : AtPwr Q s) : AtPwr Q s.commitBoundary := by
  have C := atPwr_closed (Q := Q)
  unfold State.commitBoundary
  split
  · exact hs
  next g _ =>
    refine keeps_ite ?_ hs
    extract_lets s1 x y again ok s2
    have h1 : AtPwr Q s1 := State.wrB_keeps C _ _ _ hs
    have ha (z : State) (hz : AtPwr Q z) : AtPwr Q (again z) :=
      keeps_ite (keeps_each _ (fun _ _ h => State.injTick_keeps C _ _ _ h) hz) hz
    have h2 : AtPwr Q s2 := by
      refine keeps_ite (ha s1 h1) (keeps_ite ?_ (ha _ (State.commitReject_keeps C _ h1)))
      rw [State.commitForce_eq]
      refine State.acquireNow_moves M (AtPwr.of_keeps ?_ h1)
      exact State.rest_commitInForce Foot.but_may (fun _ _ _ => List.not_mem_nil) Foot.but_region _ _ _
    exact State.commitSaid_keeps C _ _ (State.boundaryTail_keeps C _ _ h2)

theorem State.afterStep_moves (hs : AtPwr Q s) : AtPwr Q s.afterStep := by
  have C := atPwr_closed (Q := Q)
  unfold State.afterStep
  split
  · exact hs
  extract_lets _ s1 was k0 s2 n s3
  have h1 : AtPwr Q s1 := hs
  have h2 : AtPwr Q s2 := AtPwr.of_keeps (State.rest_scheduleBegin Foot.but_may Foot.but_region _) h1
  have h3 : AtPwr Q s3 := keeps_when (fun _ h => State.stepHeads_keeps C h) h2
  refine keeps_ite (State.stepHeads_keeps C h1) (keeps_ite (keeps_foldl _ (fun x _ h => ?_) h3) h2)
  exact State.commitBoundary_moves M (AtPwr.of_keeps (State.rest_boundary Foot.but_may Foot.but_region _ _ _ _ _) h)

end

end Sys2Proof.Machine
end

/-! ### The power state: the writes of registers and the messages -/

section
namespace Sys2Proof.Machine

open Sys2Proof Safety

set_option Elab.async false

variable {Q : Pwr → Prop} {s : State}

/-! #### Operations of commands and of register writes that leave the power state -/

theorem State.tickBoundary_atPwr (hs : AtPwr Q s) : AtPwr Q s.tickBoundary :=
  .of_keeps (State.rest_tickBoundary Foot.but_may Foot.but_region) hs

theorem State.pacing_atPwr (hs : AtPwr Q s) : AtPwr Q s.pacing :=
  .of_keeps (State.rest_pacing Foot.but_may Foot.but_region) hs

theorem State.scheduleStart_atPwr (hs : AtPwr Q s) : AtPwr Q s.scheduleStart :=
  .of_keeps (State.rest_scheduleStart Foot.but_may Foot.but_region) hs

theorem State.commitWrite_atPwr (hs : AtPwr Q s) : AtPwr Q s.commitWrite := .of_keeps (State.rest_commitWrite Foot.but_may) hs

theorem State.commitFor_atPwr (b : Option Nat) (hs : AtPwr Q s) : AtPwr Q (s.commitFor b) :=
  .of_keeps (State.rest_commitFor Foot.but_may b) hs

theorem State.regionDrainDone_atPwr (r : Fin 16) (hs : AtPwr Q s) : AtPwr Q (s.regionDrainDone r) :=
  .of_keeps (State.rest_regionDrainDone Foot.but_may r) hs

theorem State.blkRst_atPwr (m : Nat) (own : Bool) (hs : AtPwr Q s) : AtPwr Q (s.blkRst m own) :=
  .of_keeps (State.rest_blkRst Foot.but_may Foot.but_region m own fun _ _ _ _ _ => List.not_mem_nil) hs

theorem State.blkRelease_atPwr (b role pos : Nat) (hs : AtPwr Q s) : AtPwr Q (s.blkRelease b role pos) :=
  .of_keeps (State.rest_blkRelease Foot.but_may Foot.but_region b role pos) hs

theorem State.railRetry_atPwr (hs : AtPwr Q s) : AtPwr Q s.railRetry :=
  .of_keeps (State.rest_railRetry Foot.but_may fun _ _ _ => List.not_mem_nil) hs

theorem State.revert_atPwr (p : Nat) (hs : AtPwr Q s) : AtPwr Q (s.revert p) :=
  .of_keeps (State.rest_revert Foot.but_may fun _ _ _ => List.not_mem_nil) hs

theorem State.seqUpd_atPwr (f : Seq → Seq) (hs : AtPwr Q s) : AtPwr Q (s.seqUpd f) := hs

theorem State.pushSeg_atPwr (g : Seg) (hs : AtPwr Q s) : AtPwr Q (s.pushSeg g) := .of_keeps (State.rest_pushSeg Foot.but_may g) hs

theorem State.slip_atPwr (first n : Nat) (hs : AtPwr Q s) : AtPwr Q (s.slip first n) := by
  have C := atPwr_closed (Q := Q)
  exact State.detect_keeps C _ _ _ _ _ _ (State.wrB_keeps C _ _ _ (State.seqUpd_atPwr _ (State.slipHeads_keeps C _ hs)))

theorem State.ticksRx_atPwr (c : TickChange) (hs : AtPwr Q s) : AtPwr Q (s.ticksRx c) := by
  have C := atPwr_closed (Q := Q)
  unfold State.ticksRx
  extract_lets g n s1 m
  have h1 : AtPwr Q s1 := State.tickRegs_keeps C _ _ _ _ (State.seqUpd_atPwr _ hs)
  refine keeps_ite (keeps_ite h1 (State.slip_atPwr _ _ h1)) (keeps_ite (State.seqUpd_atPwr _ hs) ?_)
  exact State.slip_atPwr _ _ (State.tickRegs_keeps C _ _ _ _ (State.pushSeg_atPwr _ hs))

/-! #### The writes of registers and the messages that carry them (R352, R353, R286) -/

section
variable (M : Moves Q)
include M

theorem State.w1sWrite_moves (a : Accessor) (f : Fld) (i m : Nat) (hs : AtPwr Q s) :
    PairP (AtPwr Q) (s.w1sWrite a f i m) := by
  have C := atPwr_closed (Q := Q)
  unfold State.w1sWrite
  extract_lets own r
  split
  · exact pairP_mk (State.rstWrite_keeps C _ hs)
  · exact pairP_mk (State.fwActivate_keeps C _ hs)
  · exact pairP_mk (State.fwConfirm_keeps C _ hs)
  · exact pairP_mk (State.blkRst_atPwr _ _ hs)
  · exact pairP_mk (State.maskSave_keeps C hs)
  · exact pairP_mk (State.feAbort_keeps C _ hs)
  · exact pairP_mk (State.hotClr_keeps C _ hs)
  · exact pairP_mk (State.tdcAbort_keeps C _ hs)
  · exact pairP_mk (State.calReset_keeps C _ hs)
  · exact pairP_mk (State.calLoad_keeps C _ hs)
  · exact pairP_mk (State.commitWrite_atPwr hs)
  · exact pairP_mk (State.regionsAbort_keeps C _ hs)
  · exact pairP_mk (State.trgInput_keeps C _ _ hs)
  · exact pairP_mk (State.markSlate_keeps C hs)
  · exact pairP_mk (State.regionAbort_keeps C _ hs)
  · exact pairP_mk (State.ctxLoad_keeps C _ hs)
  · exact pairP_mk (State.repairRun_keeps C hs)
  · exact pairP_mk (State.oflStart_keeps C hs)
  · exact pairP_mk (State.oflAbort_keeps C hs)
  · exact pairP_mk (State.cmdGo_keeps C hs)
  · exact pairP_mk (State.afterStep_moves M (State.stepWrite_keeps C _ hs))
  · exact pairP_mk (State.snapReq_keeps C hs)
  · exact pairP_mk (State.portAbort_keeps C _ hs)
  · exact pairP_mk (State.retrain_keeps C _ _ hs)
  · exact pairP_mk (State.enumStart_keeps C hs)
  · exact pairP_mk (keeps_ite (State.claimReq_keeps C _ hs) hs)
  · exact pairP_mk (State.qpAbort_keeps C _ hs)
  · exact State.keyClear_keeps C _ hs
  · exact keeps_iteP (State.keyRevoke_keeps C _ _ hs) (pairP_mk hs)
  · exact pairP_mk (State.fwBegin_keeps C _ hs)
  · exact pairP_mk (State.fwVerify_keeps C _ hs)
  · exact pairP_mk (State.fwAbort_keeps C _ hs)
  · exact pairP_mk (State.calReq_keeps C hs)
  · exact pairP_mk (State.injReq_keeps C hs)
  · exact pairP_mk (State.injGo_keeps C hs)
  · exact pairP_mk (State.ackMask_keeps C _ _ hs)
  · exact pairP_mk (State.ackMask_keeps C _ _ hs)
  · exact pairP_mk (State.clrMask_keeps C _ _ _ hs)
  · exact pairP_mk (State.clrMask_keeps C _ _ _ hs)
  · exact pairP_mk (State.revert_atPwr _ hs)
  · exact pairP_mk hs

theorem State.rwWrite_moves (a : Accessor) (f : Fld) (i v : Nat) (hs : AtPwr Q s) : PairP (AtPwr Q) (s.rwWrite a f i v) := by
  have C := atPwr_closed (Q := Q)
  unfold State.rwWrite
  split
  · exact pairP_mk (State.biasWrite_keeps C _ hs)
  · exact pairP_mk (State.binWrite_keeps C _ _ hs)
  · exact pairP_mk (State.ctxWrite_keeps C _ _ _ hs)
  · exact pairP_mk (State.freqWrite_keeps C _ hs)
  · exact pairP_mk (State.afterStep_moves M (State.timeSet_keeps C _ hs))
  · exact pairP_mk (State.roleSw_keeps C _ hs)
  · exact pairP_mk (keeps_on (fun _ h => keeps_each _ (fun _ _ h => keeps_ite (State.clapView_keeps C _ h) h) h)
      (C.wr _ _ _ hs))
  · exact pairP_mk (State.ciWrite_keeps C _ _ hs)
  · exact State.keyLevel_keeps C _ _ _ hs
  · exact pairP_mk (C.wr _ _ _ hs)
  · exact pairP_mk (C.wr _ _ _ hs)
  · exact pairP_mk (C.wr _ _ _ hs)

omit M in
theorem State.rwcWrite_atPwr (f : Fld) (i v : Nat) (hs : AtPwr Q s) : AtPwr Q (s.rwcWrite f i v) := by
  have C := atPwr_closed (Q := Q)
  unfold State.rwcWrite
  exact keeps_ite (State.maskWrite_keeps C _ _ hs) (keeps_ite (State.ofsWrite_keeps C _ _ hs)
    (keeps_ite (State.wrB_keeps C _ _ _ hs) (State.wrB_keeps C _ _ _ (C.wrSh _ _ _ hs))))

theorem State.woWrite_moves (a : Accessor) (f : Fld) (i v : Nat) (hs : AtPwr Q s) : PairP (AtPwr Q) (s.woWrite a f i v) := by
  have C := atPwr_closed (Q := Q)
  unfold State.woWrite
  split
  · exact pairP_mk (keeps_ite (State.pwrReady_keeps C hs) (keeps_ite (State.pwrStandby_keeps C hs)
      (keeps_ite (State.pwrAcquire_keeps C hs) (State.pwrSafe_moves M _ hs))))
  · exact State.keyWrite_keeps C _ _ _ hs
  · exact pairP_mk hs

theorem State.fieldWrite_moves (a : Accessor) (f : Fld) (i v : Nat) (hs : AtPwr Q s) :
    PairP (AtPwr Q) (s.fieldWrite a f i v) := by
  have C := atPwr_closed (Q := Q)
  have hw (m : Nat) := State.w1sWrite_moves M a f i m hs
  unfold State.fieldWrite
  refine keeps_iteP (pairP_mk (keeps_ite (keeps_fst (hw v)) hs)) (keeps_iteP (pairP_mk (State.wrB_keeps C _ _ _ hs)) ?_)
  split
  · exact pairP_mk hs
  · exact State.rwWrite_moves M a f i v hs
  · exact pairP_mk (State.rwcWrite_atPwr f i v hs)
  · exact pairP_mk (C.wr _ _ _ hs)
  · exact State.woWrite_moves M a f i v hs
  · exact keeps_iteP (pairP_mk hs) (hw v)

theorem State.fieldsWrite_moves (a : Accessor) (l : List (Fld × Nat)) (v o : Nat) (hs : AtPwr Q s) :
    PairP (AtPwr Q) (s.fieldsWrite a l v o) :=
  keeps_foldl_pair _ (fun _ _ h => pairP_mk (keeps_fst (State.fieldWrite_moves M _ _ _ _ (keeps_fst h)))) (pairP_mk hs)

theorem State.writeWord_moves (a : Accessor) (p o v : Nat) (hs : AtPwr Q s) : PairP (AtPwr Q) (s.writeWord a p o v) := by
  have C := atPwr_closed (Q := Q)
  have hc : AtPwr Q (s.countWrite a p) := State.countWrite_keeps C _ _ hs
  unfold State.writeWord
  split
  · exact State.fieldsWrite_moves M _ _ _ _ hc
  · refine keeps_iteP (pairP_mk (State.countWrite_keeps C _ _ (State.setStage_keeps C _ _ hs))) (keeps_iteP (pairP_mk hs) ?_)
    refine keeps_iteP (pairP_mk (State.setStage_keeps C _ _ hc)) ?_
    exact State.fieldsWrite_moves M _ _ _ _ (State.setStage_keeps C _ _ hc)

theorem State.writeOp_moves (s0 : State) (a : Accessor) (fixed : Bool) (addr : Nat) (ws : List Nat) (hs : AtPwr Q s) :
    PairP (AtPwr Q) (s0.writeOp s a fixed addr ws) := by
  have C := atPwr_closed (Q := Q)
  unfold State.writeOp
  extract_lets e p r
  have hr : PairP (AtPwr Q) r := keeps_foldl_pair _ (fun _ _ h => keeps_iteP h
    (pairP_mk (keeps_fst (State.writeWord_moves M _ _ _ _ (keeps_fst h))))) (pairP_mk hs)
  exact keeps_iteP (pairP_mk (State.denied_keeps C _ _ hs)) (pairP_mk (State.denied_keeps C _ _ (keeps_fst hr)))

theorem State.access_moves (a : Accessor) (addr : Nat) {f : Accessor → State → State}
    (hf : ∀ b x, AtPwr Q x → AtPwr Q (f b x)) (hs : AtPwr Q s) : AtPwr Q (s.access a addr f) :=
  keeps_ite (State.settle_moves M (hf _ _ hs)) (keeps_ite (State.bump_keeps atPwr_closed _ _ _ hs) hs)

theorem State.poke_moves (a : Accessor) (addr v : Nat) (hs : AtPwr Q s) : AtPwr Q (s.poke a addr v) :=
  State.access_moves M a addr (fun _ _ h => keeps_fst (State.writeOp_moves M _ _ _ _ _ h)) hs

/-! #### The relay and the sessions (R236 to R238, R286 to R291) -/

omit M in
theorem State.relayCommit_atPwr (q : RelayReq) (tick : Nat) (hs : AtPwr Q s) : PairP (AtPwr Q) (s.relayCommit q tick) := by
  have C := atPwr_closed (Q := Q)
  unfold State.relayCommit
  extract_lets asked
  have ha (u : State) (hu : AtPwr Q u) : PairP (AtPwr Q) (asked u) := by
    unfold asked
    split
    · exact pairP_mk hu
    · exact pairP_mk hu
  refine keeps_iteP (pairP_mk hs) (keeps_iteP (pairP_mk (State.wrB_keeps C _ _ _ (State.wrB_keeps C _ _ _ hs))) ?_)
  split
  · exact ha _ (State.commitFor_atPwr _ hs)
  · exact ha _ (State.slip_atPwr _ _ (State.commitFor_atPwr _ hs))

theorem State.relayApply_moves (q : RelayReq) (hs : AtPwr Q s) : PairP (AtPwr Q) (s.relayApply q) := by
  have C := atPwr_closed (Q := Q)
  unfold State.relayApply
  extract_lets a
  split
  · exact pairP_mk (keeps_fst (State.readOp_keeps C _ _ _ _ _ hs))
  · exact pairP_mk (keeps_fst (State.writeOp_moves M _ _ _ _ _ hs))
  · exact keeps_iteP (pairP_mk (State.denied_keeps C _ _ hs)) (pairP_mk (keeps_fst (State.relayCommit_atPwr _ _ hs)))
  · exact keeps_iteP (pairP_mk hs) (pairP_mk (State.ticksRx_atPwr _ hs))
  · exact keeps_iteP (pairP_mk (C.wr _ _ _ hs)) (pairP_mk hs)
  · exact pairP_mk (State.admitRx_keeps C _ hs)

theorem State.relayHere_moves (q : RelayReq) (hs : AtPwr Q s) : AtPwr Q (s.relayHere q) := by
  have C := atPwr_closed (Q := Q)
  have ha : AtPwr Q (s.relayApply q).1 := keeps_fst (State.relayApply_moves M q hs)
  unfold State.relayHere
  refine keeps_ite hs ?_
  split
  · exact State.sendUp_keeps C _ hs
  · refine State.settle_moves M ?_
    split
    · exact State.relayAnswer_keeps C _ _ _ ha
    · exact ha

theorem State.relayRx_moves (q : RelayReq) (hs : AtPwr Q s) : AtPwr Q (s.relayRx q) := by
  have C := atPwr_closed (Q := Q)
  unfold State.relayRx
  refine keeps_ite (State.relayHere_moves M q (keeps_each _ (fun _ _ h => State.relayOn_keeps C _ _ h) hs))
    (keeps_ite (State.relayHere_moves M q hs) ?_)
  split
  · exact State.relayOn_keeps C _ _ hs
  · exact State.sendUp_keeps C _ (State.bump_keeps C _ _ _ hs)

theorem State.thbOp_moves (s0 : State) (a : Accessor) (o : ThbOp) (hs : AtPwr Q s) : PairP (AtPwr Q) (s0.thbOp s a o) := by
  have C := atPwr_closed (Q := Q)
  unfold State.thbOp
  refine keeps_iteP (pairP_mk hs) ?_
  split
  · exact pairP_mk (keeps_fst (State.readOp_keeps C _ _ _ _ _ hs))
  · exact pairP_mk (keeps_fst (State.writeOp_moves M _ _ _ _ _ hs))
  · exact pairP_mk (State.denied_keeps C _ _ (keeps_fst (State.fwData_keeps C _ _ _ hs)))
  · exact pairP_mk hs

theorem State.thbOps_moves (a : Accessor) (ops : List ThbOp) (hs : AtPwr Q s) : PairP (AtPwr Q) (s.thbOps a ops) :=
  keeps_foldl_pair _ (fun _ _ h => pairP_mk (keeps_fst (State.thbOp_moves M _ _ _ (keeps_fst h)))) (pairP_mk hs)

theorem State.relayOut_moves (level target : Nat) (o : ThbOp) (hs : AtPwr Q s) : PairP (AtPwr Q) (s.relayOut level target o) := by
  have C := atPwr_closed (Q := Q)
  unfold State.relayOut
  split
  · exact pairP_mk hs
  next op _ =>
    extract_lets n q next wait r s1 left st
    have hn : AtPwr Q (next s) := hs
    have hr : AtPwr Q r.1 := keeps_fst (State.relayApply_moves M q hn)
    have h1 : AtPwr Q s1 := keeps_each _ (fun _ _ h => State.relayOn_keeps C _ _ h) hr
    have hw (w : RelayWait) (x : State) (hx : AtPwr Q x) : PairP (AtPwr Q) (wait w x) := pairP_mk (State.treUpd_keeps C _ hx)
    refine keeps_iteP (pairP_mk hs) (keeps_iteP (keeps_iteP (pairP_mk h1) (hw _ _ h1)) ?_)
    split
    · exact hw _ _ (State.relayOn_keeps C _ _ hn)
    · exact pairP_mk (State.bump_keeps C _ _ _ hs)

theorem State.relayOuts_moves (level target : Nat) (ops : List ThbOp) (hs : AtPwr Q s) :
    PairP (AtPwr Q) (s.relayOuts level target ops) :=
  keeps_foldl_pair _ (fun _ _ h => pairP_mk (keeps_fst (State.relayOut_moves M _ _ _ (keeps_fst h)))) (pairP_mk hs)

theorem State.thbExec_moves (n : Fin 8) (x : Sess) (h : ThbHead) (target : Nat) (ops : List ThbOp) (hs : AtPwr Q s) :
    AtPwr Q (s.thbExec n x h target ops) := by
  have C := atPwr_closed (Q := Q)
  unfold State.thbExec
  extract_lets lvl s1 a r r' p
  have h1 : AtPwr Q s1 := State.bump_keeps C _ _ _ hs
  have hr : AtPwr Q r.1 := keeps_fst (State.thbOps_moves M a ops h1)
  have hr' : AtPwr Q r'.1 := keeps_fst (State.relayOuts_moves M lvl target ops h1)
  refine keeps_ite (State.settle_moves M (State.thbReply_keeps C _ _ _ _ _ _ _ hr))
    (keeps_ite (State.thbReply_keeps C _ _ _ _ _ _ _ h1) ?_)
  exact State.settle_moves M (State.pendReply_keeps C (State.ctlUpd_keeps C _ hr'))

theorem State.requestMsg_moves (h : ThbHead) (x : Sess) (target : Nat) (ops : Option (List ThbOp)) (hs : AtPwr Q s) :
    AtPwr Q (s.requestMsg h x target ops) := by
  have C := atPwr_closed (Q := Q)
  unfold State.requestMsg
  extract_lets n seq x1 s1 say x2 s2
  have h1 : AtPwr Q s1 := State.setSession_keeps C _ _ hs
  have h2 : AtPwr Q s2 := State.setSession_keeps C _ _ h1
  split
  · exact State.thbSay_keeps C _ _ _ _ _ _ _ h1
  · refine keeps_ite (State.replayDrop_keeps C h1) ?_
    split
    · exact State.thbExec_moves M _ _ _ _ _ h2
    · exact State.thbSay_keeps C _ _ _ _ _ _ _ h2

end
end Sys2Proof.Machine
end

/-! ### The power state: every command but five -/

section
namespace Sys2Proof.Machine

open Sys2Proof Safety

set_option Elab.async false

variable {Q : Pwr → Prop}

/-! #### Every command but five moves the power state as SAFE entry, ACQUIRE, the resets and the start do -/

section
variable {s : State} {t : Nat} {f : State → State}

/-- The clock and the queue of waiting commands are no part of the power state. -/
theorem run_atPwr (hf : ∀ x, AtPwr Q x → AtPwr Q (f x)) (hs : AtPwr Q s) : OutP (AtPwr Q) (run t f s) :=
  ⟨fun _ h => by cases h; exact keeps_stamp atPwr_closed _ _ (hf _ (keeps_at atPwr_closed t hs))⟩

theorem runOn_atPwr {b : Blk} (hf : ∀ x, AtPwr Q x → AtPwr Q (f x)) (hs : AtPwr Q s) :
    OutP (AtPwr Q) (run t (fun s => s.on b f) s) :=
  run_atPwr (fun _ h => keeps_on hf h) hs

theorem laneCmd_atPwr {l : Fin 10} {j : Fin 2} (hf : ∀ x, AtPwr Q x → AtPwr Q (f x)) (hs : AtPwr Q s) :
    OutP (AtPwr Q) (laneCmd t l j f s) :=
  runOn_atPwr (fun _ h => keeps_when hf h) hs

theorem linkCmd_atPwr (hf : ∀ x, AtPwr Q x → AtPwr Q (f x)) (hs : AtPwr Q s) : OutP (AtPwr Q) (linkCmd t f s) :=
  runOn_atPwr hf hs

theorem treRx_atPwr {l : Fin 10} (hf : ∀ x, AtPwr Q x → AtPwr Q (f x)) (hs : AtPwr Q s) :
    OutP (AtPwr Q) (treRx t l f s) :=
  runOn_atPwr (fun _ h => keeps_when hf h) hs

theorem thbCmd_atPwr {h : ThbHead} (hf : ∀ x, AtPwr Q x → AtPwr Q (f x)) (hs : AtPwr Q s) :
    OutP (AtPwr Q) (run t (fun s => s.when (s.thbHears h) f) s) :=
  run_atPwr (fun _ h => keeps_when hf h) hs

theorem atPwr_lastRead (n : Nat) (hs : AtPwr Q s) : AtPwr Q { s with lastRead := n } := hs

theorem atPwr_out (o : List Out) (hs : AtPwr Q s) : AtPwr Q { s with out := o } := hs

theorem runPoke_moves (M : Moves Q) {a : Accessor} {addr : Nat} {v : State → Nat} (hs : AtPwr Q s) :
    OutP (AtPwr Q) (run t (fun s => s.poke a addr (v s)) s) :=
  run_atPwr (fun _ h => State.poke_moves M _ _ _ h) hs

theorem execMultiwordCapture_moves (M : Moves Q) {a : Accessor} {addr : BitVec 32} (hs : AtPwr Q s) :
    OutP (AtPwr Q) (execMultiwordCapture t a addr s) := by
  refine run_atPwr (fun x h => keeps_when (fun _ h => atPwr_lastRead _ h) ?_) hs
  exact State.access_moves M _ _ (fun _ _ h => atPwr_lastRead _ (keeps_fst (State.readOp_keeps atPwr_closed _ _ _ _ _ h))) h

end

/-- The commands that move the power state on their own: the end of the start, and the changes of STANDBY, ACQUIRE and SAFE that
follow at a boundary (R18, R323). -/
def changesPower : Instr → Bool
  | .startComplete .. | .standbyEntry .. | .standbyExit .. | .acquireToReady .. | .safeExit .. => true
  | _ => false

/-- One case for each command: it runs an operation of its block, and the power state moves along Q or stays. -/
theorem exec_moves (M : Moves Q) (c : Instr) (hc : changesPower c ≠ true) {s : State} (hs : AtPwr Q s) :
    OutP (AtPwr Q) (exec c s) := by
  have C := atPwr_closed (Q := Q)
  cases c with dsimp only [exec]
  | powerOn _ => exact run_atPwr (fun _ h => State.tryStart_moves M (State.pmrUpd_keeps C _ h)) hs
  | vinUndervoltage _ => exact run_atPwr (fun _ _ => State.coldReset_moves M _) hs
  | pwrEnLow _ => exact run_atPwr (fun _ _ => State.coldReset_moves M _) hs
  | resetNLow _ => exact run_atPwr (fun _ _ => State.coldReset_moves M _) hs
  | startComplete _ _ => exact absurd rfl hc
  | railRetry _ => exact run_atPwr (fun _ h => State.railRetry_atPwr h) hs
  | pwrCmdReady _ => exact runOn_atPwr (fun _ h => State.pwrReady_keeps C h) hs
  | pwrCmdStandby _ => exact runOn_atPwr (fun _ h => State.pwrStandby_keeps C h) hs
  | pwrCmdAcquireEnable _ => exact runOn_atPwr (fun _ h => State.pwrAcquire_keeps C h) hs
  | pwrCmdSafe _ _ => exact runOn_atPwr (fun _ h => State.pwrSafe_moves M _ h) hs
  | standbyEntry _ => exact absurd rfl hc
  | standbyExit _ => exact absurd rfl hc
  | acquireToReady _ => exact absurd rfl hc
  | safeExit _ => exact absurd rfl hc
  | tickBoundary _ => exact run_atPwr (fun _ h => State.tickBoundary_atPwr h) hs
  | pacingInstant _ => exact run_atPwr (fun _ h => State.pacing_atPwr h) hs
  | tickScheduleStart _ => exact run_atPwr (fun _ h => State.scheduleStart_atPwr h) hs
  | commit _ => exact runOn_atPwr (fun _ h => State.commitWrite_atPwr h) hs
  | commitBoundary _ => exact runOn_atPwr (fun _ h => State.commitBoundary_moves M h) hs
  | regionDrainDone _ _ => exact runOn_atPwr (fun _ h => State.regionDrainDone_atPwr _ h) hs
  | regionAbort _ _ => exact runOn_atPwr (fun _ h => State.regionsAbort_keeps C _ h) hs
  | biasEnSet _ _ => exact runOn_atPwr (fun _ h => State.biasEnSet_keeps C _ h) hs
  | biasEnClear _ _ => exact runOn_atPwr (fun _ h => State.biasEnClear_keeps C _ h) hs
  | biasRampDone _ _ => exact runOn_atPwr (fun _ h => State.rampDone_keeps C _ h) hs
  | regionOvercurrent _ _ =>
    exact runOn_atPwr (fun _ h => State.detect_keeps C _ _ _ _ _ _ (State.wrB_keeps C _ _ _
      (State.crowbar_keeps C _ h))) hs
  | railOvercurrent _ => exact runOn_atPwr (fun _ h => State.detect_keeps C _ _ _ _ _ _ (State.wrB_keeps C _ _ _ h)) hs
  | pixelEdge _ _ _ _ _ => exact runOn_atPwr (fun _ h => State.pixelEdge_keeps C _ _ _ _ h) hs
  | pixelHoldoffEnd _ _ _ _ => exact runOn_atPwr (fun _ h => State.holdoffEnd_keeps C _ _ h) hs
  | captureWindowClose _ _ _ => exact runOn_atPwr (fun _ h => State.windowClose_keeps C _ _ h) hs
  | feAbort _ _ => exact runOn_atPwr (fun _ h => State.feAbort_keeps C _ h) hs
  | maskDataWrite _ _ _ => exact runOn_atPwr (fun _ h => State.maskWrite_keeps C _ _ h) hs
  | maskDataRead _ _ => exact runOn_atPwr (fun _ h => State.maskNext_keeps C _ ((atPwr_lastRead _ h))) hs
  | maskSave _ => exact runOn_atPwr (fun _ h => State.maskSave_keeps C h) hs
  | maskSaveDone _ => exact runOn_atPwr (fun _ h => State.maskSaveDone_keeps C h) hs
  | hotClr _ _ => exact runOn_atPwr (fun _ h => State.hotClr_keeps C _ h) hs
  | frameTransferDone _ _ => exact runOn_atPwr (fun _ h => State.frameDone_keeps C _ h) hs
  | injectedPulse _ _ => exact runOn_atPwr (fun _ h => State.injectedPulse_keeps C _ _ h) hs
  | clusterReadoutVisit _ _ => exact runOn_atPwr (fun _ h => State.readoutVisit_keeps C _ h) hs
  | tdcDrainDone _ _ => exact runOn_atPwr (fun _ h => State.tdcDrainDone_keeps C _ h) hs
  | tdcAbort _ _ => exact runOn_atPwr (fun _ h => State.tdcAbort_keeps C _ h) hs
  | calBatchClose _ b =>
    refine runOn_atPwr (fun _ h => ?_) hs
    cases b with
    | group _ _ => exact State.calBatchClose_keeps C _ _ h
    | aux _ _ _ => exact State.auxBatch_keeps C _ _ _ h
    | timeTransfer _ _ _ => exact State.ttBatch_keeps C _ _ _ h
  | calBatchTimeout _ _ _ => exact runOn_atPwr (fun _ h => State.calBatchTimeout_keeps C _ _ h) hs
  | calReset _ _ => exact runOn_atPwr (fun _ h => State.calReset_keeps C _ h) hs
  | calLoad _ _ => exact runOn_atPwr (fun _ h => State.calLoad_keeps C _ h) hs
  | tdcOffAccess _ _ w =>
    refine runOn_atPwr (fun _ h => ?_) hs
    cases w with
    | some _ => exact State.ofsWrite_keeps C _ _ h
    | none => exact State.ofsNext_keeps C _ (atPwr_lastRead _ h)
  | auxEdge _ _ _ _ _ => exact runOn_atPwr (fun _ h => State.auxEdge_keeps C _ _ _ _ h) hs
  | auxInstanceSwap _ _ => exact runOn_atPwr (fun _ h => State.auxSwap_keeps C _ h) hs
  | phaseMonitor _ _ _ => exact runOn_atPwr (fun _ h => State.phaseMonitor_keeps C _ _ h) hs
  | refLoss _ => exact runOn_atPwr (fun _ h => State.refLoss_keeps C h) hs
  | refWindow _ _ => exact runOn_atPwr (fun _ h => State.refWindow_keeps C _ h) hs
  | ppsTimeout _ => exact runOn_atPwr (fun _ h => State.ppsTimeout_keeps C h) hs
  | extPhaseUpdate _ _ => exact runOn_atPwr (fun _ h => State.afterStep_moves M (State.extUpdate_keeps C _ h)) hs
  | srcRevertTimer _ => exact runOn_atPwr (fun _ h => State.revertTimer_keeps C h) hs
  | holdoverWarn _ => exact runOn_atPwr (fun _ h => State.holdWarn_keeps C h) hs
  | clapperTx _ _ => exact runOn_atPwr (fun _ h => keeps_ite (State.clapTx_keeps C _ _ h) h) hs
  | clapperRx _ _ _ _ =>
    exact runOn_atPwr (fun _ h => keeps_ite (State.afterStep_moves M (State.clapRx_keeps C _ _ _ h)) h) hs
  | clapTimeout _ _ => exact runOn_atPwr (fun _ h => State.clapTimeout_keeps C _ h) hs
  | ptpAnnounceRx _ _ _ => exact runOn_atPwr (fun _ h => State.ptpAnnounce_keeps C _ _ h) hs
  | ptpSyncRx _ _ _ => exact runOn_atPwr (fun _ h => State.ptpSync_keeps C _ _ h) hs
  | ptpFollowUpRx _ _ _ => exact runOn_atPwr (fun _ h => State.ptpFollow_keeps C _ _ h) hs
  | ptpDelayReqTx _ => exact runOn_atPwr (fun _ h => State.ptpDelayReq_keeps C h) hs
  | ptpDelayRespRx _ _ _ => exact runOn_atPwr (fun _ h => State.afterStep_moves M (State.ptpDelayResp_keeps C _ _ h)) hs
  | ptpAnnounceTimeout _ => exact runOn_atPwr (fun _ h => State.ptpAnnTimeout_keeps C h) hs
  | ptpSyncTimeout _ => exact runOn_atPwr (fun _ h => State.ptpSyncTimeout_keeps C h) hs
  | stepCmd _ _ => exact runOn_atPwr (fun _ h => State.afterStep_moves M (State.stepWrite_keeps C _ h)) hs
  | timeSetWrite _ _ => exact runOn_atPwr (fun _ h => State.afterStep_moves M (State.timeSet_keeps C _ h)) hs
  | snapReq _ => exact runOn_atPwr (fun _ h => State.snapReq_keeps C h) hs
  | timeNowRead _ => exact runOn_atPwr (fun _ h => atPwr_lastRead _ h) hs
  | freqWordWrite _ _ => exact runOn_atPwr (fun _ h => State.freqWrite_keeps C _ h) hs
  | ppsOutPulse _ => exact runOn_atPwr (fun _ h => State.ppsOut_keeps C h) hs
  | gateOpen _ r =>
    refine runOn_atPwr (fun x h => ?_) hs
    have ho := State.gateOpens_keeps C r h
    split
    · next he =>
      split
      · exact keeps_on (fun _ h => State.gateSource_keeps C _ _ h) (of_some he ho)
      · exact of_some he ho
    · exact h
  | gateClose _ _ => exact runOn_atPwr (fun _ h => State.gateCloses_keeps C _ h) hs
  | eventWordRelease _ _ => exact runOn_atPwr (fun _ h => State.wordRelease_keeps C _ h) hs
  | tickClose _ _ => exact runOn_atPwr (fun _ h => State.tickClose_keeps C _ h) hs
  | histoDumpDone _ _ => exact runOn_atPwr (fun _ h => State.dumpDone_keeps C _ h) hs
  | frameHeadEmit _ _ => exact runOn_atPwr (fun _ h => State.headEmit_keeps C _ h) hs
  | softReq _ => exact runOn_atPwr (fun _ h => State.trgInput_keeps C _ _ h) hs
  | mark _ => exact runOn_atPwr (fun _ h => State.markSlate_keeps C h) hs
  | rateEval _ =>
    exact runOn_atPwr (fun _ h => State.rateEval_keeps C (keeps_each _ (fun _ _ h => State.rateNote_keeps C _ _ h) h)) hs
  | requestMergeEnd _ => exact runOn_atPwr (fun _ h => State.mergeEnd_keeps C h) hs
  | treqRx _ _ _ _ _ _ _ =>
    exact runOn_atPwr (fun _ h => keeps_when (fun _ h => State.trigRx_keeps C _ _ h fun _ h => keeps_on (fun _ h =>
      keeps_when (fun _ h => State.reqIn_keeps C _ _ (State.trgSettle_keeps C h)) h) h) h) hs
  | decisionWindowEnd _ => exact runOn_atPwr (fun _ h => State.decide__keeps C h) hs
  | tdecRx _ _ _ _ _ _ =>
    exact runOn_atPwr (fun _ h => keeps_when (fun _ h => State.trigRx_keeps C _ _ h fun _ h => keeps_on (fun _ h =>
      keeps_when (fun _ h => State.decRx_keeps C _ h) h) h) h) hs
  | triggerAction _ => exact runOn_atPwr (fun _ h => State.trigAction_keeps C h) hs
  | trigOutPulseStart _ _ => exact runOn_atPwr (fun _ h => State.pulseStart_keeps C _ h) hs
  | trigOutPulseEnd _ _ => exact runOn_atPwr (fun _ h => State.pulseEnd_keeps C _ h) hs
  | windowClose _ _ => exact runOn_atPwr (fun _ h => State.windowDone_keeps C _ h) hs
  | chunkComplete _ _ _ =>
    exact runOn_atPwr (fun _ h => State.winRun_keeps C _ (State.chunkComplete_keeps C _
      (keeps_when (fun _ h => State.packFault_keeps C h) h))) hs
  | dynTableReady _ _ _ => exact runOn_atPwr (fun _ h => State.dynReady_keeps C _ _ h) hs
  | stallLimit _ _ => exact runOn_atPwr (fun _ h => State.stallLimit_keeps C _ h) hs
  | cmpAbort _ _ => exact runOn_atPwr (fun _ h => State.regionAbort_keeps C _ h) hs
  | ctxDataRead _ _ => exact runOn_atPwr (fun _ h => State.ctxRead_keeps C _ _ h) hs
  | ctxDataWrite _ _ _ => exact runOn_atPwr (fun _ h => State.ctxWrite_keeps C _ _ _ h) hs
  | ctxLoad _ _ => exact runOn_atPwr (fun _ h => State.ctxLoad_keeps C _ h) hs
  | grantAvailable _ _ => exact runOn_atPwr (fun _ h => State.grantAvailable_keeps C _ h) hs
  | patchAccept _ => exact runOn_atPwr (fun _ h => State.patchAccept_keeps C h) hs
  | holdLimit _ _ => exact runOn_atPwr (fun _ h => State.sweep_keeps C (State.holdLimit_keeps C _ h)) hs
  | fabricWordRead _ _ _ _ => exact runOn_atPwr (fun _ h => State.fabricRead_keeps C _ _ _ h) hs
  | groupWrite _ _ _ =>
    exact runOn_atPwr (fun _ h => State.winPump_keeps C (State.cabPull_keeps C (State.groupWrite_keeps C _ _ h))) hs
  | mergeOpDone _ _ => exact runOn_atPwr (fun _ h => State.mergeDone_keeps C (State.flip_keeps C _ h)) hs
  | shelfDef _ => exact runOn_atPwr (fun _ h => State.cabCmd_keeps C h fun _ h => State.shelfDef_keeps C h) hs
  | shelfDel _ => exact runOn_atPwr (fun _ h => State.cabCmd_keeps C h fun _ h => State.shelfDel_keeps C h) hs
  | reelDef _ => exact runOn_atPwr (fun _ h => State.cabCmd_keeps C h fun _ h => State.reelDef_keeps C h) hs
  | reelDel _ => exact runOn_atPwr (fun _ h => State.cabCmd_keeps C h fun _ h => State.reelDel_keeps C h) hs
  | reelClear _ => exact runOn_atPwr (fun _ h => State.cabCmd_keeps C h fun _ h => State.reelClear_keeps C h) hs
  | takeStart _ => exact runOn_atPwr (fun _ h => State.cabCmd_keeps C h fun _ h => State.takeStart_keeps C _ h) hs
  | takeStop _ => exact runOn_atPwr (fun _ h => State.cabCmd_keeps C h fun _ h => State.takeStop_keeps C _ h) hs
  | takeRelease _ => exact runOn_atPwr (fun _ h => State.cabCmd_keeps C h fun _ h => State.takeRelease_keeps C h) hs
  | takeDelete _ => exact runOn_atPwr (fun _ h => State.cabCmd_keeps C h fun _ h => State.takeDelete_keeps C h) hs
  | dirRead _ => exact runOn_atPwr (fun _ h => State.cabCmd_keeps C h fun _ h => State.dirRead_keeps C h) hs
  | cmdOpReserved _ => exact runOn_atPwr (fun _ h => State.cmdReserved_keeps C h) hs
  | oflStart _ => exact runOn_atPwr (fun _ h => State.oflStart_keeps C h) hs
  | oflAbort _ => exact runOn_atPwr (fun _ h => State.oflAbort_keeps C h) hs
  | offloadDone _ => exact runOn_atPwr (fun _ h => State.oflPump_keeps C h) hs
  | scrubGroupRead _ _ _ => exact runOn_atPwr (fun _ h => State.scrubGroup_keeps C _ _ h) hs
  | repairRun _ => exact runOn_atPwr (fun _ h => State.repairRun_keeps C h) hs
  | repairDone _ _ => exact runOn_atPwr (fun _ h => State.repairDone_keeps C _ h) hs
  | rateHuntSwitch _ _ _ => exact laneCmd_atPwr (fun _ h => State.rateSwitch_keeps C _ _ h) hs
  | blockLock _ _ _ => exact laneCmd_atPwr (fun _ h => State.blockLock_keeps C _ _ h) hs
  | lockLoss _ _ _ => exact laneCmd_atPwr (fun _ h => State.lockLoss_keeps C _ _ h) hs
  | lossOfSignal _ _ _ => exact laneCmd_atPwr (fun _ h => State.laneLoss_keeps C _ _ _ h) hs
  | signalReturn _ _ _ => exact laneCmd_atPwr (fun _ h => State.signalBack_keeps C _ _ h) hs
  | lineBlockRx _ _ _ _ => exact outP_ite (laneCmd_atPwr (fun _ h => State.lineBlock_keeps C _ _ _ h) hs) outP_fault
  | fillRx _ _ _ _ _ => exact laneCmd_atPwr (fun _ h => State.fillRx_keeps C _ _ _ _ h) hs
  | helloTx _ _ _ => exact laneCmd_atPwr (fun _ h => State.helloTx_keeps C _ _ h) hs
  | helloRx _ _ _ _ => exact laneCmd_atPwr (fun _ h => State.helloRx_keeps C _ _ _ h) hs
  | revSwitch _ _ _ => exact laneCmd_atPwr (fun _ h => State.revSwitch_keeps C _ _ h) hs
  | helloTimeout _ _ _ => exact laneCmd_atPwr (fun _ h => State.helloTimeout_keeps C _ _ h) hs
  | trainRx _ _ _ _ => exact laneCmd_atPwr (fun _ h => State.trainRx_keeps C _ _ _ h) hs
  | rxReady _ _ _ => exact laneCmd_atPwr (fun _ h => State.rxReady_keeps C _ _ h) hs
  | trainTimeout _ _ _ => exact laneCmd_atPwr (fun _ h => State.trainTimeout_keeps C _ _ h) hs
  | compatSweepStep _ _ _ _ _ => exact laneCmd_atPwr (fun _ h => State.sweepStep_keeps C _ _ _ _ h) hs
  | alignTx _ _ => exact linkCmd_atPwr (fun _ h => State.alignTx_keeps C _ h) hs
  | alignRx _ _ _ _ _ => exact linkCmd_atPwr (fun _ h => keeps_when (fun _ h => State.alignRx_keeps C _ _ _ _ h) h) hs
  | backoffDone _ _ _ => exact laneCmd_atPwr (fun _ h => State.backoffDone_keeps C _ _ h) hs
  | frameTx _ _ => exact linkCmd_atPwr (fun _ h => State.warmSettle_moves M (State.frameTx_keeps C _ h)) hs
  | frameRx _ _ _ => exact outP_ite (linkCmd_atPwr (fun _ h => State.frameRx_keeps C _ _ h) hs) outP_fault
  | ackRx _ _ _ => exact linkCmd_atPwr (fun _ h => keeps_when (fun _ h => State.lnkAck_keeps C _ _ h) h) hs
  | nakRx _ _ _ => exact linkCmd_atPwr (fun _ h => State.nakRx_keeps C _ _ h) hs
  | ackTx _ _ => exact linkCmd_atPwr (fun _ h => State.ackTx_keeps C _ h) hs
  | replayTimeout _ _ => exact linkCmd_atPwr (fun _ h => State.replayTimeout_keeps C _ h) hs
  | heartTx _ _ => exact linkCmd_atPwr (fun _ h => State.heartTx_keeps C _ h) hs
  | heartRx _ _ _ => exact linkCmd_atPwr (fun _ h => State.heartRx_keeps C _ _ h) hs
  | silent _ _ => exact linkCmd_atPwr (fun _ h => State.silent_keeps C _ h) hs
  | trigResend _ _ => exact runOn_atPwr (fun _ h => State.trigResend_keeps C _ h) hs
  | restripeRx _ _ _ _ => exact linkCmd_atPwr (fun _ h => keeps_when (fun _ h => State.restripeRx_keeps C _ _ _ h) h) hs
  | laneRejoin _ _ => exact linkCmd_atPwr (fun _ h => State.laneRejoin_keeps C _ h) hs
  | portAbort _ _ => exact linkCmd_atPwr (fun _ h => State.portAbort_keeps C _ h) hs
  | retrain _ _ _ => exact linkCmd_atPwr (fun _ h => State.retrain_keeps C _ _ h) hs
  | enumRx _ _ _ _ _ _ _ => exact treRx_atPwr (fun _ h => State.enumRx_keeps C _ _ _ _ _ _ h) hs
  | enumReplyRx _ _ _ _ _ _ _ _ => exact treRx_atPwr (fun _ h => State.enumReplyRx_keeps C _ _ _ _ _ _ _ h) hs
  | enumReplyTimeout _ => exact runOn_atPwr (fun _ h => State.replyTimeout_keeps C h) hs
  | enumWaitTimeout _ => exact runOn_atPwr (fun _ h => State.enumWait_keeps C h) hs
  | enumStart _ => exact runOn_atPwr (fun _ h => State.enumStart_keeps C h) hs
  | claimRx _ _ _ => exact treRx_atPwr (fun _ h => State.claimRx_keeps C _ _ h) hs
  | claimAckRx _ _ _ _ _ => exact treRx_atPwr (fun _ h => State.claimAckRx_keeps C _ _ _ _ h) hs
  | lostRx _ _ _ => exact treRx_atPwr (fun _ h => State.lostRx_keeps C _ _ h) hs
  | lostTimeout _ => exact runOn_atPwr (fun _ h => State.lostTimeout_keeps C h) hs
  | demoteRx _ _ _ => exact treRx_atPwr (fun _ h => State.demoteRx_keeps C _ _ h) hs
  | stbyOkRx _ _ _ _ => exact treRx_atPwr (fun _ h => State.stbyRx_keeps C _ _ _ h) hs
  | horizonRx _ _ _ _ _ _ => exact outP_ite (treRx_atPwr (fun _ h => State.horizonRx_keeps C _ _ _ _ _ h) hs) outP_fault
  | mergeHorizonAdvance _ =>
    exact runOn_atPwr (fun _ h => State.treDrained_keeps C (State.horizonAdvance_keeps C (State.rxPumps_keeps C h))) hs
  | mergeGiveUp _ _ => exact runOn_atPwr (fun _ h => State.giveUp_keeps C _ h) hs
  | heldDelivery _ _ => exact treRx_atPwr (fun _ h => State.heldDelivery_keeps C _ h) hs
  | confirmTx _ _ => exact treRx_atPwr (fun _ h => State.confirmTx_keeps C _ h) hs
  | confirmRx _ _ _ => exact treRx_atPwr (fun _ h => State.confirmRx_keeps C _ _ h) hs
  | topoRx _ _ _ _ _ => exact treRx_atPwr (fun _ h => State.topoRx_keeps C _ _ _ _ h) hs
  | featsetRx _ _ _ _ => exact treRx_atPwr (fun _ h => State.featRx_keeps C _ _ h) hs
  | claimReq _ _ _ => exact runOn_atPwr (fun _ h => keeps_ite (State.claimReq_keeps C _ h) h) hs
  | roleSwWrite _ _ => exact runOn_atPwr (fun _ h => State.roleSw_keeps C _ h) hs
  | relayRequestRx _ _ _ =>
    exact outP_ite outP_fault (treRx_atPwr (fun _ h => keeps_when (fun _ h => State.relayRx_moves M _ h) h) hs)
  | relayReplyRx _ _ _ =>
    exact treRx_atPwr (fun _ h => keeps_when (fun _ h => State.warmSettle_moves M (State.relayGather_keeps C _ h)) h) hs
  | relayTimeout _ _ =>
    exact runOn_atPwr (fun _ h => keeps_when (fun _ h => State.warmSettle_moves M (State.relayTimeout_keeps C _ h)) h) hs
  | ethLinkUp _ => exact runOn_atPwr (fun _ h => keeps_when (fun _ h => State.linkUpEth_keeps C h) h) hs
  | ethLinkDown _ => exact runOn_atPwr (fun _ h => State.wrB_keeps C _ _ _ h) hs
  | ethFrameRx _ _ => exact runOn_atPwr (fun _ h => State.ethFrameRx_keeps C _ h) hs
  | arpRx _ _ _ _ _ => exact runOn_atPwr (fun _ h => State.arpRx_keeps C _ _ _ _ h) hs
  | arpTimeout _ _ => exact runOn_atPwr (fun _ h => State.arpTimeout_keeps C _ h) hs
  | arpRefresh _ _ => exact runOn_atPwr (fun _ h => State.arpRefresh_keeps C _ h) hs
  | qpResolveRetry _ _ => exact runOn_atPwr (fun _ h => State.resolveRetry_keeps C _ h) hs
  | dhcpRx _ _ => exact runOn_atPwr (fun _ h => State.dhcpRx_keeps C _ h) hs
  | dhcpRenew _ => exact runOn_atPwr (fun _ h => keeps_when (fun _ h => State.renew_keeps C _ h) h) hs
  | dhcpRebind _ => exact runOn_atPwr (fun _ h => keeps_when (fun _ h => State.renew_keeps C _ h) h) hs
  | dhcpLeaseExpire _ =>
    exact runOn_atPwr (fun _ h => keeps_when (fun _ h => State.solicit_keeps C (State.dropIp_keeps C h)) h) hs
  | icmpEchoRx _ _ _ => exact runOn_atPwr (fun _ h => State.icmpRx_keeps C _ _ h) hs
  | pfcFrameRx _ _ _ => exact runOn_atPwr (fun _ h => State.pfcRx_keeps C _ _ h) hs
  | pfcPauseEnd _ => exact runOn_atPwr (fun _ h => State.pfcEnd_keeps C h) hs
  | roceMessageTx _ _ => exact runOn_atPwr (fun _ h => State.messageTx_keeps C _ h) hs
  | roceAckRx _ _ _ => exact runOn_atPwr (fun _ h => State.ackRx_keeps C _ _ h) hs
  | roceNakRx _ _ _ _ => exact runOn_atPwr (fun _ h => State.roceNak_keeps C _ _ _ h) hs
  | ackTmo _ _ => exact runOn_atPwr (fun _ h => State.ackTmo_keeps C _ h) hs
  | rnrWaitEnd _ _ => exact runOn_atPwr (fun _ h => State.rnrEnd_keeps C _ h) hs
  | cnpRx _ _ => exact runOn_atPwr (fun _ h => State.cnpRx_keeps C _ h) hs
  | rateRecovery _ _ => exact runOn_atPwr (fun _ h => State.rateUp_keeps C _ h) hs
  | qpCiWrite _ _ _ => exact runOn_atPwr (fun _ h => State.ciWrite_keeps C _ _ h) hs
  | qpAbort _ _ => exact runOn_atPwr (fun _ h => State.qpAbort_keeps C _ h) hs
  | openReq _ m _ _ =>
    refine thbCmd_atPwr (fun _ h => ?_) hs
    have ht := State.thbTake_keeps C m h
    exact keeps_ite (State.openMsg_keeps C _ _ _ ht) (State.authFail_keeps C ht)
  | request _ m _ _ _ =>
    refine thbCmd_atPwr (fun _ h => ?_) hs
    have ht := State.thbTake_keeps C m h
    dsimp only
    split
    · exact State.requestMsg_moves M _ _ _ _ ht
    · exact State.authFail_keeps C ht
  | closeReq _ m =>
    refine thbCmd_atPwr (fun _ h => ?_) hs
    have ht := State.thbTake_keeps C m h
    dsimp only
    split
    · exact atPwr_out _ (State.sessClose_keeps C _ ht)
    · exact State.authFail_keeps C ht
  | sessionIdle _ _ =>
    refine runOn_atPwr (fun _ h => ?_) hs
    split
    · exact keeps_ite (State.sessClose_keeps C _ h) h
    · exact h
  | keyWrite _ _ _ _ => exact runPoke_moves M hs
  | keyLevelWrite _ _ _ _ => exact runPoke_moves M hs
  | keyRevoke _ _ _ => exact runPoke_moves M hs
  | keyClear _ _ => exact runPoke_moves M hs
  | provisionEnChange _ _ => exact runOn_atPwr (fun _ h => State.provision_keeps C _ h) hs
  | fwBegin _ _ => exact runOn_atPwr (fun _ h => State.fwBegin_keeps C _ h) hs
  | fwEraseDone _ _ => exact runOn_atPwr (fun _ h => State.fwErased_keeps C _ h) hs
  | fwVerify _ _ => exact runOn_atPwr (fun _ h => State.fwVerify_keeps C _ h) hs
  | fwVerifyDone _ _ => exact runOn_atPwr (fun _ h => State.fwVerified_keeps C _ h) hs
  | fwAbort _ _ => exact runOn_atPwr (fun _ h => State.fwAbort_keeps C _ h) hs
  | hkaScan _ _ => exact runOn_atPwr (fun _ h => State.hkaScan_keeps C _ h) hs
  | rtdReversal _ => exact runOn_atPwr (fun _ h => State.rtdReversal_keeps C h) hs
  | rtdPeriodEnd _ => exact runOn_atPwr (fun _ h => State.rtdPeriodEnd_keeps C h) hs
  | rtdMonitor _ _ => exact runOn_atPwr (fun _ h => State.rtdMonitor_keeps C _ h) hs
  | calReq _ => exact runOn_atPwr (fun _ h => State.calReq_keeps C h) hs
  | hkaCalPeriodic _ => exact runOn_atPwr (fun _ h => State.calPeriodic_keeps C h) hs
  | hkaCalDone _ _ => exact runOn_atPwr (fun _ h => State.calDone_keeps C _ h) hs
  | injReq _ => exact runOn_atPwr (fun _ h => State.injReq_keeps C h) hs
  | hkaInjDone _ _ => exact runOn_atPwr (fun _ h => State.injDone_keeps C _ h) hs
  | tecPeriodStart _ => exact runOn_atPwr (fun _ h => State.tecStart_keeps C h) hs
  | faultTake _ => exact runOn_atPwr (fun _ h => State.faultTake_moves M h) hs
  | shadowExpiry _ => exact runOn_atPwr (fun _ h => State.shadowExpiry_keeps C h) hs
  | ackReal _ _ => exact runOn_atPwr (fun _ h => State.ackMask_keeps C _ _ h) hs
  | ackInj _ _ => exact runOn_atPwr (fun _ h => State.ackMask_keeps C _ _ h) hs
  | clrReal _ _ _ => exact runOn_atPwr (fun _ h => State.clrMask_keeps C _ _ _ h) hs
  | clrInj _ _ _ => exact runOn_atPwr (fun _ h => State.clrMask_keeps C _ _ _ h) hs
  | injGo _ => exact runOn_atPwr (fun _ h => State.injGo_keeps C h) hs
  | voterMismatch _ _ =>
    exact runOn_atPwr (fun _ h => keeps_on (fun _ h => State.warmSettle_moves M (State.voterMismatch_moves M _ h)) h) hs
  | resyncDone _ _ => exact runOn_atPwr (fun _ h => State.resyncDone_keeps C _ h) hs
  | coreRestartDone _ => exact runOn_atPwr (fun _ h => State.coreRestart_keeps C h) hs
  | rstModule _ _ _ => exact runOn_atPwr (fun _ h => State.rstModule_moves M _ _ h) hs
  | blkRst _ _ _ => exact runOn_atPwr (fun _ h => State.blkRst_atPwr _ _ h) hs
  | blockResetRelease _ _ _ _ => exact runOn_atPwr (fun _ h => State.blkRelease_atPwr _ _ _ h) hs
  | fwActivate _ _ => exact runOn_atPwr (fun _ h => State.fwActivate_keeps C _ h) hs
  | fwConfirm _ _ => exact runOn_atPwr (fun _ h => State.fwConfirm_keeps C _ h) hs
  | confirmTmo _ => exact runOn_atPwr (fun _ h => State.confirmTmo_moves M h) hs
  | registerWrite _ _ _ _ => exact runPoke_moves M hs
  | multiwordCapture _ _ _ => exact execMultiwordCapture_moves M hs
  | multiwordCommit _ _ _ _ => exact runPoke_moves M hs
  | revert _ _ _ _ => exact runPoke_moves M hs
  | privMaskWrite _ _ _ _ _ => exact runPoke_moves M hs
  | refInResume _ => exact runOn_atPwr (fun _ h => State.refResume_keeps C h) hs
  | locCoincExpiry _ _ => exact runOn_atPwr (fun _ h => State.trgExpiry_keeps C _ h) hs
  | relockTimeout _ _ _ => exact laneCmd_atPwr (fun _ h => State.relockTimeout_keeps C _ _ h) hs
  | sramScrub _ _ => exact runOn_atPwr (fun _ h => State.sramScrub_keeps C _ h) hs
  | resetReleaseHigh _ _ => exact run_atPwr (fun _ h => State.tryStart_moves M (State.pmrUpd_keeps C _ h)) hs

end Sys2Proof.Machine
end

/-! ### The power state follows the table of transitions (R18) -/

section
namespace Sys2Proof.Machine

open Sys2Proof Safety

set_option Elab.async false

variable {F : Foot} {s : State}

/-! #### The changes of the power state at a boundary (R18, R323) -/

/-- The operation gives a state whose power state is the one before it, or moves it from p to q. -/
def FromTo (p q : Pwr) (s u : State) : Prop := u.pwr = s.pwr ∨ s.pwr = p ∧ u.pwr = q

theorem fromTo_refl {p q : Pwr} : FromTo p q s s := .inl rfl

theorem fromTo_iteB {p q : Pwr} {c : Bool} {u : State} (h : c = true → s.pwr = p ∧ u.pwr = q) :
    FromTo p q s (if c then u else s) := by
  split
  next hc => exact .inr (h hc)
  next => exact fromTo_refl

theorem State.fromTo_standbyEntry : FromTo .ready .standby s s.standbyEntry := by
  unfold State.standbyEntry
  split
  next t _ =>
    refine fromTo_iteB fun hc => ?_
    simp only [Bool.and_eq_true, beq_iff_eq] at hc
    extract_lets k s1 s2 s3
    refine ⟨hc.1.2, ?_⟩
    have h3 : s3.pwr = .standby := State.wrB_keeps (closed_pwr .standby) _ _ _ (State.pwr_setPwr .standby)
    clear_value s3
    exact h3
  next => exact fromTo_refl

theorem State.fromTo_standbyExit : FromTo .standby .ready s s.standbyExit := by
  have C := atPwr_closed (Q := (· = .ready))
  unfold State.standbyExit
  split
  next t _ =>
    refine fromTo_iteB fun hc => ?_
    simp only [Bool.and_eq_true, beq_iff_eq] at hc
    extract_lets s1 _ s2 k s3
    have h1 : AtPwr (· = .ready) s1 := keeps_on (fun _ h => State.lnkResume_keeps C h) (State.pwr_setPwr .ready)
    clear_value s1
    have h2 : AtPwr (· = .ready) s2 := h1
    clear_value s2
    have h3 : AtPwr (· = .ready) s3 := keeps_ite (keeps_each _ (fun _ _ h =>
      State.setEvbR_keeps C _ _ (keeps_on (fun _ h => State.newRec_keeps C _ _ _ _ h) h)) h2) h2
    exact ⟨hc.1.2, State.repairAuto_keeps C h3⟩
  next => exact fromTo_refl

theorem State.fromTo_acquireToReady : FromTo .acquire .ready s s.acquireToReady := by
  refine fromTo_iteB fun hc => ?_
  simp only [Bool.and_eq_true, beq_iff_eq] at hc
  exact ⟨hc.1.2, State.repairAuto_keeps (closed_pwr .ready) (State.pwr_setPwr .ready)⟩

theorem State.fromTo_safeExit : FromTo .safe .ready s s.safeExit := by
  have C := closed_pwr .ready
  unfold State.safeExit
  split
  next t _ =>
    refine fromTo_iteB fun hc => ?_
    simp only [Bool.and_eq_true, beq_iff_eq] at hc
    extract_lets s1 _ s2
    refine ⟨hc.1.2, ?_⟩
    have h1 : s1.pwr = .ready := State.lnkSafeExit_keeps C (State.wrB_keeps C _ _ _ (State.pwr_setPwr .ready))
    clear_value s1
    have h2 : s2.pwr = .ready := State.emit_keeps C _ _ h1
    clear_value s2
    exact keeps_ite (P := fun u => u.pwr = .ready) (State.readyReached_keeps C h2) (State.repairAuto_keeps C h2)
  next => exact fromTo_refl

/-! #### The end of the start (R17, R341) -/

/-- The start after the boot image runs, up to the entry of READY or SAFE. -/
def State.startRun (s : State) (x : StartUp) : State :=
  let s := (s.release [.cab]).cabStart x.trained x.soft
  let s := (s.release [.hka]).hkaStart.calDone x.cal
  let s := (s.release [.tbs]).tbsStart
  let s := (s.release [.sns, .pfe, .tdc, .seq, .evb, .trg, .hst, .acc, .cmp, .que]).maskStart.each (List.finRange 16) (fun r s => s.calRestart r)
  let s := ((s.wr .tre_STRAP_ROLE 0 x.strapRole.toNat).wr .tre_STRAP_POS 0 x.strapPos.toNat).pmrUpd (fun p => {
    p with carrier := x.carrier.map (·.toNat) })
  let s := s.wr .tre_FW_VER 0 (s.slotVer (s.flag .pmr_BOOT_SLOT))
  let s := (((s.release [.lnk, .tre]).treStart).lnkStart.release [.eth]).ethStart
  s.wr .pmr_START_MS 0 ((s.clock - s.pmr.startAt) / msFu)

theorem State.rest_startRun (h : F.may [.pmr, .sns, .pfe, .tdc, .tbs, .seq, .evb, .hst, .accum, .cmp, .que, .cab, .mem, .edc,
    .trg, .lnk, .tre, .hka, .eth, .detected, .held, .free, .out, .events] (lossRegs ++ storeRegs ++ trainRegs ++ areaRegs ++
    [Fld.edc_PPR_SOFT, Fld.eth_ADDR_VALID, Fld.eth_EVQ_LOST, Fld.eth_IP_IN_USE, Fld.eth_QP_STATE, Fld.hka_CAL_BUSY,
    Fld.hka_CAL_FAIL, Fld.hka_CAL_GAIN, Fld.hka_CAL_OFS, Fld.hka_IEXC, Fld.hka_RANGE_GAIN0, Fld.hka_RANGE_GAIN1,
    Fld.hka_RANGE_GAIN2, Fld.lnk_BACKOFF_NOW, Fld.lnk_LANE_LOSS, Fld.lnk_REPLAYS, Fld.lnk_RESTRIPES, Fld.pfe_MASK_IMG_VALID,
    Fld.pmr_CAB_OFFLINE, Fld.pmr_START_MS, Fld.tre_FW_VER, Fld.tre_MODULE_ID, Fld.tre_ROLE, Fld.tre_ROLE_SW,
    Fld.tre_STRAP_POS, Fld.tre_STRAP_ROLE, Fld.tre_TOPO_FAULT])) (hr : ∀ r, F.region r) (x : StartUp) :
    rest F (s.startRun x) = rest F s := by
  simp only [State.startRun, rest_wr .pmr_START_MS h.sub, rest_wr .tre_FW_VER h.sub, rest_wr .tre_STRAP_POS h.sub,
    rest_wr .tre_STRAP_ROLE h.sub, State.rest_hkaStart h.sub, State.rest_lnkStart h.sub, State.rest_ethStart h.sub,
    State.rest_treStart h.sub, State.rest_cabStart h.sub, State.rest_calRestart h.sub hr, State.rest_calDone h.sub,
    State.rest_maskStart h.sub, State.rest_pmrUpd h.sub, State.rest_tbsStart h.sub, State.rest_release h.sub, rest_each,
    implies_true]

/-- A level 4 fault that was taken while the module started makes it enter SAFE and not READY (R17, R322). -/
def State.startEnd (s : State) : State :=
  match s.flt.ents.find? (fun e => e.lvl == 4 && (!e.inj || e.perf)) with
  | some e => s.safeNow e.cls e.unit
  | none => ((s.setPwr .ready).wrB .flt_SAFE_ACT 0 false).readyReached

theorem State.startRest_eq (x : StartUp) : s.startRest x = (s.startRun x).startEnd := by
  unfold State.startRest
  extract_lets s1 s2 s3 s4 s5 s6 s7 s8
  have e : s.startRun x = s8 := rfl
  rw [e]
  rfl

theorem State.pwr_startHead (m : List (SramMac × BitVec 16)) : (s.startHead m).pwr = s.pwr :=
  by
  have h : Keeps [.pwr] [] s (s.startHead m) := State.rest_startHead Foot.but_may m
  exact h.part .pwr

theorem State.pwr_startRest (x : StartUp) : (s.startRest x).pwr =
    if (s.startRun x).flt.ents.any (fun e => e.lvl == 4 && (!e.inj || e.perf)) then .safe else .ready := by
  have C := closed_pwr .ready
  rw [State.startRest_eq]
  unfold State.startEnd
  split
  next e he =>
    rw [State.pwr_safeNow, if_pos (List.any_eq_true.2 ⟨e, List.mem_of_find?_eq_some he, List.find?_some he⟩)]
  next he =>
    rw [if_neg (by simpa [List.any_eq_true] using he)]
    exact State.readyReached_keeps C (State.wrB_keeps C _ _ _ (State.pwr_setPwr .ready))

/-- START_COMPLETE ends START in READY or in SAFE, or leaves or enters START. -/
theorem State.pwr_startComplete (x : StartUp) : (s.startComplete x).pwr = s.pwr ∨ (s.startComplete x).pwr = .start ∨
    s.pwr = .start ∧ ((s.startComplete x).pwr = .ready ∨ (s.startComplete x).pwr = .safe) := by
  by_cases hc : s.pwr = .start ∧ s.pmr.recovery = false ∧ s.pmr.railAt ≤ s.clock
  · obtain ⟨hp, hr, ht⟩ := hc
    rw [State.startComplete_eq x hp hr ht]
    split
    next b trial _ =>
      refine .inr (.inr ⟨hp, ?_⟩)
      rw [State.pwr_startRest]
      split
      · exact .inr rfl
      · exact .inl rfl
    next => exact .inr (.inl (State.pwr_startUp _))
    next =>
      have h : Keeps [.pwr] [] (s.startHead x.march) (s.startHead x.march).recover := State.rest_recover Foot.but_may
      exact .inl ((h.part .pwr).trans (State.pwr_startHead _))
  · rw [State.startComplete_of_not x hc]
    exact .inl rfl

/-! #### The table of transitions -/

/-- Table Architecture-8 (R18). -/
def transitions : List (Pwr × Pwr) :=
  [(.start, .ready), (.start, .safe), (.ready, .standby), (.standby, .ready), (.ready, .acquire), (.acquire, .ready),
    (.ready, .safe), (.acquire, .safe), (.standby, .safe), (.safe, .ready)]

/-- What every command but those of changesPower does with the power state p: it stays, goes down to OFF or START, enters SAFE
from a state that runs, or enters ACQUIRE from READY. -/
def RunMove (p q : Pwr) : Prop :=
  q = p ∨ q = .off ∨ q = .start ∨ (p, q) ∈ [(.ready, .acquire), (.ready, .safe), (.acquire, .safe), (.standby, .safe)]

theorem moves_runMove (p : Pwr) : Moves (RunMove p) where
  off := .inr (.inl rfl)
  start := .inr (.inr (.inl rfl))
  safe q h ho ht := by cases p <;> cases q <;> simp_all [RunMove]
  acquire h := by cases p <;> simp_all [RunMove]

theorem RunMove.transition {p q : Pwr} (h : RunMove p q) : q = p ∨ q = .off ∨ q = .start ∨ (p, q) ∈ transitions := by
  obtain h | h | h | h := h
  · exact .inl h
  · exact .inr (.inl h)
  · exact .inr (.inr (.inl h))
  · refine .inr (.inr (.inr ?_))
    simp only [List.mem_cons, List.not_mem_nil, or_false] at h
    obtain h | h | h | h := h <;> (rw [h]; decide)

theorem FromTo.transition {p q : Pwr} {u : State} (h : FromTo p q s u) (ht : (p, q) ∈ transitions) :
    u.pwr = s.pwr ∨ u.pwr = .off ∨ u.pwr = .start ∨ (s.pwr, u.pwr) ∈ transitions := by
  obtain h | ⟨h, k⟩ := h
  · exact .inl h
  · rw [h, k]
    exact .inr (.inr (.inr ht))

/-- The five commands move the power state along the table. -/
theorem exec_changesPower (c : Instr) (hc : changesPower c = true) {u : State} (hu : exec c s = .next u) :
    u.pwr = s.pwr ∨ u.pwr = .off ∨ u.pwr = .start ∨ (s.pwr, u.pwr) ∈ transitions := by
  have hon {p q : Pwr} {f : State → State} (x : State) (h : FromTo p q x (f x)) : FromTo p q x (x.on .pmr f) :=
    keeps_ite (P := FromTo p q x) h fromTo_refl
  unfold changesPower at hc
  split at hc
  case h_1 t x =>
    cases hu
    have h := (s.at t).pwr_startComplete x
    obtain h | h | ⟨hs, h | h⟩ := h
    · exact .inl h
    · exact .inr (.inr (.inl h))
    · refine .inr (.inr (.inr ?_))
      change (s.pwr, ((s.at t).startComplete x).pwr) ∈ transitions
      rw [h, show s.pwr = .start from hs]
      decide
    · refine .inr (.inr (.inr ?_))
      change (s.pwr, ((s.at t).startComplete x).pwr) ∈ transitions
      rw [h, show s.pwr = .start from hs]
      decide
  case h_2 t => cases hu; exact (hon (s.at t) State.fromTo_standbyEntry).transition (by decide)
  case h_3 t => cases hu; exact (hon (s.at t) State.fromTo_standbyExit).transition (by decide)
  case h_4 t => cases hu; exact (hon (s.at t) State.fromTo_acquireToReady).transition (by decide)
  case h_5 t => cases hu; exact (hon (s.at t) State.fromTo_safeExit).transition (by decide)
  case h_6 => cases hc

end Sys2Proof.Machine
end

open Sys2Proof Sys2Proof.Machine Sys2Proof.Safety in
/-- Settles O50: a command moves the power state as SAFE entry, a commit of a mode word and the resets do, or is one of the five
that carry out a transition of the table on their own. -/
theorem powerStatesFollowTheTable : Obligations.PowerStatesFollowTheTable := by
  intro s u hu
  unfold step at hu
  split at hu
  · cases hu
    exact .inl rfl
  next c l _ =>
    by_cases hc : changesPower c = true
    · exact exec_changesPower (s := { s with pending := l }) c hc hu
    · have hs : AtPwr (RunMove s.pwr) { s with pending := l } := .inl rfl
      exact RunMove.transition ((exec_moves (moves_runMove s.pwr) c hc hs).out u hu)

/-! ### The instants of the ticks (R10) -/

section
namespace Sys2Proof.Machine

open Sys2Proof Safety

set_option Elab.async false

variable {s old : State}

/-! #### The nearest fu, and the loop of acc_fu and acc_rem -/

/-- The rounded quotient lies half a unit above to less than half a unit below the exact one. -/
theorem roundHalfUp_near (a : Int) {b : Nat} (hb : 0 < b) :
    -(b : Int) < 2 * (b * roundHalfUp a b - a) ∧ 2 * (b * roundHalfUp a b - a) ≤ b := by
  have hb' : (0 : Int) < (2 * b : Nat) := by omega
  have hd := Int.mul_ediv_add_emod (2 * a + b) ((2 * b : Nat) : Int)
  have h0 := Int.emod_nonneg (2 * a + b) hb'.ne'
  have h1 := Int.emod_lt_of_pos (2 * a + b) hb'
  have hm : ((2 * b : Nat) : Int) * ((2 * a + b) / (2 * b : Nat)) = 2 * (b * roundHalfUp a b) := by
    unfold roundHalfUp
    push_cast
    ring
  omega

theorem roundHalfUp_natCast (m : Nat) {b : Nat} (hb : 0 < b) :
    roundHalfUp m b = ((if b ≤ 2 * (m % b) then m / b + 1 else m / b : Nat) : Int) := by
  have hr := Nat.mod_lt m hb
  have hm : 2 * m + b = 2 * (m % b) + b + 2 * b * (m / b) := by
    nth_rewrite 1 [← Nat.mod_add_div m b]
    ring
  have hq : (2 * m + b) / (2 * b) = (2 * (m % b) + b) / (2 * b) + m / b := by
    rw [hm, Nat.add_mul_div_left _ _ (by omega)]
  have hN : roundHalfUp m b = (((2 * m + b) / (2 * b) : Nat) : Int) := by
    unfold roundHalfUp
    push_cast
    rfl
  rw [hN, hq]
  split
  next hc =>
    have h1 : (2 * (m % b) + b) / (2 * b) = 1 := Nat.div_eq_of_lt_le (by omega) (by omega)
    omega
  next hc =>
    have h0 : (2 * (m % b) + b) / (2 * b) = 0 := Nat.div_eq_of_lt (by omega)
    omega

/-- One turn adds the period to the quotient and the remainder by den. -/
theorem placeTurn_divMod (p m : Nat) {den : Nat} (hd : 0 < den) :
    placeTurn den (p / den) (p % den) (m / den, m % den) = ((m + p) / den, (m + p) % den) := by
  rw [Nat.add_div hd, Nat.add_mod_eq_ite]
  unfold placeTurn
  split <;> rfl

theorem placeAt_eq (num n : Nat) {den : Nat} (hd : 0 < den) :
    placeAt num den n = (n * (num * 160000000000) / den, n * (num * 160000000000) % den) := by
  induction n with
  | zero => simp [placeAt]
  | succ n ih =>
    unfold placeAt at ih ⊢
    rw [List.range_succ, List.foldl_append, ih, List.foldl_cons, List.foldl_nil, placeTurn_divMod _ _ hd, Nat.succ_mul]

theorem Seg.time_near (g : Seg) (hd : 0 < g.den) (k : Nat) :
    -(g.den : Int) < 2 * (g.den * (g.time k - g.epoch) - ((k : Int) - g.base) * (g.num * 160000000000)) ∧
      2 * (g.den * (g.time k - g.epoch) - ((k : Int) - g.base) * (g.num * 160000000000)) ≤ g.den := by
  have h := roundHalfUp_near (((k : Int) - g.base) * (g.num * secFu : Nat)) hd
  have e : g.time k - g.epoch = roundHalfUp (((k : Int) - g.base) * (g.num * secFu : Nat)) g.den := add_sub_cancel_left _ _
  rw [e]
  exact h

theorem Seg.time_step_near (g : Seg) (hd : 0 < g.den) (k : Nat) :
    -(g.den : Int) ≤ g.den * (g.time (k + 1) - g.time k) - g.num * 160000000000 ∧
      g.den * (g.time (k + 1) - g.time k) - g.num * 160000000000 ≤ g.den := by
  obtain ⟨h0, h1⟩ := g.time_near hd k
  obtain ⟨k0, k1⟩ := g.time_near hd (k + 1)
  push_cast at k0 k1
  constructor <;> linarith

theorem Seg.time_eq_placed (g : Seg) (hd : 0 < g.den) (n : Nat) :
    g.time (g.base + n) = g.epoch + (placedFu g.den (placeAt g.num g.den n) : Nat) := by
  have e : (((g.base + n : Nat) : Int) - g.base) * (g.num * secFu : Nat) = (n * (g.num * 160000000000) : Nat) := by
    unfold secFu
    push_cast
    ring
  unfold Seg.time
  rw [e, roundHalfUp_natCast _ hd, placeAt_eq _ _ hd]
  rfl

/-! #### The schedule a commit begins, and the newest one that has begun (log entry 18) -/

theorem State.segs_tickRegs (num den : Nat) (epoch : Int) (base : Nat) :
    (s.tickRegs num den epoch base).seq.segs = s.seq.segs := by
  simp [State.tickRegs]

theorem State.segs_commitTicks_of_rebases {g : Staged} (k : Nat) (h : old.rebases g = true) :
    (s.commitTicks old g k).seq.segs.head? = some ⟨k, k, old.tickTime k, g.rd .seq_TICK_NUM, g.rd .seq_TICK_DEN⟩ := by
  have hr : old.isRoot = true ∧ old.running = true := by
    simp only [State.rebases, Bool.and_eq_true] at h
    exact h.1
  have hf : old.firstSchedule g = false := by simp [State.firstSchedule, hr.2]
  unfold State.commitTicks
  simp only [hr.1, hf, h, Bool.not_true, Bool.false_eq_true, if_false, if_true, State.segs_tickRegs]
  rfl

theorem segTime_of_first_le {g : Seg} {l : List Seg} {k : Nat} (h : g.first ≤ k) : segTime (g :: l) k = g.time k := by
  cases l with
  | nil => rfl
  | cons x l => exact if_pos h

end Sys2Proof.Machine
end

open Sys2Proof Sys2Proof.Machine Sys2Proof.Safety in
/-- Settles O44: the loop keeps the quotient and the remainder of the exact distance, and an instant is their rounding. -/
theorem ticksStandOnTheNearestFu : Obligations.TicksStandOnTheNearestFu := by
  refine ⟨rfl, rfl, rfl, fun g hd => ⟨g.time_near hd, g.time_step_near hd, g.time_eq_placed hd⟩, ?_, ?_⟩
  · intro s old g k h
    exact State.segs_commitTicks_of_rebases k h
  · intro s g l k hl hk
    unfold State.tickTime
    rw [hl]
    exact segTime_of_first_le hk

/-! ### The clock, the masks and the offsets: what keeps them (R41, R61) -/

section
namespace Sys2Proof.Machine

open Sys2Proof Safety

set_option Elab.async false

/-- What every operation but the writes of the masks and offsets, the hot-pixel actions and a commit in force keeps: the clock, and
MASK_DATA and TDC_OFF in force and in the shadow (R41, R61). -/
def State.anchor (s : State) : Nat × Sp × Sp × Sp × Sp := (s.clock, s.pfe.maskF, s.pfe.maskS, s.tdc.offF, s.tdc.offS)

variable {s u : State}

/-! #### Registers, parts and combinators -/

@[simp] theorem anchor_wr (f : Fld) (i v : Nat) : (s.wr f i v).anchor = s.anchor := by simp [State.anchor]

@[simp] theorem anchor_pmr (x : Pmr) : ({ s with pmr := x } : State).anchor = s.anchor := by rfl
@[simp] theorem anchor_flash (x : Flash) : ({ s with flash := x } : State).anchor = s.anchor := by rfl
@[simp] theorem anchor_sns (x : Sns) : ({ s with sns := x } : State).anchor = s.anchor := by rfl
@[simp] theorem anchor_tbs (x : Tbs) : ({ s with tbs := x } : State).anchor = s.anchor := by rfl
@[simp] theorem anchor_seq (x : Seq) : ({ s with seq := x } : State).anchor = s.anchor := by rfl
@[simp] theorem anchor_evb (x : Evb) : ({ s with evb := x } : State).anchor = s.anchor := by rfl
@[simp] theorem anchor_hst (x : Hst) : ({ s with hst := x } : State).anchor = s.anchor := by rfl
@[simp] theorem anchor_accum (x : Accum) : ({ s with accum := x } : State).anchor = s.anchor := by rfl
@[simp] theorem anchor_cmp (x : Cmp) : ({ s with cmp := x } : State).anchor = s.anchor := by rfl
@[simp] theorem anchor_que (x : Que) : ({ s with que := x } : State).anchor = s.anchor := by rfl
@[simp] theorem anchor_cab (x : Cab) : ({ s with cab := x } : State).anchor = s.anchor := by rfl
@[simp] theorem anchor_edc (x : Edc) : ({ s with edc := x } : State).anchor = s.anchor := by rfl
@[simp] theorem anchor_trg (x : Trg) : ({ s with trg := x } : State).anchor = s.anchor := by rfl
@[simp] theorem anchor_lnk (x : Lnk) : ({ s with lnk := x } : State).anchor = s.anchor := by rfl
@[simp] theorem anchor_tre (x : Tre) : ({ s with tre := x } : State).anchor = s.anchor := by rfl
@[simp] theorem anchor_hka (x : Hka) : ({ s with hka := x } : State).anchor = s.anchor := by rfl
@[simp] theorem anchor_flt (x : Flt) : ({ s with flt := x } : State).anchor = s.anchor := by rfl
@[simp] theorem anchor_eth (x : Eth) : ({ s with eth := x } : State).anchor = s.anchor := by rfl
@[simp] theorem anchor_ctl (x : Ctl) : ({ s with ctl := x } : State).anchor = s.anchor := by rfl
@[simp] theorem anchor_pwr (x : Pwr) : ({ s with pwr := x } : State).anchor = s.anchor := by rfl
@[simp] theorem anchor_held (x : Nat) : ({ s with held := x } : State).anchor = s.anchor := by rfl
@[simp] theorem anchor_free (x : Nat) : ({ s with free := x } : State).anchor = s.anchor := by rfl
@[simp] theorem anchor_detected (x : List Det) : ({ s with detected := x } : State).anchor = s.anchor := by rfl
@[simp] theorem anchor_staged (x : Option Staged) : ({ s with staged := x } : State).anchor = s.anchor := by rfl
@[simp] theorem anchor_out (x : List Out) : ({ s with out := x } : State).anchor = s.anchor := by rfl
@[simp] theorem anchor_evSeq (x : Nat) : ({ s with evSeq := x } : State).anchor = s.anchor := by rfl
@[simp] theorem anchor_evq (x : List EvRec) : ({ s with evq := x } : State).anchor = s.anchor := by rfl
@[simp] theorem anchor_evUp (x : List EvRec) : ({ s with evUp := x } : State).anchor = s.anchor := by rfl
@[simp] theorem anchor_evLost (x : Nat) : ({ s with evLost := x } : State).anchor = s.anchor := by rfl

@[simp] theorem anchor_pfe (x : Pfe) (hf : x.maskF = s.pfe.maskF) (hs : x.maskS = s.pfe.maskS) :
    ({ s with pfe := x } : State).anchor = s.anchor := by
  simp [State.anchor, hf, hs]

@[simp] theorem anchor_tdc (x : Tdc) (hf : x.offF = s.tdc.offF) (hs : x.offS = s.tdc.offS) :
    ({ s with tdc := x } : State).anchor = s.anchor := by
  simp [State.anchor, hf, hs]

@[simp] theorem anchor_ite (c : Prop) [Decidable c] : (if c then s else u).anchor = if c then s.anchor else u.anchor := by
  split <;> rfl

theorem anchor_ite_eq {c : Prop} [Decidable c] {q : Nat × Sp × Sp × Sp × Sp} (hs : s.anchor = q) (hu : u.anchor = q) :
    (if c then s else u).anchor = q := by
  split <;> assumption

theorem anchor_when_at {f : State → State} (hf : (f s).anchor = s.anchor) (c : Bool) : (s.when c f).anchor = s.anchor :=
  anchor_ite_eq hf rfl

@[simp] theorem anchor_when {f : State → State} (hf : ∀ x, (f x).anchor = x.anchor) (c : Bool) :
    (s.when c f).anchor = s.anchor :=
  anchor_when_at (hf s) c

theorem anchor_on_at {f : State → State} (hf : (f s).anchor = s.anchor) (b : Blk) : (s.on b f).anchor = s.anchor :=
  anchor_ite_eq hf rfl

@[simp] theorem anchor_on {f : State → State} (hf : ∀ x, (f x).anchor = x.anchor) (b : Blk) :
    (s.on b f).anchor = s.anchor :=
  anchor_on_at (hf s) b

@[simp] theorem anchor_getD {e : Option State} (he : ∀ u, e = some u → u.anchor = s.anchor) :
    (e.getD s).anchor = s.anchor := by
  cases e with
  | none => rfl
  | some u => exact he u rfl

@[simp] theorem anchor_elim {α : Type} (e : Option α) {f : α → State} (hf : ∀ a, (f a).anchor = s.anchor) :
    (e.elim s f).anchor = s.anchor := by
  cases e with
  | none => rfl
  | some a => exact hf a

@[simp] theorem anchor_foldl {α : Type} {f : State → α → State} (hf : ∀ x a, (f x a).anchor = x.anchor) (l : List α) :
    (l.foldl f s).anchor = s.anchor := by
  induction l generalizing s with
  | nil => rfl
  | cons a l ih => exact ih.trans (hf s a)

@[simp] theorem anchor_each {α : Type} {f : α → State → State} (hf : ∀ a x, (f a x).anchor = x.anchor) (l : List α) :
    (s.each l f).anchor = s.anchor :=
  anchor_foldl (fun x a => hf a x) l

theorem anchor_fst {α : Type} {e : State × α} {x : State} {a : α} (he : e = (x, a)) : x.anchor = e.1.anchor := by
  subst he; rfl

/-! #### Register writes by bits and counts -/

@[simp] theorem State.anchor_wrB (f : Fld) (i : Nat) (b : Bool) : (s.wrB f i b).anchor = s.anchor := anchor_wr f i _

@[simp] theorem State.anchor_bump (f : Fld) (i : Nat) (n : Nat) : (s.bump f i n).anchor = s.anchor := anchor_wr f i _

@[simp] theorem State.anchor_wrBit (f : Fld) (i n : Nat) (b : Bool) : (s.wrBit f i n b).anchor = s.anchor := anchor_wr f i _

@[simp] theorem State.anchor_wrS (f : Fld) (i : Nat) (v : Int) : (s.wrS f i v).anchor = s.anchor := anchor_wr f i _

/-! #### The memories of the regions -/

@[simp] theorem State.anchor_setPfeR {r : Fin 16} (x : PfeR) : (s.setPfeR r x).anchor = s.anchor := by rfl
@[simp] theorem State.anchor_setTdcR {r : Fin 16} (x : TdcR) : (s.setTdcR r x).anchor = s.anchor := by rfl
@[simp] theorem State.anchor_setHstR {r : Fin 16} (x : HstR) : (s.setHstR r x).anchor = s.anchor := by rfl
@[simp] theorem State.anchor_setAccR {r : Fin 16} (x : AccR) : (s.setAccR r x).anchor = s.anchor := by rfl
@[simp] theorem State.anchor_setCmpR {r : Fin 16} (x : CmpR) : (s.setCmpR r x).anchor = s.anchor := by rfl

/-! #### The named operations every block shares -/

@[simp] theorem State.anchor_fresh : s.fresh.anchor = s.anchor := by rfl

@[simp] theorem State.anchor_queueEv (r : EvRec) : (s.queueEv r).anchor = s.anchor := by
  simp only [State.queueEv, State.anchor_bump, anchor_evLost, anchor_evq, anchor_ite, ite_self, eq_self]

@[simp] theorem State.anchor_raiseEv (r : EvRec) : (s.raiseEv r).anchor = s.anchor := by simp [State.raiseEv]

@[simp] theorem State.anchor_emitAs (sev cls flags ty data : ℕ) : (s.emitAs sev cls flags ty data).anchor = s.anchor := by
  simp [State.emitAs]

@[simp] theorem State.anchor_emit (ty data : ℕ) : (s.emit ty data).anchor = s.anchor := by simp [State.emit]

@[simp] theorem State.anchor_detect (cls lvl unit : ℕ) (ev more : Option (ℕ × ℕ)) (par : Bool) :
    (s.detect cls lvl unit ev more par).anchor = s.anchor := by rfl

/-! #### The lines of the record store and their protection -/

@[simp] theorem State.anchor_edcLog (e : EdcLog) : (s.edcLog e).anchor = s.anchor := by rfl

@[simp] theorem State.anchor_poolRegs (c : ℕ) : (s.poolRegs c).anchor = s.anchor := by simp [State.poolRegs]

@[simp] theorem State.anchor_mergePush (o : MergeOp) : (s.mergePush o).anchor = s.anchor := by simp [State.mergePush]

@[simp] theorem State.anchor_mergeBack (p : ℕ) : (s.mergeBack p).anchor = s.anchor := by simp [State.mergeBack]

@[simp] theorem State.anchor_patchLost (p : ℕ) : (s.patchLost p).anchor = s.anchor := by simp [State.patchLost]

@[simp] theorem State.anchor_spareSpan (p : ℕ) : (s.spareSpan p).anchor = s.anchor := by
  unfold State.spareSpan
  dsimp only
  split
  · rfl
  · split
    · rfl
    · simp

@[simp] theorem State.anchor_lineFixed (p n src : ℕ) : (s.lineFixed p n src).anchor = s.anchor := by simp [State.lineFixed]

@[simp] theorem State.anchor_corrected (p n src : ℕ) : (s.corrected p n src).anchor = s.anchor := by simp [State.corrected]

@[simp] theorem State.anchor_poisonNow (p : ℕ) : (s.poisonNow p).anchor = s.anchor := by simp [State.poisonNow]

@[simp] theorem State.anchor_takeBad (t : Take) (q b : ℕ) : (s.takeBad t q b).anchor = s.anchor := by rfl

@[simp] theorem State.anchor_lineBad (p src : ℕ) : (s.lineBad p src).anchor = s.anchor := by simp [State.lineBad]

@[simp] theorem State.anchor_fetchLine (p src : ℕ) : (s.fetchLine p src).1.anchor = s.anchor := by
  unfold State.fetchLine
  split
  · split
    · rfl
    · simp
    · rfl
    · simp

/-! #### CAB -/

@[simp] theorem State.anchor_cabUpd {f : Cab → Cab} : (s.cabUpd f).anchor = s.anchor := by rfl

@[simp] theorem State.anchor_setReel (x : Reel) : (s.setReel x).anchor = s.anchor := by rfl

@[simp] theorem State.anchor_setTake (x : Take) : (s.setTake x).anchor = s.anchor := by rfl

@[simp] theorem State.anchor_dropExt (r : Reel) (q : ℕ) : (s.dropExt r q).anchor = s.anchor := by rfl

@[simp] theorem State.anchor_reelFull (n : ℕ) : (s.reelFull n).anchor = s.anchor := by
  unfold State.reelFull
  split <;> simp

theorem State.anchor_freeNext {r : Reel} {u : State} (he : s.freeNext r = some u) : u.anchor = s.anchor := by
  unfold State.freeNext at he
  split at he
  · cases he
    rfl
  · split at he
    · cases he
    · dsimp only at he
      split at he
      · cases he
      · split at he
        · split at he
          · cases he
            simp
          · cases he
        · cases he
          simp

theorem State.anchor_allocExt {n prod tk : ℕ} {u : State} (he : s.allocExt n prod tk = some u) : u.anchor = s.anchor := by
  unfold State.allocExt at he
  split at he
  · cases he
  · split at he
    · next hx11 =>
      cases he
    · next hx11 =>
      split at he
      · cases he
      · dsimp only at he
        cases he
        simp [State.anchor_freeNext hx11]

@[simp] theorem State.anchor_setSlot (x : Slot) : (s.setSlot x).anchor = s.anchor := by rfl

@[simp] theorem State.anchor_closeExt (n prod : ℕ) : (s.closeExt n prod).anchor = s.anchor := by
  unfold State.closeExt
  split
  · rfl
  · split
    · rfl
    · dsimp only
      split <;> simp

theorem State.anchor_readyExt {n prod tk : ℕ} {start : Bool} {u : State} (he : s.readyExt n prod tk start = some u) :
    u.anchor = s.anchor := by
  unfold State.readyExt at he
  split at he
  · cases he
  · split at he
    · split at he
      · dsimp only at he
        split at he
        · cases he
          simp
        · refine (State.anchor_allocExt he).trans ?_
          simp
      · cases he
        rfl
    · split at he
      · cases he
        rfl
      · exact State.anchor_allocExt he

@[simp] theorem State.anchor_refreshHeader (n q : ℕ) : (s.refreshHeader n q).anchor = s.anchor := by
  unfold State.refreshHeader
  split
  · rfl
  · split
    · simp
    · rfl

theorem State.anchor_cabPut {n prod : ℕ} {pid : PktId} {start : Bool} {bytes : List ℕ} {u : State} {a : ℕ} (he :
  s.cabPut n prod pid start bytes = some (u, a)) :
    u.anchor = s.anchor := by
  unfold State.cabPut at he
  split at he
  · next hx12 =>
    cases he
  · next hx12 =>
    split at he
    · cases he
    · split at he
      · cases he
        simp [State.anchor_readyExt hx12]
      · dsimp only at he
        split at he
        · cases he
          simp [State.anchor_readyExt hx12]
        · cases he
          simp [State.anchor_readyExt hx12]

@[simp] theorem State.anchor_pktLen (pid : PktId) (prod len : ℕ) : (s.pktLen pid prod len).anchor = s.anchor := by rfl

@[simp] theorem State.anchor_readExtLine (r : Reel) (prod q y : ℕ) : (s.readExtLine r prod q y).1.anchor = s.anchor := by
  unfold State.readExtLine
  dsimp only
  split
  · split
    · rfl
    · simp
  · simp

@[simp] theorem State.anchor_readExtLines (r : Reel) (prod q : ℕ) (l : List ℕ) :
    (s.readExtLines r prod q l).1.anchor = s.anchor := by
  induction l generalizing s with
  | nil => rfl
  | cons y l ih =>
    unfold State.readExtLines
    have hy := State.anchor_readExtLine (s := s) r prod q y
    split
    next he => rw [← hy, he]
    next u d he =>
      have hu : u.anchor = s.anchor := by rw [← hy, he]
      split
      next hl => rw [← hu, ← ih (s := u), hl]
      next hl => rw [← hu, ← ih (s := u), hl]

@[simp] theorem State.anchor_readSpan (r : Reel) (prod q off n : ℕ) : (s.readSpan r prod q off n).1.anchor = s.anchor := by
  unfold State.readSpan
  dsimp only
  split
  · next he12 =>
    simp [anchor_fst he12]
  · next he12 =>
    simp [anchor_fst he12]

@[simp] theorem State.anchor_readPkt (p : PktRef) : (s.readPkt p).1.anchor = s.anchor := by
  unfold State.readPkt
  split
  · rfl
  · dsimp only
    split
    · next he11 =>
      simp [anchor_fst he11]
    · next he11 =>
      split
      · next he10 =>
        simp [anchor_fst he10, anchor_fst he11]
      · next he10 =>
        split
        · simp [anchor_fst he10, anchor_fst he11]
        · split
          · simp [anchor_fst he10, anchor_fst he11]
          · split
            · next he7 =>
              simp [anchor_fst he7, anchor_fst he10, anchor_fst he11]
            · next he7 =>
              split
              · next he6 =>
                simp [anchor_fst he6, anchor_fst he7, anchor_fst he10, anchor_fst he11]
              · next he6 =>
                simp [anchor_fst he6, anchor_fst he7, anchor_fst he10, anchor_fst he11]

@[simp] theorem State.anchor_resyncGo (r : Reel) (prod : ℕ) (l : List Ext) : (s.resyncGo r prod l).1.anchor = s.anchor := by
  induction l generalizing s with
  | nil => rfl
  | cons x l ih =>
    unfold State.resyncGo
    split
    next u d he =>
      have hu : u.anchor = s.anchor := by rw [← State.anchor_readExtLine (s := s) r prod x.seq 0, he]
      split
      · exact hu
      · split
        next hl => rw [← hu, ← ih (s := u), hl]

@[simp] theorem State.anchor_resync (p : PktRef) : (s.resync p).1.anchor = s.anchor := by
  unfold State.resync
  split <;> simp

@[simp] theorem State.anchor_lostLen (p : PktRef) : (s.lostLen p).1.anchor = s.anchor := by simp [State.lostLen]

@[simp] theorem State.anchor_deliverPkt (p : PktRef) (tk : Option ℕ) : (s.deliverPkt p tk).1.anchor = s.anchor := by
  unfold State.deliverPkt
  split
  · next he12 =>
    simp [anchor_fst he12]
  · next he12 =>
    simp [anchor_fst he12]
  · next he12 =>
    simp [anchor_fst he12]

@[simp] theorem State.anchor_cmdRes (c : ℕ) : (s.cmdRes c).anchor = s.anchor := by simp [State.cmdRes]

@[simp] theorem State.anchor_scrubPlan : s.scrubPlan.anchor = s.anchor := by rfl

/-! #### The rings in host memory -/

@[simp] theorem State.anchor_setQp (q : Fin 8) (x : Qp) : (s.setQp q x).anchor = s.anchor := by rfl

@[simp] theorem State.anchor_produce (q : Fin 8) (units : ℕ) (isEntry : Bool) :
    (s.produce q units isEntry).anchor = s.anchor := by rfl

@[simp] theorem State.anchor_queueDraft (q : Fin 8) (d : Draft) : (s.queueDraft q d).anchor = s.anchor := by
  simp [State.queueDraft]

theorem State.anchor_addEntry {q : Fin 8} {d : Draft} {ty flags : ℕ} {payload : List ℕ} {e : REnt} {u : State} {a :
  Draft} (he : s.addEntry q d ty flags payload e = some (u, a)) :
    u.anchor = s.anchor := by
  unfold State.addEntry at he
  dsimp only at he
  split at he
  · cases he
  · cases he
    simp

@[simp] theorem State.anchor_addPad (q : Fin 8) (d : Draft) : (s.addPad q d).1.anchor = s.anchor := by rfl

@[simp] theorem State.anchor_padRing (q : Fin 8) (pad : ℕ) : (s.padRing q pad).anchor = s.anchor := by simp [State.padRing]

@[simp] theorem State.anchor_dailyPut (q : Fin 8) (payload : List ℕ) : (s.dailyPut q payload).anchor = s.anchor := by
  unfold State.dailyPut
  dsimp only
  split
  · split
    · simp
    · split
      · simp
      · next he10 =>
        simp [State.anchor_addEntry he10]
  · split
    · simp
    · split
      · simp
      · next he10 =>
        simp [State.anchor_addEntry he10]

@[simp] theorem State.anchor_dailyFrame (r : Fin 16) (src tick epoch : ℕ) (px : Sp) :
    (s.dailyFrame r src tick epoch px).anchor = s.anchor := by
  unfold State.dailyFrame
  split <;> simp

@[simp] theorem State.anchor_daily (r : Fin 16) (src tick epoch : ℕ) (px : Sp) :
    (s.daily r src tick epoch px).anchor = s.anchor := by
  simp only [State.daily, anchor_eth, State.anchor_dailyFrame, anchor_ite, ite_self, eq_self]

/-! #### QUE -/

@[simp] theorem State.anchor_queUpd (f : Que → Que) : (s.queUpd f).anchor = s.anchor := by rfl

@[simp] theorem State.anchor_setItem (x : QItem) : (s.setItem x).anchor = s.anchor := by rfl

@[simp] theorem State.anchor_queRegs : s.queRegs.anchor = s.anchor := by rfl

@[simp] theorem State.anchor_useArea (src : Fin 21) (c : ℕ) (own shared : ℤ) :
    (s.useArea src c own shared).anchor = s.anchor := by rfl

@[simp] theorem State.anchor_ethRelease (x : QItem) : (s.ethRelease x).anchor = s.anchor := by
  unfold State.ethRelease
  split <;> simp

@[simp] theorem State.anchor_holdItem (x : QItem) : (s.holdItem x).anchor = s.anchor := by simp [State.holdItem]

@[simp] theorem State.anchor_holdMark : s.holdMark.anchor = s.anchor := by simp [State.holdMark]

theorem State.anchor_grantMore {x : QItem} {u : State} (he : s.grantMore x = some u) : u.anchor = s.anchor := by
  unfold State.grantMore at he
  obtain ⟨⟨v12, b12⟩, hv12, he⟩ := Option.map_eq_some_iff.1 he
  cases he
  simp

@[simp] theorem State.anchor_grantUpTo (i n : ℕ) : (s.grantUpTo i n).anchor = s.anchor := by
  unfold State.grantUpTo
  refine anchor_foldl (fun x _ => ?_) _
  split
  · rfl
  · split
    · exact anchor_getD (fun _ => State.anchor_grantMore)
    · rfl

@[simp] theorem State.anchor_freeWords (x : QItem) : (s.freeWords x).anchor = s.anchor := by simp [State.freeWords]

@[simp] theorem State.anchor_sweep : s.sweep.anchor = s.anchor := by simp [State.sweep]

@[simp] theorem State.anchor_gapEnd (r : Reel) (p : ℕ) : (s.gapEnd r p).anchor = s.anchor := by
  unfold State.gapEnd
  split <;> simp

@[simp] theorem State.anchor_gapNote (n p k : ℕ) : (s.gapNote n p k).anchor = s.anchor := by
  unfold State.gapNote
  dsimp only
  split
  · split
    · simp
    · rfl
  · simp
    split
    · simp
    · rfl

@[simp] theorem State.anchor_reelDisc (r n : ℕ) : (s.reelDisc r n).anchor = s.anchor := by
  unfold State.reelDisc
  split <;> simp

@[simp] theorem State.anchor_discardItem (x : QItem) : (s.discardItem x).anchor = s.anchor := by simp [State.discardItem]

@[simp] theorem State.anchor_slotBad (prod reel k : ℕ) : (s.slotBad prod reel k).anchor = s.anchor := by
  unfold State.slotBad
  split <;> simp

@[simp] theorem State.anchor_wholeTaken (i : ℕ) : (s.wholeTaken i).anchor = s.anchor := by
  unfold State.wholeTaken
  split <;> simp

@[simp] theorem State.anchor_turnOver (x : QItem) (w : FWord) (k : ℕ) : (s.turnOver x w k).anchor = s.anchor := by
  simp [State.turnOver]

theorem State.anchor_takeBytes {x : QItem} {w : FWord} {u : State} (he : s.takeBytes x w = some u) : u.anchor = s.anchor := by
  unfold State.takeBytes at he
  split at he
  · cases he
    simp
  · split at he
    · dsimp only at he
      split at he
      · cases he
        simp
      · cases he
    · next hx11 =>
      cases he
    · next hx11 =>
      dsimp only at he
      cases he
      simp
      split <;> simp [State.anchor_cabPut hx11]

theorem State.anchor_takeWord {x : QItem} {u : State} (he : s.takeWord x = some u) : u.anchor = s.anchor := by
  unfold State.takeWord at he
  split at he
  · cases he
  · split at he
    · exact State.anchor_takeBytes he
    · split at he
      · cases he
      · cases he
        simp

theorem State.anchor_pullOne {u : State} (he : s.pullOne = some u) : u.anchor = s.anchor := by
  unfold State.pullOne at he
  obtain ⟨x, _, hx⟩ := List.exists_of_findSome?_eq_some he
  exact State.anchor_takeWord hx

@[simp] theorem State.anchor_pullN (n : ℕ) : (s.pullN n).anchor = s.anchor := by
  induction n generalizing s with
  | zero => rfl
  | succ n ih =>
    unfold State.pullN
    split
    · rfl
    next he => exact ih.trans (State.anchor_pullOne he)

@[simp] theorem State.anchor_cabPull : s.cabPull.anchor = s.anchor := by simp [State.cabPull]

@[simp] theorem State.anchor_addItem (x : QItem) : (s.addItem x).anchor = s.anchor := by rfl

@[simp] theorem State.anchor_layItem (x : QItem) (b : List ℕ) : (s.layItem x b).anchor = s.anchor := by simp [State.layItem]

@[simp] theorem State.anchor_shutItem (i : ℕ) : (s.shutItem i).anchor = s.anchor := by
  unfold State.shutItem
  split <;> simp

theorem State.anchor_openItem {src cls : ℕ} {pid : PktId} {prod reel : ℕ} {up eth : Bool} {head : List ℕ} {u : State}
  {a : ℕ} (he : s.openItem src cls pid prod reel up eth head = some (u, a)) :
    u.anchor = s.anchor := by
  unfold State.openItem at he
  split at he
  · cases he
  · dsimp only at he
    cases he
    simp

@[simp] theorem State.anchor_ethMatch (i : ℕ) : (s.ethMatch i).anchor = s.anchor := by
  unfold State.ethMatch
  split <;> simp

@[simp] theorem State.anchor_writeItem (i : ℕ) (bytes : List ℕ) : (s.writeItem i bytes).anchor = s.anchor := by
  unfold State.writeItem
  split <;> simp

@[simp] theorem State.anchor_closeItem (i : ℕ) (data : List ℕ) (trunc : Bool) :
    (s.closeItem i data trunc).anchor = s.anchor := by
  unfold State.closeItem
  split <;> simp

/-! #### TDC -/

@[simp] theorem State.anchor_setGroup {r : Fin 16} (g : Fin 16) (x : TdcGroup) : (s.setGroup r g x).anchor = s.anchor := by
  rfl

@[simp] theorem State.anchor_setAux (c : Fin 4) (x : AuxCh) : (s.setAux c x).anchor = s.anchor := by rfl

@[simp] theorem State.anchor_dropWins {r : Fin 16} : (s.dropWins r).anchor = s.anchor := by rfl

@[simp] theorem State.anchor_dropQueue {r : Fin 16} : (s.dropQueue r).anchor = s.anchor := by rfl

/-! #### CMP -/

@[simp] theorem State.anchor_setEvbR (r : Fin 16) (x : EvbR) : (s.setEvbR r x).anchor = s.anchor := by rfl

@[simp] theorem State.anchor_upRec (r : Fin 16) (k : ℕ) (f : Rec → Rec) : (s.upRec r k f).anchor = s.anchor := by rfl

@[simp] theorem State.anchor_headFlag (r : Fin 16) (k b : ℕ) : (s.headFlag r k b).anchor = s.anchor := by rfl

@[simp] theorem State.anchor_ringUpd (r : Fin 16) (f : List RingW → List RingW) : (s.ringUpd r f).anchor = s.anchor := by rfl

@[simp] theorem State.anchor_ringPut (r : Fin 16) (w ref : ℕ) (pid : PktId) : (s.ringPut r w ref pid).anchor = s.anchor := by
  rfl

@[simp] theorem State.anchor_ringDrop (r : Fin 16) (f : ℕ → Bool) : (s.ringDrop r f).anchor = s.anchor := by rfl

@[simp] theorem State.anchor_setCtx {r : Fin 16} (k : ℕ) (c : Ctx) : (s.setCtx r k c).anchor = s.anchor := by rfl

@[simp] theorem State.anchor_addBytes {f : Fld} {r : ℕ} (n : ℕ) : (s.addBytes f r n).anchor = s.anchor := by
  simp [State.addBytes]

@[simp] theorem State.anchor_cmpDrained {r : Fin 16} : (s.cmpDrained r).anchor = s.anchor := by simp [State.cmpDrained]

@[simp] theorem State.anchor_noteFinal {r : Fin 16} (k : ℕ) : (s.noteFinal r k).anchor = s.anchor := by simp [State.noteFinal]

@[simp] theorem State.anchor_blockStart {r : Fin 16} (k t : ℕ) : (s.blockStart r k t).anchor = s.anchor := by rfl

@[simp] theorem State.anchor_ctxReady {r : Fin 16} (k : ℕ) : (s.ctxReady r k).anchor = s.anchor := by
  unfold State.ctxReady
  split <;> simp

@[simp] theorem State.anchor_blockEnd {r : Fin 16} (k : ℕ) : (s.blockEnd r k).anchor = s.anchor := by simp [State.blockEnd]

@[simp] theorem State.anchor_setOpen {r : Fin 16} (o : Option OpenPkt) : (s.setOpen r o).anchor = s.anchor := by rfl

@[simp] theorem State.anchor_emitChunk {r : Fin 16} : (s.emitChunk r).anchor = s.anchor := by
  unfold State.emitChunk
  split <;> simp

@[simp] theorem State.anchor_unstall {r : Fin 16} : (s.unstall r).anchor = s.anchor := by
  unfold State.unstall
  split <;> simp

@[simp] theorem State.anchor_stall {r : Fin 16} : (s.stall r).anchor = s.anchor := by simp [State.stall]

@[simp] theorem State.anchor_closePkt {r : Fin 16} (flags : ℕ) (trunc final : Bool) :
    (s.closePkt r flags trunc final).anchor = s.anchor := by
  unfold State.closePkt
  dsimp only
  split <;> simp

theorem State.anchor_openPkt {r : Fin 16} {kind tick first flags : ℕ} {zs : Bool} {dyn : Option CodeTab} {todo : List
  CItem} {final : Bool} {u : State} (he : s.openPkt r kind tick first flags zs dyn todo final = some u) :
    u.anchor = s.anchor := by
  unfold State.openPkt at he
  dsimp only at he
  split at he
  · next hx11 =>
    cases he
  · next hx11 =>
    cases he
    simp [State.anchor_openItem hx11]

theorem State.anchor_emptyFinal {r : Fin 16} {kind tick : ℕ} {u : State} (he : s.emptyFinal r kind tick = some u) :
    u.anchor = s.anchor := by
  unfold State.emptyFinal at he
  obtain ⟨v12, hv12, he⟩ := Option.map_eq_some_iff.1 he
  cases he
  simp [State.anchor_openPkt hv12]

@[simp] theorem State.anchor_jobEnd {r : Fin 16} (k : ℕ) : (s.jobEnd r k).anchor = s.anchor := by simp [State.jobEnd]

@[simp] theorem State.anchor_openJob {r : Fin 16} : (s.openJob r).anchor = s.anchor := by
  unfold State.openJob
  dsimp only
  split
  · rfl
  · split
    · split
      · next he10 =>
        simp [State.anchor_emptyFinal he10]
      · simp
    · split
      · simp
      · next he10 =>
        simp [State.anchor_openPkt he10]

@[simp] theorem State.anchor_askRoom (o : OpenPkt) (want : List CItem) : (s.askRoom o want).1.anchor = s.anchor := by
  simp [State.askRoom]

@[simp] theorem State.anchor_admitFrame {r : Fin 16} (o : OpenPkt) : (s.admitFrame r o).anchor = s.anchor := by
  simp [State.admitFrame]

@[simp] theorem State.anchor_evBlk {r : Fin 16} (k : ℕ) : (s.evBlk r k).anchor = s.anchor := by simp [State.evBlk]

@[simp] theorem State.anchor_evClose {r : Fin 16} (flags : ℕ) (trunc final : Bool) :
    (s.evClose r flags trunc final).anchor = s.anchor := by simp [State.evClose]

theorem State.anchor_evEnd {r : Fin 16} {k : ℕ} {final : Bool} {u : State} (he : s.evEnd r k final = some u) :
    u.anchor = s.anchor := by
  unfold State.evEnd at he
  dsimp only at he
  split at he
  · cases he
    simp
  · split at he
    · obtain ⟨v9, hv9, he⟩ := Option.map_eq_some_iff.1 he
      cases he
      simp [State.anchor_emptyFinal hv9]
    · cases he
      simp
  · split at he
    · exact State.anchor_emptyFinal he
    · cases he
      rfl

@[simp] theorem State.anchor_evStep {r : Fin 16} : (s.evStep r).1.anchor = s.anchor := by
  unfold State.evStep
  dsimp only
  split
  · rfl
  · split
    · split
      · next he10 =>
        simp [State.anchor_evEnd he10]
      · simp
    · split
      · next he10 =>
        simp [State.anchor_evEnd he10]
      · simp
  · split
    · simp
    · split
      · split
        · next he9 =>
          simp [State.anchor_evEnd he9]
        · simp
      · split
        · split
          · next he8 =>
            simp [State.anchor_openPkt he8]
          · simp
        · split
          · rfl
          · split <;> simp

@[simp] theorem State.anchor_evRun {r : Fin 16} (n : ℕ) : (s.evRun r n).anchor = s.anchor := by
  induction n generalizing s with
  | zero => rfl
  | succ n ih =>
    unfold State.evRun
    have hs := State.anchor_evStep (s := s) (r := r)
    split
    next he => exact ih.trans (by rw [← hs, he])
    next he => rw [← hs, he]

@[simp] theorem State.anchor_accStage {r : Fin 16} : (s.accStage r).anchor = s.anchor := by rfl

@[simp] theorem State.anchor_accCut {r : Fin 16} : (s.accCut r).anchor = s.anchor := by
  unfold State.accCut
  dsimp only
  split
  · simp
  · rfl

@[simp] theorem State.anchor_pump {r : Fin 16} : (s.pump r).anchor = s.anchor := by
  unfold State.pump
  simp
  split
  · simp
  · split
    · simp
    · split <;> simp

@[simp] theorem State.anchor_chunkComplete {r : Fin 16} : (s.chunkComplete r).anchor = s.anchor := by
  unfold State.chunkComplete
  split
  · split
    · rfl
    · dsimp only
      split
      · simp
      · split
        · split <;> simp
        · simp
  · rfl

@[simp] theorem State.anchor_submit {r : Fin 16} (j : Job) : (s.submit r j).anchor = s.anchor := by
  unfold State.submit
  simp
  split
  · split
    · split
      · split
        · split
          · next he8 =>
            simp [State.anchor_evEnd he8]
          · simp
        · simp
      · simp
    · rfl
  · rfl

@[simp] theorem State.anchor_evInput {r : Fin 16} (x : EvIn) : (s.evInput r x).anchor = s.anchor := by simp [State.evInput]

@[simp] theorem State.anchor_dropInq {r : Fin 16} : (s.dropInq r).anchor = s.anchor := by rfl

@[simp] theorem State.anchor_cmpCut {r : Fin 16} : (s.cmpCut r).anchor = s.anchor := by simp [State.cmpCut]

@[simp] theorem State.anchor_encodeAll {r : Fin 16} : (s.encodeAll r).anchor = s.anchor := by simp [State.encodeAll]

@[simp] theorem State.anchor_cmpAbort {r : Fin 16} : (s.cmpAbort r).anchor = s.anchor := by simp [State.cmpAbort]

@[simp] theorem State.anchor_setRp (n : ℕ) (x : RpS) : (s.setRp n x).anchor = s.anchor := by rfl

@[simp] theorem State.anchor_rpStall (n : ℕ) : (s.rpStall n).anchor = s.anchor := by simp [State.rpStall]

@[simp] theorem State.anchor_rpGo (n : ℕ) : (s.rpGo n).anchor = s.anchor := by
  unfold State.rpGo
  dsimp only
  split
  · simp
  · rfl

@[simp] theorem State.anchor_setFront (n : ℕ) (g : RpG) : (s.setFront n g).anchor = s.anchor := by rfl

theorem State.anchor_rpOpen {n : ℕ} {g : RpG} {u : State} (he : s.rpOpen n g = some u) : u.anchor = s.anchor := by
  unfold State.rpOpen at he
  dsimp only at he
  obtain ⟨⟨v11, b11⟩, hv11, he⟩ := Option.map_eq_some_iff.1 he
  cases he
  simp [State.anchor_openItem hv11]

theorem State.anchor_rpMove {n : ℕ} {g : RpG} {i : ℕ} {e : List ℕ} {u : State} (he : s.rpMove n g i e = some u) :
    u.anchor = s.anchor := by
  unfold State.rpMove at he
  dsimp only at he
  split at he
  · split at he
    · cases he
      simp
    · cases he
  · split at he
    · cases he
      simp
    · cases he

@[simp] theorem State.anchor_rpLeave (n : ℕ) (g : RpG) (i : ℕ) (x : RpShut) : (s.rpLeave n g i x).anchor = s.anchor := by
  simp [State.rpLeave]

theorem State.anchor_rpStep {n : ℕ} {u : State} (he : s.rpStep n = some u) : u.anchor = s.anchor := by
  unfold State.rpStep at he
  split at he
  · cases he
  · split at he
    · exact State.anchor_rpOpen he
    · exact State.anchor_rpMove he
    · cases he
      simp
    · cases he

@[simp] theorem State.anchor_rpPump (n k : ℕ) : (s.rpPump n k).anchor = s.anchor := by
  induction k generalizing s with
  | zero => rfl
  | succ f ih =>
    unfold State.rpPump
    split
    next he => exact ih.trans (State.anchor_rpStep he)
    · split
      · exact State.anchor_rpStall _
      · rfl

@[simp] theorem State.anchor_rpRun (n : ℕ) : (s.rpRun n).anchor = s.anchor := by simp [State.rpRun]

@[simp] theorem State.anchor_rpShut (n k : ℕ) (last : Bool) : (s.rpShut n k last).anchor = s.anchor := by rfl

@[simp] theorem State.anchor_rpClose (n k : ℕ) (last : Bool) : (s.rpClose n k last).anchor = s.anchor := by
  simp [State.rpClose]

@[simp] theorem State.anchor_rpGather (n : ℕ) (e : List ℕ) : (s.rpGather n e).anchor = s.anchor := by rfl

@[simp] theorem State.anchor_rpAdd (n : ℕ) (e : List ℕ) : (s.rpAdd n e).anchor = s.anchor := by simp [State.rpAdd]

@[simp] theorem State.anchor_regionRec (r : Fin 16) (b : List ℕ) : (s.regionRec r b).anchor = s.anchor := by
  simp [State.regionRec]

@[simp] theorem State.anchor_moduleRec (b : List ℕ) : (s.moduleRec b).anchor = s.anchor := by simp [State.moduleRec]

@[simp] theorem State.anchor_auxWord (w : ℕ) : (s.auxWord w).anchor = s.anchor := by simp [State.auxWord]

@[simp] theorem State.anchor_auxNext (c : Fin 4) : (s.auxNext c).anchor = s.anchor := by
  unfold State.auxNext
  split <;> simp

@[simp] theorem State.anchor_auxFlush : s.auxFlush.anchor = s.anchor := by simp [State.auxFlush]

/-! #### SNS -/

@[simp] theorem State.anchor_upIn (i : Fin 32) (f : HkaIn → HkaIn) : (s.upIn i f).anchor = s.anchor := by rfl

@[simp] theorem State.anchor_setRamp (r : Fin 16) (x : Option Ramp) : (s.setRamp r x).anchor = s.anchor := by rfl

@[simp] theorem State.anchor_crowbar {r : Fin 16} : (s.crowbar r).anchor = s.anchor := by rfl

/-! #### HKA -/

@[simp] theorem State.anchor_upRtd (c : Fin 4) (f : RtdCh → RtdCh) : (s.upRtd c f).anchor = s.anchor := by rfl

@[simp] theorem State.anchor_hkaStale : s.hkaStale.anchor = s.anchor := by simp [State.hkaStale]

@[simp] theorem State.anchor_crossing (i : ℕ) (high : Bool) (lvl : ℕ) (x : ℤ) :
    (s.crossing i high lvl x).anchor = s.anchor := by simp [State.crossing]

@[simp] theorem State.anchor_check1 (i : Fin 32) (x : ℤ) : (s.check1 i x).anchor = s.anchor := by
  unfold State.check1
  dsimp only
  split <;> simp

@[simp] theorem State.anchor_hkaPublish (i : Fin 32) : (s.hkaPublish i).anchor = s.anchor := by simp [State.hkaPublish]

@[simp] theorem State.anchor_hkaClose : s.hkaClose.anchor = s.anchor := by simp [State.hkaClose]

/-! #### The line of a lane -/

@[simp] theorem State.anchor_lnkUpd (f : Lnk → Lnk) : (s.lnkUpd f).anchor = s.anchor := by rfl

@[simp] theorem State.anchor_setLink (l : Fin 10) (x : LinkSt) : (s.setLink l x).anchor = s.anchor := by rfl

@[simp] theorem State.anchor_setLane (l : Fin 10) (j : Fin 2) (x : Lane) : (s.setLane l j x).anchor = s.anchor := by rfl

@[simp] theorem State.anchor_setLaneSt {l : Fin 10} {j : Fin 2} (st : ℕ) : (s.setLaneSt l j st).anchor = s.anchor := by
  simp [State.setLaneSt]

@[simp] theorem State.anchor_laneBlock (l : Fin 10) (j : Fin 2) (ctl : Bool) (b : List ℕ) :
    (s.laneBlock l j ctl b).anchor = s.anchor  := by simp [State.laneBlock]

@[simp] theorem State.anchor_alignPair (l : Fin 10) (two : Bool) : (s.alignPair l two).anchor = s.anchor := by
  simp [State.alignPair]

@[simp] theorem State.anchor_streamBlock (l : Fin 10) (ctl : Bool) (b : List ℕ) :
    (s.streamBlock l ctl b).anchor = s.anchor := by simp [State.streamBlock]

@[simp] theorem State.anchor_trigBlock (l : Fin 10) (n : ℕ) (b : TBlk) : (s.trigBlock l n b).anchor = s.anchor := by
  simp [State.trigBlock]

/-! #### TBS -/

@[simp] theorem State.anchor_tbsUpd (f : Tbs → Tbs) : (s.tbsUpd f).anchor = s.anchor := by rfl

@[simp] theorem State.anchor_setFreq (x : ℤ) : (s.setFreq x).anchor = s.anchor := by simp [State.setFreq]

@[simp] theorem State.anchor_holdover (k : ℕ) : (s.holdover k).anchor = s.anchor := by simp [State.holdover]

@[simp] theorem State.anchor_srcSwitch (k : ℕ) : (s.srcSwitch k).anchor = s.anchor := by simp [State.srcSwitch]

@[simp] theorem State.anchor_srcSelect : s.srcSelect.anchor = s.anchor := by
  unfold State.srcSelect
  dsimp only
  split
  · simp
  · split
    · simp
    · split
      · rfl
      · split <;> simp

@[simp] theorem State.anchor_qualChanged : s.qualChanged.anchor = s.anchor := by simp [State.qualChanged]

@[simp] theorem State.anchor_setClap (l : Fin 10) (x : ClapSt) : (s.setClap l x).anchor = s.anchor := by rfl

@[simp] theorem State.anchor_clapSel : s.clapSel.anchor = s.anchor := by simp [State.clapSel]

@[simp] theorem State.anchor_clapLinkDown (l : Fin 10) : (s.clapLinkDown l).anchor = s.anchor := by simp [State.clapLinkDown]

/-! #### The frame head of each tick while its figures gather -/

@[simp] theorem State.anchor_newRec (r : Fin 16) (k marks : ℕ) (jumped : Bool) :
    (s.newRec r k marks jumped).anchor = s.anchor := by rfl

/-! #### HST -/

@[simp] theorem State.anchor_gateStop {r : Fin 16} : (s.gateStop r).anchor = s.anchor := by rfl

@[simp] theorem State.anchor_binAdd {r : Fin 16} (key n : ℕ) : (s.binAdd r key n).anchor = s.anchor := by simp [State.binAdd]

@[simp] theorem State.anchor_coalesce {r : Fin 16} (k key : ℕ) : (s.coalesce r k key).anchor = s.anchor := by
  simp [State.coalesce]

@[simp] theorem State.anchor_hstHit {r : Fin 16} (k : ℕ) (w : EvW) : (s.hstHit r k w).anchor = s.anchor := by
  unfold State.hstHit
  dsimp only
  split
  · simp
  · split
    · simp
    · split
      · simp
      · split <;> simp

@[simp] theorem State.anchor_dumpRecord {r : Fin 16} (k flags sat : ℕ) : (s.dumpRecord r k flags sat).anchor = s.anchor := by
  simp [State.dumpRecord]

@[simp] theorem State.anchor_dumpStart {r : Fin 16} (k : ℕ) : (s.dumpStart r k).anchor = s.anchor := by simp [State.dumpStart]

@[simp] theorem State.anchor_dumpSkip {r : Fin 16} (k : ℕ) (lost : Bool) : (s.dumpSkip r k lost).anchor = s.anchor := by
  simp [State.dumpSkip]

@[simp] theorem State.anchor_dumpTurn {r : Fin 16} (k : ℕ) : (s.dumpTurn r k).anchor = s.anchor := by simp [State.dumpTurn]

@[simp] theorem State.anchor_hstClose {r : Fin 16} (k : ℕ) : (s.hstClose r k).anchor = s.anchor := by
  unfold State.hstClose
  dsimp only
  split
  · rfl
  · split <;> simp

@[simp] theorem State.anchor_hstAbort {r : Fin 16} : (s.hstAbort r).anchor = s.anchor := by simp [State.hstAbort]

/-! #### Counter frames on their way to the engines and ACC -/

@[simp] theorem State.anchor_accOutput {r : Fin 16} (f : Frame) (acc : Sp) (sat n : ℕ) (cut : Bool) :
    (s.accOutput r f acc sat n cut).anchor = s.anchor := by simp [State.accOutput]

@[simp] theorem State.anchor_accFrame {r : Fin 16} (f : Frame) (px : Sp) (n : ℕ) (cut : Bool) :
    (s.accFrame r f px n cut).anchor = s.anchor := by simp [State.accFrame]

@[simp] theorem State.anchor_accJumped {r : Fin 16} (f : Frame) : (s.accJumped r f).anchor = s.anchor := by
  simp [State.accJumped]

@[simp] theorem State.anchor_emptyEnds {r : Fin 16} (f : Frame) : (s.emptyEnds r f).anchor = s.anchor := by
  simp [State.emptyEnds]

@[simp] theorem State.anchor_lostFrame {r : Fin 16} (f : Frame) : (s.lostFrame r f).anchor = s.anchor := by
  simp [State.lostFrame]

@[simp] theorem State.anchor_frameOut {r : Fin 16} (f : Frame) (n : ℕ) (cut : Bool) :
    (s.frameOut r f n cut).anchor = s.anchor := by simp [State.frameOut]

@[simp] theorem State.anchor_flushBehind {r : Fin 16} : (s.flushBehind r).anchor = s.anchor := by
  unfold State.flushBehind
  dsimp only
  split
  · rfl
  · simp

@[simp] theorem State.anchor_feFinal {r : Fin 16} : (s.feFinal r).anchor = s.anchor := by simp [State.feFinal]

@[simp] theorem State.anchor_cutEnds {r : Fin 16} (f : Frame) : (s.cutEnds r f).anchor = s.anchor := by simp [State.cutEnds]

@[simp] theorem State.anchor_cutTransfer {r : Fin 16} : (s.cutTransfer r).anchor = s.anchor := by
  unfold State.cutTransfer
  dsimp only
  split
  · rfl
  · simp

@[simp] theorem State.anchor_frameAbort {r : Fin 16} : (s.frameAbort r).anchor = s.anchor := by simp [State.frameAbort]

/-! #### EVB -/

@[simp] theorem State.anchor_frontUp (r : Fin 16) : (s.frontUp r).anchor = s.anchor := by
  unfold State.frontUp
  dsimp only
  split
  · rfl
  · split <;> simp

@[simp] theorem State.anchor_winWord (r : Fin 16) (w : EvW) (word ref : ℕ) (stamp : Bool) :
    (s.winWord r w word ref stamp).anchor = s.anchor := by rfl

theorem State.anchor_relWord {r : Fin 16} {w : EvW} {early : Bool} {u : State} (he : s.relWord r w early = some u) :
    u.anchor = s.anchor := by
  unfold State.relWord at he
  extract_lets x pop kt m late ref word s1 e s2 s3 s4 s5 s6 at he
  have h1 : s1.anchor = s.anchor := State.anchor_setEvbR _ _
  have h2 : s2.anchor = s1.anchor := by simp [s2]
  have h3 : s3.anchor = s2.anchor := by simp [s2, s3]
  have h4 : s4.anchor = s3.anchor := by simp [s2, s3, s4]
  have h5 : s5.anchor = s4.anchor := by simp [s2, s3, s4, s5]
  have h6 : s6.anchor = s5.anchor := by simp [s2, s3, s4, s5, s6]
  clear_value s6 s5 s4 s3 s2 s1
  split at he
  · cases he
    exact State.anchor_setEvbR _ _
  · split at he
    · cases he
    · cases he
      refine Eq.trans ?_ (h6.trans (h5.trans (h4.trans (h3.trans (h2.trans h1)))))
      simp

@[simp] theorem State.anchor_closeTick {r : Fin 16} (k : ℕ) : (s.closeTick r k).anchor = s.anchor := by simp [State.closeTick]

@[simp] theorem State.anchor_closeUpTo {r : Fin 16} (k : ℕ) : (s.closeUpTo r k).anchor = s.anchor := by simp [State.closeUpTo]

theorem State.anchor_relDue {r : Fin 16} {u : State} (he : s.relDue r = some u) : u.anchor = s.anchor := by
  unfold State.relDue at he
  dsimp only at he
  split at he
  · cases he
  · split at he
    · refine (State.anchor_relWord he).trans ?_
      simp
    · cases he

@[simp] theorem State.anchor_evbDrop {r : Fin 16} : (s.evbDrop r).anchor = s.anchor := by rfl

/-! #### TRG -/

@[simp] theorem State.anchor_trgUpd (f : Trg → Trg) : (s.trgUpd f).anchor = s.anchor := by rfl

@[simp] theorem State.anchor_trigOut (l : Fin 10) (n : ℕ) (b : TBlk) : (s.trigOut l n b).anchor = s.anchor := by
  simp [State.trigOut]

@[simp] theorem State.anchor_setTrigLink (l : Fin 10) (x : TrigLink) : (s.setTrigLink l x).anchor = s.anchor := by rfl

@[simp] theorem State.anchor_trigSend (l : Fin 10) (b : TBlk) : (s.trigSend l b).anchor = s.anchor := by simp [State.trigSend]

@[simp] theorem State.anchor_trigPump (l : Fin 10) : (s.trigPump l).anchor = s.anchor := by simp [State.trigPump]

@[simp] theorem State.anchor_trigLinkUp (l : Fin 10) : (s.trigLinkUp l).anchor = s.anchor := by simp [State.trigLinkUp]

@[simp] theorem State.anchor_pulseAt (o : Fin 2) (x known : ℤ) (ofs : Bool) :
    (s.pulseAt o x known ofs).anchor = s.anchor := by simp [State.pulseAt]

@[simp] theorem State.anchor_trigSource (src : ℕ) (x known : ℤ) : (s.trigSource src x known).anchor = s.anchor := by
  simp [State.trigSource]

@[simp] theorem State.anchor_winSlate (r : Fin 16) (v : WinTake) (trunc : Bool) :
    (s.winSlate r v trunc).anchor = s.anchor := by simp [State.winSlate]

@[simp] theorem State.anchor_winTakeClose (n : ℕ) (trunc : Bool) : (s.winTakeClose n trunc).anchor = s.anchor := by
  unfold State.winTakeClose
  split
  · split
    · simp
    · rfl
  · rfl

@[simp] theorem State.anchor_winDrained {r : Fin 16} : (s.winDrained r).anchor = s.anchor := by simp [State.winDrained]

@[simp] theorem State.anchor_trgFinal : s.trgFinal.anchor = s.anchor := by simp [State.trgFinal]

@[simp] theorem State.anchor_winAbort (r : Fin 16) : (s.winAbort r).anchor = s.anchor := by simp [State.winAbort]

/-! #### TRE -/

@[simp] theorem State.anchor_treUpd (f : Tre → Tre) : (s.treUpd f).anchor = s.anchor := by rfl

@[simp] theorem State.anchor_setTreLink (l : Fin 10) (x : TreLink) : (s.setTreLink l x).anchor = s.anchor := by rfl

@[simp] theorem State.anchor_setRole (l : Fin 10) (r : ℕ) : (s.setRole l r).anchor = s.anchor := by rfl

@[simp] theorem State.anchor_topoFault (lvl unit : ℕ) : (s.topoFault lvl unit).anchor = s.anchor := by rfl

@[simp] theorem State.anchor_putV0 (l : Fin 10) (m : V0) : (s.putV0 l m).anchor = s.anchor := by rfl

@[simp] theorem State.anchor_sendV0 (l : Fin 10) (m : V0) : (s.sendV0 l m).anchor = s.anchor := by simp [State.sendV0]

@[simp] theorem State.anchor_pump0 : s.pump0.anchor = s.anchor := by simp [State.pump0]

@[simp] theorem State.anchor_sendUp (m : V0) : (s.sendUp m).anchor = s.anchor := by
  unfold State.sendUp
  split <;> simp

@[simp] theorem State.anchor_sendDown (m : V0) : (s.sendDown m).anchor = s.anchor := by simp [State.sendDown]

@[simp] theorem State.anchor_sendEnum (l : Fin 10) (assign : ℕ) : (s.sendEnum l assign).anchor = s.anchor := by
  simp [State.sendEnum]

@[simp] theorem State.anchor_stbyHere (child : ℕ) (grant : Bool) : (s.stbyHere child grant).anchor = s.anchor := by
  simp [State.stbyHere]

@[simp] theorem State.anchor_subMap (id : ℕ) (f : SubEnt → SubEnt) : (s.subMap id f).anchor = s.anchor := by rfl

@[simp] theorem State.anchor_stbySet (id parent : ℕ) : (s.stbySet id parent).anchor = s.anchor := by simp [State.stbySet]

@[simp] theorem State.anchor_stbyRefuse (e : SubEnt) : (s.stbyRefuse e).anchor = s.anchor := by rfl

@[simp] theorem State.anchor_standbyCheck : s.standbyCheck.anchor = s.anchor := by simp [State.standbyCheck]

@[simp] theorem State.anchor_featApply (f tick : ℕ) : (s.featApply f tick).anchor = s.anchor := by simp [State.featApply]

@[simp] theorem State.anchor_useSpace (l : Fin 10) (v : Fin 5) (n : ℤ) : (s.useSpace l v n).anchor = s.anchor := by rfl

@[simp] theorem State.anchor_dropBuf (l : Fin 10) (v : Fin 5) (n : ℕ) : (s.dropBuf l v n).anchor = s.anchor := by
  simp [State.dropBuf]

@[simp] theorem State.anchor_dropBufs (l : Fin 10) : (s.dropBufs l).anchor = s.anchor := by simp [State.dropBufs]

@[simp] theorem State.anchor_treLinkNew (l : Fin 10) : (s.treLinkNew l).anchor = s.anchor := by simp [State.treLinkNew]

@[simp] theorem State.anchor_treLinkUp (l : Fin 10) : (s.treLinkUp l).anchor = s.anchor := by simp [State.treLinkUp]

@[simp] theorem State.anchor_cutPkts (l : Fin 10) : (s.cutPkts l).anchor = s.anchor := by
  unfold State.cutPkts
  dsimp only
  refine (anchor_each (fun _ _ => ?_) _).trans ?_
  · split
    · simp
    · rfl
  · simp

@[simp] theorem State.anchor_sendLost (again : ℕ) : (s.sendLost again).anchor = s.anchor := by
  unfold State.sendLost
  dsimp only
  split <;> simp

@[simp] theorem State.anchor_treLinkDown (l : Fin 10) : (s.treLinkDown l).anchor = s.anchor := by simp [State.treLinkDown]

@[simp] theorem State.anchor_sendReply (l : Fin 10) (again : ℕ) : (s.sendReply l again).anchor = s.anchor := by
  simp [State.sendReply]

/-! #### LNK -/

@[simp] theorem State.anchor_say (o : Out) : (s.say o).anchor = s.anchor := by rfl

@[simp] theorem State.anchor_lnkRegs (l : Fin 10) : (s.lnkRegs l).anchor = s.anchor := by rfl

@[simp] theorem State.anchor_misRegs (l : Fin 10) : (s.misRegs l).anchor = s.anchor := by rfl

@[simp] theorem State.anchor_laneTaps {l : Fin 10} {j : Fin 2} (pre post : ℕ) :
    (s.laneTaps l j pre post).anchor = s.anchor := by rfl

@[simp] theorem State.anchor_enterHunt {l : Fin 10} {j : Fin 2} (rate : ℕ) (only : Bool) :
    (s.enterHunt l j rate only).anchor = s.anchor := by simp [State.enterHunt]

@[simp] theorem State.anchor_laneOff (l : Fin 10) (j : Fin 2) (st : ℕ) : (s.laneOff l j st).anchor = s.anchor := by
  simp [State.laneOff]

@[simp] theorem State.anchor_lanesOff (l : Fin 10) (st : ℕ) (c : ℕ → Bool) : (s.lanesOff l st c).anchor = s.anchor := by
  simp [State.lanesOff]

@[simp] theorem State.anchor_huntLanes (l : Fin 10) : (s.huntLanes l).anchor = s.anchor := by simp [State.huntLanes]

@[simp] theorem State.anchor_portOff (l : Fin 10) : (s.portOff l).anchor = s.anchor := by simp [State.portOff]

@[simp] theorem State.anchor_linkLost (l : Fin 10) : (s.linkLost l).anchor = s.anchor := by
  unfold State.linkLost
  dsimp only
  split <;> simp

@[simp] theorem State.anchor_laneBlocks (l : Fin 10) (j : Fin 2) (b : List ℕ) (n : ℕ) :
    (s.laneBlocks l j b n).anchor = s.anchor := by simp [State.laneBlocks]

@[simp] theorem State.anchor_sendHello (l : Fin 10) (j : Fin 2) (leaving : Bool) (n : ℕ) :
    (s.sendHello l j leaving n).anchor = s.anchor := by simp [State.sendHello]

@[simp] theorem State.anchor_sendRestripe (l : Fin 10) (j : Fin 2) (lanes : ℕ) (ack : Bool) (n : ℕ) :
    (s.sendRestripe l j lanes ack n).anchor = s.anchor := by simp [State.sendRestripe]

@[simp] theorem State.anchor_sendNak (l : Fin 10) : (s.sendNak l).anchor = s.anchor := by simp [State.sendNak]

@[simp] theorem State.anchor_frameLine (l : Fin 10) (f : TxFrame) : (s.frameLine l f).anchor = s.anchor := by
  simp [State.frameLine]

@[simp] theorem State.anchor_replayFrom (l : Fin 10) (n : ℕ) : (s.replayFrom l n).anchor = s.anchor := by
  simp [State.replayFrom]

@[simp] theorem State.anchor_restripe (l : Fin 10) (j : Fin 2) (ack fault : Bool) :
    (s.restripe l j ack fault).anchor = s.anchor := by simp [State.restripe]

@[simp] theorem State.anchor_laneLeave (l : Fin 10) (j : Fin 2) (st : ℕ) (ack fault : Bool) :
    (s.laneLeave l j st ack fault).anchor = s.anchor := by simp [State.laneLeave]

@[simp] theorem State.anchor_laneUp (l : Fin 10) (j : Fin 2) : (s.laneUp l j).anchor = s.anchor := by simp [State.laneUp]

@[simp] theorem State.anchor_huntAt (l : Fin 10) (j : Fin 2) (rate : ℕ) : (s.huntAt l j rate).anchor = s.anchor := by rfl

@[simp] theorem State.anchor_portDrained (l : Fin 10) : (s.portDrained l).anchor = s.anchor := by simp [State.portDrained]

/-! #### Aborts of the front end -/

@[simp] theorem State.anchor_regionAbort {r : Fin 16} : (s.regionAbort r).anchor = s.anchor := by
  simp only [State.regionAbort, State.anchor_wrB, anchor_seq, State.anchor_evbDrop, State.anchor_dropQueue,
    State.anchor_dropWins, State.anchor_cmpAbort, State.anchor_winAbort, State.anchor_hstAbort, State.anchor_frameAbort,
    State.anchor_upRec, State.anchor_setPfeR, State.anchor_setTdcR, State.anchor_headFlag, eq_self]

@[simp] theorem State.anchor_regionsAbort (m : ℕ) : (s.regionsAbort m).anchor = s.anchor := by simp [State.regionsAbort]

@[simp] theorem State.anchor_setPwr (p : Pwr) : (s.setPwr p).anchor = s.anchor := by rfl

@[simp] theorem State.anchor_standbyResume : s.standbyResume.anchor = s.anchor := by simp [State.standbyResume]

/-! #### ETH -/

@[simp] theorem State.anchor_ethUpd (f : Eth → Eth) : (s.ethUpd f).anchor = s.anchor := by rfl

@[simp] theorem State.anchor_sayArp (req : Bool) (ip dst : ℕ) : (s.sayArp req ip dst).anchor = s.anchor := by rfl

@[simp] theorem State.anchor_sayDhcp (ty xid : ℕ) : (s.sayDhcp ty xid).anchor = s.anchor := by rfl

@[simp] theorem State.anchor_sayGarp : s.sayGarp.anchor = s.anchor := by simp [State.sayGarp]

@[simp] theorem State.anchor_dropIp : s.dropIp.anchor = s.anchor := by simp [State.dropIp]

@[simp] theorem State.anchor_dhcpNew (st ty : ℕ) : (s.dhcpNew st ty).anchor = s.anchor := by simp [State.dhcpNew]

@[simp] theorem State.anchor_solicit : s.solicit.anchor = s.anchor := by simp [State.solicit]

@[simp] theorem State.anchor_arpAsk (ip : ℕ) : (s.arpAsk ip).anchor = s.anchor := by simp [State.arpAsk]

@[simp] theorem State.anchor_qpUnresolved (q : Fin 8) : (s.qpUnresolved q).anchor = s.anchor := by simp [State.qpUnresolved]

@[simp] theorem State.anchor_qpResolve (q : Fin 8) : (s.qpResolve q).anchor = s.anchor := by simp [State.qpResolve]

@[simp] theorem State.anchor_resolveAll : s.resolveAll.anchor = s.anchor := by simp [State.resolveAll]

@[simp] theorem State.anchor_takeIp (ip mask gw : ℕ) : (s.takeIp ip mask gw).anchor = s.anchor := by simp [State.takeIp]

@[simp] theorem State.anchor_holdEth (x : QItem) : (s.holdEth x).anchor = s.anchor := by simp [State.holdEth]

@[simp] theorem State.anchor_ringOvf (q : Fin 8) : (s.ringOvf q).anchor = s.anchor := by
  unfold State.ringOvf
  split <;> simp

@[simp] theorem State.anchor_qpDrained (q : Fin 8) : (s.qpDrained q).anchor = s.anchor := by simp [State.qpDrained]

/-! #### What waits for the modules below -/

@[simp] theorem State.anchor_ctlUpd (f : Ctl → Ctl) : (s.ctlUpd f).anchor = s.anchor := by rfl

@[simp] theorem State.anchor_setSession (n : Fin 8) (x : Option Sess) : (s.setSession n x).anchor = s.anchor := by rfl

@[simp] theorem State.anchor_thbSay (n : Fin 8) (key ip port : ℕ) (local_ : Bool) (seq : ℕ) (l : List OpRep) :
    (s.thbSay n key ip port local_ seq l).anchor = s.anchor := by
  unfold State.thbSay
  split <;> simp

@[simp] theorem State.anchor_thbReply (n : Fin 8) (key ip port : ℕ) (local_ : Bool) (seq : ℕ) (l : List OpRep) :
    (s.thbReply n key ip port local_ seq l).anchor = s.anchor := by
  unfold State.thbReply
  split <;> simp

@[simp] theorem State.anchor_pendReply : s.pendReply.anchor = s.anchor := by
  unfold State.pendReply
  dsimp only
  refine (anchor_each (fun _ _ => ?_) _).trans ?_
  · split
    · simp
    · rfl
  · simp

@[simp] theorem State.anchor_relayResolve (seq status : ℕ) (words : List ℕ) :
    (s.relayResolve seq status words).anchor = s.anchor := by simp [State.relayResolve]

@[simp] theorem State.anchor_relayGather (p : RelayRep) : (s.relayGather p).anchor = s.anchor := by
  unfold State.relayGather
  split
  · simp
  · split
    · rfl
    · simp

/-! #### The commit -/

@[simp] theorem State.anchor_relayAll (op : RelayOp) : (s.relayAll op).anchor = s.anchor := by simp [State.relayAll]

/-! #### The sequencer -/

@[simp] theorem State.anchor_seqUpd (f : Seq → Seq) : (s.seqUpd f).anchor = s.anchor := by rfl

/-! #### Messages without an access (R288 to R290) -/

@[simp] theorem State.anchor_lnkSafe : s.lnkSafe.anchor = s.anchor := by simp [State.lnkSafe]

@[simp] theorem State.anchor_trigRelease : s.trigRelease.anchor = s.anchor := by rfl

@[simp] theorem State.anchor_crowbarAll : s.crowbarAll.anchor = s.anchor := by simp [State.crowbarAll]

@[simp] theorem State.anchor_safeNow (cls unit : Nat) : (s.safeNow cls unit).anchor = s.anchor := by
  unfold State.safeNow
  extract_lets s1 s2 s3 s4 kept s5 q p
  have h2 : s2.anchor = s.anchor := anchor_ite_eq (by simp [s1]) (by simp [s1])
  have h5 : s5.anchor = s2.anchor := by simp [s5, s4, s3]
  clear_value p q s5 kept
  exact h5.trans h2

@[simp] theorem State.anchor_gapOwn (first last regions reason : Nat) :
    (s.gapOwn first last regions reason).anchor = s.anchor := by simp [State.gapOwn]

@[simp] theorem State.anchor_scrubTick : s.scrubTick.anchor = s.anchor := by rfl

@[simp] theorem State.anchor_servoTemp : s.servoTemp.anchor = s.anchor := by
  unfold State.servoTemp
  extract_lets frozen leave
  have hl (x : State) : (leave x).anchor = x.anchor := by simp [leave]
  clear_value leave
  split
  · simp [hl]
  · split <;> simp [hl]

@[simp] theorem State.anchor_servoStep (r : Fin 16) : (s.servoStep r).anchor = s.anchor := by
  unfold State.servoStep
  extract_lets s1 v slew
  have h1 : s1.anchor = s.anchor := anchor_ite_eq (State.anchor_wrB _ _ _) rfl
  split
  · split <;> simp [h1]
  · rfl

@[simp] theorem State.anchor_snsTick : s.snsTick.anchor = s.anchor := by simp [State.snsTick]

@[simp] theorem State.anchor_boundaryTail (k : Nat) (x : Int) : (s.boundaryTail k x).anchor = s.anchor := by
  simp [State.boundaryTail]

@[simp] theorem State.anchor_hkaTick : s.hkaTick.anchor = s.anchor := by simp [State.hkaTick]

@[simp] theorem State.anchor_sramBoundary : s.sramBoundary.anchor = s.anchor := by simp [State.sramBoundary]

@[simp] theorem State.anchor_gapFlush : s.gapFlush.anchor = s.anchor := by simp [State.gapFlush]

@[simp] theorem State.anchor_featBoundary (k : Nat) : (s.featBoundary k).anchor = s.anchor := by
  unfold State.featBoundary
  split <;> simp

@[simp] theorem State.anchor_dhcpAgain : s.dhcpAgain.anchor = s.anchor := by simp [State.dhcpAgain]

@[simp] theorem State.anchor_ethTick : s.ethTick.anchor = s.anchor := by simp [State.ethTick]

@[simp] theorem State.anchor_xingReport : s.xingReport.anchor = s.anchor := by simp [State.xingReport]

@[simp] theorem State.anchor_onceTick (k : Nat) : (s.onceTick k).anchor = s.anchor := by simp [State.onceTick]

@[simp] theorem State.anchor_takeBoundary (k : Nat) : (s.takeBoundary k).anchor = s.anchor := by
  unfold State.takeBoundary
  extract_lets s1 s2 full
  have h1 : s1.anchor = s.anchor := by
    unfold s1
    split
    · simp
    · refine anchor_ite_eq ?_ rfl
      simp
      split <;> simp
    · rfl
  have h2 : s2.anchor = s1.anchor := by simp [s2]
  exact h2.trans h1

@[simp] theorem State.anchor_calRestart (r : Fin 16) : (s.calRestart r).anchor = s.anchor := by simp [State.calRestart]

@[simp] theorem State.anchor_calBoundary (r : Fin 16) : (s.calBoundary r).anchor = s.anchor := by simp [State.calBoundary]

@[simp] theorem State.anchor_tdcTick : s.tdcTick.anchor = s.anchor := by simp [State.tdcTick]

@[simp] theorem State.anchor_pushSeg (g : Seg) : (s.pushSeg g).anchor = s.anchor := by rfl

@[simp] theorem State.anchor_tickRegs (num den : Nat) (epoch : Int) (base : Nat) :
    (s.tickRegs num den epoch base).anchor = s.anchor  := by rfl

@[simp] theorem State.anchor_relayDue (k : Nat) : (s.relayDue k).anchor = s.anchor := by
  unfold State.relayDue
  split <;> simp

@[simp] theorem State.anchor_subIdx (r : Fin 16) (k : Nat) : (s.subIdx r k).anchor = s.anchor := by simp [State.subIdx]

@[simp] theorem State.anchor_accBegin (r : Fin 16) (k : Nat) : (s.accBegin r k).anchor = s.anchor := by simp [State.accBegin]

@[simp] theorem State.anchor_accBoundary (r : Fin 16) (k : Nat) : (s.accBoundary r k).anchor = s.anchor := by
  simp [State.accBoundary]

@[simp] theorem State.anchor_histoStart (r : Fin 16) (k : Nat) (x : Int) : (s.histoStart r k x).anchor = s.anchor := by rfl

@[simp] theorem State.anchor_freshStreams (r : Fin 16) (k m n : Nat) : (s.freshStreams r k m n).anchor = s.anchor := by
  simp [State.freshStreams]

@[simp] theorem State.anchor_upFrame (r : Fin 16) (k : Nat) (g : Frame → Frame) : (s.upFrame r k g).anchor = s.anchor := by
  rfl

@[simp] theorem State.anchor_gateIdx (r : Fin 16) (k step : Nat) (held : Bool) :
    (s.gateIdx r k step held).anchor = s.anchor := by rfl

@[simp] theorem State.anchor_windowStart (r : Fin 16) (k : Nat) : (s.windowStart r k).anchor = s.anchor := by rfl

@[simp] theorem State.anchor_modeChange (r : Fin 16) (k m n : Nat) : (s.modeChange r k m n).anchor = s.anchor := by
  simp [State.modeChange]

@[simp] theorem State.anchor_accChange (r : Fin 16) (k m n : Nat) (restart : Bool) :
    (s.accChange r k m n restart).anchor = s.anchor  := by simp [State.accChange]

@[simp] theorem State.anchor_modeClear (r : Fin 16) (k : Nat) (drain : Bool) : (s.modeClear r k drain).anchor = s.anchor := by
  unfold State.modeClear
  extract_lets m w s1 _ s2
  have hw : w.anchor = s.anchor := anchor_wr _ _ _
  have h1 : s1.anchor = s.anchor := anchor_ite_eq hw hw
  have h2 : s2.anchor = s.anchor := h1
  clear_value s2
  split <;> simp [h2]

@[simp] theorem State.anchor_ctxBoundary (r : Fin 16) : (s.ctxBoundary r).anchor = s.anchor := by
  unfold State.ctxBoundary
  split
  · rfl
  next k c _ =>
    extract_lets x s1
    have h1 : s1.anchor = s.anchor := by simp [s1]
    exact anchor_ite_eq h1 ((State.anchor_ctxReady k).trans h1)

@[simp] theorem State.anchor_injTick (r : Fin 16) (x y : Int) : (s.injTick r x y).anchor = s.anchor := by simp [State.injTick]

@[simp] theorem State.anchor_injCount (r : Fin 16) : (s.injCount r).anchor = s.anchor := by rfl

@[simp] theorem State.anchor_swapAt (r : Fin 16) (k m : Nat) (gone jumped : Bool) :
    (s.swapAt r k m gone jumped).anchor = s.anchor := by simp [State.swapAt]

@[simp] theorem State.anchor_gateTick (r : Fin 16) (x : Int) : (s.gateTick r x).anchor = s.anchor := by rfl

@[simp] theorem State.anchor_gateBoundary (r : Fin 16) (k : Nat) (x : Int) (into : Bool) :
    (s.gateBoundary r k x into).anchor = s.anchor := by simp [State.gateBoundary]

@[simp] theorem State.anchor_qpStart (q : Fin 8) : (s.qpStart q).anchor = s.anchor := by
  simp only [State.qpStart, State.anchor_wrBit, anchor_wr, State.anchor_setQp, State.anchor_qpResolve, eq_self]

@[simp] theorem State.anchor_addressStart : s.addressStart.anchor = s.anchor := by simp [State.addressStart]

@[simp] theorem State.anchor_pfcCommit (prio : Nat) : (s.pfcCommit prio).anchor = s.anchor := by simp [State.pfcCommit]

@[simp] theorem State.anchor_ethCommit (on speed fec prio : Nat) (en : Bool) :
    (s.ethCommit on speed fec prio en).anchor = s.anchor := by
  unfold State.ethCommit
  extract_lets s1 s2 s3 s4 now
  have h1 : s1.anchor = s.anchor := State.anchor_pfcCommit _
  have h2 : s2.anchor = s1.anchor := anchor_ite_eq (State.anchor_wrB _ _ _) rfl
  have h3 : s3.anchor = s2.anchor := anchor_ite_eq (State.anchor_wrB _ _ _) rfl
  have h4 : s4.anchor = s3.anchor := State.anchor_addressStart
  refine (anchor_each (fun q x => ?_) _).trans (h4.trans (h3.trans (h2.trans h1)))
  simp

@[simp] theorem State.anchor_trgCommit (k : Nat) (en : Bool) (pre post : Nat) :
    (s.trgCommit k en pre post).anchor = s.anchor := by simp [State.trgCommit]

@[simp] theorem State.anchor_treCommit (en stby : Bool) : (s.treCommit en stby).anchor = s.anchor := by simp [State.treCommit]

@[simp] theorem State.anchor_revCap : s.revCap.anchor = s.anchor := by simp [State.revCap]

@[simp] theorem State.anchor_lnkLanes : s.lnkLanes.anchor = s.anchor := by simp [State.lnkLanes]

@[simp] theorem State.anchor_lnkCommit (en : Nat) : (s.lnkCommit en).anchor = s.anchor := by simp [State.lnkCommit]

@[simp] theorem State.anchor_tbsCommit (old : Nat) (parent : Option Nat) : (s.tbsCommit old parent).anchor = s.anchor := by
  simp [State.tbsCommit]

@[simp] theorem State.anchor_hkaCommit (mains en per : Nat) : (s.hkaCommit mains en per).anchor = s.anchor := by
  simp [State.hkaCommit]

@[simp] theorem State.anchor_commitBlocks (old : State) (k : Nat) : (s.commitBlocks old k).anchor = s.anchor := by
  simp [State.commitBlocks]

@[simp] theorem State.anchor_relAll (r : Fin 16) (n : Nat) : (s.relAll r n).anchor = s.anchor := by
  induction n generalizing s with
  | zero => rfl
  | succ n ih =>
    unfold State.relAll
    split
    next he => exact ih.trans (State.anchor_relDue he)
    next => rfl

@[simp] theorem State.anchor_reorderChange : s.reorderChange.anchor = s.anchor := by simp [State.reorderChange]

@[simp] theorem State.anchor_epochUp (pages : List Nat) (k : Nat) : (s.epochUp pages k).anchor = s.anchor := by
  simp [State.epochUp]

@[simp] theorem State.anchor_ownValues : s.ownValues.anchor = s.anchor := by simp [State.ownValues]

@[simp] theorem State.anchor_feChange (r : Fin 16) (k m : Nat) (was : Bool) : (s.feChange r k m was).anchor = s.anchor := by
  simp [State.feChange]

@[simp] theorem State.anchor_gateRestart (r : Fin 16) (k : Nat) (x : Int) (oldRef : Bool) :
    (s.gateRestart r k x oldRef).anchor = s.anchor := by simp [State.gateRestart]

@[simp] theorem State.anchor_cmpChange (r : Fin 16) (was : Bool) : (s.cmpChange r was).anchor = s.anchor := by
  simp [State.cmpChange]

@[simp] theorem State.anchor_tdcChange (r : Fin 16) (k : Nat) (was : Bool) : (s.tdcChange r k was).anchor = s.anchor := by
  simp [State.tdcChange]

@[simp] theorem State.anchor_commitRegion (old : State) (g : Staged) (r : Fin 16) (k : Nat) (x y : Int) :
    (s.commitRegion old g r k x y).anchor = s.anchor := by
  simp only [State.commitRegion, State.anchor_accChange, State.anchor_injTick, State.anchor_feChange,
    State.anchor_gateRestart, State.anchor_upRec, State.anchor_cmpChange, State.anchor_modeChange, State.anchor_tdcChange,
    anchor_when, anchor_ite, ite_self, eq_self, implies_true]

@[simp] theorem State.anchor_commitTicks (old : State) (g : Staged) (k : Nat) :
    (s.commitTicks old g k).anchor = s.anchor := by simp [State.commitTicks]

@[simp] theorem State.anchor_rampRebase : s.rampRebase.anchor = s.anchor := by
  refine anchor_each (fun r x => ?_) _
  split
  · rfl
  · exact State.anchor_setRamp _ _

@[simp] theorem State.anchor_relayAnswer (q : RelayReq) (status : Nat) (words : List Nat) :
    (s.relayAnswer q status words).anchor = s.anchor := by simp [State.relayAnswer]

@[simp] theorem State.anchor_commitSaid (g : Staged) (ok : Bool) : (s.commitSaid g ok).anchor = s.anchor := by
  unfold State.commitSaid
  split <;> simp

/-! #### The clock over a boundary -/

theorem State.anchor_eq_iff : u.anchor = s.anchor ↔ u.clock = s.clock ∧ u.pfe.maskF = s.pfe.maskF ∧
    u.pfe.maskS = s.pfe.maskS ∧ u.tdc.offF = s.tdc.offF ∧ u.tdc.offS = s.tdc.offS := by
  simp only [State.anchor, Prod.mk.injEq]

theorem State.clock_of_anchor (h : u.anchor = s.anchor) : u.clock = s.clock := (State.anchor_eq_iff.1 h).1

/-- The clock is c. -/
def AtClock (c : Nat) (s : State) : Prop := s.clock = c

theorem AtClock.of_anchor {c : Nat} (h : u.anchor = s.anchor) (hs : AtClock c s) : AtClock c u :=
  (State.clock_of_anchor h).trans hs

theorem State.clock_hotBoundary (r : Fin 16) : (s.hotBoundary r).clock = s.clock :=
  keeps_each (P := AtClock s.clock) _ (fun _ _ h => keeps_ite h (keeps_ite h h)) rfl

theorem State.clock_tickRegion (r : Fin 16) (k : Nat) (x y : Int) (marks : Nat) (gone into : Bool) :
    (s.tickRegion r k x y marks gone into).clock = s.clock := by
  unfold State.tickRegion
  extract_lets m late s1 s2 s3 s4 s5 s6 s7
  have h4 : s4.anchor = s.anchor := by
    have h1 : s1.anchor = s.anchor := by simp [s1]
    have h3 : s3.anchor = s1.anchor := by simp [s3, s2]
    have h4 : s4.anchor = s3.anchor := by simp [s4]
    exact h4.trans (h3.trans h1)
  have h5 : AtClock s.clock s5 := by
    refine keeps_on (fun z hz => ?_) (.of_anchor h4 rfl)
    extract_lets z1 z2
    have h2 : AtClock s.clock z2 := .of_anchor (State.anchor_upRec _ _ _) ((State.clock_hotBoundary r).trans hz)
    exact keeps_ite h2 (.of_anchor (State.anchor_injTick _ _ _) h2)
  clear_value s5
  exact AtClock.of_anchor (by simp [s7, s6]) h5

theorem State.clock_boundary (k : Nat) (x : Int) (stepped gone into : Bool) :
    (s.boundary k x stepped gone into).clock = s.clock := by
  unfold State.boundary
  extract_lets marks cut bad s1 s2 s3 marks' s4 s5 _ s6 s7 y s8 s9
  have h1 : s1.anchor = s.anchor := by simp [s1]
  have h2 : s2.anchor = s.anchor := (anchor_wr _ _ _).trans h1
  have h3 : s3.anchor = s.anchor := anchor_ite_eq ((State.anchor_emit _ _).trans h2) h2
  have h7 : s7.anchor = s3.anchor := by
    have h5 : s5.anchor = s3.anchor := by simp [s5]
    have h6 : s6.anchor = s5.anchor := rfl
    have h7 : s7.anchor = s6.anchor := by simp [s7]
    exact h7.trans (h6.trans h5)
  have h8 : AtClock s.clock s8 := keeps_each _ (fun r z h => (State.clock_tickRegion _ _ _ _ _ _ _).trans h)
    (.of_anchor (State.anchor_tdcTick.trans (h7.trans h3)) rfl)
  clear_value s8
  have h9 : AtClock s.clock s9 := .of_anchor (by rfl) h8
  refine keeps_ite (P := AtClock s.clock) (.of_anchor ?_ rfl) (.of_anchor ?_ h9)
  · simp [s4, h3]
  · clear_value s9
    simp

end Sys2Proof.Machine
end

/-! ### The power commands, and the changes of the power state at a boundary (R18 to R20, R322, R378) -/

section
namespace Sys2Proof.Machine

open Sys2Proof Safety

set_option Elab.async false

variable {s : State} {c : Instr} {t : Nat}

/-! #### The power commands (R19, R378) -/

theorem State.flag_wr_one (f : Fld) (i : Nat) (h : f.cut 1 = 1) : (s.wr f i 1).flag f i = true := by
  simp [State.flag, State.rd_wr, h]

theorem State.flag_wr_zero (f : Fld) (i : Nat) (h : f.cut 0 = 0) : (s.wr f i 0).flag f i = false := by
  simp [State.flag, State.rd_wr, h]

theorem State.flag_pwrErr : s.pwrErr.flag .pmr_PWR_CMD_ERR = true := State.flag_wr_one _ 0 rfl

theorem State.flag_pwrErr_acqEnabled : s.pwrErr.flag .pmr_ACQ_ENABLED = s.flag .pmr_ACQ_ENABLED := by
  simp [State.pwrErr, State.flag, State.rd_wr]

theorem State.pwr_pwrErr : s.pwrErr.pwr = s.pwr := by simp [State.pwrErr]

theorem State.pmr_pwrErr : s.pwrErr.pmr = s.pmr := by simp [State.pwrErr]

theorem State.pwrReady_of_up (hp : s.pwr = .standby ∨ s.pwr = .safe ∧ s.level4 = false) :
    s.pwrReady = { s with pmr := { s.pmr with upAt := s.pmr.upAt <|> some s.clock } } := by
  obtain hp | ⟨hp, hl⟩ := hp
  · simp only [State.pwrReady, hp]
  · simp only [State.pwrReady, hp, hl, Bool.false_eq_true, if_false]

theorem State.pwrReady_of_ready (hp : s.pwr = .ready) : s.pwrReady = s.wr .pmr_ACQ_ENABLED 0 0 := by
  simp [State.pwrReady, hp, b2n]

theorem State.pwrReady_refused (hp : s.pwr = .acquire ∨ s.pwr = .start ∨ s.pwr = .safe ∧ s.level4 = true) :
    s.pwrReady = s.pwrErr := by
  obtain hp | hp | ⟨hp, hl⟩ := hp
  · simp only [State.pwrReady, hp]
  · simp only [State.pwrReady, hp]
  · simp only [State.pwrReady, hp, hl, if_true]

theorem State.anchor_biasEnClear (r : Fin 16) : (s.biasEnClear r).anchor = s.anchor := by
  unfold State.biasEnClear
  split <;> simp

theorem State.clock_rampDownAll : s.rampDownAll.clock = s.clock :=
  State.clock_of_anchor (anchor_each (fun _ _ => State.anchor_biasEnClear _) _)

theorem State.pwrStandby_of_ready (hp : s.pwr = .ready) :
    s.pwrStandby.pwr = .ready ∧ s.pwrStandby.pmr.standbyPend = some s.clock := by
  have hr : s.rampDownAll.pwr = .ready :=
    keeps_each (P := AtPwr (· = .ready)) _ (fun _ _ h => State.biasEnClear_keeps atPwr_closed _ h) hp
  unfold State.pwrStandby
  rw [if_pos (by simp [hp])]
  exact ⟨hr, congrArg some State.clock_rampDownAll⟩

theorem State.pwrStandby_refused (hp : s.pwr ≠ .ready) : s.pwrStandby = s.pwrErr := if_neg (by simpa using hp)

theorem State.pwrAcquire_of_ready (hp : s.pwr = .ready) : s.pwrAcquire = s.wr .pmr_ACQ_ENABLED 0 1 := if_pos (by simp [hp])

theorem State.pwrAcquire_refused (hp : s.pwr ≠ .ready) : s.pwrAcquire = s.pwrErr := if_neg (by simpa using hp)

/-! #### SAFE (R20, R322) -/

theorem State.safeNow_brings (cls unit : Nat) : (s.safeNow cls unit).seq.safeAt = some s.clock ∧
    (s.safeNow cls unit).pmr.standbyPend = none ∧ (s.safeNow cls unit).pmr.upAt = none := by
  have hc : (s.safeNow cls unit).clock = s.clock := State.clock_of_anchor (State.anchor_safeNow cls unit)
  have h : (s.safeNow cls unit).seq.safeAt = some (s.safeNow cls unit).clock := by
    unfold State.safeNow
    extract_lets s1 s2 s3 s4 kept s5 q p
    clear_value s5
    rfl
  refine ⟨h.trans (congrArg some hc), ?_⟩
  unfold State.safeNow
  extract_lets s1 s2 s3 s4 kept s5 q p
  clear_value s5
  exact ⟨rfl, rfl⟩

theorem State.pwrSafe_brings (hp : s.pwr = .ready ∨ s.pwr = .acquire ∨ s.pwr = .standby) :
    (s.pwrSafe true).pwr = .safe ∧ (s.pwrSafe true).seq.safeAt = some s.clock ∧
      (s.pwrSafe true).pmr.standbyPend = none ∧ (s.pwrSafe true).pmr.upAt = none := by
  have h : s.pwrSafe true = s.safeNow 0 0 := by
    unfold State.pwrSafe State.enterSafe
    obtain hp | hp | hp := hp <;> simp [hp]
  rw [h]
  exact ⟨State.pwr_safeNow 0 0, State.safeNow_brings 0 0⟩

/-! #### The changes that follow at a boundary (R18, R323) -/

theorem State.standbyEntry_brings {t0 : Nat} (hd : s.pmr.standbyPend = some t0) (ht : t0 < s.clock) (hb : s.atBoundary = true)
    (hp : s.pwr = .ready) (hv : s.biasDown = true) :
    s.standbyEntry.pwr = .standby ∧ s.standbyEntry.pmr.standbyPend = none ∧ s.standbyEntry.pmr.upAt = none := by
  unfold State.standbyEntry
  split
  case h_2 h => exact absurd (hd.symm.trans h) (by simp)
  next t h =>
  obtain rfl : t0 = t := Option.some.inj (hd.symm.trans h)
  rw [if_pos (by simp [ht, hb, hp, hv])]
  extract_lets k s1 s2 s3
  have h3 : s3.pwr = .standby := State.wrB_keeps (closed_pwr .standby) _ _ _ (State.pwr_setPwr .standby)
  clear_value s3
  exact ⟨h3, rfl, rfl⟩

/-- The part of STANDBY's end behind the change of the power state keeps it, and the wait that has ended. -/
theorem State.standbyExit_brings {t0 : Nat} (hu : s.pmr.upAt = some t0) (ht : t0 + 50 * msFu ≤ s.clock)
    (hb : s.atBoundary = true) (hp : s.pwr = .standby) :
    s.standbyExit.pwr = .ready ∧ s.standbyExit.pmr.upAt = none := by
  unfold State.standbyExit
  split
  case h_2 h => exact absurd (hu.symm.trans h) (by simp)
  next t h =>
  obtain rfl : t0 = t := Option.some.inj (hu.symm.trans h)
  rw [if_pos (by simp [ht, hb, hp])]
  extract_lets s1 _ s2 k s3
  have h1 : AtPwr (· = .ready) s1 :=
    keeps_on (fun _ h => State.lnkResume_keeps atPwr_closed h) (State.pwr_setPwr .ready)
  have h3 : Keeps [.pmr, .pwr] [] s2 s3 := by
    refine rest_ite_eq (rest_each (fun r x => ?_) _) rfl
    exact (State.rest_setEvbR Foot.but_may _ _).trans (rest_on (fun _ => State.rest_newRec Foot.but_may _ _ _ _) _)
  have h4 : Keeps [.pmr, .pwr] [] s2 s3.repairAuto := (State.rest_repairAuto Foot.but_may).trans h3
  clear_value s1 s3
  have hp4 : s3.repairAuto.pwr = s2.pwr := h4.part .pwr
  have hm4 : s3.repairAuto.pmr = s2.pmr := h4.part .pmr
  rw [hp4, hm4]
  exact ⟨h1, rfl⟩

theorem State.acquireToReady_brings (hb : s.atBoundary = true) (hp : s.pwr = .acquire)
    (hq : ∀ r : Fin 16, s.mode r = 0 ∧ s.seq.draining[r] = 0) : s.acquireToReady.pwr = .ready := by
  have h : ((List.finRange 16).all fun r => s.mode r == 0 && s.seq.draining[r] == 0) = true :=
    List.all_eq_true.2 fun r _ => by simp [hq r]
  unfold State.acquireToReady
  rw [if_pos (by simp only [hb, hp, h]; rfl)]
  exact State.repairAuto_keeps (closed_pwr .ready) (State.pwr_setPwr .ready)

/-- READY_REACHED notes when, and drops the fallback it has told; a wait for READY is no part of it. -/
theorem State.upAt_readyReached : s.readyReached.pmr.upAt = s.pmr.upAt := by
  unfold State.readyReached
  extract_lets s1 s2 s3 s4 s5
  have h2 : Keeps [.pmr] [] s1 s2 := State.rest_emit Foot.but_may _ _
  have h3 : Keeps [.pmr] [] s2 s3 := by
    unfold s3
    split
    · exact State.rest_emit Foot.but_may _ _
    · rfl
  have h4 : Keeps [.pmr] [] s3 s4 := rest_ite_eq (State.rest_bootRec Foot.but_may _) rfl
  have h5 : s5.pmr.upAt = s4.pmr.upAt := by
    have h : Keeps [.pmr] [] (s4.pmrUpd fun p => { p with fallback := none, setActive := false }) s5 :=
      State.rest_treReady Foot.but_may
    have e : s5.pmr = (s4.pmrUpd fun p => { p with fallback := none, setActive := false }).pmr := h.part .pmr
    rw [e]
    rfl
  have h6 : Keeps [.pmr] [] s5 (if s5.flag .cab_REPAIR_AUTO then s5.repairRun else s5) :=
    rest_ite_eq (State.rest_repairRun Foot.but_may) rfl
  have h14 : s4.pmr = s1.pmr := (h4.part .pmr).trans ((h3.part .pmr).trans (h2.part .pmr))
  calc _ = s5.pmr.upAt := congrArg Pmr.upAt (h6.part .pmr)
    _ = s4.pmr.upAt := h5
    _ = s1.pmr.upAt := congrArg Pmr.upAt h14
    _ = s.pmr.upAt := rfl

theorem State.safeExit_brings {t0 : Nat} (hu : s.pmr.upAt = some t0) (ht : t0 < s.clock) (hb : s.atBoundary = true)
    (hp : s.pwr = .safe) : s.safeExit.pwr = .ready ∧ s.safeExit.pmr.upAt = none := by
  have C := atPwr_closed (Q := (· = .ready))
  unfold State.safeExit
  split
  case h_2 h => exact absurd (hu.symm.trans h) (by simp)
  next t h =>
  obtain rfl : t0 = t := Option.some.inj (hu.symm.trans h)
  rw [if_pos (by simp [ht, hb, hp])]
  extract_lets s1 _ s2
  have h1 : AtPwr (· = .ready) s1 := State.lnkSafeExit_keeps C (State.wrB_keeps C _ _ _ (State.pwr_setPwr .ready))
  clear_value s1
  have h2 : AtPwr (· = .ready) s2 := State.emit_keeps C _ _ h1
  have hm : s2.pmr.upAt = none := by
    have h : Keeps [.pmr] [] { s1 with pmr := { s1.pmr with upAt := none } } s2 := State.rest_emit Foot.but_may _ _
    have e : s2.pmr = { s1.pmr with upAt := none } := h.part .pmr
    rw [e]
  clear_value s2
  split
  · exact ⟨State.readyReached_keeps C h2, State.upAt_readyReached.trans hm⟩
  · have h : Keeps [.pmr] [] s2 s2.repairAuto := State.rest_repairAuto Foot.but_may
    exact ⟨State.repairAuto_keeps C h2, (congrArg Pmr.upAt (h.part .pmr)).trans hm⟩

/-- A command of a block that is alive brings what its operation brings at the command's time. -/
theorem brings_on {b : Blk} {f : State → State} {P : State → Prop} (he : exec c s = run t (fun s => s.on b f) s)
    (ha : s.alive b = true) (h : P ((f (s.at t)).stamp (s.at t).clock s.pending)) : Brings c s P := by
  refine ⟨_, he, ?_⟩
  change P (((s.at t).on b f).stamp (s.at t).clock s.pending)
  rw [State.on_alive (State.alive_at t ha)]
  exact h

end Sys2Proof.Machine
end

open Sys2Proof Sys2Proof.Machine Sys2Proof.Safety in
/-- Settles O7: each command runs its operation at its own time, and what the operation brings is said above. -/
theorem powerStateCommandsComplete : Obligations.PowerStateCommandsComplete := by
  intro s t ha
  refine ⟨fun hp hu => ?_, fun hp => ?_, fun hp => ?_, fun hp => ?_, fun hp => ?_, fun hp => ?_, fun hp => ?_, fun hp => ?_, ?_,
    fun t0 hd ht hb hp hv => ?_, fun t0 hu ht hb hp => ?_, fun hb hp hq => ?_, fun t0 hu ht hb hp => ?_⟩
  · refine brings_on rfl ha ?_
    rw [State.pwrReady_of_up (s := s.at t) hp, show (s.at t).pmr.upAt = none from hu]
    exact ⟨rfl, rfl⟩
  · refine brings_on rfl ha ?_
    rw [State.pwrReady_of_ready (s := s.at t) hp]
    exact ⟨(State.pwr_wr _ _ _ _).trans hp, State.flag_wr_zero .pmr_ACQ_ENABLED 0 rfl⟩
  · refine brings_on rfl ha ?_
    rw [State.pwrReady_refused (s := s.at t) hp]
    exact ⟨State.pwr_pwrErr, State.flag_pwrErr⟩
  · exact brings_on rfl ha (State.pwrStandby_of_ready (s := s.at t) hp)
  · refine brings_on rfl ha ?_
    rw [State.pwrStandby_refused (s := s.at t) hp]
    exact ⟨State.pwr_pwrErr, congrArg Pmr.standbyPend State.pmr_pwrErr, State.flag_pwrErr⟩
  · refine brings_on rfl ha ?_
    rw [State.pwrAcquire_of_ready (s := s.at t) hp]
    exact ⟨(State.pwr_wr _ _ _ _).trans hp, State.flag_wr_one .pmr_ACQ_ENABLED 0 rfl⟩
  · refine brings_on rfl ha ?_
    rw [State.pwrAcquire_refused (s := s.at t) hp]
    exact ⟨State.pwr_pwrErr, State.flag_pwrErr_acqEnabled, State.flag_pwrErr⟩
  · exact brings_on rfl ha (State.pwrSafe_brings (s := s.at t) hp)
  · exact brings_on rfl ha ⟨State.pwr_pwrErr, State.flag_pwrErr⟩
  · exact brings_on rfl ha (State.standbyEntry_brings (s := s.at t) hd ht hb hp hv)
  · exact brings_on rfl ha (State.standbyExit_brings (s := s.at t) hu ht hb hp)
  · exact brings_on rfl ha (State.acquireToReady_brings (s := s.at t) hb hp hq)
  · exact brings_on rfl ha (State.safeExit_brings (s := s.at t) hu ht hb hp)

/-! ### A commit at its boundary: what is decided, and what follows (R20, R115) -/

section
namespace Sys2Proof.Machine

open Sys2Proof Safety

set_option Elab.async false

variable {qs ps : List Part} {gs fs : List Fld} {s u : State} {g : Staged}

/-! #### Everything but some parts, the configuration fields and some status fields -/

/-- Everything but the parts qs, the configuration fields and the fields gs. -/
def Foot.butConfig (qs : List Part) (gs : List Fld) : Foot :=
  ⟨(· ∉ qs), fun f _ => f.desc.acc ≠ .rwc ∧ f ∉ gs, fun _ => True⟩

theorem Foot.butConfig_may (hp : ∀ x ∈ ps, x ∉ qs := by decide)
    (hf : ∀ f ∈ fs, f.desc.acc ≠ .rwc ∧ f ∉ gs := by decide +kernel) : (Foot.butConfig qs gs).may ps fs :=
  ⟨hp, fun f h _ => hf f h⟩

/-- From s to u the parts qs, the configuration fields and the fields gs stay, in force and in the shadow. -/
def KeepsConfig (qs : List Part) (gs : List Fld) (s u : State) : Prop :=
  rest (Foot.butConfig qs gs) u = rest (Foot.butConfig qs gs) s

theorem KeepsConfig.part (h : KeepsConfig qs gs s u) (x : Part) (hx : x ∈ qs := by decide) : SamePart s u x :=
  (rest_eq_iff.1 h).parts x (not_not.2 hx)

theorem KeepsConfig.config (h : KeepsConfig qs gs s u) {f : Fld} (hf : f.desc.acc = .rwc) (i : Nat) :
    u.rd f i = s.rd f i ∧ u.rdSh f i = s.rdSh f i :=
  (rest_eq_iff.1 h).regs f i fun hn => hn.1 hf

theorem KeepsConfig.rd (h : KeepsConfig qs gs s u) {f : Fld} (hf : f ∈ gs := by decide) (i : Nat) : u.rd f i = s.rd f i :=
  ((rest_eq_iff.1 h).regs f i fun hn => hn.2 hf).1

/-! #### A commit at its boundary: what is decided, and what follows (R20, R115) -/

/-- The configuration is no longer staged. -/
def State.unstaged (s : State) : State := ({ s with staged := none } : State).wrB .seq_COMMIT_PEND 0 false

/-- The injections of the tick, planned when nothing comes in force. -/
def State.injAgain (s : State) (x y : Int) : State :=
  if s.running then s.each (List.finRange 16) (fun r s => s.injTick r x y) else s

/-- The configuration dropped by SAFE, put in force or refused. -/
def State.decided (s : State) (g : Staged) : State :=
  let x := s.seq.start
  let y := s.coarseOf (s.tickTime (s.seq.k + 1))
  if s.seq.safeAt == some s.clock then s.injAgain x y
  else if (s.commitErrs g).isEmpty then s.commitForce g s.seq.k x
  else (s.commitReject g).injAgain x y

/-- What every boundary of a commit ends with. -/
def State.commitEnd (s : State) (g : Staged) (x : Int) (ok : Bool) : State := (s.boundaryTail s.seq.k x).commitSaid g ok

theorem State.commitBoundary_eq (hs : s.staged = some g) (hd : s.commitDue = true) :
    ∃ ok, s.commitBoundary = (s.unstaged.decided g).commitEnd g s.unstaged.seq.start ok := by
  unfold State.commitBoundary
  split
  next h => exact absurd (hs.symm.trans h) (by simp)
  next g' h =>
    obtain rfl : g = g' := Option.some.inj (hs.symm.trans h)
    rw [if_pos hd]
    extract_lets s1 x y again ok s2
    exact ⟨ok, rfl⟩

theorem State.anchor_unstaged : s.unstaged.anchor = s.anchor := by simp [State.unstaged]

theorem State.pwr_unstaged : s.unstaged.pwr = s.pwr := by rfl

theorem State.seq_unstaged : s.unstaged.seq = s.seq := by rfl

theorem State.tbNow_unstaged : s.unstaged.tbNow = s.tbNow := by rfl

theorem State.rd_unstaged {f : Fld} (h : f ≠ .seq_COMMIT_PEND) (i : Nat) : s.unstaged.rd f i = s.rd f i := by
  simp [State.unstaged, State.rd_wr, h.symm]

theorem State.flag_unstaged {f : Fld} (h : f ≠ .seq_COMMIT_PEND) (i : Nat) : s.unstaged.flag f i = s.flag f i := by
  simp only [State.flag, State.rd_unstaged h]

theorem State.changes_unstaged {f : Fld} (h : f ≠ .seq_COMMIT_PEND) (i : Nat) :
    s.unstaged.changes g f i = s.changes g f i := by
  simp only [State.changes, State.rd_unstaged h]

theorem State.isRoot_unstaged : s.unstaged.isRoot = s.isRoot := by simp [State.isRoot, State.rd_unstaged]

theorem State.running_unstaged : s.unstaged.running = s.running := State.flag_unstaged (by decide) 0

theorem State.firstSchedule_unstaged : s.unstaged.firstSchedule g = s.firstSchedule g := by
  simp [State.firstSchedule, State.isRoot_unstaged, State.running_unstaged, State.changes_unstaged]

theorem State.rebases_unstaged : s.unstaged.rebases g = s.rebases g := by
  simp [State.rebases, State.isRoot_unstaged, State.running_unstaged, State.changes_unstaged]

theorem State.hasMode_unstaged (r m : Nat) : s.unstaged.hasMode r m = s.hasMode r m := by
  simp [State.hasMode, State.mode, State.rd_unstaged]

theorem State.reel_unstaged (n : Nat) : s.unstaged.reel n = s.reel n := by rfl

theorem State.rdBit_unstaged {f : Fld} (h : f ≠ .seq_COMMIT_PEND) (i n : Nat) : s.unstaged.rdBit f i n = s.rdBit f i n := by
  simp only [State.rdBit, State.rd_unstaged h]

/-- No check of a commit reads COMMIT_PEND or whether a configuration is staged. -/
theorem State.commitErrs_unstaged (g : Staged) : s.unstaged.commitErrs g = s.commitErrs g := by
  have hc (r : Nat) : gateFields.any (fun f => s.unstaged.changes g f r) = gateFields.any fun f => s.changes g f r := by
    simp [gateFields, State.changes_unstaged]
  have tick : s.unstaged.tickErrs g = s.tickErrs g := by
    simp only [State.tickErrs, State.firstSchedule_unstaged, State.rebases_unstaged, State.isRoot_unstaged,
      State.running_unstaged, State.tbNow_unstaged, State.changes_unstaged (f := .seq_TICK_EPOCH) (by decide),
      State.changes_unstaged (f := .seq_TICK_BASE) (by decide)]
  have mode : s.unstaged.modeErrs g = s.modeErrs g := by
    simp only [State.modeErrs, State.hasMode_unstaged, State.running_unstaged, State.pwr_unstaged,
      State.flag_unstaged (f := .pmr_ACQ_ENABLED) (by decide)]
  have gate : s.unstaged.gateErrs g = s.gateErrs g := by
    simp only [State.gateErrs, State.gateNew, State.hasMode_unstaged, hc]
  have trg : s.unstaged.trgErrs g = s.trgErrs g := by
    simp only [State.trgErrs, State.isRoot_unstaged, State.reel_unstaged, State.rd_unstaged (f := .tre_DEPTH) (by decide)]
  have cab : s.unstaged.cabErrs g = s.cabErrs g := by
    simp only [State.cabErrs, State.reel_unstaged, State.flag_unstaged (f := .pmr_CAB_OFFLINE) (by decide),
      State.flag_unstaged (f := .cab_REPAIR_BUSY) (by decide)]
  have hka : s.unstaged.hkaErrs g = s.hkaErrs g := by
    simp only [State.hkaErrs, State.running_unstaged, State.firstSchedule_unstaged, State.seq_unstaged]
  have misc : s.unstaged.miscErrs g = s.miscErrs g := by
    simp only [State.miscErrs, State.rdBit_unstaged (f := .lnk_PORT_SPLIT) (by decide),
      State.rdBit_unstaged (f := .lnk_PORT_EN) (by decide)]
  simp only [State.commitErrs, tick, mode, gate, trg, cab, hka, misc]

theorem State.anchor_injAgain (x y : Int) : (s.injAgain x y).anchor = s.anchor := by
  unfold State.injAgain
  split <;> simp

theorem State.anchor_commitEnd (x : Int) (ok : Bool) : (s.commitEnd g x ok).anchor = s.anchor := by simp [State.commitEnd]

/-- Neither the injections nor the end reach a configuration field, CFG_EPOCH or the staged configuration. -/
theorem State.keepsConfig_injAgain (x y : Int) :
    KeepsConfig [.staged, .pwr] [.seq_CFG_EPOCH, .seq_EPOCH_TICK, .seq_CFG_ERR, .seq_TICK_RUN] s (s.injAgain x y) :=
  rest_ite_eq (rest_each (fun _ _ => State.rest_injTick Foot.butConfig_may (fun _ => trivial) _ _ _) _) rfl

theorem State.keepsConfig_commitEnd (x : Int) (ok : Bool) :
    KeepsConfig [.staged, .pwr] [.seq_CFG_EPOCH, .seq_EPOCH_TICK, .seq_CFG_ERR, .seq_TICK_RUN] s (s.commitEnd g x ok) :=
  (State.rest_commitSaid Foot.butConfig_may _ _).trans (State.rest_boundaryTail Foot.butConfig_may (fun _ => trivial) _ _)

theorem State.commitBoundary_of_safe (hs : s.staged = some g) (hd : s.commitDue = true) (ha : s.seq.safeAt = some s.clock) :
    ∃ x y z ok, s.commitBoundary = (s.unstaged.injAgain x y).commitEnd g z ok := by
  obtain ⟨ok, h⟩ := State.commitBoundary_eq hs hd
  have hc : (s.unstaged.seq.safeAt == some s.unstaged.clock) = true := beq_iff_eq.2 ha
  unfold State.decided at h
  rw [if_pos hc] at h
  exact ⟨_, _, _, ok, h⟩

end Sys2Proof.Machine
end

open Sys2Proof Sys2Proof.Machine Sys2Proof.Safety in
/-- Settles O47: SAFE leaves only the injections and the end of the boundary, which reach no configuration. -/
theorem safeTakesPrecedenceOverACommit : Obligations.SafeTakesPrecedenceOverACommit := by
  intro s t g ha hs hd hsafe
  obtain ⟨x, y, z, ok, h⟩ := State.commitBoundary_of_safe (s := s.at t) hs hd hsafe
  have hk : KeepsConfig [.staged, .pwr] [.seq_CFG_EPOCH, .seq_EPOCH_TICK, .seq_CFG_ERR, .seq_TICK_RUN] (s.at t).unstaged
      (s.at t).commitBoundary := by
    rw [h]
    exact (State.keepsConfig_commitEnd z ok).trans (State.keepsConfig_injAgain x y)
  have hc : (s.at t).commitBoundary.anchor = (s.at t).anchor := by
    rw [h, State.anchor_commitEnd, State.anchor_injAgain, State.anchor_unstaged]
  obtain ⟨_, mf, ms, tf, ts⟩ := State.anchor_eq_iff.1 hc
  refine brings_on rfl ha ⟨hk.part .staged, fun f i hf => ?_, (hk.rd (f := .seq_CFG_EPOCH) (by decide) 0).trans
    (State.rd_unstaged (by decide) 0), mf, ms, tf, ts⟩
  have hne : f ≠ .seq_COMMIT_PEND := by
    rintro rfl
    exact absurd hf (by decide)
  obtain ⟨hr, hsh⟩ := hk.config hf i
  exact ⟨hr.trans (State.rd_unstaged hne i), hsh⟩

/-! ### The supply, the contacts and the start: what they bring about (R17, R339, R340, R343, R344) -/

section
namespace Sys2Proof.Machine

open Sys2Proof Safety

set_option Elab.async false

variable {s u v : State} {l m : List Blk} {b : Blk} {c : Instr} {t : Nat}

/-! #### Blocks in reset, and those released (R17, R340) -/

theorem Blk.ofIdx_idx (b : Blk) : Blk.ofIdx b.idx = some b := by cases b <;> rfl

theorem Blk.idx_inj {b c : Blk} (h : b.idx = c.idx) : b = c := by
  have e := Blk.ofIdx_idx b
  rw [h, Blk.ofIdx_idx] at e
  exact (Option.some.inj e).symm

theorem bit_foldl_clear (n : Nat) (l : List Blk) (b : Blk) :
    bit (l.foldl (fun h c => setBit h c.idx false) n) b.idx = (bit n b.idx && !l.contains b) := by
  induction l generalizing n with
  | nil => simp
  | cons c l ih =>
    rw [List.foldl_cons, ih, bit_setBit]
    by_cases h : b = c
    · simp [h]
    · have hi : b.idx ≠ c.idx := fun e => h (Blk.idx_inj e)
      simp [hi, h]

/-- From s to u the blocks of l are released, and every other block stays in reset or out of it. -/
def Releases (l : List Blk) (s u : State) : Prop := ∀ b : Blk, bit u.held b.idx = (bit s.held b.idx && !l.contains b)

theorem Releases.keep (h : Releases l s u) (k : Keeps [.held] [] u v) : Releases l s v := by
  intro b
  have e : v.held = u.held := k.part .held
  rw [e, h b]

theorem Releases.of_keeps (k : Keeps [.held] [] s u) : Releases [] s u :=
  Releases.keep (fun b => by simp) k

theorem Releases.trans (h : Releases l s u) (k : Releases m u v) : Releases (l ++ m) s v := by
  intro b
  rw [k b, h b, Bool.and_assoc]
  simp

theorem State.releases_release (l : List Blk) : Releases l s (s.release l) := bit_foldl_clear s.held l

/-- A block is out of reset once it is released. -/
theorem Releases.out (h : Releases l s u) (hb : b ∈ l) : bit u.held b.idx = false := by
  rw [h b]
  simp [hb]

/-- At the begin of a start every block but PMR and FLT is in reset. -/
theorem State.held_startUp (warm : Bool) (b : Blk) : bit (s.startUp warm).held b.idx = (b != .pmr && b != .flt) := by
  have h : (s.startUp warm).held = setBit (setBit 0xFFFFF Blk.pmr.idx false) Blk.flt.idx false := by
    unfold State.startUp
    extract_lets up s1 s2
    exact ((State.held_wr ..).trans (State.held_wr ..)).trans (State.held_wr ..)
  rw [h]
  cases b <;> decide

/-! #### The resets, and the begin of a start (R17, R339, R340) -/

theorem State.pmr_startUp (warm : Bool) : (s.startUp warm).pmr = { s.pmr with
    startAt := s.clock, railAt := s.clock, upFrom := if warm then s.clock else s.clock + 20 * msFu,
    fltFrom := (if warm then s.clock else s.clock + 20 * msFu) + 2 * msFu } := by
  unfold State.startUp
  extract_lets up s1 s2
  exact ((State.pmr_wr ..).trans (State.pmr_wr ..)).trans (State.pmr_wr ..)

theorem State.tryStart_of_on (hp : s.pwr = .off) (hv : s.pmr.vin = true) (he : s.pmr.pwrEn = true) (hr : s.pmr.resetN = true) :
    s.tryStart = s.startUp false := if_pos (by simp [hp, hv, he, hr])

/-- A module that is off starts as its supply is there and both contacts let it. -/
theorem State.tryStart_brings (hp : s.pwr = .off) (hv : s.pmr.vin = true) (he : s.pmr.pwrEn = true) (hr : s.pmr.resetN = true) :
    s.tryStart.pwr = .start ∧ s.tryStart.pmr.vin = true ∧ s.tryStart.pmr.startAt = s.clock ∧
      s.tryStart.pmr.upFrom = s.clock + 20 * msFu ∧ ∀ b : Blk, bit s.tryStart.held b.idx = (b != .pmr && b != .flt) := by
  rw [State.tryStart_of_on hp hv he hr]
  refine ⟨State.pwr_startUp _, ?_, ?_, ?_, State.held_startUp false⟩ <;> rw [State.pmr_startUp]
  · exact hv
  · rfl

theorem State.rd_coldReset (cause : Nat) (f : Fld) (i : Nat) :
    (s.coldReset cause).rd f i = f.resetVal i ∧ (s.coldReset cause).rdSh f i = f.resetVal i :=
  ⟨ite_self _, rfl⟩

theorem startCounted_pmrUpd {f : Pmr → Pmr} (hf : ∀ p, (f p).counted = p.counted ∧ (f p).upFrom = p.upFrom) :
    startCounted (s.pmrUpd f) = startCounted s := by
  simp only [startCounted, State.countDue, State.pmrUpd, hf]
  rfl

/-- Power that goes, and the reset contact, take the module down (R339, R340). -/
theorem brings_off {cause : Nat} {f : Pmr → Pmr} {P : Pmr → Prop}
    (hf : ∀ p, (f p).counted = p.counted ∧ (f p).upFrom = p.upFrom)
    (he : exec c s = .next ((((s.at t).pmrUpd f).coldReset cause).stamp (s.at t).clock s.pending))
    (hP : P (((s.at t).pmrUpd f).coldReset cause).pmr) :
    Brings c s (fun u => u.pwr = .off ∧ P u.pmr ∧ u.pmr.cause = cause ∧ u.flash = startCounted (s.at t) ∧ ∀ f i,
      u.rd f i = f.resetVal i ∧ u.rdSh f i = f.resetVal i) :=
  ⟨_, he, rfl, hP, rfl, (State.flash_coldReset cause).trans (startCounted_pmrUpd hf),
    State.rd_coldReset (s := (s.at t).pmrUpd f) cause⟩

theorem State.pmr_coldReset (cause : Nat) : (s.coldReset cause).pmr =
    { vin := s.pmr.vin, pwrEn := s.pmr.pwrEn, resetN := s.pmr.resetN, cause := cause } := by
  have h : (if s.countDue then s.countStart else s).pmr.vin = s.pmr.vin ∧
      (if s.countDue then s.countStart else s).pmr.pwrEn = s.pmr.pwrEn ∧
      (if s.countDue then s.countStart else s).pmr.resetN = s.pmr.resetN := by
    unfold State.countStart
    split
    · split <;> exact ⟨rfl, rfl, rfl⟩
    · exact ⟨rfl, rfl, rfl⟩
  obtain ⟨hv, he, hr⟩ := h
  unfold State.coldReset
  dsimp only
  rw [hv, he, hr]

/-! #### A start whose image is picked (R343, R344) -/

theorem State.releases_railsUp : Releases [.pmr, .flt] s s.railsUp :=
  (Releases.of_keeps (State.rest_pmrUpd Foot.but_may _)).trans (State.releases_release [.pmr, .flt])

theorem State.releases_edcStart (march : List (SramMac × BitVec 16)) : Releases [.edc] s (s.edcStart march) :=
  (State.releases_release [.edc]).keep ((rest_each (fun _ _ => State.rest_marchRow Foot.but_may _ _) _).trans
    ((rest_wr .edc_SRAM_ROWS_SPARED Foot.but_may _ _).trans (rest_edc Foot.but_may _)))

theorem State.releases_startHead (march : List (SramMac × BitVec 16)) : Releases [.pmr, .flt, .edc] s (s.startHead march) :=
  ((State.releases_railsUp.keep (State.rest_countStart Foot.but_may)).trans (State.releases_edcStart march)).keep
    ((rest_wr .pmr_FW_VER_B Foot.but_may _ _).trans (rest_wr .pmr_FW_VER_A Foot.but_may _ _))

theorem State.releases_runSlot (slot trial : Bool) : Releases [.ctl] s (s.runSlot slot trial) := by
  unfold State.runSlot
  extract_lets swap s1 s2
  have h : Keeps [.held] [] s (s2.loadCore (if slot then 2 else 1)) :=
    (State.rest_loadCore Foot.but_may _).trans ((rest_wr .pmr_BOOT_FALLBACK Foot.but_may _ _).trans
      ((State.rest_pmrUpd Foot.but_may _).trans ((rest_wr .pmr_TRIAL Foot.but_may _ _).trans
        (rest_wr .pmr_BOOT_SLOT Foot.but_may _ _))))
  exact (Releases.of_keeps h).trans (State.releases_release [.ctl])

theorem State.releases_startRun (x : StartUp) : Releases [.cab, .hka, .tbs, .sns, .pfe, .tdc, .seq, .evb, .trg, .hst, .acc, .cmp,
    .que, .lnk, .tre, .eth] s (s.startRun x) := by
  unfold State.startRun
  extract_lets s1 s2 s3 s4 s5 s6 s7
  have h1 : Releases [.cab] s s1 := (State.releases_release _).keep (State.rest_cabStart Foot.but_may _ _)
  have h2 : Releases [.hka] s1 s2 := (State.releases_release _).keep
    ((State.rest_calDone Foot.but_may _).trans (State.rest_hkaStart Foot.but_may))
  have h3 : Releases [.tbs] s2 s3 := (State.releases_release _).keep (State.rest_tbsStart Foot.but_may)
  have h4 : Releases [.sns, .pfe, .tdc, .seq, .evb, .trg, .hst, .acc, .cmp, .que] s3 s4 := (State.releases_release _).keep
    ((rest_each (fun _ _ => State.rest_calRestart Foot.but_may (fun r => Foot.but_region r) _) _).trans
      (State.rest_maskStart Foot.but_may))
  have h6 : Keeps [.held] [] s4 s6 := (rest_wr .tre_FW_VER Foot.but_may _ _).trans ((State.rest_pmrUpd Foot.but_may _).trans
    ((rest_wr .tre_STRAP_POS Foot.but_may _ _).trans (rest_wr .tre_STRAP_ROLE Foot.but_may _ _)))
  have h7 : Releases [.lnk, .tre, .eth] s6 s7 :=
    ((((State.releases_release [.lnk, .tre]).keep (State.rest_treStart Foot.but_may)).keep
      (State.rest_lnkStart Foot.but_may)).trans (State.releases_release [.eth])).keep (State.rest_ethStart Foot.but_may)
  exact ((((h1.trans h2).trans h3).trans h4).keep h6).trans (h7.keep (rest_wr .pmr_START_MS Foot.but_may _ _))

/-- What the entry of READY or SAFE at the end of a start leaves alone. -/
theorem State.keeps_startEnd : Keeps [.held] [.pmr_BOOT_SLOT, .pmr_TRIAL] s s.startEnd := by
  unfold State.startEnd
  split
  · exact State.rest_safeNow Foot.but_may (fun r => Foot.but_region r) _ _
  · exact (State.rest_readyReached Foot.but_may).trans
      ((rest_wr .flt_SAFE_ACT Foot.but_may _ _).trans (State.rest_setPwr Foot.but_may _))

/-- A start that runs an image releases every block. -/
theorem State.held_run (x : StartUp) (slot trial : Bool) (b : Blk) :
    bit (((s.startHead x.march).runSlot slot trial).startRest x).held b.idx = false := by
  rw [State.startRest_eq, State.keeps_startEnd.part .held]
  have h := ((State.releases_startHead (s := s) x.march).trans (State.releases_runSlot slot trial)).trans
    (State.releases_startRun x)
  exact h.out (by cases b <;> decide)

theorem State.starts_readyReached : s.readyReached.flash.starts = s.flash.starts := by
  unfold State.readyReached
  extract_lets s1 s2 s3 s4 s5
  have h2 : Keeps [.flash] [] s1 s2 := State.rest_emit Foot.but_may _ _
  have h3 : Keeps [.flash] [] s2 s3 := by
    unfold s3
    split
    · exact State.rest_emit Foot.but_may _ _
    · rfl
  have h4 : s4.flash.starts = s3.flash.starts := by
    unfold s4
    split <;> rfl
  have h5 : Keeps [.flash] [] s4 s5 := (State.rest_treReady Foot.but_may).trans (State.rest_pmrUpd Foot.but_may _)
  have h6 : Keeps [.flash] [] s5 (if s5.flag .cab_REPAIR_AUTO then s5.repairRun else s5) :=
    rest_ite_eq (State.rest_repairRun Foot.but_may) rfl
  calc _ = s5.flash.starts := congrArg Flash.starts (h6.part .flash)
    _ = s4.flash.starts := congrArg Flash.starts (h5.part .flash)
    _ = s3.flash.starts := h4
    _ = s2.flash.starts := congrArg Flash.starts (h3.part .flash)
    _ = s.flash.starts := congrArg Flash.starts (h2.part .flash)

theorem State.starts_startEnd : s.startEnd.flash.starts = s.flash.starts := by
  unfold State.startEnd
  split
  · have h (x y) : Keeps [.flash] [] s (s.safeNow x y) := State.rest_safeNow Foot.but_may (fun r => Foot.but_region r) x y
    exact congrArg Flash.starts ((h _ _).part .flash)
  · have h : Keeps [.flash] [] s ((s.setPwr .ready).wrB .flt_SAFE_ACT 0 false) :=
      (rest_wr .flt_SAFE_ACT Foot.but_may _ _).trans (State.rest_setPwr Foot.but_may _)
    exact State.starts_readyReached.trans (congrArg Flash.starts (h.part .flash))

theorem State.starts_countStart : s.countStart.flash.starts = s.flash.starts + b2n (!s.pmr.counted) := by
  unfold State.countStart
  cases h : s.pmr.counted <;> rfl

/-- A start is counted once, at its end if not before. -/
theorem State.starts_run (x : StartUp) (slot trial : Bool) :
    (((s.startHead x.march).runSlot slot trial).startRest x).flash.starts = s.flash.starts + b2n (!s.pmr.counted) := by
  obtain ⟨r, hr⟩ := s.flash_startHead x.march
  have h1 : Keeps [.flash] [] (s.startHead x.march) ((s.startHead x.march).runSlot slot trial) :=
    State.rest_runSlot Foot.but_may _ _
  have h2 (y : State) : Keeps [.flash] [] y (y.startRun x) := State.rest_startRun Foot.but_may (fun r => Foot.but_region r) x
  rw [State.startRest_eq, State.starts_startEnd, (h2 _).part .flash, h1.part .flash, hr]
  exact State.starts_countStart

theorem State.flag_wrB (f : Fld) (i : Nat) (b : Bool) (h0 : f.cut 0 = 0) (h1 : f.cut 1 = 1) : (s.wrB f i b).flag f i = b := by
  cases b
  · exact State.flag_wr_zero f i h0
  · exact State.flag_wr_one f i h1

theorem Keeps.flag {gs : List Fld} {qs : List Part} (h : Keeps qs gs s u) {f : Fld} (hf : f ∈ gs := by decide) (i : Nat) :
    u.flag f i = s.flag f i := congrArg (· != 0) (h.rd hf i)

theorem State.image_runSlot (slot trial : Bool) :
    (s.runSlot slot trial).flag .pmr_BOOT_SLOT = slot ∧ (s.runSlot slot trial).flag .pmr_TRIAL = trial := by
  unfold State.runSlot
  extract_lets swap s1 s2
  have h2 : Keeps [] [.pmr_BOOT_SLOT, .pmr_TRIAL] s1 ((s2.loadCore (if slot then 2 else 1)).release [.ctl]) :=
    (State.rest_release Foot.but_may _).trans ((State.rest_loadCore Foot.but_may _).trans
      ((rest_wr .pmr_BOOT_FALLBACK Foot.but_may _ _).trans (State.rest_pmrUpd Foot.but_may _)))
  have h1 : Keeps [] [.pmr_BOOT_SLOT] (s.wrB .pmr_BOOT_SLOT 0 slot) s1 := rest_wr .pmr_TRIAL Foot.but_may _ _
  exact ⟨(h2.flag (by decide) 0).trans ((h1.flag (by decide) 0).trans (State.flag_wrB _ _ _ rfl rfl)),
    (h2.flag (by decide) 0).trans (State.flag_wrB _ _ _ rfl rfl)⟩

/-- The image that runs, told by registers. -/
theorem State.image_run (x : StartUp) (slot trial : Bool) :
    (((s.startHead x.march).runSlot slot trial).startRest x).flag .pmr_BOOT_SLOT = slot ∧
      (((s.startHead x.march).runSlot slot trial).startRest x).flag .pmr_TRIAL = trial := by
  have h (y : State) : Keeps [] [.pmr_BOOT_SLOT, .pmr_TRIAL] y (y.startRun x) :=
    State.rest_startRun Foot.but_may (fun r => Foot.but_region r) x
  obtain ⟨hs, hi⟩ := (s.startHead x.march).image_runSlot slot trial
  rw [State.startRest_eq]
  exact ⟨(State.keeps_startEnd.flag (by decide) 0).trans (((h _).flag (by decide) 0).trans hs),
    (State.keeps_startEnd.flag (by decide) 0).trans (((h _).flag (by decide) 0).trans hi)⟩

/-- A start that runs an image ends in SAFE where a level 4 fault stands, and in READY otherwise. -/
theorem State.pwr_run (x : StartUp) (slot trial : Bool) : (((s.startHead x.march).runSlot slot trial).startRest x).pwr =
    if s.flt.ents.any (fun e => e.lvl == 4 && (!e.inj || e.perf)) then .safe else .ready := by
  have h : Keeps [.flt] [] s (((s.startHead x.march).runSlot slot trial).startRun x) :=
    (State.rest_startRun Foot.but_may (fun r => Foot.but_region r) x).trans
      ((State.rest_runSlot Foot.but_may _ _).trans (State.rest_startHead Foot.but_may _))
  rw [State.pwr_startRest, h.part .flt]

/-! #### A trial that failed to start, and recovery (R343, R344) -/

theorem State.trial_coldReset (cause : Nat) : (s.coldReset cause).flash.trial = s.flash.trial := by
  rw [State.flash_coldReset]
  unfold startCounted
  split <;> rfl

/-- The times of a start say nothing of its cause and of a fallback. -/
theorem State.pmrUpd_times (a b c d : Nat) :
    (s.pmrUpd (fun p => { p with startAt := a, railAt := b, upFrom := c, fltFrom := d })).pmr.cause = s.pmr.cause ∧
    (s.pmrUpd (fun p => { p with startAt := a, railAt := b, upFrom := c, fltFrom := d })).pmr.fallback = s.pmr.fallback :=
  ⟨rfl, rfl⟩

theorem State.startUp_tells (warm : Bool) : (s.startUp warm).rd .pmr_RESET_CAUSE = Fld.pmr_RESET_CAUSE.cut s.pmr.cause ∧
    (s.startUp warm).flag .pmr_BOOT_FALLBACK = s.pmr.fallback.isSome := by
  unfold State.startUp
  extract_lets up s1 s2
  have hs : s2.pmr.cause = s.pmr.cause ∧ s2.pmr.fallback = s.pmr.fallback := State.pmrUpd_times (s := s1) _ _ _ _
  clear_value s2
  obtain ⟨hc, hf⟩ := hs
  have h (y : State) (b : Bool) : Keeps [] [.pmr_RESET_CAUSE] y (y.wrB .pmr_BOOT_FALLBACK 0 b) :=
    rest_wr .pmr_BOOT_FALLBACK Foot.but_may _ _
  rw [(h _ _).rd (by decide) 0, State.rd_wr, if_pos ⟨rfl, rfl⟩, hc, State.flag_wrB _ _ _ rfl rfl, hf]
  exact ⟨rfl, rfl⟩

theorem State.flash_startUp (warm : Bool) : (s.startUp warm).flash = s.flash := by
  have h : Keeps [.flash] [] s (s.startUp warm) := State.rest_startUp Foot.but_may warm
  exact h.part .flash

/-- A trial that ends goes back to the active image, by a reset with cause 3. -/
theorem State.trialEnd_brings (reason : Nat) : (s.trialEnd reason).pwr = .start ∧ (s.trialEnd reason).rd .pmr_RESET_CAUSE = 3 ∧
    (s.trialEnd reason).flash.trial = false ∧ (s.trialEnd reason).pmr.fallback = some reason ∧
    (s.trialEnd reason).flag .pmr_BOOT_FALLBACK = true := by
  unfold State.trialEnd
  extract_lets s1 s2 k e s3
  have hf : s3.flash.trial = false := by
    have h : Keeps [.flash] [] s1 s2 := State.rest_cabStandby Foot.but_may
    exact (State.trial_coldReset 3).trans (congrArg Flash.trial (h.part .flash))
  have hp : s3.pmr.cause = 3 ∧ s3.pmr.fallback = some reason := ⟨rfl, rfl⟩
  clear_value s3 k e
  obtain ⟨hc, hb⟩ := hp
  obtain ⟨h1, h2⟩ := State.startUp_tells (s := { s3 with cab := k, edc := e }) true
  refine ⟨State.pwr_startUp _, h1.trans ?_, ?_, ?_, h2.trans ?_⟩
  · rw [show ({ s3 with cab := k, edc := e } : State).pmr.cause = 3 from hc]
    rfl
  · rw [State.flash_startUp]
    exact hf
  · rw [State.pmr_startUp]
    exact hb
  · rw [show ({ s3 with cab := k, edc := e } : State).pmr.fallback = some reason from hb]
    rfl

theorem State.wrForce_parts (f : Fld) (i n : Nat) : (s.wrForce f i n).pwr = s.pwr ∧ (s.wrForce f i n).pmr = s.pmr ∧
    (s.wrForce f i n).detected = s.detected := ⟨rfl, rfl, rfl⟩

theorem State.loaded_parts (n : Nat) (l : List Blk) : ((s.loadCore n).release l).pwr = s.pwr ∧
    ((s.loadCore n).release l).pmr.recovery = s.pmr.recovery ∧ ((s.loadCore n).release l).detected = s.detected :=
  ⟨rfl, rfl, rfl⟩

/-- With no image to run the module stays in START with the recovery image, and tells a level 4 fault. -/
theorem State.recover_brings : s.recover.pwr = s.pwr ∧ s.recover.pmr.recovery = true ∧ Releases [.ctl, .eth] s s.recover ∧
    Raised s.recover clsControl 4 unitModule := by
  unfold State.recover
  extract_lets s1
  have h1 : Keeps [.held] [] s s1 :=
    (State.rest_detect Foot.but_may clsControl 4 unitModule none none false).trans (State.rest_pmrUpd Foot.but_may _)
  have h2 : s1.pwr = s.pwr ∧ s1.pmr.recovery = true ∧ Raised s1 clsControl 4 unitModule :=
    ⟨rfl, rfl, _, List.mem_append_right _ (List.mem_singleton.2 rfl), rfl, rfl, rfl⟩
  clear_value s1
  obtain ⟨hp, hr, hd⟩ := h2
  have h3 : Releases [.ctl, .eth] s ((s1.loadCore 3).release [.ctl, .eth]) :=
    (Releases.of_keeps ((State.rest_loadCore Foot.but_may 3).trans h1)).trans (State.releases_release [.ctl, .eth])
  have h4 (y : State) (n : Nat) : Keeps [.held] [] y (y.wrForce .eth_ETH_SPEED 0 n) :=
    State.rest_wrForce (F := Foot.but [.held] []) List.not_mem_nil _
  unfold Raised
  obtain ⟨e1, e2, e3⟩ := State.wrForce_parts (s := (s1.loadCore 3).release [.ctl, .eth]) .eth_ETH_SPEED 0
    (b2n (s1.flash.ethSpeed.getD true))
  obtain ⟨d1, d2, d3⟩ := State.loaded_parts (s := s1) 3 [.ctl, .eth]
  rw [e1, e2, e3, d1, d2, d3]
  exact ⟨hp, hr, h3.keep (h4 _ _), hd⟩

/-! #### Rails that do not come up (R340) -/

/-- What a retry keeps and sets, with the time a its next rail sequence begins at, and the times b and c of its end. -/
def State.retryAt (s : State) (a b c : Nat) : State :=
  { (s.blkRegs Blk.flt.idx).pmrUpd (fun p => { p with railAt := a, upFrom := b, fltFrom := c }) with flt := {}, detected := [] }

theorem State.railRetry_of_due (hp : s.pwr = .start) (hr : s.pmr.recovery = false) (hc : s.pmr.counted = false)
    (ht : s.pmr.railAt + 20 * msFu ≤ s.clock) : s.railRetry =
      s.retryAt (s.pmr.railAt + secFu) (s.pmr.railAt + secFu + 20 * msFu) (s.pmr.railAt + secFu + 22 * msFu) :=
  if_pos (by simp [hp, hr, hc, ht])

theorem State.retryAt_brings (a b c : Nat) : (s.retryAt a b c).pwr = s.pwr ∧ (s.retryAt a b c).pmr.railAt = a ∧
    (s.retryAt a b c).pmr.upFrom = b ∧ (s.retryAt a b c).held = s.held ∧ (s.retryAt a b c).flt = {} ∧
    (s.retryAt a b c).detected = [] ∧ (s.retryAt a b c).pmr.startAt = s.pmr.startAt :=
  ⟨rfl, rfl, rfl, rfl, rfl, rfl, rfl⟩

/-- Rails not in regulation in time: the module waits for the next rail sequence with FLT as it comes out of reset. -/
theorem State.railRetry_brings (hp : s.pwr = .start) (hr : s.pmr.recovery = false) (hc : s.pmr.counted = false)
    (ht : s.pmr.railAt + 20 * msFu ≤ s.clock) : s.railRetry.pwr = .start ∧ s.railRetry.pmr.railAt = s.pmr.railAt + secFu ∧
    s.railRetry.pmr.upFrom = s.pmr.railAt + secFu + 20 * msFu ∧ s.railRetry.held = s.held ∧ s.railRetry.flt = {} ∧
    s.railRetry.detected = [] ∧ s.railRetry.pmr.startAt = s.pmr.startAt := by
  rw [State.railRetry_of_due hp hr hc ht]
  obtain ⟨h1, h⟩ := State.retryAt_brings (s := s) (s.pmr.railAt + secFu) (s.pmr.railAt + secFu + 20 * msFu)
    (s.pmr.railAt + secFu + 22 * msFu)
  exact ⟨h1.trans hp, h⟩

/-- A command brings what its operation, told otherwise, brings at the command's time. -/
theorem brings_of_eq {f : State → State} {P : State → Prop} (he : exec c s = run t f s) (hv : f (s.at t) = v)
    (h : P (v.stamp (s.at t).clock s.pending)) : Brings c s P := by
  subst hv
  exact ⟨_, he, h⟩

end Sys2Proof.Machine
end

open Sys2Proof Sys2Proof.Machine Sys2Proof.Safety in
/-- Settles O6: the supply and the contacts begin a start or reset the module, START_COMPLETE ends it by the image picked, and a
retry takes the rails down and waits again. -/
theorem powerUpCommandsComplete : Obligations.PowerUpCommandsComplete := by
  intro s t
  have hstart (x : StartUp) (hp : s.pwr = .start) (hr : s.pmr.recovery = false) (ht : s.pmr.railAt ≤ (s.at t).clock) :=
    State.startComplete_eq (s := s.at t) x hp hr ht
  refine ⟨fun hp he hr => ?_, ?_, ?_, ?_, fun rstN hp hv hc => ?_, fun x slot trial hp hr ht hb => ?_,
    fun x hp hr ht hb => ?_, fun x hp hr ht hb => ?_, fun hp hr hc ht => ?_⟩
  · exact ⟨_, rfl, State.tryStart_brings (s := (s.at t).pmrUpd (fun p => { p with vin := true })) hp rfl he hr⟩
  · exact brings_off (P := fun p => p.vin = false) (by intro _; exact ⟨rfl, rfl⟩) rfl
      (congrArg Pmr.vin (State.pmr_coldReset 0))
  · exact brings_off (P := fun p => p.pwrEn = false) (by intro _; exact ⟨rfl, rfl⟩) rfl
      (congrArg Pmr.pwrEn (State.pmr_coldReset 0))
  · exact brings_off (P := fun p => p.resetN = false) (by intro _; exact ⟨rfl, rfl⟩) rfl
      (congrArg Pmr.resetN (State.pmr_coldReset 1))
  · refine ⟨_, rfl, ?_⟩
    cases rstN
    · obtain ⟨h1, _, h⟩ := State.tryStart_brings (s := (s.at t).pmrUpd (fun p => { p with pwrEn := true })) hp hv rfl hc
      exact ⟨h1, h⟩
    · obtain ⟨h1, _, h⟩ := State.tryStart_brings (s := (s.at t).pmrUpd (fun p => { p with resetN := true })) hp hv hc rfl
      exact ⟨h1, h⟩
  · have e := hstart x hp hr ht
    rw [show (s.at t).bootPick = .run slot trial from hb] at e
    dsimp only at e
    obtain ⟨hs, hi⟩ := State.image_run (s := s.at t) x slot trial
    have hp := State.pwr_run (s := s.at t) x slot trial
    rw [State.flt_at] at hp
    have hh := State.held_run (s := s.at t) x slot trial
    have hn := State.starts_run (s := s.at t) x slot trial
    generalize (((s.at t).startHead x.march).runSlot slot trial).startRest x = u at e hs hi hp hh hn
    exact brings_of_eq (f := fun s => s.startComplete x) rfl e ⟨hp, hh, hs, hi, hn⟩
  · have e := hstart x hp hr ht
    rw [show (s.at t).bootPick = .again from hb] at e
    dsimp only at e
    have h := State.trialEnd_brings (s := (s.at t).startHead x.march) 0
    generalize ((s.at t).startHead x.march).trialEnd 0 = u at e h
    exact brings_of_eq (f := fun s => s.startComplete x) rfl e h
  · have e := hstart x hp hr ht
    rw [show (s.at t).bootPick = .recovery from hb] at e
    dsimp only at e
    obtain ⟨h1, h2, h3, h4⟩ := State.recover_brings (s := (s.at t).startHead x.march)
    have h0 := h1.trans ((State.pwr_startHead _).trans hp)
    have hl := (State.releases_startHead (s := s.at t) x.march).trans h3
    generalize ((s.at t).startHead x.march).recover = u at e h0 h2 hl h4
    exact brings_of_eq (f := fun s => s.startComplete x) rfl e ⟨h0, h2, fun b hm => hl.out hm, h4⟩
  · have hc' : s.pmr.railAt + 20 * msFu ≤ (s.at t).clock := ht.trans (by rw [State.clock_at]; exact le_max_right _ _)
    have h := State.railRetry_brings (s := s.at t) hp hr hc hc'
    generalize hv : (s.at t).railRetry = u at h
    exact brings_of_eq (f := State.railRetry) rfl hv h

/-! ### What an abort and a drain leave of SEQ (R118, R119) -/

section
namespace Sys2Proof.Machine

open Sys2Proof Safety

set_option Elab.async false

variable {s u : State} {r : Fin 16} {ps : List Part} {fs : List Fld}

/-! #### What the operations of a region leave of SEQ: all but what the region drains (R118) -/

/-- Everything but SEQ. -/
def noSeq : Foot := ⟨(· ≠ .seq), fun _ _ => True, fun _ => True⟩

theorem noSeq_may (h : .seq ∉ ps := by decide +kernel) : noSeq.may ps fs :=
  ⟨fun _ hx e => h (e ▸ hx), fun _ _ _ => trivial⟩

theorem noSeq_at : noSeq.mayAt r fs := ⟨trivial, fun _ _ => trivial⟩

/-- SEQ but for what region r drains. -/
def State.seqBut (r : Fin 16) (s : State) : Seq := { s.seq with draining := s.seq.draining.set r 0 }

/-- The same of what an operation leaves but for SEQ, so that the operations that do not reach SEQ are found by rewriting. -/
def seqButOf (r : Fin 16) : Quotient noSeq.setoid → Seq :=
  Quotient.lift (State.seqBut r) fun s u (h : Within noSeq s u) => by
    have e : u.seq = s.seq := h.parts .seq (by simp [noSeq])
    simp only [State.seqBut, e]

theorem seqButOf_rest (r : Fin 16) (s : State) : seqButOf r (rest noSeq s) = s.seqBut r := rfl

theorem seqBut_ite (c : Prop) [Decidable c] (a b : Quotient noSeq.setoid) :
    seqButOf r (if c then a else b) = if c then seqButOf r a else seqButOf r b := apply_ite ..

theorem seqBut_foldl {α : Type} {f : State → α → State}
    (hf : ∀ x a, seqButOf r (rest noSeq (f x a)) = seqButOf r (rest noSeq x)) (l : List α) :
    seqButOf r (rest noSeq (l.foldl f s)) = seqButOf r (rest noSeq s) := by
  induction l generalizing s with
  | nil => rfl
  | cons a l ih => exact ih.trans (hf s a)

theorem seqBut_when {f : State → State} (hf : ∀ x, seqButOf r (rest noSeq (f x)) = seqButOf r (rest noSeq x)) (c : Bool) :
    seqButOf r (rest noSeq (s.when c f)) = seqButOf r (rest noSeq s) := by
  cases c
  · rfl
  · exact hf s

theorem State.seqBut_noteFinal (k : Nat) : seqButOf r (rest noSeq (s.noteFinal r k)) = seqButOf r (rest noSeq s) := by
  unfold State.noteFinal
  rw [State.rest_cmpDrained noSeq_may noSeq_at]
  simp only [seqButOf_rest, State.seqBut, Vector.set_set]

theorem State.seqBut_closePkt (flags : Nat) (trunc final : Bool) :
    seqButOf r (rest noSeq (s.closePkt r flags trunc final)) = seqButOf r (rest noSeq s) := by
  unfold State.closePkt
  dsimp only
  split <;> simp only [State.wrB_eq, State.bump_eq, rest_wr .cmpr_PKT_CNT noSeq_may, rest_wr .cmpr_TRUNC_SEEN noSeq_may,
    rest_wr .cmpr_TRUNC_CNT noSeq_may, rest_wr .cmpr_PREEMPT_CNT noSeq_may, rest_wr .cmpr_ACT_KIND noSeq_may,
    State.rest_emitChunk noSeq_may noSeq_at, State.rest_unstall noSeq_may noSeq_at, State.rest_setOpen noSeq_may noSeq_at,
    State.rest_setCtx noSeq_may noSeq_at, State.rest_addBytes (F := noSeq) (fun _ _ => trivial), State.seqBut_noteFinal,
    State.rest_closeItem noSeq_may, rest_ite, seqBut_ite, ite_self]

theorem State.seqBut_evClose (flags : Nat) (trunc final : Bool) :
    seqButOf r (rest noSeq (s.evClose r flags trunc final)) = seqButOf r (rest noSeq s) := by
  unfold State.evClose
  rw [State.rest_setCmpR noSeq_may noSeq_at, State.seqBut_closePkt]

theorem State.seqBut_emptyFinal {kind tick : Nat} (he : s.emptyFinal r kind tick = some u) :
    seqButOf r (rest noSeq u) = seqButOf r (rest noSeq s) := by
  unfold State.emptyFinal at he
  obtain ⟨v, hv, rfl⟩ := Option.map_eq_some_iff.1 he
  rw [State.seqBut_closePkt, State.rest_openPkt noSeq_may noSeq_at hv]

theorem State.seqBut_evEnd {k : Nat} {final : Bool} (he : s.evEnd r k final = some u) :
    seqButOf r (rest noSeq u) = seqButOf r (rest noSeq s) := by
  unfold State.evEnd at he
  dsimp only at he
  split at he
  · cases he
    rw [State.rest_setCmpR noSeq_may noSeq_at, State.rest_blockEnd noSeq_may noSeq_at, State.seqBut_evClose]
  · split at he
    · obtain ⟨v, hv, rfl⟩ := Option.map_eq_some_iff.1 he
      rw [State.rest_setCmpR noSeq_may noSeq_at, State.rest_blockEnd noSeq_may noSeq_at, State.seqBut_emptyFinal hv]
    · cases he
      simp only [State.rest_setCmpR noSeq_may noSeq_at, State.rest_blockEnd noSeq_may noSeq_at,
        State.rest_ctxReady noSeq_may noSeq_at, rest_ite, ite_self]
  · split at he
    · exact State.seqBut_emptyFinal he
    · cases he
      rfl

theorem State.seqBut_evStep : seqButOf r (rest noSeq (s.evStep r).1) = seqButOf r (rest noSeq s) := by
  unfold State.evStep
  dsimp only
  split
  · rfl
  · split
    · split
      next he => exact State.seqBut_evEnd he
      · rw [State.rest_stall noSeq_may noSeq_at]
    · split
      next he => rw [State.rest_setCmpR noSeq_may noSeq_at, State.rest_setCmpR noSeq_may noSeq_at, State.seqBut_evEnd he]
      · rw [State.rest_stall noSeq_may noSeq_at]
  · split
    · simp only [State.bump_eq, rest_wr .cmpr_TRUNC_ELEMS noSeq_may, State.rest_setCmpR noSeq_may noSeq_at,
        State.rest_ringDrop noSeq_may]
    · split
      · split
        next he => exact State.seqBut_evEnd he
        · rw [State.rest_stall noSeq_may noSeq_at]
      · split
        · split
          next he => rw [State.rest_unstall noSeq_may noSeq_at, State.rest_openPkt noSeq_may noSeq_at he,
              State.rest_evBlk noSeq_may noSeq_at]
          · rw [State.rest_stall noSeq_may noSeq_at, State.rest_evBlk noSeq_may noSeq_at]
        · split
          · rfl
          · split <;> simp only [State.rest_setCmpR noSeq_may noSeq_at, State.rest_stall noSeq_may noSeq_at,
              State.rest_unstall noSeq_may noSeq_at, State.rest_askRoom noSeq_may, State.rest_ringPut noSeq_may,
              State.rest_setOpen noSeq_may noSeq_at, rest_elim, implies_true]

theorem State.seqBut_evRun (n : Nat) : seqButOf r (rest noSeq (s.evRun r n)) = seqButOf r (rest noSeq s) := by
  induction n generalizing s with
  | zero => rfl
  | succ n ih =>
    unfold State.evRun
    have hs := State.seqBut_evStep (s := s) (r := r)
    split
    next he => exact ih.trans (by rw [← hs, he])
    next he => rw [← hs, he]

theorem State.seqBut_openJob : seqButOf r (rest noSeq (s.openJob r)) = seqButOf r (rest noSeq s) := by
  unfold State.openJob
  dsimp only
  split
  · rfl
  · split
    · split
      next he => rw [State.rest_setCmpR noSeq_may noSeq_at, State.rest_unstall noSeq_may noSeq_at, State.seqBut_emptyFinal he]
      · rw [State.rest_stall noSeq_may noSeq_at]
    · split
      · rw [State.rest_stall noSeq_may noSeq_at]
      next he => simp only [State.rest_openPkt noSeq_may noSeq_at he, State.rest_setCmpR noSeq_may noSeq_at,
          State.rest_unstall noSeq_may noSeq_at, State.rest_blockStart noSeq_may noSeq_at, rest_when, implies_true]

theorem State.seqBut_pump : seqButOf r (rest noSeq (s.pump r)) = seqButOf r (rest noSeq s) := by
  unfold State.pump
  rw [State.rest_accStage noSeq_may noSeq_at]
  dsimp only
  split
  · simp only [State.seqBut_evRun, State.rest_admitFrame noSeq_may noSeq_at, rest_ite, seqBut_ite, ite_self]
  · split
    · exact State.seqBut_evRun _
    · split <;> simp only [State.seqBut_evRun, State.rest_admitFrame noSeq_may noSeq_at, State.seqBut_openJob, rest_ite,
        seqBut_ite, ite_self]

theorem State.seqBut_chunkComplete : seqButOf r (rest noSeq (s.chunkComplete r)) = seqButOf r (rest noSeq s) := by
  unfold State.chunkComplete
  split
  · split
    · rfl
    · dsimp only
      split
      · simp only [State.seqBut_pump, rest_ite, seqBut_ite, State.seqBut_evClose, State.rest_emitChunk noSeq_may noSeq_at,
          ite_self]
      · split
        · split <;> simp only [State.seqBut_pump, State.seqBut_closePkt, State.rest_emitChunk noSeq_may noSeq_at,
            State.rest_jobEnd noSeq_may noSeq_at, State.rest_setCmpR noSeq_may noSeq_at, rest_ite, ite_self]
        · rw [State.seqBut_pump, State.rest_emitChunk noSeq_may noSeq_at]
  · rfl

theorem State.seqBut_encodeAll : seqButOf r (rest noSeq (s.encodeAll r)) = seqButOf r (rest noSeq s) :=
  seqBut_foldl (fun _ _ => State.seqBut_chunkComplete) _

theorem State.seqBut_submit (j : Job) : seqButOf r (rest noSeq (s.submit r j)) = seqButOf r (rest noSeq s) := by
  unfold State.submit
  dsimp only
  rw [State.seqBut_pump, State.rest_setCmpR noSeq_may noSeq_at]
  split
  · split
    · split
      · split
        · split
          next he => rw [State.seqBut_evEnd he, State.rest_setCmpR noSeq_may noSeq_at]
          · exact State.seqBut_evClose _ _ _
        · exact State.seqBut_evClose _ _ _
      · exact State.seqBut_evClose _ _ _
    · rfl
  · rfl

theorem State.seqBut_accOutput (f : Frame) (acc : Sp) (sat n : Nat) (cut : Bool) :
    seqButOf r (rest noSeq (s.accOutput r f acc sat n cut)) = seqButOf r (rest noSeq s) := by
  simp only [State.accOutput, State.seqBut_submit, State.wrB_eq, State.bump_eq, rest_wr .accr_ACC_FRAMES noSeq_may,
    rest_wr .accr_PARTIAL noSeq_may, rest_wr .accr_ACC_PARTIAL_CNT noSeq_may, State.rest_upRec noSeq_may,
    State.rest_daily noSeq_may, rest_when, rest_ite, ite_self, implies_true]

theorem State.seqBut_accFrame (f : Frame) (px : Sp) (n : Nat) (cut : Bool) :
    seqButOf r (rest noSeq (s.accFrame r f px n cut)) = seqButOf r (rest noSeq s) := by
  simp only [State.accFrame, rest_ite, seqBut_ite, State.seqBut_accOutput, State.rest_setAccR noSeq_may noSeq_at, ite_self]

theorem State.seqBut_accJumped (f : Frame) : seqButOf r (rest noSeq (s.accJumped r f)) = seqButOf r (rest noSeq s) := by
  simp only [State.accJumped, rest_ite, seqBut_ite, seqBut_when, State.seqBut_submit, State.rest_headFlag noSeq_may,
    State.rest_upRec noSeq_may, State.rest_setAccR noSeq_may noSeq_at, State.seqBut_accFrame, implies_true, ite_self]

theorem State.seqBut_emptyEnds (f : Frame) : seqButOf r (rest noSeq (s.emptyEnds r f)) = seqButOf r (rest noSeq s) := by
  simp only [State.emptyEnds, rest_ite, seqBut_when, State.seqBut_submit, State.rest_headFlag noSeq_may, implies_true,
    ite_self]

theorem State.seqBut_cutEnds (f : Frame) : seqButOf r (rest noSeq (s.cutEnds r f)) = seqButOf r (rest noSeq s) := by
  simp only [State.cutEnds, seqBut_when, State.seqBut_submit, State.seqBut_emptyEnds, implies_true]

theorem State.seqBut_lostFrame (f : Frame) : seqButOf r (rest noSeq (s.lostFrame r f)) = seqButOf r (rest noSeq s) := by
  simp only [State.lostFrame, rest_ite, seqBut_ite, State.seqBut_emptyEnds, State.seqBut_accJumped, State.seqBut_accFrame,
    ite_self]

theorem State.seqBut_frameOut (f : Frame) (n : Nat) (cut : Bool) :
    seqButOf r (rest noSeq (s.frameOut r f n cut)) = seqButOf r (rest noSeq s) := by
  simp only [State.frameOut, rest_ite, seqBut_ite, rest_when, State.seqBut_submit, State.seqBut_accFrame,
    State.rest_headFlag noSeq_may, State.rest_daily noSeq_may, implies_true, ite_self]

theorem State.seqBut_cutTransfer : seqButOf r (rest noSeq (s.cutTransfer r)) = seqButOf r (rest noSeq s) := by
  unfold State.cutTransfer
  dsimp only
  split
  · rfl
  · simp only [rest_ite, seqBut_ite, State.seqBut_cutEnds, State.seqBut_lostFrame, State.seqBut_frameOut,
      State.rest_setPfeR noSeq_may noSeq_at, State.rest_upRec noSeq_may, State.rest_accCut noSeq_may noSeq_at,
      State.rest_setAccR noSeq_may noSeq_at, ite_self]

theorem State.seqBut_cmpCut : seqButOf r (rest noSeq (s.cmpCut r)) = seqButOf r (rest noSeq s) := by
  simp only [State.cmpCut, State.seqBut_closePkt, rest_wr .cmpr_ACT_KIND noSeq_may, State.rest_headFlag noSeq_may,
    State.rest_unstall noSeq_may noSeq_at, State.rest_dropInq noSeq_may noSeq_at, State.rest_setCmpR noSeq_may noSeq_at,
    State.rest_ctxReady noSeq_may noSeq_at, rest_each, implies_true]

theorem State.seqBut_cmpAbort : seqButOf r (rest noSeq (s.cmpAbort r)) = seqButOf r (rest noSeq s) := by
  simp only [State.cmpAbort, State.rest_accStage noSeq_may noSeq_at, State.rest_setCmpR noSeq_may noSeq_at,
    State.seqBut_cmpCut]

theorem State.seqBut_frameAbort : seqButOf r (rest noSeq (s.frameAbort r)) = seqButOf r (rest noSeq s) := by
  simp only [State.frameAbort, rest_wr .accr_SUB_IDX noSeq_may, State.rest_setAccR noSeq_may noSeq_at,
    State.rest_setEvbR noSeq_may, State.rest_setPfeR noSeq_may noSeq_at, State.seqBut_encodeAll, State.seqBut_cutTransfer,
    State.seqBut_cmpCut]

/-! #### The abort of a region (R119) -/

/-- REGION_ABORT but for what it writes in SEQ and the enables it clears. -/
def State.abortHead (s : State) (r : Fin 16) : State :=
  let s := (((s.dropWins r).dropQueue r).evbDrop r)
  let s := ((((s.frameAbort r).hstAbort r).winAbort r).cmpAbort r)
  let s := s.upRec r s.seq.k (fun c => { c with cut := true })
  let s := s.setPfeR r { s.pfeR r with hold := [], testEnd := [], finalOwed := false, injDue := [], injLeft := 0, injSync := 0 }
  let s := s.setTdcR r { s.tdcR r with draining := false, endTick := none }
  s.headFlag r s.seq.k hfTrunc

/-- The enables that an abort clears. -/
def State.disabled (s : State) (r : Fin 16) : State :=
  ((s.wrB .tdcr_TDC_EN r false).wrB .pfer_FE_EN r false).wrB .pfer_INJ_EN r false

/-- What an abort leaves in SEQ. -/
def State.aborts (s : State) (r : Fin 16) : State :=
  { s with seq := { s.seq with
      zero := setBit s.seq.zero r true
      safeKeep := setBit s.seq.safeKeep r false
      aborted := if s.mode r = 0 then s.seq.aborted else setBit s.seq.aborted r true
      draining := s.seq.draining.set r 0
      drainOrd := setBit s.seq.drainOrd r false } }

theorem State.regionAbort_eq (r : Fin 16) : s.regionAbort r = ((s.abortHead r).disabled r).aborts r := by rfl

theorem State.seqBut_abortHead : (s.abortHead r).seqBut r = s.seqBut r := by
  simp only [← seqButOf_rest, State.abortHead, State.rest_headFlag noSeq_may, State.rest_setTdcR noSeq_may noSeq_at,
    State.rest_setPfeR noSeq_may noSeq_at, State.rest_upRec noSeq_may, State.seqBut_cmpAbort, State.rest_winAbort noSeq_may,
    State.rest_hstAbort noSeq_may noSeq_at, State.seqBut_frameAbort, State.rest_evbDrop noSeq_may noSeq_at,
    State.rest_dropQueue noSeq_may noSeq_at, State.rest_dropWins noSeq_may noSeq_at]

theorem State.seq_disabled : (s.disabled r).seq = s.seq := by simp only [State.disabled, State.wrB_eq, State.seq_wr]

/-- The abort of a region sets its bit of zero, clears that of drainOrd and what it drains, and reaches no other region's. -/
theorem State.seq_regionAbort (r : Fin 16) : (s.regionAbort r).seq.zero = setBit s.seq.zero r true ∧
    (s.regionAbort r).seq.drainOrd = setBit s.seq.drainOrd r false ∧
    (s.regionAbort r).seq.draining = s.seq.draining.set r 0 := by
  have h : ((s.abortHead r).disabled r).seqBut r = s.seqBut r := by
    rw [← State.seqBut_abortHead (s := s)]
    simp only [State.seqBut, State.seq_disabled]
  rw [State.regionAbort_eq]
  generalize (s.abortHead r).disabled r = u at h
  have hz : (u.seqBut r).zero = (s.seqBut r).zero := congrArg Seq.zero h
  have ho : (u.seqBut r).drainOrd = (s.seqBut r).drainOrd := congrArg Seq.drainOrd h
  have hd : (u.seqBut r).draining = (s.seqBut r).draining := congrArg Seq.draining h
  simp only [State.seqBut] at hz ho hd
  simp only [State.aborts, hz, ho, hd, and_self]

/-- The enables of region r are kept by what reaches no field of it. -/
def enablesOf (r : Fin 16) : Foot :=
  ⟨fun _ => True, fun f i => ¬ (f ∈ [.pfer_FE_EN, .tdcr_TDC_EN] ∧ i = r.val), fun _ => True⟩

theorem State.enables_regionAbort {q : Fin 16} (h : q ≠ r) :
    (s.regionAbort q).flag .pfer_FE_EN r = s.flag .pfer_FE_EN r ∧
      (s.regionAbort q).flag .tdcr_TDC_EN r = s.flag .tdcr_TDC_EN r := by
  have hi : ∀ f ∈ fabricRegs ++ feedRegs ++ [Fld.eth_DLY_DROP, Fld.eth_EVQ_LOST, Fld.eth_NEXT_PSN, Fld.eth_QP_PI,
      Fld.trg_TRG_FINAL], f ∉ [Fld.pfer_FE_EN, .tdcr_TDC_EN] := by decide +kernel
  have hq : (q : Nat) ≠ r := fun e => h (Fin.ext e)
  have hr : rest (enablesOf r) (s.regionAbort q) = rest (enablesOf r) s :=
    State.rest_regionAbort ⟨fun _ _ => trivial, fun f hf _ hn => hi f hf hn.1⟩ ⟨trivial, fun _ _ hn => hq hn.2⟩
  have hf (f : Fld) (hf : f ∈ [Fld.pfer_FE_EN, .tdcr_TDC_EN]) : (s.regionAbort q).rd f r = s.rd f r :=
    ((rest_eq_iff.1 hr).regs f r (not_not.2 ⟨hf, rfl⟩)).1
  exact ⟨congrArg (· != 0) (hf _ (by decide)), congrArg (· != 0) (hf _ (by decide))⟩

theorem State.enables_disabled : (s.disabled r).flag .pfer_FE_EN r = false ∧ (s.disabled r).flag .tdcr_TDC_EN r = false := by
  have h (f : Fld) (g : Fld) (x : State) (hg : g ≠ f) : (x.wrB g r false).flag f r = x.flag f r := by
    simp [State.wrB, State.flag, State.rd_wr, hg]
  unfold State.disabled
  rw [h .pfer_FE_EN .pfer_INJ_EN _ (by decide), h .tdcr_TDC_EN .pfer_INJ_EN _ (by decide),
    h .tdcr_TDC_EN .pfer_FE_EN _ (by decide)]
  exact ⟨State.flag_wrB _ _ _ rfl rfl, State.flag_wrB _ _ _ rfl rfl⟩

theorem State.flag_aborts (f : Fld) (i : Nat) : (s.aborts r).flag f i = s.flag f i := by rfl

/-- Region r is aborted: its modes are cleared, nothing of it drains, and its front end and its converters are disabled. -/
structure Aborted (r : Fin 16) (s : State) : Prop where
  zero : bit s.seq.zero r = true
  drainOrd : bit s.seq.drainOrd r = false
  draining : s.seq.draining[r] = 0
  frontEnd : s.flag .pfer_FE_EN r = false
  tdc : s.flag .tdcr_TDC_EN r = false

theorem State.aborted_regionAbort (r : Fin 16) : Aborted r (s.regionAbort r) := by
  obtain ⟨hz, ho, hd⟩ := s.seq_regionAbort r
  obtain ⟨hf, ht⟩ := (s.abortHead r).enables_disabled (r := r)
  refine ⟨by simp [hz, bit_setBit], by simp [ho, bit_setBit], by simp [hd], ?_, ?_⟩
  · rw [State.regionAbort_eq, State.flag_aborts, hf]
  · rw [State.regionAbort_eq, State.flag_aborts, ht]

/-- The abort of a further region leaves an aborted region aborted. -/
theorem Aborted.regionAbort (h : Aborted r s) (q : Fin 16) : Aborted r (s.regionAbort q) := by
  by_cases hq : q = r
  · subst hq
    exact State.aborted_regionAbort q
  · have hi : (r : Nat) ≠ q := fun e => hq (Fin.ext e.symm)
    obtain ⟨hz, ho, hd⟩ := s.seq_regionAbort q
    obtain ⟨hf, ht⟩ := s.enables_regionAbort hq
    refine ⟨?_, ?_, ?_, hf.trans h.frontEnd, ht.trans h.tdc⟩
    · rw [hz, bit_setBit, if_neg hi, h.zero]
    · rw [ho, bit_setBit, if_neg hi, h.drainOrd]
    · simp only [hd, Fin.getElem_fin, Vector.getElem_set, if_neg hi.symm]
      exact h.draining

theorem State.each_cons {α : Type} (a : α) (l : List α) (f : α → State → State) :
    s.each (a :: l) f = (f a s).each l f := by rfl

theorem State.aborted_regionsAbort {m : Nat} (hm : bit m r = true) : Aborted r (s.regionsAbort m) := by
  have hl (l : List (Fin 16)) (hr : r ∈ l) (s : State) : Aborted r (s.each l fun q s => s.regionAbort q) := by
    induction l generalizing s with
    | nil => cases hr
    | cons q l ih =>
      rw [State.each_cons]
      by_cases hq : r = q
      · subst hq
        exact keeps_each (P := Aborted r) l (fun q _ h => h.regionAbort q) (State.aborted_regionAbort r)
      · exact ih ((List.mem_cons.1 hr).resolve_left hq) _
  exact hl _ (List.mem_filter.2 ⟨List.mem_finRange r, hm⟩) s

/-! #### A region's drain done (R118) -/

theorem State.regionDrainDone_brings (ho : bit s.seq.drainOrd r = true) (hd : s.seq.draining[r] = 0) :
    (s.regionDrainDone r).rdBit .seq_REGION_FINAL 0 r = true ∧ bit (s.regionDrainDone r).seq.drainOrd r = false := by
  unfold State.regionDrainDone
  rw [if_pos (by simp [ho, hd])]
  refine ⟨?_, ?_⟩
  · have h : (s.wrBit .seq_REGION_FINAL 0 r true).rd .seq_REGION_FINAL 0 = setBit (s.rd .seq_REGION_FINAL) r true % 2 ^ 16 := by
      rw [State.wrBit, State.rd_wr, if_pos ⟨rfl, rfl⟩]
      rfl
    change bit ((s.wrBit .seq_REGION_FINAL 0 r true).rd .seq_REGION_FINAL 0) r = true
    rw [h, bit_mod _ _ _ r.isLt, bit_setBit, if_pos rfl]
  · exact (bit_setBit _ _ _ _).trans (if_pos rfl)

end Sys2Proof.Machine
end

/-! ### The boundaries of the ticks: the tick in force and its beginning (R10, R12, R14) -/

section
namespace Sys2Proof.Machine

open Sys2Proof Safety

set_option Elab.async false

variable {s : State} {k : Nat} {a : Option Nat} {x : Int}

/-! #### The tick in force, its boundary and its beginning (R10, R12, R14) -/

/-- Tick k goes on, which began at x, and the last boundary was at a. -/
def AtTick (k : Nat) (a : Option Nat) (x : Int) (s : State) : Prop := s.seq.k = k ∧ s.seq.boundaryAt = a ∧ s.seq.start = x

theorem closed_atTick (k : Nat) (a : Option Nat) (x : Int) : Closed (AtTick k a x) where
  same c h := ⟨c.k.trans h.1, c.at_.trans h.2.1, c.start.trans h.2.2⟩
  wr f i v h := by simpa only [AtTick, State.seq_wr] using h
  wrSh _ _ _ h := h
  wrForce _ _ _ h := h

theorem State.relayDue_atTick (n : Nat) (hs : AtTick k a x s) : AtTick k a x (s.relayDue n) := by
  have C := closed_atTick k a x
  unfold State.relayDue
  split
  · refine keeps_ite ?_ hs
    exact C.wr _ _ _ (C.wr _ _ _ (C.wr _ _ _ (C.wr _ _ _ hs)))
  · exact hs

theorem State.modeClear_atTick (r : Fin 16) (n : Nat) (drain : Bool) (hs : AtTick k a x s) :
    AtTick k a x (s.modeClear r n drain) := by
  have C := closed_atTick k a x
  unfold State.modeClear
  extract_lets m w s1 _ s2
  have h1 : AtTick k a x s1 := keeps_ite (C.wr _ _ _ hs) (C.wr _ _ _ hs)
  have h2 : AtTick k a x s2 := h1
  clear_value s1 s2
  exact keeps_ite (State.accChange_keeps C _ _ _ _ _ (State.modeChange_keeps C _ _ _ _ h2))
    (State.upRec_keeps C _ _ _ (keeps_when (fun _ h => State.gateIdx_keeps C _ _ _ _ h) h2))

/-- A region whose mode is cleared at the boundary, or drains from it. -/
theorem State.modeCleared_atTick (r : Fin 16) (n : Nat) {c d : Bool} {v : State} (hv : AtTick k a x v) (hs : AtTick k a x s) :
    AtTick k a x (if c then s.modeClear r n false else if d then v.modeClear r n true else s) :=
  keeps_ite (State.modeClear_atTick _ _ _ hs) (keeps_ite (State.modeClear_atTick _ _ _ hv) hs)

theorem State.tickRegion_atTick (r : Fin 16) (n : Nat) (y z : Int) (marks : Nat) (gone into : Bool) (hs : AtTick k a x s) :
    AtTick k a x (s.tickRegion r n y z marks gone into) := by
  have C := closed_atTick k a x
  unfold State.tickRegion
  extract_lets m late s1 s2 s3 s4 s5 s6 s7
  have h1 : AtTick k a x s1 := 
    keeps_ite (State.detect_keeps C _ _ _ _ _ _ (State.headFlag_keeps C _ _ _ (State.bump_keeps C _ _ _ hs))) hs
  have h2 : AtTick k a x s2 := keeps_on (fun _ h => State.newRec_keeps C _ _ _ _ h) h1
  have h3 : AtTick k a x s3 := keeps_on (fun _ h => State.injCount_keeps C _ (State.swapAt_keeps C _ _ _ _ _ h)) h2
  have h4 : AtTick k a x s4 := State.modeCleared_atTick _ _ (keeps_on (fun _ h => State.accBoundary_keeps C _ _ h) h3) h3
  have h5 : AtTick k a x s5 := keeps_on (fun _ h => keeps_ite
    (State.upRec_keeps C _ _ _ (State.hotBoundary_keeps C _ h))
    (State.injTick_keeps C _ _ _ (State.upRec_keeps C _ _ _ (State.hotBoundary_keeps C _ h)))) h4
  clear_value s5
  exact keeps_on (fun _ h => State.ctxBoundary_keeps C _ h) (keeps_on (fun _ h => State.accBoundary_keeps C _ _ h)
    (keeps_on (fun _ h => State.gateBoundary_keeps C _ _ _ _ h) h5))

/-- At the boundary of tick n that tick begins. -/
theorem State.boundary_atTick (n : Nat) (y : Int) (stepped gone into : Bool) :
    AtTick n (some s.clock) y (s.boundary n y stepped gone into) := by
  have C := closed_atTick n (some s.clock) y
  unfold State.boundary
  extract_lets marks cut bad s1 s2 s3 marks' s4 s5 _ s6 s7 y' s8 s9
  have h1 : AtTick n (some s.clock) y s1 := State.relayDue_atTick _ ⟨rfl, rfl, rfl⟩
  have h2 : AtTick n (some s.clock) y s2 := C.wr _ _ _ h1
  have h3 : AtTick n (some s.clock) y s3 := keeps_ite (State.emit_keeps C _ _ h2) h2
  have h5 : AtTick n (some s.clock) y s5 :=
    keeps_ite (keeps_each _ (fun _ _ h => State.headFlag_keeps C _ _ _ h) h3) h3
  have h6 : AtTick n (some s.clock) y s6 := h5
  have h7 : AtTick n (some s.clock) y s7 := keeps_ite (State.gapOwn_keeps C _ _ _ _ h6) h6
  have h8 : AtTick n (some s.clock) y s8 :=
    keeps_each _ (fun _ _ h => State.tickRegion_atTick _ _ _ _ _ _ _ h) (State.tdcTick_keeps C h7)
  clear_value s3 s8
  have h9 : AtTick n (some s.clock) y s9 := h8
  clear_value s9
  refine keeps_ite (keeps_on (fun _ h => State.featBoundary_keeps C _ h) (State.hkaTick_keeps C ?_))
    (keeps_on (fun _ h => State.takeBoundary_keeps C _ h) (State.onceTick_keeps C _ h9))
  exact keeps_each _ (fun _ _ h => State.setEvbR_keeps C _ _ h) h3

/-! #### The boundaries that a tick, the pacing and a schedule bring -/

theorem State.lt_nextTick : s.seq.k < s.nextTick := by
  unfold State.nextTick
  dsimp only
  split
  · split
    next h => exact lt_of_lt_of_le (Nat.lt_succ_self _) (by simp only [Bool.and_eq_true, decide_eq_true_eq] at h; omega)
    · exact Nat.lt_succ_self _
  · exact Nat.lt_succ_self _

/-- The boundary of the tick that follows, as TICK_BOUNDARY runs it for each tick it brings. -/
def State.nextBoundary (s : State) (y : Int) (n j : Nat) : State :=
  s.boundary (s.seq.k + 1) (s.coarseOf y) false (j != 0) (s.seq.k + 1 < n)

/-- m boundaries, one behind another, bring the m-th tick from here. -/
theorem boundaries_bring (y : Int) (n m : Nat) (hm : 0 < m) :
    ((List.range m).foldl (fun u j => u.nextBoundary y n j) s).seq.k = s.seq.k + m ∧
      ((List.range m).foldl (fun u j => u.nextBoundary y n j) s).seq.boundaryAt = some s.clock := by
  have h (m : Nat) : ((List.range m).foldl (fun u j => u.nextBoundary y n j) s).clock = s.clock ∧
      ((List.range m).foldl (fun u j => u.nextBoundary y n j) s).seq.k = s.seq.k + m := by
    induction m with
    | zero => exact ⟨rfl, rfl⟩
    | succ m ih =>
      obtain ⟨hc, hk⟩ := ih
      rw [List.range_succ, List.foldl_append]
      refine ⟨(State.clock_boundary _ _ _ _ _).trans hc, (State.boundary_atTick _ _ _ _ _).1.trans ?_⟩
      rw [hk, Nat.add_assoc]
  obtain ⟨m, rfl⟩ := Nat.exists_eq_add_one.2 hm
  obtain ⟨hc, hk⟩ := h m
  rw [List.range_succ, List.foldl_append, ← Nat.add_assoc, ← hk, ← hc]
  obtain ⟨h1, h2, _⟩ := State.boundary_atTick
    (s := (List.range m).foldl (fun u j => u.nextBoundary y n j) s) _ _ false (m != 0) _
  exact ⟨h1, h2⟩

theorem State.tickBoundary_brings (hr : s.running = true) (hp : s.paced = true) (ht : s.tickTime s.nextTick ≤ s.tbNow) :
    s.tickBoundary.seq.k = s.nextTick ∧ s.tickBoundary.seq.boundaryAt = some s.clock := by
  have e : s.tickBoundary = (List.range (s.nextTick - s.seq.k)).foldl
      (fun u j => u.nextBoundary (s.tickTime s.nextTick) s.nextTick j) s := if_pos (by simp [hr, hp, ht])
  obtain ⟨hk, ha⟩ := boundaries_bring (s := s) (s.tickTime s.nextTick) s.nextTick (s.nextTick - s.seq.k)
    (Nat.sub_pos_of_lt State.lt_nextTick)
  rw [e]
  exact ⟨hk.trans (Nat.add_sub_cancel' State.lt_nextTick.le), ha⟩

theorem State.pacing_brings (hr : s.running = false) (hp : s.paced = true)
    (hd : ∀ b, s.seq.boundaryAt = some b → b + msFu ≤ s.clock) : AtTick s.seq.k (some s.clock) s.local_ s.pacing := by
  have C := closed_atTick s.seq.k (some s.clock) s.local_
  unfold State.pacing
  extract_lets due s1 s2 s3
  have hdue : due = true := by
    unfold due
    split
    next b hb => exact decide_eq_true (hd b hb)
    · rfl
  rw [if_pos (by simp [hr, hp, hdue])]
  have h1 : AtTick s.seq.k (some s.clock) s.local_ s1 := ⟨rfl, rfl, rfl⟩
  clear_value s1
  have h2 : AtTick s.seq.k (some s.clock) s.local_ s2 := keeps_each _ (fun r x h =>
    keeps_on (fun _ h => State.ctxBoundary_keeps C _ h) (keeps_on (fun _ h => State.hotBoundary_keeps C _ h)
      (State.modeCleared_atTick _ _ h h))) (State.tdcTick_keeps C h1)
  clear_value s2
  have h3 : AtTick s.seq.k (some s.clock) s.local_ s3 := h2
  clear_value s3
  exact keeps_ite (keeps_on (fun _ h => State.featBoundary_keeps C _ h) (State.hkaTick_keeps C h1)) (State.onceTick_keeps C _ h3)

theorem State.scheduleStart_brings {g : Seg} {l : List Seg} (hs : s.seq.segs = g :: l) (hr : s.running = false)
    (hp : s.paced = true) (ht : s.tickTime g.first ≤ s.tbNow) :
    AtTick g.first (some s.clock) (s.coarseOf (s.tickTime g.first)) s.scheduleStart := by
  have C := closed_atTick g.first (some s.clock) (s.coarseOf (s.tickTime g.first))
  unfold State.scheduleStart State.scheduleBegin
  split
  next h => exact absurd (hs.symm.trans h) (by simp)
  next g' l' h =>
  obtain ⟨rfl, rfl⟩ := List.cons.inj (hs.symm.trans h)
  extract_lets k x into s1 s2 s3 quiet y marks s4 s5
  rw [if_pos (by simp [hr, hp, ht, k])]
  have h1 : AtTick g.first (some s.clock) (s.coarseOf (s.tickTime g.first)) s1 := ⟨rfl, rfl, rfl⟩
  clear_value s1
  have h3 : AtTick g.first (some s.clock) (s.coarseOf (s.tickTime g.first)) s3 :=
    keeps_each _ (fun _ _ h => State.setEvbR_keeps C _ _ h) (C.wr _ _ _ (State.wrB_keeps C _ _ _ h1))
  clear_value s3
  have hq (z : State) (hz : AtTick g.first (some s.clock) (s.coarseOf (s.tickTime g.first)) z) :
      AtTick g.first (some s.clock) (s.coarseOf (s.tickTime g.first)) (quiet z) := hz
  have h4 : AtTick g.first (some s.clock) (s.coarseOf (s.tickTime g.first)) s4 := by
    refine keeps_each _ (fun r z h => ?_) (State.tdcTick_keeps C h3)
    extract_lets z1 z2 z3
    have hz1 : AtTick g.first (some s.clock) (s.coarseOf (s.tickTime g.first)) z1 :=
      keeps_on (fun _ h => State.newRec_keeps C _ _ _ _ h) h
    have hz2 : AtTick g.first (some s.clock) (s.coarseOf (s.tickTime g.first)) z2 := State.modeCleared_atTick r k hz1 hz1
    have hz3 : AtTick g.first (some s.clock) (s.coarseOf (s.tickTime g.first)) z3 := by
      refine keeps_on (fun w h => ?_) hz2
      have hw := State.hotBoundary_keeps C r (State.setPfeR_keeps C r { w.pfeR r with counts := [], next := [], injIssued := 0 } h)
      exact keeps_ite hw (State.injTick_keeps C _ _ _ hw)
    exact keeps_on (fun _ h => State.ctxBoundary_keeps C _ h) hz3
  clear_value s4
  have h5 : AtTick g.first (some s.clock) (s.coarseOf (s.tickTime g.first)) s5 := hq s4 h4
  clear_value s5
  exact keeps_ite (keeps_on (fun _ h => State.featBoundary_keeps C _ h) (State.hkaTick_keeps C (hq s3 h3)))
    (State.onceTick_keeps C _ h5)

end Sys2Proof.Machine
end

/-! ### A commit staged, put in force and refused (R114, R115, R118) -/

section
namespace Sys2Proof.Machine

open Sys2Proof Safety

set_option Elab.async false

variable {s u v : State} {g : Staged} {ps : List Part} {gs fs : List Fld}

/-! #### COMMIT: what is staged, and what is refused (R114, R115) -/

theorem spGet_filter_out (m : Sp) {q : Nat × Nat → Bool} {k : Nat} (d : Nat) (h : ∀ v, q (k, v) = false) :
    spGet (m.filter q) k d = d := by
  induction m with
  | nil => rfl
  | cons e m ih =>
    obtain ⟨a, v⟩ := e
    by_cases ha : a = k
    · subst ha
      rwa [List.filter_cons_of_neg (by simp [h v])]
    · have hb : (a == k) = false := by simpa using ha
      rw [List.filter_cons]
      split <;> simp [spGet, hb, ih]

theorem State.keeps_cleanPages : Keeps [] [.seq_COMMIT_PEND] s s.cleanPages := State.rest_cleanPages Foot.but_may

/-- No page is dirty once its shadows are staged. -/
theorem State.flag_cleanPages (p : Nat) : s.cleanPages.flag .hdr_SHADOW_DIRTY p = false := by
  have h : s.cleanPages.rd .hdr_SHADOW_DIRTY p = Fld.resetVal .hdr_SHADOW_DIRTY p :=
    spGet_filter_out _ _ fun v => by simp [Fld.key_mod]
  rw [State.flag, h]
  rfl

theorem State.force_wr {f : Fld} (h : f.desc.acc ≠ .rwc) (i v : Nat) :
    (s.wr f i v).force = s.force ∧ (s.wr f i v).shadow = s.shadow := by
  simp only [State.wr, if_neg h, and_self]

theorem State.capture_brings :
    (s.capture none).staged = some ⟨s.shadow, s.pfe.maskS, s.tdc.offS, none, s.clock + 4 * usFu, s.seq.k, none⟩ ∧
    (s.capture none).flag .seq_COMMIT_PEND = true ∧ (s.capture none).force = s.force ∧
    ∀ p, (s.capture none).flag .hdr_SHADOW_DIRTY p = false := by
  unfold State.capture
  extract_lets g s1
  exact ⟨State.staged_wr _ _ _ _, (State.keeps_cleanPages.flag (by decide) 0).trans (State.flag_wrB _ _ _ rfl rfl),
    (State.force_wr (by decide) _ _).1, fun p => State.flag_cleanPages p⟩

theorem State.commitWrite_free (hs : s.staged = none) (ha : s.flag .seq_COMMIT_AT_EN = false) : s.commitWrite = s.capture none := by
  unfold State.commitWrite
  rw [if_neg (by simp [hs]), if_neg (by rw [ha]; exact Bool.false_ne_true)]

theorem State.commitWrite_busy (hs : s.staged.isSome = true) : s.commitWrite.staged = s.staged ∧
    s.commitWrite.flag .seq_COMMIT_BUSY = true ∧ s.commitWrite.force = s.force ∧ s.commitWrite.shadow = s.shadow := by
  unfold State.commitWrite
  rw [if_pos hs]
  obtain ⟨hf, hsh⟩ := s.force_wr (f := .seq_COMMIT_BUSY) (by decide) 0 1
  exact ⟨State.staged_wr _ _ _ _, State.flag_wrB _ _ _ rfl rfl, hf, hsh⟩

theorem State.commitFor_late {b : Nat} (hl : ¬ (s.tbNow : Int) + (4 * usFu : Nat) ≤ s.tickTime b) :
    s.commitFor (some b) = (s.wrB .seq_CFG_ERR 0 true).wrB .seq_COMMIT_LATE 0 true := if_neg hl

theorem State.commitWrite_late {b : Nat} (hs : s.staged = none) (ha : s.flag .seq_COMMIT_AT_EN = true) (hr : s.running = true)
    (hb : s.tickAheadOf (s.rd .seq_COMMIT_TICK) = some b) (hl : s.tickTime b < (s.tbNow : Int) + (4 * usFu : Nat)) :
    s.commitWrite.staged = none ∧ s.commitWrite.flag .seq_COMMIT_LATE = true ∧ s.commitWrite.flag .seq_CFG_ERR = true ∧
      s.commitWrite.force = s.force ∧ s.commitWrite.shadow = s.shadow := by
  have e : s.commitWrite = (s.wrB .seq_CFG_ERR 0 true).wrB .seq_COMMIT_LATE 0 true := by
    unfold State.commitWrite
    rw [if_neg (by simp [hs]), if_pos ha, if_neg (by simp [hr]), hb, State.commitFor_late (not_le.2 hl)]
  rw [e]
  obtain ⟨hf, hsh⟩ := s.force_wr (f := .seq_CFG_ERR) (by decide) 0 1
  obtain ⟨hf', hsh'⟩ := (s.wrB .seq_CFG_ERR 0 true).force_wr (f := .seq_COMMIT_LATE) (by decide) 0 1
  have hk : Keeps [] [.seq_CFG_ERR] (s.wrB .seq_CFG_ERR 0 true) ((s.wrB .seq_CFG_ERR 0 true).wrB .seq_COMMIT_LATE 0 true) :=
    rest_wr .seq_COMMIT_LATE Foot.but_may _ _
  exact ⟨(State.staged_wr _ _ _ _).trans ((State.staged_wr _ _ _ _).trans hs), State.flag_wrB _ _ _ rfl rfl,
    (hk.flag (by decide) 0).trans (State.flag_wrB _ _ _ rfl rfl), hf'.trans hf, hsh'.trans hsh⟩

/-! #### A configuration put in force (R115, R118) -/

/-- Everything but the configuration fields whose values are not the module's own, and the fields gs. -/
def Foot.butInForce (gs : List Fld) : Foot :=
  ⟨fun _ => True, fun f _ => (f.desc.acc ≠ .rwc ∨ f ∈ ownForced) ∧ f ∉ gs, fun _ => True⟩

theorem Foot.butInForce_may (hf : ∀ f ∈ fs, (f.desc.acc ≠ .rwc ∨ f ∈ ownForced) ∧ f ∉ gs := by decide +kernel) :
    (Foot.butInForce gs).may ps fs :=
  ⟨fun _ _ => trivial, fun f h _ => hf f h⟩

/-- From s to u those configuration fields and the fields gs stay. -/
def KeepsInForce (gs : List Fld) (s u : State) : Prop := rest (Foot.butInForce gs) u = rest (Foot.butInForce gs) s

theorem KeepsInForce.trans (h : KeepsInForce gs s u) (k : KeepsInForce gs u v) : KeepsInForce gs s v := Eq.trans k h

theorem KeepsInForce.config (h : KeepsInForce gs s u) {f : Fld} (hf : f.desc.acc = .rwc) (ho : f ∉ ownForced) (i : Nat) :
    u.rd f i = s.rd f i :=
  ((rest_eq_iff.1 h).regs f i fun hn => hn.1.elim (fun e => e hf) ho).1

theorem KeepsInForce.rd (h : KeepsInForce gs s u) {f : Fld} (hf : f ∈ gs := by decide) (i : Nat) : u.rd f i = s.rd f i :=
  ((rest_eq_iff.1 h).regs f i fun hn => hn.2 hf).1

/-- The mode word of a region that the module has not cleared is none of its own values. -/
theorem State.mode_ownValues {r : Fin 16} (h : bit s.seq.cleared r = false) :
    s.ownValues.rd .seq_REGION_MODE r = s.rd .seq_REGION_MODE r := by
  unfold State.ownValues
  extract_lets s1
  have h1 : s1.seq = s.seq ∧ s1.rd .seq_REGION_MODE r = s.rd .seq_REGION_MODE r := by
    unfold s1
    split
    · exact ⟨rfl, rfl⟩
    · exact ⟨State.seq_wr _ _ _ _, by rw [State.rd_wr, if_neg (by simp)]⟩
  refine (keeps_each (P := fun u => u.seq = s.seq ∧ u.rd .seq_REGION_MODE r = s.rd .seq_REGION_MODE r) _ (fun q u hu => ?_) h1).2
  obtain ⟨hs, hm⟩ := hu
  unfold State.when
  split
  next hc =>
    have hq : r.val ≠ q.val := fun e => by
      rw [hs, ← e, h] at hc
      exact Bool.false_ne_true hc
    refine ⟨(State.seq_wr _ _ _ _).trans ((State.seq_wr _ _ _ _).trans hs), ?_⟩
    dsimp only
    rw [State.wrB_eq, State.rd_wr, if_neg (by simp), State.rd_wr, if_neg (fun e => hq e.2.symm), hm]
  · exact ⟨hs, hm⟩

/-- The epoch of a configuration: counted, with the tick it begins at, on every page that it changes. -/
theorem State.epochUp_brings (pages : List Nat) (k : Nat) :
    (s.epochUp pages k).rd .seq_CFG_EPOCH = Fld.cut .seq_CFG_EPOCH (s.rd .seq_CFG_EPOCH + 1) ∧
      (s.epochUp pages k).rd .seq_EPOCH_TICK = if s.running then k % 2 ^ 48 else 0 := by
  unfold State.epochUp
  extract_lets s1
  have h : Keeps [] [.seq_CFG_EPOCH, .seq_EPOCH_TICK] s1 (s1.each pages fun p s => s.wr .hdr_PAGE_EPOCH p (s.rd .seq_CFG_EPOCH)) :=
    rest_each (fun _ _ => rest_wr .hdr_PAGE_EPOCH Foot.but_may _ _) _
  rw [h.rd (by decide), h.rd (by decide)]
  refine ⟨?_, ?_⟩
  · rw [State.rd_wr, if_neg (by simp), State.bump, State.rd_wr, if_pos ⟨rfl, rfl⟩]
  · rw [State.rd_wr, if_pos ⟨rfl, rfl⟩]
    split
    · exact Nat.mod_mod _ _
    · rfl

/-- What follows the epoch of a configuration leaves it, the modes and the schedule as they are. -/
def epochKept : List Fld := [.seq_CFG_EPOCH, .seq_EPOCH_TICK, .seq_TICK_RUN, .seq_REGION_MODE]

/-- What a configuration put in force brings. -/
structure InForce (s : State) (g : Staged) (k : Nat) (u : State) : Prop where
  config : ∀ f i, f.desc.acc = .rwc → f ∉ ownForced → u.rd f i = g.rd f i
  mode : ∀ r : Fin 16, bit s.seq.cleared r = false → u.rd .seq_REGION_MODE r = g.rd .seq_REGION_MODE r
  mask : u.pfe.maskF = g.mask
  off : u.tdc.offF = g.off
  epoch : u.rd .seq_CFG_EPOCH = Fld.cut .seq_CFG_EPOCH (s.rd .seq_CFG_EPOCH + 1)
  tick : u.rd .seq_EPOCH_TICK = if u.running then k % 2 ^ 48 else 0

theorem KeepsInForce.flag (h : KeepsInForce gs s u) {f : Fld} (hf : f ∈ gs := by decide) (i : Nat) : u.flag f i = s.flag f i :=
  congrArg (· != 0) (h.rd hf i)

theorem InForce.of_keeps {k : Nat} (h : InForce s g k u) (hk : KeepsInForce epochKept u v) (ha : v.anchor = u.anchor) :
    InForce s g k v := by
  obtain ⟨_, hm, _, ho, _⟩ := State.anchor_eq_iff.1 ha
  have hr : v.running = u.running := hk.flag (by decide) 0
  exact ⟨fun f i hf hn => (hk.config hf hn i).trans (h.config f i hf hn),
    fun r hc => (hk.rd (by decide) r).trans (h.mode r hc), hm.trans h.mask, ho.trans h.off,
    (hk.rd (by decide) 0).trans h.epoch, by rw [hk.rd (by decide) 0, h.tick, hr]⟩

theorem State.commitInForce_brings (k : Nat) (x : Int) : InForce s g k (s.commitInForce g k x) := by
  unfold State.commitInForce
  extract_lets s1 win old _ _ s2 s3 s4 y s5 s6
  have h1 : Keeps [.seq] [.seq_CFG_EPOCH] s s1 := rest_when (fun _ => State.rest_rampRebase Foot.but_may) _
  have ho : Keeps [.seq] [.seq_CFG_EPOCH] s1 old := rest_ite_eq (rest_each (fun _ _ => State.rest_frontUp Foot.but_may _) _) rfl
  have hq : old.seq = s.seq := (ho.part .seq).trans (h1.part .seq)
  have he : old.rd .seq_CFG_EPOCH = s.rd .seq_CFG_EPOCH := (ho.rd (by decide) 0).trans (h1.rd (by decide) 0)
  have hv : KeepsInForce [.seq_CFG_EPOCH] s2 s2.ownValues := State.rest_ownValues Foot.butInForce_may
  have ht : KeepsInForce [.seq_CFG_EPOCH, .seq_REGION_MODE] s2.ownValues s3 := State.rest_commitTicks Foot.butInForce_may _ _ _
  have ha : s4.anchor = s2.anchor :=
    (State.anchor_epochUp _ _).trans ((State.anchor_commitTicks _ _ _).trans State.anchor_ownValues)
  obtain ⟨_, hm, _, hoff, _⟩ := State.anchor_eq_iff.1 ha
  have hu : KeepsInForce [.seq_TICK_RUN, .seq_REGION_MODE] s3 s4 := State.rest_epochUp Foot.butInForce_may _ _
  obtain ⟨hce, hct⟩ := s3.epochUp_brings (old.pagesChanged s3) k
  have h4 : InForce s g k s4 := by
    refine ⟨fun f i hf hn => ?_, fun r hc => ?_, ?_, ?_, ?_, ?_⟩
    · rw [hu.config hf hn, ht.config hf hn, hv.config hf hn]
      exact if_pos hf
    · have hc2 : bit s2.seq.cleared r = false := (congrArg (fun q : Seq => bit q.cleared r) hq).trans hc
      rw [hu.rd, ht.rd, State.mode_ownValues hc2]
      rfl
    · exact hm
    · exact hoff
    · rw [hce, ht.rd, hv.rd, ← he]
      rfl
    · rw [hct, show s4.running = s3.running from hu.flag (by decide) 0]
  have h6 : KeepsInForce epochKept s4 s6 := by
    have h5 : KeepsInForce epochKept s4 s5 :=
      rest_each (fun _ _ => State.rest_commitRegion Foot.butInForce_may (fun _ => trivial) _ _ _ _ _ _) _
    exact h5.trans (rest_ite_eq (State.rest_reorderChange Foot.butInForce_may (fun _ => trivial)) rfl)
  have a6 : s6.anchor = s4.anchor :=
    (anchor_ite_eq State.anchor_reorderChange rfl).trans (anchor_each (fun _ _ => State.anchor_commitRegion _ _ _ _ _ _) _)
  exact h4.of_keeps (h6.trans (State.rest_commitBlocks Foot.butInForce_may _ _)) ((State.anchor_commitBlocks _ _).trans a6)

theorem State.anchor_acquireNow : s.acquireNow.anchor = s.anchor :=
  anchor_ite_eq (State.anchor_setPwr .acquire) rfl

theorem State.commitForce_brings (k : Nat) (x : Int) : InForce s g k (s.commitForce g k x) := by
  rw [State.commitForce_eq]
  exact (State.commitInForce_brings k x).of_keeps (State.rest_acquireNow Foot.butInForce_may) State.anchor_acquireNow

/-! #### A configuration that is refused (R115) -/

/-- A bit once set stays set as a further bit is set. -/
theorem State.flag_wrB_true {f h : Fld} {i j : Nat} (hf : f.cut 1 = 1) (hs : s.flag f i = true) :
    (s.wrB h j true).flag f i = true := by
  by_cases e : h = f ∧ j = i
  · obtain ⟨rfl, rfl⟩ := e
    exact State.flag_wr_one h j hf
  · rw [State.flag, State.wrB_eq, State.rd_wr, if_neg e]
    exact hs

theorem State.flag_commitReject : (s.commitReject g).flag .seq_CFG_ERR = true := by
  unfold State.commitReject
  extract_lets s1
  have h1 : s1.flag .seq_CFG_ERR = true := keeps_each (P := fun u => u.flag .seq_CFG_ERR = true) _
    (fun _ _ h => State.flag_wrB_true rfl h) (State.flag_wrB _ _ _ rfl rfl)
  split
  · exact h1
  · have h (m n : Nat) : Keeps [] [.seq_CFG_ERR] s1 ((s1.wr .seq_TICK_BUDGET_REGION 0 m).wr .seq_TICK_BUDGET_MIN 0 n) :=
      (rest_wr .seq_TICK_BUDGET_MIN Foot.but_may _ _).trans (rest_wr .seq_TICK_BUDGET_REGION Foot.but_may _ _)
    exact ((h _ _).flag (by decide) 0).trans h1

theorem State.keepsConfig_commitReject : KeepsConfig [.staged, .pwr] [.seq_CFG_EPOCH, .seq_EPOCH_TICK] s (s.commitReject g) :=
  State.rest_commitReject Foot.butConfig_may g

/-! #### The boundary of a commit (R115, R118) -/

theorem State.decided_of_ok (ha : s.seq.safeAt ≠ some s.clock) (he : s.commitErrs g = []) :
    s.decided g = s.commitForce g s.seq.k s.seq.start := by
  unfold State.decided
  dsimp only
  rw [if_neg (by simpa using ha), if_pos (by rw [he]; rfl)]

theorem State.decided_of_errs (ha : s.seq.safeAt ≠ some s.clock) (he : s.commitErrs g ≠ []) :
    ∃ x y, s.decided g = (s.commitReject g).injAgain x y := by
  refine ⟨s.seq.start, s.coarseOf (s.tickTime (s.seq.k + 1)), ?_⟩
  unfold State.decided
  dsimp only
  rw [if_neg (by simpa using ha), if_neg (by simpa [List.isEmpty_iff] using he)]

/-- The power state is left, or READY is left for ACQUIRE; nothing is staged anew. -/
def Stays (s u : State) : Prop := u.staged = s.staged ∧ (u.pwr = s.pwr ∨ s.pwr = .ready ∧ u.pwr = .acquire)

theorem Stays.of_keeps (h : rest (Foot.allBut [.staged, .pwr]) u = rest (Foot.allBut [.staged, .pwr]) s) : Stays s u := by
  have hk := (rest_eq_iff.1 h).parts
  exact ⟨hk .staged (not_not.2 (by decide)), .inl (hk .pwr (not_not.2 (by decide)))⟩

theorem State.stays_acquireNow : Stays s s.acquireNow := by
  unfold State.acquireNow
  split
  next h =>
    have hp : s.pwr = .ready := by simpa using (Bool.and_eq_true_iff.1 h).1
    exact ⟨State.staged_wr _ _ _ _, .inr ⟨hp, State.pwr_setPwr (s := s) .acquire⟩⟩
  · exact ⟨rfl, .inl rfl⟩

theorem State.stays_decided : Stays s (s.decided g) := by
  have hi (y : State) (a b : Int) :
      rest (Foot.allBut [.staged, .pwr]) (y.injAgain a b) = rest (Foot.allBut [.staged, .pwr]) y :=
    rest_ite_eq (rest_each (fun _ _ => State.rest_injTick (Foot.allBut_may (by decide)) (fun _ => trivial) _ _ _) _) rfl
  unfold State.decided
  extract_lets x y
  split
  · exact .of_keeps (hi _ _ _)
  · split
    · have h : rest (Foot.allBut [.staged, .pwr]) (s.commitInForce g s.seq.k x) = rest (Foot.allBut [.staged, .pwr]) s :=
        State.rest_commitInForce (Foot.allBut_may (by decide)) (fun _ _ _ => trivial) (fun _ => trivial) _ _ _
      rw [State.commitForce_eq]
      obtain ⟨hs, hp⟩ := Stays.of_keeps h
      obtain ⟨hs', hp'⟩ := (s.commitInForce g s.seq.k x).stays_acquireNow
      refine ⟨hs'.trans hs, ?_⟩
      have e := (rest_eq_iff.1 h).parts .pwr (not_not.2 (by decide))
      rwa [show (s.commitInForce g s.seq.k x).pwr = s.pwr from e] at hp'
    · exact .of_keeps ((hi _ _ _).trans (State.rest_commitReject (Foot.allBut_may (by decide)) _))

theorem State.commitBoundary_stays (hs : s.staged = some g) (hd : s.commitDue = true) :
    s.commitBoundary.staged = none ∧ (s.commitBoundary.pwr = s.pwr ∨ s.pwr = .ready ∧ s.commitBoundary.pwr = .acquire) := by
  obtain ⟨ok, h⟩ := State.commitBoundary_eq hs hd
  obtain ⟨h1, h2⟩ := s.unstaged.stays_decided (g := g)
  have hk := State.keepsConfig_commitEnd (s := s.unstaged.decided g) (g := g) s.unstaged.seq.start ok
  have e : (((s.unstaged.decided g).commitEnd g s.unstaged.seq.start ok)).pwr = (s.unstaged.decided g).pwr := hk.part .pwr
  rw [h, e]
  exact ⟨(hk.part .staged).trans h1, h2⟩

theorem InForce.of_unstaged {k : Nat} (h : InForce s.unstaged g k u) : InForce s g k u :=
  ⟨h.config, fun r hc => h.mode r (by rwa [State.seq_unstaged]), h.mask, h.off,
    h.epoch.trans (by rw [State.rd_unstaged (by decide)]), h.tick⟩

theorem InForce.commitEnd {k : Nat} (h : InForce s g k u) (x : Int) (ok : Bool) : InForce s g k (u.commitEnd g x ok) := by
  have hk := State.keepsConfig_commitEnd (s := u) (g := g) x ok
  obtain ⟨_, hm, _, ho, _⟩ := State.anchor_eq_iff.1 (State.anchor_commitEnd (s := u) (g := g) x ok)
  have hr : (u.commitEnd g x ok).running = u.running := congrArg (· != 0) (hk.rd (f := .seq_TICK_RUN) (by decide) 0)
  exact ⟨fun f i hc hn => (hk.config hc i).1.trans (h.config f i hc hn),
    fun r hc => (hk.config (f := .seq_REGION_MODE) rfl r).1.trans (h.mode r hc), hm.trans h.mask, ho.trans h.off,
    (hk.rd (by decide) 0).trans h.epoch, by rw [hk.rd, h.tick, hr]⟩

theorem State.commitBoundary_inForce (hs : s.staged = some g) (hd : s.commitDue = true) (ha : s.seq.safeAt ≠ some s.clock)
    (he : s.commitErrs g = []) : InForce s g s.seq.k s.commitBoundary := by
  obtain ⟨ok, h⟩ := State.commitBoundary_eq hs hd
  have hf := State.decided_of_ok (s := s.unstaged) (g := g) ha ((State.commitErrs_unstaged g).trans he)
  rw [h, hf]
  exact (State.commitForce_brings _ _).of_unstaged.commitEnd _ _

theorem State.commitBoundary_rejected (hs : s.staged = some g) (hd : s.commitDue = true) (ha : s.seq.safeAt ≠ some s.clock)
    (he : s.commitErrs g ≠ []) : s.commitBoundary.flag .seq_CFG_ERR = true ∧
    (∀ f i, f.desc.acc = .rwc → s.commitBoundary.rd f i = s.rd f i) ∧
    s.commitBoundary.rd .seq_CFG_EPOCH = s.rd .seq_CFG_EPOCH ∧ s.commitBoundary.rd .seq_EPOCH_TICK = s.rd .seq_EPOCH_TICK := by
  obtain ⟨ok, h⟩ := State.commitBoundary_eq hs hd
  obtain ⟨x, y, hx⟩ := State.decided_of_errs (s := s.unstaged) ha (by rw [State.commitErrs_unstaged]; exact he)
  rw [hx] at h
  have h1 := State.keepsConfig_commitReject (s := s.unstaged) (g := g)
  have h2 : KeepsConfig [.staged, .pwr] [.seq_CFG_EPOCH, .seq_EPOCH_TICK, .seq_CFG_ERR, .seq_TICK_RUN]
      (s.unstaged.commitReject g) s.commitBoundary := by
    rw [h]
    exact (State.keepsConfig_commitEnd _ ok).trans (State.keepsConfig_injAgain x y)
  refine ⟨(congrArg (· != 0) (h2.rd (f := .seq_CFG_ERR) (by decide) 0)).trans State.flag_commitReject,
    fun f i hf => ?_, ?_, ?_⟩
  · have hne : f ≠ .seq_COMMIT_PEND := by
      rintro rfl
      exact absurd hf (by decide)
    rw [(h2.config hf i).1, (h1.config hf i).1, State.rd_unstaged hne]
  · rw [h2.rd, h1.rd, State.rd_unstaged (by decide)]
  · rw [h2.rd, h1.rd, State.rd_unstaged (by decide)]

end Sys2Proof.Machine
end

open Sys2Proof Sys2Proof.Machine Sys2Proof.Safety in
/-- Settles O10: each command runs its operation at its own time, and what the operation brings is said above. -/
theorem sequencerCommandsComplete : Obligations.SequencerCommandsComplete := by
  intro s t ha
  refine ⟨fun hr hp ht => ?_, fun hr hp hd => ?_, fun g l hs hr hp ht => ?_, fun hs hc => ?_, fun hs => ?_,
    fun b hs hc hr hb hl => ?_, fun g hs hd => ?_, fun g hs hd hsafe he => ?_, fun g hs hd hsafe he => ?_,
    fun r ho hd => ?_, fun m => ?_⟩
  · exact ⟨_, rfl, State.tickBoundary_brings (s := s.at t) hr hp ht⟩
  · obtain ⟨hk, hb, hx⟩ := State.pacing_brings (s := s.at t) hr hp hd
    exact ⟨_, rfl, hb, hx, hk⟩
  · exact ⟨_, rfl, State.scheduleStart_brings (s := s.at t) hs hr hp ht⟩
  · refine brings_on rfl ha ?_
    rw [State.commitWrite_free (s := s.at t) hs hc]
    exact State.capture_brings (s := s.at t)
  · exact brings_on rfl ha (State.commitWrite_busy (s := s.at t) hs)
  · exact brings_on rfl ha (State.commitWrite_late (s := s.at t) hs hc hr hb hl)
  · exact brings_on rfl ha (State.commitBoundary_stays (s := s.at t) hs hd)
  · have h := State.commitBoundary_inForce (s := s.at t) hs hd hsafe he
    exact brings_on rfl ha ⟨(State.commitBoundary_stays (s := s.at t) hs hd).1,
      h.config, h.mode, h.mask, h.off, h.epoch, h.tick⟩
  · exact brings_on rfl ha ⟨(State.commitBoundary_stays (s := s.at t) hs hd).1,
      State.commitBoundary_rejected (s := s.at t) hs hd hsafe he⟩
  · exact brings_on rfl ha (State.regionDrainDone_brings (s := s.at t) ho hd)
  · refine brings_on rfl ha fun r hr => ?_
    have h := State.aborted_regionsAbort (s := s.at t) hr
    exact ⟨h.zero, h.drainOrd, h.draining, h.frontEnd, h.tdc⟩

/-! ### The bias commands: what each brings about (R28 to R31) -/

section
namespace Sys2Proof.Machine

open Sys2Proof Safety

variable {s u : State} {r : Fin 16} {x : Option Ramp} {on ramping : Bool} {v : Nat}

/-! #### The regulator of a region -/

/-- The regulator of region r set to a ramp, or to none, from v mV: what a start, a ramp down and a crowbar have in common. -/
def State.regulate (s : State) (r : Fin 16) (x : Option Ramp) (on ramping : Bool) (v : Nat) : State :=
  ((((s.setRamp r x).wrBit .sns_BIAS_EN 0 r on).wrB .sns_RAMPING r ramping).wrB .sns_BIAS_OK r false).wr .sns_V_SET r v

/-- What SNS shows of region r whose regulator is so set. -/
structure Regulated (r : Fin 16) (x : Option Ramp) (on ramping : Bool) (v : Nat) (u : State) : Prop where
  enabled : u.rdBit .sns_BIAS_EN 0 r = on
  ramping : u.flag .sns_RAMPING r = ramping
  notOk : u.flag .sns_BIAS_OK r = false
  setpoint : u.rd .sns_V_SET r = v % 65536
  ramp : u.rampOf r = x

theorem State.rampOf_setRamp : (s.setRamp r x).rampOf r = x := by
  simp [State.rampOf, State.setRamp]

/-- A region's bit of BIAS_EN is what it was set to. -/
theorem State.biasEn_wrBit : (s.wrBit .sns_BIAS_EN 0 r on).rdBit .sns_BIAS_EN 0 r = on := by
  have h : (s.wrBit .sns_BIAS_EN 0 r on).rd .sns_BIAS_EN 0 = setBit (s.rd .sns_BIAS_EN) r on % 2 ^ 16 := by
    rw [State.wrBit_eq, State.rd_wr, if_pos ⟨rfl, rfl⟩]
    rfl
  rw [State.rdBit, h, bit_mod _ _ _ r.isLt, bit_setBit, if_pos rfl]

/-- The setpoint of a region, 16 bits wide. -/
theorem State.vSet_wr : (s.wr .sns_V_SET r v).rd .sns_V_SET r = v % 65536 := by
  rw [State.rd_wr, if_pos ⟨rfl, rfl⟩]
  rfl

theorem Keeps.rdBit {qs : List Part} {gs : List Fld} (h : Keeps qs gs s u) {f : Fld} (hf : f ∈ gs := by decide) (i n : Nat) :
    u.rdBit f i n = s.rdBit f i n :=
  congrArg (bit · n) (h.rd hf i)

theorem Regulated.of_keeps (h : Regulated r x on ramping v s) (k : Keeps [.sns] biasRegs s u) :
    Regulated r x on ramping v u where
  enabled := (k.rdBit (by decide) _ _).trans h.enabled
  ramping := (k.flag (by decide) _).trans h.ramping
  notOk := (k.flag (by decide) _).trans h.notOk
  setpoint := (k.rd (by decide) _).trans h.setpoint
  ramp := (congrArg (fun y : Sns => y.ramp[r]) (k.part .sns)).trans h.ramp

theorem State.regulated_regulate : Regulated r x on ramping v (s.regulate r x on ramping v) := by
  have h1 : ((s.setRamp r x).wrBit .sns_BIAS_EN 0 r on).rampOf r = x := State.rampOf_setRamp
  have h2 := State.biasEn_wrBit (s := s.setRamp r x) (r := r) (on := on)
  unfold State.regulate
  generalize (s.setRamp r x).wrBit .sns_BIAS_EN 0 r on = a at h1 h2 ⊢
  have h3 := State.flag_wrB (s := a) .sns_RAMPING r ramping rfl rfl
  have h4 := State.flag_wrB (s := a.wrB .sns_RAMPING r ramping) .sns_BIAS_OK r false rfl rfl
  constructor
  · simpa [State.rd_wr] using h2
  · simpa [State.rd_wr] using h3
  · simpa [State.rd_wr] using h4
  · exact State.vSet_wr
  · simpa [State.rampOf] using h1

/-! #### What the operations of the bias bring about -/

theorem State.biasEnSet_starts (hp : s.pwr = .ready ∨ s.pwr = .acquire) (hs : s.pmr.standbyPend = none)
    (ht : s.layerTemp.isSome = true) (ho : s.flag .sns_OC_TRIP r = false) (he : s.rdBit .sns_BIAS_EN 0 r = false) :
    Regulated r (some ⟨s.clock, s.vNow r, true⟩) true true (s.vNow r) (s.biasEnSet r) := by
  have hp' : (s.pwr == .ready || s.pwr == .acquire) = true := by simpa using hp
  rw [State.biasEnSet, if_neg (ne_true_of_eq_false he), if_pos (by rw [hp', hs, ht, ho]; rfl)]
  exact State.regulated_regulate (s := s.upIn (biasInput r) (fun y => y.toRange 2))

/-- A trip that stands refuses the start. -/
theorem State.biasEnSet_refused (ho : s.flag .sns_OC_TRIP r = true) (he : s.rdBit .sns_BIAS_EN 0 r = false) :
    (s.biasEnSet r).rdBit .sns_BIAS_EN 0 r = false ∧ (s.biasEnSet r).flag .sns_BIAS_EN_ERR = true := by
  rw [State.biasEnSet, if_neg (ne_true_of_eq_false he), if_neg (by rw [ho]; simp)]
  have k : Keeps [] [.sns_BIAS_EN] s (s.wrB .sns_BIAS_EN_ERR 0 true) := rest_wr .sns_BIAS_EN_ERR Foot.but_may _ _
  exact ⟨(k.rdBit (by decide) _ _).trans he, State.flag_wr_one _ _ rfl⟩

theorem State.biasEnClear_ramps (he : s.rdBit .sns_BIAS_EN 0 r = true) :
    Regulated r (some ⟨s.clock, s.vNow r, false⟩) false false (s.vNow r) (s.biasEnClear r) := by
  rw [State.biasEnClear, if_pos he]
  exact State.regulated_regulate

theorem State.regulated_crowbar : Regulated r none false false 0 (s.crowbar r) := State.regulated_regulate

theorem State.rampDone_reached {t0 v0 : Nat} (hr : s.rampOf r = some ⟨t0, v0, true⟩) (hv : s.target r ≤ s.vNow r) :
    (s.rampDone r).rd .sns_V_SET r = s.target r % 65536 ∧ (s.rampDone r).flag .sns_RAMPING r = false ∧
    (s.rampDone r).flag .sns_BIAS_OK r = true ∧ (s.rampDone r).rampOf r = none := by
  have hd : s.rampDone r =
      (((s.wr .sns_V_SET r (s.target r)).wrB .sns_RAMPING r false).wrB .sns_BIAS_OK r true).setRamp r none := by
    simp only [State.rampDone, hr, if_true, if_pos hv]
  have h1 := State.vSet_wr (s := s) (r := r) (v := s.target r)
  have h2 := State.flag_wrB (s := s.wr .sns_V_SET r (s.target r)) .sns_RAMPING r false rfl rfl
  rw [hd]
  generalize s.wr .sns_V_SET r (s.target r) = a at h1 h2 ⊢
  have h3 := State.flag_wrB (s := a.wrB .sns_RAMPING r false) .sns_BIAS_OK r true rfl rfl
  have k : Keeps [] [.sns_V_SET] a ((a.wrB .sns_RAMPING r false).wrB .sns_BIAS_OK r true) :=
    (rest_wr .sns_BIAS_OK Foot.but_may _ _).trans (rest_wr .sns_RAMPING Foot.but_may _ _)
  have k2 : Keeps [] [.sns_RAMPING] (a.wrB .sns_RAMPING r false) ((a.wrB .sns_RAMPING r false).wrB .sns_BIAS_OK r true) :=
    rest_wr .sns_BIAS_OK Foot.but_may _ _
  exact ⟨(k.rd (by decide) r).trans h1, (k2.flag (by decide) r).trans h2, h3, State.rampOf_setRamp⟩

theorem State.rampDone_down {t0 v0 : Nat} (hr : s.rampOf r = some ⟨t0, v0, false⟩) (hv : s.vNow r < 1000) :
    (s.rampDone r).rd .sns_V_SET r = 0 ∧ (s.rampDone r).rampOf r = none := by
  have hd : s.rampDone r = (s.wr .sns_V_SET r 0).setRamp r none := by
    simp only [State.rampDone, hr, Bool.false_eq_true, if_false, if_pos hv]
  rw [hd]
  exact ⟨State.vSet_wr.trans (Nat.zero_mod _), State.rampOf_setRamp⟩

/-- A detected fault waits for FLT (R315). -/
theorem State.raised_detect (cls lvl unit : Nat) (ev : Option (Nat × Nat)) : Raised (s.detect cls lvl unit ev) cls lvl unit :=
  ⟨_, List.mem_append_right _ List.mem_cons_self, rfl, rfl, rfl⟩

theorem State.flag_detect {cls lvl unit i : Nat} {ev : Option (Nat × Nat)} {f : Fld} :
    (s.detect cls lvl unit ev).flag f i = s.flag f i := rfl

/-- What follows when the current of region r has stayed above its limit (R30). -/
def State.overcurrent (s : State) (r : Fin 16) : State :=
  ((s.crowbar r).wrB .sns_OC_TRIP r true).detect clsOverCurrent 2 (unitRegion r) (some (0x0103, r))

theorem State.overcurrent_brings : (s.overcurrent r).flag .sns_OC_TRIP r = true ∧
    (s.overcurrent r).rdBit .sns_BIAS_EN 0 r = false ∧ (s.overcurrent r).rd .sns_V_SET r = 0 ∧
    (s.overcurrent r).rampOf r = none ∧ Raised (s.overcurrent r) clsOverCurrent 2 (unitRegion r) := by
  have k1 : Keeps [.sns] biasRegs (s.crowbar r) ((s.crowbar r).wrB .sns_OC_TRIP r true) :=
    rest_wr .sns_OC_TRIP Foot.but_may _ _
  have k2 : Keeps [.sns] biasRegs ((s.crowbar r).wrB .sns_OC_TRIP r true) (s.overcurrent r) :=
    State.rest_detect Foot.but_may _ _ _ _ _ _
  have h := (State.regulated_crowbar.of_keeps k1).of_keeps k2
  exact ⟨State.flag_detect.trans (State.flag_wr_one .sns_OC_TRIP r rfl), h.enabled, h.setpoint, h.ramp,
    State.raised_detect _ _ _ _⟩

/-- What follows when the bias input rail has stayed above its limit (R31). -/
def State.railOvercurrent (s : State) : State :=
  (s.wrB .sns_OC_TOTAL_TRIP 0 true).detect clsSupply 4 unitModule (some (0x0104, 0))

theorem State.railOvercurrent_brings :
    s.railOvercurrent.flag .sns_OC_TOTAL_TRIP = true ∧ Raised s.railOvercurrent clsSupply 4 unitModule :=
  ⟨State.flag_detect.trans (State.flag_wr_one .sns_OC_TOTAL_TRIP 0 rfl), State.raised_detect _ _ _ _⟩

end Sys2Proof.Machine
end

open Sys2Proof Sys2Proof.Machine Sys2Proof.Safety in
/-- Settles O8: each command runs its operation at its own time, and what the operation brings is said above. -/
theorem biasCommandsComplete : Obligations.BiasCommandsComplete := by
  intro s t r ha
  refine ⟨fun hp hs ht ho he => ?_, fun ho he => ?_, fun he => ?_, fun t0 v0 hr hv => ?_, fun t0 v0 hr hv => ?_, ?_, ?_⟩
  · have h := State.biasEnSet_starts (s := s.at t) hp hs ht ho he
    exact brings_on rfl ha ⟨h.enabled, h.ramping, h.ramp⟩
  · exact brings_on rfl ha (State.biasEnSet_refused (s := s.at t) ho he)
  · have h := State.biasEnClear_ramps (s := s.at t) he
    exact brings_on rfl ha ⟨h.enabled, h.ramping, h.notOk, h.ramp⟩
  · exact brings_on rfl ha (State.rampDone_reached (s := s.at t) hr hv)
  · exact brings_on rfl ha (State.rampDone_down (s := s.at t) hr hv)
  · refine brings_on (f := (State.overcurrent · r)) rfl ha ?_
    have h := State.overcurrent_brings (s := s.at t) (r := r)
    generalize (s.at t).overcurrent r = u at h ⊢
    exact h
  · exact brings_on (f := State.railOvercurrent) rfl ha (State.railOvercurrent_brings (s := s.at t))

/-! ### A counter frame whose transfer waits for the staging area (R109) -/

section
namespace Sys2Proof.Machine

open Sys2Proof Safety

variable {s : State} {r : Fin 16}

/-- While its output waits for room in the staging area, a frame whose products are handed over stays in transfer. -/
theorem State.frameDone_of_accWaits {f : Frame} (hx : (s.pfeR r).xfer = some f) (hp : f.passed = true)
    (hw : s.accWaits r = true) : s.frameDone r = s := by
  simp only [State.frameDone, hx, hp, if_true, if_pos hw]

/-- The last sub-frame of an ACCUM cycle in region 0, its products handed over. -/
def outputFrame : Frame := { tick := 1, pix := [], mode := 2 ^ mAccum, cycEnd := true, passed := true }

/-- A module in ACQUIRE that transfers the frame, with engine 0 stalled before the first value of its output. -/
def stalledOutput : State :=
  { pwr := .acquire, held := 0,
    pfe := { r := (Vector.replicate 16 {}).set 0 { xfer := some outputFrame, xferDone := false } },
    cmp := { r := (Vector.replicate 16 {}).set 0 {
      jobs := [{ kind := 4, tick := 1, n := regionPix, px := [] }], stallAt := some 0 } } }

end Sys2Proof.Machine
end

open Sys2Proof Sys2Proof.Machine Sys2Proof.Safety in
/-- Refutes O9: its clause of FRAME_TRANSFER_DONE has no premise on the staging area. Where the engine is stalled and the
staging area full the transfer waits (R109), and the frame is still in transfer after the command. -/
theorem not_pixelCommandsComplete : ¬ Obligations.PixelCommandsComplete := by
  intro h
  obtain ⟨-, -, -, -, -, -, -, -, -, hdone, -⟩ := h stalledOutput 0 0 (by decide +kernel)
  obtain ⟨u, hu, hnone, -⟩ := hdone outputFrame (by decide +kernel)
  have hf : (stalledOutput.at 0).frameDone 0 = stalledOutput.at 0 :=
    State.frameDone_of_accWaits (f := outputFrame) (by decide +kernel) rfl (by decide +kernel)
  obtain ⟨v, hv, hsome⟩ : Brings (.frameTransferDone 0 0) stalledOutput (fun v => (v.pfeR 0).xfer = some outputFrame) := by
    refine brings_on rfl (by decide +kernel) ?_
    rw [hf]
    rfl
  obtain rfl : u = v := by simpa using hu.symm.trans hv
  exact absurd (hnone.symm.trans hsome) (by simp)

/-! ### The converters of a region: windows, readout, drain and abort (R52, R57 to R59, R70) -/

section
namespace Sys2Proof.Machine

open Sys2Proof Safety

variable {s u : State} {r : Fin 16} {w : Win} {e : Entry} {qs : List Part} {fs gs : List Fld}

/-- What is kept of a region may change where only parts and fields are kept. -/
theorem Foot.but_mayAt (hf : ∀ f ∈ fs, f ∉ gs := by decide +kernel) : (Foot.but qs gs).mayAt r fs :=
  ⟨Foot.but_region r, hf⟩

@[simp] theorem State.tdcR_setTdcR (x : TdcR) : (s.setTdcR r x).tdcR r = x := by
  simp [State.tdcR, State.setTdcR]

@[simp] theorem State.tdcR_wr (f : Fld) (i v : Nat) : (s.wr f i v).tdcR r = s.tdcR r := by
  simp [State.tdcR]

theorem Keeps.tdcR (h : Keeps [.tdc] gs s u) : u.tdcR r = s.tdcR r := congrArg (fun x : Tdc => x.r[r]) (h.part .tdc)

/-! #### The captures that region r holds -/

/-- The open windows of region r, its queued captures, and the cluster its readout goes on from. -/
def State.captures (s : State) (r : Fin 16) : List Win × List Entry × Nat := ((s.tdcR r).wins, (s.tdcR r).queue, (s.tdcR r).rr)

theorem State.captures_eq_iff {v : List Win} {q : List Entry} {n : Nat} :
    u.captures r = (v, q, n) ↔ (u.tdcR r).wins = v ∧ (u.tdcR r).queue = q ∧ (u.tdcR r).rr = n := by
  simp [State.captures]

theorem State.captures_setTdcR (x : TdcR) : (s.setTdcR r x).captures r = (x.wins, x.queue, x.rr) := by
  simp [State.captures]

theorem State.captures_wr (f : Fld) (i v : Nat) : (s.wr f i v).captures r = s.captures r := by
  simp [State.captures]

theorem Keeps.captures (h : Keeps [.tdc] gs s u) : u.captures r = s.captures r := by
  rw [State.captures, h.tdcR, State.captures]

theorem State.captures_setGroup (g : Fin 16) (x : TdcGroup) : (s.setGroup r g x).captures r = s.captures r := by
  rw [State.setGroup, State.captures_setTdcR]
  rfl

/-- Group g of region r as the close of its batch leaves it, and whether it loses CALOK by it. -/
def State.batch (s : State) (r g : Fin 16) : TdcGroup × Bool :=
  (s.group r g).closeBatch ((s.group r g).edges r g) (s.rd .tdcr_CAL_AVG r) (s.rd .tdcr_CAL_JUMP r) (s.rd .tdcr_CAL_CONV_THR r)

theorem State.calBatchClose_of_full {g : Fin 16} (hf : (s.group r g).fill = 2 ^ 20) : s.calBatchClose r g =
    if (s.batch r g).2 then (s.setGroup r g (s.batch r g).1).emit 0x0301 (r + 16 * g + 256 * (s.batch r g).1.resid)
    else s.setGroup r g (s.batch r g).1 :=
  if_pos hf

/-- The record of a group that lost CALOK is all that the close of a full batch does beyond the group. -/
theorem State.tdcR_calBatchClose {g : Fin 16} (hf : (s.group r g).fill = 2 ^ 20) :
    (s.calBatchClose r g).tdcR r = (s.setGroup r g (s.batch r g).1).tdcR r := by
  rw [State.calBatchClose_of_full hf]
  split
  · have h (y : State) (ty d : Nat) : Keeps [.tdc] [] y (y.emit ty d) := State.rest_emit Foot.but_may _ _
    exact (h _ _ _).tdcR
  · rfl

theorem State.captures_calBatchClose (g : Fin 16) : (s.calBatchClose r g).captures r = s.captures r := by
  by_cases hf : (s.group r g).fill = 2 ^ 20
  · have h : (s.calBatchClose r g).captures r = (s.setGroup r g (s.batch r g).1).captures r := by
      simp only [State.captures, State.tdcR_calBatchClose hf]
    exact h.trans (State.captures_setGroup _ _)
  · rw [State.calBatchClose, if_neg hf]

/-- A capture offered to calibration is not taken out of its queue. -/
theorem State.captures_calTake : (s.calTake r e).captures r = s.captures r := by
  unfold State.calTake
  split
  · exact (State.captures_setGroup _ _).trans (State.captures_calBatchClose _)
  · rfl

theorem State.captures_dropFull (c : Nat) : (s.dropFull r c).captures r = s.captures r :=
  (State.captures_setGroup _ _).trans (State.captures_wr _ _ _)

theorem State.captures_codeFault : (s.codeFault r).captures r = s.captures r := by
  unfold State.codeFault
  extract_lets x s1
  have h1 : s1.captures r = s.captures r := State.captures_setTdcR _
  split
  · exact h1
  · exact h1

/-! #### A window closes (R57, R58) -/

/-- A window taken out, its capture counted with its faults. -/
def State.closing (s : State) (r : Fin 16) (w : Win) : State :=
  let rep := (resolve w.raw).2.2.2
  let x := s.tdcR r
  let s := s.setTdcR r { x with wins := x.wins.filter (fun v => v.cluster != w.cluster) }
  let s := { s with tdc := { s.tdc with caps := s.tdc.caps + 1, repairs := s.tdc.repairs + b2n rep } }
  let s := s.when rep (fun s => s.bump .tdcr_PH_AMBIG r)
  s.when w.entry.codeErr (fun s => s.codeFault r)

theorem State.closeWin_eq : s.closeWin r w =
    if 4 ≤ ((s.closing r w).tdcR r).queue.countP (fun v => v.cluster == w.cluster) then (s.closing r w).dropFull r w.cluster
    else ((s.closing r w).setTdcR r { (s.closing r w).tdcR r with
      queue := ((s.closing r w).tdcR r).queue ++ [w.entry] }).calTake r w.entry := rfl

theorem State.captures_closing : (s.closing r w).captures r =
    ((s.tdcR r).wins.filter (fun v => v.cluster != w.cluster), (s.tdcR r).queue, (s.tdcR r).rr) := by
  unfold State.closing
  extract_lets rep x s1 _ s2 s3
  have h1 : s1.captures r = (x.wins.filter (fun v => v.cluster != w.cluster), x.queue, x.rr) := State.captures_setTdcR _
  have h3 : s3.captures r = s2.captures r := by
    unfold s3 State.when
    split
    · exact State.captures_wr _ _ _
    · rfl
  unfold State.when
  split
  · exact State.captures_codeFault.trans (h3.trans h1)
  · exact h3.trans h1

theorem State.keeps_closing : Keeps [] [.tdcr_DROP_QFULL] s (s.closing r w) := by
  unfold State.closing
  extract_lets rep x s1 _ s2 s3
  have h1 : Keeps [] [.tdcr_DROP_QFULL] s s1 := State.rest_setTdcR Foot.but_may Foot.but_mayAt _
  have h2 : Keeps [] [.tdcr_DROP_QFULL] s1 s2 := rest_tdc Foot.but_may _ rfl
  have h3 : Keeps [] [.tdcr_DROP_QFULL] s2 s3 := rest_when (fun _ => rest_wr .tdcr_PH_AMBIG Foot.but_may _ _) _
  have h4 : Keeps [] [.tdcr_DROP_QFULL] s3 (s3.when w.entry.codeErr (fun s => s.codeFault r)) :=
    rest_when (fun _ => State.rest_codeFault Foot.but_may Foot.but_mayAt) _
  exact h4.trans (h3.trans (h2.trans h1))

theorem State.queue_closing : ((s.closing r w).tdcR r).queue = (s.tdcR r).queue :=
  (State.captures_eq_iff.1 State.captures_closing).2.1

/-- With room in its cluster's queue a window's capture is queued. -/
theorem State.captures_closeWin_room (h : (s.tdcR r).queue.countP (fun v => v.cluster == w.cluster) < 4) :
    (s.closeWin r w).captures r =
      ((s.tdcR r).wins.filter (fun v => v.cluster != w.cluster), (s.tdcR r).queue ++ [w.entry], (s.tdcR r).rr) := by
  obtain ⟨hw, hq, hn⟩ := State.captures_eq_iff.1 (State.captures_closing (s := s) (r := r) (w := w))
  rw [State.closeWin_eq, hq, if_neg (by omega), State.captures_calTake, State.captures_setTdcR, hw, hn]

/-- On a full queue a window's capture is discarded and counted. -/
theorem State.closeWin_full (h : 4 ≤ (s.tdcR r).queue.countP (fun v => v.cluster == w.cluster)) :
    (s.closeWin r w).captures r =
      ((s.tdcR r).wins.filter (fun v => v.cluster != w.cluster), (s.tdcR r).queue, (s.tdcR r).rr) ∧
    (s.closeWin r w).rd .tdcr_DROP_QFULL r = Fld.cut .tdcr_DROP_QFULL (s.rd .tdcr_DROP_QFULL r + 1) := by
  rw [State.closeWin_eq, State.queue_closing, if_pos h]
  refine ⟨(State.captures_dropFull _).trans State.captures_closing, ?_⟩
  have hd : ((s.closing r w).dropFull r w.cluster).rd .tdcr_DROP_QFULL r =
      ((s.closing r w).bump .tdcr_DROP_QFULL r).rd .tdcr_DROP_QFULL r := rfl
  rw [hd, State.bump, State.rd_wr, if_pos ⟨rfl, rfl⟩, State.keeps_closing.rd]

theorem State.windowClose_due {c : Nat} (hw : s.winOf r c = some w) (ht : w.t0 + winFu ≤ s.clock + winTol) :
    s.windowClose r c = s.closeWin r w := by
  simp only [State.windowClose, hw, if_pos ht]

/-- A cluster whose window was taken out has none open. -/
theorem State.winOf_of_filter {c : Nat} (hw : s.winOf r c = some w)
    (hu : (u.tdcR r).wins = (s.tdcR r).wins.filter (fun v => v.cluster != w.cluster)) : u.winOf r c = none := by
  have hc : w.cluster = c := by simpa using List.find?_some hw
  simp [State.winOf, hu, hc]

theorem State.windowClose_queued {c : Nat} (hw : s.winOf r c = some w) (ht : w.t0 + winFu ≤ s.clock + winTol)
    (hq : (s.tdcR r).queue.countP (fun v => v.cluster == w.cluster) < 4) :
    (s.windowClose r c).winOf r c = none ∧ ((s.windowClose r c).tdcR r).queue = (s.tdcR r).queue ++ [w.entry] := by
  rw [State.windowClose_due hw ht]
  obtain ⟨h1, h2, -⟩ := State.captures_eq_iff.1 (State.captures_closeWin_room hq)
  exact ⟨State.winOf_of_filter hw h1, h2⟩

theorem State.windowClose_full {c : Nat} (hw : s.winOf r c = some w) (ht : w.t0 + winFu ≤ s.clock + winTol)
    (hq : 4 ≤ (s.tdcR r).queue.countP (fun v => v.cluster == w.cluster)) :
    (s.windowClose r c).winOf r c = none ∧ ((s.windowClose r c).tdcR r).queue = (s.tdcR r).queue ∧
      (s.windowClose r c).rd .tdcr_DROP_QFULL r = Fld.cut .tdcr_DROP_QFULL (s.rd .tdcr_DROP_QFULL r + 1) := by
  rw [State.windowClose_due hw ht]
  obtain ⟨hc, hd⟩ := State.closeWin_full hq
  obtain ⟨h1, h2, -⟩ := State.captures_eq_iff.1 hc
  exact ⟨State.winOf_of_filter hw h1, h2, hd⟩

/-! #### The readout (R59) -/

theorem State.captures_takeEntry :
    (s.takeEntry r e).captures r = ((s.tdcR r).wins, (s.tdcR r).queue.erase e, (e.cluster + 1) % 16384) :=
  State.captures_setTdcR _

theorem State.captures_correctEntry : (s.correctEntry r e).1.captures r = s.captures r := State.captures_setTdcR _

theorem State.captures_rateNote (n : Nat) : (s.rateNote r n).captures r = s.captures r := by
  unfold State.rateNote
  extract_lets x k lost s1
  split
  · rfl
  · have h (y : TdcR) (hy : (y.wins, y.queue, y.rr) = s.captures r) : (s.setTdcR r y).captures r = s.captures r :=
      (State.captures_setTdcR y).trans hy
    split
    · have h1 : s1.captures r = s.captures r := h _ rfl
      split
      · exact h1
      · exact (State.captures_wr _ _ _).trans ((State.captures_wr _ _ _).trans h1)
    · have hk (y : State) : Keeps [.tdc] [] y (y.on .trg fun s => s.rateCount r (x.xing + n)) :=
        rest_on (fun _ => State.rest_rateCount Foot.but_may _ _) _
      exact (hk _).captures.trans (h _ rfl)

theorem State.captures_on_evbArrive (v : EvW) : (s.on .evb (fun s => s.evbArrive r v)).captures r = s.captures r := by
  have h : Keeps [.tdc] [] s (s.on .evb fun s => s.evbArrive r v) :=
    rest_on (fun _ => State.rest_evbArrive Foot.but_may Foot.but_mayAt v) _
  exact h.captures

/-- An entry too old at its readout is discarded and counted. -/
theorem State.readoutVisit_old (he : s.nextEntry r = some e) (ho : s.tooOld e = true) :
    (s.readoutVisit r).captures r = ((s.tdcR r).wins, (s.tdcR r).queue.erase e, (e.cluster + 1) % 16384) ∧
    (s.readoutVisit r).rd .tdcr_DROP_AGE r = Fld.cut .tdcr_DROP_AGE (s.rd .tdcr_DROP_AGE r + 1) := by
  have hv : s.readoutVisit r = ((s.takeEntry r e).bump .tdcr_DROP_AGE r).rateNote r 1 := by
    simp only [State.readoutVisit, he, if_pos ho]
  rw [hv]
  refine ⟨(State.captures_rateNote _).trans ((State.captures_wr _ _ _).trans State.captures_takeEntry), ?_⟩
  have h (y : State) : Keeps [] [.tdcr_DROP_AGE] y (y.rateNote r 1) := State.rest_rateNote Foot.but_may Foot.but_mayAt _
  rw [(h _).rd, State.bump, State.rd_wr, if_pos ⟨rfl, rfl⟩]
  rfl

/-- Where EVB has room an entry leaves its queue, whether or not a mode takes it. -/
theorem State.captures_readoutVisit (he : s.nextEntry r = some e) (ho : s.tooOld e = false) (hb : s.evbTakes r = true) :
    (s.readoutVisit r).captures r = ((s.tdcR r).wins, (s.tdcR r).queue.erase e, (e.cluster + 1) % 16384) := by
  have hc : (((s.takeEntry r e).correctEntry r e).1.rateNote r 1).captures r =
      ((s.tdcR r).wins, (s.tdcR r).queue.erase e, (e.cluster + 1) % 16384) :=
    (State.captures_rateNote _).trans (State.captures_correctEntry.trans State.captures_takeEntry)
  simp only [State.readoutVisit, he, ho, hb, Bool.false_eq_true, if_false, if_true]
  split
  · split
    · exact (State.captures_wr _ _ _).trans hc
    · exact (State.captures_on_evbArrive _).trans hc
  · exact hc

/-! #### The drain and the abort (R70) -/

theorem State.tdcDrainDone_brings (hd : (s.tdcR r).draining = true) (hw : (s.tdcR r).wins = []) (hq : (s.tdcR r).queue = [])
    (hs : (s.evbR r).store = []) :
    ((s.tdcDrainDone r).tdcR r).draining = false ∧ (s.tdcDrainDone r).flag .tdcr_TDC_FINAL r = true := by
  have h : s.tdcDrainDone r = (s.setTdcR r { s.tdcR r with draining := false }).wrB .tdcr_TDC_FINAL r true := by
    unfold State.tdcDrainDone
    dsimp only
    rw [if_pos (by simp [hd, hw, hq, hs])]
  rw [h]
  exact ⟨by simp, State.flag_wrB _ _ _ rfl rfl⟩

theorem State.tdcAbort_brings : (s.tdcAbort r).flag .tdcr_TDC_EN r = false ∧ ((s.tdcAbort r).tdcR r).wins = [] ∧
    ((s.tdcAbort r).tdcR r).queue = [] ∧ ((s.tdcAbort r).tdcR r).draining = false := by
  unfold State.tdcAbort
  extract_lets s1 _ s2
  have h0 : ((s.dropWins r).dropQueue r).captures r = ([], [], (s.tdcR r).rr) := by
    simp [State.dropQueue, State.dropWins, State.captures]
  have h1 : Keeps [.tdc] [] ((s.dropWins r).dropQueue r) s1 :=
    (State.rest_abortEvents Foot.but_may Foot.but_mayAt).trans (State.rest_evbDrop Foot.but_may Foot.but_mayAt)
  obtain ⟨hw, hq, -⟩ := State.captures_eq_iff.1 (h1.captures.trans h0)
  have h2 : s2.tdcR r = { s1.tdcR r with draining := false, endTick := none } := State.tdcR_setTdcR _
  have h3 : Keeps [.tdc] [] s2 ((s2.headFlag r s2.seq.k hfTrunc).wrB .tdcr_TDC_EN r false) :=
    (rest_wr .tdcr_TDC_EN Foot.but_may _ _).trans (State.rest_headFlag Foot.but_may _ _ _)
  refine ⟨State.flag_wrB _ _ _ rfl rfl, ?_⟩
  rw [h3.tdcR, h2]
  exact ⟨hw, hq, rfl⟩

end Sys2Proof.Machine
end

open Sys2Proof Sys2Proof.Machine Sys2Proof.Safety in
/-- Settles O13: each command runs its operation at its own time, and what the operation brings is said above. -/
theorem tdcCommandsComplete : Obligations.TdcCommandsComplete := by
  intro s t r ha
  have hd (w : Win) (ht : w.t0 + winFu ≤ t) : w.t0 + winFu ≤ (s.at t).clock + winTol := by
    rw [State.clock_at]
    omega
  refine ⟨fun c w hw ht hq => ?_, fun c w hw ht hq => ?_, fun e he ho => ?_, fun e he ho hb => ?_, fun hd hw hq hs => ?_, ?_⟩
  · exact brings_on rfl ha (State.windowClose_queued (s := s.at t) hw (hd w ht) hq)
  · exact brings_on rfl ha (State.windowClose_full (s := s.at t) hw (hd w ht) hq)
  · obtain ⟨hc, hn⟩ := State.readoutVisit_old (s := s.at t) he ho
    obtain ⟨-, hq, hr⟩ := State.captures_eq_iff.1 hc
    exact brings_on rfl ha ⟨hq, hr, hn⟩
  · obtain ⟨-, hq, hr⟩ := State.captures_eq_iff.1 (State.captures_readoutVisit (s := s.at t) he ho hb)
    exact brings_on rfl ha ⟨hq, hr⟩
  · exact brings_on rfl ha (State.tdcDrainDone_brings (s := s.at t) hd hw hq hs)
  · refine brings_on (f := (State.tdcAbort · r)) rfl ha ?_
    have h := State.tdcAbort_brings (s := s.at t) (r := r)
    generalize (s.at t).tdcAbort r = u at h ⊢
    exact h

/-! ### The calibration commands: what each brings about (R60 to R66, R68, R76) -/

section
namespace Sys2Proof.Machine

open Sys2Proof Safety

variable {s u : State} {r g : Fin 16} {c : Fin 4} {h : Vector Nat 128}

@[simp] theorem State.group_setGroup (x : TdcGroup) : (s.setGroup r g x).group r g = x := by
  simp [State.group, State.setGroup]

@[simp] theorem State.auxCh_setAux (x : AuxCh) : (s.setAux c x).auxCh c = x := by
  simp [State.auxCh, State.setAux]

/-! #### A batch closed (R60, R61, R66, R76) -/

/-- Accepted or rejected, a closed batch leaves its measured edges and an empty histogram (R61, R62). -/
theorem TdcGroup.closeBatch_brings (x : TdcGroup) (tab : List Nat) (a jump conv : Nat) :
    (x.closeBatch tab a jump conv).1.hist = [] ∧ (x.closeBatch tab a jump conv).1.fill = 0 ∧
      (x.closeBatch tab a jump conv).1.first = none ∧ (x.closeBatch tab a jump conv).1.meas = measEdges x.hist := by
  unfold TdcGroup.closeBatch
  extract_lets m rs e n
  have he : e.hist = [] ∧ e.fill = 0 ∧ e.first = none ∧ e.meas = m := ⟨rfl, rfl, rfl, rfl⟩
  split
  · exact he
  · split
    · exact he
    · split
      · exact he
      · exact he

theorem State.calBatchClose_brings (hf : (s.group r g).fill = 2 ^ 20) :
    ((s.calBatchClose r g).group r g).hist = [] ∧ ((s.calBatchClose r g).group r g).fill = 0 ∧
      ((s.calBatchClose r g).group r g).first = none ∧
      ((s.calBatchClose r g).group r g).meas = measEdges (s.group r g).hist := by
  have hg : (s.calBatchClose r g).group r g = (s.batch r g).1 := by
    rw [State.group, State.tdcR_calBatchClose hf]
    exact State.group_setGroup _
  rw [hg]
  exact TdcGroup.closeBatch_brings _ _ _ _ _

/-- The histogram of a ring-oscillator batch, given bin by bin, as a sparse memory. -/
def ringHist (h : Vector Nat 128) : Sp := ((List.range 128).zip h.toList).filter (fun e => e.2 != 0)

theorem TdcGroup.meas_ringBatch (x : TdcGroup) (hf : h.toList.foldl (· + ·) 0 = 2 ^ 20) :
    (x.ringBatch h).meas = measEdges (ringHist h) := by
  unfold TdcGroup.ringBatch
  rw [if_pos hf]
  obtain ⟨-, -, -, hm⟩ := TdcGroup.closeBatch_brings { x with hist := ringHist h, fill := 2 ^ 20 } (x.table.getD plainEdges)
    Config.auxAvg Config.auxJump 0
  exact hm

theorem State.meas_auxBatch (k : Fin 2) (hf : h.toList.foldl (· + ·) 0 = 2 ^ 20) :
    (if k = 0 then ((s.auxBatch c k h).auxCh c).i0 else ((s.auxBatch c k h).auxCh c).i1).meas = measEdges (ringHist h) := by
  by_cases hk : k = 0
  · simp only [State.auxBatch, if_pos hk, State.auxCh_setAux, TdcGroup.meas_ringBatch _ hf]
  · simp only [State.auxBatch, if_neg hk, State.auxCh_setAux, TdcGroup.meas_ringBatch _ hf]

theorem State.meas_ttBatch (p : Fin 6) (k : Fin 2) (hf : h.toList.foldl (· + ·) 0 = 2 ^ 20) :
    (if k = 0 then (s.ttBatch p k h).tbs.tt0[p] else (s.ttBatch p k h).tbs.tt1[p]).meas = measEdges (ringHist h) := by
  by_cases hk : k = 0
  · simp [State.ttBatch, hk, TdcGroup.meas_ringBatch _ hf]
  · simp [State.ttBatch, hk, TdcGroup.meas_ringBatch _ hf]

/-! #### A batch timed out, the restart, and a table loaded (R63 to R65) -/

theorem State.calBatchTimeout_brings {t0 : Nat} (hf : (s.group r g).first = some t0) (hm : s.rd .tdcr_CAL_TMAX r ≠ 0)
    (ht : t0 + s.rd .tdcr_CAL_TMAX r * secFu ≤ s.clock) :
    ((s.calBatchTimeout r g).group r g).hist = [] ∧ ((s.calBatchTimeout r g).group r g).fill = 0 ∧
      ((s.calBatchTimeout r g).group r g).first = none ∧
      ((s.calBatchTimeout r g).group r g).timeout = ((s.group r g).timeout + 1) % 65536 := by
  have hx : s.calBatchTimeout r g = s.setGroup r g
      { s.group r g with hist := [], fill := 0, first := none, timeout := ((s.group r g).timeout + 1) % 2 ^ 16 } := by
    simp only [State.calBatchTimeout, hf]
    exact if_pos (by simp [hm, ht])
  simp [hx]

theorem State.resetPend_calReset : ((s.calReset r).tdcR r).resetPend = true := by
  simp [State.calReset]

/-- CAL_LOAD takes the shadow table of the group that LOAD_GRP names. -/
theorem State.calLoad_eq {tab : List Nat} (hg : s.rd .tdcr_LOAD_GRP r = g.val) (hl : (s.group r g).load = some tab) :
    s.calLoad r = if loadable tab then
      (s.setTdcR r { s.tdcR r with
        loadPend := (s.tdcR r).loadPend.filter (fun p => p.1 != g.val) ++ [(g.val, s.flag .tdcr_LOAD_OK r, tab)] }).wrB
        .tdcr_CAL_LOAD_BUSY r true
    else s.wrB .tdcr_CFG_ERR r true := by
  have hk : s.rd .tdcr_LOAD_GRP r % 16 = g.val := by omega
  have ht : (s.tdcR r).g[g.val].load = some tab := hl
  simp only [State.calLoad, hk, ht, Option.getD_some]

theorem State.calLoad_accepted {tab : List Nat} (hg : s.rd .tdcr_LOAD_GRP r = g.val) (hl : (s.group r g).load = some tab)
    (ht : loadable tab = true) : (g.val, s.flag .tdcr_LOAD_OK r, tab) ∈ ((s.calLoad r).tdcR r).loadPend ∧
      (s.calLoad r).flag .tdcr_CAL_LOAD_BUSY r = true := by
  rw [State.calLoad_eq hg hl, if_pos ht]
  refine ⟨?_, State.flag_wrB _ _ _ rfl rfl⟩
  rw [State.wrB_eq, State.tdcR_wr, State.tdcR_setTdcR]
  exact List.mem_append_right _ List.mem_cons_self

theorem State.calLoad_rejected {tab : List Nat} (hg : s.rd .tdcr_LOAD_GRP r = g.val) (hl : (s.group r g).load = some tab)
    (ht : loadable tab = false) : ((s.calLoad r).tdcR r).loadPend = (s.tdcR r).loadPend ∧
      (s.calLoad r).flag .tdcr_CFG_ERR r = true := by
  rw [State.calLoad_eq hg hl, if_neg (by simp [ht])]
  exact ⟨congrArg TdcR.loadPend (State.tdcR_wr _ _ _), State.flag_wrB _ _ _ rfl rfl⟩

/-! #### An offset word written and read (R54) -/

/-- The address of the offsets alone goes on behind an access. -/
theorem State.keeps_ofsNext : Keeps [.tdc, .lastRead] [.hdr_SHADOW_DIRTY] s (s.ofsNext r) :=
  State.rest_ofsNext Foot.but_mayAt

theorem State.ofsWrite_brings (v : Nat) :
    spGet (s.ofsWrite r v).tdc.offS (s.ofsKey r) (Config.tdcOff (s.ofsKey r) % 512) = v % 512 ∧
      (s.ofsWrite r v).tdc.offF = s.tdc.offF ∧
      (s.ofsWrite r v).flag .hdr_SHADOW_DIRTY (17 * Blk.tdc.idx + 1 + r) = true := by
  unfold State.ofsWrite
  extract_lets k
  have ht {y : State} : (y.ofsNext r).tdc = y.tdc := State.keeps_ofsNext.part .tdc
  refine ⟨?_, ?_, (State.keeps_ofsNext.flag (by decide) _).trans (State.flag_wrB _ _ _ rfl rfl)⟩
  · rw [ht, State.wrB_eq, State.tdc_wr]
    exact spGet_set_self _ _ _ _
  · rw [ht, State.wrB_eq, State.tdc_wr]

/-- A read of TDC_OFF: the word selected, from the shadow or in force. -/
def State.ofsRead (s : State) (r : Fin 16) : State := { s with lastRead := s.ofsGet r (s.flag .tdcr_OFS_VIEW r) }.ofsNext r

theorem State.ofsRead_brings :
    (s.ofsRead r).lastRead = s.ofsGet r (s.flag .tdcr_OFS_VIEW r) ∧ (s.ofsRead r).tdc = s.tdc :=
  ⟨State.keeps_ofsNext.part .lastRead, State.keeps_ofsNext.part .tdc⟩

end Sys2Proof.Machine
end

open Sys2Proof Sys2Proof.Machine Sys2Proof.Safety in
/-- Settles O14: each command runs its operation at its own time, and what the operation brings is said above. -/
theorem calibrationCommandsComplete : Obligations.CalibrationCommandsComplete := by
  intro s t r ha
  refine ⟨fun g hf => ?_, fun c k h hf => ?_, fun p k h hf => ?_, fun g t0 hf hm ht => ?_, ?_, fun g tab hg hl ht => ?_,
    fun g tab hg hl ht => ?_, fun v => ?_, ?_⟩
  · exact brings_on (f := (State.calBatchClose · r g)) rfl ha (State.calBatchClose_brings (s := s.at t) hf)
  · exact brings_on (f := (State.auxBatch · c k h)) rfl ha (State.meas_auxBatch (s := s.at t) k hf)
  · exact brings_on (f := (State.ttBatch · p k h)) rfl ha (State.meas_ttBatch (s := s.at t) p k hf)
  · have hc : t0 + s.rd .tdcr_CAL_TMAX r * secFu ≤ (s.at t).clock := by
      rw [State.clock_at]
      exact le_max_of_le_right ht
    exact brings_on rfl ha (State.calBatchTimeout_brings (s := s.at t) hf hm hc)
  · exact brings_on rfl ha (State.resetPend_calReset (s := s.at t))
  · exact brings_on rfl ha (State.calLoad_accepted (s := s.at t) hg hl ht)
  · exact brings_on rfl ha (State.calLoad_rejected (s := s.at t) hg hl ht)
  · exact brings_on (f := (State.ofsWrite · r v.toNat)) rfl ha (State.ofsWrite_brings (s := s.at t) v.toNat)
  · exact brings_on (f := (State.ofsRead · r)) rfl ha (State.ofsRead_brings (s := s.at t))

/-! ### The auxiliary channels and the phase monitor: what each command brings about (R66 to R69) -/

section
namespace Sys2Proof.Machine

open Sys2Proof Safety

variable {s u : State} {c : Fin 4} {gs : List Fld}

/-! #### The edges counted of a channel (R66) -/

/-- The edges of channel c counted, and the instant of the last that was stamped. -/
def State.edges (s : State) (c : Fin 4) : Nat × Option Nat := ((s.auxCh c).ecount, (s.auxCh c).last)

theorem State.edges_eq_iff {n : Nat} {t : Option Nat} :
    u.edges c = (n, t) ↔ (u.auxCh c).ecount = n ∧ (u.auxCh c).last = t := by
  simp [State.edges]

theorem State.edges_setAux (x : AuxCh) : (s.setAux c x).edges c = (x.ecount, x.last) := by
  simp [State.edges]

/-- A channel set with its own edges, be it c or another, leaves those of c. -/
theorem State.edges_setAux_of {d : Fin 4} {x : AuxCh} (h : (x.ecount, x.last) = s.edges d) : (s.setAux d x).edges c = s.edges c := by
  by_cases hd : d = c
  · subst hd
    exact (State.edges_setAux x).trans h
  · have hn : d.val ≠ c.val := fun e => hd (Fin.ext e)
    simp [State.edges, State.auxCh, State.setAux, Vector.getElem_set_ne, hn]

theorem Keeps.edges (h : Keeps [.tdc] gs s u) : u.edges c = s.edges c :=
  congrArg (fun x : Tdc => (x.aux[c].ecount, x.aux[c].last)) (h.part .tdc)

theorem State.edges_auxWord (w : Nat) : (s.auxWord w).edges c = s.edges c := by
  have h : Keeps [.tdc] [] s (s.auxWord w) := State.rest_auxWord Foot.but_may w
  exact h.edges

theorem State.edges_auxNext (d : Fin 4) : (s.auxNext d).edges c = s.edges c := by
  unfold State.auxNext
  split
  · split
    · rfl
    · exact (State.edges_auxWord _).trans (State.edges_setAux_of rfl)
  · rfl

theorem State.edges_auxFlush : s.auxFlush.edges c = s.edges c := by
  have hd (y : State) (d : Fin 4) (l : List Nat) : (l.foldl (fun y _ => y.auxNext d) y).edges c = y.edges c := by
    induction l generalizing y with
    | nil => rfl
    | cons _ l ih => exact (ih _).trans (State.edges_auxNext d)
  unfold State.auxFlush
  generalize List.range 64 = l
  exact keeps_each (P := fun y => y.edges c = s.edges c) _ (fun d y hy => (hd y d l).trans hy) rfl

/-- A stamp word that is delivered, waits or is discarded counts no edge. -/
theorem State.edges_auxDeliver (w : Nat) : (s.auxDeliver c w).edges c = s.edges c := by
  unfold State.auxDeliver
  extract_lets s1 a
  have h1 : s1.edges c = s.edges c := State.edges_auxFlush
  clear_value s1
  split
  · exact (State.edges_auxWord w).trans h1
  · split
    · exact (State.edges_setAux_of (by rfl)).trans h1
    · have h : Keeps [.tdc] [] s1 ((s1.bump .tdc_AUX_DROP c).wrBit .tdc_AUX_OVR 0 c true) :=
        (rest_wr .tdc_AUX_OVR Foot.but_may _ _).trans (rest_wr .tdc_AUX_DROP Foot.but_may _ _)
      exact h.edges.trans h1

/-! #### An edge (R66, R67) -/

variable {fall : Bool} {raw : RawCapture} {refs : Nat}

/-- An edge outside the dead time is counted and stamped; its uses in other blocks leave the count. -/
theorem State.edges_auxEdge (hm : fall = s.rdBit .tdc_AUX_EDGE 0 c)
    (hn : ∀ t0, (s.auxCh c).last = some t0 → t0 + auxDead ≤ s.clock) :
    (s.auxEdge c fall raw refs).edges c = ((s.auxCh c).ecount + 1, some s.clock) := by
  unfold State.auxEdge
  extract_lets mine pps a near
  have hmine : mine = true := by simp [mine, hm]
  have hnear : near = false := by
    unfold near a
    split
    next t0 hl => exact decide_eq_false (Nat.not_lt.2 (hn t0 hl))
    · rfl
  rw [if_neg (by simp [hmine]), if_neg (by simp [hnear])]
  split
  next x0 bad _ =>
  extract_lets x s1 s2 s3 d _ s4
  have h1 : s1.edges c = (a.ecount + 1, some s.clock) := State.edges_setAux _
  have h2 : Keeps [.tdc] [] s1 s2 := by
    refine rest_ite_eq ?_ rfl
    exact (rest_when (fun _ => rest_wr .tdc_AUX_DROP Foot.but_may _ _) _).trans
      (State.rest_auxUse Foot.but_may (fun _ => Foot.but_mayAt) _ _)
  have h3 : Keeps [.tdc] [] s2 s3 :=
    rest_ite_eq (rest_on (fun _ => State.rest_ppsEdge Foot.but_may _ _) _) rfl
  have h13 : s3.edges c = (a.ecount + 1, some s.clock) := h3.edges.trans (h2.edges.trans h1)
  have h4 : s4.edges c = s3.edges c := State.edges_setAux_of rfl
  split
  · split
    · exact (State.edges_auxDeliver _).trans (h4.trans h13)
    · exact h4.trans h13
  · exact h13

/-- An edge in the dead time is counted and skipped. -/
theorem State.auxEdge_near {t0 : Nat} (hm : fall = s.rdBit .tdc_AUX_EDGE 0 c) (hl : (s.auxCh c).last = some t0)
    (hn : s.clock < t0 + auxDead) : (s.auxEdge c fall raw refs).edges c = ((s.auxCh c).ecount + 1, some t0) ∧
      (s.auxEdge c fall raw refs).rd .tdc_AUX_SKIP c = Fld.cut .tdc_AUX_SKIP (s.rd .tdc_AUX_SKIP c + 1) := by
  have h : s.auxEdge c fall raw refs =
      (s.setAux c { s.auxCh c with ecount := (s.auxCh c).ecount + 1 }).bump .tdc_AUX_SKIP c := by
    unfold State.auxEdge
    extract_lets mine pps a near
    have hmine : mine = true := by simp [mine, hm]
    have hnear : near = true := by
      unfold near a
      rw [hl]
      exact decide_eq_true hn
    rw [if_neg (by simp [hmine]), if_pos hnear]
  rw [h]
  refine ⟨?_, ?_⟩
  · have hk (y : State) : Keeps [.tdc] [] y (y.bump .tdc_AUX_SKIP c) := rest_wr .tdc_AUX_SKIP Foot.but_may _ _
    rw [(hk _).edges, State.edges_setAux, hl]
  · rw [State.bump, State.rd_wr, if_pos ⟨rfl, rfl⟩]
    rfl

/-! #### The swap of a channel's converters (R66) -/

theorem State.auxSwap_brings (h : 2 ^ 20 ≤ (s.auxCh c).instEdges) :
    ((s.auxSwap c).auxCh c).inst = 1 - (s.auxCh c).inst ∧ ((s.auxSwap c).auxCh c).instEdges = 0 ∧
      ((s.auxSwap c).auxCh c).ecount = (s.auxCh c).ecount := by
  have hx : s.auxSwap c = s.setAux c { s.auxCh c with inst := 1 - (s.auxCh c).inst, instEdges := 0 } := if_pos h
  simp [hx]

/-! #### The phase monitor (R68) -/

/-- A measurement that meets one of the three conditions, with neither CLK_BAD nor CLK_FAULT set (R68). -/
theorem State.phaseMonitor_bad {bad lost : Bool} (hb : bad = true ∨ lost = true ∨ s.tdc.caps < 100 * s.tdc.repairs)
    (hf : s.flag .tdc_CLK_FAULT = false) (hc : s.flag .tdc_CLK_BAD = false) :
    (s.phaseMonitor bad lost).flag .tdc_CLK_BAD = true ∧ (s.phaseMonitor bad lost).flag .tdc_CLK_FAULT = true ∧
      (s.phaseMonitor bad lost).tdc.good = 0 ∧ (s.phaseMonitor bad lost).tdc.caps = 0 ∧
      Raised (s.phaseMonitor bad lost) clsTdc 2 unitModule := by
  unfold State.phaseMonitor
  extract_lets many meets d1 s1 was d2 s2
  have hmeets : meets = true := by
    have hb' : (bad = true ∨ lost = true) ∨ s.tdc.caps < 100 * s.tdc.repairs := or_assoc.2 hb
    simpa [meets, many] using hb'
  have hwas : was = false := hc
  have h2 : s2.flag .tdc_CLK_BAD = true := State.flag_wr_one .tdc_CLK_BAD 0 rfl
  have hk (y : State) : Keeps [] [.tdc_CLK_FAULT] y (y.wrB .tdc_CLK_BAD 0 true) := rest_wr .tdc_CLK_BAD Foot.but_may _ _
  have h2f : s2.flag .tdc_CLK_FAULT = false := ((hk _).flag (by decide) 0).trans hf
  have hd : s2.tdc.good = 0 ∧ s2.tdc.caps = 0 := by simp [s2, d2, s1]
  rw [if_pos hmeets, if_pos (by simp only [hwas, h2f]; rfl)]
  have h4 : Keeps [.tdc] [.tdc_CLK_BAD] s2 (s2.wrB .tdc_CLK_FAULT 0 true) := rest_wr .tdc_CLK_FAULT Foot.but_may _ _
  have ht : ((s2.wrB .tdc_CLK_FAULT 0 true).detect clsTdc 2 unitModule).tdc = s2.tdc := h4.part .tdc
  exact ⟨State.flag_detect.trans ((h4.flag (by decide) 0).trans h2),
    State.flag_detect.trans (State.flag_wr_one .tdc_CLK_FAULT 0 rfl),
    (congrArg Tdc.good ht).trans hd.1, (congrArg Tdc.caps ht).trans hd.2, State.raised_detect _ _ _ _⟩

/-- A good measurement is counted; from the 1,000th in a row on CLK_BAD is clear (R68). -/
theorem State.phaseMonitor_good (h : 100 * s.tdc.repairs ≤ s.tdc.caps) :
    (s.phaseMonitor false false).tdc.good = s.tdc.good + 1 ∧ (s.phaseMonitor false false).tdc.caps = 0 ∧
      (s.phaseMonitor false false).flag .tdc_CLK_BAD = (s.flag .tdc_CLK_BAD && decide (s.tdc.good < 999)) := by
  unfold State.phaseMonitor
  extract_lets many meets d1 s1 _ _ _ n s2
  have hmeets : meets = false := by simpa [meets, many] using h
  have hd : s2.tdc.good = s.tdc.good + 1 ∧ s2.tdc.caps = 0 := ⟨rfl, rfl⟩
  rw [if_neg (by simp [hmeets])]
  by_cases hn : 1000 ≤ n
  · have hlt : ¬ s.tdc.good < 999 := by
      have hg : 1000 ≤ s.tdc.good + 1 := hn
      omega
    rw [if_pos hn, State.flag_wrB _ _ _ rfl rfl, decide_eq_false hlt, Bool.and_false, State.wrB_eq, State.tdc_wr]
    exact ⟨hd.1, hd.2, rfl⟩
  · have hlt : s.tdc.good < 999 := by
      have hg : ¬ 1000 ≤ s.tdc.good + 1 := hn
      omega
    rw [if_neg hn, decide_eq_true hlt, Bool.and_true]
    exact ⟨hd.1, hd.2, rfl⟩

end Sys2Proof.Machine
end

open Sys2Proof Sys2Proof.Machine Sys2Proof.Safety in
/-- Settles O15: each command runs its operation at its own time, and what the operation brings is said above. -/
theorem auxCommandsComplete : Obligations.AuxCommandsComplete := by
  intro s t ha
  refine ⟨fun c fall raw refs hm hn => ?_, fun c fall raw refs t0 hm hl hn => ?_, fun c hc => ?_,
    fun bad lost hb hf hc => ?_, fun hg => ?_⟩
  · have hd (t0 : Nat) (hl : (s.auxCh c).last = some t0) : t0 + auxDead ≤ (s.at t).clock := by
      rw [State.clock_at]
      exact le_max_of_le_right (hn t0 hl)
    have h := State.edges_eq_iff.1 (State.edges_auxEdge (s := s.at t) (raw := raw) (refs := refs) hm hd)
    exact brings_on (f := (State.auxEdge · c fall raw refs)) rfl ha h
  · obtain ⟨he, hk⟩ := State.auxEdge_near (s := s.at t) (raw := raw) (refs := refs) hm hl hn
    obtain ⟨hc, ht⟩ := State.edges_eq_iff.1 he
    exact brings_on (f := (State.auxEdge · c fall raw refs)) rfl ha ⟨hc, ht, hk⟩
  · exact brings_on rfl ha (State.auxSwap_brings (s := s.at t) hc)
  · exact brings_on rfl ha (State.phaseMonitor_bad (s := s.at t) hb hf hc)
  · exact brings_on rfl ha (State.phaseMonitor_good (s := s.at t) hg)

/-! ### TBS's record: what the choice of a source and the boundaries behind a step leave of it (R76 to R87) -/

section
namespace Sys2Proof.Machine

open Sys2Proof Safety

variable {s u v : State} {l : Fin 10} {gs : List Fld}

/-! #### TBS's record, and what leaves it alone -/

theorem Keeps.tbs (h : Keeps [.tbs] gs s u) : u.tbs = s.tbs := h.part .tbs

@[simp] theorem State.tbs_tbsUpd (f : Tbs → Tbs) : (s.tbsUpd f).tbs = f s.tbs := rfl

@[simp] theorem State.tbs_emit (ty d : Nat) : (s.emit ty d).tbs = s.tbs := by
  have h : Keeps [.tbs] [] s (s.emit ty d) := State.rest_emit Foot.but_may _ _
  exact h.tbs

@[simp] theorem State.tbs_detect (cls lvl unit : Nat) (ev more : Option (Nat × Nat)) (par : Bool) :
    (s.detect cls lvl unit ev more par).tbs = s.tbs := rfl

@[simp] theorem State.tbs_setFreq (x : Int) : (s.setFreq x).tbs = s.tbs := by
  have h : Keeps [.tbs] [] s (s.setFreq x) := State.rest_setFreq Foot.but_may _
  exact h.tbs

@[simp] theorem State.clapSt_setClap (x : ClapSt) : (s.setClap l x).clapSt l = x := by
  simp [State.clapSt, State.setClap]

/-! #### What the choice of a source changes (R81, R86, R87) -/

/-- TBS's record but for what the choice of a source and the servo of the one chosen go by: the integrator and its history,
the runs of R83, since when there is a holdover and since when sources qualify, and the end of a PPS pulse. -/
def Tbs.unchosen (b : Tbs) : Tbs :=
  { b with integ := 0, hist := [], lockRun := 0, unlockRun := 0, everQual := false, qualSince := .replicate 4 none,
           holdSince := none, holdWarned := false, ppsOutUntil := 0 }

theorem State.unchosen_holdover (k : Nat) : (s.holdover k).tbs.unchosen = s.tbs.unchosen := by
  unfold State.holdover
  split
  · rw [State.tbs_wr]
  · extract_lets h s1 s2 s3 d
    have h3 : s3.tbs.unchosen = s.tbs.unchosen := by
      simp [s3, s2, s1, Tbs.unchosen]
    split
    · rw [State.tbs_emit, h3]
    · exact h3

theorem State.unchosen_srcSwitch (k : Nat) : (s.srcSwitch k).tbs.unchosen = s.tbs.unchosen := by
  unfold State.srcSwitch State.when
  split <;> simp [Tbs.unchosen]

theorem State.unchosen_srcSelect : s.srcSelect.tbs.unchosen = s.tbs.unchosen := by
  unfold State.srcSelect
  extract_lets act
  split
  · split
    · rfl
    · exact State.unchosen_holdover _
  split
  · exact State.unchosen_srcSwitch _
  split
  · rfl
  split
  · split
    · exact State.unchosen_holdover _
    · rfl
  · split
    · exact State.unchosen_srcSwitch _
    · rfl

theorem State.unchosen_srcUpdate : s.srcUpdate.tbs.unchosen = s.tbs.unchosen := by
  unfold State.srcUpdate
  extract_lets ls act
  split
  · exact State.unchosen_srcSelect
  split
  · exact State.unchosen_srcSwitch _
  · exact State.unchosen_holdover _

theorem State.unchosen_qualChanged : s.qualChanged.tbs.unchosen = s.tbs.unchosen :=
  State.unchosen_srcSelect

theorem State.unchosen_clapSel : s.clapSel.tbs.unchosen = s.tbs.unchosen := by
  unfold State.clapSel
  extract_lets q
  rw [State.unchosen_qualChanged, State.wrB_eq, State.tbs_wr]

theorem State.unchosen_tbsCommit (old : Nat) (parent : Option Nat) :
    (s.tbsCommit old parent).tbs.unchosen = s.tbs.unchosen := by
  unfold State.tbsCommit
  extract_lets new s1 s2 s3
  have h1 : s1.tbs.unchosen = s.tbs.unchosen := by
    unfold s1
    split <;> rfl
  have h2 : s2.tbs = s1.tbs := by
    unfold s2
    split
    · rfl
    · exact State.tbs_wr _ _ _ _
  have h3 : s3.tbs.unchosen = s2.tbs.unchosen := by
    unfold s3 State.when
    split <;> rfl
  have h : s3.tbs.unchosen = s.tbs.unchosen := h3.trans ((congrArg Tbs.unchosen h2).trans h1)
  split
  · exact State.unchosen_qualChanged.trans h
  · exact State.unchosen_clapSel.trans h

/-! #### What was heard of the other modules and of the PTP master (R76 to R79) -/

/-- What the last clapper received told: the time quality, its lane and STEP_GEN. -/
def ClapSt.told (c : ClapSt) : Nat × Nat × Option Nat := (c.tq, c.lane, c.stepGen)

/-- What the last clapper of each link told, and how far the exchange with the PTP master has come. -/
def Tbs.heard (b : Tbs) : Vector (Nat × Nat × Option Nat) 10 × Option (Nat × Nat) × Option Int × Nat :=
  (b.clap.map ClapSt.told, b.delayReq, b.delayLog, b.ptpRun)

theorem Tbs.heard_of_unchosen {a b : Tbs} (h : b.unchosen = a.unchosen) : b.heard = a.heard :=
  (congrArg Tbs.heard h : b.unchosen.heard = a.unchosen.heard)

theorem State.told_of_heard (h : u.tbs.heard = s.tbs.heard) : (u.clapSt l).told = (s.clapSt l).told := by
  have hv : u.tbs.clap.map ClapSt.told = s.tbs.clap.map ClapSt.told := congrArg Prod.fst h
  simpa [State.clapSt] using congrArg (·[l]) hv

/-- A link's exchange that starts anew leaves what its last clapper told. -/
theorem State.heard_setClap {x : ClapSt} (h : x.told = (s.clapSt l).told) : (s.setClap l x).tbs.heard = s.tbs.heard := by
  have hv : (s.tbs.clap.set l x).map ClapSt.told = s.tbs.clap.map ClapSt.told := by
    have hx : x.told = (s.tbs.clap.map ClapSt.told)[l.val] := by
      rw [h, Vector.getElem_map]
      rfl
    rw [Vector.map_set, hx, Vector.set_getElem_self]
  simp [State.setClap, Tbs.heard, hv]

/-! #### What the boundaries of a step keep of TBS (R84, R85) -/

/-- From s to u the base of TB time and what was heard stay. -/
structure Lasts (s u : State) : Prop where
  base : u.tbs.base = s.tbs.base
  heard : u.tbs.heard = s.tbs.heard

theorem Lasts.refl (s : State) : Lasts s s := ⟨rfl, rfl⟩

theorem Lasts.trans (h : Lasts s u) (k : Lasts u v) : Lasts s v := ⟨k.base.trans h.base, k.heard.trans h.heard⟩

theorem Lasts.of_unchosen (h : u.tbs.unchosen = s.tbs.unchosen) : Lasts s u :=
  ⟨(congrArg Tbs.base h : u.tbs.unchosen.base = s.tbs.unchosen.base), Tbs.heard_of_unchosen h⟩

/-- An operation that leaves TBS's record. -/
theorem Lasts.keep (h : Lasts s u) (k : Keeps [.tbs] [] u v) : Lasts s v :=
  ⟨(congrArg Tbs.base k.tbs).trans h.base, (congrArg Tbs.heard k.tbs).trans h.heard⟩

theorem State.lasts_setClap {x : ClapSt} (h : x.told = (s.clapSt l).told) : Lasts s (s.setClap l x) :=
  ⟨rfl, State.heard_setClap h⟩

theorem Lasts.clapLinkDown (h : Lasts s u) (l : Fin 10) : Lasts s (u.clapLinkDown l) := by
  unfold State.clapLinkDown
  extract_lets c s1 s2
  have h1 : Lasts s s1 := h.trans (State.lasts_setClap rfl)
  have h2 : Lasts s s2 := keeps_ite (h1.keep (rest_wr .tbs_CLAP_VALID Foot.but_may _ _)) h1
  refine keeps_ite ?_ h2
  exact (h2.keep (rest_wr .tbs_CLAP_QUAL Foot.but_may _ _)).trans (.of_unchosen State.unchosen_qualChanged)

theorem Lasts.treLinkDown (h : Lasts s u) (l : Fin 10) : Lasts s (u.treLinkDown l) := by
  unfold State.treLinkDown
  extract_lets role s1 _ s2 s3 s4 s5
  have h1 : Lasts s s1 := (h.clapLinkDown l).keep (State.rest_treLinkNew Foot.but_may _)
  have h2 : Lasts s s2 := (h1.keep (State.rest_cutPkts Foot.but_may _)).keep (State.rest_setLink Foot.but_may _ _)
  have h3 : Lasts s s3 := h2.keep (State.rest_treUpd Foot.but_may _)
  have h4 : Lasts s s4 := ((h3.keep (State.rest_setRole Foot.but_may _ _)).keep (rest_wr .tre_STBY_OK Foot.but_may _ _)).keep
    (State.rest_pump0 Foot.but_may)
  have h5 : Lasts s s5 := h4.trans (.of_unchosen State.unchosen_clapSel)
  refine keeps_ite (keeps_ite ?_ ?_) h4
  · exact (h5.keep (rest_wr .tre_FAILOVERS Foot.but_may _ _)).keep (State.rest_sendLost Foot.but_may _)
  · exact h5.keep (State.rest_topoFault Foot.but_may _ _)

theorem Lasts.linkLost (h : Lasts s u) (l : Fin 10) : Lasts s (u.linkLost l) := by
  unfold State.linkLost
  extract_lets s1
  have h1 : Lasts s s1 := ((h.keep (rest_wr .lnk_DEGRADED Foot.but_may _ _)).treLinkDown l).keep
    (State.rest_lnkRegs Foot.but_may _)
  exact keeps_ite (h1.keep (State.rest_portOff Foot.but_may _)) h1

theorem Lasts.laneLeave (h : Lasts s u) (l : Fin 10) (j : Fin 2) (st : Nat) (ack fault : Bool) :
    Lasts s (u.laneLeave l j st ack fault) := by
  unfold State.laneLeave
  extract_lets was carried o s1
  have h1 : Lasts s s1 := h.keep (State.rest_laneOff Foot.but_may _ _ _)
  have hr (x : State) (hx : Lasts s x) : Lasts s (x.lnkRegs l) := hx.keep (State.rest_lnkRegs Foot.but_may _)
  refine keeps_ite (keeps_ite (hr _ h1) (keeps_ite ?_ ?_)) (keeps_ite (keeps_ite ?_ ?_) (hr _ h1))
  · exact h1.keep (State.rest_restripe Foot.but_may _ _ _ _)
  · exact Lasts.linkLost (keeps_when (fun _ hx => hx.keep (State.rest_laneOff Foot.but_may _ _ _)) h1) l
  · exact hr _ (h1.keep (State.rest_setLink Foot.but_may _ _))
  · exact h1.linkLost l

theorem Lasts.portDrained (h : Lasts s u) (l : Fin 10) : Lasts s (u.portDrained l) := by
  unfold State.portDrained
  extract_lets x s1
  have h1 : Lasts s s1 :=
    keeps_each _ (fun _ _ hx => keeps_ite (hx.keep (State.rest_sendHello Foot.but_may _ _ _ _)) hx) h
  exact keeps_ite (keeps_ite (h1.linkLost l) (h1.keep (State.rest_portOff Foot.but_may _))) h

theorem Lasts.lnkLanes (h : Lasts s u) : Lasts s u.lnkLanes := by
  refine keeps_each _ (fun l x hx => ?_) h
  extract_lets s1
  have h1 : Lasts s s1 := keeps_each _ (fun j _ hy => keeps_ite (hy.laneLeave l j _ _ _) hy)
    (hx.keep (State.rest_huntLanes Foot.but_may _))
  exact keeps_each _ (fun _ _ hy => keeps_ite (hy.keep (State.rest_laneUp Foot.but_may _ _)) hy) h1

theorem Lasts.lnkCommit (h : Lasts s u) (en : Nat) : Lasts s (u.lnkCommit en) := by
  unfold State.lnkCommit
  extract_lets now s1 s2
  have h1 : Lasts s s1 := keeps_each _ (fun _ _ hx => keeps_ite (hx.keep (State.rest_setLink Foot.but_may _ _)) hx) h
  have h2 : Lasts s s2 := keeps_each _ (fun _ _ hx => keeps_ite (hx.keep (rest_wr .lnk_PORT_FINAL Foot.but_may _ _)) hx) h1
  exact (Lasts.lnkLanes (keeps_each _ (fun l _ hx => hx.portDrained l) h2)).keep (State.rest_revCap Foot.but_may)

theorem Lasts.commitBlocks (h : Lasts s u) (old : State) (k : Nat) : Lasts s (u.commitBlocks old k) := by
  unfold State.commitBlocks
  extract_lets s1 s2 s3 s4 s5 s6 s7
  have h1 : Lasts s s1 := keeps_on (fun _ hx => hx.trans (.of_unchosen (State.unchosen_tbsCommit _ _))) h
  have k2 : Keeps [.tbs] [] s1 s2 := rest_on (fun _ => State.rest_hkaCommit Foot.but_may _ _ _) _
  have k3 : Keeps [.tbs] [] s2 s3 := rest_on (fun _ => State.rest_scrubPlan Foot.but_may) _
  have k4 : Keeps [.tbs] [] s3 s4 := rest_on (fun _ => State.rest_treCommit Foot.but_may _ _) _
  have h5 : Lasts s s5 := keeps_on (fun _ hx => hx.lnkCommit _) (((h1.keep k2).keep k3).keep k4)
  have k6 : Keeps [.tbs] [] s5 s6 := rest_on (fun _ => State.rest_ethCommit Foot.but_may _ _ _ _ _) _
  have k7 : Keeps [.tbs] [] s6 s7 := rest_on (fun _ => State.rest_trgCommit Foot.but_may _ _ _ _) _
  have h7 : Lasts s s7 := (h5.keep k6).keep k7
  exact keeps_ite (h7.keep (State.rest_relayAll Foot.but_may _)) h7

theorem Lasts.commitForce (h : Lasts s u) (g : Staged) (k : Nat) (x : Int) : Lasts s (u.commitForce g k x) := by
  rw [State.commitForce_eq]
  refine Lasts.keep ?_ (State.rest_acquireNow Foot.but_may)
  unfold State.commitInForce
  extract_lets s1 win old _ _ s2 s3 s4 y s5 s6
  have h1 : Lasts s s1 := keeps_when (fun _ hx => hx.keep (State.rest_rampRebase Foot.but_may)) h
  have ho : Lasts s old := keeps_ite (keeps_each _ (fun _ _ hx => hx.keep (State.rest_frontUp Foot.but_may _)) h1) h1
  have h2 : Lasts s s2 := ⟨ho.base, ho.heard⟩
  have h3 : Lasts s s3 := (h2.keep (State.rest_ownValues Foot.but_may)).keep (State.rest_commitTicks Foot.but_may _ _ _)
  have h4 : Lasts s s4 := h3.keep (State.rest_epochUp Foot.but_may _ _)
  have h5 : Lasts s s5 :=
    keeps_each _ (fun _ _ hx => hx.keep (State.rest_commitRegion Foot.but_may Foot.but_region _ _ _ _ _ _)) h4
  have h6 : Lasts s s6 := keeps_ite (h5.keep (State.rest_reorderChange Foot.but_may Foot.but_region)) h5
  exact h6.commitBlocks _ _

theorem Lasts.commitBoundary (h : Lasts s u) : Lasts s u.commitBoundary := by
  unfold State.commitBoundary
  split
  · exact h
  next g _ =>
    refine keeps_ite ?_ h
    extract_lets s1 x y again ok s2
    have h1 : Lasts s s1 :=
      (h.keep (rest_staged Foot.but_may none)).keep (rest_wr .seq_COMMIT_PEND Foot.but_may _ _)
    have ha (z : State) (hz : Lasts s z) : Lasts s (again z) :=
      keeps_ite (keeps_each _ (fun _ _ hx => hx.keep (State.rest_injTick Foot.but_may Foot.but_region _ _ _)) hz) hz
    have h2 : Lasts s s2 := keeps_ite (ha _ h1)
      (keeps_ite (h1.commitForce _ _ _) (ha _ (h1.keep (State.rest_commitReject Foot.but_may _))))
    exact (h2.keep (State.rest_boundaryTail Foot.but_may Foot.but_region _ _)).keep (State.rest_commitSaid Foot.but_may _ _)

/-! #### The boundaries themselves -/

theorem Lasts.tdcTick (h : Lasts s u) : Lasts s u.tdcTick := by
  refine keeps_on (fun x hx => ?_) h
  extract_lets s1 s2
  have h1 : Lasts s s1 := keeps_each _ (fun _ _ hy => hy.keep (State.rest_calBoundary Foot.but_may Foot.but_region _)) hx
  have h2 : Lasts s s2 := keeps_each _ (fun _ _ hy => hy.keep (State.rest_setAux Foot.but_may _ _)) h1
  clear_value s2
  exact ⟨h2.base, h2.heard⟩

theorem Lasts.boundary (h : Lasts s u) (k : Nat) (x : Int) (stepped gone into : Bool) :
    Lasts s (u.boundary k x stepped gone into) := by
  unfold State.boundary
  extract_lets marks cut bad s1 s2 s3 marks2 s4 s5 _ s6 s7 y s8 s9
  have h3 : Lasts s s3 := by
    have h2 : Lasts s s2 := ((h.keep (State.rest_seqUpd Foot.but_may _)).keep (State.rest_relayDue Foot.but_may _)).keep
      (rest_wr .seq_TICK_INDEX Foot.but_may _ _)
    exact keeps_ite (h2.keep (State.rest_emit Foot.but_may _ _)) h2
  refine keeps_ite ?_ ?_
  · have h4 : Lasts s s4 := keeps_each _ (fun _ _ hx => hx.keep (State.rest_setEvbR Foot.but_may _ _)) h3
    exact keeps_on (fun _ hx => hx.keep (State.rest_featBoundary Foot.but_may _)) (h4.keep (State.rest_hkaTick Foot.but_may))
  · have h5 : Lasts s s5 :=
      keeps_ite (keeps_each _ (fun _ _ hx => hx.keep (State.rest_headFlag Foot.but_may _ _ _)) h3) h3
    have h6 : Lasts s s6 := h5.trans ⟨rfl, rfl⟩
    clear_value s6
    have h7 : Lasts s s7 := keeps_ite (h6.keep (State.rest_gapOwn Foot.but_may _ _ _ _)) h6
    have h8 : Lasts s s8 := keeps_each _
      (fun _ _ hx => hx.keep (State.rest_tickRegion Foot.but_may Foot.but_region _ _ _ _ _ _ _)) h7.tdcTick
    have h9 : Lasts s s9 := h8.keep (State.rest_seqUpd Foot.but_may _)
    exact keeps_on (fun _ hx => hx.keep (State.rest_takeBoundary Foot.but_may _))
      (h9.keep (State.rest_onceTick Foot.but_may Foot.but_region _))

theorem Lasts.scheduleBegin (h : Lasts s u) (stepped : Bool) : Lasts s (u.scheduleBegin stepped) := by
  unfold State.scheduleBegin
  split
  · exact h
  extract_lets k _ _ s1 s2 s3 quiet _ _ s4 s5 _ s6
  have h2 : Lasts s s2 := ((h.keep (State.rest_seqUpd Foot.but_may _)).keep (rest_wr .seq_TICK_RUN Foot.but_may _ _)).keep
    (rest_wr .seq_TICK_INDEX Foot.but_may _ _)
  have h3 : Lasts s s3 := keeps_each _ (fun _ _ hx => hx.keep (State.rest_setEvbR Foot.but_may _ _)) h2
  have hq (z : State) (hz : Lasts s z) : Lasts s (quiet z) := hz.keep (State.rest_seqUpd Foot.but_may _)
  refine keeps_ite (keeps_ite ?_ ?_) h
  · exact keeps_on (fun _ hx => hx.keep (State.rest_featBoundary Foot.but_may _))
      ((hq _ h3).keep (State.rest_hkaTick Foot.but_may))
  · have h4 : Lasts s s4 := by
      refine keeps_each _ (fun r z hz => ?_) h3.tdcTick
      extract_lets z1 z2 z3
      have k1 : Lasts s z1 := keeps_on (fun _ hx => hx.keep (State.rest_newRec Foot.but_may _ _ _ _)) hz
      have hm (b : Bool) : Keeps [.tbs] [] z1 (z1.modeClear r k b) := State.rest_modeClear Foot.but_may Foot.but_region _ _ _
      have k2 : Lasts s z2 := keeps_ite (k1.keep (hm _)) (keeps_ite (k1.keep (hm _)) k1)
      have k3 : Lasts s z3 := by
        refine keeps_on (fun x hx => ?_) k2
        extract_lets _ x1
        have hx1 : Lasts s x1 := (hx.keep (State.rest_setPfeR Foot.but_may Foot.but_mayAt _)).keep
          (State.rest_hotBoundary Foot.but_may Foot.but_region _)
        exact keeps_ite hx1 (hx1.keep (State.rest_injTick Foot.but_may Foot.but_region _ _ _))
      exact keeps_on (fun _ hx => hx.keep (State.rest_ctxBoundary Foot.but_may Foot.but_region _)) k3
    have h6 : Lasts s s6 := (hq _ h4).trans ⟨rfl, rfl⟩
    exact h6.keep (State.rest_onceTick Foot.but_may Foot.but_region _)

/-- The boundaries that a step jumped over, each with its commit, move TB time no further. -/
theorem State.lasts_afterStep : Lasts s s.afterStep := by
  unfold State.afterStep
  split
  · exact .refl s
  extract_lets _ s1 was k0 s2 n s3
  have h1 : Lasts s s1 := ⟨rfl, rfl⟩
  have hh (x : State) (hx : Lasts s x) : Lasts s x.stepHeads := hx.keep (State.rest_stepHeads Foot.but_may)
  have h2 : Lasts s s2 := h1.scheduleBegin true
  refine keeps_ite (hh _ (h1.keep (State.rest_seqUpd Foot.but_may _))) (keeps_ite ?_ h2)
  exact keeps_foldl _ (fun _ _ hx => (hx.boundary _ _ _ _ _).commitBoundary) (keeps_when hh h2)

end Sys2Proof.Machine
end

/-! ### Steps of TB time, its reading, the frequency word and PPS_OUT: what each command brings about (R71, R72, R84, R89 to R91) -/

section
namespace Sys2Proof.Machine

open Sys2Proof Safety

variable {s : State} {x w : Nat} {d : Int}

/-! #### A step of TB time (R84) -/

/-- Where no step was made there are no boundaries to make up for. -/
theorem State.afterStep_of_none (h : s.tbs.stepped = none) : s.afterStep = s := by
  rw [State.afterStep, h]

/-- What the registers tell of steps no boundary changes, nor a configuration put in force. -/
theorem State.keeps_afterStep : Keeps [] [.tbs_STEPPED, .tbs_STEP_COUNT, .tbs_TIME_SET] s s.afterStep := by
  have hw : ∀ f ∈ [Fld.tbs_STEPPED, .tbs_STEP_COUNT, .tbs_TIME_SET], f.desc.acc ≠ .rwc := by decide
  exact State.rest_afterStep Foot.but_may (fun f _ he hf => hw f hf he) Foot.but_region

theorem State.base_tbStep (h : 0 ≤ s.tbOf s.local_ + d) : (s.tbStep d).tbs.base = s.tbs.base + d := by
  unfold State.tbStep
  extract_lets now d' s1 s2
  have hd : d' = d := if_neg (not_lt.2 h)
  have h2 : s2.tbs = s1.tbs := by simp [s2]
  rw [State.tbs_emit, h2, ← hd]
  rfl

theorem State.registers_tbStep : (s.tbStep d).flag .tbs_STEPPED = true ∧
    (s.tbStep d).rd .tbs_STEP_COUNT = Fld.cut .tbs_STEP_COUNT (s.rd .tbs_STEP_COUNT + 1) := by
  unfold State.tbStep
  extract_lets now d' s1 s2
  have k (ty n : Nat) : Keeps [] [.tbs_STEPPED, .tbs_STEP_COUNT] s2 (s2.emit ty n) := State.rest_emit Foot.but_may _ _
  have h1 : s1.rd .tbs_STEP_COUNT = s.rd .tbs_STEP_COUNT := rfl
  have h2 : s2.rd .tbs_STEP_COUNT = Fld.cut .tbs_STEP_COUNT (s1.rd .tbs_STEP_COUNT + 1) := by
    simp [s2, State.rd_wr]
  exact ⟨((k _ _).flag (by decide) 0).trans (State.flag_wrB _ _ _ rfl rfl), ((k _ _).rd (by decide) 0).trans (h1 ▸ h2)⟩

/-- A step to x gives TB time x at the next coarse edge. -/
theorem State.base_stepTo : (s.stepTo x).tbs.base = (x : Int) - s.nextEdge.local_ := by
  have h : 0 ≤ s.nextEdge.tbOf s.nextEdge.local_ + ((x : Int) - s.nextEdge.tbOf s.nextEdge.local_) := by omega
  rw [State.stepTo, State.base_tbStep h, State.tbOf]
  omega

theorem State.registers_stepTo : (s.stepTo x).flag .tbs_STEPPED = true ∧
    (s.stepTo x).rd .tbs_STEP_COUNT = Fld.cut .tbs_STEP_COUNT (s.rd .tbs_STEP_COUNT + 1) :=
  State.registers_tbStep (s := s.nextEdge)

/-- STEP_CMD outside ACQUIRE: the step, and what follows it. -/
theorem State.stepCmd_steps (hp : s.pwr ≠ .acquire) (hx : timeOfWords (s.rd .tbs_TIME_SET) = some x) :
    s.stepCmd.afterStep.tbs.base = (x : Int) - s.nextEdge.local_ ∧ s.stepCmd.afterStep.flag .tbs_STEPPED = true ∧
      s.stepCmd.afterStep.rd .tbs_STEP_COUNT = Fld.cut .tbs_STEP_COUNT (s.rd .tbs_STEP_COUNT + 1) := by
  have h : s.stepCmd = s.stepTo x := by
    rw [State.stepCmd, if_neg (by simpa using hp), hx, Option.getD_some]
  rw [h]
  obtain ⟨hf, hc⟩ := State.registers_stepTo (s := s) (x := x)
  exact ⟨State.lasts_afterStep.base.trans State.base_stepTo, (State.keeps_afterStep.flag (by decide) 0).trans hf,
    (State.keeps_afterStep.rd (by decide) 0).trans hc⟩

/-- STEP_CMD in ACQUIRE is refused. -/
theorem State.stepCmd_refused (hp : s.pwr = .acquire) (hn : s.tbs.stepped = none) :
    s.stepCmd.afterStep.flag .tbs_STEP_REFUSED = true ∧ s.stepCmd.afterStep.tbs.base = s.tbs.base := by
  have h : s.stepCmd = s.wrB .tbs_STEP_REFUSED 0 true := if_pos (by simp [hp])
  rw [h, State.afterStep_of_none (by simpa using hn)]
  exact ⟨State.flag_wrB _ _ _ rfl rfl, by simp⟩

/-! #### TIME_SET written (R84) -/

theorem State.timeSet_of_some (hw : timeOfWords w = some x) :
    s.timeSet w = if s.tbs.everQual then s.wr .tbs_TIME_SET 0 w else (s.wr .tbs_TIME_SET 0 w).stepTo x := by
  simp only [State.timeSet, hw, State.tbs_wr]

theorem State.timeSet_steps (hw : timeOfWords w = some x) (hq : s.tbs.everQual = false) :
    (s.timeSet w).afterStep.rd .tbs_TIME_SET = Fld.cut .tbs_TIME_SET w ∧
      (s.timeSet w).afterStep.tbs.base = (x : Int) - s.nextEdge.local_ ∧
      (s.timeSet w).afterStep.flag .tbs_STEPPED = true := by
  rw [State.timeSet_of_some hw, hq, if_neg Bool.false_ne_true]
  have k : Keeps [] [.tbs_TIME_SET] (s.wr .tbs_TIME_SET 0 w) ((s.wr .tbs_TIME_SET 0 w).stepTo x) :=
    State.rest_stepTo Foot.but_may _
  have hl : (s.wr .tbs_TIME_SET 0 w).nextEdge.local_ = s.nextEdge.local_ := rfl
  refine ⟨?_, ?_, ?_⟩
  · rw [State.keeps_afterStep.rd, k.rd, State.rd_wr, if_pos ⟨rfl, rfl⟩]
  · rw [State.lasts_afterStep.base, State.base_stepTo, hl]
  · exact (State.keeps_afterStep.flag (by decide) 0).trans State.registers_stepTo.1

/-- Once a source has qualified TIME_SET waits for a STEP_CMD. -/
theorem State.timeSet_waits (hw : timeOfWords w = some x) (hq : s.tbs.everQual = true) (hn : s.tbs.stepped = none) :
    (s.timeSet w).afterStep.rd .tbs_TIME_SET = Fld.cut .tbs_TIME_SET w ∧ (s.timeSet w).afterStep.tbs.base = s.tbs.base := by
  rw [State.timeSet_of_some hw, hq, if_pos rfl, State.afterStep_of_none (by simpa using hn)]
  exact ⟨by rw [State.rd_wr, if_pos ⟨rfl, rfl⟩], by simp⟩

theorem State.timeSet_refused (hw : timeOfWords w = none) (hn : s.tbs.stepped = none) :
    (s.timeSet w).afterStep.rd .tbs_TIME_SET = s.rd .tbs_TIME_SET ∧ (s.timeSet w).afterStep.flag .tbs_CFG_ERR = true ∧
      (s.timeSet w).afterStep.tbs.base = s.tbs.base := by
  have h : s.timeSet w = s.wrB .tbs_CFG_ERR 0 true := by simp only [State.timeSet, hw]
  rw [h, State.afterStep_of_none (by simpa using hn)]
  exact ⟨by simp [State.rd_wr], State.flag_wrB _ _ _ rfl rfl, by simp⟩

/-! #### The snapshot, the frequency word and the PPS output (R72, R89 to R91) -/

theorem State.snapReq_brings : s.snapReq.rd .tbs_SNAP_COARSE = (s.coarse + 1) % 2 ^ 64 ∧ s.snapReq.flag .tbs_SNAP_DONE = true ∧
    s.snapReq.rd .tbs_SNAP_TIME = Fld.cut .tbs_SNAP_TIME (timeWords (s.tbOf ((coarseFu * (s.coarse + 1) : Nat) : Int)).toNat) := by
  unfold State.snapReq
  extract_lets c
  refine ⟨?_, State.flag_wrB _ _ _ rfl rfl, ?_⟩
  · simp only [State.wrB_eq, State.rd_wr, reduceCtorEq, false_and, if_false, and_self, if_true]
    rfl
  · simp only [State.wrB_eq, State.rd_wr, reduceCtorEq, false_and, if_false, and_self, if_true]
    rfl

/-- A signed word reads back a value that it holds. -/
theorem sgn_toU {y : Int} (hl : -2147483648 ≤ y) (hu : y < 2147483648) : sgn 32 (toU 32 y % 2 ^ 32) = y := by
  unfold sgn toU
  omega

theorem sgn_toNat (v : BitVec 32) : sgn 32 v.toNat = v.toInt := by
  have h := v.isLt
  rw [BitVec.toInt_eq_toNat_cond]
  unfold sgn
  omega

theorem State.freqWrite_taken (v : BitVec 32) (hm : s.rd .tbs_SERVO_MODE = 2) :
    (s.freqWrite v.toNat).rdS .tbs_FREQ_WORD = clampI (-100000000) 100000000 v.toInt := by
  rw [State.freqWrite, if_pos (by simp [hm]), sgn_toNat]
  unfold State.setFreq
  extract_lets c
  have hc : -100000000 ≤ c ∧ c ≤ 100000000 := by
    unfold c clampI
    omega
  have k (y : State) (b : Bool) : Keeps [] [.tbs_FREQ_WORD] y (y.when b fun s => s.wrB .tbs_FREQ_CLAMP 0 true) :=
    rest_when (fun _ => rest_wr .tbs_FREQ_CLAMP Foot.but_may _ _) _
  rw [State.rdS_eq, (k _ _).rd, State.wrS_eq, State.rd_wr, if_pos ⟨rfl, rfl⟩]
  exact sgn_toU (by omega) (by omega)

/-- A write of FREQ_WORD outside MANUAL is refused. -/
theorem State.freqWrite_refused (hm : s.rd .tbs_SERVO_MODE ≠ 2) :
    (s.freqWrite w).rd .tbs_FREQ_WORD = s.rd .tbs_FREQ_WORD ∧ (s.freqWrite w).flag .tbs_CFG_ERR = true := by
  rw [State.freqWrite, if_neg (by simpa using hm)]
  exact ⟨by simp [State.rd_wr], State.flag_wrB _ _ _ rfl rfl⟩

theorem State.ppsOut_rises {y : Int}
    (hm : s.rd .tbs_PPS_OUT_MODE = 1 ∨ (s.rd .tbs_PPS_OUT_MODE = 2 ∧ s.flag .tbs_LOCKED = true))
    (hy : y = (s.tbStamp : Int) - s.rdS .tbs_PPS_OUT_OFS) (hl : y % (secFu : Nat) < coarseFu)
    (ho : s.tbs.ppsOutLast ≠ some (y / (secFu : Nat))) :
    s.ppsOut.tbs.ppsOutUntil = s.clock - (y % (secFu : Nat)).toNat + s.rd .tbs_PPS_WIDTH * msFu ∧
      s.ppsOut.tbs.ppsOutLast = some (y / (secFu : Nat)) := by
  subst hy
  unfold State.ppsOut
  extract_lets m y k late
  have hlate : late < coarseFu := (Int.toNat_lt (Int.emod_nonneg _ (by decide))).2 hl
  have hmode : (m == 1 || (m == 2 && s.flag .tbs_LOCKED)) = true := by
    simpa only [Bool.or_eq_true, Bool.and_eq_true, beq_iff_eq] using hm
  have hlast : (s.tbs.ppsOutLast != some k) = true := bne_iff_ne.2 ho
  rw [if_pos (by rw [hmode, decide_eq_true hlate, hlast]; rfl)]
  exact ⟨rfl, rfl⟩

/-- A mode that allows no pulse. -/
theorem State.ppsOut_rests
    (hm : s.rd .tbs_PPS_OUT_MODE = 0 ∨ (s.rd .tbs_PPS_OUT_MODE = 2 ∧ s.flag .tbs_LOCKED = false)) : s.ppsOut = s := by
  have h : (s.rd .tbs_PPS_OUT_MODE == 1 || (s.rd .tbs_PPS_OUT_MODE == 2 && s.flag .tbs_LOCKED)) = false := by
    rcases hm with hm | ⟨hm, hf⟩
    · rw [hm]
      rfl
    · rw [hm, hf]
      rfl
  unfold State.ppsOut
  extract_lets m y k late
  exact if_neg (by rw [h]; simp)

end Sys2Proof.Machine
end

open Sys2Proof Sys2Proof.Machine Sys2Proof.Safety in
/-- Settles O17: each command runs its operation at its own time, and what the operation brings is said above. -/
theorem timeCommandsComplete : Obligations.TimeCommandsComplete := by
  intro s t ha
  refine ⟨fun x hp hx => ?_, fun hp hn => ?_, fun v x hv hq => ?_, fun v x hv hq hn => ?_, fun v hv hn => ?_, ?_, ?_,
    fun v hm => ?_, fun v hm => ?_, fun x hm hx hl ho => ?_, fun hm => ?_⟩
  · exact brings_on rfl ha (State.stepCmd_steps (s := s.at t) hp hx)
  · exact brings_on rfl ha (State.stepCmd_refused (s := s.at t) hp hn)
  · exact brings_on rfl ha (State.timeSet_steps (s := s.at t) hv hq)
  · exact brings_on rfl ha (State.timeSet_waits (s := s.at t) hv hq hn)
  · exact brings_on rfl ha (State.timeSet_refused (s := s.at t) hv hn)
  · exact brings_on rfl ha (State.snapReq_brings (s := s.at t))
  · exact brings_on rfl ha ⟨rfl, rfl, rfl, rfl⟩
  · exact brings_on rfl ha (State.freqWrite_taken (s := s.at t) v hm)
  · exact brings_on rfl ha (State.freqWrite_refused (s := s.at t) hm)
  · exact brings_on rfl ha (State.ppsOut_rises (s := s.at t) hm hx hl ho)
  · have h : (s.at t).ppsOut = s.at t := State.ppsOut_rests hm
    refine brings_on rfl ha ?_
    rw [h]
    exact ⟨rfl, rfl⟩

/-! ### Clappers and PTP: what each command brings about (R76 to R80) -/

section
namespace Sys2Proof.Machine

open Sys2Proof Safety

variable {s : State} {l : Fin 10} {h : PtpHead}

/-! #### An update of a source leaves what was heard (R82 to R84) -/

/-- What writes of FREQ_WORD and of flags and the servo's own figures keep, the servo keeps. -/
theorem State.servo_induct {P : State → Prop} (hf : ∀ x y, P x → P (x.setFreq y)) (hw : ∀ x f i b, P x → P (x.wrB f i b))
    (hu : ∀ (x : State) (i : Int) (n m : Nat), P x →
      P (x.tbsUpd fun b => { b with integ := i, hist := (i :: b.hist).take 4095, lockRun := n, unlockRun := m }))
    (k : Nat) (e : Int) (a : Nat) (h : P s) : P (s.servo k e a) := by
  unfold State.servo
  extract_lets lim integ y s1 lr ur s2 s3
  have h2 : P s2 := hu _ _ _ _ (hf _ _ h)
  have h3 : P s3 := keeps_ite (hw _ _ _ _ (hw _ _ _ _ h2)) h2
  exact keeps_ite (hw _ _ _ _ h3) h3

theorem State.unchosen_servo (k : Nat) (e : Int) (a : Nat) : (s.servo k e a).tbs.unchosen = s.tbs.unchosen := by
  refine State.servo_induct (P := fun u => u.tbs.unchosen = s.tbs.unchosen) (fun x y h => ?_) (fun x f i b h => ?_)
    (fun x i n m h => ?_) k e a rfl
  · rw [State.tbs_setFreq, h]
  · rw [State.wrB_eq, State.tbs_wr, h]
  · rw [State.tbs_tbsUpd, ← h]
    rfl

theorem State.heard_tbStep (d : Int) : (s.tbStep d).tbs.heard = s.tbs.heard := by
  unfold State.tbStep
  extract_lets now d' s1 s2
  have h2 : s2.tbs = s1.tbs := by simp [s2]
  rw [State.tbs_emit, h2]
  rfl

theorem State.heard_servoUpdate (k : Nat) (e step left : Int) (follow : Bool) :
    (s.servoUpdate k e step left follow).tbs.heard = s.tbs.heard := by
  unfold State.servoUpdate
  extract_lets s1 s2 s3 big
  have h1 : s1.tbs.heard = s.tbs.heard := Tbs.heard_of_unchosen State.unchosen_srcUpdate
  have h2 : s2.tbs = s1.tbs := by simp [s2]
  have h3 : s3.tbs.heard = s.tbs.heard := (congrArg Tbs.heard h2).trans h1
  have hs (x : State) (c : Nat) (y : Int) (a : Nat) : (x.servo c y a).tbs.heard = x.tbs.heard :=
    Tbs.heard_of_unchosen (State.unchosen_servo c y a)
  clear_value s3
  split
  · split
    · rw [hs, State.heard_tbStep]
      exact h3
    split
    · rw [hs, State.heard_tbStep]
      exact h3
    · rw [hs, h3]
  · exact h1

/-! #### Clappers (R76 to R78) -/

theorem State.clapTx_brings (j : Fin 2) : (s.clapTx l j).out = .clap l j (s.clapNow l) :: s.out ∧
    ((s.clapTx l j).clapSt l).seq = ((s.clapSt l).seq + 1) % 65536 := by
  unfold State.clapTx
  extract_lets c k t3 n s1 s2
  have h2 : Keeps [.tbs, .out] [] s1 s2 := State.rest_clapBlocks Foot.but_may _ _ _
  have ho : s2.out = s1.out := h2.part .out
  have hb : s2.tbs = s1.tbs := h2.part .tbs
  refine ⟨congrArg (_ :: ·) ho, ?_⟩
  have hn : (s1.clapSt l).seq = n := congrArg ClapSt.seq (State.clapSt_setClap _)
  exact (congrArg (fun b : Tbs => b.clap[l].seq) hb).trans hn

/-- What the per-port registers report is no part of TBS's record. -/
theorem State.tbs_clapReport {f : State → State} (hf : (f s).tbs = s.tbs) : (s.clapReport l f).tbs = s.tbs := by
  unfold State.clapReport
  split
  · exact hf
  · rfl

theorem ClapSt.told_eq_iff {c : ClapSt} {q j : Nat} {g : Option Nat} :
    c.told = (q, j, g) ↔ c.tq = q ∧ c.lane = j ∧ c.stepGen = g := by
  simp [ClapSt.told]

/-- A clapper received tells its quality, its lane and, with its CLAP_B, STEP_GEN, be its pair usable or not. -/
theorem State.told_clapRx (j : Nat) (k : Clap) : ((s.clapRx l j k).clapSt l).told =
    (k.tq.toNat, j, if k.whole then some k.stepGen.toNat else (s.clapSt l).stepGen) := by
  unfold State.clapRx
  extract_lets p c t2now i t2 t3 changed ready c1 s1 none_
  have hc (y : State) {x : ClapSt} (hx : x.told = c1.told) : ((y.setClap l x).clapSt l).told = c1.told := by
    rw [State.clapSt_setClap, hx]
  have hn : (none_.clapSt l).told = c1.told := hc _ rfl
  have h1 : c1.told = (k.tq.toNat, j, if k.whole then some k.stepGen.toNat else (s.clapSt l).stepGen) := rfl
  rw [← h1]
  clear_value none_ c1 t2 t3
  split
  · exact hn
  split
  next t2 t3 =>
    split
    · split
      next th d _ =>
      extract_lets s2 s3 s4
      have h2 : (s2.clapSt l).told = c1.told := hc _ rfl
      have h3 : s3.tbs = s2.tbs := State.tbs_clapReport (by simp)
      have h23 : (s3.clapSt l).told = c1.told := by rw [State.clapSt, h3, ← h2, State.clapSt]
      have h4 : s4.tbs = s3.tbs := by
        unfold s4 State.when
        split
        · simp
        · rfl
      split
      · have hh : (s4.qualChanged.servoUpdate srcClap th th 0 ready).tbs.heard = s3.tbs.heard := by
          rw [State.heard_servoUpdate, Tbs.heard_of_unchosen State.unchosen_qualChanged, h4]
        rw [State.told_of_heard hh, h23]
      · exact h23
    · exact hn
  · exact hn

theorem State.clapTimeout_brings {t0 : Nat} (hl : (s.clapSt l).lastPair = some t0) (ht : t0 + 3 * msFu ≤ s.clock) :
    ((s.clapTimeout l).clapSt l).pairs = 0 ∧ ((s.clapTimeout l).clapSt l).delays = [] ∧
      ((s.clapTimeout l).clapSt l).lastPair = none := by
  have hc : (s.clapTimeout l).clapSt l = { s.clapSt l with pairs := 0, delays := [], lastPair := none } := by
    unfold State.clapTimeout
    extract_lets c s1 s2
    rw [hl]
    dsimp only
    rw [if_pos ht]
    have h1 : s1.clapSt l = { c with pairs := 0, delays := [], lastPair := none } := State.clapSt_setClap _
    have h2 : s2.tbs = s1.tbs := by
      unfold s2
      split
      · simp
      · rfl
    have h3 : s2.clapSt l = s1.clapSt l := by rw [State.clapSt, h2, State.clapSt]
    split
    · have hq : (s2.wrB .tbs_CLAP_QUAL 0 false).qualChanged.tbs.unchosen = s2.tbs.unchosen := by
        rw [State.unchosen_qualChanged, State.wrB_eq, State.tbs_wr]
      exact (congrArg (fun b : Tbs => b.clap[l]) hq).trans (h3.trans h1)
    · exact h3.trans h1
  rw [hc]
  exact ⟨rfl, rfl, rfl⟩

/-! #### The messages of PTP (R79, R80) -/

theorem State.ptpMsg_taken {f : State → State} (hon : s.ptpOn h.udp = true)
    (hd : h.version = 2 ∧ h.domain = s.rd .tbs_PTP_DOMAIN) : s.ptpMsg h f = f s := by
  rw [State.ptpMsg, if_pos hon, if_pos (by simp [hd.1, hd.2])]

theorem State.ptpMsg_discarded {f : State → State} (hon : s.ptpOn h.udp = true)
    (hd : h.version ≠ 2 ∨ h.domain ≠ s.rd .tbs_PTP_DOMAIN) : s.ptpMsg h f = s.ptpDisc := by
  rw [State.ptpMsg, if_pos hon, if_neg]
  simpa [← not_and_or] using hd

theorem State.ptpDisc_brings :
    s.ptpDisc.tbs = s.tbs ∧ s.ptpDisc.rd .tbs_PTP_DISC = Fld.cut .tbs_PTP_DISC (s.rd .tbs_PTP_DISC + 1) :=
  ⟨State.tbs_wr _ _ _ _, by rw [State.ptpDisc, State.bump, State.rd_wr, if_pos ⟨rfl, rfl⟩]⟩

theorem State.masters_ptpSelect : s.ptpSelect.tbs.masters = s.tbs.masters := by
  unfold State.ptpSelect
  split
  · extract_lets s1
    have h1 : s1.tbs.masters = s.tbs.masters := by
      unfold s1
      split
      · rfl
      · simp
    simpa using h1
  · simp

theorem State.masters_qualChanged : s.qualChanged.tbs.masters = s.tbs.masters :=
  (congrArg Tbs.masters State.unchosen_qualChanged : s.qualChanged.tbs.unchosen.masters = s.tbs.unchosen.masters)

theorem State.ptpAnnounce_taken {a : PtpAnnounce} (hon : s.ptpOn h.udp = true)
    (hd : h.version = 2 ∧ h.domain = s.rd .tbs_PTP_DOMAIN) :
    ⟨h.source, a, s.clock, h.logInterval⟩ ∈ (s.ptpAnnounce h a).tbs.masters := by
  rw [State.ptpAnnounce, State.ptpMsg_taken hon hd]
  dsimp only
  rw [State.masters_qualChanged, State.masters_ptpSelect, State.tbs_tbsUpd]
  exact List.mem_cons_self

theorem State.ptpAnnounce_discarded {a : PtpAnnounce} (hon : s.ptpOn h.udp = true)
    (hd : h.version ≠ 2 ∨ h.domain ≠ s.rd .tbs_PTP_DOMAIN) : (s.ptpAnnounce h a).tbs.masters = s.tbs.masters ∧
      (s.ptpAnnounce h a).rd .tbs_PTP_DISC = Fld.cut .tbs_PTP_DISC (s.rd .tbs_PTP_DISC + 1) := by
  rw [State.ptpAnnounce, State.ptpMsg_discarded hon hd]
  obtain ⟨ht, hc⟩ := State.ptpDisc_brings (s := s)
  exact ⟨congrArg Tbs.masters ht, hc⟩

theorem State.ptpSync_taken (hon : s.ptpOn h.udp = true) (hd : h.version = 2 ∧ h.domain = s.rd .tbs_PTP_DOMAIN)
    (hm : s.tbs.master = some h.source) : (s.ptpSync h true).tbs.sync = some (h.seq.toNat, s.tbStamp, h.corr) ∧
      (s.ptpSync h true).tbs.syncLog = h.logInterval := by
  rw [State.ptpSync, State.ptpMsg_taken hon hd, if_neg (by decide), if_pos (by simp [hm])]
  exact ⟨rfl, rfl⟩

/-- A one-step Sync is counted as discarded, of whatever version and domain. -/
theorem State.ptpSync_oneStep (hon : s.ptpOn h.udp = true) : s.ptpSync h false = s.ptpDisc := by
  by_cases hd : h.version = 2 ∧ h.domain = s.rd .tbs_PTP_DOMAIN
  · rw [State.ptpSync, State.ptpMsg_taken hon hd]
    rfl
  · exact State.ptpMsg_discarded hon (not_and_or.1 hd)

theorem State.ptpFollow_taken {t1 t2 : Nat} {c : Int} (hon : s.ptpOn h.udp = true)
    (hd : h.version = 2 ∧ h.domain = s.rd .tbs_PTP_DOMAIN) (hm : s.tbs.master = some h.source)
    (hs : s.tbs.sync = some (h.seq.toNat, t2, c)) :
    (s.ptpFollow h t1).tbs.follow = some ((t1 : Int), (t2 : Int), corrFu c + corrFu h.corr) ∧
      (s.ptpFollow h t1).tbs.sync = none := by
  rw [State.ptpFollow, State.ptpMsg_taken hon hd, hs]
  dsimp only
  rw [if_pos (by simp [hm])]
  exact ⟨rfl, rfl⟩

/-- A Delay_Req is due: none was sent, its interval is not told, or the interval is over. -/
theorem State.ptpDelayReq_sent (hen : s.flag .tbs_PTP_EN = true) (hl : s.alive .eth = true ∧ s.flag .eth_LINK_UP = true)
    (hf : s.tbs.follow.isSome = true)
    (hdue : ∀ t0 k, s.tbs.delayAt = some t0 → s.tbs.delayLog = some k → t0 + logSec k ≤ s.clock) :
    s.ptpDelayReq.tbs.delayReq = some ((s.tbs.delaySeq + 1) % 65536, s.tbStamp) ∧
      s.ptpDelayReq.tbs.delayAt = some s.clock ∧ s.ptpDelayReq.out =
        ([true, false].filter s.ptpOn).map (s.delayFrame ((s.tbs.delaySeq + 1) % 65536)) ++ s.out := by
  unfold State.ptpDelayReq
  extract_lets due q s1
  have hd : due = true := by
    unfold due
    split
    next t0 k ha hk => exact decide_eq_true (hdue t0 k ha hk)
    · rfl
  rw [if_pos (by rw [hen, hl.1, hl.2, hf, hd]; rfl)]
  exact ⟨rfl, rfl, rfl⟩

theorem State.ptpDelayReq_early {t0 : Nat} {k : Int} (ha : s.tbs.delayAt = some t0) (hk : s.tbs.delayLog = some k)
    (ht : s.clock < t0 + logSec k) : s.ptpDelayReq = s := by
  unfold State.ptpDelayReq
  extract_lets due q s1
  have hd : due = false := by
    unfold due
    rw [ha, hk]
    exact decide_eq_false (Nat.not_le.2 ht)
  rw [if_neg (by simp [hd])]

/-- A Delay_Resp completes an exchange; the update it gives leaves the exchange as it is. -/
theorem State.ptpDelayResp_completes {t3 t4 : Nat} {x : Int × Int × Int} (hon : s.ptpOn h.udp = true)
    (hd : h.version = 2 ∧ h.domain = s.rd .tbs_PTP_DOMAIN) (hm : s.tbs.master = some h.source)
    (hf : s.tbs.follow = some x) (hq : s.tbs.delayReq = some (h.seq.toNat, t3)) :
    (s.ptpDelayResp h t4).tbs.heard.2 = (none, some h.logInterval, s.tbs.ptpRun + 1) := by
  obtain ⟨t1, t2, cs⟩ := x
  rw [State.ptpDelayResp, State.ptpMsg_taken hon hd, hf, hq]
  dsimp only
  rw [if_pos (by simp [hm])]
  set s1 := s.tbsUpd _
  have h1 : s1.tbs.heard.2 = (none, some h.logInterval, s.tbs.ptpRun + 1) := rfl
  clear_value s1
  rw [State.heard_servoUpdate, Tbs.heard_of_unchosen State.unchosen_qualChanged]
  split
  · rw [State.wrB_eq, State.tbs_wr, h1]
  · exact h1

theorem State.ptpDelayResp_brings {t3 t4 : Nat} {x : Int × Int × Int} (hon : s.ptpOn h.udp = true)
    (hd : h.version = 2 ∧ h.domain = s.rd .tbs_PTP_DOMAIN) (hm : s.tbs.master = some h.source)
    (hf : s.tbs.follow = some x) (hq : s.tbs.delayReq = some (h.seq.toNat, t3)) :
    (s.ptpDelayResp h t4).afterStep.tbs.delayReq = none ∧
      (s.ptpDelayResp h t4).afterStep.tbs.delayLog = some h.logInterval ∧
      (s.ptpDelayResp h t4).afterStep.tbs.ptpRun = s.tbs.ptpRun + 1 := by
  have he : (s.ptpDelayResp h t4).afterStep.tbs.heard.2 = (none, some h.logInterval, s.tbs.ptpRun + 1) := by
    rw [State.lasts_afterStep.heard, State.ptpDelayResp_completes hon hd hm hf hq]
  simpa [Tbs.heard] using he

theorem State.ptpAnnTimeout_brings {m : Master} (hm : s.tbs.masters.find? (fun x => s.tbs.master == some x.port) = some m)
    (ht : m.at_ + 3 * logSec m.logInterval ≤ s.clock) : ∀ x ∈ s.ptpAnnTimeout.tbs.masters, x.port ≠ m.port := by
  have h : s.ptpAnnTimeout.tbs.masters = s.tbs.masters.filter (fun x => x.port != m.port) := by
    simp only [State.ptpAnnTimeout, hm, if_pos ht]
    rw [State.masters_qualChanged, State.masters_ptpSelect, State.wrB_eq, State.tbs_wr, State.tbs_tbsUpd]
  intro x hx
  rw [h] at hx
  exact bne_iff_ne.1 (List.mem_filter.1 hx).2

theorem State.ptpSyncTimeout_brings {t0 : Nat} (hl : s.tbs.lastFollow = some t0)
    (ht : t0 + 4 * logSec s.tbs.syncLog ≤ s.clock) : s.ptpSyncTimeout.flag .tbs_PTP_QUAL = false ∧
      s.ptpSyncTimeout.tbs.ptpRun = 0 ∧ s.ptpSyncTimeout.tbs.lastFollow = none := by
  simp only [State.ptpSyncTimeout, hl, if_pos ht]
  set s1 := s.tbsUpd _
  have hq (y : State) : Keeps [] [.tbs_PTP_QUAL] y y.qualChanged := State.rest_qualChanged Foot.but_may
  have hu : (s1.wrB .tbs_PTP_QUAL 0 false).qualChanged.tbs.unchosen = s1.tbs.unchosen := by
    rw [State.unchosen_qualChanged, State.wrB_eq, State.tbs_wr]
  exact ⟨((hq _).flag (by decide) 0).trans (State.flag_wrB _ _ _ rfl rfl), congrArg Tbs.ptpRun hu, congrArg Tbs.lastFollow hu⟩

end Sys2Proof.Machine
end

open Sys2Proof Sys2Proof.Machine Sys2Proof.Safety in
/-- Settles O18: each command runs its operation at its own time, and what the operation brings is said above. -/
theorem timeTransferCommandsComplete : Obligations.TimeTransferCommandsComplete := by
  intro s t ha
  have hle {n : Nat} (hn : n ≤ t) : n ≤ (s.at t).clock := by
    rw [State.clock_at]
    exact le_max_of_le_right hn
  refine ⟨fun l hon hd => ?_, fun l hd => ?_, fun l j c hon _ => ?_, fun l t0 hl ht => ?_, fun h a hon hd => ?_,
    fun h a hon hd => ?_, fun h hon hd hm => ?_, fun h hon => ?_, fun h t1 t2 c hon hd hm hs => ?_,
    fun hen hl hf hdue => ?_, fun t0 k hat hk ht => ?_, fun h t4 x t3 hon hd hm hf hq _ => ?_, fun m hm ht => ?_,
    fun t0 hl ht => ?_⟩
  · have hon' : ((s.at t).clapOn l && (s.at t).clapDue l) = true := by
      rw [hd]
      exact (Bool.and_true _).trans hon
    refine brings_on rfl ha ?_
    rw [if_pos hon']
    exact State.clapTx_brings (s := s.at t) _
  · have hoff : ¬ ((s.at t).clapOn l && (s.at t).clapDue l) = true := by
      have h : (s.at t).clapOn l = s.clapOn l := rfl
      rcases hd with hd | hd <;> simp [h, hd]
    refine brings_on rfl ha ?_
    rw [if_neg hoff]
    exact ⟨rfl, rfl⟩
  · refine brings_on rfl ha ?_
    have hon' : (s.at t).clapOn l = true := hon
    rw [if_pos hon']
    exact ClapSt.told_eq_iff.1 ((State.told_of_heard State.lasts_afterStep.heard).trans (State.told_clapRx (s := s.at t) j c))
  · exact brings_on (f := (State.clapTimeout · l)) rfl ha (State.clapTimeout_brings (s := s.at t) hl (hle ht))
  · exact brings_on (f := (State.ptpAnnounce · h a)) rfl ha (State.ptpAnnounce_taken (s := s.at t) hon hd)
  · exact brings_on (f := (State.ptpAnnounce · h a)) rfl ha (State.ptpAnnounce_discarded (s := s.at t) hon hd)
  · exact brings_on (f := (State.ptpSync · h true)) rfl ha (State.ptpSync_taken (s := s.at t) hon hd hm)
  · have he : (s.at t).ptpSync h false = (s.at t).ptpDisc := State.ptpSync_oneStep hon
    obtain ⟨hb, hc⟩ := State.ptpDisc_brings (s := s.at t)
    refine brings_on rfl ha ?_
    rw [he]
    exact ⟨congrArg Tbs.sync hb, hc⟩
  · exact brings_on (f := (State.ptpFollow · h t1)) rfl ha (State.ptpFollow_taken (s := s.at t) hon hd hm hs)
  · have hdue' (t0 : Nat) (k : Int) (h0 : s.tbs.delayAt = some t0) (hk : s.tbs.delayLog = some k) := hle (hdue t0 k h0 hk)
    exact brings_on rfl ha (State.ptpDelayReq_sent (s := s.at t) hen ⟨State.alive_at t hl.1, hl.2⟩ hf hdue')
  · have he : (s.at t).ptpDelayReq = s.at t := State.ptpDelayReq_early hat hk ht
    refine brings_on rfl ha ?_
    rw [he]
    exact ⟨rfl, rfl⟩
  · exact brings_on rfl ha (State.ptpDelayResp_brings (s := s.at t) hon hd hm hf hq)
  · exact brings_on rfl ha (State.ptpAnnTimeout_brings (s := s.at t) hm (hle ht))
  · exact brings_on rfl ha (State.ptpSyncTimeout_brings (s := s.at t) hl (hle ht))
